-- ==== Sys2Proof/Word.lean ====
section
/-! DEFINITION. The byte and word types of the module and the sparse table type `KMap` in which memories,
registers and per-unit structures are held (scope file, Numbers, units and bits: multi-byte values are little-endian). -/

namespace Sys2Proof

/-- One byte of a memory, a message or a frame. -/
abbrev Byte := BitVec 8

/-- A 32-bit register word (R6). -/
abbrev W32 := BitVec 32

/-- A sparse table: pairs of a key and a value, keys strictly rising, where an unlisted key has the table's default. -/
abbrev KMap (α : Type) := List (Nat × α)

end Sys2Proof
end

