-- ==== Sys2Proof/Config.lean ====
section
/-! DEFINITION. What an implementation fixes and the free values: each opaque constant stands for a value the spec leaves
open, applied to the state's counter of free values or to the operands it depends on; nothing can evaluate it. -/

namespace Sys2Proof.Config

/-- A fresh open value, as a natural number that its user cuts to the width concerned. -/
opaque freeNat : Nat → Nat

/-- RAAIMT of the DRAM devices' mode registers (R334). -/
opaque raaimt : Nat

/-- RELEASE of the lighthouse image that the factory programs into slot A (R497). -/
opaque factoryRelease : Nat

/-- ROLLBACK of that image (R486). -/
opaque factoryRollback : Nat

end Sys2Proof.Config
end

