-- ==== Sys2Proof/Machine/KMap.lean ====
section
/-! DEFINITION. Reading and writing sparse tables, bit fields of numbers, and little-endian byte strings. Every memory,
register and per-unit table of the model goes through these operations. -/

namespace Sys2Proof

/-- The value at key `k`, or the default `d` when `k` is not listed. -/
def KMap.get {α : Type} : KMap α → Nat → α → α
  | [], _, d => d
  | (a, v) :: m, k, d => if a = k then v else KMap.get m k d

/-- Puts `v` at key `k`, keeping the keys in rising order. -/
def KMap.insert {α : Type} : KMap α → Nat → α → KMap α
  | [], k, v => [(k, v)]
  | (a, w) :: m, k, v =>
    if k < a then (k, v) :: (a, w) :: m
    else if a = k then (k, v) :: m
    else (a, w) :: KMap.insert m k v

/-- Removes key `k`. -/
def KMap.erase {α : Type} : KMap α → Nat → KMap α
  | [], _ => []
  | (a, w) :: m, k => if a = k then KMap.erase m k else (a, w) :: KMap.erase m k

/-- The table with `v` at `k`; writing the default `d` removes the entry, so that equal tables are equal lists. -/
def KMap.set {α : Type} [DecidableEq α] (m : KMap α) (k : Nat) (v d : α) : KMap α :=
  if v = d then KMap.erase m k else KMap.insert m k v

/-- Whether `k` is listed. -/
def KMap.has {α : Type} (m : KMap α) (k : Nat) : Bool := m.any fun p => p.1 == k

/-- The canonical form of a table with default `d`: keys strictly rising and no default entry. -/
def KMap.wf {α : Type} [DecidableEq α] (d : α) : KMap α → Bool
  | [] => true
  | [(_, v)] => decide (v ≠ d)
  | (a, v) :: (b, w) :: m => decide (a < b) && decide (v ≠ d) && KMap.wf d ((b, w) :: m)

/-- Bits `[lo + w - 1 : lo]` of `v`. -/
def bits (v lo w : Nat) : Nat := v / 2 ^ lo % 2 ^ w

/-- Bit `i` of `v`. -/
def bit (v i : Nat) : Bool := v / 2 ^ i % 2 == 1

/-- `1` for true, `0` for false. -/
def b2n (b : Bool) : Nat := if b then 1 else 0

/-- The two's complement reading of the low `w` bits of `v`. -/
def sext (w v : Nat) : Int :=
  let u := v % 2 ^ w
  if u < 2 ^ (w - 1) then (u : Int) else (u : Int) - (2 ^ w : Nat)

/-- The low `w` bits of an integer's two's complement. -/
def toBits (w : Nat) (v : Int) : Nat := (v % ((2 ^ w : Nat) : Int)).toNat

/-- The number a little-endian byte string spells. -/
def leNat : List Byte → Nat
  | [] => 0
  | b :: l => b.toNat + 256 * leNat l

/-- The `n` low bytes of `v`, least significant first. -/
def natLE : Nat → Nat → List Byte
  | 0, _ => []
  | n + 1, v => BitVec.ofNat 8 v :: natLE n (v / 256)

/-- The number a big-endian byte string spells (the Ethernet, IEEE 802.1 and RTP headers). -/
def beNat (l : List Byte) : Nat := l.foldl (fun a b => a * 256 + b.toNat) 0

/-- The `n` low bytes of `v`, most significant first. -/
def natBE (n v : Nat) : List Byte := (natLE n v).reverse

/-- Bytes `[o, o + n)` of a string, short where the string ends. -/
def slice {α : Type} (l : List α) (o n : Nat) : List α := (l.drop o).take n

/-- The little-endian number in bytes `[o, o + n)` of a string. -/
def leAt (l : List Byte) (o n : Nat) : Nat := leNat (slice l o n)

/-- Replaces bytes `[o, o + n)` of a string by the `n` bytes of `v`. -/
def patch {α : Type} (l : List α) (o : Nat) (v : List α) : List α :=
  l.take o ++ v ++ l.drop (o + v.length)

/-- `n` zero bytes. -/
def zeros (n : Nat) : List Byte := List.replicate n 0#8

/-- The string cut or zero-filled to exactly `n` bytes. -/
def fitTo (n : Nat) (l : List Byte) : List Byte := l.take n ++ zeros (n - l.length)

/-- A string cut into blocks of `n`, on fuel (the number of blocks). -/
def chunks {α : Type} (n : Nat) : Nat → List α → List (List α)
  | 0, _ => []
  | k + 1, l => l.take n :: chunks n k (l.drop n)

/-- The smallest integer at or above `a / b`. -/
def ceilDiv (a b : Nat) : Nat := if b = 0 then 0 else (a + b - 1) / b

/-- `n` bytes of a byte memory from `a` up; an unlisted byte reads as 0. -/
def KMap.bytes (m : KMap Byte) : Nat → Nat → List Byte
  | _, 0 => []
  | a, n + 1 => m.get a 0#8 :: KMap.bytes m (a + 1) n

/-- A byte memory with the string `l` stored from `a` up. -/
def KMap.store (m : KMap Byte) : Nat → List Byte → KMap Byte
  | _, [] => m
  | a, b :: l => KMap.store (m.set a b 0#8) (a + 1) l

/-- A table with the `n` keys from `dst` made equal to the `n` keys from `src` (default `d`). -/
def KMap.copy {α : Type} [DecidableEq α] (m : KMap α) (src dst n : Nat) (d : α) : KMap α :=
  let part := m.filter fun e => decide (src ≤ e.1 ∧ e.1 < src + n)
  let rest := m.filter fun e => decide (e.1 < dst ∨ dst + n ≤ e.1)
  part.foldl (fun r e => r.set (e.1 - src + dst) e.2 d) rest

/-- A table without its keys from `a` to `a + n - 1`. -/
def KMap.clear {α : Type} (m : KMap α) (a n : Nat) : KMap α :=
  m.filter fun e => decide (e.1 < a ∨ a + n ≤ e.1)

end Sys2Proof
end

