-- ==== Sys2Proof/Machine/Types.lean ====
section
/-! DEFINITION. The structures the state is built of, chapter by chapter. Every field is plain data, and every default is
the value after a power-on reset of a module from the factory (the log names those the spec does not give). -/

namespace Sys2Proof.Machine

/-- Tide stamp (R45). -/
structure Stamp where
  time : Nat := 0
  tide : Nat := 0
  module : Nat := 0xFF
  flags : Nat := 0
deriving DecidableEq, Repr

/-- What the module sends or drives out, in the order it happens: pulses, frames, interrupts, messages. An observation
list of the model's own; nothing in the machine reads it. -/
inductive Out where
  | tick
  | wclkOut
  | wclkOuts (edges : Nat)
  | ppsOut
  | msix (vector : Nat)
  | frame (port : Nat) (bytes : List Byte)
  | badFrame (port : Nat) (bytes : List Byte)
  | rtp (port stream seq time : Nat) (tag : Option Nat) (payload : List Byte)
  | topReply (iface : Nat) (requester : List Byte) (bytes : List Byte)
  | streamOut (stream : Nat) (status : Nat) (tide : Nat)
  | audio (port slot : Nat) (word : Nat)
  | hostWrite (addr : Nat) (bytes : List Byte)
  | relay (bypass : Bool)
  | alert (asserted : Bool)
  | tdo (code : Nat)
deriving DecidableEq, Repr

/-- How a bus request completed: with data, or with Unsupported Request (R6, R29); `nack`: an SMBus transfer refused. -/
inductive Reply where
  | none
  | ok (data : Nat)
  | bytes (l : List Byte)
  | poison (l : List Byte)
  | ur
  | nack
deriving DecidableEq, Repr

/-- Factory values: fuses, OTP and identity (R4, R5, R451, R487, R534). -/
structure Factory where
  /-- 0: FV3280-96T2, 1: FV3280-48T1 (R4). -/
  variant : Nat := 0
  /-- 0: grade C, 1: grade I. -/
  grade : Nat := 0
  serial : Nat := 0
  serialText : List Byte := [0x30#8]
  mac : Nat := 0
  /-- Level-2 fuse blown (R491). -/
  level2 : Bool := false
  /-- OTP rollback counters: lighthouse and compute (R487). -/
  rollLh : Nat := 0
  rollCd : Nat := 0
  /-- OTP hash of the root key, and of the owner key once fused (R486). -/
  rootHash : List Byte := []
  ownerHash : Option (List Byte) := none
  /-- Retired embedded-flash sectors mapped by the remap fuses: code and data (R481). -/
  remapCode : List Nat := []
  remapData : List Nat := []
deriving DecidableEq, Repr

/-- The bus side of R7: latched high words and held low words, keyed by requester and offset. -/
structure Bus where
  latch : KMap Nat := []
  held : KMap Nat := []
deriving DecidableEq, Repr

/-- The tide generator and device time (R32 to R58), beside its registers. -/
structure Tide where
  /-- Tides run (boundaries occur). -/
  running : Bool := false
  /-- The tide number has been given by the first boundary since RUN was set (R44). -/
  numbered : Bool := false
  /-- Applied origin; `TIME.ORIGIN` holds the staged one (R56). -/
  origin : Nat := 0
  /-- Schedule index of the current boundary in GPTP and FREE mode (R35). -/
  k : Int := 0
  /-- Start of the current tide on the present device-time scale (`TIDE.BTIME`, moved by later steps). -/
  start : Int := 0
  /-- Consecutive accepted edges since the count began (R34). -/
  good : Nat := 0
  /-- Consecutive edges outside the tolerance while LOCKED (R34). -/
  bad : Nat := 0
  /-- Device time of the last WCLK_IN edge since the count began. -/
  lastEdge : Option Int := none
  /-- The last accepted edge intervals, newest first, at most 64 (R34). -/
  intervals : List Nat := []
  /-- Intervals of the count under way, newest first; they become `intervals` when WCLK_IN is accepted (R34). -/
  cand : List Nat := []
  /-- Device time owed in units of 10⁻⁹ ns: what the rate correction left over (R40). -/
  frac : Nat := 0
  /-- Edges since the last frame edge, once frame edges are selected (R33). -/
  frameCount : Option Nat := none
  /-- Frame edge whose boundary is due 250 ns later (R33). -/
  frameEdge : Option Int := none
  /-- A re-phase is in progress (R37). -/
  rephase : Bool := false
  /-- The long tide in progress is that of an applied change (no REPHASE event at its end, R58). -/
  applied : Bool := false
  /-- Boundaries still to come whose outputs play zero samples (R58). -/
  mute : Nat := 0
  /-- `TIME.SYNC.VALID` has been 1 since RUN was set (R35). -/
  everValid : Bool := false
  /-- Device time has been locked to a source since the compute-die reset (R39, R40). -/
  locked : Bool := false
  /-- `TIME.PPS_SET` has been written and not yet loaded (R41). -/
  ppsArmed : Bool := false
  /-- Rate correction of device time in parts per billion (R40). -/
  rate : Int := 0
deriving DecidableEq, Repr

/-- A fault record (R517). -/
structure FaultRec where
  tide : Nat := 0
  terr : Nat := 0
  pos : Nat := 0
  code : Nat := 0
  flags : Nat := 0
  cycle : Nat := 0
  loc : Nat := 0
deriving DecidableEq, Repr

/-- The host core's record of a station (R501 to R507). -/
structure StnRec where
  /-- Tides that counted, newest first (R501, R502). -/
  tides : List Nat := []
  /-- Located counting faults of this start-up: tide, physical row, physical column (63: none) (R506). -/
  locs : List (Nat × Nat × Nat) := []
  /-- Every counting fault so far was located by the checksum (R505). -/
  allLocated : Bool := true
deriving DecidableEq, Repr

/-- A row and the tides in which one of its words was corrected, or a row that returned an uncorrectable word (R507).
`mem` 0 to 2 as `INT.SREP`, 3 a terrace store. -/
structure RowRec where
  terr : Nat := 0
  pos : Nat := 0
  mem : Nat := 0
  row : Nat := 0
  tides : List Nat := []
  unc : Bool := false
deriving DecidableEq, Repr

/-- The integrity block and the host core's station records. -/
structure Integ where
  fq : List FaultRec := []
  recs : KMap StnRec := []
  rows : List RowRec := []
  /-- Repair rows in use: (terrace, position, memory, bank, spare) and the row index they replace (R507). -/
  srep : List ((Nat × Nat × Nat × Nat × Nat) × Nat) := []
  /-- Terrace-store rows left unrepaired, recorded with SPARE 0xF (R508). -/
  noSpare : List (Nat × Nat) := []
deriving DecidableEq, Repr

/-- A lifetime log entry (R515). -/
structure LogEnt where
  stamp : Stamp := {}
  seq : Nat := 0
  code : Nat := 0
  status : Nat := 0
  src : Nat := 0
  wher : Nat := 0xFFFF
  count : Nat := 1
  arg : Nat := 0
deriving DecidableEq, Repr

/-- The lifetime log: the always-on buffer, the token bucket and the array's sectors, oldest first (R515). -/
structure LogSt where
  nextSeq : Nat := 0
  buf : List LogEnt := []
  tokens : Nat := 256
  sectors : List (List LogEnt) := []
  /-- Entries dropped since the last DROPPED entry. -/
  dropped : Nat := 0
deriving DecidableEq, Repr

/-- Lifetime counters 0xA000 to 0xA014 by number, histogram bins by number (part order of R515), and the SAT flags. -/
structure Life where
  counts : KMap Nat := []
  bins : KMap Nat := []
  sat : Nat := 0
deriving DecidableEq, Repr

/-- An object request in the lighthouse core's queue: interface 0 Ethernet, 1 UDP, 2 mailbox, 3 management port; the
requester as R440 names it; the port it came in on; the message. -/
structure ObjReq where
  iface : Nat := 0
  requester : List Byte := []
  port : Nat := 0
  msg : List Byte := []
deriving DecidableEq, Repr

/-- A stored reply (R440). -/
structure CachedReply where
  requester : List Byte := []
  seq : Nat := 0
  time : Nat := 0
  reply : List Byte := []
deriving DecidableEq, Repr

/-- A segmented write in progress (R438). -/
structure SegWrite where
  iface : Nat := 0
  requester : List Byte := []
  index : Nat := 0
  sub : Nat := 0
  total : Nat := 0
  data : List Byte := []
  time : Nat := 0
deriving DecidableEq, Repr

/-- A value kept for a segmented read (R438). -/
structure SegRead where
  iface : Nat := 0
  requester : List Byte := []
  index : Nat := 0
  sub : Nat := 0
  value : List Byte := []
  time : Nat := 0
deriving DecidableEq, Repr

/-- A queued stamped write (R445). -/
structure Stamped where
  index : Nat := 0
  sub : Nat := 0
  target : Nat := 0
  value : List Byte := []
deriving DecidableEq, Repr

/-- A persistent commit in progress, whose reply waits for it (R447, R482); of a stream parameter, the stream's name, j and
TYPE (R442). -/
structure Commit where
  index : Nat := 0
  sub : Nat := 0
  value : List Byte := []
  req : ObjReq := {}
  reply : List Byte := []
  par : Option (List Byte × Nat × Nat) := none
deriving DecidableEq, Repr

/-- A write of a staged tide object, whose reply waits for the apply it armed or joined; the value staged before (R60). -/
structure TideWait where
  req : ObjReq := {}
  index : Nat := 0
  value : List Byte := []
  old : Nat := 0
deriving DecidableEq, Repr

/-- A persistent record: two copies in two sectors (R482). -/
structure PRec where
  index : Nat := 0
  sub : Nat := 0
  seq : Nat := 0
  value : List Byte := []
  /-- Sectors of the copies; 128: the copy is gone or invalid (R478, R482). -/
  sec0 : Nat := 0
  sec1 : Nat := 0
deriving DecidableEq, Repr

/-- One parameter of a parameter directory (R442). -/
structure Param where
  j : Nat := 0
  typ : Nat := 0
  rwp : Bool := false
  offset : Nat := 0
  dflt : List Byte := []
  value : List Byte := []
deriving DecidableEq, Repr

/-- The object dictionary's values and the lighthouse core's queues (R430 to R451). -/
structure Dict where
  /-- Values in force of RW and RWP objects, keyed by 256 * index + sub; an unlisted object has its default. -/
  vals : KMap (List Byte) := []
  queue : List ObjReq := []
  cache : List (Nat × CachedReply) := []
  segs : List SegWrite := []
  reads : List SegRead := []
  stamped : List Stamped := []
  /-- Persistent records of the data array, and the sequence number of the next (R482). -/
  precs : List PRec := []
  /-- Records that a newer one has taken the place of, while a copy is left in the array (R482, R483). -/
  old : List PRec := []
  /-- Persistent values of stream parameters: stream name, j, TYPE, value (R442). -/
  pparams : List (List Byte × Nat × Nat × List Byte) := []
  pseq : Nat := 1
  commits : List Commit := []
  /-- Units left of the persistent store (R448). -/
  budget : Nat := 2000000
  wornLogged : Bool := false
  lowPosted : Bool := false
  /-- The reply waiting on the management port (R441). -/
  smbReply : Option (List Byte) := none
  /-- ALERT_N is asserted for an event of the module (R441, R448, R531). -/
  alertEvent : Bool := false
  alertReply : Bool := false
  /-- Counts of object 0x1015: bad messages, full queue, bad PEC, timed-out segments (R451). -/
  stats : List Nat := [0, 0, 0, 0]
  /-- A warm reset asked for through object 0x2001 (R451). -/
  warmAsked : Bool := false
  /-- Object values that wait for the next tide boundary: index and value (R325, R350). -/
  later : List (Nat × Nat) := []
  /-- Tide objects whose apply is awaited (R60). -/
  waits : List TideWait := []
  /-- SMBus address in force (R451: 0x1014 takes effect at the next module reset). -/
  smbAddr : Nat := 0x5C
deriving DecidableEq, Repr

/-- An option record (R484); `begun`: a protection lowering has begun (R492). -/
structure OptRec where
  seq : Nat := 1
  level : Nat := 1
  slot : Nat := 0
  state : Nat := 0
deriving DecidableEq, Repr

/-- A lighthouse image slot. `factory`: the image the factory programmed, which passes its check and whose bytes the
spec does not give. -/
structure Slot where
  factory : Bool := false
  image : List Byte := []
deriving DecidableEq, Repr

/-- A key store entry (R493). -/
structure KeyEnt where
  id : Nat := 0
  minLevel : Nat := 0
  key : List Byte := []
deriving DecidableEq, Repr

/-- An operation on the code array: the erase of an image-slot sector (the last sector of the slot ends the step), the
program of chunk `i` of the slot being updated, the program of the option record that COMMIT writes. -/
inductive EfOp where
  | erase (sector : Nat)
  | chunk (i : Nat) (b : List Byte)
  | record (r : OptRec)
deriving DecidableEq, Repr

/-- Embedded flash, protection and keys (R476 to R497). -/
structure Eflash where
  opt : OptRec := {}
  lowering : Bool := false
  slotA : Slot := { factory := true }
  slotB : Slot := {}
  /-- Slot the lighthouse core runs from: 0 A, 1 B; `none`: neither passed, recovery state (R485). -/
  running : Option Nat := some 0
  keys : List KeyEnt := []
  /-- Keys held by the XTS engines (R495). -/
  engines : List KeyEnt := []
  /-- Update in progress and the next chunk in order (R488). -/
  upd : Bool := false
  updNext : Nat := 0
  stage : KMap Byte := []
  /-- Recovery: blocks of the next chunk that have arrived, next chunk, last status (R489). -/
  recBlocks : List (Nat × List Byte) := []
  recNext : Nat := 0
  recImage : List Byte := []
  recStatus : Nat := 0
  /-- The image whose slot is in state TRIAL has been started (R485). -/
  tried : Bool := false
  /-- A program or erase of the code array is in progress (R479, R488). -/
  op : Option EfOp := none
  /-- Deferred until the operation ends: 1 warm reset, 2 lighthouse restart (R490, R528). -/
  deferred : Option Nat := none
  /-- Erase counts of the sectors: code from 0, data from 4096 (R481, R483). -/
  erases : KMap Nat := []
  spareCode : Nat := 64
  spareData : Nat := 16
  /-- A data sector was retired with no spare left: the store has no usable sector (R481). -/
  dataGone : Bool := false
  /-- Bytes used of each data-array sector, and the sectors open for copies 0 and 1 (R482, R483). -/
  dsec : KMap Nat := []
  dopen : Nat × Nat := (0, 1)
  /-- Lines in the prefetch buffer, and in the branch cache with the last used first (R477). -/
  prefetch : List Nat := []
  branch : List Nat := []
  /-- Copies of the key store that are valid (R478, R493). -/
  keyCopies : Bool × Bool := (true, true)
deriving DecidableEq, Repr

/-- Pins, supplies and the causeway's stored energy (R425, R536 to R549). -/
structure Pins where
  v12 : Bool := true
  sb : Bool := true
  mrst : Bool := false
  pwrGood : Bool := true
  alert : Bool := false
  therm : Bool := false
  ppsOut : Bool := false
  /-- Instruction of the test access port (R549): 0 BYPASS, 1 IDCODE, 2 SAMPLE/PRELOAD, 3 EXTEST, 4 debug. -/
  tap : Nat := 1
  /-- A thermal shutdown is in force: 1 until the junction is below 95 C, then 2 until a start-up completes (R526, R527). -/
  thermal : Nat := 0
  /-- The control die runs (3V3_SB present and out of reset). -/
  control : Bool := true
  /-- The compute die is powered and out of reset. -/
  compute : Bool := true
  /-- The PCIe link is up. -/
  pcie : Bool := true
deriving DecidableEq, Repr

/-- A taken command entry of TARGET 0 (R463, R464): queue, then the 64 bytes. -/
structure Taken where
  q : Nat := 0
  entry : List Byte := []
deriving DecidableEq, Repr

/-- A queue pair's held completions and reserved places (R464). -/
structure QSt where
  /-- Completions not yet consumed by host software, oldest first. -/
  held : List (List Byte) := []
  reserved : Nat := 0
  target : Nat := 0
deriving DecidableEq, Repr

/-- A firmware image in the image store (R457): header fields the rules use. -/
structure FwImg where
  release : Nat := 0
  ifmaj : Nat := 0
  ifmin : Nat := 0
  feat : Nat := 0
  rollback : Nat := 0
  bytes : List Byte := []
deriving DecidableEq, Repr

/-- Firmware cores, host rings and interrupts (R452 to R475). -/
structure Fw where
  images : KMap (Option FwImg) := []
  /-- Restart times of each core on the control die's clock, newest first (R473). -/
  restarts : KMap (List Nat) := []
  eseq : Nat := 0
  evLost : Bool := false
  queues : KMap QSt := []
  taken : List Taken := []
  /-- MSI-X table words of BAR4, keyed by word index, and its pending bits (R26). An unlisted vector control word is 1,
  masked, every other 0. -/
  msix : KMap Nat := []
  pba : Nat := 0
  /-- The base address registers of the configuration header, without their type bits (R26). -/
  bars : KMap Nat := []
  /-- Version pair of the last negotiation made in START (R459). -/
  lastNeg : Nat × Nat := (0, 0)
  /-- A negotiation has completed OK since the last compute-die reset or function-level reset (R462). -/
  negOk : Bool := false
  /-- A recovery negotiation has completed OK since RECOVERY was entered (R459). -/
  recOk : Bool := false
  /-- Uptime of each core's last KICK (R470). -/
  kicks : KMap Nat := []
  /-- Completions that the host core writes once it has restarted: queue and 64 bytes (R472). -/
  late : List (Nat × List Byte) := []
deriving DecidableEq, Repr

end Sys2Proof.Machine
end

