-- ==== Sys2Proof/Machine/PoolTypes.lean ====
section
/-! DEFINITION. The structures of board memory and the shared pool (chapters 11 to 13), of the attention units and the
page store (chapter 9). -/

namespace Sys2Proof.Machine

/-- A DRAM error record (R339). -/
structure ElogRec where
  stamp : Stamp := {}
  typ : Nat := 0
  port : Nat := 0
  ch : Nat := 0
  rb : Nat := 0
  row : Nat := 0
  col : Nat := 0
  syn : Nat := 0
  count : Nat := 1
deriving DecidableEq, Repr

/-- The DRAM controller (R326 to R339): error FIFO, oldest first; rolling activation counts by bank; activations of this
32 us window and offenders by port and bank; corrected errors of each row in this start-up; when each channel was last
recalibrated; the training results. -/
structure DramSt where
  elog : List ElogRec := []
  raa : KMap Nat := []
  acts : KMap Nat := []
  offenders : List Nat := []
  ce : KMap Nat := []
  recal : KMap Nat := []
  results : Bool := false
  /-- The start-up after a power-on or module reset has not trained the DRAM yet: post-package repair is due (R338). -/
  fresh : Bool := true
deriving DecidableEq, Repr

/-- A pool page of a client (R305 to R313): what it holds, its tier 1 page (internal address / 65536) and its place in
tier 2, page CRC, age. `ver` is the layer version; a page of a capture job has layer 0xFFF, and its place in tier 1 is always
page `idx`. -/
structure PageRec where
  client : Nat := 0
  layer : Nat := 0xFFF
  ver : Nat := 0
  idx : Nat := 0
  t1 : Option Nat := none
  t2 : Option Nat := none
  crc : Nat := 0
  age : Nat := 0
  acc : Bool := false
  /-- Kept in a protected region of DRAM (R286). -/
  prot : Bool := false
  /-- A promotion is filling it; a write-back is under way; an eviction waits for that write-back. -/
  prom : Bool := false
  wb : Bool := false
  bad : Bool := false
  /-- Marked BAD, or cleared, from the next boundary (R321, R322). -/
  badNext : Option Bool := none
deriving DecidableEq, Repr

/-- A stored layer (R272 to R286). -/
structure Layer where
  layer : Nat := 0
  ver : Nat := 0
  keyid : Nat := 0
  kind : Nat := 0
  wfmt : Nat := 0
  grp : Nat := 0
  form : Nat := 0
  tab : Bool := false
  k : Nat := 0
  n : Nat := 0
  blkbase : Nat := 0
  nslot : Nat := 0
  nscale : Nat := 0
  /-- Directory: for each region SKIND, SIZE, offset in the layer's stored image, SCRC, XCRC, BLK. -/
  dir : List (Nat × Nat × Nat × Nat × Nat × Nat) := []
  /-- Offsets in the stored image of the TABLE4 row and of scale row 0 (the codebook block lies at 0), and its length. -/
  tabOff : Nat := 0
  scaleOff : Nat := 0
  length : Nat := 0
  /-- Pages of its protected part, ahead of the slots (R286). -/
  head : Nat := 0
  poisoned : Bool := false
  /-- Regions rejected once and not accepted since (R293). -/
  rejected : List Nat := []
deriving DecidableEq, Repr

/-- A stored model, or an adapter version (R271, R300). -/
structure Model where
  handle : Nat := 0
  client : Nat := 3
  modelId : Nat := 0
  keyid : Nat := 0
  name : List Byte := []
  /-- Adapter entry, if the layers are an adapter's. -/
  adp : Option Nat := none
  layers : List Layer := []
deriving DecidableEq, Repr

/-- A layer binding of a placed set (R287, R466). -/
structure Binding where
  t : Nat := 0
  p : Nat := 0
  desc : Nat := 0
  resident : Bool := false
  model : Nat := 0
  layer : Nat := 0
  slot0 : Nat := 0
  nreg : Nat := 0
  tidx : Nat := 0
  tn : Nat := 1
  sring : Nat := 2
  /-- Layer version in use, switched at a barrier (R296). -/
  ver : Nat := 0
deriving DecidableEq, Repr

/-- The NAND: pages written by physical place (stripe, superblock, page, die), what is known of blocks and dies. -/
structure NandSt where
  data : KMap (List Byte) := []
  /-- Open stripe row, by stripe: superblock, page, data pages written (their dies and contents, newest first). -/
  opened : KMap (Option (Nat × Nat × List Nat)) := []
  /-- Erase counts by superblock (stripe * 1024 + k), spare blocks used by plane (die * 4 + plane), superblocks written. -/
  erases : KMap Nat := []
  spares : KMap Nat := []
  written : List Nat := []
  /-- Reads since the last erase and successful retry entry by block (die * 1024 + k); blocks queued for relocation. -/
  reads : KMap Nat := []
  retry : KMap Nat := []
  reloc : List Nat := []
  /-- Consecutive failed operations by die. -/
  fails : KMap Nat := []
  grown : List Nat := []
  /-- When each written block (die * 1024 + k) was last patrolled. -/
  patrol : KMap Nat := []
deriving DecidableEq, Repr

/-- The pool (R306 to R323). -/
structure Pool where
  pages : List PageRec := []
  models : List Model := []
  nextHandle : Nat := 1
  /-- Pages to promote, in the order accepted: (client, layer, version, index). -/
  queue : List (Nat × Nat × Nat × Nat) := []
  retired : List Nat := []
  /-- Runs of tier 1 pages that clients 0 and 1 hold as areas: client, first page, pages (R308, R461, R219). -/
  areas : List (Nat × Nat × Nat) := []
  /-- Tides since the last age tick; an eviction run down to the low-water mark is under way (R312). -/
  ageTides : Nat := 0
  evicting : Bool := false
deriving DecidableEq, Repr

/-- A look-aside entry (R221). -/
structure LabEnt where
  seq : Nat := 0
  gen : Nat := 0
  track : Nat := 0
  lp : Nat := 0
  ppn : Nat := 0
  sppn : Nat := 0
deriving DecidableEq, Repr

/-- An attention unit beside its registers: look-aside buffer, newest first; every entry of the running job has ended. -/
structure Att where
  lab : List LabEnt := []
  fin : Bool := false
deriving DecidableEq, Repr

/-- The page store beside its registers and tables (R235, R240): the free list's ends, pins by step (pass number, sequence,
page), and the entries the units reported as not OK: step, sequence, status (R258). -/
structure Ps where
  head : Nat := 0
  tail : Nat := 0
  pins : List (Nat × Nat × Nat) := []
  reports : List (Nat × Nat × Nat) := []
deriving DecidableEq, Repr

/-- A DMA channel's descriptor in progress (R351 to R363): its 64 bytes, whether its reads have started, the stream bytes
written, the holding register's bytes, the half interrupt raised, the entries a gather copies (place, index), in panic (R333),
bytes read ahead. -/
structure DmaCh where
  active : Bool := false
  running : Bool := false
  desc : List Byte := []
  done : Nat := 0
  hold : List Byte := []
  half : Bool := false
  list : List (Nat × Nat) := []
  panic : Bool := false
  ahead : Nat := 4096
deriving DecidableEq, Repr

/-- The DMA engines: channels, and the terrace flags that ended tide-bound descriptors set at a boundary: tide, terrace,
flag (R360). -/
structure DmaSt where
  chs : KMap DmaCh := []
  flags : List (Nat × Nat × Nat) := []
deriving DecidableEq, Repr

end Sys2Proof.Machine
end

