-- ==== Sys2Proof/Machine/PortTypes.lean ====
section
/-! DEFINITION. The structures of the vision ports and pipelines (chapter 15), of the audio ports (chapter 16) and of the ring
(chapter 17), beside their registers. -/

namespace Sys2Proof.Machine

/-- The settings of a port and its context that a frame takes at its start (R378). -/
structure VCfg where
  w : Nat := 0
  h : Nat := 0
  fmt : Nat := 0
  phase : Nat := 0
  lchk : Bool := false
  mx0 : Nat := 0
  my0 : Nat := 0
  mcw : Nat := 0
  mch : Nat := 0
  mow : Nat := 0
  moh : Nat := 0
  oc3 : Bool := false
  ofmt : Nat := 0
  dx0 : Nat := 0
  dy0 : Nat := 0
  dcw : Nat := 0
  dch : Nat := 0
  dow : Nat := 0
  doh : Nat := 0
  den : Bool := false
  cen : Bool := false
  nbuf : Nat := 1
  dbase : Nat := 0
  cbase : Nat := 0
deriving DecidableEq, Repr

/-- A line of a frame: 16-bit codes, or the ring address in board DRAM where they stand (R384). -/
structure VLine where
  data : List Nat := []
  ring : Option Nat := none
deriving DecidableEq, Repr

/-- A frame (R368 to R370, R378, R381): number, settings, parameter set, stamp and end time, lines, counts and marks, lines
that pipeline 0 has read (R385). -/
structure VFrame where
  num : Nat := 0
  cfg : VCfg := {}
  pset : Option (List Byte) := none
  stamp : List Byte := []
  tend : Nat := 0
  lines : List VLine := []
  recv : Nat := 0
  chk : Nat := 0
  short : Bool := false
  long : Bool := false
  check : Bool := false
  psetBad : Bool := false
  ended : Bool := false
  served : Nat := 0
deriving DecidableEq, Repr

/-- A vision port: the open frame; after an early end, pixels are ignored until VSYNC goes inactive (R369); next line of the
raw ring. -/
structure VPort where
  frame : Option VFrame := none
  ignoring : Bool := false
  ring : Nat := 0
deriving DecidableEq, Repr

/-- The newest complete tensor of a context (R380 to R382): its record from byte 0, rows, buffer, whether it has been
published, and published as fresh. -/
structure VTensor where
  stamp : List Byte := []
  tail : List Byte := []
  marks : Nat := 0
  rows : List Byte := []
  buf : Nat := 0
  published : Bool := false
  fresh : Bool := true
deriving DecidableEq, Repr

/-- A delivery in force (R380): mode, station, record and data entries, first buffer row. -/
structure Dlv where
  mode : Nat := 0
  t : Nat := 0
  p : Nat := 0
  rslot : Nat := 0
  dslot : Nat := 0
  trow : Nat := 0
deriving DecidableEq, Repr

/-- A context: last accepted parameter set, next frame number, frames that wait for completion, newest tensor, delivery in
force, buffers named by the records of this tide and of the next, a superseded frame, whether the last record was fresh. -/
structure VCtx where
  pset : Option (List Byte) := none
  next : Nat := 0
  queue : List VFrame := []
  newest : Option VTensor := none
  dlv : Dlv := {}
  held : Option Nat := none
  nextHeld : Option Nat := none
  skipped : Bool := false
  lastFresh : Bool := false
deriving DecidableEq, Repr

/-- The vision block; `last` is the context that pipeline 0 served last, `muxNext` a MUX write from its object (R388). -/
structure Vin where
  ports : KMap VPort := []
  ctxs : KMap VCtx := []
  last : Nat := 3
  muxNext : Option Nat := none
deriving DecidableEq, Repr

/-- A binding of an audio port in force (R393, R398): use, station, first entry, record pair, first slot, channels. -/
structure AudBind where
  en : Bool := false
  t : Nat := 0
  p : Nat := 0
  slot : Nat := 0
  rslot : Nat := 63
  ch0 : Nat := 0
  nch : Nat := 1
deriving DecidableEq, Repr

/-- An input port: runs, word length, bindings in force; whole frames of this tide and of the next, samples of the next
tide's frames (slot, frame, word), the stamps of the first frames, the clock was lost in the tide. -/
structure AudIn where
  on : Bool := false
  wl : Nat := 24
  binds : List AudBind := []
  cnt : Nat := 0
  ncnt : Nat := 0
  carry : List (Nat × Nat × Nat) := []
  stamp : Option (List Byte) := none
  nstamp : Option (List Byte) := none
  lost : Bool := false
deriving DecidableEq, Repr

/-- An output port: bindings in force; the words to play in this tide and in the next, by frame, for the binding's slots
from `ch0`. -/
structure AudOut where
  on : Bool := false
  wl : Nat := 24
  main : AudBind := {}
  fb : AudBind := {}
  play : Option (Nat × List (List Nat)) := none
  next : Option (Nat × List (List Nat)) := none
deriving DecidableEq, Repr

/-- The audio block: the ports run; samples of a tide; frame-sync edges of this tide and of the next; outputs wait for a
boundary after a loss of clock (R400); writes from objects (word offset, value) that wait for the boundary (R403). -/
structure Aud where
  on : Bool := false
  n : Nat := 0
  afs : Nat := 0
  nafs : Nat := 0
  wait : Bool := false
  ins : KMap AudIn := []
  outs : KMap AudOut := []
  pend : List (Nat × Nat) := []
deriving DecidableEq, Repr

/-- A frame received on a ring port and delivered, from its destination address to before its FCS, with its port and the
device time of its last byte (R407, R419). -/
structure RxFrame where
  port : Nat := 0
  time : Nat := 0
  bytes : List Byte := []
deriving DecidableEq, Repr

/-- A member of the ring as its beacons give it (R408, R469): index, MAC, HOPS of its last arrival on each port with the
tides since, tides since any; period, TSET, loads out of port A and B (direct, long), whether a load rose in this tide. -/
structure Claim where
  idx : Nat := 0
  mac : Nat := 0
  a : Option (Nat × Nat) := none
  b : Option (Nat × Nat) := none
  age : Nat := 0
  period : Nat := 0
  tset : Nat := 0
  direct : Nat × Nat := (0, 0)
  long : Nat × Nat := (0, 0)
  rose : Bool := false
deriving DecidableEq, Repr

/-- A window beside its registers (R414 to R420). Receive side: frames accepted for the coming tide, a VOID among them, the
stamp of the first, the tide in which a CLOSED was last sent. Send side: target tide of the latest GRANT, its credits and
its source; stopped by CLOSED; boundaries since a GRANT and whether that was posted; the tide just ended must be VOID. -/
structure WinSt where
  acc : List Nat := []
  gotVoid : Bool := false
  stamp : Option (List Byte) := none
  closedIn : Option Nat := none
  tgt : Nat := 0
  credits : Nat := 0
  mac : Nat := 0
  stopped : Bool := false
  noGrant : Nat := 0
  posted : Bool := false
  voided : Bool := false
deriving DecidableEq, Repr

/-- An AES67 stream (R423, R424). Received: samples that wait for their tide (tide, frame, channel, word), the R-TAG
sequences last seen. Sent: frames that wait (media clock, words), next RTP sequence number. -/
structure AesSt where
  wait : List (Nat × Nat × Nat × Nat) := []
  hist : List Nat := []
  stamp : Option (List Byte) := none
  out : List (Nat × List Nat) := []
  seq : Option Nat := none
deriving DecidableEq, Repr

/-- The ring block (chapter 17): delivered frames not yet handled; members; the module's own beacon came back in this tide;
windows; AES67 descriptors in force and their streams; the watchdog of R425 has expired and holds the bypass; object writes
that wait for the boundary (R429). -/
structure Ring where
  inbox : List RxFrame := []
  claims : List Claim := []
  ownSeen : Bool := false
  wins : KMap WinSt := []
  descs : KMap (List Byte) := []
  aes : KMap AesSt := []
  watchdog : Bool := false
  pend : List (Nat × Nat × List Byte) := []
deriving DecidableEq, Repr

end Sys2Proof.Machine
end

