-- ==== Sys2Proof/Machine/Fields.lean ====
section
/-! DEFINITION. What a register field is: its place, width, access code (R9), reset value and legal encodings (R8). -/

namespace Sys2Proof.Machine

/-- The access codes of R9. RWS has no field in the manual's tables; RSV bits are the bits no field covers. -/
inductive Acc where
  | ro | rw | wo | w1c | rc
deriving DecidableEq, Repr

/-- Which encodings a field takes (R8): a reserved one keeps the field's previous value. -/
inductive Legal where
  | any
  | range (lo hi : Nat)
  | align (n : Nat)
  | oneOf (l : List Nat)
  | step (lo hi m : Nat)
deriving DecidableEq, Repr

/-- A register field: BAR0 offset of its word, lowest bit, width, access, reset value, legal encodings. A field wider
than 32 bits is a register pair (R7) homed at the low word's offset. -/
structure Fld where
  off : Nat
  lo : Nat
  w : Nat
  acc : Acc
  rst : Nat
  legal : Legal
deriving DecidableEq, Repr

/-- The key of a field in the register table. -/
def Fld.key (f : Fld) : Nat := f.off * 32 + f.lo

/-- Field `f` moved to element `i` of its array. -/
def Fld.at (f : Fld) (stride i : Nat) : Fld := { f with off := f.off + stride * i }

/-- Whether `v` is a legal encoding (R8). An aligned field takes every value; its low bits are RSV. -/
def Legal.ok : Legal → Nat → Bool
  | .any, _ => true
  | .range a b, v => decide (a ≤ v ∧ v ≤ b)
  | .align _, _ => true
  | .oneOf l, v => l.contains v
  | .step a b m, v => decide (a ≤ v ∧ v ≤ b ∧ v % m = 0)

/-- What a write of `v` leaves in a writable field that held `old` (R8; RSV low bits of an aligned field read 0). -/
def Fld.take (f : Fld) (old v : Nat) : Nat :=
  let u := v % 2 ^ f.w
  match f.legal with
  | .align n => u / 2 ^ n * 2 ^ n
  | l => if l.ok u then u else old

/-- Base of the registers of station `p` of terrace `t` (R26, R88). -/
def stnBase (t p : Nat) : Nat := 0x1000000 + t * 0x200000 + p * 0x10000

/-- Base of the common registers of terrace `t` (R26). -/
def terBase (t : Nat) : Nat := 0x1000000 + t * 0x200000 + 0x180000

/-- A row of the register map: a field, and the stride and length of the array it stands in. -/
structure Fam where
  fld : Fld
  stride : Nat
  n : Nat
deriving DecidableEq, Repr

/-- The member of a register family whose word, or high word, lies at BAR0 offset `off`. -/
def Fam.find (m : Fam) (off : Nat) : List Fld :=
  let hit (o : Nat) : List Fld :=
    if o < m.fld.off then [] else
    let d := o - m.fld.off
    if m.stride = 0 then (if d = 0 then [m.fld] else [])
    else if d % m.stride = 0 ∧ d / m.stride < m.n then [m.fld.at m.stride (d / m.stride)] else []
  hit off ++ (if m.fld.w > 32 ∧ off ≥ 4 then hit (off - 4) else [])

end Sys2Proof.Machine
end

