-- ==== Sys2Proof/Machine/Regs.lean ====
section
/-! DEFINITION. Every register field of the module, from the register tables of the chapters: one definition per field,
named BLOCK_REGISTER_FIELD, and the lists of all of them by which a bus access finds the fields of a word.
A field of a register array takes its index; a station's field takes terrace and position, a terrace's the terrace. -/

namespace Sys2Proof.Machine

/-- `ID.PART.DEVICE` [31:16] (R534). -/
def ID_PART_DEVICE : Fld := ⟨0x0, 16, 16, .ro, 0x3280, .any⟩
/-- `ID.PART.REV` [15:8] (R534). -/
def ID_PART_REV : Fld := ⟨0x0, 8, 8, .ro, 0xB0, .any⟩
/-- `ID.VARIANT.DRAM_GIB` [31:16] (R534). -/
def ID_VARIANT_DRAM_GIB : Fld := ⟨0x4, 16, 16, .ro, 96, .any⟩
/-- `ID.VARIANT.GRADE` [8:8] (R534). -/
def ID_VARIANT_GRADE : Fld := ⟨0x4, 8, 1, .ro, 0, .any⟩
/-- `ID.VARIANT.VARIANT` [1:0] (R534). -/
def ID_VARIANT_VARIANT : Fld := ⟨0x4, 0, 2, .ro, 0, .any⟩
/-- `ID.SERIAL.VALUE` [63:0] (R534). -/
def ID_SERIAL : Fld := ⟨0x8, 0, 64, .ro, 0, .any⟩
/-- `GC.STATUS.PHASE` [31:28] (R534). -/
def GC_STATUS_PHASE : Fld := ⟨0x10, 28, 4, .ro, 0, .any⟩
/-- `GC.STATUS.FAIL` [27:24] (R534). -/
def GC_STATUS_FAIL : Fld := ⟨0x10, 24, 4, .ro, 0, .any⟩
/-- `GC.RESET.WARM` [31:31] (R534). -/
def GC_RESET_WARM : Fld := ⟨0x14, 31, 1, .wo, 0, .any⟩
/-- `GC.RESET.KEY` [7:0] (R534). -/
def GC_RESET_KEY : Fld := ⟨0x14, 0, 8, .wo, 0, .any⟩
/-- `TIDE.CTRL.SLACK` [29:24] (R59). -/
def TIDE_CTRL_SLACK : Fld := ⟨0x100000, 24, 6, .rw, 0x14, .range 10 50⟩
/-- `TIDE.CTRL.RATE` [21:20] (R59). -/
def TIDE_CTRL_RATE : Fld := ⟨0x100000, 20, 2, .rw, 0, .range 0 2⟩
/-- `TIDE.CTRL.SRC` [17:16] (R59). -/
def TIDE_CTRL_SRC : Fld := ⟨0x100000, 16, 2, .rw, 1, .range 0 2⟩
/-- `TIDE.CTRL.PPS_OUT_EN` [3:3] (R59). -/
def TIDE_CTRL_PPS_OUT_EN : Fld := ⟨0x100000, 3, 1, .rw, 0, .any⟩
/-- `TIDE.CTRL.TICK_EN` [2:2] (R59). -/
def TIDE_CTRL_TICK_EN : Fld := ⟨0x100000, 2, 1, .rw, 1, .any⟩
/-- `TIDE.CTRL.WCLK_OUT_EN` [1:1] (R59). -/
def TIDE_CTRL_WCLK_OUT_EN : Fld := ⟨0x100000, 1, 1, .rw, 0, .any⟩
/-- `TIDE.CTRL.RUN` [0:0] (R59). -/
def TIDE_CTRL_RUN : Fld := ⟨0x100000, 0, 1, .rw, 0, .any⟩
/-- `TIDE.PERIOD.PERIOD` [12:0] (R59). -/
def TIDE_PERIOD_PERIOD : Fld := ⟨0x100004, 0, 13, .rw, 0x10, .any⟩
/-- `TIDE.APPLY_LO.TIDE_LO` [31:0] (R59). -/
def TIDE_APPLY_LO_TIDE_LO : Fld := ⟨0x100008, 0, 32, .rw, 0, .any⟩
/-- `TIDE.APPLY_HI.ARM` [31:31] (R59). -/
def TIDE_APPLY_HI_ARM : Fld := ⟨0x10000c, 31, 1, .wo, 0, .any⟩
/-- `TIDE.APPLY_HI.PEND` [30:30] (R59). -/
def TIDE_APPLY_HI_PEND : Fld := ⟨0x10000c, 30, 1, .ro, 0, .any⟩
/-- `TIDE.APPLY_HI.REFUSED` [29:29] (R59). -/
def TIDE_APPLY_HI_REFUSED : Fld := ⟨0x10000c, 29, 1, .w1c, 0, .any⟩
/-- `TIDE.APPLY_HI.CAUSE` [25:24] (R59). -/
def TIDE_APPLY_HI_CAUSE : Fld := ⟨0x10000c, 24, 2, .ro, 0, .any⟩
/-- `TIDE.APPLY_HI.TIDE_HI` [15:0] (R59). -/
def TIDE_APPLY_HI_TIDE_HI : Fld := ⟨0x10000c, 0, 16, .rw, 0, .any⟩
/-- `TIDE.STATUS.REPHASING` [5:5] (R59). -/
def TIDE_STATUS_REPHASING : Fld := ⟨0x100010, 5, 1, .ro, 0, .any⟩
/-- `TIDE.STATUS.ALIGNED` [4:4] (R59). -/
def TIDE_STATUS_ALIGNED : Fld := ⟨0x100010, 4, 1, .ro, 0, .any⟩
/-- `TIDE.STATUS.TIME_VALID` [3:3] (R59). -/
def TIDE_STATUS_TIME_VALID : Fld := ⟨0x100010, 3, 1, .ro, 0, .any⟩
/-- `TIDE.STATUS.LOCK` [2:0] (R59). -/
def TIDE_STATUS_LOCK : Fld := ⟨0x100010, 0, 3, .ro, 0, .any⟩
/-- `TIDE.EVENT.REPLAY_REFUSED` [6:6] (R59). -/
def TIDE_EVENT_REPLAY_REFUSED : Fld := ⟨0x100014, 6, 1, .w1c, 0, .any⟩
/-- `TIDE.EVENT.APPLY_REFUSED` [5:5] (R59). -/
def TIDE_EVENT_APPLY_REFUSED : Fld := ⟨0x100014, 5, 1, .w1c, 0, .any⟩
/-- `TIDE.EVENT.APPLIED` [4:4] (R59). -/
def TIDE_EVENT_APPLIED : Fld := ⟨0x100014, 4, 1, .w1c, 0, .any⟩
/-- `TIDE.EVENT.REPHASE` [3:3] (R59). -/
def TIDE_EVENT_REPHASE : Fld := ⟨0x100014, 3, 1, .w1c, 0, .any⟩
/-- `TIDE.EVENT.TIME_STEP` [2:2] (R59). -/
def TIDE_EVENT_TIME_STEP : Fld := ⟨0x100014, 2, 1, .w1c, 0, .any⟩
/-- `TIDE.EVENT.LOCK_LOST` [1:1] (R59). -/
def TIDE_EVENT_LOCK_LOST : Fld := ⟨0x100014, 1, 1, .w1c, 0, .any⟩
/-- `TIDE.EVENT.LOCK_GAINED` [0:0] (R59). -/
def TIDE_EVENT_LOCK_GAINED : Fld := ⟨0x100014, 0, 1, .w1c, 0, .any⟩
/-- `TIDE.EVENT_EN.REPLAY_REFUSED` [6:6] (R59). -/
def TIDE_EVENT_EN_REPLAY_REFUSED : Fld := ⟨0x100018, 6, 1, .rw, 0, .any⟩
/-- `TIDE.EVENT_EN.APPLY_REFUSED` [5:5] (R59). -/
def TIDE_EVENT_EN_APPLY_REFUSED : Fld := ⟨0x100018, 5, 1, .rw, 0, .any⟩
/-- `TIDE.EVENT_EN.APPLIED` [4:4] (R59). -/
def TIDE_EVENT_EN_APPLIED : Fld := ⟨0x100018, 4, 1, .rw, 0, .any⟩
/-- `TIDE.EVENT_EN.REPHASE` [3:3] (R59). -/
def TIDE_EVENT_EN_REPHASE : Fld := ⟨0x100018, 3, 1, .rw, 0, .any⟩
/-- `TIDE.EVENT_EN.TIME_STEP` [2:2] (R59). -/
def TIDE_EVENT_EN_TIME_STEP : Fld := ⟨0x100018, 2, 1, .rw, 0, .any⟩
/-- `TIDE.EVENT_EN.LOCK_LOST` [1:1] (R59). -/
def TIDE_EVENT_EN_LOCK_LOST : Fld := ⟨0x100018, 1, 1, .rw, 0, .any⟩
/-- `TIDE.EVENT_EN.LOCK_GAINED` [0:0] (R59). -/
def TIDE_EVENT_EN_LOCK_GAINED : Fld := ⟨0x100018, 0, 1, .rw, 0, .any⟩
/-- `TIDE.NUM.VALUE` [47:0] (R59). -/
def TIDE_NUM : Fld := ⟨0x100020, 0, 48, .ro, 0, .any⟩
/-- `TIDE.BTIME.VALUE` [63:0] (R59). -/
def TIDE_BTIME : Fld := ⟨0x100028, 0, 64, .ro, 0, .any⟩
/-- `TIDE.ACTIVE.SLACK` [29:24] (R59). -/
def TIDE_ACTIVE_SLACK : Fld := ⟨0x100030, 24, 6, .ro, 0x14, .any⟩
/-- `TIDE.ACTIVE.RATE` [21:20] (R59). -/
def TIDE_ACTIVE_RATE : Fld := ⟨0x100030, 20, 2, .ro, 0, .any⟩
/-- `TIDE.ACTIVE.SRC` [17:16] (R59). -/
def TIDE_ACTIVE_SRC : Fld := ⟨0x100030, 16, 2, .ro, 1, .any⟩
/-- `TIDE.ACTIVE.PERIOD` [12:0] (R59). -/
def TIDE_ACTIVE_PERIOD : Fld := ⟨0x100030, 0, 13, .ro, 0x10, .any⟩
/-- `TIDE.BUDGET.B` [22:0] (R59). -/
def TIDE_BUDGET_B : Fld := ⟨0x100034, 0, 23, .ro, 333333, .any⟩
/-- `TIDE.TMIN.T_MIN` [22:0] (R59). -/
def TIDE_TMIN_T_MIN : Fld := ⟨0x100038, 0, 23, .ro, 416250, .any⟩
/-- `TIDE.REPLAY.COMMIT` [9:0] (R59). -/
def TIDE_REPLAY_COMMIT : Fld := ⟨0x10003c, 0, 10, .ro, 512, .any⟩
/-- `TIDE.REPLAY.TAKEOVER` [25:16] (R59). -/
def TIDE_REPLAY_TAKEOVER : Fld := ⟨0x10003c, 16, 10, .ro, 256, .any⟩
/-- `TIME.NOW.VALUE` [63:0] (R59). -/
def TIME_NOW : Fld := ⟨0x100040, 0, 64, .ro, 0, .any⟩
/-- `TIME.ORIGIN.VALUE` [63:0] (R59). -/
def TIME_ORIGIN : Fld := ⟨0x100048, 0, 64, .rw, 0, .any⟩
/-- `TIME.CTRL.STEP_LIMIT` [23:8] (R59). -/
def TIME_CTRL_STEP_LIMIT : Fld := ⟨0x100050, 8, 16, .rw, 0x3E8, .any⟩
/-- `TIME.CTRL.GPTP_PORT` [2:2] (R59). -/
def TIME_CTRL_GPTP_PORT : Fld := ⟨0x100050, 2, 1, .rw, 0, .any⟩
/-- `TIME.CTRL.TSRC` [1:0] (R59). -/
def TIME_CTRL_TSRC : Fld := ⟨0x100050, 0, 2, .rw, 1, .range 0 2⟩
/-- `TIME.SYNC.VALID` [16:16] (R59). -/
def TIME_SYNC_VALID : Fld := ⟨0x100054, 16, 1, .ro, 0, .any⟩
/-- `TIME.SYNC.BOUND` [15:0] (R59). -/
def TIME_SYNC_BOUND : Fld := ⟨0x100054, 0, 16, .ro, 0xFFFF, .any⟩
/-- `TIME.PPS_SET.VALUE` [63:0] (R59). -/
def TIME_PPS_SET : Fld := ⟨0x100058, 0, 64, .wo, 0, .any⟩
/-- `PSTG.CTRL.EN` [31:31] (R450). -/
def PSTG_CTRL_EN : Fld := ⟨0x100200, 31, 1, .rw, 0, .any⟩
/-- `PSTG.CTRL.ERR` [30:30] (R450). -/
def PSTG_CTRL_ERR : Fld := ⟨0x100200, 30, 1, .w1c, 0, .any⟩
/-- `PSTG.CTRL.QFILL` [8:0] (R450). -/
def PSTG_CTRL_QFILL : Fld := ⟨0x100200, 0, 9, .ro, 0, .any⟩
/-- `PSTG.APPLIED.VALUE` [63:0] (R450). -/
def PSTG_APPLIED : Fld := ⟨0x100208, 0, 64, .ro, 0, .any⟩
/-- `PSTG.LATE.VALUE` [63:0] (R450). -/
def PSTG_LATE : Fld := ⟨0x100210, 0, 64, .ro, 0, .any⟩
/-- `PSTG.BLK.EN` [31:31] (R450). -/
def PSTG_BLK_EN (i : Nat) : Fld := ⟨0x100300 + 0x4 * i, 31, 1, .rw, 0, .any⟩
/-- `PSTG.BLK.TERR` [30:27] (R450). -/
def PSTG_BLK_TERR (i : Nat) : Fld := ⟨0x100300 + 0x4 * i, 27, 4, .rw, 0, .range 0 11⟩
/-- `PSTG.BLK.NROWS` [26:24] (R450). -/
def PSTG_BLK_NROWS (i : Nat) : Fld := ⟨0x100300 + 0x4 * i, 24, 3, .rw, 0, .any⟩
/-- `PSTG.BLK.TROW` [11:0] (R450). -/
def PSTG_BLK_TROW (i : Nat) : Fld := ⟨0x100300 + 0x4 * i, 0, 12, .rw, 0, .any⟩
/-- `GH.CTRL.EN` [31:31] (R269). -/
def GH_CTRL_EN : Fld := ⟨0x200000, 31, 1, .rw, 0, .any⟩
/-- `GH.CTRL.HOT` [30:30] (R269). -/
def GH_CTRL_HOT : Fld := ⟨0x200000, 30, 1, .ro, 0, .any⟩
/-- `GH.CTRL.REPEATS` [25:24] (R269). -/
def GH_CTRL_REPEATS : Fld := ⟨0x200000, 24, 2, .rw, 1, .any⟩
/-- `GH.CTRL.THIN_PCT` [23:16] (R269). -/
def GH_CTRL_THIN_PCT : Fld := ⟨0x200000, 16, 8, .rw, 80, .range 10 100⟩
/-- `GH.CTRL.SHED_PCT` [15:8] (R269). -/
def GH_CTRL_SHED_PCT : Fld := ⟨0x200000, 8, 8, .rw, 50, .range 0 100⟩
/-- `GH.CTRL.DRAM_SHARE` [7:0] (R269). -/
def GH_CTRL_DRAM_SHARE : Fld := ⟨0x200000, 0, 8, .rw, 50, .range 0 90⟩
/-- `GH.HOST.ALIVE` [31:31] (R269). -/
def GH_HOST_ALIVE : Fld := ⟨0x200004, 31, 1, .wo, 0, .any⟩
/-- `GH.HOST.LOST` [30:30] (R269). -/
def GH_HOST_LOST : Fld := ⟨0x200004, 30, 1, .ro, 0, .any⟩
/-- `GH.HOST.LIVE_MS` [15:0] (R269). -/
def GH_HOST_LIVE_MS : Fld := ⟨0x200004, 0, 16, .rw, 500, .range 1 65535⟩
/-- `GH.PARK.PARK_S` [15:0] (R269). -/
def GH_PARK_PARK_S : Fld := ⟨0x200008, 0, 16, .rw, 30, .range 1 65535⟩
/-- `GH.SHARE_BYTES.VALUE` [31:0] (R269). -/
def GH_SHARE_BYTES : Fld := ⟨0x20000c, 0, 32, .ro, 61433333, .any⟩
/-- `GH.TB.THIN` [31:31] (R269). -/
def GH_TB_THIN (i : Nat) : Fld := ⟨0x200040 + 0x4 * i, 31, 1, .ro, 0, .any⟩
/-- `GH.TB.BUDGET` [22:0] (R269). -/
def GH_TB_BUDGET (i : Nat) : Fld := ⟨0x200040 + 0x4 * i, 0, 23, .ro, 333333, .any⟩
/-- `GH.USE.VALUE` [22:0] (R269). -/
def GH_USE (i : Nat) : Fld := ⟨0x200080 + 0x4 * i, 0, 23, .ro, 0, .any⟩
/-- `GH.ADMIT.VALUE` [63:0] (R269). -/
def GH_ADMIT : Fld := ⟨0x2000c0, 0, 64, .ro, 0, .any⟩
/-- `GH.REF_MEM.VALUE` [63:0] (R269). -/
def GH_REF_MEM : Fld := ⟨0x2000c8, 0, 64, .ro, 0, .any⟩
/-- `GH.REF_TIME.VALUE` [63:0] (R269). -/
def GH_REF_TIME : Fld := ⟨0x2000d0, 0, 64, .ro, 0, .any⟩
/-- `GH.DEMOTE.VALUE` [63:0] (R269). -/
def GH_DEMOTE : Fld := ⟨0x2000d8, 0, 64, .ro, 0, .any⟩
/-- `GH.REPEAT.VALUE` [63:0] (R269). -/
def GH_REPEAT : Fld := ⟨0x2000e0, 0, 64, .ro, 0, .any⟩
/-- `GH.PARKED.VALUE` [63:0] (R269). -/
def GH_PARKED : Fld := ⟨0x2000e8, 0, 64, .ro, 0, .any⟩
/-- `GH.LOSTCNT.VALUE` [63:0] (R269). -/
def GH_LOSTCNT : Fld := ⟨0x2000f0, 0, 64, .ro, 0, .any⟩
/-- `GH.SET0.EN` [31:31] (R269). -/
def GH_SET0_EN (i : Nat) : Fld := ⟨0x200100 + 0x8 * i, 31, 1, .ro, 0, .any⟩
/-- `GH.SET0.CLASS` [30:29] (R269). -/
def GH_SET0_CLASS (i : Nat) : Fld := ⟨0x200100 + 0x8 * i, 29, 2, .ro, 0, .any⟩
/-- `GH.SET0.D` [28:24] (R269). -/
def GH_SET0_D (i : Nat) : Fld := ⟨0x200100 + 0x8 * i, 24, 5, .ro, 0, .any⟩
/-- `GH.SET0.P` [20:16] (R269). -/
def GH_SET0_P (i : Nat) : Fld := ⟨0x200100 + 0x8 * i, 16, 5, .ro, 0, .any⟩
/-- `GH.SET0.HANDLE` [15:0] (R269). -/
def GH_SET0_HANDLE (i : Nat) : Fld := ⟨0x200100 + 0x8 * i, 0, 16, .ro, 0, .any⟩
/-- `GH.SET1.QTOK` [31:16] (R269). -/
def GH_SET1_QTOK (i : Nat) : Fld := ⟨0x200104 + 0x8 * i, 16, 16, .ro, 0, .any⟩
/-- `GH.SET1.NDEC` [15:0] (R269). -/
def GH_SET1_NDEC (i : Nat) : Fld := ⟨0x200104 + 0x8 * i, 0, 16, .ro, 0, .any⟩
/-- `PS.KV_BASE.VALUE` [63:0] (R239). -/
def PS_KV_BASE : Fld := ⟨0x208000, 0, 64, .rw, 0, .align 14⟩
/-- `PS.KV_PAGES.VALUE` [22:0] (R239). -/
def PS_KV_PAGES : Fld := ⟨0x208008, 0, 23, .rw, 0, .any⟩
/-- `PS.PT_BASE.VALUE` [63:0] (R239). -/
def PS_PT_BASE : Fld := ⟨0x208010, 0, 64, .rw, 0, .align 9⟩
/-- `PS.PT_ROWS.VALUE` [23:0] (R239). -/
def PS_PT_ROWS : Fld := ⟨0x208018, 0, 24, .rw, 0, .any⟩
/-- `PS.SEQ_BASE.VALUE` [63:0] (R239). -/
def PS_SEQ_BASE : Fld := ⟨0x208020, 0, 64, .rw, 0, .align 5⟩
/-- `PS.INFO_BASE.VALUE` [63:0] (R239). -/
def PS_INFO_BASE : Fld := ⟨0x208028, 0, 64, .rw, 0, .align 3⟩
/-- `PS.CTRL.EN` [31:31] (R239). -/
def PS_CTRL_EN : Fld := ⟨0x208030, 31, 1, .rw, 0, .any⟩
/-- `PS.CTRL.ERR` [30:30] (R239). -/
def PS_CTRL_ERR : Fld := ⟨0x208030, 30, 1, .w1c, 0, .any⟩
/-- `PS.CMD.GO` [31:31] (R239). -/
def PS_CMD_GO : Fld := ⟨0x208034, 31, 1, .wo, 0, .any⟩
/-- `PS.CMD.BUSY` [30:30] (R239). -/
def PS_CMD_BUSY : Fld := ⟨0x208034, 30, 1, .ro, 0, .any⟩
/-- `PS.CMD.OP` [29:27] (R239). -/
def PS_CMD_OP : Fld := ⟨0x208034, 27, 3, .rw, 0, .any⟩
/-- `PS.CMD.RES` [26:26] (R239). -/
def PS_CMD_RES : Fld := ⟨0x208034, 26, 1, .rw, 0, .any⟩
/-- `PS.CMD.ARG` [21:0] (R239). -/
def PS_CMD_ARG : Fld := ⟨0x208034, 0, 22, .rw, 0, .any⟩
/-- `PS.RESULT.DONE` [31:31] (R239). -/
def PS_RESULT_DONE : Fld := ⟨0x208038, 31, 1, .rc, 0, .any⟩
/-- `PS.RESULT.STATUS` [29:22] (R239). -/
def PS_RESULT_STATUS : Fld := ⟨0x208038, 22, 8, .ro, 0, .any⟩
/-- `PS.RESULT.PPN` [21:0] (R239). -/
def PS_RESULT_PPN : Fld := ⟨0x208038, 0, 22, .ro, 0, .any⟩
/-- `PS.INV.GO` [31:31] (R239). -/
def PS_INV_GO : Fld := ⟨0x20803c, 31, 1, .wo, 0, .any⟩
/-- `PS.INV.BUSY` [30:30] (R239). -/
def PS_INV_BUSY : Fld := ⟨0x20803c, 30, 1, .ro, 0, .any⟩
/-- `PS.INV.ALL` [29:29] (R239). -/
def PS_INV_ALL : Fld := ⟨0x20803c, 29, 1, .wo, 0, .any⟩
/-- `PS.INV.SEQ` [10:0] (R239). -/
def PS_INV_SEQ : Fld := ⟨0x20803c, 0, 11, .wo, 0, .any⟩
/-- `PS.FREE.VALUE` [22:0] (R239). -/
def PS_FREE : Fld := ⟨0x208040, 0, 23, .ro, 0, .any⟩
/-- `PS.IN_USE.VALUE` [22:0] (R239). -/
def PS_IN_USE : Fld := ⟨0x208044, 0, 23, .ro, 0, .any⟩
/-- `PS.PENDING.VALUE` [22:0] (R239). -/
def PS_PENDING : Fld := ⟨0x208048, 0, 23, .ro, 0, .any⟩
/-- `PS.RESV.VALUE` [22:0] (R239). -/
def PS_RESV : Fld := ⟨0x20804c, 0, 23, .ro, 0, .any⟩
/-- `PS.COW.VALUE` [63:0] (R239). -/
def PS_COW : Fld := ⟨0x208050, 0, 64, .ro, 0, .any⟩
/-- `WL.STATUS.BUSY` [31:31] (R303). -/
def WL_STATUS_BUSY : Fld := ⟨0x400000, 31, 1, .ro, 0, .any⟩
/-- `WL.STATUS.PHASE` [30:28] (R303). -/
def WL_STATUS_PHASE : Fld := ⟨0x400000, 28, 3, .ro, 0, .any⟩
/-- `WL.STATUS.LAYER` [11:0] (R303). -/
def WL_STATUS_LAYER : Fld := ⟨0x400000, 0, 12, .ro, 0, .any⟩
/-- `WL.FAULT.VALID` [31:31] (R303). -/
def WL_FAULT_VALID : Fld := ⟨0x400004, 31, 1, .w1c, 0, .any⟩
/-- `WL.FAULT.MULTI` [30:30] (R303). -/
def WL_FAULT_MULTI : Fld := ⟨0x400004, 30, 1, .w1c, 0, .any⟩
/-- `WL.FAULT.LAYER` [19:8] (R303). -/
def WL_FAULT_LAYER : Fld := ⟨0x400004, 8, 12, .ro, 0, .any⟩
/-- `WL.FAULT.CODE` [7:0] (R303). -/
def WL_FAULT_CODE : Fld := ⟨0x400004, 0, 8, .ro, 0, .any⟩
/-- `WL.BYTES.VALUE` [63:0] (R303). -/
def WL_BYTES : Fld := ⟨0x400010, 0, 64, .ro, 0, .any⟩
/-- `WL.SLOTS.VALUE` [63:0] (R303). -/
def WL_SLOTS : Fld := ⟨0x400018, 0, 64, .ro, 0, .any⟩
/-- `WL.REJECT.VALUE` [63:0] (R303). -/
def WL_REJECT : Fld := ⟨0x400020, 0, 64, .ro, 0, .any⟩
/-- `WL.SCRC.VALUE` [63:0] (R303). -/
def WL_SCRC : Fld := ⟨0x400028, 0, 64, .ro, 0, .any⟩
/-- `WL.ADP.VALID` [31:31] (R303). -/
def WL_ADP_VALID (i : Nat) : Fld := ⟨0x400100 + 0x4 * i, 31, 1, .ro, 0, .any⟩
/-- `WL.ADP.CURRENT` [30:30] (R303). -/
def WL_ADP_CURRENT (i : Nat) : Fld := ⟨0x400100 + 0x4 * i, 30, 1, .ro, 0, .any⟩
/-- `WL.ADP.AID` [29:20] (R303). -/
def WL_ADP_AID (i : Nat) : Fld := ⟨0x400100 + 0x4 * i, 20, 10, .ro, 0, .any⟩
/-- `WL.ADP.AVER` [19:14] (R303). -/
def WL_ADP_AVER (i : Nat) : Fld := ⟨0x400100 + 0x4 * i, 14, 6, .ro, 0, .any⟩
/-- `WL.ADP.REFS` [11:0] (R303). -/
def WL_ADP_REFS (i : Nat) : Fld := ⟨0x400100 + 0x4 * i, 0, 12, .ro, 0, .any⟩
/-- `DMA.BASE.ADDR` [47:0] (R364). -/
def DMA_BASE_ADDR (i : Nat) : Fld := ⟨0x500100 + 0x40 * i, 0, 48, .rw, 0, .align 6⟩
/-- `DMA.RING.EN` [31:31] (R364). -/
def DMA_RING_EN (i : Nat) : Fld := ⟨0x500108 + 0x40 * i, 31, 1, .rw, 0, .any⟩
/-- `DMA.RING.HALTED` [30:30] (R364). -/
def DMA_RING_HALTED (i : Nat) : Fld := ⟨0x500108 + 0x40 * i, 30, 1, .ro, 0, .any⟩
/-- `DMA.RING.ABORT` [29:29] (R364). -/
def DMA_RING_ABORT (i : Nat) : Fld := ⟨0x500108 + 0x40 * i, 29, 1, .wo, 0, .any⟩
/-- `DMA.RING.SIZE` [3:0] (R364). -/
def DMA_RING_SIZE (i : Nat) : Fld := ⟨0x500108 + 0x40 * i, 0, 4, .rw, 4, .range 4 12⟩
/-- `DMA.PROD.INDEX` [11:0] (R364). -/
def DMA_PROD_INDEX (i : Nat) : Fld := ⟨0x50010c + 0x40 * i, 0, 12, .rw, 0, .any⟩
/-- `DMA.CONS.INDEX` [11:0] (R364). -/
def DMA_CONS_INDEX (i : Nat) : Fld := ⟨0x500110 + 0x40 * i, 0, 12, .ro, 0, .any⟩
/-- `DMA.STAT.HALF` [31:31] (R364). -/
def DMA_STAT_HALF (i : Nat) : Fld := ⟨0x500114 + 0x40 * i, 31, 1, .w1c, 0, .any⟩
/-- `DMA.STAT.FULL` [30:30] (R364). -/
def DMA_STAT_FULL (i : Nat) : Fld := ⟨0x500114 + 0x40 * i, 30, 1, .w1c, 0, .any⟩
/-- `DMA.STAT.ERR` [29:29] (R364). -/
def DMA_STAT_ERR (i : Nat) : Fld := ⟨0x500114 + 0x40 * i, 29, 1, .w1c, 0, .any⟩
/-- `DMA.STAT.ERR_RING` [28:28] (R364). -/
def DMA_STAT_ERR_RING (i : Nat) : Fld := ⟨0x500114 + 0x40 * i, 28, 1, .w1c, 0, .any⟩
/-- `DMA.STAT.BUSY` [27:27] (R364). -/
def DMA_STAT_BUSY (i : Nat) : Fld := ⟨0x500114 + 0x40 * i, 27, 1, .ro, 0, .any⟩
/-- `DMA.STAT.CODE` [7:0] (R364). -/
def DMA_STAT_CODE (i : Nat) : Fld := ⟨0x500114 + 0x40 * i, 0, 8, .ro, 0, .any⟩
/-- `DMA.IEN.HALF` [0:0] (R364). -/
def DMA_IEN_HALF (i : Nat) : Fld := ⟨0x500118 + 0x40 * i, 0, 1, .rw, 0, .any⟩
/-- `DMA.IEN.FULL` [1:1] (R364). -/
def DMA_IEN_FULL (i : Nat) : Fld := ⟨0x500118 + 0x40 * i, 1, 1, .rw, 0, .any⟩
/-- `DMA.IEN.ERR` [2:2] (R364). -/
def DMA_IEN_ERR (i : Nat) : Fld := ⟨0x500118 + 0x40 * i, 2, 1, .rw, 0, .any⟩
/-- `DMA.BYTES.VALUE` [63:0] (R364). -/
def DMA_BYTES (i : Nat) : Fld := ⟨0x500120 + 0x40 * i, 0, 64, .ro, 0, .any⟩
/-- `DMA.DONE.VALUE` [63:0] (R364). -/
def DMA_DONE (i : Nat) : Fld := ⟨0x500128 + 0x40 * i, 0, 64, .ro, 0, .any⟩
/-- `TIER.CTRL.EN` [31:31] (R324). -/
def TIER_CTRL_EN : Fld := ⟨0x600000, 31, 1, .rw, 0, .any⟩
/-- `TIER.CTRL.WSHARE` [23:16] (R324). -/
def TIER_CTRL_WSHARE : Fld := ⟨0x600000, 16, 8, .rw, 45, .range 0 90⟩
/-- `TIER.CTRL.ERR` [15:15] (R324). -/
def TIER_CTRL_ERR : Fld := ⟨0x600000, 15, 1, .w1c, 0, .any⟩
/-- `TIER.AGE.CLOCK` [31:24] (R324). -/
def TIER_AGE_CLOCK : Fld := ⟨0x600004, 24, 8, .ro, 0, .any⟩
/-- `TIER.AGE.AGE_TIDES` [15:0] (R324). -/
def TIER_AGE_AGE_TIDES : Fld := ⟨0x600004, 0, 16, .rw, 3000, .range 1 65535⟩
/-- `TIER.NRATE.RATE` [15:0] (R324). -/
def TIER_NRATE_RATE : Fld := ⟨0x600008, 0, 16, .rw, 7000, .range 100 14000⟩
/-- `TIER.POOL_DRAM.VALUE` [22:0] (R324). -/
def TIER_POOL_DRAM : Fld := ⟨0x600010, 0, 23, .ro, 0, .any⟩
/-- `TIER.FREE.VALUE` [22:0] (R324). -/
def TIER_FREE : Fld := ⟨0x600014, 0, 23, .ro, 0, .any⟩
/-- `TIER.POOL_NAND.VALUE` [27:0] (R324). -/
def TIER_POOL_NAND : Fld := ⟨0x600018, 0, 28, .ro, 0, .any⟩
/-- `TIER.NFREE.VALUE` [27:0] (R324). -/
def TIER_NFREE : Fld := ⟨0x60001c, 0, 28, .ro, 0, .any⟩
/-- `TIER.WUSE.VALUE` [31:0] (R324). -/
def TIER_WUSE : Fld := ⟨0x600020, 0, 32, .ro, 0, .any⟩
/-- `TIER.WLIMIT.VALUE` [31:0] (R324). -/
def TIER_WLIMIT : Fld := ⟨0x600024, 0, 32, .ro, 55290000, .any⟩
/-- `TIER.QUEUE.PAGES` [27:0] (R324). -/
def TIER_QUEUE_PAGES : Fld := ⟨0x600028, 0, 28, .ro, 0, .any⟩
/-- `TIER.FAULT.VALID` [31:31] (R324). -/
def TIER_FAULT_VALID : Fld := ⟨0x600030, 31, 1, .w1c, 0, .any⟩
/-- `TIER.FAULT.MULTI` [30:30] (R324). -/
def TIER_FAULT_MULTI : Fld := ⟨0x600030, 30, 1, .w1c, 0, .any⟩
/-- `TIER.FAULT.CAUSE` [29:27] (R324). -/
def TIER_FAULT_CAUSE : Fld := ⟨0x600030, 27, 3, .ro, 0, .any⟩
/-- `TIER.FAULT.CLIENT` [21:16] (R324). -/
def TIER_FAULT_CLIENT : Fld := ⟨0x600030, 16, 6, .ro, 0, .any⟩
/-- `TIER.FAULT.LAYER` [11:0] (R324). -/
def TIER_FAULT_LAYER : Fld := ⟨0x600030, 0, 12, .ro, 0, .any⟩
/-- `TIER.PROMOTE.VALUE` [63:0] (R324). -/
def TIER_PROMOTE : Fld := ⟨0x600040, 0, 64, .ro, 0, .any⟩
/-- `TIER.EVICT.VALUE` [63:0] (R324). -/
def TIER_EVICT : Fld := ⟨0x600048, 0, 64, .ro, 0, .any⟩
/-- `TIER.WRITEBACK.VALUE` [63:0] (R324). -/
def TIER_WRITEBACK : Fld := ⟨0x600050, 0, 64, .ro, 0, .any⟩
/-- `TIER.REBUILD.VALUE` [63:0] (R324). -/
def TIER_REBUILD : Fld := ⟨0x600058, 0, 64, .ro, 0, .any⟩
/-- `TIER.RETIRE.VALUE` [63:0] (R324). -/
def TIER_RETIRE : Fld := ⟨0x600060, 0, 64, .ro, 0, .any⟩
/-- `TIER.POISON.VALUE` [63:0] (R324). -/
def TIER_POISON : Fld := ⟨0x600068, 0, 64, .ro, 0, .any⟩
/-- `TIER.CLIENT.CTRL.EN` [31:31] (R324). -/
def TIER_CLIENT_CTRL_EN (i : Nat) : Fld := ⟨0x600100 + 0x20 * i, 31, 1, .rw, 0, .any⟩
/-- `TIER.CLIENT.CTRL.KIND` [30:28] (R324). -/
def TIER_CLIENT_CTRL_KIND (i : Nat) : Fld := ⟨0x600100 + 0x20 * i, 28, 3, .rw, 0, .range 0 5⟩
/-- `TIER.CLIENT.FLOOR.VALUE` [22:0] (R324). -/
def TIER_CLIENT_FLOOR (i : Nat) : Fld := ⟨0x600104 + 0x20 * i, 0, 23, .rw, 0, .any⟩
/-- `TIER.CLIENT.CEIL.VALUE` [22:0] (R324). -/
def TIER_CLIENT_CEIL (i : Nat) : Fld := ⟨0x600108 + 0x20 * i, 0, 23, .rw, 0, .any⟩
/-- `TIER.CLIENT.DRAM.VALUE` [22:0] (R324). -/
def TIER_CLIENT_DRAM (i : Nat) : Fld := ⟨0x60010c + 0x20 * i, 0, 23, .ro, 0, .any⟩
/-- `TIER.CLIENT.NAND.VALUE` [27:0] (R324). -/
def TIER_CLIENT_NAND (i : Nat) : Fld := ⟨0x600110 + 0x20 * i, 0, 28, .ro, 0, .any⟩
/-- `TIER.CLIENT.PINNED.VALUE` [22:0] (R324). -/
def TIER_CLIENT_PINNED (i : Nat) : Fld := ⟨0x600114 + 0x20 * i, 0, 23, .ro, 0, .any⟩
/-- `TIER.CLIENT.SRAM.VALUE` [18:0] (R324). -/
def TIER_CLIENT_SRAM (i : Nat) : Fld := ⟨0x600118 + 0x20 * i, 0, 19, .ro, 0, .any⟩
/-- `TIER.CLIENT.OLDEST.VALUE` [7:0] (R324). -/
def TIER_CLIENT_OLDEST (i : Nat) : Fld := ⟨0x60011c + 0x20 * i, 0, 8, .ro, 0, .any⟩
/-- `DRAM.CTRL.EN` [31:31] (R349). -/
def DRAM_CTRL_EN : Fld := ⟨0x700000, 31, 1, .rw, 0, .any⟩
/-- `DRAM.CTRL.ERR` [30:30] (R349). -/
def DRAM_CTRL_ERR : Fld := ⟨0x700000, 30, 1, .w1c, 0, .any⟩
/-- `DRAM.CTRL.SCRUB_HOURS` [15:8] (R349). -/
def DRAM_CTRL_SCRUB_HOURS : Fld := ⟨0x700000, 8, 8, .rw, 24, .range 1 255⟩
/-- `DRAM.CTRL.CE_PPR` [7:0] (R349). -/
def DRAM_CTRL_CE_PPR : Fld := ⟨0x700000, 0, 8, .rw, 4, .range 1 255⟩
/-- `DRAM.STATUS.TRAINED` [31:31] (R349). -/
def DRAM_STATUS_TRAINED : Fld := ⟨0x700004, 31, 1, .ro, 0, .any⟩
/-- `DRAM.STATUS.FAIL` [30:30] (R349). -/
def DRAM_STATUS_FAIL : Fld := ⟨0x700004, 30, 1, .ro, 0, .any⟩
/-- `DRAM.STATUS.FAST` [29:29] (R349). -/
def DRAM_STATUS_FAST : Fld := ⟨0x700004, 29, 1, .ro, 0, .any⟩
/-- `DRAM.STATUS.CH` [4:0] (R349). -/
def DRAM_STATUS_CH : Fld := ⟨0x700004, 0, 5, .ro, 0, .any⟩
/-- `DRAM.PROT.BASE.EN` [31:31] (R349). -/
def DRAM_PROT_BASE_EN (i : Nat) : Fld := ⟨0x700010 + 0x8 * i, 31, 1, .rw, 0, .any⟩
/-- `DRAM.PROT.BASE.UNIT` [10:0] (R349). -/
def DRAM_PROT_BASE_UNIT (i : Nat) : Fld := ⟨0x700010 + 0x8 * i, 0, 11, .rw, 0, .any⟩
/-- `DRAM.PROT.SIZE.UNITS` [10:0] (R349). -/
def DRAM_PROT_SIZE_UNITS (i : Nat) : Fld := ⟨0x700014 + 0x8 * i, 0, 11, .rw, 0, .any⟩
/-- `DRAM.RETAIN.SEG` [7:0] (R349). -/
def DRAM_RETAIN_SEG : Fld := ⟨0x700050, 0, 8, .rw, 0, .any⟩
/-- `DRAM.PANIC.SLOTS` [29:28] (R349). -/
def DRAM_PANIC_SLOTS : Fld := ⟨0x700054, 28, 2, .rw, 2, .range 1 3⟩
/-- `DRAM.PANIC.CYC` [22:0] (R349). -/
def DRAM_PANIC_CYC : Fld := ⟨0x700054, 0, 23, .rw, 20000, .any⟩
/-- `DRAM.THROTTLE.ACT_LIMIT` [31:16] (R349). -/
def DRAM_THROTTLE_ACT_LIMIT : Fld := ⟨0x700058, 16, 16, .rw, 1024, .range 1 65535⟩
/-- `DRAM.THROTTLE.GAP` [11:0] (R349). -/
def DRAM_THROTTLE_GAP : Fld := ⟨0x700058, 0, 12, .rw, 250, .any⟩
/-- `DRAM.ELOG.POP` [31:31] (R349). -/
def DRAM_ELOG_POP : Fld := ⟨0x70005c, 31, 1, .wo, 0, .any⟩
/-- `DRAM.ELOG.LOST` [30:30] (R349). -/
def DRAM_ELOG_LOST : Fld := ⟨0x70005c, 30, 1, .w1c, 0, .any⟩
/-- `DRAM.ELOG.FILL` [5:0] (R349). -/
def DRAM_ELOG_FILL : Fld := ⟨0x70005c, 0, 6, .ro, 0, .any⟩
/-- `DRAM.ELOG_DATA.VALUE` [31:0] (R349). -/
def DRAM_ELOG_DATA (i : Nat) : Fld := ⟨0x700060 + 0x4 * i, 0, 32, .ro, 0, .any⟩
/-- `DRAM.CORR.VALUE` [63:0] (R349). -/
def DRAM_CORR : Fld := ⟨0x700080, 0, 64, .ro, 0, .any⟩
/-- `DRAM.UNC.VALUE` [63:0] (R349). -/
def DRAM_UNC : Fld := ⟨0x700088, 0, 64, .ro, 0, .any⟩
/-- `DRAM.RFM.VALUE` [63:0] (R349). -/
def DRAM_RFM : Fld := ⟨0x700090, 0, 64, .ro, 0, .any⟩
/-- `DRAM.THROTTLED.VALUE` [63:0] (R349). -/
def DRAM_THROTTLED : Fld := ⟨0x700098, 0, 64, .ro, 0, .any⟩
/-- `DRAM.PANIC_CNT.VALUE` [63:0] (R349). -/
def DRAM_PANIC_CNT : Fld := ⟨0x7000a0, 0, 64, .ro, 0, .any⟩
/-- `DRAM.RD_BYTES.VALUE` [63:0] (R349). -/
def DRAM_RD_BYTES : Fld := ⟨0x7000a8, 0, 64, .ro, 0, .any⟩
/-- `DRAM.WR_BYTES.VALUE` [63:0] (R349). -/
def DRAM_WR_BYTES : Fld := ⟨0x7000b0, 0, 64, .ro, 0, .any⟩
/-- `DRAM.STARVE.VALUE` [63:0] (R349). -/
def DRAM_STARVE : Fld := ⟨0x7000b8, 0, 64, .ro, 0, .any⟩
/-- `NAND.CTRL.EN` [31:31] (R349). -/
def NAND_CTRL_EN : Fld := ⟨0x800000, 31, 1, .rw, 0, .any⟩
/-- `NAND.CTRL.WL_DELTA` [15:0] (R349). -/
def NAND_CTRL_WL_DELTA : Fld := ⟨0x800000, 0, 16, .rw, 200, .range 16 3000⟩
/-- `NAND.STATUS.STATE` [31:30] (R349). -/
def NAND_STATUS_STATE : Fld := ⟨0x800004, 30, 2, .ro, 0, .any⟩
/-- `NAND.STATUS.SPARE_MIN` [15:8] (R349). -/
def NAND_STATUS_SPARE_MIN : Fld := ⟨0x800004, 8, 8, .ro, 64, .any⟩
/-- `NAND.DIE_FAIL.MASK` [31:0] (R349). -/
def NAND_DIE_FAIL_MASK : Fld := ⟨0x800008, 0, 32, .ro, 0, .any⟩
/-- `NAND.THRESH.RELOC_BITS` [31:24] (R349). -/
def NAND_THRESH_RELOC_BITS : Fld := ⟨0x80000c, 24, 8, .rw, 96, .any⟩
/-- `NAND.THRESH.RD_LIMIT` [15:8] (R349). -/
def NAND_THRESH_RD_LIMIT : Fld := ⟨0x80000c, 8, 8, .rw, 100, .range 1 255⟩
/-- `NAND.THRESH.PATROL_H` [7:0] (R349). -/
def NAND_THRESH_PATROL_H : Fld := ⟨0x80000c, 0, 8, .rw, 168, .range 1 255⟩
/-- `NAND.WEAR.MAX` [31:20] (R349). -/
def NAND_WEAR_MAX : Fld := ⟨0x800010, 20, 12, .ro, 0, .any⟩
/-- `NAND.WEAR.MEAN` [19:8] (R349). -/
def NAND_WEAR_MEAN : Fld := ⟨0x800010, 8, 12, .ro, 0, .any⟩
/-- `NAND.WEAR_MIN.MIN` [11:0] (R349). -/
def NAND_WEAR_MIN_MIN : Fld := ⟨0x800014, 0, 12, .ro, 0, .any⟩
/-- `NAND.SOFT.VALUE` [63:0] (R349). -/
def NAND_SOFT : Fld := ⟨0x800018, 0, 64, .ro, 0, .any⟩
/-- `NAND.REBUILD.VALUE` [63:0] (R349). -/
def NAND_REBUILD : Fld := ⟨0x800020, 0, 64, .ro, 0, .any⟩
/-- `NAND.REBUILD_FAIL.VALUE` [63:0] (R349). -/
def NAND_REBUILD_FAIL : Fld := ⟨0x800028, 0, 64, .ro, 0, .any⟩
/-- `NAND.RELOC.VALUE` [63:0] (R349). -/
def NAND_RELOC : Fld := ⟨0x800030, 0, 64, .ro, 0, .any⟩
/-- `NAND.GROWN_BAD.VALUE` [63:0] (R349). -/
def NAND_GROWN_BAD : Fld := ⟨0x800038, 0, 64, .ro, 0, .any⟩
/-- `NAND.RRT.LO.OFS0_3` [31:0] (R349). -/
def NAND_RRT_LO_OFS0_3 (i : Nat) : Fld := ⟨0x800040 + 0x8 * i, 0, 32, .rw, 0, .any⟩
/-- `NAND.RRT.HI.EN` [31:31] (R349). -/
def NAND_RRT_HI_EN (i : Nat) : Fld := ⟨0x800044 + 0x8 * i, 31, 1, .rw, 0, .any⟩
/-- `NAND.RRT.HI.OFS4_6` [23:0] (R349). -/
def NAND_RRT_HI_OFS4_6 (i : Nat) : Fld := ⟨0x800044 + 0x8 * i, 0, 24, .rw, 0, .any⟩
/-- `VIN.PORT.CTRL.EN` [31:31] (R387). -/
def VIN_PORT_CTRL_EN (i : Nat) : Fld := ⟨0x900000 + 0x100 * i, 31, 1, .rw, 0, .any⟩
/-- `VIN.PORT.CTRL.EDGE` [30:30] (R387). -/
def VIN_PORT_CTRL_EDGE (i : Nat) : Fld := ⟨0x900000 + 0x100 * i, 30, 1, .rw, 0, .any⟩
/-- `VIN.PORT.CTRL.VPOL` [29:29] (R387). -/
def VIN_PORT_CTRL_VPOL (i : Nat) : Fld := ⟨0x900000 + 0x100 * i, 29, 1, .rw, 0, .any⟩
/-- `VIN.PORT.CTRL.HPOL` [28:28] (R387). -/
def VIN_PORT_CTRL_HPOL (i : Nat) : Fld := ⟨0x900000 + 0x100 * i, 28, 1, .rw, 0, .any⟩
/-- `VIN.PORT.CTRL.DEPOL` [27:27] (R387). -/
def VIN_PORT_CTRL_DEPOL (i : Nat) : Fld := ⟨0x900000 + 0x100 * i, 27, 1, .rw, 0, .any⟩
/-- `VIN.PORT.CTRL.DEMODE` [26:26] (R387). -/
def VIN_PORT_CTRL_DEMODE (i : Nat) : Fld := ⟨0x900000 + 0x100 * i, 26, 1, .rw, 0, .any⟩
/-- `VIN.PORT.CTRL.LCHK` [25:25] (R387). -/
def VIN_PORT_CTRL_LCHK (i : Nat) : Fld := ⟨0x900000 + 0x100 * i, 25, 1, .rw, 0, .any⟩
/-- `VIN.PORT.CTRL.PHASE` [24:23] (R387). -/
def VIN_PORT_CTRL_PHASE (i : Nat) : Fld := ⟨0x900000 + 0x100 * i, 23, 2, .rw, 0, .any⟩
/-- `VIN.PORT.CTRL.FMT` [22:20] (R387). -/
def VIN_PORT_CTRL_FMT (i : Nat) : Fld := ⟨0x900000 + 0x100 * i, 20, 3, .rw, 1, .any⟩
/-- `VIN.PORT.CTRL.MAXF_MS` [15:0] (R387). -/
def VIN_PORT_CTRL_MAXF_MS (i : Nat) : Fld := ⟨0x900000 + 0x100 * i, 0, 16, .rw, 100, .range 1 65535⟩
/-- `VIN.PORT.SIZE.HEIGHT` [28:16] (R387). -/
def VIN_PORT_SIZE_HEIGHT (i : Nat) : Fld := ⟨0x900004 + 0x100 * i, 16, 13, .rw, 1080, .range 1 3072⟩
/-- `VIN.PORT.SIZE.WIDTH` [12:0] (R387). -/
def VIN_PORT_SIZE_WIDTH (i : Nat) : Fld := ⟨0x900004 + 0x100 * i, 0, 13, .rw, 1920, .range 1 4096⟩
/-- `VIN.PORT.STATUS.ERR` [31:31] (R387). -/
def VIN_PORT_STATUS_ERR (i : Nat) : Fld := ⟨0x900008 + 0x100 * i, 31, 1, .w1c, 0, .any⟩
/-- `VIN.PORT.STATUS.CLK` [30:30] (R387). -/
def VIN_PORT_STATUS_CLK (i : Nat) : Fld := ⟨0x900008 + 0x100 * i, 30, 1, .ro, 0, .any⟩
/-- `VIN.PORT.STATUS.INFRAME` [29:29] (R387). -/
def VIN_PORT_STATUS_INFRAME (i : Nat) : Fld := ⟨0x900008 + 0x100 * i, 29, 1, .ro, 0, .any⟩
/-- `VIN.PORT.RATE.MPIX` [7:0] (R387). -/
def VIN_PORT_RATE_MPIX (i : Nat) : Fld := ⟨0x90000c + 0x100 * i, 0, 8, .rw, 200, .any⟩
/-- `VIN.PORT.FRAMES.VALUE` [63:0] (R387). -/
def VIN_PORT_FRAMES (i : Nat) : Fld := ⟨0x900010 + 0x100 * i, 0, 64, .ro, 0, .any⟩
/-- `VIN.PORT.SHORT.VALUE` [63:0] (R387). -/
def VIN_PORT_SHORT (i : Nat) : Fld := ⟨0x900018 + 0x100 * i, 0, 64, .ro, 0, .any⟩
/-- `VIN.PORT.LONG.VALUE` [63:0] (R387). -/
def VIN_PORT_LONG (i : Nat) : Fld := ⟨0x900020 + 0x100 * i, 0, 64, .ro, 0, .any⟩
/-- `VIN.PORT.CHKERR.VALUE` [63:0] (R387). -/
def VIN_PORT_CHKERR (i : Nat) : Fld := ⟨0x900028 + 0x100 * i, 0, 64, .ro, 0, .any⟩
/-- `VIN.PORT.RAWBASE.VALUE` [47:0] (R387). -/
def VIN_PORT_RAWBASE (i : Nat) : Fld := ⟨0x900030 + 0x100 * i, 0, 48, .rw, 0, .align 8⟩
/-- `VIN.PORT.RAWLINES.VALUE` [11:0] (R387). -/
def VIN_PORT_RAWLINES (i : Nat) : Fld := ⟨0x900038 + 0x100 * i, 0, 12, .rw, 64, .range 8 4095⟩
/-- `VIN.MUX.EN` [31:31] (R387). -/
def VIN_MUX_EN : Fld := ⟨0x900400, 31, 1, .rw, 0, .any⟩
/-- `VIN.MUX.ERR` [30:30] (R387). -/
def VIN_MUX_ERR : Fld := ⟨0x900400, 30, 1, .w1c, 0, .any⟩
/-- `VIN.MUX.UNIT` [29:29] (R387). -/
def VIN_MUX_UNIT : Fld := ⟨0x900400, 29, 1, .rw, 0, .any⟩
/-- `VIN.MUX.STRIPE` [8:0] (R387). -/
def VIN_MUX_STRIPE : Fld := ⟨0x900400, 0, 9, .rw, 64, .step 16 256 8⟩
/-- `VIN.CTX.PSET.VALUE` [47:0] (R387). -/
def VIN_CTX_PSET (i : Nat) : Fld := ⟨0x900800 + 0x80 * i, 0, 48, .rw, 0, .align 9⟩
/-- `VIN.CTX.MPOS.MY0` [27:16] (R387). -/
def VIN_CTX_MPOS_MY0 (i : Nat) : Fld := ⟨0x900808 + 0x80 * i, 16, 12, .rw, 0, .any⟩
/-- `VIN.CTX.MPOS.MX0` [11:0] (R387). -/
def VIN_CTX_MPOS_MX0 (i : Nat) : Fld := ⟨0x900808 + 0x80 * i, 0, 12, .rw, 0, .any⟩
/-- `VIN.CTX.MSIZE.MCH` [28:16] (R387). -/
def VIN_CTX_MSIZE_MCH (i : Nat) : Fld := ⟨0x90080c + 0x80 * i, 16, 13, .rw, 96, .any⟩
/-- `VIN.CTX.MSIZE.MCW` [12:0] (R387). -/
def VIN_CTX_MSIZE_MCW (i : Nat) : Fld := ⟨0x90080c + 0x80 * i, 0, 13, .rw, 128, .any⟩
/-- `VIN.CTX.MOUT.OFMT` [31:28] (R387). -/
def VIN_CTX_MOUT_OFMT (i : Nat) : Fld := ⟨0x900810 + 0x80 * i, 28, 4, .rw, 0, .oneOf [0, 1, 5]⟩
/-- `VIN.CTX.MOUT.OC3` [27:27] (R387). -/
def VIN_CTX_MOUT_OC3 (i : Nat) : Fld := ⟨0x900810 + 0x80 * i, 27, 1, .rw, 1, .any⟩
/-- `VIN.CTX.MOUT.MOH` [26:16] (R387). -/
def VIN_CTX_MOUT_MOH (i : Nat) : Fld := ⟨0x900810 + 0x80 * i, 16, 11, .rw, 96, .range 1 1024⟩
/-- `VIN.CTX.MOUT.MOW` [10:0] (R387). -/
def VIN_CTX_MOUT_MOW (i : Nat) : Fld := ⟨0x900810 + 0x80 * i, 0, 11, .rw, 128, .range 1 1024⟩
/-- `VIN.CTX.DPOS.DY0` [27:16] (R387). -/
def VIN_CTX_DPOS_DY0 (i : Nat) : Fld := ⟨0x900814 + 0x80 * i, 16, 12, .rw, 0, .any⟩
/-- `VIN.CTX.DPOS.DX0` [11:0] (R387). -/
def VIN_CTX_DPOS_DX0 (i : Nat) : Fld := ⟨0x900814 + 0x80 * i, 0, 12, .rw, 0, .any⟩
/-- `VIN.CTX.DSIZE.DCH` [28:16] (R387). -/
def VIN_CTX_DSIZE_DCH (i : Nat) : Fld := ⟨0x900818 + 0x80 * i, 16, 13, .rw, 1080, .any⟩
/-- `VIN.CTX.DSIZE.DCW` [12:0] (R387). -/
def VIN_CTX_DSIZE_DCW (i : Nat) : Fld := ⟨0x900818 + 0x80 * i, 0, 13, .rw, 1920, .any⟩
/-- `VIN.CTX.DOUT.DEN` [31:31] (R387). -/
def VIN_CTX_DOUT_DEN (i : Nat) : Fld := ⟨0x90081c + 0x80 * i, 31, 1, .rw, 0, .any⟩
/-- `VIN.CTX.DOUT.CEN` [30:30] (R387). -/
def VIN_CTX_DOUT_CEN (i : Nat) : Fld := ⟨0x90081c + 0x80 * i, 30, 1, .rw, 0, .any⟩
/-- `VIN.CTX.DOUT.NBUF` [29:27] (R387). -/
def VIN_CTX_DOUT_NBUF (i : Nat) : Fld := ⟨0x90081c + 0x80 * i, 27, 3, .rw, 3, .range 2 8⟩
/-- `VIN.CTX.DOUT.DOH` [26:14] (R387). -/
def VIN_CTX_DOUT_DOH (i : Nat) : Fld := ⟨0x90081c + 0x80 * i, 14, 13, .rw, 1080, .any⟩
/-- `VIN.CTX.DOUT.DOW` [12:0] (R387). -/
def VIN_CTX_DOUT_DOW (i : Nat) : Fld := ⟨0x90081c + 0x80 * i, 0, 13, .rw, 1920, .any⟩
/-- `VIN.CTX.DBASE.VALUE` [63:0] (R387). -/
def VIN_CTX_DBASE (i : Nat) : Fld := ⟨0x900820 + 0x80 * i, 0, 64, .rw, 0, .any⟩
/-- `VIN.CTX.CBASE.VALUE` [63:0] (R387). -/
def VIN_CTX_CBASE (i : Nat) : Fld := ⟨0x900828 + 0x80 * i, 0, 64, .rw, 0, .any⟩
/-- `VIN.CTX.DLV.MODE` [31:30] (R387). -/
def VIN_CTX_DLV_MODE (i : Nat) : Fld := ⟨0x900830 + 0x80 * i, 30, 2, .rw, 0, .range 0 2⟩
/-- `VIN.CTX.DLV.TERR` [29:26] (R387). -/
def VIN_CTX_DLV_TERR (i : Nat) : Fld := ⟨0x900830 + 0x80 * i, 26, 4, .rw, 0, .any⟩
/-- `VIN.CTX.DLV.POS` [25:21] (R387). -/
def VIN_CTX_DLV_POS (i : Nat) : Fld := ⟨0x900830 + 0x80 * i, 21, 5, .rw, 0, .any⟩
/-- `VIN.CTX.DLV.RSLOT` [19:14] (R387). -/
def VIN_CTX_DLV_RSLOT (i : Nat) : Fld := ⟨0x900830 + 0x80 * i, 14, 6, .rw, 0, .any⟩
/-- `VIN.CTX.DLV.DSLOT` [13:8] (R387). -/
def VIN_CTX_DLV_DSLOT (i : Nat) : Fld := ⟨0x900830 + 0x80 * i, 8, 6, .rw, 0, .any⟩
/-- `VIN.CTX.TROW.VALUE` [11:0] (R387). -/
def VIN_CTX_TROW (i : Nat) : Fld := ⟨0x900834 + 0x80 * i, 0, 12, .rw, 0, .any⟩
/-- `VIN.CTX.PUB.VALUE` [63:0] (R387). -/
def VIN_CTX_PUB (i : Nat) : Fld := ⟨0x900838 + 0x80 * i, 0, 64, .ro, 0, .any⟩
/-- `VIN.CTX.SKIP.VALUE` [63:0] (R387). -/
def VIN_CTX_SKIP (i : Nat) : Fld := ⟨0x900840 + 0x80 * i, 0, 64, .ro, 0, .any⟩
/-- `VIN.CTX.PSETERR.VALUE` [63:0] (R387). -/
def VIN_CTX_PSETERR (i : Nat) : Fld := ⟨0x900848 + 0x80 * i, 0, 64, .ro, 0, .any⟩
/-- `AUD.CLK.EN` [31:31] (R402). -/
def AUD_CLK_EN : Fld := ⟨0xa00000, 31, 1, .rw, 0, .any⟩
/-- `AUD.CLK.DRIVE` [30:30] (R402). -/
def AUD_CLK_DRIVE : Fld := ⟨0xa00000, 30, 1, .rw, 1, .any⟩
/-- `AUD.CLK.FMT` [29:29] (R402). -/
def AUD_CLK_FMT : Fld := ⟨0xa00000, 29, 1, .rw, 1, .any⟩
/-- `AUD.CLK.FSW` [28:28] (R402). -/
def AUD_CLK_FSW : Fld := ⟨0xa00000, 28, 1, .rw, 0, .any⟩
/-- `AUD.CLK.DELAY` [27:27] (R402). -/
def AUD_CLK_DELAY : Fld := ⟨0xa00000, 27, 1, .rw, 1, .any⟩
/-- `AUD.CLK.FSPOL` [26:26] (R402). -/
def AUD_CLK_FSPOL : Fld := ⟨0xa00000, 26, 1, .rw, 0, .any⟩
/-- `AUD.CLK.EDGE` [25:25] (R402). -/
def AUD_CLK_EDGE : Fld := ⟨0xa00000, 25, 1, .rw, 0, .any⟩
/-- `AUD.CLK.SLOTS` [18:16] (R402). -/
def AUD_CLK_SLOTS : Fld := ⟨0xa00000, 16, 3, .rw, 5, .range 1 5⟩
/-- `AUD.CLK.ERR` [15:15] (R402). -/
def AUD_CLK_ERR : Fld := ⟨0xa00000, 15, 1, .w1c, 0, .any⟩
/-- `AUD.CLK.LOST` [14:14] (R402). -/
def AUD_CLK_LOST : Fld := ⟨0xa00000, 14, 1, .ro, 0, .any⟩
/-- `AUD.IN.CTRL.EN` [31:31] (R402). -/
def AUD_IN_CTRL_EN (i : Nat) : Fld := ⟨0xa00100 + 0x40 * i, 31, 1, .rw, 0, .any⟩
/-- `AUD.IN.CTRL.WL` [30:29] (R402). -/
def AUD_IN_CTRL_WL (i : Nat) : Fld := ⟨0xa00100 + 0x40 * i, 29, 2, .rw, 1, .range 0 2⟩
/-- `AUD.IN.BIND0.EN` [31:31] (R402). -/
def AUD_IN_BIND0_EN (i : Nat) : Fld := ⟨0xa00104 + 0x40 * i, 31, 1, .rw, 0, .any⟩
/-- `AUD.IN.BIND0.TERR` [30:27] (R402). -/
def AUD_IN_BIND0_TERR (i : Nat) : Fld := ⟨0xa00104 + 0x40 * i, 27, 4, .rw, 0, .range 0 11⟩
/-- `AUD.IN.BIND0.POS` [26:22] (R402). -/
def AUD_IN_BIND0_POS (i : Nat) : Fld := ⟨0xa00104 + 0x40 * i, 22, 5, .rw, 0, .range 0 16⟩
/-- `AUD.IN.BIND0.SLOT` [21:16] (R402). -/
def AUD_IN_BIND0_SLOT (i : Nat) : Fld := ⟨0xa00104 + 0x40 * i, 16, 6, .rw, 0, .any⟩
/-- `AUD.IN.BIND0.RSLOT` [15:10] (R402). -/
def AUD_IN_BIND0_RSLOT (i : Nat) : Fld := ⟨0xa00104 + 0x40 * i, 10, 6, .rw, 63, .any⟩
/-- `AUD.IN.BIND0.CH0` [9:5] (R402). -/
def AUD_IN_BIND0_CH0 (i : Nat) : Fld := ⟨0xa00104 + 0x40 * i, 5, 5, .rw, 0, .any⟩
/-- `AUD.IN.BIND0.NCH` [4:0] (R402). -/
def AUD_IN_BIND0_NCH (i : Nat) : Fld := ⟨0xa00104 + 0x40 * i, 0, 5, .rw, 0, .any⟩
/-- `AUD.IN.BIND1.EN` [31:31] (R402). -/
def AUD_IN_BIND1_EN (i : Nat) : Fld := ⟨0xa00108 + 0x40 * i, 31, 1, .rw, 0, .any⟩
/-- `AUD.IN.BIND1.TERR` [30:27] (R402). -/
def AUD_IN_BIND1_TERR (i : Nat) : Fld := ⟨0xa00108 + 0x40 * i, 27, 4, .rw, 0, .range 0 11⟩
/-- `AUD.IN.BIND1.POS` [26:22] (R402). -/
def AUD_IN_BIND1_POS (i : Nat) : Fld := ⟨0xa00108 + 0x40 * i, 22, 5, .rw, 0, .range 0 16⟩
/-- `AUD.IN.BIND1.SLOT` [21:16] (R402). -/
def AUD_IN_BIND1_SLOT (i : Nat) : Fld := ⟨0xa00108 + 0x40 * i, 16, 6, .rw, 0, .any⟩
/-- `AUD.IN.BIND1.RSLOT` [15:10] (R402). -/
def AUD_IN_BIND1_RSLOT (i : Nat) : Fld := ⟨0xa00108 + 0x40 * i, 10, 6, .rw, 63, .any⟩
/-- `AUD.IN.BIND1.CH0` [9:5] (R402). -/
def AUD_IN_BIND1_CH0 (i : Nat) : Fld := ⟨0xa00108 + 0x40 * i, 5, 5, .rw, 0, .any⟩
/-- `AUD.IN.BIND1.NCH` [4:0] (R402). -/
def AUD_IN_BIND1_NCH (i : Nat) : Fld := ⟨0xa00108 + 0x40 * i, 0, 5, .rw, 0, .any⟩
/-- `AUD.IN.BIND2.EN` [31:31] (R402). -/
def AUD_IN_BIND2_EN (i : Nat) : Fld := ⟨0xa0010c + 0x40 * i, 31, 1, .rw, 0, .any⟩
/-- `AUD.IN.BIND2.TERR` [30:27] (R402). -/
def AUD_IN_BIND2_TERR (i : Nat) : Fld := ⟨0xa0010c + 0x40 * i, 27, 4, .rw, 0, .range 0 11⟩
/-- `AUD.IN.BIND2.POS` [26:22] (R402). -/
def AUD_IN_BIND2_POS (i : Nat) : Fld := ⟨0xa0010c + 0x40 * i, 22, 5, .rw, 0, .range 0 16⟩
/-- `AUD.IN.BIND2.SLOT` [21:16] (R402). -/
def AUD_IN_BIND2_SLOT (i : Nat) : Fld := ⟨0xa0010c + 0x40 * i, 16, 6, .rw, 0, .any⟩
/-- `AUD.IN.BIND2.RSLOT` [15:10] (R402). -/
def AUD_IN_BIND2_RSLOT (i : Nat) : Fld := ⟨0xa0010c + 0x40 * i, 10, 6, .rw, 63, .any⟩
/-- `AUD.IN.BIND2.CH0` [9:5] (R402). -/
def AUD_IN_BIND2_CH0 (i : Nat) : Fld := ⟨0xa0010c + 0x40 * i, 5, 5, .rw, 0, .any⟩
/-- `AUD.IN.BIND2.NCH` [4:0] (R402). -/
def AUD_IN_BIND2_NCH (i : Nat) : Fld := ⟨0xa0010c + 0x40 * i, 0, 5, .rw, 0, .any⟩
/-- `AUD.IN.BIND3.EN` [31:31] (R402). -/
def AUD_IN_BIND3_EN (i : Nat) : Fld := ⟨0xa00110 + 0x40 * i, 31, 1, .rw, 0, .any⟩
/-- `AUD.IN.BIND3.TERR` [30:27] (R402). -/
def AUD_IN_BIND3_TERR (i : Nat) : Fld := ⟨0xa00110 + 0x40 * i, 27, 4, .rw, 0, .range 0 11⟩
/-- `AUD.IN.BIND3.POS` [26:22] (R402). -/
def AUD_IN_BIND3_POS (i : Nat) : Fld := ⟨0xa00110 + 0x40 * i, 22, 5, .rw, 0, .range 0 16⟩
/-- `AUD.IN.BIND3.SLOT` [21:16] (R402). -/
def AUD_IN_BIND3_SLOT (i : Nat) : Fld := ⟨0xa00110 + 0x40 * i, 16, 6, .rw, 0, .any⟩
/-- `AUD.IN.BIND3.RSLOT` [15:10] (R402). -/
def AUD_IN_BIND3_RSLOT (i : Nat) : Fld := ⟨0xa00110 + 0x40 * i, 10, 6, .rw, 63, .any⟩
/-- `AUD.IN.BIND3.CH0` [9:5] (R402). -/
def AUD_IN_BIND3_CH0 (i : Nat) : Fld := ⟨0xa00110 + 0x40 * i, 5, 5, .rw, 0, .any⟩
/-- `AUD.IN.BIND3.NCH` [4:0] (R402). -/
def AUD_IN_BIND3_NCH (i : Nat) : Fld := ⟨0xa00110 + 0x40 * i, 0, 5, .rw, 0, .any⟩
/-- `AUD.IN.FRAMES.VALUE` [63:0] (R402). -/
def AUD_IN_FRAMES (i : Nat) : Fld := ⟨0xa00118 + 0x40 * i, 0, 64, .ro, 0, .any⟩
/-- `AUD.IN.GAPS.VALUE` [63:0] (R402). -/
def AUD_IN_GAPS (i : Nat) : Fld := ⟨0xa00120 + 0x40 * i, 0, 64, .ro, 0, .any⟩
/-- `AUD.IN.SLIPS.VALUE` [63:0] (R402). -/
def AUD_IN_SLIPS (i : Nat) : Fld := ⟨0xa00128 + 0x40 * i, 0, 64, .ro, 0, .any⟩
/-- `AUD.OUT.CTRL.EN` [31:31] (R402). -/
def AUD_OUT_CTRL_EN (i : Nat) : Fld := ⟨0xa00400 + 0x40 * i, 31, 1, .rw, 0, .any⟩
/-- `AUD.OUT.CTRL.WL` [30:29] (R402). -/
def AUD_OUT_CTRL_WL (i : Nat) : Fld := ⟨0xa00400 + 0x40 * i, 29, 2, .rw, 1, .range 0 2⟩
/-- `AUD.OUT.MAIN.EN` [31:31] (R402). -/
def AUD_OUT_MAIN_EN (i : Nat) : Fld := ⟨0xa00404 + 0x40 * i, 31, 1, .rw, 0, .any⟩
/-- `AUD.OUT.MAIN.TERR` [30:27] (R402). -/
def AUD_OUT_MAIN_TERR (i : Nat) : Fld := ⟨0xa00404 + 0x40 * i, 27, 4, .rw, 0, .range 0 11⟩
/-- `AUD.OUT.MAIN.POS` [26:22] (R402). -/
def AUD_OUT_MAIN_POS (i : Nat) : Fld := ⟨0xa00404 + 0x40 * i, 22, 5, .rw, 0, .range 0 16⟩
/-- `AUD.OUT.MAIN.SLOT` [21:16] (R402). -/
def AUD_OUT_MAIN_SLOT (i : Nat) : Fld := ⟨0xa00404 + 0x40 * i, 16, 6, .rw, 0, .any⟩
/-- `AUD.OUT.MAIN.CH0` [9:5] (R402). -/
def AUD_OUT_MAIN_CH0 (i : Nat) : Fld := ⟨0xa00404 + 0x40 * i, 5, 5, .rw, 0, .any⟩
/-- `AUD.OUT.MAIN.NCH` [4:0] (R402). -/
def AUD_OUT_MAIN_NCH (i : Nat) : Fld := ⟨0xa00404 + 0x40 * i, 0, 5, .rw, 0, .any⟩
/-- `AUD.OUT.FB.EN` [31:31] (R402). -/
def AUD_OUT_FB_EN (i : Nat) : Fld := ⟨0xa00408 + 0x40 * i, 31, 1, .rw, 0, .any⟩
/-- `AUD.OUT.FB.TERR` [30:27] (R402). -/
def AUD_OUT_FB_TERR (i : Nat) : Fld := ⟨0xa00408 + 0x40 * i, 27, 4, .rw, 0, .range 0 11⟩
/-- `AUD.OUT.FB.POS` [26:22] (R402). -/
def AUD_OUT_FB_POS (i : Nat) : Fld := ⟨0xa00408 + 0x40 * i, 22, 5, .rw, 0, .range 0 16⟩
/-- `AUD.OUT.FB.SLOT` [21:16] (R402). -/
def AUD_OUT_FB_SLOT (i : Nat) : Fld := ⟨0xa00408 + 0x40 * i, 16, 6, .rw, 0, .any⟩
/-- `AUD.OUT.FB.CH0` [9:5] (R402). -/
def AUD_OUT_FB_CH0 (i : Nat) : Fld := ⟨0xa00408 + 0x40 * i, 5, 5, .rw, 0, .any⟩
/-- `AUD.OUT.FB.NCH` [4:0] (R402). -/
def AUD_OUT_FB_NCH (i : Nat) : Fld := ⟨0xa00408 + 0x40 * i, 0, 5, .rw, 0, .any⟩
/-- `AUD.OUT.FRAMES.VALUE` [63:0] (R402). -/
def AUD_OUT_FRAMES (i : Nat) : Fld := ⟨0xa00418 + 0x40 * i, 0, 64, .ro, 0, .any⟩
/-- `AUD.OUT.GAPS.VALUE` [63:0] (R402). -/
def AUD_OUT_GAPS (i : Nat) : Fld := ⟨0xa00420 + 0x40 * i, 0, 64, .ro, 0, .any⟩
/-- `AUD.OUT.SLIPS.VALUE` [63:0] (R402). -/
def AUD_OUT_SLIPS (i : Nat) : Fld := ⟨0xa00428 + 0x40 * i, 0, 64, .ro, 0, .any⟩
/-- `RING.CTRL.EN` [31:31] (R428). -/
def RING_CTRL_EN : Fld := ⟨0xb00000, 31, 1, .rw, 0, .any⟩
/-- `RING.CTRL.MODE` [30:30] (R428). -/
def RING_CTRL_MODE : Fld := ⟨0xb00000, 30, 1, .rw, 0, .any⟩
/-- `RING.CTRL.RATE` [29:28] (R428). -/
def RING_CTRL_RATE : Fld := ⟨0xb00000, 28, 2, .rw, 0, .range 0 2⟩
/-- `RING.CTRL.TILE_PCT` [23:16] (R428). -/
def RING_CTRL_TILE_PCT : Fld := ⟨0xb00000, 16, 8, .rw, 70, .range 10 90⟩
/-- `RING.CTRL.PCP_TILE` [15:13] (R428). -/
def RING_CTRL_PCP_TILE : Fld := ⟨0xb00000, 13, 3, .rw, 4, .any⟩
/-- `RING.CTRL.PCP_AUD` [12:10] (R428). -/
def RING_CTRL_PCP_AUD : Fld := ⟨0xb00000, 10, 3, .rw, 5, .any⟩
/-- `RING.CTRL.PCP_TOP` [9:7] (R428). -/
def RING_CTRL_PCP_TOP : Fld := ⟨0xb00000, 7, 3, .rw, 3, .any⟩
/-- `RING.STATUS.LINK_A` [31:31] (R428). -/
def RING_STATUS_LINK_A : Fld := ⟨0xb00004, 31, 1, .ro, 0, .any⟩
/-- `RING.STATUS.LINK_B` [30:30] (R428). -/
def RING_STATUS_LINK_B : Fld := ⟨0xb00004, 30, 1, .ro, 0, .any⟩
/-- `RING.STATUS.SPD_A` [29:28] (R428). -/
def RING_STATUS_SPD_A : Fld := ⟨0xb00004, 28, 2, .ro, 0, .any⟩
/-- `RING.STATUS.SPD_B` [27:26] (R428). -/
def RING_STATUS_SPD_B : Fld := ⟨0xb00004, 26, 2, .ro, 0, .any⟩
/-- `RING.STATUS.CLOSED` [25:25] (R428). -/
def RING_STATUS_CLOSED : Fld := ⟨0xb00004, 25, 1, .ro, 0, .any⟩
/-- `RING.STATUS.DUPIDX` [24:24] (R428). -/
def RING_STATUS_DUPIDX : Fld := ⟨0xb00004, 24, 1, .ro, 0, .any⟩
/-- `RING.STATUS.CAP` [13:0] (R428). -/
def RING_STATUS_CAP : Fld := ⟨0xb00004, 0, 14, .ro, 0, .any⟩
/-- `RING.INDEX.INDEX` [7:0] (R428). -/
def RING_INDEX_INDEX : Fld := ⟨0xb00008, 0, 8, .rw, 0xFF, .any⟩
/-- `RING.VLAN.VID` [11:0] (R428). -/
def RING_VLAN_VID : Fld := ⟨0xb0000c, 0, 12, .rw, 0, .any⟩
/-- `RING.MAC.VALUE` [47:0] (R428). -/
def RING_MAC : Fld := ⟨0xb00010, 0, 48, .ro, 0, .any⟩
/-- `RING.MEMBERS.VALUE` [15:0] (R428). -/
def RING_MEMBERS : Fld := ⟨0xb00018, 0, 16, .ro, 0, .any⟩
/-- `RING.CAUSEWAY.FORCE` [31:31] (R428). -/
def RING_CAUSEWAY_FORCE : Fld := ⟨0xb0001c, 31, 1, .rw, 0, .any⟩
/-- `RING.CAUSEWAY.BYPASS` [30:30] (R428). -/
def RING_CAUSEWAY_BYPASS : Fld := ⟨0xb0001c, 30, 1, .ro, 1, .any⟩
/-- `RING.CAUSEWAY.CAP_OK` [29:29] (R428). -/
def RING_CAUSEWAY_CAP_OK : Fld := ⟨0xb0001c, 29, 1, .ro, 0, .any⟩
/-- `RING.CAUSEWAY.CAUSE` [3:0] (R428). -/
def RING_CAUSEWAY_CAUSE : Fld := ⟨0xb0001c, 0, 4, .ro, 0, .any⟩
/-- `RING.PORT.RX.VALUE` [63:0] (R428). -/
def RING_PORT_RX (i : Nat) : Fld := ⟨0xb00100 + 0x80 * i, 0, 64, .ro, 0, .any⟩
/-- `RING.PORT.TX.VALUE` [63:0] (R428). -/
def RING_PORT_TX (i : Nat) : Fld := ⟨0xb00108 + 0x80 * i, 0, 64, .ro, 0, .any⟩
/-- `RING.PORT.FWD.VALUE` [63:0] (R428). -/
def RING_PORT_FWD (i : Nat) : Fld := ⟨0xb00110 + 0x80 * i, 0, 64, .ro, 0, .any⟩
/-- `RING.PORT.FCS.VALUE` [63:0] (R428). -/
def RING_PORT_FCS (i : Nat) : Fld := ⟨0xb00118 + 0x80 * i, 0, 64, .ro, 0, .any⟩
/-- `RING.PORT.STOMP.VALUE` [63:0] (R428). -/
def RING_PORT_STOMP (i : Nat) : Fld := ⟨0xb00120 + 0x80 * i, 0, 64, .ro, 0, .any⟩
/-- `RING.PORT.CRC.VALUE` [63:0] (R428). -/
def RING_PORT_CRC (i : Nat) : Fld := ⟨0xb00128 + 0x80 * i, 0, 64, .ro, 0, .any⟩
/-- `RING.PORT.LATE.VALUE` [63:0] (R428). -/
def RING_PORT_LATE (i : Nat) : Fld := ⟨0xb00130 + 0x80 * i, 0, 64, .ro, 0, .any⟩
/-- `RING.PORT.DUP.VALUE` [63:0] (R428). -/
def RING_PORT_DUP (i : Nat) : Fld := ⟨0xb00138 + 0x80 * i, 0, 64, .ro, 0, .any⟩
/-- `WIN.CTRL.EN` [31:31] (R428). -/
def WIN_CTRL_EN (i : Nat) : Fld := ⟨0xb00400 + 0x20 * i, 31, 1, .rw, 0, .any⟩
/-- `WIN.CTRL.DIR` [30:30] (R428). -/
def WIN_CTRL_DIR (i : Nat) : Fld := ⟨0xb00400 + 0x20 * i, 30, 1, .rw, 0, .any⟩
/-- `WIN.CTRL.REPL` [29:29] (R428). -/
def WIN_CTRL_REPL (i : Nat) : Fld := ⟨0xb00400 + 0x20 * i, 29, 1, .rw, 0, .any⟩
/-- `WIN.CTRL.TGT` [28:28] (R428). -/
def WIN_CTRL_TGT (i : Nat) : Fld := ⟨0xb00400 + 0x20 * i, 28, 1, .rw, 0, .any⟩
/-- `WIN.CTRL.ALTEN` [27:27] (R428). -/
def WIN_CTRL_ALTEN (i : Nat) : Fld := ⟨0xb00400 + 0x20 * i, 27, 1, .rw, 0, .any⟩
/-- `WIN.CTRL.OPEN` [26:26] (R428). -/
def WIN_CTRL_OPEN (i : Nat) : Fld := ⟨0xb00400 + 0x20 * i, 26, 1, .ro, 0, .any⟩
/-- `WIN.CTRL.CLOSED` [25:25] (R428). -/
def WIN_CTRL_CLOSED (i : Nat) : Fld := ⟨0xb00400 + 0x20 * i, 25, 1, .w1c, 0, .any⟩
/-- `WIN.CTRL.PEER` [19:16] (R428). -/
def WIN_CTRL_PEER (i : Nat) : Fld := ⟨0xb00400 + 0x20 * i, 16, 4, .rw, 0, .any⟩
/-- `WIN.CTRL.ALT` [15:12] (R428). -/
def WIN_CTRL_ALT (i : Nat) : Fld := ⟨0xb00400 + 0x20 * i, 12, 4, .rw, 0, .any⟩
/-- `WIN.CTRL.NFR` [9:0] (R428). -/
def WIN_CTRL_NFR (i : Nat) : Fld := ⟨0xb00400 + 0x20 * i, 0, 10, .rw, 1, .range 1 512⟩
/-- `WIN.LOC.TERR` [31:28] (R428). -/
def WIN_LOC_TERR (i : Nat) : Fld := ⟨0xb00404 + 0x20 * i, 28, 4, .rw, 0, .any⟩
/-- `WIN.LOC.POS` [27:23] (R428). -/
def WIN_LOC_POS (i : Nat) : Fld := ⟨0xb00404 + 0x20 * i, 23, 5, .rw, 0, .any⟩
/-- `WIN.LOC.SLOT` [22:17] (R428). -/
def WIN_LOC_SLOT (i : Nat) : Fld := ⟨0xb00404 + 0x20 * i, 17, 6, .rw, 0, .any⟩
/-- `WIN.LOC.RSLOT` [16:11] (R428). -/
def WIN_LOC_RSLOT (i : Nat) : Fld := ⟨0xb00404 + 0x20 * i, 11, 6, .rw, 63, .any⟩
/-- `WIN.LOC.PWIN` [5:0] (R428). -/
def WIN_LOC_PWIN (i : Nat) : Fld := ⟨0xb00404 + 0x20 * i, 0, 6, .rw, 0, .any⟩
/-- `WIN.TROW.VALUE` [11:0] (R428). -/
def WIN_TROW (i : Nat) : Fld := ⟨0xb00408 + 0x20 * i, 0, 12, .rw, 0, .any⟩
/-- `WIN.GEN.LAST` [31:16] (R428). -/
def WIN_GEN_LAST (i : Nat) : Fld := ⟨0xb0040c + 0x20 * i, 16, 16, .ro, 0, .any⟩
/-- `WIN.GEN.GEN` [15:0] (R428). -/
def WIN_GEN_GEN (i : Nat) : Fld := ⟨0xb0040c + 0x20 * i, 0, 16, .ro, 0, .any⟩
/-- `WIN.STALE.VALUE` [63:0] (R428). -/
def WIN_STALE (i : Nat) : Fld := ⟨0xb00410 + 0x20 * i, 0, 64, .ro, 0, .any⟩
/-- `WIN.MISS.VALUE` [63:0] (R428). -/
def WIN_MISS (i : Nat) : Fld := ⟨0xb00418 + 0x20 * i, 0, 64, .ro, 0, .any⟩
/-- `FW.STATE.MODE` [31:30] (R475). -/
def FW_STATE_MODE : Fld := ⟨0xc00000, 30, 2, .rw, 0, .any⟩
/-- `FW.STATE.ERR` [29:29] (R475). -/
def FW_STATE_ERR : Fld := ⟨0xc00000, 29, 1, .w1c, 0, .any⟩
/-- `FW.NEG.GO` [31:31] (R475). -/
def FW_NEG_GO : Fld := ⟨0xc00004, 31, 1, .wo, 0, .any⟩
/-- `FW.NEG.DONE` [30:30] (R475). -/
def FW_NEG_DONE : Fld := ⟨0xc00004, 30, 1, .ro, 0, .any⟩
/-- `FW.NEG.STATUS` [29:22] (R475). -/
def FW_NEG_STATUS : Fld := ⟨0xc00004, 22, 8, .ro, 0, .any⟩
/-- `FW.NEG.IFMAJ` [15:8] (R475). -/
def FW_NEG_IFMAJ : Fld := ⟨0xc00004, 8, 8, .rw, 0, .any⟩
/-- `FW.NEG.IFMIN` [7:0] (R475). -/
def FW_NEG_IFMIN : Fld := ⟨0xc00004, 0, 8, .rw, 0, .any⟩
/-- `FW.FEAT_MOD.VALUE` [63:0] (R475). -/
def FW_FEAT_MOD : Fld := ⟨0xc00008, 0, 64, .ro, 0, .any⟩
/-- `FW.FEAT_HOST.VALUE` [63:0] (R475). -/
def FW_FEAT_HOST : Fld := ⟨0xc00010, 0, 64, .rw, 0, .any⟩
/-- `FW.FEAT_AGREED.VALUE` [63:0] (R475). -/
def FW_FEAT_AGREED : Fld := ⟨0xc00018, 0, 64, .ro, 0, .any⟩
/-- `FW.FEAT_USE.VALUE` [63:0] (R475). -/
def FW_FEAT_USE : Fld := ⟨0xc00020, 0, 64, .ro, 0, .any⟩
/-- `FW.IFVER.IFMAJ` [15:8] (R475). -/
def FW_IFVER_IFMAJ : Fld := ⟨0xc00028, 8, 8, .ro, 0, .any⟩
/-- `FW.IFVER.IFMIN` [7:0] (R475). -/
def FW_IFVER_IFMIN : Fld := ⟨0xc00028, 0, 8, .ro, 0, .any⟩
/-- `FW.RELEASE.VALUE` [31:0] (R475). -/
def FW_RELEASE : Fld := ⟨0xc0002c, 0, 32, .ro, 0, .any⟩
/-- `FW.CORE.CTRL.RESTART` [31:31] (R475). -/
def FW_CORE_CTRL_RESTART (i : Nat) : Fld := ⟨0xc00040 + 0x10 * i, 31, 1, .wo, 0, .any⟩
/-- `FW.CORE.CTRL.WDOG_MS` [7:0] (R475). -/
def FW_CORE_CTRL_WDOG_MS (i : Nat) : Fld := ⟨0xc00040 + 0x10 * i, 0, 8, .rw, 10, .range 1 255⟩
/-- `FW.CORE.STATUS.STATE` [31:29] (R475). -/
def FW_CORE_STATUS_STATE (i : Nat) : Fld := ⟨0xc00044 + 0x10 * i, 29, 3, .ro, 0, .any⟩
/-- `FW.CORE.STATUS.CAUSE` [28:26] (R475). -/
def FW_CORE_STATUS_CAUSE (i : Nat) : Fld := ⟨0xc00044 + 0x10 * i, 26, 3, .ro, 0, .any⟩
/-- `FW.CORE.STATUS.RECENT` [2:0] (R475). -/
def FW_CORE_STATUS_RECENT (i : Nat) : Fld := ⟨0xc00044 + 0x10 * i, 0, 3, .ro, 0, .any⟩
/-- `FW.CORE.KICK.VALUE` [31:0] (R475). -/
def FW_CORE_KICK (i : Nat) : Fld := ⟨0xc00048 + 0x10 * i, 0, 32, .wo, 0, .any⟩
/-- `FW.CORE.RESTARTS.VALUE` [31:0] (R475). -/
def FW_CORE_RESTARTS (i : Nat) : Fld := ⟨0xc0004c + 0x10 * i, 0, 32, .ro, 0, .any⟩
/-- `FW.LOAD.ADDR` [47:0] (R475). -/
def FW_LOAD_ADDR : Fld := ⟨0xc000a0, 0, 48, .rw, 0, .align 9⟩
/-- `FW.LOAD_CTRL.GO` [31:31] (R475). -/
def FW_LOAD_CTRL_GO : Fld := ⟨0xc000a8, 31, 1, .wo, 0, .any⟩
/-- `FW.LOAD_CTRL.BUSY` [30:30] (R475). -/
def FW_LOAD_CTRL_BUSY : Fld := ⟨0xc000a8, 30, 1, .ro, 0, .any⟩
/-- `FW.LOAD_CTRL.STATUS` [29:22] (R475). -/
def FW_LOAD_CTRL_STATUS : Fld := ⟨0xc000a8, 22, 8, .ro, 0, .any⟩
/-- `FW.LOAD_CTRL.CORE` [2:0] (R475). -/
def FW_LOAD_CTRL_CORE : Fld := ⟨0xc000a8, 0, 3, .rw, 0, .range 0 4⟩
/-- `HRING.APER_LO.BASE_LO` [31:20] (R475). -/
def HRING_APER_LO_BASE_LO : Fld := ⟨0xc00100, 20, 12, .rw, 0, .any⟩
/-- `HRING.APER_LO.ERR` [1:1] (R475). -/
def HRING_APER_LO_ERR : Fld := ⟨0xc00100, 1, 1, .w1c, 0, .any⟩
/-- `HRING.APER_LO.EN` [0:0] (R475). -/
def HRING_APER_LO_EN : Fld := ⟨0xc00100, 0, 1, .rw, 0, .any⟩
/-- `HRING.APER_HI.BASE_HI` [15:0] (R475). -/
def HRING_APER_HI_BASE_HI : Fld := ⟨0xc00104, 0, 16, .rw, 0x10, .any⟩
/-- `HRING.EV.BASE.ADDR` [47:0] (R475). -/
def HRING_EV_BASE_ADDR : Fld := ⟨0xc00180, 0, 48, .rw, 0, .align 12⟩
/-- `HRING.EV.CTRL.EN` [31:31] (R475). -/
def HRING_EV_CTRL_EN : Fld := ⟨0xc00188, 31, 1, .rw, 0, .any⟩
/-- `HRING.EV.CTRL.IEN` [30:30] (R475). -/
def HRING_EV_CTRL_IEN : Fld := ⟨0xc00188, 30, 1, .rw, 0, .any⟩
/-- `HRING.EV.CTRL.ERR` [29:29] (R475). -/
def HRING_EV_CTRL_ERR : Fld := ⟨0xc00188, 29, 1, .w1c, 0, .any⟩
/-- `HRING.EV.CTRL.SIZE` [3:0] (R475). -/
def HRING_EV_CTRL_SIZE : Fld := ⟨0xc00188, 0, 4, .rw, 4, .range 4 12⟩
/-- `HRING.EV.DB.TAIL` [31:16] (R475). -/
def HRING_EV_DB_TAIL : Fld := ⟨0xc0018c, 16, 16, .ro, 0, .any⟩
/-- `HRING.EV.DB.HEAD` [15:0] (R475). -/
def HRING_EV_DB_HEAD : Fld := ⟨0xc0018c, 0, 16, .rw, 0, .any⟩
/-- `HRING.EV.LOST.VALUE` [63:0] (R475). -/
def HRING_EV_LOST : Fld := ⟨0xc00190, 0, 64, .ro, 0, .any⟩
/-- `HRING.Q.SQB.ADDR` [47:0] (R475). -/
def HRING_Q_SQB_ADDR (i : Nat) : Fld := ⟨0xc00200 + 0x20 * i, 0, 48, .rw, 0, .align 12⟩
/-- `HRING.Q.CQB.ADDR` [47:0] (R475). -/
def HRING_Q_CQB_ADDR (i : Nat) : Fld := ⟨0xc00208 + 0x20 * i, 0, 48, .rw, 0, .align 12⟩
/-- `HRING.Q.CTRL.EN` [31:31] (R475). -/
def HRING_Q_CTRL_EN (i : Nat) : Fld := ⟨0xc00210 + 0x20 * i, 31, 1, .rw, 0, .any⟩
/-- `HRING.Q.CTRL.IEN` [30:30] (R475). -/
def HRING_Q_CTRL_IEN (i : Nat) : Fld := ⟨0xc00210 + 0x20 * i, 30, 1, .rw, 0, .any⟩
/-- `HRING.Q.CTRL.ERR` [29:29] (R475). -/
def HRING_Q_CTRL_ERR (i : Nat) : Fld := ⟨0xc00210 + 0x20 * i, 29, 1, .w1c, 0, .any⟩
/-- `HRING.Q.CTRL.TARGET` [28:28] (R475). -/
def HRING_Q_CTRL_TARGET (i : Nat) : Fld := ⟨0xc00210 + 0x20 * i, 28, 1, .rw, 0, .any⟩
/-- `HRING.Q.CTRL.SQSIZE` [23:20] (R475). -/
def HRING_Q_CTRL_SQSIZE (i : Nat) : Fld := ⟨0xc00210 + 0x20 * i, 20, 4, .rw, 4, .range 4 10⟩
/-- `HRING.Q.CTRL.CQSIZE` [19:16] (R475). -/
def HRING_Q_CTRL_CQSIZE (i : Nat) : Fld := ⟨0xc00210 + 0x20 * i, 16, 4, .rw, 4, .range 4 12⟩
/-- `HRING.Q.CTRL.STATUS` [15:8] (R475). -/
def HRING_Q_CTRL_STATUS (i : Nat) : Fld := ⟨0xc00210 + 0x20 * i, 8, 8, .ro, 0, .any⟩
/-- `HRING.Q.SQDB.HEAD` [31:16] (R475). -/
def HRING_Q_SQDB_HEAD (i : Nat) : Fld := ⟨0xc00214 + 0x20 * i, 16, 16, .ro, 0, .any⟩
/-- `HRING.Q.SQDB.TAIL` [15:0] (R475). -/
def HRING_Q_SQDB_TAIL (i : Nat) : Fld := ⟨0xc00214 + 0x20 * i, 0, 16, .rw, 0, .any⟩
/-- `HRING.Q.CQDB.TAIL` [31:16] (R475). -/
def HRING_Q_CQDB_TAIL (i : Nat) : Fld := ⟨0xc00218 + 0x20 * i, 16, 16, .ro, 0, .any⟩
/-- `HRING.Q.CQDB.HEAD` [15:0] (R475). -/
def HRING_Q_CQDB_HEAD (i : Nat) : Fld := ⟨0xc00218 + 0x20 * i, 0, 16, .rw, 0, .any⟩
/-- `HRING.Q.STAT.RETAINED` [12:0] (R475). -/
def HRING_Q_STAT_RETAINED (i : Nat) : Fld := ⟨0xc0021c + 0x20 * i, 0, 13, .ro, 0, .any⟩
/-- `INT.EVENT.FWSRAM` [4:4] (R517). -/
def INT_EVENT_FWSRAM : Fld := ⟨0xd00000, 4, 1, .w1c, 0, .any⟩
/-- `INT.EVENT.ACCESS` [3:3] (R517). -/
def INT_EVENT_ACCESS : Fld := ⟨0xd00000, 3, 1, .w1c, 0, .any⟩
/-- `INT.EVENT.BOOKS` [2:2] (R517). -/
def INT_EVENT_BOOKS : Fld := ⟨0xd00000, 2, 1, .w1c, 0, .any⟩
/-- `INT.EVENT.FQ_LOST` [1:1] (R517). -/
def INT_EVENT_FQ_LOST : Fld := ⟨0xd00000, 1, 1, .w1c, 0, .any⟩
/-- `INT.EVENT.FAULT` [0:0] (R517). -/
def INT_EVENT_FAULT : Fld := ⟨0xd00000, 0, 1, .w1c, 0, .any⟩
/-- `INT.EVENT_EN.FWSRAM` [4:4] (R517). -/
def INT_EVENT_EN_FWSRAM : Fld := ⟨0xd00004, 4, 1, .rw, 0, .any⟩
/-- `INT.EVENT_EN.ACCESS` [3:3] (R517). -/
def INT_EVENT_EN_ACCESS : Fld := ⟨0xd00004, 3, 1, .rw, 0, .any⟩
/-- `INT.EVENT_EN.BOOKS` [2:2] (R517). -/
def INT_EVENT_EN_BOOKS : Fld := ⟨0xd00004, 2, 1, .rw, 0, .any⟩
/-- `INT.EVENT_EN.FQ_LOST` [1:1] (R517). -/
def INT_EVENT_EN_FQ_LOST : Fld := ⟨0xd00004, 1, 1, .rw, 0, .any⟩
/-- `INT.EVENT_EN.FAULT` [0:0] (R517). -/
def INT_EVENT_EN_FAULT : Fld := ⟨0xd00004, 0, 1, .rw, 0, .any⟩
/-- `INT.FQ_STAT.LOST` [31:31] (R517). -/
def INT_FQ_STAT_LOST : Fld := ⟨0xd00008, 31, 1, .w1c, 0, .any⟩
/-- `INT.FQ_STAT.FILL` [6:0] (R517). -/
def INT_FQ_STAT_FILL : Fld := ⟨0xd00008, 0, 7, .ro, 0, .any⟩
/-- `INT.FQ_POP.POP` [31:31] (R517). -/
def INT_FQ_POP_POP : Fld := ⟨0xd0000c, 31, 1, .wo, 0, .any⟩
/-- `INT.FQ_DATA.VALUE` [31:0] (R517). -/
def INT_FQ_DATA (i : Nat) : Fld := ⟨0xd00010 + 0x4 * i, 0, 32, .ro, 0, .any⟩
/-- `INT.SREP.GO` [31:31] (R517). -/
def INT_SREP_GO : Fld := ⟨0xd00030, 31, 1, .wo, 0, .any⟩
/-- `INT.SREP.BUSY` [30:30] (R517). -/
def INT_SREP_BUSY : Fld := ⟨0xd00030, 30, 1, .ro, 0, .any⟩
/-- `INT.SREP.ERR` [29:29] (R517). -/
def INT_SREP_ERR : Fld := ⟨0xd00030, 29, 1, .w1c, 0, .any⟩
/-- `INT.SREP.TERR` [28:25] (R517). -/
def INT_SREP_TERR : Fld := ⟨0xd00030, 25, 4, .rw, 0, .any⟩
/-- `INT.SREP.POS` [24:20] (R517). -/
def INT_SREP_POS : Fld := ⟨0xd00030, 20, 5, .rw, 0, .any⟩
/-- `INT.SREP.MEM` [19:18] (R517). -/
def INT_SREP_MEM : Fld := ⟨0xd00030, 18, 2, .rw, 0, .any⟩
/-- `INT.SREP.BANK` [17:14] (R517). -/
def INT_SREP_BANK : Fld := ⟨0xd00030, 14, 4, .rw, 0, .any⟩
/-- `INT.SREP.INDEX` [13:6] (R517). -/
def INT_SREP_INDEX : Fld := ⟨0xd00030, 6, 8, .rw, 0, .any⟩
/-- `INT.SREP.SPARE` [5:4] (R517). -/
def INT_SREP_SPARE : Fld := ⟨0xd00030, 4, 2, .rw, 0, .any⟩
/-- `INT.BOOKS.FAILED` [3:0] (R517). -/
def INT_BOOKS_FAILED : Fld := ⟨0xd00034, 0, 4, .w1c, 0, .any⟩
/-- `INT.ADDR_ERR.VALUE` [63:0] (R517). -/
def INT_ADDR_ERR : Fld := ⟨0xd00040, 0, 64, .ro, 0, .any⟩
/-- `INT.FW_FAULT.VALUE` [63:0] (R517). -/
def INT_FW_FAULT : Fld := ⟨0xd00048, 0, 64, .ro, 0, .any⟩
/-- `INT.FAULTS.VALUE` [63:0] (R517). -/
def INT_FAULTS : Fld := ⟨0xd00050, 0, 64, .ro, 0, .any⟩
/-- `INT.REPLAYS.VALUE` [63:0] (R517). -/
def INT_REPLAYS : Fld := ⟨0xd00058, 0, 64, .ro, 0, .any⟩
/-- `INT.FALLBACK.VALUE` [63:0] (R517). -/
def INT_FALLBACK : Fld := ⟨0xd00060, 0, 64, .ro, 0, .any⟩
/-- `INT.FWSRAM_CORR.VALUE` [63:0] (R517). -/
def INT_FWSRAM_CORR : Fld := ⟨0xd00068, 0, 64, .ro, 0, .any⟩
/-- `INT.FWSRAM_UNC.VALUE` [63:0] (R517). -/
def INT_FWSRAM_UNC : Fld := ⟨0xd00070, 0, 64, .ro, 0, .any⟩
/-- `INT.FQ_DROP.VALUE` [63:0] (R517). -/
def INT_FQ_DROP : Fld := ⟨0xd00078, 0, 64, .ro, 0, .any⟩
/-- `INT.STN.FENCED` [16:0] (R517). -/
def INT_STN_FENCED (i : Nat) : Fld := ⟨0xd00100 + 0x4 * i, 0, 17, .rw, 0, .any⟩
/-- `PWR.CTRL.GO` [31:31] (R534). -/
def PWR_CTRL_GO : Fld := ⟨0xe00000, 31, 1, .wo, 0, .any⟩
/-- `PWR.CTRL.ERR` [30:30] (R534). -/
def PWR_CTRL_ERR : Fld := ⟨0xe00000, 30, 1, .w1c, 0, .any⟩
/-- `PWR.CTRL.TARGET` [29:27] (R534). -/
def PWR_CTRL_TARGET : Fld := ⟨0xe00000, 27, 3, .rw, 0, .range 0 5⟩
/-- `PWR.CTRL.RETAIN` [23:16] (R534). -/
def PWR_CTRL_RETAIN : Fld := ⟨0xe00000, 16, 8, .rw, 1, .any⟩
/-- `PWR.CTRL.OP_NEXT` [1:0] (R534). -/
def PWR_CTRL_OP_NEXT : Fld := ⟨0xe00000, 0, 2, .rw, 0, .range 0 1⟩
/-- `PWR.STATUS.STATE` [31:29] (R534). -/
def PWR_STATUS_STATE : Fld := ⟨0xe00004, 29, 3, .ro, 0, .any⟩
/-- `PWR.STATUS.CAUSE` [28:26] (R534). -/
def PWR_STATUS_CAUSE : Fld := ⟨0xe00004, 26, 3, .ro, 0, .any⟩
/-- `PWR.STATUS.BUSY` [25:25] (R534). -/
def PWR_STATUS_BUSY : Fld := ⟨0xe00004, 25, 1, .ro, 0, .any⟩
/-- `PWR.STATUS.OP` [1:0] (R534). -/
def PWR_STATUS_OP : Fld := ⟨0xe00004, 0, 2, .ro, 0, .any⟩
/-- `PWR.TEMP.HOT` [31:31] (R534). -/
def PWR_TEMP_HOT : Fld := ⟨0xe00008, 31, 1, .ro, 0, .any⟩
/-- `PWR.TEMP.THERM` [30:30] (R534). -/
def PWR_TEMP_THERM : Fld := ⟨0xe00008, 30, 1, .ro, 0, .any⟩
/-- `PWR.TEMP.TJ` [15:0] (R534). -/
def PWR_TEMP_TJ : Fld := ⟨0xe00008, 0, 16, .ro, 0, .any⟩
/-- `PWR.WAKE_EN.VALUE` [3:0] (R534). -/
def PWR_WAKE_EN : Fld := ⟨0xe0000c, 0, 4, .rw, 0xF, .any⟩
/-- `PWR.EVENT.HOT` [0:0] (R534). -/
def PWR_EVENT_HOT : Fld := ⟨0xe00010, 0, 1, .w1c, 0, .any⟩
/-- `PWR.EVENT.THERM` [1:1] (R534). -/
def PWR_EVENT_THERM : Fld := ⟨0xe00010, 1, 1, .w1c, 0, .any⟩
/-- `PWR.EVENT.WAKE` [2:2] (R534). -/
def PWR_EVENT_WAKE : Fld := ⟨0xe00010, 2, 1, .w1c, 0, .any⟩
/-- `PWR.EVENT_EN.HOT` [0:0] (R534). -/
def PWR_EVENT_EN_HOT : Fld := ⟨0xe00014, 0, 1, .rw, 0, .any⟩
/-- `PWR.EVENT_EN.THERM` [1:1] (R534). -/
def PWR_EVENT_EN_THERM : Fld := ⟨0xe00014, 1, 1, .rw, 0, .any⟩
/-- `PWR.EVENT_EN.WAKE` [2:2] (R534). -/
def PWR_EVENT_EN_WAKE : Fld := ⟨0xe00014, 2, 1, .rw, 0, .any⟩
/-- `MBX.CTRL.GO` [31:31] (R449). -/
def MBX_CTRL_GO : Fld := ⟨0xf00000, 31, 1, .wo, 0, .any⟩
/-- `MBX.CTRL.IEN` [30:30] (R449). -/
def MBX_CTRL_IEN : Fld := ⟨0xf00000, 30, 1, .rw, 0, .any⟩
/-- `MBX.STATUS.BUSY` [31:31] (R449). -/
def MBX_STATUS_BUSY : Fld := ⟨0xf00004, 31, 1, .ro, 0, .any⟩
/-- `MBX.STATUS.DONE` [30:30] (R449). -/
def MBX_STATUS_DONE : Fld := ⟨0xf00004, 30, 1, .w1c, 0, .any⟩
/-- `MBX.STATUS.ERR` [29:29] (R449). -/
def MBX_STATUS_ERR : Fld := ⟨0xf00004, 29, 1, .w1c, 0, .any⟩
/-- `MBX.STATUS.PROT` [1:0] (R449). -/
def MBX_STATUS_PROT : Fld := ⟨0xf00004, 0, 2, .ro, 1, .any⟩
/-- `MBX.REQ.VALUE` [31:0] (R449). -/
def MBX_REQ (i : Nat) : Fld := ⟨0xf01000 + 0x4 * i, 0, 32, .rw, 0, .any⟩
/-- `MBX.RSP.VALUE` [31:0] (R449). -/
def MBX_RSP (i : Nat) : Fld := ⟨0xf02000 + 0x4 * i, 0, 32, .ro, 0, .any⟩
/-- `EF.STATUS.CODE_BUSY` [31:31] (R496). -/
def EF_STATUS_CODE_BUSY : Fld := ⟨0xf08000, 31, 1, .ro, 0, .any⟩
/-- `EF.STATUS.DATA_BUSY` [30:30] (R496). -/
def EF_STATUS_DATA_BUSY : Fld := ⟨0xf08000, 30, 1, .ro, 0, .any⟩
/-- `EF.STATUS.SLOT` [29:29] (R496). -/
def EF_STATUS_SLOT : Fld := ⟨0xf08000, 29, 1, .ro, 0, .any⟩
/-- `EF.STATUS.TRIAL` [28:28] (R496). -/
def EF_STATUS_TRIAL : Fld := ⟨0xf08000, 28, 1, .ro, 0, .any⟩
/-- `EF.STATUS.CODE_SPARE` [14:8] (R496). -/
def EF_STATUS_CODE_SPARE : Fld := ⟨0xf08000, 8, 7, .ro, 64, .any⟩
/-- `EF.STATUS.DATA_SPARE` [4:0] (R496). -/
def EF_STATUS_DATA_SPARE : Fld := ⟨0xf08000, 0, 5, .ro, 16, .any⟩
/-- `EF.CFG.PF_EN` [31:31] (R496). -/
def EF_CFG_PF_EN : Fld := ⟨0xf08004, 31, 1, .rw, 1, .any⟩
/-- `EF.CFG.BC_EN` [30:30] (R496). -/
def EF_CFG_BC_EN : Fld := ⟨0xf08004, 30, 1, .rw, 1, .any⟩
/-- `EF.CFG.RETRY_DATA` [1:1] (R496). -/
def EF_CFG_RETRY_DATA : Fld := ⟨0xf08004, 1, 1, .rw, 1, .any⟩
/-- `EF.CFG.RETRY_CODE` [0:0] (R496). -/
def EF_CFG_RETRY_CODE : Fld := ⟨0xf08004, 0, 1, .rw, 1, .any⟩
/-- `EF.UPD_CTRL.START` [31:31] (R496). -/
def EF_UPD_CTRL_START : Fld := ⟨0xf08008, 31, 1, .wo, 0, .any⟩
/-- `EF.UPD_CTRL.GO` [30:30] (R496). -/
def EF_UPD_CTRL_GO : Fld := ⟨0xf08008, 30, 1, .wo, 0, .any⟩
/-- `EF.UPD_CTRL.COMMIT` [29:29] (R496). -/
def EF_UPD_CTRL_COMMIT : Fld := ⟨0xf08008, 29, 1, .wo, 0, .any⟩
/-- `EF.UPD_CTRL.ABORT` [28:28] (R496). -/
def EF_UPD_CTRL_ABORT : Fld := ⟨0xf08008, 28, 1, .wo, 0, .any⟩
/-- `EF.UPD_CTRL.ACTIVATE` [27:27] (R496). -/
def EF_UPD_CTRL_ACTIVATE : Fld := ⟨0xf08008, 27, 1, .wo, 0, .any⟩
/-- `EF.UPD_CTRL.BUSY` [26:26] (R496). -/
def EF_UPD_CTRL_BUSY : Fld := ⟨0xf08008, 26, 1, .ro, 0, .any⟩
/-- `EF.UPD_CTRL.STATUS` [25:18] (R496). -/
def EF_UPD_CTRL_STATUS : Fld := ⟨0xf08008, 18, 8, .ro, 0, .any⟩
/-- `EF.UPD_CTRL.CHUNK` [8:0] (R496). -/
def EF_UPD_CTRL_CHUNK : Fld := ⟨0xf08008, 0, 9, .rw, 0, .any⟩
/-- `EF.UPD_LEN.VALUE` [31:0] (R496). -/
def EF_UPD_LEN : Fld := ⟨0xf0800c, 0, 32, .rw, 0, .any⟩
/-- `EF.CORR.VALUE` [63:0] (R496). -/
def EF_CORR : Fld := ⟨0xf08010, 0, 64, .ro, 0, .any⟩
/-- `EF.RETRY.VALUE` [63:0] (R496). -/
def EF_RETRY : Fld := ⟨0xf08018, 0, 64, .ro, 0, .any⟩
/-- `EF.STALL.VALUE` [63:0] (R496). -/
def EF_STALL : Fld := ⟨0xf08020, 0, 64, .ro, 0, .any⟩
/-- `EF.ERASE.VALUE` [63:0] (R496). -/
def EF_ERASE : Fld := ⟨0xf08028, 0, 64, .ro, 0, .any⟩
/-- `EF.RETIRED.CODE` [15:8] (R496). -/
def EF_RETIRED_CODE : Fld := ⟨0xf08030, 8, 8, .ro, 0, .any⟩
/-- `EF.RETIRED.DATA` [7:0] (R496). -/
def EF_RETIRED_DATA : Fld := ⟨0xf08030, 0, 8, .ro, 0, .any⟩
/-- `EF.STAGE.VALUE` [31:0] (R496). -/
def EF_STAGE (i : Nat) : Fld := ⟨0xf0c000 + 0x4 * i, 0, 32, .wo, 0, .any⟩
/-- `SEQ.STATE.STATE` [31:29] (R187). -/
def SEQ_STATE_STATE (t p : Nat) : Fld := ⟨stnBase t p + 0x0, 29, 3, .ro, 0, .any⟩
/-- `SEQ.STATE.CAUSE` [27:24] (R187). -/
def SEQ_STATE_CAUSE (t p : Nat) : Fld := ⟨stnBase t p + 0x0, 24, 4, .ro, 0, .any⟩
/-- `SEQ.STATE.PC` [12:0] (R187). -/
def SEQ_STATE_PC (t p : Nat) : Fld := ⟨stnBase t p + 0x0, 0, 13, .ro, 0, .any⟩
/-- `SEQ.END.CYCLE` [22:0] (R187). -/
def SEQ_END_CYCLE (t p : Nat) : Fld := ⟨stnBase t p + 0x4, 0, 23, .ro, 0, .any⟩
/-- `SEQ.MAXEND.CYCLE` [22:0] (R187). -/
def SEQ_MAXEND_CYCLE (t p : Nat) : Fld := ⟨stnBase t p + 0x8, 0, 23, .rc, 0, .any⟩
/-- `SEQ.PHASE.PHASE` [15:0] (R187). -/
def SEQ_PHASE_PHASE (t p : Nat) : Fld := ⟨stnBase t p + 0xc, 0, 16, .rw, 0, .any⟩
/-- `SEQ.FAULT.VALID` [31:31] (R187). -/
def SEQ_FAULT_VALID (t p : Nat) : Fld := ⟨stnBase t p + 0x10, 31, 1, .w1c, 0, .any⟩
/-- `SEQ.FAULT.MULTI` [30:30] (R187). -/
def SEQ_FAULT_MULTI (t p : Nat) : Fld := ⟨stnBase t p + 0x10, 30, 1, .w1c, 0, .any⟩
/-- `SEQ.FAULT.CAUSE` [29:28] (R187). -/
def SEQ_FAULT_CAUSE (t p : Nat) : Fld := ⟨stnBase t p + 0x10, 28, 2, .ro, 0, .any⟩
/-- `SEQ.FAULT.PC` [20:8] (R187). -/
def SEQ_FAULT_PC (t p : Nat) : Fld := ⟨stnBase t p + 0x10, 8, 13, .ro, 0, .any⟩
/-- `SEQ.FAULT.CODE` [7:0] (R187). -/
def SEQ_FAULT_CODE (t p : Nat) : Fld := ⟨stnBase t p + 0x10, 0, 8, .ro, 0, .any⟩
/-- `SEQ.INSN.VALUE` [63:0] (R187). -/
def SEQ_INSN (t p : Nat) : Fld := ⟨stnBase t p + 0x20, 0, 64, .ro, 0, .any⟩
/-- `SEQ.STALL.VALUE` [63:0] (R187). -/
def SEQ_STALL (t p : Nat) : Fld := ⟨stnBase t p + 0x28, 0, 64, .ro, 0, .any⟩
/-- `SEQ.NULL_SIG.VALUE` [63:0] (R187). -/
def SEQ_NULL_SIG (t p : Nat) : Fld := ⟨stnBase t p + 0x30, 0, 64, .ro, 0, .any⟩
/-- `SEQ.PTR.DYN` [16:16] (R187). -/
def SEQ_PTR_DYN (t p : Nat) (i : Nat) : Fld := ⟨stnBase t p + 0x40 + 0x4 * i, 16, 1, .ro, 0, .any⟩
/-- `SEQ.PTR.VALUE` [15:0] (R187). -/
def SEQ_PTR (t p : Nat) (i : Nat) : Fld := ⟨stnBase t p + 0x40 + 0x4 * i, 0, 16, .ro, 0, .any⟩
/-- `SEQ.DESC.WORD` [31:0] (R187). -/
def SEQ_DESC_WORD (t p : Nat) (i : Nat) : Fld := ⟨stnBase t p + 0x100 + 0x4 * i, 0, 32, .ro, 0, .any⟩
/-- `ARRAY.STATE.BUSY` [31:31] (R88). -/
def ARRAY_STATE_BUSY (t p : Nat) : Fld := ⟨stnBase t p + 0x800, 31, 1, .ro, 0, .any⟩
/-- `ARRAY.STATE.SET` [30:30] (R88). -/
def ARRAY_STATE_SET (t p : Nat) : Fld := ⟨stnBase t p + 0x800, 30, 1, .ro, 0, .any⟩
/-- `ARRAY.STATE.FORM` [29:28] (R88). -/
def ARRAY_STATE_FORM (t p : Nat) : Fld := ⟨stnBase t p + 0x800, 28, 2, .ro, 0, .any⟩
/-- `ARRAY.STATE.GROUP` [27:26] (R88). -/
def ARRAY_STATE_GROUP (t p : Nat) : Fld := ⟨stnBase t p + 0x800, 26, 2, .ro, 0, .any⟩
/-- `ARRAY.STATE.WFMT` [7:4] (R88). -/
def ARRAY_STATE_WFMT (t p : Nat) : Fld := ⟨stnBase t p + 0x800, 4, 4, .ro, 0, .any⟩
/-- `ARRAY.STATE.AFMT` [3:0] (R88). -/
def ARRAY_STATE_AFMT (t p : Nat) : Fld := ⟨stnBase t p + 0x800, 0, 4, .ro, 0, .any⟩
/-- `ARRAY.FUSE.COL_OMIT` [13:8] (R88). -/
def ARRAY_FUSE_COL_OMIT (t p : Nat) : Fld := ⟨stnBase t p + 0x804, 8, 6, .ro, 32, .any⟩
/-- `ARRAY.FUSE.ROW_OMIT` [5:0] (R88). -/
def ARRAY_FUSE_ROW_OMIT (t p : Nat) : Fld := ⟨stnBase t p + 0x804, 0, 6, .ro, 32, .any⟩
/-- `ARRAY.REPAIR.EN` [31:31] (R88). -/
def ARRAY_REPAIR_EN (t p : Nat) : Fld := ⟨stnBase t p + 0x808, 31, 1, .rw, 0, .any⟩
/-- `ARRAY.REPAIR.ERR` [30:30] (R88). -/
def ARRAY_REPAIR_ERR (t p : Nat) : Fld := ⟨stnBase t p + 0x808, 30, 1, .w1c, 0, .any⟩
/-- `ARRAY.REPAIR.COL_OMIT` [13:8] (R88). -/
def ARRAY_REPAIR_COL_OMIT (t p : Nat) : Fld := ⟨stnBase t p + 0x808, 8, 6, .rw, 32, .range 0 33⟩
/-- `ARRAY.REPAIR.ROW_OMIT` [5:0] (R88). -/
def ARRAY_REPAIR_ROW_OMIT (t p : Nat) : Fld := ⟨stnBase t p + 0x808, 0, 6, .rw, 32, .range 0 33⟩
/-- `ARRAY.CHK_LOG.VALID` [31:31] (R88). -/
def ARRAY_CHK_LOG_VALID (t p : Nat) : Fld := ⟨stnBase t p + 0x80c, 31, 1, .w1c, 0, .any⟩
/-- `ARRAY.CHK_LOG.MULTI` [30:30] (R88). -/
def ARRAY_CHK_LOG_MULTI (t p : Nat) : Fld := ⟨stnBase t p + 0x80c, 30, 1, .w1c, 0, .any⟩
/-- `ARRAY.CHK_LOG.KIND` [29:29] (R88). -/
def ARRAY_CHK_LOG_KIND (t p : Nat) : Fld := ⟨stnBase t p + 0x80c, 29, 1, .ro, 0, .any⟩
/-- `ARRAY.CHK_LOG.COL` [21:16] (R88). -/
def ARRAY_CHK_LOG_COL (t p : Nat) : Fld := ⟨stnBase t p + 0x80c, 16, 6, .ro, 63, .any⟩
/-- `ARRAY.CHK_LOG.ROW` [13:8] (R88). -/
def ARRAY_CHK_LOG_ROW (t p : Nat) : Fld := ⟨stnBase t p + 0x80c, 8, 6, .ro, 63, .any⟩
/-- `ARRAY.STALL_W.VALUE` [63:0] (R88). -/
def ARRAY_STALL_W (t p : Nat) : Fld := ⟨stnBase t p + 0x810, 0, 64, .ro, 0, .any⟩
/-- `ARRAY.STALL_N.VALUE` [63:0] (R88). -/
def ARRAY_STALL_N (t p : Nat) : Fld := ⟨stnBase t p + 0x818, 0, 64, .ro, 0, .any⟩
/-- `ARRAY.STALL_D.VALUE` [63:0] (R88). -/
def ARRAY_STALL_D (t p : Nat) : Fld := ⟨stnBase t p + 0x820, 0, 64, .ro, 0, .any⟩
/-- `ARRAY.TILES.VALUE` [63:0] (R88). -/
def ARRAY_TILES (t p : Nat) : Fld := ⟨stnBase t p + 0x828, 0, 64, .ro, 0, .any⟩
/-- `ARRAY.CHK_COUNT.VALUE` [63:0] (R88). -/
def ARRAY_CHK_COUNT (t p : Nat) : Fld := ⟨stnBase t p + 0x830, 0, 64, .ro, 0, .any⟩
/-- `CURVE.STATE.EMPTY_USE` [31:31] (R115). -/
def CURVE_STATE_EMPTY_USE (t p : Nat) : Fld := ⟨stnBase t p + 0x900, 31, 1, .w1c, 0, .any⟩
/-- `CURVE.STATE.QUAD` [11:8] (R115). -/
def CURVE_STATE_QUAD (t p : Nat) : Fld := ⟨stnBase t p + 0x900, 8, 4, .ro, 0, .any⟩
/-- `CURVE.STATE.LOADING` [7:4] (R115). -/
def CURVE_STATE_LOADING (t p : Nat) : Fld := ⟨stnBase t p + 0x900, 4, 4, .ro, 0, .any⟩
/-- `CURVE.STATE.VALID` [3:0] (R115). -/
def CURVE_STATE_VALID (t p : Nat) : Fld := ⟨stnBase t p + 0x900, 0, 4, .ro, 0, .any⟩
/-- `SCALE.SKEW_LOG.VALID` [31:31] (R115). -/
def SCALE_SKEW_LOG_VALID (t p : Nat) : Fld := ⟨stnBase t p + 0x904, 31, 1, .w1c, 0, .any⟩
/-- `SCALE.SKEW_LOG.MULTI` [30:30] (R115). -/
def SCALE_SKEW_LOG_MULTI (t p : Nat) : Fld := ⟨stnBase t p + 0x904, 30, 1, .w1c, 0, .any⟩
/-- `SCALE.SKEW_LOG.SIDE` [24:24] (R115). -/
def SCALE_SKEW_LOG_SIDE (t p : Nat) : Fld := ⟨stnBase t p + 0x904, 24, 1, .ro, 0, .any⟩
/-- `SCALE.SKEW_LOG.EXPECTED` [15:8] (R115). -/
def SCALE_SKEW_LOG_EXPECTED (t p : Nat) : Fld := ⟨stnBase t p + 0x904, 8, 8, .ro, 0, .any⟩
/-- `SCALE.SKEW_LOG.FOUND` [7:0] (R115). -/
def SCALE_SKEW_LOG_FOUND (t p : Nat) : Fld := ⟨stnBase t p + 0x904, 0, 8, .ro, 0, .any⟩
/-- `CURVE.SAT.VALUE` [63:0] (R115). -/
def CURVE_SAT (t p : Nat) : Fld := ⟨stnBase t p + 0x908, 0, 64, .ro, 0, .any⟩
/-- `CURVE.NAN.VALUE` [63:0] (R115). -/
def CURVE_NAN (t p : Nat) : Fld := ⟨stnBase t p + 0x910, 0, 64, .ro, 0, .any⟩
/-- `SCALE.SKEW_COUNT.VALUE` [63:0] (R115). -/
def SCALE_SKEW_COUNT (t p : Nat) : Fld := ⟨stnBase t p + 0x918, 0, 64, .ro, 0, .any⟩
/-- `MEM.ECC_LOG.VALID` [31:31] (R136). -/
def MEM_ECC_LOG_VALID (t p : Nat) : Fld := ⟨stnBase t p + 0xa00, 31, 1, .w1c, 0, .any⟩
/-- `MEM.ECC_LOG.MULTI` [30:30] (R136). -/
def MEM_ECC_LOG_MULTI (t p : Nat) : Fld := ⟨stnBase t p + 0xa00, 30, 1, .w1c, 0, .any⟩
/-- `MEM.ECC_LOG.UNC` [29:29] (R136). -/
def MEM_ECC_LOG_UNC (t p : Nat) : Fld := ⟨stnBase t p + 0xa00, 29, 1, .ro, 0, .any⟩
/-- `MEM.ECC_LOG.MEM` [28:27] (R136). -/
def MEM_ECC_LOG_MEM (t p : Nat) : Fld := ⟨stnBase t p + 0xa00, 27, 2, .ro, 0, .any⟩
/-- `MEM.ECC_LOG.SCRUB` [26:26] (R136). -/
def MEM_ECC_LOG_SCRUB (t p : Nat) : Fld := ⟨stnBase t p + 0xa00, 26, 1, .ro, 0, .any⟩
/-- `MEM.ECC_LOG.ROW` [25:16] (R136). -/
def MEM_ECC_LOG_ROW (t p : Nat) : Fld := ⟨stnBase t p + 0xa00, 16, 10, .ro, 0, .any⟩
/-- `MEM.ECC_LOG.WORD` [5:0] (R136). -/
def MEM_ECC_LOG_WORD (t p : Nat) : Fld := ⟨stnBase t p + 0xa00, 0, 6, .ro, 0, .any⟩
/-- `SLOT.FAULT_LOG.VALID` [31:31] (R136). -/
def SLOT_FAULT_LOG_VALID (t p : Nat) : Fld := ⟨stnBase t p + 0xa04, 31, 1, .w1c, 0, .any⟩
/-- `SLOT.FAULT_LOG.MULTI` [30:30] (R136). -/
def SLOT_FAULT_LOG_MULTI (t p : Nat) : Fld := ⟨stnBase t p + 0xa04, 30, 1, .w1c, 0, .any⟩
/-- `SLOT.FAULT_LOG.CAUSE` [29:28] (R136). -/
def SLOT_FAULT_LOG_CAUSE (t p : Nat) : Fld := ⟨stnBase t p + 0xa04, 28, 2, .ro, 0, .any⟩
/-- `SLOT.FAULT_LOG.SLOT` [13:8] (R136). -/
def SLOT_FAULT_LOG_SLOT (t p : Nat) : Fld := ⟨stnBase t p + 0xa04, 8, 6, .ro, 0, .any⟩
/-- `SLOT.FAULT_LOG.CODE` [7:0] (R136). -/
def SLOT_FAULT_LOG_CODE (t p : Nat) : Fld := ⟨stnBase t p + 0xa04, 0, 8, .ro, 0, .any⟩
/-- `MEM.PASS.EN` [31:31] (R136). -/
def MEM_PASS_EN (t p : Nat) : Fld := ⟨stnBase t p + 0xa08, 31, 1, .rw, if p = 16 then 1 else 0, .any⟩
/-- `MEM.PASS.ERR` [30:30] (R136). -/
def MEM_PASS_ERR (t p : Nat) : Fld := ⟨stnBase t p + 0xa08, 30, 1, .w1c, 0, .any⟩
/-- `MEM.CONFLICT_W.VALUE` [63:0] (R136). -/
def MEM_CONFLICT_W (t p : Nat) : Fld := ⟨stnBase t p + 0xa10, 0, 64, .ro, 0, .any⟩
/-- `MEM.CONFLICT_A.VALUE` [63:0] (R136). -/
def MEM_CONFLICT_A (t p : Nat) : Fld := ⟨stnBase t p + 0xa18, 0, 64, .ro, 0, .any⟩
/-- `MEM.CONFLICT_P.VALUE` [63:0] (R136). -/
def MEM_CONFLICT_P (t p : Nat) : Fld := ⟨stnBase t p + 0xa20, 0, 64, .ro, 0, .any⟩
/-- `MEM.ECC_CORR.VALUE` [63:0] (R136). -/
def MEM_ECC_CORR (t p : Nat) : Fld := ⟨stnBase t p + 0xa28, 0, 64, .ro, 0, .any⟩
/-- `MEM.ECC_UNC.VALUE` [63:0] (R136). -/
def MEM_ECC_UNC (t p : Nat) : Fld := ⟨stnBase t p + 0xa30, 0, 64, .ro, 0, .any⟩
/-- `MEM.LINK_ERR.VALUE` [63:0] (R136). -/
def MEM_LINK_ERR (t p : Nat) : Fld := ⟨stnBase t p + 0xa38, 0, 64, .ro, 0, .any⟩
/-- `SLOT.STALL.VALUE` [63:0] (R136). -/
def SLOT_STALL (t p : Nat) : Fld := ⟨stnBase t p + 0xa40, 0, 64, .ro, 0, .any⟩
/-- `SLOT.RESET.VALUE` [63:0] (R136). -/
def SLOT_RESET (t p : Nat) : Fld := ⟨stnBase t p + 0xa48, 0, 64, .ro, 0, .any⟩
/-- `SLOT.CFG.EN` [31:31] (R136). -/
def SLOT_CFG_EN (t p : Nat) (i : Nat) : Fld := ⟨stnBase t p + 0xc00 + 0x8 * i, 31, 1, .rw, 0, .any⟩
/-- `SLOT.CFG.MEM` [30:29] (R136). -/
def SLOT_CFG_MEM (t p : Nat) (i : Nat) : Fld := ⟨stnBase t p + 0xc00 + 0x8 * i, 29, 2, .rw, 0, .range 0 2⟩
/-- `SLOT.CFG.KIND` [28:27] (R136). -/
def SLOT_CFG_KIND (t p : Nat) (i : Nat) : Fld := ⟨stnBase t p + 0xc00 + 0x8 * i, 27, 2, .rw, 0, .range 0 2⟩
/-- `SLOT.CFG.READERS` [26:25] (R136). -/
def SLOT_CFG_READERS (t p : Nat) (i : Nat) : Fld := ⟨stnBase t p + 0xc00 + 0x8 * i, 25, 2, .rw, 1, .range 1 3⟩
/-- `SLOT.CFG.INIT` [24:24] (R136). -/
def SLOT_CFG_INIT (t p : Nat) (i : Nat) : Fld := ⟨stnBase t p + 0xc00 + 0x8 * i, 24, 1, .rw, 0, .any⟩
/-- `SLOT.CFG.CHECK` [23:23] (R136). -/
def SLOT_CFG_CHECK (t p : Nat) (i : Nat) : Fld := ⟨stnBase t p + 0xc00 + 0x8 * i, 23, 1, .rw, 0, .any⟩
/-- `SLOT.CFG.PRODUCER` [22:20] (R136). -/
def SLOT_CFG_PRODUCER (t p : Nat) (i : Nat) : Fld := ⟨stnBase t p + 0xc00 + 0x8 * i, 20, 3, .rw, 0, .range 0 6⟩
/-- `SLOT.CFG.ROWS` [19:16] (R136). -/
def SLOT_CFG_ROWS (t p : Nat) (i : Nat) : Fld := ⟨stnBase t p + 0xc00 + 0x8 * i, 16, 4, .rw, 1, .range 1 8⟩
/-- `SLOT.CFG.RDSET` [13:10] (R136). -/
def SLOT_CFG_RDSET (t p : Nat) (i : Nat) : Fld := ⟨stnBase t p + 0xc00 + 0x8 * i, 10, 4, .rw, 0, .any⟩
/-- `SLOT.CFG.BASE` [9:0] (R136). -/
def SLOT_CFG_BASE (t p : Nat) (i : Nat) : Fld := ⟨stnBase t p + 0xc00 + 0x8 * i, 0, 10, .rw, 0, .any⟩
/-- `SLOT.STAT.PRESENT` [31:31] (R136). -/
def SLOT_STAT_PRESENT (t p : Nat) (i : Nat) : Fld := ⟨stnBase t p + 0xc04 + 0x8 * i, 31, 1, .ro, 0, .any⟩
/-- `SLOT.STAT.RELEASED` [30:29] (R136). -/
def SLOT_STAT_RELEASED (t p : Nat) (i : Nat) : Fld := ⟨stnBase t p + 0xc04 + 0x8 * i, 29, 2, .ro, 0, .any⟩
/-- `SLOT.STAT.RWAIT` [28:28] (R136). -/
def SLOT_STAT_RWAIT (t p : Nat) (i : Nat) : Fld := ⟨stnBase t p + 0xc04 + 0x8 * i, 28, 1, .ro, 0, .any⟩
/-- `SLOT.STAT.WWAIT` [27:27] (R136). -/
def SLOT_STAT_WWAIT (t p : Nat) (i : Nat) : Fld := ⟨stnBase t p + 0xc04 + 0x8 * i, 27, 1, .ro, 0, .any⟩
/-- `VEC.STATE.BUSY` [31:31] (R216). -/
def VEC_STATE_BUSY (t p : Nat) : Fld := ⟨stnBase t p + 0x1000, 31, 1, .ro, 0, .any⟩
/-- `VEC.STATE.FLAG` [30:30] (R216). -/
def VEC_STATE_FLAG (t p : Nat) : Fld := ⟨stnBase t p + 0x1000, 30, 1, .ro, 0, .any⟩
/-- `VEC.STATE.WIN_BUSY` [29:29] (R216). -/
def VEC_STATE_WIN_BUSY (t p : Nat) : Fld := ⟨stnBase t p + 0x1000, 29, 1, .ro, 0, .any⟩
/-- `VEC.STATE.FUNC` [7:0] (R216). -/
def VEC_STATE_FUNC (t p : Nat) : Fld := ⟨stnBase t p + 0x1000, 0, 8, .ro, 0, .any⟩
/-- `WIN.FAULT.VALID` [31:31] (R216). -/
def WIN_FAULT_VALID (t p : Nat) : Fld := ⟨stnBase t p + 0x1004, 31, 1, .w1c, 0, .any⟩
/-- `WIN.FAULT.MULTI` [30:30] (R216). -/
def WIN_FAULT_MULTI (t p : Nat) : Fld := ⟨stnBase t p + 0x1004, 30, 1, .w1c, 0, .any⟩
/-- `WIN.FAULT.CAUSE` [29:27] (R216). -/
def WIN_FAULT_CAUSE (t p : Nat) : Fld := ⟨stnBase t p + 0x1004, 27, 3, .ro, 0, .any⟩
/-- `WIN.FAULT.WC` [15:13] (R216). -/
def WIN_FAULT_WC (t p : Nat) : Fld := ⟨stnBase t p + 0x1004, 13, 3, .ro, 0, .any⟩
/-- `WIN.FAULT.PC` [12:0] (R216). -/
def WIN_FAULT_PC (t p : Nat) : Fld := ⟨stnBase t p + 0x1004, 0, 13, .ro, 0, .any⟩
/-- `VEC.BUSYCNT.VALUE` [63:0] (R216). -/
def VEC_BUSYCNT (t p : Nat) : Fld := ⟨stnBase t p + 0x1008, 0, 64, .ro, 0, .any⟩
/-- `VEC.NAN.VALUE` [63:0] (R216). -/
def VEC_NAN (t p : Nat) : Fld := ⟨stnBase t p + 0x1010, 0, 64, .ro, 0, .any⟩
/-- `VEC.DIV0.VALUE` [63:0] (R216). -/
def VEC_DIV0 (t p : Nat) : Fld := ⟨stnBase t p + 0x1018, 0, 64, .ro, 0, .any⟩
/-- `VEC.EMPTY.VALUE` [63:0] (R216). -/
def VEC_EMPTY (t p : Nat) : Fld := ⟨stnBase t p + 0x1020, 0, 64, .ro, 0, .any⟩
/-- `WIN.FETCH.VALUE` [63:0] (R216). -/
def WIN_FETCH (t p : Nat) : Fld := ⟨stnBase t p + 0x1028, 0, 64, .ro, 0, .any⟩
/-- `WIN.OPOS.VALUE` [23:0] (R216). -/
def WIN_OPOS (t p : Nat) (i : Nat) : Fld := ⟨stnBase t p + 0x1030 + 0x4 * i, 0, 24, .ro, 0, .any⟩
/-- `EXP.CTRL.EN` [31:31] (R304). -/
def EXP_CTRL_EN (t p : Nat) (i : Nat) : Fld := ⟨stnBase t p + 0x1100 + 0x8 * i, 31, 1, .rw, 0, .any⟩
/-- `EXP.CTRL.RESIDENT` [30:30] (R304). -/
def EXP_CTRL_RESIDENT (t p : Nat) (i : Nat) : Fld := ⟨stnBase t p + 0x1100 + 0x8 * i, 30, 1, .rw, 0, .any⟩
/-- `EXP.CTRL.DESC` [29:27] (R304). -/
def EXP_CTRL_DESC (t p : Nat) (i : Nat) : Fld := ⟨stnBase t p + 0x1100 + 0x8 * i, 27, 3, .rw, 0, .any⟩
/-- `EXP.CTRL.SRING_M1` [26:21] (R304). -/
def EXP_CTRL_SRING_M1 (t p : Nat) (i : Nat) : Fld := ⟨stnBase t p + 0x1100 + 0x8 * i, 21, 6, .rw, 1, .range 1 63⟩
/-- `EXP.CTRL.TIDX` [20:15] (R304). -/
def EXP_CTRL_TIDX (t p : Nat) (i : Nat) : Fld := ⟨stnBase t p + 0x1100 + 0x8 * i, 15, 6, .rw, 0, .any⟩
/-- `EXP.CTRL.TN_M1` [14:9] (R304). -/
def EXP_CTRL_TN_M1 (t p : Nat) (i : Nat) : Fld := ⟨stnBase t p + 0x1100 + 0x8 * i, 9, 6, .rw, 0, .any⟩
/-- `EXP.POS.REGION` [31:0] (R304). -/
def EXP_POS_REGION (t p : Nat) (i : Nat) : Fld := ⟨stnBase t p + 0x1104 + 0x8 * i, 0, 32, .ro, 0, .any⟩
/-- `EXP.LOG.VALID` [31:31] (R304). -/
def EXP_LOG_VALID (t p : Nat) : Fld := ⟨stnBase t p + 0x1110, 31, 1, .w1c, 0, .any⟩
/-- `EXP.LOG.MULTI` [30:30] (R304). -/
def EXP_LOG_MULTI (t p : Nat) : Fld := ⟨stnBase t p + 0x1110, 30, 1, .w1c, 0, .any⟩
/-- `EXP.LOG.CH` [29:29] (R304). -/
def EXP_LOG_CH (t p : Nat) : Fld := ⟨stnBase t p + 0x1110, 29, 1, .ro, 0, .any⟩
/-- `EXP.LOG.CAUSE` [28:28] (R304). -/
def EXP_LOG_CAUSE (t p : Nat) : Fld := ⟨stnBase t p + 0x1110, 28, 1, .ro, 0, .any⟩
/-- `EXP.LOG.REGION` [27:0] (R304). -/
def EXP_LOG_REGION (t p : Nat) : Fld := ⟨stnBase t p + 0x1110, 0, 28, .ro, 0, .any⟩
/-- `EXP.SLOTS.VALUE` [63:0] (R304). -/
def EXP_SLOTS (t p : Nat) : Fld := ⟨stnBase t p + 0x1118, 0, 64, .ro, 0, .any⟩
/-- `EXP.WAIT.VALUE` [63:0] (R304). -/
def EXP_WAIT (t p : Nat) : Fld := ⟨stnBase t p + 0x1120, 0, 64, .ro, 0, .any⟩
/-- `EXP.REJECT.VALUE` [63:0] (R304). -/
def EXP_REJECT (t p : Nat) : Fld := ⟨stnBase t p + 0x1128, 0, 64, .ro, 0, .any⟩
/-- `TSTORE.CTRL.ERR` [31:31] (R136). -/
def TSTORE_CTRL_ERR (t : Nat) : Fld := ⟨terBase t + 0x0, 31, 1, .w1c, 0, .any⟩
/-- `TSTORE.CTRL.PAGES` [7:0] (R136). -/
def TSTORE_CTRL_PAGES (t : Nat) : Fld := ⟨terBase t + 0x0, 0, 8, .rw, 0x40, .range 0 128⟩
/-- `TSTORE.ECC_LOG.VALID` [31:31] (R136). -/
def TSTORE_ECC_LOG_VALID (t : Nat) : Fld := ⟨terBase t + 0x4, 31, 1, .w1c, 0, .any⟩
/-- `TSTORE.ECC_LOG.MULTI` [30:30] (R136). -/
def TSTORE_ECC_LOG_MULTI (t : Nat) : Fld := ⟨terBase t + 0x4, 30, 1, .w1c, 0, .any⟩
/-- `TSTORE.ECC_LOG.UNC` [29:29] (R136). -/
def TSTORE_ECC_LOG_UNC (t : Nat) : Fld := ⟨terBase t + 0x4, 29, 1, .ro, 0, .any⟩
/-- `TSTORE.ECC_LOG.SCRUB` [28:28] (R136). -/
def TSTORE_ECC_LOG_SCRUB (t : Nat) : Fld := ⟨terBase t + 0x4, 28, 1, .ro, 0, .any⟩
/-- `TSTORE.ECC_LOG.ROW` [27:16] (R136). -/
def TSTORE_ECC_LOG_ROW (t : Nat) : Fld := ⟨terBase t + 0x4, 16, 12, .ro, 0, .any⟩
/-- `TSTORE.ECC_LOG.WORD` [5:0] (R136). -/
def TSTORE_ECC_LOG_WORD (t : Nat) : Fld := ⟨terBase t + 0x4, 0, 6, .ro, 0, .any⟩
/-- `TSTORE.CONFLICT.VALUE` [63:0] (R136). -/
def TSTORE_CONFLICT (t : Nat) : Fld := ⟨terBase t + 0x8, 0, 64, .ro, 0, .any⟩
/-- `TSTORE.ECC_CORR.VALUE` [63:0] (R136). -/
def TSTORE_ECC_CORR (t : Nat) : Fld := ⟨terBase t + 0x10, 0, 64, .ro, 0, .any⟩
/-- `TSTORE.ECC_UNC.VALUE` [63:0] (R136). -/
def TSTORE_ECC_UNC (t : Nat) : Fld := ⟨terBase t + 0x18, 0, 64, .ro, 0, .any⟩
/-- `TSTORE.BOUNDS.VALUE` [63:0] (R136). -/
def TSTORE_BOUNDS (t : Nat) : Fld := ⟨terBase t + 0x20, 0, 64, .ro, 0, .any⟩
/-- `TAKE.CTRL.REQ` [31:31] (R151). -/
def TAKE_CTRL_REQ (t : Nat) : Fld := ⟨terBase t + 0x40, 31, 1, .wo, 0, .any⟩
/-- `TAKE.CTRL.RESTORE` [30:30] (R151). -/
def TAKE_CTRL_RESTORE (t : Nat) : Fld := ⟨terBase t + 0x40, 30, 1, .wo, 0, .any⟩
/-- `TAKE.CTRL.ERR` [29:29] (R151). -/
def TAKE_CTRL_ERR (t : Nat) : Fld := ⟨terBase t + 0x40, 29, 1, .w1c, 0, .any⟩
/-- `TAKE.CTRL.POS` [3:0] (R151). -/
def TAKE_CTRL_POS (t : Nat) : Fld := ⟨terBase t + 0x40, 0, 4, .wo, 0, .any⟩
/-- `TAKE.STATUS.PHASE` [31:30] (R151). -/
def TAKE_STATUS_PHASE (t : Nat) : Fld := ⟨terBase t + 0x44, 30, 2, .ro, 0, .any⟩
/-- `TAKE.STATUS.HOP` [23:16] (R151). -/
def TAKE_STATUS_HOP (t : Nat) : Fld := ⟨terBase t + 0x44, 16, 8, .ro, 8, .any⟩
/-- `TAKE.STATUS.POS` [3:0] (R151). -/
def TAKE_STATUS_POS (t : Nat) : Fld := ⟨terBase t + 0x44, 0, 4, .ro, 0, .any⟩
/-- `TAKE.COUNT.VALUE` [63:0] (R151). -/
def TAKE_COUNT (t : Nat) : Fld := ⟨terBase t + 0x48, 0, 64, .ro, 0, .any⟩
/-- `MAP.ASSIGNED` [31:31] (R151). -/
def MAP_ASSIGNED (t : Nat) (i : Nat) : Fld := ⟨terBase t + 0x60 + 0x4 * i, 31, 1, .ro, 0, .any⟩
/-- `MAP.RETIRED` [30:30] (R151). -/
def MAP_RETIRED (t : Nat) (i : Nat) : Fld := ⟨terBase t + 0x60 + 0x4 * i, 30, 1, .ro, 0, .any⟩
/-- `MAP.HANDLE` [23:8] (R151). -/
def MAP_HANDLE (t : Nat) (i : Nat) : Fld := ⟨terBase t + 0x60 + 0x4 * i, 8, 16, .ro, 0, .any⟩
/-- `MAP.STAGE` [7:0] (R151). -/
def MAP_STAGE (t : Nat) (i : Nat) : Fld := ⟨terBase t + 0x60 + 0x4 * i, 0, 8, .ro, 0, .any⟩
/-- `TFLAG.STATE.FLAGS` [31:0] (R187). -/
def TFLAG_STATE_FLAGS (t : Nat) : Fld := ⟨terBase t + 0x100, 0, 32, .ro, 0, .any⟩
/-- `TFLAG.FORCE.FLAGS` [31:0] (R187). -/
def TFLAG_FORCE_FLAGS (t : Nat) : Fld := ⟨terBase t + 0x104, 0, 32, .wo, 0, .any⟩
/-- `ATT.Q.EN` [31:31] (R239). -/
def ATT_Q_EN (t : Nat) (i : Nat) : Fld := ⟨terBase t + 0x200 + 0x4 * i, 31, 1, .rw, 0, .any⟩
/-- `ATT.Q.RAN` [30:30] (R239). -/
def ATT_Q_RAN (t : Nat) (i : Nat) : Fld := ⟨terBase t + 0x200 + 0x4 * i, 30, 1, .ro, 0, .any⟩
/-- `ATT.Q.GO` [28:24] (R239). -/
def ATT_Q_GO (t : Nat) (i : Nat) : Fld := ⟨terBase t + 0x200 + 0x4 * i, 24, 5, .rw, 0, .any⟩
/-- `ATT.Q.DONE` [20:16] (R239). -/
def ATT_Q_DONE (t : Nat) (i : Nat) : Fld := ⟨terBase t + 0x200 + 0x4 * i, 16, 5, .rw, 0, .any⟩
/-- `ATT.Q.ROW` [11:0] (R239). -/
def ATT_Q_ROW (t : Nat) (i : Nat) : Fld := ⟨terBase t + 0x200 + 0x4 * i, 0, 12, .rw, 0, .any⟩
/-- `ATT.STATUS.BUSY` [31:31] (R239). -/
def ATT_STATUS_BUSY (t : Nat) : Fld := ⟨terBase t + 0x210, 31, 1, .ro, 0, .any⟩
/-- `ATT.STATUS.QUEUE` [30:29] (R239). -/
def ATT_STATUS_QUEUE (t : Nat) : Fld := ⟨terBase t + 0x210, 29, 2, .ro, 0, .any⟩
/-- `ATT.STATUS.ROW` [23:12] (R239). -/
def ATT_STATUS_ROW (t : Nat) : Fld := ⟨terBase t + 0x210, 12, 12, .ro, 0, .any⟩
/-- `ATT.STATUS.ENTRY` [3:0] (R239). -/
def ATT_STATUS_ENTRY (t : Nat) : Fld := ⟨terBase t + 0x210, 0, 4, .ro, 0, .any⟩
/-- `ATT.FAULT.VALID` [31:31] (R239). -/
def ATT_FAULT_VALID (t : Nat) : Fld := ⟨terBase t + 0x214, 31, 1, .w1c, 0, .any⟩
/-- `ATT.FAULT.MULTI` [30:30] (R239). -/
def ATT_FAULT_MULTI (t : Nat) : Fld := ⟨terBase t + 0x214, 30, 1, .w1c, 0, .any⟩
/-- `ATT.FAULT.SEQ` [29:19] (R239). -/
def ATT_FAULT_SEQ (t : Nat) : Fld := ⟨terBase t + 0x214, 19, 11, .ro, 0, .any⟩
/-- `ATT.FAULT.CODE` [7:0] (R239). -/
def ATT_FAULT_CODE (t : Nat) : Fld := ⟨terBase t + 0x214, 0, 8, .ro, 0, .any⟩
/-- `ATT.HIT.VALUE` [63:0] (R239). -/
def ATT_HIT (t : Nat) : Fld := ⟨terBase t + 0x218, 0, 64, .ro, 0, .any⟩
/-- `ATT.MISS.VALUE` [63:0] (R239). -/
def ATT_MISS (t : Nat) : Fld := ⟨terBase t + 0x220, 0, 64, .ro, 0, .any⟩
/-- `ATT.FRAMED.VALUE` [63:0] (R239). -/
def ATT_FRAMED (t : Nat) : Fld := ⟨terBase t + 0x228, 0, 64, .ro, 0, .any⟩
/-- `ATT.EMPTY.VALUE` [63:0] (R239). -/
def ATT_EMPTY (t : Nat) : Fld := ⟨terBase t + 0x230, 0, 64, .ro, 0, .any⟩
/-- `ATT.NAN.VALUE` [63:0] (R239). -/
def ATT_NAN (t : Nat) : Fld := ⟨terBase t + 0x238, 0, 64, .ro, 0, .any⟩
/-- `ATT.FRAME.VALID` [31:31] (R239). -/
def ATT_FRAME_VALID (t : Nat) (i : Nat) : Fld := ⟨terBase t + 0x400 + 0x4 * i, 31, 1, .ro, 0, .any⟩
/-- `ATT.FRAME.FILL` [30:30] (R239). -/
def ATT_FRAME_FILL (t : Nat) (i : Nat) : Fld := ⟨terBase t + 0x400 + 0x4 * i, 30, 1, .wo, 0, .any⟩
/-- `ATT.FRAME.FILLING` [29:29] (R239). -/
def ATT_FRAME_FILLING (t : Nat) (i : Nat) : Fld := ⟨terBase t + 0x400 + 0x4 * i, 29, 1, .ro, 0, .any⟩
/-- `ATT.FRAME.ERR` [28:28] (R239). -/
def ATT_FRAME_ERR (t : Nat) (i : Nat) : Fld := ⟨terBase t + 0x400 + 0x4 * i, 28, 1, .w1c, 0, .any⟩
/-- `ATT.FRAME.INVAL` [27:27] (R239). -/
def ATT_FRAME_INVAL (t : Nat) (i : Nat) : Fld := ⟨terBase t + 0x400 + 0x4 * i, 27, 1, .wo, 0, .any⟩
/-- `ATT.FRAME.PPN` [21:0] (R239). -/
def ATT_FRAME_PPN (t : Nat) (i : Nat) : Fld := ⟨terBase t + 0x400 + 0x4 * i, 0, 22, .rw, 0, .any⟩

/-- Part of the register map. -/
def topFams0 : List Fam := [
  ⟨ID_PART_DEVICE, 0x0, 1⟩,
  ⟨ID_PART_REV, 0x0, 1⟩,
  ⟨ID_VARIANT_DRAM_GIB, 0x0, 1⟩,
  ⟨ID_VARIANT_GRADE, 0x0, 1⟩,
  ⟨ID_VARIANT_VARIANT, 0x0, 1⟩,
  ⟨ID_SERIAL, 0x0, 1⟩,
  ⟨GC_STATUS_PHASE, 0x0, 1⟩,
  ⟨GC_STATUS_FAIL, 0x0, 1⟩,
  ⟨GC_RESET_WARM, 0x0, 1⟩,
  ⟨GC_RESET_KEY, 0x0, 1⟩,
  ⟨TIDE_CTRL_SLACK, 0x0, 1⟩,
  ⟨TIDE_CTRL_RATE, 0x0, 1⟩,
  ⟨TIDE_CTRL_SRC, 0x0, 1⟩,
  ⟨TIDE_CTRL_PPS_OUT_EN, 0x0, 1⟩,
  ⟨TIDE_CTRL_TICK_EN, 0x0, 1⟩,
  ⟨TIDE_CTRL_WCLK_OUT_EN, 0x0, 1⟩,
  ⟨TIDE_CTRL_RUN, 0x0, 1⟩,
  ⟨TIDE_PERIOD_PERIOD, 0x0, 1⟩,
  ⟨TIDE_APPLY_LO_TIDE_LO, 0x0, 1⟩,
  ⟨TIDE_APPLY_HI_ARM, 0x0, 1⟩,
  ⟨TIDE_APPLY_HI_PEND, 0x0, 1⟩,
  ⟨TIDE_APPLY_HI_REFUSED, 0x0, 1⟩,
  ⟨TIDE_APPLY_HI_CAUSE, 0x0, 1⟩,
  ⟨TIDE_APPLY_HI_TIDE_HI, 0x0, 1⟩,
  ⟨TIDE_STATUS_REPHASING, 0x0, 1⟩,
  ⟨TIDE_STATUS_ALIGNED, 0x0, 1⟩,
  ⟨TIDE_STATUS_TIME_VALID, 0x0, 1⟩,
  ⟨TIDE_STATUS_LOCK, 0x0, 1⟩,
  ⟨TIDE_EVENT_REPLAY_REFUSED, 0x0, 1⟩,
  ⟨TIDE_EVENT_APPLY_REFUSED, 0x0, 1⟩,
  ⟨TIDE_EVENT_APPLIED, 0x0, 1⟩,
  ⟨TIDE_EVENT_REPHASE, 0x0, 1⟩,
  ⟨TIDE_EVENT_TIME_STEP, 0x0, 1⟩,
  ⟨TIDE_EVENT_LOCK_LOST, 0x0, 1⟩,
  ⟨TIDE_EVENT_LOCK_GAINED, 0x0, 1⟩,
  ⟨TIDE_EVENT_EN_REPLAY_REFUSED, 0x0, 1⟩,
  ⟨TIDE_EVENT_EN_APPLY_REFUSED, 0x0, 1⟩,
  ⟨TIDE_EVENT_EN_APPLIED, 0x0, 1⟩,
  ⟨TIDE_EVENT_EN_REPHASE, 0x0, 1⟩,
  ⟨TIDE_EVENT_EN_TIME_STEP, 0x0, 1⟩]
/-- Part of the register map. -/
def topFams1 : List Fam := [
  ⟨TIDE_EVENT_EN_LOCK_LOST, 0x0, 1⟩,
  ⟨TIDE_EVENT_EN_LOCK_GAINED, 0x0, 1⟩,
  ⟨TIDE_NUM, 0x0, 1⟩,
  ⟨TIDE_BTIME, 0x0, 1⟩,
  ⟨TIDE_ACTIVE_SLACK, 0x0, 1⟩,
  ⟨TIDE_ACTIVE_RATE, 0x0, 1⟩,
  ⟨TIDE_ACTIVE_SRC, 0x0, 1⟩,
  ⟨TIDE_ACTIVE_PERIOD, 0x0, 1⟩,
  ⟨TIDE_BUDGET_B, 0x0, 1⟩,
  ⟨TIDE_TMIN_T_MIN, 0x0, 1⟩,
  ⟨TIDE_REPLAY_COMMIT, 0x0, 1⟩,
  ⟨TIDE_REPLAY_TAKEOVER, 0x0, 1⟩,
  ⟨TIME_NOW, 0x0, 1⟩,
  ⟨TIME_ORIGIN, 0x0, 1⟩,
  ⟨TIME_CTRL_STEP_LIMIT, 0x0, 1⟩,
  ⟨TIME_CTRL_GPTP_PORT, 0x0, 1⟩,
  ⟨TIME_CTRL_TSRC, 0x0, 1⟩,
  ⟨TIME_SYNC_VALID, 0x0, 1⟩,
  ⟨TIME_SYNC_BOUND, 0x0, 1⟩,
  ⟨TIME_PPS_SET, 0x0, 1⟩,
  ⟨PSTG_CTRL_EN, 0x0, 1⟩,
  ⟨PSTG_CTRL_ERR, 0x0, 1⟩,
  ⟨PSTG_CTRL_QFILL, 0x0, 1⟩,
  ⟨PSTG_APPLIED, 0x0, 1⟩,
  ⟨PSTG_LATE, 0x0, 1⟩,
  ⟨PSTG_BLK_EN 0, 0x4, 64⟩,
  ⟨PSTG_BLK_TERR 0, 0x4, 64⟩,
  ⟨PSTG_BLK_NROWS 0, 0x4, 64⟩,
  ⟨PSTG_BLK_TROW 0, 0x4, 64⟩,
  ⟨GH_CTRL_EN, 0x0, 1⟩,
  ⟨GH_CTRL_HOT, 0x0, 1⟩,
  ⟨GH_CTRL_REPEATS, 0x0, 1⟩,
  ⟨GH_CTRL_THIN_PCT, 0x0, 1⟩,
  ⟨GH_CTRL_SHED_PCT, 0x0, 1⟩,
  ⟨GH_CTRL_DRAM_SHARE, 0x0, 1⟩,
  ⟨GH_HOST_ALIVE, 0x0, 1⟩,
  ⟨GH_HOST_LOST, 0x0, 1⟩,
  ⟨GH_HOST_LIVE_MS, 0x0, 1⟩,
  ⟨GH_PARK_PARK_S, 0x0, 1⟩,
  ⟨GH_SHARE_BYTES, 0x0, 1⟩]
/-- Part of the register map. -/
def topFams2 : List Fam := [
  ⟨GH_TB_THIN 0, 0x4, 12⟩,
  ⟨GH_TB_BUDGET 0, 0x4, 12⟩,
  ⟨GH_USE 0, 0x4, 12⟩,
  ⟨GH_ADMIT, 0x0, 1⟩,
  ⟨GH_REF_MEM, 0x0, 1⟩,
  ⟨GH_REF_TIME, 0x0, 1⟩,
  ⟨GH_DEMOTE, 0x0, 1⟩,
  ⟨GH_REPEAT, 0x0, 1⟩,
  ⟨GH_PARKED, 0x0, 1⟩,
  ⟨GH_LOSTCNT, 0x0, 1⟩,
  ⟨GH_SET0_EN 0, 0x8, 16⟩,
  ⟨GH_SET0_CLASS 0, 0x8, 16⟩,
  ⟨GH_SET0_D 0, 0x8, 16⟩,
  ⟨GH_SET0_P 0, 0x8, 16⟩,
  ⟨GH_SET0_HANDLE 0, 0x8, 16⟩,
  ⟨GH_SET1_QTOK 0, 0x8, 16⟩,
  ⟨GH_SET1_NDEC 0, 0x8, 16⟩,
  ⟨PS_KV_BASE, 0x0, 1⟩,
  ⟨PS_KV_PAGES, 0x0, 1⟩,
  ⟨PS_PT_BASE, 0x0, 1⟩,
  ⟨PS_PT_ROWS, 0x0, 1⟩,
  ⟨PS_SEQ_BASE, 0x0, 1⟩,
  ⟨PS_INFO_BASE, 0x0, 1⟩,
  ⟨PS_CTRL_EN, 0x0, 1⟩,
  ⟨PS_CTRL_ERR, 0x0, 1⟩,
  ⟨PS_CMD_GO, 0x0, 1⟩,
  ⟨PS_CMD_BUSY, 0x0, 1⟩,
  ⟨PS_CMD_OP, 0x0, 1⟩,
  ⟨PS_CMD_RES, 0x0, 1⟩,
  ⟨PS_CMD_ARG, 0x0, 1⟩,
  ⟨PS_RESULT_DONE, 0x0, 1⟩,
  ⟨PS_RESULT_STATUS, 0x0, 1⟩,
  ⟨PS_RESULT_PPN, 0x0, 1⟩,
  ⟨PS_INV_GO, 0x0, 1⟩,
  ⟨PS_INV_BUSY, 0x0, 1⟩,
  ⟨PS_INV_ALL, 0x0, 1⟩,
  ⟨PS_INV_SEQ, 0x0, 1⟩,
  ⟨PS_FREE, 0x0, 1⟩,
  ⟨PS_IN_USE, 0x0, 1⟩,
  ⟨PS_PENDING, 0x0, 1⟩]
/-- Part of the register map. -/
def topFams3 : List Fam := [
  ⟨PS_RESV, 0x0, 1⟩,
  ⟨PS_COW, 0x0, 1⟩,
  ⟨WL_STATUS_BUSY, 0x0, 1⟩,
  ⟨WL_STATUS_PHASE, 0x0, 1⟩,
  ⟨WL_STATUS_LAYER, 0x0, 1⟩,
  ⟨WL_FAULT_VALID, 0x0, 1⟩,
  ⟨WL_FAULT_MULTI, 0x0, 1⟩,
  ⟨WL_FAULT_LAYER, 0x0, 1⟩,
  ⟨WL_FAULT_CODE, 0x0, 1⟩,
  ⟨WL_BYTES, 0x0, 1⟩,
  ⟨WL_SLOTS, 0x0, 1⟩,
  ⟨WL_REJECT, 0x0, 1⟩,
  ⟨WL_SCRC, 0x0, 1⟩,
  ⟨WL_ADP_VALID 0, 0x4, 64⟩,
  ⟨WL_ADP_CURRENT 0, 0x4, 64⟩,
  ⟨WL_ADP_AID 0, 0x4, 64⟩,
  ⟨WL_ADP_AVER 0, 0x4, 64⟩,
  ⟨WL_ADP_REFS 0, 0x4, 64⟩,
  ⟨DMA_BASE_ADDR 0, 0x40, 16⟩,
  ⟨DMA_RING_EN 0, 0x40, 16⟩,
  ⟨DMA_RING_HALTED 0, 0x40, 16⟩,
  ⟨DMA_RING_ABORT 0, 0x40, 16⟩,
  ⟨DMA_RING_SIZE 0, 0x40, 16⟩,
  ⟨DMA_PROD_INDEX 0, 0x40, 16⟩,
  ⟨DMA_CONS_INDEX 0, 0x40, 16⟩,
  ⟨DMA_STAT_HALF 0, 0x40, 16⟩,
  ⟨DMA_STAT_FULL 0, 0x40, 16⟩,
  ⟨DMA_STAT_ERR 0, 0x40, 16⟩,
  ⟨DMA_STAT_ERR_RING 0, 0x40, 16⟩,
  ⟨DMA_STAT_BUSY 0, 0x40, 16⟩,
  ⟨DMA_STAT_CODE 0, 0x40, 16⟩,
  ⟨DMA_IEN_HALF 0, 0x40, 16⟩,
  ⟨DMA_IEN_FULL 0, 0x40, 16⟩,
  ⟨DMA_IEN_ERR 0, 0x40, 16⟩,
  ⟨DMA_BYTES 0, 0x40, 16⟩,
  ⟨DMA_DONE 0, 0x40, 16⟩,
  ⟨TIER_CTRL_EN, 0x0, 1⟩,
  ⟨TIER_CTRL_WSHARE, 0x0, 1⟩,
  ⟨TIER_CTRL_ERR, 0x0, 1⟩,
  ⟨TIER_AGE_CLOCK, 0x0, 1⟩]
/-- Part of the register map. -/
def topFams4 : List Fam := [
  ⟨TIER_AGE_AGE_TIDES, 0x0, 1⟩,
  ⟨TIER_NRATE_RATE, 0x0, 1⟩,
  ⟨TIER_POOL_DRAM, 0x0, 1⟩,
  ⟨TIER_FREE, 0x0, 1⟩,
  ⟨TIER_POOL_NAND, 0x0, 1⟩,
  ⟨TIER_NFREE, 0x0, 1⟩,
  ⟨TIER_WUSE, 0x0, 1⟩,
  ⟨TIER_WLIMIT, 0x0, 1⟩,
  ⟨TIER_QUEUE_PAGES, 0x0, 1⟩,
  ⟨TIER_FAULT_VALID, 0x0, 1⟩,
  ⟨TIER_FAULT_MULTI, 0x0, 1⟩,
  ⟨TIER_FAULT_CAUSE, 0x0, 1⟩,
  ⟨TIER_FAULT_CLIENT, 0x0, 1⟩,
  ⟨TIER_FAULT_LAYER, 0x0, 1⟩,
  ⟨TIER_PROMOTE, 0x0, 1⟩,
  ⟨TIER_EVICT, 0x0, 1⟩,
  ⟨TIER_WRITEBACK, 0x0, 1⟩,
  ⟨TIER_REBUILD, 0x0, 1⟩,
  ⟨TIER_RETIRE, 0x0, 1⟩,
  ⟨TIER_POISON, 0x0, 1⟩,
  ⟨TIER_CLIENT_CTRL_EN 0, 0x20, 64⟩,
  ⟨TIER_CLIENT_CTRL_KIND 0, 0x20, 64⟩,
  ⟨TIER_CLIENT_FLOOR 0, 0x20, 64⟩,
  ⟨TIER_CLIENT_CEIL 0, 0x20, 64⟩,
  ⟨TIER_CLIENT_DRAM 0, 0x20, 64⟩,
  ⟨TIER_CLIENT_NAND 0, 0x20, 64⟩,
  ⟨TIER_CLIENT_PINNED 0, 0x20, 64⟩,
  ⟨TIER_CLIENT_SRAM 0, 0x20, 64⟩,
  ⟨TIER_CLIENT_OLDEST 0, 0x20, 64⟩,
  ⟨DRAM_CTRL_EN, 0x0, 1⟩,
  ⟨DRAM_CTRL_ERR, 0x0, 1⟩,
  ⟨DRAM_CTRL_SCRUB_HOURS, 0x0, 1⟩,
  ⟨DRAM_CTRL_CE_PPR, 0x0, 1⟩,
  ⟨DRAM_STATUS_TRAINED, 0x0, 1⟩,
  ⟨DRAM_STATUS_FAIL, 0x0, 1⟩,
  ⟨DRAM_STATUS_FAST, 0x0, 1⟩,
  ⟨DRAM_STATUS_CH, 0x0, 1⟩,
  ⟨DRAM_PROT_BASE_EN 0, 0x8, 8⟩,
  ⟨DRAM_PROT_BASE_UNIT 0, 0x8, 8⟩,
  ⟨DRAM_PROT_SIZE_UNITS 0, 0x8, 8⟩]
/-- Part of the register map. -/
def topFams5 : List Fam := [
  ⟨DRAM_RETAIN_SEG, 0x0, 1⟩,
  ⟨DRAM_PANIC_SLOTS, 0x0, 1⟩,
  ⟨DRAM_PANIC_CYC, 0x0, 1⟩,
  ⟨DRAM_THROTTLE_ACT_LIMIT, 0x0, 1⟩,
  ⟨DRAM_THROTTLE_GAP, 0x0, 1⟩,
  ⟨DRAM_ELOG_POP, 0x0, 1⟩,
  ⟨DRAM_ELOG_LOST, 0x0, 1⟩,
  ⟨DRAM_ELOG_FILL, 0x0, 1⟩,
  ⟨DRAM_ELOG_DATA 0, 0x4, 8⟩,
  ⟨DRAM_CORR, 0x0, 1⟩,
  ⟨DRAM_UNC, 0x0, 1⟩,
  ⟨DRAM_RFM, 0x0, 1⟩,
  ⟨DRAM_THROTTLED, 0x0, 1⟩,
  ⟨DRAM_PANIC_CNT, 0x0, 1⟩,
  ⟨DRAM_RD_BYTES, 0x0, 1⟩,
  ⟨DRAM_WR_BYTES, 0x0, 1⟩,
  ⟨DRAM_STARVE, 0x0, 1⟩,
  ⟨NAND_CTRL_EN, 0x0, 1⟩,
  ⟨NAND_CTRL_WL_DELTA, 0x0, 1⟩,
  ⟨NAND_STATUS_STATE, 0x0, 1⟩,
  ⟨NAND_STATUS_SPARE_MIN, 0x0, 1⟩,
  ⟨NAND_DIE_FAIL_MASK, 0x0, 1⟩,
  ⟨NAND_THRESH_RELOC_BITS, 0x0, 1⟩,
  ⟨NAND_THRESH_RD_LIMIT, 0x0, 1⟩,
  ⟨NAND_THRESH_PATROL_H, 0x0, 1⟩,
  ⟨NAND_WEAR_MAX, 0x0, 1⟩,
  ⟨NAND_WEAR_MEAN, 0x0, 1⟩,
  ⟨NAND_WEAR_MIN_MIN, 0x0, 1⟩,
  ⟨NAND_SOFT, 0x0, 1⟩,
  ⟨NAND_REBUILD, 0x0, 1⟩,
  ⟨NAND_REBUILD_FAIL, 0x0, 1⟩,
  ⟨NAND_RELOC, 0x0, 1⟩,
  ⟨NAND_GROWN_BAD, 0x0, 1⟩,
  ⟨NAND_RRT_LO_OFS0_3 0, 0x8, 16⟩,
  ⟨NAND_RRT_HI_EN 0, 0x8, 16⟩,
  ⟨NAND_RRT_HI_OFS4_6 0, 0x8, 16⟩,
  ⟨VIN_PORT_CTRL_EN 0, 0x100, 4⟩,
  ⟨VIN_PORT_CTRL_EDGE 0, 0x100, 4⟩,
  ⟨VIN_PORT_CTRL_VPOL 0, 0x100, 4⟩,
  ⟨VIN_PORT_CTRL_HPOL 0, 0x100, 4⟩]
/-- Part of the register map. -/
def topFams6 : List Fam := [
  ⟨VIN_PORT_CTRL_DEPOL 0, 0x100, 4⟩,
  ⟨VIN_PORT_CTRL_DEMODE 0, 0x100, 4⟩,
  ⟨VIN_PORT_CTRL_LCHK 0, 0x100, 4⟩,
  ⟨VIN_PORT_CTRL_PHASE 0, 0x100, 4⟩,
  ⟨VIN_PORT_CTRL_FMT 0, 0x100, 4⟩,
  ⟨VIN_PORT_CTRL_MAXF_MS 0, 0x100, 4⟩,
  ⟨VIN_PORT_SIZE_HEIGHT 0, 0x100, 4⟩,
  ⟨VIN_PORT_SIZE_WIDTH 0, 0x100, 4⟩,
  ⟨VIN_PORT_STATUS_ERR 0, 0x100, 4⟩,
  ⟨VIN_PORT_STATUS_CLK 0, 0x100, 4⟩,
  ⟨VIN_PORT_STATUS_INFRAME 0, 0x100, 4⟩,
  ⟨VIN_PORT_RATE_MPIX 0, 0x100, 4⟩,
  ⟨VIN_PORT_FRAMES 0, 0x100, 4⟩,
  ⟨VIN_PORT_SHORT 0, 0x100, 4⟩,
  ⟨VIN_PORT_LONG 0, 0x100, 4⟩,
  ⟨VIN_PORT_CHKERR 0, 0x100, 4⟩,
  ⟨VIN_PORT_RAWBASE 0, 0x100, 4⟩,
  ⟨VIN_PORT_RAWLINES 0, 0x100, 4⟩,
  ⟨VIN_MUX_EN, 0x0, 1⟩,
  ⟨VIN_MUX_ERR, 0x0, 1⟩,
  ⟨VIN_MUX_UNIT, 0x0, 1⟩,
  ⟨VIN_MUX_STRIPE, 0x0, 1⟩,
  ⟨VIN_CTX_PSET 0, 0x80, 4⟩,
  ⟨VIN_CTX_MPOS_MY0 0, 0x80, 4⟩,
  ⟨VIN_CTX_MPOS_MX0 0, 0x80, 4⟩,
  ⟨VIN_CTX_MSIZE_MCH 0, 0x80, 4⟩,
  ⟨VIN_CTX_MSIZE_MCW 0, 0x80, 4⟩,
  ⟨VIN_CTX_MOUT_OFMT 0, 0x80, 4⟩,
  ⟨VIN_CTX_MOUT_OC3 0, 0x80, 4⟩,
  ⟨VIN_CTX_MOUT_MOH 0, 0x80, 4⟩,
  ⟨VIN_CTX_MOUT_MOW 0, 0x80, 4⟩,
  ⟨VIN_CTX_DPOS_DY0 0, 0x80, 4⟩,
  ⟨VIN_CTX_DPOS_DX0 0, 0x80, 4⟩,
  ⟨VIN_CTX_DSIZE_DCH 0, 0x80, 4⟩,
  ⟨VIN_CTX_DSIZE_DCW 0, 0x80, 4⟩,
  ⟨VIN_CTX_DOUT_DEN 0, 0x80, 4⟩,
  ⟨VIN_CTX_DOUT_CEN 0, 0x80, 4⟩,
  ⟨VIN_CTX_DOUT_NBUF 0, 0x80, 4⟩,
  ⟨VIN_CTX_DOUT_DOH 0, 0x80, 4⟩,
  ⟨VIN_CTX_DOUT_DOW 0, 0x80, 4⟩]
/-- Part of the register map. -/
def topFams7 : List Fam := [
  ⟨VIN_CTX_DBASE 0, 0x80, 4⟩,
  ⟨VIN_CTX_CBASE 0, 0x80, 4⟩,
  ⟨VIN_CTX_DLV_MODE 0, 0x80, 4⟩,
  ⟨VIN_CTX_DLV_TERR 0, 0x80, 4⟩,
  ⟨VIN_CTX_DLV_POS 0, 0x80, 4⟩,
  ⟨VIN_CTX_DLV_RSLOT 0, 0x80, 4⟩,
  ⟨VIN_CTX_DLV_DSLOT 0, 0x80, 4⟩,
  ⟨VIN_CTX_TROW 0, 0x80, 4⟩,
  ⟨VIN_CTX_PUB 0, 0x80, 4⟩,
  ⟨VIN_CTX_SKIP 0, 0x80, 4⟩,
  ⟨VIN_CTX_PSETERR 0, 0x80, 4⟩,
  ⟨AUD_CLK_EN, 0x0, 1⟩,
  ⟨AUD_CLK_DRIVE, 0x0, 1⟩,
  ⟨AUD_CLK_FMT, 0x0, 1⟩,
  ⟨AUD_CLK_FSW, 0x0, 1⟩,
  ⟨AUD_CLK_DELAY, 0x0, 1⟩,
  ⟨AUD_CLK_FSPOL, 0x0, 1⟩,
  ⟨AUD_CLK_EDGE, 0x0, 1⟩,
  ⟨AUD_CLK_SLOTS, 0x0, 1⟩,
  ⟨AUD_CLK_ERR, 0x0, 1⟩,
  ⟨AUD_CLK_LOST, 0x0, 1⟩,
  ⟨AUD_IN_CTRL_EN 0, 0x40, 8⟩,
  ⟨AUD_IN_CTRL_WL 0, 0x40, 8⟩,
  ⟨AUD_IN_BIND0_EN 0, 0x40, 8⟩,
  ⟨AUD_IN_BIND0_TERR 0, 0x40, 8⟩,
  ⟨AUD_IN_BIND0_POS 0, 0x40, 8⟩,
  ⟨AUD_IN_BIND0_SLOT 0, 0x40, 8⟩,
  ⟨AUD_IN_BIND0_RSLOT 0, 0x40, 8⟩,
  ⟨AUD_IN_BIND0_CH0 0, 0x40, 8⟩,
  ⟨AUD_IN_BIND0_NCH 0, 0x40, 8⟩,
  ⟨AUD_IN_BIND1_EN 0, 0x40, 8⟩,
  ⟨AUD_IN_BIND1_TERR 0, 0x40, 8⟩,
  ⟨AUD_IN_BIND1_POS 0, 0x40, 8⟩,
  ⟨AUD_IN_BIND1_SLOT 0, 0x40, 8⟩,
  ⟨AUD_IN_BIND1_RSLOT 0, 0x40, 8⟩,
  ⟨AUD_IN_BIND1_CH0 0, 0x40, 8⟩,
  ⟨AUD_IN_BIND1_NCH 0, 0x40, 8⟩,
  ⟨AUD_IN_BIND2_EN 0, 0x40, 8⟩,
  ⟨AUD_IN_BIND2_TERR 0, 0x40, 8⟩,
  ⟨AUD_IN_BIND2_POS 0, 0x40, 8⟩]
/-- Part of the register map. -/
def topFams8 : List Fam := [
  ⟨AUD_IN_BIND2_SLOT 0, 0x40, 8⟩,
  ⟨AUD_IN_BIND2_RSLOT 0, 0x40, 8⟩,
  ⟨AUD_IN_BIND2_CH0 0, 0x40, 8⟩,
  ⟨AUD_IN_BIND2_NCH 0, 0x40, 8⟩,
  ⟨AUD_IN_BIND3_EN 0, 0x40, 8⟩,
  ⟨AUD_IN_BIND3_TERR 0, 0x40, 8⟩,
  ⟨AUD_IN_BIND3_POS 0, 0x40, 8⟩,
  ⟨AUD_IN_BIND3_SLOT 0, 0x40, 8⟩,
  ⟨AUD_IN_BIND3_RSLOT 0, 0x40, 8⟩,
  ⟨AUD_IN_BIND3_CH0 0, 0x40, 8⟩,
  ⟨AUD_IN_BIND3_NCH 0, 0x40, 8⟩,
  ⟨AUD_IN_FRAMES 0, 0x40, 8⟩,
  ⟨AUD_IN_GAPS 0, 0x40, 8⟩,
  ⟨AUD_IN_SLIPS 0, 0x40, 8⟩,
  ⟨AUD_OUT_CTRL_EN 0, 0x40, 8⟩,
  ⟨AUD_OUT_CTRL_WL 0, 0x40, 8⟩,
  ⟨AUD_OUT_MAIN_EN 0, 0x40, 8⟩,
  ⟨AUD_OUT_MAIN_TERR 0, 0x40, 8⟩,
  ⟨AUD_OUT_MAIN_POS 0, 0x40, 8⟩,
  ⟨AUD_OUT_MAIN_SLOT 0, 0x40, 8⟩,
  ⟨AUD_OUT_MAIN_CH0 0, 0x40, 8⟩,
  ⟨AUD_OUT_MAIN_NCH 0, 0x40, 8⟩,
  ⟨AUD_OUT_FB_EN 0, 0x40, 8⟩,
  ⟨AUD_OUT_FB_TERR 0, 0x40, 8⟩,
  ⟨AUD_OUT_FB_POS 0, 0x40, 8⟩,
  ⟨AUD_OUT_FB_SLOT 0, 0x40, 8⟩,
  ⟨AUD_OUT_FB_CH0 0, 0x40, 8⟩,
  ⟨AUD_OUT_FB_NCH 0, 0x40, 8⟩,
  ⟨AUD_OUT_FRAMES 0, 0x40, 8⟩,
  ⟨AUD_OUT_GAPS 0, 0x40, 8⟩,
  ⟨AUD_OUT_SLIPS 0, 0x40, 8⟩,
  ⟨RING_CTRL_EN, 0x0, 1⟩,
  ⟨RING_CTRL_MODE, 0x0, 1⟩,
  ⟨RING_CTRL_RATE, 0x0, 1⟩,
  ⟨RING_CTRL_TILE_PCT, 0x0, 1⟩,
  ⟨RING_CTRL_PCP_TILE, 0x0, 1⟩,
  ⟨RING_CTRL_PCP_AUD, 0x0, 1⟩,
  ⟨RING_CTRL_PCP_TOP, 0x0, 1⟩,
  ⟨RING_STATUS_LINK_A, 0x0, 1⟩,
  ⟨RING_STATUS_LINK_B, 0x0, 1⟩]
/-- Part of the register map. -/
def topFams9 : List Fam := [
  ⟨RING_STATUS_SPD_A, 0x0, 1⟩,
  ⟨RING_STATUS_SPD_B, 0x0, 1⟩,
  ⟨RING_STATUS_CLOSED, 0x0, 1⟩,
  ⟨RING_STATUS_DUPIDX, 0x0, 1⟩,
  ⟨RING_STATUS_CAP, 0x0, 1⟩,
  ⟨RING_INDEX_INDEX, 0x0, 1⟩,
  ⟨RING_VLAN_VID, 0x0, 1⟩,
  ⟨RING_MAC, 0x0, 1⟩,
  ⟨RING_MEMBERS, 0x0, 1⟩,
  ⟨RING_CAUSEWAY_FORCE, 0x0, 1⟩,
  ⟨RING_CAUSEWAY_BYPASS, 0x0, 1⟩,
  ⟨RING_CAUSEWAY_CAP_OK, 0x0, 1⟩,
  ⟨RING_CAUSEWAY_CAUSE, 0x0, 1⟩,
  ⟨RING_PORT_RX 0, 0x80, 2⟩,
  ⟨RING_PORT_TX 0, 0x80, 2⟩,
  ⟨RING_PORT_FWD 0, 0x80, 2⟩,
  ⟨RING_PORT_FCS 0, 0x80, 2⟩,
  ⟨RING_PORT_STOMP 0, 0x80, 2⟩,
  ⟨RING_PORT_CRC 0, 0x80, 2⟩,
  ⟨RING_PORT_LATE 0, 0x80, 2⟩,
  ⟨RING_PORT_DUP 0, 0x80, 2⟩,
  ⟨WIN_CTRL_EN 0, 0x20, 64⟩,
  ⟨WIN_CTRL_DIR 0, 0x20, 64⟩,
  ⟨WIN_CTRL_REPL 0, 0x20, 64⟩,
  ⟨WIN_CTRL_TGT 0, 0x20, 64⟩,
  ⟨WIN_CTRL_ALTEN 0, 0x20, 64⟩,
  ⟨WIN_CTRL_OPEN 0, 0x20, 64⟩,
  ⟨WIN_CTRL_CLOSED 0, 0x20, 64⟩,
  ⟨WIN_CTRL_PEER 0, 0x20, 64⟩,
  ⟨WIN_CTRL_ALT 0, 0x20, 64⟩,
  ⟨WIN_CTRL_NFR 0, 0x20, 64⟩,
  ⟨WIN_LOC_TERR 0, 0x20, 64⟩,
  ⟨WIN_LOC_POS 0, 0x20, 64⟩,
  ⟨WIN_LOC_SLOT 0, 0x20, 64⟩,
  ⟨WIN_LOC_RSLOT 0, 0x20, 64⟩,
  ⟨WIN_LOC_PWIN 0, 0x20, 64⟩,
  ⟨WIN_TROW 0, 0x20, 64⟩,
  ⟨WIN_GEN_LAST 0, 0x20, 64⟩,
  ⟨WIN_GEN_GEN 0, 0x20, 64⟩,
  ⟨WIN_STALE 0, 0x20, 64⟩]
/-- Part of the register map. -/
def topFams10 : List Fam := [
  ⟨WIN_MISS 0, 0x20, 64⟩,
  ⟨FW_STATE_MODE, 0x0, 1⟩,
  ⟨FW_STATE_ERR, 0x0, 1⟩,
  ⟨FW_NEG_GO, 0x0, 1⟩,
  ⟨FW_NEG_DONE, 0x0, 1⟩,
  ⟨FW_NEG_STATUS, 0x0, 1⟩,
  ⟨FW_NEG_IFMAJ, 0x0, 1⟩,
  ⟨FW_NEG_IFMIN, 0x0, 1⟩,
  ⟨FW_FEAT_MOD, 0x0, 1⟩,
  ⟨FW_FEAT_HOST, 0x0, 1⟩,
  ⟨FW_FEAT_AGREED, 0x0, 1⟩,
  ⟨FW_FEAT_USE, 0x0, 1⟩,
  ⟨FW_IFVER_IFMAJ, 0x0, 1⟩,
  ⟨FW_IFVER_IFMIN, 0x0, 1⟩,
  ⟨FW_RELEASE, 0x0, 1⟩,
  ⟨FW_CORE_CTRL_RESTART 0, 0x10, 6⟩,
  ⟨FW_CORE_CTRL_WDOG_MS 0, 0x10, 6⟩,
  ⟨FW_CORE_STATUS_STATE 0, 0x10, 6⟩,
  ⟨FW_CORE_STATUS_CAUSE 0, 0x10, 6⟩,
  ⟨FW_CORE_STATUS_RECENT 0, 0x10, 6⟩,
  ⟨FW_CORE_KICK 0, 0x10, 6⟩,
  ⟨FW_CORE_RESTARTS 0, 0x10, 6⟩,
  ⟨FW_LOAD_ADDR, 0x0, 1⟩,
  ⟨FW_LOAD_CTRL_GO, 0x0, 1⟩,
  ⟨FW_LOAD_CTRL_BUSY, 0x0, 1⟩,
  ⟨FW_LOAD_CTRL_STATUS, 0x0, 1⟩,
  ⟨FW_LOAD_CTRL_CORE, 0x0, 1⟩,
  ⟨HRING_APER_LO_BASE_LO, 0x0, 1⟩,
  ⟨HRING_APER_LO_ERR, 0x0, 1⟩,
  ⟨HRING_APER_LO_EN, 0x0, 1⟩,
  ⟨HRING_APER_HI_BASE_HI, 0x0, 1⟩,
  ⟨HRING_EV_BASE_ADDR, 0x0, 1⟩,
  ⟨HRING_EV_CTRL_EN, 0x0, 1⟩,
  ⟨HRING_EV_CTRL_IEN, 0x0, 1⟩,
  ⟨HRING_EV_CTRL_ERR, 0x0, 1⟩,
  ⟨HRING_EV_CTRL_SIZE, 0x0, 1⟩,
  ⟨HRING_EV_DB_TAIL, 0x0, 1⟩,
  ⟨HRING_EV_DB_HEAD, 0x0, 1⟩,
  ⟨HRING_EV_LOST, 0x0, 1⟩,
  ⟨HRING_Q_SQB_ADDR 0, 0x20, 8⟩]
/-- Part of the register map. -/
def topFams11 : List Fam := [
  ⟨HRING_Q_CQB_ADDR 0, 0x20, 8⟩,
  ⟨HRING_Q_CTRL_EN 0, 0x20, 8⟩,
  ⟨HRING_Q_CTRL_IEN 0, 0x20, 8⟩,
  ⟨HRING_Q_CTRL_ERR 0, 0x20, 8⟩,
  ⟨HRING_Q_CTRL_TARGET 0, 0x20, 8⟩,
  ⟨HRING_Q_CTRL_SQSIZE 0, 0x20, 8⟩,
  ⟨HRING_Q_CTRL_CQSIZE 0, 0x20, 8⟩,
  ⟨HRING_Q_CTRL_STATUS 0, 0x20, 8⟩,
  ⟨HRING_Q_SQDB_HEAD 0, 0x20, 8⟩,
  ⟨HRING_Q_SQDB_TAIL 0, 0x20, 8⟩,
  ⟨HRING_Q_CQDB_TAIL 0, 0x20, 8⟩,
  ⟨HRING_Q_CQDB_HEAD 0, 0x20, 8⟩,
  ⟨HRING_Q_STAT_RETAINED 0, 0x20, 8⟩,
  ⟨INT_EVENT_FWSRAM, 0x0, 1⟩,
  ⟨INT_EVENT_ACCESS, 0x0, 1⟩,
  ⟨INT_EVENT_BOOKS, 0x0, 1⟩,
  ⟨INT_EVENT_FQ_LOST, 0x0, 1⟩,
  ⟨INT_EVENT_FAULT, 0x0, 1⟩,
  ⟨INT_EVENT_EN_FWSRAM, 0x0, 1⟩,
  ⟨INT_EVENT_EN_ACCESS, 0x0, 1⟩,
  ⟨INT_EVENT_EN_BOOKS, 0x0, 1⟩,
  ⟨INT_EVENT_EN_FQ_LOST, 0x0, 1⟩,
  ⟨INT_EVENT_EN_FAULT, 0x0, 1⟩,
  ⟨INT_FQ_STAT_LOST, 0x0, 1⟩,
  ⟨INT_FQ_STAT_FILL, 0x0, 1⟩,
  ⟨INT_FQ_POP_POP, 0x0, 1⟩,
  ⟨INT_FQ_DATA 0, 0x4, 6⟩,
  ⟨INT_SREP_GO, 0x0, 1⟩,
  ⟨INT_SREP_BUSY, 0x0, 1⟩,
  ⟨INT_SREP_ERR, 0x0, 1⟩,
  ⟨INT_SREP_TERR, 0x0, 1⟩,
  ⟨INT_SREP_POS, 0x0, 1⟩,
  ⟨INT_SREP_MEM, 0x0, 1⟩,
  ⟨INT_SREP_BANK, 0x0, 1⟩,
  ⟨INT_SREP_INDEX, 0x0, 1⟩,
  ⟨INT_SREP_SPARE, 0x0, 1⟩,
  ⟨INT_BOOKS_FAILED, 0x0, 1⟩,
  ⟨INT_ADDR_ERR, 0x0, 1⟩,
  ⟨INT_FW_FAULT, 0x0, 1⟩,
  ⟨INT_FAULTS, 0x0, 1⟩]
/-- Part of the register map. -/
def topFams12 : List Fam := [
  ⟨INT_REPLAYS, 0x0, 1⟩,
  ⟨INT_FALLBACK, 0x0, 1⟩,
  ⟨INT_FWSRAM_CORR, 0x0, 1⟩,
  ⟨INT_FWSRAM_UNC, 0x0, 1⟩,
  ⟨INT_FQ_DROP, 0x0, 1⟩,
  ⟨INT_STN_FENCED 0, 0x4, 12⟩,
  ⟨PWR_CTRL_GO, 0x0, 1⟩,
  ⟨PWR_CTRL_ERR, 0x0, 1⟩,
  ⟨PWR_CTRL_TARGET, 0x0, 1⟩,
  ⟨PWR_CTRL_RETAIN, 0x0, 1⟩,
  ⟨PWR_CTRL_OP_NEXT, 0x0, 1⟩,
  ⟨PWR_STATUS_STATE, 0x0, 1⟩,
  ⟨PWR_STATUS_CAUSE, 0x0, 1⟩,
  ⟨PWR_STATUS_BUSY, 0x0, 1⟩,
  ⟨PWR_STATUS_OP, 0x0, 1⟩,
  ⟨PWR_TEMP_HOT, 0x0, 1⟩,
  ⟨PWR_TEMP_THERM, 0x0, 1⟩,
  ⟨PWR_TEMP_TJ, 0x0, 1⟩,
  ⟨PWR_WAKE_EN, 0x0, 1⟩,
  ⟨PWR_EVENT_HOT, 0x0, 1⟩,
  ⟨PWR_EVENT_THERM, 0x0, 1⟩,
  ⟨PWR_EVENT_WAKE, 0x0, 1⟩,
  ⟨PWR_EVENT_EN_HOT, 0x0, 1⟩,
  ⟨PWR_EVENT_EN_THERM, 0x0, 1⟩,
  ⟨PWR_EVENT_EN_WAKE, 0x0, 1⟩,
  ⟨MBX_CTRL_GO, 0x0, 1⟩,
  ⟨MBX_CTRL_IEN, 0x0, 1⟩,
  ⟨MBX_STATUS_BUSY, 0x0, 1⟩,
  ⟨MBX_STATUS_DONE, 0x0, 1⟩,
  ⟨MBX_STATUS_ERR, 0x0, 1⟩,
  ⟨MBX_STATUS_PROT, 0x0, 1⟩,
  ⟨MBX_REQ 0, 0x4, 266⟩,
  ⟨MBX_RSP 0, 0x4, 266⟩,
  ⟨EF_STATUS_CODE_BUSY, 0x0, 1⟩,
  ⟨EF_STATUS_DATA_BUSY, 0x0, 1⟩,
  ⟨EF_STATUS_SLOT, 0x0, 1⟩,
  ⟨EF_STATUS_TRIAL, 0x0, 1⟩,
  ⟨EF_STATUS_CODE_SPARE, 0x0, 1⟩,
  ⟨EF_STATUS_DATA_SPARE, 0x0, 1⟩,
  ⟨EF_CFG_PF_EN, 0x0, 1⟩]
/-- Part of the register map. -/
def topFams13 : List Fam := [
  ⟨EF_CFG_BC_EN, 0x0, 1⟩,
  ⟨EF_CFG_RETRY_DATA, 0x0, 1⟩,
  ⟨EF_CFG_RETRY_CODE, 0x0, 1⟩,
  ⟨EF_UPD_CTRL_START, 0x0, 1⟩,
  ⟨EF_UPD_CTRL_GO, 0x0, 1⟩,
  ⟨EF_UPD_CTRL_COMMIT, 0x0, 1⟩,
  ⟨EF_UPD_CTRL_ABORT, 0x0, 1⟩,
  ⟨EF_UPD_CTRL_ACTIVATE, 0x0, 1⟩,
  ⟨EF_UPD_CTRL_BUSY, 0x0, 1⟩,
  ⟨EF_UPD_CTRL_STATUS, 0x0, 1⟩,
  ⟨EF_UPD_CTRL_CHUNK, 0x0, 1⟩,
  ⟨EF_UPD_LEN, 0x0, 1⟩,
  ⟨EF_CORR, 0x0, 1⟩,
  ⟨EF_RETRY, 0x0, 1⟩,
  ⟨EF_STALL, 0x0, 1⟩,
  ⟨EF_ERASE, 0x0, 1⟩,
  ⟨EF_RETIRED_CODE, 0x0, 1⟩,
  ⟨EF_RETIRED_DATA, 0x0, 1⟩,
  ⟨EF_STAGE 0, 0x4, 1024⟩]
/-- The register map of this part of BAR0. -/
def topFams : List Fam := topFams0 ++ topFams1 ++ topFams2 ++ topFams3 ++ topFams4 ++ topFams5 ++ topFams6 ++ topFams7 ++ topFams8 ++ topFams9 ++ topFams10 ++ topFams11 ++ topFams12 ++ topFams13

/-- Part of the register map. -/
def stnFams0 (t p : Nat) : List Fam := [
  ⟨SEQ_STATE_STATE t p, 0x0, 1⟩,
  ⟨SEQ_STATE_CAUSE t p, 0x0, 1⟩,
  ⟨SEQ_STATE_PC t p, 0x0, 1⟩,
  ⟨SEQ_END_CYCLE t p, 0x0, 1⟩,
  ⟨SEQ_MAXEND_CYCLE t p, 0x0, 1⟩,
  ⟨SEQ_PHASE_PHASE t p, 0x0, 1⟩,
  ⟨SEQ_FAULT_VALID t p, 0x0, 1⟩,
  ⟨SEQ_FAULT_MULTI t p, 0x0, 1⟩,
  ⟨SEQ_FAULT_CAUSE t p, 0x0, 1⟩,
  ⟨SEQ_FAULT_PC t p, 0x0, 1⟩,
  ⟨SEQ_FAULT_CODE t p, 0x0, 1⟩,
  ⟨SEQ_INSN t p, 0x0, 1⟩,
  ⟨SEQ_STALL t p, 0x0, 1⟩,
  ⟨SEQ_NULL_SIG t p, 0x0, 1⟩,
  ⟨SEQ_PTR_DYN t p 0, 0x4, 32⟩,
  ⟨SEQ_PTR t p 0, 0x4, 32⟩,
  ⟨SEQ_DESC_WORD t p 0, 0x4, 64⟩,
  ⟨ARRAY_STATE_BUSY t p, 0x0, 1⟩,
  ⟨ARRAY_STATE_SET t p, 0x0, 1⟩,
  ⟨ARRAY_STATE_FORM t p, 0x0, 1⟩,
  ⟨ARRAY_STATE_GROUP t p, 0x0, 1⟩,
  ⟨ARRAY_STATE_WFMT t p, 0x0, 1⟩,
  ⟨ARRAY_STATE_AFMT t p, 0x0, 1⟩,
  ⟨ARRAY_FUSE_COL_OMIT t p, 0x0, 1⟩,
  ⟨ARRAY_FUSE_ROW_OMIT t p, 0x0, 1⟩,
  ⟨ARRAY_REPAIR_EN t p, 0x0, 1⟩,
  ⟨ARRAY_REPAIR_ERR t p, 0x0, 1⟩,
  ⟨ARRAY_REPAIR_COL_OMIT t p, 0x0, 1⟩,
  ⟨ARRAY_REPAIR_ROW_OMIT t p, 0x0, 1⟩,
  ⟨ARRAY_CHK_LOG_VALID t p, 0x0, 1⟩,
  ⟨ARRAY_CHK_LOG_MULTI t p, 0x0, 1⟩,
  ⟨ARRAY_CHK_LOG_KIND t p, 0x0, 1⟩,
  ⟨ARRAY_CHK_LOG_COL t p, 0x0, 1⟩,
  ⟨ARRAY_CHK_LOG_ROW t p, 0x0, 1⟩,
  ⟨ARRAY_STALL_W t p, 0x0, 1⟩,
  ⟨ARRAY_STALL_N t p, 0x0, 1⟩,
  ⟨ARRAY_STALL_D t p, 0x0, 1⟩,
  ⟨ARRAY_TILES t p, 0x0, 1⟩,
  ⟨ARRAY_CHK_COUNT t p, 0x0, 1⟩,
  ⟨CURVE_STATE_EMPTY_USE t p, 0x0, 1⟩]
/-- Part of the register map. -/
def stnFams1 (t p : Nat) : List Fam := [
  ⟨CURVE_STATE_QUAD t p, 0x0, 1⟩,
  ⟨CURVE_STATE_LOADING t p, 0x0, 1⟩,
  ⟨CURVE_STATE_VALID t p, 0x0, 1⟩,
  ⟨SCALE_SKEW_LOG_VALID t p, 0x0, 1⟩,
  ⟨SCALE_SKEW_LOG_MULTI t p, 0x0, 1⟩,
  ⟨SCALE_SKEW_LOG_SIDE t p, 0x0, 1⟩,
  ⟨SCALE_SKEW_LOG_EXPECTED t p, 0x0, 1⟩,
  ⟨SCALE_SKEW_LOG_FOUND t p, 0x0, 1⟩,
  ⟨CURVE_SAT t p, 0x0, 1⟩,
  ⟨CURVE_NAN t p, 0x0, 1⟩,
  ⟨SCALE_SKEW_COUNT t p, 0x0, 1⟩,
  ⟨MEM_ECC_LOG_VALID t p, 0x0, 1⟩,
  ⟨MEM_ECC_LOG_MULTI t p, 0x0, 1⟩,
  ⟨MEM_ECC_LOG_UNC t p, 0x0, 1⟩,
  ⟨MEM_ECC_LOG_MEM t p, 0x0, 1⟩,
  ⟨MEM_ECC_LOG_SCRUB t p, 0x0, 1⟩,
  ⟨MEM_ECC_LOG_ROW t p, 0x0, 1⟩,
  ⟨MEM_ECC_LOG_WORD t p, 0x0, 1⟩,
  ⟨SLOT_FAULT_LOG_VALID t p, 0x0, 1⟩,
  ⟨SLOT_FAULT_LOG_MULTI t p, 0x0, 1⟩,
  ⟨SLOT_FAULT_LOG_CAUSE t p, 0x0, 1⟩,
  ⟨SLOT_FAULT_LOG_SLOT t p, 0x0, 1⟩,
  ⟨SLOT_FAULT_LOG_CODE t p, 0x0, 1⟩,
  ⟨MEM_PASS_EN t p, 0x0, 1⟩,
  ⟨MEM_PASS_ERR t p, 0x0, 1⟩,
  ⟨MEM_CONFLICT_W t p, 0x0, 1⟩,
  ⟨MEM_CONFLICT_A t p, 0x0, 1⟩,
  ⟨MEM_CONFLICT_P t p, 0x0, 1⟩,
  ⟨MEM_ECC_CORR t p, 0x0, 1⟩,
  ⟨MEM_ECC_UNC t p, 0x0, 1⟩,
  ⟨MEM_LINK_ERR t p, 0x0, 1⟩,
  ⟨SLOT_STALL t p, 0x0, 1⟩,
  ⟨SLOT_RESET t p, 0x0, 1⟩,
  ⟨SLOT_CFG_EN t p 0, 0x8, 64⟩,
  ⟨SLOT_CFG_MEM t p 0, 0x8, 64⟩,
  ⟨SLOT_CFG_KIND t p 0, 0x8, 64⟩,
  ⟨SLOT_CFG_READERS t p 0, 0x8, 64⟩,
  ⟨SLOT_CFG_INIT t p 0, 0x8, 64⟩,
  ⟨SLOT_CFG_CHECK t p 0, 0x8, 64⟩,
  ⟨SLOT_CFG_PRODUCER t p 0, 0x8, 64⟩]
/-- Part of the register map. -/
def stnFams2 (t p : Nat) : List Fam := [
  ⟨SLOT_CFG_ROWS t p 0, 0x8, 64⟩,
  ⟨SLOT_CFG_RDSET t p 0, 0x8, 64⟩,
  ⟨SLOT_CFG_BASE t p 0, 0x8, 64⟩,
  ⟨SLOT_STAT_PRESENT t p 0, 0x8, 64⟩,
  ⟨SLOT_STAT_RELEASED t p 0, 0x8, 64⟩,
  ⟨SLOT_STAT_RWAIT t p 0, 0x8, 64⟩,
  ⟨SLOT_STAT_WWAIT t p 0, 0x8, 64⟩,
  ⟨VEC_STATE_BUSY t p, 0x0, 1⟩,
  ⟨VEC_STATE_FLAG t p, 0x0, 1⟩,
  ⟨VEC_STATE_WIN_BUSY t p, 0x0, 1⟩,
  ⟨VEC_STATE_FUNC t p, 0x0, 1⟩,
  ⟨WIN_FAULT_VALID t p, 0x0, 1⟩,
  ⟨WIN_FAULT_MULTI t p, 0x0, 1⟩,
  ⟨WIN_FAULT_CAUSE t p, 0x0, 1⟩,
  ⟨WIN_FAULT_WC t p, 0x0, 1⟩,
  ⟨WIN_FAULT_PC t p, 0x0, 1⟩,
  ⟨VEC_BUSYCNT t p, 0x0, 1⟩,
  ⟨VEC_NAN t p, 0x0, 1⟩,
  ⟨VEC_DIV0 t p, 0x0, 1⟩,
  ⟨VEC_EMPTY t p, 0x0, 1⟩,
  ⟨WIN_FETCH t p, 0x0, 1⟩,
  ⟨WIN_OPOS t p 0, 0x4, 8⟩,
  ⟨EXP_CTRL_EN t p 0, 0x8, 2⟩,
  ⟨EXP_CTRL_RESIDENT t p 0, 0x8, 2⟩,
  ⟨EXP_CTRL_DESC t p 0, 0x8, 2⟩,
  ⟨EXP_CTRL_SRING_M1 t p 0, 0x8, 2⟩,
  ⟨EXP_CTRL_TIDX t p 0, 0x8, 2⟩,
  ⟨EXP_CTRL_TN_M1 t p 0, 0x8, 2⟩,
  ⟨EXP_POS_REGION t p 0, 0x8, 2⟩,
  ⟨EXP_LOG_VALID t p, 0x0, 1⟩,
  ⟨EXP_LOG_MULTI t p, 0x0, 1⟩,
  ⟨EXP_LOG_CH t p, 0x0, 1⟩,
  ⟨EXP_LOG_CAUSE t p, 0x0, 1⟩,
  ⟨EXP_LOG_REGION t p, 0x0, 1⟩,
  ⟨EXP_SLOTS t p, 0x0, 1⟩,
  ⟨EXP_WAIT t p, 0x0, 1⟩,
  ⟨EXP_REJECT t p, 0x0, 1⟩]
/-- The register map of this part of BAR0. -/
def stnFams (t p : Nat) : List Fam := stnFams0 t p ++ stnFams1 t p ++ stnFams2 t p

/-- Part of the register map. -/
def terFams0 (t : Nat) : List Fam := [
  ⟨TSTORE_CTRL_ERR t, 0x0, 1⟩,
  ⟨TSTORE_CTRL_PAGES t, 0x0, 1⟩,
  ⟨TSTORE_ECC_LOG_VALID t, 0x0, 1⟩,
  ⟨TSTORE_ECC_LOG_MULTI t, 0x0, 1⟩,
  ⟨TSTORE_ECC_LOG_UNC t, 0x0, 1⟩,
  ⟨TSTORE_ECC_LOG_SCRUB t, 0x0, 1⟩,
  ⟨TSTORE_ECC_LOG_ROW t, 0x0, 1⟩,
  ⟨TSTORE_ECC_LOG_WORD t, 0x0, 1⟩,
  ⟨TSTORE_CONFLICT t, 0x0, 1⟩,
  ⟨TSTORE_ECC_CORR t, 0x0, 1⟩,
  ⟨TSTORE_ECC_UNC t, 0x0, 1⟩,
  ⟨TSTORE_BOUNDS t, 0x0, 1⟩,
  ⟨TAKE_CTRL_REQ t, 0x0, 1⟩,
  ⟨TAKE_CTRL_RESTORE t, 0x0, 1⟩,
  ⟨TAKE_CTRL_ERR t, 0x0, 1⟩,
  ⟨TAKE_CTRL_POS t, 0x0, 1⟩,
  ⟨TAKE_STATUS_PHASE t, 0x0, 1⟩,
  ⟨TAKE_STATUS_HOP t, 0x0, 1⟩,
  ⟨TAKE_STATUS_POS t, 0x0, 1⟩,
  ⟨TAKE_COUNT t, 0x0, 1⟩,
  ⟨MAP_ASSIGNED t 0, 0x4, 17⟩,
  ⟨MAP_RETIRED t 0, 0x4, 17⟩,
  ⟨MAP_HANDLE t 0, 0x4, 17⟩,
  ⟨MAP_STAGE t 0, 0x4, 17⟩,
  ⟨TFLAG_STATE_FLAGS t, 0x0, 1⟩,
  ⟨TFLAG_FORCE_FLAGS t, 0x0, 1⟩,
  ⟨ATT_Q_EN t 0, 0x4, 4⟩,
  ⟨ATT_Q_RAN t 0, 0x4, 4⟩,
  ⟨ATT_Q_GO t 0, 0x4, 4⟩,
  ⟨ATT_Q_DONE t 0, 0x4, 4⟩,
  ⟨ATT_Q_ROW t 0, 0x4, 4⟩,
  ⟨ATT_STATUS_BUSY t, 0x0, 1⟩,
  ⟨ATT_STATUS_QUEUE t, 0x0, 1⟩,
  ⟨ATT_STATUS_ROW t, 0x0, 1⟩,
  ⟨ATT_STATUS_ENTRY t, 0x0, 1⟩,
  ⟨ATT_FAULT_VALID t, 0x0, 1⟩,
  ⟨ATT_FAULT_MULTI t, 0x0, 1⟩,
  ⟨ATT_FAULT_SEQ t, 0x0, 1⟩,
  ⟨ATT_FAULT_CODE t, 0x0, 1⟩,
  ⟨ATT_HIT t, 0x0, 1⟩]
/-- Part of the register map. -/
def terFams1 (t : Nat) : List Fam := [
  ⟨ATT_MISS t, 0x0, 1⟩,
  ⟨ATT_FRAMED t, 0x0, 1⟩,
  ⟨ATT_EMPTY t, 0x0, 1⟩,
  ⟨ATT_NAN t, 0x0, 1⟩,
  ⟨ATT_FRAME_VALID t 0, 0x4, 128⟩,
  ⟨ATT_FRAME_FILL t 0, 0x4, 128⟩,
  ⟨ATT_FRAME_FILLING t 0, 0x4, 128⟩,
  ⟨ATT_FRAME_ERR t 0, 0x4, 128⟩,
  ⟨ATT_FRAME_INVAL t 0, 0x4, 128⟩,
  ⟨ATT_FRAME_PPN t 0, 0x4, 128⟩]
/-- The register map of this part of BAR0. -/
def terFams (t : Nat) : List Fam := terFams0 t ++ terFams1 t

/-- The fields of the word at BAR0 offset `off`; none for a reserved offset (R26, R27). -/
def fieldsAt (off : Nat) : List Fld :=
  if off < 0x1000000 then topFams.flatMap (·.find off)
  else
    let t := (off - 0x1000000) / 0x200000
    let r := (off - 0x1000000) % 0x200000
    if 12 ≤ t then []
    else if r < 0x110000 then (stnFams t (r / 0x10000)).flatMap (·.find off)
    else if 0x180000 ≤ r then (terFams t).flatMap (·.find off)
    else []

end Sys2Proof.Machine
end

