-- ==== Sys2Proof/Machine/Float.lean ====
section
/-! DEFINITION. Exact arithmetic and rounding (chapter 4): decoded values, the wide format W32, the operand formats, the
output conversions and the checker's 40-bit format. -/

namespace Sys2Proof.Machine

/-- A decoded value: a NaN, an infinity (`true`: negative), or `± m 2^e`; `m = 0` is a zero of the sign. -/
inductive Fp where
  | nan
  | inf (neg : Bool)
  | num (neg : Bool) (m : Nat) (e : Int)
deriving DecidableEq, Repr

/-- Bits of a number: the length of its binary form, 0 for 0. -/
def blen (m : Nat) : Nat := if m = 0 then 0 else Nat.log2 m + 1

/-- `m 2^e` rounded to `p` significant bits, to nearest with ties to even. -/
def rne (p m : Nat) (e : Int) : Nat × Int :=
  let l := blen m
  if l ≤ p then (m, e)
  else
    let d := l - p
    let q := m / 2 ^ d
    let r := m % 2 ^ d
    let h := 2 ^ (d - 1)
    (if h < r ∨ (r = h ∧ q % 2 = 1) then q + 1 else q, e + d)

/-- `m 2^e` rounded to `p` significant bits, away from zero. -/
def rup (p m : Nat) (e : Int) : Nat × Int :=
  let l := blen m
  if l ≤ p then (m, e)
  else
    let d := l - p
    (m / 2 ^ d + (if m % 2 ^ d = 0 then 0 else 1), e + d)

/-- Steps 3 and 4 of R94 on a rounded magnitude: overflow to infinity, flush to zero. -/
def Fp.clip (neg : Bool) (m : Nat) (e : Int) : Fp :=
  if m = 0 then .num neg 0 0
  else if e + blen m > 128 then .inf neg
  else if e + blen m ≤ -126 then .num neg 0 0
  else .num neg m e

/-- A value rounded to `p` bits under R94 (24 for W32, 40 for the checker, 8 for BF16). -/
def Fp.rnd (p : Nat) : Fp → Fp
  | .num n m e => let r := rne p m e; Fp.clip n r.1 r.2
  | x => x

/-- A magnitude rounded towards plus infinity at 40 bits (R81). -/
def Fp.rndUp : Fp → Fp
  | .num n m e => let r := rup 40 m e; Fp.clip n r.1 r.2
  | x => x

def Fp.isNan : Fp → Bool
  | .nan => true
  | _ => false

def Fp.isFin : Fp → Bool
  | .num _ _ _ => true
  | _ => false

def Fp.isZero : Fp → Bool
  | .num _ 0 _ => true
  | _ => false

def Fp.neg : Fp → Fp
  | .nan => .nan
  | .inf n => .inf (!n)
  | .num n m e => .num (!n) m e

def Fp.abs : Fp → Fp
  | .nan => .nan
  | .inf _ => .inf false
  | .num _ m e => .num false m e

def Fp.isNeg : Fp → Bool
  | .nan => false
  | .inf n => n
  | .num n _ _ => n

/-- The signed significand of a finite value at exponent `e0`, which is at most its own. -/
def signedAt (n : Bool) (m : Nat) (e e0 : Int) : Int :=
  let v : Int := (m * 2 ^ (e - e0).toNat : Nat)
  if n then -v else v

/-- The exact sum (R94 for the signs of zeros and the special values). -/
def Fp.add : Fp → Fp → Fp
  | .nan, _ => .nan
  | _, .nan => .nan
  | .inf a, .inf b => if a = b then .inf a else .nan
  | .inf a, _ => .inf a
  | _, .inf b => .inf b
  | .num a m e, .num b n f =>
    if m = 0 then (if n = 0 then .num (a && b) 0 0 else .num b n f)
    else if n = 0 then .num a m e
    else
      let e0 := min e f
      let v := signedAt a m e e0 + signedAt b n f e0
      if v = 0 then .num false 0 0 else .num (decide (v < 0)) v.natAbs e0

def Fp.sub (x y : Fp) : Fp := x.add y.neg

/-- The exact product (R94, R97). DESIGN CHOICE: an infinity by an infinity is an infinity of the product's sign; the rules
name no such pair of operands. -/
def Fp.mul : Fp → Fp → Fp
  | .nan, _ => .nan
  | _, .nan => .nan
  | .inf a, .inf b => .inf (a != b)
  | .inf a, .num b n _ => if n = 0 then .nan else .inf (a != b)
  | .num a m _, .inf b => if m = 0 then .nan else .inf (a != b)
  | .num a m e, .num b n f => .num (a != b) (m * n) (if m * n = 0 then 0 else e + f)

/-- The fused `a b + c`, exact (R94). -/
def Fp.fma (a b c : Fp) : Fp := (a.mul b).add c

/-- Comparison of two values that are not NaN: -1, 0 or 1; zeros of either sign are equal. -/
def Fp.cmp (x y : Fp) : Int :=
  match x, y with
  | .nan, _ => 0
  | _, .nan => 0
  | .inf a, .inf b => if a = b then 0 else if a then -1 else 1
  | .inf a, _ => if a then -1 else 1
  | _, .inf b => if b then 1 else -1
  | .num a m e, .num b n f =>
    let e0 := min e f
    let u := signedAt a m e e0
    let v := signedAt b n f e0
    if u < v then -1 else if v < u then 1 else 0

/-- An integer as a value. -/
def Fp.ofInt (v : Int) : Fp := .num (decide (v < 0)) v.natAbs 0

/-- The value `2^e`. -/
def Fp.pow2 (e : Int) : Fp := .num false 1 e

/-- Decodes a binary format with 8 exponent bits of bias 127 and `f` fraction bits; exponent 0 reads as zero (R91, R93). -/
def decBin (f v : Nat) : Fp :=
  let neg := bit v (f + 8)
  let ex := bits v f 8
  let fr := bits v 0 f
  if ex = 0 then .num neg 0 0
  else if ex = 255 then (if fr = 0 then .inf neg else .nan)
  else .num neg (2 ^ f + fr) ((ex : Int) - 127 - f)

/-- Decodes W32 (R93). -/
def decW (v : Nat) : Fp := decBin 23 v

/-- Decodes BF16 (R91). -/
def decB (v : Nat) : Fp := decBin 7 v

/-- Encodes a value already rounded to `f + 1` bits; the module's NaN is the canonical one (R91, R94). -/
def encBin (f : Nat) : Fp → Nat
  | .nan => 255 * 2 ^ f + 2 ^ (f - 1)
  | .inf n => b2n n * 2 ^ (f + 8) + 255 * 2 ^ f
  | .num n m e =>
    if m = 0 then b2n n * 2 ^ (f + 8)
    else
      let l := blen m
      let fr := m * 2 ^ (f + 1) / 2 ^ l - 2 ^ f
      b2n n * 2 ^ (f + 8) + (e + l - 1 + 127).toNat * 2 ^ f + fr

/-- Rounds and encodes W32 (R94). -/
def encW (x : Fp) : Nat := encBin 23 (x.rnd 24)

/-- Rounds and encodes BF16 under R94's steps at 8 bits (R189). -/
def encB (x : Fp) : Nat := encBin 7 (x.rnd 8)

/-- W32 addition, multiplication and fused multiply-add on encodings. -/
def wAdd (a b : Nat) : Nat := encW ((decW a).add (decW b))
def wMul (a b : Nat) : Nat := encW ((decW a).mul (decW b))
def wFma (a b c : Nat) : Nat := encW ((decW a).fma (decW b) (decW c))

/-- The canonical W32 NaN (R94). -/
def wNaN : Nat := 0x7FC00000

/-- Decodes FP8 with `eb` exponent bits, bias `bias` and `mb` mantissa bits, subnormals included (R90). -/
def decF8 (eb bias mb v : Nat) : Fp :=
  let neg := bit v 7
  let ex := bits v mb eb
  let m := bits v 0 mb
  if eb = 5 ∧ ex = 31 then (if m = 0 then .inf neg else .nan)
  else if eb = 4 ∧ ex = 15 ∧ m = 7 then .nan
  else if ex = 0 then .num neg m (1 - (bias : Int) - mb)
  else .num neg (2 ^ mb + m) ((ex : Int) - bias - mb)

/-- Decodes an element of an operand format code of R63 (TABLE4 is read through its table first). -/
def decFmt (fmt v : Nat) : Fp :=
  if fmt = 0 then Fp.ofInt (sext 8 v)
  else if fmt = 1 then decF8 4 7 3 v
  else if fmt = 2 then decF8 5 15 2 v
  else if fmt = 3 then Fp.ofInt (sext 4 v)
  else if fmt = 5 then decB v
  else Fp.ofInt (sext 8 v)

/-- Bits of an element of a format code (R63). -/
def fmtBits (fmt : Nat) : Nat := if fmt = 3 ∨ fmt = 4 then 4 else if fmt = 5 then 16 else 8

/-- A value rounded to an integer, to nearest with ties to even. -/
def rneInt (neg : Bool) (m : Nat) (e : Int) : Int :=
  let v : Nat :=
    if 0 ≤ e then m * 2 ^ e.toNat
    else
      let d := (-e).toNat
      let q := m / 2 ^ d
      let r := m % 2 ^ d
      let h := 2 ^ (d - 1)
      if h < r ∨ (r = h ∧ q % 2 = 1) then q + 1 else q
  if neg then -(v : Int) else (v : Int)

/-- Largest integer at or below a finite value. -/
def Fp.floor : Fp → Int
  | .num n m e =>
    if 0 ≤ e then (if n then -((m * 2 ^ e.toNat : Nat) : Int) else ((m * 2 ^ e.toNat : Nat) : Int))
    else
      let d : Int := (2 ^ (-e).toNat : Nat)
      (if n then -(m : Int) else (m : Int)) / d
  | _ => 0

/-- An output conversion's result: the element, whether it saturated, whether it was a NaN (R108). -/
structure Conv where
  code : Nat
  sat : Bool := false
  isNan : Bool := false
deriving DecidableEq, Repr

/-- Conversion to a `w`-bit integer (R108). DESIGN CHOICE, here and in the two conversions below: `sat` marks a value that
rounds above the largest finite magnitude; one beyond it that rounds to it is not counted. -/
def convInt (w : Nat) : Fp → Conv
  | .nan => ⟨0, false, true⟩
  | .inf n => ⟨if n then 2 ^ (w - 1) else 2 ^ (w - 1) - 1, true, false⟩
  | .num n m e =>
    let v := rneInt n m e
    if v > (2 ^ (w - 1) : Nat) - 1 then ⟨2 ^ (w - 1) - 1, true, false⟩
    else if v < -((2 ^ (w - 1) : Nat) : Int) then ⟨2 ^ (w - 1), true, false⟩
    else ⟨toBits w v, false, false⟩

/-- Conversion to FP8 (R90, R108; saturation as in `convInt`): smallest normal exponent `emin`, `mb` mantissa bits, largest finite code `top`. -/
def convF8 (emin : Int) (mb bias top : Nat) (hasInf : Bool) : Fp → Conv
  | .nan => ⟨0x7F, false, true⟩
  | .inf n => if hasInf then ⟨b2n n * 128 + 0x7C, false, false⟩ else ⟨b2n n * 128 + top, true, false⟩
  | .num n m e =>
    if m = 0 then ⟨b2n n * 128, false, false⟩
    else
      let q := max (e + blen m - 1) emin - mb
      let k := (rneInt false m (e - q)).toNat
      let r := if k = 2 ^ (mb + 1) then (2 ^ mb, q + 1) else (k, q)
      let mag := if r.1 < 2 ^ mb then r.1 else (r.2 + mb + bias).toNat * 2 ^ mb + (r.1 - 2 ^ mb)
      if mag > top then ⟨b2n n * 128 + top, true, false⟩ else ⟨b2n n * 128 + mag, false, false⟩

/-- Conversion to BF16 for an output: a finite value never becomes an infinity (R108; saturation as in `convInt`). -/
def convB : Fp → Conv
  | .nan => ⟨0x7FC0, false, true⟩
  | .inf n => ⟨b2n n * 32768 + 0x7F80, false, false⟩
  | .num n m e =>
    match (Fp.num n m e).rnd 8 with
    | .inf s => ⟨b2n s * 32768 + 0x7F7F, true, false⟩
    | x => ⟨encBin 7 x, false, false⟩

/-- The output conversion to a format code (R108). -/
def convOut (fmt : Nat) (x : Fp) : Conv :=
  if fmt = 0 then convInt 8 x
  else if fmt = 1 then convF8 (-6) 3 7 0x7E false x
  else if fmt = 2 then convF8 (-14) 2 15 0x7B true x
  else if fmt = 5 then convB x
  else convInt 4 x

/-- The curve unit (R112): `x` through the table whose bytes are `tab` (R111). -/
def curveEval (tab : List Byte) (x : Nat) : Nat :=
  let ctrl := leAt tab 0 4
  let x0 := decW (leAt tab 4 4)
  let eh := sext 8 (leAt tab 8 1)
  let xv := decW x
  if xv.isNan || !x0.isFin then wNaN
  else
    let h := Fp.pow2 eh
    let idx : Int :=
      match xv with
      | .inf n => if n then 0 else 255
      | _ => ((xv.sub x0).mul (Fp.pow2 (-eh))).floor
    let i := if idx < 0 then 0 else if 255 < idx then 255 else idx.toNat
    let b := (x0.add ((Fp.ofInt i).mul h)).rnd 24
    let above := decide (xv.cmp (x0.add ((Fp.ofInt 256).mul h)) > 0)
    let below := decide (xv.cmp x0 < 0)
    let d := if (!above && !below) || (bit ctrl 1 && xv.isFin) then (xv.sub b).rnd 24
      else if below then Fp.num false 0 0 else h.rnd 24
    let c0 := decW (leAt tab (512 + 16 * i) 4)
    let c1 := decW (leAt tab (516 + 16 * i) 4)
    let c2 := decW (leAt tab (520 + 16 * i) 4)
    if bit ctrl 0 then encW ((((c2.fma d c1).rnd 24)).fma d c0) else encW (c1.fma d c0)

end Sys2Proof.Machine
end

