-- ==== Sys2Proof/Machine/StnTypes.lean ====
section
/-! DEFINITION. The structures of a station beside its registers and memories: the slice it carries, the sequencer's loops
and checkpoints, the tile queue and the tiles in the array, vector registers, curve slots, promenade links, expander
channels (chapters 3 to 8 and 11). -/

namespace Sys2Proof.Machine

/-- A loop in progress (R173): level, first and last instruction, count, iteration. -/
structure LoopRec where
  lvl : Nat := 0
  start : Nat := 0
  stop : Nat := 0
  count : Nat := 0
  iter : Nat := 0
deriving DecidableEq, Repr

/-- A checkpoint (R50, R181): program counter, tile within the run, pointers with their DYN bit, descriptors, loops,
vector and bias registers, window configurations and their positions, the vector flag. -/
structure Ckpt where
  pc : Nat := 0
  /-- Taken at a TILE or TILEW, whose tile `tile` is the next. -/
  atRun : Bool := false
  tile : Nat := 0
  /-- Slots that the run had read by then (R164). -/
  reads : List (Bool × Nat × Nat) := []
  runs : Nat := 0
  ptrs : List Nat := []
  descs : List Nat := []
  loops : List LoopRec := []
  /-- The slot on which a port of the instruction now stalled waits: a write, and station and entry (R125, R129). -/
  stuck : Option (Bool × Nat × Nat × Nat) := none
  vregs : KMap (List Byte) := []
  bias : KMap (List Byte) := []
  wcfg : KMap (List Byte) := []
  opos : List Nat := []
  flag : Nat := 0
deriving DecidableEq, Repr

/-- A run of tiles (R161, R163): its word, its number in the tide, the copies of its descriptors taken at issue, the
window configuration and its position, the next tile, the slots it has read, the TABLE4 row that the north feeder loaded
when the run started (R92), and its checkpoint. -/
structure Run where
  no : Nat := 0
  word : Nat := 0
  ad : List Nat := []
  wd : List Nat := []
  od : List Nat := []
  pd : List Nat := []
  wc : List Byte := []
  opos : Nat := 0
  next : Nat := 0
  reads : List (Bool × Nat × Nat) := []
  tab : Option (List Byte) := none
  ck : Ckpt := {}
deriving DecidableEq, Repr

/-- A tile that has issued and not yet drained: its cells by physical row and column, and the checksum cells' wide
values and magnitude lanes for the drain checks (R80, R81); once the checks have passed, the drained rows still to be
written (R165). -/
structure TileRec where
  run : Run := {}
  t : Nat := 0
  cells : List Nat := []
  rowSum : List Fp := []
  rowMag : List Fp := []
  colSum : List Fp := []
  colMag : List Fp := []
  n : Nat := 0
  left : Option (List (List Byte)) := none
deriving DecidableEq, Repr

/-- A presence-bit set or a release the station performed (R181): which, the side and slot, the runs issued before it,
and the tile that caused it. -/
structure Sig where
  set : Bool := false
  side : Nat := 0
  slot : Nat := 0
  run : Nat := 0
  tile : Option Nat := none
deriving DecidableEq, Repr

/-- A row on a promenade link (R123, R124): the slot of the receiving station, the row within it, the data, whether the
slot's presence bit is set after it; the station that sent it, as 17 t + p, and whether its drain did. -/
structure LinkRow where
  slot : Nat := 0
  row : Nat := 0
  data : List Byte := []
  set : Bool := false
  src : Nat := 0
  drain : Bool := false
deriving DecidableEq, Repr

/-- One direction of a promenade link: rows under way, and the sender's credits (8, R123). -/
structure Link where
  rows : List LinkRow := []
  credits : Nat := 8
deriving DecidableEq, Repr

/-- A curve-load in progress (R110): slot, descriptor copy, row offset, runs issued before it. -/
structure CurveLoad where
  slot : Nat := 0
  desc : List Nat := []
  off : Nat := 0
  runs : Nat := 0
deriving DecidableEq, Repr

/-- What the loader keeps of a slice program image (R140): names, class, declared figures, initial descriptors, and the
stages of its set that it depends on (R186). -/
structure Slice where
  handle : Nat := 0
  stage : Nat := 0
  stream : List Byte := []
  name : List Byte := []
  cls : Nat := 0
  l : Nat := 0
  lReplay : Nat := 0
  lTaken : Nat := 0
  w : Nat := 0
  period : Nat := 0
  descs : List Nat := []
  nDesc : Nat := 0
  tsBase : Nat := 0
  tsRows : Nat := 0
  deps : List Nat := []
deriving DecidableEq, Repr

/-- A binding of an expander channel to a stored layer (R287), and its progress in the tide (R288 to R293). -/
structure ExpChan where
  bound : Bool := false
  handle : Nat := 0
  layer : Nat := 0
  slot0 : Nat := 0
  nreg : Nat := 0
  /-- Regions of this tide still to expand, and the place of the next in the ring. -/
  left : Nat := 0
  place : Nat := 0
  active : Bool := false
  /-- Layer version read, first region of the tide, scale rows written, one more than the highest block index whose scales
  the port has read (R289). -/
  ver : Nat := 0
  first : Nat := 0
  srows : Nat := 0
  sread : Nat := 0
  cbBad : Bool := false
  /-- In panic (R333). -/
  panic : Bool := false
  /-- The full slot on which the channel waits (R125, R129). -/
  full : Option Nat := none
  /-- Codebook and TABLE4 row loaded at the boundary. -/
  codebook : List Byte := []
deriving DecidableEq, Repr

/-- A station, beside its registers and memories. -/
structure Stn where
  slice : Option Slice := none
  /-- Runs issued in this tide; the tile from which the next run resumes in a replay. -/
  runs : Nat := 0
  resume : Nat := 0
  resumeReads : List (Bool × Nat × Nat) := []
  /-- Rows that the MOVR at the program counter has copied (R171). -/
  mov : Nat := 0
  issuing : Option Run := none
  queued : Option Run := none
  tiles : List TileRec := []
  loops : List LoopRec := []
  /-- The slot on which a port of the instruction now stalled waits: a write, and station and entry (R125, R129). -/
  stuck : Option (Bool × Nat × Nat × Nat) := none
  vregs : KMap (List Byte) := []
  bias : KMap (List Byte) := []
  wcfg : KMap (List Byte) := []
  curves : KMap (List Byte) := []
  curveLoad : Option CurveLoad := none
  /-- Rows under way to the lower and to the upper neighbour. -/
  lo : Link := {}
  hi : Link := {}
  /-- STOP has issued (R154). -/
  stopIssued : Bool := false
  /-- The slice ended in this tide, at this cycle (R154). -/
  ended : Option Nat := none
  /-- Fault codes of this tide, in the order found (R85). -/
  faults : List Nat := []
  /-- Stopped because it consumes an abandoned slice's output (R54). -/
  halted : Bool := false
  /-- Checkpoint in force once every issued tile has passed (R181), and the signals performed so far. -/
  last : Ckpt := {}
  sigs : List Sig := []
  /-- Signals a replay suppresses (R181). -/
  suppress : List Sig := []
  /-- Block index in the header of the region that the expander put into a slot (R105). -/
  blk : KMap Nat := []
  chans : List ExpChan := [{}, {}]
  /-- Phase to take at the next boundary (R187). -/
  phaseNext : Option Nat := none
  /-- HELD entries whose rows are complete for the next boundary (R128). -/
  filled : List Nat := []
deriving DecidableEq, Repr

/-- A terrace, beside its registers: the replay of this tide, a takeover request that waits for the boundary and its
progress (R52, R148), pages staged (R132). -/
structure Ter where
  granted : Bool := false
  takeReq : Option Nat := none
  /-- A takeover that the host core requests once the tide has ended (R502). -/
  takeNext : Option Nat := none
  restoreReq : Bool := false
  copied : Bool := false
  pagesNext : Option Nat := none
deriving DecidableEq, Repr

end Sys2Proof.Machine
end

