-- ==== Sys2Proof/Machine/SetTypes.lean ====
section
/-! DEFINITION. Program sets as the loader keeps them, streams with their parameter blocks, sequences and passes of the
gatehouse, capture jobs (chapters 6, 10, 12 and 18). -/

namespace Sys2Proof.Machine

/-- Token set parameters (R241, R466). -/
structure TokPar where
  ph : Nat := 1
  ts : Nat := 2
  nbsD : Nat := 1
  pmin : Nat := 1
  nbsP : Nat := 1
  ae : Nat := 1
  kvfmt : Nat := 0
  attGo : Nat := 0
  pattCyc : Nat := 0
  pattBytes : Nat := 0
  tracks : Nat := 1
  g : Nat := 1
  ktop : Nat := 1
  e : Nat := 0
  plist : Nat := 0
  expBytes : Nat := 0
  maxlenCap : Nat := 1
  vocab : Nat := 1
  lrow : Nat := 0
  lstride : Nat := 4
  lcount : Nat := 1
deriving DecidableEq, Repr

/-- The place of a station of a set, in stream order; its image is the one at the same place in `images`. -/
structure Stage where
  t : Nat := 0
  p : Nat := 0
deriving DecidableEq, Repr

/-- An entry of a pass list (R243), with the request it serves. -/
structure PassEnt where
  seq : Nat := 0
  gen : Nat := 0
  flags : Nat := 0
  len : Nat := 0
  token : Nat := 0
  qn : Nat := 1
  k : Nat := 1
  dec : Bool := true
deriving DecidableEq, Repr

/-- A program set (R137, R466). `state`: 0 accepted, its layers being promoted; 1 to be assigned at the next boundary; 2
assigned; 3 kept for another period (R144); 4 suspended, 5 to be suspended at the next boundary (R267). -/
structure ProgSet where
  handle : Nat := 0
  cls : Nat := 0
  stream : List Byte := []
  period : Nat := 0
  /-- The images of the placement, kept for its assignment (R144). -/
  images : List (List Byte) := []
  stages : List Stage := []
  binds : List Binding := []
  tok : TokPar := {}
  outputs : List (List Byte × Nat) := []
  params : List Param := []
  audio : List (Nat × Nat × Nat × Nat × List Byte) := []
  vision : List (Nat × Nat × Nat × List Byte) := []
  windows : List (Nat × Nat × Nat × Nat × List Byte) := []
  state : Nat := 1
  /-- The beacon has announced its receive windows for one tide (R411). -/
  announced : Bool := false
  /-- The PLACE entry to complete at assignment, and the REMOVE entry: queue and TAG. -/
  placeTag : Option (Nat × Nat) := none
  removeTag : Option (Nat × Nat) := none
  /-- Largest L among its slices, and the promenade pin of the request. -/
  maxL : Nat := 0
  pin : Option Nat := none
  /-- The pass in progress (R242): index of the tide, pass number, decode stations, repeats used, its entries. -/
  inPass : Bool := false
  ph : Nat := 0
  pass : Nat := 0
  d : Nat := 0
  reps : Nat := 0
  ents : List PassEnt := []
  /-- Layers whose barrier an INPLACE load has closed (R297), and the tide of the pass is held at one. -/
  held : Bool := false
  /-- Has not come to a pass boundary since the gatehouse objects that wait were written (R270). -/
  owes : Bool := false
deriving DecidableEq, Repr

/-- A stream (R442 to R446): number, name, parameter block. -/
structure Strm where
  num : Nat := 0
  name : List Byte := []
  params : List Param := []
  /-- Terrace, first row and rows of the block; 0 rows for none (R443). -/
  terr : Nat := 0
  trow : Nat := 0
  nrows : Nat := 0
  image : List Byte := []
  status : Nat := 0
  changed : Nat := 0
  /-- Consecutive tides with output of the last tide released as OK_FALLBACK by an apply (R58). -/
  mute : Nat := 0
deriving DecidableEq, Repr

/-- A sequence in the gatehouse's books (R245 to R263). -/
structure SeqRec where
  seq : Nat := 0
  gen : Nat := 0
  set : Nat := 0
  q : Nat := 0
  best : Bool := false
  demoteOk : Bool := false
  demoted : Bool := false
  maxlen : Nat := 1
  sd : Nat := 0
  fd : Nat := 0
  adp : Option Nat := none
  /-- Pages still reserved for it, and its first page-table rows (L1, L2). -/
  resv : Nat := 0
  /-- Of them, pages kept for copies of a partly filled shared page (R246). -/
  cow : Nat := 0
  l1row : Nat := 0
  l2row : Nat := 0
  l2per : Nat := 1
  /-- Prompt tokens left to prefill, and the host address of the next. -/
  prompt : Nat := 0
  taddr : Nat := 0
  /-- The request in progress: its 64 bytes and the tide it arrived in. -/
  req : Option (List Byte × Nat) := none
  /-- In the running pass. -/
  running : Bool := false
  /-- A CANCEL or CLOSE waits for the boundary: its 64 bytes and status. -/
  ending : Option (List Byte × Nat × Nat) := none
  /-- Removed by the gatehouse (R253): the books count it no longer. -/
  cut : Bool := false
  parked : Option Nat := none
  first : Bool := true
deriving DecidableEq, Repr

/-- A capture job (R264 to R268): its parameters by name, and its progress. -/
structure CapJob where
  handle : Nat := 0
  q : Nat := 0
  set : Nat := 0
  nparam : Nat := 0
  pair : Nat := 0
  nsamp : Nat := 0
  seg : Nat := 0
  stride : Nat := 0
  seed : Nat := 0
  epochs : Nat := 0
  lr : Nat := 0
  b1 : Nat := 0
  b2 : Nat := 0
  eps : Nat := 0
  c1 : Nat := 0
  c2 : Nat := 0
  state : Nat := 0
  out : Nat := 0
  lossrow : Nat := 0
  lmap : Nat := 0
  nlmap : Nat := 0
  expfmt : Nat := 0
  expgrp : Nat := 0
  emodel : Nat := 0
  emver : Nat := 0
  ekeyid : Nat := 0
  /-- Epoch, batch, optimiser step, beta powers, sum of losses. -/
  epoch : Nat := 0
  batch : Nat := 0
  u : Nat := 0
  p1 : Nat := 0x3F800000
  p2 : Nat := 0x3F800000
  loss : Nat := 0
  /-- Pool client of the job; the segments staged for its next batch, one per lane, and the samples staged for each, those of
  x before those of y (R265). -/
  client : Nat := 0
  feed : List Nat := []
  fed : List (List Byte) := []
  cancel : Bool := false
  /-- Ended while the host was lost, at this uptime: its result is kept (R262). -/
  kept : Option Nat := none
deriving DecidableEq, Repr

/-- An INPLACE load whose barrier is to close, or is closed (R297): its queue and TAG, the package, its layers. -/
structure InPlace where
  q : Nat := 0
  tag : Nat := 0
  pkg : List Byte := []
  modelId : Nat := 0
  layers : List Nat := []
  closed : Bool := false
deriving DecidableEq, Repr

/-- The loader and the gatehouse. -/
structure Loader where
  sets : List ProgSet := []
  nextSet : Nat := 1
  streams : List Strm := []
  seqs : List SeqRec := []
  /-- Requests not yet handled: queue, 64 bytes, tide of arrival. -/
  reqs : List (Nat × List Byte × Nat) := []
  jobs : List CapJob := []
  nextJob : Nat := 1
  /-- INPLACE loads under way. -/
  inplace : List InPlace := []
  /-- Sets whose next pass boundary is the first since the scheduler core restarted (R472). -/
  schedLate : List Nat := []
  /-- Gatehouse objects, with their values, that wait for a pass boundary of every set (R270). -/
  ghLater : List (Nat × Nat) := []
  /-- Adapter versions that have been committed: AID and AVER (R301). -/
  adpSeen : List (Nat × Nat) := []
  /-- Uptime of the host's last sign of life (R261). -/
  alive : Nat := 0
deriving DecidableEq, Repr

end Sys2Proof.Machine
end

