-- ==== Sys2Proof/Syntax.lean ====
section
/-! DEFINITION. The commands of the block: one constructor per row of the opcode table, with its operands. A command is
what reaches the module from outside (a bus access, a frame, an edge, a request) or an event of its own hardware. -/

namespace Sys2Proof

/-- A station: terrace 0 to 11 and position 0 to 16, 16 the reserve (R16). -/
structure StId where
  t : Fin 12
  p : Fin 17
deriving DecidableEq, Repr

/-- The tide settings of R56. -/
inductive TideSetting where
  | src | rate | slack | period | origin
deriving DecidableEq, Repr


/-- An upset of the matrix array: group, row and column of the cell (row or column 32: a checksum cell), and what it adds
to the cell's value, or for a drained accumulator the bits it flips. -/
structure Upset where
  g : Nat
  row : Nat
  col : Nat
  d : Int
deriving DecidableEq, Repr

/-- What the code makes of an upset of a word (R119): a single-bit error, an uncorrectable one, three or more bits corrected
as though they were one, a valid code word with no sign at all. -/
inductive UpsetKind where
  | single | uncorrectable | miscorrected | silent
deriving DecidableEq, Repr

/-- An upset of a memory word: index of the word, what the code makes of it, and the bits that the data delivered differs in
where it is delivered wrong. -/
structure BadWord where
  word : Nat
  kind : UpsetKind
  flip : BitVec 64 := 0
deriving DecidableEq, Repr

/-- The space of a host request (R5, R26): the registers of BAR0, BAR4, the configuration header of the function. -/
inductive Space where
  | bar0 | bar4 | config
deriving DecidableEq, Repr

/-- What a read of a line of the embedded flash meets (R477, R478): nothing, a single-bit error, errors that the code cannot
correct and that go with the references shifted low, or high, or with neither. -/
inductive EfLine where
  | clean | single | low | high | never
deriving DecidableEq, Repr

/-- What reads a line of the embedded flash: a fetch by the lighthouse core (of a taken branch's target), a refill of the
prefetch buffer, a read of a copy of a persistent record, of a copy of the key store, of anything else (R477, R478). -/
inductive EfUse where
  | fetch (line : BitVec 18) (taken : Bool)
  | refill (line : BitVec 18)
  | record (index : BitVec 16) (sub : BitVec 8) (second : Bool)
  | keyStore (second : Bool)
  | other (code : Bool)
deriving DecidableEq, Repr

/-- A read of a line of the embedded flash. -/
structure EfRead where
  use : EfUse
  line : EfLine := .clean
deriving DecidableEq, Repr

/-- The 32-bit word that a request names: index `i` of a space. -/
structure BusWord where
  sp : Space
  i : BitVec 24
deriving DecidableEq, Repr

/-- What the scrubber finds in a row: the upsets of its words, before the visit or, when `late`, after it, for the next read
of the row to meet (R119, R121). -/
structure RowFinds where
  words : List BadWord := []
  late : Bool := false
deriving DecidableEq, Repr

/-- A row that arrives over a link: written by the neighbour, or (`ret`) returned for a read; `bad`: parity error or sequence
gap (R124). -/
structure LinkArrival where
  ret : Bool := false
  bad : Bool := false
deriving DecidableEq, Repr

/-- Why a firmware core takes an access fault: a breach of its map or fences (R455), an uncorrectable word of its firmware SRAM
(R498), an address that nothing maps (R23). -/
inductive AccessCause where
  | breach | sram | unmapped
deriving DecidableEq, Repr

/-- What a start-up meets: the places in error, the reads of the embedded flash that are not clean or that matter. -/
structure BootFinds where
  bad : List Nat := []
  reads : List EfRead := []
deriving DecidableEq, Repr

/-- What happens when an operation of the embedded flash ends: training, should a deferred reset follow, and the reads that
waited. -/
structure EfAfter where
  train : Fin 25 := 24
  reads : List EfRead := []
deriving DecidableEq, Repr

/-- The commands of the block, one constructor per row of the opcode table, in its order but for the last twenty: they take no
operands, since only the first constructors of a compiled type may. -/
inductive Instr where
  /-- UNALIGNED_BAR0_ACCESS (R6): A BAR0 request that is not a naturally aligned 32-bit access completes with Unsupported Request and changes no register. -/
  | unalignedBar0Access (off : BitVec 26) (size : Fin 65)
  /-- REG64_LOW_READ (R7): A read of the low word of a 64-bit register returns it and latches the high word for that requester. -/
  | reg64LowRead (r : Fin 7) (i : BusWord)
  /-- REG64_HIGH_READ (R7): A read of the high word returns the latched value, or the current high word when nothing is latched. -/
  | reg64HighRead (r : Fin 7) (i : BitVec 24)
  /-- REG64_LOW_WRITE (R7): A write of the low word is held for that requester until the high word is written. -/
  | reg64LowWrite (r : Fin 7) (i : BitVec 24) (w : BitVec 32)
  /-- REG64_HIGH_WRITE (R7): A write of the high word applies both halves together, using the held low word or the current one. -/
  | reg64HighWrite (r : Fin 7) (i : BitVec 24) (w : BitVec 32)
  /-- REGISTER_WRITE (R9): A write to a register that has no row of its own applies the field access codes, keeps a field that receives a reserved encoding, and discards writes to reserved offsets. -/
  | registerWrite (sp : Space) (r : Fin 7) (i : BitVec 24) (w : BitVec 32)
  /-- APER_HI_WRITE (R28): A write of HRING.APER_HI applies a new BAR2 aperture base and EN, or refuses an illegal base and sets ERR. -/
  | aperHiWrite (w : BitVec 32)
  /-- BAR2_REQUEST (R29): A host request through BAR2 reaches board DRAM at the aperture base in force, or completes with Unsupported Request. -/
  | bar2Request (read : Bool) (off : BitVec 32) (n : BitVec 13) (b : List Byte)
  /-- POWER_ON_RESET (R540): 3V3_SB rising through 3.0 V resets the whole module, puts the causeway in bypass and runs the start-up sequence. -/
  | powerOnReset (train : Fin 25) (b : BootFinds)
  /-- MODULE_RESET (R13): The carrier asserting MRST_N resets the whole module and runs the start-up sequence when MRST_N is released. -/
  | moduleReset
  /-- WARM_RESET (R529): A host warm reset through GC.RESET with KEY 0xA5, or object 0x2001, bypasses the causeway and resets the compute die and the PCIe link. -/
  | warmReset (obj : Bool) (w : BitVec 32) (train : Fin 25)
  /-- COMPUTE_DIE_RESET (R529): The lighthouse core resets the compute die and the PCIe link, for a protection lowering or a wake after thermal shutdown. -/
  | computeDieReset (train : Fin 25)
  /-- FUNCTION_LEVEL_RESET (R530): A PCIe function-level reset returns the function state to its reset values and leaves real-time work running. -/
  | functionLevelReset
  /-- TIDE_BOUNDARY (R20): At a tide boundary the tide number advances, tide n-1 commits and its outputs are released, held inputs freeze, and slices start. -/
  | tideBoundary
  /-- SCHEDULABLE_END (R55): At cycle B unfinished slices are abandoned and stalled ports and CHECK slots raise STARVED or OVERRUN. -/
  | schedulableEnd (cyc : BitVec 23) (z : Option (Fin 12))
  /-- COMMIT_WINDOW_OPEN (R51): C cycles before the boundary no slice or replay runs, and the module decides every slice outcome and prepares the release. -/
  | commitWindowOpen
  /-- WCLK_EDGE (R33): A rising edge of WCLK_IN counts towards the frame count and towards acceptance or loss of the word clock. -/
  | wclkEdge (dt : BitVec 32)
  /-- WCLK_LOSS_TIMEOUT (R34): No WCLK_IN edge within two sample periods puts LOCK in HOLDOVER at the measured mean period. -/
  | wclkLossTimeout
  /-- GPTP_FRAME_RECEIVE (R40): A gPTP frame is handled under IEEE 802.1AS and steers or steps device time. -/
  | gptpFrameReceive (port : Bool) (offset : BitVec 64) (bound : BitVec 16)
  /-- PPS_IN_EDGE (R41): A rising edge of PPS_IN loads TIME.PPS_SET into device time, or steers its phase. -/
  | ppsInEdge (dt : BitVec 32)
  /-- PPS_OUT_SECOND (R41): At each whole device-time second PPS_OUT rises for 10 ms. -/
  | ppsOutSecond
  /-- TIDE_SETTING_WRITE (R56): A write of SRC, RATE, SLACK, PERIOD or ORIGIN takes effect at once while RUN is 0, and is staged otherwise. -/
  | tideSettingWrite (which : TideSetting) (v : BitVec 64)
  /-- TIDE_RUN_SET (R56): Setting RUN starts the tides, or is refused with APPLY_REFUSED when the combination breaks R32. -/
  | tideRunSet (w : BitVec 32)
  /-- TIDE_RUN_CLEAR (R56): Clearing RUN makes the generator stop at the next boundary. -/
  | tideRunClear (w : BitVec 32)
  /-- APPLY_ARM (R56): A write of TIDE.APPLY_HI with ARM 1 arms or retargets an apply of the staged settings. -/
  | applyArm (tide : BitVec 48)
  /-- APPLY_CANCEL (R56): A write of TIDE.APPLY_HI with ARM 0 cancels the pending apply and leaves the settings staged. -/
  | applyCancel (tide : BitVec 48)
  /-- TILE_ISSUE (R66): A queued tile issues into the array after a swap cycle, and its reduction cycles pass through the cells. -/
  | tileIssue (st : StId) (cyc : BitVec 23) (up : List Upset)
  /-- TILE_COMPLETE (R70): The drain empties the idle set through its checks and curve, writes the destination and sets the output slot's presence bit. -/
  | tileComplete (st : StId) (cyc : BitVec 23) (up : List Upset)
  /-- SLICE_END (R154): A slice ends the cycle after STOP has issued and all its tiles, stores, moves and signals have completed. -/
  | sliceEnd (st : StId) (cyc : BitVec 23)
  /-- ARRAY_REPAIR_WRITE (R87): A write of ARRAY.REPAIR changes the row and column map, or is discarded with ERR. -/
  | arrayRepairWrite (st : StId) (w : BitVec 32)
  /-- CURVE_LOAD_DONE (R110): The nine rows of a curve-load have been read and the slot becomes valid. -/
  | curveLoadDone (st : StId) (cyc : BitVec 23)
  /-- SCRUB_ROW (R121): The scrubber reads one row of a bank in a free cycle, corrects and writes back, and logs uncorrectable words. -/
  | scrubRow (t : Fin 12) (p : Fin 18) (m : Fin 4) (row : BitVec 12) (found : RowFinds)
  /-- LINK_ROW_RECEIVE (R123): A row arrives on a promenade link and is written into the receiving memory. -/
  | linkRowReceive (st : StId) (up : Bool) (a : LinkArrival) (cyc : BitVec 23)
  /-- CREDIT_RETURN (R123): A promenade link credit returns to the sender after the receiving bank grants the write. -/
  | creditReturn (st : StId) (up : Bool)
  /-- SLOT_SET (R125): A producer sets a slot's presence bit, and the reads stalled on it proceed. -/
  | slotSet (st : StId) (k : Fin 64)
  /-- SLOT_RELEASE (R125): A consumer releases a slot, and a STREAM slot clears after READERS releases so that stalled writes proceed. -/
  | slotRelease (st : StId) (k : Fin 64)
  /-- MEM_PASS_WRITE (R122): A write of MEM.PASS.EN puts a station into or out of pass-through, or is discarded with ERR. -/
  | memPassWrite (st : StId) (w : BitVec 32)
  /-- TSTORE_PAGES_WRITE (R132): A write of TSTORE.CTRL.PAGES moves the page-frame boundary at the next tide, or is discarded with ERR. -/
  | tstorePagesWrite (t : Fin 12) (w : BitVec 32)
  /-- TAKEOVER_REQUEST (R148): A write of TAKE.CTRL with REQ starts a permanent takeover at the next boundary, or is discarded with ERR. -/
  | takeoverRequest (t : Fin 12) (pos : BitVec 4)
  /-- TAKEOVER_RESTORE (R148): A write of TAKE.CTRL with RESTORE returns a retired position to service, or is discarded with ERR. -/
  | takeoverRestore (t : Fin 12)
  /-- TAKEOVER_COPY_DONE (R148): The background copy of 1920 rows into the reserve ends, so the switch takes place at the next boundary. -/
  | takeoverCopyDone (t : Fin 12)
  /-- NOP (R155): The sequencer spends one cycle. -/
  | nop (st : StId) (cyc : BitVec 23)
  /-- TILE (R161): A run of T matrix tiles is queued, taking copies of its descriptor cursors and advancing them. -/
  | tile (st : StId) (cyc : BitVec 23)
  /-- TILEW (R201): A run of tiles is queued whose activations come from the window feeder through configuration WC. -/
  | tilew (st : StId) (cyc : BitVec 23)
  /-- LDBIAS (R168): A bias register is loaded from one row once no unswapped tile names it. -/
  | ldbias (st : StId) (cyc : BitVec 23)
  /-- LDCURVE (R110): A curve-load of nine rows into a curve slot starts after earlier loads and drains that use the slot. -/
  | ldcurve (st : StId) (cyc : BitVec 23)
  /-- WCFG (R199): A window configuration is loaded from one row. -/
  | wcfg (st : StId) (cyc : BitVec 23)
  /-- WAITP (R176): The sequencer stalls until a slot's presence bit equals VAL. -/
  | waitp (st : StId) (cyc : BitVec 23)
  /-- REL (R176): A slot is released once, or the release is counted as null. -/
  | rel (st : StId) (cyc : BitVec 23)
  /-- SETP (R176): A slot's presence bit is set after the earlier writes to it, or the set is counted as null. -/
  | setp (st : StId) (cyc : BitVec 23)
  /-- BAR (R177): The sequencer waits for the selected earlier work and may set a terrace flag. -/
  | bar (st : StId) (cyc : BitVec 23)
  /-- WAITF (R177): The sequencer stalls until a terrace flag is set. -/
  | waitf (st : StId) (cyc : BitVec 23)
  /-- LOOP (R173): A hardware loop of a static or dynamic count starts. -/
  | loop (st : StId) (cyc : BitVec 23)
  /-- SKIP (R175): The next N instructions are skipped when the condition holds. -/
  | skip (st : StId) (cyc : BitVec 23)
  /-- PTR_SET (R169): PTR FUNC 0 loads a row pointer with IMM. -/
  | ptrSet (st : StId) (cyc : BitVec 23)
  /-- PTR_ADD (R169): PTR FUNC 1 adds IMM to a pointer modulo 2^16. -/
  | ptrAdd (st : StId) (cyc : BitVec 23)
  /-- PTR_ADD_MOD (R169): PTR FUNC 2 adds IMM[7:0] to a pointer modulo IMM[15:8] + 1. -/
  | ptrAddMod (st : StId) (cyc : BitVec 23)
  /-- PTR_LOAD (R169): PTR FUNC 3 loads a pointer from a 16-bit word of a row and makes it dynamic. -/
  | ptrLoad (st : StId) (cyc : BitVec 23)
  /-- SETD_CURSOR (R170): SETD FUNC 0 sets a descriptor cursor to IMM. -/
  | setdCursor (st : StId) (cyc : BitVec 23)
  /-- SETD_CURSOR_PTR (R170): SETD FUNC 1 sets a cursor from a pointer. -/
  | setdCursorPtr (st : StId) (cyc : BitVec 23)
  /-- SETD_CURSOR_ADD (R170): SETD FUNC 2 adds IMM to a cursor, modulo SIZE when WRAP is set. -/
  | setdCursorAdd (st : StId) (cyc : BitVec 23)
  /-- SETD_RESTORE (R170): SETD FUNC 3 restores the cursor and base to their image values. -/
  | setdRestore (st : StId) (cyc : BitVec 23)
  /-- SETD_BASE_ADD (R170): SETD FUNC 4 adds a sign-extended IMM to the block base. -/
  | setdBaseAdd (st : StId) (cyc : BitVec 23)
  /-- MOVR (R171): N rows are copied between descriptors, optionally setting destination and releasing source slots. -/
  | movr (st : StId) (cyc : BitVec 23)
  /-- VLD (R172): One row is loaded into a vector register. -/
  | vld (st : StId) (cyc : BitVec 23)
  /-- VST (R172): A vector register is stored to one row, optionally setting the slot's presence bit. -/
  | vst (st : StId) (cyc : BitVec 23)
  /-- STOP (R154): The slice program ends and the sequencer issues nothing more in the tide. -/
  | stop (st : StId) (cyc : BitVec 23)
  /-- VMOV (R190): VD takes VA unchanged. -/
  | vmov (st : StId) (cyc : BitVec 23)
  /-- VADD (R190): VD takes VA + VB per element. -/
  | vadd (st : StId) (cyc : BitVec 23)
  /-- VSUB (R190): VD takes VA - VB per element. -/
  | vsub (st : StId) (cyc : BitVec 23)
  /-- VMUL (R190): VD takes VA x VB per element. -/
  | vmul (st : StId) (cyc : BitVec 23)
  /-- VFMA (R190): VD takes the fused VA x VB + VC. -/
  | vfma (st : StId) (cyc : BitVec 23)
  /-- VMAX (R189): VD takes the maximum of VA and VB. -/
  | vmax (st : StId) (cyc : BitVec 23)
  /-- VMIN (R189): VD takes the minimum of VA and VB. -/
  | vmin (st : StId) (cyc : BitVec 23)
  /-- VABS (R189): VD takes the absolute value of VA. -/
  | vabs (st : StId) (cyc : BitVec 23)
  /-- VADDI (R190): VD takes VA + IMM. -/
  | vaddi (st : StId) (cyc : BitVec 23)
  /-- VMULI (R190): VD takes VA x IMM. -/
  | vmuli (st : StId) (cyc : BitVec 23)
  /-- VFMAI (R190): VD takes the fused VA x IMM + VB. -/
  | vfmai (st : StId) (cyc : BitVec 23)
  /-- VMAXI (R190): VD takes the maximum of VA and IMM. -/
  | vmaxi (st : StId) (cyc : BitVec 23)
  /-- VCMP (R194): VD takes all ones where the comparison holds, and the vector flag is set or cleared. -/
  | vcmp (st : StId) (cyc : BitVec 23)
  /-- VSEL (R190): VD takes VA where VC is nonzero and VB elsewhere. -/
  | vsel (st : StId) (cyc : BitVec 23)
  /-- VLERP (R190): VD takes the fused VA x (VC - VB) + VB. -/
  | vlerp (st : StId) (cyc : BitVec 23)
  /-- VDIV (R192): VD takes VA / VB, with division by zero counted and setting the vector flag. -/
  | vdiv (st : StId) (cyc : BitVec 23)
  /-- VEXP (R191): VD takes e^VA, correctly rounded. -/
  | vexp (st : StId) (cyc : BitVec 23)
  /-- VEXP2 (R191): VD takes 2^VA. -/
  | vexp2 (st : StId) (cyc : BitVec 23)
  /-- VLOG2 (R191): VD takes log2 VA. -/
  | vlog2 (st : StId) (cyc : BitVec 23)
  /-- VRCP (R191): VD takes 1 / VA. -/
  | vrcp (st : StId) (cyc : BitVec 23)
  /-- VSQRT (R191): VD takes the square root of VA. -/
  | vsqrt (st : StId) (cyc : BitVec 23)
  /-- VRSQRT (R191): VD takes the reciprocal square root of VA. -/
  | vrsqrt (st : StId) (cyc : BitVec 23)
  /-- VSIGM (R191): VD takes the logistic sigmoid of VA. -/
  | vsigm (st : StId) (cyc : BitVec 23)
  /-- VTANH (R191): VD takes tanh VA. -/
  | vtanh (st : StId) (cyc : BitVec 23)
  /-- VEXPD (R192): VD takes e^(VA - VB), with +0 when VB is minus infinity. -/
  | vexpd (st : StId) (cyc : BitVec 23)
  /-- VCVT (R195): VA is converted into the target format in VD at part PART. -/
  | vcvt (st : StId) (cyc : BitVec 23)
  /-- VRED (R193): The elements of each row class are reduced by a fixed tree, and optionally across classes. -/
  | vred (st : StId) (cyc : BitVec 23)
  /-- VSCAN (R196): A linear recurrence runs over 32 frames for each of four channels. -/
  | vscan (st : StId) (cyc : BitVec 23)
  /-- VDW (R208): A depthwise filter runs through the window feeder into the vector lanes. -/
  | vdw (st : StId) (cyc : BitVec 23)
  /-- VPOOL (R209): Max or average pooling runs through the window feeder. -/
  | vpool (st : StId) (cyc : BitVec 23)
  /-- VCROP (R211): A box is cropped and resized bilinearly from the line buffer. -/
  | vcrop (st : StId) (cyc : BitVec 23)
  /-- VBDEC (R212): 32 boxes are decoded from deltas and anchors. -/
  | vbdec (st : StId) (cyc : BitVec 23)
  /-- VNMS (R213): Non-maximum suppression writes the indices of the kept boxes and sets or clears the vector flag. -/
  | vnms (st : StId) (cyc : BitVec 23)
  /-- VTOPK (R215): 128 scores are merged into a sorted top-K list. -/
  | vtopk (st : StId) (cyc : BitVec 23)
  /-- TFLAG_FORCE (R187): A write of TFLAG.FORCE sets the named terrace flags. -/
  | tflagForce (t : Fin 12) (v : BitVec 32)
  /-- SEQ_PHASE_WRITE (R187): A write of SEQ.PHASE takes effect at the next tide boundary. -/
  | seqPhaseWrite (st : StId) (v : BitVec 16)
  /-- ATTENTION_JOB_START (R225): When a queue's GO flag is set and the unit is idle, the lowest ready queue starts its job. -/
  | attentionJobStart (t : Fin 12)
  /-- ATTEND_ENTRY (R231): An attend entry translates and reads its pages and computes the attention output of each query. -/
  | attendEntry (t : Fin 12)
  /-- APPEND_ENTRY (R233): An append entry writes N positions of keys, values and scales into the track's pages. -/
  | appendEntry (t : Fin 12)
  /-- ATTENTION_JOB_DONE (R225): After every output, bitmap and status of the job is visible, the unit sets the DONE flag. -/
  | attentionJobDone (t : Fin 12)
  /-- PS_INVALIDATE (R222): A write of PS.INV drops the matching look-aside entries in all 12 units. -/
  | psInvalidate (all : Bool) (seq : BitVec 11)
  /-- FRAME_FILL (R223): A write of ATT.FRAME with FILL starts copying a page into a terrace-store frame, or is discarded with ERR. -/
  | frameFill (t : Fin 12) (f : Fin 128) (w : BitVec 32)
  /-- FRAME_FILL_DONE (R223): The last row of a frame fill is written and the frame becomes VALID. -/
  | frameFillDone (t : Fin 12) (f : Fin 128)
  /-- FRAME_INVALIDATE (R224): A write with INVAL invalidates a frame once no job entry is reading it. -/
  | frameInvalidate (t : Fin 12) (f : Fin 128) (w : BitVec 32)
  /-- PS_INIT (R240): The page store builds the free list of all KV pages. -/
  | psInit
  /-- PS_ALLOC (R240): The page store takes the head of the free list, optionally from the reservation. -/
  | psAlloc (res : Bool)
  /-- PS_SHARE (R240): The REF of a page rises by one. -/
  | psShare (arg : BitVec 22)
  /-- PS_FREE (R240): The REF of a page falls by one, and at zero the page becomes PENDING. -/
  | psFree (arg : BitVec 22)
  /-- PS_RESERVE (R240): RESV rises by ARG pages, or the operation is refused with REFUSED_MEMORY. -/
  | psReserve (arg : BitVec 22)
  /-- PS_UNRESERVE (R240): RESV falls by ARG pages. -/
  | psUnreserve (arg : BitVec 22)
  /-- PS_POISON (R240): The POISON bit of a page is set. -/
  | psPoison (arg : BitVec 22)
  /-- PS_UNPOISON (R240): The POISON bit of a page is cleared. -/
  | psUnpoison (arg : BitVec 22)
  /-- OPEN (R246): A sequence is admitted after the memory, deadline and attention checks, pages are reserved, and the prompt is prefilled. -/
  | openCmd
  /-- STEP (R245): A STEP request appends the chosen token and waits for the next pass. -/
  | step
  /-- CANCEL (R256): A CANCEL ends the sequence at the next pass boundary with CANCELLED and frees its pages. -/
  | cancel
  /-- CLOSE (R256): A CLOSE ends the sequence at the next pass boundary with OK and frees its pages. -/
  | close
  /-- RECLAIM (R263): A parked sequence is re-admitted with its original figures, or stays parked with REFUSED_TIME. -/
  | reclaim
  /-- HOST_ALIVE (R261): A write of GH.HOST.ALIVE marks the host alive and clears LOST. -/
  | hostAlive
  /-- HOST_LOST_TIMEOUT (R261): No ALIVE write or doorbell for LIVE_MS sets LOST, logs HOST_LOST and parks every sequence. -/
  | hostLostTimeout
  /-- PARK_TIMEOUT (R262): A sequence parked for PARK_S seconds, or a kept capture result, is freed with HOST_LOST. -/
  | parkTimeout
  /-- CAPTURE_TRAINING_STEP (R266): One batch runs the forward and backward passes and then the optimiser on every parameter. -/
  | captureTrainingStep (job : BitVec 32)
  /-- LOAD (R281): The loader reads, checks, expands once, encrypts and stores a weight package, or refuses it at the first cause. -/
  | load
  /-- PLACE (R142): The loader checks and places a program set, pins or promotes its layers, and assigns it at a later boundary. -/
  | place
  /-- REMOVE (R143): A placed set is removed at a tide boundary. -/
  | remove
  /-- DELETE (R464): A stored model's pages are freed, or the command is refused while a set binds it. -/
  | delete
  /-- CAPTURE_START (R264): A capture job is accepted or refused. -/
  | captureStart
  /-- CAPTURE_CANCEL (R268): A capture job ends at its next step boundary with CANCELLED and its areas are freed. -/
  | captureCancel
  /-- EXPANDER_SLOT (R288): An expander channel reads, decrypts, checks and expands one stored slot into a free weight slot and sets its presence bit. -/
  | expanderSlot (st : StId) (c : Fin 2) (cyc : BitVec 23) (buffered : Fin 5) (bad1 : Bool) (bad2 : Bool)
  /-- AGE_TICK (R311): Every AGE_TIDES tides the age clock advances and each unpinned page's AGE is updated. -/
  | ageTick
  /-- EVICTION (R312): The tier core evicts candidate pages when FREE is short or falls below the low-water mark. -/
  | eviction
  /-- PAGE_WRITEBACK_DONE (R313): A page's write to tier 2 completes and its tier 1 page may be freed. -/
  | pageWritebackDone
  /-- HOME_COPY_WRITE (R314): The tier core writes the home copy of a committed layer to tier 2 in the background. -/
  | homeCopyWrite
  /-- PROMOTION_PAGE_ARRIVE (R316): A promoted page arrives in tier 1 and passes its page CRC; the set is assigned after the last page. -/
  | promotionPageArrive (how : Fin 4)
  /-- PAGE_REPAIR (R322): The tier core rebuilds a BAD page from its home copy, or marks the layer POISONED. -/
  | pageRepair (how : Fin 4) (readback : Bool)
  /-- DRAM_READ (R329): A DRAM read is served in class order, corrected or delivered with a poison mark. -/
  | dramRead (port : Fin 29) (a : BitVec 48) (n : BitVec 16) (rt : Bool) (opens : Bool) (starved : Bool) (link : Fin 4)
  /-- DRAM_WRITE (R329): A DRAM write replaces a unit, or merges a part of a unit by read-modify-write. -/
  | dramWrite (port : Fin 29) (a : BitVec 48) (b : List Byte) (rt : Bool) (opens : Bool) (starved : Bool) (link : Fin 4)
  /-- DRAM_SCRUB (R330): The controller scrubs protected units in idle cycles once per SCRUB_HOURS. -/
  | dramScrub (a : BitVec 48) (kind : Fin 3)
  /-- DRAM_REFRESH (R334): A per-bank refresh is issued and lowers RAA. -/
  | dramRefresh (ch : Fin 24) (rank : Fin 2) (bank : Fin 16)
  /-- THROTTLE_WINDOW (R335): A 32 us activation-count window ends and the offender marks are cleared. -/
  | throttleWindow
  /-- DRAM_RECALIBRATE (R337): One channel is recalibrated for at most 1 us. -/
  | dramRecalibrate (ch : Fin 24)
  /-- DRAM_PROT_WRITE (R328): A write of DRAM.PROT flags a protected region, or is discarded with ERR. -/
  | dramProtWrite (i : Fin 8) (size : Bool) (w : BitVec 32)
  /-- ELOG_POP (R339): A write of DRAM.ELOG.POP removes the oldest error record. -/
  | elogPop
  /-- NAND_CODEWORD_READ (R343): A codeword is decoded by hard LDPC, soft LDPC or cross-die rebuild, or the read fails. -/
  | nandCodewordRead (stripe : Fin 2) (sb : Fin 960) (pg : Fin 1024) (die : Fin 16) (cw : Fin 16) (how : Fin 4) (corrected : BitVec 8)
  /-- NAND_RETRY_READ (R344): The tier core reads a codeword with a read-retry entry. -/
  | nandRetryRead (stripe : Fin 2) (sb : Fin 960) (pg : Fin 1024) (die : Fin 16) (cw : Fin 16) (e : Fin 16) (ok : Bool) (soft : Bool)
  /-- NAND_PROGRAM (R347): A stripe row is programmed; a program failure makes a grown bad block and the data is written again. -/
  | nandProgram (stripe : Fin 2) (die : Fin 16) (plane : Fin 4) (ok : Bool)
  /-- NAND_RECLAIM (R342): The valid pages of the emptiest superblock are moved and the superblock is erased. -/
  | nandReclaim
  /-- NAND_RELOCATE (R345): A block's valid pages are relocated bit-identically. -/
  | nandRelocate
  /-- NAND_PATROL (R345): Every written block is patrol-read once per PATROL_H hours. -/
  | nandPatrol (die : Fin 32) (sb : Fin 960) (how : Fin 4) (corrected : BitVec 8)
  /-- NAND_WEAR_LEVEL (R346): When erase counts spread by more than WL_DELTA, the least-erased superblock is moved. -/
  | nandWearLevel
  /-- DMA_PROD_WRITE (R355): A PROD write posts descriptors, or is discarded with ERR_RING when it exceeds the free places. -/
  | dmaProdWrite (c : Fin 16) (v : BitVec 12)
  /-- DMA_DESCRIPTOR_START (R356): A channel starts the next descriptor after its field checks, any flag wait and any RT hold. -/
  | dmaDescriptorStart (c : Fin 16) (cyc : BitVec 23)
  /-- DMA_HALF (R359): Half of the stream bytes are written, or delivered with BARRIER, and the half interrupt is raised. -/
  | dmaHalf (c : Fin 16) (cyc : BitVec 23)
  /-- DMA_DESCRIPTOR_END (R358): A descriptor ends, writes STATUS and STAMP, sets its flag and raises its interrupt. -/
  | dmaDescriptorEnd (c : Fin 16) (cyc : BitVec 23) (host : Fin 3) (upto : BitVec 40)
  /-- DMA_RT_DEADLINE (R360): A tide-bound descriptor not ended by its deadline cycle stops and ends with TIMEOUT. -/
  | dmaRtDeadline (c : Fin 16) (upto : BitVec 40)
  /-- DMA_HOST_TIMEOUT (R362): A host completion that does not arrive within 50 ms ends the descriptor with TIMEOUT. -/
  | dmaHostTimeout (c : Fin 16) (upto : BitVec 40)
  /-- DMA_ABORT (R363): ABORT ends the active descriptor with CANCELLED and clears EN. -/
  | dmaAbort (c : Fin 16) (upto : BitVec 40)
  /-- VIN_PORT_WRITE (R367): A port configuration write is applied, or discarded with ERR when a RAW frame size is illegal. -/
  | vinPortWrite (p : Fin 4) (size : Bool) (w : BitVec 32)
  /-- VIN_FRAME_START (R378): VSYNC becomes active and the pipeline loads its parameter set and settings for the frame. -/
  | vinFrameStart (p : Fin 4)
  /-- VIN_LINE_END (R368): A line ends; short or long lines are filled or cut and the line is written. -/
  | vinLineEnd (p : Fin 4) (px : List (BitVec 16)) (lost : Bool)
  /-- VIN_FRAME_END (R368): VSYNC becomes inactive, missing lines are filled and the frame's marks become final. -/
  | vinFrameEnd (p : Fin 4)
  /-- VIN_FRAME_TIMEOUT (R369): VSYNC held active beyond MAXF_MS ends the frame, marked LONG. -/
  | vinFrameTimeout (p : Fin 4)
  /-- VIN_PCLK_LOSS (R369): No PCLK edge for 1 ms in a frame ends it, marked SHORT, and clears CLK. -/
  | vinPclkLoss (p : Fin 4)
  /-- VIN_OUTPUT_COMPLETE (R376): A pipeline finishes the display, coding and machine-vision outputs of a frame. -/
  | vinOutputComplete (c : Fin 4)
  /-- VIN_PUBLISH (R380): At cycle T_MIN - 2048 the newest complete frame is written into the next HELD entry or terrace-store buffer. -/
  | vinPublish (c : Fin 4)
  /-- VIN_MUX_WRITE (R386): A write of VIN.MUX enables time-multiplexed mode, or is discarded with ERR when the rate is too high. -/
  | vinMuxWrite (w : BitVec 32)
  /-- VIN_MUX_UNIT (R385): Pipeline 0 serves the next ready frame or stripe unit in context order. -/
  | vinMuxUnit
  /-- AUD_CLK_WRITE (R391): A write of AUD.CLK sets the frame format, or is discarded with ERR. -/
  | audClkWrite (w : BitVec 32)
  /-- AUD_INPUT_SAMPLE (R396): A received sample word is written into its row within 250 ns. -/
  | audInputSample (p : Fin 8) (slot : Fin 32) (w : BitVec 32) (nxt : Bool)
  /-- AUD_CLOCK_LOSS (R400): No ABCLK or AFS edge for two sample periods sets LOST and posts an event. -/
  | audClockLoss
  /-- AUD_CLOCK_RETURN (R400): The audio clock returns; inputs resume at the next frame and outputs after the next boundary. -/
  | audClockReturn
  /-- LINK_UP (R404): A ring port link trains at 25 Gb/s or falls back to 10 Gb/s. -/
  | linkUp (p : Fin 2) (fast : Bool)
  /-- LINK_RATE_FALL (R412): When a link falls to 10 Gb/s, windows that no longer fit send VOID and an event is posted. -/
  | linkRateFall (p : Fin 2)
  /-- RING_FRAME_RECEIVE (R407): A frame received on a ring port is removed, handled, delivered or forwarded. -/
  | ringFrameReceive (p : Fin 2) (f : List Byte) (fcs : Bool)
  /-- BEACON_RECEIVE (R408): A beacon updates the member table, neighbours, CLOSED, DUPIDX and link loads. -/
  | beaconReceive
  /-- MEMBER_EXPIRY (R408): A member entry expires after 3 tides without a beacon. -/
  | memberExpiry (i : Fin 16)
  /-- WINDOW_SEND (R417): A send side sends DATA or VOID frames for target tide n+2 under a GRANT and releases its slots. -/
  | windowSend (w : Fin 64)
  /-- TILE_DATA_RECEIVE (R419): A DATA frame is checked and writes its two rows, or is dropped and counted. -/
  | tileDataReceive
  /-- TILE_VOID_RECEIVE (R419): A VOID frame is checked and marks the entry void. -/
  | tileVoidReceive
  /-- GRANT_RECEIVE (R416): A GRANT gives the send side NFR credits for a target tide. -/
  | grantReceive
  /-- CLOSED_RECEIVE (R420): A CLOSED frame of the latest generation stops the send side, sets CLOSED and posts WINDOW_CLOSED. -/
  | closedReceive
  /-- GRANT_TIMEOUT (R420): A sender that receives no GRANT for 3 tides posts WINDOW_CLOSED. -/
  | grantTimeout (w : Fin 64)
  /-- AES67_PACKET_RECEIVE (R424): A received AES67 packet writes its samples, or is dropped when late. -/
  | aes67PacketReceive
  /-- AES67_PACKET_SEND (R424): A sent AES67 stream packet is formed from the output sets and sent. -/
  | aes67PacketSend (i : Fin 32)
  /-- CAUSEWAY_LEAVE_BYPASS (R426): The relays leave bypass once start-up is done, EN and CAP_OK are 1, FORCE is 0 and no cause remains. -/
  | causewayLeaveBypass
  /-- CAP_OK_SET (R425): The control die measures the stored-energy circuit charged and sets CAP_OK. -/
  | capOkSet
  /-- RING_WATCHDOG_EXPIRY (R425): The network core has not served the ports for 100 ms, and the causeway goes to bypass. -/
  | ringWatchdogExpiry
  /-- TOP_ETHERNET_RECEIVE (R441): A Therad Object Protocol frame addressed to the module is queued for the lighthouse core. -/
  | topEthernetReceive
  /-- TOP_UDP_RECEIVE (R441): A UDP datagram to the object port is queued for the lighthouse core. -/
  | topUdpReceive
  /-- ARP_REQUEST (R441): The module answers ARP for its IPv4 address. -/
  | arpRequest
  /-- MBX_GO (R441): A write of MBX.CTRL.GO hands the message in MBX.REQ to the lighthouse core, or is discarded with ERR. -/
  | mbxGo (w : BitVec 32)
  /-- SMBUS_BLOCK_WRITE (R441): An SMBus Block Write with command 0x10 delivers a request. -/
  | smbusBlockWrite (b : List Byte) (pec : Bool)
  /-- SMBUS_BLOCK_READ (R441): An SMBus Block Read with command 0x11 returns the reply, or a count of 0 when none is ready. -/
  | smbusBlockRead
  /-- SMBUS_ALERT_RESPONSE (R441): A read of the alert response address releases ALERT_N. -/
  | smbusAlertResponse
  /-- READ (R437): The object value is returned from OFFSET with TOTAL. -/
  | read
  /-- WRITE (R438): An object value, or a segment of it, is written under the object's own rule. -/
  | write (train : Fin 25)
  /-- WRITE_AT (R445): A stamped write is queued for a target tide, or is refused. -/
  | writeAt
  /-- CANCEL_AT (R437): The queued stamped writes of an object with a given target are removed. -/
  | cancelAt
  /-- NEXT (R437): The occupied object indices at or above INDEX are returned. -/
  | next
  /-- FW_LOAD (R457): An image is checked, its signature verified and it is copied into a core, or the load is refused. -/
  | fwLoad (w : BitVec 32)
  /-- NEGOTIATION (R458): A write of FW.NEG.GO negotiates the interface version and features, or is refused. -/
  | negotiation (w : BitVec 32)
  /-- MODE_WRITE (R458): A write of FW.STATE.MODE changes the firmware mode, or is discarded with ERR. -/
  | modeWrite (w : BitVec 32)
  /-- QUEUE_OPEN (R462): A queue pair opens and rewrites its held completions, or the open is refused. -/
  | queueOpen (q : Fin 8) (w : BitVec 32)
  /-- QUEUE_CLOSE (R462): EN = 0 stops taking entries and drops those not yet taken. -/
  | queueClose (q : Fin 8) (w : BitVec 32)
  /-- SQ_TAIL_WRITE (R463): An SQ TAIL doorbell posts entries, or is discarded with ERR. -/
  | sqTailWrite (q : Fin 8) (v : BitVec 16)
  /-- SQ_ENTRY_TAKE (R463): The entry at HEAD is taken once a CQ place is reserved and its effect can be held. -/
  | sqEntryTake (q : Fin 8)
  /-- CQ_HEAD_WRITE (R464): Host software advances CQ HEAD past consumed completions. -/
  | cqHeadWrite (q : Fin 8) (v : BitVec 16)
  /-- EVENT_RING_OPEN (R467): The event ring is opened or closed. -/
  | eventRingOpen (w : BitVec 32)
  /-- EVENT_HEAD_WRITE (R467): Host software advances the event-ring HEAD. -/
  | eventHeadWrite (v : BitVec 16)
  /-- WATCHDOG_KICK (R470): A write by core k to its KICK register restarts its watchdog period. -/
  | watchdogKick (k : Fin 5)
  /-- CORE_WATCHDOG_EXPIRY (R470): A core's watchdog period ends without a kick and the core is restarted with cause WATCHDOG. -/
  | coreWatchdogExpiry (k : Fin 5)
  /-- CORE_RESTART_WRITE (R473): A write of FW.CORE.CTRL.RESTART restarts the core with cause HOST. -/
  | coreRestartWrite (k : Fin 5)
  /-- CORE_RESTART_DONE (R471): The restarted core has rebuilt its state and is RUNNING again. -/
  | coreRestartDone (k : Fin 5)
  /-- ACCESS_FAULT (R455): A core access that breaks its map or fences writes nothing and restarts the core with cause ACCESS. -/
  | accessFault (k : Fin 5) (c : AccessCause)
  /-- EF_OPERATION_DONE (R479): An embedded-flash program or erase ends and waiting reads and deferred resets proceed. -/
  | efOperationDone (code : Bool) (ok : Bool) (e : EfAfter)
  /-- UPD_CHUNK (R488): A staged 4 KiB chunk is programmed into the inactive slot and verified. -/
  | updChunk (i : BitVec 9)
  /-- RECOVERY_BLOCK (R489): SMBus command 0x20 stores a 128-byte block of a chunk, and a complete chunk is programmed. -/
  | recoveryBlock (b : List Byte)
  /-- PROT_LOWER (R492): Lowering from level 1 to 0 resets the compute die, erases the data array and key store, and restarts. -/
  | protLower (train : Fin 25)
  /-- SRAM_REPAIR_MAP (R507): A write of INT.SREP GO maps a row onto a repair row, or is refused with ERR. -/
  | sramRepairMap (w : BitVec 32)
  /-- LIFETIME_CHECKPOINT (R513): The lifetime counters and histograms are written to the log as an 83-part checkpoint. -/
  | lifetimeCheckpoint (hour : Bool)
  /-- HISTOGRAM_SAMPLE (R514): A histogram takes its periodic sample into a bin. -/
  | histogramSample (margin : Bool)
  /-- POWER_ENTER_P1 (R521): A request to enter P1 gates the station clocks, or is refused. -/
  | powerEnterP1 (obj : Bool) (w : BitVec 32)
  /-- POWER_ENTER_P2 (R521): A request to enter P2 turns off arrays and cores and puts DRAM in self-refresh, or is refused. -/
  | powerEnterP2 (obj : Bool) (w : BitVec 32)
  /-- POWER_ENTER_P3 (R522): Entry to P3 checkpoints NAND, bypasses the causeway, keeps DRAM segments and powers the compute die off. -/
  | powerEnterP3 (obj : Bool) (w : BitVec 32)
  /-- POWER_ENTER_P4 (R522): Entry to P4 follows P3 with no DRAM kept and the lighthouse core sleeping. -/
  | powerEnterP4 (obj : Bool) (w : BitVec 32)
  /-- POWER_ENTER_P5 (R522): Entry to P5 follows P4 and disconnects every converter but the wake detector. -/
  | powerEnterP5 (obj : Bool) (w : BitVec 32)
  /-- POWER_WAKE (R523): A wake request returns the module to P0 through the start-up its state requires. -/
  | powerWake (obj : Bool) (w : BitVec 32) (train : Fin 25)
  /-- WAKE_N_FALL (R523): WAKE_N falling wakes the module from any power state. -/
  | wakeNFall (train : Fin 25) (bad : List Nat)
  /-- TEMPERATURE_SAMPLE (R525): The junction sensors are sampled every 1 ms. -/
  | temperatureSample (tj : BitVec 16)
  /-- VIN12_RETURN (R541): VIN_12 above 10.8 V runs the compute-die start-up with fast training and logs RESET. -/
  | vin12Return (train : Fin 25) (bad : List Nat)
  /-- JTAG_INSTRUCTION_LOAD (R549): An instruction loaded into the TAP takes effect, with EXTEST replaced by BYPASS outside RESET or FAILED. -/
  | jtagInstructionLoad (i : Fin 5)
  /-- MRST_N_RELEASE (R540): The carrier releases MRST_N and the module reset's start-up sequence begins. -/
  | mrstNRelease (train : Fin 25) (b : BootFinds)
  /-- LINK_DOWN (R426): A ring port link goes down, clearing LINK and SPD until the link trains again. -/
  | linkDown (p : Fin 2)
  /-- VIN_PCLK_RETURN (R369): The next PCLK edge after a loss sets VIN.PORT.STATUS.CLK again. -/
  | vinPclkReturn (p : Fin 4)
  /-- SEGMENT_TIMEOUT (R438): A segmented transfer with no segment for 1 s is abandoned, counted and logged. -/
  | segmentTimeout
  /-- PERSISTENT_COMMIT_DONE (R447): A persistent record is committed in both copies and the reply is sent. -/
  | persistentCommitDone
  /-- LIGHTHOUSE_WATCHDOG_EXPIRY (R474): The lighthouse watchdog restarts the lighthouse core alone, deferred past any flash operation. -/
  | lighthouseWatchdogExpiry
  /-- LIGHTHOUSE_CONFIRM (R485): A running lighthouse image writes CONFIRMED within 2 s and the rollback counter is raised. -/
  | lighthouseConfirm
  /-- UPD_START (R488): The inactive lighthouse slot is erased for an update. -/
  | updStart
  /-- UPD_COMMIT (R488): The inactive slot is checked and a TRIAL option record is written. -/
  | updCommit
  /-- UPD_ABORT (R488): The update is abandoned and the record in force is unchanged. -/
  | updAbort
  /-- UPD_ACTIVATE (R488): A lighthouse restart is requested so the new image runs. -/
  | updActivate
  /-- RECOVERY_COMMIT (R489): SMBus command 0x21 commits the recovery image. -/
  | recoveryCommit
  /-- RECOVERY_STATUS (R489): SMBus command 0x22 returns the recovery status byte. -/
  | recoveryStatus
  /-- PROT_RAISE (R492): A write of object 0x1006 raises the protection level by option record, and by fuse for level 2. -/
  | protRaise
  /-- SEC_ROLLBACK_WRITE (R487): A write of object 0x1008 raises the compute rollback counter, or is refused. -/
  | secRollbackWrite
  /-- KEY_IMPORT (R494): A key is unwrapped and stored in the key store, or refused. -/
  | keyImport
  /-- KEY_DELETE (R494): A key store entry is deleted, unless a stored model names it. -/
  | keyDelete
  /-- KEY_LIST (R494): The key store entries are listed with their check values. -/
  | keyList
  /-- FQ_POP (R517): The host core removes the oldest fault record and updates the station records. -/
  | fqPop
  /-- LOG_TOKEN (R515): Every 2 s the token bucket gains a token and buffered entries are written to the log array. -/
  | logToken
  /-- VIN12_LOSS (R541): VIN_12 below 10.5 V for 200 us bypasses the causeway and powers the compute die off. -/
  | vin12Loss
  /-- STANDBY_LOSS (R542): 3V3_SB below 2.9 V removes power from both dies and the causeway goes to bypass. -/
  | standbyLoss
  /-- SYNC_VALID_LOSS (R35): TIME.SYNC.VALID falls when the time source is lost, LOCK becomes HOLDOVER and LOCK_LOST is set. -/
  | syncValidLoss
deriving DecidableEq, Repr

end Sys2Proof
end

