-- ==== Sys2Proof/Machine/State.lean ====
section
/-! DEFINITION. The state of the module, the reasons a command can stop, and the state right after reset. -/

namespace Sys2Proof.Machine

/-- No command of this block ends in a fault: an error of the hardware is an effect on the state (a status code, an
error flag, a fault record), never a stop of the machine. -/
inductive Fault where
deriving DecidableEq, Repr

/-- Why a command has no meaning. -/
inductive Refusal where
  /-- Raised by the dispatcher for a command whose meaning the model does not give: safe, nothing is claimed of it. -/
  | notModelled (mnemonic : String)
deriving DecidableEq, Repr

/-- The module: every register field off its reset value (`regs`), every memory, and the structures of each chapter. -/
structure State where
  /-- Register fields, keyed by `Fld.key`; an unlisted field has its reset value. -/
  regs : KMap Nat := []
  /-- The memories of the internal address space (R23): station memories, terrace stores, board DRAM. Unlisted: 0. -/
  mem : KMap Byte := []
  /-- Host memory, the environment's, as the module's DMA and loader reach it. Unlisted: 0. -/
  hostMem : KMap Byte := []
  /-- Words in error, keyed by internal address / 8: 1 a single-bit error, 2 an uncorrectable word or poison mark. The
  cells' own upsets reach the model as operands of the commands that find them. -/
  ecc : KMap Nat := []
  /-- Stations, keyed 17 t + p, and terraces. -/
  stns : KMap Stn := []
  ters : KMap Ter := []
  fac : Factory := {}
  bus : Bus := {}
  tide : Tide := {}
  integ : Integ := {}
  log : LogSt := {}
  life : Life := {}
  dict : Dict := {}
  ef : Eflash := {}
  pins : Pins := {}
  fw : Fw := {}
  dram : DramSt := {}
  nand : NandSt := {}
  pool : Pool := {}
  dma : DmaSt := {}
  vin : Vin := {}
  aud : Aud := {}
  ring : Ring := {}
  /-- Attention units, keyed by terrace, and the page store. -/
  atts : KMap Att := []
  ps : Ps := {}
  /-- The loader, the gatehouse and capture training. -/
  loader : Loader := {}
  /-- The control die's clock in ns, from the power-on reset. -/
  uptime : Nat := 0
  /-- Observations: what the module put out, newest first. -/
  out : List Out := []
  /-- The completion of the last bus request. -/
  reply : Reply := .none
  /-- The model's own counter of free values used so far. -/
  freeCtr : Nat := 0
  /-- The commands that wait, first in, first out. -/
  pending : List Instr := []
deriving DecidableEq, Repr

/-- The module right after reset: every setting at its reset value, the supplies good and both dies out of reset. -/
def State.reset : State := {}

/-- What a command answers. -/
abbrev Res := Host.Outcome State Fault Refusal

end Sys2Proof.Machine
end

