-- ==== Sys2Proof/Machine/Ops.lean ====
section
/-! DEFINITION. The named operations on registers and memories, and the services every chapter uses: stamps, interrupts,
events, completions, the lifetime log and counters, fault records. -/

namespace Sys2Proof.Machine

/-- The value of a register field. -/
def State.rg (s : State) (f : Fld) : Nat := s.regs.get f.key f.rst % 2 ^ f.w

/-- The state with `v` in a register field, cut to its width. -/
def State.wr (s : State) (f : Fld) (v : Nat) : State :=
  { s with regs := s.regs.set f.key (v % 2 ^ f.w) f.rst }

/-- A one-bit field read as a truth value. -/
def State.on (s : State) (f : Fld) : Bool := s.rg f == 1

/-- Several fields written in order. -/
def State.wrs (s : State) (l : List (Fld × Nat)) : State := l.foldl (fun s p => s.wr p.1 p.2) s

/-- A counter raised by `n`; it wraps at its width (R7, R512). -/
def State.bump (s : State) (f : Fld) (n : Nat := 1) : State := s.wr f (s.rg f + n)

/-- The share of field `f`, holding `v`, in the 32-bit word at `off`. -/
def Fld.part (f : Fld) (off v : Nat) : Nat :=
  if f.off = off then (v * 2 ^ f.lo) % 2 ^ 32 else v * 2 ^ f.lo / 2 ^ 32 % 2 ^ 32

/-- The plain register word at a BAR0 offset, from its fields; write-only fields read 0 (R9). -/
def State.word (s : State) (off : Nat) : Nat :=
  (fieldsAt off).foldl (fun a f => a + (if f.acc = .wo then 0 else f.part off (s.rg f))) 0

/-- `n` bytes of the internal memories from address `a`. -/
def State.ld (s : State) (a n : Nat) : List Byte := s.mem.bytes a n

/-- A little-endian number of `n` bytes of the internal memories. -/
def State.ldN (s : State) (a n : Nat) : Nat := leNat (s.ld a n)

/-- A byte string stored in the internal memories from address `a`. -/
def State.st (s : State) (a : Nat) (l : List Byte) : State := { s with mem := s.mem.store a l }

/-- A little-endian number stored in `n` bytes. -/
def State.stN (s : State) (a n v : Nat) : State := s.st a (natLE n v)

/-- Bytes of host memory. -/
def State.hostLd (s : State) (a n : Nat) : List Byte := s.hostMem.bytes a n

/-- Bytes written to host memory, and seen there. -/
def State.hostSt (s : State) (a : Nat) (l : List Byte) : State :=
  { s with hostMem := s.hostMem.store a l, out := .hostWrite a l :: s.out }

/-- Base of board DRAM in the internal address space (R23). -/
def dramBase : Nat := 0x1000000000

/-- Bytes of board DRAM on the variant (R4, R23). -/
def State.dramSize (s : State) : Nat := if s.fac.variant = 1 then 48 * 2 ^ 30 else 96 * 2 ^ 30

/-- Bytes at a 64-bit address word whose bit 63 names host memory, as PADDR (R464). -/
def State.ldSpace (s : State) (paddr n : Nat) : List Byte :=
  if bit paddr 63 then s.hostLd (paddr % 2 ^ 63) n else s.ld paddr n

/-- Adds an observation. -/
def State.emit (s : State) (o : Out) : State := { s with out := o :: s.out }

/-- A fresh open value (an opaque constant applied to the counter), and the counter advanced. -/
def State.free (s : State) : Nat × State := (Config.freeNat s.freeCtr, { s with freeCtr := s.freeCtr + 1 })

/-- Ring index of the module for stamps (R45). -/
def State.moduleIndex (s : State) : Nat :=
  if s.rg RING_INDEX_INDEX ≤ 15 then s.rg RING_INDEX_INDEX else 0xFF

/-- The tide stamp of now (R45). -/
def State.stamp (s : State) : Stamp :=
  { time := s.rg TIME_NOW, tide := s.rg TIDE_NUM, module := s.moduleIndex,
    flags := s.rg TIME_SYNC_VALID + 2 * s.rg TIDE_STATUS_ALIGNED + 4 * b2n (s.rg TIDE_STATUS_LOCK == 3) }

/-- The 16 bytes of a stamp (R45). -/
def Stamp.bytes (t : Stamp) : List Byte :=
  natLE 8 t.time ++ natLE 6 t.tide ++ natLE 1 t.module ++ natLE 1 t.flags

/-- Raises an MSI-X vector of R468; a masked one sets its pending bit. -/
def State.raise (s : State) (v : Nat) : State :=
  if 13 ≤ v ∧ v ≤ 15 ∨ 32 ≤ v then s
  else if bit (s.fw.msix.get (4 * v + 3) 1) 0 then
    (if bit s.fw.pba v then s else { s with fw := { s.fw with pba := s.fw.pba + 2 ^ v } })
  else s.emit (.msix v)

/-- Sets an event bit and raises its block's vector when the bit is enabled. -/
def State.flag (s : State) (ev en : Fld) (vector : Nat) : State :=
  let s := s.wr ev 1
  if s.on en then s.raise vector else s

/-- Whether an event ring of `2 ^ SIZE` entries is full: one entry stays free (R467, as for R463). -/
def State.evFull (s : State) : Bool :=
  let n := 2 ^ s.rg HRING_EV_CTRL_SIZE
  (s.rg HRING_EV_DB_TAIL + 1) % n == s.rg HRING_EV_DB_HEAD % n

/-- Posts an event (R467): written to the ring, or dropped and counted; ESEQ rises either way. -/
def State.postEvent (s : State) (code src arg : Nat) (data : List Byte := []) (stamp : Option (List Byte) := none) : State :=
  let seq := s.fw.eseq
  let s1 := { s with fw := { s.fw with eseq := (seq + 1) % 2 ^ 32 } }
  if !s.on HRING_EV_CTRL_EN || s.evFull then
    ({ s1 with fw := { s1.fw with evLost := true } }).bump HRING_EV_LOST
  else
    let tail := s.rg HRING_EV_DB_TAIL
    let e := natLE 2 code ++ natLE 1 src ++ natLE 1 (b2n s.fw.evLost) ++ natLE 4 seq ++ natLE 8 arg ++
      fitTo 32 data ++ stamp.getD s.stamp.bytes
    let s2 := { s1 with fw := { s1.fw with evLost := false } }
    let s3 := (s2.st (s.rg HRING_EV_BASE_ADDR + 64 * tail) e).wr HRING_EV_DB_TAIL
      ((tail + 1) % 2 ^ s.rg HRING_EV_CTRL_SIZE)
    if s.on HRING_EV_CTRL_IEN then s3.raise 0 else s3

/-- Records a lifetime count or bin without logging (index as the SAT bit of R515, key in its table). -/
def Life.add (l : Life) (satBit key n : Nat) (bin : Bool) : Life × Bool :=
  let old := if bin then l.bins.get key 0 else l.counts.get key 0
  let new := min (old + n) 0xFFFFFFFF
  let l := if bin then { l with bins := l.bins.set key new 0 } else { l with counts := l.counts.set key new 0 }
  if new = 0xFFFFFFFF ∧ ¬ bit l.sat satBit then ({ l with sat := l.sat + 2 ^ satBit }, true) else (l, false)

/-- Object index of SAT bit `i` (R512, R515). -/
def satObject (i : Nat) : Nat := if i < 21 then 0xA000 + i else 0xA100 + (i - 21)

/-- Takes a log entry into the always-on buffer: merged, buffered or dropped and counted (R515). -/
def State.logEntry (s : State) (code src wher arg : Nat) (status : Nat := 0) : State :=
  let same (e : LogEnt) : Bool := e.code == code && e.src == src && e.wher == wher && e.status == status && e.arg == arg
  if s.log.buf.any same then
    { s with log := { s.log with
      buf := s.log.buf.map fun e => if same e then { e with count := min (e.count + 1) 0xFFFF } else e } }
  else if 256 ≤ s.log.buf.length then
    let r := s.life.add 20 20 1 false
    let s := { s with log := { s.log with dropped := s.log.dropped + 1 }, life := r.1 }
    if r.2 then s.postEvent 0x0061 5 (satObject 20) else s
  else
    { s with log := { s.log with
      nextSeq := s.log.nextSeq + 1
      buf := s.log.buf ++ [{ stamp := s.stamp, seq := s.log.nextSeq, code := code, status := status, src := src,
                             wher := wher, arg := arg }] } }

/-- Raises a lifetime counter (R512, by its number in the table of R513); the first saturation is logged and posted. -/
def State.count (s : State) (i : Nat) (n : Nat := 1) : State :=
  let r := s.life.add i i n false
  let s := { s with life := r.1 }
  if r.2 then (s.logEntry 0x0013 5 0xFFFF (satObject i)).postEvent 0x0061 5 (satObject i) else s

/-- First bin of histogram `h` in the part order of R515. -/
def histBase (h : Nat) : Nat := 16 * h

/-- Adds a sample to bin `b` of histogram `h` (R512, R514). -/
def State.sample (s : State) (h b : Nat) : State :=
  let r := s.life.add (21 + h) (histBase h + b) 1 true
  let s := { s with life := r.1 }
  if r.2 then (s.logEntry 0x0013 5 0xFFFF (satObject (21 + h))).postEvent 0x0061 5 (satObject (21 + h)) else s

/-- The WHERE field of a log entry about a station (R515). -/
def stnWhere (t p : Nat) : Nat := t * 256 + p

/-- Posts a fault record, or drops it when the queue of 64 is full (R517). -/
def State.postFault (s : State) (r : FaultRec) : State :=
  let s := s.bump INT_FAULTS
  if s.integ.fq.length < 64 then
    let s := { s with integ := { s.integ with fq := s.integ.fq ++ [r] } }
    (s.wr INT_FQ_STAT_FILL s.integ.fq.length).flag INT_EVENT_FAULT INT_EVENT_EN_FAULT 11
  else
    ((s.bump INT_FQ_DROP).wr INT_FQ_STAT_LOST 1).flag INT_EVENT_FQ_LOST INT_EVENT_EN_FQ_LOST 11

/-- An address error of R23: counted, and the block's event set (R517). -/
def State.addrError (s : State) : State :=
  (s.bump INT_ADDR_ERR).flag INT_EVENT_ACCESS INT_EVENT_EN_ACCESS 11

/-- Whether queue pair `q`'s completion queue has a place that is neither used nor reserved (R463). -/
def State.cqFree (s : State) (q : Nat) : Bool :=
  let st := s.fw.queues.get q {}
  decide (st.held.length + st.reserved < 2 ^ s.rg (HRING_Q_CTRL_CQSIZE q) - 1)

/-- Writes one completion into an open queue's ring, advances TAIL and raises the vector (R464). -/
def State.cqWrite (s : State) (q : Nat) (e : List Byte) : State :=
  let tail := s.rg (HRING_Q_CQDB_TAIL q)
  let s := (s.st (s.rg (HRING_Q_CQB_ADDR q) + 64 * tail) (fitTo 64 e)).wr (HRING_Q_CQDB_TAIL q)
    ((tail + 1) % 2 ^ s.rg (HRING_Q_CTRL_CQSIZE q))
  if s.on (HRING_Q_CTRL_IEN q) then s.raise (1 + q) else s

/-- Completes an entry of queue `q`: the completion is held until host software consumes it, uses the reserved place,
and is written at once while the queue is open (R464). -/
def State.complete (s : State) (q : Nat) (e : List Byte) : State :=
  let st := s.fw.queues.get q {}
  let st := { st with held := st.held ++ [fitTo 64 e], reserved := st.reserved - 1 }
  let s := { s with fw := { s.fw with queues := s.fw.queues.set q st {} } }
  if s.on (HRING_Q_CTRL_EN q) then s.cqWrite q e else s

/-- The 64 bytes of a command completion (R464). -/
def State.cmdCompletion (s : State) (op status handle value tag layer : Nat) : List Byte :=
  natLE 1 op ++ natLE 1 status ++ natLE 2 0 ++ natLE 4 handle ++ natLE 8 value ++ natLE 8 tag ++ natLE 2 layer ++
    zeros 22 ++ s.stamp.bytes

/-- Status codes (R11). -/
def stOk : Nat := 0x00
def stFallback : Nat := 0x01
def stNotPersisted : Nat := 0x02
def stRefusedMemory : Nat := 0x10
def stRefusedTime : Nat := 0x11
def stRefusedVersion : Nat := 0x12
def stRefusedProtection : Nat := 0x13
def stCancelled : Nat := 0x20
def stWindowClosed : Nat := 0x21
def stStaleAdapter : Nat := 0x22
def stUncorrectable : Nat := 0x30
def stPoisoned : Nat := 0x31
def stScaleSkew : Nat := 0x32
def stStarved : Nat := 0x33
def stOverrun : Nat := 0x34
def stChecksum : Nat := 0x35
def stBadDescriptor : Nat := 0x40
def stBadPackage : Nat := 0x41
def stBlockSize : Nat := 0x42
def stStoreWorn : Nat := 0x50
def stTimeout : Nat := 0x51
def stHostLost : Nat := 0x52

/-- Logs a first-of-many register log: sets VALID and the fields `l`, or MULTI when VALID is already 1. -/
def State.firstLog (s : State) (valid multi : Fld) (l : List (Fld × Nat)) : State :=
  if s.on valid then s.wr multi 1 else (s.wr valid 1).wrs l

/-- Base of station `p` of terrace `t` in the loader and debug view (R23). -/
def stnMem (t p : Nat) : Nat := t * 0x2000000 + p * 0x100000

/-- Offset of a station memory within its window: 0 weight, 1 activation, 2 partial-sum, 3 program (R24). -/
def memOff (m : Nat) : Nat := if m = 0 then 0 else if m = 1 then 0x80000 else if m = 2 then 0xC0000 else 0xF0000

/-- Rows of a station memory (R116). -/
def memRows (m : Nat) : Nat := if m = 0 then 1024 else if m = 1 then 512 else if m = 2 then 384 else 128

/-- Address of a row of a station memory. -/
def rowAddr (t p m row : Nat) : Nat := stnMem t p + memOff m + 512 * row

/-- Address of a row of a terrace store (R23). -/
def tsAddr (t row : Nat) : Nat := 0x100000000 + t * 0x200000 + 512 * row

/-- The code array is programmed or erased: the prefetch buffer and the branch cache are invalidated (R477). -/
def State.codeWritten (s : State) : State := { s with ef := { s.ef with prefetch := [], branch := [] } }

end Sys2Proof.Machine
end

