-- ==== Sys2Proof/Machine/Tide.lean ====
section
/-! DEFINITION. The tide generator and device time (chapter 2): periods and budgets, staging and applying settings, the
word clock, gPTP and PPS, and the part of a boundary that belongs to the generator. -/

namespace Sys2Proof.Machine

/-- The settings of the generator (R56). -/
structure TideCfg where
  src : Nat
  rate : Nat
  slack : Nat
  period : Nat
  origin : Nat
deriving DecidableEq, Repr

/-- The settings in the registers: staged while tides run, in force otherwise (R56). -/
def State.staged (s : State) : TideCfg :=
  ⟨s.rg TIDE_CTRL_SRC, s.rg TIDE_CTRL_RATE, s.rg TIDE_CTRL_SLACK, s.rg TIDE_PERIOD_PERIOD, s.rg TIME_ORIGIN⟩

/-- The settings in force (`TIDE.ACTIVE`). -/
def State.active (s : State) : TideCfg :=
  ⟨s.rg TIDE_ACTIVE_SRC, s.rg TIDE_ACTIVE_RATE, s.rg TIDE_ACTIVE_SLACK, s.rg TIDE_ACTIVE_PERIOD, s.tide.origin⟩

/-- Sample rate in Hz of a RATE code. -/
def rateHz (r : Nat) : Nat := if r = 0 then 48000 else if r = 1 then 96000 else 192000

/-- Samples of a tide, 0 where the tide is not counted in samples. -/
def TideCfg.samples (c : TideCfg) : Nat := if c.src = 0 then 0 else c.period

/-- The nominal period in ns as a fraction: numerator and denominator (R32, R35). -/
def TideCfg.pNum (c : TideCfg) : Nat := if c.src = 0 then c.period * 1000 else c.period * 1000000000
def TideCfg.pDen (c : TideCfg) : Nat := if c.src = 0 then 1 else rateHz c.rate

/-- The legal period and rate combinations (R32). -/
def TideCfg.legal (c : TideCfg) : Bool :=
  if c.src = 0 then decide (63 ≤ c.period ∧ c.period ≤ 4000)
  else if c.src = 1 ∨ c.src = 2 then
    (if c.rate = 0 then decide (3 ≤ c.period ∧ c.period ≤ 192)
     else if c.rate = 1 then decide (6 ≤ c.period ∧ c.period ≤ 384)
     else if c.rate = 2 then decide (12 ≤ c.period ∧ c.period ≤ 768) else false)
  else false

/-- Station clock as a fraction of cycles per ns: 1.25 GHz or 0.90 GHz (R17, `PWR.STATUS.OP`). -/
def State.clkNum (s : State) : Nat := if s.rg PWR_STATUS_OP = 1 then 9 else 5
def State.clkDen (s : State) : Nat := if s.rg PWR_STATUS_OP = 1 then 10 else 4

/-- B = floor(P f (100 - S) / 100) (R47). -/
def State.budgetOf (s : State) (c : TideCfg) : Nat :=
  c.pNum * s.clkNum * (100 - c.slack) / (c.pDen * s.clkDen * 100)

/-- T_min = floor(P f 0.999) (R47). -/
def State.tminOf (s : State) (c : TideCfg) : Nat :=
  c.pNum * s.clkNum * 999 / (c.pDen * s.clkDen * 1000)

/-- The terrace's reserve is used up: in permanent takeover, or fenced (R249, R504). -/
def State.thin (s : State) (t : Nat) : Bool :=
  s.rg (TAKE_STATUS_PHASE t) == 3 || bit (s.rg (INT_STN_FENCED t)) 16

/-- Terrace `t`'s gatehouse budget brought up to date (R249). -/
def State.rederiveGb (s : State) (t : Nat) : State :=
  let thin := if s.thin t then s.rg GH_CTRL_THIN_PCT else 100
  let hot := if s.on GH_CTRL_HOT then s.rg GH_CTRL_SHED_PCT else 100
  (s.wr (GH_TB_THIN t) (b2n (s.thin t))).wr (GH_TB_BUDGET t) (s.rg TIDE_BUDGET_B * thin * hot / 10000)

/-- Byte share of a tide at `pct` percent of 368.6 GB/s (R250, R317). -/
def TideCfg.shareBytes (c : TideCfg) (pct : Nat) : Nat := pct * 3686 * c.pNum / (1000 * c.pDen)

/-- Tile frames that fit a link direction's gate: link speed code 1 is 10 Gb/s, 2 is 25 Gb/s (R410, R411). -/
def State.capOf (s : State) (spd : Nat) : Nat :=
  let c := s.active
  let gate := s.rg RING_CTRL_TILE_PCT * (c.pNum / c.pDen) / 100
  if spd = 2 then gate * 100 / 35456 else if spd = 1 then gate * 10 / 8864 else 0

/-- The capacity shown in `RING.STATUS.CAP`: that of the slower link that is up. -/
def State.capNow (s : State) : Nat :=
  let a := s.rg RING_STATUS_SPD_A
  let b := s.rg RING_STATUS_SPD_B
  s.capOf (if a = 0 then b else if b = 0 then a else min a b)

/-- Every register that follows the applied settings, the operating point, the shares and the thin terraces: B and T_min
(R47), gatehouse budgets (R249), byte shares (R250, R317), ring capacity (R411). -/
def State.rederive (s : State) : State :=
  let c := s.active
  let s := (s.wr TIDE_BUDGET_B (s.budgetOf c)).wr TIDE_TMIN_T_MIN (s.tminOf c)
  let s := (List.range 12).foldl State.rederiveGb s
  let s := (s.wr GH_SHARE_BYTES (c.shareBytes (s.rg GH_CTRL_DRAM_SHARE))).wr TIER_WLIMIT
    (c.shareBytes (s.rg TIER_CTRL_WSHARE))
  s.wr RING_STATUS_CAP s.capNow

/-- Settings take effect. -/
def State.takeCfg (s : State) (c : TideCfg) : State :=
  let s := s.wrs [(TIDE_ACTIVE_SRC, c.src), (TIDE_ACTIVE_RATE, c.rate), (TIDE_ACTIVE_SLACK, c.slack),
    (TIDE_ACTIVE_PERIOD, c.period)]
  ({ s with tide := { s.tide with origin := c.origin } }).rederive

/-- The staged settings take effect (R56). -/
def State.takeStaged (s : State) : State := s.takeCfg s.staged

/-- Tides run, or RUN asks for them. -/
def State.staging (s : State) : Bool := s.tide.running || s.on TIDE_CTRL_RUN

/-- The settings `c` with the one that register field `f` holds taken from `n`. -/
def TideCfg.only (c : TideCfg) (f : Fld) (n : TideCfg) : TideCfg where
  src := if f.key = TIDE_CTRL_SRC.key then n.src else c.src
  rate := if f.key = TIDE_CTRL_RATE.key then n.rate else c.rate
  slack := if f.key = TIDE_CTRL_SLACK.key then n.slack else c.slack
  period := if f.key = TIDE_PERIOD_PERIOD.key then n.period else c.period
  origin := if f.key = TIME_ORIGIN.key then n.origin else c.origin

/-- A TIDE event bit, and vector 10 when enabled (R59, R468). -/
def State.tideEvent (s : State) (ev en : Fld) : State := s.flag ev en 10

/-- A refused apply (R56, R57). -/
def State.refuseApply (s : State) (cause : Nat) : State :=
  ((s.wr TIDE_APPLY_HI_REFUSED 1).wr TIDE_APPLY_HI_CAUSE cause).tideEvent TIDE_EVENT_APPLY_REFUSED
    TIDE_EVENT_EN_APPLY_REFUSED

/-- LOCK on entering a source: the word clock is acquired afresh (R34), gPTP by VALID (R35), FREE runs free. -/
def State.enterSource (s : State) : State :=
  let src := s.rg TIDE_ACTIVE_SRC
  if src = 1 then
    ({ s with tide := { s.tide with good := 0, bad := 0, lastEdge := none, intervals := [], cand := [],
                                    frameCount := none, frameEdge := none } }).wr TIDE_STATUS_LOCK 1
  else if src = 2 then
    s.wr TIDE_STATUS_LOCK (if s.on TIME_SYNC_VALID then 2 else if s.tide.everValid then 3 else 1)
  else s.wr TIDE_STATUS_LOCK 4

/-- A setting written: kept when reserved (R8), staged while RUN is 1, in force at once while RUN is 0 (R56). In the tide
in which the generator still stops, only the setting written takes effect; DESIGN CHOICE: a change of the source, or of the
rate of the word clock, then enters the source afresh, since the boundary that is to come is the new source's. -/
def State.setTide (s : State) (f : Fld) (v : Nat) : State :=
  let s' := s.wr f (f.take (s.rg f) v)
  if s.on TIDE_CTRL_RUN then s'
  else if s.tide.running then
    let old := s.active
    let t := s'.takeCfg (old.only f s'.staged)
    if t.active.src ≠ old.src ∨ t.active.src = 1 ∧ t.active.rate ≠ old.rate then t.enterSource else t
  else s'.takeStaged

/-- RUN set with the settings in force: refused when they break R32 (R56), otherwise the generator starts (R34, R35).
DESIGN CHOICE (the spec does not say): RUN set again between its clearing and the boundary at which the generator would
stop lets the tides go on without a stop, and what is staged stays staged. -/
def State.runSet (s : State) : State :=
  if s.on TIDE_CTRL_RUN then s
  else if ¬ s.active.legal then s.refuseApply 1
  else if s.tide.running then s.wr TIDE_CTRL_RUN 1
  else
    let s := s.wr TIDE_CTRL_RUN 1
    ({ s with tide := { s.tide with numbered := false, rephase := false, applied := false, mute := 0,
                                    everValid := s.on TIME_SYNC_VALID } }).enterSource

/-- RUN cleared: the generator stops at the next boundary, or at once when no tide has begun (R56, R59). -/
def State.runClear (s : State) : State :=
  let s := s.wr TIDE_CTRL_RUN 0
  if s.tide.running then s
  else (({ s with tide := { s.tide with frameCount := none, frameEdge := none, good := 0, lastEdge := none } }).wr
    TIDE_STATUS_LOCK 0).takeStaged.wr TIDE_APPLY_HI_PEND 0

/-- The fields of a `TIDE.CTRL` word other than RUN. -/
def State.tideCtrlFields (s : State) (w : Nat) : State :=
  let s := ((s.setTide TIDE_CTRL_SLACK (bits w 24 6)).setTide TIDE_CTRL_RATE (bits w 20 2)).setTide TIDE_CTRL_SRC
    (bits w 16 2)
  s.wrs [(TIDE_CTRL_PPS_OUT_EN, bits w 3 1), (TIDE_CTRL_TICK_EN, bits w 2 1), (TIDE_CTRL_WCLK_OUT_EN, bits w 1 1)]

/-- A write of `TIDE.CTRL` (R56). -/
def State.tideCtrlWrite (s : State) (w : Nat) : State :=
  let s := s.tideCtrlFields w
  if bit w 0 then s.runSet else if s.on TIDE_CTRL_RUN then s.runClear else s

/-- A write of `TIDE.APPLY_HI`, with the low word that takes effect with it (R7, R56). -/
def State.applyWrite (s : State) (lo hi : Nat) : State :=
  if bit hi 31 then
    if s.on TIDE_CTRL_RUN then
      let s := if bit hi 29 then s.wr TIDE_APPLY_HI_REFUSED 0 else s
      s.wrs [(TIDE_APPLY_LO_TIDE_LO, lo), (TIDE_APPLY_HI_TIDE_HI, hi), (TIDE_APPLY_HI_PEND, 1)]
    else s
  else
    let s := if bit hi 29 then s.wr TIDE_APPLY_HI_REFUSED 0 else s
    s.wrs [(TIDE_APPLY_LO_TIDE_LO, lo), (TIDE_APPLY_HI_TIDE_HI, hi), (TIDE_APPLY_HI_PEND, 0)]

/-- The target tide of an armed apply. -/
def State.applyTarget (s : State) : Nat := s.rg TIDE_APPLY_HI_TIDE_HI * 2 ^ 32 + s.rg TIDE_APPLY_LO_TIDE_LO

/-- Device time set, on the present scale. -/
def State.setNow (s : State) (t : Int) : State := s.wr TIME_NOW t.toNat

/-- Rising edges of the sample clock derived from device time as it runs from `a` to `b` (R38). DESIGN CHOICE: edge j lies
at device time j / F, rounded up to a whole ns; the spec gives the clock no phase. -/
def clockEdges (hz a b : Nat) : Nat := b * hz / 1000000000 - a * hz / 1000000000

/-- Device time runs on to `t`; WCLK_OUT carries the clock derived from it in GPTP and FREE mode (R38). -/
def State.runTo (s : State) (t : Nat) : State :=
  let n := clockEdges (rateHz (s.rg TIDE_ACTIVE_RATE)) (s.rg TIME_NOW) t
  let s' := s.wr TIME_NOW t
  if s.on TIDE_CTRL_WCLK_OUT_EN ∧ s.rg TIDE_ACTIVE_SRC ≠ 1 ∧ 0 < n then s'.emit (.wclkOuts n) else s'

/-- Device time that passes in `dt` ns of the module's oscillator under the rate correction in force, at most 500 ppm
(R39, R40), in units of 10⁻⁹ ns and with what was owed. -/
def State.owed (s : State) (dt : Nat) : Nat := s.tide.frac + dt * (1000000000 + s.tide.rate).toNat

/-- Time passes: `dt` ns of the module's oscillator, which the control die counts, and the device time they give (R40). -/
def State.pass (s : State) (dt : Nat) : State :=
  ({ s with uptime := s.uptime + dt, tide := { s.tide with frac := s.owed dt % 1000000000 } } : State).runTo
    (s.rg TIME_NOW + s.owed dt / 1000000000)

/-- The scheduled boundary `k` in GPTP and FREE mode (R35). -/
def TideCfg.sched (c : TideCfg) (k : Int) : Int := (c.origin : Int) + k * (c.pNum : Int) / (c.pDen : Int)

/-- The first schedule index whose boundary lies at `t` or later. -/
def TideCfg.firstAt (c : TideCfg) (t : Int) : Int :=
  if c.pNum = 0 then 0
  else
    let k := (t - (c.origin : Int)) * (c.pDen : Int) / (c.pNum : Int)
    if t ≤ c.sched k then k else if t ≤ c.sched (k + 1) then k + 1 else k + 2

/-- The nominal period in whole ns, rounded up. -/
def TideCfg.pCeil (c : TideCfg) : Nat := ceilDiv c.pNum c.pDen

/-- A re-phase begins: the current tide is lengthened (R37). -/
def State.beginRephase (s : State) : State :=
  if s.tide.rephase then s
  else (({ s with tide := { s.tide with rephase := true, mute := 3 } }).wr TIDE_STATUS_REPHASING 1).tideEvent
    TIDE_EVENT_REPHASE TIDE_EVENT_EN_REPHASE

/-- Steps device time by `d` ns and sets TIME_STEP (R40); in GPTP and FREE mode a scheduled boundary moved by more than
0.064 P re-phases (R35, R37). -/
def State.stepTime (s : State) (d : Int) : State :=
  let s := s.setNow ((s.rg TIME_NOW : Int) + d)
  let mv := fun (e : Int) => e + d
  let s := { s with tide := { s.tide with start := s.tide.start + d, lastEdge := s.tide.lastEdge.map mv,
                                          frameEdge := s.tide.frameEdge.map mv } }
  let s := s.tideEvent TIDE_EVENT_TIME_STEP TIDE_EVENT_EN_TIME_STEP
  let c := s.active
  if s.tide.running ∧ c.src ≠ 1 ∧ s.tide.numbered then
    let due : Int := s.tide.start * (c.pDen : Int) + (c.pNum : Int)
    let off := (c.sched (s.tide.k + 1) * (c.pDen : Int) - due).natAbs
    if off * 1000 > 64 * c.pNum then s.beginRephase else s
  else s

/-- The time source gives an offset and a bound: a step at the first lock or above STEP_LIMIT, otherwise a rate
correction of at most 500 ppm, in parts per 10⁹, at which device time runs from then on (R40, R41). Its law the spec leaves
open: a free value. -/
def State.steer (s : State) (offset : Int) (bound : Nat) : State :=
  let s :=
    if s.tide.locked = false ∨ offset.natAbs > 1000 * s.rg TIME_CTRL_STEP_LIMIT then s.stepTime offset
    else
      let r := s.free
      { r.2 with tide := { r.2.tide with rate := (r.1 % 1000001 : Nat) - 500000 } }
  let s := { s with tide := { s.tide with locked := true } }
  let s := (s.wr TIME_SYNC_VALID 1).wr TIME_SYNC_BOUND bound
  if s.staging then
    let s := { s with tide := { s.tide with everValid := true } }
    if s.rg TIDE_ACTIVE_SRC = 2 ∧ s.rg TIDE_STATUS_LOCK ≠ 2 then
      (s.wr TIDE_STATUS_LOCK 2).tideEvent TIDE_EVENT_LOCK_GAINED TIDE_EVENT_EN_LOCK_GAINED
    else s
  else s

/-- `TIME.SYNC.VALID` falls (R35). -/
def State.syncLost (s : State) : State :=
  if s.on TIME_SYNC_VALID then
    let s := (s.wr TIME_SYNC_VALID 0).wr TIME_SYNC_BOUND 0xFFFF
    if s.staging ∧ s.rg TIDE_ACTIVE_SRC = 2 then
      (s.wr TIDE_STATUS_LOCK 3).tideEvent TIDE_EVENT_LOCK_LOST TIDE_EVENT_EN_LOCK_LOST
    else s
  else s

/-- WCLK_IN is lost: holdover, and a fresh count (R34). -/
def State.wclkLost (s : State) : State :=
  (({ s with tide := { s.tide with good := 0, bad := 0, lastEdge := none, frameCount := none, cand := [] } }).wr
    TIDE_STATUS_LOCK 3).tideEvent TIDE_EVENT_LOCK_LOST TIDE_EVENT_EN_LOCK_LOST

/-- WCLK_IN is accepted after 64 consecutive good edges, whose intervals are then the accepted ones; after holdover the
generator re-phases (R34, R37). -/
def State.wclkAccepted (s : State) : State :=
  let hold := s.rg TIDE_STATUS_LOCK == 3
  let s := (({ s with tide := { s.tide with bad := 0, frameCount := none, intervals := s.tide.cand } }).wr TIDE_STATUS_LOCK 2).tideEvent
    TIDE_EVENT_LOCK_GAINED TIDE_EVENT_EN_LOCK_GAINED
  if hold && s.tide.running then s.beginRephase else s

/-- Whether an edge interval of `d` ns lies within 1 000 ppm of the nominal sample period (R34). -/
def wclkGood (hz : Nat) (d : Int) : Bool := decide ((d * (hz : Int) - 1000000000).natAbs * 1000 ≤ 1000000000)

/-- Whether edge `e` is the one nearest to some O + k P (R33). -/
def TideCfg.nearest (c : TideCfg) (e : Int) : Bool :=
  if c.pNum = 0 then true
  else
    let p : Int := c.pNum
    let r := ((e - (c.origin : Int)) * (c.pDen : Int)) % p
    let d := if r * 2 ≤ p then r else p - r
    decide (d * 2 ≤ 1000000000)

/-- A locked edge counts towards the frame: whether it is a frame edge, and the new count (R33). -/
def State.frameStep (s : State) (e : Int) : Bool × Option Nat :=
  match s.tide.frameCount with
  | none =>
    if s.on TIME_SYNC_VALID then (if s.active.nearest e then (true, some 0) else (false, none)) else (true, some 0)
  | some c => if s.active.period ≤ c + 1 then (true, some 0) else (false, some (c + 1))

/-- A frame edge makes a boundary due; one that ends a long tide lies itself at least P after the tide's boundary (R37,
R58). -/
def State.frameHit (s : State) (e : Int) : State :=
  let c := s.active
  let long := s.tide.rephase || s.tide.applied
  if s.tide.running && long && decide (e * (c.pDen : Int) < s.tide.start * (c.pDen : Int) + (c.pNum : Int)) then s
  else { s with tide := { s.tide with frameEdge := some e } }

/-- An edge while WCLK is locked (R33, R34). -/
def State.lockedEdge (s : State) (e : Int) (good : Bool) (d : Int) : State :=
  let s := { s with tide := { s.tide with
    lastEdge := some e
    bad := if good then 0 else s.tide.bad + 1
    intervals := if good then (d.toNat :: s.tide.intervals).take 64 else s.tide.intervals } }
  if s.tide.bad = 8 then s.wclkLost
  else
    let r := s.frameStep e
    let s := { s with tide := { s.tide with frameCount := r.2 } }
    if r.1 then s.frameHit e else s

/-- An edge while WCLK is being acquired or in holdover (R34). DESIGN CHOICE: the first edge after the count begins, or
after a gap, has no interval before it, and counts as one of the 64. The intervals of a count that fails leave the mean of
the accepted edges as it is. -/
def State.countEdge (s : State) (e : Int) : State :=
  let hz := rateHz s.active.rate
  let ok := match s.tide.lastEdge with
    | none => true
    | some l => wclkGood hz (e - l)
  let iv := match s.tide.lastEdge with
    | none => s.tide.cand
    | some l => if ok then ((e - l).toNat :: s.tide.cand).take 64 else []
  let s : State := { s with tide := { s.tide with lastEdge := some e, good := if ok then s.tide.good + 1 else 0,
                                                  cand := iv } }
  if 64 ≤ s.tide.good then s.wclkAccepted else s

/-- A rising edge of WCLK_IN (R33, R34, R38). -/
def State.wclkEdge (s : State) : State :=
  let c := s.active
  let e : Int := s.rg TIME_NOW
  let s := if s.on TIDE_CTRL_WCLK_OUT_EN ∧ c.src = 1 then s.emit .wclkOut else s
  if c.src = 1 ∧ s.staging then
    let lock := s.rg TIDE_STATUS_LOCK
    if lock = 2 then
      match s.tide.lastEdge with
      | none => s.lockedEdge e true 0
      | some l =>
        if (e - l) * (rateHz c.rate : Int) ≥ 2000000000 then (s.wclkLost).countEdge e
        else s.lockedEdge e (wclkGood (rateHz c.rate) (e - l)) (e - l)
    else if lock = 1 ∨ lock = 3 then
      match s.tide.lastEdge with
      | some l =>
        if (e - l) * (rateHz c.rate : Int) ≥ 2000000000 then
          { s with tide := { s.tide with good := 1, lastEdge := some e, cand := [] } }
        else s.countEdge e
      | none => s.countEdge e
    else s
  else s

/-- No edge within two nominal sample periods (R34). -/
def State.wclkTimeout (s : State) : State :=
  if s.rg TIDE_ACTIVE_SRC = 1 ∧ s.staging then
    if s.rg TIDE_STATUS_LOCK = 2 then s.wclkLost
    else { s with tide := { s.tide with good := 0, lastEdge := none, cand := [] } }
  else s

/-- Whether a boundary is due (R33, R34, R35). -/
def State.boundaryDue (s : State) : Bool :=
  if s.rg TIDE_ACTIVE_SRC = 1 then
    (s.staging && s.tide.frameEdge.isSome) || (s.tide.running && s.rg TIDE_STATUS_LOCK == 3)
  else s.staging

/-- The holdover period of a frame in ns: N times the mean of the last accepted intervals (R34). -/
def State.holdoverNs (s : State) : Int :=
  let c := s.active
  let n := s.tide.intervals.length
  if n = 0 then (c.pNum / c.pDen : Nat) else (c.period * s.tide.intervals.foldl (· + ·) 0 / n : Nat)

/-- The schedule index of the boundary that is due in GPTP and FREE mode (R35, R37, R58). -/
def State.nextK (s : State) : Int :=
  let c := s.active
  if ¬ s.tide.numbered then c.firstAt (s.rg TIME_NOW)
  else if s.tide.rephase ∨ s.tide.applied then max (c.firstAt (s.tide.start + c.pCeil)) (c.firstAt (s.rg TIME_NOW))
  else s.tide.k + 1

/-- The boundary wanted at `t`, kept within 0.999 P and 1.001 P of the last one outside a re-phase and an applied change
(R36). -/
def State.bounded (s : State) (t : Int) : Int :=
  let c := s.active
  if s.tide.numbered ∧ ¬ s.tide.rephase ∧ ¬ s.tide.applied then
    let lo := s.tide.start + (ceilDiv (c.pNum * 999) (c.pDen * 1000) : Nat)
    let hi := s.tide.start + (c.pNum * 1001 / (c.pDen * 1000) : Nat)
    if t < lo then lo else if hi < t then hi else t
  else t

/-- Device time of the boundary that is due (R33 to R37). A long tide that ends in holdover lasts at least P (R58). -/
def State.boundaryTime (s : State) : Int :=
  let c := s.active
  if c.src = 1 then
    match s.tide.frameEdge with
    | some e => s.bounded (e + 250)
    | none =>
      if s.tide.rephase ∨ s.tide.applied then s.tide.start + max s.holdoverNs c.pCeil
      else s.bounded (s.tide.start + s.holdoverNs)
  else s.bounded (c.sched s.nextK)

/-- The nearest k of R33 for a frame edge, or the schedule index of R35. -/
def State.alignedK (s : State) (bt : Int) : Int :=
  let c := s.active
  if c.src = 1 then
    (if c.pNum = 0 then 0 else ((bt - 250 - (c.origin : Int)) * (c.pDen : Int) * 2 + (c.pNum : Int)) / (2 * (c.pNum : Int)))
  else s.nextK

/-- The tide number after the boundary at `bt`, and ALIGNED (R44). DESIGN CHOICE: where the nearest k lies below 0 (device
time before the origin), which no tide number can hold, the number is 0, with ALIGNED set. -/
def State.nextNumber (s : State) (bt : Int) : Nat × Bool :=
  let n := s.rg TIDE_NUM
  if ¬ s.tide.numbered then
    (if s.on TIME_SYNC_VALID then ((s.alignedK bt).toNat, true) else (0, false))
  else if s.tide.rephase ∨ s.tide.applied then
    (if s.on TIME_SYNC_VALID then
      (let k := (s.alignedK bt).toNat
       if k ≤ n then (n + 1, false) else (k, true))
     else (n + 1, false))
  else (n + 1, s.on TIDE_STATUS_ALIGNED)

/-- The generator stops at this boundary (R56). -/
def State.generatorStop (s : State) : State :=
  let s := { s with tide := { s.tide with running := false, numbered := false, rephase := false, applied := false,
                                          mute := 0, frameCount := none, frameEdge := none, good := 0,
                                          lastEdge := none } }
  (s.wrs [(TIDE_STATUS_LOCK, 0), (TIDE_STATUS_REPHASING, 0), (TIDE_APPLY_HI_PEND, 0)]).takeStaged

/-- The generator's part of a boundary: the number, BTIME, ALIGNED and TICK_OUT (R38, R43, R44). -/
def State.advanceTide (s : State) : State :=
  let bt := s.boundaryTime
  let nn := s.nextNumber bt
  let k := s.nextK
  let up := (bt - s.rg TIME_NOW).toNat
  let s := if (s.rg TIME_NOW : Int) < bt then s.runTo bt.toNat else s
  let s := s.wrs [(TIDE_NUM, nn.1), (TIDE_BTIME, bt.toNat), (TIDE_STATUS_ALIGNED, b2n nn.2),
    (TIDE_STATUS_REPHASING, 0)]
  let s := { s with uptime := s.uptime + up
                    tide := { s.tide with running := true, numbered := true, k := k, start := bt, frameEdge := none,
                                          rephase := false, applied := false, mute := s.tide.mute - 1 } }
  if s.on TIDE_CTRL_TICK_EN then s.emit .tick else s

/-- The boundary at which an armed apply takes effect or is refused; `maxL` is the largest declared L of an assigned
slice, `setsOk` whether every tide-bound stream has a set for the staged period (R57), `inFlight` whether a token step
is in flight (R56). -/
def State.applyAtBoundary (s : State) (maxL : Nat) (setsOk inFlight : Bool) : State :=
  if ¬ s.on TIDE_APPLY_HI_PEND ∨ inFlight ∨ s.rg TIDE_NUM < s.applyTarget then s
  else
    let old := s.active
    let c := s.staged
    let cause := if ¬ c.legal then 1 else if maxL > s.budgetOf c then 2 else if ¬ setsOk then 3 else 0
    let s := s.wr TIDE_APPLY_HI_PEND 0
    if cause ≠ 0 then s.refuseApply cause
    else
      let s := ((s.wr TIDE_APPLY_HI_CAUSE 0).takeStaged).tideEvent TIDE_EVENT_APPLIED TIDE_EVENT_EN_APPLIED
      if old.src ≠ c.src ∨ old.rate ≠ c.rate ∨ old.period ≠ c.period then
        let s := { s with tide := { s.tide with applied := true, mute := 3 } }
        if c.src = 1 ∧ old.src = 1 ∧ old.rate = c.rate then
          { s with tide := { s.tide with frameCount := if s.on TIME_SYNC_VALID then none else some 0 } }
        else s.enterSource
      else if old.origin ≠ c.origin ∧ (c.src ≠ 1 ∨ s.on TIME_SYNC_VALID) then
        let s := s.beginRephase
        { s with tide := { s.tide with frameCount := none } }
      else s

/-! ## Meanings -/

/-- A write of one setting (R56). -/
def State.writeSetting (s : State) (which : TideSetting) (v : Nat) : State :=
  match which with
  | .src => s.setTide TIDE_CTRL_SRC v
  | .rate => s.setTide TIDE_CTRL_RATE v
  | .slack => s.setTide TIDE_CTRL_SLACK v
  | .period => s.setTide TIDE_PERIOD_PERIOD v
  | .origin => s.setTide TIME_ORIGIN v

/-- Writes SRC, RATE, SLACK, PERIOD or ORIGIN: in force at once while RUN is 0, staged while it is 1 (R56). -/
def execTideSettingWrite (which : TideSetting) (v : BitVec 64) (s : State) : Res :=
  .next (s.writeSetting which v.toNat)

/-- A write of `TIDE.CTRL` with RUN 1 starts the tides, or is refused when the combination breaks R32 (R56). -/
def execTideRunSet (w : BitVec 32) (s : State) : Res := .next ((s.tideCtrlFields w.toNat).runSet)

/-- A write of the apply pair with ARM 1 (R56). -/
def execApplyArm (tide : BitVec 48) (s : State) : Res :=
  .next (s.applyWrite (tide.toNat % 2 ^ 32) (tide.toNat / 2 ^ 32 + 2 ^ 31))

/-- A write of the apply pair with ARM 0 cancels a pending apply (R56). -/
def execApplyCancel (tide : BitVec 48) (s : State) : Res :=
  .next (s.applyWrite (tide.toNat % 2 ^ 32) (tide.toNat / 2 ^ 32))

/-- A rising edge of WCLK_IN, `dt` ns after the last event (R33, R34). -/
def execWclkEdge (dt : BitVec 32) (s : State) : Res := .next ((s.pass dt.toNat).wclkEdge)

/-- Two nominal sample periods without an edge (R34). -/
def execWclkLossTimeout (s : State) : Res := .next s.wclkTimeout

/-- What gPTP gives the time servo: the offset of the source from device time in ns and its bound, on a ring port
(R39, R40, R42). A frame on the port that is not the source's steers nothing. -/
def State.gptp (s : State) (port : Bool) (offset : Int) (bound : Nat) : State :=
  if s.rg TIME_CTRL_TSRC = 1 ∧ s.rg TIME_CTRL_GPTP_PORT = b2n port then s.steer offset bound else s

/-- A gPTP frame is received and handled (R39, R40). -/
def execGptpFrameReceive (port : Bool) (offset : BitVec 64) (bound : BitVec 16) (s : State) : Res :=
  .next (s.gptp port offset.toInt bound.toNat)

/-- A rising edge of PPS_IN: loads `TIME.PPS_SET` once it has been written, then steers the phase (R41). -/
def State.ppsIn (s : State) : State :=
  if s.rg TIME_CTRL_TSRC ≠ 2 then s
  else
    let b := s.free
    let bound := b.1 % 0xFFFF
    let now : Int := s.rg TIME_NOW
    if s.tide.ppsArmed then
      let s := { b.2 with tide := { b.2.tide with ppsArmed := false, locked := false } }
      s.steer ((s.rg TIME_PPS_SET : Int) - now) bound
    else if s.tide.locked then
      let r := now % 1000000000
      b.2.steer (if r * 2 < 1000000000 then -r else 1000000000 - r) bound
    else s

/-- A rising edge of PPS_IN, `dt` ns after the last event (R41). -/
def execPpsInEdge (dt : BitVec 32) (s : State) : Res := .next ((s.pass dt.toNat).ppsIn)

/-- Device time reaches the next whole second; PPS_OUT rises when enabled and VALID (R41). -/
def State.ppsOutSecond (s : State) : State :=
  let now := s.rg TIME_NOW
  let up := 1000000000 - now % 1000000000
  let s := ({ s with uptime := s.uptime + up } : State).runTo (now + up)
  if s.on TIDE_CTRL_PPS_OUT_EN ∧ s.on TIME_SYNC_VALID then s.emit .ppsOut else s

/-- A whole device-time second (R41). -/
def execPpsOutSecond (s : State) : Res := .next s.ppsOutSecond

/-- `TIME.SYNC.VALID` falls because the time source is lost (R35). -/
def execSyncValidLoss (s : State) : Res := .next s.syncLost

end Sys2Proof.Machine
end

