-- ==== Sys2Proof/Machine/Station.lean ====
section
/-! DEFINITION. What every part of a station uses: the promenade and its neighbours, rows with their ECC, slots and
presence bits, descriptors, links, and the fault and replay rules (chapters 2, 5 and 6). -/

namespace Sys2Proof.Machine

/-! ## Stations and terraces -/

def State.stn (s : State) (t p : Nat) : Stn := s.stns.get (17 * t + p) {}

def State.setStn (s : State) (t p : Nat) (v : Stn) : State := { s with stns := s.stns.set (17 * t + p) v {} }

/-- A station changed by `f`. -/
def State.onStn (s : State) (t p : Nat) (f : Stn → Stn) : State := s.setStn t p (f (s.stn t p))

def State.ter (s : State) (t : Nat) : Ter := s.ters.get t {}

def State.onTer (s : State) (t : Nat) (f : Ter → Ter) : State := { s with ters := s.ters.set t (f (s.ter t)) {} }

/-- The position whose memories, slots and neighbours a station works on: its own, or for a reserve in a replay or a
transfer tide the position it carries (R145). -/
def State.home (s : State) (t p : Nat) : Nat :=
  if p = 16 ∧ (s.rg (TAKE_STATUS_PHASE t) = 1 ∨ s.rg (TAKE_STATUS_PHASE t) = 2) then s.rg (TAKE_STATUS_POS t) else p

/-- The position at which accesses to position `p` land: the reserve after a permanent takeover of `p` (R148). -/
def State.land (s : State) (t p : Nat) : Nat :=
  if s.rg (TAKE_STATUS_PHASE t) = 3 ∧ s.on (MAP_RETIRED t p) ∧ p < 16 then 16 else p

/-- The promenade index (R18). -/
def promIdx (t p : Nat) : Nat := 17 * t + (if t % 2 = 0 then p else 16 - p)

/-- The station at a promenade index. -/
def promAt (x : Nat) : Nat × Nat := (x / 17, if x / 17 % 2 = 0 then x % 17 else 16 - x % 17)

/-- The nearest station from index `x` downwards (`up` false) or upwards that is not in pass-through, on fuel. -/
def State.walkProm (s : State) (up : Bool) : Nat → Nat → Option (Nat × Nat)
  | 0, _ => none
  | f + 1, x =>
    if x ≥ 204 then none
    else
      let q := promAt x
      if s.on (MEM_PASS_EN q.1 q.2) then (if up then s.walkProm up f (x + 1) else if x = 0 then none else s.walkProm up f (x - 1))
      else some q

/-- The lower or upper promenade neighbour of a station (R122), where its accesses land; a reserve that carries a
position has that position's neighbours (R145, R148). -/
def State.neighbour (s : State) (t p : Nat) (up : Bool) : Option (Nat × Nat) :=
  let p' := if p = 16 ∧ s.rg (TAKE_STATUS_PHASE t) ≠ 0 then s.rg (TAKE_STATUS_POS t) else p
  let x := promIdx t p'
  let q := if up then s.walkProm up 204 (x + 1) else if x = 0 then none else s.walkProm up 204 (x - 1)
  q.map fun r => (r.1, s.land r.1 r.2)

/-- The station that a side names: 0 its own, 1 the lower neighbour, 2 the upper (R155). -/
def State.sideOf (s : State) (t p side : Nat) : Option (Nat × Nat) :=
  if side = 0 then some (t, s.home t p) else s.neighbour t p (side == 2)

/-! ## Rows and ECC -/

/-- Words in error of `n` 64-bit words from address `a`. -/
def State.marks (s : State) (a n : Nat) : List (Nat × Nat) :=
  (s.ecc.filter fun e => decide (a / 8 ≤ e.1 ∧ e.1 < a / 8 + n)).map fun e => (e.1 - a / 8, e.2)

/-- `n` words from `a` freshly written: their check bits are good. -/
def State.clearMarks (s : State) (a n : Nat) : State := { s with ecc := s.ecc.clear (a / 8) n }

/-- A word marked: 1 single-bit, 2 uncorrectable, 0 good. -/
def State.mark (s : State) (a kind : Nat) : State := { s with ecc := s.ecc.set (a / 8) kind 0 }

/-- Logs and counts the words in error of a station row (R119 to R121). -/
def State.eccStn (s : State) (t p m row : Nat) (scrub : Bool) (l : List (Nat × Nat)) : State :=
  l.foldl (fun s e =>
    let unc := e.2 == 2
    let s := s.bump (if unc then MEM_ECC_UNC t p else MEM_ECC_CORR t p)
    s.firstLog (MEM_ECC_LOG_VALID t p) (MEM_ECC_LOG_MULTI t p)
      [(MEM_ECC_LOG_UNC t p, b2n unc), (MEM_ECC_LOG_MEM t p, m), (MEM_ECC_LOG_SCRUB t p, b2n scrub),
       (MEM_ECC_LOG_ROW t p, row), (MEM_ECC_LOG_WORD t p, e.1)]) s

/-- Logs and counts the words in error of a terrace-store row. -/
def State.eccTs (s : State) (t row : Nat) (scrub : Bool) (l : List (Nat × Nat)) : State :=
  l.foldl (fun s e =>
    let unc := e.2 == 2
    let s := s.bump (if unc then TSTORE_ECC_UNC t else TSTORE_ECC_CORR t)
    s.firstLog (TSTORE_ECC_LOG_VALID t) (TSTORE_ECC_LOG_MULTI t)
      [(TSTORE_ECC_LOG_UNC t, b2n unc), (TSTORE_ECC_LOG_SCRUB t, b2n scrub), (TSTORE_ECC_LOG_ROW t, row),
       (TSTORE_ECC_LOG_WORD t, e.1)]) s

/-- The corrected words of a row written back: their marks go, an uncorrectable word keeps its mark. -/
def State.writeBack (s : State) (a n : Nat) : State :=
  { s with ecc := s.ecc.filter fun e => decide (e.1 < a / 8 ∨ a / 8 + n ≤ e.1 ∨ e.2 = 2) }

/-- A station row read and checked: its bytes, or none when a word is uncorrectable (R119, R120). -/
def State.readRow (s : State) (t p m row : Nat) : Option (List Byte) × State :=
  let a := rowAddr t p m row
  let l := s.marks a 64
  let s := (s.eccStn t p m row false l).writeBack a 64
  (if l.any (fun e => e.2 == 2) then none else some (s.ld a 512), s)

/-- A terrace-store row read and checked. -/
def State.readTs (s : State) (t row : Nat) : Option (List Byte) × State :=
  let a := tsAddr t row
  let l := s.marks a 64
  let s := (s.eccTs t row false l).writeBack a 64
  (if l.any (fun e => e.2 == 2) then none else some (s.ld a 512), s)

/-- Rows read one after the other; none when one of them cannot be corrected (R120). -/
def State.readRows (s : State) (f : State → Nat → Option (List Byte) × State) (n : Nat) : Option (List (List Byte)) × State :=
  (List.range n).foldl (fun (a : Option (List (List Byte)) × State) i =>
    let x := f a.2 i
    ((match a.1, x.1 with
      | some l, some b => some (l ++ [b])
      | _, _ => none), x.2)) (some [], s)

/-- `n` bytes of a terrace store from row `row` on; none when a row of them cannot be corrected. -/
def State.tsBytes (s : State) (t row n : Nat) : Option (List Byte) × State :=
  let r := s.readRows (fun s i => s.readTs t (row + i)) (ceilDiv n 512)
  (r.1.map fun l => l.flatten.take n, r.2)

/-- A whole row stored at an address, with good check bits. -/
def State.putRow (s : State) (a : Nat) (b : List Byte) : State := (s.st a (fitTo 512 b)).clearMarks a 64

/-- A station row written; during a transfer tide it is also written to the reserve (R148). -/
def State.writeRow (s : State) (t p m row : Nat) (b : List Byte) : State :=
  let s := s.putRow (rowAddr t p m row) b
  if s.rg (TAKE_STATUS_PHASE t) = 2 ∧ s.rg (TAKE_STATUS_POS t) = p ∧ p < 16 then s.putRow (rowAddr t 16 m row) b else s

/-- Rows of the station region of a terrace store (R132). -/
def State.tsRegion (s : State) (t : Nat) : Nat := 4096 - 32 * s.rg (TSTORE_CTRL_PAGES t)

/-! ## Slots -/

def State.present (s : State) (t p k : Nat) : Bool := s.on (SLOT_STAT_PRESENT t p k)

/-- A slot's presence bit becomes 1; reads stalled on it proceed (R125). -/
def State.setPresent (s : State) (t p k : Nat) : State :=
  s.wrs [(SLOT_STAT_PRESENT t p k, 1), (SLOT_STAT_RELEASED t p k, 0), (SLOT_STAT_RWAIT t p k, 0)]

/-- A slot's presence bit becomes 0; writes stalled on it proceed (R125). -/
def State.clearPresent (s : State) (t p k : Nat) : State :=
  s.wrs [(SLOT_STAT_PRESENT t p k, 0), (SLOT_STAT_WWAIT t p k, 0)]

/-- One release of a slot whose bit is 1: a STREAM slot clears after READERS of them (R125); a KEEP slot only by the
release instruction (R127); a HELD slot never (R128). -/
def State.release (s : State) (t p k : Nat) (byRel : Bool) : State :=
  let kind := s.rg (SLOT_CFG_KIND t p k)
  if ¬ s.present t p k then s
  else if kind = 0 then
    let n := s.rg (SLOT_STAT_RELEASED t p k) + 1
    let s := s.wr (SLOT_STAT_RELEASED t p k) n
    if s.rg (SLOT_CFG_READERS t p k) ≤ n then s.clearPresent t p k else s
  else if kind = 1 ∧ byRel then s.clearPresent t p k
  else s

/-- A read stalled on an empty slot, or a write on a full one. -/
def State.stallSlot (s : State) (t p k : Nat) (write : Bool) : State :=
  (s.wr (if write then SLOT_STAT_WWAIT t p k else SLOT_STAT_RWAIT t p k) 1).bump (SLOT_STALL t p)

/-! ## Descriptors (R156) -/

/-- Word `w` of a descriptor given as eight words. -/
def dw (d : List Nat) (w : Nat) : Nat := d.getD w 0

def dMem (d : List Nat) : Nat := bits (dw d 0) 30 2
def dSrc (d : List Nat) : Nat := bits (dw d 0) 28 2
def dFmt (d : List Nat) : Nat := bits (dw d 0) 24 4
def dMode (d : List Nat) : Bool := bit (dw d 0) 23
def dWrap (d : List Nat) : Bool := bit (dw d 0) 22
def dSlot0 (d : List Nat) : Nat := bits (dw d 0) 16 6
def dNslot (d : List Nat) : Nat := bits (dw d 0) 10 6 + 1
def dSize (d : List Nat) : Nat := bits (dw d 1) 16 13
def dBaseRow (d : List Nat) : Nat := bits (dw d 1) 0 12
def dAdv (d : List Nat) : Nat := bits (dw d 2) 0 16
def dCursor (d : List Nat) : Nat := bits (dw d 3) 0 16
def dBase (d : List Nat) : Nat := dw d 4
def dSen (d : List Nat) : Bool := bit (dw d 5) 31
def dSmem (d : List Nat) : Nat := bits (dw d 5) 29 2
def dSrow (d : List Nat) : Nat := bits (dw d 5) 0 10
def dTen (d : List Nat) : Bool := bit (dw d 6) 31
def dTmem (d : List Nat) : Nat := bits (dw d 6) 29 2
def dTrow (d : List Nat) : Nat := bits (dw d 6) 0 10
def dPrel (d : List Nat) : Bool := bit (dw d 7) 31

/-- Descriptor `d` of a station's sequencer, as its registers hold it. -/
def State.desc (s : State) (t p d : Nat) : List Nat :=
  (List.range 8).map fun w => s.rg (SEQ_DESC_WORD t p (8 * d + w))

/-- The element width of a descriptor's elements in bits: W32 in partial-sum memory (R156). -/
def dBits (d : List Nat) : Nat := if dMem d = 2 then 32 else fmtBits (dFmt d)

/-- Whether offset `o` of a buffer is in bounds (R156). -/
def dOk (d : List Nat) (o : Nat) : Bool := dWrap d || decide (o < dSize d)

/-- The row of a buffer at an offset: wrapped when WRAP is set. -/
def dOff (d : List Nat) (o : Nat) : Nat := if dWrap d ∧ dSize d ≠ 0 then o % dSize d else o

/-- Where a buffer row lies: station, memory and row (memory 3: terrace store), and in MODE 1 its slot and whether it is
the slot's last row. -/
structure RowRef where
  t : Nat
  p : Nat
  mem : Nat
  row : Nat
  slot : Option Nat
  inSlot : Nat
  last : Bool
deriving DecidableEq, Repr

/-- The row at offset `o` of descriptor `d` of station `(t, p)` (R157); the descriptor's SRC 3 is the expander's ring in
the station's own weight memory. -/
def State.rowRef (s : State) (t p : Nat) (d : List Nat) (o : Nat) : Option RowRef :=
  let o := dOff d o
  match s.sideOf t p (if dSrc d = 3 then 0 else dSrc d) with
  | none => none
  | some q =>
    if dMem d = 3 then some ⟨t, p, 3, dBaseRow d + o, none, 0, false⟩
    else if dMode d then
      let rows := s.rg (SLOT_CFG_ROWS q.1 q.2 (dSlot0 d))
      let k := (dSlot0 d + (if rows = 0 then 0 else o / rows)) % 64
      let r := if rows = 0 then 0 else o % rows
      some ⟨q.1, q.2, dMem d, s.rg (SLOT_CFG_BASE q.1 q.2 k) + r, some k, r, decide (r + 1 = rows)⟩
    else some ⟨q.1, q.2, dMem d, dBaseRow d + o, none, 0, false⟩

/-- What a row read gives: the bytes, a wait on an empty slot, an uncorrectable word (of the station's own memories, or
of another part, R501), or nothing there. -/
inductive RdRes where
  | ok (l : List Byte)
  | wait (t p k : Nat)
  | unc (own : Bool)
  | gone
deriving DecidableEq, Repr

/-- Whether the log of a replay under way holds a set, or a release, of a slot that is still to come (R181). -/
def State.logged (s : State) (t p : Nat) (set : Bool) (side k : Nat) : Bool :=
  (s.stn t p).suppress.any fun x => x.set == set && x.side == side && x.slot == k

/-- A read of the row at offset `o` of descriptor `d` (R119, R120, R125, R133). DEDUCED from R181: a replay does not wait on
the bit of a slot that the slice itself released after the checkpoint. -/
def State.readOff (s : State) (t p : Nat) (d : List Nat) (o : Nat) : RdRes × State :=
  match s.rowRef t p d o with
  | none => (.gone, s)
  | some r =>
    if r.mem = 3 then
      if r.row < s.tsRegion t then
        match s.readTs t r.row with
        | (some l, s) => (.ok l, s)
        | (none, s) => (.unc false, s)
      else (.ok (zeros 512), s.bump (TSTORE_BOUNDS t))
    else
      let wait := match r.slot with
        | some k => !s.present r.t r.p k && !s.logged t p false (if dSrc d = 3 then 0 else dSrc d) k
        | none => false
      if wait then (.wait r.t r.p (r.slot.getD 0), s.stallSlot r.t r.p (r.slot.getD 0) false)
      else
        match s.readRow r.t r.p r.mem r.row with
        | (some l, s) => (.ok l, s)
        | (none, s) => (.unc (dSrc d == 0 || dSrc d == 3), s)

/-- `n` rows from offset `o`, in order, stopping at the first that gives no bytes. -/
def State.readOffs (s : State) (t p : Nat) (d : List Nat) : Nat → Nat → RdRes × State
  | _, 0 => (.ok [], s)
  | o, n + 1 =>
    match s.readOff t p d o with
    | (.ok l, s) =>
      match s.readOffs t p d (o + 1) n with
      | (.ok ls, s) => (.ok (l ++ ls), s)
      | r => r
    | r => r

/-- The slots that rows `o` to `o + n - 1` of a MODE 1 descriptor lie in, as (side, slot). -/
def State.slotsOf (s : State) (t p : Nat) (d : List Nat) (o n : Nat) : List (Nat × Nat) :=
  ((List.range n).filterMap fun i =>
    match s.rowRef t p d (o + i) with
    | some r => r.slot.map fun k => (if dSrc d = 3 then 0 else dSrc d, k)
    | none => none).eraseDups

/-- The link of a station towards a side. -/
def Stn.link (v : Stn) (up : Bool) : Link := if up then v.hi else v.lo

def Stn.setLink (v : Stn) (up : Bool) (l : Link) : Stn := if up then { v with hi := l } else { v with lo := l }

/-- Whether a write of the row at offset `o` must wait for a full slot. A replay does not wait on a slot that it had filled
before the fault (R181). -/
def State.writeWait (s : State) (t p : Nat) (d : List Nat) (o : Nat) : Option (Nat × Nat × Nat) :=
  match s.rowRef t p d o with
  | some r => match r.slot with
    | some k => if s.present r.t r.p k && !s.logged t p true (dSrc d) k then some (r.t, r.p, k) else none
    | none => none
  | none => none

/-- The position whose link ports a station uses: that of the position a reserve carries (R145, R148). -/
def State.portOf (s : State) (t p : Nat) : Nat :=
  if p = 16 ∧ s.rg (TAKE_STATUS_PHASE t) ≠ 0 then s.rg (TAKE_STATUS_POS t) else p

/-- Rows of station `src` that stations in pass-through still hold, from promenade index `x` on in one direction, on fuel
(R122). -/
def State.relayed (s : State) (src : Nat) (up : Bool) : Nat → Nat → List LinkRow
  | 0, _ => []
  | f + 1, x =>
    let q := promAt x
    if 204 ≤ x ∨ ¬ s.on (MEM_PASS_EN q.1 q.2) then []
    else (((s.stn q.1 q.2).link up).rows.filter fun r => r.src == src) ++
      (if up then s.relayed src up f (x + 1) else if x = 0 then [] else s.relayed src up f (x - 1))

/-- The rows that a station has sent in one direction and that have not been written (R122, R123). -/
def State.underway (s : State) (t p : Nat) (up : Bool) : List LinkRow :=
  let src := 17 * t + p
  let x := promIdx t (s.portOf t p)
  (((s.stn t (s.portOf t p)).link up).rows.filter fun r => r.src == src) ++
    (if up then s.relayed src up 204 (x + 1) else if x = 0 then [] else s.relayed src up 204 (x - 1))

/-- Whether a link has no credit left for another row (R123). -/
def State.noCredit (s : State) (t p : Nat) (up : Bool) : Bool :=
  let l := (s.stn t (s.portOf t p)).link up
  decide (l.credits ≤ l.rows.length)

/-- Whether a write through descriptor `d` waits for a link credit (R123, R182). -/
def State.creditWait (s : State) (t p : Nat) (d : List Nat) : Bool :=
  dMem d != 3 && (dSrc d == 1 || dSrc d == 2) && s.noCredit t p (dSrc d == 2)

/-- A write of the row at offset `o` of descriptor `d`: at once in the station's own memories and the terrace store, as a
row on the link towards a neighbour (R123, R133). `set`: the slot's presence bit is set after the row; `drain`: the drain
writes it. -/
def State.writeOff (s : State) (t p : Nat) (d : List Nat) (o : Nat) (b : List Byte) (set drain : Bool) : State :=
  match s.rowRef t p d o with
  | none => s
  | some r =>
    if r.mem = 3 then
      if r.row < s.tsRegion t then s.putRow (tsAddr t r.row) b else s.bump (TSTORE_BOUNDS t)
    else if dSrc d = 1 ∨ dSrc d = 2 then
      let up := dSrc d == 2
      s.onStn t (s.portOf t p) fun v =>
        let l := v.link up
        v.setLink up { l with rows := l.rows ++ [{ slot := r.slot.getD 0, row := r.inSlot, data := b, set := set
                                                   src := 17 * t + p, drain := drain }] }
    else
      let s := s.writeRow r.t r.p r.mem r.row b
      if set then s.setPresent r.t r.p (r.slot.getD 0) else s

/-- Whether a row of a descriptor can be had again for a replay: from its held input, or from its block slot through the
expander (R52). -/
def State.rereads (s : State) (t p : Nat) (d : List Nat) : Bool :=
  dMode d && (dSrc d == 3 || match s.sideOf t p (dSrc d) with
    | some q => s.rg (SLOT_CFG_KIND q.1 q.2 (dSlot0 d)) == 2 || s.rg (SLOT_CFG_PRODUCER q.1 q.2 (dSlot0 d)) == 3
    | none => false)

/-! ## Signals (R176, R181) -/

/-- A presence-bit set or a release is about to be performed: suppressed when the replay's log holds it, otherwise
logged. -/
def State.signal (s : State) (t p : Nat) (g : Sig) : Bool × State :=
  let v := s.stn t p
  let same (x : Sig) : Bool := x.set == g.set && x.side == g.side && x.slot == g.slot
  if v.suppress.any same then (false, s.onStn t p fun v => { v with suppress := v.suppress.eraseP same })
  else (true, s.onStn t p fun v => { v with sigs := v.sigs ++ [g] })

/-- A set of a slot's presence bit by the station (after its data), under the replay's suppression. -/
def State.sigSet (s : State) (t p side slot run : Nat) (tile : Option Nat) : State :=
  let r := s.signal t p { set := true, side := side, slot := slot, run := run, tile := tile }
  match r.1, s.sideOf t p side with
  | true, some q => r.2.setPresent q.1 q.2 slot
  | _, _ => r.2

/-- A release by the station, under the replay's suppression. -/
def State.sigRelease (s : State) (t p side slot run : Nat) (tile : Option Nat) (byRel : Bool) : State :=
  let r := s.signal t p { set := false, side := side, slot := slot, run := run, tile := tile }
  match r.1, s.sideOf t p side with
  | true, some q => r.2.release q.1 q.2 slot byRel
  | _, _ => r.2

/-- A row written through a port, setting its slot's bit when it is the slot's last row and `set` (R165, R171, R172). `g`:
the set as the log keeps it. A row of a slot that a replay had filled before the fault is not sent again (R52, R181). -/
def State.putOff (s : State) (t p : Nat) (d : List Nat) (o : Nat) (b : List Byte) (set drain : Bool) (g : Sig) : State :=
  match s.rowRef t p d o with
  | none => s
  | some r =>
    let last := set && r.last && r.slot.isSome
    let g := { g with set := true, side := dSrc d, slot := r.slot.getD 0 }
    if r.slot.any fun k => s.logged t p true (dSrc d) k then (if last then (s.signal t p g).2 else s)
    else if dSrc d = 0 then
      let s := s.writeOff t p d o b false drain
      if last then s.sigSet t p 0 g.slot g.run g.tile else s
    else (if last then (s.signal t p g).2 else s).writeOff t p d o b last drain

/-! ## Faults and replay (R52 to R54, R85, R181) -/

/-- A fault order by R85; the rest follow. -/
def faultRank (c : Nat) : Nat :=
  if c = stUncorrectable ∨ c = stBlockSize then 0 else if c = stScaleSkew then 1 else if c = stChecksum then 2
  else if c = stStarved then 3 else if c = stOverrun then 4 else 5

/-- The status of a slice from the codes found: the first in the order of R85. -/
def worst : List Nat → Nat
  | [] => 0
  | c :: l => l.foldl (fun a b => if faultRank b < faultRank a then b else a) c

/-- The checkpoint in force (R181): of the earliest issued tile that has not passed, else of the last tile issued. -/
def Stn.checkpoint (v : Stn) : Ckpt :=
  match v.tiles with
  | r :: _ => { r.run.ck with tile := r.t, reads := r.run.reads }
  | [] => v.last

/-- The signals performed after a checkpoint. -/
def Stn.since (v : Stn) (c : Ckpt) : List Sig :=
  v.sigs.filter fun g => match g.tile with
    | some m => decide (c.runs + 1 < g.run ∨ (g.run = c.runs + 1 ∧ c.tile ≤ m))
    | none => !c.atRun || decide (c.runs < g.run)

/-- The sequencer's registers put in the state of a checkpoint. -/
def State.restore (s : State) (t p : Nat) (c : Ckpt) : State :=
  let s := (List.range 32).foldl (fun s i =>
    s.wrs [(SEQ_PTR t p i, c.ptrs.getD i 0), (SEQ_PTR_DYN t p i, c.ptrs.getD i 0 / 65536)]) s
  let s := (List.range 64).foldl (fun s i => s.wr (SEQ_DESC_WORD t p i) (c.descs.getD i 0)) s
  let s := (List.range 8).foldl (fun s i => s.wr (WIN_OPOS t p i) (c.opos.getD i 0)) s
  let s := s.wrs [(SEQ_STATE_PC t p, c.pc), (VEC_STATE_FLAG t p, c.flag), (ARRAY_STATE_BUSY t p, 0)]
  s.onStn t p fun v => { v with loops := c.loops, vregs := c.vregs, bias := c.bias, wcfg := c.wcfg, runs := c.runs,
                                resume := c.tile, resumeReads := c.reads, mov := 0, stuck := none, issuing := none, queued := none, tiles := [], stopIssued := false }

/-- The present state of a sequencer as a checkpoint. -/
def State.capture (s : State) (t p : Nat) : Ckpt :=
  let v := s.stn t p
  { pc := s.rg (SEQ_STATE_PC t p), tile := 0, runs := v.runs
    ptrs := (List.range 32).map fun i => s.rg (SEQ_PTR t p i) + 65536 * s.rg (SEQ_PTR_DYN t p i)
    descs := (List.range 64).map fun i => s.rg (SEQ_DESC_WORD t p i)
    loops := v.loops, vregs := v.vregs, bias := v.bias, wcfg := v.wcfg
    opos := (List.range 8).map fun i => s.rg (WIN_OPOS t p i)
    flag := s.rg (VEC_STATE_FLAG t p) }

/-- The state of R153 in which a slice begins. -/
def Slice.start (sl : Slice) : Ckpt := { descs := sl.descs }

/-- Whether the slice at `(u, q)` consumes output of the slice at `(t, p)` in the same tide: it depends on it under R186,
through a slot that it reads or a terrace flag that it waits for. -/
def State.consumes (s : State) (u q t p : Nat) : Bool :=
  match (s.stn u q).slice, (s.stn t (s.land t p)).slice with
  | some a, some b => a.handle == b.handle && a.deps.contains b.stage
  | _, _ => false

/-- Every station. -/
def allStns : List (Nat × Nat) := (List.range 204).map fun i => (i / 17, i % 17)

/-- The station that runs the slice of position `p`: the reserve in a replay or a transfer tide (R145). -/
def State.carrier (s : State) (t p : Nat) : Nat :=
  if p < 16 ∧ (s.rg (TAKE_STATUS_PHASE t) = 1 ∨ s.rg (TAKE_STATUS_PHASE t) = 2) ∧ s.rg (TAKE_STATUS_POS t) = p then 16 else p

/-- Whether the slice at a position belongs to a set and runs undisturbed. -/
def State.runsOf (s : State) (handle t p : Nat) : Bool :=
  let v := s.stn t (s.carrier t p)
  (match v.slice with
    | some sl => sl.handle == handle
    | none => false) && !v.halted && v.faults.isEmpty

/-- The consumers of stopped slices of one set are stopped, transitively, on fuel (R54). -/
def State.haltConsumers (s : State) (handle : Nat) : Nat → List (Nat × Nat) → State
  | 0, _ => s
  | f + 1, src =>
    let hit := allStns.filter fun q => s.runsOf handle q.1 q.2 && src.any fun r => s.consumes q.1 q.2 r.1 r.2
    if hit.isEmpty then s
    else
      let s := hit.foldl (fun s q =>
        let c := s.carrier q.1 q.2
        (s.onStn q.1 c fun v => { v with halted := true }).wrs [(SEQ_STATE_STATE q.1 c, 6), (ARRAY_STATE_BUSY q.1 c, 0)]) s
      s.haltConsumers handle f hit

/-- The last cycle at which a replay of a slice may end: Z (R52). -/
def State.zOf (s : State) (sl : Slice) : Nat := s.rg TIDE_TMIN_T_MIN - 512 - sl.w

/-- The reserve takes over what it needs to run the slice of position `p` over the takeover path: program memory, the
settings of the sequencer and of the expander channels (R147, R148). DESIGN CHOICE: a program word that is uncorrectable is
copied so that the copy is uncorrectable too (the spec says so of data rows only, R148), and a replay meets it again. -/
def State.loadReserve (s : State) (t p : Nat) : State :=
  let s : State := { s with mem := s.mem.copy (rowAddr t p 3 0) (rowAddr t 16 3 0) 65536 0#8
                            ecc := s.ecc.copy (rowAddr t p 3 0 / 8) (rowAddr t 16 3 0 / 8) 8192 0 }
  let s := s.wrs [(TAKE_STATUS_POS t, p), (SEQ_STATE_STATE t 16, 2), (SEQ_STATE_CAUSE t 16, 0),
    (SEQ_PHASE_PHASE t 16, s.rg (SEQ_PHASE_PHASE t p))]
  (List.range 2).foldl (fun s i => s.wrs [(EXP_CTRL_EN t 16 i, s.rg (EXP_CTRL_EN t p i)),
    (EXP_CTRL_RESIDENT t 16 i, s.rg (EXP_CTRL_RESIDENT t p i)), (EXP_CTRL_DESC t 16 i, s.rg (EXP_CTRL_DESC t p i)),
    (EXP_CTRL_SRING_M1 t 16 i, s.rg (EXP_CTRL_SRING_M1 t p i)), (EXP_CTRL_TIDX t 16 i, s.rg (EXP_CTRL_TIDX t p i)),
    (EXP_CTRL_TN_M1 t 16 i, s.rg (EXP_CTRL_TN_M1 t p i)), (EXP_POS_REGION t 16 i, s.rg (EXP_POS_REGION t p i))]) s

/-- The reserve takes the curve slots of position `p` (R109, R147). -/
def State.loadCurves (s : State) (t p : Nat) : State :=
  (s.wrs [(CURVE_STATE_VALID t 16, s.rg (CURVE_STATE_VALID t p)), (CURVE_STATE_QUAD t 16, s.rg (CURVE_STATE_QUAD t p))]).onStn
    t 16 fun v => { v with curves := (s.stn t p).curves }

/-- A replay begins: program memory, valid curve slots and the checkpoint go to the reserve (R52, R147, R181). -/
def State.beginReplay (s : State) (t p : Nat) (sl : Slice) : State :=
  let v := s.stn t p
  let c := v.checkpoint
  let s := (((s.loadReserve t p).loadCurves t p).wr (TAKE_STATUS_PHASE t) 1).bump (TAKE_COUNT t)
  let s := (s.bump INT_REPLAYS).onTer t fun r => { r with granted := true }
  let s := s.setStn t 16 { s.stn t 16 with
    slice := some sl, curves := v.curves, suppress := v.since c, sigs := [], faults := [], halted := false,
    ended := none, last := c, blk := v.blk, chans := v.chans, curveLoad := none }
  s.restore t 16 c

/-- A fault against the slice of station `(t, p)` at cycle `cyc` (R52, R53, R54, R85): the station stops, a record is
posted, a replay is granted or refused. `own`: the fault counts (R501). `again`: the data can be had again (R52);
`log`: what the record copies. -/
def State.faultSlice (s : State) (t p code cyc : Nat) (own again : Bool) (log : Nat) : State :=
  let v := s.stn t p
  match v.slice with
  | none => s
  | some sl =>
    let first := v.faults.isEmpty
    let carried := p == 16 && (s.rg (TAKE_STATUS_PHASE t) == 1)
    let grant := first && again && !carried && p != 16 && code != stBadDescriptor && !(s.ter t).granted &&
      s.rg (TAKE_STATUS_PHASE t) == 0 && !bit (s.rg (INT_STN_FENCED t)) 16 && decide (cyc + 256 + sl.lReplay ≤ s.zOf sl)
    let s := s.postFault { tide := s.rg TIDE_NUM, terr := t, pos := p, code := code, cycle := cyc, loc := log
                           flags := b2n grant + 2 * b2n carried + 4 * b2n own }
    let s := s.wrs [(SEQ_STATE_STATE t p, 5), (SEQ_STATE_CAUSE t p, 0), (SEQ_END_CYCLE t p, 0x7FFFFF), (ARRAY_STATE_BUSY t p, 0)]
    let s := s.onStn t p fun v => { v with faults := v.faults ++ [code] }
    if ¬ first then s
    else if grant then s.beginReplay t p sl
    else
      let s := s.tideEvent TIDE_EVENT_REPLAY_REFUSED TIDE_EVENT_EN_REPLAY_REFUSED
      s.haltConsumers sl.handle 204 [(t, s.home t p)]

/-- A sequencer fault (R179, R180): logged, then raised against the slice. -/
def State.seqFault (s : State) (t p cause code cyc : Nat) (own again : Bool) : State :=
  let s := s.firstLog (SEQ_FAULT_VALID t p) (SEQ_FAULT_MULTI t p)
    [(SEQ_FAULT_CAUSE t p, cause), (SEQ_FAULT_PC t p, s.rg (SEQ_STATE_PC t p)), (SEQ_FAULT_CODE t p, code)]
  s.faultSlice t p code cyc own again 0

/-- The rows of a descriptor that a replay reads again are had from their held input or block slot (R52). -/
def State.refreshRows (s : State) (t p : Nat) (d : List Nat) : State :=
  match s.sideOf t p (if dSrc d = 3 then 0 else dSrc d) with
  | none => s
  | some q => (List.range (dNslot d)).foldl (fun s i =>
      let k := (dSlot0 d + i) % 64
      if s.rg (SLOT_CFG_KIND q.1 q.2 k) = 2 ∨ s.rg (SLOT_CFG_PRODUCER q.1 q.2 k) = 3 then
        s.clearMarks (rowAddr q.1 q.2 (s.rg (SLOT_CFG_MEM q.1 q.2 k)) (s.rg (SLOT_CFG_BASE q.1 q.2 k))) (64 * s.rg (SLOT_CFG_ROWS q.1 q.2 k))
      else s) s

/-- An uncorrectable read, through descriptor `d`, by a station's slice (R120): the record copies `MEM.ECC_LOG` when the
word was its own. A row that can be had again only from its source is replayed as R52 allows. -/
def State.uncRead (s : State) (t p cyc : Nat) (own : Bool) (d : List Nat) : State :=
  let h := s.home t p
  let log := if own then s.word (MEM_ECC_LOG_VALID t h).off else 0
  let again := s.rereads t p d
  let was := (s.ter t).granted
  let s := s.faultSlice t p stUncorrectable cyc own again log
  if ¬ was ∧ (s.ter t).granted then s.refreshRows t p d else s

/-- An uncorrectable scale row, of the scale buffer of descriptor `d` (R101, R120); the expander can write one of its ring
again (R52, R289). -/
def State.uncScale (s : State) (t p cyc : Nat) (d : List Nat) (row : Nat) : State :=
  let h := s.home t p
  let was := (s.ter t).granted
  let s := s.faultSlice t p stUncorrectable cyc true (dSrc d == 3) (s.word (MEM_ECC_LOG_VALID t h).off)
  if ¬ was ∧ (s.ter t).granted then s.clearMarks (rowAddr t h (dSmem d) row) 64 else s

end Sys2Proof.Machine
end

