-- ==== Sys2Proof/Machine/Window.lean ====
section
/-! DEFINITION. The window feeder (chapter 8): window configurations, their checks, and the elements of a window. -/

namespace Sys2Proof.Machine

/-- A window configuration (R199). -/
structure WinCfg where
  hIn : Nat
  wIn : Nat
  c : Nat
  cs : Nat
  cbase : Nat
  cp : Nat
  kh : Nat
  kw : Nat
  sh : Nat
  sw : Nat
  dh : Nat
  dw : Nat
  pt : Nat
  pb : Nat
  pl : Nat
  pr : Nat
  padMode : Nat
  lbd : Nat
  nl : Nat
  lstride : Nat
  opos : Nat
  rest : List Byte
deriving DecidableEq, Repr

/-- The configuration that a row holds. -/
def WinCfg.ofRow (r : List Byte) : WinCfg :=
  { hIn := leAt r 0 2, wIn := leAt r 2 2, c := leAt r 4 2, cs := leAt r 6 2, cbase := leAt r 8 2, cp := leAt r 10 2
    kh := leAt r 12 1, kw := leAt r 13 1, sh := leAt r 14 1, sw := leAt r 15 1, dh := leAt r 16 1, dw := leAt r 17 1
    pt := leAt r 18 1, pb := leAt r 19 1, pl := leAt r 20 1, pr := leAt r 21 1, padMode := leAt r 22 1
    lbd := leAt r 23 1, nl := leAt r 24 2, lstride := leAt r 26 2, opos := leAt r 28 3, rest := r.drop 31 }

/-- The output size in one dimension (R200), as an integer before the check that it is positive. -/
def outDim (n pa pb d k s : Nat) : Int :=
  (((n + pa + pb : Nat) : Int) - (d * (k - 1) : Nat) - 1) / (s : Int) + 1

def WinCfg.hOut (w : WinCfg) : Int := outDim w.hIn w.pt w.pb w.dh w.kh w.sh
def WinCfg.wOut (w : WinCfg) : Int := outDim w.wIn w.pl w.pr w.dw w.kw w.sw

/-- Output positions. -/
def WinCfg.positions (w : WinCfg) : Nat := (w.hOut * w.wOut).toNat

def within (a b v : Nat) : Bool := decide (a ≤ v ∧ v ≤ b)

/-- Every field in its range and every reserved byte 0 (R199). -/
def WinCfg.inRange (w : WinCfg) : Bool :=
  within 1 4096 w.hIn && within 1 4096 w.wIn && within 1 1024 w.c && within 1 4096 w.cs && within 0 4095 w.cbase &&
  (w.cp == 8 || w.cp == 16 || (within 32 1024 w.cp && w.cp % 32 == 0)) &&
  within 1 16 w.kh && within 1 16 w.kw && within 1 16 w.sh && within 1 16 w.sw && within 1 16 w.dh && within 1 16 w.dw &&
  within 0 2 w.padMode && within 0 7 w.lbd && within 1 4096 w.nl && within 1 512 w.lstride && w.rest.all fun b => b == 0#8

/-- The cause for which a configuration is invalid, as `WIN.FAULT.CAUSE` names it; `lbd` is the descriptor of LBD and
`nDesc` the descriptors of the image (R200). -/
def WinCfg.invalid (w : WinCfg) (lbd : List Nat) (nDesc : Nat) : Option Nat :=
  if ¬ w.inRange then some 0
  else if w.hOut < 1 ∨ w.wOut < 1 then some 1
  else if w.cp < w.c ∨ w.cs < w.cbase + w.c then some 2
  else if w.lstride * 4096 < w.wIn * w.cs * fmtBits (dFmt lbd) ∨ dSize lbd < w.nl * w.lstride then some 3
  else if nDesc ≤ w.lbd ∨ ¬ (dMem lbd = 1 ∨ dMem lbd = 3) ∨ dSrc lbd ≠ 0 ∨
    ¬ (dFmt lbd ≤ 5 ∧ dFmt lbd ≠ 4) then some 4
  else none

/-- A coordinate brought inside a dimension of size `n` (R202): edge clamps, reflect mirrors. -/
def border (mode n : Nat) (v : Int) : Nat :=
  if mode = 1 then (if v < 0 then 0 else if (n : Int) ≤ v then n - 1 else v.toNat)
  else if n ≤ 1 then 0
  else
    let m := (v % ((2 * n - 2 : Nat) : Int)).toNat
    if m < n then m else 2 * n - 2 - m

/-- Buffer offset and element of channel `c` (counted from CBASE) of pixel `(iy, ix)` (R203). -/
def WinCfg.place (w : WinCfg) (nbits iy ix c : Nat) : Nat × Nat :=
  let e := ix * w.cs + w.cbase + c
  (iy % w.nl * w.lstride + e * nbits / 4096, e)

/-- What tap `tap` of output position `pos` reads in channel `c`: whether the pixel is inside, and where its element
lies, if anywhere (R201, R202). -/
def WinCfg.tap (w : WinCfg) (nbits pos tap c : Nat) : Bool × Option (Nat × Nat) :=
  if w.kh * w.kw ≤ tap ∨ w.c ≤ c ∨ w.positions ≤ pos then (false, none)
  else
    let wo := w.wOut.toNat
    let iy : Int := (pos / wo * w.sh : Nat) - (w.pt : Int) + (tap / w.kw * w.dh : Nat)
    let ix : Int := (pos % wo * w.sw : Nat) - (w.pl : Int) + (tap % w.kw * w.dw : Nat)
    let inside := decide (0 ≤ iy ∧ iy < w.hIn ∧ 0 ≤ ix ∧ ix < w.wIn)
    if inside then (true, some (w.place nbits iy.toNat ix.toNat c))
    else if w.padMode = 0 then (false, none)
    else (false, some (w.place nbits (border w.padMode w.hIn iy) (border w.padMode w.wIn ix) c))

/-- The element at index `e` of a line, from the row that holds it. -/
def elemAt (nbits : Nat) (row : List Byte) (e : Nat) : Nat :=
  let b := row.getD (e * nbits / 8 % 512) 0#8
  if nbits = 4 then (if e % 2 = 0 then b.toNat % 16 else b.toNat / 16)
  else if nbits = 16 then b.toNat + 256 * (row.getD (e * nbits / 8 % 512 + 1) 0#8).toNat
  else b.toNat

/-- Rows gathered by offset, each fetched once in the order given; the first that gives no bytes stops the fetch. -/
def State.gather (s : State) (t p : Nat) (d : List Nat) : List Nat → KMap (List Byte) → RdRes × KMap (List Byte) × State
  | [], m => (.ok [], m, s)
  | o :: l, m =>
    if m.has o then s.gather t p d l m
    else
      match s.readOff t p d o with
      | (.ok r, s) => s.gather t p d l (m.insert o r)
      | (r, s) => (r, m, s)

/-- The element that an address names in gathered rows; 0 for none. -/
def fromRows (nbits : Nat) (m : KMap (List Byte)) : Option (Nat × Nat) → Nat
  | none => 0
  | some a => elemAt nbits (m.get a.1 []) a.2

end Sys2Proof.Machine
end

