-- ==== Sys2Proof/Machine/Seq.lean ====
section
/-! DEFINITION. The sequencer's instructions but for the vector functions (chapter 7). Each command issues the next
instruction of one station's slice program when it is of its kind; the operand `cyc` is the cycle of the tide. An
instruction whose condition does not hold stalls: the sequencer shows STALL and its cause, the counter rises by one
cycle, and the same instruction is next again. -/

namespace Sys2Proof.Machine

/-- The sequencer stalls (R182); `port`: the slot on which a port of the instruction waits. -/
def State.stallOn (s : State) (t p cause : Nat) (port : Option (Bool × Nat × Nat × Nat)) : State :=
  (((s.wrs [(SEQ_STATE_STATE t p, 3), (SEQ_STATE_CAUSE t p, cause)]).bump (SEQ_STALL t p)).onStn t p fun v => { v with stuck := port })

/-- The sequencer stalls, none of its ports on a slot. -/
def State.stall (s : State) (t p cause : Nat) : State := s.stallOn t p cause none

/-- The sequencer stalls with a write on a full slot. -/
def State.stallWrite (s : State) (t p : Nat) (q : Nat × Nat × Nat) : State :=
  (s.stallSlot q.1 q.2.1 q.2.2 true).stallOn t p 4 (some (true, q))

/-- The address after instruction `pc`, and the loops then open: at the end of an open loop's body the loop returns or
completes, the inner before the outer (R173, R174). -/
def nextPc (pc : Nat) : List LoopRec → Nat × List LoopRec
  | [] => (pc + 1, [])
  | r :: l =>
    if r.stop = pc then
      if r.iter + 1 < r.count then (r.start, { r with iter := r.iter + 1 } :: l)
      else nextPc pc l
    else (pc + 1, r :: l)

/-- The instruction at `pc` has issued: the counter, the state and the next address. -/
def State.advance (s : State) (t p : Nat) : State :=
  let n := nextPc (s.rg (SEQ_STATE_PC t p)) (s.stn t p).loops
  let s := (s.wrs [(SEQ_STATE_STATE t p, 2), (SEQ_STATE_CAUSE t p, 0), (SEQ_STATE_PC t p, n.1)]).bump (SEQ_INSN t p)
  s.onStn t p fun v => { v with loops := n.2, mov := 0 }

/-- The instruction has issued and control goes to `pc`, with `loops` open. -/
def State.jump (s : State) (t p pc : Nat) (loops : List LoopRec) : State :=
  let s := (s.wrs [(SEQ_STATE_STATE t p, 2), (SEQ_STATE_CAUSE t p, 0), (SEQ_STATE_PC t p, pc)]).bump (SEQ_INSN t p)
  s.onStn t p fun v => { v with loops := loops, mov := 0 }

/-- Opcode of an instruction word (R155). -/
def opOf (w : Nat) : Nat := bits w 58 6

/-- Whether a sequencer issues: its state is RUN or STALL and STOP has not issued. -/
def State.seqRuns (s : State) (t p : Nat) : Bool :=
  (s.rg (SEQ_STATE_STATE t p) == 2 || s.rg (SEQ_STATE_STATE t p) == 3) && !(s.stn t p).stopIssued

/-- The instruction word at the program counter (R152). -/
def State.insn (s : State) (t p : Nat) : Nat := s.ldN (rowAddr t p 3 0 + 8 * s.rg (SEQ_STATE_PC t p)) 8

/-- Issues the next instruction of a station when `is` holds of its word: an uncorrectable word faults the slice (R135),
a corrected one is written back (R119). -/
def State.issue (s : State) (st : StId) (cyc : BitVec 23) (is : Nat → Bool) (k : Nat → State → State) : State :=
  let t := st.t.val
  let p := st.p.val
  let a := rowAddr t p 3 0 + 8 * s.rg (SEQ_STATE_PC t p)
  if ¬ s.seqRuns t p then s
  else
    let l := s.marks a 1
    let s := (s.eccStn t p 3 (s.rg (SEQ_STATE_PC t p) / 64) false
      (l.map fun e => (e.1 + s.rg (SEQ_STATE_PC t p) % 64, e.2))).writeBack a 1
    if l.any fun e => e.2 == 2 then s.seqFault t p 2 stUncorrectable cyc.toNat true true
    else if is (s.insn t p) then k (s.insn t p) s
    else s

/-- `is` for an opcode. -/
def isOp (op w : Nat) : Bool := opOf w == op

/-- Pointer `i`. -/
def State.ptr (s : State) (t p i : Nat) : Nat := s.rg (SEQ_PTR t p i)

/-- A pointer written, and whether it is dynamic (R169). -/
def State.setPtr (s : State) (t p i v : Nat) (dyn : Bool) : State :=
  s.wrs [(SEQ_PTR t p i, v), (SEQ_PTR_DYN t p i, b2n dyn)]

/-- A descriptor's cursor written: modulo SIZE when WRAP is set. -/
def State.setCursor (s : State) (t p d v : Nat) : State := s.wr (SEQ_DESC_WORD t p (8 * d + 3)) (v % 65536)

/-- A cursor advanced by `n` rows: modulo SIZE when WRAP is set. -/
def State.advCursor (s : State) (t p d n : Nat) : State :=
  let dd := s.desc t p d
  s.setCursor t p d (dOff dd (dCursor dd + n))

/-- Row offset of LDBIAS, LDCURVE, WCFG, PTR_LOAD, VLD and VST (R167). -/
def State.rowOffset (s : State) (t p w : Nat) : Nat :=
  dCursor (s.desc t p (bits w 52 3)) + (if bit w 51 then s.ptr t p (bits w 46 5) else 0)

/-- Reads the row of an R167 instruction: a dynamic offset out of bounds is a sequencer fault (R179), an empty slot
stalls, an uncorrectable word faults the slice, and otherwise `k` continues with the row. -/
def State.withRow (s : State) (t p cyc w : Nat) (k : List Byte → State → State) : State :=
  let d := s.desc t p (bits w 52 3)
  let o := s.rowOffset t p w
  if ¬ dOk d o then s.seqFault t p 0 stBadDescriptor cyc false false
  else
    match s.readOff t p d o with
    | (.ok l, s) => k l s
    | (.wait a b k, s) => s.stallOn t p 4 (some (false, a, b, k))
    | (.unc own, s) => s.uncRead t p cyc own d
    | (.gone, s) => s.seqFault t p 0 stBadDescriptor cyc false false

/-- ADV of an R167 instruction. -/
def State.rowAdv (s : State) (t p w n : Nat) : State :=
  if bit w 45 then s.advCursor t p (bits w 52 3) n else s

/-- Runs that have tiles still to issue. -/
def Stn.waiting (v : Stn) : List Run := v.issuing.toList ++ v.queued.toList

/-- TILE fields (R161). -/
def tAd (w : Nat) : Nat := bits w 55 3
def tWd (w : Nat) : Nat := bits w 52 3
def tOd (w : Nat) : Nat := bits w 49 3
def tPre (w : Nat) : Nat := bits w 47 2
def tDst (w : Nat) : Nat := bits w 45 2
def tCurve (w : Nat) : Nat := bits w 42 3
def tOfmt (w : Nat) : Nat := bits w 38 4
def tForm (w : Nat) : Nat := bits w 36 2
def tGrp (w : Nat) : Nat := bits w 34 2
def tAsc (w : Nat) : Bool := bit w 33
def tTd (w : Nat) : Bool := bit w 32
def tTw (w : Nat) : Bool := bit w 31
def tKb (w : Nat) : Nat := bits w 21 10
def tT (w : Nat) : Nat := bits w 9 12
def tPd (w : Nat) : Nat := bits w 6 3
def tBsel (w : Nat) : Nat := bits w 5 1
def tTa (w : Nat) : Bool := bit w 4
def tRela (w : Nat) : Bool := bit w 3
def tRelw (w : Nat) : Bool := bit w 2

/-- A drain into V8 to V15 is outstanding (R198). -/
def Stn.lanesBusy (v : Stn) : Bool :=
  v.waiting.any (fun r => tDst r.word == 3) || v.tiles.any (fun r => tDst r.run.word == 3)

/-- Rows of an operand tile (R159): lanes times K times bits over 4096. -/
def tileRows (lanes k nbits : Nat) : Nat := lanes * k * nbits / 4096

/-- Logical rows and columns of a form (R72). -/
def formM (f : Nat) : Nat := 32 / 2 ^ f
def formN (f : Nat) : Nat := 32 * 2 ^ f

/-- Rows that each tile of a run takes of its activation, weight, output and preload descriptors (R159). -/
def Run.aRows (r : Run) : Nat := tileRows (formM (tForm r.word)) (32 * tKb r.word) (dBits r.ad)
def Run.wRows (r : Run) : Nat := tileRows (formN (tForm r.word)) (32 * tKb r.word) (dBits r.wd)
def oRows (w : Nat) : Nat := if tDst w = 0 then 8 else fmtBits (tOfmt w) / 4

/-- Whether every row offset of a run over a descriptor is in bounds (R162, R179). -/
def runOk (d : List Nat) (n rows : Nat) : Bool := dWrap d || decide (dCursor d + (n - 1) * dAdv d + rows ≤ dSize d)

/-- The descriptors a run advances, each once: AD, WD, OD unless DST is 3, PD when PRE is 2. -/
def tileDescs (win : Bool) (w : Nat) : List Nat :=
  ([tAd w, tWd w] ++ (if tDst w = 3 then [] else [tOd w]) ++ (if !win && tPre w == 2 then [tPd w] else [])).eraseDups

/-- A run issues (R161, R163, R201): copies of its descriptors, cursors and OPOS advanced, queued behind the issuing run. -/
def State.tile (s : State) (t p cyc : Nat) (win : Bool) (w : Nat) : State :=
  let v := s.stn t p
  if v.queued.isSome then s.stall t p 1
  else
    let r : Run := { no := v.runs + 1, word := w, ad := s.desc t p (tAd w), wd := s.desc t p (tWd w)
                     od := s.desc t p (tOd w), pd := s.desc t p (tPd w), wc := if win then v.wcfg.get (tPd w) [] else []
                     opos := s.rg (WIN_OPOS t p (tPd w)), next := v.resume, reads := v.resumeReads
                     ck := { s.capture t p with atRun := true } }
    let ok := (win || runOk r.ad (tT w) r.aRows) && runOk r.wd (tT w) r.wRows &&
      (tDst w == 3 || runOk r.od (tT w) (oRows w)) && (win || tPre w != 2 || runOk r.pd (tT w) 8)
    if ¬ ok then s.seqFault t p 0 stBadDescriptor cyc false false
    else
      let s := (tileDescs win w).foldl (fun s d => s.advCursor t p d (tT w * dAdv (s.desc t p d))) s
      let s := if win then
          (s.wr (WIN_OPOS t p (tPd w)) (r.opos + 32 * tT w)).wr (VEC_STATE_WIN_BUSY t p) 1
        else s
      let s := s.onStn t p fun v =>
        let v := { v with runs := v.runs + 1, resume := 0, resumeReads := [] }
        if v.issuing.isSome then { v with queued := some r } else { v with issuing := some r }
      s.advance t p

/-! ## Meanings -/

/-- NOP (R155). -/
def execNop (st : StId) (cyc : BitVec 23) (s : State) : Res :=
  .next (s.issue st cyc (isOp 0x00) fun _ s => s.advance st.t.val st.p.val)

/-- TILE (R161, R163). -/
def execTile (st : StId) (cyc : BitVec 23) (s : State) : Res :=
  .next (s.issue st cyc (isOp 0x01) fun w s => s.tile st.t.val st.p.val cyc.toNat false w)

/-- TILEW (R161, R201). -/
def execTilew (st : StId) (cyc : BitVec 23) (s : State) : Res :=
  .next (s.issue st cyc (isOp 0x02) fun w s => s.tile st.t.val st.p.val cyc.toNat true w)

/-- LDBIAS into the register BSEL, once no unswapped tile names it (R168). -/
def State.ldbias (s : State) (t p cyc w : Nat) : State :=
  let b := bits w 55 1
  if (s.stn t p).waiting.any fun r => tPre r.word == 1 && tBsel r.word == b then s.stall t p 8
  else s.withRow t p cyc w fun l s =>
    ((s.onStn t p fun v => { v with bias := v.bias.set b (l.take 128) [] }).rowAdv t p w 1).advance t p

/-- LDBIAS (R168). -/
def execLdbias (st : StId) (cyc : BitVec 23) (s : State) : Res :=
  .next (s.issue st cyc (isOp 0x03) fun w s => s.ldbias st.t.val st.p.val cyc.toNat w)

/-- LDCURVE starts a curve-load of nine rows (R110, R168); the slot keeps its table until the new one replaces it. -/
def State.ldcurve (s : State) (t p cyc w : Nat) : State :=
  let d := s.desc t p (bits w 52 3)
  let o := s.rowOffset t p w
  if (s.stn t p).curveLoad.isSome then s.stall t p 9
  else if ¬ (dOk d o && dOk d (o + 8)) then s.seqFault t p 0 stBadDescriptor cyc false false
  else
    let k := bits w 55 2
    let s := s.onStn t p fun v => { v with curveLoad := some { slot := k, desc := d, off := o, runs := v.runs } }
    ((s.wr (CURVE_STATE_LOADING t p) (2 ^ k)).rowAdv t p w 9).advance t p

/-- LDCURVE (R110, R168). -/
def execLdcurve (st : StId) (cyc : BitVec 23) (s : State) : Res :=
  .next (s.issue st cyc (isOp 0x04) fun w s => s.ldcurve st.t.val st.p.val cyc.toNat w)

/-- WCFG loads a window configuration, or faults the slice when it is invalid (R168, R199, R200). -/
def State.wcfg (s : State) (t p cyc w : Nat) : State :=
  let k := bits w 55 3
  if (s.stn t p).waiting.any fun r => opOf r.word == 2 && tPd r.word == k then s.stall t p 8
  else s.withRow t p cyc w fun l s =>
    let c := WinCfg.ofRow l
    let nd := match (s.stn t p).slice with
      | some sl => sl.nDesc
      | none => 8
    match c.invalid (s.desc t p (c.lbd % 8)) nd with
    | some cause =>
      (s.firstLog (WIN_FAULT_VALID t p) (WIN_FAULT_MULTI t p)
        [(WIN_FAULT_CAUSE t p, cause), (WIN_FAULT_WC t p, k), (WIN_FAULT_PC t p, s.rg (SEQ_STATE_PC t p))]).faultSlice
        t p stBadDescriptor cyc false false 0
    | none =>
      let s := (s.onStn t p fun v => { v with wcfg := v.wcfg.set k l [] }).wr (WIN_OPOS t p k) c.opos
      (s.rowAdv t p w 1).advance t p

/-- WCFG (R168, R199). -/
def execWcfg (st : StId) (cyc : BitVec 23) (s : State) : Res :=
  .next (s.issue st cyc (isOp 0x05) fun w s => s.wcfg st.t.val st.p.val cyc.toNat w)

/-- WAITP (R176). -/
def State.waitp (s : State) (t p w : Nat) : State :=
  match s.sideOf t p (bits w 56 2) with
  | none => s.stall t p 4
  | some q =>
    if s.present q.1 q.2 (bits w 50 6) == bit w 49 then s.advance t p
    else if bit w 49 then (s.stallSlot q.1 q.2 (bits w 50 6) false).stall t p 4 else s.stall t p 4

/-- WAITP (R176). -/
def execWaitp (st : StId) (cyc : BitVec 23) (s : State) : Res :=
  .next (s.issue st cyc (isOp 0x08) fun w s => s.waitp st.t.val st.p.val w)

/-- REL: one release, null when the bit is already 0 (R176). -/
def State.rel (s : State) (t p w : Nat) : State :=
  let side := bits w 56 2
  let k := bits w 50 6
  match s.sideOf t p side with
  | none => s.advance t p
  | some q =>
    let s :=
      if s.present q.1 q.2 k ∨ s.logged t p false side k then s.sigRelease t p side k (s.stn t p).runs none true
      else s.bump (SEQ_NULL_SIG t p)
    s.advance t p

/-- REL (R176). -/
def execRel (st : StId) (cyc : BitVec 23) (s : State) : Res :=
  .next (s.issue st cyc (isOp 0x09) fun w s => s.rel st.t.val st.p.val w)

/-- SETP: the bit is set after the station's earlier rows for the slot have been written, null when already 1 (R176). -/
def State.setp (s : State) (t p w : Nat) : State :=
  let side := bits w 56 2
  let k := bits w 50 6
  if side ≠ 0 ∧ (s.underway t p (side == 2)).any (fun r => r.slot == k) then s.stall t p 7
  else
    match s.sideOf t p side with
    | none => s.advance t p
    | some q =>
      let s :=
        if s.present q.1 q.2 k ∧ ¬ s.logged t p true side k then s.bump (SEQ_NULL_SIG t p)
        else s.sigSet t p side k (s.stn t p).runs none
      s.advance t p

/-- SETP (R176). -/
def execSetp (st : StId) (cyc : BitVec 23) (s : State) : Res :=
  .next (s.issue st cyc (isOp 0x0A) fun w s => s.setp st.t.val st.p.val w)

/-- A terrace flag set (R177). -/
def State.setTflag (s : State) (t k : Nat) : State :=
  if bit (s.rg (TFLAG_STATE_FLAGS t)) k then s else s.wr (TFLAG_STATE_FLAGS t) (s.rg (TFLAG_STATE_FLAGS t) + 2 ^ k)

/-- The station's rows on its links that its drain wrote, or that VST and MOVR wrote, not yet delivered. -/
def State.onLinks (s : State) (t p : Nat) (drain : Bool) : Bool :=
  (s.underway t p false ++ s.underway t p true).any fun r => r.drain == drain

/-- Whether tiles of a station are still to set their presence bit or to be written (R154). -/
def State.tilesOut (s : State) (t p : Nat) : Bool :=
  !(s.stn t p).waiting.isEmpty || !(s.stn t p).tiles.isEmpty || s.onLinks t p true

/-- BAR: earlier tiles (DR) and stores over links (VS) must have completed; stores in own memory and in the terrace store
have when they issue (R177). -/
def State.bar (s : State) (t p w : Nat) : State :=
  if (bit w 57 && s.tilesOut t p) || (bit w 56 && s.onLinks t p false) then s.stall t p 5
  else (if bit w 54 then s.setTflag t (bits w 48 5) else s).advance t p

/-- BAR (R177). -/
def execBar (st : StId) (cyc : BitVec 23) (s : State) : Res :=
  .next (s.issue st cyc (isOp 0x0B) fun w s => s.bar st.t.val st.p.val w)

/-- WAITF (R177). -/
def State.waitf (s : State) (t p w : Nat) : State :=
  if bit (s.rg (TFLAG_STATE_FLAGS t)) (bits w 48 5) then s.advance t p else s.stall t p 6

/-- WAITF (R177). -/
def execWaitf (st : StId) (cyc : BitVec 23) (s : State) : Res :=
  .next (s.issue st cyc (isOp 0x0C) fun w s => s.waitf st.t.val st.p.val w)

/-- LOOP: a dynamic count of 0 runs the body no times, one above MAX faults the slice (R173). -/
def State.loop (s : State) (t p cyc w : Nat) : State :=
  let pc := s.rg (SEQ_STATE_PC t p)
  let n := if bit w 55 then s.ptr t p (bits w 46 5) else bits w 0 16
  let ls := (s.stn t p).loops
  if bit w 55 ∧ n > bits w 0 16 then s.seqFault t p 1 stBadDescriptor cyc false false
  else if n = 0 then
    let r := nextPc (bits w 32 13) ls
    s.jump t p r.1 r.2
  else s.jump t p (pc + 1) ({ lvl := bits w 56 2, start := pc + 1, stop := bits w 32 13, count := n } :: ls)

/-- LOOP (R173). -/
def execLoop (st : StId) (cyc : BitVec 23) (s : State) : Res :=
  .next (s.issue st cyc (isOp 0x10) fun w s => s.loop st.t.val st.p.val cyc.toNat w)

/-- The counter of the open loop of a level. -/
def Stn.counter (v : Stn) (lvl : Nat) : Nat :=
  match v.loops.find? fun r => r.lvl == lvl with
  | some r => r.iter
  | none => 0

/-- A SKIP condition (R175). -/
def State.skipCond (s : State) (t p w : Nat) : Bool :=
  let imm := bits w 0 16
  let ps := s.ptr t p (bits w 46 5)
  let cnt := (s.stn t p).counter (bits w 40 2)
  match bits w 54 4 with
  | 0 => true
  | 1 => ps == imm
  | 2 => ps != imm
  | 3 => decide (ps < imm)
  | 4 => cnt == imm
  | 5 => cnt != imm
  | 6 => bit (s.rg TIDE_NUM) (imm % 64)
  | 7 => s.rg (SEQ_PHASE_PHASE t p) == imm
  | 8 => s.rg (SEQ_PHASE_PHASE t p) != imm
  | 9 => s.on (VEC_STATE_FLAG t p)
  | 10 => !s.on (VEC_STATE_FLAG t p)
  | _ => false

/-- SKIP (R175). DESIGN CHOICE: one that stands at the END of a loop and skips leaves that loop. -/
def State.skip (s : State) (t p w : Nat) : State :=
  if s.skipCond t p w then
    s.jump t p (s.rg (SEQ_STATE_PC t p) + 1 + bits w 32 8)
      ((s.stn t p).loops.filter fun r => r.stop != s.rg (SEQ_STATE_PC t p))
  else s.advance t p

/-- SKIP (R175). -/
def execSkip (st : StId) (cyc : BitVec 23) (s : State) : Res :=
  .next (s.issue st cyc (isOp 0x11) fun w s => s.skip st.t.val st.p.val w)

/-- `is` for a PTR function. -/
def isPtr (f w : Nat) : Bool := opOf w == 0x12 && bits w 55 3 == f

/-- PTR FUNC 0 (R169). -/
def execPtrSet (st : StId) (cyc : BitVec 23) (s : State) : Res :=
  .next (s.issue st cyc (isPtr 0) fun w s =>
    (s.setPtr st.t.val st.p.val (bits w 40 5) (bits w 0 16) false).advance st.t.val st.p.val)

/-- PTR FUNC 1: plus IMM modulo 2^16; dynamic when PSEL is (R169). -/
def State.ptrAdd (s : State) (t p w : Nat) : State :=
  (s.setPtr t p (bits w 40 5) ((s.ptr t p (bits w 46 5) + bits w 0 16) % 65536)
    (s.on (SEQ_PTR_DYN t p (bits w 46 5)))).advance t p

/-- PTR FUNC 1 (R169). -/
def execPtrAdd (st : StId) (cyc : BitVec 23) (s : State) : Res :=
  .next (s.issue st cyc (isPtr 1) fun w s => s.ptrAdd st.t.val st.p.val w)

/-- PTR FUNC 2: plus IMM[7:0] modulo IMM[15:8] + 1 (R169). -/
def State.ptrAddMod (s : State) (t p w : Nat) : State :=
  (s.setPtr t p (bits w 40 5) ((s.ptr t p (bits w 46 5) + bits w 0 8) % (bits w 8 8 + 1))
    (s.on (SEQ_PTR_DYN t p (bits w 46 5)))).advance t p

/-- PTR FUNC 2 (R169). -/
def execPtrAddMod (st : StId) (cyc : BitVec 23) (s : State) : Res :=
  .next (s.issue st cyc (isPtr 2) fun w s => s.ptrAddMod st.t.val st.p.val w)

/-- PTR FUNC 3: the 16-bit word IMM[7:0] of a row; the pointer becomes dynamic (R169). -/
def State.ptrLoad (s : State) (t p cyc w : Nat) : State :=
  s.withRow t p cyc w fun l s => s.setPtr t p (bits w 40 5) (leAt l (2 * bits w 0 8) 2) true |>.advance t p

/-- PTR FUNC 3 (R169). -/
def execPtrLoad (st : StId) (cyc : BitVec 23) (s : State) : Res :=
  .next (s.issue st cyc (isPtr 3) fun w s => s.ptrLoad st.t.val st.p.val cyc.toNat w)

/-- `is` for a SETD function. -/
def isSetd (f w : Nat) : Bool := opOf w == 0x13 && bits w 55 3 == f

/-- SETD FUNC 0 (R170). -/
def execSetdCursor (st : StId) (cyc : BitVec 23) (s : State) : Res :=
  .next (s.issue st cyc (isSetd 0) fun w s =>
    (s.setCursor st.t.val st.p.val (bits w 52 3) (bits w 0 16)).advance st.t.val st.p.val)

/-- SETD FUNC 1 (R170). -/
def execSetdCursorPtr (st : StId) (cyc : BitVec 23) (s : State) : Res :=
  .next (s.issue st cyc (isSetd 1) fun w s =>
    (s.setCursor st.t.val st.p.val (bits w 52 3) (s.ptr st.t.val st.p.val (bits w 46 5))).advance st.t.val st.p.val)

/-- SETD FUNC 2 (R170). -/
def execSetdCursorAdd (st : StId) (cyc : BitVec 23) (s : State) : Res :=
  .next (s.issue st cyc (isSetd 2) fun w s =>
    (s.advCursor st.t.val st.p.val (bits w 52 3) (bits w 0 16)).advance st.t.val st.p.val)

/-- The descriptors of the slice's image. -/
def Stn.imageDescs (v : Stn) : List Nat := match v.slice with
  | some sl => sl.descs
  | none => []

/-- SETD FUNC 3: CURSOR and BASE take their image values (R170). -/
def State.setdRestore (s : State) (t p w : Nat) : State :=
  let d := bits w 52 3
  let im := (s.stn t p).imageDescs
  (s.wrs [(SEQ_DESC_WORD t p (8 * d + 3), im.getD (8 * d + 3) 0), (SEQ_DESC_WORD t p (8 * d + 4), im.getD (8 * d + 4) 0)]).advance
    t p

/-- SETD FUNC 3 (R170). -/
def execSetdRestore (st : StId) (cyc : BitVec 23) (s : State) : Res :=
  .next (s.issue st cyc (isSetd 3) fun w s => s.setdRestore st.t.val st.p.val w)

/-- SETD FUNC 4: BASE plus the sign-extended IMM (R170). -/
def State.setdBaseAdd (s : State) (t p w : Nat) : State :=
  let d := bits w 52 3
  (s.wr (SEQ_DESC_WORD t p (8 * d + 4)) (toBits 32 (s.rg (SEQ_DESC_WORD t p (8 * d + 4)) + sext 16 (bits w 0 16)))).advance t p

/-- SETD FUNC 4 (R170). -/
def execSetdBaseAdd (st : StId) (cyc : BitVec 23) (s : State) : Res :=
  .next (s.issue st cyc (isSetd 4) fun w s => s.setdBaseAdd st.t.val st.p.val w)

/-- The log entry of a set by VST or MOVR. -/
def State.portSig (s : State) (t p : Nat) : Sig := { run := (s.stn t p).runs }

/-- The source slot of MOVR's row at offset `o` is released when it is the last row read from the slot (R171). -/
def State.movRel (s : State) (t p : Nat) (d : List Nat) (o : Nat) (lastRow : Bool) : State :=
  match s.rowRef t p d o with
  | some r =>
    if r.slot.isSome ∧ (r.last ∨ lastRow) then
      s.sigRelease t p (if dSrc d = 3 then 0 else dSrc d) (r.slot.getD 0) (s.stn t p).runs none false
    else s
  | none => s

/-- The sequencer waits in a MOVR that has `n` rows of `w` still to copy. -/
def State.movWait (s : State) (t p w n : Nat) : State := s.onStn t p fun v => { v with mov := bits w 44 8 - n }

/-- MOVR's rows from row N − `n`, one at a time in order, each waiting on its slots and on a link credit (R171, R182): the
state, and whether every row was copied. -/
def State.movRows (s : State) (t p cyc w : Nat) (ds dd : List Nat) : Nat → State × Bool
  | 0 => (s, true)
  | n + 1 =>
    let i := bits w 44 8 - (n + 1)
    let so := dCursor ds + i
    let o := dCursor dd + i
    match s.writeWait t p dd o with
    | some q => ((s.movWait t p w (n + 1)).stallWrite t p q, false)
    | none =>
      if s.creditWait t p dd then ((s.movWait t p w (n + 1)).stall t p 7, false)
      else
        match s.readOff t p ds so with
        | (.wait a b k, s) => ((s.movWait t p w (n + 1)).stallOn t p 4 (some (false, a, b, k)), false)
        | (.unc own, s) => (s.uncRead t p cyc own ds, false)
        | (.gone, s) => (s.seqFault t p 0 stBadDescriptor cyc false false, false)
        | (.ok l, s) =>
          let s := s.putOff t p dd o l (bit w 43) false (s.portSig t p)
          let s := if bit w 42 then s.movRel t p ds so (n == 0) else s
          s.movRows t p cyc w ds dd n

/-- MOVR (R171): a row that must wait makes the sequencer wait, and the copy goes on from it. -/
def State.movr (s : State) (t p cyc w : Nat) : State :=
  let a := bits w 55 3
  let b := bits w 52 3
  let n := bits w 44 8
  let ds := s.desc t p a
  let dd := s.desc t p b
  if ¬ (dOk ds (dCursor ds + n - 1) && dOk dd (dCursor dd + n - 1)) then s.seqFault t p 0 stBadDescriptor cyc false false
  else
    let r := s.movRows t p cyc w ds dd (n - (s.stn t p).mov)
    if r.2 then (((r.1.advCursor t p a n).advCursor t p b n)).advance t p else r.1

/-- MOVR (R171). -/
def execMovr (st : StId) (cyc : BitVec 23) (s : State) : Res :=
  .next (s.issue st cyc (isOp 0x14) fun w s => s.movr st.t.val st.p.val cyc.toNat w)

/-- A vector register (R188). -/
def State.vreg (s : State) (t p i : Nat) : List Byte := (s.stn t p).vregs.get i (zeros 512)

def State.setVreg (s : State) (t p i : Nat) (b : List Byte) : State :=
  s.onStn t p fun v => { v with vregs := v.vregs.set i (fitTo 512 b) (zeros 512) }

/-- VLD: one row into a vector register; V8 to V15 wait for a drain into the lanes (R172, R198). -/
def State.vld (s : State) (t p cyc w : Nat) : State :=
  if 8 ≤ bits w 41 4 ∧ (s.stn t p).lanesBusy then s.stall t p 3
  else s.withRow t p cyc w fun l s => ((s.setVreg t p (bits w 41 4) l).rowAdv t p w 1).advance t p

/-- VLD (R172). -/
def execVld (st : StId) (cyc : BitVec 23) (s : State) : Res :=
  .next (s.issue st cyc (isOp 0x18) fun w s => s.vld st.t.val st.p.val cyc.toNat w)

/-- VST: a vector register to one row, setting the slot's bit after its last row; it waits for a full slot and for a link
credit (R172, R182). -/
def State.vst (s : State) (t p cyc w : Nat) : State :=
  let d := s.desc t p (bits w 52 3)
  let o := s.rowOffset t p w
  if 8 ≤ bits w 41 4 ∧ (s.stn t p).lanesBusy then s.stall t p 3
  else if ¬ dOk d o then s.seqFault t p 0 stBadDescriptor cyc false false
  else
    match s.writeWait t p d o with
    | some q => s.stallWrite t p q
    | none =>
      if s.creditWait t p d then s.stall t p 7
      else
        ((s.putOff t p d o (s.vreg t p (bits w 41 4)) (bit w 40) false (s.portSig t p)).rowAdv t p w 1).advance t p

/-- VST (R172). -/
def execVst (st : StId) (cyc : BitVec 23) (s : State) : Res :=
  .next (s.issue st cyc (isOp 0x19) fun w s => s.vst st.t.val st.p.val cyc.toNat w)

/-- Whether work of a slice is outstanding after its STOP (R154). -/
def State.outstanding (s : State) (t p : Nat) : Bool := s.tilesOut t p || s.onLinks t p false

/-- STOP: the sequencer issues nothing more in the tide (R154); it stalls while work is outstanding (R182). DESIGN CHOICE:
CAUSE then reads 0, because no code of the field names this wait. -/
def State.stopSeq (s : State) (t p : Nat) : State :=
  let s := ((s.onStn t p fun v => { v with stopIssued := true }).wrs
    [(SEQ_STATE_STATE t p, 2), (SEQ_STATE_CAUSE t p, 0), (SEQ_STATE_PC t p, s.rg (SEQ_STATE_PC t p) + 1)]).bump (SEQ_INSN t p)
  if s.outstanding t p then s.stall t p 0 else s

/-- STOP (R154). -/
def execStop (st : StId) (cyc : BitVec 23) (s : State) : Res :=
  .next (s.issue st cyc (isOp 0x3F) fun _ s => s.stopSeq st.t.val st.p.val)

/-- STOP has issued and nothing of the slice is outstanding (R154). -/
def State.idleStn (s : State) (t p : Nat) : Bool := (s.stn t p).stopIssued && !s.outstanding t p

/-- The slice ends: its end cycle is recorded. A replay that ends after Z counts as not replayed (R54, R154). -/
def State.sliceEnd (s : State) (t p cyc : Nat) : State :=
  let v := s.stn t p
  if ¬ (s.idleStn t p && v.ended.isNone && (s.rg (SEQ_STATE_STATE t p) == 2 || s.rg (SEQ_STATE_STATE t p) == 3)) then s
  else
    let late := match v.slice with
      | some sl => p == 16 && s.rg (TAKE_STATUS_PHASE t) == 1 && decide (s.zOf sl < cyc)
      | none => false
    if late then s.faultSlice t p stTimeout cyc false false 0
    else
      let s := s.wrs [(SEQ_STATE_STATE t p, 4), (SEQ_STATE_CAUSE t p, 0), (SEQ_END_CYCLE t p, cyc),
        (SEQ_MAXEND_CYCLE t p, max cyc (s.rg (SEQ_MAXEND_CYCLE t p))), (VEC_STATE_WIN_BUSY t p, 0)]
      s.onStn t p fun v => { v with ended := some cyc }

/-- A slice ends the cycle after all its work has completed (R154). -/
def execSliceEnd (st : StId) (cyc : BitVec 23) (s : State) : Res :=
  .next (s.sliceEnd st.t.val st.p.val cyc.toNat)

/-- A write of `TFLAG.FORCE` sets the named flags (R187). -/
def State.tflagForce (s : State) (t v : Nat) : State :=
  (List.range 32).foldl (fun s k => if bit v k then s.setTflag t k else s) s

/-- TFLAG.FORCE (R187). -/
def execTflagForce (t : Fin 12) (v : BitVec 32) (s : State) : Res := .next (s.tflagForce t.val v.toNat)

/-- A write of `SEQ.PHASE`, in force from the next boundary (R187). -/
def execSeqPhaseWrite (st : StId) (v : BitVec 16) (s : State) : Res :=
  .next (s.onStn st.t.val st.p.val fun x => { x with phaseNext := some v.toNat })

end Sys2Proof.Machine
end

