-- ==== Sys2Proof/Machine/Array.lean ====
section
/-! DEFINITION. The matrix array (chapters 3 and 4): operands of a tile, group partials and rescale, the checksum row and
column, the drain with its curve and conversion, repair, and curve-loads. -/

namespace Sys2Proof.Machine

/-- Element `e` of a byte string of `nbits`-bit elements (R62). -/
def elemOf (nbits : Nat) (b : Array Byte) (e : Nat) : Nat :=
  if nbits = 4 then
    let v := (b.getD (e / 2) 0#8).toNat
    if e % 2 = 0 then v % 16 else v / 16
  else if nbits = 16 then (b.getD (2 * e) 0#8).toNat + 256 * (b.getD (2 * e + 1) 0#8).toNat
  else (b.getD e 0#8).toNat

/-- Linear index of activation `(m, k)` in a form with `mm` logical rows (R62, R74); TA exchanges lane and position. -/
def actIdx (mm : Nat) (ta : Bool) (m k : Nat) : Nat :=
  if ta then (k / 32 * 32 + m) * 32 + k % 32
  else
    let per := 1024 / mm
    k / per * 1024 + k % 32 * 32 + k % per / 32 * mm + m

/-- Linear index of weight `(k, j)` of segment `seg` among `segs` (R62, R75); TW exchanges lane and position. -/
def wgtIdx (nbits segs : Nat) (tw : Bool) (seg k j : Nat) : Nat :=
  if tw then (k / 32 * 32 + j) * 32 + k % 32
  else
    let kb := 4096 / (32 * nbits)
    (k / kb * segs + seg) * (4096 / nbits) + k % kb * 32 + j

/-- The group size of a code (R161). -/
def grpSize (g : Nat) : Nat := if g = 1 then 32 else if g = 2 then 64 else 128

/-- The value of an operand element: TABLE4 through its table (R92). -/
def operand (fmt : Nat) (tab : List Byte) (c : Nat) : Fp :=
  if fmt = 4 then Fp.ofInt (sext 8 (tab.getD c 0#8).toNat) else decFmt fmt c

/-- Whether a pair of formats is an integer mode (R95). -/
def intMode (a w : Nat) : Bool := (a == 0 || a == 3) && (w == 0 || w == 3 || w == 4)

def fzero : Fp := .num false 0 0

/-- The exact sum of products of two operand lists: a group partial (R95 to R97). -/
def dotExact (a w : List Fp) : Fp := (a.zip w).foldl (fun s x => (x.1.fma x.2 s)) fzero

/-- A group partial added into the accumulator (R103). DESIGN CHOICE: a zero partial gives r = +0 in the FP8 modes too, whatever
the sign of the scales; the rule says so of an integer zero. -/
def rescale (acc partialSum sw sa : Fp) : Fp :=
  let sc := (sw.mul sa).rnd 24
  let r := if partialSum.isZero && sc.isFin then fzero else (partialSum.mul sc).rnd 24
  (acc.add r).rnd 24

/-- Sum in the checker's 40-bit format, in order (R81). -/
def sum40 (l : List Fp) : Fp := l.foldl (fun s x => (s.add x).rnd 40) fzero
def sumUp (l : List Fp) : Fp := l.foldl (fun s x => (s.add x.abs).rndUp) fzero

/-- Sum of products in the checker's format, and its magnitude lane (R81). DESIGN CHOICE: the rounded additions of the
checker and of the checksum cells go by rising index; the spec gives no order. -/
def dot40 (a b : List Fp) : Fp := (a.zip b).foldl (fun s x => (s.add ((x.1.mul x.2).rnd 40)).rnd 40) fzero
def dotUp (a b : List Fp) : Fp := (a.zip b).foldl (fun s x => (s.add ((x.1.abs.mul x.2.abs).rndUp)).rndUp) fzero

/-- The operands of one tile: activation rows by physical row and weight columns by segment and column, each over k, cut
into groups; scales by group. -/
structure TileOps where
  g : Nat
  groups : Nat
  act : List (List Fp)
  wgt : List (List (List Fp))
  sa : List (List Fp)
  sw : List (List (List Fp))

def TileOps.a (x : TileOps) (i g : Nat) : List Fp := slice (x.act.getD i []) (g * x.g) x.g
def TileOps.w (x : TileOps) (seg j g : Nat) : List Fp := slice ((x.wgt.getD seg []).getD j []) (g * x.g) x.g
def TileOps.saOf (x : TileOps) (i g : Nat) : Fp := (x.sa.getD g []).getD i (.num false 1 0)
def TileOps.swOf (x : TileOps) (seg j g : Nat) : Fp := ((x.sw.getD g []).getD seg []).getD j (.num false 1 0)

/-- Upsets of one group partial. -/
def hit (l : List Upset) (g row col : Nat) : Int :=
  l.foldl (fun s u => if u.g = g ∧ u.row = row ∧ u.col = col then s + u.d else s) 0

/-- The group partial of a cell (R95 to R97), with the upsets that struck it. -/
def TileOps.partials (x : TileOps) (up : List Upset) (mm g : Nat) : List (List Fp) :=
  (List.range 32).map fun i => (List.range 32).map fun j =>
    let p := dotExact (x.a i g) (x.w (i / mm) j g)
    let d := hit up g i j
    if d = 0 then p else p.add (Fp.ofInt d)

/-- Transposes a square list of lists. -/
def column (m : List (List Fp)) (j : Nat) : List Fp := m.map fun r => r.getD j fzero

/-- Sum of integers held as values. -/
def intSum (l : List Fp) : Int := l.foldl (fun s x => s + x.floor) 0

/-- The rows and columns whose group check fails in group `g` (R80, R84), in 40-bit integer arithmetic. -/
def TileOps.groupCheck (x : TileOps) (up : List Upset) (mm g : Nat) (pt : List (List Fp)) : List Nat × List Nat :=
  let ks := List.range x.g
  let m40 (v : Int) : Int := v % (2 ^ 40 : Nat)
  let rows := (List.range 32).filter fun i =>
    let y := ks.map fun k => Fp.ofInt (intSum ((List.range 32).map fun j => (x.w (i / mm) j g).getD k fzero))
    m40 (intSum (pt.getD i [])) ≠ m40 ((dotExact (x.a i g) y).floor + hit up g i 32)
  let cols := if mm ≠ 32 then [] else (List.range 32).filter fun j =>
    let xs := ks.map fun k => Fp.ofInt (intSum ((List.range 32).map fun i => (x.a i g).getD k fzero))
    m40 (intSum (column pt j)) ≠ m40 ((dotExact xs (x.w 0 j g)).floor + hit up g 32 j)
  (rows, cols)

/-- The wide value and magnitude lane of checksum-row cell `j` (R80, R81): groups in order, from the preload. -/
def TileOps.colWide (x : TileOps) (pre : Fp × Fp) (j : Nat) : Fp × Fp :=
  (List.range x.groups).foldl (fun acc g =>
    let xs := (List.range x.g).map fun k => dot40 ((List.range 32).map fun i => x.saOf i g)
      ((List.range 32).map fun i => (x.a i g).getD k fzero)
    let xm := (List.range x.g).map fun k => dotUp ((List.range 32).map fun i => x.saOf i g)
      ((List.range 32).map fun i => (x.a i g).getD k fzero)
    ((acc.1.add (((x.swOf 0 j g).mul (dot40 xs (x.w 0 j g))).rnd 40)).rnd 40,
     (acc.2.add (((x.swOf 0 j g).abs.mul (dotUp xm (x.w 0 j g))).rndUp)).rndUp)) pre

/-- The wide value and magnitude lane of checksum-column cell `i`. -/
def TileOps.rowWide (x : TileOps) (mm : Nat) (pre : Fp × Fp) (i : Nat) : Fp × Fp :=
  let seg := i / mm
  (List.range x.groups).foldl (fun acc g =>
    let ys := (List.range x.g).map fun k => dot40 ((List.range 32).map fun j => x.swOf seg j g)
      ((List.range 32).map fun j => (x.w seg j g).getD k fzero)
    let ym := (List.range x.g).map fun k => dotUp ((List.range 32).map fun j => x.swOf seg j g)
      ((List.range 32).map fun j => (x.w seg j g).getD k fzero)
    ((acc.1.add (((x.saOf i g).mul (dot40 (x.a i g) ys)).rnd 40)).rnd 40,
     (acc.2.add (((x.saOf i g).abs.mul (dotUp (x.a i g) ym)).rndUp)).rndUp)) pre

/-- The accumulators of a tile from its preload: BF16 adds product by product (R98), the others group by group (R103). -/
def TileOps.cells (x : TileOps) (bf : Bool) (mm : Nat) (pre : List (List Fp)) (pts : List (List (List Fp))) : List Nat :=
  ((List.range 32).map fun i => (List.range 32).map fun j =>
    let p0 := (pre.getD i []).getD j fzero
    encW (if bf then ((x.a i 0).zip (x.w (i / mm) j 0)).foldl (fun acc y => (y.1.fma y.2 acc).rnd 24) p0
      else (List.range x.groups).foldl (fun acc g =>
        rescale acc (((pts.getD g []).getD i []).getD j fzero) (x.swOf (i / mm) j g) (x.saOf i g)) p0)).flatten

/-- The physical place of a logical row or column (R86). -/
def physOf (omitted i : Nat) : Nat := if i < omitted then i else i + 1

def State.rowOmit (s : State) (t p : Nat) : Nat :=
  if s.on (ARRAY_REPAIR_EN t p) then s.rg (ARRAY_REPAIR_ROW_OMIT t p) else s.rg (ARRAY_FUSE_ROW_OMIT t p)
def State.colOmit (s : State) (t p : Nat) : Nat :=
  if s.on (ARRAY_REPAIR_EN t p) then s.rg (ARRAY_REPAIR_COL_OMIT t p) else s.rg (ARRAY_FUSE_COL_OMIT t p)

/-- A tile's failed checks: logged, counted and raised (R83, R84). -/
def State.checksum (s : State) (t p cyc kind : Nat) (rows cols : List Nat) : State :=
  let low (l : List Nat) (om : Nat) : Nat := match l with
    | [] => 63
    | i :: _ => physOf om i
  let multi := 1 < rows.length || 1 < cols.length
  let was := s.on (ARRAY_CHK_LOG_VALID t p)
  let s := s.firstLog (ARRAY_CHK_LOG_VALID t p) (ARRAY_CHK_LOG_MULTI t p)
    [(ARRAY_CHK_LOG_KIND t p, kind), (ARRAY_CHK_LOG_ROW t p, low rows (s.rowOmit t p)),
     (ARRAY_CHK_LOG_COL t p, low cols (s.colOmit t p))]
  let s := if multi ∧ ¬ was then s.wr (ARRAY_CHK_LOG_MULTI t p) 1 else s
  let s := s.bump (ARRAY_CHK_COUNT t p) (rows.length + cols.length)
  s.faultSlice t p stChecksum cyc true true (s.word (ARRAY_CHK_LOG_VALID t p).off)

/-- The block index of the scale group at position `k` of an operand (R105): offset of the tile, logical lanes, segments
interleaved in the buffer. -/
def State.blockIdx (s : State) (t p : Nat) (d : List Nat) (off lanes segs nbits g k : Nat) : Nat :=
  let per := 1024 / (if segs = 1 then lanes else 32)
  let kb := 4096 / (32 * nbits)
  let row := if segs = 1 then k / per * (nbits / 4) else k / kb * segs
  let o := dOff d (off + row)
  let pk := o * 4096 / (lanes * nbits) + (if segs = 1 then k % per else k % kb)
  if dSrc d = 3 then
    let rows := s.rg (SLOT_CFG_ROWS t (s.home t p) (dSlot0 d))
    let k0 := dSlot0 d + pk / 128 * segs * (nbits / (if rows = 0 then 1 else rows))
    (s.stn t p).blk.get k0 0 + pk % 128 / g
  else dBase d + pk / g

/-- The expander channel that fills the ring of a SRC 3 descriptor (R287). -/
def State.chanOf (s : State) (t p : Nat) (d : List Nat) : Option Nat :=
  (List.range 2).find? fun c => s.on (EXP_CTRL_EN t p c) &&
    (let e := s.desc t p (s.rg (EXP_CTRL_DESC t p c)); dSrc e == 3 && dSlot0 e == dSlot0 d && dSrow e == dSrow d)

/-- A channel of a station changed. -/
def Stn.onChan (v : Stn) (c : Nat) (f : ExpChan → ExpChan) : Stn :=
  { v with chans := v.chans.set c (f (v.chans.getD c {})) }

/-- The expander channel whose ring a descriptor's scale buffer is (R289). -/
def State.scaleChan (s : State) (t p : Nat) (d : List Nat) : Option Nat := if dSrc d = 3 then s.chanOf t p d else none

/-- The row of a descriptor's scale buffer that holds the scales of group `b` (R100, R101); a SRC 3 buffer is a ring (R289).
DESIGN CHOICE: a scale row past the end of the memory that SMEM names wraps at 1 024; the spec gives no bound. -/
def State.scaleRowAt (s : State) (t p : Nat) (d : List Nat) (b segs seg : Nat) : Nat :=
  let x := (b + 2 ^ 32 - dBase d) % 2 ^ 32 / 7 * segs + seg
  let x := match s.scaleChan t p d with
    | some c => x % (s.rg (EXP_CTRL_SRING_M1 t p c) + 1)
    | none => x
  (dSrow d + x) % 1024

/-- One scale row of a descriptor's scale buffer, checked; a ring's channel learns which groups the port has read (R289). -/
def State.scaleRow (s : State) (t p : Nat) (d : List Nat) (b segs seg : Nat) : Option (List Byte) × State :=
  let row := s.scaleRowAt t p d b segs seg
  let s := match s.scaleChan t p d with
    | some c => s.onStn t p fun v => v.onChan c fun k => { k with sread := max k.sread (b + 1) }
    | none => s
  s.readRow t (s.home t p) (dSmem d) row

/-- The 32 scales of group `b` in a scale row. -/
def scalesIn (d : List Nat) (b : Nat) (row : List Byte) : List Fp :=
  let q := (b + 2 ^ 32 - dBase d) % 2 ^ 32 % 7
  (List.range 32).map fun l => decB (leAt row (64 * q + 2 * l) 2)

def tagIn (d : List Nat) (b : Nat) (row : List Byte) : Nat :=
  (row.getD (448 + (b + 2 ^ 32 - dBase d) % 2 ^ 32 % 7) 0#8).toNat

/-- The scales of one side of a group, by segment. -/
structure SideScales where
  sc : List (List Fp) := []
  /-- Skewed segments: side (1 weight), data tag, tag found. -/
  skews : List (Nat × Nat × Nat) := []
  /-- Uncorrectable scale rows: their descriptor and row. -/
  uncs : List (List Nat × Nat) := []

/-- The scales of a tile, group by group, up to the first group that has a skewed block or an uncorrectable scale row. -/
structure Scales where
  sa : List (List Fp) := []
  sw : List (List (List Fp)) := []
  skews : List (Nat × Nat × Nat) := []
  uncs : List (List Nat × Nat) := []

def Scales.good (x : Scales) : Bool := x.skews.isEmpty && x.uncs.isEmpty

/-- Reads one side's scales of a group, segment by segment, with the tag check of R106: every segment is compared. -/
def State.sideScales (s : State) (t p : Nat) (d : List Nat) (b segs side : Nat) :
    Nat → Nat → SideScales → SideScales × State
  | 0, _, x => (x, s)
  | n + 1, seg, x =>
    let at' := s.scaleRowAt t p d b segs seg
    match s.scaleRow t p d b segs seg with
    | (none, s) => s.sideScales t p d b segs side n (seg + 1) { x with uncs := x.uncs ++ [(d, at')] }
    | (some row, s) =>
      let x := if tagIn d b row = b % 256 then x else { x with skews := x.skews ++ [(side, b % 256, tagIn d b row)] }
      s.sideScales t p d b segs side n (seg + 1) { x with sc := x.sc ++ [scalesIn d b row] }

/-- Every group's scales in order, both sides, up to the first group with a skew or an uncorrectable row (R99 to R102,
R106). -/
def State.scales (s : State) (t p : Nat) (r : Run) (aOff wOff mm segs g : Nat) : Nat → Nat → Scales → Scales × State
  | 0, _, x => (x, s)
  | n + 1, gi, x =>
    let bw := s.blockIdx t p r.wd wOff (32 * segs) segs (dBits r.wd) g (gi * g)
    let sw := s.sideScales t p r.wd bw segs 1 segs 0 {}
    let ba := s.blockIdx t p r.ad aOff mm 1 (dBits r.ad) g (gi * g)
    let sa := if tAsc r.word then sw.2.sideScales t p r.ad ba 1 0 1 0 {}
      else ({ sc := [List.replicate 32 (.num false 1 0)] }, sw.2)
    let x := { x with skews := sw.1.skews ++ sa.1.skews, uncs := sw.1.uncs ++ sa.1.uncs }
    if x.good then
      let l := sa.1.sc.getD 0 []
      sa.2.scales t p r aOff wOff mm segs g n (gi + 1)
        { x with sw := x.sw ++ [sw.1.sc]
                 sa := x.sa ++ [(List.range 32).map fun i => l.getD (if tAsc r.word then i % mm else i) fzero] }
    else (x, sa.2)

/-- The faults of a tile's scales (R85, R101, R106, R120): every uncorrectable row, then every skewed block. -/
def State.scaleFaults (s : State) (t p cyc : Nat) (x : Scales) : State :=
  let s := x.uncs.foldl (fun s q => s.uncScale t p cyc q.1 q.2) s
  x.skews.foldl (fun s q =>
    let s := (s.bump (SCALE_SKEW_COUNT t p)).firstLog (SCALE_SKEW_LOG_VALID t p) (SCALE_SKEW_LOG_MULTI t p)
      [(SCALE_SKEW_LOG_SIDE t p, q.1), (SCALE_SKEW_LOG_EXPECTED t p, q.2.1), (SCALE_SKEW_LOG_FOUND t p, q.2.2)]
    s.faultSlice t p stScaleSkew cyc false true (s.word (SCALE_SKEW_LOG_VALID t p).off)) s

/-- The activations of a TILEW tile: the addresses of every element by row and k (R201 to R203). -/
def winAddrs (w : WinCfg) (nbits pos0 k : Nat) : List (List (Option (Nat × Nat))) :=
  (List.range 32).map fun i => (List.range k).map fun kk =>
    if w.cp = 0 then none else (w.tap nbits (pos0 + i) (kk / w.cp) (kk % w.cp)).2

/-- Distinct (kernel line, row) pairs a tile fetches (R205). -/
def winFetches (w : WinCfg) (l : List (List (Option (Nat × Nat)))) : Nat :=
  ((l.map fun r => (List.range r.length).filterMap fun k => (r.getD k none).map fun a =>
    (if w.cp = 0 ∨ w.kw = 0 then 0 else k / w.cp / w.kw, a.1)).flatten.eraseDups).length

/-- What stops a tile from issuing; else its operands, and the row offsets that the west feeder read. -/
inductive Feed where
  | ok (act : List (List Nat)) (wgt : Array Byte) (pre : Array Byte) (offs : List Nat) (s : State)
  | stop (s : State)

/-- Fetches the operands of the next tile of a run: west feeder, north feeder, preload path. A side that waits does not
keep the other from fetching (R76, R88); the window feeder's rows are counted when the fetch completes (R216). -/
def State.feed (s : State) (t p cyc : Nat) (r : Run) : Feed :=
  let aOff := dCursor r.ad + r.next * dAdv r.ad
  let wOff := dCursor r.wd + r.next * dAdv r.wd
  let pOff := dCursor r.pd + r.next * dAdv r.pd
  let k := 32 * tKb r.word
  let nb := dBits r.ad
  let mm := formM (tForm r.word)
  let win := opOf r.word == 2
  let w := WinCfg.ofRow r.wc
  let addrs := if win then winAddrs w nb (r.opos + 32 * r.next) k else []
  let offs := if win then (addrs.flatten.filterMap fun a => a.map fun x => x.1).eraseDups
    else (List.range r.aRows).map (aOff + ·)
  let ra : RdRes × List (List Nat) × State :=
    if win then
      match s.gather t p r.ad offs [] with
      | (res, m, s) => (res, addrs.map fun row => row.map (fromRows nb m), s)
    else
      match s.readOffs t p r.ad aOff r.aRows with
      | (.ok l, s) =>
        let b := l.toArray
        (.ok l, (List.range 32).map fun i => (List.range k).map fun kk => elemOf nb b (actIdx mm (tTa r.word) (i % mm) kk), s)
      | (res, s) => (res, [], s)
  let ok (act : List (List Nat)) (wl pl : List Byte) (s : State) : Feed :=
    .ok act wl.toArray pl.toArray offs (if win then s.bump (WIN_FETCH t p) (winFetches w addrs) else s)
  match ra with
  | (.wait _ _ _, _, s) =>
    let s := s.bump (ARRAY_STALL_W t p)
    match s.readOffs t p r.wd wOff r.wRows with
    | (.wait _ _ _, s) => .stop (s.bump (ARRAY_STALL_N t p))
    | (.unc own, s) => .stop (s.uncRead t p cyc own r.wd)
    | (_, s) => .stop s
  | (.unc own, _, s) => .stop (s.uncRead t p cyc own r.ad)
  | (.gone, _, s) => .stop s
  | (.ok _, act, s) =>
    match s.readOffs t p r.wd wOff r.wRows with
    | (.wait _ _ _, s) => .stop (s.bump (ARRAY_STALL_N t p))
    | (.unc own, s) => .stop (s.uncRead t p cyc own r.wd)
    | (.gone, s) => .stop s
    | (.ok wl, s) =>
      if tPre r.word = 2 then
        match s.readOffs t p r.pd pOff 8 with
        | (.ok pl, s) => ok act wl pl s
        | (.wait _ _ _, s) => .stop s
        | (.unc own, s) => .stop (s.uncRead t p cyc own r.pd)
        | (.gone, s) => .stop s
      else ok act wl [] s

/-- The preload of the active set (R71): zero, the bias row, or the tile from partial-sum memory. -/
def preload (r : Run) (bias : List Byte) (pre : Array Byte) : List (List Fp) :=
  if tPre r.word = 1 then List.replicate 32 ((List.range 32).map fun j => decW (leAt bias (4 * j) 4))
  else if tPre r.word = 2 then (List.range 32).map fun i => (List.range 32).map fun j =>
    decW (elemOf 16 pre (2 * (j * 32 + i)) + 65536 * elemOf 16 pre (2 * (j * 32 + i) + 1))
  else List.replicate 32 (List.replicate 32 fzero)

/-- What the checksum cells are preloaded with (R82): row `i`'s sum and column `j`'s sum, with the magnitude lanes. -/
def preSums (r : Run) (pre : List (List Fp)) (col : Bool) (i : Nat) : Fp × Fp :=
  if tPre r.word = 0 then (fzero, fzero)
  else if col then
    if tPre r.word = 1 then
      let b := (pre.getD 0 []).getD i fzero
      (((Fp.ofInt 32).mul b).rnd 40, ((Fp.ofInt 32).mul b.abs).rndUp)
    else (sum40 (column pre i), sumUp (column pre i))
  else (sum40 (pre.getD i []), sumUp (pre.getD i []))

/-- The run with its TABLE4 row, which the north feeder reads once, when the run's stream starts (R92, R119, R120); none
when the row is uncorrectable. -/
def State.withTable (s : State) (t p : Nat) (r : Run) : Option Run × State :=
  if dFmt r.wd = 4 ∧ r.tab.isNone then
    match s.readRow t (s.home t p) (dTmem r.wd) (dTrow r.wd) with
    | (some l, s) =>
      let r := { r with tab := some (l.take 16) }
      (some r, s.onStn t p fun v => { v with issuing := some r })
    | (none, s) => (none, s)
  else (some r, s)

/-- A tile whose operands and scales are there enters the array: its cells, checksum cells and the slots it read; the run
goes on to its next tile or gives way to the queued one (R66, R67, R95 to R104, R163). -/
def State.enterTile (s : State) (t p : Nat) (r : Run) (ops : TileOps) (pts : List (List (List Fp))) (pl : Array Byte)
    (offs : List Nat) (k mm : Nat) : State :=
  let v := s.stn t p
  let w := r.word
  let bf := tGrp w == 0
  let pre := preload r (v.bias.get (tBsel w) []) pl
  let wOff := dCursor r.wd + r.next * dAdv r.wd
  let slots := (offs.map fun o => s.slotsOf t p r.ad o 1).flatten.map (fun q => (false, q)) ++
    (s.slotsOf t p r.wd wOff r.wRows).map (fun q => (true, q))
  let r' := { r with next := r.next + 1, reads := (r.reads ++ slots).eraseDups }
  let rec' : TileRec :=
    { run := r', t := r.next, cells := ops.cells bf mm pre pts
      rowSum := (List.range 32).map fun i => (ops.rowWide mm (preSums r pre false i) i).1
      rowMag := (List.range 32).map fun i => (ops.rowWide mm (preSums r pre false i) i).2
      colSum := if mm ≠ 32 then [] else (List.range 32).map fun j => (ops.colWide (preSums r pre true j) j).1
      colMag := if mm ≠ 32 then [] else (List.range 32).map fun j => (ops.colWide (preSums r pre true j) j).2
      n := if bf then k else ops.groups }
  s.onStn t p fun v =>
    let v := { v with tiles := v.tiles ++ [rec'] }
    if tT w ≤ r'.next then { v with issuing := v.queued, queued := none } else { v with issuing := some r' }

/-- The next tile of the issuing run enters the array (R66, R67, R92, R95 to R106). The group checks of the groups before a
skewed block are made too; DESIGN CHOICE: the checks of one group complete together, and the station stops at the first
group in which one fails (R83). -/
def State.tileIssue (s : State) (t p cyc : Nat) (up : List Upset) : State :=
  let v := s.stn t p
  match v.issuing with
  | none => s
  | some r =>
    if 2 ≤ v.tiles.length ∨ ¬ (s.rg (SEQ_STATE_STATE t p) = 2 ∨ s.rg (SEQ_STATE_STATE t p) = 3) then s
    else
      match s.withTable t p r with
      | (none, s) => s.uncRead t p cyc true []
      | (some r, s) =>
      match s.feed t p cyc r with
      | .stop s => s
      | .ok act wl pl offs s =>
        let w := r.word
        let mm := formM (tForm w)
        let segs := 32 / mm
        let k := 32 * tKb w
        let bf := tGrp w == 0
        let g := if bf then k else grpSize (tGrp w)
        let aOff := dCursor r.ad + r.next * dAdv r.ad
        let wOff := dCursor r.wd + r.next * dAdv r.wd
        let sc := if bf then ({ sa := [List.replicate 32 (.num false 1 0)],
                                sw := [List.replicate segs (List.replicate 32 (.num false 1 0))] }, s)
          else s.scales t p r aOff wOff mm segs g (k / g) 0 {}
        let s := sc.2
        let ops : TileOps :=
          { g := g, groups := if sc.1.good then k / g else sc.1.sw.length
            act := act.map fun row => row.map fun c => operand (dFmt r.ad) [] c
            wgt := (List.range segs).map fun seg => (List.range 32).map fun j => (List.range k).map fun kk =>
              operand (dFmt r.wd) (r.tab.getD []) (elemOf (dBits r.wd) wl (wgtIdx (dBits r.wd) segs (tTw w) seg kk j))
            sa := sc.1.sa, sw := sc.1.sw }
        let pts := if bf then [] else (List.range ops.groups).map fun gi => ops.partials up mm gi
        let failed := if intMode (dFmt r.ad) (dFmt r.wd) then
            (List.range ops.groups).findSome? fun gi =>
              let x := ops.groupCheck up mm gi (pts.getD gi [])
              if x.1.isEmpty && x.2.isEmpty then none else some x
          else none
        let s := s.wrs [(ARRAY_STATE_BUSY t p, 1), (ARRAY_STATE_SET t p, 1 - s.rg (ARRAY_STATE_SET t p)),
          (ARRAY_STATE_FORM t p, tForm w), (ARRAY_STATE_GROUP t p, tGrp w), (ARRAY_STATE_WFMT t p, dFmt r.wd),
          (ARRAY_STATE_AFMT t p, dFmt r.ad)]
        let s := s.scaleFaults t p cyc sc.1
        match failed with
        | some x => s.checksum t p cyc 0 x.1 x.2
        | none => if sc.1.good then s.enterTile t p r ops pts pl offs k mm else s

/-- TILE_ISSUE: the next tile of the station's issuing run (R66); `up`: upsets of group partials. -/
def execTileIssue (st : StId) (cyc : BitVec 23) (up : List Upset) (s : State) : Res :=
  .next (s.tileIssue st.t.val st.p.val cyc.toNat up)

/-- A drain check (R80, R81): data values, checksum value, magnitude lane, roundings. DESIGN CHOICE: the difference and the
tolerance are compared exactly, not rounded to the checker's format first. -/
def drainOk (data : List Fp) (chk mag : Fp) (n : Nat) : Bool :=
  let sm := sum40 data
  let bad := data.any (fun x => !x.isFin) || !sm.isFin
  if bad || !chk.isFin then bad && !chk.isFin
  else
    let tol := (Fp.ofInt (2 * n + 64 : Nat)).mul ((Fp.pow2 (-24)).mul mag)
    decide ((sm.sub chk).abs.cmp tol ≤ 0)

/-- The drained accumulators as bytes of W32 in the tile layout (R62, R70); TD exchanges lane and position. -/
def drainOrder (td : Bool) (cells : List Nat) : List Nat :=
  let a := cells.toArray
  (List.range 1024).map fun e => a.getD (if td then e else e % 32 * 32 + e / 32) 0

/-- Packs element codes of `nbits` bits (R62). -/
def packElems (nbits : Nat) (l : List Nat) : List Byte :=
  if nbits = 4 then
    let a := l.toArray
    (List.range (l.length / 2)).map fun i => BitVec.ofNat 8 (a.getD (2 * i) 0 % 16 + 16 * (a.getD (2 * i + 1) 0 % 16))
  else (l.map fun v => natLE (nbits / 8) v).flatten

/-- The bytes a tile drains to, with its saturations and NaNs counted and an unloaded curve slot noted (R107 to R110). -/
def State.drainBytes (s : State) (t p : Nat) (w : Nat) (vals : List Nat) : List Byte × State :=
  if tDst w = 0 ∨ tDst w = 3 then ((vals.map fun x => natLE 4 x).flatten, s)
  else
    let k := tCurve w
    let valid := k < 4 && bit (s.rg (CURVE_STATE_VALID t p)) k
    let tab := (s.stn t p).curves.get k []
    let cs := vals.map fun x => convOut (tOfmt w) (decW (if valid then curveEval tab x else x))
    let s := if k < 4 ∧ ¬ valid then s.wr (CURVE_STATE_EMPTY_USE t p) 1 else s
    let s := s.bump (CURVE_SAT t p) (cs.countP fun c => c.sat)
    let s := s.bump (CURVE_NAN t p) (cs.countP fun c => c.isNan)
    (packElems (fmtBits (tOfmt w)) (cs.map fun c => c.code), s)

/-- The rows still to be written of a drained tile, in order, each slot's bit set after its last row; the drain waits for a
full slot, or for a link credit, before the row that needs it (R123, R125, R165): the state, and the rows that wait. -/
def State.drainRows (s : State) (t p : Nat) (r : Run) (tile : Nat) : List (List Byte) → State × List (List Byte)
  | [] => (s, [])
  | b :: l =>
    let o := dCursor r.od + tile * dAdv r.od + (oRows r.word - (l.length + 1))
    match s.writeWait t p r.od o with
    | some q => ((s.stallSlot q.1 q.2.1 q.2.2 true).bump (ARRAY_STALL_D t p), b :: l)
    | none =>
      if s.creditWait t p r.od then (s.bump (ARRAY_STALL_D t p), b :: l)
      else (s.putOff t p r.od o b true true { run := r.no, tile := some tile }).drainRows t p r tile l

/-- The releases of RELA and RELW when the last tile of a run has passed (R164). -/
def State.runReleases (s : State) (t p : Nat) (r : Run) (tile : Nat) : State :=
  let l := r.reads.filter fun q => if q.1 then tRelw r.word else tRela r.word
  (l.map fun q => q.2).eraseDups.foldl (fun s q => s.sigRelease t p q.1 q.2 r.no (some tile) false) s

/-- The rows and columns whose drain check fails (R80, R81, R84); `up`: upsets of the checksum cells' wide values. -/
def TileRec.failed (x : TileRec) (up : List Upset) (cells : List Nat) : List Nat × List Nat :=
  let vals := cells.map decW
  let row (i : Nat) : List Fp := slice vals (32 * i) 32
  let col (j : Nat) : List Fp := (List.range 32).map fun i => vals.getD (32 * i + j) fzero
  let adj (f : Fp) (d : Int) : Fp := if d = 0 then f else f.add (Fp.ofInt d)
  ((List.range 32).filter fun i =>
      !drainOk (row i) (adj (x.rowSum.getD i fzero) (hit up 0 i 32)) (x.rowMag.getD i fzero) x.n,
    if x.colSum.isEmpty then [] else (List.range 32).filter fun j =>
      !drainOk (col j) (adj (x.colSum.getD j fzero) (hit up 0 32 j)) (x.colMag.getD j fzero) x.n)

/-- The oldest tile `x` has been written: its run's releases when it is the last, the counter of the tiles that set a
presence bit, the checkpoint once every tile has passed (R88, R164, R181). DEDUCED: a tile counts when it drains through a
MODE 1 descriptor. -/
def State.tileOut (s : State) (t p : Nat) (x : TileRec) (rest : List TileRec) : State :=
  let r := x.run
  let s := if tT r.word ≤ x.t + 1 then s.runReleases t p r x.t else s
  let s := if tDst r.word ≠ 3 ∧ dMode r.od then s.bump (ARRAY_TILES t p) else s
  let s := s.onStn t p fun v => { v with tiles := rest, last := { r.ck with tile := x.t, reads := r.reads } }
  let s := s.wr (ARRAY_STATE_BUSY t p) (b2n !rest.isEmpty)
  if ((s.stn t p).waiting.any fun q => opOf q.word == 2) || rest.any (fun q => opOf q.run.word == 2) then s
  else s.wr (VEC_STATE_WIN_BUSY t p) 0

/-- The oldest tile writes its rows, as far as they need not wait. -/
def State.drainTile (s : State) (t p : Nat) (x : TileRec) (rest : List TileRec) (l : List (List Byte)) : State :=
  let q := s.drainRows t p x.run x.t l
  if q.2.isEmpty then q.1.tileOut t p x rest
  else q.1.onStn t p fun v => { v with tiles := { x with left := some q.2 } :: rest }

/-- The oldest tile drains (R68, R70, R83, R107, R125, R164, R165): its checks, then its rows; a later command goes on with
the rows that had to wait. `up`: bits flipped in drained accumulators, and upsets of the checksum cells' wide values. -/
def State.tileComplete (s : State) (t p cyc : Nat) (up : List Upset) : State :=
  let v := s.stn t p
  match v.tiles with
  | [] => s
  | x :: rest =>
    let w := x.run.word
    let late := match v.curveLoad with
      | some c => (tDst w == 1 || tDst w == 2) && tCurve w == c.slot && decide (c.runs < x.run.no)
      | none => false
    if !(s.rg (SEQ_STATE_STATE t p) == 2 || s.rg (SEQ_STATE_STATE t p) == 3) || late then s
    else match x.left with
    | some l => s.drainTile t p x rest l
    | none =>
      let cells := (List.range 1024).map fun i => (x.cells.getD i 0) ^^^ (hit up 0 (i / 32) (i % 32)).toNat % 2 ^ 32
      let bad := x.failed up cells
      if ¬ (bad.1.isEmpty && bad.2.isEmpty) then s.checksum t p cyc 1 bad.1 bad.2
      else
        let b := s.drainBytes t p w (drainOrder (tTd w) cells)
        if tDst w = 3 then
          ((List.range 8).foldl (fun s i => s.setVreg t p (8 + i) ((chunks 512 8 b.1).getD i [])) b.2).tileOut t p x rest
        else b.2.drainTile t p x rest (chunks 512 (oRows w) b.1)

/-- TILE_COMPLETE: the drain of the station's oldest tile (R70). -/
def execTileComplete (st : StId) (cyc : BitVec 23) (up : List Upset) (s : State) : Res :=
  .next (s.tileComplete st.t.val st.p.val cyc.toNat up)

/-- Whether a station has a slice program in the current schedule. -/
def State.assigned (s : State) (t p : Nat) : Bool := s.on (MAP_ASSIGNED t p)

/-- A write of `ARRAY.REPAIR` (R8, R87). -/
def State.arrayRepair (s : State) (t p w : Nat) : State :=
  let s := if bit w 30 then s.wr (ARRAY_REPAIR_ERR t p) 0 else s
  let co := bits w 8 6
  let ro := bits w 0 6
  let cf := s.rg (ARRAY_FUSE_COL_OMIT t p)
  let rf := s.rg (ARRAY_FUSE_ROW_OMIT t p)
  let co := if 33 < co then s.rg (ARRAY_REPAIR_COL_OMIT t p) else co
  let ro := if 33 < ro then s.rg (ARRAY_REPAIR_ROW_OMIT t p) else ro
  let ok (v f : Nat) : Bool := v == 32 || v == f || f == 32
  if s.assigned t p ∨ ¬ (ok co cf && ok ro rf) then s.wr (ARRAY_REPAIR_ERR t p) 1
  else s.wrs [(ARRAY_REPAIR_EN t p, bits w 31 1), (ARRAY_REPAIR_COL_OMIT t p, co), (ARRAY_REPAIR_ROW_OMIT t p, ro)]

/-- ARRAY_REPAIR_WRITE (R87). -/
def execArrayRepairWrite (st : StId) (w : BitVec 32) (s : State) : Res :=
  .next (s.arrayRepair st.t.val st.p.val w.toNat)

/-- A bit of a mask set or cleared. -/
def setBit (m k : Nat) (v : Bool) : Nat := m - (if bit m k then 2 ^ k else 0) + (if v then 2 ^ k else 0)

/-- A curve table put into a slot, which becomes valid (R109, R110). -/
def State.putCurve (s : State) (t p k : Nat) (tab : List Byte) : State :=
  let s := s.onStn t p fun v => { v with curves := v.curves.set k tab [] }
  s.wrs [(CURVE_STATE_VALID t p, setBit (s.rg (CURVE_STATE_VALID t p)) k true),
    (CURVE_STATE_QUAD t p, setBit (s.rg (CURVE_STATE_QUAD t p)) k (bit (leAt tab 0 4) 0))]

/-- The curve-load in progress completes once no earlier tile uses its slot (R110). DESIGN CHOICE: a load that meets an
uncorrectable row leaves its slot invalid. -/
def State.curveDone (s : State) (t p cyc : Nat) : State :=
  let v := s.stn t p
  match v.curveLoad with
  | none => s
  | some c =>
    let uses (r : Run) : Bool := decide (r.no ≤ c.runs) && (tDst r.word == 1 || tDst r.word == 2) && tCurve r.word == c.slot
    if v.waiting.any uses || v.tiles.any (fun x => uses x.run) then s
    else
      match s.readOffs t p c.desc c.off 9 with
      | (.ok l, s) => ((s.onStn t p fun v => { v with curveLoad := none }).wr (CURVE_STATE_LOADING t p) 0).putCurve t p c.slot l
      | (.wait _ _ _, s) => s
      | (.unc own, s) =>
        (s.wr (CURVE_STATE_VALID t p) (setBit (s.rg (CURVE_STATE_VALID t p)) c.slot false)).uncRead t p cyc own c.desc
      | (.gone, s) => s

/-- CURVE_LOAD_DONE (R110). -/
def execCurveLoadDone (st : StId) (cyc : BitVec 23) (s : State) : Res := .next (s.curveDone st.t.val st.p.val cyc.toNat)

end Sys2Proof.Machine
end

