-- ==== Sys2Proof/Machine/Persist.lean ====
section
/-! DEFINITION. Object values and their persistent records, as every core that keeps an object uses them (R447, R448,
R482, R483). -/

namespace Sys2Proof.Machine

/-- Key of an object or sub-object. -/
def objKey (index sub : Nat) : Nat := 256 * index + sub

/-- The value in force of an RW or RWP object, or `d` when it was never written. -/
def State.objVal (s : State) (index sub : Nat) (d : List Byte) : List Byte := s.dict.vals.get (objKey index sub) d

/-- ALERT_N is driven low for an event of the module (R441). -/
def State.alertEvent (s : State) : State :=
  let s := { s with dict := { s.dict with alertEvent := true } }
  if s.pins.alert then s else ({ s with pins := { s.pins with alert := true } }).emit (.alert true)

/-- Budget units of a commit of `n` bytes (R448). -/
def commitUnits (n : Nat) : Nat := 1 + ceilDiv (n - 64) 64

/-- Bytes of a persistent record in a sector (R482). -/
def recBytes (r : PRec) : Nat := 16 + ceilDiv r.value.length 16 * 16

/-! ## Sectors (R481) -/

/-- A sector of an array is retired: mapped to a spare by the remap fuses when one is left. Whether it was. -/
def State.retireSector (s : State) (code : Bool) (sector : Nat) : Bool × State :=
  let s := (s.logEntry 0x0008 5 0xFFFF (sector * 65536 + 256 * b2n (!code))).bump
    (if code then EF_RETIRED_CODE else EF_RETIRED_DATA)
  if code then
    if s.ef.spareCode = 0 then (false, s)
    else (true, ({ s with ef := { s.ef with spareCode := s.ef.spareCode - 1, erases := s.ef.erases.set sector 0 0 }
                          fac := { s.fac with remapCode := s.fac.remapCode ++ [sector] } } : State).wr EF_STATUS_CODE_SPARE
                            (s.ef.spareCode - 1))
  else if s.ef.spareData = 0 then (false, { s with ef := { s.ef with dataGone := true } })
  else (true, ({ s with ef := { s.ef with spareData := s.ef.spareData - 1, erases := s.ef.erases.set (4096 + sector) 0 0 }
                        fac := { s.fac with remapData := s.fac.remapData ++ [sector] } } : State).wr EF_STATUS_DATA_SPARE
                          (s.ef.spareData - 1))

/-- A record whose copies in sector `v` are gone. -/
def PRec.without (r : PRec) (v : Nat) : PRec :=
  { r with sec0 := if r.sec0 = v then 128 else r.sec0, sec1 := if r.sec1 = v then 128 else r.sec1 }

/-- A record with a copy left. -/
def PRec.valid (r : PRec) : Bool := r.sec0 != 128 || r.sec1 != 128

/-- An erase counted (`EF.ERASE` and the sector's own count). -/
def State.countErase (s : State) (key : Nat) : State :=
  ({ s with ef := { s.ef with erases := s.ef.erases.set key (s.ef.erases.get key 0 + 1) 0 } } : State).bump EF_ERASE

/-- An erase of a data sector; at 100 000 the sector is worn and is retired. -/
def State.eraseData (s : State) (i : Nat) : State :=
  let s := s.countErase (4096 + i)
  if 100000 ≤ s.ef.erases.get (4096 + i) 0 then (s.retireSector false i).2 else s

/-- The erased data sector with the lowest erase count, among those not open (R483). -/
def State.erasedSector (s : State) : Option Nat :=
  ((List.range 128).filter fun i => s.ef.dsec.get i 0 == 0 && i != s.ef.dopen.1 && i != s.ef.dopen.2).foldl
    (fun b i => match b with
      | none => some i
      | some j => if s.ef.erases.get (4096 + i) 0 < s.ef.erases.get (4096 + j) 0 then some i else some j) none

/-- Copies of live records in sector `i`. -/
def State.liveIn (s : State) (i : Nat) : List PRec := s.dict.precs.filter fun r => r.sec0 == i || r.sec1 == i

/-- The data sector, not open, with the fewest live records; an erased one does not count (R483). -/
def State.victim (s : State) : Option Nat :=
  ((List.range 128).filter fun i => s.ef.dsec.get i 0 != 0 && i != s.ef.dopen.1 && i != s.ef.dopen.2).foldl
    (fun b i => match b with
      | none => some i
      | some j => if (s.liveIn i).length < (s.liveIn j).length then some i else some j) none

/-- Makes `e` the open sector of a copy; with no erased sector left, a victim's records move into it and the victim is
erased (R483). -/
def State.openSector (s : State) (second : Bool) (e : Nat) : State :=
  let s := { s with ef := { s.ef with dopen := if second then (s.ef.dopen.1, e) else (e, s.ef.dopen.2) } }
  match s.erasedSector, s.victim with
  | none, some v =>
    let n := (s.liveIn v).foldl (fun a r => a + recBytes r) 0
    let mv (x : Nat) : Nat := if x = v then e else x
    ({ s with
      ef := { s.ef with dsec := (s.ef.dsec.set e (s.ef.dsec.get e 0 + n) 0).set v 0 0 }
      dict := { s.dict with
        precs := s.dict.precs.map fun r => { r with sec0 := mv r.sec0, sec1 := mv r.sec1 }
        old := (s.dict.old.map fun r => r.without v).filter PRec.valid } } :
      State).eraseData v
  | _, _ => s

/-- Room for `n` bytes in the open sector of a copy: the sector used, and the state with them used. -/
def State.placeRec (s : State) (second : Bool) (n : Nat) : Nat × State :=
  let cur (s : State) : Nat := if second then s.ef.dopen.2 else s.ef.dopen.1
  let s := if s.ef.dsec.get (cur s) 0 + n ≤ 4096 then s else
    match s.erasedSector with
    | some e => s.openSector second e
    | none => s
  let i := cur s
  (i, { s with ef := { s.ef with dsec := s.ef.dsec.set i (s.ef.dsec.get i 0 + n) 0 } })

/-- Commits a value to the persistent store, or not when the budget is spent or no sector is usable (R448, R482): whether
it is committed. -/
def State.commitRec (s : State) (index sub : Nat) (v : List Byte) : Bool × State :=
  if s.dict.budget = 0 ∨ s.ef.dataGone then
    let s1 := if s.dict.wornLogged then s else s.logEntry 0x000F 5 0xFFFF 1
    (false, { s1 with dict := { s1.dict with wornLogged := true } })
  else
    let left : Nat := s.dict.budget - commitUnits v.length
    let r : PRec := { index := index, sub := sub, seq := s.dict.pseq, value := v }
    let a := s.placeRec false (recBytes r)
    let b := a.2.placeRec true (recBytes r)
    let s := b.2
    let others := s.dict.precs.filter fun r => !(r.index == index && r.sub == sub)
    let s : State := { s with dict := { s.dict with
      budget := left, pseq := s.dict.pseq + 1, precs := others ++ [{ r with sec0 := a.1, sec1 := b.1 }],
      old := s.dict.old ++ s.dict.precs.filter fun r => r.index == index && r.sub == sub } }
    if left < 20000 ∧ ¬ s.dict.lowPosted then
      let s := { s with dict := { s.dict with lowPosted := true } }
      (true, ((s.postEvent 0x0040 5 left).logEntry 0x000F 5 0xFFFF 0).alertEvent)
    else (true, s)

/-- An object value set. -/
def State.setVal (s : State) (index sub : Nat) (v : List Byte) : State :=
  { s with dict := { s.dict with vals := s.dict.vals.insert (objKey index sub) v } }

/-- A core writes an RWP object's value and has it committed, unless it is the committed value already. -/
def State.persist (s : State) (index sub : Nat) (v : List Byte) : State :=
  let s := s.setVal index sub v
  if s.dict.precs.any fun r => r.index == index && r.sub == sub && r.value == v then s
  else (s.commitRec index sub v).2

end Sys2Proof.Machine
end

