-- ==== Sys2Proof/Machine/Dram.lean ====
section
/-! DEFINITION. The board DRAM controller (chapter 13): address decode, protected regions and inline ECC, link errors, the
error FIFO, refresh management and throttling; and the retirement of tier 1 pages (R309, R338). -/

namespace Sys2Proof.Machine

/-! ## Addresses -/

/-- A decoded DRAM address (R326). -/
structure DAddr where
  ch : Nat
  rank : Nat
  bank : Nat
  row : Nat
  col : Nat
deriving DecidableEq, Repr

/-- The address decode of R326, of an offset in DRAM. -/
def State.dAddr (s : State) (a : Nat) : DAddr :=
  let u := a / 256
  let b := u / 24 * 256 + a % 256
  if s.fac.variant = 1 then ⟨u % 24, 0, bits b 11 4, bits b 15 16, bits b 0 11⟩
  else ⟨u % 24, bits b 15 1, bits b 11 4, bits b 16 16, bits b 0 11⟩

/-- Key of a bank. -/
def DAddr.bankKey (d : DAddr) : Nat := (d.ch * 2 + d.rank) * 16 + d.bank

/-- Key of a row. -/
def DAddr.rowKey (d : DAddr) : Nat := d.bankKey * 65536 + d.row

/-- A protected region in force: base and length in bytes of DRAM offset (R327). -/
def State.protRegions (s : State) : List (Nat × Nat) :=
  (List.range 8).filterMap fun i =>
    if s.on (DRAM_PROT_BASE_EN i) then some (s.rg (DRAM_PROT_BASE_UNIT i) * 2 ^ 26, s.rg (DRAM_PROT_SIZE_UNITS i) * 2 ^ 26)
    else none

/-- Whether a DRAM offset lies in a protected region. -/
def State.protectedAt (s : State) (a : Nat) : Bool := s.protRegions.any fun r => decide (r.1 ≤ a ∧ a < r.1 + r.2)

/-- The carve-out of check codes for regions of `total` bytes (R327). -/
def carve (total : Nat) : Nat := ceilDiv (total / 32) (2 ^ 26) * 2 ^ 26

/-- Where mapped DRAM ends: the carve-out lies above (R327). -/
def State.dramTop (s : State) : Nat := s.dramSize - carve (s.protRegions.foldl (fun a r => a + r.2) 0)

/-- Whether `n` bytes from internal address `a` lie wholly in mapped DRAM. -/
def State.inDram (s : State) (a n : Nat) : Bool := decide (dramBase ≤ a ∧ a + n ≤ dramBase + s.dramTop)

/-- Whether bytes at an address word of a request, as PADDR, are mapped for the loader and the firmware cores: host memory,
board DRAM or a terrace store (R23, R464, the reach of requesters). An empty range is. -/
def State.mapped (s : State) (paddr n : Nat) : Bool :=
  bit paddr 63 || n == 0 || s.inDram paddr n || decide (0x100000000 ≤ paddr ∧ paddr + n ≤ 0x101800000)

/-- A read at an unmapped internal address is counted (R23); it returned zeros. -/
def State.spaceErr (s : State) (paddr n : Nat) : State := if s.mapped paddr n then s else s.addrError

/-! ## The error FIFO -/

/-- The registers that show the FIFO. -/
def State.showElog (s : State) : State :=
  let s := s.wr DRAM_ELOG_FILL s.dram.elog.length
  match s.dram.elog with
  | [] => s
  | r :: _ =>
    let b := r.stamp.bytes ++ natLE 1 r.typ ++ natLE 1 r.port ++ natLE 1 r.ch ++ natLE 1 r.rb ++ natLE 4 r.row ++
      natLE 2 r.col ++ natLE 2 r.syn ++ natLE 4 r.count
    (List.range 8).foldl (fun s w => s.wr (DRAM_ELOG_DATA w) (leAt b (4 * w) 4)) s

/-- A new record at the end of the FIFO. The syndrome of a check is the device's own: a free value. -/
def State.elogPush (s : State) (typ port : Nat) (d : DAddr) : State :=
  let f : Nat × State := if typ < 0x10 then s.free else (0, s)
  let s := f.2
  let r : ElogRec := { stamp := s.stamp, typ := typ, port := port, ch := d.ch, rb := 16 * d.bank + d.rank, row := d.row
                       col := d.col / 64 * 64, syn := f.1 % 65536 }
  State.showElog { s with dram := { s.dram with elog := s.dram.elog ++ [r] } }

/-- Writes an error record, counts it into the newest one of the same place, or drops it (R339). -/
def State.elogAt (s : State) (typ port : Nat) (d : DAddr) : State :=
  let same (r : ElogRec) : Bool := r.typ == typ && r.ch == d.ch && r.rb == 16 * d.bank + d.rank && r.row == d.row
  match s.dram.elog.getLast? with
  | some r =>
    if same r then
      State.showElog { s with dram := { s.dram with
        elog := s.dram.elog.dropLast ++ [{ r with count := min (r.count + 1) 0xFFFFFFFF }] } }
    else if 32 ≤ s.dram.elog.length then s.wr DRAM_ELOG_LOST 1
    else s.elogPush typ port d
  | none => s.elogPush typ port d

/-! ## Retirement and repair candidates -/

/-- Key of a layer among its client's: the index, set apart for each adapter entry. -/
def Model.lkey (m : Model) (l : Nat) : Nat :=
  match m.adp with
  | none => l
  | some e => l + 4096 * (e + 1)

/-- Whether a layer is bound by an accepted set (R310). -/
def State.layerBound (s : State) (client key : Nat) : Bool :=
  s.loader.sets.any fun x => x.binds.any fun b =>
    s.pool.models.any fun m => m.handle == b.model && m.client == client && m.lkey b.layer == key

/-- Whether a client is a capture job that is not suspended (R267, R310). -/
def State.captures (s : State) (client : Nat) : Bool :=
  s.loader.jobs.any fun j => j.client == client && !s.loader.sets.any fun x => x.handle == j.set && x.state == 4

/-- Whether a page is pinned (R310, R348). -/
def State.pinned (s : State) (p : PageRec) : Bool :=
  decide (p.client ≤ 2) || s.rg (TIER_CLIENT_CTRL_KIND p.client) == 5 || p.prom || s.captures p.client ||
    (s.rg NAND_STATUS_STATE == 2 && p.t2.isNone) || (p.layer != 0xFFF && s.layerBound p.client p.layer)

/-- Pages of a run that are not retired. -/
def State.runPages (s : State) (a : Nat × Nat × Nat) : Nat :=
  a.2.2 - (s.pool.retired.filter fun pg => decide (a.2.1 ≤ pg ∧ pg < a.2.1 + a.2.2)).length

/-- Pages of the areas that a client holds, and of all areas. -/
def State.areaPages (s : State) (c : Nat) : Nat := (s.pool.areas.filter fun a => a.1 == c).foldl (fun n a => n + s.runPages a) 0
def State.areaTotal (s : State) : Nat := s.pool.areas.foldl (fun n a => n + s.runPages a) 0

/-- A client's page counts, recomputed with the pool's books (R309, R324). -/
def State.bookClient (s : State) (c : Nat) : State :=
  let mine := s.pool.pages.filter fun p => p.client == c
  let t1 := mine.filter fun p => p.t1.isSome
  let n := s.areaPages c
  s.wrs [(TIER_CLIENT_DRAM c, t1.length + n), (TIER_CLIENT_NAND c, (mine.filter fun p => p.t2.isSome).length),
         (TIER_CLIENT_PINNED c, (t1.filter s.pinned).length + n),
         (TIER_CLIENT_OLDEST c, (t1.filter fun p => !s.pinned p).foldl (fun a p => max a p.age) 0)]

/-- The pool's free counts follow the clients' (R309). -/
def State.books (s : State) : State :=
  let s := (List.range 64).foldl State.bookClient s
  s.wrs [(TIER_FREE, s.rg TIER_POOL_DRAM - ((s.pool.pages.filter fun p => p.t1.isSome).length + s.areaTotal)),
         (TIER_NFREE, s.rg TIER_POOL_NAND - (s.pool.pages.filter fun p => p.t2.isSome).length)]

/-- The access bit of the pool pages that DMA reads or writes (R311). -/
def State.touch (s : State) (a n : Nat) : State :=
  { s with pool := { s.pool with pages := s.pool.pages.map fun (p : PageRec) =>
      if (p.t1.any fun g => decide (a / 65536 ≤ g ∧ 65536 * g < a + n)) then { p with acc := true } else p } }

/-- A tier 1 page leaves the pool (R309, R338): its client's page loses it. -/
def State.retirePage (s : State) (pg : Nat) : State :=
  if s.pool.retired.contains pg ∨ s.rg TIER_POOL_DRAM = 0 then s
  else
    let s : State := { s with pool := { s.pool with
      retired := pg :: s.pool.retired
      pages := s.pool.pages.map fun (p : PageRec) => if p.t1 = some pg then { p with t1 := none } else p } }
    ((s.bump TIER_RETIRE).wr TIER_POOL_DRAM (s.rg TIER_POOL_DRAM - 1)).books

/-- The DRAM offsets of the eight 256-byte units that a row holds (R326). -/
def State.rowUnits (s : State) (d : DAddr) : List Nat :=
  let b := if s.fac.variant = 1 then d.row * 32768 + d.bank * 2048 else d.row * 65536 + d.rank * 32768 + d.bank * 2048
  (List.range 8).map fun i => ((b / 256 + i) * 24 + d.ch) * 256

/-- A row becomes a repair candidate: listed in object 0x2300 and its pool pages retired (R338). -/
def State.candidate (s : State) (d : DAddr) : State :=
  let l := s.objVal 0x2300 0 []
  let e := natLE 1 d.ch ++ natLE 1 d.rank ++ natLE 1 d.bank ++ natLE 4 d.row ++ zeros 1
  if (chunks 8 (l.length / 8) l).contains e ∨ 512 ≤ l.length then s
  else
    let s := s.persist 0x2300 0 (l ++ e)
    (((s.rowUnits d).map fun a => (dramBase + a) / 65536).eraseDups).foldl State.retirePage s

/-- A corrected error of a row: counted, and a candidate at `DRAM_CE_PPR` of them (R338). -/
def State.ceRow (s : State) (d : DAddr) : State :=
  let n := s.dram.ce.get d.rowKey 0 + 1
  let s := { s with dram := { s.dram with ce := s.dram.ce.set d.rowKey n 0 } }
  if n = s.rg DRAM_CTRL_CE_PPR then s.candidate d else s

/-! ## Reads and writes -/

/-- Marks of the 64-byte units of protected regions that `n` bytes from DRAM offset `a` touch. -/
def State.unitMarks (s : State) (a n : Nat) : List (Nat × Nat) :=
  let lo := (dramBase + a) / 64 * 8
  let hi := (dramBase + a + n + 63) / 64 * 8
  (s.ecc.filter fun e => decide (lo ≤ e.1 ∧ e.1 < hi) && s.protectedAt (e.1 * 8 - dramBase)).map fun e => (e.1 / 8 * 64 - dramBase, e.2)

/-- A unit found in error by a read: corrected and written back, or uncorrectable (R329). -/
def State.unitError (s : State) (port tc tu : Nat) (u : Nat × Nat) : State :=
  let d := s.dAddr u.1
  if u.2 = 2 then (s.elogAt tu port d).candidate d
  else
    let s := { s with ecc := s.ecc.filter fun e => e.1 * 8 / 64 * 64 ≠ dramBase + u.1 }
    ((s.bump DRAM_CORR).elogAt tc port d).ceRow d

/-- A read by a unit of the module on port `port` (R329): the bytes, and whether they carry the poison mark. -/
def State.dramRead (s : State) (port a n : Nat) : (List Byte × Bool) × State :=
  let l := s.unitMarks (a - dramBase) n
  let s := l.foldl (fun s u => s.unitError port 0x03 0x04 u) s
  let bad := l.any fun u => u.2 == 2
  let s := s.bump DRAM_RD_BYTES n
  let s := if bad then (s.bump DRAM_UNC).count 14 else s
  ((s.ld a n, bad), s)

/-- A write by a unit of the module (R329): whole units become good, a part written into an uncorrectable unit leaves it
uncorrectable. -/
def State.dramWrite (s : State) (port a : Nat) (b : List Byte) : State :=
  let n := b.length
  let o := a - dramBase
  let s := (s.unitMarks o n).foldl (fun s u =>
    if o ≤ u.1 ∧ u.1 + 64 ≤ o + n then s
    else if u.2 = 2 then s.elogAt 0x07 port (s.dAddr u.1)
    else s.unitError port 0x03 0x04 u) s
  let whole (k : Nat) : Bool := decide (a ≤ k * 8 / 64 * 64 ∧ k * 8 / 64 * 64 + 64 ≤ a + n)
  let s := { s with ecc := s.ecc.filter fun e => !whole e.1 }
  (s.st a b).bump DRAM_WR_BYTES n

/-! ## Commands -/

/-- Class BULK or HOST of a port by itself (R332); DMA may be tide-bound. -/
def lowClass (port : Nat) (rt : Bool) : Bool := decide (24 ≤ port) && !(port == 24 && rt)

/-- Whether a port is in panic (R333): an expander channel of the terrace, a DMA channel. -/
def State.portPanic (s : State) (port : Nat) : Bool :=
  if port < 12 then (List.range 17).any fun p => (s.stns.get (17 * port + p) {}).chans.any fun k => k.panic
  else port == 24 && s.dma.chs.any fun e => e.2.panic

def State.anyPanic (s : State) : Bool := s.portPanic 24 || (List.range 12).any s.portPanic

/-- An activation of a bank by a port: refresh management (R334) and the activation throttle (R335). DEDUCED: an offender is a
port in one bank, as the record of type THROTTLE names the bank. -/
def State.activate (s : State) (port : Nat) (rt : Bool) (a : Nat) : State :=
  let d := s.dAddr (a - dramBase)
  let k := d.bankKey
  let r := s.dram.raa.get k 0
  let rfm := decide (Config.raaimt ≤ r)
  let s := if rfm then s.bump DRAM_RFM else s
  let r := if rfm then r - Config.raaimt else r
  let key := port * 1024 + k
  let n := s.dram.acts.get key 0 + 1
  let s := { s with dram := { s.dram with raa := s.dram.raa.set k (r + 1) 0, acts := s.dram.acts.set key n 0 } }
  if rt ∨ s.portPanic port then s
  else if s.dram.offenders.contains key then s.bump DRAM_THROTTLED
  else if s.rg DRAM_THROTTLE_ACT_LIMIT < n then
    ({ s with dram := { s.dram with offenders := key :: s.dram.offenders } }).elogAt 0x10 port d
  else s

/-- A link error of one transfer: none, corrected, failed once and good when done again, failed twice (R331). -/
def State.linkError (s : State) (port a link : Nat) : State :=
  let d := s.dAddr (a - dramBase)
  if link = 1 then (s.bump DRAM_CORR).elogAt 0x01 port d
  else if link = 0 then s
  else s.elogAt 0x02 port d

/-- While a port is in panic no new row is opened for a BULK or HOST request (R333): it waits. -/
def State.rowWaits (s : State) (port : Nat) (rt opens : Bool) : Bool := opens && lowClass port rt && s.anyPanic

/-- A grant under the starvation guard is counted; the guard grants nothing while a port is in panic (R332). -/
def State.starveGrant (s : State) (port : Nat) (rt starved : Bool) : State :=
  if starved && lowClass port rt && !s.anyPanic then s.bump DRAM_STARVE else s

/-- A DRAM read request of a port (R329 to R335). `opens`: it opens a row; `starved`: granted by the starvation guard;
`link`: its link errors. -/
def State.dramReadReq (s : State) (port a n : Nat) (rt opens starved : Bool) (link : Nat) : State :=
  if ¬ s.on DRAM_CTRL_EN ∨ s.rowWaits port rt opens then s
  else if ¬ s.inDram a n then { s.addrError with reply := .bytes (zeros n) }
  else
    let s := s.starveGrant port rt starved
    let s := if opens then s.activate port rt a else s
    let s := s.linkError port a link
    let r := s.dramRead port a n
    let s := r.2
    if link = 3 ∧ ¬ r.1.2 then { ((s.bump DRAM_UNC).count 14) with reply := .poison r.1.1 }
    else { s with reply := if r.1.2 then .poison r.1.1 else .bytes r.1.1 }

def execDramRead (port : Fin 29) (a : BitVec 48) (n : BitVec 16) (rt opens starved : Bool) (link : Fin 4) (s : State) : Res :=
  .next (s.dramReadReq port.val a.toNat n.toNat rt opens starved link.val)

/-- A DRAM write request of a port. -/
def State.dramWriteReq (s : State) (port a : Nat) (b : List Byte) (rt opens starved : Bool) (link : Nat) : State :=
  if ¬ s.on DRAM_CTRL_EN ∨ s.rowWaits port rt opens then s
  else if ¬ s.inDram a b.length then s.addrError
  else
    let s := s.starveGrant port rt starved
    let s := if opens then s.activate port rt a else s
    let s := s.linkError port a link
    let s := s.dramWrite port a b
    if link = 3 ∧ s.protectedAt (a - dramBase) then { s with ecc := s.ecc.set (a / 64 * 8) 2 0 } else s

def execDramWrite (port : Fin 29) (a : BitVec 48) (b : List Byte) (rt opens starved : Bool) (link : Fin 4) (s : State) : Res :=
  .next (s.dramWriteReq port.val a.toNat b rt opens starved link.val)

/-- A scrub of one protected unit (R330). `kind`: what the cells hold, 1 a single-bit error, 2 uncorrectable. -/
def State.dramScrub (s : State) (a kind : Nat) : State :=
  let o := (a - dramBase) / 64 * 64
  if ¬ s.inDram a 1 ∨ ¬ s.protectedAt o then s
  else
    let k := (dramBase + o) / 8
    let s := if kind = 0 then s else { s with ecc := s.ecc.set k (max kind (s.ecc.get k 0)) 0 }
    (s.unitMarks o 1).foldl (fun s u => s.unitError 0xFF 0x05 0x06 u) s

def execDramScrub (a : BitVec 48) (kind : Fin 3) (s : State) : Res := .next (s.dramScrub a.toNat kind.val)

/-- A per-bank refresh lowers RAA (R334). -/
def execDramRefresh (ch : Fin 24) (rank : Fin 2) (bank : Fin 16) (s : State) : Res :=
  let k := (ch.val * 2 + rank.val) * 16 + bank.val
  .next { s with dram := { s.dram with raa := s.dram.raa.set k (s.dram.raa.get k 0 - Config.raaimt) 0 } }

/-- The end of an activation window (R335). -/
def execThrottleWindow (s : State) : Res := .next { s with dram := { s.dram with acts := [], offenders := [] } }

/-- A channel is recalibrated while tides run, no more often than once in 64 ms (R337). -/
def execDramRecalibrate (ch : Fin 24) (s : State) : Res :=
  let last := s.dram.recal.get ch.val 0
  if s.tide.running ∧ (last = 0 ∨ last + 64000000 ≤ s.uptime + 1) then
    .next { s with dram := { s.dram with recal := s.dram.recal.set ch.val (s.uptime + 1) 0 } }
  else .next s

/-- Whether the protected regions of a state are legal (R328). -/
def State.protOk (s : State) : Bool :=
  let l := s.protRegions.filter fun r => r.2 != 0
  let top := s.dramSize - carve (l.foldl (fun a r => a + r.2) 0)
  l.all (fun r => decide (r.1 + r.2 ≤ s.dramSize) && decide (r.1 + r.2 ≤ top)) &&
    (List.range l.length).all fun i => (List.range l.length).all fun j =>
      i == j || decide ((l.getD i (0, 0)).1 + (l.getD i (0, 0)).2 ≤ (l.getD j (0, 0)).1) ||
        decide ((l.getD j (0, 0)).1 + (l.getD j (0, 0)).2 ≤ (l.getD i (0, 0)).1)

/-- A write of a BASE or SIZE word of `DRAM.PROT[i]` (R328). -/
def State.protWrite (s : State) (i : Nat) (size : Bool) (w : Nat) : State :=
  let s' := if size then s.wr (DRAM_PROT_SIZE_UNITS i) w
    else s.wrs [(DRAM_PROT_BASE_EN i, bits w 31 1), (DRAM_PROT_BASE_UNIT i, w)]
  if s.on TIER_CTRL_EN ∨ ¬ s'.protOk then s.wr DRAM_CTRL_ERR 1 else s'

def execDramProtWrite (i : Fin 8) (size : Bool) (w : BitVec 32) (s : State) : Res :=
  .next (s.protWrite i.val size w.toNat)

/-- The tier core logs the oldest record and removes it (R339). -/
def State.elogPop (s : State) : State :=
  match s.dram.elog with
  | [] => s
  | r :: l =>
    let s := s.logEntry 0x0006 2 (r.ch * 256 + r.rb) (r.typ * 2 ^ 24 + r.row % 65536)
    ({ s with dram := { s.dram with elog := l } }).showElog

def execElogPop (s : State) : Res := .next s.elogPop

end Sys2Proof.Machine
end

