-- ==== Sys2Proof/Machine/PageStore.lean ====
section
/-! DEFINITION. The page store (chapter 9): page info entries, the operations of the scheduler core, pins and reclaim, and
the frames of hot pages in the terrace stores. -/

namespace Sys2Proof.Machine

/-! ## Page info entries (R219) -/

def State.kvAddr (s : State) (ppn : Nat) : Nat := s.rg PS_KV_BASE + 16384 * ppn
def State.infoAddr (s : State) (ppn : Nat) : Nat := s.rg PS_INFO_BASE + 8 * ppn

def State.info (s : State) (ppn : Nat) : Nat := s.ldN (s.infoAddr ppn) 8
def State.setInfo (s : State) (ppn v : Nat) : State := s.stN (s.infoAddr ppn) 8 v

def iRef (v : Nat) : Nat := bits v 0 16
def iPin (v : Nat) : Nat := bits v 16 16
def iPoison (v : Nat) : Bool := bit v 32
def iAlloc (v : Nat) : Bool := bit v 33
def iPending (v : Nat) : Bool := bit v 34
def iNext (v : Nat) : Nat := bits v 40 22

/-- A page info entry from its fields. -/
def mkInfo (next ref pin : Nat) (poison alloc pending : Bool) : Nat :=
  ref % 65536 + pin % 65536 * 2 ^ 16 + b2n poison * 2 ^ 32 + b2n alloc * 2 ^ 33 + b2n pending * 2 ^ 34 +
    next % 2 ^ 22 * 2 ^ 40

def State.setPoison (s : State) (ppn : Nat) (v : Bool) : State :=
  let i := s.info ppn
  s.setInfo ppn (mkInfo (iNext i) (iRef i) (iPin i) v (iAlloc i) (iPending i))

def State.setRef (s : State) (ppn ref : Nat) : State :=
  let i := s.info ppn
  s.setInfo ppn (mkInfo (iNext i) ref (iPin i) (iPoison i) (iAlloc i) (iPending i))

def State.setPin (s : State) (ppn pin : Nat) : State :=
  let i := s.info ppn
  s.setInfo ppn (mkInfo (iNext i) (iRef i) pin (iPoison i) (iAlloc i) (iPending i))

/-! ## The free list -/

/-- A page put on the free list; which end it joins the spec does not say. -/
def State.pushFree (s : State) (ppn : Nat) : State :=
  if s.rg PS_FREE = 0 then
    (({ s with ps := { s.ps with head := ppn, tail := ppn } }).setInfo ppn (mkInfo 0 0 0 false false false)).wr PS_FREE 1
  else
    let f := s.free
    let s := f.2
    let n := s.rg PS_FREE
    if f.1 % 2 = 0 then
      let s := s.setInfo ppn (mkInfo 0 0 0 false false false)
      let s := s.setInfo s.ps.tail (mkInfo ppn 0 0 false false false)
      ({ s with ps := { s.ps with tail := ppn } }).wr PS_FREE (n + 1)
    else
      let s := s.setInfo ppn (mkInfo s.ps.head 0 0 false false false)
      ({ s with ps := { s.ps with head := ppn } }).wr PS_FREE (n + 1)

/-- The head of the free list taken, with REF 1 (R240). -/
def State.takePage (s : State) (res : Bool) : Nat × State :=
  let p := s.ps.head
  let s : State := { s with ps := { s.ps with head := iNext (s.info p) } }
  let s := s.setInfo p (mkInfo 0 1 0 false true false)
  (p, s.wrs [(PS_FREE, s.rg PS_FREE - 1), (PS_IN_USE, s.rg PS_IN_USE + 1),
             (PS_RESV, s.rg PS_RESV - b2n res)])

/-! ## Operations (R240) -/

/-- An operation's end: OP as the scheduler core wrote it, and the result. An operation ends within its own command, so BUSY
is never seen at 1 (R240: within 128 cycles). -/
def State.psDone (s : State) (op status : Nat) : State :=
  s.wrs [(PS_CMD_OP, op), (PS_RESULT_DONE, 1), (PS_RESULT_STATUS, status)]

/-- ARG of `PS.CMD`, as an operation carries it. -/
def State.psArg (s : State) (arg : Nat) : State := s.wr PS_CMD_ARG arg

/-- Whether a page number names a page in use or pending. -/
def State.psAlloc? (s : State) (ppn : Nat) : Bool := decide (ppn < s.rg PS_KV_PAGES) && iAlloc (s.info ppn)

/-- INIT. -/
def State.psInit (s : State) : State :=
  if s.rg PS_IN_USE ≠ 0 ∨ s.rg PS_PENDING ≠ 0 then s.psDone 0 stBadDescriptor
  else
    let n := s.rg PS_KV_PAGES
    let s := (List.range n).foldl (fun s i => s.setInfo i (mkInfo (if i + 1 < n then i + 1 else 0) 0 0 false false false)) s
    let s : State := { s with ps := { s.ps with head := 0, tail := n - 1, pins := [] } }
    (s.wrs [(PS_FREE, n), (PS_RESV, 0)]).psDone 0 stOk

def execPsInit (s : State) : Res := .next s.psInit

/-- ALLOC. -/
def State.psAlloc (s : State) (res : Bool) : State :=
  if (res ∧ s.rg PS_RESV = 0) ∨ (¬ res ∧ s.rg PS_FREE = s.rg PS_RESV) then s.psDone 1 stRefusedMemory
  else
    let r := s.takePage res
    (r.2.psDone 1 stOk).wr PS_RESULT_PPN r.1

def execPsAlloc (res : Bool) (s : State) : Res := .next ((s.wr PS_CMD_RES (b2n res)).psAlloc res)

/-- SHARE. A pending page that is shared again is in use again. -/
def State.psShare (s : State) (arg : Nat) : State :=
  let i := s.info arg
  if ¬ s.psAlloc? arg ∨ iRef i = 65535 then s.psDone 2 stBadDescriptor
  else
    let s := s.setInfo arg (mkInfo 0 (iRef i + 1) (iPin i) (iPoison i) true false)
    let s := if iPending i then s.wrs [(PS_IN_USE, s.rg PS_IN_USE + 1), (PS_PENDING, s.rg PS_PENDING - 1)] else s
    s.psDone 2 stOk

def execPsShare (arg : BitVec 22) (s : State) : Res := .next ((s.psArg arg.toNat).psShare arg.toNat)

/-- One reference of a page is dropped; at 0 the page is pending. -/
def State.dropRef (s : State) (ppn : Nat) : State :=
  let i := s.info ppn
  if iRef i = 1 then
    (s.setInfo ppn (mkInfo 0 0 (iPin i) (iPoison i) true true)).wrs
      [(PS_IN_USE, s.rg PS_IN_USE - 1), (PS_PENDING, s.rg PS_PENDING + 1)]
  else s.setRef ppn (iRef i - 1)

/-- FREE. -/
def State.psFree (s : State) (arg : Nat) : State :=
  if ¬ s.psAlloc? arg ∨ iRef (s.info arg) = 0 then s.psDone 3 stBadDescriptor
  else (s.dropRef arg).psDone 3 stOk

def execPsFree (arg : BitVec 22) (s : State) : Res := .next ((s.psArg arg.toNat).psFree arg.toNat)

/-- RESERVE. -/
def State.psReserve (s : State) (arg : Nat) : State :=
  if s.rg PS_FREE < s.rg PS_RESV + arg then s.psDone 4 stRefusedMemory
  else (s.wr PS_RESV (s.rg PS_RESV + arg)).psDone 4 stOk

def execPsReserve (arg : BitVec 22) (s : State) : Res := .next ((s.psArg arg.toNat).psReserve arg.toNat)

/-- UNRESERVE. -/
def State.psUnreserve (s : State) (arg : Nat) : State :=
  if s.rg PS_RESV < arg then s.psDone 5 stBadDescriptor
  else (s.wr PS_RESV (s.rg PS_RESV - arg)).psDone 5 stOk

def execPsUnreserve (arg : BitVec 22) (s : State) : Res := .next ((s.psArg arg.toNat).psUnreserve arg.toNat)

def State.psPoison (s : State) (arg : Nat) (v : Bool) : State :=
  let op := if v then 6 else 7
  if s.psAlloc? arg then (s.setPoison arg v).psDone op stOk else s.psDone op stBadDescriptor

def execPsPoison (arg : BitVec 22) (s : State) : Res := .next ((s.psArg arg.toNat).psPoison arg.toNat true)
def execPsUnpoison (arg : BitVec 22) (s : State) : Res := .next ((s.psArg arg.toNat).psPoison arg.toNat false)

/-! ## Look-aside buffers and frames -/

def State.att (s : State) (t : Nat) : Att := s.atts.get t {}
def State.onAtt (s : State) (t : Nat) (f : Att → Att) : State := { s with atts := s.atts.set t (f (s.att t)) {} }

/-- Look-aside entries that match are dropped from every unit. -/
def State.labDrop (s : State) (f : LabEnt → Bool) : State :=
  (List.range 12).foldl (fun s t => s.onAtt t fun a => { a with lab := a.lab.filter fun e => !f e }) s

/-- A write of `PS.INV` (R222). -/
def execPsInvalidate (all : Bool) (seq : BitVec 11) (s : State) : Res :=
  .next (s.labDrop fun e => all || e.seq == seq.toNat)

/-- Whether a frame other than `f` of a unit names a page, valid or filling. -/
def State.framed (s : State) (t ppn f : Nat) : Bool :=
  (List.range 128).any fun g => g != f && s.rg (ATT_FRAME_PPN t g) == ppn &&
    (s.on (ATT_FRAME_VALID t g) || s.on (ATT_FRAME_FILLING t g))

/-- First row of frame `f` in the terrace store (R223). -/
def frameRow (f : Nat) : Nat := 4096 - 32 * (f + 1)

/-- A write of `ATT.FRAME[f]` (R223, R224, R239): discarded with ERR where R224 says so; FILL starts a fill, INVAL without
FILL invalidates. DESIGN CHOICE: a write with neither writes PPN, and a frame whose PPN changes so holds no copy any longer;
a fill of a frame that a row without repair covers (R508) is not started. -/
def State.frameWrite (s : State) (t f w : Nat) (fill inval : Bool) : State :=
  let ppn := bits w 0 22
  let s := if bit w 28 then s.wr (ATT_FRAME_ERR t f) 0 else s
  if s.rg (TSTORE_CTRL_PAGES t) ≤ f ∨ s.framed t ppn f then s.wr (ATT_FRAME_ERR t f) 1
  else if fill then
    (if s.integ.noSpare.any fun x => x.1 == t && decide (frameRow f ≤ x.2 ∧ x.2 < frameRow f + 32) then s
    else s.wrs [(ATT_FRAME_PPN t f, ppn), (ATT_FRAME_VALID t f, 0), (ATT_FRAME_FILLING t f, 1)])
  else if inval ∨ s.rg (ATT_FRAME_PPN t f) ≠ ppn then
    s.wrs [(ATT_FRAME_PPN t f, ppn), (ATT_FRAME_VALID t f, 0), (ATT_FRAME_FILLING t f, 0)]
  else s

/-- A write of `ATT.FRAME[f]` with FILL. -/
def State.frameFill (s : State) (t f w : Nat) : State := s.frameWrite t f w true false

def execFrameFill (t : Fin 12) (f : Fin 128) (w : BitVec 32) (s : State) : Res := .next (s.frameFill t.val f.val w.toNat)

/-- A write of `ATT.FRAME[f]` with INVAL and without FILL. -/
def State.frameInval (s : State) (t f w : Nat) : State := s.frameWrite t f w false true

def execFrameInvalidate (t : Fin 12) (f : Fin 128) (w : BitVec 32) (s : State) : Res :=
  .next (s.frameInval t.val f.val w.toNat)

/-- The last row of a fill is written (R223); an uncorrectable read poisons the page (R237). -/
def State.frameDone (s : State) (t f : Nat) : State :=
  if ¬ s.on (ATT_FRAME_FILLING t f) then s
  else
    let ppn := s.rg (ATT_FRAME_PPN t f)
    let s := s.wr (ATT_FRAME_FILLING t f) 0
    let r := s.dramRead (12 + t) (s.kvAddr ppn) 16384
    if r.1.2 then r.2.setPoison ppn true
    else (((r.2.st (tsAddr t (frameRow f)) r.1.1).clearMarks (tsAddr t (frameRow f)) 2048)).wr (ATT_FRAME_VALID t f) 1

def execFrameFillDone (t : Fin 12) (f : Fin 128) (s : State) : Res := .next (s.frameDone t.val f.val)

/-- The frames, of every unit, that name a page are invalidated (R224). -/
def State.dropFrames (s : State) (ppn : Nat) : State :=
  (List.range 12).foldl (fun s t => (List.range 128).foldl (fun s f =>
    if s.rg (ATT_FRAME_PPN t f) = ppn then s.wrs [(ATT_FRAME_VALID t f, 0), (ATT_FRAME_FILLING t f, 0)] else s) s) s

/-! ## Pins and reclaim (R235) -/

/-- The first read of a page by a step, a sequence's part of a pass (R244), pins it. -/
def State.pin (s : State) (step seq ppn : Nat) : State :=
  if s.ps.pins.contains (step, seq, ppn) then s
  else ({ s with ps := { s.ps with pins := (step, seq, ppn) :: s.ps.pins } }).setPin ppn (iPin (s.info ppn) + 1)

/-- The pins and reports of the steps of a pass, of the sequences in `mine`, are released at the boundary that ends it. -/
def State.unpinStep (s : State) (step : Nat) (mine : Nat → Bool) : State :=
  let s := (s.ps.pins.filter fun e => e.1 == step && mine e.2.1).foldl (fun s e => s.setPin e.2.2 (iPin (s.info e.2.2) - 1)) s
  { s with ps := { s.ps with pins := s.ps.pins.filter fun e => !(e.1 == step && mine e.2.1)
                             reports := s.ps.reports.filter fun e => !(e.1 == step && mine e.2.1) } }

/-- Every pending page without a pin is reclaimed. -/
def State.psReclaim (s : State) : State :=
  if s.rg PS_PENDING = 0 then s
  else (List.range (s.rg PS_KV_PAGES)).foldl (fun s p =>
    let i := s.info p
    if iPending i && iPin i == 0 then
      ((s.dropFrames p).pushFree p).wr PS_PENDING (s.rg PS_PENDING - 1)
    else s) s

end Sys2Proof.Machine
end

