-- ==== Sys2Proof/Machine/Trans.lean ====
section
/-! DEFINITION. The correctly rounded functions of R191 and R192. Quotients and roots are exact integer computations with
a sticky bit; the transcendental functions are fixed-point series of 320 fraction bits, far beyond what the rounding of
a 24-bit operand can need (log entry on their precision). -/

namespace Sys2Proof.Machine

/-- A magnitude `m 2^e` truncated from an exact value: the sticky bit says that the value lies above it. -/
def Fp.sticky (neg : Bool) (m : Nat) (e : Int) (exact : Bool) : Fp :=
  .num neg (2 * m + b2n (!exact)) (e - 1)

/-- The quotient of two finite nonzero magnitudes, to at least 100 bits, sticky. -/
def divMag (neg : Bool) (m : Nat) (e : Int) (n : Nat) (f : Int) : Fp :=
  let k := 100 + blen n
  let q := m * 2 ^ k / n
  Fp.sticky neg q (e - f - k) (decide (q * n = m * 2 ^ k))

/-- Division (R192): the value, and whether it was a division by zero. -/
def Fp.divz : Fp → Fp → Fp × Bool
  | .nan, _ => (.nan, false)
  | _, .nan => (.nan, false)
  | .inf _, .inf _ => (.nan, false)
  | .inf a, .num b n _ => (.inf (a != b), n == 0)
  | .num a _ _, .inf b => (.num (a != b) 0 0, false)
  | .num a m e, .num b n f =>
    if n = 0 then (if m = 0 then (.num false 0 0, true) else (.inf (a != b), true))
    else if m = 0 then (.num (a != b) 0 0, false)
    else (divMag (a != b) m e n f, false)

def Fp.div (x y : Fp) : Fp := (x.divz y).1

/-- The integer square root, bit by bit from bit `k`. -/
def isqrtFrom (n : Nat) : Nat → Nat → Nat
  | 0, r => r
  | k + 1, r =>
    let c := r + 2 ^ k
    isqrtFrom n k (if c * c ≤ n then c else r)

def isqrt (n : Nat) : Nat := isqrtFrom n (blen n / 2 + 1) 0

/-- Square root (R191). -/
def Fp.sqrt : Fp → Fp
  | .nan => .nan
  | .inf n => if n then .nan else .inf false
  | .num n m e =>
    if m = 0 then .num n 0 0
    else if n then .nan
    else
      let odd : Nat := (e % 2).toNat
      let v := m * 2 ^ (128 + odd)
      let r := isqrt v
      Fp.sticky false r ((e - odd - 128) / 2) (decide (r * r = v))

/-- Reciprocal square root (R191). -/
def Fp.rsqrt : Fp → Fp
  | .nan => .nan
  | .inf n => if n then .nan else .num false 0 0
  | .num n m e =>
    if m = 0 then .inf n
    else if n then .nan
    else
      let odd : Nat := (e % 2).toNat
      let w := m * 2 ^ odd
      let k := blen w + 64
      let r := isqrt (2 ^ (2 * k) / w)
      Fp.sticky false r (-(k : Int) - (e - odd) / 2) (decide (r * r * w = 2 ^ (2 * k)))

/-- Fraction bits of the series. -/
def trP : Nat := 320

/-- `2 atanh(t)` for `t` in fixed point, from `t` the current power of t, `q = t^2`: the sum of `t^(2i+1) / (2i+1)`. -/
def atanhSum (q : Nat) : Nat → Nat → Nat → Nat
  | 0, _, _ => 0
  | f + 1, p, i => p / (2 * i + 1) + atanhSum q f (p * q / 2 ^ trP) (i + 1)

def atanh2 (t : Nat) : Nat := 2 * atanhSum (t * t / 2 ^ trP) 210 t 0

/-- ln 2 in fixed point. -/
def ln2 : Nat := atanh2 (2 ^ trP / 3)

/-- The exponential series of `r` in fixed point, `term` the current term. -/
def expSum (r : Nat) : Nat → Nat → Nat → Nat
  | 0, _, _ => 0
  | f + 1, term, i => term + expSum r f (term * r / 2 ^ trP / (i + 1)) (i + 1)

/-- `e^r` for `0 ≤ r < ln 2`, in fixed point. -/
def expFix (r : Nat) : Nat := expSum r 90 (2 ^ trP) 0

/-- A finite value in fixed point, truncated towards minus infinity. -/
def toFix (n : Bool) (m : Nat) (e : Int) : Int :=
  let s : Int := if n then -(m : Int) else m
  if 0 ≤ e + trP then s * (2 ^ (e + trP).toNat : Nat) else s / (2 ^ (-(e + trP)).toNat : Nat)

/-- `e^x` for a finite `x` with `2^-60 ≤ |x| < 2^10`: mantissa and exponent. -/
def expMag (n : Bool) (m : Nat) (e : Int) : Nat × Int :=
  let x := toFix n m e
  let k := x / (ln2 : Int)
  (expFix (x - k * ln2).toNat, k - trP)

/-- e^x (R191). -/
def Fp.exp : Fp → Fp
  | .nan => .nan
  | .inf n => if n then .num false 0 0 else .inf false
  | .num n m e =>
    if m = 0 then .num false 1 0
    else if e + blen m ≤ -60 then .num false 1 0
    else if e + blen m > 10 then (if n then .num false 0 0 else .inf false)
    else
      let r := expMag n m e
      Fp.sticky false r.1 r.2 false

/-- 2^x (R191). -/
def Fp.exp2 : Fp → Fp
  | .nan => .nan
  | .inf n => if n then .num false 0 0 else .inf false
  | .num n m e =>
    if m = 0 then .num false 1 0
    else if e + blen m ≤ -60 then .num false 1 0
    else if e + blen m > 10 then (if n then .num false 0 0 else .inf false)
    else
      let x := toFix n m e
      let one : Int := (2 ^ trP : Nat)
      let k := x / one
      let f := (x - k * one).toNat
      if f = 0 then .num false 1 k
      else Fp.sticky false (expFix (f * ln2 / 2 ^ trP)) (k - trP) false

/-- log2 x (R191). -/
def Fp.log2 : Fp → Fp
  | .nan => .nan
  | .inf n => if n then .nan else .inf false
  | .num n m e =>
    if m = 0 then .inf true
    else if n then .nan
    else
      let l := blen m
      let ex : Int := e + l - 1
      if m = 2 ^ (l - 1) then Fp.ofInt ex
      else
        let z := m * 2 ^ trP / 2 ^ (l - 1)
        let t := (z - 2 ^ trP) * 2 ^ trP / (z + 2 ^ trP)
        let v : Int := ex * (2 ^ trP : Nat) + (atanh2 t * 2 ^ trP / ln2 : Nat)
        Fp.sticky (decide (v < 0)) v.natAbs (-(trP : Int)) false

def Fp.rcp (x : Fp) : Fp := (Fp.num false 1 0).div x

/-- 1 / (1 + e^-x) (R191). -/
def Fp.sigm : Fp → Fp
  | .nan => .nan
  | .inf n => if n then .num false 0 0 else .num false 1 0
  | .num n m e =>
    if m = 0 ∨ e + blen m ≤ -60 then .num false 1 (-1)
    else if e + blen m > 8 then (if n then .num false 0 0 else .num false 1 0)
    else
      let r := expMag (!n) m e
      (Fp.num false 1 0).div ((Fp.num false 1 0).add (.num false r.1 r.2))

/-- tanh x (R191). -/
def Fp.tanh : Fp → Fp
  | .nan => .nan
  | .inf n => .num n 1 0
  | .num n m e =>
    if m = 0 ∨ e + blen m ≤ -20 then .num n m e
    else if e + blen m > 6 then .num n 1 0
    else
      let r := expMag false m (e + 1)
      let x := Fp.num false r.1 r.2
      let one := Fp.num false 1 0
      let y := (x.sub one).div (x.add one)
      if n then y.neg else y

/-- e^(a - b), with +0 when b is minus infinity (R192). -/
def Fp.expd (a b : Fp) : Fp := if b = .inf true then .num false 0 0 else (a.sub b).exp

end Sys2Proof.Machine
end

