-- ==== Sys2Proof/Machine/Vec.lean ====
section
/-! DEFINITION. The vector unit and the detection helpers (chapter 8): element views, the vector functions, window
functions, box decode, suppression and top-K. -/

namespace Sys2Proof.Machine

/-! ## Views (R188, R189) -/

/-- Element width in bytes and element count of a view. -/
def viewW (v : Nat) : Nat := if v = 0 ∨ v = 2 then 4 else if v = 1 then 2 else 1
def viewN (v : Nat) : Nat := 512 / viewW v

/-- The elements of a register in a view, as bit patterns. -/
def elems (v : Nat) (b : List Byte) : List Nat := (chunks (viewW v) (viewN v) b).map leNat

/-- A register of element patterns. -/
def pack (v : Nat) (l : List Nat) : List Byte := (l.map fun x => natLE (viewW v) x).flatten

/-- A floating-point view. -/
def isFp (v : Nat) : Bool := v == 0 || v == 1

def decV (v x : Nat) : Fp := if v = 0 then decW x else decB x
def encV (v : Nat) (x : Fp) : Nat := if v = 0 then encW x else encB x

/-- An integer view's element value, and the pattern of an exact result: wrapped in INT32, saturated in INT8. -/
def intV (v x : Nat) : Int := sext (8 * viewW v) x
def patV (v : Nat) (x : Int) : Nat :=
  if v = 2 then toBits 32 x else toBits 8 (if x > 127 then 127 else if x < -128 then -128 else x)

/-- MAX and MIN (R189). -/
def Fp.max (x y : Fp) : Fp :=
  if x.isNan || y.isNan then .nan
  else if x.isZero && y.isZero then .num (x.isNeg && y.isNeg) 0 0
  else if x.cmp y < 0 then y else x
def Fp.min (x y : Fp) : Fp :=
  if x.isNan || y.isNan then .nan
  else if x.isZero && y.isZero then .num (x.isNeg || y.isNeg) 0 0
  else if y.cmp x < 0 then y else x

/-- A two-operand function in a view, from its floating-point and integer forms. -/
def lift2 (ff : Fp → Fp → Fp) (fi : Int → Int → Int) (v a b : Nat) : Nat :=
  if isFp v then encV v (ff (decV v a) (decV v b)) else patV v (fi (intV v a) (intV v b))

/-- A three-operand function in a view. -/
def lift3 (ff : Fp → Fp → Fp → Fp) (fi : Int → Int → Int → Int) (v a b c : Nat) : Nat :=
  if isFp v then encV v (ff (decV v a) (decV v b) (decV v c)) else patV v (fi (intV v a) (intV v b) (intV v c))

/-- Whether a pattern is a NaN of a floating-point view. -/
def nanV (v x : Nat) : Bool := isFp v && (decV v x).isNan

/-! ## Issue -/

/-- VEC fields (R190). -/
def vFunc (w : Nat) : Nat := bits w 50 8
def vVd (w : Nat) : Nat := bits w 46 4
def vVa (w : Nat) : Nat := bits w 42 4
def vVb (w : Nat) : Nat := bits w 38 4
def vVc (w : Nat) : Nat := bits w 34 4
def vView (w : Nat) : Nat := bits w 32 2

/-- IMM as one scalar pattern of the view. -/
def vImm (w : Nat) : Nat := bits w 0 (8 * viewW (vView w))

def isVec (f w : Nat) : Bool := opOf w == 0x1A && vFunc w == f

/-- Occupancy of a function that is not a window function (R197). -/
def occupancy (w : Nat) : Nat :=
  let f := vFunc w
  if f ≤ 0x0E ∨ f = 0x20 then 1
  else if f ≤ 0x18 then (if vView w = 0 then 4 else 8)
  else if f = 0x28 then 2 else if f = 0x30 then 128 else if f = 0x3A then 160 else if f = 0x40 then 8
  else if f = 0x41 then 64 * (bits w 32 2 + 1) + 8 * (if bits w 0 8 = 0 then 128 else bits w 0 8)
  else 160

/-- A vector function issues (R197): it waits for a drain into V8 to V15 that it would cross (R198), and otherwise `k`
computes its effect on registers, flag and counters. -/
def State.vecIssue (s : State) (st : StId) (cyc : BitVec 23) (f : Nat) (k : Nat → State → State) : State :=
  s.issue st cyc (isVec f) fun w s =>
    let t := st.t.val
    let p := st.p.val
    let top := if f = 0x41 then vVa w + bits w 32 2 else vVa w
    if (decide (8 ≤ vVd w ∨ 8 ≤ top ∨ 8 ≤ vVb w ∨ 8 ≤ vVc w)) && (s.stn t p).lanesBusy then s.stall t p 3
    else ((k w (s.wr (VEC_STATE_FUNC t p) f)).bump (VEC_BUSYCNT t p) (occupancy w)).advance t p

/-- Register `i` as elements of a view. -/
def State.velems (s : State) (t p v i : Nat) : List Nat := elems v (s.vreg t p i)

/-- Elements written to VD, with the NaNs written counted (R216). -/
def State.vput (s : State) (t p v i : Nat) (l : List Nat) : State :=
  (s.setVreg t p i (pack v l)).bump (VEC_NAN t p) (l.countP (nanV v))

/-- An elementwise function of VA, VB and VC. -/
def State.vmap (s : State) (st : StId) (f : Nat → Nat → Nat → Nat → Nat) (w : Nat) : State :=
  let t := st.t.val
  let p := st.p.val
  let v := vView w
  s.vput t p v (vVd w)
    (((s.velems t p v (vVa w)).zip ((s.velems t p v (vVb w)).zip (s.velems t p v (vVc w)))).map fun x => f v x.1 x.2.1 x.2.2)

/-- An elementwise function of VA alone on values, for R191. -/
def unary (g : Fp → Fp) (v a _b _c : Nat) : Nat := encV v (g (decV v a))

/-- A NaN result written as the view's NaN for MAX and MIN; the rest as R189 says. -/
def maxV (v a b : Nat) : Nat := lift2 Fp.max max v a b
def minV (v a b : Nat) : Nat := lift2 Fp.min min v a b

/-! ## Elementwise functions -/

/-- VMOV: bit patterns unchanged (R189). -/
def execVmov (st : StId) (cyc : BitVec 23) (s : State) : Res :=
  .next (s.vecIssue st cyc 0x00 fun w s => s.vmap st (fun _ a _ _ => a) w)

def execVadd (st : StId) (cyc : BitVec 23) (s : State) : Res :=
  .next (s.vecIssue st cyc 0x01 fun w s => s.vmap st (fun v a b _ => lift2 Fp.add (· + ·) v a b) w)

def execVsub (st : StId) (cyc : BitVec 23) (s : State) : Res :=
  .next (s.vecIssue st cyc 0x02 fun w s => s.vmap st (fun v a b _ => lift2 Fp.sub (· - ·) v a b) w)

def execVmul (st : StId) (cyc : BitVec 23) (s : State) : Res :=
  .next (s.vecIssue st cyc 0x03 fun w s => s.vmap st (fun v a b _ => lift2 Fp.mul (· * ·) v a b) w)

/-- VFMA: fused; integers exact, then wrapped or saturated. -/
def execVfma (st : StId) (cyc : BitVec 23) (s : State) : Res :=
  .next (s.vecIssue st cyc 0x04 fun w s => s.vmap st (fun v a b c => lift3 Fp.fma (fun x y z => x * y + z) v a b c) w)

def execVmax (st : StId) (cyc : BitVec 23) (s : State) : Res :=
  .next (s.vecIssue st cyc 0x05 fun w s => s.vmap st (fun v a b _ => maxV v a b) w)

def execVmin (st : StId) (cyc : BitVec 23) (s : State) : Res :=
  .next (s.vecIssue st cyc 0x06 fun w s => s.vmap st (fun v a b _ => minV v a b) w)

/-- The absolute value of an element: the sign bit cleared in floating point, 127 for -128 in INT8; for the most negative
INT32 the spec states no result, and `free` stands for it. -/
def absV (free v a : Nat) : Nat :=
  if isFp v then a % 2 ^ (8 * viewW v - 1)
  else if v = 2 ∧ a = 2 ^ 31 then free % 2 ^ 32
  else patV v (Int.natAbs (intV v a))

/-- VABS (R189, R190). -/
def State.vabs (s : State) (st : StId) (w : Nat) : State :=
  let t := st.t.val
  let p := st.p.val
  let v := vView w
  let l := s.velems t p v (vVa w)
  let c := s.freeCtr
  ({ s with freeCtr := c + l.length }).vput t p v (vVd w)
    ((l.zip (List.range l.length)).map fun (x : Nat × Nat) => absV (Config.freeNat (c + x.2)) v x.1)

def execVabs (st : StId) (cyc : BitVec 23) (s : State) : Res :=
  .next (s.vecIssue st cyc 0x07 fun w s => s.vabs st w)

def execVaddi (st : StId) (cyc : BitVec 23) (s : State) : Res :=
  .next (s.vecIssue st cyc 0x08 fun w s => s.vmap st (fun v a _ _ => lift2 Fp.add (· + ·) v a (vImm w)) w)

def execVmuli (st : StId) (cyc : BitVec 23) (s : State) : Res :=
  .next (s.vecIssue st cyc 0x09 fun w s => s.vmap st (fun v a _ _ => lift2 Fp.mul (· * ·) v a (vImm w)) w)

def execVfmai (st : StId) (cyc : BitVec 23) (s : State) : Res :=
  .next (s.vecIssue st cyc 0x0A fun w s =>
    s.vmap st (fun v a b _ => lift3 Fp.fma (fun x y z => x * y + z) v a (vImm w) b) w)

def execVmaxi (st : StId) (cyc : BitVec 23) (s : State) : Res :=
  .next (s.vecIssue st cyc 0x0B fun w s => s.vmap st (fun v a _ _ => maxV v a (vImm w)) w)

/-- Whether a comparison holds: 0 equal, 1 less, 2 at most, 3 different; a NaN makes only the last hold (R190). -/
def cmpV (op v a b : Nat) : Bool :=
  if isFp v then
    let x := decV v a
    let y := decV v b
    if x.isNan || y.isNan then op == 3
    else
      let c := x.cmp y
      if op = 0 then decide (c = 0) else if op = 1 then decide (c < 0) else if op = 2 then decide (c ≤ 0) else decide (c ≠ 0)
  else
    let x := intV v a
    let y := intV v b
    if op = 0 then decide (x = y) else if op = 1 then decide (x < y) else if op = 2 then decide (x ≤ y) else decide (x ≠ y)

/-- VCMP: all ones or 0, and the flag (R190, R194). The elements written are masks: none counts as a NaN. -/
def State.vcmp (s : State) (st : StId) (w : Nat) : State :=
  let t := st.t.val
  let p := st.p.val
  let v := vView w
  let m := ((s.velems t p v (vVa w)).zip (s.velems t p v (vVb w))).map fun x => cmpV (bits w 0 2) v x.1 x.2
  let l := m.map fun b => if b then 2 ^ (8 * viewW v) - 1 else 0
  (s.setVreg t p (vVd w) (pack v l)).wr (VEC_STATE_FLAG t p) (b2n (m.any id))

def execVcmp (st : StId) (cyc : BitVec 23) (s : State) : Res :=
  .next (s.vecIssue st cyc 0x0C fun w s => s.vcmp st w)

/-- VSEL judges VC by its bits and moves patterns unchanged (R189). -/
def execVsel (st : StId) (cyc : BitVec 23) (s : State) : Res :=
  .next (s.vecIssue st cyc 0x0D fun w s => s.vmap st (fun _ a b c => if c = 0 then b else a) w)

/-- VLERP: d = round(VC - VB), then fused (R190). -/
def lerpV (v a b c : Nat) : Nat :=
  let d := decV v (encV v ((decV v c).sub (decV v b)))
  encV v ((decV v a).fma d (decV v b))

def execVlerp (st : StId) (cyc : BitVec 23) (s : State) : Res :=
  .next (s.vecIssue st cyc 0x0E fun w s => s.vmap st lerpV w)

/-- VDIV: divisions by zero are counted and set the flag (R192, R194). -/
def State.vdiv (s : State) (st : StId) (w : Nat) : State :=
  let t := st.t.val
  let p := st.p.val
  let v := vView w
  let n := ((s.velems t p v (vVa w)).zip (s.velems t p v (vVb w))).countP fun x => ((decV v x.1).divz (decV v x.2)).2
  let s := (s.vmap st (fun v a b _ => encV v ((decV v a).div (decV v b))) w).bump (VEC_DIV0 t p) n
  if n = 0 then s else s.wr (VEC_STATE_FLAG t p) 1

def execVdiv (st : StId) (cyc : BitVec 23) (s : State) : Res :=
  .next (s.vecIssue st cyc 0x0F fun w s => s.vdiv st w)

def execVexp (st : StId) (cyc : BitVec 23) (s : State) : Res :=
  .next (s.vecIssue st cyc 0x10 fun w s => s.vmap st (unary Fp.exp) w)
def execVexp2 (st : StId) (cyc : BitVec 23) (s : State) : Res :=
  .next (s.vecIssue st cyc 0x11 fun w s => s.vmap st (unary Fp.exp2) w)
def execVlog2 (st : StId) (cyc : BitVec 23) (s : State) : Res :=
  .next (s.vecIssue st cyc 0x12 fun w s => s.vmap st (unary Fp.log2) w)
def execVrcp (st : StId) (cyc : BitVec 23) (s : State) : Res :=
  .next (s.vecIssue st cyc 0x13 fun w s => s.vmap st (unary Fp.rcp) w)
def execVsqrt (st : StId) (cyc : BitVec 23) (s : State) : Res :=
  .next (s.vecIssue st cyc 0x14 fun w s => s.vmap st (unary Fp.sqrt) w)
def execVrsqrt (st : StId) (cyc : BitVec 23) (s : State) : Res :=
  .next (s.vecIssue st cyc 0x15 fun w s => s.vmap st (unary Fp.rsqrt) w)
def execVsigm (st : StId) (cyc : BitVec 23) (s : State) : Res :=
  .next (s.vecIssue st cyc 0x16 fun w s => s.vmap st (unary Fp.sigm) w)
def execVtanh (st : StId) (cyc : BitVec 23) (s : State) : Res :=
  .next (s.vecIssue st cyc 0x17 fun w s => s.vmap st (unary Fp.tanh) w)

def execVexpd (st : StId) (cyc : BitVec 23) (s : State) : Res :=
  .next (s.vecIssue st cyc 0x18 fun w s => s.vmap st (fun v a b _ => encV v ((decV v a).expd (decV v b))) w)

/-! ## Conversion, reduction, recurrence -/

/-- Bits of a VCVT target (R195). -/
def cvtBits (tg : Nat) : Nat := if tg = 0 ∨ tg = 2 then 32 else if tg = 1 then 16 else if tg = 4 then 4 else 8

/-- One element converted, and whether `VEC.NAN` counts it (R195). -/
def cvt (v tg a : Nat) : Nat × Bool :=
  let x := if isFp v then decV v a else Fp.ofInt (intV v a)
  if tg = 0 then (encW x, x.isNan)
  else if tg = 2 then
    match x with
    | .nan => (0, true)
    | .inf n => (if n then 2 ^ 31 else 2 ^ 31 - 1, false)
    | .num n m e => ((convInt 32 (.num n m e)).code, false)
  else
    let c := convOut (if tg = 1 then 5 else if tg = 3 then 0 else if tg = 4 then 3 else if tg = 5 then 1 else 2) x
    (c.code, c.isNan)

/-- The elements of `nbits` bits of a register. -/
def elemsBits (nbits : Nat) (b : List Byte) : List Nat :=
  let a := b.toArray
  (List.range (4096 / nbits)).map fun e => if nbits = 32 then leNat (slice b (4 * e) 4) else elemOf nbits a e

/-- VCVT (R195). -/
def State.vcvt (s : State) (st : StId) (w : Nat) : State :=
  let t := st.t.val
  let p := st.p.val
  let v := vView w
  let tg := bits w 0 4
  let part := bits w 4 3
  let tb := cvtBits tg
  let n := viewN v
  let src := s.velems t p v (vVa w)
  let r := if tb ≤ 8 * viewW v then
      let c := src.map (cvt v tg)
      (patch (elemsBits tb (s.vreg t p (vVd w))) (part * n) (c.map fun x => x.1), c.countP fun x => x.2)
    else
      let c := (slice src (part * (4096 / tb)) (4096 / tb)).map (cvt v tg)
      (c.map fun x => x.1, c.countP fun x => x.2)
  (s.setVreg t p (vVd w) (packElems tb r.1)).bump (VEC_NAN t p) r.2

def execVcvt (st : StId) (cyc : BitVec 23) (s : State) : Res :=
  .next (s.vecIssue st cyc 0x20 fun w s => s.vcvt st w)

/-- A list combined in pairs, on fuel (R193). -/
def tree {α : Type} (f : α → α → α) (d : α) : Nat → List α → α
  | 0, l => l.getD 0 d
  | n + 1, l =>
    match l with
    | [] => d
    | [x] => x
    | _ => tree f d n ((chunks 2 ((l.length + 1) / 2) l).map fun c => match c with
      | [x, y] => f x y
      | [x] => x
      | _ => d)

/-- The pair operation of VRED: add, max, min (R193). -/
def redFp (op : Nat) (x y : Fp) : Fp := if op = 0 then (x.add y).rnd 24 else if op = 1 then x.max y else x.min y
def redInt (op : Nat) (x y : Int) : Int :=
  if op = 0 then sext 32 (toBits 32 (x + y)) else if op = 1 then max x y else min x y

/-- The members of each row class, in increasing x. -/
def classes (l : List Nat) : List (List Nat) :=
  let a := l.toArray
  (List.range 32).map fun c => (List.range (l.length / 32)).map fun q => a.getD (32 * q + c) 0

/-- VRED (R193). -/
def State.vred (s : State) (st : StId) (w : Nat) : State :=
  let t := st.t.val
  let p := st.p.val
  let v := vView w
  let op := bits w 0 2
  let cl := classes (s.velems t p v (vVa w))
  let res : List Nat :=
    if isFp v then
      let r := cl.map fun c => tree (redFp op) fzero 8 (c.map (decV v))
      let r := if bit w 2 then List.replicate 32 (tree (redFp op) fzero 8 r) else r
      r.map (encV v)
    else
      let r := cl.map fun c => tree (redInt op) 0 8 (c.map (intV v))
      let r := if bit w 2 then List.replicate 32 (tree (redInt op) 0 8 r) else r
      r.map (patV v)
  s.vput t p v (vVd w) ((List.range (viewN v)).map fun x => res.getD (x % 32) 0)

def execVred (st : StId) (cyc : BitVec 23) (s : State) : Res :=
  .next (s.vecIssue st cyc 0x28 fun w s => s.vred st w)

/-- The recurrence of one group: h_i = fused(a_i h + b_i), each rounded (R196). -/
def scanGo (h : Fp) : List (Nat × Nat) → List Nat
  | [] => []
  | x :: l =>
    let e := encW ((decW x.1).fma h (decW x.2))
    e :: scanGo (decW e) l

/-- VSCAN (R196). -/
def State.vscan (s : State) (st : StId) (w : Nat) : State :=
  let t := st.t.val
  let p := st.p.val
  let a := s.velems t p 0 (vVa w)
  let b := s.velems t p 0 (vVb w)
  let c := s.velems t p 0 (vVc w)
  s.vput t p 0 (vVd w) (((List.range 4).map fun g =>
    scanGo (decW (c.getD (32 * g + 31) 0)) ((slice a (32 * g) 32).zip (slice b (32 * g) 32))).flatten)

def execVscan (st : StId) (cyc : BitVec 23) (s : State) : Res :=
  .next (s.vecIssue st cyc 0x30 fun w s => s.vscan st w)

/-! ## Window functions (R206, R208 to R211) -/

/-- A window function issues: it waits for every earlier TILEW run (R206); `addrs` names what it reads by kernel line, each
row counted once per line (R197, R204, R205); `k` computes its elements from the gathered rows, given the configuration and
the first output position. -/
def State.winIssue (s : State) (st : StId) (cyc : BitVec 23) (f : Nat)
    (addrs : State → WinCfg → Nat → Nat → List (Nat × Option (Nat × Nat)))
    (k : State → WinCfg → Nat → Nat → (Option (Nat × Nat) → Fp) → List Nat × Nat) : State :=
  s.issue st cyc (isVec f) fun w s =>
    let t := st.t.val
    let p := st.p.val
    let v := s.stn t p
    let wc := bits w 31 3
    let c := WinCfg.ofRow (v.wcfg.get wc (zeros 512))
    let d := s.desc t p (c.lbd % 8)
    let nb := fmtBits (dFmt d)
    let pos := s.rg (WIN_OPOS t p wc)
    if v.waiting.any fun r => opOf r.word == 2 then s.stall t p 8
    else if (decide (8 ≤ vVd w ∨ 8 ≤ vVb w ∨ 8 ≤ vVc w)) && v.lanesBusy then s.stall t p 3
    else
      let rows := ((addrs s c w pos).filterMap fun a => a.2.map fun x => (a.1, x.1)).eraseDups
      match s.gather t p d (rows.map fun a => a.2) [] with
      | (.wait a b k, _, s) => s.stallOn t p 4 (some (false, a, b, k))
      | (.unc own, _, s) => s.uncRead t p cyc.toNat own d
      | (.gone, _, s) => s.seqFault t p 0 stBadDescriptor cyc.toNat false false
      | (.ok _, m, s) =>
        let r := k s c w pos fun a => decFmt (dFmt d) (fromRows nb m a)
        let occ := if f = 0x3A then 160 else max (c.kh * c.kw + 4) rows.length
        let s := (s.wr (VEC_STATE_FUNC t p) f).vput t p 0 (vVd w) r.1
        let s := ((s.bump (VEC_BUSYCNT t p) occ).bump (WIN_FETCH t p) rows.length).bump (VEC_EMPTY t p) r.2
        let s := if f ≠ 0x3A ∧ bit w 0 then s.wr (WIN_OPOS t p wc) (pos + 32) else s
        s.advance t p

/-- The taps of an output position in a channel: inside, and address. -/
def winTaps (c : WinCfg) (nb pos ch : Nat) : List (Bool × Option (Nat × Nat)) :=
  (List.range (c.kh * c.kw)).map fun tap => c.tap nb pos tap ch

/-- Positions and channels of VDW and VPOOL, by element (R208). -/
def winElems (w pos : Nat) : List (Nat × Nat) :=
  (List.range 128).map fun x => (pos + x % 32, 4 * bits w 26 5 + x / 32)

/-- What VDW and VPOOL read, by kernel line. -/
def winReads (s : State) (st : StId) (c : WinCfg) (w pos : Nat) : List (Nat × Option (Nat × Nat)) :=
  let nb := fmtBits (dFmt (s.desc st.t.val st.p.val (c.lbd % 8)))
  ((winElems w pos).map fun q => (winTaps c nb q.1 q.2).zipIdx.map fun x => (if c.kw = 0 then 0 else x.2 / c.kw, x.1.2)).flatten

/-- VDW: a depthwise filter (R208). -/
def execVdw (st : StId) (cyc : BitVec 23) (s : State) : Res :=
  .next (s.winIssue st cyc 0x38 (fun s c w pos => winReads s st c w pos) fun s c w pos rd =>
    let t := st.t.val
    let p := st.p.val
    let nb := fmtBits (dFmt (s.desc t p (c.lbd % 8)))
    let wt := (s.velems t p 0 (vVb w)).toArray
    let a0 := (s.velems t p 0 (vVc w)).toArray
    (((winElems w pos).zip (List.range 128)).map fun q =>
      if c.positions ≤ q.1.1 ∨ c.c ≤ q.1.2 then 0
      else encW (((winTaps c nb q.1.1 q.1.2).zip (List.range (c.kh * c.kw))).foldl
        (fun acc x => ((rd x.1.2).fma (decW (wt.getD (4 * x.2 + q.2 / 32) 0)) acc).rnd 24) (decW (a0.getD q.2 0))), 0))

/-- One pooled element: its value, and 1 when the window has no value to take (R209). -/
def poolOne (op cnt : Bool) (l : List (Bool × Fp)) : Nat × Nat :=
  let ins := l.filter fun x => x.1
  if ¬ op then
    match ins with
    | [] => (0, 1)
    | x :: r => (encW (r.foldl (fun a y => a.max y.2) x.2), 0)
  else
    let use := if cnt then l else ins
    if use.isEmpty then (0, 1)
    else (encW ((use.foldl (fun a y => (a.add y.2).rnd 24) fzero).div (Fp.ofInt use.length)), 0)

/-- VPOOL: max or average pooling (R209). -/
def execVpool (st : StId) (cyc : BitVec 23) (s : State) : Res :=
  .next (s.winIssue st cyc 0x39 (fun s c w pos => winReads s st c w pos) fun s c w pos rd =>
    let nb := fmtBits (dFmt (s.desc st.t.val st.p.val (c.lbd % 8)))
    let r := (winElems w pos).map fun q =>
      if c.positions ≤ q.1 ∨ c.c ≤ q.2 then (0, 0)
      else poolOne (bit w 25) (bit w 24) ((winTaps c nb q.1 q.2).map fun x => (x.1, rd x.2))
    (r.map fun x => x.1, r.foldl (fun a x => a + x.2) 0))

/-- One coordinate of a crop sample: low and high index and fraction, none for a NaN (R211). -/
def cropAxis (lo hi : Fp) (n i size : Nat) : Option (Nat × Nat × Fp) :=
  let sc := (((hi.sub lo).rnd 24).div (Fp.ofInt n)).rnd 24
  let b := (lo.sub (.num false 1 (-1))).rnd 24
  let y := (sc.fma (.num false (2 * i + 1) (-1)) b).rnd 24
  if y.isNan then none
  else
    let y := (y.max fzero).min (Fp.ofInt (size - 1 : Nat))
    let l := y.floor.toNat
    some (l, min (l + 1) (size - 1), (y.sub (Fp.ofInt l)).rnd 24)

/-- The axes of element `x` of a VCROP, or none where it writes 0 without counting (`some none`: a NaN). -/
def cropAt (s : State) (st : StId) (c : WinCfg) (w x : Nat) : Option (Option ((Nat × Nat × Fp) × (Nat × Nat × Fp) × Nat)) :=
  let ch := bits w 21 5 + 1
  let cw := bits w 16 5 + 1
  let q := bits w 0 10 + x % 32
  let chan := 4 * bits w 11 5 + x / 32
  if ch * cw ≤ q ∨ c.c ≤ chan then none
  else
    let bx := s.velems st.t.val st.p.val 0 (vVc w)
    let e (i : Nat) : Fp := decW (bx.getD (4 * bits w 26 5 + i) 0)
    match cropAxis (e 0) (e 2) ch (q / cw) c.hIn, cropAxis (e 1) (e 3) cw (q % cw) c.wIn with
    | some y, some x => some (some (y, x, chan))
    | _, _ => some none

/-- The four addresses of a crop sample. -/
def cropAddrs (c : WinCfg) (nb : Nat) (q : (Nat × Nat × Fp) × (Nat × Nat × Fp) × Nat) : List (Option (Nat × Nat)) :=
  [some (c.place nb q.1.1 q.2.1.1 q.2.2), some (c.place nb q.1.1 q.2.1.2.1 q.2.2),
   some (c.place nb q.1.2.1 q.2.1.1 q.2.2), some (c.place nb q.1.2.1 q.2.1.2.1 q.2.2)]

/-- The bilinear sample (R211). -/
def cropSample (fx fy a b c d : Fp) : Fp :=
  let top := (fx.fma ((b.sub a).rnd 24) a).rnd 24
  let bot := (fx.fma ((d.sub c).rnd 24) c).rnd 24
  (fy.fma ((bot.sub top).rnd 24) top).rnd 24

/-- VCROP: crop and resize (R210, R211). -/
def execVcrop (st : StId) (cyc : BitVec 23) (s : State) : Res :=
  .next (s.winIssue st cyc 0x3A
    (fun s c w _ =>
      let nb := fmtBits (dFmt (s.desc st.t.val st.p.val (c.lbd % 8)))
      ((List.range 128).map fun x => match cropAt s st c w x with
        | some (some q) => (cropAddrs c nb q).map fun a => (0, a)
        | _ => []).flatten)
    fun s c w _ rd =>
      let nb := fmtBits (dFmt (s.desc st.t.val st.p.val (c.lbd % 8)))
      let r := (List.range 128).map fun x => match cropAt s st c w x with
        | none => (0, 0)
        | some none => (0, 1)
        | some (some q) =>
          match (cropAddrs c nb q).map rd with
          | [a, b, c', d] => (encW (cropSample q.2.1.2.2 q.1.2.2 a b c' d), 0)
          | _ => (0, 0)
      (r.map fun x => x.1, r.foldl (fun a x => a + x.2) 0))

/-! ## Box decode, suppression, top-K -/

def r24 (x : Fp) : Fp := x.rnd 24

/-- Decoded centre and size of one axis, as its two edges (R212). -/
def decodeAxis (tc ts cc size vc vs lc : Fp) : Fp × Fp :=
  let c := r24 ((r24 (tc.mul vc)).fma size cc)
  let h := r24 (size.mul (r24 ((r24 (ts.mul vs)).min lc).exp))
  let half := r24 ((Fp.num false 1 (-1)).mul h)
  (r24 (c.sub half), r24 (c.add half))

/-- VBDEC (R212). -/
def State.vbdec (s : State) (st : StId) (w : Nat) : State :=
  let t := st.t.val
  let p := st.p.val
  let a := ((s.velems t p 0 (vVa w)).map decW).toArray
  let b := ((s.velems t p 0 (vVb w)).map decW).toArray
  let c := ((s.velems t p 0 (vVc w)).map decW).toArray
  let e (x : Array Fp) (i : Nat) : Fp := x.getD i fzero
  s.vput t p 0 (vVd w) (((List.range 32).map fun i =>
    let y := decodeAxis (e a (4 * i)) (e a (4 * i + 2)) (e b (4 * i)) (e b (4 * i + 2)) (e c 0) (e c 2) (e c 4)
    let x := decodeAxis (e a (4 * i + 1)) (e a (4 * i + 3)) (e b (4 * i + 1)) (e b (4 * i + 3)) (e c 1) (e c 3) (e c 4)
    [encW y.1, encW x.1, encW y.2, encW x.2]).flatten)

def execVbdec (st : StId) (cyc : BitVec 23) (s : State) : Res :=
  .next (s.vecIssue st cyc 0x40 fun w s => s.vbdec st w)

/-- `x > y`, false when either is a NaN. -/
def Fp.gt (x y : Fp) : Bool := !(x.isNan || y.isNan) && decide (x.cmp y > 0)

/-- An entry put into a list ordered by score, highest first, equal scores by lower index first. -/
def insertScore (x : Fp × Int) : List (Fp × Int) → List (Fp × Int)
  | [] => [x]
  | y :: l => if x.1.gt y.1 || (x.1.cmp y.1 == 0 && decide (x.2 < y.2)) then x :: y :: l else y :: insertScore x l

/-- Whether box `k` suppresses box `b` (R214). -/
def suppresses (t0 : Fp) (k b : List Fp) : Bool :=
  let e (x : List Fp) (i : Nat) : Fp := x.getD i fzero
  let pos (x : Fp) : Fp := fzero.max x
  let area (x : List Fp) : Fp := r24 ((pos (r24 ((e x 2).sub (e x 0)))).mul (pos (r24 ((e x 3).sub (e x 1)))))
  let ov (lo hi : Nat) : Fp := pos (r24 (((e k hi).min (e b hi)).sub ((e k lo).max (e b lo))))
  let inter := r24 ((ov 0 2).mul (ov 1 3))
  let uni := r24 ((r24 ((area k).add (area b))).sub inter)
  inter.gt (r24 (t0.mul uni))

/-- The boxes kept, in order (R213). -/
def nmsGo (t0 : Fp) (boxes : Array (List Fp)) (mx : Nat) : List (Fp × Int) → List Nat → List Nat
  | [], kept => kept
  | x :: l, kept =>
    if mx ≤ kept.length then kept
    else
      let b := x.2.toNat
      if kept.any fun k => suppresses t0 (boxes.getD k []) (boxes.getD b []) then nmsGo t0 boxes mx l kept
      else nmsGo t0 boxes mx l (kept ++ [b])

/-- VNMS (R213, R214). -/
def State.vnms (s : State) (st : StId) (w : Nat) : State :=
  let t := st.t.val
  let p := st.p.val
  let nb := bits w 32 2 + 1
  let mx := if bits w 0 8 = 0 then 128 else bits w 0 8
  let vals := ((List.range nb).map fun i => (s.velems t p 0 (vVa w + i)).map decW).flatten
  let boxes := (chunks 4 (32 * nb) vals).toArray
  let sc := (s.velems t p 0 (vVb w)).map decW
  let c := (s.velems t p 0 (vVc w)).map decW
  let ts := c.getD 0 fzero
  let elig := (List.range (32 * nb)).filter fun i =>
    let x := sc.getD i .nan
    !x.isNan && !ts.isNan && decide (x.cmp ts ≥ 0)
  let order := elig.foldl (fun l i => insertScore (sc.getD i fzero, (i : Int)) l) []
  let kept := nmsGo (c.getD 1 fzero) boxes mx order []
  (s.setVreg t p (vVd w) (pack 2 (kept ++ List.replicate (128 - kept.length) (2 ^ 32 - 1)))).wr
    (VEC_STATE_FLAG t p) (b2n (!kept.isEmpty))

def execVnms (st : StId) (cyc : BitVec 23) (s : State) : Res :=
  .next (s.vecIssue st cyc 0x41 fun w s => s.vnms st w)

/-- VTOPK (R215); elements at and above K are written as unused entries. -/
def State.vtopk (s : State) (st : StId) (w : Nat) : State :=
  let t := st.t.val
  let p := st.p.val
  let k := bits w 16 7 + 1
  let old := if bit w 23 then [] else
    (((s.velems t p 2 (vVd w)).zip (s.velems t p 0 (vVc w))).take k).filterMap fun x =>
      if x.1 = 2 ^ 32 - 1 then none else some (decW x.2, intV 2 x.1)
  let new := ((s.velems t p 0 (vVa w)).zip (List.range 128)).map fun x => (decW x.1, ((bits w 0 16 + x.2 : Nat) : Int))
  let all := ((old ++ new).filter fun x => !x.1.isNan).foldl (fun l x => insertScore x l) []
  let top := all.take k
  let pad := 128 - top.length
  let s := s.setVreg t p (vVd w) (pack 2 ((top.map fun x => toBits 32 x.2) ++ List.replicate pad (2 ^ 32 - 1)))
  s.setVreg t p (vVc w) (pack 0 ((top.map fun x => encW x.1) ++ List.replicate pad (encW (.inf true))))

def execVtopk (st : StId) (cyc : BitVec 23) (s : State) : Res :=
  .next (s.vecIssue st cyc 0x42 fun w s => s.vtopk st w)

end Sys2Proof.Machine
end

