-- ==== Sys2Proof/Machine/Attn.lean ====
section
/-! DEFINITION. The attention units (chapter 9): translation, descriptor rows and job entries, the attention arithmetic,
appends with copy-on-write, and abandonment at cycle B. -/

namespace Sys2Proof.Machine

/-! ## Tables (R219, R220) -/

/-- A sequence entry. -/
structure SeqEnt where
  l1row : Nat
  tracks : Nat
  gen : Nat
  flags : Nat
  len : Nat
deriving DecidableEq, Repr

/-- Sequence entry `q`, and whether its read was uncorrectable. -/
def State.seqEnt (s : State) (t q : Nat) : (SeqEnt × Bool) × State :=
  let r := s.dramRead (12 + t) (s.rg PS_SEQ_BASE + 32 * q) 32
  let b := r.1.1
  ((⟨leAt b 0 4, leAt b 4 2, leAt b 6 1, leAt b 7 1, leAt b 8 4⟩, r.1.2), r.2)

/-- A translation's outcome (R220, R221, R237). -/
inductive TrRes where
  | ok (ppn sppn : Nat)
  | fail
  | unc
deriving DecidableEq, Repr

/-- Address of the L1 entry of logical page `lp` of a track. -/
def State.l1Addr (s : State) (e : SeqEnt) (tr lp : Nat) : Nat := s.rg PS_PT_BASE + 512 * (e.l1row + tr) + 8 * (lp / 64)

/-- Address of the L2 entry, from the L1 entry. -/
def State.l2Addr (s : State) (l1 lp : Nat) : Nat := s.rg PS_PT_BASE + 512 * bits l1 0 24 + 8 * (lp % 64)

/-- Whether the sequence entry allows a translation (R220). -/
def SeqEnt.good (e : SeqEnt) (gen tr : Nat) : Bool := bit e.flags 0 && e.gen == gen && decide (tr < e.tracks)

/-- Translates a logical page through the look-aside buffer and the walker (R220, R221). -/
def State.translate (s : State) (t : Nat) (e : SeqEnt) (seq gen tr lp : Nat) : TrRes × State :=
  if ¬ e.good gen tr ∨ 4096 ≤ lp then (.fail, s)
  else
    let same (x : LabEnt) : Bool := x.seq == seq && x.gen == gen && x.track == tr && x.lp == lp
    match (s.att t).lab.find? same with
    | some x =>
      let s := s.onAtt t fun a => { a with lab := x :: a.lab.filter fun y => !same y }
      (.ok x.ppn x.sppn, s.bump (ATT_HIT t))
    | none =>
      let s := s.bump (ATT_MISS t)
      let r1 := s.dramRead (12 + t) (s.l1Addr e tr lp) 8
      let s := r1.2
      let l1 := leNat r1.1.1
      if r1.1.2 then (.unc, s)
      else if ¬ bit l1 63 then (.fail, s)
      else
        let r2 := s.dramRead (12 + t) (s.l2Addr l1 lp) 8
        let s := r2.2
        let l2 := leNat r2.1.1
        if r2.1.2 then (.unc, s)
        else if ¬ bit l2 31 ∨ s.rg PS_KV_PAGES ≤ bits l2 0 22 ∨ s.rg PS_KV_PAGES ≤ bits l1 24 22 then (.fail, s)
        else
          let x : LabEnt := ⟨seq, gen, tr, lp, bits l2 0 22, bits l1 24 22⟩
          (.ok x.ppn x.sppn, s.onAtt t fun a => { a with lab := (x :: a.lab).take 64 })

/-! ## Terrace-store access -/

/-- `n` rows of a terrace store from `row`, none when a word is uncorrectable. -/
def State.tsRows (s : State) (t : Nat) : Nat → Nat → Option (List Byte) × State
  | _, 0 => (some [], s)
  | row, n + 1 =>
    match s.readTs t row with
    | (none, s) => (none, s)
    | (some b, s) => match s.tsRows t (row + 1) n with
      | (some l, s) => (some (b ++ l), s)
      | (none, s) => (none, s)

/-- Bytes written by the unit into a terrace store. -/
def State.tsPut (s : State) (a : Nat) (b : List Byte) : State := (s.st a b).clearMarks a (ceilDiv b.length 8)

/-! ## Job entries (R227) -/

/-- A descriptor row's header and one of its entries, as bytes. -/
structure Entry where
  hdr : List Byte
  e : List Byte
deriving DecidableEq, Repr

def Entry.next (x : Entry) : Nat := leAt x.hdr 0 2
def Entry.count (x : Entry) : Nat := max 1 (min 15 (leAt x.hdr 2 1))
def Entry.fmt (x : Entry) : Nat := leAt x.hdr 3 1
def Entry.step (x : Entry) : Nat := leAt x.hdr 4 2
def Entry.seq (x : Entry) : Nat := leAt x.e 0 2
def Entry.gen (x : Entry) : Nat := leAt x.e 2 1
def Entry.kind (x : Entry) : Nat := leAt x.e 3 1
def Entry.track (x : Entry) : Nat := leAt x.e 4 2
def Entry.qn (x : Entry) : Nat := leAt x.e 6 1
def Entry.g (x : Entry) : Nat := leAt x.e 7 1
def Entry.qpos (x : Entry) : Nat := leAt x.e 8 4
def Entry.kvlen (x : Entry) : Nat := leAt x.e 12 4
def Entry.qrow (x : Entry) : Nat := leAt x.e 16 2
def Entry.orow (x : Entry) : Nat := leAt x.e 18 2
def Entry.srow (x : Entry) : Nat := leAt x.e 20 2
def Entry.mrow (x : Entry) : Nat := leAt x.e 22 2
def Entry.mp0 (x : Entry) : Nat := leAt x.e 24 2
def Entry.mpn (x : Entry) : Nat := leAt x.e 26 2
def Entry.causal (x : Entry) : Bool := bit x.kind 1
def Entry.mdef (x : Entry) : Bool := bit x.kind 2

/-- The header and reserved bits of an entry are in order. -/
def Entry.hdrOk (x : Entry) : Bool :=
  decide (1 ≤ leAt x.hdr 2 1 ∧ leAt x.hdr 2 1 ≤ 15 ∧ x.fmt < 4 ∧ leAt x.hdr 6 26 = 0 ∧ x.seq < 2048 ∧ leAt x.e 29 1 = 0)

/-- `n` rows from `row` lie in the station region. -/
def State.rowsIn (s : State) (t row n : Nat) : Bool := decide (n = 0 ∨ row + n ≤ s.tsRegion t)

/-- Query rows, output rows and the like of an attend entry. -/
def Entry.outs (x : Entry) : Nat := x.qn * x.g
def Entry.orows (x : Entry) : Nat := if bit x.fmt 1 then ceilDiv x.outs 2 else x.outs
def Entry.mrows (x : Entry) : Nat := ceilDiv (x.qn * x.mpn) 64

/-- An attend entry that R227 does not refuse. -/
def State.attendOk (s : State) (t : Nat) (x : Entry) : Bool :=
  x.hdrOk && decide (x.kind < 8 ∧ 1 ≤ x.qn ∧ x.qn ≤ 64 ∧ 1 ≤ x.g ∧ x.g ≤ 8 ∧ x.kvlen ≤ 262144) &&
    s.rowsIn t x.qrow (ceilDiv x.outs 4) && s.rowsIn t x.orow (x.orows + 1) && s.rowsIn t x.srow (ceilDiv x.outs 256) &&
    s.rowsIn t x.mrow x.mrows

/-- An append entry that R227 does not refuse. -/
def State.appendOk (s : State) (t : Nat) (x : Entry) : Bool :=
  x.hdrOk && decide (x.kind = 1 ∧ 1 ≤ x.qn ∧ x.qn ≤ 64 ∧ x.g = 0 ∧ x.kvlen = 0 ∧ leAt x.e 22 6 = 0) &&
    s.rowsIn t x.qrow (ceilDiv x.qn 4) && s.rowsIn t x.orow (ceilDiv x.qn 4) && s.rowsIn t x.srow 1

/-! ## Arithmetic (R229, R231, R232) -/

/-- The running state of a query: m, l, o, and whether a NaN took part. -/
structure QAcc where
  m : Fp := .inf true
  l : Fp := fzero
  o : List Fp := []
  nan : Bool := false

/-- The mask word's bit, or MDEF (R229). `mask`: the mask rows' bytes. -/
def Entry.maskBit (x : Entry) (mask : Array Byte) (i pos : Nat) : Bool :=
  let lp := pos / 64
  if x.mp0 ≤ lp ∧ lp < x.mp0 + x.mpn then
    let w := i * x.mpn + lp - x.mp0
    bit (mask.getD (8 * w + pos % 64 / 8) 0#8).toNat (pos % 8)
  else x.mdef

/-- Whether query position `i` attends position `pos` (R229). -/
def Entry.attends (x : Entry) (mask : Array Byte) (i pos : Nat) : Bool :=
  decide (pos < x.kvlen) && (!x.causal || decide (pos ≤ x.qpos + i)) && x.maskBit mask i pos

/-- Logical pages of the entry's range (R229). -/
def Entry.range (x : Entry) : Nat :=
  let hi := if x.causal then min x.kvlen (x.qpos + x.qn) else x.kvlen
  if hi = 0 then 0 else (hi - 1) / 64 + 1

/-- The pages of the range that some query attends somewhere. -/
def Entry.pagesRead (x : Entry) (mask : Array Byte) : List Nat :=
  (List.range x.range).filter fun lp => (List.range x.qn).any fun i => (List.range 64).any fun t =>
    x.attends mask i (64 * lp + t)

/-- A KV page and its block of scales, decoded. -/
structure KvPage where
  k : Array (List Fp)
  v : Array (List Fp)
  sk : Array Fp
  sv : Array Fp

/-- One query and one page (R231, steps 1 to 7). -/
def attendPage (x : Entry) (mask : Array Byte) (i lp : Nat) (q : List Fp) (sq : Fp) (pg : KvPage) (a : QAcc) : QAcc :=
  let pos := List.range 64
  let att := pos.map fun t => x.attends mask i (64 * lp + t)
  let score (t : Nat) : Fp :=
    let d := dotExact q (pg.k.getD t [])
    let c := (sq.mul (pg.sk.getD t fzero)).rnd 24
    if d.isZero && c.isFin then fzero else (d.mul c).rnd 24
  let sc := (pos.zip att).map fun y => if y.2 then some (score y.1) else none
  let mu := sc.foldl (fun b y => match y with
    | some v => b.max v
    | none => b) (.inf true)
  let m' := a.m.max mu
  let kap := (a.m.expd m').rnd 24
  let p := sc.map fun y => match y with
    | some v => (v.expd m').rnd 24
    | none => fzero
  let addT := fun (u v : Fp) => (u.add v).rnd 24
  let bigP := tree addT fzero 7 p
  let w := (pos.zip p).map fun y => if att.getD y.1 false then (y.2.mul (pg.sv.getD y.1 fzero)).rnd 24 else fzero
  let u := (List.range 128).map fun e => tree addT fzero 7 ((pos.zip w).map fun y =>
    if att.getD y.1 false then (y.2.mul ((pg.v.getD y.1 []).getD e fzero)).rnd 24 else fzero)
  let bad := pos.any fun t => att.getD t false &&
    ((match sc.getD t none with
      | some v => v.isNan
      | none => false) || (pg.k.getD t []).any Fp.isNan || (pg.v.getD t []).any Fp.isNan ||
      (pg.sk.getD t fzero).isNan || (pg.sv.getD t fzero).isNan)
  { m := m', l := (a.l.fma kap bigP).rnd 24
    o := ((List.range 128).zip u).map fun y => ((a.o.getD y.1 fzero).fma kap y.2).rnd 24
    nan := a.nan || bad }

/-- A query's output elements, whether it is empty, whether it is written as NaN (R232). -/
def QAcc.out (a : QAcc) (sq : Fp) (q : List Fp) : List Fp × Bool × Bool :=
  if a.l.isZero then (List.replicate 128 fzero, true, false)
  else if a.nan || a.l.isNan || sq.isNan || q.any Fp.isNan then (List.replicate 128 .nan, false, true)
  else (a.o.map fun v => (v.div a.l).rnd 24, false, false)

/-! ## Ends of entries -/

/-- The next entry of the job, or the job is over (R227). -/
def State.nextEntry (s : State) (t : Nat) (x : Entry) : State :=
  let i := s.rg (ATT_STATUS_ENTRY t)
  if i + 1 < x.count then s.wr (ATT_STATUS_ENTRY t) (i + 1)
  else if x.next < s.tsRegion t then s.wrs [(ATT_STATUS_ROW t, x.next), (ATT_STATUS_ENTRY t, 0)]
  else s.onAtt t fun a => { a with fin := true }

/-- STATUS and NEMPTY of the running entry; a status other than OK is logged and reported (R227, R239, R258). -/
def State.setEntryStatus (s : State) (t : Nat) (x : Entry) (code empty : Nat) : State :=
  let a := tsAddr t (s.rg (ATT_STATUS_ROW t)) + 32 + 32 * s.rg (ATT_STATUS_ENTRY t)
  let s := (s.st (a + 28) (natLE 1 code)).st (a + 30) (natLE 2 empty)
  if code = stOk then
    (if empty = 0 then s else { s with ps := { s.ps with reports := s.ps.reports ++ [(x.step, x.seq, 0x100)] } })
  else
    let s := s.firstLog (ATT_FAULT_VALID t) (ATT_FAULT_MULTI t) [(ATT_FAULT_SEQ t, x.seq), (ATT_FAULT_CODE t, code)]
    { s with ps := { s.ps with reports := s.ps.reports ++ [(x.step, x.seq, code)] } }

def State.endEntry (s : State) (t : Nat) (x : Entry) (code empty : Nat) : State :=
  (s.setEntryStatus t x code empty).nextEntry t x

/-- The running entry of a unit, read from its descriptor row. -/
def State.entry (s : State) (t : Nat) : (Entry × Bool) × State :=
  match s.readTs t (s.rg (ATT_STATUS_ROW t)) with
  | (some b, s) => ((⟨b.take 32, slice b (32 + 32 * s.rg (ATT_STATUS_ENTRY t)) 32⟩, true), s)
  | (none, s) =>
    let b := s.ld (tsAddr t (s.rg (ATT_STATUS_ROW t))) 512
    ((⟨b.take 32, slice b (32 + 32 * s.rg (ATT_STATUS_ENTRY t)) 32⟩, false), s)

/-! ## Attend (R228 to R232, R235, R237) -/

/-- A page of the entry: translated, checked for poison, pinned and read, from a frame or from DRAM; or the status that
ends the entry. -/
def State.readPage (s : State) (t : Nat) (x : Entry) (e : SeqEnt) (lp : Nat) : Except Nat (List Byte × List Byte) × State :=
  match s.translate t e x.seq x.gen x.track lp with
  | (.fail, s) => (.error stBadDescriptor, s)
  | (.unc, s) => (.error stUncorrectable, s)
  | (.ok ppn sppn, s) =>
    if iPoison (s.info ppn) || iPoison (s.info sppn) then (.error stPoisoned, s)
    else
      let s := (s.pin x.step x.seq ppn).pin x.step x.seq sppn
      let rs := s.dramRead (12 + t) (s.kvAddr sppn + 256 * (lp % 64)) 256
      let s := rs.2
      if rs.1.2 then (.error stUncorrectable, s.setPoison sppn true)
      else
        let fromDram (s : State) : Except Nat (List Byte × List Byte) × State :=
          let r := s.dramRead (12 + t) (s.kvAddr ppn) 16384
          if r.1.2 then (.error stUncorrectable, r.2.setPoison ppn true) else (.ok (r.1.1, rs.1.1), r.2)
        match (List.range 128).find? fun f => s.on (ATT_FRAME_VALID t f) && s.rg (ATT_FRAME_PPN t f) == ppn with
        | none => fromDram s
        | some f => match s.tsRows t (frameRow f) 32 with
          | (some b, s) => (.ok (b, rs.1.1), s.bump (ATT_FRAMED t))
          | (none, s) => fromDram (s.wr (ATT_FRAME_VALID t f) 0)

/-- A page decoded in the sequence's KVFMT (R217, R218). -/
def decodePage (fmt : Nat) (b sc : List Byte) : KvPage :=
  let rows (o : Nat) : Array (List Fp) :=
    ((chunks 128 64 (slice b o 8192)).map fun r => r.map fun c => decFmt fmt c.toNat).toArray
  let scales (o : Nat) : Array Fp := ((List.range 64).map fun t => decB (leAt sc (o + 2 * t) 2)).toArray
  ⟨rows 0, rows 8192, scales 0, scales 128⟩

/-- The pages of an entry, in order, into the queries' running states. -/
def State.attendPages (s : State) (t : Nat) (x : Entry) (e : SeqEnt) (mask : Array Byte) (qs : List (Nat × List Fp × Fp)) :
    List Nat → List QAcc → Except Nat (List QAcc) × State
  | [], acc => (.ok acc, s)
  | lp :: l, acc =>
    match s.readPage t x e lp with
    | (.error c, s) => (.error c, s)
    | (.ok (b, sc), s) =>
      let pg := decodePage (bits e.flags 2 1) b sc
      s.attendPages t x e mask qs l ((qs.zip acc).map fun y => attendPage x mask y.1.1 lp y.1.2.1 y.1.2.2 pg y.2)

/-- The outputs, the empty bitmap and the counts of an entry that completes (R228, R232). -/
def State.writeOutputs (s : State) (t : Nat) (x : Entry) (outs : List (List Fp × Bool × Bool)) : State :=
  let bf := bit x.fmt 1
  let base := tsAddr t x.orow
  let s := ((List.range outs.length).zip outs).foldl (fun s y =>
    let el := y.2.1
    if bf then s.tsPut (base + 256 * y.1) (el.map fun v => natLE 2 (convB v).code).flatten
    else s.tsPut (base + 512 * y.1) (el.map fun v => natLE 4 (encW v)).flatten) s
  let empties := outs.map fun y => y.2.1
  let map := ((List.range outs.length).zip empties).foldl (fun a y => a + b2n y.2 * 2 ^ y.1) 0
  let s := s.tsPut (tsAddr t (x.orow + x.orows)) (natLE 64 map ++ zeros 448)
  let s := s.bump (ATT_EMPTY t) (empties.filter id).length
  s.bump (ATT_NAN t) (outs.filter fun y => y.2.2).length

/-- An attend entry runs to its end. -/
def State.attendRun (s : State) (t : Nat) (x : Entry) : State :=
  let q := s.tsRows t x.qrow (ceilDiv x.outs 4)
  let sc := q.2.tsRows t x.srow (ceilDiv x.outs 256)
  let mk := sc.2.tsRows t x.mrow x.mrows
  let s := mk.2
  match q.1, sc.1, mk.1 with
  | some qb, some sb, some mb =>
    let mask := mb.toArray
    let pages := x.pagesRead mask
    let qs : List (Nat × List Fp × Fp) := (List.range x.outs).map fun b =>
      (b / x.g, (slice qb (512 * (b / 4) + 128 * (b % 4)) 128).map fun c => decFmt (bits x.fmt 0 1) c.toNat,
       decB (leAt sb (512 * (b / 256) + 2 * (b % 256)) 2))
    let acc0 : List QAcc := qs.map fun _ => { o := List.replicate 128 fzero }
    let r : Except Nat (List QAcc) × State :=
      if pages.isEmpty then (.ok acc0, s)
      else
        let e := s.seqEnt t x.seq
        if e.1.2 then (.error stUncorrectable, e.2) else e.2.attendPages t x e.1.1 mask qs pages acc0
    match r with
    | (.error c, s) => s.endEntry t x c 0
    | (.ok acc, s) =>
      let outs := (qs.zip acc).map fun y => y.2.out y.1.2.2 y.1.2.1
      (s.writeOutputs t x outs).endEntry t x stOk (outs.filter fun y => y.2.1).length
  | _, _, _ => s.endEntry t x stUncorrectable 0

/-- Whether a unit has an entry to run. -/
def State.attBusy (s : State) (t : Nat) : Bool := s.on (ATT_STATUS_BUSY t) && !(s.att t).fin

def State.attend (s : State) (t : Nat) : State :=
  if ¬ s.attBusy t then s
  else
    let r := s.entry t
    let x := r.1.1
    if bit x.kind 0 then s
    else if ¬ r.1.2 then r.2.endEntry t x stUncorrectable 0
    else if ¬ r.2.attendOk t x then r.2.endEntry t x stBadDescriptor 0
    else if x.range ≠ 0 ∧ ¬ s.on PS_CTRL_EN then s
    else r.2.attendRun t x

def execAttendEntry (t : Fin 12) (s : State) : Res := .next (s.attend t.val)

/-! ## Append (R233, R234) -/

/-- Whether a sequence of the books maps `ppn` as logical page `lp` of some track. -/
def State.maps (s : State) (r : SeqRec) (lp ppn : Nat) : Bool :=
  (List.range (s.ldN (s.rg PS_SEQ_BASE + 32 * r.seq + 4) 2)).any fun tr =>
    let v := s.ldN (s.rg PS_PT_BASE + 512 * (r.l2row + tr * r.l2per + lp / 64) + 8 * (lp % 64)) 8
    bit v 31 && bits v 0 22 == ppn

/-- A page drawn for a copy is debited to the writer's reservation, or to that of a sharer of the page (R246). -/
def State.debitCopy (s : State) (seq lp ppn : Nat) : State :=
  let l := s.loader.seqs
  match (l.find? fun r => r.seq == seq && r.cow != 0).orElse fun _ => l.find? fun r => r.cow != 0 && s.maps r lp ppn with
  | none => s
  | some r => { s with loader := { s.loader with
      seqs := l.map fun y => if y.seq = r.seq then { y with resv := y.resv - 1, cow := y.cow - 1 } else y } }

/-- Copies a shared page for its writer and remaps it (R234): the page to write, or the status. -/
def State.cow (s : State) (t : Nat) (x : Entry) (e : SeqEnt) (lp ppn : Nat) : Except Nat Nat × State :=
  if iRef (s.info ppn) ≤ 1 then (.ok ppn, s)
  else
    let r := s.dramRead (12 + t) (s.kvAddr ppn) 16384
    if r.1.2 then (.error stUncorrectable, r.2.setPoison ppn true)
    else
      let n := r.2.takePage true
      let s := n.2.dramWrite (12 + t) (n.2.kvAddr n.1) r.1.1
      let l1 := s.ldN (s.l1Addr e x.track lp) 8
      let a := s.l2Addr l1 lp
      let l2 := s.ldN a 8
      let s := s.stN a 8 (l2 - bits l2 0 22 + n.1)
      let s := s.labDrop fun y => y.seq == x.seq && y.track == x.track && y.lp == lp
      ((.ok n.1), ((s.debitCopy x.seq lp ppn).dropRef ppn).bump PS_COW)

/-- Bytes of a page written in DRAM and in every frame of the unit that names it (R224). -/
def State.pagePut (s : State) (t ppn off : Nat) (b : List Byte) : State :=
  let s := s.dramWrite (12 + t) (s.kvAddr ppn + off) b
  (List.range 128).foldl (fun s f =>
    if s.rg (ATT_FRAME_PPN t f) = ppn ∧ s.on (ATT_FRAME_VALID t f) then s.tsPut (tsAddr t (frameRow f) + off) b else s) s

/-- Position `n` of an append written into its page and scale page (R233). -/
def State.appendPos (s : State) (t : Nat) (x : Entry) (kb vb sb : List Byte) (ppn sppn n : Nat) : State :=
  let pos := x.qpos + n
  let at' (b : List Byte) : List Byte := slice b (512 * (n / 4) + 128 * (n % 4)) 128
  let s := s.pagePut t ppn (128 * (pos % 64)) (at' kb)
  let s := s.pagePut t ppn (8192 + 128 * (pos % 64)) (at' vb)
  let o := s.kvAddr sppn + 256 * (pos / 64 % 64) + 2 * (pos % 64)
  let s := s.dramWrite (12 + t) o (slice sb (2 * n) 2)
  s.dramWrite (12 + t) (o + 128) (slice sb (128 + 2 * n) 2)

/-- Translations of the logical pages an append writes. -/
def State.trAll (s : State) (t : Nat) (x : Entry) (e : SeqEnt) : List Nat → Except Nat (List (Nat × Nat × Nat)) × State
  | [] => (.ok [], s)
  | lp :: l => match s.translate t e x.seq x.gen x.track lp with
    | (.fail, s) => (.error stBadDescriptor, s)
    | (.unc, s) => (.error stUncorrectable, s)
    | (.ok p sp, s) => match s.trAll t x e l with
      | (.ok r, s) => (.ok ((lp, p, sp) :: r), s)
      | r => r

/-- Copies on write for each page of the append, in order. -/
def State.cowAll (s : State) (t : Nat) (x : Entry) (e : SeqEnt) : List (Nat × Nat × Nat) →
    Except Nat (List (Nat × Nat × Nat)) × State
  | [] => (.ok [], s)
  | (lp, p, sp) :: l => match s.cow t x e lp p with
    | (.error c, s) => (.error c, s)
    | (.ok p', s) => match s.cowAll t x e l with
      | (.ok r, s) => (.ok ((lp, p', sp) :: r), s)
      | r => r

def State.appendRun (s : State) (t : Nat) (x : Entry) : State :=
  let k := s.tsRows t x.qrow (ceilDiv x.qn 4)
  let v := k.2.tsRows t x.orow (ceilDiv x.qn 4)
  let sc := v.2.tsRows t x.srow 1
  let e := sc.2.seqEnt t x.seq
  let s := e.2
  match k.1, v.1, sc.1 with
  | some kb, some vb, some sb =>
    if e.1.2 then s.endEntry t x stUncorrectable 0
    else if x.qpos < e.1.1.len ∧ e.1.1.good x.gen x.track then s.endEntry t x stBadDescriptor 0
    else
      let first := x.qpos / 64
      let last := (x.qpos + x.qn - 1) / 64
      match s.trAll t x e.1.1 (if first = last then [first] else [first, last]) with
      | (.error c, s) => s.endEntry t x c 0
      | (.ok pgs, s) =>
        if pgs.any fun y => iPoison (s.info y.2.1) || iPoison (s.info y.2.2) then s.endEntry t x stPoisoned 0
        else if s.rg PS_RESV < (pgs.filter fun y => decide (1 < iRef (s.info y.2.1))).length then
          s.endEntry t x stRefusedMemory 0
        else
          match s.cowAll t x e.1.1 pgs with
          | (.error c, s) => s.endEntry t x c 0
          | (.ok pgs, s) =>
            let s := (List.range x.qn).foldl (fun s n =>
              match pgs.find? fun y => y.1 == (x.qpos + n) / 64 with
              | some y => s.appendPos t x kb vb sb y.2.1 y.2.2 n
              | none => s) s
            s.endEntry t x stOk 0
  | _, _, _ => s.endEntry t x stUncorrectable 0

def State.append (s : State) (t : Nat) : State :=
  if ¬ s.attBusy t then s
  else
    let r := s.entry t
    let x := r.1.1
    if ¬ bit x.kind 0 then s
    else if ¬ r.1.2 then r.2.endEntry t x stUncorrectable 0
    else if ¬ r.2.appendOk t x then r.2.endEntry t x stBadDescriptor 0
    else if ¬ s.on PS_CTRL_EN then s
    else r.2.appendRun t x

def execAppendEntry (t : Fin 12) (s : State) : Res := .next (s.append t.val)

/-! ## Jobs (R225, R226) -/

/-- The lowest ready queue's job starts on an idle unit. -/
def State.jobStart (s : State) (t : Nat) : State :=
  if s.on (ATT_STATUS_BUSY t) then s
  else match (List.range 4).find? fun q => s.on (ATT_Q_EN t q) && !s.on (ATT_Q_RAN t q) &&
      bit (s.rg (TFLAG_STATE_FLAGS t)) (s.rg (ATT_Q_GO t q)) with
    | none => s
    | some q =>
      let row := s.rg (ATT_Q_ROW t q)
      let s := s.wrs [(ATT_Q_RAN t q, 1), (ATT_STATUS_BUSY t, 1), (ATT_STATUS_QUEUE t, q), (ATT_STATUS_ROW t, row),
        (ATT_STATUS_ENTRY t, 0)]
      s.onAtt t fun a => { a with fin := decide (s.tsRegion t ≤ row) }

def execAttentionJobStart (t : Fin 12) (s : State) : Res := .next (s.jobStart t.val)

/-- The job is complete: DONE is set (R225). -/
def State.jobDone (s : State) (t : Nat) : State :=
  if s.on (ATT_STATUS_BUSY t) ∧ (s.att t).fin then
    let f := s.rg (ATT_Q_DONE t (s.rg (ATT_STATUS_QUEUE t)))
    let s := s.wr (TFLAG_STATE_FLAGS t) (setBit (s.rg (TFLAG_STATE_FLAGS t)) f true)
    (s.wr (ATT_STATUS_BUSY t) 0).onAtt t fun a => { a with fin := false }
  else s

def execAttentionJobDone (t : Fin 12) (s : State) : Res := .next (s.jobDone t.val)

/-- The running entry and those after it are given TIMEOUT, on fuel (R226). -/
def State.timeoutEntries (s : State) (t : Nat) : Nat → State
  | 0 => s
  | n + 1 =>
    if s.attBusy t then
      let r := s.entry t
      (r.2.endEntry t r.1.1 stTimeout 0).timeoutEntries t n
    else s

/-- A job still running at cycle B is abandoned (R226). -/
def State.attAbandon (s : State) (t : Nat) : State :=
  if s.on (ATT_STATUS_BUSY t) then
    let s := s.timeoutEntries t 61440
    (s.wr (ATT_STATUS_BUSY t) 0).onAtt t fun a => { a with fin := false }
  else s

/-- The queues of a new tide may run again (R225). -/
def State.attTide (s : State) (t : Nat) : State := (List.range 4).foldl (fun s q => s.wr (ATT_Q_RAN t q) 0) s

end Sys2Proof.Machine
end

