-- ==== Sys2Proof/Machine/Crypto.lean ====
section
/-! DEFINITION. Checks and ciphers the manual names by their standards: CRC-32C (R271) and CRC-16, AES-256 with XTS and key
wrap (R285, R494), SHA-384 and ECDSA on P-384 (R457, R486). -/

namespace Sys2Proof.Machine

/-! ## CRC -/

/-- One reflected CRC step of eight bits with polynomial `p` (reflected). -/
def crcBits (p : Nat) : Nat → Nat → Nat
  | 0, c => c
  | n + 1, c => crcBits p n (if c % 2 = 1 then (c / 2) ^^^ p else c / 2)

/-- CRC-32C of the Castagnoli polynomial, reflected (R271). -/
def crc32c (l : List Byte) : Nat :=
  (l.foldl (fun c b => crcBits 0x82F63B78 8 (c ^^^ b.toNat)) 0xFFFFFFFF) ^^^ 0xFFFFFFFF

/-- Eight steps of an unreflected 16-bit CRC with polynomial 0x1021. -/
def crc16Bits : Nat → Nat → Nat
  | 0, c => c
  | n + 1, c => crc16Bits n (if 0x8000 ≤ c then (2 * c % 65536) ^^^ 0x1021 else 2 * c)

/-- CRC-16 with polynomial 0x1021, initial value 0xFFFF, no reflection, no final XOR (R370). -/
def crc16 (l : List Byte) : Nat := l.foldl (fun c b => crc16Bits 8 (c ^^^ (b.toNat * 256))) 0xFFFF

/-! ## AES-256 -/

/-- Multiplication by x in GF(2^8). -/
def xtime (a : Nat) : Nat := if 128 ≤ a then ((2 * a) ^^^ 0x11B) % 256 else 2 * a

/-- Multiplication in GF(2^8), on fuel 8. -/
def gmul : Nat → Nat → Nat → Nat
  | 0, _, _ => 0
  | n + 1, a, b => (if b % 2 = 1 then a else 0) ^^^ gmul n (xtime a) (b / 2)

/-- The inverse in GF(2^8): the 254th power. -/
def ginv (a : Nat) : Nat :=
  let m := gmul 8
  let a2 := m a a
  let a4 := m a2 a2
  let a8 := m a4 a4
  let a16 := m a8 a8
  let a32 := m a16 a16
  let a64 := m a32 a32
  let a128 := m a64 a64
  m (m (m a2 a4) (m a8 a16)) (m (m a32 a64) a128)

def rotl8 (a n : Nat) : Nat := (a * 2 ^ n) % 256 + a / 2 ^ (8 - n)

/-- The S-box value of a byte: the affine map of the inverse. -/
def sboxOf (a : Nat) : Nat :=
  let b := ginv a
  b ^^^ rotl8 b 1 ^^^ rotl8 b 2 ^^^ rotl8 b 3 ^^^ rotl8 b 4 ^^^ 0x63

def sbox : Array Nat := ((List.range 256).map sboxOf).toArray

/-- The inverse S-box. -/
def invSbox : Array Nat :=
  ((List.range 256).zip ((List.range 256).map sboxOf)).foldl (fun a y => a.setIfInBounds y.2 y.1)
    (List.replicate 256 0).toArray

/-- The round-key words of AES-256, 60 of four bytes; on fuel, words so far newest first. -/
def expandKey : Nat → Nat → Nat → List (List Nat) → List (List Nat)
  | 0, _, _, w => w
  | n + 1, i, rc, w =>
    let t := w.headD []
    let t := if i % 8 = 0 then
        ((t.drop 1 ++ t.take 1).map fun b => sbox.getD b 0).mapIdx fun k b => if k = 0 then b ^^^ rc else b
      else if i % 8 = 4 then t.map fun b => sbox.getD b 0 else t
    let v := List.zipWith (· ^^^ ·) (w.getD 7 []) t
    expandKey n (i + 1) (if i % 8 = 0 then xtime rc else rc) (v :: w)

/-- The 15 round keys of 16 bytes of a 32-byte key. -/
def roundKeys (key : List Byte) : List (List Nat) :=
  let k := (chunks 4 8 key).map fun c => c.map BitVec.toNat
  chunks 16 15 ((expandKey 52 8 1 k.reverse).reverse.flatten)

def xorL (a b : List Nat) : List Nat := List.zipWith (· ^^^ ·) a b

/-- ShiftRows by index: byte `r + 4 c` comes from column `c + r`. -/
def shiftRows (inv : Bool) (s : List Nat) : List Nat :=
  let a := s.toArray
  (List.range 16).map fun i =>
    let r := i % 4
    let c := i / 4
    a.getD (r + 4 * ((if inv then c + 4 - r else c + r) % 4)) 0

/-- One column through the matrix of coefficients `m` (first row). -/
def mixCol (m : List Nat) (c : List Nat) : List Nat :=
  (List.range 4).map fun r => ((List.range 4).map fun k => gmul 8 (c.getD k 0) (m.getD ((k + 4 - r) % 4) 0)).foldl (· ^^^ ·) 0

def mixCols (m : List Nat) (s : List Nat) : List Nat := ((chunks 4 4 s).map (mixCol m)).flatten

/-- AES-256 encryption of a block with its round keys. -/
def aesEnc (rk : List (List Nat)) (b : List Nat) : List Nat :=
  let s0 := xorL b (rk.headD [])
  let sub (s : List Nat) : List Nat := s.map fun x => sbox.getD x 0
  let s := ((rk.drop 1).take 13).foldl (fun s k => xorL (mixCols [2, 3, 1, 1] (shiftRows false (sub s))) k) s0
  xorL (shiftRows false (sub s)) (rk.getD 14 [])

/-- AES-256 decryption of a block. -/
def aesDec (rk : List (List Nat)) (b : List Nat) : List Nat :=
  let sub (s : List Nat) : List Nat := s.map fun x => invSbox.getD x 0
  let s := xorL b (rk.getD 14 [])
  let s := (((rk.drop 1).take 13).reverse).foldl
    (fun s k => mixCols [14, 11, 13, 9] (xorL (sub (shiftRows true s)) k)) s
  xorL (sub (shiftRows true s)) (rk.headD [])

def toNats (b : List Byte) : List Nat := b.map BitVec.toNat
def ofNats (b : List Nat) : List Byte := b.map (BitVec.ofNat 8)

/-- The next XTS tweak: multiplication by x, the block read as a little-endian number. -/
def xtsNext (t : Nat) : Nat := if t / 2 ^ 127 = 1 then ((2 * t) % 2 ^ 128) ^^^ 0x87 else 2 * t

/-- XTS over whole 16-byte blocks (IEEE 1619). -/
def xtsBlocks (enc : Bool) (rk : List (List Nat)) : Nat → List (List Byte) → List Byte
  | _, [] => []
  | t, b :: l =>
    let tw := toNats (natLE 16 t)
    let x := xorL (toNats b) tw
    ofNats (xorL (if enc then aesEnc rk x else aesDec rk x) tw) ++ xtsBlocks enc rk (xtsNext t) l

/-- One XTS data unit under a 64-byte key pair and a 16-byte tweak (R285). -/
def xts (enc : Bool) (key tweak data : List Byte) : List Byte :=
  let rk1 := roundKeys (key.take 32)
  let rk2 := roundKeys (slice key 32 32)
  let t0 := leNat (ofNats (aesEnc rk2 (toNats tweak)))
  xtsBlocks enc rk1 t0 (chunks 16 (data.length / 16) data)

/-- One unwrapping step of the key wrap (RFC 3394) for index `t`; registers `a` and `r`. -/
def unwrapStep (rk : List (List Nat)) (n : Nat) (t : Nat) (st : Nat × List (List Byte)) : Nat × List (List Byte) :=
  let i := (t - 1) % n
  let x := aesDec rk (toNats (natBE 8 (st.1 ^^^ t) ++ st.2.getD i []))
  (beNat (ofNats (x.take 8)), st.2.set i (ofNats (x.drop 8)))

/-- Unwraps a wrapped key of `8 (n + 1)` bytes: the integrity value and the key (R494). -/
def unwrap (kek wrapped : List Byte) : Nat × List Byte :=
  let n := wrapped.length / 8 - 1
  let rk := roundKeys kek
  let st0 := (beNat (wrapped.take 8), chunks 8 n (wrapped.drop 8))
  let r := ((List.range (6 * n)).map fun j => 6 * n - j).foldl (fun st t => unwrapStep rk n t st) st0
  (r.1, r.2.flatten)

/-- Encrypts one zero block, the key check value of R494. -/
def keyCheck (key : List Byte) : List Byte := ofNats (aesEnc (roundKeys key) (List.replicate 16 0))

/-! ## SHA-384 -/

/-- Fractional bits of an integer root: `floor(root * 2^64) % 2^64`, by bisection on fuel. -/
def rootBits (pow v : Nat) : Nat → Nat → Nat
  | 0, r => r % 2 ^ 64
  | n + 1, r => rootBits pow v n (if (r + 2 ^ n) ^ pow ≤ v * 2 ^ (64 * pow) then r + 2 ^ n else r)

/-- The primes up to a bound, by trial division. -/
def primesTo (n : Nat) : List Nat := (List.range (n + 1)).filter fun p =>
  2 ≤ p && ((List.range p).all fun d => d < 2 || p % d != 0)

/-- The 80 round constants: fractional cube roots of the first 80 primes. -/
def shaK : List Nat := ((primesTo 409).take 80).map fun p => rootBits 3 p 68 0

/-- The initial state of SHA-384: fractional square roots of the ninth to sixteenth primes. -/
def shaInit : List Nat := (((primesTo 60).drop 8).take 8).map fun p => rootBits 2 p 68 0

def rotr64 (x n : Nat) : Nat := x / 2 ^ n + x % 2 ^ n * 2 ^ (64 - n)

/-- The message schedule, newest first, on fuel. -/
def shaSched : Nat → List Nat → List Nat
  | 0, w => w
  | n + 1, w =>
    let a := w.getD 14 0
    let b := w.getD 1 0
    let s0 := rotr64 a 1 ^^^ rotr64 a 8 ^^^ (a / 2 ^ 7)
    let s1 := rotr64 b 19 ^^^ rotr64 b 61 ^^^ (b / 2 ^ 6)
    shaSched n (((w.getD 15 0 + s0 + w.getD 6 0 + s1) % 2 ^ 64) :: w)

/-- One block of SHA-512's compression. -/
def shaBlock (h : List Nat) (b : List Byte) : List Nat :=
  let w := (shaSched 64 ((chunks 8 16 b).map beNat).reverse).reverse
  let st := (w.zip shaK).foldl (fun v x =>
    match v with
    | [a, b, c, d, e, f, g, h] =>
      let s1 := rotr64 e 14 ^^^ rotr64 e 18 ^^^ rotr64 e 41
      let ch := (e &&& f) ^^^ ((2 ^ 64 - 1 - e) &&& g)
      let t1 := h + s1 + ch + x.2 + x.1
      let s0 := rotr64 a 28 ^^^ rotr64 a 34 ^^^ rotr64 a 39
      let mj := (a &&& b) ^^^ (a &&& c) ^^^ (b &&& c)
      [(t1 + s0 + mj) % 2 ^ 64, a, b, c, (d + t1) % 2 ^ 64, e, f, g]
    | v => v) h
  List.zipWith (fun a b => (a + b) % 2 ^ 64) h st

/-- SHA-384 of a byte string. -/
def sha384 (m : List Byte) : List Byte :=
  let pad := m ++ [0x80#8] ++ zeros ((239 - m.length % 128) % 128) ++ natBE 16 (8 * m.length)
  let h := (chunks 128 (pad.length / 128) pad).foldl shaBlock shaInit
  ((h.take 6).map (natBE 8)).flatten

/-! ## ECDSA on P-384 -/

def p384p : Nat := 2 ^ 384 - 2 ^ 128 - 2 ^ 96 + 2 ^ 32 - 1
def p384b : Nat := 0xb3312fa7e23ee7e4988e056be3f82d19181d9c6efe8141120314088f5013875ac656398d8a2ed19d2a85c8edd3ec2aef
def p384n : Nat := 0xffffffffffffffffffffffffffffffffffffffffffffffffc7634d81f4372ddf581a0db248b0a77aecec196accc52973
def p384x : Nat := 0xaa87ca22be8b05378eb1c71ef320ad746e1d3b628ba79b9859f741e082542a385502f25dbf55296c3a545e3872760ab7
def p384y : Nat := 0x3617de4a96262c6f5d9e98bf9292dc29f8f41dbd289a147ce9da3113b5f0b8c00a60b1ce1d7e819d7a431d7c90ea0e5f

/-- `b ^ e` modulo `m`, on fuel bits of `e`. -/
def powMod (m : Nat) : Nat → Nat → Nat → Nat → Nat
  | 0, _, _, acc => acc
  | n + 1, b, e, acc => powMod m n (b * b % m) (e / 2) (if e % 2 = 1 then acc * b % m else acc)

/-- The inverse modulo a prime. -/
def invMod (m a : Nat) : Nat := powMod m 400 (a % m) (m - 2) 1

/-- A point in Jacobian coordinates; z = 0 is the point at infinity. -/
structure JPt where
  x : Nat
  y : Nat
  z : Nat
deriving DecidableEq, Repr

def subP (a b : Nat) : Nat := (a + p384p - b % p384p) % p384p

/-- Doubling (a = -3). -/
def JPt.dbl (p : JPt) : JPt :=
  if p.z = 0 ∨ p.y = 0 then ⟨1, 1, 0⟩
  else
    let m := p384p
    let d := p.z * p.z % m
    let g := p.y * p.y % m
    let b := p.x * g % m
    let a := 3 * (subP p.x d) * ((p.x + d) % m) % m
    let x3 := subP (a * a % m) (8 * b % m)
    let z3 := 2 * p.y * p.z % m
    let y3 := subP (a * subP (4 * b % m) x3 % m) (8 * g * g % m)
    ⟨x3, y3, z3⟩

/-- Addition. -/
def JPt.add (p q : JPt) : JPt :=
  if p.z = 0 then q else if q.z = 0 then p
  else
    let m := p384p
    let z1 := p.z * p.z % m
    let z2 := q.z * q.z % m
    let u1 := p.x * z2 % m
    let u2 := q.x * z1 % m
    let s1 := p.y * q.z * z2 % m
    let s2 := q.y * p.z * z1 % m
    if u1 = u2 then (if s1 = s2 then p.dbl else ⟨1, 1, 0⟩)
    else
      let h := subP u2 u1
      let r := subP s2 s1
      let h2 := h * h % m
      let h3 := h * h2 % m
      let v := u1 * h2 % m
      let x3 := subP (subP (r * r % m) h3) (2 * v % m)
      let y3 := subP (r * subP v x3 % m) (s1 * h3 % m)
      ⟨x3, y3, h * p.z * q.z % m⟩

/-- `k` times a point, most significant bit first, on the number of bits. -/
def JPt.smul (p : JPt) (k : Nat) : Nat → JPt
  | 0 => ⟨1, 1, 0⟩
  | n + 1 => if bit k 0 then ((p.smul (k / 2) n).dbl).add p else (p.smul (k / 2) n).dbl

/-- Whether a public point lies on the curve. -/
def onCurve (x y : Nat) : Bool :=
  decide (x < p384p ∧ y < p384p) && decide (y * y % p384p = (x * x * x + (p384p - 3) * x + p384b) % p384p)

/-- ECDSA verification of a 48-byte digest: public key x, y and signature r, s, big-endian numbers (R457). -/
def ecdsaOk (qx qy : Nat) (digest : List Byte) (r s : Nat) : Bool :=
  if r = 0 ∨ p384n ≤ r ∨ s = 0 ∨ p384n ≤ s ∨ ¬ onCurve qx qy then false
  else
    let e := beNat digest
    let w := invMod p384n s
    let a := (JPt.mk p384x p384y 1).smul (e * w % p384n) 384
    let b := (JPt.mk qx qy 1).smul (r * w % p384n) 384
    let p := a.add b
    if p.z = 0 then false
    else
      let zi := invMod p384p p.z
      decide (p.x * (zi * zi % p384p) % p384p % p384n = r)

end Sys2Proof.Machine
end

