-- ==== Sys2Proof/Machine/Nand.lean ====
section
/-! DEFINITION. The NAND controller and its flash translation layer (chapter 13): stripes and parity, the map, codeword
reads and rebuild, relocation, patrol, wear, bad blocks and failed dies. -/

namespace Sys2Proof.Machine

/-- Stripes of the variant (R4). -/
def State.stripes (s : State) : Nat := if s.fac.variant = 1 then 1 else 2

/-- Key of a physical pool page (R340): stripe, superblock, page, die of the stripe. -/
def phys (stripe sb pg die : Nat) : Nat := ((stripe * 1024 + sb) * 1024 + pg) * 16 + die
def physDie (k : Nat) : Nat := k / 16384 / 1024 * 16 + k % 16
def physSb (k : Nat) : Nat := k / 16384 % 1024
def physSuper (k : Nat) : Nat := k / 16384
def physBlock (k : Nat) : Nat := physDie k * 1024 + physSb k

/-- The map entry of a tier 2 page (R341). -/
def mapEntry (k : Nat) : Nat :=
  2 ^ 31 + physSb k * 2 ^ 20 + k / 16 % 1024 * 2 ^ 10 + k % 16 * 2 ^ 6 + k / 16384 / 1024 * 2 ^ 5

def State.onNand (s : State) (f : NandSt → NandSt) : State := { s with nand := f s.nand }

def State.nandReadOnly (s : State) : Bool := s.rg NAND_STATUS_STATE == 2

/-- The controller enters READ_ONLY (R348). -/
def State.enterReadOnly (s : State) : State :=
  if s.nandReadOnly then s else (((s.wr NAND_STATUS_STATE 2).postEvent 0x0041 2 0).logEntry 0x000F 2 0xFFFF 2)

/-- Every superblock of the variant. -/
def State.superblocks (s : State) : List Nat :=
  (List.range s.stripes).flatMap fun i => (List.range 960).map fun k => i * 1024 + k

/-- Wear registers: largest, mean and smallest erase count (R346); the rated life ends in READ_ONLY (R348). -/
def State.showWear (s : State) : State :=
  let l := s.superblocks.map fun k => s.nand.erases.get k 0
  let mx := l.foldl max 0
  let mean := l.foldl (· + ·) 0 / l.length
  let s := s.wrs [(NAND_WEAR_MAX, mx), (NAND_WEAR_MEAN, mean), (NAND_WEAR_MIN_MIN, l.foldl min mx)]
  if 3000 ≤ mean then s.enterReadOnly else s

/-- The free superblock of a stripe with the lowest erase count, or with the highest (R346). -/
def State.freeSuper (s : State) (stripe : Nat) (most : Bool) : Option Nat :=
  ((List.range 960).map fun k => stripe * 1024 + k).foldl (fun b k =>
    if s.nand.written.contains k then b
    else match b with
      | none => some k
      | some j =>
        let a := s.nand.erases.get k 0
        let c := s.nand.erases.get j 0
        if (if most then c < a else a < c) then some k else b) none

/-- Dies of a stripe that take data in superblock `k`: all but the parity die and the failed dies (R340, R348). -/
def State.dataDies (s : State) (stripe k : Nat) : List Nat :=
  (List.range 16).filter fun d => d != k % 1024 % 16 && !bit (s.rg NAND_DIE_FAIL_MASK) (stripe * 16 + d)

/-- Byte-wise XOR of pages. -/
def xorPages (l : List (List Byte)) : List Byte :=
  l.foldl (fun a b => List.zipWith (· ^^^ ·) a (fitTo 65536 b)) (zeros 65536)

/-- A stripe row is complete: its parity page is written, and the next row opens in the superblock (R340). -/
def State.closeRow (s : State) (stripe sb pg : Nat) (dies : List Nat) : State :=
  let key (d : Nat) : Nat := phys stripe (sb % 1024) pg d
  let par := xorPages (dies.map fun d => s.nand.data.get (key d) [])
  s.onNand fun n => { n with
    data := n.data.set (key (sb % 1024 % 16)) par []
    opened := n.opened.set stripe (if pg + 1 < 1024 then some (sb, pg + 1, []) else none) none }

/-- Whether a place lies in a stripe row that is not complete. -/
def NandSt.inOpenRow (n : NandSt) (k : Nat) : Bool :=
  n.opened.any fun e => match e.2 with
    | some r => physSuper k == r.1 && k / 16 % 1024 == r.2.1
    | none => false

/-- The open row of a stripe; a superblock is opened when there is none. -/
def State.openRow (s : State) (stripe : Nat) (most : Bool) : Option (Nat × Nat × List Nat) × State :=
  match s.nand.opened.get stripe none with
  | some r => (some r, s)
  | none => match s.freeSuper stripe most with
    | none => (none, s)
    | some k => (some (k, 0, []), s.onNand fun n => { n with
        written := k :: n.written, opened := n.opened.set stripe (some (k, 0, [])) none })

/-- Writes a pool page into the open row of a stripe: its place. -/
def State.putInto (s : State) (stripe : Nat) (most : Bool) (b : List Byte) : Option Nat × State :=
  match s.openRow stripe most with
  | (none, s) => (none, s)
  | (some (sb, pg, dies), s) =>
    match (s.dataDies stripe sb).find? fun d => !dies.contains d with
    | none => (none, s)
    | some d =>
      let k := phys stripe (sb % 1024) pg d
      let s := s.onNand fun n => { n with
        data := n.data.set k b [], opened := n.opened.set stripe (some (sb, pg, d :: dies)) none }
      let s := if (s.dataDies stripe sb).length ≤ dies.length + 1 then s.closeRow stripe sb pg (d :: dies) else s
      (some k, s)

/-- Writes a pool page to tier 2: the stripe is the one with fewer superblocks written. -/
def State.nandPut (s : State) (b : List Byte) : Option Nat × State :=
  let used (i : Nat) : Nat := (s.nand.written.filter fun k => k / 1024 == i).length
  let i := if s.stripes = 2 ∧ used 1 < used 0 then 1 else 0
  match s.putInto i false b with
  | (some k, s) => (some k, s)
  | (none, s) => if s.stripes = 2 then s.putInto (1 - i) false b else (none, s)

/-- Contents of a tier 2 page. -/
def State.nandPage (s : State) (k : Nat) : List Byte := fitTo 65536 (s.nand.data.get k [])

/-- Moves a pool page that tier 2 holds to a new place, bit-identically, and updates the map (R307, R342). -/
def State.nandMove (s : State) (stripe : Option Nat) (most : Bool) (k : Nat) : State :=
  let b := s.nandPage k
  let r := match stripe with
    | some i => s.putInto i most b
    | none => s.nandPut b
  match r with
  | (some k', s) => { s with pool := { s.pool with
      pages := s.pool.pages.map fun (p : PageRec) => if p.t2 = some k then { p with t2 := some k' } else p } }
  | (none, s) => s

/-- Valid pages in places that satisfy `f`. -/
def State.validAt (s : State) (f : Nat → Bool) : List Nat := (s.pool.pages.filterMap fun p => p.t2).filter f

/-- A block goes bad: a spare of its plane takes its place, or the controller enters READ_ONLY (R347, R348). -/
def State.badBlock (s : State) (die plane sb : Nat) : State :=
  let pl := die * 4 + plane
  let used := s.nand.spares.get pl 0
  let s := (s.bump NAND_GROWN_BAD).logEntry 0x0007 2 die (2 * 2 ^ 24 + sb)
  let s := s.onNand fun n => { n with grown := (pl * 1024 + sb) :: n.grown, spares := n.spares.set pl (used + 1) 0 }
  let s := s.wr NAND_STATUS_SPARE_MIN (min (s.rg NAND_STATUS_SPARE_MIN) (64 - (used + 1)))
  if 64 ≤ used + 1 then s.enterReadOnly else s

/-- A die's operation: 16 consecutive failures mark it failed (R348). `d`: die of the module. -/
def State.dieOp (s : State) (d : Nat) (failed : Bool) : State :=
  let n := if failed then s.nand.fails.get d 0 + 1 else 0
  let s := s.onNand fun x => { x with fails := x.fails.set d n 0 }
  if n = 16 ∧ ¬ bit (s.rg NAND_DIE_FAIL_MASK) d then
    (s.wr NAND_DIE_FAIL_MASK (s.rg NAND_DIE_FAIL_MASK + 2 ^ d)).logEntry 0x0007 2 d (3 * 2 ^ 24)
  else s

/-- A superblock is erased: its pages go, its erase count rises, its read counts start again. -/
def State.eraseSuper (s : State) (k : Nat) : State :=
  (s.onNand fun n => { n with
    data := n.data.filter fun e => physSuper e.1 != k
    written := n.written.filter (· != k)
    erases := n.erases.set k (n.erases.get k 0 + 1) 0
    reads := n.reads.filter fun e => !(e.1 % 1024 == k % 1024 && e.1 / 1024 / 16 == k / 1024)
    retry := n.retry.filter fun e => !(e.1 % 1024 == k % 1024 && e.1 / 1024 / 16 == k / 1024) }).showWear

/-- A superblock whose valid pages have been moved is erased; blocks that fail the erase go bad (R342, R347). Which ones do is a
free value, a bit for each plane of the 16 dies. One that still holds a valid page, as there was no room to move it, is left
as it is. -/
def State.eraseMoved (s : State) (k : Nat) : State :=
  if (s.validAt fun x => physSuper x == k).isEmpty then
    let f := s.free
    (List.range 64).foldl (fun s i =>
      if bit f.1 i then (s.dieOp (k / 1024 * 16 + i / 4) true).badBlock (k / 1024 * 16 + i / 4) (i % 4) (k % 1024)
      else s) (f.2.eraseSuper k)
  else s

/-- Superblocks that may be reclaimed: written, and not open. -/
def State.closedSupers (s : State) : List Nat :=
  s.nand.written.filter fun k => match s.nand.opened.get (k / 1024) none with
    | some r => r.1 != k
    | none => true

/-- Reclaim of the superblock with the fewest valid pages (R342); refused in READ_ONLY (R348). -/
def State.nandReclaim (s : State) : State :=
  if s.nandReadOnly ∨ ¬ s.on NAND_CTRL_EN then s
  else
    let n (k : Nat) : Nat := (s.validAt fun x => physSuper x == k).length
    match s.closedSupers.foldl (fun (b : Option Nat) k => match b with
      | none => some k
      | some j => if n k < n j then some k else b) none with
    | none => s
    | some k => ((s.validAt fun x => physSuper x == k).foldl (fun s x => s.nandMove none false x) s).eraseMoved k

def execNandReclaim (s : State) : Res := .next s.nandReclaim

/-- A block is queued for relocation. -/
def State.queueReloc (s : State) (b : Nat) : State :=
  if s.nand.reloc.contains b then s else s.onNand fun n => { n with reloc := n.reloc ++ [b] }

/-- The oldest queued block's valid pages are relocated (R345). -/
def State.nandRelocate (s : State) : State :=
  match s.nand.reloc with
  | [] => s
  | b :: l =>
    let s := s.onNand fun n => { n with reloc := l }
    ((s.validAt fun x => physBlock x == b).foldl (fun s x => s.nandMove none false x) s).bump NAND_RELOC

def execNandRelocate (s : State) : Res := .next s.nandRelocate

/-- How a codeword was had (R343): hard, soft, rebuilt, or not at all. A failed die's codewords are always rebuilt, and a
second failed die of the stripe leaves nothing to rebuild from (R348). -/
def State.cwHow (s : State) (k how : Nat) : Nat :=
  let m := s.rg NAND_DIE_FAIL_MASK
  let mine := bit m (physDie k)
  let others := ((List.range 16).filter fun d => d != k % 16 && bit m (k / 16384 / 1024 * 16 + d)).length
  if mine then (if others = 0 ∧ how ≤ 2 then 2 else 3)
  else if how = 2 ∧ others ≠ 0 then 3 else how

/-- A read of a block (die * 1024 + k) is counted since its erase; past RD_LIMIT the block is queued for relocation (R345). -/
def State.countRead (s : State) (b : Nat) : State :=
  let n := s.nand.reads.get b 0 + 1
  let s := s.onNand fun x => { x with reads := x.reads.set b n 0 }
  if s.rg NAND_THRESH_RD_LIMIT * 1000 < n then s.queueReloc b else s

/-- The counts and consequences of reading one codeword of a block (R343, R345, R348); a rebuild reads the same codeword of the
other 15 dies of the stripe. -/
def State.cwRead (s : State) (b how corrected : Nat) : State :=
  let d := b / 1024
  let s := s.countRead b
  let s := s.dieOp d (decide (2 ≤ how))
  let s := if how < 2 then s else ((List.range 16).filter fun i => i != d % 16).foldl (fun s i =>
    s.countRead ((d / 16 * 16 + i) * 1024 + b % 1024)) s
  let s := if how = 1 then s.bump NAND_SOFT
    else if how = 2 then (s.bump NAND_REBUILD).logEntry 0x0007 2 d (2 ^ 24 + b % 1024)
    else if how = 3 then s.bump NAND_REBUILD_FAIL else s
  if 0 < how ∨ s.rg NAND_THRESH_RELOC_BITS < corrected then s.queueReloc b else s

/-- A codeword read of the module: place, codeword, what the decoder met. -/
def execNandCodewordRead (stripe : Fin 2) (sb : Fin 960) (pg : Fin 1024) (die : Fin 16) (cw : Fin 16) (how : Fin 4)
    (corrected : BitVec 8) (s : State) : Res :=
  let k := phys stripe.val sb.val pg.val die.val
  if ¬ s.on NAND_CTRL_EN ∨ s.stripes ≤ stripe.val then .next s
  else
    let h := s.cwHow k how.val
    let s := s.cwRead (physBlock k) h corrected.toNat
    .next { s with reply := if h = 3 then .ur else .bytes (slice (s.nandPage k) (4096 * cw.val) 4096) }

/-- A codeword read with a read-retry entry (R344): a disabled entry is skipped; success is kept with the block and queues
its relocation. -/
def State.retryRead (s : State) (k e cw : Nat) (ok soft : Bool) : State :=
  if ¬ s.on NAND_CTRL_EN ∨ ¬ s.on (NAND_RRT_HI_EN e) then s
  else
    let b := physBlock k
    let s := (s.countRead b).dieOp (physDie k) (!ok)
    if ok then
      let s := if soft then s.bump NAND_SOFT else s
      let s := (s.onNand fun n => { n with retry := n.retry.insert b e }).queueReloc b
      { s with reply := .bytes (slice (s.nandPage k) (4096 * cw) 4096) }
    else { s with reply := .ur }

def execNandRetryRead (stripe : Fin 2) (sb : Fin 960) (pg : Fin 1024) (die : Fin 16) (cw : Fin 16) (e : Fin 16)
    (ok soft : Bool) (s : State) : Res :=
  .next (s.retryRead (phys stripe.val sb.val pg.val die.val) e.val cw.val ok soft)

/-- A program of the open row's page on a die ends (R347): a failure makes a grown bad block, and the data is written
again into the next row. -/
def State.nandProgram (s : State) (stripe die plane : Nat) (ok : Bool) : State :=
  if ¬ s.on NAND_CTRL_EN ∨ s.stripes ≤ stripe then s
  else
    let s := s.dieOp (stripe * 16 + die) (!ok)
    if ok then s
    else match s.nand.opened.get stripe none with
      | none => s
      | some (sb, pg, dies) =>
        let s := s.badBlock (stripe * 16 + die) plane (sb % 1024)
        if dies.contains die then
          let s := s.closeRow stripe sb pg dies
          s.nandMove (some stripe) false (phys stripe (sb % 1024) pg die)
        else s

def execNandProgram (stripe : Fin 2) (die : Fin 16) (plane : Fin 4) (ok : Bool) (s : State) : Res :=
  .next (s.nandProgram stripe.val die.val plane.val ok)

/-- A patrol read of a written block: a read of one of its codewords (R345). -/
def State.nandPatrol (s : State) (b how corrected : Nat) : State :=
  if ¬ s.on NAND_CTRL_EN ∨ ¬ s.nand.written.contains (b / 1024 / 16 * 1024 + b % 1024) then s
  else
    (s.onNand fun n => { n with patrol := n.patrol.insert b s.uptime }).cwRead b (s.cwHow (phys (b / 1024 / 16) (b % 1024) 0
      (b / 1024 % 16)) how) corrected

def execNandPatrol (die : Fin 32) (sb : Fin 960) (how : Fin 4) (corrected : BitVec 8) (s : State) : Res :=
  .next (s.nandPatrol (die.val * 1024 + sb.val) how.val corrected.toNat)

/-- Wear levelling (R346): the least-erased written superblock moves into the most-erased free one. -/
def State.nandWearLevel (s : State) : State :=
  let er (k : Nat) : Nat := s.nand.erases.get k 0
  let l := s.closedSupers
  match l with
  | [] => s
  | k0 :: _ =>
    let lo := l.foldl (fun a k => if er k < er a then k else a) k0
    let hi := s.nand.written.foldl (fun a k => if er a < er k then k else a) k0
    if s.nandReadOnly ∨ ¬ s.on NAND_CTRL_EN ∨ er hi - er lo ≤ s.rg NAND_CTRL_WL_DELTA then s
    else
      let s := match s.nand.opened.get (lo / 1024) none with
        | some (sb, pg, dies) => if dies.isEmpty then s else s.closeRow (lo / 1024) sb pg dies
        | none => s
      let s := s.onNand fun n => { n with opened := n.opened.set (lo / 1024) none none }
      ((s.validAt fun x => physSuper x == lo).foldl (fun s x => s.nandMove (some (lo / 1024)) true x) s).eraseMoved lo

def execNandWearLevel (s : State) : Res := .next s.nandWearLevel

end Sys2Proof.Machine
end

