-- ==== Sys2Proof/Machine/Pool.lean ====
section
/-! DEFINITION. The shared pool (chapter 12): allocation and eviction, write-back, home copies, promotion, ageing, bad pages
and poisoned layers. -/

namespace Sys2Proof.Machine

/-! ## Layers and pages -/

def State.model? (s : State) (handle : Nat) : Option Model := s.pool.models.find? fun m => m.handle == handle

/-- A layer of a model in the version that bindings read. -/
def Model.layer? (m : Model) (l ver : Nat) : Option Layer := m.layers.find? fun x => x.layer == l && x.ver == ver

/-- The newest version of a layer. -/
def Model.newest? (m : Model) (l : Nat) : Option Layer :=
  m.layers.foldl (fun b x => if x.layer ≠ l then b else match b with
    | none => some x
    | some y => if y.ver < x.ver then some x else some y) none

/-- A page record of a layer's stored image. -/
def State.page? (s : State) (client key ver idx : Nat) : Option PageRec :=
  s.pool.pages.find? fun p => p.client == client && p.layer == key && p.ver == ver && p.idx == idx

/-- Every page record changed by `f`. -/
def State.onPages (s : State) (f : PageRec → PageRec) : State := { s with pool := { s.pool with pages := s.pool.pages.map f } }

/-- Whether two records are of the same page. -/
def PageRec.same (p q : PageRec) : Bool := p.client == q.client && p.layer == q.layer && p.ver == q.ver && p.idx == q.idx

/-- A page record changed. -/
def State.onPage (s : State) (q : PageRec) (f : PageRec → PageRec) : State := s.onPages fun p => if p.same q then f p else p

/-- A model changed. -/
def State.onModel (s : State) (handle : Nat) (f : Model → Model) : State :=
  { s with pool := { s.pool with models := s.pool.models.map fun m => if m.handle = handle then f m else m } }

/-- Bytes `[o, o + n)` of a layer's stored image, from tier 1: the bytes, whether a word was uncorrectable, whether a page
is BAD or absent. On fuel, the pages touched. -/
def State.layerRead (s : State) (port : Nat) (m : Model) (l : Layer) : Nat → Nat → Nat → (List Byte × Bool × Bool) × State
  | 0, _, _ => (([], false, false), s)
  | f + 1, o, n =>
    if n = 0 then (([], false, false), s)
    else
      let k := min n (65536 - o % 65536)
      match s.page? m.client (m.lkey l.layer) l.ver (o / 65536) with
      | none => ((zeros n, false, true), s)
      | some p => match p.t1 with
        | none => ((zeros n, false, true), s)
        | some pg =>
          if p.bad then ((zeros n, false, true), s)
          else
            let s := s.onPage p fun p => { p with acc := true }
            let r := s.dramRead port (pg * 65536 + o % 65536) k
            let q := r.2.layerRead port m l f (o + k) (n - k)
            ((r.1.1 ++ q.1.1, r.1.2 || q.1.2.1, q.1.2.2), q.2)

/-- A client registered with the tier core (R308). -/
def State.register (s : State) (c kind : Nat) : State :=
  s.wrs [(TIER_CLIENT_CTRL_EN c, 1), (TIER_CLIENT_CTRL_KIND c, kind), (TIER_CLIENT_FLOOR c, 0),
    (TIER_CLIENT_CEIL c, s.rg TIER_POOL_DRAM)]

/-- A client's registration ends. -/
def State.unregister (s : State) (c : Nat) : State :=
  s.wrs [(TIER_CLIENT_CTRL_EN c, 0), (TIER_CLIENT_CTRL_KIND c, 0), (TIER_CLIENT_CEIL c, 0)]

/-! ## Eviction (R312, R313) -/

/-- Tier 1 pages of a client. -/
def State.held (s : State) (c : Nat) : Nat := (s.pool.pages.filter fun p => p.client == c && p.t1.isSome).length

/-- Whether candidate `a` goes before candidate `b` (R312). -/
def State.evictBefore (s : State) (a b : PageRec) : Bool :=
  let high (p : PageRec) : Bool := decide (s.rg (TIER_CLIENT_CEIL p.client) < s.held p.client)
  let above (p : PageRec) : Nat := s.held p.client - s.rg (TIER_CLIENT_FLOOR p.client)
  if high a ≠ high b then high a
  else if a.age ≠ b.age then decide (b.age < a.age)
  else if above a ≠ above b then decide (above b < above a)
  else if a.client ≠ b.client then decide (a.client < b.client)
  else decide (a.t1.getD 0 < b.t1.getD 0)

/-- Pages of a client that are being written back to leave tier 1. -/
def State.leaving (s : State) (c : Nat) : Nat := (s.pool.pages.filter fun p => p.client == c && p.wb).length

/-- The next candidate among the pages that `ok` selects: unpinned, in tier 1, of a client that stays at its FLOOR at least once
the pages already leaving have left (R312). -/
def State.candidatePage (s : State) (ok : PageRec → Bool) : Option PageRec :=
  (s.pool.pages.filter fun p => ok p && p.t1.isSome && !s.pinned p && !p.wb &&
    decide (s.rg (TIER_CLIENT_FLOOR p.client) + s.leaving p.client < s.held p.client)).foldl (fun b p => match b with
      | none => some p
      | some q => if s.evictBefore p q then some p else some q) none

/-- A page written back to tier 2; the page CRC of a page that is not a stored layer's is that of what is written (R307). -/
def State.writeHome (s : State) (p : PageRec) : State :=
  match p.t1 with
  | none => s
  | some pg =>
    let b := s.ld (pg * 65536) 65536
    match s.nandPut b with
    | (some k, s) => (s.onPage p fun p => { p with t2 := some k, wb := false, crc := if p.layer = 0xFFF then crc32c b else p.crc }).bump
        TIER_WRITEBACK
    | (none, s) => s

/-- A page leaves tier 1. -/
def State.evictPage (s : State) (p : PageRec) : State := ((s.onPage p fun p => { p with t1 := none }).bump TIER_EVICT).books

/-- The candidate leaves tier 1 at once, written back first when it has no tier 2 copy (R313); where tier 2 takes no page, the
first that has a copy. None when nothing can go. -/
def State.evictOne (s : State) : Option State :=
  let rest : Option State := (s.candidatePage fun p => p.t2.isSome).map fun p => s.evictPage p
  match s.candidatePage fun _ => true with
  | none => none
  | some p =>
    if p.t2.isSome then some (s.evictPage p)
    else match p.t1 with
      | none => rest
      | some pg => if (s.nandPut (s.ld (pg * 65536) 65536)).1.isNone then rest else some ((s.writeHome p).evictPage p)

/-! ## Allocation -/

/-- Whether a tier 1 page of the pool is free and protected as asked. -/
def State.pageFree (s : State) (pg : Nat) : Bool :=
  !s.pool.retired.contains pg && !(s.pool.areas.any fun a => decide (a.2.1 ≤ pg ∧ pg < a.2.1 + a.2.2)) &&
    !(s.pool.pages.any fun p => p.t1 == some pg)

/-- First free page at or after `k`, cyclically over the mapped pages, on fuel; `prot`: in a protected region. -/
def State.scanFree (s : State) (prot : Option Bool) (k : Nat) : Nat → Option Nat
  | 0 => none
  | f + 1 =>
    let n := s.dramTop / 65536
    let i := if n = 0 then 0 else k % n
    let pg := dramBase / 65536 + i
    let fits := match prot with
      | none => true
      | some b => s.protectedAt (i * 65536) == b
    if fits && s.pageFree pg then some pg else s.scanFree prot (i + 1) f

/-- A free tier 1 page: which one the spec leaves open. Protected items take protected pages alone (R286), others such pages only
when no other is free (DESIGN CHOICE). -/
def State.freePage (s : State) (prot : Bool) : Option Nat × State :=
  let f := s.free
  let s := f.2
  let n := s.dramTop / 65536
  let r := match s.scanFree (some prot) f.1 n with
    | some pg => some pg
    | none => if prot then none else s.scanFree none f.1 n
  (r, s)

/-- Free tier 1 pages in protected regions. -/
def State.protFree (s : State) : Nat :=
  ((List.range (s.dramTop / 65536)).filter fun i => s.protectedAt (i * 65536) && s.pageFree (dramBase / 65536 + i)).length

/-- Frees tier 1 pages until `n` are free, `h` of them protected, on fuel; none when the candidates cannot cover it (nothing is
evicted then, R312). -/
def State.makeRoom (s : State) (n h : Nat) : Nat → Option State
  | 0 => if n ≤ s.rg TIER_FREE ∧ h ≤ s.protFree then some s else none
  | f + 1 => if n ≤ s.rg TIER_FREE ∧ h ≤ s.protFree then some s else match s.evictOne with
    | none => none
    | some s => s.makeRoom n h f

/-- Whether the clients of `l` stay within their CEIL when each of its pages takes a tier 1 page (R308). -/
def State.ceilOk (s : State) (l : List Nat) : Bool :=
  l.all fun c => decide (s.held c + (l.filter fun x => x == c).length ≤ s.rg (TIER_CLIENT_CEIL c))

/-- Adds a page record with a tier 1 page for each of `n` indices from `idx`, and stores its 65536 bytes. -/
def State.storePages (s : State) (client key ver : Nat) (prot : Bool) (idx n : Nat) (b : List Byte) : State :=
  ((List.range n).foldl (fun r i =>
    if r.1 then
      match r.2.freePage prot with
      | (none, s) => (false, s)
      | (some pg, s) =>
        let d := fitTo 65536 ((b.drop (65536 * i)).take 65536)
        let s := s.dramWrite 26 (pg * 65536) d
        let s : State := { s with pool := { s.pool with pages := s.pool.pages ++
          [{ client := client, layer := key, ver := ver, idx := idx + i, t1 := some pg, crc := crc32c d, acc := true, prot := prot }] } }
        (true, s)
    else r) (true, s)).2

/-- Frees every page that satisfies `f`; those queued for promotion leave the queue. -/
def State.dropPages (s : State) (f : PageRec → Bool) : State :=
  ({ s with pool := { s.pool with
    pages := s.pool.pages.filter fun p => !f p
    queue := s.pool.queue.filter fun q => s.pool.pages.any fun p =>
      p.client == q.1 && p.layer == q.2.1 && p.ver == q.2.2.1 && p.idx == q.2.2.2 && !f p } } : State) |> fun s =>
    (s.wr TIER_QUEUE_PAGES s.pool.queue.length).books

/-- A client goes with its pages. -/
def State.dropClient (s : State) (c : Nat) : State := (s.dropPages fun p => p.client == c).unregister c

/-! ## Faults of stored layers (R321 to R323) -/

/-- A repair event in `TIER.FAULT`. -/
def State.tierFault (s : State) (cause : Nat) (p : PageRec) : State :=
  s.firstLog TIER_FAULT_VALID TIER_FAULT_MULTI
    [(TIER_FAULT_CAUSE, cause), (TIER_FAULT_CLIENT, p.client), (TIER_FAULT_LAYER, p.layer % 4096)]

/-- The set requests that wait for a layer's promotion are refused (R316): their PLACE completes with a status. -/
def State.refuseSets (s : State) (f : ProgSet → Bool) (code : Nat) : State :=
  let bad := s.loader.sets.filter fun x => x.state == 0 && f x
  let s := bad.foldl (fun s x => match x.placeTag with
    | some (q, tag) => s.complete q (s.cmdCompletion 2 code 0 0xFF tag 0xFFFF)
    | none => s) s
  ({ s with loader := { s.loader with sets := s.loader.sets.filter fun x => !(x.state == 0 && f x) } } : State).books

/-- A layer becomes POISONED (R293, R322, R323). -/
def State.poisonLayer (s : State) (m : Model) (l : Layer) : State :=
  if l.poisoned then s
  else
    let s := s.onModel m.handle fun m => { m with
      layers := m.layers.map fun x => if x.layer = l.layer ∧ x.ver = l.ver then { x with poisoned := true } else x }
    let s := ((s.bump TIER_POISON).count 16).tierFault 4 { client := m.client, layer := l.layer }
    let s := s.logEntry 0x000D 2 0xFFFF l.layer stPoisoned
    let s := s.postEvent 0x0010 2 m.modelId (natLE 2 l.layer ++ natLE 2 l.ver)
    s.refuseSets (fun x => x.binds.any fun b => b.model == m.handle && b.layer == l.layer) stPoisoned

/-- The layer a page holds. -/
def State.layerOf (s : State) (p : PageRec) : Option (Model × Layer) :=
  (s.pool.models.find? fun m => m.client == p.client && m.layers.any fun l => m.lkey l.layer == p.layer && l.ver == p.ver).bind
    fun m => (m.layers.find? fun l => m.lkey l.layer == p.layer && l.ver == p.ver).map fun l => (m, l)

def State.poisonPage (s : State) (p : PageRec) : State :=
  match s.layerOf p with
  | some (m, l) => s.poisonLayer m l
  | none => s

/-! ## Commands -/

/-- A tick of the age clock, once AGE_TIDES tides have passed (R311). -/
def State.ageTick (s : State) : State :=
  if s.pool.ageTides < s.rg TIER_AGE_AGE_TIDES then s
  else
    let s := s.bump TIER_AGE_CLOCK
    let s := s.onPages fun p => if p.t1.isNone || s.pinned p then p
      else if p.acc then { p with age := 0, acc := false } else { p with age := min 255 (p.age + 1) }
    ({ s with pool := { s.pool with ageTides := s.pool.ageTides - s.rg TIER_AGE_AGE_TIDES } } : State).books

def execAgeTick (s : State) : Res := .next s.ageTick

/-- The tier core evicts a page towards the low-water mark (R312, R313). -/
def State.eviction (s : State) : State :=
  let free := s.rg TIER_FREE
  let pool := s.rg TIER_POOL_DRAM
  let go := s.on TIER_CTRL_EN && (decide (free * 64 < pool) || (s.pool.evicting && decide (free * 32 < pool)))
  let s : State := { s with pool := { s.pool with evicting := go } }
  if ¬ go then s
  else match s.candidatePage fun _ => true with
    | none => s
    | some p =>
      if p.t2.isSome then s.evictPage p
      else s.onPage p fun p => { p with wb := true }

def execEviction (s : State) : Res := .next s.eviction

/-- A write-back completes (R313): the page leaves tier 1 unless a pin has arrived or its client would fall below its FLOOR;
refused in READ_ONLY (R348). -/
def State.writebackDone (s : State) : State :=
  match s.pool.pages.find? fun p => p.wb with
  | none => s
  | some p =>
    if s.nandReadOnly then s.onPage p fun p => { p with wb := false }
    else
      let s := s.writeHome p
      match s.pool.pages.find? fun q => q.same p with
      | none => s
      | some p =>
        if p.t2.isNone then s.onPage p fun p => { p with wb := false }
        else if s.pinned p ∨ s.held p.client ≤ s.rg (TIER_CLIENT_FLOOR p.client) then s.books
        else s.evictPage p

def execPageWritebackDone (s : State) : Res := .next s.writebackDone

/-- The next page of a stored layer's home copy is written (R314). -/
def State.homeCopy (s : State) : State :=
  if s.nandReadOnly ∨ ¬ s.on TIER_CTRL_EN then s
  else match s.pool.pages.find? fun p => p.layer != 0xFFF && p.t1.isSome && p.t2.isNone && !p.wb with
    | none => s
    | some p => (s.writeHome p).books

def execHomeCopyWrite (s : State) : Res := .next s.homeCopy

/-- Sets whose last page has arrived wait for the next boundary (R316). -/
def State.readySets (s : State) : State :=
  let waits (x : ProgSet) : Bool := x.binds.any fun b => s.pool.models.any fun m => m.handle == b.model &&
    s.pool.pages.any fun p => p.client == m.client && p.layer == m.lkey b.layer && (p.prom || p.t1.isNone)
  let away (x : ProgSet) : Bool := s.loader.jobs.any fun j => j.set == x.handle &&
    s.pool.pages.any fun p => p.client == j.client && (p.prom || p.t1.isNone)
  { s with loader := { s.loader with
    sets := s.loader.sets.map fun x => if x.state = 0 ∧ ¬ waits x ∧ ¬ away x then { x with state := 1 } else x } }

/-- How a page's home copy was read: 0 as stored, 1 with a parity rebuild, 2 with read-retry, 3 not at all (R322). -/
def State.readEvent (s : State) (how : Nat) (p : PageRec) : State :=
  if how = 1 then s.tierFault 1 p else if how = 2 then s.tierFault 2 p else s

/-- A promotion that has failed: the page keeps no tier 1 page, and its layer is poisoned (R316, R322). -/
def State.promotionFails (s : State) (p : PageRec) : State :=
  ((s.onPage p fun p => { p with prom := false, t1 := none }).poisonPage p).books

/-- The next promoted page arrives (R316, R307): its page CRC is checked; a page that cannot be read poisons its layer. A page of
a capture job may change from then on, so that its tier 2 copy is no longer valid (R313). -/
def State.promotionArrive (s : State) (how : Nat) : State :=
  match s.pool.queue with
  | [] => s
  | q :: rest =>
    let s : State := { s with pool := { s.pool with queue := rest } }
    let s := s.wr TIER_QUEUE_PAGES rest.length
    match s.page? q.1 q.2.1 q.2.2.1 q.2.2.2 with
    | none => s
    | some p =>
      let b := match p.t2 with
        | some k => s.nandPage k
        | none => zeros 65536
      let s := s.readEvent how p
      if how = 3 ∨ p.t2.isNone then s.promotionFails p
      else if crc32c b ≠ p.crc then (s.tierFault 3 p).promotionFails p
      else
        let s := match p.t1 with
          | some pg => s.dramWrite 26 (pg * 65536) b
          | none => s
        let s := (s.onPage p fun p => { p with prom := false, age := 0, t2 := if p.layer = 0xFFF then none else p.t2 }).bump
          TIER_PROMOTE
        s.readySets.books

def execPromotionPageArrive (how : Fin 4) (s : State) : Res := .next (s.promotionArrive how.val)

/-- A BAD page is rebuilt from its home copy, or its layer is poisoned (R322). `readback`: the rewritten page reads back. A page
that must move and for which no tier 1 page can be freed ends the repair as one that cannot be read does (DESIGN CHOICE). -/
def State.pageRepair (s : State) (how : Nat) (readback : Bool) : State :=
  match s.pool.pages.find? fun p => p.bad && p.badNext != some false with
  | none => s
  | some p => match p.t2 with
    | none => (s.tierFault 5 p).poisonPage p
    | some k =>
      let b := s.nandPage k
      let s := s.readEvent how p
      if how = 3 then s.poisonPage p
      else if crc32c b ≠ p.crc then (s.tierFault 3 p).poisonPage p
      else
        let fixed : Option State :=
          if readback then (match p.t1 with
            | some pg => some (s.dramWrite 26 (pg * 65536) b)
            | none => some s)
          else match ((s.makeRoom 1 (b2n p.prot) s.pool.pages.length).getD s).freePage p.prot with
            | (some pg, s) =>
              let s := (s.dramWrite 26 (pg * 65536) b).onPage p fun p => { p with t1 := some pg }
              some (match p.t1 with
                | some old => s.retirePage old
                | none => s)
            | (none, _) => none
        match fixed with
        | none => s.poisonPage p
        | some s =>
          let s := (s.onPage p fun p => { p with badNext := some false }).bump TIER_REBUILD
          (s.count 15).logEntry 0x000D 2 0xFFFF (p.layer % 4096) stOk

def execPageRepair (how : Fin 4) (readback : Bool) (s : State) : Res := .next (s.pageRepair how.val readback)

/-- The pool's part of a tide boundary: BAD marks take effect (R321, R322), the age clock's tides (R311). -/
def State.poolTide (s : State) : State :=
  let newly := s.pool.pages.filter fun p => p.badNext == some true
  let s := newly.foldl (fun s p => s.tierFault 0 p) s
  let s := s.onPages fun p => match p.badNext with
    | some v => { p with bad := v, badNext := none }
    | none => p
  { s with pool := { s.pool with ageTides := s.pool.ageTides + 1 } }

/-- The page of a layer's image that holds offset `o` is marked BAD at the next boundary (R321). -/
def State.markBad (s : State) (m : Model) (l : Layer) (o : Nat) : State :=
  s.onPages fun p => if p.client = m.client ∧ p.layer = m.lkey l.layer ∧ p.ver = l.ver ∧ p.idx = o / 65536 ∧ ¬ p.bad then
    { p with badNext := some true } else p

end Sys2Proof.Machine
end

