-- ==== Sys2Proof/Machine/Pkg.lean ====
section
/-! DEFINITION. Weight packages (chapter 11): the container's checks, block slots, the loader, quantisation on arrival,
replacement and adapters. -/

namespace Sys2Proof.Machine

/-! ## Keys (R493, R495) -/

/-- The protection level in force (R491). -/
def State.level (s : State) : Nat := if s.fac.level2 then 2 else s.ef.opt.level

/-- A usable key of the key store. -/
def State.key? (s : State) (id : Nat) : Option KeyEnt :=
  s.ef.keys.find? fun k => k.id == id && decide (k.minLevel ≤ s.level) && id != 0

/-- The control die loads a key into the engines. -/
def State.useKey (s : State) (id : Nat) : State :=
  match s.key? id with
  | some k => if s.ef.engines.any fun e => e.id == id then s else { s with ef := { s.ef with engines := k :: s.ef.engines } }
  | none => s

/-- The key an engine holds. -/
def State.engineKey (s : State) (id : Nat) : List Byte :=
  match s.ef.engines.find? fun e => e.id == id with
  | some k => k.key
  | none => []

/-- The XTS tweak of an item (R285). -/
def tweak (item layer : Nat) (adapter : Bool) (ver modelId : Nat) : List Byte :=
  natLE 4 item ++ natLE 2 (layer + b2n adapter * 32768) ++ natLE 2 ver ++ natLE 8 modelId

/-- Items of the tweak. -/
def itemScale (i : Nat) : Nat := 0x40000000 + i
def itemCodebook : Nat := 0x80000000
def itemTab : Nat := 0x80000001

/-! ## Block slots (R275 to R280) -/

/-- A slot directory entry. -/
structure DirEnt where
  skind : Nat
  size : Nat
  off : Nat
  scrc : Nat
  xcrc : Nat
  blk : Nat
deriving DecidableEq, Repr

def DirEnt.ofBytes (b : List Byte) : DirEnt :=
  let w := leAt b 0 4
  ⟨bits w 30 2, bits w 28 2, bits w 0 28 * 512, leAt b 4 4, leAt b 8 4, leAt b 12 4⟩

def DirEnt.bytes (d : DirEnt) : List Byte :=
  natLE 4 (d.skind * 2 ^ 30 + d.size * 2 ^ 28 + d.off / 512) ++ natLE 4 d.scrc ++ natLE 4 d.xcrc ++ natLE 4 d.blk

def DirEnt.len (d : DirEnt) : Nat := 512 * 2 ^ d.size

def is4bit (wfmt : Nat) : Bool := wfmt == 3 || wfmt == 4

/-- A number kept within two bounds. -/
def clampInt (lo hi v : Int) : Int := if v < lo then lo else if hi < v then hi else v

/-- The weights of a VQ slot's codes, by linear index (R277, R278). -/
def vqWeights (wfmt : Nat) (cb slot : Array Byte) (cw : Nat) (res pair : Bool) : List Nat :=
  let w := if cw = 0 then 8 else if cw = 1 then 12 else 16
  let nc := if pair then 256 else 512
  let cbytes := nc * w / 8
  let byte (a : Array Byte) (i : Nat) : Nat := (a.getD i 0#8).toNat
  let code (n : Nat) : Nat :=
    let o := w * n
    bits (byte slot (16 + o / 8) + 256 * byte slot (17 + o / 8) + 65536 * byte slot (18 + o / 8)) (o % 8) w
  let resid (n : Nat) : Nat :=
    let v := byte slot (16 + cbytes + n / 2)
    if n % 2 = 0 then v % 16 else v / 16
  (List.range 4096).map fun i =>
    let k := i / 32
    let j := i % 32
    let n := if pair then k / 8 * 16 + j / 2 else k / 8 * 32 + j
    let c := code n
    let d := k % 8
    if wfmt = 0 ∨ wfmt = 3 then
      let e (row v : Nat) : Int := sext 8 (byte cb (row * 512 + 8 * v + d))
      let b : Int := if cw = 1 then e 4 (bits c 8 4) else if cw = 2 then e 4 (bits c 8 8) else 0
      let r : Int := if res then e 8 (resid n) else 0
      let sum := e 0 (c % 256) + b + r
      if wfmt = 0 then toBits 8 (clampInt (-128) 127 sum) else toBits 4 (clampInt (-8) 7 sum)
    else
      let v := byte cb (8 * (c % 256) + d)
      if wfmt = 4 then v % 16 else v

/-- The patches of a slot: position and value, or none when one breaks R279. -/
def patches (wfmt : Nat) (slot : List Byte) : Nat → Nat → Option Nat → Option (List (Nat × Nat))
  | 0, _, _ => some []
  | n + 1, o, last =>
    let pos := leAt slot o 2
    let v := leAt slot (o + 2) 1
    let rising : Bool := match last with
      | none => true
      | some l => decide (l < pos)
    if 4096 ≤ pos ∨ (is4bit wfmt ∧ 16 ≤ v) ∨ rising = false then none
    else (patches wfmt slot n (o + 3) (some pos)).map fun l => (pos, v) :: l

/-- An expanded region: its bytes, its first block index, its patch count. -/
structure Region where
  bytes : List Byte
  blk : Nat
  npatch : Nat
deriving DecidableEq, Repr

/-- Expands a decrypted stored slot, or rejects it (R275 to R280). `cb`: the layer's codebook block. -/
def expandSlot (wfmt : Nat) (cb : List Byte) (d : DirEnt) (slot : List Byte) : Option Region :=
  let nb := if is4bit wfmt then 4 else 8
  if d.skind = 0 then
    let code := leAt slot 0 1
    let fmt := leAt slot 1 1
    let np := leAt slot 2 2
    let cw := bits code 0 2
    let res := bit code 2
    let pair := bit code 3
    let nc := if pair then 256 else 512
    let w := if cw = 0 then 8 else if cw = 1 then 12 else 16
    let po := 16 + nc * w / 8 + (if res then nc / 2 else 0)
    let plain := wfmt == 0 || wfmt == 3
    if cw = 3 ∨ 16 ≤ code ∨ fmt % 16 ≠ wfmt ∨ bits fmt 4 2 ≠ d.size ∨ 64 ≤ fmt ∨ d.size = 3 ∨ leAt slot 10 2 ≠ 0 then none
    else if ¬ plain ∧ (cw ≠ 0 ∨ res) then none
    else if leAt slot 8 2 ≠ 4096 ∨ d.len < po ∨ 512 < np ∨ d.len < po + 3 * np then none
    else match patches wfmt slot np po none with
      | none => none
      | some ps =>
        let el := (vqWeights wfmt cb.toArray slot.toArray cw res pair).toArray
        let el := ps.foldl (fun a p => a.setIfInBounds p.1 p.2) el
        let b := packElems nb el.toList
        if crc32c b = leAt slot 12 4 then some ⟨b, leAt slot 4 4, np⟩ else none
  else if (d.skind = 1 ∧ nb = 4 ∧ d.size = 2) ∨ (d.skind = 2 ∧ nb = 8 ∧ d.size = 3) then
    (if crc32c slot = d.xcrc then some ⟨slot, d.blk, 0⟩ else none)
  else none

/-! ## The container (R271 to R274) -/

/-- A layer record. -/
structure LRec where
  b : List Byte
deriving DecidableEq, Repr

def LRec.layer (r : LRec) : Nat := leAt r.b 0 2
def LRec.kind (r : LRec) : Nat := leAt r.b 2 1
def LRec.wfmt (r : LRec) : Nat := leAt r.b 3 1
def LRec.sfmt (r : LRec) : Nat := leAt r.b 4 1
def LRec.grp (r : LRec) : Nat := leAt r.b 5 1
def LRec.form (r : LRec) : Nat := leAt r.b 6 1
def LRec.outscale (r : LRec) : Bool := bit (leAt r.b 7 1) 0
def LRec.quant (r : LRec) : Bool := bit (leAt r.b 7 1) 1
def LRec.tab (r : LRec) : Bool := bit (leAt r.b 7 1) 2
def LRec.k (r : LRec) : Nat := leAt r.b 8 4
def LRec.n (r : LRec) : Nat := leAt r.b 12 4
def LRec.blkbase (r : LRec) : Nat := leAt r.b 16 4
def LRec.nslot (r : LRec) : Nat := leAt r.b 20 4
def LRec.nscale (r : LRec) : Nat := leAt r.b 24 4
def LRec.body (r : LRec) : Nat := leAt r.b 28 4 * 512
def LRec.blen (r : LRec) : Nat := leAt r.b 32 4 * 512
def LRec.bcrc (r : LRec) : Nat := leAt r.b 36 4

/-- Segments of the form, ranges of k, group size, regions and scale rows of R274. -/
def LRec.sg (r : LRec) : Nat := 2 ^ r.form
def LRec.kr (r : LRec) : Nat := ceilDiv r.k 128
def LRec.g (r : LRec) : Nat := grpSize r.grp
def LRec.slots (r : LRec) : Nat := r.kr * ceilDiv r.n (32 * r.sg) * r.sg
def LRec.scales (r : LRec) : Nat := r.sg * ceilDiv (r.slots / r.sg * (128 / r.g)) 7

/-- The ranges of a record, R274 and what the kinds allow (R272, R273, R283, R284). -/
def LRec.ok (r : LRec) (total : Nat) (table : Nat) : Bool :=
  let dense := r.kind == 2
  let bf := r.wfmt == 5
  decide (r.layer < 4096 ∧ r.kind ≤ 2 ∧ r.wfmt ≤ 5 ∧ r.form ≤ 3 ∧ leAt r.b 7 1 < 8 ∧ 1 ≤ r.k ∧ r.k ≤ 1048576 ∧
    1 ≤ r.n ∧ r.n ≤ 1048576) &&
  (if bf then dense && r.grp == 0 else decide (1 ≤ r.grp ∧ r.grp ≤ 3)) &&
  (if dense then (if r.quant then r.sfmt == 5 && (r.wfmt == 0 || r.wfmt == 1 || r.wfmt == 3)
      else r.sfmt == r.wfmt && (r.sfmt == 0 || r.sfmt == 3 || r.sfmt == 5))
    else r.sfmt == 0 && !r.quant && decide (r.k % 128 = 0 ∧ r.n % (32 * r.sg) = 0)) &&
  r.nslot == r.slots && r.nscale == (if bf then 0 else r.scales) &&
  decide (512 + table ≤ r.body ∧ r.body + r.blen ≤ total)

/-- Parts of a body, by offset and length (R273). -/
structure Parts where
  cb : Nat × Nat
  tab : Nat × Nat
  scales : Nat × Nat
  dir : Nat × Nat
  rest : Nat
deriving DecidableEq, Repr

def LRec.parts (r : LRec) : Parts :=
  let cb := if r.kind = 0 then 4608 else 0
  let tab := if r.tab then 512 else 0
  let sc := if r.kind = 2 ∧ r.quant then 0 else r.nscale * 512
  let dir := if r.kind = 2 then 0 else ceilDiv (r.nslot * 16) 512 * 512
  ⟨(0, cb), (cb, tab), (cb + tab, sc), (cb + tab + sc, dir), cb + tab + sc + dir⟩

/-- Bytes of the matrix of a KIND 2 body. -/
def LRec.matrixLen (r : LRec) : Nat := if r.kind ≠ 2 then 0 else ceilDiv (r.n * r.k * fmtBits r.sfmt) 8

/-- A package in memory: its bytes, header and records. -/
structure Pkg where
  b : List Byte
  recs : List LRec
deriving DecidableEq, Repr

def Pkg.enc (p : Pkg) : Bool := bit (leAt p.b 6 2) 0
def Pkg.adapter (p : Pkg) : Bool := bit (leAt p.b 6 2) 1
def Pkg.modelId (p : Pkg) : Nat := leAt p.b 8 8
def Pkg.mver (p : Pkg) : Nat := leAt p.b 16 2
def Pkg.nlayer (p : Pkg) : Nat := leAt p.b 18 2
def Pkg.keyid (p : Pkg) : Nat := leAt p.b 20 4
def Pkg.length (p : Pkg) : Nat := leAt p.b 24 8
def Pkg.aid (p : Pkg) : Nat := leAt p.b 32 2
def Pkg.aver (p : Pkg) : Nat := leAt p.b 34 2
def Pkg.name (p : Pkg) : List Byte := slice p.b 36 24
def Pkg.table (p : Pkg) : Nat := ceilDiv (p.nlayer * 64) 512 * 512
/-- Version in the tweak. -/
def Pkg.tver (p : Pkg) : Nat := if p.adapter then p.aid * 64 + p.aver else p.mver

def Pkg.of (b : List Byte) : Pkg :=
  let n := leAt b 18 2
  ⟨b, (chunks 64 n (slice b 512 (64 * n))).map LRec.mk⟩

/-- Whether every byte of a string is 0. -/
def allZero (l : List Byte) : Bool := l.all fun b => b == 0#8

/-- A name of R138 in `n` bytes: `lo` or more printable characters, then zeros. -/
def nameOk (l : List Byte) : Bool :=
  let c := l.takeWhile fun b => b != 0#8
  !c.isEmpty && c.all (fun b => decide (0x21 ≤ b.toNat ∧ b.toNat ≤ 0x7E)) && allZero (l.drop c.length)

/-- The header's checks (R271, first cause of R281). -/
def Pkg.hdrOk (p : Pkg) (plen : Nat) : Bool :=
  decide (512 ≤ p.b.length) && leAt p.b 0 4 == 0x50575646 &&
    crc32c (patch (p.b.take 512) 64 (zeros 4)) == leAt p.b 64 4 &&
    crc32c (slice p.b 512 p.table) == leAt p.b 60 4 && p.length == plen && decide (p.length % 512 = 0) &&
    decide (leAt p.b 6 2 < 4) && allZero (slice p.b 68 444) &&
    p.recs.all (fun r => allZero (slice r.b 40 24) && decide (r.wfmt < 16 ∧ leAt r.b 7 1 < 8)) && decide (512 + p.table ≤ p.length)

/-- The header's ranges (third cause). -/
def Pkg.rangesOk (p : Pkg) : Bool :=
  decide (p.modelId ≠ 0 ∧ 1 ≤ p.mver ∧ 1 ≤ p.nlayer ∧ p.nlayer ≤ 4096) && nameOk p.name &&
    (if p.adapter then decide (p.aid ≤ 1022 ∧ 1 ≤ p.aver ∧ p.aver ≤ 63) else p.aid == 0xFFFF && p.aver == 0)

/-- Whether the bodies of two records overlap. -/
def LRec.overlaps (a b : LRec) : Bool := decide (a.body < b.body + b.blen ∧ b.body < a.body + a.blen)

/-- Unique indices, bodies apart (third cause). -/
def recsApart : List LRec → Bool
  | [] => true
  | r :: l => l.all (fun q => q.layer != r.layer && !r.overlaps q) && recsApart l

/-- The part of the checks that needs no body: the first cause, with the layer concerned (R281). -/
def Pkg.early (p : Pkg) (plen : Nat) : Option (Nat × Nat) :=
  if ¬ p.hdrOk plen then some (stBadPackage, 0xFFF)
  else if leAt p.b 4 2 ≠ 1 then some (stRefusedVersion, 0xFFF)
  else if ¬ p.rangesOk ∨ ¬ (p.recs.all fun r => r.ok p.length p.table &&
      decide (r.parts.rest + r.matrixLen ≤ r.blen)) ∨ ¬ recsApart p.recs then some (stBadPackage, 0xFFF)
  else match p.recs.find? LRec.outscale with
    | some r => some (stBadPackage, r.layer)
    | none => none

/-! ## Layers on arrival (R282 to R286) -/

/-- A layer ready to be stored: protected part (codebook, TABLE4, scale rows, directory) and slots, encrypted. -/
structure Built where
  rcd : LRec
  head : List Byte
  slots : List Byte
  dir : List DirEnt
deriving DecidableEq, Repr

def Pkg.body (p : Pkg) (r : LRec) : List Byte := slice p.b r.body r.blen

/-- The stored item: as it came, or encrypted now. -/
def Pkg.item (p : Pkg) (key : List Byte) (r : LRec) (it : Nat) (b : List Byte) : List Byte :=
  if p.enc then b else xts true key (tweak it r.layer p.adapter p.tver p.modelId) b

/-- The plaintext of an item of the package. -/
def Pkg.plain (p : Pkg) (key : List Byte) (r : LRec) (it : Nat) (b : List Byte) : List Byte :=
  if p.enc then xts false key (tweak it r.layer p.adapter p.tver p.modelId) b else b

/-- Element `(k, n)` of a matrix, 0 beyond it (R273, R283). -/
def LRec.elem (r : LRec) (m : Array Byte) (k n : Nat) : Nat :=
  if k < r.k ∧ n < r.n then elemOf (fmtBits r.sfmt) m (n * r.k + k) else 0

/-- k and column of element `i` of region `x` (R274). -/
def LRec.place (r : LRec) (x i : Nat) : Nat × Nat :=
  let rk := x / r.sg % r.kr
  let rb := x / (r.kr * r.sg)
  (128 * rk + i / 32, 32 * (rb * r.sg + x % r.sg) + i % 32)

/-- Largest magnitude of a format for quantisation (R284). -/
def qmax (wfmt : Nat) : Fp := Fp.ofInt (if wfmt = 0 then 127 else if wfmt = 3 then 7 else 448)

/-- The BF16 scale of group `q` of column `n` (R284). -/
def LRec.qscale (r : LRec) (m : Array Byte) (q n : Nat) : Nat :=
  let amax := (List.range r.g).foldl (fun a i => Fp.max a ((decB (r.elem m (q * r.g + i) n)).abs)) fzero
  if amax.isZero then 0x3F80 else encB (amax.div (qmax r.wfmt))

/-- Code of element `(k, n)` of a KIND 2 layer in WFMT. -/
def LRec.code (r : LRec) (m : Array Byte) (k n : Nat) : Nat :=
  if r.quant then
    (if k < r.k ∧ n < r.n then (convOut r.wfmt ((decB (r.elem m k n)).div (decB (r.qscale m (k / r.g) n)))).code else 0)
  else r.elem m k n

/-- The scale rows that quantisation makes (R100, R102, R284). -/
def LRec.qrows (r : LRec) (m : Array Byte) : List (List Byte) :=
  let per := 128 / r.g
  let groups := r.slots / r.sg * per
  (List.range r.nscale).map fun i =>
    let seg := i % r.sg
    let gs := (List.range 7).map fun q => i / r.sg * 7 + q
    let lane (gi l : Nat) : Nat :=
      if groups ≤ gi then 0 else
      let range := gi / per
      let col := 32 * (range / r.kr * r.sg + seg) + l
      r.qscale m (range % r.kr * per + gi % per) col
    (gs.map fun gi => ((List.range 32).map fun l => natLE 2 (lane gi l)).flatten).flatten ++
      (gs.map fun gi => natLE 1 (if groups ≤ gi then 0 else (r.blkbase + gi) % 256)).flatten ++ zeros 57

/-- Regions of a KIND 2 layer as raw slots with the directory the loader builds (R283). -/
def LRec.rawRegions (r : LRec) (m : Array Byte) : List (List Byte × DirEnt) :=
  let nb := if is4bit r.wfmt then 4 else 8
  (List.range r.nslot).map fun x =>
    let b := packElems nb ((List.range 4096).map fun i => let c := r.place x i; r.code m c.1 c.2)
    (b, ⟨if nb = 4 then 1 else 2, if nb = 4 then 2 else 3, x * b.length, 0, crc32c b, r.blkbase + x / r.sg * (128 / r.g)⟩)

/-- BF16 rows of a KIND 2 layer with WFMT 5, region by region in the layout of R62. -/
def LRec.bfRows (r : LRec) (m : Array Byte) : List Byte :=
  ((List.range r.slots).map fun x => ((List.range 4096).map fun i =>
    let c := r.place x i
    natLE 2 (r.elem m c.1 c.2)).flatten).flatten

/-- Whether a BF16 source holds a NaN or an infinity. -/
def LRec.badSource (r : LRec) (m : Array Byte) : Bool :=
  r.quant && (List.range (r.n * r.k)).any fun i => !(decB (elemOf 16 m i)).isFin

/-- Builds a layer for storage: body check, slot checks, expansion, encryption; or which cause of R281 refuses it: 0 its body or
its source, 1 the SCRC of a slot, 2 a slot that the expander rejects. -/
def Pkg.build (p : Pkg) (key : List Byte) (r : LRec) : Except Nat Built :=
  let b := p.body r
  if crc32c b ≠ r.bcrc then .error 0
  else
    let pt := r.parts
    let part (x : Nat × Nat) : List Byte := slice b x.1 x.2
    let cbS := part pt.cb
    let cb := p.plain key r itemCodebook cbS
    let rows := chunks 512 (pt.scales.2 / 512) (part pt.scales)
    let head0 := (if pt.cb.2 = 0 then [] else p.item key r itemCodebook cbS) ++
      (if pt.tab.2 = 0 then [] else p.item key r itemTab (part pt.tab))
    if r.kind = 2 then
      let m := (slice b pt.rest r.matrixLen).toArray
      if r.badSource m then .error 0
      else if r.wfmt = 5 then .ok ⟨r, head0, r.bfRows m, []⟩
      else
        let rows := if r.quant then
            (r.qrows m).mapIdx fun i x => xts true key (tweak (itemScale i) r.layer p.adapter p.tver p.modelId) x
          else rows.mapIdx fun i x => p.item key r (itemScale i) x
        let regs := (r.rawRegions m).mapIdx fun i x =>
          let c := xts true key (tweak i r.layer p.adapter p.tver p.modelId) x.1
          (c, { x.2 with scrc := crc32c c })
        .ok ⟨r, head0 ++ rows.flatten, (regs.map fun x => x.1).flatten, regs.map fun x => x.2⟩
    else
      let dir := (chunks 16 r.nslot (part pt.dir)).map DirEnt.ofBytes
      let slotB (d : DirEnt) : List Byte := slice b (pt.rest + d.off) d.len
      if dir.any fun d => decide (r.blen < pt.rest + d.off + d.len) ∨ crc32c (slotB d) ≠ d.scrc then .error 1
      else
        let exp := dir.mapIdx fun i d =>
          if r.kind = 1 ∧ d.skind = 0 ∨ d.skind = 3 then none
          else expandSlot r.wfmt cb d (p.plain key r i (slotB d))
        if exp.any Option.isNone then .error 2
        else
          let st := dir.mapIdx fun i d => let c := p.item key r i (slotB d); (c, d)
          let packed := st.foldl (fun (a : List (List Byte) × List DirEnt × Nat) x =>
            (x.1 :: a.1, { x.2 with off := a.2.2, scrc := crc32c x.1 } :: a.2.1, a.2.2 + x.1.length)) ([], [], 0)
          .ok ⟨r, head0 ++ (rows.mapIdx fun i x => p.item key r (itemScale i) x).flatten,
            packed.1.reverse.flatten, packed.2.1.reverse⟩

/-- Builds every layer, or the first refusal with its layer (causes 8 to 10 of R281, in that order). -/
def Pkg.buildAll (p : Pkg) (key : List Byte) : Except (Nat × Nat) (List Built) :=
  let l := p.recs.map fun r => (r, p.build key r)
  let err (c : Nat) : Option (Nat × Nat) := (l.findSome? fun x => match x.2 with
    | .error e => if e = c then some (if c = 2 then stBlockSize else stBadPackage, x.1.layer) else none
    | .ok _ => none)
  match ((err 0).orElse fun _ => err 1).orElse fun _ => err 2 with
  | some e => .error e
  | none => .ok (l.filterMap fun x => match x.2 with
    | .ok b => some b
    | .error _ => none)

/-- Bytes of the two parts of a layer's stored image, as its record gives them: the protected part and the slots (R286). -/
def Pkg.imageLen (p : Pkg) (r : LRec) : Nat × Nat :=
  let pt := r.parts
  let dir := (chunks 16 r.nslot (slice (p.body r) pt.dir.1 pt.dir.2)).map DirEnt.ofBytes
  (pt.cb.2 + pt.tab.2 + 512 * r.nscale + (if r.wfmt = 5 then 0 else ceilDiv (16 * r.nslot) 512 * 512),
    if r.wfmt = 5 then 8192 * r.nslot
    else if r.kind = 2 then (if is4bit r.wfmt then 2048 else 4096) * r.nslot
    else dir.foldl (fun a d => a + d.len) 0)

/-- Pool pages that the layers of a package need: those of the protected parts, and the others. -/
def Pkg.need (p : Pkg) : Nat × Nat :=
  p.recs.foldl (fun a r => let n := p.imageLen r; (a.1 + ceilDiv n.1 65536, a.2 + ceilDiv n.2 65536)) (0, 0)

/-- Protected part of a layer's image: the items and the directory. -/
def Built.head' (x : Built) : List Byte :=
  x.head ++ fitTo (ceilDiv (x.dir.length * 16) 512 * 512) (x.dir.map DirEnt.bytes).flatten

/-- Pages of the two parts of the image. -/
def Built.headPages (x : Built) : Nat := ceilDiv x.head'.length 65536
def Built.slotPages (x : Built) : Nat := ceilDiv x.slots.length 65536

/-! ## Replacement and adapters (R294, R299, R300, R323) -/

/-- A LOAD that repairs poisoned layers at their stored version (R323). -/
def repairs (m : Model) (p : Pkg) : Bool :=
  !p.adapter && p.recs.all fun r => match m.newest? r.layer with
    | some l => l.ver == p.mver && l.poisoned
    | none => false

/-- Whether a package breaks R294 or R299. -/
def State.replaceBad (s : State) (p : Pkg) : Bool :=
  match s.pool.models.find? fun m => m.modelId == p.modelId && m.adp.isNone with
  | none => p.adapter
  | some m =>
    if p.adapter then
      m.layers.any (fun l => (m.newest? l.layer).any fun n => n.ver != p.mver) ||
        (List.range 64).any fun e => s.on (WL_ADP_VALID e) && s.on (WL_ADP_CURRENT e) && s.rg (WL_ADP_AID e) == p.aid &&
          decide (p.aver ≤ s.rg (WL_ADP_AVER e))
    else if repairs m p then false
    else p.recs.any fun r => match m.newest? r.layer with
      | none => false
      | some l => decide (p.mver ≤ l.ver) || (l.kind == 0) != (r.kind == 0) || l.wfmt != r.wfmt || l.grp != r.grp ||
        l.form != r.form || l.k != r.k || l.n != r.n || l.blkbase != r.blkbase

/-- Rows of a layer in weight memory as a RESIDENT binding holds it (R298): regions and scale rows. -/
def Layer.rows (l : Layer) : Nat :=
  l.nscale + l.nslot * (if l.wfmt = 5 then 16 else if is4bit l.wfmt then 4 else 8)

/-- Whether a replacement is refused because of who binds the layers (R294, R298). -/
def State.bindBad (s : State) (p : Pkg) (inplace : Bool) : Bool :=
  match s.pool.models.find? fun m => m.modelId == p.modelId && m.adp.isNone with
  | none => false
  | some m => !p.adapter && s.loader.sets.any fun x => x.binds.any fun b => b.model == m.handle &&
      (p.recs.any fun r => r.layer == b.layer) &&
      ((inplace && decide (x.cls < 2)) ||
       (b.resident && x.state == 2 && match m.newest? b.layer with
        | some l => decide (480 < l.rows)
        | none => false))

/-- The lowest client number free for a model, a job or a staging area. -/
def State.freeClient (s : State) : Option Nat :=
  ((List.range 61).map (· + 3)).find? fun c => !s.on (TIER_CLIENT_CTRL_EN c)

/-! ## Storing and committing -/

/-- The layer as the pool keeps it. -/
def Built.layer (x : Built) (p : Pkg) : Layer :=
  let r := x.rcd
  let hp := x.headPages * 65536
  let pt := r.parts
  { layer := r.layer, ver := p.tver, keyid := p.keyid, kind := r.kind, wfmt := r.wfmt, grp := r.grp, form := r.form
    tab := pt.tab.2 != 0, k := r.k, n := r.n, blkbase := r.blkbase, nslot := r.nslot, nscale := r.nscale
    dir := x.dir.map fun d => (d.skind, d.size, hp + d.off, d.scrc, d.xcrc, d.blk)
    tabOff := pt.cb.2, scaleOff := pt.cb.2 + pt.tab.2, length := hp + x.slots.length, head := x.headPages }

/-- Stores one layer for a model (R282, R286): the old record of the same version goes first (R323). -/
def State.storeLayer (s : State) (m : Model) (p : Pkg) (x : Built) : State :=
  let key := m.lkey x.rcd.layer
  let s := s.dropPages fun q => q.client == m.client && q.layer == key && q.ver == p.tver
  let s := s.storePages m.client key p.tver true 0 x.headPages x.head'
  let s := s.storePages m.client key p.tver false x.headPages x.slotPages x.slots
  let s := s.onModel m.handle fun m => { m with
    layers := (m.layers.filter fun l => !(l.layer == x.rcd.layer && l.ver == p.tver)) ++ [x.layer p] }
  s.bump WL_SLOTS x.dir.length

/-- The model record that a package goes to: a new one, the stored one, or a new adapter entry. -/
def State.modelFor (s : State) (p : Pkg) : Option (Model × State) :=
  let fresh (client : Nat) (adp : Option Nat) : Model × State :=
    let m : Model := { handle := s.pool.nextHandle, client := client, modelId := p.modelId, keyid := p.keyid
                       name := p.name, adp := adp }
    (m, { s with pool := { s.pool with models := s.pool.models ++ [m], nextHandle := s.pool.nextHandle + 1 } })
  if p.adapter then
    match (List.range 64).find? fun e => !s.on (WL_ADP_VALID e) with
    | none => none
    | some e => some (fresh 2 (some e))
  else match s.pool.models.find? fun m => m.modelId == p.modelId && m.adp.isNone with
    | some m => some (m, s)
    | none => match s.freeClient with
      | none => none
      | some c => let r := fresh c none; some (r.1, r.2.register c 3)

/-- An adapter version becomes current (R300). -/
def State.commitAdapter (s : State) (p : Pkg) (e : Nat) : State :=
  let s := (List.range 64).foldl (fun s i => if s.rg (WL_ADP_AID i) = p.aid ∧ s.on (WL_ADP_VALID i) then
    s.wr (WL_ADP_CURRENT i) 0 else s) s
  let s : State := { s with loader := { s.loader with adpSeen := (p.aid, p.aver) :: s.loader.adpSeen } }
  s.wrs [(WL_ADP_VALID e, 1), (WL_ADP_CURRENT e, 1), (WL_ADP_AID e, p.aid), (WL_ADP_AVER e, p.aver), (WL_ADP_REFS e, 0)]

/-- `WL.STATUS` (R303): a LOAD ends within its command, so what stays is the INPLACE load that waits for its barrier. -/
def State.wlShow (s : State) : State :=
  match s.loader.inplace with
  | [] => s.wrs [(WL_STATUS_BUSY, 0), (WL_STATUS_PHASE, 0), (WL_STATUS_LAYER, 0)]
  | i :: _ => s.wrs [(WL_STATUS_BUSY, 1), (WL_STATUS_PHASE, 5), (WL_STATUS_LAYER, i.layers.getLastD 0)]

/-- Stores and commits a checked package for a LOAD entry, and completes it. -/
def State.commitLoad (s : State) (q tag : Nat) (p : Pkg) (l : List Built) : State :=
  match s.modelFor p with
  | none => s
  | some (m, s) =>
    let s := l.foldl (fun s x => s.storeLayer m p x) s
    let s := match m.adp with
      | some e => s.commitAdapter p e
      | none => s
    let s := s.wlShow.books
    s.complete q (s.cmdCompletion 1 stOk m.handle l.length tag 0xFFFF)

/-- A refused LOAD. -/
def State.refuseLoad (s : State) (q tag code layer : Nat) : State :=
  let s := s.firstLog WL_FAULT_VALID WL_FAULT_MULTI [(WL_FAULT_LAYER, layer), (WL_FAULT_CODE, code)]
  s.complete q (s.cmdCompletion 1 code 0 0 tag (if layer = 0xFFF then 0xFFFF else layer))

/-- Whether a feature has been agreed (R458, R460). -/
def State.feature (s : State) (i : Nat) : Bool := bit (s.rg FW_FEAT_AGREED) i

/-- The oldest taken command entry with an operation, and the state without it (R464). -/
def State.takeOp (s : State) (op : Nat) : Option (Nat × List Byte × State) :=
  match s.fw.taken.find? fun x => leAt x.entry 0 1 == op with
  | none => none
  | some x => some (x.q, x.entry, { s with fw := { s.fw with taken := s.fw.taken.erase x } })

/-- Pages a layer's stored version holds. -/
def State.oldPages (s : State) (p : Pkg) : Nat :=
  match s.pool.models.find? fun m => m.modelId == p.modelId && m.adp.isNone with
  | none => 0
  | some m => (s.pool.pages.filter fun q => q.client == m.client && q.t1.isSome &&
      p.recs.any fun r => m.lkey r.layer == q.layer).length

/-- A LOAD (R281 to R286, R294, R297, R299). -/
def State.load (s : State) : State :=
  match s.takeOp 1 with
  | none => s
  | some (q, e, s) =>
    let tag := leAt e 16 8
    let plen := leAt e 24 8
    let inplace := bit (leAt e 1 1) 0
    if 2 ≤ leAt e 1 1 ∨ ¬ allZero (slice e 2 6) ∨ ¬ allZero (slice e 32 32) then s.refuseLoad q tag stBadDescriptor 0xFFF
    else
      let p := Pkg.of (s.ldSpace (leAt e 8 8) plen)
      let s := (s.spaceErr (leAt e 8 8) plen).bump WL_BYTES plen
      match p.early plen with
      | some (c, l) => s.refuseLoad q tag c l
      | none => if p.adapter ∧ ¬ s.feature 2 then s.refuseLoad q tag stRefusedVersion 0xFFF else match s.key? p.keyid with
        | none => s.refuseLoad q tag stRefusedProtection 0xFFF
        | some k =>
          let built := p.buildAll k.key
          let need := p.need.1 + p.need.2
          let need := if inplace then need - s.oldPages p else need
          let stored := s.pool.models.any fun m => m.modelId == p.modelId && m.adp.isNone
          let client := if p.adapter then some 2 else (s.pool.models.find? fun m => m.modelId == p.modelId && m.adp.isNone).map fun m =>
            m.client
          let full := client.any fun c => !s.ceilOk (List.replicate need c)
          let noEntry := if p.adapter then (List.range 64).all fun e => s.on (WL_ADP_VALID e)
            else !stored && s.freeClient.isNone
          match s.makeRoom need (if inplace then 0 else p.need.1) s.pool.pages.length with
          | none => s.refuseLoad q tag stRefusedMemory 0xFFF
          | some s' =>
            if noEntry ∨ full then s.refuseLoad q tag stRefusedMemory 0xFFF
            else if s.replaceBad p then s.refuseLoad q tag stRefusedVersion 0xFFF
            else if s.bindBad p inplace then s.refuseLoad q tag stBadDescriptor 0xFFF
            else match built with
              | .error (c, l) => s.refuseLoad q tag c l
              | .ok l =>
                let s := s'.useKey p.keyid
                if inplace ∧ stored ∧ ¬ p.adapter then
                  ({ s with loader := { s.loader with inplace := s.loader.inplace ++
                    [{ q := q, tag := tag, pkg := p.b, modelId := p.modelId, layers := p.recs.map LRec.layer }] } } : State).wlShow
                else s.commitLoad q tag p l

def execLoad (s : State) : Res := .next s.load

/-- A stored model, or an adapter version, goes with its pages. -/
def State.dropModel (s : State) (m : Model) : State :=
  let s := s.dropPages fun p => p.client == m.client && m.layers.any fun l => m.lkey l.layer == p.layer
  let s : State := { s with pool := { s.pool with models := s.pool.models.filter fun x => x.handle != m.handle } }
  (match m.adp with
    | some a => s.wrs [(WL_ADP_VALID a, 0), (WL_ADP_CURRENT a, 0)]
    | none => s.unregister m.client).books

/-- A DELETE (R464): the model's pages go, unless a placed set binds it. -/
def State.deleteModel (s : State) : State :=
  match s.takeOp 4 with
  | none => s
  | some (q, e, s) =>
    let tag := leAt e 16 8
    let h := leAt e 32 4
    match s.model? h with
    | none => s.complete q (s.cmdCompletion 4 stBadDescriptor h 0 tag 0xFFFF)
    | some m =>
      if s.loader.sets.any fun x => x.binds.any fun b => b.model == h then
        s.complete q (s.cmdCompletion 4 stBadDescriptor h 0 tag 0xFFFF)
      else
        (s.dropModel m).complete q (s.cmdCompletion 4 stOk h 0 tag 0xFFFF)

def execDelete (s : State) : Res := .next s.deleteModel

end Sys2Proof.Machine
end

