-- ==== Sys2Proof/Machine/Expander.lean ====
section
/-! DEFINITION. The expander of a station: scale rows and slots of the next range of a channel (R287 to R293). -/

namespace Sys2Proof.Machine

/-- The stored layer that a channel is bound to, in the version it reads. -/
def State.chanLayer (s : State) (k : ExpChan) : Option (Model × Layer) :=
  (s.model? k.handle).bind fun m => (m.layer? k.layer k.ver).map fun l => (m, l)

/-- Segments of a layer's form, groups of a range. -/
def Layer.sg (l : Layer) : Nat := 2 ^ l.form
def Layer.gpr (l : Layer) : Nat := 128 / grpSize l.grp

/-- Rows of an expanded region (R62). -/
def Layer.rrows (l : Layer) : Nat := if is4bit l.wfmt then 4 else 8

/-- The 16 bytes of the tweak of an item of a stored layer (R285). -/
def Model.tweak (m : Model) (l : Layer) (item : Nat) : List Byte := Machine.tweak item l.layer m.adp.isSome l.ver m.modelId

/-- What the loading of a stored item gave. -/
inductive Got where
  | ok (b : List Byte)
  | bad (page : Bool) (off : Nat)
deriving DecidableEq, Repr

/-- Reads and decrypts `n` bytes at `o` of a layer's image over the weight port of terrace `t`. -/
def State.item (s : State) (t : Nat) (m : Model) (l : Layer) (o n it : Nat) : Got × State :=
  let r := s.layerRead t m l (n / 65536 + 2) o n
  if r.1.2.1 ∨ r.1.2.2 then (.bad r.1.2.2 o, r.2)
  else (.ok (xts false (s.engineKey l.keyid) (m.tweak l it) r.1.1), r.2)

/-- Scale rows that a tide's regions need, first to last (R102, R289). -/
def Layer.tideScales (l : Layer) (first n : Nat) : Nat × Nat :=
  let g0 := first / l.sg * l.gpr
  let g1 := (first + n) / l.sg * l.gpr
  (g0 / 7 * l.sg, if n = 0 then 0 else ((g1 - 1) / 7 + 1 - g0 / 7) * l.sg)

/-- Whether scale row `i` of the tide may be written: its ring row has never held one, or the port has read every group of
the row it replaces (R289). -/
def Layer.scaleFree (l : Layer) (first sring sread i : Nat) : Bool :=
  i < sring ||
    (let x := first / l.sg * l.gpr / 7 + (i - sring) / l.sg
     let last := min (7 * x + 6) (l.nslot / l.sg * l.gpr - 1)
     decide (l.blkbase + last < sread))

/-- A slice that consumes a channel's data is faulted (R292, R293). -/
def State.expFault (s : State) (t p c cause code cyc region : Nat) (again : Bool) : State :=
  let s := s.firstLog (EXP_LOG_VALID t p) (EXP_LOG_MULTI t p)
    [(EXP_LOG_CH t p, c), (EXP_LOG_CAUSE t p, cause), (EXP_LOG_REGION t p, region)]
  (s.bump (EXP_REJECT t p)).faultSlice t p code cyc false again 0

/-- Scale rows written while the ring has room, on fuel: all that the range needs were written, or not yet, or one could
not be read. -/
def State.expScales (s : State) (t p c : Nat) (m : Model) (l : Layer) (d : List Nat) (need : Nat) :
    Nat → Option Bool × State
  | 0 => (some false, s)
  | f + 1 =>
    let k := (s.stn t p).chans.getD c {}
    let sring := s.rg (EXP_CTRL_SRING_M1 t p c) + 1
    if need ≤ k.srows then (some true, s)
    else if ¬ l.scaleFree k.first sring k.sread k.srows then (some false, s)
    else
      let i := (l.tideScales k.first k.nreg).1 + k.srows
      match s.item t m l (l.scaleOff + 512 * i) 512 (itemScale i) with
      | (.bad _ o, s) => (none, s.markBad m l o)
      | (.ok b, s) =>
        let s := s.writeRow t (s.home t p) (dSmem d) ((dSrow d + k.srows % sring) % 1024) b
        (s.onStn t p fun v => v.onChan c fun k => { k with srows := k.srows + 1 }).expScales t p c m l d need f

/-- What became of one stored slot. -/
inductive SlotRes where
  | ok (r : Region)
  | again (off : Nat)
  | gone (off : Nat)
  | reject (off : Nat)
deriving DecidableEq, Repr

/-- One stored slot read, checked, decrypted and expanded (R275 to R280, R285, R292). `bad1`, `bad2`: the first and the
second read came back damaged. -/
def State.expSlot (s : State) (t : Nat) (m : Model) (l : Layer) (cb : List Byte) (x : Nat) (bad1 bad2 : Bool) : SlotRes × State :=
  match l.dir[x]? with
  | none => (.gone 0, s)
  | some (sk, sz, off, scrc, xcrc, blk) =>
    let d : DirEnt := ⟨sk, sz, 0, scrc, xcrc, blk⟩
    let r := s.layerRead t m l 3 off d.len
    let s := r.2
    if r.1.2.1 ∨ r.1.2.2 then (.gone off, s)
    else
      let no := crc32c r.1.1 != scrc
      let s := if no || bad1 then s.bump WL_SCRC else s
      if no || (bad1 && bad2) then (.again off, s)
      else match expandSlot l.wfmt cb d (xts false (s.engineKey l.keyid) (m.tweak l x) r.1.1) with
        | some g => (.ok g, s)
        | none => (.reject off, s)

/-- The slots of one range of k, segment by segment; stops at the first that fails. -/
def State.expRange (s : State) (t : Nat) (m : Model) (l : Layer) (cb : List Byte) (bad1 bad2 : Bool) :
    Nat → Nat → (List Region × Option (Nat × SlotRes)) × State
  | _, 0 => (([], none), s)
  | x, n + 1 =>
    match s.expSlot t m l cb x bad1 bad2 with
    | (.ok g, s) =>
      let r := s.expRange t m l cb false false (x + 1) n
      ((g :: r.1.1, r.1.2), r.2)
    | (e, s) => (([], some (x, e)), s)

/-- A rejected slot (R293): the second rejection without an acceptance between poisons the layer. -/
def State.rejectSlot (s : State) (m : Model) (l : Layer) (x : Nat) : State :=
  let s := (s.bump WL_REJECT).logEntry 0x000D 2 0xFFFF l.layer stUncorrectable
  if l.rejected.contains x then s.poisonLayer m l
  else s.onModel m.handle fun m => { m with
    layers := m.layers.map fun y => if y.layer = l.layer ∧ y.ver = l.ver then { y with rejected := x :: y.rejected } else y }

/-- Regions accepted: a later rejection counts from one again. -/
def State.acceptSlots (s : State) (m : Model) (l : Layer) (x n : Nat) : State :=
  if l.rejected.isEmpty then s
  else s.onModel m.handle fun m => { m with
    layers := m.layers.map fun y => if y.layer = l.layer ∧ y.ver = l.ver then
      { y with rejected := y.rejected.filter fun r => !decide (x ≤ r ∧ r < x + n) } else y }

/-- The rows of the `n` regions of a range written into the ring, presence bits set after the last (R290). -/
def State.expWrite (s : State) (t p : Nat) (d : List Nat) (l : Layer) (place : Nat) (g : List Region) : State :=
  let R := l.rrows
  let sg := l.sg
  let base := R * sg * place
  let s := (List.range (R * sg)).foldl (fun s i =>
    let o := base + i
    match s.rowRef t p d o with
    | none => s
    | some r => match g[i % sg]? with
      | none => s
      | some reg => s.writeRow r.t r.p r.mem r.row (slice reg.bytes (512 * (i / sg)) 512)) s
  (List.range sg).foldl (fun s i =>
    match s.rowRef t p d (base + R * i) with
    | some r => match r.slot with
      | some k =>
        let s := s.onStn t p fun v => { v with blk := v.blk.set k ((g.map Region.blk).headD 0) 0 }
        s.setPresent r.t r.p k
      | none => s
    | none => s) s

/-- The first of the ring's target slots that is full. -/
def State.expFull (s : State) (t p : Nat) (d : List Nat) (l : Layer) (place : Nat) : Option (Nat × Nat × Nat) :=
  (List.range l.sg).findSome? fun i =>
    match s.rowRef t p d (l.rrows * l.sg * place + l.rrows * i) with
    | some r => match r.slot with
      | some k => if s.present r.t r.p k then some (r.t, r.p, k) else none
      | none => none
    | none => none

/-- The slot on which a channel waits, if any. -/
def State.chanWaits (s : State) (t p c : Nat) (k : Option Nat) : State :=
  s.onStn t p fun v => v.onChan c fun x => { x with full := k }

/-- An RT port enters panic (R333). -/
def State.expPanic (s : State) (t p c buffered : Nat) : State :=
  let rt := match (s.stn t p).slice with
    | some sl => decide (sl.cls < 2)
    | none => false
  let now := rt && decide (buffered < s.rg DRAM_PANIC_SLOTS)
  let s := if now && !((s.stn t p).chans.getD c {}).panic then s.bump DRAM_PANIC_CNT else s
  s.onStn t p fun v => v.onChan c fun k => { k with panic := now }

/-- A channel expands the regions of its next range of k (R288 to R293). -/
def State.expand (s : State) (t p c cyc buffered : Nat) (bad1 bad2 : Bool) : State :=
  let k := (s.stn t p).chans.getD c {}
  let st := s.rg (SEQ_STATE_STATE t p)
  if ¬ s.on (EXP_CTRL_EN t p c) ∨ s.on (EXP_CTRL_RESIDENT t p c) ∨ ¬ k.active ∨ k.left = 0 ∨ st = 5 ∨ st = 6 ∨ st = 7 ∨ st ≤ 1 then s
  else match s.chanLayer k with
    | none => s.faultSlice t p stUncorrectable cyc false false 0
    | some (m, l) =>
      let d := s.desc t p (s.rg (EXP_CTRL_DESC t p c))
      let s := s.expPanic t p c buffered
      if buffered = 0 then s.bump (EXP_WAIT t p)
      else if k.cbBad ∨ l.poisoned then s.faultSlice t p stUncorrectable cyc false false 0
      else match s.expFull t p d l k.place with
      | some q => (s.stallSlot q.1 q.2.1 q.2.2 true).chanWaits t p c (some q.2.2)
      | none =>
        let s := s.chanWaits t p c none
        let x := k.first + (k.nreg - k.left)
        let need := (l.tideScales k.first (k.nreg - k.left + l.sg)).2
        match s.expScales t p c m l d need (need + 1) with
        | (some false, s) => s
        | (none, s) => s.faultSlice t p stUncorrectable cyc false false 0
        | (some true, s) =>
          match s.expRange t m l k.codebook bad1 bad2 x l.sg with
          | ((g, none), s) =>
            let s := ((s.expWrite t p d l k.place g).acceptSlots m l x l.sg).bump (EXP_SLOTS t p) l.sg
            let s := s.onStn t p fun v => v.onChan c fun k => { k with left := k.left - l.sg, place := k.place + 1 }
            s.wr (EXP_POS_REGION t p c) (x + l.sg)
          | ((_, some (x, .again off)), s) => (s.markBad m l off).expFault t p c 0 stUncorrectable cyc x true
          | ((_, some (_, .gone off)), s) => (s.markBad m l off).faultSlice t p stUncorrectable cyc false false 0
          | ((_, some (x, .reject _)), s) => (s.rejectSlot m l x).expFault t p c 1 stBlockSize cyc x true
          | ((_, some (_, .ok _)), s) => s

/-- EXPANDER_SLOT: channel `c` of station `st` at cycle `cyc`, with `buffered` stored slots read ahead (R288, R333). -/
def execExpanderSlot (st : StId) (c : Fin 2) (cyc : BitVec 23) (buffered : Fin 5) (bad1 bad2 : Bool) (s : State) : Res :=
  .next (s.expand st.t.val st.p.val c.val cyc.toNat buffered.val bad1 bad2)

/-! ## At the boundary (R288) -/

/-- Each enabled channel of a station reloads its codebook block and restarts; `ph`: the index of the tide. -/
def State.expRestart (s : State) (t p ph : Nat) : State :=
  (List.range 2).foldl (fun s c =>
    if ¬ s.on (EXP_CTRL_EN t p c) ∨ s.on (EXP_CTRL_RESIDENT t p c) then s
    else
      let k := (s.stn t p).chans.getD c {}
      let tidx := s.rg (EXP_CTRL_TIDX t p c)
      let go := decide (tidx ≤ ph ∧ ph ≤ tidx + s.rg (EXP_CTRL_TN_M1 t p c))
      let first := k.slot0 + (ph - tidx) * k.nreg
      let r : (List Byte × Bool) × State := match s.chanLayer k with
        | none => (([], true), s)
        | some (m, l) =>
          if l.kind ≠ 0 then (([], false), s)
          else match s.item t m l 0 4608 itemCodebook with
            | (.ok b, s) => ((b, false), s)
            | (.bad _ o, s) => (([], true), s.markBad m l o)
      let s := r.2.onStn t p fun v => v.onChan c fun k => { k with
        active := go, first := first, left := if go then k.nreg else 0, place := 0, srows := 0, sread := 0
        codebook := r.1.1, cbBad := r.1.2, panic := false, full := none }
      if go then s.wr (EXP_POS_REGION t p c) first else s) s

end Sys2Proof.Machine
end

