-- ==== Sys2Proof/Machine/Image.lean ====
section
/-! DEFINITION. Slice program images (chapters 5 to 8): their sections, and the checks that need no walk of the program. -/

namespace Sys2Proof.Machine

/-! ## Sections (R139, R140) -/

/-- An image by its bytes; the sections are read from them. -/
structure Img where
  b : List Byte
  /-- Offsets of the curve tables, directory, data rows and program. -/
  prog : Array Nat
  slots : Array Nat
  descs : List (List Nat)
deriving DecidableEq, Repr

def Img.cls (m : Img) : Nat := bits (leAt m.b 6 2) 0 2
def Img.stream (m : Img) : List Byte := slice m.b 8 16
def Img.name (m : Img) : List Byte := slice m.b 24 24
def Img.prev (m : Img) : List Byte := slice m.b 48 24
def Img.next (m : Img) : List Byte := slice m.b 72 24
def Img.l (m : Img) : Nat := leAt m.b 96 4
def Img.lReplay (m : Img) : Nat := leAt m.b 100 4
def Img.lTaken (m : Img) : Nat := leAt m.b 104 4
def Img.w (m : Img) : Nat := leAt m.b 108 4
def Img.e (m : Img) : Nat := leAt m.b 112 2
def Img.n (m : Img) : Nat := leAt m.b 114 2
def Img.period (m : Img) : Nat := leAt m.b 116 4
def Img.progWords (m : Img) : Nat := leAt m.b 120 2
def Img.dataRows (m : Img) : Nat := leAt m.b 122 2
def Img.nSlots (m : Img) : Nat := leAt m.b 124 1
def Img.curves (m : Img) : Nat := leAt m.b 125 1
def Img.nDesc (m : Img) : Nat := leAt m.b 126 1
def Img.tsBase (m : Img) : Nat := leAt m.b 128 2
def Img.tsRows (m : Img) : Nat := leAt m.b 130 2
def Img.length (m : Img) : Nat := leAt m.b 132 4

/-- Curve slots declared, in ascending order. -/
def Img.curveSlots (m : Img) : List Nat := (List.range 4).filter fun i => bit m.curves i

def up512 (n : Nat) : Nat := ceilDiv n 512 * 512

/-- Offsets of the directory, the data rows and the program; the end of the program. -/
def Img.dirOff (m : Img) : Nat := 1024 + 4608 * m.curveSlots.length
def Img.dataOff (m : Img) : Nat := m.dirOff + up512 (4 * m.dataRows)
def Img.progOff (m : Img) : Nat := m.dataOff + 512 * m.dataRows
def Img.endOff (m : Img) : Nat := m.progOff + up512 (8 * m.progWords)

def Img.descBytes (b : List Byte) (i : Nat) : List Nat := (List.range 8).map fun w => leAt b (256 + 32 * i + 4 * w) 4

def Img.of (b : List Byte) : Img :=
  let m : Img := ⟨b, #[], #[], []⟩
  { m with
    prog := ((chunks 8 m.progWords (slice b m.progOff (8 * m.progWords))).map leNat).toArray
    slots := ((List.range 64).map fun k => leAt b (512 + 8 * k) 4).toArray
    descs := (List.range 8).map (Img.descBytes b) }

def Img.desc (m : Img) (d : Nat) : List Nat := m.descs.getD d []

/-- Data rows: memory, row, bytes. -/
def Img.rows (m : Img) : List (Nat × Nat × List Byte) :=
  (List.range m.dataRows).map fun i =>
    let e := leAt m.b (m.dirOff + 4 * i) 4
    (bits e 30 2, bits e 0 10, slice m.b (m.dataOff + 512 * i) 512)

/-- Curve table of slot `i`. -/
def Img.curve (m : Img) (i : Nat) : List Byte :=
  slice m.b (1024 + 4608 * (m.curveSlots.filter (· < i)).length) 4608

/-! ### Slot words (R136) -/

def slEn (w : Nat) : Bool := bit w 31
def slMem (w : Nat) : Nat := bits w 29 2
def slKind (w : Nat) : Nat := bits w 27 2
def slReaders (w : Nat) : Nat := bits w 25 2
def slInit (w : Nat) : Nat := bits w 24 1
def slProducer (w : Nat) : Nat := bits w 20 3
def slRows (w : Nat) : Nat := bits w 16 4
def slRdset (w : Nat) : Nat := bits w 10 4
def slBase (w : Nat) : Nat := bits w 0 10

def Img.slot (m : Img) (k : Nat) : Nat := m.slots.getD k 0
def Img.enabled (m : Img) : List Nat := (List.range 64).filter fun k => slEn (m.slot k)

/-! ## Header, sections and names (R140, R141) -/

/-- A neighbour field: none, or a name (a station's, or a window's). -/
def nbrOk (l : List Byte) : Bool := allZero l || nameOk l

/-- The name of neighbour window `n`: "#" and its number in decimal (R140). -/
def windowName (n : Nat) : List Byte :=
  fitTo 24 (0x23#8 :: (if n < 10 then [BitVec.ofNat 8 (0x30 + n)] else [BitVec.ofNat 8 (0x30 + n / 10), BitVec.ofNat 8 (0x30 + n % 10)]))

/-- Whether a neighbour field names one of the 64 windows; any other text after "#" is a station's name (R138, R140). -/
def isWindow (l : List Byte) : Bool := (List.range 64).any fun n => l == windowName n

/-- The first cause of R141. -/
def Img.headOk (m : Img) : Bool :=
  decide (1024 ≤ m.b.length) && leAt m.b 0 4 == 0x49535646 && leAt m.b 4 2 == 1 && m.length == m.b.length &&
    decide (m.length % 512 = 0) && crc32c (patch m.b 136 (zeros 4)) == leAt m.b 136 4 &&
    decide (leAt m.b 6 2 < 4 ∧ m.curves < 16) && bits m.period 13 3 == 0 && bits m.period 18 2 == 0 &&
    decide (bits m.period 22 10 = 0 ∧ bits m.period 16 2 ≤ 1 ∧ bits m.period 20 2 ≤ 2) &&
    allZero (slice m.b 127 1) && allZero (slice m.b 140 116) &&
    (List.range 64).all (fun k => leAt m.b (516 + 8 * k) 4 == 0 && bits (m.slot k) 14 2 == 0) &&
    (List.range m.dataRows).all (fun i => let e := leAt m.b (m.dirOff + 4 * i) 4; bits e 10 20 == 0 && bits e 30 2 != 3)

/-- The second cause. -/
def Img.countsOk (m : Img) : Bool :=
  decide (m.endOff ≤ m.length ∧ 1 ≤ m.progWords ∧ m.progWords ≤ 8192 ∧ m.dataRows ≤ 1920 ∧ m.nSlots ≤ 64 ∧ m.nDesc ≤ 8) &&
    ((List.range 8).all fun d => decide (d < m.nDesc) || (m.desc d).all (· == 0)) &&
    nameOk m.name && nameOk m.stream && nbrOk m.prev && nbrOk m.next

/-- The slot table's own rules (R131, R136), the neighbour accesses apart. -/
def Img.slotsOk (m : Img) : Bool :=
  let en := m.enabled
  m.nSlots == en.length &&
    en.all (fun k =>
      let w := m.slot k
      decide (slMem w ≤ 2 ∧ slKind w ≤ 2 ∧ 1 ≤ slReaders w ∧ slProducer w ≤ 6 ∧ 1 ≤ slRows w ∧ slRows w ≤ 8 ∧
        slRdset w ≠ 0 ∧ slBase w + slRows w ≤ memRows (slMem w)) &&
      en.all (fun j => decide (j ≤ k) || let v := m.slot j
        slMem v != slMem w || decide (slBase v + slRows v ≤ slBase w ∨ slBase w + slRows w ≤ slBase v)) &&
      (slKind w != 2 ||
        (let v := m.slot (k ^^^ 1)
         slEn v && w / 1024 == v / 1024 && (slProducer w == 4 || slProducer w == 5))))

/-! ## Descriptors (R156, R157) -/

/-- A descriptor's own fields. -/
def descOk (d : List Nat) : Bool :=
  let w0 := dw d 0
  let w1 := dw d 1
  bits w0 0 10 == 0 && bits w1 29 3 == 0 && bits w1 12 4 == 0 && bits (dw d 2) 16 16 == 0 && bits (dw d 3) 16 16 == 0 &&
    bits (dw d 5) 10 19 == 0 && bits (dw d 6) 10 19 == 0 && bits (dw d 7) 0 31 == 0 &&
    decide (1 ≤ dSize d ∧ dSize d ≤ 4096 ∧ dAdv d ≤ 4095) && (dMem d == 2 || decide (dFmt d ≤ 5)) &&
    (dSrc d != 3 || dMem d == 0) && decide (dSmem d ≤ 1 ∧ dTmem d ≤ 1) &&
    (dMode d || dSrc d == 0) && (dMode d || dMem d == 3 || decide (dBaseRow d + dSize d ≤ memRows (dMem d))) &&
    (!dMode d || decide (dSlot0 d + bits w0 10 6 + 1 ≤ 64)) && (!dPrel d || (dMem d == 3 && !dMode d))

/-- Whether a MODE 1 descriptor fits the slot table it names (R157). -/
def ringOk (d : List Nat) (slots : Nat → Nat) : Bool :=
  let n := bits (dw d 0) 10 6 + 1
  let r := slRows (slots (dSlot0 d))
  dSize d == n * r && (List.range n).all fun i =>
    let w := slots (dSlot0 d + i)
    slEn w && slMem w == dMem d && slRows w == r

/-! ## Instruction words (R155) -/

/-- Bits that an opcode assigns below bit 58, or none for an opcode the table does not list. -/
def opMask (op : Nat) : Option Nat :=
  let f (hi lo : Nat) : Nat := 2 ^ (hi + 1) - 2 ^ lo
  let row1 := f 54 52 + f 51 51 + f 50 46 + f 45 45
  if op = 0x00 ∨ op = 0x3F then some 0
  else if op = 0x01 ∨ op = 0x02 then some (f 57 2)
  else if op = 0x03 then some (f 55 55 + row1)
  else if op = 0x04 then some (f 56 55 + row1)
  else if op = 0x05 then some (f 57 55 + row1)
  else if op = 0x08 then some (f 57 49)
  else if op = 0x09 ∨ op = 0x0A then some (f 57 50)
  else if op = 0x0B then some (f 57 54 + f 52 48)
  else if op = 0x0C then some (f 52 48)
  else if op = 0x10 then some (f 57 55 + f 50 46 + f 44 32 + f 15 0)
  else if op = 0x11 then some (f 57 54 + f 50 46 + f 41 32 + f 15 0)
  else if op = 0x12 then some (f 57 55 + f 54 52 + f 51 51 + f 50 46 + f 44 40 + f 15 0)
  else if op = 0x13 then some (f 57 55 + f 54 52 + f 50 46 + f 15 0)
  else if op = 0x14 then some (f 57 55 + f 54 52 + f 51 44 + f 43 42)
  else if op = 0x18 then some (row1 + f 44 41)
  else if op = 0x19 then some (row1 + f 44 41 + f 40 40)
  else if op = 0x1A then some (f 57 0)
  else none

/-- What a vector function uses: views allowed (bit v), VA, VB, VC, VD; IMM bits by mask; other function fields whole. -/
def vecUses (f : Nat) : Option (Nat × Bool × Bool × Bool × Nat) :=
  if f = 0x00 ∨ f = 0x07 then some (15, true, false, false, 0)
  else if f = 0x01 ∨ f = 0x02 ∨ f = 0x03 ∨ f = 0x05 ∨ f = 0x06 then some (15, true, true, false, 0)
  else if f = 0x04 ∨ f = 0x0D then some (15, true, true, true, 0)
  else if f = 0x08 ∨ f = 0x09 ∨ f = 0x0B then some (15, true, false, false, 0xFFFFFFFF)
  else if f = 0x0A then some (15, true, true, false, 0xFFFFFFFF)
  else if f = 0x0C then some (15, true, true, false, 3)
  else if f = 0x0E then some (3, true, true, true, 0)
  else if f = 0x0F ∨ f = 0x18 then some (3, true, true, false, 0)
  else if 0x10 ≤ f ∧ f ≤ 0x17 then some (3, true, false, false, 0)
  else if f = 0x20 then some (15, true, false, false, 0x7F)
  else if f = 0x28 then some (15, true, false, false, 7)
  else if f = 0x30 then some (1, true, true, true, 0)
  else none

/-- Element width of a view in bits. -/
def viewBits (v : Nat) : Nat := if v = 0 ∨ v = 2 then 32 else if v = 1 then 16 else 8

/-- A VEC word (R190, R195, R213, R215). -/
def vecOk (w : Nat) : Bool :=
  let f := bits w 50 8
  let va := bits w 42 4
  let vb := bits w 38 4
  let vc := bits w 34 4
  match vecUses f with
  | some (views, a, b, c, mask) =>
    let v := bits w 32 2
    let imm := bits w 0 32
    let m := if mask = 0xFFFFFFFF then 2 ^ viewBits v else mask + 1
    bit views v && (a || va == 0) && (b || vb == 0) && (c || vc == 0) && decide (imm < m) &&
      (f != 0x28 || bits imm 0 2 != 3) &&
      (f != 0x20 ||
        (let src := viewBits v
         let tgt := cvtBits (bits imm 0 4)
         decide (bits imm 0 4 ≤ 6 ∧ bits imm 4 3 < (if src ≤ tgt then tgt / src else src / tgt))))
  | none =>
    if f = 0x38 then va == 0 && bits w 1 25 == 0
    else if f = 0x39 then va == 0 && vb == 0 && vc == 0 && bits w 1 23 == 0
    else if f = 0x3A then va == 0 && vb == 0 && bits w 10 1 == 0
    else if f = 0x40 then bits w 0 34 == 0
    else if f = 0x41 then bits w 8 24 == 0 && decide (bits w 0 8 ≤ 128 ∧ va + bits w 32 2 ≤ 15)
    else if f = 0x42 then vb == 0 && bits w 24 10 == 0
    else false

/-- Formats of an activation operand, of a weight operand, and their pairing (R63, R64). -/
def pairOk (a w : Nat) : Bool := decide (a ≤ 5 ∧ a ≠ 4 ∧ w ≤ 5) && (a == 5) == (w == 5)

/-- A TILE or TILEW by its fields and initial descriptors (R161, R162, R64, R73, R198, R201). -/
def Img.tileOk (m : Img) (w : Nat) : Bool :=
  let win := opOf w == 2
  let ad := m.desc (tAd w)
  let wd := m.desc (tWd w)
  let od := m.desc (tOd w)
  let g := tGrp w
  let bf := dFmt wd == 5
  let k := 32 * tKb w
  let used := [tAd w, tWd w] ++ (if tDst w = 3 then [] else [tOd w]) ++ (if tPre w = 2 ∧ ¬ win then [tPd w] else [])
  used.all (fun d => decide (d < m.nDesc)) && tPre w != 3 && (!win || tPre w != 2) && decide (tCurve w ≤ 4) &&
    (tDst w == 0 || tDst w == 3 || (decide (tOfmt w ≤ 5) && tOfmt w != 4)) && decide (1 ≤ tKb w ∧ 1 ≤ tT w) &&
    dMem ad != 2 && dMem wd != 2 && pairOk (dFmt ad) (dFmt wd) && (g == 0) == bf && (g == 0 || decide (k % grpSize g = 0)) &&
    (g != 0 || !tAsc w) && (dFmt wd != 4 || dTen wd) && (g == 0 || dSen wd) && (!tAsc w || dSen ad) &&
    (dSrc wd != 3 || (decide (k % 128 = 0) && !tTw w && !tTa w)) && ((!tTw w && !tTa w) || (bf && tForm w == 0)) &&
    (!bf || tForm w == 0) &&
    (tPre w != 2 || win || (let pd := m.desc (tPd w); dMem pd == 2 && dSrc pd == 0)) &&
    (if tDst w = 0 then dMem od == 2 && dSrc od == 0 else if tDst w = 1 then dMem od == 1 && dSrc od == 0
      else if tDst w = 2 then dMem od == 1 && (dSrc od == 1 || dSrc od == 2) else tT w == 1) &&
    (!win || (tForm w == 0 && !tAsc w))

/-- Descriptors that an instruction other than a tile names. -/
def insnDescs (w : Nat) : List Nat :=
  let op := opOf w
  if op = 0x03 ∨ op = 0x04 ∨ op = 0x05 ∨ op = 0x18 ∨ op = 0x19 ∨ op = 0x13 ∨ (op = 0x12 ∧ bits w 55 3 = 3) then [bits w 52 3]
  else if op = 0x14 then [bits w 55 3, bits w 52 3]
  else []

/-- An instruction word by itself (R155, R169, R170, R174 to R176). -/
def Img.wordOk (m : Img) (a : Nat) : Bool :=
  let w := m.prog.getD a 0
  let op := opOf w
  match opMask op with
  | none => false
  | some mask => decide (w % 2 ^ 58 &&& mask = w % 2 ^ 58) && (insnDescs w).all (fun d => decide (d < m.nDesc)) &&
    (if op = 0x01 ∨ op = 0x02 then m.tileOk w
     else if op = 0x08 ∨ op = 0x09 ∨ op = 0x0A then bits w 56 2 != 3
     else if op = 0x10 then decide (a < bits w 32 13 ∧ bits w 32 13 < m.progWords) && (bit w 55 || bits w 0 16 != 0)
     else if op = 0x11 then decide (bits w 54 4 ≤ 10 ∧ 1 ≤ bits w 32 8)
     else if op = 0x12 then decide (bits w 55 3 ≤ 3)
     else if op = 0x13 then decide (bits w 55 3 ≤ 4)
     else if op = 0x14 then bits w 44 8 != 0
     else if op = 0x1A then vecOk w
     else true)

/-! ## Loops and skips (R174, R175) -/

/-- Loops by address and END, those open at `a` being the ones whose body holds it. -/
def Img.loopsAt (m : Img) (a : Nat) : List (Nat × Nat) :=
  (List.range a).filterMap fun s =>
    let w := m.prog.getD s 0
    if opOf w = 0x10 ∧ a ≤ bits w 32 13 then some (s, bits w 32 13) else none

/-- Levels nest from 0 outwards, at most four open, each loop within the body of the one a level out. -/
def Img.loopOk (m : Img) (a : Nat) : Bool :=
  let w := m.prog.getD a 0
  if opOf w ≠ 0x10 then true
  else
    let o := m.loopsAt a
    bits w 56 2 == o.length && o.all fun l => decide (bits w 32 13 ≤ l.2)

/-- A skipped range holds whole loops only (at most one), no END of a loop open at the SKIP, and ends within the program
(a SKIP that stands at the END of a loop has no END of that loop in its range); conditions 4 and 5 name an open loop. -/
def Img.skipOk (m : Img) (a : Nat) : Bool :=
  let w := m.prog.getD a 0
  if opOf w ≠ 0x11 then true
  else
    let n := bits w 32 8
    let o := m.loopsAt a
    let inner := (List.range n).filterMap fun i =>
      let v := m.prog.getD (a + 1 + i) 0
      if opOf v = 0x10 then some (bits v 32 13) else none
    decide (a + n < m.progWords) && o.all (fun l => decide (l.2 ≤ a ∨ a + n < l.2)) &&
      decide (inner.length ≤ 1) && inner.all (fun e => decide (e ≤ a + n)) &&
      (!(bits w 54 4 == 4 || bits w 54 4 == 5) || decide (bits w 40 2 < o.length))

/-! ## Neighbours (R123, R131, R176) -/

/-- Whether a row of a memory lies in the buffer of a descriptor of the image. -/
def Img.inBuffer (m : Img) (d : List Nat) (mem row : Nat) : Bool :=
  dMem d == mem && (if dMode d then (List.range (dNslot d)).any fun i =>
      let w := m.slot (dSlot0 d + i)
      decide (slBase w ≤ row ∧ row < slBase w + slRows w)
    else decide (dBaseRow d ≤ row ∧ row < dBaseRow d + dSize d))

/-- The line-buffer descriptors that window configuration `wc` can name: those of the configurations in the data rows that a
WCFG of the program can load into it, or any when the image carries none of them. -/
def Img.lineBufs (m : Img) (wc : Nat) : List Nat :=
  let cfgs := (m.prog.toList.map fun w =>
    if opOf w = 0x05 ∧ bits w 55 3 = wc then
      (m.rows.filter fun r => m.inBuffer (m.desc (bits w 52 3)) r.1 r.2.1).filterMap fun r =>
        let c := WinCfg.ofRow r.2.2
        if (c.invalid (m.desc (c.lbd % 8)) m.nDesc).isSome then none else some c.lbd
    else []).flatten.eraseDups
  if cfgs.isEmpty then (List.range m.nDesc).filter fun d => dSrc (m.desc d) == 0 && (dMem (m.desc d) == 1 || dMem (m.desc d) == 3)
  else cfgs

/-- Accesses of the image to slots, as (side, slot, write); the window functions of VEC read line buffers (R186, R204). A
REL reads no slot and a SETP writes none. -/
def Img.accesses (m : Img) : List (Nat × Nat × Bool) :=
  let ring (d : List Nat) (wr : Bool) : List (Nat × Nat × Bool) :=
    if dMode d then (List.range (bits (dw d 0) 10 6 + 1)).map fun i => (if dSrc d = 3 then 0 else dSrc d, dSlot0 d + i, wr) else []
  (m.prog.toList.map fun w =>
    let op := opOf w
    if op = 1 ∨ op = 2 then
      ring (m.desc (tAd w)) false ++ ring (m.desc (tWd w)) false ++ (if tDst w = 3 then [] else ring (m.desc (tOd w)) true) ++
        (if tPre w = 2 ∧ op = 1 then ring (m.desc (tPd w)) false else [])
    else if op = 0x14 then ring (m.desc (bits w 55 3)) false ++ ring (m.desc (bits w 52 3)) true
    else if op = 0x19 then ring (m.desc (bits w 52 3)) true
    else if op = 0x03 ∨ op = 0x04 ∨ op = 0x05 ∨ op = 0x18 ∨ (op = 0x12 ∧ bits w 55 3 = 3) then ring (m.desc (bits w 52 3)) false
    else if op = 0x1A ∧ 0x38 ≤ bits w 50 8 ∧ bits w 50 8 ≤ 0x3A then
      ((m.lineBufs (bits w 31 3)).map fun d => ring (m.desc d) false).flatten
    else []).flatten.eraseDups

/-- Whether an access to a neighbour's slot is one that the neighbour's image allows (R123). -/
def nbrSlotOk (side : Nat) (wr : Bool) (w : Nat) : Bool :=
  slEn w && (if wr then slProducer w == 3 - side else bit (slRdset w) (3 - side))

/-- REL and SETP against the slot they name (R176). -/
def sigSlotOk (side : Nat) (setp : Bool) (w : Nat) : Bool :=
  slEn w && slKind w != 2 &&
    (if setp then slProducer w == (if side = 0 then 0 else 3 - side)
      else bit (slRdset w) (if side = 0 then 0 else 3 - side))

/-- Every access of an image, given the slot tables of the neighbours (none: no neighbour there). DEDUCED from R131 and
R414: a side that is a neighbour window has no slot table, because a window's rows pass through the station's own slots, so
nothing may be accessed on it. -/
def Img.accessOk (m : Img) (nbr : Nat → Option (Nat → Nat)) : Bool :=
  (m.accesses.all fun x => x.1 == 0 || match nbr x.1 with
    | some t => nbrSlotOk x.1 x.2.2 (t x.2.1)
    | none => false) &&
  (m.prog.toList.all fun w =>
    let op := opOf w
    let side := bits w 56 2
    if op = 0x09 ∨ op = 0x0A then
      (if side = 0 then sigSlotOk 0 (op == 0x0A) (m.slot (bits w 50 6)) else match nbr side with
        | some t => sigSlotOk side (op == 0x0A) (t (bits w 50 6))
        | none => false)
    else true) &&
  (m.descs.take m.nDesc).all fun d => !dMode d ||
    (if dSrc d = 0 ∨ dSrc d = 3 then ringOk d m.slot else match nbr (dSrc d) with
      | some t => ringOk d t
      | none => false)

/-- Whether a data row lies in a slot or a descriptor's rows (R141). -/
def Img.covered (m : Img) (mem row : Nat) : Bool :=
  (m.enabled.any fun k => let w := m.slot k
    slKind w != 2 && slMem w == mem && decide (slBase w ≤ row ∧ row < slBase w + slRows w)) ||
  (m.descs.take m.nDesc).any fun d =>
    (!dMode d && dMem d == mem && decide (dBaseRow d ≤ row ∧ row < dBaseRow d + dSize d)) ||
    (dSen d && dSmem d == mem && decide (dSrow d ≤ row)) || (dTen d && dTmem d == mem && dTrow d == row)

/-- The refusals of R141 and R155 to R175 that one image gives alone, up to the data rows. -/
def Img.ok (m : Img) : Bool :=
  m.headOk && m.countsOk && m.slotsOk && (m.descs.take m.nDesc).all descOk &&
    (List.range m.progWords).all (fun a => m.wordOk a && m.loopOk a && m.skipOk a) &&
    m.rows.all fun r => decide (r.1 ≤ 2 ∧ r.2.1 < memRows r.1) && m.covered r.1 r.2.1

end Sys2Proof.Machine
end

