-- ==== Sys2Proof/Machine/Walk.lean ====
section
/-! DEFINITION. The loader's walk of a program (R162, R182 to R185, R205, R556): every cursor and pointer value a path can
give, and the bound on the cycle in which the slice ends. -/

namespace Sys2Proof.Machine

/-- Values on one path: pointers and cursors (none: dynamic), window configurations with their positions (none: not known
from the image). -/
structure WEnv where
  ptrs : List (Option Nat) := List.replicate 32 (some 0)
  curs : List (Option Nat) := []
  wins : List (Option (WinCfg × Nat)) := List.replicate 8 none
deriving DecidableEq, Repr

/-- Recorded times and counts by name; a merge of two paths takes the later of each. -/
abbrev WTime := KMap Nat

def WTime.at (t : WTime) (k : Nat) : Nat := KMap.get t k 0
def WTime.put (t : WTime) (k v : Nat) : WTime := KMap.set t k v 0
def WTime.late (t : WTime) (k v : Nat) : WTime := t.put k (max (t.at k) v)
def WTime.inc (t : WTime) (k n : Nat) : WTime := t.put k (t.at k + n)
def WTime.merge (a b : WTime) : WTime := b.foldl (fun a p => a.late p.1 p.2) a

/-! Names of the recorded times: the cycle in which the next instruction issues; ends of the last two tiles, and when the
next may follow a link drain; issue of the last tile of the last run and of the run before; completions of tiles, of VST
and MOVR, of those into the terrace store, of MOVR rows; curve-loads; the vector unit; tiles into the vector lanes; TILEW
runs and window fetches; releases; all completions; the counts of R185. -/
def wT : Nat := 0
def wE1 : Nat := 1
def wE2 : Nat := 2
def wL1 : Nat := 3
def wQ1 : Nat := 4
def wQ0 : Nat := 5
def wTiles : Nat := 6
def wVst : Nat := 7
def wTs : Nat := 8
def wMov : Nat := 9
def wCurve : Nat := 10
def wVec : Nat := 11
def wLanes : Nat := 12
def wTilew : Nat := 13
def wFetch : Nat := 14
def wRel : Nat := 15
def wDone : Nat := 16
def wRuns : Nat := 17
def wWaits : Nat := 18
def wNbrRuns : Nat := 19
/-- By register: bias named, bias ready, configuration named, ready, curve slot used, curve slot ready, vector register
ready, channel of descriptor not yet used, tiles that preload or run with flag set. -/
def wBias (b : Nat) : Nat := 20 + b
def wBiasRdy (b : Nat) : Nat := 22 + b
def wWin (c : Nat) : Nat := 24 + c
def wWinRdy (c : Nat) : Nat := 32 + c
def wSlot (k : Nat) : Nat := 40 + k
def wSlotRdy (k : Nat) : Nat := 44 + k
def wReg (v : Nat) : Nat := 48 + v
def wFresh (d : Nat) : Nat := 64 + d
def wLater : Nat := 72

/-! ## Costs -/

/-- Read latency, worst bank wait, cycles a row takes, and F of a descriptor's memory (tables of R182). -/
def dLat (d : List Nat) : Nat := if dMem d = 3 then 12 else if dSrc d = 1 ∨ dSrc d = 2 then 8 else 4
def dWait (d : List Nat) : Nat := if dMem d = 3 then 18 else 9
def dRow (d : List Nat) : Nat := if dMem d = 3 ∨ dSrc d = 1 ∨ dSrc d = 2 then 8 else 1
def dFirst (d : List Nat) : Nat := if dMem d = 3 then 18 else if dSrc d = 1 ∨ dSrc d = 2 then 10 else 6

/-- Allowance of a fetched row (R183). -/
def dAllow (d : List Nat) : Nat := if dMem d = 3 then 2 else if dSrc d = 1 ∨ dSrc d = 2 then 5 else 1

/-- Issue length S of a tile (R64, R66, R73, R78): K over the rate. -/
def issueLen (w : Nat) (af wf : Nat) (exp : Bool) : Nat :=
  let k := 32 * tKb w
  if af = 5 then 4 * k
  else
    let a4 := fmtBits af == 4
    let w4 := fmtBits wf == 4
    -- rates in quarters of an element per cycle
    let cell := if w4 then (if a4 then 16 else 8) else 4
    let feed := 256 * (if w4 then 2 else 1) / formN (tForm w)
    let r := min cell feed
    let r := if exp then min r (if w4 then 8 else 4) else r
    ceilDiv (4 * k) r

/-- Scale rows that a tile's port reads: groups from element position `p0`, in `sg` segments (R101, R102). -/
def scaleRows (p0 : Option Nat) (ng g sg : Nat) : Nat :=
  (match p0 with
    | some p => (p / g + ng - 1) / 7 + 1 - p / g / 7
    | none => (ng + 5) / 7 + 1) * sg

/-- Distinct (kernel line, buffer row) pairs that positions `pos` to `pos + 31` and channels `c0` to `c1 - 1` read: by
kernel line (R203, R204). -/
def winRows (c : WinCfg) (nb pos c0 c1 : Nat) : List Nat :=
  (List.range c.kh).map fun ky =>
    (((List.range 32).map fun i => (List.range c.kw).map fun kx =>
      let f (ch : Nat) := (c.tap nb (pos + i) (ky * c.kw + kx) ch).2
      match f c0, f (c1 - 1) with
      | some a, some b => (List.range (b.1 + 1 - a.1)).map (· + a.1)
      | _, _ => []).flatten.flatten.eraseDups).length

/-- Rows, rows for the worst kernel line, and kernel lines of a window fetch; unknown configurations take the worst. -/
def fetchRows (o : Option (WinCfg × Nat)) (nb : Nat) (off : Nat) (cq : Option Nat) : Nat × Nat × Nat :=
  match o with
  | none => (256, 0, 16)
  | some (c, pos) =>
    let c1 := match cq with
      | some q => min c.c (4 * q + 4)
      | none => c.c
    let c0 := match cq with
      | some q => 4 * q
      | none => 0
    if c1 ≤ c0 then (0, 0, c.kh)
    else
      let l := winRows c nb (pos + off) c0 c1
      (l.foldl (· + ·) 0, l.foldl max 0, c.kh)

/-! ## The walk -/

/-- The walk's place: program counter, open loops (start, END, iterations left), whether a dynamic loop has begun, the
values and times of the path, and the paths that join ahead. -/
structure Walk where
  pc : Nat := 0
  loops : List (Nat × Nat × Nat) := []
  dyn : Bool := false
  live : Bool := true
  envs : List WEnv := []
  tm : WTime := []
  joins : List (Nat × List WEnv × WTime) := []
deriving DecidableEq, Repr

/-- A cursor advanced by `n`; in or after a dynamic loop it becomes dynamic (R162). -/
def WEnv.adv (m : Img) (dyn : Bool) (e : WEnv) (d n : Nat) : WEnv :=
  { e with curs := e.curs.set d (if dyn then none else (e.curs.getD d none).map fun c => dOff (m.desc d) (c + n) % 65536) }

/-- A cursor on a path. -/
def WEnv.cur (e : WEnv) (d : Nat) : Option Nat := e.curs.getD d none
def WEnv.ptr (e : WEnv) (i : Nat) : Option Nat := e.ptrs.getD i none

/-- Offset of an R167 instruction. -/
def WEnv.off (e : WEnv) (w : Nat) : Option Nat :=
  match e.cur (bits w 52 3) with
  | none => none
  | some c => if bit w 51 then (e.ptr (bits w 46 5)).map (c + ·) else some c

/-- Whether `n` rows from an offset of a buffer are in bounds; a dynamic offset is checked at run time. -/
def rowsOk (d : List Nat) (o : Option Nat) (n : Nat) : Bool :=
  dWrap d || match o with
    | some o => decide (o + n ≤ dSize d)
    | none => true

/-- A run of a descriptor checked at every cursor value (R162). -/
def wRunOk (m : Img) (envs : List WEnv) (d t rows : Nat) : Bool :=
  envs.all fun e => rowsOk (m.desc d) (e.cur d) ((t - 1) * dAdv (m.desc d) + rows)

/-- The data row that a WCFG at a static offset names, if the image carries one. -/
def Img.rowAt (m : Img) (d : Nat) (o : Nat) : Option (List Byte) :=
  let dd := m.desc d
  let o := dOff dd o
  let row := if dMode dd then
      (let r := slRows (m.slot (dSlot0 dd)); slBase (m.slot (dSlot0 dd + (if r = 0 then 0 else o / r))) + (if r = 0 then 0 else o % r))
    else dBaseRow dd + o
  if dSrc dd = 1 ∨ dSrc dd = 2 ∨ dMem dd = 3 then none
  else (m.rows.find? fun r => r.1 == dMem dd && r.2.1 == row).map fun r => r.2.2

/-- Largest over the paths. -/
def worstOf (l : List Nat) : Nat := l.foldl max 0

/-- One tile of a run: the rows it fetches give its budgeted issue length and its issue cycle (R183, R184). -/
structure TileCost where
  sb : Nat
  q : Nat
  d : Nat
  ld : Nat
  first : Nat

/-- The cost of tile `t` of a run on one path. -/
def Img.tileCost (m : Img) (w : Nat) (t : Nat) (fresh : Bool) (e : WEnv) : TileCost :=
  let win := opOf w == 2
  let ad := m.desc (tAd w)
  let wd := m.desc (tWd w)
  let f := tForm w
  let k := 32 * tKb w
  let nA := if win then 0 else tileRows (formM f) k (dBits ad)
  let nW := tileRows (formN f) k (dBits wd)
  let fr := if win then fetchRows (e.wins.getD (tPd w) none) (fmtBits (dFmt ad)) (32 * t) none else (0, 0, 0)
  let exp := dSrc wd == 3
  let g := grpSize (tGrp w)
  let pos (d : Nat) (lanes : Nat) : Option Nat :=
    (e.cur d).map fun c => dOff (m.desc d) (c + t * dAdv (m.desc d)) * 4096 / (lanes * dBits (m.desc d))
  let sc := if tGrp w = 0 then 0 else scaleRows (pos (tWd w) (formN f)) (k / g) g (2 ^ f) +
    (if tAsc w then scaleRows (pos (tAd w) (formM f)) (k / g) g 1 else 0)
  let nF := if win then fr.1 else nA
  let a := nF * dAllow ad + nW * dAllow wd + sc
  let lnk (s : Nat) : Nat := (if dMem ad ≠ 3 ∧ dSrc ad = s then nF else 0) + (if dMem wd ≠ 3 ∧ dSrc wd = s then nW else 0)
  let ts := (if dMem ad = 3 then nF else 0) + (if dMem wd = 3 then nW else 0)
  let x := max (max (lnk 1) (lnk 2)) ts
  let reg := if exp then ceilDiv k 128 * 2 ^ f else 0
  let s := issueLen w (dFmt ad) (dFmt wd) exp
  let sb := max (max s (96 * reg)) (max (8 * x) (if win then fr.1 + 2 * fr.2.2 else 0)) + a
  let dst := tDst w
  let q := if dst = 3 then 0 else oRows w
  { sb := sb, q := if dst = 2 then q else 0, d := 9 * q
    ld := if dst = 0 then 5 else if dst = 1 then 8 else if dst = 2 then 12 else 6
    first := max (dFirst ad) (dFirst wd) + (if tTw w ∨ tTa w then 4 else 0) + (if win then 4 else 0) +
      (if exp ∧ fresh then 192 else 0) }

/-- The tiles of a run, from tile `t` on: issue cycles and completions under R184. -/
def Img.runTiles (m : Img) (w c : Nat) (envs : List WEnv) : Nat → Nat → WTime → WTime
  | _, 0, tm => tm
  | t, n + 1, tm =>
    let fresh := tm.at (wFresh (tWd w)) != 0
    let cs := envs.map (m.tileCost w t (fresh && t == 0))
    let sb := worstOf (cs.map TileCost.sb)
    let hd := cs.head?
    let q := (hd.map TileCost.q).getD 0
    let d := (hd.map TileCost.d).getD 0
    let ld := (hd.map TileCost.ld).getD 0
    let first := worstOf (cs.map TileCost.first)
    let win := opOf w == 2
    let rdy := if win then tm.at (wWinRdy (tPd w)) else 0
    let rdy := if tPre w = 1 then max rdy (tm.at (wBiasRdy (tBsel w))) else rdy
    let a := if t = 0 then max c (tm.at wE1 - 1) + first else 0
    let gap := if !win && tPre w == 2 then 69 else 37
    let i := [a, if tm.at wE1 = 0 then 0 else tm.at wE1 + 1, if tm.at wE2 = 0 then 0 else tm.at wE2 + gap, tm.at wL1,
      if rdy = 0 then 0 else rdy + 2].foldl max 0
    let done := i + sb + 66 + ld + d
    let done := if (tDst w = 1 ∨ tDst w = 2) ∧ tCurve w < 4 ∧ tm.at (wSlotRdy (tCurve w)) ≠ 0 then
      max done (tm.at (wSlotRdy (tCurve w)) + 32 + ld + d) else done
    let tm := ((tm.put wE2 (tm.at wE1)).put wE1 (i + sb)).put wL1 (i + 8 * q)
    let tm := (tm.put wLater i).late wTiles done |>.late wDone done
    let tm := if tPre w = 1 then tm.late (wBias (tBsel w)) i else tm
    let tm := if win then tm.late (wWin (tPd w)) i |>.late wTilew i else tm
    let tm := if (tDst w = 1 ∨ tDst w = 2) ∧ tCurve w < 4 then tm.late (wSlot (tCurve w)) done else tm
    let tm := if tDst w = 3 then (List.range 8).foldl (fun tm r => tm.late (wReg (8 + r)) done) (tm.late wLanes done) else tm
    let tm := if tRela w ∨ tRelw w then tm.late wRel done else tm
    m.runTiles w c envs (t + 1) n tm

/-- Rows of each descriptor of a run in bounds; a window run against its configuration (R162, R201, R204). -/
def Img.wTileOk (m : Img) (w : Nat) (envs : List WEnv) : Bool :=
  let win := opOf w == 2
  let f := tForm w
  let k := 32 * tKb w
  (win || wRunOk m envs (tAd w) (tT w) (tileRows (formM f) k (dBits (m.desc (tAd w))))) &&
    wRunOk m envs (tWd w) (tT w) (tileRows (formN f) k (dBits (m.desc (tWd w)))) &&
    (tDst w == 3 || wRunOk m envs (tOd w) (tT w) (oRows w)) &&
    (win || tPre w != 2 || wRunOk m envs (tPd w) (tT w) 8) &&
    (!win || envs.all fun e => match e.wins.getD (tPd w) none with
      | none => true
      | some (c, pos) =>
        let unit := if tGrp w = 0 then 32 else max 32 (grpSize (tGrp w))
        tAd w == c.lbd && k == ceilDiv (c.kh * c.kw * c.cp) unit * unit &&
        (List.range (tT w)).all fun t =>
          decide ((fetchRows (some (c, pos)) (fmtBits (dFmt (m.desc (tAd w)))) (32 * t) none).2.1 ≤ 16))

/-- Paths after a run issued: cursors and window positions advanced. -/
def Img.wTileAdv (m : Img) (dyn : Bool) (w : Nat) (e : WEnv) : WEnv :=
  let win := opOf w == 2
  let e := (tileDescs win w).foldl (fun e d => e.adv m dyn d (tT w * dAdv (m.desc d))) e
  if win then { e with wins := e.wins.set (tPd w) ((e.wins.getD (tPd w) none).map fun x => (x.1, x.2 + 32 * tT w)) } else e

/-- Vector registers a VEC reads, and writes. -/
def vecRegs (w : Nat) : List Nat × List Nat :=
  let f := bits w 50 8
  let vd := bits w 46 4
  let va := bits w 42 4
  let vb := bits w 38 4
  let vc := bits w 34 4
  match vecUses f with
  | some (_, a, b, c, _) => ((if a then [va] else []) ++ (if b then [vb] else []) ++ (if c then [vc] else []), [vd])
  | none =>
    if f = 0x38 then ([vb, vc], [vd]) else if f = 0x39 then ([], [vd]) else if f = 0x3A then ([vc], [vd])
    else if f = 0x40 then ([va, vb, vc], [vd])
    else if f = 0x41 then ((List.range (bits w 32 2 + 1)).map (va + ·) ++ [vb, vc], [vd])
    else ([va] ++ (if bit w 23 then [] else [vd, vc]), [vd, vc])

/-- Occupancy and latency of a VEC (R197); `nw`, `kk`: rows and taps of a window function with their allowance. -/
def vecCost (w kk nw allow : Nat) : Nat × Nat :=
  let f := bits w 50 8
  if f ≤ 0x0E ∨ f = 0x20 then (1, 4)
  else if f ≤ 0x18 then (if bits w 32 2 = 1 then (8, 20) else (4, 16))
  else if f = 0x28 then (2, 10)
  else if f = 0x30 then (128, 132)
  else if f = 0x38 ∨ f = 0x39 then (let o := max (kk + 4) nw + allow; (o, o + 8))
  else if f = 0x3A then (160 + allow, 168 + allow)
  else if f = 0x40 then (8, 24)
  else if f = 0x41 then
    (let o := 64 * (bits w 32 2 + 1) + 8 * (if bits w 0 8 = 0 then 128 else bits w 0 8); (o, o + 4))
  else (160, 164)

/-- The end of a loop body at `pc`: the next place, and the open loops. -/
def wNext (pc : Nat) : List (Nat × Nat × Nat) → Nat × List (Nat × Nat × Nat)
  | [] => (pc + 1, [])
  | (s, e, n) :: l => if pc ≠ e then (pc + 1, (s, e, n) :: l) else if 1 < n then (s + 1, (s, e, n - 1) :: l) else wNext pc l

/-- The walk goes on from instruction `pc` at the next cycle. -/
def Walk.go (k : Walk) (t : Nat) : Walk :=
  let r := wNext k.pc k.loops
  { k with pc := r.1, loops := r.2, tm := k.tm.put wT (t + 1) }

/-- An R167 row in bounds on every path, then the cursors advanced by `n`. -/
def Img.wRow (m : Img) (w n : Nat) (k : Walk) : Option Walk :=
  let d := bits w 52 3
  if ¬ k.envs.all fun e => rowsOk (m.desc d) (e.off w) n then none
  else some (if bit w 45 ∧ opOf w ≠ 0x12 then { k with envs := (k.envs.map fun e => e.adv m k.dyn d n).eraseDups } else k)

/-- Cycles until a REL or SETP has reached its slot: at issue for an own slot, the credit-return bound of R123 for a
neighbour's (R176, R182). -/
def sigLat (w : Nat) : Nat := if bits w 56 2 = 0 then 0 else 12

/-- What a window function costs on one path: taps, rows with the terrace-store port's rate, allowance, rows of the worst
kernel line (R183, R197, R205). A configuration that the image does not give takes the worst that VDW (32 taps), VPOOL (256
taps) or VCROP (4 samples for each of 32 positions) allow, from the slowest of the line buffers it can name. -/
def Img.winCost (m : Img) (w : Nat) (x : Option (WinCfg × Nat)) : Nat × Nat × Nat × Nat :=
  let f := bits w 50 8
  let lbs := match x with
    | some y => [m.desc (y.1.lbd % 8)]
    | none => (m.lineBufs (bits w 31 3)).map m.desc
  let ts := lbs.any fun d => dMem d == 3
  let allow := if ts then 2 else 1
  if f = 0x3A then (0, 0, 128 * allow, 0)
  else
    let q := fetchRows x (fmtBits (dFmt (lbs.headD []))) 0 (some (bits w 26 5))
    let kk := match x with
      | some y => y.1.kh * y.1.kw
      | none => if f = 0x38 then 32 else 256
    (kk, if ts then 8 * q.1 else q.1, q.1 * allow, q.2.1)

/-- One instruction of the walk; none refuses the image with BAD_DESCRIPTOR. -/
def Img.wInsn (m : Img) (k : Walk) : Option Walk :=
  let w := m.prog.getD k.pc 0
  let op := opOf w
  let c := k.tm.at wT
  let d := m.desc (bits w 52 3)
  if op = 0x01 ∨ op = 0x02 then
    if ¬ m.wTileOk w k.envs then none
    else
      let win := op == 2
      let c := max c (k.tm.at wQ0)
      let c := if win then max c (k.tm.at wFetch) else c
      let tm := m.runTiles w c k.envs 0 (tT w) k.tm
      let tm := (tm.put wQ0 (k.tm.at wQ1)).put wQ1 (tm.at wLater)
      let tm := tm.put (wFresh (tWd w)) 0
      let nb (d : List Nat) : Bool := dMem d != 3 && (dSrc d == 1 || dSrc d == 2)
      let slots := nb (m.desc (tAd w)) || nb (m.desc (tWd w)) || tDst w == 2
      let tm := tm.inc wRuns 1 |>.inc wWaits (b2n slots) |>.inc wNbrRuns (b2n slots)
      some ({ k with tm := tm, envs := (k.envs.map (m.wTileAdv k.dyn w)).eraseDups }.go c)
  else if op = 0x03 then
    (m.wRow w 1 k).map fun k =>
      let b := bits w 55 1
      let c := max c (k.tm.at (wBias b))
      let r := c + dWait d + 4
      ({ k with tm := k.tm.put (wBiasRdy b) r |>.late wDone r }).go c
  else if op = 0x04 then
    (m.wRow w 9 k).map fun k =>
      let s := bits w 55 2
      let c := max c (k.tm.at wCurve)
      let e := max c (k.tm.at (wSlot s)) + 95
      ({ k with tm := k.tm.put (wSlotRdy s) e |>.late wCurve e |>.late wDone e }).go c
  else if op = 0x05 then
    let x := bits w 55 3
    let cfg (e : WEnv) : Option (Option (WinCfg × Nat)) := match e.off w with
      | none => some none
      | some o => match m.rowAt (bits w 52 3) o with
        | none => some none
        | some r =>
          let f := WinCfg.ofRow r
          if (f.invalid (m.desc (f.lbd % 8)) m.nDesc).isSome then none else some (some (f, f.opos))
    if k.envs.any fun e => (cfg e).isNone then none
    else
      let k := { k with envs := k.envs.map fun e => { e with wins := e.wins.set x ((cfg e).getD none) } }
      (m.wRow w 1 k).map fun k =>
        let c := max c (k.tm.at (wWin x))
        let r := c + dWait d + 4
        ({ k with tm := k.tm.put (wWinRdy x) r |>.late wDone r }).go c
  else if op = 0x08 then
    let side := bits w 56 2
    let s := m.slot (bits w 50 6)
    let own := if side ≠ 0 then 0
      else if bit w 49 then (if slProducer s = 0 then max (k.tm.at wTiles) (k.tm.at wVst) else 0)
      else if bit (slRdset s) 0 then k.tm.at wRel else 0
    some ({ k with tm := k.tm.inc wWaits (b2n (side != 0)) }.go (max c own))
  else if op = 0x09 then some ({ k with tm := (k.tm.late wRel c).late wDone (c + sigLat w) }.go c)
  else if op = 0x0A then
    let c := max c (k.tm.at wVst)
    some ({ k with tm := k.tm.late wDone (c + sigLat w) }.go c)
  else if op = 0x0B then
    let c := if bit w 57 then max c (k.tm.at wTiles) else c
    let c := if bit w 56 then max c (k.tm.at wVst) else c
    some (k.go (if bit w 55 then max c (k.tm.at wTs) else c))
  else if op = 0x10 then
    let n := bits w 0 16
    let k := { k with dyn := k.dyn || bit w 55 }
    if n = 0 then
      let r := wNext (bits w 32 13) k.loops
      some { k with pc := r.1, loops := r.2, tm := k.tm.put wT (c + 1) }
    else some { k with pc := k.pc + 1, loops := (k.pc, bits w 32 13, n) :: k.loops, tm := k.tm.put wT (c + 1) }
  else if op = 0x11 then
    let tm := k.tm.put wT (c + 1)
    let r := wNext k.pc k.loops
    some { k with pc := r.1, loops := r.2, tm := tm, joins := (k.pc + 1 + bits w 32 8, k.envs, tm) :: k.joins }
  else if op = 0x12 then
    let f := bits w 55 3
    let pd := bits w 40 5
    let src (e : WEnv) := e.ptr (bits w 46 5)
    let setp (e : WEnv) (v : Option Nat) : WEnv := { e with ptrs := e.ptrs.set pd v }
    if f = 3 then
      (m.wRow w 1 k).map fun k => { k with envs := (k.envs.map fun e => setp e none).eraseDups }.go (c + dWait d + dLat d)
    else
      let v (e : WEnv) : Option Nat := if f = 0 then some (bits w 0 16)
        else if f = 1 then (src e).map fun p => (p + bits w 0 16) % 65536
        else (src e).map fun p => (p + bits w 0 8) % (bits w 8 8 + 1)
      some ({ k with envs := (k.envs.map fun e => setp e (v e)).eraseDups }.go c)
  else if op = 0x13 then
    let f := bits w 55 3
    let x := bits w 52 3
    let setc (e : WEnv) (v : Option Nat) : WEnv := { e with curs := e.curs.set x v }
    let g (e : WEnv) : WEnv := if f = 0 then setc e (some (bits w 0 16))
      else if f = 1 then setc e ((e.cur x).bind fun _ => e.ptr (bits w 46 5))
      else if f = 2 then e.adv m k.dyn x (bits w 0 16)
      else if f = 3 then setc e (some (dCursor (m.desc x))) else e
    some ({ k with envs := (k.envs.map g).eraseDups }.go c)
  else if op = 0x14 then
    let xs := bits w 55 3
    let xd := bits w 52 3
    let n := bits w 44 8
    let ds := m.desc xs
    let dd := m.desc xd
    if ¬ k.envs.all fun e => rowsOk ds (e.cur xs) n && rowsOk dd (e.cur xd) n then none
    else
      let c := max c (k.tm.at wMov)
      let e := c + dLat ds + n * (max (dRow ds) (dRow dd) + dWait ds + dWait dd)
      let tm := (k.tm.late wMov e).late wVst e |>.late wDone e
      let tm := if dMem dd = 3 then tm.late wTs e else tm
      let tm := if bit w 42 then tm.late wRel e else tm
      some ({ k with tm := tm, envs := (k.envs.map fun (v : WEnv) => (v.adv m k.dyn xs n).adv m k.dyn xd n).eraseDups }.go c)
  else if op = 0x18 then
    (m.wRow w 1 k).map fun k =>
      let v := bits w 41 4
      let c := max c (max (k.tm.at wMov) (if 8 ≤ v then k.tm.at wLanes else 0))
      let e := c + dLat d + dRow d + dWait d
      ({ k with tm := k.tm.late (wReg v) e |>.late wDone e }).go c
  else if op = 0x19 then
    (m.wRow w 1 k).map fun k =>
      let v := bits w 41 4
      let c := max c (max (k.tm.at wMov) (k.tm.at (wReg v)))
      let e := c + dRow d + dWait d
      let tm := k.tm.late wVst e |>.late wDone e
      ({ k with tm := if dMem d = 3 then tm.late wTs e else tm }).go c
  else if op = 0x1A then
    let f := bits w 50 8
    let win := f == 0x38 || f == 0x39 || f == 0x3A
    let r := vecRegs w
    let c := (r.1 ++ r.2.filter (8 ≤ ·)).foldl (fun c v => max c (if v ∈ r.1 then k.tm.at (wReg v) else k.tm.at wLanes)) (max c (k.tm.at wVec))
    let c := if win then max c (k.tm.at wTilew) else c
    let wc := bits w 31 3
    let fr := k.envs.map fun e => m.winCost w (e.wins.getD wc none)
    if win ∧ ¬ (fr.all fun x => decide (x.2.2.2 ≤ 16 ∧ (f ≠ 0x38 ∨ x.1 ≤ 32))) then none
    else
      let allow := worstOf (fr.map fun x => x.2.2.1)
      let o := vecCost w (worstOf (fr.map fun x => x.1)) (worstOf (fr.map fun x => x.2.1)) (if win then allow else 0)
      let tm := k.tm.put wVec (c + o.1)
      let tm := r.2.foldl (fun tm v => tm.late (wReg v) (c + o.2)) (tm.late wDone (c + o.2))
      let tm := if win then tm.late wFetch (c + o.1) else tm
      let envs := if (f = 0x38 ∨ f = 0x39) ∧ bit w 0 then
        k.envs.map fun e => { e with wins := e.wins.set wc ((e.wins.getD wc none).map fun x => (x.1, x.2 + 32)) } else k.envs
      some ({ k with tm := tm, envs := envs.eraseDups }.go c)
  else some (k.go c)

/-- Paths that join at the present instruction. -/
def Walk.join (k : Walk) : Walk :=
  let here := k.joins.filter fun j => j.1 == k.pc
  let rest := k.joins.filter fun j => j.1 != k.pc
  if here.isEmpty then k
  else
    let start : Walk := if k.live then k else { k with envs := [], tm := [] }
    let k' := here.foldl (fun (k : Walk) j => { k with envs := (k.envs ++ j.2.1).eraseDups, tm := WTime.merge k.tm j.2.2 }) start
    { k' with joins := rest, live := true }

/-- The whole walk, on fuel that no program exceeds: the recorded times at the end; none refuses the image. -/
def Img.walkFrom (m : Img) : Nat → Walk → WTime → Option WTime
  | 0, _, _ => none
  | f + 1, k, fin =>
    if ¬ k.live ∧ k.joins.isEmpty then some fin
    else
      let k := if k.live then k else { k with pc := (k.joins.map fun j => j.1).foldl min m.progWords }
      let k := k.join
      if m.progWords ≤ k.pc then none
      else if opOf (m.prog.getD k.pc 0) = 0x3F then
        m.walkFrom f { k with live := false } (WTime.merge fin (k.tm.put wT (k.tm.at wT + 1)))
      else match m.wInsn k with
        | none => none
        | some k => m.walkFrom f k fin

def Img.walk (m : Img) : Option WTime :=
  let fresh := (List.range 8).foldl (fun tm d => WTime.put tm (wFresh d) 1) []
  let e : WEnv := { curs := m.descs.map fun d => some (dCursor d) }
  m.walkFrom (2 ^ 80) { envs := [e], tm := fresh } []

/-- L_bound, E and N of an image (R184, R185). -/
def Img.bound (m : Img) : Option (Nat × Nat × Nat) :=
  m.walk.map fun tm => (max (tm.at wT) (tm.at wDone) + 1, 2 * tm.at wRuns + tm.at wWaits, tm.at wNbrRuns + tm.at wWaits)

end Sys2Proof.Machine
end

