-- ==== Sys2Proof/Machine/Place.lean ====
section
/-! DEFINITION. Placement of program sets (chapters 6, 11, 12, 18 and 19): the parameter block of PLACE, the checks of a set,
its stations, its pins and promotion; REMOVE. -/

namespace Sys2Proof.Machine

/-! ## The parameter block (R466) -/

/-- Bytes of the fields of each record type. -/
def recSize (t : Nat) : Option Nat :=
  [(1, 8), (2, 12), (3, 44), (4, 48), (5, 28), (6, 16), (7, 32), (8, 36), (9, 40)].lookup t

/-- The records of a parameter block, on fuel; none for a block that breaks R466. -/
def parseRecs : Nat → List Byte → Option (List (Nat × List Byte))
  | _, [] => some []
  | 0, _ => none
  | f + 1, b =>
    let t := leAt b 0 2
    let n := leAt b 2 2
    if recSize t ≠ some (n - 4) ∨ n < 4 ∨ b.length < n then none
    else (parseRecs f (b.drop n)).map fun l => (t, slice b 4 (n - 4)) :: l

def ofType (t : Nat) (l : List (Nat × List Byte)) : List (List Byte) := (l.filter fun r => r.1 == t).map fun r => r.2

/-- The token set parameters (R241). -/
def TokPar.of (b : List Byte) : TokPar :=
  { ph := leAt b 0 1, ts := leAt b 1 1, nbsD := leAt b 2 1, pmin := leAt b 3 1, nbsP := leAt b 4 2, ae := leAt b 6 1
    kvfmt := leAt b 7 1, attGo := leAt b 8 4, pattCyc := leAt b 12 4, pattBytes := leAt b 16 4, tracks := leAt b 20 2
    g := leAt b 22 1, ktop := leAt b 23 1, e := leAt b 24 2, plist := leAt b 26 2, expBytes := leAt b 28 4
    maxlenCap := leAt b 32 4, vocab := leAt b 36 4, lrow := leAt b 40 2, lstride := leAt b 42 2, lcount := leAt b 44 2 }

def TokPar.ok (p : TokPar) (B : Nat) : Bool :=
  within 1 64 p.ph && within 2 16 p.ts && within 1 64 p.nbsD && within 1 4096 p.nbsP && within 1 (p.ts - 1) p.pmin &&
    within 1 15 p.ae && decide (p.attGo ≤ B ∧ p.pattCyc ≤ B ∧ p.kvfmt ≤ 1) && within 1 4096 p.tracks && within 1 8 p.g &&
    within 1 262144 p.maxlenCap && decide (p.e ≤ 256) && within 1 8 p.ktop && within 1 1048576 p.vocab &&
    decide (p.lrow ≤ 4095 ∧ p.plist ≤ 4095) && within 4 4096 p.lstride && within 1 1024 p.lcount

/-- A layer binding before its station is placed: station name, fields (R287). -/
structure BindRec where
  name : List Byte
  desc : Nat
  mode : Nat
  layer : Nat
  model : Nat
  slot0 : Nat
  nreg : Nat
  tidx : Nat
  tn : Nat
  sring : Nat
deriving DecidableEq, Repr

def BindRec.of (b : List Byte) : BindRec :=
  ⟨slice b 0 24, leAt b 24 1, leAt b 25 1, leAt b 26 2, leAt b 28 4, leAt b 32 4, leAt b 36 4, leAt b 40 1, leAt b 41 1, leAt b 42 1⟩

def Param.of (b : List Byte) : Param :=
  { j := leAt b 0 1, typ := leAt b 1 1, rwp := leAt b 2 1 == 3, offset := leAt b 4 2, dflt := slice b 8 8, value := slice b 8 8 }

/-- Bytes of a scalar type (R431). -/
def typeSize (t : Nat) : Nat :=
  if t = 1 ∨ t = 2 ∨ t = 6 then 1 else if t = 3 ∨ t = 7 then 2 else if t = 4 ∨ t = 8 ∨ t = 10 then 4
  else if t = 5 ∨ t = 9 ∨ t = 11 then 8 else 0

/-- The parameter directory (R442): names, types, places apart and within the block of at most 8 rows. -/
def paramsOk (l : List (List Byte)) : Bool :=
  let ps := l.map Param.of
  l.all (fun b => leAt b 2 1 == 1 || leAt b 2 1 == 3) &&
    ps.all (fun p => within 1 127 p.j && within 1 11 p.typ && decide (p.offset % typeSize p.typ = 0) &&
      decide (p.offset + typeSize p.typ ≤ 4096) &&
      (ps.filter fun q => q.j == p.j || decide (q.offset < p.offset + typeSize p.typ ∧ p.offset < q.offset + typeSize q.typ)).length == 1)

/-- Rows of the parameter block (R466). -/
def paramRows (l : List Param) : Nat := ceilDiv (l.foldl (fun a p => max a (p.offset + typeSize p.typ)) 0) 512

/-! ## The set as a whole -/

/-- A set's images under check. -/
abbrev Imgs := List Img

/-- Whether image `i` is joined to the one before it: its PREV, or the other's NEXT, names the other. -/
def linked (l : Imgs) (i : Nat) : Bool :=
  match l[i]?, (if i = 0 then none else l[i - 1]?) with
  | some m, some q => (!allZero m.prev && !isWindow m.prev) || (!allZero q.next && !isWindow q.next)
  | _, _ => false

/-- PREV and NEXT name the stations before and after in stream order. -/
def namesOk (l : Imgs) : Bool :=
  (List.range l.length).all fun i => match l[i]? with
    | none => false
    | some m =>
      (allZero m.prev || isWindow m.prev || (i != 0 && ((l[i - 1]?).map Img.name) == some m.prev)) &&
      (allZero m.next || isWindow m.next || ((l[i + 1]?).map Img.name) == some m.next) &&
      (l.filter fun q => q.name == m.name).length == 1

/-- The slot table of the neighbour of image `i` on a side. -/
def nbrTable (l : Imgs) (i side : Nat) : Option (Nat → Nat) :=
  if side = 1 then (if i ≠ 0 ∧ linked l i then (l[i - 1]?).map fun m => m.slot else none)
  else (if linked l (i + 1) then (l[i + 1]?).map fun m => m.slot else none)

/-- The station that produces a slot of image `o`. -/
def producerOf (l : Imgs) (o w : Nat) : Option Nat :=
  let p := slProducer w
  if p = 0 then some o else if p = 1 then (if o ≠ 0 ∧ linked l o then some (o - 1) else none)
  else if p = 2 then (if linked l (o + 1) then some (o + 1) else none) else none

/-- Terrace flags that an image sets, and waits for. -/
def Img.flags (m : Img) (set : Bool) : List Nat :=
  m.prog.toList.filterMap fun w =>
    if set then (if opOf w = 0x0B ∧ bit w 54 then some (bits w 48 5) else none)
    else if opOf w = 0x0C then some (bits w 48 5) else none

/-- The stations that image `i` depends on (R186); `terr`: the terrace of each. -/
def dependsOn (l : Imgs) (terr : Nat → Nat) (i : Nat) : List Nat :=
  match l[i]? with
  | none => []
  | some m =>
    let rd := m.accesses.filterMap fun x =>
      if x.2.2 then none
      else
        let o := if x.1 = 0 then some i else if x.1 = 1 then (if i ≠ 0 ∧ linked l i then some (i - 1) else none)
          else (if linked l (i + 1) then some (i + 1) else none)
        o.bind fun o => (l[o]?).bind fun q =>
          let w := q.slot x.2.1
          if slInit w = 1 ∨ slKind w = 2 then none
          else (producerOf l o w).bind fun s => if s = i then none else some s
    let fl := (List.range l.length).filter fun j => j != i && terr j == terr i && match l[j]? with
      | some q => m.flags false |>.any fun k => (q.flags true).contains k
      | none => false
    (rd ++ fl).eraseDups

/-- F of a station, on fuel; none for a cycle (R186). -/
def finishAt (l : Imgs) (terr : Nat → Nat) : Nat → Nat → Option Nat
  | 0, _ => none
  | f + 1, i =>
    match l[i]? with
    | none => some 0
    | some m => (dependsOn l terr i).foldl (fun a j => match a, finishAt l terr f j with
      | some x, some y => some (max x (m.l + y))
      | _, _ => none) (some m.l)

/-- Stations that depend on `i`, directly or through others, on fuel. -/
def dependents (l : Imgs) (terr : Nat → Nat) (i : Nat) : Nat → List Nat
  | 0 => []
  | f + 1 =>
    let d := dependents l terr i f
    ((List.range l.length).filter fun j => (dependsOn l terr j).any fun k => k == i || d.contains k)

/-- The checks of R186 over a placed set: the status that refuses it. -/
def chainBad (l : Imgs) (terr : Nat → Nat) (B : Nat) : Option Nat :=
  let n := l.length
  let F := (List.range n).map fun i => finishAt l terr (n + 1) i
  if F.any Option.isNone then some stBadDescriptor
  else
    let f (i : Nat) : Nat := ((F[i]?).getD none).getD 0
    if (List.range n).any fun i => decide (B < f i) || (dependents l terr i n).any fun j => match l[i]? with
      | some m => decide (m.w < f j - f i)
      | none => false
    then some stRefusedTime else none

/-- The time figures of an image (R48, R141, R145, R185). -/
def Img.timeBad (m : Img) (B : Nat) : Option Nat :=
  match m.bound with
  | none => some stBadDescriptor
  | some (lb, e, n) =>
    if m.e < e ∨ m.n < n then some stBadDescriptor
    else if B < m.l ∨ m.lReplay < m.l ∨ m.l < lb then some stRefusedTime
    else if m.lReplay < m.l + 8 * m.e ∨ m.lTaken < m.l + 16 * m.n ∨ B < m.lTaken then some stRefusedTime
    else none

/-- The settings that an image was compiled for, with the slack in force. -/
def State.imgCfg (s : State) (m : Img) : TideCfg :=
  ⟨bits m.period 16 2, bits m.period 20 2, s.rg TIDE_ACTIVE_SLACK, bits m.period 0 13, 0⟩

/-- Whether PERIOD of a set is that of settings `c` (R144). -/
def TideCfg.isPeriod (c : TideCfg) (period : Nat) : Bool :=
  bits period 0 13 == c.period && (bits period 16 2 == 0) == (c.src == 0) && (c.src == 0 || bits period 20 2 == c.rate)

/-- The period, source and, where it counts, rate of a PERIOD word: two sets with one such value are for the same tides (R144). -/
def periodKey (period : Nat) : Nat × Bool × Nat :=
  let free := bits period 16 2 == 0
  (bits period 0 13, free, if free then 0 else bits period 20 2)

/-- Whether a set's PERIOD is that of the settings in force. -/
def State.periodNow (s : State) (period : Nat) : Bool := s.active.isPeriod period

/-! ## Ports (R380, R394, R398, R414) -/

/-- Slot `k` of an image as one of a HELD pair of a producer, with the rows wanted. -/
def heldPair (m : Img) (k producer rows : Nat) : Bool :=
  decide (k % 2 = 0 ∧ k + 1 < 64) && [k, k + 1].all fun k =>
    let w := m.slot k
    slEn w && slKind w == 2 && slProducer w == producer && slRows w == rows

/-- HELD pairs that hold `rows` rows from entry `k`. -/
def heldRun (m : Img) (k producer rows : Nat) : Bool :=
  (List.range (ceilDiv rows 8)).all fun i => heldPair m (k + 2 * i) producer (min 8 (rows - 8 * i))

/-- The two sets of output slots that hold `rows` rows each from entry `k` (R398). -/
def outRun (m : Img) (k rows : Nat) : Bool :=
  let np := ceilDiv rows 8
  (List.range (2 * np)).all fun i =>
    let w := m.slot (k + i)
    decide (k + i < 64) && slEn w && slKind w == 0 && slMem w == 1 && slReaders w == 1 && slInit w == 0 && !bit w 23 &&
      slProducer w == 0 && slRows w == min 8 (rows - 8 * (i % np))

/-- Rows of an audio binding with NCH minus one in the low bits, for a tide of `n` samples (R394). -/
def audRows (n word : Nat) : Nat := ceilDiv n 32 * ceilDiv (bits word 0 5 + 1) 4


/-- An AUDIO record against its station's image. -/
def audOk (c : TideCfg) (b : List Byte) (m : Img) : Bool :=
  let w := leAt b 4 4
  let rows := audRows c.samples w
  decide (leAt b 0 1 ≤ 1 ∧ leAt b 1 1 < 8 ∧ bits w 22 9 = 0) &&
    (if leAt b 0 1 = 0 then decide (leAt b 2 1 < 4) && heldRun m (bits w 16 6) 4 rows &&
        (bits w 10 6 == 63 || heldPair m (bits w 10 6) 4 1)
      else decide (leAt b 2 1 < 2) && outRun m (bits w 16 6) rows)

/-- Rows per line of a context's tensor, and lines (R375). -/
def State.visLine (s : State) (c : Nat) : Nat :=
  let ow := s.rg (VIN_CTX_MOUT_MOW c)
  let oc := if s.on (VIN_CTX_MOUT_OC3 c) then 3 else 1
  ceilDiv (ow * oc * fmtBits (s.rg (VIN_CTX_MOUT_OFMT c))) 4096
def State.visRows (s : State) (c : Nat) : Nat := s.rg (VIN_CTX_MOUT_MOH c) * s.visLine c

/-- A VISION record against its station's image and terrace. -/
def State.visOk (s : State) (b : List Byte) (m : Img) (t : Nat) : Bool :=
  let c := leAt b 0 1
  let d := leAt b 4 4
  let mode := bits d 30 2
  decide (c < 4 ∧ (mode = 1 ∨ mode = 2) ∧ bits d 21 9 = 0) && heldPair m (bits d 14 6) 4 1 &&
    (if mode = 1 then (decide (8 < s.visRows c) || heldPair m (bits d 8 6) 4 (s.visRows c)) && decide (s.visRows c ≤ 8)
      else decide (leAt b 8 2 + 3 * s.visRows c ≤ s.tsRegion t))

/-- Ring index of the neighbour on port A (false) or B: the member whose beacon arrives there with HOPS 0 (R408). -/
def State.ringNbr (s : State) (up : Bool) : Option Nat :=
  (s.ring.claims.find? fun c => (if up then c.b else c.a).map (fun h => h.1) == some 0).map fun c => c.idx

/-- A WINDOW record against its station's image and terrace (R414). -/
def State.winOk (s : State) (b : List Byte) (m : Img) (t : Nat) : Bool :=
  let ctl := leAt b 4 4
  let loc := leAt b 8 4
  let send := bit ctl 30
  let ts := bit ctl 28
  let nfr := bits ctl 0 10
  let rows := 2 * nfr
  let no := leAt b 0 1
  let name : List Byte := 0x23#8 :: (Nat.toDigits 10 no).map fun c => BitVec.ofNat 8 c.toNat
  let isNext := m.next.takeWhile (· != 0#8) == name
  let peerOk := s.on RING_CTRL_MODE || !send || s.ringNbr isNext == some (bits ctl 16 4)
  decide (no < 64 ∧ 1 ≤ nfr ∧ nfr ≤ 512 ∧ bits loc 23 9 = 0) && peerOk &&
    (if ts then decide (leAt b 12 2 + 2 * rows ≤ s.tsRegion t) && heldPair m (bits loc 11 6) 5 1
      else decide (nfr ≤ 64) && (if send then outRun m (bits loc 17 6) rows else heldRun m (bits loc 17 6) 5 rows))

/-! ## Layer bindings (R287, R317) -/

/-- A binding against its layer and its station's descriptor (R283, R287): a BF16 layer is bound only as RESIDENT. -/
def bindOk (cls ph : Nat) (b : BindRec) (m : Img) (l : Layer) : Bool :=
  let d := m.desc b.desc
  let sg := l.sg
  decide (b.desc < m.nDesc ∧ b.mode ≤ 1 ∧ 1 ≤ b.tn ∧ b.tn ≤ 64 ∧ b.slot0 % sg = 0 ∧ b.nreg % sg = 0) &&
    decide (b.slot0 + b.nreg * b.tn ≤ l.nslot ∧ 2 * sg ≤ b.sring ∧ b.sring ≤ 64) &&
    (if cls = 2 then decide (b.tidx + b.tn ≤ ph) else b.tidx == 0 && b.tn == 1) &&
    (if b.mode = 0 then
      l.wfmt != 5 && dSrc d == 3 && dMode d && dFmt d == l.wfmt &&
        slRows (m.slot (dSlot0 d)) == l.rrows && decide (2 * sg ≤ bits (dw d 0) 10 6 + 1)
     else
      dMem d == 0 && dSrc d == 0 && (!dMode d || l.wfmt == 5 || slRows (m.slot (dSlot0 d)) == l.rrows) &&
        decide ((if l.wfmt = 5 then 16 else l.rrows) * b.nreg * b.tn ≤ dSize d))

/-- Bytes that a STREAM binding reads in its `i`-th tide (R317). -/
def bindLoad (l : Layer) (slot0 nreg i : Nat) : Nat :=
  let first := slot0 + i * nreg
  4608 + ((l.dir.drop first).take nreg).foldl (fun a d => a + 512 * 2 ^ d.2.1) 0 + 512 * (l.tideScales first nreg).2

/-- A set's load: the largest sum over its tide indices, each binding at its largest. -/
def State.setLoad (s : State) (ph : Nat) (bs : List Binding) : Nat :=
  let one (b : Binding) : Nat :=
    if b.resident then 0
    else match (s.model? b.model).bind fun m => m.layer? b.layer b.ver with
      | none => 0
      | some l => worstOf ((List.range b.tn).map fun i => bindLoad l b.slot0 b.nreg i)
  worstOf ((List.range (max ph 1)).map fun i =>
    (bs.filter fun b => decide (b.tidx ≤ i ∧ i < b.tidx + b.tn)).foldl (fun a b => a + one b) 0)

/-- `TIER.WUSE` brought up to date: the loads of the placed sets. -/
def State.wuse (s : State) : State :=
  s.wr TIER_WUSE ((s.loader.sets.filter fun x => decide (x.state < 3)).foldl (fun a x => a + s.setLoad x.tok.ph x.binds) 0)

/-! ## Stations (R142) -/

/-- Whether an accepted set holds a station. -/
def State.taken (s : State) (t p : Nat) : Bool :=
  s.loader.sets.any fun x => decide (x.state < 3) && x.stages.any fun g => g.t == t && g.p == p

def State.fencedAt (s : State) (t p : Nat) : Bool := bit (s.rg (INT_STN_FENCED t)) p

/-- Whether a station may take a slice. -/
def State.stationFree (s : State) (x : Nat) : Bool :=
  let q := promAt x
  decide (x < 204) && q.2 != 16 && !s.fencedAt q.1 q.2 && !s.taken q.1 q.2

/-- Whether a station may lie between two stations of a set. -/
def State.stationBetween (s : State) (x : Nat) : Bool :=
  let q := promAt x
  decide (x < 204) && (q.2 == 16 || (s.fencedAt q.1 q.2 && !s.taken q.1 q.2))

/-- The next free index from `x`, on fuel; `link`: only reserves and fenced stations may be passed over. -/
def State.nextFree (s : State) (link : Bool) : Nat → Nat → Option Nat
  | 0, _ => none
  | f + 1, x => if s.stationFree x then some x
    else if 204 ≤ x ∨ (link ∧ ¬ s.stationBetween x) then none else s.nextFree link f (x + 1)

/-- Indices for images `i` onwards, from index `x`. -/
def State.fitFrom (s : State) (l : Imgs) : Nat → Nat → Nat → Option (List Nat)
  | 0, _, _ => some []
  | n + 1, i, x =>
    match s.nextFree (linked l i) 205 x with
    | none => none
    | some y => (s.fitFrom l n (i + 1) (y + 1)).map fun r => y :: r

/-- The lowest first index at which the set fits, or the pinned one. -/
def State.fit (s : State) (l : Imgs) (pin : Option Nat) : Option (List Nat) :=
  let at' (x : Nat) : Option (List Nat) := if s.stationFree x then s.fitFrom l l.length 0 x else none
  match pin with
  | some x => at' x
  | none => (List.range 204).findSome? at'

/-- Whether a set fits on the stations of indices `xs` (R142, R144). -/
def State.fitsAt (s : State) (l : Imgs) (xs : List Nat) : Bool :=
  xs.length == l.length && xs.all s.stationFree && (List.range (l.length - 1)).all fun i =>
    let a := xs.getD i 0
    let b := xs.getD (i + 1) 0
    decide (a < b) && (!linked l (i + 1) || (List.range (b - a - 1)).all fun j => s.stationBetween (a + 1 + j))

/-- The module without the stations of capture sets, which yield to other sets (R267). -/
def State.spared (s : State) : State :=
  { s with loader := { s.loader with sets := s.loader.sets.filter fun x => x.cls != 3 } }

/-- Capture sets on the stations of indices `xs` are to be suspended (R267). -/
def State.yieldTo (s : State) (own : Nat) (xs : List Nat) : State :=
  { s with loader := { s.loader with sets := s.loader.sets.map fun x =>
      if x.cls = 3 ∧ x.handle ≠ own ∧ x.state ≤ 2 ∧ (x.stages.any fun g => xs.contains (promIdx g.t g.p)) then { x with state := 5 } else x } }

/-! ## Streams and parameters (R442, R443) -/

/-- The stream of a name. -/
def State.strm? (s : State) (name : List Byte) : Option Strm := s.loader.streams.find? fun x => x.name == name

/-- The lowest stream number free. -/
def State.freeStream (s : State) : Option Nat :=
  (List.range 64).find? fun n => !s.loader.streams.any fun x => x.num == n

/-- First row of `n` rows of a terrace's station region that no assigned slice, set or stream declares. -/
def State.freeRows (s : State) (t n : Nat) (own : List (Nat × Nat)) : Option Nat :=
  let used : List (Nat × Nat) := own ++
    (s.loader.streams.filter fun x => x.terr == t && x.nrows != 0).map (fun x => (x.trow, 2 * x.nrows)) ++
    ((s.loader.sets.filter fun x => decide (x.state < 3)).map fun x =>
      ((x.stages.zip x.images).filter fun g => g.1.t == t).map fun g => (leAt g.2 128 2, leAt g.2 130 2)).flatten
  (List.range (s.tsRegion t + 1 - n)).find? fun r => used.all fun u => decide (u.2 = 0 ∨ u.1 + u.2 ≤ r ∨ r + n ≤ u.1)

/-- A parameter's value when its stream is placed: its persistent one, or its default (R442). -/
def State.paramStart (s : State) (name : List Byte) (p : Param) : Param :=
  match s.dict.pparams.find? fun x => x.1 == name && x.2.1 == p.j && x.2.2.1 == p.typ with
  | some x => if p.rwp then { p with value := x.2.2.2 } else p
  | none => p

/-- The image of a parameter block. -/
def blockImage (n : Nat) (l : List Param) : List Byte :=
  l.foldl (fun b p => patch b p.offset (p.value.take (typeSize p.typ))) (zeros (512 * n))

/-! ## PLACE -/

/-- A refused PLACE. -/
def State.refusePlace (s : State) (q tag code : Nat) : State := s.complete q (s.cmdCompletion 2 code 0 0xFF tag 0xFFFF)

/-- What a request asks for, once its block is read. -/
structure PlaceReq where
  imgs : Imgs
  pin : Option Nat
  rlim : Nat
  binds : List BindRec
  tok : List TokPar
  outs : List (List Byte × Nat)
  params : List (List Byte)
  audio : List (List Byte)
  vision : List (List Byte)
  windows : List (List Byte)

/-- What a PLACE reads at unmapped internal addresses, counted: its parameter block and the images that it names (R23). -/
def State.placeReads (s : State) (e : List Byte) : State :=
  let b := s.ldSpace (leAt e 8 8) (leAt e 24 8)
  (ofType 2 ((parseRecs b.length b).getD [])).foldl (fun s r => s.spaceErr (leAt r 0 8) (leAt r 8 4))
    (s.spaceErr (leAt e 8 8) (leAt e 24 8))

/-- Reads the parameter block (R466). -/
def State.placeReq (s : State) (b : List Byte) : Option PlaceReq :=
  match parseRecs b.length b with
  | none => none
  | some l =>
    match ofType 1 l with
    | [h] =>
      let im := ofType 2 l
      let pt := leAt h 2 1
      if im.length ≠ leAt h 0 2 ∨ im.isEmpty ∨ (pt ≠ 0xFF ∧ (12 ≤ pt ∨ 17 ≤ leAt h 3 1)) then none
      else some
        { imgs := im.map fun r => Img.of (let a := leAt r 0 8; s.ldSpace a (leAt r 8 4))
          pin := if pt = 0xFF then none else some (promIdx pt (leAt h 3 1))
          rlim := leAt h 4 4
          binds := (ofType 3 l).map BindRec.of
          tok := (ofType 4 l).map TokPar.of
          outs := (ofType 5 l).map fun r => (slice r 0 24, leAt r 24 1)
          params := ofType 6 l, audio := ofType 7 l, vision := ofType 8 l, windows := ofType 9 l }
    | _ => none

/-- Format and rows of an output: of the descriptor that covers its slot (R319). -/
def outShape (m : Img) (k : Nat) : Nat × Nat :=
  (match (m.descs.take m.nDesc).find? fun d => dMode d && dSrc d == 0 && decide (dSlot0 d ≤ k ∧ k ≤ dSlot0 d + bits (dw d 0) 10 6) with
    | some d => dFmt d
    | none => 0, slRows (m.slot k))

/-- The shapes of a set's outputs. -/
def outShapes (l : Imgs) (outs : List (List Byte × Nat)) : Option (List (Nat × Nat)) :=
  outs.mapM fun o => (l.find? fun m => m.name == o.1).bind fun m =>
    if slEn (m.slot (o.2 % 64)) ∧ o.2 < 64 then some (outShape m o.2) else none

/-- HELD producers of a set's inputs. -/
def heldProducers (l : Imgs) : List Nat :=
  (List.range 8).filter fun p => l.any fun m => m.enabled.any fun k => slKind (m.slot k) == 2 && slProducer (m.slot k) == p

/-- The sets of a stream. -/
def State.setsOf (s : State) (name : List Byte) (cls period : Nat) : List ProgSet :=
  s.loader.sets.filter fun x => x.stream == name && x.cls == cls && periodKey x.period == periodKey period

/-- What R319 asks of a fallback set alone. -/
def fallbackOk (r : PlaceReq) : Bool :=
  r.binds.all (fun b => b.mode == 1) &&
    r.imgs.all fun m => m.tsRows == 0 && (m.descs.take m.nDesc).all (fun d => dMem d != 3) && !isWindow m.prev && !isWindow m.next &&
      m.enabled.all fun k => slProducer (m.slot k) != 4 && slProducer (m.slot k) != 5 || slKind (m.slot k) == 2

/-- The BAD_DESCRIPTOR causes of a set that need no place: classes, names, neighbours, records (R137, R143, R241, R319). DEDUCED:
the producers of a main set's and of its fallback set's HELD inputs are compared when the second of the two is placed. -/
def State.setBad (s : State) (r : PlaceReq) : Bool :=
  let l := r.imgs
  match l.head? with
  | none => true
  | some h =>
    let same := l.all fun m => m.cls == h.cls && m.stream == h.stream && m.period == h.period
    let dup := s.loader.sets.any fun x => periodKey x.period == periodKey h.period && x.images.any fun b => l.any fun m => slice b 24 24 == m.name
    let nbrs := (List.range l.length).all fun i => match l[i]? with
      | some m => m.accessOk (nbrTable l i)
      | none => false
    let named (n : List Byte) : Bool := l.any fun m => m.name == n
    let recs := r.binds.all (fun b => named b.name) && r.audio.all (fun b => named (slice b 8 24)) &&
      r.vision.all (fun b => named (slice b 12 24)) && r.windows.all (fun b => named (slice b 16 24))
    let cfg := s.imgCfg h
    let fb := s.setsOf h.stream 1 h.period
    let main := s.setsOf h.stream 0 h.period
    let again := !(s.setsOf h.stream h.cls h.period).isEmpty
    let shapes := outShapes l r.outs
    let prel := l.any fun m => (m.descs.take m.nDesc).any dPrel
    !(same && cfg.legal && !dup && !again && namesOk l && nbrs && recs && shapes.isSome && paramsOk r.params &&
      (if h.cls = 2 then (match r.tok with
          | [p] => p.ok (s.budgetOf cfg)
          | _ => false) else r.tok.isEmpty) &&
      (h.cls == 0 || (!prel && r.params.isEmpty)) && (!prel || !r.params.isEmpty) &&
      (h.cls != 0 || match fb with
        | x :: _ => outShapes (x.images.map Img.of) x.outputs == shapes && heldProducers (x.images.map Img.of) == heldProducers l
        | [] => false) &&
      (h.cls != 1 || (fallbackOk r && fb.isEmpty && match main with
        | x :: _ => heldProducers (x.images.map Img.of) == heldProducers l
        | [] => true)))

/-- The binding records with their layers; none when one names no stored layer. -/
def State.boundLayers (s : State) (r : PlaceReq) : Option (List (BindRec × Img × Model × Layer)) :=
  r.binds.mapM fun b => (r.imgs.find? fun m => m.name == b.name).bind fun i =>
    (s.model? b.model).bind fun m => (m.newest? b.layer).map fun l => (b, i, m, l)

/-- Pages that the layers of a set need brought into tier 1, in order (R316). -/
def State.missingPages (s : State) (l : List (Model × Layer)) : List PageRec :=
  s.pool.pages.filter fun p => p.t1.isNone && l.any fun x => p.client == x.1.client && p.layer == x.1.lkey x.2.layer && p.ver == x.2.ver

/-- Tides until a promotion of `n` pages ends (R315). -/
def State.predictTides (s : State) (n : Nat) : Nat :=
  let c := s.active
  -- (Q + n) 65536 / (RATE 10^6) s, over P = pNum / pDen ns
  ceilDiv ((s.rg TIER_QUEUE_PAGES + n) * 65536 * 1000 * c.pDen) (s.rg TIER_NRATE_RATE * c.pNum)

/-- Gives tier 1 pages to the pages of a promotion and queues them (R286, R315, R316). -/
def State.startPromotion (s : State) (l : List PageRec) : State :=
  let s : State := l.foldl (fun s p =>
    match (if p.layer = 0xFFF then (if s.pageFree p.idx then some p.idx else none, s) else s.freePage p.prot) with
    | (none, s) => s
    | (some pg, s) =>
      let s := s.onPage p fun p => { p with t1 := some pg, prom := true }
      { s with pool := { s.pool with queue := s.pool.queue ++ [(p.client, p.layer, p.ver, p.idx)] } }) s
  s.wr TIER_QUEUE_PAGES s.pool.queue.length

/-- The set of an accepted request. -/
def PlaceReq.set (r : PlaceReq) (handle q tag : Nat) (xs : List Nat) (bs : List (BindRec × Img × Model × Layer)) (state : Nat) :
    ProgSet :=
  let stages := xs.map fun x => let g := promAt x; ({ t := g.1, p := g.2 } : Stage)
  let placeOf (n : List Byte) : Stage := ((r.imgs.zip stages).find? fun m => m.1.name == n).map (fun m => m.2) |>.getD {}
  let h := r.imgs.headD (Img.of [])
  { handle := handle, cls := h.cls, stream := h.stream, period := h.period, images := r.imgs.map Img.b, stages := stages
    binds := bs.map fun b =>
      let g := placeOf b.1.name
      { t := g.t, p := g.p, desc := b.1.desc, resident := b.1.mode == 1, model := b.2.2.1.handle, layer := b.1.layer
        slot0 := b.1.slot0, nreg := b.1.nreg, tidx := b.1.tidx, tn := b.1.tn, sring := b.1.sring, ver := b.2.2.2.ver }
    tok := r.tok.headD {}, outputs := r.outs, params := r.params.map Param.of
    audio := r.audio.map fun b => (leAt b 0 1, leAt b 1 1, leAt b 2 1, leAt b 4 4, slice b 8 24)
    vision := r.vision.map fun b => (leAt b 0 1, leAt b 4 4, leAt b 8 2, slice b 12 24)
    windows := r.windows.map fun b => (leAt b 0 1, leAt b 4 4, leAt b 8 4, leAt b 12 2, slice b 16 24)
    state := state, placeTag := some (q, tag), d := r.tok.headD {} |>.ts |> (· - (r.tok.headD {}).pmin)
    maxL := worstOf (r.imgs.map Img.l), pin := r.pin }

/-- What a place asks of each station, once it is known (R141, R241, R259, R380, R394, R414). -/
def State.placeBad (s : State) (r : PlaceReq) (xs : List Nat) : Bool :=
  let at' := (r.imgs.zip xs).map fun m => (m.1, promAt m.2)
  let find (n : List Byte) := at'.find? fun m => m.1.name == n
  let h := r.imgs.headD (Img.of [])
  let cfg := s.imgCfg h
  let prel := (at'.filter fun m => (m.1.descs.take m.1.nDesc).any dPrel).map fun m => m.2.1
  !(at'.all (fun m => m.1.tsRows == 0 || decide (m.1.tsBase + m.1.tsRows ≤ s.tsRegion m.2.1)) &&
    prel.eraseDups.length ≤ 1 &&
    r.audio.all (fun b => match find (slice b 8 24) with
      | some m => audOk cfg b m.1
      | none => false) &&
    r.vision.all (fun b => match find (slice b 12 24) with
      | some m => s.visOk b m.1 m.2.1
      | none => false) &&
    r.windows.all (fun b => match find (slice b 16 24) with
      | some m => s.winOk b m.1 m.2.1
      | none => false) &&
    r.tok.all fun p =>
      (at'.map fun m => m.2.1).eraseDups.all (fun t => (at'.filter fun m => m.2.1 == t).length == p.ts) &&
        match at'.getLast? with
        | some m => decide (p.lrow + p.lcount * p.lstride ≤ s.tsRegion m.2.1)
        | none => false)

/-- The stations that a set would take (R142, R267). -/
def State.fitFor (s : State) (r : PlaceReq) : Option (List Nat) :=
  (s.fit r.imgs r.pin).orElse fun _ => if (r.imgs.headD (Img.of [])).cls = 3 then none else s.spared.fit r.imgs r.pin

/-- The terrace-store rows of an image lie past the station region (R132, R141): of the terrace that it would be placed in,
or of every terrace when it is placed in none now. -/
def State.tsBad (s : State) (r : PlaceReq) : Bool :=
  let past (m : Img) (t : Nat) : Bool := m.tsRows != 0 && decide (s.tsRegion t < m.tsBase + m.tsRows)
  match if s.periodNow (r.imgs.headD (Img.of [])).period then s.fitFor r else none with
  | some xs => (r.imgs.zip xs).any fun m => past m.1 (promAt m.2).1
  | none => r.imgs.any fun m => (List.range 12).all (past m)

/-- Whether a terrace-store region of a placement covers a row that has no repair row left (R508). -/
def State.coversBadRow (s : State) (r : PlaceReq) (xs : List Nat) : Bool :=
  (r.imgs.zip xs).any fun m => s.integ.noSpare.any fun x =>
    x.1 == (promAt m.2).1 && decide (m.1.tsBase ≤ x.2 ∧ x.2 < m.1.tsBase + m.1.tsRows)

/-- A set entered in the gatehouse's table (R241). -/
def State.ghSet (s : State) (x : ProgSet) (on : Bool) : State :=
  if x.cls < 2 then s
  else if on then
    match (List.range 16).find? fun i => !s.on (GH_SET0_EN i) with
    | none => s
    | some i => s.wrs [(GH_SET0_EN i, 1), (GH_SET0_CLASS i, x.cls), (GH_SET0_HANDLE i, x.handle),
        (GH_SET0_D i, x.d), (GH_SET0_P i, x.tok.ts - x.d), (GH_SET1_QTOK i, 0), (GH_SET1_NDEC i, 0)]
  else (List.range 16).foldl (fun s i => if s.on (GH_SET0_EN i) ∧ s.rg (GH_SET0_HANDLE i) = x.handle then
    s.wrs [(GH_SET0_EN i, 0), (GH_SET0_CLASS i, 0), (GH_SET0_HANDLE i, 0), (GH_SET0_D i, 0), (GH_SET0_P i, 0),
      (GH_SET1_QTOK i, 0), (GH_SET1_NDEC i, 0)] else s) s

/-- The stream of an accepted set exists from now on; a main set brings its parameters, of which those that the stream has
already keep their values (R442, R443, R466). -/
def State.streamFor (s : State) (x : ProgSet) (imgs : Imgs) : Option State :=
  let name := x.stream
  let r : Option State := match s.strm? name with
    | some _ => some s
    | none => s.freeStream.map fun n => { s with loader := { s.loader with streams := s.loader.streams ++ [{ num := n, name := name }] } }
  r.bind fun s =>
    if x.cls ≠ 0 ∨ x.params.isEmpty then some s
    else
      let at' := imgs.zip x.stages
      let g := (at'.find? fun m => (m.1.descs.take m.1.nDesc).any dPrel).orElse fun _ => at'.head?
      let t := match g with
        | some m => m.2.t
        | none => 0
      let n := paramRows x.params
      let own := (at'.filter fun m => m.2.t == t).map fun m => (m.1.tsBase, m.1.tsRows)
      let total := (s.loader.streams.filter fun y => y.name != name).foldl (fun a y => a + y.nrows) 0
      if 64 < total + n then none
      else (s.freeRows t (2 * n) own).map fun row =>
        let old := ((s.strm? name).map fun y => y.params).getD []
        let ps := x.params.map fun p => match old.find? fun q => q.j == p.j && q.typ == p.typ with
          | some q => { p with value := q.value }
          | none => s.paramStart name p
        { s with loader := { s.loader with streams := s.loader.streams.map fun y => if y.name ≠ name then y else
          { y with params := ps, terr := t, trow := row, nrows := n, image := blockImage n ps } } }

/-- A PLACE (R141 to R144, R287, R316 to R319, R466). -/
def State.place (s : State) : State :=
  match s.takeOp 2 with
  | none => s
  | some (q, e, s) =>
    let tag := leAt e 16 8
    if leAt e 1 1 ≠ 0 ∨ ¬ allZero (slice e 2 6) ∨ ¬ allZero (slice e 32 32) then s.refusePlace q tag stBadDescriptor
    else
    let s := s.placeReads e
    match s.placeReq (s.ldSpace (leAt e 8 8) (leAt e 24 8)) with
    | none => s.refusePlace q tag stBadDescriptor
    | some r =>
      let h := r.imgs.headD (Img.of [])
      let B := s.budgetOf (s.imgCfg h)
      if ¬ r.imgs.all Img.ok ∨ s.setBad r ∨ s.tsBad r then s.refusePlace q tag stBadDescriptor
      else if (h.cls = 2 ∧ ¬ s.feature 0) ∨ (r.windows.any (fun b => bit (leAt b 4 4) 27) ∧ ¬ s.feature 5) then
        s.refusePlace q tag stRefusedVersion
      else match (r.imgs.filterMap fun m => m.timeBad B).head? with
      | some c => s.refusePlace q tag c
      | none => match s.boundLayers r with
      | none => s.refusePlace q tag stBadDescriptor
      | some bs =>
        let ph := if h.cls = 2 then (r.tok.headD {}).ph else 1
        let per (n : List Byte) : Nat := (r.binds.filter fun b => b.name == n).length
        if ¬ bs.all (fun b => bindOk h.cls ph b.1 b.2.1 b.2.2.2) ∨ r.binds.any (fun b => decide (2 < per b.name)) then
          s.refusePlace q tag stBadDescriptor
        else if bs.any fun b => b.2.2.2.poisoned then s.refusePlace q tag stPoisoned
        else if 2 ≤ h.cls ∧ 16 ≤ (s.loader.sets.filter fun x => decide (2 ≤ x.cls ∧ x.state ≠ 3)).length then
          s.refusePlace q tag stRefusedMemory
        else if 4 ≤ (s.loader.sets.filter fun x => x.stream == h.stream && x.cls == h.cls).length then
          s.refusePlace q tag stRefusedMemory
        else
          let handle := s.loader.nextSet
          let now := s.periodNow h.period
          let next (s : State) : State := { s with loader := { s.loader with nextSet := handle % 0xFFFF + 1 } }
          if ¬ now then
            -- kept for its period (R144); the stations stand for the images until it is placed
            let x := r.set handle q tag (List.range r.imgs.length) bs 3
            match s.streamFor { x with params := [] } r.imgs with
            | none => s.refusePlace q tag stRefusedMemory
            | some s =>
              let n := match s.strm? h.stream with
                | some y => y.num
                | none => 0xFF
              let s := next { s with loader := { s.loader with sets := s.loader.sets ++ [{ x with placeTag := none }] } }
              s.books.complete q (s.cmdCompletion 2 stOk handle n tag 0xFFFF)
          else match s.fitFor r with
          | none => s.refusePlace q tag stRefusedMemory
          | some xs =>
            if s.placeBad r xs then s.refusePlace q tag stBadDescriptor
            else if s.coversBadRow r xs then s.refusePlace q tag stRefusedMemory
            else match chainBad r.imgs (fun i => (promAt (xs.getD i 0)).1) B with
            | some c => s.refusePlace q tag c
            | none =>
              let miss := s.missingPages (bs.map fun b => b.2.2)
              let x := r.set handle q tag xs bs (if miss.any fun p => !p.prom then 0 else if miss.isEmpty then 1 else 0)
              let ls : State := { s with loader := { s.loader with sets := s.loader.sets ++ [x] } }
              if s.rg TIER_WLIMIT < ls.wuse.rg TIER_WUSE then s.refusePlace q tag stRefusedTime
              else if r.rlim ≠ 0 ∧ ¬ miss.isEmpty ∧ r.rlim < s.predictTides miss.length then s.refusePlace q tag stRefusedTime
              else if ¬ ls.ceilOk (miss.map fun p => p.client) then s.refusePlace q tag stRefusedMemory
              else match ls.books.makeRoom miss.length (miss.filter fun p => p.prot).length s.pool.pages.length with
              | none => s.refusePlace q tag stRefusedMemory
              | some ls => match ls.streamFor x r.imgs with
                | none => s.refusePlace q tag stRefusedMemory
                | some s => (((next (s.startPromotion miss)).ghSet x true).yieldTo handle xs).wuse.readySets.books

def execPlace (s : State) : Res := .next s.place

/-! ## REMOVE -/

/-- A REMOVE (R143, R319): taken at the next boundary. -/
def State.removeReq (s : State) : State :=
  match s.takeOp 3 with
  | none => s
  | some (q, e, s) =>
    let tag := leAt e 16 8
    let h := leAt e 32 4
    let bad (s : State) : State := s.complete q (s.cmdCompletion 3 stBadDescriptor h 0 tag 0xFFFF)
    match s.loader.sets.find? fun x => x.handle == h with
    | none => bad s
    | some x =>
      let mainThere := x.cls == 1 && s.loader.sets.any fun y => y.stream == x.stream && y.cls == 0 && y.removeTag.isNone &&
        y.period == x.period
      if leAt e 1 1 ≠ 0 ∨ mainThere ∨ x.removeTag.isSome then bad s
      else { s with loader := { s.loader with
        sets := s.loader.sets.map fun y => if y.handle = h then { y with removeTag := some (q, tag) } else y } }

def execRemove (s : State) : Res := .next s.removeReq

end Sys2Proof.Machine
end

