-- ==== Sys2Proof/Machine/Gate.lean ====
section
/-! DEFINITION. The gatehouse (chapter 10): the checks of R246 to R254, requests, the sequences' pages, passes with their
lists and completions, host loss and parking. -/

namespace Sys2Proof.Machine

/-! ## Books -/

/-- The placed token sets (R241). -/
def State.tokenSets (s : State) : List ProgSet := s.loader.sets.filter fun x => x.cls == 2 && decide (x.state < 3)

def ProgSet.terraces (x : ProgSet) : List Nat := (x.stages.map fun g => g.t).eraseDups

/-- Numbers in falling order. -/
def insDesc (v : Nat) : List Nat → List Nat
  | [] => [v]
  | a :: l => if a < v then v :: a :: l else a :: insDesc v l
def sortDesc (l : List Nat) : List Nat := l.foldr insDesc []

/-- The sequences of a set that its books count (R248, R251, R253, R261). -/
def counted (seqs : List SeqRec) (x : ProgSet) : List SeqRec :=
  seqs.filter fun r => r.set == x.handle && !r.best && r.parked.isNone && !r.cut

/-- The decode batch of a terrace at split `d`: MAXLEN of its sequences at their worst (R249). -/
def batchOf (seqs : List SeqRec) (x : ProgSet) (d : Nat) : List Nat :=
  (sortDesc ((counted seqs x).map fun r => r.maxlen)).take (d * x.tok.nbsD)

/-- C_dec of a batch (R249, R238). -/
def cDec (p : TokPar) (batch : List Nat) : Nat :=
  32 * ceilDiv (2 * p.ae * batch.length) 15 +
    batch.foldl (fun a m => a + p.ae * (704 + 4 * p.g + ceilDiv m 64 * max 256 (4 * p.g) + (704 + 4 + 512 + 640))) 0

/-- A set's share of the left-hand side of R249. -/
def lhs (p : TokPar) (batch : List Nat) : Nat := cDec p batch + p.pattCyc + p.attGo

/-- A set's token traffic of a tide at split `d` (R250, R260): the experts that a batch's tokens choose are those of its
decode sequences and of its prompt tokens. -/
def trafficOf (p : TokPar) (terraces d : Nat) (batch : List Nat) : Nat :=
  terraces * (p.ae * batch.foldl (fun a m => a + ceilDiv m 64 * 16640 + 32768) 0 + p.pattBytes +
    min p.e (p.ktop * (batch.length + (p.ts - d) * p.nbsP)) * p.expBytes)

/-- The attention check of every terrace, with the batch that `f` gives each set (R249). -/
def State.attOk (s : State) (f : ProgSet → List Nat) : Bool :=
  (List.range 12).all fun t =>
    let on := s.tokenSets.filter fun x => x.terraces.contains t
    on.isEmpty || decide (on.foldl (fun a x => a + lhs x.tok (f x)) 0 ≤ s.rg (GH_TB_BUDGET t))

/-- The DRAM share check, with the batch and the split that `f` and `d` give each set (R250). -/
def State.shareOk (s : State) (f : ProgSet → List Nat) (d : ProgSet → Nat) : Bool :=
  decide (s.tokenSets.foldl (fun a x => a + trafficOf x.tok x.terraces.length (d x) (f x)) 0 ≤ s.rg GH_SHARE_BYTES)

/-- The split of each set when set `x` has split `d`. -/
def ProgSet.splitsWith (x : ProgSet) (d : Nat) (y : ProgSet) : Nat := if y.handle = x.handle then d else y.d

/-- Queued prompt tokens of a set's counted sequences. -/
def queuedTok (seqs : List SeqRec) (x : ProgSet) : Nat := (counted seqs x).foldl (fun a r => a + r.prompt) 0

/-- T_dec and T_pre of R248. -/
def State.tidesDec (s : State) (x : ProgSet) (nd d : Nat) : Nat :=
  2 * (x.tok.ph * ceilDiv nd (d * x.tok.nbsD) + s.rg GH_CTRL_REPEATS) + 1
def State.tidesPre (s : State) (x : ProgSet) (q d : Nat) : Nat :=
  x.tok.ph * (ceilDiv q ((x.tok.ts - d) * x.tok.nbsP) + 1) + s.rg GH_CTRL_REPEATS + 1

/-- The deadline check of the counted sequences at split `d`, with `nd` decode sequences and `q` prompt tokens (R248). -/
def State.boundsOk (s : State) (seqs : List SeqRec) (x : ProgSet) (d nd q : Nat) : Bool :=
  (counted seqs x).all fun r => decide (s.tidesDec x nd d ≤ r.sd ∧ s.tidesPre x q d ≤ r.fd)

/-- The deadline check at split `d` (R248). -/
def State.deadlineOk (s : State) (seqs : List SeqRec) (x : ProgSet) (d : Nat) : Bool :=
  s.boundsOk seqs x d (counted seqs x).length (queuedTok seqs x)

/-- The attention check with set `x` at split `d`, the other sets at their splits (R249). -/
def State.splitAttOk (s : State) (seqs : List SeqRec) (x : ProgSet) (d : Nat) : Bool :=
  s.attOk fun y => batchOf seqs y (x.splitsWith d y)

/-- Whether every check holds for set `x` at split `d`, the other sets at their splits. -/
def State.splitOk (s : State) (seqs : List SeqRec) (x : ProgSet) (d : Nat) : Bool :=
  s.deadlineOk seqs x d && s.splitAttOk seqs x d && s.shareOk (fun y => batchOf seqs y (x.splitsWith d y)) (x.splitsWith d)

/-- The splits a set may take (R242). -/
def ProgSet.splits (x : ProgSet) : List Nat := (List.range (x.tok.ts - x.tok.pmin)).map (· + 1)

/-- The smallest split at which every check holds. -/
def State.splitFor (s : State) (seqs : List SeqRec) (x : ProgSet) : Option Nat := x.splits.find? fun d => s.splitOk seqs x d

/-- The split of a pass boundary (R255): the smallest that meets R248 and R249, or the largest that meets R249 when no prompt
is queued. DESIGN CHOICE: where none does, the split stays. -/
def State.splitAt (s : State) (x : ProgSet) : Nat :=
  let seqs := s.loader.seqs
  if (seqs.filter fun r => r.set == x.handle && r.parked.isNone).all (fun r => r.prompt == 0) then
    (x.splits.reverse.find? fun d => s.splitAttOk seqs x d).getD (max 1 x.d)
  else (x.splits.find? fun d => s.deadlineOk seqs x d && s.splitAttOk seqs x d).getD (max 1 x.d)

/-! ## Records -/

def State.onSet (s : State) (h : Nat) (f : ProgSet → ProgSet) : State :=
  { s with loader := { s.loader with sets := s.loader.sets.map fun x => if x.handle = h then f x else x } }

def State.set? (s : State) (h : Nat) : Option ProgSet := s.loader.sets.find? fun x => x.handle == h

def State.onSeq (s : State) (n : Nat) (f : SeqRec → SeqRec) : State :=
  { s with loader := { s.loader with seqs := s.loader.seqs.map fun r => if r.seq = n then f r else r } }

def State.seq? (s : State) (n : Nat) : Option SeqRec := s.loader.seqs.find? fun r => r.seq == n

def SeqRec.handle (r : SeqRec) : Nat := r.seq + 65536 * r.gen

/-- The sequence a handle names: [10:0] SEQ, [23:16] GEN, the rest 0. -/
def State.seqOf (s : State) (h : Nat) : Option SeqRec := s.loader.seqs.find? fun r => r.handle == h

def State.seqAddr (s : State) (n : Nat) : Nat := s.rg PS_SEQ_BASE + 32 * n
def State.seqLen (s : State) (n : Nat) : Nat := s.ldN (s.seqAddr n + 8) 4

/-- `GH.SET` and `GH.USE` brought up to date (R249, R255). -/
def State.ghShow (s : State) : State :=
  let s := s.tokenSets.foldl (fun s x =>
    match (List.range 16).find? fun i => s.on (GH_SET0_EN i) && s.rg (GH_SET0_HANDLE i) == x.handle with
    | none => s
    | some i =>
      let mine := s.loader.seqs.filter fun r => r.set == x.handle && r.parked.isNone
      s.wrs [(GH_SET0_D i, x.d), (GH_SET0_P i, x.tok.ts - x.d),
        (GH_SET1_QTOK i, min 0xFFFF (mine.foldl (fun a r => a + r.prompt) 0)), (GH_SET1_NDEC i, mine.length)]) s
  (List.range 12).foldl (fun s t => s.wr (GH_USE t) ((s.tokenSets.filter fun x => x.terraces.contains t).foldl
    (fun a x => a + lhs x.tok (batchOf s.loader.seqs x x.d)) 0)) s

/-! ## Completions (R245) -/

/-- The 64 bytes of a step completion. -/
def State.stepBytes (s : State) (handle op status flags len nout tag step : Nat) : List Byte :=
  natLE 4 handle ++ natLE 1 op ++ natLE 1 status ++ natLE 1 flags ++ natLE 1 0 ++ natLE 4 len ++ natLE 4 nout ++
    natLE 8 tag ++ natLE 2 step ++ zeros 22 ++ s.stamp.bytes

def State.stepDone (s : State) (q handle : Nat) (b : List Byte) (status flags len nout step : Nat) : State :=
  s.complete q (s.stepBytes handle (leAt b 4 1) status flags len nout (leAt b 48 8) step)

/-- A completion of a sequence, with DEMOTED when it is the first since the gatehouse demoted it (R253) and with PARKED. -/
def State.seqDone (s : State) (q : Nat) (r : SeqRec) (b : List Byte) (status flags len nout step : Nat) : State :=
  (s.stepDone q r.handle b status (b2n r.demoted + 2 * b2n r.parked.isSome + flags) len nout step).onSeq r.seq fun r =>
    { r with demoted := false }

/-- A request answered with a status alone. -/
def State.answer (s : State) (q : Nat) (b : List Byte) (status : Nat) : State :=
  if leAt b 4 1 = 0 then s.stepDone q 0 b status 0 0 0 0
  else match s.seqOf (leAt b 0 4) with
    | some r => s.seqDone q r b status 0 (s.seqLen r.seq) 0 0
    | none => s.stepDone q (leAt b 0 4) b status 0 0 0 0

/-- A request whose reserved fields are 0 (R245). -/
def reqOk (b : List Byte) : Bool := decide (leAt b 5 1 < 16) && allZero (slice b 56 8)

/-- The oldest request with an operation. -/
def State.takeStep (s : State) (op : Nat) : Option (Nat × List Byte × Nat × State) :=
  match s.loader.reqs.find? fun x => leAt x.2.1 4 1 == op with
  | none => none
  | some x => some (x.1, x.2.1, x.2.2, { s with loader := { s.loader with reqs := s.loader.reqs.erase x } })

/-- The request in progress of a sequence completes; its entry in a running pass counts no longer. -/
def State.stepEnd (s : State) (r : SeqRec) (status flags nout step : Nat) : State :=
  match r.req with
  | none => s
  | some (b, _) =>
    (s.seqDone r.q r b status flags (s.seqLen r.seq) nout step).onSeq r.seq fun r => { r with req := none, running := false }

/-! ## Pages of a sequence (R246, R247, R256) -/

def State.l1At (s : State) (r : SeqRec) (tr q : Nat) : Nat := s.rg PS_PT_BASE + 512 * (r.l1row + tr) + 8 * q
def State.l2RowOf (r : SeqRec) (tr q : Nat) : Nat := r.l2row + tr * r.l2per + q
def State.l2At (s : State) (r : SeqRec) (tr lp : Nat) : Nat :=
  s.rg PS_PT_BASE + 512 * (State.l2RowOf r tr (lp / 64)) + 8 * (lp % 64)

/-- The scheduler core's write of `PS.INV` for a sequence whose entries it changes (R222). -/
def State.psInvSeq (s : State) (n : Nat) : State := s.labDrop fun e => e.seq == n

/-- A page drawn from the reservation of sequence `n`, to be mapped in its table. -/
def State.draw (s : State) (n : Nat) : Nat × State :=
  let s := (s.psAlloc true).psInvSeq n
  (s.rg PS_RESULT_PPN, s.onSeq n fun r => { r with resv := r.resv - 1 })

/-- The L1 entry that covers a logical page, with its scale page. -/
def State.mapScale (s : State) (r : SeqRec) (tr lp : Nat) : State :=
  let a := s.l1At r tr (lp / 64)
  if bit (s.ldN a 8) 63 then s
  else
    let p := s.draw r.seq
    p.2.stN a 8 (State.l2RowOf r tr (lp / 64) + p.1 * 2 ^ 24 + 2 ^ 63)

def State.setL2 (s : State) (r : SeqRec) (tr lp ppn : Nat) : State := s.stN (s.l2At r tr lp) 8 (ppn + 2 ^ 31)

/-- A logical page of a track mapped, from the reservation. -/
def State.mapPage (s : State) (r : SeqRec) (tr lp : Nat) : State :=
  let s := s.mapScale r tr lp
  if bit (s.ldN (s.l2At r tr lp) 8) 31 then s
  else
    let p := s.draw r.seq
    p.2.setL2 r tr lp p.1

def State.tracksOf (s : State) (n : Nat) : Nat := s.ldN (s.seqAddr n + 4) 2

/-- The pages of positions LEN to LEN + n − 1 mapped in every track (R233). -/
def State.mapFor (s : State) (r : SeqRec) (n : Nat) : State :=
  let len := s.seqLen r.seq
  if n = 0 then s
  else
    let a := len / 64
    let k := (len + n - 1) / 64 + 1 - a
    (List.range (s.tracksOf r.seq)).foldl (fun s tr => (List.range k).foldl (fun s i => s.mapPage r tr (a + i)) s) s

/-- The prefix pages of a source shared by a new sequence, with their scale blocks (R247). -/
def State.sharePrefix (s : State) (src r : SeqRec) (plen : Nat) : State :=
  if plen = 0 then s
  else
    (List.range (s.tracksOf r.seq)).foldl (fun s tr => (List.range ((plen - 1) / 64 + 1)).foldl (fun s lp =>
      let s := s.mapScale r tr lp
      let ppn := bits (s.ldN (s.l2At src tr lp) 8) 0 22
      let from' := s.kvAddr (bits (s.ldN (s.l1At src tr (lp / 64)) 8) 24 22) + 256 * (lp % 64)
      let to' := s.kvAddr (bits (s.ldN (s.l1At r tr (lp / 64)) 8) 24 22) + 256 * (lp % 64)
      let s := (s.psShare ppn).setL2 r tr lp ppn
      s.st to' (s.ld from' 256)) s) s

/-- Every page that a sequence maps is freed, and its rows and entry are cleared (R256). -/
def State.freeSeq (s : State) (r : SeqRec) : State :=
  let n := s.tracksOf r.seq
  let s := (List.range n).foldl (fun s tr => (List.range r.l2per).foldl (fun s q =>
    let l1 := s.ldN (s.l1At r tr q) 8
    if ¬ bit l1 63 then s
    else
      let s := (List.range 64).foldl (fun s j =>
        let l2 := s.ldN (s.l2At r tr (64 * q + j)) 8
        if bit l2 31 then s.psFree (bits l2 0 22) else s) s
      ((s.psFree (bits l1 24 22)).st (s.rg PS_PT_BASE + 512 * (State.l2RowOf r tr q)) (zeros 512)).stN (s.l1At r tr q) 8 0) s) s
  let s := s.wr PS_RESV (s.rg PS_RESV - r.resv)
  let s := match r.adp with
    | some e => s.wr (WL_ADP_REFS e) (s.rg (WL_ADP_REFS e) - 1)
    | none => s
  let s := (s.st (s.seqAddr r.seq) (zeros 6)).st (s.seqAddr r.seq + 7) (zeros 5)
  let s := s.psInvSeq r.seq
  { s with loader := { s.loader with seqs := s.loader.seqs.filter fun y => y.seq != r.seq } }

/-- First of `n` consecutive page-table rows that no sequence holds. -/
def State.freePtRows (s : State) (n : Nat) (own : List (Nat × Nat)) : Option Nat :=
  let used := own ++ (s.loader.seqs.map fun r => let k := s.tracksOf r.seq; [(r.l1row, k), (r.l2row, k * r.l2per)]).flatten
  let ends := 0 :: used.map fun u => u.1 + u.2
  (ends.filter fun a => decide (a + n ≤ s.rg PS_PT_ROWS) &&
    used.all fun u => decide (u.2 = 0 ∨ u.1 + u.2 ≤ a ∨ a + n ≤ u.1)).foldl
      (fun b a => match b with
        | none => some a
        | some c => some (min c a)) none

/-! ## OPEN -/

/-- The adapter entry that an OPEN binds, or the status that refuses it (R301). -/
def State.adapterFor (s : State) (f : Nat) : Except Nat (Option Nat) :=
  if f = 0xFFFF then .ok none
  else
    let aid := bits f 0 10
    let ver := bits f 10 6
    let cur := (List.range 64).find? fun e => s.on (WL_ADP_VALID e) && s.on (WL_ADP_CURRENT e) && s.rg (WL_ADP_AID e) == aid
    match cur with
    | none => .error stBadDescriptor
    | some e =>
      if ver = 0 ∨ s.rg (WL_ADP_AVER e) = ver then .ok (some e)
      else if ver < s.rg (WL_ADP_AVER e) ∧ s.loader.adpSeen.contains (aid, ver) then .error stStaleAdapter
      else .error stBadDescriptor

/-- The field ranges of a request that produces logits (R245, R259). -/
def logitsOk (p : TokPar) (b : List Byte) : Bool :=
  let k := leAt b 28 2
  let full := bit (leAt b 5 1) 2
  within 1 256 k && (!full || decide (p.vocab * (if bit (leAt b 5 1) 3 then 2 else 4) ≤ p.lstride * 512))

/-- Whether a firmware core runs (R471). -/
def State.coreRuns (s : State) (k : Nat) : Bool := s.rg (FW_CORE_STATUS_STATE k) == 2

/-- Whether the gatehouse may start passes and take requests in (R254, R471, R472, `GH.CTRL.EN`). -/
def State.gateOpen (s : State) : Bool := s.on GH_CTRL_EN && !s.on TIDE_APPLY_HI_PEND && s.coreRuns 1

/-- The fields of an OPEN against its set and its prefix source (R245, R247). -/
def State.openBad (s : State) (b : List Byte) (x : ProgSet) : Bool :=
  let maxlen := leAt b 12 4
  let plen := leAt b 24 4
  let best := bit (leAt b 5 1) 0
  let src := leAt b 8 4
  !(reqOk b && within 1 x.tok.maxlenCap maxlen && logitsOk x.tok b &&
    (!best || decide (leAt b 16 2 = 0 ∧ leAt b 18 2 = 0)) && decide (plen + leAt b 20 4 ≤ maxlen) &&
    (if src = 0xFFFFFFFF then plen == 0
      else match s.seqOf src with
        | none => false
        | some r => r.set == x.handle && decide (plen ≤ s.seqLen r.seq)))

/-- Pages that an OPEN reserves in each track, and of them those kept for copies (R246). -/
def pagesPerTrack (maxlen plen : Nat) : Nat × Nat :=
  let lps := ceilDiv maxlen 64
  let c := if plen % 64 ≠ 0 then 1 else 0
  (lps - (if plen = 0 then 0 else (plen - 1) / 64 + 1) + ceilDiv lps 64 + c, c)

/-- A sequence entry that no sequence holds. -/
def State.freeSeqEntry (s : State) : Option Nat :=
  (List.range 2048).find? fun n => (s.seq? n).isNone && !bit (s.ldN (s.seqAddr n + 7) 1) 0

/-- Admits a sequence that has passed its checks (R245 to R247). -/
def State.takeIn (s : State) (q : Nat) (b : List Byte) (tide : Nat) (x : ProgSet) (adp : Option Nat) (n l1 l2 : Nat) : State :=
  let maxlen := leAt b 12 4
  let plen := leAt b 24 4
  let pg := pagesPerTrack maxlen plen
  let tr := x.tok.tracks
  let per := ceilDiv (ceilDiv maxlen 64) 64
  let gen := (s.ldN (s.seqAddr n + 6) 1 + 1) % 256
  let ntok := leAt b 20 4
  let r : SeqRec :=
    { seq := n, gen := gen, set := x.handle, q := q, best := bit (leAt b 5 1) 0, demoteOk := bit (leAt b 5 1) 1
      maxlen := maxlen, sd := leAt b 16 2, fd := leAt b 18 2, adp := adp, resv := pg.1 * tr, cow := pg.2 * tr
      l1row := l1, l2row := l2, l2per := per, prompt := ntok, taddr := leAt b 32 8
      req := if ntok = 0 then none else some (b, tide) }
  let s := s.wr PS_RESV (s.rg PS_RESV + r.resv)
  let s : State := { s with loader := { s.loader with seqs := s.loader.seqs ++ [r] } }
  let s := s.st (s.rg PS_PT_BASE + 512 * l1) (zeros (512 * tr))
  let s := s.st (s.rg PS_PT_BASE + 512 * l2) (zeros (512 * tr * per))
  let s := s.st (s.seqAddr n) (natLE 4 l1 ++ natLE 2 tr ++ natLE 1 gen ++ natLE 1 (1 + 4 * x.tok.kvfmt) ++ natLE 4 0 ++ zeros 20)
  let s := match s.seqOf (leAt b 8 4) with
    | some src => s.sharePrefix src r plen
    | none => s
  let s := s.stN (s.seqAddr n + 8) 4 plen
  let s := match adp with
    | some e => s.bump (WL_ADP_REFS e)
    | none => s
  let s := ((s.psInvSeq n).bump GH_ADMIT).ghShow
  if ntok = 0 then s.stepDone q r.handle b stOk 0 plen 0 0 else s

/-- An OPEN (R245 to R252, R301). -/
def State.openReq (s : State) : State :=
  if ¬ s.gateOpen then s
  else match s.takeStep 0 with
  | none => s
  | some (q, b, tide, s) =>
    match s.set? (leAt b 6 2) with
    | none => s.answer q b stBadDescriptor
    | some x =>
      if x.cls ≠ 2 ∨ x.state ≠ 2 ∨ s.openBad b x then s.answer q b stBadDescriptor
      else match s.adapterFor (leAt b 30 2) with
      | .error c => s.answer q b c
      | .ok adp =>
        let maxlen := leAt b 12 4
        let tr := x.tok.tracks
        let need := (pagesPerTrack maxlen (leAt b 24 4)).1 * tr
        let rows2 := tr * ceilDiv (ceilDiv maxlen 64) 64
        let l1 := s.freePtRows tr []
        let l2 := l1.bind fun a => s.freePtRows rows2 [(a, tr)]
        match s.freeSeqEntry, l1, l2 with
        | some n, some a, some c =>
          if s.rg PS_FREE < s.rg PS_RESV + need then (s.bump GH_REF_MEM).answer q b stRefusedMemory
          else
            let r : SeqRec := { seq := 4096, set := x.handle, best := bit (leAt b 5 1) 0, maxlen := maxlen, sd := leAt b 16 2
                                fd := leAt b 18 2, prompt := leAt b 20 4 }
            if s.on GH_CTRL_HOT ∨ (¬ r.best ∧ (s.splitFor (s.loader.seqs ++ [r]) x).isNone) then
              (s.bump GH_REF_TIME).answer q b stRefusedTime
            else s.takeIn q b tide x adp n a c
        | _, _, _ => (s.bump GH_REF_MEM).answer q b stRefusedMemory

def execOpenCmd (s : State) : Res := .next s.openReq

/-! ## STEP, CANCEL, CLOSE, RECLAIM -/

/-- A STEP (R245). -/
def State.stepReq (s : State) : State :=
  match s.takeStep 1 with
  | none => s
  | some (q, b, tide, s) =>
    match s.seqOf (leAt b 0 4) with
    | none => s.answer q b stBadDescriptor
    | some r =>
      let p := ((s.set? r.set).map fun x => x.tok).getD {}
      if r.req.isSome ∨ r.prompt ≠ 0 ∨ r.ending.isSome ∨ ¬ reqOk b ∨ leAt b 20 4 ≠ 0 ∨ ¬ logitsOk p b ∨
          r.maxlen ≤ s.seqLen r.seq then s.answer q b stBadDescriptor
      else s.onSeq r.seq fun r => { r with q := q, req := some (b, tide) }

def execStep (s : State) : Res := .next s.stepReq

/-- A CANCEL or a CLOSE is noted for the next pass boundary (R256). -/
def State.endReq (s : State) (op status : Nat) : State :=
  match s.takeStep op with
  | none => s
  | some (q, b, _, s) =>
    match s.seqOf (leAt b 0 4) with
    | none => s.answer q b stBadDescriptor
    | some r =>
      if ¬ reqOk b ∨ r.ending.isSome then s.answer q b stBadDescriptor
      else s.onSeq r.seq fun r => { r with ending := some (b, q, status) }

def execCancel (s : State) : Res := .next (s.endReq 2 stCancelled)
def execClose (s : State) : Res := .next (s.endReq 3 stOk)

/-- PARKED of a sequence entry brought up to the books (R261): the entry of a sequence with a step in flight changes only at
the boundary that ends the step (R222). -/
def State.setParked (s : State) (r : SeqRec) : State :=
  let f := s.ldN (s.seqAddr r.seq + 7) 1
  if r.running ∨ bit f 1 = r.parked.isSome then s
  else (s.stN (s.seqAddr r.seq + 7) 1 (f - (if bit f 1 then 2 else 0) + 2 * b2n r.parked.isSome)).psInvSeq r.seq

/-- PARKED of every sequence of a set, at its step boundary. -/
def State.setsParked (s : State) (x : ProgSet) : State :=
  (s.loader.seqs.filter fun r => r.set == x.handle).foldl (fun s r => s.setParked r) s

/-- A RECLAIM (R263). -/
def State.reclaim (s : State) : State :=
  if ¬ s.gateOpen then s
  else match s.takeStep 4 with
  | none => s
  | some (q, b, _, s) =>
    match s.seqOf (leAt b 0 4) with
    | none => s.answer q b stBadDescriptor
    | some r =>
      if ¬ reqOk b ∨ r.parked.isNone ∨ r.ending.isSome then s.answer q b stBadDescriptor
      else
        let seqs := s.loader.seqs.map fun y => if y.seq = r.seq then { y with parked := none } else y
        let ok := r.best || match s.set? r.set with
          | some x => (s.splitFor seqs x).isSome
          | none => false
        if ok then
          let r := { r with parked := none }
          let s := ((s.onSeq r.seq fun _ => r).setParked r).ghShow
          s.seqDone q r b stOk 0 (s.seqLen r.seq) 0 0
        else s.seqDone q r b stRefusedTime 0 (s.seqLen r.seq) 0 0

def execReclaim (s : State) : Res := .next s.reclaim

/-! ## Host loss (R261, R262) -/

/-- A sign of life: a doorbell, or a write of ALIVE, which also clears LOST (R261, R263). -/
def State.doorbell (s : State) : State := { s with loader := { s.loader with alive := s.uptime } }

def execHostAlive (s : State) : Res := .next (s.doorbell.wr GH_HOST_LOST 0)

/-- No sign of life for LIVE_MS: every sequence is parked. -/
def State.hostLost (s : State) : State :=
  if s.on GH_HOST_LOST then s
  else
    let s := ((s.wr GH_HOST_LOST 1).logEntry 0x000E 0xFE 0xFFFF 0 stHostLost).count 19
    (s.loader.seqs.foldl (fun s r => if r.parked.isSome then s
      else ((s.onSeq r.seq fun r => { r with parked := some s.uptime }).setParked { r with parked := some s.uptime }).bump
        GH_PARKED) s).ghShow

def execHostLostTimeout (s : State) : Res := .next s.hostLost

/-- The earlier of two times. -/
def older (a b : Option Nat) : Bool :=
  match a, b with
  | some x, some y => decide (x ≤ y)
  | some _, none => true
  | none, _ => false

/-- The time at which the sequence parked longest, and the capture result kept longest, began to wait. -/
def State.oldestParked (s : State) : Option SeqRec :=
  (s.loader.seqs.filter fun r => r.parked.isSome && r.ending.isNone).foldl (fun b r => match b with
    | some y => if older y.parked r.parked then b else some r
    | none => some r) none
def State.oldestKept (s : State) : Option CapJob :=
  (s.loader.jobs.filter fun j => j.kept.isSome).foldl (fun b j => match b with
    | some y => if older y.kept j.kept then b else some j
    | none => some j) none

/-- PARK_S seconds have passed for the sequence or the kept capture result that has waited longest (R262). -/
def State.parkTimeout (s : State) : State :=
  let job (s : State) (j : CapJob) : State :=
    (({ s.dropClient j.client with loader := { s.loader with jobs := s.loader.jobs.filter fun y => y.handle != j.handle } }).bump
      GH_LOSTCNT).postEvent
      0x0011 1 j.handle (natLE 1 stHostLost)
  let seq (s : State) (r : SeqRec) : State := s.onSeq r.seq fun y => { y with ending := some ([], r.q, stHostLost) }
  match s.oldestParked, s.oldestKept with
  | none, none => s
  | some r, none => seq s r
  | none, some j => job s j
  | some r, some j => if older r.parked j.kept then seq s r else job s j

def execParkTimeout (s : State) : Res := .next s.parkTimeout

/-! ## Barriers (R295 to R297, R321) -/

/-- Why the barrier of a binding is closed: TIMEOUT for a replacement, UNCORRECTABLE for a POISONED layer or a BAD page. It
opens onto the newest version, to which the binding switches there (R296). -/
def State.barrierShut (s : State) (b : Binding) : Option Nat :=
  match s.model? b.model with
  | none => none
  | some m =>
    let bad := match m.newest? b.layer with
      | some l => l.poisoned || s.pool.pages.any fun p => p.client == m.client && p.layer == m.lkey b.layer && p.ver == l.ver && p.bad
      | none => false
    if bad then some stUncorrectable
    else if s.loader.inplace.any fun i => i.closed && i.modelId == m.modelId && m.adp.isNone && i.layers.contains b.layer then
      some stTimeout
    else none

/-- Why a set's tide `ph` may not start. -/
def State.setHeld (s : State) (x : ProgSet) (ph : Nat) : Option Nat :=
  (x.binds.filter fun b => b.tidx == ph).foldl (fun a b => match a, s.barrierShut b with
    | some c, some d => some (if c = stUncorrectable ∨ d = stUncorrectable then stUncorrectable else stTimeout)
    | some c, none => some c
    | none, d => d) none

/-- Whether the bound of a request has come: the boundary by which its completion was to be written (R248). -/
def State.boundPassed (s : State) (x : ProgSet) (r : SeqRec) : Bool :=
  match r.req with
  | none => false
  | some (b, t) =>
    let nd := (counted s.loader.seqs x).length
    let T := if leAt b 4 1 = 0 then s.tidesPre x (max r.prompt (queuedTok s.loader.seqs x)) x.d else s.tidesDec x (max 1 nd) x.d
    decide (t + T ≤ s.rg TIDE_NUM)

/-- Steps of a set whose bound has passed end with a status (R254, R297). -/
def State.timeOut (s : State) (x : ProgSet) (status : Nat) : State :=
  (s.loader.seqs.filter fun r => r.set == x.handle && r.ending.isNone && s.boundPassed x r).foldl (fun s r =>
    (s.stepEnd r status 0 0 x.pass).onSeq r.seq fun r => { r with prompt := 0 }) s

/-! ## Ends of sequences and of passes -/

/-- A sequence ends at a pass boundary with the status of its CANCEL, its CLOSE or its parking (R256, R262). -/
def State.endSeq (s : State) (r : SeqRec) (step : Nat) : State :=
  match r.ending with
  | none => s
  | some (b, q, status) =>
    let len := s.seqLen r.seq
    let s := if status = stHostLost then s.bump GH_LOSTCNT else s
    let s := s.stepEnd r status 0 0 step
    let s := if b.isEmpty then s else s.seqDone q (if r.req.isSome then { r with demoted := false } else r) b status 0 len 0 step
    s.freeSeq r

/-- Status of an entry's step: the first report of its sequence in this pass (R258). -/
def State.reportOf (s : State) (step seq : Nat) : Nat :=
  match s.ps.reports.find? fun x => x.1 == step % 65536 && x.2.1 == seq && x.2.2 != 0x100 with
  | some x => x.2.2
  | none => stOk

/-- Bytes of one logits element or entry, and how many (R259). -/
def logitsShape (p : TokPar) (b : List Byte) : Nat × Nat :=
  if bit (leAt b 5 1) 2 then (if bit (leAt b 5 1) 3 then 2 else 4, p.vocab) else (8, leAt b 28 2)

/-- Whether a pass-list entry ends a step with logits. -/
def PassEnt.ends (e : PassEnt) : Bool := e.dec || bit e.flags 1

/-- The tokens that a pass committed for a sequence. -/
def passTokens (l : List PassEnt) (seq : Nat) : Nat := (l.filter fun e => e.seq == seq).foldl (fun a e => a + e.qn) 0

/-- The logits of the `i`-th entry of a pass that ends with them (R259), none when a row cannot be corrected. -/
def State.logits (s : State) (x : ProgSet) (b : List Byte) (i : Nat) : Option (List Byte) × State :=
  match x.stages.getLast? with
  | none => (some [], s)
  | some g => s.tsBytes g.t (x.tok.lrow + i * x.tok.lstride) ((logitsShape x.tok b).1 * (logitsShape x.tok b).2)

/-- One sequence's step at the end of its pass (R244, R258, R259); `i`: its place among the entries that end with logits.
DESIGN CHOICE: logits that cannot be read end the step with UNCORRECTABLE, as the entry of R258 does. -/
def State.passEntryEnd (s : State) (x : ProgSet) (e : PassEnt) (i : Nat) : State :=
  match s.seq? e.seq with
  | none => s
  | some r =>
    match r.req with
    | none => s
    | some (b, _) =>
      if ¬ r.running ∨ r.gen ≠ e.gen then s
      else
        let lg := if e.ends ∧ s.reportOf x.pass e.seq = stOk ∧ r.ending.isNone then s.logits x b i else (some [], s)
        let code := if lg.1.isNone then stUncorrectable else s.reportOf x.pass e.seq
        let s := lg.2
        if code ≠ stOk then (s.stepEnd r code 0 0 x.pass).onSeq r.seq fun r => { r with prompt := 0 }
        else
          let n := passTokens x.ents e.seq
          let s := (s.stN (s.seqAddr r.seq + 8) 4 (s.seqLen r.seq + n)).psInvSeq r.seq
          if ¬ e.ends then
            s.onSeq r.seq fun r => { r with running := false, prompt := r.prompt - n, taddr := r.taddr + 4 * n, first := false }
          else
            let s := s.onSeq r.seq fun r => { r with prompt := 0, first := false }
            let empty := s.ps.reports.contains (x.pass % 65536, e.seq, 0x100)
            if r.ending.isSome then s
            else (s.hostSt (leAt b 40 8) (lg.1.getD [])).stepEnd r stOk (4 + 8 * b2n empty) (logitsShape x.tok b).2 x.pass

/-- The end of a pass (R244): the entries in list order, each sequence once, at its last entry. -/
def State.passEnd (s : State) (x : ProgSet) : State :=
  let last (k : Nat) (e : PassEnt) : Bool := !(x.ents.drop (k + 1)).any fun y => y.seq == e.seq
  let mine (q : Nat) : Bool := (s.seq? q).all fun r => r.set == x.handle
  let r := (x.ents.mapIdx fun k e => (k, e)).foldl (fun (a : State × Nat) ke =>
    let e := ke.2
    let s := if last ke.1 e then a.1.passEntryEnd x e a.2 else a.1
    (s, a.2 + b2n e.ends)) (s, 0)
  let s := r.1.unpinStep (x.pass % 65536) mine
  s.onSet x.handle fun x => { x with inPass := false, ents := [], reps := 0, pass := (x.pass + 1) % 65536 }

/-- A pass whose allowance of repeats is spent (R257). -/
def State.passAbandon (s : State) (x : ProgSet) : State :=
  let s := (x.ents.map fun e => e.seq).eraseDups.foldl (fun s n => match s.seq? n with
    | some r => if r.running ∧ r.ending.isNone then (s.stepEnd r stUncorrectable 0 0 x.pass).onSeq n fun r => { r with prompt := 0 } else s
    | none => s) s
  let s := s.unpinStep (x.pass % 65536) fun q => (s.seq? q).all fun r => r.set == x.handle
  s.onSet x.handle fun x => { x with inPass := false, ents := [], reps := 0, pass := (x.pass + 1) % 65536 }

/-! ## Shedding (R253) -/

/-- At a step boundary of set `h`, the most recently admitted deadline sequences go until every check holds at some split, on
fuel. One of another set, or with a step in flight, ends at its own set's next step boundary (R222, R235). DESIGN CHOICE: one
that a CANCEL or CLOSE is to end keeps that end. -/
def State.shed (h : Nat) : State → Nat → State
  | s, 0 => s
  | s, f + 1 =>
    let ok := s.tokenSets.all fun x => (counted s.loader.seqs x).isEmpty || (s.splitFor s.loader.seqs x).isSome
    if ok then s
    else match (s.loader.seqs.filter fun r => !r.best && r.parked.isNone && !r.cut).getLast? with
    | none => s
    | some r =>
      if r.demoteOk then
        State.shed h ((s.onSeq r.seq fun r => { r with best := true, demoted := true }).bump GH_DEMOTE) f
      else
        let s := s.bump GH_REF_TIME
        State.shed h (if r.running ∨ r.ending.isSome ∨ r.set ≠ h then s.onSeq r.seq fun r =>
            { r with cut := true, ending := r.ending.orElse fun _ => some ([], r.q, stRefusedTime) }
          else (s.stepEnd r stRefusedTime 0 0 0).freeSeq r) f

/-! ## The pass list (R243, R255, R302) -/

/-- Chunks of a prompt within a pass: at most `NBS_P` tokens each, on fuel. -/
def promptChunks (r : SeqRec) (b : List Byte) (nbs : Nat) : Nat → Nat → Nat → List PassEnt
  | 0, _, _ => []
  | f + 1, done, left =>
    let n := min nbs (min left (r.prompt - done))
    if n = 0 then []
    else
      { seq := r.seq, gen := r.gen, flags := b2n (r.first && done == 0) + 2 * b2n (done + n == r.prompt) +
          4 * bits (leAt b 5 1) 2 2, token := 4 * done, qn := n, k := leAt b 28 2, dec := false } ::
        promptChunks r b nbs f (done + n) (left - n)

/-- The sequences that wait for a pass: prompts in order of admission (R248); decode requests by arrival, those with a
deadline first (DESIGN CHOICE). -/
def State.waiting (s : State) (x : ProgSet) (dec : Bool) : List SeqRec :=
  let l := s.loader.seqs.filter fun r => r.set == x.handle && r.parked.isNone && r.ending.isNone && r.req.isSome &&
    (r.prompt == 0) == dec
  let ins (r : SeqRec) (l : List SeqRec) : List SeqRec :=
    let t (r : SeqRec) : Nat := (r.req.map fun q => q.2).getD 0
    (l.takeWhile fun y => decide (t y ≤ t r)) ++ r :: l.dropWhile fun y => decide (t y ≤ t r)
  if dec then
    let l := l.foldl (fun a r => ins r a) []
    (l.filter fun r => !r.best) ++ l.filter fun r => r.best
  else l

/-- Whether a pass whose decode batch is `dec` meets every check, with `prompt` queued tokens of BEST sequences among its
prompts (R248 to R251): each BEST sequence of it counts as one of the books' sequences. -/
def State.joinOk (s : State) (x : ProgSet) (dec : List SeqRec) (prompt : Nat) : Bool :=
  let seqs := s.loader.seqs
  let here := sortDesc (dec.map fun r => r.maxlen)
  let f (y : ProgSet) : List Nat := let a := batchOf seqs y y.d
    if y.handle ≠ x.handle ∨ (here.length ≤ a.length ∧ (here.zip a).all (fun p => decide (p.1 ≤ p.2))) then a else here
  s.boundsOk seqs x x.d ((counted seqs x).length + (dec.filter fun r => r.best).length) (queuedTok seqs x + prompt) &&
    s.attOk f && s.shareOk f fun y => y.d

/-- The sequences of a pass's decode batch. -/
def State.decodeBatch (s : State) (x : ProgSet) : List SeqRec :=
  (s.waiting x true).foldl (fun l r =>
    if min (x.d * x.tok.nbsD) x.tok.lcount ≤ l.length then l
    else if r.best ∧ ¬ s.joinOk x (l ++ [r]) 0 then l
    else l ++ [r]) []

/-- The entries of a pass's prefill batch beside the decode batch `dec`: of the entries with logits, as many as the buffer has
room for (R259); a BEST prompt joins where every check allows it (R251). -/
def State.prefillBatch (s : State) (x : ProgSet) (dec : List SeqRec) : List PassEnt :=
  ((s.waiting x false).foldl (fun (a : List PassEnt × Nat × Nat × Nat) r =>
    match r.req with
    | none => a
    | some (b, _) =>
      let best := a.2.2.2 + if r.best then r.prompt else 0
      let l := promptChunks r b x.tok.nbsP 4097 0 a.2.1
      let n := (l.filter PassEnt.ends).length
      if a.2.2.1 < n ∨ (r.best ∧ ¬ s.joinOk x dec best) then a
      else (a.1 ++ l, a.2.1 - l.foldl (fun m e => m + e.qn) 0, a.2.2.1 - n, best))
    ([], (x.tok.ts - x.d) * x.tok.nbsP, x.tok.lcount - dec.length, 0)).1

/-- Bytes of a pass list, its TOKEN fields in place. -/
def passListBytes (step : Nat) (l : List PassEnt) : List Byte :=
  natLE 2 (l.filter fun e => e.dec).length ++ natLE 2 (l.filter fun e => !e.dec).length ++ natLE 2 step ++ zeros 26 ++
    (l.map fun e => natLE 2 e.seq ++ natLE 1 e.gen ++ natLE 1 e.flags ++ natLE 4 e.len ++ natLE 4 e.token ++
      natLE 2 e.qn ++ natLE 2 e.k).flatten

/-- Writes the pass list, the adapter list after it and the prompt tokens after that, in every terrace of the set. -/
def State.writePass (s : State) (x : ProgSet) (ents : List PassEnt) : State :=
  let rows := ceilDiv (32 + 16 * ents.length) 512
  let adp := ents.map fun e => natLE 2 (((s.seq? e.seq).bind fun r => r.adp).getD 0xFFFF)
  let arows := ceilDiv (2 * ents.length) 512
  let placed := ents.foldl (fun (a : List (PassEnt × List Byte) × Nat) e =>
    if e.dec then (a.1 ++ [(e, [])], a.2)
    else
      let b := s.hostLd (((s.seq? e.seq).map fun r => r.taddr).getD 0 + e.token) (4 * e.qn)
      (a.1 ++ [({ e with token := a.2 }, b)], a.2 + ceilDiv (4 * e.qn) 512)) ([], x.tok.plist + rows + arows)
  let list := passListBytes x.pass (placed.1.map fun p => p.1)
  let s := x.terraces.foldl (fun s t =>
    let s := s.tsPut (tsAddr t x.tok.plist) (fitTo (512 * rows) list)
    let s := if arows = 0 then s else s.tsPut (tsAddr t (x.tok.plist + rows)) (fitTo (512 * arows) adp.flatten)
    placed.1.foldl (fun s p => if p.1.dec then s else s.tsPut (tsAddr t p.1.token) p.2) s) s
  s.onSet x.handle fun x => { x with ents := placed.1.map fun p => p.1 }

/-- Builds and starts the next pass of a set, or writes an empty list when none starts (R243, R254, R261). -/
def State.startPass (s : State) (x : ProgSet) : State :=
  let go := s.gateOpen && !s.on GH_HOST_LOST
  let dec := if go then s.decodeBatch x else []
  let decE := dec.filterMap fun r => r.req.map fun q =>
    ({ seq := r.seq, gen := r.gen, flags := 4 * bits (leAt q.1 5 1) 2 2, token := leAt q.1 8 4, qn := 1, k := leAt q.1 28 2 } : PassEnt)
  let pre := if go then s.prefillBatch x dec else []
  let ents := (decE ++ pre).map fun e => { e with len := s.seqLen e.seq }
  let s := (ents.map fun e => e.seq).eraseDups.foldl (fun s n => match s.seq? n with
    | some r => (s.mapFor r (passTokens ents n)).onSeq n fun r => { r with running := true }
    | none => s) s
  (s.writePass x ents).onSet x.handle fun x => { x with inPass := !ents.isEmpty, ph := 0, reps := 0 }

/-- `SEQ.PHASE` of each station of the set for the tide that begins (R243). -/
def State.setPhases (s : State) (x : ProgSet) : State :=
  x.stages.foldl (fun s g =>
    let k := (x.stages.filter fun y => y.t == g.t && decide (promIdx y.t y.p < promIdx g.t g.p)).length
    let p := s.land g.t g.p
    s.wr (SEQ_PHASE_PHASE g.t p) (32768 * b2n (x.d ≤ k) + x.ph)) s

/-! ## The boundary (R242 to R258, R300) -/

/-- Superseded adapter entries that no sequence reads are freed (R300). -/
def State.freeAdapters (s : State) : State :=
  (List.range 64).foldl (fun s e =>
    if s.on (WL_ADP_VALID e) ∧ ¬ s.on (WL_ADP_CURRENT e) ∧ s.rg (WL_ADP_REFS e) = 0 then
      match s.pool.models.find? fun m => m.adp == some e with
      | some m => s.dropModel m
      | none => s.wr (WL_ADP_VALID e) 0
    else s) s

/-- The number of the pass that ends at a pass boundary, for a step of a sequence that ran in it. -/
def ProgSet.passOf (x : ProgSet) (r : SeqRec) : Nat := if r.running then (x.pass + 65535) % 65536 else x.pass

/-- A pass boundary of a set: endings, frees, shedding, reclaim, the split, the next list. `pend`: an apply was armed in the
tide that ended (R254). -/
def State.passBoundary (s : State) (x : ProgSet) (pend : Bool) : State :=
  let s := (s.loader.seqs.filter fun r => r.set == x.handle && r.ending.isSome).foldl (fun s r => s.endSeq r (x.passOf r)) s
  let s := (s.setsParked x).shed x.handle (s.loader.seqs.length + 1)
  let s := s.psReclaim.freeAdapters
  let s := if pend then s.timeOut x stTimeout else s
  let s := if s.coreRuns 1 ∧ s.loader.schedLate.contains x.handle then
      let s : State := { s with loader := { s.loader with schedLate := s.loader.schedLate.erase x.handle } }
      s.timeOut x stTimeout
    else s
  let d := s.splitAt x
  let s := (s.onSet x.handle fun x => { x with d := d }).ghShow
  match s.set? x.handle with
  | some x => s.startPass x
  | none => s

/-- Whether a set comes to a pass boundary now; `lost`: a tide of it was abandoned (R242, R257). -/
def State.passEnds (s : State) (x : ProgSet) (lost : Bool) : Bool :=
  !x.inPass || (!x.held && (if lost then decide (s.rg GH_CTRL_REPEATS ≤ x.reps) else decide (x.tok.ph ≤ x.ph + 1)))

/-- A set's tide boundary; `lost`: a tide of the set was abandoned in some terrace, which a repeat makes up for (R257). -/
def State.gateTide (s : State) (x : ProgSet) (lost pend : Bool) : State :=
  let s :=
    if ¬ x.inPass ∨ x.held then s
    else if lost then
      if s.rg GH_CTRL_REPEATS ≤ x.reps then s.passAbandon x
      else (s.bump GH_REPEAT).onSet x.handle fun x => { x with reps := x.reps + 1 }
    else if x.ph + 1 < x.tok.ph then s.onSet x.handle fun x => { x with ph := x.ph + 1 }
    else s.passEnd x
  let at' (s : State) (f : State → ProgSet → State) : State := match s.set? x.handle with
    | some x => f s x
    | none => s
  let s := at' s fun s x => if x.inPass then s else s.passBoundary x pend
  let s := at' s fun s x => match s.setHeld x x.ph with
    | some c => (s.timeOut x c).onSet x.handle fun x => { x with held := true }
    | none => s.onSet x.handle fun x => { x with held := false }
  at' s fun s x => if x.held then s else s.setPhases x

/-- No window of R510 is open for terrace `t`: each of its token sets is at a pass boundary, with no sequence that waits to
end. DEDUCED from the windows' bound of one pass. -/
def State.ghQuiet (s : State) (t : Nat) : Bool := s.tokenSets.all fun x => !x.terraces.contains t ||
  ((!x.inPass || (x.ph == 0 && x.reps == 0 && !x.held)) && s.loader.seqs.all fun r => r.set != x.handle || r.ending.isNone)

/-- The gatehouse check of a tide boundary fails in some terrace (R511). -/
def State.ghOver (s : State) : Bool :=
  (List.range 12).any fun t => s.ghQuiet t && decide (s.rg (GH_TB_BUDGET t) < s.rg (GH_USE t))

/-- The boundary of every token set. -/
def State.gateBoundary (s : State) (lost : ProgSet → Bool) (pend : Bool) : State :=
  (s.tokenSets.filter fun x => x.state == 2).foldl (fun s x => s.gateTide x (lost x) pend) s

end Sys2Proof.Machine
end

