-- ==== Sys2Proof/Machine/Capture.lean ====
section
/-! DEFINITION. Capture training (R264 to R268): the start of a job, its training steps with the optimiser, the export. -/

namespace Sys2Proof.Machine

def wDiv (a b : Nat) : Nat := encW ((decW a).div (decW b))
def wSub (a b : Nat) : Nat := encW ((decW a).sub (decW b))
def wSqrt (a : Nat) : Nat := encW (decW a).sqrt
def wOne : Nat := 0x3F800000

/-! ## The parameter block (R264, R465) -/

/-- The fields of the block, in the table's order. -/
def CapJob.of (b : List Byte) : CapJob :=
  { set := leAt b 0 2, nparam := leAt b 4 4, pair := leAt b 8 8, nsamp := leAt b 16 4, seg := leAt b 20 4
    stride := leAt b 24 4, seed := leAt b 28 4, epochs := leAt b 32 2, lr := leAt b 36 4, b1 := leAt b 40 4
    b2 := leAt b 44 4, eps := leAt b 48 4, c1 := leAt b 52 4, c2 := leAt b 56 4, state := leAt b 60 8, out := leAt b 68 8
    lossrow := leAt b 76 4, lmap := leAt b 80 8, nlmap := leAt b 88 4, expfmt := leAt b 92 4, expgrp := leAt b 96 4
    emodel := leAt b 100 8, emver := leAt b 108 4, ekeyid := leAt b 112 4 }

def CapJob.nseg (j : CapJob) : Nat := j.nsamp / j.seg

/-- The layer map's entries. -/
def State.mapEntry (s : State) (j : CapJob) (i : Nat) : List Byte := s.ld (j.lmap + 32 * i) 32

/-- An entry of the layer map against the parameters (R268). -/
def mapOk (nparam : Nat) (e : List Byte) : Bool :=
  decide (leAt e 0 2 < 4096 ∧ leAt e 2 1 < 4) && within 1 1048576 (leAt e 4 4) && within 1 1048576 (leAt e 8 4) &&
    decide (leAt e 16 4 + leAt e 4 4 * leAt e 8 4 ≤ nparam)

/-- The ranges of R264. -/
def State.capOk (s : State) (b : List Byte) : Bool :=
  let j := CapJob.of b
  decide (116 ≤ b.length ∧ leAt b 2 2 = 0 ∧ leAt b 34 2 = 0) &&
    (s.loader.sets.any fun x => x.handle == j.set && x.cls == 3) &&
    within 1 8000000 j.nparam && within 512 8192 j.seg && decide (j.seg % 32 = 0) && within (32 * j.seg) 57600000 j.nsamp &&
    decide (1 ≤ j.epochs ∧ j.lossrow ≤ 4095) && within 1 4096 j.nlmap && [0, 1, 3, 5].contains j.expfmt &&
    (j.expfmt == 5 || within 1 3 j.expgrp) && within 1 65535 j.emver && decide (Nat.gcd j.stride j.nseg = 1) &&
    (List.range j.nlmap).all fun i => mapOk j.nparam (s.mapEntry j i)

/-- The segments of batch `k` of epoch `ep`, by lane (R265). -/
def CapJob.segments (j : CapJob) (ep k : Nat) : List Nat :=
  (List.range 32).map fun i => ((32 * k + i) * j.stride + j.seed + ep) % j.nseg

def State.onJob (s : State) (h : Nat) (f : CapJob → CapJob) : State :=
  { s with loader := { s.loader with jobs := s.loader.jobs.map fun j => if j.handle = h then f j else j } }

/-- The samples of the segments of a batch as DMA stages them (R265). DESIGN CHOICE: the spec names no rows for these held inputs,
so they stay with the job. -/
def State.samples (s : State) (j : CapJob) (ep k : Nat) : List (List Byte) :=
  (j.segments ep k).map fun i =>
    s.ld (j.pair + 4 * j.seg * i) (4 * j.seg) ++ s.ld (j.pair + 4 * j.nsamp + 4 * j.seg * i) (4 * j.seg)

/-- A job with batch `k` of epoch `ep` staged. -/
def State.withBatch (s : State) (j : CapJob) (ep k : Nat) : CapJob :=
  { j with epoch := ep, batch := k, feed := j.segments ep k, fed := s.samples j ep k }

/-- The pool pages that an area covers. -/
def pagesOf (a n : Nat) : List Nat := (List.range (ceilDiv (a % 65536 + n) 65536)).map fun i => a / 65536 + i

/-- Bytes of the package that a job exports (R268). -/
def State.exportLen (s : State) (j : CapJob) : Nat :=
  (List.range j.nlmap).foldl (fun a i => let e := s.mapEntry j i; a + ceilDiv (2 * (leAt e 4 4 * leAt e 8 4)) 512 * 512)
    (512 + ceilDiv (64 * j.nlmap) 512 * 512)

/-- The pages that a job's client comes to hold: those of its STATE and PAIR areas, none unless all are free, and those of the
export area that are free (R305, R306). DESIGN CHOICE: an area whose pages another client holds does not fit. -/
def State.capPages (s : State) (j : CapJob) : Option (List Nat) :=
  let need := (pagesOf j.state (18 * j.nparam) ++ pagesOf j.pair (8 * j.nsamp)).eraseDups
  if ¬ s.inDram j.state (18 * j.nparam) ∨ ¬ s.inDram j.pair (8 * j.nsamp) ∨ ¬ need.all s.pageFree then none
  else
    let out := if s.inDram j.out (s.exportLen j) then (pagesOf j.out (s.exportLen j)).filter fun g => !need.contains g && s.pageFree g
      else []
    some (need ++ out)

/-- A CAPTURE_START entry (R264). -/
def State.captureStart (s : State) : State :=
  match s.takeOp 5 with
  | none => s
  | some (q, e, s) =>
    let tag := leAt e 16 8
    let b := s.ldSpace (leAt e 8 8) (leAt e 24 8)
    let s := s.spaceErr (leAt e 8 8) (leAt e 24 8)
    let refuse (c : Nat) : State := s.complete q (s.cmdCompletion 5 c 0 0 tag 0xFFFF)
    let j := CapJob.of b
    if leAt e 1 1 ≠ 0 ∨ ¬ allZero (slice e 2 6) ∨ ¬ allZero (slice e 32 32) ∨ ¬ s.capOk b then refuse stBadDescriptor
    else if ¬ s.feature 1 then refuse stRefusedVersion
    else if 2 ≤ (s.loader.jobs.filter fun j => j.kept.isNone).length then refuse stRefusedMemory
    else match s.freeClient, s.capPages j with
      | some c, some l =>
        let h := s.loader.nextJob
        let j := s.withBatch { j with handle := h, q := q, client := c } 0 0
        let s := s.register c 4
        let s : State := { s with
          loader := { s.loader with jobs := s.loader.jobs ++ [j], nextJob := h + 1 }
          pool := { s.pool with pages := s.pool.pages ++ l.map fun g =>
            ({ client := c, idx := g, t1 := some g, prot := s.protectedAt (65536 * g - dramBase) } : PageRec) } }
        s.books.complete q (s.cmdCompletion 5 stOk h 0 tag 0xFFFF)
      | _, _ => refuse stRefusedMemory

def execCaptureStart (s : State) : Res := .next s.captureStart

/-! ## The optimiser (R266) -/

/-- The optimiser on one parameter's w, m, v and g, with a and b: the new w, m and v. -/
def CapJob.adam (j : CapJob) (a b w m v g : Nat) : Nat × Nat × Nat :=
  let m := wFma m j.b1 (wMul g j.c1)
  let v := wFma v j.b2 (wMul (wMul g g) j.c2)
  (wSub w (wDiv (wMul m a) (wAdd (wSqrt (wMul v b)) j.eps)), m, v)

/-- A batch's gradient of one parameter added to g in FP32 (R266). DESIGN CHOICE: the spec does not say how the set hands its
gradients over, so each is a free value. -/
def State.gradAt (s : State) (j : CapJob) (i : Nat) : State :=
  let f := s.free
  let o := j.state + 18 * i + 12
  f.2.st o (natLE 4 (wAdd (f.2.ldN o 4) (f.1 % 2 ^ 32)))

/-- One parameter of the STATE area updated. -/
def State.adamAt (s : State) (j : CapJob) (a b i : Nat) : State :=
  let o := j.state + 18 * i
  let x := s.ld o 18
  let r := j.adam a b (leAt x 0 4) (leAt x 4 4) (leAt x 8 4) (leAt x 12 4)
  s.st o (natLE 4 r.1 ++ natLE 4 r.2.1 ++ natLE 4 r.2.2 ++ zeros 4 ++ natLE 2 (convB (decW r.1)).code)

/-- The gradient and the optimiser on every parameter, for the next step number. -/
def State.optimise (s : State) (j : CapJob) : State :=
  let p1 := wMul j.p1 j.b1
  let p2 := wMul j.p2 j.b2
  let a := wDiv j.lr (wSub wOne p1)
  let b := wDiv wOne (wSub wOne p2)
  ((List.range j.nparam).foldl (fun s i => (s.gradAt j i).adamAt j a b i) s).onJob j.handle fun j => { j with u := j.u + 1, p1 := p1, p2 := p2 }

/-! ## The export (R268) -/

/-- The layer record of a map entry, its body at offset `off`. -/
def CapJob.layerRec (j : CapJob) (e body : List Byte) (off : Nat) : List Byte :=
  let quant := j.expfmt ≠ 5
  let r0 : LRec := ⟨natLE 2 (leAt e 0 2) ++ [2#8] ++ natLE 1 j.expfmt ++ [5#8] ++ natLE 1 (if quant then j.expgrp else 0) ++
    natLE 1 (leAt e 2 1) ++ natLE 1 (if quant then 2 else 0) ++ slice e 4 12⟩
  r0.b ++ natLE 4 r0.slots ++ natLE 4 (if quant then r0.scales else 0) ++ natLE 4 (off / 512) ++
    natLE 4 (body.length / 512) ++ natLE 4 (crc32c body) ++ zeros 24

/-- The matrix of a map entry: the working copies of its parameters, to a 512-byte boundary. -/
def State.capMatrix (s : State) (j : CapJob) (e : List Byte) : List Byte :=
  let n := leAt e 4 4 * leAt e 8 4
  fitTo (ceilDiv (2 * n) 512 * 512) ((List.range n).map fun i => s.ld (j.state + 18 * (leAt e 16 4 + i) + 16) 2).flatten

/-- The exported package. -/
def State.capPackage (s : State) (j : CapJob) (name : List Byte) : List Byte :=
  let ents := (List.range j.nlmap).map fun i => s.mapEntry j i
  let tlen := ceilDiv (64 * j.nlmap) 512 * 512
  let bodies := ents.map fun e => (e, s.capMatrix j e)
  let recs := bodies.foldl (fun (a : List Byte × Nat) x => (a.1 ++ j.layerRec x.1 x.2 a.2, a.2 + x.2.length)) ([], 512 + tlen)
  let table := fitTo tlen recs.1
  let h := natLE 4 0x50575646 ++ natLE 2 1 ++ natLE 2 0 ++ natLE 8 j.emodel ++ natLE 2 j.emver ++ natLE 2 j.nlmap ++
    natLE 4 j.ekeyid ++ natLE 8 recs.2 ++ natLE 2 0xFFFF ++ natLE 2 0 ++ fitTo 24 name ++ natLE 4 (crc32c table)
  let hcrc := crc32c (fitTo 512 h)
  fitTo 512 (h ++ natLE 4 hcrc) ++ table ++ (bodies.map fun x => x.2).flatten

/-! ## Steps and ends -/

/-- A job ends: CAPTURE_DONE is posted, and the result of a job that ends while the host is lost is kept (R262). -/
def State.jobEnd (s : State) (j : CapJob) (status len : Nat) : State :=
  let s := s.postEvent 0x0011 1 j.handle (natLE 1 status ++ zeros 7 ++ natLE 8 len)
  if s.on GH_HOST_LOST then s.onJob j.handle fun j => { j with kept := some s.uptime }
  else { s.dropClient j.client with loader := { s.loader with jobs := s.loader.jobs.filter fun y => y.handle != j.handle } }

/-- The end of one batch's step: the optimiser, the loss, the end of the epoch and of the job (R265, R266, R268). -/
def State.trainStep (s : State) (h : Nat) : State :=
  match s.loader.jobs.find? fun j => j.handle == h && j.kept.isNone with
  | none => s
  | some j =>
    match s.set? j.set with
    | none => s
    | some x =>
      if x.state ≠ 2 then s
      else
        let s := s.optimise j
        let l := match x.stages.getLast? with
          | some g => s.tsBytes g.t j.lossrow 4
          | none => (none, s)
        let s := l.2
        let loss := match l.1 with
          | some b => wAdd j.loss (leNat b)
          | none => j.loss
        let last := j.nseg / 32 ≤ j.batch + 1
        let ep := if last then j.epoch + 1 else j.epoch
        let k := if last then 0 else j.batch + 1
        let s := s.onJob h fun j => { s.withBatch j ep k with loss := if last then 0 else loss }
        let s := if last then s.postEvent 0x0012 1 h (natLE 4 j.epoch ++ natLE 4 loss) else s
        if j.cancel then s.jobEnd j stCancelled 0
        else if last ∧ j.epochs ≤ ep then
          let p := s.capPackage j x.stream
          (s.st j.out p).jobEnd j stOk p.length
        else s

def execCaptureTrainingStep (job : BitVec 32) (s : State) : Res := .next (s.trainStep job.toNat)

/-- A CAPTURE_CANCEL entry (R268, R464): a running job ends at its next step boundary, a suspended one at once. -/
def State.captureCancel (s : State) : State :=
  match s.takeOp 6 with
  | none => s
  | some (q, e, s) =>
    let tag := leAt e 16 8
    let h := leAt e 32 4
    match s.loader.jobs.find? fun j => j.handle == h && j.kept.isNone with
    | none => s.complete q (s.cmdCompletion 6 stBadDescriptor h 0 tag 0xFFFF)
    | some j =>
      let s := s.complete q (s.cmdCompletion 6 stOk h 0 tag 0xFFFF)
      match s.set? j.set with
      | some x => if x.state = 2 then s.onJob h fun j => { j with cancel := true } else s.jobEnd j stCancelled 0
      | none => s.jobEnd j stCancelled 0

def execCaptureCancel (s : State) : Res := .next s.captureCancel

end Sys2Proof.Machine
end

