-- ==== Sys2Proof/Machine/Held.lean ====
section
/-! DEFINITION. HELD pairs (R128): rows written for the next tide, completed entries, the change at the boundary. -/

namespace Sys2Proof.Machine

/-- The entry of the pair at `k` that serves the tide after the current one. -/
def State.heldNext (s : State) (k : Nat) : Nat := k + (s.rg TIDE_NUM + 1) % 2

/-- A row of a slot written by a port. -/
def State.slotRow (s : State) (t p k row : Nat) (b : List Byte) : State :=
  s.writeRow t p (s.rg (SLOT_CFG_MEM t p k)) (s.rg (SLOT_CFG_BASE t p k) + row) b

/-- Consecutive rows over the pairs from entry `k` (eight rows to an entry), for the tide after the current one. -/
def State.heldRows (s : State) (t p k row : Nat) : List (List Byte) → State
  | [] => s
  | b :: l => (s.slotRow t p (s.heldNext (k + 2 * (row / 8))) (row % 8) b).heldRows t p k (row + 1) l

/-- Entries complete: the first of `rows` rows from the pair at `k`. -/
def State.heldDone (s : State) (t p k rows : Nat) : State :=
  s.onStn t p fun v => { v with filled := v.filled ++ (List.range (ceilDiv rows 8)).map fun i => s.heldNext (k + 2 * i) }

/-- At boundary n the complete entry of each pair is set and the other is cleared. -/
def State.heldFlip (s : State) (t p : Nat) : State :=
  let done := (s.stn t p).filled
  let n := s.rg TIDE_NUM
  let s := (List.range 32).foldl (fun s i =>
    let k := 2 * i
    if s.on (SLOT_CFG_EN t p k) ∧ s.rg (SLOT_CFG_KIND t p k) = 2 then
      let s := if done.contains (k + n % 2) then s.setPresent t p (k + n % 2) else s.clearPresent t p (k + n % 2)
      s.clearPresent t p (k + (n + 1) % 2)
    else s) s
  s.onStn t p fun v => { v with filled := [] }

end Sys2Proof.Machine
end

