-- ==== Sys2Proof/Machine/Vision.lean ====
section
/-! DEFINITION. The vision ports and image pipelines (chapter 15): lines and frames, the pipeline's stages, outputs,
publication into stations, the time-multiplexed mode. -/

namespace Sys2Proof.Machine

/-! ## Parameter sets (R377, R378) -/

def psFlag (b : List Byte) (i : Nat) : Bool := bit (leAt b 12 4) i
def psBl (b : List Byte) (q : Nat) : Nat := leAt b (16 + 2 * q) 2
def psWb (b : List Byte) (k : Nat) : Nat := leAt b (24 + 2 * k) 2
def psNdef (b : List Byte) : Nat := leAt b 34 2
def psI16 (b : List Byte) (o : Nat) : Int := sext 16 (leAt b o 2)
/-- A row of the matrix at `o` and its offset. -/
def psRow (b : List Byte) (o r : Nat) : List Int := (List.range 3).map fun k => psI16 b (o + 2 * (3 * r + k))

/-- The static list as pairs (y, x). -/
def psDefs (b : List Byte) : List (Nat × Nat) :=
  (List.range (psNdef b)).map fun i => (leAt b (4096 + 4 * i + 2) 2, leAt b (4096 + 4 * i) 2)

def rising : List (Nat × Nat) → Bool
  | a :: b :: l => decide (a.1 < b.1 ∨ (a.1 = b.1 ∧ a.2 < b.2)) && rising (b :: l)
  | _ => true

/-- Bytes of the set at an address, by its NDEF. -/
def State.psetLen (s : State) (a : Nat) : Nat := ceilDiv (4096 + 4 * s.ldN (a + 34) 2) 512 * 512

/-- The pipeline's read of a set from board DRAM (R329, R332). -/
def State.psetRead (s : State) (a : Nat) : State := if s.inDram a (s.psetLen a) then (s.dramRead 24 a (s.psetLen a)).2 else s

/-- The set at an address, if its checks hold. DESIGN CHOICE: one delivered with a poison mark is not accepted. -/
def State.loadPset (s : State) (a : Nat) : Option (List Byte) :=
  let n := s.psetLen a
  if ¬ s.inDram a n ∨ (s.dramRead 24 a n).1.2 then none
  else
    let b := s.ld a n
    if leAt b 0 4 = 0x50495646 ∧ leAt b 4 4 = n ∧ leAt b 8 4 = crc32c (patch b 8 (zeros 4)) ∧ leAt b 12 4 < 16 ∧
        psNdef b ≤ 4096 ∧ leAt b 84 4 = 0 ∧ leAt b 112 16 = 0 ∧ leAt b 642 382 = 0 ∧ leAt b 3336 760 = 0 ∧ rising (psDefs b) then
      some b
    else none

/-! ## The pipeline (R371 to R375) -/

/-- A plane of values with its width and height; coordinates outside are reflected (R371). -/
structure Plane where
  w : Nat
  h : Nat
  v : Array Nat

def reflect (n : Nat) (x : Int) : Nat :=
  if x < 0 then (-x).toNat else if (n : Int) ≤ x then (2 * (n : Int) - 2 - x).toNat else x.toNat

def Plane.at (p : Plane) (x y : Nat) : Nat := p.v.getD (y * p.w + x) 0
def Plane.near (p : Plane) (x y : Nat) (dx dy : Int) : Nat := p.at (reflect p.w (x + dx)) (reflect p.h (y + dy))
def Plane.make (w h : Nat) (f : Nat → Nat → Nat) : Plane :=
  ⟨w, h, ((List.range h).map fun y => (List.range w).map fun x => f x y).flatten.toArray⟩

/-- CFA entry (R, Gr, Gb, B) of a position (R371). -/
def cfaOf (phase x y : Nat) : Nat :=
  let q := 2 * (y % 2) + x % 2
  (([[0, 1, 2, 3], [1, 0, 3, 2], [2, 3, 0, 1], [3, 2, 1, 0]].getD phase []).getD q 0)

def clampI (v : Int) : Nat := if v < 0 then 0 else if 65535 < v then 65535 else v.toNat

/-- Stage 2. -/
def stage2 (b : List Byte) (p : Plane) : Plane :=
  Plane.make p.w p.h fun x y => p.at x y - psBl b (2 * (y % 2) + x % 2)

/-- Stage 3 (R372). -/
def stage3 (b : List Byte) (p : Plane) : Plane :=
  let defs := if psFlag b 0 then psDefs b else []
  let t := leAt b 32 2
  Plane.make p.w p.h fun x y =>
    if defs.contains (y, x) then (p.near x y (-2) 0 + p.near x y 2 0) / 2
    else if psFlag b 1 then
      let n := [(-2, -2), (0, -2), (2, -2), (-2, 0), (2, 0), (-2, 2), (0, 2), (2, 2)].map fun d : Int × Int => p.near x y d.1 d.2
      let mx := n.foldl max 0
      let mn := n.foldl min 65535
      if mx + t < p.at x y then mx else if p.at x y + t < mn then mn else p.at x y
    else p.at x y

/-- The lens-shading gain (R373). -/
def lscGain (b : List Byte) (w h k x y : Nat) : Nat :=
  if ¬ psFlag b 2 then 4096
  else
    let X := x * 4096 / (w - 1)
    let Y := y * 4096 / (h - 1)
    let ix := min 15 (X / 256)
    let iy := min 15 (Y / 256)
    let fx := X - 256 * ix
    let fy := Y - 256 * iy
    let g (yy xx : Nat) : Nat := leAt b (1024 + 2 * (289 * k + 17 * yy + xx)) 2
    let h0 := g iy ix * (256 - fx) + g iy (ix + 1) * fx
    let h1 := g (iy + 1) ix * (256 - fx) + g (iy + 1) (ix + 1) * fx
    (h0 * (256 - fy) + h1 * fy + 32768) / 65536

/-- Stage 4. -/
def stage4 (b : List Byte) (phase : Nat) (p : Plane) : Plane :=
  Plane.make p.w p.h fun x y => min 65535 ((p.at x y * lscGain b p.w p.h (cfaOf phase x y) x y + 2048) / 4096)

/-- Stage 5: R, G, B of a pixel. -/
def demosaic (phase : Nat) (p : Plane) (x y : Nat) : List Nat :=
  let own := p.at x y
  let n (dx dy : Int) : Nat := p.near x y dx dy
  let orth := (n (-1) 0 + n 1 0 + n 0 (-1) + n 0 1 + 2) / 4
  let diag := (n (-1) (-1) + n 1 (-1) + n (-1) 1 + n 1 1 + 2) / 4
  let row := (n (-1) 0 + n 1 0 + 1) / 2
  let col := (n 0 (-1) + n 0 1 + 1) / 2
  match cfaOf phase x y with
  | 0 => [own, orth, diag]
  | 1 => [row, own, col]
  | 2 => [col, own, row]
  | _ => [diag, orth, own]

/-- A matrix row applied to three values, with its offset (stage 7). -/
def matRow (row : List Int) (off : Int) (c : List Nat) : Nat :=
  clampI (((List.zipWith (fun (m : Int) (v : Nat) => m * (v : Int)) row c).foldl (· + ·) 2048) / 4096 + off)

/-- Stage 8. -/
def tone (b : List Byte) (c : Nat) : Nat :=
  if ¬ psFlag b 3 then c
  else
    let T (i : Nat) : Int := (leAt b (128 + 2 * i) 2 : Nat)
    (T (c / 256) + ((T (c / 256 + 1) - T (c / 256)) * ((c % 256 : Nat) : Int) + 128) / 256).toNat

/-- Chroma of a YUV422 pixel: from the nearest pixel that carries it. -/
def chromaAt (p : Plane) (x y : Nat) (cr : Bool) : Nat :=
  let at' (x : Nat) : Nat := p.at x y / 256 * 256
  if cr then (if x % 2 = 1 then at' x else if x + 1 < p.w then at' (x + 1) else at' (x - 1))
  else at' (x / 2 * 2)

/-- Stages 1 to 8: the three planes of a frame of 16-bit codes. -/
def pipeline (b : List Byte) (c : VCfg) (p : Plane) : List Plane :=
  let ccm (v : List Nat) : List Nat := (List.range 3).map fun r => tone b (matRow (psRow b 36 r) (psI16 b (54 + 2 * r)) v)
  let px : List (List Nat) :=
    if c.fmt = 5 then
      ((List.range c.h).map fun y => (List.range c.w).map fun x =>
        ccm [p.at x y % 256 * 256, chromaAt p x y false, chromaAt p x y true]).flatten
    else
      let q := stage4 b c.phase (stage3 b (stage2 b p))
      let wb (v k : Nat) : Nat := min 65535 ((v * psWb b k + 2048) / 4096)
      ((List.range c.h).map fun y => (List.range c.w).map fun x =>
        match demosaic c.phase q x y with
        | [r, g, bl] => ccm [wb r 0, wb g 1, wb bl 3]
        | _ => []).flatten
  (List.range 3).map fun k => ⟨c.w, c.h, (px.map fun v => v.getD k 0).toArray⟩

/-- The two source places of an output coordinate, and the weight of the second (R374). -/
def scaleAt (x0 cw ow u : Nat) : Nat × Nat × Nat :=
  let step := cw * 65536 / ow
  let lo : Int := ((x0 * 65536 : Nat) : Int)
  let hi : Int := (((x0 + cw - 1) * 65536 : Nat) : Int)
  let s := max lo (min hi (lo + ((step / 2 : Nat) : Int) - 32768 + ((u * step : Nat) : Int)))
  let n := s.toNat
  (n / 65536, min (n / 65536 + 1) (x0 + cw - 1), n / 256 % 256)

/-- A crop scaled to `ow` by `oh`, first along the lines, then across them. -/
def scalePlane (x0 y0 cw ch ow oh : Nat) (p : Plane) : Plane :=
  let mix (a b f : Nat) : Nat := (a * (256 - f) + b * f + 128) / 256
  let hz := Plane.make ow p.h fun u y => let i := scaleAt x0 cw ow u; mix (p.at i.1 y) (p.at i.2.1 y) i.2.2
  Plane.make ow oh fun u v => let i := scaleAt y0 ch oh v; mix (hz.at u i.1) (hz.at u i.2.1) i.2.2

def to8 (v : Nat) : Nat := min 255 ((v + 128) / 256)

/-- The display image (R374). -/
def displayImage (c : VCfg) (l : List Plane) : List Byte :=
  let s := l.map (scalePlane c.dx0 c.dy0 c.dcw c.dch c.dow c.doh)
  ((List.range c.doh).map fun y => (List.range c.dow).map fun x => s.map fun p => BitVec.ofNat 8 (to8 (p.at x y))).flatten.flatten

/-- The CSC of stage 7's arithmetic on a pixel. -/
def cscAt (b : List Byte) (l : List Plane) (r x y : Nat) : Nat :=
  matRow (psRow b 60 r) (psI16 b (78 + 2 * r)) (l.map fun p => p.at x y)

/-- The coding image (R374): the Y plane, then the CbCr plane. -/
def codingImage (b : List Byte) (c : VCfg) (l : List Plane) : List Byte :=
  let s := l.map (scalePlane c.dx0 c.dy0 c.dcw c.dch c.dow c.doh)
  let yp := (List.range c.doh).map fun y => (List.range c.dow).map fun x => BitVec.ofNat 8 (to8 (cscAt b s 0 x y))
  let avg (r x y : Nat) : Byte :=
    let v (i j : Nat) : Nat := cscAt b s r (2 * x + i) (2 * y + j)
    BitVec.ofNat 8 (to8 ((v 0 0 + v 1 0 + v 0 1 + v 1 1 + 2) / 4))
  let cp := (List.range (c.doh / 2)).map fun y => ((List.range (c.dow / 2)).map fun x => [avg 1 x y, avg 2 x y]).flatten
  yp.flatten ++ cp.flatten

/-- Rows of a tensor line (R375). -/
def VCfg.ls (c : VCfg) : Nat := ceilDiv (c.mow * (if c.oc3 then 3 else 1) * fmtBits c.ofmt) 4096

/-- The machine-vision tensor, line by line to whole rows (R375). -/
def tensorOf (b : List Byte) (c : VCfg) (l : List Plane) : List Byte :=
  let s := l.map (scalePlane c.mx0 c.my0 c.mcw c.mch c.mow c.moh)
  let el (x y ch : Nat) : List Byte :=
    let v := if c.oc3 then (s.getD ch ⟨0, 0, #[]⟩).at x y else cscAt b s 0 x y
    let r := (Fp.ofInt v).fma (decW (leAt b (88 + 4 * ch) 4)) (decW (leAt b (100 + 4 * ch) 4))
    natLE (fmtBits c.ofmt / 8) (convOut c.ofmt (decW (encW r))).code
  ((List.range c.moh).map fun y => fitTo (512 * c.ls)
    ((List.range c.mow).map fun x => ((List.range (if c.oc3 then 3 else 1)).map fun ch => el x y ch).flatten).flatten).flatten

/-! ## Ports (R366 to R370) -/

def State.vport (s : State) (p : Nat) : VPort := s.vin.ports.get p {}
def State.onPort (s : State) (p : Nat) (f : VPort → VPort) : State :=
  { s with vin := { s.vin with ports := s.vin.ports.set p (f (s.vport p)) {} } }
def State.vctx (s : State) (c : Nat) : VCtx := s.vin.ctxs.get c {}
def State.onCtx (s : State) (c : Nat) (f : VCtx → VCtx) : State :=
  { s with vin := { s.vin with ctxs := s.vin.ctxs.set c (f (s.vctx c)) {} } }

/-- Whether the settings of a port and its context are legal together (R367, R374). DESIGN CHOICE: the crop of the display and
coding outputs is checked while one of them is enabled. -/
def State.vinLegal (s : State) (p : Nat) : Bool :=
  let w := s.rg (VIN_PORT_SIZE_WIDTH p)
  let h := s.rg (VIN_PORT_SIZE_HEIGHT p)
  let fmt := s.rg (VIN_PORT_CTRL_FMT p)
  let dims (x0 cw ow n : Nat) : Bool := decide (1 ≤ ow ∧ ow ≤ cw ∧ cw ≤ 16 * ow ∧ x0 + cw ≤ n)
  decide (fmt ≤ 5 ∧ (fmt = 5 ∨ (w % 2 = 0 ∧ h % 2 = 0 ∧ 16 ≤ w ∧ 16 ≤ h))) &&
    dims (s.rg (VIN_CTX_MPOS_MX0 p)) (s.rg (VIN_CTX_MSIZE_MCW p)) (s.rg (VIN_CTX_MOUT_MOW p)) w &&
    dims (s.rg (VIN_CTX_MPOS_MY0 p)) (s.rg (VIN_CTX_MSIZE_MCH p)) (s.rg (VIN_CTX_MOUT_MOH p)) h &&
    ((!s.on (VIN_CTX_DOUT_DEN p) && !s.on (VIN_CTX_DOUT_CEN p)) ||
      (dims (s.rg (VIN_CTX_DPOS_DX0 p)) (s.rg (VIN_CTX_DSIZE_DCW p)) (s.rg (VIN_CTX_DOUT_DOW p)) w &&
        dims (s.rg (VIN_CTX_DPOS_DY0 p)) (s.rg (VIN_CTX_DSIZE_DCH p)) (s.rg (VIN_CTX_DOUT_DOH p)) h &&
        (!s.on (VIN_CTX_DOUT_CEN p) || decide (s.rg (VIN_CTX_DOUT_DOW p) % 2 = 0 ∧ s.rg (VIN_CTX_DOUT_DOH p) % 2 = 0))))

/-- Several fields of one word written, each by its own rule (R8). -/
def State.takeFields (s : State) (w : Nat) (l : List Fld) : State :=
  l.foldl (fun s f => s.wr f (f.take (s.rg f) (w / 2 ^ f.lo % 2 ^ f.w))) s

/-- A configuration write of a port or its context: applied, or discarded with ERR. -/
def State.vinWrite (s : State) (p w : Nat) (l : List Fld) : State :=
  let n := s.takeFields w l
  if n.vinLegal p then n else s.wr (VIN_PORT_STATUS_ERR p) 1

def vinCtrlFields (p : Nat) : List Fld :=
  [VIN_PORT_CTRL_EN p, VIN_PORT_CTRL_EDGE p, VIN_PORT_CTRL_VPOL p, VIN_PORT_CTRL_HPOL p, VIN_PORT_CTRL_DEPOL p,
    VIN_PORT_CTRL_DEMODE p, VIN_PORT_CTRL_LCHK p, VIN_PORT_CTRL_PHASE p, VIN_PORT_CTRL_FMT p, VIN_PORT_CTRL_MAXF_MS p]

/-- A write of `VIN.PORT[p].CTRL` or SIZE (R367). -/
def State.vinPortWrite (s : State) (p : Nat) (size : Bool) (w : Nat) : State :=
  let was := s.on (VIN_PORT_CTRL_EN p)
  let s := if size then s.vinWrite p w [VIN_PORT_SIZE_HEIGHT p, VIN_PORT_SIZE_WIDTH p] else s.vinWrite p w (vinCtrlFields p)
  if ¬ was ∧ s.on (VIN_PORT_CTRL_EN p) then s.onCtx p fun c => { c with next := 0 } else s

def execVinPortWrite (p : Fin 4) (size : Bool) (w : BitVec 32) (s : State) : Res := .next (s.vinPortWrite p.val size w.toNat)

/-- The settings that a frame takes at its start. -/
def State.vcfg (s : State) (p : Nat) : VCfg :=
  { w := s.rg (VIN_PORT_SIZE_WIDTH p), h := s.rg (VIN_PORT_SIZE_HEIGHT p), fmt := s.rg (VIN_PORT_CTRL_FMT p)
    phase := s.rg (VIN_PORT_CTRL_PHASE p), lchk := s.on (VIN_PORT_CTRL_LCHK p)
    mx0 := s.rg (VIN_CTX_MPOS_MX0 p), my0 := s.rg (VIN_CTX_MPOS_MY0 p), mcw := s.rg (VIN_CTX_MSIZE_MCW p)
    mch := s.rg (VIN_CTX_MSIZE_MCH p), mow := s.rg (VIN_CTX_MOUT_MOW p), moh := s.rg (VIN_CTX_MOUT_MOH p)
    oc3 := s.on (VIN_CTX_MOUT_OC3 p), ofmt := s.rg (VIN_CTX_MOUT_OFMT p)
    dx0 := s.rg (VIN_CTX_DPOS_DX0 p), dy0 := s.rg (VIN_CTX_DPOS_DY0 p), dcw := s.rg (VIN_CTX_DSIZE_DCW p)
    dch := s.rg (VIN_CTX_DSIZE_DCH p), dow := s.rg (VIN_CTX_DOUT_DOW p), doh := s.rg (VIN_CTX_DOUT_DOH p)
    den := s.on (VIN_CTX_DOUT_DEN p), cen := s.on (VIN_CTX_DOUT_CEN p), nbuf := s.rg (VIN_CTX_DOUT_NBUF p)
    dbase := s.rg (VIN_CTX_DBASE p), cbase := s.rg (VIN_CTX_CBASE p) }

/-- The frame's marks, counted (R368, R369), and the frame handed to its context. -/
def State.vinClose (s : State) (p : Nat) (fr : VFrame) : State :=
  let fill (y : Nat) : VLine := ⟨(List.range fr.cfg.w).map fun x =>
    if fr.cfg.fmt = 5 then 0x8000 else psBl (fr.pset.getD []) (2 * (y % 2) + x % 2), none⟩
  let n := fr.lines.length
  let fr := { fr with
    lines := fr.lines ++ (List.range (fr.cfg.h - n)).map fun i => fill (n + i)
    short := fr.short || decide (n < fr.cfg.h), ended := true, tend := s.rg TIME_NOW }
  let s := s.bump (VIN_PORT_FRAMES p)
  let s := if fr.short then s.bump (VIN_PORT_SHORT p) else s
  let s := if fr.long then s.bump (VIN_PORT_LONG p) else s
  let s := (s.wr (VIN_PORT_STATUS_INFRAME p) 0).onPort p fun v => { v with frame := none }
  if fr.pset.isNone then s else s.onCtx p fun c => { c with queue := c.queue ++ [fr] }

/-- VSYNC becomes active (R366, R378). -/
def State.vinStart (s : State) (p : Nat) : State :=
  let s := s.wr (VIN_PORT_STATUS_CLK p) 1
  if ¬ s.on (VIN_PORT_CTRL_EN p) ∨ (s.vport p).frame.isSome then s
  else
    let c := s.vctx p
    let new := s.loadPset (s.rg (VIN_CTX_PSET p))
    let pset := new.orElse fun _ => c.pset
    let s := s.psetRead (s.rg (VIN_CTX_PSET p))
    let s := if new.isNone then s.bump (VIN_CTX_PSETERR p) else s
    let fr : VFrame := { num := c.next, cfg := s.vcfg p, pset := pset, stamp := s.stamp.bytes, psetBad := new.isNone }
    let s := s.onCtx p fun c => { c with pset := pset, next := (c.next + 1) % 2 ^ 32 }
    (s.wr (VIN_PORT_STATUS_INFRAME p) 1).onPort p fun v => { v with frame := some fr, ignoring := false }

def execVinFrameStart (p : Fin 4) (s : State) : Res := .next (s.vinStart p.val)

/-- The image pixels of a received line and whether its check failed (R370). -/
def lineCheckPx (lchk : Bool) (px : List Nat) : List Nat × Bool :=
  if ¬ lchk then (px, false)
  else if px.length < 2 then ([], true)
  else
    let img := px.take (px.length - 2)
    let crc := crc16 ((img.map fun v => natLE 2 v).flatten)
    let got := px.getD (px.length - 2) 0 % 256 + px.getD (px.length - 1) 0 % 256 * 256
    (img, decide (got ≠ crc))

/-- Lines of a context that stand in the raw ring. -/
def State.ringLines (s : State) (p : Nat) : Nat :=
  let n (f : VFrame) : Nat := (f.lines.filter fun l => l.ring.isSome).length
  ((s.vctx p).queue.foldl (fun a f => a + n f) 0) + (match (s.vport p).frame with
    | some f => n f
    | none => 0)

/-- A line ends (R368, R370, R384). `lost`: the port's input buffer had no room for it. -/
def State.vinLine (s : State) (p : Nat) (px : List Nat) (lost : Bool) : State :=
  let s := s.wr (VIN_PORT_STATUS_CLK p) 1
  match (s.vport p).frame with
  | none => s
  | some fr =>
    let c := fr.cfg
    let y := fr.lines.length
    let ck := lineCheckPx c.lchk px
    let s := if ck.2 then s.bump (VIN_PORT_CHKERR p) else s
    let fr := { fr with recv := fr.recv + 1, chk := fr.chk + b2n ck.2, check := fr.check || ck.2 }
    if c.h ≤ y then s.onPort p fun v => { v with frame := some { fr with long := true } }
    else
      let fill (x : Nat) : Nat := if c.fmt = 5 then 0x8000 else psBl (fr.pset.getD []) (2 * (y % 2) + x % 2)
      let n := [8, 10, 12, 14, 16].getD c.fmt 16
      let code (v : Nat) : Nat := v % 2 ^ n * 2 ^ (16 - n)
      let img := if lost then [] else (ck.1.take c.w).map code
      let full := s.on VIN_MUX_EN && decide (s.rg (VIN_PORT_RAWLINES p) ≤ s.ringLines p)
      let img := if full then [] else img
      let data := img ++ (List.range (c.w - img.length)).map fun i => fill (img.length + i)
      let fr := { fr with short := fr.short || decide (img.length < c.w), long := fr.long || decide (c.w < ck.1.length) }
      if s.on VIN_MUX_EN ∧ ¬ full then
        let k := (s.vport p).ring
        let a := s.rg (VIN_PORT_RAWBASE p) + k * c.w * 2
        let b := (data.map fun v => natLE 2 v).flatten
        let s := if s.inDram a b.length then s.dramWrite 24 a b else s.addrError
        s.onPort p fun v => { v with
          frame := some { fr with lines := fr.lines ++ [⟨[], some a⟩] }, ring := (k + 1) % s.rg (VIN_PORT_RAWLINES p) }
      else s.onPort p fun v => { v with frame := some { fr with lines := fr.lines ++ [⟨data, none⟩] } }

def execVinLineEnd (p : Fin 4) (px : List (BitVec 16)) (lost : Bool) (s : State) : Res :=
  .next (s.vinLine p.val (px.map fun v => v.toNat) lost)

/-- VSYNC becomes inactive. -/
def State.vinEnd (s : State) (p : Nat) : State :=
  match (s.vport p).frame with
  | some fr => s.vinClose p fr
  | none => s.onPort p fun v => { v with ignoring := false }

def execVinFrameEnd (p : Fin 4) (s : State) : Res := .next (s.vinEnd p.val)

/-- VSYNC stayed active beyond MAXF_MS (R369). -/
def State.vinTimeout (s : State) (p : Nat) : State :=
  match (s.vport p).frame with
  | some fr => (s.vinClose p { fr with long := true }).onPort p fun v => { v with ignoring := true }
  | none => s

def execVinFrameTimeout (p : Fin 4) (s : State) : Res := .next (s.vinTimeout p.val)

/-- No PCLK edge for 1 ms while a frame is open (R369). -/
def State.vinPclkLost (s : State) (p : Nat) : State :=
  match (s.vport p).frame with
  | some fr => (s.vinClose p { fr with short := true }).wr (VIN_PORT_STATUS_CLK p) 0
  | none => s

def execVinPclkLoss (p : Fin 4) (s : State) : Res := .next (s.vinPclkLost p.val)
def execVinPclkReturn (p : Fin 4) (s : State) : Res := .next (s.wr (VIN_PORT_STATUS_CLK p.val) 1)

/-! ## Outputs (R374 to R382) -/

/-- Bytes 16 to 63 of a frame's record, its FLAGS byte being 0, and its marks as they stand in FLAGS (R381). -/
def VFrame.tail (f : VFrame) (ctx bufrow : Nat) : List Byte :=
  fitTo 48 (natLE 8 f.tend ++ natLE 4 f.num ++ natLE 1 ctx ++ natLE 1 0 ++ natLE 2 (min f.chk 0xFFFF) ++ natLE 2 (min f.recv 0xFFFF) ++
    natLE 2 bufrow ++ natLE 2 f.cfg.mow ++ natLE 2 f.cfg.moh ++ natLE 1 (if f.cfg.oc3 then 3 else 1) ++ natLE 1 f.cfg.ofmt ++
    natLE 2 f.cfg.ls)
def VFrame.marks (f : VFrame) : Nat := 4 * b2n f.short + 8 * b2n f.long + 16 * b2n f.check + 64 * b2n f.psetBad

/-- A record tail with FLAGS. -/
def withFlags (tail : List Byte) (fl : Nat) : List Byte := patch tail 13 (natLE 1 fl)

/-- The plane of a frame's codes, lines still in the raw ring read from there. -/
def State.framePlane (s : State) (f : VFrame) : Plane :=
  ⟨f.cfg.w, f.cfg.h, (f.lines.map fun l => match l.ring with
    | some a => (chunks 2 f.cfg.w (s.ld a (2 * f.cfg.w))).map leNat
    | none => l.data).flatten.toArray⟩

/-- A write of an output into board DRAM. -/
def State.vinStore (s : State) (a : Nat) (b : List Byte) : State := if s.inDram a b.length then s.dramWrite 24 a b else s.addrError

/-- A buffer that neither the record of this tide, nor the newest tensor, nor the record of the next tide names (R382). -/
def VCtx.freeBuf (c : VCtx) : Nat :=
  let used := [c.held, c.newest.map fun t => t.buf]
  let ok (l : List (Option Nat)) (j : Nat) : Bool := !l.contains (some j)
  (((List.range 3).find? (ok (c.nextHeld :: used))).orElse fun _ => (List.range 3).find? (ok used)).getD 0

/-- A frame's outputs are complete: display, coding and machine-vision outputs, and the FRAME event. -/
def State.vinOutputs (s : State) (c : Nat) (f : VFrame) : State :=
  let b := f.pset.getD []
  let g := f.cfg
  let planes := pipeline b g (s.framePlane f)
  let i := f.num % max 1 g.nbuf
  let s := if g.den then s.vinStore (g.dbase + i * g.dow * g.doh * 3) (displayImage g planes) else s
  let s := if g.cen then s.vinStore (g.cbase + i * g.dow * g.doh * 3 / 2) (codingImage b g planes) else s
  let rows := tensorOf b g planes
  let x := s.vctx c
  let ts := x.dlv.mode = 2
  let j := x.freeBuf
  let row := x.dlv.trow + j * g.moh * g.ls
  let s := if ts then (s.st (tsAddr x.dlv.t row) rows).clearMarks (tsAddr x.dlv.t row) (rows.length / 8) else s
  let lost := match x.newest with
    | some t => !t.published
    | none => false
  let s := if lost then s.bump (VIN_CTX_SKIP c) else s
  let tail := f.tail c (if ts then row else 0xFFFF)
  let t : VTensor := { stamp := f.stamp, tail := tail, marks := f.marks, rows := rows, buf := j }
  let s := s.onCtx c fun x => { x with newest := some t, skipped := x.skipped || lost }
  s.postEvent 0x0030 4 i ((withFlags tail (1 + f.marks)).take 28) (some f.stamp)

/-- VIN_OUTPUT_COMPLETE: the oldest frame of a context that waits. -/
def State.vinComplete (s : State) (c : Nat) : State :=
  match (s.vctx c).queue with
  | [] => s
  | f :: l =>
    if s.on VIN_MUX_EN ∧ f.served < f.cfg.h then s
    else (s.onCtx c fun x => { x with queue := l }).vinOutputs c f

def execVinOutputComplete (c : Fin 4) (s : State) : Res := .next (s.vinComplete c.val)

/-! ## Publication (R380 to R383) -/

/-- The record row and data rows written for the next tide. -/
def State.vinRecord (s : State) (c : Nat) (stamp tail rows : List Byte) : State :=
  let d := (s.vctx c).dlv
  let s := (s.heldRows d.t d.p d.rslot 0 [stamp ++ tail]).heldDone d.t d.p d.rslot 1
  if d.mode ≠ 1 then s
  else
    let n := rows.length / 512
    (s.heldRows d.t d.p d.dslot 0 (chunks 512 n rows)).heldDone d.t d.p d.dslot n

/-- Data rows of a context's tensor, by its registers. -/
def State.ctxRows (s : State) (c : Nat) : Nat := let g := s.vcfg c; g.moh * g.ls

/-- The cutoff cycle: the newest complete frame is published for the next boundary. -/
def State.vinPublish (s : State) (c : Nat) : State :=
  let x := s.vctx c
  if x.dlv.mode = 0 then s
  else match x.newest with
    | some t =>
      if 2 ≤ s.tide.mute then
        (s.vinRecord c t.stamp (zeros 48) (zeros t.rows.length)).onCtx c fun x => { x with nextHeld := none, lastFresh := false }
      else
        let fl := 1 + 2 * b2n t.fresh + t.marks + 32 * b2n x.skipped
        let s := (s.vinRecord c t.stamp (withFlags t.tail fl) t.rows).bump (VIN_CTX_PUB c)
        s.onCtx c fun x => { x with nextHeld := some t.buf, skipped := false, lastFresh := t.fresh
                                    newest := some { t with published := true, fresh := false } }
    | none =>
      let f := s.free
      (f.2.vinRecord c (natLE 16 f.1) (zeros 48) (zeros (512 * s.ctxRows c))).onCtx c fun x => { x with nextHeld := none, lastFresh := false }

def execVinPublish (c : Fin 4) (s : State) : Res := .next (s.vinPublish c.val)

/-- The record of the tide that begins made void: an apply or a re-phase takes effect at this boundary (R383). -/
def State.vinVoid (s : State) (c : Nat) : State :=
  let x := s.vctx c
  if x.dlv.mode = 0 then s
  else
    let d := x.dlv
    let k := d.rslot + s.rg TIDE_NUM % 2
    let m := s.rg (SLOT_CFG_MEM d.t d.p k)
    let a := rowAddr d.t d.p m (s.rg (SLOT_CFG_BASE d.t d.p k))
    let s := s.writeRow d.t d.p m (s.rg (SLOT_CFG_BASE d.t d.p k)) (s.ld a 16)
    let s := if d.mode ≠ 1 then s
      else (List.range (s.ctxRows c)).foldl (fun s i => s.slotRow d.t d.p (d.dslot + s.rg TIDE_NUM % 2) i []) s
    s.onCtx c fun x => { x with held := none, newest := x.newest.map fun t => { t with fresh := t.fresh || x.lastFresh } }

/-- The delivery in force, from the registers (R380). -/
def State.dlvNow (s : State) (c : Nat) : Dlv :=
  { mode := s.rg (VIN_CTX_DLV_MODE c), t := s.rg (VIN_CTX_DLV_TERR c), p := s.rg (VIN_CTX_DLV_POS c)
    rslot := s.rg (VIN_CTX_DLV_RSLOT c), dslot := s.rg (VIN_CTX_DLV_DSLOT c), trow := s.rg (VIN_CTX_TROW c) }

/-! ## The multiplexer (R384 to R386) -/

/-- A write of `VIN.MUX` (R386). -/
def State.vinMux (s : State) (w : Nat) : State :=
  let s := if bit w 30 then s.wr VIN_MUX_ERR 0 else s
  let stripe := VIN_MUX_STRIPE.take (s.rg VIN_MUX_STRIPE) (w % 512)
  let ports := (List.range 4).filter fun p => s.on (VIN_PORT_CTRL_EN p)
  let sum := ports.foldl (fun a p => a + s.rg (VIN_PORT_RATE_MPIX p)) 0
  let hot := if bit w 29 then decide (190 * stripe < sum * (stripe + 4)) else decide (190 < sum)
  if bit w 31 ∧ hot then s.wr VIN_MUX_ERR 1
  else s.takeFields w [VIN_MUX_EN, VIN_MUX_UNIT, VIN_MUX_STRIPE]

def execVinMuxWrite (w : BitVec 32) (s : State) : Res := .next (s.vinMux w.toNat)

/-- The frame of a context that pipeline 0 works on: the oldest that is not served whole; `true` if it is the open one. -/
def State.muxFrame (s : State) (c : Nat) : Option (VFrame × Bool) :=
  match (s.vctx c).queue.find? fun f => decide (f.served < f.cfg.h) with
  | some f => some (f, false)
  | none => match (s.vport c).frame with
    | some f => if f.pset.isSome ∧ f.served < f.cfg.h then some (f, true) else none
    | none => none

/-- Lines that the next unit of a frame ends with, if it is ready (R385). -/
def State.unitEnd (s : State) (f : VFrame) : Option Nat :=
  if ¬ s.on VIN_MUX_UNIT then (if f.ended then some f.cfg.h else none)
  else
    let e := min f.cfg.h (f.served + s.rg VIN_MUX_STRIPE)
    if f.ended ∨ min f.cfg.h (e + 2) ≤ f.lines.length then some e else none

/-- A unit served: its lines and the two below are read from the raw ring, and the places of lines no longer needed are
free again. -/
def State.serve (s : State) (f : VFrame) (e : Nat) : VFrame :=
  let last := min f.cfg.h (e + 2)
  { f with served := e, lines := f.lines.mapIdx fun i l => match l.ring with
      | some a => if i < last then ⟨(chunks 2 f.cfg.w (s.ld a (2 * f.cfg.w))).map leNat, if e = f.cfg.h ∨ i + 2 < e then none else some a⟩ else l
      | none => l }

/-- VIN_MUX_UNIT: pipeline 0 serves the next ready unit in context order. -/
def State.muxUnit (s : State) : State :=
  if ¬ s.on VIN_MUX_EN then s
  else
    let ready (c : Nat) : Option (VFrame × Bool × Nat) := (s.muxFrame c).bind fun f => (s.unitEnd f.1).map fun e => (f.1, f.2, e)
    match ((List.range 4).map fun i => (s.vin.last + 1 + i) % 4).find? fun c => (ready c).isSome with
    | none => s
    | some c => match ready c with
      | none => s
      | some (f, isOpen, e) =>
        let g := s.serve f e
        let s := s.bump DRAM_RD_BYTES (2 * f.cfg.w * (min f.cfg.h (e + 2) - (f.served - 2)))
        let s : State := { s with vin := { s.vin with last := c } }
        if isOpen then s.onPort c fun v => { v with frame := some g }
        else s.onCtx c fun x => { x with queue := x.queue.map fun y => if y = f then g else y }

def execVinMuxUnit (s : State) : Res := .next s.muxUnit

/-- The vision block at a boundary: deliveries, held buffers, a MUX write, void records (R380 to R383, R388). -/
def State.vinBoundary (s : State) : State :=
  let s := match s.vin.muxNext with
    | some w => ({ s with vin := { s.vin with muxNext := none } }).vinMux w
    | none => s
  (List.range 4).foldl (fun s c =>
    let s := s.onCtx c fun x => { x with held := x.nextHeld }
    let s := if s.tide.mute = 3 then s.vinVoid c else s
    s.onCtx c fun x => { x with dlv := s.dlvNow c }) s

end Sys2Proof.Machine
end

