-- ==== Sys2Proof/Machine/Audio.lean ====
section
/-! DEFINITION. The serial audio ports (chapter 16): the frame format, inputs into HELD pairs, the tide record, outputs
from committed slots, loss of clock and slip. -/

namespace Sys2Proof.Machine

/-! ## `AUD.CLK` (R389 to R391) -/

def audClkFields : List Fld :=
  [AUD_CLK_EN, AUD_CLK_DRIVE, AUD_CLK_FMT, AUD_CLK_FSW, AUD_CLK_DELAY, AUD_CLK_FSPOL, AUD_CLK_EDGE, AUD_CLK_SLOTS]

/-- Whether a frame format and drive are legal (R389 to R391). -/
def State.audLegal (s : State) (w : Nat) : Bool :=
  let slots := bits w 16 3
  decide (1 ≤ slots ∧ slots ≤ 5) && (bit w 30 || s.rg TIDE_CTRL_SRC == 1) &&
    (bit w 29 || (slots == 1 && bit w 28 && bit w 27)) &&
    decide (2 ^ slots * 32 * rateHz (s.rg TIDE_CTRL_RATE) ≤ 49152000)

/-- The word of `AUD.CLK` without its flags. -/
def State.audClkWord (s : State) : Nat := audClkFields.foldl (fun a f => a + s.rg f * 2 ^ f.lo) 0

/-- Whether a write of `AUD.CLK` is discarded: while EN is 1 only a write that clears EN alone is taken. -/
def State.audClkBad (s : State) (w : Nat) : Bool :=
  let v := audClkFields.foldl (fun a f => a + w / 2 ^ f.lo % 2 ^ f.w * 2 ^ f.lo) 0
  if s.on AUD_CLK_EN then v + 2 ^ 31 != s.audClkWord else !s.audLegal w

/-- A write of `AUD.CLK` (R391). -/
def State.audClkWrite (s : State) (w : Nat) : State :=
  let s := if bit w 15 then s.wr AUD_CLK_ERR 0 else s
  if s.audClkBad w then s.wr AUD_CLK_ERR 1 else s.takeFields w audClkFields

def execAudClkWrite (w : BitVec 32) (s : State) : Res := .next (s.audClkWrite w.toNat)

/-! ## Ports -/

def State.audIn (s : State) (p : Nat) : AudIn := s.aud.ins.get p {}
def State.onIn (s : State) (p : Nat) (f : AudIn → AudIn) : State :=
  { s with aud := { s.aud with ins := s.aud.ins.set p (f (s.audIn p)) {} } }
def State.audOut (s : State) (p : Nat) : AudOut := s.aud.outs.get p {}
def State.onOut (s : State) (p : Nat) (f : AudOut → AudOut) : State :=
  { s with aud := { s.aud with outs := s.aud.outs.set p (f (s.audOut p)) {} } }

/-- A binding from its register word. -/
def AudBind.of (w : Nat) : AudBind :=
  ⟨bit w 31, bits w 27 4, bits w 22 5, bits w 16 6, bits w 10 6, bits w 5 5, bits w 0 5 + 1⟩

/-- Row groups of a binding, and its rows for a tide of `n` samples (R394). -/
def AudBind.ng (b : AudBind) : Nat := ceilDiv b.nch 4
def AudBind.rows (b : AudBind) (n : Nat) : Nat := ceilDiv n 32 * b.ng

/-- Buffer row and byte of tide frame `f` and binding channel `c` (R394). -/
def AudBind.placeOf (b : AudBind) (f c : Nat) : Nat × Nat := (f / 32 * b.ng + c / 4, 4 * (32 * (c % 4) + f % 32))

/-- A word cut to WL bits from the top (R393, R399). -/
def topBits (wl w : Nat) : Nat := w / 2 ^ (32 - wl) * 2 ^ (32 - wl)

/-- Word lengths of the code WL. -/
def wlOf (v : Nat) : Nat := if v = 0 then 16 else if v = 1 then 24 else 32

/-! ## Inputs (R392 to R397) -/

/-- A sample written into the rows of every binding that carries its slot. -/
def State.audStore (s : State) (p slot f w : Nat) : State :=
  if s.aud.n ≤ f then s
  else (s.audIn p).binds.foldl (fun s b =>
    if b.en ∧ b.ch0 ≤ slot ∧ slot < b.ch0 + b.nch then
      let q := b.placeOf f (slot - b.ch0)
      let k := s.heldNext (b.slot + 2 * (q.1 / 8))
      let a := rowAddr b.t b.p (s.rg (SLOT_CFG_MEM b.t b.p k)) (s.rg (SLOT_CFG_BASE b.t b.p k) + q.1 % 8)
      s.slotRow b.t b.p k (q.1 % 8) (patch (s.ld a 512) q.2 (natLE 4 w))
    else s) s

/-- AUD_INPUT_SAMPLE: the 32 bits of a slot of port `p`; `nxt`: the frame belongs to the tide after the current one, by
the time of its last bit (R392). -/
def State.audSample (s : State) (p slot w : Nat) (nxt : Bool) : State :=
  let slots := 2 ^ s.rg AUD_CLK_SLOTS
  if ¬ s.aud.on ∨ s.aud.n = 0 ∨ s.on AUD_CLK_LOST ∨ slots ≤ slot then s
  else
    let last := slot + 1 = slots
    let s : State := if last ∧ p = 0 then
        { s with aud := { s.aud with afs := s.aud.afs + b2n (!nxt), nafs := s.aud.nafs + b2n nxt } }
      else s
    let i := s.audIn p
    if ¬ i.on then s
    else
      let v := topBits i.wl w
      let st := some s.stamp.bytes
      let s := if last then s.bump (AUD_IN_FRAMES p) else s
      if nxt then
        s.onIn p fun i => { i with carry := i.carry ++ [(slot, i.ncnt, v)], nstamp := i.nstamp.orElse fun _ => st
                                   ncnt := i.ncnt + (if last then 1 else 0) }
      else
        (s.audStore p slot i.cnt v).onIn p fun i => { i with stamp := i.stamp.orElse fun _ => st
                                                             cnt := i.cnt + (if last then 1 else 0) }

def execAudInputSample (p : Fin 8) (slot : Fin 32) (w : BitVec 32) (nxt : Bool) (s : State) : Res :=
  .next (s.audSample p.val slot.val w.toNat nxt)

/-- The end of a tide at the inputs: marks, counts and the tide record (R397, R401). -/
def State.audInClose (s : State) (p : Nat) : State :=
  let i := s.audIn p
  if ¬ (s.aud.on ∧ i.on) ∨ s.aud.n = 0 then s
  else
    let gap := i.cnt < s.aud.n
    let extra := s.aud.n < i.cnt
    let s := if gap ∨ extra then s.bump (AUD_IN_SLIPS p) else s
    let s := if gap ∨ i.lost then s.bump (AUD_IN_GAPS p) else s
    let st := match i.stamp with
      | some b => (b, s)
      | none => let f := s.free; (natLE 16 f.1, f.2)
    let s := st.2
    let rec' := st.1 ++ natLE 2 (min i.cnt 0xFFFF) ++ natLE 1 (b2n gap + 2 * b2n extra + 4 * b2n i.lost)
    i.binds.foldl (fun s b => if b.en ∧ b.rslot ≠ 63 then
      (s.heldRows b.t b.p b.rslot 0 [rec']).heldDone b.t b.p b.rslot 1 else s) s

/-- Every row of the entries that serve the next tide is zeroed; they are complete at its boundary (R395). -/
def State.audZero (s : State) (b : AudBind) : State :=
  let n := b.rows s.aud.n
  if ¬ b.en ∨ n = 0 then s
  else (s.heldRows b.t b.p b.slot 0 (List.replicate n (zeros 512))).heldDone b.t b.p b.slot n

/-- The entries that serve the tide that begins, when nothing filled them: present with zeros, so that no read of an audio HELD
slot stalls (R395), as in the first tide of a binding. -/
def State.audFirst (s : State) (b : AudBind) : State :=
  if ¬ b.en then s
  else
    let par := s.rg TIDE_NUM % 2
    let fill (s : State) (k rows : Nat) : State :=
      if ¬ s.on (SLOT_CFG_EN b.t b.p k) ∨ s.present b.t b.p k then s
      else ((List.range rows).foldl (fun s r => s.slotRow b.t b.p k r []) s).setPresent b.t b.p k
    let n := b.rows s.aud.n
    let s := (List.range (ceilDiv n 8)).foldl (fun s i => fill s (b.slot + 2 * i + par) (min 8 (n - 8 * i))) s
    if b.rslot = 63 then s else fill s (b.rslot + par) 1

/-- The held inputs of the tide that begins are dropped: zeros in their rows (R58). -/
def State.audDrop (s : State) (b : AudBind) : State :=
  if ¬ b.en then s
  else
    let par := s.rg TIDE_NUM % 2
    let s := (List.range (b.rows s.aud.n)).foldl (fun s r => s.slotRow b.t b.p (b.slot + 2 * (r / 8) + par) (r % 8) []) s
    if b.rslot = 63 then s else s.slotRow b.t b.p (b.rslot + par) 0 []

/-! ## Outputs (R398, R399) -/

/-- The words of a binding's set of tide `n`, frame by frame, and the slots released; none when no slot was there. A row that
cannot be corrected is not delivered (R120), and its samples play as zero (DESIGN CHOICE). -/
def State.audFetchBind (s : State) (b : AudBind) (n : Nat) : Option (Nat × List (List Nat)) × State :=
  let rows := b.rows s.aud.n
  let np := ceilDiv rows 8
  let first := b.slot + n % 2 * np
  let there := (List.range np).map fun i => s.present b.t b.p (first + i)
  let r := (List.range rows).foldl (fun (a : List (List Byte) × State) r =>
    let k := first + r / 8
    if ¬ there.getD (r / 8) false then (a.1 ++ [zeros 512], a.2)
    else
      let x := a.2.readRow b.t b.p (s.rg (SLOT_CFG_MEM b.t b.p k)) (s.rg (SLOT_CFG_BASE b.t b.p k) + r % 8)
      (a.1 ++ [x.1.getD (zeros 512)], x.2)) ([], s)
  let s := r.2
  let data := r.1.toArray
  let frames := (List.range s.aud.n).map fun f => (List.range b.nch).map fun c =>
    let q := b.placeOf f c
    leAt (data.getD q.1 []) q.2 4
  let s := (List.range np).foldl (fun s i => if there.getD i false then s.release b.t b.p (first + i) false else s) s
  (if there.any id then some (b.ch0, frames) else none, s)

/-- The set of tide `n` of a binding that R320 does not select: its slots are released and no row is read. DEDUCED: R54 and
R58 discard that output, and a slot left present would stall the next slice of its set (R125). -/
def State.audDiscard (s : State) (b : AudBind) (n : Nat) : State :=
  if ¬ b.en then s
  else
    let np := ceilDiv (b.rows s.aud.n) 8
    (List.range np).foldl (fun s i =>
      let k := b.slot + n % 2 * np + i
      if s.present b.t b.p k then s.release b.t b.p k false else s) s

/-- What an output port fetches at the boundary that ends tide `n`; `sel` gives the case of R320 for a station's stream. -/
def State.audFetch (s : State) (p n : Nat) (sel : Nat → Nat → Nat) : State :=
  let o := s.audOut p
  if ¬ (s.aud.on ∧ o.on) ∨ s.aud.n = 0 then s.onOut p fun o => { o with next := none }
  else
    let c := if o.main.en then sel o.main.t o.main.p else if o.fb.en then 2 else 3
    let r := if c = 1 then s.audFetchBind o.main n
      else if c = 2 ∧ o.fb.en then s.audFetchBind o.fb n else (none, s)
    let s := if c = 1 then r.2 else r.2.audDiscard o.main n
    let s := if c = 2 then s else s.audDiscard o.fb n
    s.onOut p fun o => { o with next := r.1 }

/-- Frame-sync edges of the ended tide at the outputs: the module's own, or the carrier's (R389, R401). -/
def State.audEdges (s : State) : Nat := if s.on AUD_CLK_DRIVE then s.aud.n else s.aud.afs

/-- What an output port sent in the tide that ends, and its counts (R399 to R401); zeros in a tide that a re-phase made
long (R58). -/
def State.audSent (s : State) (p : Nat) : State :=
  let o := s.audOut p
  if ¬ (s.aud.on ∧ o.on) ∨ s.aud.n = 0 ∨ s.aud.wait then s
  else
    let cnt := s.audEdges
    let play := if s.tide.mute = 0 then o.play else none
    let slots := 2 ^ s.rg AUD_CLK_SLOTS
    let s := (List.range cnt).foldl (fun s f => (List.range slots).foldl (fun s k =>
      let w := match play with
        | some (c0, fr) => if f < s.aud.n ∧ c0 ≤ k then (fr.getD f []).getD (k - c0) 0 else 0
        | none => 0
      s.emit (.audio p k (topBits o.wl w))) s) s
    let s := s.bump (AUD_OUT_FRAMES p) cnt
    let s := if cnt ≠ s.aud.n then s.bump (AUD_OUT_SLIPS p) else s
    if play.isNone then s.bump (AUD_OUT_GAPS p) else s

/-! ## Clock loss (R400) -/

/-- ABCLK or AFS is lost. -/
def State.audLost (s : State) : State :=
  if s.on AUD_CLK_DRIVE ∨ ¬ s.aud.on ∨ s.on AUD_CLK_LOST then s
  else
    let s := ((s.wr AUD_CLK_LOST 1).postEvent 0x0031 4 1)
    let s : State := { s with aud := { s.aud with wait := true } }
    (List.range 8).foldl (fun s p => s.onIn p fun i => if i.on then { i with lost := true } else i) s

def execAudClockLoss (s : State) : Res := .next s.audLost

def execAudClockReturn (s : State) : Res :=
  .next (if s.on AUD_CLK_LOST then (s.wr AUD_CLK_LOST 0).postEvent 0x0031 4 0 else s)

/-! ## The boundary -/

/-- The audio block before the number advances: records of the ending tide, what was sent in it. -/
def State.audClose (s : State) : State :=
  let s := (List.range 8).foldl (fun s p => s.audInClose p) s
  (List.range 8).foldl (fun s p => s.audSent p) s

/-- An output's binding register from its fields. -/
def State.outBind (s : State) (fb : Bool) (p : Nat) : AudBind :=
  let g (a b : Fld) : Nat := s.rg (if fb then b else a)
  ⟨g (AUD_OUT_MAIN_EN p) (AUD_OUT_FB_EN p) == 1, g (AUD_OUT_MAIN_TERR p) (AUD_OUT_FB_TERR p),
    g (AUD_OUT_MAIN_POS p) (AUD_OUT_FB_POS p), g (AUD_OUT_MAIN_SLOT p) (AUD_OUT_FB_SLOT p), 63,
    g (AUD_OUT_MAIN_CH0 p) (AUD_OUT_FB_CH0 p), g (AUD_OUT_MAIN_NCH p) (AUD_OUT_FB_NCH p) + 1⟩

/-- Settings and bindings in force from the registers (R391, R393, R403). -/
def State.audSettings (s : State) : State :=
  let n := s.active.samples
  let s : State := { s with aud := { s.aud with on := s.on AUD_CLK_EN, n := n } }
  let s := (List.range 8).foldl (fun s p =>
    s.onIn p fun i => { i with on := s.on (AUD_IN_CTRL_EN p), wl := wlOf (s.rg (AUD_IN_CTRL_WL p))
                               binds := (List.range 4).map fun k => AudBind.of (s.word ((AUD_IN_CTRL_EN p).off + 4 + 4 * k)) }) s
  (List.range 8).foldl (fun s p =>
    s.onOut p fun o => { o with on := s.on (AUD_OUT_CTRL_EN p), wl := wlOf (s.rg (AUD_OUT_CTRL_WL p))
                                main := s.outBind false p, fb := s.outBind true p }) s

/-- A pending object write (R403). -/
def State.audPend (s : State) : State :=
  let l := s.aud.pend
  let s : State := { s with aud := { s.aud with pend := [] } }
  l.foldl (fun s x => if x.1 = 0xA00000 then s.audClkWrite x.2 else s.takeFields x.2 (fieldsAt x.1)) s

/-- The outputs once the number has advanced: those of the ended tide `n` are fetched; at an apply or a re-phase the
inputs and outputs gathered before are dropped (R58). -/
def State.audOutputs (s : State) (n : Nat) (sel : Nat → Nat → Nat) : State :=
  let s := (List.range 8).foldl (fun s p => s.audFetch p n sel) ((List.range 8).foldl (fun s p =>
    s.onOut p fun o => { o with play := if s.tide.mute = 0 then o.next else none }) s)
  if s.tide.mute = 3 then (List.range 8).foldl (fun s p => (s.audIn p).binds.foldl (fun s b => s.audDrop b)
    (s.onOut p fun o => { o with next := none })) s else s

/-- The rest of the audio block's boundary, once sets are assigned: settings are taken, entries are zeroed for the next
tide, samples of the frames that the boundary cut are stored. -/
def State.audBoundary (s : State) : State :=
  let s := s.audPend.audSettings
  let s : State := { s with aud := { s.aud with afs := s.aud.nafs, nafs := 0, wait := s.on AUD_CLK_LOST } }
  (List.range 8).foldl (fun s p =>
    let i := s.audIn p
    let s := if s.aud.on ∧ i.on then i.binds.foldl (fun s b => (s.audFirst b).audZero b) s else s
    let s := s.onIn p fun i => { i with cnt := i.ncnt, ncnt := 0, carry := [], stamp := i.nstamp, nstamp := none
                                        lost := s.on AUD_CLK_LOST }
    i.carry.foldl (fun s x => s.audStore p x.1 x.2.1 x.2.2) s) s

end Sys2Proof.Machine
end

