-- ==== Sys2Proof/Machine/Ring.lean ====
section
/-! DEFINITION. The ring ports, neighbour windows, AES67 streams and the causeway (chapter 17). -/

namespace Sys2Proof.Machine

/-! ## The causeway (R425, R426) -/

/-- A cause of R425: from the joined position the relays go to bypass, both links break, and CAUSE records it. -/
def State.toBypass (s : State) (cause : Nat) : State :=
  if s.on RING_CAUSEWAY_BYPASS then s
  else (s.wrs [(RING_CAUSEWAY_BYPASS, 1), (RING_CAUSEWAY_CAUSE, cause), (RING_STATUS_LINK_A, 0), (RING_STATUS_LINK_B, 0),
    (RING_STATUS_SPD_A, 0), (RING_STATUS_SPD_B, 0), (RING_STATUS_CAP, 0), (RING_STATUS_CLOSED, 0)]).emit (.relay true)

/-- The conditions of R426 to leave bypass: start-up done, EN and CAP_OK 1, FORCE 0 and no cause of R425 in force. -/
def State.mayLeave (s : State) : Bool :=
  s.on RING_CAUSEWAY_BYPASS && s.rg GC_STATUS_PHASE == 3 && s.on RING_CTRL_EN && s.on RING_CAUSEWAY_CAP_OK &&
    !s.on RING_CAUSEWAY_FORCE && s.pins.v12 && s.pins.control && s.pins.compute && !s.pins.mrst && !s.ring.watchdog &&
    decide (s.rg PWR_STATUS_STATE ≤ 3)

/-- The relays leave bypass at the first moment at which R426 allows it. -/
def State.leaveBypass (s : State) : State :=
  if s.mayLeave then (s.wr RING_CAUSEWAY_BYPASS 0).emit (.relay false) else s

/-- CAUSEWAY_LEAVE_BYPASS (R426). -/
def execCausewayLeaveBypass (s : State) : Res := .next s.leaveBypass

/-- CAP_OK_SET: the stored-energy circuit is measured charged (R425, R426). -/
def execCapOkSet (s : State) : Res :=
  .next (if s.pins.sb ∧ s.pins.control then (s.wr RING_CAUSEWAY_CAP_OK 1).leaveBypass else s)

/-- RING_WATCHDOG_EXPIRY: the network core has not served the ports for 100 ms (R425). -/
def execRingWatchdogExpiry (s : State) : Res :=
  .next (({ s with ring := { s.ring with watchdog := true } } : State).toBypass 8)

/-- A write of FORCE (R425, R426, R429). -/
def State.ringForce (s : State) (v : Nat) : State :=
  let s := s.wr RING_CAUSEWAY_FORCE v
  if s.on RING_CAUSEWAY_FORCE then s.toBypass 7 else s.leaveBypass

/-! ## Links (R404, R412) -/

def linkFld (p : Nat) : Fld := if p = 0 then RING_STATUS_LINK_A else RING_STATUS_LINK_B
def spdFld (p : Nat) : Fld := if p = 0 then RING_STATUS_SPD_A else RING_STATUS_SPD_B

/-- Whether a port can send and receive. -/
def State.linkOn (s : State) (p : Nat) : Bool := s.on RING_CTRL_EN && s.on (linkFld p)

/-- LINK_UP: training ends on port `p`, at 25 Gb/s when `fast`, otherwise at 10 Gb/s; RATE may allow one speed only. -/
def execLinkUp (p : Fin 2) (fast : Bool) (s : State) : Res :=
  .next (if ¬ s.on RING_CTRL_EN ∨ s.on RING_CAUSEWAY_BYPASS ∨ (s.rg RING_CTRL_RATE = 1 ∧ ¬ fast) then s
    else
      let spd := if fast ∧ s.rg RING_CTRL_RATE ≠ 2 then 2 else 1
      let s := s.wrs [(linkFld p.val, 1), (spdFld p.val, spd)]
      s.wr RING_STATUS_CAP s.capNow)

/-- LINK_DOWN (R426). -/
def execLinkDown (p : Fin 2) (s : State) : Res :=
  .next (let s := s.wrs [(linkFld p.val, 0), (spdFld p.val, 0)]
         (s.wr RING_STATUS_CAP s.capNow).wr RING_STATUS_CLOSED 0)

/-! ## Members and addresses (R406 to R408) -/

def State.mac (s : State) : Nat := s.rg RING_MAC

/-- Entries of the member table of index `i`. -/
def State.claimsOf (s : State) (i : Nat) : List Claim := s.ring.claims.filter fun c => c.idx == i

/-- Index `i` is claimed twice: by two MACs, or by another MAC than the module's when it is its own (R408). -/
def State.dup (s : State) (i : Nat) : Bool :=
  decide (2 ≤ (s.claimsOf i).length) || (i == s.rg RING_INDEX_INDEX && (s.claimsOf i).any fun c => c.mac != s.mac)

/-- MEMBERS and DUPIDX from the table; windows whose peer is claimed twice, or all when the own index is, close. -/
def State.members (s : State) : State :=
  let m := (List.range 16).foldl (fun a i => if (s.claimsOf i).isEmpty then a else a + 2 ^ i) 0
  let s := (s.wr RING_MEMBERS m).wr RING_STATUS_DUPIDX (b2n ((List.range 16).any s.dup))
  (List.range 64).foldl (fun s w =>
    if s.on (WIN_CTRL_OPEN w) ∧ (s.dup (s.rg (WIN_CTRL_PEER w)) ∨ s.dup (s.rg RING_INDEX_INDEX)) then s.wr (WIN_CTRL_OPEN w) 0
    else s) s

/-- Port and HOPS of a member's nearest arrival. -/
def Claim.near (c : Claim) : Nat × Nat :=
  match c.a, c.b with
  | some x, some y => if y.1 < x.1 then (1, y.1) else (0, x.1)
  | some x, none => (0, x.1)
  | none, some y => (1, y.1)
  | none, none => (0, 15)

/-- MAC and port towards the module of index `i`. -/
def State.toward (s : State) (i : Nat) : Option (Nat × Nat) := ((s.claimsOf i).head?).map fun c => (c.mac, c.near.1)

/-! ## Frames (R407, R413) -/

def macBroadcast : Nat := 0xFFFFFFFFFFFF
/-- 03:00:00:00:00:B6, the beacons' address (R408). -/
def macBeacon : Nat := 0x0300000000B6
/-- IEEE 802.1AS's group address. -/
def macGptp : Nat := 0x0180C200000E

def fDst (f : List Byte) : Nat := beNat (slice f 0 6)
def fSrc (f : List Byte) : Nat := beNat (slice f 6 6)

/-- EtherType and the rest of a frame after its addresses and 802.1Q tag, and the R-TAG sequence if it has one. -/
def fBody (f : List Byte) : Option Nat × Nat × List Byte :=
  let g := f.drop 12
  let g := if beNat (slice g 0 2) = 0x8100 then g.drop 4 else g
  if beNat (slice g 0 2) = 0xF1C1 then (some (beNat (slice g 4 2)), beNat (slice g 6 2), g.drop 8)
  else (none, beNat (slice g 0 2), g.drop 2)

def fType (f : List Byte) : Nat := (fBody f).2.1

/-- A tile frame's header and what follows it. -/
def tHead (f : List Byte) : List Byte := ((fBody f).2.2).take 32
def tRest (f : List Byte) : List Byte := ((fBody f).2.2).drop 32
def hType (h : List Byte) : Nat := leAt h 0 1 % 16
def hWin (h : List Byte) : Nat := leAt h 2 2
def hGen (h : List Byte) : Nat := leAt h 4 2
def hTide (h : List Byte) : Nat := leAt h 6 6
def hFidx (h : List Byte) : Nat := leAt h 12 2
def hSrc (h : List Byte) : Nat := leAt h 16 1
def hHops (h : List Byte) : Nat := leAt h 18 1

/-- A tile frame of type `n`, a beacon as type 4. -/
def isTile (n : Nat) (f : List Byte) : Bool := fType f == 0x88B6 && hType (tHead f) == n

/-- The CRC-32C of a tile frame covers the header and the payload of a DATA or VOID frame (R413). -/
def tileCrcOk (f : List Byte) : Bool :=
  let h := tHead f
  let n := if hType h < 2 then 1024 else 0
  let r := tRest f
  r.length == n + 4 && crc32c (h ++ r.take n) == leAt r n 4

/-- Group address of an IPv4 multicast address. -/
def macGroup (ip : Nat) : Nat := 0x01005E000000 + ip % 2 ^ 23

/-- The in-force descriptor of AES67 stream `i` (R423, R429). -/
def State.aesDesc (s : State) (i : Nat) : List Byte := fitTo 32 (s.ring.descs.get i [])
def aEn (d : List Byte) : Bool := bit (leAt d 0 1) 0
def aL24 (d : List Byte) : Bool := bit (leAt d 0 1) 1
def aRepl (d : List Byte) : Bool := bit (leAt d 0 1) 2
def aNch (d : List Byte) : Nat := leAt d 1 1
def aPt (d : List Byte) : Nat := leAt d 2 2
def aAddr (d : List Byte) : Nat := leAt d 4 4
def aPort (d : List Byte) : Nat := leAt d 8 2
def aPtype (d : List Byte) : Nat := leAt d 10 1
def aSsrc (d : List Byte) : Nat := leAt d 12 4
def aLink (d : List Byte) : Nat := leAt d 16 4
def aRtpOff (d : List Byte) : Nat := leAt d 20 4
/-- Where a stream's samples stand, as a binding of channels from 0 (R393, R397). -/
def aBind (d : List Byte) : AudBind := ⟨aEn d, leAt d 24 1 % 16, leAt d 25 1 % 32, leAt d 26 1 % 64, leAt d 27 1 % 64, 0, aNch d⟩

/-- A multicast group that the module has joined (R407, R423). -/
def State.joined (s : State) (m : Nat) : Bool :=
  m == macBroadcast || m == macBeacon ||
    (List.range 32).any fun i => aEn (s.aesDesc i) && macGroup (aAddr (s.aesDesc i)) == m

/-- The other port. -/
def otherPort (p : Nat) : Nat := 1 - p

/-- A frame handed to the module's own functions. -/
def State.deliver (s : State) (p : Nat) (f : List Byte) : State :=
  { s with ring := { s.ring with inbox := s.ring.inbox ++ [⟨p, s.rg TIME_NOW, f⟩] } }

/-- A frame in flight through the module, HOPS raised in a beacon (R407, R408). -/
def forwarded (f : List Byte) : List Byte :=
  if isTile 4 f then
    let o := f.length - ((fBody f).2.2).length
    let h := patch (tHead f) 18 (natLE 1 (hHops (tHead f) + 1))
    patch f o (h ++ natLE 4 (crc32c h))
  else f

/-- RING_FRAME_RECEIVE: a frame, without its FCS, arrives on port `p`; `fcs`: the FCS compares (R404, R407, R419). -/
def State.ringFrame (s : State) (p : Nat) (f : List Byte) (fcs : Bool) : State :=
  if ¬ s.linkOn p then s
  else
    let s := s.bump (RING_PORT_RX p)
    if 2044 < f.length then s.bump (RING_PORT_FCS p)
    else
      let dst := fDst f
      let beacon := isTile 4 f
      let own := fSrc f == s.mac
      let ring := !s.on RING_CTRL_MODE
      let s := if fcs then s else s.bump (RING_PORT_FCS p)
      if ring ∧ (own ∨ (beacon ∧ hHops (tHead f) = 15)) then (if fcs ∧ own ∧ beacon then s.deliver p f else s)
      else if fType f = 0x88F7 then s
      else
        let deliver := fcs && (dst == s.mac || s.joined dst)
        let fwd := ring && dst != s.mac && (s.ring.claims.any (fun c => c.mac == fSrc f) || beacon) &&
          s.linkOn (otherPort p)
        let s := if deliver then s.deliver p f else s
        if ¬ fwd then s
        else if fcs then ((s.bump (RING_PORT_FWD p)).bump (RING_PORT_TX (otherPort p))).emit (.frame (otherPort p) (forwarded f))
        else (((s.bump (RING_PORT_FWD p)).bump (RING_PORT_STOMP p)).bump (RING_PORT_TX (otherPort p))).emit
          (.badFrame (otherPort p) (forwarded f))

def execRingFrameReceive (p : Fin 2) (f : List Byte) (fcs : Bool) (s : State) : Res :=
  .next (s.ringFrame p.val f fcs)

/-- The oldest delivered frame that `is` accepts, taken from the queue. -/
def State.takeFrame (s : State) (is : List Byte → Bool) : Option (RxFrame × State) :=
  (s.ring.inbox.find? fun r => is r.bytes).map fun r =>
    (r, { s with ring := { s.ring with inbox := s.ring.inbox.eraseP fun r => is r.bytes } })

/-- A frame sent out of port `p`, if its link is up. -/
def State.sendFrame (s : State) (p : Nat) (f : List Byte) : State :=
  if s.linkOn p then (s.bump (RING_PORT_TX p)).emit (.frame p f) else s

/-- The 802.1Q tag of a class (R404, R409). -/
def State.vlanTag (s : State) (pcp : Nat) : List Byte := natBE 2 0x8100 ++ natBE 2 (pcp * 2 ^ 13 + s.rg RING_VLAN_VID)

/-- A tile header (R413). -/
def tileHeader (typ flags win gen tide fidx nfr src status : Nat) (tail : List Byte := []) : List Byte :=
  natLE 1 (0x10 + typ) ++ natLE 1 flags ++ natLE 2 win ++ natLE 2 gen ++ natLE 6 tide ++ natLE 2 fidx ++ natLE 2 nfr ++
    natLE 1 src ++ natLE 1 status ++ natLE 1 0 ++ fitTo 13 tail

/-- A whole tile frame but its FCS (R413); `payload` none for TYPE 2 to 4. -/
def State.tileFrame (s : State) (dst : Nat) (h : List Byte) (payload : Option (List Byte)) : List Byte :=
  let seq := hTide h * 512 + hFidx h
  natBE 6 dst ++ natBE 6 s.mac ++ s.vlanTag (s.rg RING_CTRL_PCP_TILE) ++
    (if payload.isSome then natBE 2 0xF1C1 ++ zeros 2 ++ natBE 2 seq else []) ++ natBE 2 0x88B6 ++ h ++
    payload.getD [] ++ natLE 4 (crc32c (h ++ payload.getD []))

/-! ## Beacons (R408, R411, R469) -/

def State.winSt (s : State) (w : Nat) : WinSt := s.ring.wins.get w {}
def State.onWin (s : State) (w : Nat) (f : WinSt → WinSt) : State :=
  { s with ring := { s.ring with wins := s.ring.wins.set w (f (s.winSt w)) {} } }

/-- The windows in use of one direction: 0 receive, 1 send. -/
def State.winsOf (s : State) (dir : Nat) : List Nat :=
  (List.range 64).filter fun w => s.on (WIN_CTRL_EN w) && s.rg (WIN_CTRL_DIR w) == dir

/-- Tile frames that the module sends in a tide out of port `p`: direct frames and long-way copies (R411, R421). -/
def State.sentLoads (s : State) (p : Nat) : Nat × Nat :=
  (s.winsOf 1).foldl (fun a w =>
    let port := ((s.toward (s.rg (WIN_CTRL_PEER w))).map fun x => x.2).getD 1
    let n := s.rg (WIN_CTRL_NFR w)
    (a.1 + (if port = p then n else 0),
      a.2 + (if s.on (WIN_CTRL_REPL w) ∧ ¬ s.on RING_CTRL_MODE ∧ port ≠ p then n else 0))) (0, 0)

/-- NFR and REPL of the receive windows of the sets, but set `own`, that the beacon announces, with the port their frames come in
on. -/
def State.announcing (s : State) (own : Nat := 0) : List (Nat × Bool × Nat) :=
  (s.loader.sets.filter fun x => x.state == 1 && x.announced && x.handle != own).flatMap fun x =>
    (x.windows.filter fun w => !bit w.2.1 30).map fun w =>
      (bits w.2.1 0 10, bit w.2.1 29, ((s.toward (bits w.2.1 16 4)).map fun y => y.2).getD 0)

/-- The loads a beacon gives: what the module sends, and under the port they come in on the windows it announces. -/
def State.beaconLoads (s : State) (p : Nat) : Nat × Nat :=
  (s.announcing).foldl (fun a w => (a.1 + (if w.2.2 = p then w.1 else 0), a.2 + (if w.2.1 ∧ w.2.2 ≠ p then w.1 else 0)))
    (s.sentLoads p)

/-- The beacon of a tide boundary, on both ports. -/
def State.sendBeacon (s : State) : State :=
  let i := s.rg RING_INDEX_INDEX
  if 15 < i then s
  else
    let a := s.beaconLoads 0
    let b := s.beaconLoads 1
    let tset := s.rg TIDE_ACTIVE_SRC + 4 * s.rg TIDE_ACTIVE_RATE + 16 * s.rg TIDE_STATUS_ALIGNED
    let tail := natLE 2 (s.rg TIDE_ACTIVE_PERIOD) ++ natLE 1 tset ++ zeros 2 ++ natLE 2 a.1 ++ natLE 2 b.1 ++ natLE 2 a.2 ++
      natLE 2 b.2
    let f := s.tileFrame macBeacon (tileHeader 4 0 0 0 (s.rg TIDE_NUM) 0 0 i 0 tail) none
    (s.sendFrame 0 f).sendFrame 1 f

/-- A member entry after a beacon on port `p` with header `h`. -/
def Claim.hear (c : Claim) (p : Nat) (h : List Byte) : Claim :=
  let x := some (hHops h, 0)
  let d := (leAt h 24 2, leAt h 26 2)
  let l := (leAt h 28 2, leAt h 30 2)
  { c with
    a := if p = 0 then x else c.a
    b := if p = 1 then x else c.b
    age := 0, period := leAt h 19 2 % 8192, tset := leAt h 21 1
    direct := d, long := l
    rose := c.rose || decide (c.direct.1 < d.1 ∨ c.direct.2 < d.2 ∨ c.long.1 < l.1 ∨ c.long.2 < l.2) }

/-- A delivered beacon is handled (R408): the module's own closes the ring, another's enters the member table. -/
def State.beacon (s : State) (r : RxFrame) : State :=
  let h := tHead r.bytes
  if ¬ tileCrcOk r.bytes then s.bump (RING_PORT_CRC r.port)
  else if fSrc r.bytes = s.mac then
    ({ s with ring := { s.ring with ownSeen := true } } : State).wr RING_STATUS_CLOSED 1
  else if 15 < hSrc h then s
  else
    let me (c : Claim) : Bool := c.idx == hSrc h && c.mac == fSrc r.bytes
    let l := if s.ring.claims.any me then s.ring.claims else s.ring.claims ++ [{ idx := hSrc h, mac := fSrc r.bytes }]
    ({ s with ring := { s.ring with claims := l.map fun c => if me c then c.hear r.port h else c } } : State).members

/-- BEACON_RECEIVE. -/
def execBeaconReceive (s : State) : Res :=
  .next (match s.takeFrame (isTile 4) with
    | some r => r.2.beacon r.1
    | none => s)

/-- MEMBER_EXPIRY: the entries of index `i` with no beacon for 3 tides expire (R408). -/
def execMemberExpiry (i : Fin 16) (s : State) : Res :=
  .next (({ s with ring := { s.ring with claims := s.ring.claims.filter fun c => c.idx != i.val || decide (c.age < 3) } } : State).members)

/-- The table at a boundary: a tide has passed, arrivals on one port that are 3 tides old are forgotten; CLOSED falls when
the own beacon did not come back in the tide. -/
def State.ageMembers (s : State) : State :=
  let old (x : Option (Nat × Nat)) : Option (Nat × Nat) := x.bind fun y => if y.2 < 2 then some (y.1, y.2 + 1) else none
  let s := if s.ring.ownSeen then s else s.wr RING_STATUS_CLOSED 0
  { s with ring := { s.ring with
    ownSeen := false
    claims := s.ring.claims.map fun c =>
      let age := c.age + 1
      { c with a := old c.a, b := old c.b, age := age, rose := false } } }

/-! ## Link loads (R411) -/

/-- The member next to `c`, seen from the module, in direction A (false) or B; `none` is the module itself. -/
def State.beyond (s : State) (b : Bool) (hops : Nat) : Option Claim :=
  s.ring.claims.find? fun c => (if b then c.b else c.a).map (fun h => h.1) == some hops

/-- The load of the link out of the module `from'` places away in direction `b` (0: the module itself), and of those after
it to the end of the ring: each carries its sender's direct frames in that direction and every long-way copy of that
direction but those started by the module it leads to. -/
def State.linkLoads (s : State) (b : Bool) : Nat → Nat → List (Nat × Nat)
  | 0, _ => []
  | f + 1, k =>
    let own (p : Nat × Nat) : Nat := if b then p.2 else p.1
    let me := s.sentLoads (if b then 1 else 0)
    let total := me.2 + s.ring.claims.foldl (fun a c => a + own c.long) 0
    let dir := if k = 0 then me.1 else ((s.beyond b (k - 1)).map fun c => own c.direct).getD 0
    let next := s.beyond b k
    let skip := match next with
      | some c => own c.long
      | none => me.2
    if k ≠ 0 ∧ (s.beyond b (k - 1)).isNone then []
    else (k, dir + total - skip) :: s.linkLoads b f (k + 1)

/-- Whether the receive windows of a set keep every link direction that their frames and copies cross within CAP: directly
the link from the neighbour, the long way every other link of the other direction (R411). -/
def State.loadsOk (s : State) (x : ProgSet) : Bool :=
  let ws := (x.windows.filter fun w => !bit w.2.1 30).map fun w =>
    (bits w.2.1 0 10, bit w.2.1 29, ((s.toward (bits w.2.1 16 4)).map fun y => y.2).getD 0)
  let new := ws ++ s.announcing x.handle
  let cap := s.rg RING_STATUS_CAP
  let direct (p : Nat) : Nat := (new.filter fun w => w.2.2 == p).foldl (fun a w => a + w.1) 0
  let long (p : Nat) : Nat := (new.filter fun w => w.2.1 && w.2.2 == p).foldl (fun a w => a + w.1) 0
  (List.range 2).all fun p =>
    let up := s.linkLoads (p == 0) 16 0
    let last := (up.getLast?.map fun l => l.1).getD 0
    ws.all (fun w => w.2.2 != p) ||
      (up.all (fun l => l.1 != last || decide (l.2 + direct p ≤ cap)) &&
        (s.on RING_CTRL_MODE || long p == 0 ||
          (s.linkLoads (p == 1) 16 0).all fun l => l.1 == 0 || decide (l.2 + long p ≤ cap)))

/-- Announcements made in one tide that together exceed a link: whether the module's receiver has the lowest ring index of those
whose loads rose in the tide that ends (R411). -/
def State.lowestRise (s : State) : Bool :=
  let l := s.ring.claims.filter fun c => c.rose
  !l.isEmpty && l.all fun c => decide (s.rg RING_INDEX_INDEX < c.idx)

/-! ## Windows: receive side (R414 to R416, R419, R420) -/

/-- Both modules have the same applied period and source and both are ALIGNED (R415). -/
def State.sameTide (s : State) (peer : Nat) : Bool :=
  s.on TIDE_STATUS_ALIGNED && (s.claimsOf peer).any fun c =>
    c.period == s.rg TIDE_ACTIVE_PERIOD && c.tset == s.rg TIDE_ACTIVE_SRC + 4 * s.rg TIDE_ACTIVE_RATE + 16

/-- A receive side that is in use opens at a boundary where R408 and R415 allow it. -/
def State.openWin (s : State) (w : Nat) : State :=
  let peer := s.rg (WIN_CTRL_PEER w)
  if s.on (WIN_CTRL_OPEN w) ∨ 15 < s.rg RING_INDEX_INDEX ∨ s.dup (s.rg RING_INDEX_INDEX) ∨ s.dup peer ∨ ¬ s.sameTide peer then s
  else
    let last := s.rg (WIN_GEN_GEN w)
    let g := s.rg TIDE_NUM % 65536
    (s.wrs [(WIN_GEN_LAST w, last), (WIN_GEN_GEN w, if g = last then g + 1 else g), (WIN_CTRL_OPEN w, 1)]).onWin w
      fun x => { x with acc := [], gotVoid := false, stamp := none }

/-- A GRANT for the next tide to the peer, and to ALT (R416, R422). -/
def State.sendGrant (s : State) (w : Nat) : State :=
  let n := s.rg (WIN_CTRL_NFR w)
  let h := tileHeader 2 0 w (s.rg (WIN_GEN_GEN w)) (s.rg TIDE_NUM + 1) n n (s.rg RING_INDEX_INDEX) 0
  let toIdx (s : State) (i : Nat) : State := match s.toward i with
    | some x => s.sendFrame x.2 (s.tileFrame x.1 h none)
    | none => s
  let s := toIdx s (s.rg (WIN_CTRL_PEER w))
  if s.on (WIN_CTRL_ALTEN w) then toIdx s (s.rg (WIN_CTRL_ALT w)) else s

/-- A stale frame is counted, and answered with one CLOSED frame per window and tide (R419, R420). -/
def State.staleFrame (s : State) (r : RxFrame) : State :=
  let h := tHead r.bytes
  let w := hWin h
  if 64 ≤ w then s
  else
    let s := s.bump (WIN_STALE w)
    if (s.winSt w).closedIn = some (s.rg TIDE_NUM) then s
    else
      let c := tileHeader 3 0 w (hGen h) (hTide h) 0 0 (s.rg RING_INDEX_INDEX) 0x21
      (s.onWin w fun x => { x with closedIn := some (s.rg TIDE_NUM) }).sendFrame r.port
        (s.tileFrame (fSrc r.bytes) c none)

/-- Row `row` of a receive side for the coming tide. -/
def State.winRow (s : State) (w row : Nat) (b : List Byte) : State :=
  if s.on (WIN_CTRL_TGT w) then
    s.putRow (tsAddr (s.rg (WIN_LOC_TERR w)) (s.rg (WIN_TROW w) + (s.rg TIDE_NUM + 1) % 2 * (2 * s.rg (WIN_CTRL_NFR w)) + row)) b
  else
    s.heldRows (s.rg (WIN_LOC_TERR w)) (s.rg (WIN_LOC_POS w)) (s.rg (WIN_LOC_SLOT w)) row [b]

/-- The checks of R419 in their order after FCS, for a DATA or VOID frame; `ok` is what an accepted one does. -/
def State.tileRx (s : State) (r : RxFrame) (ok : State → State) : State :=
  let h := tHead r.bytes
  let w := hWin h
  let seq := ((fBody r.bytes).1).getD 0
  if 64 ≤ w ∨ ¬ s.on (WIN_CTRL_EN w) ∨ s.on (WIN_CTRL_DIR w) ∨ ¬ s.on (WIN_CTRL_OPEN w) ∨ hGen h ≠ s.rg (WIN_GEN_GEN w) then
    s.staleFrame r
  else if hTide h ≠ s.rg TIDE_NUM + 1 ∨ s.boundaryTime < (r.time : Int) + 1000 then s.bump (RING_PORT_LATE r.port)
  else if ¬ tileCrcOk r.bytes then s.bump (RING_PORT_CRC r.port)
  else if (s.winSt w).acc.contains seq then s.bump (RING_PORT_DUP r.port)
  else
    let st := s.stamp.bytes
    (ok s).onWin w fun x => { x with acc := x.acc ++ [seq], stamp := x.stamp.orElse fun _ => some st }

/-- TILE_DATA_RECEIVE (R419): the oldest delivered DATA frame. -/
def State.tileData (s : State) (r : RxFrame) : State :=
  let h := tHead r.bytes
  let w := hWin h
  let p := tRest r.bytes
  s.tileRx r fun s =>
    if s.rg (WIN_CTRL_NFR w) ≤ hFidx h then s
    else (s.winRow w (2 * hFidx h) (slice p 0 512)).winRow w (2 * hFidx h + 1) (slice p 512 512)

def execTileDataReceive (s : State) : Res :=
  .next (match s.takeFrame (isTile 0) with
    | some r => r.2.tileData r.1
    | none => s)

/-- TILE_VOID_RECEIVE (R419): the oldest delivered VOID frame marks the entry void. -/
def State.tileVoid (s : State) (r : RxFrame) : State :=
  s.tileRx r fun s => s.onWin (hWin (tHead r.bytes)) fun x => { x with gotVoid := true }

def execTileVoidReceive (s : State) : Res :=
  .next (match s.takeFrame (isTile 1) with
    | some r => r.2.tileVoid r.1
    | none => s)

/-- Whether all frames of a window for tide `n` have been written. -/
def State.winWhole (s : State) (w n : Nat) : Bool :=
  !(s.winSt w).gotVoid && (List.range (s.rg (WIN_CTRL_NFR w))).all fun i => (s.winSt w).acc.contains ((n * 512 + i) % 65536)

/-- At the boundary that begins tide n, with the pairs changed: the entry of a receive side is set, or is void, counted and
recorded (R414, R419); whether its readers are stopped. -/
def State.winEntry (s : State) (w : Nat) : Bool × State :=
  let n := s.rg TIDE_NUM
  let x := s.winSt w
  let t := s.rg (WIN_LOC_TERR w)
  let p := s.rg (WIN_LOC_POS w)
  let nfr := s.rg (WIN_CTRL_NFR w)
  let whole := s.on (WIN_CTRL_OPEN w) && s.winWhole w n
  let s := if whole then s else s.bump (WIN_MISS w)
  let s := if whole ∧ ¬ s.on (WIN_CTRL_TGT w) then
      (List.range (ceilDiv (2 * nfr) 8)).foldl (fun s i => s.setPresent t p (s.rg (WIN_LOC_SLOT w) + 2 * i + n % 2)) s
    else s
  let s := if s.on (WIN_CTRL_TGT w) ∧ s.rg (WIN_LOC_RSLOT w) ≠ 63 then
      let st := match x.stamp with
        | some b => (b, s)
        | none => let f := s.free; (natLE 16 f.1, f.2)
      let k := s.rg (WIN_LOC_RSLOT w) + n % 2
      let rec' := st.1 ++ natLE 2 x.acc.length ++ natLE 1 (b2n (!whole && !x.gotVoid) + 2 * b2n x.gotVoid)
      (st.2.slotRow t p k 0 rec').setPresent t p k
    else s
  (!whole, s.onWin w fun x => { x with acc := [], gotVoid := false, stamp := none })

/-! ## Windows: send side (R412, R416 to R418, R420, R421) -/

/-- The send sides that a GRANT or CLOSED from `src` for window `w` concerns. -/
def State.sendersOf (s : State) (w src : Nat) : List Nat :=
  (s.winsOf 1).filter fun i => s.rg (WIN_LOC_PWIN i) == w && s.rg (WIN_CTRL_PEER i) == src

/-- GRANT_RECEIVE (R416): credits for a target tide; the send side resumes, unless its peer's index or the module's own is claimed
twice (R408). -/
def State.grant (s : State) (r : RxFrame) : State :=
  let h := tHead r.bytes
  if ¬ tileCrcOk r.bytes then s.bump (RING_PORT_CRC r.port)
  else if s.dup (hSrc h) ∨ s.dup (s.rg RING_INDEX_INDEX) then s
  else (s.sendersOf (hWin h) (hSrc h)).foldl (fun s i =>
    let g := s.rg (WIN_GEN_GEN i)
    let s := if g = hGen h then s else s.wrs [(WIN_GEN_LAST i, g), (WIN_GEN_GEN i, hGen h)]
    (s.wr (WIN_CTRL_OPEN i) 1).onWin i fun x => { x with tgt := hTide h, credits := hFidx h, mac := fSrc r.bytes
                                                         stopped := false, noGrant := 0, posted := false }) s

def execGrantReceive (s : State) : Res :=
  .next (match s.takeFrame (isTile 2) with
    | some r => r.2.grant r.1
    | none => s)

/-- A send side's WINDOW_CLOSED event (R420, R467). -/
def State.winClosedEvent (s : State) (i why : Nat) : State :=
  s.postEvent 0x0020 3 i (natLE 2 why ++ natLE 2 (s.rg (WIN_GEN_GEN i)))

/-- CLOSED_RECEIVE (R420): of the latest generation it stops the send side; an older one is counted and ignored. -/
def State.closedFrame (s : State) (r : RxFrame) : State :=
  let h := tHead r.bytes
  if ¬ tileCrcOk r.bytes then s.bump (RING_PORT_CRC r.port)
  else (s.sendersOf (hWin h) (hSrc h)).foldl (fun s i =>
    if hGen h ≠ s.rg (WIN_GEN_GEN i) then s.bump (WIN_STALE i)
    else ((s.wrs [(WIN_CTRL_CLOSED i, 1), (WIN_CTRL_OPEN i, 0)]).onWin i fun x => { x with stopped := true, credits := 0 }).winClosedEvent i 0) s

def execClosedReceive (s : State) : Res :=
  .next (match s.takeFrame (isTile 3) with
    | some r => r.2.closedFrame r.1
    | none => s)

/-- GRANT_TIMEOUT: send side `w` has received no GRANT for 3 tides; posted once (R420). -/
def execGrantTimeout (w : Fin 64) (s : State) : Res :=
  .next (let x := s.winSt w.val
         if s.on (WIN_CTRL_EN w.val) ∧ s.on (WIN_CTRL_DIR w.val) ∧ 3 ≤ x.noGrant ∧ ¬ x.posted then
           ((s.wr (WIN_CTRL_OPEN w.val) 0).onWin w.val fun x => { x with posted := true }).winClosedEvent w.val 1
         else s)

/-- The port of a send side's frames. -/
def State.winPort (s : State) (w : Nat) : Nat := ((s.toward (s.rg (WIN_CTRL_PEER w))).map fun x => x.2).getD 1

/-- Send sides of port `p` that do not fit its capacity, the rest being kept in order of rising number (R412). -/
def State.unfit (s : State) (p : Nat) : List Nat :=
  let cap := s.capOf (s.rg (spdFld p))
  ((s.winsOf 1).foldl (fun (a : Nat × List Nat) w =>
    if s.winPort w ≠ p then a
    else
      let n := a.1 + s.rg (WIN_CTRL_NFR w)
      if n ≤ cap then (n, a.2) else (a.1, a.2 ++ [w])) (0, [])).2

/-- LINK_RATE_FALL: port `p` falls to 10 Gb/s; the windows that no longer fit are posted (R412, R467). -/
def execLinkRateFall (p : Fin 2) (s : State) : Res :=
  .next (if ¬ s.on (linkFld p.val) ∨ s.rg RING_CTRL_RATE = 1 then s
    else
      let s := s.wr (spdFld p.val) 1
      let s := s.wr RING_STATUS_CAP s.capNow
      s.postEvent 0x0021 3 p.val (natLE 8 ((s.unfit p.val).foldl (fun a w => a + 2 ^ w) 0)))

/-- The rows of a send side's tide n output in tide n + 1, and the state with its slots released; none when a slot is not
there (R414, R417, R418), or when a row cannot be corrected (DESIGN CHOICE: a row that is not delivered makes the tide void). -/
def State.winData (s : State) (w : Nat) : Option (List (List Byte)) × State :=
  let n := s.rg TIDE_NUM - 1
  let t := s.rg (WIN_LOC_TERR w)
  let p := s.rg (WIN_LOC_POS w)
  let rows := 2 * s.rg (WIN_CTRL_NFR w)
  if s.on (WIN_CTRL_TGT w) then
    let a := s.rg (WIN_TROW w) + n % 2 * rows
    s.readRows (fun s r => s.readTs t (a + r)) rows
  else
    let np := ceilDiv rows 8
    let k := s.rg (WIN_LOC_SLOT w) + n % 2 * np
    let there := (List.range np).all fun i => s.present t p (k + i)
    let r := if there then
        s.readRows (fun s r => s.readRow t p (s.rg (SLOT_CFG_MEM t p (k + r / 8))) (s.rg (SLOT_CFG_BASE t p (k + r / 8)) + r % 8)) rows
      else (none, s)
    (r.1, (List.range np).foldl (fun s i => if s.present t p (k + i) then s.release t p (k + i) false else s) r.2)

/-- WINDOW_SEND: send side `w` sends its DATA or VOID frames for target tide n + 2 under a GRANT, one credit a frame, and
the long-way or second copies (R416 to R418, R421). -/
def State.windowSend (s : State) (w : Nat) : State :=
  let x := s.winSt w
  let nfr := s.rg (WIN_CTRL_NFR w)
  if ¬ s.on (WIN_CTRL_EN w) ∨ ¬ s.on (WIN_CTRL_DIR w) ∨ ¬ s.on (WIN_CTRL_OPEN w) ∨ x.stopped ∨ x.tgt ≠ s.rg TIDE_NUM + 1 ∨ x.credits = 0 then s
  else
    let port := s.winPort w
    let r := s.winData w
    let s := r.2.onWin w fun x => { x with credits := 0 }
    let gen := s.rg (WIN_GEN_GEN w)
    let head (typ flags fidx : Nat) : List Byte :=
      tileHeader typ flags (s.rg (WIN_LOC_PWIN w)) gen x.tgt fidx nfr (s.rg RING_INDEX_INDEX) 0
    let both (s : State) (typ fidx : Nat) (b : List Byte) : State :=
      let s := s.sendFrame port (s.tileFrame x.mac (head typ 0 fidx) (some b))
      if s.on (WIN_CTRL_REPL w) then
        s.sendFrame (otherPort port) (s.tileFrame x.mac (head typ (b2n (!s.on RING_CTRL_MODE)) fidx) (some b))
      else s
    match (if x.voided ∨ (s.unfit port).contains w then none else r.1) with
    | none => both s 1 0 (zeros 1024)
    | some rows => (List.range (min nfr x.credits)).foldl (fun s i =>
        both s 0 i (fitTo 512 (rows.getD (2 * i) []) ++ fitTo 512 (rows.getD (2 * i + 1) []))) s

def execWindowSend (w : Fin 64) (s : State) : Res := .next (s.windowSend w.val)

/-! ## AES67 streams (R423, R424) -/

def State.aesSt (s : State) (i : Nat) : AesSt := s.ring.aes.get i {}
def State.onAes (s : State) (i : Nat) (f : AesSt → AesSt) : State :=
  { s with ring := { s.ring with aes := s.ring.aes.set i (f (s.aesSt i)) {} } }

/-- Whether a binding's entries are HELD pairs in use, so that samples may be written. -/
def State.heldReady (s : State) (b : AudBind) : Bool :=
  b.en && decide (b.t < 12 ∧ b.p < 17) && s.on (SLOT_CFG_EN b.t b.p b.slot) && s.rg (SLOT_CFG_KIND b.t b.p b.slot) == 2

/-- A delivered RTP packet: source, destination, UDP port, payload type, timestamp, SSRC, R-TAG sequence, payload. -/
structure Rtp where
  src : Nat
  dst : Nat
  port : Nat
  ptype : Nat
  time : Nat
  ssrc : Nat
  tag : Option Nat
  payload : List Byte
deriving DecidableEq, Repr

/-- RTP over UDP over IPv4 (R423). -/
def rtpOf (f : List Byte) : Option Rtp :=
  let q := fBody f
  let ip := q.2.2
  let ihl := 4 * (leAt ip 0 1 % 16)
  let udp := (ip.take (beNat (slice ip 2 2))).drop ihl
  let r := udp.drop 8
  if q.2.1 = 0x0800 ∧ leAt ip 0 1 / 16 = 4 ∧ leAt ip 9 1 = 17 ∧ leAt r 0 1 / 64 = 2 ∧ 20 ≤ ihl ∧ 12 ≤ r.length then
    some ⟨beNat (slice ip 12 4), beNat (slice ip 16 4), beNat (slice udp 2 2), leAt r 1 1 % 128, beNat (slice r 4 4),
      beNat (slice r 8 4), q.1, r.drop (12 + 4 * (leAt r 0 1 % 16))⟩
  else none

/-- Whether a received stream's descriptor names the packet. -/
def rtpMatch (d : List Byte) (r : Rtp) : Bool :=
  aEn d && r.port == aPort d && r.ptype == aPtype d && (r.dst == aAddr d || r.src == aAddr d) &&
    (aSsrc d == 0 || aSsrc d == r.ssrc)

/-- A frame some received stream names. -/
def State.isAes (s : State) (f : List Byte) : Bool :=
  match rtpOf f with
  | some r => (List.range 32).any fun i => rtpMatch (s.aesDesc i) r
  | none => false

/-- The media clock at device time `t`: sample periods since the PTP epoch (R424). -/
def State.mediaAt (s : State) (t : Int) : Int := (t * (rateHz s.active.rate : Int)) / 1000000000

/-- Media clock of the first sample of the input window of the current tide (R392): the first period not before it. -/
def State.mediaBase (s : State) : Int := -(s.mediaAt (-((s.rg TIDE_BTIME : Int) - 250)))

/-- A packet's samples wait for their tide; those that come too late for theirs are dropped (R424). -/
def State.aesPacket (s : State) (i : Nat) (r : Rtp) (port time : Nat) : State :=
  let d := s.aesDesc i
  let n := s.aud.n
  let dup : Bool := match r.tag with
    | some q => (s.aesSt i).hist.contains q
    | none => false
  if dup then s.bump (RING_PORT_DUP port)
  else if n = 0 ∨ aNch d = 0 then s
  else
    let bytes := if aL24 d then 3 else 2
    let cyc := (time - s.rg TIDE_BTIME) * s.clkNum / s.clkDen
    let base := s.mediaBase
    let word (k c : Nat) : Nat := beNat (slice r.payload (bytes * (k * aNch d + c)) bytes) * 2 ^ (32 - 8 * bytes)
    let l := (List.range (r.payload.length / (bytes * aNch d))).flatMap fun (k : Nat) =>
      let off := sext 32 (toBits 32 ((r.time : Int) + aLink d - aRtpOff d + (k : Nat) - base))
      let td := off / (n : Int)
      if td < 1 ∨ (td = 1 ∧ 512 < cyc) then []
      else (List.range (aNch d)).map fun c => (s.rg TIDE_NUM + td.toNat, (off % (n : Int)).toNat, c, word k c)
    let st := s.stamp.bytes
    s.onAes i fun x => { x with wait := x.wait ++ l, hist := (r.tag.toList ++ x.hist).take 64
                                stamp := if l.isEmpty then x.stamp else x.stamp.orElse fun _ => some st }

/-- AES67_PACKET_RECEIVE: the oldest delivered packet that a received stream names (R424). -/
def execAes67PacketReceive (s : State) : Res :=
  .next (match s.takeFrame s.isAes with
    | some (f, s) => (match rtpOf f.bytes with
      | some r => (List.range 32).foldl (fun s i => if rtpMatch (s.aesDesc i) r then s.aesPacket i r f.port f.time else s) s
      | none => s)
    | none => s)

/-- A received stream at the boundary that begins tide n: the entries for tide n + 1 are zeroed and the samples of the
input window of tide n written; the record (R394, R395, R397, R424). -/
def State.aesIn (s : State) (i : Nat) : State :=
  let b := aBind (s.aesDesc i)
  if ¬ s.heldReady b ∨ s.aud.n = 0 then s.onAes i fun x => { x with wait := [], stamp := none }
  else
    let n := s.rg TIDE_NUM
    let l := (s.aesSt i).wait.filter fun x => x.1 == n
    let s := s.audZero b
    let s := l.foldl (fun s x =>
      let q := b.placeOf x.2.1 x.2.2.1
      let k := s.heldNext (b.slot + 2 * (q.1 / 8))
      let a := rowAddr b.t b.p (s.rg (SLOT_CFG_MEM b.t b.p k)) (s.rg (SLOT_CFG_BASE b.t b.p k) + q.1 % 8)
      s.slotRow b.t b.p k (q.1 % 8) (patch (s.ld a 512) q.2 (natLE 4 x.2.2.2))) s
    let frames := ((l.map fun x => x.2.1).eraseDups).length
    let st := match (s.aesSt i).stamp with
      | some b => (b, s)
      | none => let f := s.free; (natLE 16 f.1, f.2)
    let s := if b.rslot = 63 then st.2 else
      (st.2.heldRows b.t b.p b.rslot 0 [st.1 ++ natLE 2 frames ++ natLE 1 (b2n (decide (frames < s.aud.n)))]).heldDone b.t b.p b.rslot 1
    s.onAes i fun x => { x with wait := x.wait.filter fun y => decide (n < y.1), stamp := none }

/-- A sent stream at boundary n + 1: the output of tide n is read, or zeros under R399, with the media clock at which a
local output plays it, from boundary n + 2 (R424). -/
def State.aesOut (s : State) (i n : Nat) (sel : Nat → Nat → Nat) : State :=
  let d := s.aesDesc i
  let b := aBind d
  if ¬ aEn d ∨ s.aud.n = 0 ∨ 12 ≤ b.t ∨ 17 ≤ b.p then s.onAes i fun x => { x with out := [] }
  else
    let r := if sel b.t b.p = 1 then s.audFetchBind b n else (none, s.audDiscard b n)
    let frames := match r.1 with
      | some x => x.2
      | none => List.replicate s.aud.n (List.replicate b.nch 0)
    let m := s.mediaAt ((s.rg TIDE_BTIME : Int) + (s.active.pNum / s.active.pDen : Nat)) + aRtpOff d
    let l := (List.range s.aud.n).map fun (k : Nat) => (toBits 32 (m + (k : Nat)), frames.getD k [])
    r.2.onAes i fun x => { x with out := x.out ++ l }

/-- AES67_PACKET_SEND: a packet of sent stream 32 + `i` is formed from the samples that wait and sent (R421, R424). -/
def State.aesSend (s : State) (i : Nat) : State :=
  let d := s.aesDesc i
  let x := s.aesSt i
  let pt := aPt d
  match x.out with
  | [] => s
  | f :: _ =>
    if ¬ aEn d ∨ pt = 0 ∨ x.out.length < pt then s
    else
      let q := match x.seq with
        | some q => (q, s)
        | none => let f := s.free; (f.1 % 65536, f.2)
      let bytes := if aL24 d then 3 else 2
      let body := (x.out.take pt).flatMap fun f => f.2.flatMap fun w => natBE bytes (w / 2 ^ (32 - 8 * bytes))
      let rtp := natBE 2 (0x8000 + aPtype d) ++ natBE 2 q.1 ++ natBE 4 f.1 ++ natBE 4 (aSsrc d) ++ body
      let s := q.2.onAes i fun x => { x with out := x.out.drop pt, seq := some ((q.1 + 1) % 65536) }
      let send (s : State) (p : Nat) : State :=
        if s.linkOn p then (s.bump (RING_PORT_TX p)).emit (.rtp p i q.1 f.1 (some q.1) rtp) else s
      if aRepl d then send (send s 0) 1 else send s (if s.on (linkFld 1) then 1 else 0)

def execAes67PacketSend (i : Fin 32) (s : State) : Res := .next (s.aesSend (32 + i.val))

/-! ## The boundary -/

/-- Object writes that wait for the boundary (R429). -/
def State.ringPend (s : State) : State :=
  let l := s.ring.pend
  let s : State := { s with ring := { s.ring with pend := [] } }
  l.foldl (fun s x =>
    if x.1 = 0x4102 then s.wr RING_VLAN_VID (leNat x.2.2)
    else if 0x4120 ≤ x.1 ∧ x.1 < 0x4160 then
      let s : State := { s with ring := { s.ring with descs := s.ring.descs.set (x.1 - 0x4120) (fitTo 32 x.2.2) [] } }
      s.onAes (x.1 - 0x4120) fun _ => {}
    else s) s

/-- The sent streams at the commit of tide `n`; `sel`: the case of R320 of a station. -/
def State.aesOuts (s : State) (n : Nat) (sel : Nat → Nat → Nat) : State :=
  (List.range 32).foldl (fun s i => s.aesOut (32 + i) n sel) s

/-- The ring once the number has advanced and sets are assigned; `stopped`: the stations whose slice had no outcome OK in
the ended tide. The stations whose void entries stop their slices are answered. -/
def State.ringBoundary (s : State) (stopped : Nat → Nat → Bool) : List (Nat × Nat) × State :=
  let s := s.ageMembers.members
  let r := (s.winsOf 0).foldl (fun (a : List (Nat × Nat) × State) w =>
    let e := a.2.winEntry w
    (if e.1 then a.1 ++ [(s.rg (WIN_LOC_TERR w), s.rg (WIN_LOC_POS w))] else a.1, e.2.openWin w)) ([], s)
  let s := r.2.ringPend
  let s := (List.range 32).foldl (fun s i => s.aesIn i) s
  let s := (s.winsOf 1).foldl (fun s w => s.onWin w fun x =>
    { x with voided := stopped (s.rg (WIN_LOC_TERR w)) (s.rg (WIN_LOC_POS w)), noGrant := x.noGrant + 1
             credits := if x.tgt ≤ s.rg TIDE_NUM then 0 else x.credits }) s
  let s := s.sendBeacon
  (r.1, ((s.winsOf 0).filter fun w => s.on (WIN_CTRL_OPEN w)).foldl (fun s w => s.sendGrant w) s)

/-- The windows of a set that leaves the machine, or all of them at a reset that stops station work (R415). -/
def State.winClear (s : State) (w : Nat) : State :=
  let s := s.wrs [(WIN_CTRL_EN w, 0), (WIN_CTRL_OPEN w, 0)]
  s.onWin w fun x => { x with acc := [], gotVoid := false, credits := 0, stopped := false, noGrant := 0, posted := false }

end Sys2Proof.Machine
end

