-- ==== Sys2Proof/Machine/Assign.lean ====
section
/-! DEFINITION. Program sets at the boundary (chapters 6, 11, 18): the images, ports and expander channels that the loader
writes for a set, its removal, the sets of another period, new layer versions. -/

namespace Sys2Proof.Machine

/-! ## Images (R109, R139, R143, R158) -/

/-- A descriptor as the loader writes it: with PREL, the place of the stream's parameter block (R158). -/
def placeDesc (y : Strm) (d : List Nat) : List Nat :=
  if dPrel d then d.set 1 (y.trow + 2 * y.nrows * 65536) else d

/-- What the loader keeps of an image; `deps`: the stages of its set that it depends on (R54, R186). -/
def Img.toSlice (m : Img) (handle stage : Nat) (y : Strm) (deps : List Nat) : Slice :=
  { handle := handle, stage := stage, stream := m.stream, name := m.name, cls := m.cls, l := m.l, lReplay := m.lReplay
    lTaken := m.lTaken, w := m.w, period := m.period, descs := (m.descs.map (placeDesc y)).flatten, nDesc := m.nDesc
    tsBase := m.tsBase, tsRows := m.tsRows, deps := deps }

/-- The configuration fields of a slot table entry. -/
def slotFlds (t p k : Nat) : List Fld :=
  [SLOT_CFG_EN t p k, SLOT_CFG_MEM t p k, SLOT_CFG_KIND t p k, SLOT_CFG_READERS t p k, SLOT_CFG_INIT t p k,
    SLOT_CFG_CHECK t p k, SLOT_CFG_PRODUCER t p k, SLOT_CFG_ROWS t p k, SLOT_CFG_RDSET t p k, SLOT_CFG_BASE t p k]

/-- Its status fields. -/
def slotStats (t p k : Nat) : List Fld :=
  [SLOT_STAT_PRESENT t p k, SLOT_STAT_RELEASED t p k, SLOT_STAT_RWAIT t p k, SLOT_STAT_WWAIT t p k]

/-- Fields put back to their reset values. -/
def State.rstFlds (s : State) (l : List Fld) : State := l.foldl (fun s f => s.wr f f.rst) s

/-- A slot table entry written; the presence bit takes the INIT value (R129). -/
def State.putSlot (s : State) (t p k w : Nat) : State :=
  let s := s.rstFlds (slotStats t p k)
  if slEn w then
    ((slotFlds t p k).foldl (fun s f => s.wr f (w / 2 ^ f.lo)) s).wr (SLOT_STAT_PRESENT t p k) (slInit w)
  else s.rstFlds (slotFlds t p k)

/-- The image of stage `i` of set `h` written into a station, which is then READY. -/
def State.putImage (s : State) (h i t p : Nat) (y : Strm) (m : Img) (deps : List Nat) : State :=
  let s := m.rows.foldl (fun s r => s.writeRow t p r.1 r.2.1 r.2.2) s
  let s := (List.range (ceilDiv (8 * m.progWords) 512)).foldl
    (fun s r => s.putRow (rowAddr t p 3 r) (slice m.b (m.progOff + 512 * r) 512)) s
  let sl := m.toSlice h i y deps
  let v := s.stn t p
  let s := s.setStn t p { curves := v.curves, phaseNext := v.phaseNext, slice := some sl, last := sl.start }
  let s := m.curveSlots.foldl (fun s k => s.putCurve t p k (m.curve k)) s
  let s := (List.range 64).foldl (fun s k => s.putSlot t p k (m.slot k)) s
  s.wrs [(MAP_ASSIGNED t p, 1), (MAP_HANDLE t p, h), (MAP_STAGE t p, i), (SEQ_STATE_STATE t p, 1), (SEQ_STATE_CAUSE t p, 0),
    (SEQ_STATE_PC t p, 0)]

/-! ## Layer bindings (R287 to R290, R298) -/

/-- The layer a binding reads, in its version. -/
def State.bindLayer (s : State) (b : Binding) : Option (Model × Layer) :=
  (s.model? b.model).bind fun m => (m.layer? b.layer b.ver).map fun l => (m, l)

/-- The rows of one region of a RESIDENT binding: expanded, or as stored in BF16; none when it cannot be had. -/
def State.residentRegion (s : State) (t : Nat) (m : Model) (l : Layer) (cb : List Byte) (x : Nat) : Option (List Byte) × State :=
  if l.wfmt = 5 then
    match s.layerRead t m l 3 (65536 * l.head + 8192 * x) 8192 with
    | ((b, bad, gone), s) => (if bad ∨ gone then none else some b, s)
  else match s.expSlot t m l cb x false false with
    | (.ok g, s) => (some g.bytes, s)
    | (.reject _, s) => (none, s.rejectSlot m l x)
    | (.again o, s) => (none, s.markBad m l o)
    | (.gone o, s) => (none, s.markBad m l o)

/-- One stored row of a layer written into weight memory. -/
def State.putItem (s : State) (t p mem row : Nat) (m : Model) (l : Layer) (o it : Nat) : State :=
  match s.item t m l o 512 it with
  | (.ok b, s) => s.writeRow t p mem row b
  | (.bad _ o, s) => s.markBad m l o

/-- The codebook block of a layer that has one. -/
def State.codebook (s : State) (t : Nat) (m : Model) (l : Layer) : List Byte × State :=
  if l.kind ≠ 0 then ([], s)
  else match s.item t m l 0 4608 itemCodebook with
    | (.ok b, s) => (b, s)
    | (.bad _ o, s) => ([], s.markBad m l o)

/-- Every region and scale row of a RESIDENT binding written into the rows of its descriptor and from SROW (R288, R298). -/
def State.putResident (s : State) (t p : Nat) (d : List Nat) (b : Binding) (m : Model) (l : Layer) : State :=
  let n := b.nreg * b.tn
  let R := if l.wfmt = 5 then 16 else l.rrows
  let c := s.codebook t m l
  let s := (List.range n).foldl (fun s j =>
    match s.residentRegion t m l c.1 (b.slot0 + j) with
    | (none, s) => s
    | (some g, s) => (List.range R).foldl (fun s q =>
        match s.rowRef t p d (R * l.sg * (j / l.sg) + q * l.sg + j % l.sg) with
        | some r => s.writeRow r.t r.p r.mem r.row (slice g (512 * q) 512)
        | none => s) s) c.2
  if l.wfmt = 5 then s
  else
    let f := l.tideScales b.slot0 n
    (List.range f.2).foldl (fun s i =>
      s.putItem t p (dSmem d) ((dSrow d + i) % 1024) m l (l.scaleOff + 512 * (f.1 + i)) (itemScale (f.1 + i))) s

/-- The data of a binding that the loader writes: the TABLE4 row, and every row of a RESIDENT one. -/
def State.putBindData (s : State) (t p : Nat) (d : List Nat) (b : Binding) : State :=
  match s.bindLayer b with
  | none => s
  | some (m, l) =>
    let s := if l.tab then s.putItem t p (dTmem d) (dTrow d) m l l.tabOff itemTab else s
    if b.resident then s.putResident t p d b m l else s

/-- The KEEP slots that the weight loader fills through a descriptor in MODE 1: cleared at a layer barrier, and set again once
their new rows are written (R127). -/
def State.keepSlots (s : State) (t p : Nat) (d : List Nat) : State :=
  if ¬ dMode d then s
  else (List.range (bits (dw d 0) 10 6 + 1)).foldl (fun s i =>
    let k := (dSlot0 d + i) % 64
    if s.on (SLOT_CFG_EN t p k) ∧ s.rg (SLOT_CFG_KIND t p k) = 1 ∧ s.rg (SLOT_CFG_PRODUCER t p k) = 6 then
      s.wrs [(SLOT_STAT_PRESENT t p k, 1), (SLOT_STAT_RELEASED t p k, 0)]
    else s) s

/-- The descriptor that a binding names, as the station's image gives it. -/
def State.bindDesc (s : State) (t p : Nat) (b : Binding) : List Nat :=
  match (s.stn t p).slice with
  | some sl => slice sl.descs (8 * b.desc) 8
  | none => []

/-- Channel `c` of a station programmed with a binding (R287). -/
def State.putBind (s : State) (t p c : Nat) (b : Binding) : State :=
  let s := s.wrs [(EXP_CTRL_EN t p c, 1), (EXP_CTRL_RESIDENT t p c, b2n b.resident), (EXP_CTRL_DESC t p c, b.desc),
    (EXP_CTRL_SRING_M1 t p c, b.sring - 1), (EXP_CTRL_TIDX t p c, b.tidx), (EXP_CTRL_TN_M1 t p c, b.tn - 1)]
  let s := s.onStn t p fun v => v.onChan c fun _ =>
    { bound := true, handle := b.model, layer := b.layer, slot0 := b.slot0, nreg := b.nreg, ver := b.ver }
  s.putBindData t p (s.bindDesc t p b) b

/-- The bindings of a station of a set. -/
def ProgSet.bindsAt (x : ProgSet) (g : Stage) : List Binding := x.binds.filter fun b => b.t == g.t && b.p == g.p

/-! ## Ports (R380, R393, R398, R414, R466) -/

/-- The station of a name in a set. -/
def ProgSet.stageOf (x : ProgSet) (name : List Byte) : Stage :=
  ((x.images.zip x.stages).find? fun q => slice q.1 24 24 == name).map (fun q => q.2) |>.getD {}

/-- Offset of the binding register that an AUDIO record names. -/
def audOff (dir port k : Nat) : Nat :=
  (if dir = 0 then (AUD_IN_CTRL_EN port).off else (AUD_OUT_CTRL_EN port).off) + 4 + 4 * k

/-- The settings of a window's registers. -/
def winFlds (w : Nat) : List Fld :=
  [WIN_CTRL_EN w, WIN_CTRL_DIR w, WIN_CTRL_REPL w, WIN_CTRL_TGT w, WIN_CTRL_ALTEN w, WIN_CTRL_PEER w, WIN_CTRL_ALT w,
    WIN_CTRL_NFR w]
def winLocFlds (w : Nat) : List Fld := [WIN_LOC_TERR w, WIN_LOC_POS w, WIN_LOC_SLOT w, WIN_LOC_RSLOT w, WIN_LOC_PWIN w]

/-- The port registers of a set, with TERR and POS of its stations. -/
def State.putPorts (s : State) (x : ProgSet) : State :=
  let at' (n : List Byte) : Nat × Nat := let g := x.stageOf n; (g.t, s.land g.t g.p)
  let s := x.audio.foldl (fun s a =>
    let q := at' a.2.2.2.2
    s.takeFields (a.2.2.2.1 % 2 ^ 22 + q.2 * 2 ^ 22 + q.1 * 2 ^ 27 + 2 ^ 31) (fieldsAt (audOff a.1 a.2.1 a.2.2.1))) s
  let s := x.vision.foldl (fun s a =>
    let q := at' a.2.2.2
    (s.takeFields (a.2.1 / 2 ^ 30 * 2 ^ 30 + a.2.1 % 2 ^ 21 + q.2 * 2 ^ 21 + q.1 * 2 ^ 26)
      (fieldsAt (VIN_CTX_DLV_MODE a.1).off)).wr (VIN_CTX_TROW a.1) a.2.2.1) s
  x.windows.foldl (fun s a =>
    let q := at' a.2.2.2.2
    let w := a.1
    let s := (s.takeFields (a.2.1 % 2 ^ 31 + 2 ^ 31) (winFlds w)).takeFields (a.2.2.1 % 2 ^ 23 + q.2 * 2 ^ 23 + q.1 * 2 ^ 28)
      (winLocFlds w)
    (s.wr (WIN_TROW w) a.2.2.2.1).onWin w fun _ => {}) s

/-- The port registers of a set that leaves; its windows close (R415). -/
def State.clearPorts (s : State) (x : ProgSet) : State :=
  let s := x.audio.foldl (fun s a => s.rstFlds (fieldsAt (audOff a.1 a.2.1 a.2.2.1))) s
  let s := x.vision.foldl (fun s a => s.rstFlds (VIN_CTX_TROW a.1 :: fieldsAt (VIN_CTX_DLV_MODE a.1).off)) s
  x.windows.foldl (fun s a => (s.winClear a.1).rstFlds (WIN_TROW a.1 :: winFlds a.1 ++ winLocFlds a.1)) s

/-- The position of a port's station after a permanent takeover of `p` of terrace `t`: the reserve (R148). -/
def moved (t p : Nat) (b : AudBind) : AudBind := if b.t = t ∧ b.p = p then { b with p := 16 } else b

/-- Ports bound to a position of which a permanent takeover has taken place name the reserve (R148). -/
def State.movePorts (s : State) (t p : Nat) : State :=
  let fix (s : State) (terr pos : Fld) : State := if s.rg terr = t ∧ s.rg pos = p then s.wr pos 16 else s
  let s := (List.range 8).foldl (fun s i =>
    let s := fix (fix (fix (fix s (AUD_IN_BIND0_TERR i) (AUD_IN_BIND0_POS i)) (AUD_IN_BIND1_TERR i) (AUD_IN_BIND1_POS i))
      (AUD_IN_BIND2_TERR i) (AUD_IN_BIND2_POS i)) (AUD_IN_BIND3_TERR i) (AUD_IN_BIND3_POS i)
    let s := fix (fix s (AUD_OUT_MAIN_TERR i) (AUD_OUT_MAIN_POS i)) (AUD_OUT_FB_TERR i) (AUD_OUT_FB_POS i)
    (s.onIn i fun a => { a with binds := a.binds.map (moved t p) }).onOut i fun a =>
      { a with main := moved t p a.main, fb := moved t p a.fb }) s
  let s := (List.range 4).foldl (fun s c => fix s (VIN_CTX_DLV_TERR c) (VIN_CTX_DLV_POS c)) s
  (List.range 64).foldl (fun s w => fix s (WIN_LOC_TERR w) (WIN_LOC_POS w)) s

/-! ## Assignment (R143) -/

/-- Fenced stations that stand between two stations of a set are in pass-through, its own are not (R122, R142). -/
def State.passThrough (s : State) (x : ProgSet) : State :=
  let l := x.stages.map fun g => promIdx g.t g.p
  let lo := l.foldl min 204
  let hi := l.foldl max 0
  (List.range (hi + 1 - lo)).foldl (fun s i =>
    let q := promAt (lo + i)
    if l.contains (lo + i) then s.wr (MEM_PASS_EN q.1 q.2) 0
    else if q.2 ≠ 16 ∧ ¬ s.assigned q.1 q.2 ∧ s.fencedAt q.1 q.2 then s.wr (MEM_PASS_EN q.1 q.2) 1 else s) s

/-- Both buffers of a stream's parameter block written from its image, and its stager entry (R443, R444, R450). -/
def State.putBlock (s : State) (y : Strm) : State :=
  if y.nrows = 0 then s
  else
    let s := s.wrs [(PSTG_CTRL_EN, 1), (PSTG_BLK_EN y.num, 1), (PSTG_BLK_TERR y.num, y.terr), (PSTG_BLK_NROWS y.num, y.nrows - 1),
      (PSTG_BLK_TROW y.num, y.trow)]
    (List.range (2 * y.nrows)).foldl (fun s r => s.putRow (tsAddr y.terr (y.trow + r)) (slice y.image (512 * (r % y.nrows)) 512)) s

/-- A set is assigned as a whole, and its PLACE completes; the keys of its layers go to the engines (R314). -/
def State.assignSet (s : State) (x : ProgSet) : State :=
  let y := (s.strm? x.stream).getD {}
  let s := x.binds.foldl (fun s b => match s.model? b.model with
    | some m => s.useKey m.keyid
    | none => s) s
  let s := ((x.images.zip x.stages).zipIdx).foldl (fun s q =>
    let g := q.1.2
    s.putImage x.handle q.2 g.t (s.land g.t g.p) y (Img.of q.1.1)
      (dependsOn (x.images.map Img.of) (fun i => (x.stages.getD i {}).t) q.2)) s
  let s := x.stages.foldl (fun s g => ((x.bindsAt g).zipIdx).foldl (fun s b => s.putBind g.t (s.land g.t g.p) b.2 b.1) s) s
  let s := (s.putPorts x).passThrough x
  let s := if x.cls = 0 ∧ ¬ x.params.isEmpty then s.putBlock y else s
  let s := s.onSet x.handle fun x => { x with state := 2, placeTag := none, held := false }
  match x.placeTag with
  | none => s
  | some (q, tag) =>
    let first := (x.stages.head?.map fun g => promIdx g.t g.p).getD 0
    s.complete q (s.cmdCompletion 2 stOk x.handle (y.num + 256 * first) tag 0xFFFF)

/-- Whether a set that waits may be assigned: a main set with, or after, its fallback set (R143). -/
def State.mayAssign (s : State) (x : ProgSet) : Bool :=
  x.cls != 0 || s.loader.sets.any fun y => y.cls == 1 && y.stream == x.stream && y.period == x.period &&
    (y.state == 1 || y.state == 2)

/-- A set whose receive windows no longer fit is refused (R411). -/
def State.refuseWindows (s : State) (x : ProgSet) : State :=
  let s := match x.placeTag with
    | some (q, tag) => s.refusePlace q tag stRefusedTime
    | none => s
  (({ s with loader := { s.loader with sets := s.loader.sets.filter fun y => y.handle != x.handle } } : State).ghSet x false).ghShow.wuse.books

/-- The sets that wait for the boundary, fallback sets first: assigned, or announced for one tide when they open a receive
window; of announcements made in the same tide that a link cannot carry together, that of the lowest ring index opens (R143,
R411). -/
def State.assignSets (s : State) : State :=
  let l := s.loader.sets.filter fun x => x.state == 1
  ((l.filter fun x => x.cls == 1) ++ l.filter fun x => x.cls != 1).foldl (fun s x =>
    if ¬ s.mayAssign x then s
    else if x.windows.all fun w => bit w.2.1 30 then s.assignSet x
    else if s.loadsOk x then (if x.announced then s.assignSet x else s.onSet x.handle fun x => { x with announced := true })
    else if x.announced ∧ s.lowestRise then s.assignSet x
    else s.refuseWindows x) s

/-! ## Removal (R143, R267) -/

/-- A station gives up its slice; `SEQ.PHASE` and its curve slots, which are Held, stay. -/
def State.clearStation (s : State) (t p : Nat) : State :=
  let s := (List.range 64).foldl (fun s k => s.rstFlds (slotFlds t p k ++ slotStats t p k)) s
  let s := (List.range 2).foldl (fun s c => s.rstFlds [EXP_CTRL_EN t p c, EXP_CTRL_RESIDENT t p c, EXP_CTRL_DESC t p c,
    EXP_CTRL_SRING_M1 t p c, EXP_CTRL_TIDX t p c, EXP_CTRL_TN_M1 t p c, EXP_POS_REGION t p c]) s
  let s := s.rstFlds [MAP_ASSIGNED t p, MAP_HANDLE t p, MAP_STAGE t p, SEQ_STATE_STATE t p, SEQ_STATE_CAUSE t p, SEQ_STATE_PC t p,
    ARRAY_STATE_BUSY t p]
  s.setStn t p { curves := (s.stn t p).curves, phaseNext := (s.stn t p).phaseNext, lo := { credits := (s.stn t p).lo.credits }
                 hi := { credits := (s.stn t p).hi.credits } }

/-- The stations and ports of a set are free again; it is left in state `st`. -/
def State.unassign (s : State) (x : ProgSet) (st : Nat) : State :=
  let s := if x.state ≠ 2 ∧ x.state ≠ 5 then s
    else (x.stages.foldl (fun s g =>
      let s := s.clearStation g.t (s.land g.t g.p)
      if s.rg (TAKE_STATUS_PHASE g.t) = 2 ∧ s.rg (TAKE_STATUS_POS g.t) = g.p then s.clearStation g.t 16 else s) s).clearPorts x
  s.onSet x.handle fun x => { x with state := st, announced := false, inPass := false, ents := [], ph := 0, reps := 0, held := false }

/-- The sequences of a token set end with it, and the page store reclaims at this step boundary of theirs (R235). -/
def State.endSeqs (s : State) (handle : Nat) : State :=
  (s.loader.seqs.filter fun r => r.set == handle).foldl (fun s r =>
    let r := if r.ending.isSome then r else { r with ending := some ([], r.q, stCancelled) }
    (s.onSeq r.seq fun _ => r).endSeq r 0) s |>.psReclaim

/-- A stream without sets vanishes: its objects, its queued writes and its block (R442). -/
def State.dropStream (s : State) (name : List Byte) : State :=
  if s.loader.sets.any fun x => x.stream == name then s
  else match s.strm? name with
    | none => s
    | some y =>
      let l := s.dict.stamped.filter fun w => !decide (0x6000 + 0x80 * y.num ≤ w.index ∧ w.index < 0x6080 + 0x80 * y.num)
      let s : State := { s with dict := { s.dict with stamped := l }
                                loader := { s.loader with streams := s.loader.streams.filter fun z => z.name != name } }
      (s.wr PSTG_CTRL_QFILL l.length).rstFlds [PSTG_BLK_EN y.num, PSTG_BLK_TERR y.num, PSTG_BLK_NROWS y.num, PSTG_BLK_TROW y.num]

/-- A set is removed, and its REMOVE completes; a PLACE that still waited is cancelled. -/
def State.removeSet (s : State) (x : ProgSet) : State :=
  let s := (s.unassign x x.state).endSeqs x.handle
  let s := (s.loader.jobs.filter fun j => j.set == x.handle && j.kept.isNone).foldl (fun s j => s.jobEnd j stCancelled 0) s
  let s := (({ s with loader := { s.loader with sets := s.loader.sets.filter fun y => y.handle != x.handle } } : State).ghSet x
    false).ghShow.dropStream x.stream
  let s := match x.placeTag with
    | some (q, tag) => s.refusePlace q tag stCancelled
    | none => s
  let s := match x.removeTag with
    | some (q, tag) => s.complete q (s.cmdCompletion 3 stOk x.handle 0 tag 0xFFFF)
    | none => s
  s.wuse.books

/-- Removals and suspensions that wait for the boundary. -/
def State.removeSets (s : State) : State :=
  let s := (s.loader.sets.filter fun x => x.removeTag.isSome).foldl (fun s x => s.removeSet x) s
  (s.loader.sets.filter fun x => x.state == 5).foldl (fun s x => s.unassign x 4) s

/-! ## Another period (R144), a suspended capture set (R267) -/

/-- The pages of a set's capture jobs that are not in tier 1 (R310). -/
def State.agedPages (s : State) (x : ProgSet) : List PageRec :=
  s.pool.pages.filter fun p => p.t1.isNone && s.loader.jobs.any fun j => j.set == x.handle && j.client == p.client

/-- A kept or suspended set placed again on the stations of indices `xs`, to be assigned at the next boundary, or once its pages
are back in tier 1; not while there is no room for them. -/
def State.replace (s : State) (x : ProgSet) (xs : List Nat) : State :=
  let imgs := x.images.map Img.of
  let st := xs.map fun i => let q := promAt i; ({ t := q.1, p := q.2 } : Stage)
  let move (b : Binding) : Binding :=
    match (x.stages.zip st).find? fun g => g.1.t == b.t && g.1.p == b.p with
    | some g => { b with t := g.2.t, p := g.2.p }
    | none => b
  let bs := x.binds.map move
  let aged := s.agedPages x
  let miss := s.missingPages (bs.filterMap s.bindLayer) ++ aged
  let x' := { x with stages := st, binds := bs, state := if miss.isEmpty then 1 else 0 }
  match (if (aged.all fun p => s.pageFree p.idx) ∧ s.ceilOk (miss.map fun p => p.client) then
      (s.makeRoom miss.length (miss.filter fun p => p.prot).length s.pool.pages.length).bind fun s => s.streamFor x' imgs
    else none) with
  | none => s
  | some s =>
    let s := s.onSet x.handle fun _ => x'
    let s : State := if x.cls ≠ 2 then s else { s with loader := { s.loader with
        seqs := s.loader.seqs.map fun r =>
          if s.loader.sets.any (fun y => y.handle == r.set && y.stream == x.stream && y.cls == 2 && y.state == 3) then
            { r with set := x.handle } else r } }
    (((s.startPromotion miss).ghSet x' true).yieldTo x.handle xs).wuse.readySets.books

/-- A set fitted again: on the stations `same` where it fits (R144), and otherwise under R142 at its pin. -/
def State.refit (s : State) (x : ProgSet) (same : List Nat) : State :=
  let imgs := x.images.map Img.of
  let fit (s : State) : Option (List Nat) := if s.fitsAt imgs same then some same else s.fit imgs x.pin
  match (fit s).orElse fun _ => if x.cls = 3 then none else fit s.spared with
  | none => s
  | some xs => s.replace x xs

/-- The sets whose PERIOD is not that of the settings in force are taken from their stations, and those kept for it take
their place (R144); a suspended capture set is placed where it fits (R267). -/
def State.switchSets (s : State) : State :=
  let out := s.loader.sets.filter fun x => decide (x.state < 3) && x.state != 0 && !s.periodNow x.period
  let s := out.foldl (fun s x => ((s.unassign x 3).ghSet x false).ghShow) s
  let into := s.loader.sets.filter fun x => x.state == 3 && s.periodNow x.period
  let s := ((into.filter fun x => x.cls == 1) ++ into.filter fun x => x.cls != 1).foldl (fun s x =>
    let old := out.find? fun y => y.stream == x.stream && y.cls == x.cls
    s.refit x ((old.map fun y => y.stages.map fun g => promIdx g.t g.p).getD [])) s
  let s := (s.loader.sets.filter fun x => x.state == 3 && x.cls == 2).foldl (fun s x => s.endSeqs x.handle) s
  let s := if out.isEmpty then s else s.wuse.books
  (s.loader.sets.filter fun x => x.state == 4).foldl (fun s x => s.refit x []) s

/-! ## New layer versions (R295 to R298) -/

/-- The newest version of the layer that a binding reads. -/
def State.newestVer (s : State) (b : Binding) : Nat :=
  (((s.model? b.model).bind fun m => m.newest? b.layer).map fun l => l.ver).getD b.ver

/-- The bindings of a set that satisfy `f` read the newest version; channels of assigned stations follow. -/
def State.switchBinds (s : State) (x : ProgSet) (f : Binding → Bool) : State :=
  let due := x.binds.filter fun b => f b && s.newestVer b != b.ver
  if due.isEmpty then s
  else
    let s := if x.state ≠ 2 then s else due.foldl (fun s b =>
      let p := s.land b.t b.p
      let v := s.newestVer b
      let s := s.onStn b.t p fun st => { st with chans := st.chans.map fun k =>
        if k.bound ∧ k.handle = b.model ∧ k.layer = b.layer ∧ k.ver = b.ver then { k with ver := v } else k }
      let d := s.bindDesc b.t p b
      let s := s.putBindData b.t p d { b with ver := v }
      if b.resident then s.keepSlots b.t p d else s) s
    s.onSet x.handle fun x => { x with binds := x.binds.map fun b => if f b then { b with ver := s.newestVer b } else b }

/-- Layer versions that no binding reads go (R296). -/
def State.freeOldLayers (s : State) : State :=
  s.pool.models.foldl (fun s m =>
    let read (l : Layer) : Bool := s.loader.sets.any fun x => x.binds.any fun b =>
      b.model == m.handle && b.layer == l.layer && b.ver == l.ver
    let gone := m.layers.filter fun l => ((m.newest? l.layer).map fun n => n.ver) != some l.ver && !read l
    if gone.isEmpty then s
    else
      let s := s.dropPages fun p => p.client == m.client && gone.any fun l => m.lkey l.layer == p.layer && l.ver == p.ver
      s.onModel m.handle fun m => { m with layers := m.layers.filter fun l => !gone.any fun g => g.layer == l.layer && g.ver == l.ver }) s

/-- Whether a binding reads a layer of an INPLACE load. -/
def State.bindsOf (s : State) (i : InPlace) (b : Binding) : Bool :=
  i.layers.contains b.layer && (s.model? b.model).any fun m => m.modelId == i.modelId && m.adp.isNone

/-- Whether a pass of a set that binds a layer of the load lies in tides that read it; one that is held ahead of them does not
(R297). -/
def State.inplaceBusy (s : State) (i : InPlace) : Bool :=
  s.loader.sets.any fun x => x.state == 2 && x.inPass && x.binds.any fun b =>
    s.bindsOf i b && decide (b.tidx ≤ x.ph ∧ x.ph < b.tidx + b.tn) && !(x.held && x.ph == b.tidx)

/-- INPLACE loads whose barrier is closed are stored and committed, and their bindings read the new versions (R297, R298). -/
def State.commitInplace (s : State) : State :=
  (s.loader.inplace.filter fun i => i.closed).foldl (fun s i =>
    let s : State := { s with loader := { s.loader with inplace := s.loader.inplace.filter fun j => j.tag != i.tag || j.q != i.q } }
    let p := Pkg.of i.pkg
    match s.key? p.keyid with
    | none => s.wlShow.refuseLoad i.q i.tag stRefusedProtection 0xFFF
    | some k => match p.buildAll k.key with
      | .error (c, l) => s.wlShow.refuseLoad i.q i.tag c l
      | .ok l =>
        let s := (s.useKey p.keyid).commitLoad i.q i.tag p l
        s.loader.sets.foldl (fun s x => s.switchBinds x (s.bindsOf i)) s) s

/-- Barriers of INPLACE loads close at the first boundary that R297 allows, and the old pages return to the pool. -/
def State.closeInplace (s : State) : State :=
  (s.loader.inplace.filter fun i => !i.closed && !s.inplaceBusy i).foldl (fun s i =>
    let s : State := { s with loader := { s.loader with
      inplace := s.loader.inplace.map fun j => if j.tag = i.tag ∧ j.q = i.q then { j with closed := true } else j } }
    match s.pool.models.find? fun m => m.modelId == i.modelId && m.adp.isNone with
    | none => s
    | some m => s.dropPages fun p => p.client == m.client && i.layers.any fun l => m.lkey l == p.layer) s

/-- Rows of station and terrace-store memory that each client is assigned (R305). DESIGN CHOICE: the rows of a RESIDENT binding
are the model's, page frames the page store's, and the program, slot and terrace-store rows of every image the system's. -/
def State.countRows (s : State) : State :=
  let on := s.loader.sets.filter fun x => x.state == 2
  let img (m : Img) : Nat := ceilDiv (8 * m.progWords) 512 + m.tsRows + m.enabled.foldl (fun a k => a + slRows (m.slot k)) 0
  let own := on.foldl (fun a x => (x.images.map Img.of).foldl (fun a m => a + img m) a) 0
  let frames := (List.range 12).foldl (fun a t => a + 32 * s.rg (TSTORE_CTRL_PAGES t)) 0
  let held (c : Nat) : Nat := on.foldl (fun a x => (x.binds.filter fun b => b.resident).foldl (fun a b => match s.bindLayer b with
    | some (m, l) => if m.client = c then
        a + (if l.wfmt = 5 then 16 * b.nreg * b.tn else l.rrows * b.nreg * b.tn + (l.tideScales b.slot0 (b.nreg * b.tn)).2) else a
    | none => a) a) 0
  (List.range 64).foldl (fun s c =>
    s.wr (TIER_CLIENT_SRAM c) (held c + if c = 0 then own else if c = 1 then frames else 0)) s

/-- Keys that were deleted or made unusable leave every engine, and models that name them go (R314, R495). -/
def State.clearKeys (s : State) : State :=
  let s : State := { s with ef := { s.ef with engines := s.ef.engines.filter fun e => (s.key? e.id).isSome } }
  (s.pool.models.filter fun m => m.keyid != 0 && (s.key? m.keyid).isNone).foldl (fun s m => s.dropModel m) s

end Sys2Proof.Machine
end

