-- ==== Sys2Proof/Machine/Dma.lean ====
section
/-! DEFINITION. The DMA engines (chapter 14): rings, field and line checks, the byte stream, gathers, tide-bound
descriptors, outcomes. -/

namespace Sys2Proof.Machine

/-! ## A descriptor's fields (R351) -/

def dSaddr (d : List Byte) : Nat := leAt d 0 8
def dDaddr (d : List Byte) : Nat := leAt d 8 8
def dSline (d : List Byte) : Nat := leAt d 16 4
def dSlines (d : List Byte) : Nat := leAt d 20 2
def dDlines (d : List Byte) : Nat := leAt d 22 2
def dDline (d : List Byte) : Nat := leAt d 24 4
def dSstride (d : List Byte) : Int := sext 32 (leAt d 28 4)
def dDstride (d : List Byte) : Int := sext 32 (leAt d 32 4)
def dCtrl (d : List Byte) (i : Nat) : Bool := bit (leAt d 36 2) i
def dGather (d : List Byte) : Bool := dCtrl d 6
def dRt (d : List Byte) : Bool := dCtrl d 5

/-- The field checks of R362. -/
def dmaFieldsOk (d : List Byte) : Bool :=
  let addr (a : Nat) : Bool := bit a 63 || decide (a < 2 ^ 48)
  addr (dSaddr d) && addr (dDaddr d) && decide (1 ≤ dSline d ∧ dSline d < 2 ^ 24 ∧ 1 ≤ dSlines d) &&
    decide (leAt d 36 2 < 256 ∧ leAt d 38 1 ≤ 11 ∧ leAt d 39 1 < 32 ∧ leAt d 40 1 ≤ 11 ∧ leAt d 41 1 < 32) &&
    (dRt d || leAt d 42 2 == 0) && !(bit (dSaddr d) 63 && bit (dDaddr d) 63) &&
    (if dGather d then decide (dDlines d = 0 ∧ dDline d < 4096) && !bit (dSaddr d) 63
      else decide (1 ≤ dDlines d ∧ 1 ≤ dDline d ∧ dDline d < 2 ^ 24 ∧ dSline d * dSlines d = dDline d * dDlines d))

/-- Bytes of a destination line. -/
def dmaDl (d : List Byte) : Nat := if dGather d then dSline d else dDline d

/-- Stream bytes in all (R352, R359). -/
def DmaCh.total (c : DmaCh) : Nat := dSline c.desc * (if dGather c.desc then c.list.length else dSlines c.desc)

/-- Start of source line `i` and of destination line `j` (R352, R354). -/
def DmaCh.srcLine (c : DmaCh) (i : Nat) : Int :=
  ((dSaddr c.desc % 2 ^ 63 : Nat) : Int) + (((if dGather c.desc then (c.list.getD i (0, 0)).2 else i) : Nat) : Int) * dSstride c.desc
def DmaCh.dstLine (c : DmaCh) (j : Nat) : Int :=
  ((dDaddr c.desc % 2 ^ 63 : Nat) : Int) + (((if dGather c.desc then (c.list.getD j (0, 0)).1 else j) : Nat) : Int) * dDstride c.desc

/-! ## Lines (R23 to R25, R133, R361) -/

/-- The station row at an internal address: terrace, position, memory, row; not the program memory (R135). -/
def stnRowAt (a : Nat) : Option (Nat × Nat × Nat × Nat) :=
  let t := a / 0x2000000
  let p := a % 0x2000000 / 0x100000
  let o := a % 0x100000
  if 12 ≤ t ∨ 17 ≤ p then none
  else if o < 0x80000 then some (t, p, 0, o / 512)
  else if o < 0xC0000 then some (t, p, 1, (o - 0x80000) / 512)
  else if o < 0xF0000 then some (t, p, 2, (o - 0xC0000) / 512)
  else none

/-- Terrace and row of an address in a terrace store. -/
def tsRowAt (a : Nat) : Option (Nat × Nat) :=
  if 0x100000000 ≤ a ∧ a < 0x101800000 then some ((a - 0x100000000) / 0x200000, (a - 0x100000000) % 0x200000 / 512) else none

/-- What a line check finds: in order, a breach of R133, or an address error. -/
inductive LineRes where
  | ok
  | bad
  | unmapped
deriving DecidableEq, Repr

/-- One line of `n` bytes at `a`, for a read or a write. DESIGN CHOICE: a line into program memory, which R135 puts out of
reach, is an address error like one into no memory at all. -/
def State.lineCheck (s : State) (write : Bool) (a : Int) (n : Nat) (stride : Int) : LineRes :=
  if a < 0 then .unmapped
  else
    let a := a.toNat
    let rows := decide (a % 512 = 0 ∧ n % 512 = 0 ∧ stride % 512 = 0)
    if dramBase ≤ a then (if s.inDram a n then .ok else .unmapped)
    else if 0x100000000 ≤ a then
      match tsRowAt a, tsRowAt (a + n - 1) with
      | some x, some y => if rows ∧ x.1 = y.1 ∧ y.2 < s.tsRegion y.1 then .ok else .bad
      | _, _ => .unmapped
    else if rows ∧ (List.range (n / 512)).all (fun i => match stnRowAt (a + 512 * i) with
        | some x => !write || (s.stn x.1 x.2.1).slice.isNone
        | none => false) then .ok
    else .unmapped

/-- A line checked before its first access: none, or the state in which the descriptor ends. -/
def State.lineBad (s : State) (write host : Bool) (a : Int) (n : Nat) (stride : Int) : Option State :=
  if host then none
  else match s.lineCheck write a n stride with
    | .ok => none
    | .bad => some s
    | .unmapped => some s.addrError

/-- Whether an access at `a` moves whole rows of 512 bytes: a station memory or a terrace store (R24, R116, R361). -/
def byRows (host : Bool) (a : Int) : Bool := !host && decide (a < (dramBase : Int))

/-- `n` bytes read from the source, a whole row where it is made of rows; none for an uncorrectable word. -/
def State.dmaRead (s : State) (host : Bool) (a n : Nat) : Option (List Byte) × State :=
  if host then (some (s.hostLd a n), s)
  else if dramBase ≤ a then
    let r := (s.touch a n).dramRead 24 a n
    (if r.1.2 then none else some r.1.1, r.2)
  else match tsRowAt a, stnRowAt a with
    | some q, _ => s.readTs q.1 q.2
    | none, some q => s.readRow q.1 q.2.1 q.2.2.1 q.2.2.2
    | none, none => (none, s)

/-- Bytes written to the destination, a whole row where it is made of rows; none where a station that runs a slice refuses
the row (R25). -/
def State.dmaWrite (s : State) (host : Bool) (a : Nat) (b : List Byte) : Option State :=
  if host then some (s.hostSt a b)
  else if dramBase ≤ a then some ((s.touch a b.length).dramWrite 24 a b)
  else match tsRowAt a, stnRowAt a with
    | some q, _ => some (s.putRow (tsAddr q.1 q.2) b)
    | none, some q => if (s.stn q.1 q.2.1).slice.isSome then none else some (s.writeRow q.1 q.2.1 q.2.2.1 q.2.2.2 b)
    | none, none => none

/-! ## The stream (R352, R353) -/

def State.dmaCh (s : State) (c : Nat) : DmaCh := s.dma.chs.get c {}
def State.onDma (s : State) (c : Nat) (f : DmaCh → DmaCh) : State :=
  { s with dma := { s.dma with chs := s.dma.chs.set c (f (s.dmaCh c)) {} } }

/-- Raises the half interrupt when the first half has been written (R359). -/
def State.dmaHalf (s : State) (c : Nat) : State :=
  let ch := s.dmaCh c
  if ch.half ∨ ¬ dCtrl ch.desc 0 ∨ ch.done < ceilDiv ch.total 2 then s
  else (s.onDma c fun ch => { ch with half := true }).flag (DMA_STAT_HALF c) (DMA_IEN_HALF c) (16 + c)

/-- Reads the next piece of the source into the holding register: a row, or up to the end of the line and of what the
register may hold; the status of a failing access. -/
def State.dmaFill (s : State) (c want : Nat) : Option Nat × State :=
  let ch := s.dmaCh c
  let d := ch.desc
  let sl := dSline d
  let r := ch.done + ch.hold.length
  let sh := bit (dSaddr d) 63
  let sa := ch.srcLine (r / sl)
  match (if r % sl = 0 then s.lineBad false sh sa sl (dSstride d) else none) with
  | some s => (some stBadDescriptor, s)
  | none =>
    let n := if byRows sh sa then 512 else min (sl - r % sl) (min want (max 1 (ch.ahead - ch.hold.length)))
    match s.dmaRead sh (sa.toNat + r % sl) n with
    | (none, s) => (some stUncorrectable, s)
    | (some b, s) => (none, s.onDma c fun ch => { ch with hold := ch.hold ++ b })

/-- Writes `n` held bytes to the destination. -/
def State.dmaEmpty (s : State) (c n : Nat) : Option Nat × State :=
  let ch := s.dmaCh c
  let d := ch.desc
  let dl := dmaDl d
  let dh := bit (dDaddr d) 63
  let da := ch.dstLine (ch.done / dl)
  match (if ch.done % dl = 0 then s.lineBad true dh da dl (dDstride d) else none) with
  | some s => (some stBadDescriptor, s)
  | none =>
    match s.dmaWrite dh (da.toNat + ch.done % dl) (ch.hold.take n) with
    | none => (some stBadDescriptor, s.addrError)
    | some s => (none, ((s.bump (DMA_BYTES c) n).onDma c fun ch => { ch with done := ch.done + n, hold := ch.hold.drop n }).dmaHalf c)

/-- Moves the stream until `target` bytes are written, whole rows only where the destination is made of rows: none, or the
status of the first failing access, at which the holding register is emptied (R352, R353, R362). -/
def State.dmaMove (s : State) (c target : Nat) : Nat → Option Nat × State
  | 0 => (none, s)
  | f + 1 =>
    let ch := s.dmaCh c
    let target := min target ch.total
    let dl := dmaDl ch.desc
    let rows := byRows (bit (dDaddr ch.desc) 63) (ch.dstLine (ch.done / dl))
    let n := if rows then 512 else min (dl - ch.done % dl) (target - ch.done)
    if target < ch.done + n ∨ n = 0 then (none, s)
    else
      let k := if rows then 512 else min n ch.hold.length
      match (if k = 0 ∨ ch.hold.length < k then s.dmaFill c (target - ch.done - ch.hold.length) else s.dmaEmpty c k) with
      | (some e, s) => (some e, s.onDma c fun ch => { ch with hold := [] })
      | (none, s) => s.dmaMove c target f

/-- Fuel for `dmaMove`: every piece reads or writes a byte. -/
def DmaCh.pieces (c : DmaCh) : Nat := 2 * c.total + 2

/-- The stream bytes at whose writing the half is reached: a whole row where the destination is made of rows (R116, R359). -/
def DmaCh.halfAt (c : DmaCh) : Nat :=
  let h := ceilDiv c.total 2
  if byRows (bit (dDaddr c.desc) 63) (c.dstLine 0) then ceilDiv h 512 * 512 else h

/-! ## Ends (R355, R358, R359, R363) -/

/-- A descriptor ends with a status: it is written back, `CONS` advances, interrupts and flags follow. -/
def State.dmaEnd (s : State) (c status : Nat) : State :=
  let ch := s.dmaCh c
  let d := ch.desc
  let ok := status = stOk
  let a := s.rg (DMA_BASE_ADDR c) + 64 * s.rg (DMA_CONS_INDEX c)
  let s := if s.inDram a 64 then s.dramWrite 24 (a + 44) (natLE 1 status ++ zeros 3 ++ s.stamp.bytes) else s
  let s := s.wr (DMA_CONS_INDEX c) ((s.rg (DMA_CONS_INDEX c) + 1) % 2 ^ s.rg (DMA_RING_SIZE c))
  let s := ((s.onDma c fun _ => {}).wr (DMA_STAT_BUSY c) 0).bump (DMA_DONE c)
  let t := leAt d 38 1
  let k := leAt d 39 1
  let s := if ¬ (ok ∧ dCtrl d 3) then s
    else if dRt d then { s with dma := { s.dma with flags := s.dma.flags ++ [(s.rg TIDE_NUM + 1, t, k)] } }
    else s.setTflag t k
  if ok then (if dCtrl d 1 then s.flag (DMA_STAT_FULL c) (DMA_IEN_FULL c) (16 + c) else s)
  else
    let s := if s.on (DMA_STAT_ERR c) then s else s.wr (DMA_STAT_CODE c) status
    let s := s.flag (DMA_STAT_ERR c) (DMA_IEN_ERR c) (16 + c)
    if dCtrl d 7 then s.wrs [(DMA_RING_EN c, 0), (DMA_RING_HALTED c, 1)] else s

/-- Moves up to `upto` bytes and ends with a status, or with that of an access that fails on the way. -/
def State.dmaStop (s : State) (c upto status : Nat) : State :=
  let ch := s.dmaCh c
  if ¬ ch.active then s
  else if ¬ ch.running then s.dmaEnd c status
  else match s.dmaMove c upto ch.pieces with
    | (some e, s) => s.dmaEnd c e
    | (none, s) => (if status = stOk then s.dmaHalf c else s).dmaEnd c status

/-! ## Starts (R356, R357, R360) -/

/-- The tide for which a tide-bound descriptor stages data (R360). DESIGN CHOICE: bits that no tide within 32 767 has stand for the
one 32 768 before the current tide, so that the descriptor has timed out. -/
def State.dmaTide (s : State) (d : List Byte) : Int :=
  let n := (leAt d 42 2 + 65536 - s.rg TIDE_NUM % 65536) % 65536
  (s.rg TIDE_NUM : Int) + (if n < 32768 then (n : Int) else (n : Int) - 65536)

/-- The entries a gather copies: each value at its first place (R354); none when a list row is uncorrectable or lies outside
the station region (R133). -/
def State.gatherList (s : State) (d : List Byte) : Option (List (Nat × Nat)) × State :=
  let t := leAt d 40 1
  let row := dDline d
  let n := dSlines d
  if s.tsRegion t < row + ceilDiv n 256 then (none, s)
  else
    let r := (List.range (ceilDiv n 256)).foldl (fun (x : Option (List Byte) × State) i =>
      let y := x.2.readTs t (row + i)
      ((match x.1, y.1 with
        | some a, some b => some (a ++ b)
        | _, _ => none), y.2)) (some [], s)
    (r.1.map fun b => ((List.range n).foldl (fun (l : List (Nat × Nat)) i =>
      let v := leAt b (2 * i) 2
      if v = 0xFFFF ∨ l.any (fun e => e.2 == v) then l else (i, v) :: l) []).reverse, r.2)

/-- Whether source and destination of a descriptor may overlap. -/
def DmaCh.overlaps (c : DmaCh) : Bool :=
  let d := c.desc
  let ends (f : Nat → Int) (k n : Nat) : Int × Int :=
    (min (f 0) (f (k - 1)), max (f 0) (f (k - 1)) + (n : Int))
  let a := ends c.srcLine (if dGather d then c.list.length else dSlines d) (dSline d)
  let b := ends c.dstLine (if dGather d then c.list.length else dDlines d) (dmaDl d)
  bit (dSaddr d) 63 == bit (dDaddr d) 63 && decide (a.1 < b.2 ∧ b.1 < a.2)

/-- A tide-bound descriptor enters panic near its deadline (R333). -/
def State.dmaPanic (s : State) (c cyc : Nat) : State :=
  let ch := s.dmaCh c
  if ch.active ∧ dRt ch.desc ∧ ¬ ch.panic ∧ s.dmaTide ch.desc = (s.rg TIDE_NUM : Int) + 1 ∧
      s.rg TIDE_TMIN_T_MIN < cyc + 512 + s.rg DRAM_PANIC_CYC then
    (s.bump DRAM_PANIC_CNT).onDma c fun ch => { ch with panic := true }
  else s

/-- The reads of the active descriptor start, unless it waits for its tide or its flag. -/
def State.dmaBegin (s : State) (c : Nat) : State :=
  let d := (s.dmaCh c).desc
  let n := s.dmaTide d
  let now : Int := (s.rg TIDE_NUM : Nat)
  if dRt d ∧ n ≤ now then s.dmaEnd c stTimeout
  else if dRt d ∧ now + 1 < n then s
  else if dCtrl d 4 ∧ ¬ bit (s.rg (TFLAG_STATE_FLAGS (leAt d 40 1))) (leAt d 41 1) then s
  else
    let go (s : State) (l : List (Nat × Nat)) : State :=
      let s := s.onDma c fun ch => { ch with running := true, list := l }
      if (s.dmaCh c).overlaps then
        let f := s.free
        f.2.onDma c fun ch => { ch with ahead := 1 + f.1 % 4096 }
      else s
    if dGather d then
      match s.gatherList d with
      | (some l, s) => go s l
      | (none, s) => s.dmaEnd c (if s.tsRegion (leAt d 40 1) < dDline d + ceilDiv (dSlines d) 256 then stBadDescriptor else stUncorrectable)
    else go s []

/-- A channel takes its next descriptor, or looks again at what the active one waits for. -/
def State.dmaStart (s : State) (c cyc : Nat) : State :=
  let ch := s.dmaCh c
  if ch.active then (if ch.running then s else (s.dmaPanic c cyc).dmaBegin c)
  else if ¬ s.on (DMA_RING_EN c) ∨ s.rg (DMA_PROD_INDEX c) = s.rg (DMA_CONS_INDEX c) then s
  else
    let a := s.rg (DMA_BASE_ADDR c) + 64 * s.rg (DMA_CONS_INDEX c)
    let s := s.wr (DMA_STAT_BUSY c) 1
    if ¬ s.inDram a 64 then (s.addrError.onDma c fun ch => { ch with active := true, desc := zeros 64 }).dmaEnd c stBadDescriptor
    else
      let r := s.dramRead 24 a 64
      let s := r.2.onDma c fun ch => { ch with active := true, desc := r.1.1 }
      if r.1.2 then s.dmaEnd c stUncorrectable
      else if ¬ dmaFieldsOk r.1.1 then s.dmaEnd c stBadDescriptor
      else (s.dmaPanic c cyc).dmaBegin c

/-- DMA_DESCRIPTOR_START; `cyc`: cycle of the tide. -/
def execDmaDescriptorStart (c : Fin 16) (cyc : BitVec 23) (s : State) : Res := .next (s.dmaStart c.val cyc.toNat)

/-- DMA_HALF: the first half of the stream has been written. -/
def State.dmaToHalf (s : State) (c cyc : Nat) : State :=
  let s := s.dmaPanic c cyc
  let ch := s.dmaCh c
  if ¬ (ch.active ∧ ch.running) then s
  else match s.dmaMove c ch.halfAt ch.pieces with
    | (some e, s) => s.dmaEnd c e
    | (none, s) => s

def execDmaHalf (c : Fin 16) (cyc : BitVec 23) (s : State) : Res := .next (s.dmaToHalf c.val cyc.toNat)

/-- DMA_DESCRIPTOR_END. `host`: 0 no host error; 1 a completion of Unsupported Request or Completer Abort, 2 a poisoned
completion or ECRC error, met after `upto` stream bytes. -/
def State.dmaFinish (s : State) (c cyc host upto : Nat) : State :=
  let s := s.dmaPanic c cyc
  let ch := s.dmaCh c
  if ¬ (ch.active ∧ ch.running) then s
  else if host = 0 ∨ ¬ (bit (dSaddr ch.desc) 63 ∨ bit (dDaddr ch.desc) 63) then s.dmaStop c ch.total stOk
  else s.dmaStop c upto (if host = 1 then stBadDescriptor else stUncorrectable)

def execDmaDescriptorEnd (c : Fin 16) (cyc : BitVec 23) (host : Fin 3) (upto : BitVec 40) (s : State) : Res :=
  .next (s.dmaFinish c.val cyc.toNat host.val upto.toNat)

/-- DMA_RT_DEADLINE: a tide-bound descriptor that has written `upto` bytes by its deadline cycle stops (R360). -/
def execDmaRtDeadline (c : Fin 16) (upto : BitVec 40) (s : State) : Res :=
  let ch := s.dmaCh c.val
  if ch.active ∧ dRt ch.desc ∧ s.dmaTide ch.desc = (s.rg TIDE_NUM : Int) + 1 then
    .next ((s.dmaPanic c.val (s.rg TIDE_TMIN_T_MIN - 512)).dmaStop c.val upto.toNat stTimeout)
  else .next s

/-- DMA_HOST_TIMEOUT: a host completion did not arrive within 50 ms (R362). -/
def execDmaHostTimeout (c : Fin 16) (upto : BitVec 40) (s : State) : Res :=
  let ch := s.dmaCh c.val
  if ch.active ∧ ch.running ∧ (bit (dSaddr ch.desc) 63 ∨ bit (dDaddr ch.desc) 63) then
    .next (s.dmaStop c.val upto.toNat stTimeout)
  else .next s

/-- A write of ABORT (R363); `upto`: the stream bytes whose writes had been issued. -/
def State.dmaAbort (s : State) (c upto : Nat) : State := (s.dmaStop c upto stCancelled).wr (DMA_RING_EN c) 0

def execDmaAbort (c : Fin 16) (upto : BitVec 40) (s : State) : Res := .next (s.dmaAbort c.val upto.toNat)

/-- A write of PROD (R355). -/
def State.dmaProd (s : State) (c v : Nat) : State :=
  let n := 2 ^ s.rg (DMA_RING_SIZE c)
  let old := s.rg (DMA_PROD_INDEX c)
  let posts := (v + n - old % n) % n
  let free := n - 1 - (old + n - s.rg (DMA_CONS_INDEX c) % n) % n
  if free < posts then s.wr (DMA_STAT_ERR_RING c) 1 else s.wr (DMA_PROD_INDEX c) (v % n)

def execDmaProdWrite (c : Fin 16) (v : BitVec 12) (s : State) : Res := .next (s.dmaProd c.val v.toNat)

/-- The flags of tide-bound descriptors that ended with OK are set at the boundary of their tide (R360). -/
def State.dmaFlags (s : State) : State :=
  let due := s.dma.flags.filter fun f => decide (f.1 ≤ s.rg TIDE_NUM)
  let s : State := { s with dma := { s.dma with flags := s.dma.flags.filter fun f => decide (s.rg TIDE_NUM < f.1) } }
  due.foldl (fun s f => if f.1 = s.rg TIDE_NUM then s.setTflag f.2.1 f.2.2 else s) s

end Sys2Proof.Machine
end

