-- ==== Sys2Proof/Machine/Slots.lean ====
section
/-! DEFINITION. Events of the station memories, the promenade links, the terrace store and the takeover path (chapters 5
and 6), and the station checks at cycle B (R55, R129, R180). -/

namespace Sys2Proof.Machine

/-- A producer sets a slot's presence bit; reads stalled on it proceed (R125, R126). A HELD slot is set only at a
boundary (R128). -/
def State.slotSet (s : State) (t p k : Nat) : State :=
  if ¬ s.on (SLOT_CFG_EN t p k) ∨ s.rg (SLOT_CFG_KIND t p k) = 2 ∨ s.present t p k then s else s.setPresent t p k

/-- SLOT_SET (R125). -/
def execSlotSet (st : StId) (k : Fin 64) (s : State) : Res := .next (s.slotSet st.t.val st.p.val k.val)

/-- SLOT_RELEASE: a consumer's release arrives at the slot (R125, R127). -/
def execSlotRelease (st : StId) (k : Fin 64) (s : State) : Res := .next (s.release st.t.val st.p.val k.val false)

/-- The station at the other end of the promenade link on a station's lower or upper side (R18): links join adjacent
stations, in pass-through or not. -/
def adjacent (t p : Nat) (up : Bool) : Option (Nat × Nat) :=
  let x := promIdx t p
  if up then (if x + 1 < 204 then some (promAt (x + 1)) else none) else if x = 0 then none else some (promAt (x - 1))

/-- A row with a parity error, or after a gap in the credit sequence, is refused at the receiving end: nothing is written,
the error is counted, and the slice that issued the access is faulted (R124). `u`, `q`: the station of that slice. -/
def State.linkBad (s : State) (t p u q cyc : Nat) : State :=
  (s.bump (MEM_LINK_ERR t p)).faultSlice u q stUncorrectable cyc false true 0

/-- The row is taken off the sender's link and its credit used. -/
def State.takeRow (s : State) (q : Nat × Nat) (up : Bool) (rest : List LinkRow) : State :=
  s.onStn q.1 q.2 fun v => v.setLink up { rows := rest, credits := (v.link up).credits - 1 }

/-- The oldest row on a link arrives (R122 to R124): a station in pass-through forwards it on its other link under the
credits of that link; elsewhere it is written when the slot is free, the presence bit set after a slot's last row. -/
def State.linkRow (s : State) (t p : Nat) (up bad : Bool) (cyc : Nat) : State :=
  match adjacent t p up with
  | none => s
  | some q =>
    let l := (s.stn q.1 q.2).link (!up)
    match l.rows with
    | [] => s
    | r :: rest =>
      let m := s.land t p
      if l.credits = 0 then s
      else if bad then (s.takeRow q (!up) rest).linkBad t p (r.src / 17) (r.src % 17) cyc
      else if s.on (MEM_PASS_EN t p) then
        let out := (s.stn t p).link (!up)
        if out.credits ≤ out.rows.length then s
        else (s.takeRow q (!up) rest).onStn t p fun v =>
          v.setLink (!up) { v.link (!up) with rows := (v.link (!up)).rows ++ [r] }
      else if s.present t m r.slot then s.stallSlot t m r.slot true
      else
        let s := s.takeRow q (!up) rest
        let s := s.writeRow t m (s.rg (SLOT_CFG_MEM t m r.slot)) (s.rg (SLOT_CFG_BASE t m r.slot) + r.row) r.data
        if r.set then s.setPresent t m r.slot else s

/-- A row that a neighbour returns for a read arrives: refused as R124 says, and otherwise without effect of its own (the
read that asked for it has taken it). In pass-through the reader is the station that the row travels to. -/
def State.linkReturn (s : State) (t p : Nat) (up bad : Bool) (cyc : Nat) : State :=
  if ¬ bad then s
  else
    match if s.on (MEM_PASS_EN t p) then s.neighbour t p (!up) else some (t, p) with
    | some q => s.linkBad t p q.1 q.2 cyc
    | none => s.bump (MEM_LINK_ERR t p)

/-- LINK_ROW_RECEIVE: `st` receives over its lower (`up` false) or upper link a row written to it, or returned to it for a
read (R124). -/
def execLinkRowReceive (st : StId) (up : Bool) (a : LinkArrival) (cyc : BitVec 23) (s : State) : Res :=
  .next (if a.ret then s.linkReturn st.t.val st.p.val up a.bad cyc.toNat else s.linkRow st.t.val st.p.val up a.bad cyc.toNat)

/-- CREDIT_RETURN: a credit returns to the sender `st` on its lower or upper link, never above 8 (R123). -/
def execCreditReturn (st : StId) (up : Bool) (s : State) : Res :=
  .next (s.onStn st.t.val st.p.val fun v =>
    let l := v.link up
    v.setLink up { l with credits := min 8 (l.credits + 1) })

/-- A write of `MEM.PASS` (R122): EN is not changed while the station has a slice program. -/
def State.memPass (s : State) (t p w : Nat) : State :=
  let s := if bit w 30 then s.wr (MEM_PASS_ERR t p) 0 else s
  if s.assigned t p then
    (if bits w 31 1 = s.rg (MEM_PASS_EN t p) then s else s.wr (MEM_PASS_ERR t p) 1)
  else s.wr (MEM_PASS_EN t p) (bits w 31 1)

/-- MEM_PASS_WRITE (R122). -/
def execMemPassWrite (st : StId) (w : BitVec 32) (s : State) : Res := .next (s.memPass st.t.val st.p.val w.toNat)

/-- Every position of a terrace. -/
def positions : List Nat := List.range 17

/-- A write of `TSTORE.CTRL` (R8, R132): the boundary between station region and page frames moves at the next tide. -/
def State.tstorePages (s : State) (t w : Nat) : State :=
  let s := if bit w 31 then s.wr (TSTORE_CTRL_ERR t) 0 else s
  let n := bits w 0 8
  if 128 < n then s
  else
    let old := s.rg (TSTORE_CTRL_PAGES t)
    let clash := positions.any fun p => s.assigned t p && match (s.stn t p).slice with
      | some sl => sl.tsRows != 0 && decide (4096 - 32 * n < sl.tsBase + sl.tsRows)
      | none => false
    let hot := (List.range 128).any fun f => decide (n ≤ f ∧ f < old) && s.on (ATT_FRAME_VALID t f)
    if clash || hot then s.wr (TSTORE_CTRL_ERR t) 1 else s.onTer t fun r => { r with pagesNext := some n }

/-- TSTORE_PAGES_WRITE (R132). -/
def execTstorePagesWrite (t : Fin 12) (w : BitVec 32) (s : State) : Res := .next (s.tstorePages t.val w.toNat)

/-- The bits `m` of the 64-bit word at `a` flipped, its check bits as they are. -/
def State.flipWord (s : State) (a m : Nat) : State := s.stN a 8 (s.ldN a 8 ^^^ m)

/-- Upsets of the words of a row: a miscorrected word reads as corrected with wrong data, a silent one as good (R119). -/
def State.strike (s : State) (a : Nat) (l : List BadWord) : State :=
  l.foldl (fun s b =>
    if 64 ≤ b.word then s
    else
      let w := a + 8 * b.word
      match b.kind with
      | .single => s.mark w 1
      | .uncorrectable => s.mark w 2
      | .miscorrected => (s.flipWord w b.flip.toNat).mark w 1
      | .silent => s.flipWord w b.flip.toNat) s

/-- The scrubber reads one row (R121): corrected words are written back, uncorrectable ones logged and counted, and no
fault is raised. Program memory is scrubbed only while the station has no slice program. -/
def State.scrub (s : State) (t p m row : Nat) (l : List BadWord) (late : Bool) : State :=
  let before := if late then [] else l
  let after := if late then l else []
  if p = 17 then
    if row < 4096 then
      let a := tsAddr t row
      let s := s.strike a before
      ((s.eccTs t row true (s.marks a 64)).writeBack a 64).strike a after
    else s
  else if memRows m ≤ row then s
  else
    let a := rowAddr t p m row
    let s := s.strike a before
    let s := if m = 3 ∧ s.assigned t p then s else (s.eccStn t p m row true (s.marks a 64)).writeBack a 64
    s.strike a after

/-- SCRUB_ROW: position 17 names the terrace store; `found`: the upsets of the row's words (R119, R121). -/
def execScrubRow (t : Fin 12) (p : Fin 18) (m : Fin 4) (row : BitVec 12) (found : RowFinds) (s : State) : Res :=
  .next (s.scrub t.val p.val m.val row.toNat found.words found.late)

/-! ## Takeover (R148 to R150) -/

/-- Whether a write of `TAKE.CTRL` with REQ is discarded: a takeover is in place, in transfer or asked for (R150). -/
def State.reqBad (s : State) (t : Nat) : Bool :=
  s.rg (TAKE_STATUS_PHASE t) == 2 || s.rg (TAKE_STATUS_PHASE t) == 3 || (s.ter t).takeReq.isSome

/-- Whether a write of `TAKE.CTRL` with RESTORE is discarded: a slice of the terrace is assigned (R150). -/
def State.restoreBad (s : State) (t : Nat) : Bool := positions.any fun p => s.assigned t p

/-- A write of `TAKE.CTRL`: REQ and RESTORE are taken at the next boundary, or the whole write is discarded with ERR
(R150). -/
def State.takeCtrl (s : State) (t : Nat) (req rest : Bool) (pos : Nat) : State :=
  if (req && s.reqBad t) || (rest && s.restoreBad t) then s.wr (TAKE_CTRL_ERR t) 1
  else s.onTer t fun r => { r with takeReq := if req then some pos else r.takeReq, restoreReq := r.restoreReq || rest }

/-- A write with REQ alone. -/
def State.takeReq (s : State) (t pos : Nat) : State := s.takeCtrl t true false pos

/-- TAKEOVER_REQUEST (R148, R150). -/
def execTakeoverRequest (t : Fin 12) (pos : BitVec 4) (s : State) : Res := .next (s.takeReq t.val pos.toNat)

/-- TAKEOVER_RESTORE (R148, R150). -/
def execTakeoverRestore (t : Fin 12) (s : State) : Res := .next (s.takeCtrl t.val false true 0)

/-- The background copy of 1 920 rows ends; a row with an uncorrectable word keeps its mark (R148). -/
def State.takeCopied (s : State) (t : Nat) : State :=
  if s.rg (TAKE_STATUS_PHASE t) ≠ 2 then s
  else
    let p := s.rg (TAKE_STATUS_POS t)
    let ecc := s.ecc.filter fun e => decide (¬ (stnMem t p / 8 ≤ e.1 ∧ e.1 < (stnMem t p + 0xF0000) / 8 ∧ e.2 = 1))
    let s := { s with mem := s.mem.copy (stnMem t p) (stnMem t 16) 0xF0000 0#8
                      ecc := KMap.copy ecc (stnMem t p / 8) (stnMem t 16 / 8) (0xF0000 / 8) 0 }
    s.onTer t fun r => { r with copied := true }

/-- TAKEOVER_COPY_DONE (R148). -/
def execTakeoverCopyDone (t : Fin 12) (s : State) : Res := .next (s.takeCopied t.val)

/-! ## Checks at cycle B (R55, R129, R180) -/

/-- A fault of R129 logged. -/
def State.slotFault (s : State) (t p cause k code : Nat) : State :=
  s.firstLog (SLOT_FAULT_LOG_VALID t p) (SLOT_FAULT_LOG_MULTI t p)
    [(SLOT_FAULT_LOG_CAUSE t p, cause), (SLOT_FAULT_LOG_SLOT t p, k), (SLOT_FAULT_LOG_CODE t p, code)]

/-- Ports of a station stalled on a slot that is not HELD: whether on a write, and the slot's station and number (R129).
DESIGN CHOICE: a row on a link that waits for a full slot counts as a port of the station that sent it, and so raises against
the sender's slice. -/
def State.stalledPorts (s : State) (t p : Nat) : List (Bool × Nat × Nat × Nat) :=
  let v := s.stn t p
  let empty (l : List (Nat × Nat)) : List (Bool × Nat × Nat × Nat) := l.filterMap fun q =>
    (s.sideOf t p q.1).bind fun x => if s.present x.1 x.2 q.2 then none else some (false, x.1, x.2, q.2)
  let full (q : Option (Nat × Nat)) (k : Nat) : List (Bool × Nat × Nat × Nat) := match q with
    | some x => if s.present x.1 x.2 k then [(true, x.1, x.2, k)] else []
    | none => []
  let reads := match v.issuing with
    | some r => if 2 ≤ v.tiles.length then [] else
      empty (s.slotsOf t p r.ad (dCursor r.ad + r.next * dAdv r.ad) r.aRows) ++
        empty (s.slotsOf t p r.wd (dCursor r.wd + r.next * dAdv r.wd) r.wRows) ++
        (if tPre r.word = 2 then empty (s.slotsOf t p r.pd (dCursor r.pd + r.next * dAdv r.pd) 8) else [])
    | none => []
  let curve := match v.curveLoad with
    | some c => empty (s.slotsOf t p c.desc c.off 9)
    | none => []
  let seq := if s.rg (SEQ_STATE_STATE t p) = 3 ∧ s.rg (SEQ_STATE_CAUSE t p) = 4 then v.stuck.toList else []
  let drain := match v.tiles with
    | x :: _ =>
      let o := dCursor x.run.od + x.t * dAdv x.run.od
      if tDst x.run.word = 3 then [] else
      ((List.range (oRows x.run.word)).findSome? fun i => s.writeWait t p x.run.od (o + i)).toList.map fun q => (true, q)
    | [] => []
  let link (up : Bool) : List (Bool × Nat × Nat × Nat) :=
    ((s.underway t p up).map fun r => full (s.neighbour t p up) r.slot).flatten.eraseDups
  let exp := (v.chans.map fun c => match c.full with
    | some k => full (some (t, s.home t p)) k
    | none => []).flatten
  (seq ++ reads ++ curve ++ drain ++ link false ++ link true ++ exp).filter fun q => s.rg (SLOT_CFG_KIND q.2.1 q.2.2.1 q.2.2.2) != 2

/-- Whether a station's drain or its rows on a link wait for a link credit (R123). -/
def State.wantsCredit (s : State) (t p : Nat) : Bool :=
  (match (s.stn t p).tiles with
    | x :: _ => x.left.isSome && s.creditWait t p x.run.od
    | [] => false) ||
  [false, true].any fun up => !(s.underway t p up).isEmpty && ((s.stn t (s.portOf t p)).link up).credits == 0

/-- What outstanding work waits on at B: an empty slot, a full slot or credits, nothing (R180). -/
def State.workCode (s : State) (t p : Nat) : Nat :=
  let l := s.stalledPorts t p
  if l.any (fun q => !q.1) then stStarved else if l.any (fun q => q.1) || s.wantsCredit t p then stOverrun else stTimeout

/-- What the sequencer waits on at B, as the code R180 raises: TIMEOUT when it waits on nothing. DEDUCED: a wait on the tile
queue, on a register in use, on a curve-load or on the work after STOP is judged by what that work waits on, as a BAR is. -/
def State.waitCode (s : State) (t p : Nat) : Nat :=
  let w := s.insn t p
  if s.rg (SEQ_STATE_STATE t p) ≠ 3 then stTimeout
  else match s.rg (SEQ_STATE_CAUSE t p) with
    | 4 => match (s.stn t p).stuck with
      | some q => if q.1 then stOverrun else stStarved
      | none => if opOf w = 0x08 ∧ ¬ bit w 49 then stOverrun else stStarved
    | 6 => stStarved
    | 7 => stOverrun
    | _ => s.workCode t p

/-- CHECK mismatches of a station's own slots: (slot, code) (R129). -/
def State.checkSlots (s : State) (t p : Nat) : List (Nat × Nat) :=
  (List.range 64).filterMap fun k =>
    if s.on (SLOT_CFG_EN t p k) && s.on (SLOT_CFG_CHECK t p k) && s.rg (SLOT_CFG_KIND t p k) != 2 then
      let i := s.on (SLOT_CFG_INIT t p k)
      if i && !s.present t p k then some (k, stStarved)
      else if !i && s.present t p k then some (k, stOverrun) else none
    else none

/-- Stations whose slice waits on a replay: those that depend, directly or through others, on the positions listed, with
those positions (R55, R186). -/
def State.exemptFrom (s : State) : Nat → List (Nat × Nat) → List (Nat × Nat)
  | 0, l => l
  | f + 1, l =>
    let more := allStns.filter fun q => !l.contains q && (s.stn q.1 q.2).slice.isSome &&
      l.any fun r => s.consumes q.1 q.2 r.1 r.2
    if more.isEmpty then l else s.exemptFrom f (l ++ more)

/-- Positions under a replay that has not ended. -/
def State.replaying (s : State) : List (Nat × Nat) :=
  (List.range 12).filterMap fun t =>
    if s.rg (TAKE_STATUS_PHASE t) = 1 ∧ (s.stn t 16).ended.isNone then some (t, s.rg (TAKE_STATUS_POS t)) else none

/-- The stations that a slot waits on: an empty slot on its producer, a full one on its readers (R123). -/
def State.slotPeers (s : State) (t p k : Nat) (full : Bool) : List (Nat × Nat) :=
  let side (i : Nat) : List (Nat × Nat) := if i = 0 then [(t, p)] else (s.neighbour t p (i == 2)).toList
  if full then ((List.range 3).map fun i => if bit (s.rg (SLOT_CFG_RDSET t p k)) i then side i else []).flatten
  else if s.rg (SLOT_CFG_PRODUCER t p k) < 3 then side (s.rg (SLOT_CFG_PRODUCER t p k)) else []

/-- Whether a slot waits on one of the slices listed. -/
def State.slotWaits (s : State) (l : List (Nat × Nat)) (t p k : Nat) (full : Bool) : Bool :=
  (s.slotPeers t p k full).any l.contains

/-- What a check at B, or at Z, covers: `due` of a slot by what it waits on. At B every slot but those that wait on a replay
that has not ended; at Z of the replay of terrace `z` those that waited on it alone (R55). -/
def State.due (s : State) (z : Option Nat) (waits : List (Nat × Nat) → Bool) : Bool :=
  match z with
  | none => !waits (s.exemptFrom 204 s.replaying)
  | some t => waits (s.exemptFrom 204 [(t, s.rg (TAKE_STATUS_POS t))]) &&
      !waits (s.exemptFrom 204 (s.replaying.filter fun q => q.1 != t))

/-- The checks of one station at B or Z: stalled ports, CHECK slots, and abandonment of a slice that has not ended. A slice
that a fault has stopped has no port in use; its CHECK slots count all the same. -/
def State.checkStn (s : State) (t p cyc : Nat) (z : Option Nat) : State :=
  let v := s.stn t p
  if v.slice.isNone ∨ v.halted then s
  else
    let h := s.home t p
    let live := v.faults.isEmpty
    let all := if live then s.stalledPorts t p else []
    let ports := all.filter fun q => s.due z fun l => s.slotWaits l q.2.1 q.2.2.1 q.2.2.2 q.1
    let chk := (s.checkSlots t h).filter fun q => s.due z fun l => s.slotWaits l t h q.1 (q.2 == stOverrun)
    let unended := live && v.ended.isNone && (s.due z fun l => l.contains (t, h) ||
      all.any fun q => s.slotWaits l q.2.1 q.2.2.1 q.2.2.2 q.1)
    let wc := s.waitCode t p
    let s := ports.foldl (fun s q => s.slotFault t p (if q.1 then 1 else 0) q.2.2.2 (if q.1 then stOverrun else stStarved)) s
    let s := chk.foldl (fun s q => s.slotFault t h 2 q.1 q.2) s
    let codes := ((ports.map fun q => if q.1 then stOverrun else stStarved) ++ (chk.map fun q => q.2) ++
      (if unended then [wc] else [])).eraseDups
    let s := if unended then
        s.firstLog (SEQ_FAULT_VALID t p) (SEQ_FAULT_MULTI t p)
          [(SEQ_FAULT_CAUSE t p, 3), (SEQ_FAULT_PC t p, s.rg (SEQ_STATE_PC t p)), (SEQ_FAULT_CODE t p, wc)]
      else s
    let s := [stStarved, stOverrun, stTimeout].foldl
      (fun s c => if codes.contains c then s.faultSlice t p c cyc false true 0 else s) s
    if unended then s.wr (SEQ_STATE_STATE t p) 6 else s

/-- The stations that carry a slice at B: a reserve that carries nothing has no slice of its own, and a position that a
reserve carries is checked there (R55, R145). -/
def State.carriers (s : State) : List (Nat × Nat) :=
  allStns.filter fun q => s.carrier q.1 q.2 == q.2 && (q.2 != 16 || s.rg (TAKE_STATUS_PHASE q.1) != 0)

/-- Whether the checks of a replay were left for Z: it had not ended at B (R55). -/
def State.leftForZ (s : State) (t : Nat) : Bool :=
  s.rg (TAKE_STATUS_PHASE t) == 1 && match (s.stn t 16).ended with
    | some c => decide (s.rg TIDE_BUDGET_B < c)
    | none => true

/-- Cycle B for the stations (`z` none), or Z of the replay of a terrace for the slots and slices that waited on it
(R55). -/
def State.stationsAtB (s : State) (cyc : Nat) (z : Option Nat) : State :=
  if z.all s.leftForZ then s.carriers.foldl (fun s q => s.checkStn q.1 q.2 cyc z) s else s

end Sys2Proof.Machine
end

