-- ==== Sys2Proof/Machine/Integrity.lean ====
section
/-! DEFINITION. The fault queue and the station records, repairs, the books, lifetime counters and histograms, the
lifetime log (chapter 21). -/

namespace Sys2Proof.Machine

/-! ## Station records (R501 to R508) -/

/-- The record of a station, kept by 17 t + p. -/
def State.stnRec (s : State) (t p : Nat) : StnRec := s.integ.recs.get (17 * t + p) {}

/-- The value of object 0x2502 (R505, R518): for each terrace the retired position or 0xFF, and the fenced bits. -/
def State.stationState (s : State) : List Byte :=
  (List.range 12).flatMap fun t =>
    let old := leAt (s.objVal 0x2502 0 []) (8 * t) 1
    natLE 1 (if s.rg (TAKE_STATUS_PHASE t) = 3 then s.rg (TAKE_STATUS_POS t)
      else if (s.ter t).takeReq = some old then old else 0xFF) ++ zeros 3 ++
      natLE 4 (s.rg (INT_STN_FENCED t))

/-- The host core records the retired and fenced positions (R505). -/
def State.recordStations (s : State) : State := s.persist 0x2502 0 s.stationState

/-- Position `p` of terrace `t` is fenced (R503, R504). -/
def State.fence (s : State) (t p : Nat) : State :=
  if bit (s.rg (INT_STN_FENCED t)) p then s
  else
    let s := (s.wr (INT_STN_FENCED t) (s.rg (INT_STN_FENCED t) + 2 ^ p)).postEvent 0x0060 0 (t + 256 * p)
    ((s.logEntry 0x0003 0 (stnWhere t p) (b2n (p == 16))).count 0xB).rederive.recordStations

/-- The threshold of R502 is reached: unless its takeover is under way, a takeover is requested, or the station or the reserve is fenced (R503, R504). -/
def State.retire (s : State) (t p : Nat) : State :=
  if (s.ter t).takeReq = some p ∨ (2 ≤ s.rg (TAKE_STATUS_PHASE t) ∧ s.rg (TAKE_STATUS_POS t) = p) then s
  else if p = 16 ∨ s.rg (TAKE_STATUS_PHASE t) = 2 ∨ s.rg (TAKE_STATUS_PHASE t) = 3 ∨ bit (s.rg (INT_STN_FENCED t)) 16 ∨
      ((s.ter t).takeReq.any fun q => q != p) then s.fence t p
  else s.takeReq t p

/-- The entry of object 0x2500 for a station: ROW_OMIT and COL_OMIT, 32 for none. -/
def State.repairOf (s : State) (t p : Nat) : Nat × Nat :=
  match (chunks 4 204 (s.objVal 0x2500 0 [])).find? fun e => e.length == 4 && leAt e 0 1 == t && leAt e 1 1 == p with
  | some e => (leAt e 2 1, leAt e 3 1)
  | none => (32, 32)

/-- Object 0x2500 with the station's entry. -/
def State.recordRepair (s : State) (t p row col : Nat) : State :=
  let l := (chunks 4 204 (s.objVal 0x2500 0 [])).filter fun e => e.length == 4 && !(leAt e 0 1 == t && leAt e 1 1 == p)
  s.persist 0x2500 0 (l.flatten ++ natLE 1 t ++ natLE 1 p ++ natLE 1 row ++ natLE 1 col)

/-- A spare row or column is recorded, and put to use when the station has no slice program (R506, R519). -/
def State.repairArray (s : State) (t p row col : Nat) : State :=
  let s := s.recordRepair t p row col
  let s := (s.logEntry 0x0004 0 (stnWhere t p) (row + 256 * col)).count 0xC
  if s.assigned t p then s.postEvent 0x0063 0 (t + 256 * p) [0#8, 0#8]
  else (s.arrayRepair t p (2 ^ 31 + 256 * col + row)).postEvent 0x0063 0 (t + 256 * p) [0#8, 1#8]

/-- The repair that two located faults in different tides decide (R506): the row, or the column when the row is taken, of
one cell; otherwise the row or the column that both name. -/
def State.repairDecision (s : State) (t p : Nat) (a b : Nat × Nat × Nat) : Option (Nat × Nat) :=
  let old := s.repairOf t p
  let rowFree := s.rg (ARRAY_FUSE_ROW_OMIT t p) == 32 && old.1 == 32
  let colFree := s.rg (ARRAY_FUSE_COL_OMIT t p) == 32 && old.2 == 32
  let row := a.2.1 == b.2.1 && a.2.1 != 63
  let col := a.2.2 == b.2.2 && a.2.2 != 63
  if row && col then (if rowFree then some (a.2.1, old.2) else if colFree then some (old.1, a.2.2) else none)
  else if row then (if rowFree then some (a.2.1, old.2) else none)
  else if col then (if colFree then some (old.1, a.2.2) else none)
  else none

/-- A counting fault enters its station's record (R501, R502, R506). -/
def State.countFault (s : State) (r : FaultRec) : State :=
  let v := s.stnRec r.terr r.pos
  let located := r.code == stChecksum && bit r.loc 31
  let loc := (r.tide, bits r.loc 8 6, bits r.loc 16 6)
  let tides := if v.tides.contains r.tide then v.tides else (r.tide :: v.tides).filter fun n => decide (r.tide < n + 1000)
  let mate := if located then v.locs.find? fun l => l.1 != r.tide && (s.repairDecision r.terr r.pos l loc).isSome else none
  let w : StnRec := { tides := tides, locs := if located then v.locs ++ [loc] else v.locs, allLocated := v.allLocated && located }
  let s : State := { s with integ := { s.integ with recs := s.integ.recs.set (17 * r.terr + r.pos) w {} } }
  let s := match mate.bind fun l => s.repairDecision r.terr r.pos l loc with
    | some q => s.repairArray r.terr r.pos q.1 q.2
    | none => s
  if ¬ (3 ≤ tides.length ∧ ¬ v.tides.contains r.tide) then s
  else if s.tide.running ∧ r.tide = s.rg TIDE_NUM then s.onTer r.terr fun x => { x with takeNext := x.takeNext.orElse fun _ => some r.pos }
  else s.retire r.terr r.pos

/-- FQ_POP: the host core removes the oldest fault record: it is logged, counted, and enters the station's record. -/
def State.fqPop (s : State) : State :=
  match s.integ.fq with
  | [] => s
  | r :: l =>
    let s : State := { s with integ := { s.integ with fq := l } }
    let s := s.wr INT_FQ_STAT_FILL l.length
    let counting := bit r.flags 2
    let granted := bit r.flags 0
    let s := s.logEntry 0x0001 0xFE (stnWhere r.terr r.pos) (r.loc % 2 ^ 24 + 2 ^ 30 * b2n counting + 2 ^ 31 * b2n granted) r.code
    let s := s.count (if counting then 5 else 6)
    let s := if granted then
        (s.count 7).sample 2 (min 15 (if s.rg TIDE_TMIN_T_MIN = 0 then 0 else 16 * r.cycle / s.rg TIDE_TMIN_T_MIN))
      else s
    if counting then (s.sample 3 r.terr).countFault r else s

def execFqPop (s : State) : Res := .next s.fqPop

/-- Oldest fault record's word `w` (R517). -/
def State.fqWord (s : State) (w : Nat) : Nat :=
  match s.integ.fq with
  | [] => 0
  | r :: _ => leAt (natLE 6 r.tide ++ natLE 1 r.terr ++ natLE 1 r.pos ++ natLE 1 r.code ++ natLE 1 r.flags ++ zeros 2 ++
      natLE 4 r.cycle ++ natLE 4 r.loc ++ zeros 4) (4 * w) 4

/-! ## SRAM repair rows (R507, R508) -/

/-- Banks of a memory: 0 to 2 of a station, 3 the terrace store (R116, R131). -/
def memBanks (m : Nat) : Nat := if m = 0 then 8 else if m = 1 then 4 else if m = 2 then 3 else 16

/-- An entry of object 0x2501 (R518). -/
def srepEntry (t p m bank index spare : Nat) : List Byte :=
  natLE 1 t ++ natLE 1 (p + 32 * m) ++ natLE 1 (bank + 16 * spare) ++ natLE 1 index

/-- Puts a row of a bank onto a repair row; its content is then whatever the repair row held. -/
def State.mapRow (s : State) (t p m bank index spare : Nat) : State :=
  let row := index * memBanks m + bank
  let a := if m = 3 then tsAddr t row else rowAddr t p m row
  let f := s.free
  let s : State := { f.2 with integ := { f.2.integ with srep := f.2.integ.srep ++ [((t, if m = 3 then 17 else p, m, bank, spare), index)] } }
  s.putRow a (natLE 512 f.1)

/-- Whether `INT.SREP` refuses a mapping (R507). -/
def State.srepBad (s : State) (t p m bank index spare : Nat) : Bool :=
  let q := if m = 3 then 17 else p
  decide (12 ≤ t ∨ (m ≠ 3 ∧ 17 ≤ p) ∨ memBanks m ≤ bank ∨ (if m = 3 then 256 else 128) ≤ index ∨ (m ≠ 3 ∧ 2 ≤ spare)) ||
    (if m = 3 then positions.any (fun p => s.assigned t p) || (List.range 128).any fun f => s.on (ATT_FRAME_VALID t f)
      else s.assigned t p) ||
    s.integ.srep.any fun x => x.1 == (t, q, m, bank, spare)

/-- A write of `INT.SREP`: with GO the row is mapped, and recorded in object 0x2501, or refused with ERR. With no repair
row of a terrace-store bank left, the row is recorded with SPARE 0xF (R508). -/
def State.srepWrite (s : State) (w : Nat) : State :=
  let s := if bit w 29 then s.wr INT_SREP_ERR 0 else s
  let t := bits w 25 4
  let p := bits w 20 5
  let m := bits w 18 2
  let bank := bits w 14 4
  let index := bits w 6 8
  let spare := bits w 4 2
  let s := s.wrs [(INT_SREP_TERR, t), (INT_SREP_POS, p), (INT_SREP_MEM, m), (INT_SREP_BANK, bank), (INT_SREP_INDEX, index),
    (INT_SREP_SPARE, spare)]
  let old := s.objVal 0x2501 0 []
  if ¬ bit w 31 then s
  else if s.srepBad t p m bank index spare then
    let s := s.wr INT_SREP_ERR 1
    if m = 3 ∧ t < 12 ∧ ((List.range 4).all fun i => s.integ.srep.any fun x => x.1 == (t, 17, 3, bank, i)) then
      let s : State := { s with integ := { s.integ with noSpare := s.integ.noSpare ++ [(t, index * 16 + bank)] } }
      (s.logEntry 0x0005 0 (stnWhere t 17) (index + 2 ^ 20 * 15 + 2 ^ 24 * bank + 2 ^ 28 * 3)).persist 0x2501 0
        (old ++ srepEntry t 0 3 bank index 15)
    else s
  else
    let pw := if m = 3 then 17 else p
    let s := (s.mapRow t p m bank index spare).persist 0x2501 0 (old ++ srepEntry t (if m = 3 then 0 else p) m bank index spare)
    let s := (s.logEntry 0x0005 0 (stnWhere t pw) (index + 2 ^ 20 * spare + 2 ^ 24 * bank + 2 ^ 28 * m)).count 0xD
    s.postEvent 0x0063 0 (t + 256 * pw) [1#8, 1#8]

def execSramRepairMap (w : BitVec 32) (s : State) : Res := .next (s.srepWrite w.toNat)

/-! ## Lifetime counters, histograms and the log (R512 to R516) -/

/-- The values of the 82 data parts of a checkpoint, in part order (R515). -/
def Life.parts (l : Life) : List Nat :=
  ((List.range 21).map fun i => l.counts.get i 0) ++ ((List.range 60).map fun i => l.bins.get i 0) ++ [l.sat]

/-- The entries of a checkpoint from sequence number `n` (R513, R515). -/
def State.checkpoint (s : State) (n : Nat) : List LogEnt :=
  let v := s.life.parts
  let all := v ++ [crc32c (v.flatMap fun x => natLE 4 x)]
  (List.range 83).map fun i =>
    { stamp := s.stamp, seq := n + i, code := 0x0015, status := i, src := 5, wher := 0xFFFF, count := 1, arg := all.getD i 0 }

/-- The last entry of a sector's newest checkpoint, if one ends there. -/
def endsCheckpoint (l : List LogEnt) : Option Nat := (l.reverse.find? fun e => e.code == 0x0015 && e.status == 82).map fun e => e.seq

/-- Whether the newest checkpoint has a part in the oldest sector. -/
def LogSt.oldestHolds (l : LogSt) : Bool :=
  match l.sectors with
  | [] => false
  | o :: r => match ((r.reverse ++ [o]).findSome? endsCheckpoint) with
    | some q => o.any fun e => e.code == 0x0015 && decide (q < e.seq + 83 ∧ e.seq ≤ q)
    | none => false

/-- One entry appended to the array; a new sector is opened when the last is full, and with 16 in use the oldest is
erased. -/
def State.logPut (s : State) (e : LogEnt) : State :=
  let s := s.codeWritten
  match s.log.sectors.getLast? with
  | some l =>
    if l.length < 128 then { s with log := { s.log with sectors := s.log.sectors.dropLast ++ [l ++ [e]] } }
    else if s.log.sectors.length < 16 then { s with log := { s.log with sectors := s.log.sectors ++ [[e]] } }
    else ({ s with log := { s.log with sectors := s.log.sectors.drop 1 ++ [[e]] } } : State).bump EF_ERASE
  | none => { s with log := { s.log with sectors := [[e]] } }

/-- A checkpoint written to the array, outside the token bucket. -/
def State.writeCheckpoint (s : State) : State :=
  let l := s.checkpoint s.log.nextSeq
  let s : State := { s with log := { s.log with nextSeq := s.log.nextSeq + 83 } }
  l.foldl (fun s e => s.logPut e) s

/-- Buffered entries are written while the bucket holds tokens, after a checkpoint where the next sector's erase would
take the newest one; one DROPPED entry follows when space returns (R513, R515). -/
def State.drainLog (s : State) : Nat → State
  | 0 => s
  | f + 1 =>
    match s.log.buf with
    | [] => s
    | e :: rest =>
      if s.log.tokens = 0 then s
      else
        let near := s.log.sectors.length == 16 && ((s.log.sectors.getLast?.getD []).length == 45) && s.log.oldestHolds
        let s := if near then s.writeCheckpoint else s
        let s : State := { s with log := { s.log with buf := rest, tokens := s.log.tokens - 1 } }
        let s := s.logPut e
        let s := if s.log.dropped = 0 then s else
          let n := s.log.dropped
          ({ s with log := { s.log with dropped := 0 } } : State).logEntry 0x0014 5 0xFFFF n
        s.drainLog f

/-- LOG_TOKEN: 2 s have passed (R515). -/
def State.logToken (s : State) : State :=
  if ¬ s.pins.control then s
  else ({ s with log := { s.log with tokens := min 256 (s.log.tokens + 1) } } : State).drainLog 257

def execLogToken (s : State) : Res := .next s.logToken

/-- LIFETIME_CHECKPOINT; `hour`: a whole hour with the 12 V input present has passed (R513). -/
def execLifetimeCheckpoint (hour : Bool) (s : State) : Res :=
  .next ((if hour ∧ s.pins.v12 then s.count 0 else s).writeCheckpoint)

/-- The complete checkpoint that ends with sequence number `q`: its 83 values, when part 82 compares. -/
def checkpointAt (l : List LogEnt) (q : Nat) : Option (List Nat) :=
  let v := (List.range 83).map fun i => (l.find? fun e => e.code == 0x0015 && e.status == i && e.seq + 82 == q + i).map fun e => e.arg
  if v.all fun x => x.isSome then
    let v := v.map fun x => x.getD 0
    if crc32c ((v.take 82).flatMap fun x => natLE 4 x) = v.getD 82 0 then some v else none
  else none

/-- Counters and histograms restored from the newest complete checkpoint (R513). -/
def State.restoreLife (s : State) : State :=
  let l := s.log.sectors.flatten
  match (l.reverse.filter fun e => e.code == 0x0015 && e.status == 82).findSome? fun e => checkpointAt l e.seq with
  | none => s
  | some v =>
    { s with life := { counts := (List.range 21).foldl (fun m i => m.set i (v.getD i 0) 0) []
                       bins := (List.range 60).foldl (fun m i => m.set i (v.getD (21 + i) 0) 0) []
                       sat := v.getD 81 0 } }

/-- The bin of a junction temperature in 1/16 degrees (R514). -/
def junctionBin (x : Nat) : Nat :=
  let d := (sext 16 x + 320) / 160
  if d < 0 then 0 else min 15 (d.toNat + 1)

/-- The largest `SEQ.MAXEND` over the assigned stations (R514). -/
def State.maxEnd (s : State) : Nat :=
  (allStns.filter fun q => s.assigned q.1 q.2).foldl (fun a q => max a (s.rg (SEQ_MAXEND_CYCLE q.1 q.2))) 0

/-- HISTOGRAM_SAMPLE: the 60 s sample of JUNCTION_TEMP, or the sample of SLICE_MARGIN taken every second. -/
def execHistogramSample (margin : Bool) (s : State) : Res :=
  .next (if margin then
      let b := s.rg TIDE_BUDGET_B
      s.sample 1 (if b = 0 then 15 else min 15 (16 * s.maxEnd / b))
    else s.sample 0 (junctionBin (s.rg PWR_TEMP_TJ)))

/-- The 32 bytes of a log entry (R515). -/
def LogEnt.bytes (e : LogEnt) : List Byte :=
  e.stamp.bytes ++ natLE 4 e.seq ++ natLE 2 e.code ++ natLE 1 e.status ++ natLE 1 e.src ++ natLE 2 e.wher ++
    natLE 2 e.count ++ natLE 4 e.arg

/-- Every entry on the module, oldest first: the array's, then the buffer's. -/
def State.logAll (s : State) : List LogEnt := s.log.sectors.flatten ++ s.log.buf

/-- The entries of LOG_READ (R516): in rising SEQ, at most 32, from the cursor on. -/
def State.logRead (s : State) (cursor : Nat) : List Byte :=
  let l := s.logAll.filter fun e => decide (cursor ≤ e.seq)
  let sorted := l.foldl (fun (m : KMap LogEnt) e => m.insert e.seq e) []
  (sorted.take 32).flatMap fun e => e.2.bytes

/-- LOG_INFO (R516). -/
def State.logInfo (s : State) : List Byte :=
  let q := s.logAll.map fun e => e.seq
  let lo := q.foldl min (q.headD 0)
  natLE 4 lo ++ natLE 4 (q.foldl max 0) ++ natLE 2 s.log.buf.length ++ natLE 2 s.log.tokens ++ zeros 4

/-! ## The books (R511) -/

/-- The checks of a tide boundary but the gatehouse's: DMA descriptors, KV pages, pool pages. The queues of the model hold
no books of their own for descriptors, so that identity is (PROD - CONS) by definition. -/
def State.booksBad (s : State) : Nat :=
  let kv := s.rg PS_FREE + s.rg PS_IN_USE + s.rg PS_PENDING != s.rg PS_KV_PAGES
  let sum (f : Nat → Fld) : Nat := (List.range 64).foldl (fun a c => a + s.rg (f c)) 0
  let pool := s.rg TIER_FREE + sum TIER_CLIENT_DRAM != s.rg TIER_POOL_DRAM ||
    s.rg TIER_NFREE + sum TIER_CLIENT_NAND != s.rg TIER_POOL_NAND
  2 * b2n (s.on PS_CTRL_EN && kv) + 4 * b2n pool

/-- `bad`: the bits that failed. -/
def State.checkBooks (s : State) (bad : Nat) : State :=
  if bad = 0 then s
  else
    let new := (List.range 4).foldl (fun a i => a + (if bit bad i ∨ bit (s.rg INT_BOOKS_FAILED) i then 2 ^ i else 0)) 0
    (((s.wr INT_BOOKS_FAILED new).flag INT_EVENT_BOOKS INT_EVENT_EN_BOOKS 11).logEntry 0x0012 0xFE 0xFFFF bad).postEvent 0x0062
      0xFF bad

end Sys2Proof.Machine
end

