-- ==== Sys2Proof/Machine/Fw.lean ====
section
/-! DEFINITION. Firmware images, negotiation, host rings and interrupts, core restarts (chapter 19). -/

namespace Sys2Proof.Machine

/-! ## Images (R456, R457, R486) -/

/-- The header rules of R456, for an image of core `k` in a byte string of exactly LENGTH bytes. -/
def imageOk (k : Nat) (b : List Byte) : Bool :=
  let code := leAt b 24 4
  let data := leAt b 28 4
  let len := 1024 + ceilDiv (code + data) 512 * 512
  decide (leAt b 0 4 = 0x57465646 ∧ leAt b 4 2 = 1 ∧ leAt b 6 1 = k ∧ leAt b 7 1 = 0 ∧ leAt b 14 2 = 0) &&
    decide (code % 4 = 0 ∧ code + data ≤ 1048576 ∧ leAt b 32 4 < code ∧ leAt b 36 4 = len ∧ b.length = len ∧
      leAt b 44 4 = 512) &&
    allZero (slice b 48 464) && allZero (slice b (512 + code + data) (len - 1024 - code - data)) &&
    crc32c (patch b 40 (zeros 4)) == leAt b 40 4

/-- One signature of a signature block: KEYSEL, PUBKEY, R and S at byte `o`. -/
def sigOk (blk digest : List Byte) (o : Nat) (hash : Option (List Byte)) : Bool :=
  let key := slice blk (o + 16) 97
  allZero (slice blk (o + 1) 15) && allZero (slice blk (o + 113) 15) && leAt key 0 1 == 4 && some (sha384 key) == hash &&
    ecdsaOk (beNat (slice key 1 48)) (beNat (slice key 49 48)) digest (beNat (slice blk (o + 128) 48))
      (beNat (slice blk (o + 176) 48))

/-- The signature block of an image against the OTP (R486); `min`: the rollback counter of the image's class. -/
def Factory.signed (f : Factory) (b : List Byte) (min : Nat) : Bool :=
  let blk := b.drop (b.length - 512)
  let n := leAt blk 6 1
  let digest := slice blk 16 48
  let sel (i : Nat) : Nat := leAt blk (64 + 224 * i) 1
  let hash (i : Nat) : Option (List Byte) := if sel i = 0 then some f.rootHash else f.ownerHash
  decide (leAt blk 0 4 = 0x47535646 ∧ leAt blk 4 2 = 1 ∧ (n = 1 ∨ n = 2) ∧ leAt blk 7 1 = 0 ∧ leAt blk 8 4 ≤ 63 ∧
      min ≤ leAt blk 8 4) &&
    allZero (slice blk 12 4) && allZero (blk.drop (64 + 224 * n)) && sha384 (b.take (b.length - 512)) == digest &&
    (List.range n).all (fun i => decide (sel i ≤ 1) && sigOk blk digest (64 + 224 * i) (hash i)) &&
    (List.range n).any (fun i => sel i == 0) && (f.ownerHash.isNone || (List.range n).any fun i => sel i == 1)

/-- What the module keeps of an image. -/
def FwImg.of (b : List Byte) : FwImg :=
  { release := leAt b 8 4, ifmaj := leAt b 12 1, ifmin := leAt b 13 1, feat := leAt b 16 8
    rollback := leAt b (b.length - 504) 4, bytes := b }

/-- The image that a core runs or restarts from. -/
def State.image (s : State) (k : Nat) : Option FwImg := s.fw.images.get k none

/-- The registers that follow the running images (R458, R475). -/
def State.showImages (s : State) : State :=
  let l := (List.range 5).map s.image
  let feat := if l.all Option.isSome then l.foldl (fun a m => a &&& (m.map FwImg.feat).getD 0) (2 ^ 64 - 1) else 0
  let h := s.image 0
  s.wrs [(FW_FEAT_MOD, feat), (FW_IFVER_IFMAJ, (h.map FwImg.ifmaj).getD 0), (FW_IFVER_IFMIN, (h.map FwImg.ifmin).getD 0),
    (FW_RELEASE, (h.map FwImg.release).getD 0)]

/-! ## Restarts (R471 to R473) -/

/-- What the host core leaves undone when it stops: entries taken, sets not yet assigned and INPLACE loads complete with
TIMEOUT once it runs again, and leave no trace (R472). DEDUCED: an INPLACE load whose barrier has closed is held by the weight
loader, since the old pages are gone, and goes on. -/
def State.hostCoreStops (s : State) : State :=
  let taken := s.fw.taken.map fun x => (x.q, s.cmdCompletion (leAt x.entry 0 1) stTimeout 0 0 (leAt x.entry 16 8) 0xFFFF)
  let open' := s.loader.sets.filter fun x => decide (x.state < 2) && x.placeTag.isSome
  let sets := open'.filterMap fun x => x.placeTag.map fun p => (p.1, s.cmdCompletion 2 stTimeout 0 0xFF p.2 0xFFFF)
  let loads := (s.loader.inplace.filter fun x => !x.closed).map fun x => (x.q, s.cmdCompletion 1 stTimeout 0 0 x.tag 0xFFFF)
  let s := open'.foldl (fun s x => s.ghSet x false) s
  let s : State := { s with
    fw := { s.fw with taken := [], late := s.fw.late ++ taken ++ sets ++ loads }
    loader := { s.loader with
      sets := s.loader.sets.filter fun x => !(decide (x.state < 2) && x.placeTag.isSome)
      inplace := s.loader.inplace.filter fun x => x.closed
      streams := s.loader.streams.filter fun y => !(open'.any (fun x => x.stream == y.name)) ||
        s.loader.sets.any (fun x => x.stream == y.name && !(decide (x.state < 2) && x.placeTag.isSome)) } }
  s.wuse

/-- A restart of core `k` with a cause: ignored while it restarts already or runs no image; the fourth within 60 s leaves
the core FAILED (R471, R473). -/
def State.restartCore (s : State) (k cause : Nat) : State :=
  let st := s.rg (FW_CORE_STATUS_STATE k)
  if st = 3 ∨ (s.image k).isNone ∨ (st = 4 ∧ cause ≠ 3) then s
  else
    let old := if st = 4 then [] else (s.fw.restarts.get k []).filter fun t => decide (s.uptime < t + 60000000000)
    let times := s.uptime :: old
    let s : State := { s with fw := { s.fw with restarts := s.fw.restarts.set k times [] } }
    let n := s.rg (FW_CORE_RESTARTS k) + 1
    let failed := decide (4 ≤ times.length)
    let s := s.wrs [(FW_CORE_RESTARTS k, n), (FW_CORE_STATUS_CAUSE k, cause), (FW_CORE_STATUS_RECENT k, times.length),
      (FW_CORE_STATUS_STATE k, if failed then 4 else 3)]
    let s := ((s.count 4).logEntry 0x000A 0xFE 0xFFFF (k + 256 * cause)).postEvent 0x0001 0xFF (k + 256 * cause) (natLE 4 n)
    let s := if k = 0 then s.hostCoreStops else s
    if failed then s.postEvent 0x0002 0xFF k else s

/-- CORE_WATCHDOG_EXPIRY: the watchdog of a running core ends without a kick (R470). -/
def execCoreWatchdogExpiry (k : Fin 5) (s : State) : Res := .next (if s.coreRuns k.val then s.restartCore k.val 1 else s)

/-- CORE_RESTART_WRITE: `FW.CORE[k].CTRL.RESTART` (R473). -/
def execCoreRestartWrite (k : Fin 5) (s : State) : Res := .next (s.restartCore k.val 3)

/-- ACCESS_FAULT of core `k`, with what its cause counts beside (R23, R455, R498). -/
def execAccessFault (k : Fin 5) (c : AccessCause) (s : State) : Res :=
  .next (let s := match c with
           | .breach => s
           | .sram => (s.bump INT_FWSRAM_UNC).flag INT_EVENT_FWSRAM INT_EVENT_EN_FWSRAM 11
           | .unmapped => s.addrError
         ((s.bump INT_FW_FAULT).flag INT_EVENT_ACCESS INT_EVENT_EN_ACCESS 11).restartCore k.val 2)

/-- WATCHDOG_KICK: core `k` writes its KICK register. -/
def execWatchdogKick (k : Fin 5) (s : State) : Res :=
  .next { s with fw := { s.fw with kicks := s.fw.kicks.set k.val s.uptime 0 } }

/-- CORE_RESTART_DONE: the core has rebuilt its state; the host core completes what it left undone, the scheduler core
looks at the bounds of waiting steps at each set's next pass boundary, the network core serves the ports (R471 to R474). -/
def State.coreDone (s : State) (k : Nat) : State :=
  if s.rg (FW_CORE_STATUS_STATE k) ≠ 3 then s
  else
    let s : State := { s with fw := { s.fw with kicks := s.fw.kicks.set k s.uptime 0 } }
    let s := s.wr (FW_CORE_STATUS_STATE k) 2
    if k = 0 then
      let l := s.fw.late
      let s : State := { s with fw := { s.fw with late := [] } }
      l.foldl (fun s x => s.complete x.1 x.2) s
    else if k = 1 then { s with loader := { s.loader with schedLate := s.tokenSets.map fun x => x.handle } }
    else if k = 3 then ({ s with ring := { s.ring with watchdog := false } } : State).leaveBypass
    else s

def execCoreRestartDone (k : Fin 5) (s : State) : Res := .next (s.coreDone k.val)

/-! ## Loading an image (R457, R460) -/

/-- The version rule of a load (R460). -/
def State.loadVersionOk (s : State) (k : Nat) (m : FwImg) : Bool :=
  let mode := s.rg FW_STATE_MODE
  let line := m.release / 65536
  if mode = 1 ∨ mode = 3 then
    line == s.rg FW_RELEASE / 65536 && m.ifmaj == s.rg FW_IFVER_IFMAJ && m.ifmin == s.rg FW_IFVER_IFMIN &&
      (m.feat &&& s.rg FW_FEAT_AGREED) == s.rg FW_FEAT_AGREED
  else (List.range 5).all fun j => j == k || match s.image j with
    | some x => x.release / 65536 == line
    | none => true

/-- The outcome of a load. -/
def State.loadStatus (s : State) (k : Nat) (b : List Byte) : Nat :=
  if ¬ imageOk k b then stBadDescriptor
  else if ¬ s.fac.signed b s.fac.rollCd then stRefusedProtection
  else if ¬ s.loadVersionOk k (FwImg.of b) then stRefusedVersion
  else stOk

/-- FW_LOAD: a write of `FW.LOAD_CTRL`. An accepted image goes to the image store; a stopped core starts it, a running one
is restarted with it. -/
def State.fwLoad (s : State) (w : Nat) : State :=
  let s := s.wr FW_LOAD_CTRL_CORE (FW_LOAD_CTRL_CORE.take (s.rg FW_LOAD_CTRL_CORE) (bits w 0 3))
  if ¬ bit w 31 then s
  else
    let k := s.rg FW_LOAD_CTRL_CORE
    let a := s.rg FW_LOAD_ADDR
    let len := s.ldN (a + 36) 4
    let n := if 1024 ≤ len ∧ len ≤ 1049600 then len else 1024
    let s := s.spaceErr a n
    let s := if s.inDram a n then (s.dramRead 28 a n).2 else s
    let b := if 1024 ≤ len ∧ len ≤ 1049600 then s.ld a len else []
    let st := s.loadStatus k b
    let s := s.wr FW_LOAD_CTRL_STATUS st
    if st ≠ stOk then s
    else
      let s := ({ s with fw := { s.fw with images := s.fw.images.set k (some (FwImg.of b)) none } } : State).showImages
      if s.rg (FW_CORE_STATUS_STATE k) = 0 then
        let s : State := { s with fw := { s.fw with kicks := s.fw.kicks.set k s.uptime 0 } }
        s.wr (FW_CORE_STATUS_STATE k) 2
      else s.restartCore k 4

def execFwLoad (w : BitVec 32) (s : State) : Res := .next (s.fwLoad w.toNat)

/-! ## Features and negotiation (R458 to R460) -/

/-- The features in use (`FW.FEAT_USE`). -/
def State.featUse (s : State) : Nat :=
  let q := (List.range 8).any fun q => s.on (HRING_Q_CTRL_EN q) && s.on (HRING_Q_CTRL_TARGET q)
  let use : List Bool := [q || s.loader.sets.any (fun x => x.cls == 2), !s.loader.jobs.isEmpty,
    (List.range 64).any fun e => s.on (WL_ADP_VALID e), s.on VIN_MUX_EN,
    (List.range 64).any fun i => aEn (s.aesDesc i), (List.range 64).any fun w => s.on (WIN_CTRL_EN w) && s.on (WIN_CTRL_ALTEN w),
    (List.range 4).any fun c => s.on (VIN_CTX_DOUT_DEN c) || s.on (VIN_CTX_DOUT_CEN c)]
  (use.zipIdx).foldl (fun a x => if x.1 then a + 2 ^ x.2 else a) 0

/-- Some queue pair or the event ring is open. -/
def State.queueOpen (s : State) : Bool := (List.range 8).any fun q => s.on (HRING_Q_CTRL_EN q)

/-- Whether the five images run and share one LINE and one interface version. -/
def State.imagesAgree (s : State) : Bool :=
  (List.range 5).all fun k => s.coreRuns k && match s.image k with
    | some m => m.release / 65536 == s.rg FW_RELEASE / 65536 && m.ifmaj == s.rg FW_IFVER_IFMAJ && m.ifmin == s.rg FW_IFVER_IFMIN
    | none => false

/-- A negotiation ends with a status, and the agreed features when it is OK. -/
def State.negotiated (s : State) (agreed : Option Nat) : State :=
  match agreed with
  | some f => ({ s with fw := { s.fw with negOk := true } } : State).wrs
      [(FW_FEAT_AGREED, f), (FW_NEG_DONE, 1), (FW_NEG_STATUS, stOk)]
  | none => s.wrs [(FW_NEG_DONE, 0), (FW_NEG_STATUS, stRefusedVersion)]

/-- NEGOTIATION: a write of `FW.NEG` (R458 to R460). -/
def State.negotiate (s : State) (w : Nat) : State :=
  let s := s.wrs [(FW_NEG_IFMAJ, bits w 8 8), (FW_NEG_IFMIN, bits w 0 8)]
  if ¬ bit w 31 then s
  else
    let mode := s.rg FW_STATE_MODE
    let maj := bits w 8 8
    let min := bits w 0 8
    if mode = 1 ∨ (mode = 2 ∧ s.queueOpen) then s.wr FW_NEG_STATUS stRefusedVersion
    else if mode = 3 then
      let f := s.rg FW_FEAT_HOST &&& s.rg FW_FEAT_AGREED
      let use := s.featUse
      let ok := s.fw.lastNeg == (maj, min) && (f &&& use) == use
      ({ s with fw := { s.fw with recOk := ok } } : State).negotiated (if ok then some f else none)
    else
      let s : State := if mode = 0 then { s with fw := { s.fw with lastNeg := (maj, min) } } else s
      s.negotiated (if s.imagesAgree ∧ maj = s.rg FW_IFVER_IFMAJ ∧ min ≤ s.rg FW_IFVER_IFMIN then
        some (s.rg FW_FEAT_HOST &&& s.rg FW_FEAT_MOD) else none)

def execNegotiation (w : BitVec 32) (s : State) : Res := .next (s.negotiate w.toNat)

/-! ## Queue pairs (R462 to R464) -/

/-- First byte and size of every open ring. -/
def State.openRings (s : State) : List (Nat × Nat) :=
  ((List.range 8).flatMap fun q => if s.on (HRING_Q_CTRL_EN q) then
      [(s.rg (HRING_Q_SQB_ADDR q), 64 * 2 ^ s.rg (HRING_Q_CTRL_SQSIZE q)),
        (s.rg (HRING_Q_CQB_ADDR q), 64 * 2 ^ s.rg (HRING_Q_CTRL_CQSIZE q))] else []) ++
    (if s.on HRING_EV_CTRL_EN then [(s.rg HRING_EV_BASE_ADDR, 64 * 2 ^ s.rg HRING_EV_CTRL_SIZE)] else [])

/-- A ring lies in the host-ring area (R461, R462). -/
def ringIn (r : Nat × Nat) : Bool := decide (dramBase ≤ r.1 ∧ r.1 + r.2 ≤ dramBase + 0x4000000 ∧ r.1 % 4096 = 0)

def ringsMeet (a b : Nat × Nat) : Bool := decide (a.1 < b.1 + b.2 ∧ b.1 < a.1 + a.2)

/-- The outcome of opening queue pair `q` with its registers as they stand. -/
def State.queueStatus (s : State) (q : Nat) : Nat :=
  let sq := (s.rg (HRING_Q_SQB_ADDR q), 64 * 2 ^ s.rg (HRING_Q_CTRL_SQSIZE q))
  let cq := (s.rg (HRING_Q_CQB_ADDR q), 64 * 2 ^ s.rg (HRING_Q_CTRL_CQSIZE q))
  let l := s.openRings
  if ¬ ringIn sq ∨ ¬ ringIn cq ∨ ringsMeet sq cq ∨ l.any (fun r => ringsMeet r sq || ringsMeet r cq) ∨
      s.rg (HRING_Q_CTRL_CQSIZE q) < s.rg (HRING_Q_CTRL_SQSIZE q) ∨
      2 ^ s.rg (HRING_Q_CTRL_CQSIZE q) < s.rg (HRING_Q_STAT_RETAINED q) then stBadDescriptor
  else if ¬ s.fw.negOk ∨ (s.on (HRING_Q_CTRL_TARGET q) ∧ ¬ s.feature 0) then stRefusedVersion
  else stOk

/-- QUEUE_OPEN: a write of `HRING.Q[q].CTRL` with EN 1. Held completions of the same TARGET are written again, of another
are discarded. -/
def State.queueOpenWrite (s : State) (q w : Nat) : State :=
  let s := if bit w 29 then s.wr (HRING_Q_CTRL_ERR q) 0 else s
  let s := s.wr (HRING_Q_CTRL_IEN q) (bits w 30 1)
  if s.on (HRING_Q_CTRL_EN q) then s
  else
    let t (f : Fld) (v : Nat) : Nat := f.take (s.rg f) v
    let s := s.wrs [(HRING_Q_CTRL_TARGET q, bits w 28 1), (HRING_Q_CTRL_SQSIZE q, t (HRING_Q_CTRL_SQSIZE q) (bits w 20 4)),
      (HRING_Q_CTRL_CQSIZE q, t (HRING_Q_CTRL_CQSIZE q) (bits w 16 4))]
    let st := s.queueStatus q
    let s := s.wr (HRING_Q_CTRL_STATUS q) st
    if st ≠ stOk then s.wr (HRING_Q_CTRL_ERR q) 1
    else
      let old := s.fw.queues.get q {}
      let target := s.rg (HRING_Q_CTRL_TARGET q)
      let keep : QSt := if old.target = target then old else { target := target }
      let s := s.wrs [(HRING_Q_CTRL_EN q, 1), (HRING_Q_SQDB_HEAD q, 0), (HRING_Q_SQDB_TAIL q, 0), (HRING_Q_CQDB_HEAD q, 0),
        (HRING_Q_CQDB_TAIL q, 0), (HRING_Q_STAT_RETAINED q, 0)]
      let s : State := { s with fw := { s.fw with queues := s.fw.queues.set q keep {} } }
      keep.held.foldl (fun s e => s.cqWrite q e) s

def execQueueOpen (q : Fin 8) (w : BitVec 32) (s : State) : Res := .next (s.queueOpenWrite q.val (w.toNat % 2 ^ 31 + 2 ^ 31))

/-- QUEUE_CLOSE: a write of CTRL with EN 0; entries not yet taken are dropped. -/
def State.queueClose (s : State) (q w : Nat) : State :=
  let s := if bit w 29 then s.wr (HRING_Q_CTRL_ERR q) 0 else s
  let t (f : Fld) (v : Nat) : Nat := f.take (s.rg f) v
  let s := if s.on (HRING_Q_CTRL_EN q) then s else
    s.wrs [(HRING_Q_CTRL_TARGET q, bits w 28 1), (HRING_Q_CTRL_SQSIZE q, t (HRING_Q_CTRL_SQSIZE q) (bits w 20 4)),
      (HRING_Q_CTRL_CQSIZE q, t (HRING_Q_CTRL_CQSIZE q) (bits w 16 4))]
  s.wrs [(HRING_Q_CTRL_EN q, 0), (HRING_Q_CTRL_IEN q, bits w 30 1), (HRING_Q_SQDB_HEAD q, s.rg (HRING_Q_SQDB_TAIL q))]

def execQueueClose (q : Fin 8) (w : BitVec 32) (s : State) : Res := .next (s.queueClose q.val (w.toNat % 2 ^ 31))

/-- SQ_TAIL_WRITE: a doorbell; an advance beyond the free places is discarded with ERR (R463). -/
def State.sqTail (s : State) (q v : Nat) : State :=
  let s := s.doorbell
  let n := 2 ^ s.rg (HRING_Q_CTRL_SQSIZE q)
  let tail := s.rg (HRING_Q_SQDB_TAIL q)
  let used := (tail + n - s.rg (HRING_Q_SQDB_HEAD q)) % n
  if ¬ s.on (HRING_Q_CTRL_EN q) then s
  else if n ≤ v ∨ n - 1 - used < (v + n - tail) % n then s.wr (HRING_Q_CTRL_ERR q) 1
  else s.wr (HRING_Q_SQDB_TAIL q) v

def execSqTailWrite (q : Fin 8) (v : BitVec 16) (s : State) : Res := .next (s.sqTail q.val v.toNat)

/-- SQ_ENTRY_TAKE: the entry at HEAD is taken when a CQ place can be reserved and its effect held: by the running host
core, or in the gatehouse's table of 4 096 (R463). An operation that no table lists is answered at once. -/
def State.sqTake (s : State) (q : Nat) : State :=
  let head := s.rg (HRING_Q_SQDB_HEAD q)
  let sched := s.on (HRING_Q_CTRL_TARGET q)
  if ¬ s.on (HRING_Q_CTRL_EN q) ∨ head = s.rg (HRING_Q_SQDB_TAIL q) ∨ ¬ s.cqFree q ∨
      (if sched then 4096 ≤ s.loader.reqs.length else ¬ s.coreRuns 0) then s
  else
    let e := s.ld (s.rg (HRING_Q_SQB_ADDR q) + 64 * head) 64
    let s := s.wr (HRING_Q_SQDB_HEAD q) ((head + 1) % 2 ^ s.rg (HRING_Q_CTRL_SQSIZE q))
    let x := s.fw.queues.get q {}
    let x : QSt := { x with reserved := x.reserved + 1, target := b2n sched }
    let s : State := { s with fw := { s.fw with queues := s.fw.queues.set q x {} } }
    if sched then
      (if leAt e 4 1 < 5 then { s with loader := { s.loader with reqs := s.loader.reqs ++ [(q, e, s.rg TIDE_NUM)] } }
        else s.answer q e stBadDescriptor)
    else if 1 ≤ leAt e 0 1 ∧ leAt e 0 1 ≤ 6 then { s with fw := { s.fw with taken := s.fw.taken ++ [{ q := q, entry := e }] } }
    else s.complete q (s.cmdCompletion (leAt e 0 1) stBadDescriptor 0 0 (leAt e 16 8) 0xFFFF)

def execSqEntryTake (q : Fin 8) (s : State) : Res := .next (s.sqTake q.val)

/-- CQ_HEAD_WRITE: a doorbell; completions before the new HEAD are held no longer (R463, R464). -/
def State.cqHead (s : State) (q v : Nat) : State :=
  let s := s.doorbell
  let n := 2 ^ s.rg (HRING_Q_CTRL_CQSIZE q)
  let head := s.rg (HRING_Q_CQDB_HEAD q)
  let adv := (v + n - head) % n
  if ¬ s.on (HRING_Q_CTRL_EN q) ∨ n ≤ v ∨ (s.rg (HRING_Q_CQDB_TAIL q) + n - head) % n < adv then s
  else
    let x := s.fw.queues.get q {}
    let x : QSt := { x with held := x.held.drop adv }
    ({ s with fw := { s.fw with queues := s.fw.queues.set q x {} } } : State).wr (HRING_Q_CQDB_HEAD q) v

def execCqHeadWrite (q : Fin 8) (v : BitVec 16) (s : State) : Res := .next (s.cqHead q.val v.toNat)

/-- EVENT_RING_OPEN: a write of `HRING.EV_CTRL` opens or closes the event ring (R462, R467). -/
def State.eventRing (s : State) (w : Nat) : State :=
  let s := if bit w 29 then s.wr HRING_EV_CTRL_ERR 0 else s
  let s := s.wr HRING_EV_CTRL_IEN (bits w 30 1)
  let size (s : State) : State := s.wr HRING_EV_CTRL_SIZE (HRING_EV_CTRL_SIZE.take (s.rg HRING_EV_CTRL_SIZE) (bits w 0 4))
  if ¬ bit w 31 then (if s.on HRING_EV_CTRL_EN then s.wr HRING_EV_CTRL_EN 0 else size s)
  else if s.on HRING_EV_CTRL_EN then s
  else
    let s := size s
    let r := (s.rg HRING_EV_BASE_ADDR, 64 * 2 ^ s.rg HRING_EV_CTRL_SIZE)
    if ¬ ringIn r ∨ s.openRings.any (ringsMeet r) then s.wr HRING_EV_CTRL_ERR 1
    else s.wrs [(HRING_EV_CTRL_EN, 1), (HRING_EV_DB_HEAD, 0), (HRING_EV_DB_TAIL, 0)]

def execEventRingOpen (w : BitVec 32) (s : State) : Res := .next (s.eventRing w.toNat)

/-- EVENT_HEAD_WRITE: a doorbell that frees entries of the event ring (R463, R467). -/
def State.eventHead (s : State) (v : Nat) : State :=
  let s := s.doorbell
  if s.on HRING_EV_CTRL_EN then s.wr HRING_EV_DB_HEAD (v % 2 ^ s.rg HRING_EV_CTRL_SIZE) else s

def execEventHeadWrite (v : BitVec 16) (s : State) : Res := .next (s.eventHead v.toNat)

end Sys2Proof.Machine
end

