-- ==== Sys2Proof/Machine/ObjTable.lean ====
section
/-! DEFINITION. The objects of the dictionary: their descriptors (R430 to R433), their values as they are read, and the
ranges a written value must lie in. -/

namespace Sys2Proof.Machine

/-- An object's descriptor (R432). `acc` 0 RO, 1 RW, 2 WO, 3 RWP, 4 CONST; `flags` [0] STAMP, [1] LOCK2, [2] VOL. -/
structure Obj where
  index : Nat
  typ : Nat
  acc : Nat
  flags : Nat := 0
  maxlen : Nat
  dflt : List Byte := []
deriving DecidableEq, Repr

/-- A scalar object of `n` bytes with a default. -/
def objNum (index typ acc n dflt : Nat) (flags : Nat := 0) : Obj :=
  { index := index, typ := typ, acc := acc, flags := flags, maxlen := n, dflt := natLE n dflt }

/-- An object without a default: RO, WO, or an empty DOMAIN. -/
def objRaw (index typ acc maxlen : Nat) (flags : Nat := 0) : Obj :=
  { index := index, typ := typ, acc := acc, flags := flags, maxlen := maxlen }

/-- A string's bytes. -/
def ascii (t : String) : List Byte := t.toList.map fun c => BitVec.ofNat 8 c.toNat

/-- ORDER_CODE of the variant and grade (R4). -/
def Factory.orderCode (f : Factory) : List Byte :=
  ascii (if f.variant = 1 then "FV3280-48T1" else "FV3280-96T2") ++ ascii (if f.grade = 1 then "-I" else "-C")

/-- A CONST string. -/
def objConst (index : Nat) (b : List Byte) : Obj :=
  { index := index, typ := 0x0C, acc := 4, maxlen := b.length, dflt := b }

/-- Identity and communication objects (R451, R497). -/
def objs1 (f : Factory) : List Obj := [
  objNum 0x1000 3 4 2 0x1DF3, objNum 0x1001 3 4 2 0x3280, objConst 0x1002 f.orderCode, objConst 0x1003 f.serialText,
  objConst 0x1004 (ascii "B0"), objRaw 0x1005 2 0 1, objRaw 0x1006 4 2 4, objNum 0x1008 4 1 4 0, objRaw 0x1009 0x0D 0 16,
  objNum 0x1010 2 3 1 7 2, objNum 0x1011 3 3 2 34997, objNum 0x1012 4 3 4 0, objNum 0x1013 4 3 4 0xFFFFFF00,
  objNum 0x1014 2 3 1 0x5C 2, objRaw 0x1015 0x0D 0 32, objRaw 0x1020 0x0E 2 80, objRaw 0x1021 4 2 4,
  objRaw 0x1022 0x0E 0 585]

/-- Device configuration objects (R451, R535, R270, R325, R350, R497, R518). -/
def objs2 : List Obj := [
  objRaw 0x2001 1 2 1, objRaw 0x2002 2 2 1, objNum 0x2003 2 3 1 0, objNum 0x2004 1 3 1 1, objNum 0x2005 2 3 1 1,
  objNum 0x2100 3 3 2 500, objNum 0x2101 3 3 2 30, objNum 0x2102 2 3 1 80, objNum 0x2103 2 3 1 50, objNum 0x2104 2 3 1 50,
  objNum 0x2105 2 3 1 1, objNum 0x2200 2 3 1 45, objNum 0x2201 3 3 2 3000, objNum 0x2202 3 3 2 7000,
  objRaw 0x2300 0x0E 3 512, objNum 0x2301 2 3 1 4, objNum 0x2302 3 3 2 200, objNum 0x2303 2 3 1 100,
  objNum 0x2304 2 3 1 168, { objRaw 0x2305 0x0E 3 128 with dflt := zeros 128 }, objRaw 0x2306 0x0E 3 32,
  objNum 0x2400 2 3 1 3, objRaw 0x2500 0x0E 3 816, objRaw 0x2501 0x0E 3 4096, objRaw 0x2502 0x0E 3 96,
  objRaw 0x2F00 4 0 4]

/-- Tide, time and ring objects (R60, R429). -/
def objs4 : List Obj := [
  objNum 0x4000 2 3 1 1 1, objNum 0x4001 3 3 2 16 1, objNum 0x4002 2 3 1 0 1, objNum 0x4003 2 3 1 20 1,
  objNum 0x4004 0x0B 3 8 0 1, objNum 0x4005 2 3 1 1, objNum 0x4006 3 3 2 1000, objRaw 0x4010 5 0 8, objRaw 0x4011 0x0B 0 8,
  objRaw 0x4012 4 0 4, objNum 0x4100 2 3 1 0xFF, objNum 0x4101 4 3 4 0x80469580, objNum 0x4102 3 3 2 0,
  objNum 0x4103 1 1 1 0, objNum 0x4104 2 3 1 255] ++
  (List.range 64).map fun i => { objRaw (0x4120 + i) 0x0D 3 32 with dflt := zeros 32 }

/-- The objects of a stream: the stream object and its parameters (R442). -/
def Strm.objs (x : Strm) : List Obj :=
  let base := 0x6000 + 0x80 * x.num
  objRaw base 0x0D 0 32 :: x.params.map fun p =>
    { index := base + p.j, typ := p.typ, acc := if p.rwp then 3 else 1, flags := 1, maxlen := typeSize p.typ
      dflt := p.dflt.take (typeSize p.typ) }

/-- Vision and audio objects (R388, R403). -/
def objs9 : List Obj :=
  (List.range 4).map (fun p => objNum (0x9000 + p) 4 3 4 0x00100064) ++
  (List.range 4).map (fun p => objNum (0x9004 + p) 4 3 4 0x04380780) ++
  (List.range 4).map (fun p => objNum (0x9008 + p) 2 3 1 200) ++ [objNum 0x900C 4 3 4 0x40, objNum 0x9100 4 3 4 0x68050000] ++
  (List.range 16).map fun p => objNum (0x9101 + p) 4 3 4 0x20000000

/-- Counters, histograms and the log (R513, R514, R516). -/
def objsA : List Obj :=
  (List.range 21).map (fun i => objRaw (0xA000 + i) 0x0D 0 8) ++
  (List.range 3).map (fun h => objRaw (0xA100 + h) 0x0E 0 68) ++ [objRaw 0xA103 0x0E 0 52, objRaw 0xB000 0x0D 0 16,
    objNum 0xB001 4 1 4 0 4, objRaw 0xB002 0x0E 0 1024]

/-- Streams in rising order of their numbers. -/
def State.strmObjs (s : State) : List Obj :=
  (List.range 64).flatMap fun n => match s.loader.streams.find? fun x => x.num == n with
    | some x =>
      let b := x.objs
      b.take 1 ++ (List.range 128).flatMap fun j => (b.drop 1).filter fun o => o.index == 0x6000 + 0x80 * n + j
    | none => []

/-- Every object, in rising order of index. -/
def State.objs (s : State) : List Obj := objs1 s.fac ++ objs2 ++ objs4 ++ s.strmObjs ++ objs9 ++ objsA

/-- The object at an index (R430). -/
def State.obj? (s : State) (index : Nat) : Option Obj :=
  if 0x6000 ≤ index ∧ index < 0x8000 then
    match s.loader.streams.find? fun x => x.num == (index - 0x6000) / 0x80 with
    | some x => x.objs.find? fun o => o.index == index
    | none => none
  else (objs1 s.fac ++ objs2 ++ objs4 ++ objs9 ++ objsA).find? fun o => o.index == index

/-- The bytes at sub-index 0xFF (R432). -/
def Obj.descriptor (o : Obj) : List Byte :=
  natLE 1 o.typ ++ natLE 1 o.acc ++ natLE 1 o.flags ++ natLE 1 0 ++ natLE 2 o.maxlen ++ zeros 2 ++ fitTo o.maxlen o.dflt

/-- The stream object (R442): name, state, status of the last committed tide, tide of the last parameter change. -/
def State.strmObject (s : State) (n : Nat) : List Byte :=
  match s.loader.streams.find? fun x => x.num == n with
  | none => zeros 32
  | some x =>
    let sets := s.loader.sets.filter fun y => y.stream == x.name && y.state == 2
    let st := if sets.any fun y => y.cls == 0 then 1 else if sets.any fun y => y.cls == 1 then 2 else 0
    fitTo 16 x.name ++ natLE 1 st ++ natLE 1 x.status ++ zeros 6 ++ natLE 6 x.changed ++ zeros 2

/-- The key list (R494): KEYID, MINLEVEL, check value of every entry. -/
def State.keyList (s : State) : List Byte :=
  (List.range 65).flatMap fun i => match s.ef.keys.find? fun k => k.id == i with
    | some k => natLE 4 i ++ natLE 1 k.minLevel ++ (keyCheck k.key).take 4
    | none => []

/-- RELEASE of a lighthouse image slot; of an empty one 0. -/
def Slot.release (x : Slot) : Nat := if x.factory then Config.factoryRelease else leAt x.image 8 4

/-- A lifetime counter object (R513). -/
def State.lifeCount (s : State) (i : Nat) : List Byte := natLE 4 (s.life.counts.get i 0) ++ natLE 1 (b2n (bit s.life.sat i)) ++ zeros 3

/-- A histogram object (R514). -/
def State.histogram (s : State) (h : Nat) : List Byte :=
  let n := if h = 3 then 12 else 16
  natLE 2 n ++ natLE 1 (b2n (bit s.life.sat (21 + h))) ++ zeros 1 ++
    (List.range n).flatMap fun b => natLE 4 (s.life.bins.get (histBase h + b) 0)

/-- The register field behind a scalar setting object, and what its value is checked against. -/
def objFld (index : Nat) : Option Fld :=
  match index with
  | 0x2003 => some PWR_CTRL_OP_NEXT
  | 0x2005 => some PWR_CTRL_RETAIN
  | 0x2100 => some GH_HOST_LIVE_MS
  | 0x2101 => some GH_PARK_PARK_S
  | 0x2102 => some GH_CTRL_THIN_PCT
  | 0x2103 => some GH_CTRL_SHED_PCT
  | 0x2104 => some GH_CTRL_DRAM_SHARE
  | 0x2105 => some GH_CTRL_REPEATS
  | 0x2200 => some TIER_CTRL_WSHARE
  | 0x2201 => some TIER_AGE_AGE_TIDES
  | 0x2202 => some TIER_NRATE_RATE
  | 0x2301 => some DRAM_CTRL_CE_PPR
  | 0x2302 => some NAND_CTRL_WL_DELTA
  | 0x2303 => some NAND_THRESH_RD_LIMIT
  | 0x2304 => some NAND_THRESH_PATROL_H
  | 0x4000 => some TIDE_CTRL_SRC
  | 0x4001 => some TIDE_PERIOD_PERIOD
  | 0x4002 => some TIDE_CTRL_RATE
  | 0x4003 => some TIDE_CTRL_SLACK
  | 0x4004 => some TIME_ORIGIN
  | 0x4005 => some TIME_CTRL_TSRC
  | 0x4006 => some TIME_CTRL_STEP_LIMIT
  | 0x4100 => some RING_INDEX_INDEX
  | 0x4102 => some RING_VLAN_VID
  | 0x4103 => some RING_CAUSEWAY_FORCE
  | _ => none

/-- Parameter `j` of stream `n`. -/
def State.param? (s : State) (index : Nat) : Option Param :=
  match s.loader.streams.find? fun x => x.num == (index - 0x6000) / 0x80 with
  | some x => x.params.find? fun p => p.j == (index - 0x6000) % 0x80
  | none => none

/-- The value an object reads as. -/
def State.objRead (s : State) (o : Obj) : List Byte :=
  let i := o.index
  if o.acc = 4 then o.dflt
  else if i = 0x1005 then natLE 1 s.level
  else if i = 0x1008 then natLE 2 s.fac.rollLh ++ natLE 2 s.fac.rollCd
  else if i = 0x1009 then
    natLE 4 s.ef.opt.slot ++ natLE 4 s.ef.opt.state ++ natLE 4 s.ef.slotA.release ++ natLE 4 s.ef.slotB.release
  else if i = 0x1015 then s.dict.stats.flatMap (natLE 4) ++ zeros 16
  else if i = 0x1022 then s.keyList
  else if i = 0x2F00 then natLE 4 s.dict.budget
  else if i = 0x4010 then natLE 8 (s.rg TIDE_NUM)
  else if i = 0x4011 then natLE 8 (s.rg TIME_NOW)
  else if i = 0x4012 then natLE 4 (s.rg TIME_SYNC_BOUND)
  else if 0x4000 ≤ i ∧ i ≤ 0x4006 then
    match objFld i with
    | some f => natLE o.maxlen (s.rg f)
    | none => []
  else if 0x6000 ≤ i ∧ i < 0x8000 then
    match s.param? i with
    | some p => fitTo o.maxlen p.value
    | none => s.strmObject ((i - 0x6000) / 0x80)
  else if 0xA000 ≤ i ∧ i < 0xA100 then s.lifeCount (i - 0xA000)
  else if 0xA100 ≤ i ∧ i < 0xB000 then s.histogram (i - 0xA100)
  else if i = 0xB000 then s.logInfo
  else if i = 0xB002 then s.logRead (leNat (s.objVal 0xB001 0 (zeros 4)))
  else s.objVal i 0 o.dflt

/-- Length of a value of the object's type (R431). -/
def Obj.lenOk (o : Obj) (n : Nat) : Bool :=
  if o.typ = 0x0E then decide (n ≤ o.maxlen) else if o.typ = 0x0C then decide (1 ≤ n ∧ n ≤ o.maxlen) else n == o.maxlen

/-- Length of an entry of a list object. -/
def objEntry (index : Nat) : Nat :=
  if index = 0x2300 ∨ index = 0x2305 ∨ index = 0x2502 then 8
  else if index = 0x2306 ∨ index = 0x2500 ∨ index = 0x2501 then 4 else 1

/-- A value in the object's range (R431). -/
def Obj.valueOk (o : Obj) (v : List Byte) : Bool :=
  let n := leNat v
  o.lenOk v.length && v.length % objEntry o.index == 0 && (o.typ != 1 || decide (n ≤ 1)) &&
    (match objFld o.index with
     | some f => decide (n < 2 ^ f.w) && f.legal.ok n
     | none => true) &&
    (match o.index with
     | 0x1010 => decide (n ≤ 7)
     | 0x1014 => decide (n ≤ 127)
     | 0x2001 => n == 1
     | 0x2002 => decide (n ≤ 5)
     | 0x2400 => decide (n ≤ 3)
     | _ => true)

end Sys2Proof.Machine
end

