-- ==== Sys2Proof/Machine/Msg.lean ====
section
/-! DEFINITION. Messages of the Therad Object Protocol: their fields, how they reach the queue of the lighthouse core
through the four interfaces, and how replies leave (R436 to R441, R449). -/

namespace Sys2Proof.Machine

/-! ## Fields (R436) -/

def mOp (m : List Byte) : Nat := leAt m 1 1
def mSeq (m : List Byte) : Nat := leAt m 2 2
def mIndex (m : List Byte) : Nat := leAt m 4 2
def mSub (m : List Byte) : Nat := leAt m 6 1
def mAsap (m : List Byte) : Bool := bit (leAt m 7 1) 0
def mTide (m : List Byte) : Nat := leAt m 8 6
def mLen (m : List Byte) : Nat := leAt m 14 2
def mOffset (m : List Byte) : Nat := leAt m 16 4
def mTotal (m : List Byte) : Nat := leAt m 20 4
def mData (m : List Byte) : List Byte := m.drop 40

/-- Most data bytes of a message on an interface. -/
def lenLimit (iface : Nat) : Nat := if iface = 3 then 215 else 1024

/-- Length of the message whose header stands in `m`. -/
def msgLen (m : List Byte) : Nat := if mOp m = 1 ∨ mOp m = 5 then 40 else 40 + mLen m

/-- VER and the lengths of a message as it arrived. -/
def msgOk (iface : Nat) (m : List Byte) : Bool :=
  decide (40 ≤ m.length ∧ leAt m 0 1 = 1 ∧ mLen m ≤ lenLimit iface ∧ m.length = msgLen m)

/-- The reply to message `m`. -/
def State.replyMsg (s : State) (m : List Byte) (status tide total : Nat) (data : List Byte) : List Byte :=
  natLE 1 1 ++ natLE 1 (mOp m + 0x80) ++ slice m 2 5 ++ natLE 1 status ++ natLE 6 tide ++ natLE 2 data.length ++
    slice m 16 4 ++ natLE 4 total ++ s.stamp.bytes ++ data

/-! ## Replies -/

/-- ALERT_N driven low, or released (R441). -/
def State.setAlert (s : State) (on : Bool) : State :=
  if s.pins.alert = on then s else ({ s with pins := { s.pins with alert := on } } : State).emit (.alert on)

/-- ALERT_N as the reply and the event that wait give it. -/
def State.showAlert (s : State) : State := s.setAlert (s.dict.alertEvent || s.dict.alertReply)

/-- Words of a byte string written to `MBX.RSP`. -/
def State.mbxPut (s : State) (r : List Byte) : State :=
  (List.range (ceilDiv r.length 4)).foldl (fun s i => s.wr (MBX_RSP i) (leAt r (4 * i) 4)) s

/-- A frame of the module's own, padded to the minimum size (R441). -/
def padFrame (f : List Byte) : List Byte := f ++ zeros (60 - f.length)

/-- A reply leaves through the interface of its request. -/
def State.putReply (s : State) (q : ObjReq) (r : List Byte) : State :=
  if q.iface = 0 then
    s.sendFrame q.port (padFrame (q.requester ++ natBE 6 s.mac ++ s.vlanTag (s.rg RING_CTRL_PCP_TOP) ++ natBE 2 0x88B5 ++ r))
  else if q.iface = 1 then s.emit (.topReply 1 q.requester r)
  else if q.iface = 2 then
    let s := (s.mbxPut r).wrs [(MBX_STATUS_BUSY, 0), (MBX_STATUS_DONE, 1)]
    if s.on MBX_CTRL_IEN then s.raise 9 else s
  else ({ s with dict := { s.dict with smbReply := some r, alertReply := true } } : State).showAlert

/-- The reply sent and kept among the last 16 of its interface (R440). -/
def State.sendReply (s : State) (q : ObjReq) (r : List Byte) : State :=
  let mine := s.dict.cache.filter fun c => c.1 == q.iface
  let rest := s.dict.cache.filter fun c => c.1 != q.iface
  let new : CachedReply := { requester := q.requester, seq := mSeq q.msg, time := s.uptime, reply := r }
  let s : State := { s with dict := { s.dict with cache := (((q.iface, new) :: mine).take 16) ++ rest } }
  s.putReply q r

/-! ## Arrival -/

/-- The lighthouse core serves object requests of an interface: it runs, and in P3 and P4 only the management port reaches
it (R485, R521). -/
def State.serves (s : State) (iface : Nat) : Bool :=
  s.pins.control && s.ef.running.isSome && (decide (s.rg PWR_STATUS_STATE < 3) || iface == 3)

/-- A message discarded under R436. -/
def State.badMessage (s : State) (iface : Nat) : State :=
  let s : State := { s with dict := { s.dict with stats := s.dict.stats.modify 0 fun n => (n + 1) % 2 ^ 32 } }
  if iface = 2 then s.wrs [(MBX_STATUS_BUSY, 0), (MBX_STATUS_ERR, 1)] else s

/-- A message arrives: discarded when malformed; answered from the stored replies when it repeats a request; answered with
BAD_DESCRIPTOR when its OP is none of the table; queued otherwise, up to 32 (R436, R437, R439, R440). DESIGN CHOICE: a
mailbox request that the requests of the other interfaces leave no place for ends as one that R441 discards. -/
def State.objReceive (s : State) (q : ObjReq) : State :=
  if ¬ s.serves q.iface then s
  else if ¬ msgOk q.iface q.msg then s.badMessage q.iface
  else
    match s.dict.cache.find? fun c => c.1 == q.iface && c.2.requester == q.requester && c.2.seq == mSeq q.msg &&
        decide (s.uptime ≤ c.2.time + 1000000000) with
    | some c => s.putReply q c.2.reply
    | none =>
      if 32 ≤ s.dict.queue.length then
        (if q.iface = 3 then { s with reply := .nack }
         else if q.iface = 2 then s.wrs [(MBX_STATUS_BUSY, 0), (MBX_STATUS_ERR, 1)]
         else { s with dict := { s.dict with stats := s.dict.stats.modify 1 fun n => (n + 1) % 2 ^ 32 } })
      else if mOp q.msg = 0 ∨ 5 < mOp q.msg then s.sendReply q (s.replyMsg q.msg stBadDescriptor 0 0 [])
      else { s with dict := { s.dict with queue := s.dict.queue ++ [q] } }

/-- The message in a frame's payload: padding to the minimum frame size is no part of it (R441). -/
def unpad (b : List Byte) : List Byte := if b.length ≤ 46 ∧ msgLen b ≤ b.length then b.take (msgLen b) else b

/-- TOP_ETHERNET_RECEIVE: the oldest delivered frame of EtherType 0x88B5 to the module's address. -/
def execTopEthernetReceive (s : State) : Res :=
  .next (match s.takeFrame fun f => fType f == 0x88B5 && fDst f == s.mac with
    | some (r, s) =>
      s.objReceive { iface := 0, requester := slice r.bytes 6 6, port := r.port, msg := unpad (fBody r.bytes).2.2 }
    | none => s)

/-- Ones' complement sum of 16-bit words, big-endian. -/
def onesSum (b : List Byte) : Nat :=
  let t := (chunks 2 (ceilDiv b.length 2) b).foldl (fun a w => a + beNat (fitTo 2 w)) 0
  let t := t % 65536 + t / 65536
  t % 65536 + t / 65536

/-- The IPv4 datagram in a frame, cut to its length: header length, bytes. -/
def ipOf (f : List Byte) : Option (Nat × List Byte) :=
  let q := fBody f
  let b := q.2.2
  let ihl := leAt b 0 1 % 16 * 4
  let len := beNat (slice b 2 2)
  if q.2.1 = 0x0800 ∧ leAt b 0 1 / 16 = 4 ∧ 20 ≤ ihl ∧ ihl ≤ len ∧ len ≤ b.length ∧ onesSum (b.take ihl) = 0xFFFF then
    some (ihl, b.take len)
  else none

/-- IPV4_ADDR and TOP_UDP_PORT. -/
def State.ipAddr (s : State) : Nat := leNat (s.objVal 0x1012 0 (zeros 4))
def State.topPort (s : State) : Nat := leNat (s.objVal 0x1011 0 (natLE 2 34997))

/-- A frame that carries a UDP datagram, not a fragment, to the module's address and object port: the source address and
port, the payload. -/
def State.udpOf (s : State) (f : List Byte) : Option (List Byte × List Byte) :=
  match ipOf f with
  | none => none
  | some (ihl, b) =>
    let u := b.drop ihl
    let n := beNat (slice u 4 2)
    if leAt b 9 1 = 17 ∧ beNat (slice b 6 2) % 16384 = 0 ∧ s.ipAddr ≠ 0 ∧ beNat (slice b 16 4) = s.ipAddr ∧
        8 ≤ n ∧ n ≤ u.length ∧ beNat (slice u 2 2) = s.topPort ∧
        (slice u 6 2 = zeros 2 ∨
          onesSum (slice b 12 8 ++ natBE 2 17 ++ natBE 2 n ++ u.take n) = 0xFFFF) then
      some (slice b 12 4 ++ slice u 0 2, slice u 8 (n - 8))
    else none

/-- TOP_UDP_RECEIVE: the oldest delivered datagram to the object port. -/
def execTopUdpReceive (s : State) : Res :=
  .next (match s.takeFrame fun f => (s.udpOf f).isSome with
    | some (r, s) => match s.udpOf r.bytes with
      | some (who, m) => s.objReceive { iface := 1, requester := who, port := r.port, msg := m }
      | none => s
    | none => s)

/-- An ARP request for the module's address. -/
def State.isArp (s : State) (f : List Byte) : Bool :=
  let b := (fBody f).2.2
  fType f == 0x0806 && beNat (slice b 0 8) == 0x0001080006040001 && s.ipAddr != 0 && beNat (slice b 24 4) == s.ipAddr

/-- ARP_REQUEST: the oldest delivered ARP request for the module's address is answered (R441). -/
def execArpRequest (s : State) : Res :=
  .next (match s.takeFrame s.isArp with
    | some (r, s) =>
      let b := (fBody r.bytes).2.2
      if ¬ s.serves 1 then s
      else s.sendFrame r.port (padFrame (slice b 8 6 ++ natBE 6 s.mac ++ natBE 2 0x0806 ++ natBE 8 0x0001080006040002 ++
        natBE 6 s.mac ++ natBE 4 s.ipAddr ++ slice b 8 10))
    | none => s)

/-- A write of `MBX.CTRL` (R441, R449). -/
def State.mbxGo (s : State) (w : Nat) : State :=
  let s := s.wr MBX_CTRL_IEN (bits w 30 1)
  if ¬ bit w 31 then s
  else if s.on MBX_STATUS_BUSY then s.wr MBX_STATUS_ERR 1
  else if ¬ s.serves 2 then s.wr MBX_STATUS_ERR 1
  else
    let all := (List.range 266).flatMap fun i => natLE 4 (s.rg (MBX_REQ i))
    (s.wr MBX_STATUS_BUSY 1).objReceive { iface := 2, msg := all.take (msgLen all) }

/-- MBX_GO: a write of `MBX.CTRL` with GO 1. -/
def execMbxGo (w : BitVec 32) (s : State) : Res := .next (s.mbxGo (w.toNat % 2 ^ 31 + 2 ^ 31))

/-- SMBUS_BLOCK_WRITE: command code 0x10; `pec`: the error check compares (R441). -/
def execSmbusBlockWrite (b : List Byte) (pec : Bool) (s : State) : Res :=
  .next (if ¬ s.serves 3 then s
    else if ¬ pec then { s with dict := { s.dict with stats := s.dict.stats.modify 2 fun n => (n + 1) % 2 ^ 32 } }
    else s.objReceive { iface := 3, msg := b })

/-- SMBUS_BLOCK_READ: command code 0x11 returns the reply that is ready, or a count of 0. -/
def execSmbusBlockRead (s : State) : Res :=
  .next (if ¬ s.serves 3 then s
    else
      let r := s.dict.smbReply.getD []
      ({ s with dict := { s.dict with smbReply := none, alertReply := false }, reply := .bytes r } : State).showAlert)

/-- SMBUS_ALERT_RESPONSE: the module answers with its address while it asserts ALERT_N, and releases it. -/
def execSmbusAlertResponse (s : State) : Res :=
  .next (if s.pins.alert ∧ s.pins.control then
      ({ s with dict := { s.dict with alertEvent := false, alertReply := false }
                reply := .bytes [BitVec.ofNat 8 (2 * s.dict.smbAddr)] } : State).showAlert
    else s)

end Sys2Proof.Machine
end

