-- ==== Sys2Proof/Machine/Eflash.lean ====
section
/-! DEFINITION. The embedded flash: option records, the boot ROM, image updates and recovery, sectors that are retired
(chapter 20), and the restart of the lighthouse core (R474). -/

namespace Sys2Proof.Machine

/-- The registers that follow the flash (R496). -/
def State.showEf (s : State) : State :=
  s.wrs [(EF_STATUS_CODE_BUSY, b2n s.ef.op.isSome), (EF_STATUS_DATA_BUSY, b2n (!s.dict.commits.isEmpty)),
    (EF_STATUS_SLOT, s.ef.opt.slot), (EF_STATUS_TRIAL, b2n (s.ef.opt.state == 1)), (EF_STATUS_CODE_SPARE, s.ef.spareCode),
    (EF_STATUS_DATA_SPARE, s.ef.spareData), (MBX_STATUS_PROT, s.level)]

/-- A slot, 0 A or 1 B. -/
def Eflash.slot (e : Eflash) (k : Nat) : Slot := if k = 0 then e.slotA else e.slotB
def Eflash.setSlot (e : Eflash) (k : Nat) (x : Slot) : Eflash := if k = 0 then { e with slotA := x } else { e with slotB := x }

/-- The image in a slot, as its LENGTH field gives it. -/
def Slot.bytes (x : Slot) : List Byte := x.image.take (leAt x.image 36 4)

/-- Outcome of the check of a slot (R486). -/
def State.slotStatus (s : State) (k : Nat) : Nat :=
  let x := s.ef.slot k
  if x.factory then (if s.fac.rollLh = 0 ∨ s.fac.rollLh ≤ Config.factoryRollback then stOk else stRefusedProtection)
  else if ¬ imageOk 5 x.bytes then stBadDescriptor
  else if ¬ s.fac.signed x.bytes s.fac.rollLh then stRefusedProtection
  else stOk

/-- ROLLBACK of the image in a slot. -/
def Slot.rollback (x : Slot) : Nat := if x.factory then Config.factoryRollback else leAt x.bytes (x.bytes.length - 504) 4

/-- An option record written with the next sequence number (R484). -/
def State.optWrite (s : State) (r : OptRec) : State :=
  ({ s.codeWritten with ef := { s.codeWritten.ef with opt := { r with seq := s.ef.opt.seq + 1 } } } : State).showEf

/-! ## The boot ROM (R485) -/

/-- The boot ROM: the slot in force, the other one when its check fails or its trial has ended without a confirmation.
DEDUCED: a trial that has ended is started again, as REVERTED, when the other slot does not pass its check. -/
def State.bootRom (s : State) : State :=
  let k := s.ef.opt.slot
  let other := 1 - k
  let lost := s.ef.opt.state == 1 && s.ef.tried
  let start (j : Nat) : State := ({ s with ef := { s.ef with running := some j, tried := false } } : State).optWrite
    { s.ef.opt with slot := j, state := 2 }
  if ¬ lost ∧ s.slotStatus k = stOk then
    { s with ef := { s.ef with running := some k, tried := s.ef.opt.state == 1 } }
  else if s.slotStatus other = stOk then start other
  else if lost ∧ s.slotStatus k = stOk then start k
  else ({ s with ef := { s.ef with running := none, recBlocks := [], recNext := 0, recImage := [], recStatus := 0 } } :
    State).alertEvent

/-- What the lighthouse core had in hand is discarded when it restarts; a mailbox request completes with TIMEOUT (R474). -/
def State.dropRequests (s : State) : State :=
  let open' := s.dict.queue ++ (s.dict.commits.map fun c => c.req) ++ s.dict.waits.map fun w => w.req
  let s : State := { s with
    dict := { s.dict with queue := [], commits := [], waits := [], segs := [], reads := [], cache := [] } }
  match open'.find? fun q => q.iface == 2 with
  | some q => s.putReply q (s.replyMsg q.msg stTimeout 0 0 [])
  | none => s

/-- The lighthouse core restarts alone; the step of an image update it had in hand is abandoned (R474, R490). -/
def State.restartLighthouse (s : State) : State :=
  let s : State := { s with ef := { s.ef with op := none, deferred := none, upd := false } }
  ((s.dropRequests.bootRom).wr EF_UPD_CTRL_BUSY 0).showEf

/-- An operation is in progress on either array. -/
def State.efBusy (s : State) : Bool := s.ef.op.isSome || !s.dict.commits.isEmpty

/-- A restart of the lighthouse core, deferred past an operation in progress (R490). -/
def State.lighthouseAsked (s : State) : State :=
  if s.efBusy then { s with ef := { s.ef with deferred := some (s.ef.deferred.getD 2) } } else s.restartLighthouse

/-- LIGHTHOUSE_WATCHDOG_EXPIRY. -/
def execLighthouseWatchdogExpiry (s : State) : Res :=
  .next (if s.pins.control ∧ s.ef.running.isSome then s.lighthouseAsked else s)

/-- LIGHTHOUSE_CONFIRM: a running image that is not confirmed writes CONFIRMED; the rollback counter rises to its ROLLBACK
(R485, R487). -/
def execLighthouseConfirm (s : State) : Res :=
  .next (if ¬ s.pins.control ∨ s.ef.running ≠ some s.ef.opt.slot ∨ s.ef.opt.state = 0 then s
    else
      let s : State := { s with
        ef := { s.ef with tried := false }
        fac := { s.fac with rollLh := max s.fac.rollLh (s.ef.slot s.ef.opt.slot).rollback } }
      s.optWrite { s.ef.opt with state := 0 })

/-- First sector of an image slot (R476). -/
def slotSector (k : Nat) : Nat := if k = 0 then 16 else 512

/-! ## The update (R488) -/

/-- The slot not in force. -/
def State.idleSlot (s : State) : Nat := 1 - s.ef.opt.slot

/-- A step of the update ends. -/
def State.updDone (s : State) (status : Nat) : State :=
  (({ s with ef := { s.ef with op := none } } : State).wrs [(EF_UPD_CTRL_BUSY, 0), (EF_UPD_CTRL_STATUS, status)]).showEf

/-- A step begins on the array. -/
def State.updBusy (s : State) (op : EfOp) : State :=
  (({ s.codeWritten with ef := { s.codeWritten.ef with op := some op } } : State).wr EF_UPD_CTRL_BUSY 1).showEf

/-- UPD_START: EF.UPD_CTRL.START. -/
def State.updStart (s : State) : State :=
  if s.ef.running.isNone ∨ s.ef.op.isSome then s
  else if s.ef.upd ∨ s.rg EF_UPD_LEN = 0 ∨ 496 * 4096 < s.rg EF_UPD_LEN then s.updDone stBadDescriptor
  else
    let k := s.idleSlot
    let s : State := { s with ef := { s.ef.setSlot k {} with upd := true, updNext := 0 } }
    s.updBusy (.erase (slotSector k))

def execUpdStart (s : State) : Res := .next s.updStart

/-- UPD_CHUNK: EF.UPD_CTRL.GO with chunk `i`: the staged 4 KiB, in order. -/
def State.updChunk (s : State) (i : Nat) : State :=
  if s.ef.running.isNone ∨ s.ef.op.isSome then s
  else if ¬ s.ef.upd ∨ i ≠ s.ef.updNext ∨ s.rg EF_UPD_LEN ≤ 4096 * i then s.updDone stBadDescriptor
  else s.updBusy (.chunk i (s.ef.stage.bytes 0 4096))

def execUpdChunk (i : BitVec 9) (s : State) : Res :=
  .next ((s.wr EF_UPD_CTRL_CHUNK (EF_UPD_CTRL_CHUNK.take (s.rg EF_UPD_CTRL_CHUNK) i.toNat)).updChunk i.toNat)

/-- UPD_COMMIT: the slot is checked, then its record is programmed. It may be repeated after a loss of power (R490). -/
def State.updCommit (s : State) : State :=
  if s.ef.running.isNone ∨ s.ef.op.isSome then s
  else
    let k := s.idleSlot
    let st := s.slotStatus k
    if st ≠ stOk then s.updDone st else s.updBusy (.record { s.ef.opt with slot := k, state := 1 })

def execUpdCommit (s : State) : Res := .next s.updCommit

/-- UPD_ABORT: the record in force stays; an operation in progress still ends. -/
def State.updAbort (s : State) : State :=
  if s.ef.running.isNone then s
  else
    let s : State := { s with ef := { s.ef with upd := false } }
    if s.ef.op.isSome then s else s.updDone stOk

def execUpdAbort (s : State) : Res := .next s.updAbort

/-- UPD_ACTIVATE: a restart of the lighthouse core is requested. -/
def execUpdActivate (s : State) : Res := .next (if s.ef.running.isSome then s.lighthouseAsked else s)

/-! ## The end of an operation (R479, R481, R490) -/

/-- The next sector of a slot's erase, or the end of the step. -/
def State.eraseNext (s : State) (sector : Nat) : State :=
  if sector = 511 ∨ sector = 1007 ∨ ¬ s.ef.upd then s.updDone stOk
  else { s with ef := { s.ef with op := some (.erase (sector + 1)) } }

/-- The operation on the code array ends. -/
def State.codeDone (s : State) (ok : Bool) : State :=
  match s.ef.op with
  | none => s
  | some (.erase n) =>
    let s := s.countErase n
    if ok ∧ s.ef.erases.get n 0 < 100000 then s.eraseNext n
    else
      let r := s.retireSector true n
      if r.1 then r.2.eraseNext n
      else ({ r.2 with ef := { r.2.ef with upd := false } } : State).updDone stStoreWorn
  | some (.chunk i b) =>
    let k := s.idleSlot
    let r := if ok then (true, s) else s.retireSector true (slotSector k + i)
    let s := r.2
    let x := s.ef.slot k
    if r.1 then
      ({ s with ef := { s.ef.setSlot k { x with factory := false, image := x.image.take (4096 * i) ++ b } with
                        updNext := i + 1 } } : State).updDone stOk
    else ({ s with ef := { s.ef with upd := false } } : State).updDone stStoreWorn
  | some (.record r) =>
    let n := (s.ef.opt.seq + 1) % 2
    let q := if ok then (true, s) else s.retireSector true n
    let s := q.2
    if q.1 then (({ s with ef := { s.ef with upd := false, tried := false } } : State).optWrite r).updDone stOk
    else s.updDone stStoreWorn

/-! ## Reads of the arrays (R477, R478) -/

/-- A line that the array itself reads: a single-bit error is corrected and counted, errors past that are read again with
shifted references where EF.CFG says so. Whether the line is delivered. DEDUCED: a line that no shifted read decodes counts
in EF.RETRY too, "Lines read with shifted references". -/
def State.efLine (s : State) (code : Bool) (l : EfLine) : Bool × State :=
  let retry := s.on (if code then EF_CFG_RETRY_CODE else EF_CFG_RETRY_DATA)
  match l with
  | .clean => (true, s)
  | .single => (true, s.bump EF_CORR)
  | .low | .high => if retry then (true, s.bump EF_RETRY) else (false, s)
  | .never => (false, if retry then s.bump EF_RETRY else s)

/-- The copy of a record that a read could not deliver is invalid, and stays so until it is written again. -/
def State.recordBad (s : State) (index sub : Nat) (second : Bool) : State :=
  let hit (r : PRec) : PRec := if r.index = index ∧ r.sub = sub then
    (if second then { r with sec1 := 128 } else { r with sec0 := 128 }) else r
  { s with dict := { s.dict with precs := (s.dict.precs.map hit).filter PRec.valid } }

/-- The same for a copy of the key store; with neither copy left it holds no key. -/
def State.keysBad (s : State) (second : Bool) : State :=
  let c := if second then (s.ef.keyCopies.1, false) else (false, s.ef.keyCopies.2)
  { s with ef := { s.ef with keyCopies := c, keys := if c.1 || c.2 then s.ef.keys else [] } }

/-- The lighthouse core executes line `l`: the prefetch buffer keeps those of the 4 lines after it that it holds, and the line
of a taken branch comes first in the branch cache. -/
def State.lineExecuted (s : State) (l : Nat) (taken : Bool) : State :=
  { s with ef := { s.ef with
    prefetch := s.ef.prefetch.filter fun x => decide (l < x ∧ x ≤ l + 4)
    branch := if taken ∧ s.on EF_CFG_BC_EN then ((l :: s.ef.branch.filter fun x => x != l).take 64) else s.ef.branch } }

/-- A fetch that hits the prefetch buffer or the branch cache asks nothing of the array. -/
def State.fetchHits (s : State) (l : Nat) : Bool :=
  (s.on EF_CFG_PF_EN && s.ef.prefetch.contains l) || (s.on EF_CFG_BC_EN && s.ef.branch.contains l)

/-- A read of a line: whether it ends in an instruction access fault of the lighthouse core (R478). -/
def State.efRead (s : State) (r : EfRead) : Bool × State :=
  match r.use with
  | .fetch l taken =>
    let x := if s.fetchHits l.toNat then (true, s) else s.efLine true r.line
    if x.1 then (false, x.2.lineExecuted l.toNat taken) else (true, x.2)
  | .refill l =>
    if ¬ s.on EF_CFG_PF_EN ∨ s.ef.prefetch.contains l.toNat then (false, s)
    else
      let x := s.efLine true r.line
      let pf := (x.2.ef.prefetch ++ [l.toNat]).drop (x.2.ef.prefetch.length - 3)
      (false, if x.1 then { x.2 with ef := { x.2.ef with prefetch := pf } } else x.2)
  | .record index sub second =>
    let x := s.efLine false r.line
    (false, if x.1 then x.2 else x.2.recordBad index.toNat sub.toNat second)
  | .keyStore second =>
    let x := s.efLine true r.line
    (false, if x.1 then x.2 else x.2.keysBad second)
  | .other code => (false, (s.efLine code r.line).2)

/-- Reads in order, to the first that ends in an access fault. -/
def State.efReads (s : State) : List EfRead → Bool × State
  | [] => (false, s)
  | r :: rest =>
    let x := s.efRead r
    if x.1 then x else x.2.efReads rest

/-! ## Recovery (R489) -/

/-- The chunk of recovery block `k` programmed once all 32 blocks are there. -/
def State.recoveryBlock (s : State) (b : List Byte) : State :=
  let chunk := leAt b 0 2
  let k := leAt b 2 1
  let bad (s : State) : State := { s with ef := { s.ef with recStatus := stBadDescriptor } }
  if ¬ s.pins.control ∨ s.ef.running.isSome then s
  else if b.length ≠ 131 ∨ 31 < k ∨ chunk ≠ s.ef.recNext ∨ 495 < chunk then bad s
  else
    let blocks := (k, b.drop 3) :: s.ef.recBlocks.filter fun x => x.1 != k
    let s : State := { s with ef := { s.ef with recBlocks := blocks, recStatus := stOk } }
    if blocks.length < 32 then s
    else
      let data := (List.range 32).flatMap fun i => ((blocks.find? fun x => x.1 == i).map fun x => x.2).getD []
      let slot := s.idleSlot
      let img := (if s.ef.recNext = 0 then [] else s.ef.recImage) ++ data
      let s := s.codeWritten.countErase (slotSector slot + chunk)
      { s with ef := { s.ef.setSlot slot { factory := false, image := img } with
                       recBlocks := [], recNext := chunk + 1, recImage := img } }

/-- RECOVERY_BLOCK: Block Write 0x20 (CHUNK, K, 128 bytes). -/
def execRecoveryBlock (b : List Byte) (s : State) : Res := .next (s.recoveryBlock b)

/-- RECOVERY_COMMIT: Block Write 0x21. The record is written; the image runs at the next restart. -/
def execRecoveryCommit (s : State) : Res :=
  .next (if ¬ s.pins.control ∨ s.ef.running.isSome then s
    else
      let k := s.idleSlot
      let st := s.slotStatus k
      let s : State := { s with ef := { s.ef with recStatus := st } }
      if st = stOk then
        ({ s with ef := { s.ef with tried := false } } : State).optWrite { s.ef.opt with slot := k, state := 1 }
      else s)

/-- RECOVERY_STATUS: Block Read 0x22. -/
def execRecoveryStatus (s : State) : Res :=
  .next (if ¬ s.pins.control ∨ s.ef.running.isSome then s
    else { s with reply := .bytes (natLE 1 s.ef.recStatus) })

end Sys2Proof.Machine
end

