-- ==== Sys2Proof/Machine/Startup.lean ====
section
/-! DEFINITION. Resets, what survives them, and the start-up sequence (chapter 22, R13 to R15, R336, R338, R505, R531). -/

namespace Sys2Proof.Machine

/-! ## What survives (R14, R15, R533) -/

/-- Registers kept when the compute die resets: Factory, Retained, and those that show what the control die or tier 2
keeps. -/
def keptCompute (key : Nat) : Bool :=
  let off := key / 32
  let r := (off - 0x1000000) % 0x200000
  decide (off < 0x10) || decide (0xE00000 ≤ off ∧ off < 0xF00000) ||
    decide (0xF08000 ≤ off ∧ off < 0xF0C000 ∧ off ≠ 0xF08008 ∧ off ≠ 0xF0800C) || off == 0xB0001C || off == RING_MAC.off ||
    off == 0x700050 || off == 0x800008 || decide (0xC0004C ≤ off ∧ off ≤ 0xC0009C ∧ (off - 0xC0004C) % 16 = 0) ||
    decide (0x1000000 ≤ off ∧ r < 0x110000 ∧ r % 0x10000 = 0x804)

/-- Registers kept at a module or power-on reset: Factory, the failed dies that tier 2 lists, the retired sectors that the
fuses list. -/
def keptModule (key : Nat) : Bool :=
  let off := key / 32
  let r := (off - 0x1000000) % 0x200000
  decide (off < 0x10) || off == RING_MAC.off || off == 0x800008 || off == 0xF08030 ||
    decide (0x1000000 ≤ off ∧ r < 0x110000 ∧ r % 0x10000 = 0x804)

/-- An address of board DRAM in a self-refresh segment that `seg` keeps (R326, R520). -/
def State.segKept (s : State) (seg a : Nat) : Bool :=
  decide (dramBase ≤ a ∧ a < dramBase + s.dramSize) && bit seg ((a - dramBase) / (s.dramSize / 8))

/-- Stored models whose home copies are whole; their pages start in tier 2 only (R314, R341). `cut`: the places in stripe rows
that are not complete. DESIGN CHOICE: a page's wordlines are those of its stripe row. -/
def Pool.afterReset (x : Pool) (cut : Nat → Bool) : Pool :=
  let whole (m : Model) (l : Layer) : Bool := x.pages.all fun p =>
    !(p.client == m.client && p.layer == m.lkey l.layer && p.ver == l.ver) || p.t2.any fun k => !cut k
  let models := (x.models.map fun (m : Model) => { m with layers := m.layers.filter (whole m) }).filter fun m => !m.layers.isEmpty
  let mine (p : PageRec) : Bool := models.any fun m => m.client == p.client && m.layers.any fun l =>
    m.lkey l.layer == p.layer && l.ver == p.ver
  { models := models, nextHandle := x.nextHandle
    pages := (x.pages.filter fun p => p.t2.isSome && mine p).map fun (p : PageRec) =>
      { p with t1 := none, age := 0, acc := false, prom := false, wb := false, bad := false, badNext := none } }

/-- A stream over a loss of the compute die: its parameter values and their image are Retained, its block is gone (R14, R444,
R450). -/
def Strm.retained (y : Strm) : Option Strm :=
  if y.params.isEmpty then none
  else
    let ps := if y.image.isEmpty then y.params else y.params.map fun p => { p with value := slice y.image p.offset (typeSize p.typ) }
    some { num := y.num, name := y.name, params := ps, image := y.image, changed := y.changed }

/-- The compute die loses its state: Held and Volatile settings, every memory but the DRAM segments of `seg`, every stream
and set (R13 to R15, R520, R541). -/
def State.computeLost (s : State) (seg : Nat) : State :=
  { s with
    regs := s.regs.filter fun e => keptCompute e.1
    mem := s.mem.filter fun e => s.segKept seg e.1
    ecc := s.ecc.filter fun e => s.segKept seg (8 * e.1)
    stns := [], ters := [], bus := {}, tide := {}
    integ := { recs := s.integ.recs }
    dict := { s.dict with
      vals := s.dict.vals.erase (objKey 0xB001 0), stamped := [], later := [], waits := []
      queue := s.dict.queue.filter fun q => q.iface != 2
      segs := s.dict.segs.filter fun q => q.iface != 2, reads := s.dict.reads.filter fun q => q.iface != 2
      cache := s.dict.cache.filter fun c => c.1 != 2 }
    ef := { s.ef with engines := [] }
    fw := {}, dram := { results := s.dram.results, fresh := s.dram.fresh }
    pool := s.pool.afterReset s.nand.inOpenRow, dma := {}, vin := {}, aud := {}, ring := {}, atts := [], ps := {}
    loader := { streams := s.loader.streams.filterMap Strm.retained }
    reply := .none
    pins := { s.pins with ppsOut := false, pcie := false } }

/-- The records that a start-up finds: of each object the one with the highest SEQ that has a valid copy (R482). -/
def State.chooseRecs (s : State) : State :=
  let all := s.dict.precs ++ s.dict.old
  let first (r : PRec) : Bool := !all.any fun q => q.index == r.index && q.sub == r.sub && decide (r.seq < q.seq)
  { s with dict := { s.dict with precs := all.filter first, old := all.filter fun r => !first r } }

/-- A persistent object takes its committed value, every other its default (R433, R482). -/
def State.restoreVals (s : State) : State :=
  { s with dict := { s.dict with vals := s.dict.precs.foldl (fun m r =>
      if 0x6000 ≤ r.index ∧ r.index < 0x8000 then m else m.insert (objKey r.index r.sub) r.value) [] } }

/-- The control die loses its Retained state as well (R14): what the lighthouse core held, settings, counts. -/
def State.controlLost (s : State) : State :=
  let s := s.computeLost 0
  let s : State := { s with
    regs := s.regs.filter fun e => keptModule e.1
    dict := { precs := s.dict.precs, old := s.dict.old, pparams := s.dict.pparams, pseq := s.dict.pseq, budget := s.dict.budget
              wornLogged := s.dict.wornLogged, lowPosted := s.dict.lowPosted }
    loader := {}
    ef := { s.ef with op := none, deferred := none, upd := false, stage := [], recBlocks := [], prefetch := [], branch := [] }
    dram := {} }
  s.restoreVals

/-! ## The compute die's start-up, to HOST_LOAD -/

/-- The start-up stops (R531): `ph` the phase at which it stopped. -/
def State.startFailed (s : State) (ph : Nat) : State :=
  (s.wrs [(GC_STATUS_PHASE, 4), (GC_STATUS_FAIL, ph)]).alertEvent

/-- The entries of object 0x2300: channel, rank, bank and row. -/
def State.pprList (s : State) : List (List Byte) :=
  let v := s.objVal 0x2300 0 []
  chunks 8 (v.length / 8) v

def pprAddr (e : List Byte) : DAddr := ⟨leAt e 0 1, leAt e 1 1, leAt e 2 1, leAt e 3 4, 0⟩

/-- Post-package repair (R338): one repair per bank; `bad` the places in the list of the rows that cannot be repaired. -/
def State.pprRun (s : State) (bad : List Nat) : State :=
  let l := s.pprList
  let r := (l.zipIdx).foldl (fun (a : List (List Byte) × List (Nat × Nat × Nat) × State) e =>
    let d := pprAddr e.1
    let b := (d.ch, d.rank, d.bank)
    if a.2.1.contains b then (a.1 ++ [e.1], a.2.1, a.2.2)
    else if bad.contains e.2 then (a.1 ++ [e.1], a.2.1, a.2.2.elogAt 0x21 0xFF d)
    else (a.1, b :: a.2.1, a.2.2.elogAt 0x20 0xFF d)) ([], [], s)
  if r.1.length = l.length then r.2.2 else r.2.2.persist 0x2300 0 r.1.flatten

/-- The compute die is powered and leaves reset; `fast`: fast training if the Retained results are there; `train` below 24:
a channel that fails training (R17, R336, R338). -/
def State.startCompute (s : State) (fast : Bool) (train : Nat) (bad : List Nat) : State :=
  let s : State := { s with pins := { s.pins with compute := true, pwrGood := true, pcie := true } }
  let fast := fast && s.dram.results
  let s := s.wrs [(PWR_STATUS_STATE, 0), (PWR_STATUS_BUSY, 0), (PWR_STATUS_OP, s.rg PWR_CTRL_OP_NEXT),
    (GH_CTRL_HOT, s.rg PWR_TEMP_HOT), (ID_VARIANT_DRAM_GIB, if s.fac.variant = 1 then 48 else 96), (ID_VARIANT_GRADE, s.fac.grade),
    (ID_VARIANT_VARIANT, s.fac.variant), (ID_SERIAL, s.fac.serial), (RING_MAC, s.fac.mac), (DRAM_STATUS_FAST, b2n fast),
    (GC_STATUS_PHASE, 0)]
  let s := s.rederive.showEf
  if train < 24 then
    let s := (s.wrs [(DRAM_STATUS_FAIL, 1), (DRAM_STATUS_CH, train)]).elogAt 0x30 0xFF ⟨train, 0, 0, 0, 0⟩
    (s.logEntry 0x0006 0xFE (train * 256) (0x30 * 2 ^ 24)).startFailed 0
  else
    let s := if s.dram.fresh then s.pprRun bad else s
    let s : State := { s with dram := { s.dram with results := true, fresh := false } }
    s.wrs [(DRAM_STATUS_TRAINED, 1), (GC_STATUS_PHASE, 1)]

/-! ## The control die's start-up -/

/-- THERM_N driven low or released (R526). -/
def State.setTherm (s : State) (on : Bool) : State :=
  if s.on PWR_TEMP_THERM = on then s
  else (({ s with pins := { s.pins with therm := on } } : State).wr PWR_TEMP_THERM (b2n on)).flag PWR_EVENT_THERM
    PWR_EVENT_EN_THERM 12

/-- A stream whose persistent parameters are erased: they take their defaults (R14, R442). -/
def Strm.erased (y : Strm) : Strm :=
  let ps := y.params.map fun p => if p.rwp then { p with value := p.dflt } else p
  { y with params := ps, image := ps.foldl (fun b p => patch b p.offset (p.value.take (typeSize p.typ))) y.image }

/-- What a protection lowering erases: the data array and the key store (R492). -/
def State.eraseProtected (s : State) : State :=
  let s : State := { s with
    ef := { s.ef with keys := [], engines := [], dsec := [], dopen := (0, 1), dataGone := s.ef.dataGone }
    dict := { s.dict with precs := [], old := [], pparams := [], commits := [], vals := s.dict.vals.filter fun e => e.1 == objKey 0x4103 0 }
    loader := { s.loader with streams := s.loader.streams.map Strm.erased } }
  ((List.range 128).map (· + 4096) ++ [2, 3, 4, 5]).foldl State.countErase s.codeWritten

/-- The settings of the control die that objects give (R496, R535), and the SMBus address of a module reset (R451). -/
def State.loadControl (s : State) : State :=
  let n (i d : Nat) : Nat := leNat (s.objVal i 0 (natLE 1 d))
  let s : State := { s with dict := { s.dict with smbAddr := n 0x1014 0x5C } }
  s.wrs [(PWR_CTRL_OP_NEXT, n 0x2003 0), (PWR_CTRL_RETAIN, n 0x2005 1), (EF_CFG_RETRY_DATA, n 0x2400 3 / 2),
    (EF_CFG_RETRY_CODE, n 0x2400 3)]

/-- The control die leaves reset: boot ROM, lighthouse core, records and counters, then the compute die when 12 V is
present. A lowering that had begun is finished first (R492). -/
def State.startControl (s : State) (restore : Bool) (train : Nat) (bad : List Nat) (reads : List EfRead := []) : State :=
  let s : State := { s with pins := { s.pins with control := true, compute := false, pwrGood := false } }
  let s := (s.setAlert false).setTherm false
  let s : State := if s.ef.lowering then
      { s.eraseProtected with ef := { s.eraseProtected.ef with
          lowering := false, opt := { s.ef.opt with level := 0, seq := s.ef.opt.seq + 1 } } }
    else s
  let s := s.bootRom
  let r := s.efReads reads
  let s := if r.1 ∧ r.2.ef.running.isSome then r.2.restartLighthouse else r.2
  let s := s.chooseRecs.restoreVals
  if s.ef.running.isNone then
    ((s.logEntry 0x0008 0xFF 0xFFFF 0).startFailed 0)
  else
    let s := if restore then ({ s with life := {} } : State).restoreLife else s
    let s := s.loadControl.showEf
    if s.pins.v12 then s.startCompute false train bad else s

/-- Entries of the log that the token bucket lets out go to the array before the always-on domain loses the rest. -/
def State.flushLog (s : State) : State :=
  let s := s.drainLog 257
  { s with log := { s.log with buf := [] } }

/-- POWER_ON_RESET (R540): 3V3_SB rises through 3.0 V. -/
def State.powerOn (s : State) (train : Nat) (bad : List Nat) (reads : List EfRead) : State :=
  let s := s.flushLog.controlLost
  let s : State := { s with uptime := 0, pins := { s.pins with sb := true, mrst := false } }
  let s := s.emit (.relay true)
  let s := (s.wrs [(RING_CAUSEWAY_BYPASS, 1), (RING_CAUSEWAY_CAUSE, 3)]).startControl true train bad reads
  if s.ef.running.isNone then s else (s.count 1).logEntry 0x0009 5 0xFFFF 0

def execPowerOnReset (train : Fin 25) (b : BootFinds) (s : State) : Res := .next (s.powerOn train.val b.bad b.reads)

/-- MODULE_RESET: MRST_N is asserted; both dies are held in reset (R13, R425). It has no effect in P5 (R523). -/
def State.moduleReset (s : State) : State :=
  if ¬ s.pins.sb ∨ s.rg PWR_STATUS_STATE = 5 then s
  else
    let cap := s.rg RING_CAUSEWAY_CAP_OK
    let s := (s.toBypass 2).flushLog.controlLost
    let s : State := { s with pins := { s.pins with mrst := true, control := false, compute := false, pwrGood := false } }
    (s.setAlert false).wrs [(RING_CAUSEWAY_BYPASS, 1), (RING_CAUSEWAY_CAUSE, 2), (RING_CAUSEWAY_CAP_OK, cap)]

def execModuleReset (s : State) : Res := .next s.moduleReset

/-- MRST_N_RELEASE: the start-up of a module reset. -/
def State.moduleStart (s : State) (train : Nat) (bad : List Nat) (reads : List EfRead) : State :=
  if ¬ s.pins.mrst ∨ ¬ s.pins.sb then s
  else
    let s := ({ s with pins := { s.pins with mrst := false } } : State).startControl true train bad reads
    if s.ef.running.isNone then s else (s.count 2).logEntry 0x0009 5 0xFFFF 1

def execMrstNRelease (train : Fin 25) (b : BootFinds) (s : State) : Res := .next (s.moduleStart train.val b.bad b.reads)

/-- A warm (row 2) or compute-die (row 3) reset (R529). It needs the compute die powered, in P0 to P2. -/
def State.resetCompute (s : State) (row train : Nat) : State :=
  let s := if row = 2 then s.writeCheckpoint else s
  let s := ((s.toBypass 4).count 3).logEntry 0x0009 5 0xFFFF row
  (s.computeLost 0).startCompute true train []

/-- Whether a warm or compute-die reset can start now. -/
def State.mayReset (s : State) : Bool :=
  s.pins.control && s.pins.compute && decide (s.rg PWR_STATUS_STATE ≤ 2)

/-- A warm or compute-die reset asked for, deferred past an embedded-flash operation (R528). -/
def State.askReset (s : State) (row train : Nat) : State :=
  if ¬ s.mayReset then s
  else if s.efBusy then
    { s with ef := { s.ef with deferred := some (match s.ef.deferred with
      | some 1 => 1
      | _ => if row = 2 then 1 else 3) } }
  else s.resetCompute row train

/-- WARM_RESET: through object 0x2001 (`obj`), or by the word written to `GC.RESET` (R529). -/
def execWarmReset (obj : Bool) (w : BitVec 32) (train : Fin 25) (s : State) : Res :=
  .next (if obj then
      (if s.dict.warmAsked then ({ s with dict := { s.dict with warmAsked := false } } : State).askReset 2 train.val else s)
    else if bit w.toNat 31 ∧ w.toNat % 256 = 0xA5 then s.askReset 2 train.val else s)

/-- COMPUTE_DIE_RESET: the lighthouse core's own (R529). -/
def execComputeDieReset (train : Fin 25) (s : State) : Res := .next (s.askReset 3 train.val)

/-- EF_OPERATION_DONE: the operation on an array ends, verified when `ok`; the reads that waited proceed, in order; then what
was deferred past it happens, and the watchdog restarts a core whose fetch took an access fault (R478, R479, R481, R490,
R528). -/
def State.efDone (s : State) (code ok : Bool) (train : Nat) (reads : List EfRead) : State :=
  if (if code then s.ef.op.isNone else s.dict.commits.isEmpty && s.ef.deferred.isNone) ∨ ¬ s.pins.control then s
  else
    let s := if code then s.codeDone ok else if ok then s else (s.retireSector false s.ef.dopen.1).2
    let x := s.efReads reads
    let d := match x.2.ef.deferred with
      | none => if x.1 then some 2 else none
      | some k => some k
    let s : State := { x.2 with ef := { x.2.ef with deferred := none } }
    match d with
    | some 1 => if s.mayReset then s.resetCompute 2 train else s
    | some 2 => s.restartLighthouse
    | some 3 => if s.mayReset then s.resetCompute 3 train else s
    | _ => s

def execEfOperationDone (code ok : Bool) (e : EfAfter) (s : State) : Res := .next (s.efDone code ok e.train.val e.reads)

/-- Registers of the function state (R15): those of the host rings but RETAINED, negotiation, load and mailbox registers. -/
def functionState (key : Nat) : Bool :=
  let off := key / 32
  off == FW_NEG_DONE.off || off == FW_FEAT_HOST.off || off == FW_LOAD_ADDR.off || off == FW_LOAD_CTRL_STATUS.off ||
    decide (0xC00100 ≤ off ∧ off < 0xC00108) || decide (0xC00180 ≤ off ∧ off < 0xC00198) ||
    decide (0xC00200 ≤ off ∧ off < 0xC00300 ∧ (off - 0xC00200) % 32 ≠ 0x1C) || decide (0xF00000 ≤ off ∧ off < 0xF08000)

/-- FUNCTION_LEVEL_RESET (R15, R458, R464, R467, R530). -/
def State.functionReset (s : State) : State :=
  if ¬ s.pins.compute then s
  else
    let s : State := { s with
      regs := s.regs.filter fun e => !functionState e.1
      fw := { s.fw with msix := [], pba := 0, bars := [], negOk := false, recOk := false, evLost := false }
      bus := { latch := s.bus.latch.filter fun e => decide (e.1 % 8 ≠ 0), held := s.bus.held.filter fun e => decide (e.1 % 8 ≠ 0) }
      dict := { s.dict with queue := s.dict.queue.filter fun q => q.iface != 2 } }
    let s := (List.range 8).foldl (fun (s : State) q =>
      let x := s.fw.queues.get q {}
      s.wr (HRING_Q_STAT_RETAINED q) (x.held.length + x.reserved)) s
    let s := if s.rg FW_STATE_MODE = 1 then s.wr FW_STATE_MODE 3 else s
    s.showEf.logEntry 0x0009 5 0xFFFF 4

def execFunctionLevelReset (s : State) : Res := .next s.functionReset

end Sys2Proof.Machine
end

