-- ==== Sys2Proof/Machine/Service.lean ====
section
/-! DEFINITION. Object values put into force, and the rest of the start-up sequence once host software has written SERVICE
(chapters 12, 13, 19, 21, 22). -/

namespace Sys2Proof.Machine

/-! ## Objects put into force -/

/-- The effect of an object's value on its registers, at the moment its rule makes it take effect (R60, R270, R325, R350,
R388, R403, R429, R496, R535). -/
def State.applyObj (s : State) (i : Nat) (v : List Byte) : State :=
  let n := leNat v
  if i = 0x2400 then s.wrs [(EF_CFG_RETRY_DATA, n / 2), (EF_CFG_RETRY_CODE, n)]
  else if 0x4000 ≤ i ∧ i ≤ 0x4004 then
    match objFld i with
    | some f => s.setTide f n
    | none => s
  else if i = 0x4101 then s.takeFields n (fieldsAt RING_CTRL_EN.off)
  else if i = 0x4103 then s.ringForce n
  else if 0x4120 ≤ i ∧ i < 0x4160 then
    ({ s with ring := { s.ring with descs := s.ring.descs.set (i - 0x4120) (fitTo 32 v) [] } } : State).onAes (i - 0x4120) fun _ => {}
  else if 0x9000 ≤ i ∧ i < 0x9004 then s.vinPortWrite (i - 0x9000) false n
  else if 0x9004 ≤ i ∧ i < 0x9008 then s.vinPortWrite (i - 0x9004) true n
  else if 0x9008 ≤ i ∧ i < 0x900C then s.takeFields n (fieldsAt (VIN_PORT_RATE_MPIX (i - 0x9008)).off)
  else if i = 0x900C then s.vinMux n
  else if i = 0x9100 then s.audClkWrite n
  else if 0x9101 ≤ i ∧ i < 0x9109 then s.takeFields n (fieldsAt (AUD_IN_CTRL_EN (i - 0x9101)).off)
  else if 0x9109 ≤ i ∧ i < 0x9111 then s.takeFields n (fieldsAt (AUD_OUT_CTRL_EN (i - 0x9109)).off)
  else match objFld i with
    | some f => (s.wr f (f.take (s.rg f) n)).rederive
    | none => s

/-- Objects whose registers are Held, in an order in which every value passes the checks of its registers (R533). -/
def heldObjs : List Nat :=
  [0x2100, 0x2101, 0x2102, 0x2103, 0x2104, 0x2105, 0x2200, 0x2201, 0x2202, 0x2301, 0x2302, 0x2303, 0x2304,
    0x4000, 0x4001, 0x4002, 0x4003, 0x4004, 0x4005, 0x4006, 0x4100, 0x4102] ++ (List.range 64).map (· + 0x4120) ++
  (List.range 4).map (· + 0x9004) ++ (List.range 4).map (· + 0x9008) ++ (List.range 4).map (· + 0x9000) ++ [0x900C, 0x9100] ++
  (List.range 16).map (· + 0x9101)

/-- An object's value in force, its default where it was never written. -/
def State.objNow (s : State) (i : Nat) : List Byte :=
  match s.obj? i with
  | some o => s.objVal i 0 o.dflt
  | none => s.objVal i 0 []

/-- The read-retry table from object 0x2305 (R344): eight bytes to an entry, as its two registers. -/
def State.loadRrt (s : State) : State :=
  let v := s.objNow 0x2305
  (List.range 16).foldl (fun s e => s.wrs [(NAND_RRT_LO_OFS0_3 e, leAt v (8 * e) 4), (NAND_RRT_HI_EN e, leAt v (8 * e + 4) 4 / 2 ^ 31),
    (NAND_RRT_HI_OFS4_6 e, leAt v (8 * e + 4) 4)]) s

/-- Every Held register loaded from its object. -/
def State.loadHeld (s : State) : State := (heldObjs.foldl (fun s i => s.applyObj i (s.objNow i)) s).loadRrt

/-! ## Protected regions and the pool (R306, R308, R328, R461) -/

/-- Regions in units of 64 MiB, joined where one ends at the base of the next. -/
def joinRegions (l : List (Nat × Nat)) : List (Nat × Nat) :=
  let ins (a : List (Nat × Nat)) (r : Nat × Nat) : List (Nat × Nat) :=
    a.filter (fun x => decide (x.1 < r.1)) ++ r :: a.filter fun x => decide (r.1 ≤ x.1)
  (l.foldl ins []).foldl (fun a r => match a.getLast? with
    | some b => if b.1 + b.2 = r.1 then a.dropLast ++ [(b.1, b.2 + r.2)] else a ++ [r]
    | none => [r]) []

/-- `DRAM.PROT` written with a list of regions. -/
def State.setProt (s : State) (l : List (Nat × Nat)) : State :=
  (List.range 8).foldl (fun s i => match l[i]? with
    | some r => s.wrs [(DRAM_PROT_BASE_EN i, 1), (DRAM_PROT_BASE_UNIT i, r.1), (DRAM_PROT_SIZE_UNITS i, r.2)]
    | none => s.wrs [(DRAM_PROT_BASE_EN i, 0), (DRAM_PROT_BASE_UNIT i, 0), (DRAM_PROT_SIZE_UNITS i, 0)]) s

/-- Units of 64 MiB at the base of DRAM that hold the module's own areas (R328, R461). Their place is the model's choice. -/
def ownUnits : Nat := 16

/-- The regions that host software asks for. -/
def State.protAsked (s : State) : List (Nat × Nat) :=
  let v := s.objVal 0x2306 0 []
  (chunks 4 (v.length / 4) v).map fun e => (leAt e 0 2, leAt e 2 2)

/-- The regions with the first `n` requests, when they are legal. -/
def State.protTry (s : State) (n : Nat) : Option (List (Nat × Nat)) :=
  let asked := s.protAsked.take n
  let l := joinRegions ((0, ownUnits) :: asked)
  if asked.all (fun r => decide (1 ≤ r.2 ∧ r.1 < 2048 ∧ r.2 < 2048)) ∧ l.length ≤ 8 ∧ (s.setProt l).protOk then some l else none

/-- Requested regions are dropped from the last backwards until the set is legal; each dropped one is logged. -/
def State.formProt (s : State) : Nat → State
  | 0 => s.setProt [(0, ownUnits)]
  | n + 1 => match s.protTry (n + 1) with
    | some l => s.setProt l
    | none => (s.logEntry 0x0016 2 0x2306 n stBadDescriptor).formProt n

/-- Pages of the module's own areas in client 0: the host rings, the map of tier 2, the image store (R341, R457, R461). -/
def State.ownPages (s : State) : Nat := 1024 + (if s.fac.variant = 1 then 840 else 1680) + 85

/-- The tier core forms the pool and registers clients 0 to 2. -/
def State.formPool (s : State) : State :=
  let s := s.formProt s.protAsked.length
  let s := s.wrs [(DRAM_CTRL_EN, 1), (TIER_POOL_DRAM, s.dramTop / 65536),
    (TIER_POOL_NAND, if s.fac.variant = 1 then 13762560 else 27525120)]
  let s : State := { s with pool := { s.pool with areas := [(0, dramBase / 65536, s.ownPages)] } }
  let s := [0, 1, 2].foldl (fun (s : State) c => s.register c c) s
  (s.wr TIER_CTRL_EN 1).books

/-- No stripe is usable: each has at least two failed dies (R348). -/
def State.nandDead (s : State) : Bool :=
  (List.range s.stripes).all fun i => decide (2 ≤ ((List.range 16).filter fun d => bit (s.rg NAND_DIE_FAIL_MASK) (16 * i + d)).length)

/-- The NAND controller starts: READY, or READ_ONLY when it is worn (R348). -/
def State.startNand (s : State) : State :=
  let used := s.nand.spares.foldl (fun a e => max a e.2) 0
  let s := s.wrs [(NAND_CTRL_EN, 1), (NAND_STATUS_STATE, 1), (NAND_STATUS_SPARE_MIN, 64 - used)]
  let s := s.showWear
  if 64 ≤ used then s.enterReadOnly else s

/-- The catalogue (R314): models with a key that is not usable and adapters go, the rest are registered. -/
def State.loadCatalogue (s : State) : State :=
  let gone (m : Model) : Bool := m.adp.isSome || (m.keyid != 0 && (s.key? m.keyid).isNone)
  let s := s.pool.models.foldl (fun (s : State) m => if gone m then s.dropModel m else s) s
  (s.pool.models.foldl (fun (s : State) m => s.register m.client 3) s).books

/-- The pool pages of every row of object 0x2300 are retired (R338). -/
def State.retireListed (s : State) : State :=
  s.pprList.foldl (fun (s : State) e => (((s.rowUnits (pprAddr e)).map fun a => (dramBase + a) / 65536).eraseDups).foldl
    State.retirePage s) s

/-! ## Repairs and station records (R505 to R508) -/

/-- Recorded spare rows and columns. -/
def State.applyRepairs (s : State) : State :=
  let v := s.objVal 0x2500 0 []
  (chunks 4 (v.length / 4) v).foldl (fun (s : State) e =>
    let t := leAt e 0 1
    let p := leAt e 1 1
    if t < 12 ∧ p < 17 then s.arrayRepair t p (2 ^ 31 + 256 * (leAt e 3 1 % 64) + leAt e 2 1 % 64) else s) s

/-- Recorded SRAM mappings; SPARE 0xF names an unrepaired terrace-store row. -/
def State.applyMaps (s : State) : State :=
  let v := s.objVal 0x2501 0 []
  (chunks 4 (v.length / 4) v).foldl (fun (s : State) e =>
    let t := leAt e 0 1
    let p := leAt e 1 1 % 32
    let m := leAt e 1 1 / 32 % 4
    let bank := leAt e 2 1 % 16
    let spare := leAt e 2 1 / 16
    let index := leAt e 3 1
    if spare = 15 then
      { s with integ := { s.integ with noSpare := s.integ.noSpare ++ [(t, index * 16 + bank)] } }
    else if spare < 4 ∧ ¬ s.srepBad t p m bank index spare then s.mapRow t p m bank index spare else s) s

/-- Recorded positions: fenced bits are set, retired positions requested; a retirement whose faults were all located, and
whose position has since been repaired, is undone. -/
def State.applyStations (s : State) : State :=
  let v := s.objVal 0x2502 0 []
  if v.isEmpty then { s with integ := { s.integ with recs := [] } }
  else
    let undo (t pos : Nat) : Bool := s.repairOf t pos != (32, 32) && (s.stnRec t pos).allLocated
    let r := (List.range 12).foldl (fun (a : Bool × State) t =>
      let pos := leAt v (8 * t) 1
      let st := a.2.wr (INT_STN_FENCED t) (leAt v (8 * t + 4) 4)
      if 16 ≤ pos then (a.1, st) else if undo t pos then (true, st) else (a.1, st.takeReq t pos)) (false, s)
    let kept (e : Nat × StnRec) : Bool := leAt v (8 * (e.1 / 17)) 1 == e.1 % 17
    let s := r.2
    let recs := (s.integ.recs.filter kept).foldl (fun (m : KMap StnRec) e => m.set e.1 { allLocated := e.2.allLocated } {}) []
    let s : State := { s with integ := { s.integ with recs := recs } }
    (if r.1 then s.recordStations else s).rederive

/-! ## SERVICE -/

/-- The start-up from SERVICE to READY, and the network core's part. -/
def State.serviceStart (s : State) : State :=
  let s := (s.wr GC_STATUS_PHASE 2).formPool
  if s.nandDead then ((s.wr NAND_STATUS_STATE 3).logEntry 0x0007 2 0xFFFF (3 * 2 ^ 24)).startFailed 2
  else
    let s := s.startNand.loadCatalogue.retireListed
    let s := s.applyRepairs.applyMaps.applyStations.loadHeld
    let s : State := { s with pins := { s.pins with thermal := 0 } }
    let s := s.wr GC_STATUS_PHASE 3
    let s := if sext 16 (s.rg PWR_TEMP_TJ) < 1600 then s.setTherm false else s
    let s := (s.applyObj 0x4101 (s.objNow 0x4101)).leaveBypass
    if leNat (s.objNow 0x2004) = 1 then s.runSet else s

/-- A MODE write that Table: Firmware modes does not allow is discarded (R458). -/
def State.modeErr (s : State) : State := s.wr FW_STATE_ERR 1

/-- A write of `FW.STATE`. -/
def State.modeWrite (s : State) (w : Nat) : State :=
  let s := if bit w 29 then s.wr FW_STATE_ERR 0 else s
  let new := bits w 30 2
  let old := s.rg FW_STATE_MODE
  if new = old then s
  else if old = 0 ∧ (new = 1 ∨ new = 2) then
    if ¬ s.on FW_NEG_DONE then s.modeErr
    else
      let s := s.wr FW_STATE_MODE new
      if new = 1 ∧ s.rg GC_STATUS_PHASE = 1 then s.serviceStart else s
  else if old = 1 ∧ new = 3 then
    if s.on GH_HOST_LOST then ({ s with fw := { s.fw with recOk := false } } : State).wr FW_STATE_MODE 3 else s.modeErr
  else if old = 3 ∧ new = 1 then
    if s.fw.recOk ∧ s.on FW_NEG_DONE then s.wr FW_STATE_MODE 1 else s.modeErr
  else s.modeErr

/-- MODE_WRITE. -/
def execModeWrite (w : BitVec 32) (s : State) : Res := .next (s.modeWrite w.toNat)

end Sys2Proof.Machine
end

