-- ==== Sys2Proof/Machine/Power.lean ====
section
/-! DEFINITION. The power ladder and its wakes, the junction temperature, the supplies and the test port (chapters 22
and 23). -/

namespace Sys2Proof.Machine

/-! ## Entry (R520 to R522) -/

/-- What forbids P1 and deeper. Tides that still run until the next boundary count as running. -/
def State.busyP1 (s : State) : Bool :=
  s.on TIDE_CTRL_RUN || s.tide.running || (List.range 16).any (fun c => (s.dmaCh c).active) || !s.loader.inplace.isEmpty ||
    s.loader.jobs.any fun j => j.kept.isNone

/-- What forbids P3 and deeper in addition. -/
def State.busyP3 (s : State) : Bool :=
  !s.loader.sets.isEmpty || !s.loader.seqs.isEmpty || !s.pool.queue.isEmpty || s.pool.pages.any (fun p => p.prom || p.wb) ||
    s.on PWR_STATUS_BUSY

/-- The compute die is switched off; board DRAM keeps the segments of `seg`. -/
def State.computeOff (s : State) (seg : Nat) : State :=
  let s := s.computeLost seg
  { s with pins := { s.pins with compute := false, pwrGood := false } }

/-- Entry to P3, P4 or P5, from P0 to P2 or from the state in force when it is deeper already. -/
def State.enterDeep (s : State) (tgt : Nat) : State :=
  let first := decide (s.rg PWR_STATUS_STATE < 3)
  let seg := if tgt = 3 then s.rg PWR_CTRL_RETAIN else 0
  let s := if first then s.wr DRAM_RETAIN_SEG seg else s
  let s := if first then s.toBypass (if tgt = 3 then 8 else 5) else s
  let s := s.computeOff seg
  let s := if tgt = 3 then s else s.writeCheckpoint
  if tgt ≤ 4 then s.wr PWR_STATUS_STATE tgt
  else
    let cause := s.rg RING_CAUSEWAY_CAUSE
    let s := (s.setAlert false).controlLost
    let s : State := { s with pins := { s.pins with control := false, therm := false, thermal := 0 } }
    s.wrs [(RING_CAUSEWAY_BYPASS, 1), (RING_CAUSEWAY_CAUSE, cause), (PWR_STATUS_STATE, 5)]

/-! ## Wakes (R523, R524) -/

/-- The wake completes in P0. -/
def State.awake (s : State) (cause : Nat) : State :=
  (s.wrs [(PWR_STATUS_STATE, 0), (PWR_STATUS_CAUSE, cause)]).flag PWR_EVENT_WAKE PWR_EVENT_EN_WAKE 12

/-- A wake source that is not ignored. After a thermal shutdown it runs the start-up of a warm reset, once the junction has
fallen below 95 C (R527, R529). -/
def State.wake (s : State) (cause train : Nat) (bad : List Nat) : State :=
  let st := s.rg PWR_STATUS_STATE
  if st = 0 ∨ s.pins.thermal = 1 then s
  else if st ≤ 2 then s.awake cause
  else if st = 5 then (s.startControl false train bad).awake cause
  else
    let s := if s.pins.thermal = 2 then (s.count 3).logEntry 0x0009 5 0xFFFF 3 else s
    (if s.pins.v12 then s.startCompute true train [] else s).awake cause

/-- A request for a state (R521, R523); `bit`: the bit of `PWR.WAKE_EN` that gates it as a wake. The status of an object
write is answered. -/
def State.powerRequest (s : State) (tgt gate train : Nat) : Nat × State :=
  let st := s.rg PWR_STATUS_STATE
  let refuse := (stRefusedTime, s.wr PWR_CTRL_ERR 1)
  if tgt = 0 then
    (stOk, if bit (s.rg PWR_WAKE_EN) gate then s.wake (if gate = 1 then 3 else 2) train [] else s)
  else if tgt = st then (stOk, s)
  else if tgt < st then refuse
  else if st < 3 ∧ (s.busyP1 ∨ (3 ≤ tgt ∧ s.busyP3)) then refuse
  else if tgt ≤ 2 then (stOk, s.wr PWR_STATUS_STATE tgt)
  else (stOk, s.enterDeep tgt)

/-- A write of `PWR.CTRL`. -/
def State.pwrCtrl (s : State) (w : Nat) : State :=
  let s := if bit w 30 then s.wr PWR_CTRL_ERR 0 else s
  let s := s.takeFields w [PWR_CTRL_TARGET, PWR_CTRL_RETAIN, PWR_CTRL_OP_NEXT]
  if bit w 31 then (s.powerRequest (s.rg PWR_CTRL_TARGET) 0 24).2 else s

/-- WAKE_N_FALL: no bit gates WAKE_N. -/
def execWakeNFall (train : Fin 25) (bad : List Nat) (s : State) : Res :=
  .next (if s.pins.sb ∧ ¬ s.pins.mrst then s.wake 1 train.val bad else s)

/-! ## Temperature (R525 to R527) -/

/-- HOT set or cleared. -/
def State.setHot (s : State) (on : Bool) : State :=
  if s.on PWR_TEMP_HOT = on then s
  else
    let s := (s.wr PWR_TEMP_HOT (b2n on)).flag PWR_EVENT_HOT PWR_EVENT_EN_HOT 12
    let s := if s.pins.compute then (s.wr GH_CTRL_HOT (b2n on)).rederive else s
    (s.postEvent 0x0050 5 (b2n on)).logEntry 0x0010 5 0xFFFF (b2n on)

/-- The shutdown at 115 C. -/
def State.thermalOff (s : State) : State :=
  let s := ((s.toBypass 6).count 18).logEntry 0x0010 5 0xFFFF 2
  let s := (s.computeOff 0).wrs [(DRAM_RETAIN_SEG, 0), (PWR_STATUS_STATE, 4), (PWR_STATUS_CAUSE, 4)]
  let s := s.writeCheckpoint
  { s with pins := { s.pins with thermal := 1 } }

/-- A sample of the hottest junction, in 1/16 C. -/
def State.temperature (s : State) (tj : Int) : State :=
  if ¬ s.pins.control then s
  else
    let s := s.wr PWR_TEMP_TJ (toBits 16 tj)
    let s := if 1680 ≤ tj then s.setHot true else if tj < 1600 then s.setHot false else s
    let s := if 1760 ≤ tj then s.setTherm true
      else if tj < 1600 ∧ s.pins.thermal = 0 then s.setTherm false else s
    let s : State := if s.pins.thermal = 1 ∧ tj < 1520 then { s with pins := { s.pins with thermal := 2 } } else s
    if 1840 ≤ tj ∧ s.pins.compute then s.thermalOff else s

/-- TEMPERATURE_SAMPLE. -/
def execTemperatureSample (tj : BitVec 16) (s : State) : Res := .next (s.temperature tj.toInt)

/-! ## Supplies (R540 to R543) -/

/-- VIN12_LOSS. -/
def State.vinLoss (s : State) : State :=
  if ¬ s.pins.v12 then s
  else
    let s : State := { s with pins := { s.pins with v12 := false } }
    if s.pins.compute then ((s.toBypass 1).computeOff 0).wr PWR_STATUS_STATE 0 else s

def execVin12Loss (s : State) : Res := .next s.vinLoss

/-- VIN12_RETURN: the compute die starts, unless a power state keeps it off; a compute die that had run before is logged. -/
def State.vinReturn (s : State) (train : Nat) (bad : List Nat) : State :=
  if s.pins.v12 then s
  else
    let s : State := { s with pins := { s.pins with v12 := true } }
    if ¬ s.pins.control ∨ s.ef.running.isNone ∨ s.pins.compute ∨ s.rg PWR_STATUS_STATE ≠ 0 then s
    else
      let again := !s.dram.fresh
      let s := s.startCompute true train bad
      if again then s.logEntry 0x0009 5 0xFFFF 6 else s

def execVin12Return (train : Fin 25) (bad : List Nat) (s : State) : Res := .next (s.vinReturn train.val bad)

/-- STANDBY_LOSS: both dies lose power, and the stored energy drives the relays to bypass. -/
def State.standbyLoss (s : State) : State :=
  if ¬ s.pins.sb then s
  else
    let s := (s.toBypass 3).flushLog
    let s := (s.setAlert false).controlLost
    { s with pins := { s.pins with sb := false, control := false, compute := false, pwrGood := false, therm := false, thermal := 0 } }

def execStandbyLoss (s : State) : Res := .next s.standbyLoss

/-! ## Test port (R491, R549) -/

/-- Identification code of the test port. -/
def idcode : Nat := 0x13280A6B

/-- JTAG_INSTRUCTION_LOAD: 0 BYPASS, 1 IDCODE, 2 SAMPLE/PRELOAD, 3 EXTEST, 4 debug and memory access. EXTEST outside RESET and
FAILED, and what the protection level does not permit, load BYPASS. -/
def State.jtag (s : State) (i : Nat) : State :=
  if ¬ s.pins.sb ∨ ¬ s.pins.control then s
  else
    let ph := s.rg GC_STATUS_PHASE
    let j := if (i = 3 ∧ ph ≠ 0 ∧ ph ≠ 4) ∨ (4 ≤ i ∧ s.level ≠ 0) then 0 else i
    let s : State := { s with pins := { s.pins with tap := j } }
    if j = 1 then s.emit (.tdo idcode) else s

def execJtagInstructionLoad (i : Fin 5) (s : State) : Res := .next (s.jtag i.val)

end Sys2Proof.Machine
end

