-- ==== Sys2Proof/Machine/Objects.lean ====
section
/-! DEFINITION. The object operations of the Therad Object Protocol, and what a write of each object does (R430 to R448,
R487, R492 to R494, R521). -/

namespace Sys2Proof.Machine

/-! ## Requests and replies -/

/-- The oldest queued request, when its OP is `op` and the lighthouse core serves it. -/
def State.front (s : State) (op : Nat) : Option (ObjReq × State) :=
  if ¬ s.pins.control ∨ s.ef.running.isNone then none
  else match s.dict.queue with
    | q :: l => if mOp q.msg = op then some (q, { s with dict := { s.dict with queue := l } }) else none
    | [] => none

/-- Answers with a status, the tide of effect and the length of the value: the one that a WRITE or WRITE_AT gives. -/
def State.answerObj (s : State) (q : ObjReq) (status tide : Nat) : State :=
  s.sendReply q (s.replyMsg q.msg status tide (if mOp q.msg = 2 ∨ mOp q.msg = 3 then mTotal q.msg else 0) [])

/-- Answers with data. -/
def State.answerData (s : State) (q : ObjReq) (total : Nat) (data : List Byte) : State :=
  s.sendReply q (s.replyMsg q.msg stOk 0 total data)

/-- Refusal of an index that names no object here: vendor test objects are protected above level 0 (R430, R434). -/
def State.noObject (s : State) (index : Nat) : Nat :=
  if 0xF000 ≤ index ∧ s.level ≠ 0 then stRefusedProtection else stBadDescriptor

/-! ## READ and NEXT (R437, R438) -/

/-- The value that a READ continues, or the value now. -/
def State.readValue (s : State) (q : ObjReq) (now : List Byte) : List Byte :=
  if mOffset q.msg = 0 then now
  else match s.dict.reads.find? fun r => r.iface == q.iface && r.requester == q.requester && r.index == mIndex q.msg &&
      r.sub == mSub q.msg && decide (s.uptime ≤ r.time + 1000000000) with
    | some r => r.value
    | none => now

/-- A READ. -/
def State.objReadReq (s : State) (q : ObjReq) : State :=
  let sub := mSub q.msg
  match s.obj? (mIndex q.msg) with
  | none => s.answerObj q (s.noObject (mIndex q.msg)) 0
  | some o =>
    if sub ≠ 0 ∧ sub ≠ 0xFF then s.answerObj q stBadDescriptor 0
    else if sub = 0 ∧ o.acc = 2 then s.answerObj q stBadDescriptor 0
    else
      let v := s.readValue q (if sub = 0xFF then o.descriptor else s.objRead o)
      let d := slice v (mOffset q.msg) (min (mLen q.msg) (lenLimit q.iface))
      let mine (r : SegRead) : Bool := r.iface == q.iface && r.requester == q.requester && r.index == o.index && r.sub == sub
      let rest := s.dict.reads.filter fun r => !mine r
      let keep : List SegRead := if mOffset q.msg + d.length < v.length then
        [{ iface := q.iface, requester := q.requester, index := o.index, sub := sub, value := v, time := s.uptime }] else []
      let s : State := { s with dict := { s.dict with reads := rest ++ keep } }
      s.answerData q v.length d

/-- A NEXT. -/
def State.objNext (s : State) (q : ObjReq) : State :=
  let l := (s.objs.map fun o => o.index).filter fun i => decide (mIndex q.msg ≤ i)
  let n := min 512 (min (mLen q.msg) (lenLimit q.iface) / 2)
  s.answerData q l.length ((l.take n).flatMap fun i => natLE 2 i)

/-! ## Whether a write is accepted -/

/-- Object 0x1010 lets the interface write (R435). -/
def State.mayWrite (s : State) (iface : Nat) : Bool :=
  bit (leNat (s.objVal 0x1010 0 [7#8])) (if iface = 2 then 0 else if iface = 3 then 2 else 1)

/-- Refusals that do not look at the value: ACCESS, protection, interfaces (R431, R434, R435, R492, R494). -/
def State.writeBar (s : State) (q : ObjReq) (o : Obj) : Option Nat :=
  let ring := decide (q.iface ≤ 1)
  if mSub q.msg ≠ 0 ∨ o.acc = 0 ∨ o.acc = 4 then some stBadDescriptor
  else if ring && (o.index == 0x1010 || o.index == 0x1006 || o.index == 0x1020) then some stRefusedProtection
  else if ¬ s.mayWrite q.iface ∨ (bit o.flags 1 ∧ s.level = 2) then some stRefusedProtection
  else none

/-- Every field of the word at `off` gets a legal encoding. -/
def fieldsLegal (off w : Nat) : Bool := (fieldsAt off).all fun f => f.acc != .rw || f.legal.ok (w / 2 ^ f.lo % 2 ^ f.w)

/-- A value that its register would not take (R317, R367, R388, R391, R429). -/
def State.valueBar (s : State) (i : Nat) (v : List Byte) : Option Nat :=
  let n := leNat v
  let bad (b : Bool) : Option Nat := if b then some stBadDescriptor else none
  let later (j : Nat) (f : Fld) : Nat :=
    (((s.dict.later ++ s.loader.ghLater).filter fun x => x.1 == j).getLast?.map fun x => x.2).getD (s.rg f)
  if i = 0x2200 then (if 95 < n + max (s.rg GH_CTRL_DRAM_SHARE) (later 0x2104 GH_CTRL_DRAM_SHARE) then some stRefusedMemory else none)
  else if i = 0x2104 then (if 95 < n + max (s.rg TIER_CTRL_WSHARE) (later 0x2200 TIER_CTRL_WSHARE) then some stRefusedMemory else none)
  else if i = 0x4100 then bad (decide (15 < n ∧ n ≠ 0xFF))
  else if i = 0x4101 then bad (!fieldsLegal RING_CTRL_EN.off n)
  else if 0x9000 ≤ i ∧ i < 0x9008 then
    let p := i % 4
    let size := decide (0x9004 ≤ i)
    let off := if size then (VIN_PORT_SIZE_WIDTH p).off else (VIN_PORT_CTRL_EN p).off
    bad (!fieldsLegal off n || !(s.takeFields n (fieldsAt off)).vinLegal p)
  else if i = 0x900C then bad (!fieldsLegal VIN_MUX_EN.off n || ((s.wr VIN_MUX_ERR 0).vinMux n).on VIN_MUX_ERR)
  else if i = 0x9100 then bad (s.audClkBad n)
  else if 0x9101 ≤ i ∧ i < 0x9109 then bad (!fieldsLegal (AUD_IN_CTRL_EN (i - 0x9101)).off n)
  else if 0x9109 ≤ i ∧ i < 0x9111 then bad (!fieldsLegal (AUD_OUT_CTRL_EN (i - 0x9109)).off n)
  else none

/-! ## Commits (R447, R448) -/

/-- The committed value of an object, or of a stream parameter. -/
def State.committed (s : State) (index : Nat) (par : Option (List Byte × Nat × Nat)) : Option (List Byte) :=
  match par with
  | some k => (s.dict.pparams.find? fun x => x.1 == k.1 && x.2.1 == k.2.1 && x.2.2.1 == k.2.2).map fun x => x.2.2.2
  | none => (s.dict.precs.find? fun r => r.index == index && r.sub == 0).map fun r => r.value

/-- A value that was applied is committed and then answered; one that is committed already is answered at once, and so is
one that cannot be committed. -/
def State.commitObj (s : State) (q : ObjReq) (index tide : Nat) (v : List Byte) (par : Option (List Byte × Nat × Nat)) : State :=
  if s.committed index par = some v ∧ (s.dict.commits.all fun c => c.index != index) then s.answerObj q stOk tide
  else if s.dict.budget = 0 ∨ s.ef.dataGone then (s.commitRec index 0 v).2.answerObj q stNotPersisted tide
  else
    let r := s.replyMsg q.msg stOk tide (mTotal q.msg) []
    ({ s with dict := { s.dict with
      commits := s.dict.commits ++ [{ index := index, value := v, req := q, reply := r, par := par }] } } : State).showEf

/-- The oldest commit is done in both copies, and its reply leaves. -/
def State.commitDone (s : State) : State :=
  match s.dict.commits with
  | [] => s
  | c :: l =>
    let s : State := { s with dict := { s.dict with commits := l } }
    let r := s.commitRec c.index c.sub c.value
    let s := r.2
    let s : State := match c.par with
      | some k => if r.1 then
          { s with dict := { s.dict with pparams :=
            (s.dict.pparams.filter fun x => !(x.1 == k.1 && x.2.1 == k.2.1 && x.2.2.1 == k.2.2)) ++ [(k.1, k.2.1, k.2.2, c.value)] } }
        else s
      | none => s
    (s.sendReply c.req (if r.1 then c.reply else patch c.reply 7 (natLE 1 stNotPersisted))).showEf

/-- PERSISTENT_COMMIT_DONE. -/
def execPersistentCommitDone (s : State) : Res :=
  .next (if s.pins.control ∧ s.ef.running.isSome then s.commitDone else s)

/-! ## Protection, rollback and keys (R487, R492 to R494) -/

/-- PROT_SET: the outcome of a request, and whether it lowers the level. -/
def State.protCheck (s : State) (w : Nat) : Nat × Bool :=
  let tgt := w % 256
  let key := w / 65536
  let lvl := s.level
  if bits w 8 8 ≠ 0 ∨ 2 < tgt ∨ tgt = lvl then (stBadDescriptor, false)
  else if key = 0 ∧ lvl < tgt then (stOk, false)
  else if key = 0xA5C3 ∧ tgt < lvl then (if lvl = 2 then (stRefusedProtection, false) else (stOk, true))
  else (stBadDescriptor, false)

/-- The level is raised by option record, and by fuse for level 2; a checkpoint follows (R492, R513). -/
def State.protRaise (s : State) (tgt : Nat) : State :=
  let old := s.level
  let s := s.optWrite { s.ef.opt with level := tgt }
  let s : State := if tgt = 2 then { s with fac := { s.fac with level2 := true } } else s
  (s.showEf.logEntry 0x0011 5 0xFFFF (old + 256 * tgt)).writeCheckpoint

/-- The level is lowered to 0: the compute die is reset, the data array and the key store are erased, and the start-up
runs. -/
def State.protLower (s : State) (train : Nat) : State :=
  let old := s.level
  let s := s.logEntry 0x0011 5 0xFFFF (old + 65536)
  let on := s.pins.compute
  let s := if on then (((s.toBypass 4).count 3).logEntry 0x0009 5 0xFFFF 3).computeLost 0 else s
  let s := s.eraseProtected
  let s := s.optWrite { s.ef.opt with level := 0 }
  let s := (s.showEf.logEntry 0x0011 5 0xFFFF old).writeCheckpoint
  if on then s.startCompute true train [] else s

/-- SEC_ROLLBACK: whether the compute counter may be raised to `n`. -/
def State.rollbackOk (s : State) (n : Nat) : Bool :=
  decide (n ≤ 64 ∧ s.fac.rollCd ≤ n) && (List.range 5).all fun k => !s.coreRuns k || match s.image k with
    | some m => decide (m.rollback ≤ n)
    | none => true

/-- KEY_IMPORT: the key that a value brings, or the refusal. -/
def State.keyOf (s : State) (v : List Byte) : Except Nat KeyEnt :=
  let id := leAt v 0 4
  let lvl := leAt v 4 1
  let form := leAt v 5 1
  let k := v.drop 8
  let used := s.ef.keys.any fun e => e.id == id
  if v.length < 8 ∨ 64 < id ∨ 2 < lvl ∨ 1 < form ∨ leAt v 6 2 ≠ 0 ∨ (id = 0 ∧ form = 1) ∨
      k.length ≠ (if id = 0 then 32 else if form = 0 then 64 else 72) then .error stBadDescriptor
  else if id = 0 then (if used then .error stRefusedProtection else .ok { id := 0, minLevel := lvl, key := k })
  else if form = 0 then .error stRefusedProtection
  else if used then .error stRefusedMemory
  else match s.ef.keys.find? fun e => e.id == 0 with
    | none => .error stRefusedProtection
    | some kek =>
      let r := unwrap kek.key k
      if r.1 = 0xA6A6A6A6A6A6A6A6 then .ok { id := id, minLevel := lvl, key := r.2 } else .error stRefusedProtection

/-- A write of the key store: both copies, two sectors each, are erased and programmed again, which leaves both valid. A
sector that reaches its last erase is retired; whether the write is done, or refused as no spare is left (R476, R481, R493).
DEDUCED that a write erases all four sectors. -/
def State.keyStoreWrite (s : State) (keys : List KeyEnt) : Bool × State :=
  let r := [2, 3, 4, 5].foldl (fun (a : Bool × State) n =>
    let s := a.2.countErase n
    if s.ef.erases.get n 0 < 100000 then (a.1, s)
    else
      let r := s.retireSector true n
      (a.1 && r.1, r.2)) (true, s.codeWritten)
  if r.1 then (true, { r.2 with ef := { r.2.ef with keys := keys, keyCopies := (true, true) } }) else r

/-- KEY_DELETE: whether an entry may go. -/
def State.keyDeleteOk (s : State) (id : Nat) : Bool :=
  (s.ef.keys.any fun e => e.id == id) && !(id != 0 && s.pool.models.any fun m => m.keyid == id)

/-! ## WRITE and WRITE_AT -/

/-- A tide object (R60): staged and armed while tides run, in force at once while RUN is 0. The unstamped target is the next
boundary, whichever it is when no tide has begun since RUN was set. DEDUCED from "refusals are returned as REFUSED_TIME":
a write that arms or joins an apply is answered once the apply has been decided. -/
def State.tideObj (s : State) (q : ObjReq) (f : Fld) (i : Nat) (v : List Byte) (stamp : Option Nat) : State :=
  let n := leNat v
  let tgt := stamp.getD (if s.tide.numbered then s.rg TIDE_NUM + 1 else 0)
  if ¬ s.on TIDE_CTRL_RUN then ((s.setTide f n).setVal i 0 v).commitObj q i 0 v none
  else if s.on TIDE_APPLY_HI_PEND ∧ stamp ≠ some s.applyTarget then s.answerObj q stRefusedTime 0
  else
    let w : TideWait := { req := q, index := i, value := v, old := s.rg f }
    let s := s.setTide f n
    let s := if s.on TIDE_APPLY_HI_PEND then s else s.applyWrite (tgt % 2 ^ 32) (tgt / 2 ^ 32 % 65536 + 2 ^ 31)
    { s with dict := { s.dict with waits := s.dict.waits ++ [w] } }

/-- What was staged before the refused writes `l`, the last of them undone first. -/
def State.unstage (s : State) (l : List TideWait) : State :=
  l.reverse.foldl (fun (s : State) w => match objFld w.index with
    | some f => s.wr f w.old
    | none => s) s

/-- The replies that waited for an apply: `st` how it ended (R57, R60). A refused write changes nothing (R431). -/
def State.tideAnswers (s : State) (st : Nat) : State :=
  let l := s.dict.waits
  let s : State := { s with dict := { s.dict with waits := [] } }
  let s := if st = stRefusedTime then s.unstage l else s
  l.foldl (fun (s : State) w =>
    if st = stOk then (s.setVal w.index 0 w.value).commitObj w.req w.index (s.rg TIDE_NUM) w.value none
    else s.answerObj w.req st 0) s

/-- The generator stopped before a tide began: the staged settings are in force, and their writes are answered (R56). -/
def State.idleAnswers (s : State) : State := if s.staging then s else s.tideAnswers stOk

/-- A write of `TIDE.CTRL` with RUN 0 stops the generator at the next boundary (R56, R59). -/
def execTideRunClear (w : BitVec 32) (s : State) : Res := .next ((s.tideCtrlFields w.toNat).runClear).idleAnswers

/-- A stream parameter (R445, R447). -/
def State.paramWrite (s : State) (q : ObjReq) (o : Obj) (v : List Byte) (stamp : Option Nat) (asap : Bool) : State :=
  let c := s.rg TIDE_NUM
  let t := stamp.getD (c + 2)
  let i := o.index
  if t < c + 2 ∧ ¬ asap then s.answerObj q stRefusedTime 0
  else
    let t := max t (c + 2)
    if c + 65535 < t then s.answerObj q stBadDescriptor 0
    else if 256 ≤ s.dict.stamped.length then s.answerObj q stRefusedMemory 0
    else
      let l := s.dict.stamped ++ [{ index := i, target := t, value := v }]
      let s := ({ s with dict := { s.dict with stamped := l } } : State).wr PSTG_CTRL_QFILL l.length
      if o.acc ≠ 3 then s.answerObj q stOk t
      else
        let name := ((s.loader.streams.find? fun x => x.num == (i - 0x6000) / 0x80).map fun x => x.name).getD []
        s.commitObj q i t v (some (name, (i - 0x6000) % 0x80, o.typ))

/-- Where the value of an accepted write goes, besides the dictionary: to its registers now, or to what waits for the next
tide boundary. -/
def State.objEffect (s : State) (i : Nat) (v : List Byte) : State :=
  let n := leNat v
  if i = 0x2003 ∨ i = 0x2005 ∨ i = 0x2400 ∨ i = 0x4103 then s.applyObj i v
  else if ¬ s.pins.compute then s
  else if (0x2200 ≤ i ∧ i ≤ 0x2202) ∨ (0x2301 ≤ i ∧ i ≤ 0x2304) then
    { s with dict := { s.dict with later := s.dict.later ++ [(i, n)] } }
  else if i = 0x4102 ∨ (0x4120 ≤ i ∧ i < 0x4160) then { s with ring := { s.ring with pend := s.ring.pend ++ [(i, 0, v)] } }
  else if i = 0x900C then { s with vin := { s.vin with muxNext := some n } }
  else if 0x9100 ≤ i ∧ i < 0x9111 then
    let off := if i = 0x9100 then AUD_CLK_EN.off else if i < 0x9109 then (AUD_IN_CTRL_EN (i - 0x9101)).off
      else (AUD_OUT_CTRL_EN (i - 0x9109)).off
    { s with aud := { s.aud with pend := s.aud.pend ++ [(off, n)] } }
  else if 0x2100 ≤ i ∧ i ≤ 0x2105 then
    { s with loader := { s.loader with
      ghLater := s.loader.ghLater.filter (fun x => x.1 != i) ++ [(i, n)]
      sets := s.loader.sets.map fun x => if x.cls = 2 ∧ x.state = 2 then { x with owes := true } else x } }
  else if i = 0x4005 ∨ i = 0x4006 ∨ (0x9000 ≤ i ∧ i < 0x900C) then s.applyObj i v
  else s

/-- The objects that command the module. -/
def State.cmdObj (s : State) (q : ObjReq) (i : Nat) (v : List Byte) (train : Nat) : State :=
  let n := leNat v
  if i = 0x1006 then
    let r := s.protCheck n
    if r.1 ≠ stOk then s.answerObj q r.1 0
    else if r.2 then (((List.range s.dict.commits.length).foldl (fun (s : State) _ => s.commitDone) s).answerObj q stOk 0).protLower train
    else (s.protRaise (n % 256)).answerObj q stOk 0
  else if i = 0x1008 then
    if s.rollbackOk (n / 65536) then
      ({ s with fac := { s.fac with rollCd := n / 65536 } } : State).answerObj q stOk 0
    else s.answerObj q stBadDescriptor 0
  else if i = 0x1020 then
    match s.keyOf v with
    | .error e => s.answerObj q e 0
    | .ok k =>
      let r := s.keyStoreWrite (s.ef.keys ++ [k])
      r.2.answerObj q (if r.1 then stOk else stStoreWorn) 0
  else if i = 0x1021 then
    if s.keyDeleteOk n then
      let r := s.keyStoreWrite (s.ef.keys.filter fun e => e.id != n)
      r.2.answerObj q (if r.1 then stOk else stStoreWorn) 0
    else s.answerObj q stBadDescriptor 0
  else if i = 0x2001 then
    if 3 ≤ s.rg PWR_STATUS_STATE then s.answerObj q stBadDescriptor 0
    else ({ s with dict := { s.dict with warmAsked := true } } : State).answerObj q stOk 0
  else
    let r := s.powerRequest n (if q.iface = 3 then 1 else 2) train
    if r.1 = stOk then
      (let s := s.answerObj q stOk 0
       (s.powerRequest n (if q.iface = 3 then 1 else 2) train).2)
    else r.2.answerObj q r.1 0

/-- A whole value is written to an object. `stamp`: the target of a WRITE_AT. -/
def State.writeValue (s : State) (q : ObjReq) (o : Obj) (v : List Byte) (stamp : Option Nat) (train : Nat) : State :=
  let i := o.index
  if ¬ o.valueOk v ∨ (stamp.isSome ∧ ¬ bit o.flags 0) then s.answerObj q stBadDescriptor 0
  else match s.valueBar i v with
    | some e => (if e = stRefusedMemory then s.wr TIER_CTRL_ERR 1 else s).answerObj q e 0
    | none =>
      if 0x6000 ≤ i ∧ i < 0x8000 then s.paramWrite q o v stamp (mAsap q.msg)
      else if 0x4000 ≤ i ∧ i ≤ 0x4004 then
        match objFld i with
        | some f => s.tideObj q f i v stamp
        | none => s
      else if o.acc = 2 ∨ i = 0x1008 then s.cmdObj q i v train
      else
        let s := (s.objEffect i v).setVal i 0 v
        if o.acc = 3 then s.commitObj q i 0 v none else s.answerObj q stOk 0

/-- A WRITE: the whole value, or a segment of it (R438). -/
def State.objWriteReq (s : State) (q : ObjReq) (train : Nat) : State :=
  let m := q.msg
  let i := mIndex m
  match s.obj? i with
  | none => s.answerObj q (s.noObject i) 0
  | some o => match s.writeBar q o with
    | some e => s.answerObj q e 0
    | none =>
      let d := mData m
      let mine (x : SegWrite) : Bool := x.iface == q.iface && x.requester == q.requester
      let here (x : SegWrite) : Bool := x.index == i && x.sub == mSub m
      let drop (s : State) : State := { s with dict := { s.dict with segs := s.dict.segs.filter fun x => !here x } }
      let put (s : State) (b : List Byte) : State := { s with dict := { s.dict with segs := s.dict.segs ++
        [{ iface := q.iface, requester := q.requester, index := i, sub := mSub m, total := mTotal m, data := b, time := s.uptime }] } }
      let cur := s.dict.segs.find? here
      if cur.any fun x => !mine x then s.answerObj q stBadDescriptor 0
      else
        let s := drop s
        if mOffset m = 0 then
          if mTotal m = d.length then s.writeValue q o d none train
          else if d.length < mTotal m ∧ o.lenOk (mTotal m) then (put s d).answerObj q stOk 0
          else s.answerObj q stBadDescriptor 0
        else match cur with
          | none => s.answerObj q stBadDescriptor 0
          | some x =>
            let b := x.data ++ d
            if mOffset m ≠ x.data.length ∨ mTotal m ≠ x.total ∨ x.total < b.length then s.answerObj q stBadDescriptor 0
            else if b.length = x.total then s.writeValue q o b none train
            else (put s b).answerObj q stOk 0

/-- A WRITE_AT (R445). -/
def State.objWriteAt (s : State) (q : ObjReq) (train : Nat) : State :=
  let m := q.msg
  match s.obj? (mIndex m) with
  | none => s.answerObj q (s.noObject (mIndex m)) 0
  | some o => match s.writeBar q o with
    | some e => s.answerObj q e 0
    | none =>
      if mOffset m ≠ 0 ∨ mTotal m ≠ mLen m then s.answerObj q stBadDescriptor 0
      else s.writeValue q o (mData m) (some (mTide m)) train

/-- A CANCEL_AT; of a tide object it cancels the apply armed for that tide (R56, R437). -/
def State.objCancel (s : State) (q : ObjReq) : State :=
  let m := q.msg
  let i := mIndex m
  let hit (x : Stamped) : Bool := x.index == i && x.sub == mSub m && x.target == mTide m
  if (s.obj? i).isNone then s.answerObj q (s.noObject i) 0
  else if ¬ s.mayWrite q.iface then s.answerObj q stRefusedProtection 0
  else if 0x4000 ≤ i ∧ i ≤ 0x4004 ∧ mSub m = 0 ∧ s.on TIDE_APPLY_HI_PEND ∧ s.applyTarget = mTide m then
    ((s.wr TIDE_APPLY_HI_PEND 0).tideAnswers stCancelled).answerObj q stOk (mTide m)
  else if s.dict.stamped.any hit then
    let l := s.dict.stamped.filter fun x => !hit x
    (({ s with dict := { s.dict with stamped := l } } : State).wr PSTG_CTRL_QFILL l.length).answerObj q stOk (mTide m)
  else s.answerObj q stBadDescriptor 0

/-! ## Meanings -/

/-- READ: the oldest queued request, when it is one. -/
def execRead (s : State) : Res :=
  .next (match s.front 1 with
    | some (q, s) => s.objReadReq q
    | none => s)

/-- WRITE; `train`: a DRAM channel that fails training in a start-up that the write sets off. -/
def execWrite (train : Fin 25) (s : State) : Res :=
  .next (match s.front 2 with
    | some (q, s) => s.objWriteReq q train.val
    | none => s)

/-- WRITE_AT. -/
def execWriteAt (s : State) : Res :=
  .next (match s.front 3 with
    | some (q, s) => s.objWriteAt q 24
    | none => s)

/-- CANCEL_AT. -/
def execCancelAt (s : State) : Res :=
  .next (match s.front 4 with
    | some (q, s) => s.objCancel q
    | none => s)

/-- NEXT. -/
def execNext (s : State) : Res :=
  .next (match s.front 5 with
    | some (q, s) => s.objNext q
    | none => s)

/-- SEGMENT_TIMEOUT: the segmented write that has waited longest. -/
def execSegmentTimeout (s : State) : Res :=
  .next (match s.dict.segs with
    | [] => s
    | x :: l =>
      let s : State := { s with dict := { s.dict with segs := l, stats := s.dict.stats.modify 3 fun n => (n + 1) % 2 ^ 32 } }
      s.logEntry 0x0016 5 x.index (x.sub + 256 * x.iface) stTimeout)

/-- The oldest queued request, when it is a WRITE of one object. -/
def State.frontWrite (s : State) (i : Nat) (f : ObjReq → Bool) (train : Nat) : State :=
  match s.front 2 with
  | some (q, s') => if mIndex q.msg = i ∧ f q then s'.objWriteReq q train else s
  | none => s

/-- PROT_RAISE: a write of object 0x1006 that raises the level. -/
def execProtRaise (s : State) : Res := .next (s.frontWrite 0x1006 (fun q => decide (leNat (mData q.msg) / 65536 = 0)) 24)

/-- PROT_LOWER: a write of object 0x1006 that lowers the level. -/
def execProtLower (train : Fin 25) (s : State) : Res :=
  .next (s.frontWrite 0x1006 (fun q => decide (leNat (mData q.msg) / 65536 ≠ 0)) train.val)

/-- SEC_ROLLBACK_WRITE. -/
def execSecRollbackWrite (s : State) : Res := .next (s.frontWrite 0x1008 (fun _ => true) 24)

/-- KEY_IMPORT. -/
def execKeyImport (s : State) : Res := .next (s.frontWrite 0x1020 (fun _ => true) 24)

/-- KEY_DELETE. -/
def execKeyDelete (s : State) : Res := .next (s.frontWrite 0x1021 (fun _ => true) 24)

/-- KEY_LIST: a READ of object 0x1022. -/
def execKeyList (s : State) : Res :=
  .next (match s.front 1 with
    | some (q, s') => if mIndex q.msg = 0x1022 then s'.objReadReq q else s
    | none => s)

/-- A request for a power state: a write of object 0x2002 when `obj`, else a write of `PWR.CTRL` with that TARGET and GO. -/
def State.powerCmd (s : State) (tgt : Nat) (obj : Bool) (w train : Nat) : State :=
  if obj then s.frontWrite 0x2002 (fun q => decide (leNat (mData q.msg) = tgt)) train
  else if s.pins.compute then s.pwrCtrl (2 ^ 31 + tgt * 2 ^ 27 + w % 2 ^ 27 + bits w 30 1 * 2 ^ 30)
  else s

/-- POWER_ENTER_P1 to POWER_ENTER_P5. -/
def execPowerEnterP1 (obj : Bool) (w : BitVec 32) (s : State) : Res := .next (s.powerCmd 1 obj w.toNat 24)
def execPowerEnterP2 (obj : Bool) (w : BitVec 32) (s : State) : Res := .next (s.powerCmd 2 obj w.toNat 24)
def execPowerEnterP3 (obj : Bool) (w : BitVec 32) (s : State) : Res := .next (s.powerCmd 3 obj w.toNat 24)
def execPowerEnterP4 (obj : Bool) (w : BitVec 32) (s : State) : Res := .next (s.powerCmd 4 obj w.toNat 24)
def execPowerEnterP5 (obj : Bool) (w : BitVec 32) (s : State) : Res := .next (s.powerCmd 5 obj w.toNat 24)

/-- POWER_WAKE. -/
def execPowerWake (obj : Bool) (w : BitVec 32) (train : Fin 25) (s : State) : Res := .next (s.powerCmd 0 obj w.toNat train.val)

end Sys2Proof.Machine
end

