-- ==== Sys2Proof/Machine/Commit.lean ====
section
/-! DEFINITION. The end of a tide (R51, R54, R130, R320, R444): slices stopped at the commit window, the outcome of every
set and stream, slots put back, what is released, the parameter stager. -/

namespace Sys2Proof.Machine

/-! ## The commit window (R51) -/

/-- No slice and no replay runs in the commit window: one that has not ended is stopped, and its consumers with it. -/
def State.closeStation (s : State) (t p : Nat) : State :=
  let v := s.stn t p
  let st := s.rg (SEQ_STATE_STATE t p)
  match v.slice with
  | none => s
  | some sl =>
    if ¬ (st = 2 ∨ st = 3) ∨ v.ended.isSome ∨ v.halted ∨ ¬ v.faults.isEmpty then s
    else
      let s := (s.onStn t p fun v => { v with halted := true }).wrs [(SEQ_STATE_STATE t p, 6), (SEQ_STATE_CAUSE t p, 0),
        (SEQ_END_CYCLE t p, 0x7FFFFF)]
      s.haltConsumers sl.handle 204 [(t, s.home t p)]

def State.closeSlices (s : State) : State := allStns.foldl (fun s q => s.closeStation q.1 q.2) s

/-- The index of the tide of a token set whose barrier comes next, if one does (R295, R297, R298); `lost`: a tide of the set was
abandoned, so that it runs again. -/
def State.nextTide (s : State) (x : ProgSet) (lost : Bool) : Option Nat :=
  if x.held ∧ x.inPass then some x.ph else if s.passEnds x lost then some 0 else if lost then none else some (x.ph + 1)

/-- Whether the slice of a position ended without an unreplayed fault (R54, R320). -/
def State.stageOk (s : State) (g : Stage) : Bool :=
  let p := s.land g.t g.p
  let v := s.stn g.t (s.carrier g.t p)
  v.slice.isSome && !v.halted && v.faults.isEmpty && v.ended.isSome && !(s.stn g.t p).halted

/-- Whether a set's tide ran to a usable end. -/
def State.setOk (s : State) (x : ProgSet) : Bool := x.state == 2 && !x.held && x.stages.all s.stageOk

/-- Whether a set's tide ran and was abandoned in some station. -/
def State.setLost (s : State) (x : ProgSet) : Bool := x.state == 2 && !x.held && !x.stages.all s.stageOk

/-- In the commit window INPLACE loads whose barrier is closed commit, and the RESIDENT rows of a new layer version are written
before the boundary at which their binding switches (R297, R298). -/
def State.commitWindow (s : State) : State :=
  if ¬ s.tide.running then s
  else
    let s := s.closeSlices.commitInplace
    (s.loader.sets.filter fun x => x.state == 2).foldl (fun s x =>
      s.switchBinds x fun b => b.resident && (x.cls != 2 || s.nextTide x (s.setLost x) == some b.tidx)) s

def execCommitWindowOpen (s : State) : Res := .next s.commitWindow

/-- Cycle B of every station and attention unit (`z` none), or Z of the replay of a terrace, for the slices that waited on
it (R55, R226). -/
def State.schedulableEnd (s : State) (cyc : Nat) (z : Option Nat) : State :=
  if ¬ s.tide.running then s
  else
    let s := s.stationsAtB cyc z
    if z.isSome then s else (List.range 12).foldl (fun s t => s.attAbandon t) s

def execSchedulableEnd (cyc : BitVec 23) (z : Option (Fin 12)) (s : State) : Res :=
  .next (s.schedulableEnd cyc.toNat (z.map fun t => t.val))

/-! ## Outcomes (R320) -/

/-- The case of R320 of a stream: 1 its main set's output, 2 the fallback set's, 3 none. -/
def State.caseOf (s : State) (name : List Byte) : Nat :=
  let ok (c : Nat) : Bool := s.loader.sets.any fun x => x.cls == c && x.stream == name && s.setOk x
  if ok 0 then 1 else if ok 1 then 2 else 3

/-- The case of the stream of the slice at a station. -/
def State.caseAt (s : State) (t p : Nat) : Nat :=
  match (s.stn t (s.land t p)).slice with
  | some sl => s.caseOf sl.stream
  | none => 3

/-- A stream's release at the commit of tide `n` (R58, R320); `mute`: the outputs are silent after a discontinuity. -/
def State.releaseStream (s : State) (y : Strm) (c n : Nat) : State :=
  let mute := decide (0 < s.tide.mute)
  let st := if mute then stFallback else if c = 1 then stOk else if c = 2 then stFallback else stUncorrectable
  let s : State := { s with loader := { s.loader with
    streams := s.loader.streams.map fun z => if z.name = y.name then { z with status := st } else z } }
  let s := s.emit (.streamOut y.num st n)
  if st = stFallback then (s.bump INT_FALLBACK).count 8
  else if st = stUncorrectable then (s.count 9).logEntry 0x000B 0xFE 0xFFFF y.num
  else s

/-- Every tide-bound stream's release; `ended`: the state at the end of the tide. -/
def State.releaseStreams (s : State) (ended : State) (n : Nat) : State :=
  let due (y : Strm) : Bool := ended.loader.sets.any fun x => decide (x.cls ≤ 1) && x.stream == y.name &&
    (x.state == 2 || (decide (0 < s.tide.mute) && decide (x.state < 4)))
  (s.loader.streams.filter due).foldl (fun s y => s.releaseStream y (ended.caseOf y.name) n) s

/-! ## Slots of stopped slices (R130) -/

/-- One slot put back to its INIT value; a change is counted and logged. -/
def State.resetSlot (s : State) (t p k strm : Nat) : State :=
  if ¬ s.on (SLOT_CFG_EN t p k) ∨ s.rg (SLOT_CFG_KIND t p k) = 2 then s
  else
    let i := s.rg (SLOT_CFG_INIT t p k)
    let was := s.rg (SLOT_STAT_PRESENT t p k)
    let s := s.wrs [(SLOT_STAT_PRESENT t p k, i), (SLOT_STAT_RELEASED t p k, 0)]
    if was = i then s else (s.bump (SLOT_RESET t p)).logEntry 0x000C 0xFE (stnWhere t p) (k + 256 * strm)

/-- The slots of the station at `q` that `f` selects by producer and reader set. -/
def State.resetSlots (s : State) (q : Nat × Nat) (strm : Nat) (f : Nat → Nat → Bool) : State :=
  (List.range 64).foldl (fun s k =>
    if f (s.rg (SLOT_CFG_PRODUCER q.1 q.2 k)) (s.rg (SLOT_CFG_RDSET q.1 q.2 k)) then s.resetSlot q.1 q.2 k strm else s) s

/-- Every STREAM and KEEP slot that the stopped slice of a position produces or consumes. -/
def State.resetStage (s : State) (strm : Nat) (g : Stage) : State :=
  let p := s.land g.t g.p
  let s := s.resetSlots (g.t, p) strm fun pr rd => pr == 0 || bit rd 0
  let s := match s.neighbour g.t p false with
    | some q => s.resetSlots q strm fun pr rd => pr == 2 || bit rd 2
    | none => s
  match s.neighbour g.t p true with
  | some q => s.resetSlots q strm fun pr rd => pr == 1 || bit rd 1
  | none => s

/-- The slots of every slice that was abandoned or stopped in the tide. -/
def State.resetStopped (s : State) (ended : State) : State :=
  (ended.loader.sets.filter ended.setLost).foldl (fun s x =>
    let strm := ((s.strm? x.stream).map fun y => y.num).getD 0xFF
    (x.stages.filter fun g => !ended.stageOk g).foldl (fun s g => s.resetStage strm g) s) s

/-! ## The parameter stager (R443 to R446) -/

/-- The parameter values of an image, those of a stream. -/
def Strm.takeImage (y : Strm) (n : Nat) : Strm :=
  let new := y.params.map fun p => { p with value := slice y.image p.offset (typeSize p.typ) }
  let same := (new.zip y.params).all fun q => q.1.value == q.2.value.take (typeSize q.2.typ)
  if same then y else { y with params := new, changed := n }

/-- A queued write applied to the image of its stream. -/
def Strm.applyWrite (y : Strm) (w : Stamped) : Strm :=
  match y.params.find? fun p => w.index == 0x6000 + 0x80 * y.num + p.j with
  | some p => { y with image := patch y.image p.offset (w.value.take (typeSize p.typ)) }
  | none => y

/-- Writes in order of target, those of one target in the order handled. -/
def insStamped (w : Stamped) : List Stamped → List Stamped
  | [] => [w]
  | a :: l => if w.target < a.target then w :: a :: l else a :: insStamped w l
def sortStamped (l : List Stamped) : List Stamped := l.foldl (fun a w => insStamped w a) []

/-- The rows of a stream's block that differ from its image are written to the buffer of tide `T`. -/
def State.stageRows (s : State) (y : Strm) (T : Nat) : State :=
  if y.nrows = 0 ∨ ¬ s.on PSTG_CTRL_EN ∨ ¬ s.on (PSTG_BLK_EN y.num) then s
  else (List.range y.nrows).foldl (fun s r =>
    let a := tsAddr y.terr (y.trow + T % 2 * y.nrows + r)
    let b := slice y.image (512 * r) 512
    if s.ld a 512 = b then s else s.putRow a b) s

/-- The stager at boundary `n`: the image of tide n + 1 is formed, that of tide n is in force. -/
def State.stageParams (s : State) : State :=
  let n := s.rg TIDE_NUM
  let T := n + 1
  let due := sortStamped (s.dict.stamped.filter fun w => decide (w.target ≤ T))
  let rest := s.dict.stamped.filter fun w => decide (T < w.target)
  let late := (due.filter fun w => decide (w.target < T)).length
  let s : State := { s with
    dict := { s.dict with stamped := rest }
    loader := { s.loader with streams := s.loader.streams.map fun y => due.foldl (fun y w => y.applyWrite w) (y.takeImage n) } }
  let s := ((s.bump PSTG_APPLIED due.length).bump PSTG_LATE late).wr PSTG_CTRL_QFILL rest.length
  s.loader.streams.foldl (fun s y => s.stageRows y T) s

end Sys2Proof.Machine
end

