-- ==== Sys2Proof/Machine/Boundary.lean ====
section
/-! DEFINITION. The tide boundary (R20): the number advances, the ended tide commits, settings and sets change, held inputs
are frozen, slices start. -/

namespace Sys2Proof.Machine

/-! ## The apply (R56 to R58) -/

/-- Whether a token step is in flight past this boundary. -/
def State.passGoesOn (ended : State) (x : ProgSet) : Bool :=
  x.cls == 2 && x.state == 2 && x.inPass &&
    (x.held || if ended.setLost x then decide (x.reps < ended.rg GH_CTRL_REPEATS) else decide (x.ph + 1 < x.tok.ph))

/-- The largest L of the slices that run under settings `c`: of the assigned sets, or of those kept for another period. -/
def State.maxLFor (s : State) (c : TideCfg) : Nat :=
  let l := s.loader.sets.filter fun x => decide (x.state < 4) && c.isPeriod x.period
  let l := if l.isEmpty then s.loader.sets.filter fun x => decide (x.state < 3) else l
  l.foldl (fun a x => max a x.maxL) 0

/-- Whether every tide-bound stream has its sets for the settings `c` (R57, R144). -/
def State.setsFor (s : State) (c : TideCfg) : Bool :=
  s.loader.sets.all fun x => decide (1 < x.cls) || decide (2 < x.state) ||
    s.loader.sets.any fun y => y.stream == x.stream && y.cls == x.cls && decide (y.state < 4) && c.isPeriod y.period

/-- An armed apply at the boundary, and the replies to the writes that armed it (R56, R57, R60). -/
def State.applyDue (s : State) (ended : State) : State :=
  if ¬ s.on TIDE_CTRL_RUN then s
  else if ¬ s.on TIDE_APPLY_HI_PEND then (if s.dict.waits.isEmpty then s else s.tideAnswers stCancelled)
  else
    let c := s.staged
    let s := s.applyAtBoundary (s.maxLFor c) (s.setsFor c) (ended.loader.sets.any ended.passGoesOn)
    if s.on TIDE_APPLY_HI_PEND then s
    else s.tideAnswers (if s.rg TIDE_APPLY_HI_CAUSE = 0 then stOk else stRefusedTime)

/-! ## Terraces (R132, R147, R148) -/

/-- A replay's reserve returns to pass-through (R147). -/
def State.replayEnd (s : State) (t : Nat) : State :=
  if s.rg (TAKE_STATUS_PHASE t) = 1 then (s.wr (TAKE_STATUS_PHASE t) 0).clearStation t 16 else s

/-- The settings and status of every slot of a position given to the reserve. -/
def State.copySlots (s : State) (t p : Nat) : State :=
  (List.range 64).foldl (fun s k =>
    let cp (s : State) (a b : List Fld) : State := (a.zip b).foldl (fun s f => s.wr f.2 (s.rg f.1)) s
    cp (cp s (slotFlds t p k) (slotFlds t 16 k)) (slotStats t p k) (slotStats t 16 k)) s

/-- Whether the reserve of a terrace already carries the slice of a station of it, with curve slots that LDCURVE may have
replaced since (R109, R148). -/
def State.carriesCopy (s : State) (t : Nat) (v : Stn) : Bool :=
  match v.slice, (s.stn t 16).slice with
  | some a, some b => a.handle == b.handle && a.stage == b.stage
  | _, _ => false

/-- The copy has ended: the reserve carries the position from its own memories, and the station is retired (R148). -/
def State.takeOver (s : State) (t p : Nat) : State :=
  let v := s.stn t p
  let m := (s.rg (MAP_ASSIGNED t p), s.rg (MAP_HANDLE t p), s.rg (MAP_STAGE t p))
  let s := if s.carriesCopy t v then s else s.loadCurves t p
  let s := ((s.copySlots t p).loadReserve t p).wrs [(MAP_ASSIGNED t 16, m.1), (MAP_HANDLE t 16, m.2.1), (MAP_STAGE t 16, m.2.2),
    (SEQ_STATE_STATE t 16, if v.slice.isSome then 1 else 0)]
  let s := (s.setStn t 16 { v with curves := (s.stn t 16).curves }).clearStation t p
  let s := s.wrs [(TAKE_STATUS_PHASE t, 3), (MAP_RETIRED t p, 1), (SEQ_STATE_STATE t p, 7)]
  let s := (s.onTer t fun r => { r with copied := false }).movePorts t p
  (((s.logEntry 0x0002 0 (stnWhere t p) 1).count 10).postEvent 0x0051 0 (t + 256 * p)).rederive.recordStations

/-- The retired position returns to service (R148). -/
def State.giveBack (s : State) (t : Nat) : State :=
  let p := s.rg (TAKE_STATUS_POS t)
  let s := s.onTer t fun r => { r with restoreReq := false }
  if s.rg (TAKE_STATUS_PHASE t) ≠ 3 then s
  else if positions.any fun q => s.assigned t q then s.wr (TAKE_CTRL_ERR t) 1
  else
    let s := (s.wrs [(TAKE_STATUS_PHASE t, 0), (MAP_RETIRED t p, 0), (SEQ_STATE_STATE t p, 0)]).clearStation t 16
    (s.logEntry 0x0002 0 (stnWhere t p) 2).rederive.recordStations

/-- A terrace at the boundary. -/
def State.terBoundary (s : State) (t : Nat) : State :=
  let s := s.replayEnd t
  let s := match (s.ter t).pagesNext with
    | some n => (s.wr (TSTORE_CTRL_PAGES t) n).onTer t fun r => { r with pagesNext := none }
    | none => s
  let s := if s.rg (TAKE_STATUS_PHASE t) = 2 ∧ (s.ter t).copied then s.takeOver t (s.rg (TAKE_STATUS_POS t)) else s
  let s := match (s.ter t).takeReq with
    | some p =>
      let s := s.onTer t fun r => { r with takeReq := none, copied := false }
      (s.wrs [(TAKE_STATUS_PHASE t, 2), (TAKE_STATUS_POS t, p)]).logEntry 0x0002 0 (stnWhere t p) 0
    | none => s
  let s := if (s.ter t).restoreReq then s.giveBack t else s
  let s := match (s.ter t).takeNext with
    | some p => (s.onTer t fun r => { r with takeNext := none }).retire t p
    | none => s
  let s := s.wr (TFLAG_STATE_FLAGS t) 0
  (s.attTide t).onTer t fun r => { r with granted := false }

/-! ## Slices start (R20, R143, R153, R187) -/

/-- `SEQ.PHASE` writes take effect (R187). -/
def State.phasesNext (s : State) : State :=
  allStns.foldl (fun s q => match (s.stn q.1 q.2).phaseNext with
    | some v => (s.wr (SEQ_PHASE_PHASE q.1 q.2) v).onStn q.1 q.2 fun x => { x with phaseNext := none }
    | none => s) s

/-- A sequencer and its station set for a new tide: the state of R153, nothing under way. -/
def State.freshStation (s : State) (t p : Nat) (sl : Slice) : State :=
  let s := (s.restore t p sl.start).wrs [(SEQ_STATE_STATE t p, 2), (SEQ_STATE_CAUSE t p, 0), (CURVE_STATE_LOADING t p, 0),
    (VEC_STATE_BUSY t p, 0), (VEC_STATE_WIN_BUSY t p, 0)]
  let s := (List.range 64).foldl (fun s k => s.wrs [(SLOT_STAT_RWAIT t p k, 0), (SLOT_STAT_WWAIT t p k, 0)]) s
  s.onStn t p fun v => { v with
    curveLoad := none, lo := {}, hi := {}, ended := none, faults := [], halted := false
    last := sl.start, sigs := [], suppress := [] }

/-- The slice of an assigned position starts, in the reserve during a transfer tide (R148); `go`: its set's tide runs. -/
def State.startSlice (s : State) (t p : Nat) (go : Bool) : State :=
  match (s.stn t p).slice with
  | none => s
  | some sl =>
    let s := s.freshStation t p sl
    if ¬ go then s.wr (SEQ_STATE_STATE t p) 1
    else if s.carrier t p = 16 ∧ p < 16 then
      let v := s.stn t p
      let s := if s.carriesCopy t v then s else s.loadCurves t p
      let s := s.loadReserve t p
      let s := (s.setStn t 16 { s.stn t 16 with slice := some sl, chans := v.chans, blk := [] }).freshStation t 16 sl
      (s.wr (SEQ_STATE_STATE t p) 7).expRestart t 16 (s.rg (SEQ_PHASE_PHASE t 16) % 32768)
    else s.expRestart t p (s.rg (SEQ_PHASE_PHASE t p) % 32768)

/-- Whether the tide of the set of a slice runs. -/
def State.mayRun (s : State) (handle : Nat) : Bool :=
  match s.set? handle with
  | some x => !x.held
  | none => true

/-- Every slice starts, but those of held sets (R297). -/
def State.startSlices (s : State) : State :=
  allStns.foldl (fun s q => match (s.stn q.1 q.2).slice with
    | some sl => if q.2 = 16 ∧ s.rg (TAKE_STATUS_PHASE q.1) = 2 then s else s.startSlice q.1 q.2 (s.mayRun sl.handle)
    | none => s) s

/-- A shut barrier holds a tide-bound or training set (R297, R321). -/
def State.holdSets (s : State) : State :=
  (s.loader.sets.filter fun x => x.state == 2 && x.cls != 2).foldl (fun s x =>
    s.onSet x.handle fun y => { y with held := (s.setHeld x 0).isSome }) s

/-! ## The boundary -/

/-- Sets that are not assigned follow the newest layer versions. -/
def State.waitingVersions (s : State) : State :=
  (s.loader.sets.filter fun x => x.state != 2).foldl (fun s x => s.switchBinds x fun _ => true) s

/-- New layer versions are read from the boundary on by the STREAM bindings whose tide begins, or whose set is held at it
(R295, R296, R298), but not in a tide that is repeated. -/
def State.newVersions (s : State) (lost : ProgSet → Bool) : State :=
  (s.loader.sets.filter fun x => x.state == 2 && !(lost x && decide (0 < x.reps))).foldl (fun s x =>
    s.switchBinds x fun b => !b.resident && (x.cls != 2 || b.tidx == x.ph)) s

/-- Object values that waited for the boundary (R325, R350). -/
def State.laterObjs (s : State) : State :=
  let l := s.dict.later
  ({ s with dict := { s.dict with later := [] } } : State) |> fun s => l.foldl (fun s x => s.applyObj x.1 (natLE 2 x.2)) s

/-- Class-3 sets whose tide was abandoned repeat it (R257). -/
def State.trainRepeats (s : State) (ended : State) : State :=
  (ended.loader.sets.filter fun x => x.cls == 3 && ended.setLost x).foldl (fun s _ => s.bump GH_REPEAT) s

/-- Gatehouse objects take effect once every assigned token set has come to a pass boundary since they were written (R270).
DESIGN CHOICE: a register holds one value for every set, so it changes at the last of those boundaries. -/
def State.ghObjs (s : State) (lost : ProgSet → Bool) : State :=
  let s : State := { s with loader := { s.loader with sets := s.loader.sets.map fun x =>
    if x.owes ∧ (x.cls ≠ 2 ∨ x.state ≠ 2 ∨ s.passEnds x (lost x)) then { x with owes := false } else x } }
  if s.loader.sets.any fun x => x.owes then s
  else
    let l := s.loader.ghLater
    ({ s with loader := { s.loader with ghLater := [] } } : State) |> fun s => l.foldl (fun s x => s.applyObj x.1 (natLE 2 x.2)) s

/-- The commit of the ended tide `n` once the number has advanced; `ended`: the state at its end. -/
def State.commitTide (s : State) (ended : State) (n : Nat) : State :=
  let s := (s.resetStopped ended).applyDue ended
  let s := s.releaseStreams ended n
  let s := (s.audOutputs n ended.caseAt).aesOuts n ended.caseAt
  s.trainRepeats ended

/-- Sets, terraces and layers change (R143, R144, R148, R295 to R298). -/
def State.changeSets (s : State) : State :=
  let s := (List.range 12).foldl State.terBoundary s.laterObjs
  let s := allStns.foldl (fun s q => s.heldFlip q.1 q.2) s
  let s := s.removeSets.clearKeys
  s.waitingVersions.assignSets.switchSets.phasesNext.countRows

/-- The tide that begins: passes, barriers, slices, ports, parameters. -/
def State.beginTide (s : State) (ended : State) (ran : Bool) : State :=
  let lost (x : ProgSet) : Bool := ran && match ended.set? x.handle with
    | some y => ended.setLost y
    | none => false
  let s := (((s.ghObjs lost).gateBoundary lost (ended.on TIDE_APPLY_HI_PEND)).newVersions lost)
  let s := s.closeInplace.freeOldLayers.holdSets
  let s := (s.startSlices.dmaFlags.audBoundary).vinBoundary
  let r := s.ringBoundary fun t p => ran && !ended.stageOk { t := t, p := p }
  let s := r.1.foldl (fun s q =>
    let p := s.land q.1 q.2
    let c := s.carrier q.1 p
    match (s.stn q.1 c).slice with
    | none => s
    | some sl => ((s.onStn q.1 c fun v => { v with halted := true }).wr (SEQ_STATE_STATE q.1 c) 6).haltConsumers sl.handle 204
        [(q.1, p)]) r.2
  let s := s.stageParams.poolTide
  s.checkBooks (s.booksBad + 8 * b2n s.ghOver)

/-- RUN is 0: the slices do not run and the generator stops (R56, R59). -/
def State.stopTides (s : State) : State :=
  let s := allStns.foldl (fun s q => if (s.stn q.1 q.2).slice.isSome then s.wr (SEQ_STATE_STATE q.1 q.2) 1 else s) s
  let s := s.loader.sets.foldl (fun s x => if x.state = 2 then s.onSet x.handle fun y => { y with held := true } else s) s
  (s.tideAnswers stOk).generatorStop

/-- A tide boundary; no boundary falls while the generator is stopped or waits for its source. -/
def State.tideBoundary (s : State) : State :=
  if ¬ s.boundaryDue then s
  else
    let ran := s.tide.running
    let n := s.rg TIDE_NUM
    let ended := if ran then s.commitWindow.audClose else s
    let s := ended.advanceTide
    let s := if ran then s.commitTide ended n else s.applyDue ended
    let s := s.changeSets.beginTide ended ran
    if s.on TIDE_CTRL_RUN then s else s.stopTides

def execTideBoundary (s : State) : Res := .next s.tideBoundary

end Sys2Proof.Machine
end

