-- ==== Sys2Proof/Machine/Bus.lean ====
section
/-! DEFINITION. The bus: reads and writes of registers by the host and by the firmware cores, register pairs, the fabric
firewall, the BAR2 aperture and the MSI-X table (R6 to R9, R23 to R29, R454, R455). -/

namespace Sys2Proof.Machine

/-- Whether the host reaches the registers: the link is up and the compute die is out of reset. -/
def State.hostReach (s : State) : Bool := s.pins.compute && s.pins.pcie

/-- Requester `r`, 0 the host, k + 1 firmware core k, 6 the lighthouse core, can issue a request: a core that does not run
issues none. -/
def State.mayAsk (s : State) (r : Nat) : Bool :=
  if r = 0 then s.hostReach else if r = 6 then s.pins.control && s.pins.compute && s.ef.running.isSome else s.coreRuns (r - 1)

/-- The blocks of the compute die that the lighthouse core reaches: identity, power and clocks (R24's table of reach). -/
def lhReach (off : Nat) : Bool := decide (off < 0x100000 ∨ (0xE00000 ≤ off ∧ off < 0xF00000))

def State.answered (s : State) (r : Reply) : State := { s with reply := r }

/-- UNALIGNED_BAR0_ACCESS (R6): `size` bytes at byte offset `off`. An aligned 32-bit access is no such access. -/
def execUnalignedBar0Access (off : BitVec 26) (size : Fin 65) (s : State) : Res :=
  .next (if size.val = 4 ∧ off.toNat % 4 = 0 then s else s.answered .ur)

/-! ## Register pairs (R7) -/

/-- The low offset of the register pair that holds a word, and whether the word is its high half. `TIDE.APPLY`,
`HRING.APER` and `NAND.RRT[i]` are pairs beside the 64-bit quantities of the tables. -/
def pairAt (off : Nat) : Option (Nat × Bool) :=
  if off = 0x100008 ∨ off = 0xC00100 then some (off, false)
  else if off = 0x10000C ∨ off = 0xC00104 then some (off - 4, true)
  else if 0x800040 ≤ off ∧ off < 0x8000C0 then some (off / 8 * 8, off % 8 == 4)
  else match (fieldsAt off).find? fun f => decide (32 < f.w) with
    | some f => some (f.off, f.off != off)
    | none => none

/-- The key of a latch or a held word: 8 times the pair's low offset, plus the requester. -/
def busKey (lo r : Nat) : Nat := 8 * lo + r

/-! ## Reads -/

/-- The word that a read returns: the plain fields, and the words that show other state. -/
def State.readWord (s : State) (off : Nat) : Nat :=
  if off = 0x000004 then (if s.fac.variant = 1 then 48 else 96) * 65536 + s.fac.grade * 256 + s.fac.variant
  else if off = 0x000008 then s.fac.serial % 2 ^ 32
  else if off = 0x00000C then s.fac.serial / 2 ^ 32 % 2 ^ 32
  else if off = 0x100010 then s.word off - 8 * s.rg TIDE_STATUS_TIME_VALID + 8 * s.rg TIME_SYNC_VALID
  else if 0xB00C00 ≤ off ∧ off < 0xB01400 then leAt (s.aesDesc ((off - 0xB00C00) / 32)) (off % 32) 4
  else if off = 0xC00020 then s.featUse % 2 ^ 32
  else if off = 0xC00024 then s.featUse / 2 ^ 32
  else if 0xD00010 ≤ off ∧ off < 0xD00028 then s.fqWord ((off - 0xD00010) / 4)
  else if off = 0xE0000C then s.word off ||| 8
  else s.word off

/-- The RC fields of a word are cleared by the read (R9). -/
def State.readClears (s : State) (off : Nat) : State :=
  (fieldsAt off).foldl (fun s f => if f.acc = .rc then s.wr f 0 else s) s

/-- REG64_LOW_READ: a read of the word `i`; of the low word of a pair it latches the high word for the requester. -/
def State.readLow (s : State) (r off : Nat) : State :=
  let v := s.readWord off
  let s := match pairAt off with
    | some (lo, false) => { s with bus := { s.bus with latch := s.bus.latch.set (busKey lo r) (s.readWord (lo + 4) + 1) 0 } }
    | _ => s
  (s.readClears off).answered (.ok v)

/-! ### BAR4 and the configuration header (R5, R26) -/

/-- A word of BAR4: the MSI-X table, 64 entries of 16 bytes, and the pending-bit array. -/
def State.bar4Word (s : State) (i : Nat) : Nat :=
  if i < 256 then s.fw.msix.get i (if i % 4 = 3 then 1 else 0)
  else if i = 0x2000 then s.fw.pba % 2 ^ 32 else if i = 0x2001 then s.fw.pba / 2 ^ 32 % 2 ^ 32 else 0

/-- The writable bits of base address register `b`, and the type bits it reads with: BAR0 with BAR1 64 MiB, BAR2 with BAR3
4 GiB prefetchable, both in 64-bit memory, BAR4 64 KiB in 32-bit memory, BAR5 not implemented (R26). -/
def barMask (b : Nat) : Nat := [0xFC000000, 0xFFFFFFFF, 0, 0xFFFFFFFF, 0xFFFF0000, 0].getD b 0
def barType (b : Nat) : Nat := [0x4, 0, 0xC, 0, 0, 0].getD b 0

/-- A word of the configuration header: vendor and device, the base address registers; the rest is not in the manual and
reads as 0. -/
def State.configWord (s : State) (i : Nat) : Nat :=
  if i = 0 then 0x32801DF3
  else if 4 ≤ i ∧ i ≤ 9 then s.fw.bars.get (i - 4) 0 + barType (i - 4) else 0

/-- A write of the configuration header. -/
def State.configWrite (s : State) (i w : Nat) : State :=
  if 4 ≤ i ∧ i ≤ 9 then { s with fw := { s.fw with bars := s.fw.bars.set (i - 4) (w &&& barMask (i - 4)) 0 } } else s

/-- A read by requester `r`: the lighthouse core's breach of its reach is an address error (R23). -/
def State.read32 (s : State) (sp : Space) (r i : Nat) (f : State → State) : State :=
  if ¬ s.mayAsk r then (if r = 0 then s.answered .ur else s)
  else match sp with
    | .bar4 => if r = 0 then s.answered (.ok (s.bar4Word i)) else s
    | .config => if r = 0 then s.answered (.ok (s.configWord i)) else s
    | .bar0 => if r = 6 ∧ ¬ lhReach (4 * i) then s.addrError.answered (.ok 0) else f s

def execReg64LowRead (r : Fin 7) (a : BusWord) (s : State) : Res :=
  .next (s.read32 a.sp r.val a.i.toNat fun s => s.readLow r.val (4 * a.i.toNat))

/-- REG64_HIGH_READ: a read of the high word of a pair returns what is latched for the requester, once, or the current
word; any other word reads as itself. -/
def State.readHigh (s : State) (r off : Nat) : State :=
  match pairAt off with
  | some (lo, true) =>
    let v := s.bus.latch.get (busKey lo r) 0
    if v = 0 then (s.readClears off).answered (.ok (s.readWord off))
    else
      let s : State := { s with bus := { s.bus with latch := s.bus.latch.set (busKey lo r) 0 0 } }
      (s.readClears off).answered (.ok (v - 1))
  | _ => s.readLow r off

def execReg64HighRead (r : Fin 7) (i : BitVec 24) (s : State) : Res :=
  .next (s.read32 .bar0 r.val i.toNat fun s => s.readHigh r.val (4 * i.toNat))

/-! ## Writes of single words -/

/-- The access codes applied to the fields of a word (R8, R9). -/
def State.plainWrite (s : State) (off w : Nat) : State :=
  (fieldsAt off).foldl (fun s f =>
    let v := w / 2 ^ f.lo % 2 ^ f.w
    match f.acc with
    | .rw => s.wr f (f.take (s.rg f) v)
    | .w1c => s.wr f (s.rg f - (s.rg f &&& v))
    | _ => s) s

/-- The event register that an event-enable register at `off` enables, and the block's vector (R59, R517, R534). -/
def eventOf (off : Nat) : Option (Nat × Nat) :=
  if off = 0x100018 then some (0x100014, 10) else if off = 0xD00004 then some (0xD00000, 11)
  else if off = 0xE00014 then some (0xE00010, 12) else none

/-- A write of an enable register: a bit that becomes 1 in both registers raises the block's vector (R59, R517, R534). -/
def State.enableWrite (s : State) (off w : Nat) : State :=
  let t := s.plainWrite off w
  match eventOf off with
  | some (ev, v) => if (t.word ev &&& t.word off) &&& (s.word ev &&& s.word off) ≠ t.word ev &&& t.word off then t.raise v else t
  | none => t

/-- The write is applied and the figures that follow from it are computed again. -/
def State.plainDerive (s : State) (off w : Nat) : State := (s.plainWrite off w).rederive

/-- `GH.CTRL`: a DRAM_SHARE that exceeds 95 with WSHARE is discarded (R317). -/
def State.ghCtrl (s : State) (w : Nat) : State :=
  let n := s.takeFields w [GH_CTRL_EN, GH_CTRL_REPEATS, GH_CTRL_THIN_PCT, GH_CTRL_SHED_PCT, GH_CTRL_DRAM_SHARE]
  (if 95 < n.rg GH_CTRL_DRAM_SHARE + n.rg TIER_CTRL_WSHARE then s.wr TIER_CTRL_ERR 1 else n).rederive

/-- `GH.HOST`: ALIVE marks the host alive (R261, R263). -/
def State.ghHost (s : State) (w : Nat) : State :=
  let s := s.takeFields w [GH_HOST_LIVE_MS]
  if bit w 31 then s.doorbell.wr GH_HOST_LOST 0 else s

/-- `TIER.CTRL`: a WSHARE that exceeds 95 with DRAM_SHARE is discarded (R317). -/
def State.tierCtrl (s : State) (w : Nat) : State :=
  let s := if bit w 15 then s.wr TIER_CTRL_ERR 0 else s
  let n := s.takeFields w [TIER_CTRL_EN, TIER_CTRL_WSHARE]
  (if 95 < n.rg GH_CTRL_DRAM_SHARE + n.rg TIER_CTRL_WSHARE then s.wr TIER_CTRL_ERR 1 else n).rederive

/-- A write of FLOOR or CEIL of a client (R308). -/
def State.clientWrite (s : State) (c off w : Nat) : State :=
  let n := s.plainWrite off w
  let sum := (List.range 64).foldl (fun a c => a + n.rg (TIER_CLIENT_FLOOR c)) 0
  if n.rg TIER_POOL_DRAM < sum ∨ n.rg (TIER_CLIENT_CEIL c) < n.rg (TIER_CLIENT_FLOOR c) then s.wr TIER_CTRL_ERR 1 else n

/-- A byte range lies in board DRAM and in protected regions; an empty one does. -/
def State.areaOk (s : State) (a n : Nat) : Bool :=
  n == 0 || (s.inDram a n && (List.range ((a + n - 1 - dramBase) / 2 ^ 26 + 1 - (a - dramBase) / 2 ^ 26)).all fun i =>
    s.protectedAt (((a - dramBase) / 2 ^ 26 + i) * 2 ^ 26))

/-- The areas of the page store: base and bytes (R219). -/
def State.psAreas (s : State) : List (Nat × Nat) :=
  [(s.rg PS_KV_BASE, 16384 * s.rg PS_KV_PAGES), (s.rg PS_SEQ_BASE, 65536), (s.rg PS_PT_BASE, 512 * s.rg PS_PT_ROWS),
    (s.rg PS_INFO_BASE, 8 * s.rg PS_KV_PAGES)]

/-- The 64 KiB pages that the page store's areas take, as runs without overlap. -/
def State.psRuns (s : State) : List (Nat × Nat) :=
  let l := (s.psAreas.filter fun a => a.2 != 0 && s.areaOk a.1 a.2).map fun a => (a.1 / 65536, ceilDiv (a.1 % 65536 + a.2) 65536)
  l.foldl (fun a r => a.filter (fun x => decide (x.1 + x.2 < r.1 ∨ r.1 + r.2 < x.1)) ++
    [(a.filter fun x => !decide (x.1 + x.2 < r.1 ∨ r.1 + r.2 < x.1)).foldl (fun y x =>
      (min x.1 y.1, max (x.1 + x.2) (y.1 + y.2) - min x.1 y.1)) r]) []

/-- Whether client 1 may hold a run of pages: none of them is held by another client (R306). -/
def State.runFree (s : State) (r : Nat × Nat) : Bool :=
  !(s.pool.areas.any fun a => a.1 != 1 && decide (a.2.1 < r.1 + r.2 ∧ r.1 < a.2.1 + a.2.2)) &&
    !(s.pool.pages.any fun p => p.t1.any fun g => decide (r.1 ≤ g ∧ g < r.1 + r.2))

/-- A base or a size of the page store written: discarded while pages are held, or when an area that it moves leaves the
protected regions; otherwise client 1 holds the new areas (R219, R239, R308). DESIGN CHOICE: an area over pages of another
client is discarded too (R306). A new KV_PAGES makes as many pages free, which are on no list before INIT (R236, R240). -/
def State.psSet (s : State) (f : Fld) (v : Nat) (areas : List Nat) : State :=
  let n := s.wr f (f.take (s.rg f) v)
  let ok := areas.all fun i => let a := n.psAreas.getD i (0, 0); n.areaOk a.1 a.2
  if s.rg PS_IN_USE ≠ 0 ∨ s.rg PS_PENDING ≠ 0 ∨ ¬ ok ∨ 4194304 < n.rg PS_KV_PAGES ∨ ¬ n.psRuns.all n.runFree then
    s.wr PS_CTRL_ERR 1
  else
    let n := if f = PS_KV_PAGES then n.wrs [(PS_FREE, n.rg PS_KV_PAGES), (PS_RESV, 0)] else n
    ({ n with pool := { n.pool with areas := n.pool.areas.filter (fun a => a.1 != 1) ++ n.psRuns.map fun r => (1, r.1, r.2) } } :
      State).books

/-- `PS.CMD`: OP 0 INIT, 1 ALLOC, 2 SHARE, 3 FREE, 4 RESERVE, 5 UNRESERVE, 6 POISON, 7 UNPOISON (R240). -/
def State.psCmd (s : State) (w : Nat) : State :=
  let s := s.takeFields w [PS_CMD_OP, PS_CMD_RES, PS_CMD_ARG]
  let arg := bits w 0 22
  if ¬ bit w 31 then s
  else match bits w 27 3 with
    | 0 => s.psInit
    | 1 => s.psAlloc (bit w 26)
    | 2 => s.psShare arg
    | 3 => s.psFree arg
    | 4 => s.psReserve arg
    | 5 => s.psUnreserve arg
    | 6 => s.psPoison arg true
    | _ => s.psPoison arg false

/-- `PS.INV` (R222). -/
def State.psInv (s : State) (w : Nat) : State :=
  if bit w 31 then s.labDrop fun e => bit w 29 || e.seq == bits w 0 11 else s

/-- `DMA.CH[c].RING`: EN written 1 lets a halted channel go on; ABORT ends the active descriptor, whose issued writes reach
an open place (R363). -/
def State.dmaRing (s : State) (c w : Nat) : State :=
  let s := s.takeFields w [DMA_RING_EN c, DMA_RING_SIZE c]
  let s := if bit w 31 then s.wr (DMA_RING_HALTED c) 0 else s
  if bit w 29 then (let x := s.free; x.2.dmaAbort c x.1) else s

/-- `VIN.CTX[c].MSIZE` and MOUT are written only while DLV.MODE is 0 (R387). -/
def State.vinCtxWrite (s : State) (c x off w : Nat) : State :=
  if (x = 0x0C ∨ x = 0x10) ∧ s.rg (VIN_CTX_DLV_MODE c) ≠ 0 then s.bump (VIN_CTX_PSETERR c)
  else if 0x08 ≤ x ∧ x ≤ 0x1C then s.vinWrite c w ((fieldsAt off).filter fun f => f.acc = .rw)
  else s.plainWrite off w

/-- `WIN[w].CTRL`: EN cleared closes the window. -/
def State.winCtrl (s : State) (win off w : Nat) : State :=
  let s := s.plainWrite off w
  if s.on (WIN_CTRL_EN win) then s else s.winClear win

/-- The words of `FW.CORE[k]`: CTRL for the cores of the compute die, and KICK, which counts only from core k (R470, R473). -/
def State.coreWrite (s : State) (r k x w : Nat) : State :=
  if 5 ≤ k then s
  else if x = 0 then
    let n := bits w 0 8
    let s := if n = 0 ∨ (k = 3 ∧ 50 < n) then s else s.wr (FW_CORE_CTRL_WDOG_MS k) n
    if bit w 31 then s.restartCore k 3 else s
  else if x = 8 ∧ r = k + 1 then { s with fw := { s.fw with kicks := s.fw.kicks.set k s.uptime 0 } }
  else s

/-- `EF.UPD_CTRL` (R488, R496). -/
def State.updCtrl (s : State) (w : Nat) : State :=
  let s := s.wr EF_UPD_CTRL_CHUNK (bits w 0 9)
  let s := if bit w 28 then s.updAbort else s
  let s := if bit w 31 then s.updStart else s
  let s := if bit w 30 then s.updChunk (bits w 0 9) else s
  let s := if bit w 29 then s.updCommit else s
  if bit w 27 ∧ s.ef.running.isSome then s.lighthouseAsked else s

/-- The words of queue pair `q` (R462 to R464). -/
def State.queueWrite (s : State) (q x off w : Nat) : State :=
  if x = 0x10 then (if bit w 31 then s.queueOpenWrite q w else s.queueClose q w)
  else if x = 0x14 then s.sqTail q (w % 65536)
  else if x = 0x18 then s.cqHead q (w % 65536)
  else s.plainWrite off w

/-- A word of a station's registers. -/
def State.stnWrite (s : State) (t p x off w : Nat) : State :=
  if x = 0x000C then s.onStn t p fun v => { v with phaseNext := some (w % 65536) }
  else if x = 0x0808 then s.arrayRepair t p w
  else if x = 0x0A08 then s.memPass t p w
  else if 0x0C00 ≤ x ∧ x < 0x0E00 ∧ s.assigned t p then s
  else s.plainWrite off w

/-- A word of a terrace's common registers. -/
def State.terWrite (s : State) (t x off w : Nat) : State :=
  if x = 0 then s.tstorePages t w
  else if x = 0x40 then
    let s := if bit w 29 then s.wr (TAKE_CTRL_ERR t) 0 else s
    s.takeCtrl t (bit w 31) (bit w 30) (bits w 0 4)
  else if x = 0x104 then s.tflagForce t w
  else if 0x400 ≤ x ∧ x < 0x600 then
    s.frameWrite t ((x - 0x400) / 4) w (bit w 30) (bit w 27)
  else s.plainWrite off w

/-- A word of the blocks below 0x090_0000. -/
def State.lowBlocks (s : State) (off w : Nat) : State :=
  if off = 0x000014 then (if bit w 31 ∧ w % 256 = 0xA5 then s.askReset 2 24 else s)
  else if off = 0x100000 then (s.tideCtrlWrite w).idleAnswers
  else if off = 0x100004 then s.setTide TIDE_PERIOD_PERIOD w
  else if off = 0x200000 then s.ghCtrl w
  else if off = 0x200004 then s.ghHost w
  else if off = 0x208008 then s.psSet PS_KV_PAGES w [0, 3]
  else if off = 0x208018 then s.psSet PS_PT_ROWS w [2]
  else if off = 0x208034 then s.psCmd w
  else if off = 0x20803C then s.psInv w
  else if 0x500100 ≤ off ∧ off < 0x500500 then
    let c := (off - 0x500100) / 0x40
    let x := off % 0x40
    if x = 0x08 then s.dmaRing c w else if x = 0x0C then s.dmaProd c (w % 4096) else s.plainWrite off w
  else if off = 0x600000 then s.tierCtrl w
  else if 0x600100 ≤ off ∧ off < 0x600900 then
    let x := off % 32
    if x = 4 ∨ x = 8 then s.clientWrite ((off - 0x600100) / 32) off w else s.plainWrite off w
  else if 0x700010 ≤ off ∧ off < 0x700050 then s.protWrite ((off - 0x700010) / 8) (off % 8 == 4) w
  else if off = 0x70005C then
    let s := if bit w 30 then s.wr DRAM_ELOG_LOST 0 else s
    if bit w 31 then s.elogPop else s
  else s.enableWrite off w

/-- A word of the blocks from 0x090_0000 to 0x0FF_FFFF, by requester `r`. -/
def State.highBlocks (s : State) (r off w : Nat) : State :=
  if off < 0x900400 then
    let p := (off - 0x900000) / 0x100
    let x := off % 0x100
    if x = 0 then s.vinPortWrite p false w else if x = 4 then s.vinPortWrite p true w else s.plainWrite off w
  else if off = 0x900400 then s.vinMux w
  else if 0x900800 ≤ off ∧ off < 0x900A00 then s.vinCtxWrite ((off - 0x900800) / 0x80) (off % 0x80) off w
  else if off = 0xA00000 then s.audClkWrite w
  else if off = 0xB00000 ∨ off = 0xB00008 then (s.plainDerive off w).leaveBypass
  else if off = 0xB0001C then s.ringForce (bits w 31 1)
  else if 0xB00400 ≤ off ∧ off < 0xB00C00 ∧ off % 0x20 = 0 then s.winCtrl ((off - 0xB00400) / 0x20) off w
  else if off = 0xC00000 then s.modeWrite w
  else if off = 0xC00004 then s.negotiate w
  else if 0xC00040 ≤ off ∧ off < 0xC000A0 then s.coreWrite r ((off - 0xC00040) / 0x10) (off % 0x10) w
  else if off = 0xC000A8 then s.fwLoad w
  else if off = 0xC00188 then s.eventRing w
  else if off = 0xC0018C then s.eventHead (w % 65536)
  else if 0xC00200 ≤ off ∧ off < 0xC00300 then s.queueWrite ((off - 0xC00200) / 0x20) (off % 0x20) off w
  else if off = 0xD0000C then (if bit w 31 then s.fqPop else s)
  else if off = 0xD00030 then s.srepWrite w
  else if 0xD00100 ≤ off ∧ off < 0xD00130 then s.plainDerive off w
  else if off = 0xE00000 then s.pwrCtrl w
  else if off = 0xF00000 then s.mbxGo w
  else if off = 0xF08008 then s.updCtrl w
  else if 0xF0C000 ≤ off ∧ off < 0xF0D000 then { s with ef := { s.ef with stage := s.ef.stage.store (off - 0xF0C000) (natLE 4 w) } }
  else s.enableWrite off w

/-- A 32-bit write of a word that is no half of a pair, by requester `r`. -/
def State.wordWrite (s : State) (r off w : Nat) : State :=
  if off < 0x900000 then s.lowBlocks off w
  else if off < 0x1000000 then s.highBlocks r off w
  else
    let t := (off - 0x1000000) / 0x200000
    let x := (off - 0x1000000) % 0x200000
    if 12 ≤ t then s
    else if x < 0x110000 then s.stnWrite t (x / 0x10000) (x % 0x10000) off w
    else if 0x180000 ≤ x then s.terWrite t (x - 0x180000) off w
    else s

/-! ## Writes of pairs -/

/-- The aperture written (R28). `lo`: the held low word. -/
def State.aperWrite (s : State) (lo : Option Nat) (hi : Nat) : State :=
  let blo := (lo.map fun w => bits w 20 12).getD (s.rg HRING_APER_LO_BASE_LO)
  let en := (lo.map fun w => bits w 0 1).getD (s.rg HRING_APER_LO_EN)
  let base := hi % 65536 * 2 ^ 32 + blo * 2 ^ 20
  if base < dramBase ∨ dramBase + s.dramSize < base + 0x100000000 then s.wr HRING_APER_LO_ERR 1
  else
    let s := if (lo.map fun w => bit w 1).getD false then s.wr HRING_APER_LO_ERR 0 else s
    s.wrs [(HRING_APER_LO_BASE_LO, blo), (HRING_APER_LO_EN, en), (HRING_APER_HI_BASE_HI, hi)]

/-- Both halves of the pair at `lo` take effect; without a held low word the low half keeps its value (R7). -/
def State.pairWrite (s : State) (lo : Nat) (held : Option Nat) (hi : Nat) : State :=
  let wide (f : Fld) : Nat := held.getD (s.rg f % 2 ^ 32) + hi * 2 ^ 32
  if lo = 0x100008 then s.applyWrite (held.getD (s.rg TIDE_APPLY_LO_TIDE_LO)) hi
  else if lo = 0x100048 then s.setTide TIME_ORIGIN (wide TIME_ORIGIN)
  else if lo = 0x100058 then
    ({ s with tide := { s.tide with ppsArmed := true } } : State).wr TIME_PPS_SET (wide TIME_PPS_SET)
  else if lo = 0x208000 then s.psSet PS_KV_BASE (wide PS_KV_BASE) [0]
  else if lo = 0x208010 then s.psSet PS_PT_BASE (wide PS_PT_BASE) [2]
  else if lo = 0x208020 then s.psSet PS_SEQ_BASE (wide PS_SEQ_BASE) [1]
  else if lo = 0x208028 then s.psSet PS_INFO_BASE (wide PS_INFO_BASE) [3]
  else if lo = 0xC00100 then s.aperWrite held hi
  else if 0x800040 ≤ lo ∧ lo < 0x8000C0 then
    (match held with
      | some w => s.plainWrite lo w
      | none => s).plainWrite (lo + 4) hi
  else match (fieldsAt lo).find? fun f => f.off == lo && decide (32 < f.w) && f.acc == .rw with
    | some f => s.wr f (f.take (s.rg f) (wide f))
    | none => s

/-! ## The fabric firewall (R454, R455) -/

/-- The DMA channel whose registers hold a word. -/
def dmaChAt (off : Nat) : Option Nat := if 0x500100 ≤ off ∧ off < 0x500500 then some ((off - 0x500100) / 0x40) else none

/-- Whether a word lies in the registers of a terrace's attention unit. -/
def attWord (off : Nat) : Bool :=
  let x := (off - 0x1000000) % 0x200000
  decide (0x1000000 ≤ off ∧ 0x180200 ≤ x ∧ x < 0x180600)

/-- Whether core `k` may write the word at `off`. -/
def coreMay (k off : Nat) : Bool :=
  let c := dmaChAt off
  let inBlk (a b : Nat) : Bool := decide (a ≤ off ∧ off < b)
  off == 0xC00048 + 0x10 * k ||
  (if k = 0 then inBlk 0 0x100000 || inBlk 0x100200 0x100400 || inBlk 0x400000 0x500000 || inBlk 0xC00000 0xE00000 ||
      inBlk 0xF00000 0x1000000 || (inBlk 0x1000000 0x2800000 && !attWord off) || c.any fun c => decide (c < 4)
    else if k = 1 then inBlk 0x200000 0x300000 || attWord off || c.any fun c => decide (4 ≤ c ∧ c < 8)
    else if k = 2 then inBlk 0x600000 0x900000 || c.any fun c => decide (8 ≤ c ∧ c < 12)
    else if k = 3 then inBlk 0xB00000 0xC00000 || inBlk 0x100000 0x100200 || c.any fun c => decide (14 ≤ c)
    else inBlk 0x900000 0xB00000 || c.any fun c => decide (12 ≤ c ∧ c < 14))

/-- A core's access fault: counted, and the core restarts with cause ACCESS (R455). -/
def State.coreFault (s : State) (k : Nat) : State :=
  ((s.bump INT_FW_FAULT).flag INT_EVENT_ACCESS INT_EVENT_EN_ACCESS 11).restartCore k 2

/-- A write by requester `r`, once the requester may ask and the firewall lets it pass. -/
def State.guarded (s : State) (r off : Nat) (f : State → State) : State :=
  if ¬ s.mayAsk r then (if r = 0 then s.answered .ur else s)
  else if r = 6 ∧ ¬ lhReach off then s.addrError.answered (.ok 0)
  else if r ≠ 0 ∧ r ≠ 6 ∧ ¬ coreMay (r - 1) off then (s.coreFault (r - 1)).answered (.ok 0)
  else (f s).answered .none

/-- The low word of a pair is held until the high word is written (R7). -/
def State.holdLow (s : State) (r lo w : Nat) : State :=
  { s with bus := { s.bus with held := s.bus.held.set (busKey lo r) (w + 1) 0 } }

/-- The high word of a pair takes effect with what is held. -/
def State.putHigh (s : State) (r lo w : Nat) : State :=
  let h := s.bus.held.get (busKey lo r) 0
  let s : State := { s with bus := { s.bus with held := s.bus.held.set (busKey lo r) 0 0 } }
  s.pairWrite lo (if h = 0 then none else some (h - 1)) w

/-- A write of any word: a half of a pair, or a word of its own. -/
def State.anyWrite (s : State) (r off w : Nat) : State :=
  match pairAt off with
  | some (lo, false) => s.holdLow r lo w
  | some (lo, true) => s.putHigh r lo w
  | none => s.wordWrite r off w

/-- REG64_LOW_WRITE. -/
def execReg64LowWrite (r : Fin 7) (i : BitVec 24) (w : BitVec 32) (s : State) : Res :=
  .next (s.guarded r.val (4 * i.toNat) fun s => match pairAt (4 * i.toNat) with
    | some (lo, false) => s.holdLow r.val lo w.toNat
    | _ => s)

/-- REG64_HIGH_WRITE. -/
def execReg64HighWrite (r : Fin 7) (i : BitVec 24) (w : BitVec 32) (s : State) : Res :=
  .next (s.guarded r.val (4 * i.toNat) fun s => match pairAt (4 * i.toNat) with
    | some (lo, true) => s.putHigh r.val lo w.toNat
    | _ => s)

/-- APER_HI_WRITE: the host writes `HRING.APER_HI` (R28). -/
def execAperHiWrite (w : BitVec 32) (s : State) : Res := .next (s.guarded 0 0xC00104 fun s => s.putHigh 0 0xC00100 w.toNat)

/-! ## The MSI-X table and BAR2 -/

/-- A word of BAR4: unmasking a vector whose pending bit is set sends it. The pending-bit array is not written. -/
def State.bar4Write (s : State) (i w : Nat) : State :=
  if 256 ≤ i then s
  else
    let v := if i % 4 = 3 then w % 2 else w
    let s : State := { s with fw := { s.fw with msix := s.fw.msix.set i v (if i % 4 = 3 then 1 else 0) } }
    if i % 4 = 3 ∧ v = 0 ∧ bit s.fw.pba (i / 4) then
      ({ s with fw := { s.fw with pba := s.fw.pba - 2 ^ (i / 4) } } : State).emit (.msix (i / 4))
    else s

/-- REGISTER_WRITE: a 32-bit write by requester `r` of word `i` of the register space; of BAR4 or of the configuration header
by the host. -/
def execRegisterWrite (sp : Space) (r : Fin 7) (i : BitVec 24) (w : BitVec 32) (s : State) : Res :=
  .next (match sp with
    | .bar4 => if s.hostReach ∧ r.val = 0 then s.bar4Write i.toNat w.toNat else s
    | .config => if s.hostReach ∧ r.val = 0 then s.configWrite i.toNat w.toNat else s
    | .bar0 => s.guarded r.val (4 * i.toNat) fun s => s.anyWrite r.val (4 * i.toNat) w.toNat)

/-- BAR2_REQUEST (R28, R29): a read of `n` bytes, or a write of `b`, at offset `off` of the aperture. An uncorrectable
protected unit is delivered with its poison mark (R329). -/
def State.bar2 (s : State) (read : Bool) (off n : Nat) (b : List Byte) : State :=
  let len := if read then n else b.length
  let a := s.rg HRING_APER_HI_BASE_HI * 2 ^ 32 + s.rg HRING_APER_LO_BASE_LO * 2 ^ 20 + off
  if ¬ s.hostReach ∨ ¬ s.on HRING_APER_LO_EN ∨ 2 ^ 32 < off + len then s.answered .ur
  else if ¬ s.inDram a len then s.addrError.answered .ur
  else if read then
    let r := s.dramRead 28 a n
    r.2.answered (if r.1.2 then .poison r.1.1 else .bytes r.1.1)
  else (s.dramWrite 28 a b).answered .none

def execBar2Request (read : Bool) (off : BitVec 32) (n : BitVec 13) (b : List Byte) (s : State) : Res :=
  .next (s.bar2 read off.toNat n.toNat b)

end Sys2Proof.Machine
end

