-- ==== Sys2Proof/Machine/All.lean ====
section
/-! DEFINITION. Every family of commands, gathered for the dispatcher. -/
end

