-- ==== Sys2Proof/Machine/Dispatch.lean ====
section
/-! DEFINITION. The dispatcher: one arm per command, each a direct call of its meaning. -/

namespace Sys2Proof.Machine

/-- The effect of a command on everything but the queue. -/
def exec (i : Instr) (s : State) : Host.Outcome State Fault Refusal :=
  match i with
  | .unalignedBar0Access off size => Sys2Proof.Machine.execUnalignedBar0Access off size s
  | .reg64LowRead r j => Sys2Proof.Machine.execReg64LowRead r j s
  | .reg64HighRead r j => Sys2Proof.Machine.execReg64HighRead r j s
  | .reg64LowWrite r j w => Sys2Proof.Machine.execReg64LowWrite r j w s
  | .reg64HighWrite r j w => Sys2Proof.Machine.execReg64HighWrite r j w s
  | .registerWrite sp r j w => Sys2Proof.Machine.execRegisterWrite sp r j w s
  | .aperHiWrite w => Sys2Proof.Machine.execAperHiWrite w s
  | .bar2Request read off n b => Sys2Proof.Machine.execBar2Request read off n b s
  | .powerOnReset train b => Sys2Proof.Machine.execPowerOnReset train b s
  | .moduleReset => Sys2Proof.Machine.execModuleReset s
  | .warmReset obj w train => Sys2Proof.Machine.execWarmReset obj w train s
  | .computeDieReset train => Sys2Proof.Machine.execComputeDieReset train s
  | .functionLevelReset => Sys2Proof.Machine.execFunctionLevelReset s
  | .tideBoundary => Sys2Proof.Machine.execTideBoundary s
  | .schedulableEnd cyc z => Sys2Proof.Machine.execSchedulableEnd cyc z s
  | .commitWindowOpen => Sys2Proof.Machine.execCommitWindowOpen s
  | .wclkEdge dt => Sys2Proof.Machine.execWclkEdge dt s
  | .wclkLossTimeout => Sys2Proof.Machine.execWclkLossTimeout s
  | .gptpFrameReceive port offset bound => Sys2Proof.Machine.execGptpFrameReceive port offset bound s
  | .ppsInEdge dt => Sys2Proof.Machine.execPpsInEdge dt s
  | .ppsOutSecond => Sys2Proof.Machine.execPpsOutSecond s
  | .tideSettingWrite which v => Sys2Proof.Machine.execTideSettingWrite which v s
  | .tideRunSet w => Sys2Proof.Machine.execTideRunSet w s
  | .tideRunClear w => Sys2Proof.Machine.execTideRunClear w s
  | .applyArm tide => Sys2Proof.Machine.execApplyArm tide s
  | .applyCancel tide => Sys2Proof.Machine.execApplyCancel tide s
  | .tileIssue st cyc up => Sys2Proof.Machine.execTileIssue st cyc up s
  | .tileComplete st cyc up => Sys2Proof.Machine.execTileComplete st cyc up s
  | .sliceEnd st cyc => Sys2Proof.Machine.execSliceEnd st cyc s
  | .arrayRepairWrite st w => Sys2Proof.Machine.execArrayRepairWrite st w s
  | .curveLoadDone st cyc => Sys2Proof.Machine.execCurveLoadDone st cyc s
  | .scrubRow t p m row found => Sys2Proof.Machine.execScrubRow t p m row found s
  | .linkRowReceive st up a cyc => Sys2Proof.Machine.execLinkRowReceive st up a cyc s
  | .creditReturn st up => Sys2Proof.Machine.execCreditReturn st up s
  | .slotSet st k => Sys2Proof.Machine.execSlotSet st k s
  | .slotRelease st k => Sys2Proof.Machine.execSlotRelease st k s
  | .memPassWrite st w => Sys2Proof.Machine.execMemPassWrite st w s
  | .tstorePagesWrite t w => Sys2Proof.Machine.execTstorePagesWrite t w s
  | .takeoverRequest t pos => Sys2Proof.Machine.execTakeoverRequest t pos s
  | .takeoverRestore t => Sys2Proof.Machine.execTakeoverRestore t s
  | .takeoverCopyDone t => Sys2Proof.Machine.execTakeoverCopyDone t s
  | .nop st cyc => Sys2Proof.Machine.execNop st cyc s
  | .tile st cyc => Sys2Proof.Machine.execTile st cyc s
  | .tilew st cyc => Sys2Proof.Machine.execTilew st cyc s
  | .ldbias st cyc => Sys2Proof.Machine.execLdbias st cyc s
  | .ldcurve st cyc => Sys2Proof.Machine.execLdcurve st cyc s
  | .wcfg st cyc => Sys2Proof.Machine.execWcfg st cyc s
  | .waitp st cyc => Sys2Proof.Machine.execWaitp st cyc s
  | .rel st cyc => Sys2Proof.Machine.execRel st cyc s
  | .setp st cyc => Sys2Proof.Machine.execSetp st cyc s
  | .bar st cyc => Sys2Proof.Machine.execBar st cyc s
  | .waitf st cyc => Sys2Proof.Machine.execWaitf st cyc s
  | .loop st cyc => Sys2Proof.Machine.execLoop st cyc s
  | .skip st cyc => Sys2Proof.Machine.execSkip st cyc s
  | .ptrSet st cyc => Sys2Proof.Machine.execPtrSet st cyc s
  | .ptrAdd st cyc => Sys2Proof.Machine.execPtrAdd st cyc s
  | .ptrAddMod st cyc => Sys2Proof.Machine.execPtrAddMod st cyc s
  | .ptrLoad st cyc => Sys2Proof.Machine.execPtrLoad st cyc s
  | .setdCursor st cyc => Sys2Proof.Machine.execSetdCursor st cyc s
  | .setdCursorPtr st cyc => Sys2Proof.Machine.execSetdCursorPtr st cyc s
  | .setdCursorAdd st cyc => Sys2Proof.Machine.execSetdCursorAdd st cyc s
  | .setdRestore st cyc => Sys2Proof.Machine.execSetdRestore st cyc s
  | .setdBaseAdd st cyc => Sys2Proof.Machine.execSetdBaseAdd st cyc s
  | .movr st cyc => Sys2Proof.Machine.execMovr st cyc s
  | .vld st cyc => Sys2Proof.Machine.execVld st cyc s
  | .vst st cyc => Sys2Proof.Machine.execVst st cyc s
  | .stop st cyc => Sys2Proof.Machine.execStop st cyc s
  | .vmov st cyc => Sys2Proof.Machine.execVmov st cyc s
  | .vadd st cyc => Sys2Proof.Machine.execVadd st cyc s
  | .vsub st cyc => Sys2Proof.Machine.execVsub st cyc s
  | .vmul st cyc => Sys2Proof.Machine.execVmul st cyc s
  | .vfma st cyc => Sys2Proof.Machine.execVfma st cyc s
  | .vmax st cyc => Sys2Proof.Machine.execVmax st cyc s
  | .vmin st cyc => Sys2Proof.Machine.execVmin st cyc s
  | .vabs st cyc => Sys2Proof.Machine.execVabs st cyc s
  | .vaddi st cyc => Sys2Proof.Machine.execVaddi st cyc s
  | .vmuli st cyc => Sys2Proof.Machine.execVmuli st cyc s
  | .vfmai st cyc => Sys2Proof.Machine.execVfmai st cyc s
  | .vmaxi st cyc => Sys2Proof.Machine.execVmaxi st cyc s
  | .vcmp st cyc => Sys2Proof.Machine.execVcmp st cyc s
  | .vsel st cyc => Sys2Proof.Machine.execVsel st cyc s
  | .vlerp st cyc => Sys2Proof.Machine.execVlerp st cyc s
  | .vdiv st cyc => Sys2Proof.Machine.execVdiv st cyc s
  | .vexp st cyc => Sys2Proof.Machine.execVexp st cyc s
  | .vexp2 st cyc => Sys2Proof.Machine.execVexp2 st cyc s
  | .vlog2 st cyc => Sys2Proof.Machine.execVlog2 st cyc s
  | .vrcp st cyc => Sys2Proof.Machine.execVrcp st cyc s
  | .vsqrt st cyc => Sys2Proof.Machine.execVsqrt st cyc s
  | .vrsqrt st cyc => Sys2Proof.Machine.execVrsqrt st cyc s
  | .vsigm st cyc => Sys2Proof.Machine.execVsigm st cyc s
  | .vtanh st cyc => Sys2Proof.Machine.execVtanh st cyc s
  | .vexpd st cyc => Sys2Proof.Machine.execVexpd st cyc s
  | .vcvt st cyc => Sys2Proof.Machine.execVcvt st cyc s
  | .vred st cyc => Sys2Proof.Machine.execVred st cyc s
  | .vscan st cyc => Sys2Proof.Machine.execVscan st cyc s
  | .vdw st cyc => Sys2Proof.Machine.execVdw st cyc s
  | .vpool st cyc => Sys2Proof.Machine.execVpool st cyc s
  | .vcrop st cyc => Sys2Proof.Machine.execVcrop st cyc s
  | .vbdec st cyc => Sys2Proof.Machine.execVbdec st cyc s
  | .vnms st cyc => Sys2Proof.Machine.execVnms st cyc s
  | .vtopk st cyc => Sys2Proof.Machine.execVtopk st cyc s
  | .tflagForce t v => Sys2Proof.Machine.execTflagForce t v s
  | .seqPhaseWrite st v => Sys2Proof.Machine.execSeqPhaseWrite st v s
  | .attentionJobStart t => Sys2Proof.Machine.execAttentionJobStart t s
  | .attendEntry t => Sys2Proof.Machine.execAttendEntry t s
  | .appendEntry t => Sys2Proof.Machine.execAppendEntry t s
  | .attentionJobDone t => Sys2Proof.Machine.execAttentionJobDone t s
  | .psInvalidate all seq => Sys2Proof.Machine.execPsInvalidate all seq s
  | .frameFill t f w => Sys2Proof.Machine.execFrameFill t f w s
  | .frameFillDone t f => Sys2Proof.Machine.execFrameFillDone t f s
  | .frameInvalidate t f w => Sys2Proof.Machine.execFrameInvalidate t f w s
  | .psInit => Sys2Proof.Machine.execPsInit s
  | .psAlloc res => Sys2Proof.Machine.execPsAlloc res s
  | .psShare arg => Sys2Proof.Machine.execPsShare arg s
  | .psFree arg => Sys2Proof.Machine.execPsFree arg s
  | .psReserve arg => Sys2Proof.Machine.execPsReserve arg s
  | .psUnreserve arg => Sys2Proof.Machine.execPsUnreserve arg s
  | .psPoison arg => Sys2Proof.Machine.execPsPoison arg s
  | .psUnpoison arg => Sys2Proof.Machine.execPsUnpoison arg s
  | .openCmd => Sys2Proof.Machine.execOpenCmd s
  | .step => Sys2Proof.Machine.execStep s
  | .cancel => Sys2Proof.Machine.execCancel s
  | .close => Sys2Proof.Machine.execClose s
  | .reclaim => Sys2Proof.Machine.execReclaim s
  | .hostAlive => Sys2Proof.Machine.execHostAlive s
  | .hostLostTimeout => Sys2Proof.Machine.execHostLostTimeout s
  | .parkTimeout => Sys2Proof.Machine.execParkTimeout s
  | .captureTrainingStep job => Sys2Proof.Machine.execCaptureTrainingStep job s
  | .load => Sys2Proof.Machine.execLoad s
  | .place => Sys2Proof.Machine.execPlace s
  | .remove => Sys2Proof.Machine.execRemove s
  | .delete => Sys2Proof.Machine.execDelete s
  | .captureStart => Sys2Proof.Machine.execCaptureStart s
  | .captureCancel => Sys2Proof.Machine.execCaptureCancel s
  | .expanderSlot st c cyc buffered bad1 bad2 => Sys2Proof.Machine.execExpanderSlot st c cyc buffered bad1 bad2 s
  | .ageTick => Sys2Proof.Machine.execAgeTick s
  | .eviction => Sys2Proof.Machine.execEviction s
  | .pageWritebackDone => Sys2Proof.Machine.execPageWritebackDone s
  | .homeCopyWrite => Sys2Proof.Machine.execHomeCopyWrite s
  | .promotionPageArrive how => Sys2Proof.Machine.execPromotionPageArrive how s
  | .pageRepair how readback => Sys2Proof.Machine.execPageRepair how readback s
  | .dramRead port a n rt opens starved link => Sys2Proof.Machine.execDramRead port a n rt opens starved link s
  | .dramWrite port a b rt opens starved link => Sys2Proof.Machine.execDramWrite port a b rt opens starved link s
  | .dramScrub a kind => Sys2Proof.Machine.execDramScrub a kind s
  | .dramRefresh ch rank bank => Sys2Proof.Machine.execDramRefresh ch rank bank s
  | .throttleWindow => Sys2Proof.Machine.execThrottleWindow s
  | .dramRecalibrate ch => Sys2Proof.Machine.execDramRecalibrate ch s
  | .dramProtWrite j size w => Sys2Proof.Machine.execDramProtWrite j size w s
  | .elogPop => Sys2Proof.Machine.execElogPop s
  | .nandCodewordRead stripe sb pg die cw how corrected => Sys2Proof.Machine.execNandCodewordRead stripe sb pg die cw how corrected s
  | .nandRetryRead stripe sb pg die cw e ok soft => Sys2Proof.Machine.execNandRetryRead stripe sb pg die cw e ok soft s
  | .nandProgram stripe die plane ok => Sys2Proof.Machine.execNandProgram stripe die plane ok s
  | .nandReclaim => Sys2Proof.Machine.execNandReclaim s
  | .nandRelocate => Sys2Proof.Machine.execNandRelocate s
  | .nandPatrol die sb how corrected => Sys2Proof.Machine.execNandPatrol die sb how corrected s
  | .nandWearLevel => Sys2Proof.Machine.execNandWearLevel s
  | .dmaProdWrite c v => Sys2Proof.Machine.execDmaProdWrite c v s
  | .dmaDescriptorStart c cyc => Sys2Proof.Machine.execDmaDescriptorStart c cyc s
  | .dmaHalf c cyc => Sys2Proof.Machine.execDmaHalf c cyc s
  | .dmaDescriptorEnd c cyc host upto => Sys2Proof.Machine.execDmaDescriptorEnd c cyc host upto s
  | .dmaRtDeadline c upto => Sys2Proof.Machine.execDmaRtDeadline c upto s
  | .dmaHostTimeout c upto => Sys2Proof.Machine.execDmaHostTimeout c upto s
  | .dmaAbort c upto => Sys2Proof.Machine.execDmaAbort c upto s
  | .vinPortWrite p size w => Sys2Proof.Machine.execVinPortWrite p size w s
  | .vinFrameStart p => Sys2Proof.Machine.execVinFrameStart p s
  | .vinLineEnd p px lost => Sys2Proof.Machine.execVinLineEnd p px lost s
  | .vinFrameEnd p => Sys2Proof.Machine.execVinFrameEnd p s
  | .vinFrameTimeout p => Sys2Proof.Machine.execVinFrameTimeout p s
  | .vinPclkLoss p => Sys2Proof.Machine.execVinPclkLoss p s
  | .vinOutputComplete c => Sys2Proof.Machine.execVinOutputComplete c s
  | .vinPublish c => Sys2Proof.Machine.execVinPublish c s
  | .vinMuxWrite w => Sys2Proof.Machine.execVinMuxWrite w s
  | .vinMuxUnit => Sys2Proof.Machine.execVinMuxUnit s
  | .audClkWrite w => Sys2Proof.Machine.execAudClkWrite w s
  | .audInputSample p slot w nxt => Sys2Proof.Machine.execAudInputSample p slot w nxt s
  | .audClockLoss => Sys2Proof.Machine.execAudClockLoss s
  | .audClockReturn => Sys2Proof.Machine.execAudClockReturn s
  | .linkUp p fast => Sys2Proof.Machine.execLinkUp p fast s
  | .linkRateFall p => Sys2Proof.Machine.execLinkRateFall p s
  | .ringFrameReceive p f fcs => Sys2Proof.Machine.execRingFrameReceive p f fcs s
  | .beaconReceive => Sys2Proof.Machine.execBeaconReceive s
  | .memberExpiry j => Sys2Proof.Machine.execMemberExpiry j s
  | .windowSend w => Sys2Proof.Machine.execWindowSend w s
  | .tileDataReceive => Sys2Proof.Machine.execTileDataReceive s
  | .tileVoidReceive => Sys2Proof.Machine.execTileVoidReceive s
  | .grantReceive => Sys2Proof.Machine.execGrantReceive s
  | .closedReceive => Sys2Proof.Machine.execClosedReceive s
  | .grantTimeout w => Sys2Proof.Machine.execGrantTimeout w s
  | .aes67PacketReceive => Sys2Proof.Machine.execAes67PacketReceive s
  | .aes67PacketSend j => Sys2Proof.Machine.execAes67PacketSend j s
  | .causewayLeaveBypass => Sys2Proof.Machine.execCausewayLeaveBypass s
  | .capOkSet => Sys2Proof.Machine.execCapOkSet s
  | .ringWatchdogExpiry => Sys2Proof.Machine.execRingWatchdogExpiry s
  | .topEthernetReceive => Sys2Proof.Machine.execTopEthernetReceive s
  | .topUdpReceive => Sys2Proof.Machine.execTopUdpReceive s
  | .arpRequest => Sys2Proof.Machine.execArpRequest s
  | .mbxGo w => Sys2Proof.Machine.execMbxGo w s
  | .smbusBlockWrite b pec => Sys2Proof.Machine.execSmbusBlockWrite b pec s
  | .smbusBlockRead => Sys2Proof.Machine.execSmbusBlockRead s
  | .smbusAlertResponse => Sys2Proof.Machine.execSmbusAlertResponse s
  | .read => Sys2Proof.Machine.execRead s
  | .write train => Sys2Proof.Machine.execWrite train s
  | .writeAt => Sys2Proof.Machine.execWriteAt s
  | .cancelAt => Sys2Proof.Machine.execCancelAt s
  | .next => Sys2Proof.Machine.execNext s
  | .fwLoad w => Sys2Proof.Machine.execFwLoad w s
  | .negotiation w => Sys2Proof.Machine.execNegotiation w s
  | .modeWrite w => Sys2Proof.Machine.execModeWrite w s
  | .queueOpen q w => Sys2Proof.Machine.execQueueOpen q w s
  | .queueClose q w => Sys2Proof.Machine.execQueueClose q w s
  | .sqTailWrite q v => Sys2Proof.Machine.execSqTailWrite q v s
  | .sqEntryTake q => Sys2Proof.Machine.execSqEntryTake q s
  | .cqHeadWrite q v => Sys2Proof.Machine.execCqHeadWrite q v s
  | .eventRingOpen w => Sys2Proof.Machine.execEventRingOpen w s
  | .eventHeadWrite v => Sys2Proof.Machine.execEventHeadWrite v s
  | .watchdogKick k => Sys2Proof.Machine.execWatchdogKick k s
  | .coreWatchdogExpiry k => Sys2Proof.Machine.execCoreWatchdogExpiry k s
  | .coreRestartWrite k => Sys2Proof.Machine.execCoreRestartWrite k s
  | .coreRestartDone k => Sys2Proof.Machine.execCoreRestartDone k s
  | .accessFault k c => Sys2Proof.Machine.execAccessFault k c s
  | .efOperationDone code ok e => Sys2Proof.Machine.execEfOperationDone code ok e s
  | .updChunk j => Sys2Proof.Machine.execUpdChunk j s
  | .recoveryBlock b => Sys2Proof.Machine.execRecoveryBlock b s
  | .protLower train => Sys2Proof.Machine.execProtLower train s
  | .sramRepairMap w => Sys2Proof.Machine.execSramRepairMap w s
  | .lifetimeCheckpoint hour => Sys2Proof.Machine.execLifetimeCheckpoint hour s
  | .histogramSample margin => Sys2Proof.Machine.execHistogramSample margin s
  | .powerEnterP1 obj w => Sys2Proof.Machine.execPowerEnterP1 obj w s
  | .powerEnterP2 obj w => Sys2Proof.Machine.execPowerEnterP2 obj w s
  | .powerEnterP3 obj w => Sys2Proof.Machine.execPowerEnterP3 obj w s
  | .powerEnterP4 obj w => Sys2Proof.Machine.execPowerEnterP4 obj w s
  | .powerEnterP5 obj w => Sys2Proof.Machine.execPowerEnterP5 obj w s
  | .powerWake obj w train => Sys2Proof.Machine.execPowerWake obj w train s
  | .wakeNFall train bad => Sys2Proof.Machine.execWakeNFall train bad s
  | .temperatureSample tj => Sys2Proof.Machine.execTemperatureSample tj s
  | .vin12Return train bad => Sys2Proof.Machine.execVin12Return train bad s
  | .jtagInstructionLoad j => Sys2Proof.Machine.execJtagInstructionLoad j s
  | .mrstNRelease train b => Sys2Proof.Machine.execMrstNRelease train b s
  | .linkDown p => Sys2Proof.Machine.execLinkDown p s
  | .vinPclkReturn p => Sys2Proof.Machine.execVinPclkReturn p s
  | .segmentTimeout => Sys2Proof.Machine.execSegmentTimeout s
  | .persistentCommitDone => Sys2Proof.Machine.execPersistentCommitDone s
  | .lighthouseWatchdogExpiry => Sys2Proof.Machine.execLighthouseWatchdogExpiry s
  | .lighthouseConfirm => Sys2Proof.Machine.execLighthouseConfirm s
  | .updStart => Sys2Proof.Machine.execUpdStart s
  | .updCommit => Sys2Proof.Machine.execUpdCommit s
  | .updAbort => Sys2Proof.Machine.execUpdAbort s
  | .updActivate => Sys2Proof.Machine.execUpdActivate s
  | .recoveryCommit => Sys2Proof.Machine.execRecoveryCommit s
  | .recoveryStatus => Sys2Proof.Machine.execRecoveryStatus s
  | .protRaise => Sys2Proof.Machine.execProtRaise s
  | .secRollbackWrite => Sys2Proof.Machine.execSecRollbackWrite s
  | .keyImport => Sys2Proof.Machine.execKeyImport s
  | .keyDelete => Sys2Proof.Machine.execKeyDelete s
  | .keyList => Sys2Proof.Machine.execKeyList s
  | .fqPop => Sys2Proof.Machine.execFqPop s
  | .logToken => Sys2Proof.Machine.execLogToken s
  | .vin12Loss => Sys2Proof.Machine.execVin12Loss s
  | .standbyLoss => Sys2Proof.Machine.execStandbyLoss s
  | .syncValidLoss => Sys2Proof.Machine.execSyncValidLoss s

end Sys2Proof.Machine
end

