-- ==== Sys2Proof/Machine/Step.lean ====
section
/-! DEFINITION. One step: the command at the front of the queue, or a nanosecond of idling on an empty queue. -/

namespace Sys2Proof.Machine

/-- The oldest waiting command acts on everything but the queue, whose rest stays. With none waiting, a nanosecond
passes. -/
def step (s : State) : Host.Outcome State Fault Refusal :=
  match s.pending with
  | c :: rest => exec c { s with pending := rest }
  | [] => .next (s.pass 1)

/-- `s` with the command that a word spells in front of its queue: the table gives no row bits, so no word spells one. -/
def State.withFetchWord (s : State) (_nbits _w : Nat) : State := s

end Sys2Proof.Machine
end

