-- ==== Sys2Proof/Safety.lean ====
section
/-! DEFINITION. What holds of every state that commands lead to: the canonical form of every memory and table, the bounds
of the queues and buffers that the specification gives a size, and what no command undoes. -/

namespace Sys2Proof

/-- Keys strictly rising. -/
abbrev KMap.sorted {α : Type} (m : KMap α) : Prop := m.Pairwise fun a b => a.1 < b.1

/-- The canonical form: keys strictly rising, no entry equal to the default `d`. -/
abbrev KMap.canonical {α : Type} [DecidableEq α] (d : α) (m : KMap α) : Prop := m.sorted ∧ ∀ e ∈ m, e.2 ≠ d

namespace Machine

/-- The memories and per-unit tables are in canonical form, so that equal memories are equal data. -/
abbrev State.tablesCanonical (s : State) : Prop :=
  s.regs.sorted ∧ s.mem.canonical 0#8 ∧ s.hostMem.canonical 0#8 ∧ s.ecc.canonical 0 ∧ s.stns.canonical {} ∧
    s.ters.canonical {} ∧ s.atts.canonical {}

/-- The bounds of the fault queue (64 records, R517), the request queue (32, R439), the queue of stamped writes (256,
R445) and the log's always-on buffer (256 entries, R515). -/
abbrev State.queuesBounded (s : State) : Prop :=
  s.integ.fq.length ≤ 64 ∧ s.dict.queue.length ≤ 32 ∧ s.dict.stamped.length ≤ 256 ∧ s.log.buf.length ≤ 256

/-- The invariant of the module: kept by every command. -/
abbrev State.Inv (s : State) : Prop := s.tablesCanonical ∧ s.queuesBounded

/-- What no command undoes between `a` and a later state `s`: the variant and the grade are fixed, the level-2 fuse stays
blown, the rollback counter of lighthouse images never falls (R4, R487, R491). -/
abbrev State.fusesKept (a s : State) : Prop :=
  s.fac.variant = a.fac.variant ∧ s.fac.grade = a.fac.grade ∧ (a.fac.level2 = true → s.fac.level2 = true) ∧
    a.fac.rollLh ≤ s.fac.rollLh

/-- Command `c` completes from `s`: it answers a next state, of which `P` holds. -/
abbrev completes (c : Instr) (s : State) (P : State → Prop) : Prop := ∃ t, exec c s = .next t ∧ P t

/-- Between `s` and `t` only the fields with the keys `l` differ, and no byte of any memory. -/
abbrev State.onlyRegs (s t : State) (l : List Nat) : Prop :=
  (∀ f : Fld, f.key ∉ l → t.rg f = s.rg f) ∧ t.mem = s.mem ∧ t.hostMem = s.hostMem

/-- Station `st` issues, and the word at its program counter is `w`, without error. -/
abbrev State.nextInsn (s : State) (st : StId) (w : Nat) : Prop :=
  s.seqRuns st.t.val st.p.val = true ∧
    s.marks (rowAddr st.t.val st.p.val 3 0 + 8 * s.rg (SEQ_STATE_PC st.t.val st.p.val)) 1 = [] ∧ s.insn st.t.val st.p.val = w

/-- The registers that every issued instruction of a station changes: its sequencer's state and its count. -/
abbrev seqKeys (st : StId) : List Nat :=
  [(SEQ_STATE_STATE st.t.val st.p.val).key, (SEQ_STATE_CAUSE st.t.val st.p.val).key, (SEQ_STATE_PC st.t.val st.p.val).key,
    (SEQ_INSN st.t.val st.p.val).key]

/-- The sequencer of `st` has issued its instruction in `s` and goes on after it in `t`: RUN, no cause, one instruction more,
the address and the open loops those that follow. -/
abbrev State.wentOn (s t : State) (st : StId) : Prop :=
  t.rg (SEQ_STATE_STATE st.t.val st.p.val) = 2 ∧ t.rg (SEQ_STATE_CAUSE st.t.val st.p.val) = 0 ∧
    t.rg (SEQ_INSN st.t.val st.p.val) = (s.rg (SEQ_INSN st.t.val st.p.val) + 1) % 2 ^ 64 ∧
    t.rg (SEQ_STATE_PC st.t.val st.p.val) =
      (nextPc (s.rg (SEQ_STATE_PC st.t.val st.p.val)) (s.stn st.t.val st.p.val).loops).1 % 2 ^ 13 ∧
    (t.stn st.t.val st.p.val).loops = (nextPc (s.rg (SEQ_STATE_PC st.t.val st.p.val)) (s.stn st.t.val st.p.val).loops).2

/-- The sequencer of `st` stalls with `cause` (R182): the address stays, its cycles of stall rise by one. -/
abbrev State.stalled (s t : State) (st : StId) (cause : Nat) : Prop :=
  t.rg (SEQ_STATE_STATE st.t.val st.p.val) = 3 ∧ t.rg (SEQ_STATE_CAUSE st.t.val st.p.val) = cause ∧
    t.rg (SEQ_STATE_PC st.t.val st.p.val) = s.rg (SEQ_STATE_PC st.t.val st.p.val) ∧
    t.rg (SEQ_STALL st.t.val st.p.val) = (s.rg (SEQ_STALL st.t.val st.p.val) + 1) % 2 ^ 64

/-- The row that an instruction `w` of R167 addresses is in bounds and reads as `l`, without error or wait. -/
abbrev State.rowReads (s : State) (st : StId) (w : Nat) (l : List Byte) : Prop :=
  dOk (s.desc st.t.val st.p.val (bits w 52 3)) (s.rowOffset st.t.val st.p.val w) = true ∧
    s.readOff st.t.val st.p.val (s.desc st.t.val st.p.val (bits w 52 3)) (s.rowOffset st.t.val st.p.val w) = (.ok l, s)

/-- Element `x` of vector register `i` of station `st` in view `v`, as a bit pattern. -/
abbrev State.el (s : State) (st : StId) (v i x : Nat) : Nat :=
  leNat (slice (s.vreg st.t.val st.p.val i) (x * viewW v) (viewW v))

/-- The vector function `w` of `st` has issued in `s` and is done in `t`: VD holds the elements `f` in view `v`, the other
registers and the memories stay, the sequencer goes on. -/
abbrev State.vecDone (s t : State) (st : StId) (w v : Nat) (f : Nat → Nat) : Prop :=
  (∀ x < viewN v, t.el st v (vVd w) x = f x % 2 ^ (8 * viewW v)) ∧
    (∀ i, i ≠ vVd w → t.vreg st.t.val st.p.val i = s.vreg st.t.val st.p.val i) ∧
    t.rg (VEC_STATE_FUNC st.t.val st.p.val) = vFunc w ∧ s.wentOn t st ∧ t.mem = s.mem

/-- Station `st` issues the vector function `f` with word `w` next, and no drain into the lanes is outstanding. -/
abbrev State.nextVec (s : State) (st : StId) (f w : Nat) : Prop :=
  s.nextInsn st w ∧ opOf w = 0x1A ∧ vFunc w = f ∧ (s.stn st.t.val st.p.val).lanesBusy = false

/-- Between `s` and `u` queue pair `q` has got one completion, the entry `e`; its completions before it stand (R464). -/
abbrev State.completed (s u : State) (q : Nat) (e : List Byte) : Prop :=
  (u.fw.queues.get q {}).held = (s.fw.queues.get q {}).held ++ [fitTo 64 e]

/-- The reply to request `q` left in `u`: the newest of its interface's stored replies, with a status, a tide of effect, a total
length and data (R436, R440). -/
abbrev State.replied (u : State) (q : ObjReq) (status tide total : Nat) (data : List Byte) : Prop :=
  ∃ c, u.dict.cache.head? = some (q.iface, c) ∧ c.requester = q.requester ∧ c.seq = mSeq q.msg ∧
    leAt c.reply 1 1 = (mOp q.msg + 0x80) % 256 ∧ leAt c.reply 7 1 = status % 256 ∧ leAt c.reply 8 6 = tide % 2 ^ 48 ∧
    leAt c.reply 20 4 = total % 2 ^ 32 ∧ c.reply.drop 40 = data

end Machine
end Sys2Proof
end

