-- ==== Sys2Proof/Certificates/Slice0/Obligations.lean ====
section
/-! DEFINITION. The statements for the provers: what the commands of each family do, where they complete and what they leave
unchanged, and what every step keeps. -/

open Sys2Proof Sys2Proof.Machine

/-! ## The bus -/

/-- A request to the register space that is not an aligned 32-bit access completes with Unsupported Request, and nothing else
changes (R6). -/
def Obligations.UnalignedRequestsAreRefused : Prop := ∀ s : State, ∀ off size,
  ¬ (size.val = 4 ∧ off.toNat % 4 = 0) →
    exec (.unalignedBar0Access off size) s = .next { s with reply := .ur }

/-- Reads of a pair (R7): the low word is answered and the high word latched for the requester; the high word is answered
with what was latched, once. The host reads the words of BAR4, and in the configuration header the vendor 0x1DF3 and the
device 0x3280 (R5); no read of either changes anything. A base address register takes the address bits that its size leaves,
and reads with its type (R26). The lighthouse core's read outside its reach is an address error, answered with zeros (R23). A
write of the low word of a pair by the host only holds it; the write of the high word puts both into effect (R7): shown for
`TIME.PPS_SET`. A write of the aperture whose 4 GiB lie in board DRAM sets it with the held low word (R28). A 32-bit write by
the host of a plain word takes the new bits (`TIDE.EVENT_EN`, R9), and raises the block's vector when a bit becomes 1 whose
event is set (R59); of BAR4, the word of the vector table. A request in BAR2 lands in board DRAM at the aperture's base: a
write stores its bytes, and nothing outside them changes; a read of words without error returns them (R28, R29). Readings of
the model in it: log entries 15, 16, 17. -/
def Obligations.BusRequestsComplete : Prop :=
  (∀ s : State,
    (∀ r i, s.mayAsk r.val → (r.val = 6 → lhReach (4 * i.toNat)) → pairAt (4 * i.toNat) = some (4 * i.toNat, false) →
      completes (.reg64LowRead r ⟨.bar0, i⟩) s fun t => t.reply = .ok (s.readWord (4 * i.toNat)) ∧
        t.bus.latch.get (busKey (4 * i.toNat) r.val) 0 = s.readWord (4 * i.toNat + 4) + 1) ∧
    (∀ r i lo v, s.mayAsk r.val → (r.val = 6 → lhReach (4 * i.toNat)) → pairAt (4 * i.toNat) = some (lo, true) →
      s.bus.latch.get (busKey lo r.val) 0 = v + 1 →
      completes (.reg64HighRead r i) s fun t => t.reply = .ok v ∧ t.bus.latch.get (busKey lo r.val) 0 = 0)) ∧
  (∀ s : State,
    (s.hostReach → ∀ i, exec (.reg64LowRead 0 ⟨.bar4, i⟩) s = .next { s with reply := .ok (s.bar4Word i.toNat) }) ∧
    (s.hostReach → exec (.reg64LowRead 0 ⟨.config, 0⟩) s = .next { s with reply := .ok 0x32801DF3 }) ∧
    (s.hostReach → ∀ w : BitVec 32, completes (.registerWrite .config 0 4 w) s fun t =>
      t.configWord 4 = w.toNat / 2 ^ 26 * 2 ^ 26 + 4 ∧ t.configWord 9 = s.configWord 9 ∧ t.regs = s.regs ∧ t.mem = s.mem) ∧
    (∀ i, s.mayAsk 6 → ¬ lhReach (4 * i.toNat) → exec (.reg64LowRead 6 ⟨.bar0, i⟩) s = .next { s.addrError with reply := .ok 0 })) ∧
  (∀ s : State, s.hostReach →
    (∀ i w lo, pairAt (4 * i.toNat) = some (lo, false) → exec (.reg64LowWrite 0 i w) s =
      .next { s with bus := { s.bus with held := s.bus.held.set (busKey lo 0) (w.toNat + 1) 0 }, reply := .none }) ∧
    (∀ w v, s.bus.held.get (busKey 0x100058 0) 0 = v + 1 → v < 2 ^ 32 → completes (.reg64HighWrite 0 0x40017 w) s fun t =>
      t.rg TIME_PPS_SET = v + w.toNat * 2 ^ 32 ∧ t.tide.ppsArmed = true ∧ t.mem = s.mem ∧
        ∀ f : Fld, f.key ≠ TIME_PPS_SET.key → t.rg f = s.rg f) ∧
    (∀ w v, s.bus.held.get (busKey 0xC00100 0) 0 = v + 1 → dramBase ≤ w.toNat % 65536 * 2 ^ 32 + bits v 20 12 * 2 ^ 20 →
      w.toNat % 65536 * 2 ^ 32 + bits v 20 12 * 2 ^ 20 + 0x100000000 ≤ dramBase + s.dramSize →
      completes (.aperHiWrite w) s fun t => t.rg HRING_APER_HI_BASE_HI = w.toNat % 65536 ∧
        t.rg HRING_APER_LO_BASE_LO = bits v 20 12 ∧ t.rg HRING_APER_LO_EN = bits v 0 1 ∧ t.mem = s.mem)) ∧
  (∀ s : State, s.hostReach →
    (∀ w, completes (.registerWrite .bar0 0 0x40006 w) s fun t => t.rg TIDE_EVENT_EN_LOCK_GAINED = w.toNat % 2 ∧
      t.rg TIDE_EVENT_EN_REPLAY_REFUSED = w.toNat / 64 % 2 ∧ t.mem = s.mem ∧ t.rg TIDE_CTRL_RUN = s.rg TIDE_CTRL_RUN) ∧
    (s.rg TIDE_EVENT_EN_LOCK_GAINED = 0 → s.rg TIDE_EVENT_LOCK_GAINED = 1 → bit (s.fw.msix.get 43 1) 0 = false →
      completes (.registerWrite .bar0 0 0x40006 1) s fun t => t.out = .msix 10 :: s.out) ∧
    (∀ i w, i.toNat < 256 → i.toNat % 4 ≠ 3 → completes (.registerWrite .bar4 0 i w) s fun t =>
      t.fw.msix.get i.toNat 0 = w.toNat ∧ t.regs = s.regs ∧ t.mem = s.mem) ∧
    (∀ off n b, let a := s.rg HRING_APER_HI_BASE_HI * 2 ^ 32 + s.rg HRING_APER_LO_BASE_LO * 2 ^ 20 + off.toNat
      s.on HRING_APER_LO_EN → off.toNat + b.length ≤ 2 ^ 32 → s.inDram a b.length →
      completes (.bar2Request false off n b) s fun t => t.reply = .none ∧ t.ld a b.length = b ∧
        ∀ k, k < a ∨ a + b.length ≤ k → t.mem.get k 0#8 = s.mem.get k 0#8) ∧
    (∀ off n b, let a := s.rg HRING_APER_HI_BASE_HI * 2 ^ 32 + s.rg HRING_APER_LO_BASE_LO * 2 ^ 20 + off.toNat
      s.on HRING_APER_LO_EN → off.toNat + n.toNat ≤ 2 ^ 32 → s.inDram a n.toNat → s.unitMarks (a - dramBase) n.toNat = [] →
      completes (.bar2Request true off n b) s fun t => t.reply = .bytes (s.ld a n.toNat) ∧ t.mem = s.mem))

/-! ## The tide generator and device time -/

/-- A setting of the generator written while RUN is 1 is staged: only its own register changes. While RUN is 0 it is in force
at once, and nothing else that is staged with it while tides still run (R56). A reserved encoding leaves the setting as it
was (R8). The budgets (R47): with the settings in force, B is the floor of P f (100 - S) / 100 and T_min that of 0.999 P f,
shown in `TIDE.BUDGET` and `TIDE.TMIN`. -/
def Obligations.TideSettings : Prop :=
  (∀ s : State,
    (∀ v : BitVec 64, 10 ≤ v.toNat → v.toNat ≤ 50 → completes (.tideSettingWrite .slack v) s fun t =>
      t.rg TIDE_CTRL_SLACK = v.toNat ∧ t.mem = s.mem ∧
      (s.on TIDE_CTRL_RUN → ∀ f : Fld, f.key ≠ TIDE_CTRL_SLACK.key → t.rg f = s.rg f) ∧
      (¬ s.on TIDE_CTRL_RUN → t.rg TIDE_ACTIVE_SLACK = v.toNat) ∧
      (¬ s.on TIDE_CTRL_RUN → s.tide.running → t.rg TIDE_ACTIVE_PERIOD = s.rg TIDE_ACTIVE_PERIOD ∧
        t.rg TIDE_ACTIVE_SRC = s.rg TIDE_ACTIVE_SRC ∧ t.tide = s.tide)) ∧
    (∀ v : BitVec 64, completes (.tideSettingWrite .origin v) s fun t => t.rg TIME_ORIGIN = v.toNat ∧
      t.tide.origin = if s.on TIDE_CTRL_RUN then s.tide.origin else v.toNat) ∧
    (∀ v : BitVec 64, v.toNat % 4 = 3 → completes (.tideSettingWrite .rate v) s fun t =>
      t.rg TIDE_CTRL_RATE = s.rg TIDE_CTRL_RATE)) ∧
  (∀ s : State, let c := s.active
    (s.rederive.rg TIDE_BUDGET_B =
      c.pNum * (if s.rg PWR_STATUS_OP = 1 then 9 else 5) * (100 - c.slack) /
        (c.pDen * (if s.rg PWR_STATUS_OP = 1 then 10 else 4) * 100) % 2 ^ TIDE_BUDGET_B.w) ∧
    (s.rederive.rg TIDE_TMIN_T_MIN =
      c.pNum * (if s.rg PWR_STATUS_OP = 1 then 9 else 5) * 999 /
        (c.pDen * (if s.rg PWR_STATUS_OP = 1 then 10 else 4) * 1000) % 2 ^ TIDE_TMIN_T_MIN.w))

/-- RUN set with a legal combination starts the generator: free-running it is locked at once, with the word clock as source
it acquires. RUN set with a combination that breaks R32 is refused with CAUSE 1 and RUN stays 0. RUN cleared stops the
generator at the next boundary, or at once when no tide has begun (R34, R56, R59). An apply is armed for a tide while RUN is
1, and cancelled by a write without ARM; nothing but the apply registers changes. While RUN is 0 an arm does nothing (R56).
What an armed apply does at its boundary (R56, R57): refused with CAUSE 1 when the staged combination breaks R32, with CAUSE
2 when a slice's L exceeds the new budget, with CAUSE 3 when a stream has no set for the new period, and the active settings
stay; otherwise the staged settings are in force and APPLIED is set. Readings of the model in it: log entry 22. -/
def Obligations.RunAndApply : Prop :=
  (∀ (s : State) (w : BitVec 32), let u := s.tideCtrlFields w.toNat
    (¬ u.on TIDE_CTRL_RUN → ¬ u.tide.running → u.active.legal → completes (.tideRunSet w) s fun t => t.on TIDE_CTRL_RUN ∧
      (u.rg TIDE_ACTIVE_SRC = 0 → t.rg TIDE_STATUS_LOCK = 4) ∧
      (u.rg TIDE_ACTIVE_SRC = 1 → t.rg TIDE_STATUS_LOCK = 1 ∧ t.tide.good = 0)) ∧
    (¬ u.on TIDE_CTRL_RUN → ¬ u.tide.running → ¬ u.active.legal → completes (.tideRunSet w) s fun t =>
      ¬ t.on TIDE_CTRL_RUN ∧ t.on TIDE_APPLY_HI_REFUSED ∧ t.rg TIDE_APPLY_HI_CAUSE = 1 ∧ t.on TIDE_EVENT_APPLY_REFUSED) ∧
    (u.tide.running → completes (.tideRunClear w) s fun t => ¬ t.on TIDE_CTRL_RUN ∧ t.tide = u.tide) ∧
    (¬ u.tide.running → completes (.tideRunClear w) s fun t => ¬ t.on TIDE_CTRL_RUN ∧ t.rg TIDE_STATUS_LOCK = 0 ∧
      ¬ t.on TIDE_APPLY_HI_PEND)) ∧
  (∀ (s : State) (tide : BitVec 48),
    (s.on TIDE_CTRL_RUN → completes (.applyArm tide) s fun t => t.on TIDE_APPLY_HI_PEND ∧ t.applyTarget = tide.toNat ∧
      t.mem = s.mem ∧ ∀ f : Fld, f.off ≠ TIDE_APPLY_LO_TIDE_LO.off → f.off ≠ TIDE_APPLY_HI_TIDE_HI.off →
        f.lo < 32 → t.rg f = s.rg f) ∧
    (¬ s.on TIDE_CTRL_RUN → exec (.applyArm tide) s = .next s) ∧
    (completes (.applyCancel tide) s fun t => ¬ t.on TIDE_APPLY_HI_PEND ∧ t.applyTarget = tide.toNat ∧ t.mem = s.mem)) ∧
  (∀ (s : State) (maxL : Nat) (ok : Bool), s.on TIDE_APPLY_HI_PEND →
    s.applyTarget ≤ s.rg TIDE_NUM → let t := s.applyAtBoundary maxL ok false
    ¬ t.on TIDE_APPLY_HI_PEND ∧
    (∀ c, c = (if ¬ s.staged.legal then 1 else if maxL > s.budgetOf s.staged then 2 else if ¬ ok then 3 else 0) →
      (c ≠ 0 → t.on TIDE_APPLY_HI_REFUSED ∧ t.rg TIDE_APPLY_HI_CAUSE = c ∧ t.active = s.active ∧ t.on TIDE_EVENT_APPLY_REFUSED) ∧
      (c = 0 → t.active = s.staged ∧ t.rg TIDE_APPLY_HI_CAUSE = 0 ∧ t.on TIDE_EVENT_APPLIED)))

/-- An edge of WCLK_IN while the generator acquires or holds counts when it comes within 1 000 ppm of a sample period after
the last, and the 64th such edge in a row locks; while it is locked such an edge keeps it locked. Where no word clock is the
source an edge only marks the time. Two sample periods without an edge lose the clock: LOCK becomes HOLDOVER (R33, R34). A
gPTP frame of the source's port gives device time an offset and a bound: a first lock, or an offset above STEP_LIMIT, steps
it; any other sets a rate of at most 500 ppm and steps nothing; SYNC becomes valid with the bound (R39, R40, R42). A frame of
the other port, or with another source, changes nothing. The loss of the source ends VALID (R35). A PPS edge after
`TIME.PPS_SET` was written loads that value: device time steps to it; a later edge keeps SYNC valid and, like the first,
gives a bound (of open value); with another source, or before the first lock, an edge only marks the time. At a whole second
of device time PPS_OUT rises when it is enabled and SYNC is valid (R41). While device time passes WCLK_OUT carries the edges
of the clock derived from it (R38). -/
def Obligations.ClocksAndTime : Prop :=
  (∀ s : State,
    (∀ dt : BitVec 32, s.rg TIDE_ACTIVE_SRC = 1 → s.staging → s.rg TIDE_STATUS_LOCK = 1 ∨ s.rg TIDE_STATUS_LOCK = 3 →
      (∀ l, s.tide.lastEdge = some l → wclkGood (rateHz (s.rg TIDE_ACTIVE_RATE)) ((s.pass dt.toNat).rg TIME_NOW - l)) →
      completes (.wclkEdge dt) s fun t => t.tide.good = s.tide.good + 1 ∧
        t.tide.lastEdge = some ((s.pass dt.toNat).rg TIME_NOW : Int) ∧ t.mem = s.mem ∧
        (s.tide.good < 63 → t.rg TIDE_STATUS_LOCK = s.rg TIDE_STATUS_LOCK) ∧
        (63 ≤ s.tide.good → t.rg TIDE_STATUS_LOCK = 2 ∧ t.on TIDE_EVENT_LOCK_GAINED)) ∧
    (∀ (dt : BitVec 32) (l : Int), s.rg TIDE_ACTIVE_SRC = 1 → s.staging → s.rg TIDE_STATUS_LOCK = 2 → s.tide.lastEdge = some l →
      wclkGood (rateHz (s.rg TIDE_ACTIVE_RATE)) ((s.pass dt.toNat).rg TIME_NOW - l) → completes (.wclkEdge dt) s fun t =>
        t.rg TIDE_STATUS_LOCK = 2 ∧ t.tide.bad = 0 ∧ t.tide.lastEdge = some ((s.pass dt.toNat).rg TIME_NOW : Int) ∧
        t.mem = s.mem) ∧
    (∀ dt : BitVec 32, s.rg TIDE_ACTIVE_SRC ≠ 1 → exec (.wclkEdge dt) s = .next (s.pass dt.toNat)) ∧
    (s.rg TIDE_ACTIVE_SRC = 1 → s.staging → s.rg TIDE_STATUS_LOCK = 2 → completes .wclkLossTimeout s fun t =>
      t.rg TIDE_STATUS_LOCK = 3 ∧ t.on TIDE_EVENT_LOCK_LOST ∧ t.tide.good = 0 ∧ t.tide.intervals = s.tide.intervals) ∧
    (s.rg TIDE_ACTIVE_SRC = 1 → s.staging → s.rg TIDE_STATUS_LOCK ≠ 2 → completes .wclkLossTimeout s fun t =>
      t.tide.good = 0 ∧ t.regs = s.regs) ∧
    (s.rg TIDE_ACTIVE_SRC ≠ 1 ∨ ¬ s.staging → exec .wclkLossTimeout s = .next s)) ∧
  (∀ s : State,
    (∀ port o b, s.rg TIME_CTRL_TSRC = 1 → s.rg TIME_CTRL_GPTP_PORT = b2n port →
      completes (.gptpFrameReceive port o b) s fun t => t.on TIME_SYNC_VALID ∧ t.rg TIME_SYNC_BOUND = b.toNat ∧
        t.tide.locked = true ∧ t.mem = s.mem ∧
        (s.tide.locked = false ∨ 1000 * s.rg TIME_CTRL_STEP_LIMIT < o.toInt.natAbs →
          t.rg TIME_NOW = ((s.rg TIME_NOW : Int) + o.toInt).toNat % 2 ^ 64 ∧ t.on TIDE_EVENT_TIME_STEP) ∧
        (s.tide.locked = true → o.toInt.natAbs ≤ 1000 * s.rg TIME_CTRL_STEP_LIMIT →
          t.rg TIME_NOW = s.rg TIME_NOW ∧ t.tide.rate.natAbs ≤ 500000 ∧
          t.rg TIDE_EVENT_TIME_STEP = s.rg TIDE_EVENT_TIME_STEP)) ∧
    (∀ port o b, s.rg TIME_CTRL_TSRC ≠ 1 ∨ s.rg TIME_CTRL_GPTP_PORT ≠ b2n port →
      exec (.gptpFrameReceive port o b) s = .next s) ∧
    (s.on TIME_SYNC_VALID → completes .syncValidLoss s fun t => ¬ t.on TIME_SYNC_VALID ∧ t.rg TIME_SYNC_BOUND = 0xFFFF ∧
      t.tide = s.tide ∧ t.mem = s.mem ∧ (s.staging → s.rg TIDE_ACTIVE_SRC = 2 → t.rg TIDE_STATUS_LOCK = 3) ∧
      (¬ s.staging → t.rg TIDE_STATUS_LOCK = s.rg TIDE_STATUS_LOCK)) ∧
    (¬ s.on TIME_SYNC_VALID → exec .syncValidLoss s = .next s)) ∧
  (∀ s : State,
    (∀ dt : BitVec 32, s.rg TIME_CTRL_TSRC = 2 → s.tide.ppsArmed →
      completes (.ppsInEdge dt) s fun t => t.tide.ppsArmed = false ∧ t.tide.locked = true ∧
        t.rg TIME_NOW = s.rg TIME_PPS_SET ∧ t.on TIME_SYNC_VALID ∧ t.rg TIME_SYNC_BOUND < 0xFFFF ∧ t.mem = s.mem) ∧
    (∀ dt : BitVec 32, s.rg TIME_CTRL_TSRC = 2 → ¬ s.tide.ppsArmed → s.tide.locked →
      completes (.ppsInEdge dt) s fun t => t.on TIME_SYNC_VALID ∧ t.rg TIME_SYNC_BOUND < 0xFFFF ∧ t.tide.locked = true ∧
        t.mem = s.mem) ∧
    (∀ dt : BitVec 32, s.rg TIME_CTRL_TSRC ≠ 2 ∨ (¬ s.tide.ppsArmed ∧ ¬ s.tide.locked) →
      exec (.ppsInEdge dt) s = .next (s.pass dt.toNat)) ∧
    (let n := s.rg TIME_NOW / 1000000000 + 1
     completes .ppsOutSecond s fun t => t.rg TIME_NOW = n * 1000000000 % 2 ^ 64 ∧ t.mem = s.mem ∧
      (s.on TIDE_CTRL_PPS_OUT_EN → s.on TIME_SYNC_VALID → t.out.head? = some .ppsOut) ∧
      (¬ s.on TIDE_CTRL_PPS_OUT_EN ∨ ¬ s.on TIME_SYNC_VALID → t.out.head? = some .ppsOut → s.out.head? = some .ppsOut)) ∧
    (∀ b, let n := b * rateHz (s.rg TIDE_ACTIVE_RATE) / 1000000000 -
        s.rg TIME_NOW * rateHz (s.rg TIDE_ACTIVE_RATE) / 1000000000
      s.on TIDE_CTRL_WCLK_OUT_EN → s.rg TIDE_ACTIVE_SRC ≠ 1 → 0 < n → (s.runTo b).out = .wclkOuts n :: s.out))

/-- A tide boundary that is due (R20): the ended tide's slices close, the number advances, the ended tide commits, settings
and sets change, the next tide begins; with RUN 0 the generator stops instead (R56). No other boundary falls. The tide number
(R43, R44): at a boundary inside a run it rises by one; at the first boundary after RUN was set with TIME_VALID 0 it starts
at 0 and ALIGNED is cleared. BTIME shows the boundary's device time, TICK_OUT pulses when enabled (R38). Readings of the
model in it: log entry 21. -/
def Obligations.BoundariesAdvanceTheTide : Prop :=
  (∀ s : State,
    (s.boundaryDue → s.tide.running → completes .tideBoundary s fun t =>
      let e := s.commitWindow.audClose
      let u := (e.advanceTide.commitTide e (s.rg TIDE_NUM)).changeSets.beginTide e true
      (u.on TIDE_CTRL_RUN → t = u) ∧
      (¬ u.on TIDE_CTRL_RUN → t = u.stopTides ∧ t.tide.running = false ∧ t.rg TIDE_STATUS_LOCK = 0)) ∧
    (s.boundaryDue → ¬ s.tide.running → completes .tideBoundary s fun t =>
      let u := (s.advanceTide.applyDue s).changeSets.beginTide s false
      (u.on TIDE_CTRL_RUN → t = u) ∧
      (¬ u.on TIDE_CTRL_RUN → t = u.stopTides ∧ t.tide.running = false ∧ t.rg TIDE_STATUS_LOCK = 0)) ∧
    (¬ s.boundaryDue → exec .tideBoundary s = .next s)) ∧
  (∀ s : State, s.rg TIDE_NUM < 2 ^ 48 - 1 →
    (s.tide.numbered → ¬ s.tide.rephase → ¬ s.tide.applied → s.advanceTide.rg TIDE_NUM = s.rg TIDE_NUM + 1 ∧
      s.advanceTide.rg TIDE_STATUS_ALIGNED = b2n (s.on TIDE_STATUS_ALIGNED)) ∧
    (¬ s.tide.numbered → ¬ s.on TIME_SYNC_VALID → s.advanceTide.rg TIDE_NUM = 0 ∧ ¬ s.advanceTide.on TIDE_STATUS_ALIGNED) ∧
    (s.tide.numbered → s.tide.rephase ∨ s.tide.applied → ¬ s.on TIME_SYNC_VALID →
      s.advanceTide.rg TIDE_NUM = s.rg TIDE_NUM + 1 ∧ ¬ s.advanceTide.on TIDE_STATUS_ALIGNED) ∧
    (s.advanceTide.tide.running = true ∧ s.advanceTide.rg TIDE_BTIME = s.boundaryTime.toNat % 2 ^ 64 ∧
      (s.on TIDE_CTRL_TICK_EN → s.advanceTide.out.head? = some .tick)))

/-- The end of the schedulable part and the commit window (R51, R55, R226): a slice that has not ended at B is a fault of its
station, which stops, and no attention unit stays busy; one that has not ended when the commit window opens is abandoned. A
permanent takeover (R148 to R150): a request waits for the next boundary, and is refused with ERR while one is in place or in
transfer; a restore waits for the boundary when no slice of the terrace is assigned; the copy puts the rows of the position
into the reserve and changes nothing else in the memories. Readings of the model in it: log entries 28, 29. -/
def Obligations.UnendedSlicesAndTakeovers : Prop :=
  (∀ (s : State) (st : StId), let t := st.t.val
    let p := st.p.val
    s.tide.running →
    (completes (.schedulableEnd 0 none) s fun u => ∀ k < 12, u.on (ATT_STATUS_BUSY k) = false) ∧
    ((s.stn t p).slice.isSome → (s.stn t p).halted = false → (s.stn t p).faults = [] → (s.stn t p).ended = none → p < 16 →
      (∀ q ∈ allStns, q ≠ (t, p) → (s.stn q.1 q.2).slice = none) → s.rg (TAKE_STATUS_PHASE t) = 0 →
      (∀ cyc, s.replaying = [] → completes (.schedulableEnd cyc none) s fun u => u.rg (SEQ_STATE_STATE t p) = 6 ∧
        u.on (SEQ_FAULT_VALID t p) ∧ (u.stn t p).faults ≠ []) ∧
      (s.rg (SEQ_STATE_STATE t p) = 2 → completes .commitWindowOpen s fun u => u.rg (SEQ_STATE_STATE t p) = 6 ∧
        (u.stn t p).halted = true ∧ u.rg (SEQ_END_CYCLE t p) = 0x7FFFFF))) ∧
  (∀ (s : State) (t : Fin 12), let ph := s.rg (TAKE_STATUS_PHASE t.val)
    (∀ pos : BitVec 4, ph ≠ 2 → ph ≠ 3 → (s.ter t.val).takeReq = none → completes (.takeoverRequest t pos) s fun u =>
      (u.ter t.val).takeReq = some pos.toNat ∧ u.regs = s.regs ∧ u.mem = s.mem) ∧
    (∀ pos : BitVec 4, ph = 2 ∨ ph = 3 → completes (.takeoverRequest t pos) s fun u => u.on (TAKE_CTRL_ERR t.val) ∧ u.ters = s.ters ∧
      s.onlyRegs u [(TAKE_CTRL_ERR t.val).key]) ∧
    ((∀ p < 17, ¬ s.assigned t.val p) → completes (.takeoverRestore t) s fun u => (u.ter t.val).restoreReq = true ∧
      u.regs = s.regs ∧ u.mem = s.mem) ∧
    (∀ p < 17, s.assigned t.val p → completes (.takeoverRestore t) s fun u => u.on (TAKE_CTRL_ERR t.val) ∧ u.ters = s.ters) ∧
    (ph = 2 → s.mem.canonical 0#8 → let p := s.rg (TAKE_STATUS_POS t.val)
      p < 16 → completes (.takeoverCopyDone t) s fun u => (u.ter t.val).copied = true ∧ u.regs = s.regs ∧
        (∀ k < 0xF0000, u.mem.get (stnMem t.val 16 + k) 0#8 = s.mem.get (stnMem t.val p + k) 0#8) ∧
        ∀ k, k < stnMem t.val 16 ∨ stnMem t.val 16 + 0xF0000 ≤ k → u.mem.get k 0#8 = s.mem.get k 0#8))

/-! ## The sequencer -/

/-- Instructions that change nothing but their sequencer (R155, R154, R176, R177): NOP; a WAITP whose bit has its value; a
WAITF whose flag is set; a BAR with nothing outstanding that it names, which then sets its flag; STOP, after which nothing
issues and which stalls while work of the slice is outstanding. A wait whose condition does not hold stalls, and the same
instruction is next again. Readings of the model in it: log entry 12. -/
def Obligations.WaitsAndBarriers : Prop := ∀ (s : State) (st : StId) (cyc : BitVec 23) (w : Nat), s.nextInsn st w →
  (opOf w = 0x00 → completes (.nop st cyc) s fun u => s.wentOn u st ∧ s.onlyRegs u (seqKeys st)) ∧
  (opOf w = 0x08 → ∀ q, s.sideOf st.t.val st.p.val (bits w 56 2) = some q →
    (s.present q.1 q.2 (bits w 50 6) = bit w 49 → completes (.waitp st cyc) s fun u =>
      s.wentOn u st ∧ s.onlyRegs u (seqKeys st)) ∧
    (s.present q.1 q.2 (bits w 50 6) ≠ bit w 49 → completes (.waitp st cyc) s fun u => s.stalled u st 4)) ∧
  (opOf w = 0x0C →
    (bit (s.rg (TFLAG_STATE_FLAGS st.t.val)) (bits w 48 5) → completes (.waitf st cyc) s fun u =>
      s.wentOn u st ∧ s.onlyRegs u (seqKeys st)) ∧
    (¬ bit (s.rg (TFLAG_STATE_FLAGS st.t.val)) (bits w 48 5) → completes (.waitf st cyc) s fun u => s.stalled u st 6)) ∧
  (opOf w = 0x0B →
    ((bit w 57 → ¬ s.tilesOut st.t.val st.p.val) → (bit w 56 → ¬ s.onLinks st.t.val st.p.val false) →
      completes (.bar st cyc) s fun u => s.wentOn u st ∧
      (bit w 54 → bit (u.rg (TFLAG_STATE_FLAGS st.t.val)) (bits w 48 5) = true) ∧
      s.onlyRegs u ((TFLAG_STATE_FLAGS st.t.val).key :: seqKeys st)) ∧
    ((bit w 57 ∧ s.tilesOut st.t.val st.p.val) ∨ (bit w 56 ∧ s.onLinks st.t.val st.p.val false) →
      completes (.bar st cyc) s fun u => s.stalled u st 5)) ∧
  (opOf w = 0x3F → completes (.stop st cyc) s fun u => (u.stn st.t.val st.p.val).stopIssued = true ∧
    u.rg (SEQ_STATE_PC st.t.val st.p.val) = (s.rg (SEQ_STATE_PC st.t.val st.p.val) + 1) % 2 ^ 13 ∧
    u.seqRuns st.t.val st.p.val = false ∧ s.onlyRegs u ((SEQ_STALL st.t.val st.p.val).key :: seqKeys st) ∧
    u.rg (SEQ_STATE_STATE st.t.val st.p.val) = if s.outstanding st.t.val st.p.val then 3 else 2)

/-- LOOP and SKIP (R173, R175): a loop with a count opens and goes on with its body, one with none goes on after its END, a
dynamic count above MAX faults the slice with BAD_DESCRIPTOR; SKIP passes over N instructions when its condition holds,
leaving a loop at whose END it stands, and over none otherwise. At the END of an open loop control returns to its start until
the count is reached. The conditions of SKIP (R175): always, a pointer equal to, not equal to or below IMM, a loop counter
equal or not, a bit of the tide number, the phase equal or not, the vector flag set or not. -/
def Obligations.LoopsAndSkips : Prop :=
  (∀ (s : State) (st : StId) (cyc : BitVec 23) (w : Nat), s.nextInsn st w →
    (opOf w = 0x10 → let t := st.t.val
      let p := st.p.val
      let n := if bit w 55 then s.ptr t p (bits w 46 5) else bits w 0 16
      (0 < n → (bit w 55 → n ≤ bits w 0 16) → completes (.loop st cyc) s fun u =>
        u.rg (SEQ_STATE_PC t p) = (s.rg (SEQ_STATE_PC t p) + 1) % 2 ^ 13 ∧ s.onlyRegs u (seqKeys st) ∧
        (u.stn t p).loops = { lvl := bits w 56 2, start := s.rg (SEQ_STATE_PC t p) + 1, stop := bits w 32 13, count := n } ::
          (s.stn t p).loops) ∧
      (n = 0 → (s.stn t p).loops = [] → completes (.loop st cyc) s fun u =>
        u.rg (SEQ_STATE_PC t p) = (bits w 32 13 + 1) % 2 ^ 13 ∧ s.onlyRegs u (seqKeys st)) ∧
      (bit w 55 → bits w 0 16 < n → ¬ s.on (SEQ_FAULT_VALID t p) → completes (.loop st cyc) s fun u =>
        u = ((s.wr (SEQ_FAULT_VALID t p) 1).wrs [(SEQ_FAULT_CAUSE t p, 1), (SEQ_FAULT_PC t p, s.rg (SEQ_STATE_PC t p)),
          (SEQ_FAULT_CODE t p, 0x40)]).faultSlice t p 0x40 cyc.toNat false false 0)) ∧
    (opOf w = 0x11 →
      (s.skipCond st.t.val st.p.val w → completes (.skip st cyc) s fun u =>
        u.rg (SEQ_STATE_PC st.t.val st.p.val) = (s.rg (SEQ_STATE_PC st.t.val st.p.val) + 1 + bits w 32 8) % 2 ^ 13 ∧
        ((∀ r ∈ (s.stn st.t.val st.p.val).loops, r.stop ≠ s.rg (SEQ_STATE_PC st.t.val st.p.val)) →
          (u.stn st.t.val st.p.val).loops = (s.stn st.t.val st.p.val).loops) ∧ s.onlyRegs u (seqKeys st)) ∧
      (¬ s.skipCond st.t.val st.p.val w → completes (.skip st cyc) s fun u => s.wentOn u st ∧ s.onlyRegs u (seqKeys st)))) ∧
  (∀ (s : State) (t p w : Nat),
    let ps := s.rg (SEQ_PTR t p (bits w 46 5))
    let imm := bits w 0 16
    (bits w 54 4 = 0 → s.skipCond t p w) ∧ (bits w 54 4 = 1 → (s.skipCond t p w ↔ ps = imm)) ∧
    (bits w 54 4 = 2 → (s.skipCond t p w ↔ ps ≠ imm)) ∧ (bits w 54 4 = 3 → (s.skipCond t p w ↔ ps < imm)) ∧
    (bits w 54 4 = 4 → ∀ r, (s.stn t p).loops.find? (fun r => r.lvl == bits w 40 2) = some r →
      (s.skipCond t p w ↔ r.iter = imm)) ∧
    (bits w 54 4 = 5 → ∀ r, (s.stn t p).loops.find? (fun r => r.lvl == bits w 40 2) = some r →
      (s.skipCond t p w ↔ r.iter ≠ imm)) ∧
    (bits w 54 4 = 6 → (s.skipCond t p w ↔ bit (s.rg TIDE_NUM) (imm % 64))) ∧
    (bits w 54 4 = 7 → (s.skipCond t p w ↔ s.rg (SEQ_PHASE_PHASE t p) = imm)) ∧
    (bits w 54 4 = 8 → (s.skipCond t p w ↔ s.rg (SEQ_PHASE_PHASE t p) ≠ imm)) ∧
    (bits w 54 4 = 9 → (s.skipCond t p w ↔ s.on (VEC_STATE_FLAG t p))) ∧
    (bits w 54 4 = 10 → (s.skipCond t p w ↔ ¬ s.on (VEC_STATE_FLAG t p))))

/-- SETD (R170): the CURSOR of descriptor D takes IMM, P[PSEL], CURSOR + IMM modulo SIZE when WRAP is set; CURSOR and BASE
take their image values; BASE takes BASE plus IMM sign-extended. Nothing else changes. -/
def Obligations.DescriptorsAreSet : Prop := ∀ (s : State) (st : StId) (cyc : BitVec 23) (w : Nat), s.nextInsn st w →
  opOf w = 0x13 → let t := st.t.val
  let p := st.p.val
  let d := bits w 52 3
  let cur := SEQ_DESC_WORD t p (8 * d + 3)
  let base := SEQ_DESC_WORD t p (8 * d + 4)
  let sz := dSize (s.desc t p d)
  let sum := s.rg cur % 2 ^ 16 + bits w 0 16
  let sets (c b : Nat) (u : State) : Prop := u.rg cur = c ∧ u.rg base = b ∧ s.wentOn u st ∧
    s.onlyRegs u (cur.key :: base.key :: seqKeys st)
  (bits w 55 3 = 0 → completes (.setdCursor st cyc) s (sets (bits w 0 16) (s.rg base))) ∧
  (bits w 55 3 = 1 → completes (.setdCursorPtr st cyc) s (sets (s.rg (SEQ_PTR t p (bits w 46 5))) (s.rg base))) ∧
  (bits w 55 3 = 2 → completes (.setdCursorAdd st cyc) s
    (sets ((if dWrap (s.desc t p d) then sum % sz else sum) % 2 ^ 16) (s.rg base))) ∧
  (bits w 55 3 = 3 → ∀ sl, (s.stn t p).slice = some sl → completes (.setdRestore st cyc) s
    (sets (sl.descs.getD (8 * d + 3) 0 % 2 ^ 32) (sl.descs.getD (8 * d + 4) 0 % 2 ^ 32))) ∧
  (bits w 55 3 = 4 → completes (.setdBaseAdd st cyc) s
    (sets (s.rg cur) ((((s.rg base : Int) + (bits w 0 16 : Int) - (if bit w 15 then 2 ^ 16 else 0)) % 2 ^ 32).toNat)))

/-- PTR (R169): P[PD] takes IMM, P[PSEL] + IMM modulo 2^16, P[PSEL] + IMM[7:0] modulo IMM[15:8] + 1, or a word of a row; it
is dynamic when the value came from a row or a dynamic pointer. Nothing else changes. TILE and TILEW queue a run with copies
of their descriptors as they stood, once the tile queue has room; a run that would leave a buffer faults the slice, and with
the queue full the sequencer stalls (R161, R163, R179). -/
def Obligations.PointersAndRuns : Prop :=
  (∀ (s : State) (st : StId) (cyc : BitVec 23) (w : Nat), s.nextInsn st w →
    opOf w = 0x12 → let t := st.t.val
    let p := st.p.val
    let ps := s.rg (SEQ_PTR t p (bits w 46 5))
    let dy := s.rg (SEQ_PTR_DYN t p (bits w 46 5))
    let keys := (SEQ_PTR t p (bits w 40 5)).key :: (SEQ_PTR_DYN t p (bits w 40 5)).key :: seqKeys st
    let gives (v d : Nat) (u : State) : Prop := u.rg (SEQ_PTR t p (bits w 40 5)) = v ∧
      u.rg (SEQ_PTR_DYN t p (bits w 40 5)) = d ∧ s.wentOn u st ∧ s.onlyRegs u keys
    (bits w 55 3 = 0 → completes (.ptrSet st cyc) s (gives (bits w 0 16) 0)) ∧
    (bits w 55 3 = 1 → completes (.ptrAdd st cyc) s (gives ((ps + bits w 0 16) % 2 ^ 16) dy)) ∧
    (bits w 55 3 = 2 → completes (.ptrAddMod st cyc) s (gives ((ps + bits w 0 8) % (bits w 8 8 + 1)) dy)) ∧
    (bits w 55 3 = 3 → ∀ l, s.rowReads st w l → completes (.ptrLoad st cyc) s (gives (leAt l (2 * bits w 0 8) 2 % 2 ^ 16) 1))) ∧
  (∀ (s : State) (st : StId) (cyc : BitVec 23) (w : Nat), s.nextInsn st w →
    let t := st.t.val
    let p := st.p.val
    let v := s.stn t p
    let ad := s.desc t p (tAd w)
    let wd := s.desc t p (tWd w)
    let runs (u : State) : Prop := (u.stn t p).runs = v.runs + 1 ∧ s.wentOn u st ∧ u.mem = s.mem ∧
      ∃ r : Run, (if v.issuing = none then (u.stn t p).issuing else (u.stn t p).queued) = some r ∧ r.word = w ∧ r.no = v.runs + 1 ∧
        r.ad = ad ∧ r.wd = wd ∧ r.od = s.desc t p (tOd w) ∧ r.pd = s.desc t p (tPd w)
    let fits : Prop := runOk wd (tT w) (tileRows (formN (tForm w)) (32 * tKb w) (dBits wd)) = true ∧
      (tDst w = 3 ∨ runOk (s.desc t p (tOd w)) (tT w) (oRows w) = true)
    (opOf w = 0x01 → v.queued = none → fits → runOk ad (tT w) (tileRows (formM (tForm w)) (32 * tKb w) (dBits ad)) →
      tPre w ≠ 2 → completes (.tile st cyc) s runs) ∧
    (opOf w = 0x02 → v.queued = none → fits → completes (.tilew st cyc) s fun u => runs u ∧
      u.rg (WIN_OPOS t p (tPd w)) = (s.rg (WIN_OPOS t p (tPd w)) + 32 * tT w) % 2 ^ 24 ∧ u.on (VEC_STATE_WIN_BUSY t p)) ∧
    (opOf w = 0x01 → v.queued.isSome → completes (.tile st cyc) s fun u => s.stalled u st 1))

/-- The instructions that read a row (R167, R168, R172): LDBIAS loads a bias register, WCFG a window configuration and its
position, VLD a vector register; LDCURVE starts a curve-load of nine rows, its slot as valid as before meanwhile (R110). The
stores (R171, R172): VST writes a vector register to a row, MOVR copies a row, each to the row that its descriptor and offset
name; the rest of the memories stays. Shown for rows in the station's own memories without presence bits, outside a takeover.
A VST that finds its slot free and no credit on its link stalls (R182). -/
def Obligations.RowsMove : Prop :=
  (∀ (s : State) (st : StId) (cyc : BitVec 23) (w : Nat), s.nextInsn st w →
    let t := st.t.val
    let p := st.p.val
    let v := s.stn t p
    let d := s.desc t p (bits w 52 3)
    (opOf w = 0x03 → (∀ r ∈ v.waiting, ¬ (tPre r.word = 1 ∧ tBsel r.word = bits w 55 1)) → ∀ l, s.rowReads st w l →
      completes (.ldbias st cyc) s fun u => (u.stn t p).bias.get (bits w 55 1) [] = l.take 128 ∧ s.wentOn u st ∧
        s.onlyRegs u ((SEQ_DESC_WORD t p (8 * bits w 52 3 + 3)).key :: seqKeys st)) ∧
    (opOf w = 0x05 → (∀ r ∈ v.waiting, ¬ (opOf r.word = 2 ∧ tPd r.word = bits w 55 3)) → ∀ l sl, v.slice = some sl → s.rowReads st w l →
      (WinCfg.ofRow l).invalid (s.desc t p ((WinCfg.ofRow l).lbd % 8)) sl.nDesc = none → completes (.wcfg st cyc) s fun u =>
        (u.stn t p).wcfg.get (bits w 55 3) [] = l ∧ u.rg (WIN_OPOS t p (bits w 55 3)) = (WinCfg.ofRow l).opos % 2 ^ 24 ∧
        s.wentOn u st ∧ u.mem = s.mem) ∧
    (opOf w = 0x18 → bits w 41 4 < 8 ∨ v.lanesBusy = false → ∀ l, s.rowReads st w l → completes (.vld st cyc) s fun u =>
      u.vreg t p (bits w 41 4) = fitTo 512 l ∧ s.wentOn u st ∧
        s.onlyRegs u ((SEQ_DESC_WORD t p (8 * bits w 52 3 + 3)).key :: seqKeys st)) ∧
    (opOf w = 0x04 → v.curveLoad = none → dOk d (s.rowOffset t p w + 8) → dOk d (s.rowOffset t p w) →
      completes (.ldcurve st cyc) s fun u =>
        (u.stn t p).curveLoad = some { slot := bits w 55 2, desc := d, off := s.rowOffset t p w, runs := v.runs } ∧
        u.rg (CURVE_STATE_LOADING t p) = 2 ^ bits w 55 2 ∧ u.rg (CURVE_STATE_VALID t p) = s.rg (CURVE_STATE_VALID t p) ∧
        s.wentOn u st ∧ u.mem = s.mem) ∧
    (opOf w = 0x04 → v.curveLoad.isSome → completes (.ldcurve st cyc) s fun u => s.stalled u st 9)) ∧
  (∀ (s : State) (st : StId) (cyc : BitVec 23) (w : Nat), s.nextInsn st w →
    let t := st.t.val
    let p := st.p.val
    (opOf w = 0x19 → bits w 41 4 < 8 ∨ (s.stn t p).lanesBusy = false → let d := s.desc t p (bits w 52 3)
      ∀ r : RowRef, dOk d (s.rowOffset t p w) → s.rowRef t p d (s.rowOffset t p w) = some r → r.mem ≠ 3 → r.slot = none →
        dSrc d = 0 → s.rg (TAKE_STATUS_PHASE r.t) ≠ 2 → completes (.vst st cyc) s fun u => let a := rowAddr r.t r.p r.mem r.row
          u.ld a 512 = fitTo 512 (s.vreg t p (bits w 41 4)) ∧ s.wentOn u st ∧
          ∀ k, k < a ∨ a + 512 ≤ k → u.mem.get k 0#8 = s.mem.get k 0#8) ∧
    (opOf w = 0x19 → bits w 41 4 < 8 ∨ (s.stn t p).lanesBusy = false → let d := s.desc t p (bits w 52 3)
      dOk d (s.rowOffset t p w) → s.writeWait t p d (s.rowOffset t p w) = none → s.creditWait t p d →
        completes (.vst st cyc) s fun u => s.stalled u st 7 ∧ u.mem = s.mem) ∧
    (opOf w = 0x14 → bits w 44 8 = 1 → (s.stn t p).mov = 0 → let ds := s.desc t p (bits w 55 3)
      let dd := s.desc t p (bits w 52 3)
      ∀ (r x : RowRef) (l : List Byte), dOk ds (dCursor ds) → dOk dd (dCursor dd) → s.readOff t p ds (dCursor ds) = (.ok l, s) →
        s.rowRef t p ds (dCursor ds) = some x → x.slot = none → s.rowRef t p dd (dCursor dd) = some r → r.mem ≠ 3 →
        r.slot = none → dSrc dd = 0 → s.rg (TAKE_STATUS_PHASE r.t) ≠ 2 → completes (.movr st cyc) s fun u => let a := rowAddr r.t r.p r.mem r.row
          u.ld a 512 = fitTo 512 l ∧ s.wentOn u st ∧ ∀ k, k < a ∨ a + 512 ≤ k → u.mem.get k 0#8 = s.mem.get k 0#8))

/-- REL releases a slot once and SETP sets its presence bit (R176): a KEEP slot, or a STREAM slot released by as many
consumers as READERS, is empty; a slot set is present with no releases counted. A REL of an empty slot and a SETP of a full
one have no effect but in `SEQ.NULL_SIG`. A slice ends once STOP has issued and nothing of it is outstanding; its end cycle
and the largest so far are recorded (R154). `TFLAG.FORCE` sets the flags of its mask and clears none; a phase written is in
force from the next boundary (R187). -/
def Obligations.SignalsAndSliceEnds : Prop :=
  (∀ (s : State) (st : StId) (cyc : BitVec 23) (w : Nat), s.nextInsn st w →
    let t := st.t.val
    let p := st.p.val
    let k := bits w 50 6
    (s.stn t p).suppress = [] → ∀ q, s.sideOf t p (bits w 56 2) = some q →
    (opOf w = 0x09 → s.present q.1 q.2 k →
      (s.rg (SLOT_CFG_KIND q.1 q.2 k) = 1 → completes (.rel st cyc) s fun u => u.present q.1 q.2 k = false ∧ s.wentOn u st) ∧
      (s.rg (SLOT_CFG_KIND q.1 q.2 k) = 0 → s.rg (SLOT_STAT_RELEASED q.1 q.2 k) + 1 = s.rg (SLOT_CFG_READERS q.1 q.2 k) →
        completes (.rel st cyc) s fun u => u.present q.1 q.2 k = false ∧ s.wentOn u st)) ∧
    (opOf w = 0x09 → ¬ s.present q.1 q.2 k → completes (.rel st cyc) s fun u =>
      u.rg (SEQ_NULL_SIG t p) = (s.rg (SEQ_NULL_SIG t p) + 1) % 2 ^ 64 ∧ s.wentOn u st ∧
      s.onlyRegs u ((SEQ_NULL_SIG t p).key :: seqKeys st)) ∧
    (opOf w = 0x0A → bits w 56 2 = 0 → ¬ s.present q.1 q.2 k → completes (.setp st cyc) s fun u =>
      u.present q.1 q.2 k = true ∧ u.rg (SLOT_STAT_RELEASED q.1 q.2 k) = 0 ∧ s.wentOn u st ∧ u.mem = s.mem) ∧
    (opOf w = 0x0A → bits w 56 2 = 0 → s.present q.1 q.2 k → completes (.setp st cyc) s fun u =>
      u.rg (SEQ_NULL_SIG t p) = (s.rg (SEQ_NULL_SIG t p) + 1) % 2 ^ 64 ∧ s.wentOn u st ∧
      s.onlyRegs u ((SEQ_NULL_SIG t p).key :: seqKeys st))) ∧
  (∀ s : State,
    (∀ (st : StId) (cyc : BitVec 23), let t := st.t.val
      let p := st.p.val
      s.idleStn t p → (s.stn t p).ended = none → s.rg (SEQ_STATE_STATE t p) = 2 ∨ s.rg (SEQ_STATE_STATE t p) = 3 → p ≠ 16 →
      completes (.sliceEnd st cyc) s fun u => u.rg (SEQ_STATE_STATE t p) = 4 ∧ u.rg (SEQ_END_CYCLE t p) = cyc.toNat ∧
        u.rg (SEQ_MAXEND_CYCLE t p) = max cyc.toNat (s.rg (SEQ_MAXEND_CYCLE t p)) ∧ (u.stn t p).ended = some cyc.toNat ∧
        u.mem = s.mem) ∧
    (∀ (st : StId) (cyc : BitVec 23), ¬ s.idleStn st.t.val st.p.val → exec (.sliceEnd st cyc) s = .next s) ∧
    (∀ (t : Fin 12) (v : BitVec 32), completes (.tflagForce t v) s fun u =>
      (∀ k < 32, bit (u.rg (TFLAG_STATE_FLAGS t.val)) k = (bit (s.rg (TFLAG_STATE_FLAGS t.val)) k || bit v.toNat k)) ∧
      s.onlyRegs u [(TFLAG_STATE_FLAGS t.val).key]) ∧
    (∀ (st : StId) (v : BitVec 16), completes (.seqPhaseWrite st v) s fun u => u.regs = s.regs ∧
      (u.stn st.t.val st.p.val).phaseNext = some v.toNat ∧ u.phasesNext.rg (SEQ_PHASE_PHASE st.t.val st.p.val) = v.toNat))

/-! ## Stations and memories -/

/-- The next tile of the issuing run enters the array once its operands are there (R66, R163): shown for BF16, where the run
either goes on with its next tile or gives way to the queued run. The tile's accumulators start from the preload and add
products one by one (R98). A TABLE4 run that has its table reads it no more (R92). The oldest tile drains into the vector
lanes when its row checks pass (R68, R81, R198): the accumulators are in V8 to V15, no memory changes, and the array is busy
only while another tile is in it (R88). A tile whose rows had to wait goes on with the rows left: once the last is written it
is out, and counted when they set presence bits (R88, R165). -/
def Obligations.TilesEnterAndDrain : Prop :=
  (∀ (s : State) (st : StId) (cyc : BitVec 23) (r : Run) act wl pl,
    let t := st.t.val
    let p := st.p.val
    let v := s.stn t p
    v.issuing = some r → v.tiles.length < 2 → s.rg (SEQ_STATE_STATE t p) = 2 → tGrp r.word = 0 → 0 < tKb r.word →
    (dFmt r.wd = 4 → r.tab.isSome) → intMode (dFmt r.ad) (dFmt r.wd) = false → ∀ offs s', s.feed t p cyc.toNat r = .ok act wl pl offs s' →
    completes (.tileIssue st cyc []) s fun u => u.on (ARRAY_STATE_BUSY t p) ∧ u.mem = s.mem ∧
      (∃ x, (u.stn t p).tiles = v.tiles ++ [x] ∧ x.t = r.next ∧ x.run.word = r.word ∧ x.n = 32 * tKb r.word ∧ x.cells.length = 1024) ∧
      (tT r.word ≤ r.next + 1 → (u.stn t p).issuing = v.queued ∧ (u.stn t p).queued = none) ∧
      (r.next + 1 < tT r.word → ∃ q, (u.stn t p).issuing = some q ∧ q.next = r.next + 1 ∧ q.word = r.word)) ∧
  (∀ (s : State) (st : StId) (cyc : BitVec 23) (x : TileRec) (rest : List TileRec),
    let t := st.t.val
    let p := st.p.val
    let v := s.stn t p
    v.tiles = x :: rest → s.rg (SEQ_STATE_STATE t p) = 2 →
    (tDst x.run.word = 3 → x.left = none → x.colSum = [] →
      (∀ i < 32, drainOk ((List.range 32).map fun j => decW (x.cells.getD (32 * i + j) 0)) (x.rowSum.getD i fzero)
        (x.rowMag.getD i fzero) x.n = true) →
      completes (.tileComplete st cyc []) s fun u => (u.stn t p).tiles = rest ∧
        u.rg (ARRAY_STATE_BUSY t p) = b2n !rest.isEmpty ∧ u.rg (ARRAY_TILES t p) = s.rg (ARRAY_TILES t p) ∧ u.mem = s.mem ∧
        ∀ i < 8, u.vreg t p (8 + i) = slice ((drainOrder (tTd x.run.word) ((List.range 1024).map fun k => x.cells.getD k 0)).map
          fun c => natLE 4 c).flatten (512 * i) 512) ∧
    (∀ l q, tDst x.run.word ≠ 3 → v.curveLoad = none → x.left = some l → s.drainRows t p x.run x.t l = q →
      completes (.tileComplete st cyc []) s fun u => u.mem = q.1.mem ∧
        (q.2 = [] → (u.stn t p).tiles = rest ∧ u.rg (ARRAY_TILES t p) =
          (q.1.rg (ARRAY_TILES t p) + b2n (dMode x.run.od)) % 2 ^ 64) ∧
        (q.2 ≠ [] → (u.stn t p).tiles = { x with left := some q.2 } :: rest)))

/-- A curve-load ends when its rows are read: the table is in the slot, which is valid (R109, R110). A repair written to a
station without a slice takes effect, to an assigned station it is refused with ERR (R87). The scrubber reads one row (R121):
a word with one bit wrong is counted, logged and written back; an uncorrectable word is counted, logged and keeps its mark,
and no fault is raised. An upset after its visit stays for the next read (R119). -/
def Obligations.CurvesRepairsScrubs : Prop :=
  (∀ (s : State) (st : StId), let t := st.t.val
    let p := st.p.val
    (∀ (cyc : BitVec 23) (c : CurveLoad) (l : List Byte), (s.stn t p).curveLoad = some c → (s.stn t p).waiting = [] →
      (s.stn t p).tiles = [] → c.slot < 4 → s.readOffs t p c.desc c.off 9 = (.ok l, s) → completes (.curveLoadDone st cyc) s fun u =>
        (u.stn t p).curves.get c.slot [] = l ∧ bit (u.rg (CURVE_STATE_VALID t p)) c.slot = true ∧
        u.rg (CURVE_STATE_LOADING t p) = 0 ∧ (u.stn t p).curveLoad = none ∧ u.mem = s.mem) ∧
    (∀ w : BitVec 32, ¬ s.assigned t p → bit w.toNat 30 = false → bits w.toNat 8 6 = 32 → bits w.toNat 0 6 = 32 →
      completes (.arrayRepairWrite st w) s fun u => u.rg (ARRAY_REPAIR_COL_OMIT t p) = 32 ∧
        u.rg (ARRAY_REPAIR_ROW_OMIT t p) = 32 ∧ u.rg (ARRAY_REPAIR_EN t p) = bits w.toNat 31 1 ∧
        s.onlyRegs u [(ARRAY_REPAIR_EN t p).key, (ARRAY_REPAIR_COL_OMIT t p).key, (ARRAY_REPAIR_ROW_OMIT t p).key]) ∧
    (∀ w : BitVec 32, s.assigned t p → completes (.arrayRepairWrite st w) s fun u => u.on (ARRAY_REPAIR_ERR t p) ∧
      s.onlyRegs u [(ARRAY_REPAIR_ERR t p).key])) ∧
  (∀ (s : State) (t : Fin 12) (p : Fin 18) (m : Fin 4) (row : BitVec 12) (i : Nat),
    i < 64 → p.val ≠ 17 → row.toNat < memRows m.val → (m.val = 3 → ¬ s.assigned t.val p.val) → s.ecc = [] →
    let lg (u : State) (unc : Nat) : Prop := u.on (MEM_ECC_LOG_VALID t.val p.val) ∧ u.rg (MEM_ECC_LOG_UNC t.val p.val) = unc ∧
      u.rg (MEM_ECC_LOG_WORD t.val p.val) = i ∧ u.on (MEM_ECC_LOG_SCRUB t.val p.val)
    (completes (.scrubRow t p m row ⟨[⟨i, .single, 0⟩], false⟩) s fun u => u.ecc = [] ∧ u.integ = s.integ ∧ u.mem = s.mem ∧
      u.rg (MEM_ECC_CORR t.val p.val) = (s.rg (MEM_ECC_CORR t.val p.val) + 1) % 2 ^ 64 ∧
      (¬ s.on (MEM_ECC_LOG_VALID t.val p.val) → lg u 0)) ∧
    (completes (.scrubRow t p m row ⟨[⟨i, .uncorrectable, 0⟩], false⟩) s fun u => u.integ = s.integ ∧ u.mem = s.mem ∧
      u.ecc.get (rowAddr t.val p.val m.val row.toNat / 8 + i) 0 = 2 ∧
      u.rg (MEM_ECC_UNC t.val p.val) = (s.rg (MEM_ECC_UNC t.val p.val) + 1) % 2 ^ 64 ∧
      (¬ s.on (MEM_ECC_LOG_VALID t.val p.val) → lg u 1)) ∧
    (completes (.scrubRow t p m row ⟨[⟨i, .single, 0⟩], true⟩) s fun u => u.regs = s.regs ∧ u.mem = s.mem ∧
      u.ecc.get (rowAddr t.val p.val m.val row.toNat / 8 + i) 0 = 1))

/-- The presence bit of a slot (R125 to R128): its producer sets it, and a STREAM slot's bit falls with the release that
makes READERS of them; fewer releases are counted. A HELD slot is neither set nor released by these events. A row that
arrives over a promenade link is written to the slot it names, when the slot is free, and takes one credit of its sender; the
rest of the memories stays. A station in pass-through sends it on over its other link instead (R122). A row with a parity
error is not written: it is counted, and the slice that sent it is faulted; so is the slice that reads, when the row was
returned for a read (R124). A credit that returns raises the sender's credits, to at most 8 (R123). Pass-through is changed
only while the station has no slice, otherwise ERR is set (R122). The pages of a terrace store that are asked for wait for
the next boundary when no slice and no valid frame lies in the way; more than 128 are refused as a reserved encoding (R8,
R132). -/
def Obligations.SlotsLinksAndPages : Prop :=
  (∀ (s : State) (st : StId) (k : Fin 64), let t := st.t.val
    let p := st.p.val
    (s.on (SLOT_CFG_EN t p k.val) → s.rg (SLOT_CFG_KIND t p k.val) ≠ 2 → ¬ s.present t p k.val → completes (.slotSet st k) s fun u =>
      u.present t p k.val = true ∧ u.rg (SLOT_STAT_RELEASED t p k.val) = 0 ∧ s.onlyRegs u [(SLOT_STAT_PRESENT t p k.val).key,
        (SLOT_STAT_RELEASED t p k.val).key, (SLOT_STAT_RWAIT t p k.val).key]) ∧
    (s.rg (SLOT_CFG_KIND t p k.val) = 2 → exec (.slotSet st k) s = .next s ∧ exec (.slotRelease st k) s = .next s) ∧
    (s.rg (SLOT_CFG_KIND t p k.val) = 0 → s.present t p k.val →
      (s.rg (SLOT_STAT_RELEASED t p k.val) + 1 = s.rg (SLOT_CFG_READERS t p k.val) → completes (.slotRelease st k) s fun u =>
        u.present t p k.val = false ∧ u.mem = s.mem) ∧
      (s.rg (SLOT_STAT_RELEASED t p k.val) + 1 < s.rg (SLOT_CFG_READERS t p k.val) → completes (.slotRelease st k) s fun u =>
        u.present t p k.val = true ∧ u.rg (SLOT_STAT_RELEASED t p k.val) = s.rg (SLOT_STAT_RELEASED t p k.val) + 1))) ∧
  (∀ (s : State) (st : StId) (up : Bool), let t := st.t.val
    let p := st.p.val
    (∀ (cyc : BitVec 23) (q : Nat × Nat) (r : LinkRow) (rest : List LinkRow) (c : Nat), adjacent t p up = some q →
      (s.stn q.1 q.2).link (!up) = { rows := r :: rest, credits := c + 1 } →
      (¬ s.on (MEM_PASS_EN t p) → ¬ s.present t (s.land t p) r.slot → s.rg (TAKE_STATUS_PHASE t) ≠ 2 →
        completes (.linkRowReceive st up ⟨false, false⟩ cyc) s fun u => let m := s.land t p
          let a := rowAddr t m (s.rg (SLOT_CFG_MEM t m r.slot)) (s.rg (SLOT_CFG_BASE t m r.slot) + r.row)
          u.ld a 512 = fitTo 512 r.data ∧ (r.set → u.present t m r.slot = true) ∧
          (u.stn q.1 q.2).link (!up) = { rows := rest, credits := c } ∧
          ∀ k, k < a ∨ a + 512 ≤ k → u.mem.get k 0#8 = s.mem.get k 0#8) ∧
      (s.on (MEM_PASS_EN t p) → ((s.stn t p).link (!up)).rows.length < ((s.stn t p).link (!up)).credits →
        completes (.linkRowReceive st up ⟨false, false⟩ cyc) s fun u =>
          ((u.stn t p).link (!up)).rows = ((s.stn t p).link (!up)).rows ++ [r] ∧
          (u.stn q.1 q.2).link (!up) = { rows := rest, credits := c } ∧ u.regs = s.regs ∧ u.mem = s.mem) ∧
      exec (.linkRowReceive st up ⟨false, true⟩ cyc) s = .next (((s.takeRow q (!up) rest).bump (MEM_LINK_ERR t p)).faultSlice
        (r.src / 17) (r.src % 17) stUncorrectable cyc.toNat false true 0)) ∧
    (∀ cyc : BitVec 23, exec (.linkRowReceive st up ⟨true, false⟩ cyc) s = .next s ∧ (¬ s.on (MEM_PASS_EN t p) →
      exec (.linkRowReceive st up ⟨true, true⟩ cyc) s =
        .next ((s.bump (MEM_LINK_ERR t p)).faultSlice t p stUncorrectable cyc.toNat false true 0))) ∧
    (completes (.creditReturn st up) s fun u => u.regs = s.regs ∧ u.mem = s.mem ∧
      ((u.stn t p).link up).credits = min 8 (((s.stn t p).link up).credits + 1) ∧
      ((u.stn t p).link up).rows = ((s.stn t p).link up).rows)) ∧
  (∀ s : State,
    (∀ (st : StId) (w : BitVec 32), ¬ s.assigned st.t.val st.p.val → completes (.memPassWrite st w) s fun u =>
      u.rg (MEM_PASS_EN st.t.val st.p.val) = bits w.toNat 31 1 ∧
      s.onlyRegs u [(MEM_PASS_EN st.t.val st.p.val).key, (MEM_PASS_ERR st.t.val st.p.val).key]) ∧
    (∀ (st : StId) (w : BitVec 32), s.assigned st.t.val st.p.val → bits w.toNat 31 1 ≠ s.rg (MEM_PASS_EN st.t.val st.p.val) →
      completes (.memPassWrite st w) s fun u => u.on (MEM_PASS_ERR st.t.val st.p.val) ∧
        u.rg (MEM_PASS_EN st.t.val st.p.val) = s.rg (MEM_PASS_EN st.t.val st.p.val)) ∧
    (∀ (t : Fin 12) (w : BitVec 32), bits w.toNat 0 8 ≤ 128 → s.rg (TSTORE_CTRL_PAGES t.val) ≤ bits w.toNat 0 8 →
      (∀ p < 17, ¬ s.assigned t.val p) → completes (.tstorePagesWrite t w) s fun u =>
        (u.ter t.val).pagesNext = some (bits w.toNat 0 8) ∧ u.rg (TSTORE_CTRL_PAGES t.val) = s.rg (TSTORE_CTRL_PAGES t.val) ∧
        u.mem = s.mem) ∧
    (∀ (t : Fin 12) (w : BitVec 32), 128 < bits w.toNat 0 8 → completes (.tstorePagesWrite t w) s fun u => u.ters = s.ters ∧
      s.onlyRegs u [(TSTORE_CTRL_ERR t.val).key]))

/-! ## The vector unit -/

/-- The elementwise functions (R189, R190): each element of VD is the function of the elements of VA, VB and VC, or of IMM,
in the view that the instruction names; nothing else changes but the sequencer and the unit's counters. Arithmetic in the
integer views (R189): INT32 wraps modulo 2^32, INT8 saturates to -128 and 127. MAX and MIN of numbers are one of the two. -/
def Obligations.VectorArithmetic : Prop :=
  (∀ (s : State) (st : StId) (cyc : BitVec 23) (w : Nat), let v := vView w
    let a := s.el st v (vVa w)
    let b := s.el st v (vVb w)
    let c := s.el st v (vVc w)
    let gives (f : Nat → Nat) (u : State) : Prop := s.vecDone u st w v f
    (s.nextVec st 0x00 w → completes (.vmov st cyc) s (gives a)) ∧
    (s.nextVec st 0x01 w → completes (.vadd st cyc) s (gives fun x => lift2 Fp.add (· + ·) v (a x) (b x))) ∧
    (s.nextVec st 0x02 w → completes (.vsub st cyc) s (gives fun x => lift2 Fp.sub (· - ·) v (a x) (b x))) ∧
    (s.nextVec st 0x03 w → completes (.vmul st cyc) s (gives fun x => lift2 Fp.mul (· * ·) v (a x) (b x))) ∧
    (s.nextVec st 0x04 w → completes (.vfma st cyc) s
      (gives fun x => lift3 Fp.fma (fun x y z => x * y + z) v (a x) (b x) (c x))) ∧
    (s.nextVec st 0x05 w → completes (.vmax st cyc) s (gives fun x => lift2 Fp.max max v (a x) (b x))) ∧
    (s.nextVec st 0x06 w → completes (.vmin st cyc) s (gives fun x => lift2 Fp.min min v (a x) (b x))) ∧
    (s.nextVec st 0x08 w → completes (.vaddi st cyc) s (gives fun x => lift2 Fp.add (· + ·) v (a x) (vImm w))) ∧
    (s.nextVec st 0x09 w → completes (.vmuli st cyc) s (gives fun x => lift2 Fp.mul (· * ·) v (a x) (vImm w))) ∧
    (s.nextVec st 0x0A w → completes (.vfmai st cyc) s
      (gives fun x => lift3 Fp.fma (fun x y z => x * y + z) v (a x) (vImm w) (b x))) ∧
    (s.nextVec st 0x0B w → completes (.vmaxi st cyc) s (gives fun x => lift2 Fp.max max v (a x) (vImm w))) ∧
    (s.nextVec st 0x0D w → completes (.vsel st cyc) s (gives fun x => if c x = 0 then b x else a x)) ∧
    (s.nextVec st 0x0E w → completes (.vlerp st cyc) s (gives fun x => lerpV v (a x) (b x) (c x)))) ∧
  (∀ (ff : Fp → Fp → Fp) (a b : Nat), a < 2 ^ 32 → b < 2 ^ 32 →
    lift2 ff (· + ·) 2 a b = (a + b) % 2 ^ 32 ∧ lift2 ff (· * ·) 2 a b = a * b % 2 ^ 32 ∧
    lift2 ff (· - ·) 2 a b = (a + (2 ^ 32 - b)) % 2 ^ 32 ∧
    (a < 2 ^ 8 → b < 2 ^ 8 → sext 8 (lift2 ff (· + ·) 3 a b) = max (-128) (min 127 (sext 8 a + sext 8 b)) ∧
      sext 8 (lift2 ff (· * ·) 3 a b) = max (-128) (min 127 (sext 8 a * sext 8 b))))

/-- The functions of one or two values (R191, R192): each element of VD is the function of VA's element, rounded in the view;
VDIV counts its divisions by zero and sets the flag when there are any. VABS clears the sign, 127 for -128 in INT8; the
absolute value of the most negative INT32 is an open value. VCMP writes masks of all ones or 0 and sets the flag when any
comparison holds. VCVT of a view into a format as wide writes one element for each (R189, R190, R194, R195). Readings of the
model in it: log entries 38, 39. -/
def Obligations.VectorFunctionsRound : Prop :=
  (∀ (s : State) (st : StId) (cyc : BitVec 23) (w : Nat), let v := vView w
    let a := s.el st v (vVa w)
    let b := s.el st v (vVb w)
    let gives (g : Fp → Fp) (u : State) : Prop := s.vecDone u st w v fun x => encV v (g (decV v (a x)))
    (s.nextVec st 0x10 w → completes (.vexp st cyc) s (gives Fp.exp)) ∧
    (s.nextVec st 0x11 w → completes (.vexp2 st cyc) s (gives Fp.exp2)) ∧
    (s.nextVec st 0x12 w → completes (.vlog2 st cyc) s (gives Fp.log2)) ∧
    (s.nextVec st 0x13 w → completes (.vrcp st cyc) s (gives Fp.rcp)) ∧
    (s.nextVec st 0x14 w → completes (.vsqrt st cyc) s (gives Fp.sqrt)) ∧
    (s.nextVec st 0x15 w → completes (.vrsqrt st cyc) s (gives Fp.rsqrt)) ∧
    (s.nextVec st 0x16 w → completes (.vsigm st cyc) s (gives Fp.sigm)) ∧
    (s.nextVec st 0x17 w → completes (.vtanh st cyc) s (gives Fp.tanh)) ∧
    (s.nextVec st 0x18 w → completes (.vexpd st cyc) s fun u =>
      s.vecDone u st w v fun x => encV v ((decV v (a x)).expd (decV v (b x)))) ∧
    (s.nextVec st 0x0F w → completes (.vdiv st cyc) s fun u =>
      s.vecDone u st w v (fun x => encV v ((decV v (a x)).div (decV v (b x)))) ∧
      let z := (List.range (viewN v)).countP fun x => ((decV v (a x)).divz (decV v (b x))).2
      u.rg (VEC_DIV0 st.t.val st.p.val) = (s.rg (VEC_DIV0 st.t.val st.p.val) + z) % 2 ^ 64 ∧
      u.on (VEC_STATE_FLAG st.t.val st.p.val) = (decide (0 < z) || s.on (VEC_STATE_FLAG st.t.val st.p.val)))) ∧
  (∀ (s : State) (st : StId) (cyc : BitVec 23) (w : Nat), let v := vView w
    let a := s.el st v (vVa w)
    let b := s.el st v (vVb w)
    (s.nextVec st 0x07 w → (v = 2 → ∀ x < 128, a x ≠ 2 ^ 31) → completes (.vabs st cyc) s fun u =>
      s.vecDone u st w v fun x => if isFp v then a x % 2 ^ (8 * viewW v - 1)
        else if v = 2 then (sext 32 (a x)).natAbs else min 127 (sext 8 (a x)).natAbs) ∧
    (s.nextVec st 0x0C w → completes (.vcmp st cyc) s fun u =>
      s.vecDone u st w v (fun x => if cmpV (bits w 0 2) v (a x) (b x) then 2 ^ (8 * viewW v) - 1 else 0) ∧
      u.on (VEC_STATE_FLAG st.t.val st.p.val) = (List.range (viewN v)).any fun x => cmpV (bits w 0 2) v (a x) (b x)) ∧
    (s.nextVec st 0x20 w → v = 0 → bits w 0 4 = 2 → bits w 4 3 = 0 → completes (.vcvt st cyc) s fun u =>
      s.vecDone u st w v fun x => (cvt 0 2 (a x)).1))

/-- VRED leaves in each element the reduction of its row class, or of all of them (R193); VSCAN runs the recurrence h = a h +
b, each step rounded once, in four groups of 32 elements (R196). The window functions (R206 to R211) once their rows can be
read and no window run is outstanding: VDW filters each channel over the taps of its output position, VPOOL takes the maximum
or the average, VCROP samples bilinearly; an element outside the output or the channels is 0. -/
def Obligations.ReductionsAndWindows : Prop :=
  (∀ (s : State) (st : StId) (cyc : BitVec 23) (w : Nat), let v := vView w
    let a := s.el st v (vVa w)
    (s.nextVec st 0x28 w → isFp v → bit w 2 = false → completes (.vred st cyc) s fun u => s.vecDone u st w v fun x =>
      encV v (tree (redFp (bits w 0 2)) fzero 8 ((List.range (viewN v / 32)).map fun q => decV v (a (32 * q + x % 32))))) ∧
    (s.nextVec st 0x28 w → ¬ isFp v → bit w 2 = false → completes (.vred st cyc) s fun u => s.vecDone u st w v fun x =>
      patV v (tree (redInt (bits w 0 2)) 0 8 ((List.range (viewN v / 32)).map fun q => intV v (a (32 * q + x % 32))))) ∧
    (s.nextVec st 0x30 w → completes (.vscan st cyc) s fun u => s.vecDone u st w 0 fun x =>
      (scanGo (decW (s.el st 0 (vVc w) (32 * (x / 32) + 31))) ((List.range 32).map fun i =>
        (s.el st 0 (vVa w) (32 * (x / 32) + i), s.el st 0 (vVb w) (32 * (x / 32) + i)))).getD (x % 32) 0)) ∧
  (∀ (s : State) (st : StId) (cyc : BitVec 23) (w : Nat) (l : List Byte)
    (m : KMap (List Byte)),
    let t := st.t.val
    let p := st.p.val
    let wc := bits w 31 3
    let c := WinCfg.ofRow ((s.stn t p).wcfg.get wc (zeros 512))
    let d := s.desc t p (c.lbd % 8)
    let nb := fmtBits (dFmt d)
    let pos := s.rg (WIN_OPOS t p wc)
    let rd (a : Option (Nat × Nat)) : Fp := decFmt (dFmt d) (fromRows nb m a)
    let offs (as : List (Nat × Option (Nat × Nat))) : List Nat :=
      (as.filterMap fun a => a.2.map fun x => (a.1, x.1)).eraseDups.map fun a => a.2
    let q (x : Nat) : Nat := pos + x % 32
    let ch (x : Nat) : Nat := 4 * bits w 26 5 + x / 32
    (∀ r ∈ (s.stn t p).waiting, opOf r.word ≠ 2) →
    (s.nextVec st 0x38 w → c.kh * c.kw ≤ 32 → s.gather t p d (offs (winReads s st c w pos)) [] = (.ok l, m, s) → completes (.vdw st cyc) s fun u =>
      s.vecDone u st w 0 (fun x => if c.positions ≤ q x ∨ c.c ≤ ch x then 0
        else encW (((winTaps c nb (q x) (ch x)).zip (List.range (c.kh * c.kw))).foldl (fun acc y =>
          ((rd y.1.2).fma (decW (s.el st 0 (vVb w) (4 * y.2 + x / 32))) acc).rnd 24) (decW (s.el st 0 (vVc w) (x / 32))))) ∧
      (bit w 0 → u.rg (WIN_OPOS t p wc) = (pos + 32) % 2 ^ 24)) ∧
    (s.nextVec st 0x39 w → s.gather t p d (offs (winReads s st c w pos)) [] = (.ok l, m, s) → completes (.vpool st cyc) s fun u =>
      s.vecDone u st w 0 fun x => if c.positions ≤ q x ∨ c.c ≤ ch x then 0
        else (poolOne (bit w 25) (bit w 24) ((winTaps c nb (q x) (ch x)).map fun y => (y.1, rd y.2))).1) ∧
    (s.nextVec st 0x3A w → s.gather t p d (offs ((List.range 128).map fun x => match cropAt s st c w x with
          | some (some y) => (cropAddrs c nb y).map fun a => (0, a)
          | _ => []).flatten) [] = (.ok l, m, s) → completes (.vcrop st cyc) s fun u => s.vecDone u st w 0 fun x =>
        match cropAt s st c w x with
        | some (some y) => encW (cropSample y.2.1.2.2 y.1.2.2 (rd (some (c.place nb y.1.1 y.2.1.1 y.2.2)))
            (rd (some (c.place nb y.1.1 y.2.1.2.1 y.2.2))) (rd (some (c.place nb y.1.2.1 y.2.1.1 y.2.2)))
            (rd (some (c.place nb y.1.2.1 y.2.1.2.1 y.2.2))))
        | _ => 0))

/-- The detection helpers (R212 to R215): VBDEC decodes 32 boxes; VNMS with no score at the threshold keeps none and clears
the flag, and otherwise lists the boxes kept by score; VTOPK lists the K largest scores with their indices. -/
def Obligations.DetectionHelpers : Prop := ∀ (s : State) (st : StId) (cyc : BitVec 23) (w : Nat),
  let t := st.t.val
  let p := st.p.val
  let a (x : Nat) : Fp := decW (s.el st 0 (vVa w) x)
  let b (x : Nat) : Fp := decW (s.el st 0 (vVb w) x)
  let c (x : Nat) : Fp := decW (s.el st 0 (vVc w) x)
  (s.nextVec st 0x40 w → completes (.vbdec st cyc) s fun u => s.vecDone u st w 0 fun x =>
    let i := x / 4
    let y := decodeAxis (a (4 * i)) (a (4 * i + 2)) (b (4 * i)) (b (4 * i + 2)) (c 0) (c 2) (c 4)
    let z := decodeAxis (a (4 * i + 1)) (a (4 * i + 3)) (b (4 * i + 1)) (b (4 * i + 3)) (c 1) (c 3) (c 4)
    encW (if x % 4 = 0 then y.1 else if x % 4 = 1 then z.1 else if x % 4 = 2 then y.2 else z.2)) ∧
  (s.nextVec st 0x41 w → let nb := bits w 32 2 + 1
    let elig := (List.range (32 * nb)).filter fun i => !(b i).isNan && !(c 0).isNan && decide ((b i).cmp (c 0) ≥ 0)
    let boxes := ((List.range (32 * nb)).map fun i => (List.range 4).map fun e =>
      decW (s.el st 0 (vVa w + i / 32) (4 * (i % 32) + e))).toArray
    let kept := nmsGo (c 1) boxes (if bits w 0 8 = 0 then 128 else bits w 0 8)
      (elig.foldl (fun l i => insertScore (b i, (i : Int)) l) []) []
    completes (.vnms st cyc) s fun u => s.vecDone u st w 2 (fun x => kept.getD x (2 ^ 32 - 1)) ∧
      u.on (VEC_STATE_FLAG t p) = !kept.isEmpty ∧ (elig = [] → kept = [])) ∧
  (s.nextVec st 0x42 w → bit w 23 → vVd w ≠ vVc w → let k := bits w 16 7 + 1
    let top := ((((List.range 128).map fun x => (a x, ((bits w 0 16 + x : Nat) : Int))).filter fun x => !x.1.isNan).foldl
      (fun l x => insertScore x l) []).take k
    completes (.vtopk st cyc) s fun u => s.wentOn u st ∧ u.mem = s.mem ∧
      (∀ x < 128, u.el st 2 (vVd w) x = ((top.map fun y => toBits 32 y.2).getD x (2 ^ 32 - 1))) ∧
      ∀ x < 128, u.el st 0 (vVc w) x = ((top.map fun y => encW y.1).getD x (encW (.inf true))) % 2 ^ 32)

/-! ## Attention and pages -/

/-- An idle attention unit starts the job of its lowest queue that is enabled, has not run in the tide and whose GO flag is
set; a job whose entries have all ended sets its DONE flag (R225, R227). The running entry of a unit (R227 to R232): an
attend entry out of order gets BAD_DESCRIPTOR; one that attends no position completes with every query's output empty, its
status OK and NEMPTY their number. An append entry (R233, R234): out of order it gets BAD_DESCRIPTOR; otherwise its positions
are written in order into the pages that its track maps, shared ones copied first, and it ends with OK. Readings of the model
in it: log entries 42, 44. -/
def Obligations.AttentionEntries : Prop :=
  (∀ (s : State) (t : Fin 12) (q : Nat), q < 4 →
    let ready (k : Nat) : Bool := s.on (ATT_Q_EN t.val k) && !s.on (ATT_Q_RAN t.val k) &&
      bit (s.rg (TFLAG_STATE_FLAGS t.val)) (s.rg (ATT_Q_GO t.val k))
    (¬ s.on (ATT_STATUS_BUSY t.val) → ready q → (∀ k < q, ¬ ready k) → completes (.attentionJobStart t) s fun u =>
      u.on (ATT_STATUS_BUSY t.val) ∧ u.rg (ATT_STATUS_QUEUE t.val) = q ∧ u.rg (ATT_STATUS_ROW t.val) = s.rg (ATT_Q_ROW t.val q) ∧
      u.rg (ATT_STATUS_ENTRY t.val) = 0 ∧ u.on (ATT_Q_RAN t.val q) ∧ u.mem = s.mem ∧
      (u.att t.val).fin = decide (s.tsRegion t.val ≤ s.rg (ATT_Q_ROW t.val q))) ∧
    (s.on (ATT_STATUS_BUSY t.val) → (s.att t.val).fin → s.rg (ATT_STATUS_QUEUE t.val) = q → completes (.attentionJobDone t) s
      fun u => ¬ u.on (ATT_STATUS_BUSY t.val) ∧ bit (u.rg (TFLAG_STATE_FLAGS t.val)) (s.rg (ATT_Q_DONE t.val q)) = true ∧
        s.onlyRegs u [(ATT_STATUS_BUSY t.val).key, (TFLAG_STATE_FLAGS t.val).key])) ∧
  (∀ (s : State) (t : Fin 12) (x : Entry),
    let a := tsAddr t.val (s.rg (ATT_STATUS_ROW t.val)) + 32 + 32 * s.rg (ATT_STATUS_ENTRY t.val)
    s.attBusy t.val → s.entry t.val = ((x, true), s) → bit x.kind 0 = false →
    s.rg (ATT_STATUS_ENTRY t.val) + 1 < x.count →
    (¬ s.attendOk t.val x → completes (.attendEntry t) s fun u => u.ldN (a + 28) 1 = stBadDescriptor ∧ u.ldN (a + 30) 2 = 0 ∧
      u.rg (ATT_STATUS_ENTRY t.val) = s.rg (ATT_STATUS_ENTRY t.val) + 1 ∧
      (¬ s.on (ATT_FAULT_VALID t.val) → u.rg (ATT_FAULT_CODE t.val) = stBadDescriptor ∧ u.on (ATT_FAULT_VALID t.val)) ∧
      ∀ k, k < a + 28 ∨ a + 32 ≤ k → u.mem.get k 0#8 = s.mem.get k 0#8) ∧
    (∀ qb sb mb, s.attendOk t.val x → x.range = 0 → s.tsRows t.val x.qrow (ceilDiv x.outs 4) = (some qb, s) →
      s.tsRows t.val x.srow (ceilDiv x.outs 256) = (some sb, s) → s.tsRows t.val x.mrow x.mrows = (some mb, s) →
      completes (.attendEntry t) s fun u => u.ldN (a + 28) 1 = stOk ∧ u.ldN (a + 30) 2 = x.outs ∧
        u.rg (ATT_STATUS_ENTRY t.val) = s.rg (ATT_STATUS_ENTRY t.val) + 1 ∧
        u.rg (ATT_EMPTY t.val) = (s.rg (ATT_EMPTY t.val) + x.outs) % 2 ^ 64)) ∧
  (∀ (s : State) (t : Fin 12) (x : Entry),
    s.attBusy t.val → s.entry t.val = ((x, true), s) → bit x.kind 0 = true →
    (¬ s.appendOk t.val x → completes (.appendEntry t) s fun u => u = s.endEntry t.val x stBadDescriptor 0 ∧
      let a := tsAddr t.val (s.rg (ATT_STATUS_ROW t.val)) + 32 + 32 * s.rg (ATT_STATUS_ENTRY t.val)
      u.ldN (a + 28) 1 = stBadDescriptor) ∧
    (∀ kb vb sb (e : SeqEnt) s1 pgs s2 pgs' s3, s.appendOk t.val x → s.on PS_CTRL_EN →
      s.tsRows t.val x.qrow (ceilDiv x.qn 4) = (some kb, s) → s.tsRows t.val x.orow (ceilDiv x.qn 4) = (some vb, s) →
      s.tsRows t.val x.srow 1 = (some sb, s) → s.seqEnt t.val x.seq = ((e, false), s1) → e.len ≤ x.qpos →
      let first := x.qpos / 64
      let last := (x.qpos + x.qn - 1) / 64
      s1.trAll t.val x e (if first = last then [first] else [first, last]) = (.ok pgs, s2) →
      (∀ y ∈ pgs, iPoison (s2.info y.2.1) = false ∧ iPoison (s2.info y.2.2) = false) →
      (pgs.filter fun y => decide (1 < iRef (s2.info y.2.1))).length ≤ s2.rg PS_RESV →
      s2.cowAll t.val x e pgs = (.ok pgs', s3) → completes (.appendEntry t) s fun u =>
        u = ((List.range x.qn).foldl (fun (s : State) n => match pgs'.find? fun y => y.1 == (x.qpos + n) / 64 with
          | some y => s.appendPos t.val x kb vb sb y.2.1 y.2.2 n
          | none => s) s3).endEntry t.val x stOk 0))

/-- INIT puts every page on the free list when none is in use; ALLOC takes the head with one reference; RESERVE and UNRESERVE
move the reservation; an operation that the books do not allow ends with its status and changes no page (R240). SHARE adds a
reference to a page in use, FREE drops one, the last of which leaves the page pending; POISON and UNPOISON mark a page. Each
writes only the page's own entry (R235, R237, R240). Readings of the model in it: log entries 10, 45. -/
def Obligations.PageStore : Prop :=
  (∀ s : State,
    let ends (u : State) (op st : Nat) : Prop := u.on PS_RESULT_DONE ∧ u.rg PS_RESULT_STATUS = st ∧ u.rg PS_CMD_OP = op
    (s.rg PS_IN_USE = 0 → s.rg PS_PENDING = 0 → completes .psInit s fun u => ends u 0 stOk ∧ u.rg PS_FREE = s.rg PS_KV_PAGES ∧
      u.rg PS_RESV = 0 ∧ u.ps.head = 0 ∧ u.ps.pins = []) ∧
    (s.rg PS_IN_USE ≠ 0 → completes .psInit s fun u => ends u 0 stBadDescriptor ∧ u.mem = s.mem ∧ u.ps = s.ps) ∧
    (∀ res, (res = true → 0 < s.rg PS_RESV) → (res = false → s.rg PS_FREE ≠ s.rg PS_RESV) → s.ps.head < 2 ^ 22 →
      s.rg PS_IN_USE < 2 ^ 22 → completes (.psAlloc res) s fun u => ends u 1 stOk ∧ u.rg PS_RESULT_PPN = s.ps.head ∧
        iRef (u.info s.ps.head) = 1 ∧ iAlloc (u.info s.ps.head) = true ∧ u.rg PS_FREE = s.rg PS_FREE - 1 ∧
        u.rg PS_IN_USE = s.rg PS_IN_USE + 1 ∧ u.rg PS_RESV = s.rg PS_RESV - b2n res) ∧
    (s.rg PS_RESV = 0 → completes (.psAlloc true) s fun u => ends u 1 stRefusedMemory ∧ u.mem = s.mem ∧ u.rg PS_FREE = s.rg PS_FREE) ∧
    (∀ n : BitVec 22, s.rg PS_RESV + n.toNat ≤ s.rg PS_FREE → completes (.psReserve n) s fun u => ends u 4 stOk ∧
      u.rg PS_RESV = s.rg PS_RESV + n.toNat ∧ u.mem = s.mem) ∧
    (∀ n : BitVec 22, s.rg PS_FREE < s.rg PS_RESV + n.toNat → completes (.psReserve n) s fun u => ends u 4 stRefusedMemory ∧
      u.rg PS_RESV = s.rg PS_RESV) ∧
    (∀ n : BitVec 22, n.toNat ≤ s.rg PS_RESV → completes (.psUnreserve n) s fun u => ends u 5 stOk ∧
      u.rg PS_RESV = s.rg PS_RESV - n.toNat ∧ u.mem = s.mem)) ∧
  (∀ (s : State) (g : BitVec 22), s.psAlloc? g.toNat →
    let i := s.info g.toNat
    let a := s.infoAddr g.toNat
    let own (u : State) : Prop := u.rg PS_RESULT_STATUS = stOk ∧ u.on PS_RESULT_DONE ∧
      ∀ k, k < a ∨ a + 8 ≤ k → u.mem.get k 0#8 = s.mem.get k 0#8
    (iRef i < 65535 → iPending i = false → completes (.psShare g) s fun u => own u ∧ iRef (u.info g.toNat) = iRef i + 1 ∧
      u.rg PS_IN_USE = s.rg PS_IN_USE) ∧
    (1 < iRef i → completes (.psFree g) s fun u => own u ∧ iRef (u.info g.toNat) = iRef i - 1 ∧ u.rg PS_PENDING = s.rg PS_PENDING) ∧
    (iRef i = 1 → 0 < s.rg PS_IN_USE → s.rg PS_PENDING < 2 ^ 22 → completes (.psFree g) s fun u => own u ∧
      iRef (u.info g.toNat) = 0 ∧ iPending (u.info g.toNat) = true ∧ u.rg PS_IN_USE = s.rg PS_IN_USE - 1 ∧
      u.rg PS_PENDING = s.rg PS_PENDING + 1) ∧
    (completes (.psPoison g) s fun u => own u ∧ iPoison (u.info g.toNat) = true ∧ iRef (u.info g.toNat) = iRef i) ∧
    (completes (.psUnpoison g) s fun u => own u ∧ iPoison (u.info g.toNat) = false ∧ iRef (u.info g.toNat) = iRef i))

/-- The frames of hot pages (R223, R224) and the look-aside buffers (R222): a fill names its page and is not valid until its
rows are written; invalidation ends it; both are refused with ERR when a second frame names the page, or beyond PAGES.
`PS.INV` drops the look-aside entries of a sequence, or all. Readings of the model in it: log entry 46. -/
def Obligations.FramesAndLookAside : Prop := ∀ (s : State) (t : Fin 12) (f : Fin 128),
  let keys := [(ATT_FRAME_PPN t.val f.val).key, (ATT_FRAME_VALID t.val f.val).key, (ATT_FRAME_FILLING t.val f.val).key,
    (ATT_FRAME_ERR t.val f.val).key]
  (∀ w : BitVec 32, s.integ.noSpare = [] → f.val < s.rg (TSTORE_CTRL_PAGES t.val) → ¬ s.framed t.val (bits w.toNat 0 22) f.val →
    completes (.frameFill t f w) s fun u => u.rg (ATT_FRAME_PPN t.val f.val) = bits w.toNat 0 22 ∧
      ¬ u.on (ATT_FRAME_VALID t.val f.val) ∧ u.on (ATT_FRAME_FILLING t.val f.val) ∧ s.onlyRegs u keys) ∧
  (∀ w : BitVec 32, s.integ.noSpare = [] → s.framed t.val (bits w.toNat 0 22) f.val → completes (.frameFill t f w) s fun u =>
    u.on (ATT_FRAME_ERR t.val f.val) ∧ s.onlyRegs u [(ATT_FRAME_ERR t.val f.val).key]) ∧
  (∀ w : BitVec 32, f.val < s.rg (TSTORE_CTRL_PAGES t.val) → ¬ s.framed t.val (bits w.toNat 0 22) f.val →
    completes (.frameInvalidate t f w) s fun u => u.rg (ATT_FRAME_PPN t.val f.val) = bits w.toNat 0 22 ∧
      ¬ u.on (ATT_FRAME_VALID t.val f.val) ∧ ¬ u.on (ATT_FRAME_FILLING t.val f.val) ∧ s.onlyRegs u keys) ∧
  (∀ w : BitVec 32, s.rg (TSTORE_CTRL_PAGES t.val) ≤ f.val ∨ s.framed t.val (bits w.toNat 0 22) f.val →
    completes (.frameInvalidate t f w) s fun u => u.on (ATT_FRAME_ERR t.val f.val) ∧
      s.onlyRegs u [(ATT_FRAME_ERR t.val f.val).key]) ∧
  (∀ p, p = s.kvAddr (s.rg (ATT_FRAME_PPN t.val f.val)) →
    s.on (ATT_FRAME_FILLING t.val f.val) → s.unitMarks (p - dramBase) 16384 = [] → completes (.frameFillDone t f) s fun u =>
      u.on (ATT_FRAME_VALID t.val f.val) ∧ ¬ u.on (ATT_FRAME_FILLING t.val f.val) ∧
      u.ld (tsAddr t.val (frameRow f.val)) 16384 = s.ld p 16384) ∧
  (∀ all q, completes (.psInvalidate all q) s fun u => u.regs = s.regs ∧ u.mem = s.mem ∧
    ∀ e, e ∈ (u.att t.val).lab ↔ e ∈ (s.att t.val).lab ∧ all = false ∧ e.seq ≠ q.toNat)

/-! ## Memory controllers -/

/-- A DRAM request inside mapped memory, without error marks or link errors (R329): a read answers the bytes there and counts
them; a write stores them, and nothing outside them changes. A request outside raises an address error, reads zeros and
writes nothing (R23). While a port is in panic a request of class BULK or HOST that would open a row waits (R333). Protected
regions are set only while the pool is not enabled and only when the regions that result are legal; otherwise ERR is set and
the region stays (R328). The oldest error record goes to the log and leaves the FIFO (R339). Readings of the model in it: log
entry 60. -/
def Obligations.DramRequests : Prop :=
  (∀ (s : State) (port : Fin 29) (a : BitVec 48) (rt : Bool), s.on DRAM_CTRL_EN →
    (∀ n : BitVec 16, s.inDram a.toNat n.toNat → s.unitMarks (a.toNat - dramBase) n.toNat = [] →
      completes (.dramRead port a n rt false false 0) s fun u => u.reply = .bytes (s.ld a.toNat n.toNat) ∧ u.mem = s.mem ∧
        u.rg DRAM_RD_BYTES = (s.rg DRAM_RD_BYTES + n.toNat) % 2 ^ 64 ∧ s.onlyRegs u [DRAM_RD_BYTES.key]) ∧
    (∀ b : List Byte, s.inDram a.toNat b.length → s.unitMarks (a.toNat - dramBase) b.length = [] →
      completes (.dramWrite port a b rt false false 0) s fun u => u.ld a.toNat b.length = b ∧
        u.rg DRAM_WR_BYTES = (s.rg DRAM_WR_BYTES + b.length) % 2 ^ 64 ∧
        ∀ k, k < a.toNat ∨ a.toNat + b.length ≤ k → u.mem.get k 0#8 = s.mem.get k 0#8) ∧
    (∀ n : BitVec 16, ¬ s.inDram a.toNat n.toNat → completes (.dramRead port a n rt false false 0) s fun u =>
      u.reply = .bytes (zeros n.toNat) ∧ u.rg INT_ADDR_ERR = (s.rg INT_ADDR_ERR + 1) % 2 ^ 64 ∧ u.mem = s.mem) ∧
    (∀ b : List Byte, ¬ s.inDram a.toNat b.length → completes (.dramWrite port a b rt false false 0) s fun u =>
      u.rg INT_ADDR_ERR = (s.rg INT_ADDR_ERR + 1) % 2 ^ 64 ∧ u.mem = s.mem) ∧
    (lowClass port.val rt → s.anyPanic → ∀ n b starved link,
      exec (.dramRead port a n rt true starved link) s = .next s ∧ exec (.dramWrite port a b rt true starved link) s = .next s)) ∧
  (∀ s : State,
    (∀ (i : Fin 8) (w : BitVec 32), let s' := s.wrs [(DRAM_PROT_BASE_EN i.val, bits w.toNat 31 1), (DRAM_PROT_BASE_UNIT i.val, w.toNat)]
      (¬ s.on TIER_CTRL_EN → s'.protOk → completes (.dramProtWrite i false w) s fun u =>
        u.rg (DRAM_PROT_BASE_EN i.val) = bits w.toNat 31 1 ∧ u.rg (DRAM_PROT_BASE_UNIT i.val) = w.toNat % 2 ^ 11 ∧
        s.onlyRegs u [(DRAM_PROT_BASE_EN i.val).key, (DRAM_PROT_BASE_UNIT i.val).key]) ∧
      (s.on TIER_CTRL_EN ∨ ¬ s'.protOk → completes (.dramProtWrite i false w) s fun u => u.on DRAM_CTRL_ERR ∧
        s.onlyRegs u [DRAM_CTRL_ERR.key])) ∧
    (∀ r l, s.dram.elog = r :: l → s.log.buf = [] → completes .elogPop s fun u => u.dram.elog = l ∧
      u.rg DRAM_ELOG_FILL = l.length % 2 ^ 6 ∧ u.mem = s.mem ∧ u.log.buf.map (fun e => (e.code, e.src, e.wher)) =
        [(0x0006, 2, r.ch * 256 + r.rb)]))

/-- The upkeep of DRAM (R330, R334, R335, R337): a scrub that finds an uncorrectable unit of a protected region records it
and leaves it so; a refresh lowers the bank's activation count; the end of a window clears the activation counts and
offenders; a channel is recalibrated while tides run, at most once in 64 ms. Readings of the model in it: log entry 60. -/
def Obligations.DramUpkeep : Prop := ∀ s : State,
  (∀ a : BitVec 48, let o := (a.toNat - dramBase) / 64 * 64
    s.inDram a.toNat 1 → s.protectedAt o → s.unitMarks o 1 = [] → s.dram.elog = [] → completes (.dramScrub a 2) s fun u =>
      u.dram.elog.map (fun r => (r.typ, r.ch, r.row)) = [(0x06, (s.dAddr o).ch, (s.dAddr o).row)] ∧ u.mem = s.mem ∧
      u.ecc.get ((dramBase + o) / 8) 0 = 2 ∧ u.rg DRAM_ELOG_FILL = 1) ∧
  (∀ (ch : Fin 24) (rank : Fin 2) (bank : Fin 16), let k := (ch.val * 2 + rank.val) * 16 + bank.val
    completes (.dramRefresh ch rank bank) s fun u => u.dram.raa.get k 0 = s.dram.raa.get k 0 - Config.raaimt ∧
      (∀ j, j ≠ k → u.dram.raa.get j 0 = s.dram.raa.get j 0) ∧ u.regs = s.regs ∧ u.mem = s.mem) ∧
  (completes .throttleWindow s fun u => u.dram.acts = [] ∧ u.dram.offenders = [] ∧ u.dram.raa = s.dram.raa ∧ u.regs = s.regs ∧
    u.mem = s.mem) ∧
  (∀ ch : Fin 24, s.tide.running → s.dram.recal.get ch.val 0 = 0 → completes (.dramRecalibrate ch) s fun u =>
    u.dram.recal.get ch.val 0 = s.uptime + 1 ∧ u.regs = s.regs ∧ u.mem = s.mem) ∧
  (∀ ch : Fin 24, ¬ s.tide.running → exec (.dramRecalibrate ch) s = .next s)

/-- NAND reads (R343 to R345): a codeword that decodes answers its bytes and is counted against its block; one that nothing
recovers answers an error and its block is queued for relocation. A read-retry that succeeds is kept with the block. NAND
programs, relocation and patrol (R345, R347): a failed program makes a grown bad block; the oldest queued block is relocated
and counted; a patrol read is noted, counted as a read and, when it needed more than the hard decoder, queues the block.
Garbage collection and wear (R342, R346): the superblock reclaimed, or moved for wear, is erased once no valid page is left
in it: its erase count rises by one and it is free. One whose pages found no room stays. In READ_ONLY nothing is reclaimed
(R348). Readings of the model in it: log entry 59. -/
def Obligations.Nand : Prop :=
  (∀ (s : State) (stripe : Fin 2) (sb : Fin 960) (pg : Fin 1024) (die cw : Fin 16),
    let k := phys stripe.val sb.val pg.val die.val
    let b := physBlock k
    s.on NAND_CTRL_EN → stripe.val < s.stripes → s.rg NAND_DIE_FAIL_MASK = 0 →
    (∀ c : BitVec 8, c.toNat ≤ s.rg NAND_THRESH_RELOC_BITS → s.nand.reads.get b 0 < s.rg NAND_THRESH_RD_LIMIT * 1000 →
      completes (.nandCodewordRead stripe sb pg die cw 0 c) s fun u => u.reply = .bytes (slice (s.nandPage k) (4096 * cw.val) 4096) ∧
        u.nand.reads.get b 0 = s.nand.reads.get b 0 + 1 ∧ u.nand.reloc = s.nand.reloc ∧ u.regs = s.regs ∧ u.mem = s.mem) ∧
    (∀ c : BitVec 8, completes (.nandCodewordRead stripe sb pg die cw 3 c) s fun u => u.reply = .ur ∧ b ∈ u.nand.reloc ∧
      u.rg NAND_REBUILD_FAIL = (s.rg NAND_REBUILD_FAIL + 1) % 2 ^ 64) ∧
    (∀ e : Fin 16, s.on (NAND_RRT_HI_EN e.val) → completes (.nandRetryRead stripe sb pg die cw e true false) s fun u =>
      u.reply = .bytes (slice (s.nandPage k) (4096 * cw.val) 4096) ∧ u.nand.retry.get b 99 = e.val ∧ b ∈ u.nand.reloc) ∧
    (∀ e ok soft, ¬ s.on (NAND_RRT_HI_EN e.val) → exec (.nandRetryRead stripe sb pg die cw e ok soft) s = .next s)) ∧
  (∀ s : State, s.on NAND_CTRL_EN →
    (∀ (stripe : Fin 2) (die : Fin 16) (plane : Fin 4), stripe.val < s.stripes →
      (completes (.nandProgram stripe die plane true) s fun u => u.nand.fails.get (stripe.val * 16 + die.val) 0 = 0 ∧
        u.regs = s.regs ∧ u.nand.data = s.nand.data) ∧
      (∀ r, s.nand.opened.get stripe.val none = some r → completes (.nandProgram stripe die plane false) s fun u =>
        u.rg NAND_GROWN_BAD = (s.rg NAND_GROWN_BAD + 1) % 2 ^ 64 ∧ (((stripe.val * 16 + die.val) * 4 + plane.val) * 1024 + r.1 % 1024)
          ∈ u.nand.grown)) ∧
    (∀ b l, s.nand.reloc = b :: l → completes .nandRelocate s fun u => u.nand.reloc = l ∧
      u.rg NAND_RELOC = (s.rg NAND_RELOC + 1) % 2 ^ 64 ∧ u.mem = s.mem) ∧
    (∀ (die : Fin 32) (sb : Fin 960) (how : Fin 4) (c : BitVec 8), let b := die.val * 1024 + sb.val
      b / 1024 / 16 * 1024 + b % 1024 ∈ s.nand.written → completes (.nandPatrol die sb how c) s fun u =>
        u.nand.patrol.get b (s.uptime + 1) = s.uptime ∧ u.nand.reads.get b 0 = s.nand.reads.get b 0 + 1 ∧
        (0 < how.val → b ∈ u.nand.reloc) ∧ u.nand.data = s.nand.data ∧ u.mem = s.mem)) ∧
  (∀ (s : State) (k j : Nat), s.on NAND_CTRL_EN →
    let erased (u : State) : Prop := u.nand.erases.get k 0 = s.nand.erases.get k 0 + 1 ∧ k ∉ u.nand.written
    let here (x : Nat) : Bool := physSuper x == k
    (s.closedSupers = [k] → ¬ s.nandReadOnly → let s1 := (s.validAt here).foldl (fun s x => s.nandMove none false x) s
      (s1.validAt here = [] → completes .nandReclaim s erased) ∧
      (s1.validAt here ≠ [] → exec .nandReclaim s = .next s1)) ∧
    (s.nandReadOnly → exec .nandReclaim s = .next s) ∧
    (s.closedSupers = [k, j] → s.nand.erases.get k 0 + s.rg NAND_CTRL_WL_DELTA < s.nand.erases.get j 0 → ¬ s.nandReadOnly →
      s.validAt here = [] → completes .nandWearLevel s erased))

/-! ## The pool and the expander -/

/-- The pool's clock and eviction (R311 to R313): a tick of the age clock ages the unpinned pages of tier 1 that were not
used; the page chosen leaves tier 1 when tier 2 holds it, and otherwise is written back first. Pages reach tier 2 and come
back (R313, R314, R316, R322): a write-back or a home copy gives the page a place there; a promoted page whose CRC is right
is in tier 1 as tier 2 holds it; a BAD page rebuilt is good from the next boundary. Readings of the model in it: log entry
57. -/
def Obligations.PagesMoveBetweenTiers : Prop :=
  (∀ s : State,
    (s.rg TIER_AGE_AGE_TIDES ≤ s.pool.ageTides → completes .ageTick s fun u =>
      u.rg TIER_AGE_CLOCK = (s.rg TIER_AGE_CLOCK + 1) % 2 ^ 8 ∧ u.mem = s.mem ∧
      u.pool.ageTides = s.pool.ageTides - s.rg TIER_AGE_AGE_TIDES ∧
      u.pool.pages = s.pool.pages.map fun p => if p.t1.isNone || s.pinned p then p
        else if p.acc then { p with age := 0, acc := false } else { p with age := min 255 (p.age + 1) }) ∧
    (s.pool.ageTides < s.rg TIER_AGE_AGE_TIDES → exec .ageTick s = .next s) ∧
    (∀ p, s.on TIER_CTRL_EN → s.rg TIER_FREE * 64 < s.rg TIER_POOL_DRAM → s.candidatePage (fun _ => true) = some p →
      (p.t2.isSome → completes .eviction s fun u => (∀ x ∈ u.pool.pages, x.same p → x.t1 = none) ∧
        u.rg TIER_EVICT = (s.rg TIER_EVICT + 1) % 2 ^ 64 ∧ u.mem = s.mem) ∧
      (p.t2 = none → completes .eviction s fun u => (∀ x ∈ u.pool.pages, x.same p → x.wb = true) ∧ u.regs = s.regs ∧
        u.mem = s.mem)) ∧
    (¬ s.on TIER_CTRL_EN → completes .eviction s fun u => u.pool.pages = s.pool.pages ∧ u.regs = s.regs)) ∧
  (∀ (s : State) (p : PageRec) (pg k : Nat), p.t1 = some pg →
    let home (s1 u : State) : Prop := s1.regs = s.regs ∧ (∀ x ∈ u.pool.pages, x.same p → x.t2 = some k ∧ x.wb = false) ∧
      u.rg TIER_WRITEBACK = (s.rg TIER_WRITEBACK + 1) % 2 ^ 64 ∧ u.mem = s.mem
    (∀ s1, s.pool.pages.find? (fun x => x.wb) = some p → ¬ s.nandReadOnly → s.nandPut (s.ld (pg * 65536) 65536) = (some k, s1) →
      completes .pageWritebackDone s (home s1)) ∧
    (∀ s1, s.pool.pages.find? (fun x => x.layer != 0xFFF && x.t1.isSome && x.t2.isNone && !x.wb) = some p → ¬ s.nandReadOnly →
      s.on TIER_CTRL_EN → s.nandPut (s.ld (pg * 65536) 65536) = (some k, s1) → completes .homeCopyWrite s (home s1)) ∧
    (∀ q rest, s.pool.queue = q :: rest → s.page? q.1 q.2.1 q.2.2.1 q.2.2.2 = some p → p.t2 = some k →
      crc32c (s.nandPage k) = p.crc → completes (.promotionPageArrive 0) s fun u =>
        u.ld (pg * 65536) 65536 = s.nandPage k ∧ (∀ x ∈ u.pool.pages, x.same p → x.prom = false ∧ x.age = 0) ∧
        u.pool.queue = rest ∧ u.rg TIER_QUEUE_PAGES = rest.length % 2 ^ 28 ∧
        u.rg TIER_PROMOTE = (s.rg TIER_PROMOTE + 1) % 2 ^ 64) ∧
    (s.pool.pages.find? (fun x => x.bad && x.badNext != some false) = some p → p.t2 = some k → crc32c (s.nandPage k) = p.crc →
      completes (.pageRepair 0 true) s fun u => (∀ x ∈ u.pool.pages, x.same p → x.badNext = some false) ∧
        u.rg TIER_REBUILD = (s.rg TIER_REBUILD + 1) % 2 ^ 64))

/-- The expander (R288 to R293): with no stored slot read ahead the channel waits and the wait is counted; when the range's
slots expand, its regions go into the ring and the channel's position moves past them; while the ring is full it waits on the
slot. Readings of the model in it: log entry 58. -/
def Obligations.ExpanderFillsTheRing : Prop := ∀ (s : State) (st : StId) (c : Fin 2) (cyc : BitVec 23) (m : Model) (l : Layer),
  let t := st.t.val
  let p := st.p.val
  let k := (s.stn t p).chans.getD c.val {}
  s.on (EXP_CTRL_EN t p c.val) → ¬ s.on (EXP_CTRL_RESIDENT t p c.val) → k.active → 0 < k.left →
  s.rg (SEQ_STATE_STATE t p) = 2 → s.chanLayer k = some (m, l) →
  (∀ b1 b2, completes (.expanderSlot st c cyc 0 b1 b2) s fun u =>
    u.rg (EXP_WAIT t p) = (s.rg (EXP_WAIT t p) + 1) % 2 ^ 64 ∧ u.mem = s.mem ∧ u.rg (EXP_POS_REGION t p c.val) =
      s.rg (EXP_POS_REGION t p c.val)) ∧
  (∀ (n : Fin 5) g s1 s2, n.val ≠ 0 → k.cbBad = false → l.poisoned = false → let s0 := s.expPanic t p c.val n.val
    let d := s.desc t p (s.rg (EXP_CTRL_DESC t p c.val))
    let x := k.first + (k.nreg - k.left)
    let need := (l.tideScales k.first (k.nreg - k.left + l.sg)).2
    s0.expFull t p d l k.place = none → (s0.chanWaits t p c.val none).expScales t p c.val m l d need (need + 1) = (some true, s1) →
    s1.expRange t m l k.codebook false false x l.sg = ((g, none), s2) → completes (.expanderSlot st c cyc n false false) s fun u =>
      u.rg (EXP_POS_REGION t p c.val) = (x + l.sg) % 2 ^ (EXP_POS_REGION t p c.val).w ∧
      u.rg (EXP_SLOTS t p) = (s2.rg (EXP_SLOTS t p) + l.sg) % 2 ^ 64 ∧ u.mem = (s2.expWrite t p d l k.place g).mem) ∧
  (∀ (n : Fin 5) b1 b2 q, n.val ≠ 0 → k.cbBad = false → l.poisoned = false →
    (s.expPanic t p c.val n.val).expFull t p (s.desc t p (s.rg (EXP_CTRL_DESC t p c.val))) l k.place = some q →
    completes (.expanderSlot st c cyc n b1 b2) s fun u => u.on (SLOT_STAT_WWAIT q.1 q.2.1 q.2.2) ∧
      ((u.stn t p).chans.getD c.val {}).full = some q.2.2 ∧ u.mem = s.mem ∧
      u.rg (EXP_POS_REGION t p c.val) = s.rg (EXP_POS_REGION t p c.val))

/-! ## Loader, sets and token work -/

/-- LOAD (R281 to R286, R294, R297, R464): a package that passes every check, with room for it, is stored: its layers in
their version belong to its model, or to a new adapter version that becomes current, and the entry completes with OK and the
number of layers. With INPLACE over a stored model the load waits for its barrier instead. Readings of the model in it: log
entries 55, 56, 57. -/
def Obligations.PackagesAreLoaded : Prop := ∀ (s s1 : State) (q : Nat) (e : List Byte) (p : Pkg) (k : KeyEnt) (l : List Built),
  let tag := leAt e 16 8
  let plen := leAt e 24 8
  let inplace := bit (leAt e 1 1) 0
  let stored := s.pool.models.any fun m => m.modelId == p.modelId && m.adp.isNone
  let need := if inplace then p.need.1 + p.need.2 - s.oldPages p else p.need.1 + p.need.2
  s.takeOp 1 = some (q, e, s1) → leAt e 1 1 < 2 → allZero (slice e 2 6) → allZero (slice e 32 32) →
  p = Pkg.of (s.ldSpace (leAt e 8 8) plen) → p.early plen = none → (p.adapter → s.feature 2) → s.key? p.keyid = some k →
  p.buildAll k.key = .ok l → need ≤ s.rg TIER_FREE → (¬ inplace → p.need.1 ≤ s.protFree) →
  (p.adapter → s.ceilOk (List.replicate need 2)) →
  (¬ p.adapter → ∀ m ∈ s.pool.models, m.modelId = p.modelId → m.adp = none → s.ceilOk (List.replicate need m.client)) →
  (p.adapter → ∃ e < 64, ¬ s.on (WL_ADP_VALID e)) → (¬ p.adapter → ¬ stored → s.freeClient.isSome) →
  s.replaceBad p = false → s.bindBad p inplace = false → s.ecc = [] →
  (¬ (inplace ∧ stored ∧ ¬ p.adapter) → completes .load s fun u => ∃ m ∈ u.pool.models, m.modelId = p.modelId ∧
    m.adp.isSome = p.adapter ∧ (∀ a, m.adp = some a → u.on (WL_ADP_VALID a) ∧ u.on (WL_ADP_CURRENT a)) ∧
    (∀ x ∈ l, ∃ y ∈ m.layers, y.layer = x.rcd.layer ∧ y.ver = p.tver) ∧ u.rg WL_STATUS_BUSY = b2n !s.loader.inplace.isEmpty ∧
    s.completed u q (s.cmdCompletion 1 stOk m.handle l.length tag 0xFFFF)) ∧
  (inplace ∧ stored ∧ ¬ p.adapter → completes .load s fun u => u.on WL_STATUS_BUSY ∧ u.pool = s.pool ∧
    u.fw.queues = s.fw.queues ∧ u.mem = s.mem ∧ ∃ i, u.loader.inplace = s.loader.inplace ++ [i] ∧ i.q = q ∧ i.tag = tag ∧
      i.modelId = p.modelId ∧ i.closed = false)

/-- PLACE (R141 to R144, R466): a set that passes the checks and finds its stations gets the next handle, the stations in
stream order, and its images; a set for another period is kept and completes at once. Readings of the model in it: log
entries 34, 103. -/
def Obligations.SetsArePlaced : Prop := ∀ (s s1 : State) (q : Nat) (e : List Byte) (r : PlaceReq)
  (bs : List (BindRec × Img × Model × Layer)),
  let h := r.imgs.headD (Img.of [])
  let B := s.budgetOf (s.imgCfg h)
  let ph := if h.cls = 2 then (r.tok.headD {}).ph else 1
  s.takeOp 2 = some (q, e, s1) → leAt e 1 1 = 0 → allZero (slice e 2 6) → allZero (slice e 32 32) →
  s.placeReq (s.ldSpace (leAt e 8 8) (leAt e 24 8)) = some r → r.imgs.all Img.ok → s.setBad r = false → s.tsBad r = false →
  (h.cls = 2 → s.feature 0) → (r.windows.any (fun b => bit (leAt b 4 4) 27) → s.feature 5) →
  (∀ m ∈ r.imgs, m.timeBad B = none) → s.boundLayers r = some bs →
  bs.all (fun b => bindOk h.cls ph b.1 b.2.1 b.2.2.2) →
  (∀ b ∈ r.binds, (r.binds.filter fun c => c.name == b.name).length ≤ 2) → (∀ b ∈ bs, b.2.2.2.poisoned = false) →
  (2 ≤ h.cls → (s.loader.sets.filter fun x => decide (2 ≤ x.cls ∧ x.state ≠ 3)).length < 16) →
  (s.loader.sets.filter fun x => x.stream == h.stream && x.cls == h.cls).length < 4 →
  (∀ xs, s.periodNow h.period → s.fitFor r = some xs → s.placeBad r xs = false → s.coversBadRow r xs = false →
    chainBad r.imgs (fun i => (promAt (xs.getD i 0)).1) B = none → s.missingPages (bs.map fun b => b.2.2) = [] →
    ∀ x, x = r.set s.loader.nextSet q (leAt e 16 8) xs bs 1 → ∀ ls : State,
    ls = { s with loader := { s.loader with sets := s.loader.sets ++ [x] } } → ls.wuse.rg TIER_WUSE ≤ s.rg TIER_WLIMIT →
    (ls.books.streamFor x r.imgs).isSome → completes .place s fun u =>
      u.loader.nextSet = s.loader.nextSet % 0xFFFF + 1 ∧ (∃ y ∈ u.loader.sets, y.handle = s.loader.nextSet ∧
        y.stream = h.stream ∧ y.cls = h.cls ∧ y.images = r.imgs.map Img.b ∧ y.placeTag = some (q, leAt e 16 8) ∧
        y.stages = xs.map fun i => ⟨(promAt i).1, (promAt i).2⟩) ∧
      u.fw.queues = s.fw.queues) ∧
  (¬ s.periodNow h.period → ∀ x, x = r.set s.loader.nextSet q (leAt e 16 8) (List.range r.imgs.length) bs 3 →
    ∀ s2 y, (s1.placeReads e).streamFor { x with params := [] } r.imgs = some s2 → s2.strm? h.stream = some y → completes .place s fun u =>
      u.loader.sets = s.loader.sets ++ [{ x with placeTag := none }] ∧
      s.completed u q (s.cmdCompletion 2 stOk s.loader.nextSet y.num (leAt e 16 8) 0xFFFF))

/-- DELETE and REMOVE (R143, R319, R464): a model that no set binds goes with its pages; a set that may leave is marked and
leaves at the next boundary, its entry not yet completed; an entry that names nothing completes with BAD_DESCRIPTOR. -/
def Obligations.ModelsAndSetsAreRemoved : Prop := ∀ (s s1 : State) (q : Nat) (e : List Byte), let tag := leAt e 16 8
  let h := leAt e 32 4
  (s.takeOp 4 = some (q, e, s1) → (∀ m, s.model? h = some m →
      (s.loader.sets.any fun x => x.binds.any fun b => b.model == h) = false → completes .delete s fun u =>
        u.pool.models = (s.pool.models.filter fun x => x.handle != m.handle) ∧ u.fw.taken = s1.fw.taken ∧
        (∀ p ∈ u.pool.pages, p ∈ s.pool.pages ∧ ¬ (p.client = m.client ∧ ∃ l ∈ m.layers, m.lkey l.layer = p.layer)) ∧
        s.completed u q (s.cmdCompletion 4 stOk h 0 tag 0xFFFF)) ∧
    (s.model? h = none → completes .delete s fun u => u.pool = s.pool ∧
      s.completed u q (s.cmdCompletion 4 stBadDescriptor h 0 tag 0xFFFF))) ∧
  (s.takeOp 3 = some (q, e, s1) → (∀ x, s.loader.sets.find? (fun y => y.handle == h) = some x → leAt e 1 1 = 0 → x.removeTag = none →
      (x.cls = 1 → ∀ y ∈ s.loader.sets, y.stream = x.stream → y.cls = 0 → y.period = x.period → y.removeTag.isSome) →
      completes .remove s fun u => u.regs = s.regs ∧ u.mem = s.mem ∧ u.fw.queues = s.fw.queues ∧
        u.loader.sets = s.loader.sets.map fun y => if y.handle = h then { y with removeTag := some (q, tag) } else y) ∧
    (s.loader.sets.find? (fun y => y.handle == h) = none → completes .remove s fun u => u.loader = s.loader ∧
      s.completed u q (s.cmdCompletion 3 stBadDescriptor h 0 tag 0xFFFF)))

/-- OPEN (R245 to R252): a request within its set's ranges, with pages, rows, an entry and its deadlines kept, is admitted:
the sequence is in the books with its prompt, counted, and a request without a prompt and prefix completes at once. The other
requests of a sequence (R245, R256, R263): STEP gives it the request, CANCEL and CLOSE an end at the next pass boundary,
RECLAIM takes a parked one out of parking; any of them for a handle that names nothing is answered BAD_DESCRIPTOR. Readings
of the model in it: log entries 47, 48, 49, 52. -/
def Obligations.SequencesAreServed : Prop :=
  (∀ (s s1 : State) (q tide n a c : Nat) (b : List Byte) (x : ProgSet) (adp : Option Nat),
    let tr := x.tok.tracks
    let need := (pagesPerTrack (leAt b 12 4) (leAt b 24 4)).1 * tr
    let best := bit (leAt b 5 1) 0
    s.gateOpen → s.takeStep 0 = some (q, b, tide, s1) → s.set? (leAt b 6 2) = some x → x.cls = 2 → x.state = 2 →
    s.openBad b x = false → s.adapterFor (leAt b 30 2) = .ok adp → s.freeSeqEntry = some n → s.freePtRows tr [] = some a →
    s.freePtRows (tr * ceilDiv (ceilDiv (leAt b 12 4) 64) 64) [(a, tr)] = some c → s.rg PS_RESV + need ≤ s.rg PS_FREE →
    ¬ s.on GH_CTRL_HOT →
    (best ∨ (s.splitFor (s.loader.seqs ++ [{ seq := 4096, set := x.handle, best := best, maxlen := leAt b 12 4
                                             sd := leAt b 16 2, fd := leAt b 18 2, prompt := leAt b 20 4 }]) x).isSome) →
    (completes .openCmd s fun u => u.rg GH_ADMIT = (s.rg GH_ADMIT + 1) % 2 ^ 64 ∧ ∃ r ∈ u.loader.seqs, r.seq = n ∧
      r.set = x.handle ∧ r.best = best ∧ r.maxlen = leAt b 12 4 ∧ r.prompt = leAt b 20 4 ∧ r.adp = adp ∧
      (leAt b 20 4 ≠ 0 → r.req = some (b, tide))) ∧
    (leAt b 24 4 = 0 → leAt b 20 4 = 0 → completes .openCmd s fun u =>
      u.rg PS_RESV = (s.rg PS_RESV + need) % 2 ^ 23 ∧
      s.completed u q (s.stepBytes (n + 65536 * ((s.ldN (s.seqAddr n + 6) 1 + 1) % 256)) 0 stOk 0 0 0 (leAt b 48 8) 0))) ∧
  (∀ (s s1 : State) (q tide : Nat) (b : List Byte),
    (∀ r, s.seqOf (leAt b 0 4) = some r → r.ending = none →
      (s.takeStep 1 = some (q, b, tide, s1) → r.req = none → r.prompt = 0 → leAt b 5 1 < 16 → leAt b 20 4 = 0 →
        logitsOk (((s.set? r.set).map fun x => x.tok).getD {}) b → allZero (slice b 56 8) → s.seqLen r.seq < r.maxlen →
        completes .step s fun u => u.regs = s.regs ∧ u.mem = s.mem ∧ u.loader.seqs = s.loader.seqs.map fun y =>
          if y.seq = r.seq then { y with q := q, req := some (b, tide) } else y) ∧
      (s.takeStep 2 = some (q, b, tide, s1) → reqOk b → completes .cancel s fun u => u.regs = s.regs ∧ u.mem = s.mem ∧
        u.loader.seqs = s.loader.seqs.map fun y => if y.seq = r.seq then { y with ending := some (b, q, stCancelled) } else y) ∧
      (s.takeStep 3 = some (q, b, tide, s1) → reqOk b → completes .close s fun u => u.regs = s.regs ∧ u.mem = s.mem ∧
        u.loader.seqs = s.loader.seqs.map fun y => if y.seq = r.seq then { y with ending := some (b, q, stOk) } else y) ∧
      (s.takeStep 4 = some (q, b, tide, s1) → s.gateOpen → reqOk b → r.parked.isSome → r.best → completes .reclaim s fun u =>
        (∃ d, s.completed u q d ∧ leAt d 0 4 = r.handle % 2 ^ 32 ∧ leAt d 5 1 = stOk) ∧
        ∀ y ∈ u.loader.seqs, y.seq = r.seq → y.parked = none)) ∧
    (s.seqOf (leAt b 0 4) = none →
      ∀ c op, (c, op) ∈ [(Instr.step, 1), (.cancel, 2), (.close, 3)] → s.takeStep op = some (q, b, tide, s1) →
        completes c s fun u => u.loader.seqs = s.loader.seqs ∧
          s.completed u q (s.stepBytes (leAt b 0 4) op stBadDescriptor 0 0 0 (leAt b 48 8) 0)))

/-- Loss of the host (R261 to R263): without a sign of life every sequence is parked, a sign of life ends the loss, and when
PARK_S has passed the sequence parked longest ends with HOST_LOST at its next pass boundary. Capture training (R264 to R268):
a job whose block is in range and which finds a place starts and completes with its handle; a training step of a placed set
runs the optimiser once; a CAPTURE_CANCEL of a running job marks it. Readings of the model in it: log entry 53. -/
def Obligations.HostLossAndCapture : Prop :=
  (∀ s : State,
    (completes .hostAlive s fun u => u.loader.alive = s.uptime ∧ u.rg GH_HOST_LOST = 0 ∧ s.onlyRegs u [GH_HOST_LOST.key]) ∧
    (¬ s.on GH_HOST_LOST → completes .hostLostTimeout s fun u => u.on GH_HOST_LOST ∧
      (∀ r ∈ u.loader.seqs, r.parked.isSome) ∧ u.loader.seqs.map (fun r => r.seq) = s.loader.seqs.map (fun r => r.seq)) ∧
    (s.on GH_HOST_LOST → exec .hostLostTimeout s = .next s) ∧
    (∀ r, s.oldestParked = some r → s.oldestKept = none → completes .parkTimeout s fun u => u.regs = s.regs ∧ u.mem = s.mem ∧
      ∀ y ∈ u.loader.seqs, y.seq = r.seq → y.ending = some ([], r.q, stHostLost))) ∧
  (∀ (s s1 : State) (q : Nat) (e : List Byte), let tag := leAt e 16 8
    let b := s.ldSpace (leAt e 8 8) (leAt e 24 8)
    (∀ c l, s.takeOp 5 = some (q, e, s1) → leAt e 1 1 = 0 → allZero (slice e 2 6) → allZero (slice e 32 32) → s.capOk b →
      s.feature 1 → (s.loader.jobs.filter fun j => j.kept.isNone).length < 2 → s.capPages (CapJob.of b) = some l →
      s.freeClient = some c → completes .captureStart s fun u =>
        (∃ j, u.loader.jobs = s.loader.jobs ++ [j] ∧ j.handle = s.loader.nextJob ∧ j.client = c ∧ j.u = 0 ∧ j.epoch = 0 ∧
          j.feed = j.segments 0 0) ∧ (∀ g ∈ l, ∃ p ∈ u.pool.pages, p.client = c ∧ p.t1 = some g) ∧
        u.on (TIER_CLIENT_CTRL_EN c) ∧ s.completed u q (s.cmdCompletion 5 stOk s.loader.nextJob 0 tag 0xFFFF)) ∧
    (∀ (h : BitVec 32) j x, s.loader.jobs.find? (fun j => j.handle == h.toNat && j.kept.isNone) = some j → s.set? j.set = some x →
      x.state = 2 → j.cancel = false → j.batch + 1 < j.nseg / 32 → completes (.captureTrainingStep h) s fun u =>
        ∃ y ∈ u.loader.jobs, y.handle = h.toNat ∧ y.feed = y.segments j.epoch (j.batch + 1) ∧ y.u = j.u + 1 ∧ y.batch = j.batch + 1 ∧
          y.p1 = wMul j.p1 j.b1 ∧ y.p2 = wMul j.p2 j.b2 ∧ y.epoch = j.epoch) ∧
    (∀ j x, s.takeOp 6 = some (q, e, s1) → s.loader.jobs.find? (fun j => j.handle == leAt e 32 4 && j.kept.isNone) = some j →
      s.set? j.set = some x → x.state = 2 → completes .captureCancel s fun u =>
        u.loader.jobs = (s.loader.jobs.map fun y => if y.handle = leAt e 32 4 then { y with cancel := true } else y) ∧
        s.completed u q (s.cmdCompletion 6 stOk (leAt e 32 4) 0 tag 0xFFFF)))

/-! ## DMA -/

/-- A PROD write (R355): the descriptors up to it are posted when the ring has places for them; otherwise ERR_RING is set and
PROD stays. A descriptor runs (R351 to R359): an idle channel with work takes the descriptor at CONS, waits for its flag or
starts, has the first half of a line at DMA_HALF, and at its end the whole line, its status in the ring, CONS advanced and
BUSY clear. A descriptor is stopped (R359, R360, R362, R363): at its deadline and when the host does not answer with TIMEOUT,
by ABORT with CANCELLED, no byte more written. The channel is idle, the error with its first code is shown, CONS advances.
Readings of the model in it: log entry 62. -/
def Obligations.DmaDescriptors : Prop :=
  (∀ (s : State) (c : Fin 16) (v : BitVec 12), let n := 2 ^ s.rg (DMA_RING_SIZE c.val)
    let old := s.rg (DMA_PROD_INDEX c.val)
    let posts := (v.toNat + n - old % n) % n
    let held := (old + n - s.rg (DMA_CONS_INDEX c.val) % n) % n
    (posts + held < n → completes (.dmaProdWrite c v) s fun u => u.rg (DMA_PROD_INDEX c.val) = v.toNat % n ∧
      s.onlyRegs u [(DMA_PROD_INDEX c.val).key]) ∧
    (n ≤ posts + held → completes (.dmaProdWrite c v) s fun u => u.on (DMA_STAT_ERR_RING c.val) ∧
      s.onlyRegs u [(DMA_STAT_ERR_RING c.val).key])) ∧
  (∀ (s : State) (c : Fin 16) (cyc : BitVec 23) (b : List Byte),
    let a := s.rg (DMA_BASE_ADDR c.val) + 64 * s.rg (DMA_CONS_INDEX c.val)
    s.ecc = [] → dRt b = false → dGather b = false →
    (s.dmaCh c.val = {} → s.on (DMA_RING_EN c.val) → s.rg (DMA_PROD_INDEX c.val) ≠ s.rg (DMA_CONS_INDEX c.val) →
      s.inDram a 64 → s.ld a 64 = b → dmaFieldsOk b → completes (.dmaDescriptorStart c cyc) s fun u =>
        u.on (DMA_STAT_BUSY c.val) ∧ u.mem = s.mem ∧ (u.dmaCh c.val).active = true ∧ (u.dmaCh c.val).desc = b ∧
        (u.dmaCh c.val).done = 0 ∧ ((u.dmaCh c.val).running = true ↔
          dCtrl b 4 = false ∨ bit (s.rg (TFLAG_STATE_FLAGS (leAt b 40 1))) (leAt b 41 1) = true)) ∧
    (∀ sa da n, s.dmaCh c.val = { active := true, running := true, desc := b } → dSaddr b = sa → dDaddr b = da → sa < 2 ^ 48 →
      da < 2 ^ 48 → dSline b = n → dSlines b = 1 → dDline b = n → dDlines b = 1 → 0 < n → n ≤ 4096 → dramBase ≤ sa → dramBase ≤ da →
      s.inDram sa n → s.inDram da n →
      (completes (.dmaHalf c cyc) s fun u => (u.dmaCh c.val).done = ceilDiv n 2 ∧
        u.ld da (ceilDiv n 2) = s.ld sa (ceilDiv n 2) ∧ (dCtrl b 0 = true → u.on (DMA_STAT_HALF c.val)) ∧
        u.rg (DMA_CONS_INDEX c.val) = s.rg (DMA_CONS_INDEX c.val) ∧
        ∀ k, k < da ∨ da + ceilDiv n 2 ≤ k → u.mem.get k 0#8 = s.mem.get k 0#8) ∧
      (s.inDram a 64 → (a + 64 ≤ da ∨ da + n ≤ a) → ∀ upto, completes (.dmaDescriptorEnd c cyc 0 upto) s fun u =>
        u.dmaCh c.val = {} ∧ u.ld da n = s.ld sa n ∧ u.ldN (a + 44) 1 = stOk ∧ u.on (DMA_STAT_BUSY c.val) = false ∧
        u.rg (DMA_CONS_INDEX c.val) = (s.rg (DMA_CONS_INDEX c.val) + 1) % 2 ^ s.rg (DMA_RING_SIZE c.val) % 2 ^ 12 ∧
        u.rg (DMA_BYTES c.val) = (s.rg (DMA_BYTES c.val) + n) % 2 ^ 64 ∧
        u.rg (DMA_DONE c.val) = (s.rg (DMA_DONE c.val) + 1) % 2 ^ 64 ∧
        ∀ k, (k < da ∨ da + n ≤ k) → (k < a ∨ a + 64 ≤ k) → u.mem.get k 0#8 = s.mem.get k 0#8))) ∧
  (∀ (s : State) (c : Fin 16) (upto : BitVec 40), let ch := s.dmaCh c.val
    let ended (u : State) (code : Nat) : Prop := u.dmaCh c.val = {} ∧ u.on (DMA_STAT_BUSY c.val) = false ∧ u.on (DMA_STAT_ERR c.val) ∧
      (¬ s.on (DMA_STAT_ERR c.val) → u.rg (DMA_STAT_CODE c.val) = code) ∧
      (s.on (DMA_STAT_ERR c.val) → u.rg (DMA_STAT_CODE c.val) = s.rg (DMA_STAT_CODE c.val)) ∧
      u.rg (DMA_CONS_INDEX c.val) = (s.rg (DMA_CONS_INDEX c.val) + 1) % 2 ^ s.rg (DMA_RING_SIZE c.val) % 2 ^ 12 ∧
      u.rg (DMA_BYTES c.val) = s.rg (DMA_BYTES c.val) ∧ (dCtrl ch.desc 7 = true → u.on (DMA_RING_HALTED c.val)) ∧
      u.hostMem = s.hostMem
    ch.active = true → upto.toNat ≤ ch.done →
    (dRt ch.desc = true → s.dmaTide ch.desc = (s.rg TIDE_NUM : Int) + 1 → completes (.dmaRtDeadline c upto) s fun u => ended u stTimeout) ∧
    (ch.running = true → bit (dSaddr ch.desc) 63 = true ∨ bit (dDaddr ch.desc) 63 = true →
      completes (.dmaHostTimeout c upto) s fun u => ended u stTimeout) ∧
    (completes (.dmaAbort c upto) s fun u => ended u stCancelled ∧ u.on (DMA_RING_EN c.val) = false))

/-! ## Vision and audio -/

/-- Configuration of a vision port, of the multiplexer and of the audio clock (R367, R386, R391): a legal write is applied,
one that is not is discarded with ERR and nothing else changes. Readings of the model in it: log entries 64, 68. -/
def Obligations.PortSettings : Prop := ∀ (s : State) (w : BitVec 32),
  (∀ (p : Fin 4) (size : Bool) (s' : State), (s' = if size then s.takeFields w.toNat [VIN_PORT_SIZE_HEIGHT p.val, VIN_PORT_SIZE_WIDTH p.val]
      else s.takeFields w.toNat (vinCtrlFields p.val)) →
    (s'.vinLegal p.val → completes (.vinPortWrite p size w) s fun u => u.regs = s'.regs ∧ u.mem = s.mem ∧
      (¬ s.on (VIN_PORT_CTRL_EN p.val) → u.on (VIN_PORT_CTRL_EN p.val) → (u.vctx p.val).next = 0)) ∧
    (¬ s'.vinLegal p.val → completes (.vinPortWrite p size w) s fun u => u.on (VIN_PORT_STATUS_ERR p.val) ∧
      s.onlyRegs u [(VIN_PORT_STATUS_ERR p.val).key])) ∧
  (∀ sum, sum = ((List.range 4).filter fun p => s.on (VIN_PORT_CTRL_EN p)).foldl (fun a p => a + s.rg (VIN_PORT_RATE_MPIX p)) 0 →
    bit w.toNat 30 = false → bit w.toNat 29 = false →
    (bit w.toNat 31 = false ∨ sum ≤ 190 → completes (.vinMuxWrite w) s fun u => u.rg VIN_MUX_EN = bits w.toNat 31 1 ∧
      u.on VIN_MUX_UNIT = false ∧ s.onlyRegs u [VIN_MUX_EN.key, VIN_MUX_UNIT.key, VIN_MUX_STRIPE.key]) ∧
    (bit w.toNat 31 = true → 190 < sum → completes (.vinMuxWrite w) s fun u => u.on VIN_MUX_ERR ∧ s.onlyRegs u [VIN_MUX_ERR.key])) ∧
  (bit w.toNat 15 = false → ¬ s.on AUD_CLK_EN →
    (s.audLegal w.toNat → completes (.audClkWrite w) s fun u => u.rg AUD_CLK_EN = bits w.toNat 31 1 ∧
      u.rg AUD_CLK_SLOTS = bits w.toNat 16 3 ∧ u.rg AUD_CLK_DRIVE = bits w.toNat 30 1 ∧ u.rg AUD_CLK_FMT = bits w.toNat 29 1 ∧
      s.onlyRegs u (audClkFields.map Fld.key)) ∧
    (¬ s.audLegal w.toNat → completes (.audClkWrite w) s fun u => u.on AUD_CLK_ERR ∧ s.onlyRegs u [AUD_CLK_ERR.key]))

/-- A frame starts and takes its lines (R366, R368, R370, R378): it has the context's next number and the settings in force;
each line of the right length is appended with its codes at the top of 16 bits. A frame ends (R368, R369): the rows that are
missing are filled and the frame is counted and handed to its context; held active too long it is LONG, without its clock it
is SHORT and CLK falls until the next edge. Tensors are made and published (R374 to R376, R380 to R382, R385): the oldest
frame of a context gives its newest tensor, one never published is counted as skipped; the newest is published with its
buffer; pipeline 0 serves contexts in turn. Readings of the model in it: log entries 66, 67. -/
def Obligations.FramesAndTensors : Prop :=
  (∀ (s : State) (p : Fin 4),
    (s.on (VIN_PORT_CTRL_EN p.val) → (s.vport p.val).frame = none → completes (.vinFrameStart p) s fun u =>
      u.on (VIN_PORT_STATUS_INFRAME p.val) ∧ u.on (VIN_PORT_STATUS_CLK p.val) ∧ u.mem = s.mem ∧
      (u.vctx p.val).next = ((s.vctx p.val).next + 1) % 2 ^ 32 ∧ (u.vctx p.val).queue = (s.vctx p.val).queue ∧
      ∃ f, (u.vport p.val).frame = some f ∧ f.num = (s.vctx p.val).next ∧ f.cfg = s.vcfg p.val ∧ f.lines = [] ∧
        f.stamp = s.stamp.bytes ∧ f.pset = (s.loadPset (s.rg (VIN_CTX_PSET p.val))).orElse fun _ => (s.vctx p.val).pset) ∧
    (∀ (f : VFrame) (px : List (BitVec 16)), (s.vport p.val).frame = some f → f.cfg.lchk = false → px.length = f.cfg.w →
      f.lines.length < f.cfg.h → ¬ s.on VIN_MUX_EN → completes (.vinLineEnd p px false) s fun u => u.mem = s.mem ∧
        ∃ g, (u.vport p.val).frame = some g ∧ g.recv = f.recv + 1 ∧ g.short = f.short ∧ g.long = f.long ∧ g.check = f.check ∧
          let n := [8, 10, 12, 14, 16].getD f.cfg.fmt 16
          g.lines = f.lines ++ [⟨px.map fun v => v.toNat % 2 ^ n * 2 ^ (16 - n), none⟩]) ∧
    (∀ f, (s.vport p.val).frame = some f → exec (.vinFrameStart p) s = .next (s.wr (VIN_PORT_STATUS_CLK p.val) 1))) ∧
  (∀ (s : State) (p : Fin 4),
    (∀ (f : VFrame) (b : List Byte), (s.vport p.val).frame = some f → f.pset = some b →
      let closed (u : State) (short long : Bool) : Prop := (u.vport p.val).frame = none ∧ u.on (VIN_PORT_STATUS_INFRAME p.val) = false ∧
        u.rg (VIN_PORT_FRAMES p.val) = (s.rg (VIN_PORT_FRAMES p.val) + 1) % 2 ^ 64 ∧ u.mem = s.mem ∧
        ∃ g, (u.vctx p.val).queue = (s.vctx p.val).queue ++ [g] ∧ g.num = f.num ∧ g.ended = true ∧ g.tend = s.rg TIME_NOW ∧
          g.lines.length = max f.lines.length f.cfg.h ∧ g.long = long ∧ g.short = (short || decide (f.lines.length < f.cfg.h)) ∧
          (g.short = true → u.rg (VIN_PORT_SHORT p.val) = (s.rg (VIN_PORT_SHORT p.val) + 1) % 2 ^ 64)
      (completes (.vinFrameEnd p) s fun u => closed u f.short f.long) ∧
      (completes (.vinFrameTimeout p) s fun u => closed u f.short true ∧ (u.vport p.val).ignoring = true) ∧
      (completes (.vinPclkLoss p) s fun u => closed u true f.long ∧ u.on (VIN_PORT_STATUS_CLK p.val) = false)) ∧
    (completes (.vinPclkReturn p) s fun u => u.on (VIN_PORT_STATUS_CLK p.val) ∧ s.onlyRegs u [(VIN_PORT_STATUS_CLK p.val).key])) ∧
  (∀ (s : State) (c : Fin 4),
    (∀ f l, (s.vctx c.val).queue = f :: l → ¬ s.on VIN_MUX_EN → completes (.vinOutputComplete c) s fun u =>
      (u.vctx c.val).queue = l ∧ (∃ t, (u.vctx c.val).newest = some t ∧ t.published = false ∧ t.fresh = true ∧ t.stamp = f.stamp ∧
        t.rows = tensorOf (f.pset.getD []) f.cfg (pipeline (f.pset.getD []) f.cfg (s.framePlane f))) ∧
      (∀ t, (s.vctx c.val).newest = some t → t.published = false →
        u.rg (VIN_CTX_SKIP c.val) = (s.rg (VIN_CTX_SKIP c.val) + 1) % 2 ^ 64)) ∧
    ((s.vctx c.val).dlv.mode = 0 → exec (.vinPublish c) s = .next s) ∧
    (∀ t, (s.vctx c.val).dlv.mode ≠ 0 → (s.vctx c.val).newest = some t → s.tide.mute < 2 → completes (.vinPublish c) s fun u =>
      u.rg (VIN_CTX_PUB c.val) = (s.rg (VIN_CTX_PUB c.val) + 1) % 2 ^ 64 ∧ (u.vctx c.val).nextHeld = some t.buf ∧
      (u.vctx c.val).newest = some { t with published := true, fresh := false } ∧ (u.vctx c.val).skipped = false) ∧
    (∀ f, s.on VIN_MUX_EN → ¬ s.on VIN_MUX_UNIT → c.val = (s.vin.last + 1) % 4 → s.muxFrame c.val = some (f, false) → f.ended = true →
      completes .vinMuxUnit s fun u => u.vin.last = c.val ∧ s.onlyRegs u [DRAM_RD_BYTES.key] ∧ u.mem = s.mem ∧
        ∃ g ∈ (u.vctx c.val).queue, g.num = f.num ∧ g.served = f.cfg.h) ∧
    (¬ s.on VIN_MUX_EN → exec .vinMuxUnit s = .next s))

/-- Audio inputs and their clock (R392 to R396, R400): a sample of the current tide is counted with its frame, one of the
next tide waits for it; loss of the carrier's clock sets LOST, with the module's own clock nothing is lost, and the clock's
return clears LOST. AES67 packets (R423, R424): a packet that one received stream names is taken once by its R-TAG; a sent
stream with a full packet waiting sends it and keeps the rest. Readings of the model in it: log entries 69, 76. -/
def Obligations.AudioFrames : Prop :=
  (∀ (s : State) (p : Fin 8) (slot : Fin 32) (w : BitVec 32),
    let i := s.audIn p.val
    let last := slot.val + 1 = 2 ^ s.rg AUD_CLK_SLOTS
    (s.aud.on → s.aud.n ≠ 0 → ¬ s.on AUD_CLK_LOST → slot.val < 2 ^ s.rg AUD_CLK_SLOTS → i.on →
      (completes (.audInputSample p slot w true) s fun u => u.mem = s.mem ∧ (u.audIn p.val).cnt = i.cnt ∧
        (u.audIn p.val).carry = i.carry ++ [(slot.val, i.ncnt, topBits i.wl w.toNat)] ∧
        (u.audIn p.val).ncnt = i.ncnt + (if last then 1 else 0)) ∧
      (completes (.audInputSample p slot w false) s fun u => (u.audIn p.val).cnt = i.cnt + (if last then 1 else 0) ∧
        (u.audIn p.val).carry = i.carry ∧ (i.stamp = none → (u.audIn p.val).stamp = some s.stamp.bytes) ∧
        (last → u.rg (AUD_IN_FRAMES p.val) = (s.rg (AUD_IN_FRAMES p.val) + 1) % 2 ^ 64)) ∧
      (∀ b, i.binds = [b] → b.en = true → b.ch0 ≤ slot.val → slot.val < b.ch0 + b.nch → i.cnt < s.aud.n →
        s.rg (TAKE_STATUS_PHASE b.t) ≠ 2 → completes (.audInputSample p slot w false) s fun u =>
          let q := b.placeOf i.cnt (slot.val - b.ch0)
          let k := s.heldNext (b.slot + 2 * (q.1 / 8))
          u.ldN (rowAddr b.t b.p (s.rg (SLOT_CFG_MEM b.t b.p k)) (s.rg (SLOT_CFG_BASE b.t b.p k) + q.1 % 8) + q.2) 4 =
            topBits i.wl w.toNat)) ∧
    (¬ s.on AUD_CLK_DRIVE → s.aud.on → ¬ s.on AUD_CLK_LOST → completes .audClockLoss s fun u => u.on AUD_CLK_LOST ∧
      u.aud.wait = true ∧ ∀ k < 8, (s.audIn k).on → (u.audIn k).lost = true) ∧
    (s.on AUD_CLK_DRIVE → exec .audClockLoss s = .next s) ∧
    (s.on AUD_CLK_LOST → completes .audClockReturn s fun u => u.on AUD_CLK_LOST = false)) ∧
  (∀ s : State,
    (∀ (f : RxFrame) s1 r (i q : Nat), s.takeFrame s.isAes = some (f, s1) → rtpOf f.bytes = some r → i < 32 → r.tag = some q →
      (∀ j < 32, rtpMatch (s.aesDesc j) r = true ↔ j = i) → s.aud.n ≠ 0 → aNch (s.aesDesc i) ≠ 0 →
      completes .aes67PacketReceive s fun u => u.ring.inbox = s1.ring.inbox ∧ u.mem = s.mem ∧
        (q ∈ (s.aesSt i).hist → u.aesSt i = s.aesSt i ∧ s.onlyRegs u [(RING_PORT_DUP f.port).key] ∧
          u.rg (RING_PORT_DUP f.port) = (s.rg (RING_PORT_DUP f.port) + 1) % 2 ^ 64) ∧
        (q ∉ (s.aesSt i).hist → u.regs = s.regs ∧ (u.aesSt i).hist = (q :: (s.aesSt i).hist).take 64)) ∧
    (∀ (i : Fin 32) (q : Nat) (d : List Byte), d = s.aesDesc (32 + i.val) → aEn d → 0 < aPt d →
      aPt d ≤ (s.aesSt (32 + i.val)).out.length → (s.aesSt (32 + i.val)).seq = some q → aRepl d = false → s.linkOn 1 →
      completes (.aes67PacketSend i) s fun u => (u.aesSt (32 + i.val)).out = (s.aesSt (32 + i.val)).out.drop (aPt d) ∧
        (u.aesSt (32 + i.val)).seq = some ((q + 1) % 65536) ∧ u.rg (RING_PORT_TX 1) = (s.rg (RING_PORT_TX 1) + 1) % 2 ^ 64 ∧
        s.onlyRegs u [(RING_PORT_TX 1).key]))

/-! ## The ring -/

/-- The causeway (R425, R426): the relays leave bypass only when every condition of R426 holds; a measured charge is shown;
the watchdog's expiry takes a joined module to bypass with both links down and its cause recorded. Links (R404, R412):
training ends at 25 Gb/s when RATE and the other side allow it, otherwise at 10 Gb/s; a link that goes down clears its speed
and CLOSED; a fall to 10 Gb/s is shown. Frames and members (R404, R407, R408): a good frame for the module is counted and
handed to it; one too long is only counted as damaged; the module's own beacon closes the ring, another member's enters the
table, and members not heard for three tides leave it. Readings of the model in it: log entries 71, 73. -/
def Obligations.CausewayAndRing : Prop :=
  (∀ s : State,
    (s.mayLeave → completes .causewayLeaveBypass s fun u => u.on RING_CAUSEWAY_BYPASS = false ∧
      s.onlyRegs u [RING_CAUSEWAY_BYPASS.key]) ∧
    (¬ s.mayLeave → exec .causewayLeaveBypass s = .next s) ∧
    (s.pins.sb → s.pins.control → completes .capOkSet s fun u => u.on RING_CAUSEWAY_CAP_OK ∧
      s.onlyRegs u [RING_CAUSEWAY_CAP_OK.key, RING_CAUSEWAY_BYPASS.key]) ∧
    (completes .ringWatchdogExpiry s fun u => u.on RING_CAUSEWAY_BYPASS ∧ u.ring.watchdog = true ∧ u.mem = s.mem ∧
      (¬ s.on RING_CAUSEWAY_BYPASS → u.rg RING_CAUSEWAY_CAUSE = 8 ∧ u.on RING_STATUS_LINK_A = false ∧ u.on RING_STATUS_LINK_B = false) ∧
      (s.on RING_CAUSEWAY_BYPASS → u.regs = s.regs))) ∧
  (∀ (s : State) (p : Fin 2),
    (∀ fast, s.on RING_CTRL_EN → ¬ s.on RING_CAUSEWAY_BYPASS → (s.rg RING_CTRL_RATE = 1 → fast = true) →
      completes (.linkUp p fast) s fun u => u.on (linkFld p.val) ∧
        u.rg (spdFld p.val) = (if fast ∧ s.rg RING_CTRL_RATE ≠ 2 then 2 else 1) ∧
        s.onlyRegs u [(linkFld p.val).key, (spdFld p.val).key, RING_STATUS_CAP.key]) ∧
    (completes (.linkDown p) s fun u => u.on (linkFld p.val) = false ∧ u.rg (spdFld p.val) = 0 ∧ u.on RING_STATUS_CLOSED = false ∧
      s.onlyRegs u [(linkFld p.val).key, (spdFld p.val).key, RING_STATUS_CAP.key, RING_STATUS_CLOSED.key]) ∧
    (s.on (linkFld p.val) → s.rg RING_CTRL_RATE ≠ 1 → completes (.linkRateFall p) s fun u => u.rg (spdFld p.val) = 1 ∧
      u.fw.eseq = (s.fw.eseq + 1) % 2 ^ 32) ∧
    (s.rg RING_CTRL_RATE = 1 → exec (.linkRateFall p) s = .next s)) ∧
  (∀ (s : State) (p : Fin 2) (f : List Byte),
    (s.linkOn p.val → f.length ≤ 2044 → fDst f = s.mac → fSrc f ≠ s.mac → isTile 4 f = false → fType f ≠ 0x88F7 →
      completes (.ringFrameReceive p f true) s fun u => u.ring.inbox = s.ring.inbox ++ [⟨p.val, s.rg TIME_NOW, f⟩] ∧
        u.rg (RING_PORT_RX p.val) = (s.rg (RING_PORT_RX p.val) + 1) % 2 ^ 64 ∧ u.out = s.out ∧
        s.onlyRegs u [(RING_PORT_RX p.val).key]) ∧
    (s.linkOn p.val → 2044 < f.length → ∀ fcs, completes (.ringFrameReceive p f fcs) s fun u => u.ring = s.ring ∧ u.out = s.out ∧
      u.rg (RING_PORT_FCS p.val) = (s.rg (RING_PORT_FCS p.val) + 1) % 2 ^ 64 ∧
      s.onlyRegs u [(RING_PORT_RX p.val).key, (RING_PORT_FCS p.val).key]) ∧
    (∀ r s1, s.takeFrame (isTile 4) = some (r, s1) → tileCrcOk r.bytes → fSrc r.bytes = s.mac → completes .beaconReceive s fun u =>
      u.on RING_STATUS_CLOSED ∧ u.ring.ownSeen = true ∧ s.onlyRegs u [RING_STATUS_CLOSED.key]) ∧
    (∀ r s1, s.takeFrame (isTile 4) = some (r, s1) → tileCrcOk r.bytes → fSrc r.bytes ≠ s.mac → hSrc (tHead r.bytes) ≤ 15 →
      completes .beaconReceive s fun u => u.mem = s.mem ∧ ∃ c ∈ u.ring.claims, c.idx = hSrc (tHead r.bytes) ∧ c.mac = fSrc r.bytes ∧
        c.age = 0 ∧ ((if r.port = 0 then c.a else c.b) = some (hHops (tHead r.bytes), 0) ∨ 1 < r.port)) ∧
    (∀ i : Fin 16, completes (.memberExpiry i) s fun u => u.mem = s.mem ∧
      u.ring.claims = s.ring.claims.filter fun c => c.idx != i.val || decide (c.age < 3)))

/-- Tile frames (R419): one for an open receive side of its generation, for the next tide and in time, is accepted once; in a
terrace-store window its two rows are written; a VOID marks the entry; one for a side that is closed is stale. Send sides
(R414, R416 to R418, R420): a GRANT of their peer opens them with credits for its tide; a CLOSED of the same generation stops
them, of another it is stale; three tides without a GRANT close them once; under a GRANT the frames leave and use up the
credits. Readings of the model in it: log entries 74, 75. -/
def Obligations.Windows : Prop :=
  (∀ (s s1 : State) (r : RxFrame), let h := tHead r.bytes
    let w := hWin h
    let seq := ((fBody r.bytes).1).getD 0
    let open' := w < 64 ∧ s.on (WIN_CTRL_EN w) ∧ ¬ s.on (WIN_CTRL_DIR w) ∧ s.on (WIN_CTRL_OPEN w) ∧ hGen h = s.rg (WIN_GEN_GEN w) ∧
      hTide h = s.rg TIDE_NUM + 1 ∧ ¬ s.boundaryTime < (r.time : Int) + 1000 ∧ tileCrcOk r.bytes
    (s.takeFrame (isTile 0) = some (r, s1) → open' → seq ∉ (s.winSt w).acc → completes .tileDataReceive s fun u =>
      (u.winSt w).acc = (s.winSt w).acc ++ [seq] ∧ u.regs = s.regs ∧
      (s.on (WIN_CTRL_TGT w) → hFidx h < s.rg (WIN_CTRL_NFR w) → ∀ a, a = tsAddr (s.rg (WIN_LOC_TERR w)) (s.rg (WIN_TROW w) +
          (s.rg TIDE_NUM + 1) % 2 * (2 * s.rg (WIN_CTRL_NFR w)) + 2 * hFidx h) →
        u.ld a 512 = fitTo 512 (slice (tRest r.bytes) 0 512) ∧ u.ld (a + 512) 512 = fitTo 512 (slice (tRest r.bytes) 512 512) ∧
        ∀ k, k < a ∨ a + 1024 ≤ k → u.mem.get k 0#8 = s.mem.get k 0#8)) ∧
    (s.takeFrame (isTile 0) = some (r, s1) → open' → seq ∈ (s.winSt w).acc → completes .tileDataReceive s fun u => u.mem = s.mem ∧
      u.rg (RING_PORT_DUP r.port) = (s.rg (RING_PORT_DUP r.port) + 1) % 2 ^ 64) ∧
    (s.takeFrame (isTile 1) = some (r, s1) → open' → seq ∉ (s.winSt w).acc → completes .tileVoidReceive s fun u =>
      (u.winSt w).gotVoid = true ∧ (u.winSt w).acc = (s.winSt w).acc ++ [seq] ∧ u.regs = s.regs ∧ u.mem = s.mem) ∧
    (s.takeFrame (isTile 0) = some (r, s1) → w < 64 → ¬ s.on (WIN_CTRL_OPEN w) → completes .tileDataReceive s fun u =>
      u.rg (WIN_STALE w) = (s.rg (WIN_STALE w) + 1) % 2 ^ 64 ∧ u.mem = s.mem)) ∧
  (∀ (s s1 : State) (r : RxFrame) (i : Nat), let h := tHead r.bytes
    (tileCrcOk r.bytes → s.sendersOf (hWin h) (hSrc h) = [i] →
      (s.takeFrame (isTile 2) = some (r, s1) → s.dup (hSrc h) = false → s.dup (s.rg RING_INDEX_INDEX) = false → completes .grantReceive s fun u => u.on (WIN_CTRL_OPEN i) ∧
        u.rg (WIN_GEN_GEN i) = hGen h % 2 ^ 16 ∧ (u.winSt i).tgt = hTide h ∧ (u.winSt i).credits = hFidx h ∧
        (u.winSt i).stopped = false ∧ u.mem = s.mem ∧
        s.onlyRegs u [(WIN_GEN_LAST i).key, (WIN_GEN_GEN i).key, (WIN_CTRL_OPEN i).key]) ∧
      (s.takeFrame (isTile 3) = some (r, s1) → hGen h = s.rg (WIN_GEN_GEN i) → completes .closedReceive s fun u =>
        u.on (WIN_CTRL_CLOSED i) ∧ u.on (WIN_CTRL_OPEN i) = false ∧ (u.winSt i).stopped = true ∧ (u.winSt i).credits = 0) ∧
      (s.takeFrame (isTile 3) = some (r, s1) → hGen h ≠ s.rg (WIN_GEN_GEN i) → completes .closedReceive s fun u =>
        u.rg (WIN_STALE i) = (s.rg (WIN_STALE i) + 1) % 2 ^ 64 ∧ s.onlyRegs u [(WIN_STALE i).key])) ∧
    (∀ w : Fin 64, s.on (WIN_CTRL_EN w.val) → s.on (WIN_CTRL_DIR w.val) → 3 ≤ (s.winSt w.val).noGrant → (s.winSt w.val).posted = false →
      completes (.grantTimeout w) s fun u => u.on (WIN_CTRL_OPEN w.val) = false ∧ (u.winSt w.val).posted = true ∧
        u.fw.eseq = (s.fw.eseq + 1) % 2 ^ 32) ∧
    (∀ w : Fin 64, let x := s.winSt w.val
      let port := s.winPort w.val
      s.on (WIN_CTRL_EN w.val) → s.on (WIN_CTRL_DIR w.val) → x.tgt = s.rg TIDE_NUM + 1 → x.credits ≠ 0 → s.linkOn port → s.on (WIN_CTRL_OPEN w.val) → s.ecc = [] →
      s.on (WIN_CTRL_TGT w.val) → ¬ s.on (WIN_CTRL_REPL w.val) → port < 2 → x.stopped = false →
      completes (.windowSend w) s fun u => (u.winSt w.val).credits = 0 ∧ u.mem = s.mem ∧
        (x.voided = false → (s.unfit port).contains w.val = false → u.rg (RING_PORT_TX port) =
          (s.rg (RING_PORT_TX port) + min (s.rg (WIN_CTRL_NFR w.val)) x.credits) % 2 ^ 64) ∧
        (x.voided = true → u.rg (RING_PORT_TX port) = (s.rg (RING_PORT_TX port) + 1) % 2 ^ 64)))

/-! ## Integrity and firmware -/

/-- Fault records and repair rows (R501, R507, R508, R517): the oldest record leaves the queue, and a counting fault's tide
enters its station's record; a row is mapped to a repair row and recorded, or refused with ERR. The log and the lifetime
counters (R512 to R515): a token lets one buffered entry into the array; a checkpoint takes 83 numbers; a histogram sample
raises one bin, which saturates. Readings of the model in it: log entries 77, 78, 79. -/
def Obligations.FaultsRepairsAndLog : Prop :=
  (∀ s : State,
    (∀ r l, s.integ.fq = r :: l → completes .fqPop s fun u => u.integ.fq = l ∧ u.rg INT_FQ_STAT_FILL = l.length % 2 ^ 7 ∧
      (bit r.flags 2 = false → u.integ.recs = s.integ.recs) ∧
      (bit r.flags 2 = true → r.tide ∈ (u.stnRec r.terr r.pos).tides)) ∧
    (∀ w : BitVec 32, let t := bits w.toNat 25 4
      let p := bits w.toNat 20 5
      let m := bits w.toNat 18 2
      let bank := bits w.toNat 14 4
      let index := bits w.toNat 6 8
      let spare := bits w.toNat 4 2
      bit w.toNat 29 = false →
      (bit w.toNat 31 = false → completes (.sramRepairMap w) s fun u => u.integ = s.integ ∧ u.mem = s.mem ∧
        u.rg INT_SREP_INDEX = index ∧ u.rg INT_SREP_BANK = bank) ∧
      (bit w.toNat 31 = true → s.srepBad t p m bank index spare = false → completes (.sramRepairMap w) s fun u =>
        u.integ.srep = s.integ.srep ++ [((t, if m = 3 then 17 else p, m, bank, spare), index)] ∧
        u.on INT_SREP_ERR = s.on INT_SREP_ERR) ∧
      (bit w.toNat 31 = true → s.srepBad t p m bank index spare = true → m ≠ 3 → completes (.sramRepairMap w) s fun u =>
        u.on INT_SREP_ERR ∧ u.integ = s.integ ∧ u.mem = s.mem))) ∧
  (∀ s : State,
    (s.pins.control → s.log.buf = [] → completes .logToken s fun u => u.log.tokens = min 256 (s.log.tokens + 1) ∧
      u.log.sectors = s.log.sectors ∧ u.regs = s.regs) ∧
    (∀ e l rest, s.pins.control → s.log.buf = [e] → s.log.dropped = 0 → s.log.sectors = rest ++ [l] → l.length < 128 → l.length ≠ 45 →
      completes .logToken s fun u => u.log.buf = [] ∧ u.log.tokens = min 256 (s.log.tokens + 1) - 1 ∧
        u.log.sectors = rest ++ [l ++ [e]]) ∧
    (completes (.lifetimeCheckpoint false) s fun u => u.log.nextSeq = s.log.nextSeq + 83 ∧ u.life = s.life ∧ u.log.buf = s.log.buf ∧
      ∃ e ∈ u.log.sectors.flatten, e.code = 0x0015 ∧ e.seq = s.log.nextSeq + 82) ∧
    (completes (.histogramSample false) s fun u => ∀ b, b = junctionBin (s.rg PWR_TEMP_TJ) →
      u.life.bins.get b 0 = min (s.life.bins.get b 0 + 1) 0xFFFFFFFF ∧ ∀ k, k ≠ b → u.life.bins.get k 0 = s.life.bins.get k 0) ∧
    (∀ b, b = 16 + (if s.rg TIDE_BUDGET_B = 0 then 15 else min 15 (16 * s.maxEnd / s.rg TIDE_BUDGET_B)) →
      completes (.histogramSample true) s fun u => u.life.bins.get b 0 = min (s.life.bins.get b 0 + 1) 0xFFFFFFFF))

/-- Firmware cores (R470 to R473, R498): a watchdog's expiry, a RESTART write and an access fault restart a running core with
their causes, and the fourth restart within 60 s leaves it FAILED; a core that has rebuilt its state runs again. Images and
negotiation (R456 to R460): an image that passes its checks is stored and starts its core; one that does not is refused with
its status; agreeing images and a version within theirs give the features both sides have. Readings of the model in it: log
entries 80, 81, 84. -/
def Obligations.FirmwareCores : Prop :=
  (∀ (s : State) (k : Fin 5),
    let recent := ((s.fw.restarts.get k.val []).filter fun t => decide (s.uptime < t + 60000000000)).length
    let restarted (u : State) (cause : Nat) : Prop := u.rg (FW_CORE_STATUS_STATE k.val) = (if recent < 3 then 3 else 4) ∧
      u.rg (FW_CORE_STATUS_CAUSE k.val) = cause ∧ u.rg (FW_CORE_RESTARTS k.val) = (s.rg (FW_CORE_RESTARTS k.val) + 1) % 2 ^ 32 ∧
      u.fw.restarts.get k.val [] = s.uptime :: (s.fw.restarts.get k.val []).filter fun t => decide (s.uptime < t + 60000000000)
    (s.rg (FW_CORE_STATUS_STATE k.val) = 2 → (s.image k.val).isSome →
      (completes (.coreWatchdogExpiry k) s fun u => restarted u 1) ∧
      (completes (.coreRestartWrite k) s fun u => restarted u 3) ∧
      (∀ c, completes (.accessFault k c) s fun u => restarted u 2 ∧
        u.rg INT_FW_FAULT = (s.rg INT_FW_FAULT + 1) % 2 ^ 64 ∧
        u.rg INT_FWSRAM_UNC = (s.rg INT_FWSRAM_UNC + b2n (c == .sram)) % 2 ^ 64 ∧
        u.rg INT_ADDR_ERR = (s.rg INT_ADDR_ERR + b2n (c == .unmapped)) % 2 ^ 64)) ∧
    (s.rg (FW_CORE_STATUS_STATE k.val) ≠ 2 → exec (.coreWatchdogExpiry k) s = .next s) ∧
    (s.rg (FW_CORE_STATUS_STATE k.val) = 3 → completes (.coreRestartDone k) s fun u => u.rg (FW_CORE_STATUS_STATE k.val) = 2 ∧
      u.fw.kicks.get k.val 0 = s.uptime ∧ (k = 0 → u.fw.late = []) ∧ (k = 3 → u.ring.watchdog = false)) ∧
    (completes (.watchdogKick k) s fun u => u.fw.kicks.get k.val 0 = s.uptime ∧ u.regs = s.regs ∧ u.mem = s.mem)) ∧
  (∀ (s : State) (w : BitVec 32),
    (∀ (k : Nat) (b : List Byte), bit w.toNat 31 = true → k = bits w.toNat 0 3 → k < 5 → 1024 ≤ s.ldN (s.rg FW_LOAD_ADDR + 36) 4 →
      s.ldN (s.rg FW_LOAD_ADDR + 36) 4 ≤ 1049600 → b = s.ld (s.rg FW_LOAD_ADDR) (s.ldN (s.rg FW_LOAD_ADDR + 36) 4) →
      (s.loadStatus k b = stOk → s.rg (FW_CORE_STATUS_STATE k) = 0 → completes (.fwLoad w) s fun u =>
        u.rg FW_LOAD_CTRL_STATUS = stOk ∧ u.image k = some (FwImg.of b) ∧ u.rg (FW_CORE_STATUS_STATE k) = 2 ∧ u.mem = s.mem) ∧
      (s.loadStatus k b ≠ stOk → completes (.fwLoad w) s fun u => u.rg FW_LOAD_CTRL_STATUS = s.loadStatus k b ∧
        u.fw.images = s.fw.images ∧ u.rg (FW_CORE_STATUS_STATE k) = s.rg (FW_CORE_STATUS_STATE k) ∧
        (s.ecc = [] → s.inDram (s.rg FW_LOAD_ADDR) b.length → u.fw = s.fw ∧
          s.onlyRegs u [FW_LOAD_CTRL_CORE.key, FW_LOAD_CTRL_STATUS.key, DRAM_RD_BYTES.key]))) ∧
    (bit w.toNat 31 = true → (s.rg FW_STATE_MODE = 0 ∨ (s.rg FW_STATE_MODE = 2 ∧ ¬ s.queueOpen)) →
      (s.imagesAgree → bits w.toNat 8 8 = s.rg FW_IFVER_IFMAJ → bits w.toNat 0 8 ≤ s.rg FW_IFVER_IFMIN →
        completes (.negotiation w) s fun u => u.on FW_NEG_DONE ∧ u.rg FW_NEG_STATUS = stOk ∧ u.fw.negOk = true ∧
          u.rg FW_FEAT_AGREED = (s.rg FW_FEAT_HOST &&& s.rg FW_FEAT_MOD) % 2 ^ 64 ∧ u.mem = s.mem) ∧
      (¬ s.imagesAgree → completes (.negotiation w) s fun u => u.on FW_NEG_DONE = false ∧ u.rg FW_NEG_STATUS = stRefusedVersion ∧
        u.rg FW_FEAT_AGREED = s.rg FW_FEAT_AGREED)))

/-- The rings of a queue pair (R462 to R464): a legal pair opens empty and closes with its entries not taken dropped;
doorbells within the ring's places move TAIL and HEAD; an entry taken has a completion place reserved and goes to its core.
Readings of the model in it: log entry 83. -/
def Obligations.QueuePairs : Prop := ∀ (s : State) (q : Fin 8),
  (∀ (w : BitVec 32) (s' : State), bit w.toNat 29 = false → ¬ s.on (HRING_Q_CTRL_EN q.val) →
    s' = (s.wr (HRING_Q_CTRL_IEN q.val) (bits w.toNat 30 1)).wrs [(HRING_Q_CTRL_TARGET q.val, bits w.toNat 28 1),
      (HRING_Q_CTRL_SQSIZE q.val, (HRING_Q_CTRL_SQSIZE q.val).take (s.rg (HRING_Q_CTRL_SQSIZE q.val)) (bits w.toNat 20 4)),
      (HRING_Q_CTRL_CQSIZE q.val, (HRING_Q_CTRL_CQSIZE q.val).take (s.rg (HRING_Q_CTRL_CQSIZE q.val)) (bits w.toNat 16 4))] →
    (s'.queueStatus q.val = stOk → (s.fw.queues.get q.val {}).held = [] → completes (.queueOpen q w) s fun u =>
      u.on (HRING_Q_CTRL_EN q.val) ∧ u.rg (HRING_Q_CTRL_STATUS q.val) = stOk ∧ u.rg (HRING_Q_SQDB_HEAD q.val) = 0 ∧
      u.rg (HRING_Q_SQDB_TAIL q.val) = 0 ∧ u.rg (HRING_Q_CQDB_HEAD q.val) = 0 ∧ u.rg (HRING_Q_CQDB_TAIL q.val) = 0 ∧ u.mem = s.mem) ∧
    (s'.queueStatus q.val ≠ stOk → completes (.queueOpen q w) s fun u => u.on (HRING_Q_CTRL_EN q.val) = false ∧
      u.on (HRING_Q_CTRL_ERR q.val) ∧ u.mem = s.mem)) ∧
  (∀ w : BitVec 32, completes (.queueClose q w) s fun u => u.on (HRING_Q_CTRL_EN q.val) = false ∧
    u.rg (HRING_Q_SQDB_HEAD q.val) = s.rg (HRING_Q_SQDB_TAIL q.val) ∧ u.fw = s.fw ∧ u.mem = s.mem) ∧
  (s.on (HRING_Q_CTRL_EN q.val) → ∀ (v : BitVec 16) (n tail adv : Nat), n = 2 ^ s.rg (HRING_Q_CTRL_SQSIZE q.val) →
    tail = s.rg (HRING_Q_SQDB_TAIL q.val) → v.toNat < n → adv = (v.toNat + n - tail) % n →
    (adv + (tail + n - s.rg (HRING_Q_SQDB_HEAD q.val)) % n < n → completes (.sqTailWrite q v) s fun u =>
      u.rg (HRING_Q_SQDB_TAIL q.val) = v.toNat ∧ u.loader.alive = s.uptime ∧ s.onlyRegs u [(HRING_Q_SQDB_TAIL q.val).key]) ∧
    (n ≤ adv + (tail + n - s.rg (HRING_Q_SQDB_HEAD q.val)) % n → completes (.sqTailWrite q v) s fun u =>
      u.on (HRING_Q_CTRL_ERR q.val) ∧ s.onlyRegs u [(HRING_Q_CTRL_ERR q.val).key])) ∧
  (∀ e : List Byte, s.on (HRING_Q_CTRL_EN q.val) → s.rg (HRING_Q_SQDB_HEAD q.val) ≠ s.rg (HRING_Q_SQDB_TAIL q.val) → s.cqFree q.val →
    e = s.ld (s.rg (HRING_Q_SQB_ADDR q.val) + 64 * s.rg (HRING_Q_SQDB_HEAD q.val)) 64 →
    let taken (u : State) : Prop := u.mem = s.mem ∧ s.onlyRegs u [(HRING_Q_SQDB_HEAD q.val).key] ∧
      (u.fw.queues.get q.val {}).reserved = (s.fw.queues.get q.val {}).reserved + 1 ∧
      u.rg (HRING_Q_SQDB_HEAD q.val) = (s.rg (HRING_Q_SQDB_HEAD q.val) + 1) % 2 ^ s.rg (HRING_Q_CTRL_SQSIZE q.val) % 2 ^ 16
    (¬ s.on (HRING_Q_CTRL_TARGET q.val) → s.coreRuns 0 → 1 ≤ leAt e 0 1 → leAt e 0 1 ≤ 6 → completes (.sqEntryTake q) s fun u =>
      taken u ∧ u.fw.taken = s.fw.taken ++ [{ q := q.val, entry := e }]) ∧
    (s.on (HRING_Q_CTRL_TARGET q.val) → s.loader.reqs.length < 4096 → leAt e 4 1 < 5 → completes (.sqEntryTake q) s fun u =>
      taken u ∧ u.loader.reqs = s.loader.reqs ++ [(q.val, e, s.rg TIDE_NUM)])) ∧
  (s.on (HRING_Q_CTRL_EN q.val) → ∀ (v : BitVec 16) (n adv : Nat), n = 2 ^ s.rg (HRING_Q_CTRL_CQSIZE q.val) → v.toNat < n →
    adv = (v.toNat + n - s.rg (HRING_Q_CQDB_HEAD q.val)) % n →
    adv ≤ (s.rg (HRING_Q_CQDB_TAIL q.val) + n - s.rg (HRING_Q_CQDB_HEAD q.val)) % n → completes (.cqHeadWrite q v) s fun u =>
      u.rg (HRING_Q_CQDB_HEAD q.val) = v.toNat ∧ (u.fw.queues.get q.val {}).held = (s.fw.queues.get q.val {}).held.drop adv ∧
      s.onlyRegs u [(HRING_Q_CQDB_HEAD q.val).key])

/-- The event ring and the mailbox of messages to the module (R441, R449, R462, R467): a legal ring opens empty, entries are
freed by its doorbell; a mailbox message is taken while BUSY shows it, and another meanwhile is an error. Readings of the
model in it: log entry 83. -/
def Obligations.EventRingAndMailbox : Prop := ∀ s : State,
  (∀ (w : BitVec 32) (s' : State), bit w.toNat 29 = false → bit w.toNat 31 = true → ¬ s.on HRING_EV_CTRL_EN →
    s' = (s.wr HRING_EV_CTRL_IEN (bits w.toNat 30 1)).wr HRING_EV_CTRL_SIZE
      (HRING_EV_CTRL_SIZE.take (s.rg HRING_EV_CTRL_SIZE) (bits w.toNat 0 4)) →
    let r := (s.rg HRING_EV_BASE_ADDR, 64 * 2 ^ s'.rg HRING_EV_CTRL_SIZE)
    (ringIn r → (s.openRings.any (ringsMeet r)) = false → completes (.eventRingOpen w) s fun u => u.on HRING_EV_CTRL_EN ∧
      u.rg HRING_EV_DB_HEAD = 0 ∧ u.rg HRING_EV_DB_TAIL = 0 ∧ u.mem = s.mem) ∧
    (ringIn r = false → completes (.eventRingOpen w) s fun u => u.on HRING_EV_CTRL_ERR ∧ u.on HRING_EV_CTRL_EN = false)) ∧
  (∀ w : BitVec 32, bit w.toNat 31 = false → s.on HRING_EV_CTRL_EN → completes (.eventRingOpen w) s fun u =>
    u.on HRING_EV_CTRL_EN = false ∧ u.mem = s.mem) ∧
  (∀ v : BitVec 16, s.on HRING_EV_CTRL_EN → completes (.eventHeadWrite v) s fun u =>
    u.rg HRING_EV_DB_HEAD = v.toNat % 2 ^ s.rg HRING_EV_CTRL_SIZE ∧ u.loader.alive = s.uptime ∧
    s.onlyRegs u [HRING_EV_DB_HEAD.key]) ∧
  (∀ w : BitVec 32, s.on MBX_STATUS_BUSY → completes (.mbxGo w) s fun u => u.on MBX_STATUS_ERR ∧ u.dict = s.dict ∧
    s.onlyRegs u [MBX_CTRL_IEN.key, MBX_STATUS_ERR.key]) ∧
  (∀ (w : BitVec 32) (m : List Byte), ¬ s.on MBX_STATUS_BUSY → s.serves 2 →
    (∀ all, all = (List.range 266).flatMap (fun i => natLE 4 (s.rg (MBX_REQ i))) → m = all.take (msgLen all)) → msgOk 2 m →
    1 ≤ mOp m → mOp m ≤ 5 → s.dict.cache = [] → s.dict.queue.length < 32 → completes (.mbxGo w) s fun u => u.on MBX_STATUS_BUSY ∧
      u.dict.queue = s.dict.queue ++ [{ iface := 2, msg := m }] ∧ s.onlyRegs u [MBX_CTRL_IEN.key, MBX_STATUS_BUSY.key])

/-! ## Objects -/

/-- Requests reach the lighthouse core (R436, R437, R439 to R441): a well-formed message of each interface joins the queue;
one that repeats a request is answered from the stored replies; a message with a bad error check is counted; an ARP request
for the module's address is answered. Readings of the model in it: log entry 93. -/
def Obligations.MessagesArrive : Prop := ∀ s : State,
  (∀ (r : RxFrame) s1 (m : List Byte), s.dict.cache = [] → s.dict.queue.length < 32 → 1 ≤ mOp m → mOp m ≤ 5 →
    (s.takeFrame (fun f => fType f == 0x88B5 && fDst f == s.mac) = some (r, s1) → m = unpad (fBody r.bytes).2.2 → s.serves 0 →
      msgOk 0 m → completes .topEthernetReceive s fun u => u.regs = s.regs ∧ u.mem = s.mem ∧ u.ring = s1.ring ∧
        u.dict.queue = s.dict.queue ++ [{ iface := 0, requester := slice r.bytes 6 6, port := r.port, msg := m }]) ∧
    (∀ who, s.takeFrame (fun f => (s.udpOf f).isSome) = some (r, s1) → s.udpOf r.bytes = some (who, m) → s.serves 1 → msgOk 1 m →
      completes .topUdpReceive s fun u => u.regs = s.regs ∧ u.mem = s.mem ∧ u.ring = s1.ring ∧
        u.dict.queue = s.dict.queue ++ [{ iface := 1, requester := who, port := r.port, msg := m }]) ∧
    (s.serves 3 → msgOk 3 m → completes (.smbusBlockWrite m true) s fun u => u.regs = s.regs ∧ u.mem = s.mem ∧
      u.dict.queue = s.dict.queue ++ [{ iface := 3, msg := m }])) ∧
  (∀ m, s.serves 3 → completes (.smbusBlockWrite m false) s fun u => u.dict.queue = s.dict.queue ∧ u.regs = s.regs ∧
    u.dict.stats = s.dict.stats.modify 2 fun n => (n + 1) % 2 ^ 32) ∧
  (∀ m c, s.serves 3 → msgOk 3 m → s.dict.cache.find? (fun c => c.1 == 3 && c.2.requester == [] && c.2.seq == mSeq m &&
      decide (s.uptime ≤ c.2.time + 1000000000)) = some c → completes (.smbusBlockWrite m true) s fun u =>
        u.dict.queue = s.dict.queue ∧ u.dict.smbReply = some c.2.reply ∧ u.pins.alert = true) ∧
  (s.serves 3 → completes .smbusBlockRead s fun u => u.reply = .bytes (s.dict.smbReply.getD []) ∧ u.dict.smbReply = none ∧
    u.pins.alert = s.dict.alertEvent ∧ u.regs = s.regs) ∧
  (s.pins.alert → s.pins.control → completes .smbusAlertResponse s fun u =>
    u.reply = .bytes [BitVec.ofNat 8 (2 * s.dict.smbAddr)] ∧ u.pins.alert = false ∧ u.regs = s.regs) ∧
  (∀ r s1, s.takeFrame s.isArp = some (r, s1) → s.serves 1 → s.linkOn r.port → completes .arpRequest s fun u => u.ring = s1.ring ∧
    ∃ f, u.out = .frame r.port f :: s.out ∧ fDst f = beNat (slice (fBody r.bytes).2.2 8 6) ∧ fSrc f = s.mac ∧ fType f = 0x0806)

/-- READ and NEXT (R437, R438): the reply to a READ gives the value from its start and its whole length, an object that does
not exist is refused; NEXT lists the indices from the one given. WRITE and its commit (R431, R437, R447, R448): an accepted
value of a plain object is in force and answered; that of a persistent object is in force and waits for its commit, whose end
records it and lets the reply leave. Readings of the model in it: log entries 87, 88. -/
def Obligations.ObjectsAreReadAndWritten : Prop :=
  (∀ (s s1 : State) (q : ObjReq), 40 ≤ q.msg.length →
    (s.front 1 = some (q, s1) → mSub q.msg = 0 → (∀ o, s1.obj? (mIndex q.msg) = some o → o.acc ≠ 2 → mOffset q.msg = 0 →
        completes .read s fun u => u.replied q stOk 0 (s1.objRead o).length
          (slice (s1.objRead o) 0 (min (mLen q.msg) (lenLimit q.iface))) ∧ u.dict.queue = s1.dict.queue ∧ u.mem = s.mem) ∧
      (s1.obj? (mIndex q.msg) = none → completes .read s fun u => u.replied q (s1.noObject (mIndex q.msg)) 0 0 [] ∧ u.mem = s.mem) ∧
      (∀ o, s1.obj? 0x1022 = some o → o.acc ≠ 2 → mIndex q.msg = 0x1022 → mOffset q.msg = 0 → completes .keyList s fun u =>
        u.replied q stOk 0 s1.keyList.length (slice s1.keyList 0 (min (mLen q.msg) (lenLimit q.iface))) ∧ u.ef = s.ef)) ∧
    (∀ l, s.front 5 = some (q, s1) → l = ((s1.objs.map fun o => o.index).filter fun i => decide (mIndex q.msg ≤ i)) →
      completes .next s fun u => u.replied q stOk 0 l.length
        ((l.take (min 512 (min (mLen q.msg) (lenLimit q.iface) / 2))).flatMap fun i => natLE 2 i) ∧ u.mem = s.mem)) ∧
  (∀ (s s1 : State) (q : ObjReq) (o : Obj), let v := mData q.msg
    let i := mIndex q.msg
    (40 ≤ q.msg.length → s.front 2 = some (q, s1) → s1.obj? i = some o → s1.writeBar q o = none → mOffset q.msg = 0 →
      mTotal q.msg = v.length → s.dict.segs = [] → o.index = i → o.valueOk v → s1.valueBar i v = none → ¬ (0x6000 ≤ i ∧ i < 0x8000) →
      ¬ (0x4000 ≤ i ∧ i ≤ 0x4004) → i ≠ 0x1008 → ∀ train,
      (o.acc = 1 → completes (.write train) s fun u => u.objVal i 0 [] = v ∧ u.replied q stOk 0 v.length []) ∧
      (o.acc = 3 → s.committed i none ≠ some v → s.dict.budget ≠ 0 → s.ef.dataGone = false → completes (.write train) s fun u =>
        u.objVal i 0 [] = v ∧ ∃ c, u.dict.commits = s.dict.commits ++ [c] ∧ c.index = i ∧ c.value = v ∧ c.req = q)) ∧
    (∀ c l, s.dict.commits = c :: l → s.pins.control → s.ef.running.isSome → s.dict.budget ≠ 0 → s.ef.dataGone = false →
      completes .persistentCommitDone s fun u => u.dict.commits = l ∧
        u.dict.budget = s.dict.budget - commitUnits c.value.length ∧
        (∃ r ∈ u.dict.precs, r.index = c.index ∧ r.sub = c.sub ∧ r.value = c.value) ∧
        (u.dict.cache.head?.map fun x => (x.1, x.2.reply)) = some (c.req.iface, c.reply)) ∧
    (∀ x l, s.dict.segs = x :: l → completes .segmentTimeout s fun u => u.dict.segs = l ∧ u.dict.vals = s.dict.vals ∧
      u.dict.queue = s.dict.queue))

/-- Stamped writes (R445, R446): a write of a stream parameter waits for its target tide and is answered with it, one too
early is refused; a CANCEL_AT takes the matching ones back. -/
def Obligations.StampedWrites : Prop := ∀ (s s1 : State) (q : ObjReq) (o : Obj), let v := mData q.msg
  let i := mIndex q.msg
  let t := mTide q.msg
  40 ≤ q.msg.length → s1.obj? i = some o →
  (s.front 3 = some (q, s1) → s1.writeBar q o = none → mOffset q.msg = 0 → mTotal q.msg = mLen q.msg → o.index = i → o.valueOk v →
    bit o.flags 0 = true → 0x6000 ≤ i → i < 0x8000 → o.acc = 1 →
    (s.rg TIDE_NUM + 2 ≤ t → t ≤ s.rg TIDE_NUM + 65535 → s.dict.stamped.length < 256 → completes .writeAt s fun u =>
      u.dict.stamped = s.dict.stamped ++ [{ index := i, target := t, value := v }] ∧
      u.rg PSTG_CTRL_QFILL = (s.dict.stamped.length + 1) % 2 ^ 9 ∧ u.replied q stOk t (mTotal q.msg) []) ∧
    (t < s.rg TIDE_NUM + 2 → mAsap q.msg = false → completes .writeAt s fun u => u.dict.stamped = s.dict.stamped ∧
      u.replied q stRefusedTime 0 (mTotal q.msg) [])) ∧
  (s.front 4 = some (q, s1) → s.mayWrite q.iface → ¬ (0x4000 ≤ i ∧ i ≤ 0x4004) →
    s.dict.stamped.any (fun x => x.index == i && x.sub == mSub q.msg && x.target == t) → completes .cancelAt s fun u =>
      u.dict.stamped = (s.dict.stamped.filter fun x => !(x.index == i && x.sub == mSub q.msg && x.target == t)) ∧
      u.replied q stOk t 0 [])

/-- Protection, rollback and keys (R487, R492 to R494): a write of their objects that passes its checks raises the level by
record and fuse, lowers it with every key erased, raises the compute counter, adds a key or removes one, and is answered.
Readings of the model in it: log entry 90. -/
def Obligations.ProtectionAndKeys : Prop := ∀ (s s1 : State) (q : ObjReq) (o : Obj), let v := mData q.msg
  let n := leNat v
  let i := mIndex q.msg
  let sound := ∀ m ∈ [2, 3, 4, 5], s.ef.erases.get m 0 + 1 < 100000
  40 ≤ q.msg.length → s.front 2 = some (q, s1) → s1.obj? i = some o → o.index = i → s1.writeBar q o = none → mOffset q.msg = 0 →
  mTotal q.msg = v.length → s.dict.segs = [] → o.valueOk v →
  (i = 0x1006 → o.acc = 2 → s1.protCheck n = (stOk, false) → completes .protRaise s fun u => u.level = n % 256 ∧
    (n % 256 = 2 → u.fac.level2 = true) ∧ u.ef.keys = s.ef.keys ∧ u.replied q stOk 0 v.length []) ∧
  (i = 0x1006 → o.acc = 2 → s1.protCheck n = (stOk, true) → ∀ train, completes (.protLower train) s fun u =>
    u.level = 0 ∧ u.ef.keys = [] ∧ u.fac.level2 = false) ∧
  (i = 0x1008 → s1.rollbackOk (n / 65536) → completes .secRollbackWrite s fun u => u.fac.rollCd = n / 65536 ∧ u.ef = s.ef ∧
    u.replied q stOk 0 v.length []) ∧
  (∀ k, i = 0x1020 → o.acc = 2 → s1.keyOf v = .ok k → sound → completes .keyImport s fun u => u.ef.keys = s.ef.keys ++ [k] ∧
    u.ef.keyCopies = (true, true) ∧ u.replied q stOk 0 v.length []) ∧
  (∀ k, i = 0x1020 → o.acc = 2 → s1.keyOf v = .ok k → (s1.keyStoreWrite (s1.ef.keys ++ [k])).1 = false →
    completes .keyImport s fun u => u.ef.keys = s.ef.keys ∧ u.replied q stStoreWorn 0 v.length []) ∧
  (i = 0x1021 → o.acc = 2 → s1.keyDeleteOk n → sound → completes .keyDelete s fun u =>
    u.ef.keys = (s.ef.keys.filter fun e => e.id != n) ∧ u.ef.keyCopies = (true, true) ∧ u.replied q stOk 0 v.length [])

/-- An image update (R479, R488, R490): START erases the idle slot, GO programs the chunks in order, COMMIT writes the record
of a slot that passes its check, each while BUSY shows it; ABORT ends it with the record in force kept; ACTIVATE restarts the
lighthouse core once no operation is in progress. The lighthouse core (R474, R485, R487, R489): its watchdog restarts it
alone; a trial image that confirms stays and raises the rollback counter; without a running image blocks are taken for
recovery, a committed slot gets a trial record, and the status is read. Readings of the model in it: log entries 94, 95. -/
def Obligations.LighthouseImages : Prop :=
  (∀ s : State, s.ef.running.isSome →
    (s.ef.op = none → s.ef.upd = false → 0 < s.rg EF_UPD_LEN → s.rg EF_UPD_LEN ≤ 496 * 4096 → completes .updStart s fun u =>
      u.ef.op = some (.erase (slotSector s.idleSlot)) ∧ u.ef.upd = true ∧ u.ef.updNext = 0 ∧ u.on EF_UPD_CTRL_BUSY ∧
      u.ef.opt = s.ef.opt ∧ u.ef.slot s.idleSlot = {} ∧ u.ef.slot s.ef.opt.slot = s.ef.slot s.ef.opt.slot) ∧
    (∀ i : BitVec 9, s.ef.op = none → s.ef.upd = true → i.toNat = s.ef.updNext → 4096 * i.toNat < s.rg EF_UPD_LEN →
      completes (.updChunk i) s fun u => u.ef.op = some (.chunk i.toNat (s.ef.stage.bytes 0 4096)) ∧ u.on EF_UPD_CTRL_BUSY ∧
        u.ef.opt = s.ef.opt) ∧
    (∀ i b train reads, s.ef.op = some (.chunk i b) → s.pins.control → s.ef.deferred = none →
      completes (.efOperationDone true true ⟨train, reads⟩) s fun u => u.ef.op = none ∧ u.ef.updNext = i + 1 ∧
        u.on EF_UPD_CTRL_BUSY = false ∧ u.rg EF_UPD_CTRL_STATUS = stOk ∧
        (u.ef.slot s.idleSlot).image = (s.ef.slot s.idleSlot).image.take (4096 * i) ++ b) ∧
    (s.ef.op = none → s.slotStatus s.idleSlot = stOk → completes .updCommit s fun u => u.on EF_UPD_CTRL_BUSY ∧
      u.ef.op = some (.record { s.ef.opt with slot := s.idleSlot, state := 1 }) ∧ u.ef.opt = s.ef.opt) ∧
    (∀ r train reads, s.ef.op = some (.record r) → s.pins.control → s.ef.deferred = none →
      (∀ x ∈ reads, x.line = .clean ∨ x.line = .single) →
        completes (.efOperationDone true true ⟨train, reads⟩) s fun u => u.ef.opt = { r with seq := s.ef.opt.seq + 1 } ∧ u.ef.op = none ∧
        u.ef.upd = false ∧ u.rg EF_UPD_CTRL_STATUS = stOk) ∧
    (s.ef.op = none → completes .updAbort s fun u => u.ef.upd = false ∧ u.ef.opt = s.ef.opt ∧ u.ef.slotA = s.ef.slotA ∧
      u.ef.slotB = s.ef.slotB ∧ u.rg EF_UPD_CTRL_STATUS = stOk) ∧
    (s.efBusy = false → completes .updActivate s fun u => u.ef.op = none ∧ u.dict.queue = [] ∧ u.ef.upd = false) ∧
    (s.efBusy = true → completes .updActivate s fun u => u.ef.deferred = some (s.ef.deferred.getD 2) ∧ u.ef.running = s.ef.running ∧
      u.regs = s.regs)) ∧
  (∀ s : State, s.pins.control →
    (s.ef.running.isSome → s.efBusy = false → completes .lighthouseWatchdogExpiry s fun u => u.dict.queue = [] ∧ u.dict.cache = [] ∧
      u.dict.waits = [] ∧ u.ef.op = none ∧ u.ef.upd = false) ∧
    (s.ef.running = some s.ef.opt.slot → s.ef.opt.state ≠ 0 → completes .lighthouseConfirm s fun u => u.ef.opt.state = 0 ∧
      u.ef.opt.slot = s.ef.opt.slot ∧ u.fac.rollLh = max s.fac.rollLh (s.ef.slot s.ef.opt.slot).rollback ∧ u.mem = s.mem) ∧
    (s.ef.running = none →
      (∀ b : List Byte, b.length = 131 → leAt b 2 1 ≤ 31 → leAt b 0 2 = s.ef.recNext → leAt b 0 2 ≤ 495 → s.ef.recBlocks.length < 31 →
        completes (.recoveryBlock b) s fun u => u.ef.recStatus = stOk ∧ u.regs = s.regs ∧
          u.ef.recBlocks = (leAt b 2 1, b.drop 3) :: s.ef.recBlocks.filter fun x => x.1 != leAt b 2 1) ∧
      (s.slotStatus s.idleSlot = stOk → completes .recoveryCommit s fun u => u.ef.opt.slot = s.idleSlot ∧ u.ef.opt.state = 1 ∧
        u.ef.recStatus = stOk ∧ u.ef.running = none) ∧
      (s.slotStatus s.idleSlot ≠ stOk → completes .recoveryCommit s fun u => u.ef.opt = s.ef.opt ∧
        u.ef.recStatus = s.slotStatus s.idleSlot) ∧
      (completes .recoveryStatus s fun u => u.reply = .bytes (natLE 1 s.ef.recStatus) ∧ u.regs = s.regs ∧ u.ef = s.ef)))

/-- Reads that an operation made wait (R477, R478, R482): a single-bit error is corrected and counted, a line read with
shifted references is counted, a line that no reference decodes makes a record's copy or a copy of the key store invalid, a
fetch of such a line restarts the lighthouse core, and what is fetched enters the prefetch buffer or the branch cache. -/
def Obligations.EmbeddedFlashReads : Prop := ∀ (s : State) (i : Nat) (b : List Byte) (train : Fin 25), s.pins.control →
  s.ef.deferred = none → s.ef.op = some (.chunk i b) →
  let ends (r : EfRead) (P : State → Prop) : Prop := completes (.efOperationDone true true ⟨train, [r]⟩) s fun u => u.ef.op = none ∧ P u
  (∀ code, ends ⟨.other code, .single⟩ fun u => u.rg EF_CORR = (s.rg EF_CORR + 1) % 2 ^ 64 ∧ u.rg EF_RETRY = s.rg EF_RETRY) ∧
  (∀ code l, l = .low ∨ l = .high → ends ⟨.other code, l⟩ fun u => u.rg EF_CORR = s.rg EF_CORR ∧ u.rg EF_RETRY =
    (s.rg EF_RETRY + b2n (s.on (if code then EF_CFG_RETRY_CODE else EF_CFG_RETRY_DATA))) % 2 ^ 64) ∧
  (∀ index sub, ends ⟨.record index sub false, .never⟩ fun u => ∀ r ∈ u.dict.precs, r.index = index.toNat → r.sub = sub.toNat →
    r.sec0 = 128) ∧
  (s.ef.keyCopies = (false, true) → ends ⟨.keyStore true, .never⟩ fun u => u.ef.keyCopies = (false, false) ∧ u.ef.keys = []) ∧
  (s.ef.keyCopies = (true, true) → ends ⟨.keyStore true, .never⟩ fun u => u.ef.keyCopies = (true, false) ∧ u.ef.keys = s.ef.keys) ∧
  (∀ l taken, s.fetchHits l.toNat = false → ends ⟨.fetch l taken, .never⟩ fun u => u.dict.queue = [] ∧ u.ef.upd = false) ∧
  (∀ l, s.on EF_CFG_BC_EN → ends ⟨.fetch l true, .clean⟩ fun u => u.ef.branch.head? = some l.toNat ∧
    u.dict.queue = s.dict.queue ∧ ∀ x ∈ u.ef.prefetch, l.toNat < x ∧ x ≤ l.toNat + 4) ∧
  (∀ l, s.on EF_CFG_PF_EN → ends ⟨.refill l, .clean⟩ fun u => l.toNat ∈ u.ef.prefetch ∧ (s.ef.prefetch.length ≤ 4 →
    u.ef.prefetch.length ≤ 4))

/-! ## Resets and power -/

/-- Resets and the start-up they lead to (R13, R15, R425, R529, R530, R540): at power-on the control die starts, the relays
are in bypass, no tide runs and no set is placed, and with 12 V present the compute die comes to HOST_LOAD; a module reset
holds both dies and its release starts them; a warm reset and one of the compute die come to HOST_LOAD with no set, the
control die undisturbed; a function-level reset clears the host's interrupt vectors and rings, no set. Readings of the model
in it: log entries 5, 96, 97. -/
def Obligations.ResetsStartTheModule : Prop := ∀ (s : State) (bad : List Nat),
  (s.ef.lowering = false → s.slotStatus s.ef.opt.slot = stOk → ¬ (s.ef.opt.state = 1 ∧ s.ef.tried) →
    (∀ train reads, (∀ x ∈ reads, x.line = .clean ∨ x.line = .single) →
      completes (.powerOnReset train ⟨bad, reads⟩) s fun u => u.uptime = 0 ∧ u.pins.sb ∧ u.pins.control ∧ ¬ u.pins.mrst ∧
      u.on RING_CAUSEWAY_BYPASS ∧ u.rg RING_CAUSEWAY_CAUSE = 3 ∧ u.ef.running = some s.ef.opt.slot ∧ u.loader.sets = [] ∧
      u.on TIDE_CTRL_RUN = false ∧ u.rg TIDE_NUM = 0 ∧ (s.pins.v12 → train.val = 24 → u.pins.compute ∧ u.rg GC_STATUS_PHASE = 1)) ∧
    (∀ train reads, (∀ x ∈ reads, x.line = .clean ∨ x.line = .single) → s.pins.sb → s.pins.mrst →
      completes (.mrstNRelease train ⟨bad, reads⟩) s fun u => ¬ u.pins.mrst ∧ u.pins.control ∧
      u.ef.running = some s.ef.opt.slot ∧ (s.pins.v12 → train.val = 24 → u.pins.compute ∧ u.rg GC_STATUS_PHASE = 1))) ∧
  (s.pins.sb → s.rg PWR_STATUS_STATE ≠ 5 → completes .moduleReset s fun u => u.pins.mrst ∧ ¬ u.pins.control ∧ ¬ u.pins.compute ∧
    u.on RING_CAUSEWAY_BYPASS ∧ u.rg RING_CAUSEWAY_CAUSE = 2 ∧ u.rg RING_CAUSEWAY_CAP_OK = s.rg RING_CAUSEWAY_CAP_OK ∧
    u.loader.sets = [] ∧ u.rg TIDE_NUM = 0 ∧ u.dict.precs = s.dict.precs) ∧
  (s.rg PWR_STATUS_STATE = 5 → exec .moduleReset s = .next s) ∧
  (s.mayReset → s.efBusy = false → (∀ c ∈ [Instr.computeDieReset 24, .warmReset false 0x800000A5 24], completes c s fun u =>
      u.rg GC_STATUS_PHASE = 1 ∧ u.on DRAM_STATUS_TRAINED ∧ u.loader.sets = [] ∧ u.rg TIDE_NUM = 0 ∧ u.on RING_CAUSEWAY_BYPASS ∧
      u.pins.compute ∧ u.pins.control = s.pins.control ∧ u.ef.running = s.ef.running) ∧
    (s.dict.warmAsked → completes (.warmReset true 0 24) s fun u => u.rg GC_STATUS_PHASE = 1 ∧ u.loader.sets = [] ∧
      u.dict.warmAsked = false)) ∧
  (s.pins.compute → completes .functionLevelReset s fun u => u.fw.msix = [] ∧ (∀ q < 8, u.on (HRING_Q_CTRL_EN q) = false) ∧
    u.rg FW_STATE_MODE = (if s.rg FW_STATE_MODE = 1 then 3 else s.rg FW_STATE_MODE) ∧ u.loader = s.loader ∧ u.stns = s.stns ∧
    u.pins = s.pins)

/-- The firmware mode (R458, R460, R531): START to TEST or SERVICE after a negotiation, SERVICE completing the start-up;
SERVICE to RECOVERY when the host is lost, and back after a negotiation made in it; every other change is refused with ERR. A
write of the mode in force changes nothing (log entry 84, the model's reading). -/
def Obligations.ModesChange : Prop := ∀ (s : State) (w : BitVec 32),
  let new := bits w.toNat 30 2
  let old := s.rg FW_STATE_MODE
  (old = 0 → new = 2 → s.on FW_NEG_DONE → completes (.modeWrite w) s fun u => u.rg FW_STATE_MODE = 2 ∧ u.mem = s.mem) ∧
  (old = 0 → new = 1 → s.on FW_NEG_DONE → (s.rg GC_STATUS_PHASE ≠ 1 → completes (.modeWrite w) s fun u =>
      u.rg FW_STATE_MODE = 1 ∧ u.rg GC_STATUS_PHASE = s.rg GC_STATUS_PHASE) ∧
    (s.rg GC_STATUS_PHASE = 1 → completes (.modeWrite w) s fun u => u.rg GC_STATUS_PHASE = if s.nandDead then 4 else 3)) ∧
  (old = 1 → new = 3 → s.on GH_HOST_LOST → completes (.modeWrite w) s fun u => u.rg FW_STATE_MODE = 3 ∧ u.mem = s.mem) ∧
  (old = 3 → new = 1 → s.fw.recOk → s.on FW_NEG_DONE → completes (.modeWrite w) s fun u =>
    u.rg FW_STATE_MODE = 1 ∧ u.loader = s.loader) ∧
  (new ≠ old → ¬ (old = 0 ∧ (new = 1 ∨ new = 2) ∧ s.on FW_NEG_DONE) → ¬ (old = 1 ∧ new = 3 ∧ s.on GH_HOST_LOST) →
    ¬ (old = 3 ∧ new = 1 ∧ s.fw.recOk ∧ s.on FW_NEG_DONE) → completes (.modeWrite w) s fun u =>
      u.rg FW_STATE_MODE = old ∧ u.on FW_STATE_ERR ∧ u.mem = s.mem ∧ u.loader = s.loader) ∧
  (new = old → completes (.modeWrite w) s fun u => u.rg FW_STATE_MODE = old ∧ u.loader = s.loader ∧ u.mem = s.mem)

/-- The power ladder (R519 to R523): a write of `PWR.CTRL` that nothing forbids enters the state it names: P1 and P2 keep
everything, P3 keeps board DRAM in the segments of RETAIN alone, the relays in bypass, P4 and P5 keep none; tides that run
forbid it, with ERR. Wakes (R523, R524, R527): WAKE_N wakes from every state unless a thermal shutdown holds, a write of
`PWR.CTRL` where its bit of `PWR.WAKE_EN` permits; the cause and the event show, and from P3 or P4 with 12 V the compute die
starts again. Readings of the model in it: log entries 99, 100. -/
def Obligations.PowerLadder : Prop :=
  (∀ (s : State) (w : BitVec 32) (seg : Nat), s.pins.compute →
    s.rg PWR_STATUS_STATE < 3 → seg = bits w.toNat 16 8 →
    (s.busyP1 = false → s.rg PWR_STATUS_STATE = 0 → completes (.powerEnterP1 false w) s fun u => u.rg PWR_STATUS_STATE = 1 ∧
      u.mem = s.mem ∧ u.stns = s.stns ∧ u.loader = s.loader ∧ u.pins = s.pins) ∧
    (s.busyP1 = false → s.rg PWR_STATUS_STATE < 2 → completes (.powerEnterP2 false w) s fun u => u.rg PWR_STATUS_STATE = 2 ∧
      u.mem = s.mem ∧ u.stns = s.stns ∧ u.loader = s.loader ∧ u.pins = s.pins) ∧
    (s.busyP1 = false → s.busyP3 = false →
      (completes (.powerEnterP3 false w) s fun u => u.rg PWR_STATUS_STATE = 3 ∧ ¬ u.pins.compute ∧ u.pins.control = s.pins.control ∧
        u.on RING_CAUSEWAY_BYPASS ∧ u.rg DRAM_RETAIN_SEG = seg ∧
        ∀ a, u.mem.get a 0#8 = if s.segKept seg a then s.mem.get a 0#8 else 0#8) ∧
      (completes (.powerEnterP4 false w) s fun u => u.rg PWR_STATUS_STATE = 4 ∧ ¬ u.pins.compute ∧ u.pins.control = s.pins.control ∧
        u.on RING_CAUSEWAY_BYPASS ∧ u.mem = []) ∧
      (completes (.powerEnterP5 false w) s fun u => u.rg PWR_STATUS_STATE = 5 ∧ ¬ u.pins.compute ∧ ¬ u.pins.control ∧
        u.on RING_CAUSEWAY_BYPASS ∧ u.mem = [] ∧ u.dict.precs = s.dict.precs)) ∧
    (s.busyP1 → (s.rg PWR_STATUS_STATE = 0 → completes (.powerEnterP1 false w) s fun u => u.rg PWR_STATUS_STATE = 0 ∧
        u.on PWR_CTRL_ERR ∧ u.mem = s.mem) ∧
      ∀ c ∈ [Instr.powerEnterP3 false w, .powerEnterP4 false w, .powerEnterP5 false w], completes c s fun u =>
        u.rg PWR_STATUS_STATE = s.rg PWR_STATUS_STATE ∧ u.on PWR_CTRL_ERR ∧ u.pins = s.pins ∧ u.mem = s.mem ∧ u.stns = s.stns)) ∧
  (∀ s : State, s.rg PWR_STATUS_STATE ≠ 0 →
    (s.pins.sb → s.pins.mrst = false → (s.pins.thermal ≠ 1 → ∀ train bad, completes (.wakeNFall train bad) s fun u =>
        u.rg PWR_STATUS_STATE = 0 ∧ u.rg PWR_STATUS_CAUSE = 1 ∧ u.on PWR_EVENT_WAKE ∧
        (s.rg PWR_STATUS_STATE = 3 → s.pins.v12 → u.pins.compute ∧ (train.val = 24 → u.rg GC_STATUS_PHASE = 1))) ∧
      (s.pins.thermal = 1 → ∀ train bad, exec (.wakeNFall train bad) s = .next s)) ∧
    (s.pins.compute → s.pins.thermal ≠ 1 → s.rg PWR_STATUS_STATE < 3 → ∀ w train,
      (bit (s.rg PWR_WAKE_EN) 0 = true → completes (.powerWake false w train) s fun u => u.rg PWR_STATUS_STATE = 0 ∧
        u.rg PWR_STATUS_CAUSE = 2 ∧ u.on PWR_EVENT_WAKE ∧ u.mem = s.mem ∧ u.loader = s.loader) ∧
      (bit (s.rg PWR_WAKE_EN) 0 = false → completes (.powerWake false w train) s fun u =>
        u.rg PWR_STATUS_STATE = s.rg PWR_STATUS_STATE ∧ u.loader = s.loader)))

/-- Supplies, temperature and the test port (R525 to R527, R541 to R543, R549): the loss of 12 V takes the compute die down
and the relays to bypass, its return starts it; the loss of standby takes both dies down; a sample shows in TJ, sets HOT from
105 C, clears it below 100 C and from 115 C shuts the compute die off; the identification code leaves the test port, EXTEST
and debug where they are permitted. Readings of the model in it: log entries 100, 101. -/
def Obligations.SuppliesTemperatureTestPort : Prop := ∀ s : State,
  (s.pins.v12 → s.pins.compute → completes .vin12Loss s fun u => ¬ u.pins.v12 ∧ ¬ u.pins.compute ∧ u.on RING_CAUSEWAY_BYPASS ∧
    u.rg PWR_STATUS_STATE = 0 ∧ u.pins.control = s.pins.control ∧ u.loader.sets = [] ∧ u.mem = []) ∧
  (¬ s.pins.v12 → s.pins.control → s.ef.running.isSome → ¬ s.pins.compute → s.rg PWR_STATUS_STATE = 0 → ∀ bad,
    completes (.vin12Return 24 bad) s fun u => u.pins.v12 ∧ u.pins.compute ∧ u.rg GC_STATUS_PHASE = 1) ∧
  (s.pins.sb → completes .standbyLoss s fun u => ¬ u.pins.sb ∧ ¬ u.pins.control ∧ ¬ u.pins.compute ∧ u.loader.sets = [] ∧
    u.dict.precs = s.dict.precs ∧ u.mem = []) ∧
  (s.pins.control → ∀ tj : BitVec 16,
    (tj.toInt < 1840 → completes (.temperatureSample tj) s fun u => u.rg PWR_TEMP_TJ = tj.toNat ∧ u.pins.compute = s.pins.compute ∧
      (1680 ≤ tj.toInt → u.on PWR_TEMP_HOT) ∧ (tj.toInt < 1600 → u.on PWR_TEMP_HOT = false) ∧
      (1600 ≤ tj.toInt → tj.toInt < 1680 → u.on PWR_TEMP_HOT = s.on PWR_TEMP_HOT) ∧ (1760 ≤ tj.toInt → u.on PWR_TEMP_THERM)) ∧
    (1840 ≤ tj.toInt → s.pins.compute → completes (.temperatureSample tj) s fun u => ¬ u.pins.compute ∧ u.pins.thermal = 1 ∧
      u.rg PWR_STATUS_STATE = 4 ∧ u.rg PWR_STATUS_CAUSE = 4 ∧ u.on RING_CAUSEWAY_BYPASS)) ∧
  (s.pins.sb → s.pins.control → (completes (.jtagInstructionLoad 1) s fun u => u.pins.tap = 1 ∧ u.out = .tdo idcode :: s.out ∧
      u.regs = s.regs) ∧
    (∀ i ∈ [0, 2], completes (.jtagInstructionLoad i) s fun u => u.pins.tap = i.val ∧ u.regs = s.regs) ∧
    (completes (.jtagInstructionLoad 3) s fun u => u.regs = s.regs ∧
      u.pins.tap = if s.rg GC_STATUS_PHASE = 0 ∨ s.rg GC_STATUS_PHASE = 4 then 3 else 0) ∧
    (completes (.jtagInstructionLoad 4) s fun u => u.regs = s.regs ∧ u.pins.tap = if s.level = 0 then 4 else 0))

/-! ## The whole machine -/

/-- One step runs the command at the front of the queue on the state with the queue's rest. The opcode table gives no row
bits, so no word spells a command. Readings of the model in it: log entry 4. -/
def Obligations.StepRunsTheFront : Prop :=  (∀ (c : Instr) (rest : List Instr) (s : State), step { s with pending := c :: rest } = exec c { s with pending := rest }) ∧
  (∀ (n w : Nat) (s : State), decodeTableWord n w = none ∧ s.withFetchWord n w = s)

/-- With no command waiting a nanosecond of the module's oscillator passes (the model's choice, log entry 3): device time
runs on by it under the rate correction in force, WCLK_OUT may carry edges, nothing else changes. -/
def Obligations.IdleStepsPassTime : Prop := ∀ s : State, s.pending = [] → ∃ t, step s = .next t ∧
  t.rg TIME_NOW = (s.rg TIME_NOW + s.owed 1 / 10 ^ 9) % 2 ^ 64 ∧ t.uptime = s.uptime + 1 ∧ s.onlyRegs t [TIME_NOW.key] ∧
  (s.tide.rate = 0 → s.tide.frac = 0 → t.rg TIME_NOW = (s.rg TIME_NOW + 1) % 2 ^ 64) ∧
  (t.out = s.out ∨ ∃ n, t.out = .wclkOuts n :: s.out) ∧ t.tide = { s.tide with frac := s.owed 1 % 10 ^ 9 } ∧
  { t with regs := s.regs, uptime := s.uptime, tide := s.tide, out := s.out } = s

/-- The state after reset meets the invariant: no memory or table lists anything, no command waits, no tide has run. Readings
of the model in it: log entry 5. -/
def Obligations.ResetMeetsInvariant : Prop := State.reset.Inv ∧ State.reset.pending = [] ∧ State.reset.mem = [] ∧
  State.reset.rg TIDE_NUM = 0 ∧ State.reset.on TIDE_CTRL_RUN = false ∧ State.reset.on RING_CAUSEWAY_BYPASS ∧
  State.reset.loader.sets = []

/-- Every command answers a next state, never a fault and never a refusal, and leaves the queue of waiting commands as it is.
-/
def Obligations.EveryCommandAnswers : Prop := ∀ (c : Instr) (s : State), completes c s fun t => t.pending = s.pending

/-- No command changes the variant or the grade, mends a blown level-2 fuse or lowers the rollback counter of lighthouse
images (R4, R487, R491). -/
def Obligations.NoCommandUndoesFuses : Prop := ∀ (c : Instr) (s : State), completes c s fun t => s.fusesKept t

/-- Every step keeps the invariant: every memory and table in canonical form, and no queue longer than its bound (R439, R445,
R515, R517). -/
def Obligations.EveryStepKeepsInvariant : Prop := ∀ s t : State, s.Inv → step s = .next t → t.Inv
end

