-- ==== Sys2Proof/Laws/KMap.lean ====
section
/-! SUPPORT. Laws of sparse tables: what a read gives after a write, and that every operation keeps the canonical form. -/

namespace Sys2Proof

variable {α : Type}

theorem KMap.get_insert_same (m : KMap α) (k : Nat) (v d : α) : (m.insert k v).get k d = v := by
  induction m with
  | nil => simp [KMap.insert, KMap.get]
  | cons e m ih =>
    obtain ⟨a, w⟩ := e
    simp only [KMap.insert]
    split
    · simp [KMap.get]
    · split
      · simp [KMap.get]
      · simp [KMap.get, *]

theorem KMap.get_insert_other (m : KMap α) {k j : Nat} (h : j ≠ k) (v d : α) : (m.insert k v).get j d = m.get j d := by
  induction m with
  | nil => simp [KMap.insert, KMap.get, Ne.symm h]
  | cons e m ih =>
    obtain ⟨a, w⟩ := e
    simp only [KMap.insert]
    split
    · simp [KMap.get, Ne.symm h]
    · split
      · next e => subst e; simp [KMap.get, Ne.symm h]
      · simp only [KMap.get]
        split
        · rfl
        · exact ih

theorem KMap.get_erase_same (m : KMap α) (k : Nat) (d : α) : (m.erase k).get k d = d := by
  induction m with
  | nil => rfl
  | cons e m ih =>
    obtain ⟨a, w⟩ := e
    simp only [KMap.erase]
    split
    · exact ih
    · simp [KMap.get, *]

theorem KMap.get_erase_other (m : KMap α) {k j : Nat} (h : j ≠ k) (d : α) : (m.erase k).get j d = m.get j d := by
  induction m with
  | nil => rfl
  | cons e m ih =>
    obtain ⟨a, w⟩ := e
    simp only [KMap.erase, KMap.get]
    split
    · next e => subst e; simp [Ne.symm h, ih]
    · simp only [KMap.get]
      split
      · rfl
      · exact ih

/-- A read of the key just written gives what was written. -/
theorem KMap.get_set_same [DecidableEq α] (m : KMap α) (k : Nat) (v d : α) : (m.set k v d).get k d = v := by
  simp only [KMap.set]
  split
  · next e => rw [e]; exact m.get_erase_same k d
  · exact m.get_insert_same k v d

/-- A write leaves every other key alone, whatever default the read has. -/
theorem KMap.get_set_other [DecidableEq α] (m : KMap α) {k j : Nat} (h : j ≠ k) (v d d' : α) :
    (m.set k v d).get j d' = m.get j d' := by
  simp only [KMap.set]
  split
  · exact m.get_erase_other h d'
  · exact m.get_insert_other h v d'

/-! ## The canonical form -/

theorem KMap.mem_insert (m : KMap α) (k : Nat) (v : α) (e : Nat × α) (h : e ∈ m.insert k v) : e = (k, v) ∨ e ∈ m := by
  induction m with
  | nil => simpa [KMap.insert] using h
  | cons x m ih =>
    obtain ⟨a, w⟩ := x
    simp only [KMap.insert] at h
    split at h
    · simpa using h
    · split at h
      · simp only [List.mem_cons] at h ⊢
        rcases h with h | h
        · exact Or.inl h
        · exact Or.inr (Or.inr h)
      · simp only [List.mem_cons] at h ⊢
        rcases h with h | h
        · exact Or.inr (Or.inl h)
        · rcases ih h with h | h
          · exact Or.inl h
          · exact Or.inr (Or.inr h)

theorem KMap.mem_erase (m : KMap α) (k : Nat) (e : Nat × α) (h : e ∈ m.erase k) : e ∈ m := by
  induction m with
  | nil => simpa [KMap.erase] using h
  | cons x m ih =>
    obtain ⟨a, w⟩ := x
    simp only [KMap.erase] at h
    split at h
    · exact List.mem_cons_of_mem _ (ih h)
    · simp only [List.mem_cons] at h ⊢
      exact h.imp id ih

theorem KMap.sorted_insert (m : KMap α) (k : Nat) (v : α) (h : m.sorted) : (m.insert k v).sorted := by
  induction m with
  | nil => simp [KMap.insert, KMap.sorted]
  | cons x m ih =>
    obtain ⟨a, w⟩ := x
    have hm := List.pairwise_cons.1 h
    simp only [KMap.insert]
    split
    · next hk =>
      refine List.pairwise_cons.2 ⟨?_, h⟩
      intro e he
      rcases List.mem_cons.1 he with rfl | he
      · exact hk
      · exact Nat.lt_trans hk (hm.1 e he)
    · split
      · next e => subst e; exact List.pairwise_cons.2 hm
      · next h1 h2 =>
        refine List.pairwise_cons.2 ⟨?_, ih hm.2⟩
        intro e he
        rcases KMap.mem_insert m k v e he with rfl | he
        · show a < k; omega
        · exact hm.1 e he

theorem KMap.sorted_erase (m : KMap α) (k : Nat) (h : m.sorted) : (m.erase k).sorted := by
  induction m with
  | nil => simp [KMap.erase, KMap.sorted]
  | cons x m ih =>
    obtain ⟨a, w⟩ := x
    have hm := List.pairwise_cons.1 h
    simp only [KMap.erase]
    split
    · exact ih hm.2
    · exact List.pairwise_cons.2 ⟨fun e he => hm.1 e (KMap.mem_erase m k e he), ih hm.2⟩

theorem KMap.sorted_set [DecidableEq α] (m : KMap α) (k : Nat) (v d : α) (h : m.sorted) : (m.set k v d).sorted := by
  simp only [KMap.set]
  split
  · exact m.sorted_erase k h
  · exact m.sorted_insert k v h

theorem KMap.sorted_filter (m : KMap α) (p : Nat × α → Bool) (h : m.sorted) : KMap.sorted (m.filter p) :=
  List.Pairwise.filter p h

variable [DecidableEq α]

theorem KMap.canonical_nil (d : α) : KMap.canonical d ([] : KMap α) := ⟨List.Pairwise.nil, by simp⟩

/-- A write keeps the canonical form. -/
theorem KMap.canonical_set (m : KMap α) (k : Nat) (v d : α) (h : m.canonical d) : (m.set k v d).canonical d := by
  refine ⟨m.sorted_set k v d h.1, ?_⟩
  intro e he
  simp only [KMap.set] at he
  split at he
  · exact h.2 e (KMap.mem_erase m k e he)
  · next hv =>
    rcases KMap.mem_insert m k v e he with rfl | he
    · exact hv
    · exact h.2 e he

theorem KMap.canonical_filter (m : KMap α) (d : α) (p : Nat × α → Bool) (h : m.canonical d) :
    KMap.canonical d (m.filter p) :=
  ⟨m.sorted_filter p h.1, fun e he => h.2 e (List.mem_filter.1 he).1⟩

theorem KMap.canonical_foldl {β : Type} (d : α) (key : β → Nat) (val : β → α) (l : List β) (m : KMap α) (h : m.canonical d) :
    (l.foldl (fun r e => r.set (key e) (val e) d) m).canonical d := by
  induction l generalizing m with
  | nil => exact h
  | cons x l ih => exact ih _ (m.canonical_set _ _ d h)

theorem KMap.canonical_copy (m : KMap α) (a b n : Nat) (d : α) (h : m.canonical d) : (m.copy a b n d).canonical d :=
  KMap.canonical_foldl d _ _ _ _ (m.canonical_filter d _ h)

theorem KMap.canonical_clear (m : KMap α) (d : α) (a n : Nat) (h : m.canonical d) : (m.clear a n).canonical d :=
  m.canonical_filter d _ h

theorem KMap.canonical_store (l : List Byte) (m : KMap Byte) (a : Nat) (h : m.canonical 0#8) :
    (m.store a l).canonical 0#8 := by
  induction l generalizing m a with
  | nil => exact h
  | cons b l ih => exact ih _ _ (m.canonical_set _ _ _ h)

/-! ## Byte strings in memory -/

omit [DecidableEq α] in
theorem KMap.get_filter (m : KMap α) (p : Nat → Bool) (k : Nat) (d : α) :
    KMap.get (m.filter fun e => p e.1) k d = if p k then m.get k d else d := by
  induction m with
  | nil => simp [KMap.get]
  | cons x m ih =>
    obtain ⟨a, w⟩ := x
    by_cases hp : p a
    · simp only [List.filter_cons, hp, if_true, KMap.get]
      by_cases hk : a = k
      · subst hk; simp [hp]
      · simp [hk, ih]
    · simp only [List.filter_cons, hp, KMap.get]
      by_cases hk : a = k
      · subst hk; simp [hp, ih]
      · simp [hk, ih]

/-- A byte outside a stored string is unchanged. -/
theorem KMap.get_store_outside (l : List Byte) (m : KMap Byte) (a k : Nat) (h : k < a ∨ a + l.length ≤ k) :
    (m.store a l).get k 0#8 = m.get k 0#8 := by
  induction l generalizing m a with
  | nil => rfl
  | cons b l ih =>
    simp only [List.length_cons] at h
    simp only [KMap.store]
    rw [ih _ _ (by omega), KMap.get_set_other _ (by omega)]

/-- A byte of a stored string reads as stored. -/
theorem KMap.get_store_inside (l : List Byte) (m : KMap Byte) (a i : Nat) (h : i < l.length) :
    (m.store a l).get (a + i) 0#8 = l[i] := by
  induction l generalizing m a i with
  | nil => simp at h
  | cons b l ih =>
    simp only [KMap.store]
    cases i with
    | zero =>
      rw [KMap.get_store_outside _ _ _ _ (by omega), Nat.add_zero, KMap.get_set_same]
      rfl
    | succ i =>
      have := ih (m.set a b 0#8) (a + 1) i (by simpa using h)
      rw [show a + (i + 1) = a + 1 + i by omega, this]
      rfl

/-- A stored string reads back. -/
theorem KMap.bytes_store (l : List Byte) (m : KMap Byte) (a : Nat) : (m.store a l).bytes a l.length = l := by
  suffices H : ∀ (n j : Nat), j + n = l.length → (m.store a l).bytes (a + j) n = l.drop j from by
    simpa using H l.length 0 (by omega)
  intro n
  induction n with
  | zero => intro j hj; rw [List.drop_eq_nil_of_le (by omega)]; rfl
  | succ n ih =>
    intro j hj
    rw [KMap.bytes, KMap.get_store_inside l m a j (by omega), Nat.add_assoc, ih (j + 1) (by omega)]
    exact (List.drop_eq_getElem_cons (by omega)).symm

end Sys2Proof
end

