-- ==== Sys2Proof/Laws/Kept.lean ====
section
/-! SUPPORT. `Kept a s`: what every operation of the module keeps on the way from `a` to `s`: the waiting commands and the
fuses stay, and the invariant holds of `s` when it holds of `a`. One lemma per shape of definition; the lemmas of the
operations follow, file by file. -/

namespace Sys2Proof.Machine

/-- The waiting commands and the fuses stay, and the invariant holds of `s` when it holds of `a`. -/
structure Kept (a s : State) : Prop where
  pend : s.pending = a.pending
  fuses : a.fusesKept s
  inv : a.Inv → s.Inv

/-- A command that answers a next state which keeps what `Kept` says. -/
def ResKept (a : State) (r : Res) : Prop := ∃ s, r = .next s ∧ Kept a s

/-- The part of a state that `Kept` speaks of. -/
def State.tracked (s : State) : (KMap Nat × KMap Byte × KMap Byte × KMap Nat × KMap Stn × KMap Ter × KMap Att) ×
    (List FaultRec × List ObjReq × List Stamped × List LogEnt) × (Nat × Nat × Bool × Nat) × List Instr :=
  ((s.regs, s.mem, s.hostMem, s.ecc, s.stns, s.ters, s.atts), (s.integ.fq, s.dict.queue, s.dict.stamped, s.log.buf),
    (s.fac.variant, s.fac.grade, s.fac.level2, s.fac.rollLh), s.pending)

theorem Kept.refl (a : State) : Kept a a := ⟨rfl, ⟨rfl, rfl, id, Nat.le_refl _⟩, id⟩

theorem Kept.trans {a b c : State} (h : Kept a b) (g : Kept b c) : Kept a c :=
  ⟨g.pend.trans h.pend, ⟨g.fuses.1.trans h.fuses.1, g.fuses.2.1.trans h.fuses.2.1, fun x => g.fuses.2.2.1 (h.fuses.2.2.1 x),
    Nat.le_trans h.fuses.2.2.2 g.fuses.2.2.2⟩, fun x => g.inv (h.inv x)⟩

/-- An update of untracked fields. -/
theorem Kept.keep {a s t : State} (h : Kept a s) (e : t.tracked = s.tracked) : Kept a t := by
  simp only [State.tracked, Prod.mk.injEq] at e
  obtain ⟨⟨e1, e2, e3, e4, e5, e6, e7⟩, ⟨e8, e9, e10, e11⟩, ⟨e12, e13, e14, e15⟩, e16⟩ := e
  refine ⟨e16.trans h.pend, ?_, fun x => ?_⟩
  · have := h.fuses
    unfold State.fusesKept at *
    rw [e12, e13, e14, e15]; exact this
  · have := h.inv x
    unfold State.Inv State.tablesCanonical State.queuesBounded at *
    rw [e1, e2, e3, e4, e5, e6, e7, e8, e9, e10, e11]; exact this

theorem Kept.keepF {a s : State} {f : State → State} (h : Kept a s) (e : ∀ x, (f x).tracked = x.tracked) : Kept a (f s) :=
  h.keep (e s)

/-- An update of the tables and queues that keeps the invariant. -/
theorem Kept.upd {a s t : State} (h : Kept a s) (p : t.pending = s.pending) (f : t.fac = s.fac) (i : s.Inv → t.Inv) :
    Kept a t :=
  ⟨p.trans h.pend, by have := h.fuses; unfold State.fusesKept at *; rw [f]; exact this, fun x => i (h.inv x)⟩

theorem ResKept.next {a s : State} (h : Kept a s) : ResKept a (.next s) := ⟨s, rfl, h⟩

theorem ite_of {α : Sort _} {P : α → Prop} {c : Prop} [Decidable c] {x y : α} (hx : c → P x) (hy : ¬ c → P y) :
    P (if c then x else y) := by split <;> simp_all

theorem dite_of {α : Sort _} {P : α → Prop} {c : Prop} [Decidable c] {x : c → α} {y : ¬ c → α} (hx : ∀ h, P (x h))
    (hy : ∀ h, P (y h)) : P (if h : c then x h else y h) := by split <;> simp_all

theorem foldl_of {α β : Type} {P : α → Prop} {f : α → β → α} {l : List β} {i : α} (hi : P i) (hf : ∀ x b, P x → P (f x b)) :
    P (l.foldl f i) := by
  induction l generalizing i with
  | nil => exact hi
  | cons b l ih => exact ih (hf _ _ hi)

theorem snd_of {α : Type} {a : State} {p : α × State} {x : α} {t : State} (e : p = (x, t)) (h : Kept a p.2) : Kept a t := by
  subst e; exact h

theorem ite_some {α : Type} {c : Prop} [Decidable c] {x : Option α} {y : α} (e : (if c then x else none) = some y) :
    x = some y := by
  split at e
  · exact e
  · cases e

theorem snd_of2 {α β : Type} {a : State} {p : α × β × State} {x : α} {y : β} {t : State} (e : p = (x, y, t))
    (h : Kept a p.2.2) : Kept a t := by
  subst e; exact h

theorem snd_of3 {α β γ : Type} {a : State} {p : α × β × γ × State} {x : α} {y : β} {z : γ} {t : State}
    (e : p = (x, y, z, t)) (h : Kept a p.2.2.2) : Kept a t := by
  subst e; exact h

theorem fst_mk {α β : Type} {P : α → Prop} {x : α} {y : β} (h : P x) : P (Prod.fst (x, y)) := h

theorem snd_mk {α β : Type} {P : β → Prop} {x : α} {y : β} (h : P y) : P (Prod.snd (x, y)) := h

theorem opt_of {α : Type} {P : α → Prop} {d : α} {o : Option α} (hd : P d) (ho : ∀ x, o = some x → P x) : P (o.getD d) := by
  cases o with
  | none => exact hd
  | some x => exact ho x rfl

/-! ## Named operations -/

variable {a s : State}

theorem State.wr_kept (h : Kept a s) {f v} : Kept a (s.wr f v) :=
  h.upd rfl rfl fun ⟨⟨x, y⟩, z⟩ => ⟨⟨KMap.sorted_set _ _ _ _ x, y⟩, z⟩

theorem State.st_kept (h : Kept a s) {n l} : Kept a (s.st n l) :=
  h.upd rfl rfl fun ⟨⟨x, y, w⟩, z⟩ => ⟨⟨x, KMap.canonical_store _ _ _ y, w⟩, z⟩

theorem State.hostSt_kept (h : Kept a s) {n l} : Kept a (s.hostSt n l) :=
  h.upd rfl rfl fun ⟨⟨x, y, w, u⟩, z⟩ => ⟨⟨x, y, KMap.canonical_store _ _ _ w, u⟩, z⟩

theorem Kept.setLog (h : Kept a s) {l : LogSt} (e : s.log.buf.length ≤ 256 → l.buf.length ≤ 256) :
    Kept a { s with log := l } :=
  h.upd rfl rfl fun ⟨x, y, z, w, u⟩ => ⟨x, y, z, w, e u⟩

theorem Kept.setLogA (h : Kept a s) {l : LogSt} (e : a.Inv → l.buf.length ≤ 256) : Kept a { s with log := l } :=
  ⟨h.pend, h.fuses, fun i => have ⟨x, y, z, w, _⟩ := h.inv i; ⟨x, y, z, w, e i⟩⟩

theorem Kept.setInteg (h : Kept a s) {l : Integ} (e : s.integ.fq.length ≤ 64 → l.fq.length ≤ 64) :
    Kept a { s with integ := l } :=
  h.upd rfl rfl fun ⟨x, y, z⟩ => ⟨x, e y, z⟩

theorem Kept.setDict (h : Kept a s) {l : Dict} (e : s.dict.queue.length ≤ 32 → l.queue.length ≤ 32)
    (f : s.dict.stamped.length ≤ 256 → l.stamped.length ≤ 256) : Kept a { s with dict := l } :=
  h.upd rfl rfl fun ⟨x, y, z, w, u⟩ => ⟨x, y, e z, f w, u⟩

theorem Kept.setFac (h : Kept a s) {l : Factory} (e : s.fusesKept { s with fac := l }) : Kept a { s with fac := l } :=
  h.trans ⟨rfl, e, id⟩

theorem Kept.setStns (h : Kept a s) {m : KMap Stn} (e : s.stns.canonical {} → m.canonical {}) :
    Kept a { s with stns := m } :=
  h.upd rfl rfl fun ⟨⟨x, y, z, w, u, v⟩, r⟩ => ⟨⟨x, y, z, w, e u, v⟩, r⟩

theorem Kept.setTers (h : Kept a s) {m : KMap Ter} (e : s.ters.canonical {} → m.canonical {}) :
    Kept a { s with ters := m } :=
  h.upd rfl rfl fun ⟨⟨x, y, z, w, u, v, q⟩, r⟩ => ⟨⟨x, y, z, w, u, e v, q⟩, r⟩

theorem Kept.setAtts (h : Kept a s) {m : KMap Att} (e : s.atts.canonical {} → m.canonical {}) :
    Kept a { s with atts := m } :=
  h.upd rfl rfl fun ⟨⟨x, y, z, w, u, v, q⟩, r⟩ => ⟨⟨x, y, z, w, u, v, e q⟩, r⟩

theorem Kept.setEcc (h : Kept a s) {m : KMap Nat} (e : s.ecc.canonical 0 → m.canonical 0) : Kept a { s with ecc := m } :=
  h.upd rfl rfl fun ⟨⟨x, y, z, w, u⟩, r⟩ => ⟨⟨x, y, z, e w, u⟩, r⟩

theorem Kept.setMem (h : Kept a s) {m : KMap Byte} (e : s.mem.canonical 0#8 → m.canonical 0#8) :
    Kept a { s with mem := m } :=
  h.upd rfl rfl fun ⟨⟨x, y, z⟩, r⟩ => ⟨⟨x, e y, z⟩, r⟩

theorem Kept.setRegs (h : Kept a s) {m : KMap Nat} (e : s.regs.sorted → m.sorted) : Kept a { s with regs := m } :=
  h.upd rfl rfl fun ⟨⟨x, y⟩, r⟩ => ⟨⟨e x, y⟩, r⟩

end Sys2Proof.Machine
end

