-- ==== Sys2Proof/Laws/KeptOps.lean ====
section
/-! SUPPORT. What the operations of Machine/Ops.lean keep. -/

namespace Sys2Proof.Machine

variable {a s : State}

theorem State.wrs_kept (h : Kept a s) {l} : Kept a (State.wrs s l) := by
  unfold State.wrs
  refine foldl_of (P := Kept a) ?_ (fun _ _ k1 => ?_)
  · exact h
  · exact State.wr_kept k1

theorem State.bump_kept (h : Kept a s) {f n} : Kept a (State.bump s f n) := by
  unfold State.bump
  exact State.wr_kept h

theorem State.stN_kept (h : Kept a s) {ax n v} : Kept a (State.stN s ax n v) := by
  unfold State.stN
  exact State.st_kept h

theorem State.emit_kept (h : Kept a s) {o} : Kept a (State.emit s o) := by
  unfold State.emit
  apply Kept.keepF h; exact fun _ => rfl

theorem State.free_kept (h : Kept a s) : Kept a (State.free s).2 := by
  unfold State.free
  refine snd_mk (P := Kept a) ?_
  apply Kept.keepF h; exact fun _ => rfl

theorem State.raise_kept (h : Kept a s) {v} : Kept a (State.raise s v) := by
  unfold State.raise
  refine ite_of (P := Kept a) (fun _ => ?_) (fun _ => ?_)
  · exact h
  · refine ite_of (P := Kept a) (fun _ => ?_) (fun _ => ?_)
    · refine ite_of (P := Kept a) (fun _ => ?_) (fun _ => ?_)
      · exact h
      · apply Kept.keepF h; exact fun _ => rfl
    · exact State.emit_kept h

theorem State.flag_kept (h : Kept a s) {ev en vector} : Kept a (State.flag s ev en vector) := by
  unfold State.flag
  extract_lets -merge -underBinder +onlyGivenNames s1
  have hs1 : Kept a s1 := State.wr_kept h
  clear_value s1
  refine ite_of (P := Kept a) (fun _ => ?_) (fun _ => ?_)
  · exact State.raise_kept hs1
  · exact hs1

theorem State.postEvent_kept (h : Kept a s) {code src arg data stamp} : Kept a (State.postEvent s code src arg data stamp) := by
  unfold State.postEvent
  extract_lets -merge -underBinder +onlyGivenNames seq1 src2 s13
  have hs13 : Kept a s13 := by
    unfold s13
    unfold seq1 src2; apply Kept.keepF h; exact fun _ => rfl
  clear_value s13
  refine ite_of (P := Kept a) (fun _ => ?_) (fun _ => ?_)
  · refine State.bump_kept ?_
    apply Kept.keepF hs13; exact fun _ => rfl
  · extract_lets -merge -underBinder +onlyGivenNames tail4 e5 src6 s27
    have hs27 : Kept a s27 := by
      unfold s27
      unfold src6; apply Kept.keepF hs13; exact fun _ => rfl
    clear_value s27
    extract_lets -merge -underBinder +onlyGivenNames s38
    have hs38 : Kept a s38 := State.wr_kept (State.st_kept hs27)
    clear_value s38
    refine ite_of (P := Kept a) (fun _ => ?_) (fun _ => ?_)
    · exact State.raise_kept hs38
    · exact hs38

theorem State.logEntry_kept (h : Kept a s) {code src wher arg status} : Kept a (State.logEntry s code src wher arg status) := by
  unfold State.logEntry
  extract_lets -merge -underBinder +onlyGivenNames same1
  refine ite_of (P := Kept a) (fun _ => ?_) (fun _ => ?_)
  · exact Kept.setLog h fun x => by rw [List.length_map]; exact x
  · refine ite_of (P := Kept a) (fun _ => ?_) (fun _ => ?_)
    · extract_lets -merge -underBinder +onlyGivenNames r2 src3 s4
      have hs4 : Kept a s4 := by
        unfold s4
        unfold r2 src3; apply Kept.keepF h; exact fun _ => rfl
      clear_value s4
      refine ite_of (P := Kept a) (fun _ => ?_) (fun _ => ?_)
      · exact State.postEvent_kept hs4
      · exact hs4
    · exact Kept.setLog h fun _ => by rw [List.length_append]; simp only [List.length_singleton]; omega

theorem State.count_kept (h : Kept a s) {i n} : Kept a (State.count s i n) := by
  unfold State.count
  extract_lets -merge -underBinder +onlyGivenNames r1 s2
  have hs2 : Kept a s2 := by
    unfold s2
    unfold r1; apply Kept.keepF h; exact fun _ => rfl
  clear_value s2
  refine ite_of (P := Kept a) (fun _ => ?_) (fun _ => ?_)
  · exact State.postEvent_kept (State.logEntry_kept hs2)
  · exact hs2

theorem State.sample_kept (h : Kept a s) {hx b} : Kept a (State.sample s hx b) := by
  unfold State.sample
  extract_lets -merge -underBinder +onlyGivenNames r1 s2
  have hs2 : Kept a s2 := by
    unfold s2
    unfold r1; apply Kept.keepF h; exact fun _ => rfl
  clear_value s2
  refine ite_of (P := Kept a) (fun _ => ?_) (fun _ => ?_)
  · exact State.postEvent_kept (State.logEntry_kept hs2)
  · exact hs2

theorem State.postFault_kept (h : Kept a s) {r} : Kept a (State.postFault s r) := by
  unfold State.postFault
  extract_lets -merge -underBinder +onlyGivenNames s1
  have hs1 : Kept a s1 := State.bump_kept h
  clear_value s1
  refine ite_of (P := Kept a) (fun _ => ?_) (fun _ => ?_)
  · extract_lets -merge -underBinder +onlyGivenNames src2 s3
    have hs3 : Kept a s3 := by
      unfold s3
      exact Kept.setInteg hs1 fun _ => by rw [List.length_append]; simp only [List.length_singleton]; omega
    clear_value s3
    exact State.flag_kept (State.wr_kept hs3)
  · exact State.flag_kept (State.wr_kept (State.bump_kept hs1))

theorem State.addrError_kept (h : Kept a s) : Kept a (State.addrError s) := by
  unfold State.addrError
  exact State.flag_kept (State.bump_kept h)

theorem State.cqWrite_kept (h : Kept a s) {q e} : Kept a (State.cqWrite s q e) := by
  unfold State.cqWrite
  extract_lets -merge -underBinder +onlyGivenNames tail1 s2
  have hs2 : Kept a s2 := State.wr_kept (State.st_kept h)
  clear_value s2
  refine ite_of (P := Kept a) (fun _ => ?_) (fun _ => ?_)
  · exact State.raise_kept hs2
  · exact hs2

theorem State.complete_kept (h : Kept a s) {q e} : Kept a (State.complete s q e) := by
  unfold State.complete
  extract_lets -merge -underBinder +onlyGivenNames st1 st2 src3 s4
  have hs4 : Kept a s4 := by
    unfold s4
    unfold src3; apply Kept.keepF h; exact fun _ => rfl
  clear_value s4
  refine ite_of (P := Kept a) (fun _ => ?_) (fun _ => ?_)
  · exact State.cqWrite_kept hs4
  · exact hs4

theorem State.firstLog_kept (h : Kept a s) {valid multi l} : Kept a (State.firstLog s valid multi l) := by
  unfold State.firstLog
  refine ite_of (P := Kept a) (fun _ => ?_) (fun _ => ?_)
  · exact State.wr_kept h
  · exact State.wrs_kept (State.wr_kept h)

theorem State.codeWritten_kept (h : Kept a s) : Kept a (State.codeWritten s) := by
  unfold State.codeWritten
  apply Kept.keepF h; exact fun _ => rfl

end Sys2Proof.Machine
end

