-- ==== Sys2Proof/Laws/KeptTide.lean ====
section
/-! SUPPORT. What the operations of Machine/Tide.lean keep. -/

namespace Sys2Proof.Machine

variable {a s : State}

theorem State.rederiveGb_kept (h : Kept a s) {t} : Kept a (State.rederiveGb s t) := by
  unfold State.rederiveGb
  extract_lets -merge -underBinder +onlyGivenNames thin1 hot2
  exact State.wr_kept (State.wr_kept h)

theorem State.rederive_kept (h : Kept a s) : Kept a (State.rederive s) := by
  unfold State.rederive
  extract_lets -merge -underBinder +onlyGivenNames c1 s2
  have hs2 : Kept a s2 := State.wr_kept (State.wr_kept h)
  clear_value s2
  extract_lets -merge -underBinder +onlyGivenNames s3
  have hs3 : Kept a s3 := by
    unfold s3
    refine foldl_of (P := Kept a) ?_ (fun _ _ k4 => ?_)
    · exact hs2
    · exact State.rederiveGb_kept k4
  clear_value s3
  extract_lets -merge -underBinder +onlyGivenNames s5
  have hs5 : Kept a s5 := State.wr_kept (State.wr_kept hs3)
  clear_value s5
  exact State.wr_kept hs5

theorem State.takeCfg_kept (h : Kept a s) {c} : Kept a (State.takeCfg s c) := by
  unfold State.takeCfg
  extract_lets -merge -underBinder +onlyGivenNames s1
  have hs1 : Kept a s1 := State.wrs_kept h
  clear_value s1
  refine State.rederive_kept ?_
  apply Kept.keepF hs1; exact fun _ => rfl

theorem State.takeStaged_kept (h : Kept a s) : Kept a (State.takeStaged s) := by
  unfold State.takeStaged
  exact State.takeCfg_kept h

theorem State.tideEvent_kept (h : Kept a s) {ev en} : Kept a (State.tideEvent s ev en) := by
  unfold State.tideEvent
  exact State.flag_kept h

theorem State.refuseApply_kept (h : Kept a s) {cause} : Kept a (State.refuseApply s cause) := by
  unfold State.refuseApply
  exact State.tideEvent_kept (State.wr_kept (State.wr_kept h))

theorem State.enterSource_kept (h : Kept a s) : Kept a (State.enterSource s) := by
  unfold State.enterSource
  extract_lets -merge -underBinder +onlyGivenNames src1
  refine ite_of (P := Kept a) (fun _ => ?_) (fun _ => ?_)
  · refine State.wr_kept ?_
    apply Kept.keepF h; exact fun _ => rfl
  · refine ite_of (P := Kept a) (fun _ => ?_) (fun _ => ?_)
    · exact State.wr_kept h
    · exact State.wr_kept h

theorem State.setTide_kept (h : Kept a s) {f v} : Kept a (State.setTide s f v) := by
  unfold State.setTide
  extract_lets -merge -underBinder +onlyGivenNames s'1
  have hs'1 : Kept a s'1 := State.wr_kept h
  clear_value s'1
  refine ite_of (P := Kept a) (fun _ => ?_) (fun _ => ?_)
  · exact hs'1
  · refine ite_of (P := Kept a) (fun _ => ?_) (fun _ => ?_)
    · extract_lets -merge -underBinder +onlyGivenNames old2 t3
      have ht3 : Kept a t3 := State.takeCfg_kept hs'1
      clear_value t3
      refine ite_of (P := Kept a) (fun _ => ?_) (fun _ => ?_)
      · exact State.enterSource_kept ht3
      · exact ht3
    · exact State.takeStaged_kept hs'1

theorem State.runSet_kept (h : Kept a s) : Kept a (State.runSet s) := by
  unfold State.runSet
  refine ite_of (P := Kept a) (fun _ => ?_) (fun _ => ?_)
  · exact h
  · refine ite_of (P := Kept a) (fun _ => ?_) (fun _ => ?_)
    · exact State.refuseApply_kept h
    · refine ite_of (P := Kept a) (fun _ => ?_) (fun _ => ?_)
      · exact State.wr_kept h
      · extract_lets -merge -underBinder +onlyGivenNames s1
        have hs1 : Kept a s1 := State.wr_kept h
        clear_value s1
        refine State.enterSource_kept ?_
        apply Kept.keepF hs1; exact fun _ => rfl

theorem State.runClear_kept (h : Kept a s) : Kept a (State.runClear s) := by
  unfold State.runClear
  extract_lets -merge -underBinder +onlyGivenNames s1
  have hs1 : Kept a s1 := State.wr_kept h
  clear_value s1
  refine ite_of (P := Kept a) (fun _ => ?_) (fun _ => ?_)
  · exact hs1
  · refine State.wr_kept ?_
    refine State.takeStaged_kept ?_
    refine State.wr_kept ?_
    apply Kept.keepF hs1; exact fun _ => rfl

theorem State.tideCtrlFields_kept (h : Kept a s) {w} : Kept a (State.tideCtrlFields s w) := by
  unfold State.tideCtrlFields
  extract_lets -merge -underBinder +onlyGivenNames s1
  have hs1 : Kept a s1 := State.setTide_kept (State.setTide_kept (State.setTide_kept h))
  clear_value s1
  exact State.wrs_kept hs1

theorem State.tideCtrlWrite_kept (h : Kept a s) {w} : Kept a (State.tideCtrlWrite s w) := by
  unfold State.tideCtrlWrite
  extract_lets -merge -underBinder +onlyGivenNames s1
  have hs1 : Kept a s1 := State.tideCtrlFields_kept h
  clear_value s1
  refine ite_of (P := Kept a) (fun _ => ?_) (fun _ => ?_)
  · exact State.runSet_kept hs1
  · refine ite_of (P := Kept a) (fun _ => ?_) (fun _ => ?_)
    · exact State.runClear_kept hs1
    · exact hs1

theorem State.applyWrite_kept (h : Kept a s) {lo hi} : Kept a (State.applyWrite s lo hi) := by
  unfold State.applyWrite
  refine ite_of (P := Kept a) (fun _ => ?_) (fun _ => ?_)
  · refine ite_of (P := Kept a) (fun _ => ?_) (fun _ => ?_)
    · extract_lets -merge -underBinder +onlyGivenNames s1
      have hs1 : Kept a s1 := by
        unfold s1
        refine ite_of (P := Kept a) (fun _ => ?_) (fun _ => ?_)
        · exact State.wr_kept h
        · exact h
      clear_value s1
      exact State.wrs_kept hs1
    · exact h
  · extract_lets -merge -underBinder +onlyGivenNames s2
    have hs2 : Kept a s2 := by
      unfold s2
      refine ite_of (P := Kept a) (fun _ => ?_) (fun _ => ?_)
      · exact State.wr_kept h
      · exact h
    clear_value s2
    exact State.wrs_kept hs2

theorem State.setNow_kept (h : Kept a s) {t} : Kept a (State.setNow s t) := by
  unfold State.setNow
  exact State.wr_kept h

theorem State.runTo_kept (h : Kept a s) {t} : Kept a (State.runTo s t) := by
  unfold State.runTo
  extract_lets -merge -underBinder +onlyGivenNames n1 s'2
  have hs'2 : Kept a s'2 := State.wr_kept h
  clear_value s'2
  refine ite_of (P := Kept a) (fun _ => ?_) (fun _ => ?_)
  · exact State.emit_kept hs'2
  · exact hs'2

theorem State.pass_kept (h : Kept a s) {dt} : Kept a (State.pass s dt) := by
  unfold State.pass
  refine State.runTo_kept ?_
  apply Kept.keepF h; exact fun _ => rfl

theorem State.beginRephase_kept (h : Kept a s) : Kept a (State.beginRephase s) := by
  unfold State.beginRephase
  refine ite_of (P := Kept a) (fun _ => ?_) (fun _ => ?_)
  · exact h
  · refine State.tideEvent_kept ?_
    refine State.wr_kept ?_
    apply Kept.keepF h; exact fun _ => rfl

theorem State.stepTime_kept (h : Kept a s) {d} : Kept a (State.stepTime s d) := by
  unfold State.stepTime
  extract_lets -merge -underBinder +onlyGivenNames s1
  have hs1 : Kept a s1 := State.setNow_kept h
  try clear_value s1
  extract_lets -merge -underBinder +onlyGivenNames mv2 src3 s4
  have hs4 : Kept a s4 := by
    unfold s4
    exact Kept.keep hs1 rfl
  try clear_value s4
  extract_lets -merge -underBinder +onlyGivenNames s5
  have hs5 : Kept a s5 := State.tideEvent_kept hs4
  try clear_value s5
  extract_lets -merge -underBinder +onlyGivenNames c6
  refine ite_of (P := Kept a) (fun _ => ?_) (fun _ => ?_)
  · extract_lets -merge -underBinder +onlyGivenNames due7 off8
    refine ite_of (P := Kept a) (fun _ => ?_) (fun _ => ?_)
    · exact State.beginRephase_kept hs5
    · exact hs5
  · exact hs5

theorem State.steer_kept (h : Kept a s) {offset bound} : Kept a (State.steer s offset bound) := by
  unfold State.steer
  extract_lets -merge -underBinder +onlyGivenNames r1
  have hr1 : Kept a r1.2 := State.free_kept h
  clear_value r1
  extract_lets -merge -underBinder +onlyGivenNames src2
  have hsrc2 : Kept a src2 := hr1
  extract_lets -merge -underBinder +onlyGivenNames src3 s4
  have hs4 : Kept a s4 := by
    unfold s4
    refine ite_of (P := Kept a) (fun _ => ?_) (fun _ => ?_)
    · exact State.stepTime_kept h
    · exact Kept.keep (hsrc2) rfl
  clear_value s4
  extract_lets -merge -underBinder +onlyGivenNames src5 s6
  have hs6 : Kept a s6 := by
    unfold s6
    unfold src5; apply Kept.keepF hs4; exact fun _ => rfl
  clear_value s6
  extract_lets -merge -underBinder +onlyGivenNames s7
  have hs7 : Kept a s7 := State.wr_kept (State.wr_kept hs6)
  clear_value s7
  refine ite_of (P := Kept a) (fun _ => ?_) (fun _ => ?_)
  · extract_lets -merge -underBinder +onlyGivenNames src8 s9
    have hs9 : Kept a s9 := by
      unfold s9
      unfold src8; apply Kept.keepF hs7; exact fun _ => rfl
    clear_value s9
    refine ite_of (P := Kept a) (fun _ => ?_) (fun _ => ?_)
    · exact State.tideEvent_kept (State.wr_kept hs9)
    · exact hs9
  · exact hs7

theorem State.syncLost_kept (h : Kept a s) : Kept a (State.syncLost s) := by
  unfold State.syncLost
  refine ite_of (P := Kept a) (fun _ => ?_) (fun _ => ?_)
  · extract_lets -merge -underBinder +onlyGivenNames s1
    have hs1 : Kept a s1 := State.wr_kept (State.wr_kept h)
    clear_value s1
    refine ite_of (P := Kept a) (fun _ => ?_) (fun _ => ?_)
    · exact State.tideEvent_kept (State.wr_kept hs1)
    · exact hs1
  · exact h

theorem State.wclkLost_kept (h : Kept a s) : Kept a (State.wclkLost s) := by
  unfold State.wclkLost
  refine State.tideEvent_kept ?_
  refine State.wr_kept ?_
  apply Kept.keepF h; exact fun _ => rfl

theorem State.wclkAccepted_kept (h : Kept a s) : Kept a (State.wclkAccepted s) := by
  unfold State.wclkAccepted
  extract_lets -merge -underBinder +onlyGivenNames hold1 src2 s3
  have hs3 : Kept a s3 := by
    unfold s3
    refine State.tideEvent_kept ?_
    refine State.wr_kept ?_
    unfold src2; apply Kept.keepF h; exact fun _ => rfl
  clear_value s3
  refine ite_of (P := Kept a) (fun _ => ?_) (fun _ => ?_)
  · exact State.beginRephase_kept hs3
  · exact hs3

theorem State.frameHit_kept (h : Kept a s) {e} : Kept a (State.frameHit s e) := by
  unfold State.frameHit
  extract_lets -merge -underBinder +onlyGivenNames c1 long2
  refine ite_of (P := Kept a) (fun _ => ?_) (fun _ => ?_)
  · exact h
  · apply Kept.keepF h; exact fun _ => rfl

theorem State.lockedEdge_kept (h : Kept a s) {e good d} : Kept a (State.lockedEdge s e good d) := by
  unfold State.lockedEdge
  extract_lets -merge -underBinder +onlyGivenNames src1 s2
  have hs2 : Kept a s2 := by
    unfold s2
    exact Kept.keep h rfl
  try clear_value s2
  refine ite_of (P := Kept a) (fun _ => ?_) (fun _ => ?_)
  · exact State.wclkLost_kept hs2
  · extract_lets -merge -underBinder +onlyGivenNames r3 src4 s5
    have hs5 : Kept a s5 := by
      unfold s5
      exact Kept.keep hs2 rfl
    try clear_value s5
    refine ite_of (P := Kept a) (fun _ => ?_) (fun _ => ?_)
    · exact State.frameHit_kept hs5
    · exact hs5

theorem State.countEdge_kept (h : Kept a s) {e} : Kept a (State.countEdge s e) := by
  unfold State.countEdge
  extract_lets -merge -underBinder +onlyGivenNames hz1 ok2 iv3 src4 s5
  have hs5 : Kept a s5 := by
    unfold s5
    unfold iv3 ok2 src4; apply Kept.keepF h; exact fun _ => rfl
  clear_value s5
  refine ite_of (P := Kept a) (fun _ => ?_) (fun _ => ?_)
  · exact State.wclkAccepted_kept hs5
  · exact hs5

theorem State.wclkEdge_kept (h : Kept a s) : Kept a (State.wclkEdge s) := by
  unfold State.wclkEdge
  extract_lets -merge -underBinder +onlyGivenNames c1 e2 s3
  have hs3 : Kept a s3 := by
    unfold s3
    refine ite_of (P := Kept a) (fun _ => ?_) (fun _ => ?_)
    · exact State.emit_kept h
    · exact h
  clear_value s3
  refine ite_of (P := Kept a) (fun _ => ?_) (fun _ => ?_)
  · extract_lets -merge -underBinder +onlyGivenNames lock4
    refine ite_of (P := Kept a) (fun _ => ?_) (fun _ => ?_)
    · split
      · exact State.lockedEdge_kept hs3
      · refine ite_of (P := Kept a) (fun _ => ?_) (fun _ => ?_)
        · exact State.countEdge_kept (State.wclkLost_kept hs3)
        · exact State.lockedEdge_kept hs3
    · refine ite_of (P := Kept a) (fun _ => ?_) (fun _ => ?_)
      · split
        · refine ite_of (P := Kept a) (fun _ => ?_) (fun _ => ?_)
          · apply Kept.keepF hs3; exact fun _ => rfl
          · exact State.countEdge_kept hs3
        · exact State.countEdge_kept hs3
      · exact hs3
  · exact hs3

theorem State.wclkTimeout_kept (h : Kept a s) : Kept a (State.wclkTimeout s) := by
  unfold State.wclkTimeout
  refine ite_of (P := Kept a) (fun _ => ?_) (fun _ => ?_)
  · refine ite_of (P := Kept a) (fun _ => ?_) (fun _ => ?_)
    · exact State.wclkLost_kept h
    · apply Kept.keepF h; exact fun _ => rfl
  · exact h

theorem State.generatorStop_kept (h : Kept a s) : Kept a (State.generatorStop s) := by
  unfold State.generatorStop
  extract_lets -merge -underBinder +onlyGivenNames src1 s2
  have hs2 : Kept a s2 := by
    unfold s2
    unfold src1; apply Kept.keepF h; exact fun _ => rfl
  clear_value s2
  exact State.takeStaged_kept (State.wrs_kept hs2)

theorem State.advanceTide_kept (h : Kept a s) : Kept a (State.advanceTide s) := by
  unfold State.advanceTide
  extract_lets -merge -underBinder +onlyGivenNames bt1 nn2 k3 up4 s5
  have hs5 : Kept a s5 := by
    unfold s5
    refine ite_of (P := Kept a) (fun _ => ?_) (fun _ => ?_)
    · exact State.runTo_kept h
    · exact h
  clear_value s5
  extract_lets -merge -underBinder +onlyGivenNames s6
  have hs6 : Kept a s6 := State.wrs_kept hs5
  clear_value s6
  extract_lets -merge -underBinder +onlyGivenNames src7 s8
  have hs8 : Kept a s8 := by
    unfold s8
    unfold src7; apply Kept.keepF hs6; exact fun _ => rfl
  clear_value s8
  refine ite_of (P := Kept a) (fun _ => ?_) (fun _ => ?_)
  · exact State.emit_kept hs8
  · exact hs8

theorem State.applyAtBoundary_kept (h : Kept a s) {maxL setsOk inFlight} : Kept a (State.applyAtBoundary s maxL setsOk inFlight) := by
  unfold State.applyAtBoundary
  refine ite_of (P := Kept a) (fun _ => ?_) (fun _ => ?_)
  · exact h
  · extract_lets -merge -underBinder +onlyGivenNames old1 c2 cause3 s4
    have hs4 : Kept a s4 := State.wr_kept h
    clear_value s4
    refine ite_of (P := Kept a) (fun _ => ?_) (fun _ => ?_)
    · exact State.refuseApply_kept hs4
    · extract_lets -merge -underBinder +onlyGivenNames s5
      have hs5 : Kept a s5 := State.tideEvent_kept (State.takeStaged_kept (State.wr_kept hs4))
      clear_value s5
      refine ite_of (P := Kept a) (fun _ => ?_) (fun _ => ?_)
      · extract_lets -merge -underBinder +onlyGivenNames src6 s7
        have hs7 : Kept a s7 := by
          unfold s7
          unfold src6; apply Kept.keepF hs5; exact fun _ => rfl
        clear_value s7
        refine ite_of (P := Kept a) (fun _ => ?_) (fun _ => ?_)
        · apply Kept.keepF hs7; exact fun _ => rfl
        · exact State.enterSource_kept hs7
      · refine ite_of (P := Kept a) (fun _ => ?_) (fun _ => ?_)
        · extract_lets -merge -underBinder +onlyGivenNames s8
          have hs8 : Kept a s8 := State.beginRephase_kept hs5
          clear_value s8
          apply Kept.keepF hs8; exact fun _ => rfl
        · exact hs5

theorem State.writeSetting_kept (h : Kept a s) {which v} : Kept a (State.writeSetting s which v) := by
  unfold State.writeSetting
  split
  · exact State.setTide_kept h
  · exact State.setTide_kept h
  · exact State.setTide_kept h
  · exact State.setTide_kept h
  · exact State.setTide_kept h

theorem execTideSettingWrite_kept (h : Kept a s) {which v} : ResKept a (execTideSettingWrite which v s) := by
  unfold execTideSettingWrite
  exact ResKept.next (State.writeSetting_kept h)

theorem execTideRunSet_kept (h : Kept a s) {w} : ResKept a (execTideRunSet w s) := by
  unfold execTideRunSet
  exact ResKept.next (State.runSet_kept (State.tideCtrlFields_kept h))

theorem execApplyArm_kept (h : Kept a s) {tide} : ResKept a (execApplyArm tide s) := by
  unfold execApplyArm
  exact ResKept.next (State.applyWrite_kept h)

theorem execApplyCancel_kept (h : Kept a s) {tide} : ResKept a (execApplyCancel tide s) := by
  unfold execApplyCancel
  exact ResKept.next (State.applyWrite_kept h)

theorem execWclkEdge_kept (h : Kept a s) {dt} : ResKept a (execWclkEdge dt s) := by
  unfold execWclkEdge
  exact ResKept.next (State.wclkEdge_kept (State.pass_kept h))

theorem execWclkLossTimeout_kept (h : Kept a s) : ResKept a (execWclkLossTimeout s) := by
  unfold execWclkLossTimeout
  exact ResKept.next (State.wclkTimeout_kept h)

theorem State.gptp_kept (h : Kept a s) {port offset bound} : Kept a (State.gptp s port offset bound) := by
  unfold State.gptp
  refine ite_of (P := Kept a) (fun _ => ?_) (fun _ => ?_)
  · exact State.steer_kept h
  · exact h

theorem execGptpFrameReceive_kept (h : Kept a s) {port offset bound} : ResKept a (execGptpFrameReceive port offset bound s) := by
  unfold execGptpFrameReceive
  exact ResKept.next (State.gptp_kept h)

theorem State.ppsIn_kept (h : Kept a s) : Kept a (State.ppsIn s) := by
  unfold State.ppsIn
  refine ite_of (P := Kept a) (fun _ => ?_) (fun _ => ?_)
  · exact h
  · extract_lets -merge -underBinder +onlyGivenNames b1
    have hb1 : Kept a b1.2 := State.free_kept h
    clear_value b1
    extract_lets -merge -underBinder +onlyGivenNames bound2 now3
    refine ite_of (P := Kept a) (fun _ => ?_) (fun _ => ?_)
    · extract_lets -merge -underBinder +onlyGivenNames src4
      have hsrc4 : Kept a src4 := hb1
      extract_lets -merge -underBinder +onlyGivenNames src5 s6
      have hs6 : Kept a s6 := by
        unfold s6
        exact Kept.keep (hsrc4) rfl
      clear_value s6
      exact State.steer_kept hs6
    · refine ite_of (P := Kept a) (fun _ => ?_) (fun _ => ?_)
      · extract_lets -merge -underBinder +onlyGivenNames r7
        exact State.steer_kept hb1
      · exact h

theorem execPpsInEdge_kept (h : Kept a s) {dt} : ResKept a (execPpsInEdge dt s) := by
  unfold execPpsInEdge
  exact ResKept.next (State.ppsIn_kept (State.pass_kept h))

theorem State.ppsOutSecond_kept (h : Kept a s) : Kept a (State.ppsOutSecond s) := by
  unfold State.ppsOutSecond
  extract_lets -merge -underBinder +onlyGivenNames now1 up2 s3
  have hs3 : Kept a s3 := by
    unfold s3
    refine State.runTo_kept ?_
    apply Kept.keepF h; exact fun _ => rfl
  clear_value s3
  refine ite_of (P := Kept a) (fun _ => ?_) (fun _ => ?_)
  · exact State.emit_kept hs3
  · exact hs3

theorem execPpsOutSecond_kept (h : Kept a s) : ResKept a (execPpsOutSecond s) := by
  unfold execPpsOutSecond
  exact ResKept.next (State.ppsOutSecond_kept h)

theorem execSyncValidLoss_kept (h : Kept a s) : ResKept a (execSyncValidLoss s) := by
  unfold execSyncValidLoss
  exact ResKept.next (State.syncLost_kept h)

end Sys2Proof.Machine
end

