-- ==== Sys2Proof/Laws/KeptStation.lean ====
section
/-! SUPPORT. What the operations of Machine/Station.lean keep. -/

namespace Sys2Proof.Machine

variable {a s : State}

theorem State.setStn_kept (h : Kept a s) {t p v} : Kept a (State.setStn s t p v) := by
  unfold State.setStn
  exact Kept.setStns h (KMap.canonical_set _ _ _ _)

theorem State.onStn_kept (h : Kept a s) {t p f} : Kept a (State.onStn s t p f) := by
  unfold State.onStn
  exact State.setStn_kept h

theorem State.onTer_kept (h : Kept a s) {t f} : Kept a (State.onTer s t f) := by
  unfold State.onTer
  exact Kept.setTers h (KMap.canonical_set _ _ _ _)

theorem State.clearMarks_kept (h : Kept a s) {ax n} : Kept a (State.clearMarks s ax n) := by
  unfold State.clearMarks
  exact Kept.setEcc h (KMap.canonical_clear _ _ _ _)

theorem State.mark_kept (h : Kept a s) {ax kind} : Kept a (State.mark s ax kind) := by
  unfold State.mark
  exact Kept.setEcc h (KMap.canonical_set _ _ _ _)

theorem State.eccStn_kept (h : Kept a s) {t p m row scrub l} : Kept a (State.eccStn s t p m row scrub l) := by
  unfold State.eccStn
  refine foldl_of (P := Kept a) ?_ (fun _ _ k1 => ?_)
  · exact h
  · extract_lets -merge -underBinder +onlyGivenNames unc2 s3
    have hs3 : Kept a s3 := State.bump_kept k1
    clear_value s3
    exact State.firstLog_kept hs3

theorem State.eccTs_kept (h : Kept a s) {t row scrub l} : Kept a (State.eccTs s t row scrub l) := by
  unfold State.eccTs
  refine foldl_of (P := Kept a) ?_ (fun _ _ k1 => ?_)
  · exact h
  · extract_lets -merge -underBinder +onlyGivenNames unc2 s3
    have hs3 : Kept a s3 := State.bump_kept k1
    clear_value s3
    exact State.firstLog_kept hs3

theorem State.writeBack_kept (h : Kept a s) {ax n} : Kept a (State.writeBack s ax n) := by
  unfold State.writeBack
  exact Kept.setEcc h (KMap.canonical_filter _ _ _)

theorem State.readRow_kept (h : Kept a s) {t p m row} : Kept a (State.readRow s t p m row).2 := by
  unfold State.readRow
  extract_lets -merge -underBinder +onlyGivenNames a1 l2 s3
  have hs3 : Kept a s3 := State.writeBack_kept (State.eccStn_kept h)
  clear_value s3
  exact snd_mk (P := Kept a) (hs3)

theorem State.readTs_kept (h : Kept a s) {t row} : Kept a (State.readTs s t row).2 := by
  unfold State.readTs
  extract_lets -merge -underBinder +onlyGivenNames a1 l2 s3
  have hs3 : Kept a s3 := State.writeBack_kept (State.eccTs_kept h)
  clear_value s3
  exact snd_mk (P := Kept a) (hs3)

theorem State.readRows_kept (h : Kept a s) {n} {f : Sys2Proof.Machine.State → Nat → Option (List Sys2Proof.Byte) × Sys2Proof.Machine.State} (hf : ∀ y0 y1, Kept a y0 → Kept a (f y0 y1).2) : Kept a (State.readRows s f n).2 := by
  unfold State.readRows
  refine foldl_of (P := fun r => Kept a (Prod.snd r)) ?_ (fun _ _ k1 => ?_)
  · exact snd_mk (P := Kept a) (h)
  · extract_lets -merge -underBinder +onlyGivenNames x2
    have hx2 : Kept a x2.2 := by
      unfold x2
      exact hf _ _ (k1)
    clear_value x2
    exact snd_mk (P := Kept a) (hx2)

theorem State.tsBytes_kept (h : Kept a s) {t row n} : Kept a (State.tsBytes s t row n).2 := by
  unfold State.tsBytes
  extract_lets -merge -underBinder +onlyGivenNames r1
  have hr1 : Kept a r1.2 := by
    unfold r1
    refine State.readRows_kept h (fun _ _ k2 => ?_)
    exact State.readTs_kept k2
  clear_value r1
  exact snd_mk (P := Kept a) (hr1)

theorem State.putRow_kept (h : Kept a s) {ax b} : Kept a (State.putRow s ax b) := by
  unfold State.putRow
  exact State.clearMarks_kept (State.st_kept h)

theorem State.writeRow_kept (h : Kept a s) {t p m row b} : Kept a (State.writeRow s t p m row b) := by
  unfold State.writeRow
  extract_lets -merge -underBinder +onlyGivenNames s1
  have hs1 : Kept a s1 := State.putRow_kept h
  clear_value s1
  refine ite_of (P := Kept a) (fun _ => ?_) (fun _ => ?_)
  · exact State.putRow_kept hs1
  · exact hs1

theorem State.setPresent_kept (h : Kept a s) {t p k} : Kept a (State.setPresent s t p k) := by
  unfold State.setPresent
  exact State.wrs_kept h

theorem State.clearPresent_kept (h : Kept a s) {t p k} : Kept a (State.clearPresent s t p k) := by
  unfold State.clearPresent
  exact State.wrs_kept h

theorem State.release_kept (h : Kept a s) {t p k byRel} : Kept a (State.release s t p k byRel) := by
  unfold State.release
  extract_lets -merge -underBinder +onlyGivenNames kind1
  refine ite_of (P := Kept a) (fun _ => ?_) (fun _ => ?_)
  · exact h
  · refine ite_of (P := Kept a) (fun _ => ?_) (fun _ => ?_)
    · extract_lets -merge -underBinder +onlyGivenNames n2 s3
      have hs3 : Kept a s3 := State.wr_kept h
      clear_value s3
      refine ite_of (P := Kept a) (fun _ => ?_) (fun _ => ?_)
      · exact State.clearPresent_kept hs3
      · exact hs3
    · refine ite_of (P := Kept a) (fun _ => ?_) (fun _ => ?_)
      · exact State.clearPresent_kept h
      · exact h

theorem State.stallSlot_kept (h : Kept a s) {t p k write} : Kept a (State.stallSlot s t p k write) := by
  unfold State.stallSlot
  exact State.bump_kept (State.wr_kept h)

theorem State.readOff_kept (h : Kept a s) {t p d o} : Kept a (State.readOff s t p d o).2 := by
  unfold State.readOff
  split
  · exact snd_mk (P := Kept a) (h)
  · refine ite_of (P := fun r => Kept a (Prod.snd r)) (fun _ => ?_) (fun _ => ?_)
    · refine ite_of (P := fun r => Kept a (Prod.snd r)) (fun _ => ?_) (fun _ => ?_)
      · split
        · have k1 := snd_of (by assumption) (State.readTs_kept h)
          exact snd_mk (P := Kept a) (k1)
        · have k2 := snd_of (by assumption) (State.readTs_kept h)
          exact snd_mk (P := Kept a) (k2)
      · exact snd_mk (P := Kept a) (State.bump_kept h)
    · extract_lets -merge -underBinder +onlyGivenNames wait3
      refine ite_of (P := fun r => Kept a (Prod.snd r)) (fun _ => ?_) (fun _ => ?_)
      · exact snd_mk (P := Kept a) (State.stallSlot_kept h)
      · split
        · have k4 := snd_of (by assumption) (State.readRow_kept h)
          exact snd_mk (P := Kept a) (k4)
        · have k5 := snd_of (by assumption) (State.readRow_kept h)
          exact snd_mk (P := Kept a) (k5)

theorem State.readOffs_kept {s : State} (h : Kept a s) {t p d ax ax1} : Kept a (State.readOffs s t p d ax ax1).2 := by
  unfold State.readOffs
  split
  · exact snd_mk (P := Kept a) (h)
  · split
    · have k2 := snd_of (by assumption) (State.readOff_kept h)
      split
      · have k3 := snd_of (by assumption) (State.readOffs_kept k2)
        exact snd_mk (P := Kept a) (k3)
      · exact (State.readOffs_kept k2)
    · exact (State.readOff_kept h)

theorem State.writeOff_kept (h : Kept a s) {t p d o b set drain} : Kept a (State.writeOff s t p d o b set drain) := by
  unfold State.writeOff
  split
  · exact h
  · refine ite_of (P := Kept a) (fun _ => ?_) (fun _ => ?_)
    · refine ite_of (P := Kept a) (fun _ => ?_) (fun _ => ?_)
      · exact State.putRow_kept h
      · exact State.bump_kept h
    · refine ite_of (P := Kept a) (fun _ => ?_) (fun _ => ?_)
      · extract_lets -merge -underBinder +onlyGivenNames up1
        exact State.onStn_kept h
      · extract_lets -merge -underBinder +onlyGivenNames s2
        have hs2 : Kept a s2 := State.writeRow_kept h
        clear_value s2
        refine ite_of (P := Kept a) (fun _ => ?_) (fun _ => ?_)
        · exact State.setPresent_kept hs2
        · exact hs2

theorem State.signal_kept (h : Kept a s) {t p g} : Kept a (State.signal s t p g).2 := by
  unfold State.signal
  extract_lets -merge -underBinder +onlyGivenNames v1 same2
  refine ite_of (P := fun r => Kept a (Prod.snd r)) (fun _ => ?_) (fun _ => ?_)
  · exact snd_mk (P := Kept a) (State.onStn_kept h)
  · exact snd_mk (P := Kept a) (State.onStn_kept h)

theorem State.sigSet_kept (h : Kept a s) {t p side slot run tile} : Kept a (State.sigSet s t p side slot run tile) := by
  unfold State.sigSet
  extract_lets -merge -underBinder +onlyGivenNames r1
  have hr1 : Kept a r1.2 := State.signal_kept h
  clear_value r1
  split
  · exact State.setPresent_kept hr1
  · exact hr1

theorem State.sigRelease_kept (h : Kept a s) {t p side slot run tile byRel} : Kept a (State.sigRelease s t p side slot run tile byRel) := by
  unfold State.sigRelease
  extract_lets -merge -underBinder +onlyGivenNames r1
  have hr1 : Kept a r1.2 := State.signal_kept h
  clear_value r1
  split
  · exact State.release_kept hr1
  · exact hr1

theorem State.putOff_kept (h : Kept a s) {t p d o b set drain g} : Kept a (State.putOff s t p d o b set drain g) := by
  unfold State.putOff
  split
  · exact h
  · extract_lets -merge -underBinder +onlyGivenNames last1 g2
    refine ite_of (P := Kept a) (fun _ => ?_) (fun _ => ?_)
    · refine ite_of (P := Kept a) (fun _ => ?_) (fun _ => ?_)
      · exact State.signal_kept h
      · exact h
    · refine ite_of (P := Kept a) (fun _ => ?_) (fun _ => ?_)
      · extract_lets -merge -underBinder +onlyGivenNames s3
        have hs3 : Kept a s3 := State.writeOff_kept h
        clear_value s3
        refine ite_of (P := Kept a) (fun _ => ?_) (fun _ => ?_)
        · exact State.sigSet_kept hs3
        · exact hs3
      · refine State.writeOff_kept ?_
        refine ite_of (P := Kept a) (fun _ => ?_) (fun _ => ?_)
        · exact State.signal_kept h
        · exact h

theorem State.restore_kept (h : Kept a s) {t p c} : Kept a (State.restore s t p c) := by
  unfold State.restore
  extract_lets -merge -underBinder +onlyGivenNames s1
  have hs1 : Kept a s1 := by
    unfold s1
    refine foldl_of (P := Kept a) ?_ (fun _ _ k2 => ?_)
    · exact h
    · exact State.wrs_kept k2
  clear_value s1
  extract_lets -merge -underBinder +onlyGivenNames s3
  have hs3 : Kept a s3 := by
    unfold s3
    refine foldl_of (P := Kept a) ?_ (fun _ _ k4 => ?_)
    · exact hs1
    · exact State.wr_kept k4
  clear_value s3
  extract_lets -merge -underBinder +onlyGivenNames s5
  have hs5 : Kept a s5 := by
    unfold s5
    refine foldl_of (P := Kept a) ?_ (fun _ _ k6 => ?_)
    · exact hs3
    · exact State.wr_kept k6
  clear_value s5
  extract_lets -merge -underBinder +onlyGivenNames s7
  have hs7 : Kept a s7 := State.wrs_kept hs5
  clear_value s7
  exact State.onStn_kept hs7

theorem State.haltConsumers_kept {s : State} (h : Kept a s) {handle ax ax1} : Kept a (State.haltConsumers s handle ax ax1) := by
  unfold State.haltConsumers
  split
  · exact h
  · extract_lets -merge -underBinder +onlyGivenNames hit2
    refine ite_of (P := Kept a) (fun _ => ?_) (fun _ => ?_)
    · exact h
    · extract_lets -merge -underBinder +onlyGivenNames s3
      have hs3 : Kept a s3 := by
        unfold s3
        refine foldl_of (P := Kept a) ?_ (fun _ _ k4 => ?_)
        · exact h
        · extract_lets -merge -underBinder +onlyGivenNames c5
          exact State.wrs_kept (State.onStn_kept k4)
      clear_value s3
      exact State.haltConsumers_kept hs3

theorem State.loadReserve_kept (h : Kept a s) {t p} : Kept a (State.loadReserve s t p) := by
  unfold State.loadReserve
  extract_lets -merge -underBinder +onlyGivenNames s1
  have hs1 : Kept a s1 := by
    unfold s1
    exact Kept.setEcc (Kept.setMem h (KMap.canonical_copy _ _ _ _ _)) (KMap.canonical_copy _ _ _ _ _)
  clear_value s1
  extract_lets -merge -underBinder +onlyGivenNames s2
  have hs2 : Kept a s2 := State.wrs_kept hs1
  clear_value s2
  refine foldl_of (P := Kept a) ?_ (fun _ _ k3 => ?_)
  · exact hs2
  · exact State.wrs_kept k3

theorem State.loadCurves_kept (h : Kept a s) {t p} : Kept a (State.loadCurves s t p) := by
  unfold State.loadCurves
  exact State.onStn_kept (State.wrs_kept h)

theorem State.beginReplay_kept (h : Kept a s) {t p sl} : Kept a (State.beginReplay s t p sl) := by
  unfold State.beginReplay
  extract_lets -merge -underBinder +onlyGivenNames v1 c2 s3
  have hs3 : Kept a s3 := State.bump_kept (State.wr_kept (State.loadCurves_kept (State.loadReserve_kept h)))
  clear_value s3
  extract_lets -merge -underBinder +onlyGivenNames s4
  have hs4 : Kept a s4 := State.onTer_kept (State.bump_kept hs3)
  clear_value s4
  extract_lets -merge -underBinder +onlyGivenNames src5 s6
  have hs6 : Kept a s6 := State.setStn_kept hs4
  clear_value s6
  exact State.restore_kept hs6

theorem State.faultSlice_kept (h : Kept a s) {t p code cyc own again log} : Kept a (State.faultSlice s t p code cyc own again log) := by
  unfold State.faultSlice
  extract_lets -merge -underBinder +onlyGivenNames v1
  split
  · exact h
  · extract_lets -merge -underBinder +onlyGivenNames first2 carried3 grant4 s5
    have hs5 : Kept a s5 := State.postFault_kept h
    clear_value s5
    extract_lets -merge -underBinder +onlyGivenNames s6
    have hs6 : Kept a s6 := State.wrs_kept hs5
    clear_value s6
    extract_lets -merge -underBinder +onlyGivenNames s7
    have hs7 : Kept a s7 := State.onStn_kept hs6
    clear_value s7
    refine ite_of (P := Kept a) (fun _ => ?_) (fun _ => ?_)
    · exact hs7
    · refine ite_of (P := Kept a) (fun _ => ?_) (fun _ => ?_)
      · exact State.beginReplay_kept hs7
      · extract_lets -merge -underBinder +onlyGivenNames s8
        have hs8 : Kept a s8 := State.tideEvent_kept hs7
        clear_value s8
        exact State.haltConsumers_kept hs8

theorem State.seqFault_kept (h : Kept a s) {t p cause code cyc own again} : Kept a (State.seqFault s t p cause code cyc own again) := by
  unfold State.seqFault
  extract_lets -merge -underBinder +onlyGivenNames s1
  have hs1 : Kept a s1 := State.firstLog_kept h
  clear_value s1
  exact State.faultSlice_kept hs1

theorem State.refreshRows_kept (h : Kept a s) {t p d} : Kept a (State.refreshRows s t p d) := by
  unfold State.refreshRows
  split
  · exact h
  · refine foldl_of (P := Kept a) ?_ (fun _ _ k1 => ?_)
    · exact h
    · extract_lets -merge -underBinder +onlyGivenNames k2
      refine ite_of (P := Kept a) (fun _ => ?_) (fun _ => ?_)
      · exact State.clearMarks_kept k1
      · exact k1

theorem State.uncRead_kept (h : Kept a s) {t p cyc own d} : Kept a (State.uncRead s t p cyc own d) := by
  unfold State.uncRead
  extract_lets -merge -underBinder +onlyGivenNames h1 log2 again3 was4 s5
  have hs5 : Kept a s5 := State.faultSlice_kept h
  clear_value s5
  refine ite_of (P := Kept a) (fun _ => ?_) (fun _ => ?_)
  · exact State.refreshRows_kept hs5
  · exact hs5

theorem State.uncScale_kept (h : Kept a s) {t p cyc d row} : Kept a (State.uncScale s t p cyc d row) := by
  unfold State.uncScale
  extract_lets -merge -underBinder +onlyGivenNames h1 was2 s3
  have hs3 : Kept a s3 := State.faultSlice_kept h
  clear_value s3
  refine ite_of (P := Kept a) (fun _ => ?_) (fun _ => ?_)
  · exact State.clearMarks_kept hs3
  · exact hs3

end Sys2Proof.Machine
end

