-- ==== Sys2Proof/Laws/KeptWindow.lean ====
section
/-! SUPPORT. What the operations of Machine/Window.lean keep. -/

namespace Sys2Proof.Machine

variable {a s : State}

theorem State.gather_kept {s : State} (h : Kept a s) {t p d ax ax1} : Kept a (State.gather s t p d ax ax1).2.2 := by
  unfold State.gather
  split
  · exact snd_mk (P := fun r => Kept a (Prod.snd r)) (snd_mk (P := Kept a) (h))
  · refine ite_of (P := fun r => Kept a (Prod.snd (Prod.snd r))) (fun _ => ?_) (fun _ => ?_)
    · exact State.gather_kept h
    · split
      · have k2 := snd_of (by assumption) (State.readOff_kept h)
        exact State.gather_kept k2
      · have k3 := snd_of (by assumption) (State.readOff_kept h)
        exact snd_mk (P := fun r => Kept a (Prod.snd r)) (snd_mk (P := Kept a) (k3))

end Sys2Proof.Machine
end

