-- ==== Sys2Proof/Laws/KeptSeq.lean ====
section
/-! SUPPORT. What the operations of Machine/Seq.lean keep. -/

namespace Sys2Proof.Machine

variable {a s : State}

theorem State.stallOn_kept (h : Kept a s) {t p cause port} : Kept a (State.stallOn s t p cause port) := by
  unfold State.stallOn
  exact State.onStn_kept (State.bump_kept (State.wrs_kept h))

theorem State.stall_kept (h : Kept a s) {t p cause} : Kept a (State.stall s t p cause) := by
  unfold State.stall
  exact State.stallOn_kept h

theorem State.stallWrite_kept (h : Kept a s) {t p q} : Kept a (State.stallWrite s t p q) := by
  unfold State.stallWrite
  exact State.stallOn_kept (State.stallSlot_kept h)

theorem State.advance_kept (h : Kept a s) {t p} : Kept a (State.advance s t p) := by
  unfold State.advance
  extract_lets -merge -underBinder +onlyGivenNames n1 s2
  have hs2 : Kept a s2 := State.bump_kept (State.wrs_kept h)
  clear_value s2
  exact State.onStn_kept hs2

theorem State.jump_kept (h : Kept a s) {t p pc loops} : Kept a (State.jump s t p pc loops) := by
  unfold State.jump
  extract_lets -merge -underBinder +onlyGivenNames s1
  have hs1 : Kept a s1 := State.bump_kept (State.wrs_kept h)
  clear_value s1
  exact State.onStn_kept hs1

theorem State.issue_kept (h : Kept a s) {st cyc is} {k : Nat → Sys2Proof.Machine.State → Sys2Proof.Machine.State} (hk : ∀ y0 y1, Kept a y1 → Kept a (k y0 y1)) : Kept a (State.issue s st cyc is k) := by
  unfold State.issue
  extract_lets -merge -underBinder +onlyGivenNames t1 p2 a3
  refine ite_of (P := Kept a) (fun _ => ?_) (fun _ => ?_)
  · exact h
  · extract_lets -merge -underBinder +onlyGivenNames l4 s5
    have hs5 : Kept a s5 := State.writeBack_kept (State.eccStn_kept h)
    clear_value s5
    refine ite_of (P := Kept a) (fun _ => ?_) (fun _ => ?_)
    · exact State.seqFault_kept hs5
    · refine ite_of (P := Kept a) (fun _ => ?_) (fun _ => ?_)
      · exact hk _ _ (hs5)
      · exact hs5

theorem State.setPtr_kept (h : Kept a s) {t p i v dyn} : Kept a (State.setPtr s t p i v dyn) := by
  unfold State.setPtr
  exact State.wrs_kept h

theorem State.setCursor_kept (h : Kept a s) {t p d v} : Kept a (State.setCursor s t p d v) := by
  unfold State.setCursor
  exact State.wr_kept h

theorem State.advCursor_kept (h : Kept a s) {t p d n} : Kept a (State.advCursor s t p d n) := by
  unfold State.advCursor
  extract_lets -merge -underBinder +onlyGivenNames dd1
  exact State.setCursor_kept h

theorem State.withRow_kept (h : Kept a s) {t p cyc w} {k : List Sys2Proof.Byte → Sys2Proof.Machine.State → Sys2Proof.Machine.State} (hk : ∀ y0 y1, Kept a y1 → Kept a (k y0 y1)) : Kept a (State.withRow s t p cyc w k) := by
  unfold State.withRow
  extract_lets -merge -underBinder +onlyGivenNames d1 o2
  refine ite_of (P := Kept a) (fun _ => ?_) (fun _ => ?_)
  · exact State.seqFault_kept h
  · split
    · have k3 := snd_of (by assumption) (State.readOff_kept h)
      exact hk _ _ (k3)
    · have k4 := snd_of (by assumption) (State.readOff_kept h)
      exact State.stallOn_kept k4
    · have k5 := snd_of (by assumption) (State.readOff_kept h)
      exact State.uncRead_kept k5
    · have k6 := snd_of (by assumption) (State.readOff_kept h)
      exact State.seqFault_kept k6

theorem State.rowAdv_kept (h : Kept a s) {t p w n} : Kept a (State.rowAdv s t p w n) := by
  unfold State.rowAdv
  refine ite_of (P := Kept a) (fun _ => ?_) (fun _ => ?_)
  · exact State.advCursor_kept h
  · exact h

theorem State.tile_kept (h : Kept a s) {t p cyc win w} : Kept a (State.tile s t p cyc win w) := by
  unfold State.tile
  extract_lets -merge -underBinder +onlyGivenNames v1
  refine ite_of (P := Kept a) (fun _ => ?_) (fun _ => ?_)
  · exact State.stall_kept h
  · extract_lets -merge -underBinder +onlyGivenNames src2 r3 ok4
    refine ite_of (P := Kept a) (fun _ => ?_) (fun _ => ?_)
    · exact State.seqFault_kept h
    · extract_lets -merge -underBinder +onlyGivenNames s5
      have hs5 : Kept a s5 := by
        unfold s5
        refine foldl_of (P := Kept a) ?_ (fun _ _ k6 => ?_)
        · exact h
        · exact State.advCursor_kept k6
      clear_value s5
      extract_lets -merge -underBinder +onlyGivenNames s7
      have hs7 : Kept a s7 := by
        unfold s7
        refine ite_of (P := Kept a) (fun _ => ?_) (fun _ => ?_)
        · exact State.wr_kept (State.wr_kept hs5)
        · exact hs5
      clear_value s7
      extract_lets -merge -underBinder +onlyGivenNames s8
      have hs8 : Kept a s8 := State.onStn_kept hs7
      clear_value s8
      exact State.advance_kept hs8

theorem execNop_kept (h : Kept a s) {st cyc} : ResKept a (execNop st cyc s) := by
  unfold execNop
  refine ResKept.next ?_
  refine State.issue_kept h (fun _ _ k1 => ?_)
  exact State.advance_kept k1

theorem execTile_kept (h : Kept a s) {st cyc} : ResKept a (execTile st cyc s) := by
  unfold execTile
  refine ResKept.next ?_
  refine State.issue_kept h (fun _ _ k1 => ?_)
  exact State.tile_kept k1

theorem execTilew_kept (h : Kept a s) {st cyc} : ResKept a (execTilew st cyc s) := by
  unfold execTilew
  refine ResKept.next ?_
  refine State.issue_kept h (fun _ _ k1 => ?_)
  exact State.tile_kept k1

theorem State.ldbias_kept (h : Kept a s) {t p cyc w} : Kept a (State.ldbias s t p cyc w) := by
  unfold State.ldbias
  extract_lets -merge -underBinder +onlyGivenNames b1
  refine ite_of (P := Kept a) (fun _ => ?_) (fun _ => ?_)
  · exact State.stall_kept h
  · refine State.withRow_kept h (fun _ _ k2 => ?_)
    exact State.advance_kept (State.rowAdv_kept (State.onStn_kept k2))

theorem execLdbias_kept (h : Kept a s) {st cyc} : ResKept a (execLdbias st cyc s) := by
  unfold execLdbias
  refine ResKept.next ?_
  refine State.issue_kept h (fun _ _ k1 => ?_)
  exact State.ldbias_kept k1

theorem State.ldcurve_kept (h : Kept a s) {t p cyc w} : Kept a (State.ldcurve s t p cyc w) := by
  unfold State.ldcurve
  extract_lets -merge -underBinder +onlyGivenNames d1 o2
  refine ite_of (P := Kept a) (fun _ => ?_) (fun _ => ?_)
  · exact State.stall_kept h
  · refine ite_of (P := Kept a) (fun _ => ?_) (fun _ => ?_)
    · exact State.seqFault_kept h
    · extract_lets -merge -underBinder +onlyGivenNames k3 s4
      have hs4 : Kept a s4 := State.onStn_kept h
      clear_value s4
      exact State.advance_kept (State.rowAdv_kept (State.wr_kept hs4))

theorem execLdcurve_kept (h : Kept a s) {st cyc} : ResKept a (execLdcurve st cyc s) := by
  unfold execLdcurve
  refine ResKept.next ?_
  refine State.issue_kept h (fun _ _ k1 => ?_)
  exact State.ldcurve_kept k1

theorem State.wcfg_kept (h : Kept a s) {t p cyc w} : Kept a (State.wcfg s t p cyc w) := by
  unfold State.wcfg
  extract_lets -merge -underBinder +onlyGivenNames k1
  refine ite_of (P := Kept a) (fun _ => ?_) (fun _ => ?_)
  · exact State.stall_kept h
  · refine State.withRow_kept h (fun _ _ k2 => ?_)
    extract_lets -merge -underBinder +onlyGivenNames c3 nd4
    split
    · exact State.faultSlice_kept (State.firstLog_kept k2)
    · extract_lets -merge -underBinder +onlyGivenNames s5
      have hs5 : Kept a s5 := State.wr_kept (State.onStn_kept k2)
      clear_value s5
      exact State.advance_kept (State.rowAdv_kept hs5)

theorem execWcfg_kept (h : Kept a s) {st cyc} : ResKept a (execWcfg st cyc s) := by
  unfold execWcfg
  refine ResKept.next ?_
  refine State.issue_kept h (fun _ _ k1 => ?_)
  exact State.wcfg_kept k1

theorem State.waitp_kept (h : Kept a s) {t p w} : Kept a (State.waitp s t p w) := by
  unfold State.waitp
  split
  · exact State.stall_kept h
  · refine ite_of (P := Kept a) (fun _ => ?_) (fun _ => ?_)
    · exact State.advance_kept h
    · refine ite_of (P := Kept a) (fun _ => ?_) (fun _ => ?_)
      · exact State.stall_kept (State.stallSlot_kept h)
      · exact State.stall_kept h

theorem execWaitp_kept (h : Kept a s) {st cyc} : ResKept a (execWaitp st cyc s) := by
  unfold execWaitp
  refine ResKept.next ?_
  refine State.issue_kept h (fun _ _ k1 => ?_)
  exact State.waitp_kept k1

theorem State.rel_kept (h : Kept a s) {t p w} : Kept a (State.rel s t p w) := by
  unfold State.rel
  extract_lets -merge -underBinder +onlyGivenNames side1 k2
  split
  · exact State.advance_kept h
  · extract_lets -merge -underBinder +onlyGivenNames s3
    have hs3 : Kept a s3 := by
      unfold s3
      refine ite_of (P := Kept a) (fun _ => ?_) (fun _ => ?_)
      · exact State.sigRelease_kept h
      · exact State.bump_kept h
    clear_value s3
    exact State.advance_kept hs3

theorem execRel_kept (h : Kept a s) {st cyc} : ResKept a (execRel st cyc s) := by
  unfold execRel
  refine ResKept.next ?_
  refine State.issue_kept h (fun _ _ k1 => ?_)
  exact State.rel_kept k1

theorem State.setp_kept (h : Kept a s) {t p w} : Kept a (State.setp s t p w) := by
  unfold State.setp
  extract_lets -merge -underBinder +onlyGivenNames side1 k2
  refine ite_of (P := Kept a) (fun _ => ?_) (fun _ => ?_)
  · exact State.stall_kept h
  · split
    · exact State.advance_kept h
    · extract_lets -merge -underBinder +onlyGivenNames s3
      have hs3 : Kept a s3 := by
        unfold s3
        refine ite_of (P := Kept a) (fun _ => ?_) (fun _ => ?_)
        · exact State.bump_kept h
        · exact State.sigSet_kept h
      clear_value s3
      exact State.advance_kept hs3

theorem execSetp_kept (h : Kept a s) {st cyc} : ResKept a (execSetp st cyc s) := by
  unfold execSetp
  refine ResKept.next ?_
  refine State.issue_kept h (fun _ _ k1 => ?_)
  exact State.setp_kept k1

theorem State.setTflag_kept (h : Kept a s) {t k} : Kept a (State.setTflag s t k) := by
  unfold State.setTflag
  refine ite_of (P := Kept a) (fun _ => ?_) (fun _ => ?_)
  · exact h
  · exact State.wr_kept h

theorem State.bar_kept (h : Kept a s) {t p w} : Kept a (State.bar s t p w) := by
  unfold State.bar
  refine ite_of (P := Kept a) (fun _ => ?_) (fun _ => ?_)
  · exact State.stall_kept h
  · refine State.advance_kept ?_
    refine ite_of (P := Kept a) (fun _ => ?_) (fun _ => ?_)
    · exact State.setTflag_kept h
    · exact h

theorem execBar_kept (h : Kept a s) {st cyc} : ResKept a (execBar st cyc s) := by
  unfold execBar
  refine ResKept.next ?_
  refine State.issue_kept h (fun _ _ k1 => ?_)
  exact State.bar_kept k1

theorem State.waitf_kept (h : Kept a s) {t p w} : Kept a (State.waitf s t p w) := by
  unfold State.waitf
  refine ite_of (P := Kept a) (fun _ => ?_) (fun _ => ?_)
  · exact State.advance_kept h
  · exact State.stall_kept h

theorem execWaitf_kept (h : Kept a s) {st cyc} : ResKept a (execWaitf st cyc s) := by
  unfold execWaitf
  refine ResKept.next ?_
  refine State.issue_kept h (fun _ _ k1 => ?_)
  exact State.waitf_kept k1

theorem State.loop_kept (h : Kept a s) {t p cyc w} : Kept a (State.loop s t p cyc w) := by
  unfold State.loop
  extract_lets -merge -underBinder +onlyGivenNames pc1 n2 ls3
  refine ite_of (P := Kept a) (fun _ => ?_) (fun _ => ?_)
  · exact State.seqFault_kept h
  · refine ite_of (P := Kept a) (fun _ => ?_) (fun _ => ?_)
    · extract_lets -merge -underBinder +onlyGivenNames r4
      exact State.jump_kept h
    · exact State.jump_kept h

theorem execLoop_kept (h : Kept a s) {st cyc} : ResKept a (execLoop st cyc s) := by
  unfold execLoop
  refine ResKept.next ?_
  refine State.issue_kept h (fun _ _ k1 => ?_)
  exact State.loop_kept k1

theorem State.skip_kept (h : Kept a s) {t p w} : Kept a (State.skip s t p w) := by
  unfold State.skip
  refine ite_of (P := Kept a) (fun _ => ?_) (fun _ => ?_)
  · exact State.jump_kept h
  · exact State.advance_kept h

theorem execSkip_kept (h : Kept a s) {st cyc} : ResKept a (execSkip st cyc s) := by
  unfold execSkip
  refine ResKept.next ?_
  refine State.issue_kept h (fun _ _ k1 => ?_)
  exact State.skip_kept k1

theorem execPtrSet_kept (h : Kept a s) {st cyc} : ResKept a (execPtrSet st cyc s) := by
  unfold execPtrSet
  refine ResKept.next ?_
  refine State.issue_kept h (fun _ _ k1 => ?_)
  exact State.advance_kept (State.setPtr_kept k1)

theorem State.ptrAdd_kept (h : Kept a s) {t p w} : Kept a (State.ptrAdd s t p w) := by
  unfold State.ptrAdd
  exact State.advance_kept (State.setPtr_kept h)

theorem execPtrAdd_kept (h : Kept a s) {st cyc} : ResKept a (execPtrAdd st cyc s) := by
  unfold execPtrAdd
  refine ResKept.next ?_
  refine State.issue_kept h (fun _ _ k1 => ?_)
  exact State.ptrAdd_kept k1

theorem State.ptrAddMod_kept (h : Kept a s) {t p w} : Kept a (State.ptrAddMod s t p w) := by
  unfold State.ptrAddMod
  exact State.advance_kept (State.setPtr_kept h)

theorem execPtrAddMod_kept (h : Kept a s) {st cyc} : ResKept a (execPtrAddMod st cyc s) := by
  unfold execPtrAddMod
  refine ResKept.next ?_
  refine State.issue_kept h (fun _ _ k1 => ?_)
  exact State.ptrAddMod_kept k1

theorem State.ptrLoad_kept (h : Kept a s) {t p cyc w} : Kept a (State.ptrLoad s t p cyc w) := by
  unfold State.ptrLoad
  refine State.withRow_kept h (fun _ _ k1 => ?_)
  exact State.advance_kept (State.setPtr_kept k1)

theorem execPtrLoad_kept (h : Kept a s) {st cyc} : ResKept a (execPtrLoad st cyc s) := by
  unfold execPtrLoad
  refine ResKept.next ?_
  refine State.issue_kept h (fun _ _ k1 => ?_)
  exact State.ptrLoad_kept k1

theorem execSetdCursor_kept (h : Kept a s) {st cyc} : ResKept a (execSetdCursor st cyc s) := by
  unfold execSetdCursor
  refine ResKept.next ?_
  refine State.issue_kept h (fun _ _ k1 => ?_)
  exact State.advance_kept (State.setCursor_kept k1)

theorem execSetdCursorPtr_kept (h : Kept a s) {st cyc} : ResKept a (execSetdCursorPtr st cyc s) := by
  unfold execSetdCursorPtr
  refine ResKept.next ?_
  refine State.issue_kept h (fun _ _ k1 => ?_)
  exact State.advance_kept (State.setCursor_kept k1)

theorem execSetdCursorAdd_kept (h : Kept a s) {st cyc} : ResKept a (execSetdCursorAdd st cyc s) := by
  unfold execSetdCursorAdd
  refine ResKept.next ?_
  refine State.issue_kept h (fun _ _ k1 => ?_)
  exact State.advance_kept (State.advCursor_kept k1)

theorem State.setdRestore_kept (h : Kept a s) {t p w} : Kept a (State.setdRestore s t p w) := by
  unfold State.setdRestore
  extract_lets -merge -underBinder +onlyGivenNames d1 im2
  exact State.advance_kept (State.wrs_kept h)

theorem execSetdRestore_kept (h : Kept a s) {st cyc} : ResKept a (execSetdRestore st cyc s) := by
  unfold execSetdRestore
  refine ResKept.next ?_
  refine State.issue_kept h (fun _ _ k1 => ?_)
  exact State.setdRestore_kept k1

theorem State.setdBaseAdd_kept (h : Kept a s) {t p w} : Kept a (State.setdBaseAdd s t p w) := by
  unfold State.setdBaseAdd
  extract_lets -merge -underBinder +onlyGivenNames d1
  exact State.advance_kept (State.wr_kept h)

theorem execSetdBaseAdd_kept (h : Kept a s) {st cyc} : ResKept a (execSetdBaseAdd st cyc s) := by
  unfold execSetdBaseAdd
  refine ResKept.next ?_
  refine State.issue_kept h (fun _ _ k1 => ?_)
  exact State.setdBaseAdd_kept k1

theorem State.movRel_kept (h : Kept a s) {t p d o lastRow} : Kept a (State.movRel s t p d o lastRow) := by
  unfold State.movRel
  split
  · refine ite_of (P := Kept a) (fun _ => ?_) (fun _ => ?_)
    · exact State.sigRelease_kept h
    · exact h
  · exact h

theorem State.movWait_kept (h : Kept a s) {t p w n} : Kept a (State.movWait s t p w n) := by
  unfold State.movWait
  exact State.onStn_kept h

theorem State.movRows_kept {s : State} (h : Kept a s) {t p cyc w ds dd ax} : Kept a (State.movRows s t p cyc w ds dd ax).1 := by
  unfold State.movRows
  split
  · exact fst_mk (P := Kept a) (h)
  · extract_lets -merge -underBinder +onlyGivenNames i1 so2 o3
    split
    · exact fst_mk (P := Kept a) (State.stallWrite_kept (State.movWait_kept h))
    · refine ite_of (P := fun r => Kept a (Prod.fst r)) (fun _ => ?_) (fun _ => ?_)
      · exact fst_mk (P := Kept a) (State.stall_kept (State.movWait_kept h))
      · split
        · have k4 := snd_of (by assumption) (State.readOff_kept h)
          exact fst_mk (P := Kept a) (State.stallOn_kept (State.movWait_kept k4))
        · have k5 := snd_of (by assumption) (State.readOff_kept h)
          exact fst_mk (P := Kept a) (State.uncRead_kept k5)
        · have k6 := snd_of (by assumption) (State.readOff_kept h)
          exact fst_mk (P := Kept a) (State.seqFault_kept k6)
        · have k7 := snd_of (by assumption) (State.readOff_kept h)
          extract_lets -merge -underBinder +onlyGivenNames s8
          have hs8 : Kept a s8 := State.putOff_kept k7
          clear_value s8
          extract_lets -merge -underBinder +onlyGivenNames s9
          have hs9 : Kept a s9 := by
            unfold s9
            refine ite_of (P := Kept a) (fun _ => ?_) (fun _ => ?_)
            · exact State.movRel_kept hs8
            · exact hs8
          clear_value s9
          exact State.movRows_kept hs9

theorem State.movr_kept (h : Kept a s) {t p cyc w} : Kept a (State.movr s t p cyc w) := by
  unfold State.movr
  extract_lets -merge -underBinder +onlyGivenNames a1 b2 n3 ds4 dd5
  refine ite_of (P := Kept a) (fun _ => ?_) (fun _ => ?_)
  · exact State.seqFault_kept h
  · extract_lets -merge -underBinder +onlyGivenNames r6
    have hr6 : Kept a r6.1 := State.movRows_kept h
    clear_value r6
    refine ite_of (P := Kept a) (fun _ => ?_) (fun _ => ?_)
    · exact State.advance_kept (State.advCursor_kept (State.advCursor_kept hr6))
    · exact hr6

theorem execMovr_kept (h : Kept a s) {st cyc} : ResKept a (execMovr st cyc s) := by
  unfold execMovr
  refine ResKept.next ?_
  refine State.issue_kept h (fun _ _ k1 => ?_)
  exact State.movr_kept k1

theorem State.setVreg_kept (h : Kept a s) {t p i b} : Kept a (State.setVreg s t p i b) := by
  unfold State.setVreg
  exact State.onStn_kept h

theorem State.vld_kept (h : Kept a s) {t p cyc w} : Kept a (State.vld s t p cyc w) := by
  unfold State.vld
  refine ite_of (P := Kept a) (fun _ => ?_) (fun _ => ?_)
  · exact State.stall_kept h
  · refine State.withRow_kept h (fun _ _ k1 => ?_)
    exact State.advance_kept (State.rowAdv_kept (State.setVreg_kept k1))

theorem execVld_kept (h : Kept a s) {st cyc} : ResKept a (execVld st cyc s) := by
  unfold execVld
  refine ResKept.next ?_
  refine State.issue_kept h (fun _ _ k1 => ?_)
  exact State.vld_kept k1

theorem State.vst_kept (h : Kept a s) {t p cyc w} : Kept a (State.vst s t p cyc w) := by
  unfold State.vst
  extract_lets -merge -underBinder +onlyGivenNames d1 o2
  refine ite_of (P := Kept a) (fun _ => ?_) (fun _ => ?_)
  · exact State.stall_kept h
  · refine ite_of (P := Kept a) (fun _ => ?_) (fun _ => ?_)
    · exact State.seqFault_kept h
    · split
      · exact State.stallWrite_kept h
      · refine ite_of (P := Kept a) (fun _ => ?_) (fun _ => ?_)
        · exact State.stall_kept h
        · exact State.advance_kept (State.rowAdv_kept (State.putOff_kept h))

theorem execVst_kept (h : Kept a s) {st cyc} : ResKept a (execVst st cyc s) := by
  unfold execVst
  refine ResKept.next ?_
  refine State.issue_kept h (fun _ _ k1 => ?_)
  exact State.vst_kept k1

theorem State.stopSeq_kept (h : Kept a s) {t p} : Kept a (State.stopSeq s t p) := by
  unfold State.stopSeq
  extract_lets -merge -underBinder +onlyGivenNames s1
  have hs1 : Kept a s1 := State.bump_kept (State.wrs_kept (State.onStn_kept h))
  clear_value s1
  refine ite_of (P := Kept a) (fun _ => ?_) (fun _ => ?_)
  · exact State.stall_kept hs1
  · exact hs1

theorem execStop_kept (h : Kept a s) {st cyc} : ResKept a (execStop st cyc s) := by
  unfold execStop
  refine ResKept.next ?_
  refine State.issue_kept h (fun _ _ k1 => ?_)
  exact State.stopSeq_kept k1

theorem State.sliceEnd_kept (h : Kept a s) {t p cyc} : Kept a (State.sliceEnd s t p cyc) := by
  unfold State.sliceEnd
  extract_lets -merge -underBinder +onlyGivenNames v1
  refine ite_of (P := Kept a) (fun _ => ?_) (fun _ => ?_)
  · exact h
  · extract_lets -merge -underBinder +onlyGivenNames late2
    refine ite_of (P := Kept a) (fun _ => ?_) (fun _ => ?_)
    · exact State.faultSlice_kept h
    · extract_lets -merge -underBinder +onlyGivenNames s3
      have hs3 : Kept a s3 := State.wrs_kept h
      clear_value s3
      exact State.onStn_kept hs3

theorem execSliceEnd_kept (h : Kept a s) {st cyc} : ResKept a (execSliceEnd st cyc s) := by
  unfold execSliceEnd
  exact ResKept.next (State.sliceEnd_kept h)

theorem State.tflagForce_kept (h : Kept a s) {t v} : Kept a (State.tflagForce s t v) := by
  unfold State.tflagForce
  refine foldl_of (P := Kept a) ?_ (fun _ _ k1 => ?_)
  · exact h
  · refine ite_of (P := Kept a) (fun _ => ?_) (fun _ => ?_)
    · exact State.setTflag_kept k1
    · exact k1

theorem execTflagForce_kept (h : Kept a s) {t v} : ResKept a (execTflagForce t v s) := by
  unfold execTflagForce
  exact ResKept.next (State.tflagForce_kept h)

theorem execSeqPhaseWrite_kept (h : Kept a s) {st v} : ResKept a (execSeqPhaseWrite st v s) := by
  unfold execSeqPhaseWrite
  exact ResKept.next (State.onStn_kept h)

end Sys2Proof.Machine
end

