-- ==== Sys2Proof/Laws/KeptArray.lean ====
section
/-! SUPPORT. What the operations of Machine/Array.lean keep. -/

namespace Sys2Proof.Machine

variable {a s : State}

theorem State.checksum_kept (h : Kept a s) {t p cyc kind rows cols} : Kept a (State.checksum s t p cyc kind rows cols) := by
  unfold State.checksum
  extract_lets -merge -underBinder +onlyGivenNames low1 multi2 was3 s4
  have hs4 : Kept a s4 := State.firstLog_kept h
  clear_value s4
  extract_lets -merge -underBinder +onlyGivenNames s5
  have hs5 : Kept a s5 := by
    unfold s5
    refine ite_of (P := Kept a) (fun _ => ?_) (fun _ => ?_)
    · exact State.wr_kept hs4
    · exact hs4
  clear_value s5
  extract_lets -merge -underBinder +onlyGivenNames s6
  have hs6 : Kept a s6 := State.bump_kept hs5
  clear_value s6
  exact State.faultSlice_kept hs6

theorem State.scaleRow_kept (h : Kept a s) {t p d b segs seg} : Kept a (State.scaleRow s t p d b segs seg).2 := by
  unfold State.scaleRow
  extract_lets -merge -underBinder +onlyGivenNames row1 s2
  have hs2 : Kept a s2 := by
    unfold s2
    split
    · exact State.onStn_kept h
    · exact h
  clear_value s2
  exact State.readRow_kept hs2

theorem State.sideScales_kept {s : State} (h : Kept a s) {t p d b segs side ax ax1 ax2} : Kept a (State.sideScales s t p d b segs side ax ax1 ax2).2 := by
  unfold State.sideScales
  split
  · exact snd_mk (P := Kept a) (h)
  · extract_lets -merge -underBinder +onlyGivenNames at'3
    split
    · have k4 := snd_of (by assumption) (State.scaleRow_kept h)
      exact State.sideScales_kept k4
    · have k5 := snd_of (by assumption) (State.scaleRow_kept h)
      extract_lets -merge -underBinder +onlyGivenNames x6
      exact State.sideScales_kept k5

theorem State.scales_kept {s : State} (h : Kept a s) {t p r aOff wOff mm segs g ax ax1 ax2} : Kept a (State.scales s t p r aOff wOff mm segs g ax ax1 ax2).2 := by
  unfold State.scales
  split
  · exact snd_mk (P := Kept a) (h)
  · extract_lets -merge -underBinder +onlyGivenNames bw3 sw4
    have hsw4 : Kept a sw4.2 := State.sideScales_kept h
    clear_value sw4
    extract_lets -merge -underBinder +onlyGivenNames ba5 sa6
    have hsa6 : Kept a sa6.2 := by
      unfold sa6
      refine ite_of (P := fun r => Kept a (Prod.snd r)) (fun _ => ?_) (fun _ => ?_)
      · exact State.sideScales_kept hsw4
      · exact snd_mk (P := Kept a) (hsw4)
    clear_value sa6
    extract_lets -merge -underBinder +onlyGivenNames x7
    refine ite_of (P := fun r => Kept a (Prod.snd r)) (fun _ => ?_) (fun _ => ?_)
    · extract_lets -merge -underBinder +onlyGivenNames l8
      exact State.scales_kept hsa6
    · exact snd_mk (P := Kept a) (hsa6)

theorem State.scaleFaults_kept (h : Kept a s) {t p cyc x} : Kept a (State.scaleFaults s t p cyc x) := by
  unfold State.scaleFaults
  extract_lets -merge -underBinder +onlyGivenNames s1
  have hs1 : Kept a s1 := by
    unfold s1
    refine foldl_of (P := Kept a) ?_ (fun _ _ k2 => ?_)
    · exact h
    · exact State.uncScale_kept k2
  clear_value s1
  refine foldl_of (P := Kept a) ?_ (fun _ _ k3 => ?_)
  · exact hs1
  · extract_lets -merge -underBinder +onlyGivenNames s4
    have hs4 : Kept a s4 := State.firstLog_kept (State.bump_kept k3)
    clear_value s4
    exact State.faultSlice_kept hs4

/-- The state after the fetch. -/
def Feed.state : Feed → State
  | .ok _ _ _ _ s => s
  | .stop s => s

theorem State.feed_kept (h : Kept a s) {t p cyc r} : Kept a (s.feed t p cyc r).state := by
  unfold State.feed
  extract_lets -merge -underBinder +onlyGivenNames aOff wOff pOff k nb mm win w addrs offs ra ok
  have hra : Kept a ra.2.2 := by
    unfold ra
    refine ite_of (P := fun r => Kept a (Prod.snd (Prod.snd r))) (fun _ => ?_) (fun _ => ?_)
    · split
      exact snd_of2 (by assumption) (State.gather_kept h)
    · split
      · exact snd_of (by assumption) (State.readOffs_kept h)
      · exact snd_of (by assumption) (State.readOffs_kept h)
  have hok : ∀ a1 w1 p1 s, Kept a s → Kept a (ok a1 w1 p1 s).state := by
    intro a1 w1 p1 s k
    unfold ok
    exact ite_of (P := Kept a) (fun _ => State.bump_kept k) fun _ => k
  clear_value ra ok
  split
  · extract_lets s4
    have hs4 : Kept a s4 := State.bump_kept hra
    clear_value s4
    split
    · exact State.bump_kept (snd_of (by assumption) (State.readOffs_kept hs4))
    · exact State.uncRead_kept (snd_of (by assumption) (State.readOffs_kept hs4))
    · exact snd_of (by assumption) (State.readOffs_kept hs4)
  · exact State.uncRead_kept hra
  · exact hra
  · split
    · exact State.bump_kept (snd_of (by assumption) (State.readOffs_kept hra))
    · exact State.uncRead_kept (snd_of (by assumption) (State.readOffs_kept hra))
    · exact snd_of (by assumption) (State.readOffs_kept hra)
    · have k1 := snd_of (by assumption) (State.readOffs_kept hra)
      refine ite_of (P := fun r => Kept a (Feed.state r)) (fun _ => ?_) (fun _ => hok _ _ _ _ k1)
      split
      · exact hok _ _ _ _ (snd_of (by assumption) (State.readOffs_kept k1))
      · exact snd_of (by assumption) (State.readOffs_kept k1)
      · exact State.uncRead_kept (snd_of (by assumption) (State.readOffs_kept k1))
      · exact snd_of (by assumption) (State.readOffs_kept k1)

theorem State.feed_stop (h : Kept a s) {t p cyc r u} (x : s.feed t p cyc r = .stop u) : Kept a u := by
  have := State.feed_kept h (t := t) (p := p) (cyc := cyc) (r := r)
  rwa [x] at this

theorem State.feed_ok (h : Kept a s) {t p cyc r i j k o u} (x : s.feed t p cyc r = .ok i j k o u) : Kept a u := by
  have := State.feed_kept h (t := t) (p := p) (cyc := cyc) (r := r)
  rwa [x] at this

theorem State.withTable_kept (h : Kept a s) {t p r} : Kept a (State.withTable s t p r).2 := by
  unfold State.withTable
  refine ite_of (P := fun r => Kept a (Prod.snd r)) (fun _ => ?_) (fun _ => ?_)
  · split
    · have k1 := snd_of (by assumption) (State.readRow_kept h)
      extract_lets -merge -underBinder +onlyGivenNames r2
      exact snd_mk (P := Kept a) (State.onStn_kept k1)
    · have k3 := snd_of (by assumption) (State.readRow_kept h)
      exact snd_mk (P := Kept a) (k3)
  · exact snd_mk (P := Kept a) (h)

theorem State.enterTile_kept (h : Kept a s) {t p r ops pts pl offs k mm} : Kept a (State.enterTile s t p r ops pts pl offs k mm) := by
  unfold State.enterTile
  extract_lets -merge -underBinder +onlyGivenNames v1 w2 bf3 pre4 wOff5 slots6 r'7 rec'8
  exact State.onStn_kept h

theorem State.tileIssue_kept (h : Kept a s) {t p cyc up} : Kept a (State.tileIssue s t p cyc up) := by
  unfold State.tileIssue
  extract_lets -merge -underBinder +onlyGivenNames v1
  split
  · exact h
  · refine ite_of (P := Kept a) (fun _ => ?_) (fun _ => ?_)
    · exact h
    · split
      · have k2 := snd_of (by assumption) (State.withTable_kept h)
        exact State.uncRead_kept k2
      · have k3 := snd_of (by assumption) (State.withTable_kept h)
        split
        · have k4 := State.feed_stop k3 (by assumption)
          exact k4
        · have k5 := State.feed_ok k3 (by assumption)
          extract_lets -merge -underBinder +onlyGivenNames w6 mm7 segs8 k9 bf10 g11 aOff12 wOff13
          extract_lets -merge -underBinder +onlyGivenNames sc14
          have hsc14 : Kept a sc14.2 := by
            unfold sc14
            refine ite_of (P := fun r => Kept a (Prod.snd r)) (fun _ => ?_) (fun _ => ?_)
            · exact snd_mk (P := Kept a) (k5)
            · exact State.scales_kept k5
          clear_value sc14
          extract_lets -merge -underBinder +onlyGivenNames s15
          have hs15 : Kept a s15 := hsc14
          clear_value s15
          extract_lets -merge -underBinder +onlyGivenNames ops16 pts17 failed18 s19
          have hs19 : Kept a s19 := State.wrs_kept hs15
          clear_value s19
          extract_lets -merge -underBinder +onlyGivenNames s20
          have hs20 : Kept a s20 := State.scaleFaults_kept hs19
          clear_value s20
          clear_value failed18
          split
          · exact State.checksum_kept hs20
          · refine ite_of (P := Kept a) (fun _ => ?_) (fun _ => ?_)
            · exact State.enterTile_kept hs20
            · exact hs20

theorem execTileIssue_kept (h : Kept a s) {st cyc up} : ResKept a (execTileIssue st cyc up s) := by
  unfold execTileIssue
  exact ResKept.next (State.tileIssue_kept h)

theorem State.drainBytes_kept (h : Kept a s) {t p w vals} : Kept a (State.drainBytes s t p w vals).2 := by
  unfold State.drainBytes
  refine ite_of (P := fun r => Kept a (Prod.snd r)) (fun _ => ?_) (fun _ => ?_)
  · exact snd_mk (P := Kept a) (h)
  · extract_lets -merge -underBinder +onlyGivenNames k1 valid2 tab3 cs4 s5
    have hs5 : Kept a s5 := by
      unfold s5
      refine ite_of (P := Kept a) (fun _ => ?_) (fun _ => ?_)
      · exact State.wr_kept h
      · exact h
    clear_value s5
    extract_lets -merge -underBinder +onlyGivenNames s6
    have hs6 : Kept a s6 := State.bump_kept hs5
    clear_value s6
    extract_lets -merge -underBinder +onlyGivenNames s7
    have hs7 : Kept a s7 := State.bump_kept hs6
    clear_value s7
    exact snd_mk (P := Kept a) (hs7)

theorem State.drainRows_kept {s : State} (h : Kept a s) {t p r tile ax} : Kept a (State.drainRows s t p r tile ax).1 := by
  unfold State.drainRows
  split
  · exact fst_mk (P := Kept a) (h)
  · extract_lets -merge -underBinder +onlyGivenNames o1
    split
    · exact fst_mk (P := Kept a) (State.bump_kept (State.stallSlot_kept h))
    · refine ite_of (P := fun r => Kept a (Prod.fst r)) (fun _ => ?_) (fun _ => ?_)
      · exact fst_mk (P := Kept a) (State.bump_kept h)
      · exact State.drainRows_kept (State.putOff_kept h)

theorem State.runReleases_kept (h : Kept a s) {t p r tile} : Kept a (State.runReleases s t p r tile) := by
  unfold State.runReleases
  extract_lets -merge -underBinder +onlyGivenNames l1
  refine foldl_of (P := Kept a) ?_ (fun _ _ k2 => ?_)
  · exact h
  · exact State.sigRelease_kept k2

theorem State.tileOut_kept (h : Kept a s) {t p x rest} : Kept a (State.tileOut s t p x rest) := by
  unfold State.tileOut
  extract_lets -merge -underBinder +onlyGivenNames r1 s2
  have hs2 : Kept a s2 := by
    unfold s2
    refine ite_of (P := Kept a) (fun _ => ?_) (fun _ => ?_)
    · exact State.runReleases_kept h
    · exact h
  clear_value s2
  extract_lets -merge -underBinder +onlyGivenNames s3
  have hs3 : Kept a s3 := by
    unfold s3
    refine ite_of (P := Kept a) (fun _ => ?_) (fun _ => ?_)
    · exact State.bump_kept hs2
    · exact hs2
  clear_value s3
  extract_lets -merge -underBinder +onlyGivenNames s4
  have hs4 : Kept a s4 := State.onStn_kept hs3
  clear_value s4
  extract_lets -merge -underBinder +onlyGivenNames s5
  have hs5 : Kept a s5 := State.wr_kept hs4
  clear_value s5
  refine ite_of (P := Kept a) (fun _ => ?_) (fun _ => ?_)
  · exact hs5
  · exact State.wr_kept hs5

theorem State.drainTile_kept (h : Kept a s) {t p x rest l} : Kept a (State.drainTile s t p x rest l) := by
  unfold State.drainTile
  extract_lets -merge -underBinder +onlyGivenNames q1
  have hq1 : Kept a q1.1 := State.drainRows_kept h
  clear_value q1
  refine ite_of (P := Kept a) (fun _ => ?_) (fun _ => ?_)
  · exact State.tileOut_kept hq1
  · exact State.onStn_kept hq1

theorem State.tileComplete_kept (h : Kept a s) {t p cyc up} : Kept a (State.tileComplete s t p cyc up) := by
  unfold State.tileComplete
  extract_lets -merge -underBinder +onlyGivenNames v1
  split
  · exact h
  · extract_lets -merge -underBinder +onlyGivenNames w2 late3
    refine ite_of (P := Kept a) (fun _ => ?_) (fun _ => ?_)
    · exact h
    · split
      · exact State.drainTile_kept h
      · extract_lets -merge -underBinder +onlyGivenNames cells4 bad5
        refine ite_of (P := Kept a) (fun _ => ?_) (fun _ => ?_)
        · exact State.checksum_kept h
        · extract_lets -merge -underBinder +onlyGivenNames b6
          have hb6 : Kept a b6.2 := State.drainBytes_kept h
          clear_value b6
          refine ite_of (P := Kept a) (fun _ => ?_) (fun _ => ?_)
          · refine State.tileOut_kept ?_
            refine foldl_of (P := Kept a) ?_ (fun _ _ k7 => ?_)
            · exact hb6
            · exact State.setVreg_kept k7
          · exact State.drainTile_kept hb6

theorem execTileComplete_kept (h : Kept a s) {st cyc up} : ResKept a (execTileComplete st cyc up s) := by
  unfold execTileComplete
  exact ResKept.next (State.tileComplete_kept h)

theorem State.arrayRepair_kept (h : Kept a s) {t p w} : Kept a (State.arrayRepair s t p w) := by
  unfold State.arrayRepair
  extract_lets -merge -underBinder +onlyGivenNames s1
  have hs1 : Kept a s1 := by
    unfold s1
    refine ite_of (P := Kept a) (fun _ => ?_) (fun _ => ?_)
    · exact State.wr_kept h
    · exact h
  clear_value s1
  extract_lets -merge -underBinder +onlyGivenNames co2 ro3 cf4 rf5 co6 ro7 ok8
  refine ite_of (P := Kept a) (fun _ => ?_) (fun _ => ?_)
  · exact State.wr_kept hs1
  · exact State.wrs_kept hs1

theorem execArrayRepairWrite_kept (h : Kept a s) {st w} : ResKept a (execArrayRepairWrite st w s) := by
  unfold execArrayRepairWrite
  exact ResKept.next (State.arrayRepair_kept h)

theorem State.putCurve_kept (h : Kept a s) {t p k tab} : Kept a (State.putCurve s t p k tab) := by
  unfold State.putCurve
  extract_lets -merge -underBinder +onlyGivenNames s1
  have hs1 : Kept a s1 := State.onStn_kept h
  clear_value s1
  exact State.wrs_kept hs1

theorem State.curveDone_kept (h : Kept a s) {t p cyc} : Kept a (State.curveDone s t p cyc) := by
  unfold State.curveDone
  extract_lets -merge -underBinder +onlyGivenNames v1
  split
  · exact h
  · extract_lets -merge -underBinder +onlyGivenNames uses2
    refine ite_of (P := Kept a) (fun _ => ?_) (fun _ => ?_)
    · exact h
    · split
      · have k3 := snd_of (by assumption) (State.readOffs_kept h)
        exact State.putCurve_kept (State.wr_kept (State.onStn_kept k3))
      · have k4 := snd_of (by assumption) (State.readOffs_kept h)
        exact k4
      · have k5 := snd_of (by assumption) (State.readOffs_kept h)
        exact State.uncRead_kept (State.wr_kept k5)
      · have k6 := snd_of (by assumption) (State.readOffs_kept h)
        exact k6

theorem execCurveLoadDone_kept (h : Kept a s) {st cyc} : ResKept a (execCurveLoadDone st cyc s) := by
  unfold execCurveLoadDone
  exact ResKept.next (State.curveDone_kept h)

end Sys2Proof.Machine
end

