-- ==== Sys2Proof/Laws/KeptPersist.lean ====
section
/-! SUPPORT. What the operations of Machine/Persist.lean keep. -/

namespace Sys2Proof.Machine

variable {a s : State}

theorem State.alertEvent_kept (h : Kept a s) : Kept a (State.alertEvent s) := by
  unfold State.alertEvent
  extract_lets -merge -underBinder +onlyGivenNames src1 s2
  have hs2 : Kept a s2 := by
    unfold s2
    unfold src1; apply Kept.keepF h; exact fun _ => rfl
  clear_value s2
  refine ite_of (P := Kept a) (fun _ => ?_) (fun _ => ?_)
  · exact hs2
  · refine State.emit_kept ?_
    apply Kept.keepF hs2; exact fun _ => rfl

theorem State.retireSector_kept (h : Kept a s) {code sector} : Kept a (State.retireSector s code sector).2 := by
  unfold State.retireSector
  extract_lets -merge -underBinder +onlyGivenNames s1
  have hs1 : Kept a s1 := State.bump_kept (State.logEntry_kept h)
  clear_value s1
  refine ite_of (P := fun r => Kept a (Prod.snd r)) (fun _ => ?_) (fun _ => ?_)
  · refine ite_of (P := fun r => Kept a (Prod.snd r)) (fun _ => ?_) (fun _ => ?_)
    · exact snd_mk (P := Kept a) (hs1)
    · refine snd_mk (P := Kept a) ?_
      refine State.wr_kept ?_
      apply Kept.keepF hs1; exact fun _ => rfl
  · refine ite_of (P := fun r => Kept a (Prod.snd r)) (fun _ => ?_) (fun _ => ?_)
    · refine snd_mk (P := Kept a) ?_
      apply Kept.keepF hs1; exact fun _ => rfl
    · refine snd_mk (P := Kept a) ?_
      refine State.wr_kept ?_
      apply Kept.keepF hs1; exact fun _ => rfl

theorem State.countErase_kept (h : Kept a s) {key} : Kept a (State.countErase s key) := by
  unfold State.countErase
  refine State.bump_kept ?_
  apply Kept.keepF h; exact fun _ => rfl

theorem State.eraseData_kept (h : Kept a s) {i} : Kept a (State.eraseData s i) := by
  unfold State.eraseData
  extract_lets -merge -underBinder +onlyGivenNames s1
  have hs1 : Kept a s1 := State.countErase_kept h
  clear_value s1
  refine ite_of (P := Kept a) (fun _ => ?_) (fun _ => ?_)
  · exact State.retireSector_kept hs1
  · exact hs1

theorem State.openSector_kept (h : Kept a s) {second e} : Kept a (State.openSector s second e) := by
  unfold State.openSector
  extract_lets -merge -underBinder +onlyGivenNames src1 s2
  have hs2 : Kept a s2 := by
    unfold s2
    unfold src1; apply Kept.keepF h; exact fun _ => rfl
  clear_value s2
  split
  · extract_lets -merge -underBinder +onlyGivenNames n3 mv4
    refine State.eraseData_kept ?_
    unfold n3; apply Kept.keepF hs2; exact fun _ => rfl
  · exact hs2

theorem State.placeRec_kept (h : Kept a s) {second n} : Kept a (State.placeRec s second n).2 := by
  unfold State.placeRec
  extract_lets -merge -underBinder +onlyGivenNames cur1 s2
  have hs2 : Kept a s2 := by
    unfold s2
    refine ite_of (P := Kept a) (fun _ => ?_) (fun _ => ?_)
    · exact h
    · split
      · exact State.openSector_kept h
      · exact h
  clear_value s2
  extract_lets -merge -underBinder +onlyGivenNames i3
  refine snd_mk (P := Kept a) ?_
  unfold i3; apply Kept.keepF hs2; exact fun _ => rfl

theorem State.commitRec_kept (h : Kept a s) {index sub v} : Kept a (State.commitRec s index sub v).2 := by
  unfold State.commitRec
  refine ite_of (P := fun r => Kept a (Prod.snd r)) (fun _ => ?_) (fun _ => ?_)
  · extract_lets -merge -underBinder +onlyGivenNames s11
    have hs11 : Kept a s11 := by
      unfold s11
      refine ite_of (P := Kept a) (fun _ => ?_) (fun _ => ?_)
      · exact h
      · exact State.logEntry_kept h
    clear_value s11
    refine snd_mk (P := Kept a) ?_
    apply Kept.keepF hs11; exact fun _ => rfl
  · extract_lets -merge -underBinder +onlyGivenNames left2 r3 a4
    have ha4 : Kept a a4.2 := State.placeRec_kept h
    clear_value a4
    extract_lets -merge -underBinder +onlyGivenNames b5
    have hb5 : Kept a b5.2 := State.placeRec_kept ha4
    clear_value b5
    extract_lets -merge -underBinder +onlyGivenNames s6
    have hs6 : Kept a s6 := hb5
    clear_value s6
    extract_lets -merge -underBinder +onlyGivenNames others7 src8 s9
    have hs9 : Kept a s9 := by
      unfold s9
      unfold others7 src8; apply Kept.keepF hs6; exact fun _ => rfl
    clear_value s9
    refine ite_of (P := fun r => Kept a (Prod.snd r)) (fun _ => ?_) (fun _ => ?_)
    · extract_lets -merge -underBinder +onlyGivenNames src10 s11
      have hs11 : Kept a s11 := by
        unfold s11
        unfold src10; apply Kept.keepF hs9; exact fun _ => rfl
      clear_value s11
      exact snd_mk (P := Kept a) (State.alertEvent_kept (State.logEntry_kept (State.postEvent_kept hs11)))
    · exact snd_mk (P := Kept a) (hs9)

theorem State.setVal_kept (h : Kept a s) {index sub v} : Kept a (State.setVal s index sub v) := by
  unfold State.setVal
  apply Kept.keepF h; exact fun _ => rfl

theorem State.persist_kept (h : Kept a s) {index sub v} : Kept a (State.persist s index sub v) := by
  unfold State.persist
  extract_lets -merge -underBinder +onlyGivenNames s1
  have hs1 : Kept a s1 := State.setVal_kept h
  clear_value s1
  refine ite_of (P := Kept a) (fun _ => ?_) (fun _ => ?_)
  · exact hs1
  · exact State.commitRec_kept hs1

end Sys2Proof.Machine
end

