-- ==== Sys2Proof/Laws/KeptDram.lean ====
section
/-! SUPPORT. What the operations of Machine/Dram.lean keep. -/

namespace Sys2Proof.Machine

variable {a s : State}

theorem State.spaceErr_kept (h : Kept a s) {paddr n} : Kept a (State.spaceErr s paddr n) := by
  unfold State.spaceErr
  refine ite_of (P := Kept a) (fun _ => ?_) (fun _ => ?_)
  · exact h
  · exact State.addrError_kept h

theorem State.showElog_kept (h : Kept a s) : Kept a (State.showElog s) := by
  unfold State.showElog
  extract_lets -merge -underBinder +onlyGivenNames s1
  have hs1 : Kept a s1 := State.wr_kept h
  clear_value s1
  split
  · exact hs1
  · extract_lets -merge -underBinder +onlyGivenNames b2
    refine foldl_of (P := Kept a) ?_ (fun _ _ k3 => ?_)
    · exact hs1
    · exact State.wr_kept k3

theorem State.elogPush_kept (h : Kept a s) {typ port d} : Kept a (State.elogPush s typ port d) := by
  unfold State.elogPush
  extract_lets -merge -underBinder +onlyGivenNames f1
  have hf1 : Kept a f1.2 := by
    unfold f1
    refine ite_of (P := fun r => Kept a (Prod.snd r)) (fun _ => ?_) (fun _ => ?_)
    · exact State.free_kept h
    · exact snd_mk (P := Kept a) (h)
  clear_value f1
  extract_lets -merge -underBinder +onlyGivenNames s2
  have hs2 : Kept a s2 := hf1
  clear_value s2
  extract_lets -merge -underBinder +onlyGivenNames r3
  refine State.showElog_kept ?_
  unfold r3; apply Kept.keepF hs2; exact fun _ => rfl

theorem State.elogAt_kept (h : Kept a s) {typ port d} : Kept a (State.elogAt s typ port d) := by
  unfold State.elogAt
  extract_lets -merge -underBinder +onlyGivenNames same1
  split
  · refine ite_of (P := Kept a) (fun _ => ?_) (fun _ => ?_)
    · refine State.showElog_kept ?_
      apply Kept.keepF h; exact fun _ => rfl
    · refine ite_of (P := Kept a) (fun _ => ?_) (fun _ => ?_)
      · exact State.wr_kept h
      · exact State.elogPush_kept h
  · exact State.elogPush_kept h

theorem State.bookClient_kept (h : Kept a s) {c} : Kept a (State.bookClient s c) := by
  unfold State.bookClient
  extract_lets -merge -underBinder +onlyGivenNames mine1 t12 n3
  exact State.wrs_kept h

theorem State.books_kept (h : Kept a s) : Kept a (State.books s) := by
  unfold State.books
  extract_lets -merge -underBinder +onlyGivenNames s1
  have hs1 : Kept a s1 := by
    unfold s1
    refine foldl_of (P := Kept a) ?_ (fun _ _ k2 => ?_)
    · exact h
    · exact State.bookClient_kept k2
  clear_value s1
  exact State.wrs_kept hs1

theorem State.touch_kept (h : Kept a s) {ax n} : Kept a (State.touch s ax n) := by
  unfold State.touch
  apply Kept.keepF h; exact fun _ => rfl

theorem State.retirePage_kept (h : Kept a s) {pg} : Kept a (State.retirePage s pg) := by
  unfold State.retirePage
  refine ite_of (P := Kept a) (fun _ => ?_) (fun _ => ?_)
  · exact h
  · extract_lets -merge -underBinder +onlyGivenNames src1 s2
    have hs2 : Kept a s2 := by
      unfold s2
      unfold src1; apply Kept.keepF h; exact fun _ => rfl
    clear_value s2
    exact State.books_kept (State.wr_kept (State.bump_kept hs2))

theorem State.candidate_kept (h : Kept a s) {d} : Kept a (State.candidate s d) := by
  unfold State.candidate
  extract_lets -merge -underBinder +onlyGivenNames l1 e2
  refine ite_of (P := Kept a) (fun _ => ?_) (fun _ => ?_)
  · exact h
  · extract_lets -merge -underBinder +onlyGivenNames s3
    have hs3 : Kept a s3 := State.persist_kept h
    clear_value s3
    refine foldl_of (P := Kept a) ?_ (fun _ _ k4 => ?_)
    · exact hs3
    · exact State.retirePage_kept k4

theorem State.ceRow_kept (h : Kept a s) {d} : Kept a (State.ceRow s d) := by
  unfold State.ceRow
  extract_lets -merge -underBinder +onlyGivenNames n1 src2 s3
  have hs3 : Kept a s3 := by
    unfold s3
    unfold n1 src2; apply Kept.keepF h; exact fun _ => rfl
  clear_value s3
  refine ite_of (P := Kept a) (fun _ => ?_) (fun _ => ?_)
  · exact State.candidate_kept hs3
  · exact hs3

theorem State.unitError_kept (h : Kept a s) {port tc tu u} : Kept a (State.unitError s port tc tu u) := by
  unfold State.unitError
  extract_lets -merge -underBinder +onlyGivenNames d1
  refine ite_of (P := Kept a) (fun _ => ?_) (fun _ => ?_)
  · exact State.candidate_kept (State.elogAt_kept h)
  · extract_lets -merge -underBinder +onlyGivenNames s2
    have hs2 : Kept a s2 := by
      unfold s2
      exact Kept.setEcc h (KMap.canonical_filter _ _ _)
    clear_value s2
    exact State.ceRow_kept (State.elogAt_kept (State.bump_kept hs2))

theorem State.dramRead_kept (h : Kept a s) {port ax n} : Kept a (State.dramRead s port ax n).2 := by
  unfold State.dramRead
  extract_lets -merge -underBinder +onlyGivenNames l1 s2
  have hs2 : Kept a s2 := by
    unfold s2
    refine foldl_of (P := Kept a) ?_ (fun _ _ k3 => ?_)
    · exact h
    · exact State.unitError_kept k3
  clear_value s2
  extract_lets -merge -underBinder +onlyGivenNames bad4 s5
  have hs5 : Kept a s5 := State.bump_kept hs2
  clear_value s5
  extract_lets -merge -underBinder +onlyGivenNames s6
  have hs6 : Kept a s6 := by
    unfold s6
    refine ite_of (P := Kept a) (fun _ => ?_) (fun _ => ?_)
    · exact State.count_kept (State.bump_kept hs5)
    · exact hs5
  clear_value s6
  exact snd_mk (P := Kept a) (hs6)

theorem State.dramWrite_kept (h : Kept a s) {port ax b} : Kept a (State.dramWrite s port ax b) := by
  unfold State.dramWrite
  extract_lets -merge -underBinder +onlyGivenNames n1 o2 s3
  have hs3 : Kept a s3 := by
    unfold s3
    refine foldl_of (P := Kept a) ?_ (fun _ _ k4 => ?_)
    · exact h
    · refine ite_of (P := Kept a) (fun _ => ?_) (fun _ => ?_)
      · exact k4
      · refine ite_of (P := Kept a) (fun _ => ?_) (fun _ => ?_)
        · exact State.elogAt_kept k4
        · exact State.unitError_kept k4
  clear_value s3
  extract_lets -merge -underBinder +onlyGivenNames whole5 s6
  have hs6 : Kept a s6 := by
    unfold s6
    exact Kept.setEcc hs3 (KMap.canonical_filter _ _ _)
  clear_value s6
  exact State.bump_kept (State.st_kept hs6)

theorem State.activate_kept (h : Kept a s) {port rt ax} : Kept a (State.activate s port rt ax) := by
  unfold State.activate
  extract_lets -merge -underBinder +onlyGivenNames d1 k2 r3 rfm4 s5
  have hs5 : Kept a s5 := by
    unfold s5
    refine ite_of (P := Kept a) (fun _ => ?_) (fun _ => ?_)
    · exact State.bump_kept h
    · exact h
  try clear_value s5
  extract_lets -merge -underBinder +onlyGivenNames r6 key7 n8 src9 s10
  have hs10 : Kept a s10 := by
    unfold s10
    exact Kept.keep hs5 rfl
  try clear_value s10
  refine ite_of (P := Kept a) (fun _ => ?_) (fun _ => ?_)
  · exact hs10
  · refine ite_of (P := Kept a) (fun _ => ?_) (fun _ => ?_)
    · exact State.bump_kept hs10
    · refine ite_of (P := Kept a) (fun _ => ?_) (fun _ => ?_)
      · refine State.elogAt_kept ?_
        exact Kept.keep hs10 rfl
      · exact hs10

theorem State.linkError_kept (h : Kept a s) {port ax link} : Kept a (State.linkError s port ax link) := by
  unfold State.linkError
  extract_lets -merge -underBinder +onlyGivenNames d1
  refine ite_of (P := Kept a) (fun _ => ?_) (fun _ => ?_)
  · exact State.elogAt_kept (State.bump_kept h)
  · refine ite_of (P := Kept a) (fun _ => ?_) (fun _ => ?_)
    · exact h
    · exact State.elogAt_kept h

theorem State.starveGrant_kept (h : Kept a s) {port rt starved} : Kept a (State.starveGrant s port rt starved) := by
  unfold State.starveGrant
  refine ite_of (P := Kept a) (fun _ => ?_) (fun _ => ?_)
  · exact State.bump_kept h
  · exact h

theorem State.dramReadReq_kept (h : Kept a s) {port ax n rt opens starved link} : Kept a (State.dramReadReq s port ax n rt opens starved link) := by
  unfold State.dramReadReq
  refine ite_of (P := Kept a) (fun _ => ?_) (fun _ => ?_)
  · exact h
  · refine ite_of (P := Kept a) (fun _ => ?_) (fun _ => ?_)
    · extract_lets -merge -underBinder +onlyGivenNames src1
      have hsrc1 : Kept a src1 := State.addrError_kept h
      clear_value src1
      apply Kept.keepF hsrc1; exact fun _ => rfl
    · extract_lets -merge -underBinder +onlyGivenNames s2
      have hs2 : Kept a s2 := State.starveGrant_kept h
      clear_value s2
      extract_lets -merge -underBinder +onlyGivenNames s3
      have hs3 : Kept a s3 := by
        unfold s3
        refine ite_of (P := Kept a) (fun _ => ?_) (fun _ => ?_)
        · exact State.activate_kept hs2
        · exact hs2
      clear_value s3
      extract_lets -merge -underBinder +onlyGivenNames s4
      have hs4 : Kept a s4 := State.linkError_kept hs3
      clear_value s4
      extract_lets -merge -underBinder +onlyGivenNames r5
      have hr5 : Kept a r5.2 := State.dramRead_kept hs4
      clear_value r5
      extract_lets -merge -underBinder +onlyGivenNames s6
      have hs6 : Kept a s6 := hr5
      clear_value s6
      refine ite_of (P := Kept a) (fun _ => ?_) (fun _ => ?_)
      · extract_lets -merge -underBinder +onlyGivenNames src7
        have hsrc7 : Kept a src7 := State.count_kept (State.bump_kept hs6)
        clear_value src7
        apply Kept.keepF hsrc7; exact fun _ => rfl
      · apply Kept.keepF hs6; exact fun _ => rfl

theorem execDramRead_kept (h : Kept a s) {port ax n rt opens starved link} : ResKept a (execDramRead port ax n rt opens starved link s) := by
  unfold execDramRead
  exact ResKept.next (State.dramReadReq_kept h)

theorem State.dramWriteReq_kept (h : Kept a s) {port ax b rt opens starved link} : Kept a (State.dramWriteReq s port ax b rt opens starved link) := by
  unfold State.dramWriteReq
  refine ite_of (P := Kept a) (fun _ => ?_) (fun _ => ?_)
  · exact h
  · refine ite_of (P := Kept a) (fun _ => ?_) (fun _ => ?_)
    · exact State.addrError_kept h
    · extract_lets -merge -underBinder +onlyGivenNames s1
      have hs1 : Kept a s1 := State.starveGrant_kept h
      clear_value s1
      extract_lets -merge -underBinder +onlyGivenNames s2
      have hs2 : Kept a s2 := by
        unfold s2
        refine ite_of (P := Kept a) (fun _ => ?_) (fun _ => ?_)
        · exact State.activate_kept hs1
        · exact hs1
      clear_value s2
      extract_lets -merge -underBinder +onlyGivenNames s3
      have hs3 : Kept a s3 := State.linkError_kept hs2
      clear_value s3
      extract_lets -merge -underBinder +onlyGivenNames s4
      have hs4 : Kept a s4 := State.dramWrite_kept hs3
      clear_value s4
      refine ite_of (P := Kept a) (fun _ => ?_) (fun _ => ?_)
      · exact Kept.setEcc hs4 (KMap.canonical_set _ _ _ _)
      · exact hs4

theorem execDramWrite_kept (h : Kept a s) {port ax b rt opens starved link} : ResKept a (execDramWrite port ax b rt opens starved link s) := by
  unfold execDramWrite
  exact ResKept.next (State.dramWriteReq_kept h)

theorem State.dramScrub_kept (h : Kept a s) {ax kind} : Kept a (State.dramScrub s ax kind) := by
  unfold State.dramScrub
  extract_lets -merge -underBinder +onlyGivenNames o1
  refine ite_of (P := Kept a) (fun _ => ?_) (fun _ => ?_)
  · exact h
  · extract_lets -merge -underBinder +onlyGivenNames k2 s3
    have hs3 : Kept a s3 := by
      unfold s3
      refine ite_of (P := Kept a) (fun _ => ?_) (fun _ => ?_)
      · exact h
      · exact Kept.setEcc h (KMap.canonical_set _ _ _ _)
    clear_value s3
    refine foldl_of (P := Kept a) ?_ (fun _ _ k4 => ?_)
    · exact hs3
    · exact State.unitError_kept k4

theorem execDramScrub_kept (h : Kept a s) {ax kind} : ResKept a (execDramScrub ax kind s) := by
  unfold execDramScrub
  exact ResKept.next (State.dramScrub_kept h)

theorem execDramRefresh_kept (h : Kept a s) {ch rank bank} : ResKept a (execDramRefresh ch rank bank s) := by
  unfold execDramRefresh
  extract_lets -merge -underBinder +onlyGivenNames k1
  refine ResKept.next ?_
  apply Kept.keepF h; exact fun _ => rfl

theorem execThrottleWindow_kept (h : Kept a s) : ResKept a (execThrottleWindow s) := by
  unfold execThrottleWindow
  refine ResKept.next ?_
  apply Kept.keepF h; exact fun _ => rfl

theorem execDramRecalibrate_kept (h : Kept a s) {ch} : ResKept a (execDramRecalibrate ch s) := by
  unfold execDramRecalibrate
  extract_lets -merge -underBinder +onlyGivenNames last1
  refine ite_of (P := ResKept a) (fun _ => ?_) (fun _ => ?_)
  · refine ResKept.next ?_
    apply Kept.keepF h; exact fun _ => rfl
  · exact ResKept.next (h)

theorem State.protWrite_kept (h : Kept a s) {i size w} : Kept a (State.protWrite s i size w) := by
  unfold State.protWrite
  extract_lets -merge -underBinder +onlyGivenNames s'1
  have hs'1 : Kept a s'1 := by
    unfold s'1
    refine ite_of (P := Kept a) (fun _ => ?_) (fun _ => ?_)
    · exact State.wr_kept h
    · exact State.wrs_kept h
  clear_value s'1
  refine ite_of (P := Kept a) (fun _ => ?_) (fun _ => ?_)
  · exact State.wr_kept h
  · exact hs'1

theorem execDramProtWrite_kept (h : Kept a s) {i size w} : ResKept a (execDramProtWrite i size w s) := by
  unfold execDramProtWrite
  exact ResKept.next (State.protWrite_kept h)

theorem State.elogPop_kept (h : Kept a s) : Kept a (State.elogPop s) := by
  unfold State.elogPop
  split
  · exact h
  · extract_lets -merge -underBinder +onlyGivenNames s1
    have hs1 : Kept a s1 := State.logEntry_kept h
    clear_value s1
    refine State.showElog_kept ?_
    apply Kept.keepF hs1; exact fun _ => rfl

theorem execElogPop_kept (h : Kept a s) : ResKept a (execElogPop s) := by
  unfold execElogPop
  exact ResKept.next (State.elogPop_kept h)

end Sys2Proof.Machine
end

