-- ==== Sys2Proof/Laws/KeptPageStore.lean ====
section
/-! SUPPORT. What the operations of Machine/PageStore.lean keep. -/

namespace Sys2Proof.Machine

variable {a s : State}

theorem State.setInfo_kept (h : Kept a s) {ppn v} : Kept a (State.setInfo s ppn v) := by
  unfold State.setInfo
  exact State.stN_kept h

theorem State.setPoison_kept (h : Kept a s) {ppn v} : Kept a (State.setPoison s ppn v) := by
  unfold State.setPoison
  extract_lets -merge -underBinder +onlyGivenNames i1
  exact State.setInfo_kept h

theorem State.setRef_kept (h : Kept a s) {ppn ref} : Kept a (State.setRef s ppn ref) := by
  unfold State.setRef
  extract_lets -merge -underBinder +onlyGivenNames i1
  exact State.setInfo_kept h

theorem State.setPin_kept (h : Kept a s) {ppn pin} : Kept a (State.setPin s ppn pin) := by
  unfold State.setPin
  extract_lets -merge -underBinder +onlyGivenNames i1
  exact State.setInfo_kept h

theorem State.pushFree_kept (h : Kept a s) {ppn} : Kept a (State.pushFree s ppn) := by
  unfold State.pushFree
  refine ite_of (P := Kept a) (fun _ => ?_) (fun _ => ?_)
  · refine State.wr_kept ?_
    refine State.setInfo_kept ?_
    apply Kept.keepF h; exact fun _ => rfl
  · extract_lets -merge -underBinder +onlyGivenNames f1
    have hf1 : Kept a f1.2 := State.free_kept h
    clear_value f1
    extract_lets -merge -underBinder +onlyGivenNames s2
    have hs2 : Kept a s2 := hf1
    clear_value s2
    extract_lets -merge -underBinder +onlyGivenNames n3
    refine ite_of (P := Kept a) (fun _ => ?_) (fun _ => ?_)
    · extract_lets -merge -underBinder +onlyGivenNames s4
      have hs4 : Kept a s4 := State.setInfo_kept hs2
      clear_value s4
      extract_lets -merge -underBinder +onlyGivenNames s5
      have hs5 : Kept a s5 := State.setInfo_kept hs4
      clear_value s5
      refine State.wr_kept ?_
      apply Kept.keepF hs5; exact fun _ => rfl
    · extract_lets -merge -underBinder +onlyGivenNames s6
      have hs6 : Kept a s6 := State.setInfo_kept hs2
      clear_value s6
      refine State.wr_kept ?_
      apply Kept.keepF hs6; exact fun _ => rfl

theorem State.takePage_kept (h : Kept a s) {res} : Kept a (State.takePage s res).2 := by
  unfold State.takePage
  extract_lets -merge -underBinder +onlyGivenNames p1 src2 s3
  have hs3 : Kept a s3 := by
    unfold s3
    unfold src2 p1; apply Kept.keepF h; exact fun _ => rfl
  clear_value s3
  extract_lets -merge -underBinder +onlyGivenNames s4
  have hs4 : Kept a s4 := State.setInfo_kept hs3
  clear_value s4
  exact snd_mk (P := Kept a) (State.wrs_kept hs4)

theorem State.psDone_kept (h : Kept a s) {op status} : Kept a (State.psDone s op status) := by
  unfold State.psDone
  exact State.wrs_kept h

theorem State.psArg_kept (h : Kept a s) {arg} : Kept a (State.psArg s arg) := by
  unfold State.psArg
  exact State.wr_kept h

theorem State.psAlloc_kept (h : Kept a s) {res} : Kept a (State.psAlloc s res) := by
  unfold State.psAlloc
  refine ite_of (P := Kept a) (fun _ => ?_) (fun _ => ?_)
  · exact State.psDone_kept h
  · extract_lets -merge -underBinder +onlyGivenNames r1
    have hr1 : Kept a r1.2 := State.takePage_kept h
    clear_value r1
    exact State.wr_kept (State.psDone_kept hr1)

theorem State.psInit_kept (h : Kept a s) : Kept a (State.psInit s) := by
  unfold State.psInit
  refine ite_of (P := Kept a) (fun _ => ?_) (fun _ => ?_)
  · exact State.psDone_kept h
  · extract_lets -merge -underBinder +onlyGivenNames n1 s2
    have hs2 : Kept a s2 := by
      unfold s2
      refine foldl_of (P := Kept a) ?_ (fun _ _ k3 => ?_)
      · exact h
      · exact State.setInfo_kept k3
    clear_value s2
    extract_lets -merge -underBinder +onlyGivenNames src4 s5
    have hs5 : Kept a s5 := by
      unfold s5
      unfold src4; apply Kept.keepF hs2; exact fun _ => rfl
    clear_value s5
    exact State.psDone_kept (State.wrs_kept hs5)

theorem execPsInit_kept (h : Kept a s) : ResKept a (execPsInit s) := by
  unfold execPsInit
  exact ResKept.next (State.psInit_kept h)

theorem execPsAlloc_kept (h : Kept a s) {res} : ResKept a (execPsAlloc res s) := by
  unfold execPsAlloc
  exact ResKept.next (State.psAlloc_kept (State.wr_kept h))

theorem State.psShare_kept (h : Kept a s) {arg} : Kept a (State.psShare s arg) := by
  unfold State.psShare
  extract_lets -merge -underBinder +onlyGivenNames i1
  refine ite_of (P := Kept a) (fun _ => ?_) (fun _ => ?_)
  · exact State.psDone_kept h
  · extract_lets -merge -underBinder +onlyGivenNames s2
    have hs2 : Kept a s2 := State.setInfo_kept h
    clear_value s2
    extract_lets -merge -underBinder +onlyGivenNames s3
    have hs3 : Kept a s3 := by
      unfold s3
      refine ite_of (P := Kept a) (fun _ => ?_) (fun _ => ?_)
      · exact State.wrs_kept hs2
      · exact hs2
    clear_value s3
    exact State.psDone_kept hs3

theorem execPsShare_kept (h : Kept a s) {arg} : ResKept a (execPsShare arg s) := by
  unfold execPsShare
  exact ResKept.next (State.psShare_kept (State.psArg_kept h))

theorem State.dropRef_kept (h : Kept a s) {ppn} : Kept a (State.dropRef s ppn) := by
  unfold State.dropRef
  extract_lets -merge -underBinder +onlyGivenNames i1
  refine ite_of (P := Kept a) (fun _ => ?_) (fun _ => ?_)
  · exact State.wrs_kept (State.setInfo_kept h)
  · exact State.setRef_kept h

theorem State.psFree_kept (h : Kept a s) {arg} : Kept a (State.psFree s arg) := by
  unfold State.psFree
  refine ite_of (P := Kept a) (fun _ => ?_) (fun _ => ?_)
  · exact State.psDone_kept h
  · exact State.psDone_kept (State.dropRef_kept h)

theorem execPsFree_kept (h : Kept a s) {arg} : ResKept a (execPsFree arg s) := by
  unfold execPsFree
  exact ResKept.next (State.psFree_kept (State.psArg_kept h))

theorem State.psReserve_kept (h : Kept a s) {arg} : Kept a (State.psReserve s arg) := by
  unfold State.psReserve
  refine ite_of (P := Kept a) (fun _ => ?_) (fun _ => ?_)
  · exact State.psDone_kept h
  · exact State.psDone_kept (State.wr_kept h)

theorem execPsReserve_kept (h : Kept a s) {arg} : ResKept a (execPsReserve arg s) := by
  unfold execPsReserve
  exact ResKept.next (State.psReserve_kept (State.psArg_kept h))

theorem State.psUnreserve_kept (h : Kept a s) {arg} : Kept a (State.psUnreserve s arg) := by
  unfold State.psUnreserve
  refine ite_of (P := Kept a) (fun _ => ?_) (fun _ => ?_)
  · exact State.psDone_kept h
  · exact State.psDone_kept (State.wr_kept h)

theorem execPsUnreserve_kept (h : Kept a s) {arg} : ResKept a (execPsUnreserve arg s) := by
  unfold execPsUnreserve
  exact ResKept.next (State.psUnreserve_kept (State.psArg_kept h))

theorem State.psPoison_kept (h : Kept a s) {arg v} : Kept a (State.psPoison s arg v) := by
  unfold State.psPoison
  extract_lets -merge -underBinder +onlyGivenNames op1
  refine ite_of (P := Kept a) (fun _ => ?_) (fun _ => ?_)
  · exact State.psDone_kept (State.setPoison_kept h)
  · exact State.psDone_kept h

theorem execPsPoison_kept (h : Kept a s) {arg} : ResKept a (execPsPoison arg s) := by
  unfold execPsPoison
  exact ResKept.next (State.psPoison_kept (State.psArg_kept h))

theorem execPsUnpoison_kept (h : Kept a s) {arg} : ResKept a (execPsUnpoison arg s) := by
  unfold execPsUnpoison
  exact ResKept.next (State.psPoison_kept (State.psArg_kept h))

theorem State.onAtt_kept (h : Kept a s) {t f} : Kept a (State.onAtt s t f) := by
  unfold State.onAtt
  exact Kept.setAtts h (KMap.canonical_set _ _ _ _)

theorem State.labDrop_kept (h : Kept a s) {f} : Kept a (State.labDrop s f) := by
  unfold State.labDrop
  refine foldl_of (P := Kept a) ?_ (fun _ _ k1 => ?_)
  · exact h
  · exact State.onAtt_kept k1

theorem execPsInvalidate_kept (h : Kept a s) {all seq} : ResKept a (execPsInvalidate all seq s) := by
  unfold execPsInvalidate
  exact ResKept.next (State.labDrop_kept h)

theorem State.frameWrite_kept (h : Kept a s) {t f w fill inval} : Kept a (State.frameWrite s t f w fill inval) := by
  unfold State.frameWrite
  extract_lets -merge -underBinder +onlyGivenNames ppn1 s2
  have hs2 : Kept a s2 := by
    unfold s2
    refine ite_of (P := Kept a) (fun _ => ?_) (fun _ => ?_)
    · exact State.wr_kept h
    · exact h
  clear_value s2
  refine ite_of (P := Kept a) (fun _ => ?_) (fun _ => ?_)
  · exact State.wr_kept hs2
  · refine ite_of (P := Kept a) (fun _ => ?_) (fun _ => ?_)
    · refine ite_of (P := Kept a) (fun _ => ?_) (fun _ => ?_)
      · exact hs2
      · exact State.wrs_kept hs2
    · refine ite_of (P := Kept a) (fun _ => ?_) (fun _ => ?_)
      · exact State.wrs_kept hs2
      · exact hs2

theorem State.frameFill_kept (h : Kept a s) {t f w} : Kept a (State.frameFill s t f w) := by
  unfold State.frameFill
  exact State.frameWrite_kept h

theorem execFrameFill_kept (h : Kept a s) {t f w} : ResKept a (execFrameFill t f w s) := by
  unfold execFrameFill
  exact ResKept.next (State.frameFill_kept h)

theorem State.frameInval_kept (h : Kept a s) {t f w} : Kept a (State.frameInval s t f w) := by
  unfold State.frameInval
  exact State.frameWrite_kept h

theorem execFrameInvalidate_kept (h : Kept a s) {t f w} : ResKept a (execFrameInvalidate t f w s) := by
  unfold execFrameInvalidate
  exact ResKept.next (State.frameInval_kept h)

theorem State.frameDone_kept (h : Kept a s) {t f} : Kept a (State.frameDone s t f) := by
  unfold State.frameDone
  refine ite_of (P := Kept a) (fun _ => ?_) (fun _ => ?_)
  · exact h
  · extract_lets -merge -underBinder +onlyGivenNames ppn1 s2
    have hs2 : Kept a s2 := State.wr_kept h
    clear_value s2
    extract_lets -merge -underBinder +onlyGivenNames r3
    have hr3 : Kept a r3.2 := State.dramRead_kept hs2
    clear_value r3
    refine ite_of (P := Kept a) (fun _ => ?_) (fun _ => ?_)
    · exact State.setPoison_kept hr3
    · exact State.wr_kept (State.clearMarks_kept (State.st_kept hr3))

theorem execFrameFillDone_kept (h : Kept a s) {t f} : ResKept a (execFrameFillDone t f s) := by
  unfold execFrameFillDone
  exact ResKept.next (State.frameDone_kept h)

theorem State.dropFrames_kept (h : Kept a s) {ppn} : Kept a (State.dropFrames s ppn) := by
  unfold State.dropFrames
  refine foldl_of (P := Kept a) ?_ (fun _ _ k1 => ?_)
  · exact h
  · refine foldl_of (P := Kept a) ?_ (fun _ _ k2 => ?_)
    · exact k1
    · refine ite_of (P := Kept a) (fun _ => ?_) (fun _ => ?_)
      · exact State.wrs_kept k2
      · exact k2

theorem State.pin_kept (h : Kept a s) {step seq ppn} : Kept a (State.pin s step seq ppn) := by
  unfold State.pin
  refine ite_of (P := Kept a) (fun _ => ?_) (fun _ => ?_)
  · exact h
  · refine State.setPin_kept ?_
    apply Kept.keepF h; exact fun _ => rfl

theorem State.unpinStep_kept (h : Kept a s) {step mine} : Kept a (State.unpinStep s step mine) := by
  unfold State.unpinStep
  extract_lets -merge -underBinder +onlyGivenNames s1
  have hs1 : Kept a s1 := by
    unfold s1
    refine foldl_of (P := Kept a) ?_ (fun _ _ k2 => ?_)
    · exact h
    · exact State.setPin_kept k2
  clear_value s1
  apply Kept.keepF hs1; exact fun _ => rfl

theorem State.psReclaim_kept (h : Kept a s) : Kept a (State.psReclaim s) := by
  unfold State.psReclaim
  refine ite_of (P := Kept a) (fun _ => ?_) (fun _ => ?_)
  · exact h
  · refine foldl_of (P := Kept a) ?_ (fun _ _ k1 => ?_)
    · exact h
    · extract_lets -merge -underBinder +onlyGivenNames i2
      refine ite_of (P := Kept a) (fun _ => ?_) (fun _ => ?_)
      · exact State.wr_kept (State.pushFree_kept (State.dropFrames_kept k1))
      · exact k1

end Sys2Proof.Machine
end

