-- ==== Sys2Proof/Laws/KeptVec.lean ====
section
/-! SUPPORT. What the operations of Machine/Vec.lean keep. -/

namespace Sys2Proof.Machine

variable {a s : State}

theorem State.vecIssue_kept (h : Kept a s) {st cyc f} {k : Nat → Sys2Proof.Machine.State → Sys2Proof.Machine.State} (hk : ∀ y0 y1, Kept a y1 → Kept a (k y0 y1)) : Kept a (State.vecIssue s st cyc f k) := by
  unfold State.vecIssue
  refine State.issue_kept h (fun _ _ k1 => ?_)
  extract_lets -merge -underBinder +onlyGivenNames t2 p3 top4
  refine ite_of (P := Kept a) (fun _ => ?_) (fun _ => ?_)
  · exact State.stall_kept k1
  · refine State.advance_kept ?_
    refine State.bump_kept ?_
    exact hk _ _ (State.wr_kept k1)

theorem State.vput_kept (h : Kept a s) {t p v i l} : Kept a (State.vput s t p v i l) := by
  unfold State.vput
  exact State.bump_kept (State.setVreg_kept h)

theorem State.vmap_kept (h : Kept a s) {st f w} : Kept a (State.vmap s st f w) := by
  unfold State.vmap
  extract_lets -merge -underBinder +onlyGivenNames t1 p2 v3
  exact State.vput_kept h

theorem execVmov_kept (h : Kept a s) {st cyc} : ResKept a (execVmov st cyc s) := by
  unfold execVmov
  refine ResKept.next ?_
  refine State.vecIssue_kept h (fun _ _ k1 => ?_)
  exact State.vmap_kept k1

theorem execVadd_kept (h : Kept a s) {st cyc} : ResKept a (execVadd st cyc s) := by
  unfold execVadd
  refine ResKept.next ?_
  refine State.vecIssue_kept h (fun _ _ k1 => ?_)
  exact State.vmap_kept k1

theorem execVsub_kept (h : Kept a s) {st cyc} : ResKept a (execVsub st cyc s) := by
  unfold execVsub
  refine ResKept.next ?_
  refine State.vecIssue_kept h (fun _ _ k1 => ?_)
  exact State.vmap_kept k1

theorem execVmul_kept (h : Kept a s) {st cyc} : ResKept a (execVmul st cyc s) := by
  unfold execVmul
  refine ResKept.next ?_
  refine State.vecIssue_kept h (fun _ _ k1 => ?_)
  exact State.vmap_kept k1

theorem execVfma_kept (h : Kept a s) {st cyc} : ResKept a (execVfma st cyc s) := by
  unfold execVfma
  refine ResKept.next ?_
  refine State.vecIssue_kept h (fun _ _ k1 => ?_)
  exact State.vmap_kept k1

theorem execVmax_kept (h : Kept a s) {st cyc} : ResKept a (execVmax st cyc s) := by
  unfold execVmax
  refine ResKept.next ?_
  refine State.vecIssue_kept h (fun _ _ k1 => ?_)
  exact State.vmap_kept k1

theorem execVmin_kept (h : Kept a s) {st cyc} : ResKept a (execVmin st cyc s) := by
  unfold execVmin
  refine ResKept.next ?_
  refine State.vecIssue_kept h (fun _ _ k1 => ?_)
  exact State.vmap_kept k1

theorem State.vabs_kept (h : Kept a s) {st w} : Kept a (State.vabs s st w) := by
  unfold State.vabs
  extract_lets -merge -underBinder +onlyGivenNames t1 p2 v3 l4 c5
  refine State.vput_kept ?_
  unfold l4 c5; apply Kept.keepF h; exact fun _ => rfl

theorem execVabs_kept (h : Kept a s) {st cyc} : ResKept a (execVabs st cyc s) := by
  unfold execVabs
  refine ResKept.next ?_
  refine State.vecIssue_kept h (fun _ _ k1 => ?_)
  exact State.vabs_kept k1

theorem execVaddi_kept (h : Kept a s) {st cyc} : ResKept a (execVaddi st cyc s) := by
  unfold execVaddi
  refine ResKept.next ?_
  refine State.vecIssue_kept h (fun _ _ k1 => ?_)
  exact State.vmap_kept k1

theorem execVmuli_kept (h : Kept a s) {st cyc} : ResKept a (execVmuli st cyc s) := by
  unfold execVmuli
  refine ResKept.next ?_
  refine State.vecIssue_kept h (fun _ _ k1 => ?_)
  exact State.vmap_kept k1

theorem execVfmai_kept (h : Kept a s) {st cyc} : ResKept a (execVfmai st cyc s) := by
  unfold execVfmai
  refine ResKept.next ?_
  refine State.vecIssue_kept h (fun _ _ k1 => ?_)
  exact State.vmap_kept k1

theorem execVmaxi_kept (h : Kept a s) {st cyc} : ResKept a (execVmaxi st cyc s) := by
  unfold execVmaxi
  refine ResKept.next ?_
  refine State.vecIssue_kept h (fun _ _ k1 => ?_)
  exact State.vmap_kept k1

theorem State.vcmp_kept (h : Kept a s) {st w} : Kept a (State.vcmp s st w) := by
  unfold State.vcmp
  extract_lets -merge -underBinder +onlyGivenNames t1 p2 v3 m4 l5
  exact State.wr_kept (State.setVreg_kept h)

theorem execVcmp_kept (h : Kept a s) {st cyc} : ResKept a (execVcmp st cyc s) := by
  unfold execVcmp
  refine ResKept.next ?_
  refine State.vecIssue_kept h (fun _ _ k1 => ?_)
  exact State.vcmp_kept k1

theorem execVsel_kept (h : Kept a s) {st cyc} : ResKept a (execVsel st cyc s) := by
  unfold execVsel
  refine ResKept.next ?_
  refine State.vecIssue_kept h (fun _ _ k1 => ?_)
  exact State.vmap_kept k1

theorem execVlerp_kept (h : Kept a s) {st cyc} : ResKept a (execVlerp st cyc s) := by
  unfold execVlerp
  refine ResKept.next ?_
  refine State.vecIssue_kept h (fun _ _ k1 => ?_)
  exact State.vmap_kept k1

theorem State.vdiv_kept (h : Kept a s) {st w} : Kept a (State.vdiv s st w) := by
  unfold State.vdiv
  extract_lets -merge -underBinder +onlyGivenNames t1 p2 v3 n4 s5
  have hs5 : Kept a s5 := State.bump_kept (State.vmap_kept h)
  clear_value s5
  refine ite_of (P := Kept a) (fun _ => ?_) (fun _ => ?_)
  · exact hs5
  · exact State.wr_kept hs5

theorem execVdiv_kept (h : Kept a s) {st cyc} : ResKept a (execVdiv st cyc s) := by
  unfold execVdiv
  refine ResKept.next ?_
  refine State.vecIssue_kept h (fun _ _ k1 => ?_)
  exact State.vdiv_kept k1

theorem execVexp_kept (h : Kept a s) {st cyc} : ResKept a (execVexp st cyc s) := by
  unfold execVexp
  refine ResKept.next ?_
  refine State.vecIssue_kept h (fun _ _ k1 => ?_)
  exact State.vmap_kept k1

theorem execVexp2_kept (h : Kept a s) {st cyc} : ResKept a (execVexp2 st cyc s) := by
  unfold execVexp2
  refine ResKept.next ?_
  refine State.vecIssue_kept h (fun _ _ k1 => ?_)
  exact State.vmap_kept k1

theorem execVlog2_kept (h : Kept a s) {st cyc} : ResKept a (execVlog2 st cyc s) := by
  unfold execVlog2
  refine ResKept.next ?_
  refine State.vecIssue_kept h (fun _ _ k1 => ?_)
  exact State.vmap_kept k1

theorem execVrcp_kept (h : Kept a s) {st cyc} : ResKept a (execVrcp st cyc s) := by
  unfold execVrcp
  refine ResKept.next ?_
  refine State.vecIssue_kept h (fun _ _ k1 => ?_)
  exact State.vmap_kept k1

theorem execVsqrt_kept (h : Kept a s) {st cyc} : ResKept a (execVsqrt st cyc s) := by
  unfold execVsqrt
  refine ResKept.next ?_
  refine State.vecIssue_kept h (fun _ _ k1 => ?_)
  exact State.vmap_kept k1

theorem execVrsqrt_kept (h : Kept a s) {st cyc} : ResKept a (execVrsqrt st cyc s) := by
  unfold execVrsqrt
  refine ResKept.next ?_
  refine State.vecIssue_kept h (fun _ _ k1 => ?_)
  exact State.vmap_kept k1

theorem execVsigm_kept (h : Kept a s) {st cyc} : ResKept a (execVsigm st cyc s) := by
  unfold execVsigm
  refine ResKept.next ?_
  refine State.vecIssue_kept h (fun _ _ k1 => ?_)
  exact State.vmap_kept k1

theorem execVtanh_kept (h : Kept a s) {st cyc} : ResKept a (execVtanh st cyc s) := by
  unfold execVtanh
  refine ResKept.next ?_
  refine State.vecIssue_kept h (fun _ _ k1 => ?_)
  exact State.vmap_kept k1

theorem execVexpd_kept (h : Kept a s) {st cyc} : ResKept a (execVexpd st cyc s) := by
  unfold execVexpd
  refine ResKept.next ?_
  refine State.vecIssue_kept h (fun _ _ k1 => ?_)
  exact State.vmap_kept k1

theorem State.vcvt_kept (h : Kept a s) {st w} : Kept a (State.vcvt s st w) := by
  unfold State.vcvt
  extract_lets -merge -underBinder +onlyGivenNames t1 p2 v3 tg4 part5 tb6 n7 src8 c9 c10 r11
  exact State.bump_kept (State.setVreg_kept h)

theorem execVcvt_kept (h : Kept a s) {st cyc} : ResKept a (execVcvt st cyc s) := by
  unfold execVcvt
  refine ResKept.next ?_
  refine State.vecIssue_kept h (fun _ _ k1 => ?_)
  exact State.vcvt_kept k1

theorem State.vred_kept (h : Kept a s) {st w} : Kept a (State.vred s st w) := by
  unfold State.vred
  extract_lets -merge -underBinder +onlyGivenNames t1 p2 v3 op4 cl5 r6 r7 r8 r9 res10
  exact State.vput_kept h

theorem execVred_kept (h : Kept a s) {st cyc} : ResKept a (execVred st cyc s) := by
  unfold execVred
  refine ResKept.next ?_
  refine State.vecIssue_kept h (fun _ _ k1 => ?_)
  exact State.vred_kept k1

theorem State.vscan_kept (h : Kept a s) {st w} : Kept a (State.vscan s st w) := by
  unfold State.vscan
  extract_lets -merge -underBinder +onlyGivenNames t1 p2 a3 b4 c5
  exact State.vput_kept h

theorem execVscan_kept (h : Kept a s) {st cyc} : ResKept a (execVscan st cyc s) := by
  unfold execVscan
  refine ResKept.next ?_
  refine State.vecIssue_kept h (fun _ _ k1 => ?_)
  exact State.vscan_kept k1

theorem State.winIssue_kept (h : Kept a s) {st cyc f addrs k} : Kept a (State.winIssue s st cyc f addrs k) := by
  unfold State.winIssue
  refine State.issue_kept h (fun _ _ k1 => ?_)
  extract_lets -merge -underBinder +onlyGivenNames t2 p3 v4 wc5 c6 d7 nb8 pos9
  refine ite_of (P := Kept a) (fun _ => ?_) (fun _ => ?_)
  · exact State.stall_kept k1
  · refine ite_of (P := Kept a) (fun _ => ?_) (fun _ => ?_)
    · exact State.stall_kept k1
    · extract_lets -merge -underBinder +onlyGivenNames rows10
      split
      · have k11 := snd_of2 (by assumption) (State.gather_kept k1)
        exact State.stallOn_kept k11
      · have k12 := snd_of2 (by assumption) (State.gather_kept k1)
        exact State.uncRead_kept k12
      · have k13 := snd_of2 (by assumption) (State.gather_kept k1)
        exact State.seqFault_kept k13
      · have k14 := snd_of2 (by assumption) (State.gather_kept k1)
        extract_lets -merge -underBinder +onlyGivenNames r15 occ16 s17
        have hs17 : Kept a s17 := State.vput_kept (State.wr_kept k14)
        clear_value s17
        extract_lets -merge -underBinder +onlyGivenNames s18
        have hs18 : Kept a s18 := State.bump_kept (State.bump_kept (State.bump_kept hs17))
        clear_value s18
        extract_lets -merge -underBinder +onlyGivenNames s19
        have hs19 : Kept a s19 := by
          unfold s19
          refine ite_of (P := Kept a) (fun _ => ?_) (fun _ => ?_)
          · exact State.wr_kept hs18
          · exact hs18
        clear_value s19
        exact State.advance_kept hs19

theorem execVdw_kept (h : Kept a s) {st cyc} : ResKept a (execVdw st cyc s) := by
  unfold execVdw
  exact ResKept.next (State.winIssue_kept h)

theorem execVpool_kept (h : Kept a s) {st cyc} : ResKept a (execVpool st cyc s) := by
  unfold execVpool
  exact ResKept.next (State.winIssue_kept h)

theorem execVcrop_kept (h : Kept a s) {st cyc} : ResKept a (execVcrop st cyc s) := by
  unfold execVcrop
  exact ResKept.next (State.winIssue_kept h)

theorem State.vbdec_kept (h : Kept a s) {st w} : Kept a (State.vbdec s st w) := by
  unfold State.vbdec
  extract_lets -merge -underBinder +onlyGivenNames t1 p2 a3 b4 c5 e6
  exact State.vput_kept h

theorem execVbdec_kept (h : Kept a s) {st cyc} : ResKept a (execVbdec st cyc s) := by
  unfold execVbdec
  refine ResKept.next ?_
  refine State.vecIssue_kept h (fun _ _ k1 => ?_)
  exact State.vbdec_kept k1

theorem State.vnms_kept (h : Kept a s) {st w} : Kept a (State.vnms s st w) := by
  unfold State.vnms
  extract_lets -merge -underBinder +onlyGivenNames t1 p2 nb3 mx4 vals5 boxes6 sc7 c8 ts9 elig10
  extract_lets -merge -underBinder +onlyGivenNames order11 kept12
  exact State.wr_kept (State.setVreg_kept h)

theorem execVnms_kept (h : Kept a s) {st cyc} : ResKept a (execVnms st cyc s) := by
  unfold execVnms
  refine ResKept.next ?_
  refine State.vecIssue_kept h (fun _ _ k1 => ?_)
  exact State.vnms_kept k1

theorem State.vtopk_kept (h : Kept a s) {st w} : Kept a (State.vtopk s st w) := by
  unfold State.vtopk
  extract_lets -merge -underBinder +onlyGivenNames t1 p2 k3 old4 new5 all6 top7 pad8 s9
  have hs9 : Kept a s9 := State.setVreg_kept h
  clear_value s9
  exact State.setVreg_kept hs9

theorem execVtopk_kept (h : Kept a s) {st cyc} : ResKept a (execVtopk st cyc s) := by
  unfold execVtopk
  refine ResKept.next ?_
  refine State.vecIssue_kept h (fun _ _ k1 => ?_)
  exact State.vtopk_kept k1

end Sys2Proof.Machine
end

