-- ==== Sys2Proof/Laws/KeptAttn.lean ====
section
/-! SUPPORT. What the operations of Machine/Attn.lean keep. -/

namespace Sys2Proof.Machine

variable {a s : State}

theorem State.seqEnt_kept (h : Kept a s) {t q} : Kept a (State.seqEnt s t q).2 := by
  unfold State.seqEnt
  extract_lets -merge -underBinder +onlyGivenNames r1
  have hr1 : Kept a r1.2 := State.dramRead_kept h
  clear_value r1
  extract_lets -merge -underBinder +onlyGivenNames b2
  exact snd_mk (P := Kept a) (hr1)

theorem State.translate_kept (h : Kept a s) {t e seq gen tr lp} : Kept a (State.translate s t e seq gen tr lp).2 := by
  unfold State.translate
  refine ite_of (P := fun r => Kept a (Prod.snd r)) (fun _ => ?_) (fun _ => ?_)
  · exact snd_mk (P := Kept a) (h)
  · extract_lets -merge -underBinder +onlyGivenNames same1
    split
    · extract_lets -merge -underBinder +onlyGivenNames s2
      have hs2 : Kept a s2 := State.onAtt_kept h
      clear_value s2
      exact snd_mk (P := Kept a) (State.bump_kept hs2)
    · extract_lets -merge -underBinder +onlyGivenNames s3
      have hs3 : Kept a s3 := State.bump_kept h
      clear_value s3
      extract_lets -merge -underBinder +onlyGivenNames r14
      have hr14 : Kept a r14.2 := State.dramRead_kept hs3
      clear_value r14
      extract_lets -merge -underBinder +onlyGivenNames s5
      have hs5 : Kept a s5 := hr14
      clear_value s5
      extract_lets -merge -underBinder +onlyGivenNames l16
      refine ite_of (P := fun r => Kept a (Prod.snd r)) (fun _ => ?_) (fun _ => ?_)
      · exact snd_mk (P := Kept a) (hs5)
      · refine ite_of (P := fun r => Kept a (Prod.snd r)) (fun _ => ?_) (fun _ => ?_)
        · exact snd_mk (P := Kept a) (hs5)
        · extract_lets -merge -underBinder +onlyGivenNames r27
          have hr27 : Kept a r27.2 := State.dramRead_kept hs5
          clear_value r27
          extract_lets -merge -underBinder +onlyGivenNames s8
          have hs8 : Kept a s8 := hr27
          clear_value s8
          extract_lets -merge -underBinder +onlyGivenNames l29
          refine ite_of (P := fun r => Kept a (Prod.snd r)) (fun _ => ?_) (fun _ => ?_)
          · exact snd_mk (P := Kept a) (hs8)
          · refine ite_of (P := fun r => Kept a (Prod.snd r)) (fun _ => ?_) (fun _ => ?_)
            · exact snd_mk (P := Kept a) (hs8)
            · extract_lets -merge -underBinder +onlyGivenNames x10
              exact snd_mk (P := Kept a) (State.onAtt_kept hs8)

theorem State.tsRows_kept {s : State} (h : Kept a s) {t ax ax1} : Kept a (State.tsRows s t ax ax1).2 := by
  unfold State.tsRows
  split
  · exact snd_mk (P := Kept a) (h)
  · split
    · have k2 := snd_of (by assumption) (State.readTs_kept h)
      exact snd_mk (P := Kept a) (k2)
    · have k3 := snd_of (by assumption) (State.readTs_kept h)
      split
      · have k4 := snd_of (by assumption) (State.tsRows_kept k3)
        exact snd_mk (P := Kept a) (k4)
      · have k5 := snd_of (by assumption) (State.tsRows_kept k3)
        exact snd_mk (P := Kept a) (k5)

theorem State.tsPut_kept (h : Kept a s) {ax b} : Kept a (State.tsPut s ax b) := by
  unfold State.tsPut
  exact State.clearMarks_kept (State.st_kept h)

theorem State.nextEntry_kept (h : Kept a s) {t x} : Kept a (State.nextEntry s t x) := by
  unfold State.nextEntry
  extract_lets -merge -underBinder +onlyGivenNames i1
  refine ite_of (P := Kept a) (fun _ => ?_) (fun _ => ?_)
  · exact State.wr_kept h
  · refine ite_of (P := Kept a) (fun _ => ?_) (fun _ => ?_)
    · exact State.wrs_kept h
    · exact State.onAtt_kept h

theorem State.setEntryStatus_kept (h : Kept a s) {t x code empty} : Kept a (State.setEntryStatus s t x code empty) := by
  unfold State.setEntryStatus
  extract_lets -merge -underBinder +onlyGivenNames a1 s2
  have hs2 : Kept a s2 := State.st_kept (State.st_kept h)
  clear_value s2
  refine ite_of (P := Kept a) (fun _ => ?_) (fun _ => ?_)
  · refine ite_of (P := Kept a) (fun _ => ?_) (fun _ => ?_)
    · exact hs2
    · apply Kept.keepF hs2; exact fun _ => rfl
  · extract_lets -merge -underBinder +onlyGivenNames s3
    have hs3 : Kept a s3 := State.firstLog_kept hs2
    clear_value s3
    apply Kept.keepF hs3; exact fun _ => rfl

theorem State.endEntry_kept (h : Kept a s) {t x code empty} : Kept a (State.endEntry s t x code empty) := by
  unfold State.endEntry
  exact State.nextEntry_kept (State.setEntryStatus_kept h)

theorem State.entry_kept (h : Kept a s) {t} : Kept a (State.entry s t).2 := by
  unfold State.entry
  split
  · have k1 := snd_of (by assumption) (State.readTs_kept h)
    exact snd_mk (P := Kept a) (k1)
  · have k2 := snd_of (by assumption) (State.readTs_kept h)
    extract_lets -merge -underBinder +onlyGivenNames b3
    exact snd_mk (P := Kept a) (k2)

theorem State.readPage_kept (h : Kept a s) {t x e lp} : Kept a (State.readPage s t x e lp).2 := by
  unfold State.readPage
  split
  · have k1 := snd_of (by assumption) (State.translate_kept h)
    exact snd_mk (P := Kept a) (k1)
  · have k2 := snd_of (by assumption) (State.translate_kept h)
    exact snd_mk (P := Kept a) (k2)
  · have k3 := snd_of (by assumption) (State.translate_kept h)
    refine ite_of (P := fun r => Kept a (Prod.snd r)) (fun _ => ?_) (fun _ => ?_)
    · exact snd_mk (P := Kept a) (k3)
    · extract_lets -merge -underBinder +onlyGivenNames s4
      have hs4 : Kept a s4 := State.pin_kept (State.pin_kept k3)
      clear_value s4
      extract_lets -merge -underBinder +onlyGivenNames rs5
      have hrs5 : Kept a rs5.2 := State.dramRead_kept hs4
      clear_value rs5
      extract_lets -merge -underBinder +onlyGivenNames s6
      have hs6 : Kept a s6 := hrs5
      clear_value s6
      refine ite_of (P := fun r => Kept a (Prod.snd r)) (fun _ => ?_) (fun _ => ?_)
      · exact snd_mk (P := Kept a) (State.setPoison_kept hs6)
      · extract_lets -merge -underBinder +onlyGivenNames fromDram7
        have hfromDram7 : ∀ y8, Kept a y8 → Kept a (fromDram7 y8).2 := by
          intro y8 k9
          unfold fromDram7
          extract_lets -merge -underBinder +onlyGivenNames r10
          have hr10 : Kept a r10.2 := State.dramRead_kept k9
          clear_value r10
          refine ite_of (P := fun r => Kept a (Prod.snd r)) (fun _ => ?_) (fun _ => ?_)
          · exact snd_mk (P := Kept a) (State.setPoison_kept hr10)
          · exact snd_mk (P := Kept a) (hr10)
        clear_value fromDram7
        split
        · exact hfromDram7 _ (hs6)
        · split
          · have k11 := snd_of (by assumption) (State.tsRows_kept hs6)
            exact snd_mk (P := Kept a) (State.bump_kept k11)
          · have k12 := snd_of (by assumption) (State.tsRows_kept hs6)
            exact hfromDram7 _ (State.wr_kept k12)

theorem State.attendPages_kept {s : State} (h : Kept a s) {t x e mask qs ax ax1} : Kept a (State.attendPages s t x e mask qs ax ax1).2 := by
  unfold State.attendPages
  split
  · exact snd_mk (P := Kept a) (h)
  · split
    · have k2 := snd_of (by assumption) (State.readPage_kept h)
      exact snd_mk (P := Kept a) (k2)
    · have k3 := snd_of (by assumption) (State.readPage_kept h)
      extract_lets -merge -underBinder +onlyGivenNames pg4
      exact State.attendPages_kept k3

theorem State.writeOutputs_kept (h : Kept a s) {t x outs} : Kept a (State.writeOutputs s t x outs) := by
  unfold State.writeOutputs
  extract_lets -merge -underBinder +onlyGivenNames bf1 base2 s3
  have hs3 : Kept a s3 := by
    unfold s3
    refine foldl_of (P := Kept a) ?_ (fun _ _ k4 => ?_)
    · exact h
    · extract_lets -merge -underBinder +onlyGivenNames el5
      refine ite_of (P := Kept a) (fun _ => ?_) (fun _ => ?_)
      · exact State.tsPut_kept k4
      · exact State.tsPut_kept k4
  clear_value s3
  extract_lets -merge -underBinder +onlyGivenNames empties6 map7 s8
  have hs8 : Kept a s8 := State.tsPut_kept hs3
  clear_value s8
  extract_lets -merge -underBinder +onlyGivenNames s9
  have hs9 : Kept a s9 := State.bump_kept hs8
  clear_value s9
  exact State.bump_kept hs9

theorem State.attendRun_kept (h : Kept a s) {t x} : Kept a (State.attendRun s t x) := by
  unfold State.attendRun
  extract_lets -merge -underBinder +onlyGivenNames q1
  have hq1 : Kept a q1.2 := State.tsRows_kept h
  clear_value q1
  extract_lets -merge -underBinder +onlyGivenNames sc2
  have hsc2 : Kept a sc2.2 := State.tsRows_kept hq1
  clear_value sc2
  extract_lets -merge -underBinder +onlyGivenNames mk3
  have hmk3 : Kept a mk3.2 := State.tsRows_kept hsc2
  clear_value mk3
  extract_lets -merge -underBinder +onlyGivenNames s4
  have hs4 : Kept a s4 := hmk3
  clear_value s4
  split
  · extract_lets -merge -underBinder +onlyGivenNames mask5 pages6 qs7 acc08 e9
    have he9 : Kept a e9.2 := State.seqEnt_kept hs4
    clear_value e9
    extract_lets -merge -underBinder +onlyGivenNames r10
    have hr10 : Kept a r10.2 := by
      unfold r10
      refine ite_of (P := fun r => Kept a (Prod.snd r)) (fun _ => ?_) (fun _ => ?_)
      · exact snd_mk (P := Kept a) (hs4)
      · refine ite_of (P := fun r => Kept a (Prod.snd r)) (fun _ => ?_) (fun _ => ?_)
        · exact snd_mk (P := Kept a) (he9)
        · exact State.attendPages_kept he9
    clear_value r10
    split
    · exact State.endEntry_kept (hr10)
    · extract_lets -merge -underBinder +onlyGivenNames outs13
      exact State.endEntry_kept (State.writeOutputs_kept (hr10))
  · exact State.endEntry_kept hs4

theorem State.attend_kept (h : Kept a s) {t} : Kept a (State.attend s t) := by
  unfold State.attend
  refine ite_of (P := Kept a) (fun _ => ?_) (fun _ => ?_)
  · exact h
  · extract_lets -merge -underBinder +onlyGivenNames r1
    have hr1 : Kept a r1.2 := State.entry_kept h
    clear_value r1
    extract_lets -merge -underBinder +onlyGivenNames x2
    refine ite_of (P := Kept a) (fun _ => ?_) (fun _ => ?_)
    · exact h
    · refine ite_of (P := Kept a) (fun _ => ?_) (fun _ => ?_)
      · exact State.endEntry_kept hr1
      · refine ite_of (P := Kept a) (fun _ => ?_) (fun _ => ?_)
        · exact State.endEntry_kept hr1
        · refine ite_of (P := Kept a) (fun _ => ?_) (fun _ => ?_)
          · exact h
          · exact State.attendRun_kept hr1

theorem execAttendEntry_kept (h : Kept a s) {t} : ResKept a (execAttendEntry t s) := by
  unfold execAttendEntry
  exact ResKept.next (State.attend_kept h)

theorem State.debitCopy_kept (h : Kept a s) {seq lp ppn} : Kept a (State.debitCopy s seq lp ppn) := by
  unfold State.debitCopy
  extract_lets -merge -underBinder +onlyGivenNames l1
  split
  · exact h
  · unfold l1; apply Kept.keepF h; exact fun _ => rfl

theorem State.cow_kept (h : Kept a s) {t x e lp ppn} : Kept a (State.cow s t x e lp ppn).2 := by
  unfold State.cow
  refine ite_of (P := fun r => Kept a (Prod.snd r)) (fun _ => ?_) (fun _ => ?_)
  · exact snd_mk (P := Kept a) (h)
  · extract_lets -merge -underBinder +onlyGivenNames r1
    have hr1 : Kept a r1.2 := State.dramRead_kept h
    clear_value r1
    refine ite_of (P := fun r => Kept a (Prod.snd r)) (fun _ => ?_) (fun _ => ?_)
    · exact snd_mk (P := Kept a) (State.setPoison_kept hr1)
    · extract_lets -merge -underBinder +onlyGivenNames n2
      have hn2 : Kept a n2.2 := State.takePage_kept hr1
      clear_value n2
      extract_lets -merge -underBinder +onlyGivenNames s3
      have hs3 : Kept a s3 := State.dramWrite_kept hn2
      clear_value s3
      extract_lets -merge -underBinder +onlyGivenNames l14 a5 l26 s7
      have hs7 : Kept a s7 := State.stN_kept hs3
      clear_value s7
      extract_lets -merge -underBinder +onlyGivenNames s8
      have hs8 : Kept a s8 := State.labDrop_kept hs7
      clear_value s8
      exact snd_mk (P := Kept a) (State.bump_kept (State.dropRef_kept (State.debitCopy_kept hs8)))

theorem State.pagePut_kept (h : Kept a s) {t ppn off b} : Kept a (State.pagePut s t ppn off b) := by
  unfold State.pagePut
  extract_lets -merge -underBinder +onlyGivenNames s1
  have hs1 : Kept a s1 := State.dramWrite_kept h
  clear_value s1
  refine foldl_of (P := Kept a) ?_ (fun _ _ k2 => ?_)
  · exact hs1
  · refine ite_of (P := Kept a) (fun _ => ?_) (fun _ => ?_)
    · exact State.tsPut_kept k2
    · exact k2

theorem State.appendPos_kept (h : Kept a s) {t x kb vb sb ppn sppn n} : Kept a (State.appendPos s t x kb vb sb ppn sppn n) := by
  unfold State.appendPos
  extract_lets -merge -underBinder +onlyGivenNames pos1 at'2 s3
  have hs3 : Kept a s3 := State.pagePut_kept h
  clear_value s3
  extract_lets -merge -underBinder +onlyGivenNames s4
  have hs4 : Kept a s4 := State.pagePut_kept hs3
  clear_value s4
  extract_lets -merge -underBinder +onlyGivenNames o5 s6
  have hs6 : Kept a s6 := State.dramWrite_kept hs4
  clear_value s6
  exact State.dramWrite_kept hs6

theorem State.trAll_kept {s : State} (h : Kept a s) {t x e ax} : Kept a (State.trAll s t x e ax).2 := by
  unfold State.trAll
  split
  · exact snd_mk (P := Kept a) (h)
  · split
    · have k1 := snd_of (by assumption) (State.translate_kept h)
      exact snd_mk (P := Kept a) (k1)
    · have k2 := snd_of (by assumption) (State.translate_kept h)
      exact snd_mk (P := Kept a) (k2)
    · have k3 := snd_of (by assumption) (State.translate_kept h)
      split
      · have k4 := snd_of (by assumption) (State.trAll_kept k3)
        exact snd_mk (P := Kept a) (k4)
      · exact (State.trAll_kept k3)

theorem State.cowAll_kept {s : State} (h : Kept a s) {t x e ax} : Kept a (State.cowAll s t x e ax).2 := by
  unfold State.cowAll
  split
  · exact snd_mk (P := Kept a) (h)
  · split
    · have k1 := snd_of (by assumption) (State.cow_kept h)
      exact snd_mk (P := Kept a) (k1)
    · have k2 := snd_of (by assumption) (State.cow_kept h)
      split
      · have k3 := snd_of (by assumption) (State.cowAll_kept k2)
        exact snd_mk (P := Kept a) (k3)
      · exact (State.cowAll_kept k2)

theorem State.appendRun_kept (h : Kept a s) {t x} : Kept a (State.appendRun s t x) := by
  unfold State.appendRun
  extract_lets -merge -underBinder +onlyGivenNames k1
  have hk1 : Kept a k1.2 := State.tsRows_kept h
  clear_value k1
  extract_lets -merge -underBinder +onlyGivenNames v2
  have hv2 : Kept a v2.2 := State.tsRows_kept hk1
  clear_value v2
  extract_lets -merge -underBinder +onlyGivenNames sc3
  have hsc3 : Kept a sc3.2 := State.tsRows_kept hv2
  clear_value sc3
  extract_lets -merge -underBinder +onlyGivenNames e4
  have he4 : Kept a e4.2 := State.seqEnt_kept hsc3
  clear_value e4
  extract_lets -merge -underBinder +onlyGivenNames s5
  have hs5 : Kept a s5 := he4
  clear_value s5
  split
  · refine ite_of (P := Kept a) (fun _ => ?_) (fun _ => ?_)
    · exact State.endEntry_kept hs5
    · refine ite_of (P := Kept a) (fun _ => ?_) (fun _ => ?_)
      · exact State.endEntry_kept hs5
      · extract_lets -merge -underBinder +onlyGivenNames first6 last7
        split
        · have k8 := snd_of (by assumption) (State.trAll_kept hs5)
          exact State.endEntry_kept k8
        · have k9 := snd_of (by assumption) (State.trAll_kept hs5)
          refine ite_of (P := Kept a) (fun _ => ?_) (fun _ => ?_)
          · exact State.endEntry_kept k9
          · refine ite_of (P := Kept a) (fun _ => ?_) (fun _ => ?_)
            · exact State.endEntry_kept k9
            · split
              · have k10 := snd_of (by assumption) (State.cowAll_kept k9)
                exact State.endEntry_kept k10
              · have k11 := snd_of (by assumption) (State.cowAll_kept k9)
                extract_lets -merge -underBinder +onlyGivenNames s12
                have hs12 : Kept a s12 := by
                  unfold s12
                  refine foldl_of (P := Kept a) ?_ (fun _ _ k13 => ?_)
                  · exact k11
                  · split
                    · exact State.appendPos_kept k13
                    · exact k13
                clear_value s12
                exact State.endEntry_kept hs12
  · exact State.endEntry_kept hs5

theorem State.append_kept (h : Kept a s) {t} : Kept a (State.append s t) := by
  unfold State.append
  refine ite_of (P := Kept a) (fun _ => ?_) (fun _ => ?_)
  · exact h
  · extract_lets -merge -underBinder +onlyGivenNames r1
    have hr1 : Kept a r1.2 := State.entry_kept h
    clear_value r1
    extract_lets -merge -underBinder +onlyGivenNames x2
    refine ite_of (P := Kept a) (fun _ => ?_) (fun _ => ?_)
    · exact h
    · refine ite_of (P := Kept a) (fun _ => ?_) (fun _ => ?_)
      · exact State.endEntry_kept hr1
      · refine ite_of (P := Kept a) (fun _ => ?_) (fun _ => ?_)
        · exact State.endEntry_kept hr1
        · refine ite_of (P := Kept a) (fun _ => ?_) (fun _ => ?_)
          · exact h
          · exact State.appendRun_kept hr1

theorem execAppendEntry_kept (h : Kept a s) {t} : ResKept a (execAppendEntry t s) := by
  unfold execAppendEntry
  exact ResKept.next (State.append_kept h)

theorem State.jobStart_kept (h : Kept a s) {t} : Kept a (State.jobStart s t) := by
  unfold State.jobStart
  refine ite_of (P := Kept a) (fun _ => ?_) (fun _ => ?_)
  · exact h
  · split
    · exact h
    · extract_lets -merge -underBinder +onlyGivenNames row1 s2
      have hs2 : Kept a s2 := State.wrs_kept h
      clear_value s2
      exact State.onAtt_kept hs2

theorem execAttentionJobStart_kept (h : Kept a s) {t} : ResKept a (execAttentionJobStart t s) := by
  unfold execAttentionJobStart
  exact ResKept.next (State.jobStart_kept h)

theorem State.jobDone_kept (h : Kept a s) {t} : Kept a (State.jobDone s t) := by
  unfold State.jobDone
  refine ite_of (P := Kept a) (fun _ => ?_) (fun _ => ?_)
  · extract_lets -merge -underBinder +onlyGivenNames f1 s2
    have hs2 : Kept a s2 := State.wr_kept h
    clear_value s2
    exact State.onAtt_kept (State.wr_kept hs2)
  · exact h

theorem execAttentionJobDone_kept (h : Kept a s) {t} : ResKept a (execAttentionJobDone t s) := by
  unfold execAttentionJobDone
  exact ResKept.next (State.jobDone_kept h)

theorem State.timeoutEntries_kept {s : State} (h : Kept a s) {t n} : Kept a (State.timeoutEntries s t n) := by
  induction n generalizing s with
  | zero => exact h
  | succ n ih =>
    rw [State.timeoutEntries]
    exact ite_of (P := Kept a) (fun _ => ih (State.endEntry_kept (State.entry_kept h))) fun _ => h

theorem State.attAbandon_kept (h : Kept a s) {t} : Kept a (State.attAbandon s t) := by
  unfold State.attAbandon
  refine ite_of (P := Kept a) (fun _ => ?_) (fun _ => ?_)
  · extract_lets -merge -underBinder +onlyGivenNames s1
    have hs1 : Kept a s1 := State.timeoutEntries_kept h
    clear_value s1
    exact State.onAtt_kept (State.wr_kept hs1)
  · exact h

theorem State.attTide_kept (h : Kept a s) {t} : Kept a (State.attTide s t) := by
  unfold State.attTide
  refine foldl_of (P := Kept a) ?_ (fun _ _ k1 => ?_)
  · exact h
  · exact State.wr_kept k1

end Sys2Proof.Machine
end

