-- ==== Sys2Proof/Laws/KeptNand.lean ====
section
/-! SUPPORT. What the operations of Machine/Nand.lean keep. -/

namespace Sys2Proof.Machine

variable {a s : State}

theorem State.onNand_kept (h : Kept a s) {f} : Kept a (State.onNand s f) := by
  unfold State.onNand
  apply Kept.keepF h; exact fun _ => rfl

theorem State.enterReadOnly_kept (h : Kept a s) : Kept a (State.enterReadOnly s) := by
  unfold State.enterReadOnly
  refine ite_of (P := Kept a) (fun _ => ?_) (fun _ => ?_)
  · exact h
  · exact State.logEntry_kept (State.postEvent_kept (State.wr_kept h))

theorem State.showWear_kept (h : Kept a s) : Kept a (State.showWear s) := by
  unfold State.showWear
  extract_lets -merge -underBinder +onlyGivenNames l1 mx2 mean3 s4
  have hs4 : Kept a s4 := State.wrs_kept h
  clear_value s4
  refine ite_of (P := Kept a) (fun _ => ?_) (fun _ => ?_)
  · exact State.enterReadOnly_kept hs4
  · exact hs4

theorem State.closeRow_kept (h : Kept a s) {stripe sb pg dies} : Kept a (State.closeRow s stripe sb pg dies) := by
  unfold State.closeRow
  extract_lets -merge -underBinder +onlyGivenNames key1 par2
  exact State.onNand_kept h

theorem State.openRow_kept (h : Kept a s) {stripe most} : Kept a (State.openRow s stripe most).2 := by
  unfold State.openRow
  split
  · exact snd_mk (P := Kept a) (h)
  · split
    · exact snd_mk (P := Kept a) (h)
    · exact snd_mk (P := Kept a) (State.onNand_kept h)

theorem State.putInto_kept (h : Kept a s) {stripe most b} : Kept a (State.putInto s stripe most b).2 := by
  unfold State.putInto
  split
  · have k1 := snd_of (by assumption) (State.openRow_kept h)
    exact snd_mk (P := Kept a) (k1)
  · have k2 := snd_of (by assumption) (State.openRow_kept h)
    split
    · exact snd_mk (P := Kept a) (k2)
    · extract_lets -merge -underBinder +onlyGivenNames k3 s4
      have hs4 : Kept a s4 := State.onNand_kept k2
      clear_value s4
      extract_lets -merge -underBinder +onlyGivenNames s5
      have hs5 : Kept a s5 := by
        unfold s5
        refine ite_of (P := Kept a) (fun _ => ?_) (fun _ => ?_)
        · exact State.closeRow_kept hs4
        · exact hs4
      clear_value s5
      exact snd_mk (P := Kept a) (hs5)

theorem State.nandPut_kept (h : Kept a s) {b} : Kept a (State.nandPut s b).2 := by
  unfold State.nandPut
  extract_lets -merge -underBinder +onlyGivenNames used1 i2
  split
  · have k3 := snd_of (by assumption) (State.putInto_kept h)
    exact snd_mk (P := Kept a) (k3)
  · have k4 := snd_of (by assumption) (State.putInto_kept h)
    refine ite_of (P := fun r => Kept a (Prod.snd r)) (fun _ => ?_) (fun _ => ?_)
    · exact State.putInto_kept k4
    · exact snd_mk (P := Kept a) (k4)

theorem State.nandMove_kept (h : Kept a s) {stripe most k} : Kept a (State.nandMove s stripe most k) := by
  unfold State.nandMove
  extract_lets -merge -underBinder +onlyGivenNames b1 r2
  have hr2 : Kept a r2.2 := by
    unfold r2
    split
    · exact State.putInto_kept h
    · exact State.nandPut_kept h
  clear_value r2
  split
  · exact Kept.keep (hr2) rfl
  · exact (hr2)

theorem State.badBlock_kept (h : Kept a s) {die plane sb} : Kept a (State.badBlock s die plane sb) := by
  unfold State.badBlock
  extract_lets -merge -underBinder +onlyGivenNames pl1 used2 s3
  have hs3 : Kept a s3 := State.logEntry_kept (State.bump_kept h)
  clear_value s3
  extract_lets -merge -underBinder +onlyGivenNames s4
  have hs4 : Kept a s4 := State.onNand_kept hs3
  clear_value s4
  extract_lets -merge -underBinder +onlyGivenNames s5
  have hs5 : Kept a s5 := State.wr_kept hs4
  clear_value s5
  refine ite_of (P := Kept a) (fun _ => ?_) (fun _ => ?_)
  · exact State.enterReadOnly_kept hs5
  · exact hs5

theorem State.dieOp_kept (h : Kept a s) {d failed} : Kept a (State.dieOp s d failed) := by
  unfold State.dieOp
  extract_lets -merge -underBinder +onlyGivenNames n1 s2
  have hs2 : Kept a s2 := State.onNand_kept h
  clear_value s2
  refine ite_of (P := Kept a) (fun _ => ?_) (fun _ => ?_)
  · exact State.logEntry_kept (State.wr_kept hs2)
  · exact hs2

theorem State.eraseSuper_kept (h : Kept a s) {k} : Kept a (State.eraseSuper s k) := by
  unfold State.eraseSuper
  exact State.showWear_kept (State.onNand_kept h)

theorem State.eraseMoved_kept (h : Kept a s) {k} : Kept a (State.eraseMoved s k) := by
  unfold State.eraseMoved
  refine ite_of (P := Kept a) (fun _ => ?_) (fun _ => ?_)
  · extract_lets -merge -underBinder +onlyGivenNames f1
    have hf1 : Kept a f1.2 := State.free_kept h
    clear_value f1
    refine foldl_of (P := Kept a) ?_ (fun _ _ k2 => ?_)
    · exact State.eraseSuper_kept hf1
    · refine ite_of (P := Kept a) (fun _ => ?_) (fun _ => ?_)
      · exact State.badBlock_kept (State.dieOp_kept k2)
      · exact k2
  · exact h

theorem State.nandReclaim_kept (h : Kept a s) : Kept a (State.nandReclaim s) := by
  unfold State.nandReclaim
  refine ite_of (P := Kept a) (fun _ => ?_) (fun _ => ?_)
  · exact h
  · extract_lets -merge -underBinder +onlyGivenNames n1
    split
    · exact h
    · refine State.eraseMoved_kept ?_
      refine foldl_of (P := Kept a) ?_ (fun _ _ k2 => ?_)
      · exact h
      · exact State.nandMove_kept k2

theorem execNandReclaim_kept (h : Kept a s) : ResKept a (execNandReclaim s) := by
  unfold execNandReclaim
  exact ResKept.next (State.nandReclaim_kept h)

theorem State.queueReloc_kept (h : Kept a s) {b} : Kept a (State.queueReloc s b) := by
  unfold State.queueReloc
  refine ite_of (P := Kept a) (fun _ => ?_) (fun _ => ?_)
  · exact h
  · exact State.onNand_kept h

theorem State.nandRelocate_kept (h : Kept a s) : Kept a (State.nandRelocate s) := by
  unfold State.nandRelocate
  split
  · exact h
  · extract_lets -merge -underBinder +onlyGivenNames s1
    have hs1 : Kept a s1 := State.onNand_kept h
    clear_value s1
    refine State.bump_kept ?_
    refine foldl_of (P := Kept a) ?_ (fun _ _ k2 => ?_)
    · exact hs1
    · exact State.nandMove_kept k2

theorem execNandRelocate_kept (h : Kept a s) : ResKept a (execNandRelocate s) := by
  unfold execNandRelocate
  exact ResKept.next (State.nandRelocate_kept h)

theorem State.countRead_kept (h : Kept a s) {b} : Kept a (State.countRead s b) := by
  unfold State.countRead
  extract_lets -merge -underBinder +onlyGivenNames n1 s2
  have hs2 : Kept a s2 := State.onNand_kept h
  clear_value s2
  refine ite_of (P := Kept a) (fun _ => ?_) (fun _ => ?_)
  · exact State.queueReloc_kept hs2
  · exact hs2

theorem State.cwRead_kept (h : Kept a s) {b how corrected} : Kept a (State.cwRead s b how corrected) := by
  unfold State.cwRead
  extract_lets -merge -underBinder +onlyGivenNames d1 s2
  have hs2 : Kept a s2 := State.countRead_kept h
  clear_value s2
  extract_lets -merge -underBinder +onlyGivenNames s3
  have hs3 : Kept a s3 := State.dieOp_kept hs2
  clear_value s3
  extract_lets -merge -underBinder +onlyGivenNames s4
  have hs4 : Kept a s4 := by
    unfold s4
    refine ite_of (P := Kept a) (fun _ => ?_) (fun _ => ?_)
    · exact hs3
    · refine foldl_of (P := Kept a) ?_ (fun _ _ k5 => ?_)
      · exact hs3
      · exact State.countRead_kept k5
  clear_value s4
  extract_lets -merge -underBinder +onlyGivenNames s6
  have hs6 : Kept a s6 := by
    unfold s6
    refine ite_of (P := Kept a) (fun _ => ?_) (fun _ => ?_)
    · exact State.bump_kept hs4
    · refine ite_of (P := Kept a) (fun _ => ?_) (fun _ => ?_)
      · exact State.logEntry_kept (State.bump_kept hs4)
      · refine ite_of (P := Kept a) (fun _ => ?_) (fun _ => ?_)
        · exact State.bump_kept hs4
        · exact hs4
  clear_value s6
  refine ite_of (P := Kept a) (fun _ => ?_) (fun _ => ?_)
  · exact State.queueReloc_kept hs6
  · exact hs6

theorem execNandCodewordRead_kept (h : Kept a s) {stripe sb pg die cw how corrected} : ResKept a (execNandCodewordRead stripe sb pg die cw how corrected s) := by
  unfold execNandCodewordRead
  extract_lets -merge -underBinder +onlyGivenNames k1
  refine ite_of (P := ResKept a) (fun _ => ?_) (fun _ => ?_)
  · exact ResKept.next (h)
  · extract_lets -merge -underBinder +onlyGivenNames h2 s3
    have hs3 : Kept a s3 := State.cwRead_kept h
    clear_value s3
    refine ResKept.next ?_
    apply Kept.keepF hs3; exact fun _ => rfl

theorem State.retryRead_kept (h : Kept a s) {k e cw ok soft} : Kept a (State.retryRead s k e cw ok soft) := by
  unfold State.retryRead
  refine ite_of (P := Kept a) (fun _ => ?_) (fun _ => ?_)
  · exact h
  · extract_lets -merge -underBinder +onlyGivenNames b1 s2
    have hs2 : Kept a s2 := State.dieOp_kept (State.countRead_kept h)
    clear_value s2
    refine ite_of (P := Kept a) (fun _ => ?_) (fun _ => ?_)
    · extract_lets -merge -underBinder +onlyGivenNames s3
      have hs3 : Kept a s3 := by
        unfold s3
        refine ite_of (P := Kept a) (fun _ => ?_) (fun _ => ?_)
        · exact State.bump_kept hs2
        · exact hs2
      clear_value s3
      extract_lets -merge -underBinder +onlyGivenNames s4
      have hs4 : Kept a s4 := State.queueReloc_kept (State.onNand_kept hs3)
      clear_value s4
      apply Kept.keepF hs4; exact fun _ => rfl
    · apply Kept.keepF hs2; exact fun _ => rfl

theorem execNandRetryRead_kept (h : Kept a s) {stripe sb pg die cw e ok soft} : ResKept a (execNandRetryRead stripe sb pg die cw e ok soft s) := by
  unfold execNandRetryRead
  exact ResKept.next (State.retryRead_kept h)

theorem State.nandProgram_kept (h : Kept a s) {stripe die plane ok} : Kept a (State.nandProgram s stripe die plane ok) := by
  unfold State.nandProgram
  refine ite_of (P := Kept a) (fun _ => ?_) (fun _ => ?_)
  · exact h
  · extract_lets -merge -underBinder +onlyGivenNames s1
    have hs1 : Kept a s1 := State.dieOp_kept h
    clear_value s1
    refine ite_of (P := Kept a) (fun _ => ?_) (fun _ => ?_)
    · exact hs1
    · split
      · exact hs1
      · extract_lets -merge -underBinder +onlyGivenNames s2
        have hs2 : Kept a s2 := State.badBlock_kept hs1
        clear_value s2
        refine ite_of (P := Kept a) (fun _ => ?_) (fun _ => ?_)
        · extract_lets -merge -underBinder +onlyGivenNames s3
          have hs3 : Kept a s3 := State.closeRow_kept hs2
          clear_value s3
          exact State.nandMove_kept hs3
        · exact hs2

theorem execNandProgram_kept (h : Kept a s) {stripe die plane ok} : ResKept a (execNandProgram stripe die plane ok s) := by
  unfold execNandProgram
  exact ResKept.next (State.nandProgram_kept h)

theorem State.nandPatrol_kept (h : Kept a s) {b how corrected} : Kept a (State.nandPatrol s b how corrected) := by
  unfold State.nandPatrol
  refine ite_of (P := Kept a) (fun _ => ?_) (fun _ => ?_)
  · exact h
  · exact State.cwRead_kept (State.onNand_kept h)

theorem execNandPatrol_kept (h : Kept a s) {die sb how corrected} : ResKept a (execNandPatrol die sb how corrected s) := by
  unfold execNandPatrol
  exact ResKept.next (State.nandPatrol_kept h)

theorem State.nandWearLevel_kept (h : Kept a s) : Kept a (State.nandWearLevel s) := by
  unfold State.nandWearLevel
  extract_lets -merge -underBinder +onlyGivenNames er1 l2
  clear_value l2
  split
  · exact h
  · extract_lets -merge -underBinder +onlyGivenNames lo3 hi4
    refine ite_of (P := Kept a) (fun _ => ?_) (fun _ => ?_)
    · exact h
    · extract_lets -merge -underBinder +onlyGivenNames s5
      have hs5 : Kept a s5 := by
        unfold s5
        split
        · refine ite_of (P := Kept a) (fun _ => ?_) (fun _ => ?_)
          · exact h
          · exact State.closeRow_kept h
        · exact h
      clear_value s5
      extract_lets -merge -underBinder +onlyGivenNames s6
      have hs6 : Kept a s6 := State.onNand_kept hs5
      clear_value s6
      refine State.eraseMoved_kept ?_
      refine foldl_of (P := Kept a) ?_ (fun _ _ k7 => ?_)
      · exact hs6
      · exact State.nandMove_kept k7

theorem execNandWearLevel_kept (h : Kept a s) : ResKept a (execNandWearLevel s) := by
  unfold execNandWearLevel
  exact ResKept.next (State.nandWearLevel_kept h)

end Sys2Proof.Machine
end

