-- ==== Sys2Proof/Laws/KeptPool.lean ====
section
/-! SUPPORT. What the operations of Machine/Pool.lean keep. -/

namespace Sys2Proof.Machine

variable {a s : State}

theorem State.onPages_kept (h : Kept a s) {f} : Kept a (State.onPages s f) := by
  unfold State.onPages
  apply Kept.keepF h; exact fun _ => rfl

theorem State.onPage_kept (h : Kept a s) {q f} : Kept a (State.onPage s q f) := by
  unfold State.onPage
  exact State.onPages_kept h

theorem State.onModel_kept (h : Kept a s) {handle f} : Kept a (State.onModel s handle f) := by
  unfold State.onModel
  apply Kept.keepF h; exact fun _ => rfl

theorem State.layerRead_kept {s : State} (h : Kept a s) {port m l ax ax1 ax2} : Kept a (State.layerRead s port m l ax ax1 ax2).2 := by
  unfold State.layerRead
  split
  · exact snd_mk (P := Kept a) (h)
  · refine ite_of (P := fun r => Kept a (Prod.snd r)) (fun _ => ?_) (fun _ => ?_)
    · exact snd_mk (P := Kept a) (h)
    · extract_lets -merge -underBinder +onlyGivenNames k3
      split
      · exact snd_mk (P := Kept a) (h)
      · split
        · exact snd_mk (P := Kept a) (h)
        · refine ite_of (P := fun r => Kept a (Prod.snd r)) (fun _ => ?_) (fun _ => ?_)
          · exact snd_mk (P := Kept a) (h)
          · extract_lets -merge -underBinder +onlyGivenNames s4
            have hs4 : Kept a s4 := State.onPage_kept h
            clear_value s4
            extract_lets -merge -underBinder +onlyGivenNames r5
            have hr5 : Kept a r5.2 := State.dramRead_kept hs4
            clear_value r5
            extract_lets -merge -underBinder +onlyGivenNames q6
            have hq6 : Kept a q6.2 := State.layerRead_kept hr5
            clear_value q6
            exact snd_mk (P := Kept a) (hq6)

theorem State.register_kept (h : Kept a s) {c kind} : Kept a (State.register s c kind) := by
  unfold State.register
  exact State.wrs_kept h

theorem State.unregister_kept (h : Kept a s) {c} : Kept a (State.unregister s c) := by
  unfold State.unregister
  exact State.wrs_kept h

theorem State.writeHome_kept (h : Kept a s) {p} : Kept a (State.writeHome s p) := by
  unfold State.writeHome
  split
  · exact h
  · extract_lets -merge -underBinder +onlyGivenNames b1
    split
    · have k2 := snd_of (by assumption) (State.nandPut_kept h)
      exact State.bump_kept (State.onPage_kept k2)
    · have k3 := snd_of (by assumption) (State.nandPut_kept h)
      exact k3

theorem State.evictPage_kept (h : Kept a s) {p} : Kept a (State.evictPage s p) := by
  unfold State.evictPage
  exact State.books_kept (State.bump_kept (State.onPage_kept h))

theorem State.evictOne_kept (h : Kept a s) {t} (x : s.evictOne = some t) : Kept a t := by
  unfold State.evictOne at x
  have hr {t} (x : ((s.candidatePage fun p => p.t2.isSome).map fun p => s.evictPage p) = some t) : Kept a t := by
    obtain ⟨p, -, rfl⟩ := Option.map_eq_some_iff.1 x
    exact State.evictPage_kept h
  split at x
  · cases x
  · split at x
    · cases x; exact State.evictPage_kept h
    · split at x
      · exact hr x
      · split at x
        · exact hr x
        · cases x; exact State.evictPage_kept (State.writeHome_kept h)

theorem State.freePage_kept (h : Kept a s) {prot} : Kept a (State.freePage s prot).2 := by
  unfold State.freePage
  extract_lets -merge -underBinder +onlyGivenNames f1
  have hf1 : Kept a f1.2 := State.free_kept h
  clear_value f1
  extract_lets -merge -underBinder +onlyGivenNames s2
  have hs2 : Kept a s2 := hf1
  clear_value s2
  extract_lets -merge -underBinder +onlyGivenNames n3 r4
  exact snd_mk (P := Kept a) (hs2)

theorem State.makeRoom_kept {s : State} (h : Kept a s) {n k f t} (x : s.makeRoom n k f = some t) : Kept a t := by
  induction f generalizing s with
  | zero =>
    rw [State.makeRoom] at x
    split at x
    · cases x; exact h
    · cases x
  | succ f ih =>
    rw [State.makeRoom] at x
    split at x
    · cases x; exact h
    · split at x
      · cases x
      · exact ih (State.evictOne_kept h (by assumption)) x

theorem State.storePages_kept (h : Kept a s) {client key ver prot idx n b} : Kept a (State.storePages s client key ver prot idx n b) := by
  unfold State.storePages
  refine foldl_of (P := fun r => Kept a (Prod.snd r)) ?_ (fun _ _ k1 => ?_)
  · exact snd_mk (P := Kept a) (h)
  · refine ite_of (P := fun r => Kept a (Prod.snd r)) (fun _ => ?_) (fun _ => ?_)
    · split
      · have k2 := snd_of (by assumption) (State.freePage_kept k1)
        exact snd_mk (P := Kept a) (k2)
      · have k3 := snd_of (by assumption) (State.freePage_kept k1)
        extract_lets -merge -underBinder +onlyGivenNames d4 s5
        have hs5 : Kept a s5 := State.dramWrite_kept k3
        clear_value s5
        extract_lets -merge -underBinder +onlyGivenNames src6 s7
        have hs7 : Kept a s7 := by
          unfold s7
          unfold src6; apply Kept.keepF hs5; exact fun _ => rfl
        clear_value s7
        exact snd_mk (P := Kept a) (hs7)
    · exact k1

theorem State.dropPages_kept (h : Kept a s) {f} : Kept a (State.dropPages s f) := by
  unfold State.dropPages
  refine State.books_kept ?_
  refine State.wr_kept ?_
  apply Kept.keepF h; exact fun _ => rfl

theorem State.dropClient_kept (h : Kept a s) {c} : Kept a (State.dropClient s c) := by
  unfold State.dropClient
  exact State.unregister_kept (State.dropPages_kept h)

theorem State.tierFault_kept (h : Kept a s) {cause p} : Kept a (State.tierFault s cause p) := by
  unfold State.tierFault
  exact State.firstLog_kept h

theorem State.refuseSets_kept (h : Kept a s) {f code} : Kept a (State.refuseSets s f code) := by
  unfold State.refuseSets
  extract_lets -merge -underBinder +onlyGivenNames bad1 s2
  have hs2 : Kept a s2 := by
    unfold s2
    refine foldl_of (P := Kept a) ?_ (fun _ _ k3 => ?_)
    · exact h
    · split
      · exact State.complete_kept k3
      · exact k3
  clear_value s2
  refine State.books_kept ?_
  apply Kept.keepF hs2; exact fun _ => rfl

theorem State.poisonLayer_kept (h : Kept a s) {m l} : Kept a (State.poisonLayer s m l) := by
  unfold State.poisonLayer
  refine ite_of (P := Kept a) (fun _ => ?_) (fun _ => ?_)
  · exact h
  · extract_lets -merge -underBinder +onlyGivenNames s1
    have hs1 : Kept a s1 := State.onModel_kept h
    clear_value s1
    extract_lets -merge -underBinder +onlyGivenNames s2
    have hs2 : Kept a s2 := State.tierFault_kept (State.count_kept (State.bump_kept hs1))
    clear_value s2
    extract_lets -merge -underBinder +onlyGivenNames s3
    have hs3 : Kept a s3 := State.logEntry_kept hs2
    clear_value s3
    extract_lets -merge -underBinder +onlyGivenNames s4
    have hs4 : Kept a s4 := State.postEvent_kept hs3
    clear_value s4
    exact State.refuseSets_kept hs4

theorem State.poisonPage_kept (h : Kept a s) {p} : Kept a (State.poisonPage s p) := by
  unfold State.poisonPage
  split
  · exact State.poisonLayer_kept h
  · exact h

theorem State.ageTick_kept (h : Kept a s) : Kept a (State.ageTick s) := by
  unfold State.ageTick
  refine ite_of (P := Kept a) (fun _ => ?_) (fun _ => ?_)
  · exact h
  · extract_lets -merge -underBinder +onlyGivenNames s1
    have hs1 : Kept a s1 := State.bump_kept h
    clear_value s1
    extract_lets -merge -underBinder +onlyGivenNames s2
    have hs2 : Kept a s2 := State.onPages_kept hs1
    clear_value s2
    refine State.books_kept ?_
    apply Kept.keepF hs2; exact fun _ => rfl

theorem execAgeTick_kept (h : Kept a s) : ResKept a (execAgeTick s) := by
  unfold execAgeTick
  exact ResKept.next (State.ageTick_kept h)

theorem State.eviction_kept (h : Kept a s) : Kept a (State.eviction s) := by
  unfold State.eviction
  extract_lets -merge -underBinder +onlyGivenNames free1 pool2 go3 src4 s5
  have hs5 : Kept a s5 := by
    unfold s5
    unfold go3 src4; apply Kept.keepF h; exact fun _ => rfl
  clear_value s5
  refine ite_of (P := Kept a) (fun _ => ?_) (fun _ => ?_)
  · exact hs5
  · split
    · exact hs5
    · refine ite_of (P := Kept a) (fun _ => ?_) (fun _ => ?_)
      · exact State.evictPage_kept hs5
      · exact State.onPage_kept hs5

theorem execEviction_kept (h : Kept a s) : ResKept a (execEviction s) := by
  unfold execEviction
  exact ResKept.next (State.eviction_kept h)

theorem State.writebackDone_kept (h : Kept a s) : Kept a (State.writebackDone s) := by
  unfold State.writebackDone
  split
  · exact h
  · refine ite_of (P := Kept a) (fun _ => ?_) (fun _ => ?_)
    · exact State.onPage_kept h
    · extract_lets -merge -underBinder +onlyGivenNames s1
      have hs1 : Kept a s1 := State.writeHome_kept h
      clear_value s1
      split
      · exact hs1
      · refine ite_of (P := Kept a) (fun _ => ?_) (fun _ => ?_)
        · exact State.onPage_kept hs1
        · refine ite_of (P := Kept a) (fun _ => ?_) (fun _ => ?_)
          · exact State.books_kept hs1
          · exact State.evictPage_kept hs1

theorem execPageWritebackDone_kept (h : Kept a s) : ResKept a (execPageWritebackDone s) := by
  unfold execPageWritebackDone
  exact ResKept.next (State.writebackDone_kept h)

theorem State.homeCopy_kept (h : Kept a s) : Kept a (State.homeCopy s) := by
  unfold State.homeCopy
  refine ite_of (P := Kept a) (fun _ => ?_) (fun _ => ?_)
  · exact h
  · split
    · exact h
    · exact State.books_kept (State.writeHome_kept h)

theorem execHomeCopyWrite_kept (h : Kept a s) : ResKept a (execHomeCopyWrite s) := by
  unfold execHomeCopyWrite
  exact ResKept.next (State.homeCopy_kept h)

theorem State.readySets_kept (h : Kept a s) : Kept a (State.readySets s) := by
  unfold State.readySets
  extract_lets -merge -underBinder +onlyGivenNames waits1 away2
  unfold away2 waits1; apply Kept.keepF h; exact fun _ => rfl

theorem State.readEvent_kept (h : Kept a s) {how p} : Kept a (State.readEvent s how p) := by
  unfold State.readEvent
  refine ite_of (P := Kept a) (fun _ => ?_) (fun _ => ?_)
  · exact State.tierFault_kept h
  · refine ite_of (P := Kept a) (fun _ => ?_) (fun _ => ?_)
    · exact State.tierFault_kept h
    · exact h

theorem State.promotionFails_kept (h : Kept a s) {p} : Kept a (State.promotionFails s p) := by
  unfold State.promotionFails
  exact State.books_kept (State.poisonPage_kept (State.onPage_kept h))

theorem State.promotionArrive_kept (h : Kept a s) {how} : Kept a (State.promotionArrive s how) := by
  unfold State.promotionArrive
  split
  · exact h
  · extract_lets -merge -underBinder +onlyGivenNames src1 s2
    have hs2 : Kept a s2 := by
      unfold s2
      unfold src1; apply Kept.keepF h; exact fun _ => rfl
    clear_value s2
    extract_lets -merge -underBinder +onlyGivenNames s3
    have hs3 : Kept a s3 := State.wr_kept hs2
    clear_value s3
    split
    · exact hs3
    · extract_lets -merge -underBinder +onlyGivenNames b4 s5
      have hs5 : Kept a s5 := State.readEvent_kept hs3
      clear_value s5
      refine ite_of (P := Kept a) (fun _ => ?_) (fun _ => ?_)
      · exact State.promotionFails_kept hs5
      · refine ite_of (P := Kept a) (fun _ => ?_) (fun _ => ?_)
        · exact State.promotionFails_kept (State.tierFault_kept hs5)
        · extract_lets -merge -underBinder +onlyGivenNames s6
          have hs6 : Kept a s6 := by
            unfold s6
            split
            · exact State.dramWrite_kept hs5
            · exact hs5
          clear_value s6
          extract_lets -merge -underBinder +onlyGivenNames s7
          have hs7 : Kept a s7 := State.bump_kept (State.onPage_kept hs6)
          clear_value s7
          exact State.books_kept (State.readySets_kept hs7)

theorem execPromotionPageArrive_kept (h : Kept a s) {how} : ResKept a (execPromotionPageArrive how s) := by
  unfold execPromotionPageArrive
  exact ResKept.next (State.promotionArrive_kept h)

theorem State.pageRepair_kept (h : Kept a s) {how readback} : Kept a (State.pageRepair s how readback) := by
  unfold State.pageRepair
  split
  · exact h
  · split
    · exact State.poisonPage_kept (State.tierFault_kept h)
    · extract_lets -merge -underBinder +onlyGivenNames b1
      extract_lets -merge -underBinder +onlyGivenNames s2
      have hs2 : Kept a s2 := State.readEvent_kept h
      clear_value s2
      refine ite_of (P := Kept a) (fun _ => State.poisonPage_kept hs2) (fun _ => ?_)
      refine ite_of (P := Kept a) (fun _ => State.poisonPage_kept (State.tierFault_kept hs2)) (fun _ => ?_)
      extract_lets -merge -underBinder +onlyGivenNames fixed3
      have hf : ∀ t, fixed3 = some t → Kept a t := by
        intro t e
        unfold fixed3 at e
        split at e
        · split at e
          · cases e; exact State.dramWrite_kept hs2
          · cases e; exact hs2
        · split at e
          · have k := snd_of (by assumption) (State.freePage_kept (opt_of (P := Kept a) hs2 fun _ => State.makeRoom_kept hs2))
            extract_lets s4 at e
            have hs4 : Kept a s4 := State.onPage_kept (State.dramWrite_kept k)
            clear_value s4
            cases e
            split
            · exact State.retirePage_kept hs4
            · exact hs4
          · cases e
      clear_value fixed3
      split
      · exact State.poisonPage_kept hs2
      · extract_lets -merge -underBinder +onlyGivenNames s5
        have hs5 : Kept a s5 := State.bump_kept (State.onPage_kept (hf _ rfl))
        clear_value s5
        exact State.logEntry_kept (State.count_kept hs5)

theorem execPageRepair_kept (h : Kept a s) {how readback} : ResKept a (execPageRepair how readback s) := by
  unfold execPageRepair
  exact ResKept.next (State.pageRepair_kept h)

theorem State.poolTide_kept (h : Kept a s) : Kept a (State.poolTide s) := by
  unfold State.poolTide
  extract_lets -merge -underBinder +onlyGivenNames newly1 s2
  have hs2 : Kept a s2 := by
    unfold s2
    refine foldl_of (P := Kept a) ?_ (fun _ _ k3 => ?_)
    · exact h
    · exact State.tierFault_kept k3
  clear_value s2
  extract_lets -merge -underBinder +onlyGivenNames s4
  have hs4 : Kept a s4 := State.onPages_kept hs2
  clear_value s4
  apply Kept.keepF hs4; exact fun _ => rfl

theorem State.markBad_kept (h : Kept a s) {m l o} : Kept a (State.markBad s m l o) := by
  unfold State.markBad
  exact State.onPages_kept h

end Sys2Proof.Machine
end

