-- ==== Sys2Proof/Laws/KeptPkg.lean ====
section
/-! SUPPORT. What the operations of Machine/Pkg.lean keep. -/

namespace Sys2Proof.Machine

variable {a s : State}

theorem State.useKey_kept (h : Kept a s) {id} : Kept a (State.useKey s id) := by
  unfold State.useKey
  split
  · refine ite_of (P := Kept a) (fun _ => ?_) (fun _ => ?_)
    · exact h
    · apply Kept.keepF h; exact fun _ => rfl
  · exact h

theorem State.storeLayer_kept (h : Kept a s) {m p x} : Kept a (State.storeLayer s m p x) := by
  unfold State.storeLayer
  extract_lets -merge -underBinder +onlyGivenNames key1 s2
  have hs2 : Kept a s2 := State.dropPages_kept h
  clear_value s2
  extract_lets -merge -underBinder +onlyGivenNames s3
  have hs3 : Kept a s3 := State.storePages_kept hs2
  clear_value s3
  extract_lets -merge -underBinder +onlyGivenNames s4
  have hs4 : Kept a s4 := State.storePages_kept hs3
  clear_value s4
  extract_lets -merge -underBinder +onlyGivenNames s5
  have hs5 : Kept a s5 := State.onModel_kept hs4
  clear_value s5
  exact State.bump_kept hs5

theorem State.modelFor_kept (h : Kept a s) {p m t} (x : s.modelFor p = some (m, t)) : Kept a t := by
  unfold State.modelFor at x
  split at x
  · split at x
    · cases x
    · cases x; apply Kept.keepF h; exact fun _ => rfl
  · split at x
    · cases x; exact h
    · split at x
      · cases x
      · cases x
        refine State.register_kept ?_
        apply Kept.keepF h; exact fun _ => rfl

theorem State.commitAdapter_kept (h : Kept a s) {p e} : Kept a (State.commitAdapter s p e) := by
  unfold State.commitAdapter
  extract_lets -merge -underBinder +onlyGivenNames s1
  have hs1 : Kept a s1 := by
    unfold s1
    refine foldl_of (P := Kept a) ?_ (fun _ _ k2 => ?_)
    · exact h
    · refine ite_of (P := Kept a) (fun _ => ?_) (fun _ => ?_)
      · exact State.wr_kept k2
      · exact k2
  clear_value s1
  extract_lets -merge -underBinder +onlyGivenNames src3 s4
  have hs4 : Kept a s4 := by
    unfold s4
    unfold src3; apply Kept.keepF hs1; exact fun _ => rfl
  clear_value s4
  exact State.wrs_kept hs4

theorem State.wlShow_kept (h : Kept a s) : Kept a (State.wlShow s) := by
  unfold State.wlShow
  split
  · exact State.wrs_kept h
  · exact State.wrs_kept h

theorem State.commitLoad_kept (h : Kept a s) {q tag p l} : Kept a (State.commitLoad s q tag p l) := by
  unfold State.commitLoad
  split
  · exact h
  · have k1 := State.modelFor_kept h (by assumption)
    extract_lets -merge -underBinder +onlyGivenNames s2
    have hs2 : Kept a s2 := by
      unfold s2
      refine foldl_of (P := Kept a) ?_ (fun _ _ k3 => ?_)
      · exact k1
      · exact State.storeLayer_kept k3
    clear_value s2
    extract_lets -merge -underBinder +onlyGivenNames s4
    have hs4 : Kept a s4 := by
      unfold s4
      split
      · exact State.commitAdapter_kept hs2
      · exact hs2
    clear_value s4
    extract_lets -merge -underBinder +onlyGivenNames s5
    have hs5 : Kept a s5 := State.books_kept (State.wlShow_kept hs4)
    clear_value s5
    exact State.complete_kept hs5

theorem State.refuseLoad_kept (h : Kept a s) {q tag code layer} : Kept a (State.refuseLoad s q tag code layer) := by
  unfold State.refuseLoad
  extract_lets -merge -underBinder +onlyGivenNames s1
  have hs1 : Kept a s1 := State.firstLog_kept h
  clear_value s1
  exact State.complete_kept hs1

theorem State.takeOp_kept (h : Kept a s) {op q e t} (x : s.takeOp op = some (q, e, t)) : Kept a t := by
  unfold State.takeOp at x
  split at x
  · cases x
  · cases x; apply Kept.keepF h; exact fun _ => rfl

theorem State.load_kept (h : Kept a s) : Kept a (State.load s) := by
  unfold State.load
  split
  · exact h
  · have k1 := State.takeOp_kept h (by assumption)
    extract_lets -merge -underBinder +onlyGivenNames tag2 plen3 inplace4
    refine ite_of (P := Kept a) (fun _ => ?_) (fun _ => ?_)
    · exact State.refuseLoad_kept k1
    · extract_lets -merge -underBinder +onlyGivenNames p5 s6
      have hs6 : Kept a s6 := State.bump_kept (State.spaceErr_kept k1)
      clear_value s6
      split
      · exact State.refuseLoad_kept hs6
      · refine ite_of (P := Kept a) (fun _ => ?_) (fun _ => ?_)
        · exact State.refuseLoad_kept hs6
        · split
          · exact State.refuseLoad_kept hs6
          · extract_lets -merge -underBinder +onlyGivenNames built7 need8 need9 stored10 client11
            extract_lets -merge -underBinder +onlyGivenNames full12 noEntry13
            split
            · exact State.refuseLoad_kept hs6
            · have k14 := State.makeRoom_kept hs6 (by assumption)
              refine ite_of (P := Kept a) (fun _ => ?_) (fun _ => ?_)
              · exact State.refuseLoad_kept hs6
              · refine ite_of (P := Kept a) (fun _ => ?_) (fun _ => ?_)
                · exact State.refuseLoad_kept hs6
                · refine ite_of (P := Kept a) (fun _ => ?_) (fun _ => ?_)
                  · exact State.refuseLoad_kept hs6
                  · clear_value built7
                    split
                    · exact State.refuseLoad_kept hs6
                    · extract_lets -merge -underBinder +onlyGivenNames s15
                      have hs15 : Kept a s15 := State.useKey_kept k14
                      clear_value s15
                      refine ite_of (P := Kept a) (fun _ => ?_) (fun _ => ?_)
                      · refine State.wlShow_kept ?_
                        apply Kept.keepF hs15; exact fun _ => rfl
                      · exact State.commitLoad_kept hs15

theorem execLoad_kept (h : Kept a s) : ResKept a (execLoad s) := by
  unfold execLoad
  exact ResKept.next (State.load_kept h)

theorem State.dropModel_kept (h : Kept a s) {m} : Kept a (State.dropModel s m) := by
  unfold State.dropModel
  extract_lets -merge -underBinder +onlyGivenNames s1
  have hs1 : Kept a s1 := State.dropPages_kept h
  clear_value s1
  extract_lets -merge -underBinder +onlyGivenNames src2 s3
  have hs3 : Kept a s3 := by
    unfold s3
    unfold src2; apply Kept.keepF hs1; exact fun _ => rfl
  clear_value s3
  refine State.books_kept ?_
  split
  · exact State.wrs_kept hs3
  · exact State.unregister_kept hs3

theorem State.deleteModel_kept (h : Kept a s) : Kept a (State.deleteModel s) := by
  unfold State.deleteModel
  split
  · exact h
  · have k1 := State.takeOp_kept h (by assumption)
    extract_lets -merge -underBinder +onlyGivenNames tag2 h3
    split
    · exact State.complete_kept k1
    · refine ite_of (P := Kept a) (fun _ => ?_) (fun _ => ?_)
      · exact State.complete_kept k1
      · exact State.complete_kept (State.dropModel_kept k1)

theorem execDelete_kept (h : Kept a s) : ResKept a (execDelete s) := by
  unfold execDelete
  exact ResKept.next (State.deleteModel_kept h)

end Sys2Proof.Machine
end

