-- ==== Sys2Proof/Laws/KeptExpander.lean ====
section
/-! SUPPORT. What the operations of Machine/Expander.lean keep. -/

namespace Sys2Proof.Machine

variable {a s : State}

theorem State.item_kept (h : Kept a s) {t m l o n it} : Kept a (State.item s t m l o n it).2 := by
  unfold State.item
  extract_lets -merge -underBinder +onlyGivenNames r1
  have hr1 : Kept a r1.2 := State.layerRead_kept h
  clear_value r1
  refine ite_of (P := fun r => Kept a (Prod.snd r)) (fun _ => ?_) (fun _ => ?_)
  · exact snd_mk (P := Kept a) (hr1)
  · exact snd_mk (P := Kept a) (hr1)

theorem State.expFault_kept (h : Kept a s) {t p c cause code cyc region again} : Kept a (State.expFault s t p c cause code cyc region again) := by
  unfold State.expFault
  extract_lets -merge -underBinder +onlyGivenNames s1
  have hs1 : Kept a s1 := State.firstLog_kept h
  clear_value s1
  exact State.faultSlice_kept (State.bump_kept hs1)

theorem State.expScales_kept {s : State} (h : Kept a s) {t p c m l d need ax} : Kept a (State.expScales s t p c m l d need ax).2 := by
  unfold State.expScales
  split
  · exact snd_mk (P := Kept a) (h)
  · extract_lets -merge -underBinder +onlyGivenNames k1 sring2
    refine ite_of (P := fun r => Kept a (Prod.snd r)) (fun _ => ?_) (fun _ => ?_)
    · exact snd_mk (P := Kept a) (h)
    · refine ite_of (P := fun r => Kept a (Prod.snd r)) (fun _ => ?_) (fun _ => ?_)
      · exact snd_mk (P := Kept a) (h)
      · extract_lets -merge -underBinder +onlyGivenNames i3
        split
        · have k4 := snd_of (by assumption) (State.item_kept h)
          exact snd_mk (P := Kept a) (State.markBad_kept k4)
        · have k5 := snd_of (by assumption) (State.item_kept h)
          extract_lets -merge -underBinder +onlyGivenNames s6
          have hs6 : Kept a s6 := State.writeRow_kept k5
          clear_value s6
          exact State.expScales_kept (State.onStn_kept hs6)

theorem State.expSlot_kept (h : Kept a s) {t m l cb x bad1 bad2} : Kept a (State.expSlot s t m l cb x bad1 bad2).2 := by
  unfold State.expSlot
  split
  · exact snd_mk (P := Kept a) (h)
  · extract_lets -merge -underBinder +onlyGivenNames d1 r2
    have hr2 : Kept a r2.2 := State.layerRead_kept h
    clear_value r2
    extract_lets -merge -underBinder +onlyGivenNames s3
    have hs3 : Kept a s3 := hr2
    clear_value s3
    refine ite_of (P := fun r => Kept a (Prod.snd r)) (fun _ => ?_) (fun _ => ?_)
    · exact snd_mk (P := Kept a) (hs3)
    · extract_lets -merge -underBinder +onlyGivenNames no4 s5
      have hs5 : Kept a s5 := by
        unfold s5
        refine ite_of (P := Kept a) (fun _ => ?_) (fun _ => ?_)
        · exact State.bump_kept hs3
        · exact hs3
      clear_value s5
      refine ite_of (P := fun r => Kept a (Prod.snd r)) (fun _ => ?_) (fun _ => ?_)
      · exact snd_mk (P := Kept a) (hs5)
      · split
        · exact snd_mk (P := Kept a) (hs5)
        · exact snd_mk (P := Kept a) (hs5)

theorem State.expRange_kept {s : State} (h : Kept a s) {t m l cb bad1 bad2 ax ax1} : Kept a (State.expRange s t m l cb bad1 bad2 ax ax1).2 := by
  unfold State.expRange
  split
  · exact snd_mk (P := Kept a) (h)
  · split
    · have k2 := snd_of (by assumption) (State.expSlot_kept h)
      extract_lets -merge -underBinder +onlyGivenNames r3
      have hr3 : Kept a r3.2 := State.expRange_kept k2
      clear_value r3
      exact snd_mk (P := Kept a) (hr3)
    · have k4 := snd_of (by assumption) (State.expSlot_kept h)
      exact snd_mk (P := Kept a) (k4)

theorem State.rejectSlot_kept (h : Kept a s) {m l x} : Kept a (State.rejectSlot s m l x) := by
  unfold State.rejectSlot
  extract_lets -merge -underBinder +onlyGivenNames s1
  have hs1 : Kept a s1 := State.logEntry_kept (State.bump_kept h)
  clear_value s1
  refine ite_of (P := Kept a) (fun _ => ?_) (fun _ => ?_)
  · exact State.poisonLayer_kept hs1
  · exact State.onModel_kept hs1

theorem State.acceptSlots_kept (h : Kept a s) {m l x n} : Kept a (State.acceptSlots s m l x n) := by
  unfold State.acceptSlots
  refine ite_of (P := Kept a) (fun _ => ?_) (fun _ => ?_)
  · exact h
  · exact State.onModel_kept h

theorem State.expWrite_kept (h : Kept a s) {t p d l place g} : Kept a (State.expWrite s t p d l place g) := by
  unfold State.expWrite
  extract_lets -merge -underBinder +onlyGivenNames R1 sg2 base3 s4
  have hs4 : Kept a s4 := by
    unfold s4
    refine foldl_of (P := Kept a) ?_ (fun _ _ k5 => ?_)
    · exact h
    · extract_lets -merge -underBinder +onlyGivenNames o6
      split
      · exact k5
      · split
        · exact k5
        · exact State.writeRow_kept k5
  clear_value s4
  refine foldl_of (P := Kept a) ?_ (fun _ _ k7 => ?_)
  · exact hs4
  · split
    · split
      · extract_lets -merge -underBinder +onlyGivenNames s8
        have hs8 : Kept a s8 := State.onStn_kept k7
        clear_value s8
        exact State.setPresent_kept hs8
      · exact k7
    · exact k7

theorem State.chanWaits_kept (h : Kept a s) {t p c k} : Kept a (State.chanWaits s t p c k) := by
  unfold State.chanWaits
  exact State.onStn_kept h

theorem State.expPanic_kept (h : Kept a s) {t p c buffered} : Kept a (State.expPanic s t p c buffered) := by
  unfold State.expPanic
  extract_lets -merge -underBinder +onlyGivenNames rt1 now2 s3
  have hs3 : Kept a s3 := by
    unfold s3
    refine ite_of (P := Kept a) (fun _ => ?_) (fun _ => ?_)
    · exact State.bump_kept h
    · exact h
  clear_value s3
  exact State.onStn_kept hs3

theorem State.expand_kept (h : Kept a s) {t p c cyc buffered bad1 bad2} : Kept a (State.expand s t p c cyc buffered bad1 bad2) := by
  unfold State.expand
  extract_lets -merge -underBinder +onlyGivenNames k1 st2
  refine ite_of (P := Kept a) (fun _ => ?_) (fun _ => ?_)
  · exact h
  · split
    · exact State.faultSlice_kept h
    · extract_lets -merge -underBinder +onlyGivenNames d3 s4
      have hs4 : Kept a s4 := State.expPanic_kept h
      clear_value s4
      refine ite_of (P := Kept a) (fun _ => ?_) (fun _ => ?_)
      · exact State.bump_kept hs4
      · refine ite_of (P := Kept a) (fun _ => ?_) (fun _ => ?_)
        · exact State.faultSlice_kept hs4
        · split
          · exact State.chanWaits_kept (State.stallSlot_kept hs4)
          · extract_lets -merge -underBinder +onlyGivenNames s5
            have hs5 : Kept a s5 := State.chanWaits_kept hs4
            clear_value s5
            extract_lets -merge -underBinder +onlyGivenNames x6 need7
            split
            · have k8 := snd_of (by assumption) (State.expScales_kept hs5)
              exact k8
            · have k9 := snd_of (by assumption) (State.expScales_kept hs5)
              exact State.faultSlice_kept k9
            · have k10 := snd_of (by assumption) (State.expScales_kept hs5)
              split
              · have k11 := snd_of (by assumption) (State.expRange_kept k10)
                extract_lets -merge -underBinder +onlyGivenNames s12
                have hs12 : Kept a s12 := State.bump_kept (State.acceptSlots_kept (State.expWrite_kept k11))
                clear_value s12
                extract_lets -merge -underBinder +onlyGivenNames s13
                have hs13 : Kept a s13 := State.onStn_kept hs12
                clear_value s13
                exact State.wr_kept hs13
              · have k14 := snd_of (by assumption) (State.expRange_kept k10)
                exact State.expFault_kept (State.markBad_kept k14)
              · have k15 := snd_of (by assumption) (State.expRange_kept k10)
                exact State.faultSlice_kept (State.markBad_kept k15)
              · have k16 := snd_of (by assumption) (State.expRange_kept k10)
                exact State.expFault_kept (State.rejectSlot_kept k16)
              · have k17 := snd_of (by assumption) (State.expRange_kept k10)
                exact k17

theorem execExpanderSlot_kept (h : Kept a s) {st c cyc buffered bad1 bad2} : ResKept a (execExpanderSlot st c cyc buffered bad1 bad2 s) := by
  unfold execExpanderSlot
  exact ResKept.next (State.expand_kept h)

theorem State.expRestart_kept (h : Kept a s) {t p ph} : Kept a (State.expRestart s t p ph) := by
  unfold State.expRestart
  refine foldl_of (P := Kept a) ?_ (fun _ _ k1 => ?_)
  · exact h
  · refine ite_of (P := Kept a) (fun _ => ?_) (fun _ => ?_)
    · exact k1
    · extract_lets -merge -underBinder +onlyGivenNames k2 tidx3 go4 first5 r6
      have hr6 : Kept a r6.2 := by
        unfold r6
        split
        · exact snd_mk (P := Kept a) (k1)
        · refine ite_of (P := fun r => Kept a (Prod.snd r)) (fun _ => ?_) (fun _ => ?_)
          · exact snd_mk (P := Kept a) (k1)
          · split
            · have k7 := snd_of (by assumption) (State.item_kept k1)
              exact snd_mk (P := Kept a) (k7)
            · have k8 := snd_of (by assumption) (State.item_kept k1)
              exact snd_mk (P := Kept a) (State.markBad_kept k8)
      clear_value r6
      extract_lets -merge -underBinder +onlyGivenNames s9
      have hs9 : Kept a s9 := State.onStn_kept hr6
      clear_value s9
      refine ite_of (P := Kept a) (fun _ => ?_) (fun _ => ?_)
      · exact State.wr_kept hs9
      · exact hs9

end Sys2Proof.Machine
end

