-- ==== Sys2Proof/Laws/KeptPlace.lean ====
section
/-! SUPPORT. What the operations of Machine/Place.lean keep. -/

namespace Sys2Proof.Machine

variable {a s : State}

theorem State.wuse_kept (h : Kept a s) : Kept a (State.wuse s) := by
  unfold State.wuse
  exact State.wr_kept h

theorem State.spared_kept (h : Kept a s) : Kept a (State.spared s) := by
  unfold State.spared
  apply Kept.keepF h; exact fun _ => rfl

theorem State.yieldTo_kept (h : Kept a s) {own xs} : Kept a (State.yieldTo s own xs) := by
  unfold State.yieldTo
  apply Kept.keepF h; exact fun _ => rfl

theorem State.refusePlace_kept (h : Kept a s) {q tag code} : Kept a (State.refusePlace s q tag code) := by
  unfold State.refusePlace
  exact State.complete_kept h

theorem State.placeReads_kept (h : Kept a s) {e} : Kept a (State.placeReads s e) := by
  unfold State.placeReads
  extract_lets -merge -underBinder +onlyGivenNames b1
  refine foldl_of (P := Kept a) ?_ (fun _ _ k2 => ?_)
  · exact State.spaceErr_kept h
  · exact State.spaceErr_kept k2

theorem State.startPromotion_kept (h : Kept a s) {l} : Kept a (State.startPromotion s l) := by
  unfold State.startPromotion
  extract_lets -merge -underBinder +onlyGivenNames s1
  have hs1 : Kept a s1 := by
    unfold s1
    refine foldl_of (P := Kept a) ?_ (fun _ _ k2 => ?_)
    · exact h
    · split
      · have k3 := snd_of (by assumption) (ite_of (P := fun r => Kept a (Prod.snd r)) (fun _ => k2) fun _ => State.freePage_kept k2)
        exact k3
      · have k4 := snd_of (by assumption) (ite_of (P := fun r => Kept a (Prod.snd r)) (fun _ => k2) fun _ => State.freePage_kept k2)
        extract_lets -merge -underBinder +onlyGivenNames s5
        have hs5 : Kept a s5 := State.onPage_kept k4
        clear_value s5
        apply Kept.keepF hs5; exact fun _ => rfl
  clear_value s1
  exact State.wr_kept hs1

theorem State.ghSet_kept (h : Kept a s) {x on} : Kept a (State.ghSet s x on) := by
  unfold State.ghSet
  refine ite_of (P := Kept a) (fun _ => ?_) (fun _ => ?_)
  · exact h
  · refine ite_of (P := Kept a) (fun _ => ?_) (fun _ => ?_)
    · split
      · exact h
      · exact State.wrs_kept h
    · refine foldl_of (P := Kept a) ?_ (fun _ _ k1 => ?_)
      · exact h
      · refine ite_of (P := Kept a) (fun _ => ?_) (fun _ => ?_)
        · exact State.wrs_kept k1
        · exact k1

theorem State.streamFor_kept (h : Kept a s) {x imgs t} (e : s.streamFor x imgs = some t) : Kept a t := by
  unfold State.streamFor at e
  obtain ⟨s1, e1, e2⟩ := Option.bind_eq_some_iff.1 e
  have h1 : Kept a s1 := by
    split at e1
    · cases e1; exact h
    · obtain ⟨n, -, rfl⟩ := Option.map_eq_some_iff.1 e1
      apply Kept.keepF h; exact fun _ => rfl
  split at e2
  · cases e2; exact h1
  · extract_lets at e2
    split at e2
    · cases e2
    · obtain ⟨n, -, rfl⟩ := Option.map_eq_some_iff.1 e2
      apply Kept.keepF h1; exact fun _ => rfl

theorem State.place_kept (h : Kept a s) : Kept a (State.place s) := by
  unfold State.place
  split
  · exact h
  · have k1 := State.takeOp_kept h (by assumption)
    extract_lets -merge -underBinder +onlyGivenNames tag2
    refine ite_of (P := Kept a) (fun _ => ?_) (fun _ => ?_)
    · exact State.refusePlace_kept k1
    · extract_lets -merge -underBinder +onlyGivenNames s3
      have hs3 : Kept a s3 := State.placeReads_kept k1
      clear_value s3
      split
      · exact State.refusePlace_kept hs3
      · extract_lets -merge -underBinder +onlyGivenNames h4 B5
        refine ite_of (P := Kept a) (fun _ => ?_) (fun _ => ?_)
        · exact State.refusePlace_kept hs3
        · refine ite_of (P := Kept a) (fun _ => ?_) (fun _ => ?_)
          · exact State.refusePlace_kept hs3
          · split
            · exact State.refusePlace_kept hs3
            · split
              · exact State.refusePlace_kept hs3
              · extract_lets -merge -underBinder +onlyGivenNames ph6 per7
                refine ite_of (P := Kept a) (fun _ => ?_) (fun _ => ?_)
                · exact State.refusePlace_kept hs3
                · refine ite_of (P := Kept a) (fun _ => ?_) (fun _ => ?_)
                  · exact State.refusePlace_kept hs3
                  · refine ite_of (P := Kept a) (fun _ => ?_) (fun _ => ?_)
                    · exact State.refusePlace_kept hs3
                    · refine ite_of (P := Kept a) (fun _ => ?_) (fun _ => ?_)
                      · exact State.refusePlace_kept hs3
                      · extract_lets -merge -underBinder +onlyGivenNames handle8 now9 next10
                        have hnext10 : ∀ y11, Kept a y11 → Kept a (next10 y11) := by
                          intro y11 k12
                          unfold next10
                          apply Kept.keepF k12; exact fun _ => rfl
                        clear_value next10
                        refine ite_of (P := Kept a) (fun _ => ?_) (fun _ => ?_)
                        · extract_lets -merge -underBinder +onlyGivenNames x13
                          split
                          · exact State.refusePlace_kept hs3
                          · have k14 := State.streamFor_kept hs3 (by assumption)
                            extract_lets -merge -underBinder +onlyGivenNames n15 src16 s17
                            have hs17 : Kept a s17 := by
                              unfold s17
                              refine hnext10 _ ?_
                              unfold src16; apply Kept.keepF k14; exact fun _ => rfl
                            clear_value s17
                            exact State.complete_kept (State.books_kept hs17)
                        · split
                          · exact State.refusePlace_kept hs3
                          · refine ite_of (P := Kept a) (fun _ => ?_) (fun _ => ?_)
                            · exact State.refusePlace_kept hs3
                            · refine ite_of (P := Kept a) (fun _ => ?_) (fun _ => ?_)
                              · exact State.refusePlace_kept hs3
                              · split
                                · exact State.refusePlace_kept hs3
                                · extract_lets -merge -underBinder +onlyGivenNames miss18 x19
                                  extract_lets -merge -underBinder +onlyGivenNames src20 ls21
                                  have hls21 : Kept a ls21 := by
                                    unfold ls21
                                    unfold src20; apply Kept.keepF hs3; exact fun _ => rfl
                                  clear_value ls21
                                  refine ite_of (P := Kept a) (fun _ => ?_) (fun _ => ?_)
                                  · exact State.refusePlace_kept hs3
                                  · refine ite_of (P := Kept a) (fun _ => ?_) (fun _ => ?_)
                                    · exact State.refusePlace_kept hs3
                                    · refine ite_of (P := Kept a) (fun _ => ?_) (fun _ => ?_)
                                      · exact State.refusePlace_kept hs3
                                      · split
                                        · exact State.refusePlace_kept hs3
                                        · have k22 := State.makeRoom_kept (State.books_kept hls21) (by assumption)
                                          split
                                          · exact State.refusePlace_kept hs3
                                          · have k23 := State.streamFor_kept k22 (by assumption)
                                            refine State.books_kept ?_
                                            refine State.readySets_kept ?_
                                            refine State.wuse_kept ?_
                                            refine State.yieldTo_kept ?_
                                            refine State.ghSet_kept ?_
                                            exact hnext10 _ (State.startPromotion_kept k23)

theorem execPlace_kept (h : Kept a s) : ResKept a (execPlace s) := by
  unfold execPlace
  exact ResKept.next (State.place_kept h)

theorem State.removeReq_kept (h : Kept a s) : Kept a (State.removeReq s) := by
  unfold State.removeReq
  split
  · exact h
  · have k1 := State.takeOp_kept h (by assumption)
    extract_lets -merge -underBinder +onlyGivenNames tag2 h3 bad4
    have hbad4 : ∀ y5, Kept a y5 → Kept a (bad4 y5) := by
      intro y5 k6
      unfold bad4
      exact State.complete_kept k6
    clear_value bad4
    split
    · exact hbad4 _ (k1)
    · extract_lets -merge -underBinder +onlyGivenNames mainThere7
      refine ite_of (P := Kept a) (fun _ => ?_) (fun _ => ?_)
      · exact hbad4 _ (k1)
      · apply Kept.keepF k1; exact fun _ => rfl

theorem execRemove_kept (h : Kept a s) : ResKept a (execRemove s) := by
  unfold execRemove
  exact ResKept.next (State.removeReq_kept h)

end Sys2Proof.Machine
end

