-- ==== Sys2Proof/Laws/KeptGate.lean ====
section
/-! SUPPORT. What the operations of Machine/Gate.lean keep. -/

namespace Sys2Proof.Machine

variable {a s : State}

theorem State.onSet_kept (h : Kept a s) {hx f} : Kept a (State.onSet s hx f) := by
  unfold State.onSet
  apply Kept.keepF h; exact fun _ => rfl

theorem State.onSeq_kept (h : Kept a s) {n f} : Kept a (State.onSeq s n f) := by
  unfold State.onSeq
  apply Kept.keepF h; exact fun _ => rfl

theorem State.ghShow_kept (h : Kept a s) : Kept a (State.ghShow s) := by
  unfold State.ghShow
  extract_lets -merge -underBinder +onlyGivenNames s1
  have hs1 : Kept a s1 := by
    unfold s1
    refine foldl_of (P := Kept a) ?_ (fun _ _ k2 => ?_)
    · exact h
    · split
      · exact k2
      · extract_lets -merge -underBinder +onlyGivenNames mine3
        exact State.wrs_kept k2
  clear_value s1
  refine foldl_of (P := Kept a) ?_ (fun _ _ k4 => ?_)
  · exact hs1
  · exact State.wr_kept k4

theorem State.stepDone_kept (h : Kept a s) {q handle b status flags len nout step} : Kept a (State.stepDone s q handle b status flags len nout step) := by
  unfold State.stepDone
  exact State.complete_kept h

theorem State.seqDone_kept (h : Kept a s) {q r b status flags len nout step} : Kept a (State.seqDone s q r b status flags len nout step) := by
  unfold State.seqDone
  exact State.onSeq_kept (State.stepDone_kept h)

theorem State.answer_kept (h : Kept a s) {q b status} : Kept a (State.answer s q b status) := by
  unfold State.answer
  refine ite_of (P := Kept a) (fun _ => ?_) (fun _ => ?_)
  · exact State.stepDone_kept h
  · split
    · exact State.seqDone_kept h
    · exact State.stepDone_kept h

theorem State.takeStep_kept (h : Kept a s) {op q b n t} (x : s.takeStep op = some (q, b, n, t)) : Kept a t := by
  unfold State.takeStep at x
  split at x
  · cases x
  · cases x; apply Kept.keepF h; exact fun _ => rfl

theorem State.stepEnd_kept (h : Kept a s) {r status flags nout step} : Kept a (State.stepEnd s r status flags nout step) := by
  unfold State.stepEnd
  split
  · exact h
  · exact State.onSeq_kept (State.seqDone_kept h)

theorem State.psInvSeq_kept (h : Kept a s) {n} : Kept a (State.psInvSeq s n) := by
  unfold State.psInvSeq
  exact State.labDrop_kept h

theorem State.draw_kept (h : Kept a s) {n} : Kept a (State.draw s n).2 := by
  unfold State.draw
  extract_lets -merge -underBinder +onlyGivenNames s1
  have hs1 : Kept a s1 := State.psInvSeq_kept (State.psAlloc_kept h)
  clear_value s1
  exact snd_mk (P := Kept a) (State.onSeq_kept hs1)

theorem State.mapScale_kept (h : Kept a s) {r tr lp} : Kept a (State.mapScale s r tr lp) := by
  unfold State.mapScale
  extract_lets -merge -underBinder +onlyGivenNames a1
  refine ite_of (P := Kept a) (fun _ => ?_) (fun _ => ?_)
  · exact h
  · extract_lets -merge -underBinder +onlyGivenNames p2
    have hp2 : Kept a p2.2 := State.draw_kept h
    clear_value p2
    exact State.stN_kept hp2

theorem State.setL2_kept (h : Kept a s) {r tr lp ppn} : Kept a (State.setL2 s r tr lp ppn) := by
  unfold State.setL2
  exact State.stN_kept h

theorem State.mapPage_kept (h : Kept a s) {r tr lp} : Kept a (State.mapPage s r tr lp) := by
  unfold State.mapPage
  extract_lets -merge -underBinder +onlyGivenNames s1
  have hs1 : Kept a s1 := State.mapScale_kept h
  clear_value s1
  refine ite_of (P := Kept a) (fun _ => ?_) (fun _ => ?_)
  · exact hs1
  · extract_lets -merge -underBinder +onlyGivenNames p2
    have hp2 : Kept a p2.2 := State.draw_kept hs1
    clear_value p2
    exact State.setL2_kept hp2

theorem State.mapFor_kept (h : Kept a s) {r n} : Kept a (State.mapFor s r n) := by
  unfold State.mapFor
  extract_lets -merge -underBinder +onlyGivenNames len1
  refine ite_of (P := Kept a) (fun _ => ?_) (fun _ => ?_)
  · exact h
  · extract_lets -merge -underBinder +onlyGivenNames a2 k3
    refine foldl_of (P := Kept a) ?_ (fun _ _ k4 => ?_)
    · exact h
    · refine foldl_of (P := Kept a) ?_ (fun _ _ k5 => ?_)
      · exact k4
      · exact State.mapPage_kept k5

theorem State.sharePrefix_kept (h : Kept a s) {src r plen} : Kept a (State.sharePrefix s src r plen) := by
  unfold State.sharePrefix
  refine ite_of (P := Kept a) (fun _ => ?_) (fun _ => ?_)
  · exact h
  · refine foldl_of (P := Kept a) ?_ (fun _ _ k1 => ?_)
    · exact h
    · refine foldl_of (P := Kept a) ?_ (fun _ _ k2 => ?_)
      · exact k1
      · extract_lets -merge -underBinder +onlyGivenNames s3
        have hs3 : Kept a s3 := State.mapScale_kept k2
        clear_value s3
        extract_lets -merge -underBinder +onlyGivenNames ppn4 from'5 to'6 s7
        have hs7 : Kept a s7 := State.setL2_kept (State.psShare_kept hs3)
        clear_value s7
        exact State.st_kept hs7

theorem State.freeSeq_kept (h : Kept a s) {r} : Kept a (State.freeSeq s r) := by
  unfold State.freeSeq
  extract_lets -merge -underBinder +onlyGivenNames n1 s2
  have hs2 : Kept a s2 := by
    unfold s2
    refine foldl_of (P := Kept a) ?_ (fun _ _ k3 => ?_)
    · exact h
    · refine foldl_of (P := Kept a) ?_ (fun _ _ k4 => ?_)
      · exact k3
      · extract_lets -merge -underBinder +onlyGivenNames l15
        refine ite_of (P := Kept a) (fun _ => ?_) (fun _ => ?_)
        · exact k4
        · extract_lets -merge -underBinder +onlyGivenNames s6
          have hs6 : Kept a s6 := by
            unfold s6
            refine foldl_of (P := Kept a) ?_ (fun _ _ k7 => ?_)
            · exact k4
            · extract_lets -merge -underBinder +onlyGivenNames l28
              refine ite_of (P := Kept a) (fun _ => ?_) (fun _ => ?_)
              · exact State.psFree_kept k7
              · exact k7
          clear_value s6
          exact State.stN_kept (State.st_kept (State.psFree_kept hs6))
  clear_value s2
  extract_lets -merge -underBinder +onlyGivenNames s9
  have hs9 : Kept a s9 := State.wr_kept hs2
  clear_value s9
  extract_lets -merge -underBinder +onlyGivenNames s10
  have hs10 : Kept a s10 := by
    unfold s10
    split
    · exact State.wr_kept hs9
    · exact hs9
  clear_value s10
  extract_lets -merge -underBinder +onlyGivenNames s11
  have hs11 : Kept a s11 := State.st_kept (State.st_kept hs10)
  clear_value s11
  extract_lets -merge -underBinder +onlyGivenNames s12
  have hs12 : Kept a s12 := State.psInvSeq_kept hs11
  clear_value s12
  apply Kept.keepF hs12; exact fun _ => rfl

theorem State.takeIn_kept (h : Kept a s) {q b tide x adp n l1 l2} : Kept a (State.takeIn s q b tide x adp n l1 l2) := by
  unfold State.takeIn
  extract_lets -merge -underBinder +onlyGivenNames maxlen1 plen2 pg3 tr4 per5 gen6 ntok7 r8 s9
  have hs9 : Kept a s9 := State.wr_kept h
  clear_value s9
  extract_lets -merge -underBinder +onlyGivenNames src10 s11
  have hs11 : Kept a s11 := by
    unfold s11
    unfold src10; apply Kept.keepF hs9; exact fun _ => rfl
  clear_value s11
  extract_lets -merge -underBinder +onlyGivenNames s12
  have hs12 : Kept a s12 := State.st_kept hs11
  clear_value s12
  extract_lets -merge -underBinder +onlyGivenNames s13
  have hs13 : Kept a s13 := State.st_kept hs12
  clear_value s13
  extract_lets -merge -underBinder +onlyGivenNames s14
  have hs14 : Kept a s14 := State.st_kept hs13
  clear_value s14
  extract_lets -merge -underBinder +onlyGivenNames s15
  have hs15 : Kept a s15 := by
    unfold s15
    split
    · exact State.sharePrefix_kept hs14
    · exact hs14
  clear_value s15
  extract_lets -merge -underBinder +onlyGivenNames s16
  have hs16 : Kept a s16 := State.stN_kept hs15
  clear_value s16
  extract_lets -merge -underBinder +onlyGivenNames s17
  have hs17 : Kept a s17 := by
    unfold s17
    split
    · exact State.bump_kept hs16
    · exact hs16
  clear_value s17
  extract_lets -merge -underBinder +onlyGivenNames s18
  have hs18 : Kept a s18 := State.ghShow_kept (State.bump_kept (State.psInvSeq_kept hs17))
  clear_value s18
  refine ite_of (P := Kept a) (fun _ => ?_) (fun _ => ?_)
  · exact State.stepDone_kept hs18
  · exact hs18

theorem State.openReq_kept (h : Kept a s) : Kept a (State.openReq s) := by
  unfold State.openReq
  refine ite_of (P := Kept a) (fun _ => ?_) (fun _ => ?_)
  · exact h
  · split
    · exact h
    · have k1 := State.takeStep_kept h (by assumption)
      split
      · exact State.answer_kept k1
      · refine ite_of (P := Kept a) (fun _ => ?_) (fun _ => ?_)
        · exact State.answer_kept k1
        · split
          · exact State.answer_kept k1
          · extract_lets -merge -underBinder +onlyGivenNames maxlen2 tr3 need4 rows25 l16 l27
            clear_value l16
            clear_value l27
            split
            · refine ite_of (P := Kept a) (fun _ => ?_) (fun _ => ?_)
              · exact State.answer_kept (State.bump_kept k1)
              · extract_lets -merge -underBinder +onlyGivenNames r8
                refine ite_of (P := Kept a) (fun _ => ?_) (fun _ => ?_)
                · exact State.answer_kept (State.bump_kept k1)
                · exact State.takeIn_kept k1
            · exact State.answer_kept (State.bump_kept k1)

theorem execOpenCmd_kept (h : Kept a s) : ResKept a (execOpenCmd s) := by
  unfold execOpenCmd
  exact ResKept.next (State.openReq_kept h)

theorem State.stepReq_kept (h : Kept a s) : Kept a (State.stepReq s) := by
  unfold State.stepReq
  split
  · exact h
  · have k1 := State.takeStep_kept h (by assumption)
    split
    · exact State.answer_kept k1
    · extract_lets -merge -underBinder +onlyGivenNames p2
      refine ite_of (P := Kept a) (fun _ => ?_) (fun _ => ?_)
      · exact State.answer_kept k1
      · exact State.onSeq_kept k1

theorem execStep_kept (h : Kept a s) : ResKept a (execStep s) := by
  unfold execStep
  exact ResKept.next (State.stepReq_kept h)

theorem State.endReq_kept (h : Kept a s) {op status} : Kept a (State.endReq s op status) := by
  unfold State.endReq
  split
  · exact h
  · have k1 := State.takeStep_kept h (by assumption)
    split
    · exact State.answer_kept k1
    · refine ite_of (P := Kept a) (fun _ => ?_) (fun _ => ?_)
      · exact State.answer_kept k1
      · exact State.onSeq_kept k1

theorem execCancel_kept (h : Kept a s) : ResKept a (execCancel s) := by
  unfold execCancel
  exact ResKept.next (State.endReq_kept h)

theorem execClose_kept (h : Kept a s) : ResKept a (execClose s) := by
  unfold execClose
  exact ResKept.next (State.endReq_kept h)

theorem State.setParked_kept (h : Kept a s) {r} : Kept a (State.setParked s r) := by
  unfold State.setParked
  extract_lets -merge -underBinder +onlyGivenNames f1
  refine ite_of (P := Kept a) (fun _ => ?_) (fun _ => ?_)
  · exact h
  · exact State.psInvSeq_kept (State.stN_kept h)

theorem State.setsParked_kept (h : Kept a s) {x} : Kept a (State.setsParked s x) := by
  unfold State.setsParked
  refine foldl_of (P := Kept a) ?_ (fun _ _ k1 => ?_)
  · exact h
  · exact State.setParked_kept k1

theorem State.reclaim_kept (h : Kept a s) : Kept a (State.reclaim s) := by
  unfold State.reclaim
  refine ite_of (P := Kept a) (fun _ => ?_) (fun _ => ?_)
  · exact h
  · split
    · exact h
    · have k1 := State.takeStep_kept h (by assumption)
      split
      · exact State.answer_kept k1
      · refine ite_of (P := Kept a) (fun _ => ?_) (fun _ => ?_)
        · exact State.answer_kept k1
        · extract_lets -merge -underBinder +onlyGivenNames seqs2 ok3
          refine ite_of (P := Kept a) (fun _ => ?_) (fun _ => ?_)
          · extract_lets -merge -underBinder +onlyGivenNames r4 s5
            have hs5 : Kept a s5 := State.ghShow_kept (State.setParked_kept (State.onSeq_kept k1))
            clear_value s5
            exact State.seqDone_kept hs5
          · exact State.seqDone_kept k1

theorem execReclaim_kept (h : Kept a s) : ResKept a (execReclaim s) := by
  unfold execReclaim
  exact ResKept.next (State.reclaim_kept h)

theorem State.doorbell_kept (h : Kept a s) : Kept a (State.doorbell s) := by
  unfold State.doorbell
  apply Kept.keepF h; exact fun _ => rfl

theorem execHostAlive_kept (h : Kept a s) : ResKept a (execHostAlive s) := by
  unfold execHostAlive
  exact ResKept.next (State.wr_kept (State.doorbell_kept h))

theorem State.hostLost_kept (h : Kept a s) : Kept a (State.hostLost s) := by
  unfold State.hostLost
  refine ite_of (P := Kept a) (fun _ => ?_) (fun _ => ?_)
  · exact h
  · extract_lets -merge -underBinder +onlyGivenNames s1
    have hs1 : Kept a s1 := State.count_kept (State.logEntry_kept (State.wr_kept h))
    clear_value s1
    refine State.ghShow_kept ?_
    refine foldl_of (P := Kept a) ?_ (fun _ _ k2 => ?_)
    · exact hs1
    · refine ite_of (P := Kept a) (fun _ => ?_) (fun _ => ?_)
      · exact k2
      · exact State.bump_kept (State.setParked_kept (State.onSeq_kept k2))

theorem execHostLostTimeout_kept (h : Kept a s) : ResKept a (execHostLostTimeout s) := by
  unfold execHostLostTimeout
  exact ResKept.next (State.hostLost_kept h)

theorem State.parkTimeout_kept (h : Kept a s) : Kept a (State.parkTimeout s) := by
  unfold State.parkTimeout
  extract_lets -merge -underBinder +onlyGivenNames job1
  have hjob1 : ∀ y2 y3, Kept a y2 → Kept a (job1 y2 y3) := by
    intro y2 y3 k4
    unfold job1
    refine State.postEvent_kept ?_
    refine State.bump_kept ?_
    extract_lets -merge -underBinder +onlyGivenNames src5
    have hsrc5 : Kept a src5 := State.dropClient_kept k4
    clear_value src5
    apply Kept.keepF hsrc5; exact fun _ => rfl
  clear_value job1
  extract_lets -merge -underBinder +onlyGivenNames seq6
  have hseq6 : ∀ y7 y8, Kept a y7 → Kept a (seq6 y7 y8) := by
    intro y7 y8 k9
    unfold seq6
    exact State.onSeq_kept k9
  clear_value seq6
  split
  · exact h
  · exact hseq6 _ _ (h)
  · exact hjob1 _ _ (h)
  · refine ite_of (P := Kept a) (fun _ => ?_) (fun _ => ?_)
    · exact hseq6 _ _ (h)
    · exact hjob1 _ _ (h)

theorem execParkTimeout_kept (h : Kept a s) : ResKept a (execParkTimeout s) := by
  unfold execParkTimeout
  exact ResKept.next (State.parkTimeout_kept h)

theorem State.timeOut_kept (h : Kept a s) {x status} : Kept a (State.timeOut s x status) := by
  unfold State.timeOut
  refine foldl_of (P := Kept a) ?_ (fun _ _ k1 => ?_)
  · exact h
  · exact State.onSeq_kept (State.stepEnd_kept k1)

theorem State.endSeq_kept (h : Kept a s) {r step} : Kept a (State.endSeq s r step) := by
  unfold State.endSeq
  split
  · exact h
  · extract_lets -merge -underBinder +onlyGivenNames len1 s2
    have hs2 : Kept a s2 := by
      unfold s2
      refine ite_of (P := Kept a) (fun _ => ?_) (fun _ => ?_)
      · exact State.bump_kept h
      · exact h
    clear_value s2
    extract_lets -merge -underBinder +onlyGivenNames s3
    have hs3 : Kept a s3 := State.stepEnd_kept hs2
    clear_value s3
    extract_lets -merge -underBinder +onlyGivenNames s4
    have hs4 : Kept a s4 := by
      unfold s4
      refine ite_of (P := Kept a) (fun _ => ?_) (fun _ => ?_)
      · exact hs3
      · exact State.seqDone_kept hs3
    clear_value s4
    exact State.freeSeq_kept hs4

theorem State.logits_kept (h : Kept a s) {x b i} : Kept a (State.logits s x b i).2 := by
  unfold State.logits
  split
  · exact snd_mk (P := Kept a) (h)
  · exact State.tsBytes_kept h

theorem State.passEntryEnd_kept (h : Kept a s) {x e i} : Kept a (State.passEntryEnd s x e i) := by
  unfold State.passEntryEnd
  split
  · exact h
  · split
    · exact h
    · refine ite_of (P := Kept a) (fun _ => ?_) (fun _ => ?_)
      · exact h
      · extract_lets -merge -underBinder +onlyGivenNames lg1
        have hlg1 : Kept a lg1.2 := by
          unfold lg1
          refine ite_of (P := fun r => Kept a (Prod.snd r)) (fun _ => ?_) (fun _ => ?_)
          · exact State.logits_kept h
          · exact snd_mk (P := Kept a) (h)
        clear_value lg1
        extract_lets -merge -underBinder +onlyGivenNames code2 s3
        have hs3 : Kept a s3 := hlg1
        clear_value s3
        refine ite_of (P := Kept a) (fun _ => ?_) (fun _ => ?_)
        · exact State.onSeq_kept (State.stepEnd_kept hs3)
        · extract_lets -merge -underBinder +onlyGivenNames n4 s5
          have hs5 : Kept a s5 := State.psInvSeq_kept (State.stN_kept hs3)
          clear_value s5
          refine ite_of (P := Kept a) (fun _ => ?_) (fun _ => ?_)
          · exact State.onSeq_kept hs5
          · extract_lets -merge -underBinder +onlyGivenNames s6
            have hs6 : Kept a s6 := State.onSeq_kept hs5
            clear_value s6
            extract_lets -merge -underBinder +onlyGivenNames empty7
            refine ite_of (P := Kept a) (fun _ => ?_) (fun _ => ?_)
            · exact hs6
            · exact State.stepEnd_kept (State.hostSt_kept hs6)

theorem State.passEnd_kept (h : Kept a s) {x} : Kept a (State.passEnd s x) := by
  unfold State.passEnd
  extract_lets -merge -underBinder +onlyGivenNames last1 mine2 r3
  have hr3 : Kept a r3.1 := by
    unfold r3
    refine foldl_of (P := fun r => Kept a (Prod.fst r)) ?_ (fun _ _ k4 => ?_)
    · exact fst_mk (P := Kept a) (h)
    · extract_lets -merge -underBinder +onlyGivenNames e5 s6
      have hs6 : Kept a s6 := by
        unfold s6
        refine ite_of (P := Kept a) (fun _ => ?_) (fun _ => ?_)
        · exact State.passEntryEnd_kept k4
        · exact k4
      clear_value s6
      exact fst_mk (P := Kept a) (hs6)
  clear_value r3
  extract_lets -merge -underBinder +onlyGivenNames s7
  have hs7 : Kept a s7 := State.unpinStep_kept hr3
  clear_value s7
  exact State.onSet_kept hs7

theorem State.passAbandon_kept (h : Kept a s) {x} : Kept a (State.passAbandon s x) := by
  unfold State.passAbandon
  extract_lets -merge -underBinder +onlyGivenNames s1
  have hs1 : Kept a s1 := by
    unfold s1
    refine foldl_of (P := Kept a) ?_ (fun _ _ k2 => ?_)
    · exact h
    · split
      · refine ite_of (P := Kept a) (fun _ => ?_) (fun _ => ?_)
        · exact State.onSeq_kept (State.stepEnd_kept k2)
        · exact k2
      · exact k2
  clear_value s1
  extract_lets -merge -underBinder +onlyGivenNames s3
  have hs3 : Kept a s3 := State.unpinStep_kept hs1
  clear_value s3
  exact State.onSet_kept hs3

theorem State.shed_kept {s : State} (h : Kept a s) {hx ax1} : Kept a (State.shed hx s ax1) := by
  unfold State.shed
  split
  · exact (h)
  · extract_lets -merge -underBinder +onlyGivenNames ok4
    refine ite_of (P := Kept a) (fun _ => ?_) (fun _ => ?_)
    · exact (h)
    · split
      · exact (h)
      · refine ite_of (P := Kept a) (fun _ => ?_) (fun _ => ?_)
        · exact State.shed_kept (State.bump_kept (State.onSeq_kept (h)))
        · extract_lets -merge -underBinder +onlyGivenNames s5
          have hs5 : Kept a s5 := State.bump_kept (h)
          clear_value s5
          refine State.shed_kept ?_
          refine ite_of (P := Kept a) (fun _ => ?_) (fun _ => ?_)
          · exact State.onSeq_kept hs5
          · exact State.freeSeq_kept (State.stepEnd_kept hs5)

theorem State.writePass_kept (h : Kept a s) {x ents} : Kept a (State.writePass s x ents) := by
  unfold State.writePass
  extract_lets -merge -underBinder +onlyGivenNames rows1 adp2 arows3 placed4 list5 s6
  have hs6 : Kept a s6 := by
    unfold s6
    refine foldl_of (P := Kept a) ?_ (fun _ _ k7 => ?_)
    · exact h
    · extract_lets -merge -underBinder +onlyGivenNames s8
      have hs8 : Kept a s8 := State.tsPut_kept k7
      clear_value s8
      extract_lets -merge -underBinder +onlyGivenNames s9
      have hs9 : Kept a s9 := by
        unfold s9
        refine ite_of (P := Kept a) (fun _ => ?_) (fun _ => ?_)
        · exact hs8
        · exact State.tsPut_kept hs8
      clear_value s9
      refine foldl_of (P := Kept a) ?_ (fun _ _ k10 => ?_)
      · exact hs9
      · refine ite_of (P := Kept a) (fun _ => ?_) (fun _ => ?_)
        · exact k10
        · exact State.tsPut_kept k10
  clear_value s6
  exact State.onSet_kept hs6

theorem State.startPass_kept (h : Kept a s) {x} : Kept a (State.startPass s x) := by
  unfold State.startPass
  extract_lets -merge -underBinder +onlyGivenNames go1 dec2 decE3 pre4 ents5 s6
  have hs6 : Kept a s6 := by
    unfold s6
    refine foldl_of (P := Kept a) ?_ (fun _ _ k7 => ?_)
    · exact h
    · split
      · exact State.onSeq_kept (State.mapFor_kept k7)
      · exact k7
  clear_value s6
  exact State.onSet_kept (State.writePass_kept hs6)

theorem State.setPhases_kept (h : Kept a s) {x} : Kept a (State.setPhases s x) := by
  unfold State.setPhases
  refine foldl_of (P := Kept a) ?_ (fun _ _ k1 => ?_)
  · exact h
  · extract_lets -merge -underBinder +onlyGivenNames k2 p3
    exact State.wr_kept k1

theorem State.freeAdapters_kept (h : Kept a s) : Kept a (State.freeAdapters s) := by
  unfold State.freeAdapters
  refine foldl_of (P := Kept a) ?_ (fun _ _ k1 => ?_)
  · exact h
  · refine ite_of (P := Kept a) (fun _ => ?_) (fun _ => ?_)
    · split
      · exact State.dropModel_kept k1
      · exact State.wr_kept k1
    · exact k1

theorem State.passBoundary_kept (h : Kept a s) {x pend} : Kept a (State.passBoundary s x pend) := by
  unfold State.passBoundary
  extract_lets -merge -underBinder +onlyGivenNames s1
  have hs1 : Kept a s1 := by
    unfold s1
    refine foldl_of (P := Kept a) ?_ (fun _ _ k2 => ?_)
    · exact h
    · exact State.endSeq_kept k2
  clear_value s1
  extract_lets -merge -underBinder +onlyGivenNames s3
  have hs3 : Kept a s3 := State.shed_kept (State.setsParked_kept hs1)
  clear_value s3
  extract_lets -merge -underBinder +onlyGivenNames s4
  have hs4 : Kept a s4 := State.freeAdapters_kept (State.psReclaim_kept hs3)
  clear_value s4
  extract_lets -merge -underBinder +onlyGivenNames s5
  have hs5 : Kept a s5 := by
    unfold s5
    refine ite_of (P := Kept a) (fun _ => ?_) (fun _ => ?_)
    · exact State.timeOut_kept hs4
    · exact hs4
  clear_value s5
  extract_lets -merge -underBinder +onlyGivenNames src6 s7
  have hs7 : Kept a s7 := by
    unfold s7
    unfold src6; apply Kept.keepF hs5; exact fun _ => rfl
  clear_value s7
  extract_lets -merge -underBinder +onlyGivenNames s8
  have hs8 : Kept a s8 := by
    unfold s8
    refine ite_of (P := Kept a) (fun _ => ?_) (fun _ => ?_)
    · exact State.timeOut_kept hs7
    · exact hs5
  clear_value s8
  extract_lets -merge -underBinder +onlyGivenNames d9 s10
  have hs10 : Kept a s10 := State.ghShow_kept (State.onSet_kept hs8)
  clear_value s10
  split
  · exact State.startPass_kept hs10
  · exact hs10

theorem State.gateTide_kept (h : Kept a s) {x lost pend} : Kept a (State.gateTide s x lost pend) := by
  unfold State.gateTide
  extract_lets -merge -underBinder +onlyGivenNames s2
  have hs2 : Kept a s2 := by
    unfold s2
    refine ite_of (P := Kept a) (fun _ => h) (fun _ => ?_)
    refine ite_of (P := Kept a) (fun _ => ?_) (fun _ => ?_)
    · exact ite_of (P := Kept a) (fun _ => State.passAbandon_kept h) fun _ => State.onSet_kept (State.bump_kept h)
    · exact ite_of (P := Kept a) (fun _ => State.onSet_kept h) fun _ => State.passEnd_kept h
  clear_value s2
  extract_lets -merge -underBinder +onlyGivenNames at'3
  have hat : ∀ (s : State) (f : State → ProgSet → State), Kept a s → (∀ s x, Kept a s → Kept a (f s x)) → Kept a (at'3 s f) := by
    intro s f k e
    unfold at'3
    split
    · exact e _ _ k
    · exact k
  clear_value at'3
  refine hat _ _ (hat _ _ (hat _ _ hs2 fun s x k => ?_) fun s x k => ?_) fun s x k => ?_
  · exact ite_of (P := Kept a) (fun _ => k) fun _ => State.passBoundary_kept k
  · split
    · exact State.onSet_kept (State.timeOut_kept k)
    · exact State.onSet_kept k
  · exact ite_of (P := Kept a) (fun _ => k) fun _ => State.setPhases_kept k

theorem State.gateBoundary_kept (h : Kept a s) {lost pend} : Kept a (State.gateBoundary s lost pend) := by
  unfold State.gateBoundary
  refine foldl_of (P := Kept a) ?_ (fun _ _ k1 => ?_)
  · exact h
  · exact State.gateTide_kept k1

end Sys2Proof.Machine
end

