-- ==== Sys2Proof/Laws/KeptCapture.lean ====
section
/-! SUPPORT. What the operations of Machine/Capture.lean keep. -/

namespace Sys2Proof.Machine

variable {a s : State}

theorem State.onJob_kept (h : Kept a s) {hx f} : Kept a (State.onJob s hx f) := by
  unfold State.onJob
  apply Kept.keepF h; exact fun _ => rfl

theorem State.captureStart_kept (h : Kept a s) : Kept a (State.captureStart s) := by
  unfold State.captureStart
  split
  · exact h
  · have k1 := State.takeOp_kept h (by assumption)
    extract_lets -merge -underBinder +onlyGivenNames tag2 b3 s4
    have hs4 : Kept a s4 := State.spaceErr_kept k1
    clear_value s4
    extract_lets -merge -underBinder +onlyGivenNames refuse5
    have hrefuse5 : ∀ y6, Kept a (refuse5 y6) := by
      intro y6
      unfold refuse5
      exact State.complete_kept hs4
    clear_value refuse5
    extract_lets -merge -underBinder +onlyGivenNames j7
    refine ite_of (P := Kept a) (fun _ => ?_) (fun _ => ?_)
    · exact hrefuse5 _
    · refine ite_of (P := Kept a) (fun _ => ?_) (fun _ => ?_)
      · exact hrefuse5 _
      · refine ite_of (P := Kept a) (fun _ => ?_) (fun _ => ?_)
        · exact hrefuse5 _
        · split
          · extract_lets -merge -underBinder +onlyGivenNames h8 j9 s10
            have hs10 : Kept a s10 := State.register_kept hs4
            clear_value s10
            extract_lets -merge -underBinder +onlyGivenNames src11 src12 s13
            have hs13 : Kept a s13 := by
              unfold s13
              unfold src12 src11; apply Kept.keepF hs10; exact fun _ => rfl
            clear_value s13
            exact State.complete_kept (State.books_kept hs13)
          · exact hrefuse5 _

theorem execCaptureStart_kept (h : Kept a s) : ResKept a (execCaptureStart s) := by
  unfold execCaptureStart
  exact ResKept.next (State.captureStart_kept h)

theorem State.gradAt_kept (h : Kept a s) {j i} : Kept a (State.gradAt s j i) := by
  unfold State.gradAt
  extract_lets -merge -underBinder +onlyGivenNames f1
  have hf1 : Kept a f1.2 := State.free_kept h
  clear_value f1
  extract_lets -merge -underBinder +onlyGivenNames o2
  exact State.st_kept hf1

theorem State.adamAt_kept (h : Kept a s) {j ax b i} : Kept a (State.adamAt s j ax b i) := by
  unfold State.adamAt
  extract_lets -merge -underBinder +onlyGivenNames o1 x2 r3
  exact State.st_kept h

theorem State.optimise_kept (h : Kept a s) {j} : Kept a (State.optimise s j) := by
  unfold State.optimise
  extract_lets -merge -underBinder +onlyGivenNames p11 p22 a3 b4
  refine State.onJob_kept ?_
  refine foldl_of (P := Kept a) ?_ (fun _ _ k5 => ?_)
  · exact h
  · exact State.adamAt_kept (State.gradAt_kept k5)

theorem State.jobEnd_kept (h : Kept a s) {j status len} : Kept a (State.jobEnd s j status len) := by
  unfold State.jobEnd
  extract_lets -merge -underBinder +onlyGivenNames s1
  have hs1 : Kept a s1 := State.postEvent_kept h
  clear_value s1
  refine ite_of (P := Kept a) (fun _ => ?_) (fun _ => ?_)
  · exact State.onJob_kept hs1
  · extract_lets -merge -underBinder +onlyGivenNames src2
    have hsrc2 : Kept a src2 := State.dropClient_kept hs1
    clear_value src2
    apply Kept.keepF hsrc2; exact fun _ => rfl

theorem State.trainStep_kept (h : Kept a s) {hx} : Kept a (State.trainStep s hx) := by
  unfold State.trainStep
  split
  · exact h
  · split
    · exact h
    · refine ite_of (P := Kept a) (fun _ => ?_) (fun _ => ?_)
      · exact h
      · extract_lets -merge -underBinder +onlyGivenNames s1
        have hs1 : Kept a s1 := State.optimise_kept h
        clear_value s1
        extract_lets -merge -underBinder +onlyGivenNames l2
        have hl2 : Kept a l2.2 := by
          unfold l2
          split
          · exact State.tsBytes_kept hs1
          · exact snd_mk (P := Kept a) (hs1)
        clear_value l2
        extract_lets -merge -underBinder +onlyGivenNames s3
        have hs3 : Kept a s3 := hl2
        clear_value s3
        extract_lets -merge -underBinder +onlyGivenNames loss4 last5 ep6 k7 s8
        have hs8 : Kept a s8 := State.onJob_kept hs3
        clear_value s8
        extract_lets -merge -underBinder +onlyGivenNames s9
        have hs9 : Kept a s9 := by
          unfold s9
          refine ite_of (P := Kept a) (fun _ => ?_) (fun _ => ?_)
          · exact State.postEvent_kept hs8
          · exact hs8
        clear_value s9
        refine ite_of (P := Kept a) (fun _ => ?_) (fun _ => ?_)
        · exact State.jobEnd_kept hs9
        · refine ite_of (P := Kept a) (fun _ => ?_) (fun _ => ?_)
          · extract_lets -merge -underBinder +onlyGivenNames p10
            exact State.jobEnd_kept (State.st_kept hs9)
          · exact hs9

theorem execCaptureTrainingStep_kept (h : Kept a s) {job} : ResKept a (execCaptureTrainingStep job s) := by
  unfold execCaptureTrainingStep
  exact ResKept.next (State.trainStep_kept h)

theorem State.captureCancel_kept (h : Kept a s) : Kept a (State.captureCancel s) := by
  unfold State.captureCancel
  split
  · exact h
  · have k1 := State.takeOp_kept h (by assumption)
    extract_lets -merge -underBinder +onlyGivenNames tag2 h3
    split
    · exact State.complete_kept k1
    · extract_lets -merge -underBinder +onlyGivenNames s4
      have hs4 : Kept a s4 := State.complete_kept k1
      clear_value s4
      split
      · refine ite_of (P := Kept a) (fun _ => ?_) (fun _ => ?_)
        · exact State.onJob_kept hs4
        · exact State.jobEnd_kept hs4
      · exact State.jobEnd_kept hs4

theorem execCaptureCancel_kept (h : Kept a s) : ResKept a (execCaptureCancel s) := by
  unfold execCaptureCancel
  exact ResKept.next (State.captureCancel_kept h)

end Sys2Proof.Machine
end

