-- ==== Sys2Proof/Laws/KeptHeld.lean ====
section
/-! SUPPORT. What the operations of Machine/Held.lean keep. -/

namespace Sys2Proof.Machine

variable {a s : State}

theorem State.slotRow_kept (h : Kept a s) {t p k row b} : Kept a (State.slotRow s t p k row b) := by
  unfold State.slotRow
  exact State.writeRow_kept h

theorem State.heldRows_kept {s : State} (h : Kept a s) {t p k row ax} : Kept a (State.heldRows s t p k row ax) := by
  unfold State.heldRows
  split
  · exact h
  · exact State.heldRows_kept (State.slotRow_kept h)

theorem State.heldDone_kept (h : Kept a s) {t p k rows} : Kept a (State.heldDone s t p k rows) := by
  unfold State.heldDone
  exact State.onStn_kept h

theorem State.heldFlip_kept (h : Kept a s) {t p} : Kept a (State.heldFlip s t p) := by
  unfold State.heldFlip
  extract_lets -merge -underBinder +onlyGivenNames done1 n2 s3
  have hs3 : Kept a s3 := by
    unfold s3
    refine foldl_of (P := Kept a) ?_ (fun _ _ k4 => ?_)
    · exact h
    · extract_lets -merge -underBinder +onlyGivenNames k5
      refine ite_of (P := Kept a) (fun _ => ?_) (fun _ => ?_)
      · extract_lets -merge -underBinder +onlyGivenNames s6
        have hs6 : Kept a s6 := by
          unfold s6
          refine ite_of (P := Kept a) (fun _ => ?_) (fun _ => ?_)
          · exact State.setPresent_kept k4
          · exact State.clearPresent_kept k4
        clear_value s6
        exact State.clearPresent_kept hs6
      · exact k4
  clear_value s3
  exact State.onStn_kept hs3

end Sys2Proof.Machine
end

