-- ==== Sys2Proof/Laws/KeptVision.lean ====
section
/-! SUPPORT. What the operations of Machine/Vision.lean keep. -/

namespace Sys2Proof.Machine

variable {a s : State}

theorem State.psetRead_kept (h : Kept a s) {ax} : Kept a (State.psetRead s ax) := by
  unfold State.psetRead
  refine ite_of (P := Kept a) (fun _ => ?_) (fun _ => ?_)
  · exact State.dramRead_kept h
  · exact h

theorem State.onPort_kept (h : Kept a s) {p f} : Kept a (State.onPort s p f) := by
  unfold State.onPort
  apply Kept.keepF h; exact fun _ => rfl

theorem State.onCtx_kept (h : Kept a s) {c f} : Kept a (State.onCtx s c f) := by
  unfold State.onCtx
  apply Kept.keepF h; exact fun _ => rfl

theorem State.takeFields_kept (h : Kept a s) {w l} : Kept a (State.takeFields s w l) := by
  unfold State.takeFields
  refine foldl_of (P := Kept a) ?_ (fun _ _ k1 => ?_)
  · exact h
  · exact State.wr_kept k1

theorem State.vinWrite_kept (h : Kept a s) {p w l} : Kept a (State.vinWrite s p w l) := by
  unfold State.vinWrite
  extract_lets -merge -underBinder +onlyGivenNames n1
  have hn1 : Kept a n1 := State.takeFields_kept h
  clear_value n1
  refine ite_of (P := Kept a) (fun _ => ?_) (fun _ => ?_)
  · exact hn1
  · exact State.wr_kept h

theorem State.vinPortWrite_kept (h : Kept a s) {p size w} : Kept a (State.vinPortWrite s p size w) := by
  unfold State.vinPortWrite
  extract_lets -merge -underBinder +onlyGivenNames was1 s2
  have hs2 : Kept a s2 := by
    unfold s2
    refine ite_of (P := Kept a) (fun _ => ?_) (fun _ => ?_)
    · exact State.vinWrite_kept h
    · exact State.vinWrite_kept h
  clear_value s2
  refine ite_of (P := Kept a) (fun _ => ?_) (fun _ => ?_)
  · exact State.onCtx_kept hs2
  · exact hs2

theorem execVinPortWrite_kept (h : Kept a s) {p size w} : ResKept a (execVinPortWrite p size w s) := by
  unfold execVinPortWrite
  exact ResKept.next (State.vinPortWrite_kept h)

theorem State.vinClose_kept (h : Kept a s) {p fr} : Kept a (State.vinClose s p fr) := by
  unfold State.vinClose
  extract_lets -merge -underBinder +onlyGivenNames fill1 n2 fr3 s4
  have hs4 : Kept a s4 := State.bump_kept h
  clear_value s4
  extract_lets -merge -underBinder +onlyGivenNames s5
  have hs5 : Kept a s5 := by
    unfold s5
    refine ite_of (P := Kept a) (fun _ => ?_) (fun _ => ?_)
    · exact State.bump_kept hs4
    · exact hs4
  clear_value s5
  extract_lets -merge -underBinder +onlyGivenNames s6
  have hs6 : Kept a s6 := by
    unfold s6
    refine ite_of (P := Kept a) (fun _ => ?_) (fun _ => ?_)
    · exact State.bump_kept hs5
    · exact hs5
  clear_value s6
  extract_lets -merge -underBinder +onlyGivenNames s7
  have hs7 : Kept a s7 := State.onPort_kept (State.wr_kept hs6)
  clear_value s7
  refine ite_of (P := Kept a) (fun _ => ?_) (fun _ => ?_)
  · exact hs7
  · exact State.onCtx_kept hs7

theorem State.vinStart_kept (h : Kept a s) {p} : Kept a (State.vinStart s p) := by
  unfold State.vinStart
  extract_lets -merge -underBinder +onlyGivenNames s1
  have hs1 : Kept a s1 := State.wr_kept h
  clear_value s1
  refine ite_of (P := Kept a) (fun _ => ?_) (fun _ => ?_)
  · exact hs1
  · extract_lets -merge -underBinder +onlyGivenNames c2 new3 pset4 s5
    have hs5 : Kept a s5 := State.psetRead_kept hs1
    clear_value s5
    extract_lets -merge -underBinder +onlyGivenNames s6
    have hs6 : Kept a s6 := by
      unfold s6
      refine ite_of (P := Kept a) (fun _ => ?_) (fun _ => ?_)
      · exact State.bump_kept hs5
      · exact hs5
    clear_value s6
    extract_lets -merge -underBinder +onlyGivenNames fr7 s8
    have hs8 : Kept a s8 := State.onCtx_kept hs6
    clear_value s8
    exact State.onPort_kept (State.wr_kept hs8)

theorem execVinFrameStart_kept (h : Kept a s) {p} : ResKept a (execVinFrameStart p s) := by
  unfold execVinFrameStart
  exact ResKept.next (State.vinStart_kept h)

theorem State.vinLine_kept (h : Kept a s) {p px lost} : Kept a (State.vinLine s p px lost) := by
  unfold State.vinLine
  extract_lets -merge -underBinder +onlyGivenNames s1
  have hs1 : Kept a s1 := State.wr_kept h
  clear_value s1
  split
  · exact hs1
  · extract_lets -merge -underBinder +onlyGivenNames c2 y3 ck4 s5
    have hs5 : Kept a s5 := by
      unfold s5
      refine ite_of (P := Kept a) (fun _ => ?_) (fun _ => ?_)
      · exact State.bump_kept hs1
      · exact hs1
    clear_value s5
    extract_lets -merge -underBinder +onlyGivenNames fr6
    refine ite_of (P := Kept a) (fun _ => ?_) (fun _ => ?_)
    · exact State.onPort_kept hs5
    · extract_lets -merge -underBinder +onlyGivenNames fill7 n8 code9 img10 full11 img12 data13
      extract_lets -merge -underBinder +onlyGivenNames fr14
      refine ite_of (P := Kept a) (fun _ => ?_) (fun _ => ?_)
      · extract_lets -merge -underBinder +onlyGivenNames k15 a16 b17 s18
        have hs18 : Kept a s18 := by
          unfold s18
          refine ite_of (P := Kept a) (fun _ => ?_) (fun _ => ?_)
          · exact State.dramWrite_kept hs5
          · exact State.addrError_kept hs5
        clear_value s18
        exact State.onPort_kept hs18
      · exact State.onPort_kept hs5

theorem execVinLineEnd_kept (h : Kept a s) {p px lost} : ResKept a (execVinLineEnd p px lost s) := by
  unfold execVinLineEnd
  exact ResKept.next (State.vinLine_kept h)

theorem State.vinEnd_kept (h : Kept a s) {p} : Kept a (State.vinEnd s p) := by
  unfold State.vinEnd
  split
  · exact State.vinClose_kept h
  · exact State.onPort_kept h

theorem execVinFrameEnd_kept (h : Kept a s) {p} : ResKept a (execVinFrameEnd p s) := by
  unfold execVinFrameEnd
  exact ResKept.next (State.vinEnd_kept h)

theorem State.vinTimeout_kept (h : Kept a s) {p} : Kept a (State.vinTimeout s p) := by
  unfold State.vinTimeout
  split
  · exact State.onPort_kept (State.vinClose_kept h)
  · exact h

theorem execVinFrameTimeout_kept (h : Kept a s) {p} : ResKept a (execVinFrameTimeout p s) := by
  unfold execVinFrameTimeout
  exact ResKept.next (State.vinTimeout_kept h)

theorem State.vinPclkLost_kept (h : Kept a s) {p} : Kept a (State.vinPclkLost s p) := by
  unfold State.vinPclkLost
  split
  · exact State.wr_kept (State.vinClose_kept h)
  · exact h

theorem execVinPclkLoss_kept (h : Kept a s) {p} : ResKept a (execVinPclkLoss p s) := by
  unfold execVinPclkLoss
  exact ResKept.next (State.vinPclkLost_kept h)

theorem execVinPclkReturn_kept (h : Kept a s) {p} : ResKept a (execVinPclkReturn p s) := by
  unfold execVinPclkReturn
  exact ResKept.next (State.wr_kept h)

theorem State.vinStore_kept (h : Kept a s) {ax b} : Kept a (State.vinStore s ax b) := by
  unfold State.vinStore
  refine ite_of (P := Kept a) (fun _ => ?_) (fun _ => ?_)
  · exact State.dramWrite_kept h
  · exact State.addrError_kept h

theorem State.vinOutputs_kept (h : Kept a s) {c f} : Kept a (State.vinOutputs s c f) := by
  unfold State.vinOutputs
  extract_lets -merge -underBinder +onlyGivenNames b1 g2 planes3 i4 s5
  have hs5 : Kept a s5 := by
    unfold s5
    refine ite_of (P := Kept a) (fun _ => ?_) (fun _ => ?_)
    · exact State.vinStore_kept h
    · exact h
  clear_value s5
  extract_lets -merge -underBinder +onlyGivenNames s6
  have hs6 : Kept a s6 := by
    unfold s6
    refine ite_of (P := Kept a) (fun _ => ?_) (fun _ => ?_)
    · exact State.vinStore_kept hs5
    · exact hs5
  clear_value s6
  extract_lets -merge -underBinder +onlyGivenNames rows7 x8 ts9 j10 row11 s12
  have hs12 : Kept a s12 := by
    unfold s12
    refine ite_of (P := Kept a) (fun _ => ?_) (fun _ => ?_)
    · exact State.clearMarks_kept (State.st_kept hs6)
    · exact hs6
  clear_value s12
  extract_lets -merge -underBinder +onlyGivenNames lost13 s14
  have hs14 : Kept a s14 := by
    unfold s14
    refine ite_of (P := Kept a) (fun _ => ?_) (fun _ => ?_)
    · exact State.bump_kept hs12
    · exact hs12
  clear_value s14
  extract_lets -merge -underBinder +onlyGivenNames tail15 t16 s17
  have hs17 : Kept a s17 := State.onCtx_kept hs14
  clear_value s17
  exact State.postEvent_kept hs17

theorem State.vinComplete_kept (h : Kept a s) {c} : Kept a (State.vinComplete s c) := by
  unfold State.vinComplete
  split
  · exact h
  · refine ite_of (P := Kept a) (fun _ => ?_) (fun _ => ?_)
    · exact h
    · exact State.vinOutputs_kept (State.onCtx_kept h)

theorem execVinOutputComplete_kept (h : Kept a s) {c} : ResKept a (execVinOutputComplete c s) := by
  unfold execVinOutputComplete
  exact ResKept.next (State.vinComplete_kept h)

theorem State.vinRecord_kept (h : Kept a s) {c stamp tail rows} : Kept a (State.vinRecord s c stamp tail rows) := by
  unfold State.vinRecord
  extract_lets -merge -underBinder +onlyGivenNames d1 s2
  have hs2 : Kept a s2 := State.heldDone_kept (State.heldRows_kept h)
  clear_value s2
  refine ite_of (P := Kept a) (fun _ => ?_) (fun _ => ?_)
  · exact hs2
  · extract_lets -merge -underBinder +onlyGivenNames n3
    exact State.heldDone_kept (State.heldRows_kept hs2)

theorem State.vinPublish_kept (h : Kept a s) {c} : Kept a (State.vinPublish s c) := by
  unfold State.vinPublish
  extract_lets -merge -underBinder +onlyGivenNames x1
  refine ite_of (P := Kept a) (fun _ => ?_) (fun _ => ?_)
  · exact h
  · split
    · refine ite_of (P := Kept a) (fun _ => ?_) (fun _ => ?_)
      · exact State.onCtx_kept (State.vinRecord_kept h)
      · extract_lets -merge -underBinder +onlyGivenNames fl2 s3
        have hs3 : Kept a s3 := State.bump_kept (State.vinRecord_kept h)
        clear_value s3
        exact State.onCtx_kept hs3
    · extract_lets -merge -underBinder +onlyGivenNames f4
      have hf4 : Kept a f4.2 := State.free_kept h
      clear_value f4
      exact State.onCtx_kept (State.vinRecord_kept hf4)

theorem execVinPublish_kept (h : Kept a s) {c} : ResKept a (execVinPublish c s) := by
  unfold execVinPublish
  exact ResKept.next (State.vinPublish_kept h)

theorem State.vinVoid_kept (h : Kept a s) {c} : Kept a (State.vinVoid s c) := by
  unfold State.vinVoid
  extract_lets -merge -underBinder +onlyGivenNames x1
  refine ite_of (P := Kept a) (fun _ => ?_) (fun _ => ?_)
  · exact h
  · extract_lets -merge -underBinder +onlyGivenNames d2 k3 m4 a5 s6
    have hs6 : Kept a s6 := State.writeRow_kept h
    clear_value s6
    extract_lets -merge -underBinder +onlyGivenNames s7
    have hs7 : Kept a s7 := by
      unfold s7
      refine ite_of (P := Kept a) (fun _ => ?_) (fun _ => ?_)
      · exact hs6
      · refine foldl_of (P := Kept a) ?_ (fun _ _ k8 => ?_)
        · exact hs6
        · exact State.slotRow_kept k8
    clear_value s7
    exact State.onCtx_kept hs7

theorem State.vinMux_kept (h : Kept a s) {w} : Kept a (State.vinMux s w) := by
  unfold State.vinMux
  extract_lets -merge -underBinder +onlyGivenNames s1
  have hs1 : Kept a s1 := by
    unfold s1
    refine ite_of (P := Kept a) (fun _ => ?_) (fun _ => ?_)
    · exact State.wr_kept h
    · exact h
  clear_value s1
  extract_lets -merge -underBinder +onlyGivenNames stripe2 ports3 sum4 hot5
  refine ite_of (P := Kept a) (fun _ => ?_) (fun _ => ?_)
  · exact State.wr_kept hs1
  · exact State.takeFields_kept hs1

theorem execVinMuxWrite_kept (h : Kept a s) {w} : ResKept a (execVinMuxWrite w s) := by
  unfold execVinMuxWrite
  exact ResKept.next (State.vinMux_kept h)

theorem State.muxUnit_kept (h : Kept a s) : Kept a (State.muxUnit s) := by
  unfold State.muxUnit
  refine ite_of (P := Kept a) (fun _ => ?_) (fun _ => ?_)
  · exact h
  · extract_lets -merge -underBinder +onlyGivenNames ready1
    split
    · exact h
    · split
      · exact h
      · extract_lets -merge -underBinder +onlyGivenNames g2 s3
        have hs3 : Kept a s3 := State.bump_kept h
        clear_value s3
        extract_lets -merge -underBinder +onlyGivenNames src4 s5
        have hs5 : Kept a s5 := by
          unfold s5
          unfold src4; apply Kept.keepF hs3; exact fun _ => rfl
        clear_value s5
        refine ite_of (P := Kept a) (fun _ => ?_) (fun _ => ?_)
        · exact State.onPort_kept hs5
        · exact State.onCtx_kept hs5

theorem execVinMuxUnit_kept (h : Kept a s) : ResKept a (execVinMuxUnit s) := by
  unfold execVinMuxUnit
  exact ResKept.next (State.muxUnit_kept h)

theorem State.vinBoundary_kept (h : Kept a s) : Kept a (State.vinBoundary s) := by
  unfold State.vinBoundary
  extract_lets -merge -underBinder +onlyGivenNames s1
  have hs1 : Kept a s1 := by
    unfold s1
    split
    · refine State.vinMux_kept ?_
      apply Kept.keepF h; exact fun _ => rfl
    · exact h
  clear_value s1
  refine foldl_of (P := Kept a) ?_ (fun _ _ k2 => ?_)
  · exact hs1
  · extract_lets -merge -underBinder +onlyGivenNames s3
    have hs3 : Kept a s3 := State.onCtx_kept k2
    clear_value s3
    extract_lets -merge -underBinder +onlyGivenNames s4
    have hs4 : Kept a s4 := by
      unfold s4
      refine ite_of (P := Kept a) (fun _ => ?_) (fun _ => ?_)
      · exact State.vinVoid_kept hs3
      · exact hs3
    clear_value s4
    exact State.onCtx_kept hs4

end Sys2Proof.Machine
end

