-- ==== Sys2Proof/Laws/KeptAudio.lean ====
section
/-! SUPPORT. What the operations of Machine/Audio.lean keep. -/

namespace Sys2Proof.Machine

variable {a s : State}

theorem State.audClkWrite_kept (h : Kept a s) {w} : Kept a (State.audClkWrite s w) := by
  unfold State.audClkWrite
  extract_lets -merge -underBinder +onlyGivenNames s1
  have hs1 : Kept a s1 := by
    unfold s1
    refine ite_of (P := Kept a) (fun _ => ?_) (fun _ => ?_)
    · exact State.wr_kept h
    · exact h
  clear_value s1
  refine ite_of (P := Kept a) (fun _ => ?_) (fun _ => ?_)
  · exact State.wr_kept hs1
  · exact State.takeFields_kept hs1

theorem execAudClkWrite_kept (h : Kept a s) {w} : ResKept a (execAudClkWrite w s) := by
  unfold execAudClkWrite
  exact ResKept.next (State.audClkWrite_kept h)

theorem State.onIn_kept (h : Kept a s) {p f} : Kept a (State.onIn s p f) := by
  unfold State.onIn
  apply Kept.keepF h; exact fun _ => rfl

theorem State.onOut_kept (h : Kept a s) {p f} : Kept a (State.onOut s p f) := by
  unfold State.onOut
  apply Kept.keepF h; exact fun _ => rfl

theorem State.audStore_kept (h : Kept a s) {p slot f w} : Kept a (State.audStore s p slot f w) := by
  unfold State.audStore
  refine ite_of (P := Kept a) (fun _ => ?_) (fun _ => ?_)
  · exact h
  · refine foldl_of (P := Kept a) ?_ (fun _ _ k1 => ?_)
    · exact h
    · refine ite_of (P := Kept a) (fun _ => ?_) (fun _ => ?_)
      · extract_lets -merge -underBinder +onlyGivenNames q2 k3 a4
        exact State.slotRow_kept k1
      · exact k1

theorem State.audSample_kept (h : Kept a s) {p slot w nxt} : Kept a (State.audSample s p slot w nxt) := by
  unfold State.audSample
  extract_lets -merge -underBinder +onlyGivenNames slots1
  refine ite_of (P := Kept a) (fun _ => ?_) (fun _ => ?_)
  · exact h
  · extract_lets -merge -underBinder +onlyGivenNames last2 src3 s4
    have hs4 : Kept a s4 := by
      unfold s4
      refine ite_of (P := Kept a) (fun _ => ?_) (fun _ => ?_)
      · unfold src3; apply Kept.keepF h; exact fun _ => rfl
      · exact h
    clear_value s4
    extract_lets -merge -underBinder +onlyGivenNames i5
    refine ite_of (P := Kept a) (fun _ => ?_) (fun _ => ?_)
    · exact hs4
    · extract_lets -merge -underBinder +onlyGivenNames v6 st7 s8
      have hs8 : Kept a s8 := by
        unfold s8
        refine ite_of (P := Kept a) (fun _ => ?_) (fun _ => ?_)
        · exact State.bump_kept hs4
        · exact hs4
      clear_value s8
      refine ite_of (P := Kept a) (fun _ => ?_) (fun _ => ?_)
      · exact State.onIn_kept hs8
      · exact State.onIn_kept (State.audStore_kept hs8)

theorem execAudInputSample_kept (h : Kept a s) {p slot w nxt} : ResKept a (execAudInputSample p slot w nxt s) := by
  unfold execAudInputSample
  exact ResKept.next (State.audSample_kept h)

theorem State.audInClose_kept (h : Kept a s) {p} : Kept a (State.audInClose s p) := by
  unfold State.audInClose
  extract_lets -merge -underBinder +onlyGivenNames i1
  refine ite_of (P := Kept a) (fun _ => ?_) (fun _ => ?_)
  · exact h
  · extract_lets -merge -underBinder +onlyGivenNames gap2 extra3 s4
    have hs4 : Kept a s4 := by
      unfold s4
      refine ite_of (P := Kept a) (fun _ => ?_) (fun _ => ?_)
      · exact State.bump_kept h
      · exact h
    clear_value s4
    extract_lets -merge -underBinder +onlyGivenNames s5
    have hs5 : Kept a s5 := by
      unfold s5
      refine ite_of (P := Kept a) (fun _ => ?_) (fun _ => ?_)
      · exact State.bump_kept hs4
      · exact hs4
    clear_value s5
    extract_lets -merge -underBinder +onlyGivenNames st6
    have hst6 : Kept a st6.2 := by
      unfold st6
      split
      · exact snd_mk (P := Kept a) (hs5)
      · extract_lets -merge -underBinder +onlyGivenNames f7
        have hf7 : Kept a f7.2 := State.free_kept hs5
        clear_value f7
        exact snd_mk (P := Kept a) (hf7)
    clear_value st6
    extract_lets -merge -underBinder +onlyGivenNames s8
    have hs8 : Kept a s8 := hst6
    clear_value s8
    extract_lets -merge -underBinder +onlyGivenNames rec'9
    refine foldl_of (P := Kept a) ?_ (fun _ _ k10 => ?_)
    · exact hs8
    · refine ite_of (P := Kept a) (fun _ => ?_) (fun _ => ?_)
      · exact State.heldDone_kept (State.heldRows_kept k10)
      · exact k10

theorem State.audZero_kept (h : Kept a s) {b} : Kept a (State.audZero s b) := by
  unfold State.audZero
  extract_lets -merge -underBinder +onlyGivenNames n1
  refine ite_of (P := Kept a) (fun _ => ?_) (fun _ => ?_)
  · exact h
  · exact State.heldDone_kept (State.heldRows_kept h)

theorem State.audFirst_kept (h : Kept a s) {b} : Kept a (State.audFirst s b) := by
  unfold State.audFirst
  refine ite_of (P := Kept a) (fun _ => ?_) (fun _ => ?_)
  · exact h
  · extract_lets -merge -underBinder +onlyGivenNames par1 fill2
    have hfill2 : ∀ y3 y4 y5, Kept a y3 → Kept a (fill2 y3 y4 y5) := by
      intro y3 y4 y5 k6
      unfold fill2
      refine ite_of (P := Kept a) (fun _ => ?_) (fun _ => ?_)
      · exact k6
      · refine State.setPresent_kept ?_
        refine foldl_of (P := Kept a) ?_ (fun _ _ k7 => ?_)
        · exact k6
        · exact State.slotRow_kept k7
    clear_value fill2
    extract_lets -merge -underBinder +onlyGivenNames n8 s9
    have hs9 : Kept a s9 := by
      unfold s9
      refine foldl_of (P := Kept a) ?_ (fun _ _ k10 => ?_)
      · exact h
      · exact hfill2 _ _ _ (k10)
    clear_value s9
    refine ite_of (P := Kept a) (fun _ => ?_) (fun _ => ?_)
    · exact hs9
    · exact hfill2 _ _ _ (hs9)

theorem State.audDrop_kept (h : Kept a s) {b} : Kept a (State.audDrop s b) := by
  unfold State.audDrop
  refine ite_of (P := Kept a) (fun _ => ?_) (fun _ => ?_)
  · exact h
  · extract_lets -merge -underBinder +onlyGivenNames par1 s2
    have hs2 : Kept a s2 := by
      unfold s2
      refine foldl_of (P := Kept a) ?_ (fun _ _ k3 => ?_)
      · exact h
      · exact State.slotRow_kept k3
    clear_value s2
    refine ite_of (P := Kept a) (fun _ => ?_) (fun _ => ?_)
    · exact hs2
    · exact State.slotRow_kept hs2

theorem State.audFetchBind_kept (h : Kept a s) {b n} : Kept a (State.audFetchBind s b n).2 := by
  unfold State.audFetchBind
  extract_lets -merge -underBinder +onlyGivenNames rows1 np2 first3 there4 r5
  have hr5 : Kept a r5.2 := by
    unfold r5
    refine foldl_of (P := fun r => Kept a (Prod.snd r)) ?_ (fun _ _ k6 => ?_)
    · exact snd_mk (P := Kept a) (h)
    · extract_lets -merge -underBinder +onlyGivenNames k7
      refine ite_of (P := fun r => Kept a (Prod.snd r)) (fun _ => ?_) (fun _ => ?_)
      · exact snd_mk (P := Kept a) (k6)
      · extract_lets -merge -underBinder +onlyGivenNames x8
        have hx8 : Kept a x8.2 := State.readRow_kept k6
        clear_value x8
        exact snd_mk (P := Kept a) (hx8)
  clear_value r5
  extract_lets -merge -underBinder +onlyGivenNames s9
  have hs9 : Kept a s9 := hr5
  clear_value s9
  extract_lets -merge -underBinder +onlyGivenNames data10 frames11 s12
  have hs12 : Kept a s12 := by
    unfold s12
    refine foldl_of (P := Kept a) ?_ (fun _ _ k13 => ?_)
    · exact hs9
    · refine ite_of (P := Kept a) (fun _ => ?_) (fun _ => ?_)
      · exact State.release_kept k13
      · exact k13
  clear_value s12
  exact snd_mk (P := Kept a) (hs12)

theorem State.audDiscard_kept (h : Kept a s) {b n} : Kept a (State.audDiscard s b n) := by
  unfold State.audDiscard
  refine ite_of (P := Kept a) (fun _ => ?_) (fun _ => ?_)
  · exact h
  · extract_lets -merge -underBinder +onlyGivenNames np1
    refine foldl_of (P := Kept a) ?_ (fun _ _ k2 => ?_)
    · exact h
    · extract_lets -merge -underBinder +onlyGivenNames k3
      refine ite_of (P := Kept a) (fun _ => ?_) (fun _ => ?_)
      · exact State.release_kept k2
      · exact k2

theorem State.audFetch_kept (h : Kept a s) {p n sel} : Kept a (State.audFetch s p n sel) := by
  unfold State.audFetch
  extract_lets -merge -underBinder +onlyGivenNames o1
  refine ite_of (P := Kept a) (fun _ => ?_) (fun _ => ?_)
  · exact State.onOut_kept h
  · extract_lets -merge -underBinder +onlyGivenNames c2 r3
    have hr3 : Kept a r3.2 := by
      unfold r3
      refine ite_of (P := fun r => Kept a (Prod.snd r)) (fun _ => ?_) (fun _ => ?_)
      · exact State.audFetchBind_kept h
      · refine ite_of (P := fun r => Kept a (Prod.snd r)) (fun _ => ?_) (fun _ => ?_)
        · exact State.audFetchBind_kept h
        · exact snd_mk (P := Kept a) (h)
    clear_value r3
    extract_lets -merge -underBinder +onlyGivenNames s4
    have hs4 : Kept a s4 := by
      unfold s4
      refine ite_of (P := Kept a) (fun _ => ?_) (fun _ => ?_)
      · exact hr3
      · exact State.audDiscard_kept hr3
    clear_value s4
    extract_lets -merge -underBinder +onlyGivenNames s5
    have hs5 : Kept a s5 := by
      unfold s5
      refine ite_of (P := Kept a) (fun _ => ?_) (fun _ => ?_)
      · exact hs4
      · exact State.audDiscard_kept hs4
    clear_value s5
    exact State.onOut_kept hs5

theorem State.audSent_kept (h : Kept a s) {p} : Kept a (State.audSent s p) := by
  unfold State.audSent
  extract_lets -merge -underBinder +onlyGivenNames o1
  refine ite_of (P := Kept a) (fun _ => ?_) (fun _ => ?_)
  · exact h
  · extract_lets -merge -underBinder +onlyGivenNames cnt2 play3 slots4 s5
    have hs5 : Kept a s5 := by
      unfold s5
      refine foldl_of (P := Kept a) ?_ (fun _ _ k6 => ?_)
      · exact h
      · refine foldl_of (P := Kept a) ?_ (fun _ _ k7 => ?_)
        · exact k6
        · extract_lets -merge -underBinder +onlyGivenNames w8
          exact State.emit_kept k7
    clear_value s5
    extract_lets -merge -underBinder +onlyGivenNames s9
    have hs9 : Kept a s9 := State.bump_kept hs5
    clear_value s9
    extract_lets -merge -underBinder +onlyGivenNames s10
    have hs10 : Kept a s10 := by
      unfold s10
      refine ite_of (P := Kept a) (fun _ => ?_) (fun _ => ?_)
      · exact State.bump_kept hs9
      · exact hs9
    clear_value s10
    refine ite_of (P := Kept a) (fun _ => ?_) (fun _ => ?_)
    · exact State.bump_kept hs10
    · exact hs10

theorem State.audLost_kept (h : Kept a s) : Kept a (State.audLost s) := by
  unfold State.audLost
  refine ite_of (P := Kept a) (fun _ => ?_) (fun _ => ?_)
  · exact h
  · extract_lets -merge -underBinder +onlyGivenNames s1
    have hs1 : Kept a s1 := State.postEvent_kept (State.wr_kept h)
    clear_value s1
    extract_lets -merge -underBinder +onlyGivenNames src2 s3
    have hs3 : Kept a s3 := by
      unfold s3
      unfold src2; apply Kept.keepF hs1; exact fun _ => rfl
    clear_value s3
    refine foldl_of (P := Kept a) ?_ (fun _ _ k4 => ?_)
    · exact hs3
    · exact State.onIn_kept k4

theorem execAudClockLoss_kept (h : Kept a s) : ResKept a (execAudClockLoss s) := by
  unfold execAudClockLoss
  exact ResKept.next (State.audLost_kept h)

theorem execAudClockReturn_kept (h : Kept a s) : ResKept a (execAudClockReturn s) := by
  unfold execAudClockReturn
  refine ResKept.next ?_
  refine ite_of (P := Kept a) (fun _ => ?_) (fun _ => ?_)
  · exact State.postEvent_kept (State.wr_kept h)
  · exact h

theorem State.audClose_kept (h : Kept a s) : Kept a (State.audClose s) := by
  unfold State.audClose
  extract_lets -merge -underBinder +onlyGivenNames s1
  have hs1 : Kept a s1 := by
    unfold s1
    refine foldl_of (P := Kept a) ?_ (fun _ _ k2 => ?_)
    · exact h
    · exact State.audInClose_kept k2
  clear_value s1
  refine foldl_of (P := Kept a) ?_ (fun _ _ k3 => ?_)
  · exact hs1
  · exact State.audSent_kept k3

theorem State.audSettings_kept (h : Kept a s) : Kept a (State.audSettings s) := by
  unfold State.audSettings
  extract_lets -merge -underBinder +onlyGivenNames n1 src2 s3
  have hs3 : Kept a s3 := by
    unfold s3
    unfold src2 n1; apply Kept.keepF h; exact fun _ => rfl
  clear_value s3
  extract_lets -merge -underBinder +onlyGivenNames s4
  have hs4 : Kept a s4 := by
    unfold s4
    refine foldl_of (P := Kept a) ?_ (fun _ _ k5 => ?_)
    · exact hs3
    · exact State.onIn_kept k5
  clear_value s4
  refine foldl_of (P := Kept a) ?_ (fun _ _ k6 => ?_)
  · exact hs4
  · exact State.onOut_kept k6

theorem State.audPend_kept (h : Kept a s) : Kept a (State.audPend s) := by
  unfold State.audPend
  extract_lets -merge -underBinder +onlyGivenNames l1 src2 s3
  have hs3 : Kept a s3 := by
    unfold s3
    unfold src2; apply Kept.keepF h; exact fun _ => rfl
  clear_value s3
  refine foldl_of (P := Kept a) ?_ (fun _ _ k4 => ?_)
  · exact hs3
  · refine ite_of (P := Kept a) (fun _ => ?_) (fun _ => ?_)
    · exact State.audClkWrite_kept k4
    · exact State.takeFields_kept k4

theorem State.audOutputs_kept (h : Kept a s) {n sel} : Kept a (State.audOutputs s n sel) := by
  unfold State.audOutputs
  extract_lets -merge -underBinder +onlyGivenNames s1
  have hs1 : Kept a s1 := by
    unfold s1
    refine foldl_of (P := Kept a) ?_ (fun _ _ k3 => ?_)
    · refine foldl_of (P := Kept a) ?_ (fun _ _ k2 => ?_)
      · exact h
      · exact State.onOut_kept k2
    · exact State.audFetch_kept k3
  clear_value s1
  refine ite_of (P := Kept a) (fun _ => ?_) (fun _ => ?_)
  · refine foldl_of (P := Kept a) ?_ (fun _ _ k4 => ?_)
    · exact hs1
    · refine foldl_of (P := Kept a) ?_ (fun _ _ k5 => ?_)
      · exact State.onOut_kept k4
      · exact State.audDrop_kept k5
  · exact hs1

theorem State.audBoundary_kept (h : Kept a s) : Kept a (State.audBoundary s) := by
  unfold State.audBoundary
  extract_lets -merge -underBinder +onlyGivenNames s1
  have hs1 : Kept a s1 := State.audSettings_kept (State.audPend_kept h)
  clear_value s1
  extract_lets -merge -underBinder +onlyGivenNames src2 s3
  have hs3 : Kept a s3 := by
    unfold s3
    unfold src2; apply Kept.keepF hs1; exact fun _ => rfl
  clear_value s3
  refine foldl_of (P := Kept a) ?_ (fun _ _ k4 => ?_)
  · exact hs3
  · extract_lets -merge -underBinder +onlyGivenNames i5 s6
    have hs6 : Kept a s6 := by
      unfold s6
      refine ite_of (P := Kept a) (fun _ => ?_) (fun _ => ?_)
      · refine foldl_of (P := Kept a) ?_ (fun _ _ k7 => ?_)
        · exact k4
        · exact State.audZero_kept (State.audFirst_kept k7)
      · exact k4
    clear_value s6
    extract_lets -merge -underBinder +onlyGivenNames s8
    have hs8 : Kept a s8 := State.onIn_kept hs6
    clear_value s8
    refine foldl_of (P := Kept a) ?_ (fun _ _ k9 => ?_)
    · exact hs8
    · exact State.audStore_kept k9

end Sys2Proof.Machine
end

