-- ==== Sys2Proof/Laws/KeptRing.lean ====
section
/-! SUPPORT. What the operations of Machine/Ring.lean keep. -/

namespace Sys2Proof.Machine

variable {a s : State}

theorem State.toBypass_kept (h : Kept a s) {cause} : Kept a (State.toBypass s cause) := by
  unfold State.toBypass
  refine ite_of (P := Kept a) (fun _ => ?_) (fun _ => ?_)
  · exact h
  · exact State.emit_kept (State.wrs_kept h)

theorem State.leaveBypass_kept (h : Kept a s) : Kept a (State.leaveBypass s) := by
  unfold State.leaveBypass
  refine ite_of (P := Kept a) (fun _ => ?_) (fun _ => ?_)
  · exact State.emit_kept (State.wr_kept h)
  · exact h

theorem execCausewayLeaveBypass_kept (h : Kept a s) : ResKept a (execCausewayLeaveBypass s) := by
  unfold execCausewayLeaveBypass
  exact ResKept.next (State.leaveBypass_kept h)

theorem execCapOkSet_kept (h : Kept a s) : ResKept a (execCapOkSet s) := by
  unfold execCapOkSet
  refine ResKept.next ?_
  refine ite_of (P := Kept a) (fun _ => ?_) (fun _ => ?_)
  · exact State.leaveBypass_kept (State.wr_kept h)
  · exact h

theorem execRingWatchdogExpiry_kept (h : Kept a s) : ResKept a (execRingWatchdogExpiry s) := by
  unfold execRingWatchdogExpiry
  refine ResKept.next ?_
  refine State.toBypass_kept ?_
  apply Kept.keepF h; exact fun _ => rfl

theorem State.ringForce_kept (h : Kept a s) {v} : Kept a (State.ringForce s v) := by
  unfold State.ringForce
  extract_lets -merge -underBinder +onlyGivenNames s1
  have hs1 : Kept a s1 := State.wr_kept h
  clear_value s1
  refine ite_of (P := Kept a) (fun _ => ?_) (fun _ => ?_)
  · exact State.toBypass_kept hs1
  · exact State.leaveBypass_kept hs1

theorem execLinkUp_kept (h : Kept a s) {p fast} : ResKept a (execLinkUp p fast s) := by
  unfold execLinkUp
  refine ResKept.next ?_
  refine ite_of (P := Kept a) (fun _ => ?_) (fun _ => ?_)
  · exact h
  · extract_lets -merge -underBinder +onlyGivenNames spd1 s2
    have hs2 : Kept a s2 := State.wrs_kept h
    clear_value s2
    exact State.wr_kept hs2

theorem execLinkDown_kept (h : Kept a s) {p} : ResKept a (execLinkDown p s) := by
  unfold execLinkDown
  refine ResKept.next ?_
  extract_lets -merge -underBinder +onlyGivenNames s1
  have hs1 : Kept a s1 := State.wrs_kept h
  clear_value s1
  exact State.wr_kept (State.wr_kept hs1)

theorem State.members_kept (h : Kept a s) : Kept a (State.members s) := by
  unfold State.members
  extract_lets -merge -underBinder +onlyGivenNames m1 s2
  have hs2 : Kept a s2 := State.wr_kept (State.wr_kept h)
  clear_value s2
  refine foldl_of (P := Kept a) ?_ (fun _ _ k3 => ?_)
  · exact hs2
  · refine ite_of (P := Kept a) (fun _ => ?_) (fun _ => ?_)
    · exact State.wr_kept k3
    · exact k3

theorem State.deliver_kept (h : Kept a s) {p f} : Kept a (State.deliver s p f) := by
  unfold State.deliver
  apply Kept.keepF h; exact fun _ => rfl

theorem State.ringFrame_kept (h : Kept a s) {p f fcs} : Kept a (State.ringFrame s p f fcs) := by
  unfold State.ringFrame
  refine ite_of (P := Kept a) (fun _ => ?_) (fun _ => ?_)
  · exact h
  · extract_lets -merge -underBinder +onlyGivenNames s1
    have hs1 : Kept a s1 := State.bump_kept h
    clear_value s1
    refine ite_of (P := Kept a) (fun _ => ?_) (fun _ => ?_)
    · exact State.bump_kept hs1
    · extract_lets -merge -underBinder +onlyGivenNames dst2 beacon3 own4 ring5 s6
      have hs6 : Kept a s6 := by
        unfold s6
        refine ite_of (P := Kept a) (fun _ => ?_) (fun _ => ?_)
        · exact hs1
        · exact State.bump_kept hs1
      clear_value s6
      refine ite_of (P := Kept a) (fun _ => ?_) (fun _ => ?_)
      · refine ite_of (P := Kept a) (fun _ => ?_) (fun _ => ?_)
        · exact State.deliver_kept hs6
        · exact hs6
      · refine ite_of (P := Kept a) (fun _ => ?_) (fun _ => ?_)
        · exact hs6
        · extract_lets -merge -underBinder +onlyGivenNames deliver7 fwd8 s9
          have hs9 : Kept a s9 := by
            unfold s9
            refine ite_of (P := Kept a) (fun _ => ?_) (fun _ => ?_)
            · exact State.deliver_kept hs6
            · exact hs6
          clear_value s9
          refine ite_of (P := Kept a) (fun _ => ?_) (fun _ => ?_)
          · exact hs9
          · refine ite_of (P := Kept a) (fun _ => ?_) (fun _ => ?_)
            · exact State.emit_kept (State.bump_kept (State.bump_kept hs9))
            · exact State.emit_kept (State.bump_kept (State.bump_kept (State.bump_kept hs9)))

theorem execRingFrameReceive_kept (h : Kept a s) {p f fcs} : ResKept a (execRingFrameReceive p f fcs s) := by
  unfold execRingFrameReceive
  exact ResKept.next (State.ringFrame_kept h)

theorem State.takeFrame_kept (h : Kept a s) {is r t} (x : s.takeFrame is = some (r, t)) : Kept a t := by
  unfold State.takeFrame at x
  obtain ⟨y, -, e⟩ := Option.map_eq_some_iff.1 x
  cases e; apply Kept.keepF h; exact fun _ => rfl

theorem State.sendFrame_kept (h : Kept a s) {p f} : Kept a (State.sendFrame s p f) := by
  unfold State.sendFrame
  refine ite_of (P := Kept a) (fun _ => ?_) (fun _ => ?_)
  · exact State.emit_kept (State.bump_kept h)
  · exact h

theorem State.onWin_kept (h : Kept a s) {w f} : Kept a (State.onWin s w f) := by
  unfold State.onWin
  apply Kept.keepF h; exact fun _ => rfl

theorem State.sendBeacon_kept (h : Kept a s) : Kept a (State.sendBeacon s) := by
  unfold State.sendBeacon
  extract_lets -merge -underBinder +onlyGivenNames i1
  refine ite_of (P := Kept a) (fun _ => ?_) (fun _ => ?_)
  · exact h
  · extract_lets -merge -underBinder +onlyGivenNames a2 b3 tset4 tail5 f6
    exact State.sendFrame_kept (State.sendFrame_kept h)

theorem State.beacon_kept (h : Kept a s) {r} : Kept a (State.beacon s r) := by
  unfold State.beacon
  extract_lets -merge -underBinder +onlyGivenNames h1
  refine ite_of (P := Kept a) (fun _ => ?_) (fun _ => ?_)
  · exact State.bump_kept h
  · refine ite_of (P := Kept a) (fun _ => ?_) (fun _ => ?_)
    · refine State.wr_kept ?_
      apply Kept.keepF h; exact fun _ => rfl
    · refine ite_of (P := Kept a) (fun _ => ?_) (fun _ => ?_)
      · exact h
      · extract_lets -merge -underBinder +onlyGivenNames me2 l3
        refine State.members_kept ?_
        unfold l3; apply Kept.keepF h; exact fun _ => rfl

theorem execBeaconReceive_kept (h : Kept a s) : ResKept a (execBeaconReceive s) := by
  unfold execBeaconReceive
  refine ResKept.next ?_
  split
  · have k1 := State.takeFrame_kept h (by assumption)
    exact State.beacon_kept k1
  · exact h

theorem execMemberExpiry_kept (h : Kept a s) {i} : ResKept a (execMemberExpiry i s) := by
  unfold execMemberExpiry
  refine ResKept.next ?_
  refine State.members_kept ?_
  apply Kept.keepF h; exact fun _ => rfl

theorem State.ageMembers_kept (h : Kept a s) : Kept a (State.ageMembers s) := by
  unfold State.ageMembers
  extract_lets -merge -underBinder +onlyGivenNames old1 s2
  have hs2 : Kept a s2 := by
    unfold s2
    refine ite_of (P := Kept a) (fun _ => ?_) (fun _ => ?_)
    · exact h
    · exact State.wr_kept h
  clear_value s2
  apply Kept.keepF hs2; exact fun _ => rfl

theorem State.openWin_kept (h : Kept a s) {w} : Kept a (State.openWin s w) := by
  unfold State.openWin
  extract_lets -merge -underBinder +onlyGivenNames peer1
  refine ite_of (P := Kept a) (fun _ => ?_) (fun _ => ?_)
  · exact h
  · extract_lets -merge -underBinder +onlyGivenNames last2 g3
    exact State.onWin_kept (State.wrs_kept h)

theorem State.sendGrant_kept (h : Kept a s) {w} : Kept a (State.sendGrant s w) := by
  unfold State.sendGrant
  extract_lets -merge -underBinder +onlyGivenNames n1 h2 toIdx3
  have htoIdx3 : ∀ y4 y5, Kept a y4 → Kept a (toIdx3 y4 y5) := by
    intro y4 y5 k6
    unfold toIdx3
    split
    · exact State.sendFrame_kept k6
    · exact k6
  clear_value toIdx3
  extract_lets -merge -underBinder +onlyGivenNames s7
  have hs7 : Kept a s7 := by
    unfold s7
    exact htoIdx3 _ _ (h)
  clear_value s7
  refine ite_of (P := Kept a) (fun _ => ?_) (fun _ => ?_)
  · exact htoIdx3 _ _ (hs7)
  · exact hs7

theorem State.staleFrame_kept (h : Kept a s) {r} : Kept a (State.staleFrame s r) := by
  unfold State.staleFrame
  extract_lets -merge -underBinder +onlyGivenNames h1 w2
  refine ite_of (P := Kept a) (fun _ => ?_) (fun _ => ?_)
  · exact h
  · extract_lets -merge -underBinder +onlyGivenNames s3
    have hs3 : Kept a s3 := State.bump_kept h
    clear_value s3
    refine ite_of (P := Kept a) (fun _ => ?_) (fun _ => ?_)
    · exact hs3
    · extract_lets -merge -underBinder +onlyGivenNames c4
      exact State.sendFrame_kept (State.onWin_kept hs3)

theorem State.winRow_kept (h : Kept a s) {w row b} : Kept a (State.winRow s w row b) := by
  unfold State.winRow
  refine ite_of (P := Kept a) (fun _ => ?_) (fun _ => ?_)
  · exact State.putRow_kept h
  · exact State.heldRows_kept h

theorem State.tileRx_kept (h : Kept a s) {r} {ok : Sys2Proof.Machine.State → Sys2Proof.Machine.State} (hok : ∀ y0, Kept a y0 → Kept a (ok y0)) : Kept a (State.tileRx s r ok) := by
  unfold State.tileRx
  extract_lets -merge -underBinder +onlyGivenNames h1 w2 seq3
  refine ite_of (P := Kept a) (fun _ => ?_) (fun _ => ?_)
  · exact State.staleFrame_kept h
  · refine ite_of (P := Kept a) (fun _ => ?_) (fun _ => ?_)
    · exact State.bump_kept h
    · refine ite_of (P := Kept a) (fun _ => ?_) (fun _ => ?_)
      · exact State.bump_kept h
      · refine ite_of (P := Kept a) (fun _ => ?_) (fun _ => ?_)
        · exact State.bump_kept h
        · extract_lets -merge -underBinder +onlyGivenNames st4
          refine State.onWin_kept ?_
          exact hok _ (h)

theorem State.tileData_kept (h : Kept a s) {r} : Kept a (State.tileData s r) := by
  unfold State.tileData
  extract_lets -merge -underBinder +onlyGivenNames h1 w2 p3
  refine State.tileRx_kept h (fun _ k4 => ?_)
  refine ite_of (P := Kept a) (fun _ => ?_) (fun _ => ?_)
  · exact k4
  · exact State.winRow_kept (State.winRow_kept k4)

theorem execTileDataReceive_kept (h : Kept a s) : ResKept a (execTileDataReceive s) := by
  unfold execTileDataReceive
  refine ResKept.next ?_
  split
  · have k1 := State.takeFrame_kept h (by assumption)
    exact State.tileData_kept k1
  · exact h

theorem State.tileVoid_kept (h : Kept a s) {r} : Kept a (State.tileVoid s r) := by
  unfold State.tileVoid
  refine State.tileRx_kept h (fun _ k1 => ?_)
  exact State.onWin_kept k1

theorem execTileVoidReceive_kept (h : Kept a s) : ResKept a (execTileVoidReceive s) := by
  unfold execTileVoidReceive
  refine ResKept.next ?_
  split
  · have k1 := State.takeFrame_kept h (by assumption)
    exact State.tileVoid_kept k1
  · exact h

theorem State.winEntry_kept (h : Kept a s) {w} : Kept a (State.winEntry s w).2 := by
  unfold State.winEntry
  extract_lets -merge -underBinder +onlyGivenNames n1 x2 t3 p4 nfr5 whole6 s7
  have hs7 : Kept a s7 := by
    unfold s7
    refine ite_of (P := Kept a) (fun _ => ?_) (fun _ => ?_)
    · exact h
    · exact State.bump_kept h
  clear_value s7
  extract_lets -merge -underBinder +onlyGivenNames s8
  have hs8 : Kept a s8 := by
    unfold s8
    refine ite_of (P := Kept a) (fun _ => ?_) (fun _ => ?_)
    · refine foldl_of (P := Kept a) ?_ (fun _ _ k9 => ?_)
      · exact hs7
      · exact State.setPresent_kept k9
    · exact hs7
  clear_value s8
  extract_lets -merge -underBinder +onlyGivenNames st10
  have hst10 : Kept a st10.2 := by
    unfold st10
    split
    · exact snd_mk (P := Kept a) (hs8)
    · extract_lets -merge -underBinder +onlyGivenNames f11
      have hf11 : Kept a f11.2 := State.free_kept hs8
      clear_value f11
      exact snd_mk (P := Kept a) (hf11)
  clear_value st10
  extract_lets -merge -underBinder +onlyGivenNames k12 rec'13 s14
  have hs14 : Kept a s14 := by
    unfold s14
    refine ite_of (P := Kept a) (fun _ => ?_) (fun _ => ?_)
    · exact State.setPresent_kept (State.slotRow_kept hst10)
    · exact hs8
  clear_value s14
  exact snd_mk (P := Kept a) (State.onWin_kept hs14)

theorem State.grant_kept (h : Kept a s) {r} : Kept a (State.grant s r) := by
  unfold State.grant
  extract_lets -merge -underBinder +onlyGivenNames h1
  refine ite_of (P := Kept a) (fun _ => ?_) (fun _ => ?_)
  · exact State.bump_kept h
  · refine ite_of (P := Kept a) (fun _ => ?_) (fun _ => ?_)
    · exact h
    · refine foldl_of (P := Kept a) ?_ (fun _ _ k2 => ?_)
      · exact h
      · extract_lets -merge -underBinder +onlyGivenNames g3 s4
        have hs4 : Kept a s4 := by
          unfold s4
          refine ite_of (P := Kept a) (fun _ => ?_) (fun _ => ?_)
          · exact k2
          · exact State.wrs_kept k2
        clear_value s4
        exact State.onWin_kept (State.wr_kept hs4)

theorem execGrantReceive_kept (h : Kept a s) : ResKept a (execGrantReceive s) := by
  unfold execGrantReceive
  refine ResKept.next ?_
  split
  · have k1 := State.takeFrame_kept h (by assumption)
    exact State.grant_kept k1
  · exact h

theorem State.winClosedEvent_kept (h : Kept a s) {i why} : Kept a (State.winClosedEvent s i why) := by
  unfold State.winClosedEvent
  exact State.postEvent_kept h

theorem State.closedFrame_kept (h : Kept a s) {r} : Kept a (State.closedFrame s r) := by
  unfold State.closedFrame
  extract_lets -merge -underBinder +onlyGivenNames h1
  refine ite_of (P := Kept a) (fun _ => ?_) (fun _ => ?_)
  · exact State.bump_kept h
  · refine foldl_of (P := Kept a) ?_ (fun _ _ k2 => ?_)
    · exact h
    · refine ite_of (P := Kept a) (fun _ => ?_) (fun _ => ?_)
      · exact State.bump_kept k2
      · exact State.winClosedEvent_kept (State.onWin_kept (State.wrs_kept k2))

theorem execClosedReceive_kept (h : Kept a s) : ResKept a (execClosedReceive s) := by
  unfold execClosedReceive
  refine ResKept.next ?_
  split
  · have k1 := State.takeFrame_kept h (by assumption)
    exact State.closedFrame_kept k1
  · exact h

theorem execGrantTimeout_kept (h : Kept a s) {w} : ResKept a (execGrantTimeout w s) := by
  unfold execGrantTimeout
  refine ResKept.next ?_
  extract_lets -merge -underBinder +onlyGivenNames x1
  refine ite_of (P := Kept a) (fun _ => ?_) (fun _ => ?_)
  · exact State.winClosedEvent_kept (State.onWin_kept (State.wr_kept h))
  · exact h

theorem execLinkRateFall_kept (h : Kept a s) {p} : ResKept a (execLinkRateFall p s) := by
  unfold execLinkRateFall
  refine ResKept.next ?_
  refine ite_of (P := Kept a) (fun _ => ?_) (fun _ => ?_)
  · exact h
  · extract_lets -merge -underBinder +onlyGivenNames s1
    have hs1 : Kept a s1 := State.wr_kept h
    clear_value s1
    extract_lets -merge -underBinder +onlyGivenNames s2
    have hs2 : Kept a s2 := State.wr_kept hs1
    clear_value s2
    exact State.postEvent_kept hs2

theorem State.winData_kept (h : Kept a s) {w} : Kept a (State.winData s w).2 := by
  unfold State.winData
  extract_lets -merge -underBinder +onlyGivenNames n1 t2 p3 rows4
  refine ite_of (P := fun r => Kept a (Prod.snd r)) (fun _ => ?_) (fun _ => ?_)
  · extract_lets -merge -underBinder +onlyGivenNames a5
    refine State.readRows_kept h (fun _ _ k6 => ?_)
    exact State.readTs_kept k6
  · extract_lets -merge -underBinder +onlyGivenNames np7 k8 there9 r10
    have hr10 : Kept a r10.2 := by
      unfold r10
      refine ite_of (P := fun r => Kept a (Prod.snd r)) (fun _ => ?_) (fun _ => ?_)
      · refine State.readRows_kept h (fun _ _ k11 => ?_)
        exact State.readRow_kept k11
      · exact snd_mk (P := Kept a) (h)
    clear_value r10
    refine snd_mk (P := Kept a) ?_
    refine foldl_of (P := Kept a) ?_ (fun _ _ k12 => ?_)
    · exact hr10
    · refine ite_of (P := Kept a) (fun _ => ?_) (fun _ => ?_)
      · exact State.release_kept k12
      · exact k12

theorem State.windowSend_kept (h : Kept a s) {w} : Kept a (State.windowSend s w) := by
  unfold State.windowSend
  extract_lets -merge -underBinder +onlyGivenNames x1 nfr2
  refine ite_of (P := Kept a) (fun _ => ?_) (fun _ => ?_)
  · exact h
  · extract_lets -merge -underBinder +onlyGivenNames port3 r4
    have hr4 : Kept a r4.2 := State.winData_kept h
    clear_value r4
    extract_lets -merge -underBinder +onlyGivenNames s5
    have hs5 : Kept a s5 := State.onWin_kept hr4
    clear_value s5
    extract_lets -merge -underBinder +onlyGivenNames gen6 head7 both8
    have hboth8 : ∀ y9 y10 y11 y12, Kept a y9 → Kept a (both8 y9 y10 y11 y12) := by
      intro y9 y10 y11 y12 k13
      unfold both8
      extract_lets -merge -underBinder +onlyGivenNames s14
      have hs14 : Kept a s14 := State.sendFrame_kept k13
      clear_value s14
      refine ite_of (P := Kept a) (fun _ => ?_) (fun _ => ?_)
      · exact State.sendFrame_kept hs14
      · exact hs14
    clear_value both8
    split
    · exact hboth8 _ _ _ _ (hs5)
    · refine foldl_of (P := Kept a) ?_ (fun _ _ k15 => ?_)
      · exact hs5
      · exact hboth8 _ _ _ _ (k15)

theorem execWindowSend_kept (h : Kept a s) {w} : ResKept a (execWindowSend w s) := by
  unfold execWindowSend
  exact ResKept.next (State.windowSend_kept h)

theorem State.onAes_kept (h : Kept a s) {i f} : Kept a (State.onAes s i f) := by
  unfold State.onAes
  apply Kept.keepF h; exact fun _ => rfl

theorem State.aesPacket_kept (h : Kept a s) {i r port time} : Kept a (State.aesPacket s i r port time) := by
  unfold State.aesPacket
  extract_lets -merge -underBinder +onlyGivenNames d1 n2 dup3
  refine ite_of (P := Kept a) (fun _ => ?_) (fun _ => ?_)
  · exact State.bump_kept h
  · refine ite_of (P := Kept a) (fun _ => ?_) (fun _ => ?_)
    · exact h
    · extract_lets -merge -underBinder +onlyGivenNames bytes4 cyc5 base6 word7 l8 st9
      exact State.onAes_kept h

theorem execAes67PacketReceive_kept (h : Kept a s) : ResKept a (execAes67PacketReceive s) := by
  unfold execAes67PacketReceive
  refine ResKept.next ?_
  split
  · have k1 := State.takeFrame_kept h (by assumption)
    split
    · refine foldl_of (P := Kept a) ?_ (fun _ _ k2 => ?_)
      · exact k1
      · refine ite_of (P := Kept a) (fun _ => ?_) (fun _ => ?_)
        · exact State.aesPacket_kept k2
        · exact k2
    · exact k1
  · exact h

theorem State.aesIn_kept (h : Kept a s) {i} : Kept a (State.aesIn s i) := by
  unfold State.aesIn
  extract_lets -merge -underBinder +onlyGivenNames b1
  refine ite_of (P := Kept a) (fun _ => ?_) (fun _ => ?_)
  · exact State.onAes_kept h
  · extract_lets -merge -underBinder +onlyGivenNames n2 l3 s4
    have hs4 : Kept a s4 := State.audZero_kept h
    clear_value s4
    extract_lets -merge -underBinder +onlyGivenNames s5
    have hs5 : Kept a s5 := by
      unfold s5
      refine foldl_of (P := Kept a) ?_ (fun _ _ k6 => ?_)
      · exact hs4
      · extract_lets -merge -underBinder +onlyGivenNames q7 k8 a9
        exact State.slotRow_kept k6
    clear_value s5
    extract_lets -merge -underBinder +onlyGivenNames frames10 st11
    have hst11 : Kept a st11.2 := by
      unfold st11
      split
      · exact snd_mk (P := Kept a) (hs5)
      · extract_lets -merge -underBinder +onlyGivenNames f12
        have hf12 : Kept a f12.2 := State.free_kept hs5
        clear_value f12
        exact snd_mk (P := Kept a) (hf12)
    clear_value st11
    extract_lets -merge -underBinder +onlyGivenNames s13
    have hs13 : Kept a s13 := by
      unfold s13
      refine ite_of (P := Kept a) (fun _ => ?_) (fun _ => ?_)
      · exact hst11
      · exact State.heldDone_kept (State.heldRows_kept hst11)
    clear_value s13
    exact State.onAes_kept hs13

theorem State.aesOut_kept (h : Kept a s) {i n sel} : Kept a (State.aesOut s i n sel) := by
  unfold State.aesOut
  extract_lets -merge -underBinder +onlyGivenNames d1 b2
  refine ite_of (P := Kept a) (fun _ => ?_) (fun _ => ?_)
  · exact State.onAes_kept h
  · extract_lets -merge -underBinder +onlyGivenNames r3
    have hr3 : Kept a r3.2 := by
      unfold r3
      refine ite_of (P := fun r => Kept a (Prod.snd r)) (fun _ => ?_) (fun _ => ?_)
      · exact State.audFetchBind_kept h
      · exact snd_mk (P := Kept a) (State.audDiscard_kept h)
    clear_value r3
    extract_lets -merge -underBinder +onlyGivenNames frames4 m5 l6
    exact State.onAes_kept hr3

theorem State.aesSend_kept (h : Kept a s) {i} : Kept a (State.aesSend s i) := by
  unfold State.aesSend
  extract_lets -merge -underBinder +onlyGivenNames d1 x2 pt3
  split
  · exact h
  · refine ite_of (P := Kept a) (fun _ => ?_) (fun _ => ?_)
    · exact h
    · extract_lets -merge -underBinder +onlyGivenNames q4
      have hq4 : Kept a q4.2 := by
        unfold q4
        split
        · exact snd_mk (P := Kept a) (h)
        · extract_lets -merge -underBinder +onlyGivenNames f5
          have hf5 : Kept a f5.2 := State.free_kept h
          clear_value f5
          exact snd_mk (P := Kept a) (hf5)
      clear_value q4
      extract_lets -merge -underBinder +onlyGivenNames bytes6 body7 rtp8 s9
      have hs9 : Kept a s9 := State.onAes_kept hq4
      clear_value s9
      extract_lets -merge -underBinder +onlyGivenNames send10
      have hsend10 : ∀ y11 y12, Kept a y11 → Kept a (send10 y11 y12) := by
        intro y11 y12 k13
        unfold send10
        refine ite_of (P := Kept a) (fun _ => ?_) (fun _ => ?_)
        · exact State.emit_kept (State.bump_kept k13)
        · exact k13
      clear_value send10
      refine ite_of (P := Kept a) (fun _ => ?_) (fun _ => ?_)
      · refine hsend10 _ _ ?_
        exact hsend10 _ _ (hs9)
      · exact hsend10 _ _ (hs9)

theorem execAes67PacketSend_kept (h : Kept a s) {i} : ResKept a (execAes67PacketSend i s) := by
  unfold execAes67PacketSend
  exact ResKept.next (State.aesSend_kept h)

theorem State.ringPend_kept (h : Kept a s) : Kept a (State.ringPend s) := by
  unfold State.ringPend
  extract_lets -merge -underBinder +onlyGivenNames l1 src2 s3
  have hs3 : Kept a s3 := by
    unfold s3
    unfold src2; apply Kept.keepF h; exact fun _ => rfl
  clear_value s3
  refine foldl_of (P := Kept a) ?_ (fun _ _ k4 => ?_)
  · exact hs3
  · refine ite_of (P := Kept a) (fun _ => ?_) (fun _ => ?_)
    · exact State.wr_kept k4
    · refine ite_of (P := Kept a) (fun _ => ?_) (fun _ => ?_)
      · extract_lets -merge -underBinder +onlyGivenNames src5 s6
        have hs6 : Kept a s6 := by
          unfold s6
          unfold src5; apply Kept.keepF k4; exact fun _ => rfl
        clear_value s6
        exact State.onAes_kept hs6
      · exact k4

theorem State.aesOuts_kept (h : Kept a s) {n sel} : Kept a (State.aesOuts s n sel) := by
  unfold State.aesOuts
  refine foldl_of (P := Kept a) ?_ (fun _ _ k1 => ?_)
  · exact h
  · exact State.aesOut_kept k1

theorem State.ringBoundary_kept (h : Kept a s) {stopped} : Kept a (State.ringBoundary s stopped).2 := by
  unfold State.ringBoundary
  extract_lets -merge -underBinder +onlyGivenNames s1
  have hs1 : Kept a s1 := State.members_kept (State.ageMembers_kept h)
  clear_value s1
  extract_lets -merge -underBinder +onlyGivenNames r2
  have hr2 : Kept a r2.2 := by
    unfold r2
    refine foldl_of (P := fun r => Kept a (Prod.snd r)) ?_ (fun _ _ k3 => ?_)
    · exact snd_mk (P := Kept a) (hs1)
    · extract_lets -merge -underBinder +onlyGivenNames e4
      have he4 : Kept a e4.2 := State.winEntry_kept k3
      clear_value e4
      exact snd_mk (P := Kept a) (State.openWin_kept he4)
  clear_value r2
  extract_lets -merge -underBinder +onlyGivenNames s5
  have hs5 : Kept a s5 := State.ringPend_kept hr2
  clear_value s5
  extract_lets -merge -underBinder +onlyGivenNames s6
  have hs6 : Kept a s6 := by
    unfold s6
    refine foldl_of (P := Kept a) ?_ (fun _ _ k7 => ?_)
    · exact hs5
    · exact State.aesIn_kept k7
  clear_value s6
  extract_lets -merge -underBinder +onlyGivenNames s8
  have hs8 : Kept a s8 := by
    unfold s8
    refine foldl_of (P := Kept a) ?_ (fun _ _ k9 => ?_)
    · exact hs6
    · exact State.onWin_kept k9
  clear_value s8
  extract_lets -merge -underBinder +onlyGivenNames s10
  have hs10 : Kept a s10 := State.sendBeacon_kept hs8
  clear_value s10
  refine snd_mk (P := Kept a) ?_
  refine foldl_of (P := Kept a) ?_ (fun _ _ k11 => ?_)
  · exact hs10
  · exact State.sendGrant_kept k11

theorem State.winClear_kept (h : Kept a s) {w} : Kept a (State.winClear s w) := by
  unfold State.winClear
  extract_lets -merge -underBinder +onlyGivenNames s1
  have hs1 : Kept a s1 := State.wrs_kept h
  clear_value s1
  exact State.onWin_kept hs1

end Sys2Proof.Machine
end

