-- ==== Sys2Proof/Laws/KeptAssign.lean ====
section
/-! SUPPORT. What the operations of Machine/Assign.lean keep. -/

namespace Sys2Proof.Machine

variable {a s : State}

theorem State.rstFlds_kept (h : Kept a s) {l} : Kept a (State.rstFlds s l) := by
  unfold State.rstFlds
  refine foldl_of (P := Kept a) ?_ (fun _ _ k1 => ?_)
  · exact h
  · exact State.wr_kept k1

theorem State.putSlot_kept (h : Kept a s) {t p k w} : Kept a (State.putSlot s t p k w) := by
  unfold State.putSlot
  extract_lets -merge -underBinder +onlyGivenNames s1
  have hs1 : Kept a s1 := State.rstFlds_kept h
  clear_value s1
  refine ite_of (P := Kept a) (fun _ => ?_) (fun _ => ?_)
  · refine State.wr_kept ?_
    refine foldl_of (P := Kept a) ?_ (fun _ _ k2 => ?_)
    · exact hs1
    · exact State.wr_kept k2
  · exact State.rstFlds_kept hs1

theorem State.putImage_kept (h : Kept a s) {hx i t p y m deps} : Kept a (State.putImage s hx i t p y m deps) := by
  unfold State.putImage
  extract_lets -merge -underBinder +onlyGivenNames s1
  have hs1 : Kept a s1 := by
    unfold s1
    refine foldl_of (P := Kept a) ?_ (fun _ _ k2 => ?_)
    · exact h
    · exact State.writeRow_kept k2
  clear_value s1
  extract_lets -merge -underBinder +onlyGivenNames s3
  have hs3 : Kept a s3 := by
    unfold s3
    refine foldl_of (P := Kept a) ?_ (fun _ _ k4 => ?_)
    · exact hs1
    · exact State.putRow_kept k4
  clear_value s3
  extract_lets -merge -underBinder +onlyGivenNames sl5 v6 s7
  have hs7 : Kept a s7 := State.setStn_kept hs3
  clear_value s7
  extract_lets -merge -underBinder +onlyGivenNames s8
  have hs8 : Kept a s8 := by
    unfold s8
    refine foldl_of (P := Kept a) ?_ (fun _ _ k9 => ?_)
    · exact hs7
    · exact State.putCurve_kept k9
  clear_value s8
  extract_lets -merge -underBinder +onlyGivenNames s10
  have hs10 : Kept a s10 := by
    unfold s10
    refine foldl_of (P := Kept a) ?_ (fun _ _ k11 => ?_)
    · exact hs8
    · exact State.putSlot_kept k11
  clear_value s10
  exact State.wrs_kept hs10

theorem State.residentRegion_kept (h : Kept a s) {t m l cb x} : Kept a (State.residentRegion s t m l cb x).2 := by
  unfold State.residentRegion
  refine ite_of (P := fun r => Kept a (Prod.snd r)) (fun _ => ?_) (fun _ => ?_)
  · split
    · have k1 := snd_of (by assumption) (State.layerRead_kept h)
      exact snd_mk (P := Kept a) (k1)
  · split
    · have k2 := snd_of (by assumption) (State.expSlot_kept h)
      exact snd_mk (P := Kept a) (k2)
    · have k3 := snd_of (by assumption) (State.expSlot_kept h)
      exact snd_mk (P := Kept a) (State.rejectSlot_kept k3)
    · have k4 := snd_of (by assumption) (State.expSlot_kept h)
      exact snd_mk (P := Kept a) (State.markBad_kept k4)
    · have k5 := snd_of (by assumption) (State.expSlot_kept h)
      exact snd_mk (P := Kept a) (State.markBad_kept k5)

theorem State.putItem_kept (h : Kept a s) {t p mem row m l o it} : Kept a (State.putItem s t p mem row m l o it) := by
  unfold State.putItem
  split
  · have k1 := snd_of (by assumption) (State.item_kept h)
    exact State.writeRow_kept k1
  · have k2 := snd_of (by assumption) (State.item_kept h)
    exact State.markBad_kept k2

theorem State.codebook_kept (h : Kept a s) {t m l} : Kept a (State.codebook s t m l).2 := by
  unfold State.codebook
  refine ite_of (P := fun r => Kept a (Prod.snd r)) (fun _ => ?_) (fun _ => ?_)
  · exact snd_mk (P := Kept a) (h)
  · split
    · have k1 := snd_of (by assumption) (State.item_kept h)
      exact snd_mk (P := Kept a) (k1)
    · have k2 := snd_of (by assumption) (State.item_kept h)
      exact snd_mk (P := Kept a) (State.markBad_kept k2)

theorem State.putResident_kept (h : Kept a s) {t p d b m l} : Kept a (State.putResident s t p d b m l) := by
  unfold State.putResident
  extract_lets -merge -underBinder +onlyGivenNames n1 R2 c3
  have hc3 : Kept a c3.2 := State.codebook_kept h
  clear_value c3
  extract_lets -merge -underBinder +onlyGivenNames s4
  have hs4 : Kept a s4 := by
    unfold s4
    refine foldl_of (P := Kept a) ?_ (fun _ _ k5 => ?_)
    · exact hc3
    · split
      · have k6 := snd_of (by assumption) (State.residentRegion_kept k5)
        exact k6
      · have k7 := snd_of (by assumption) (State.residentRegion_kept k5)
        refine foldl_of (P := Kept a) ?_ (fun _ _ k8 => ?_)
        · exact k7
        · split
          · exact State.writeRow_kept k8
          · exact k8
  clear_value s4
  refine ite_of (P := Kept a) (fun _ => ?_) (fun _ => ?_)
  · exact hs4
  · extract_lets -merge -underBinder +onlyGivenNames f9
    refine foldl_of (P := Kept a) ?_ (fun _ _ k10 => ?_)
    · exact hs4
    · exact State.putItem_kept k10

theorem State.putBindData_kept (h : Kept a s) {t p d b} : Kept a (State.putBindData s t p d b) := by
  unfold State.putBindData
  split
  · exact h
  · extract_lets -merge -underBinder +onlyGivenNames s1
    have hs1 : Kept a s1 := by
      unfold s1
      refine ite_of (P := Kept a) (fun _ => ?_) (fun _ => ?_)
      · exact State.putItem_kept h
      · exact h
    clear_value s1
    refine ite_of (P := Kept a) (fun _ => ?_) (fun _ => ?_)
    · exact State.putResident_kept hs1
    · exact hs1

theorem State.keepSlots_kept (h : Kept a s) {t p d} : Kept a (State.keepSlots s t p d) := by
  unfold State.keepSlots
  refine ite_of (P := Kept a) (fun _ => ?_) (fun _ => ?_)
  · exact h
  · refine foldl_of (P := Kept a) ?_ (fun _ _ k1 => ?_)
    · exact h
    · extract_lets -merge -underBinder +onlyGivenNames k2
      refine ite_of (P := Kept a) (fun _ => ?_) (fun _ => ?_)
      · exact State.wrs_kept k1
      · exact k1

theorem State.putBind_kept (h : Kept a s) {t p c b} : Kept a (State.putBind s t p c b) := by
  unfold State.putBind
  extract_lets -merge -underBinder +onlyGivenNames s1
  have hs1 : Kept a s1 := State.wrs_kept h
  clear_value s1
  extract_lets -merge -underBinder +onlyGivenNames s2
  have hs2 : Kept a s2 := State.onStn_kept hs1
  clear_value s2
  exact State.putBindData_kept hs2

theorem State.putPorts_kept (h : Kept a s) {x} : Kept a (State.putPorts s x) := by
  unfold State.putPorts
  extract_lets -merge -underBinder +onlyGivenNames at'1 s2
  have hs2 : Kept a s2 := by
    unfold s2
    refine foldl_of (P := Kept a) ?_ (fun _ _ k3 => ?_)
    · exact h
    · extract_lets -merge -underBinder +onlyGivenNames q4
      exact State.takeFields_kept k3
  clear_value s2
  extract_lets -merge -underBinder +onlyGivenNames s5
  have hs5 : Kept a s5 := by
    unfold s5
    refine foldl_of (P := Kept a) ?_ (fun _ _ k6 => ?_)
    · exact hs2
    · extract_lets -merge -underBinder +onlyGivenNames q7
      exact State.wr_kept (State.takeFields_kept k6)
  clear_value s5
  refine foldl_of (P := Kept a) ?_ (fun _ _ k8 => ?_)
  · exact hs5
  · extract_lets -merge -underBinder +onlyGivenNames q9 w10 s11
    have hs11 : Kept a s11 := State.takeFields_kept (State.takeFields_kept k8)
    clear_value s11
    exact State.onWin_kept (State.wr_kept hs11)

theorem State.clearPorts_kept (h : Kept a s) {x} : Kept a (State.clearPorts s x) := by
  unfold State.clearPorts
  extract_lets -merge -underBinder +onlyGivenNames s1
  have hs1 : Kept a s1 := by
    unfold s1
    refine foldl_of (P := Kept a) ?_ (fun _ _ k2 => ?_)
    · exact h
    · exact State.rstFlds_kept k2
  clear_value s1
  extract_lets -merge -underBinder +onlyGivenNames s3
  have hs3 : Kept a s3 := by
    unfold s3
    refine foldl_of (P := Kept a) ?_ (fun _ _ k4 => ?_)
    · exact hs1
    · exact State.rstFlds_kept k4
  clear_value s3
  refine foldl_of (P := Kept a) ?_ (fun _ _ k5 => ?_)
  · exact hs3
  · exact State.rstFlds_kept (State.winClear_kept k5)

theorem State.movePorts_kept (h : Kept a s) {t p} : Kept a (State.movePorts s t p) := by
  unfold State.movePorts
  extract_lets -merge -underBinder +onlyGivenNames fix1
  have hfix1 : ∀ y2 y3 y4, Kept a y2 → Kept a (fix1 y2 y3 y4) := by
    intro y2 y3 y4 k5
    unfold fix1
    refine ite_of (P := Kept a) (fun _ => ?_) (fun _ => ?_)
    · exact State.wr_kept k5
    · exact k5
  clear_value fix1
  extract_lets -merge -underBinder +onlyGivenNames s6
  have hs6 : Kept a s6 := by
    unfold s6
    refine foldl_of (P := Kept a) ?_ (fun _ _ k7 => ?_)
    · exact h
    · extract_lets -merge -underBinder +onlyGivenNames s8
      have hs8 : Kept a s8 := by
        unfold s8
        refine hfix1 _ _ _ ?_
        refine hfix1 _ _ _ ?_
        refine hfix1 _ _ _ ?_
        exact hfix1 _ _ _ (k7)
      clear_value s8
      extract_lets -merge -underBinder +onlyGivenNames s9
      have hs9 : Kept a s9 := by
        unfold s9
        refine hfix1 _ _ _ ?_
        exact hfix1 _ _ _ (hs8)
      clear_value s9
      exact State.onOut_kept (State.onIn_kept hs9)
  clear_value s6
  extract_lets -merge -underBinder +onlyGivenNames s10
  have hs10 : Kept a s10 := by
    unfold s10
    refine foldl_of (P := Kept a) ?_ (fun _ _ k11 => ?_)
    · exact hs6
    · exact hfix1 _ _ _ (k11)
  clear_value s10
  refine foldl_of (P := Kept a) ?_ (fun _ _ k12 => ?_)
  · exact hs10
  · exact hfix1 _ _ _ (k12)

theorem State.passThrough_kept (h : Kept a s) {x} : Kept a (State.passThrough s x) := by
  unfold State.passThrough
  extract_lets -merge -underBinder +onlyGivenNames l1 lo2 hi3
  refine foldl_of (P := Kept a) ?_ (fun _ _ k4 => ?_)
  · exact h
  · extract_lets -merge -underBinder +onlyGivenNames q5
    refine ite_of (P := Kept a) (fun _ => ?_) (fun _ => ?_)
    · exact State.wr_kept k4
    · refine ite_of (P := Kept a) (fun _ => ?_) (fun _ => ?_)
      · exact State.wr_kept k4
      · exact k4

theorem State.putBlock_kept (h : Kept a s) {y} : Kept a (State.putBlock s y) := by
  unfold State.putBlock
  refine ite_of (P := Kept a) (fun _ => ?_) (fun _ => ?_)
  · exact h
  · extract_lets -merge -underBinder +onlyGivenNames s1
    have hs1 : Kept a s1 := State.wrs_kept h
    clear_value s1
    refine foldl_of (P := Kept a) ?_ (fun _ _ k2 => ?_)
    · exact hs1
    · exact State.putRow_kept k2

theorem State.assignSet_kept (h : Kept a s) {x} : Kept a (State.assignSet s x) := by
  unfold State.assignSet
  extract_lets -merge -underBinder +onlyGivenNames y1 s2
  have hs2 : Kept a s2 := by
    unfold s2
    refine foldl_of (P := Kept a) ?_ (fun _ _ k3 => ?_)
    · exact h
    · split
      · exact State.useKey_kept k3
      · exact k3
  clear_value s2
  extract_lets -merge -underBinder +onlyGivenNames s4
  have hs4 : Kept a s4 := by
    unfold s4
    refine foldl_of (P := Kept a) ?_ (fun _ _ k5 => ?_)
    · exact hs2
    · extract_lets -merge -underBinder +onlyGivenNames g6
      exact State.putImage_kept k5
  clear_value s4
  extract_lets -merge -underBinder +onlyGivenNames s7
  have hs7 : Kept a s7 := by
    unfold s7
    refine foldl_of (P := Kept a) ?_ (fun _ _ k8 => ?_)
    · exact hs4
    · refine foldl_of (P := Kept a) ?_ (fun _ _ k9 => ?_)
      · exact k8
      · exact State.putBind_kept k9
  clear_value s7
  extract_lets -merge -underBinder +onlyGivenNames s10
  have hs10 : Kept a s10 := State.passThrough_kept (State.putPorts_kept hs7)
  clear_value s10
  extract_lets -merge -underBinder +onlyGivenNames s11
  have hs11 : Kept a s11 := by
    unfold s11
    refine ite_of (P := Kept a) (fun _ => ?_) (fun _ => ?_)
    · exact State.putBlock_kept hs10
    · exact hs10
  clear_value s11
  extract_lets -merge -underBinder +onlyGivenNames s12
  have hs12 : Kept a s12 := State.onSet_kept hs11
  clear_value s12
  split
  · exact hs12
  · extract_lets -merge -underBinder +onlyGivenNames first13
    exact State.complete_kept hs12

theorem State.refuseWindows_kept (h : Kept a s) {x} : Kept a (State.refuseWindows s x) := by
  unfold State.refuseWindows
  extract_lets -merge -underBinder +onlyGivenNames s1
  have hs1 : Kept a s1 := by
    unfold s1
    split
    · exact State.refusePlace_kept h
    · exact h
  clear_value s1
  refine State.books_kept ?_
  refine State.wuse_kept ?_
  refine State.ghShow_kept ?_
  refine State.ghSet_kept ?_
  apply Kept.keepF hs1; exact fun _ => rfl

theorem State.assignSets_kept (h : Kept a s) : Kept a (State.assignSets s) := by
  unfold State.assignSets
  extract_lets -merge -underBinder +onlyGivenNames l1
  refine foldl_of (P := Kept a) ?_ (fun _ _ k2 => ?_)
  · exact h
  · refine ite_of (P := Kept a) (fun _ => ?_) (fun _ => ?_)
    · exact k2
    · refine ite_of (P := Kept a) (fun _ => ?_) (fun _ => ?_)
      · exact State.assignSet_kept k2
      · refine ite_of (P := Kept a) (fun _ => ?_) (fun _ => ?_)
        · refine ite_of (P := Kept a) (fun _ => ?_) (fun _ => ?_)
          · exact State.assignSet_kept k2
          · exact State.onSet_kept k2
        · refine ite_of (P := Kept a) (fun _ => ?_) (fun _ => ?_)
          · exact State.assignSet_kept k2
          · exact State.refuseWindows_kept k2

theorem State.clearStation_kept (h : Kept a s) {t p} : Kept a (State.clearStation s t p) := by
  unfold State.clearStation
  extract_lets -merge -underBinder +onlyGivenNames s1
  have hs1 : Kept a s1 := by
    unfold s1
    refine foldl_of (P := Kept a) ?_ (fun _ _ k2 => ?_)
    · exact h
    · exact State.rstFlds_kept k2
  clear_value s1
  extract_lets -merge -underBinder +onlyGivenNames s3
  have hs3 : Kept a s3 := by
    unfold s3
    refine foldl_of (P := Kept a) ?_ (fun _ _ k4 => ?_)
    · exact hs1
    · exact State.rstFlds_kept k4
  clear_value s3
  extract_lets -merge -underBinder +onlyGivenNames s5
  have hs5 : Kept a s5 := State.rstFlds_kept hs3
  clear_value s5
  exact State.setStn_kept hs5

theorem State.unassign_kept (h : Kept a s) {x st} : Kept a (State.unassign s x st) := by
  unfold State.unassign
  extract_lets -merge -underBinder +onlyGivenNames s1
  have hs1 : Kept a s1 := by
    unfold s1
    refine ite_of (P := Kept a) (fun _ => ?_) (fun _ => ?_)
    · exact h
    · refine State.clearPorts_kept ?_
      refine foldl_of (P := Kept a) ?_ (fun _ _ k2 => ?_)
      · exact h
      · extract_lets -merge -underBinder +onlyGivenNames s3
        have hs3 : Kept a s3 := State.clearStation_kept k2
        refine ite_of (P := Kept a) (fun _ => ?_) (fun _ => ?_)
        · exact State.clearStation_kept hs3
        · exact hs3
  clear_value s1
  exact State.onSet_kept hs1

theorem State.endSeqs_kept (h : Kept a s) {handle} : Kept a (State.endSeqs s handle) := by
  unfold State.endSeqs
  refine State.psReclaim_kept ?_
  refine foldl_of (P := Kept a) ?_ (fun _ _ k1 => ?_)
  · exact h
  · extract_lets -merge -underBinder +onlyGivenNames r2
    exact State.endSeq_kept (State.onSeq_kept k1)

theorem State.dropStream_kept (h : Kept a s) {name} : Kept a (State.dropStream s name) := by
  unfold State.dropStream
  refine ite_of (P := Kept a) (fun _ => ?_) (fun _ => ?_)
  · exact h
  · split
    · exact h
    · extract_lets -merge -underBinder +onlyGivenNames l1 src2 src3 s4
      have hs4 : Kept a s4 := by
        unfold s4
        exact Kept.keep (s := { s with dict := { s.dict with stamped := l1 } })
          (Kept.setDict h id fun x => Nat.le_trans (List.length_filter_le _ _) x) rfl
      clear_value s4
      exact State.rstFlds_kept (State.wr_kept hs4)

theorem State.removeSet_kept (h : Kept a s) {x} : Kept a (State.removeSet s x) := by
  unfold State.removeSet
  extract_lets -merge -underBinder +onlyGivenNames s1
  have hs1 : Kept a s1 := State.endSeqs_kept (State.unassign_kept h)
  clear_value s1
  extract_lets -merge -underBinder +onlyGivenNames s2
  have hs2 : Kept a s2 := by
    unfold s2
    refine foldl_of (P := Kept a) ?_ (fun _ _ k3 => ?_)
    · exact hs1
    · exact State.jobEnd_kept k3
  clear_value s2
  extract_lets -merge -underBinder +onlyGivenNames src4 s5
  have hs5 : Kept a s5 := by
    unfold s5
    refine State.dropStream_kept ?_
    refine State.ghShow_kept ?_
    refine State.ghSet_kept ?_
    unfold src4; apply Kept.keepF hs2; exact fun _ => rfl
  clear_value s5
  extract_lets -merge -underBinder +onlyGivenNames s6
  have hs6 : Kept a s6 := by
    unfold s6
    split
    · exact State.refusePlace_kept hs5
    · exact hs5
  clear_value s6
  extract_lets -merge -underBinder +onlyGivenNames s7
  have hs7 : Kept a s7 := by
    unfold s7
    split
    · exact State.complete_kept hs6
    · exact hs6
  clear_value s7
  exact State.books_kept (State.wuse_kept hs7)

theorem State.removeSets_kept (h : Kept a s) : Kept a (State.removeSets s) := by
  unfold State.removeSets
  extract_lets -merge -underBinder +onlyGivenNames s1
  have hs1 : Kept a s1 := by
    unfold s1
    refine foldl_of (P := Kept a) ?_ (fun _ _ k2 => ?_)
    · exact h
    · exact State.removeSet_kept k2
  clear_value s1
  refine foldl_of (P := Kept a) ?_ (fun _ _ k3 => ?_)
  · exact hs1
  · exact State.unassign_kept k3

theorem State.roomFor_kept (h : Kept a s) {c : Prop} [Decidable c] {n k f x imgs t}
    (e : (if c then (s.makeRoom n k f).bind fun s => s.streamFor x imgs else none) = some t) : Kept a t := by
  obtain ⟨u, e1, e2⟩ := Option.bind_eq_some_iff.1 (ite_some e)
  exact State.streamFor_kept (State.makeRoom_kept h e1) e2

theorem State.replace_kept (h : Kept a s) {x xs} : Kept a (State.replace s x xs) := by
  unfold State.replace
  extract_lets -merge -underBinder +onlyGivenNames imgs1 st2 move3 bs4 aged5 miss6 x'7
  split
  · exact h
  · have k8 := State.roomFor_kept h (by assumption)
    extract_lets -merge -underBinder +onlyGivenNames s9
    have hs9 : Kept a s9 := State.onSet_kept k8
    clear_value s9
    extract_lets -merge -underBinder +onlyGivenNames src10 s11
    have hs11 : Kept a s11 := by
      unfold s11
      refine ite_of (P := Kept a) (fun _ => ?_) (fun _ => ?_)
      · exact hs9
      · unfold src10; apply Kept.keepF hs9; exact fun _ => rfl
    clear_value s11
    exact State.books_kept (State.readySets_kept (State.wuse_kept (State.yieldTo_kept (State.ghSet_kept (State.startPromotion_kept hs11)))))

theorem State.refit_kept (h : Kept a s) {x same} : Kept a (State.refit s x same) := by
  unfold State.refit
  extract_lets -merge -underBinder +onlyGivenNames imgs1 fit2
  split
  · exact h
  · exact State.replace_kept h

theorem State.switchSets_kept (h : Kept a s) : Kept a (State.switchSets s) := by
  unfold State.switchSets
  extract_lets -merge -underBinder +onlyGivenNames out1 s2
  have hs2 : Kept a s2 := by
    unfold s2
    refine foldl_of (P := Kept a) ?_ (fun _ _ k3 => ?_)
    · exact h
    · exact State.ghShow_kept (State.ghSet_kept (State.unassign_kept k3))
  clear_value s2
  extract_lets -merge -underBinder +onlyGivenNames into4 s5
  have hs5 : Kept a s5 := by
    unfold s5
    refine foldl_of (P := Kept a) ?_ (fun _ _ k6 => ?_)
    · exact hs2
    · extract_lets -merge -underBinder +onlyGivenNames old7
      exact State.refit_kept k6
  clear_value s5
  extract_lets -merge -underBinder +onlyGivenNames s8
  have hs8 : Kept a s8 := by
    unfold s8
    refine foldl_of (P := Kept a) ?_ (fun _ _ k9 => ?_)
    · exact hs5
    · exact State.endSeqs_kept k9
  clear_value s8
  extract_lets -merge -underBinder +onlyGivenNames s10
  have hs10 : Kept a s10 := by
    unfold s10
    refine ite_of (P := Kept a) (fun _ => ?_) (fun _ => ?_)
    · exact hs8
    · exact State.books_kept (State.wuse_kept hs8)
  clear_value s10
  refine foldl_of (P := Kept a) ?_ (fun _ _ k11 => ?_)
  · exact hs10
  · exact State.refit_kept k11

theorem State.switchBinds_kept (h : Kept a s) {x f} : Kept a (State.switchBinds s x f) := by
  unfold State.switchBinds
  extract_lets -merge -underBinder +onlyGivenNames due1
  refine ite_of (P := Kept a) (fun _ => ?_) (fun _ => ?_)
  · exact h
  · extract_lets -merge -underBinder +onlyGivenNames s2
    have hs2 : Kept a s2 := by
      unfold s2
      refine ite_of (P := Kept a) (fun _ => ?_) (fun _ => ?_)
      · exact h
      · refine foldl_of (P := Kept a) ?_ (fun _ _ k3 => ?_)
        · exact h
        · extract_lets -merge -underBinder +onlyGivenNames p4 v5 s6
          have hs6 : Kept a s6 := State.onStn_kept k3
          clear_value s6
          extract_lets -merge -underBinder +onlyGivenNames d7 s8
          have hs8 : Kept a s8 := State.putBindData_kept hs6
          clear_value s8
          refine ite_of (P := Kept a) (fun _ => ?_) (fun _ => ?_)
          · exact State.keepSlots_kept hs8
          · exact hs8
    clear_value s2
    exact State.onSet_kept hs2

theorem State.freeOldLayers_kept (h : Kept a s) : Kept a (State.freeOldLayers s) := by
  unfold State.freeOldLayers
  refine foldl_of (P := Kept a) ?_ (fun _ _ k1 => ?_)
  · exact h
  · extract_lets -merge -underBinder +onlyGivenNames read2 gone3
    refine ite_of (P := Kept a) (fun _ => ?_) (fun _ => ?_)
    · exact k1
    · extract_lets -merge -underBinder +onlyGivenNames s4
      have hs4 : Kept a s4 := State.dropPages_kept k1
      clear_value s4
      exact State.onModel_kept hs4

theorem State.commitInplace_kept (h : Kept a s) : Kept a (State.commitInplace s) := by
  unfold State.commitInplace
  refine foldl_of (P := Kept a) ?_ (fun _ _ k1 => ?_)
  · exact h
  · extract_lets -merge -underBinder +onlyGivenNames src2 s3
    have hs3 : Kept a s3 := by
      unfold s3
      unfold src2; apply Kept.keepF k1; exact fun _ => rfl
    clear_value s3
    extract_lets -merge -underBinder +onlyGivenNames p4
    split
    · exact State.refuseLoad_kept (State.wlShow_kept hs3)
    · split
      · exact State.refuseLoad_kept (State.wlShow_kept hs3)
      · extract_lets -merge -underBinder +onlyGivenNames s5
        have hs5 : Kept a s5 := State.commitLoad_kept (State.useKey_kept hs3)
        clear_value s5
        refine foldl_of (P := Kept a) ?_ (fun _ _ k6 => ?_)
        · exact hs5
        · exact State.switchBinds_kept k6

theorem State.closeInplace_kept (h : Kept a s) : Kept a (State.closeInplace s) := by
  unfold State.closeInplace
  refine foldl_of (P := Kept a) ?_ (fun _ _ k1 => ?_)
  · exact h
  · extract_lets -merge -underBinder +onlyGivenNames src2 s3
    have hs3 : Kept a s3 := by
      unfold s3
      unfold src2; apply Kept.keepF k1; exact fun _ => rfl
    clear_value s3
    split
    · exact hs3
    · exact State.dropPages_kept hs3

theorem State.countRows_kept (h : Kept a s) : Kept a (State.countRows s) := by
  unfold State.countRows
  extract_lets -merge -underBinder +onlyGivenNames on1 img2 own3 frames4 held5
  refine foldl_of (P := Kept a) ?_ (fun _ _ k6 => ?_)
  · exact h
  · exact State.wr_kept k6

theorem State.clearKeys_kept (h : Kept a s) : Kept a (State.clearKeys s) := by
  unfold State.clearKeys
  extract_lets -merge -underBinder +onlyGivenNames src1 s2
  have hs2 : Kept a s2 := by
    unfold s2
    unfold src1; apply Kept.keepF h; exact fun _ => rfl
  clear_value s2
  refine foldl_of (P := Kept a) ?_ (fun _ _ k3 => ?_)
  · exact hs2
  · exact State.dropModel_kept k3

end Sys2Proof.Machine
end

