-- ==== Sys2Proof/Laws/KeptDma.lean ====
section
/-! SUPPORT. What the operations of Machine/Dma.lean keep. -/

namespace Sys2Proof.Machine

variable {a s : State}

theorem State.lineBad_kept (h : Kept a s) {write host x n stride t} (e : s.lineBad write host x n stride = some t) :
    Kept a t := by
  unfold State.lineBad at e
  split at e
  · cases e
  · split at e
    · cases e
    · cases e; exact h
    · cases e; exact State.addrError_kept h

theorem State.dmaRead_kept (h : Kept a s) {host ax n} : Kept a (State.dmaRead s host ax n).2 := by
  unfold State.dmaRead
  refine ite_of (P := fun r => Kept a (Prod.snd r)) (fun _ => ?_) (fun _ => ?_)
  · exact snd_mk (P := Kept a) (h)
  · refine ite_of (P := fun r => Kept a (Prod.snd r)) (fun _ => ?_) (fun _ => ?_)
    · extract_lets -merge -underBinder +onlyGivenNames r1
      have hr1 : Kept a r1.2 := State.dramRead_kept (State.touch_kept h)
      clear_value r1
      exact snd_mk (P := Kept a) (hr1)
    · split
      · exact State.readTs_kept h
      · exact State.readRow_kept h
      · exact snd_mk (P := Kept a) (h)

theorem State.dmaWrite_kept (h : Kept a s) {host x b t} (e : s.dmaWrite host x b = some t) : Kept a t := by
  unfold State.dmaWrite at e
  split at e
  · cases e; exact State.hostSt_kept h
  · split at e
    · cases e; exact State.dramWrite_kept (State.touch_kept h)
    · split at e
      · cases e; exact State.putRow_kept h
      · split at e
        · cases e
        · cases e; exact State.writeRow_kept h
      · cases e

theorem State.onDma_kept (h : Kept a s) {c f} : Kept a (State.onDma s c f) := by
  unfold State.onDma
  apply Kept.keepF h; exact fun _ => rfl

theorem State.dmaHalf_kept (h : Kept a s) {c} : Kept a (State.dmaHalf s c) := by
  unfold State.dmaHalf
  extract_lets -merge -underBinder +onlyGivenNames ch1
  refine ite_of (P := Kept a) (fun _ => ?_) (fun _ => ?_)
  · exact h
  · exact State.flag_kept (State.onDma_kept h)

theorem State.dmaFill_kept (h : Kept a s) {c want} : Kept a (State.dmaFill s c want).2 := by
  unfold State.dmaFill
  extract_lets -merge -underBinder +onlyGivenNames ch1 d2 sl3 r4 sh5 sa6
  split
  · have k7 := State.lineBad_kept h (ite_some (by assumption))
    exact snd_mk (P := Kept a) (k7)
  · extract_lets -merge -underBinder +onlyGivenNames n8
    split
    · have k9 := snd_of (by assumption) (State.dmaRead_kept h)
      exact snd_mk (P := Kept a) (k9)
    · have k10 := snd_of (by assumption) (State.dmaRead_kept h)
      exact snd_mk (P := Kept a) (State.onDma_kept k10)

theorem State.dmaEmpty_kept (h : Kept a s) {c n} : Kept a (State.dmaEmpty s c n).2 := by
  unfold State.dmaEmpty
  extract_lets -merge -underBinder +onlyGivenNames ch1 d2 dl3 dh4 da5
  split
  · have k6 := State.lineBad_kept h (ite_some (by assumption))
    exact snd_mk (P := Kept a) (k6)
  · split
    · exact snd_mk (P := Kept a) (State.addrError_kept h)
    · have k7 := State.dmaWrite_kept h (by assumption)
      exact snd_mk (P := Kept a) (State.dmaHalf_kept (State.onDma_kept (State.bump_kept k7)))

theorem State.dmaMove_kept {s : State} (h : Kept a s) {c target ax} : Kept a (State.dmaMove s c target ax).2 := by
  unfold State.dmaMove
  split
  · exact snd_mk (P := Kept a) (h)
  · extract_lets -merge -underBinder +onlyGivenNames ch1 target2 dl3 rows4 n5
    refine ite_of (P := fun r => Kept a (Prod.snd r)) (fun _ => ?_) (fun _ => ?_)
    · exact snd_mk (P := Kept a) (h)
    · extract_lets -merge -underBinder +onlyGivenNames k6
      split
      · have k7 := snd_of (by assumption) (ite_of (P := fun r => Kept a (Prod.snd r)) (fun _ => State.dmaFill_kept h) fun _ => State.dmaEmpty_kept h)
        exact snd_mk (P := Kept a) (State.onDma_kept k7)
      · have k8 := snd_of (by assumption) (ite_of (P := fun r => Kept a (Prod.snd r)) (fun _ => State.dmaFill_kept h) fun _ => State.dmaEmpty_kept h)
        exact State.dmaMove_kept k8

theorem State.dmaEnd_kept (h : Kept a s) {c status} : Kept a (State.dmaEnd s c status) := by
  unfold State.dmaEnd
  extract_lets -merge -underBinder +onlyGivenNames ch1 d2 ok3 a4 s5
  have hs5 : Kept a s5 := by
    unfold s5
    refine ite_of (P := Kept a) (fun _ => ?_) (fun _ => ?_)
    · exact State.dramWrite_kept h
    · exact h
  clear_value s5
  extract_lets -merge -underBinder +onlyGivenNames s6
  have hs6 : Kept a s6 := State.wr_kept hs5
  clear_value s6
  extract_lets -merge -underBinder +onlyGivenNames s7
  have hs7 : Kept a s7 := State.bump_kept (State.wr_kept (State.onDma_kept hs6))
  clear_value s7
  extract_lets -merge -underBinder +onlyGivenNames t8 k9 src10 s11
  have hs11 : Kept a s11 := by
    unfold s11
    refine ite_of (P := Kept a) (fun _ => ?_) (fun _ => ?_)
    · exact hs7
    · refine ite_of (P := Kept a) (fun _ => ?_) (fun _ => ?_)
      · unfold src10; apply Kept.keepF hs7; exact fun _ => rfl
      · exact State.setTflag_kept hs7
  clear_value s11
  refine ite_of (P := Kept a) (fun _ => ?_) (fun _ => ?_)
  · refine ite_of (P := Kept a) (fun _ => ?_) (fun _ => ?_)
    · exact State.flag_kept hs11
    · exact hs11
  · extract_lets -merge -underBinder +onlyGivenNames s12
    have hs12 : Kept a s12 := by
      unfold s12
      refine ite_of (P := Kept a) (fun _ => ?_) (fun _ => ?_)
      · exact hs11
      · exact State.wr_kept hs11
    clear_value s12
    extract_lets -merge -underBinder +onlyGivenNames s13
    have hs13 : Kept a s13 := State.flag_kept hs12
    clear_value s13
    refine ite_of (P := Kept a) (fun _ => ?_) (fun _ => ?_)
    · exact State.wrs_kept hs13
    · exact hs13

theorem State.dmaStop_kept (h : Kept a s) {c upto status} : Kept a (State.dmaStop s c upto status) := by
  unfold State.dmaStop
  extract_lets -merge -underBinder +onlyGivenNames ch1
  refine ite_of (P := Kept a) (fun _ => ?_) (fun _ => ?_)
  · exact h
  · refine ite_of (P := Kept a) (fun _ => ?_) (fun _ => ?_)
    · exact State.dmaEnd_kept h
    · split
      · have k2 := snd_of (by assumption) (State.dmaMove_kept h)
        exact State.dmaEnd_kept k2
      · have k3 := snd_of (by assumption) (State.dmaMove_kept h)
        refine State.dmaEnd_kept ?_
        refine ite_of (P := Kept a) (fun _ => ?_) (fun _ => ?_)
        · exact State.dmaHalf_kept k3
        · exact k3

theorem State.gatherList_kept (h : Kept a s) {d} : Kept a (State.gatherList s d).2 := by
  unfold State.gatherList
  extract_lets -merge -underBinder +onlyGivenNames t1 row2 n3
  refine ite_of (P := fun r => Kept a (Prod.snd r)) (fun _ => ?_) (fun _ => ?_)
  · exact snd_mk (P := Kept a) (h)
  · extract_lets -merge -underBinder +onlyGivenNames r4
    have hr4 : Kept a r4.2 := by
      unfold r4
      refine foldl_of (P := fun r => Kept a (Prod.snd r)) ?_ (fun _ _ k5 => ?_)
      · exact snd_mk (P := Kept a) (h)
      · extract_lets -merge -underBinder +onlyGivenNames y6
        have hy6 : Kept a y6.2 := State.readTs_kept k5
        clear_value y6
        exact snd_mk (P := Kept a) (hy6)
    clear_value r4
    exact snd_mk (P := Kept a) (hr4)

theorem State.dmaPanic_kept (h : Kept a s) {c cyc} : Kept a (State.dmaPanic s c cyc) := by
  unfold State.dmaPanic
  extract_lets -merge -underBinder +onlyGivenNames ch1
  refine ite_of (P := Kept a) (fun _ => ?_) (fun _ => ?_)
  · exact State.onDma_kept (State.bump_kept h)
  · exact h

theorem State.dmaBegin_kept (h : Kept a s) {c} : Kept a (State.dmaBegin s c) := by
  unfold State.dmaBegin
  extract_lets -merge -underBinder +onlyGivenNames d1 n2 now3
  refine ite_of (P := Kept a) (fun _ => ?_) (fun _ => ?_)
  · exact State.dmaEnd_kept h
  · refine ite_of (P := Kept a) (fun _ => ?_) (fun _ => ?_)
    · exact h
    · refine ite_of (P := Kept a) (fun _ => ?_) (fun _ => ?_)
      · exact h
      · extract_lets -merge -underBinder +onlyGivenNames go4
        have hgo4 : ∀ y5 y6, Kept a y5 → Kept a (go4 y5 y6) := by
          intro y5 y6 k7
          unfold go4
          extract_lets -merge -underBinder +onlyGivenNames s8
          have hs8 : Kept a s8 := State.onDma_kept k7
          clear_value s8
          refine ite_of (P := Kept a) (fun _ => ?_) (fun _ => ?_)
          · extract_lets -merge -underBinder +onlyGivenNames f9
            have hf9 : Kept a f9.2 := State.free_kept hs8
            clear_value f9
            exact State.onDma_kept hf9
          · exact hs8
        clear_value go4
        refine ite_of (P := Kept a) (fun _ => ?_) (fun _ => ?_)
        · split
          · have k10 := snd_of (by assumption) (State.gatherList_kept h)
            exact hgo4 _ _ (k10)
          · have k11 := snd_of (by assumption) (State.gatherList_kept h)
            exact State.dmaEnd_kept k11
        · exact hgo4 _ _ (h)

theorem State.dmaStart_kept (h : Kept a s) {c cyc} : Kept a (State.dmaStart s c cyc) := by
  unfold State.dmaStart
  extract_lets -merge -underBinder +onlyGivenNames ch1
  refine ite_of (P := Kept a) (fun _ => ?_) (fun _ => ?_)
  · refine ite_of (P := Kept a) (fun _ => ?_) (fun _ => ?_)
    · exact h
    · exact State.dmaBegin_kept (State.dmaPanic_kept h)
  · refine ite_of (P := Kept a) (fun _ => ?_) (fun _ => ?_)
    · exact h
    · extract_lets -merge -underBinder +onlyGivenNames a2 s3
      have hs3 : Kept a s3 := State.wr_kept h
      clear_value s3
      refine ite_of (P := Kept a) (fun _ => ?_) (fun _ => ?_)
      · exact State.dmaEnd_kept (State.onDma_kept (State.addrError_kept hs3))
      · extract_lets -merge -underBinder +onlyGivenNames r4
        have hr4 : Kept a r4.2 := State.dramRead_kept hs3
        clear_value r4
        extract_lets -merge -underBinder +onlyGivenNames s5
        have hs5 : Kept a s5 := State.onDma_kept hr4
        clear_value s5
        refine ite_of (P := Kept a) (fun _ => ?_) (fun _ => ?_)
        · exact State.dmaEnd_kept hs5
        · refine ite_of (P := Kept a) (fun _ => ?_) (fun _ => ?_)
          · exact State.dmaEnd_kept hs5
          · exact State.dmaBegin_kept (State.dmaPanic_kept hs5)

theorem execDmaDescriptorStart_kept (h : Kept a s) {c cyc} : ResKept a (execDmaDescriptorStart c cyc s) := by
  unfold execDmaDescriptorStart
  exact ResKept.next (State.dmaStart_kept h)

theorem State.dmaToHalf_kept (h : Kept a s) {c cyc} : Kept a (State.dmaToHalf s c cyc) := by
  unfold State.dmaToHalf
  extract_lets -merge -underBinder +onlyGivenNames s1
  have hs1 : Kept a s1 := State.dmaPanic_kept h
  clear_value s1
  extract_lets -merge -underBinder +onlyGivenNames ch2
  refine ite_of (P := Kept a) (fun _ => ?_) (fun _ => ?_)
  · exact hs1
  · split
    · have k3 := snd_of (by assumption) (State.dmaMove_kept hs1)
      exact State.dmaEnd_kept k3
    · have k4 := snd_of (by assumption) (State.dmaMove_kept hs1)
      exact k4

theorem execDmaHalf_kept (h : Kept a s) {c cyc} : ResKept a (execDmaHalf c cyc s) := by
  unfold execDmaHalf
  exact ResKept.next (State.dmaToHalf_kept h)

theorem State.dmaFinish_kept (h : Kept a s) {c cyc host upto} : Kept a (State.dmaFinish s c cyc host upto) := by
  unfold State.dmaFinish
  extract_lets -merge -underBinder +onlyGivenNames s1
  have hs1 : Kept a s1 := State.dmaPanic_kept h
  clear_value s1
  extract_lets -merge -underBinder +onlyGivenNames ch2
  refine ite_of (P := Kept a) (fun _ => ?_) (fun _ => ?_)
  · exact hs1
  · refine ite_of (P := Kept a) (fun _ => ?_) (fun _ => ?_)
    · exact State.dmaStop_kept hs1
    · exact State.dmaStop_kept hs1

theorem execDmaDescriptorEnd_kept (h : Kept a s) {c cyc host upto} : ResKept a (execDmaDescriptorEnd c cyc host upto s) := by
  unfold execDmaDescriptorEnd
  exact ResKept.next (State.dmaFinish_kept h)

theorem execDmaRtDeadline_kept (h : Kept a s) {c upto} : ResKept a (execDmaRtDeadline c upto s) := by
  unfold execDmaRtDeadline
  extract_lets -merge -underBinder +onlyGivenNames ch1
  refine ite_of (P := ResKept a) (fun _ => ?_) (fun _ => ?_)
  · exact ResKept.next (State.dmaStop_kept (State.dmaPanic_kept h))
  · exact ResKept.next (h)

theorem execDmaHostTimeout_kept (h : Kept a s) {c upto} : ResKept a (execDmaHostTimeout c upto s) := by
  unfold execDmaHostTimeout
  extract_lets -merge -underBinder +onlyGivenNames ch1
  refine ite_of (P := ResKept a) (fun _ => ?_) (fun _ => ?_)
  · exact ResKept.next (State.dmaStop_kept h)
  · exact ResKept.next (h)

theorem State.dmaAbort_kept (h : Kept a s) {c upto} : Kept a (State.dmaAbort s c upto) := by
  unfold State.dmaAbort
  exact State.wr_kept (State.dmaStop_kept h)

theorem execDmaAbort_kept (h : Kept a s) {c upto} : ResKept a (execDmaAbort c upto s) := by
  unfold execDmaAbort
  exact ResKept.next (State.dmaAbort_kept h)

theorem State.dmaProd_kept (h : Kept a s) {c v} : Kept a (State.dmaProd s c v) := by
  unfold State.dmaProd
  extract_lets -merge -underBinder +onlyGivenNames n1 old2 posts3 free4
  refine ite_of (P := Kept a) (fun _ => ?_) (fun _ => ?_)
  · exact State.wr_kept h
  · exact State.wr_kept h

theorem execDmaProdWrite_kept (h : Kept a s) {c v} : ResKept a (execDmaProdWrite c v s) := by
  unfold execDmaProdWrite
  exact ResKept.next (State.dmaProd_kept h)

theorem State.dmaFlags_kept (h : Kept a s) : Kept a (State.dmaFlags s) := by
  unfold State.dmaFlags
  extract_lets -merge -underBinder +onlyGivenNames due1 src2 s3
  have hs3 : Kept a s3 := by
    unfold s3
    unfold src2; apply Kept.keepF h; exact fun _ => rfl
  clear_value s3
  refine foldl_of (P := Kept a) ?_ (fun _ _ k4 => ?_)
  · exact hs3
  · refine ite_of (P := Kept a) (fun _ => ?_) (fun _ => ?_)
    · exact State.setTflag_kept k4
    · exact k4

end Sys2Proof.Machine
end

