-- ==== Sys2Proof/Laws/KeptSlots.lean ====
section
/-! SUPPORT. What the operations of Machine/Slots.lean keep. -/

namespace Sys2Proof.Machine

variable {a s : State}

theorem State.slotSet_kept (h : Kept a s) {t p k} : Kept a (State.slotSet s t p k) := by
  unfold State.slotSet
  refine ite_of (P := Kept a) (fun _ => ?_) (fun _ => ?_)
  · exact h
  · exact State.setPresent_kept h

theorem execSlotSet_kept (h : Kept a s) {st k} : ResKept a (execSlotSet st k s) := by
  unfold execSlotSet
  exact ResKept.next (State.slotSet_kept h)

theorem execSlotRelease_kept (h : Kept a s) {st k} : ResKept a (execSlotRelease st k s) := by
  unfold execSlotRelease
  exact ResKept.next (State.release_kept h)

theorem State.linkBad_kept (h : Kept a s) {t p u q cyc} : Kept a (State.linkBad s t p u q cyc) := by
  unfold State.linkBad
  exact State.faultSlice_kept (State.bump_kept h)

theorem State.takeRow_kept (h : Kept a s) {q up rest} : Kept a (State.takeRow s q up rest) := by
  unfold State.takeRow
  exact State.onStn_kept h

theorem State.linkRow_kept (h : Kept a s) {t p up bad cyc} : Kept a (State.linkRow s t p up bad cyc) := by
  unfold State.linkRow
  split
  · exact h
  · extract_lets -merge -underBinder +onlyGivenNames l1
    split
    · exact h
    · extract_lets -merge -underBinder +onlyGivenNames m2
      refine ite_of (P := Kept a) (fun _ => ?_) (fun _ => ?_)
      · exact h
      · refine ite_of (P := Kept a) (fun _ => ?_) (fun _ => ?_)
        · exact State.linkBad_kept (State.takeRow_kept h)
        · refine ite_of (P := Kept a) (fun _ => ?_) (fun _ => ?_)
          · extract_lets -merge -underBinder +onlyGivenNames out3
            refine ite_of (P := Kept a) (fun _ => ?_) (fun _ => ?_)
            · exact h
            · exact State.onStn_kept (State.takeRow_kept h)
          · refine ite_of (P := Kept a) (fun _ => ?_) (fun _ => ?_)
            · exact State.stallSlot_kept h
            · extract_lets -merge -underBinder +onlyGivenNames s4
              have hs4 : Kept a s4 := State.takeRow_kept h
              clear_value s4
              extract_lets -merge -underBinder +onlyGivenNames s5
              have hs5 : Kept a s5 := State.writeRow_kept hs4
              clear_value s5
              refine ite_of (P := Kept a) (fun _ => ?_) (fun _ => ?_)
              · exact State.setPresent_kept hs5
              · exact hs5

theorem State.linkReturn_kept (h : Kept a s) {t p up bad cyc} : Kept a (State.linkReturn s t p up bad cyc) := by
  unfold State.linkReturn
  refine ite_of (P := Kept a) (fun _ => ?_) (fun _ => ?_)
  · exact h
  · split
    · exact State.linkBad_kept h
    · exact State.bump_kept h

theorem execLinkRowReceive_kept (h : Kept a s) {st up ax cyc} : ResKept a (execLinkRowReceive st up ax cyc s) := by
  unfold execLinkRowReceive
  refine ResKept.next ?_
  refine ite_of (P := Kept a) (fun _ => ?_) (fun _ => ?_)
  · exact State.linkReturn_kept h
  · exact State.linkRow_kept h

theorem execCreditReturn_kept (h : Kept a s) {st up} : ResKept a (execCreditReturn st up s) := by
  unfold execCreditReturn
  exact ResKept.next (State.onStn_kept h)

theorem State.memPass_kept (h : Kept a s) {t p w} : Kept a (State.memPass s t p w) := by
  unfold State.memPass
  extract_lets -merge -underBinder +onlyGivenNames s1
  have hs1 : Kept a s1 := by
    unfold s1
    refine ite_of (P := Kept a) (fun _ => ?_) (fun _ => ?_)
    · exact State.wr_kept h
    · exact h
  clear_value s1
  refine ite_of (P := Kept a) (fun _ => ?_) (fun _ => ?_)
  · refine ite_of (P := Kept a) (fun _ => ?_) (fun _ => ?_)
    · exact hs1
    · exact State.wr_kept hs1
  · exact State.wr_kept hs1

theorem execMemPassWrite_kept (h : Kept a s) {st w} : ResKept a (execMemPassWrite st w s) := by
  unfold execMemPassWrite
  exact ResKept.next (State.memPass_kept h)

theorem State.tstorePages_kept (h : Kept a s) {t w} : Kept a (State.tstorePages s t w) := by
  unfold State.tstorePages
  extract_lets -merge -underBinder +onlyGivenNames s1
  have hs1 : Kept a s1 := by
    unfold s1
    refine ite_of (P := Kept a) (fun _ => ?_) (fun _ => ?_)
    · exact State.wr_kept h
    · exact h
  clear_value s1
  extract_lets -merge -underBinder +onlyGivenNames n2
  refine ite_of (P := Kept a) (fun _ => ?_) (fun _ => ?_)
  · exact hs1
  · extract_lets -merge -underBinder +onlyGivenNames old3 clash4 hot5
    refine ite_of (P := Kept a) (fun _ => ?_) (fun _ => ?_)
    · exact State.wr_kept hs1
    · exact State.onTer_kept hs1

theorem execTstorePagesWrite_kept (h : Kept a s) {t w} : ResKept a (execTstorePagesWrite t w s) := by
  unfold execTstorePagesWrite
  exact ResKept.next (State.tstorePages_kept h)

theorem State.flipWord_kept (h : Kept a s) {ax m} : Kept a (State.flipWord s ax m) := by
  unfold State.flipWord
  exact State.stN_kept h

theorem State.strike_kept (h : Kept a s) {ax l} : Kept a (State.strike s ax l) := by
  unfold State.strike
  refine foldl_of (P := Kept a) ?_ (fun _ _ k1 => ?_)
  · exact h
  · refine ite_of (P := Kept a) (fun _ => ?_) (fun _ => ?_)
    · exact k1
    · extract_lets -merge -underBinder +onlyGivenNames w2
      split
      · exact State.mark_kept k1
      · exact State.mark_kept k1
      · exact State.mark_kept (State.flipWord_kept k1)
      · exact State.flipWord_kept k1

theorem State.scrub_kept (h : Kept a s) {t p m row l late} : Kept a (State.scrub s t p m row l late) := by
  unfold State.scrub
  extract_lets -merge -underBinder +onlyGivenNames before1 after2
  refine ite_of (P := Kept a) (fun _ => ?_) (fun _ => ?_)
  · refine ite_of (P := Kept a) (fun _ => ?_) (fun _ => ?_)
    · extract_lets -merge -underBinder +onlyGivenNames a3 s4
      have hs4 : Kept a s4 := State.strike_kept h
      clear_value s4
      exact State.strike_kept (State.writeBack_kept (State.eccTs_kept hs4))
    · exact h
  · refine ite_of (P := Kept a) (fun _ => ?_) (fun _ => ?_)
    · exact h
    · extract_lets -merge -underBinder +onlyGivenNames a5 s6
      have hs6 : Kept a s6 := State.strike_kept h
      clear_value s6
      extract_lets -merge -underBinder +onlyGivenNames s7
      have hs7 : Kept a s7 := by
        unfold s7
        refine ite_of (P := Kept a) (fun _ => ?_) (fun _ => ?_)
        · exact hs6
        · exact State.writeBack_kept (State.eccStn_kept hs6)
      clear_value s7
      exact State.strike_kept hs7

theorem execScrubRow_kept (h : Kept a s) {t p m row found} : ResKept a (execScrubRow t p m row found s) := by
  unfold execScrubRow
  exact ResKept.next (State.scrub_kept h)

theorem State.takeCtrl_kept (h : Kept a s) {t req rest pos} : Kept a (State.takeCtrl s t req rest pos) := by
  unfold State.takeCtrl
  refine ite_of (P := Kept a) (fun _ => ?_) (fun _ => ?_)
  · exact State.wr_kept h
  · exact State.onTer_kept h

theorem State.takeReq_kept (h : Kept a s) {t pos} : Kept a (State.takeReq s t pos) := by
  unfold State.takeReq
  exact State.takeCtrl_kept h

theorem execTakeoverRequest_kept (h : Kept a s) {t pos} : ResKept a (execTakeoverRequest t pos s) := by
  unfold execTakeoverRequest
  exact ResKept.next (State.takeReq_kept h)

theorem execTakeoverRestore_kept (h : Kept a s) {t} : ResKept a (execTakeoverRestore t s) := by
  unfold execTakeoverRestore
  exact ResKept.next (State.takeCtrl_kept h)

theorem State.takeCopied_kept (h : Kept a s) {t} : Kept a (State.takeCopied s t) := by
  unfold State.takeCopied
  refine ite_of (P := Kept a) (fun _ => ?_) (fun _ => ?_)
  · exact h
  · extract_lets -merge -underBinder +onlyGivenNames p1 ecc2 s3
    have hs3 : Kept a s3 := by
      unfold s3
      exact Kept.setEcc (Kept.setMem h (KMap.canonical_copy _ _ _ _ _)) fun x =>
        KMap.canonical_copy _ _ _ _ _ (KMap.canonical_filter _ _ _ x)
    clear_value s3
    exact State.onTer_kept hs3

theorem execTakeoverCopyDone_kept (h : Kept a s) {t} : ResKept a (execTakeoverCopyDone t s) := by
  unfold execTakeoverCopyDone
  exact ResKept.next (State.takeCopied_kept h)

theorem State.slotFault_kept (h : Kept a s) {t p cause k code} : Kept a (State.slotFault s t p cause k code) := by
  unfold State.slotFault
  exact State.firstLog_kept h

theorem State.checkStn_kept (h : Kept a s) {t p cyc z} : Kept a (State.checkStn s t p cyc z) := by
  unfold State.checkStn
  extract_lets -merge -underBinder +onlyGivenNames v1
  refine ite_of (P := Kept a) (fun _ => ?_) (fun _ => ?_)
  · exact h
  · extract_lets -merge -underBinder +onlyGivenNames h2 live3 all4 ports5 chk6 unended7 wc8 s9
    have hs9 : Kept a s9 := by
      unfold s9
      refine foldl_of (P := Kept a) ?_ (fun _ _ k10 => ?_)
      · exact h
      · exact State.slotFault_kept k10
    clear_value s9
    extract_lets -merge -underBinder +onlyGivenNames s11
    have hs11 : Kept a s11 := by
      unfold s11
      refine foldl_of (P := Kept a) ?_ (fun _ _ k12 => ?_)
      · exact hs9
      · exact State.slotFault_kept k12
    clear_value s11
    extract_lets -merge -underBinder +onlyGivenNames codes13 s14
    have hs14 : Kept a s14 := by
      unfold s14
      refine ite_of (P := Kept a) (fun _ => ?_) (fun _ => ?_)
      · exact State.firstLog_kept hs11
      · exact hs11
    clear_value s14
    extract_lets -merge -underBinder +onlyGivenNames s15
    have hs15 : Kept a s15 := by
      unfold s15
      refine foldl_of (P := Kept a) ?_ (fun _ _ k16 => ?_)
      · exact hs14
      · refine ite_of (P := Kept a) (fun _ => ?_) (fun _ => ?_)
        · exact State.faultSlice_kept k16
        · exact k16
    clear_value s15
    refine ite_of (P := Kept a) (fun _ => ?_) (fun _ => ?_)
    · exact State.wr_kept hs15
    · exact hs15

theorem State.stationsAtB_kept (h : Kept a s) {cyc z} : Kept a (State.stationsAtB s cyc z) := by
  unfold State.stationsAtB
  refine ite_of (P := Kept a) (fun _ => ?_) (fun _ => ?_)
  · refine foldl_of (P := Kept a) ?_ (fun _ _ k1 => ?_)
    · exact h
    · exact State.checkStn_kept k1
  · exact h

end Sys2Proof.Machine
end

