-- ==== Sys2Proof/Laws/KeptIntegrity.lean ====
section
/-! SUPPORT. What the operations of Machine/Integrity.lean keep. -/

namespace Sys2Proof.Machine

variable {a s : State}

theorem State.recordStations_kept (h : Kept a s) : Kept a (State.recordStations s) := by
  unfold State.recordStations
  exact State.persist_kept h

theorem State.fence_kept (h : Kept a s) {t p} : Kept a (State.fence s t p) := by
  unfold State.fence
  refine ite_of (P := Kept a) (fun _ => ?_) (fun _ => ?_)
  · exact h
  · extract_lets -merge -underBinder +onlyGivenNames s1
    have hs1 : Kept a s1 := State.postEvent_kept (State.wr_kept h)
    clear_value s1
    exact State.recordStations_kept (State.rederive_kept (State.count_kept (State.logEntry_kept hs1)))

theorem State.retire_kept (h : Kept a s) {t p} : Kept a (State.retire s t p) := by
  unfold State.retire
  refine ite_of (P := Kept a) (fun _ => ?_) (fun _ => ?_)
  · exact h
  · refine ite_of (P := Kept a) (fun _ => ?_) (fun _ => ?_)
    · exact State.fence_kept h
    · exact State.takeReq_kept h

theorem State.recordRepair_kept (h : Kept a s) {t p row col} : Kept a (State.recordRepair s t p row col) := by
  unfold State.recordRepair
  extract_lets -merge -underBinder +onlyGivenNames l1
  exact State.persist_kept h

theorem State.repairArray_kept (h : Kept a s) {t p row col} : Kept a (State.repairArray s t p row col) := by
  unfold State.repairArray
  extract_lets -merge -underBinder +onlyGivenNames s1
  have hs1 : Kept a s1 := State.recordRepair_kept h
  clear_value s1
  extract_lets -merge -underBinder +onlyGivenNames s2
  have hs2 : Kept a s2 := State.count_kept (State.logEntry_kept hs1)
  clear_value s2
  refine ite_of (P := Kept a) (fun _ => ?_) (fun _ => ?_)
  · exact State.postEvent_kept hs2
  · exact State.postEvent_kept (State.arrayRepair_kept hs2)

theorem State.countFault_kept (h : Kept a s) {r} : Kept a (State.countFault s r) := by
  unfold State.countFault
  extract_lets -merge -underBinder +onlyGivenNames v1 located2 loc3 tides4 mate5 w6 src7 s8
  have hs8 : Kept a s8 := by
    unfold s8
    unfold src7; apply Kept.keepF h; exact fun _ => rfl
  clear_value s8
  extract_lets -merge -underBinder +onlyGivenNames s9
  have hs9 : Kept a s9 := by
    unfold s9
    split
    · exact State.repairArray_kept hs8
    · exact hs8
  clear_value s9
  refine ite_of (P := Kept a) (fun _ => ?_) (fun _ => ?_)
  · exact hs9
  · refine ite_of (P := Kept a) (fun _ => ?_) (fun _ => ?_)
    · exact State.onTer_kept hs9
    · exact State.retire_kept hs9

theorem State.fqPop_kept (h : Kept a s) : Kept a (State.fqPop s) := by
  unfold State.fqPop
  split
  · exact h
  · extract_lets -merge -underBinder +onlyGivenNames src1 s2
    have hs2 : Kept a s2 := by
      unfold s2
      exact Kept.setInteg h fun x => by simp only [*, List.length_cons] at x ⊢; omega
    clear_value s2
    extract_lets -merge -underBinder +onlyGivenNames s3
    have hs3 : Kept a s3 := State.wr_kept hs2
    clear_value s3
    extract_lets -merge -underBinder +onlyGivenNames counting4 granted5 s6
    have hs6 : Kept a s6 := State.logEntry_kept hs3
    clear_value s6
    extract_lets -merge -underBinder +onlyGivenNames s7
    have hs7 : Kept a s7 := State.count_kept hs6
    clear_value s7
    extract_lets -merge -underBinder +onlyGivenNames s8
    have hs8 : Kept a s8 := by
      unfold s8
      refine ite_of (P := Kept a) (fun _ => ?_) (fun _ => ?_)
      · exact State.sample_kept (State.count_kept hs7)
      · exact hs7
    clear_value s8
    refine ite_of (P := Kept a) (fun _ => ?_) (fun _ => ?_)
    · exact State.countFault_kept (State.sample_kept hs8)
    · exact hs8

theorem execFqPop_kept (h : Kept a s) : ResKept a (execFqPop s) := by
  unfold execFqPop
  exact ResKept.next (State.fqPop_kept h)

theorem State.mapRow_kept (h : Kept a s) {t p m bank index spare} : Kept a (State.mapRow s t p m bank index spare) := by
  unfold State.mapRow
  extract_lets -merge -underBinder +onlyGivenNames row1 a2 f3
  have hf3 : Kept a f3.2 := State.free_kept h
  clear_value f3
  extract_lets -merge -underBinder +onlyGivenNames src4
  have hsrc4 : Kept a src4 := hf3
  extract_lets -merge -underBinder +onlyGivenNames src5 s6
  have hs6 : Kept a s6 := by
    unfold s6
    exact Kept.keep (hsrc4) rfl
  clear_value s6
  exact State.putRow_kept hs6

theorem State.srepWrite_kept (h : Kept a s) {w} : Kept a (State.srepWrite s w) := by
  unfold State.srepWrite
  extract_lets -merge -underBinder +onlyGivenNames s1
  have hs1 : Kept a s1 := by
    unfold s1
    refine ite_of (P := Kept a) (fun _ => ?_) (fun _ => ?_)
    · exact State.wr_kept h
    · exact h
  clear_value s1
  extract_lets -merge -underBinder +onlyGivenNames t2 p3 m4 bank5 index6 spare7 s8
  have hs8 : Kept a s8 := State.wrs_kept hs1
  clear_value s8
  extract_lets -merge -underBinder +onlyGivenNames old9
  refine ite_of (P := Kept a) (fun _ => ?_) (fun _ => ?_)
  · exact hs8
  · refine ite_of (P := Kept a) (fun _ => ?_) (fun _ => ?_)
    · extract_lets -merge -underBinder +onlyGivenNames s10
      have hs10 : Kept a s10 := State.wr_kept hs8
      clear_value s10
      refine ite_of (P := Kept a) (fun _ => ?_) (fun _ => ?_)
      · extract_lets -merge -underBinder +onlyGivenNames src11 s12
        have hs12 : Kept a s12 := by
          unfold s12
          unfold src11; apply Kept.keepF hs10; exact fun _ => rfl
        clear_value s12
        exact State.persist_kept (State.logEntry_kept hs12)
      · exact hs10
    · extract_lets -merge -underBinder +onlyGivenNames pw13 s14
      have hs14 : Kept a s14 := State.persist_kept (State.mapRow_kept hs8)
      clear_value s14
      extract_lets -merge -underBinder +onlyGivenNames s15
      have hs15 : Kept a s15 := State.count_kept (State.logEntry_kept hs14)
      clear_value s15
      exact State.postEvent_kept hs15

theorem execSramRepairMap_kept (h : Kept a s) {w} : ResKept a (execSramRepairMap w s) := by
  unfold execSramRepairMap
  exact ResKept.next (State.srepWrite_kept h)

theorem State.logPut_kept (h : Kept a s) {e} : Kept a (State.logPut s e) := by
  unfold State.logPut
  extract_lets -merge -underBinder +onlyGivenNames s1
  have hs1 : Kept a s1 := State.codeWritten_kept h
  clear_value s1
  split
  · refine ite_of (P := Kept a) (fun _ => ?_) (fun _ => ?_)
    · apply Kept.keepF hs1; exact fun _ => rfl
    · refine ite_of (P := Kept a) (fun _ => ?_) (fun _ => ?_)
      · apply Kept.keepF hs1; exact fun _ => rfl
      · refine State.bump_kept ?_
        apply Kept.keepF hs1; exact fun _ => rfl
  · apply Kept.keepF hs1; exact fun _ => rfl

theorem State.writeCheckpoint_kept (h : Kept a s) : Kept a (State.writeCheckpoint s) := by
  unfold State.writeCheckpoint
  extract_lets -merge -underBinder +onlyGivenNames l1 src2 s3
  have hs3 : Kept a s3 := by
    unfold s3
    unfold src2; apply Kept.keepF h; exact fun _ => rfl
  clear_value s3
  refine foldl_of (P := Kept a) ?_ (fun _ _ k4 => ?_)
  · exact hs3
  · exact State.logPut_kept k4

theorem State.drainLog_kept {s : State} (h : Kept a s) {ax} : Kept a (State.drainLog s ax) := by
  unfold State.drainLog
  split
  · exact h
  · split
    · exact h
    · refine ite_of (P := Kept a) (fun _ => ?_) (fun _ => ?_)
      · exact h
      · extract_lets -merge -underBinder +onlyGivenNames near1 s2
        have hs2 : Kept a s2 := by
          unfold s2
          refine ite_of (P := Kept a) (fun _ => ?_) (fun _ => ?_)
          · exact State.writeCheckpoint_kept h
          · exact h
        clear_value s2
        extract_lets -merge -underBinder +onlyGivenNames src3 s4
        have hs4 : Kept a s4 := by
          unfold s4
          refine Kept.setLogA hs2 fun x => ?_
          have := (h.inv x).2.2.2.2
          simp only [*, List.length_cons] at this ⊢
          omega
        clear_value s4
        extract_lets -merge -underBinder +onlyGivenNames s5
        have hs5 : Kept a s5 := State.logPut_kept hs4
        clear_value s5
        extract_lets -merge -underBinder +onlyGivenNames n6 src7 s8
        have hs8 : Kept a s8 := by
          unfold s8
          refine ite_of (P := Kept a) (fun _ => ?_) (fun _ => ?_)
          · exact hs5
          · refine State.logEntry_kept ?_
            unfold src7; apply Kept.keepF hs5; exact fun _ => rfl
        clear_value s8
        exact State.drainLog_kept hs8

theorem State.logToken_kept (h : Kept a s) : Kept a (State.logToken s) := by
  unfold State.logToken
  refine ite_of (P := Kept a) (fun _ => ?_) (fun _ => ?_)
  · exact h
  · refine State.drainLog_kept ?_
    apply Kept.keepF h; exact fun _ => rfl

theorem execLogToken_kept (h : Kept a s) : ResKept a (execLogToken s) := by
  unfold execLogToken
  exact ResKept.next (State.logToken_kept h)

theorem execLifetimeCheckpoint_kept (h : Kept a s) {hour} : ResKept a (execLifetimeCheckpoint hour s) := by
  unfold execLifetimeCheckpoint
  refine ResKept.next ?_
  refine State.writeCheckpoint_kept ?_
  refine ite_of (P := Kept a) (fun _ => ?_) (fun _ => ?_)
  · exact State.count_kept h
  · exact h

theorem State.restoreLife_kept (h : Kept a s) : Kept a (State.restoreLife s) := by
  unfold State.restoreLife
  extract_lets -merge -underBinder +onlyGivenNames l1
  split
  · exact h
  · apply Kept.keepF h; exact fun _ => rfl

theorem execHistogramSample_kept (h : Kept a s) {margin} : ResKept a (execHistogramSample margin s) := by
  unfold execHistogramSample
  refine ResKept.next ?_
  refine ite_of (P := Kept a) (fun _ => ?_) (fun _ => ?_)
  · extract_lets -merge -underBinder +onlyGivenNames b1
    exact State.sample_kept h
  · exact State.sample_kept h

theorem State.checkBooks_kept (h : Kept a s) {bad} : Kept a (State.checkBooks s bad) := by
  unfold State.checkBooks
  refine ite_of (P := Kept a) (fun _ => ?_) (fun _ => ?_)
  · exact h
  · extract_lets -merge -underBinder +onlyGivenNames new1
    exact State.postEvent_kept (State.logEntry_kept (State.flag_kept (State.wr_kept h)))

end Sys2Proof.Machine
end

