-- ==== Sys2Proof/Laws/KeptFw.lean ====
section
/-! SUPPORT. What the operations of Machine/Fw.lean keep. -/

namespace Sys2Proof.Machine

variable {a s : State}

theorem State.showImages_kept (h : Kept a s) : Kept a (State.showImages s) := by
  unfold State.showImages
  extract_lets -merge -underBinder +onlyGivenNames l1 feat2 h3
  exact State.wrs_kept h

theorem State.hostCoreStops_kept (h : Kept a s) : Kept a (State.hostCoreStops s) := by
  unfold State.hostCoreStops
  extract_lets -merge -underBinder +onlyGivenNames taken1 open'2 sets3 loads4 s5
  have hs5 : Kept a s5 := by
    unfold s5
    refine foldl_of (P := Kept a) ?_ (fun _ _ k6 => ?_)
    · exact h
    · exact State.ghSet_kept k6
  clear_value s5
  extract_lets -merge -underBinder +onlyGivenNames src7 src8 s9
  have hs9 : Kept a s9 := by
    unfold s9
    unfold src8 src7; apply Kept.keepF hs5; exact fun _ => rfl
  clear_value s9
  exact State.wuse_kept hs9

theorem State.restartCore_kept (h : Kept a s) {k cause} : Kept a (State.restartCore s k cause) := by
  unfold State.restartCore
  extract_lets -merge -underBinder +onlyGivenNames st1
  refine ite_of (P := Kept a) (fun _ => ?_) (fun _ => ?_)
  · exact h
  · extract_lets -merge -underBinder +onlyGivenNames old2 times3 src4 s5
    have hs5 : Kept a s5 := by
      unfold s5
      unfold times3 src4; apply Kept.keepF h; exact fun _ => rfl
    clear_value s5
    extract_lets -merge -underBinder +onlyGivenNames n6 failed7 s8
    have hs8 : Kept a s8 := State.wrs_kept hs5
    clear_value s8
    extract_lets -merge -underBinder +onlyGivenNames s9
    have hs9 : Kept a s9 := State.postEvent_kept (State.logEntry_kept (State.count_kept hs8))
    clear_value s9
    extract_lets -merge -underBinder +onlyGivenNames s10
    have hs10 : Kept a s10 := by
      unfold s10
      refine ite_of (P := Kept a) (fun _ => ?_) (fun _ => ?_)
      · exact State.hostCoreStops_kept hs9
      · exact hs9
    clear_value s10
    refine ite_of (P := Kept a) (fun _ => ?_) (fun _ => ?_)
    · exact State.postEvent_kept hs10
    · exact hs10

theorem execCoreWatchdogExpiry_kept (h : Kept a s) {k} : ResKept a (execCoreWatchdogExpiry k s) := by
  unfold execCoreWatchdogExpiry
  refine ResKept.next ?_
  refine ite_of (P := Kept a) (fun _ => ?_) (fun _ => ?_)
  · exact State.restartCore_kept h
  · exact h

theorem execCoreRestartWrite_kept (h : Kept a s) {k} : ResKept a (execCoreRestartWrite k s) := by
  unfold execCoreRestartWrite
  exact ResKept.next (State.restartCore_kept h)

theorem execAccessFault_kept (h : Kept a s) {k c} : ResKept a (execAccessFault k c s) := by
  unfold execAccessFault
  refine ResKept.next ?_
  extract_lets -merge -underBinder +onlyGivenNames s1
  have hs1 : Kept a s1 := by
    unfold s1
    split
    · exact h
    · exact State.flag_kept (State.bump_kept h)
    · exact State.addrError_kept h
  clear_value s1
  exact State.restartCore_kept (State.flag_kept (State.bump_kept hs1))

theorem execWatchdogKick_kept (h : Kept a s) {k} : ResKept a (execWatchdogKick k s) := by
  unfold execWatchdogKick
  refine ResKept.next ?_
  apply Kept.keepF h; exact fun _ => rfl

theorem State.coreDone_kept (h : Kept a s) {k} : Kept a (State.coreDone s k) := by
  unfold State.coreDone
  refine ite_of (P := Kept a) (fun _ => ?_) (fun _ => ?_)
  · exact h
  · extract_lets -merge -underBinder +onlyGivenNames src1 s2
    have hs2 : Kept a s2 := by
      unfold s2
      unfold src1; apply Kept.keepF h; exact fun _ => rfl
    clear_value s2
    extract_lets -merge -underBinder +onlyGivenNames s3
    have hs3 : Kept a s3 := State.wr_kept hs2
    clear_value s3
    refine ite_of (P := Kept a) (fun _ => ?_) (fun _ => ?_)
    · extract_lets -merge -underBinder +onlyGivenNames l4 src5 s6
      have hs6 : Kept a s6 := by
        unfold s6
        unfold src5; apply Kept.keepF hs3; exact fun _ => rfl
      clear_value s6
      refine foldl_of (P := Kept a) ?_ (fun _ _ k7 => ?_)
      · exact hs6
      · exact State.complete_kept k7
    · refine ite_of (P := Kept a) (fun _ => ?_) (fun _ => ?_)
      · apply Kept.keepF hs3; exact fun _ => rfl
      · refine ite_of (P := Kept a) (fun _ => ?_) (fun _ => ?_)
        · refine State.leaveBypass_kept ?_
          apply Kept.keepF hs3; exact fun _ => rfl
        · exact hs3

theorem execCoreRestartDone_kept (h : Kept a s) {k} : ResKept a (execCoreRestartDone k s) := by
  unfold execCoreRestartDone
  exact ResKept.next (State.coreDone_kept h)

theorem State.fwLoad_kept (h : Kept a s) {w} : Kept a (State.fwLoad s w) := by
  unfold State.fwLoad
  extract_lets -merge -underBinder +onlyGivenNames s1
  have hs1 : Kept a s1 := State.wr_kept h
  clear_value s1
  refine ite_of (P := Kept a) (fun _ => ?_) (fun _ => ?_)
  · exact hs1
  · extract_lets -merge -underBinder +onlyGivenNames k2 a3 len4 n5 s6
    have hs6 : Kept a s6 := State.spaceErr_kept hs1
    clear_value s6
    extract_lets -merge -underBinder +onlyGivenNames s7
    have hs7 : Kept a s7 := by
      unfold s7
      refine ite_of (P := Kept a) (fun _ => ?_) (fun _ => ?_)
      · exact State.dramRead_kept hs6
      · exact hs6
    clear_value s7
    extract_lets -merge -underBinder +onlyGivenNames b8 st9 s10
    have hs10 : Kept a s10 := State.wr_kept hs7
    clear_value s10
    refine ite_of (P := Kept a) (fun _ => ?_) (fun _ => ?_)
    · exact hs10
    · extract_lets -merge -underBinder +onlyGivenNames src11 s12
      have hs12 : Kept a s12 := by
        unfold s12
        refine State.showImages_kept ?_
        unfold src11; apply Kept.keepF hs10; exact fun _ => rfl
      clear_value s12
      refine ite_of (P := Kept a) (fun _ => ?_) (fun _ => ?_)
      · extract_lets -merge -underBinder +onlyGivenNames src13 s14
        have hs14 : Kept a s14 := by
          unfold s14
          unfold src13; apply Kept.keepF hs12; exact fun _ => rfl
        clear_value s14
        exact State.wr_kept hs14
      · exact State.restartCore_kept hs12

theorem execFwLoad_kept (h : Kept a s) {w} : ResKept a (execFwLoad w s) := by
  unfold execFwLoad
  exact ResKept.next (State.fwLoad_kept h)

theorem State.negotiated_kept (h : Kept a s) {agreed} : Kept a (State.negotiated s agreed) := by
  unfold State.negotiated
  split
  · refine State.wrs_kept ?_
    apply Kept.keepF h; exact fun _ => rfl
  · exact State.wrs_kept h

theorem State.negotiate_kept (h : Kept a s) {w} : Kept a (State.negotiate s w) := by
  unfold State.negotiate
  extract_lets -merge -underBinder +onlyGivenNames s1
  have hs1 : Kept a s1 := State.wrs_kept h
  clear_value s1
  refine ite_of (P := Kept a) (fun _ => ?_) (fun _ => ?_)
  · exact hs1
  · extract_lets -merge -underBinder +onlyGivenNames mode2 maj3 min4
    refine ite_of (P := Kept a) (fun _ => ?_) (fun _ => ?_)
    · exact State.wr_kept hs1
    · refine ite_of (P := Kept a) (fun _ => ?_) (fun _ => ?_)
      · extract_lets -merge -underBinder +onlyGivenNames f5 use6 ok7
        refine State.negotiated_kept ?_
        unfold ok7; apply Kept.keepF hs1; exact fun _ => rfl
      · extract_lets -merge -underBinder +onlyGivenNames src8 s9
        have hs9 : Kept a s9 := by
          unfold s9
          refine ite_of (P := Kept a) (fun _ => ?_) (fun _ => ?_)
          · unfold src8; apply Kept.keepF hs1; exact fun _ => rfl
          · exact hs1
        clear_value s9
        exact State.negotiated_kept hs9

theorem execNegotiation_kept (h : Kept a s) {w} : ResKept a (execNegotiation w s) := by
  unfold execNegotiation
  exact ResKept.next (State.negotiate_kept h)

theorem State.queueOpenWrite_kept (h : Kept a s) {q w} : Kept a (State.queueOpenWrite s q w) := by
  unfold State.queueOpenWrite
  extract_lets -merge -underBinder +onlyGivenNames s1
  have hs1 : Kept a s1 := by
    unfold s1
    refine ite_of (P := Kept a) (fun _ => ?_) (fun _ => ?_)
    · exact State.wr_kept h
    · exact h
  clear_value s1
  extract_lets -merge -underBinder +onlyGivenNames s2
  have hs2 : Kept a s2 := State.wr_kept hs1
  clear_value s2
  refine ite_of (P := Kept a) (fun _ => ?_) (fun _ => ?_)
  · exact hs2
  · extract_lets -merge -underBinder +onlyGivenNames t3 s4
    have hs4 : Kept a s4 := State.wrs_kept hs2
    clear_value s4
    extract_lets -merge -underBinder +onlyGivenNames st5 s6
    have hs6 : Kept a s6 := State.wr_kept hs4
    clear_value s6
    refine ite_of (P := Kept a) (fun _ => ?_) (fun _ => ?_)
    · exact State.wr_kept hs6
    · extract_lets -merge -underBinder +onlyGivenNames old7 target8 keep9 s10
      have hs10 : Kept a s10 := State.wrs_kept hs6
      clear_value s10
      extract_lets -merge -underBinder +onlyGivenNames src11 s12
      have hs12 : Kept a s12 := by
        unfold s12
        unfold src11; apply Kept.keepF hs10; exact fun _ => rfl
      clear_value s12
      refine foldl_of (P := Kept a) ?_ (fun _ _ k13 => ?_)
      · exact hs12
      · exact State.cqWrite_kept k13

theorem execQueueOpen_kept (h : Kept a s) {q w} : ResKept a (execQueueOpen q w s) := by
  unfold execQueueOpen
  exact ResKept.next (State.queueOpenWrite_kept h)

theorem State.queueClose_kept (h : Kept a s) {q w} : Kept a (State.queueClose s q w) := by
  unfold State.queueClose
  extract_lets -merge -underBinder +onlyGivenNames s1
  have hs1 : Kept a s1 := by
    unfold s1
    refine ite_of (P := Kept a) (fun _ => ?_) (fun _ => ?_)
    · exact State.wr_kept h
    · exact h
  clear_value s1
  extract_lets -merge -underBinder +onlyGivenNames t2 s3
  have hs3 : Kept a s3 := by
    unfold s3
    refine ite_of (P := Kept a) (fun _ => ?_) (fun _ => ?_)
    · exact hs1
    · exact State.wrs_kept hs1
  clear_value s3
  exact State.wrs_kept hs3

theorem execQueueClose_kept (h : Kept a s) {q w} : ResKept a (execQueueClose q w s) := by
  unfold execQueueClose
  exact ResKept.next (State.queueClose_kept h)

theorem State.sqTail_kept (h : Kept a s) {q v} : Kept a (State.sqTail s q v) := by
  unfold State.sqTail
  extract_lets -merge -underBinder +onlyGivenNames s1
  have hs1 : Kept a s1 := State.doorbell_kept h
  clear_value s1
  extract_lets -merge -underBinder +onlyGivenNames n2 tail3 used4
  refine ite_of (P := Kept a) (fun _ => ?_) (fun _ => ?_)
  · exact hs1
  · refine ite_of (P := Kept a) (fun _ => ?_) (fun _ => ?_)
    · exact State.wr_kept hs1
    · exact State.wr_kept hs1

theorem execSqTailWrite_kept (h : Kept a s) {q v} : ResKept a (execSqTailWrite q v s) := by
  unfold execSqTailWrite
  exact ResKept.next (State.sqTail_kept h)

theorem State.sqTake_kept (h : Kept a s) {q} : Kept a (State.sqTake s q) := by
  unfold State.sqTake
  extract_lets -merge -underBinder +onlyGivenNames head1 sched2
  refine ite_of (P := Kept a) (fun _ => ?_) (fun _ => ?_)
  · exact h
  · extract_lets -merge -underBinder +onlyGivenNames e3 s4
    have hs4 : Kept a s4 := State.wr_kept h
    clear_value s4
    extract_lets -merge -underBinder +onlyGivenNames x5 x6 src7 s8
    have hs8 : Kept a s8 := by
      unfold s8
      unfold src7; apply Kept.keepF hs4; exact fun _ => rfl
    clear_value s8
    refine ite_of (P := Kept a) (fun _ => ?_) (fun _ => ?_)
    · refine ite_of (P := Kept a) (fun _ => ?_) (fun _ => ?_)
      · apply Kept.keepF hs8; exact fun _ => rfl
      · exact State.answer_kept hs8
    · refine ite_of (P := Kept a) (fun _ => ?_) (fun _ => ?_)
      · apply Kept.keepF hs8; exact fun _ => rfl
      · exact State.complete_kept hs8

theorem execSqEntryTake_kept (h : Kept a s) {q} : ResKept a (execSqEntryTake q s) := by
  unfold execSqEntryTake
  exact ResKept.next (State.sqTake_kept h)

theorem State.cqHead_kept (h : Kept a s) {q v} : Kept a (State.cqHead s q v) := by
  unfold State.cqHead
  extract_lets -merge -underBinder +onlyGivenNames s1
  have hs1 : Kept a s1 := State.doorbell_kept h
  clear_value s1
  extract_lets -merge -underBinder +onlyGivenNames n2 head3 adv4
  refine ite_of (P := Kept a) (fun _ => ?_) (fun _ => ?_)
  · exact hs1
  · extract_lets -merge -underBinder +onlyGivenNames x5 x6
    refine State.wr_kept ?_
    apply Kept.keepF hs1; exact fun _ => rfl

theorem execCqHeadWrite_kept (h : Kept a s) {q v} : ResKept a (execCqHeadWrite q v s) := by
  unfold execCqHeadWrite
  exact ResKept.next (State.cqHead_kept h)

theorem State.eventRing_kept (h : Kept a s) {w} : Kept a (State.eventRing s w) := by
  unfold State.eventRing
  extract_lets -merge -underBinder +onlyGivenNames s1
  have hs1 : Kept a s1 := by
    unfold s1
    refine ite_of (P := Kept a) (fun _ => ?_) (fun _ => ?_)
    · exact State.wr_kept h
    · exact h
  clear_value s1
  extract_lets -merge -underBinder +onlyGivenNames s2
  have hs2 : Kept a s2 := State.wr_kept hs1
  clear_value s2
  extract_lets -merge -underBinder +onlyGivenNames size3
  have hsize3 : ∀ y4, Kept a y4 → Kept a (size3 y4) := by
    intro y4 k5
    unfold size3
    exact State.wr_kept k5
  clear_value size3
  refine ite_of (P := Kept a) (fun _ => ?_) (fun _ => ?_)
  · refine ite_of (P := Kept a) (fun _ => ?_) (fun _ => ?_)
    · exact State.wr_kept hs2
    · exact hsize3 _ (hs2)
  · refine ite_of (P := Kept a) (fun _ => ?_) (fun _ => ?_)
    · exact hs2
    · extract_lets -merge -underBinder +onlyGivenNames s6
      have hs6 : Kept a s6 := by
        unfold s6
        exact hsize3 _ (hs2)
      clear_value s6
      extract_lets -merge -underBinder +onlyGivenNames r7
      refine ite_of (P := Kept a) (fun _ => ?_) (fun _ => ?_)
      · exact State.wr_kept hs6
      · exact State.wrs_kept hs6

theorem execEventRingOpen_kept (h : Kept a s) {w} : ResKept a (execEventRingOpen w s) := by
  unfold execEventRingOpen
  exact ResKept.next (State.eventRing_kept h)

theorem State.eventHead_kept (h : Kept a s) {v} : Kept a (State.eventHead s v) := by
  unfold State.eventHead
  extract_lets -merge -underBinder +onlyGivenNames s1
  have hs1 : Kept a s1 := State.doorbell_kept h
  clear_value s1
  refine ite_of (P := Kept a) (fun _ => ?_) (fun _ => ?_)
  · exact State.wr_kept hs1
  · exact hs1

theorem execEventHeadWrite_kept (h : Kept a s) {v} : ResKept a (execEventHeadWrite v s) := by
  unfold execEventHeadWrite
  exact ResKept.next (State.eventHead_kept h)

end Sys2Proof.Machine
end

