-- ==== Sys2Proof/Laws/KeptMsg.lean ====
section
/-! SUPPORT. What the operations of Machine/Msg.lean keep. -/

namespace Sys2Proof.Machine

variable {a s : State}

theorem State.setAlert_kept (h : Kept a s) {on} : Kept a (State.setAlert s on) := by
  unfold State.setAlert
  refine ite_of (P := Kept a) (fun _ => ?_) (fun _ => ?_)
  · exact h
  · refine State.emit_kept ?_
    apply Kept.keepF h; exact fun _ => rfl

theorem State.showAlert_kept (h : Kept a s) : Kept a (State.showAlert s) := by
  unfold State.showAlert
  exact State.setAlert_kept h

theorem State.mbxPut_kept (h : Kept a s) {r} : Kept a (State.mbxPut s r) := by
  unfold State.mbxPut
  refine foldl_of (P := Kept a) ?_ (fun _ _ k1 => ?_)
  · exact h
  · exact State.wr_kept k1

theorem State.putReply_kept (h : Kept a s) {q r} : Kept a (State.putReply s q r) := by
  unfold State.putReply
  refine ite_of (P := Kept a) (fun _ => ?_) (fun _ => ?_)
  · exact State.sendFrame_kept h
  · refine ite_of (P := Kept a) (fun _ => ?_) (fun _ => ?_)
    · exact State.emit_kept h
    · refine ite_of (P := Kept a) (fun _ => ?_) (fun _ => ?_)
      · extract_lets -merge -underBinder +onlyGivenNames s1
        have hs1 : Kept a s1 := State.wrs_kept (State.mbxPut_kept h)
        clear_value s1
        refine ite_of (P := Kept a) (fun _ => ?_) (fun _ => ?_)
        · exact State.raise_kept hs1
        · exact hs1
      · refine State.showAlert_kept ?_
        apply Kept.keepF h; exact fun _ => rfl

theorem State.sendReply_kept (h : Kept a s) {q r} : Kept a (State.sendReply s q r) := by
  unfold State.sendReply
  extract_lets -merge -underBinder +onlyGivenNames mine1 rest2 new3 src4 s5
  have hs5 : Kept a s5 := by
    unfold s5
    unfold rest2 mine1 new3 src4; apply Kept.keepF h; exact fun _ => rfl
  clear_value s5
  exact State.putReply_kept hs5

theorem State.badMessage_kept (h : Kept a s) {iface} : Kept a (State.badMessage s iface) := by
  unfold State.badMessage
  extract_lets -merge -underBinder +onlyGivenNames src1 s2
  have hs2 : Kept a s2 := by
    unfold s2
    unfold src1; apply Kept.keepF h; exact fun _ => rfl
  clear_value s2
  refine ite_of (P := Kept a) (fun _ => ?_) (fun _ => ?_)
  · exact State.wrs_kept hs2
  · exact hs2

theorem State.objReceive_kept (h : Kept a s) {q} : Kept a (State.objReceive s q) := by
  unfold State.objReceive
  refine ite_of (P := Kept a) (fun _ => ?_) (fun _ => ?_)
  · exact h
  · refine ite_of (P := Kept a) (fun _ => ?_) (fun _ => ?_)
    · exact State.badMessage_kept h
    · split
      · exact State.putReply_kept h
      · refine ite_of (P := Kept a) (fun _ => ?_) (fun _ => ?_)
        · refine ite_of (P := Kept a) (fun _ => ?_) (fun _ => ?_)
          · apply Kept.keepF h; exact fun _ => rfl
          · refine ite_of (P := Kept a) (fun _ => ?_) (fun _ => ?_)
            · exact State.wrs_kept h
            · apply Kept.keepF h; exact fun _ => rfl
        · refine ite_of (P := Kept a) (fun _ => ?_) (fun _ => ?_)
          · exact State.sendReply_kept h
          · exact Kept.setDict h (fun _ => by rw [List.length_append]; simp only [List.length_singleton]; omega) id

theorem execTopEthernetReceive_kept (h : Kept a s) : ResKept a (execTopEthernetReceive s) := by
  unfold execTopEthernetReceive
  refine ResKept.next ?_
  split
  · have k1 := State.takeFrame_kept h (by assumption)
    exact State.objReceive_kept k1
  · exact h

theorem execTopUdpReceive_kept (h : Kept a s) : ResKept a (execTopUdpReceive s) := by
  unfold execTopUdpReceive
  refine ResKept.next ?_
  split
  · have k1 := State.takeFrame_kept h (by assumption)
    split
    · exact State.objReceive_kept k1
    · exact k1
  · exact h

theorem execArpRequest_kept (h : Kept a s) : ResKept a (execArpRequest s) := by
  unfold execArpRequest
  refine ResKept.next ?_
  split
  · have k1 := State.takeFrame_kept h (by assumption)
    extract_lets -merge -underBinder +onlyGivenNames b2
    refine ite_of (P := Kept a) (fun _ => ?_) (fun _ => ?_)
    · exact k1
    · exact State.sendFrame_kept k1
  · exact h

theorem State.mbxGo_kept (h : Kept a s) {w} : Kept a (State.mbxGo s w) := by
  unfold State.mbxGo
  extract_lets -merge -underBinder +onlyGivenNames s1
  have hs1 : Kept a s1 := State.wr_kept h
  clear_value s1
  refine ite_of (P := Kept a) (fun _ => ?_) (fun _ => ?_)
  · exact hs1
  · refine ite_of (P := Kept a) (fun _ => ?_) (fun _ => ?_)
    · exact State.wr_kept hs1
    · refine ite_of (P := Kept a) (fun _ => ?_) (fun _ => ?_)
      · exact State.wr_kept hs1
      · extract_lets -merge -underBinder +onlyGivenNames all2
        exact State.objReceive_kept (State.wr_kept hs1)

theorem execMbxGo_kept (h : Kept a s) {w} : ResKept a (execMbxGo w s) := by
  unfold execMbxGo
  exact ResKept.next (State.mbxGo_kept h)

theorem execSmbusBlockWrite_kept (h : Kept a s) {b pec} : ResKept a (execSmbusBlockWrite b pec s) := by
  unfold execSmbusBlockWrite
  refine ResKept.next ?_
  refine ite_of (P := Kept a) (fun _ => ?_) (fun _ => ?_)
  · exact h
  · refine ite_of (P := Kept a) (fun _ => ?_) (fun _ => ?_)
    · apply Kept.keepF h; exact fun _ => rfl
    · exact State.objReceive_kept h

theorem execSmbusBlockRead_kept (h : Kept a s) : ResKept a (execSmbusBlockRead s) := by
  unfold execSmbusBlockRead
  refine ResKept.next ?_
  refine ite_of (P := Kept a) (fun _ => ?_) (fun _ => ?_)
  · exact h
  · extract_lets -merge -underBinder +onlyGivenNames r1
    refine State.showAlert_kept ?_
    unfold r1; apply Kept.keepF h; exact fun _ => rfl

theorem execSmbusAlertResponse_kept (h : Kept a s) : ResKept a (execSmbusAlertResponse s) := by
  unfold execSmbusAlertResponse
  refine ResKept.next ?_
  refine ite_of (P := Kept a) (fun _ => ?_) (fun _ => ?_)
  · refine State.showAlert_kept ?_
    apply Kept.keepF h; exact fun _ => rfl
  · exact h

end Sys2Proof.Machine
end

