-- ==== Sys2Proof/Laws/KeptEflash.lean ====
section
/-! SUPPORT. What the operations of Machine/Eflash.lean keep. -/

namespace Sys2Proof.Machine

variable {a s : State}

theorem State.showEf_kept (h : Kept a s) : Kept a (State.showEf s) := by
  unfold State.showEf
  exact State.wrs_kept h

theorem State.optWrite_kept (h : Kept a s) {r} : Kept a (State.optWrite s r) := by
  unfold State.optWrite
  refine State.showEf_kept ?_
  extract_lets -merge -underBinder +onlyGivenNames src1
  have hsrc1 : Kept a src1 := State.codeWritten_kept h
  clear_value src1
  apply Kept.keepF hsrc1; exact fun _ => rfl

theorem State.bootRom_kept (h : Kept a s) : Kept a (State.bootRom s) := by
  unfold State.bootRom
  extract_lets -merge -underBinder +onlyGivenNames k1 other2 lost3 start4
  have hstart4 : ∀ y5, Kept a (start4 y5) := by
    intro y5
    unfold start4
    refine State.optWrite_kept ?_
    apply Kept.keepF h; exact fun _ => rfl
  clear_value start4
  refine ite_of (P := Kept a) (fun _ => ?_) (fun _ => ?_)
  · unfold k1; apply Kept.keepF h; exact fun _ => rfl
  · refine ite_of (P := Kept a) (fun _ => ?_) (fun _ => ?_)
    · exact hstart4 _
    · refine ite_of (P := Kept a) (fun _ => ?_) (fun _ => ?_)
      · exact hstart4 _
      · refine State.alertEvent_kept ?_
        apply Kept.keepF h; exact fun _ => rfl

theorem State.dropRequests_kept (h : Kept a s) : Kept a (State.dropRequests s) := by
  unfold State.dropRequests
  extract_lets -merge -underBinder +onlyGivenNames open'1 src2 s3
  have hs3 : Kept a s3 := by
    unfold s3
    exact Kept.keep (s := { s with dict := { s.dict with queue := [] } }) (Kept.setDict h (fun _ => Nat.zero_le _) id) rfl
  clear_value s3
  split
  · exact State.putReply_kept hs3
  · exact hs3

theorem State.restartLighthouse_kept (h : Kept a s) : Kept a (State.restartLighthouse s) := by
  unfold State.restartLighthouse
  extract_lets -merge -underBinder +onlyGivenNames src1 s2
  have hs2 : Kept a s2 := by
    unfold s2
    unfold src1; apply Kept.keepF h; exact fun _ => rfl
  clear_value s2
  exact State.showEf_kept (State.wr_kept (State.bootRom_kept (State.dropRequests_kept hs2)))

theorem State.lighthouseAsked_kept (h : Kept a s) : Kept a (State.lighthouseAsked s) := by
  unfold State.lighthouseAsked
  refine ite_of (P := Kept a) (fun _ => ?_) (fun _ => ?_)
  · apply Kept.keepF h; exact fun _ => rfl
  · exact State.restartLighthouse_kept h

theorem execLighthouseWatchdogExpiry_kept (h : Kept a s) : ResKept a (execLighthouseWatchdogExpiry s) := by
  unfold execLighthouseWatchdogExpiry
  refine ResKept.next ?_
  refine ite_of (P := Kept a) (fun _ => ?_) (fun _ => ?_)
  · exact State.lighthouseAsked_kept h
  · exact h

theorem execLighthouseConfirm_kept (h : Kept a s) : ResKept a (execLighthouseConfirm s) := by
  unfold execLighthouseConfirm
  refine ResKept.next ?_
  refine ite_of (P := Kept a) (fun _ => ?_) (fun _ => ?_)
  · exact h
  · extract_lets -merge -underBinder +onlyGivenNames src1 src2 s3
    have hs3 : Kept a s3 := by
      unfold s3
      exact Kept.keep (Kept.setFac (l := { src1 with rollLh := max s.fac.rollLh (s.ef.slot s.ef.opt.slot).rollback }) h
        ⟨rfl, rfl, id, Nat.le_max_left _ _⟩) rfl
    clear_value s3
    exact State.optWrite_kept hs3

theorem State.updDone_kept (h : Kept a s) {status} : Kept a (State.updDone s status) := by
  unfold State.updDone
  refine State.showEf_kept ?_
  refine State.wrs_kept ?_
  apply Kept.keepF h; exact fun _ => rfl

theorem State.updBusy_kept (h : Kept a s) {op} : Kept a (State.updBusy s op) := by
  unfold State.updBusy
  refine State.showEf_kept ?_
  refine State.wr_kept ?_
  extract_lets -merge -underBinder +onlyGivenNames src1
  have hsrc1 : Kept a src1 := State.codeWritten_kept h
  clear_value src1
  apply Kept.keepF hsrc1; exact fun _ => rfl

theorem State.updStart_kept (h : Kept a s) : Kept a (State.updStart s) := by
  unfold State.updStart
  refine ite_of (P := Kept a) (fun _ => ?_) (fun _ => ?_)
  · exact h
  · refine ite_of (P := Kept a) (fun _ => ?_) (fun _ => ?_)
    · exact State.updDone_kept h
    · extract_lets -merge -underBinder +onlyGivenNames k1 src2 s3
      have hs3 : Kept a s3 := by
        unfold s3
        unfold src2; apply Kept.keepF h; exact fun _ => rfl
      clear_value s3
      exact State.updBusy_kept hs3

theorem execUpdStart_kept (h : Kept a s) : ResKept a (execUpdStart s) := by
  unfold execUpdStart
  exact ResKept.next (State.updStart_kept h)

theorem State.updChunk_kept (h : Kept a s) {i} : Kept a (State.updChunk s i) := by
  unfold State.updChunk
  refine ite_of (P := Kept a) (fun _ => ?_) (fun _ => ?_)
  · exact h
  · refine ite_of (P := Kept a) (fun _ => ?_) (fun _ => ?_)
    · exact State.updDone_kept h
    · exact State.updBusy_kept h

theorem execUpdChunk_kept (h : Kept a s) {i} : ResKept a (execUpdChunk i s) := by
  unfold execUpdChunk
  exact ResKept.next (State.updChunk_kept (State.wr_kept h))

theorem State.updCommit_kept (h : Kept a s) : Kept a (State.updCommit s) := by
  unfold State.updCommit
  refine ite_of (P := Kept a) (fun _ => ?_) (fun _ => ?_)
  · exact h
  · extract_lets -merge -underBinder +onlyGivenNames k1 st2
    refine ite_of (P := Kept a) (fun _ => ?_) (fun _ => ?_)
    · exact State.updDone_kept h
    · exact State.updBusy_kept h

theorem execUpdCommit_kept (h : Kept a s) : ResKept a (execUpdCommit s) := by
  unfold execUpdCommit
  exact ResKept.next (State.updCommit_kept h)

theorem State.updAbort_kept (h : Kept a s) : Kept a (State.updAbort s) := by
  unfold State.updAbort
  refine ite_of (P := Kept a) (fun _ => ?_) (fun _ => ?_)
  · exact h
  · extract_lets -merge -underBinder +onlyGivenNames src1 s2
    have hs2 : Kept a s2 := by
      unfold s2
      unfold src1; apply Kept.keepF h; exact fun _ => rfl
    clear_value s2
    refine ite_of (P := Kept a) (fun _ => ?_) (fun _ => ?_)
    · exact hs2
    · exact State.updDone_kept hs2

theorem execUpdAbort_kept (h : Kept a s) : ResKept a (execUpdAbort s) := by
  unfold execUpdAbort
  exact ResKept.next (State.updAbort_kept h)

theorem execUpdActivate_kept (h : Kept a s) : ResKept a (execUpdActivate s) := by
  unfold execUpdActivate
  refine ResKept.next ?_
  refine ite_of (P := Kept a) (fun _ => ?_) (fun _ => ?_)
  · exact State.lighthouseAsked_kept h
  · exact h

theorem State.eraseNext_kept (h : Kept a s) {sector} : Kept a (State.eraseNext s sector) := by
  unfold State.eraseNext
  refine ite_of (P := Kept a) (fun _ => ?_) (fun _ => ?_)
  · exact State.updDone_kept h
  · apply Kept.keepF h; exact fun _ => rfl

theorem State.codeDone_kept (h : Kept a s) {ok} : Kept a (State.codeDone s ok) := by
  unfold State.codeDone
  split
  · exact h
  · extract_lets -merge -underBinder +onlyGivenNames s1
    have hs1 : Kept a s1 := State.countErase_kept h
    clear_value s1
    refine ite_of (P := Kept a) (fun _ => ?_) (fun _ => ?_)
    · exact State.eraseNext_kept hs1
    · extract_lets -merge -underBinder +onlyGivenNames r2
      have hr2 : Kept a r2.2 := State.retireSector_kept hs1
      clear_value r2
      refine ite_of (P := Kept a) (fun _ => ?_) (fun _ => ?_)
      · exact State.eraseNext_kept hr2
      · refine State.updDone_kept ?_
        extract_lets -merge -underBinder +onlyGivenNames src3
        have hsrc3 : Kept a src3 := hr2
        exact Kept.keep (hsrc3) rfl
  · extract_lets -merge -underBinder +onlyGivenNames k4 r5
    have hr5 : Kept a r5.2 := by
      unfold r5
      refine ite_of (P := fun r => Kept a (Prod.snd r)) (fun _ => ?_) (fun _ => ?_)
      · exact snd_mk (P := Kept a) (h)
      · exact State.retireSector_kept h
    clear_value r5
    extract_lets -merge -underBinder +onlyGivenNames s6
    have hs6 : Kept a s6 := hr5
    clear_value s6
    extract_lets -merge -underBinder +onlyGivenNames x7
    refine ite_of (P := Kept a) (fun _ => ?_) (fun _ => ?_)
    · refine State.updDone_kept ?_
      unfold x7; apply Kept.keepF hs6; exact fun _ => rfl
    · refine State.updDone_kept ?_
      apply Kept.keepF hs6; exact fun _ => rfl
  · extract_lets -merge -underBinder +onlyGivenNames n8 q9
    have hq9 : Kept a q9.2 := by
      unfold q9
      refine ite_of (P := fun r => Kept a (Prod.snd r)) (fun _ => ?_) (fun _ => ?_)
      · exact snd_mk (P := Kept a) (h)
      · exact State.retireSector_kept h
    clear_value q9
    extract_lets -merge -underBinder +onlyGivenNames s10
    have hs10 : Kept a s10 := hq9
    clear_value s10
    refine ite_of (P := Kept a) (fun _ => ?_) (fun _ => ?_)
    · refine State.updDone_kept ?_
      refine State.optWrite_kept ?_
      apply Kept.keepF hs10; exact fun _ => rfl
    · exact State.updDone_kept hs10

theorem State.efLine_kept (h : Kept a s) {code l} : Kept a (State.efLine s code l).2 := by
  unfold State.efLine
  extract_lets -merge -underBinder +onlyGivenNames retry1
  split
  · exact snd_mk (P := Kept a) (h)
  · exact snd_mk (P := Kept a) (State.bump_kept h)
  · refine ite_of (P := fun r => Kept a (Prod.snd r)) (fun _ => ?_) (fun _ => ?_)
    · exact snd_mk (P := Kept a) (State.bump_kept h)
    · exact snd_mk (P := Kept a) (h)
  · refine ite_of (P := fun r => Kept a (Prod.snd r)) (fun _ => ?_) (fun _ => ?_)
    · exact snd_mk (P := Kept a) (State.bump_kept h)
    · exact snd_mk (P := Kept a) (h)
  · refine snd_mk (P := Kept a) ?_
    refine ite_of (P := Kept a) (fun _ => ?_) (fun _ => ?_)
    · exact State.bump_kept h
    · exact h

theorem State.recordBad_kept (h : Kept a s) {index sub second} : Kept a (State.recordBad s index sub second) := by
  unfold State.recordBad
  extract_lets -merge -underBinder +onlyGivenNames hit1
  apply Kept.keepF h; exact fun _ => rfl

theorem State.keysBad_kept (h : Kept a s) {second} : Kept a (State.keysBad s second) := by
  unfold State.keysBad
  extract_lets -merge -underBinder +onlyGivenNames c1
  unfold c1; apply Kept.keepF h; exact fun _ => rfl

theorem State.lineExecuted_kept (h : Kept a s) {l taken} : Kept a (State.lineExecuted s l taken) := by
  unfold State.lineExecuted
  apply Kept.keepF h; exact fun _ => rfl

theorem State.efRead_kept (h : Kept a s) {r} : Kept a (State.efRead s r).2 := by
  unfold State.efRead
  split
  · extract_lets -merge -underBinder +onlyGivenNames x1
    have hx1 : Kept a x1.2 := by
      unfold x1
      refine ite_of (P := fun r => Kept a (Prod.snd r)) (fun _ => ?_) (fun _ => ?_)
      · exact snd_mk (P := Kept a) (h)
      · exact State.efLine_kept h
    clear_value x1
    refine ite_of (P := fun r => Kept a (Prod.snd r)) (fun _ => ?_) (fun _ => ?_)
    · exact snd_mk (P := Kept a) (State.lineExecuted_kept hx1)
    · exact snd_mk (P := Kept a) (hx1)
  · refine ite_of (P := fun r => Kept a (Prod.snd r)) (fun _ => ?_) (fun _ => ?_)
    · exact snd_mk (P := Kept a) (h)
    · extract_lets -merge -underBinder +onlyGivenNames x2
      have hx2 : Kept a x2.2 := State.efLine_kept h
      clear_value x2
      extract_lets -merge -underBinder +onlyGivenNames pf3
      refine snd_mk (P := Kept a) ?_
      refine ite_of (P := Kept a) (fun _ => ?_) (fun _ => ?_)
      · extract_lets -merge -underBinder +onlyGivenNames src4
        have hsrc4 : Kept a src4 := hx2
        exact Kept.keep (hsrc4) rfl
      · exact hx2
  · extract_lets -merge -underBinder +onlyGivenNames x5
    have hx5 : Kept a x5.2 := State.efLine_kept h
    clear_value x5
    refine snd_mk (P := Kept a) ?_
    refine ite_of (P := Kept a) (fun _ => ?_) (fun _ => ?_)
    · exact hx5
    · exact State.recordBad_kept hx5
  · extract_lets -merge -underBinder +onlyGivenNames x6
    have hx6 : Kept a x6.2 := State.efLine_kept h
    clear_value x6
    refine snd_mk (P := Kept a) ?_
    refine ite_of (P := Kept a) (fun _ => ?_) (fun _ => ?_)
    · exact hx6
    · exact State.keysBad_kept hx6
  · exact snd_mk (P := Kept a) (State.efLine_kept h)

theorem State.efReads_kept {s : State} (h : Kept a s) {ax} : Kept a (State.efReads s ax).2 := by
  unfold State.efReads
  split
  · exact snd_mk (P := Kept a) (h)
  · extract_lets -merge -underBinder +onlyGivenNames x1
    have hx1 : Kept a x1.2 := State.efRead_kept h
    clear_value x1
    refine ite_of (P := fun r => Kept a (Prod.snd r)) (fun _ => ?_) (fun _ => ?_)
    · exact hx1
    · exact State.efReads_kept hx1

theorem State.recoveryBlock_kept (h : Kept a s) {b} : Kept a (State.recoveryBlock s b) := by
  unfold State.recoveryBlock
  extract_lets -merge -underBinder +onlyGivenNames chunk1 k2 bad3
  have hbad3 : ∀ y4, Kept a y4 → Kept a (bad3 y4) := by
    intro y4 k5
    unfold bad3
    apply Kept.keepF k5; exact fun _ => rfl
  clear_value bad3
  refine ite_of (P := Kept a) (fun _ => ?_) (fun _ => ?_)
  · exact h
  · refine ite_of (P := Kept a) (fun _ => ?_) (fun _ => ?_)
    · exact hbad3 _ (h)
    · extract_lets -merge -underBinder +onlyGivenNames blocks6 src7 s8
      have hs8 : Kept a s8 := by
        unfold s8
        unfold blocks6 src7; apply Kept.keepF h; exact fun _ => rfl
      clear_value s8
      refine ite_of (P := Kept a) (fun _ => ?_) (fun _ => ?_)
      · exact hs8
      · extract_lets -merge -underBinder +onlyGivenNames data9 slot10 img11 s12
        have hs12 : Kept a s12 := State.countErase_kept (State.codeWritten_kept hs8)
        clear_value s12
        apply Kept.keepF hs12; exact fun _ => rfl

theorem execRecoveryBlock_kept (h : Kept a s) {b} : ResKept a (execRecoveryBlock b s) := by
  unfold execRecoveryBlock
  exact ResKept.next (State.recoveryBlock_kept h)

theorem execRecoveryCommit_kept (h : Kept a s) : ResKept a (execRecoveryCommit s) := by
  unfold execRecoveryCommit
  refine ResKept.next ?_
  refine ite_of (P := Kept a) (fun _ => ?_) (fun _ => ?_)
  · exact h
  · extract_lets -merge -underBinder +onlyGivenNames k1 st2 src3 s4
    have hs4 : Kept a s4 := by
      unfold s4
      unfold st2 src3; apply Kept.keepF h; exact fun _ => rfl
    clear_value s4
    refine ite_of (P := Kept a) (fun _ => ?_) (fun _ => ?_)
    · refine State.optWrite_kept ?_
      apply Kept.keepF hs4; exact fun _ => rfl
    · exact hs4

theorem execRecoveryStatus_kept (h : Kept a s) : ResKept a (execRecoveryStatus s) := by
  unfold execRecoveryStatus
  refine ResKept.next ?_
  refine ite_of (P := Kept a) (fun _ => ?_) (fun _ => ?_)
  · exact h
  · apply Kept.keepF h; exact fun _ => rfl

end Sys2Proof.Machine
end

