-- ==== Sys2Proof/Laws/KeptStartup.lean ====
section
/-! SUPPORT. What the operations of Machine/Startup.lean keep. -/

namespace Sys2Proof.Machine

variable {a s : State}

theorem State.computeLost_kept (h : Kept a s) {seg} : Kept a (State.computeLost s seg) := by
  unfold State.computeLost
  exact h.upd rfl rfl fun ⟨⟨x1, x2, x3, x4, _⟩, _, y2, _, y4⟩ =>
    ⟨⟨KMap.sorted_filter _ _ x1, KMap.canonical_filter _ _ _ x2, x3, KMap.canonical_filter _ _ _ x4, KMap.canonical_nil _,
      KMap.canonical_nil _, KMap.canonical_nil _⟩, Nat.zero_le _, Nat.le_trans (List.length_filter_le _ _) y2,
      Nat.zero_le _, y4⟩

theorem State.chooseRecs_kept (h : Kept a s) : Kept a (State.chooseRecs s) := by
  unfold State.chooseRecs
  extract_lets -merge -underBinder +onlyGivenNames all1 first2
  unfold all1; apply Kept.keepF h; exact fun _ => rfl

theorem State.restoreVals_kept (h : Kept a s) : Kept a (State.restoreVals s) := by
  unfold State.restoreVals
  apply Kept.keepF h; exact fun _ => rfl

theorem State.controlLost_kept (h : Kept a s) : Kept a (State.controlLost s) := by
  unfold State.controlLost
  extract_lets -merge -underBinder +onlyGivenNames s1
  have hs1 : Kept a s1 := State.computeLost_kept h
  clear_value s1
  extract_lets -merge -underBinder +onlyGivenNames src2 s3
  have hs3 : Kept a s3 := by
    unfold s3
    exact hs1.upd rfl rfl fun ⟨⟨x1, x⟩, y1, _, _, y4⟩ =>
      ⟨⟨KMap.sorted_filter _ _ x1, x⟩, y1, Nat.zero_le _, Nat.zero_le _, y4⟩
  clear_value s3
  exact State.restoreVals_kept hs3

theorem State.startFailed_kept (h : Kept a s) {ph} : Kept a (State.startFailed s ph) := by
  unfold State.startFailed
  exact State.alertEvent_kept (State.wrs_kept h)

theorem State.pprRun_kept (h : Kept a s) {bad} : Kept a (State.pprRun s bad) := by
  unfold State.pprRun
  extract_lets -merge -underBinder +onlyGivenNames l1 r2
  have hr2 : Kept a r2.2.2 := by
    unfold r2
    refine foldl_of (P := fun r => Kept a (Prod.snd (Prod.snd r))) ?_ (fun _ _ k3 => ?_)
    · exact snd_mk (P := fun r => Kept a (Prod.snd r)) (snd_mk (P := Kept a) (h))
    · extract_lets -merge -underBinder +onlyGivenNames d4 b5
      refine ite_of (P := fun r => Kept a (Prod.snd (Prod.snd r))) (fun _ => ?_) (fun _ => ?_)
      · exact snd_mk (P := fun r => Kept a (Prod.snd r)) (snd_mk (P := Kept a) (k3))
      · refine ite_of (P := fun r => Kept a (Prod.snd (Prod.snd r))) (fun _ => ?_) (fun _ => ?_)
        · exact snd_mk (P := fun r => Kept a (Prod.snd r)) (snd_mk (P := Kept a) (State.elogAt_kept k3))
        · exact snd_mk (P := fun r => Kept a (Prod.snd r)) (snd_mk (P := Kept a) (State.elogAt_kept k3))
  clear_value r2
  refine ite_of (P := Kept a) (fun _ => ?_) (fun _ => ?_)
  · exact hr2
  · exact State.persist_kept hr2

theorem State.startCompute_kept (h : Kept a s) {fast train bad} : Kept a (State.startCompute s fast train bad) := by
  unfold State.startCompute
  extract_lets -merge -underBinder +onlyGivenNames src1 s2
  have hs2 : Kept a s2 := by
    unfold s2
    unfold src1; apply Kept.keepF h; exact fun _ => rfl
  clear_value s2
  extract_lets -merge -underBinder +onlyGivenNames fast3 s4
  have hs4 : Kept a s4 := State.wrs_kept hs2
  clear_value s4
  extract_lets -merge -underBinder +onlyGivenNames s5
  have hs5 : Kept a s5 := State.showEf_kept (State.rederive_kept hs4)
  clear_value s5
  refine ite_of (P := Kept a) (fun _ => ?_) (fun _ => ?_)
  · extract_lets -merge -underBinder +onlyGivenNames s6
    have hs6 : Kept a s6 := State.elogAt_kept (State.wrs_kept hs5)
    clear_value s6
    exact State.startFailed_kept (State.logEntry_kept hs6)
  · extract_lets -merge -underBinder +onlyGivenNames s7
    have hs7 : Kept a s7 := by
      unfold s7
      refine ite_of (P := Kept a) (fun _ => ?_) (fun _ => ?_)
      · exact State.pprRun_kept hs5
      · exact hs5
    clear_value s7
    extract_lets -merge -underBinder +onlyGivenNames src8 s9
    have hs9 : Kept a s9 := by
      unfold s9
      unfold src8; apply Kept.keepF hs7; exact fun _ => rfl
    clear_value s9
    exact State.wrs_kept hs9

theorem State.setTherm_kept (h : Kept a s) {on} : Kept a (State.setTherm s on) := by
  unfold State.setTherm
  refine ite_of (P := Kept a) (fun _ => ?_) (fun _ => ?_)
  · exact h
  · refine State.flag_kept ?_
    refine State.wr_kept ?_
    apply Kept.keepF h; exact fun _ => rfl

theorem State.eraseProtected_kept (h : Kept a s) : Kept a (State.eraseProtected s) := by
  unfold State.eraseProtected
  extract_lets -merge -underBinder +onlyGivenNames src1 src2 src3 s4
  have hs4 : Kept a s4 := by
    unfold s4
    unfold src3 src2 src1; apply Kept.keepF h; exact fun _ => rfl
  clear_value s4
  refine foldl_of (P := Kept a) ?_ (fun _ _ k5 => ?_)
  · exact State.codeWritten_kept hs4
  · exact State.countErase_kept k5

theorem State.loadControl_kept (h : Kept a s) : Kept a (State.loadControl s) := by
  unfold State.loadControl
  extract_lets -merge -underBinder +onlyGivenNames n1 src2 s3
  have hs3 : Kept a s3 := by
    unfold s3
    unfold n1 src2; apply Kept.keepF h; exact fun _ => rfl
  clear_value s3
  exact State.wrs_kept hs3

theorem State.startControl_kept (h : Kept a s) {restore train bad reads} : Kept a (State.startControl s restore train bad reads) := by
  unfold State.startControl
  extract_lets -merge -underBinder +onlyGivenNames src1 s2
  have hs2 : Kept a s2 := by
    unfold s2
    unfold src1; apply Kept.keepF h; exact fun _ => rfl
  clear_value s2
  extract_lets -merge -underBinder +onlyGivenNames s3
  have hs3 : Kept a s3 := State.setTherm_kept (State.setAlert_kept hs2)
  clear_value s3
  extract_lets -merge -underBinder +onlyGivenNames src4
  have hsrc4 : Kept a src4 := State.eraseProtected_kept hs3
  clear_value src4
  extract_lets -merge -underBinder +onlyGivenNames src5 src6 s7
  have hs7 : Kept a s7 := by
    unfold s7
    refine ite_of (P := Kept a) (fun _ => ?_) (fun _ => ?_)
    · apply Kept.keepF hsrc4; exact fun _ => rfl
    · exact hs3
  clear_value s7
  extract_lets -merge -underBinder +onlyGivenNames s8
  have hs8 : Kept a s8 := State.bootRom_kept hs7
  clear_value s8
  extract_lets -merge -underBinder +onlyGivenNames r9
  have hr9 : Kept a r9.2 := State.efReads_kept hs8
  clear_value r9
  extract_lets -merge -underBinder +onlyGivenNames s10
  have hs10 : Kept a s10 := by
    unfold s10
    refine ite_of (P := Kept a) (fun _ => ?_) (fun _ => ?_)
    · exact State.restartLighthouse_kept hr9
    · exact hr9
  clear_value s10
  extract_lets -merge -underBinder +onlyGivenNames s11
  have hs11 : Kept a s11 := State.restoreVals_kept (State.chooseRecs_kept hs10)
  clear_value s11
  refine ite_of (P := Kept a) (fun _ => ?_) (fun _ => ?_)
  · exact State.startFailed_kept (State.logEntry_kept hs11)
  · extract_lets -merge -underBinder +onlyGivenNames s12
    have hs12 : Kept a s12 := by
      unfold s12
      refine ite_of (P := Kept a) (fun _ => ?_) (fun _ => ?_)
      · refine State.restoreLife_kept ?_
        apply Kept.keepF hs11; exact fun _ => rfl
      · exact hs11
    clear_value s12
    extract_lets -merge -underBinder +onlyGivenNames s13
    have hs13 : Kept a s13 := State.showEf_kept (State.loadControl_kept hs12)
    clear_value s13
    refine ite_of (P := Kept a) (fun _ => ?_) (fun _ => ?_)
    · exact State.startCompute_kept hs13
    · exact hs13

theorem State.flushLog_kept (h : Kept a s) : Kept a (State.flushLog s) := by
  unfold State.flushLog
  extract_lets -merge -underBinder +onlyGivenNames s1
  have hs1 : Kept a s1 := State.drainLog_kept h
  clear_value s1
  exact Kept.setLog hs1 fun _ => Nat.zero_le _

theorem State.powerOn_kept (h : Kept a s) {train bad reads} : Kept a (State.powerOn s train bad reads) := by
  unfold State.powerOn
  extract_lets -merge -underBinder +onlyGivenNames s1
  have hs1 : Kept a s1 := State.controlLost_kept (State.flushLog_kept h)
  clear_value s1
  extract_lets -merge -underBinder +onlyGivenNames src2 s3
  have hs3 : Kept a s3 := by
    unfold s3
    unfold src2; apply Kept.keepF hs1; exact fun _ => rfl
  clear_value s3
  extract_lets -merge -underBinder +onlyGivenNames s4
  have hs4 : Kept a s4 := State.emit_kept hs3
  clear_value s4
  extract_lets -merge -underBinder +onlyGivenNames s5
  have hs5 : Kept a s5 := State.startControl_kept (State.wrs_kept hs4)
  clear_value s5
  refine ite_of (P := Kept a) (fun _ => ?_) (fun _ => ?_)
  · exact hs5
  · exact State.logEntry_kept (State.count_kept hs5)

theorem execPowerOnReset_kept (h : Kept a s) {train b} : ResKept a (execPowerOnReset train b s) := by
  unfold execPowerOnReset
  exact ResKept.next (State.powerOn_kept h)

theorem State.moduleReset_kept (h : Kept a s) : Kept a (State.moduleReset s) := by
  unfold State.moduleReset
  refine ite_of (P := Kept a) (fun _ => ?_) (fun _ => ?_)
  · exact h
  · extract_lets -merge -underBinder +onlyGivenNames cap1 s2
    have hs2 : Kept a s2 := State.controlLost_kept (State.flushLog_kept (State.toBypass_kept h))
    clear_value s2
    extract_lets -merge -underBinder +onlyGivenNames src3 s4
    have hs4 : Kept a s4 := by
      unfold s4
      unfold src3; apply Kept.keepF hs2; exact fun _ => rfl
    clear_value s4
    exact State.wrs_kept (State.setAlert_kept hs4)

theorem execModuleReset_kept (h : Kept a s) : ResKept a (execModuleReset s) := by
  unfold execModuleReset
  exact ResKept.next (State.moduleReset_kept h)

theorem State.moduleStart_kept (h : Kept a s) {train bad reads} : Kept a (State.moduleStart s train bad reads) := by
  unfold State.moduleStart
  refine ite_of (P := Kept a) (fun _ => ?_) (fun _ => ?_)
  · exact h
  · extract_lets -merge -underBinder +onlyGivenNames src1 s2
    have hs2 : Kept a s2 := by
      unfold s2
      refine State.startControl_kept ?_
      unfold src1; apply Kept.keepF h; exact fun _ => rfl
    clear_value s2
    refine ite_of (P := Kept a) (fun _ => ?_) (fun _ => ?_)
    · exact hs2
    · exact State.logEntry_kept (State.count_kept hs2)

theorem execMrstNRelease_kept (h : Kept a s) {train b} : ResKept a (execMrstNRelease train b s) := by
  unfold execMrstNRelease
  exact ResKept.next (State.moduleStart_kept h)

theorem State.resetCompute_kept (h : Kept a s) {row train} : Kept a (State.resetCompute s row train) := by
  unfold State.resetCompute
  extract_lets -merge -underBinder +onlyGivenNames s1
  have hs1 : Kept a s1 := by
    unfold s1
    refine ite_of (P := Kept a) (fun _ => ?_) (fun _ => ?_)
    · exact State.writeCheckpoint_kept h
    · exact h
  clear_value s1
  extract_lets -merge -underBinder +onlyGivenNames s2
  have hs2 : Kept a s2 := State.logEntry_kept (State.count_kept (State.toBypass_kept hs1))
  clear_value s2
  exact State.startCompute_kept (State.computeLost_kept hs2)

theorem State.askReset_kept (h : Kept a s) {row train} : Kept a (State.askReset s row train) := by
  unfold State.askReset
  refine ite_of (P := Kept a) (fun _ => ?_) (fun _ => ?_)
  · exact h
  · refine ite_of (P := Kept a) (fun _ => ?_) (fun _ => ?_)
    · apply Kept.keepF h; exact fun _ => rfl
    · exact State.resetCompute_kept h

theorem execWarmReset_kept (h : Kept a s) {obj w train} : ResKept a (execWarmReset obj w train s) := by
  unfold execWarmReset
  refine ResKept.next ?_
  refine ite_of (P := Kept a) (fun _ => ?_) (fun _ => ?_)
  · refine ite_of (P := Kept a) (fun _ => ?_) (fun _ => ?_)
    · refine State.askReset_kept ?_
      apply Kept.keepF h; exact fun _ => rfl
    · exact h
  · refine ite_of (P := Kept a) (fun _ => ?_) (fun _ => ?_)
    · exact State.askReset_kept h
    · exact h

theorem execComputeDieReset_kept (h : Kept a s) {train} : ResKept a (execComputeDieReset train s) := by
  unfold execComputeDieReset
  exact ResKept.next (State.askReset_kept h)

theorem State.efDone_kept (h : Kept a s) {code ok train reads} : Kept a (State.efDone s code ok train reads) := by
  unfold State.efDone
  refine ite_of (P := Kept a) (fun _ => ?_) (fun _ => ?_)
  · exact h
  · extract_lets -merge -underBinder +onlyGivenNames s1
    have hs1 : Kept a s1 := by
      unfold s1
      refine ite_of (P := Kept a) (fun _ => ?_) (fun _ => ?_)
      · exact State.codeDone_kept h
      · refine ite_of (P := Kept a) (fun _ => ?_) (fun _ => ?_)
        · exact h
        · exact State.retireSector_kept h
    clear_value s1
    extract_lets -merge -underBinder +onlyGivenNames x2
    have hx2 : Kept a x2.2 := State.efReads_kept hs1
    clear_value x2
    extract_lets -merge -underBinder +onlyGivenNames d3 src4
    have hsrc4 : Kept a src4 := hx2
    extract_lets -merge -underBinder +onlyGivenNames src5 s6
    have hs6 : Kept a s6 := by
      unfold s6
      exact Kept.keep (hsrc4) rfl
    clear_value s6
    clear_value d3
    split
    · refine ite_of (P := Kept a) (fun _ => ?_) (fun _ => ?_)
      · exact State.resetCompute_kept hs6
      · exact hs6
    · exact State.restartLighthouse_kept hs6
    · refine ite_of (P := Kept a) (fun _ => ?_) (fun _ => ?_)
      · exact State.resetCompute_kept hs6
      · exact hs6
    · exact hs6

theorem execEfOperationDone_kept (h : Kept a s) {code ok e} : ResKept a (execEfOperationDone code ok e s) := by
  unfold execEfOperationDone
  exact ResKept.next (State.efDone_kept h)

theorem State.functionReset_kept (h : Kept a s) : Kept a (State.functionReset s) := by
  unfold State.functionReset
  refine ite_of (P := Kept a) (fun _ => ?_) (fun _ => ?_)
  · exact h
  · extract_lets -merge -underBinder +onlyGivenNames src1 src2 s3
    have hs3 : Kept a s3 := by
      unfold s3
      exact h.upd rfl rfl fun ⟨⟨x1, x⟩, y1, y2, y⟩ =>
        ⟨⟨KMap.sorted_filter _ _ x1, x⟩, y1, Nat.le_trans (List.length_filter_le _ _) y2, y⟩
    clear_value s3
    extract_lets -merge -underBinder +onlyGivenNames s4
    have hs4 : Kept a s4 := by
      unfold s4
      refine foldl_of (P := Kept a) ?_ (fun _ _ k5 => ?_)
      · exact hs3
      · extract_lets -merge -underBinder +onlyGivenNames x6
        exact State.wr_kept k5
    clear_value s4
    extract_lets -merge -underBinder +onlyGivenNames s7
    have hs7 : Kept a s7 := by
      unfold s7
      refine ite_of (P := Kept a) (fun _ => ?_) (fun _ => ?_)
      · exact State.wr_kept hs4
      · exact hs4
    clear_value s7
    exact State.logEntry_kept (State.showEf_kept hs7)

theorem execFunctionLevelReset_kept (h : Kept a s) : ResKept a (execFunctionLevelReset s) := by
  unfold execFunctionLevelReset
  exact ResKept.next (State.functionReset_kept h)

end Sys2Proof.Machine
end

