-- ==== Sys2Proof/Laws/KeptService.lean ====
section
/-! SUPPORT. What the operations of Machine/Service.lean keep. -/

namespace Sys2Proof.Machine

variable {a s : State}

theorem State.applyObj_kept (h : Kept a s) {i v} : Kept a (State.applyObj s i v) := by
  unfold State.applyObj
  extract_lets -merge -underBinder +onlyGivenNames n1
  refine ite_of (P := Kept a) (fun _ => ?_) (fun _ => ?_)
  · exact State.wrs_kept h
  · refine ite_of (P := Kept a) (fun _ => ?_) (fun _ => ?_)
    · split
      · exact State.setTide_kept h
      · exact h
    · refine ite_of (P := Kept a) (fun _ => ?_) (fun _ => ?_)
      · exact State.takeFields_kept h
      · refine ite_of (P := Kept a) (fun _ => ?_) (fun _ => ?_)
        · exact State.ringForce_kept h
        · refine ite_of (P := Kept a) (fun _ => ?_) (fun _ => ?_)
          · refine State.onAes_kept ?_
            apply Kept.keepF h; exact fun _ => rfl
          · refine ite_of (P := Kept a) (fun _ => ?_) (fun _ => ?_)
            · exact State.vinPortWrite_kept h
            · refine ite_of (P := Kept a) (fun _ => ?_) (fun _ => ?_)
              · exact State.vinPortWrite_kept h
              · refine ite_of (P := Kept a) (fun _ => ?_) (fun _ => ?_)
                · exact State.takeFields_kept h
                · refine ite_of (P := Kept a) (fun _ => ?_) (fun _ => ?_)
                  · exact State.vinMux_kept h
                  · refine ite_of (P := Kept a) (fun _ => ?_) (fun _ => ?_)
                    · exact State.audClkWrite_kept h
                    · refine ite_of (P := Kept a) (fun _ => ?_) (fun _ => ?_)
                      · exact State.takeFields_kept h
                      · refine ite_of (P := Kept a) (fun _ => ?_) (fun _ => ?_)
                        · exact State.takeFields_kept h
                        · split
                          · exact State.rederive_kept (State.wr_kept h)
                          · exact h

theorem State.loadRrt_kept (h : Kept a s) : Kept a (State.loadRrt s) := by
  unfold State.loadRrt
  extract_lets -merge -underBinder +onlyGivenNames v1
  refine foldl_of (P := Kept a) ?_ (fun _ _ k2 => ?_)
  · exact h
  · exact State.wrs_kept k2

theorem State.loadHeld_kept (h : Kept a s) : Kept a (State.loadHeld s) := by
  unfold State.loadHeld
  refine State.loadRrt_kept ?_
  refine foldl_of (P := Kept a) ?_ (fun _ _ k1 => ?_)
  · exact h
  · exact State.applyObj_kept k1

theorem State.setProt_kept (h : Kept a s) {l} : Kept a (State.setProt s l) := by
  unfold State.setProt
  refine foldl_of (P := Kept a) ?_ (fun _ _ k1 => ?_)
  · exact h
  · split
    · exact State.wrs_kept k1
    · exact State.wrs_kept k1

theorem State.formProt_kept {s : State} (h : Kept a s) {ax} : Kept a (State.formProt s ax) := by
  unfold State.formProt
  split
  · exact State.setProt_kept h
  · split
    · exact State.setProt_kept h
    · exact State.formProt_kept (State.logEntry_kept h)

theorem State.formPool_kept (h : Kept a s) : Kept a (State.formPool s) := by
  unfold State.formPool
  extract_lets -merge -underBinder +onlyGivenNames s1
  have hs1 : Kept a s1 := State.formProt_kept h
  clear_value s1
  extract_lets -merge -underBinder +onlyGivenNames s2
  have hs2 : Kept a s2 := State.wrs_kept hs1
  clear_value s2
  extract_lets -merge -underBinder +onlyGivenNames src3 s4
  have hs4 : Kept a s4 := by
    unfold s4
    unfold src3; apply Kept.keepF hs2; exact fun _ => rfl
  clear_value s4
  extract_lets -merge -underBinder +onlyGivenNames s5
  have hs5 : Kept a s5 := by
    unfold s5
    refine foldl_of (P := Kept a) ?_ (fun _ _ k6 => ?_)
    · exact hs4
    · exact State.register_kept k6
  clear_value s5
  exact State.books_kept (State.wr_kept hs5)

theorem State.startNand_kept (h : Kept a s) : Kept a (State.startNand s) := by
  unfold State.startNand
  extract_lets -merge -underBinder +onlyGivenNames used1 s2
  have hs2 : Kept a s2 := State.wrs_kept h
  clear_value s2
  extract_lets -merge -underBinder +onlyGivenNames s3
  have hs3 : Kept a s3 := State.showWear_kept hs2
  clear_value s3
  refine ite_of (P := Kept a) (fun _ => ?_) (fun _ => ?_)
  · exact State.enterReadOnly_kept hs3
  · exact hs3

theorem State.loadCatalogue_kept (h : Kept a s) : Kept a (State.loadCatalogue s) := by
  unfold State.loadCatalogue
  extract_lets -merge -underBinder +onlyGivenNames gone1 s2
  have hs2 : Kept a s2 := by
    unfold s2
    refine foldl_of (P := Kept a) ?_ (fun _ _ k3 => ?_)
    · exact h
    · refine ite_of (P := Kept a) (fun _ => ?_) (fun _ => ?_)
      · exact State.dropModel_kept k3
      · exact k3
  clear_value s2
  refine State.books_kept ?_
  refine foldl_of (P := Kept a) ?_ (fun _ _ k4 => ?_)
  · exact hs2
  · exact State.register_kept k4

theorem State.retireListed_kept (h : Kept a s) : Kept a (State.retireListed s) := by
  unfold State.retireListed
  refine foldl_of (P := Kept a) ?_ (fun _ _ k1 => ?_)
  · exact h
  · refine foldl_of (P := Kept a) ?_ (fun _ _ k2 => ?_)
    · exact k1
    · exact State.retirePage_kept k2

theorem State.applyRepairs_kept (h : Kept a s) : Kept a (State.applyRepairs s) := by
  unfold State.applyRepairs
  extract_lets -merge -underBinder +onlyGivenNames v1
  refine foldl_of (P := Kept a) ?_ (fun _ _ k2 => ?_)
  · exact h
  · extract_lets -merge -underBinder +onlyGivenNames t3 p4
    refine ite_of (P := Kept a) (fun _ => ?_) (fun _ => ?_)
    · exact State.arrayRepair_kept k2
    · exact k2

theorem State.applyMaps_kept (h : Kept a s) : Kept a (State.applyMaps s) := by
  unfold State.applyMaps
  extract_lets -merge -underBinder +onlyGivenNames v1
  refine foldl_of (P := Kept a) ?_ (fun _ _ k2 => ?_)
  · exact h
  · extract_lets -merge -underBinder +onlyGivenNames t3 p4 m5 bank6 spare7 index8
    refine ite_of (P := Kept a) (fun _ => ?_) (fun _ => ?_)
    · apply Kept.keepF k2; exact fun _ => rfl
    · refine ite_of (P := Kept a) (fun _ => ?_) (fun _ => ?_)
      · exact State.mapRow_kept k2
      · exact k2

theorem State.applyStations_kept (h : Kept a s) : Kept a (State.applyStations s) := by
  unfold State.applyStations
  extract_lets -merge -underBinder +onlyGivenNames v1
  refine ite_of (P := Kept a) (fun _ => ?_) (fun _ => ?_)
  · apply Kept.keepF h; exact fun _ => rfl
  · extract_lets -merge -underBinder +onlyGivenNames undo2 r3
    have hr3 : Kept a r3.2 := by
      unfold r3
      refine foldl_of (P := fun r => Kept a (Prod.snd r)) ?_ (fun _ _ k4 => ?_)
      · exact snd_mk (P := Kept a) (h)
      · extract_lets -merge -underBinder +onlyGivenNames pos5 st6
        have hst6 : Kept a st6 := State.wr_kept k4
        clear_value st6
        refine ite_of (P := fun r => Kept a (Prod.snd r)) (fun _ => ?_) (fun _ => ?_)
        · exact snd_mk (P := Kept a) (hst6)
        · refine ite_of (P := fun r => Kept a (Prod.snd r)) (fun _ => ?_) (fun _ => ?_)
          · exact snd_mk (P := Kept a) (hst6)
          · exact snd_mk (P := Kept a) (State.takeReq_kept hst6)
    clear_value r3
    extract_lets -merge -underBinder +onlyGivenNames kept7 s8
    have hs8 : Kept a s8 := hr3
    clear_value s8
    extract_lets -merge -underBinder +onlyGivenNames recs9 src10 s11
    have hs11 : Kept a s11 := by
      unfold s11
      unfold recs9 src10; apply Kept.keepF hs8; exact fun _ => rfl
    clear_value s11
    refine State.rederive_kept ?_
    refine ite_of (P := Kept a) (fun _ => ?_) (fun _ => ?_)
    · exact State.recordStations_kept hs11
    · exact hs11

theorem State.serviceStart_kept (h : Kept a s) : Kept a (State.serviceStart s) := by
  unfold State.serviceStart
  extract_lets -merge -underBinder +onlyGivenNames s1
  have hs1 : Kept a s1 := State.formPool_kept (State.wr_kept h)
  clear_value s1
  refine ite_of (P := Kept a) (fun _ => ?_) (fun _ => ?_)
  · exact State.startFailed_kept (State.logEntry_kept (State.wr_kept hs1))
  · extract_lets -merge -underBinder +onlyGivenNames s2
    have hs2 : Kept a s2 := State.retireListed_kept (State.loadCatalogue_kept (State.startNand_kept hs1))
    clear_value s2
    extract_lets -merge -underBinder +onlyGivenNames s3
    have hs3 : Kept a s3 := State.loadHeld_kept (State.applyStations_kept (State.applyMaps_kept (State.applyRepairs_kept hs2)))
    clear_value s3
    extract_lets -merge -underBinder +onlyGivenNames src4 s5
    have hs5 : Kept a s5 := by
      unfold s5
      unfold src4; apply Kept.keepF hs3; exact fun _ => rfl
    clear_value s5
    extract_lets -merge -underBinder +onlyGivenNames s6
    have hs6 : Kept a s6 := State.wr_kept hs5
    clear_value s6
    extract_lets -merge -underBinder +onlyGivenNames s7
    have hs7 : Kept a s7 := by
      unfold s7
      refine ite_of (P := Kept a) (fun _ => ?_) (fun _ => ?_)
      · exact State.setTherm_kept hs6
      · exact hs6
    clear_value s7
    extract_lets -merge -underBinder +onlyGivenNames s8
    have hs8 : Kept a s8 := State.leaveBypass_kept (State.applyObj_kept hs7)
    clear_value s8
    refine ite_of (P := Kept a) (fun _ => ?_) (fun _ => ?_)
    · exact State.runSet_kept hs8
    · exact hs8

theorem State.modeErr_kept (h : Kept a s) : Kept a (State.modeErr s) := by
  unfold State.modeErr
  exact State.wr_kept h

theorem State.modeWrite_kept (h : Kept a s) {w} : Kept a (State.modeWrite s w) := by
  unfold State.modeWrite
  extract_lets -merge -underBinder +onlyGivenNames s1
  have hs1 : Kept a s1 := by
    unfold s1
    refine ite_of (P := Kept a) (fun _ => ?_) (fun _ => ?_)
    · exact State.wr_kept h
    · exact h
  clear_value s1
  extract_lets -merge -underBinder +onlyGivenNames new2 old3
  refine ite_of (P := Kept a) (fun _ => ?_) (fun _ => ?_)
  · exact hs1
  · refine ite_of (P := Kept a) (fun _ => ?_) (fun _ => ?_)
    · refine ite_of (P := Kept a) (fun _ => ?_) (fun _ => ?_)
      · exact State.modeErr_kept hs1
      · extract_lets -merge -underBinder +onlyGivenNames s4
        have hs4 : Kept a s4 := State.wr_kept hs1
        clear_value s4
        refine ite_of (P := Kept a) (fun _ => ?_) (fun _ => ?_)
        · exact State.serviceStart_kept hs4
        · exact hs4
    · refine ite_of (P := Kept a) (fun _ => ?_) (fun _ => ?_)
      · refine ite_of (P := Kept a) (fun _ => ?_) (fun _ => ?_)
        · refine State.wr_kept ?_
          apply Kept.keepF hs1; exact fun _ => rfl
        · exact State.modeErr_kept hs1
      · refine ite_of (P := Kept a) (fun _ => ?_) (fun _ => ?_)
        · refine ite_of (P := Kept a) (fun _ => ?_) (fun _ => ?_)
          · exact State.wr_kept hs1
          · exact State.modeErr_kept hs1
        · exact State.modeErr_kept hs1

theorem execModeWrite_kept (h : Kept a s) {w} : ResKept a (execModeWrite w s) := by
  unfold execModeWrite
  exact ResKept.next (State.modeWrite_kept h)

end Sys2Proof.Machine
end

