-- ==== Sys2Proof/Laws/KeptPower.lean ====
section
/-! SUPPORT. What the operations of Machine/Power.lean keep. -/

namespace Sys2Proof.Machine

variable {a s : State}

theorem State.computeOff_kept (h : Kept a s) {seg} : Kept a (State.computeOff s seg) := by
  unfold State.computeOff
  extract_lets -merge -underBinder +onlyGivenNames s1
  have hs1 : Kept a s1 := State.computeLost_kept h
  clear_value s1
  apply Kept.keepF hs1; exact fun _ => rfl

theorem State.enterDeep_kept (h : Kept a s) {tgt} : Kept a (State.enterDeep s tgt) := by
  unfold State.enterDeep
  extract_lets -merge -underBinder +onlyGivenNames first1 seg2 s3
  have hs3 : Kept a s3 := by
    unfold s3
    refine ite_of (P := Kept a) (fun _ => ?_) (fun _ => ?_)
    · exact State.wr_kept h
    · exact h
  clear_value s3
  extract_lets -merge -underBinder +onlyGivenNames s4
  have hs4 : Kept a s4 := by
    unfold s4
    refine ite_of (P := Kept a) (fun _ => ?_) (fun _ => ?_)
    · exact State.toBypass_kept hs3
    · exact hs3
  clear_value s4
  extract_lets -merge -underBinder +onlyGivenNames s5
  have hs5 : Kept a s5 := State.computeOff_kept hs4
  clear_value s5
  extract_lets -merge -underBinder +onlyGivenNames s6
  have hs6 : Kept a s6 := by
    unfold s6
    refine ite_of (P := Kept a) (fun _ => ?_) (fun _ => ?_)
    · exact hs5
    · exact State.writeCheckpoint_kept hs5
  clear_value s6
  refine ite_of (P := Kept a) (fun _ => ?_) (fun _ => ?_)
  · exact State.wr_kept hs6
  · extract_lets -merge -underBinder +onlyGivenNames cause7 s8
    have hs8 : Kept a s8 := State.controlLost_kept (State.setAlert_kept hs6)
    clear_value s8
    extract_lets -merge -underBinder +onlyGivenNames src9 s10
    have hs10 : Kept a s10 := by
      unfold s10
      unfold src9; apply Kept.keepF hs8; exact fun _ => rfl
    clear_value s10
    exact State.wrs_kept hs10

theorem State.awake_kept (h : Kept a s) {cause} : Kept a (State.awake s cause) := by
  unfold State.awake
  exact State.flag_kept (State.wrs_kept h)

theorem State.wake_kept (h : Kept a s) {cause train bad} : Kept a (State.wake s cause train bad) := by
  unfold State.wake
  extract_lets -merge -underBinder +onlyGivenNames st1
  refine ite_of (P := Kept a) (fun _ => ?_) (fun _ => ?_)
  · exact h
  · refine ite_of (P := Kept a) (fun _ => ?_) (fun _ => ?_)
    · exact State.awake_kept h
    · refine ite_of (P := Kept a) (fun _ => ?_) (fun _ => ?_)
      · exact State.awake_kept (State.startControl_kept h)
      · extract_lets -merge -underBinder +onlyGivenNames s2
        have hs2 : Kept a s2 := by
          unfold s2
          refine ite_of (P := Kept a) (fun _ => ?_) (fun _ => ?_)
          · exact State.logEntry_kept (State.count_kept h)
          · exact h
        clear_value s2
        refine State.awake_kept ?_
        refine ite_of (P := Kept a) (fun _ => ?_) (fun _ => ?_)
        · exact State.startCompute_kept hs2
        · exact hs2

theorem State.powerRequest_kept (h : Kept a s) {tgt gate train} : Kept a (State.powerRequest s tgt gate train).2 := by
  unfold State.powerRequest
  extract_lets -merge -underBinder +onlyGivenNames st1 refuse2
  have hrefuse2 : Kept a refuse2.2 := snd_mk (P := Kept a) (State.wr_kept h)
  clear_value refuse2
  refine ite_of (P := fun r => Kept a (Prod.snd r)) (fun _ => ?_) (fun _ => ?_)
  · refine snd_mk (P := Kept a) ?_
    refine ite_of (P := Kept a) (fun _ => ?_) (fun _ => ?_)
    · exact State.wake_kept h
    · exact h
  · refine ite_of (P := fun r => Kept a (Prod.snd r)) (fun _ => ?_) (fun _ => ?_)
    · exact snd_mk (P := Kept a) (h)
    · refine ite_of (P := fun r => Kept a (Prod.snd r)) (fun _ => ?_) (fun _ => ?_)
      · exact hrefuse2
      · refine ite_of (P := fun r => Kept a (Prod.snd r)) (fun _ => ?_) (fun _ => ?_)
        · exact hrefuse2
        · refine ite_of (P := fun r => Kept a (Prod.snd r)) (fun _ => ?_) (fun _ => ?_)
          · exact snd_mk (P := Kept a) (State.wr_kept h)
          · exact snd_mk (P := Kept a) (State.enterDeep_kept h)

theorem State.pwrCtrl_kept (h : Kept a s) {w} : Kept a (State.pwrCtrl s w) := by
  unfold State.pwrCtrl
  extract_lets -merge -underBinder +onlyGivenNames s1
  have hs1 : Kept a s1 := by
    unfold s1
    refine ite_of (P := Kept a) (fun _ => ?_) (fun _ => ?_)
    · exact State.wr_kept h
    · exact h
  clear_value s1
  extract_lets -merge -underBinder +onlyGivenNames s2
  have hs2 : Kept a s2 := State.takeFields_kept hs1
  clear_value s2
  refine ite_of (P := Kept a) (fun _ => ?_) (fun _ => ?_)
  · exact State.powerRequest_kept hs2
  · exact hs2

theorem execWakeNFall_kept (h : Kept a s) {train bad} : ResKept a (execWakeNFall train bad s) := by
  unfold execWakeNFall
  refine ResKept.next ?_
  refine ite_of (P := Kept a) (fun _ => ?_) (fun _ => ?_)
  · exact State.wake_kept h
  · exact h

theorem State.setHot_kept (h : Kept a s) {on} : Kept a (State.setHot s on) := by
  unfold State.setHot
  refine ite_of (P := Kept a) (fun _ => ?_) (fun _ => ?_)
  · exact h
  · extract_lets -merge -underBinder +onlyGivenNames s1
    have hs1 : Kept a s1 := State.flag_kept (State.wr_kept h)
    clear_value s1
    extract_lets -merge -underBinder +onlyGivenNames s2
    have hs2 : Kept a s2 := by
      unfold s2
      refine ite_of (P := Kept a) (fun _ => ?_) (fun _ => ?_)
      · exact State.rederive_kept (State.wr_kept hs1)
      · exact hs1
    clear_value s2
    exact State.logEntry_kept (State.postEvent_kept hs2)

theorem State.thermalOff_kept (h : Kept a s) : Kept a (State.thermalOff s) := by
  unfold State.thermalOff
  extract_lets -merge -underBinder +onlyGivenNames s1
  have hs1 : Kept a s1 := State.logEntry_kept (State.count_kept (State.toBypass_kept h))
  clear_value s1
  extract_lets -merge -underBinder +onlyGivenNames s2
  have hs2 : Kept a s2 := State.wrs_kept (State.computeOff_kept hs1)
  clear_value s2
  extract_lets -merge -underBinder +onlyGivenNames s3
  have hs3 : Kept a s3 := State.writeCheckpoint_kept hs2
  clear_value s3
  apply Kept.keepF hs3; exact fun _ => rfl

theorem State.temperature_kept (h : Kept a s) {tj} : Kept a (State.temperature s tj) := by
  unfold State.temperature
  refine ite_of (P := Kept a) (fun _ => ?_) (fun _ => ?_)
  · exact h
  · extract_lets -merge -underBinder +onlyGivenNames s1
    have hs1 : Kept a s1 := State.wr_kept h
    clear_value s1
    extract_lets -merge -underBinder +onlyGivenNames s2
    have hs2 : Kept a s2 := by
      unfold s2
      refine ite_of (P := Kept a) (fun _ => ?_) (fun _ => ?_)
      · exact State.setHot_kept hs1
      · refine ite_of (P := Kept a) (fun _ => ?_) (fun _ => ?_)
        · exact State.setHot_kept hs1
        · exact hs1
    clear_value s2
    extract_lets -merge -underBinder +onlyGivenNames s3
    have hs3 : Kept a s3 := by
      unfold s3
      refine ite_of (P := Kept a) (fun _ => ?_) (fun _ => ?_)
      · exact State.setTherm_kept hs2
      · refine ite_of (P := Kept a) (fun _ => ?_) (fun _ => ?_)
        · exact State.setTherm_kept hs2
        · exact hs2
    clear_value s3
    extract_lets -merge -underBinder +onlyGivenNames src4 s5
    have hs5 : Kept a s5 := by
      unfold s5
      refine ite_of (P := Kept a) (fun _ => ?_) (fun _ => ?_)
      · unfold src4; apply Kept.keepF hs3; exact fun _ => rfl
      · exact hs3
    clear_value s5
    refine ite_of (P := Kept a) (fun _ => ?_) (fun _ => ?_)
    · exact State.thermalOff_kept hs5
    · exact hs5

theorem execTemperatureSample_kept (h : Kept a s) {tj} : ResKept a (execTemperatureSample tj s) := by
  unfold execTemperatureSample
  exact ResKept.next (State.temperature_kept h)

theorem State.vinLoss_kept (h : Kept a s) : Kept a (State.vinLoss s) := by
  unfold State.vinLoss
  refine ite_of (P := Kept a) (fun _ => ?_) (fun _ => ?_)
  · exact h
  · extract_lets -merge -underBinder +onlyGivenNames src1 s2
    have hs2 : Kept a s2 := by
      unfold s2
      unfold src1; apply Kept.keepF h; exact fun _ => rfl
    clear_value s2
    refine ite_of (P := Kept a) (fun _ => ?_) (fun _ => ?_)
    · exact State.wr_kept (State.computeOff_kept (State.toBypass_kept hs2))
    · exact hs2

theorem execVin12Loss_kept (h : Kept a s) : ResKept a (execVin12Loss s) := by
  unfold execVin12Loss
  exact ResKept.next (State.vinLoss_kept h)

theorem State.vinReturn_kept (h : Kept a s) {train bad} : Kept a (State.vinReturn s train bad) := by
  unfold State.vinReturn
  refine ite_of (P := Kept a) (fun _ => ?_) (fun _ => ?_)
  · exact h
  · extract_lets -merge -underBinder +onlyGivenNames src1 s2
    have hs2 : Kept a s2 := by
      unfold s2
      unfold src1; apply Kept.keepF h; exact fun _ => rfl
    clear_value s2
    refine ite_of (P := Kept a) (fun _ => ?_) (fun _ => ?_)
    · exact hs2
    · extract_lets -merge -underBinder +onlyGivenNames again3 s4
      have hs4 : Kept a s4 := State.startCompute_kept hs2
      clear_value s4
      refine ite_of (P := Kept a) (fun _ => ?_) (fun _ => ?_)
      · exact State.logEntry_kept hs4
      · exact hs4

theorem execVin12Return_kept (h : Kept a s) {train bad} : ResKept a (execVin12Return train bad s) := by
  unfold execVin12Return
  exact ResKept.next (State.vinReturn_kept h)

theorem State.standbyLoss_kept (h : Kept a s) : Kept a (State.standbyLoss s) := by
  unfold State.standbyLoss
  refine ite_of (P := Kept a) (fun _ => ?_) (fun _ => ?_)
  · exact h
  · extract_lets -merge -underBinder +onlyGivenNames s1
    have hs1 : Kept a s1 := State.flushLog_kept (State.toBypass_kept h)
    clear_value s1
    extract_lets -merge -underBinder +onlyGivenNames s2
    have hs2 : Kept a s2 := State.controlLost_kept (State.setAlert_kept hs1)
    clear_value s2
    apply Kept.keepF hs2; exact fun _ => rfl

theorem execStandbyLoss_kept (h : Kept a s) : ResKept a (execStandbyLoss s) := by
  unfold execStandbyLoss
  exact ResKept.next (State.standbyLoss_kept h)

theorem State.jtag_kept (h : Kept a s) {i} : Kept a (State.jtag s i) := by
  unfold State.jtag
  refine ite_of (P := Kept a) (fun _ => ?_) (fun _ => ?_)
  · exact h
  · extract_lets -merge -underBinder +onlyGivenNames ph1 j2 src3 s4
    have hs4 : Kept a s4 := by
      unfold s4
      unfold j2 src3; apply Kept.keepF h; exact fun _ => rfl
    clear_value s4
    refine ite_of (P := Kept a) (fun _ => ?_) (fun _ => ?_)
    · exact State.emit_kept hs4
    · exact hs4

theorem execJtagInstructionLoad_kept (h : Kept a s) {i} : ResKept a (execJtagInstructionLoad i s) := by
  unfold execJtagInstructionLoad
  exact ResKept.next (State.jtag_kept h)

end Sys2Proof.Machine
end

