-- ==== Sys2Proof/Laws/KeptObjects.lean ====
section
/-! SUPPORT. What the operations of Machine/Objects.lean keep. -/

namespace Sys2Proof.Machine

variable {a s : State}

theorem State.front_kept (h : Kept a s) {op q t} (x : s.front op = some (q, t)) : Kept a t := by
  unfold State.front at x
  split at x
  · cases x
  · split at x
    · split at x
      · cases x
        exact Kept.setDict h (fun i => by simp only [*, List.length_cons] at i ⊢; omega) id
      · cases x
    · cases x

theorem State.answerObj_kept (h : Kept a s) {q status tide} : Kept a (State.answerObj s q status tide) := by
  unfold State.answerObj
  exact State.sendReply_kept h

theorem State.answerData_kept (h : Kept a s) {q total data} : Kept a (State.answerData s q total data) := by
  unfold State.answerData
  exact State.sendReply_kept h

theorem State.objReadReq_kept (h : Kept a s) {q} : Kept a (State.objReadReq s q) := by
  unfold State.objReadReq
  extract_lets -merge -underBinder +onlyGivenNames sub1
  split
  · exact State.answerObj_kept h
  · refine ite_of (P := Kept a) (fun _ => ?_) (fun _ => ?_)
    · exact State.answerObj_kept h
    · refine ite_of (P := Kept a) (fun _ => ?_) (fun _ => ?_)
      · exact State.answerObj_kept h
      · extract_lets -merge -underBinder +onlyGivenNames v2 d3 mine4 rest5 keep6 src7 s8
        have hs8 : Kept a s8 := by
          unfold s8
          unfold keep6 rest5 src7; apply Kept.keepF h; exact fun _ => rfl
        clear_value s8
        exact State.answerData_kept hs8

theorem State.objNext_kept (h : Kept a s) {q} : Kept a (State.objNext s q) := by
  unfold State.objNext
  extract_lets -merge -underBinder +onlyGivenNames l1 n2
  exact State.answerData_kept h

theorem State.commitObj_kept (h : Kept a s) {q index tide v par} : Kept a (State.commitObj s q index tide v par) := by
  unfold State.commitObj
  refine ite_of (P := Kept a) (fun _ => ?_) (fun _ => ?_)
  · exact State.answerObj_kept h
  · refine ite_of (P := Kept a) (fun _ => ?_) (fun _ => ?_)
    · exact State.answerObj_kept (State.commitRec_kept h)
    · extract_lets -merge -underBinder +onlyGivenNames r1
      refine State.showEf_kept ?_
      unfold r1; apply Kept.keepF h; exact fun _ => rfl

theorem State.commitDone_kept (h : Kept a s) : Kept a (State.commitDone s) := by
  unfold State.commitDone
  split
  · exact h
  · extract_lets -merge -underBinder +onlyGivenNames src1 s2
    have hs2 : Kept a s2 := by
      unfold s2
      unfold src1; apply Kept.keepF h; exact fun _ => rfl
    clear_value s2
    extract_lets -merge -underBinder +onlyGivenNames r3
    have hr3 : Kept a r3.2 := State.commitRec_kept hs2
    clear_value r3
    extract_lets -merge -underBinder +onlyGivenNames s4
    have hs4 : Kept a s4 := hr3
    clear_value s4
    extract_lets -merge -underBinder +onlyGivenNames s5
    have hs5 : Kept a s5 := by
      unfold s5
      split
      · refine ite_of (P := Kept a) (fun _ => ?_) (fun _ => ?_)
        · apply Kept.keepF hs4; exact fun _ => rfl
        · exact hs4
      · exact hs4
    clear_value s5
    exact State.showEf_kept (State.sendReply_kept hs5)

theorem execPersistentCommitDone_kept (h : Kept a s) : ResKept a (execPersistentCommitDone s) := by
  unfold execPersistentCommitDone
  refine ResKept.next ?_
  refine ite_of (P := Kept a) (fun _ => ?_) (fun _ => ?_)
  · exact State.commitDone_kept h
  · exact h

theorem State.protRaise_kept (h : Kept a s) {tgt} : Kept a (State.protRaise s tgt) := by
  unfold State.protRaise
  extract_lets -merge -underBinder +onlyGivenNames old1 src2 s3
  have hs3 : Kept a s3 := State.optWrite_kept h
  clear_value s3
  extract_lets -merge -underBinder +onlyGivenNames src4 s5
  have hs5 : Kept a s5 := by
    unfold s5
    refine ite_of (P := Kept a) (fun _ => ?_) (fun _ => ?_)
    · exact Kept.setFac hs3 ⟨rfl, rfl, fun _ => rfl, Nat.le_refl _⟩
    · exact hs3
  clear_value s5
  exact State.writeCheckpoint_kept (State.logEntry_kept (State.showEf_kept hs5))

theorem State.protLower_kept (h : Kept a s) {train} : Kept a (State.protLower s train) := by
  unfold State.protLower
  extract_lets -merge -underBinder +onlyGivenNames old1 s2
  have hs2 : Kept a s2 := State.logEntry_kept h
  clear_value s2
  extract_lets -merge -underBinder +onlyGivenNames on3 s4
  have hs4 : Kept a s4 := by
    unfold s4
    refine ite_of (P := Kept a) (fun _ => ?_) (fun _ => ?_)
    · exact State.computeLost_kept (State.logEntry_kept (State.count_kept (State.toBypass_kept hs2)))
    · exact hs2
  clear_value s4
  extract_lets -merge -underBinder +onlyGivenNames s5
  have hs5 : Kept a s5 := State.eraseProtected_kept hs4
  clear_value s5
  extract_lets -merge -underBinder +onlyGivenNames src6 s7
  have hs7 : Kept a s7 := State.optWrite_kept hs5
  clear_value s7
  extract_lets -merge -underBinder +onlyGivenNames s8
  have hs8 : Kept a s8 := State.writeCheckpoint_kept (State.logEntry_kept (State.showEf_kept hs7))
  clear_value s8
  refine ite_of (P := Kept a) (fun _ => ?_) (fun _ => ?_)
  · exact State.startCompute_kept hs8
  · exact hs8

theorem State.keyStoreWrite_kept (h : Kept a s) {keys} : Kept a (State.keyStoreWrite s keys).2 := by
  unfold State.keyStoreWrite
  extract_lets -merge -underBinder +onlyGivenNames r1
  have hr1 : Kept a r1.2 := by
    unfold r1
    refine foldl_of (P := fun r => Kept a (Prod.snd r)) ?_ (fun _ _ k2 => ?_)
    · exact snd_mk (P := Kept a) (State.codeWritten_kept h)
    · extract_lets -merge -underBinder +onlyGivenNames s3
      have hs3 : Kept a s3 := State.countErase_kept k2
      clear_value s3
      refine ite_of (P := fun r => Kept a (Prod.snd r)) (fun _ => ?_) (fun _ => ?_)
      · exact snd_mk (P := Kept a) (hs3)
      · extract_lets -merge -underBinder +onlyGivenNames r4
        have hr4 : Kept a r4.2 := State.retireSector_kept hs3
        clear_value r4
        exact snd_mk (P := Kept a) (hr4)
  clear_value r1
  refine ite_of (P := fun r => Kept a (Prod.snd r)) (fun _ => ?_) (fun _ => ?_)
  · refine snd_mk (P := Kept a) ?_
    extract_lets -merge -underBinder +onlyGivenNames src5
    have hsrc5 : Kept a src5 := hr1
    exact Kept.keep (hsrc5) rfl
  · exact hr1

theorem State.tideObj_kept (h : Kept a s) {q f i v stamp} : Kept a (State.tideObj s q f i v stamp) := by
  unfold State.tideObj
  extract_lets -merge -underBinder +onlyGivenNames n1 tgt2
  refine ite_of (P := Kept a) (fun _ => ?_) (fun _ => ?_)
  · exact State.commitObj_kept (State.setVal_kept (State.setTide_kept h))
  · refine ite_of (P := Kept a) (fun _ => ?_) (fun _ => ?_)
    · exact State.answerObj_kept h
    · extract_lets -merge -underBinder +onlyGivenNames w3 s4
      have hs4 : Kept a s4 := State.setTide_kept h
      clear_value s4
      extract_lets -merge -underBinder +onlyGivenNames s5
      have hs5 : Kept a s5 := by
        unfold s5
        refine ite_of (P := Kept a) (fun _ => ?_) (fun _ => ?_)
        · exact hs4
        · exact State.applyWrite_kept hs4
      clear_value s5
      apply Kept.keepF hs5; exact fun _ => rfl

theorem State.unstage_kept (h : Kept a s) {l} : Kept a (State.unstage s l) := by
  unfold State.unstage
  refine foldl_of (P := Kept a) ?_ (fun _ _ k1 => ?_)
  · exact h
  · split
    · exact State.wr_kept k1
    · exact k1

theorem State.tideAnswers_kept (h : Kept a s) {st} : Kept a (State.tideAnswers s st) := by
  unfold State.tideAnswers
  extract_lets -merge -underBinder +onlyGivenNames l1 src2 s3
  have hs3 : Kept a s3 := by
    unfold s3
    unfold src2; apply Kept.keepF h; exact fun _ => rfl
  clear_value s3
  extract_lets -merge -underBinder +onlyGivenNames s4
  have hs4 : Kept a s4 := by
    unfold s4
    refine ite_of (P := Kept a) (fun _ => ?_) (fun _ => ?_)
    · exact State.unstage_kept hs3
    · exact hs3
  clear_value s4
  refine foldl_of (P := Kept a) ?_ (fun _ _ k5 => ?_)
  · exact hs4
  · refine ite_of (P := Kept a) (fun _ => ?_) (fun _ => ?_)
    · exact State.commitObj_kept (State.setVal_kept k5)
    · exact State.answerObj_kept k5

theorem State.idleAnswers_kept (h : Kept a s) : Kept a (State.idleAnswers s) := by
  unfold State.idleAnswers
  refine ite_of (P := Kept a) (fun _ => ?_) (fun _ => ?_)
  · exact h
  · exact State.tideAnswers_kept h

theorem execTideRunClear_kept (h : Kept a s) {w} : ResKept a (execTideRunClear w s) := by
  unfold execTideRunClear
  exact ResKept.next (State.idleAnswers_kept (State.runClear_kept (State.tideCtrlFields_kept h)))

theorem State.paramWrite_kept (h : Kept a s) {q o v stamp asap} : Kept a (State.paramWrite s q o v stamp asap) := by
  unfold State.paramWrite
  extract_lets -merge -underBinder +onlyGivenNames c1 t2 i3
  refine ite_of (P := Kept a) (fun _ => ?_) (fun _ => ?_)
  · exact State.answerObj_kept h
  · extract_lets -merge -underBinder +onlyGivenNames t4
    refine ite_of (P := Kept a) (fun _ => ?_) (fun _ => ?_)
    · exact State.answerObj_kept h
    · refine ite_of (P := Kept a) (fun _ => ?_) (fun _ => ?_)
      · exact State.answerObj_kept h
      · extract_lets -merge -underBinder +onlyGivenNames l5 src6 s7
        have hs7 : Kept a s7 := by
          unfold s7
          refine State.wr_kept ?_
          exact Kept.setDict h id fun _ => by rw [List.length_append]; simp only [List.length_singleton]; omega
        clear_value s7
        refine ite_of (P := Kept a) (fun _ => ?_) (fun _ => ?_)
        · exact State.answerObj_kept hs7
        · extract_lets -merge -underBinder +onlyGivenNames name8
          exact State.commitObj_kept hs7

theorem State.objEffect_kept (h : Kept a s) {i v} : Kept a (State.objEffect s i v) := by
  unfold State.objEffect
  extract_lets -merge -underBinder +onlyGivenNames n1
  refine ite_of (P := Kept a) (fun _ => ?_) (fun _ => ?_)
  · exact State.applyObj_kept h
  · refine ite_of (P := Kept a) (fun _ => ?_) (fun _ => ?_)
    · exact h
    · refine ite_of (P := Kept a) (fun _ => ?_) (fun _ => ?_)
      · apply Kept.keepF h; exact fun _ => rfl
      · refine ite_of (P := Kept a) (fun _ => ?_) (fun _ => ?_)
        · apply Kept.keepF h; exact fun _ => rfl
        · refine ite_of (P := Kept a) (fun _ => ?_) (fun _ => ?_)
          · apply Kept.keepF h; exact fun _ => rfl
          · refine ite_of (P := Kept a) (fun _ => ?_) (fun _ => ?_)
            · extract_lets -merge -underBinder +onlyGivenNames off2
              apply Kept.keepF h; exact fun _ => rfl
            · refine ite_of (P := Kept a) (fun _ => ?_) (fun _ => ?_)
              · apply Kept.keepF h; exact fun _ => rfl
              · refine ite_of (P := Kept a) (fun _ => ?_) (fun _ => ?_)
                · exact State.applyObj_kept h
                · exact h

theorem State.cmdObj_kept (h : Kept a s) {q i v train} : Kept a (State.cmdObj s q i v train) := by
  unfold State.cmdObj
  extract_lets -merge -underBinder +onlyGivenNames n1
  refine ite_of (P := Kept a) (fun _ => ?_) (fun _ => ?_)
  · extract_lets -merge -underBinder +onlyGivenNames r2
    refine ite_of (P := Kept a) (fun _ => ?_) (fun _ => ?_)
    · exact State.answerObj_kept h
    · refine ite_of (P := Kept a) (fun _ => ?_) (fun _ => ?_)
      · refine State.protLower_kept ?_
        refine State.answerObj_kept ?_
        refine foldl_of (P := Kept a) ?_ (fun _ _ k3 => ?_)
        · exact h
        · exact State.commitDone_kept k3
      · exact State.answerObj_kept (State.protRaise_kept h)
  · refine ite_of (P := Kept a) (fun _ => ?_) (fun _ => ?_)
    · refine ite_of (P := Kept a) (fun _ => ?_) (fun _ => ?_)
      · refine State.answerObj_kept ?_
        apply Kept.keepF h; exact fun _ => rfl
      · exact State.answerObj_kept h
    · refine ite_of (P := Kept a) (fun _ => ?_) (fun _ => ?_)
      · split
        · exact State.answerObj_kept h
        · extract_lets -merge -underBinder +onlyGivenNames r4
          have hr4 : Kept a r4.2 := State.keyStoreWrite_kept h
          clear_value r4
          exact State.answerObj_kept hr4
      · refine ite_of (P := Kept a) (fun _ => ?_) (fun _ => ?_)
        · refine ite_of (P := Kept a) (fun _ => ?_) (fun _ => ?_)
          · extract_lets -merge -underBinder +onlyGivenNames r5
            have hr5 : Kept a r5.2 := State.keyStoreWrite_kept h
            clear_value r5
            exact State.answerObj_kept hr5
          · exact State.answerObj_kept h
        · refine ite_of (P := Kept a) (fun _ => ?_) (fun _ => ?_)
          · refine ite_of (P := Kept a) (fun _ => ?_) (fun _ => ?_)
            · exact State.answerObj_kept h
            · refine State.answerObj_kept ?_
              apply Kept.keepF h; exact fun _ => rfl
          · extract_lets -merge -underBinder +onlyGivenNames r6
            have hr6 : Kept a r6.2 := State.powerRequest_kept h
            clear_value r6
            refine ite_of (P := Kept a) (fun _ => ?_) (fun _ => ?_)
            · extract_lets -merge -underBinder +onlyGivenNames s7
              have hs7 : Kept a s7 := State.answerObj_kept h
              clear_value s7
              exact State.powerRequest_kept hs7
            · exact State.answerObj_kept hr6

theorem State.writeValue_kept (h : Kept a s) {q o v stamp train} : Kept a (State.writeValue s q o v stamp train) := by
  unfold State.writeValue
  extract_lets -merge -underBinder +onlyGivenNames i1
  refine ite_of (P := Kept a) (fun _ => ?_) (fun _ => ?_)
  · exact State.answerObj_kept h
  · split
    · refine State.answerObj_kept ?_
      refine ite_of (P := Kept a) (fun _ => ?_) (fun _ => ?_)
      · exact State.wr_kept h
      · exact h
    · refine ite_of (P := Kept a) (fun _ => ?_) (fun _ => ?_)
      · exact State.paramWrite_kept h
      · refine ite_of (P := Kept a) (fun _ => ?_) (fun _ => ?_)
        · split
          · exact State.tideObj_kept h
          · exact h
        · refine ite_of (P := Kept a) (fun _ => ?_) (fun _ => ?_)
          · exact State.cmdObj_kept h
          · extract_lets -merge -underBinder +onlyGivenNames s2
            have hs2 : Kept a s2 := State.setVal_kept (State.objEffect_kept h)
            clear_value s2
            refine ite_of (P := Kept a) (fun _ => ?_) (fun _ => ?_)
            · exact State.commitObj_kept hs2
            · exact State.answerObj_kept hs2

theorem State.objWriteReq_kept (h : Kept a s) {q train} : Kept a (State.objWriteReq s q train) := by
  unfold State.objWriteReq
  extract_lets -merge -underBinder +onlyGivenNames m1 i2
  split
  · exact State.answerObj_kept h
  · split
    · exact State.answerObj_kept h
    · extract_lets -merge -underBinder +onlyGivenNames d3 mine4 here5 drop6
      have hdrop6 : ∀ y7, Kept a y7 → Kept a (drop6 y7) := by
        intro y7 k8
        unfold drop6
        apply Kept.keepF k8; exact fun _ => rfl
      clear_value drop6
      extract_lets -merge -underBinder +onlyGivenNames put9
      have hput9 : ∀ y10 y11, Kept a y10 → Kept a (put9 y10 y11) := by
        intro y10 y11 k12
        unfold put9
        apply Kept.keepF k12; exact fun _ => rfl
      clear_value put9
      extract_lets -merge -underBinder +onlyGivenNames cur13
      refine ite_of (P := Kept a) (fun _ => ?_) (fun _ => ?_)
      · exact State.answerObj_kept h
      · extract_lets -merge -underBinder +onlyGivenNames s14
        have hs14 : Kept a s14 := by
          unfold s14
          exact hdrop6 _ (h)
        clear_value s14
        refine ite_of (P := Kept a) (fun _ => ?_) (fun _ => ?_)
        · refine ite_of (P := Kept a) (fun _ => ?_) (fun _ => ?_)
          · exact State.writeValue_kept hs14
          · refine ite_of (P := Kept a) (fun _ => ?_) (fun _ => ?_)
            · refine State.answerObj_kept ?_
              exact hput9 _ _ (hs14)
            · exact State.answerObj_kept hs14
        · clear_value cur13
          split
          · exact State.answerObj_kept hs14
          · extract_lets -merge -underBinder +onlyGivenNames b15
            refine ite_of (P := Kept a) (fun _ => ?_) (fun _ => ?_)
            · exact State.answerObj_kept hs14
            · refine ite_of (P := Kept a) (fun _ => ?_) (fun _ => ?_)
              · exact State.writeValue_kept hs14
              · refine State.answerObj_kept ?_
                exact hput9 _ _ (hs14)

theorem State.objWriteAt_kept (h : Kept a s) {q train} : Kept a (State.objWriteAt s q train) := by
  unfold State.objWriteAt
  extract_lets -merge -underBinder +onlyGivenNames m1
  split
  · exact State.answerObj_kept h
  · split
    · exact State.answerObj_kept h
    · refine ite_of (P := Kept a) (fun _ => ?_) (fun _ => ?_)
      · exact State.answerObj_kept h
      · exact State.writeValue_kept h

theorem State.objCancel_kept (h : Kept a s) {q} : Kept a (State.objCancel s q) := by
  unfold State.objCancel
  extract_lets -merge -underBinder +onlyGivenNames m1 i2 hit3
  refine ite_of (P := Kept a) (fun _ => ?_) (fun _ => ?_)
  · exact State.answerObj_kept h
  · refine ite_of (P := Kept a) (fun _ => ?_) (fun _ => ?_)
    · exact State.answerObj_kept h
    · refine ite_of (P := Kept a) (fun _ => ?_) (fun _ => ?_)
      · exact State.answerObj_kept (State.tideAnswers_kept (State.wr_kept h))
      · refine ite_of (P := Kept a) (fun _ => ?_) (fun _ => ?_)
        · extract_lets -merge -underBinder +onlyGivenNames l4
          refine State.answerObj_kept ?_
          refine State.wr_kept ?_
          exact Kept.setDict h id fun x => Nat.le_trans (List.length_filter_le _ _) x
        · exact State.answerObj_kept h

theorem execRead_kept (h : Kept a s) : ResKept a (execRead s) := by
  unfold execRead
  refine ResKept.next ?_
  split
  · have k1 := State.front_kept h (by assumption)
    exact State.objReadReq_kept k1
  · exact h

theorem execWrite_kept (h : Kept a s) {train} : ResKept a (execWrite train s) := by
  unfold execWrite
  refine ResKept.next ?_
  split
  · have k1 := State.front_kept h (by assumption)
    exact State.objWriteReq_kept k1
  · exact h

theorem execWriteAt_kept (h : Kept a s) : ResKept a (execWriteAt s) := by
  unfold execWriteAt
  refine ResKept.next ?_
  split
  · have k1 := State.front_kept h (by assumption)
    exact State.objWriteAt_kept k1
  · exact h

theorem execCancelAt_kept (h : Kept a s) : ResKept a (execCancelAt s) := by
  unfold execCancelAt
  refine ResKept.next ?_
  split
  · have k1 := State.front_kept h (by assumption)
    exact State.objCancel_kept k1
  · exact h

theorem execNext_kept (h : Kept a s) : ResKept a (execNext s) := by
  unfold execNext
  refine ResKept.next ?_
  split
  · have k1 := State.front_kept h (by assumption)
    exact State.objNext_kept k1
  · exact h

theorem execSegmentTimeout_kept (h : Kept a s) : ResKept a (execSegmentTimeout s) := by
  unfold execSegmentTimeout
  refine ResKept.next ?_
  split
  · exact h
  · extract_lets -merge -underBinder +onlyGivenNames src1 s2
    have hs2 : Kept a s2 := by
      unfold s2
      unfold src1; apply Kept.keepF h; exact fun _ => rfl
    clear_value s2
    exact State.logEntry_kept hs2

theorem State.frontWrite_kept (h : Kept a s) {i f train} : Kept a (State.frontWrite s i f train) := by
  unfold State.frontWrite
  split
  · have k1 := State.front_kept h (by assumption)
    refine ite_of (P := Kept a) (fun _ => ?_) (fun _ => ?_)
    · exact State.objWriteReq_kept k1
    · exact h
  · exact h

theorem execProtRaise_kept (h : Kept a s) : ResKept a (execProtRaise s) := by
  unfold execProtRaise
  exact ResKept.next (State.frontWrite_kept h)

theorem execProtLower_kept (h : Kept a s) {train} : ResKept a (execProtLower train s) := by
  unfold execProtLower
  exact ResKept.next (State.frontWrite_kept h)

theorem execSecRollbackWrite_kept (h : Kept a s) : ResKept a (execSecRollbackWrite s) := by
  unfold execSecRollbackWrite
  exact ResKept.next (State.frontWrite_kept h)

theorem execKeyImport_kept (h : Kept a s) : ResKept a (execKeyImport s) := by
  unfold execKeyImport
  exact ResKept.next (State.frontWrite_kept h)

theorem execKeyDelete_kept (h : Kept a s) : ResKept a (execKeyDelete s) := by
  unfold execKeyDelete
  exact ResKept.next (State.frontWrite_kept h)

theorem execKeyList_kept (h : Kept a s) : ResKept a (execKeyList s) := by
  unfold execKeyList
  refine ResKept.next ?_
  split
  · have k1 := State.front_kept h (by assumption)
    refine ite_of (P := Kept a) (fun _ => ?_) (fun _ => ?_)
    · exact State.objReadReq_kept k1
    · exact h
  · exact h

theorem State.powerCmd_kept (h : Kept a s) {tgt obj w train} : Kept a (State.powerCmd s tgt obj w train) := by
  unfold State.powerCmd
  refine ite_of (P := Kept a) (fun _ => ?_) (fun _ => ?_)
  · exact State.frontWrite_kept h
  · refine ite_of (P := Kept a) (fun _ => ?_) (fun _ => ?_)
    · exact State.pwrCtrl_kept h
    · exact h

theorem execPowerEnterP1_kept (h : Kept a s) {obj w} : ResKept a (execPowerEnterP1 obj w s) := by
  unfold execPowerEnterP1
  exact ResKept.next (State.powerCmd_kept h)

theorem execPowerEnterP2_kept (h : Kept a s) {obj w} : ResKept a (execPowerEnterP2 obj w s) := by
  unfold execPowerEnterP2
  exact ResKept.next (State.powerCmd_kept h)

theorem execPowerEnterP3_kept (h : Kept a s) {obj w} : ResKept a (execPowerEnterP3 obj w s) := by
  unfold execPowerEnterP3
  exact ResKept.next (State.powerCmd_kept h)

theorem execPowerEnterP4_kept (h : Kept a s) {obj w} : ResKept a (execPowerEnterP4 obj w s) := by
  unfold execPowerEnterP4
  exact ResKept.next (State.powerCmd_kept h)

theorem execPowerEnterP5_kept (h : Kept a s) {obj w} : ResKept a (execPowerEnterP5 obj w s) := by
  unfold execPowerEnterP5
  exact ResKept.next (State.powerCmd_kept h)

theorem execPowerWake_kept (h : Kept a s) {obj w train} : ResKept a (execPowerWake obj w train s) := by
  unfold execPowerWake
  exact ResKept.next (State.powerCmd_kept h)

end Sys2Proof.Machine
end

