-- ==== Sys2Proof/Laws/KeptCommit.lean ====
section
/-! SUPPORT. What the operations of Machine/Commit.lean keep. -/

namespace Sys2Proof.Machine

variable {a s : State}

theorem State.closeStation_kept (h : Kept a s) {t p} : Kept a (State.closeStation s t p) := by
  unfold State.closeStation
  extract_lets -merge -underBinder +onlyGivenNames v1 st2
  split
  · exact h
  · refine ite_of (P := Kept a) (fun _ => ?_) (fun _ => ?_)
    · exact h
    · extract_lets -merge -underBinder +onlyGivenNames s3
      have hs3 : Kept a s3 := State.wrs_kept (State.onStn_kept h)
      clear_value s3
      exact State.haltConsumers_kept hs3

theorem State.closeSlices_kept (h : Kept a s) : Kept a (State.closeSlices s) := by
  unfold State.closeSlices
  refine foldl_of (P := Kept a) ?_ (fun _ _ k1 => ?_)
  · exact h
  · exact State.closeStation_kept k1

theorem State.commitWindow_kept (h : Kept a s) : Kept a (State.commitWindow s) := by
  unfold State.commitWindow
  refine ite_of (P := Kept a) (fun _ => ?_) (fun _ => ?_)
  · exact h
  · extract_lets -merge -underBinder +onlyGivenNames s1
    have hs1 : Kept a s1 := State.commitInplace_kept (State.closeSlices_kept h)
    clear_value s1
    refine foldl_of (P := Kept a) ?_ (fun _ _ k2 => ?_)
    · exact hs1
    · exact State.switchBinds_kept k2

theorem execCommitWindowOpen_kept (h : Kept a s) : ResKept a (execCommitWindowOpen s) := by
  unfold execCommitWindowOpen
  exact ResKept.next (State.commitWindow_kept h)

theorem State.schedulableEnd_kept (h : Kept a s) {cyc z} : Kept a (State.schedulableEnd s cyc z) := by
  unfold State.schedulableEnd
  refine ite_of (P := Kept a) (fun _ => ?_) (fun _ => ?_)
  · exact h
  · extract_lets -merge -underBinder +onlyGivenNames s1
    have hs1 : Kept a s1 := State.stationsAtB_kept h
    clear_value s1
    refine ite_of (P := Kept a) (fun _ => ?_) (fun _ => ?_)
    · exact hs1
    · refine foldl_of (P := Kept a) ?_ (fun _ _ k2 => ?_)
      · exact hs1
      · exact State.attAbandon_kept k2

theorem execSchedulableEnd_kept (h : Kept a s) {cyc z} : ResKept a (execSchedulableEnd cyc z s) := by
  unfold execSchedulableEnd
  exact ResKept.next (State.schedulableEnd_kept h)

theorem State.releaseStream_kept (h : Kept a s) {y c n} : Kept a (State.releaseStream s y c n) := by
  unfold State.releaseStream
  extract_lets -merge -underBinder +onlyGivenNames mute1 st2 src3 s4
  have hs4 : Kept a s4 := by
    unfold s4
    unfold src3; apply Kept.keepF h; exact fun _ => rfl
  clear_value s4
  extract_lets -merge -underBinder +onlyGivenNames s5
  have hs5 : Kept a s5 := State.emit_kept hs4
  clear_value s5
  refine ite_of (P := Kept a) (fun _ => ?_) (fun _ => ?_)
  · exact State.count_kept (State.bump_kept hs5)
  · refine ite_of (P := Kept a) (fun _ => ?_) (fun _ => ?_)
    · exact State.logEntry_kept (State.count_kept hs5)
    · exact hs5

theorem State.releaseStreams_kept (h : Kept a s) (h2x : Kept a s2x) {s2x n} : Kept a (State.releaseStreams s s2x n) := by
  unfold State.releaseStreams
  extract_lets -merge -underBinder +onlyGivenNames due1
  refine foldl_of (P := Kept a) ?_ (fun _ _ k2 => ?_)
  · exact h
  · exact State.releaseStream_kept k2

theorem State.resetSlot_kept (h : Kept a s) {t p k strm} : Kept a (State.resetSlot s t p k strm) := by
  unfold State.resetSlot
  refine ite_of (P := Kept a) (fun _ => ?_) (fun _ => ?_)
  · exact h
  · extract_lets -merge -underBinder +onlyGivenNames i1 was2 s3
    have hs3 : Kept a s3 := State.wrs_kept h
    clear_value s3
    refine ite_of (P := Kept a) (fun _ => ?_) (fun _ => ?_)
    · exact hs3
    · exact State.logEntry_kept (State.bump_kept hs3)

theorem State.resetSlots_kept (h : Kept a s) {q strm f} : Kept a (State.resetSlots s q strm f) := by
  unfold State.resetSlots
  refine foldl_of (P := Kept a) ?_ (fun _ _ k1 => ?_)
  · exact h
  · refine ite_of (P := Kept a) (fun _ => ?_) (fun _ => ?_)
    · exact State.resetSlot_kept k1
    · exact k1

theorem State.resetStage_kept (h : Kept a s) {strm g} : Kept a (State.resetStage s strm g) := by
  unfold State.resetStage
  extract_lets -merge -underBinder +onlyGivenNames p1 s2
  have hs2 : Kept a s2 := State.resetSlots_kept h
  clear_value s2
  extract_lets -merge -underBinder +onlyGivenNames s3
  have hs3 : Kept a s3 := by
    unfold s3
    split
    · exact State.resetSlots_kept hs2
    · exact hs2
  clear_value s3
  split
  · exact State.resetSlots_kept hs3
  · exact hs3

theorem State.resetStopped_kept (h : Kept a s) (h2x : Kept a s2x) {s2x} : Kept a (State.resetStopped s s2x) := by
  unfold State.resetStopped
  refine foldl_of (P := Kept a) ?_ (fun _ _ k1 => ?_)
  · exact h
  · extract_lets -merge -underBinder +onlyGivenNames strm2
    refine foldl_of (P := Kept a) ?_ (fun _ _ k3 => ?_)
    · exact k1
    · exact State.resetStage_kept k3

theorem State.stageRows_kept (h : Kept a s) {y T} : Kept a (State.stageRows s y T) := by
  unfold State.stageRows
  refine ite_of (P := Kept a) (fun _ => ?_) (fun _ => ?_)
  · exact h
  · refine foldl_of (P := Kept a) ?_ (fun _ _ k1 => ?_)
    · exact h
    · extract_lets -merge -underBinder +onlyGivenNames a2 b3
      refine ite_of (P := Kept a) (fun _ => ?_) (fun _ => ?_)
      · exact k1
      · exact State.putRow_kept k1

theorem State.stageParams_kept (h : Kept a s) : Kept a (State.stageParams s) := by
  unfold State.stageParams
  extract_lets -merge -underBinder +onlyGivenNames n1 T2 due3 rest4 late5 src6 src7 s8
  have hs8 : Kept a s8 := by
    unfold s8
    exact h.upd rfl rfl fun ⟨x, y1, y2, y3, y4⟩ => ⟨x, y1, y2, Nat.le_trans (List.length_filter_le _ _) y3, y4⟩
  clear_value s8
  extract_lets -merge -underBinder +onlyGivenNames s9
  have hs9 : Kept a s9 := State.wr_kept (State.bump_kept (State.bump_kept hs8))
  clear_value s9
  refine foldl_of (P := Kept a) ?_ (fun _ _ k10 => ?_)
  · exact hs9
  · exact State.stageRows_kept k10

end Sys2Proof.Machine
end

