-- ==== Sys2Proof/Laws/KeptBoundary.lean ====
section
/-! SUPPORT. What the operations of Machine/Boundary.lean keep. -/

namespace Sys2Proof.Machine

variable {a s : State}

theorem State.applyDue_kept (h : Kept a s) (h2x : Kept a s2x) {s2x} : Kept a (State.applyDue s s2x) := by
  unfold State.applyDue
  refine ite_of (P := Kept a) (fun _ => ?_) (fun _ => ?_)
  · exact h
  · refine ite_of (P := Kept a) (fun _ => ?_) (fun _ => ?_)
    · refine ite_of (P := Kept a) (fun _ => ?_) (fun _ => ?_)
      · exact h
      · exact State.tideAnswers_kept h
    · extract_lets -merge -underBinder +onlyGivenNames c1 s2
      have hs2 : Kept a s2 := State.applyAtBoundary_kept h
      clear_value s2
      refine ite_of (P := Kept a) (fun _ => ?_) (fun _ => ?_)
      · exact hs2
      · exact State.tideAnswers_kept hs2

theorem State.replayEnd_kept (h : Kept a s) {t} : Kept a (State.replayEnd s t) := by
  unfold State.replayEnd
  refine ite_of (P := Kept a) (fun _ => ?_) (fun _ => ?_)
  · exact State.clearStation_kept (State.wr_kept h)
  · exact h

theorem State.copySlots_kept (h : Kept a s) {t p} : Kept a (State.copySlots s t p) := by
  unfold State.copySlots
  refine foldl_of (P := Kept a) ?_ (fun _ _ k1 => ?_)
  · exact h
  · extract_lets -merge -underBinder +onlyGivenNames cp2
    have hcp2 : ∀ y3 y4 y5, Kept a y3 → Kept a (cp2 y3 y4 y5) := by
      intro y3 y4 y5 k6
      unfold cp2
      refine foldl_of (P := Kept a) ?_ (fun _ _ k7 => ?_)
      · exact k6
      · exact State.wr_kept k7
    clear_value cp2
    refine hcp2 _ _ _ ?_
    exact hcp2 _ _ _ (k1)

theorem State.takeOver_kept (h : Kept a s) {t p} : Kept a (State.takeOver s t p) := by
  unfold State.takeOver
  extract_lets -merge -underBinder +onlyGivenNames v1 m2 s3
  have hs3 : Kept a s3 := by
    unfold s3
    refine ite_of (P := Kept a) (fun _ => ?_) (fun _ => ?_)
    · exact h
    · exact State.loadCurves_kept h
  clear_value s3
  extract_lets -merge -underBinder +onlyGivenNames s4
  have hs4 : Kept a s4 := State.wrs_kept (State.loadReserve_kept (State.copySlots_kept hs3))
  clear_value s4
  extract_lets -merge -underBinder +onlyGivenNames s5
  have hs5 : Kept a s5 := State.clearStation_kept (State.setStn_kept hs4)
  clear_value s5
  extract_lets -merge -underBinder +onlyGivenNames s6
  have hs6 : Kept a s6 := State.wrs_kept hs5
  clear_value s6
  extract_lets -merge -underBinder +onlyGivenNames s7
  have hs7 : Kept a s7 := State.movePorts_kept (State.onTer_kept hs6)
  clear_value s7
  exact State.recordStations_kept (State.rederive_kept (State.postEvent_kept (State.count_kept (State.logEntry_kept hs7))))

theorem State.giveBack_kept (h : Kept a s) {t} : Kept a (State.giveBack s t) := by
  unfold State.giveBack
  extract_lets -merge -underBinder +onlyGivenNames p1 s2
  have hs2 : Kept a s2 := State.onTer_kept h
  clear_value s2
  refine ite_of (P := Kept a) (fun _ => ?_) (fun _ => ?_)
  · exact hs2
  · refine ite_of (P := Kept a) (fun _ => ?_) (fun _ => ?_)
    · exact State.wr_kept hs2
    · extract_lets -merge -underBinder +onlyGivenNames s3
      have hs3 : Kept a s3 := State.clearStation_kept (State.wrs_kept hs2)
      clear_value s3
      exact State.recordStations_kept (State.rederive_kept (State.logEntry_kept hs3))

theorem State.terBoundary_kept (h : Kept a s) {t} : Kept a (State.terBoundary s t) := by
  unfold State.terBoundary
  extract_lets -merge -underBinder +onlyGivenNames s1
  have hs1 : Kept a s1 := State.replayEnd_kept h
  try clear_value s1
  extract_lets -merge -underBinder +onlyGivenNames s2
  have hs2 : Kept a s2 := by
    unfold s2
    split
    · exact State.onTer_kept (State.wr_kept hs1)
    · exact hs1
  try clear_value s2
  extract_lets -merge -underBinder +onlyGivenNames s3
  have hs3 : Kept a s3 := by
    unfold s3
    refine ite_of (P := Kept a) (fun _ => ?_) (fun _ => ?_)
    · exact State.takeOver_kept hs2
    · exact hs2
  try clear_value s3
  extract_lets -merge -underBinder +onlyGivenNames s4
  have hs4 : Kept a s4 := by
    unfold s4
    split
    · extract_lets -merge -underBinder +onlyGivenNames s5
      have hs5 : Kept a s5 := State.onTer_kept hs3
      try clear_value s5
      exact State.logEntry_kept (State.wrs_kept hs5)
    · exact hs3
  try clear_value s4
  extract_lets -merge -underBinder +onlyGivenNames s6
  have hs6 : Kept a s6 := by
    unfold s6
    refine ite_of (P := Kept a) (fun _ => ?_) (fun _ => ?_)
    · exact State.giveBack_kept hs4
    · exact hs4
  try clear_value s6
  extract_lets -merge -underBinder +onlyGivenNames s7
  have hs7 : Kept a s7 := by
    unfold s7
    split
    · exact State.retire_kept (State.onTer_kept hs6)
    · exact hs6
  try clear_value s7
  extract_lets -merge -underBinder +onlyGivenNames s8
  have hs8 : Kept a s8 := State.wr_kept hs7
  try clear_value s8
  exact State.onTer_kept (State.attTide_kept hs8)

theorem State.phasesNext_kept (h : Kept a s) : Kept a (State.phasesNext s) := by
  unfold State.phasesNext
  refine foldl_of (P := Kept a) ?_ (fun _ _ k1 => ?_)
  · exact h
  · split
    · exact State.onStn_kept (State.wr_kept k1)
    · exact k1

theorem State.freshStation_kept (h : Kept a s) {t p sl} : Kept a (State.freshStation s t p sl) := by
  unfold State.freshStation
  extract_lets -merge -underBinder +onlyGivenNames s1
  have hs1 : Kept a s1 := State.wrs_kept (State.restore_kept h)
  clear_value s1
  extract_lets -merge -underBinder +onlyGivenNames s2
  have hs2 : Kept a s2 := by
    unfold s2
    refine foldl_of (P := Kept a) ?_ (fun _ _ k3 => ?_)
    · exact hs1
    · exact State.wrs_kept k3
  clear_value s2
  exact State.onStn_kept hs2

theorem State.startSlice_kept (h : Kept a s) {t p go} : Kept a (State.startSlice s t p go) := by
  unfold State.startSlice
  split
  · exact h
  · extract_lets -merge -underBinder +onlyGivenNames s1
    have hs1 : Kept a s1 := State.freshStation_kept h
    clear_value s1
    refine ite_of (P := Kept a) (fun _ => ?_) (fun _ => ?_)
    · exact State.wr_kept hs1
    · refine ite_of (P := Kept a) (fun _ => ?_) (fun _ => ?_)
      · extract_lets -merge -underBinder +onlyGivenNames v2 s3
        have hs3 : Kept a s3 := by
          unfold s3
          refine ite_of (P := Kept a) (fun _ => ?_) (fun _ => ?_)
          · exact hs1
          · exact State.loadCurves_kept hs1
        clear_value s3
        extract_lets -merge -underBinder +onlyGivenNames s4
        have hs4 : Kept a s4 := State.loadReserve_kept hs3
        clear_value s4
        extract_lets -merge -underBinder +onlyGivenNames src5 s6
        have hs6 : Kept a s6 := State.freshStation_kept (State.setStn_kept hs4)
        clear_value s6
        exact State.expRestart_kept (State.wr_kept hs6)
      · exact State.expRestart_kept hs1

theorem State.startSlices_kept (h : Kept a s) : Kept a (State.startSlices s) := by
  unfold State.startSlices
  refine foldl_of (P := Kept a) ?_ (fun _ _ k1 => ?_)
  · exact h
  · split
    · refine ite_of (P := Kept a) (fun _ => ?_) (fun _ => ?_)
      · exact k1
      · exact State.startSlice_kept k1
    · exact k1

theorem State.holdSets_kept (h : Kept a s) : Kept a (State.holdSets s) := by
  unfold State.holdSets
  refine foldl_of (P := Kept a) ?_ (fun _ _ k1 => ?_)
  · exact h
  · exact State.onSet_kept k1

theorem State.waitingVersions_kept (h : Kept a s) : Kept a (State.waitingVersions s) := by
  unfold State.waitingVersions
  refine foldl_of (P := Kept a) ?_ (fun _ _ k1 => ?_)
  · exact h
  · exact State.switchBinds_kept k1

theorem State.newVersions_kept (h : Kept a s) {lost} : Kept a (State.newVersions s lost) := by
  unfold State.newVersions
  refine foldl_of (P := Kept a) ?_ (fun _ _ k1 => ?_)
  · exact h
  · exact State.switchBinds_kept k1

theorem State.laterObjs_kept (h : Kept a s) : Kept a (State.laterObjs s) := by
  unfold State.laterObjs
  extract_lets -merge -underBinder +onlyGivenNames l1
  refine foldl_of (P := Kept a) ?_ (fun _ _ k2 => ?_)
  · apply Kept.keepF h; exact fun _ => rfl
  · exact State.applyObj_kept k2

theorem State.trainRepeats_kept (h : Kept a s) (h2x : Kept a s2x) {s2x} : Kept a (State.trainRepeats s s2x) := by
  unfold State.trainRepeats
  refine foldl_of (P := Kept a) ?_ (fun _ _ k1 => ?_)
  · exact h
  · exact State.bump_kept k1

theorem State.ghObjs_kept (h : Kept a s) {lost} : Kept a (State.ghObjs s lost) := by
  unfold State.ghObjs
  extract_lets -merge -underBinder +onlyGivenNames src1 s2
  have hs2 : Kept a s2 := by
    unfold s2
    unfold src1; apply Kept.keepF h; exact fun _ => rfl
  clear_value s2
  refine ite_of (P := Kept a) (fun _ => ?_) (fun _ => ?_)
  · exact hs2
  · extract_lets -merge -underBinder +onlyGivenNames l3
    refine foldl_of (P := Kept a) ?_ (fun _ _ k4 => ?_)
    · apply Kept.keepF hs2; exact fun _ => rfl
    · exact State.applyObj_kept k4

theorem State.commitTide_kept (h : Kept a s) (h2x : Kept a s2x) {s2x n} : Kept a (State.commitTide s s2x n) := by
  unfold State.commitTide
  extract_lets -merge -underBinder +onlyGivenNames s1
  have hs1 : Kept a s1 := State.applyDue_kept (State.resetStopped_kept h h2x) h2x
  clear_value s1
  extract_lets -merge -underBinder +onlyGivenNames s2
  have hs2 : Kept a s2 := State.releaseStreams_kept hs1 h2x
  clear_value s2
  extract_lets -merge -underBinder +onlyGivenNames s3
  have hs3 : Kept a s3 := State.aesOuts_kept (State.audOutputs_kept hs2)
  clear_value s3
  exact State.trainRepeats_kept hs3 h2x

theorem State.changeSets_kept (h : Kept a s) : Kept a (State.changeSets s) := by
  unfold State.changeSets
  extract_lets -merge -underBinder +onlyGivenNames s1
  have hs1 : Kept a s1 := by
    unfold s1
    refine foldl_of (P := Kept a) ?_ (fun _ _ k2 => ?_)
    · exact State.laterObjs_kept h
    · exact State.terBoundary_kept k2
  clear_value s1
  extract_lets -merge -underBinder +onlyGivenNames s3
  have hs3 : Kept a s3 := by
    unfold s3
    refine foldl_of (P := Kept a) ?_ (fun _ _ k4 => ?_)
    · exact hs1
    · exact State.heldFlip_kept k4
  clear_value s3
  extract_lets -merge -underBinder +onlyGivenNames s5
  have hs5 : Kept a s5 := State.clearKeys_kept (State.removeSets_kept hs3)
  clear_value s5
  exact State.countRows_kept (State.phasesNext_kept (State.switchSets_kept (State.assignSets_kept (State.waitingVersions_kept hs5))))

theorem State.beginTide_kept (h : Kept a s) (h2x : Kept a s2x) {s2x ran} : Kept a (State.beginTide s s2x ran) := by
  unfold State.beginTide
  extract_lets -merge -underBinder +onlyGivenNames lost1 s2
  have hs2 : Kept a s2 := State.newVersions_kept (State.gateBoundary_kept (State.ghObjs_kept h))
  clear_value s2
  extract_lets -merge -underBinder +onlyGivenNames s3
  have hs3 : Kept a s3 := State.holdSets_kept (State.freeOldLayers_kept (State.closeInplace_kept hs2))
  clear_value s3
  extract_lets -merge -underBinder +onlyGivenNames s4
  have hs4 : Kept a s4 := State.vinBoundary_kept (State.audBoundary_kept (State.dmaFlags_kept (State.startSlices_kept hs3)))
  clear_value s4
  extract_lets -merge -underBinder +onlyGivenNames r5
  have hr5 : Kept a r5.2 := State.ringBoundary_kept hs4
  clear_value r5
  extract_lets -merge -underBinder +onlyGivenNames s6
  have hs6 : Kept a s6 := by
    unfold s6
    refine foldl_of (P := Kept a) ?_ (fun _ _ k7 => ?_)
    · exact hr5
    · extract_lets -merge -underBinder +onlyGivenNames p8 c9
      split
      · exact k7
      · exact State.haltConsumers_kept (State.wr_kept (State.onStn_kept k7))
  clear_value s6
  extract_lets -merge -underBinder +onlyGivenNames s10
  have hs10 : Kept a s10 := State.poolTide_kept (State.stageParams_kept hs6)
  clear_value s10
  exact State.checkBooks_kept hs10

theorem State.stopTides_kept (h : Kept a s) : Kept a (State.stopTides s) := by
  unfold State.stopTides
  extract_lets -merge -underBinder +onlyGivenNames s1
  have hs1 : Kept a s1 := by
    unfold s1
    refine foldl_of (P := Kept a) ?_ (fun _ _ k2 => ?_)
    · exact h
    · refine ite_of (P := Kept a) (fun _ => ?_) (fun _ => ?_)
      · exact State.wr_kept k2
      · exact k2
  clear_value s1
  extract_lets -merge -underBinder +onlyGivenNames s3
  have hs3 : Kept a s3 := by
    unfold s3
    refine foldl_of (P := Kept a) ?_ (fun _ _ k4 => ?_)
    · exact hs1
    · refine ite_of (P := Kept a) (fun _ => ?_) (fun _ => ?_)
      · exact State.onSet_kept k4
      · exact k4
  clear_value s3
  exact State.generatorStop_kept (State.tideAnswers_kept hs3)

theorem State.tideBoundary_kept (h : Kept a s) : Kept a (State.tideBoundary s) := by
  unfold State.tideBoundary
  refine ite_of (P := Kept a) (fun _ => ?_) (fun _ => ?_)
  · exact h
  · extract_lets -merge -underBinder +onlyGivenNames ran1 n2 ended3
    have hended3 : Kept a ended3 := by
      unfold ended3
      refine ite_of (P := Kept a) (fun _ => ?_) (fun _ => ?_)
      · exact State.audClose_kept (State.commitWindow_kept h)
      · exact h
    clear_value ended3
    extract_lets -merge -underBinder +onlyGivenNames s4
    have hs4 : Kept a s4 := State.advanceTide_kept hended3
    clear_value s4
    extract_lets -merge -underBinder +onlyGivenNames s5
    have hs5 : Kept a s5 := by
      unfold s5
      refine ite_of (P := Kept a) (fun _ => ?_) (fun _ => ?_)
      · exact State.commitTide_kept hs4 hended3
      · exact State.applyDue_kept hs4 hended3
    clear_value s5
    extract_lets -merge -underBinder +onlyGivenNames s6
    have hs6 : Kept a s6 := State.beginTide_kept (State.changeSets_kept hs5) hended3
    clear_value s6
    refine ite_of (P := Kept a) (fun _ => ?_) (fun _ => ?_)
    · exact hs6
    · exact State.stopTides_kept hs6

theorem execTideBoundary_kept (h : Kept a s) : ResKept a (execTideBoundary s) := by
  unfold execTideBoundary
  exact ResKept.next (State.tideBoundary_kept h)

end Sys2Proof.Machine
end

