-- ==== Sys2Proof/Laws/KeptBus.lean ====
section
/-! SUPPORT. What the operations of Machine/Bus.lean keep. -/

namespace Sys2Proof.Machine

variable {a s : State}

theorem State.answered_kept (h : Kept a s) {r} : Kept a (State.answered s r) := by
  unfold State.answered
  apply Kept.keepF h; exact fun _ => rfl

theorem execUnalignedBar0Access_kept (h : Kept a s) {off size} : ResKept a (execUnalignedBar0Access off size s) := by
  unfold execUnalignedBar0Access
  refine ResKept.next ?_
  refine ite_of (P := Kept a) (fun _ => ?_) (fun _ => ?_)
  · exact h
  · exact State.answered_kept h

theorem State.readClears_kept (h : Kept a s) {off} : Kept a (State.readClears s off) := by
  unfold State.readClears
  refine foldl_of (P := Kept a) ?_ (fun _ _ k1 => ?_)
  · exact h
  · refine ite_of (P := Kept a) (fun _ => ?_) (fun _ => ?_)
    · exact State.wr_kept k1
    · exact k1

theorem State.readLow_kept (h : Kept a s) {r off} : Kept a (State.readLow s r off) := by
  unfold State.readLow
  extract_lets -merge -underBinder +onlyGivenNames v1 s2
  have hs2 : Kept a s2 := by
    unfold s2
    split
    · apply Kept.keepF h; exact fun _ => rfl
    · exact h
  clear_value s2
  exact State.answered_kept (State.readClears_kept hs2)

theorem State.configWrite_kept (h : Kept a s) {i w} : Kept a (State.configWrite s i w) := by
  unfold State.configWrite
  refine ite_of (P := Kept a) (fun _ => ?_) (fun _ => ?_)
  · apply Kept.keepF h; exact fun _ => rfl
  · exact h

theorem State.read32_kept (h : Kept a s) {sp r i} {f : Sys2Proof.Machine.State → Sys2Proof.Machine.State} (hf : ∀ y0, Kept a y0 → Kept a (f y0)) : Kept a (State.read32 s sp r i f) := by
  unfold State.read32
  refine ite_of (P := Kept a) (fun _ => ?_) (fun _ => ?_)
  · refine ite_of (P := Kept a) (fun _ => ?_) (fun _ => ?_)
    · exact State.answered_kept h
    · exact h
  · split
    · refine ite_of (P := Kept a) (fun _ => ?_) (fun _ => ?_)
      · exact State.answered_kept h
      · exact h
    · refine ite_of (P := Kept a) (fun _ => ?_) (fun _ => ?_)
      · exact State.answered_kept h
      · exact h
    · refine ite_of (P := Kept a) (fun _ => ?_) (fun _ => ?_)
      · exact State.answered_kept (State.addrError_kept h)
      · exact hf _ (h)

theorem execReg64LowRead_kept (h : Kept a s) {r ax} : ResKept a (execReg64LowRead r ax s) := by
  unfold execReg64LowRead
  refine ResKept.next ?_
  refine State.read32_kept h (fun _ k1 => ?_)
  exact State.readLow_kept k1

theorem State.readHigh_kept (h : Kept a s) {r off} : Kept a (State.readHigh s r off) := by
  unfold State.readHigh
  split
  · extract_lets -merge -underBinder +onlyGivenNames v1
    refine ite_of (P := Kept a) (fun _ => ?_) (fun _ => ?_)
    · exact State.answered_kept (State.readClears_kept h)
    · extract_lets -merge -underBinder +onlyGivenNames src2 s3
      have hs3 : Kept a s3 := by
        unfold s3
        unfold src2; apply Kept.keepF h; exact fun _ => rfl
      clear_value s3
      exact State.answered_kept (State.readClears_kept hs3)
  · exact State.readLow_kept h

theorem execReg64HighRead_kept (h : Kept a s) {r i} : ResKept a (execReg64HighRead r i s) := by
  unfold execReg64HighRead
  refine ResKept.next ?_
  refine State.read32_kept h (fun _ k1 => ?_)
  exact State.readHigh_kept k1

theorem State.plainWrite_kept (h : Kept a s) {off w} : Kept a (State.plainWrite s off w) := by
  unfold State.plainWrite
  refine foldl_of (P := Kept a) ?_ (fun _ _ k1 => ?_)
  · exact h
  · extract_lets -merge -underBinder +onlyGivenNames v2
    split
    · exact State.wr_kept k1
    · exact State.wr_kept k1
    · exact k1

theorem State.enableWrite_kept (h : Kept a s) {off w} : Kept a (State.enableWrite s off w) := by
  unfold State.enableWrite
  extract_lets -merge -underBinder +onlyGivenNames t1
  have ht1 : Kept a t1 := State.plainWrite_kept h
  clear_value t1
  split
  · refine ite_of (P := Kept a) (fun _ => ?_) (fun _ => ?_)
    · exact State.raise_kept ht1
    · exact ht1
  · exact ht1

theorem State.plainDerive_kept (h : Kept a s) {off w} : Kept a (State.plainDerive s off w) := by
  unfold State.plainDerive
  exact State.rederive_kept (State.plainWrite_kept h)

theorem State.ghCtrl_kept (h : Kept a s) {w} : Kept a (State.ghCtrl s w) := by
  unfold State.ghCtrl
  extract_lets -merge -underBinder +onlyGivenNames n1
  have hn1 : Kept a n1 := State.takeFields_kept h
  clear_value n1
  refine State.rederive_kept ?_
  refine ite_of (P := Kept a) (fun _ => ?_) (fun _ => ?_)
  · exact State.wr_kept h
  · exact hn1

theorem State.ghHost_kept (h : Kept a s) {w} : Kept a (State.ghHost s w) := by
  unfold State.ghHost
  extract_lets -merge -underBinder +onlyGivenNames s1
  have hs1 : Kept a s1 := State.takeFields_kept h
  clear_value s1
  refine ite_of (P := Kept a) (fun _ => ?_) (fun _ => ?_)
  · exact State.wr_kept (State.doorbell_kept hs1)
  · exact hs1

theorem State.tierCtrl_kept (h : Kept a s) {w} : Kept a (State.tierCtrl s w) := by
  unfold State.tierCtrl
  extract_lets -merge -underBinder +onlyGivenNames s1
  have hs1 : Kept a s1 := by
    unfold s1
    refine ite_of (P := Kept a) (fun _ => ?_) (fun _ => ?_)
    · exact State.wr_kept h
    · exact h
  clear_value s1
  extract_lets -merge -underBinder +onlyGivenNames n2
  have hn2 : Kept a n2 := State.takeFields_kept hs1
  clear_value n2
  refine State.rederive_kept ?_
  refine ite_of (P := Kept a) (fun _ => ?_) (fun _ => ?_)
  · exact State.wr_kept hs1
  · exact hn2

theorem State.clientWrite_kept (h : Kept a s) {c off w} : Kept a (State.clientWrite s c off w) := by
  unfold State.clientWrite
  extract_lets -merge -underBinder +onlyGivenNames n1
  have hn1 : Kept a n1 := State.plainWrite_kept h
  clear_value n1
  extract_lets -merge -underBinder +onlyGivenNames sum2
  refine ite_of (P := Kept a) (fun _ => ?_) (fun _ => ?_)
  · exact State.wr_kept h
  · exact hn1

theorem State.psSet_kept (h : Kept a s) {f v areas} : Kept a (State.psSet s f v areas) := by
  unfold State.psSet
  extract_lets -merge -underBinder +onlyGivenNames n1
  have hn1 : Kept a n1 := State.wr_kept h
  clear_value n1
  extract_lets -merge -underBinder +onlyGivenNames ok2
  refine ite_of (P := Kept a) (fun _ => ?_) (fun _ => ?_)
  · exact State.wr_kept h
  · extract_lets -merge -underBinder +onlyGivenNames n3
    have hn3 : Kept a n3 := by
      unfold n3
      refine ite_of (P := Kept a) (fun _ => ?_) (fun _ => ?_)
      · exact State.wrs_kept hn1
      · exact hn1
    clear_value n3
    refine State.books_kept ?_
    apply Kept.keepF hn3; exact fun _ => rfl

theorem State.psCmd_kept (h : Kept a s) {w} : Kept a (State.psCmd s w) := by
  unfold State.psCmd
  extract_lets -merge -underBinder +onlyGivenNames s1
  have hs1 : Kept a s1 := State.takeFields_kept h
  clear_value s1
  extract_lets -merge -underBinder +onlyGivenNames arg2
  refine ite_of (P := Kept a) (fun _ => ?_) (fun _ => ?_)
  · exact hs1
  · split
    · exact State.psInit_kept hs1
    · exact State.psAlloc_kept hs1
    · exact State.psShare_kept hs1
    · exact State.psFree_kept hs1
    · exact State.psReserve_kept hs1
    · exact State.psUnreserve_kept hs1
    · exact State.psPoison_kept hs1
    · exact State.psPoison_kept hs1

theorem State.psInv_kept (h : Kept a s) {w} : Kept a (State.psInv s w) := by
  unfold State.psInv
  refine ite_of (P := Kept a) (fun _ => ?_) (fun _ => ?_)
  · exact State.labDrop_kept h
  · exact h

theorem State.dmaRing_kept (h : Kept a s) {c w} : Kept a (State.dmaRing s c w) := by
  unfold State.dmaRing
  extract_lets -merge -underBinder +onlyGivenNames s1
  have hs1 : Kept a s1 := State.takeFields_kept h
  clear_value s1
  extract_lets -merge -underBinder +onlyGivenNames s2
  have hs2 : Kept a s2 := by
    unfold s2
    refine ite_of (P := Kept a) (fun _ => ?_) (fun _ => ?_)
    · exact State.wr_kept hs1
    · exact hs1
  clear_value s2
  refine ite_of (P := Kept a) (fun _ => ?_) (fun _ => ?_)
  · extract_lets -merge -underBinder +onlyGivenNames x3
    have hx3 : Kept a x3.2 := State.free_kept hs2
    clear_value x3
    exact State.dmaAbort_kept hx3
  · exact hs2

theorem State.vinCtxWrite_kept (h : Kept a s) {c x off w} : Kept a (State.vinCtxWrite s c x off w) := by
  unfold State.vinCtxWrite
  refine ite_of (P := Kept a) (fun _ => ?_) (fun _ => ?_)
  · exact State.bump_kept h
  · refine ite_of (P := Kept a) (fun _ => ?_) (fun _ => ?_)
    · exact State.vinWrite_kept h
    · exact State.plainWrite_kept h

theorem State.winCtrl_kept (h : Kept a s) {win off w} : Kept a (State.winCtrl s win off w) := by
  unfold State.winCtrl
  extract_lets -merge -underBinder +onlyGivenNames s1
  have hs1 : Kept a s1 := State.plainWrite_kept h
  clear_value s1
  refine ite_of (P := Kept a) (fun _ => ?_) (fun _ => ?_)
  · exact hs1
  · exact State.winClear_kept hs1

theorem State.coreWrite_kept (h : Kept a s) {r k x w} : Kept a (State.coreWrite s r k x w) := by
  unfold State.coreWrite
  refine ite_of (P := Kept a) (fun _ => ?_) (fun _ => ?_)
  · exact h
  · refine ite_of (P := Kept a) (fun _ => ?_) (fun _ => ?_)
    · extract_lets -merge -underBinder +onlyGivenNames n1 s2
      have hs2 : Kept a s2 := by
        unfold s2
        refine ite_of (P := Kept a) (fun _ => ?_) (fun _ => ?_)
        · exact h
        · exact State.wr_kept h
      clear_value s2
      refine ite_of (P := Kept a) (fun _ => ?_) (fun _ => ?_)
      · exact State.restartCore_kept hs2
      · exact hs2
    · refine ite_of (P := Kept a) (fun _ => ?_) (fun _ => ?_)
      · apply Kept.keepF h; exact fun _ => rfl
      · exact h

theorem State.updCtrl_kept (h : Kept a s) {w} : Kept a (State.updCtrl s w) := by
  unfold State.updCtrl
  extract_lets -merge -underBinder +onlyGivenNames s1
  have hs1 : Kept a s1 := State.wr_kept h
  clear_value s1
  extract_lets -merge -underBinder +onlyGivenNames s2
  have hs2 : Kept a s2 := by
    unfold s2
    refine ite_of (P := Kept a) (fun _ => ?_) (fun _ => ?_)
    · exact State.updAbort_kept hs1
    · exact hs1
  clear_value s2
  extract_lets -merge -underBinder +onlyGivenNames s3
  have hs3 : Kept a s3 := by
    unfold s3
    refine ite_of (P := Kept a) (fun _ => ?_) (fun _ => ?_)
    · exact State.updStart_kept hs2
    · exact hs2
  clear_value s3
  extract_lets -merge -underBinder +onlyGivenNames s4
  have hs4 : Kept a s4 := by
    unfold s4
    refine ite_of (P := Kept a) (fun _ => ?_) (fun _ => ?_)
    · exact State.updChunk_kept hs3
    · exact hs3
  clear_value s4
  extract_lets -merge -underBinder +onlyGivenNames s5
  have hs5 : Kept a s5 := by
    unfold s5
    refine ite_of (P := Kept a) (fun _ => ?_) (fun _ => ?_)
    · exact State.updCommit_kept hs4
    · exact hs4
  clear_value s5
  refine ite_of (P := Kept a) (fun _ => ?_) (fun _ => ?_)
  · exact State.lighthouseAsked_kept hs5
  · exact hs5

theorem State.queueWrite_kept (h : Kept a s) {q x off w} : Kept a (State.queueWrite s q x off w) := by
  unfold State.queueWrite
  refine ite_of (P := Kept a) (fun _ => ?_) (fun _ => ?_)
  · refine ite_of (P := Kept a) (fun _ => ?_) (fun _ => ?_)
    · exact State.queueOpenWrite_kept h
    · exact State.queueClose_kept h
  · refine ite_of (P := Kept a) (fun _ => ?_) (fun _ => ?_)
    · exact State.sqTail_kept h
    · refine ite_of (P := Kept a) (fun _ => ?_) (fun _ => ?_)
      · exact State.cqHead_kept h
      · exact State.plainWrite_kept h

theorem State.stnWrite_kept (h : Kept a s) {t p x off w} : Kept a (State.stnWrite s t p x off w) := by
  unfold State.stnWrite
  refine ite_of (P := Kept a) (fun _ => ?_) (fun _ => ?_)
  · exact State.onStn_kept h
  · refine ite_of (P := Kept a) (fun _ => ?_) (fun _ => ?_)
    · exact State.arrayRepair_kept h
    · refine ite_of (P := Kept a) (fun _ => ?_) (fun _ => ?_)
      · exact State.memPass_kept h
      · refine ite_of (P := Kept a) (fun _ => ?_) (fun _ => ?_)
        · exact h
        · exact State.plainWrite_kept h

theorem State.terWrite_kept (h : Kept a s) {t x off w} : Kept a (State.terWrite s t x off w) := by
  unfold State.terWrite
  refine ite_of (P := Kept a) (fun _ => ?_) (fun _ => ?_)
  · exact State.tstorePages_kept h
  · refine ite_of (P := Kept a) (fun _ => ?_) (fun _ => ?_)
    · extract_lets -merge -underBinder +onlyGivenNames s1
      have hs1 : Kept a s1 := by
        unfold s1
        refine ite_of (P := Kept a) (fun _ => ?_) (fun _ => ?_)
        · exact State.wr_kept h
        · exact h
      clear_value s1
      exact State.takeCtrl_kept hs1
    · refine ite_of (P := Kept a) (fun _ => ?_) (fun _ => ?_)
      · exact State.tflagForce_kept h
      · refine ite_of (P := Kept a) (fun _ => ?_) (fun _ => ?_)
        · exact State.frameWrite_kept h
        · exact State.plainWrite_kept h

theorem State.lowBlocks_kept (h : Kept a s) {off w} : Kept a (State.lowBlocks s off w) := by
  unfold State.lowBlocks
  refine ite_of (P := Kept a) (fun _ => ?_) (fun _ => ?_)
  · refine ite_of (P := Kept a) (fun _ => ?_) (fun _ => ?_)
    · exact State.askReset_kept h
    · exact h
  · refine ite_of (P := Kept a) (fun _ => ?_) (fun _ => ?_)
    · exact State.idleAnswers_kept (State.tideCtrlWrite_kept h)
    · refine ite_of (P := Kept a) (fun _ => ?_) (fun _ => ?_)
      · exact State.setTide_kept h
      · refine ite_of (P := Kept a) (fun _ => ?_) (fun _ => ?_)
        · exact State.ghCtrl_kept h
        · refine ite_of (P := Kept a) (fun _ => ?_) (fun _ => ?_)
          · exact State.ghHost_kept h
          · refine ite_of (P := Kept a) (fun _ => ?_) (fun _ => ?_)
            · exact State.psSet_kept h
            · refine ite_of (P := Kept a) (fun _ => ?_) (fun _ => ?_)
              · exact State.psSet_kept h
              · refine ite_of (P := Kept a) (fun _ => ?_) (fun _ => ?_)
                · exact State.psCmd_kept h
                · refine ite_of (P := Kept a) (fun _ => ?_) (fun _ => ?_)
                  · exact State.psInv_kept h
                  · refine ite_of (P := Kept a) (fun _ => ?_) (fun _ => ?_)
                    · extract_lets -merge -underBinder +onlyGivenNames c1 x2
                      refine ite_of (P := Kept a) (fun _ => ?_) (fun _ => ?_)
                      · exact State.dmaRing_kept h
                      · refine ite_of (P := Kept a) (fun _ => ?_) (fun _ => ?_)
                        · exact State.dmaProd_kept h
                        · exact State.plainWrite_kept h
                    · refine ite_of (P := Kept a) (fun _ => ?_) (fun _ => ?_)
                      · exact State.tierCtrl_kept h
                      · refine ite_of (P := Kept a) (fun _ => ?_) (fun _ => ?_)
                        · extract_lets -merge -underBinder +onlyGivenNames x3
                          refine ite_of (P := Kept a) (fun _ => ?_) (fun _ => ?_)
                          · exact State.clientWrite_kept h
                          · exact State.plainWrite_kept h
                        · refine ite_of (P := Kept a) (fun _ => ?_) (fun _ => ?_)
                          · exact State.protWrite_kept h
                          · refine ite_of (P := Kept a) (fun _ => ?_) (fun _ => ?_)
                            · extract_lets -merge -underBinder +onlyGivenNames s4
                              have hs4 : Kept a s4 := by
                                unfold s4
                                refine ite_of (P := Kept a) (fun _ => ?_) (fun _ => ?_)
                                · exact State.wr_kept h
                                · exact h
                              clear_value s4
                              refine ite_of (P := Kept a) (fun _ => ?_) (fun _ => ?_)
                              · exact State.elogPop_kept hs4
                              · exact hs4
                            · exact State.enableWrite_kept h

theorem State.highBlocks_kept (h : Kept a s) {r off w} : Kept a (State.highBlocks s r off w) := by
  unfold State.highBlocks
  refine ite_of (P := Kept a) (fun _ => ?_) (fun _ => ?_)
  · extract_lets -merge -underBinder +onlyGivenNames p1 x2
    refine ite_of (P := Kept a) (fun _ => ?_) (fun _ => ?_)
    · exact State.vinPortWrite_kept h
    · refine ite_of (P := Kept a) (fun _ => ?_) (fun _ => ?_)
      · exact State.vinPortWrite_kept h
      · exact State.plainWrite_kept h
  · refine ite_of (P := Kept a) (fun _ => ?_) (fun _ => ?_)
    · exact State.vinMux_kept h
    · refine ite_of (P := Kept a) (fun _ => ?_) (fun _ => ?_)
      · exact State.vinCtxWrite_kept h
      · refine ite_of (P := Kept a) (fun _ => ?_) (fun _ => ?_)
        · exact State.audClkWrite_kept h
        · refine ite_of (P := Kept a) (fun _ => ?_) (fun _ => ?_)
          · exact State.leaveBypass_kept (State.plainDerive_kept h)
          · refine ite_of (P := Kept a) (fun _ => ?_) (fun _ => ?_)
            · exact State.ringForce_kept h
            · refine ite_of (P := Kept a) (fun _ => ?_) (fun _ => ?_)
              · exact State.winCtrl_kept h
              · refine ite_of (P := Kept a) (fun _ => ?_) (fun _ => ?_)
                · exact State.modeWrite_kept h
                · refine ite_of (P := Kept a) (fun _ => ?_) (fun _ => ?_)
                  · exact State.negotiate_kept h
                  · refine ite_of (P := Kept a) (fun _ => ?_) (fun _ => ?_)
                    · exact State.coreWrite_kept h
                    · refine ite_of (P := Kept a) (fun _ => ?_) (fun _ => ?_)
                      · exact State.fwLoad_kept h
                      · refine ite_of (P := Kept a) (fun _ => ?_) (fun _ => ?_)
                        · exact State.eventRing_kept h
                        · refine ite_of (P := Kept a) (fun _ => ?_) (fun _ => ?_)
                          · exact State.eventHead_kept h
                          · refine ite_of (P := Kept a) (fun _ => ?_) (fun _ => ?_)
                            · exact State.queueWrite_kept h
                            · refine ite_of (P := Kept a) (fun _ => ?_) (fun _ => ?_)
                              · refine ite_of (P := Kept a) (fun _ => ?_) (fun _ => ?_)
                                · exact State.fqPop_kept h
                                · exact h
                              · refine ite_of (P := Kept a) (fun _ => ?_) (fun _ => ?_)
                                · exact State.srepWrite_kept h
                                · refine ite_of (P := Kept a) (fun _ => ?_) (fun _ => ?_)
                                  · exact State.plainDerive_kept h
                                  · refine ite_of (P := Kept a) (fun _ => ?_) (fun _ => ?_)
                                    · exact State.pwrCtrl_kept h
                                    · refine ite_of (P := Kept a) (fun _ => ?_) (fun _ => ?_)
                                      · exact State.mbxGo_kept h
                                      · refine ite_of (P := Kept a) (fun _ => ?_) (fun _ => ?_)
                                        · exact State.updCtrl_kept h
                                        · refine ite_of (P := Kept a) (fun _ => ?_) (fun _ => ?_)
                                          · apply Kept.keepF h; exact fun _ => rfl
                                          · exact State.enableWrite_kept h

theorem State.wordWrite_kept (h : Kept a s) {r off w} : Kept a (State.wordWrite s r off w) := by
  unfold State.wordWrite
  refine ite_of (P := Kept a) (fun _ => ?_) (fun _ => ?_)
  · exact State.lowBlocks_kept h
  · refine ite_of (P := Kept a) (fun _ => ?_) (fun _ => ?_)
    · exact State.highBlocks_kept h
    · extract_lets -merge -underBinder +onlyGivenNames t1 x2
      refine ite_of (P := Kept a) (fun _ => ?_) (fun _ => ?_)
      · exact h
      · refine ite_of (P := Kept a) (fun _ => ?_) (fun _ => ?_)
        · exact State.stnWrite_kept h
        · refine ite_of (P := Kept a) (fun _ => ?_) (fun _ => ?_)
          · exact State.terWrite_kept h
          · exact h

theorem State.aperWrite_kept (h : Kept a s) {lo hi} : Kept a (State.aperWrite s lo hi) := by
  unfold State.aperWrite
  extract_lets -merge -underBinder +onlyGivenNames blo1 en2 base3
  refine ite_of (P := Kept a) (fun _ => ?_) (fun _ => ?_)
  · exact State.wr_kept h
  · extract_lets -merge -underBinder +onlyGivenNames s4
    have hs4 : Kept a s4 := by
      unfold s4
      refine ite_of (P := Kept a) (fun _ => ?_) (fun _ => ?_)
      · exact State.wr_kept h
      · exact h
    clear_value s4
    exact State.wrs_kept hs4

theorem State.pairWrite_kept (h : Kept a s) {lo held hi} : Kept a (State.pairWrite s lo held hi) := by
  unfold State.pairWrite
  extract_lets -merge -underBinder +onlyGivenNames wide1
  refine ite_of (P := Kept a) (fun _ => ?_) (fun _ => ?_)
  · exact State.applyWrite_kept h
  · refine ite_of (P := Kept a) (fun _ => ?_) (fun _ => ?_)
    · exact State.setTide_kept h
    · refine ite_of (P := Kept a) (fun _ => ?_) (fun _ => ?_)
      · refine State.wr_kept ?_
        apply Kept.keepF h; exact fun _ => rfl
      · refine ite_of (P := Kept a) (fun _ => ?_) (fun _ => ?_)
        · exact State.psSet_kept h
        · refine ite_of (P := Kept a) (fun _ => ?_) (fun _ => ?_)
          · exact State.psSet_kept h
          · refine ite_of (P := Kept a) (fun _ => ?_) (fun _ => ?_)
            · exact State.psSet_kept h
            · refine ite_of (P := Kept a) (fun _ => ?_) (fun _ => ?_)
              · exact State.psSet_kept h
              · refine ite_of (P := Kept a) (fun _ => ?_) (fun _ => ?_)
                · exact State.aperWrite_kept h
                · refine ite_of (P := Kept a) (fun _ => ?_) (fun _ => ?_)
                  · refine State.plainWrite_kept ?_
                    split
                    · exact State.plainWrite_kept h
                    · exact h
                  · split
                    · exact State.wr_kept h
                    · exact h

theorem State.coreFault_kept (h : Kept a s) {k} : Kept a (State.coreFault s k) := by
  unfold State.coreFault
  exact State.restartCore_kept (State.flag_kept (State.bump_kept h))

theorem State.guarded_kept (h : Kept a s) {r off} {f : Sys2Proof.Machine.State → Sys2Proof.Machine.State} (hf : ∀ y0, Kept a y0 → Kept a (f y0)) : Kept a (State.guarded s r off f) := by
  unfold State.guarded
  refine ite_of (P := Kept a) (fun _ => ?_) (fun _ => ?_)
  · refine ite_of (P := Kept a) (fun _ => ?_) (fun _ => ?_)
    · exact State.answered_kept h
    · exact h
  · refine ite_of (P := Kept a) (fun _ => ?_) (fun _ => ?_)
    · exact State.answered_kept (State.addrError_kept h)
    · refine ite_of (P := Kept a) (fun _ => ?_) (fun _ => ?_)
      · exact State.answered_kept (State.coreFault_kept h)
      · refine State.answered_kept ?_
        exact hf _ (h)

theorem State.holdLow_kept (h : Kept a s) {r lo w} : Kept a (State.holdLow s r lo w) := by
  unfold State.holdLow
  apply Kept.keepF h; exact fun _ => rfl

theorem State.putHigh_kept (h : Kept a s) {r lo w} : Kept a (State.putHigh s r lo w) := by
  unfold State.putHigh
  extract_lets -merge -underBinder +onlyGivenNames h1 src2 s3
  have hs3 : Kept a s3 := by
    unfold s3
    unfold src2; apply Kept.keepF h; exact fun _ => rfl
  clear_value s3
  exact State.pairWrite_kept hs3

theorem State.anyWrite_kept (h : Kept a s) {r off w} : Kept a (State.anyWrite s r off w) := by
  unfold State.anyWrite
  split
  · exact State.holdLow_kept h
  · exact State.putHigh_kept h
  · exact State.wordWrite_kept h

theorem execReg64LowWrite_kept (h : Kept a s) {r i w} : ResKept a (execReg64LowWrite r i w s) := by
  unfold execReg64LowWrite
  refine ResKept.next ?_
  refine State.guarded_kept h (fun _ k1 => ?_)
  split
  · exact State.holdLow_kept k1
  · exact k1

theorem execReg64HighWrite_kept (h : Kept a s) {r i w} : ResKept a (execReg64HighWrite r i w s) := by
  unfold execReg64HighWrite
  refine ResKept.next ?_
  refine State.guarded_kept h (fun _ k1 => ?_)
  split
  · exact State.putHigh_kept k1
  · exact k1

theorem execAperHiWrite_kept (h : Kept a s) {w} : ResKept a (execAperHiWrite w s) := by
  unfold execAperHiWrite
  refine ResKept.next ?_
  refine State.guarded_kept h (fun _ k1 => ?_)
  exact State.putHigh_kept k1

theorem State.bar4Write_kept (h : Kept a s) {i w} : Kept a (State.bar4Write s i w) := by
  unfold State.bar4Write
  refine ite_of (P := Kept a) (fun _ => ?_) (fun _ => ?_)
  · exact h
  · extract_lets -merge -underBinder +onlyGivenNames v1 src2 s3
    have hs3 : Kept a s3 := by
      unfold s3
      unfold src2; apply Kept.keepF h; exact fun _ => rfl
    clear_value s3
    refine ite_of (P := Kept a) (fun _ => ?_) (fun _ => ?_)
    · refine State.emit_kept ?_
      apply Kept.keepF hs3; exact fun _ => rfl
    · exact hs3

theorem execRegisterWrite_kept (h : Kept a s) {sp r i w} : ResKept a (execRegisterWrite sp r i w s) := by
  unfold execRegisterWrite
  refine ResKept.next ?_
  split
  · refine ite_of (P := Kept a) (fun _ => ?_) (fun _ => ?_)
    · exact State.bar4Write_kept h
    · exact h
  · refine ite_of (P := Kept a) (fun _ => ?_) (fun _ => ?_)
    · exact State.configWrite_kept h
    · exact h
  · refine State.guarded_kept h (fun _ k1 => ?_)
    exact State.anyWrite_kept k1

theorem State.bar2_kept (h : Kept a s) {read off n b} : Kept a (State.bar2 s read off n b) := by
  unfold State.bar2
  extract_lets -merge -underBinder +onlyGivenNames len1 a2
  refine ite_of (P := Kept a) (fun _ => ?_) (fun _ => ?_)
  · exact State.answered_kept h
  · refine ite_of (P := Kept a) (fun _ => ?_) (fun _ => ?_)
    · exact State.answered_kept (State.addrError_kept h)
    · refine ite_of (P := Kept a) (fun _ => ?_) (fun _ => ?_)
      · extract_lets -merge -underBinder +onlyGivenNames r3
        have hr3 : Kept a r3.2 := State.dramRead_kept h
        clear_value r3
        exact State.answered_kept hr3
      · exact State.answered_kept (State.dramWrite_kept h)

theorem execBar2Request_kept (h : Kept a s) {read off n b} : ResKept a (execBar2Request read off n b s) := by
  unfold execBar2Request
  exact ResKept.next (State.bar2_kept h)

end Sys2Proof.Machine
end

