-- ==== Sys2Proof/Laws/State.lean ====
section
/-! SUPPORT. What each named operation on the state leaves alone, one lemma per field, and what a register field reads
after a write. -/

namespace Sys2Proof.Machine

variable (s : State)

/-! ## Register fields -/

/-- A field reads what was written, cut to its width. -/
theorem State.rg_wr_same (f : Fld) (v : Nat) : (s.wr f v).rg f = v % 2 ^ f.w := by
  simp [State.rg, State.wr, KMap.get_set_same]

/-- A write leaves every field of another place alone. -/
theorem State.rg_wr_other {f g : Fld} (h : g.key ≠ f.key) (v : Nat) : (s.wr f v).rg g = s.rg g := by
  simp only [State.rg, State.wr]; rw [KMap.get_set_other _ h]

/-- The register table decides what every field reads. -/
theorem State.rg_congr {s t : State} (h : t.regs = s.regs) (f : Fld) : t.rg f = s.rg f := by
  simp only [State.rg, h]

/-- A field reads its reset value right after reset. -/
theorem State.rg_reset (f : Fld) : State.reset.rg f = f.rst % 2 ^ f.w := rfl

/-- What a field reads in a register table. -/
def regsGet (m : KMap Nat) (f : Fld) : Nat := m.get f.key f.rst % 2 ^ f.w

@[simp] theorem State.regsGet_regs (f : Fld) : regsGet s.regs f = s.rg f := id rfl

@[simp] theorem State.rg_mk {x0 x1 x2 x3 x4 x5 x6 x7 x8 x9 x10 x11 x12 x13 x14 x15 x16 x17 x18 x19 x20 x21 x22 x23 x24 x25 x26 x27 x28 x29 x30} (f : Fld) :
    State.rg (State.mk x0 x1 x2 x3 x4 x5 x6 x7 x8 x9 x10 x11 x12 x13 x14 x15 x16 x17 x18 x19 x20 x21 x22 x23 x24 x25 x26 x27 x28 x29 x30) f = regsGet x0 f := id rfl

/-- Writes of a list of fields, none of which is `g`. -/
theorem State.rg_wrs_other {g : Fld} (l : List (Fld × Nat)) (h : ∀ p ∈ l, g.key ≠ p.1.key) : (s.wrs l).rg g = s.rg g := by
  induction l generalizing s with
  | nil => rfl
  | cons p l ih =>
    have e : s.wrs (p :: l) = (s.wr p.1 p.2).wrs l := id rfl
    rw [e, ih _ fun q hq => h q (List.mem_cons_of_mem _ hq), State.rg_wr_other _ (h p List.mem_cons_self)]

@[simp] theorem State.wrs_nil : s.wrs [] = s := id rfl
@[simp] theorem State.wrs_cons (p : Fld × Nat) (l : List (Fld × Nat)) : s.wrs (p :: l) = (s.wr p.1 p.2).wrs l := id rfl

/-! ## `wrs` -/

@[simp] theorem State.wrs_mem (l : List (Fld × Nat)) : (s.wrs l).mem = s.mem := by
  induction l generalizing s with
  | nil => rfl
  | cons p l ih => exact ih _
@[simp] theorem State.wrs_hostMem (l : List (Fld × Nat)) : (s.wrs l).hostMem = s.hostMem := by
  induction l generalizing s with
  | nil => rfl
  | cons p l ih => exact ih _
@[simp] theorem State.wrs_ecc (l : List (Fld × Nat)) : (s.wrs l).ecc = s.ecc := by
  induction l generalizing s with
  | nil => rfl
  | cons p l ih => exact ih _
@[simp] theorem State.wrs_stns (l : List (Fld × Nat)) : (s.wrs l).stns = s.stns := by
  induction l generalizing s with
  | nil => rfl
  | cons p l ih => exact ih _
@[simp] theorem State.wrs_ters (l : List (Fld × Nat)) : (s.wrs l).ters = s.ters := by
  induction l generalizing s with
  | nil => rfl
  | cons p l ih => exact ih _
@[simp] theorem State.wrs_fac (l : List (Fld × Nat)) : (s.wrs l).fac = s.fac := by
  induction l generalizing s with
  | nil => rfl
  | cons p l ih => exact ih _
@[simp] theorem State.wrs_bus (l : List (Fld × Nat)) : (s.wrs l).bus = s.bus := by
  induction l generalizing s with
  | nil => rfl
  | cons p l ih => exact ih _
@[simp] theorem State.wrs_tide (l : List (Fld × Nat)) : (s.wrs l).tide = s.tide := by
  induction l generalizing s with
  | nil => rfl
  | cons p l ih => exact ih _
@[simp] theorem State.wrs_integ (l : List (Fld × Nat)) : (s.wrs l).integ = s.integ := by
  induction l generalizing s with
  | nil => rfl
  | cons p l ih => exact ih _
@[simp] theorem State.wrs_log (l : List (Fld × Nat)) : (s.wrs l).log = s.log := by
  induction l generalizing s with
  | nil => rfl
  | cons p l ih => exact ih _
@[simp] theorem State.wrs_life (l : List (Fld × Nat)) : (s.wrs l).life = s.life := by
  induction l generalizing s with
  | nil => rfl
  | cons p l ih => exact ih _
@[simp] theorem State.wrs_dict (l : List (Fld × Nat)) : (s.wrs l).dict = s.dict := by
  induction l generalizing s with
  | nil => rfl
  | cons p l ih => exact ih _
@[simp] theorem State.wrs_ef (l : List (Fld × Nat)) : (s.wrs l).ef = s.ef := by
  induction l generalizing s with
  | nil => rfl
  | cons p l ih => exact ih _
@[simp] theorem State.wrs_pins (l : List (Fld × Nat)) : (s.wrs l).pins = s.pins := by
  induction l generalizing s with
  | nil => rfl
  | cons p l ih => exact ih _
@[simp] theorem State.wrs_fw (l : List (Fld × Nat)) : (s.wrs l).fw = s.fw := by
  induction l generalizing s with
  | nil => rfl
  | cons p l ih => exact ih _
@[simp] theorem State.wrs_dram (l : List (Fld × Nat)) : (s.wrs l).dram = s.dram := by
  induction l generalizing s with
  | nil => rfl
  | cons p l ih => exact ih _
@[simp] theorem State.wrs_nand (l : List (Fld × Nat)) : (s.wrs l).nand = s.nand := by
  induction l generalizing s with
  | nil => rfl
  | cons p l ih => exact ih _
@[simp] theorem State.wrs_pool (l : List (Fld × Nat)) : (s.wrs l).pool = s.pool := by
  induction l generalizing s with
  | nil => rfl
  | cons p l ih => exact ih _
@[simp] theorem State.wrs_dma (l : List (Fld × Nat)) : (s.wrs l).dma = s.dma := by
  induction l generalizing s with
  | nil => rfl
  | cons p l ih => exact ih _
@[simp] theorem State.wrs_vin (l : List (Fld × Nat)) : (s.wrs l).vin = s.vin := by
  induction l generalizing s with
  | nil => rfl
  | cons p l ih => exact ih _
@[simp] theorem State.wrs_aud (l : List (Fld × Nat)) : (s.wrs l).aud = s.aud := by
  induction l generalizing s with
  | nil => rfl
  | cons p l ih => exact ih _
@[simp] theorem State.wrs_ring (l : List (Fld × Nat)) : (s.wrs l).ring = s.ring := by
  induction l generalizing s with
  | nil => rfl
  | cons p l ih => exact ih _
@[simp] theorem State.wrs_atts (l : List (Fld × Nat)) : (s.wrs l).atts = s.atts := by
  induction l generalizing s with
  | nil => rfl
  | cons p l ih => exact ih _
@[simp] theorem State.wrs_ps (l : List (Fld × Nat)) : (s.wrs l).ps = s.ps := by
  induction l generalizing s with
  | nil => rfl
  | cons p l ih => exact ih _
@[simp] theorem State.wrs_loader (l : List (Fld × Nat)) : (s.wrs l).loader = s.loader := by
  induction l generalizing s with
  | nil => rfl
  | cons p l ih => exact ih _
@[simp] theorem State.wrs_uptime (l : List (Fld × Nat)) : (s.wrs l).uptime = s.uptime := by
  induction l generalizing s with
  | nil => rfl
  | cons p l ih => exact ih _
@[simp] theorem State.wrs_out (l : List (Fld × Nat)) : (s.wrs l).out = s.out := by
  induction l generalizing s with
  | nil => rfl
  | cons p l ih => exact ih _
@[simp] theorem State.wrs_reply (l : List (Fld × Nat)) : (s.wrs l).reply = s.reply := by
  induction l generalizing s with
  | nil => rfl
  | cons p l ih => exact ih _
@[simp] theorem State.wrs_freeCtr (l : List (Fld × Nat)) : (s.wrs l).freeCtr = s.freeCtr := by
  induction l generalizing s with
  | nil => rfl
  | cons p l ih => exact ih _
@[simp] theorem State.wrs_pending (l : List (Fld × Nat)) : (s.wrs l).pending = s.pending := by
  induction l generalizing s with
  | nil => rfl
  | cons p l ih => exact ih _

/-! ## `wr` -/

@[simp] theorem State.wr_mem (f : Fld) (v : Nat) : (s.wr f v).mem = s.mem := id rfl
@[simp] theorem State.wr_hostMem (f : Fld) (v : Nat) : (s.wr f v).hostMem = s.hostMem := id rfl
@[simp] theorem State.wr_ecc (f : Fld) (v : Nat) : (s.wr f v).ecc = s.ecc := id rfl
@[simp] theorem State.wr_stns (f : Fld) (v : Nat) : (s.wr f v).stns = s.stns := id rfl
@[simp] theorem State.wr_ters (f : Fld) (v : Nat) : (s.wr f v).ters = s.ters := id rfl
@[simp] theorem State.wr_fac (f : Fld) (v : Nat) : (s.wr f v).fac = s.fac := id rfl
@[simp] theorem State.wr_bus (f : Fld) (v : Nat) : (s.wr f v).bus = s.bus := id rfl
@[simp] theorem State.wr_tide (f : Fld) (v : Nat) : (s.wr f v).tide = s.tide := id rfl
@[simp] theorem State.wr_integ (f : Fld) (v : Nat) : (s.wr f v).integ = s.integ := id rfl
@[simp] theorem State.wr_log (f : Fld) (v : Nat) : (s.wr f v).log = s.log := id rfl
@[simp] theorem State.wr_life (f : Fld) (v : Nat) : (s.wr f v).life = s.life := id rfl
@[simp] theorem State.wr_dict (f : Fld) (v : Nat) : (s.wr f v).dict = s.dict := id rfl
@[simp] theorem State.wr_ef (f : Fld) (v : Nat) : (s.wr f v).ef = s.ef := id rfl
@[simp] theorem State.wr_pins (f : Fld) (v : Nat) : (s.wr f v).pins = s.pins := id rfl
@[simp] theorem State.wr_fw (f : Fld) (v : Nat) : (s.wr f v).fw = s.fw := id rfl
@[simp] theorem State.wr_dram (f : Fld) (v : Nat) : (s.wr f v).dram = s.dram := id rfl
@[simp] theorem State.wr_nand (f : Fld) (v : Nat) : (s.wr f v).nand = s.nand := id rfl
@[simp] theorem State.wr_pool (f : Fld) (v : Nat) : (s.wr f v).pool = s.pool := id rfl
@[simp] theorem State.wr_dma (f : Fld) (v : Nat) : (s.wr f v).dma = s.dma := id rfl
@[simp] theorem State.wr_vin (f : Fld) (v : Nat) : (s.wr f v).vin = s.vin := id rfl
@[simp] theorem State.wr_aud (f : Fld) (v : Nat) : (s.wr f v).aud = s.aud := id rfl
@[simp] theorem State.wr_ring (f : Fld) (v : Nat) : (s.wr f v).ring = s.ring := id rfl
@[simp] theorem State.wr_atts (f : Fld) (v : Nat) : (s.wr f v).atts = s.atts := id rfl
@[simp] theorem State.wr_ps (f : Fld) (v : Nat) : (s.wr f v).ps = s.ps := id rfl
@[simp] theorem State.wr_loader (f : Fld) (v : Nat) : (s.wr f v).loader = s.loader := id rfl
@[simp] theorem State.wr_uptime (f : Fld) (v : Nat) : (s.wr f v).uptime = s.uptime := id rfl
@[simp] theorem State.wr_out (f : Fld) (v : Nat) : (s.wr f v).out = s.out := id rfl
@[simp] theorem State.wr_reply (f : Fld) (v : Nat) : (s.wr f v).reply = s.reply := id rfl
@[simp] theorem State.wr_freeCtr (f : Fld) (v : Nat) : (s.wr f v).freeCtr = s.freeCtr := id rfl
@[simp] theorem State.wr_pending (f : Fld) (v : Nat) : (s.wr f v).pending = s.pending := id rfl

/-! ## `st` -/

@[simp] theorem State.st_regs (n : Nat) (l : List Byte) : (s.st n l).regs = s.regs := id rfl
@[simp] theorem State.st_hostMem (n : Nat) (l : List Byte) : (s.st n l).hostMem = s.hostMem := id rfl
@[simp] theorem State.st_ecc (n : Nat) (l : List Byte) : (s.st n l).ecc = s.ecc := id rfl
@[simp] theorem State.st_stns (n : Nat) (l : List Byte) : (s.st n l).stns = s.stns := id rfl
@[simp] theorem State.st_ters (n : Nat) (l : List Byte) : (s.st n l).ters = s.ters := id rfl
@[simp] theorem State.st_fac (n : Nat) (l : List Byte) : (s.st n l).fac = s.fac := id rfl
@[simp] theorem State.st_bus (n : Nat) (l : List Byte) : (s.st n l).bus = s.bus := id rfl
@[simp] theorem State.st_tide (n : Nat) (l : List Byte) : (s.st n l).tide = s.tide := id rfl
@[simp] theorem State.st_integ (n : Nat) (l : List Byte) : (s.st n l).integ = s.integ := id rfl
@[simp] theorem State.st_log (n : Nat) (l : List Byte) : (s.st n l).log = s.log := id rfl
@[simp] theorem State.st_life (n : Nat) (l : List Byte) : (s.st n l).life = s.life := id rfl
@[simp] theorem State.st_dict (n : Nat) (l : List Byte) : (s.st n l).dict = s.dict := id rfl
@[simp] theorem State.st_ef (n : Nat) (l : List Byte) : (s.st n l).ef = s.ef := id rfl
@[simp] theorem State.st_pins (n : Nat) (l : List Byte) : (s.st n l).pins = s.pins := id rfl
@[simp] theorem State.st_fw (n : Nat) (l : List Byte) : (s.st n l).fw = s.fw := id rfl
@[simp] theorem State.st_dram (n : Nat) (l : List Byte) : (s.st n l).dram = s.dram := id rfl
@[simp] theorem State.st_nand (n : Nat) (l : List Byte) : (s.st n l).nand = s.nand := id rfl
@[simp] theorem State.st_pool (n : Nat) (l : List Byte) : (s.st n l).pool = s.pool := id rfl
@[simp] theorem State.st_dma (n : Nat) (l : List Byte) : (s.st n l).dma = s.dma := id rfl
@[simp] theorem State.st_vin (n : Nat) (l : List Byte) : (s.st n l).vin = s.vin := id rfl
@[simp] theorem State.st_aud (n : Nat) (l : List Byte) : (s.st n l).aud = s.aud := id rfl
@[simp] theorem State.st_ring (n : Nat) (l : List Byte) : (s.st n l).ring = s.ring := id rfl
@[simp] theorem State.st_atts (n : Nat) (l : List Byte) : (s.st n l).atts = s.atts := id rfl
@[simp] theorem State.st_ps (n : Nat) (l : List Byte) : (s.st n l).ps = s.ps := id rfl
@[simp] theorem State.st_loader (n : Nat) (l : List Byte) : (s.st n l).loader = s.loader := id rfl
@[simp] theorem State.st_uptime (n : Nat) (l : List Byte) : (s.st n l).uptime = s.uptime := id rfl
@[simp] theorem State.st_out (n : Nat) (l : List Byte) : (s.st n l).out = s.out := id rfl
@[simp] theorem State.st_reply (n : Nat) (l : List Byte) : (s.st n l).reply = s.reply := id rfl
@[simp] theorem State.st_freeCtr (n : Nat) (l : List Byte) : (s.st n l).freeCtr = s.freeCtr := id rfl
@[simp] theorem State.st_pending (n : Nat) (l : List Byte) : (s.st n l).pending = s.pending := id rfl
@[simp] theorem State.st_rg (n : Nat) (l : List Byte) (r : Fld) : (s.st n l).rg r = s.rg r := id rfl

/-! ## `stN` -/

@[simp] theorem State.stN_regs (n k v : Nat) : (s.stN n k v).regs = s.regs := id rfl
@[simp] theorem State.stN_hostMem (n k v : Nat) : (s.stN n k v).hostMem = s.hostMem := id rfl
@[simp] theorem State.stN_ecc (n k v : Nat) : (s.stN n k v).ecc = s.ecc := id rfl
@[simp] theorem State.stN_stns (n k v : Nat) : (s.stN n k v).stns = s.stns := id rfl
@[simp] theorem State.stN_ters (n k v : Nat) : (s.stN n k v).ters = s.ters := id rfl
@[simp] theorem State.stN_fac (n k v : Nat) : (s.stN n k v).fac = s.fac := id rfl
@[simp] theorem State.stN_bus (n k v : Nat) : (s.stN n k v).bus = s.bus := id rfl
@[simp] theorem State.stN_tide (n k v : Nat) : (s.stN n k v).tide = s.tide := id rfl
@[simp] theorem State.stN_integ (n k v : Nat) : (s.stN n k v).integ = s.integ := id rfl
@[simp] theorem State.stN_log (n k v : Nat) : (s.stN n k v).log = s.log := id rfl
@[simp] theorem State.stN_life (n k v : Nat) : (s.stN n k v).life = s.life := id rfl
@[simp] theorem State.stN_dict (n k v : Nat) : (s.stN n k v).dict = s.dict := id rfl
@[simp] theorem State.stN_ef (n k v : Nat) : (s.stN n k v).ef = s.ef := id rfl
@[simp] theorem State.stN_pins (n k v : Nat) : (s.stN n k v).pins = s.pins := id rfl
@[simp] theorem State.stN_fw (n k v : Nat) : (s.stN n k v).fw = s.fw := id rfl
@[simp] theorem State.stN_dram (n k v : Nat) : (s.stN n k v).dram = s.dram := id rfl
@[simp] theorem State.stN_nand (n k v : Nat) : (s.stN n k v).nand = s.nand := id rfl
@[simp] theorem State.stN_pool (n k v : Nat) : (s.stN n k v).pool = s.pool := id rfl
@[simp] theorem State.stN_dma (n k v : Nat) : (s.stN n k v).dma = s.dma := id rfl
@[simp] theorem State.stN_vin (n k v : Nat) : (s.stN n k v).vin = s.vin := id rfl
@[simp] theorem State.stN_aud (n k v : Nat) : (s.stN n k v).aud = s.aud := id rfl
@[simp] theorem State.stN_ring (n k v : Nat) : (s.stN n k v).ring = s.ring := id rfl
@[simp] theorem State.stN_atts (n k v : Nat) : (s.stN n k v).atts = s.atts := id rfl
@[simp] theorem State.stN_ps (n k v : Nat) : (s.stN n k v).ps = s.ps := id rfl
@[simp] theorem State.stN_loader (n k v : Nat) : (s.stN n k v).loader = s.loader := id rfl
@[simp] theorem State.stN_uptime (n k v : Nat) : (s.stN n k v).uptime = s.uptime := id rfl
@[simp] theorem State.stN_out (n k v : Nat) : (s.stN n k v).out = s.out := id rfl
@[simp] theorem State.stN_reply (n k v : Nat) : (s.stN n k v).reply = s.reply := id rfl
@[simp] theorem State.stN_freeCtr (n k v : Nat) : (s.stN n k v).freeCtr = s.freeCtr := id rfl
@[simp] theorem State.stN_pending (n k v : Nat) : (s.stN n k v).pending = s.pending := id rfl
@[simp] theorem State.stN_rg (n k v : Nat) (r : Fld) : (s.stN n k v).rg r = s.rg r := id rfl

/-! ## `hostSt` -/

@[simp] theorem State.hostSt_regs (n : Nat) (l : List Byte) : (s.hostSt n l).regs = s.regs := id rfl
@[simp] theorem State.hostSt_mem (n : Nat) (l : List Byte) : (s.hostSt n l).mem = s.mem := id rfl
@[simp] theorem State.hostSt_ecc (n : Nat) (l : List Byte) : (s.hostSt n l).ecc = s.ecc := id rfl
@[simp] theorem State.hostSt_stns (n : Nat) (l : List Byte) : (s.hostSt n l).stns = s.stns := id rfl
@[simp] theorem State.hostSt_ters (n : Nat) (l : List Byte) : (s.hostSt n l).ters = s.ters := id rfl
@[simp] theorem State.hostSt_fac (n : Nat) (l : List Byte) : (s.hostSt n l).fac = s.fac := id rfl
@[simp] theorem State.hostSt_bus (n : Nat) (l : List Byte) : (s.hostSt n l).bus = s.bus := id rfl
@[simp] theorem State.hostSt_tide (n : Nat) (l : List Byte) : (s.hostSt n l).tide = s.tide := id rfl
@[simp] theorem State.hostSt_integ (n : Nat) (l : List Byte) : (s.hostSt n l).integ = s.integ := id rfl
@[simp] theorem State.hostSt_log (n : Nat) (l : List Byte) : (s.hostSt n l).log = s.log := id rfl
@[simp] theorem State.hostSt_life (n : Nat) (l : List Byte) : (s.hostSt n l).life = s.life := id rfl
@[simp] theorem State.hostSt_dict (n : Nat) (l : List Byte) : (s.hostSt n l).dict = s.dict := id rfl
@[simp] theorem State.hostSt_ef (n : Nat) (l : List Byte) : (s.hostSt n l).ef = s.ef := id rfl
@[simp] theorem State.hostSt_pins (n : Nat) (l : List Byte) : (s.hostSt n l).pins = s.pins := id rfl
@[simp] theorem State.hostSt_fw (n : Nat) (l : List Byte) : (s.hostSt n l).fw = s.fw := id rfl
@[simp] theorem State.hostSt_dram (n : Nat) (l : List Byte) : (s.hostSt n l).dram = s.dram := id rfl
@[simp] theorem State.hostSt_nand (n : Nat) (l : List Byte) : (s.hostSt n l).nand = s.nand := id rfl
@[simp] theorem State.hostSt_pool (n : Nat) (l : List Byte) : (s.hostSt n l).pool = s.pool := id rfl
@[simp] theorem State.hostSt_dma (n : Nat) (l : List Byte) : (s.hostSt n l).dma = s.dma := id rfl
@[simp] theorem State.hostSt_vin (n : Nat) (l : List Byte) : (s.hostSt n l).vin = s.vin := id rfl
@[simp] theorem State.hostSt_aud (n : Nat) (l : List Byte) : (s.hostSt n l).aud = s.aud := id rfl
@[simp] theorem State.hostSt_ring (n : Nat) (l : List Byte) : (s.hostSt n l).ring = s.ring := id rfl
@[simp] theorem State.hostSt_atts (n : Nat) (l : List Byte) : (s.hostSt n l).atts = s.atts := id rfl
@[simp] theorem State.hostSt_ps (n : Nat) (l : List Byte) : (s.hostSt n l).ps = s.ps := id rfl
@[simp] theorem State.hostSt_loader (n : Nat) (l : List Byte) : (s.hostSt n l).loader = s.loader := id rfl
@[simp] theorem State.hostSt_uptime (n : Nat) (l : List Byte) : (s.hostSt n l).uptime = s.uptime := id rfl
@[simp] theorem State.hostSt_reply (n : Nat) (l : List Byte) : (s.hostSt n l).reply = s.reply := id rfl
@[simp] theorem State.hostSt_freeCtr (n : Nat) (l : List Byte) : (s.hostSt n l).freeCtr = s.freeCtr := id rfl
@[simp] theorem State.hostSt_pending (n : Nat) (l : List Byte) : (s.hostSt n l).pending = s.pending := id rfl
@[simp] theorem State.hostSt_rg (n : Nat) (l : List Byte) (r : Fld) : (s.hostSt n l).rg r = s.rg r := id rfl

/-! ## `emit` -/

@[simp] theorem State.emit_regs (o : Out) : (s.emit o).regs = s.regs := id rfl
@[simp] theorem State.emit_mem (o : Out) : (s.emit o).mem = s.mem := id rfl
@[simp] theorem State.emit_hostMem (o : Out) : (s.emit o).hostMem = s.hostMem := id rfl
@[simp] theorem State.emit_ecc (o : Out) : (s.emit o).ecc = s.ecc := id rfl
@[simp] theorem State.emit_stns (o : Out) : (s.emit o).stns = s.stns := id rfl
@[simp] theorem State.emit_ters (o : Out) : (s.emit o).ters = s.ters := id rfl
@[simp] theorem State.emit_fac (o : Out) : (s.emit o).fac = s.fac := id rfl
@[simp] theorem State.emit_bus (o : Out) : (s.emit o).bus = s.bus := id rfl
@[simp] theorem State.emit_tide (o : Out) : (s.emit o).tide = s.tide := id rfl
@[simp] theorem State.emit_integ (o : Out) : (s.emit o).integ = s.integ := id rfl
@[simp] theorem State.emit_log (o : Out) : (s.emit o).log = s.log := id rfl
@[simp] theorem State.emit_life (o : Out) : (s.emit o).life = s.life := id rfl
@[simp] theorem State.emit_dict (o : Out) : (s.emit o).dict = s.dict := id rfl
@[simp] theorem State.emit_ef (o : Out) : (s.emit o).ef = s.ef := id rfl
@[simp] theorem State.emit_pins (o : Out) : (s.emit o).pins = s.pins := id rfl
@[simp] theorem State.emit_fw (o : Out) : (s.emit o).fw = s.fw := id rfl
@[simp] theorem State.emit_dram (o : Out) : (s.emit o).dram = s.dram := id rfl
@[simp] theorem State.emit_nand (o : Out) : (s.emit o).nand = s.nand := id rfl
@[simp] theorem State.emit_pool (o : Out) : (s.emit o).pool = s.pool := id rfl
@[simp] theorem State.emit_dma (o : Out) : (s.emit o).dma = s.dma := id rfl
@[simp] theorem State.emit_vin (o : Out) : (s.emit o).vin = s.vin := id rfl
@[simp] theorem State.emit_aud (o : Out) : (s.emit o).aud = s.aud := id rfl
@[simp] theorem State.emit_ring (o : Out) : (s.emit o).ring = s.ring := id rfl
@[simp] theorem State.emit_atts (o : Out) : (s.emit o).atts = s.atts := id rfl
@[simp] theorem State.emit_ps (o : Out) : (s.emit o).ps = s.ps := id rfl
@[simp] theorem State.emit_loader (o : Out) : (s.emit o).loader = s.loader := id rfl
@[simp] theorem State.emit_uptime (o : Out) : (s.emit o).uptime = s.uptime := id rfl
@[simp] theorem State.emit_reply (o : Out) : (s.emit o).reply = s.reply := id rfl
@[simp] theorem State.emit_freeCtr (o : Out) : (s.emit o).freeCtr = s.freeCtr := id rfl
@[simp] theorem State.emit_pending (o : Out) : (s.emit o).pending = s.pending := id rfl
@[simp] theorem State.emit_rg (o : Out) (r : Fld) : (s.emit o).rg r = s.rg r := id rfl

/-! ## `bump` -/

@[simp] theorem State.bump_mem (f : Fld) (n : Nat) : (s.bump f n).mem = s.mem := id rfl
@[simp] theorem State.bump_hostMem (f : Fld) (n : Nat) : (s.bump f n).hostMem = s.hostMem := id rfl
@[simp] theorem State.bump_ecc (f : Fld) (n : Nat) : (s.bump f n).ecc = s.ecc := id rfl
@[simp] theorem State.bump_stns (f : Fld) (n : Nat) : (s.bump f n).stns = s.stns := id rfl
@[simp] theorem State.bump_ters (f : Fld) (n : Nat) : (s.bump f n).ters = s.ters := id rfl
@[simp] theorem State.bump_fac (f : Fld) (n : Nat) : (s.bump f n).fac = s.fac := id rfl
@[simp] theorem State.bump_bus (f : Fld) (n : Nat) : (s.bump f n).bus = s.bus := id rfl
@[simp] theorem State.bump_tide (f : Fld) (n : Nat) : (s.bump f n).tide = s.tide := id rfl
@[simp] theorem State.bump_integ (f : Fld) (n : Nat) : (s.bump f n).integ = s.integ := id rfl
@[simp] theorem State.bump_log (f : Fld) (n : Nat) : (s.bump f n).log = s.log := id rfl
@[simp] theorem State.bump_life (f : Fld) (n : Nat) : (s.bump f n).life = s.life := id rfl
@[simp] theorem State.bump_dict (f : Fld) (n : Nat) : (s.bump f n).dict = s.dict := id rfl
@[simp] theorem State.bump_ef (f : Fld) (n : Nat) : (s.bump f n).ef = s.ef := id rfl
@[simp] theorem State.bump_pins (f : Fld) (n : Nat) : (s.bump f n).pins = s.pins := id rfl
@[simp] theorem State.bump_fw (f : Fld) (n : Nat) : (s.bump f n).fw = s.fw := id rfl
@[simp] theorem State.bump_dram (f : Fld) (n : Nat) : (s.bump f n).dram = s.dram := id rfl
@[simp] theorem State.bump_nand (f : Fld) (n : Nat) : (s.bump f n).nand = s.nand := id rfl
@[simp] theorem State.bump_pool (f : Fld) (n : Nat) : (s.bump f n).pool = s.pool := id rfl
@[simp] theorem State.bump_dma (f : Fld) (n : Nat) : (s.bump f n).dma = s.dma := id rfl
@[simp] theorem State.bump_vin (f : Fld) (n : Nat) : (s.bump f n).vin = s.vin := id rfl
@[simp] theorem State.bump_aud (f : Fld) (n : Nat) : (s.bump f n).aud = s.aud := id rfl
@[simp] theorem State.bump_ring (f : Fld) (n : Nat) : (s.bump f n).ring = s.ring := id rfl
@[simp] theorem State.bump_atts (f : Fld) (n : Nat) : (s.bump f n).atts = s.atts := id rfl
@[simp] theorem State.bump_ps (f : Fld) (n : Nat) : (s.bump f n).ps = s.ps := id rfl
@[simp] theorem State.bump_loader (f : Fld) (n : Nat) : (s.bump f n).loader = s.loader := id rfl
@[simp] theorem State.bump_uptime (f : Fld) (n : Nat) : (s.bump f n).uptime = s.uptime := id rfl
@[simp] theorem State.bump_out (f : Fld) (n : Nat) : (s.bump f n).out = s.out := id rfl
@[simp] theorem State.bump_reply (f : Fld) (n : Nat) : (s.bump f n).reply = s.reply := id rfl
@[simp] theorem State.bump_freeCtr (f : Fld) (n : Nat) : (s.bump f n).freeCtr = s.freeCtr := id rfl
@[simp] theorem State.bump_pending (f : Fld) (n : Nat) : (s.bump f n).pending = s.pending := id rfl

/-! ## `setStn` -/

@[simp] theorem State.setStn_regs (t p : Nat) (v : Stn) : (s.setStn t p v).regs = s.regs := id rfl
@[simp] theorem State.setStn_mem (t p : Nat) (v : Stn) : (s.setStn t p v).mem = s.mem := id rfl
@[simp] theorem State.setStn_hostMem (t p : Nat) (v : Stn) : (s.setStn t p v).hostMem = s.hostMem := id rfl
@[simp] theorem State.setStn_ecc (t p : Nat) (v : Stn) : (s.setStn t p v).ecc = s.ecc := id rfl
@[simp] theorem State.setStn_ters (t p : Nat) (v : Stn) : (s.setStn t p v).ters = s.ters := id rfl
@[simp] theorem State.setStn_fac (t p : Nat) (v : Stn) : (s.setStn t p v).fac = s.fac := id rfl
@[simp] theorem State.setStn_bus (t p : Nat) (v : Stn) : (s.setStn t p v).bus = s.bus := id rfl
@[simp] theorem State.setStn_tide (t p : Nat) (v : Stn) : (s.setStn t p v).tide = s.tide := id rfl
@[simp] theorem State.setStn_integ (t p : Nat) (v : Stn) : (s.setStn t p v).integ = s.integ := id rfl
@[simp] theorem State.setStn_log (t p : Nat) (v : Stn) : (s.setStn t p v).log = s.log := id rfl
@[simp] theorem State.setStn_life (t p : Nat) (v : Stn) : (s.setStn t p v).life = s.life := id rfl
@[simp] theorem State.setStn_dict (t p : Nat) (v : Stn) : (s.setStn t p v).dict = s.dict := id rfl
@[simp] theorem State.setStn_ef (t p : Nat) (v : Stn) : (s.setStn t p v).ef = s.ef := id rfl
@[simp] theorem State.setStn_pins (t p : Nat) (v : Stn) : (s.setStn t p v).pins = s.pins := id rfl
@[simp] theorem State.setStn_fw (t p : Nat) (v : Stn) : (s.setStn t p v).fw = s.fw := id rfl
@[simp] theorem State.setStn_dram (t p : Nat) (v : Stn) : (s.setStn t p v).dram = s.dram := id rfl
@[simp] theorem State.setStn_nand (t p : Nat) (v : Stn) : (s.setStn t p v).nand = s.nand := id rfl
@[simp] theorem State.setStn_pool (t p : Nat) (v : Stn) : (s.setStn t p v).pool = s.pool := id rfl
@[simp] theorem State.setStn_dma (t p : Nat) (v : Stn) : (s.setStn t p v).dma = s.dma := id rfl
@[simp] theorem State.setStn_vin (t p : Nat) (v : Stn) : (s.setStn t p v).vin = s.vin := id rfl
@[simp] theorem State.setStn_aud (t p : Nat) (v : Stn) : (s.setStn t p v).aud = s.aud := id rfl
@[simp] theorem State.setStn_ring (t p : Nat) (v : Stn) : (s.setStn t p v).ring = s.ring := id rfl
@[simp] theorem State.setStn_atts (t p : Nat) (v : Stn) : (s.setStn t p v).atts = s.atts := id rfl
@[simp] theorem State.setStn_ps (t p : Nat) (v : Stn) : (s.setStn t p v).ps = s.ps := id rfl
@[simp] theorem State.setStn_loader (t p : Nat) (v : Stn) : (s.setStn t p v).loader = s.loader := id rfl
@[simp] theorem State.setStn_uptime (t p : Nat) (v : Stn) : (s.setStn t p v).uptime = s.uptime := id rfl
@[simp] theorem State.setStn_out (t p : Nat) (v : Stn) : (s.setStn t p v).out = s.out := id rfl
@[simp] theorem State.setStn_reply (t p : Nat) (v : Stn) : (s.setStn t p v).reply = s.reply := id rfl
@[simp] theorem State.setStn_freeCtr (t p : Nat) (v : Stn) : (s.setStn t p v).freeCtr = s.freeCtr := id rfl
@[simp] theorem State.setStn_pending (t p : Nat) (v : Stn) : (s.setStn t p v).pending = s.pending := id rfl
@[simp] theorem State.setStn_rg (t p : Nat) (v : Stn) (r : Fld) : (s.setStn t p v).rg r = s.rg r := id rfl

/-! ## `onStn` -/

@[simp] theorem State.onStn_regs (t p : Nat) (g : Stn → Stn) : (s.onStn t p g).regs = s.regs := id rfl
@[simp] theorem State.onStn_mem (t p : Nat) (g : Stn → Stn) : (s.onStn t p g).mem = s.mem := id rfl
@[simp] theorem State.onStn_hostMem (t p : Nat) (g : Stn → Stn) : (s.onStn t p g).hostMem = s.hostMem := id rfl
@[simp] theorem State.onStn_ecc (t p : Nat) (g : Stn → Stn) : (s.onStn t p g).ecc = s.ecc := id rfl
@[simp] theorem State.onStn_ters (t p : Nat) (g : Stn → Stn) : (s.onStn t p g).ters = s.ters := id rfl
@[simp] theorem State.onStn_fac (t p : Nat) (g : Stn → Stn) : (s.onStn t p g).fac = s.fac := id rfl
@[simp] theorem State.onStn_bus (t p : Nat) (g : Stn → Stn) : (s.onStn t p g).bus = s.bus := id rfl
@[simp] theorem State.onStn_tide (t p : Nat) (g : Stn → Stn) : (s.onStn t p g).tide = s.tide := id rfl
@[simp] theorem State.onStn_integ (t p : Nat) (g : Stn → Stn) : (s.onStn t p g).integ = s.integ := id rfl
@[simp] theorem State.onStn_log (t p : Nat) (g : Stn → Stn) : (s.onStn t p g).log = s.log := id rfl
@[simp] theorem State.onStn_life (t p : Nat) (g : Stn → Stn) : (s.onStn t p g).life = s.life := id rfl
@[simp] theorem State.onStn_dict (t p : Nat) (g : Stn → Stn) : (s.onStn t p g).dict = s.dict := id rfl
@[simp] theorem State.onStn_ef (t p : Nat) (g : Stn → Stn) : (s.onStn t p g).ef = s.ef := id rfl
@[simp] theorem State.onStn_pins (t p : Nat) (g : Stn → Stn) : (s.onStn t p g).pins = s.pins := id rfl
@[simp] theorem State.onStn_fw (t p : Nat) (g : Stn → Stn) : (s.onStn t p g).fw = s.fw := id rfl
@[simp] theorem State.onStn_dram (t p : Nat) (g : Stn → Stn) : (s.onStn t p g).dram = s.dram := id rfl
@[simp] theorem State.onStn_nand (t p : Nat) (g : Stn → Stn) : (s.onStn t p g).nand = s.nand := id rfl
@[simp] theorem State.onStn_pool (t p : Nat) (g : Stn → Stn) : (s.onStn t p g).pool = s.pool := id rfl
@[simp] theorem State.onStn_dma (t p : Nat) (g : Stn → Stn) : (s.onStn t p g).dma = s.dma := id rfl
@[simp] theorem State.onStn_vin (t p : Nat) (g : Stn → Stn) : (s.onStn t p g).vin = s.vin := id rfl
@[simp] theorem State.onStn_aud (t p : Nat) (g : Stn → Stn) : (s.onStn t p g).aud = s.aud := id rfl
@[simp] theorem State.onStn_ring (t p : Nat) (g : Stn → Stn) : (s.onStn t p g).ring = s.ring := id rfl
@[simp] theorem State.onStn_atts (t p : Nat) (g : Stn → Stn) : (s.onStn t p g).atts = s.atts := id rfl
@[simp] theorem State.onStn_ps (t p : Nat) (g : Stn → Stn) : (s.onStn t p g).ps = s.ps := id rfl
@[simp] theorem State.onStn_loader (t p : Nat) (g : Stn → Stn) : (s.onStn t p g).loader = s.loader := id rfl
@[simp] theorem State.onStn_uptime (t p : Nat) (g : Stn → Stn) : (s.onStn t p g).uptime = s.uptime := id rfl
@[simp] theorem State.onStn_out (t p : Nat) (g : Stn → Stn) : (s.onStn t p g).out = s.out := id rfl
@[simp] theorem State.onStn_reply (t p : Nat) (g : Stn → Stn) : (s.onStn t p g).reply = s.reply := id rfl
@[simp] theorem State.onStn_freeCtr (t p : Nat) (g : Stn → Stn) : (s.onStn t p g).freeCtr = s.freeCtr := id rfl
@[simp] theorem State.onStn_pending (t p : Nat) (g : Stn → Stn) : (s.onStn t p g).pending = s.pending := id rfl
@[simp] theorem State.onStn_rg (t p : Nat) (g : Stn → Stn) (r : Fld) : (s.onStn t p g).rg r = s.rg r := id rfl

/-! ## `onTer` -/

@[simp] theorem State.onTer_regs (t : Nat) (g : Ter → Ter) : (s.onTer t g).regs = s.regs := id rfl
@[simp] theorem State.onTer_mem (t : Nat) (g : Ter → Ter) : (s.onTer t g).mem = s.mem := id rfl
@[simp] theorem State.onTer_hostMem (t : Nat) (g : Ter → Ter) : (s.onTer t g).hostMem = s.hostMem := id rfl
@[simp] theorem State.onTer_ecc (t : Nat) (g : Ter → Ter) : (s.onTer t g).ecc = s.ecc := id rfl
@[simp] theorem State.onTer_stns (t : Nat) (g : Ter → Ter) : (s.onTer t g).stns = s.stns := id rfl
@[simp] theorem State.onTer_fac (t : Nat) (g : Ter → Ter) : (s.onTer t g).fac = s.fac := id rfl
@[simp] theorem State.onTer_bus (t : Nat) (g : Ter → Ter) : (s.onTer t g).bus = s.bus := id rfl
@[simp] theorem State.onTer_tide (t : Nat) (g : Ter → Ter) : (s.onTer t g).tide = s.tide := id rfl
@[simp] theorem State.onTer_integ (t : Nat) (g : Ter → Ter) : (s.onTer t g).integ = s.integ := id rfl
@[simp] theorem State.onTer_log (t : Nat) (g : Ter → Ter) : (s.onTer t g).log = s.log := id rfl
@[simp] theorem State.onTer_life (t : Nat) (g : Ter → Ter) : (s.onTer t g).life = s.life := id rfl
@[simp] theorem State.onTer_dict (t : Nat) (g : Ter → Ter) : (s.onTer t g).dict = s.dict := id rfl
@[simp] theorem State.onTer_ef (t : Nat) (g : Ter → Ter) : (s.onTer t g).ef = s.ef := id rfl
@[simp] theorem State.onTer_pins (t : Nat) (g : Ter → Ter) : (s.onTer t g).pins = s.pins := id rfl
@[simp] theorem State.onTer_fw (t : Nat) (g : Ter → Ter) : (s.onTer t g).fw = s.fw := id rfl
@[simp] theorem State.onTer_dram (t : Nat) (g : Ter → Ter) : (s.onTer t g).dram = s.dram := id rfl
@[simp] theorem State.onTer_nand (t : Nat) (g : Ter → Ter) : (s.onTer t g).nand = s.nand := id rfl
@[simp] theorem State.onTer_pool (t : Nat) (g : Ter → Ter) : (s.onTer t g).pool = s.pool := id rfl
@[simp] theorem State.onTer_dma (t : Nat) (g : Ter → Ter) : (s.onTer t g).dma = s.dma := id rfl
@[simp] theorem State.onTer_vin (t : Nat) (g : Ter → Ter) : (s.onTer t g).vin = s.vin := id rfl
@[simp] theorem State.onTer_aud (t : Nat) (g : Ter → Ter) : (s.onTer t g).aud = s.aud := id rfl
@[simp] theorem State.onTer_ring (t : Nat) (g : Ter → Ter) : (s.onTer t g).ring = s.ring := id rfl
@[simp] theorem State.onTer_atts (t : Nat) (g : Ter → Ter) : (s.onTer t g).atts = s.atts := id rfl
@[simp] theorem State.onTer_ps (t : Nat) (g : Ter → Ter) : (s.onTer t g).ps = s.ps := id rfl
@[simp] theorem State.onTer_loader (t : Nat) (g : Ter → Ter) : (s.onTer t g).loader = s.loader := id rfl
@[simp] theorem State.onTer_uptime (t : Nat) (g : Ter → Ter) : (s.onTer t g).uptime = s.uptime := id rfl
@[simp] theorem State.onTer_out (t : Nat) (g : Ter → Ter) : (s.onTer t g).out = s.out := id rfl
@[simp] theorem State.onTer_reply (t : Nat) (g : Ter → Ter) : (s.onTer t g).reply = s.reply := id rfl
@[simp] theorem State.onTer_freeCtr (t : Nat) (g : Ter → Ter) : (s.onTer t g).freeCtr = s.freeCtr := id rfl
@[simp] theorem State.onTer_pending (t : Nat) (g : Ter → Ter) : (s.onTer t g).pending = s.pending := id rfl
@[simp] theorem State.onTer_rg (t : Nat) (g : Ter → Ter) (r : Fld) : (s.onTer t g).rg r = s.rg r := id rfl

/-! ## `putRow` -/

@[simp] theorem State.putRow_regs (n : Nat) (l : List Byte) : (s.putRow n l).regs = s.regs := id rfl
@[simp] theorem State.putRow_hostMem (n : Nat) (l : List Byte) : (s.putRow n l).hostMem = s.hostMem := id rfl
@[simp] theorem State.putRow_stns (n : Nat) (l : List Byte) : (s.putRow n l).stns = s.stns := id rfl
@[simp] theorem State.putRow_ters (n : Nat) (l : List Byte) : (s.putRow n l).ters = s.ters := id rfl
@[simp] theorem State.putRow_fac (n : Nat) (l : List Byte) : (s.putRow n l).fac = s.fac := id rfl
@[simp] theorem State.putRow_bus (n : Nat) (l : List Byte) : (s.putRow n l).bus = s.bus := id rfl
@[simp] theorem State.putRow_tide (n : Nat) (l : List Byte) : (s.putRow n l).tide = s.tide := id rfl
@[simp] theorem State.putRow_integ (n : Nat) (l : List Byte) : (s.putRow n l).integ = s.integ := id rfl
@[simp] theorem State.putRow_log (n : Nat) (l : List Byte) : (s.putRow n l).log = s.log := id rfl
@[simp] theorem State.putRow_life (n : Nat) (l : List Byte) : (s.putRow n l).life = s.life := id rfl
@[simp] theorem State.putRow_dict (n : Nat) (l : List Byte) : (s.putRow n l).dict = s.dict := id rfl
@[simp] theorem State.putRow_ef (n : Nat) (l : List Byte) : (s.putRow n l).ef = s.ef := id rfl
@[simp] theorem State.putRow_pins (n : Nat) (l : List Byte) : (s.putRow n l).pins = s.pins := id rfl
@[simp] theorem State.putRow_fw (n : Nat) (l : List Byte) : (s.putRow n l).fw = s.fw := id rfl
@[simp] theorem State.putRow_dram (n : Nat) (l : List Byte) : (s.putRow n l).dram = s.dram := id rfl
@[simp] theorem State.putRow_nand (n : Nat) (l : List Byte) : (s.putRow n l).nand = s.nand := id rfl
@[simp] theorem State.putRow_pool (n : Nat) (l : List Byte) : (s.putRow n l).pool = s.pool := id rfl
@[simp] theorem State.putRow_dma (n : Nat) (l : List Byte) : (s.putRow n l).dma = s.dma := id rfl
@[simp] theorem State.putRow_vin (n : Nat) (l : List Byte) : (s.putRow n l).vin = s.vin := id rfl
@[simp] theorem State.putRow_aud (n : Nat) (l : List Byte) : (s.putRow n l).aud = s.aud := id rfl
@[simp] theorem State.putRow_ring (n : Nat) (l : List Byte) : (s.putRow n l).ring = s.ring := id rfl
@[simp] theorem State.putRow_atts (n : Nat) (l : List Byte) : (s.putRow n l).atts = s.atts := id rfl
@[simp] theorem State.putRow_ps (n : Nat) (l : List Byte) : (s.putRow n l).ps = s.ps := id rfl
@[simp] theorem State.putRow_loader (n : Nat) (l : List Byte) : (s.putRow n l).loader = s.loader := id rfl
@[simp] theorem State.putRow_uptime (n : Nat) (l : List Byte) : (s.putRow n l).uptime = s.uptime := id rfl
@[simp] theorem State.putRow_out (n : Nat) (l : List Byte) : (s.putRow n l).out = s.out := id rfl
@[simp] theorem State.putRow_reply (n : Nat) (l : List Byte) : (s.putRow n l).reply = s.reply := id rfl
@[simp] theorem State.putRow_freeCtr (n : Nat) (l : List Byte) : (s.putRow n l).freeCtr = s.freeCtr := id rfl
@[simp] theorem State.putRow_pending (n : Nat) (l : List Byte) : (s.putRow n l).pending = s.pending := id rfl
@[simp] theorem State.putRow_rg (n : Nat) (l : List Byte) (r : Fld) : (s.putRow n l).rg r = s.rg r := id rfl

/-- A station read back. -/
@[simp] theorem State.stn_setStn (t p : Nat) (v : Stn) : (s.setStn t p v).stn t p = v := KMap.get_set_same _ _ _ _

@[simp] theorem State.stn_onStn (t p : Nat) (g : Stn → Stn) : (s.onStn t p g).stn t p = g (s.stn t p) := KMap.get_set_same _ _ _ _

@[simp] theorem State.ter_onTer (t : Nat) (g : Ter → Ter) : (s.onTer t g).ter t = g (s.ter t) := KMap.get_set_same _ _ _ _

/-- Bytes stored read back. -/
theorem State.ld_st (n : Nat) (l : List Byte) : (s.st n l).ld n l.length = l := KMap.bytes_store _ _ _

/-- A byte outside the stored bytes is unchanged. -/
theorem State.st_outside (n : Nat) (l : List Byte) (k : Nat) (h : k < n ∨ n + l.length ≤ k) :
    (s.st n l).mem.get k 0#8 = s.mem.get k 0#8 := KMap.get_store_outside _ _ _ _ h

end Sys2Proof.Machine
end

