-- ==== Sys2Proof/WellFormed.lean ====
section
/-! DEFINITION. Which commands are well formed: operands in ranges that their types do not give. The meanings are total on
ill-formed commands too; what reaches the module from outside is well formed. -/

namespace Sys2Proof

/-- An upset names a cell of the 32 by 32 array or one of its checksum cells (R80). -/
abbrev Upset.ok (u : Upset) : Bool := decide (u.row ≤ 32 ∧ u.col ≤ 32 ∧ ¬ (u.row = 32 ∧ u.col = 32))

/-- Places in the list of rows to repair, which holds 64 entries (R338). -/
abbrev placesOk (l : List Nat) : Bool := l.all fun i => decide (i < 64)

/-- The operands are in range: the size of a PCI Express request, the rows of the memory scrubbed (R116, R121), the length of an
SMBus block (R441, R489), the header of a frame (R407). -/
def Instr.wellFormed : Instr → Bool
  | .unalignedBar0Access _ _ => true
  | .reg64LowRead _ _ => true
  | .reg64HighRead _ _ => true
  | .reg64LowWrite _ _ _ => true
  | .reg64HighWrite _ _ _ => true
  | .registerWrite _ _ _ _ => true
  | .aperHiWrite _ => true
  | .bar2Request rd _ n b => if rd then decide (n.toNat ≤ 4096 ∧ b = []) else decide (b.length ≤ 4096)
  | .powerOnReset _ b => placesOk b.bad
  | .moduleReset => true
  | .warmReset _ _ _ => true
  | .computeDieReset _ => true
  | .functionLevelReset => true
  | .tideBoundary => true
  | .schedulableEnd _ _ => true
  | .commitWindowOpen => true
  | .wclkEdge _ => true
  | .wclkLossTimeout => true
  | .gptpFrameReceive _ _ _ => true
  | .ppsInEdge _ => true
  | .ppsOutSecond => true
  | .tideSettingWrite _ _ => true
  | .tideRunSet _ => true
  | .tideRunClear _ => true
  | .applyArm _ => true
  | .applyCancel _ => true
  | .tileIssue _ _ up => up.all Upset.ok
  | .tileComplete _ _ up => up.all Upset.ok
  | .sliceEnd _ _ => true
  | .arrayRepairWrite _ _ => true
  | .curveLoadDone _ _ => true
  | .scrubRow _ p m row found => decide (row.toNat < if p.val = 17 then 4096 else ([1024, 512, 384, 128] : List Nat).getD m.val 0) && found.words.all fun b => decide (b.word < 64)
  | .linkRowReceive _ _ _ _ => true
  | .creditReturn _ _ => true
  | .slotSet _ _ => true
  | .slotRelease _ _ => true
  | .memPassWrite _ _ => true
  | .tstorePagesWrite _ _ => true
  | .takeoverRequest _ _ => true
  | .takeoverRestore _ => true
  | .takeoverCopyDone _ => true
  | .nop _ _ => true
  | .tile _ _ => true
  | .tilew _ _ => true
  | .ldbias _ _ => true
  | .ldcurve _ _ => true
  | .wcfg _ _ => true
  | .waitp _ _ => true
  | .rel _ _ => true
  | .setp _ _ => true
  | .bar _ _ => true
  | .waitf _ _ => true
  | .loop _ _ => true
  | .skip _ _ => true
  | .ptrSet _ _ => true
  | .ptrAdd _ _ => true
  | .ptrAddMod _ _ => true
  | .ptrLoad _ _ => true
  | .setdCursor _ _ => true
  | .setdCursorPtr _ _ => true
  | .setdCursorAdd _ _ => true
  | .setdRestore _ _ => true
  | .setdBaseAdd _ _ => true
  | .movr _ _ => true
  | .vld _ _ => true
  | .vst _ _ => true
  | .stop _ _ => true
  | .vmov _ _ => true
  | .vadd _ _ => true
  | .vsub _ _ => true
  | .vmul _ _ => true
  | .vfma _ _ => true
  | .vmax _ _ => true
  | .vmin _ _ => true
  | .vabs _ _ => true
  | .vaddi _ _ => true
  | .vmuli _ _ => true
  | .vfmai _ _ => true
  | .vmaxi _ _ => true
  | .vcmp _ _ => true
  | .vsel _ _ => true
  | .vlerp _ _ => true
  | .vdiv _ _ => true
  | .vexp _ _ => true
  | .vexp2 _ _ => true
  | .vlog2 _ _ => true
  | .vrcp _ _ => true
  | .vsqrt _ _ => true
  | .vrsqrt _ _ => true
  | .vsigm _ _ => true
  | .vtanh _ _ => true
  | .vexpd _ _ => true
  | .vcvt _ _ => true
  | .vred _ _ => true
  | .vscan _ _ => true
  | .vdw _ _ => true
  | .vpool _ _ => true
  | .vcrop _ _ => true
  | .vbdec _ _ => true
  | .vnms _ _ => true
  | .vtopk _ _ => true
  | .tflagForce _ _ => true
  | .seqPhaseWrite _ _ => true
  | .attentionJobStart _ => true
  | .attendEntry _ => true
  | .appendEntry _ => true
  | .attentionJobDone _ => true
  | .psInvalidate _ _ => true
  | .frameFill _ _ _ => true
  | .frameFillDone _ _ => true
  | .frameInvalidate _ _ _ => true
  | .psInit => true
  | .psAlloc _ => true
  | .psShare _ => true
  | .psFree _ => true
  | .psReserve _ => true
  | .psUnreserve _ => true
  | .psPoison _ => true
  | .psUnpoison _ => true
  | .openCmd => true
  | .step => true
  | .cancel => true
  | .close => true
  | .reclaim => true
  | .hostAlive => true
  | .hostLostTimeout => true
  | .parkTimeout => true
  | .captureTrainingStep _ => true
  | .load => true
  | .place => true
  | .remove => true
  | .delete => true
  | .captureStart => true
  | .captureCancel => true
  | .expanderSlot _ _ _ _ _ _ => true
  | .ageTick => true
  | .eviction => true
  | .pageWritebackDone => true
  | .homeCopyWrite => true
  | .promotionPageArrive _ => true
  | .pageRepair _ _ => true
  | .dramRead _ _ _ _ _ _ _ => true
  | .dramWrite _ _ _ _ _ _ _ => true
  | .dramScrub _ _ => true
  | .dramRefresh _ _ _ => true
  | .throttleWindow => true
  | .dramRecalibrate _ => true
  | .dramProtWrite _ _ _ => true
  | .elogPop => true
  | .nandCodewordRead _ _ _ _ _ _ _ => true
  | .nandRetryRead _ _ _ _ _ _ _ _ => true
  | .nandProgram _ _ _ _ => true
  | .nandReclaim => true
  | .nandRelocate => true
  | .nandPatrol _ _ _ _ => true
  | .nandWearLevel => true
  | .dmaProdWrite _ _ => true
  | .dmaDescriptorStart _ _ => true
  | .dmaHalf _ _ => true
  | .dmaDescriptorEnd _ _ _ _ => true
  | .dmaRtDeadline _ _ => true
  | .dmaHostTimeout _ _ => true
  | .dmaAbort _ _ => true
  | .vinPortWrite _ _ _ => true
  | .vinFrameStart _ => true
  | .vinLineEnd _ _ _ => true
  | .vinFrameEnd _ => true
  | .vinFrameTimeout _ => true
  | .vinPclkLoss _ => true
  | .vinOutputComplete _ => true
  | .vinPublish _ => true
  | .vinMuxWrite _ => true
  | .vinMuxUnit => true
  | .audClkWrite _ => true
  | .audInputSample _ _ _ _ => true
  | .audClockLoss => true
  | .audClockReturn => true
  | .linkUp _ _ => true
  | .linkRateFall _ => true
  | .ringFrameReceive _ f _ => decide (14 ≤ f.length)
  | .beaconReceive => true
  | .memberExpiry _ => true
  | .windowSend _ => true
  | .tileDataReceive => true
  | .tileVoidReceive => true
  | .grantReceive => true
  | .closedReceive => true
  | .grantTimeout _ => true
  | .aes67PacketReceive => true
  | .aes67PacketSend _ => true
  | .causewayLeaveBypass => true
  | .capOkSet => true
  | .ringWatchdogExpiry => true
  | .topEthernetReceive => true
  | .topUdpReceive => true
  | .arpRequest => true
  | .mbxGo _ => true
  | .smbusBlockWrite b _ => decide (b.length ≤ 255)
  | .smbusBlockRead => true
  | .smbusAlertResponse => true
  | .read => true
  | .write _ => true
  | .writeAt => true
  | .cancelAt => true
  | .next => true
  | .fwLoad _ => true
  | .negotiation _ => true
  | .modeWrite _ => true
  | .queueOpen _ _ => true
  | .queueClose _ _ => true
  | .sqTailWrite _ _ => true
  | .sqEntryTake _ => true
  | .cqHeadWrite _ _ => true
  | .eventRingOpen _ => true
  | .eventHeadWrite _ => true
  | .watchdogKick _ => true
  | .coreWatchdogExpiry _ => true
  | .coreRestartWrite _ => true
  | .coreRestartDone _ => true
  | .accessFault _ _ => true
  | .efOperationDone _ _ _ => true
  | .updChunk _ => true
  | .recoveryBlock b => decide (b.length ≤ 255)
  | .protLower _ => true
  | .sramRepairMap _ => true
  | .lifetimeCheckpoint _ => true
  | .histogramSample _ => true
  | .powerEnterP1 _ _ => true
  | .powerEnterP2 _ _ => true
  | .powerEnterP3 _ _ => true
  | .powerEnterP4 _ _ => true
  | .powerEnterP5 _ _ => true
  | .powerWake _ _ _ => true
  | .wakeNFall _ bad => placesOk bad
  | .temperatureSample _ => true
  | .vin12Return _ bad => placesOk bad
  | .jtagInstructionLoad _ => true
  | .mrstNRelease _ b => placesOk b.bad
  | .linkDown _ => true
  | .vinPclkReturn _ => true
  | .segmentTimeout => true
  | .persistentCommitDone => true
  | .lighthouseWatchdogExpiry => true
  | .lighthouseConfirm => true
  | .updStart => true
  | .updCommit => true
  | .updAbort => true
  | .updActivate => true
  | .recoveryCommit => true
  | .recoveryStatus => true
  | .protRaise => true
  | .secRollbackWrite => true
  | .keyImport => true
  | .keyDelete => true
  | .keyList => true
  | .fqPop => true
  | .logToken => true
  | .vin12Loss => true
  | .standbyLoss => true
  | .syncValidLoss => true

end Sys2Proof
end

