-- ==== Sys2Proof/Tests/Slice0.lean ====
section
/-! SUPPORT. Tests: commands that are not well formed are refused by the check, worked examples of the manual, and for each
statement of the obligations a state and operands that meet its hypotheses (named wit_). -/

set_option Elab.async false

open Sys2Proof Sys2Proof.Machine

namespace Sys2Proof.Tests

/-- A small state: the state after reset with some fields written. -/
def tst (l : List (Fld × Nat)) : State := State.reset.wrs l
/-- The bytes of `b` from address `a`, as a memory lists them. -/
def bytesAt (a : Nat) (b : List Byte) : KMap Byte := b.zipIdx.filterMap fun x => if x.1 = 0#8 then none else some (a + x.2, x.1)
def nats (l : List Nat) : List Byte := l.map (BitVec.ofNat 8)
/-- A command entry: operation, flags, TAG, parameter address and length, handle. -/
def cmdEntry (op flags addr len handle : Nat) : List Byte :=
  fitTo 64 (natLE 1 op ++ natLE 1 flags ++ zeros 6 ++ natLE 8 addr ++ natLE 8 9 ++ natLE 8 len ++ natLE 4 handle)

/-! ## Witnesses, part 1 -/

theorem wit_bus : State.reset.hostReach = true ∧ State.reset.mayAsk 0 = true ∧ pairAt (4 * (0x40010#32).toNat) = some (0x100040, false) ∧
    pairAt (4 * (0x40011#32).toNat) = some (0x100040, true) ∧ ¬ ((4 : Fin 65).val = 4 ∧ (2#48).toNat % 4 = 0) := by decide +kernel
/-- The host has read the low word of `TIME.NOW` and written the low words of `TIME.PPS_SET` and of the aperture. -/
def busSt : State := let s := tst [(HRING_APER_LO_EN, 1), (HRING_APER_HI_BASE_HI, dramBase / 2 ^ 32)]
  { s with bus := { s.bus with latch := s.bus.latch.set (busKey 0x100040 0) (5 + 1) 0,
                               held := (s.bus.held.set (busKey 0x100058 0) (7 + 1) 0).set (busKey 0xC00100 0) (1 + 1) 0 } }
theorem wit_pairs : busSt.hostReach = true ∧ busSt.mayAsk 0 = true ∧ busSt.bus.latch.get (busKey 0x100040 0) 0 = 5 + 1 ∧
    pairAt (4 * (0x40016#32).toNat) = some (0x100058, false) ∧
    busSt.bus.held.get (busKey 0x100058 0) 0 = 7 + 1 ∧ 7 < 2 ^ 32 ∧ busSt.bus.held.get (busKey 0xC00100 0) 0 = 1 + 1 ∧
    dramBase ≤ (BitVec.ofNat 32 (dramBase / 2 ^ 32)).toNat % 65536 * 2 ^ 32 + bits 1 20 12 * 2 ^ 20 ∧
    (BitVec.ofNat 32 (dramBase / 2 ^ 32)).toNat % 65536 * 2 ^ 32 + bits 1 20 12 * 2 ^ 20 + 0x100000000 ≤
      dramBase + busSt.dramSize := by decide +kernel
theorem wit_host : busSt.hostReach = true ∧ (0#32).toNat < 256 ∧ (0#32).toNat % 4 ≠ 3 ∧ busSt.on HRING_APER_LO_EN ∧
    (16#48).toNat + [1#8, 2#8].length ≤ 2 ^ 32 ∧
    busSt.inDram (busSt.rg HRING_APER_HI_BASE_HI * 2 ^ 32 + busSt.rg HRING_APER_LO_BASE_LO * 2 ^ 20 + (16#48).toNat) 2 ∧
    busSt.unitMarks (busSt.rg HRING_APER_HI_BASE_HI * 2 ^ 32 + busSt.rg HRING_APER_LO_BASE_LO * 2 ^ 20 + (16#48).toNat - dramBase) 2 = [] := by
  decide +kernel
/-- The lighthouse core runs. -/
def lhSt : State := { State.reset with ef := { State.reset.ef with running := some 0 } }
/-- It reads the pair `ID.SERIAL`, in its reach, and then asks outside its reach. -/
theorem wit_lighthouse : lhSt.mayAsk 6 = true ∧ lhReach (4 * (2#24).toNat) = true ∧ pairAt (4 * (2#24).toNat) = some (8, false) ∧
    pairAt (4 * (3#24).toNat) = some (8, true) ∧ lhReach (4 * (0x40010#24).toNat) = false := by decide +kernel
theorem wit_lighthouse_high : ∃ s : State, s.mayAsk 6 = true ∧ s.bus.latch.get (busKey 8 6) 0 = 9 + 1 :=
  ⟨{ lhSt with bus := { lhSt.bus with latch := lhSt.bus.latch.set (busKey 8 6) (9 + 1) 0 } }, by decide +kernel⟩
/-- LOCK_GAINED has occurred, its enable is 0, and its vector is not masked. -/
theorem wit_enableRaises : ∃ s : State, s.hostReach = true ∧ s.rg TIDE_EVENT_EN_LOCK_GAINED = 0 ∧ s.rg TIDE_EVENT_LOCK_GAINED = 1 ∧
    bit (s.fw.msix.get 43 1) 0 = false :=
  ⟨let s := tst [(TIDE_EVENT_LOCK_GAINED, 1)]; { s with fw := { s.fw with msix := s.fw.msix.set 43 0 1 } }, by decide +kernel⟩

/-! ## Witnesses, part 2 -/

def wt1 : State := tst [(TIDE_CTRL_RUN, 1)]
def wt2 : State := { tst [(TIDE_ACTIVE_PERIOD, 1000), (TIDE_PERIOD_PERIOD, 1000)] with tide := {} }
theorem wit_tideSettings : ∃ (s : State) (v : BitVec 64), 10 ≤ v.toNat ∧ v.toNat ≤ 50 ∧ s.on TIDE_CTRL_RUN = true ∧
    (3#64).toNat % 4 = 3 := ⟨wt1, 20#64, by decide +kernel⟩
theorem wit_tideSettings_idle : ∃ s : State, s.on TIDE_CTRL_RUN = false := ⟨State.reset, by decide +kernel⟩
theorem wit_tideSettings_stopping : ∃ s : State, s.on TIDE_CTRL_RUN = false ∧ s.tide.running = true :=
  ⟨{ State.reset with tide := { running := true } }, by decide +kernel⟩
theorem wit_runStarts : ∃ (s : State) (w : BitVec 32), let u := s.tideCtrlFields w.toNat
    u.on TIDE_CTRL_RUN = false ∧ u.tide.running = false ∧ u.active.legal = true ∧ u.rg TIDE_ACTIVE_SRC = 0 :=
  ⟨wt2, 0x14000001#32, by decide +kernel⟩
theorem wit_runStarts_wclk : ∃ (s : State) (w : BitVec 32), let u := s.tideCtrlFields w.toNat
    u.on TIDE_CTRL_RUN = false ∧ u.tide.running = false ∧ u.active.legal = true ∧ u.rg TIDE_ACTIVE_SRC = 1 :=
  ⟨tst [(TIDE_PERIOD_PERIOD, 48)], 0x14010001#32, by decide +kernel⟩
theorem wit_runRefused : ∃ (s : State) (w : BitVec 32), let u := s.tideCtrlFields w.toNat
    u.on TIDE_CTRL_RUN = false ∧ u.tide.running = false ∧ u.active.legal = false :=
  ⟨tst [(TIDE_PERIOD_PERIOD, 5)], 0x14000001#32, by decide +kernel⟩
theorem wit_runClear : ∃ (s : State) (w : BitVec 32), (s.tideCtrlFields w.toNat).tide.running = true :=
  ⟨{ wt1 with tide := { running := true } }, 0x14000000#32, by decide +kernel⟩
theorem wit_runClear_idle : ∃ (s : State) (w : BitVec 32), (s.tideCtrlFields w.toNat).tide.running = false :=
  ⟨wt1, 0x14000000#32, by decide +kernel⟩
theorem wit_applyArm : ∃ s : State, s.on TIDE_CTRL_RUN = true := ⟨wt1, by decide +kernel⟩
theorem wit_applyArm_off : ∃ s : State, s.on TIDE_CTRL_RUN = false := ⟨.reset, by decide +kernel⟩
/-- Word clock mode: LOCK `lock`, `n` good edges counted, the last at time 0 if `last`; now 20 834 ns. -/
def wtEdge (lock n : Nat) (last : Bool) : State :=
  { tst [(TIDE_CTRL_RUN, 1), (TIDE_ACTIVE_SRC, 1), (TIDE_ACTIVE_PERIOD, 48), (TIDE_STATUS_LOCK, lock)] with
    tide := { good := n, lastEdge := if last then some 0 else none } }
/-- Whether the next edge, 20 834 ns after the last, is within 1 000 ppm of a sample period. -/
def goodNext (s : State) : Bool := match s.tide.lastEdge with
  | none => true
  | some l => wclkGood (rateHz (s.rg TIDE_ACTIVE_RATE)) ((s.pass 20834).rg TIME_NOW - l)
theorem wit_edge : ∃ s : State, s.rg TIDE_ACTIVE_SRC = 1 ∧ s.staging = true ∧ s.rg TIDE_STATUS_LOCK = 1 ∧
    s.tide.lastEdge = none ∧ s.tide.good < 63 := ⟨wtEdge 1 0 false, by decide +kernel⟩
theorem wit_edge_again : ∃ s : State, s.rg TIDE_ACTIVE_SRC = 1 ∧ s.staging = true ∧ s.rg TIDE_STATUS_LOCK = 3 ∧
    s.tide.lastEdge = some 0 ∧ goodNext s = true ∧ s.tide.good < 63 := ⟨wtEdge 3 62 true, by decide +kernel⟩
theorem wit_edge_locks : ∃ s : State, s.rg TIDE_ACTIVE_SRC = 1 ∧ s.staging = true ∧ s.rg TIDE_STATUS_LOCK = 1 ∧
    s.tide.lastEdge = some 0 ∧ goodNext s = true ∧ 63 ≤ s.tide.good := ⟨wtEdge 1 63 true, by decide +kernel⟩
theorem wit_edge_locked : ∃ s : State, s.rg TIDE_ACTIVE_SRC = 1 ∧ s.staging = true ∧ s.rg TIDE_STATUS_LOCK = 2 ∧
    s.tide.lastEdge = some 0 ∧ goodNext s = true := ⟨wtEdge 2 64 true, by decide +kernel⟩
theorem wit_edge_other : ∃ s : State, s.rg TIDE_ACTIVE_SRC ≠ 1 := ⟨tst [(TIDE_ACTIVE_SRC, 2)], by decide +kernel⟩
theorem wit_wclkLoss : ∃ s : State, s.rg TIDE_ACTIVE_SRC = 1 ∧ s.staging = true ∧ s.rg TIDE_STATUS_LOCK = 2 :=
  ⟨wtEdge 2 64 true, by decide +kernel⟩
theorem wit_wclkLoss_acquiring : ∃ s : State, s.rg TIDE_ACTIVE_SRC = 1 ∧ s.staging = true ∧ s.rg TIDE_STATUS_LOCK ≠ 2 :=
  ⟨wtEdge 1 5 true, by decide +kernel⟩
theorem wit_wclkLoss_none : ∃ s : State, s.staging = false := ⟨.reset, by decide +kernel⟩
/-- A gPTP source of port 0, locked or not. -/
def wtGptp (l : Bool) : State := { tst [(TIME_CTRL_TSRC, 1)] with tide := { locked := l } }
theorem wit_gptp : ∃ s : State, s.rg TIME_CTRL_TSRC = 1 ∧ s.rg TIME_CTRL_GPTP_PORT = b2n false ∧ s.tide.locked = false :=
  ⟨wtGptp false, by decide +kernel⟩
theorem wit_gptp_step : ∃ (s : State) (o : BitVec 64), s.rg TIME_CTRL_TSRC = 1 ∧ s.rg TIME_CTRL_GPTP_PORT = b2n false ∧
    s.tide.locked = true ∧ 1000 * s.rg TIME_CTRL_STEP_LIMIT < o.toInt.natAbs := ⟨wtGptp true, 0x1000000000#64, by decide +kernel⟩
theorem wit_gptp_rate : ∃ (s : State) (o : BitVec 64), s.rg TIME_CTRL_TSRC = 1 ∧ s.rg TIME_CTRL_GPTP_PORT = b2n false ∧
    s.tide.locked = true ∧ o.toInt.natAbs ≤ 1000 * s.rg TIME_CTRL_STEP_LIMIT := ⟨wtGptp true, 77#64, by decide +kernel⟩
theorem wit_gptp_other : ∃ s : State, s.rg TIME_CTRL_GPTP_PORT ≠ b2n true := ⟨wtGptp true, by decide +kernel⟩
theorem wit_gptp_source : ∃ s : State, s.rg TIME_CTRL_TSRC ≠ 1 := ⟨tst [(TIME_CTRL_TSRC, 2)], by decide +kernel⟩
theorem wit_syncLost : ∃ s : State, s.on TIME_SYNC_VALID = true ∧ s.staging = true ∧ s.rg TIDE_ACTIVE_SRC = 2 :=
  ⟨tst [(TIDE_CTRL_RUN, 1), (TIDE_ACTIVE_SRC, 2), (TIME_SYNC_VALID, 1)], by decide +kernel⟩
theorem wit_syncLost_idle : ∃ s : State, s.on TIME_SYNC_VALID = true ∧ s.staging = false :=
  ⟨tst [(TIME_SYNC_VALID, 1)], by decide +kernel⟩
theorem wit_syncLost_none : ∃ s : State, s.on TIME_SYNC_VALID = false := ⟨.reset, by decide +kernel⟩
theorem wit_ppsIn : ∃ s : State, s.rg TIME_CTRL_TSRC = 2 ∧ s.tide.ppsArmed = true :=
  ⟨{ tst [(TIME_CTRL_TSRC, 2)] with tide := { ppsArmed := true } }, by decide +kernel⟩
theorem wit_ppsIn_later : ∃ s : State, s.rg TIME_CTRL_TSRC = 2 ∧ s.tide.ppsArmed = false ∧ s.tide.locked = true :=
  ⟨{ tst [(TIME_CTRL_TSRC, 2)] with tide := { locked := true } }, by decide +kernel⟩
theorem wit_ppsIn_idle : ∃ s : State, s.rg TIME_CTRL_TSRC = 2 ∧ s.tide.ppsArmed = false ∧ s.tide.locked = false :=
  ⟨tst [(TIME_CTRL_TSRC, 2)], by decide +kernel⟩
theorem wit_ppsOut : ∃ s : State, s.on TIDE_CTRL_PPS_OUT_EN = true ∧ s.on TIME_SYNC_VALID = true :=
  ⟨tst [(TIME_NOW, 999999999), (TIDE_CTRL_PPS_OUT_EN, 1), (TIME_SYNC_VALID, 1)], by decide +kernel⟩
theorem wit_ppsOut_off : ∃ s : State, s.on TIME_SYNC_VALID = false := ⟨.reset, by decide +kernel⟩
theorem wit_wclkOut : ∃ s : State, s.on TIDE_CTRL_WCLK_OUT_EN = true ∧ s.rg TIDE_ACTIVE_SRC ≠ 1 ∧
    0 < 30000 * rateHz (s.rg TIDE_ACTIVE_RATE) / 1000000000 - s.rg TIME_NOW * rateHz (s.rg TIDE_ACTIVE_RATE) / 1000000000 :=
  ⟨tst [(TIDE_CTRL_WCLK_OUT_EN, 1), (TIDE_ACTIVE_SRC, 0)], by decide +kernel⟩
/-- Free-running tides. -/
def wtRun : State := { tst [(TIDE_CTRL_RUN, 1), (TIDE_ACTIVE_SRC, 0), (TIDE_CTRL_SRC, 0), (TIDE_ACTIVE_PERIOD, 1000), (TIDE_PERIOD_PERIOD, 1000)] with
  tide := { running := true, numbered := true } }
theorem wit_boundary : ∃ s : State, s.boundaryDue = true ∧ s.tide.running = true := ⟨wtRun, by decide +kernel⟩
theorem wit_boundary_first : ∃ s : State, s.boundaryDue = true ∧ s.tide.running = false :=
  ⟨{ wtRun with tide := {} }, by decide +kernel⟩
theorem wit_boundary_none : ∃ s : State, s.boundaryDue = false := ⟨.reset, by decide +kernel⟩
theorem wit_tideNumber : ∃ s : State, s.rg TIDE_NUM < 2 ^ 48 - 1 ∧ s.tide.numbered = true ∧ s.tide.rephase = false ∧
    s.tide.applied = false := ⟨wtRun, by decide +kernel⟩
theorem wit_tideNumber_first : ∃ s : State, s.rg TIDE_NUM < 2 ^ 48 - 1 ∧ s.tide.numbered = false ∧
    s.on TIME_SYNC_VALID = false := ⟨wt1, by decide +kernel⟩
theorem wit_tideNumber_rephase : ∃ s : State, s.rg TIDE_NUM < 2 ^ 48 - 1 ∧ s.tide.numbered = true ∧ s.tide.rephase = true ∧
    s.on TIME_SYNC_VALID = false := ⟨{ wtRun with tide := { running := true, numbered := true, rephase := true } }, by decide +kernel⟩
/-- An apply armed for the present tide. -/
def wtApply (p : Nat) : State := (wtRun.wr TIDE_APPLY_HI_PEND 1).wr TIDE_PERIOD_PERIOD p
theorem wit_apply : ∃ (s : State) (maxL : Nat), s.on TIDE_APPLY_HI_PEND = true ∧ s.applyTarget ≤ s.rg TIDE_NUM ∧
    s.staged.legal = true ∧ maxL ≤ s.budgetOf s.staged := ⟨wtApply 2000, 5, by decide +kernel⟩
theorem wit_apply_refused : ∃ (s : State) (maxL : Nat), s.on TIDE_APPLY_HI_PEND = true ∧ s.applyTarget ≤ s.rg TIDE_NUM ∧
    s.staged.legal = true ∧ s.budgetOf s.staged < maxL := ⟨wtApply 63, 10000000, by decide +kernel⟩
theorem wit_apply_illegal : ∃ s : State, s.on TIDE_APPLY_HI_PEND = true ∧ s.applyTarget ≤ s.rg TIDE_NUM ∧
    s.staged.legal = false := ⟨wtApply 62, by decide +kernel⟩

/-! ## Witnesses, part 3 -/

/-- Station 0 of terrace 0 runs, its next instruction the word `w`, with some fields written. -/
def sq (w : Nat) (l : List (Fld × Nat) := []) : State := (tst ((SEQ_STATE_STATE 0 0, 2) :: l)).stN (rowAddr 0 0 3 0) 8 w
def st0 : StId := ⟨0, 0⟩
/-- An instruction word from its opcode and the rest. -/
def op (o r : Nat) : Nat := o * 2 ^ 58 + r

theorem wit_nop : (sq (op 0 0)).nextInsn st0 (op 0 0) ∧ opOf (op 0 0) = 0x00 := by decide +kernel
theorem wit_waitp : (sq (op 8 0)).nextInsn st0 (op 8 0) ∧ opOf (op 8 0) = 0x08 ∧
    (sq (op 8 0)).sideOf 0 0 (bits (op 8 0) 56 2) = some (0, 0) ∧
    (sq (op 8 0)).present 0 0 (bits (op 8 0) 50 6) = bit (op 8 0) 49 := by decide +kernel
theorem wit_waitp_stalls : let w := op 8 (2 ^ 49)
    (sq w).nextInsn st0 w ∧ (sq w).sideOf 0 0 (bits w 56 2) = some (0, 0) ∧ (sq w).present 0 0 (bits w 50 6) ≠ bit w 49 := by
  decide +kernel
theorem wit_waitf : let w := op 0xC 0
    let s := sq w [(TFLAG_STATE_FLAGS 0, 1)]
    s.nextInsn st0 w ∧ opOf w = 0x0C ∧ bit (s.rg (TFLAG_STATE_FLAGS 0)) (bits w 48 5) = true := by decide +kernel
theorem wit_waitf_stalls : let w := op 0xC 0
    (sq w).nextInsn st0 w ∧ opOf w = 0x0C ∧ bit ((sq w).rg (TFLAG_STATE_FLAGS 0)) (bits w 48 5) = false := by decide +kernel
theorem wit_bar : let w := op 0xB (2 ^ 57 + 2 ^ 56 + 2 ^ 54)
    (sq w).nextInsn st0 w ∧ opOf w = 0x0B ∧ bit w 54 = true ∧ bit w 57 = true ∧ (sq w).tilesOut 0 0 = false ∧ bit w 56 = true ∧
      (sq w).onLinks 0 0 false = false := by decide +kernel
theorem wit_bar_stalls : let w := op 0xB (2 ^ 57)
    let s := (sq w).onStn 0 0 fun v => { v with tiles := [{}] }
    s.nextInsn st0 w ∧ opOf w = 0x0B ∧ bit w 57 = true ∧ s.tilesOut 0 0 = true := by decide +kernel
/-- Rows of station 0 under way to the next station. -/
def onLink (s : State) (n : Nat) : State := s.onStn 0 0 fun v => { v with hi := { v.hi with rows := List.replicate n {} } }
theorem wit_bar_stalls_stores : let w := op 0xB (2 ^ 56)
    let s := onLink (sq w) 1
    s.nextInsn st0 w ∧ opOf w = 0x0B ∧ bit w 56 = true ∧ s.onLinks 0 0 false = true := by decide +kernel
theorem wit_stop : (sq (op 0x3F 0)).nextInsn st0 (op 0x3F 0) ∧ opOf (op 0x3F 0) = 0x3F ∧
    (sq (op 0x3F 0)).outstanding 0 0 = false := by decide +kernel
theorem wit_stop_stalls : let s := onLink (sq (op 0x3F 0)) 1
    s.nextInsn st0 (op 0x3F 0) ∧ s.outstanding 0 0 = true := by decide +kernel
theorem wit_loop : let w := op 0x10 (4 * 2 ^ 32 + 3)
    (sq w).nextInsn st0 w ∧ opOf w = 0x10 ∧ bit w 55 = false ∧ 0 < bits w 0 16 := by decide +kernel
theorem wit_loop_none : let w := op 0x10 (4 * 2 ^ 32)
    (sq w).nextInsn st0 w ∧ opOf w = 0x10 ∧ bit w 55 = false ∧ bits w 0 16 = 0 ∧ ((sq w).stn 0 0).loops = [] := by decide +kernel
theorem wit_loop_above : let w := op 0x10 (2 ^ 55 + 4 * 2 ^ 32 + 3)
    let s := sq w [(SEQ_PTR 0 0 0, 4)]
    s.nextInsn st0 w ∧ opOf w = 0x10 ∧ bit w 55 = true ∧ bits w 0 16 < s.ptr 0 0 (bits w 46 5) ∧
      s.on (SEQ_FAULT_VALID 0 0) = false := by decide +kernel
theorem wit_skip : let w := op 0x11 (2 * 2 ^ 32)
    (sq w).nextInsn st0 w ∧ opOf w = 0x11 ∧ (sq w).skipCond 0 0 w = true ∧
      (∀ r ∈ ((sq w).stn 0 0).loops, r.stop ≠ (sq w).rg (SEQ_STATE_PC 0 0)) := by decide +kernel
theorem wit_skip_not : let w := op 0x11 (3 * 2 ^ 54 + 2 * 2 ^ 32)
    (sq w).nextInsn st0 w ∧ opOf w = 0x11 ∧ (sq w).skipCond 0 0 w = false := by decide +kernel
theorem wit_skipConditions : ∃ (s : State) (r : LoopRec), (s.stn 0 0).loops.find? (fun r => r.lvl == 0) = some r :=
  ⟨(sq 0).onStn 0 0 fun v => { v with loops := [{}] }, {}, by decide +kernel⟩
theorem wit_ptr (f : Fin 3) : let w := op 0x12 (f.val * 2 ^ 55)
    (sq w).nextInsn st0 w ∧ opOf w = 0x12 ∧ bits w 55 3 = f.val := by revert f; decide +kernel
/-- Descriptor 0: own activation memory, four rows from row 2, static. -/
def withDesc (s : State) : State := s.wrs [(SEQ_DESC_WORD 0 0 0, 2 ^ 30), (SEQ_DESC_WORD 0 0 1, 4 * 2 ^ 16 + 2)]
theorem wit_ptrLoad : let w := op 0x12 (3 * 2 ^ 55)
    let s := withDesc (sq w)
    s.nextInsn st0 w ∧ opOf w = 0x12 ∧ bits w 55 3 = 3 ∧ s.rowReads st0 w (zeros 512) := by decide +kernel
theorem wit_setd (f : Fin 5) : let w := op 0x13 (f.val * 2 ^ 55)
    let s := (sq w).onStn 0 0 fun v => { v with slice := some {} }
    s.nextInsn st0 w ∧ opOf w = 0x13 ∧ bits w 55 3 = f.val ∧ (s.stn 0 0).slice = some {} := by revert f; decide +kernel
theorem wit_ldbias : let w := op 3 0
    let s := withDesc (sq w)
    s.nextInsn st0 w ∧ opOf w = 0x03 ∧ (s.stn 0 0).waiting = [] ∧ s.rowReads st0 w (zeros 512) := by decide +kernel
theorem wit_vld : let w := op 0x18 0
    let s := withDesc (sq w)
    s.nextInsn st0 w ∧ opOf w = 0x18 ∧ bits w 41 4 < 8 ∧ s.rowReads st0 w (zeros 512) := by decide +kernel
theorem wit_ldcurve : let w := op 4 0
    let s := (withDesc (sq w)).wr (SEQ_DESC_WORD 0 0 1) (9 * 2 ^ 16)
    s.nextInsn st0 w ∧ opOf w = 0x04 ∧ (s.stn 0 0).curveLoad = none ∧ dOk (s.desc 0 0 0) (s.rowOffset 0 0 w + 8) = true ∧
      dOk (s.desc 0 0 0) (s.rowOffset 0 0 w) = true := by decide +kernel
theorem wit_ldcurve_stalls : let w := op 4 0
    let s := (sq w).onStn 0 0 fun v => { v with curveLoad := some {} }
    s.nextInsn st0 w ∧ opOf w = 0x04 ∧ (s.stn 0 0).curveLoad.isSome = true := by decide +kernel
theorem wit_vst : let w := op 0x19 0
    let s := withDesc (sq w)
    s.nextInsn st0 w ∧ opOf w = 0x19 ∧ bits w 41 4 < 8 ∧ dOk (s.desc 0 0 0) (s.rowOffset 0 0 w) = true ∧
      s.rowRef 0 0 (s.desc 0 0 0) (s.rowOffset 0 0 w) = some ⟨0, 0, 1, 2, none, 0, false⟩ ∧ dSrc (s.desc 0 0 0) = 0 ∧
      s.rg (TAKE_STATUS_PHASE 0) ≠ 2 := by decide +kernel
theorem wit_vst_noCredit : let w := op 0x19 0
    let s := onLink ((withDesc (sq w)).wr (SEQ_DESC_WORD 0 0 0) (2 ^ 30 + 2 * 2 ^ 28)) 8
    s.nextInsn st0 w ∧ bits w 41 4 < 8 ∧ dOk (s.desc 0 0 0) (s.rowOffset 0 0 w) = true ∧
      s.writeWait 0 0 (s.desc 0 0 0) (s.rowOffset 0 0 w) = none ∧ s.creditWait 0 0 (s.desc 0 0 0) = true := by decide +kernel
theorem wit_movr : let w := op 0x14 (2 ^ 44 + 1 * 2 ^ 52)
    let s := (withDesc (sq w)).wrs [(SEQ_DESC_WORD 0 0 8, 2 ^ 30), (SEQ_DESC_WORD 0 0 9, 4 * 2 ^ 16 + 6)]
    s.nextInsn st0 w ∧ opOf w = 0x14 ∧ bits w 44 8 = 1 ∧ (s.stn 0 0).mov = 0 ∧ dOk (s.desc 0 0 0) 0 = true ∧ dOk (s.desc 0 0 1) 0 = true ∧
      s.readOff 0 0 (s.desc 0 0 0) 0 = (.ok (zeros 512), s) ∧
      s.rowRef 0 0 (s.desc 0 0 0) 0 = some ⟨0, 0, 1, 2, none, 0, false⟩ ∧
      s.rowRef 0 0 (s.desc 0 0 1) 0 = some ⟨0, 0, 1, 6, none, 0, false⟩ ∧ dSrc (s.desc 0 0 1) = 0 := by decide +kernel
theorem wit_rel : let w := op 9 0
    let s := sq w [(SLOT_STAT_PRESENT 0 0 0, 1), (SLOT_CFG_KIND 0 0 0, 1)]
    s.nextInsn st0 w ∧ opOf w = 0x09 ∧ (s.stn 0 0).suppress = [] ∧ s.sideOf 0 0 (bits w 56 2) = some (0, 0) ∧
      s.present 0 0 (bits w 50 6) = true ∧ s.rg (SLOT_CFG_KIND 0 0 0) = 1 := by decide +kernel
theorem wit_rel_stream : let w := op 9 0
    let s := sq w [(SLOT_STAT_PRESENT 0 0 0, 1)]
    s.nextInsn st0 w ∧ s.present 0 0 (bits w 50 6) = true ∧ s.rg (SLOT_CFG_KIND 0 0 0) = 0 ∧
      s.rg (SLOT_STAT_RELEASED 0 0 0) + 1 = s.rg (SLOT_CFG_READERS 0 0 0) := by decide +kernel
theorem wit_rel_null : let w := op 9 0
    (sq w).nextInsn st0 w ∧ opOf w = 0x09 ∧ (sq w).present 0 0 (bits w 50 6) = false := by decide +kernel
theorem wit_setp : let w := op 0xA 0
    (sq w).nextInsn st0 w ∧ opOf w = 0x0A ∧ bits w 56 2 = 0 ∧ (sq w).present 0 0 (bits w 50 6) = false := by decide +kernel
theorem wit_setp_null : let w := op 0xA 0
    let s := sq w [(SLOT_STAT_PRESENT 0 0 0, 1)]
    s.nextInsn st0 w ∧ opOf w = 0x0A ∧ bits w 56 2 = 0 ∧ s.present 0 0 (bits w 50 6) = true := by decide +kernel
/-- Descriptors 0 and 1 with 64 rows each, and a TILE or TILEW of one tile that drains into the lanes. -/
def runSt (o : Nat) : State := (withDesc (sq (op o (2 ^ 52 + 3 * 2 ^ 45 + 2 ^ 21 + 2 ^ 9)))).wrs [(SEQ_DESC_WORD 0 0 1, 64 * 2 ^ 16),
  (SEQ_DESC_WORD 0 0 9, 64 * 2 ^ 16)]
theorem wit_tile (win : Bool) : let o := if win then 2 else 1
    let w := op o (2 ^ 52 + 3 * 2 ^ 45 + 2 ^ 21 + 2 ^ 9)
    let s := runSt o
    s.nextInsn st0 w ∧ opOf w = o ∧ (s.stn 0 0).queued = none ∧ tDst w = 3 ∧ tPre w ≠ 2 ∧
      runOk (s.desc 0 0 (tWd w)) (tT w) (tileRows (formN (tForm w)) (32 * tKb w) (dBits (s.desc 0 0 (tWd w)))) = true ∧
      runOk (s.desc 0 0 (tAd w)) (tT w) (tileRows (formM (tForm w)) (32 * tKb w) (dBits (s.desc 0 0 (tAd w)))) = true := by
  revert win; decide +kernel
theorem wit_tile_stalls : let w := op 1 0
    let s := (sq w).onStn 0 0 fun v => { v with queued := some {} }
    s.nextInsn st0 w ∧ opOf w = 0x01 ∧ (s.stn 0 0).queued.isSome = true := by decide +kernel
theorem wit_sliceEnd : let s := (sq 0).onStn 0 0 fun v => { v with stopIssued := true }
    s.idleStn 0 0 = true ∧ (s.stn 0 0).ended = none ∧ s.rg (SEQ_STATE_STATE 0 0) = 2 := by decide +kernel
theorem wit_sliceEnd_stalled : let s := ((sq 0).wr (SEQ_STATE_STATE 0 0) 3).onStn 0 0 fun v => { v with stopIssued := true }
    s.idleStn 0 0 = true ∧ (s.stn 0 0).ended = none ∧ s.rg (SEQ_STATE_STATE 0 0) = 3 := by decide +kernel
theorem wit_sliceEnd_not : (sq 0).idleStn 0 0 = false := by decide +kernel

/-! ## Witnesses, part 4 -/

/-- A BF16 run of one tile of 32 steps whose operands lie in rows 0 to 15 of the activation memory. -/
def bfRun : Run :=
  { no := 1, word := 2 ^ 52 + 3 * 2 ^ 45 + 2 ^ 21 + 2 ^ 9
    ad := [2 ^ 30 + 5 * 2 ^ 24, 16 * 2 ^ 16, 0, 0, 0, 0, 0, 0]
    wd := [2 ^ 30 + 5 * 2 ^ 24, 16 * 2 ^ 16, 0, 0, 0, 0, 0, 0] }
def bfSt : State := (sq 0).onStn 0 0 fun v => { v with issuing := some bfRun }
/-- Whether the operands of the run's next tile are there, and nothing else changes. -/
def fed (s : State) (r : Run) : Bool := match s.feed 0 0 0 r with
  | .ok _ _ _ _ s' => decide (s' = s)
  | .stop _ => false
theorem wit_tileIssue : (bfSt.stn 0 0).issuing = some bfRun ∧ (bfSt.stn 0 0).tiles.length < 2 ∧
    bfSt.rg (SEQ_STATE_STATE 0 0) = 2 ∧ tGrp bfRun.word = 0 ∧ 0 < tKb bfRun.word ∧ dFmt bfRun.wd ≠ 4 ∧
    intMode (dFmt bfRun.ad) (dFmt bfRun.wd) = false ∧ fed bfSt bfRun = true ∧ tT bfRun.word ≤ bfRun.next + 1 := by decide +kernel
/-- A run of two tiles over the same rows; then with TABLE4 weights, whose table it holds. -/
def bfRun2 (tab : Bool) : Run := { bfRun with word := 2 ^ 52 + 3 * 2 ^ 45 + 2 ^ 21 + 2 ^ 10, tab := some []
                                              wd := [2 ^ 30 + (if tab then 4 else 5) * 2 ^ 24, 16 * 2 ^ 16, 0, 0, 0, 0, 0, 0] }
def bfSt2 (tab : Bool) : State := (sq 0).onStn 0 0 fun v => { v with issuing := some (bfRun2 tab) }
theorem wit_tileIssue_more : ∀ tab, ((bfSt2 tab).stn 0 0).issuing = some (bfRun2 tab) ∧ tGrp (bfRun2 tab).word = 0 ∧
    (bfRun2 tab).tab.isSome = true ∧ intMode (dFmt (bfRun2 tab).ad) (dFmt (bfRun2 tab).wd) = false ∧
    fed (bfSt2 tab) (bfRun2 tab) = true ∧ (bfRun2 tab).next + 1 < tT (bfRun2 tab).word := by decide +kernel
def laneTile : TileRec := { run := bfRun, rowSum := List.replicate 32 fzero, rowMag := List.replicate 32 fzero }
def laneSt : State := (sq 0).onStn 0 0 fun v => { v with tiles := [laneTile] }
theorem wit_tileComplete : (laneSt.stn 0 0).tiles = [laneTile] ∧ laneSt.rg (SEQ_STATE_STATE 0 0) = 2 ∧ tDst laneTile.run.word = 3 ∧
    laneTile.left = none ∧ laneTile.colSum = [] ∧ ∀ i < 32, drainOk ((List.range 32).map fun j => decW (laneTile.cells.getD (32 * i + j) 0))
      (laneTile.rowSum.getD i fzero) (laneTile.rowMag.getD i fzero) laneTile.n = true := by decide +kernel
/-- A tile whose last row still waits, to own activation memory, in ring slot 0 or in none. -/
def leftTile (slot : Bool) : TileRec :=
  { run := { word := 0, od := [2 ^ 30 + (if slot then 2 ^ 23 else 0), 16 * 2 ^ 16, 0, 0, 0, 0, 0, 0] }, left := some [zeros 512] }
def leftSt (slot : Bool) : State := (tst [(SEQ_STATE_STATE 0 0, 2), (SLOT_STAT_PRESENT 0 0 0, 1), (SLOT_CFG_ROWS 0 0 0, 16)]).onStn 0 0
  fun v => { v with tiles := [leftTile slot] }
theorem wit_tileComplete_rest : ((leftSt false).stn 0 0).tiles = [leftTile false] ∧ (leftSt false).rg (SEQ_STATE_STATE 0 0) = 2 ∧
    tDst (leftTile false).run.word ≠ 3 ∧ ((leftSt false).stn 0 0).curveLoad = none ∧
    ((leftSt false).drainRows 0 0 (leftTile false).run (leftTile false).t [zeros 512]).2 = [] := by decide +kernel
theorem wit_tileComplete_waits : ((leftSt true).stn 0 0).tiles = [leftTile true] ∧ tDst (leftTile true).run.word ≠ 3 ∧
    ((leftSt true).drainRows 0 0 (leftTile true).run (leftTile true).t [zeros 512]).2 ≠ [] := by decide +kernel
def curveSt : State := (sq 0).onStn 0 0 fun v => { v with curveLoad := some { desc := [2 ^ 30, 16 * 2 ^ 16, 0, 0, 0, 0, 0, 0] } }
theorem wit_curveDone : (curveSt.stn 0 0).waiting = [] ∧ (curveSt.stn 0 0).tiles = [] ∧
    (match curveSt.readOffs 0 0 [2 ^ 30, 16 * 2 ^ 16, 0, 0, 0, 0, 0, 0] 0 9 with
     | (.ok _, s) => decide (s = curveSt)
     | _ => false) = true := by decide +kernel
theorem wit_repair : State.reset.assigned 0 0 = false ∧ bit (0x80002020#32).toNat 30 = false ∧
    bits (0x80002020#32).toNat 8 6 = 32 ∧ bits (0x80002020#32).toNat 0 6 = 32 := by decide +kernel
theorem wit_repair_assigned : (tst [(MAP_ASSIGNED 0 0, 1)]).assigned 0 0 = true := by decide +kernel
theorem wit_slotSet : let s := tst [(SLOT_CFG_EN 0 0 5, 1)]
    s.on (SLOT_CFG_EN 0 0 5) = true ∧ s.rg (SLOT_CFG_KIND 0 0 5) ≠ 2 ∧ s.present 0 0 5 = false := by decide +kernel
theorem wit_slotHeld : (tst [(SLOT_CFG_KIND 0 0 5, 2)]).rg (SLOT_CFG_KIND 0 0 5) = 2 := by decide +kernel
theorem wit_slotRelease : let s := tst [(SLOT_STAT_PRESENT 0 0 5, 1)]
    s.rg (SLOT_CFG_KIND 0 0 5) = 0 ∧ s.present 0 0 5 = true ∧
      s.rg (SLOT_STAT_RELEASED 0 0 5) + 1 = s.rg (SLOT_CFG_READERS 0 0 5) := by decide +kernel
theorem wit_slotRelease_more : let s := tst [(SLOT_STAT_PRESENT 0 0 5, 1), (SLOT_CFG_READERS 0 0 5, 2)]
    s.rg (SLOT_CFG_KIND 0 0 5) = 0 ∧ s.present 0 0 5 = true ∧
      s.rg (SLOT_STAT_RELEASED 0 0 5) + 1 < s.rg (SLOT_CFG_READERS 0 0 5) := by decide +kernel
/-- One row under way from station 1 of terrace 0 to station 0. -/
def linkSt : State := State.reset.onStn 0 1 fun v => { v with lo := { rows := [{ data := zeros 512, set := true }], credits := 8 } }
theorem wit_linkRow : adjacent 0 0 true = some (0, 1) ∧ linkSt.on (MEM_PASS_EN 0 0) = false ∧
    (linkSt.stn 0 1).link false = { rows := [{ data := zeros 512, set := true }], credits := 7 + 1 } ∧
    linkSt.present 0 (linkSt.land 0 0) 0 = false ∧ linkSt.rg (TAKE_STATUS_PHASE 0) ≠ 2 := by decide +kernel
/-- The same row meets a station in pass-through with room on its other link. -/
theorem wit_linkRow_pass : let s := linkSt.wr (MEM_PASS_EN 0 0) 1
    adjacent 0 0 true = some (0, 1) ∧ (s.stn 0 1).link false = { rows := [{ data := zeros 512, set := true }], credits := 7 + 1 } ∧
      s.on (MEM_PASS_EN 0 0) = true ∧ ((s.stn 0 0).link false).rows.length < ((s.stn 0 0).link false).credits := by decide +kernel
theorem wit_linkRow_returned : State.reset.on (MEM_PASS_EN 0 0) = false := by decide +kernel
theorem wit_memPass : State.reset.assigned 0 0 = false := by decide +kernel
theorem wit_memPass_assigned : let s := tst [(MAP_ASSIGNED 0 0, 1)]
    s.assigned 0 0 = true ∧ bits (0x80000000#32).toNat 31 1 ≠ s.rg (MEM_PASS_EN 0 0) := by decide +kernel
theorem wit_tstore : bits (0x60#32).toNat 0 8 ≤ 128 ∧ State.reset.rg (TSTORE_CTRL_PAGES 0) ≤ bits (0x60#32).toNat 0 8 ∧
    ∀ p < 17, State.reset.assigned 0 p = false := by decide +kernel
theorem wit_tstore_reserved : 128 < bits (0x81#32).toNat 0 8 := by decide +kernel
theorem wit_scrub : 63 < 64 ∧ (0#12).toNat < memRows 0 ∧ State.reset.ecc = [] ∧ State.reset.on (MEM_ECC_LOG_VALID 0 0) = false ∧
    State.reset.assigned 0 0 = false := by decide +kernel
theorem wit_takeReq : State.reset.rg (TAKE_STATUS_PHASE 0) ≠ 2 ∧ State.reset.rg (TAKE_STATUS_PHASE 0) ≠ 3 ∧
    (State.reset.ter 0).takeReq = none ∧ ∀ p < 17, State.reset.assigned 0 p = false := by decide +kernel
theorem wit_takeReq_refused : (tst [(TAKE_STATUS_PHASE 0, 2)]).rg (TAKE_STATUS_PHASE 0) = 2 := by decide +kernel
theorem wit_takeRestore_refused : (tst [(MAP_ASSIGNED 0 3, 1)]).assigned 0 3 = true := by decide +kernel
theorem wit_takeCopy : let s := (tst [(TAKE_STATUS_PHASE 0, 2), (TAKE_STATUS_POS 0, 3)]).stN 5 1 1
    s.rg (TAKE_STATUS_PHASE 0) = 2 ∧ s.mem.canonical 0#8 ∧ s.rg (TAKE_STATUS_POS 0) < 16 := by decide +kernel

/-! ## Witnesses, part 5 -/

/-- Station 0 of terrace 0 with the vector function `f` next, in view `v`, VD = 1, VA = 2, VB = 3, VC = 4. -/
def vw (f v r : Nat) : Nat := op 0x1A (f * 2 ^ 50 + 1 * 2 ^ 46 + 2 * 2 ^ 42 + 3 * 2 ^ 38 + 4 * 2 ^ 34 + v * 2 ^ 32 + r)
theorem wit_vec (f : Fin 0x19) : (sq (vw f.val 2 0)).nextVec st0 f.val (vw f.val 2 0) := by revert f; decide +kernel
theorem wit_vec_other : (sq (vw 0x20 0 2)).nextVec st0 0x20 (vw 0x20 0 2) ∧ (sq (vw 0x28 2 0)).nextVec st0 0x28 (vw 0x28 2 0) ∧
    (sq (vw 0x28 0 0)).nextVec st0 0x28 (vw 0x28 0 0) ∧ (sq (vw 0x30 0 0)).nextVec st0 0x30 (vw 0x30 0 0) ∧
    (sq (vw 0x40 0 0)).nextVec st0 0x40 (vw 0x40 0 0) ∧ (sq (vw 0x41 0 0)).nextVec st0 0x41 (vw 0x41 0 0) ∧
    (sq (vw 0x42 0 (2 ^ 23))).nextVec st0 0x42 (vw 0x42 0 (2 ^ 23)) := by decide +kernel
theorem wit_vabs : let s := sq (vw 7 2 0)
    ∀ x < 128, s.el st0 2 2 x ≠ 2 ^ 31 := by decide +kernel
/-- Window configuration 0: one pixel, one channel, a kernel of one tap, its buffer descriptor 0. -/
def winSt (f : Nat) (r : Nat := 1) : State :=
  ((withDesc (sq (vw f 0 r))).wrs [(SEQ_DESC_WORD 0 0 1, 1 * 2 ^ 16)]).onStn 0 0 fun v => { v with wcfg := [(0,
    [1, 0, 1, 0, 1, 0, 1, 0, 0, 0, 8, 0, 1, 1, 1, 1, 1, 1, 0, 0, 0, 0, 0, 0, 1, 0, 1, 0].map (BitVec.ofNat 8) ++ zeros 484)] }
/-- The rows that the window functions read, each once for a line of the kernel. -/
def winOffs (as : List (Nat × Option (Nat × Nat))) : List Nat :=
  (as.filterMap fun a => a.2.map fun x => (a.1, x.1)).eraseDups.map fun a => a.2
theorem wit_window (f : Fin 2) : let w := vw (0x38 + f.val) 0 1
    let s := winSt (0x38 + f.val)
    let c := WinCfg.ofRow ((s.stn 0 0).wcfg.get (bits w 31 3) (zeros 512))
    s.nextVec st0 (0x38 + f.val) w ∧ (s.stn 0 0).waiting = [] ∧ c.kh * c.kw ≤ 32 ∧
      s.gather 0 0 (s.desc 0 0 (c.lbd % 8)) (winOffs (winReads s st0 c w (s.rg (WIN_OPOS 0 0 (bits w 31 3))))) [] = (.ok [], [(0, zeros 512)], s) := by revert f; decide +kernel
theorem wit_crop : let w := vw 0x3A 0 0
    let s := winSt 0x3A 0
    let c := WinCfg.ofRow ((s.stn 0 0).wcfg.get (bits w 31 3) (zeros 512))
    s.nextVec st0 0x3A w ∧ s.gather 0 0 (s.desc 0 0 (c.lbd % 8)) (winOffs ((List.range 128).map fun x => match cropAt s st0 c w x with
        | some (some y) => (cropAddrs c 8 y).map fun a => (0, a)
        | _ => []).flatten) [] = (.ok [], [(0, zeros 512)], s) := by
  decide +kernel
theorem wit_wcfg : let w := op 5 0
    let s := ((withDesc (sq w)).wrs [(SEQ_DESC_WORD 0 0 1, 1 * 2 ^ 16)]).st 0x80000
      ([1, 0, 1, 0, 1, 0, 1, 0, 0, 0, 8, 0, 1, 1, 1, 1, 1, 1, 0, 0, 0, 0, 0, 0, 1, 0, 1, 0].map (BitVec.ofNat 8))
    let s := s.onStn 0 0 fun v => { v with slice := some { nDesc := 1 } }
    let l := s.ld 0x80000 512
    s.nextInsn st0 w ∧ opOf w = 0x05 ∧ (s.stn 0 0).waiting = [] ∧ s.rowReads st0 w l ∧
      (WinCfg.ofRow l).invalid (s.desc 0 0 ((WinCfg.ofRow l).lbd % 8)) 1 = none := by decide +kernel

/-! ## Witnesses, part 6 -/

theorem wit_jobStart : let s := tst [(ATT_Q_EN 0 1, 1), (TFLAG_STATE_FLAGS 0, 1)]
    let ready (k : Nat) : Bool := s.on (ATT_Q_EN 0 k) && !s.on (ATT_Q_RAN 0 k) && bit (s.rg (TFLAG_STATE_FLAGS 0)) (s.rg (ATT_Q_GO 0 k))
    s.on (ATT_STATUS_BUSY 0) = false ∧ ready 1 = true ∧ ∀ k < 1, ready k = false := by decide +kernel
theorem wit_jobDone : let s := (tst [(ATT_STATUS_BUSY 0, 1), (ATT_STATUS_QUEUE 0, 2)]).onAtt 0 fun a => { a with fin := true }
    s.on (ATT_STATUS_BUSY 0) = true ∧ (s.att 0).fin = true ∧ s.rg (ATT_STATUS_QUEUE 0) = 2 := by decide +kernel
/-- A running job whose descriptor row 5 has two entries, the first with the bytes `e`. -/
def attSt (hdr e : List Nat) : State :=
  ((tst [(ATT_STATUS_BUSY 0, 1), (ATT_STATUS_ROW 0, 5), (PS_CTRL_EN, 1)]).st (tsAddr 0 5) (hdr.map (BitVec.ofNat 8))).st
    (tsAddr 0 5 + 32) (e.map (BitVec.ofNat 8))
/-- The entry that a running job reads. -/
def attX (s : State) : Entry := (s.entry 0).1.1
theorem wit_attend_refused : let s := attSt [0, 0, 2] []
    s.attBusy 0 = true ∧ s.entry 0 = ((attX s, true), s) ∧ bit (attX s).kind 0 = false ∧
      s.rg (ATT_STATUS_ENTRY 0) + 1 < (attX s).count ∧ s.attendOk 0 (attX s) = false ∧ s.on (ATT_FAULT_VALID 0) = false := by
  decide +kernel
/-- One query head over no position. -/
def attOne : State := attSt [0, 0, 2] [0, 0, 0, 0, 0, 0, 1, 1, 0, 0, 0, 0, 0, 0, 0, 0, 10, 0, 11]
theorem wit_attend_ok : let s := attOne
    s.attBusy 0 = true ∧ s.entry 0 = ((attX s, true), s) ∧ bit (attX s).kind 0 = false ∧
      s.rg (ATT_STATUS_ENTRY 0) + 1 < (attX s).count ∧ s.attendOk 0 (attX s) = true ∧ (attX s).range = 0 ∧
      s.tsRows 0 (attX s).qrow (ceilDiv (attX s).outs 4) = (some (zeros 512), s) ∧
      s.tsRows 0 (attX s).srow (ceilDiv (attX s).outs 256) = (some (zeros 512), s) ∧
      s.tsRows 0 (attX s).mrow (attX s).mrows = (some [], s) := by decide +kernel
/-- One position appended, for sequence 0 of generation 0, whose page 0 is found through the tables. -/
def appSt : State :=
  (((attSt [0, 0, 2] [0, 0, 0, 1, 0, 0, 1, 0, 0, 0, 0, 0, 0, 0, 0, 0, 10, 0, 11, 0, 12]).wrs [(PS_SEQ_BASE, 0x1000000000), (PS_PT_BASE, 0x1000001000),
    (PS_KV_BASE, 0x1000004000), (PS_INFO_BASE, 0x1000000100), (PS_KV_PAGES, 8)]).st 0x1000000000 ([0, 0, 0, 0, 1, 0, 0, 1].map (BitVec.ofNat 8))).onAtt 0
    fun a => { a with lab := [{ ppn := 1, sppn := 2 }] }
theorem wit_append_refused : let s := attSt [0, 0, 2] [0, 0, 0, 1]
    s.attBusy 0 = true ∧ s.entry 0 = ((attX s, true), s) ∧ bit (attX s).kind 0 = true ∧ s.appendOk 0 (attX s) = false := by
  decide +kernel
theorem wit_append : let s := appSt
    let x := attX s
    let e := s.seqEnt 0 x.seq
    let r := e.2.trAll 0 x e.1.1 [0]
    s.attBusy 0 = true ∧ s.entry 0 = ((x, true), s) ∧ bit x.kind 0 = true ∧ s.appendOk 0 x = true ∧ s.on PS_CTRL_EN = true ∧
      s.tsRows 0 x.qrow (ceilDiv x.qn 4) = (some (zeros 512), s) ∧ s.tsRows 0 x.orow (ceilDiv x.qn 4) = (some (zeros 512), s) ∧
      s.tsRows 0 x.srow 1 = (some (zeros 512), s) ∧ e.1.2 = false ∧ e.1.1.len ≤ x.qpos ∧ x.qpos / 64 = 0 ∧
      (match r with
       | (.ok [y], s2) => y == (0, 1, 2) && !iPoison (s2.info 1) && !iPoison (s2.info 2) && (match s2.cowAll 0 x e.1.1 [y] with
         | (.ok l, _) => l == [(0, 1, 2)]
         | _ => false)
       | _ => false) = true := by decide +kernel
/-- A page store of eight pages, with some registers written. -/
def psSt (l : List (Fld × Nat)) : State := tst ((PS_KV_PAGES, 8) :: (PS_INFO_BASE, 0x1000000000) :: l)
theorem wit_psInit : (psSt []).rg PS_IN_USE = 0 ∧ (psSt []).rg PS_PENDING = 0 := by decide +kernel
theorem wit_psInit_refused : (psSt [(PS_IN_USE, 1)]).rg PS_IN_USE ≠ 0 := by decide +kernel
theorem wit_psAlloc : let s := psSt [(PS_FREE, 8), (PS_RESV, 2)]
    0 < s.rg PS_RESV ∧ s.rg PS_FREE ≠ s.rg PS_RESV ∧ s.ps.head < 2 ^ 22 ∧ s.rg PS_IN_USE < 2 ^ 22 := by decide +kernel
theorem wit_psReserve : let s := psSt [(PS_FREE, 8), (PS_RESV, 2)]
    s.rg PS_RESV + (6#22).toNat ≤ s.rg PS_FREE ∧ s.rg PS_FREE < s.rg PS_RESV + (7#22).toNat ∧ (2#22).toNat ≤ s.rg PS_RESV := by
  decide +kernel
/-- Page 3 in use with `n` references. -/
def pageSt (n : Nat) : State := (psSt [(PS_IN_USE, 1)]).setInfo 3 (mkInfo 0 n 0 false true false)
theorem wit_page : (pageSt 2).psAlloc? 3 = true ∧ iRef ((pageSt 2).info 3) < 65535 ∧ iPending ((pageSt 2).info 3) = false ∧
    1 < iRef ((pageSt 2).info 3) := by decide +kernel
theorem wit_page_last : (pageSt 1).psAlloc? 3 = true ∧ iRef ((pageSt 1).info 3) = 1 ∧ 0 < (pageSt 1).rg PS_IN_USE ∧
    (pageSt 1).rg PS_PENDING < 2 ^ 22 := by decide +kernel
theorem wit_frameFill : State.reset.integ.noSpare = [] ∧ 5 < State.reset.rg (TSTORE_CTRL_PAGES 0) ∧
    State.reset.framed 0 7 5 = false := by decide +kernel
theorem wit_frameFill_second : (tst [(ATT_FRAME_PPN 0 6, 7), (ATT_FRAME_VALID 0 6, 1)]).framed 0 7 5 = true := by decide +kernel
theorem wit_frameFillDone : let s := tst [(ATT_FRAME_FILLING 0 5, 1)]
    s.on (ATT_FRAME_FILLING 0 5) = true ∧ s.unitMarks (s.kvAddr (s.rg (ATT_FRAME_PPN 0 5)) - dramBase) 16384 = [] := by
  decide +kernel
theorem wit_frameInval_beyond : State.reset.rg (TSTORE_CTRL_PAGES 0) ≤ 127 := by decide +kernel
theorem wit_psAlloc_none : (psSt []).rg PS_RESV = 0 := by decide +kernel

/-! ## Witnesses, part 7 -/

def dramOn : State := tst [(DRAM_CTRL_EN, 1)]
theorem wit_dram : dramOn.on DRAM_CTRL_EN = true ∧ dramOn.inDram 0x1000000000 8 = true ∧ dramOn.unitMarks 0 8 = [] ∧
    dramOn.inDram 0x0F00000000 8 = false := by decide +kernel
/-- Channel 0 of station 0 has put its port in panic. -/
theorem wit_dram_panic : let s := dramOn.onStn 0 0 fun v => { v with chans := [{ panic := true }, {}] }
    s.on DRAM_CTRL_EN = true ∧ lowClass 25 false = true ∧ s.anyPanic = true := by decide +kernel
/-- The first 64 MiB of DRAM are a protected region. -/
def protSt : State := tst [(DRAM_CTRL_EN, 1), (DRAM_PROT_BASE_EN 0, 1), (DRAM_PROT_SIZE_UNITS 0, 1)]
theorem wit_dramScrub : protSt.inDram 0x1000000040 1 = true ∧ protSt.protectedAt 64 = true ∧ protSt.unitMarks 64 1 = [] ∧
    protSt.dram.elog = [] := by decide +kernel
theorem wit_recalibrate : wtRun.tide.running = true ∧ wtRun.dram.recal.get 3 0 = 0 ∧ State.reset.tide.running = false := by
  decide +kernel
theorem wit_protWrite : let s := State.reset
    s.on TIER_CTRL_EN = false ∧ (s.wrs [(DRAM_PROT_BASE_EN 0, 1), (DRAM_PROT_BASE_UNIT 0, 2)]).protOk = true := by decide +kernel
theorem wit_protWrite_refused : (tst [(TIER_CTRL_EN, 1)]).on TIER_CTRL_EN = true := by decide +kernel
theorem wit_elogPop : ∃ (s : State) (r : ElogRec), s.dram.elog = [r] ∧ s.log.buf = [] :=
  ⟨{ State.reset with dram := { elog := [{}] } }, {}, by decide +kernel⟩
def nandOn : State := tst [(NAND_CTRL_EN, 1), (NAND_RRT_HI_EN 4, 1)]
theorem wit_nand : nandOn.on NAND_CTRL_EN = true ∧ 0 < nandOn.stripes ∧ nandOn.rg NAND_DIE_FAIL_MASK = 0 ∧
    (7#8).toNat ≤ nandOn.rg NAND_THRESH_RELOC_BITS ∧ nandOn.nand.reads.get 0 0 < nandOn.rg NAND_THRESH_RD_LIMIT * 1000 ∧
    nandOn.on (NAND_RRT_HI_EN 4) = true ∧ nandOn.on (NAND_RRT_HI_EN 5) = false := by decide +kernel
theorem wit_nandProgram : ∃ s : State, s.on NAND_CTRL_EN = true ∧ s.nand.opened.get 0 none = some (0, 3, [2]) :=
  ⟨{ nandOn with nand := { opened := [(0, some (0, 3, [2]))] } }, by decide +kernel⟩
theorem wit_nandRelocate : ∃ s : State, s.on NAND_CTRL_EN = true ∧ s.nand.reloc = [7] :=
  ⟨{ nandOn with nand := { reloc := [7] } }, by decide +kernel⟩
theorem wit_nandPatrol : ∃ s : State, s.on NAND_CTRL_EN = true ∧ (3 * 1024 + 5) / 1024 / 16 * 1024 + (3 * 1024 + 5) % 1024 ∈ s.nand.written :=
  ⟨{ nandOn with nand := { written := [5] } }, by decide +kernel⟩
/-- Superblock 5 is written; `page`: it holds a valid page; `full`: every die of the NAND has failed, so nothing has room. -/
def gcSt (page full : Bool) : State :=
  { nandOn.wr NAND_DIE_FAIL_MASK (if full then 2 ^ 32 - 1 else 0) with
    nand := { written := [5], opened := [(0, some (7, 0, [])), (1, some (1031, 0, []))] }
    pool := { pages := if page then [{ client := 3, t2 := some (phys 0 5 0 1) }] else [] } }
/-- What the reclaim of superblock 5 leaves valid in it. -/
def gcLeft (s : State) : List Nat := let here (x : Nat) : Bool := physSuper x == 5
  ((s.validAt here).foldl (fun s x => s.nandMove none false x) s).validAt here
theorem wit_nandErases : (gcSt true false).on NAND_CTRL_EN = true ∧ (gcSt true false).closedSupers = [5] ∧
    (gcSt true false).nandReadOnly = false ∧ (gcSt true false).validAt (fun x => physSuper x == 5) = [phys 0 5 0 1] ∧
    gcLeft (gcSt true false) = [] := by decide +kernel
theorem wit_nandErases_stays : (gcSt true true).on NAND_CTRL_EN = true ∧ (gcSt true true).closedSupers = [5] ∧
    (gcSt true true).nandReadOnly = false ∧ gcLeft (gcSt true true) ≠ [] := by decide +kernel
theorem wit_nandReadOnly : (nandOn.wr NAND_STATUS_STATE 2).nandReadOnly = true := by decide +kernel
theorem wit_nandWear : ∃ s : State, s.on NAND_CTRL_EN = true ∧ s.closedSupers = [5, 6] ∧ s.nandReadOnly = false ∧
    s.nand.erases.get 5 0 + s.rg NAND_CTRL_WL_DELTA < s.nand.erases.get 6 0 ∧ s.validAt (fun x => physSuper x == 5) = [] :=
  ⟨{ nandOn with nand := { written := [5, 6], erases := [(6, 500)] } }, by decide +kernel⟩
theorem wit_ageTick : ∃ s : State, s.rg TIER_AGE_AGE_TIDES ≤ s.pool.ageTides :=
  ⟨{ State.reset with pool := { ageTides := 3000 } }, by decide +kernel⟩
theorem wit_ageTick_early : State.reset.pool.ageTides < State.reset.rg TIER_AGE_AGE_TIDES := by decide +kernel
/-- A pool of 128 pages of which one is free; one page of client 3 in tier 1, in tier 2 as `t2` says. -/
def poolSt (p : PageRec) : State :=
  { tst [(TIER_CTRL_EN, 1), (TIER_POOL_DRAM, 128), (TIER_FREE, 1)] with
    pool := { pages := [p] }, nand := { written := [7], opened := [(0, some (7, 0, []))] } }
def pageA : PageRec := { client := 3, layer := 1, t1 := some 0x100000 }
theorem wit_eviction : (poolSt { pageA with t2 := some 4 }).candidatePage (fun _ => true) = some { pageA with t2 := some 4 } ∧
    (poolSt pageA).candidatePage (fun _ => true) = some pageA ∧ (poolSt pageA).on TIER_CTRL_EN = true ∧
    (poolSt pageA).rg TIER_FREE * 64 < (poolSt pageA).rg TIER_POOL_DRAM := by decide +kernel
theorem wit_homeCopy : (poolSt pageA).pool.pages.find? (fun x => x.layer != 0xFFF && x.t1.isSome && x.t2.isNone && !x.wb) =
    some pageA ∧ (poolSt pageA).nandReadOnly = false ∧ (poolSt pageA).on TIER_CTRL_EN = true := by decide +kernel
theorem wit_writeback : (poolSt { pageA with wb := true }).pool.pages.find? (fun x => x.wb) = some { pageA with wb := true } := by
  decide +kernel
/-- Tier 2 has room for the page's bytes. -/
theorem wit_nandPut : ((poolSt pageA).nandPut ((poolSt pageA).ld (0x100000 * 65536) 65536)).1.isSome := by decide +kernel
theorem wit_nandPut_writeback : (poolSt { pageA with wb := true }).nandReadOnly = false ∧
    ((poolSt { pageA with wb := true }).nandPut ((poolSt { pageA with wb := true }).ld (0x100000 * 65536) 65536)).1.isSome := by
  decide +kernel
/-- A page of CRC `c` that tier 2 holds, and that is being promoted, or is BAD. -/
def pageB (bad : Bool) (c : Nat) : PageRec := { pageA with t2 := some 4, crc := c, bad := bad, prom := !bad }
def tierSt (bad : Bool) (c : Nat) : State :=
  { State.reset with pool := { pages := [pageB bad c], queue := if bad then [] else [(3, 1, 0, 0)] } }
theorem tierSt_nandPage (bad : Bool) (c : Nat) : (tierSt bad c).nandPage 4 = State.reset.nandPage 4 := by
  unfold State.nandPage tierSt; rfl
theorem wit_promotion : ∃ c, (tierSt false c).pool.queue = [(3, 1, 0, 0)] ∧ (tierSt false c).page? 3 1 0 0 = some (pageB false c) ∧
    (pageB false c).t1.isSome = true ∧ (pageB false c).t2 = some 4 ∧ crc32c ((tierSt false c).nandPage 4) = (pageB false c).crc := by
  have h : ∀ c, (tierSt false c).pool.queue = [(3, 1, 0, 0)] ∧ (tierSt false c).page? 3 1 0 0 = some (pageB false c) ∧
      (pageB false c).t1.isSome = true ∧ (pageB false c).t2 = some 4 ∧ (pageB false c).crc = c := fun _ => ⟨rfl, rfl, rfl, rfl, rfl⟩
  refine ⟨crc32c (State.reset.nandPage 4), (h _).1, (h _).2.1, (h _).2.2.1, (h _).2.2.2.1, ?_⟩
  rw [(h _).2.2.2.2, tierSt_nandPage]
theorem wit_pageRepair : ∃ c, (tierSt true c).pool.pages.find? (fun x => x.bad && x.badNext != some false) = some (pageB true c) ∧
    (pageB true c).t2 = some 4 ∧ crc32c ((tierSt true c).nandPage 4) = (pageB true c).crc := by
  have h : ∀ c, (tierSt true c).pool.pages.find? (fun x => x.bad && x.badNext != some false) = some (pageB true c) ∧
      (pageB true c).t2 = some 4 ∧ (pageB true c).crc = c := fun _ => ⟨rfl, rfl, rfl⟩
  refine ⟨crc32c (State.reset.nandPage 4), (h _).1, (h _).2.1, ?_⟩
  rw [(h _).2.2, tierSt_nandPage]
/-- Channel 0 of station 0 is active with a bound layer of one region. -/
def expSt : State :=
  { (tst [(SEQ_STATE_STATE 0 0, 2), (EXP_CTRL_EN 0 0 0, 1)]).onStn 0 0 fun v => { v with
      chans := [{ bound := true, handle := 1, nreg := 1, left := 1, active := true }, {}] } with
    pool := { models := [{ handle := 1, layers := [{}] }] } }
theorem wit_expander : let k := (expSt.stn 0 0).chans.getD 0 {}
    expSt.on (EXP_CTRL_EN 0 0 0) = true ∧ expSt.on (EXP_CTRL_RESIDENT 0 0 0) = false ∧ k.active = true ∧ 0 < k.left ∧
      expSt.rg (SEQ_STATE_STATE 0 0) = 2 ∧ expSt.chanLayer k = some ({ handle := 1, layers := [{}] }, {}) ∧ k.cbBad = false := by
  decide +kernel
/-- A stored layer of one raw INT4 region, of zeros under a key of zeros. -/
def expLay : Layer := { wfmt := 3, length := 65536, dir := [(1, 2, 0, crc32c (zeros 2048),
  crc32c (xts false (zeros 64) (tweak 0 0 false 0 0) (zeros 2048)), 0)] }
def expMod : Model := { handle := 1, layers := [expLay] }
/-- The channel bound to it, its scale rows written, its ring in activation memory; `full`: the ring's slot is full. -/
def expRaw (full : Bool) : State :=
  { ((tst [(SEQ_STATE_STATE 0 0, 2), (EXP_CTRL_EN 0 0 0, 1), (DRAM_CTRL_EN, 1), (SLOT_STAT_PRESENT 0 0 0, b2n full), (SLOT_CFG_ROWS 0 0 0, 16),
      (SEQ_DESC_WORD 0 0 0, 2 ^ 30 + 2 ^ 23), (SEQ_DESC_WORD 0 0 1, 16 * 2 ^ 16)]).onStn 0 0 fun v => { v with
      chans := [{ bound := true, handle := 1, nreg := 1, left := 1, active := true, srows := 99 }, {}] }) with
    pool := { models := [expMod], pages := [{ client := 3, layer := 0, t1 := some 0x100000 }] }
    ef := { State.reset.ef with engines := [{ id := 0, key := zeros 64 }] } }
/-- The state in which the channel reads its slots. -/
def expReady : State := ((expRaw false).expPanic 0 0 0 1).chanWaits 0 0 0 none
theorem wit_expander_slots : let s := expRaw false
    let k := (s.stn 0 0).chans.getD 0 {}
    s.on (EXP_CTRL_EN 0 0 0) = true ∧ s.on (EXP_CTRL_RESIDENT 0 0 0) = false ∧ k.active = true ∧ 0 < k.left ∧
      s.rg (SEQ_STATE_STATE 0 0) = 2 ∧ k.cbBad = false ∧ expLay.poisoned = false ∧
      (s.expPanic 0 0 0 1).expFull 0 0 (s.desc 0 0 (s.rg (EXP_CTRL_DESC 0 0 0))) expLay k.place = none := by decide +kernel
theorem wit_expander_layer (full : Bool) : (expRaw full).chanLayer (((expRaw full).stn 0 0).chans.getD 0 {}) = some (expMod, expLay) := by
  cases full <;> rfl
theorem wit_expander_scales : let k := ((expRaw false).stn 0 0).chans.getD 0 {}
    let need := (expLay.tideScales k.first (k.nreg - k.left + expLay.sg)).2
    expReady.expScales 0 0 0 expMod expLay ((expRaw false).desc 0 0 0) need (need + 1) = (some true, expReady) := rfl
theorem expReady_reads : (expReady.layerRead 0 expMod expLay 3 0 2048).1 = (zeros 2048, false, false) ∧
    (expReady.layerRead 0 expMod expLay 3 0 2048).2.engineKey 0 = zeros 64 := by decide +kernel
theorem expSlot_raw (s : State) (t : Nat) (m : Model) (l : Layer) (c x : Nat) (b : List Byte) (key : List Byte)
    (hd : l.dir = [(1, 2, 0, c, x, 0)]) (hw : l.wfmt = 3) (hr : (s.layerRead t m l 3 0 2048).1 = (b, false, false))
    (hk : (s.layerRead t m l 3 0 2048).2.engineKey l.keyid = key) (hc : crc32c b = c) (hx : crc32c (xts false key (m.tweak l 0) b) = x) :
    ∃ g s2, s.expSlot t m l [] 0 false false = (.ok g, s2) := by
  unfold State.expSlot
  rw [hd]
  dsimp only [List.getElem?_cons_zero]
  generalize hR : s.layerRead t m l 3 0 _ = r
  have h1 : r.1 = (b, false, false) := hR ▸ hr
  have hk : r.2.engineKey l.keyid = key := hR ▸ hk
  obtain ⟨⟨b, f1, f2⟩, s'⟩ := r
  simp only [Prod.mk.injEq] at h1
  obtain ⟨rfl, rfl, rfl⟩ := h1
  subst hc hx
  simp [hw, hk, expandSlot, is4bit]
theorem wit_expander_range : ∃ g s2, expReady.expRange 0 expMod expLay [] false false 0 expLay.sg = ((g, none), s2) := by
  obtain ⟨g, s2, hs⟩ := expSlot_raw expReady 0 expMod expLay _ _ (zeros 2048) (zeros 64) rfl rfl expReady_reads.1 expReady_reads.2 rfl rfl
  refine ⟨[g], s2, ?_⟩
  rw [show expLay.sg = 0 + 1 from rfl, State.expRange, hs]
  rfl
theorem wit_expander_full : let s := expRaw true
    let k := (s.stn 0 0).chans.getD 0 {}
    k.cbBad = false ∧ (s.expPanic 0 0 0 1).expFull 0 0 (s.desc 0 0 (s.rg (EXP_CTRL_DESC 0 0 0))) expLay k.place = some (0, 0, 0) := by
  decide +kernel

/-! ## Witnesses, part 8 -/

/-- A package with one BF16 layer of one weight, as host software makes it. -/
def pkgBytes : List Byte :=
  let body := fitTo 512 (nats [0x80, 0x3F])
  let table := fitTo 512 (nats [0, 0, 2, 5, 5, 0, 0, 0] ++ natLE 4 1 ++ natLE 4 1 ++ zeros 4 ++ natLE 4 1 ++ zeros 4 ++ natLE 4 2 ++ natLE 4 1 ++ natLE 4 1613324420)
  let h := fitTo 512 (natLE 4 0x50575646 ++ natLE 2 1 ++ natLE 2 0 ++ natLE 8 7 ++ natLE 2 1 ++ natLE 2 1 ++ natLE 4 1 ++ natLE 8 1536 ++
    natLE 2 0xFFFF ++ natLE 2 0 ++ nats [0x41] ++ zeros 23 ++ natLE 4 2160482518 ++ natLE 4 2612015783)
  h ++ (table ++ body)
/-- A taken entry with its parameters in board DRAM. -/
def cmdSt (e b : List Byte) (l : List (Fld × Nat)) : State :=
  { tst l with mem := bytesAt dramBase b, fw := { taken := [{ q := 0, entry := e }] } }
def loadSt (flags : Nat) : State :=
  { cmdSt (cmdEntry 1 flags dramBase 1536 0) pkgBytes [(TIER_FREE, 4), (TIER_POOL_DRAM, 128)] with ef := { keys := [{ id := 1, key := zeros 64 }] } }
def loadPkg : Pkg := Pkg.of pkgBytes
theorem wit_load_entry : (loadSt 0).takeOp 1 = some (0, cmdEntry 1 0 dramBase 1536 0, { loadSt 0 with fw := {} }) ∧
    (loadSt 0).ldSpace dramBase 1536 = pkgBytes := by decide +kernel
set_option maxRecDepth 100000 in
theorem wit_load_checks : loadPkg.early 1536 = none ∧ loadPkg.adapter = false ∧
    (loadSt 0).key? loadPkg.keyid = some { id := 1, key := zeros 64 } ∧ (loadSt 0).freeClient.isSome = true ∧
    (loadSt 0).replaceBad loadPkg = false ∧ (loadSt 0).bindBad loadPkg false = false ∧ (loadSt 0).ecc = [] := by decide +kernel
/-- The package's body and layer record. -/
def pkgBody : List Byte := fitTo 512 (nats [0x80, 0x3F])
def loadRec : LRec := ⟨nats [0, 0, 2, 5, 5, 0, 0, 0] ++ natLE 4 1 ++ natLE 4 1 ++ zeros 4 ++ natLE 4 1 ++ zeros 4 ++ natLE 4 2 ++ natLE 4 1 ++ natLE 4 1613324420 ++ zeros 24⟩
theorem load_rec : loadPkg.recs = [loadRec] := by decide +kernel
theorem load_body : loadPkg.body loadRec = pkgBody := by decide +kernel
set_option maxRecDepth 100000 in
theorem load_crc : crc32c pkgBody = 1613324420 := by decide +kernel
set_option maxRecDepth 100000 in
theorem wit_load_room : loadPkg.need = (0, 1) ∧ loadPkg.need.1 ≤ (loadSt 0).protFree ∧ loadPkg.need.2 ≤ (loadSt 0).rg TIER_FREE ∧
    (loadSt 0).pool.models = [] := by
  have h : loadPkg.need = (0, 1) := by decide +kernel
  exact ⟨h, by rw [h]; exact Nat.zero_le _, by rw [h]; decide +kernel, rfl⟩
set_option maxRecDepth 100000 in
theorem wit_load_build : ∃ b, loadPkg.buildAll (zeros 64) = .ok [b] ∧ b.headPages + b.slotPages ≤ 4 := by
  have hc : loadRec.bcrc = 1613324420 := by decide +kernel
  have hk : loadRec.kind = 2 := by decide +kernel
  have hw : loadRec.wfmt = 5 := by decide +kernel
  have hq : ∀ m, loadRec.badSource m = false := fun m => by
    have : loadRec.quant = false := by decide +kernel
    simp [LRec.badSource, this]
  have hb : loadPkg.build (zeros 64) loadRec = .ok ⟨loadRec, [], loadRec.bfRows (slice pkgBody loadRec.parts.rest loadRec.matrixLen).toArray, []⟩ := by
    have hcb : loadRec.parts.cb.2 = 0 := by decide +kernel
    have htab : loadRec.parts.tab.2 = 0 := by decide +kernel
    simp [Pkg.build, load_body, load_crc, hc, hk, hw, hq]
    exact ⟨fun h => absurd hcb h, fun h => absurd htab h⟩
  refine ⟨⟨loadRec, [], loadRec.bfRows (slice pkgBody loadRec.parts.rest loadRec.matrixLen).toArray, []⟩, ?_, ?_⟩
  · simp [Pkg.buildAll, load_rec, hb]
  · decide +kernel
/-- The model is stored already, and the load is in place. -/
def loadIn : State := { (loadSt 1).wr (TIER_CLIENT_CEIL 3) 128 with pool := { models := [{ handle := 1, modelId := 7, keyid := 1 }] } }
set_option maxRecDepth 100000 in
theorem wit_load_inplace : (loadIn.pool.models.any fun m => m.modelId == loadPkg.modelId && m.adp.isNone) = true ∧
    loadIn.replaceBad loadPkg = false ∧ loadIn.bindBad loadPkg true = false ∧ bit (leAt (cmdEntry 1 1 dramBase 1536 0) 1 1) 0 = true ∧
    1 + 0 - loadIn.oldPages loadPkg ≤ loadIn.rg TIER_FREE ∧
    loadIn.ceilOk (List.replicate (1 + 0 - loadIn.oldPages loadPkg) 3) = true := by
  decide +kernel
/-- A fallback image of one station that ends at once. -/
def imgBytes : List Byte :=
  let b := fitTo 1536 (natLE 4 0x49535646 ++ natLE 2 1 ++ natLE 2 1 ++ nats [0x53] ++ zeros 15 ++ nats [0x41] ++ zeros 23 ++ zeros 48 ++
    natLE 4 2000 ++ natLE 4 3000 ++ natLE 4 3000 ++ natLE 4 0 ++ natLE 2 0 ++ natLE 2 0 ++ natLE 4 0x10010 ++ natLE 2 1 ++ zeros 10 ++
    natLE 4 1536 ++ natLE 4 1549156512)
  patch b 1024 (natLE 8 (0x3F * 2 ^ 58))
def placeBytes : List Byte :=
  natLE 2 1 ++ natLE 2 12 ++ natLE 2 1 ++ nats [0xFF, 0] ++ natLE 4 0 ++ natLE 2 2 ++ natLE 2 16 ++ natLE 8 (dramBase + 4096) ++ natLE 4 1536
def placeSt (l : List (Fld × Nat)) : State :=
  let s := cmdSt (cmdEntry 2 0 dramBase 28 0) placeBytes l
  { s with mem := s.mem ++ bytesAt (dramBase + 4096) imgBytes }
def placeImg : Img := Img.of imgBytes
set_option maxRecDepth 100000 in
theorem wit_place_image : placeImg.ok = true ∧ placeImg.cls = 1 := by decide +kernel
/-- The checks of a PLACE that look at the request. -/
def placeReqOk (s : State) : Bool :=
  match s.placeReq (s.ldSpace dramBase 28) with
  | some r => r.imgs.length == 1 && r.binds.length == 0 && r.windows.length == 0 && !s.setBad r && !s.tsBad r &&
    r.imgs.all (fun m => m.timeBad (s.budgetOf (s.imgCfg m)) == none) && (match s.boundLayers r with | some [] => true | _ => false)
  | none => false
/-- The checks of a PLACE that look at the stations, with the set that it makes. -/
def placeFitOk (s : State) : Bool :=
  match s.placeReq (s.ldSpace dramBase 28) with
  | some r =>
    let x := r.set s.loader.nextSet 0 9 [0] [] 1
    let ls : State := { s with loader := { s.loader with sets := s.loader.sets ++ [x] } }
    s.periodNow (r.imgs.headD (Img.of [])).period && s.fitFor r == some [0] && !s.placeBad r [0] && !s.coversBadRow r [0] &&
      chainBad r.imgs (fun _ => 0) (s.budgetOf (s.imgCfg (r.imgs.headD (Img.of [])))) == none &&
      decide (ls.wuse.rg TIER_WUSE ≤ s.rg TIER_WLIMIT) && (ls.books.streamFor x r.imgs).isSome
  | none => false
set_option maxRecDepth 100000 in
theorem wit_place_request : placeReqOk (placeSt []) = true := by decide +kernel
set_option maxRecDepth 100000 in
theorem wit_place_fit : placeFitOk (placeSt []) = true := by decide +kernel
/-- With another period in force the set is kept. -/
def placeKept (s : State) : Bool :=
  match s.placeReq (s.ldSpace dramBase 28) with
  | some r => !s.periodNow (r.imgs.headD (Img.of [])).period && (match (({ s with fw := {} } : State).placeReads (cmdEntry 2 0 dramBase 28 0)).streamFor
      { r.set 1 0 9 [0] [] 3 with params := [] } r.imgs with
    | some s2 => (s2.strm? (r.imgs.headD (Img.of [])).stream).isSome
    | none => false)
  | none => false
set_option maxRecDepth 100000 in
theorem wit_place_kept : placeReqOk (placeSt [(TIDE_ACTIVE_PERIOD, 32)]) = true ∧ placeKept (placeSt [(TIDE_ACTIVE_PERIOD, 32)]) = true := by
  decide +kernel
def delSt : State := { cmdSt (cmdEntry 4 0 0 0 1) [] [] with pool := { models := [{ handle := 1, modelId := 7 }] } }
theorem wit_delete : delSt.takeOp 4 = some (0, cmdEntry 4 0 0 0 1, { delSt with fw := {} }) ∧ leAt (cmdEntry 4 0 0 0 1) 32 4 = 1 ∧
    delSt.model? 1 = some { handle := 1, modelId := 7 } ∧ (delSt.loader.sets.any fun x => x.binds.any fun b => b.model == 1) = false := by
  decide +kernel
theorem wit_delete_unknown : (cmdSt (cmdEntry 4 0 0 0 1) [] []).model? 1 = none ∧
    ((cmdSt (cmdEntry 4 0 0 0 1) [] []).takeOp 4).isSome = true := by decide +kernel
/-- A set of class 2 on terrace 0 that runs. -/
def tokSet : ProgSet := { handle := 5, cls := 2, state := 2, stages := [{}, { p := 1 }], d := 1,
                          tok := { ph := 1, ts := 2, nbsD := 4, pmin := 1, nbsP := 4, ae := 1, tracks := 1, g := 1, ktop := 1, maxlenCap := 256,
                                   vocab := 16, lstride := 4, lcount := 1 } }
def remSt : State := { cmdSt (cmdEntry 3 0 0 0 5) [] [] with loader := { sets := [tokSet] } }
theorem wit_remove : remSt.takeOp 3 = some (0, cmdEntry 3 0 0 0 5, { remSt with fw := {} }) ∧
    remSt.loader.sets.find? (fun y => y.handle == 5) = some tokSet ∧ tokSet.removeTag = none ∧ tokSet.cls ≠ 1 := by decide +kernel
theorem wit_remove_unknown : (cmdSt (cmdEntry 3 0 0 0 5) [] []).loader.sets.find? (fun y => y.handle == 5) = none ∧
    ((cmdSt (cmdEntry 3 0 0 0 5) [] []).takeOp 3).isSome = true := by decide +kernel
/-- A request in the gatehouse: handle or 0, operation, flags, set, MAXLEN. -/
def stepReq (handle op flags set maxlen : Nat) : List Byte :=
  fitTo 64 (natLE 4 handle ++ natLE 1 op ++ natLE 1 flags ++ natLE 2 set ++ natLE 4 0xFFFFFFFF ++ natLE 4 maxlen ++ natLE 2 60000 ++
    natLE 2 60000 ++ natLE 4 0 ++ natLE 4 0 ++ natLE 2 1 ++ natLE 2 0xFFFF)
/-- The gatehouse runs, with the sequences `l` and the request `b`. -/
def gateSt (l : List SeqRec) (b : List Byte) : State :=
  { tst [(GH_CTRL_EN, 1), (FW_CORE_STATUS_STATE 1, 2), (PS_FREE, 64), (PS_PT_ROWS, 64), (PS_SEQ_BASE, 0x1000000000),
      (PS_PT_BASE, 0x1000010000)] with loader := { sets := [tokSet], seqs := l, reqs := [(0, b, 7)] } }
def openSt : State := gateSt [] (stepReq 0 0 0 5 64)
theorem wit_open : let s := openSt
    let b := stepReq 0 0 0 5 64
    s.gateOpen = true ∧ s.takeStep 0 = some (0, b, 7, { s with loader := { s.loader with reqs := [] } }) ∧ s.set? (leAt b 6 2) = some tokSet ∧
      s.openBad b tokSet = false ∧ (match s.adapterFor (leAt b 30 2) with | .ok none => true | _ => false) = true ∧
      s.freeSeqEntry = some 0 ∧ s.freePtRows 1 [] = some 0 ∧ s.freePtRows 1 [(0, 1)] = some 1 ∧ s.rg PS_RESV + 2 ≤ s.rg PS_FREE ∧
      ¬ s.on GH_CTRL_HOT ∧ (s.splitFor (s.loader.seqs ++ [{ seq := 4096, set := 5, maxlen := leAt b 12 4, sd := leAt b 16 2, fd := leAt b 18 2 }])
        tokSet).isSome = true ∧ leAt b 24 4 = 0 ∧ leAt b 20 4 = 0 := by decide +kernel
def seqA : SeqRec := { seq := 3, gen := 1, set := 5, maxlen := 64 }
theorem wit_step : let s := gateSt [seqA] (stepReq 0x10003 1 0 5 64)
    let b := stepReq 0x10003 1 0 5 64
    (s.takeStep 1).isSome = true ∧ s.seqOf (leAt b 0 4) = some seqA ∧ leAt b 5 1 < 16 ∧ leAt b 20 4 = 0 ∧ logitsOk tokSet.tok b = true ∧
      allZero (slice b 56 8) = true ∧ s.seqLen 3 < 64 := by decide +kernel
theorem wit_ends : ((gateSt [seqA] (stepReq 0x10003 2 0 5 64)).takeStep 2).isSome = true ∧
    ((gateSt [seqA] (stepReq 0x10003 3 0 5 64)).takeStep 3).isSome = true ∧ seqA.ending = none ∧
    reqOk (stepReq 0x10003 2 0 5 64) = true ∧ reqOk (stepReq 0x10003 3 0 5 64) = true := by decide +kernel
def seqP : SeqRec := { seqA with parked := some 0, best := true }
theorem wit_reclaim : let s := gateSt [seqP] (stepReq 0x10003 4 0 5 64)
    (s.takeStep 4).isSome = true ∧ s.gateOpen = true ∧ s.seqOf 0x10003 = some seqP ∧ seqP.parked.isSome = true ∧ seqP.best = true ∧
      reqOk (stepReq 0x10003 4 0 5 64) = true := by decide +kernel
theorem wit_step_unknown : (gateSt [] (stepReq 0x10003 1 0 5 64)).seqOf (leAt (stepReq 0x10003 1 0 5 64) 0 4) = none ∧
    ∀ op < 4, 0 < op → ((gateSt [] (stepReq 0x10003 op 0 5 64)).takeStep op).isSome = true := by decide +kernel
theorem wit_hostLost : (gateSt [seqA] []).on GH_HOST_LOST = false ∧ ((gateSt [seqA] []).wr GH_HOST_LOST 1).on GH_HOST_LOST = true := by
  decide +kernel
theorem wit_park : (gateSt [seqP] []).oldestParked = some seqP ∧ (gateSt [seqP] []).oldestKept = none := by decide +kernel
/-- A capture parameter block of the smallest job. -/
def capBytes : List Byte :=
  natLE 2 6 ++ natLE 2 0 ++ natLE 4 16 ++ natLE 8 0x1000100000 ++ natLE 4 16384 ++ natLE 4 512 ++ natLE 4 1 ++ natLE 4 0 ++ natLE 2 1 ++ natLE 2 0 ++
    zeros 24 ++ natLE 8 0x1000200000 ++ natLE 8 0x1000300000 ++ natLE 4 0 ++ natLE 8 0x1000400000 ++ natLE 4 1 ++ natLE 4 5 ++ natLE 4 0 ++
    natLE 8 9 ++ natLE 4 1 ++ natLE 4 0
def capSet : ProgSet := { handle := 6, cls := 3, state := 2 }
def capSt : State :=
  let s := cmdSt (cmdEntry 5 0 dramBase 116 0) capBytes [(FW_FEAT_AGREED, 2), (TIER_POOL_DRAM, 128)]
  { s with mem := s.mem ++ bytesAt 0x1000400000 (natLE 4 0 ++ natLE 4 4 ++ natLE 4 4), loader := { sets := [capSet] } }
theorem wit_capture : capSt.capOk (capSt.ldSpace dramBase 116) = true ∧ capSt.feature 1 = true ∧ capSt.freeClient = some 3 ∧
    (capSt.capPages (CapJob.of capBytes)).isSome = true ∧ capSt.ldSpace dramBase 116 = capBytes ∧ (capSt.takeOp 5).isSome = true ∧
    (capSt.loader.jobs.filter fun j => j.kept.isNone).length < 2 := by decide +kernel
def trainSt : State :=
  { cmdSt (cmdEntry 6 0 0 0 1) [] [] with loader := { sets := [capSet], jobs := [{ handle := 1, set := 6, nsamp := 65536, seg := 512 }] } }
theorem wit_training : (trainSt.loader.jobs.find? fun j => j.handle == (1#32).toNat && j.kept.isNone).isSome = true ∧ trainSt.set? 6 = some capSet ∧
    (trainSt.loader.jobs.all fun j => j.cancel == false && decide (j.batch + 1 < j.nseg / 32)) = true ∧ (trainSt.takeOp 6).isSome = true := by decide +kernel

/-! ## Witnesses, part 9 -/

/-- Ring 0 with four places in board DRAM. -/
def dmaSt (l : List (Fld × Nat)) : State := tst ([(DMA_RING_EN 0, 1), (DMA_RING_SIZE 0, 2), (DMA_BASE_ADDR 0, 0x1000000000)] ++ l)
theorem wit_prod : let s := dmaSt [(DMA_PROD_INDEX 0, 1)]
    let n := 2 ^ s.rg (DMA_RING_SIZE 0)
    (3 + n - s.rg (DMA_PROD_INDEX 0) % n) % n + (s.rg (DMA_PROD_INDEX 0) + n - s.rg (DMA_CONS_INDEX 0) % n) % n < n := by decide +kernel
theorem wit_prod_full : let s := dmaSt [(DMA_PROD_INDEX 0, 3)]
    let n := 2 ^ s.rg (DMA_RING_SIZE 0)
    n ≤ (1 + n - s.rg (DMA_PROD_INDEX 0) % n) % n + (s.rg (DMA_PROD_INDEX 0) + n - s.rg (DMA_CONS_INDEX 0) % n) % n := by decide +kernel
/-- A descriptor of one line of `n` bytes with control bits. -/
def dmaDesc (sa da n ctrl : Nat) : List Byte :=
  fitTo 64 (natLE 8 sa ++ natLE 8 da ++ natLE 4 n ++ natLE 2 1 ++ natLE 2 1 ++ natLE 4 n ++ zeros 8 ++ natLE 2 ctrl)
def dmaOne : List Byte := dmaDesc 0x1000010000 0x1000020000 512 1
theorem wit_dmaStart : let s := (dmaSt [(DMA_PROD_INDEX 0, 1)]).st 0x1000000000 dmaOne
    s.ecc = [] ∧ dRt dmaOne = false ∧ dGather dmaOne = false ∧ s.dmaCh 0 = {} ∧ s.on (DMA_RING_EN 0) = true ∧
      s.rg (DMA_PROD_INDEX 0) ≠ s.rg (DMA_CONS_INDEX 0) ∧ s.inDram 0x1000000000 64 = true ∧ s.ld 0x1000000000 64 = dmaOne ∧
      dmaFieldsOk dmaOne = true := by decide +kernel
/-- Channel 0 runs the descriptor `d`. -/
def dmaRun (d : List Byte) : State := (dmaSt [(DMA_PROD_INDEX 0, 1), (DMA_STAT_BUSY 0, 1)]).onDma 0 fun _ => { active := true, running := true, desc := d }
theorem wit_dmaRuns : let s := dmaRun dmaOne
    s.dmaCh 0 = { active := true, running := true, desc := dmaOne } ∧ dSaddr dmaOne = 0x1000010000 ∧ dDaddr dmaOne = 0x1000020000 ∧
      dSline dmaOne = 512 ∧ dSlines dmaOne = 1 ∧ dDline dmaOne = 512 ∧ dDlines dmaOne = 1 ∧ s.inDram 0x1000010000 512 = true ∧
      s.inDram 0x1000020000 512 = true ∧ s.inDram (s.rg (DMA_BASE_ADDR 0) + 64 * s.rg (DMA_CONS_INDEX 0)) 64 = true ∧
      s.rg (DMA_BASE_ADDR 0) + 64 * s.rg (DMA_CONS_INDEX 0) + 64 ≤ 0x1000020000 := by decide +kernel
/-- A tide-bound descriptor for the next tide; one that reads the host. -/
def dmaRt : List Byte := patch (dmaDesc 0x1000010000 0x1000020000 512 32) 42 (natLE 2 1)
def dmaHost : List Byte := dmaDesc (2 ^ 63 + 4096) 0x1000020000 512 128
theorem wit_dmaDeadline : ((dmaRun dmaRt).dmaCh 0).active = true ∧ dRt dmaRt = true ∧
    (dmaRun dmaRt).dmaTide dmaRt = ((dmaRun dmaRt).rg TIDE_NUM : Int) + 1 := by decide +kernel
theorem wit_dmaTimeout : ((dmaRun dmaHost).dmaCh 0).running = true ∧ bit (dSaddr dmaHost) 63 = true ∧ dCtrl dmaHost 7 = true := by
  decide +kernel
theorem wit_vinPort : let w := 16 * 2 ^ 16 + 16
    let f := [VIN_PORT_SIZE_HEIGHT 0, VIN_PORT_SIZE_WIDTH 0]
    let s := tst [(VIN_CTX_MSIZE_MCW 0, 16), (VIN_CTX_MSIZE_MCH 0, 16), (VIN_CTX_MOUT_MOW 0, 4), (VIN_CTX_MOUT_MOH 0, 4)]
    (s.takeFields w f).vinLegal 0 = true ∧ (s.takeFields (w + 1) f).vinLegal 0 = false := by decide +kernel
theorem wit_vinMux : let n (s : State) := ((List.range 4).filter fun p => s.on (VIN_PORT_CTRL_EN p)).foldl (fun a p => a + s.rg (VIN_PORT_RATE_MPIX p)) 0
    n State.reset ≤ 190 ∧ 190 < n (tst [(VIN_PORT_CTRL_EN 0, 1)]) := by decide +kernel
theorem wit_audClk : State.reset.audLegal 0xF8010000 = true ∧ State.reset.audLegal 0xF8000000 = false ∧ State.reset.on AUD_CLK_EN = false ∧
    bit 0xF8010000 15 = false := by decide +kernel
/-- Port 0 is on; a frame of 16 by 2 pixels with `l` of its lines received is open on it. -/
def vinSt (l : List VLine) (f : Option VFrame) : State :=
  { tst [(VIN_PORT_CTRL_EN 0, 1), (VIN_PORT_STATUS_INFRAME 0, 1)] with vin := { ports := [(0, { frame := f.map fun f => { f with lines := l } })] } }
def frA : VFrame := { num := 3, cfg := { w := 16, h := 2 }, pset := some (zeros 512) }
theorem wit_frame : (vinSt [] none).on (VIN_PORT_CTRL_EN 0) = true ∧ ((vinSt [] none).vport 0).frame = none ∧
    ((vinSt [] (some frA)).vport 0).frame = some frA ∧ frA.cfg.lchk = false ∧ (List.replicate 16 (7#16)).length = frA.cfg.w ∧
    frA.lines.length < frA.cfg.h ∧ (vinSt [] (some frA)).on VIN_MUX_EN = false := by decide +kernel
/-- The frame waits in its context, with the tensor `t` the newest and a delivery of mode `m`. -/
def ctxSt (mux served m : Nat) (t : Option VTensor) : State :=
  { tst [(VIN_MUX_EN, mux)] with vin := { ctxs := [(0, { queue := [{ frA with served := served, ended := true }], newest := t, dlv := { mode := m } })] } }
theorem wit_vinOutput : ((ctxSt 0 0 0 (some {})).vctx 0).queue = [{ frA with ended := true }] ∧ (ctxSt 0 0 0 (some {})).on VIN_MUX_EN = false ∧
    ((ctxSt 0 0 0 (some {})).vctx 0).newest = some {} := by decide +kernel
theorem wit_vinPublish : ((ctxSt 0 0 0 none).vctx 0).dlv.mode = 0 ∧ ((ctxSt 0 0 1 (some {})).vctx 0).dlv.mode ≠ 0 ∧
    (ctxSt 0 0 1 (some {})).tide.mute < 2 := by decide +kernel
theorem wit_vinMuxUnit : (ctxSt 1 0 0 none).on VIN_MUX_EN = true ∧ (ctxSt 1 0 0 none).on VIN_MUX_UNIT = false ∧ 0 = ((ctxSt 1 0 0 none).vin.last + 1) % 4 ∧
    (ctxSt 1 0 0 none).muxFrame 0 = some ({ frA with ended := true }, false) := by decide +kernel
/-- Audio ports run with two slots and one channel bound in slot 0 of port 0. -/
def audSt (l : List (Fld × Nat)) (b : List AudBind) : State :=
  { tst ([(AUD_CLK_EN, 1), (AUD_CLK_SLOTS, 1)] ++ l) with aud := { on := true, n := 8, ins := [(0, { on := true, binds := b })] } }
theorem wit_audIn : (audSt [] []).aud.on = true ∧ (audSt [] []).aud.n ≠ 0 ∧ (audSt [] []).on AUD_CLK_LOST = false ∧
    1 < 2 ^ (audSt [] []).rg AUD_CLK_SLOTS ∧ ((audSt [] []).audIn 0).on = true ∧ 1 + 1 = 2 ^ (audSt [] []).rg AUD_CLK_SLOTS := by decide +kernel
theorem wit_audIn_bound : let s := audSt [] [{ en := true }]
    (s.audIn 0).binds = [{ en := true }] ∧ (s.audIn 0).cnt < s.aud.n ∧ s.rg (TAKE_STATUS_PHASE 0) ≠ 2 := by decide +kernel
theorem wit_audClock : (audSt [(AUD_CLK_DRIVE, 0)] []).on AUD_CLK_DRIVE = false ∧ (audSt [] []).on AUD_CLK_DRIVE = true ∧
    (audSt [(AUD_CLK_LOST, 1)] []).on AUD_CLK_LOST = true := by decide +kernel

/-! ## Witnesses, part 10 -/

/-- The ring is up on both ports. -/
def ringUp (l : List (Fld × Nat)) : State :=
  tst ([(RING_CTRL_EN, 1), (RING_STATUS_LINK_A, 1), (RING_STATUS_LINK_B, 1), (RING_STATUS_SPD_A, 2), (RING_STATUS_SPD_B, 2), (RING_MAC, 0x0200000000AA),
    (RING_CAUSEWAY_BYPASS, 0), (RING_INDEX_INDEX, 1)] ++ l)
theorem wit_causeway : (tst [(RING_CTRL_EN, 1), (GC_STATUS_PHASE, 3), (RING_CAUSEWAY_CAP_OK, 1)]).mayLeave = true ∧ State.reset.mayLeave = false ∧
    State.reset.pins.sb = true ∧ State.reset.pins.control = true ∧ (ringUp []).on RING_CAUSEWAY_BYPASS = false ∧
    State.reset.on RING_CAUSEWAY_BYPASS = true := by decide +kernel
theorem wit_links : (ringUp []).on RING_CTRL_EN = true ∧ (ringUp []).on (linkFld 1) = true ∧ (ringUp []).rg RING_CTRL_RATE ≠ 1 ∧
    (ringUp [(RING_CTRL_RATE, 1)]).rg RING_CTRL_RATE = 1 := by decide +kernel
/-- A frame from `src` with an EtherType and a body. -/
def ethF (dst src typ : Nat) (b : List Byte) : List Byte := natBE 6 dst ++ natBE 6 src ++ natBE 2 typ ++ b
theorem wit_ringFrame : let f := ethF 0x0200000000AA 0x0200000000BB 0x0800 (zeros 46)
    (ringUp []).linkOn 0 = true ∧ f.length ≤ 2044 ∧ fDst f = (ringUp []).mac ∧ fSrc f ≠ (ringUp []).mac ∧ isTile 4 f = false ∧
      fType f ≠ 0x88F7 ∧ 2044 < (ethF 0x0200000000AA 0x0200000000BB 0x0800 (zeros 2046)).length := by decide +kernel
/-- The state with a frame delivered. -/
def inbox (s : State) (f : List Byte) : State := { s with ring := { s.ring with inbox := [⟨0, 0, f⟩] } }
/-- A short tile frame (beacon, GRANT, CLOSED) with its check. -/
def tileS (src : Nat) (h : List Byte) (crc : Nat) : List Byte := ethF 0x0200000000AA src 0x88B6 (h ++ natLE 4 crc)
def beaconH : List Byte := tileHeader 4 0 0 0 7 0 0 2 0
theorem wit_beacon : let f := tileS 0x0200000000BB beaconH 2314081029
    ((inbox (ringUp []) f).takeFrame (isTile 4)).isSome = true ∧ tileCrcOk f = true ∧ fSrc f ≠ (ringUp []).mac ∧ hSrc (tHead f) ≤ 15 := by
  decide +kernel
theorem wit_beacon_own : let f := tileS 0x0200000000AA beaconH 2314081029
    tileCrcOk f = true ∧ fSrc f = (ringUp []).mac ∧ isTile 4 f = true := by decide +kernel
/-- Window 0 receives, in the terrace store of terrace 0; window 1 sends from there to module 2. -/
def winUp (x : WinSt) (l : List (Fld × Nat)) : State :=
  (ringUp ([(WIN_CTRL_EN 0, 1), (WIN_CTRL_OPEN 0, 1), (WIN_CTRL_TGT 0, 1), (WIN_CTRL_NFR 0, 1), (WIN_GEN_GEN 0, 5), (WIN_CTRL_EN 1, 1), (WIN_CTRL_DIR 1, 1),
    (WIN_CTRL_TGT 1, 1), (WIN_CTRL_NFR 1, 1), (WIN_CTRL_PEER 1, 2), (WIN_LOC_PWIN 1, 9), (WIN_GEN_GEN 1, 5)] ++ l)).onWin 1 fun _ => x
def dataH (typ : Nat) : List Byte := tileHeader typ 0 0 5 1 0 1 2 0
def dataF (typ crc : Nat) : List Byte :=
  ethF 0x0200000000AA 0x0200000000BB 0xF1C1 (zeros 2 ++ natBE 2 512 ++ natBE 2 0x88B6 ++ dataH typ ++ (zeros 1024 ++ natLE 4 crc))
def tileOpen (s : State) (f : List Byte) : Bool :=
  decide (hWin (tHead f) = 0) && s.on (WIN_CTRL_EN 0) && !s.on (WIN_CTRL_DIR 0) && s.on (WIN_CTRL_OPEN 0) && decide (hGen (tHead f) = s.rg (WIN_GEN_GEN 0) ∧
    hTide (tHead f) = s.rg TIDE_NUM + 1 ∧ ¬ s.boundaryTime < 1000) && ((fBody f).1).getD 0 == 512
set_option maxRecDepth 100000 in
theorem wit_tileFrame : tileOpen (winUp {} []) (dataF 0 50989171) = true ∧ isTile 0 (dataF 0 50989171) = true ∧ isTile 1 (dataF 1 451504941) = true ∧
    512 ∉ ((winUp {} []).winSt 0).acc ∧ hFidx (dataH 0) < (winUp {} []).rg (WIN_CTRL_NFR 0) := by decide +kernel
set_option maxRecDepth 100000 in
theorem wit_tile_check : tileCrcOk (dataF 0 50989171) = true := by decide +kernel
set_option maxRecDepth 100000 in
theorem wit_void_check : tileCrcOk (dataF 1 451504941) = true := by decide +kernel
theorem wit_tile_again : 512 ∈ (((winUp {} []).onWin 0 fun x => { x with acc := [512] }).winSt 0).acc := by decide +kernel
theorem wit_tile_stale : (ringUp []).on (WIN_CTRL_OPEN 0) = false := by decide +kernel
def grantH (typ gen : Nat) : List Byte := tileHeader typ 0 9 gen 1 1 1 2 0
theorem wit_grant : let f := tileS 0x0200000000BB (grantH 2 6) 2883450081
    tileCrcOk f = true ∧ isTile 2 f = true ∧ (winUp {} []).sendersOf (hWin (tHead f)) (hSrc (tHead f)) = [1] ∧
      (winUp {} []).dup (hSrc (tHead f)) = false ∧ (winUp {} []).dup ((winUp {} []).rg RING_INDEX_INDEX) = false := by decide +kernel
theorem wit_closed : let f := tileS 0x0200000000BB (grantH 3 5) 1974062983
    let g := tileS 0x0200000000BB (grantH 3 4) 3619439795
    tileCrcOk f = true ∧ isTile 3 f = true ∧ hGen (tHead f) = (winUp {} []).rg (WIN_GEN_GEN 1) ∧ tileCrcOk g = true ∧
      hGen (tHead g) ≠ (winUp {} []).rg (WIN_GEN_GEN 1) := by decide +kernel
theorem wit_grantTimeout : (winUp { noGrant := 3 } []).on (WIN_CTRL_DIR 1) = true ∧ 3 ≤ ((winUp { noGrant := 3 } []).winSt 1).noGrant ∧
    ((winUp { noGrant := 3 } []).winSt 1).posted = false := by decide +kernel
theorem wit_windowSend : let s := winUp { tgt := 1, credits := 1 } [(WIN_CTRL_OPEN 1, 1)]
    let x := s.winSt 1
    x.tgt = s.rg TIDE_NUM + 1 ∧ x.credits ≠ 0 ∧ s.linkOn (s.winPort 1) = true ∧ s.on (WIN_CTRL_OPEN 1) = true ∧ s.ecc = [] ∧ s.on (WIN_CTRL_TGT 1) = true ∧ s.on (WIN_CTRL_REPL 1) = false ∧
      s.winPort 1 < 2 ∧ x.stopped = false ∧ x.voided = false ∧ (s.unfit (s.winPort 1)).contains 1 = false := by decide +kernel
theorem wit_windowSend_void : ((winUp { tgt := 1, credits := 1, voided := true } [(WIN_CTRL_OPEN 1, 1)]).winSt 1).voided = true := by decide +kernel
/-- Descriptor of an AES67 stream with one channel, two samples to a packet. -/
def aesD : List Byte := fitTo 32 (nats [1, 1, 2, 0] ++ natLE 4 0xEF000001 ++ natLE 2 5004 ++ nats [97, 0])
def rtpF : List Byte :=
  ethF 0x01005E000001 0x0200000000BB 0xF1C1 (zeros 2 ++ natBE 2 77 ++ natBE 2 0x0800 ++ nats [0x45, 0] ++ natBE 2 44 ++ zeros 5 ++ nats [17] ++ zeros 6 ++
    natBE 4 0xEF000001 ++ natBE 2 5004 ++ natBE 2 5004 ++ natBE 2 24 ++ zeros 2 ++ nats [0x80, 97] ++ zeros 10 ++ zeros 4)
def aesSt0 (h : List Nat) (o : List (Nat × List Nat)) : State :=
  let s := ringUp []
  { s with ring := { s.ring with descs := [(3, aesD), (32, aesD)], inbox := [⟨0, 0, rtpF⟩]
                                 aes := [(3, { hist := h }), (32, { out := o, seq := some 4 })] }, aud := { on := true, n := 8 } }
theorem wit_aes_receive : let s := aesSt0 [] []
    (s.takeFrame s.isAes).isSome = true ∧ (match rtpOf rtpF with
      | some r => r.tag == some 77 && (List.range 32).all fun j => rtpMatch (s.aesDesc j) r == (j == 3)
      | none => false) = true ∧ s.aud.n ≠ 0 ∧ aNch (s.aesDesc 3) ≠ 0 ∧ 77 ∉ (s.aesSt 3).hist ∧ 77 ∈ ((aesSt0 [77] []).aesSt 3).hist := by
  decide +kernel
theorem wit_aes_send : let s := aesSt0 [] [(5, [1]), (6, [2]), (7, [3])]
    aEn (s.aesDesc 32) = true ∧ 0 < aPt (s.aesDesc 32) ∧ aPt (s.aesDesc 32) ≤ (s.aesSt 32).out.length ∧ (s.aesSt 32).seq = some 4 ∧
      aRepl (s.aesDesc 32) = false ∧ s.linkOn 1 = true := by decide +kernel

/-! ## Witnesses, part 11 -/

/-- An image of core 1 with one word of code. Its CRC covers the signature block (R456) and its digest covers the CRC (R486): the two
signatures were searched for. The public key is the curve's base point. -/
def fwHead : List Byte :=
  fitTo 1024 (natLE 4 0x57465646 ++ natLE 2 1 ++ nats [1, 0] ++ natLE 4 0x10000 ++ nats [1, 0] ++ zeros 10 ++ natLE 4 4 ++ zeros 8 ++ natLE 4 1536 ++
    natLE 4 0x12345678 ++ natLE 4 512)
def fwDigest : List Byte := natBE 48 0x3280ba442f0053b5f17c3ee1f6308bfd1519c9434f5239bc7efe6fcef9a6944249a82c1c0b161607dd21376173341b6d
def fwKey : List Byte := [4#8] ++ natBE 48 p384x ++ natBE 48 p384y
def fwSig (r s : Nat) : List Byte := zeros 16 ++ fwKey ++ zeros 15 ++ natBE 48 r ++ natBE 48 s
def sig1R : Nat := 0x3b248e0ea49cf034e97214319c3e1392439a9f12d8387ce989464d6f2a905caad3e2c0c9416f64bdacea59fe3bb07598
def sig1S : Nat := 0x41c8edffa596ee8dfc36fcbe94158a0c4caa5ed71f78bec347e35c565301e9bf28beac6636c0ce86ade035f67f5a2aa7
def sig2R : Nat := 0x53c2df7aad132e8d984b2c58758c80cc6b95469408be901b84f338fee467b45d773bbcdd6943343cece6c6872877d71c
def sig2S : Nat := 0xdd439f618b9a33f68c11bd891a70ae24539d5fb2d0c0bbb98215a66ea0681532b3c4837fac74e3fcd69e553d209963bb
def fwBlock : List Byte :=
  natLE 4 0x47535646 ++ natLE 2 1 ++ nats [2, 0] ++ zeros 8 ++ fwDigest ++ fwSig sig1R sig1S ++ fwSig sig2R sig2S
def fwImg : List Byte := fwHead ++ fwBlock
def fwRoot : List Byte := natBE 48 0x8c4f262412b7f9ed867606705a130de5212fd048fbaf8c3842f4a240f4b45ba0c90f82194ccdda3ed89c96b0afe1d51d
set_option maxRecDepth 100000 in
theorem wit_fw_image : imageOk 1 fwImg = true := by decide +kernel
set_option maxRecDepth 100000 in
theorem wit_fw_signed : ({ rootHash := fwRoot } : Factory).signed fwImg 0 = true := by decide +kernel
/-- An image in the host-ring area. -/
def fwSt : State :=
  let s := tst [(FW_LOAD_ADDR, dramBase)]
  { s with mem := KMap.store [] dramBase fwImg, fac := { s.fac with rootHash := fwRoot } }
theorem fw_len : fwImg.length = 1536 := by decide +kernel
theorem wit_fw_bytes : fwSt.ldN (fwSt.rg FW_LOAD_ADDR + 36) 4 = 1536 ∧ fwSt.ld (fwSt.rg FW_LOAD_ADDR) 1536 = fwImg := by
  have ha : fwSt.rg FW_LOAD_ADDR = dramBase := by decide +kernel
  have hi : ∀ i, i < 1536 → KMap.get (KMap.store [] dramBase fwImg) (dramBase + i) 0#8 = fwImg.getD i 0#8 := fun i h => by
    have hl : i < fwImg.length := by rw [fw_len]; exact h
    rw [KMap.get_store_inside _ _ _ _ hl]
    simp [List.getD, hl]
  have hm : fwSt.mem = KMap.store [] dramBase fwImg := by simp only [fwSt]
  have hb : fwSt.ld dramBase 1536 = fwImg := by
    rw [State.ld, hm, ← fw_len]
    exact KMap.bytes_store fwImg [] dramBase
  refine ⟨?_, by rw [ha]; exact hb⟩
  rw [ha]
  have : fwSt.ld (dramBase + 36) 4 = [fwImg.getD 36 0#8, fwImg.getD 37 0#8, fwImg.getD 38 0#8, fwImg.getD 39 0#8] := by
    rw [← hi 36 (by decide), ← hi 37 (by decide), ← hi 38 (by decide), ← hi 39 (by decide), State.ld, hm]
    simp only [KMap.bytes, Nat.add_assoc, Nat.reduceAdd]
  rw [State.ldN, this]
  decide +kernel
theorem wit_fw_load : bit (0x80000001#32).toNat 31 = true ∧ bits (0x80000001#32).toNat 0 3 = 1 ∧ fwSt.rg (FW_CORE_STATUS_STATE 1) = 0 ∧
    fwSt.loadStatus 1 fwImg = stOk ∧ fwSt.loadStatus 2 fwImg ≠ stOk := by
  have hv : fwSt.loadVersionOk 1 (FwImg.of fwImg) = true := by decide +kernel
  have hs : fwSt.fac.signed fwImg fwSt.fac.rollCd = true := wit_fw_signed
  have h2 : imageOk 2 fwImg = false := by decide +kernel
  refine ⟨by decide, by decide, by decide +kernel, ?_, ?_⟩
  · simp [State.loadStatus, wit_fw_image, hs, hv]
  · simp only [State.loadStatus, h2]; decide
theorem wit_fw_area : fwSt.ecc = [] ∧ fwSt.inDram (fwSt.rg FW_LOAD_ADDR) 1536 = true := by decide +kernel
/-- The oldest fault record of a module, one counting fault and one not. -/
def fqSt (r : FaultRec) : State := { State.reset with integ := { fq := [r] } }
theorem wit_fq : bit ({ tide := 5, terr := 1, pos := 2, code := 3, flags := 4 } : FaultRec).flags 2 = true ∧
    bit ({ tide := 5, terr := 1, pos := 2, code := 3 } : FaultRec).flags 2 = false ∧
    (fqSt { tide := 5, terr := 1, pos := 2, code := 3, flags := 4 }).integ.fq = { tide := 5, terr := 1, pos := 2, code := 3, flags := 4 } :: [] := by
  decide +kernel
theorem wit_srep : bit (0x82304110#32).toNat 29 = false ∧ bit (0x82304110#32).toNat 31 = true ∧ bit (0x02304110#32).toNat 31 = false ∧
    State.reset.srepBad 1 3 0 1 4 1 = false ∧ bits (0x82304110#32).toNat 18 2 ≠ 3 ∧ State.reset.srepBad 13 3 0 1 4 1 = true := by decide +kernel
/-- A log entry waits in the buffer. -/
def logSt : State := { State.reset with log := { State.reset.log with buf := [{ seq := 1, code := 2 }], dropped := 0, sectors := [[], [{ code := 1 }]] } }
theorem wit_log : State.reset.pins.control = true ∧ State.reset.log.buf = [] ∧ logSt.log.sectors = [[]] ++ [[{ code := 1 }]] ∧ logSt.log.dropped = 0 ∧
    [({ code := 1 } : LogEnt)].length < 128 ∧ [({ code := 1 } : LogEnt)].length ≠ 45 := by decide +kernel
/-- Core images of one release, all running, as a negotiation needs them. -/
def negSt : State :=
  let s := tst ((List.range 5).map (fun k => (FW_CORE_STATUS_STATE k, 2)) ++ [(FW_RELEASE, 0x10000), (FW_IFVER_IFMAJ, 1), (FW_IFVER_IFMIN, 2)])
  { s with fw := { s.fw with images := (List.range 5).map fun k => (k, some { release := 0x10000, ifmaj := 1, ifmin := 2, feat := 7 }) } }
theorem wit_core : negSt.rg (FW_CORE_STATUS_STATE 3) = 2 ∧ (negSt.image 3).isSome = true ∧ State.reset.rg (FW_CORE_STATUS_STATE 3) ≠ 2 ∧
    (tst [(FW_CORE_STATUS_STATE 3, 3)]).rg (FW_CORE_STATUS_STATE 3) = 3 := by decide +kernel
theorem wit_negotiation : bit (0x80000101#32).toNat 31 = true ∧ negSt.rg FW_STATE_MODE = 0 ∧ negSt.imagesAgree = true ∧
    bits (0x80000101#32).toNat 8 8 = negSt.rg FW_IFVER_IFMAJ ∧ bits (0x80000101#32).toNat 0 8 ≤ negSt.rg FW_IFVER_IFMIN ∧ ¬ State.reset.imagesAgree = true ∧
    (tst [(FW_STATE_MODE, 2)]).queueOpen = false ∧ (tst [(FW_STATE_MODE, 2)]).rg FW_STATE_MODE = 2 := by decide +kernel
/-- Queue pair 0 with 16 places each, in the host-ring area. -/
def qpSt (l : List (Fld × Nat)) : State :=
  let s := tst ([(HRING_Q_SQB_ADDR 0, dramBase), (HRING_Q_CQB_ADDR 0, dramBase + 8192), (HRING_Q_CTRL_SQSIZE 0, 4), (HRING_Q_CTRL_CQSIZE 0, 4),
    (HRING_EV_BASE_ADDR, dramBase + 65536), (HRING_EV_CTRL_SIZE, 4)] ++ l)
  { s with fw := { s.fw with negOk := true } }
theorem wit_queueOpen : bit (0x80440000#32).toNat 29 = false ∧ (qpSt []).on (HRING_Q_CTRL_EN 0) = false ∧ (qpSt []).queueStatus 0 = stOk ∧
    ((qpSt []).fw.queues.get 0 {}).held = [] ∧ (qpSt [(HRING_Q_SQB_ADDR 0, 0)]).queueStatus 0 ≠ stOk := by decide +kernel
theorem wit_queueTail : let s := qpSt [(HRING_Q_CTRL_EN 0, 1), (HRING_Q_SQDB_TAIL 0, 2), (HRING_Q_SQDB_HEAD 0, 1)]
    s.on (HRING_Q_CTRL_EN 0) = true ∧ (5#16).toNat < 2 ^ s.rg (HRING_Q_CTRL_SQSIZE 0) ∧
    ((5#16).toNat + 16 - s.rg (HRING_Q_SQDB_TAIL 0)) % 16 + (s.rg (HRING_Q_SQDB_TAIL 0) + 16 - s.rg (HRING_Q_SQDB_HEAD 0)) % 16 < 16 ∧
    16 ≤ ((1#16).toNat + 16 - s.rg (HRING_Q_SQDB_TAIL 0)) % 16 + (s.rg (HRING_Q_SQDB_TAIL 0) + 16 - s.rg (HRING_Q_SQDB_HEAD 0)) % 16 := by
  decide +kernel
/-- An entry of the host core, or of a token queue, stands at the queue's head. -/
def sqSt (target : Nat) : State :=
  let s := qpSt [(HRING_Q_CTRL_EN 0, 1), (HRING_Q_SQDB_TAIL 0, 2), (HRING_Q_SQDB_HEAD 0, 1), (HRING_Q_CTRL_TARGET 0, target), (FW_CORE_STATUS_STATE 0, 2)]
  { s with mem := bytesAt (dramBase + 64) (cmdEntry 1 0 0 0 0) }
theorem wit_sqEntry : let e := (sqSt 0).ld ((sqSt 0).rg (HRING_Q_SQB_ADDR 0) + 64 * (sqSt 0).rg (HRING_Q_SQDB_HEAD 0)) 64
    (sqSt 0).on (HRING_Q_CTRL_EN 0) = true ∧ (sqSt 0).rg (HRING_Q_SQDB_HEAD 0) ≠ (sqSt 0).rg (HRING_Q_SQDB_TAIL 0) ∧ (sqSt 0).cqFree 0 = true ∧
    (sqSt 0).on (HRING_Q_CTRL_TARGET 0) = false ∧ (sqSt 0).coreRuns 0 = true ∧ 1 ≤ leAt e 0 1 ∧ leAt e 0 1 ≤ 6 := by decide +kernel
theorem wit_sqRequest : let e := (sqSt 1).ld ((sqSt 1).rg (HRING_Q_SQB_ADDR 0) + 64 * (sqSt 1).rg (HRING_Q_SQDB_HEAD 0)) 64
    (sqSt 1).on (HRING_Q_CTRL_EN 0) = true ∧ (sqSt 1).rg (HRING_Q_SQDB_HEAD 0) ≠ (sqSt 1).rg (HRING_Q_SQDB_TAIL 0) ∧ (sqSt 1).cqFree 0 = true ∧
    (sqSt 1).on (HRING_Q_CTRL_TARGET 0) = true ∧ (sqSt 1).loader.reqs.length < 4096 ∧ leAt e 4 1 < 5 := by decide +kernel
theorem wit_cqHead : let s := qpSt [(HRING_Q_CTRL_EN 0, 1), (HRING_Q_CQDB_TAIL 0, 5), (HRING_Q_CQDB_HEAD 0, 1)]
    (3#16).toNat < 2 ^ s.rg (HRING_Q_CTRL_CQSIZE 0) ∧ ((3#16).toNat + 16 - s.rg (HRING_Q_CQDB_HEAD 0)) % 16 ≤
      (s.rg (HRING_Q_CQDB_TAIL 0) + 16 - s.rg (HRING_Q_CQDB_HEAD 0)) % 16 := by decide +kernel
theorem wit_eventRing : bit (0x80000004#32).toNat 29 = false ∧ bit (0x80000004#32).toNat 31 = true ∧ (qpSt []).on HRING_EV_CTRL_EN = false ∧
    ringIn ((qpSt []).rg HRING_EV_BASE_ADDR, 64 * 2 ^ 4) = true ∧ ((qpSt []).openRings.any (ringsMeet ((qpSt []).rg HRING_EV_BASE_ADDR, 64 * 2 ^ 4))) = false ∧
    ringIn (State.reset.rg HRING_EV_BASE_ADDR, 64 * 2 ^ 4) = false ∧ bit (4#32).toNat 31 = false ∧ (qpSt [(HRING_EV_CTRL_EN, 1)]).on HRING_EV_CTRL_EN = true := by
  decide +kernel
/-- A request in the mailbox: READ of object 0x1000. -/
def mbxSt : State :=
  let s := tst [(MBX_REQ 0, 0x00010101), (MBX_REQ 1, 0x00001000)]
  { s with ef := { s.ef with running := some 0 } }
theorem wit_mbx : (tst [(MBX_STATUS_BUSY, 1)]).on MBX_STATUS_BUSY = true ∧ mbxSt.on MBX_STATUS_BUSY = false ∧ mbxSt.serves 2 = true ∧
    msgOk 2 (((List.range 266).flatMap fun i => natLE 4 (mbxSt.rg (MBX_REQ i))).take
      (msgLen ((List.range 266).flatMap fun i => natLE 4 (mbxSt.rg (MBX_REQ i))))) = true ∧
    mOp (((List.range 266).flatMap fun i => natLE 4 (mbxSt.rg (MBX_REQ i))).take 40) = 1 ∧ mbxSt.dict.cache = [] ∧ mbxSt.dict.queue.length < 32 := by
  decide +kernel

/-! ## Witnesses, part 12 -/

/-- A message of the object protocol. -/
def topMsg (op index tide total : Nat) (data : List Byte) : List Byte :=
  nats [1, op] ++ natLE 2 7 ++ natLE 2 index ++ nats [0, 0] ++ natLE 6 tide ++ natLE 2 data.length ++ natLE 4 0 ++ natLE 4 total ++ zeros 16 ++ data
def topReq (op index tide total : Nat) (data : List Byte) : ObjReq := { iface := 3, msg := topMsg op index tide total data }
/-- The lighthouse core runs, and the request stands at the head of its queue. -/
def topSt (q : ObjReq) (l : List (Fld × Nat)) : State :=
  let s := tst l
  { s with ef := { s.ef with running := some 0 }, dict := { s.dict with queue := [q] } }
/-- The same with the request taken. -/
def topTaken (q : ObjReq) (l : List (Fld × Nat)) : State :=
  let s := topSt q l
  { s with dict := { s.dict with queue := [] } }
/-- A READ of DEVICE_TYPE that a frame, a datagram or a block brings. -/
def readMsg : List Byte := topMsg 1 0x1000 0 0 []
def topEth : List Byte := ethF 0x0200000000AA 0x0200000000BB 0x88B5 readMsg
def rxSt (f : List Byte) : State :=
  let s := inbox (ringUp []) f
  { s with ef := { s.ef with running := some 0 }, dict := { s.dict with vals := [(objKey 0x1012 0, natLE 4 0x0A000001)] } }
theorem wit_topEthernet : let s := rxSt topEth
    s.dict.cache = [] ∧ s.dict.queue.length < 32 ∧ 1 ≤ mOp readMsg ∧ mOp readMsg ≤ 5 ∧
    (s.takeFrame fun f => fType f == 0x88B5 && fDst f == s.mac).map (fun x => unpad (fBody x.1.bytes).2.2) = some readMsg ∧ s.serves 0 = true ∧
    msgOk 0 readMsg = true := by decide +kernel
def topUdp : List Byte :=
  ethF 0x0200000000AA 0x0200000000BB 0x0800 (nats [0x45, 0] ++ natBE 2 68 ++ zeros 4 ++ nats [64, 17] ++ natBE 2 0x66A7 ++ natBE 4 0x0A000002 ++ natBE 4 0x0A000001 ++
    natBE 2 5000 ++ natBE 2 34997 ++ natBE 2 48 ++ zeros 2 ++ readMsg)
theorem wit_topUdp : let s := rxSt topUdp
    (s.takeFrame fun f => (s.udpOf f).isSome).isSome = true ∧ (s.udpOf topUdp).map (fun x => x.2) = some readMsg ∧ s.serves 1 = true ∧
    msgOk 1 readMsg = true := by decide +kernel
theorem wit_smbus : (rxSt []).serves 3 = true ∧ msgOk 3 readMsg = true := by decide +kernel
/-- The same request was answered a moment ago. -/
def cacheSt : State :=
  let s := rxSt []
  { s with dict := { s.dict with cache := [(3, { seq := 7, reply := [1#8] })] } }
theorem wit_smbus_again : (cacheSt.dict.cache.find? fun c => c.1 == 3 && c.2.requester == [] && c.2.seq == mSeq readMsg &&
    decide (cacheSt.uptime ≤ c.2.time + 1000000000)) = some (3, { seq := 7, reply := [1#8] }) ∧ cacheSt.serves 3 = true := by decide +kernel
theorem wit_alert : let s : State := { State.reset with pins := { State.reset.pins with alert := true } }
    s.pins.alert = true ∧ s.pins.control = true := by decide +kernel
def arpF : List Byte :=
  ethF 0xFFFFFFFFFFFF 0x0200000000BB 0x0806 (natBE 8 0x0001080006040001 ++ natBE 6 0x0200000000BB ++ natBE 4 0x0A000002 ++ zeros 6 ++ natBE 4 0x0A000001)
theorem wit_arp : let s := rxSt arpF
    (s.takeFrame s.isArp).isSome = true ∧ s.serves 1 = true ∧ s.linkOn 0 = true := by decide +kernel
theorem wit_read : let q := topReq 1 0x1000 0 0 []
    40 ≤ q.msg.length ∧ (topSt q []).front 1 = some (q, topTaken q []) ∧ mSub q.msg = 0 ∧ ((topTaken q []).obj? (mIndex q.msg)).map Obj.acc = some 4 ∧
      mOffset q.msg = 0 := by decide +kernel
theorem wit_read_none : let q := topReq 1 0x3000 0 0 []
    (topSt q []).front 1 = some (q, topTaken q []) ∧ (topTaken q []).obj? (mIndex q.msg) = none := by decide +kernel
theorem wit_keyList : let q := topReq 1 0x1022 0 0 []
    (topSt q []).front 1 = some (q, topTaken q []) ∧ mIndex q.msg = 0x1022 ∧ ((topTaken q []).obj? 0x1022).map Obj.acc = some 0 ∧ mOffset q.msg = 0 := by
  decide +kernel
theorem wit_next : let q := topReq 5 0x1000 0 0 []
    40 ≤ q.msg.length ∧ (topSt q []).front 5 = some (q, topTaken q []) := by decide +kernel
/-- What the clauses of a WRITE ask, of the request `q` and the object. -/
def writeOk (q : ObjReq) : Bool :=
  let s1 := topTaken q []
  match s1.obj? (mIndex q.msg) with
  | some o => decide (40 ≤ q.msg.length ∧ (topSt q []).front 2 = some (q, s1)) && s1.writeBar q o == none && mOffset q.msg == 0 &&
      mTotal q.msg == (mData q.msg).length && decide ((topSt q []).dict.segs = [] ∧ o.index = mIndex q.msg) && o.valueOk (mData q.msg) &&
      s1.valueBar (mIndex q.msg) (mData q.msg) == none
  | none => false
theorem wit_write : let q := topReq 2 0xB001 0 4 (natLE 4 9)
    writeOk q = true ∧ ((topTaken q []).obj? (mIndex q.msg)).map Obj.acc = some 1 ∧ mIndex q.msg = 0xB001 := by decide +kernel
theorem wit_write_persistent : let q := topReq 2 0x2100 0 2 (natLE 2 600)
    writeOk q = true ∧ ((topTaken q []).obj? (mIndex q.msg)).map Obj.acc = some 3 ∧ mIndex q.msg = 0x2100 ∧
      (topSt q []).committed 0x2100 none ≠ some (mData q.msg) ∧ (topSt q []).dict.budget ≠ 0 ∧ (topSt q []).ef.dataGone = false := by decide +kernel
/-- A commit in progress, and a segmented write that waits. -/
def commitSt : State :=
  let s := topSt {} []
  { s with dict := { s.dict with queue := [], commits := [{ index := 0x2100, value := natLE 2 600, req := topReq 2 0x2100 0 2 (natLE 2 600) }], segs := [{}] } }
theorem wit_commit : commitSt.dict.commits = { index := 0x2100, value := natLE 2 600, req := topReq 2 0x2100 0 2 (natLE 2 600) } :: [] ∧
    commitSt.pins.control = true ∧ commitSt.ef.running.isSome = true ∧ commitSt.dict.budget ≠ 0 ∧ commitSt.ef.dataGone = false ∧
    commitSt.dict.segs = {} :: [] := by decide +kernel
/-- A stream with one parameter of 32 bits. -/
def parSt (q : ObjReq) (l : List Stamped) : State :=
  let s := topSt q [(TIDE_NUM, 10)]
  { s with loader := { s.loader with streams := [{ num := 0, params := [{ j := 1, typ := 4 }] }] }, dict := { s.dict with stamped := l } }
/-- What the clauses of a stamped write ask. -/
def stampOk (op : Nat) (q : ObjReq) (l : List Stamped) : Bool :=
  let s := parSt q l
  match s.front op with
  | some (q', s1) => match s1.obj? (mIndex q.msg) with
    | some o => q' == q && decide (40 ≤ q.msg.length ∧ o.index = mIndex q.msg ∧ bit o.flags 0 = true ∧ o.acc = 1 ∧ 0x6000 ≤ mIndex q.msg ∧ mIndex q.msg < 0x8000) &&
        s1.writeBar q o == none && mOffset q.msg == 0 && mTotal q.msg == mLen q.msg && o.valueOk (mData q.msg) && s.mayWrite q.iface
    | none => false
  | none => false
theorem wit_writeAt : let q := topReq 3 0x6001 12 4 (natLE 4 9)
    stampOk 3 q [] = true ∧ (parSt q []).rg TIDE_NUM + 2 ≤ mTide q.msg ∧ mTide q.msg ≤ (parSt q []).rg TIDE_NUM + 65535 ∧
      (parSt q []).dict.stamped.length < 256 := by decide +kernel
theorem wit_writeAt_early : let q := topReq 3 0x6001 11 4 (natLE 4 9)
    stampOk 3 q [] = true ∧ mTide q.msg < (parSt q []).rg TIDE_NUM + 2 ∧ mAsap q.msg = false := by decide +kernel
theorem wit_cancelAt : let q := topReq 4 0x6001 12 0 []
    let s := parSt q [{ index := 0x6001, target := 12, value := natLE 4 9 }]
    (s.front 4).map (fun x => x.1) = some q ∧ (s.obj? 0x6001).isSome = true ∧ s.mayWrite q.iface = true ∧ ¬ (0x4000 ≤ mIndex q.msg ∧ mIndex q.msg ≤ 0x4004) ∧
      (s.dict.stamped.any fun x => x.index == mIndex q.msg && x.sub == mSub q.msg && x.target == mTide q.msg) = true := by decide +kernel
theorem wit_protRaise : let q := topReq 2 0x1006 0 4 (natLE 4 2)
    writeOk q = true ∧ (topTaken q []).protCheck 2 = (stOk, false) ∧ ((topTaken q []).obj? 0x1006).map Obj.acc = some 2 := by decide +kernel
theorem wit_protLower : let q := topReq 2 0x1006 0 4 (natLE 4 0xA5C30000)
    writeOk q = true ∧ ((topTaken q []).protCheck 0xA5C30000) = (stOk, true) := by decide +kernel
theorem wit_rollback : let q := topReq 2 0x1008 0 4 (natLE 4 (5 * 65536))
    writeOk q = true ∧ (topTaken q []).rollbackOk (leNat (mData q.msg) / 65536) = true := by decide +kernel
theorem wit_keyImport : let q := topReq 2 0x1020 0 40 (zeros 8 ++ nats [1] ++ zeros 31)
    writeOk q = true ∧ (match (topTaken q []).keyOf (mData q.msg) with
      | .ok k => k == { id := 0, minLevel := 0, key := nats [1] ++ zeros 31 }
      | .error _ => false) = true := by decide +kernel
theorem wit_keySound : ∀ m ∈ [2, 3, 4, 5], (topSt {} []).ef.erases.get m 0 + 1 < 100000 := by decide +kernel
/-- Every sector of the key store is worn, and no spare is left. -/
def wornSt : State :=
  let s1 := topSt (topReq 2 0x1020 0 40 (zeros 8 ++ nats [1] ++ zeros 31)) []
  { s1 with ef := { s1.ef with spareCode := 0, erases := [(2, 99999), (3, 99999), (4, 99999), (5, 99999)] } }
theorem wit_keyWorn : let q := topReq 2 0x1020 0 40 (zeros 8 ++ nats [1] ++ zeros 31)
    let s1 : State := { wornSt with dict := { wornSt.dict with queue := [] } }
    wornSt.front 2 = some (q, s1) ∧ (match s1.obj? 0x1020, s1.keyOf (mData q.msg) with
      | some o, .ok k => s1.writeBar q o == none && o.acc == 2 && o.valueOk (mData q.msg) && !(s1.keyStoreWrite (s1.ef.keys ++ [k])).1
      | _, _ => false) = true := by decide +kernel
theorem wit_keyDelete : let q := topReq 2 0x1021 0 4 (natLE 4 3)
    let s1 := topTaken q []
    let s2 : State := { s1 with ef := { s1.ef with keys := [{ id := 3, key := zeros 64 }] } }
    writeOk q = true ∧ s2.keyDeleteOk (leNat (mData q.msg)) = true := by decide +kernel
/-- An update of `n` bytes, with an operation in progress or none. -/
def updSt (o : Option EfOp) (upd : Bool) (n : Nat) : State :=
  let s := tst [(EF_UPD_LEN, n)]
  { s with ef := { s.ef with running := some 0, op := o, upd := upd, updNext := 1, slotB := { factory := true } } }
theorem wit_update : (updSt none false 8192).ef.running.isSome = true ∧ 0 < (updSt none false 8192).rg EF_UPD_LEN ∧ (updSt none false 8192).rg EF_UPD_LEN ≤ 496 * 4096 ∧
    (1#9).toNat = (updSt none true 8192).ef.updNext ∧ 4096 * (1#9).toNat < (updSt none true 8192).rg EF_UPD_LEN ∧
    (updSt none true 8192).slotStatus (updSt none true 8192).idleSlot = stOk ∧ (updSt none true 8192).efBusy = false ∧
    (updSt (some (.chunk 1 [])) true 8192).efBusy = true ∧ (updSt (some (.record {})) true 8192).ef.deferred = none ∧
    (updSt (some (.record {})) true 8192).pins.control = true := by decide +kernel
/-- A chunk is being programmed; the copies of the key store are valid as given; prefetch and branch cache are on. -/
def readSt (copies : Bool × Bool) : State :=
  let s := (updSt (some (.chunk 1 [])) true 8192).wrs [(EF_CFG_PF_EN, 1), (EF_CFG_BC_EN, 1)]
  { s with ef := { s.ef with keyCopies := copies, keys := [{ id := 3, key := zeros 64 }] } }
theorem wit_flashReads : (readSt (true, true)).pins.control = true ∧ (readSt (true, true)).ef.deferred = none ∧
    (readSt (true, true)).ef.op = some (.chunk 1 []) ∧ (readSt (false, true)).ef.keyCopies = (false, true) ∧
    (readSt (true, true)).ef.keyCopies = (true, true) ∧ (readSt (true, true)).fetchHits (5#18).toNat = false ∧
    (readSt (true, true)).on EF_CFG_BC_EN = true ∧ (readSt (true, true)).on EF_CFG_PF_EN = true ∧
    (readSt (true, true)).ef.prefetch.length ≤ 4 := by decide +kernel
/-- A trial image runs. -/
def trialSt : State := { State.reset with ef := { State.reset.ef with running := some 0, opt := { State.reset.ef.opt with slot := 0, state := 1 } } }
theorem wit_confirm : trialSt.ef.running = some trialSt.ef.opt.slot ∧ trialSt.ef.opt.state ≠ 0 ∧ trialSt.pins.control = true ∧ trialSt.efBusy = false := by
  decide +kernel
/-- No image runs; the idle slot holds `x`. -/
def recSt (x : Slot) : State := { State.reset with ef := { State.reset.ef with running := none, slotB := x } }
theorem wit_recovery : let b := natLE 2 0 ++ nats [3] ++ zeros 128
    b.length = 131 ∧ leAt b 2 1 ≤ 31 ∧ leAt b 0 2 = (recSt {}).ef.recNext ∧ leAt b 0 2 ≤ 495 ∧ (recSt {}).ef.recBlocks.length < 31 ∧
    (recSt {}).ef.running = none ∧ (recSt { factory := true }).slotStatus (recSt { factory := true }).idleSlot = stOk ∧
    (recSt {}).slotStatus (recSt {}).idleSlot ≠ stOk := by decide +kernel

/-! ## Witnesses, part 13 -/

/-- A state with other pins. -/
def pinSt (l : List (Fld × Nat)) (f : Pins → Pins) : State := let s := tst l; { s with pins := f s.pins }
theorem wit_powerOn : State.reset.ef.lowering = false ∧ State.reset.slotStatus State.reset.ef.opt.slot = stOk ∧
    ¬ (State.reset.ef.opt.state = 1 ∧ State.reset.ef.tried = true) ∧ State.reset.pins.v12 = true ∧ (24 : Fin 25).val = 24 ∧
    (pinSt [] fun p => { p with mrst := true }).pins.mrst = true ∧ State.reset.pins.sb = true := by decide +kernel
theorem wit_powerOn_reads : ∀ x ∈ [(⟨.other true, .clean⟩ : EfRead), ⟨.keyStore false, .single⟩], x.line = .clean ∨ x.line = .single := by
  decide
theorem wit_moduleReset : State.reset.rg PWR_STATUS_STATE ≠ 5 ∧ (tst [(PWR_STATUS_STATE, 5)]).rg PWR_STATUS_STATE = 5 := by decide +kernel
theorem wit_warm : State.reset.mayReset = true ∧ State.reset.efBusy = false ∧
    ({ State.reset with dict := { State.reset.dict with warmAsked := true } } : State).dict.warmAsked = true := by decide +kernel
theorem wit_flr : State.reset.pins.compute = true := by decide +kernel
theorem wit_modes : bits (0x80000000#32).toNat 30 2 = 2 ∧ bits (0x40000000#32).toNat 30 2 = 1 ∧ bits (0xC0000000#32).toNat 30 2 = 3 ∧ bits (0#32).toNat 30 2 = 0 ∧
    (tst [(FW_NEG_DONE, 1)]).rg FW_STATE_MODE = 0 ∧ (tst [(FW_NEG_DONE, 1)]).on FW_NEG_DONE = true ∧
    (tst [(FW_NEG_DONE, 1), (GC_STATUS_PHASE, 3)]).rg GC_STATUS_PHASE ≠ 1 ∧ (tst [(FW_NEG_DONE, 1), (GC_STATUS_PHASE, 1)]).rg GC_STATUS_PHASE = 1 ∧
    (tst [(FW_STATE_MODE, 1), (GH_HOST_LOST, 1)]).on GH_HOST_LOST = true ∧ (tst [(FW_STATE_MODE, 1), (GH_HOST_LOST, 1)]).rg FW_STATE_MODE = 1 ∧
    (tst [(FW_STATE_MODE, 3), (FW_NEG_DONE, 1)]).rg FW_STATE_MODE = 3 ∧
    ({ (tst [(FW_STATE_MODE, 3), (FW_NEG_DONE, 1)]) with fw := { recOk := true } } : State).fw.recOk = true := by decide +kernel
theorem wit_modes_refused : let s := tst [(FW_STATE_MODE, 2)]
    (1 : Nat) ≠ s.rg FW_STATE_MODE ∧ ¬ (s.rg FW_STATE_MODE = 0 ∧ ((1 : Nat) = 1 ∨ (1 : Nat) = 2) ∧ s.on FW_NEG_DONE = true) ∧
      ¬ (s.rg FW_STATE_MODE = 1 ∧ (1 : Nat) = 3 ∧ s.on GH_HOST_LOST = true) ∧
      ¬ (s.rg FW_STATE_MODE = 3 ∧ (1 : Nat) = 1 ∧ s.fw.recOk = true ∧ s.on FW_NEG_DONE = true) := by decide +kernel
theorem wit_power : State.reset.pins.compute = true ∧ State.reset.rg PWR_STATUS_STATE = 0 ∧ (tst [(PWR_STATUS_STATE, 1)]).rg PWR_STATUS_STATE < 2 ∧
    State.reset.busyP1 = false ∧ State.reset.busyP3 = false ∧ (tst [(TIDE_CTRL_RUN, 1)]).busyP1 = true := by decide +kernel
theorem wit_wake : (tst [(PWR_STATUS_STATE, 3)]).rg PWR_STATUS_STATE ≠ 0 ∧ State.reset.pins.mrst = false ∧ State.reset.pins.thermal ≠ 1 ∧
    (pinSt [(PWR_STATUS_STATE, 3)] fun p => { p with thermal := 1 }).pins.thermal = 1 ∧
    bit ((tst [(PWR_WAKE_EN, 1), (PWR_STATUS_STATE, 1)]).rg PWR_WAKE_EN) 0 = true ∧ (tst [(PWR_WAKE_EN, 1), (PWR_STATUS_STATE, 1)]).rg PWR_STATUS_STATE < 3 ∧
    bit ((tst [(PWR_WAKE_EN, 0), (PWR_STATUS_STATE, 1)]).rg PWR_WAKE_EN) 0 = false := by decide +kernel
theorem wit_supply : let s := pinSt [] fun p => { p with v12 := false, compute := false }
    s.pins.v12 = false ∧ s.pins.control = true ∧ s.ef.running.isSome = true ∧ s.pins.compute = false ∧ s.rg PWR_STATUS_STATE = 0 := by decide +kernel
theorem wit_temperature : (1839#16).toInt < 1840 ∧ 1680 ≤ (1680#16).toInt ∧ (1599#16).toInt < 1600 ∧ 1600 ≤ (1600#16).toInt ∧ (1679#16).toInt < 1680 ∧
    1760 ≤ (1760#16).toInt ∧ 1840 ≤ (1840#16).toInt := by decide
/-- A running tide whose only slice, of station 0 of terrace 0, has not ended. -/
def endSt : State :=
  let s := tst [(SEQ_STATE_STATE 0 0, 2)]
  ({ s with tide := { s.tide with running := true } } : State).onStn 0 0 fun v => { v with slice := some {} }
theorem wit_unended : endSt.tide.running = true ∧ (endSt.stn 0 0).slice.isSome = true ∧ (endSt.stn 0 0).halted = false ∧
    (endSt.stn 0 0).faults = [] ∧ (endSt.stn 0 0).ended = none ∧ endSt.rg (TAKE_STATUS_PHASE 0) = 0 ∧ endSt.replaying = [] ∧
    endSt.rg (SEQ_STATE_STATE 0 0) = 2 ∧ ∀ q ∈ allStns, q ≠ (0, 0) → (endSt.stn q.1 q.2).slice = none := by decide +kernel

/-! ## Witnesses, part 14 -/

theorem wit_stepFront : ∃ (s : State) (c : Instr), s.pending = c :: [] := ⟨{ State.reset with pending := [.fqPop] }, .fqPop, rfl⟩
theorem wit_idle : State.reset.pending = [] := rfl
theorem wit_inv : ∃ s t : State, s.Inv ∧ step s = .next t := ⟨State.reset, _, by decide +kernel, rfl⟩
theorem wit_idle_unsteered : State.reset.tide.rate = 0 ∧ State.reset.tide.frac = 0 := by decide

/-! ## Well-formed commands: each check refuses a term that breaks it -/

theorem test_wf_bar2_read : Instr.wellFormed (.bar2Request true 0 4096 []) = true ∧ Instr.wellFormed (.bar2Request true 0 4097 []) = false ∧
    Instr.wellFormed (.bar2Request true 0 4 [0#8]) = false := by decide +kernel
theorem test_wf_bar2_write : Instr.wellFormed (.bar2Request false 0 0 (List.replicate 4096 0#8)) = true ∧
    Instr.wellFormed (.bar2Request false 0 0 (List.replicate 4097 0#8)) = false := by decide +kernel
theorem test_wf_places : Instr.wellFormed (.powerOnReset 24 ⟨[63], []⟩) = true ∧ Instr.wellFormed (.powerOnReset 24 ⟨[64], []⟩) = false ∧
    Instr.wellFormed (.wakeNFall 24 [64]) = false ∧ Instr.wellFormed (.vin12Return 24 [64]) = false ∧ Instr.wellFormed (.mrstNRelease 24 ⟨[64], []⟩) = false := by
  decide +kernel
theorem test_wf_upset : Instr.wellFormed (.tileIssue st0 0 [⟨0, 32, 31, 1⟩]) = true ∧ Instr.wellFormed (.tileIssue st0 0 [⟨0, 33, 0, 1⟩]) = false ∧
    Instr.wellFormed (.tileComplete st0 0 [⟨0, 0, 33, 1⟩]) = false ∧ Instr.wellFormed (.tileComplete st0 0 [⟨0, 32, 32, 1⟩]) = false := by decide +kernel
theorem test_wf_scrub : Instr.wellFormed (.scrubRow 0 17 0 4095 {}) = true ∧ Instr.wellFormed (.scrubRow 0 16 1 511 ⟨[⟨63, .uncorrectable, 0⟩], true⟩) = true ∧
    Instr.wellFormed (.scrubRow 0 16 1 512 {}) = false ∧ Instr.wellFormed (.scrubRow 0 0 3 128 {}) = false ∧
    Instr.wellFormed (.scrubRow 0 0 0 0 ⟨[⟨64, .single, 0⟩], false⟩) = false := by decide +kernel
theorem test_wf_frame : Instr.wellFormed (.ringFrameReceive 0 (zeros 14) true) = true ∧ Instr.wellFormed (.ringFrameReceive 0 (zeros 13) true) = false := by
  decide +kernel
theorem test_wf_blocks : Instr.wellFormed (.smbusBlockWrite (zeros 255) true) = true ∧ Instr.wellFormed (.smbusBlockWrite (zeros 256) true) = false ∧
    Instr.wellFormed (.recoveryBlock (zeros 131)) = true ∧ Instr.wellFormed (.recoveryBlock (zeros 256)) = false := by decide +kernel
theorem test_decode_none : decodeTableWord 32 0 = none := rfl

/-! ## Worked examples of the manual, and check values of the standards it names -/

/-- The check value of CRC-32C (R271), of the string 123456789. -/
theorem test_crc32c : crc32c (nats [0x31, 0x32, 0x33, 0x34, 0x35, 0x36, 0x37, 0x38, 0x39]) = 0xE3069283 := by decide +kernel
/-- The check value of the CRC-16 of R370. -/
theorem test_crc16 : crc16 (nats [0x31, 0x32, 0x33, 0x34, 0x35, 0x36, 0x37, 0x38, 0x39]) = 0x29B1 := by decide +kernel
/-- FIPS 180-4's example for SHA-384: the string abc (R486). -/
theorem test_sha384 : sha384 (nats [0x61, 0x62, 0x63]) = natBE 48
    0xcb00753f45a35e8bb5a03d699ac65007272c32ab0eded1631a8b605a43ff5bed8086072ba1e7cc2358baeca134c825a7 := by decide +kernel
/-- FIPS 197's example for AES-256 (R285): key 00 to 1F, block 00 11 .. FF. -/
theorem test_aes256 : ofNats (aesEnc (roundKeys (nats (List.range 32))) ((List.range 16).map fun i => 17 * i)) =
    natBE 16 0x8ea2b7ca516745bfeafc49904b496089 := by decide +kernel
/-- R28's example: the last 4 GiB of a 96 GiB module, refused on 48 GiB. -/
def aperSt (variant : Nat) : State :=
  let s := State.reset
  { s with fac := { s.fac with variant := variant }, bus := { s.bus with held := s.bus.held.set (busKey 0xC00100 0) (1 + 1) 0 } }
def after (r : Res) (p : State → Bool) : Bool := match r with | .next t => p t | _ => false
theorem test_aperture : after (exec (.aperHiWrite 0x27) (aperSt 0)) (fun t => t.rg HRING_APER_HI_BASE_HI == 0x27 && t.on HRING_APER_LO_EN &&
    !t.on HRING_APER_LO_ERR) = true ∧ after (exec (.aperHiWrite 0x27) (aperSt 1)) (fun t => t.on HRING_APER_LO_ERR && !t.on HRING_APER_LO_EN) = true := by
  decide +kernel
/-- The example of R87: ROW_OMIT 5 and 33. -/
theorem test_rowOmit : (physOf 5 4, physOf 5 5, physOf 5 31, physOf 5 32) = (4, 6, 32, 33) ∧ (physOf 33 31, physOf 33 32) = (31, 32) := by decide
/-- The worked example of R103: one group of one cell. -/
theorem test_rescale : encW (rescale (decW 0x43480000) (Fp.num false 30001 0) (decB 0x3C55) (decB 0x3DCD)) = 0x436F0A76 := by decide +kernel
/-- The examples of R108. -/
theorem test_convert : ((convInt 8 (decW 0x40200000)).code, (convInt 8 (decW 0xC2FF0000)).code, (convInt 8 (decW 0x43480000)).code) = (2, 0x80, 0x7F) ∧
    (convOut 1 (decW 0x43960000)).code = 0x79 ∧ (convOut 1 (decW 0x43EB0000)).code = 0x7E ∧ (convOut 1 (decW 0x43EB0000)).sat = true ∧
    encW ((decF8 4 7 3 0x5D).mul (decF8 5 15 2 0xB6)) = 0xC11C0000 := by decide +kernel
/-- The example of R112: a soft-clip curve. -/
theorem test_curve : curveEval (natLE 4 0 ++ natLE 4 0xC0800000 ++ natLE 1 0xFB ++ zeros (503 + 16 * 150) ++ natLE 4 0x3F180000 ++ natLE 4 0x3F280000 ++ zeros 2000)
    0x3F340000 = 0x3F1AA000 := by decide +kernel
/-- The example of R326: internal address 0x0010_2345_6780. -/
theorem test_dram_address : State.reset.dAddr 0x23456780 = ⟨15, 0, 7, 376, 384⟩ := by decide +kernel
/-- The example of R220: sequence 37, position 5 000 of track 250. -/
theorem test_page_address : State.reset.l1Addr { flags := 0, gen := 0, tracks := 0, len := 0, l1row := 131072 } 250 78 = 67236872 ∧
    State.reset.l2Addr 200000 78 = 102400112 ∧ State.reset.kvAddr 1234567 = 20227145728 ∧
    State.reset.kvAddr 3000000 = 49152000000 := by decide +kernel
/-- The example of R284: amax 3.0 in INT8. -/
theorem test_quantise : encB ((decB 0x4040).div (qmax 0)) = 0x3CC2 ∧ (convOut 0 ((decB 0x4040).div (decB 0x3CC2))).code = 127 := by decide +kernel
/-- The example of R315: 1 920 pages behind 2 000, and behind 30 000. -/
theorem test_predict : (tst [(TIER_QUEUE_PAGES, 2000), (TIER_NRATE_RATE, 7000)]).predictTides 1920 = 111 ∧
    (tst [(TIER_QUEUE_PAGES, 30000), (TIER_NRATE_RATE, 7000)]).predictTides 1920 = 897 := by decide +kernel

end Sys2Proof.Tests
end

/-! # Proofs: the scope family (O1, O2, O50, O58)

What every command keeps, the refused requests of the register space, a write in BAR2 that posts an event, and the resets. -/

section
/-! SUPPORT. The dispatcher keeps what its meanings keep. -/

namespace Sys2Proof.Machine

/-- Every command answers a next state that keeps the waiting commands, the fuses and the invariant: arm by arm, the lemma of
the command's meaning. -/
theorem exec_kept (c : Instr) (s : State) : ResKept s (exec c s) :=
  match c with
  | .unalignedBar0Access .. => execUnalignedBar0Access_kept (.refl s)
  | .reg64LowRead .. => execReg64LowRead_kept (.refl s)
  | .reg64HighRead .. => execReg64HighRead_kept (.refl s)
  | .reg64LowWrite .. => execReg64LowWrite_kept (.refl s)
  | .reg64HighWrite .. => execReg64HighWrite_kept (.refl s)
  | .registerWrite .. => execRegisterWrite_kept (.refl s)
  | .aperHiWrite .. => execAperHiWrite_kept (.refl s)
  | .bar2Request .. => execBar2Request_kept (.refl s)
  | .powerOnReset .. => execPowerOnReset_kept (.refl s)
  | .moduleReset => execModuleReset_kept (.refl s)
  | .warmReset .. => execWarmReset_kept (.refl s)
  | .computeDieReset .. => execComputeDieReset_kept (.refl s)
  | .functionLevelReset => execFunctionLevelReset_kept (.refl s)
  | .tideBoundary => execTideBoundary_kept (.refl s)
  | .schedulableEnd .. => execSchedulableEnd_kept (.refl s)
  | .commitWindowOpen => execCommitWindowOpen_kept (.refl s)
  | .wclkEdge .. => execWclkEdge_kept (.refl s)
  | .wclkLossTimeout => execWclkLossTimeout_kept (.refl s)
  | .gptpFrameReceive .. => execGptpFrameReceive_kept (.refl s)
  | .ppsInEdge .. => execPpsInEdge_kept (.refl s)
  | .ppsOutSecond => execPpsOutSecond_kept (.refl s)
  | .tideSettingWrite .. => execTideSettingWrite_kept (.refl s)
  | .tideRunSet .. => execTideRunSet_kept (.refl s)
  | .tideRunClear .. => execTideRunClear_kept (.refl s)
  | .applyArm .. => execApplyArm_kept (.refl s)
  | .applyCancel .. => execApplyCancel_kept (.refl s)
  | .tileIssue .. => execTileIssue_kept (.refl s)
  | .tileComplete .. => execTileComplete_kept (.refl s)
  | .sliceEnd .. => execSliceEnd_kept (.refl s)
  | .arrayRepairWrite .. => execArrayRepairWrite_kept (.refl s)
  | .curveLoadDone .. => execCurveLoadDone_kept (.refl s)
  | .scrubRow .. => execScrubRow_kept (.refl s)
  | .linkRowReceive .. => execLinkRowReceive_kept (.refl s)
  | .creditReturn .. => execCreditReturn_kept (.refl s)
  | .slotSet .. => execSlotSet_kept (.refl s)
  | .slotRelease .. => execSlotRelease_kept (.refl s)
  | .memPassWrite .. => execMemPassWrite_kept (.refl s)
  | .tstorePagesWrite .. => execTstorePagesWrite_kept (.refl s)
  | .takeoverRequest .. => execTakeoverRequest_kept (.refl s)
  | .takeoverRestore .. => execTakeoverRestore_kept (.refl s)
  | .takeoverCopyDone .. => execTakeoverCopyDone_kept (.refl s)
  | .nop .. => execNop_kept (.refl s)
  | .tile .. => execTile_kept (.refl s)
  | .tilew .. => execTilew_kept (.refl s)
  | .ldbias .. => execLdbias_kept (.refl s)
  | .ldcurve .. => execLdcurve_kept (.refl s)
  | .wcfg .. => execWcfg_kept (.refl s)
  | .waitp .. => execWaitp_kept (.refl s)
  | .rel .. => execRel_kept (.refl s)
  | .setp .. => execSetp_kept (.refl s)
  | .bar .. => execBar_kept (.refl s)
  | .waitf .. => execWaitf_kept (.refl s)
  | .loop .. => execLoop_kept (.refl s)
  | .skip .. => execSkip_kept (.refl s)
  | .ptrSet .. => execPtrSet_kept (.refl s)
  | .ptrAdd .. => execPtrAdd_kept (.refl s)
  | .ptrAddMod .. => execPtrAddMod_kept (.refl s)
  | .ptrLoad .. => execPtrLoad_kept (.refl s)
  | .setdCursor .. => execSetdCursor_kept (.refl s)
  | .setdCursorPtr .. => execSetdCursorPtr_kept (.refl s)
  | .setdCursorAdd .. => execSetdCursorAdd_kept (.refl s)
  | .setdRestore .. => execSetdRestore_kept (.refl s)
  | .setdBaseAdd .. => execSetdBaseAdd_kept (.refl s)
  | .movr .. => execMovr_kept (.refl s)
  | .vld .. => execVld_kept (.refl s)
  | .vst .. => execVst_kept (.refl s)
  | .stop .. => execStop_kept (.refl s)
  | .vmov .. => execVmov_kept (.refl s)
  | .vadd .. => execVadd_kept (.refl s)
  | .vsub .. => execVsub_kept (.refl s)
  | .vmul .. => execVmul_kept (.refl s)
  | .vfma .. => execVfma_kept (.refl s)
  | .vmax .. => execVmax_kept (.refl s)
  | .vmin .. => execVmin_kept (.refl s)
  | .vabs .. => execVabs_kept (.refl s)
  | .vaddi .. => execVaddi_kept (.refl s)
  | .vmuli .. => execVmuli_kept (.refl s)
  | .vfmai .. => execVfmai_kept (.refl s)
  | .vmaxi .. => execVmaxi_kept (.refl s)
  | .vcmp .. => execVcmp_kept (.refl s)
  | .vsel .. => execVsel_kept (.refl s)
  | .vlerp .. => execVlerp_kept (.refl s)
  | .vdiv .. => execVdiv_kept (.refl s)
  | .vexp .. => execVexp_kept (.refl s)
  | .vexp2 .. => execVexp2_kept (.refl s)
  | .vlog2 .. => execVlog2_kept (.refl s)
  | .vrcp .. => execVrcp_kept (.refl s)
  | .vsqrt .. => execVsqrt_kept (.refl s)
  | .vrsqrt .. => execVrsqrt_kept (.refl s)
  | .vsigm .. => execVsigm_kept (.refl s)
  | .vtanh .. => execVtanh_kept (.refl s)
  | .vexpd .. => execVexpd_kept (.refl s)
  | .vcvt .. => execVcvt_kept (.refl s)
  | .vred .. => execVred_kept (.refl s)
  | .vscan .. => execVscan_kept (.refl s)
  | .vdw .. => execVdw_kept (.refl s)
  | .vpool .. => execVpool_kept (.refl s)
  | .vcrop .. => execVcrop_kept (.refl s)
  | .vbdec .. => execVbdec_kept (.refl s)
  | .vnms .. => execVnms_kept (.refl s)
  | .vtopk .. => execVtopk_kept (.refl s)
  | .tflagForce .. => execTflagForce_kept (.refl s)
  | .seqPhaseWrite .. => execSeqPhaseWrite_kept (.refl s)
  | .attentionJobStart .. => execAttentionJobStart_kept (.refl s)
  | .attendEntry .. => execAttendEntry_kept (.refl s)
  | .appendEntry .. => execAppendEntry_kept (.refl s)
  | .attentionJobDone .. => execAttentionJobDone_kept (.refl s)
  | .psInvalidate .. => execPsInvalidate_kept (.refl s)
  | .frameFill .. => execFrameFill_kept (.refl s)
  | .frameFillDone .. => execFrameFillDone_kept (.refl s)
  | .frameInvalidate .. => execFrameInvalidate_kept (.refl s)
  | .psInit => execPsInit_kept (.refl s)
  | .psAlloc .. => execPsAlloc_kept (.refl s)
  | .psShare .. => execPsShare_kept (.refl s)
  | .psFree .. => execPsFree_kept (.refl s)
  | .psReserve .. => execPsReserve_kept (.refl s)
  | .psUnreserve .. => execPsUnreserve_kept (.refl s)
  | .psPoison .. => execPsPoison_kept (.refl s)
  | .psUnpoison .. => execPsUnpoison_kept (.refl s)
  | .openCmd => execOpenCmd_kept (.refl s)
  | .step => execStep_kept (.refl s)
  | .cancel => execCancel_kept (.refl s)
  | .close => execClose_kept (.refl s)
  | .reclaim => execReclaim_kept (.refl s)
  | .hostAlive => execHostAlive_kept (.refl s)
  | .hostLostTimeout => execHostLostTimeout_kept (.refl s)
  | .parkTimeout => execParkTimeout_kept (.refl s)
  | .captureTrainingStep .. => execCaptureTrainingStep_kept (.refl s)
  | .load => execLoad_kept (.refl s)
  | .place => execPlace_kept (.refl s)
  | .remove => execRemove_kept (.refl s)
  | .delete => execDelete_kept (.refl s)
  | .captureStart => execCaptureStart_kept (.refl s)
  | .captureCancel => execCaptureCancel_kept (.refl s)
  | .expanderSlot .. => execExpanderSlot_kept (.refl s)
  | .ageTick => execAgeTick_kept (.refl s)
  | .eviction => execEviction_kept (.refl s)
  | .pageWritebackDone => execPageWritebackDone_kept (.refl s)
  | .homeCopyWrite => execHomeCopyWrite_kept (.refl s)
  | .promotionPageArrive .. => execPromotionPageArrive_kept (.refl s)
  | .pageRepair .. => execPageRepair_kept (.refl s)
  | .dramRead .. => execDramRead_kept (.refl s)
  | .dramWrite .. => execDramWrite_kept (.refl s)
  | .dramScrub .. => execDramScrub_kept (.refl s)
  | .dramRefresh .. => execDramRefresh_kept (.refl s)
  | .throttleWindow => execThrottleWindow_kept (.refl s)
  | .dramRecalibrate .. => execDramRecalibrate_kept (.refl s)
  | .dramProtWrite .. => execDramProtWrite_kept (.refl s)
  | .elogPop => execElogPop_kept (.refl s)
  | .nandCodewordRead .. => execNandCodewordRead_kept (.refl s)
  | .nandRetryRead .. => execNandRetryRead_kept (.refl s)
  | .nandProgram .. => execNandProgram_kept (.refl s)
  | .nandReclaim => execNandReclaim_kept (.refl s)
  | .nandRelocate => execNandRelocate_kept (.refl s)
  | .nandPatrol .. => execNandPatrol_kept (.refl s)
  | .nandWearLevel => execNandWearLevel_kept (.refl s)
  | .dmaProdWrite .. => execDmaProdWrite_kept (.refl s)
  | .dmaDescriptorStart .. => execDmaDescriptorStart_kept (.refl s)
  | .dmaHalf .. => execDmaHalf_kept (.refl s)
  | .dmaDescriptorEnd .. => execDmaDescriptorEnd_kept (.refl s)
  | .dmaRtDeadline .. => execDmaRtDeadline_kept (.refl s)
  | .dmaHostTimeout .. => execDmaHostTimeout_kept (.refl s)
  | .dmaAbort .. => execDmaAbort_kept (.refl s)
  | .vinPortWrite .. => execVinPortWrite_kept (.refl s)
  | .vinFrameStart .. => execVinFrameStart_kept (.refl s)
  | .vinLineEnd .. => execVinLineEnd_kept (.refl s)
  | .vinFrameEnd .. => execVinFrameEnd_kept (.refl s)
  | .vinFrameTimeout .. => execVinFrameTimeout_kept (.refl s)
  | .vinPclkLoss .. => execVinPclkLoss_kept (.refl s)
  | .vinOutputComplete .. => execVinOutputComplete_kept (.refl s)
  | .vinPublish .. => execVinPublish_kept (.refl s)
  | .vinMuxWrite .. => execVinMuxWrite_kept (.refl s)
  | .vinMuxUnit => execVinMuxUnit_kept (.refl s)
  | .audClkWrite .. => execAudClkWrite_kept (.refl s)
  | .audInputSample .. => execAudInputSample_kept (.refl s)
  | .audClockLoss => execAudClockLoss_kept (.refl s)
  | .audClockReturn => execAudClockReturn_kept (.refl s)
  | .linkUp .. => execLinkUp_kept (.refl s)
  | .linkRateFall .. => execLinkRateFall_kept (.refl s)
  | .ringFrameReceive .. => execRingFrameReceive_kept (.refl s)
  | .beaconReceive => execBeaconReceive_kept (.refl s)
  | .memberExpiry .. => execMemberExpiry_kept (.refl s)
  | .windowSend .. => execWindowSend_kept (.refl s)
  | .tileDataReceive => execTileDataReceive_kept (.refl s)
  | .tileVoidReceive => execTileVoidReceive_kept (.refl s)
  | .grantReceive => execGrantReceive_kept (.refl s)
  | .closedReceive => execClosedReceive_kept (.refl s)
  | .grantTimeout .. => execGrantTimeout_kept (.refl s)
  | .aes67PacketReceive => execAes67PacketReceive_kept (.refl s)
  | .aes67PacketSend .. => execAes67PacketSend_kept (.refl s)
  | .causewayLeaveBypass => execCausewayLeaveBypass_kept (.refl s)
  | .capOkSet => execCapOkSet_kept (.refl s)
  | .ringWatchdogExpiry => execRingWatchdogExpiry_kept (.refl s)
  | .topEthernetReceive => execTopEthernetReceive_kept (.refl s)
  | .topUdpReceive => execTopUdpReceive_kept (.refl s)
  | .arpRequest => execArpRequest_kept (.refl s)
  | .mbxGo .. => execMbxGo_kept (.refl s)
  | .smbusBlockWrite .. => execSmbusBlockWrite_kept (.refl s)
  | .smbusBlockRead => execSmbusBlockRead_kept (.refl s)
  | .smbusAlertResponse => execSmbusAlertResponse_kept (.refl s)
  | .read => execRead_kept (.refl s)
  | .write .. => execWrite_kept (.refl s)
  | .writeAt => execWriteAt_kept (.refl s)
  | .cancelAt => execCancelAt_kept (.refl s)
  | .next => execNext_kept (.refl s)
  | .fwLoad .. => execFwLoad_kept (.refl s)
  | .negotiation .. => execNegotiation_kept (.refl s)
  | .modeWrite .. => execModeWrite_kept (.refl s)
  | .queueOpen .. => execQueueOpen_kept (.refl s)
  | .queueClose .. => execQueueClose_kept (.refl s)
  | .sqTailWrite .. => execSqTailWrite_kept (.refl s)
  | .sqEntryTake .. => execSqEntryTake_kept (.refl s)
  | .cqHeadWrite .. => execCqHeadWrite_kept (.refl s)
  | .eventRingOpen .. => execEventRingOpen_kept (.refl s)
  | .eventHeadWrite .. => execEventHeadWrite_kept (.refl s)
  | .watchdogKick .. => execWatchdogKick_kept (.refl s)
  | .coreWatchdogExpiry .. => execCoreWatchdogExpiry_kept (.refl s)
  | .coreRestartWrite .. => execCoreRestartWrite_kept (.refl s)
  | .coreRestartDone .. => execCoreRestartDone_kept (.refl s)
  | .accessFault .. => execAccessFault_kept (.refl s)
  | .efOperationDone .. => execEfOperationDone_kept (.refl s)
  | .updChunk .. => execUpdChunk_kept (.refl s)
  | .recoveryBlock .. => execRecoveryBlock_kept (.refl s)
  | .protLower .. => execProtLower_kept (.refl s)
  | .sramRepairMap .. => execSramRepairMap_kept (.refl s)
  | .lifetimeCheckpoint .. => execLifetimeCheckpoint_kept (.refl s)
  | .histogramSample .. => execHistogramSample_kept (.refl s)
  | .powerEnterP1 .. => execPowerEnterP1_kept (.refl s)
  | .powerEnterP2 .. => execPowerEnterP2_kept (.refl s)
  | .powerEnterP3 .. => execPowerEnterP3_kept (.refl s)
  | .powerEnterP4 .. => execPowerEnterP4_kept (.refl s)
  | .powerEnterP5 .. => execPowerEnterP5_kept (.refl s)
  | .powerWake .. => execPowerWake_kept (.refl s)
  | .wakeNFall .. => execWakeNFall_kept (.refl s)
  | .temperatureSample .. => execTemperatureSample_kept (.refl s)
  | .vin12Return .. => execVin12Return_kept (.refl s)
  | .jtagInstructionLoad .. => execJtagInstructionLoad_kept (.refl s)
  | .mrstNRelease .. => execMrstNRelease_kept (.refl s)
  | .linkDown .. => execLinkDown_kept (.refl s)
  | .vinPclkReturn .. => execVinPclkReturn_kept (.refl s)
  | .segmentTimeout => execSegmentTimeout_kept (.refl s)
  | .persistentCommitDone => execPersistentCommitDone_kept (.refl s)
  | .lighthouseWatchdogExpiry => execLighthouseWatchdogExpiry_kept (.refl s)
  | .lighthouseConfirm => execLighthouseConfirm_kept (.refl s)
  | .updStart => execUpdStart_kept (.refl s)
  | .updCommit => execUpdCommit_kept (.refl s)
  | .updAbort => execUpdAbort_kept (.refl s)
  | .updActivate => execUpdActivate_kept (.refl s)
  | .recoveryCommit => execRecoveryCommit_kept (.refl s)
  | .recoveryStatus => execRecoveryStatus_kept (.refl s)
  | .protRaise => execProtRaise_kept (.refl s)
  | .secRollbackWrite => execSecRollbackWrite_kept (.refl s)
  | .keyImport => execKeyImport_kept (.refl s)
  | .keyDelete => execKeyDelete_kept (.refl s)
  | .keyList => execKeyList_kept (.refl s)
  | .fqPop => execFqPop_kept (.refl s)
  | .logToken => execLogToken_kept (.refl s)
  | .vin12Loss => execVin12Loss_kept (.refl s)
  | .standbyLoss => execStandbyLoss_kept (.refl s)
  | .syncValidLoss => execSyncValidLoss_kept (.refl s)

end Sys2Proof.Machine
end

section
/-! CERTIFICATE. No command undoes the fuses (O58), and an unaligned request is refused (O1). -/

namespace Sys2Proof.Machine

/-- Settles O58: what every command keeps holds the fuses among it. -/
theorem noCommandUndoesFuses : Obligations.NoCommandUndoesFuses := by
  intro c s
  obtain ⟨t, ht, kept⟩ := exec_kept c s
  exact ⟨t, ht, kept.fuses⟩

/-- An access of BAR0 that is not an aligned word changes the reply alone. -/
theorem exec_unalignedBar0Access {off : BitVec 26} {size : Fin 65} (h : ¬ (size.val = 4 ∧ off.toNat % 4 = 0)) (s : State) :
    exec (.unalignedBar0Access off size) s = .next (s.answered .ur) := by
  show execUnalignedBar0Access off size s = _
  rw [execUnalignedBar0Access, if_neg h]

/-- Settles O1: the one branch of the access that is not an aligned word. -/
theorem unalignedRequestsAreRefused : Obligations.UnalignedRequestsAreRefused :=
  fun s _ _ h => exec_unalignedBar0Access h s

end Sys2Proof.Machine
end

section
/-! CERTIFICATE. A write in BAR2 is not the only thing that writes memory when it is made (O2).

A part written into a protected unit of DRAM reads the unit first; a single-bit error found there counts against its row
(R329), the row becomes a repair candidate and object 0x2300 is committed (R338). A commit that brings the budget of the
persistent store below its mark posts event 0x0040 (R448), and the event lands in the event ring, which lies in board DRAM
too (R467): outside the bytes of the request. -/

namespace Sys2Proof.Machine

/-- The event ring of `wornStoreSt`: an address of board DRAM, past the unit that the write touches. -/
def eventRingAddr : Nat := 0x1000100000

/-- The aperture shows board DRAM from its base, whose first 64 MiB are protected and whose first unit holds a single-bit
error, met before; one corrected error makes a row a candidate. The event ring is open, and the persistent store has one unit
of its budget left. -/
def wornStoreSt : State :=
  { State.reset.wrs [(HRING_APER_HI_BASE_HI, 0x10), (HRING_APER_LO_EN, 1), (DRAM_PROT_BASE_EN 0, 1), (DRAM_PROT_SIZE_UNITS 0, 1),
      (DRAM_CTRL_CE_PPR, 1), (HRING_EV_CTRL_EN, 1), (HRING_EV_BASE_ADDR, eventRingAddr)] with
    ecc := [(dramBase / 8, 1)]
    dict := { budget := 1 }
    dram := { elog := [{ typ := 0x03 }] } }

/-- The host may write the first byte of the aperture, which is the first byte of board DRAM. -/
theorem wornStoreSt_mayWrite : wornStoreSt.hostReach = true ∧ wornStoreSt.on HRING_APER_LO_EN = true ∧
    wornStoreSt.rg HRING_APER_HI_BASE_HI * 2 ^ 32 + wornStoreSt.rg HRING_APER_LO_BASE_LO * 2 ^ 20 + (0#32).toNat = dramBase ∧
    wornStoreSt.inDram dramBase 1 = true := by decide +kernel

/-- The write of that byte posts event 0x0040: its code stands in the event ring, where nothing stood. -/
theorem wornStoreSt_write_postsEvent : wornStoreSt.mem.get eventRingAddr 0#8 = 0x00#8 ∧
    (wornStoreSt.bar2 false 0 0 [1#8]).mem.get eventRingAddr 0#8 = 0x40#8 := by decide +kernel

/-- Refutes O2: a write of one byte in BAR2 changes the event ring as well, so memory outside the bytes written is not left
as it was. -/
theorem not_busRequestsComplete : ¬ Obligations.BusRequestsComplete := by
  rintro ⟨-, -, -, hhost⟩
  obtain ⟨reach, en, base, dram⟩ := wornStoreSt_mayWrite
  obtain ⟨before, after⟩ := wornStoreSt_write_postsEvent
  obtain ⟨-, -, -, hwrite, -⟩ := hhost wornStoreSt reach
  obtain ⟨t, ht, -, -, outside⟩ := hwrite 0#32 0#13 [1#8] en (by decide) (by rw [base]; exact dram)
  have ht : wornStoreSt.bar2 false 0 0 [1#8] = t := Host.Outcome.next.inj ht
  have same := outside eventRingAddr (.inr (by rw [base]; decide))
  rw [← ht, before, after] at same
  exact absurd same (by decide)

end Sys2Proof.Machine
end

section
/-! SUPPORT. What the lifetime log, the counters and the event ring leave alone: every register but three of their own, the
pins, the dictionary, the stations, the loader, and of the flash all but the caches of its reads. -/

namespace Sys2Proof.Machine

/-- The registers that a log entry, a count or an event writes. -/
def logKeys : List Nat := [HRING_EV_LOST.key, HRING_EV_DB_TAIL.key, EF_ERASE.key]

/-- The part of a state that a log entry, a count or an event does not reach. -/
def State.unlogged (s : State) : Pins × Dict × Factory × KMap Stn × Loader × Nat × KMap Nat × Eflash :=
  (s.pins, s.dict, s.fac, s.stns, s.loader, s.uptime, s.fw.msix, { s.ef with prefetch := [], branch := [] })

/-- From `a` to `s` the module has only logged, counted and posted events. -/
structure Logged (a s : State) : Prop where
  field : ∀ f : Fld, f.key ∉ logKeys → s.rg f = a.rg f
  rest : s.unlogged = a.unlogged

namespace Logged

variable {a s t : State}

theorem refl (a : State) : Logged a a := ⟨fun _ _ => rfl, rfl⟩

/-- An update of fields that `Logged` does not speak of. -/
theorem keep (h : Logged a s) (regs : t.regs = s.regs) (rest : t.unlogged = s.unlogged) : Logged a t :=
  ⟨fun f hf => (State.rg_congr regs f).trans (h.field f hf), rest.trans h.rest⟩

theorem pins (h : Logged a s) : s.pins = a.pins := congrArg (·.1) h.rest

theorem dict (h : Logged a s) : s.dict = a.dict := congrArg (·.2.1) h.rest

theorem fac (h : Logged a s) : s.fac = a.fac := congrArg (·.2.2.1) h.rest

theorem stns (h : Logged a s) : s.stns = a.stns := congrArg (·.2.2.2.1) h.rest

theorem loader (h : Logged a s) : s.loader = a.loader := congrArg (·.2.2.2.2.1) h.rest

theorem uptime (h : Logged a s) : s.uptime = a.uptime := congrArg (·.2.2.2.2.2.1) h.rest

theorem msix (h : Logged a s) : s.fw.msix = a.fw.msix := congrArg (·.2.2.2.2.2.2.1) h.rest

theorem running (h : Logged a s) : s.ef.running = a.ef.running := congrArg (·.2.2.2.2.2.2.2.running) h.rest

theorem wr (h : Logged a s) {f : Fld} (hf : f.key ∈ logKeys) (v : Nat) : Logged a (s.wr f v) :=
  ⟨fun g hg => (State.rg_wr_other (g := g) (f := f) s (fun e => hg (e ▸ hf)) v).trans (h.field g hg), h.rest⟩

theorem st (h : Logged a s) (n : Nat) (l : List Byte) : Logged a (s.st n l) := h.keep rfl rfl

theorem raise (h : Logged a s) (v : Nat) : Logged a (s.raise v) := by
  unfold State.raise
  refine ite_of (fun _ => h) fun _ => ite_of (fun _ => ?_) fun _ => ?_
  · exact ite_of (fun _ => h) fun _ => h.keep rfl rfl
  · exact h.keep rfl rfl

theorem postEvent (h : Logged a s) (code src arg : Nat) (data : List Byte := []) (stamp : Option (List Byte) := none) :
    Logged a (s.postEvent code src arg data stamp) := by
  unfold State.postEvent
  extract_lets -merge +onlyGivenNames seq fw1 s1 lost tail e fw2 s2 s3
  have h2 : Logged a s2 := h.keep rfl rfl
  have h3 : Logged a s3 := (h2.st _ _).wr (f := HRING_EV_DB_TAIL) (by decide) _
  refine ite_of (fun _ => wr (f := HRING_EV_LOST) ?_ (by decide) _) fun _ => ite_of (fun _ => h3.raise 0) fun _ => h3
  exact h.keep rfl rfl

theorem logEntry (h : Logged a s) (code src wher arg : Nat) (status : Nat := 0) :
    Logged a (s.logEntry code src wher arg status) := by
  unfold State.logEntry
  refine ite_of (fun _ => h.keep rfl rfl) fun _ => ite_of (fun _ => ?_) fun _ => h.keep rfl rfl
  refine ite_of (fun _ => postEvent ?_ _ _ _) fun _ => h.keep rfl rfl
  exact h.keep rfl rfl

theorem count (h : Logged a s) (i : Nat) (n : Nat := 1) : Logged a (s.count i n) := by
  unfold State.count
  refine ite_of (fun _ => postEvent (logEntry ?_ _ _ _ _) _ _ _) fun _ => h.keep rfl rfl
  exact h.keep rfl rfl

theorem logPut (h : Logged a s) (e : LogEnt) : Logged a (s.logPut e) := by
  have h : Logged a s.codeWritten := h.keep rfl rfl
  unfold State.logPut
  extract_lets s1
  split
  · refine ite_of (fun _ => h.keep rfl rfl) fun _ => ite_of (fun _ => h.keep rfl rfl) fun _ => ?_
    refine wr ?_ (by decide) _
    exact h.keep rfl rfl
  · exact h.keep rfl rfl

theorem writeCheckpoint (h : Logged a s) : Logged a s.writeCheckpoint := by
  unfold State.writeCheckpoint
  exact foldl_of (P := Logged a) (h.keep rfl rfl) fun _ e k => k.logPut e

theorem drainLog (n : Nat) : ∀ {s : State}, Logged a s → Logged a (s.drainLog n) := by
  induction n with
  | zero => exact id
  | succ n ih =>
    intro s h
    unfold State.drainLog
    split
    · exact h
    · next e rest _ =>
      refine ite_of (fun _ => h) fun _ => ?_
      extract_lets -merge near s1 log s2 s3 dropped
      have h1 : Logged a s1 := ite_of (fun _ => h.writeCheckpoint) fun _ => h
      have h2 : Logged a s2 := h1.keep rfl rfl
      have h3 : Logged a s3 := h2.logPut e
      refine ih (ite_of (fun _ => h3) fun _ => logEntry ?_ _ _ _ _)
      exact h3.keep rfl rfl

theorem flushLog (h : Logged a s) : Logged a s.flushLog := (h.drainLog 257).keep rfl rfl

end Logged

end Sys2Proof.Machine
end

section
/-! SUPPORT. What the steps of a start-up leave alone: the run bit and number of the tide, the relays of the causeway and
their cause, the supplies and reset pins, the slot the lighthouse core runs from, the loader, the clock, a warm reset asked
for. -/

namespace Sys2Proof.Machine

/-- The registers that a start-up finds as the reset left them. -/
def bootFlds : List Fld := [TIDE_CTRL_RUN, TIDE_NUM, RING_CAUSEWAY_BYPASS, RING_CAUSEWAY_CAUSE]

/-- A field in the place of none of them. -/
def Fld.spared (f : Fld) : Bool := bootFlds.all fun g => g.key != f.key

/-- The supplies and resets that the pins show. -/
def Pins.rails (p : Pins) : Bool × Bool × Bool × Bool × Bool := (p.sb, p.mrst, p.v12, p.control, p.compute)

/-- The part of a state beside its registers that the steps of a start-up do not reach. -/
def State.bootView (s : State) : (Bool × Bool × Bool × Bool × Bool) × Option Nat × Loader × Nat × Bool :=
  (s.pins.rails, s.ef.running, s.loader, s.uptime, s.dict.warmAsked)

/-- `s` is `a` after steps of a start-up. -/
structure Booted (a s : State) : Prop where
  field : ∀ f ∈ bootFlds, s.rg f = a.rg f
  rest : s.bootView = a.bootView

namespace Booted

variable {a s t : State}

theorem refl (a : State) : Booted a a := ⟨fun _ _ => rfl, rfl⟩

theorem trans {a b c : State} (h : Booted a b) (k : Booted b c) : Booted a c :=
  ⟨fun f hf => (k.field f hf).trans (h.field f hf), k.rest.trans h.rest⟩

/-- An update of fields that `Booted` does not speak of. -/
theorem keep (h : Booted a s) (regs : t.regs = s.regs) (rest : t.bootView = s.bootView) : Booted a t :=
  ⟨fun f hf => (State.rg_congr regs f).trans (h.field f hf), rest.trans h.rest⟩

theorem sb (h : Booted a s) : s.pins.sb = a.pins.sb := congrArg (·.1.1) h.rest

theorem mrst (h : Booted a s) : s.pins.mrst = a.pins.mrst := congrArg (·.1.2.1) h.rest

theorem v12 (h : Booted a s) : s.pins.v12 = a.pins.v12 := congrArg (·.1.2.2.1) h.rest

theorem control (h : Booted a s) : s.pins.control = a.pins.control := congrArg (·.1.2.2.2.1) h.rest

theorem compute (h : Booted a s) : s.pins.compute = a.pins.compute := congrArg (·.1.2.2.2.2) h.rest

theorem running (h : Booted a s) : s.ef.running = a.ef.running := congrArg (·.2.1) h.rest

theorem loader (h : Booted a s) : s.loader = a.loader := congrArg (·.2.2.1) h.rest

theorem uptime (h : Booted a s) : s.uptime = a.uptime := congrArg (·.2.2.2.1) h.rest

theorem warmAsked (h : Booted a s) : s.dict.warmAsked = a.dict.warmAsked := congrArg (·.2.2.2.2) h.rest

/-- What only logs, counts and posts events keeps it. -/
theorem logged (h : Booted a s) (k : Logged s t) : Booted a t := by
  refine ⟨fun f hf => (k.field f ?_).trans (h.field f hf), Eq.trans ?_ h.rest⟩
  · revert f; decide
  · rw [State.bootView, k.pins, k.running, k.loader, k.uptime, k.dict, State.bootView]

theorem wr (h : Booted a s) {f : Fld} (hf : f.spared = true) (v : Nat) : Booted a (s.wr f v) := by
  refine ⟨fun g hg => ?_, h.rest⟩
  rw [State.rg_wr_other s (by simpa using List.all_eq_true.1 hf g hg) v, h.field g hg]

theorem wrs (h : Booted a s) (l : List (Fld × Nat))
    (hl : (l.all fun p => p.1.spared) = true := by simp only [List.all_cons, List.all_nil]; decide) :
    Booted a (s.wrs l) := by
  induction l generalizing s with
  | nil => exact h
  | cons p l ih =>
    obtain ⟨hp, hl⟩ : p.1.spared = true ∧ (l.all fun p => p.1.spared) = true := by simpa using hl
    exact ih (h.wr hp _) hl

theorem flag (h : Booted a s) {ev en : Fld} (hf : ev.spared = true) (v : Nat) : Booted a (s.flag ev en v) :=
  ite_of (fun _ => (h.wr hf 1).logged ((Logged.refl _).raise v)) fun _ => h.wr hf 1

theorem logEntry (h : Booted a s) (code src wher arg : Nat) (status : Nat := 0) :
    Booted a (s.logEntry code src wher arg status) := h.logged ((Logged.refl s).logEntry _ _ _ _ _)

/-! ## Pins and derived registers -/

theorem setAlert (h : Booted a s) (on : Bool) : Booted a (s.setAlert on) :=
  ite_of (fun _ => h) fun _ => h.keep rfl rfl

theorem alertEvent (h : Booted a s) : Booted a s.alertEvent :=
  ite_of (fun _ => h.keep rfl rfl) fun _ => h.keep rfl rfl

theorem setTherm (h : Booted a s) (on : Bool) : Booted a (s.setTherm on) := by
  refine ite_of (fun _ => h) fun _ => flag (wr ?_ rfl _) rfl _
  exact h.keep rfl rfl

theorem showEf (h : Booted a s) : Booted a s.showEf := h.wrs _

theorem rederiveGb (h : Booted a s) {t : Nat} (ht : t < 12) : Booted a (s.rederiveGb t) := by
  refine (h.wr ?_ _).wr ?_ _ <;> simp [Fld.spared, bootFlds, Fld.key, GH_TB_THIN, GH_TB_BUDGET, TIDE_CTRL_RUN, TIDE_NUM,
    RING_CAUSEWAY_BYPASS, RING_CAUSEWAY_CAUSE] <;> omega

theorem rederive (h : Booted a s) : Booted a s.rederive := by
  unfold State.rederive
  extract_lets c s1 s2 s3
  have h1 : Booted a s1 := (h.wr (by decide) _).wr (by decide) _
  have h2 : Booted a s2 := List.foldlRecOn _ _ h1 fun _ k t ht => k.rederiveGb (List.mem_range.1 ht)
  have h3 : Booted a s3 := (h2.wr (by decide) _).wr (by decide) _
  exact h3.wr (by decide) _

theorem startFailed (h : Booted a s) (ph : Nat) : Booted a (s.startFailed ph) := (h.wrs _).alertEvent

/-! ## The persistent store -/

theorem countErase (h : Booted a s) (key : Nat) : Booted a (s.countErase key) := by
  refine wr ?_ rfl _
  exact h.keep rfl rfl

theorem retireSector (h : Booted a s) (sector : Nat) : Booted a (s.retireSector false sector).2 := by
  unfold State.retireSector
  extract_lets s1
  have h1 : Booted a s1 := (h.logEntry _ _ _ _).wr (f := EF_RETIRED_DATA) rfl _
  simp only [Bool.false_eq_true, if_false]
  refine ite_of (P := fun x : Bool × State => Booted a x.2) (fun _ => h1.keep rfl rfl) fun _ => wr ?_ rfl _
  exact h1.keep rfl rfl

theorem eraseData (h : Booted a s) (i : Nat) : Booted a (s.eraseData i) :=
  ite_of (fun _ => (h.countErase _).retireSector _) fun _ => h.countErase _

theorem openSector (h : Booted a s) (second : Bool) (e : Nat) : Booted a (s.openSector second e) := by
  unfold State.openSector
  extract_lets ef s1
  have h1 : Booted a s1 := h.keep rfl rfl
  split
  · extract_lets n mv
    refine eraseData ?_ _
    exact h1.keep rfl rfl
  · exact h1

theorem placeRec (h : Booted a s) (second : Bool) (n : Nat) : Booted a (s.placeRec second n).2 := by
  unfold State.placeRec
  extract_lets cur s1 i
  have h1 : Booted a s1 := by
    refine ite_of (fun _ => h) fun _ => ?_
    split
    · exact h.openSector _ _
    · exact h
  exact h1.keep rfl rfl

theorem commitRec (h : Booted a s) (index sub : Nat) (v : List Byte) : Booted a (s.commitRec index sub v).2 := by
  unfold State.commitRec
  split
  · extract_lets s1
    have h1 : Booted a s1 := ite_of (fun _ => h) fun _ => h.logEntry _ _ _ _
    exact h1.keep rfl rfl
  · extract_lets left r x y s1 others dict s2 dict3 s3
    have hy : Booted a y.2 := (h.placeRec _ _).placeRec _ _
    clear_value y
    have h2 : Booted a s2 := hy.keep rfl rfl
    split
    · have h3 : Booted a s3 := h2.keep rfl rfl
      exact ((h3.logged ((Logged.refl _).postEvent _ _ _)).logEntry _ _ _ _).alertEvent
    · exact h2

theorem persist (h : Booted a s) (index sub : Nat) (v : List Byte) : Booted a (s.persist index sub v) := by
  have h1 : Booted a (s.setVal index sub v) := h.keep rfl rfl
  exact ite_of (fun _ => h1) fun _ => h1.commitRec _ _ _

/-! ## Error records and post-package repair -/

theorem showElog (h : Booted a s) : Booted a s.showElog := by
  unfold State.showElog
  extract_lets s1
  have h1 : Booted a s1 := h.wr rfl _
  split
  · exact h1
  · refine List.foldlRecOn _ _ h1 fun _ k w hw => k.wr ?_ _
    have := List.mem_range.1 hw
    simp [Fld.spared, bootFlds, Fld.key, DRAM_ELOG_DATA, TIDE_CTRL_RUN, TIDE_NUM, RING_CAUSEWAY_BYPASS, RING_CAUSEWAY_CAUSE]
    omega

theorem elogPush (h : Booted a s) (typ port : Nat) (d : DAddr) : Booted a (s.elogPush typ port d) := by
  unfold State.elogPush
  extract_lets f s1 r
  have h1 : Booted a s1 := by
    refine ite_of (P := fun x : Nat × State => Booted a x.2) (fun _ => ?_) fun _ => h
    exact h.keep rfl rfl
  refine showElog ?_
  exact h1.keep rfl rfl

theorem elogAt (h : Booted a s) (typ port : Nat) (d : DAddr) : Booted a (s.elogAt typ port d) := by
  unfold State.elogAt
  extract_lets same
  split
  · refine ite_of (fun _ => showElog ?_) fun _ => ite_of (fun _ => h.wr rfl _) fun _ => h.elogPush _ _ _
    exact h.keep rfl rfl
  · exact h.elogPush _ _ _

theorem pprRun (h : Booted a s) (bad : List Nat) : Booted a (s.pprRun bad) := by
  unfold State.pprRun
  extract_lets l r
  have hr : Booted a r.2.2 := by
    refine foldl_of (P := fun x : List (List Byte) × List (Nat × Nat × Nat) × State => Booted a x.2.2) h fun x e k => ?_
    refine ite_of (P := fun x : List (List Byte) × List (Nat × Nat × Nat) × State => Booted a x.2.2) (fun _ => k) fun _ => ?_
    exact ite_of (P := fun x : List (List Byte) × List (Nat × Nat × Nat) × State => Booted a x.2.2)
      (fun _ => k.elogAt _ _ _) fun _ => k.elogAt _ _ _
  exact ite_of (fun _ => hr) fun _ => hr.persist _ _ _

end Booted

end Sys2Proof.Machine
end

section
/-! SUPPORT. The start-up of the control die from a slot that passes its check (R485), and of the compute die (R17, R338). -/

namespace Sys2Proof.Machine

variable {a s t : State}

/-! ## The compute die -/

/-- The compute die has power, and the host's link is up. -/
def State.powered (s : State) : State := { s with pins := { s.pins with compute := true, pwrGood := true, pcie := true } }

theorem Booted.powered (h : Booted a s) : Booted a.powered s.powered := by
  refine ⟨h.field, ?_⟩
  have e := h.rest
  simp only [State.bootView, Pins.rails, Prod.mk.injEq] at e
  simp [State.bootView, Pins.rails, State.powered, e]

theorem Booted.startCompute (h : Booted a s.powered) (fast : Bool) (train : Nat) (bad : List Nat) :
    Booted a (s.startCompute fast train bad) := by
  unfold State.startCompute
  extract_lets pins s1 fast s2 s3 s4 s5 dram s6
  have h3 : Booted a s3 := (Booted.wrs h _).rederive.showEf
  have h4 : Booted a s4 := (h3.wrs _).elogAt _ _ _
  have h5 : Booted a s5 := ite_of (fun _ => h3.pprRun bad) fun _ => h3
  have h6 : Booted a s6 := h5.keep rfl rfl
  exact ite_of (fun _ => (h4.logEntry _ _ _ _).startFailed 0) fun _ => h6.wrs _

/-- With every channel trained the compute die comes to HOST_LOAD. -/
theorem State.startCompute_ready (s : State) (fast : Bool) (bad : List Nat) :
    (s.startCompute fast 24 bad).rg GC_STATUS_PHASE = 1 ∧ (s.startCompute fast 24 bad).on DRAM_STATUS_TRAINED = true := by
  have last : ∃ t : State, s.startCompute fast 24 bad = (t.wr DRAM_STATUS_TRAINED 1).wr GC_STATUS_PHASE 1 := ⟨_, rfl⟩
  obtain ⟨t, e⟩ := last
  rw [e, State.on, State.rg_wr_other _ (f := GC_STATUS_PHASE) (g := DRAM_STATUS_TRAINED) (by decide), State.rg_wr_same,
    State.rg_wr_same]
  decide

/-! ## Reads of the flash that meet no error past a single bit -/

/-- A line without error, or with one that the code corrects, is delivered. -/
theorem State.efLine_delivered {l : EfLine} (hl : l = .clean ∨ l = .single) (h : Booted a s) (code : Bool) :
    (s.efLine code l).1 = true ∧ Booted a (s.efLine code l).2 := by
  rcases hl with rfl | rfl
  · exact ⟨rfl, h⟩
  · exact ⟨rfl, h.wr (f := EF_CORR) rfl _⟩

/-- A read of such a line ends in no access fault. -/
theorem State.efRead_delivered {r : EfRead} (hr : r.line = .clean ∨ r.line = .single) (h : Booted a s) :
    (s.efRead r).1 = false ∧ Booted a (s.efRead r).2 := by
  unfold State.efRead
  split
  case h_1 l taken _ =>
    extract_lets x
    have hx : x.1 = true ∧ Booted a x.2 := ite_of (P := fun x : Bool × State => x.1 = true ∧ Booted a x.2)
      (fun _ => ⟨rfl, h⟩) fun _ => State.efLine_delivered hr h true
    clear_value x
    rw [if_pos hx.1]
    exact ⟨rfl, hx.2.keep rfl rfl⟩
  case h_2 l _ =>
    refine ite_of (P := fun x : Bool × State => x.1 = false ∧ Booted a x.2) (fun _ => ⟨rfl, h⟩) fun _ => ?_
    extract_lets x pf
    have hx : x.1 = true ∧ Booted a x.2 := State.efLine_delivered hr h true
    clear_value x
    rw [if_pos hx.1]
    exact ⟨rfl, hx.2.keep rfl rfl⟩
  case h_3 index sub second _ =>
    obtain ⟨delivered, booted⟩ := State.efLine_delivered hr h false
    exact ⟨rfl, ite_of (fun _ => booted) fun lost => absurd delivered lost⟩
  case h_4 second _ =>
    obtain ⟨delivered, booted⟩ := State.efLine_delivered hr h true
    exact ⟨rfl, ite_of (fun _ => booted) fun lost => absurd delivered lost⟩
  case h_5 code _ => exact ⟨rfl, (State.efLine_delivered hr h code).2⟩

/-- Nor does any of several such reads. -/
theorem State.efReads_delivered {reads : List EfRead} (hr : ∀ r ∈ reads, r.line = .clean ∨ r.line = .single)
    (h : Booted a s) : (s.efReads reads).1 = false ∧ Booted a (s.efReads reads).2 := by
  induction reads generalizing s with
  | nil => exact ⟨rfl, h⟩
  | cons r reads ih =>
    obtain ⟨fault, booted⟩ := State.efRead_delivered (hr r List.mem_cons_self) h
    rw [State.efReads, if_neg (by rw [fault]; decide)]
    exact ih (fun x hx => hr x (List.mem_cons_of_mem _ hx)) booted

/-! ## The boot ROM -/

/-- What the boot ROM goes by: the fuses, the slots, the option record, a trial that was started, a lowering that began. -/
def State.bootSource (s : State) : Factory × Slot × Slot × OptRec × Bool × Bool :=
  (s.fac, s.ef.slotA, s.ef.slotB, s.ef.opt, s.ef.tried, s.ef.lowering)

/-- The slot in force passes its check, its trial, if any, has not been started, no protection lowering has begun. -/
def State.bootable (s : State) : Prop :=
  s.ef.lowering = false ∧ s.slotStatus s.ef.opt.slot = stOk ∧ ¬ (s.ef.opt.state = 1 ∧ s.ef.tried = true)

theorem State.bootable_congr (e : t.bootSource = s.bootSource) (h : s.bootable) : t.bootable := by
  simp only [State.bootSource, Prod.mk.injEq] at e
  obtain ⟨fac, slotA, slotB, opt, tried, lowering⟩ := e
  unfold State.bootable State.slotStatus Eflash.slot at *
  rw [fac, slotA, slotB, opt, tried, lowering]
  exact h

theorem Logged.bootSource (h : Logged s t) : t.bootSource = s.bootSource := by
  have flash : _ = _ := congrArg (·.2.2.2.2.2.2.2) h.rest
  simp only [State.unlogged, Eflash.mk.injEq] at flash
  simp [State.bootSource, h.fac, flash]

/-- The boot ROM starts the slot in force. -/
theorem State.bootRom_bootable (h : s.bootable) : ∃ tried, s.bootRom =
    { s with ef := { s.ef with running := some s.ef.opt.slot, tried := tried } } := by
  obtain ⟨-, passes, fresh⟩ := h
  unfold State.bootRom
  extract_lets k other lost start
  have kept : ¬ lost = true := by simpa [lost] using fresh
  rw [if_pos ⟨kept, passes⟩]
  exact ⟨_, rfl⟩

/-! ## The control die -/

/-- The lighthouse core runs from slot `k`. -/
def State.runs (s : State) (k : Nat) : State := { s with ef := { s.ef with running := some k } }

theorem Booted.runs (h : Booted a s) (k : Nat) (tried : Bool) :
    Booted (a.runs k) { s with ef := { s.ef with running := some k, tried := tried } } := by
  refine ⟨h.field, ?_⟩
  have e := h.rest
  simp only [State.bootView, Prod.mk.injEq] at e
  simp [State.bootView, State.runs, e]

/-- The control die runs the slot in force, and the compute die has power when 12 V is there. -/
def State.started (s : State) : State :=
  { s with pins := { s.pins with control := true, compute := s.pins.v12 }
           ef := { s.ef with running := some s.ef.opt.slot } }

theorem Booted.restoreLife (h : Booted a s) : Booted a s.restoreLife := by
  unfold State.restoreLife
  extract_lets l
  split
  · exact h
  · exact h.keep rfl rfl

theorem Booted.loadControl (h : Booted a s) : Booted a s.loadControl := by
  unfold State.loadControl
  extract_lets n dict s1
  exact wrs (s := s1) (h.keep rfl rfl) _

/-- Until the boot ROM runs, a start-up touches nothing that the boot ROM goes by. -/
theorem State.bootSource_setTherm_setAlert (s : State) (x y : Bool) :
    ((s.setAlert x).setTherm y).bootSource = s.bootSource := by
  have alert : (s.setAlert x).bootSource = s.bootSource := ite_of (P := fun t => State.bootSource t = _) (fun _ => rfl) fun _ => rfl
  refine Eq.trans (ite_of (P := fun t => State.bootSource t = (s.setAlert x).bootSource) (fun _ => rfl) fun _ => ?_) alert
  exact ite_of (P := fun t => State.bootSource t = _) (fun _ => ((Logged.refl _).raise 12).bootSource) fun _ => rfl

/-- The start-up of the control die. -/
theorem State.startControl_booted (h : s.bootable) (restore : Bool) (train : Nat) (bad : List Nat) {reads : List EfRead}
    (hr : ∀ r ∈ reads, r.line = .clean ∨ r.line = .single) :
    Booted s.started (s.startControl restore train bad reads) ∧
      (s.pins.v12 = true → train = 24 → (s.startControl restore train bad reads).rg GC_STATUS_PHASE = 1) := by
  unfold State.startControl
  extract_lets pins s1 s2 erased flash opt s3 s4 r s5 s6 s7 s8
  have h2 : Booted s1 s2 := ((Booted.refl s1).setAlert false).setTherm false
  have source : s2.bootSource = s.bootSource := s1.bootSource_setTherm_setAlert false false
  have bootable : s2.bootable := State.bootable_congr source h
  have slot : s2.ef.opt.slot = s.ef.opt.slot := congrArg (·.2.2.2.1.slot) source
  have h3 : s3 = s2 := if_neg (by rw [bootable.1]; decide)
  obtain ⟨tried, rom⟩ := State.bootRom_bootable bootable
  have h4 : Booted (s1.runs s.ef.opt.slot) s4 := by
    show Booted _ s3.bootRom
    rw [h3, rom, slot]
    exact h2.runs _ _
  clear_value s4
  obtain ⟨delivered, hr⟩ : r.1 = false ∧ Booted (s1.runs s.ef.opt.slot) r.2 := State.efReads_delivered hr h4
  clear_value r
  have h5 : Booted (s1.runs s.ef.opt.slot) s5 := by
    refine ite_of (fun fault => ?_) fun _ => hr
    rw [delivered] at fault
    exact absurd fault.1 (by decide)
  have h6 : Booted (s1.runs s.ef.opt.slot) s6 := h5.keep rfl rfl
  have running : s6.ef.running = some s.ef.opt.slot := h6.running
  have h7 : Booted (s1.runs s.ef.opt.slot) s7 := by
    refine ite_of (fun _ => Booted.restoreLife ?_) fun _ => h6
    exact h6.keep rfl rfl
  have h8 : Booted (s1.runs s.ef.opt.slot) s8 := h7.loadControl.showEf
  have v12 : s8.pins.v12 = s.pins.v12 := h8.v12
  clear_value s8
  rw [if_neg (by simp [running])]
  by_cases on : s8.pins.v12 = true
  · rw [if_pos on]
    have view : (s1.runs s.ef.opt.slot).powered.bootView = s.started.bootView := by
      simp [State.bootView, Pins.rails, State.powered, State.started, State.runs, s1, pins, ← v12, on]
    have base : Booted s.started (s1.runs s.ef.opt.slot).powered := (Booted.refl _).keep rfl view
    refine ⟨base.trans (h8.powered.startCompute _ _ _), fun _ trained => ?_⟩
    rw [trained]
    exact (s8.startCompute_ready false bad).1
  · rw [if_neg on]
    have view : (s1.runs s.ef.opt.slot).bootView = s.started.bootView := by
      simp [State.bootView, Pins.rails, State.started, State.runs, s1, pins, ← v12, on]
    have base : Booted s.started (s1.runs s.ef.opt.slot) := (Booted.refl _).keep rfl view
    exact ⟨base.trans h8, fun present => absurd (v12.trans present) on⟩

end Sys2Proof.Machine
end

section
/-! SUPPORT. What the losses of a reset leave in the registers, and what each reset leads to (R13, R15, R425, R529, R530,
R540). -/

namespace Sys2Proof.Machine

variable {s t : State}

/-! ## Losses -/

/-- A field of a state whose register table is the part of another's that `kept` names. -/
theorem State.rg_filter {kept : Nat → Bool} (h : t.regs = s.regs.filter fun e => kept e.1) (f : Fld) :
    t.rg f = if kept f.key then s.rg f else f.rst % 2 ^ f.w := by
  rw [State.rg, h, KMap.get_filter]
  split <;> rfl

theorem State.rg_computeLost (s : State) (seg : Nat) (f : Fld) :
    (s.computeLost seg).rg f = if keptCompute f.key then s.rg f else f.rst % 2 ^ f.w := State.rg_filter rfl f

theorem State.rg_controlLost {f : Fld} (h : keptModule f.key = false) (s : State) :
    s.controlLost.rg f = f.rst % 2 ^ f.w := by
  rw [State.rg_filter (s := s.computeLost 0) (kept := keptModule) rfl, h, if_neg (by decide)]

/-- The first of several fields written, when none of the others is in its place. -/
theorem State.rg_wrs_head (s : State) {f : Fld} (v : Nat) (l : List (Fld × Nat)) (h : ∀ p ∈ l, f.key ≠ p.1.key) :
    (s.wrs ((f, v) :: l)).rg f = v % 2 ^ f.w := by
  rw [State.wrs_cons, State.rg_wrs_other _ _ h, State.rg_wr_same]

/-- The relays bypass the module, and nothing but registers and pulses changes. -/
theorem State.toBypass_bypasses (s : State) (cause : Nat) :
    (s.toBypass cause).rg RING_CAUSEWAY_BYPASS = 1 ∧ (s.toBypass cause).unlogged = s.unlogged := by
  unfold State.toBypass
  split
  case isTrue on => exact ⟨by simpa [State.on] using on, rfl⟩
  case isFalse => exact ⟨(State.rg_wrs_head s 1 _ (by simp; decide)), rfl⟩

/-! ## A start-up of both dies -/

/-- A start-up of the control die that is then counted and logged (R512, R515). -/
def State.bootLogged (s : State) (n row train : Nat) (bad : List Nat) (reads : List EfRead) : State :=
  let t := s.startControl true train bad reads
  if t.ef.running.isNone then t else (t.count n).logEntry 0x0009 5 0xFFFF row

theorem State.bootLogged_booted (h : s.bootable) (n row train : Nat) (bad : List Nat) {reads : List EfRead}
    (hr : ∀ r ∈ reads, r.line = .clean ∨ r.line = .single) :
    Booted s.started (s.bootLogged n row train bad reads) ∧
      (s.pins.v12 = true → train = 24 → (s.bootLogged n row train bad reads).rg GC_STATUS_PHASE = 1) := by
  obtain ⟨booted, ready⟩ := State.startControl_booted h true train bad hr
  have running := booted.running
  unfold State.bootLogged
  extract_lets t
  have logged : Logged t ((t.count n).logEntry 0x0009 5 0xFFFF row) := ((Logged.refl t).count n).logEntry _ _ _ _
  rw [if_neg (by simp [t, running, State.started])]
  exact ⟨booted.logged logged, fun v12 trained => (logged.field _ (by decide)).trans (ready v12 trained)⟩

/-- The state in which a power-on finds the control die: all but what persists is lost, the relays are in bypass. -/
def State.atPowerOn (s : State) : State :=
  let s := s.flushLog.controlLost
  let s : State := { s with uptime := 0, pins := { s.pins with sb := true, mrst := false } }
  (s.emit (.relay true)).wrs [(RING_CAUSEWAY_BYPASS, 1), (RING_CAUSEWAY_CAUSE, 3)]

theorem State.powerOn_eq (s : State) (train : Nat) (bad : List Nat) (reads : List EfRead) :
    s.powerOn train bad reads = s.atPowerOn.bootLogged 1 0 train bad reads := rfl

theorem State.bootSource_controlLost (s : State) : s.controlLost.bootSource = s.bootSource := rfl

theorem State.bootSource_atPowerOn (s : State) : s.atPowerOn.bootSource = s.bootSource :=
  (State.bootSource_controlLost s.flushLog).trans ((Logged.refl s).flushLog).bootSource

theorem State.atPowerOn_v12 (s : State) : s.atPowerOn.pins.v12 = s.pins.v12 := by
  rw [← ((Logged.refl s).flushLog).pins]
  rfl

theorem State.atPowerOn_relays (s : State) :
    s.atPowerOn.rg RING_CAUSEWAY_BYPASS = 1 ∧ s.atPowerOn.rg RING_CAUSEWAY_CAUSE = 3 :=
  ⟨State.rg_wrs_head _ 1 [(RING_CAUSEWAY_CAUSE, 3)] (by decide),
    (State.rg_wr_same _ RING_CAUSEWAY_CAUSE 3).trans (by decide)⟩

theorem State.atPowerOn_lost {f : Fld} (h : keptModule f.key = false)
    (hf : ∀ g ∈ [RING_CAUSEWAY_BYPASS, RING_CAUSEWAY_CAUSE], f.key ≠ g.key) (s : State) :
    s.atPowerOn.rg f = f.rst % 2 ^ f.w := by
  rw [State.atPowerOn, State.rg_wrs_other _ _ (by simpa using hf), State.emit_rg]
  exact State.rg_controlLost h s.flushLog

/-- POWER_ON_RESET (R540). -/
theorem State.powerOn_spec (h : s.bootable) (train : Nat) (bad : List Nat) {reads : List EfRead}
    (hr : ∀ r ∈ reads, r.line = .clean ∨ r.line = .single) : let u := s.powerOn train bad reads
    u.uptime = 0 ∧ u.pins.sb ∧ u.pins.control ∧ ¬ u.pins.mrst ∧ u.on RING_CAUSEWAY_BYPASS ∧ u.rg RING_CAUSEWAY_CAUSE = 3 ∧
      u.ef.running = some s.ef.opt.slot ∧ u.loader.sets = [] ∧ u.on TIDE_CTRL_RUN = false ∧ u.rg TIDE_NUM = 0 ∧
      (s.pins.v12 → train = 24 → u.pins.compute ∧ u.rg GC_STATUS_PHASE = 1) := by
  intro u
  have source := s.bootSource_atPowerOn
  obtain ⟨booted, ready⟩ : Booted s.atPowerOn.started u ∧
      (s.atPowerOn.pins.v12 = true → train = 24 → u.rg GC_STATUS_PHASE = 1) :=
    State.bootLogged_booted (State.bootable_congr source h) 1 0 train bad hr
  rw [s.atPowerOn_v12] at ready
  have bypass : u.rg RING_CAUSEWAY_BYPASS = 1 := (booted.field _ (by decide)).trans s.atPowerOn_relays.1
  have cause : u.rg RING_CAUSEWAY_CAUSE = 3 := (booted.field _ (by decide)).trans s.atPowerOn_relays.2
  have run : u.rg TIDE_CTRL_RUN = 0 :=
    (booted.field _ (by decide)).trans (State.atPowerOn_lost (f := TIDE_CTRL_RUN) (by decide) (by decide) s)
  have num : u.rg TIDE_NUM = 0 :=
    (booted.field _ (by decide)).trans (State.atPowerOn_lost (f := TIDE_NUM) (by decide) (by decide) s)
  have slot : s.atPowerOn.ef.opt.slot = s.ef.opt.slot := congrArg (·.2.2.2.1.slot) source
  refine ⟨booted.uptime, booted.sb, booted.control, ?_, ?_, cause, booted.running.trans (congrArg some slot),
    congrArg Loader.sets booted.loader, ?_, num, ?_⟩
  · simp [booted.mrst, State.started, State.atPowerOn]
  · simp [State.on, bypass]
  · simp [State.on, run]
  · exact fun v12 trained => ⟨booted.compute.trans (s.atPowerOn_v12.trans v12), ready v12 trained⟩

/-- The carrier releases MRST_N. -/
def State.released (s : State) : State := { s with pins := { s.pins with mrst := false } }

/-- MRST_N_RELEASE (R13, R540). -/
theorem State.moduleStart_spec (h : s.bootable) (sb : s.pins.sb) (mrst : s.pins.mrst) (train : Nat) (bad : List Nat)
    {reads : List EfRead} (hr : ∀ r ∈ reads, r.line = .clean ∨ r.line = .single) :
    let u := s.moduleStart train bad reads
    ¬ u.pins.mrst ∧ u.pins.control ∧ u.ef.running = some s.ef.opt.slot ∧
      (s.pins.v12 → train = 24 → u.pins.compute ∧ u.rg GC_STATUS_PHASE = 1) := by
  intro u
  have eq : u = s.released.bootLogged 2 1 train bad reads := if_neg (by simp [sb, mrst])
  obtain ⟨booted, ready⟩ := State.bootLogged_booted (s := s.released) h 2 1 train bad hr
  rw [← eq] at booted ready
  refine ⟨?_, booted.control, booted.running, fun v12 trained => ⟨booted.compute.trans v12, ready v12 trained⟩⟩
  simp [booted.mrst, State.started, State.released]

/-! ## A module reset, held -/

/-- Both dies held in reset by MRST_N, after their losses. -/
def State.heldInReset (s : State) : State :=
  let s := (s.toBypass 2).flushLog.controlLost
  { s with pins := { s.pins with mrst := true, control := false, compute := false, pwrGood := false } }

/-- MODULE_RESET (R13, R425). -/
theorem State.moduleReset_spec (sb : s.pins.sb) (hp : s.rg PWR_STATUS_STATE ≠ 5) : let u := s.moduleReset
    u.pins.mrst ∧ ¬ u.pins.control ∧ ¬ u.pins.compute ∧ u.on RING_CAUSEWAY_BYPASS ∧ u.rg RING_CAUSEWAY_CAUSE = 2 ∧
      u.rg RING_CAUSEWAY_CAP_OK = s.rg RING_CAUSEWAY_CAP_OK ∧ u.loader.sets = [] ∧ u.rg TIDE_NUM = 0 ∧
      u.dict.precs = s.dict.precs := by
  intro u
  have eq : u = (s.heldInReset.setAlert false).wrs [(RING_CAUSEWAY_BYPASS, 1), (RING_CAUSEWAY_CAUSE, 2),
      (RING_CAUSEWAY_CAP_OK, s.rg RING_CAUSEWAY_CAP_OK)] := if_neg (by simp [sb, hp])
  have booted : Booted s.heldInReset (s.heldInReset.setAlert false) := (Booted.refl _).setAlert false
  have num : u.rg TIDE_NUM = 0 := by
    rw [eq, State.rg_wrs_other _ _ (by simp; decide), booted.field _ (by decide)]
    exact State.rg_controlLost (f := TIDE_NUM) (by decide) _
  have bypass : u.rg RING_CAUSEWAY_BYPASS = 1 := by rw [eq]; exact State.rg_wrs_head _ 1 _ (by simp; decide)
  have cause : u.rg RING_CAUSEWAY_CAUSE = 2 := by
    rw [eq, State.wrs_cons]; exact State.rg_wrs_head _ 2 _ (by simp; decide)
  have cap : u.rg RING_CAUSEWAY_CAP_OK = s.rg RING_CAUSEWAY_CAP_OK := by
    rw [eq]; exact (State.rg_wr_same _ _ _).trans (Nat.mod_mod _ _)
  have dict : (s.toBypass 2).flushLog.dict = s.dict :=
    ((Logged.refl _).flushLog).dict.trans (congrArg (·.2.1) (s.toBypass_bypasses 2).2)
  have precs : u.dict.precs = s.dict.precs := by
    rw [eq, State.wrs_dict, ← dict]
    exact ite_of (P := fun t : State => t.dict.precs = s.heldInReset.dict.precs) (fun _ => rfl) fun _ => rfl
  have pins : u.pins.rails = s.heldInReset.pins.rails := by rw [eq, State.wrs_pins]; exact congrArg (·.1) booted.rest
  have loader : u.loader = {} := by rw [eq, State.wrs_loader]; exact booted.loader
  simp only [Pins.rails, Prod.mk.injEq, State.heldInReset] at pins
  obtain ⟨-, mrst, -, control, compute⟩ := pins
  refine ⟨mrst, ?_, ?_, ?_, cause, cap, congrArg Loader.sets loader, num, precs⟩
  · simp [control]
  · simp [compute]
  · simp [State.on, bypass]

/-! ## Warm and compute-die resets -/

/-- A reset of the compute die up to its loss: a checkpoint before a warm reset, the relays in bypass, the count and the log
entry. -/
def State.resetNoted (s : State) (row : Nat) : State :=
  (((if row = 2 then s.writeCheckpoint else s).toBypass 4).count 3).logEntry 0x0009 5 0xFFFF row

theorem State.resetCompute_eq (s : State) (row train : Nat) :
    s.resetCompute row train = ((s.resetNoted row).computeLost 0).startCompute true train [] := rfl

theorem State.resetNoted_bypasses (s : State) (row : Nat) :
    (s.resetNoted row).rg RING_CAUSEWAY_BYPASS = 1 ∧ (s.resetNoted row).unlogged = s.unlogged := by
  have checkpoint : Logged s (if row = 2 then s.writeCheckpoint else s) :=
    ite_of (fun _ => (Logged.refl s).writeCheckpoint) fun _ => Logged.refl s
  obtain ⟨bypass, rest⟩ := State.toBypass_bypasses (if row = 2 then s.writeCheckpoint else s) 4
  have logged := ((Logged.refl (State.toBypass (if row = 2 then s.writeCheckpoint else s) 4)).count 3).logEntry 0x0009 5 0xFFFF row
  exact ⟨(logged.field _ (by decide)).trans bypass, logged.rest.trans (rest.trans checkpoint.rest)⟩

/-- A reset of the compute die with every channel trained (R529). -/
theorem State.resetCompute_spec (s : State) (row : Nat) : let u := s.resetCompute row 24
    u.rg GC_STATUS_PHASE = 1 ∧ u.on DRAM_STATUS_TRAINED ∧ u.loader.sets = [] ∧ u.rg TIDE_NUM = 0 ∧ u.on RING_CAUSEWAY_BYPASS ∧
      u.pins.compute ∧ u.pins.control = s.pins.control ∧ u.ef.running = s.ef.running ∧
      u.dict.warmAsked = s.dict.warmAsked := by
  intro u
  obtain ⟨bypassed, unlogged⟩ := s.resetNoted_bypasses row
  have eq : u = ((s.resetNoted row).computeLost 0).startCompute true 24 [] := s.resetCompute_eq row 24
  generalize s.resetNoted row = w at bypassed unlogged eq
  have booted := Booted.startCompute (s := w.computeLost 0) (Booted.refl _) true 24 []
  obtain ⟨phase, trained⟩ := (w.computeLost 0).startCompute_ready true []
  rw [← eq] at phase trained booted
  have fields (f : Fld) (hf : f ∈ bootFlds) : u.rg f = (w.computeLost 0).rg f := booted.field f hf
  have bypass : u.rg RING_CAUSEWAY_BYPASS = 1 := by
    rw [fields _ (by decide), State.rg_computeLost, if_pos (by decide), bypassed]
  have num : u.rg TIDE_NUM = 0 := by
    rw [fields _ (by decide), State.rg_computeLost, if_neg (by decide)]
    decide
  refine ⟨phase, trained, congrArg Loader.sets booted.loader, num, ?_, booted.compute, ?_, ?_, ?_⟩
  · simp [State.on, bypass]
  · exact booted.control.trans (congrArg (·.1.control) unlogged)
  · exact booted.running.trans (congrArg (·.2.2.2.2.2.2.2.running) unlogged)
  · exact booted.warmAsked.trans (congrArg (·.2.1.warmAsked) unlogged)

/-- A reset that may start and finds the flash idle is not deferred (R528). -/
theorem State.askReset_idle (may : s.mayReset = true) (idle : s.efBusy = false) (row train : Nat) :
    s.askReset row train = s.resetCompute row train := by
  rw [State.askReset, if_neg (by simp [may]), if_neg (by simp [idle])]

/-! ## A function-level reset -/

/-- The registers of the queue pairs show how many completions each holds (R464). -/
def State.showRetained (s : State) : State :=
  (List.range 8).foldl (fun (s : State) q =>
    let x := s.fw.queues.get q {}
    s.wr (HRING_Q_STAT_RETAINED q) (x.held.length + x.reserved)) s

theorem State.showRetained_frame (s : State) : (∀ f : Fld, (∀ q < 8, f.key ≠ (HRING_Q_STAT_RETAINED q).key) →
    s.showRetained.rg f = s.rg f) ∧ s.showRetained.unlogged = s.unlogged := by
  refine List.foldlRecOn (motive := fun t : State => (∀ f : Fld, (∀ q < 8, f.key ≠ (HRING_Q_STAT_RETAINED q).key) →
    t.rg f = s.rg f) ∧ t.unlogged = s.unlogged) _ _ ⟨fun _ _ => rfl, rfl⟩ fun t ht q hq => ?_
  obtain ⟨field, rest⟩ := ht
  exact ⟨fun f hf => (State.rg_wr_other t (hf q (List.mem_range.1 hq)) _).trans (field f hf), rest⟩

/-- The function state is lost (R15). -/
def State.functionLost (s : State) : State :=
  { s with
    regs := s.regs.filter fun e => !functionState e.1
    fw := { s.fw with msix := [], pba := 0, bars := [], negOk := false, recOk := false, evLost := false }
    bus := { latch := s.bus.latch.filter fun e => decide (e.1 % 8 ≠ 0), held := s.bus.held.filter fun e => decide (e.1 % 8 ≠ 0) }
    dict := { s.dict with queue := s.dict.queue.filter fun q => q.iface != 2 } }

/-- A function-level reset in SERVICE leads to RECOVERY (R458). -/
def State.serviceToRecovery (s : State) : State := if s.rg FW_STATE_MODE = 1 then s.wr FW_STATE_MODE 3 else s

theorem State.functionReset_eq (hc : s.pins.compute = true) :
    s.functionReset = s.functionLost.showRetained.serviceToRecovery.showEf.logEntry 0x0009 5 0xFFFF 4 :=
  if_neg (by simp [hc])

theorem State.serviceToRecovery_mode (s : State) :
    s.serviceToRecovery.rg FW_STATE_MODE = if s.rg FW_STATE_MODE = 1 then 3 else s.rg FW_STATE_MODE := by
  unfold State.serviceToRecovery
  split
  · exact (State.rg_wr_same _ _ _).trans (by decide)
  · rfl

theorem State.serviceToRecovery_frame (s : State) : (∀ f : Fld, f.key ≠ FW_STATE_MODE.key → s.serviceToRecovery.rg f = s.rg f) ∧
    s.serviceToRecovery.unlogged = s.unlogged := by
  unfold State.serviceToRecovery
  split
  · exact ⟨fun _ hf => State.rg_wr_other _ hf _, rfl⟩
  · exact ⟨fun _ _ => rfl, rfl⟩

/-- The registers that follow the flash (R496). -/
def efFlds : List Fld := [EF_STATUS_CODE_BUSY, EF_STATUS_DATA_BUSY, EF_STATUS_SLOT, EF_STATUS_TRIAL, EF_STATUS_CODE_SPARE,
  EF_STATUS_DATA_SPARE, MBX_STATUS_PROT]

theorem State.rg_showEf {f : Fld} (h : ∀ g ∈ efFlds, f.key ≠ g.key) (s : State) : s.showEf.rg f = s.rg f :=
  State.rg_wrs_other _ _ (by simpa [efFlds] using h)

theorem State.unlogged_showEf (s : State) : s.showEf.unlogged = s.unlogged := rfl

/-- The enable of a queue pair is function state, in the place of no register that a function-level reset writes. -/
theorem HRING_Q_CTRL_EN_lost : ∀ q < 8, functionState (HRING_Q_CTRL_EN q).key = true ∧ (HRING_Q_CTRL_EN q).key ∉ logKeys ∧
    (∀ g ∈ FW_STATE_MODE :: efFlds, (HRING_Q_CTRL_EN q).key ≠ g.key) ∧
    ∀ p < 8, (HRING_Q_CTRL_EN q).key ≠ (HRING_Q_STAT_RETAINED p).key := by decide

/-- FUNCTION_LEVEL_RESET (R15, R458, R464, R530). -/
theorem State.functionReset_spec (hc : s.pins.compute) : let u := s.functionReset
    u.fw.msix = [] ∧ (∀ q < 8, u.on (HRING_Q_CTRL_EN q) = false) ∧
      u.rg FW_STATE_MODE = (if s.rg FW_STATE_MODE = 1 then 3 else s.rg FW_STATE_MODE) ∧ u.loader = s.loader ∧
      u.stns = s.stns ∧ u.pins = s.pins := by
  intro u
  have logged := (Logged.refl s.functionLost.showRetained.serviceToRecovery.showEf).logEntry 0x0009 5 0xFFFF 4
  rw [← State.functionReset_eq hc] at logged
  change Logged _ u at logged
  clear_value u
  obtain ⟨retained, restRetained⟩ := s.functionLost.showRetained_frame
  obtain ⟨moded, restModed⟩ := s.functionLost.showRetained.serviceToRecovery_frame
  have rest : u.unlogged = s.functionLost.unlogged :=
    logged.rest.trans ((State.unlogged_showEf _).trans (restModed.trans restRetained))
  have lost (f : Fld) : s.functionLost.rg f = if !functionState f.key then s.rg f else f.rst % 2 ^ f.w :=
    State.rg_filter (kept := fun k => !functionState k) rfl f
  have mode : u.rg FW_STATE_MODE = if s.rg FW_STATE_MODE = 1 then 3 else s.rg FW_STATE_MODE := by
    have kept : s.functionLost.showRetained.rg FW_STATE_MODE = s.rg FW_STATE_MODE := by
      rw [retained _ (by decide), lost, if_pos (by decide)]
    rw [logged.field _ (by decide), State.rg_showEf (by decide), State.serviceToRecovery_mode, kept]
  have closed (q : Nat) (hq : q < 8) : u.rg (HRING_Q_CTRL_EN q) = 0 := by
    obtain ⟨gone, unlogged, unwritten, unretained⟩ := HRING_Q_CTRL_EN_lost q hq
    obtain ⟨unmoded, unshown⟩ := List.forall_mem_cons.1 unwritten
    rw [logged.field _ unlogged, State.rg_showEf unshown, moded _ unmoded, retained _ unretained, lost, gone, if_neg (by decide)]
    rfl
  refine ⟨congrArg (·.2.2.2.2.2.2.1) rest, fun q hq => ?_, mode, congrArg (·.2.2.2.2.1) rest, congrArg (·.2.2.2.1) rest,
    congrArg (·.1) rest⟩
  simp [State.on, closed q hq]

end Sys2Proof.Machine
end

section
/-! CERTIFICATE. Each reset leads to the start-up that its rule gives (O50). -/

namespace Sys2Proof.Machine

/-- The word 0x800000A5 written to `GC.RESET` asks for a warm reset (R529). -/
theorem exec_warmReset_register (s : State) (train : Fin 25) :
    exec (.warmReset false 0x800000A5 train) s = .next (s.askReset 2 train.val) :=
  congrArg Host.Outcome.next ((if_neg (by decide)).trans (if_pos (by decide)))

/-- The warm reset asked for through object 0x2001 has been taken. -/
def State.warmTaken (s : State) : State := { s with dict := { s.dict with warmAsked := false } }

/-- A warm reset asked for through object 0x2001 is asked for once (R451, R529). -/
theorem exec_warmReset_object {s : State} (asked : s.dict.warmAsked = true) (w : BitVec 32) (train : Fin 25) :
    exec (.warmReset true w train) s = .next (s.warmTaken.askReset 2 train.val) :=
  congrArg Host.Outcome.next ((if_pos rfl).trans (if_pos asked))

/-- Settles O50: each reset by the lemma of its operation. -/
theorem resetsStartTheModule : Obligations.ResetsStartTheModule := by
  intro s bad
  refine ⟨fun lowering passes trial => ?_, fun sb deep => ?_, fun deep => ?_, fun may idle => ?_, fun compute => ?_⟩
  · have bootable : s.bootable := ⟨lowering, passes, trial⟩
    exact ⟨fun train _ hr => ⟨_, rfl, State.powerOn_spec bootable train.val bad hr⟩,
      fun train _ hr sb mrst => ⟨_, rfl, State.moduleStart_spec bootable sb mrst train.val bad hr⟩⟩
  · exact ⟨_, rfl, State.moduleReset_spec sb deep⟩
  · exact congrArg Host.Outcome.next (if_pos (.inr deep))
  · refine ⟨fun c hc => ?_, fun asked => ?_⟩
    · have either : ∃ row, exec c s = .next (s.resetCompute row 24) := by
        rcases List.mem_cons.1 hc with rfl | hc
        · exact ⟨3, congrArg Host.Outcome.next (State.askReset_idle may idle 3 24)⟩
        · obtain rfl := List.mem_singleton.1 hc
          exact ⟨2, (exec_warmReset_register s 24).trans (congrArg _ (State.askReset_idle may idle 2 24))⟩
      obtain ⟨row, hrow⟩ := either
      obtain ⟨phase, trained, sets, num, bypass, on, control, running, -⟩ := s.resetCompute_spec row
      exact ⟨_, hrow, phase, trained, sets, num, bypass, on, control, running⟩
    · obtain ⟨phase, -, sets, -, -, -, -, -, warmAsked⟩ := s.warmTaken.resetCompute_spec 2
      exact ⟨_, (exec_warmReset_object asked 0 24).trans (congrArg _ (State.askReset_idle (s := s.warmTaken) may idle 2 24)),
        phase, sets, warmAsked⟩
  · exact ⟨_, rfl, State.functionReset_spec compute⟩

end Sys2Proof.Machine
end

section
/-! SUPPORT. The generator at a tide boundary: what it leaves in its registers when a tide begins and when it stops. -/

namespace Sys2Proof.Machine

variable (s : State)

/-! ## The generator stops -/

/-- The registers that follow the settings, in the order in which they are derived. -/
def rederivedFlds : List Fld := [TIDE_BUDGET_B, TIDE_TMIN_T_MIN] ++
  ((List.range 12).flatMap fun t => [GH_TB_THIN t, GH_TB_BUDGET t]) ++ [GH_SHARE_BYTES, TIER_WLIMIT, RING_STATUS_CAP]

/-- The gatehouse budgets of the terraces in `l` are derived from two registers of each. -/
theorem State.foldl_rederiveGb_frame (l : List Nat) :
    (∀ f : Fld, (∀ g ∈ l.flatMap fun t => [GH_TB_THIN t, GH_TB_BUDGET t], f.key ≠ g.key) →
      (l.foldl State.rederiveGb s).rg f = s.rg f) ∧ (l.foldl State.rederiveGb s).tide = s.tide := by
  induction l generalizing s with
  | nil => exact ⟨fun _ _ => rfl, rfl⟩
  | cons t l ih =>
    obtain ⟨field, tide⟩ := ih (s.rederiveGb t)
    refine ⟨fun f hf => ?_, tide⟩
    simp only [List.flatMap_cons, List.forall_mem_append, List.forall_mem_cons] at hf
    obtain ⟨⟨thin, budget, -⟩, others⟩ := hf
    rw [List.foldl_cons, field f others, State.rederiveGb, State.rg_wr_other _ budget, State.rg_wr_other _ thin]

/-- Deriving writes those registers and no others. -/
theorem State.rederive_frame : (∀ f : Fld, (∀ g ∈ rederivedFlds, f.key ≠ g.key) → s.rederive.rg f = s.rg f) ∧
    s.rederive.tide = s.tide := by
  unfold State.rederive
  extract_lets c s1 s2 s3
  obtain ⟨field, tide⟩ := s1.foldl_rederiveGb_frame (List.range 12)
  refine ⟨fun f hf => ?_, tide⟩
  simp only [rederivedFlds, List.forall_mem_append, List.forall_mem_cons] at hf
  obtain ⟨⟨⟨b, tmin, -⟩, gates⟩, share, wlimit, cap, -⟩ := hf
  rw [State.rg_wr_other _ cap, State.rg_wr_other _ wlimit, State.rg_wr_other _ share, field f gates,
    State.rg_wr_other _ tmin, State.rg_wr_other _ b]

/-- Settings that take effect leave LOCK as it is, and tides as they run. -/
theorem State.takeCfg_lock_running (c : TideCfg) :
    (s.takeCfg c).rg TIDE_STATUS_LOCK = s.rg TIDE_STATUS_LOCK ∧ (s.takeCfg c).tide.running = s.tide.running := by
  refine ⟨((State.rederive_frame _).1 _ (by decide)).trans (State.rg_wrs_other s _ (by simp; decide)), ?_⟩
  rw [State.takeCfg, (State.rederive_frame _).2]
  rfl

/-- A stopped generator is unlocked and runs no tide (R56). -/
theorem State.generatorStop_stopped : s.generatorStop.tide.running = false ∧ s.generatorStop.rg TIDE_STATUS_LOCK = 0 :=
  ⟨(State.takeCfg_lock_running _ _).2, (State.takeCfg_lock_running _ _).1.trans (State.rg_wrs_head _ 0 _ (by simp; decide))⟩

/-! ## A tide begins -/

/-- The fields that `State.advanceTide` writes, with what it writes. -/
def State.tideFields : List (Fld × Nat) :=
  [(TIDE_NUM, (s.nextNumber s.boundaryTime).1), (TIDE_BTIME, s.boundaryTime.toNat),
    (TIDE_STATUS_ALIGNED, b2n (s.nextNumber s.boundaryTime).2), (TIDE_STATUS_REPHASING, 0)]

/-- Device time runs on to the boundary that is due, unless it has passed it. -/
def State.reachBoundary : State := if (s.rg TIME_NOW : Int) < s.boundaryTime then s.runTo s.boundaryTime.toNat else s

theorem State.rg_runTo {f : Fld} (h : f.key ≠ TIME_NOW.key) (t : Nat) : (s.runTo t).rg f = s.rg f := by
  unfold State.runTo
  exact ite_of (P := fun u : State => u.rg f = s.rg f) (fun _ => State.rg_wr_other s h t) fun _ => State.rg_wr_other s h t

theorem State.rg_reachBoundary {f : Fld} (h : f.key ≠ TIME_NOW.key) : s.reachBoundary.rg f = s.rg f :=
  ite_of (P := fun u : State => u.rg f = s.rg f) (fun _ => s.rg_runTo h _) fun _ => rfl

/-- In registers the generator's part of a boundary is device time and the fields of the new tide. -/
theorem State.rg_advanceTide (f : Fld) : s.advanceTide.rg f = (s.reachBoundary.wrs s.tideFields).rg f := by
  refine State.rg_congr ?_ f
  unfold State.advanceTide
  exact ite_of (P := fun u : State => u.regs = (s.reachBoundary.wrs s.tideFields).regs) (fun _ => rfl) fun _ => rfl

theorem State.advanceTide_TIDE_NUM : s.advanceTide.rg TIDE_NUM = (s.nextNumber s.boundaryTime).1 % 2 ^ 48 :=
  (s.rg_advanceTide _).trans (State.rg_wrs_head _ _ _ (by simp; decide))

theorem State.advanceTide_TIDE_BTIME : s.advanceTide.rg TIDE_BTIME = s.boundaryTime.toNat % 2 ^ 64 := by
  rw [State.rg_advanceTide, State.tideFields, State.wrs_cons]
  exact State.rg_wrs_head _ _ _ (by simp; decide)

theorem State.advanceTide_ALIGNED : s.advanceTide.rg TIDE_STATUS_ALIGNED = b2n (s.nextNumber s.boundaryTime).2 := by
  rw [State.rg_advanceTide, State.tideFields, State.wrs_cons, State.wrs_cons, State.rg_wrs_head _ _ _ (by simp; decide)]
  cases (s.nextNumber s.boundaryTime).2 <;> rfl

theorem State.advanceTide_running : s.advanceTide.tide.running = true := by
  unfold State.advanceTide
  exact ite_of (P := fun u : State => u.tide.running = true) (fun _ => rfl) fun _ => rfl

/-- TICK_OUT pulses at the boundary when it is enabled (R38). -/
theorem State.advanceTide_tick (tick : s.on TIDE_CTRL_TICK_EN = true) : s.advanceTide.out.head? = some .tick := by
  unfold State.advanceTide
  extract_lets bt nn k up s1 s2 src s3
  have unwritten : s3.rg TIDE_CTRL_TICK_EN = s.rg TIDE_CTRL_TICK_EN :=
    (State.rg_wrs_other s1 s.tideFields (by simp [State.tideFields]; decide)).trans (s.rg_reachBoundary (by decide))
  have enabled : s3.on TIDE_CTRL_TICK_EN = true := by rwa [State.on, unwritten]
  rw [if_pos enabled]
  rfl

variable {s}

/-- Inside a run, and where the new tide starts afresh without device time to align it, the number goes up by one (R44). -/
theorem State.nextNumber_numbered (numbered : s.tide.numbered = true) (bt : Int)
    (unaligned : s.tide.rephase = true ∨ s.tide.applied = true → s.on TIME_SYNC_VALID = false) :
    s.nextNumber bt = (s.rg TIDE_NUM + 1, if s.tide.rephase ∨ s.tide.applied then false else s.on TIDE_STATUS_ALIGNED) := by
  unfold State.nextNumber
  rw [if_neg (by simp [numbered])]
  split
  case isTrue afresh => rw [if_neg (by simp [unaligned afresh])]
  case isFalse => rfl

/-- The first tide of a run without device time to align it has the number 0 (R44). -/
theorem State.nextNumber_first (first : s.tide.numbered = false) (invalid : s.on TIME_SYNC_VALID = false) (bt : Int) :
    s.nextNumber bt = (0, false) := by
  rw [State.nextNumber, if_pos (by simp [first]), if_neg (by simp [invalid])]

/-! ## The boundary -/

/-- The end of a tide boundary: the tides go on, or stop when RUN is 0 (R56). -/
def State.goOnOrStop (s : State) : State := if s.on TIDE_CTRL_RUN then s else s.stopTides

theorem State.goOnOrStop_spec (u : State) : (u.on TIDE_CTRL_RUN → u.goOnOrStop = u) ∧
    (¬ u.on TIDE_CTRL_RUN → u.goOnOrStop = u.stopTides ∧ u.goOnOrStop.tide.running = false ∧
      u.goOnOrStop.rg TIDE_STATUS_LOCK = 0) := by
  refine ⟨fun run => if_pos run, fun stop => ?_⟩
  have stops : u.goOnOrStop = u.stopTides := if_neg stop
  rw [stops]
  exact ⟨rfl, State.generatorStop_stopped _⟩

/-- At a boundary that ends a tide: its commit window has decided it, the number advances, it commits, settings and sets
change, the next tide begins (R20). -/
theorem State.tideBoundary_running (due : s.boundaryDue = true) (running : s.tide.running = true) :
    s.tideBoundary = ((s.commitWindow.audClose.advanceTide.commitTide s.commitWindow.audClose
      (s.rg TIDE_NUM)).changeSets.beginTide s.commitWindow.audClose true).goOnOrStop := by
  unfold State.tideBoundary
  rw [if_neg (by simp [due]), running]
  rfl

/-- At the boundary that begins the first tide nothing commits. -/
theorem State.tideBoundary_first (due : s.boundaryDue = true) (first : s.tide.running = false) :
    s.tideBoundary = ((s.advanceTide.applyDue s).changeSets.beginTide s false).goOnOrStop := by
  unfold State.tideBoundary
  rw [if_neg (by simp [due]), first]
  rfl

end Sys2Proof.Machine
end

section
/-! CERTIFICATE. A due boundary commits the tide and advances its number; no other boundary falls (O6). -/

namespace Sys2Proof.Machine

/-- Settles O6: the boundary by its three cases, the number by those of R44. -/
theorem boundariesAdvanceTheTide : Obligations.BoundariesAdvanceTheTide := by
  refine ⟨fun s => ⟨fun due running => ⟨_, rfl, ?_⟩, fun due first => ⟨_, rfl, ?_⟩, fun notDue => ?_⟩, fun s small => ?_⟩
  · rw [State.tideBoundary_running due running]
    exact State.goOnOrStop_spec _
  · rw [State.tideBoundary_first due (by simpa using first)]
    exact State.goOnOrStop_spec _
  · exact congrArg Host.Outcome.next (if_pos notDue)
  · have next : (s.rg TIDE_NUM + 1) % 2 ^ 48 = s.rg TIDE_NUM + 1 := Nat.mod_eq_of_lt (by omega)
    simp only [State.on, State.advanceTide_TIDE_NUM, State.advanceTide_ALIGNED]
    refine ⟨fun numbered steady unapplied => ?_, fun first invalid => ?_, fun numbered afresh invalid => ?_,
      s.advanceTide_running, s.advanceTide_TIDE_BTIME, s.advanceTide_tick⟩
    · rw [State.nextNumber_numbered numbered _ (by simp [steady, unapplied]), if_neg (by simp [steady, unapplied])]
      exact ⟨next, rfl⟩
    · rw [State.nextNumber_first (by simpa using first) (by simpa [State.on] using invalid)]
      decide
    · rw [State.nextNumber_numbered numbered _ fun _ => by simpa [State.on] using invalid, if_pos afresh]
      exact ⟨next, by simp [b2n]⟩

end Sys2Proof.Machine
end

/-! # Proofs: stations and array (O14)

The fetch of a tile's operands, the tile that enters the array, its checks, and the ways it leaves. -/

section
/-! SUPPORT. What the fetch of a tile's operands leaves alone: the memories and the stations (R66, R119, R125). -/

namespace Sys2Proof.Machine

/-- From `a` to `s` only registers and the marks of words in error have changed. -/
structure Fetched (a s : State) : Prop where
  mem : s.mem = a.mem
  stns : s.stns = a.stns

namespace Fetched

variable {a s : State}

theorem refl (a : State) : Fetched a a := ⟨rfl, rfl⟩

/-- An update of neither. -/
theorem keep {t : State} (h : Fetched a s) (mem : t.mem = s.mem) (stns : t.stns = s.stns) : Fetched a t :=
  ⟨mem.trans h.mem, stns.trans h.stns⟩

/-- The state that an operation with a result leaves. -/
theorem of_eq {α : Type} {x : α × State} {y : α} {t : State} (h : Fetched a x.2) (e : x = (y, t)) : Fetched a t := by
  subst e; exact h

theorem stn (h : Fetched a s) (t p : Nat) : s.stn t p = a.stn t p := by rw [State.stn, h.stns, State.stn]

theorem wrs (h : Fetched a s) (l : List (Fld × Nat)) : Fetched a (s.wrs l) := h.keep (s.wrs_mem l) (s.wrs_stns l)

theorem bump (h : Fetched a s) (f : Fld) (n : Nat := 1) : Fetched a (s.bump f n) := h.keep rfl rfl

theorem firstLog (h : Fetched a s) (valid multi : Fld) (l : List (Fld × Nat)) : Fetched a (s.firstLog valid multi l) :=
  ite_of (fun _ => h.keep rfl rfl) fun _ => (h.wrs [(valid, 1)]).wrs l

theorem eccStn (h : Fetched a s) (t p m row : Nat) (scrub : Bool) (l : List (Nat × Nat)) :
    Fetched a (s.eccStn t p m row scrub l) :=
  foldl_of (P := Fetched a) h fun _ _ k => (k.bump _).firstLog _ _ _

theorem eccTs (h : Fetched a s) (t row : Nat) (scrub : Bool) (l : List (Nat × Nat)) : Fetched a (s.eccTs t row scrub l) :=
  foldl_of (P := Fetched a) h fun _ _ k => (k.bump _).firstLog _ _ _

theorem readRow (h : Fetched a s) (t p m row : Nat) : Fetched a (s.readRow t p m row).2 :=
  (h.eccStn t p m row false _).keep rfl rfl

theorem readTs (h : Fetched a s) (t row : Nat) : Fetched a (s.readTs t row).2 := (h.eccTs t row false _).keep rfl rfl

theorem readOff (h : Fetched a s) (t p : Nat) (d : List Nat) (o : Nat) : Fetched a (s.readOff t p d o).2 := by
  unfold State.readOff
  split
  · exact h
  · next r _ =>
    refine ite_of (P := fun x : RdRes × State => Fetched a x.2)
      (fun _ => ite_of (P := fun x : RdRes × State => Fetched a x.2) (fun _ => ?_) fun _ => h.bump _)
      fun _ => ite_of (P := fun x : RdRes × State => Fetched a x.2) (fun _ => h.keep rfl rfl) fun _ => ?_
    · split <;> exact (h.readTs t r.row).of_eq ‹_›
    · split <;> exact (h.readRow r.t r.p r.mem r.row).of_eq ‹_›

theorem readOffs (h : Fetched a s) (t p : Nat) (d : List Nat) (o n : Nat) : Fetched a (s.readOffs t p d o n).2 := by
  induction n generalizing s o with
  | zero => exact h
  | succ n ih =>
    have first := h.readOff t p d o
    unfold State.readOffs
    split
    · have rest := ih (first.of_eq ‹_›) (o + 1)
      split
      · exact rest.of_eq ‹_›
      · exact rest
    · exact first

theorem gather (h : Fetched a s) (t p : Nat) (d : List Nat) (l : List Nat) (m : KMap (List Byte)) :
    Fetched a (s.gather t p d l m).2.2 := by
  induction l generalizing s m with
  | nil => exact h
  | cons o l ih =>
    have first := h.readOff t p d o
    unfold State.gather
    refine ite_of (P := fun x : RdRes × KMap (List Byte) × State => Fetched a x.2.2) (fun _ => ih h m) fun _ => ?_
    split
    · exact ih (first.of_eq ‹_›) _
    · exact first.of_eq ‹_›

end Fetched

/-- A fetch that has got its operands has only fetched. -/
def Feed.Fetches (a : State) : Feed → Prop
  | .ok _ _ _ _ s => Fetched a s
  | .stop _ => True

theorem State.feed_fetches (s : State) (t p cyc : Nat) (r : Run) : (s.feed t p cyc r).Fetches s := by
  unfold State.feed
  extract_lets aOff wOff pOff k nb mm win w addrs offs ra ok
  have west : Fetched s ra.2.2 := by
    unfold ra
    refine ite_of (P := fun x : RdRes × List (List Nat) × State => Fetched s x.2.2) (fun _ => ?_) fun _ => ?_
    · exact (Fetched.refl s).gather t p r.ad offs []
    · split <;> exact ((Fetched.refl s).readOffs t p r.ad aOff r.aRows).of_eq ‹_›
  have fetched (act wl pl) {u : State} (h : Fetched s u) : (ok act wl pl u).Fetches s :=
    ite_of (P := Fetched s) (fun _ => h.bump _ _) fun _ => h
  clear_value ra ok
  split
  · extract_lets
    split <;> trivial
  · trivial
  · trivial
  · have north := Fetched.readOffs west t p r.wd wOff r.wRows
    split
    · trivial
    · trivial
    · trivial
    · have north := north.of_eq ‹_›
      refine ite_of (P := Feed.Fetches s) (fun _ => ?_) fun _ => fetched _ _ _ north
      split
      · exact fetched _ _ _ ((north.readOffs t p r.pd pOff 8).of_eq ‹_›)
      · trivial
      · trivial
      · trivial

/-- Operands that are there were fetched without a change to memory or to a station. -/
theorem State.feed_fetched {s u : State} {t p cyc : Nat} {r : Run} {act wl pl offs}
    (h : s.feed t p cyc r = .ok act wl pl offs u) : Fetched s u := by
  have := s.feed_fetches t p cyc r
  rwa [h] at this

end Sys2Proof.Machine
end

section
/-! SUPPORT. The tile that enters the array with its operands: the registers that show it, its record, and its run after it
(R66, R88, R92, R98, R163). -/

namespace Sys2Proof.Machine

/-- A run of another format than TABLE4, or with its table, reads no table row (R92). -/
theorem State.withTable_loaded {r : Run} (h : dFmt r.wd = 4 → r.tab.isSome) (s : State) (t p : Nat) :
    s.withTable t p r = (some r, s) :=
  if_neg fun ⟨fmt, missing⟩ => by simpa [Option.isNone_iff_eq_none.1 missing] using h fmt

/-- The lowest bit of a field, within its word, is part of its place. -/
theorem Fld.lo_of_key {f g : Fld} (same : f.key = g.key) : f.lo % 32 = g.lo % 32 := by
  unfold Fld.key at same
  omega

theorem Fld.key_ne_of_lo {f g : Fld} (h : f.lo % 32 ≠ g.lo % 32) : f.key ≠ g.key := fun same => h (Fld.lo_of_key same)

/-- The registers in which the array shows the tile that enters it (R88). -/
def State.showTile (s : State) (t p : Nat) (r : Run) : State :=
  s.wrs [(ARRAY_STATE_BUSY t p, 1), (ARRAY_STATE_SET t p, 1 - s.rg (ARRAY_STATE_SET t p)),
    (ARRAY_STATE_FORM t p, tForm r.word), (ARRAY_STATE_GROUP t p, tGrp r.word), (ARRAY_STATE_WFMT t p, dFmt r.wd),
    (ARRAY_STATE_AFMT t p, dFmt r.ad)]

theorem State.showTile_busy (s : State) (t p : Nat) (r : Run) : (s.showTile t p r).on (ARRAY_STATE_BUSY t p) = true := by
  rw [State.on, State.showTile, State.rg_wrs_head]
  · rfl
  · simp only [List.forall_mem_cons]
    have apart (f : Fld) (h : 31 ≠ f.lo % 32) : (ARRAY_STATE_BUSY t p).key ≠ f.key := Fld.key_ne_of_lo h
    exact ⟨apart _ (by decide : 31 ≠ 30), apart _ (by decide : 31 ≠ 28), apart _ (by decide : 31 ≠ 26),
      apart _ (by decide : 31 ≠ 4), apart _ (by decide : 31 ≠ 0), List.forall_mem_nil _⟩

theorem Fetched.showTile {a s : State} (h : Fetched a s) (t p : Nat) (r : Run) : Fetched a (s.showTile t p r) := h.wrs _

/-- A BF16 tile has no scales and no group checks: with its operands there it enters the array. -/
theorem State.tileIssue_bf16 {s u : State} {t p cyc : Nat} {r : Run} {act wl pl offs}
    (issuing : (s.stn t p).issuing = some r) (room : (s.stn t p).tiles.length < 2)
    (runs : s.rg (SEQ_STATE_STATE t p) = 2) (bf16 : tGrp r.word = 0) (table : dFmt r.wd = 4 → r.tab.isSome)
    (float : intMode (dFmt r.ad) (dFmt r.wd) = false) (operands : s.feed t p cyc r = .ok act wl pl offs u)
    (up : List Upset) :
    ∃ ops, s.tileIssue t p cyc up =
      (u.showTile t p r).enterTile t p r ops [] pl offs (32 * tKb r.word) (formM (tForm r.word)) := by
  have bf : (tGrp r.word == 0) = true := by simp [bf16]
  have free : ¬ (2 ≤ (s.stn t p).tiles.length ∨
      ¬ (s.rg (SEQ_STATE_STATE t p) = 2 ∨ s.rg (SEQ_STATE_STATE t p) = 3)) := by omega
  simp only [State.tileIssue, issuing, if_neg free, State.withTable_loaded table, operands, bf, float,
    Bool.false_eq_true, if_true, if_false]
  exact ⟨_, if_pos rfl⟩

/-- Strings of one length in a row. -/
theorem length_flatten_of_forall {α : Type} {n : Nat} {l : List (List α)} (h : ∀ b ∈ l, b.length = n) :
    l.flatten.length = l.length * n := by
  induction l with
  | nil => rw [List.flatten_nil, List.length_nil, List.length_nil, Nat.zero_mul]
  | cons b l ih =>
    rw [List.flatten_cons, List.length_append, h b List.mem_cons_self, ih fun c hc => h c (List.mem_cons_of_mem b hc),
      List.length_cons, Nat.succ_mul, Nat.add_comm]

theorem TileOps.cells_length (x : TileOps) (bf : Bool) (mm : Nat) (pre : List (List Fp)) (pts : List (List (List Fp))) :
    (x.cells bf mm pre pts).length = 1024 := by
  rw [TileOps.cells, length_flatten_of_forall (n := 32)]
  · rw [List.length_map, List.length_range]
  · simp only [List.mem_map]
    rintro _ ⟨i, -, rfl⟩
    rw [List.length_map, List.length_range]

/-- The tile that enters is the youngest; its run goes on with the next tile, or gives way to the queued run (R163). -/
theorem State.enterTile_spec {r : Run} (bf16 : tGrp r.word = 0) (s : State) (t p : Nat) (ops pts pl offs k mm) :
    let u := s.enterTile t p r ops pts pl offs k mm
    (∃ x, (u.stn t p).tiles = (s.stn t p).tiles ++ [x] ∧ x.t = r.next ∧ x.run.word = r.word ∧ x.n = k ∧
      x.cells.length = 1024) ∧
    (tT r.word ≤ r.next + 1 → (u.stn t p).issuing = (s.stn t p).queued ∧ (u.stn t p).queued = none) ∧
    (r.next + 1 < tT r.word → ∃ q, (u.stn t p).issuing = some q ∧ q.next = r.next + 1 ∧ q.word = r.word) := by
  intro u
  have entered : u.stn t p = _ := State.stn_onStn ..
  rw [entered]
  refine ⟨?_, fun last => ?_, fun more => ?_⟩
  · simp only [apply_ite Stn.tiles, ite_self]
    refine ⟨_, rfl, rfl, rfl, ?_, TileOps.cells_length ..⟩
    simp [bf16]
  · rw [if_pos last]
    exact ⟨rfl, rfl⟩
  · rw [if_neg (Nat.not_le.2 more)]
    exact ⟨_, rfl, rfl, rfl⟩

end Sys2Proof.Machine
end

section
/-! SUPPORT. The tile that leaves the array: the releases of its run, its way out, the checks and the lanes (R68, R81, R88,
R164, R198). -/

namespace Sys2Proof.Machine

/-! ## Releases -/

/-- A station without the record of the signals it has performed and those that a replay suppresses. -/
def Stn.unsigned (v : Stn) : Stn := { v with sigs := [], suppress := [] }

/-- The bits of a slot's status word that a release writes: WWAIT, RELEASED, PRESENT. -/
def releaseBits : List Nat := [27, 29, 31]

/-- From `a` to `s` station `(t, p)` has only released slots: of the registers those of a slot's status have changed, of
the station its record of signals. -/
structure Released (t p : Nat) (a s : State) : Prop where
  mem : s.mem = a.mem
  stn : (s.stn t p).unsigned = (a.stn t p).unsigned
  field : ∀ f : Fld, f.lo % 32 ∉ releaseBits → s.rg f = a.rg f

namespace Released

variable {a s : State} {t p : Nat}

theorem refl (t p : Nat) (a : State) : Released t p a a := ⟨rfl, rfl, fun _ _ => rfl⟩

theorem vregs (h : Released t p a s) : (s.stn t p).vregs = (a.stn t p).vregs :=
  (congrArg Stn.vregs h.stn :)

theorem wr (h : Released t p a s) {f : Fld} (hf : f.lo % 32 ∈ releaseBits) (v : Nat) : Released t p a (s.wr f v) :=
  ⟨h.mem, h.stn, fun g hg =>
    (s.rg_wr_other (f := f) (Fld.key_ne_of_lo fun same => hg (same ▸ hf)) v).trans (h.field g hg)⟩

theorem clearPresent (h : Released t p a s) (u q k : Nat) : Released t p a (s.clearPresent u q k) :=
  (h.wr (f := SLOT_STAT_PRESENT u q k) (by decide : 31 ∈ releaseBits) 0).wr
    (f := SLOT_STAT_WWAIT u q k) (by decide : 27 ∈ releaseBits) 0

theorem release (h : Released t p a s) (u q k : Nat) (byRel : Bool) : Released t p a (s.release u q k byRel) := by
  have counted (n : Nat) : Released t p a (s.wr (SLOT_STAT_RELEASED u q k) n) :=
    h.wr (f := SLOT_STAT_RELEASED u q k) (by decide : 29 ∈ releaseBits) n
  refine ite_of (fun _ => h) fun _ => ite_of (fun _ => ?_) fun _ => ?_
  · exact ite_of (fun _ => (counted _).clearPresent u q k) fun _ => counted _
  · exact ite_of (fun _ => h.clearPresent u q k) fun _ => h

theorem signal (h : Released t p a s) (g : Sig) : Released t p a (s.signal t p g).2 := by
  have unsigned {f : Stn → Stn} (hf : (f (s.stn t p)).unsigned = (s.stn t p).unsigned) : Released t p a (s.onStn t p f) :=
    ⟨h.mem, by rw [State.stn_onStn, hf, h.stn], h.field⟩
  unfold State.signal
  extract_lets v same
  refine ite_of (P := fun x : Bool × State => Released t p a x.2) (fun _ => snd_mk ?_) fun _ => snd_mk ?_ <;>
    exact unsigned rfl

theorem sigRelease (h : Released t p a s) (side slot run : Nat) (tile : Option Nat) (byRel : Bool) :
    Released t p a (s.sigRelease t p side slot run tile byRel) := by
  have signalled := h.signal { set := false, side := side, slot := slot, run := run, tile := tile }
  unfold State.sigRelease
  extract_lets r
  split
  · exact signalled.release _ _ _ _
  · exact signalled

theorem runReleases (h : Released t p a s) (r : Run) (tile : Nat) : Released t p a (s.runReleases t p r tile) :=
  foldl_of (P := Released t p a) h fun _ _ k => k.sigRelease _ _ _ _ _

end Released

/-! ## The way out -/

/-- A field reads within its width. -/
theorem State.rg_lt (s : State) (f : Fld) : s.rg f < 2 ^ f.w := Nat.mod_lt _ (Nat.two_pow_pos _)

/-- From `s` to `u` the oldest tile `x` of the array has gone: the others stay, the array is busy while there are any, and a
tile drained through a MODE 1 descriptor is counted (R88). -/
structure TileGone (t p : Nat) (x : TileRec) (rest : List TileRec) (s u : State) : Prop where
  mem : u.mem = s.mem
  tiles : (u.stn t p).tiles = rest
  vregs : (u.stn t p).vregs = (s.stn t p).vregs
  busy : u.rg (ARRAY_STATE_BUSY t p) = b2n !rest.isEmpty
  count : u.rg (ARRAY_TILES t p) = (s.rg (ARRAY_TILES t p) + b2n (tDst x.run.word != 3 && dMode x.run.od)) % 2 ^ 64

/-- A tile that drains through a MODE 1 descriptor is counted. -/
def State.countTile (s : State) (t p : Nat) (r : Run) : State :=
  if tDst r.word ≠ 3 ∧ dMode r.od then s.bump (ARRAY_TILES t p) else s

theorem State.countTile_mem (s : State) (t p : Nat) (r : Run) : (s.countTile t p r).mem = s.mem :=
  ite_of (P := fun u : State => u.mem = s.mem) (fun _ => rfl) fun _ => rfl

theorem State.countTile_stn (s : State) (t p : Nat) (r : Run) : (s.countTile t p r).stn t p = s.stn t p :=
  ite_of (P := fun u : State => u.stn t p = s.stn t p) (fun _ => rfl) fun _ => rfl

theorem State.countTile_count (s : State) (t p : Nat) (r : Run) :
    (s.countTile t p r).rg (ARRAY_TILES t p) = (s.rg (ARRAY_TILES t p) + b2n (tDst r.word != 3 && dMode r.od)) % 2 ^ 64 := by
  unfold State.countTile
  split
  case isTrue counts => rw [State.bump, State.rg_wr_same]; simp [counts, b2n, ARRAY_TILES]
  case isFalse uncounted =>
    rw [show (tDst r.word != 3 && dMode r.od) = false by simpa using uncounted]
    exact (Nat.mod_eq_of_lt (s.rg_lt _)).symm

theorem tiles_ne_busy (t p : Nat) : (ARRAY_TILES t p).key ≠ (ARRAY_STATE_BUSY t p).key :=
  Fld.key_ne_of_lo (by decide : 0 ≠ 31)

theorem tiles_ne_winBusy (t p : Nat) : (ARRAY_TILES t p).key ≠ (VEC_STATE_WIN_BUSY t p).key :=
  Fld.key_ne_of_lo (by decide : 0 ≠ 29)

theorem busy_ne_winBusy (t p : Nat) : (ARRAY_STATE_BUSY t p).key ≠ (VEC_STATE_WIN_BUSY t p).key :=
  Fld.key_ne_of_lo (by decide : 31 ≠ 29)

theorem State.tileOut_gone (s : State) (t p : Nat) (x : TileRec) (rest : List TileRec) :
    TileGone t p x rest s (s.tileOut t p x rest) := by
  unfold State.tileOut
  extract_lets r released counted ck passed shown
  have h : Released t p s released := ite_of (fun _ => (Released.refl t p s).runReleases r x.t) fun _ => .refl t p s
  have gone : TileGone t p x rest s shown := by
    have passing : passed.stn t p = _ := State.stn_onStn counted t p _
    refine ⟨(State.countTile_mem ..).trans h.mem, congrArg Stn.tiles passing, ?_, ?_, ?_⟩
    · calc (shown.stn t p).vregs = (counted.stn t p).vregs := (congrArg Stn.vregs passing :)
        _ = (released.stn t p).vregs := congrArg Stn.vregs (State.countTile_stn ..)
        _ = (s.stn t p).vregs := h.vregs
    · rw [State.rg_wr_same]
      cases rest <;> rfl
    · calc shown.rg (ARRAY_TILES t p) = counted.rg (ARRAY_TILES t p) :=
            State.rg_wr_other _ (tiles_ne_busy t p) _
        _ = _ := State.countTile_count ..
        _ = _ := by rw [h.field (ARRAY_TILES t p) (by decide : 0 ∉ releaseBits)]
  clear_value shown
  refine ite_of (fun _ => gone) fun _ => ⟨gone.mem, gone.tiles, gone.vregs, ?_, ?_⟩
  · exact (State.rg_wr_other _ (busy_ne_winBusy t p) _).trans gone.busy
  · exact (State.rg_wr_other _ (tiles_ne_winBusy t p) _).trans gone.count

end Sys2Proof.Machine
end

section
/-! SUPPORT. The checks of the oldest tile, its bytes, and the lanes that take them (R70, R81, R198). -/

namespace Sys2Proof.Machine

/-! ## Bytes -/

theorem length_natLE (n v : Nat) : (natLE n v).length = n := by
  induction n generalizing v with
  | zero => rfl
  | succ n ih => rw [natLE, List.length_cons, ih]

theorem fitTo_of_length {n : Nat} {l : List Byte} (h : l.length = n) : fitTo n l = l := by
  simp [fitTo, ← h, zeros]

/-- Block `i` of a string cut into blocks of `n`. -/
theorem chunks_getD {α : Type} (n k : Nat) (l : List α) {i : Nat} (h : i < k) :
    (chunks n k l).getD i [] = slice l (n * i) n := by
  induction k generalizing l i with
  | zero => exact absurd h (Nat.not_lt_zero i)
  | succ k ih =>
    cases i with
    | zero => rfl
    | succ i =>
      rw [chunks, List.getD_cons_succ, ih _ (Nat.lt_of_succ_lt_succ h), slice, slice, List.drop_drop, Nat.mul_succ,
        Nat.add_comm]

/-- A part of a mapped range. -/
theorem slice_map_range {α : Type} (f : Nat → α) {n o k : Nat} (h : o + k ≤ n) :
    slice ((List.range n).map f) o k = (List.range k).map fun j => f (o + j) := by
  refine List.ext_getElem (by simp [slice]; omega) fun i _ _ => by simp [slice]

/-! ## Checks -/

/-- A tile whose row checks pass, and that has no checksum row, fails no check when nothing strikes it (R81). -/
theorem TileRec.failed_none {x : TileRec} (noColumns : x.colSum = [])
    (rows : ∀ i < 32, drainOk ((List.range 32).map fun j => decW (x.cells.getD (32 * i + j) 0)) (x.rowSum.getD i fzero)
      (x.rowMag.getD i fzero) x.n = true) :
    x.failed [] ((List.range 1024).map fun k => x.cells.getD k 0) = ([], []) := by
  unfold TileRec.failed
  extract_lets vals row col adj
  rw [Prod.mk.injEq]
  refine ⟨List.filter_eq_nil_iff.2 fun i hi => ?_, if_pos (by rw [noColumns]; rfl)⟩
  have inside : 32 * i + 32 ≤ 1024 := by have := List.mem_range.1 hi; omega
  have data : row i = (List.range 32).map fun j => decW (x.cells.getD (32 * i + j) 0) := by
    simp only [row, vals, List.map_map, slice_map_range _ inside, Function.comp_def]
  have unstruck : adj (x.rowSum.getD i fzero) (hit [] 0 i 32) = x.rowSum.getD i fzero := if_pos rfl
  rw [data, unstruck, rows i (List.mem_range.1 hi)]
  decide

/-! ## Lanes -/

/-- The `n` vector registers from V8 on take the strings `f` (R198). -/
def State.fillLanes (s : State) (t p n : Nat) (f : Nat → List Byte) : State :=
  (List.range n).foldl (fun s i => s.setVreg t p (8 + i) (f i)) s

theorem State.fillLanes_succ (s : State) (t p n : Nat) (f : Nat → List Byte) :
    s.fillLanes t p (n + 1) f = (s.fillLanes t p n f).setVreg t p (8 + n) (f n) := by
  simp [State.fillLanes, List.range_succ, List.foldl_append]

theorem State.fillLanes_mem (s : State) (t p n : Nat) (f : Nat → List Byte) : (s.fillLanes t p n f).mem = s.mem :=
  foldl_of (P := fun u : State => u.mem = s.mem) rfl fun _ _ h => h

theorem State.fillLanes_regs (s : State) (t p n : Nat) (f : Nat → List Byte) : (s.fillLanes t p n f).regs = s.regs :=
  foldl_of (P := fun u : State => u.regs = s.regs) rfl fun _ _ h => h

theorem State.vreg_setVreg_same (s : State) (t p i : Nat) (b : List Byte) :
    (s.setVreg t p i b).vreg t p i = fitTo 512 b := by
  simp [State.vreg, State.setVreg, KMap.get_set_same]

theorem State.vreg_setVreg_other (s : State) (t p : Nat) {i j : Nat} (h : j ≠ i) (b : List Byte) :
    (s.setVreg t p i b).vreg t p j = s.vreg t p j := by
  simp [State.vreg, State.setVreg, KMap.get_set_other _ h]

theorem State.vreg_fillLanes (s : State) (t p : Nat) {n : Nat} (f : Nat → List Byte) {i : Nat} (h : i < n) :
    (s.fillLanes t p n f).vreg t p (8 + i) = fitTo 512 (f i) := by
  induction n with
  | zero => exact absurd h (Nat.not_lt_zero i)
  | succ n ih =>
    rw [State.fillLanes_succ]
    rcases Nat.lt_succ_iff_lt_or_eq.1 h with below | rfl
    · rw [State.vreg_setVreg_other _ _ _ (by omega), ih below]
    · exact State.vreg_setVreg_same ..

/-! ## The drain -/

/-- The bytes of a tile that drains unconverted (R62, R70). -/
def drained (td : Bool) (cells : List Nat) : List Byte := ((drainOrder td cells).map fun c => natLE 4 c).flatten

theorem length_flatten_natLE (n : Nat) (l : List Nat) : (l.map fun v => natLE n v).flatten.length = l.length * n := by
  rw [length_flatten_of_forall (n := n), List.length_map]
  simp only [List.mem_map]
  rintro _ ⟨v, -, rfl⟩
  exact length_natLE n v

theorem length_drained (td : Bool) (cells : List Nat) : (drained td cells).length = 4096 := by
  rw [drained, length_flatten_natLE, drainOrder, List.length_map, List.length_range]

theorem length_slice_drained (td : Bool) (cells : List Nat) {i : Nat} (h : i < 8) :
    (slice (drained td cells) (512 * i) 512).length = 512 := by
  simp only [slice, List.length_take, List.length_drop, length_drained]
  omega

theorem State.drainBytes_lanes {w : Nat} (lanes : tDst w = 3) (s : State) (t p : Nat) (td : Bool) (cells : List Nat) :
    s.drainBytes t p w (drainOrder td cells) = (drained td cells, s) := if_pos (.inr lanes)

/-- The oldest tile, its checks passed, drains into the lanes and is out (R68, R198). -/
theorem State.tileComplete_lanes {s : State} {t p : Nat} {x : TileRec} {rest : List TileRec}
    (oldest : (s.stn t p).tiles = x :: rest) (runs : s.rg (SEQ_STATE_STATE t p) = 2) (lanes : tDst x.run.word = 3)
    (checking : x.left = none) (noColumns : x.colSum = [])
    (rows : ∀ i < 32, drainOk ((List.range 32).map fun j => decW (x.cells.getD (32 * i + j) 0)) (x.rowSum.getD i fzero)
      (x.rowMag.getD i fzero) x.n = true) (cyc : Nat) :
    ∃ lane, s.tileComplete t p cyc [] = (s.fillLanes t p 8 lane).tileOut t p x rest ∧
      ∀ i < 8, lane i =
        slice (drained (tTd x.run.word) ((List.range 1024).map fun k => x.cells.getD k 0)) (512 * i) 512 := by
  have unstruck (i : Nat) : x.cells.getD i 0 ^^^ (hit [] 0 (i / 32) (i % 32)).toNat % 2 ^ 32 = x.cells.getD i 0 := by
    simp [hit]
  have passes := TileRec.failed_none noColumns rows
  have notLate : (tDst x.run.word == 1 || tDst x.run.word == 2) = false := by rw [lanes]; rfl
  refine ⟨_, ?_, fun i hi => chunks_getD 512 8 _ hi⟩
  simp only [State.tileComplete, oldest, runs, checking, unstruck, passes, State.drainBytes_lanes lanes, notLate]
  cases (s.stn t p).curveLoad <;> exact if_pos lanes

/-- A tile whose rows had to wait goes on with them (R165). -/
theorem State.tileComplete_waiting {s : State} {t p : Nat} {x : TileRec} {rest : List TileRec}
    (oldest : (s.stn t p).tiles = x :: rest) (runs : s.rg (SEQ_STATE_STATE t p) = 2) (noLoad : (s.stn t p).curveLoad = none)
    {l : List (List Byte)} (waiting : x.left = some l) (cyc : Nat) (up : List Upset) :
    s.tileComplete t p cyc up = s.drainTile t p x rest l := by
  simp only [State.tileComplete, oldest, runs, noLoad, waiting]
  rfl

/-- Its last row written, the tile is out. -/
theorem State.drainTile_out {s : State} {t p : Nat} {x : TileRec} {l : List (List Byte)}
    (done : (s.drainRows t p x.run x.t l).2 = []) (rest : List TileRec) :
    s.drainTile t p x rest l = (s.drainRows t p x.run x.t l).1.tileOut t p x rest :=
  if_pos (by rw [done]; rfl)

/-- With rows left it stays the oldest and keeps them. -/
theorem State.drainTile_waits {s : State} {t p : Nat} {x : TileRec} {l : List (List Byte)}
    (more : (s.drainRows t p x.run x.t l).2 ≠ []) (rest : List TileRec) :
    s.drainTile t p x rest l = (s.drainRows t p x.run x.t l).1.onStn t p fun v =>
      { v with tiles := { x with left := some (s.drainRows t p x.run x.t l).2 } :: rest } :=
  if_neg (by simpa using more)

end Sys2Proof.Machine
end

section
/-! CERTIFICATE. A tile enters the array with its operands and drains into the lanes when its checks pass (O14). -/

namespace Sys2Proof.Machine

/-- Settles O14: the tile that enters, the tile that drains into the lanes, the tile that goes on with its rows. -/
theorem tilesEnterAndDrain : Obligations.TilesEnterAndDrain := by
  refine ⟨fun s st cyc r act wl pl issuing room runs bf16 _ table float offs u operands => ?_,
    fun s st cyc x rest oldest runs => ⟨fun lanes checking noColumns rows => ?_, fun l q offLanes noLoad waiting drain => ?_⟩⟩
  · obtain ⟨ops, enters⟩ := State.tileIssue_bf16 issuing room runs bf16 table float operands []
    have fetched := (State.feed_fetched operands).showTile st.t.val st.p.val r
    refine ⟨_, congrArg Host.Outcome.next enters, State.showTile_busy .., fetched.mem, ?_⟩
    rw [← fetched.stn]
    exact State.enterTile_spec bf16 ..
  · obtain ⟨lane, drains, block⟩ := State.tileComplete_lanes oldest runs lanes checking noColumns rows cyc.toNat
    have gone := State.tileOut_gone (s.fillLanes st.t.val st.p.val 8 lane) st.t.val st.p.val x rest
    refine ⟨_, congrArg Host.Outcome.next drains, gone.tiles, gone.busy, ?_, gone.mem.trans (State.fillLanes_mem ..),
      fun i hi => ?_⟩
    · rw [gone.count, lanes, State.rg_congr (State.fillLanes_regs ..)]
      exact Nat.mod_eq_of_lt (s.rg_lt _)
    · rw [State.vreg, gone.vregs, ← State.vreg, State.vreg_fillLanes _ _ _ _ hi, block i hi,
        fitTo_of_length (length_slice_drained _ _ hi), drained]
  · subst drain
    have continues := State.tileComplete_waiting oldest runs noLoad waiting cyc.toNat []
    by_cases done : (s.drainRows st.t.val st.p.val x.run x.t l).2 = []
    · have gone := State.tileOut_gone (s.drainRows st.t.val st.p.val x.run x.t l).1 st.t.val st.p.val x rest
      refine ⟨_, congrArg Host.Outcome.next (continues.trans (State.drainTile_out done rest)), gone.mem,
        fun _ => ⟨gone.tiles, ?_⟩, fun more => absurd done more⟩
      rw [gone.count, show (tDst x.run.word != 3) = true from bne_iff_ne.2 offLanes, Bool.true_and]
    · exact ⟨_, congrArg Host.Outcome.next (continues.trans (State.drainTile_waits done rest)), rfl,
        fun out => absurd out done, fun _ => congrArg Stn.tiles (State.stn_onStn ..)⟩

end Sys2Proof.Machine
end

/-! # Proofs: curve slots, array repair, scrubber (O15) -/

section
/-! SUPPORT. Masks of bits, and several fields of one word written together. -/

namespace Sys2Proof.Machine

/-! ## Masks -/

theorem bit_eq_testBit (v i : Nat) : bit v i = v.testBit i := by
  rw [bit, Nat.testBit_eq_decide_div_mod_eq]
  rfl

theorem bit_mod_two_pow {k w : Nat} (h : k < w) (v : Nat) : bit (v % 2 ^ w) k = bit v k := by
  simp [bit_eq_testBit, h]

/-- A bit that is set reads as set. -/
theorem bit_setBit_true (m k : Nat) : bit (setBit m k true) k = true := by
  unfold setBit
  rw [if_pos rfl]
  split
  case isTrue h =>
    have whole : 2 ^ k ≤ m := Nat.ge_two_pow_of_testBit (bit_eq_testBit m k ▸ h)
    rwa [Nat.sub_add_cancel whole]
  case isFalse h =>
    rw [bit_eq_testBit] at h ⊢
    rw [Nat.sub_zero, Nat.add_comm, Nat.testBit_two_pow_add_eq]
    simpa using h

/-! ## Fields -/

/-- Of fields that begin at different bits of their words each reads what was written to it, cut to its width. -/
theorem State.rg_wrs_of_mem {l : List (Fld × Nat)} (apart : (l.map fun q => q.1.lo % 32).Nodup) {f : Fld} {v : Nat}
    (h : (f, v) ∈ l) (s : State) : (s.wrs l).rg f = v % 2 ^ f.w := by
  induction l generalizing s with
  | nil => exact absurd h List.not_mem_nil
  | cons q l ih =>
    rw [List.map_cons, List.nodup_cons] at apart
    obtain ⟨first, rest⟩ := apart
    rcases List.mem_cons.1 h with rfl | later
    · exact s.rg_wrs_head v l fun r hr => Fld.key_ne_of_lo fun same => first (List.mem_map.2 ⟨r, hr, same.symm⟩)
    · exact ih rest later _

theorem State.onlyRegs_refl (s : State) (l : List Nat) : s.onlyRegs s l := ⟨fun _ _ => rfl, rfl, rfl⟩

/-- A field written besides those that have changed. -/
theorem State.onlyRegs_wr {s u : State} {l : List Nat} (h : s.onlyRegs u l) {f : Fld} (hf : f.key ∈ l) (v : Nat) :
    s.onlyRegs (u.wr f v) l := by
  obtain ⟨field, mem, hostMem⟩ := h
  exact ⟨fun g hg => (u.rg_wr_other (fun same => hg (same.symm ▸ hf)) v).trans (field g hg), mem, hostMem⟩

theorem State.onlyRegs_wrs (s : State) (l : List (Fld × Nat)) : s.onlyRegs (s.wrs l) (l.map fun q => q.1.key) :=
  ⟨fun _ hf => s.rg_wrs_other l fun q hq same => hf (List.mem_map.2 ⟨q, hq, same.symm⟩), s.wrs_mem l, s.wrs_hostMem l⟩

/-- What a write of a field leaves alone, a write of several does. -/
theorem State.proj_wrs {α : Type} {g : State → α} (hg : ∀ s f v, g (State.wr s f v) = g s) (s : State)
    (l : List (Fld × Nat)) : g (s.wrs l) = g s :=
  foldl_of (P := fun u => g u = g s) rfl fun _ _ h => (hg ..).trans h

/-- It is left alone by a log entry too. -/
theorem State.proj_firstLog {α : Type} {g : State → α} (hg : ∀ s f v, g (State.wr s f v) = g s) (s : State)
    (valid multi : Fld) (l : List (Fld × Nat)) : g (s.firstLog valid multi l) = g s :=
  ite_of (P := fun u => g u = g s) (fun _ => hg ..) fun _ => (State.proj_wrs hg _ l).trans (hg ..)

/-- A log entry leaves every field in another place than its own as it is. -/
theorem State.rg_firstLog_other {g valid multi : Fld} (hv : g.key ≠ valid.key) (hm : g.key ≠ multi.key) (s : State)
    {l : List (Fld × Nat)} (hl : ∀ q ∈ l, g.key ≠ q.1.key) : (s.firstLog valid multi l).rg g = s.rg g :=
  ite_of (P := fun u : State => u.rg g = s.rg g) (fun _ => s.rg_wr_other hm 1)
    fun _ => (State.rg_wrs_other _ l hl).trans (s.rg_wr_other hv 1)

end Sys2Proof.Machine
end

section
/-! SUPPORT. The end of a curve-load, and a write of the array's repair (R87, R109, R110). -/

namespace Sys2Proof.Machine

variable {s : State} {t p : Nat}

/-! ## Curve slots -/

/-- A load whose rows are read, with no earlier tile to use its slot, puts them into the slot. -/
theorem State.curveDone_read {c : CurveLoad} {l : List Byte} (loading : (s.stn t p).curveLoad = some c)
    (noRun : (s.stn t p).waiting = []) (noTile : (s.stn t p).tiles = [])
    (rows : s.readOffs t p c.desc c.off 9 = (.ok l, s)) (cyc : Nat) :
    s.curveDone t p cyc =
      ((s.onStn t p fun v => { v with curveLoad := none }).wr (CURVE_STATE_LOADING t p) 0).putCurve t p c.slot l := by
  simp only [State.curveDone, loading, noRun, noTile, rows]
  rfl

theorem State.putCurve_mem (s : State) (t p k : Nat) (tab : List Byte) : (s.putCurve t p k tab).mem = s.mem :=
  State.wrs_mem ..

theorem State.putCurve_stn (s : State) (t p k : Nat) (tab : List Byte) :
    (s.putCurve t p k tab).stn t p = { s.stn t p with curves := (s.stn t p).curves.set k tab [] } :=
  s.stn_onStn t p fun v => { v with curves := v.curves.set k tab [] }

theorem State.putCurve_valid (s : State) (t p : Nat) {k : Nat} (h : k < 4) (tab : List Byte) :
    bit ((s.putCurve t p k tab).rg (CURVE_STATE_VALID t p)) k = true := by
  rw [State.putCurve, State.rg_wrs_head, show (CURVE_STATE_VALID t p).w = 4 from rfl, bit_mod_two_pow h, bit_setBit_true]
  exact List.forall_mem_singleton.2 (Fld.key_ne_of_lo (by decide : 0 ≠ 8))

theorem State.putCurve_loading (s : State) (t p k : Nat) (tab : List Byte) :
    (s.putCurve t p k tab).rg (CURVE_STATE_LOADING t p) = s.rg (CURVE_STATE_LOADING t p) := by
  refine State.rg_wrs_other _ _ ?_
  simp only [List.forall_mem_cons]
  exact ⟨Fld.key_ne_of_lo (by decide : 4 ≠ 0), Fld.key_ne_of_lo (by decide : 4 ≠ 8), List.forall_mem_nil _⟩

/-! ## Repair -/

/-- The fields of a write that omits no row and no column. -/
def omitNone (t p w : Nat) : List (Fld × Nat) :=
  [(ARRAY_REPAIR_EN t p, bits w 31 1), (ARRAY_REPAIR_COL_OMIT t p, 32), (ARRAY_REPAIR_ROW_OMIT t p, 32)]

theorem omitNone_apart (t p w : Nat) : ((omitNone t p w).map fun q => q.1.lo % 32).Nodup := (by decide : [31, 8, 0].Nodup)

/-- At a station without a slice a write that omits no row and no column takes effect whatever the fuses say (R87). -/
theorem State.arrayRepair_unmoved {w : Nat} (free : ¬ s.assigned t p) (keepErr : bit w 30 = false)
    (col : bits w 8 6 = 32) (row : bits w 0 6 = 32) : s.arrayRepair t p w = s.wrs (omitNone t p w) := by
  simp [State.arrayRepair, omitNone, keepErr, col, row, free]

/-- Whether a station has a slice does not hang on its repair register. -/
theorem State.assigned_wr_repairErr (s : State) (t p v : Nat) :
    (s.wr (ARRAY_REPAIR_ERR t p) v).assigned t p = s.assigned t p := by
  have apart : (MAP_ASSIGNED t p).key ≠ (ARRAY_REPAIR_ERR t p).key := Fld.key_ne_of_lo (by decide : 31 ≠ 30)
  rw [State.assigned, State.assigned, State.on, State.on, State.rg_wr_other _ apart]

/-- At an assigned station a write changes ERR alone, which it leaves set (R87). -/
theorem State.arrayRepair_assigned (held : s.assigned t p) (w : Nat) : s.arrayRepair t p w =
    (if bit w 30 then s.wr (ARRAY_REPAIR_ERR t p) 0 else s).wr (ARRAY_REPAIR_ERR t p) 1 := by
  unfold State.arrayRepair
  refine if_pos (.inl ?_)
  exact ite_of (P := fun u : State => u.assigned t p = true) (fun _ => (s.assigned_wr_repairErr t p 0).trans held)
    fun _ => held

end Sys2Proof.Machine
end

section
/-! SUPPORT. The scrubber at a row of a station memory in which one word is in error (R119, R121). -/

namespace Sys2Proof.Machine

variable {s : State} {t p : Nat}

/-! ## Marks -/

/-- Word `i` past `a` is the only one marked in memories that were without errors. -/
theorem State.ecc_mark (clean : s.ecc = []) (a i : Nat) {k : Nat} (bad : k ≠ 0) :
    (s.mark (a + 8 * i) k).ecc = [(a / 8 + i, k)] := by
  rw [State.mark, clean, KMap.set, if_neg bad, Nat.add_mul_div_left a i (by decide : 0 < 8), KMap.insert]

theorem State.marks_one {a i n k : Nat} (h : s.ecc = [(a / 8 + i, k)]) (inside : i < n) : s.marks a n = [(i, k)] := by
  simp [State.marks, h, inside]

theorem State.marks_clean (clean : s.ecc = []) (a n : Nat) : s.marks a n = [] := by
  simp [State.marks, clean]

/-- A write-back corrects what can be corrected: an uncorrectable word keeps its mark. -/
theorem State.ecc_writeBack_one {a i n k : Nat} (h : s.ecc = [(a / 8 + i, k)]) (inside : i < n) :
    (s.writeBack a n).ecc = if k = 2 then [(a / 8 + i, 2)] else [] := by
  have row : ¬ a / 8 + n ≤ a / 8 + i := by omega
  rw [State.writeBack, h]
  split
  case isTrue unc => simp [unc]
  case isFalse corrected => simp [row, corrected]

theorem State.writeBack_clean (clean : s.ecc = []) (a n : Nat) : s.writeBack a n = s := by
  have kept : s.ecc.filter (fun e => decide (e.1 < a / 8 ∨ a / 8 + n ≤ e.1 ∨ e.2 = 2)) = s.ecc := by rw [clean]; rfl
  rw [State.writeBack, kept]

/-- Upsets change data and marks, no register. -/
theorem State.strike_regs (s : State) (a : Nat) (l : List BadWord) : (s.strike a l).regs = s.regs :=
  foldl_of (P := fun u : State => u.regs = s.regs) rfl fun u b h =>
    ite_of (P := fun u : State => u.regs = s.regs) (fun _ => h) fun _ => by cases b.kind <;> exact h

theorem State.strike_single (s : State) (a : Nat) {i : Nat} (inside : i < 64) (flip : BitVec 64) :
    s.strike a [⟨i, .single, flip⟩] = s.mark (a + 8 * i) 1 := if_neg (Nat.not_le.2 inside)

theorem State.strike_uncorrectable (s : State) (a : Nat) {i : Nat} (inside : i < 64) (flip : BitVec 64) :
    s.strike a [⟨i, .uncorrectable, flip⟩] = s.mark (a + 8 * i) 2 := if_neg (Nat.not_le.2 inside)

/-! ## The log and the counters of a station's memories -/

/-- The counter of words with an error of kind `k`. -/
def eccCounter (t p k : Nat) : Fld := if k == 2 then MEM_ECC_UNC t p else MEM_ECC_CORR t p

/-- What a log entry shows of word `i` of row `row` of memory `m`. -/
def eccEntry (t p m row : Nat) (scrub : Bool) (i k : Nat) : List (Fld × Nat) :=
  [(MEM_ECC_LOG_UNC t p, b2n (k == 2)), (MEM_ECC_LOG_MEM t p, m), (MEM_ECC_LOG_SCRUB t p, b2n scrub),
    (MEM_ECC_LOG_ROW t p, row), (MEM_ECC_LOG_WORD t p, i)]

theorem State.eccStn_one (s : State) (t p m row : Nat) (scrub : Bool) (i k : Nat) :
    s.eccStn t p m row scrub [(i, k)] = (s.bump (eccCounter t p k)).firstLog (MEM_ECC_LOG_VALID t p)
      (MEM_ECC_LOG_MULTI t p) (eccEntry t p m row scrub i k) := rfl

/-- The counters stand outside the word of the log. -/
theorem eccCounter_key_ne (t p k : Nat) {f : Fld} (off : f.off = stnBase t p + 0xa00) (lo : f.lo < 32) :
    (eccCounter t p k).key ≠ f.key := by
  have past : f.off < (eccCounter t p k).off :=
    ite_of (P := fun g : Fld => f.off < g.off) (fun _ => by rw [off]; exact Nat.add_lt_add_left (by decide) _)
      fun _ => by rw [off]; exact Nat.add_lt_add_left (by decide) _
  unfold Fld.key
  omega

theorem eccCounter_w (t p k : Nat) : (eccCounter t p k).w = 64 :=
  ite_of (P := fun f : Fld => f.w = 64) (fun _ => rfl) fun _ => rfl

theorem eccEntry_apart (t p m row : Nat) (scrub : Bool) (i k : Nat) :
    (((MEM_ECC_LOG_VALID t p, 1) :: eccEntry t p m row scrub i k).map fun q => q.1.lo % 32).Nodup :=
  (by decide : [31, 29, 27, 26, 16, 0].Nodup)

/-- A word in error is counted. -/
theorem State.eccStn_count (s : State) (t p m row : Nat) (scrub : Bool) (i k : Nat) :
    (s.eccStn t p m row scrub [(i, k)]).rg (eccCounter t p k) = (s.rg (eccCounter t p k) + 1) % 2 ^ 64 := by
  have apart (f : Fld) (off : f.off = stnBase t p + 0xa00) (lo : f.lo < 32) := eccCounter_key_ne t p k off lo
  rw [State.eccStn_one, State.rg_firstLog_other (apart _ rfl (by decide : 31 < 32)) (apart _ rfl (by decide : 30 < 32)),
    State.bump, State.rg_wr_same, eccCounter_w]
  simp only [eccEntry, List.forall_mem_cons]
  exact ⟨apart _ rfl (by decide : 29 < 32), apart _ rfl (by decide : 27 < 32), apart _ rfl (by decide : 26 < 32),
    apart _ rfl (by decide : 16 < 32), apart _ rfl (by decide : 0 < 32), List.forall_mem_nil _⟩

/-- The log shows the word `i` with an error of kind `k` that the scrubber met. -/
def EccLogged (u : State) (t p i k : Nat) : Prop :=
  u.on (MEM_ECC_LOG_VALID t p) ∧ u.rg (MEM_ECC_LOG_UNC t p) = b2n (k == 2) ∧ u.rg (MEM_ECC_LOG_WORD t p) = i ∧
    u.on (MEM_ECC_LOG_SCRUB t p)

/-- The first word in error is logged. -/
theorem State.eccStn_logs (empty : ¬ s.on (MEM_ECC_LOG_VALID t p)) {i : Nat} (inside : i < 64) (m row k : Nat) :
    EccLogged (s.eccStn t p m row true [(i, k)]) t p i k := by
  have unlogged : ¬ (s.bump (eccCounter t p k)).on (MEM_ECC_LOG_VALID t p) := by
    rwa [State.on, State.bump, State.rg_wr_other _ (eccCounter_key_ne t p k rfl (by decide : 31 < 32)).symm]
  have entry : s.eccStn t p m row true [(i, k)] =
      (s.bump (eccCounter t p k)).wrs ((MEM_ECC_LOG_VALID t p, 1) :: eccEntry t p m row true i k) := if_neg unlogged
  have shows {f : Fld} {v : Nat} (h : (f, v) ∈ (MEM_ECC_LOG_VALID t p, 1) :: eccEntry t p m row true i k) :
      (s.eccStn t p m row true [(i, k)]).rg f = v % 2 ^ f.w := by
    rw [entry]
    exact State.rg_wrs_of_mem (eccEntry_apart t p m row true i k) h _
  refine ⟨?_, ?_, ?_, ?_⟩
  · rw [State.on, shows (v := 1) (by simp)]
    rfl
  · rw [shows (v := b2n (k == 2)) (by simp [eccEntry])]
    cases k == 2 <;> rfl
  · rw [shows (v := i) (by simp [eccEntry])]
    exact Nat.mod_eq_of_lt inside
  · rw [State.on, shows (v := b2n true) (by simp [eccEntry])]
    rfl

/-- What writes of registers leave alone, the counters and the log do. -/
theorem State.proj_eccStn {α : Type} {g : State → α} (hg : ∀ s f v, g (State.wr s f v) = g s) (s : State)
    (t p m row : Nat) (scrub : Bool) (l : List (Nat × Nat)) : g (s.eccStn t p m row scrub l) = g s :=
  foldl_of (P := fun u => g u = g s) rfl fun _ _ h => (State.proj_firstLog hg _ _ _ _).trans ((hg ..).trans h)

/-! ## The visit -/

/-- A visit to a row of a station memory: the upsets before it are met, logged and corrected, those after it stay. -/
theorem State.scrub_station {m row : Nat} (station : p ≠ 17) (inside : row < memRows m)
    (free : m = 3 → ¬ s.assigned t p) (l : List BadWord) (late : Bool) :
    let a := rowAddr t p m row
    let u := s.strike a (if late then [] else l)
    s.scrub t p m row l late =
      ((u.eccStn t p m row true (u.marks a 64)).writeBack a 64).strike a (if late then l else []) := by
  intro a u
  have visited : ¬ (m = 3 ∧ u.assigned t p) := fun ⟨program, held⟩ =>
    free program (by rwa [State.assigned, State.on, State.rg_congr (State.strike_regs ..)] at held)
  rw [State.scrub, if_neg station, if_neg (Nat.not_le.2 inside)]
  exact congrArg (fun v : State => v.strike a (if late then l else [])) (if_neg visited)

/-- From `s` to `u` the scrubber has met one word in error, word `i` of the row at `a`, with an error of kind `k`. -/
structure Scrubbed (t p a i k : Nat) (s u : State) : Prop where
  integ : u.integ = s.integ
  mem : u.mem = s.mem
  ecc : u.ecc = if k = 2 then [(a / 8 + i, 2)] else []
  count : u.rg (eccCounter t p k) = (s.rg (eccCounter t p k) + 1) % 2 ^ 64
  logged : ¬ s.on (MEM_ECC_LOG_VALID t p) → EccLogged u t p i k

/-- One word in error before the visit: no fault is raised, whatever its kind (R121). -/
theorem State.scrub_one {m row i k : Nat} {b : BadWord} (station : p ≠ 17) (inside : row < memRows m)
    (free : m = 3 → ¬ s.assigned t p) (clean : s.ecc = []) (word : i < 64) (bad : k ≠ 0)
    (struck : s.strike (rowAddr t p m row) [b] = s.mark (rowAddr t p m row + 8 * i) k) :
    Scrubbed t p (rowAddr t p m row) i k s (s.scrub t p m row [b] false) := by
  have marked := State.ecc_mark clean (rowAddr t p m row) i bad
  have visit : s.scrub t p m row [b] false = ((s.mark (rowAddr t p m row + 8 * i) k).eccStn t p m row true
      [(i, k)]).writeBack (rowAddr t p m row) 64 := by
    rw [← State.marks_one marked word, ← struck]
    exact State.scrub_station station inside free [b] false
  rw [visit]
  refine ⟨State.proj_eccStn (g := State.integ) (fun _ _ _ => rfl) .., State.proj_eccStn (g := State.mem) (fun _ _ _ => rfl) ..,
    State.ecc_writeBack_one ?_ word, State.eccStn_count .., fun empty => ?_⟩
  · exact (State.proj_eccStn (g := State.ecc) (fun _ _ _ => rfl) ..).trans marked
  · exact State.eccStn_logs (s := s.mark _ k) empty word m row k

/-- Upsets after the visit to a row without errors are left for its next read (R119). -/
theorem State.scrub_late {m row : Nat} (station : p ≠ 17) (inside : row < memRows m)
    (free : m = 3 → ¬ s.assigned t p) (clean : s.ecc = []) (l : List BadWord) :
    s.scrub t p m row l true = s.strike (rowAddr t p m row) l := by
  refine (State.scrub_station station inside free l true).trans (congrArg (fun v : State => v.strike _ l) ?_)
  calc (s.eccStn t p m row true (s.marks (rowAddr t p m row) 64)).writeBack (rowAddr t p m row) 64
    _ = s.writeBack (rowAddr t p m row) 64 := by rw [State.marks_clean clean]; rfl
    _ = s := State.writeBack_clean clean _ _

end Sys2Proof.Machine
end

section
/-! CERTIFICATE. Curve-loads end, repairs take effect or are refused, the scrubber corrects one row (O15). -/

namespace Sys2Proof.Machine

/-- Settles O15: the slot that takes the table, the repair with and without a slice, the visit before and after an upset. -/
theorem curvesRepairsScrubs : Obligations.CurvesRepairsScrubs := by
  refine ⟨fun s st => ⟨fun cyc c l loading noRun noTile slot rows => ?_, fun w free keepErr col row => ?_, fun w held => ?_⟩,
    fun s t p m row i word station inside free clean => ⟨?_, ?_, ?_⟩⟩
  · refine ⟨_, congrArg Host.Outcome.next (State.curveDone_read loading noRun noTile rows cyc.toNat), ?_,
      State.putCurve_valid _ _ _ slot l, ?_, ?_, State.putCurve_mem ..⟩
    · rw [State.putCurve_stn]
      exact KMap.get_set_same ..
    · rw [State.putCurve_loading, State.rg_wr_same]
      rfl
    · rw [State.putCurve_stn]
      exact congrArg Stn.curveLoad (s.stn_onStn _ _ fun v => { v with curveLoad := none })
  · have shows {f : Fld} {v : Nat} := State.rg_wrs_of_mem (omitNone_apart st.t.val st.p.val w.toNat) (f := f) (v := v)
    refine ⟨_, congrArg Host.Outcome.next (State.arrayRepair_unmoved free keepErr col row), ?_, ?_, ?_, s.onlyRegs_wrs _⟩
    · exact shows (v := 32) (by simp [omitNone]) s
    · exact shows (v := 32) (by simp [omitNone]) s
    · exact (shows (v := bits w.toNat 31 1) (by simp [omitNone]) s).trans (Nat.mod_mod ..)
  · refine ⟨_, congrArg Host.Outcome.next (State.arrayRepair_assigned held w.toNat), ?_, ?_⟩
    · rw [State.on, State.rg_wr_same]
      rfl
    · have own := List.mem_singleton_self (ARRAY_REPAIR_ERR st.t.val st.p.val).key
      exact State.onlyRegs_wr (ite_of (P := fun u => s.onlyRegs u _) (fun _ => State.onlyRegs_wr (s.onlyRegs_refl _) own 0)
        fun _ => s.onlyRegs_refl _) own 1
  · have visit := State.scrub_one station inside free clean word (by decide) (s.strike_single _ word 0)
    exact ⟨_, rfl, visit.ecc, visit.integ, visit.mem, visit.count, visit.logged⟩
  · have visit := State.scrub_one station inside free clean word (by decide) (s.strike_uncorrectable _ word 0)
    refine ⟨_, rfl, visit.integ, visit.mem, ?_, visit.count, visit.logged⟩
    rw [visit.ecc]
    exact if_pos rfl
  · have visit := (State.scrub_late station inside free clean [⟨i, .single, 0⟩]).trans (s.strike_single _ word 0)
    refine ⟨_, congrArg Host.Outcome.next visit, rfl, rfl, ?_⟩
    rw [State.ecc_mark clean _ i (by decide)]
    exact if_pos rfl

end Sys2Proof.Machine
end

/-! # Proofs: slots, promenade links, pages of a terrace store (O16) -/

section
/-! SUPPORT. The presence bit of a slot: its producer sets it, and the last release of a STREAM slot clears it (R125 to
R128). -/

namespace Sys2Proof.Machine

variable {s : State} {t p k : Nat}

/-! ## The bit set and cleared -/

/-- The fields of a slot that has just been filled. -/
def slotFilled (t p k : Nat) : List (Fld × Nat) :=
  [(SLOT_STAT_PRESENT t p k, 1), (SLOT_STAT_RELEASED t p k, 0), (SLOT_STAT_RWAIT t p k, 0)]

/-- The fields of a slot that has just been emptied. -/
def slotEmptied (t p k : Nat) : List (Fld × Nat) := [(SLOT_STAT_PRESENT t p k, 0), (SLOT_STAT_WWAIT t p k, 0)]

theorem State.setPresent_eq (s : State) (t p k : Nat) : s.setPresent t p k = s.wrs (slotFilled t p k) := rfl

theorem slotFilled_apart (t p k : Nat) : ((slotFilled t p k).map fun q => q.1.lo % 32).Nodup :=
  (by decide : [31, 29, 28].Nodup)

theorem slotEmptied_apart (t p k : Nat) : ((slotEmptied t p k).map fun q => q.1.lo % 32).Nodup :=
  (by decide : [31, 27].Nodup)

theorem State.setPresent_present (s : State) (t p k : Nat) : (s.setPresent t p k).present t p k = true := by
  rw [State.present, State.on, State.setPresent_eq,
    State.rg_wrs_of_mem (slotFilled_apart t p k) (v := 1) (by simp [slotFilled])]
  rfl

theorem State.setPresent_released (s : State) (t p k : Nat) : (s.setPresent t p k).rg (SLOT_STAT_RELEASED t p k) = 0 := by
  rw [State.setPresent_eq, State.rg_wrs_of_mem (slotFilled_apart t p k) (v := 0) (by simp [slotFilled])]
  exact Nat.zero_mod _

theorem State.clearPresent_present (s : State) (t p k : Nat) : (s.clearPresent t p k).present t p k = false := by
  have empty : (s.clearPresent t p k).rg (SLOT_STAT_PRESENT t p k) = 0 :=
    (State.rg_wrs_of_mem (slotEmptied_apart t p k) (v := 0) (by simp [slotEmptied]) s).trans (Nat.zero_mod _)
  rw [State.present, State.on, empty]
  rfl

/-! ## The producer's event -/

theorem State.slotSet_empty (en : s.on (SLOT_CFG_EN t p k)) (unheld : s.rg (SLOT_CFG_KIND t p k) ≠ 2)
    (empty : ¬ s.present t p k) : s.slotSet t p k = s.setPresent t p k :=
  if_neg fun h => h.elim (fun off => off en) fun h => h.elim unheld empty

theorem State.slotSet_held (held : s.rg (SLOT_CFG_KIND t p k) = 2) : s.slotSet t p k = s := if_pos (.inr (.inl held))

/-! ## A consumer's event -/

/-- One release more is counted. -/
def State.countRelease (s : State) (t p k : Nat) : State :=
  s.wr (SLOT_STAT_RELEASED t p k) (s.rg (SLOT_STAT_RELEASED t p k) + 1)

theorem State.countRelease_other {f : Fld} (h : f.lo % 32 ≠ 29) (s : State) (t p k : Nat) :
    (s.countRelease t p k).rg f = s.rg f :=
  s.rg_wr_other (Fld.key_ne_of_lo h) _

theorem State.countRelease_present (s : State) (t p k : Nat) : (s.countRelease t p k).present t p k = s.present t p k :=
  congrArg (· == 1) (State.countRelease_other (f := SLOT_STAT_PRESENT t p k) (by decide : 31 ≠ 29) s t p k)

theorem State.release_held (held : s.rg (SLOT_CFG_KIND t p k) = 2) (byRel : Bool) : s.release t p k byRel = s := by
  simp [State.release, held]

/-- A release of a full STREAM slot counts, and clears the bit when it is the last of READERS. -/
theorem State.release_stream (stream : s.rg (SLOT_CFG_KIND t p k) = 0) (full : s.present t p k) (byRel : Bool) :
    s.release t p k byRel = if s.rg (SLOT_CFG_READERS t p k) ≤ s.rg (SLOT_STAT_RELEASED t p k) + 1
      then (s.countRelease t p k).clearPresent t p k else s.countRelease t p k := by
  have readers : (s.countRelease t p k).rg (SLOT_CFG_READERS t p k) = s.rg (SLOT_CFG_READERS t p k) :=
    State.countRelease_other (f := SLOT_CFG_READERS t p k) (by decide : 25 ≠ 29) s t p k
  rw [← readers]
  exact (if_neg (not_not_intro full)).trans (if_pos stream)

/-- READERS is a field as wide as RELEASED: a count below it is not cut. -/
theorem State.countRelease_released (fewer : s.rg (SLOT_STAT_RELEASED t p k) + 1 < s.rg (SLOT_CFG_READERS t p k)) :
    (s.countRelease t p k).rg (SLOT_STAT_RELEASED t p k) = s.rg (SLOT_STAT_RELEASED t p k) + 1 :=
  (s.rg_wr_same _ _).trans (Nat.mod_eq_of_lt (Nat.lt_trans fewer (s.rg_lt (SLOT_CFG_READERS t p k))))

end Sys2Proof.Machine
end

section
/-! SUPPORT. The oldest row on a promenade link at its arrival: refused, sent on, or written to its slot (R122 to R124). -/

namespace Sys2Proof.Machine

variable {s : State} {t p : Nat} {up : Bool} {q : Nat × Nat} {r : LinkRow} {rest : List LinkRow} {c : Nat}

/-! ## Neighbours are different stations -/

theorem promIdx_promAt (x : Nat) : promIdx (promAt x).1 (promAt x).2 = x := by
  unfold promIdx promAt
  by_cases even : x / 17 % 2 = 0
  · simp only [if_pos even]
    exact Nat.div_add_mod x 17
  · simp only [if_neg even]
    omega

theorem promAt_snd_lt (x : Nat) : (promAt x).2 < 17 :=
  ite_of (P := (· < 17)) (fun _ => Nat.mod_lt x (by decide)) fun _ => Nat.lt_succ_of_le (Nat.sub_le ..)

theorem promAt_of_adjacent (next : adjacent t p up = some q) : ∃ x, x ≠ promIdx t p ∧ promAt x = q := by
  cases up with
  | true => exact ⟨_, Nat.succ_ne_self _, Option.some.inj (ite_some next)⟩
  | false =>
    by_cases first : promIdx t p = 0
    · exact absurd ((if_pos first).symm.trans next) (by simp)
    · exact ⟨promIdx t p - 1, by omega, Option.some.inj ((if_neg first).symm.trans next)⟩

theorem adjacent_key_ne (hp : p < 17) (next : adjacent t p up = some q) : 17 * t + p ≠ 17 * q.1 + q.2 := by
  obtain ⟨x, apart, rfl⟩ := promAt_of_adjacent next
  intro same
  have pos := promAt_snd_lt x
  have ht : (promAt x).1 = t := by omega
  have hq : (promAt x).2 = p := by omega
  exact apart (by rw [← promIdx_promAt x, ht, hq])

theorem State.stn_onStn_other (s : State) {t p u v : Nat} (h : 17 * t + p ≠ 17 * u + v) (g : Stn → Stn) :
    (s.onStn u v g).stn t p = s.stn t p := KMap.get_set_other _ h ..

@[simp] theorem Stn.link_setLink (v : Stn) (up : Bool) (l : Link) : (v.setLink up l).link up = l := by
  cases up <;> rfl

/-! ## What becomes of the row -/

/-- Where a row lies that arrives for a slot of position `m`. -/
def State.linkRowAddr (s : State) (t m : Nat) (r : LinkRow) : Nat :=
  rowAddr t m (s.rg (SLOT_CFG_MEM t m r.slot)) (s.rg (SLOT_CFG_BASE t m r.slot) + r.row)

/-- The row written to its slot at position `m`, the slot filled with its last row. -/
def State.acceptRow (s : State) (t m : Nat) (r : LinkRow) : State :=
  let u := s.writeRow t m (s.rg (SLOT_CFG_MEM t m r.slot)) (s.rg (SLOT_CFG_BASE t m r.slot) + r.row) r.data
  if r.set then u.setPresent t m r.slot else u

/-- The row put last on the link of a station in pass-through. -/
def State.forwardRow (s : State) (t p : Nat) (up : Bool) (r : LinkRow) : State :=
  s.onStn t p fun v => v.setLink up { v.link up with rows := (v.link up).rows ++ [r] }

/-- A row sent under a credit is refused, sent on when there is a credit for it, or written when its slot is free. -/
theorem State.linkRow_sent (next : adjacent t p up = some q)
    (sent : (s.stn q.1 q.2).link (!up) = { rows := r :: rest, credits := c + 1 }) (bad : Bool) (cyc : Nat) :
    s.linkRow t p up bad cyc =
      if bad then (s.takeRow q (!up) rest).linkBad t p (r.src / 17) (r.src % 17) cyc
      else if s.on (MEM_PASS_EN t p) then
        if ((s.stn t p).link (!up)).credits ≤ ((s.stn t p).link (!up)).rows.length then s
        else (s.takeRow q (!up) rest).forwardRow t p (!up) r
      else if s.present t (s.land t p) r.slot then s.stallSlot t (s.land t p) r.slot true
      else (s.takeRow q (!up) rest).acceptRow t (s.land t p) r := by
  simp only [State.linkRow, next, sent]
  exact if_neg (Nat.succ_ne_zero c)

/-! ## The sender -/

theorem State.takeRow_link (sent : (s.stn q.1 q.2).link up = { rows := r :: rest, credits := c + 1 }) :
    ((s.takeRow q up rest).stn q.1 q.2).link up = { rows := rest, credits := c } := by
  rw [State.takeRow, State.stn_onStn, Stn.link_setLink, sent, Nat.add_sub_cancel]

/-! ## The row sent on -/

/-- A station in pass-through that is not the sender has the row on its link behind those it had there. -/
theorem State.forwardRow_rows (apart : 17 * t + p ≠ 17 * q.1 + q.2) (side : Bool) :
    ((((s.takeRow q side rest).forwardRow t p up r).stn t p).link up).rows = ((s.stn t p).link up).rows ++ [r] := by
  rw [State.forwardRow, State.stn_onStn, Stn.link_setLink, State.takeRow, State.stn_onStn_other _ apart]

theorem State.forwardRow_stn_other (apart : 17 * t + p ≠ 17 * q.1 + q.2) (s : State) (up : Bool) (r : LinkRow) :
    (s.forwardRow t p up r).stn q.1 q.2 = s.stn q.1 q.2 := s.stn_onStn_other apart.symm _

/-! ## The row written -/

theorem length_fitTo (n : Nat) (l : List Byte) : (fitTo n l).length = n := by
  simp only [fitTo, zeros, List.length_append, List.length_take, List.length_replicate]
  omega

/-- Outside a transfer tide a row is written to one station alone (R148). -/
theorem State.writeRow_single (phase : s.rg (TAKE_STATUS_PHASE t) ≠ 2) (m k : Nat) (b : List Byte) :
    s.writeRow t p m k b = s.putRow (rowAddr t p m k) b := if_neg fun transfer => phase transfer.1

theorem State.acceptRow_mem (phase : s.rg (TAKE_STATUS_PHASE t) ≠ 2) (m : Nat) (r : LinkRow) :
    (s.acceptRow t m r).mem = (s.st (s.linkRowAddr t m r) (fitTo 512 r.data)).mem := by
  rw [State.acceptRow, State.writeRow_single phase]
  exact ite_of (P := fun u : State => u.mem = _) (fun _ => State.wrs_mem ..) fun _ => rfl

theorem State.acceptRow_ld (phase : s.rg (TAKE_STATUS_PHASE t) ≠ 2) (m : Nat) (r : LinkRow) :
    (s.acceptRow t m r).ld (s.linkRowAddr t m r) 512 = fitTo 512 r.data := by
  calc (s.acceptRow t m r).ld (s.linkRowAddr t m r) 512
    _ = (s.st (s.linkRowAddr t m r) (fitTo 512 r.data)).ld (s.linkRowAddr t m r) (fitTo 512 r.data).length := by
      rw [State.ld, State.acceptRow_mem phase, length_fitTo]
      rfl
    _ = fitTo 512 r.data := s.ld_st ..

theorem State.acceptRow_outside (phase : s.rg (TAKE_STATUS_PHASE t) ≠ 2) (m : Nat) (r : LinkRow) {k : Nat}
    (outside : k < s.linkRowAddr t m r ∨ s.linkRowAddr t m r + 512 ≤ k) :
    (s.acceptRow t m r).mem.get k 0#8 = s.mem.get k 0#8 := by
  rw [State.acceptRow_mem phase, State.st_outside]
  rwa [length_fitTo]

theorem State.acceptRow_stn (phase : s.rg (TAKE_STATUS_PHASE t) ≠ 2) (m : Nat) (r : LinkRow) (u v : Nat) :
    (s.acceptRow t m r).stn u v = s.stn u v := by
  rw [State.acceptRow, State.writeRow_single phase]
  exact ite_of (P := fun w : State => w.stn u v = s.stn u v)
    (fun _ => congrArg (fun l : KMap Stn => l.get (17 * u + v) {}) (State.wrs_stns ..)) fun _ => rfl

theorem State.acceptRow_present (last : r.set) (s : State) (t m : Nat) :
    (s.acceptRow t m r).present t m r.slot = true := by
  rw [State.acceptRow, if_pos last]
  exact State.setPresent_present ..

/-! ## Rows returned for a read -/

/-- Out of pass-through the station that receives a returned row is the one that asked for it. -/
theorem State.linkReturn_own (own : ¬ s.on (MEM_PASS_EN t p)) (up : Bool) (cyc : Nat) :
    s.linkReturn t p up true cyc = s.linkBad t p t p cyc := by
  simp [State.linkReturn, own]

end Sys2Proof.Machine
end

section
/-! SUPPORT. Writes of `MEM.PASS` and of the pages of a terrace store (R8, R122, R132). -/

namespace Sys2Proof.Machine

variable {s : State} {t p w : Nat}

/-! ## Error bits -/

/-- An error bit that a write with `ack` clears. -/
def State.ackErr (s : State) (f : Fld) (ack : Bool) : State := if ack then s.wr f 0 else s

theorem State.ackErr_other {f g : Fld} (h : g.key ≠ f.key) (s : State) (ack : Bool) : (s.ackErr f ack).rg g = s.rg g :=
  ite_of (P := fun u : State => u.rg g = s.rg g) (fun _ => s.rg_wr_other h 0) fun _ => rfl

theorem State.ackErr_mem (s : State) (f : Fld) (ack : Bool) : (s.ackErr f ack).mem = s.mem :=
  ite_of (P := fun u : State => u.mem = s.mem) (fun _ => rfl) fun _ => rfl

theorem State.ackErr_ters (s : State) (f : Fld) (ack : Bool) : (s.ackErr f ack).ters = s.ters :=
  ite_of (P := fun u : State => u.ters = s.ters) (fun _ => rfl) fun _ => rfl

theorem State.onlyRegs_ackErr (s : State) {f : Fld} {l : List Nat} (hf : f.key ∈ l) (ack : Bool) :
    s.onlyRegs (s.ackErr f ack) l :=
  ite_of (P := fun u => s.onlyRegs u l) (fun _ => State.onlyRegs_wr (s.onlyRegs_refl l) hf 0) fun _ => s.onlyRegs_refl l

theorem State.assigned_ackErr {f : Fld} (h : (MAP_ASSIGNED t p).key ≠ f.key) (s : State) (ack : Bool) :
    (s.ackErr f ack).assigned t p = s.assigned t p := congrArg (· == 1) (State.ackErr_other h s ack)

/-! ## Pass-through -/

theorem assigned_ne_passErr (t p : Nat) : (MAP_ASSIGNED t p).key ≠ (MEM_PASS_ERR t p).key :=
  Fld.key_ne_of_lo (by decide : 31 ≠ 30)

theorem passEn_ne_passErr (t p : Nat) : (MEM_PASS_EN t p).key ≠ (MEM_PASS_ERR t p).key :=
  Fld.key_ne_of_lo (by decide : 31 ≠ 30)

theorem State.memPass_free (free : ¬ s.assigned t p) (w : Nat) :
    s.memPass t p w = (s.ackErr (MEM_PASS_ERR t p) (bit w 30)).wr (MEM_PASS_EN t p) (bits w 31 1) := by
  rw [← State.assigned_ackErr (assigned_ne_passErr t p) s (bit w 30)] at free
  exact if_neg free

theorem State.memPass_assigned (held : s.assigned t p) (change : bits w 31 1 ≠ s.rg (MEM_PASS_EN t p)) :
    s.memPass t p w = (s.ackErr (MEM_PASS_ERR t p) (bit w 30)).wr (MEM_PASS_ERR t p) 1 := by
  rw [← State.assigned_ackErr (assigned_ne_passErr t p) s (bit w 30)] at held
  rw [← State.ackErr_other (passEn_ne_passErr t p) s (bit w 30)] at change
  exact (if_pos held).trans (if_neg change)

/-! ## Pages -/

theorem assigned_ne_tstoreErr (t p : Nat) : (MAP_ASSIGNED t p).key ≠ (TSTORE_CTRL_ERR t).key := by
  simp only [Fld.key, MAP_ASSIGNED, TSTORE_CTRL_ERR]
  omega

theorem tstorePages_ne_tstoreErr (t : Nat) : (TSTORE_CTRL_PAGES t).key ≠ (TSTORE_CTRL_ERR t).key :=
  Fld.key_ne_of_lo (by decide : 0 ≠ 31)

theorem State.tstorePages_reserved (reserved : 128 < bits w 0 8) :
    s.tstorePages t w = s.ackErr (TSTORE_CTRL_ERR t) (bit w 31) := if_pos reserved

/-- No page frame goes, and no slice is there whose rows could: the pages wait for the boundary. -/
theorem State.tstorePages_staged (legal : bits w 0 8 ≤ 128) (more : s.rg (TSTORE_CTRL_PAGES t) ≤ bits w 0 8)
    (free : ∀ p < 17, ¬ s.assigned t p) : s.tstorePages t w =
      (s.ackErr (TSTORE_CTRL_ERR t) (bit w 31)).onTer t fun r => { r with pagesNext := some (bits w 0 8) } := by
  rw [← State.ackErr_other (tstorePages_ne_tstoreErr t) s (bit w 31)] at more
  refine (if_neg (Nat.not_lt.2 legal)).trans (if_neg fun refused => ?_)
  rcases Bool.or_eq_true_iff.1 refused with clash | hot
  · obtain ⟨p, hp, held⟩ := List.any_eq_true.1 clash
    refine free p (List.mem_range.1 hp) ?_
    rw [← State.assigned_ackErr (assigned_ne_tstoreErr t p) s (bit w 31)]
    exact (Bool.and_eq_true_iff.1 held).1
  · obtain ⟨f, -, goes⟩ := List.any_eq_true.1 hot
    have range := of_decide_eq_true (Bool.and_eq_true_iff.1 goes).1
    exact absurd (Nat.lt_of_le_of_lt range.1 range.2) (Nat.not_lt.2 more)

end Sys2Proof.Machine
end

section
/-! CERTIFICATE. Slots fill and empty, link rows and credits arrive, pass-through and pages are written (O16). -/

namespace Sys2Proof.Machine

/-- Settles O16: the slot's events, the row that arrives in each of its cases, the credit, and the two register writes. -/
theorem slotsLinksAndPages : Obligations.SlotsLinksAndPages := by
  refine ⟨fun s st k => ⟨fun en unheld empty => ?_, fun held => ?_, fun stream full => ⟨fun last => ?_, fun fewer => ?_⟩⟩,
    fun s st up => ⟨fun cyc q r rest c next sent => ⟨fun own free phase => ?_, fun pass room => ?_, ?_⟩,
      fun cyc => ⟨rfl, fun own => ?_⟩, ⟨_, rfl, rfl, rfl, ?_, ?_⟩⟩,
    fun s => ⟨fun st w free => ?_, fun st w held change => ?_, fun t w legal more free => ?_, fun t w reserved => ?_⟩⟩
  · exact ⟨_, congrArg Host.Outcome.next (State.slotSet_empty en unheld empty), State.setPresent_present ..,
      State.setPresent_released .., s.onlyRegs_wrs (slotFilled st.t.val st.p.val k.val)⟩
  · exact ⟨congrArg Host.Outcome.next (State.slotSet_held held), congrArg Host.Outcome.next (State.release_held held false)⟩
  · have cleared := (State.release_stream stream full false).trans (if_pos (Nat.le_of_eq last.symm))
    refine ⟨_, congrArg Host.Outcome.next cleared, ?_, ?_⟩
    · exact State.clearPresent_present ..
    · exact State.wrs_mem ..
  · have counted := (State.release_stream stream full false).trans (if_neg (Nat.not_le.2 fewer))
    refine ⟨_, congrArg Host.Outcome.next counted, ?_, ?_⟩
    · exact (State.countRelease_present ..).trans full
    · exact State.countRelease_released fewer
  · have written := (State.linkRow_sent next sent false cyc.toNat).trans ((if_neg Bool.false_ne_true).trans
      ((if_neg own).trans (if_neg free)))
    refine ⟨_, congrArg Host.Outcome.next written, ?_, fun last => ?_, ?_, fun k outside => ?_⟩
    · exact State.acceptRow_ld (s := s.takeRow q (!up) rest) phase ..
    · exact State.acceptRow_present last ..
    · rw [State.acceptRow_stn (s := s.takeRow q (!up) rest) phase]
      exact State.takeRow_link sent
    · exact State.acceptRow_outside (s := s.takeRow q (!up) rest) phase _ _ outside
  · have apart := adjacent_key_ne st.p.isLt next
    have sentOn := (State.linkRow_sent next sent false cyc.toNat).trans ((if_neg Bool.false_ne_true).trans
      ((if_pos pass).trans (if_neg (Nat.not_le.2 room))))
    refine ⟨_, congrArg Host.Outcome.next sentOn, State.forwardRow_rows apart _, ?_, rfl, rfl⟩
    rw [State.forwardRow_stn_other apart]
    exact State.takeRow_link sent
  · exact congrArg Host.Outcome.next ((State.linkRow_sent next sent true cyc.toNat).trans (if_pos rfl))
  · exact congrArg Host.Outcome.next (State.linkReturn_own own up cyc.toNat)
  · rw [State.stn_onStn, Stn.link_setLink]
  · rw [State.stn_onStn, Stn.link_setLink]
  · refine ⟨_, congrArg Host.Outcome.next (State.memPass_free free w.toNat), ?_, ?_⟩
    · exact (State.rg_wr_same ..).trans (Nat.mod_mod ..)
    · exact State.onlyRegs_wr (s.onlyRegs_ackErr (by simp) _) (by simp) _
  · refine ⟨_, congrArg Host.Outcome.next (State.memPass_assigned held change), ?_, ?_⟩
    · rw [State.on, State.rg_wr_same]
      rfl
    · rw [State.rg_wr_other _ (passEn_ne_passErr _ _), State.ackErr_other (passEn_ne_passErr _ _)]
  · refine ⟨_, congrArg Host.Outcome.next (State.tstorePages_staged legal more free), ?_, ?_, ?_⟩
    · rw [State.ter_onTer]
    · exact State.ackErr_other (tstorePages_ne_tstoreErr t.val) s _
    · exact s.ackErr_mem ..
  · exact ⟨_, congrArg Host.Outcome.next (State.tstorePages_reserved reserved), s.ackErr_ters ..,
      s.onlyRegs_ackErr (List.mem_singleton_self _) _⟩

end Sys2Proof.Machine
end

/-! # Proofs: stations, sets and models (O30, O31) -/

section
/-! SUPPORT. A taken entry of a queue, its completion, and the books of the pool: what each leaves alone (R464, R309). -/

namespace Sys2Proof.Machine

variable {s s1 : State} {q op : Nat} {e : List Byte}

/-! ## The entry taken and its completion -/

/-- Taking an entry changes the list of taken entries alone. -/
theorem State.takeOp_eq (taken : s.takeOp op = some (q, e, s1)) :
    ∃ l, s1 = { s with fw := { s.fw with taken := l } } := by
  unfold State.takeOp at taken
  split at taken
  · exact absurd taken (by simp)
  · obtain ⟨-, -, rfl⟩ : _ ∧ _ ∧ _ = s1 := by simpa using taken
    exact ⟨_, rfl⟩

/-- A vector raised shows at the pins or among the pending bits. -/
theorem State.raise_eq (s : State) (v : Nat) : ∃ p o, s.raise v = { s with fw := { s.fw with pba := p }, out := o } := by
  unfold State.raise
  split
  case isTrue => exact ⟨_, _, rfl⟩
  case isFalse =>
    split
    case isTrue => split <;> exact ⟨_, _, rfl⟩
    case isFalse => exact ⟨_, _, rfl⟩

/-- The completions of a queue pair with one more that waits to be consumed. -/
def QSt.hold (st : QSt) (e : List Byte) : QSt := { st with held := st.held ++ [fitTo 64 e], reserved := st.reserved - 1 }

/-- A completion is held by its queue pair; beside it only the completion ring, its registers and its vector change. -/
theorem State.complete_eq (s : State) (q : Nat) (e : List Byte) : ∃ regs mem p o, s.complete q e =
    { s with regs := regs, mem := mem, out := o
             fw := { s.fw with pba := p, queues := s.fw.queues.set q ((s.fw.queues.get q {}).hold e) {} } } := by
  unfold State.complete
  dsimp only
  split
  case isTrue =>
    unfold State.cqWrite
    dsimp only
    split
    case isTrue =>
      obtain ⟨p, o, raised⟩ := State.raise_eq _ (1 + q)
      exact ⟨_, _, p, o, raised⟩
    case isFalse => exact ⟨_, _, _, _, rfl⟩
  case isFalse => exact ⟨_, _, _, _, rfl⟩

theorem State.stamp_congr {t : State} (regs : t.regs = s.regs) : t.stamp = s.stamp := by
  simp only [State.stamp, State.moduleIndex, State.rg_congr regs]

/-- A completion stamped as in `s`, of queue pairs that are those of `s`, is the one new completion since `s`. -/
theorem State.completed_complete {t u : State} (queues : t.fw.queues = s.fw.queues) (stamp : u.stamp = s.stamp)
    (q op status handle value tag layer : Nat) : s.completed (t.complete q (u.cmdCompletion op status handle value tag layer)) q
      (s.cmdCompletion op status handle value tag layer) := by
  obtain ⟨regs, mem, p, o, done⟩ := t.complete_eq q (u.cmdCompletion op status handle value tag layer)
  rw [State.completed, done, queues, State.cmdCompletion, stamp]
  exact congrArg QSt.held (KMap.get_set_same ..)

theorem State.complete_pool (s : State) (q : Nat) (e : List Byte) : (s.complete q e).pool = s.pool := by
  obtain ⟨regs, mem, p, o, done⟩ := s.complete_eq q e
  rw [done]

theorem State.complete_loader (s : State) (q : Nat) (e : List Byte) : (s.complete q e).loader = s.loader := by
  obtain ⟨regs, mem, p, o, done⟩ := s.complete_eq q e
  rw [done]

theorem State.complete_taken (s : State) (q : Nat) (e : List Byte) : (s.complete q e).fw.taken = s.fw.taken := by
  obtain ⟨regs, mem, p, o, done⟩ := s.complete_eq q e
  rw [done]

/-! ## The books of the pool -/

/-- What a write of a field leaves alone, the books do: they write the counts of the clients and of the pool. -/
theorem State.proj_books {α : Type} {g : State → α} (hg : ∀ s f v, g (State.wr s f v) = g s) (s : State) :
    g s.books = g s :=
  (State.proj_wrs hg _ _).trans
    (foldl_of (P := fun u => g u = g s) rfl fun _ _ same => (State.proj_wrs hg _ _).trans same)

theorem State.books_loader (s : State) : s.books.loader = s.loader := State.proj_books (g := State.loader) (fun _ _ _ => rfl) s

theorem State.books_dict (s : State) : s.books.dict = s.dict := State.proj_books (g := State.dict) (fun _ _ _ => rfl) s

theorem State.books_fw (s : State) : s.books.fw = s.fw := State.proj_books (g := State.fw) (fun _ _ _ => rfl) s

theorem State.books_pool (s : State) : s.books.pool = s.pool := State.proj_books (g := State.pool) (fun _ _ _ => rfl) s

/-! ## A model dropped -/

/-- A page of one of a model's layers. -/
def Model.owns (m : Model) (p : PageRec) : Bool := p.client == m.client && m.layers.any fun l => m.lkey l.layer == p.layer

theorem Model.owns_iff {m : Model} {p : PageRec} :
    m.owns p = true ↔ p.client = m.client ∧ ∃ l ∈ m.layers, m.lkey l.layer = p.layer := by
  simp [Model.owns]

/-- A model goes from the pool with its pages, also from the promotion queue. -/
theorem State.dropModel_pool (s : State) (m : Model) : ∃ queue, (s.dropModel m).pool =
    { s.pool with pages := s.pool.pages.filter fun p => !m.owns p, queue := queue
                  models := s.pool.models.filter fun x => x.handle != m.handle } := by
  have dropped (f : PageRec → Bool) : ∃ queue, (s.dropPages f).pool =
      { s.pool with pages := s.pool.pages.filter fun p => !f p, queue := queue } :=
    ⟨_, (State.books_pool _).trans rfl⟩
  obtain ⟨queue, pages⟩ := dropped m.owns
  refine ⟨queue, (State.books_pool _).trans ?_⟩
  split <;> exact congrArg (fun p : Pool => { p with models := p.models.filter fun x => x.handle != m.handle }) pages

/-- Beside registers it is the pool alone that changes. -/
theorem State.dropModel_fw (s : State) (m : Model) : (s.dropModel m).fw = s.fw := by
  have pages (f : PageRec → Bool) : (s.dropPages f).fw = s.fw := (State.books_fw _).trans rfl
  unfold State.dropModel
  extract_lets t pool
  have kept : t.fw = s.fw := pages m.owns
  clear_value t
  rw [State.books_fw]
  split <;> exact (State.wrs_fw ..).trans kept

end Sys2Proof.Machine
end

section
/-! CERTIFICATE. A model that no set binds goes, a set that may leave is marked, and what is not there is refused (O31). -/

namespace Sys2Proof.Machine

variable {s s1 : State} {q : Nat} {e : List Byte}

/-- A DELETE of a handle that names nothing is refused (R464). -/
theorem State.deleteModel_unknown (taken : s.takeOp 4 = some (q, e, s1)) (unknown : s1.model? (leAt e 32 4) = none) :
    s.deleteModel = s1.complete q (s1.cmdCompletion 4 stBadDescriptor (leAt e 32 4) 0 (leAt e 16 8) 0xFFFF) := by
  simp only [State.deleteModel, taken, unknown]

/-- A DELETE of a model that no set binds drops it (R464). -/
theorem State.deleteModel_unbound (taken : s.takeOp 4 = some (q, e, s1)) {m : Model} (stored : s1.model? (leAt e 32 4) = some m)
    (unbound : (s1.loader.sets.any fun x => x.binds.any fun b => b.model == leAt e 32 4) = false) : s.deleteModel =
      (s1.dropModel m).complete q (s1.cmdCompletion 4 stOk (leAt e 32 4) 0 (leAt e 16 8) 0xFFFF) := by
  simp only [State.deleteModel, taken, stored, unbound, Bool.false_eq_true, if_false]

/-- A REMOVE of a handle that names nothing is refused (R464). -/
theorem State.removeReq_unknown (taken : s.takeOp 3 = some (q, e, s1))
    (unknown : s1.loader.sets.find? (fun y => y.handle == leAt e 32 4) = none) :
    s.removeReq = s1.complete q (s1.cmdCompletion 3 stBadDescriptor (leAt e 32 4) 0 (leAt e 16 8) 0xFFFF) := by
  simp only [State.removeReq, taken, unknown]

/-- A set that is not yet marked, and is no fallback of a main set that stays (R319), is marked to leave at the next
boundary (R143). -/
theorem State.removeReq_leaves (taken : s.takeOp 3 = some (q, e, s1)) {x : ProgSet}
    (placed : s1.loader.sets.find? (fun y => y.handle == leAt e 32 4) = some x) (flags : leAt e 1 1 = 0)
    (stays : x.removeTag = none) (noMain : x.cls = 1 → ∀ y ∈ s1.loader.sets, y.stream = x.stream → y.cls = 0 →
      y.period = x.period → y.removeTag.isSome) : s.removeReq = { s1 with loader := { s1.loader with
        sets := s1.loader.sets.map fun y =>
          if y.handle = leAt e 32 4 then { y with removeTag := some (q, leAt e 16 8) } else y } } := by
  have may : ¬ (x.cls == 1 && s1.loader.sets.any fun y => y.stream == x.stream && y.cls == 0 && y.removeTag.isNone &&
      y.period == x.period) = true := by
    simp only [Bool.and_eq_true, List.any_eq_true, beq_iff_eq, Option.isNone_iff_eq_none]
    rintro ⟨fallback, y, there, ⟨⟨stream, main⟩, unmarked⟩, period⟩
    simpa [unmarked] using noMain fallback y there stream main period
  simp only [State.removeReq, taken, placed]
  exact if_neg (by simp [flags, stays, may])

/-- Settles O31: DELETE of a model and of nothing, REMOVE of a set and of nothing. -/
theorem modelsAndSetsAreRemoved : Obligations.ModelsAndSetsAreRemoved := by
  refine fun s s1 q e => ⟨fun taken => ?_, fun taken => ?_⟩ <;> obtain ⟨l, rfl⟩ := State.takeOp_eq taken
  · refine ⟨fun m stored unbound => ?_, fun unknown => ?_⟩
    · obtain ⟨queue, pool⟩ := State.dropModel_pool { s with fw := { s.fw with taken := l } } m
      have fw := State.dropModel_fw { s with fw := { s.fw with taken := l } } m
      refine ⟨_, congrArg Host.Outcome.next (State.deleteModel_unbound taken stored unbound), ?_, ?_, fun p left => ?_, ?_⟩
      · rw [State.complete_pool, pool]
      · rw [State.complete_taken, fw]
      · rw [State.complete_pool, pool] at left
        obtain ⟨there, other⟩ := List.mem_filter.1 left
        exact ⟨there, fun owned => by simp [Model.owns_iff.2 owned] at other⟩
      · exact State.completed_complete (congrArg Fw.queues fw) (State.stamp_congr rfl) ..
    · exact ⟨_, congrArg Host.Outcome.next (State.deleteModel_unknown taken unknown), State.complete_pool ..,
        State.completed_complete rfl (State.stamp_congr rfl) ..⟩
  · refine ⟨fun x placed flags stays noMain => ?_, fun unknown => ?_⟩
    · exact ⟨_, congrArg Host.Outcome.next (State.removeReq_leaves taken placed flags stays noMain), rfl, rfl, rfl, rfl⟩
    · exact ⟨_, congrArg Host.Outcome.next (State.removeReq_unknown taken unknown), State.complete_loader ..,
        State.completed_complete rfl (State.stamp_congr rfl) ..⟩

end Sys2Proof.Machine
end

section
/-! SUPPORT. What an address error leaves as it is (R23, R517): all that PLACE goes by. -/

namespace Sys2Proof.Machine

/-- The registers in which an address error shows. -/
def addrErrKeys : List Nat := [INT_ADDR_ERR.key, INT_EVENT_ACCESS.key]

/-- Fields in one place lie in one word. -/
theorem Fld.off_of_key {f g : Fld} (lowF : f.lo < 32) (lowG : g.lo < 32) (same : f.key = g.key) : f.off = g.off := by
  unfold Fld.key at same
  omega

/-- A field of another word than the two in which an address error shows is neither of them. -/
theorem notMem_addrErrKeys {f : Fld} (low : f.lo < 32) (count : f.off ≠ INT_ADDR_ERR.off) (event : f.off ≠ INT_EVENT_ACCESS.off) :
    f.key ∉ addrErrKeys := by
  intro mem
  rcases List.mem_cons.1 mem with same | mem
  · exact count (Fld.off_of_key low (by decide) same)
  · exact event (Fld.off_of_key low (by decide) (List.mem_singleton.1 mem))

/-- The part of a state beside its registers that a taken entry and an address error do not reach. -/
def State.unerred (s : State) : State := { s with regs := [], fw := {}, out := [] }

/-- From `a` to `s` entries have been taken and address errors counted, no more. -/
structure AddrErred (a s : State) : Prop where
  field : ∀ f : Fld, f.key ∉ addrErrKeys → s.rg f = a.rg f
  queues : s.fw.queues = a.fw.queues
  rest : s.unerred = a.unerred

namespace AddrErred

variable {a s t : State}

theorem refl (a : State) : AddrErred a a := ⟨fun _ _ => rfl, rfl, rfl⟩

/-- An update of fields that `AddrErred` does not speak of. -/
theorem keep (h : AddrErred a s) (regs : t.regs = s.regs) (queues : t.fw.queues = s.fw.queues) (rest : t.unerred = s.unerred) :
    AddrErred a t :=
  ⟨fun f hf => (State.rg_congr regs f).trans (h.field f hf), queues.trans h.queues, rest.trans h.rest⟩

theorem wr (h : AddrErred a s) {f : Fld} (hf : f.key ∈ addrErrKeys) (v : Nat) : AddrErred a (s.wr f v) :=
  ⟨fun g hg => (State.rg_wr_other (g := g) (f := f) s (fun same => hg (same ▸ hf)) v).trans (h.field g hg), h.queues, h.rest⟩

theorem raise (h : AddrErred a s) (v : Nat) : AddrErred a (s.raise v) := by
  obtain ⟨p, o, raised⟩ := s.raise_eq v
  rw [raised]
  exact h.keep rfl rfl rfl

theorem addrError (h : AddrErred a s) : AddrErred a s.addrError := by
  have shown : AddrErred a ((s.bump INT_ADDR_ERR).wr INT_EVENT_ACCESS 1) :=
    (h.wr (f := INT_ADDR_ERR) (by decide) _).wr (f := INT_EVENT_ACCESS) (by decide) 1
  exact ite_of (fun _ => shown.raise 11) fun _ => shown

theorem spaceErr (h : AddrErred a s) (paddr n : Nat) : AddrErred a (s.spaceErr paddr n) :=
  ite_of (fun _ => h) fun _ => h.addrError

theorem takeOp {op q : Nat} {e : List Byte} (taken : a.takeOp op = some (q, e, s)) : AddrErred a s := by
  obtain ⟨l, rfl⟩ := State.takeOp_eq taken
  exact (refl a).keep rfl rfl rfl

/-- The reads of a PLACE count nothing but address errors. -/
theorem placeReads (h : AddrErred a s) (e : List Byte) : AddrErred a (s.placeReads e) :=
  foldl_of (P := AddrErred a) (h.spaceErr _ _) fun _ r k => k.spaceErr (leAt r 0 8) (leAt r 8 4)

/-- The same change of the loader on both sides. -/
theorem withLoader (h : AddrErred a s) (l : Loader) : AddrErred { a with loader := l } { s with loader := l } :=
  ⟨h.field, h.queues, congrArg (fun u : State => { u with loader := l }) h.rest⟩

section
variable (h : AddrErred a s)
include h

theorem mem : s.mem = a.mem := (congrArg State.mem h.rest :)

theorem hostMem : s.hostMem = a.hostMem := (congrArg State.hostMem h.rest :)

theorem tide : s.tide = a.tide := (congrArg State.tide h.rest :)

theorem integ : s.integ = a.integ := (congrArg State.integ h.rest :)

theorem dict : s.dict = a.dict := (congrArg State.dict h.rest :)

theorem pool : s.pool = a.pool := (congrArg State.pool h.rest :)

theorem ring : s.ring = a.ring := (congrArg State.ring h.rest :)

theorem loader : s.loader = a.loader := (congrArg State.loader h.rest :)

/-- A field that begins at another bit than the two of an address error reads as before. -/
theorem rg_of_lo {f : Fld} (hf : f.lo % 32 ≠ 0 ∧ f.lo % 32 ≠ 3) : s.rg f = a.rg f :=
  h.field f (by simpa [addrErrKeys] using ⟨Fld.key_ne_of_lo hf.1, Fld.key_ne_of_lo hf.2⟩)

/-! ## The tide -/

theorem stamp : s.stamp = a.stamp := by
  simp only [State.stamp, State.moduleIndex, h.field TIME_NOW (by decide), h.field TIDE_NUM (by decide),
    h.field RING_INDEX_INDEX (by decide), h.field TIME_SYNC_VALID (by decide), h.field TIDE_STATUS_ALIGNED (by decide),
    h.field TIDE_STATUS_LOCK (by decide)]

theorem budgetOf (c : TideCfg) : s.budgetOf c = a.budgetOf c := by
  simp only [State.budgetOf, State.clkNum, State.clkDen, h.field PWR_STATUS_OP (by decide)]

theorem imgCfg (m : Img) : s.imgCfg m = a.imgCfg m := by
  rw [State.imgCfg, h.field TIDE_ACTIVE_SLACK (by decide), State.imgCfg]

theorem periodNow (period : Nat) : s.periodNow period = a.periodNow period := by
  simp only [State.periodNow, State.active, h.tide, h.field TIDE_ACTIVE_SRC (by decide), h.field TIDE_ACTIVE_RATE (by decide),
    h.field TIDE_ACTIVE_SLACK (by decide), h.field TIDE_ACTIVE_PERIOD (by decide)]

theorem feature (i : Nat) : s.feature i = a.feature i := by
  rw [State.feature, h.field FW_FEAT_AGREED (by decide), State.feature]

/-! ## The request -/

theorem ldSpace (paddr n : Nat) : s.ldSpace paddr n = a.ldSpace paddr n := by
  simp only [State.ldSpace, State.hostLd, State.ld, h.mem, h.hostMem]

theorem placeReq (b : List Byte) : s.placeReq b = a.placeReq b := by
  simp only [State.placeReq, h.ldSpace]

theorem setsOf (name : List Byte) (cls period : Nat) : s.setsOf name cls period = a.setsOf name cls period := by
  rw [State.setsOf, h.loader, State.setsOf]

theorem setBad (r : PlaceReq) : s.setBad r = a.setBad r := by
  simp only [State.setBad, h.loader, h.setsOf, h.imgCfg, h.budgetOf]

theorem model? (handle : Nat) : s.model? handle = a.model? handle := by
  rw [State.model?, h.pool, State.model?]

theorem boundLayers (r : PlaceReq) : s.boundLayers r = a.boundLayers r := by
  simp only [State.boundLayers, h.model?]

theorem missingPages (l : List (Model × Layer)) : s.missingPages l = a.missingPages l := by
  rw [State.missingPages, h.pool, State.missingPages]

/-! ## The stations -/

theorem tsRegion (t : Nat) : s.tsRegion t = a.tsRegion t := by
  have apart : (TSTORE_CTRL_PAGES t).key ∉ addrErrKeys := by
    apply notMem_addrErrKeys (by decide : 0 < 32) <;> simp only [TSTORE_CTRL_PAGES, terBase, INT_ADDR_ERR, INT_EVENT_ACCESS] <;> omega
  rw [State.tsRegion, h.field _ apart, State.tsRegion]

theorem fencedAt (t p : Nat) : s.fencedAt t p = a.fencedAt t p := by
  have apart : (INT_STN_FENCED t).key ∉ addrErrKeys := by
    apply notMem_addrErrKeys (by decide : 0 < 32) <;> simp only [INT_STN_FENCED, INT_ADDR_ERR, INT_EVENT_ACCESS] <;> omega
  rw [State.fencedAt, h.field _ apart, State.fencedAt]

theorem taken (t p : Nat) : s.taken t p = a.taken t p := by
  rw [State.taken, h.loader, State.taken]

theorem stationFree (x : Nat) : s.stationFree x = a.stationFree x := by
  simp only [State.stationFree, h.fencedAt, h.taken]

theorem stationBetween (x : Nat) : s.stationBetween x = a.stationBetween x := by
  simp only [State.stationBetween, h.fencedAt, h.taken]

theorem nextFree (link : Bool) (n x : Nat) : s.nextFree link n x = a.nextFree link n x := by
  induction n generalizing x with
  | zero => rfl
  | succ n ih => simp only [State.nextFree, h.stationFree, h.stationBetween, ih]

theorem fitFrom (l : Imgs) (n i x : Nat) : s.fitFrom l n i x = a.fitFrom l n i x := by
  induction n generalizing i x with
  | zero => rfl
  | succ n ih => simp only [State.fitFrom, h.nextFree, ih]

theorem fit (l : Imgs) (pin : Option Nat) : s.fit l pin = a.fit l pin := by
  simp only [State.fit, h.stationFree, h.fitFrom]

theorem spared : AddrErred a.spared s.spared := by
  unfold State.spared
  rw [h.loader]
  exact h.withLoader _

theorem fitFor (r : PlaceReq) : s.fitFor r = a.fitFor r := by
  simp only [State.fitFor, h.fit, h.spared.fit]

theorem tsBad (r : PlaceReq) : s.tsBad r = a.tsBad r := by
  simp only [State.tsBad, h.tsRegion, h.periodNow, h.fitFor]

theorem coversBadRow (r : PlaceReq) (xs : List Nat) : s.coversBadRow r xs = a.coversBadRow r xs := by
  rw [State.coversBadRow, h.integ, State.coversBadRow]

/-! ## Ports -/

theorem visRows (c : Nat) : s.visRows c = a.visRows c := by
  have apart : (VIN_CTX_MOUT_MOW c).key ∉ addrErrKeys := by
    apply notMem_addrErrKeys (by decide : 0 < 32) <;> simp only [VIN_CTX_MOUT_MOW, INT_ADDR_ERR, INT_EVENT_ACCESS] <;> omega
  have oc3 : s.on (VIN_CTX_MOUT_OC3 c) = a.on (VIN_CTX_MOUT_OC3 c) :=
    congrArg (· == 1) (h.rg_of_lo (by decide : 27 ≠ 0 ∧ 27 ≠ 3))
  simp only [State.visRows, State.visLine, oc3, h.field _ apart,
    h.rg_of_lo (f := VIN_CTX_MOUT_MOH c) (by decide : 16 ≠ 0 ∧ 16 ≠ 3),
    h.rg_of_lo (f := VIN_CTX_MOUT_OFMT c) (by decide : 28 ≠ 0 ∧ 28 ≠ 3)]

theorem visOk (b : List Byte) (m : Img) (t : Nat) : s.visOk b m t = a.visOk b m t := by
  simp only [State.visOk, h.visRows, h.tsRegion]

theorem winOk (b : List Byte) (m : Img) (t : Nat) : s.winOk b m t = a.winOk b m t := by
  simp only [State.winOk, State.ringNbr, State.on, h.ring, h.tsRegion, h.field RING_CTRL_MODE (by decide)]

theorem placeBad (r : PlaceReq) (xs : List Nat) : s.placeBad r xs = a.placeBad r xs := by
  simp only [State.placeBad, h.tsRegion, h.imgCfg, h.visOk, h.winOk]

/-! ## The load and the stream -/

theorem setLoad (ph : Nat) (bs : List Binding) : s.setLoad ph bs = a.setLoad ph bs := by
  simp only [State.setLoad, h.model?]

theorem wuse : s.wuse.rg TIER_WUSE = a.wuse.rg TIER_WUSE := by
  rw [State.wuse, State.rg_wr_same, State.wuse, State.rg_wr_same]
  simp only [h.loader, h.setLoad]

end

end AddrErred

end Sys2Proof.Machine
end

section
/-! SUPPORT. The stream that a set gets, with its parameters (R442, R443, R466). -/

namespace Sys2Proof.Machine

variable {s t u : State} {x : ProgSet} {imgs : Imgs}

/-! ## The stream -/

/-- The state with other streams. -/
def State.withStreams (s : State) (l : List Strm) : State := { s with loader := { s.loader with streams := l } }

theorem State.freeRows_congr (loader : t.loader = s.loader) (region : ∀ i, t.tsRegion i = s.tsRegion i) (i n : Nat)
    (own : List (Nat × Nat)) : t.freeRows i n own = s.freeRows i n own := by
  simp only [State.freeRows, loader, region]

theorem State.paramStart_congr (dict : t.dict = s.dict) (name : List Byte) (p : Param) :
    t.paramStart name p = s.paramStart name p := by
  simp only [State.paramStart, dict]

/-- A stream that exists takes the parameters of the set, or has no room for them; which of both, and what it takes, the
loader, the persistent values and the station regions decide. -/
theorem State.streamFor_present {z : Strm} (present : s.strm? x.stream = some z) (loader : t.loader = s.loader)
    (dict : t.dict = s.dict) (region : ∀ i, t.tsRegion i = s.tsRegion i) : ∃ l : Option (List Strm),
      s.streamFor x imgs = l.map s.withStreams ∧ t.streamFor x imgs = l.map t.withStreams := by
  have present' : t.strm? x.stream = some z := by rw [← present, State.strm?, loader, State.strm?]
  simp only [State.streamFor, present, present', Option.bind_some, loader, State.freeRows_congr loader region,
    State.paramStart_congr dict]
  split
  case isTrue =>
    refine ⟨some s.loader.streams, rfl, ?_⟩
    rw [← loader]
    rfl
  case isFalse =>
    split
    case isTrue => exact ⟨none, rfl, rfl⟩
    case isFalse =>
      generalize s.freeRows _ _ _ = row
      cases row with
      | none => exact ⟨none, rfl, rfl⟩
      | some row => exact ⟨some _, rfl, congrArg some (by rw [State.withStreams, loader])⟩

/-- The streams with a new one. -/
def State.openStream (s : State) (name : List Byte) (n : Nat) : State :=
  s.withStreams (s.loader.streams ++ [{ num := n, name := name }])

theorem State.openStream_present (s : State) (name : List Byte) (n : Nat) : ∃ z, (s.openStream name n).strm? name = some z :=
  Option.isSome_iff_exists.1 (by simp [State.strm?, State.openStream, State.withStreams])

/-- A stream that does not exist is opened under a free number first. -/
theorem State.streamFor_absent (absent : s.strm? x.stream = none) :
    s.streamFor x imgs = s.freeStream.bind fun n => (s.openStream x.stream n).streamFor x imgs := by
  cases free : s.freeStream with
  | none => simp [State.streamFor, absent, free]
  | some n =>
    obtain ⟨z, opened⟩ := s.openStream_present x.stream n
    have folded : ({ s with loader := { s.loader with
        streams := s.loader.streams ++ [{ num := n, name := x.stream }] } } : State) = s.openStream x.stream n := rfl
    simp only [State.streamFor, absent, free, folded, opened, Option.map_some, Option.bind_some]

/-- What becomes of a set's stream the loader, the persistent values and the station regions decide; nothing but the streams
changes. -/
theorem State.streamFor_congr (loader : t.loader = s.loader) (dict : t.dict = s.dict) (region : ∀ i, t.tsRegion i = s.tsRegion i)
    (x : ProgSet) (imgs : Imgs) : ∃ l : Option (List Strm),
      s.streamFor x imgs = l.map s.withStreams ∧ t.streamFor x imgs = l.map t.withStreams := by
  cases found : s.strm? x.stream with
  | some z => exact State.streamFor_present found loader dict region
  | none =>
    have found' : t.strm? x.stream = none := by rw [← found, State.strm?, loader, State.strm?]
    have free : t.freeStream = s.freeStream := by rw [State.freeStream, loader, State.freeStream]
    rw [State.streamFor_absent found, State.streamFor_absent found', free]
    cases s.freeStream with
    | none => exact ⟨none, rfl, rfl⟩
    | some n =>
      obtain ⟨z, opened⟩ := s.openStream_present x.stream n
      have same : (t.openStream x.stream n).loader = (s.openStream x.stream n).loader := by
        rw [State.openStream, State.withStreams, loader]
        rfl
      exact State.streamFor_present (s := s.openStream x.stream n) (t := t.openStream x.stream n) opened same dict region

/-- A set that gets its stream changes the streams alone. -/
theorem State.streamFor_eq (given : s.streamFor x imgs = some u) : ∃ l, u = s.withStreams l := by
  obtain ⟨l, streams, -⟩ := State.streamFor_congr (s := s) (t := s) rfl rfl (fun _ => rfl) x imgs
  cases l with
  | none => exact absurd (given.symm.trans streams) (by simp)
  | some l => exact ⟨l, Option.some.inj (given.symm.trans streams)⟩

theorem State.streamFor_isSome (loader : t.loader = s.loader) (dict : t.dict = s.dict) (region : ∀ i, t.tsRegion i = s.tsRegion i)
    (given : (s.streamFor x imgs).isSome) : (t.streamFor x imgs).isSome := by
  obtain ⟨l, streams, streams'⟩ := State.streamFor_congr loader dict region x imgs
  rw [streams', Option.isSome_map]
  rwa [streams, Option.isSome_map] at given

end Sys2Proof.Machine
end

section
/-! SUPPORT. A PLACE that passes its checks: the set kept for its period, or given its stations (R141 to R144, R466). -/

namespace Sys2Proof.Machine

variable {s s1 t : State} {q : Nat} {e : List Byte} {r : PlaceReq} {bs : List (BindRec × Img × Model × Layer)}

/-! ## The books and the stations' regions -/

/-- The books write below the blocks that follow the pool's. -/
theorem State.rg_books {f : Fld} (h : 0x700000 ≤ f.off) (s : State) : s.books.rg f = s.rg f := by
  refine (State.rg_wrs_other _ _ ?_).trans (List.foldlRecOn (motive := fun u : State => u.rg f = s.rg f) _ _ rfl
    fun u same c hc => (State.rg_wrs_other _ _ ?_).trans same)
  · simp only [List.forall_mem_cons, Fld.key, TIER_FREE, TIER_NFREE]
    refine ⟨?_, ?_, by simp⟩ <;> omega
  · have below := List.mem_range.1 hc
    simp only [List.forall_mem_cons, Fld.key, TIER_CLIENT_DRAM, TIER_CLIENT_NAND, TIER_CLIENT_PINNED, TIER_CLIENT_OLDEST]
    refine ⟨?_, ?_, ?_, ?_, by simp⟩ <;> omega

theorem State.tsRegion_books (s : State) (i : Nat) : s.books.tsRegion i = s.tsRegion i := by
  rw [State.tsRegion, State.rg_books (by simp only [TSTORE_CTRL_PAGES, terBase]; omega), State.tsRegion]

/-! ## The checks -/

/-- The image that names a request's stream, class and period. -/
abbrev PlaceReq.head (r : PlaceReq) : Img := r.imgs.headD (Img.of [])

/-- None of the refusals of a PLACE that come before its stations meets the entry `e` with the request `r` and its layers `bs`,
in the order of the refusals (R141, R143, R287, R316, R466). -/
structure PlacePasses (s : State) (e : List Byte) (r : PlaceReq) (bs : List (BindRec × Img × Model × Layer)) : Prop where
  entry : ¬ (leAt e 1 1 ≠ 0 ∨ ¬ allZero (slice e 2 6) ∨ ¬ allZero (slice e 32 32))
  read : s.placeReq (s.ldSpace (leAt e 8 8) (leAt e 24 8)) = some r
  formed : ¬ (¬ r.imgs.all Img.ok ∨ s.setBad r ∨ s.tsBad r)
  agreed : ¬ ((r.head.cls = 2 ∧ ¬ s.feature 0) ∨ (r.windows.any (fun b => bit (leAt b 4 4) 27) ∧ ¬ s.feature 5))
  timed : (r.imgs.filterMap fun m => m.timeBad (s.budgetOf (s.imgCfg r.head))).head? = none
  layers : s.boundLayers r = some bs
  bound : ¬ (¬ bs.all (fun b => bindOk r.head.cls (if r.head.cls = 2 then (r.tok.headD {}).ph else 1) b.1 b.2.1 b.2.2.2) ∨
    r.binds.any (fun b => decide (2 < (r.binds.filter fun c => c.name == b.name).length)))
  sound : ¬ (bs.any fun b => b.2.2.2.poisoned) = true
  gated : ¬ (2 ≤ r.head.cls ∧ 16 ≤ (s.loader.sets.filter fun x => decide (2 ≤ x.cls ∧ x.state ≠ 3)).length)
  kept : ¬ 4 ≤ (s.loader.sets.filter fun x => x.stream == r.head.stream && x.cls == r.head.cls).length

/-- Address errors change nothing that the refusals go by. -/
theorem PlacePasses.errored (p : PlacePasses s e r bs) (h : AddrErred s t) : PlacePasses t e r bs where
  entry := p.entry
  read := by rw [h.placeReq, h.ldSpace, p.read]
  formed := by rw [h.setBad, h.tsBad]; exact p.formed
  agreed := by rw [h.feature, h.feature]; exact p.agreed
  timed := by rw [h.imgCfg, h.budgetOf]; exact p.timed
  layers := by rw [h.boundLayers, p.layers]
  bound := p.bound
  sound := p.sound
  gated := by rw [h.loader]; exact p.gated
  kept := by rw [h.loader]; exact p.kept

/-! ## The two ways on -/

/-- The loader with one more set. -/
abbrev State.addSet (s : State) (x : ProgSet) : State := { s with loader := { s.loader with sets := s.loader.sets ++ [x] } }

/-- The same set added on both sides. -/
theorem AddrErred.addSet (h : AddrErred s t) (x : ProgSet) : AddrErred (s.addSet x) (t.addSet x) := by
  rw [State.addSet, State.addSet, h.loader]
  exact h.withLoader _

/-- Address errors do not take a set's stream. -/
theorem AddrErred.streamFor_books (h : AddrErred s t) {x : ProgSet} {imgs : Imgs} (given : (s.books.streamFor x imgs).isSome) :
    (t.books.streamFor x imgs).isSome := by
  refine State.streamFor_isSome ?_ ?_ (fun i => ?_) given
  · rw [State.books_loader, State.books_loader, h.loader]
  · rw [State.books_dict, State.books_dict, h.dict]
  · rw [State.tsRegion_books, State.tsRegion_books, h.tsRegion]

/-- The next set gets the handle after `h`. -/
def State.nextHandle (s : State) (h : Nat) : State := { s with loader := { s.loader with nextSet := h % 0xFFFF + 1 } }

/-- The end of a placement on the stations of indices `xs` with no page to promote: the set enters the gatehouse, capture sets
yield, the books follow (R241, R267, R317). -/
def State.seatSet (s : State) (x : ProgSet) (xs : List Nat) : State :=
  ((((s.startPromotion []).nextHandle x.handle).ghSet x true).yieldTo x.handle xs).wuse.readySets.books

theorem State.makeRoom_none (s : State) (n : Nat) : s.makeRoom 0 0 n = some s := by
  cases n <;> simp [State.makeRoom]

/-- The request is for the period in force and finds the stations of indices `xs`, no refusal meets the set `x` that is to be
made of it there, and no page of its layers has to be promoted first (R141, R142, R186, R316, R317, R508). -/
structure PlaceFits (s : State) (r : PlaceReq) (bs : List (BindRec × Img × Model × Layer)) (xs : List Nat) (x : ProgSet) :
    Prop where
  now : s.periodNow r.head.period
  found : s.fitFor r = some xs
  good : s.placeBad r xs = false
  whole : s.coversBadRow r xs = false
  chained : chainBad r.imgs (fun i => (promAt (xs.getD i 0)).1) (s.budgetOf (s.imgCfg r.head)) = none
  present : s.missingPages (bs.map fun b => b.2.2) = []
  light : (s.addSet x).wuse.rg TIER_WUSE ≤ s.rg TIER_WLIMIT

theorem PlaceFits.errored {xs : List Nat} {x : ProgSet} (p : PlaceFits s r bs xs x) (h : AddrErred s t) :
    PlaceFits t r bs xs x where
  now := by rw [h.periodNow, p.now]
  found := by rw [h.fitFor, p.found]
  good := by rw [h.placeBad, p.good]
  whole := by rw [h.coversBadRow, p.whole]
  chained := by rw [h.imgCfg, h.budgetOf, p.chained]
  present := by rw [h.missingPages, p.present]
  light := by rw [(h.addSet x).wuse, h.field TIER_WLIMIT (by decide)]; exact p.light

/-- A request that passes is kept for its period and its entry completes (R144), or its set takes its stations (R142). -/
theorem State.place_passed (taken : s.takeOp 2 = some (q, e, s1)) (reads : s1.placeReads e = t) (p : PlacePasses t e r bs) :
    (¬ t.periodNow r.head.period → ∀ x, x = r.set t.loader.nextSet q (leAt e 16 8) (List.range r.imgs.length) bs 3 → ∀ u y,
      t.streamFor { x with params := [] } r.imgs = some u → u.strm? r.head.stream = some y → ∀ v,
      v = (u.addSet { x with placeTag := none }).nextHandle t.loader.nextSet →
      s.place = v.books.complete q (v.cmdCompletion 2 stOk t.loader.nextSet y.num (leAt e 16 8) 0xFFFF)) ∧
    (∀ xs x, PlaceFits t r bs xs x → x = r.set t.loader.nextSet q (leAt e 16 8) xs bs 1 → ∀ u,
      (t.addSet x).books.streamFor x r.imgs = some u → s.place = u.seatSet x xs) := by
  have passed := State.place.eq_def s
  rw [taken] at passed
  dsimp only at passed
  rw [if_neg p.entry, reads, p.read] at passed
  dsimp only at passed
  rw [if_neg p.formed, if_neg p.agreed, p.timed, p.layers] at passed
  dsimp only at passed
  rw [if_neg p.bound, if_neg p.sound, if_neg p.gated, if_neg p.kept] at passed
  refine ⟨fun later x made u y given named v added => ?_, fun xs x fits made u given => ?_⟩
  · subst made added
    rw [passed, if_pos later, given]
    dsimp only
    rw [named]
    rfl
  · subst made
    rw [passed, if_neg (not_not_intro fits.now), fits.found]
    dsimp only
    rw [if_neg (by simp [fits.good]), if_neg (by simp [fits.whole]), fits.chained]
    dsimp only
    simp only [fits.present, List.any_nil, List.isEmpty_nil, Bool.false_eq_true, if_false, if_true, List.map_nil, List.filter_nil,
      List.length_nil, State.makeRoom_none]
    rw [if_neg (Nat.not_lt.2 fits.light), if_neg (by simp), if_neg (by simp [State.ceilOk]), given]
    rfl

end Sys2Proof.Machine
end

section
/-! CERTIFICATE. A set that passes the checks gets its handle and its stations, or is kept for its period (O30). -/

namespace Sys2Proof.Machine

variable {s t u : State} {x : ProgSet} {xs : List Nat}

/-! ## A set on its stations -/

/-- What a write of a field leaves alone, the entry of a set in the gatehouse's table does. -/
theorem State.proj_ghSet {α : Type} {g : State → α} (hg : ∀ s f v, g (State.wr s f v) = g s) (s : State) (x : ProgSet) :
    g (s.ghSet x true) = g s := by
  unfold State.ghSet
  split
  case isTrue => rfl
  case isFalse =>
    rw [if_pos rfl]
    split
    case h_1 => rfl
    case h_2 => exact State.proj_wrs hg _ _

theorem State.seatSet_fw (u : State) (x : ProgSet) (xs : List Nat) : (u.seatSet x xs).fw = u.fw :=
  (State.books_fw _).trans (State.proj_ghSet (g := State.fw) (fun _ _ _ => rfl) ((u.startPromotion []).nextHandle x.handle) x)

/-- The loader before the sets that yield and those that are ready are marked. -/
theorem State.ghSet_nextHandle_loader (u : State) (x : ProgSet) :
    (((u.startPromotion []).nextHandle x.handle).ghSet x true).loader = { u.loader with nextSet := x.handle % 0xFFFF + 1 } :=
  State.proj_ghSet (g := State.loader) (fun _ _ _ => rfl) ((u.startPromotion []).nextHandle x.handle) x

theorem State.seatSet_nextSet (u : State) (x : ProgSet) (xs : List Nat) :
    (u.seatSet x xs).loader.nextSet = x.handle % 0xFFFF + 1 :=
  (congrArg Loader.nextSet (State.books_loader _)).trans (congrArg Loader.nextSet (u.ghSet_nextHandle_loader x))

/-- The set is no capture set that yields to itself, and waits for no page: it stays as it was made. -/
theorem State.mem_seatSet (made : x ∈ u.loader.sets) (ready : x.state = 1) : x ∈ (u.seatSet x xs).loader.sets := by
  unfold State.seatSet
  rw [State.books_loader]
  have there : x ∈ (((u.startPromotion []).nextHandle x.handle).ghSet x true).loader.sets := by
    rw [State.ghSet_nextHandle_loader]
    exact made
  refine List.mem_map.2 ⟨x, List.mem_map.2 ⟨x, there, ?_⟩, ?_⟩
  · exact if_neg fun yields => yields.2.1 rfl
  · exact if_neg fun waiting => absurd (ready.symm.trans waiting.1) (by decide)

/-- Settles O30: the checks passed, the set is kept for its period or takes its stations. -/
theorem setsArePlaced : Obligations.SetsArePlaced := by
  intro s s1 q e r bs
  refine fun taken flags reserved tail read images set rows tokens neighbours time layers bound perStation sound gate kept => ?_
  have errored : AddrErred s (s1.placeReads e) := (AddrErred.takeOp taken).placeReads e
  have passes : PlacePasses s e r bs :=
    { entry := by simp [flags, reserved, tail]
      read := read
      formed := by simp only [images, set, rows]; decide
      agreed := fun refused => refused.elim (fun h => h.2 (tokens h.1)) fun h => h.2 (neighbours h.1)
      timed := by rw [List.filterMap_eq_nil_iff.2 time]; rfl
      layers := layers
      bound := fun refused => refused.elim (fun h => h bound) fun h => by
        obtain ⟨b, mem, many⟩ := List.any_eq_true.1 h
        exact absurd (perStation b mem) (Nat.not_le.2 (of_decide_eq_true many))
      sound := fun refused => by
        obtain ⟨b, mem, bad⟩ := List.any_eq_true.1 refused
        exact absurd (bad.symm.trans (sound b mem)) (by decide)
      gated := fun refused => absurd (gate refused.1) (Nat.not_lt.2 refused.2)
      kept := Nat.not_le.2 kept }
  obtain ⟨keeps, seats⟩ := State.place_passed taken rfl (passes.errored errored)
  rw [errored.loader] at keeps seats
  refine ⟨fun xs now fit good whole chain present x made ls placed light given => ?_, fun later x made u y given named => ?_⟩
  · subst placed
    have fits : PlaceFits s r bs xs x := ⟨now, fit, good, whole, chain, present, light⟩
    obtain ⟨u, stream⟩ := Option.isSome_iff_exists.1 ((errored.addSet x).streamFor_books given)
    have placed := seats xs x (fits.errored errored) made u stream
    obtain ⟨l, rfl⟩ := State.streamFor_eq stream
    have there : x ∈ (((s1.placeReads e).addSet x).books.withStreams l).loader.sets := by
      simp [State.withStreams, State.books_loader]
    refine ⟨_, congrArg Host.Outcome.next placed, ?_, ⟨x, State.mem_seatSet there ?_, ?_⟩, ?_⟩
    · rw [State.seatSet_nextSet, made]
      rfl
    · rw [made]
      rfl
    · rw [made]
      exact ⟨rfl, rfl, rfl, rfl, rfl, rfl⟩
    · rw [State.seatSet_fw, State.withStreams, State.books_fw]
      exact errored.queues
  · have placed := keeps (by rwa [errored.periodNow]) x made u y given named _ rfl
    obtain ⟨l, rfl⟩ := State.streamFor_eq given
    refine ⟨_, congrArg Host.Outcome.next placed, ?_, ?_⟩
    · rw [State.complete_loader, State.books_loader, ← errored.loader]
      rfl
    · refine State.completed_complete ?_ ?_ ..
      · rw [State.books_fw]
        exact errored.queues
      · rw [← errored.stamp]
        exact State.stamp_congr rfl

end Sys2Proof.Machine
end

/-! # Proofs: the vector unit (O17 to O20)

What a vector register reads after elements are packed into it, what the unit's work leaves alone, and what an issued
instruction adds to it. -/

section
/-! SUPPORT. Lists of equal blocks and the little-endian numbers in them: the elements of a vector register (R188). -/

namespace Sys2Proof.Machine

/-! ## Blocks of one length -/

/-- Block `i` of blocks in a row. -/
theorem slice_flatten_of_forall {α : Type} {n : Nat} {l : List (List α)} (h : ∀ b ∈ l, b.length = n) (i : Nat) :
    slice l.flatten (i * n) n = l.getD i [] := by
  induction l generalizing i with
  | nil => simp [slice]
  | cons b l ih =>
    have first : b.length = n := h b List.mem_cons_self
    cases i with
    | zero => simp [slice, ← first]
    | succ i =>
      rw [List.getD_cons_succ, ← ih (fun c hc => h c (List.mem_cons_of_mem b hc)) i, slice, slice, List.flatten_cons,
        Nat.succ_mul, Nat.add_comm, ← List.drop_drop, List.drop_left' first]

/-- Rows of `n` elements each, in a row. -/
theorem flatten_map_range {α : Type} (f : Nat → Nat → α) (m n : Nat) :
    ((List.range m).map fun i => (List.range n).map (f i)).flatten = (List.range (m * n)).map fun x => f (x / n) (x % n) := by
  induction m with
  | zero => simp
  | succ m ih =>
    rw [List.range_succ, List.map_append, List.flatten_append, ih, Nat.succ_mul, List.range_add, List.map_append, List.map_map]
    congr 1
    simp only [List.map_cons, List.map_nil, List.flatten_cons, List.flatten_nil, List.append_nil]
    refine List.map_congr_left fun j hj => ?_
    have inside : j < n := List.mem_range.1 hj
    simp only [Function.comp_apply]
    rw [Nat.mul_comm m n, Nat.mul_add_div (Nat.zero_lt_of_lt inside), Nat.div_eq_of_lt inside, Nat.add_zero,
      Nat.mul_add_mod, Nat.mod_eq_of_lt inside]

theorem chunks_eq_map_slice {α : Type} (n k : Nat) (l : List α) :
    chunks n k l = (List.range k).map fun i => slice l (n * i) n := by
  induction k generalizing l with
  | zero => rfl
  | succ k ih =>
    rw [chunks, ih, List.range_succ_eq_map, List.map_cons, List.map_map]
    congr 1
    refine List.map_congr_left fun i _ => ?_
    rw [Function.comp_apply, slice, slice, List.drop_drop, Nat.mul_succ, Nat.add_comm]

/-- The elements of a list beside their values. -/
theorem zip_self_map {α β : Type} (f : α → β) (l : List α) : (l.map f).zip l = l.map fun x => (f x, x) := by
  simpa using List.zip_map' (f := f) (g := id) (l := l)

theorem getD_map_range {α : Type} (f : Nat → α) {n i : Nat} (h : i < n) (d : α) : ((List.range n).map f).getD i d = f i := by
  simp [List.getD_eq_getElem?_getD, h]

/-- Padding with the default is not seen. -/
theorem getD_append_replicate {α : Type} (l : List α) (n i : Nat) (d : α) :
    (l ++ List.replicate n d).getD i d = l.getD i d := by
  rw [List.getD_eq_getElem?_getD, List.getD_eq_getElem?_getD]
  rcases Nat.lt_or_ge i l.length with inside | beyond
  · rw [List.getElem?_append_left inside]
  · rw [List.getElem?_append_right beyond, List.getElem?_eq_none beyond, List.getElem?_replicate]
    split <;> rfl

/-- A fold is decided by what its function does with the elements of the list. -/
theorem foldl_congr_mem {α β : Type} {f g : α → β → α} {l : List β} (same : ∀ a, ∀ b ∈ l, f a b = g a b) (i : α) :
    l.foldl f i = l.foldl g i := by
  induction l generalizing i with
  | nil => rfl
  | cons b l ih =>
    rw [List.foldl_cons, List.foldl_cons, same i b List.mem_cons_self]
    exact ih (fun a c hc => same a c (List.mem_cons_of_mem b hc)) _

theorem slice_fitTo {n o k : Nat} {l : List Byte} (inside : o + k ≤ n) (full : n ≤ l.length) :
    slice (fitTo n l) o k = slice l o k := by
  rw [fitTo, Nat.sub_eq_zero_of_le full, zeros, List.replicate_zero, List.append_nil, slice, slice, List.drop_take,
    List.take_take, Nat.min_eq_left (by omega)]

/-! ## Numbers in bytes -/

theorem leNat_natLE (n v : Nat) : leNat (natLE n v) = v % 2 ^ (8 * n) := by
  induction n generalizing v with
  | zero => simp [natLE, leNat, Nat.mod_one]
  | succ n ih =>
    rw [natLE, leNat, ih, BitVec.toNat_ofNat, Nat.mul_succ, Nat.add_comm (8 * n), Nat.pow_add, Nat.mod_mul]

/-! ## Elements -/

/-- The widths of the elements of a view: they fill a register. -/
theorem viewN_mul_viewW (v : Nat) : viewN v * viewW v = 512 := by
  unfold viewN viewW
  split
  · rfl
  · split <;> rfl

theorem length_pack (v : Nat) (l : List Nat) : (pack v l).length = l.length * viewW v := length_flatten_natLE _ l

theorem slice_pack (v : Nat) (l : List Nat) {x : Nat} (h : x < l.length) (d : Nat) :
    slice (pack v l) (x * viewW v) (viewW v) = natLE (viewW v) (l.getD x d) := by
  rw [pack, slice_flatten_of_forall (n := viewW v)]
  · simp [List.getD_eq_getElem?_getD, h]
  · simp only [List.mem_map]
    rintro _ ⟨v, -, rfl⟩
    exact length_natLE ..

/-- The elements of a register in order. -/
theorem State.velems_eq (s : State) (st : StId) (v i : Nat) :
    s.velems st.t.val st.p.val v i = (List.range (viewN v)).map (s.el st v i) := by
  rw [State.velems, elems, chunks_eq_map_slice, List.map_map]
  exact List.map_congr_left fun x _ => by rw [Function.comp_apply, Nat.mul_comm]

/-- Elements packed into a register read back, cut to the view's width. -/
theorem State.el_setVreg_pack (s : State) (st : StId) (v i : Nat) {l : List Nat} (full : viewN v ≤ l.length) (d : Nat) {x : Nat}
    (h : x < viewN v) :
    (s.setVreg st.t.val st.p.val i (pack v l)).el st v i x = l.getD x d % 2 ^ (8 * viewW v) := by
  have whole := viewN_mul_viewW v
  have inside : x * viewW v + viewW v ≤ 512 := by
    rw [← whole, ← Nat.succ_mul]
    exact Nat.mul_le_mul_right _ h
  have long : 512 ≤ (pack v l).length := by
    rw [length_pack, ← whole]
    exact Nat.mul_le_mul_right _ full
  rw [State.el, State.vreg_setVreg_same, slice_fitTo inside long, slice_pack v l (Nat.lt_of_lt_of_le h full) d, leNat_natLE]

end Sys2Proof.Machine
end

section
/-! SUPPORT. An instruction that issues, and the sequencer after it (R152, R173, R190). -/

namespace Sys2Proof.Machine

variable {s u : State} {st : StId}

/-- Fields of different words are in different places. -/
theorem Fld.key_ne_of_off {f g : Fld} (lowF : f.lo < 32) (lowG : g.lo < 32) (h : f.off ≠ g.off) : f.key ≠ g.key :=
  fun same => h (Fld.off_of_key lowF lowG same)

theorem State.rg_bump_same (s : State) (f : Fld) (n : Nat) : (s.bump f n).rg f = (s.rg f + n) % 2 ^ f.w := s.rg_wr_same f _

/-- Words without a mark have nothing to write back. -/
theorem State.writeBack_unmarked {x n : Nat} (h : s.marks x n = []) : s.writeBack x n = s := by
  have kept : (s.ecc.filter fun e => decide (e.1 < x / 8 ∨ x / 8 + n ≤ e.1 ∨ e.2 = 2)) = s.ecc := by
    rw [List.filter_eq_self]
    intro e he
    have outside := List.filter_eq_nil_iff.1 (List.map_eq_nil_iff.1 h) e he
    simp only [decide_eq_true_eq] at outside ⊢
    omega
  rw [State.writeBack, kept]

/-- The instruction that is next issues. -/
theorem State.issue_next {w : Nat} (next : s.nextInsn st w) (cyc : BitVec 23) {is : Nat → Bool} (hw : is w = true)
    (k : Nat → State → State) : s.issue st cyc is k = k w s := by
  obtain ⟨runs, clean, rfl⟩ := next
  simp only [State.issue, runs, clean, not_true, if_false, List.map_nil, List.any_nil, Bool.false_eq_true]
  rw [State.eccStn, List.foldl_nil, State.writeBack_unmarked clean, if_pos hw]

/-! ## The sequencer goes on -/

/-- What the sequencer shows when it goes on at `pc`. -/
def ranFlds (t p pc : Nat) : List (Fld × Nat) := [(SEQ_STATE_STATE t p, 2), (SEQ_STATE_CAUSE t p, 0), (SEQ_STATE_PC t p, pc)]

/-- The sequencer's registers when its instruction has issued. -/
def State.ran (u : State) (t p : Nat) : State :=
  (u.wrs (ranFlds t p (nextPc (u.rg (SEQ_STATE_PC t p)) (u.stn t p).loops).1)).bump (SEQ_INSN t p)

/-- Besides those registers the open loops and the rows moved change. -/
theorem State.advance_eq (u : State) (t p : Nat) : u.advance t p = (u.ran t p).onStn t p fun v =>
    { v with loops := (nextPc (u.rg (SEQ_STATE_PC t p)) (u.stn t p).loops).2, mov := 0 } := rfl

theorem State.ran_stn (u : State) (t p : Nat) : (u.ran t p).stn t p = u.stn t p := by
  rw [State.stn, State.ran, State.bump_stns, State.wrs_stns, State.stn]

theorem State.advance_mem (u : State) (t p : Nat) : (u.advance t p).mem = u.mem := u.wrs_mem _

theorem State.vreg_advance (u : State) (t p i : Nat) : (u.advance t p).vreg t p i = u.vreg t p i := by
  rw [State.vreg, State.advance_eq, State.stn_onStn, State.ran_stn, State.vreg]

/-- The count of instructions is in another word than the sequencer's state. -/
theorem insn_apart (t p pc : Nat) : ∀ q ∈ ranFlds t p pc, (SEQ_INSN t p).key ≠ q.1.key := by
  have apart : stnBase t p + 0x20 ≠ stnBase t p + 0 := by omega
  have ne {f : Fld} (low : f.lo < 32) (off : f.off = stnBase t p + 0) : (SEQ_INSN t p).key ≠ f.key :=
    Fld.key_ne_of_off (by decide : 0 < 32) low (off ▸ apart)
  simp only [ranFlds, List.forall_mem_cons]
  exact ⟨ne (by decide : 29 < 32) rfl, ne (by decide : 24 < 32) rfl, ne (by decide : 0 < 32) rfl, List.forall_mem_nil _⟩

/-- Registers that are not the sequencer's stay. -/
theorem State.rg_advance_other {f : Fld} (h : f.key ∉ seqKeys st) (u : State) :
    (u.advance st.t.val st.p.val).rg f = u.rg f := by
  simp only [List.mem_cons, List.not_mem_nil, not_or, or_false] at h
  obtain ⟨state, cause, pc, insn⟩ := h
  refine (State.rg_wr_other _ insn _).trans (State.rg_wrs_other _ _ ?_)
  simp only [List.forall_mem_cons]
  exact ⟨state, cause, pc, List.forall_mem_nil _⟩

/-- What the sequencer shows reads as it was written. -/
theorem State.rg_advance_ran {t p v : Nat} {f : Fld}
    (h : (f, v) ∈ ranFlds t p (nextPc (u.rg (SEQ_STATE_PC t p)) (u.stn t p).loops).1) :
    (u.advance t p).rg f = v % 2 ^ f.w :=
  (State.rg_wr_other _ (insn_apart t p _ _ h).symm _).trans
    (State.rg_wrs_of_mem (l := ranFlds t p _) (by decide : [29, 24, 0].Nodup) h u)

theorem State.rg_advance_insn (u : State) (t p : Nat) :
    (u.advance t p).rg (SEQ_INSN t p) = (u.rg (SEQ_INSN t p) + 1) % 2 ^ 64 := by
  rw [State.advance_eq, State.onStn_rg, State.ran, State.rg_bump_same, State.rg_wrs_other _ _ (insn_apart t p _)]
  rfl

/-- An instruction whose work has left its sequencer alone goes on when it has issued. -/
theorem State.advance_wentOn (pc : u.rg (SEQ_STATE_PC st.t.val st.p.val) = s.rg (SEQ_STATE_PC st.t.val st.p.val))
    (insn : u.rg (SEQ_INSN st.t.val st.p.val) = s.rg (SEQ_INSN st.t.val st.p.val))
    (loops : (u.stn st.t.val st.p.val).loops = (s.stn st.t.val st.p.val).loops) :
    s.wentOn (u.advance st.t.val st.p.val) st := by
  rw [State.wentOn, ← pc, ← insn, ← loops]
  refine ⟨State.rg_advance_ran (v := 2) ?_, State.rg_advance_ran (v := 0) ?_, State.rg_advance_insn ..,
    State.rg_advance_ran ?_, ?_⟩
  · exact List.mem_cons_self
  · exact List.mem_cons_of_mem _ List.mem_cons_self
  · exact List.mem_cons_of_mem _ (List.mem_cons_of_mem _ List.mem_cons_self)
  · rw [State.advance_eq, State.stn_onStn]

end Sys2Proof.Machine
end

section
/-! SUPPORT. What a vector function does besides its registers (R190, R197, R216), and what it leaves when it has issued. -/

namespace Sys2Proof.Machine

variable {s u a : State} {st : StId}

/-! ## The unit's registers -/

/-- The flag and the counters of the vector unit. -/
def vecCounts (st : StId) : List Nat :=
  [(VEC_STATE_FLAG st.t.val st.p.val).key, (VEC_BUSYCNT st.t.val st.p.val).key, (VEC_NAN st.t.val st.p.val).key,
    (VEC_DIV0 st.t.val st.p.val).key]

theorem VEC_STATE_FLAG_mem (st : StId) : (VEC_STATE_FLAG st.t.val st.p.val).key ∈ vecCounts st := by simp [vecCounts]

theorem VEC_BUSYCNT_mem (st : StId) : (VEC_BUSYCNT st.t.val st.p.val).key ∈ vecCounts st := by simp [vecCounts]

theorem VEC_NAN_mem (st : StId) : (VEC_NAN st.t.val st.p.val).key ∈ vecCounts st := by simp [vecCounts]

theorem VEC_DIV0_mem (st : StId) : (VEC_DIV0 st.t.val st.p.val).key ∈ vecCounts st := by simp [vecCounts]

/-- Neither the sequencer's registers nor the unit's function is among them. -/
theorem notMem_vecCounts (st : StId) {k : Nat} (h : k ∈ (VEC_STATE_FUNC st.t.val st.p.val).key :: seqKeys st) :
    k ∉ vecCounts st := by
  simp only [vecCounts, Fld.key, SEQ_STATE_STATE, SEQ_STATE_CAUSE, SEQ_STATE_PC, SEQ_INSN, VEC_STATE_FUNC, VEC_STATE_FLAG,
    VEC_BUSYCNT, VEC_NAN, VEC_DIV0, List.mem_cons, List.not_mem_nil, or_false] at h ⊢
  omega

/-- The unit's registers are not the sequencer's. -/
theorem notMem_seqKeys (st : StId) {k : Nat} (h : k ∈ (VEC_STATE_FUNC st.t.val st.p.val).key :: vecCounts st) :
    k ∉ seqKeys st := by
  rcases List.mem_cons.1 h with rfl | count
  · simp only [Fld.key, SEQ_STATE_STATE, SEQ_STATE_CAUSE, SEQ_STATE_PC, SEQ_INSN, VEC_STATE_FUNC, List.mem_cons,
      List.not_mem_nil, or_false]
    omega
  · exact fun seq => notMem_vecCounts st (List.mem_cons_of_mem _ seq) count

/-- Flag and counters are in different places. -/
theorem vecCounts_ne (st : StId) :
    (VEC_STATE_FLAG st.t.val st.p.val).key ≠ (VEC_BUSYCNT st.t.val st.p.val).key ∧
    (VEC_STATE_FLAG st.t.val st.p.val).key ≠ (VEC_NAN st.t.val st.p.val).key ∧
    (VEC_STATE_FLAG st.t.val st.p.val).key ≠ (VEC_DIV0 st.t.val st.p.val).key ∧
    (VEC_BUSYCNT st.t.val st.p.val).key ≠ (VEC_DIV0 st.t.val st.p.val).key ∧
    (VEC_NAN st.t.val st.p.val).key ≠ (VEC_DIV0 st.t.val st.p.val).key := by
  simp only [Fld.key, VEC_STATE_FLAG, VEC_BUSYCNT, VEC_NAN, VEC_DIV0]
  omega

/-! ## The unit's work -/

/-- From `a` to `u` the vector unit of `st` has worked: of the registers its flag and counters have changed, of the station its
vector registers. -/
structure VecRan (st : StId) (a u : State) : Prop where
  field : ∀ f : Fld, f.key ∉ vecCounts st → u.rg f = a.rg f
  loops : (u.stn st.t.val st.p.val).loops = (a.stn st.t.val st.p.val).loops
  mem : u.mem = a.mem

namespace VecRan

theorem refl (st : StId) (a : State) : VecRan st a a := ⟨fun _ _ => rfl, rfl, rfl⟩

theorem setVreg (h : VecRan st a u) (i : Nat) (b : List Byte) : VecRan st a (u.setVreg st.t.val st.p.val i b) :=
  ⟨h.field, (congrArg Stn.loops (State.stn_onStn ..)).trans h.loops, h.mem⟩

theorem wr (h : VecRan st a u) {f : Fld} (hf : f.key ∈ vecCounts st) (v : Nat) : VecRan st a (u.wr f v) :=
  ⟨fun g hg => (u.rg_wr_other (fun same => hg (same.symm ▸ hf)) v).trans (h.field g hg), h.loops, h.mem⟩

theorem bump (h : VecRan st a u) {f : Fld} (hf : f.key ∈ vecCounts st) (n : Nat) : VecRan st a (u.bump f n) := h.wr hf _

end VecRan

/-! ## Elements put into a register -/

/-- From `a` to `u` vector register `i` of `st` has taken the elements `f` in view `v`, and no other has changed. -/
structure VecPut (st : StId) (v i : Nat) (f : Nat → Nat) (a u : State) : Prop extends VecRan st a u where
  el : ∀ x < viewN v, u.el st v i x = f x % 2 ^ (8 * viewW v)
  other : ∀ j, j ≠ i → u.vreg st.t.val st.p.val j = a.vreg st.t.val st.p.val j

namespace VecPut

variable {v i : Nat} {f : Nat → Nat}

theorem wr (h : VecPut st v i f a u) {g : Fld} (hg : g.key ∈ vecCounts st) (n : Nat) : VecPut st v i f a (u.wr g n) :=
  ⟨h.toVecRan.wr hg n, h.el, h.other⟩

theorem bump (h : VecPut st v i f a u) {g : Fld} (hg : g.key ∈ vecCounts st) (n : Nat) : VecPut st v i f a (u.bump g n) :=
  h.wr hg _

theorem setVreg (a : State) {l : List Nat} (full : viewN v ≤ l.length) (d : Nat) :
    VecPut st v i (fun x => l.getD x d) a (a.setVreg st.t.val st.p.val i (pack v l)) :=
  ⟨(VecRan.refl st a).setVreg i _, fun _ => State.el_setVreg_pack a st v i full d,
    fun _ h => State.vreg_setVreg_other a _ _ h _⟩

theorem congr {g : Nat → Nat} (h : VecPut st v i f a u)
    (same : ∀ x < viewN v, f x % 2 ^ (8 * viewW v) = g x % 2 ^ (8 * viewW v)) : VecPut st v i g a u :=
  ⟨h.toVecRan, fun x hx => (h.el x hx).trans (same x hx), h.other⟩

/-- Free values that were drawn for the elements do not show. -/
theorem of_free {n : Nat} (h : VecPut st v i f { a with freeCtr := n } u) : VecPut st v i f a u :=
  ⟨⟨h.field, h.loops, h.mem⟩, h.el, h.other⟩

theorem setVreg_range (a : State) (f : Nat → Nat) :
    VecPut st v i f a (a.setVreg st.t.val st.p.val i (pack v ((List.range (viewN v)).map f))) :=
  (setVreg a (by simp) 0).congr fun x hx => by rw [getD_map_range f hx]

theorem vput_range (a : State) (f : Nat → Nat) :
    VecPut st v i f a (a.vput st.t.val st.p.val v i ((List.range (viewN v)).map f)) :=
  (setVreg_range a f).bump (VEC_NAN_mem st) _

end VecPut

/-- The state on which the vector function `f` works once it issues. -/
def State.vecStart (s : State) (st : StId) (f : Nat) : State := s.wr (VEC_STATE_FUNC st.t.val st.p.val) f

/-- The unit's function is not one of its counters. -/
theorem State.rg_vecStart {f : Fld} (hf : f.key ∈ vecCounts st) (s : State) (n : Nat) :
    (s.vecStart st n).rg f = s.rg f :=
  s.rg_wr_other (fun same => notMem_vecCounts st List.mem_cons_self (same ▸ hf)) n

/-! ## The function issued -/

/-- The state after a vector function that has left `u`. -/
def State.vecIssued (u : State) (st : StId) (w : Nat) : State :=
  (u.bump (VEC_BUSYCNT st.t.val st.p.val) (occupancy w)).advance st.t.val st.p.val

theorem State.el_vecIssued (u : State) (st : StId) (w v i x : Nat) : (u.vecIssued st w).el st v i x = u.el st v i x := by
  rw [State.el, State.vecIssued, State.vreg_advance]
  rfl

/-- Of the unit's registers only the count of busy cycles changes. -/
theorem State.rg_vecIssued {f : Fld} (count : f.key ∈ vecCounts st) (other : f.key ≠ (VEC_BUSYCNT st.t.val st.p.val).key)
    (u : State) (w : Nat) : (u.vecIssued st w).rg f = u.rg f :=
  (State.rg_advance_other (notMem_seqKeys st (List.mem_cons_of_mem _ count)) _).trans (State.rg_wr_other _ other _)

theorem State.flag_vecIssued (u : State) (st : StId) (w : Nat) :
    (u.vecIssued st w).on (VEC_STATE_FLAG st.t.val st.p.val) = u.on (VEC_STATE_FLAG st.t.val st.p.val) := by
  obtain ⟨busy, -, -, -, -⟩ := vecCounts_ne st
  rw [State.on, State.rg_vecIssued (VEC_STATE_FLAG_mem st) busy, State.on]

theorem State.div0_vecIssued (u : State) (st : StId) (w : Nat) :
    (u.vecIssued st w).rg (VEC_DIV0 st.t.val st.p.val) = u.rg (VEC_DIV0 st.t.val st.p.val) := by
  obtain ⟨-, -, -, busy, -⟩ := vecCounts_ne st
  exact State.rg_vecIssued (VEC_DIV0_mem st) busy.symm u w

theorem vFunc_of_nextVec {f w : Nat} (next : s.nextVec st f w) : vFunc w = f := by
  obtain ⟨-, -, func, -⟩ := next
  exact func

/-- The vector function that is next issues. -/
theorem State.vecIssue_next {f w : Nat} (next : s.nextVec st f w) (cyc : BitVec 23) (k : Nat → State → State) :
    s.vecIssue st cyc f k = (k w (s.vecStart st f)).vecIssued st w := by
  obtain ⟨insn, op, func, free⟩ := next
  rw [State.vecIssue, State.issue_next insn cyc (by simp [isVec, op, func])]
  simp only [free, Bool.and_false, Bool.false_eq_true, if_false]
  rfl

/-- The sequencer goes on after it, and the memories stay. -/
theorem VecRan.issued {f : Nat} (h : VecRan st (s.vecStart st f) u) (w : Nat) :
    (u.vecIssued st w).rg (VEC_STATE_FUNC st.t.val st.p.val) = f % 2 ^ 8 ∧ s.wentOn (u.vecIssued st w) st ∧
      (u.vecIssued st w).mem = s.mem := by
  have busy := h.bump (VEC_BUSYCNT_mem st) (occupancy w)
  have kept {g : Fld} (hg : g.key ∈ seqKeys st) : (u.bump (VEC_BUSYCNT st.t.val st.p.val) (occupancy w)).rg g = s.rg g :=
    (busy.field g (notMem_vecCounts st (List.mem_cons_of_mem _ hg))).trans
      (s.rg_wr_other (fun same => notMem_seqKeys st List.mem_cons_self (same ▸ hg)) f)
  refine ⟨?_, State.advance_wentOn (kept (by simp)) (kept (by simp)) busy.loops, (State.advance_mem ..).trans busy.mem⟩
  exact (State.rg_advance_other (notMem_seqKeys st List.mem_cons_self) _).trans
    ((busy.field _ (notMem_vecCounts st List.mem_cons_self)).trans (s.rg_wr_same _ f))

/-- A vector function that has put its elements into VD is done when it has issued. -/
theorem VecPut.issued {f w v : Nat} {g : Nat → Nat} (h : VecPut st v (vVd w) g (s.vecStart st f) u)
    (func : vFunc w = f) : s.vecDone (u.vecIssued st w) st w v g := by
  obtain ⟨shown, went, mem⟩ := h.toVecRan.issued w
  refine ⟨fun x hx => (State.el_vecIssued ..).trans (h.el x hx), fun i hi => ?_, shown.trans ?_, went, mem⟩
  · exact (State.vreg_advance ..).trans (h.other i hi)
  · rw [func]
    exact Nat.mod_eq_of_lt (func ▸ Nat.mod_lt _ (by decide))

/-- What a command leaves that issues a vector function. -/
theorem exec_vec {c : Instr} {cyc : BitVec 23} {f w : Nat} {k : Nat → State → State}
    (means : exec c s = .next (s.vecIssue st cyc f k)) (next : s.nextVec st f w) :
    exec c s = .next ((k w (s.vecStart st f)).vecIssued st w) :=
  means.trans (congrArg Host.Outcome.next (State.vecIssue_next next cyc k))

/-- A command that issues a vector function completes with the elements that the function puts into VD. -/
theorem completes_vec {c : Instr} {cyc : BitVec 23} {f w v : Nat} {g : Nat → Nat} {k : Nat → State → State}
    (means : exec c s = .next (s.vecIssue st cyc f k)) (next : s.nextVec st f w)
    (put : VecPut st v (vVd w) g (s.vecStart st f) (k w (s.vecStart st f))) :
    completes c s fun u => s.vecDone u st w v g :=
  ⟨_, exec_vec means next, put.issued (vFunc_of_nextVec next)⟩

/-! ## Elementwise functions -/

/-- An elementwise function puts into VD its value for each element. -/
theorem VecPut.vmap (a : State) (g : Nat → Nat → Nat → Nat → Nat) (w : Nat) : let v := vView w
    VecPut st v (vVd w) (fun x => g v (a.el st v (vVa w) x) (a.el st v (vVb w) x) (a.el st v (vVc w) x)) a (a.vmap st g w) := by
  simp only [State.vmap, State.velems_eq, List.zip_map', List.map_map]
  exact vput_range a _

/-- A command that issues an elementwise function completes with its values in VD. -/
theorem completes_vmap {c : Instr} {cyc : BitVec 23} {f w : Nat} {g : Nat → Nat → Nat → Nat → Nat → Nat}
    (means : exec c s = .next (s.vecIssue st cyc f fun w s => s.vmap st (g w) w)) (next : s.nextVec st f w) : let v := vView w
    completes c s fun u =>
      s.vecDone u st w v fun x => g w v (s.el st v (vVa w) x) (s.el st v (vVb w) x) (s.el st v (vVc w) x) :=
  completes_vec means next (VecPut.vmap (s.vecStart st f) (g w) w)

end Sys2Proof.Machine
end

section
/-! SUPPORT. Arithmetic of the integer views: two's complement, wrapped in INT32, saturated in INT8 (R189). -/

namespace Sys2Proof.Machine

/-- The two's complement reading is the pattern's number but for whole turns. -/
theorem sext_emod (w v : Nat) : sext w v % ((2 ^ w : Nat) : Int) = (v : Int) % ((2 ^ w : Nat) : Int) := by
  unfold sext
  extract_lets u
  have cut : (u : Int) = (v : Int) % ((2 ^ w : Nat) : Int) := Int.natCast_emod v (2 ^ w)
  split
  · rw [cut, Int.emod_emod]
  · rw [cut, Int.sub_emod_right, Int.emod_emod]

/-- An integer that is a number but for whole turns has the number's low bits. -/
theorem toBits_of_emod {w n : Nat} {x : Int} (h : x % ((2 ^ w : Nat) : Int) = (n : Int) % ((2 ^ w : Nat) : Int)) :
    toBits w x = n % 2 ^ w := by
  rw [toBits, h, ← Int.natCast_emod, Int.toNat_natCast]

/-- An integer of the width reads back from its two's complement. -/
theorem sext_toBits_eight {x : Int} (low : -128 ≤ x) (high : x ≤ 127) : sext 8 (toBits 8 x) = x := by
  unfold sext toBits
  extract_lets u
  split <;> omega

/-- Saturation to INT8. -/
theorem sext_patV_int8 (x : Int) : sext 8 (patV 3 x) = max (-128) (min 127 x) := by
  rw [patV, if_neg (by decide)]
  split
  · rw [sext_toBits_eight (by omega) (by omega)]; omega
  · split
    · rw [sext_toBits_eight (by omega) (by omega)]; omega
    · rw [sext_toBits_eight (by omega) (by omega)]; omega

end Sys2Proof.Machine
end

section
/-! CERTIFICATE. The elementwise functions give each element its value (O17). -/

namespace Sys2Proof.Machine

/-- Settles O17: every function through the one rule of elementwise functions, the integer views by two's complement. -/
theorem vectorArithmetic : Obligations.VectorArithmetic := by
  refine ⟨fun s st cyc w => ⟨?_, ?_, ?_, ?_, ?_, ?_, ?_, ?_, ?_, ?_, ?_, ?_, ?_⟩, fun ff a b ha hb => ?_⟩
  · exact completes_vmap (g := fun _ _ a _ _ => a) rfl
  · exact completes_vmap (g := fun _ v a b _ => lift2 Fp.add (· + ·) v a b) rfl
  · exact completes_vmap (g := fun _ v a b _ => lift2 Fp.sub (· - ·) v a b) rfl
  · exact completes_vmap (g := fun _ v a b _ => lift2 Fp.mul (· * ·) v a b) rfl
  · exact completes_vmap (g := fun _ v a b c => lift3 Fp.fma (fun x y z => x * y + z) v a b c) rfl
  · exact completes_vmap (g := fun _ v a b _ => maxV v a b) rfl
  · exact completes_vmap (g := fun _ v a b _ => minV v a b) rfl
  · exact completes_vmap (g := fun w v a _ _ => lift2 Fp.add (· + ·) v a (vImm w)) rfl
  · exact completes_vmap (g := fun w v a _ _ => lift2 Fp.mul (· * ·) v a (vImm w)) rfl
  · exact completes_vmap (g := fun w v a b _ => lift3 Fp.fma (fun x y z => x * y + z) v a (vImm w) b) rfl
  · exact completes_vmap (g := fun w v a _ _ => maxV v a (vImm w)) rfl
  · exact completes_vmap (g := fun _ _ a b c => if c = 0 then b else a) rfl
  · exact completes_vmap (g := fun _ => lerpV) rfl
  · have turns (n : Nat) : sext 32 n % ((2 ^ 32 : Nat) : Int) = (n : Int) % ((2 ^ 32 : Nat) : Int) := sext_emod 32 n
    refine ⟨toBits_of_emod ?_, toBits_of_emod ?_, toBits_of_emod ?_, fun _ _ => ⟨sext_patV_int8 _, sext_patV_int8 _⟩⟩
    · calc (sext 32 a + sext 32 b) % ((2 ^ 32 : Nat) : Int) = ((a : Int) + b) % ((2 ^ 32 : Nat) : Int) := by
            rw [Int.add_emod, turns a, turns b, ← Int.add_emod]
        _ = ((a + b : Nat) : Int) % ((2 ^ 32 : Nat) : Int) := by rw [Int.natCast_add]
    · calc (sext 32 a * sext 32 b) % ((2 ^ 32 : Nat) : Int) = ((a : Int) * b) % ((2 ^ 32 : Nat) : Int) := by
            rw [Int.mul_emod, turns a, turns b, ← Int.mul_emod]
        _ = ((a * b : Nat) : Int) % ((2 ^ 32 : Nat) : Int) := by rw [Int.natCast_mul]
    · calc (sext 32 a - sext 32 b) % ((2 ^ 32 : Nat) : Int) = ((a : Int) - b) % ((2 ^ 32 : Nat) : Int) := by
            rw [Int.sub_emod, turns a, turns b, ← Int.sub_emod]
        _ = ((a + (2 ^ 32 - b) : Nat) : Int) % ((2 ^ 32 : Nat) : Int) := by omega

end Sys2Proof.Machine
end

section
/-! SUPPORT. Division, absolute value, comparison and conversion of elements (R189 to R195). -/

namespace Sys2Proof.Machine

variable {s : State} {st : StId}

theorem vView_lt (w : Nat) : vView w < 4 := Nat.mod_lt _ (by decide)

theorem State.on_wr_b2n (s : State) {f : Fld} (h : f.w = 1) (b : Bool) : (s.wr f (b2n b)).on f = b := by
  rw [State.on, State.rg_wr_same, h]
  cases b <;> rfl

/-! ## Division -/

/-- The divisions by zero of a VDIV. -/
def State.divsByZero (s : State) (st : StId) (w : Nat) : Nat :=
  (List.range (viewN (vView w))).countP fun x =>
    ((decV (vView w) (s.el st (vView w) (vVa w) x)).divz (decV (vView w) (s.el st (vView w) (vVb w) x))).2

/-- The quotients of a VDIV put into VD. -/
def State.quotients (s : State) (st : StId) (w : Nat) : State :=
  s.vmap st (fun v a b _ => encV v ((decV v a).div (decV v b))) w

/-- VDIV counts its divisions by zero and flags them. -/
theorem State.vdiv_eq (s : State) (st : StId) (w : Nat) : s.vdiv st w =
    let u := (s.quotients st w).bump (VEC_DIV0 st.t.val st.p.val) (s.divsByZero st w)
    if s.divsByZero st w = 0 then u else u.wr (VEC_STATE_FLAG st.t.val st.p.val) 1 := by
  simp only [State.vdiv, State.velems_eq, List.zip_map', List.countP_map]
  rfl

theorem VecPut.vdiv (a : State) (w : Nat) : let v := vView w
    VecPut st v (vVd w) (fun x => encV v ((decV v (a.el st v (vVa w) x)).div (decV v (a.el st v (vVb w) x))))
      a (a.vdiv st w) := by
  have counted := (VecPut.vmap (st := st) a (fun v a b _ => encV v ((decV v a).div (decV v b))) w).bump
    (VEC_DIV0_mem st) (a.divsByZero st w)
  rw [State.vdiv_eq]
  exact ite_of (P := VecPut st _ _ _ a) (fun _ => counted) fun _ => counted.wr (VEC_STATE_FLAG_mem st) 1

theorem State.rg_quotients {f : Fld} (h : f.key ≠ (VEC_NAN st.t.val st.p.val).key) (s : State) (w : Nat) :
    (s.quotients st w).rg f = s.rg f := State.rg_wr_other _ h _

theorem State.vdiv_div0 (s : State) (st : StId) (w : Nat) : (s.vdiv st w).rg (VEC_DIV0 st.t.val st.p.val) =
    (s.rg (VEC_DIV0 st.t.val st.p.val) + s.divsByZero st w) % 2 ^ 64 := by
  obtain ⟨-, -, flag, -, nan⟩ := vecCounts_ne st
  have counted : ((s.quotients st w).bump (VEC_DIV0 st.t.val st.p.val) (s.divsByZero st w)).rg (VEC_DIV0 st.t.val st.p.val) =
      (s.rg (VEC_DIV0 st.t.val st.p.val) + s.divsByZero st w) % 2 ^ 64 := by
    rw [State.rg_bump_same, State.rg_quotients nan.symm]
    rfl
  rw [State.vdiv_eq]
  exact ite_of (P := fun u : State => u.rg _ = _) (fun _ => counted) fun _ => (State.rg_wr_other _ flag.symm _).trans counted

theorem State.vdiv_flag (s : State) (st : StId) (w : Nat) : (s.vdiv st w).on (VEC_STATE_FLAG st.t.val st.p.val) =
    (decide (0 < s.divsByZero st w) || s.on (VEC_STATE_FLAG st.t.val st.p.val)) := by
  obtain ⟨-, nan, flag, -, -⟩ := vecCounts_ne st
  rw [State.vdiv_eq]
  extract_lets u
  split
  case isTrue none =>
    have kept : u.rg (VEC_STATE_FLAG st.t.val st.p.val) = s.rg (VEC_STATE_FLAG st.t.val st.p.val) :=
      (State.rg_wr_other _ flag _).trans (State.rg_quotients nan s w)
    rw [State.on, kept, none]
    rfl
  case isFalse some =>
    rw [decide_eq_true (Nat.pos_of_ne_zero some), Bool.true_or]
    exact u.on_wr_b2n rfl true

/-! ## Absolute value -/

/-- The absolute value of an element whose absolute value its view holds. -/
theorem absV_eq {free v a : Nat} (view : v < 4) (held : v = 2 → a ≠ 2 ^ 31) : absV free v a % 2 ^ (8 * viewW v) =
    (if isFp v then a % 2 ^ (8 * viewW v - 1)
      else if v = 2 then (sext 32 a).natAbs else min 127 (sext 8 a).natAbs) % 2 ^ (8 * viewW v) := by
  unfold absV
  split
  case isTrue => rfl
  case isFalse int =>
    rw [if_neg fun h => held h.1 h.2]
    split
    case isTrue word =>
      subst word
      exact congrArg (· % 2 ^ 32) (toBits_of_emod (w := 32) rfl) |>.trans (Nat.mod_mod ..)
    case isFalse byte =>
      obtain rfl : v = 3 := by
        have : v ≠ 0 ∧ v ≠ 1 := by constructor <;> rintro rfl <;> exact int rfl
        omega
      have saturated : patV 3 ((sext 8 a).natAbs : Int) = min 127 (sext 8 a).natAbs := by
        have cut : (if ((sext 8 a).natAbs : Int) > 127 then 127 else ((sext 8 a).natAbs : Int)) =
            ((min 127 (sext 8 a).natAbs : Nat) : Int) := by omega
        have positive : ¬ ((sext 8 a).natAbs : Int) < -128 := by omega
        rw [patV, if_neg (by decide), if_neg positive, cut, toBits_of_emod rfl]
        omega
      exact congrArg (· % 2 ^ 8) saturated

theorem VecPut.vabs (a : State) (w : Nat) (held : vView w = 2 → ∀ x < 128, a.el st (vView w) (vVa w) x ≠ 2 ^ 31) :
    let v := vView w
    VecPut st v (vVd w) (fun x => if isFp v then a.el st v (vVa w) x % 2 ^ (8 * viewW v - 1)
        else if v = 2 then (sext 32 (a.el st v (vVa w) x)).natAbs else min 127 (sext 8 (a.el st v (vVa w) x)).natAbs)
      a (a.vabs st w) := by
  intro v
  have put : VecPut st v (vVd w) (fun x => absV (Config.freeNat (a.freeCtr + x)) v (a.el st v (vVa w) x)) a (a.vabs st w) := by
    simp only [State.vabs, State.velems_eq, List.length_map, List.length_range, zip_self_map, List.map_map]
    exact (VecPut.vput_range { a with freeCtr := a.freeCtr + viewN v } _).of_free
  exact put.congr fun x hx => absV_eq (vView_lt w) fun word => held word x (by rwa [show v = 2 from word] at hx)

/-! ## Comparison -/

theorem State.vcmp_eq (s : State) (st : StId) (w : Nat) : let v := vView w
    let holds (x : Nat) : Bool := cmpV (bits w 0 2) v (s.el st v (vVa w) x) (s.el st v (vVb w) x)
    s.vcmp st w = (s.setVreg st.t.val st.p.val (vVd w) (pack v ((List.range (viewN v)).map fun x =>
      if holds x then 2 ^ (8 * viewW v) - 1 else 0))).wr (VEC_STATE_FLAG st.t.val st.p.val)
        (b2n ((List.range (viewN v)).any holds)) := by
  simp only [State.vcmp, State.velems_eq, List.zip_map', List.map_map, List.any_map]
  rfl

theorem VecPut.vcmp (a : State) (w : Nat) : let v := vView w
    VecPut st v (vVd w) (fun x => if cmpV (bits w 0 2) v (a.el st v (vVa w) x) (a.el st v (vVb w) x) then
      2 ^ (8 * viewW v) - 1 else 0) a (a.vcmp st w) := by
  rw [State.vcmp_eq]
  exact (VecPut.setVreg_range a _).wr (VEC_STATE_FLAG_mem st) _

/-! ## Conversion -/

/-- FP32 to INT32 gives one element for each. -/
theorem VecPut.vcvt (a : State) {w : Nat} (view : vView w = 0) (target : bits w 0 4 = 2) (part : bits w 4 3 = 0) :
    VecPut st (vView w) (vVd w) (fun x => (cvt 0 2 (a.el st (vView w) (vVa w) x)).1) a (a.vcvt st w) := by
  have whole (l b : List Nat) (same : b.length = l.length) : patch b 0 l = l := by
    rw [patch, List.take_zero, List.nil_append, Nat.zero_add, List.drop_of_length_le (Nat.le_of_eq same), List.append_nil]
  simp only [State.vcvt, view, target, part, State.velems_eq, List.map_map, Nat.zero_mul]
  rw [if_pos (by decide), whole _ _ (by simp [elemsBits, cvtBits, viewN, viewW])]
  exact (VecPut.setVreg_range a _).bump (VEC_NAN_mem st) _

end Sys2Proof.Machine
end

section
/-! CERTIFICATE. The functions of one or two values give each element its value (O18). -/

namespace Sys2Proof.Machine

/-- Settles O18: the functions of values through the rule of elementwise functions; VDIV, VABS, VCMP and VCVT through the
elements that each puts into VD. -/
theorem vectorFunctionsRound : Obligations.VectorFunctionsRound := by
  refine ⟨fun s st cyc w => ⟨?_, ?_, ?_, ?_, ?_, ?_, ?_, ?_, ?_, fun next => ?_⟩, fun s st cyc w =>
    ⟨fun next held => ?_, fun next => ?_, fun next view target part => ?_⟩⟩
  · exact completes_vmap (g := fun _ => unary Fp.exp) rfl
  · exact completes_vmap (g := fun _ => unary Fp.exp2) rfl
  · exact completes_vmap (g := fun _ => unary Fp.log2) rfl
  · exact completes_vmap (g := fun _ => unary Fp.rcp) rfl
  · exact completes_vmap (g := fun _ => unary Fp.sqrt) rfl
  · exact completes_vmap (g := fun _ => unary Fp.rsqrt) rfl
  · exact completes_vmap (g := fun _ => unary Fp.sigm) rfl
  · exact completes_vmap (g := fun _ => unary Fp.tanh) rfl
  · exact completes_vmap (g := fun _ v a b _ => encV v ((decV v a).expd (decV v b))) rfl
  · refine ⟨_, exec_vec (k := fun w s => s.vdiv st w) rfl next, (VecPut.vdiv _ w).issued (vFunc_of_nextVec next), ?_, ?_⟩
    · rw [State.div0_vecIssued, State.vdiv_div0, State.rg_vecStart (VEC_DIV0_mem st)]
      rfl
    · rw [State.flag_vecIssued, State.vdiv_flag, State.on, State.rg_vecStart (VEC_STATE_FLAG_mem st)]
      rfl
  · exact completes_vec (k := fun w s => s.vabs st w) rfl next (VecPut.vabs (s.vecStart st 0x07) w held)
  · refine ⟨_, exec_vec (k := fun w s => s.vcmp st w) rfl next, (VecPut.vcmp _ w).issued (vFunc_of_nextVec next), ?_⟩
    rw [State.flag_vecIssued, State.vcmp_eq]
    exact State.on_wr_b2n _ rfl _
  · exact completes_vec (k := fun w s => s.vcvt st w) rfl next (VecPut.vcvt (s.vecStart st 0x20) view target part)

end Sys2Proof.Machine
end

section
/-! SUPPORT. The detection helpers: the elements that VBDEC, VNMS and VTOPK put into their registers (R212 to R215). -/

namespace Sys2Proof.Machine

variable {st : StId}

/-! ## Values of a register -/

/-- The values of a register's FP32 elements. -/
theorem State.velems_decW_getD (s : State) (st : StId) (i : Nat) {x : Nat} (h : x < 128) (d : Fp) :
    ((s.velems st.t.val st.p.val 0 i).map decW).getD x d = decW (s.el st 0 i x) := by
  rw [State.velems_eq, List.map_map]
  exact getD_map_range _ h d

/-! ## Boxes -/

/-- The four numbers that VBDEC gives for box `i` from deltas, anchors and variances. -/
def boxOf (a b c : Nat → Fp) (i : Nat) : Nat → Nat := fun e =>
  let y := decodeAxis (a (4 * i)) (a (4 * i + 2)) (b (4 * i)) (b (4 * i + 2)) (c 0) (c 2) (c 4)
  let z := decodeAxis (a (4 * i + 1)) (a (4 * i + 3)) (b (4 * i + 1)) (b (4 * i + 3)) (c 1) (c 3) (c 4)
  encW (if e = 0 then y.1 else if e = 1 then z.1 else if e = 2 then y.2 else z.2)

theorem VecPut.vbdec (s : State) (w : Nat) :
    VecPut st 0 (vVd w) (fun x => boxOf (fun i => decW (s.el st 0 (vVa w) i)) (fun i => decW (s.el st 0 (vVb w) i))
      (fun i => decW (s.el st 0 (vVc w) i)) (x / 4) (x % 4)) s (s.vbdec st w) := by
  have value (r i : Nat) (h : i < 128) :
      ((s.velems st.t.val st.p.val 0 r).map decW).toArray.getD i fzero = decW (s.el st 0 r i) := by
    rw [Array.getD_eq_getD_getElem?, List.getElem?_toArray, ← List.getD_eq_getElem?_getD, State.velems_decW_getD s st r h]
  have boxes : s.vbdec st w = s.vput st.t.val st.p.val 0 (vVd w) (((List.range 32).map fun i => (List.range 4).map
      (boxOf (fun i => decW (s.el st 0 (vVa w) i)) (fun i => decW (s.el st 0 (vVb w) i))
        (fun i => decW (s.el st 0 (vVc w) i)) i)).flatten) := by
    unfold State.vbdec
    extract_lets t p a b c e
    refine congrArg (fun l : List (List Nat) => s.vput t p 0 (vVd w) l.flatten) (List.map_congr_left fun i hi => ?_)
    have inside : i < 32 := List.mem_range.1 hi
    simp (disch := omega) only [e, a, b, c, t, p, value]
    rfl
  rw [boxes, flatten_map_range]
  exact VecPut.vput_range s _

/-! ## Lists that leave entries of a register unused -/

/-- A list in a register of 128 elements, the entries that it leaves unused at `d`. -/
def padTo128 (l : List Nat) (d : Nat) : List Nat := l ++ List.replicate (128 - l.length) d

theorem le_length_padTo128 (l : List Nat) (d : Nat) : 128 ≤ (padTo128 l d).length := by
  rw [padTo128, List.length_append, List.length_replicate]
  omega

theorem VecPut.setVreg_padded {v : Nat} (words : viewN v = 128) (a : State) (i : Nat) (l : List Nat) (d : Nat) :
    VecPut st v i (fun x => l.getD x d) a (a.setVreg st.t.val st.p.val i (pack v (padTo128 l d))) :=
  (VecPut.setVreg a (words ▸ le_length_padTo128 l d) d).congr fun x _ => by rw [padTo128, getD_append_replicate]

/-! ## Suppression -/

/-- The boxes of `n` registers from register `r` on, four values each (R210). -/
def State.boxes (s : State) (st : StId) (r n : Nat) : List (List Fp) :=
  (List.range (32 * n)).map fun i => (List.range 4).map fun e => decW (s.el st 0 (r + i / 32) (4 * (i % 32) + e))

theorem State.chunks_velems (s : State) (st : StId) (r n : Nat) :
    chunks 4 (32 * n) ((List.range n).map fun i => (s.velems st.t.val st.p.val 0 (r + i)).map decW).flatten = s.boxes st r n := by
  simp only [State.velems_eq, List.map_map]
  rw [show viewN 0 = 128 from rfl, flatten_map_range, chunks_eq_map_slice]
  refine List.map_congr_left fun i hi => ?_
  have inside : i < 32 * n := List.mem_range.1 hi
  rw [slice_map_range _ (by omega)]
  refine List.map_congr_left fun e he => ?_
  have four : e < 4 := List.mem_range.1 he
  rw [Function.comp_apply, show (4 * i + e) / 128 = i / 32 by omega, show (4 * i + e) % 128 = 4 * (i % 32) + e by omega]

/-- The boxes whose score is a number at or above the threshold (R213). -/
def State.nmsEligible (s : State) (st : StId) (w : Nat) : List Nat :=
  let b (x : Nat) : Fp := decW (s.el st 0 (vVb w) x)
  let c (x : Nat) : Fp := decW (s.el st 0 (vVc w) x)
  (List.range (32 * (bits w 32 2 + 1))).filter fun i => !(b i).isNan && !(c 0).isNan && decide ((b i).cmp (c 0) ≥ 0)

/-- The boxes that VNMS keeps (R213, R214). -/
def State.nmsKept (s : State) (st : StId) (w : Nat) : List Nat :=
  nmsGo (decW (s.el st 0 (vVc w) 1)) (s.boxes st (vVa w) (bits w 32 2 + 1)).toArray (if bits w 0 8 = 0 then 128 else bits w 0 8)
    ((s.nmsEligible st w).foldl (fun l i => insertScore (decW (s.el st 0 (vVb w) i), (i : Int)) l) []) []

theorem State.vnms_eq (s : State) (st : StId) (w : Nat) : s.vnms st w =
    (s.setVreg st.t.val st.p.val (vVd w) (pack 2 (padTo128 (s.nmsKept st w) (2 ^ 32 - 1)))).wr
      (VEC_STATE_FLAG st.t.val st.p.val) (b2n (!(s.nmsKept st w).isEmpty)) := by
  have four : bits w 32 2 < 4 := Nat.mod_lt _ (by decide)
  unfold State.vnms
  extract_lets t p nb mx vals boxes sc c ts elig order kept
  have hboxes : boxes = (s.boxes st (vVa w) nb).toArray := congrArg List.toArray (s.chunks_velems st (vVa w) nb)
  have hts : ts = decW (s.el st 0 (vVc w) 0) := s.velems_decW_getD st _ (by decide) _
  have score {i : Nat} (hi : i < 32 * nb) (d : Fp) : sc.getD i d = decW (s.el st 0 (vVb w) i) :=
    s.velems_decW_getD st _ (by omega) d
  have helig : elig = s.nmsEligible st w := by
    refine List.filter_congr fun i hi => ?_
    simp only [score (List.mem_range.1 hi), hts]
  have horder : order = (s.nmsEligible st w).foldl (fun l i => insertScore (decW (s.el st 0 (vVb w) i), (i : Int)) l) [] := by
    rw [← helig]
    refine foldl_congr_mem (fun l i hi => ?_) []
    rw [score (List.mem_range.1 (List.mem_filter.1 hi).1)]
  have hkept : kept = s.nmsKept st w := by
    rw [State.nmsKept, ← horder, ← hboxes, ← s.velems_decW_getD st (vVc w) (by decide) fzero]
  rw [hkept]
  rfl

theorem VecPut.vnms (s : State) (w : Nat) :
    VecPut st 2 (vVd w) (fun x => (s.nmsKept st w).getD x (2 ^ 32 - 1)) s (s.vnms st w) := by
  rw [State.vnms_eq]
  exact (VecPut.setVreg_padded rfl s _ _ _).wr (VEC_STATE_FLAG_mem st) _

theorem State.vnms_flag (s : State) (st : StId) (w : Nat) :
    (s.vnms st w).on (VEC_STATE_FLAG st.t.val st.p.val) = !(s.nmsKept st w).isEmpty := by
  rw [State.vnms_eq]
  exact State.on_wr_b2n _ rfl _

/-- With no score at the threshold no box is kept. -/
theorem State.nmsKept_nil {s : State} {w : Nat} (none : s.nmsEligible st w = []) : s.nmsKept st w = [] := by
  rw [State.nmsKept, none]
  rfl

/-! ## The largest scores -/

/-- The scores of VA with their indices, numbers only, by score, and of them the K first (R215). -/
def State.topScores (s : State) (st : StId) (w : Nat) : List (Fp × Int) :=
  ((((List.range 128).map fun x => (decW (s.el st 0 (vVa w) x), ((bits w 0 16 + x : Nat) : Int))).filter
    fun x => !x.1.isNan).foldl (fun l x => insertScore x l) []).take (bits w 16 7 + 1)

theorem State.vtopk_first {s : State} {w : Nat} (first : bit w 23 = true) : s.vtopk st w =
    (s.setVreg st.t.val st.p.val (vVd w) (pack 2 (padTo128 ((s.topScores st w).map fun x => toBits 32 x.2) (2 ^ 32 - 1)))).setVreg
      st.t.val st.p.val (vVc w) (pack 0 (padTo128 ((s.topScores st w).map fun x => encW x.1) (encW (.inf true)))) := by
  have numbered : ((s.velems st.t.val st.p.val 0 (vVa w)).zip (List.range 128)).map
      (fun x => (decW x.1, ((bits w 0 16 + x.2 : Nat) : Int))) =
      (List.range 128).map fun x => (decW (s.el st 0 (vVa w) x), ((bits w 0 16 + x : Nat) : Int)) := by
    rw [State.velems_eq, show viewN 0 = 128 from rfl, zip_self_map, List.map_map]
    rfl
  simp only [State.vtopk, first, if_true, List.nil_append, numbered, padTo128, List.length_map]
  rfl

theorem toBits_lt (w : Nat) (x : Int) : toBits w x < 2 ^ w := by
  have cut := Int.emod_lt_of_pos x (Int.natCast_pos.2 (Nat.two_pow_pos w))
  rw [toBits]
  omega

/-- The index of an entry, or the mark of one left unused, fits a word. -/
theorem topIndex_lt (l : List (Fp × Int)) (x : Nat) : (l.map fun y => toBits 32 y.2).getD x (2 ^ 32 - 1) < 2 ^ 32 := by
  rw [List.getD_eq_getElem?_getD, List.getElem?_map]
  cases l[x]? with
  | none => exact (by decide : 2 ^ 32 - 1 < 2 ^ 32)
  | some y => exact toBits_lt 32 y.2

/-- VTOPK leaves the indices in VD and the scores in VC. -/
theorem State.vtopk_spec {s : State} {w : Nat} (first : bit w 23 = true) (apart : vVd w ≠ vVc w) :
    VecRan st s (s.vtopk st w) ∧
    (∀ x < 128, (s.vtopk st w).el st 2 (vVd w) x = ((s.topScores st w).map fun y => toBits 32 y.2).getD x (2 ^ 32 - 1)) ∧
    ∀ x < 128, (s.vtopk st w).el st 0 (vVc w) x =
      ((s.topScores st w).map fun y => encW y.1).getD x (encW (.inf true)) % 2 ^ 32 := by
  rw [State.vtopk_first first]
  refine ⟨((VecRan.refl st s).setVreg _ _).setVreg _ _, fun x hx => ?_,
    fun x hx => (VecPut.setVreg_padded (v := 0) rfl _ _ _ _).el x hx⟩
  rw [State.el, State.vreg_setVreg_other _ _ _ apart]
  exact ((VecPut.setVreg_padded (v := 2) rfl s _ _ _).el x hx).trans (Nat.mod_eq_of_lt (topIndex_lt ..))

end Sys2Proof.Machine
end

section
/-! CERTIFICATE. The detection helpers (O20). -/

namespace Sys2Proof.Machine

/-- Settles O20: each helper by the elements that it puts into its registers. -/
theorem detectionHelpers : Obligations.DetectionHelpers := by
  refine fun s st cyc w => ⟨fun next => ?_, fun next => ?_, fun next first apart => ?_⟩
  · exact completes_vec (k := fun w s => s.vbdec st w) rfl next (VecPut.vbdec (s.vecStart st 0x40) w)
  · refine ⟨_, exec_vec (k := fun w s => s.vnms st w) rfl next,
      (VecPut.vnms (s.vecStart st 0x41) w).issued (vFunc_of_nextVec next), ?_, ?_⟩
    · rw [State.flag_vecIssued, State.vnms_flag]
      rfl
    · exact fun none => State.nmsKept_nil (s := s) none
  · obtain ⟨ran, index, score⟩ := State.vtopk_spec (s := s.vecStart st 0x42) first apart
    obtain ⟨-, went, mem⟩ := ran.issued w
    exact ⟨_, exec_vec (k := fun w s => s.vtopk st w) rfl next, went, mem,
      fun x hx => (State.el_vecIssued ..).trans (index x hx), fun x hx => (State.el_vecIssued ..).trans (score x hx)⟩

end Sys2Proof.Machine
end

section
/-! CERTIFICATE. VDW starts each element from its own start value (O19).

Element 32 g + i of VD is channel g of position i. R208 starts its accumulator at element 32 g + i of VC, and so does the
model; the statement starts that of element x at element x / 32 of VC, which is another one for every x but 0. -/

namespace Sys2Proof.Machine

/-- The station of `twoChannelSt`. -/
def firstStn : StId := ⟨0, 0⟩

/-- VDW with VD = 1, VA = 2, VB = 3, VC = 4 and ADVP, window configuration 0. -/
def vdwWord : Nat := 0x1A * 2 ^ 58 + 0x38 * 2 ^ 50 + 1 * 2 ^ 46 + 2 * 2 ^ 42 + 3 * 2 ^ 38 + 4 * 2 ^ 34 + 1

/-- A window configuration of one pixel of two channels and a kernel of one tap, over descriptor 0. -/
def twoChannelRow : List Byte :=
  natLE 2 1 ++ natLE 2 1 ++ natLE 2 2 ++ natLE 2 2 ++ natLE 2 0 ++ natLE 2 8 ++
    [1, 1, 1, 1, 1, 1, 0, 0, 0, 0, 0, 0] ++ natLE 2 1 ++ natLE 2 1 ++ zeros 484

/-- VDW is next over that configuration. The pixel, in activation memory, and the weights are 0; of the start values in VC that
of the second channel's first position, element 32, is 1 and the others are 0. -/
def twoChannelSt : State :=
  ((State.reset.wrs [(SEQ_STATE_STATE 0 0, 2), (SEQ_DESC_WORD 0 0 0, 2 ^ 30), (SEQ_DESC_WORD 0 0 1, 2 ^ 16)]).stN
    (rowAddr 0 0 3 0) 8 vdwWord).onStn 0 0 fun v =>
      { v with wcfg := [(0, twoChannelRow)], vregs := [(4, zeros 128 ++ natLE 4 0x3F800000 ++ zeros 380)] }

/-- The configuration is one that WCFG accepts. -/
theorem twoChannelRow_valid :
    (WinCfg.ofRow twoChannelRow).invalid (twoChannelSt.desc 0 0 0) 1 = none := by decide +kernel

theorem twoChannelSt_next : (∀ r ∈ (twoChannelSt.stn 0 0).waiting, opOf r.word ≠ 2) ∧
    twoChannelSt.nextVec firstStn 0x38 vdwWord := by decide +kernel

/-- The one row that VDW reads is there. -/
theorem twoChannelSt_reads : let c := WinCfg.ofRow ((twoChannelSt.stn 0 0).wcfg.get (bits vdwWord 31 3) (zeros 512))
    let offs (as : List (Nat × Option (Nat × Nat))) : List Nat :=
      (as.filterMap fun a => a.2.map fun x => (a.1, x.1)).eraseDups.map fun a => a.2
    c.kh * c.kw ≤ 32 ∧ twoChannelSt.gather 0 0 (twoChannelSt.desc 0 0 (c.lbd % 8))
      (offs (winReads twoChannelSt firstStn c vdwWord (twoChannelSt.rg (WIN_OPOS 0 0 (bits vdwWord 31 3))))) [] =
        (.ok [], [(0, zeros 512)], twoChannelSt) := by decide +kernel

/-- What VDW leaves in an element of VD. -/
def vdwElement (s : State) (x : Nat) : Option Nat := match execVdw firstStn 0 s with
  | .next u => some (u.el firstStn 0 1 x)
  | _ => none

/-- Element 32 of VD holds the start value of its channel. -/
theorem vdwElement_twoChannelSt : vdwElement twoChannelSt 32 = some 0x3F800000 := by decide +kernel

/-- Refutes O19: VDW of one pixel of two channels leaves 1 in element 32, whose start value is element 32 of VC, where the
statement has 0, from the start value in element 1. -/
theorem not_reductionsAndWindows : ¬ Obligations.ReductionsAndWindows := by
  rintro ⟨-, windows⟩
  obtain ⟨idle, next⟩ := twoChannelSt_next
  obtain ⟨taps, reads⟩ := twoChannelSt_reads
  obtain ⟨vdw, -, -⟩ := windows twoChannelSt firstStn 0 vdwWord [] [(0, zeros 512)] idle
  obtain ⟨u, hu, ⟨el, -⟩, -⟩ := vdw next taps reads
  have run : execVdw firstStn 0 twoChannelSt = .next u := hu
  have one : u.el firstStn 0 1 32 = 0x3F800000 := by
    have computed := vdwElement_twoChannelSt
    rw [vdwElement, run] at computed
    exact Option.some.inj computed
  have zero : u.el firstStn 0 1 32 = 0 := (el 32 (by decide)).trans (by decide +kernel)
  exact absurd (one.symm.trans zero) (by decide)

end Sys2Proof.Machine
end

/-! # Proofs: attention and pages (O21 to O23)

What a number stored in memory reads back as, what a page's entry says after an operation of the page store, how the frames
of a unit are written, and how the running entry of a unit ends. -/

section
/-! SUPPORT. Numbers stored in memory, and what several fields written together read. -/

namespace Sys2Proof.Machine

/-! ## Numbers in memory -/

theorem State.ldN_congr {s t : State} (mem : t.mem = s.mem) (a n : Nat) : t.ldN a n = s.ldN a n := by
  rw [State.ldN, State.ld, mem, State.ldN, State.ld]

/-- A number stored reads back, cut to its bytes. -/
theorem State.ldN_st_natLE (s : State) (a n v : Nat) : (s.st a (natLE n v)).ldN a n = v % 2 ^ (8 * n) := by
  have read := s.ld_st a (natLE n v)
  rw [length_natLE] at read
  rw [State.ldN, read, leNat_natLE]

/-- Bytes read the same where no byte was changed. -/
theorem KMap.bytes_congr {m m' : KMap Byte} {a n : Nat} (same : ∀ k, a ≤ k → k < a + n → m'.get k 0#8 = m.get k 0#8) :
    m'.bytes a n = m.bytes a n := by
  induction n generalizing a with
  | zero => rfl
  | succ n ih =>
    rw [KMap.bytes, KMap.bytes, same a (Nat.le_refl a) (by omega), ih fun k low high => same k (by omega) (by omega)]

/-- A number beside the bytes stored is unchanged. -/
theorem State.ldN_st_apart (s : State) {a n x : Nat} {l : List Byte} (apart : a + n ≤ x ∨ x + l.length ≤ a) :
    (s.st x l).ldN a n = s.ldN a n :=
  congrArg leNat (KMap.bytes_congr fun k low high => s.st_outside x l k (by omega))

/-! ## Fields -/

theorem State.on_wr_one (s : State) {f : Fld} (h : f.w = 1) : (s.wr f 1).on f = true := s.on_wr_b2n h true

theorem State.on_congr {s t : State} {f : Fld} (h : t.rg f = s.rg f) : t.on f = s.on f := by rw [State.on, h, State.on]

/-- Of fields in different places each reads what was written to it, cut to its width. -/
theorem State.rg_wrs_of_apart {l : List (Fld × Nat)} (apart : (l.map fun q => q.1.key).Nodup) {f : Fld} {v : Nat}
    (h : (f, v) ∈ l) (s : State) : (s.wrs l).rg f = v % 2 ^ f.w := by
  induction l generalizing s with
  | nil => exact absurd h List.not_mem_nil
  | cons q l ih =>
    rw [List.map_cons, List.nodup_cons] at apart
    obtain ⟨first, rest⟩ := apart
    rcases List.mem_cons.1 h with rfl | later
    · exact s.rg_wrs_head v l fun r hr same => first (List.mem_map.2 ⟨r, hr, same.symm⟩)
    · exact ih rest later _

end Sys2Proof.Machine
end

section
/-! SUPPORT. The entry of a page, and how an operation of the page store ends (R219, R240). -/

namespace Sys2Proof.Machine

/-! ## Entries of pages -/

theorem b2n_le (b : Bool) : b2n b ≤ 1 := by cases b <;> decide

theorem bit_of_b2n {v i : Nat} {b : Bool} (h : v / 2 ^ i % 2 = b2n b) : bit v i = b := by
  rw [bit, h]
  cases b <;> rfl

section
variable (next ref pin : Nat) (poison alloc pending : Bool)

/-- The references and pins of an entry, its flags and its link, apart. -/
theorem mkInfo_eq : ∃ n < 2 ^ 22, mkInfo next ref pin poison alloc pending = ref % 65536 + pin % 65536 * 2 ^ 16 +
    2 ^ 32 * (b2n poison + 2 * (b2n alloc + 2 * (b2n pending + 2 * (2 ^ 5 * n)))) := by
  refine ⟨next % 2 ^ 22, Nat.mod_lt _ (by decide), ?_⟩
  rw [mkInfo]
  omega

theorem mkInfo_lt : mkInfo next ref pin poison alloc pending < 2 ^ 64 := by
  obtain ⟨n, hn, e⟩ := mkInfo_eq next ref pin poison alloc pending
  have := b2n_le poison
  have := b2n_le alloc
  have := b2n_le pending
  omega

@[simp] theorem iRef_mkInfo : iRef (mkInfo next ref pin poison alloc pending) = ref % 65536 := by
  obtain ⟨n, hn, e⟩ := mkInfo_eq next ref pin poison alloc pending
  rw [e, iRef, bits]
  omega

/-- The flags of an entry, and what stands above them. -/
theorem flags_mkInfo : ∃ m, mkInfo next ref pin poison alloc pending / 2 ^ 32 =
    b2n poison + 2 * (b2n alloc + 2 * (b2n pending + 2 * m)) := by
  obtain ⟨n, -, e⟩ := mkInfo_eq next ref pin poison alloc pending
  exact ⟨2 ^ 5 * n, by omega⟩

@[simp] theorem iPoison_mkInfo : iPoison (mkInfo next ref pin poison alloc pending) = poison := by
  obtain ⟨m, e⟩ := flags_mkInfo next ref pin poison alloc pending
  have := b2n_le poison
  exact bit_of_b2n (by omega)

@[simp] theorem iAlloc_mkInfo : iAlloc (mkInfo next ref pin poison alloc pending) = alloc := by
  obtain ⟨m, e⟩ := flags_mkInfo next ref pin poison alloc pending
  have := b2n_le poison
  have := b2n_le alloc
  exact bit_of_b2n (by omega)

@[simp] theorem iPending_mkInfo : iPending (mkInfo next ref pin poison alloc pending) = pending := by
  obtain ⟨m, e⟩ := flags_mkInfo next ref pin poison alloc pending
  have := b2n_le poison
  have := b2n_le alloc
  have := b2n_le pending
  exact bit_of_b2n (by omega)

end

theorem iRef_lt (v : Nat) : iRef v < 65536 := Nat.mod_lt _ (by decide)

variable {s t : State}

theorem State.infoAddr_congr (base : t.rg PS_INFO_BASE = s.rg PS_INFO_BASE) (g : Nat) : t.infoAddr g = s.infoAddr g := by
  rw [State.infoAddr, base, State.infoAddr]

theorem State.info_congr (base : t.rg PS_INFO_BASE = s.rg PS_INFO_BASE) (mem : t.mem = s.mem) (g : Nat) :
    t.info g = s.info g := by
  rw [State.info, State.infoAddr_congr base, State.ldN_congr mem, State.info]

@[simp] theorem State.setInfo_rg (s : State) (g v : Nat) (f : Fld) : (s.setInfo g v).rg f = s.rg f := id rfl

/-- An entry written reads back. -/
theorem State.info_setInfo (s : State) (g next ref pin : Nat) (poison alloc pending : Bool) :
    (s.setInfo g (mkInfo next ref pin poison alloc pending)).info g = mkInfo next ref pin poison alloc pending := by
  rw [State.info, State.infoAddr_congr (s.setInfo_rg g _ _), State.setInfo, State.stN, State.ldN_st_natLE]
  exact Nat.mod_eq_of_lt (mkInfo_lt ..)

/-- No byte beside the entry changes. -/
theorem State.setInfo_outside (s : State) (g v : Nat) {k : Nat} (h : k < s.infoAddr g ∨ s.infoAddr g + 8 ≤ k) :
    (s.setInfo g v).mem.get k 0#8 = s.mem.get k 0#8 :=
  s.st_outside _ _ k (by rwa [length_natLE])

/-! ## The end of an operation -/

/-- Operation `op` has ended in `u` with status `st`. -/
def State.psEnds (u : State) (op st : Nat) : Prop :=
  u.on PS_RESULT_DONE ∧ u.rg PS_RESULT_STATUS = st ∧ u.rg PS_CMD_OP = op

theorem State.psDone_ends (s : State) {op st : Nat} (hop : op < 8) (hst : st < 256) : (s.psDone op st).psEnds op st := by
  have ended {f : Fld} {v : Nat} (h : (f, v) ∈ [(PS_CMD_OP, op), (PS_RESULT_DONE, 1), (PS_RESULT_STATUS, st)]) :
      (s.psDone op st).rg f = v % 2 ^ f.w := s.rg_wrs_of_mem (by exact (by decide : [27, 31, 22].Nodup)) h
  exact ⟨beq_iff_eq.2 (ended (.tail _ (.head _))), (ended (.tail _ (.tail _ (.head _)))).trans (Nat.mod_eq_of_lt hst),
    (ended (.head _)).trans (Nat.mod_eq_of_lt hop)⟩

/-- The fields that the end of an operation and the operands it carries are read in. -/
def psCmdKeys : List Nat :=
  [PS_CMD_OP.key, PS_CMD_RES.key, PS_CMD_ARG.key, PS_RESULT_DONE.key, PS_RESULT_STATUS.key, PS_RESULT_PPN.key]

theorem State.rg_psDone {f : Fld} (h : f.key ∉ psCmdKeys) (s : State) (op st : Nat) : (s.psDone op st).rg f = s.rg f := by
  simp only [psCmdKeys, List.mem_cons, List.not_mem_nil, or_false, not_or] at h
  obtain ⟨cmd, -, -, done, status, -⟩ := h
  exact s.rg_wrs_other _ (by simp [cmd, done, status])

@[simp] theorem State.psDone_mem (s : State) (op st : Nat) : (s.psDone op st).mem = s.mem := s.wrs_mem _

@[simp] theorem State.psDone_ps (s : State) (op st : Nat) : (s.psDone op st).ps = s.ps := s.wrs_ps _

/-- The operands are taken from `s` to `t`: only they have changed. -/
structure PsTaken (s t : State) : Prop where
  rg : ∀ f : Fld, f.key ∉ psCmdKeys → t.rg f = s.rg f
  mem : t.mem = s.mem
  ps : t.ps = s.ps

theorem PsTaken.wr (s : State) {f : Fld} (h : f.key ∈ psCmdKeys) (v : Nat) : PsTaken s (s.wr f v) :=
  ⟨fun _ hg => s.rg_wr_other (fun same => hg (same.symm ▸ h)) v, rfl, rfl⟩

end Sys2Proof.Machine
end

section
/-! CERTIFICATE. The operations of the page store keep its books and write only their own page (O22). -/

namespace Sys2Proof.Machine

variable {s t : State}

namespace PsTaken

theorem infoBase (h : PsTaken s t) : t.rg PS_INFO_BASE = s.rg PS_INFO_BASE := h.rg _ (by decide)

theorem info (h : PsTaken s t) (g : Nat) : t.info g = s.info g := State.info_congr h.infoBase h.mem g

theorem psAlloc? (h : PsTaken s t) (g : Nat) : t.psAlloc? g = s.psAlloc? g := by
  rw [State.psAlloc?, h.info, h.rg PS_KV_PAGES (by decide), State.psAlloc?]

end PsTaken

/-! ## The free list -/

theorem State.psInit_refused (used : s.rg PS_IN_USE ≠ 0) : s.psInit = s.psDone 0 stBadDescriptor := if_pos (.inl used)

/-- No page is in use or pending: every page is free, and none is reserved. -/
theorem State.psInit_frees (idle : s.rg PS_IN_USE = 0) (none : s.rg PS_PENDING = 0) : s.psInit.psEnds 0 stOk ∧
    s.psInit.rg PS_FREE = s.rg PS_KV_PAGES ∧ s.psInit.rg PS_RESV = 0 ∧ s.psInit.ps.head = 0 ∧ s.psInit.ps.pins = [] := by
  rw [State.psInit, if_neg (by simp [idle, none])]
  have apart : [PS_FREE.key, PS_RESV.key].Nodup := by decide
  refine ⟨State.psDone_ends _ (by decide) (by decide), ?_, ?_, ?_, ?_⟩
  · rw [State.rg_psDone (by decide), State.rg_wrs_of_apart (by exact apart) (.head _)]
    exact Nat.mod_eq_of_lt (s.rg_lt PS_KV_PAGES)
  · rw [State.rg_psDone (by decide), State.rg_wrs_of_apart (by exact apart) (.tail _ (.head _))]
    rfl
  · rw [State.psDone_ps, State.wrs_ps]
  · rw [State.psDone_ps, State.wrs_ps]

/-- The head of the free list with one reference, before the books count it. -/
def State.headTaken (s : State) : State :=
  ({ s with ps := { s.ps with head := iNext (s.info s.ps.head) } }).setInfo s.ps.head (mkInfo 0 1 0 false true false)

/-- The books with the head counted. -/
def State.takenFlds (s : State) (res : Bool) : List (Fld × Nat) :=
  [(PS_FREE, s.rg PS_FREE - 1), (PS_IN_USE, s.rg PS_IN_USE + 1), (PS_RESV, s.rg PS_RESV - b2n res)]

theorem State.takePage_eq (s : State) (res : Bool) : s.takePage res = (s.ps.head, s.headTaken.wrs (s.takenFlds res)) := rfl

theorem State.takenFlds_keys (s : State) (res : Bool) :
    (s.takenFlds res).map (fun q => q.1.key) = [PS_FREE.key, PS_IN_USE.key, PS_RESV.key] := rfl

theorem State.rg_takePage {f : Fld} {v : Nat} {res : Bool} (h : (f, v) ∈ s.takenFlds res) :
    (s.takePage res).2.rg f = v % 2 ^ f.w :=
  State.rg_wrs_of_apart (by rw [State.takenFlds_keys]; decide) h _

theorem State.info_takePage (s : State) (res : Bool) :
    (s.takePage res).2.info s.ps.head = mkInfo 0 1 0 false true false := by
  have base : ∀ q ∈ s.takenFlds res, PS_INFO_BASE.key ≠ q.1.key := fun q hq same =>
    absurd (List.mem_map_of_mem (f := fun q : Fld × Nat => q.1.key) hq) (by rw [State.takenFlds_keys, ← same]; decide)
  rw [State.takePage_eq, State.info_congr (State.rg_wrs_other _ _ base) (State.wrs_mem _ _), State.headTaken,
    State.info_setInfo]

theorem State.psAlloc_refused (none : s.rg PS_RESV = 0) : s.psAlloc true = s.psDone 1 stRefusedMemory :=
  if_pos (.inl ⟨rfl, none⟩)

/-- The head of the free list is taken, with one reference. -/
theorem State.psAlloc_takes {res : Bool} (reserved : res = true → 0 < s.rg PS_RESV)
    (free : res = false → s.rg PS_FREE ≠ s.rg PS_RESV) :
    s.psAlloc res = ((s.takePage res).2.psDone 1 stOk).wr PS_RESULT_PPN s.ps.head := by
  refine if_neg ?_
  cases res
  case false => simpa using free rfl
  case true => simpa using Nat.ne_of_gt (reserved rfl)

theorem State.psAlloc_spec {res : Bool} (reserved : res = true → 0 < s.rg PS_RESV)
    (free : res = false → s.rg PS_FREE ≠ s.rg PS_RESV) (head : s.ps.head < 2 ^ 22) (room : s.rg PS_IN_USE < 2 ^ 22) :
    (s.psAlloc res).psEnds 1 stOk ∧ (s.psAlloc res).rg PS_RESULT_PPN = s.ps.head ∧
      (s.psAlloc res).info s.ps.head = mkInfo 0 1 0 false true false ∧ (s.psAlloc res).rg PS_FREE = s.rg PS_FREE - 1 ∧
      (s.psAlloc res).rg PS_IN_USE = s.rg PS_IN_USE + 1 ∧ (s.psAlloc res).rg PS_RESV = s.rg PS_RESV - b2n res := by
  rw [State.psAlloc_takes reserved free]
  have ended := (s.takePage res).2.psDone_ends (op := 1) (st := stOk) (by decide) (by decide)
  have others {f : Fld} (apart : f.key ∉ psCmdKeys) :
      (((s.takePage res).2.psDone 1 stOk).wr PS_RESULT_PPN s.ps.head).rg f = (s.takePage res).2.rg f :=
    (State.rg_wr_other _ (fun same => apart (by rw [same]; decide)) _).trans (State.rg_psDone apart _ _ _)
  have free := s.rg_lt PS_FREE
  have resv := s.rg_lt PS_RESV
  simp only [PS_FREE, PS_RESV] at free resv
  refine ⟨?_, (State.rg_wr_same _ _ _).trans (Nat.mod_eq_of_lt head), ?_, ?_, ?_, ?_⟩
  · obtain ⟨done, status, op⟩ := ended
    exact ⟨(State.on_congr (State.rg_wr_other _ (by decide) _)).trans done, (State.rg_wr_other _ (by decide) _).trans status,
      (State.rg_wr_other _ (by decide) _).trans op⟩
  · rw [State.info_congr (others (by decide)) (by simp), State.info_takePage]
  · rw [others (by decide), State.rg_takePage (.head _)]
    exact Nat.mod_eq_of_lt (Nat.lt_of_le_of_lt (Nat.sub_le ..) free)
  · rw [others (by decide), State.rg_takePage (.tail _ (.head _))]
    exact Nat.mod_eq_of_lt (show _ < 2 ^ 23 by omega)
  · rw [others (by decide), State.rg_takePage (.tail _ (.tail _ (.head _)))]
    exact Nat.mod_eq_of_lt (Nat.lt_of_le_of_lt (Nat.sub_le ..) resv)

/-! ## The reservation -/

/-- Operation `op` moves the reservation to `n`. -/
theorem State.wr_resv_ends (s : State) {op n : Nat} (hop : op < 8) (room : n < 2 ^ 23) :
    ((s.wr PS_RESV n).psDone op stOk).psEnds op stOk ∧ ((s.wr PS_RESV n).psDone op stOk).rg PS_RESV = n ∧
      ((s.wr PS_RESV n).psDone op stOk).mem = s.mem :=
  ⟨State.psDone_ends _ hop (by decide),
    (State.rg_psDone (by decide) _ _ _).trans ((s.rg_wr_same _ _).trans (Nat.mod_eq_of_lt room)), State.psDone_mem ..⟩

/-! ## Pages -/

/-- An operation on page `g` has ended in `u` with OK: of the memories it has written only the page's own entry, with `v`. -/
structure PageWritten (s u : State) (g v : Nat) : Prop where
  status : u.rg PS_RESULT_STATUS = stOk
  done : u.on PS_RESULT_DONE
  outside : ∀ k, k < s.infoAddr g ∨ s.infoAddr g + 8 ≤ k → u.mem.get k 0#8 = s.mem.get k 0#8
  info : u.info g = v

/-- The entry is written, then the books. -/
theorem PsTaken.pageWritten (h : PsTaken s t) {l : List (Fld × Nat)} (books : ∀ q ∈ l, PS_INFO_BASE.key ≠ q.1.key)
    {op : Nat} (hop : op < 8) (g next ref pin : Nat) (poison alloc pending : Bool) :
    PageWritten s (((t.setInfo g (mkInfo next ref pin poison alloc pending)).wrs l).psDone op stOk) g
      (mkInfo next ref pin poison alloc pending) := by
  obtain ⟨done, status, -⟩ :=
    ((t.setInfo g (mkInfo next ref pin poison alloc pending)).wrs l).psDone_ends hop (st := stOk) (by decide)
  refine ⟨status, done, fun k apart => ?_, ?_⟩
  · rw [State.psDone_mem, State.wrs_mem, t.setInfo_outside g _ (by rwa [State.infoAddr_congr h.infoBase]), h.mem]
  · rw [State.info_congr (State.rg_psDone (by decide) _ _ _) (State.psDone_mem ..),
      State.info_congr (State.rg_wrs_other _ l books) (State.wrs_mem ..), State.info_setInfo]

theorem State.psShare_eq {g : Nat} (used : s.psAlloc? g) (few : iRef (s.info g) < 65535) (kept : iPending (s.info g) = false) :
    s.psShare g = ((s.setInfo g (mkInfo 0 (iRef (s.info g) + 1) (iPin (s.info g)) (iPoison (s.info g)) true false)).wrs
      []).psDone 2 stOk := by
  rw [State.psShare, if_neg (by simp [used, Nat.ne_of_lt few])]
  simp only [kept, Bool.false_eq_true, if_false, State.wrs_nil]

theorem State.psFree_eq {g : Nat} (used : s.psAlloc? g) (some : iRef (s.info g) ≠ 0) :
    s.psFree g = (s.dropRef g).psDone 3 stOk := if_neg (by simp [used, some])

theorem State.dropRef_more {g : Nat} (more : 1 < iRef (s.info g)) : s.dropRef g =
    (s.setInfo g (mkInfo (iNext (s.info g)) (iRef (s.info g) - 1) (iPin (s.info g)) (iPoison (s.info g)) (iAlloc (s.info g))
      (iPending (s.info g)))).wrs [] := if_neg (Nat.ne_of_gt more)

theorem State.dropRef_last {g : Nat} (last : iRef (s.info g) = 1) : s.dropRef g =
    (s.setInfo g (mkInfo 0 0 (iPin (s.info g)) (iPoison (s.info g)) true true)).wrs
      [(PS_IN_USE, s.rg PS_IN_USE - 1), (PS_PENDING, s.rg PS_PENDING + 1)] := if_pos last

theorem State.psPoison_eq {g : Nat} (used : s.psAlloc? g) (v : Bool) : s.psPoison g v =
    ((s.setInfo g (mkInfo (iNext (s.info g)) (iRef (s.info g)) (iPin (s.info g)) v (iAlloc (s.info g))
      (iPending (s.info g)))).wrs []).psDone (if v then 6 else 7) stOk := if_pos used

section
variable {g : Nat} (h : PsTaken s t) (used : s.psAlloc? g)
include h used

theorem PsTaken.shared (few : iRef (s.info g) < 65535) (kept : iPending (s.info g) = false) :
    ∃ i, PageWritten s (t.psShare g) g i ∧ iRef i = iRef (s.info g) + 1 ∧ (t.psShare g).rg PS_IN_USE = s.rg PS_IN_USE := by
  rw [State.psShare_eq ((h.psAlloc? g).trans used) (by rwa [h.info]) (by rwa [h.info]), h.info]
  exact ⟨_, h.pageWritten (by simp) (by decide) .., (iRef_mkInfo ..).trans (Nat.mod_eq_of_lt (by omega)),
    by rw [State.rg_psDone (by decide), State.wrs_nil, State.setInfo_rg, h.rg _ (by decide)]⟩

/-- A reference is dropped, and others are left. -/
theorem PsTaken.freedMore (more : 1 < iRef (s.info g)) : ∃ i, PageWritten s (t.psFree g) g i ∧
    iRef i = iRef (s.info g) - 1 ∧ (t.psFree g).rg PS_PENDING = s.rg PS_PENDING := by
  rw [State.psFree_eq ((h.psAlloc? g).trans used) (by rw [h.info]; omega), State.dropRef_more (by rwa [h.info]), h.info]
  exact ⟨_, h.pageWritten (by simp) (by decide) ..,
    (iRef_mkInfo ..).trans (Nat.mod_eq_of_lt (Nat.lt_of_le_of_lt (Nat.sub_le ..) (iRef_lt _))),
    by rw [State.rg_psDone (by decide), State.wrs_nil, State.setInfo_rg, h.rg _ (by decide)]⟩

/-- The last reference is dropped: the page is pending. -/
theorem PsTaken.freedLast (last : iRef (s.info g) = 1) (room : s.rg PS_PENDING < 2 ^ 22) :
    ∃ i, PageWritten s (t.psFree g) g i ∧ iRef i = 0 ∧ iPending i = true ∧
      (t.psFree g).rg PS_IN_USE = s.rg PS_IN_USE - 1 ∧ (t.psFree g).rg PS_PENDING = s.rg PS_PENDING + 1 := by
  have inUse := s.rg_lt PS_IN_USE
  rw [State.psFree_eq ((h.psAlloc? g).trans used) (by rw [h.info]; omega), State.dropRef_last (by rwa [h.info]), h.info,
    h.rg PS_IN_USE (by decide), h.rg PS_PENDING (by decide)]
  refine ⟨_, h.pageWritten (by simp; decide) (by decide) .., iRef_mkInfo .., iPending_mkInfo .., ?_, ?_⟩
  · rw [State.rg_psDone (by decide), State.rg_wrs_of_apart (by simp; decide) (.head _)]
    exact Nat.mod_eq_of_lt (Nat.lt_of_le_of_lt (Nat.sub_le ..) inUse)
  · rw [State.rg_psDone (by decide), State.rg_wrs_of_apart (by simp; decide) (.tail _ (.head _))]
    exact Nat.mod_eq_of_lt (show _ < 2 ^ 23 by omega)

/-- A page is marked, or its mark taken away; its references stay. -/
theorem PsTaken.poisoned (v : Bool) : ∃ i, PageWritten s (t.psPoison g v) g i ∧
    iPoison i = v ∧ iRef i = iRef (s.info g) := by
  rw [State.psPoison_eq ((h.psAlloc? g).trans used), h.info]
  exact ⟨_, h.pageWritten (by simp) (by cases v <;> decide) .., iPoison_mkInfo ..,
    (iRef_mkInfo ..).trans (Nat.mod_eq_of_lt (iRef_lt _))⟩

end

theorem State.psArg_taken (s : State) (g : Nat) : PsTaken s (s.psArg g) := .wr s (by decide) g

/-- Settles O22: each operation ends with its status, and its page's entry and the books read as it leaves them. -/
theorem pageStore : Obligations.PageStore := by
  unfold Obligations.PageStore
  refine ⟨fun s => ?_, fun s g used => ?_⟩
  · have resvLt := s.rg_lt PS_RESV
    have freeLt := s.rg_lt PS_FREE
    simp only [PS_RESV, PS_FREE] at resvLt freeLt
    have rg (n : BitVec 22) {f : Fld} (h : f.key ∉ psCmdKeys) := (s.psArg_taken n.toNat).rg f h
    refine ⟨fun idle none => ⟨_, rfl, State.psInit_frees idle none⟩, fun used => ⟨_, rfl, ?_⟩,
      fun res reserved free head room => ⟨_, rfl, ?_⟩, fun none => ⟨_, rfl, ?_⟩, fun n fits => ⟨_, rfl, ?_⟩,
      fun n more => ⟨_, rfl, ?_⟩, fun n held => ⟨_, rfl, ?_⟩⟩
    · rw [State.psInit_refused used]
      exact ⟨s.psDone_ends (by decide) (by decide), s.psDone_mem .., s.psDone_ps ..⟩
    · have taken : PsTaken s (s.wr PS_CMD_RES (b2n res)) := .wr s (by decide) _
      obtain ⟨ended, ppn, info, spec⟩ := State.psAlloc_spec (s := s.wr PS_CMD_RES (b2n res))
        (by rwa [taken.rg _ (by decide)]) (by rwa [taken.rg _ (by decide), taken.rg PS_RESV (by decide)]) head
        (by rwa [taken.rg _ (by decide)])
      rw [taken.rg PS_FREE (by decide), taken.rg PS_IN_USE (by decide), taken.rg PS_RESV (by decide)] at spec
      rw [taken.ps] at info ppn
      exact ⟨ended, ppn, by rw [info, iRef_mkInfo], by rw [info, iAlloc_mkInfo], spec⟩
    · have taken : PsTaken s (s.wr PS_CMD_RES (b2n true)) := .wr s (by decide) _
      rw [State.psAlloc_refused ((taken.rg _ (by decide)).trans none)]
      exact ⟨State.psDone_ends _ (by decide) (by decide), State.psDone_mem ..,
        (State.rg_psDone (by decide) _ _ _).trans (taken.rg _ (by decide))⟩
    · rw [State.psReserve, rg n (by decide), rg n (by decide), if_neg (Nat.not_lt.2 fits)]
      exact State.wr_resv_ends _ (by decide) (Nat.lt_of_le_of_lt fits freeLt)
    · rw [State.psReserve, rg n (by decide), rg n (by decide), if_pos more]
      exact ⟨State.psDone_ends _ (by decide) (by decide), (State.rg_psDone (by decide) _ _ _).trans (rg n (by decide))⟩
    · rw [State.psUnreserve, rg n (by decide), if_neg (Nat.not_lt.2 held)]
      exact State.wr_resv_ends _ (by decide) (Nat.lt_of_le_of_lt (Nat.sub_le ..) resvLt)
  · have taken := s.psArg_taken g.toNat
    refine ⟨fun few kept => ⟨_, rfl, ?_⟩, fun more => ⟨_, rfl, ?_⟩, fun last _ room => ⟨_, rfl, ?_⟩, ⟨_, rfl, ?_⟩,
      ⟨_, rfl, ?_⟩⟩
    · obtain ⟨i, ⟨status, done, outside, info⟩, ref, inUse⟩ := taken.shared used few kept
      exact ⟨⟨status, done, outside⟩, by rw [info, ref], inUse⟩
    · obtain ⟨i, ⟨status, done, outside, info⟩, ref, pending⟩ := taken.freedMore used more
      exact ⟨⟨status, done, outside⟩, by rw [info, ref], pending⟩
    · obtain ⟨i, ⟨status, done, outside, info⟩, ref, pending, books⟩ := taken.freedLast used last room
      exact ⟨⟨status, done, outside⟩, by rw [info, ref], by rw [info, pending], books⟩
    · obtain ⟨i, ⟨status, done, outside, info⟩, poison, ref⟩ := taken.poisoned used true
      exact ⟨⟨status, done, outside⟩, by rw [info, poison], by rw [info, ref]⟩
    · obtain ⟨i, ⟨status, done, outside, info⟩, poison, ref⟩ := taken.poisoned used false
      exact ⟨⟨status, done, outside⟩, by rw [info, poison], by rw [info, ref]⟩

end Sys2Proof.Machine
end

section
/-! CERTIFICATE. Writes of the frames of hot pages, the end of a fill, and the look-aside buffers (O23). -/

namespace Sys2Proof.Machine

variable {s : State} {t f w : Nat}

/-! ## The checks of a write -/

/-- ERR taken back, as a write of the frame's word asks. -/
def State.frameAck (s : State) (t f w : Nat) : State := s.ackErr (ATT_FRAME_ERR t f) (bit w 28)

theorem State.frameAck_other {g : Fld} (h : g.lo % 32 ≠ 28) (s : State) (t f w : Nat) : (s.frameAck t f w).rg g = s.rg g :=
  State.ackErr_other (Fld.key_ne_of_lo h) s _

theorem State.frameAck_integ (s : State) (t f w : Nat) : (s.frameAck t f w).integ = s.integ :=
  ite_of (P := fun u : State => u.integ = s.integ) (fun _ => rfl) fun _ => rfl

theorem State.framed_frameAck (s : State) (t f w p g : Nat) : (s.frameAck t f w).framed t p g = s.framed t p g := by
  have same (x : Nat) : (s.frameAck t f w).rg (ATT_FRAME_PPN t x) = s.rg (ATT_FRAME_PPN t x) ∧
      (s.frameAck t f w).on (ATT_FRAME_VALID t x) = s.on (ATT_FRAME_VALID t x) ∧
      (s.frameAck t f w).on (ATT_FRAME_FILLING t x) = s.on (ATT_FRAME_FILLING t x) :=
    ⟨State.frameAck_other (by exact (by decide : 0 ≠ 28)) ..,
      State.on_congr (State.frameAck_other (by exact (by decide : 31 ≠ 28)) ..),
      State.on_congr (State.frameAck_other (by exact (by decide : 29 ≠ 28)) ..)⟩
  simp only [State.framed, same]

/-- A write that R224 refuses: beyond the pages of the store, or of a page that a second frame names. -/
def State.frameRefuses (s : State) (t f w : Nat) : Prop :=
  s.rg (TSTORE_CTRL_PAGES t) ≤ f ∨ s.framed t (bits w 0 22) f = true

theorem State.frameRefuses_frameAck : (s.frameAck t f w).frameRefuses t f w ↔ s.frameRefuses t f w := by
  rw [State.frameRefuses, State.framed_frameAck, State.frameAck_other (by exact (by decide : 0 ≠ 28)), State.frameRefuses]

theorem State.frameWrite_refused (refused : s.frameRefuses t f w) (fill inval : Bool) :
    s.frameWrite t f w fill inval = (s.frameAck t f w).wr (ATT_FRAME_ERR t f) 1 :=
  if_pos (State.frameRefuses_frameAck.2 refused)

theorem State.frameWrite_refused_spec (refused : s.frameRefuses t f w) (fill inval : Bool) :
    (s.frameWrite t f w fill inval).on (ATT_FRAME_ERR t f) ∧
      s.onlyRegs (s.frameWrite t f w fill inval) [(ATT_FRAME_ERR t f).key] := by
  rw [State.frameWrite_refused refused]
  exact ⟨State.on_wr_one _ rfl, State.onlyRegs_wr (State.onlyRegs_ackErr s (.head _) _) (.head _) 1⟩

/-! ## The frame named -/

/-- The frame names page `ppn`, not valid, and is filling or not. -/
def frameNamed (t f ppn : Nat) (filling : Bool) : List (Fld × Nat) :=
  [(ATT_FRAME_PPN t f, ppn), (ATT_FRAME_VALID t f, 0), (ATT_FRAME_FILLING t f, b2n filling)]

theorem State.frameWrite_fills (spared : s.integ.noSpare = []) (takes : ¬ s.frameRefuses t f w) (inval : Bool) :
    s.frameWrite t f w true inval = (s.frameAck t f w).wrs (frameNamed t f (bits w 0 22) true) := by
  have whole : (s.frameAck t f w).integ.noSpare = [] := by rw [State.frameAck_integ, spared]
  refine (if_neg (mt State.frameRefuses_frameAck.1 takes)).trans ((if_pos rfl).trans (if_neg ?_))
  show ¬ ((s.frameAck t f w).integ.noSpare.any _) = true
  rw [whole]
  exact Bool.false_ne_true

theorem State.frameWrite_invalidates (takes : ¬ s.frameRefuses t f w) :
    s.frameWrite t f w false true = (s.frameAck t f w).wrs (frameNamed t f (bits w 0 22) false) :=
  (if_neg (mt State.frameRefuses_frameAck.1 takes)).trans ((if_neg Bool.false_ne_true).trans (if_pos (.inl rfl)))

theorem State.frameNamed_spec (s : State) (t f w : Nat) (filling : Bool) :
    let u := (s.frameAck t f w).wrs (frameNamed t f (bits w 0 22) filling)
    u.rg (ATT_FRAME_PPN t f) = bits w 0 22 ∧ ¬ u.on (ATT_FRAME_VALID t f) ∧ u.on (ATT_FRAME_FILLING t f) = filling ∧
      s.onlyRegs u [(ATT_FRAME_PPN t f).key, (ATT_FRAME_VALID t f).key, (ATT_FRAME_FILLING t f).key,
        (ATT_FRAME_ERR t f).key] := by
  intro u
  have named {g : Fld} {v : Nat} (h : (g, v) ∈ frameNamed t f (bits w 0 22) filling) : u.rg g = v % 2 ^ g.w :=
    State.rg_wrs_of_mem (by exact (by decide : [0, 31, 29].Nodup)) h _
  refine ⟨(named (.head _)).trans (Nat.mod_mod ..), ?_, ?_, ?_⟩
  · rw [State.on, named (.tail _ (.head _))]
    exact (by decide : ¬ (0 == 1) = true)
  · rw [State.on, named (.tail _ (.tail _ (.head _)))]
    cases filling <;> rfl
  · have acked := State.onlyRegs_ackErr s (f := ATT_FRAME_ERR t f) (l := [(ATT_FRAME_PPN t f).key, (ATT_FRAME_VALID t f).key,
      (ATT_FRAME_FILLING t f).key, (ATT_FRAME_ERR t f).key]) (by simp) (bit w 28)
    exact State.onlyRegs_wr (State.onlyRegs_wr (State.onlyRegs_wr acked (by simp) _) (by simp) _) (by simp) _

/-! ## The end of a fill -/

/-- Units without a mark are read as they are. -/
theorem State.dramRead_unmarked {a n : Nat} (clean : s.unitMarks (a - dramBase) n = []) (port : Nat) :
    s.dramRead port a n = ((s.ld a n, false), s.bump DRAM_RD_BYTES n) := by
  simp only [State.dramRead, clean, List.foldl_nil, List.any_nil, Bool.false_eq_true, if_false]
  rfl

/-- The regions under protection are read in fields of other words than the frames'. -/
theorem State.unitMarks_filling (s : State) (t f v a n : Nat) :
    (s.wr (ATT_FRAME_FILLING t f) v).unitMarks a n = s.unitMarks a n := by
  have other {g : Fld} (h : g.lo % 32 ≠ 29) : (s.wr (ATT_FRAME_FILLING t f) v).rg g = s.rg g :=
    s.rg_wr_other (Fld.key_ne_of_lo h) v
  have same (i : Nat) : (s.wr (ATT_FRAME_FILLING t f) v).on (DRAM_PROT_BASE_EN i) = s.on (DRAM_PROT_BASE_EN i) ∧
      (s.wr (ATT_FRAME_FILLING t f) v).rg (DRAM_PROT_BASE_UNIT i) = s.rg (DRAM_PROT_BASE_UNIT i) ∧
      (s.wr (ATT_FRAME_FILLING t f) v).rg (DRAM_PROT_SIZE_UNITS i) = s.rg (DRAM_PROT_SIZE_UNITS i) :=
    ⟨State.on_congr (other (by exact (by decide : 31 ≠ 29))), other (by exact (by decide : 0 ≠ 29)),
      other (by exact (by decide : 0 ≠ 29))⟩
  simp only [State.unitMarks, State.protectedAt, State.protRegions, same, State.wr_ecc]

theorem length_bytes (m : KMap Byte) (a n : Nat) : (m.bytes a n).length = n := by
  induction n generalizing a with
  | zero => rfl
  | succ n ih => rw [KMap.bytes, List.length_cons, ih]

theorem State.ld_length (s : State) (a n : Nat) : (s.ld a n).length = n := length_bytes ..

theorem State.clearMarks_rg (s : State) (a n : Nat) (g : Fld) : (s.clearMarks a n).rg g = s.rg g := rfl

theorem State.clearMarks_ld (s : State) (a n b k : Nat) : (s.clearMarks a n).ld b k = s.ld b k := rfl

/-- The rows of the frame with the page's bytes, and the read counted. -/
def State.frameFilled (s : State) (t f p : Nat) : State :=
  (((s.wr (ATT_FRAME_FILLING t f) 0).bump DRAM_RD_BYTES 16384).st (tsAddr t (frameRow f)) (s.ld p 16384)).clearMarks
    (tsAddr t (frameRow f)) 2048

theorem State.frameDone_eq {p : Nat} (page : p = s.kvAddr (s.rg (ATT_FRAME_PPN t f))) (filling : s.on (ATT_FRAME_FILLING t f))
    (clean : s.unitMarks (p - dramBase) 16384 = []) :
    s.frameDone t f = (s.frameFilled t f p).wr (ATT_FRAME_VALID t f) 1 := by
  have same : (s.wr (ATT_FRAME_FILLING t f) 0).kvAddr (s.rg (ATT_FRAME_PPN t f)) = p := by
    rw [page, State.kvAddr, s.rg_wr_other (Fld.key_ne_of_lo (by exact (by decide : 0 ≠ 29))), State.kvAddr]
  rw [State.frameDone, if_neg (by simp [filling])]
  simp only [same, State.dramRead_unmarked ((s.unitMarks_filling t f 0 _ _).trans clean), Bool.false_eq_true, if_false]
  rfl

theorem State.frameDone_spec {p : Nat} (page : p = s.kvAddr (s.rg (ATT_FRAME_PPN t f))) (filling : s.on (ATT_FRAME_FILLING t f))
    (clean : s.unitMarks (p - dramBase) 16384 = []) :
    (s.frameDone t f).on (ATT_FRAME_VALID t f) ∧ ¬ (s.frameDone t f).on (ATT_FRAME_FILLING t f) ∧
      (s.frameDone t f).ld (tsAddr t (frameRow f)) 16384 = s.ld p 16384 := by
  rw [State.frameDone_eq page filling clean]
  refine ⟨State.on_wr_one _ rfl, ?_, ?_⟩
  · rw [State.on, State.rg_wr_other _ (Fld.key_ne_of_lo (by exact (by decide : 29 ≠ 31))), State.frameFilled,
      State.clearMarks_rg, State.st_rg, State.bump, State.rg_wr_other _ (Fld.key_ne_of_lo (by exact (by decide : 29 ≠ 0))),
      State.rg_wr_same]
    exact (by decide : ¬ (0 == 1) = true)
  · have read := State.ld_st ((s.wr (ATT_FRAME_FILLING t f) 0).bump DRAM_RD_BYTES 16384) (tsAddr t (frameRow f)) (s.ld p 16384)
    rw [State.ld_length] at read
    rw [State.ld, State.wr_mem, ← State.ld, State.frameFilled, State.clearMarks_ld, read]

/-! ## Look-aside buffers -/

@[simp] theorem State.att_onAtt (s : State) (t : Nat) (g : Att → Att) : (s.onAtt t g).att t = g (s.att t) :=
  KMap.get_set_same ..

theorem State.att_onAtt_other {x : Nat} (h : x ≠ t) (s : State) (g : Att → Att) : (s.onAtt t g).att x = s.att x :=
  KMap.get_set_other _ h ..

/-- The entries of a buffer that do not match. -/
def Att.labDrop (a : Att) (drop : LabEnt → Bool) : Att := { a with lab := a.lab.filter fun e => !drop e }

/-- Each of the units in a list without repetition loses the entries that match, once. -/
theorem State.att_foldl_labDrop (drop : LabEnt → Bool) {l : List Nat} (once : l.Nodup) (s : State) (x : Nat) :
    (l.foldl (fun s t => s.onAtt t fun a => a.labDrop drop) s).att x =
      if x ∈ l then (s.att x).labDrop drop else s.att x := by
  induction l generalizing s with
  | nil => rfl
  | cons t l ih =>
    obtain ⟨first, rest⟩ := List.nodup_cons.1 once
    rw [List.foldl_cons, ih rest]
    by_cases here : x = t
    · subst here
      rw [if_neg first, if_pos List.mem_cons_self, State.att_onAtt]
    · simp only [State.att_onAtt_other here, List.mem_cons, here, false_or]

theorem State.att_labDrop (drop : LabEnt → Bool) (s : State) (t : Fin 12) :
    (s.labDrop drop).att t.val = (s.att t.val).labDrop drop :=
  (State.att_foldl_labDrop drop List.nodup_range s t.val).trans (if_pos (List.mem_range.2 t.isLt))

/-- What a change of one unit leaves alone, the drop of entries does. -/
theorem State.proj_labDrop {α : Type} {g : State → α} (hg : ∀ s t h, g (State.onAtt s t h) = g s) (s : State)
    (drop : LabEnt → Bool) : g (s.labDrop drop) = g s :=
  foldl_of (P := fun u => g u = g s) rfl fun _ _ h => (hg ..).trans h

/-- Settles O23: a write of a frame by its three outcomes, the end of a fill, and the entries that are dropped. -/
theorem framesAndLookAside : Obligations.FramesAndLookAside := by
  intro s t f keys
  refine ⟨fun w spared inside single => ⟨_, rfl, ?_⟩,
    fun w _ second => ⟨_, rfl, State.frameWrite_refused_spec (.inr second) ..⟩, fun w inside single => ⟨_, rfl, ?_⟩, fun w refused => ⟨_, rfl, State.frameWrite_refused_spec refused ..⟩,
    fun p page filling clean => ⟨_, rfl, State.frameDone_spec page filling clean⟩,
    fun all q => ⟨_, rfl, ?_, ?_, fun e => ?_⟩⟩
  · rw [State.frameFill, State.frameWrite_fills spared (fun refused => refused.elim (Nat.not_le.2 inside) single)]
    exact s.frameNamed_spec t f w.toNat true
  · rw [State.frameInval, State.frameWrite_invalidates (fun refused => refused.elim (Nat.not_le.2 inside) single)]
    obtain ⟨ppn, valid, filling, only⟩ := s.frameNamed_spec t f w.toNat false
    exact ⟨ppn, valid, by rw [filling]; decide, only⟩
  · exact State.proj_labDrop (g := State.regs) (fun _ _ _ => rfl) s _
  · exact State.proj_labDrop (g := State.mem) (fun _ _ _ => rfl) s _
  · rw [State.att_labDrop]
    simp [Att.labDrop]

end Sys2Proof.Machine
end

section
/-! SUPPORT. How the running entry of an attention unit ends, and what it leaves in the store and the registers (R227). -/

namespace Sys2Proof.Machine

variable {s : State} {t : Nat} {x : Entry} {code empty : Nat}

/-! ## The status stored -/

/-- Where the running entry stands in the terrace store. -/
def State.entryAddr (s : State) (t : Nat) : Nat := tsAddr t (s.rg (ATT_STATUS_ROW t)) + 32 + 32 * s.rg (ATT_STATUS_ENTRY t)

/-- STATUS and NEMPTY stored. -/
def State.statusStored (s : State) (t code empty : Nat) : State :=
  (s.st (s.entryAddr t + 28) (natLE 1 code)).st (s.entryAddr t + 30) (natLE 2 empty)

theorem State.setEntryStatus_mem (s : State) (t : Nat) (x : Entry) (code empty : Nat) :
    (s.setEntryStatus t x code empty).mem = (s.statusStored t code empty).mem := by
  refine ite_of (P := fun u : State => u.mem = _) (fun _ => ?_) fun _ => ?_
  · exact ite_of (P := fun u : State => u.mem = _) (fun _ => rfl) fun _ => rfl
  · exact State.proj_firstLog (g := State.mem) (fun _ _ _ => rfl) (s.statusStored t code empty) ..

theorem State.nextEntry_mem (s : State) (t : Nat) (x : Entry) : (s.nextEntry t x).mem = s.mem := by
  refine ite_of (P := fun u : State => u.mem = s.mem) (fun _ => rfl) fun _ => ?_
  exact ite_of (P := fun u : State => u.mem = s.mem) (fun _ => rfl) fun _ => rfl

theorem State.endEntry_mem (s : State) (t : Nat) (x : Entry) (code empty : Nat) :
    (s.endEntry t x code empty).mem = (s.statusStored t code empty).mem :=
  (State.nextEntry_mem ..).trans (s.setEntryStatus_mem t x code empty)

theorem State.endEntry_status (s : State) (t : Nat) (x : Entry) (h : code < 256) :
    (s.endEntry t x code empty).ldN (s.entryAddr t + 28) 1 = code := by
  rw [State.ldN_congr (s.endEntry_mem t x code empty), State.statusStored, State.ldN_st_apart _ (.inl (by omega)),
    State.ldN_st_natLE]
  exact Nat.mod_eq_of_lt h

theorem State.endEntry_empty (s : State) (t : Nat) (x : Entry) (h : empty < 65536) :
    (s.endEntry t x code empty).ldN (s.entryAddr t + 30) 2 = empty := by
  rw [State.ldN_congr (s.endEntry_mem t x code empty), State.statusStored, State.ldN_st_natLE]
  exact Nat.mod_eq_of_lt h

theorem State.endEntry_outside (s : State) (t : Nat) (x : Entry) (code empty : Nat) {k : Nat}
    (h : k < s.entryAddr t + 28 ∨ s.entryAddr t + 32 ≤ k) : (s.endEntry t x code empty).mem.get k 0#8 = s.mem.get k 0#8 := by
  rw [s.endEntry_mem, State.statusStored, State.st_outside _ _ _ _ (by rw [length_natLE]; omega),
    State.st_outside _ _ _ _ (by rw [length_natLE]; omega)]

/-! ## The registers -/

theorem State.setEntryStatus_ok_rg (s : State) (t : Nat) (x : Entry) (empty : Nat) (f : Fld) :
    (s.setEntryStatus t x stOk empty).rg f = s.rg f := by
  rw [State.setEntryStatus, if_pos rfl]
  exact ite_of (P := fun u : State => u.rg f = s.rg f) (fun _ => rfl) fun _ => rfl

/-- A status other than OK goes to the unit's fault log. -/
theorem State.setEntryStatus_bad_rg (bad : code ≠ stOk) (s : State) (t : Nat) (x : Entry) (empty : Nat) (f : Fld) :
    (s.setEntryStatus t x code empty).rg f = ((s.statusStored t code empty).firstLog (ATT_FAULT_VALID t) (ATT_FAULT_MULTI t)
      [(ATT_FAULT_SEQ t, x.seq), (ATT_FAULT_CODE t, code)]).rg f := by
  rw [State.setEntryStatus, if_neg bad]
  rfl

theorem State.statusStored_rg (s : State) (t code empty : Nat) (f : Fld) : (s.statusStored t code empty).rg f = s.rg f := rfl

/-- The word of the fault log is another than that of the unit's status. -/
theorem key_ne_status_of_fault {f g : Fld} (lowF : f.lo < 32) (offF : f.off = terBase t + 0x210) (lowG : g.lo < 32)
    (offG : g.off = terBase t + 0x214) : f.key ≠ g.key := Fld.key_ne_of_off lowF lowG (by omega)

/-- Which entry runs is not read in the fault log. -/
theorem State.setEntryStatus_entry (s : State) (t : Nat) (x : Entry) (code empty : Nat) :
    (s.setEntryStatus t x code empty).rg (ATT_STATUS_ENTRY t) = s.rg (ATT_STATUS_ENTRY t) := by
  by_cases ok : code = stOk
  case pos => rw [ok, State.setEntryStatus_ok_rg]
  case neg =>
    have other {g : Fld} (lowG : g.lo < 32) (offG : g.off = terBase t + 0x214) : (ATT_STATUS_ENTRY t).key ≠ g.key :=
      key_ne_status_of_fault (t := t) (by exact (by decide : 0 < 32)) rfl lowG offG
    rw [State.setEntryStatus_bad_rg ok, State.rg_firstLog_other (other (by exact (by decide : 31 < 32)) rfl)
      (other (by exact (by decide : 30 < 32)) rfl), State.statusStored_rg]
    simp only [List.forall_mem_cons, List.not_mem_nil, false_imp_iff, implies_true, and_true]
    exact ⟨other (by exact (by decide : 19 < 32)) rfl, other (by exact (by decide : 0 < 32)) rfl⟩

/-- The first status other than OK is logged. -/
theorem State.setEntryStatus_fault (first : ¬ s.on (ATT_FAULT_VALID t)) (bad : code ≠ stOk) (h : code < 256) :
    (s.setEntryStatus t x code empty).rg (ATT_FAULT_CODE t) = code ∧ (s.setEntryStatus t x code empty).on (ATT_FAULT_VALID t) := by
  have unlogged : ¬ (s.statusStored t code empty).on (ATT_FAULT_VALID t) := first
  have logged {f : Fld} {v : Nat}
      (hf : (f, v) ∈ [(ATT_FAULT_VALID t, 1), (ATT_FAULT_SEQ t, x.seq), (ATT_FAULT_CODE t, code)]) :
      (s.setEntryStatus t x code empty).rg f = v % 2 ^ f.w := by
    rw [State.setEntryStatus_bad_rg bad, State.firstLog, if_neg unlogged]
    exact State.rg_wrs_of_mem (by exact (by decide : [31, 19, 0].Nodup)) hf (s.statusStored t code empty)
  exact ⟨(logged (.tail _ (.tail _ (.head _)))).trans (Nat.mod_eq_of_lt h), beq_iff_eq.2 (logged (.head _))⟩

theorem Entry.count_le (x : Entry) : x.count ≤ 15 := by
  rw [Entry.count]
  omega

/-- An entry that is not the row's last: the next entry of the row runs. -/
theorem State.endEntry_within (more : s.rg (ATT_STATUS_ENTRY t) + 1 < x.count) (code empty : Nat) : s.endEntry t x code empty =
    (s.setEntryStatus t x code empty).wr (ATT_STATUS_ENTRY t) (s.rg (ATT_STATUS_ENTRY t) + 1) := by
  simp only [State.endEntry, State.nextEntry, State.setEntryStatus_entry, more, if_true]

theorem State.endEntry_next (more : s.rg (ATT_STATUS_ENTRY t) + 1 < x.count) (code empty : Nat) :
    (s.endEntry t x code empty).rg (ATT_STATUS_ENTRY t) = s.rg (ATT_STATUS_ENTRY t) + 1 := by
  have few := x.count_le
  rw [State.endEntry_within more, State.rg_wr_same]
  exact Nat.mod_eq_of_lt (show _ < 2 ^ 4 by omega)

theorem State.endEntry_rg (more : s.rg (ATT_STATUS_ENTRY t) + 1 < x.count) {f : Fld} (other : f.key ≠ (ATT_STATUS_ENTRY t).key)
    (code empty : Nat) : (s.endEntry t x code empty).rg f = (s.setEntryStatus t x code empty).rg f := by
  rw [State.endEntry_within more, State.rg_wr_other _ other]

theorem State.endEntry_fault (more : s.rg (ATT_STATUS_ENTRY t) + 1 < x.count) (first : ¬ s.on (ATT_FAULT_VALID t))
    (bad : code ≠ stOk) (h : code < 256) : (s.endEntry t x code empty).rg (ATT_FAULT_CODE t) = code ∧
      (s.endEntry t x code empty).on (ATT_FAULT_VALID t) := by
  obtain ⟨logged, valid⟩ := State.setEntryStatus_fault (x := x) (empty := empty) first bad h
  have other {f : Fld} (low : f.lo < 32) (off : f.off = terBase t + 0x214) : f.key ≠ (ATT_STATUS_ENTRY t).key :=
    (key_ne_status_of_fault (t := t) (by exact (by decide : 0 < 32)) rfl low off).symm
  exact ⟨(State.endEntry_rg more (other (by exact (by decide : 0 < 32)) rfl) ..).trans logged,
    (State.on_congr (State.endEntry_rg more (other (by exact (by decide : 31 < 32)) rfl) ..)).trans valid⟩

end Sys2Proof.Machine
end

section
/-! SUPPORT. The entries that attend no position or append, and the start and the end of a job (R225 to R234). -/

namespace Sys2Proof.Machine

variable {s : State} {t q : Nat} {x : Entry}

/-! ## Jobs -/

theorem State.onAtt_rg (s : State) (t : Nat) (g : Att → Att) (f : Fld) : (s.onAtt t g).rg f = s.rg f := rfl

theorem State.onAtt_mem (s : State) (t : Nat) (g : Att → Att) : (s.onAtt t g).mem = s.mem := rfl

/-- Queue `q` has a job to start. -/
def State.queueReady (s : State) (t q : Nat) : Bool :=
  s.on (ATT_Q_EN t q) && !s.on (ATT_Q_RAN t q) && bit (s.rg (TFLAG_STATE_FLAGS t)) (s.rg (ATT_Q_GO t q))

/-- What the unit shows when the job of queue `q` starts. -/
def State.jobFlds (s : State) (t q : Nat) : List (Fld × Nat) :=
  [(ATT_Q_RAN t q, 1), (ATT_STATUS_BUSY t, 1), (ATT_STATUS_QUEUE t, q), (ATT_STATUS_ROW t, s.rg (ATT_Q_ROW t q)),
    (ATT_STATUS_ENTRY t, 0)]

theorem State.tsRegion_jobFlds (s : State) (t q : Nat) : (s.wrs (s.jobFlds t q)).tsRegion t = s.tsRegion t := by
  have pages : (s.wrs (s.jobFlds t q)).rg (TSTORE_CTRL_PAGES t) = s.rg (TSTORE_CTRL_PAGES t) := by
    refine s.rg_wrs_other _ ?_
    simp only [State.jobFlds, List.forall_mem_cons, List.not_mem_nil, false_imp_iff, implies_true, and_true]
    exact ⟨Fld.key_ne_of_lo (by exact (by decide : 0 ≠ 30)), Fld.key_ne_of_lo (by exact (by decide : 0 ≠ 31)),
      Fld.key_ne_of_lo (by exact (by decide : 0 ≠ 29)), Fld.key_ne_of_lo (by exact (by decide : 0 ≠ 12)),
      Fld.key_ne_of_off (by exact (by decide : 0 < 32)) (by exact (by decide : 0 < 32))
        (by simp [TSTORE_CTRL_PAGES, ATT_STATUS_ENTRY])⟩
  rw [State.tsRegion, pages, State.tsRegion]

theorem State.jobStart_eq (hq : q < 4) (idle : ¬ s.on (ATT_STATUS_BUSY t)) (ready : s.queueReady t q)
    (lowest : ∀ k < q, ¬ s.queueReady t k) : s.jobStart t =
      (s.wrs (s.jobFlds t q)).onAtt t fun a => { a with fin := decide (s.tsRegion t ≤ s.rg (ATT_Q_ROW t q)) } := by
  have found : (List.range 4).find? (s.queueReady t) = some q :=
    List.find?_range_eq_some.2 ⟨ready, List.mem_range.2 hq, by simpa using lowest⟩
  rw [State.jobStart, if_neg idle, ← State.tsRegion_jobFlds]
  show (match (List.range 4).find? (s.queueReady t) with | none => s | some q => _) = _
  rw [found]
  rfl

theorem State.jobDone_eq (busy : s.on (ATT_STATUS_BUSY t)) (fin : (s.att t).fin) : s.jobDone t =
    ((s.wr (TFLAG_STATE_FLAGS t)
      (setBit (s.rg (TFLAG_STATE_FLAGS t)) (s.rg (ATT_Q_DONE t (s.rg (ATT_STATUS_QUEUE t)))) true)).wr (ATT_STATUS_BUSY t) 0).onAtt t fun a => { a with fin := false } := if_pos ⟨busy, fin⟩

/-! ## Attend -/

theorem State.attend_refused (busy : s.attBusy t) (entry : s.entry t = ((x, true), s)) (kind : bit x.kind 0 = false)
    (bad : ¬ s.attendOk t x) : s.attend t = s.endEntry t x stBadDescriptor 0 := by
  rw [State.attend, if_neg (not_not_intro busy)]
  simp [entry, kind, bad]

theorem State.attend_empty (busy : s.attBusy t) (entry : s.entry t = ((x, true), s)) (kind : bit x.kind 0 = false)
    (good : s.attendOk t x) (none : x.range = 0) : s.attend t = s.attendRun t x := by
  rw [State.attend, if_neg (not_not_intro busy)]
  simp [entry, kind, good, none]

/-- The output of a query that attends no position. -/
def emptyOut : List Fp × Bool × Bool := (List.replicate 128 fzero, true, false)

theorem QAcc.out_start (sq : Fp) (q : List Fp) : ({ o := List.replicate 128 fzero } : QAcc).out sq q = emptyOut := if_pos rfl

/-- The queries' running states from which none has moved give empty outputs. -/
theorem outs_of_start (qs : List (Nat × List Fp × Fp)) :
    ((qs.zip (qs.map fun _ => ({ o := List.replicate 128 fzero } : QAcc))).map fun y => y.2.out y.1.2.2 y.1.2.1) =
      List.replicate qs.length emptyOut := by
  refine List.eq_replicate_iff.2 ⟨by simp, fun y hy => ?_⟩
  obtain ⟨⟨q, a⟩, mem, rfl⟩ := List.mem_map.1 hy
  obtain ⟨-, -, rfl⟩ := List.mem_map.1 (List.of_mem_zip mem).2
  exact QAcc.out_start ..

theorem Entry.pagesRead_empty (none : x.range = 0) (mask : Array Byte) : x.pagesRead mask = [] := by
  rw [Entry.pagesRead, none]
  rfl

section
variable {qb sb mb : List Byte} (none : x.range = 0) (queries : s.tsRows t x.qrow (ceilDiv x.outs 4) = (some qb, s))
  (scales : s.tsRows t x.srow (ceilDiv x.outs 256) = (some sb, s)) (mask : s.tsRows t x.mrow x.mrows = (some mb, s))
include none queries scales mask

theorem State.attendRun_empty : s.attendRun t x =
    (s.writeOutputs t x (List.replicate x.outs emptyOut)).endEntry t x stOk x.outs := by
  simp only [State.attendRun, queries, scales, mask, Entry.pagesRead_empty none, List.isEmpty_nil, if_true, outs_of_start,
    List.length_map, List.length_range]
  congr 1
  rw [List.filter_replicate_of_pos (by rfl), List.length_replicate]

end

theorem State.tsPut_rg (s : State) (a : Nat) (b : List Byte) (f : Fld) : (s.tsPut a b).rg f = s.rg f := rfl

/-- Outputs and the map of the empty ones are stored, then the empty ones and those that are no number are counted. -/
theorem State.writeOutputs_eq (s : State) (t : Nat) (x : Entry) (outs : List (List Fp × Bool × Bool)) :
    ∃ u : State, (∀ f, u.rg f = s.rg f) ∧ s.writeOutputs t x outs = (u.bump (ATT_EMPTY t)
      ((outs.map fun y => y.2.1).filter id).length).bump (ATT_NAN t) (outs.filter fun y => y.2.2).length := by
  refine ⟨_, fun f => ?_, rfl⟩
  rw [State.tsPut_rg]
  refine foldl_of (P := fun u : State => u.rg f = s.rg f) rfl fun u y same => ?_
  exact ite_of (P := fun u : State => u.rg f = s.rg f) (fun _ => same) fun _ => same

/-- The fields that say which entry runs are no counters. -/
theorem State.writeOutputs_status (s : State) (x : Entry) (outs : List (List Fp × Bool × Bool)) {f : Fld} (low : f.lo < 32)
    (off : f.off = terBase t + 0x210) : (s.writeOutputs t x outs).rg f = s.rg f := by
  obtain ⟨u, same, e⟩ := s.writeOutputs_eq t x outs
  have zero : 0 < 32 := by decide
  rw [e, State.bump, State.rg_wr_other _ (Fld.key_ne_of_off low zero (by simp [off, ATT_NAN])), State.bump,
    State.rg_wr_other _ (Fld.key_ne_of_off low zero (by simp [off, ATT_EMPTY])), same]

theorem State.writeOutputs_empty (s : State) (t : Nat) (x : Entry) (n : Nat) :
    (s.writeOutputs t x (List.replicate n emptyOut)).rg (ATT_EMPTY t) = (s.rg (ATT_EMPTY t) + n) % 2 ^ 64 := by
  obtain ⟨u, same, e⟩ := s.writeOutputs_eq t x (List.replicate n emptyOut)
  have zero : 0 < 32 := by decide
  rw [e, State.bump, State.rg_wr_other _ (Fld.key_ne_of_off zero zero (by simp [ATT_NAN, ATT_EMPTY])), State.rg_bump_same, same,
    List.map_replicate, List.filter_replicate_of_pos (by rfl), List.length_replicate]
  rfl

/-! ## Append -/

theorem State.append_refused (busy : s.attBusy t) (entry : s.entry t = ((x, true), s)) (kind : bit x.kind 0 = true)
    (bad : ¬ s.appendOk t x) : s.append t = s.endEntry t x stBadDescriptor 0 := by
  rw [State.append, if_neg (not_not_intro busy)]
  simp [entry, kind, bad]

theorem State.append_runs (busy : s.attBusy t) (entry : s.entry t = ((x, true), s)) (kind : bit x.kind 0 = true)
    (good : s.appendOk t x) (on : s.on PS_CTRL_EN) : s.append t = s.appendRun t x := by
  rw [State.append, if_neg (not_not_intro busy)]
  simp [entry, kind, good, on]

/-- The positions of an append written in order, each into the page that holds its logical page. -/
def State.appendAll (s : State) (t : Nat) (x : Entry) (kb vb sb : List Byte) (pgs : List (Nat × Nat × Nat)) : State :=
  (List.range x.qn).foldl (fun (s : State) n => match pgs.find? fun y => y.1 == (x.qpos + n) / 64 with
    | some y => s.appendPos t x kb vb sb y.2.1 y.2.2 n
    | none => s) s

/-- The logical pages of the positions of an append. -/
def Entry.appendPages (x : Entry) : List Nat :=
  if x.qpos / 64 = (x.qpos + x.qn - 1) / 64 then [x.qpos / 64] else [x.qpos / 64, (x.qpos + x.qn - 1) / 64]

section
variable {kb vb sb : List Byte} {e : SeqEnt} {s1 s2 s3 : State} {pgs pgs' : List (Nat × Nat × Nat)}

theorem State.appendRun_writes (keys : s.tsRows t x.qrow (ceilDiv x.qn 4) = (some kb, s))
    (values : s.tsRows t x.orow (ceilDiv x.qn 4) = (some vb, s)) (scales : s.tsRows t x.srow 1 = (some sb, s))
    (seq : s.seqEnt t x.seq = ((e, false), s1)) (past : e.len ≤ x.qpos) (mapped : s1.trAll t x e x.appendPages = (.ok pgs, s2))
    (sound : ∀ y ∈ pgs, iPoison (s2.info y.2.1) = false ∧ iPoison (s2.info y.2.2) = false)
    (reserved : (pgs.filter fun y => decide (1 < iRef (s2.info y.2.1))).length ≤ s2.rg PS_RESV)
    (copied : s2.cowAll t x e pgs = (.ok pgs', s3)) :
    s.appendRun t x = (s3.appendAll t x kb vb sb pgs').endEntry t x stOk 0 := by
  have clean : (pgs.any fun y => iPoison (s2.info y.2.1) || iPoison (s2.info y.2.2)) = false :=
    List.any_eq_false.2 fun y hy => by simp [sound y hy]
  have first : ¬ (x.qpos < e.len ∧ e.good x.gen x.track = true) := fun before => absurd before.1 (Nat.not_lt.2 past)
  rw [Entry.appendPages] at mapped
  simp only [State.appendRun, keys, values, scales, seq, first, mapped, clean, Nat.not_lt.2 reserved, copied,
    Bool.false_eq_true, if_false]
  rfl

end

end Sys2Proof.Machine
end

section
/-! CERTIFICATE. Jobs start and end, attend and append entries end with their status and effect (O21). -/

namespace Sys2Proof.Machine

variable {s : State} {t q : Nat} {x : Entry}

theorem State.jobStart_spec (hq : q < 4) (idle : ¬ s.on (ATT_STATUS_BUSY t)) (ready : s.queueReady t q)
    (lowest : ∀ k < q, ¬ s.queueReady t k) : let u := s.jobStart t
    u.on (ATT_STATUS_BUSY t) ∧ u.rg (ATT_STATUS_QUEUE t) = q ∧ u.rg (ATT_STATUS_ROW t) = s.rg (ATT_Q_ROW t q) ∧
      u.rg (ATT_STATUS_ENTRY t) = 0 ∧ u.on (ATT_Q_RAN t q) ∧ u.mem = s.mem ∧
      (u.att t).fin = decide (s.tsRegion t ≤ s.rg (ATT_Q_ROW t q)) := by
  intro u
  have eq : u = (s.wrs (s.jobFlds t q)).onAtt t _ := State.jobStart_eq hq idle ready lowest
  have shown {f : Fld} {v : Nat} (h : (f, v) ∈ s.jobFlds t q) : u.rg f = v % 2 ^ f.w := by
    rw [eq, State.onAtt_rg]
    exact s.rg_wrs_of_mem (by exact (by decide : [30, 31, 29, 12, 0].Nodup)) h
  refine ⟨beq_iff_eq.2 (shown (.tail _ (.head _))), (shown (.tail _ (.tail _ (.head _)))).trans (Nat.mod_eq_of_lt hq),
    (shown (.tail _ (.tail _ (.tail _ (.head _))))).trans (Nat.mod_eq_of_lt (s.rg_lt (ATT_Q_ROW t q))),
    shown (.tail _ (.tail _ (.tail _ (.tail _ (.head _))))), beq_iff_eq.2 (shown (.head _)), ?_, ?_⟩
  · rw [eq, State.onAtt_mem, State.wrs_mem]
  · rw [eq, State.att_onAtt]

theorem State.jobDone_spec (busy : s.on (ATT_STATUS_BUSY t)) (fin : (s.att t).fin) (queue : s.rg (ATT_STATUS_QUEUE t) = q) :
    let u := s.jobDone t
    ¬ u.on (ATT_STATUS_BUSY t) ∧ bit (u.rg (TFLAG_STATE_FLAGS t)) (s.rg (ATT_Q_DONE t q)) = true ∧
      s.onlyRegs u [(ATT_STATUS_BUSY t).key, (TFLAG_STATE_FLAGS t).key] := by
  rw [State.jobDone_eq busy fin, queue]
  generalize hflags : setBit (s.rg (TFLAG_STATE_FLAGS t)) (s.rg (ATT_Q_DONE t q)) true = flags
  have done : ((s.wr (TFLAG_STATE_FLAGS t) flags).wr (ATT_STATUS_BUSY t) 0).rg (TFLAG_STATE_FLAGS t) = flags % 2 ^ 32 := by
    rw [State.rg_wr_other _ (Fld.key_ne_of_lo (by exact (by decide : 0 ≠ 31)))]
    exact s.rg_wr_same _ _
  refine ⟨?_, ?_, ?_⟩
  · intro on
    have zero : 0 = 1 := (State.rg_wr_same _ (ATT_STATUS_BUSY t) 0).symm.trans (beq_iff_eq.1 on)
    exact absurd zero (by decide)
  · refine (congrArg (bit · _) done).trans ?_
    have inside : s.rg (ATT_Q_DONE t q) < 32 := s.rg_lt (ATT_Q_DONE t q)
    rw [bit_mod_two_pow inside, ← hflags, bit_setBit_true]
  · exact State.onlyRegs_wr (State.onlyRegs_wr (s.onlyRegs_refl [(ATT_STATUS_BUSY t).key, (TFLAG_STATE_FLAGS t).key])
      (.tail _ (.head _)) flags) (.head _) 0

/-- At most 64 query positions of at most 8 heads each. -/
theorem State.outs_lt (good : s.attendOk t x) : x.outs < 65536 := by
  simp only [State.attendOk, Bool.and_eq_true, decide_eq_true_eq] at good
  obtain ⟨⟨⟨⟨⟨-, -, -, qn, -, g, -⟩, -⟩, -⟩, -⟩, -⟩ := good
  calc x.qn * x.g ≤ 64 * 8 := Nat.mul_le_mul qn g
    _ < 65536 := by decide

theorem State.emptyEntry_spec (more : s.rg (ATT_STATUS_ENTRY t) + 1 < x.count) (few : x.outs < 65536) :
    let u := (s.writeOutputs t x (List.replicate x.outs emptyOut)).endEntry t x stOk x.outs
    u.ldN (s.entryAddr t + 28) 1 = stOk ∧ u.ldN (s.entryAddr t + 30) 2 = x.outs ∧
      u.rg (ATT_STATUS_ENTRY t) = s.rg (ATT_STATUS_ENTRY t) + 1 ∧
      u.rg (ATT_EMPTY t) = (s.rg (ATT_EMPTY t) + x.outs) % 2 ^ 64 := by
  have entry := s.writeOutputs_status (t := t) (f := ATT_STATUS_ENTRY t) x (List.replicate x.outs emptyOut)
    (by exact (by decide : 0 < 32)) rfl
  have row := s.writeOutputs_status (t := t) (f := ATT_STATUS_ROW t) x (List.replicate x.outs emptyOut)
    (by exact (by decide : 12 < 32)) rfl
  have empties := s.writeOutputs_empty t x x.outs
  generalize s.writeOutputs t x (List.replicate x.outs emptyOut) = w at entry row empties ⊢
  have addr : w.entryAddr t = s.entryAddr t := by rw [State.entryAddr, entry, row, State.entryAddr]
  rw [← entry] at more
  have zero : 0 < 32 := by decide
  have counted : (ATT_EMPTY t).key ≠ (ATT_STATUS_ENTRY t).key :=
    Fld.key_ne_of_off zero zero (by simp [ATT_EMPTY, ATT_STATUS_ENTRY])
  refine ⟨?_, ?_, ?_, ?_⟩
  · rw [← addr]
    exact w.endEntry_status t x (by decide)
  · rw [← addr]
    exact w.endEntry_empty t x few
  · rw [State.endEntry_next more, entry]
  · rw [State.endEntry_rg more counted, State.setEntryStatus_ok_rg, empties]

/-- Settles O21: a job by its queue, and an entry by how it ends. -/
theorem attentionEntries : Obligations.AttentionEntries := by
  unfold Obligations.AttentionEntries
  refine ⟨fun s t q hq => ⟨fun idle ready lowest => ⟨_, rfl, State.jobStart_spec hq idle ready lowest⟩,
    fun busy fin queue => ⟨_, rfl, State.jobDone_spec busy fin queue⟩⟩, fun s t x => ?_, fun s t x busy entry kind => ?_⟩
  · intro a busy entry kind more
    refine ⟨fun bad => ?_, fun qb sb mb good none queries scales mask => ?_⟩
    · refine ⟨_, congrArg Host.Outcome.next (State.attend_refused busy entry kind bad), s.endEntry_status t.val x (by decide),
        s.endEntry_empty t.val x (by decide), State.endEntry_next more .., fun first => ?_,
        fun k apart => s.endEntry_outside t.val x _ _ apart⟩
      exact State.endEntry_fault more first (by decide) (by decide)
    · have run := (State.attend_empty busy entry kind good none).trans (State.attendRun_empty none queries scales mask)
      exact ⟨_, congrArg Host.Outcome.next run, State.emptyEntry_spec more (State.outs_lt good)⟩
  · refine ⟨fun bad => ?_, ?_⟩
    · exact ⟨_, congrArg Host.Outcome.next (State.append_refused busy entry kind bad), rfl,
        s.endEntry_status t.val x (by decide)⟩
    · intro kb vb sb e s1 pgs s2 pgs' s3 good on keys values scales seq past first last mapped sound reserved copied
      have run := (State.append_runs busy entry kind good on).trans
        (State.appendRun_writes keys values scales seq past mapped sound reserved copied)
      exact ⟨_, congrArg Host.Outcome.next run, rfl⟩

end Sys2Proof.Machine
end

/-! # Proofs: token work and capture (O32, O33)

Requests of the gatehouse and what its books leave alone, the page store's work for a new sequence, the loss of the host, and
the jobs of capture training. -/

section
/-! SUPPORT. A request taken and completed, and what the gatehouse's display, the PARKED bit of an entry and the drop of
look-aside entries leave alone (R222, R245, R249, R261). -/

namespace Sys2Proof.Machine

variable {s s1 t : State} {q op tide : Nat} {b : List Byte}

/-! ## Requests and their completions -/

/-- A request taken asks for the operation; taking it changes the list of requests alone. -/
theorem State.takeStep_eq (taken : s.takeStep op = some (q, b, tide, s1)) :
    leAt b 4 1 = op ∧ ∃ l, s1 = { s with loader := { s.loader with reqs := l } } := by
  unfold State.takeStep at taken
  split at taken
  case h_1 => exact absurd taken (by simp)
  case h_2 x found =>
    obtain ⟨rfl, rfl, rfl, rfl⟩ : x.1 = q ∧ x.2.1 = b ∧ x.2.2 = tide ∧ _ = s1 := by simpa using taken
    exact ⟨by simpa using List.find?_some found, _, rfl⟩

theorem State.completed_complete_self (s : State) (q : Nat) (e : List Byte) : s.completed (s.complete q e) q e := by
  obtain ⟨regs, mem, p, o, done⟩ := s.complete_eq q e
  rw [State.completed, done]
  exact congrArg QSt.held (KMap.get_set_same ..)

theorem State.raise_rg (s : State) (v : Nat) (f : Fld) : (s.raise v).rg f = s.rg f := by
  obtain ⟨p, o, raised⟩ := s.raise_eq v
  rw [raised]
  rfl

/-- A completion writes no field but the tail of its completion queue, which begins at bit 16. -/
theorem State.rg_complete {f : Fld} (place : f.lo % 32 ≠ 16) (s : State) (e : List Byte) :
    (s.complete q e).rg f = s.rg f := by
  have written (u : State) : (u.cqWrite q e).rg f = u.rg f := by
    unfold State.cqWrite
    extract_lets tail v
    have tailWritten : v.rg f = u.rg f := State.rg_wr_other (f := HRING_Q_CQDB_TAIL q) _ (Fld.key_ne_of_lo place) _
    exact ite_of (P := fun u' : State => u'.rg f = u.rg f) (fun _ => (State.raise_rg ..).trans tailWritten) fun _ => tailWritten
  exact ite_of (P := fun u : State => u.rg f = s.rg f) (fun _ => written _) fun _ => rfl

/-- The fields that a stamp is made of (R45). -/
def stampFlds : List Fld := [TIME_NOW, TIDE_NUM, RING_INDEX_INDEX, TIME_SYNC_VALID, TIDE_STATUS_ALIGNED, TIDE_STATUS_LOCK]

theorem State.stamp_of_flds (h : ∀ f ∈ stampFlds, t.rg f = s.rg f) : t.stamp = s.stamp := by
  simp only [stampFlds, List.forall_mem_cons] at h
  obtain ⟨time, number, index, sync, aligned, lock, -⟩ := h
  simp only [State.stamp, State.moduleIndex, time, number, index, sync, aligned, lock]

section
variable (s : State) (handle status flags len nout tag step : Nat)

theorem State.stepBytes_handle :
    leAt (s.stepBytes handle op status flags len nout tag step) 0 4 = handle % 2 ^ 32 := by
  have first : slice (s.stepBytes handle op status flags len nout tag step) 0 4 = natLE 4 handle := by
    simp only [State.stepBytes, List.append_assoc, slice, List.drop_zero]
    exact List.take_left' (length_natLE 4 handle)
  rw [leAt, first, leNat_natLE]

theorem State.stepBytes_status {status : Nat} (isCode : status < 256) :
    leAt (s.stepBytes handle op status flags len nout tag step) 5 1 = status := by
  have sixth : slice (s.stepBytes handle op status flags len nout tag step) 5 1 = natLE 1 status := by
    simp only [State.stepBytes, List.append_assoc, slice]
    rw [← List.append_assoc, List.drop_left' (by simp [length_natLE])]
    exact List.take_left' (length_natLE 1 status)
  rw [leAt, sixth, leNat_natLE]
  exact Nat.mod_eq_of_lt isCode

end

/-! ## The display of the gatehouse -/

/-- The registers in which the gatehouse shows its sets and the use of the terraces (R249, R255). -/
def ghShowKeys : List Nat :=
  ((List.range 16).map fun i => [(GH_SET0_D i).key, (GH_SET0_P i).key, (GH_SET1_QTOK i).key, (GH_SET1_NDEC i).key]).flatten ++
    (List.range 12).map fun t => (GH_USE t).key

/-- What writes of those registers keep, the display keeps. -/
theorem State.ghShow_of {P : State → Prop} (keeps : ∀ u (f : Fld) v, f.key ∈ ghShowKeys → P u → P (u.wr f v)) (h : P s) :
    P s.ghShow := by
  refine List.foldlRecOn (motive := P) _ _ (foldl_of h fun u x hu => ?_) fun u hu t ht => ?_
  · split
    case h_1 => exact hu
    case h_2 i found =>
      have shown {f : Fld} (hf : f ∈ [GH_SET0_D i, GH_SET0_P i, GH_SET1_QTOK i, GH_SET1_NDEC i]) : f.key ∈ ghShowKeys :=
        List.mem_append_left _ (List.mem_flatten.2
          ⟨_, List.mem_map.2 ⟨i, List.mem_of_find?_eq_some found, rfl⟩, List.mem_map_of_mem (f := Fld.key) hf⟩)
      simp only [State.wrs_cons, State.wrs_nil]
      exact keeps _ _ _ (shown (by simp)) (keeps _ _ _ (shown (by simp)) (keeps _ _ _ (shown (by simp))
        (keeps _ _ _ (shown (by simp)) hu)))
  · exact keeps _ _ _ (List.mem_append_right _ (List.mem_map.2 ⟨t, ht, rfl⟩)) hu

theorem State.ghShow_fw (s : State) : s.ghShow.fw = s.fw := State.ghShow_of (P := fun u => u.fw = s.fw) (fun _ _ _ _ h => h) rfl

theorem State.ghShow_loader (s : State) : s.ghShow.loader = s.loader :=
  State.ghShow_of (P := fun u => u.loader = s.loader) (fun _ _ _ _ h => h) rfl

theorem State.rg_ghShow {g : Fld} (other : g.key ∉ ghShowKeys) (s : State) : s.ghShow.rg g = s.rg g :=
  State.ghShow_of (P := fun u => u.rg g = s.rg g)
    (fun u f v hf h => (u.rg_wr_other (f := f) (fun same => other (same ▸ hf)) v).trans h) rfl

/-! ## Entries of sequences -/

theorem State.psInvSeq_rg (s : State) (n : Nat) (f : Fld) : (s.psInvSeq n).rg f = s.rg f :=
  State.proj_labDrop (g := fun u => u.rg f) (fun _ _ _ => rfl) s _

theorem State.psInvSeq_fw (s : State) (n : Nat) : (s.psInvSeq n).fw = s.fw :=
  State.proj_labDrop (g := State.fw) (fun _ _ _ => rfl) s _

theorem State.psInvSeq_loader (s : State) (n : Nat) : (s.psInvSeq n).loader = s.loader :=
  State.proj_labDrop (g := State.loader) (fun _ _ _ => rfl) s _

theorem State.setParked_rg (s : State) (r : SeqRec) (f : Fld) : (s.setParked r).rg f = s.rg f :=
  ite_of (P := fun u : State => u.rg f = s.rg f) (fun _ => rfl) fun _ => State.psInvSeq_rg ..

theorem State.setParked_fw (s : State) (r : SeqRec) : (s.setParked r).fw = s.fw :=
  ite_of (P := fun u : State => u.fw = s.fw) (fun _ => rfl) fun _ => State.psInvSeq_fw ..

theorem State.setParked_loader (s : State) (r : SeqRec) : (s.setParked r).loader = s.loader :=
  ite_of (P := fun u : State => u.loader = s.loader) (fun _ => rfl) fun _ => State.psInvSeq_loader ..

end Sys2Proof.Machine
end

section
/-! SUPPORT. The page store's work for a sequence that is admitted, and the three parts of an admission (R233, R240, R246,
R247). -/

namespace Sys2Proof.Machine

/-! ## Pages drawn and shared -/

/-- A sequence but for the pages still reserved for it. -/
def SeqRec.unreserved (r : SeqRec) : SeqRec := { r with resv := 0 }

/-- The registers that the operations of the page store write. -/
def psOpKeys : List Nat := [PS_FREE.key, PS_IN_USE.key, PS_PENDING.key, PS_RESV.key] ++ psCmdKeys

/-- From `a` to `s` the fields `l`, the queues and, but for the pages reserved for them, the sequences stay. -/
structure Served (l : List Fld) (a s : State) : Prop where
  field : ∀ f ∈ l, s.rg f = a.rg f
  fw : s.fw = a.fw
  seqs : s.loader.seqs.map SeqRec.unreserved = a.loader.seqs.map SeqRec.unreserved

namespace Served

variable {l : List Fld} {a s t : State}

theorem refl (l : List Fld) (a : State) : Served l a a := ⟨fun _ _ => rfl, rfl, rfl⟩

theorem trans (h : Served l a s) (k : Served l s t) : Served l a t :=
  ⟨fun f hf => (k.field f hf).trans (h.field f hf), k.fw.trans h.fw, k.seqs.trans h.seqs⟩

/-- An update of parts that `Served` does not speak of. -/
theorem keep (h : Served l a s) (regs : ∀ f, t.rg f = s.rg f) (fw : t.fw = s.fw) (loader : t.loader = s.loader) :
    Served l a t :=
  h.trans ⟨fun f _ => regs f, fw, by rw [loader]⟩

theorem wr (h : Served l a s) {f : Fld} (apart : ∀ g ∈ l, g.key ≠ f.key) (v : Nat) : Served l a (s.wr f v) :=
  h.trans ⟨fun g hg => s.rg_wr_other (apart g hg) v, rfl, rfl⟩

theorem wrs (h : Served l a s) {w : List (Fld × Nat)} (apart : ∀ g ∈ l, ∀ p ∈ w, g.key ≠ p.1.key) : Served l a (s.wrs w) :=
  h.trans ⟨fun g hg => s.rg_wrs_other w (apart g hg), s.wrs_fw w, by rw [State.wrs_loader]⟩

theorem st (h : Served l a s) (n : Nat) (b : List Byte) : Served l a (s.st n b) := h.keep (fun _ => rfl) rfl rfl

theorem stN (h : Served l a s) (n k v : Nat) : Served l a (s.stN n k v) := h.st n (natLE k v)

/-- A change of sequences in the pages reserved for them. -/
theorem onSeq (h : Served l a s) (n : Nat) {f : SeqRec → SeqRec} (reserves : ∀ r, (f r).unreserved = r.unreserved) :
    Served l a (s.onSeq n f) := by
  refine h.trans ⟨fun _ _ => rfl, rfl, ?_⟩
  rw [State.onSeq, List.map_map]
  exact List.map_congr_left fun y _ =>
    ite_of (P := fun z : SeqRec => z.unreserved = y.unreserved) (fun _ => reserves y) fun _ => rfl

theorem psInvSeq (h : Served l a s) (n : Nat) : Served l a (s.psInvSeq n) :=
  h.keep (s.psInvSeq_rg n) (s.psInvSeq_fw n) (s.psInvSeq_loader n)

theorem ghShow (h : Served l a s) (apart : ∀ g ∈ l, g.key ∉ ghShowKeys) : Served l a s.ghShow :=
  h.trans ⟨fun g hg => s.rg_ghShow (apart g hg), s.ghShow_fw, by rw [State.ghShow_loader]⟩

/-- The sequence that `r` was is there still. -/
theorem mem (h : Served l a s) {r : SeqRec} (there : r ∈ a.loader.seqs) : ∃ y ∈ s.loader.seqs, y.unreserved = r.unreserved :=
  List.mem_map.1 (h.seqs ▸ List.mem_map_of_mem there)

section
variable (apart : ∀ g ∈ l, g.key ∉ psOpKeys)
include apart

/-- Writes of the page store's registers. -/
theorem psWrs (h : Served l a s) {w : List (Fld × Nat)} (own : ∀ p ∈ w, p.1.key ∈ psOpKeys) : Served l a (s.wrs w) :=
  h.wrs fun g hg p hp same => apart g hg (same ▸ own p hp)

theorem psDone (h : Served l a s) (op status : Nat) : Served l a (s.psDone op status) :=
  h.psWrs apart (by simp [psOpKeys, psCmdKeys])

theorem psAlloc (h : Served l a s) (res : Bool) : Served l a (s.psAlloc res) := by
  refine ite_of (fun _ => h.psDone apart _ _) fun _ => ?_
  have headed : Served l a s.headTaken := h.keep (fun _ => rfl) rfl rfl
  have taken : Served l a (s.takePage res).2 := headed.psWrs (w := s.takenFlds res) apart (by simp [State.takenFlds, psOpKeys])
  exact (taken.psDone apart 1 stOk).wr (fun g hg same => apart g hg (by rw [same]; decide)) _

theorem psShare (h : Served l a s) (ppn : Nat) : Served l a (s.psShare ppn) := by
  refine ite_of (fun _ => h.psDone apart _ _) fun _ => psDone apart ?_ _ _
  have written (v : Nat) : Served l a (s.setInfo ppn v) := h.stN _ 8 v
  refine ite_of (fun _ => ?_) fun _ => written _
  exact (written _).psWrs apart (by simp [psOpKeys])

/-- A page drawn is one less reserved for its sequence. -/
theorem draw (h : Served l a s) (n : Nat) : Served l a (s.draw n).2 :=
  ((h.psAlloc apart true).psInvSeq n).onSeq n fun _ => rfl

theorem mapScale (h : Served l a s) (r : SeqRec) (tr lp : Nat) : Served l a (s.mapScale r tr lp) :=
  ite_of (fun _ => h) fun _ => (h.draw apart r.seq).stN _ 8 _

theorem sharePrefix (h : Served l a s) (src r : SeqRec) (plen : Nat) : Served l a (s.sharePrefix src r plen) := by
  refine ite_of (fun _ => h) fun _ => foldl_of (P := Served l a) h fun u tr hu =>
    foldl_of (P := Served l a) hu fun v lp hv => ?_
  exact (((hv.mapScale apart r tr lp).psShare apart _).stN _ 8 _).st _ _

end

end Served

/-! ## The parts of an admission -/

/-- The record of a sequence as it is admitted: entry, handle, pages and rows; a request without a prompt is done. -/
def State.newSeq (s : State) (q : Nat) (b : List Byte) (tide : Nat) (x : ProgSet) (adp : Option Nat) (n l1 l2 : Nat) : SeqRec :=
  let pg := pagesPerTrack (leAt b 12 4) (leAt b 24 4)
  { seq := n, gen := (s.ldN (s.seqAddr n + 6) 1 + 1) % 256, set := x.handle, q := q, best := bit (leAt b 5 1) 0
    demoteOk := bit (leAt b 5 1) 1, maxlen := leAt b 12 4, sd := leAt b 16 2, fd := leAt b 18 2, adp := adp
    resv := pg.1 * x.tok.tracks, cow := pg.2 * x.tok.tracks, l1row := l1, l2row := l2
    l2per := ceilDiv (ceilDiv (leAt b 12 4) 64) 64, prompt := leAt b 20 4, taddr := leAt b 32 8
    req := if leAt b 20 4 = 0 then none else some (b, tide) }

/-- The pages reserved, the sequence in the books, its rows cleared and its entry written (R246). -/
def State.enterSeq (s : State) (r : SeqRec) (tok : TokPar) : State :=
  let s := s.wr PS_RESV (s.rg PS_RESV + r.resv)
  let s : State := { s with loader := { s.loader with seqs := s.loader.seqs ++ [r] } }
  let s := s.st (s.rg PS_PT_BASE + 512 * r.l1row) (zeros (512 * tok.tracks))
  let s := s.st (s.rg PS_PT_BASE + 512 * r.l2row) (zeros (512 * tok.tracks * r.l2per))
  s.st (s.seqAddr r.seq)
    (natLE 4 r.l1row ++ natLE 2 tok.tracks ++ natLE 1 r.gen ++ natLE 1 (1 + 4 * tok.kvfmt) ++ natLE 4 0 ++ zeros 20)

theorem State.enterSeq_rg (s : State) (r : SeqRec) (tok : TokPar) (f : Fld) :
    (s.enterSeq r tok).rg f = (s.wr PS_RESV (s.rg PS_RESV + r.resv)).rg f := by
  simp only [State.enterSeq, State.st_rg]
  exact State.rg_congr rfl f

theorem State.enterSeq_seqs (s : State) (r : SeqRec) (tok : TokPar) :
    (s.enterSeq r tok).loader.seqs = s.loader.seqs ++ [r] := rfl

/-- The first `plen` positions shared with the sequence that the handle `src` names (R247). -/
def State.shareFrom (s : State) (src : Nat) (r : SeqRec) (plen : Nat) : State :=
  match s.seqOf src with
  | some y => s.sharePrefix y r plen
  | none => s

/-- A sequence that reads an adapter entry counted for it (R300). -/
def State.readAdapter (s : State) : Option Nat → State
  | some e => s.bump (WL_ADP_REFS e)
  | none => s

/-- The length, the adapter and the count of admissions, and the books shown. -/
def State.enrol (s : State) (r : SeqRec) (plen : Nat) : State :=
  (((((s.stN (s.seqAddr r.seq + 8) 4 plen).readAdapter r.adp).psInvSeq r.seq).bump GH_ADMIT)).ghShow

/-- A sequence admitted, but for the completion of an OPEN that asks for nothing more. -/
def State.admitted (s : State) (b : List Byte) (r : SeqRec) (tok : TokPar) : State :=
  ((s.enterSeq r tok).shareFrom (leAt b 8 4) r (leAt b 24 4)).enrol r (leAt b 24 4)

variable {s : State} {q tide n l1 l2 : Nat} {b : List Byte} {x : ProgSet} {adp : Option Nat}

theorem State.takeIn_eq : s.takeIn q b tide x adp n l1 l2 =
    let r := s.newSeq q b tide x adp n l1 l2
    let u := s.admitted b r x.tok
    if leAt b 20 4 = 0 then u.stepDone q r.handle b stOk 0 (leAt b 24 4) 0 0 else u := by
  cases adp <;> rfl

theorem State.adapterFor_lt {f e : Nat} (found : s.adapterFor f = .ok (some e)) : e < 64 := by
  unfold State.adapterFor at found
  dsimp only at found
  split at found
  case isTrue => exact absurd found (by simp)
  case isFalse =>
    split at found
    case h_1 => exact absurd found (by simp)
    case h_2 e' current =>
      have inside := List.mem_range.1 (List.mem_of_find?_eq_some current)
      split at found
      case isTrue =>
        obtain rfl : e' = e := by simpa using found
        exact inside
      case isFalse => split at found <;> exact absurd found (by simp)

/-- Sharing leaves alone what the page store's operations do. -/
theorem Served.shareFrom {l : List Fld} (apart : ∀ g ∈ l, g.key ∉ psOpKeys) (s : State) (src : Nat) (r : SeqRec) (plen : Nat) :
    Served l s (s.shareFrom src r plen) := by
  unfold State.shareFrom
  split
  · exact (Served.refl l s).sharePrefix apart _ r plen
  · exact Served.refl l s

theorem State.shareFrom_zero (s : State) (src : Nat) (r : SeqRec) : s.shareFrom src r 0 = s := by
  unfold State.shareFrom
  split
  · exact if_pos rfl
  · rfl

/-- The count of adapters' readers apart from the fields `l`, the adapter is read without a change of them. -/
theorem Served.readAdapter {l : List Fld} (apart : ∀ g ∈ l, ∀ e < 64, g.key ≠ (WL_ADP_REFS e).key) (s : State)
    (entry : ∀ e, adp = some e → e < 64) : Served l s (s.readAdapter adp) := by
  cases adp with
  | none => exact Served.refl l s
  | some e => exact (Served.refl l s).wr (fun g hg => apart g hg e (entry e rfl)) _

section
variable {r : SeqRec} (s : State) (entry : ∀ e, r.adp = some e → e < 64) (plen : Nat)
include entry

/-- The length written and the adapter counted. -/
theorem Served.counted {l : List Fld} (apart : ∀ g ∈ l, ∀ e < 64, g.key ≠ (WL_ADP_REFS e).key) :
    Served l s (((s.stN (s.seqAddr r.seq + 8) 4 plen).readAdapter r.adp).psInvSeq r.seq) :=
  (((Served.refl l s).stN (s.seqAddr r.seq + 8) 4 plen).trans (Served.readAdapter apart _ entry)).psInvSeq r.seq

theorem State.enrol_count : (s.enrol r plen).rg GH_ADMIT = (s.rg GH_ADMIT + 1) % 2 ^ 64 := by
  have counted := Served.counted (l := [GH_ADMIT]) s entry plen (by decide)
  rw [State.enrol, State.rg_ghShow (by decide), State.rg_bump_same, counted.field GH_ADMIT (List.mem_singleton_self _)]
  rfl

theorem Served.enrol {l : List Fld} (apart : ∀ g ∈ l, g.key ≠ GH_ADMIT.key ∧ g.key ∉ ghShowKeys)
    (adapters : ∀ g ∈ l, ∀ e < 64, g.key ≠ (WL_ADP_REFS e).key) : Served l s (s.enrol r plen) :=
  ((Served.counted s entry plen adapters).wr (fun g hg => (apart g hg).1) _).ghShow fun g hg => (apart g hg).2

variable (b : List Byte) (tok : TokPar)

/-- From the entered sequence on an admission leaves stamps, queues and books alone. -/
theorem Served.admitted : Served stampFlds (s.enterSeq r tok) (s.admitted b r tok) :=
  (Served.shareFrom (by decide) (s.enterSeq r tok) (leAt b 8 4) r (leAt b 24 4)).trans
    (Served.enrol _ entry _ (by decide +kernel) (by decide +kernel))

theorem State.admitted_count : (s.admitted b r tok).rg GH_ADMIT = (s.rg GH_ADMIT + 1) % 2 ^ 64 := by
  have shared := Served.shareFrom (l := [GH_ADMIT]) (by decide) (s.enterSeq r tok) (leAt b 8 4) r (leAt b 24 4)
  have entered : (s.enterSeq r tok).rg GH_ADMIT = s.rg GH_ADMIT :=
    (s.enterSeq_rg r tok GH_ADMIT).trans (s.rg_wr_other (by decide) _)
  rw [State.admitted, State.enrol_count _ entry, shared.field GH_ADMIT (List.mem_singleton_self _), entered]

theorem State.admitted_resv (alone : leAt b 24 4 = 0) : (s.admitted b r tok).rg PS_RESV = (s.rg PS_RESV + r.resv) % 2 ^ 23 := by
  have enrolled := Served.enrol (l := [PS_RESV]) (s.enterSeq r tok) entry 0 (by decide) (by decide)
  rw [State.admitted, alone, State.shareFrom_zero, enrolled.field PS_RESV (List.mem_singleton_self _)]
  exact (s.enterSeq_rg r tok PS_RESV).trans (s.rg_wr_same PS_RESV _)

theorem State.admitted_stamp : (s.admitted b r tok).stamp = s.stamp := by
  have apart : ∀ f ∈ stampFlds, f.key ≠ PS_RESV.key := by decide
  refine State.stamp_of_flds fun f hf => ((Served.admitted s entry b tok).field f hf).trans ?_
  exact (s.enterSeq_rg r tok f).trans (s.rg_wr_other (apart f hf) _)

theorem State.mem_admitted : ∃ y ∈ (s.admitted b r tok).loader.seqs, y.unreserved = r.unreserved :=
  (Served.admitted s entry b tok).mem (by simp [State.enterSeq_seqs])

theorem State.admitted_fw : (s.admitted b r tok).fw = s.fw := (Served.admitted s entry b tok).fw.trans rfl

end

end Sys2Proof.Machine
end

section
/-! CERTIFICATE. An OPEN within its checks is admitted; STEP, CANCEL, CLOSE and RECLAIM reach their sequence, or are refused
(O32). -/

namespace Sys2Proof.Machine

variable {s s1 : State} {q tide : Nat} {b : List Byte}

/-! ## OPEN -/

/-- The sequence that an OPEN asks for, as the books would count it (R248 to R250). -/
def openProbe (b : List Byte) (x : ProgSet) : SeqRec :=
  { seq := 4096, set := x.handle, best := bit (leAt b 5 1) 0, maxlen := leAt b 12 4, sd := leAt b 16 2, fd := leAt b 18 2
    prompt := leAt b 20 4 }

/-- A request that meets no refusal of an OPEN takes the entry `n` and the rows `a` and `c` (R245 to R251). -/
theorem State.openReq_admits (gate : s.gateOpen) (taken : s.takeStep 0 = some (q, b, tide, s1)) {x : ProgSet}
    (placed : s1.set? (leAt b 6 2) = some x) (token : x.cls = 2) (assigned : x.state = 2) (good : s1.openBad b x = false)
    {adp : Option Nat} (adapter : s1.adapterFor (leAt b 30 2) = .ok adp) {n a c : Nat} (entry : s1.freeSeqEntry = some n)
    (rows1 : s1.freePtRows x.tok.tracks [] = some a)
    (rows2 : s1.freePtRows (x.tok.tracks * ceilDiv (ceilDiv (leAt b 12 4) 64) 64) [(a, x.tok.tracks)] = some c)
    (pages : s1.rg PS_RESV + (pagesPerTrack (leAt b 12 4) (leAt b 24 4)).1 * x.tok.tracks ≤ s1.rg PS_FREE)
    (cool : ¬ s1.on GH_CTRL_HOT)
    (kept : (openProbe b x).best ∨ (s1.splitFor (s1.loader.seqs ++ [openProbe b x]) x).isSome) :
    s.openReq = s1.takeIn q b tide x adp n a c := by
  have inTime : ¬ (s1.on GH_CTRL_HOT ∨
      (¬ (openProbe b x).best ∧ (s1.splitFor (s1.loader.seqs ++ [openProbe b x]) x).isNone)) := by
    rintro (hot | ⟨deadline, late⟩)
    · exact cool hot
    · rcases kept with best | fits
      · exact deadline best
      · rw [Option.isNone_iff_eq_none.1 late] at fits
        exact absurd fits (by simp)
  have opened := State.openReq.eq_def s
  rw [if_neg (not_not_intro gate), taken] at opened
  dsimp only at opened
  rw [placed] at opened
  dsimp only at opened
  rw [if_neg (by simp [token, assigned, good]), adapter] at opened
  dsimp only at opened
  rw [entry, rows1] at opened
  dsimp only [Option.bind_some] at opened
  rw [rows2] at opened
  dsimp only at opened
  rw [if_neg (Nat.not_lt.2 pages)] at opened
  exact opened.trans (if_neg inTime)

/-- A sequence taken in is counted and in the books, with its prompt (R245, R252). -/
theorem State.takeIn_spec {x : ProgSet} {adp : Option Nat} (entry : ∀ e, adp = some e → e < 64) (n a c : Nat) :
    let u := s.takeIn q b tide x adp n a c
    u.rg GH_ADMIT = (s.rg GH_ADMIT + 1) % 2 ^ 64 ∧
      ∃ y ∈ u.loader.seqs, y.unreserved = (s.newSeq q b tide x adp n a c).unreserved := by
  intro u
  have counts := State.admitted_count (r := s.newSeq q b tide x adp n a c) s entry b x.tok
  have there := State.mem_admitted (r := s.newSeq q b tide x adp n a c) s entry b x.tok
  by_cases silent : leAt b 20 4 = 0
  · rw [show u = _ from State.takeIn_eq.trans (if_pos silent), State.stepDone, State.complete_loader]
    exact ⟨(State.rg_complete (by decide) _ _).trans counts, there⟩
  · rw [show u = _ from State.takeIn_eq.trans (if_neg silent)]
    exact ⟨counts, there⟩

/-- An OPEN that shares nothing and has no prompt completes at once, its pages reserved (R245, R246). -/
theorem State.takeIn_completes (isOpen : leAt b 4 1 = 0) {x : ProgSet} {adp : Option Nat} (entry : ∀ e, adp = some e → e < 64)
    (n a c : Nat) (alone : leAt b 24 4 = 0) (silent : leAt b 20 4 = 0) : let u := s.takeIn q b tide x adp n a c
    u.rg PS_RESV = (s.rg PS_RESV + (pagesPerTrack (leAt b 12 4) (leAt b 24 4)).1 * x.tok.tracks) % 2 ^ 23 ∧
      s.completed u q (s.stepBytes (n + 65536 * ((s.ldN (s.seqAddr n + 6) 1 + 1) % 256)) 0 stOk 0 0 0 (leAt b 48 8) 0) := by
  intro u
  have taken : u = _ := State.takeIn_eq.trans (if_pos silent)
  have stamp := State.admitted_stamp (r := s.newSeq q b tide x adp n a c) s entry b x.tok
  have queues := congrArg Fw.queues (State.admitted_fw (r := s.newSeq q b tide x adp n a c) s entry b x.tok)
  rw [taken, State.stepDone, isOpen, alone]
  refine ⟨(State.rg_complete (by decide) _ _).trans ?_, ?_⟩
  · rw [State.admitted_resv s entry b x.tok alone, ← alone]
    rfl
  · have done := State.completed_complete_self (s.admitted b (s.newSeq q b tide x adp n a c) x.tok) q (s.stepBytes
      (s.newSeq q b tide x adp n a c).handle 0 stOk 0 0 0 (leAt b 48 8) 0)
    rw [State.completed, queues] at done
    rw [State.stepBytes, stamp]
    exact done

/-! ## The other requests -/

/-- A STEP of a sequence with no request in progress, no prompt left and room for a token is its request (R245). -/
theorem State.stepReq_takes (taken : s.takeStep 1 = some (q, b, tide, s1)) {r : SeqRec} (named : s1.seqOf (leAt b 0 4) = some r)
    (stays : r.ending = none) (idle : r.req = none) (prefilled : r.prompt = 0) (formed : reqOk b) (silent : leAt b 20 4 = 0)
    (logits : logitsOk (((s1.set? r.set).map fun x => x.tok).getD {}) b) (room : s1.seqLen r.seq < r.maxlen) :
    s.stepReq = s1.onSeq r.seq fun y => { y with q := q, req := some (b, tide) } := by
  simp only [State.stepReq, taken, named]
  exact if_neg (by simp [stays, idle, prefilled, formed, silent, logits, room])

/-- A CANCEL or CLOSE of a sequence that is not to end is the end of it at its next pass boundary (R256). -/
theorem State.endReq_takes {op status : Nat} (taken : s.takeStep op = some (q, b, tide, s1)) {r : SeqRec}
    (named : s1.seqOf (leAt b 0 4) = some r) (stays : r.ending = none) (formed : reqOk b) :
    s.endReq op status = s1.onSeq r.seq fun y => { y with ending := some (b, q, status) } := by
  simp only [State.endReq, taken, named]
  exact if_neg (by simp [stays, formed])

/-- The end is noted in the books of the sequence, and nowhere else. -/
theorem State.endReq_spec {op status : Nat} (taken : s.takeStep op = some (q, b, tide, s1)) {r : SeqRec}
    (named : s.seqOf (leAt b 0 4) = some r) (stays : r.ending = none) (formed : reqOk b) : let u := s.endReq op status
    u.regs = s.regs ∧ u.mem = s.mem ∧ u.loader.seqs = s.loader.seqs.map fun y =>
      if y.seq = r.seq then { y with ending := some (b, q, status) } else y := by
  intro u
  obtain ⟨-, l, rfl⟩ := State.takeStep_eq taken
  rw [show u = _ from State.endReq_takes taken named stays formed]
  exact ⟨rfl, rfl, rfl⟩

/-- A request for a handle that names nothing (R245). -/
theorem State.stepReq_unknown (taken : s.takeStep 1 = some (q, b, tide, s1)) (unknown : s1.seqOf (leAt b 0 4) = none) :
    s.stepReq = s1.answer q b stBadDescriptor := by
  simp only [State.stepReq, taken, unknown]

theorem State.endReq_unknown {op status : Nat} (taken : s.takeStep op = some (q, b, tide, s1))
    (unknown : s1.seqOf (leAt b 0 4) = none) : s.endReq op status = s1.answer q b stBadDescriptor := by
  simp only [State.endReq, taken, unknown]

theorem State.answer_unknown {op status : Nat} (asks : leAt b 4 1 = op) (named : op ≠ 0)
    (unknown : s.seqOf (leAt b 0 4) = none) :
    s.answer q b status = s.complete q (s.stepBytes (leAt b 0 4) op status 0 0 0 (leAt b 48 8) 0) := by
  subst asks
  simp only [State.answer, if_neg named, unknown]
  rfl

/-- The completion of a sequence's request shows that it was demoted, once (R253). -/
theorem State.seqDone_seqs (s : State) (q : Nat) (r : SeqRec) (b : List Byte) (status flags len nout step : Nat) :
    (s.seqDone q r b status flags len nout step).loader.seqs =
      s.loader.seqs.map fun y => if y.seq = r.seq then { y with demoted := false } else y := by
  rw [State.seqDone, State.onSeq, State.stepDone, State.complete_loader]

/-- A sequence out of parking, in the books and in its entry (R261, R263). -/
def State.unpark (s : State) (r : SeqRec) : State :=
  ((s.onSeq r.seq fun _ => { r with parked := none }).setParked { r with parked := none }).ghShow

theorem State.unpark_fw (s : State) (r : SeqRec) : (s.unpark r).fw = s.fw := (State.ghShow_fw _).trans (State.setParked_fw ..)

theorem State.unpark_loader (s : State) (r : SeqRec) :
    (s.unpark r).loader = (s.onSeq r.seq fun _ => { r with parked := none }).loader :=
  (State.ghShow_loader _).trans (State.setParked_loader ..)

/-- A RECLAIM of a parked BEST sequence, which no deadline keeps parked, takes it out of parking (R263). -/
theorem State.reclaim_unparks (gate : s.gateOpen) (taken : s.takeStep 4 = some (q, b, tide, s1)) {r : SeqRec}
    (named : s1.seqOf (leAt b 0 4) = some r) (stays : r.ending = none) (formed : reqOk b) (parked : r.parked.isSome)
    (best : r.best) : s.reclaim = (s1.unpark r).seqDone q { r with parked := none } b stOk 0 ((s1.unpark r).seqLen r.seq) 0 0 := by
  have reclaimed := State.reclaim.eq_def s
  rw [if_neg (not_not_intro gate), taken] at reclaimed
  dsimp only at reclaimed
  rw [named] at reclaimed
  dsimp only at reclaimed
  have parked' : r.parked.isNone = false := by simpa [Option.isNone_eq_false_iff] using parked
  rw [if_neg (by simp [stays, formed, parked'])] at reclaimed
  exact reclaimed.trans (if_pos (by rw [best, Bool.true_or]))

theorem State.unpark_seqDone (s : State) (r : SeqRec) (b : List Byte) (len : Nat) :
    let u := (s.unpark r).seqDone q { r with parked := none } b stOk 0 len 0 0
    (∃ d, s.completed u q d ∧ leAt d 0 4 = r.handle % 2 ^ 32 ∧ leAt d 5 1 = stOk) ∧
      ∀ y ∈ u.loader.seqs, y.seq = r.seq → y.parked = none := by
  intro u
  have done := State.completed_complete_self (s.unpark r) q ((s.unpark r).stepBytes r.handle (leAt b 4 1) stOk
    (b2n r.demoted + 2 * b2n (none : Option Nat).isSome + 0) len 0 (leAt b 48 8) 0)
  rw [State.completed, State.unpark_fw] at done
  refine ⟨⟨_, done, State.stepBytes_handle .., State.stepBytes_status _ _ _ _ _ _ _ (by decide)⟩, fun y there same => ?_⟩
  rw [State.seqDone_seqs, State.unpark_loader, State.onSeq, List.map_map] at there
  obtain ⟨z, -, rfl⟩ := List.mem_map.1 there
  by_cases here : z.seq = r.seq
  · simp [here]
  · simp [here] at same

/-- Settles O32: an OPEN by the parts of its admission, the other requests by what they note of their sequence. -/
theorem sequencesAreServed : Obligations.SequencesAreServed := by
  unfold Obligations.SequencesAreServed
  refine ⟨fun s s1 q tide n a c b x adp => ?_,
    fun s s1 q tide b => ⟨fun r named stays => ⟨?_, ?_, ?_, ?_⟩, fun unknown c op => ?_⟩⟩
  · intro tr need best gate taken placed token assigned good adapter entry rows1 rows2 pages cool kept
    obtain ⟨isOpen, l, rfl⟩ := State.takeStep_eq taken
    have opened := State.openReq_admits gate taken placed token assigned good adapter entry rows1 rows2 pages cool kept
    have inside : ∀ e, adp = some e → e < 64 := fun e same => State.adapterFor_lt (same ▸ adapter)
    refine ⟨⟨_, congrArg Host.Outcome.next opened, ?_⟩, fun alone silent =>
      ⟨_, congrArg Host.Outcome.next opened, State.takeIn_completes (tide := tide) isOpen inside n a c alone silent⟩⟩
    obtain ⟨counted, y, there, same⟩ := State.takeIn_spec (q := q) (tide := tide) (b := b) inside n a c
    refine ⟨counted, y, there, congrArg SeqRec.seq same, congrArg SeqRec.set same, congrArg SeqRec.best same,
      congrArg SeqRec.maxlen same, congrArg SeqRec.prompt same, congrArg SeqRec.adp same, fun prompt => ?_⟩
    exact (congrArg SeqRec.req same).trans (if_neg prompt)
  · intro taken idle prefilled flags silent logits reserved room
    obtain ⟨-, l, rfl⟩ := State.takeStep_eq taken
    have formed : reqOk b := by simp [reqOk, flags, reserved]
    exact ⟨_, congrArg Host.Outcome.next (State.stepReq_takes taken named stays idle prefilled formed silent logits room),
      rfl, rfl, rfl⟩
  · exact fun taken formed => ⟨_, rfl, State.endReq_spec taken named stays formed⟩
  · exact fun taken formed => ⟨_, rfl, State.endReq_spec taken named stays formed⟩
  · intro taken gate formed parked best
    obtain ⟨-, l, same⟩ := State.takeStep_eq taken
    have named1 : s1.seqOf (leAt b 0 4) = some r := by rw [same]; exact named
    obtain ⟨⟨d, done, answer⟩, unparked⟩ := State.unpark_seqDone (q := q) s1 r b ((s1.unpark r).seqLen r.seq)
    rw [State.completed, show s1.fw = s.fw by rw [same]] at done
    exact ⟨_, congrArg Host.Outcome.next (State.reclaim_unparks gate taken named1 stays formed parked best),
      ⟨d, done, answer⟩, unparked⟩
  · intro request taken
    obtain ⟨asks, l, same⟩ := State.takeStep_eq taken
    have unknown1 : s1.seqOf (leAt b 0 4) = none := by rw [same]; exact unknown
    have named : op ≠ 0 := by rintro rfl; simp at request
    have refused : exec c s = .next (s1.answer q b stBadDescriptor) := by
      simp only [List.mem_cons, Prod.mk.injEq, List.not_mem_nil, or_false] at request
      obtain ⟨rfl, rfl⟩ | ⟨rfl, rfl⟩ | ⟨rfl, rfl⟩ := request
      · exact congrArg Host.Outcome.next (State.stepReq_unknown taken unknown1)
      · exact congrArg Host.Outcome.next (State.endReq_unknown taken unknown1)
      · exact congrArg Host.Outcome.next (State.endReq_unknown taken unknown1)
    rw [State.answer_unknown asks named unknown1, same] at refused
    exact ⟨_, refused, (congrArg Loader.seqs (State.complete_loader ..)).trans rfl, State.completed_complete_self ..⟩

end Sys2Proof.Machine
end

section
/-! SUPPORT. Sequences parked when the host is lost (R261), the pages and the registration of a capture job (R264), and what
a row of the terrace store that is read leaves alone. -/

namespace Sys2Proof.Machine

variable {s t : State}

/-! ## Parking -/

/-- A sequence parked: in the books, in its entry, and counted. -/
def State.park (s : State) (r : SeqRec) : State :=
  ((s.onSeq r.seq fun y => { y with parked := some s.uptime }).setParked { r with parked := some s.uptime }).bump GH_PARKED

/-- Those of the sequences `l` parked that are not. -/
def State.parkAll (s : State) (l : List SeqRec) : State := l.foldl (fun s r => if r.parked.isSome then s else s.park r) s

theorem State.park_seqs (s : State) (r : SeqRec) : (s.park r).loader.seqs =
    s.loader.seqs.map fun y => if y.seq = r.seq then { y with parked := some s.uptime } else y :=
  congrArg Loader.seqs (State.setParked_loader ..)

theorem State.parkAll_rg {f : Fld} (other : f.key ≠ GH_PARKED.key) (s : State) (l : List SeqRec) :
    (s.parkAll l).rg f = s.rg f :=
  foldl_of (P := fun u : State => u.rg f = s.rg f) rfl fun _ _ same =>
    ite_of (P := fun u : State => u.rg f = s.rg f) (fun _ => same) fun _ =>
      ((State.rg_wr_other (f := GH_PARKED) _ other _).trans (State.setParked_rg ..)).trans same

/-- No sequence comes or goes; one that is not parked in the end was there before, and none of `l` with its entry is unparked. -/
theorem State.parkAll_seqs (s : State) (l : List SeqRec) :
    (s.parkAll l).loader.seqs.map (fun r => r.seq) = s.loader.seqs.map (fun r => r.seq) ∧
      ∀ y ∈ (s.parkAll l).loader.seqs, y.parked.isSome ∨ (y ∈ s.loader.seqs ∧ ∀ r ∈ l, r.seq = y.seq → r.parked.isSome) := by
  induction l generalizing s with
  | nil => exact ⟨rfl, fun y there => .inr ⟨there, by simp⟩⟩
  | cons r l ih =>
    rw [State.parkAll, List.foldl_cons, ← State.parkAll]
    by_cases parked : r.parked.isSome
    · rw [if_pos parked]
      refine ⟨(ih s).1, fun y there => ((ih s).2 y there).imp_right fun ⟨kept, rest⟩ => ⟨kept, ?_⟩⟩
      exact List.forall_mem_cons.2 ⟨fun _ => parked, rest⟩
    · rw [if_neg parked]
      obtain ⟨numbers, ends⟩ := ih (s.park r)
      refine ⟨numbers.trans ?_, fun y there => ?_⟩
      · rw [State.park_seqs, List.map_map]
        exact List.map_congr_left fun y _ => by
          simp only [Function.comp_apply]
          split <;> rfl
      · rcases ends y there with done | ⟨kept, rest⟩
        · exact .inl done
        · rw [State.park_seqs] at kept
          obtain ⟨z, before, rfl⟩ := List.mem_map.1 kept
          by_cases here : z.seq = r.seq
          · exact .inl (by simp [here])
          · rw [if_neg here] at rest ⊢
            exact .inr ⟨before, List.forall_mem_cons.2 ⟨fun same => absurd same.symm here, rest⟩⟩

/-! ## A capture job enters -/

namespace AddrErred

variable {a : State} (h : AddrErred a s)
include h

theorem protRegions : s.protRegions = a.protRegions := by
  refine List.filterMap_congr fun i hi => ?_
  have inside := List.mem_range.1 hi
  have base : (DRAM_PROT_BASE_UNIT i).key ∉ addrErrKeys := by
    apply notMem_addrErrKeys (by decide : 0 < 32) <;> simp only [DRAM_PROT_BASE_UNIT, INT_ADDR_ERR, INT_EVENT_ACCESS] <;> omega
  have size : (DRAM_PROT_SIZE_UNITS i).key ∉ addrErrKeys := by
    apply notMem_addrErrKeys (by decide : 0 < 32) <;> simp only [DRAM_PROT_SIZE_UNITS, INT_ADDR_ERR, INT_EVENT_ACCESS] <;> omega
  have enabled : s.on (DRAM_PROT_BASE_EN i) = a.on (DRAM_PROT_BASE_EN i) :=
    State.on_congr (h.rg_of_lo (by decide : 31 ≠ 0 ∧ 31 ≠ 3))
  rw [enabled, h.field _ base, h.field _ size]

theorem inDram (x n : Nat) : s.inDram x n = a.inDram x n := by
  have fac : s.fac = a.fac := (congrArg State.fac h.rest :)
  have size : s.dramSize = a.dramSize := by rw [State.dramSize, fac, State.dramSize]
  rw [State.inDram, State.dramTop, size, h.protRegions, State.inDram, State.dramTop]

theorem capOk (b : List Byte) : s.capOk b = a.capOk b := by
  simp only [State.capOk, State.mapEntry, State.ld, h.loader, h.mem]

theorem capPages (j : CapJob) : s.capPages j = a.capPages j := by
  have free : s.pageFree = a.pageFree := funext fun g => by rw [State.pageFree, h.pool, State.pageFree]
  have mapped : s.inDram = a.inDram := funext fun x => funext fun n => h.inDram x n
  have len : s.exportLen j = a.exportLen j := by simp only [State.exportLen, State.mapEntry, State.ld, h.mem]
  rw [State.capPages, free, mapped, len, State.capPages]

/-- A completion since an address error is one since before it. -/
theorem completed {u : State} {q op status handle value tag layer : Nat}
    (done : s.completed u q (s.cmdCompletion op status handle value tag layer)) :
    a.completed u q (a.cmdCompletion op status handle value tag layer) := by
  rw [State.completed, h.queues, State.cmdCompletion, h.stamp] at done
  exact done

theorem freeClient : s.freeClient = a.freeClient := by
  have enabled (c : Nat) : s.on (TIER_CLIENT_CTRL_EN c) = a.on (TIER_CLIENT_CTRL_EN c) :=
    State.on_congr (h.rg_of_lo (by decide : 31 ≠ 0 ∧ 31 ≠ 3))
  simp only [State.freeClient, enabled]

end AddrErred

/-- The pages `l` in the books of client `c`. -/
def State.clientPages (s : State) (c : Nat) (l : List Nat) : List PageRec :=
  l.map fun g => { client := c, idx := g, t1 := some g, prot := s.protectedAt (65536 * g - dramBase) }

/-- A job with its client and the client's pages `l` (R264, R305, R308). -/
def State.addJob (s : State) (j : CapJob) (l : List Nat) : State :=
  let s := s.register j.client 4
  { s with
    loader := { s.loader with jobs := s.loader.jobs ++ [j], nextJob := j.handle + 1 }
    pool := { s.pool with pages := s.pool.pages ++ s.clientPages j.client l } }

/-- The books' registers lie at the low bits of their words. -/
theorem State.rg_books_of_lo {f : Fld} (h : f.lo % 32 ≠ 0) (s : State) : s.books.rg f = s.rg f := by
  have apart {g : Fld} (low : g.lo = 0) : f.key ≠ g.key := Fld.key_ne_of_lo (by rwa [low])
  refine (State.rg_wrs_other _ _ ?_).trans (foldl_of (P := fun u : State => u.rg f = s.rg f) rfl
    fun u c same => (State.rg_wrs_other _ _ ?_).trans same)
  · simp [apart (g := TIER_FREE) rfl, apart (g := TIER_NFREE) rfl]
  · simp [apart (g := TIER_CLIENT_DRAM c) rfl, apart (g := TIER_CLIENT_NAND c) rfl, apart (g := TIER_CLIENT_PINNED c) rfl,
      apart (g := TIER_CLIENT_OLDEST c) rfl]

theorem State.register_on (s : State) (c kind : Nat) : (s.register c kind).on (TIER_CLIENT_CTRL_EN c) = true := by
  have apart {g : Fld} (place : g.lo = 28 ∨ g.lo = 0) : (TIER_CLIENT_CTRL_EN c).key ≠ g.key :=
    Fld.key_ne_of_lo (by rcases place with low | low <;> simp [low, TIER_CLIENT_CTRL_EN])
  have first : (s.register c kind).rg (TIER_CLIENT_CTRL_EN c) = 1 % 2 ^ 1 := s.rg_wrs_head 1 _ (by
    simp only [List.forall_mem_cons]
    exact ⟨apart (.inl rfl), apart (.inr rfl), apart (.inr rfl), by simp⟩)
  rw [State.on, first]
  rfl

theorem State.register_stamp {c : Nat} (inside : c < 64) (s : State) (kind : Nat) : (s.register c kind).stamp = s.stamp := by
  refine State.stamp_of_flds fun f hf => State.rg_wrs_other _ _ ?_
  have apart : ∀ f ∈ stampFlds, ∀ c < 64, f.key ≠ (TIER_CLIENT_CTRL_EN c).key ∧ f.key ≠ (TIER_CLIENT_CTRL_KIND c).key ∧
      f.key ≠ (TIER_CLIENT_FLOOR c).key ∧ f.key ≠ (TIER_CLIENT_CEIL c).key := by decide
  simpa using apart f hf c inside

theorem State.freeClient_lt {c : Nat} (found : s.freeClient = some c) : c < 64 := by
  obtain ⟨k, hk, rfl⟩ := List.mem_map.1 (List.mem_of_find?_eq_some found)
  have := List.mem_range.1 hk
  omega

/-! ## A training step -/

theorem State.readTs_loader (s : State) (t row : Nat) : (s.readTs t row).2.loader = s.loader :=
  foldl_of (P := fun u : State => u.loader = s.loader) rfl fun _ _ same =>
    (State.proj_firstLog (g := State.loader) (fun _ _ _ => rfl) _ _ _ _).trans same

theorem State.tsBytes_loader (s : State) (t row n : Nat) : (s.tsBytes t row n).2.loader = s.loader :=
  foldl_of (P := fun x : Option (List (List Byte)) × State => x.2.loader = s.loader) rfl fun x i same =>
    (x.2.readTs_loader t (row + i)).trans same

/-- The optimiser counts its step in the job, with the powers of the betas (R266). -/
theorem State.optimise_loader (s : State) (j : CapJob) : (s.optimise j).loader = { s.loader with
    jobs := s.loader.jobs.map fun y => if y.handle = j.handle then
      { y with u := y.u + 1, p1 := wMul j.p1 j.b1, p2 := wMul j.p2 j.b2 } else y } := by
  have updated (a b : Nat) : ((List.range j.nparam).foldl (fun s i => (s.gradAt j i).adamAt j a b i) s).loader = s.loader :=
    foldl_of (P := fun u : State => u.loader = s.loader) rfl fun _ _ same => same
  unfold State.optimise
  extract_lets p1 p2 a b
  rw [State.onJob, updated]

end Sys2Proof.Machine
end

section
/-! CERTIFICATE. The loss of the host parks every sequence and ends the one parked longest; a capture job starts, trains and is
cancelled (O33). -/

namespace Sys2Proof.Machine

variable {s s1 : State} {q : Nat} {e : List Byte}

/-! ## The host -/

theorem State.hostLost_parks (present : ¬ s.on GH_HOST_LOST) :
    let u := ((s.wr GH_HOST_LOST 1).logEntry 0x000E 0xFE 0xFFFF 0 stHostLost).count 19
    s.hostLost = (u.parkAll u.loader.seqs).ghShow := if_neg present

/-- Every sequence is parked, and the loss shown (R261). -/
theorem State.hostLost_spec (present : ¬ s.on GH_HOST_LOST) : s.hostLost.on GH_HOST_LOST ∧
    (∀ r ∈ s.hostLost.loader.seqs, r.parked.isSome) ∧
      s.hostLost.loader.seqs.map (fun r => r.seq) = s.loader.seqs.map (fun r => r.seq) := by
  have logged := ((Logged.refl (s.wr GH_HOST_LOST 1)).logEntry 0x000E 0xFE 0xFFFF 0 stHostLost).count 19
  rw [State.hostLost_parks present]
  generalize ((s.wr GH_HOST_LOST 1).logEntry 0x000E 0xFE 0xFFFF 0 stHostLost).count 19 = u at logged
  obtain ⟨numbers, parked⟩ := u.parkAll_seqs u.loader.seqs
  rw [State.ghShow_loader]
  refine ⟨?_, fun r there => ?_, ?_⟩
  · have shown : (u.parkAll u.loader.seqs).ghShow.rg GH_HOST_LOST = (s.wr GH_HOST_LOST 1).rg GH_HOST_LOST :=
      (State.rg_ghShow (by decide) _).trans ((State.parkAll_rg (by decide) ..).trans (logged.field _ (by decide)))
    rw [State.on_congr shown]
    exact s.on_wr_one rfl
  · rcases parked r there with done | ⟨before, all⟩
    · exact done
    · exact all r before rfl
  · rw [numbers, logged.loader]
    rfl

/-- With no result of a capture kept, the sequence parked longest is to end (R262). -/
theorem State.parkTimeout_ends {r : SeqRec} (oldest : s.oldestParked = some r) (noResult : s.oldestKept = none) :
    s.parkTimeout = s.onSeq r.seq fun y => { y with ending := some ([], r.q, stHostLost) } := by
  simp only [State.parkTimeout, oldest, noResult]

theorem State.onSeq_ending (s : State) (n : Nat) (x : Option (List Byte × Nat × Nat)) {y : SeqRec}
    (there : y ∈ (s.onSeq n fun y => { y with ending := x }).loader.seqs) (same : y.seq = n) : y.ending = x := by
  obtain ⟨z, -, rfl⟩ := List.mem_map.1 there
  by_cases here : z.seq = n
  · simp [here]
  · simp [here] at same

/-! ## Capture jobs -/

/-- The job of a CAPTURE_START with the parameter block `b`, its first batch staged. -/
def State.newJob (s : State) (b : List Byte) (q c : Nat) : CapJob :=
  s.withBatch { CapJob.of b with handle := s.loader.nextJob, q := q, client := c } 0 0

/-- A CAPTURE_START that meets no refusal adds its job (R264). -/
theorem State.captureStart_adds (taken : s.takeOp 5 = some (q, e, s1)) {t : State}
    (read : s1.spaceErr (leAt e 8 8) (leAt e 24 8) = t) {b : List Byte} (block : s1.ldSpace (leAt e 8 8) (leAt e 24 8) = b)
    (flags : leAt e 1 1 = 0) (reserved : allZero (slice e 2 6)) (tail : allZero (slice e 32 32)) (formed : t.capOk b)
    (agreed : t.feature 1) (few : (t.loader.jobs.filter fun j => j.kept.isNone).length < 2) {c : Nat} {l : List Nat}
    (client : t.freeClient = some c) (pages : t.capPages (CapJob.of b) = some l) {handle : Nat}
    (next : t.loader.nextJob = handle) {tag : Nat} (tagged : leAt e 16 8 = tag) :
    let v := t.addJob (t.newJob b q c) l
    s.captureStart = v.books.complete q (v.cmdCompletion 5 stOk handle 0 tag 0xFFFF) := by
  subst next tagged
  have started := State.captureStart.eq_def s
  rw [taken] at started
  dsimp only at started
  rw [block, read, if_neg (by simp [flags, reserved, tail, formed]), if_neg (not_not_intro agreed), if_neg (Nat.not_le.2 few),
    client, pages] at started
  exact started

section
variable {h : Nat} {j : CapJob} {x : ProgSet} (found : s.loader.jobs.find? (fun j => j.handle == h && j.kept.isNone) = some j)
  (placed : s.set? j.set = some x) (assigned : x.state = 2) (goesOn : j.cancel = false) (more : j.batch + 1 < j.nseg / 32)
include found placed assigned goesOn more

/-- A training step of a placed set, not the last of its epoch, runs the optimiser and stages the next batch (R265, R266). -/
theorem State.trainStep_goesOn : ∃ u : State, ∃ loss, u.loader = (s.optimise j).loader ∧
      s.trainStep h = u.onJob h fun y => { u.withBatch y j.epoch (j.batch + 1) with loss := loss } := by
  have inEpoch : ¬ j.nseg / 32 ≤ j.batch + 1 := Nat.not_le.2 more
  simp only [State.trainStep, found, placed, assigned, goesOn, inEpoch, ne_eq, not_true, if_false, false_and,
    Bool.false_eq_true]
  refine ⟨_, _, ?_, rfl⟩
  split
  · exact State.tsBytes_loader ..
  · rfl

/-- The job counts the optimiser's step, with the next batch staged. -/
theorem State.trainStep_spec : ∃ y ∈ (s.trainStep h).loader.jobs, y.handle = h ∧
      y.feed = y.segments j.epoch (j.batch + 1) ∧ y.u = j.u + 1 ∧ y.batch = j.batch + 1 ∧ y.p1 = wMul j.p1 j.b1 ∧
      y.p2 = wMul j.p2 j.b2 ∧ y.epoch = j.epoch := by
  obtain ⟨u, loss, loader, stepped⟩ := State.trainStep_goesOn found placed assigned goesOn more
  rw [stepped]
  have running : j.handle = h ∧ j.kept = none := by simpa using List.find?_some found
  have counted : { j with u := j.u + 1, p1 := wMul j.p1 j.b1, p2 := wMul j.p2 j.b2 } ∈ u.loader.jobs := by
    rw [loader, State.optimise_loader]
    exact List.mem_map.2 ⟨j, List.mem_of_find?_eq_some found, if_pos rfl⟩
  exact ⟨_, List.mem_map.2 ⟨_, counted, if_pos running.1⟩, running.1, rfl, rfl, rfl, rfl, rfl, rfl⟩

end

/-- A CAPTURE_CANCEL of a job whose set is placed marks it (R268). -/
theorem State.captureCancel_marks (taken : s.takeOp 6 = some (q, e, s1)) {j : CapJob} {x : ProgSet}
    (found : s1.loader.jobs.find? (fun j => j.handle == leAt e 32 4 && j.kept.isNone) = some j)
    (placed : s1.set? j.set = some x) (assigned : x.state = 2) : s.captureCancel =
      (s1.complete q (s1.cmdCompletion 6 stOk (leAt e 32 4) 0 (leAt e 16 8) 0xFFFF)).onJob (leAt e 32 4)
        fun j => { j with cancel := true } := by
  have placed' (c : List Byte) : (s1.complete q c).set? j.set = some x := by
    rw [State.set?, State.complete_loader, ← placed, State.set?]
  simp only [State.captureCancel, taken, found, placed', assigned, if_true]

/-- The job, its client with the pages `l`, and the completion of its entry, after the job was added (R264). -/
theorem State.addJob_spec {j : CapJob} (inside : j.client < 64) (s : State) (l : List Nat) (status handle tag : Nat) :
    let v := s.addJob j l
    let u := v.books.complete q (v.cmdCompletion 5 status handle 0 tag 0xFFFF)
    u.loader.jobs = s.loader.jobs ++ [j] ∧ (∀ g ∈ l, ∃ p ∈ u.pool.pages, p.client = j.client ∧ p.t1 = some g) ∧
      u.on (TIER_CLIENT_CTRL_EN j.client) ∧ s.completed u q (s.cmdCompletion 5 status handle 0 tag 0xFFFF) := by
  intro v u
  refine ⟨?_, fun g hg => ?_, ?_, ?_⟩
  · rw [State.complete_loader, State.books_loader]
    exact congrArg (fun l : Loader => l.jobs ++ [j]) (s.wrs_loader _)
  · rw [State.complete_pool, State.books_pool]
    exact ⟨_, List.mem_append_right _ (List.mem_map.2 ⟨g, hg, rfl⟩), rfl, rfl⟩
  · have kept : u.rg (TIER_CLIENT_CTRL_EN j.client) = (s.register j.client 4).rg (TIER_CLIENT_CTRL_EN j.client) :=
      (State.rg_complete (by exact (by decide : 31 % 32 ≠ 16)) _ _).trans
        (State.rg_books_of_lo (by exact (by decide : 31 % 32 ≠ 0)) v)
    rw [State.on_congr kept]
    exact s.register_on j.client 4
  · have stamp : v.stamp = s.stamp := (State.stamp_congr rfl).trans (s.register_stamp inside 4)
    have queues : v.books.fw.queues = s.fw.queues := by
      rw [State.books_fw]
      exact congrArg Fw.queues (s.wrs_fw _)
    exact State.completed_complete queues stamp ..

/-- Settles O33: the loss and the signs of life of the host, then a job by its start, a step and its cancel. -/
theorem hostLossAndCapture : Obligations.HostLossAndCapture := by
  unfold Obligations.HostLossAndCapture
  refine ⟨fun s => ⟨?_, fun present => ?_, fun lost => ?_, fun r oldest noResult => ?_⟩, fun s s1 q e => ?_⟩
  · refine ⟨_, rfl, rfl, State.rg_wr_same .., ?_⟩
    exact State.onlyRegs_wr (u := s.doorbell) ⟨fun _ _ => rfl, rfl, rfl⟩ (List.mem_singleton_self _) 0
  · exact ⟨_, rfl, State.hostLost_spec present⟩
  · exact congrArg Host.Outcome.next (if_pos lost)
  · refine ⟨_, congrArg Host.Outcome.next (State.parkTimeout_ends oldest noResult), rfl, rfl, fun y there same => ?_⟩
    exact s.onSeq_ending _ _ there same
  · intro tag b
    refine ⟨fun c l taken flags reserved tail formed agreed few pages client => ?_, fun h j x found placed assigned goesOn more => ?_,
      fun j x taken found placed assigned => ?_⟩
    · have entry := AddrErred.takeOp taken
      have errored := entry.spaceErr (leAt e 8 8) (leAt e 24 8)
      generalize read : s1.spaceErr (leAt e 8 8) (leAt e 24 8) = t at errored
      have added := State.captureStart_adds (b := b) taken read (entry.ldSpace _ _) flags reserved tail (by rwa [errored.capOk])
        (by rwa [errored.feature]) (by rwa [errored.loader]) (by rwa [errored.freeClient]) (by rwa [errored.capPages])
        (congrArg Loader.nextJob errored.loader) (tag := tag) rfl
      obtain ⟨jobs, held, registered, completed⟩ := State.addJob_spec (q := q) (j := t.newJob b q c)
        (State.freeClient_lt client) t l stOk s.loader.nextJob tag
      have jobs := jobs.trans (congrArg (fun x : Loader => x.jobs ++ [t.newJob b q c]) errored.loader)
      exact ⟨_, congrArg Host.Outcome.next added, ⟨_, jobs, congrArg Loader.nextJob errored.loader, rfl, rfl, rfl, rfl⟩, held,
        registered, errored.completed completed⟩
    · exact ⟨_, rfl, State.trainStep_spec found placed assigned goesOn more⟩
    · obtain ⟨taken', rfl⟩ := State.takeOp_eq taken
      refine ⟨_, congrArg Host.Outcome.next (State.captureCancel_marks taken found placed assigned), ?_, ?_⟩
      · exact congrArg (fun l : Loader => l.jobs.map fun y => if y.handle = leAt e 32 4 then { y with cancel := true } else y)
          (State.complete_loader ..)
      · exact State.completed_complete rfl (State.stamp_congr rfl) ..

end Sys2Proof.Machine
end

section
/-! # Proofs: the whole machine (O54 to O57, O59)

A step runs the command at the front or passes a nanosecond, and what every command keeps is kept by every step. -/

namespace Sys2Proof.Machine

/-! ## A command at the front, or none -/

theorem step_of_pending {s : State} {c : Instr} {rest : List Instr} (front : s.pending = c :: rest) :
    step s = exec c { s with pending := rest } := by
  simp only [step, front]

theorem step_of_idle {s : State} (idle : s.pending = []) : step s = .next (s.pass 1) := by
  simp only [step, idle]

/-- Settles O54: the step on a queue with a front, and the table without row bits. -/
theorem stepRunsTheFront : Obligations.StepRunsTheFront :=
  ⟨fun _ _ _ => step_of_pending rfl, fun _ _ _ => ⟨rfl, rfl⟩⟩

/-! ## A nanosecond passes -/

/-- The state in which the control die has counted `dt` ns more and the device time owed is noted (R40). -/
def State.waited (s : State) (dt : Nat) : State :=
  { s with uptime := s.uptime + dt, tide := { s.tide with frac := s.owed dt % 1000000000 } }

/-- Device time runs on to `t`: `TIME.NOW` alone changes, and edges of WCLK_OUT may be put out. -/
theorem State.runTo_eq (s : State) (t : Nat) : ∃ o, s.runTo t = { s.wr TIME_NOW t with out := o } ∧
    (o = s.out ∨ ∃ n, o = .wclkOuts n :: s.out) := by
  unfold State.runTo
  extract_lets n s'
  split
  · exact ⟨_, rfl, .inr ⟨n, rfl⟩⟩
  · exact ⟨_, rfl, .inl rfl⟩

/-- Settles O55: an idle step passes one nanosecond, which is waited and then run to. -/
theorem idleStepsPassTime : Obligations.IdleStepsPassTime := by
  intro s idle
  obtain ⟨o, ran, edges⟩ := (s.waited 1).runTo_eq (s.rg TIME_NOW + s.owed 1 / 1000000000)
  have now : (s.pass 1).rg TIME_NOW = (s.rg TIME_NOW + s.owed 1 / 10 ^ 9) % 2 ^ 64 := by
    rw [show s.pass 1 = _ from ran]
    exact State.rg_wr_same ..
  refine ⟨s.pass 1, step_of_idle idle, now, ?_⟩
  rw [now, show s.pass 1 = _ from ran]
  refine ⟨rfl, ⟨fun f other => ?_, rfl, rfl⟩, fun rate frac => ?_, edges, rfl, rfl⟩
  · exact State.rg_wr_other (s := s.waited 1) (List.ne_of_not_mem_cons other) _
  · simp [State.owed, rate, frac]

/-! ## What every step keeps -/

/-- Settles O56: every memory and table of the state after reset is empty. -/
theorem resetMeetsInvariant : Obligations.ResetMeetsInvariant := by
  refine ⟨⟨?_, ?_⟩, rfl, rfl, rfl, rfl, rfl, rfl⟩
  · exact ⟨.nil, KMap.canonical_nil _, KMap.canonical_nil _, KMap.canonical_nil _, KMap.canonical_nil _, KMap.canonical_nil _,
      KMap.canonical_nil _⟩
  · simp [State.queuesBounded, State.reset]

/-- Settles O57: what every command keeps holds the queue of waiting commands among it. -/
theorem everyCommandAnswers : Obligations.EveryCommandAnswers := by
  intro c s
  obtain ⟨t, answered, kept⟩ := exec_kept c s
  exact ⟨t, answered, kept.pend⟩

/-- Settles O59: a step is a command on a state with the same memories, or a nanosecond that passes. -/
theorem everyStepKeepsInvariant : Obligations.EveryStepKeepsInvariant := by
  intro s t inv stepped
  cases queue : s.pending with
  | nil =>
    rw [step_of_idle queue] at stepped
    exact Host.Outcome.next.inj stepped ▸ (State.pass_kept (.refl s)).inv inv
  | cons c rest =>
    obtain ⟨u, answered, kept⟩ := exec_kept c { s with pending := rest }
    rw [step_of_pending queue, answered] at stepped
    exact Host.Outcome.next.inj stepped ▸ kept.inv inv

end Sys2Proof.Machine
end

section
/-! CERTIFICATE. What is logged or committed on the way may reach the event ring, which lies in board DRAM (O26, O36).

Board DRAM holds the event ring too (R467). A rebuild that a patrol read needs is logged; with the always-on buffer full the
entry is dropped and counted, and a counter that saturates posts event 0x0061 (R512, R515). The read of a parameter set may
make a row a repair candidate, whose commit posts event 0x0040 when the budget runs low (R338, R448). -/

namespace Sys2Proof.Machine

/-- The NAND controller runs with superblock 0 written; the log's always-on buffer is full, the counter of dropped entries is
one below saturation, and the event ring is open. -/
def fullLogSt : State :=
  { State.reset.wrs [(NAND_CTRL_EN, 1), (HRING_EV_CTRL_EN, 1), (HRING_EV_BASE_ADDR, eventRingAddr)] with
    nand := { written := [0] }
    log := { buf := List.replicate 256 {} }
    life := { counts := [(20, 0xFFFFFFFE)] } }

/-- The patrol read of block 0, rebuilt from its stripe, posts event 0x0061: its code stands in the ring, where nothing
stood. -/
theorem fullLogSt_patrol_postsEvent : fullLogSt.on NAND_CTRL_EN = true ∧ 0 ∈ fullLogSt.nand.written ∧
    fullLogSt.mem.get eventRingAddr 0#8 = 0x00#8 ∧ (fullLogSt.nandPatrol 0 2 0).mem.get eventRingAddr 0#8 = 0x61#8 := by
  decide +kernel

/-- Refutes O26: a patrol read that needs a rebuild logs it, and the entry that the full buffer drops saturates its counter,
whose event is written to board DRAM. -/
theorem not_nand : ¬ Obligations.Nand := by
  rintro ⟨-, hops, -⟩
  obtain ⟨en, written, before, after⟩ := fullLogSt_patrol_postsEvent
  obtain ⟨-, -, patrol⟩ := hops fullLogSt en
  obtain ⟨t, ht, -, -, -, -, same⟩ := patrol 0 0 2 0#8 written
  have ht : fullLogSt.nandPatrol 0 2 0 = t := Host.Outcome.next.inj ht
  rw [← ht] at same
  rw [same, before] at after
  exact absurd after (by decide)

/-- Vision port 0 is on, and its parameter set lies in the protected unit of `wornStoreSt` that holds an error. -/
def markedPsetSt : State :=
  wornStoreSt.wrs [(VIN_PORT_CTRL_EN 0, 1), (VIN_CTX_PSET 0, dramBase)]

/-- The read of the set at the start of a frame posts event 0x0040: its code stands in the ring, where nothing stood. -/
theorem markedPsetSt_vinStart_postsEvent : markedPsetSt.on (VIN_PORT_CTRL_EN 0) = true ∧ (markedPsetSt.vport 0).frame = none ∧
    markedPsetSt.mem.get eventRingAddr 0#8 = 0x00#8 ∧ (markedPsetSt.vinStart 0).mem.get eventRingAddr 0#8 = 0x40#8 := by
  decide +kernel

/-- Refutes O36: a frame that starts reads its parameter set, and the error found there ends in an event written to board
DRAM. -/
theorem not_framesAndTensors : ¬ Obligations.FramesAndTensors := by
  rintro ⟨hports, -⟩
  obtain ⟨en, idle, before, after⟩ := markedPsetSt_vinStart_postsEvent
  obtain ⟨starts, -⟩ := hports markedPsetSt 0
  obtain ⟨t, ht, -, -, same, -⟩ := starts en idle
  have ht : markedPsetSt.vinStart 0 = t := Host.Outcome.next.inj ht
  rw [← ht] at same
  rw [same, before] at after
  exact absurd after (by decide)

end Sys2Proof.Machine
end

section
/-! CERTIFICATE. An image that is checked is not always the image that was there (O41).

The load of a firmware image reads it from board DRAM (R457); an error found in its first unit may end in event 0x0040, as
the read of a parameter set does. With the event ring over the image, the event stands where the image's header stood. -/

namespace Sys2Proof.Machine

/-- The header of an image of core 0 with one word of code (R456), whose CRC field is `crc`. The features are chosen so that
the CRC register is 0 after the header with the field at 0, and so stays 0 over the zeros that follow. -/
def unsignedHeader (crc : Nat) : List Byte :=
  natLE 4 0x57465646 ++ natLE 2 1 ++ zeros 10 ++ natLE 8 0x8A267B30 ++ natLE 4 4 ++ zeros 8 ++ natLE 4 1536 ++ natLE 4 crc ++ natLE 4 512

/-- The image without a signature: zeros follow the header. -/
def unsignedImage : List Byte := unsignedHeader 0xFFFFFFFF ++ zeros 1488

theorem length_unsignedImage : unsignedImage.length = 1536 := by decide +kernel

/-- A CRC register of 0 stays 0 over zeros. -/
theorem foldl_crcBits_zeros (p n : Nat) : (zeros n).foldl (fun c b => crcBits p 8 (c ^^^ b.toNat)) 0 = 0 := by
  induction n with
  | zero => rfl
  | succ n ih => simpa [zeros, List.replicate_succ, crcBits] using ih

theorem crc32c_unsignedImage : crc32c (patch unsignedImage 40 (zeros 4)) = 0xFFFFFFFF := by
  have cleared : patch unsignedImage 40 (zeros 4) = unsignedHeader 0 ++ zeros 1488 := by
    rw [unsignedImage, patch, List.take_append_of_le_length (by decide), List.drop_append_of_le_length (by decide),
      ← List.append_assoc]
    rfl
  have header : (unsignedHeader 0).foldl (fun c b => crcBits 0x82F63B78 8 (c ^^^ b.toNat)) 0xFFFFFFFF = 0 := by decide +kernel
  rw [cleared, crc32c, List.foldl_append, header, foldl_crcBits_zeros]
  rfl

/-- The image keeps the rules of R456. -/
theorem imageOk_unsignedImage : imageOk 0 unsignedImage = true := by
  have sum : leAt unsignedImage 40 4 = 0xFFFFFFFF := by decide +kernel
  simp only [imageOk, crc32c_unsignedImage, sum, length_unsignedImage]
  decide +kernel

/-- The image stands at the base of board DRAM, in the protected unit of `wornStoreSt` that holds an error; the event ring
lies there too. -/
def imageUnderRingSt : State :=
  { wornStoreSt.wrs [(FW_LOAD_ADDR, dramBase), (HRING_EV_BASE_ADDR, dramBase)] with mem := KMap.store [] dramBase unsignedImage }

/-- The image is where the load reads it, and its LENGTH is that of its bytes. -/
theorem imageUnderRingSt_image : imageUnderRingSt.ld (imageUnderRingSt.rg FW_LOAD_ADDR) 1536 = unsignedImage ∧
    imageUnderRingSt.ldN (imageUnderRingSt.rg FW_LOAD_ADDR + 36) 4 = 1536 := by
  have addr : imageUnderRingSt.rg FW_LOAD_ADDR = dramBase := by decide +kernel
  have image := State.ld_st (s := State.reset) dramBase unsignedImage
  rw [length_unsignedImage] at image
  exact ⟨addr ▸ image, by decide +kernel⟩

/-- The image is refused as it carries no signature. -/
theorem imageUnderRingSt_loadStatus : imageUnderRingSt.loadStatus 0 unsignedImage = stRefusedProtection := by
  have unsigned : imageUnderRingSt.fac.signed unsignedImage imageUnderRingSt.fac.rollCd = false := by decide +kernel
  simp [State.loadStatus, imageOk_unsignedImage, unsigned]

/-- The load finds no image there, as its first bytes are those of event 0x0040. -/
theorem imageUnderRingSt_fwLoad : (imageUnderRingSt.fwLoad 0x80000000).rg FW_LOAD_CTRL_STATUS = stBadDescriptor := by
  decide +kernel

/-- Refutes O41: the load answers the status of what it finds after its read of board DRAM has been made, which is not the
image that stood there before. -/
theorem not_firmwareCores : ¬ Obligations.FirmwareCores := by
  rintro ⟨-, hloads⟩
  obtain ⟨image, len⟩ := imageUnderRingSt_image
  obtain ⟨loads, -⟩ := hloads imageUnderRingSt 0x80000000#32
  obtain ⟨-, refused⟩ := loads 0 unsignedImage (by decide) (by decide) (by decide) (by rw [len]; decide) (by rw [len]; decide)
    (by rw [len, image])
  obtain ⟨t, ht, status, -⟩ := refused (by rw [imageUnderRingSt_loadStatus]; decide)
  have ht : imageUnderRingSt.fwLoad 0x80000000 = t := Host.Outcome.next.inj ht
  rw [← ht, imageUnderRingSt_fwLoad, imageUnderRingSt_loadStatus] at status
  exact absurd status (by decide)

end Sys2Proof.Machine
end

section
/-! CERTIFICATE. The firmware mode changes as its table allows, and SERVICE completes the start-up (O51). -/

namespace Sys2Proof.Machine

variable {s : State}

/-! ## What is left alone -/

theorem State.rg_takeFields_other {g : Fld} {l : List Fld} (apart : ∀ f ∈ l, g.key ≠ f.key) (s : State) (w : Nat) :
    (s.takeFields w l).rg g = s.rg g :=
  List.foldlRecOn (motive := fun u : State => u.rg g = s.rg g) _ _ rfl
    fun u same f hf => (u.rg_wr_other (apart f hf) _).trans same

theorem State.rg_raise (s : State) (v : Nat) (f : Fld) : (s.raise v).rg f = s.rg f := by
  unfold State.raise
  exact ite_of (P := fun u : State => u.rg f = s.rg f) (fun _ => rfl) fun _ =>
    ite_of (P := fun u : State => u.rg f = s.rg f)
      (fun _ => ite_of (P := fun u : State => u.rg f = s.rg f) (fun _ => rfl) fun _ => rfl) fun _ => rfl

theorem State.rg_flag {g ev : Fld} (apart : g.key ≠ ev.key) (s : State) (en : Fld) (v : Nat) :
    (s.flag ev en v).rg g = s.rg g :=
  ite_of (P := fun u : State => u.rg g = s.rg g) (fun _ => (State.rg_raise ..).trans (s.rg_wr_other apart 1))
    fun _ => s.rg_wr_other apart 1

/-! ## Stripes of flash that are usable -/

/-- The variant and the failed dies, which decide whether a stripe is usable (R348). -/
def State.dies (s : State) : Factory × Nat := (s.fac, s.rg NAND_DIE_FAIL_MASK)

theorem State.dies_keep {t : State} (fac : t.fac = s.fac) (regs : t.regs = s.regs) : t.dies = s.dies := by
  rw [State.dies, fac, State.rg_congr regs, State.dies]

theorem State.nandDead_congr {t : State} (same : t.dies = s.dies) : t.nandDead = s.nandDead := by
  obtain ⟨fac, mask⟩ := Prod.mk.inj same
  rw [State.nandDead, State.stripes, fac, mask, State.nandDead, State.stripes]

theorem Logged.dies {t : State} (h : Logged s t) : t.dies = s.dies := by
  rw [State.dies, h.fac, h.field _ (by decide), State.dies]

theorem State.dies_wrs (s : State) {l : List (Fld × Nat)} (apart : ∀ q ∈ l, NAND_DIE_FAIL_MASK.key ≠ q.1.key) :
    (s.wrs l).dies = s.dies := by
  rw [State.dies, State.wrs_fac, State.rg_wrs_other s l apart, State.dies]

theorem State.dies_setProt (s : State) (l : List (Nat × Nat)) : (s.setProt l).dies = s.dies := by
  have apart : ∀ i < 8, NAND_DIE_FAIL_MASK.key ≠ (DRAM_PROT_BASE_EN i).key ∧ NAND_DIE_FAIL_MASK.key ≠ (DRAM_PROT_BASE_UNIT i).key ∧
      NAND_DIE_FAIL_MASK.key ≠ (DRAM_PROT_SIZE_UNITS i).key := by decide
  refine List.foldlRecOn (motive := fun u : State => u.dies = s.dies) _ _ rfl fun u same i hi => Eq.trans ?_ same
  split <;> exact u.dies_wrs (by simpa using apart i (List.mem_range.1 hi))

theorem State.dies_formProt (n : Nat) : ∀ s : State, (s.formProt n).dies = s.dies := by
  induction n with
  | zero => exact fun s => s.dies_setProt _
  | succ n ih =>
    intro s
    unfold State.formProt
    split
    · exact s.dies_setProt _
    · exact (ih _).trans ((Logged.refl s).logEntry _ _ _ _ _).dies

theorem State.dies_books (s : State) : s.books.dies = s.dies := by
  rw [State.dies, State.proj_books (g := State.fac) (fun _ _ _ => rfl), State.rg_books (by decide), State.dies]

theorem State.dies_register {c : Nat} (low : c < 3) (s : State) (kind : Nat) : (s.register c kind).dies = s.dies := by
  have apart : ∀ c < 3, NAND_DIE_FAIL_MASK.key ≠ (TIER_CLIENT_CTRL_EN c).key ∧
      NAND_DIE_FAIL_MASK.key ≠ (TIER_CLIENT_CTRL_KIND c).key ∧ NAND_DIE_FAIL_MASK.key ≠ (TIER_CLIENT_FLOOR c).key ∧
      NAND_DIE_FAIL_MASK.key ≠ (TIER_CLIENT_CEIL c).key := by decide
  exact s.dies_wrs (by simpa using apart c low)

theorem State.dies_formPool (s : State) : s.formPool.dies = s.dies := by
  unfold State.formPool
  extract_lets s1 s2 p s3 s4
  have formed : s1.dies = s.dies := State.dies_formProt _ s
  clear_value s1
  have shown : s2.dies = s1.dies := s1.dies_wrs (by simp; decide)
  clear_value s2
  have placed : s3.dies = s2.dies := State.dies_keep rfl rfl
  clear_value s3
  have registered : s4.dies = s3.dies :=
    List.foldlRecOn (motive := fun u : State => u.dies = s3.dies) _ _ rfl fun u same c hc =>
      (u.dies_register (by simp at hc; omega) c).trans same
  clear_value s4
  have enabled : (s4.wr TIER_CTRL_EN 1).dies = s4.dies := s4.dies_wrs (l := [(TIER_CTRL_EN, 1)]) (by simp; decide)
  rw [State.dies_books, enabled, registered, placed, shown, formed]

/-! ## The end of the start-up -/

theorem State.phase_setTherm (s : State) (on : Bool) : (s.setTherm on).rg GC_STATUS_PHASE = s.rg GC_STATUS_PHASE :=
  ite_of (P := fun u : State => u.rg GC_STATUS_PHASE = s.rg GC_STATUS_PHASE) (fun _ => rfl)
    fun _ => (State.rg_flag (by decide) ..).trans (State.rg_wr_other _ (by decide) _)

theorem State.phase_leaveBypass (s : State) : s.leaveBypass.rg GC_STATUS_PHASE = s.rg GC_STATUS_PHASE :=
  ite_of (P := fun u : State => u.rg GC_STATUS_PHASE = s.rg GC_STATUS_PHASE) (fun _ => s.rg_wr_other (f := RING_CAUSEWAY_BYPASS) (by decide) 0)
    fun _ => rfl

theorem State.phase_enterSource (s : State) : s.enterSource.rg GC_STATUS_PHASE = s.rg GC_STATUS_PHASE := by
  have locked (v : Nat) : (s.wr TIDE_STATUS_LOCK v).rg GC_STATUS_PHASE = s.rg GC_STATUS_PHASE := s.rg_wr_other (by decide) v
  unfold State.enterSource
  extract_lets src
  split
  · exact locked 1
  split
  · exact locked _
  · exact locked 4

theorem State.phase_runSet (s : State) : s.runSet.rg GC_STATUS_PHASE = s.rg GC_STATUS_PHASE := by
  unfold State.runSet
  split
  · rfl
  split
  · exact (State.rg_flag (by decide) ..).trans ((State.rg_wr_other (f := TIDE_APPLY_HI_CAUSE) _ (by decide) 1).trans
      (s.rg_wr_other (f := TIDE_APPLY_HI_REFUSED) (by decide) 1))
  split
  · exact s.rg_wr_other (f := TIDE_CTRL_RUN) (by decide) 1
  · exact (State.phase_enterSource _).trans (s.rg_wr_other (f := TIDE_CTRL_RUN) (by decide) 1)

theorem State.phase_ringObject (s : State) (v : List Byte) : (s.applyObj 0x4101 v).rg GC_STATUS_PHASE = s.rg GC_STATUS_PHASE :=
  State.rg_takeFields_other (l := fieldsAt RING_CTRL_EN.off) (by decide +kernel) s (leNat v)

theorem State.alertEvent_regs (s : State) : s.alertEvent.regs = s.regs :=
  ite_of (P := fun u : State => u.regs = s.regs) (fun _ => rfl) fun _ => rfl

theorem State.startFailed_phase (s : State) (ph : Nat) : (s.startFailed ph).rg GC_STATUS_PHASE = 4 :=
  (State.rg_congr (State.alertEvent_regs _) _).trans (s.rg_wrs_head 4 [(GC_STATUS_FAIL, ph)] (by simp; decide))

/-- The start-up ends READY, or FAILED when no stripe of flash is usable (R531, R348). -/
theorem State.serviceStart_phase (s : State) : s.serviceStart.rg GC_STATUS_PHASE = if s.nandDead then 4 else 3 := by
  unfold State.serviceStart
  extract_lets s1 s2 s3 p s4 s5 s6 s7
  have same : s1.nandDead = s.nandDead :=
    State.nandDead_congr ((State.dies_formPool _).trans (s.dies_wrs (l := [(GC_STATUS_PHASE, 2)]) (by simp; decide)))
  rw [same]
  split
  · exact State.startFailed_phase _ _
  · have ready : s5.rg GC_STATUS_PHASE = 3 := s4.rg_wr_same ..
    have cool : s6.rg GC_STATUS_PHASE = s5.rg GC_STATUS_PHASE :=
      ite_of (P := fun u : State => u.rg GC_STATUS_PHASE = s5.rg GC_STATUS_PHASE) (fun _ => s5.phase_setTherm _) fun _ => rfl
    have joined : s7.rg GC_STATUS_PHASE = s6.rg GC_STATUS_PHASE := (State.phase_leaveBypass _).trans (s6.phase_ringObject _)
    clear_value s5 s6 s7
    have ready := joined.trans (cool.trans ready)
    split
    · exact s7.phase_runSet.trans ready
    · exact ready

/-! ## The mode -/

/-- What a write of `FW.STATE` does once it has cleared the error bits it names. -/
def State.changeMode (s : State) (new : Nat) : State :=
  let old := s.rg FW_STATE_MODE
  if new = old then s
  else if old = 0 ∧ (new = 1 ∨ new = 2) then
    if ¬ s.on FW_NEG_DONE then s.modeErr
    else if new = 1 ∧ s.rg GC_STATUS_PHASE = 1 then (s.wr FW_STATE_MODE new).serviceStart else s.wr FW_STATE_MODE new
  else if old = 1 ∧ new = 3 then
    if s.on GH_HOST_LOST then ({ s with fw := { s.fw with recOk := false } } : State).wr FW_STATE_MODE 3 else s.modeErr
  else if old = 3 ∧ new = 1 then
    if s.fw.recOk ∧ s.on FW_NEG_DONE then s.wr FW_STATE_MODE 1 else s.modeErr
  else s.modeErr

theorem State.modeWrite_eq (s : State) (w : Nat) :
    s.modeWrite w = (s.ackErr FW_STATE_ERR (bit w 29)).changeMode (bits w 30 2) := by
  have phase (u : State) (v : Nat) : (u.wr FW_STATE_MODE v).rg GC_STATUS_PHASE = u.rg GC_STATUS_PHASE :=
    u.rg_wr_other (by decide) v
  simp only [State.modeWrite, State.changeMode, phase]
  rfl

/-- A refused change leaves the mode and sets ERR. -/
theorem State.modeErr_spec (s : State) : s.modeErr.rg FW_STATE_MODE = s.rg FW_STATE_MODE ∧ s.modeErr.on FW_STATE_ERR ∧
    s.modeErr.mem = s.mem ∧ s.modeErr.loader = s.loader :=
  ⟨s.rg_wr_other (by decide) 1, s.on_wr_one rfl, rfl, rfl⟩

/-- The mode once it has changed, and what stays. -/
theorem State.newMode_spec (s : State) {new : Nat} (legal : new < 4) : (s.wr FW_STATE_MODE new).rg FW_STATE_MODE = new ∧
    (s.wr FW_STATE_MODE new).rg GC_STATUS_PHASE = s.rg GC_STATUS_PHASE :=
  ⟨(s.rg_wr_same ..).trans (Nat.mod_eq_of_lt legal), s.rg_wr_other (by decide) new⟩

/-- The failed dies and the variant do not follow the mode. -/
theorem State.nandDead_newMode (s : State) (new : Nat) : (s.wr FW_STATE_MODE new).nandDead = s.nandDead :=
  State.nandDead_congr (s.dies_wrs (l := [(FW_STATE_MODE, new)]) (by simp; decide))

section
variable {new : Nat}

theorem State.changeMode_start (start : s.rg FW_STATE_MODE = 0) (target : new = 1 ∨ new = 2) (agreed : s.on FW_NEG_DONE = true) :
    s.changeMode new =
      if new = 1 ∧ s.rg GC_STATUS_PHASE = 1 then (s.wr FW_STATE_MODE new).serviceStart else s.wr FW_STATE_MODE new := by
  have moves : new ≠ 0 := by omega
  simp [State.changeMode, start, moves, target, agreed]

theorem State.changeMode_refused (moves : new ≠ s.rg FW_STATE_MODE)
    (noStart : ¬ (s.rg FW_STATE_MODE = 0 ∧ (new = 1 ∨ new = 2) ∧ s.on FW_NEG_DONE = true))
    (noLoss : ¬ (s.rg FW_STATE_MODE = 1 ∧ new = 3 ∧ s.on GH_HOST_LOST = true))
    (noReturn : ¬ (s.rg FW_STATE_MODE = 3 ∧ new = 1 ∧ s.fw.recOk = true ∧ s.on FW_NEG_DONE = true)) :
    s.changeMode new = s.modeErr := by
  unfold State.changeMode
  extract_lets old
  refine (if_neg moves).trans ?_
  split
  · next legal => exact if_pos fun neg => noStart ⟨legal.1, legal.2, neg⟩
  split
  · next legal => exact if_neg fun lost => noLoss ⟨legal.1, legal.2, lost⟩
  split
  · next legal => exact if_neg fun ok => noReturn ⟨legal.1, legal.2, ok.1, ok.2⟩
  · rfl

end

/-- Settles O51: the write clears the error bit it names, and then takes the branch of its table. -/
theorem modesChange : Obligations.ModesChange := by
  intro s w new old
  have written : exec (.modeWrite w) s = .next ((s.ackErr FW_STATE_ERR (bit w.toNat 29)).changeMode new) :=
    congrArg Host.Outcome.next (s.modeWrite_eq w.toNat)
  have acked {f : Fld} (h : f.key ≠ FW_STATE_ERR.key) := State.ackErr_other h s (bit w.toNat 29)
  have dead : (s.ackErr FW_STATE_ERR (bit w.toNat 29)).nandDead = s.nandDead :=
    State.nandDead_congr (ite_of (P := fun u : State => u.dies = s.dies)
      (fun _ => s.dies_wrs (l := [(FW_STATE_ERR, 0)]) (by simp; decide)) fun _ => rfl)
  have mem := s.ackErr_mem FW_STATE_ERR (bit w.toNat 29)
  have loader : (s.ackErr FW_STATE_ERR (bit w.toNat 29)).loader = s.loader :=
    ite_of (P := fun u : State => u.loader = s.loader) (fun _ => rfl) fun _ => rfl
  have fw : (s.ackErr FW_STATE_ERR (bit w.toNat 29)).fw = s.fw :=
    ite_of (P := fun u : State => u.fw = s.fw) (fun _ => rfl) fun _ => rfl
  have mode : _ = old := acked (f := FW_STATE_MODE) (by decide)
  have phase := acked (f := GC_STATUS_PHASE) (by decide)
  have neg := State.on_congr (acked (f := FW_NEG_DONE) (by decide))
  have lost := State.on_congr (acked (f := GH_HOST_LOST) (by decide))
  generalize s.ackErr FW_STATE_ERR (bit w.toNat 29) = u at *
  rw [← phase, ← neg, ← lost, ← dead, ← fw, ← loader, ← mem]
  clear_value old
  subst mode
  have becomes {P : State → Prop} {t : State} (eq : u.changeMode new = t) (h : P t) : completes (.modeWrite w) s P :=
    ⟨t, written.trans (congrArg _ eq), h⟩
  refine ⟨fun start test agreed => ?_, fun start service agreed => ⟨fun early => ?_, fun ready => ?_⟩,
    fun service recovery gone => ?_, fun recovery service ok agreed => ?_, fun moves noStart noLoss noReturn => ?_, fun same => ?_⟩
  · exact becomes ((State.changeMode_start start (.inr test) agreed).trans (if_neg (by omega)))
      ⟨(u.newMode_spec (by omega)).1.trans test, rfl⟩
  · obtain ⟨mode, phase⟩ := u.newMode_spec (new := new) (by omega)
    exact becomes ((State.changeMode_start start (.inl service) agreed).trans (if_neg fun h => early h.2))
      ⟨mode.trans service, phase⟩
  · refine becomes ((State.changeMode_start start (.inl service) agreed).trans (if_pos ⟨service, ready⟩)) ?_
    rw [State.serviceStart_phase, State.nandDead_newMode]
  · exact becomes (t := ({ u with fw := { u.fw with recOk := false } } : State).wr FW_STATE_MODE 3)
      (by simp [State.changeMode, service, recovery, gone]) ⟨(State.newMode_spec _ (by omega)).1, rfl⟩
  · exact becomes (by simp [State.changeMode, recovery, service, ok, agreed]) ⟨(State.newMode_spec _ (by omega)).1, rfl⟩
  · exact becomes (State.changeMode_refused moves noStart noLoss noReturn) u.modeErr_spec
  · exact becomes (if_pos same) ⟨rfl, rfl, rfl⟩

end Sys2Proof.Machine
end

section
/-! CERTIFICATE. Queue pairs open, move and close (O42). -/

namespace Sys2Proof.Machine

variable {s : State} {q w : Nat}

/-! ## The words written -/

/-- The bits below the one that a command settles are those of the word written. -/
theorem bits_low {lo n : Nat} (low : lo + n ≤ 31) (w k : Nat) : bits (w % 2 ^ 31 + 2 ^ 31 * k) lo n = bits w lo n := by
  refine Nat.eq_of_testBit_eq fun i => ?_
  rw [bits, bits, Nat.testBit_mod_two_pow, Nat.testBit_mod_two_pow, Nat.testBit_div_two_pow, Nat.testBit_div_two_pow]
  by_cases inside : i < n
  · rw [Nat.add_comm (w % _), Nat.testBit_two_pow_mul_add _ (Nat.mod_lt _ (by decide)), if_pos (by omega), Nat.testBit_mod_two_pow]
    simp [show i + lo < 31 by omega]
  · simp [inside]

theorem bit_low {i : Nat} (low : i < 31) (w k : Nat) : bit (w % 2 ^ 31 + 2 ^ 31 * k) i = bit w i := by
  have same := bits_low (lo := i) (n := 1) low w k
  rw [bits, bits, Nat.pow_one] at same
  rw [bit, same, bit]

/-- A field among others reads what it read before when none of the writes names it. -/
theorem State.rg_wrs_notMem (s : State) {f : Fld} {l : List (Fld × Nat)} (h : f.key ∉ l.map fun p => p.1.key) :
    (s.wrs l).rg f = s.rg f := (s.onlyRegs_wrs l).1 f h

/-! ## Opening -/

/-- The state of a queue in the firmware's table. -/
def State.putQueue (s : State) (q : Nat) (x : QSt) : State := { s with fw := { s.fw with queues := s.fw.queues.set q x {} } }

/-- The settings of a queue pair, with the sizes that R8 keeps. -/
def State.sizeQueue (s : State) (q ien target sq cq : Nat) : State :=
  (s.wr (HRING_Q_CTRL_IEN q) ien).wrs [(HRING_Q_CTRL_TARGET q, target),
    (HRING_Q_CTRL_SQSIZE q, (HRING_Q_CTRL_SQSIZE q).take (s.rg (HRING_Q_CTRL_SQSIZE q)) sq),
    (HRING_Q_CTRL_CQSIZE q, (HRING_Q_CTRL_CQSIZE q).take (s.rg (HRING_Q_CTRL_CQSIZE q)) cq)]

/-- The fields that opening writes once the settings pass. -/
def openFlds (q : Nat) : List (Fld × Nat) :=
  [(HRING_Q_CTRL_EN q, 1), (HRING_Q_SQDB_HEAD q, 0), (HRING_Q_SQDB_TAIL q, 0), (HRING_Q_CQDB_HEAD q, 0), (HRING_Q_CQDB_TAIL q, 0),
    (HRING_Q_STAT_RETAINED q, 0)]

/-- What opening keeps of the queue that was: its completions, when it goes to the same target. -/
def State.keptQueue (s : State) (q : Nat) : QSt :=
  let old := s.fw.queues.get q {}
  let target := s.rg (HRING_Q_CTRL_TARGET q)
  if old.target = target then old else { target := target }

/-- The ring opens empty. -/
def State.emptyQueue (s : State) (q : Nat) : State :=
  (s.wrs (openFlds q)).putQueue q (s.keptQueue q)

theorem State.queueOpen_closed (kept : bit w 29 = false) (closed : ¬ s.on (HRING_Q_CTRL_EN q)) :
    s.queueOpenWrite q (w % 2 ^ 31 + 2 ^ 31) =
      let s' := s.sizeQueue q (bits w 30 1) (bits w 28 1) (bits w 20 4) (bits w 16 4)
      let t := s'.wr (HRING_Q_CTRL_STATUS q) (s'.queueStatus q)
      if s'.queueStatus q ≠ stOk then t.wr (HRING_Q_CTRL_ERR q) 1
      else (t.keptQueue q).held.foldl (fun s e => s.cqWrite q e) (t.emptyQueue q) := by
  have apart {f : Fld} (h : f.lo % 32 ≠ 30) : (s.wr (HRING_Q_CTRL_IEN q) (bits w 30 1)).rg f = s.rg f :=
    s.rg_wr_other (Fld.key_ne_of_lo h) _
  have still : ¬ (s.wr (HRING_Q_CTRL_IEN q) (bits w 30 1)).on (HRING_Q_CTRL_EN q) := by
    rwa [State.on_congr (apart (by exact (by decide : 31 ≠ 30)))]
  have below {lo n : Nat} (low : lo + n ≤ 31) : bits (w % 2 ^ 31 + 2 ^ 31) lo n = bits w lo n := bits_low low w 1
  have kept : bit (w % 2 ^ 31 + 2 ^ 31) 29 = false := (bit_low (by decide) w 1).trans kept
  simp only [State.queueOpenWrite, kept, Bool.false_eq_true, if_false, below (by decide : 30 + 1 ≤ 31), if_neg still,
    below (by decide : 28 + 1 ≤ 31), below (by decide : 20 + 4 ≤ 31), below (by decide : 16 + 4 ≤ 31),
    apart (f := HRING_Q_CTRL_SQSIZE q) (by exact (by decide : 20 ≠ 30)),
    apart (f := HRING_Q_CTRL_CQSIZE q) (by exact (by decide : 16 ≠ 30))]
  rfl

/-- A queue with no completion held has none once its settings change. -/
theorem State.keptQueue_held {t : State} (fw : t.fw = s.fw) (none : (s.fw.queues.get q {}).held = []) :
    (t.keptQueue q).held = [] := by
  unfold State.keptQueue
  rw [fw]
  exact ite_of (P := fun x : QSt => x.held = []) (fun _ => none) fun _ => rfl

/-- Once open, the ring is empty and its status stands. -/
theorem State.emptyQueue_spec (low : q < 8) (s : State) : (s.emptyQueue q).on (HRING_Q_CTRL_EN q) ∧
    (s.emptyQueue q).rg (HRING_Q_CTRL_STATUS q) = s.rg (HRING_Q_CTRL_STATUS q) ∧
    (s.emptyQueue q).rg (HRING_Q_SQDB_HEAD q) = 0 ∧ (s.emptyQueue q).rg (HRING_Q_SQDB_TAIL q) = 0 ∧
    (s.emptyQueue q).rg (HRING_Q_CQDB_HEAD q) = 0 ∧ (s.emptyQueue q).rg (HRING_Q_CQDB_TAIL q) = 0 := by
  have reads {f : Fld} {v : Nat} (h : (f, v) ∈ openFlds q) : (s.emptyQueue q).rg f = v % 2 ^ f.w :=
    State.rg_wrs_of_apart ((by decide : ∀ q < 8, ((openFlds q).map fun p => p.1.key).Nodup) q low) h s
  have status : (s.emptyQueue q).rg (HRING_Q_CTRL_STATUS q) = s.rg (HRING_Q_CTRL_STATUS q) :=
    s.rg_wrs_notMem ((by decide : ∀ q < 8, (HRING_Q_CTRL_STATUS q).key ∉ (openFlds q).map fun p => p.1.key) q low)
  exact ⟨beq_iff_eq.2 (reads (.head _)), status, reads (v := 0) (by simp [openFlds]), reads (v := 0) (by simp [openFlds]),
    reads (v := 0) (by simp [openFlds]), reads (v := 0) (by simp [openFlds])⟩

/-- Settings that do not pass leave the queue closed, with ERR. -/
theorem State.sizeQueue_refused (low : q < 8) (closed : ¬ s.on (HRING_Q_CTRL_EN q)) (ien target sq cq st : Nat) :
    let u := ((s.sizeQueue q ien target sq cq).wr (HRING_Q_CTRL_STATUS q) st).wr (HRING_Q_CTRL_ERR q) 1
    u.on (HRING_Q_CTRL_EN q) = false ∧ u.on (HRING_Q_CTRL_ERR q) := by
  have apart {f : Fld} (h : f.lo % 32 ≠ 31) : (HRING_Q_CTRL_EN q).key ≠ f.key := Fld.key_ne_of_lo (Ne.symm h)
  refine ⟨?_, State.on_wr_one _ rfl⟩
  rw [Bool.eq_false_iff, State.on_congr (t := _) (s := s)]
  · exact closed
  · rw [State.rg_wr_other _ (apart (by exact (by decide : 29 ≠ 31))), State.rg_wr_other _ (apart (by exact (by decide : 8 ≠ 31))),
      State.sizeQueue, State.rg_wrs_notMem, State.rg_wr_other _ (apart (by exact (by decide : 30 ≠ 31)))]
    exact (by decide : ∀ q < 8, (HRING_Q_CTRL_EN q).key ∉ [(HRING_Q_CTRL_TARGET q).key, (HRING_Q_CTRL_SQSIZE q).key,
      (HRING_Q_CTRL_CQSIZE q).key]) q low

/-! ## Closing -/

/-- The settings that a write of CTRL changes while the queue is closed. -/
def State.resizeClosed (s : State) (q target sq cq : Nat) : State :=
  let t (f : Fld) (v : Nat) : Nat := f.take (s.rg f) v
  if s.on (HRING_Q_CTRL_EN q) then s
  else s.wrs [(HRING_Q_CTRL_TARGET q, target), (HRING_Q_CTRL_SQSIZE q, t (HRING_Q_CTRL_SQSIZE q) sq),
    (HRING_Q_CTRL_CQSIZE q, t (HRING_Q_CTRL_CQSIZE q) cq)]

/-- The entries that HEAD has not reached are dropped as the queue closes. -/
theorem State.queueClose_spec (low : q < 8) (s : State) (w : Nat) : let u := s.queueClose q w
    u.on (HRING_Q_CTRL_EN q) = false ∧ u.rg (HRING_Q_SQDB_HEAD q) = s.rg (HRING_Q_SQDB_TAIL q) ∧ u.fw = s.fw ∧ u.mem = s.mem := by
  have closes : s.queueClose q w = let r := (s.ackErr (HRING_Q_CTRL_ERR q) (bit w 29)).resizeClosed q (bits w 28 1) (bits w 20 4) (bits w 16 4)
    r.wrs [(HRING_Q_CTRL_EN q, 0), (HRING_Q_CTRL_IEN q, bits w 30 1), (HRING_Q_SQDB_HEAD q, r.rg (HRING_Q_SQDB_TAIL q))] := rfl
  have sized (u : State) : let r := u.resizeClosed q (bits w 28 1) (bits w 20 4) (bits w 16 4)
      r.rg (HRING_Q_SQDB_TAIL q) = u.rg (HRING_Q_SQDB_TAIL q) ∧ r.fw = u.fw ∧ r.mem = u.mem := by
    refine ite_of (P := fun r : State => r.rg (HRING_Q_SQDB_TAIL q) = u.rg (HRING_Q_SQDB_TAIL q) ∧ r.fw = u.fw ∧ r.mem = u.mem)
      (fun _ => ⟨rfl, rfl, rfl⟩) fun _ => ⟨u.rg_wrs_notMem ?_, rfl, rfl⟩
    exact (by decide : ∀ q < 8, (HRING_Q_SQDB_TAIL q).key ∉ [(HRING_Q_CTRL_TARGET q).key, (HRING_Q_CTRL_SQSIZE q).key,
      (HRING_Q_CTRL_CQSIZE q).key]) q low
  obtain ⟨tail, fw, mem⟩ := sized (s.ackErr (HRING_Q_CTRL_ERR q) (bit w 29))
  rw [State.ackErr_other (Fld.key_ne_of_lo (by exact (by decide : 0 ≠ 29)))] at tail
  rw [State.ackErr_mem] at mem
  have fw := fw.trans (ite_of (P := fun u : State => u.fw = s.fw) (fun _ => rfl) fun _ => rfl)
  rw [closes]
  generalize (s.ackErr (HRING_Q_CTRL_ERR q) (bit w 29)).resizeClosed q (bits w 28 1) (bits w 20 4) (bits w 16 4) = r at tail fw mem
  have reads {f : Fld} {v : Nat} := State.rg_wrs_of_mem (f := f) (v := v) (l := [(HRING_Q_CTRL_EN q, 0),
    (HRING_Q_CTRL_IEN q, bits w 30 1), (HRING_Q_SQDB_HEAD q, r.rg (HRING_Q_SQDB_TAIL q))]) (by exact (by decide : [31, 30, 16].Nodup))
  refine ⟨beq_eq_false_iff_ne.2 ?_, ?_, (State.wrs_fw ..).trans fw, (State.wrs_mem ..).trans mem⟩
  · exact fun one => absurd ((reads (.head _) r).symm.trans one) (by exact (by decide : 0 ≠ 1))
  · exact (reads (.tail _ (.tail _ (.head _))) r).trans ((Nat.mod_eq_of_lt (State.rg_lt r (HRING_Q_SQDB_TAIL q))).trans tail)

/-! ## Doorbells -/

/-- A submission doorbell moves TAIL within the free places, or is refused with ERR. -/
theorem State.sqTail_open (opened : s.on (HRING_Q_CTRL_EN q)) {v n tail adv : Nat} (size : n = 2 ^ s.rg (HRING_Q_CTRL_SQSIZE q))
    (last : tail = s.rg (HRING_Q_SQDB_TAIL q)) (inside : v < n) (steps : adv = (v + n - tail) % n) :
    s.sqTail q v = if adv + (tail + n - s.rg (HRING_Q_SQDB_HEAD q)) % n < n then s.doorbell.wr (HRING_Q_SQDB_TAIL q) v
      else s.doorbell.wr (HRING_Q_CTRL_ERR q) 1 := by
  have rings : s.sqTail q v = if ¬ s.on (HRING_Q_CTRL_EN q) then s.doorbell
      else if n ≤ v ∨ n - 1 - (tail + n - s.rg (HRING_Q_SQDB_HEAD q)) % n < adv then s.doorbell.wr (HRING_Q_CTRL_ERR q) 1
      else s.doorbell.wr (HRING_Q_SQDB_TAIL q) v := by subst size last steps; rfl
  have used := Nat.mod_lt (tail + n - s.rg (HRING_Q_SQDB_HEAD q)) (show 0 < n by omega)
  rw [rings, if_neg (not_not_intro opened)]
  by_cases room : adv + (tail + n - s.rg (HRING_Q_SQDB_HEAD q)) % n < n
  · rw [if_pos room, if_neg (by omega)]
  · rw [if_neg room, if_pos (by omega)]

/-- A completion doorbell moves HEAD over completions that are there; they are held no longer. -/
theorem State.cqHead_open (opened : s.on (HRING_Q_CTRL_EN q)) {v n adv : Nat} (size : n = 2 ^ s.rg (HRING_Q_CTRL_CQSIZE q))
    (inside : v < n) (steps : adv = (v + n - s.rg (HRING_Q_CQDB_HEAD q)) % n)
    (there : adv ≤ (s.rg (HRING_Q_CQDB_TAIL q) + n - s.rg (HRING_Q_CQDB_HEAD q)) % n) :
    let x := s.fw.queues.get q {}
    s.cqHead q v = (s.doorbell.putQueue q { x with held := x.held.drop adv }).wr (HRING_Q_CQDB_HEAD q) v := by
  subst size steps
  exact if_neg (by
    rintro (closed | beyond | far)
    · exact closed opened
    · exact absurd inside (Nat.not_lt.2 beyond)
    · exact absurd there (Nat.not_le.2 far))

/-! ## Taking an entry -/

/-- The entry at HEAD is taken, and a place for its completion reserved. -/
def State.takeEntry (s : State) (q : Nat) (target : Bool) : State :=
  let t := s.wr (HRING_Q_SQDB_HEAD q) ((s.rg (HRING_Q_SQDB_HEAD q) + 1) % 2 ^ s.rg (HRING_Q_CTRL_SQSIZE q))
  let x := t.fw.queues.get q {}
  t.putQueue q { x with reserved := x.reserved + 1, target := b2n target }

/-- What an entry taken leaves alone, and what it changes. -/
theorem State.takeEntry_spec (s : State) (q : Nat) (target : Bool) : let u := s.takeEntry q target
    u.mem = s.mem ∧ s.onlyRegs u [(HRING_Q_SQDB_HEAD q).key] ∧
      (u.fw.queues.get q {}).reserved = (s.fw.queues.get q {}).reserved + 1 ∧
      u.rg (HRING_Q_SQDB_HEAD q) = (s.rg (HRING_Q_SQDB_HEAD q) + 1) % 2 ^ s.rg (HRING_Q_CTRL_SQSIZE q) % 2 ^ 16 :=
  ⟨rfl, State.onlyRegs_wr (s.onlyRegs_refl _) (.head _) _, congrArg QSt.reserved (KMap.get_set_same (s.fw.queues) q _ _), s.rg_wr_same ..⟩

/-- Where an entry goes that is taken. -/
def State.passEntry (u : State) (q : Nat) (e : List Byte) (target : Bool) : State :=
  if target then
    (if leAt e 4 1 < 5 then { u with loader := { u.loader with reqs := u.loader.reqs ++ [(q, e, u.rg TIDE_NUM)] } }
      else u.answer q e stBadDescriptor)
  else if 1 ≤ leAt e 0 1 ∧ leAt e 0 1 ≤ 6 then { u with fw := { u.fw with taken := u.fw.taken ++ [{ q := q, entry := e }] } }
  else u.complete q (u.cmdCompletion (leAt e 0 1) stBadDescriptor 0 0 (leAt e 16 8) 0xFFFF)

/-- The host core holds it. -/
def State.toHost (u : State) (q : Nat) (e : List Byte) : State :=
  { u with fw := { u.fw with taken := u.fw.taken ++ [{ q := q, entry := e }] } }

theorem State.passEntry_host (u : State) (q : Nat) {e : List Byte} (low : 1 ≤ leAt e 0 1) (high : leAt e 0 1 ≤ 6) :
    u.passEntry q e false = u.toHost q e :=
  (if_neg Bool.false_ne_true).trans (if_pos ⟨low, high⟩)

/-- The gatehouse's table holds it. -/
def State.toGatehouse (u : State) (q : Nat) (e : List Byte) : State :=
  { u with loader := { u.loader with reqs := u.loader.reqs ++ [(q, e, u.rg TIDE_NUM)] } }

theorem State.passEntry_gatehouse (u : State) (q : Nat) {e : List Byte} (listed : leAt e 4 1 < 5) :
    u.passEntry q e true = u.toGatehouse q e := (if_pos rfl).trans (if_pos listed)

theorem State.sqTake_taken (opened : s.on (HRING_Q_CTRL_EN q)) (waits : s.rg (HRING_Q_SQDB_HEAD q) ≠ s.rg (HRING_Q_SQDB_TAIL q))
    (place : s.cqFree q) (accepts : if s.on (HRING_Q_CTRL_TARGET q) then s.loader.reqs.length < 4096 else s.coreRuns 0) :
    s.sqTake q = (s.takeEntry q (s.on (HRING_Q_CTRL_TARGET q))).passEntry q
      (s.ld (s.rg (HRING_Q_SQB_ADDR q) + 64 * s.rg (HRING_Q_SQDB_HEAD q)) 64) (s.on (HRING_Q_CTRL_TARGET q)) := by
  refine (if_neg ?_).trans (by rfl)
  rintro (closed | empty | full | busy)
  · exact closed opened
  · exact waits empty
  · exact full place
  · split at accepts
    · next sched => exact absurd accepts (Nat.not_lt.2 (by simpa [sched] using busy))
    · next host => exact absurd accepts (by simpa [host] using busy)

/-- Settles O42: each doorbell and each command of a queue pair is the equation above for its case (R462 to R464). -/
theorem queuePairs : Obligations.QueuePairs := by
  intro s q
  refine ⟨fun w s' kept closed sized => ⟨fun legal none => ?_, fun illegal => ?_⟩, fun w => ?_,
    fun opened v n tail adv size last inside steps => ⟨fun room => ?_, fun full => ?_⟩,
    fun e opened waits place entry => ⟨fun host runs low high => ?_, fun gatehouse few listed => ?_⟩,
    fun opened v n adv size inside steps there => ?_⟩
  · obtain ⟨en, status, ends⟩ := State.emptyQueue_spec q.isLt (s'.wr (HRING_Q_CTRL_STATUS q.val) (s'.queueStatus q.val))
    have mem : s'.mem = s.mem := sized ▸ (State.wrs_mem ..)
    have fw : s'.fw = s.fw := sized ▸ (State.wrs_fw ..)
    have opens := State.queueOpen_closed kept closed
    rw [show s.sizeQueue q.val _ _ _ _ = s' from sized.symm] at opens
    dsimp only at opens
    rw [if_neg (not_not_intro legal), State.keptQueue_held (t := s'.wr (HRING_Q_CTRL_STATUS q.val) (s'.queueStatus q.val)) (s := s) fw none] at opens
    refine ⟨_, congrArg Host.Outcome.next opens, en, ?_, ends.1, ends.2.1, ends.2.2.1, ends.2.2.2, (State.wrs_mem ..).trans mem⟩
    exact status.trans ((State.rg_wr_same ..).trans (by rw [legal]; rfl))
  · have opens := State.queueOpen_closed kept closed
    rw [show s.sizeQueue q.val _ _ _ _ = s' from sized.symm] at opens
    dsimp only at opens
    rw [if_pos illegal] at opens
    obtain ⟨en, err⟩ := State.sizeQueue_refused q.isLt closed _ _ _ _ (s'.queueStatus q.val)
    refine ⟨_, congrArg Host.Outcome.next opens, ?_, State.on_wr_one _ rfl, sized ▸ (State.wrs_mem ..)⟩
    rw [show s.sizeQueue q.val _ _ _ _ = s' from sized.symm] at en
    exact en
  · exact ⟨_, rfl, State.queueClose_spec q.isLt s (w.toNat % 2 ^ 31)⟩
  · refine ⟨_, congrArg Host.Outcome.next ((State.sqTail_open opened size last inside steps).trans (if_pos room)), ?_, rfl, ?_⟩
    · exact (State.rg_wr_same ..).trans (Nat.mod_eq_of_lt v.isLt)
    · exact State.onlyRegs_wr (u := s.doorbell) (s.onlyRegs_refl _) (.head _) _
  · exact ⟨_, congrArg Host.Outcome.next ((State.sqTail_open opened size last inside steps).trans (if_neg (Nat.not_lt.2 full))),
      State.on_wr_one _ rfl, State.onlyRegs_wr (u := s.doorbell) (s.onlyRegs_refl _) (.head _) _⟩
  · have went := State.sqTake_taken opened waits place (by simpa [host] using runs)
    simp only [Bool.not_eq_true] at host
    rw [← entry, host, State.passEntry_host _ _ low high] at went
    exact ⟨_, congrArg Host.Outcome.next went, s.takeEntry_spec q.val false, rfl⟩
  · have went := State.sqTake_taken opened waits place (by simpa [gatehouse] using few)
    rw [← entry, gatehouse, State.passEntry_gatehouse _ _ listed] at went
    have tide : (s.takeEntry q.val true).rg TIDE_NUM = s.rg TIDE_NUM :=
      s.rg_wr_other ((by decide : ∀ q < 8, TIDE_NUM.key ≠ (HRING_Q_SQDB_HEAD q).key) q.val q.isLt) _
    exact ⟨_, congrArg Host.Outcome.next went, s.takeEntry_spec q.val true, tide ▸ rfl⟩
  · refine ⟨_, congrArg Host.Outcome.next (State.cqHead_open opened size inside steps there), ?_, ?_, ?_⟩
    · exact (State.rg_wr_same ..).trans (Nat.mod_eq_of_lt v.isLt)
    · exact congrArg QSt.held (KMap.get_set_same s.fw.queues q.val _ _)
    · exact State.onlyRegs_wr (u := s.doorbell.putQueue q.val _) (s.onlyRegs_refl _) (.head _) _

end Sys2Proof.Machine
end

section
/-! CERTIFICATE. The event ring, and the mailbox of messages to the module (O43). -/

namespace Sys2Proof.Machine

variable {s : State} {w : Nat}

/-! ## The event ring -/

/-- The settings of the event ring, with the size that R8 keeps. -/
def State.sizeEvents (s : State) (ien size : Nat) : State :=
  (s.wr HRING_EV_CTRL_IEN ien).wr HRING_EV_CTRL_SIZE (HRING_EV_CTRL_SIZE.take (s.rg HRING_EV_CTRL_SIZE) size)

/-- The registers that the rings in use are read from. -/
def ringFlds : List Fld :=
  [HRING_EV_CTRL_EN, HRING_EV_BASE_ADDR] ++ (List.range 8).flatMap fun q =>
    [HRING_Q_CTRL_EN q, HRING_Q_SQB_ADDR q, HRING_Q_CTRL_SQSIZE q, HRING_Q_CQB_ADDR q, HRING_Q_CTRL_CQSIZE q]

theorem State.sizeEvents_rg {f : Fld} (ien : f.key ≠ HRING_EV_CTRL_IEN.key) (size : f.key ≠ HRING_EV_CTRL_SIZE.key) (i n : Nat) :
    (s.sizeEvents i n).rg f = s.rg f := (State.rg_wr_other _ size _).trans (s.rg_wr_other ien _)

/-- The rings in use are the same while the event ring is closed. -/
theorem State.sizeEvents_openRings (closed : ¬ s.on HRING_EV_CTRL_EN) (i n : Nat) : (s.sizeEvents i n).openRings = s.openRings := by
  have same {f : Fld} (h : f ∈ ringFlds) : (s.sizeEvents i n).rg f = s.rg f :=
    State.sizeEvents_rg ((by decide +kernel : ∀ f ∈ ringFlds, f.key ≠ HRING_EV_CTRL_IEN.key) f h)
      ((by decide +kernel : ∀ f ∈ ringFlds, f.key ≠ HRING_EV_CTRL_SIZE.key) f h) i n
  have still : ¬ (s.sizeEvents i n).on HRING_EV_CTRL_EN := by rwa [State.on_congr (same (.head _))]
  have queue {q : Nat} (h : q ∈ List.range 8) {f : Fld} (mem : f ∈ [HRING_Q_CTRL_EN q, HRING_Q_SQB_ADDR q, HRING_Q_CTRL_SQSIZE q,
      HRING_Q_CQB_ADDR q, HRING_Q_CTRL_CQSIZE q]) : (s.sizeEvents i n).rg f = s.rg f :=
    same (List.mem_append_right _ (List.mem_flatMap.2 ⟨q, h, mem⟩))
  unfold State.openRings
  rw [if_neg still, if_neg closed]
  refine congrArg (· ++ []) (List.flatMap_congr fun q h => ?_)
  rw [State.on_congr (queue h (.head _)), queue h (.tail _ (.head _)), queue h (.tail _ (.tail _ (.head _))),
    queue h (.tail _ (.tail _ (.tail _ (.head _)))), queue h (.tail _ (.tail _ (.tail _ (.tail _ (.head _)))))]

theorem State.eventRing_closed (kept : bit w 29 = false) (opens : bit w 31 = true) (closed : ¬ s.on HRING_EV_CTRL_EN) :
    s.eventRing w =
      let t := s.sizeEvents (bits w 30 1) (bits w 0 4)
      let r := (s.rg HRING_EV_BASE_ADDR, 64 * 2 ^ t.rg HRING_EV_CTRL_SIZE)
      if ¬ ringIn r ∨ s.openRings.any (ringsMeet r) then t.wr HRING_EV_CTRL_ERR 1
      else t.wrs [(HRING_EV_CTRL_EN, 1), (HRING_EV_DB_HEAD, 0), (HRING_EV_DB_TAIL, 0)] := by
  have same {f : Fld} (h : f.lo % 32 ≠ 30) : (s.wr HRING_EV_CTRL_IEN (bits w 30 1)).rg f = s.rg f :=
    s.rg_wr_other (Fld.key_ne_of_lo h) _
  have still : ¬ (s.wr HRING_EV_CTRL_IEN (bits w 30 1)).on HRING_EV_CTRL_EN := by
    rwa [State.on_congr (same (by decide))]
  have rings := State.sizeEvents_openRings closed (bits w 30 1) (bits w 0 4)
  have base : (s.sizeEvents (bits w 30 1) (bits w 0 4)).rg HRING_EV_BASE_ADDR = s.rg HRING_EV_BASE_ADDR :=
    State.sizeEvents_rg (by decide) (by decide) ..
  simp only [State.eventRing, kept, opens, Bool.false_eq_true, if_false, not_true_eq_false, if_neg still,
    same (f := HRING_EV_CTRL_SIZE) (by decide)]
  rw [State.sizeEvents] at rings base ⊢
  rw [rings, base]

/-- A ring just opened is empty. -/
theorem State.eventsOpened_spec (t : State) : let u := t.wrs [(HRING_EV_CTRL_EN, 1), (HRING_EV_DB_HEAD, 0), (HRING_EV_DB_TAIL, 0)]
    u.on HRING_EV_CTRL_EN ∧ u.rg HRING_EV_DB_HEAD = 0 ∧ u.rg HRING_EV_DB_TAIL = 0 ∧ u.mem = t.mem := by
  have reads {f : Fld} {v : Nat} (h : (f, v) ∈ [(HRING_EV_CTRL_EN, 1), (HRING_EV_DB_HEAD, 0), (HRING_EV_DB_TAIL, 0)]) :=
    State.rg_wrs_of_apart (by decide) h t
  exact ⟨beq_iff_eq.2 (reads (.head _)), reads (.tail _ (.head _)), reads (.tail _ (.tail _ (.head _))), State.wrs_mem ..⟩

theorem State.settled_rg (s : State) {f : Fld} (err : f.key ≠ HRING_EV_CTRL_ERR.key) (ien : f.key ≠ HRING_EV_CTRL_IEN.key) (ack : Bool)
    (v : Nat) : ((s.ackErr HRING_EV_CTRL_ERR ack).wr HRING_EV_CTRL_IEN v).rg f = s.rg f :=
  (State.rg_wr_other _ ien v).trans (State.ackErr_other err s ack)

/-- CTRL with EN 0 closes an open ring. -/
theorem State.eventRing_closes (w : Nat) (closes : bit w 31 = false) (opened : s.on HRING_EV_CTRL_EN) :
    (s.eventRing w).on HRING_EV_CTRL_EN = false ∧ (s.eventRing w).mem = s.mem := by
  have went : s.eventRing w = let t := (s.ackErr HRING_EV_CTRL_ERR (bit w 29)).wr HRING_EV_CTRL_IEN (bits w 30 1)
      if t.on HRING_EV_CTRL_EN then t.wr HRING_EV_CTRL_EN 0 else
        t.wr HRING_EV_CTRL_SIZE (HRING_EV_CTRL_SIZE.take (t.rg HRING_EV_CTRL_SIZE) (bits w 0 4)) := by
    simp only [State.eventRing, closes, Bool.false_eq_true, not_false_eq_true, if_true]
    rfl
  have still : ((s.ackErr HRING_EV_CTRL_ERR (bit w 29)).wr HRING_EV_CTRL_IEN (bits w 30 1)).on HRING_EV_CTRL_EN := by
    rw [State.on_congr (s.settled_rg (by decide) (by decide) _ _)]
    exact opened
  rw [went]
  dsimp only
  rw [if_pos still]
  exact ⟨beq_eq_false_iff_ne.2 fun one => absurd ((State.rg_wr_same ..).symm.trans one) (by decide), State.ackErr_mem ..⟩

/-! ## The mailbox -/

/-- The queue of requests with one more. -/
def State.enqueue (s : State) (r : ObjReq) : State := { s with dict := { s.dict with queue := s.dict.queue ++ [r] } }

theorem State.onlyRegs_enqueue {u : State} {l : List Nat} (h : s.onlyRegs u l) (r : ObjReq) : s.onlyRegs (u.enqueue r) l := h

/-- A message that repeats none of those answered last joins the queue. -/
theorem State.objReceive_queued {r : ObjReq} (serves : s.serves r.iface) (ok : msgOk r.iface r.msg) (cache : s.dict.cache = [])
    (room : s.dict.queue.length < 32) (low : 1 ≤ mOp r.msg) (high : mOp r.msg ≤ 5) :
    s.objReceive r = s.enqueue r := by
  rw [State.objReceive, if_neg (not_not_intro serves), if_neg (not_not_intro ok), cache]
  exact (if_neg (by omega)).trans (if_neg (by omega))

theorem go_bit (w : Nat) : bit (w % 2 ^ 31 + 2 ^ 31) 31 = true := by
  rw [bit_eq_testBit, Nat.add_comm, Nat.testBit_two_pow_add_eq, Nat.testBit_lt_two_pow (Nat.mod_lt _ (by decide))]
  rfl

/-- A write of GO with its interrupt setting. -/
theorem State.mbxGo_eq (s : State) (w : Nat) :
    s.mbxGo (w % 2 ^ 31 + 2 ^ 31) =
      let t := s.wr MBX_CTRL_IEN (bits w 30 1)
      if s.on MBX_STATUS_BUSY then t.wr MBX_STATUS_ERR 1
      else if ¬ s.serves 2 then t.wr MBX_STATUS_ERR 1
      else
        let all := (List.range 266).flatMap fun i => natLE 4 (s.rg (MBX_REQ i))
        (t.wr MBX_STATUS_BUSY 1).objReceive { iface := 2, msg := all.take (msgLen all) } := by
  have ien : bits (w % 2 ^ 31 + 2 ^ 31) 30 1 = bits w 30 1 := bits_low (by decide) w 1
  have same {f : Fld} (h : f.lo % 32 ≠ 30) : (s.wr MBX_CTRL_IEN (bits w 30 1)).rg f = s.rg f :=
    s.rg_wr_other (Fld.key_ne_of_lo h) _
  have words (i : Nat) : (s.wr MBX_CTRL_IEN (bits w 30 1)).rg (MBX_REQ i) = s.rg (MBX_REQ i) := same (by exact (by decide : 0 ≠ 30))
  have serves : (s.wr MBX_CTRL_IEN (bits w 30 1)).serves 2 = s.serves 2 := by
    unfold State.serves
    rw [same (f := PWR_STATUS_STATE) (by decide)]
    rfl
  simp only [State.mbxGo, go_bit, ien, not_true_eq_false, if_false, State.on_congr (same (f := MBX_STATUS_BUSY) (by decide)), serves, words]

/-- The message of the mailbox joins the queue while BUSY shows it. -/
theorem State.mbxGo_taken (idle : ¬ s.on MBX_STATUS_BUSY) (serves : s.serves 2) {m : List Byte}
    (words : ∀ all, all = (List.range 266).flatMap (fun i => natLE 4 (s.rg (MBX_REQ i))) → m = all.take (msgLen all))
    (ok : msgOk 2 m) (low : 1 ≤ mOp m) (high : mOp m ≤ 5) (cache : s.dict.cache = []) (room : s.dict.queue.length < 32) (w : Nat) :
    s.mbxGo (w % 2 ^ 31 + 2 ^ 31) =
      ((s.wr MBX_CTRL_IEN (bits w 30 1)).wr MBX_STATUS_BUSY 1).enqueue { iface := 2, msg := m } := by
  have still : ((s.wr MBX_CTRL_IEN (bits w 30 1)).wr MBX_STATUS_BUSY 1).serves 2 := by
    unfold State.serves at serves ⊢
    rw [State.rg_wr_other _ (by decide) 1, State.rg_wr_other _ (by decide) _]
    exact serves
  rw [State.mbxGo_eq, words _ rfl]
  refine (if_neg idle).trans ((if_neg (not_not_intro serves)).trans ?_)
  rw [words _ rfl] at ok low high
  exact State.objReceive_queued still ok cache room low high

/-- Settles O43: the event ring opens empty where R462 permits it, and the mailbox holds one message at a time (R449). -/
theorem eventRingAndMailbox : Obligations.EventRingAndMailbox := by
  intro s
  refine ⟨fun w s' kept opens closed sized => ?_, fun w closes opened => ⟨_, rfl, State.eventRing_closes _ closes opened⟩,
    fun v opened => ?_, fun w busy => ?_, fun w m idle serves words ok low high cache room => ?_⟩
  · have went := State.eventRing_closed kept opens closed
    rw [show s.sizeEvents _ _ = s' from sized.symm] at went
    refine ⟨fun inside apart => ?_, fun outside => ?_⟩
    · rw [if_neg (by rintro (out | meet); exacts [out inside, absurd (apart.symm.trans meet) (by decide)])] at went
      obtain ⟨en, head, tail, mem⟩ := s'.eventsOpened_spec
      exact ⟨_, congrArg Host.Outcome.next went, en, head, tail, mem.trans (sized ▸ rfl)⟩
    · rw [if_pos (.inl (by simp [outside]))] at went
      refine ⟨_, congrArg Host.Outcome.next went, State.on_wr_one _ rfl, ?_⟩
      rw [State.on_congr (State.rg_wr_other _ (by decide) 1), show s' = s.sizeEvents _ _ from sized,
        State.on_congr (State.sizeEvents_rg (by decide) (by decide) ..)]
      exact Bool.eq_false_iff.2 closed
  · have went : s.eventHead v.toNat = s.doorbell.wr HRING_EV_DB_HEAD (v.toNat % 2 ^ s.rg HRING_EV_CTRL_SIZE) := if_pos opened
    refine ⟨_, congrArg Host.Outcome.next went, (State.rg_wr_same ..).trans (Nat.mod_eq_of_lt ?_), rfl,
      State.onlyRegs_wr (u := s.doorbell) (s.onlyRegs_refl _) (.head _) _⟩
    exact (Nat.mod_le ..).trans_lt v.isLt
  · refine ⟨_, congrArg Host.Outcome.next ((s.mbxGo_eq w.toNat).trans (if_pos busy)), State.on_wr_one _ rfl, rfl, ?_⟩
    exact State.onlyRegs_wr (State.onlyRegs_wr (s.onlyRegs_refl _) (.head _) _) (.tail _ (.head _)) _
  · refine ⟨_, congrArg Host.Outcome.next (State.mbxGo_taken idle serves words ok low high cache room _),
      State.on_wr_one (f := MBX_STATUS_BUSY) _ rfl, rfl, ?_⟩
    exact State.onlyRegs_enqueue (State.onlyRegs_wr (State.onlyRegs_wr (s.onlyRegs_refl _) (.head _) _) (.tail _ (.head _)) _) _

end Sys2Proof.Machine
end

section
/-! SUPPORT. What a reply changes, and what it says (R436, R440, R441). -/

namespace Sys2Proof.Machine

/-! ## What a reply leaves alone -/

/-- Everything but what a reply changes: the ports that it leaves by, the stored replies, the interrupt it raises. -/
def State.unanswered (s : State) : State :=
  { s with
    regs := [], out := [], pins := { s.pins with alert := false }, fw := { s.fw with pba := ({} : Fw).pba }
    dict := { s.dict with cache := [], smbReply := none, alertReply := false } }

/-- The registers of the ports that a reply leaves by. -/
def Fld.ofReply (f : Fld) : Prop :=
  (∃ p, f.key = (RING_PORT_TX p).key) ∨ (∃ i, f.key = (MBX_RSP i).key) ∨ f.key = MBX_STATUS_BUSY.key ∨ f.key = MBX_STATUS_DONE.key

/-- A field below the ports of the ring is none of them. -/
theorem Fld.not_ofReply {f : Fld} (lo : f.lo < 32) (low : f.off < 0xb00108) : ¬ f.ofReply := by
  rintro (⟨p, same⟩ | ⟨i, same⟩ | same | same)
  · exact Fld.key_ne_of_off lo (by exact (by decide : 0 < 32)) (by simp only [RING_PORT_TX]; omega) same
  · exact Fld.key_ne_of_off lo (by exact (by decide : 0 < 32)) (by simp only [MBX_RSP]; omega) same
  · exact Fld.key_ne_of_off lo (by decide) (by simp only [MBX_STATUS_BUSY]; omega) same
  · exact Fld.key_ne_of_off lo (by decide) (by simp only [MBX_STATUS_DONE]; omega) same

/-- The stored replies of an interface with one more, of which 16 stay (R440). -/
def State.storeReply (s : State) (q : ObjReq) (r : List Byte) : State :=
  let mine := s.dict.cache.filter fun c => c.1 == q.iface
  let rest := s.dict.cache.filter fun c => c.1 != q.iface
  let new : CachedReply := { requester := q.requester, seq := mSeq q.msg, time := s.uptime, reply := r }
  { s with dict := { s.dict with cache := (((q.iface, new) :: mine).take 16) ++ rest } }

theorem State.sendReply_eq (s : State) (q : ObjReq) (r : List Byte) : s.sendReply q r = (s.storeReply q r).putReply q r := rfl

/-- Between `a` and `s` replies have left, and nothing else changed. -/
structure Answered (a s : State) : Prop where
  field : ∀ f : Fld, ¬ f.ofReply → s.rg f = a.rg f
  rest : s.unanswered = a.unanswered

namespace Answered

variable {a s t : State}

theorem refl (a : State) : Answered a a := ⟨fun _ _ => rfl, rfl⟩

theorem keep (h : Answered a s) (regs : t.regs = s.regs) (rest : t.unanswered = s.unanswered) : Answered a t :=
  ⟨fun f hf => (State.rg_congr regs f).trans (h.field f hf), rest.trans h.rest⟩

theorem wr (h : Answered a s) {f : Fld} (hf : f.ofReply) (v : Nat) : Answered a (s.wr f v) :=
  ⟨fun g hg => (s.rg_wr_other (fun same => hg (by rwa [Fld.ofReply, same])) v).trans (h.field g hg), h.rest⟩

theorem raise (h : Answered a s) (v : Nat) : Answered a (s.raise v) := by
  obtain ⟨p, o, went⟩ := s.raise_eq v
  rw [went]
  exact h.keep rfl rfl

theorem showAlert (h : Answered a s) : Answered a s.showAlert := ite_of (fun _ => h) fun _ => h.keep rfl rfl

theorem sendFrame (h : Answered a s) (p : Nat) (f : List Byte) : Answered a (s.sendFrame p f) :=
  ite_of (fun _ => (h.wr (f := RING_PORT_TX p) (.inl ⟨p, rfl⟩) _).keep rfl rfl) fun _ => h

theorem mbxPut (h : Answered a s) (r : List Byte) : Answered a (s.mbxPut r) := by
  refine List.foldlRecOn _ _ h fun t ht i _ => ?_
  exact ht.wr (f := MBX_RSP i) (.inr (.inl ⟨i, rfl⟩)) _

theorem putReply (h : Answered a s) (q : ObjReq) (r : List Byte) : Answered a (s.putReply q r) := by
  refine ite_of (fun _ => h.sendFrame _ _) fun _ => ite_of (fun _ => h.keep rfl rfl) fun _ => ite_of (fun _ => ?_) fun _ => ?_
  · have put : Answered a ((s.mbxPut r).wrs [(MBX_STATUS_BUSY, 0), (MBX_STATUS_DONE, 1)]) :=
      wr (wr (h.mbxPut r) (f := MBX_STATUS_BUSY) (.inr (.inr (.inl rfl))) 0) (f := MBX_STATUS_DONE) (.inr (.inr (.inr rfl))) 1
    exact ite_of (fun _ => put.raise 9) fun _ => put
  · exact showAlert (h.keep rfl rfl)

theorem sendReply (h : Answered a s) (q : ObjReq) (r : List Byte) : Answered a (s.sendReply q r) :=
  putReply (s := s.storeReply q r) (h.keep rfl rfl) q r

theorem answerObj (h : Answered a s) (q : ObjReq) (status tide : Nat) : Answered a (s.answerObj q status tide) := h.sendReply q _

/-! ## What stays in each part -/

theorem mem (h : Answered a s) : s.mem = a.mem := congrArg (fun t => t.mem) h.rest
theorem ef (h : Answered a s) : s.ef = a.ef := congrArg (fun t => t.ef) h.rest
theorem fac (h : Answered a s) : s.fac = a.fac := congrArg (fun t => t.fac) h.rest
theorem loader (h : Answered a s) : s.loader = a.loader := congrArg (fun t => t.loader) h.rest
theorem queue (h : Answered a s) : s.dict.queue = a.dict.queue := congrArg (fun t => t.dict.queue) h.rest
theorem vals (h : Answered a s) : s.dict.vals = a.dict.vals := congrArg (fun t => t.dict.vals) h.rest
theorem stamped (h : Answered a s) : s.dict.stamped = a.dict.stamped := congrArg (fun t => t.dict.stamped) h.rest
theorem segs (h : Answered a s) : s.dict.segs = a.dict.segs := congrArg (fun t => t.dict.segs) h.rest
theorem commits (h : Answered a s) : s.dict.commits = a.dict.commits := congrArg (fun t => t.dict.commits) h.rest
theorem precs (h : Answered a s) : s.dict.precs = a.dict.precs := congrArg (fun t => t.dict.precs) h.rest
theorem budget (h : Answered a s) : s.dict.budget = a.dict.budget := congrArg (fun t => t.dict.budget) h.rest

end Answered

/-! ## What a reply says -/

variable {s : State}

/-- The stored replies stay as a reply leaves. -/
theorem State.putReply_cache (s : State) (q : ObjReq) (r : List Byte) : (s.putReply q r).dict.cache = s.dict.cache := by
  have mailbox : ((s.mbxPut r).wrs [(MBX_STATUS_BUSY, 0), (MBX_STATUS_DONE, 1)]).dict.cache = s.dict.cache :=
    (List.range _).foldlRecOn (motive := fun u : State => u.dict.cache = s.dict.cache) _ rfl fun t ht i _ => ht
  have raised (u : State) : (u.raise 9).dict.cache = u.dict.cache := by
    obtain ⟨p, o, went⟩ := u.raise_eq 9
    rw [went]
  unfold State.putReply
  split
  · unfold State.sendFrame
    split <;> rfl
  · split
    · rfl
    · split
      · dsimp only
        split
        · exact (raised _).trans mailbox
        · exact mailbox
      · exact ite_of (P := fun u : State => u.dict.cache = s.dict.cache) (fun _ => rfl) fun _ => rfl

/-- A reply sent is the newest of its interface's stored replies. -/
theorem State.sendReply_head (s : State) (q : ObjReq) (r : List Byte) :
    (s.sendReply q r).dict.cache.head? = some (q.iface, { requester := q.requester, seq := mSeq q.msg, time := s.uptime, reply := r }) := by
  rw [State.sendReply_eq, State.putReply_cache]
  rfl

theorem slice_zero_append {α : Type} {n : Nat} {a : List α} (h : a.length = n) (b : List α) : slice (a ++ b) 0 n = a := by
  simp [slice, ← h]

theorem slice_append_skip {α : Type} {o n k : Nat} {a : List α} (h : a.length = k) (skip : k ≤ o) (b : List α) :
    slice (a ++ b) o n = slice b (o - k) n := by
  rw [slice, List.drop_append, List.drop_eq_nil_of_le (by omega), h, List.nil_append, slice]

theorem length_slice_inside {α : Type} {l : List α} {o n : Nat} (h : o + n ≤ l.length) : (slice l o n).length = n := by
  simp only [slice, List.length_take, List.length_drop]
  omega

theorem Stamp.length_bytes (t : Stamp) : t.bytes.length = 16 := by
  simp only [Stamp.bytes, List.length_append, length_natLE]

/-- The fields of a reply. -/
theorem State.replyMsg_fields (s : State) {m : List Byte} (header : 40 ≤ m.length) (status tide total : Nat) (data : List Byte) :
    let r := s.replyMsg m status tide total data
    leAt r 1 1 = (mOp m + 0x80) % 256 ∧ leAt r 7 1 = status % 256 ∧ leAt r 8 6 = tide % 2 ^ 48 ∧ leAt r 20 4 = total % 2 ^ 32 ∧
      r.drop 40 = data := by
  have first : (slice m 2 5).length = 5 := length_slice_inside (by omega)
  have second : (slice m 16 4).length = 4 := length_slice_inside (by omega)
  have stamp := s.stamp.length_bytes
  have all : (s.replyMsg m status tide total data).drop 40 = data :=
    List.drop_left' (by simp only [List.length_append, length_natLE, first, second, stamp])
  simp only [State.replyMsg, List.append_assoc] at all ⊢
  refine ⟨?_, ?_, ?_, ?_, all⟩
  · rw [leAt, slice_append_skip (length_natLE ..) (by omega), slice_zero_append (length_natLE ..)]
    exact leNat_natLE 1 _
  · rw [leAt, slice_append_skip (length_natLE ..) (by omega), slice_append_skip (length_natLE ..) (by omega),
      slice_append_skip first (by omega), slice_zero_append (length_natLE ..)]
    exact leNat_natLE 1 _
  · rw [leAt, slice_append_skip (length_natLE ..) (by omega), slice_append_skip (length_natLE ..) (by omega),
      slice_append_skip first (by omega), slice_append_skip (length_natLE ..) (by omega), slice_zero_append (length_natLE ..), leNat_natLE]
  · rw [leAt, slice_append_skip (length_natLE ..) (by omega), slice_append_skip (length_natLE ..) (by omega),
      slice_append_skip first (by omega), slice_append_skip (length_natLE ..) (by omega), slice_append_skip (length_natLE ..) (by omega),
      slice_append_skip (length_natLE ..) (by omega), slice_append_skip second (by omega), slice_zero_append (length_natLE ..), leNat_natLE]

/-- A reply sent, read back. -/
theorem State.sendReply_replied (s t : State) {q : ObjReq} (header : 40 ≤ q.msg.length) (status tide total : Nat) (data : List Byte) :
    (s.sendReply q (t.replyMsg q.msg status tide total data)).replied q status tide total data :=
  ⟨_, s.sendReply_head q _, rfl, rfl, t.replyMsg_fields header status tide total data⟩

end Sys2Proof.Machine
end

section
/-! CERTIFICATE. Stamped writes wait for their tide or are refused; CANCEL_AT takes them back (O46). -/

namespace Sys2Proof.Machine

variable {s s1 : State} {q : ObjReq} {o : Obj}

/-! ## Requests -/

/-- The state with the requests `l` in its queue. -/
def State.withQueue (s : State) (l : List ObjReq) : State := { s with dict := { s.dict with queue := l } }

/-- What the request at the front is, and the state that it leaves. -/
theorem State.front_spec {op : Nat} (front : s.front op = some (q, s1)) :
    mOp q.msg = op ∧ ∃ l, s1 = s.withQueue l := by
  unfold State.front at front
  split at front
  · exact absurd front nofun
  · split at front
    · next r l queue =>
      obtain ⟨named, pair⟩ := Option.ite_none_right_eq_some.1 front
      obtain ⟨rfl, rfl⟩ := Prod.mk.inj (Option.some.inj pair)
      exact ⟨named, l, rfl⟩
    · exact absurd front nofun

/-- The reply that gives a status and the tide of effect. -/
theorem State.answerObj_replied (s : State) (header : 40 ≤ q.msg.length) (status tide : Nat) :
    (s.answerObj q status tide).replied q status tide (if mOp q.msg = 2 ∨ mOp q.msg = 3 then mTotal q.msg else 0) [] :=
  s.sendReply_replied s header status tide _ []

/-! ## WRITE_AT of a stream parameter (R445) -/

/-- A stream parameter takes every value of its type. -/
theorem State.valueBar_param {i : Nat} (low : 0x6000 ≤ i) (high : i < 0x8000) (v : List Byte) : s.valueBar i v = none := by
  unfold State.valueBar
  have here (n : Nat) (h : n < 0x6000 ∨ 0x8000 ≤ n) : i ≠ n := by omega
  simp only [here 0x2200 (by decide), here 0x2104 (by decide), here 0x4100 (by decide), here 0x4101 (by decide),
    here 0x900C (by decide), here 0x9100 (by decide), if_false, show ¬ (0x9000 ≤ i ∧ i < 0x9008) by omega,
    show ¬ (0x9101 ≤ i ∧ i < 0x9109) by omega, show ¬ (0x9109 ≤ i ∧ i < 0x9111) by omega]

/-- A write of a stream parameter that its object takes. -/
theorem State.objWriteAt_param (named : s.obj? (mIndex q.msg) = some o) (free : s.writeBar q o = none) (whole : mOffset q.msg = 0)
    (all : mTotal q.msg = mLen q.msg) (own : o.index = mIndex q.msg) (ok : o.valueOk (mData q.msg)) (timed : bit o.flags 0 = true)
    (low : 0x6000 ≤ mIndex q.msg) (high : mIndex q.msg < 0x8000) (train : Nat) :
    s.objWriteAt q train = s.paramWrite q o (mData q.msg) (some (mTide q.msg)) (mAsap q.msg) := by
  simp only [State.objWriteAt, named, free]
  rw [if_neg (by omega)]
  have legal : ¬ (¬ o.valueOk (mData q.msg) ∨ (some (mTide q.msg)).isSome ∧ ¬ bit o.flags 0) := by simp [ok, timed]
  rw [State.writeValue, if_neg legal, own, State.valueBar_param low high]
  exact if_pos ⟨low, high⟩

/-- The stamped writes that wait, and their number. -/
def State.holdStamped (s : State) (l : List Stamped) : State :=
  ({ s with dict := { s.dict with stamped := l } } : State).wr PSTG_CTRL_QFILL l.length

theorem State.paramWrite_waits {t : Nat} (due : s.rg TIDE_NUM + 2 ≤ t) (near : t ≤ s.rg TIDE_NUM + 65535)
    (room : s.dict.stamped.length < 256) (plain : o.acc = 1) (v : List Byte) (asap : Bool) :
    s.paramWrite q o v (some t) asap =
      (s.holdStamped (s.dict.stamped ++ [{ index := o.index, target := t, value := v }])).answerObj q stOk t := by
  simp only [State.paramWrite, Option.getD_some, Nat.max_eq_left due]
  rw [if_neg (by omega), if_neg (by omega), if_neg (by omega), if_pos (by omega)]
  rfl

theorem State.paramWrite_early {t : Nat} (early : t < s.rg TIDE_NUM + 2) (v : List Byte) :
    s.paramWrite q o v (some t) false = s.answerObj q stRefusedTime 0 := if_pos ⟨early, Bool.false_ne_true⟩

/-! ## CANCEL_AT (R446) -/

theorem State.objCancel_matching (named : s.obj? (mIndex q.msg) = some o) (may : s.mayWrite q.iface)
    (plain : ¬ (0x4000 ≤ mIndex q.msg ∧ mIndex q.msg ≤ 0x4004))
    (waits : s.dict.stamped.any fun x => x.index == mIndex q.msg && x.sub == mSub q.msg && x.target == mTide q.msg) :
    s.objCancel q = (s.holdStamped (s.dict.stamped.filter fun x =>
      !(x.index == mIndex q.msg && x.sub == mSub q.msg && x.target == mTide q.msg))).answerObj q stOk (mTide q.msg) := by
  refine (if_neg (by simp [named])).trans ((if_neg (not_not_intro may)).trans ((if_neg ?_).trans (if_pos waits)))
  exact fun h => plain ⟨h.1, h.2.1⟩

theorem Answered.holdStamped {u : State} {l : List Stamped} (h : Answered (s.holdStamped l) u) :
    u.dict.stamped = l ∧ u.rg PSTG_CTRL_QFILL = l.length % 2 ^ 9 :=
  ⟨h.stamped, (h.field _ (Fld.not_ofReply (by decide) (by decide))).trans (State.rg_wr_same ..)⟩

/-- Settles O46: the write waits, or is answered at once, by the tide it names; CANCEL_AT keeps the others. -/
theorem stampedWrites : Obligations.StampedWrites := by
  intro s s1 q o v i t header named
  refine ⟨fun front free whole all own ok timed low high plain => ?_, fun front may other waits => ?_⟩
  · obtain ⟨op, l, rfl⟩ := State.front_spec front
    have went : execWriteAt s = _ := (congrArg Host.Outcome.next (by rw [front])).trans (congrArg Host.Outcome.next
      (State.objWriteAt_param named free whole all own ok timed low high 24))
    refine ⟨fun due near room => ?_, fun early now => ?_⟩
    · rw [State.paramWrite_waits (s := s.withQueue l) due near room plain] at went
      obtain ⟨stamped, fill⟩ := Answered.holdStamped ((Answered.refl _).answerObj q stOk t)
      refine ⟨_, went, stamped.trans (own ▸ rfl), fill.trans (congrArg (· % 2 ^ 9) List.length_append), ?_⟩
      simpa only [op, or_true, if_true] using State.answerObj_replied _ header stOk t
    · rw [now, State.paramWrite_early (s := s.withQueue l) early] at went
      refine ⟨_, went, ((Answered.refl _).answerObj q stRefusedTime 0).stamped, ?_⟩
      simpa only [op, or_true, if_true] using State.answerObj_replied _ header stRefusedTime 0
  · obtain ⟨op, l, rfl⟩ := State.front_spec front
    have went : execCancelAt s = _ := (congrArg Host.Outcome.next (by rw [front])).trans (congrArg Host.Outcome.next
      (State.objCancel_matching named may other waits))
    refine ⟨_, went, (Answered.holdStamped ((Answered.refl _).answerObj q stOk t)).1, ?_⟩
    simpa [op] using State.answerObj_replied _ header stOk t

end Sys2Proof.Machine
end

section
/-! SUPPORT. The lighthouse core restarts alone: what it discards and what it leaves (R474, R485). -/

namespace Sys2Proof.Machine

variable {s : State}

/-! ## The requests in hand -/

/-- The requests in hand are gone, their stored replies too. -/
def State.withoutRequests (s : State) : State :=
  { s with dict := { s.dict with queue := [], commits := [], waits := [], segs := [], reads := [], cache := [] } }

theorem State.dropRequests_spec (s : State) : Answered s.withoutRequests s.dropRequests ∧ s.dropRequests.dict.cache = [] := by
  unfold State.dropRequests
  dsimp only
  split
  · exact ⟨(Answered.refl s.withoutRequests).putReply _ _, State.putReply_cache s.withoutRequests _ _⟩
  · exact ⟨Answered.refl _, rfl⟩

/-- No port that a reply leaves by has a field elsewhere in its word than at bits 0, 30 and 31. -/
theorem Fld.not_ofReply_of_lo {f : Fld} (h : f.lo % 32 ∉ [0, 30, 31]) : ¬ f.ofReply := by
  rintro (⟨p, same⟩ | ⟨i, same⟩ | same | same)
  · exact h (Fld.lo_of_key same ▸ List.mem_cons_self)
  · exact h (Fld.lo_of_key same ▸ List.mem_cons_self)
  · exact h (Fld.lo_of_key same ▸ by decide)
  · exact h (Fld.lo_of_key same ▸ by decide)

/-! ## The boot ROM -/

/-- Everything but what the boot ROM settles. -/
def State.unbooted (s : State) : State :=
  { s with
    regs := [], out := [], pins := { s.pins with alert := false }, dict := { s.dict with alertEvent := false }
    ef := { s.ef with
      running := none, tried := false, opt := {}, prefetch := [], branch := [], recBlocks := [], recNext := 0
      recImage := [], recStatus := 0 } }

/-- Between `a` and `s` the boot ROM has chosen a slot: the registers of the flash follow, and nothing else changed. -/
structure RomRun (a s : State) : Prop where
  field : ∀ f : Fld, (∀ g ∈ efFlds, f.key ≠ g.key) → s.rg f = a.rg f
  rest : s.unbooted = a.unbooted

theorem RomRun.optWrite {a : State} (h : RomRun a s) (r : OptRec) : RomRun a (s.optWrite r) := by
  refine ⟨fun f apart => ?_, h.rest⟩
  exact (State.rg_showEf apart _).trans (h.field f apart)

theorem State.bootRom_run (s : State) : RomRun s s.bootRom := by
  unfold State.bootRom
  extract_lets -merge k other lost _ _ start
  have starts (j : Nat) : RomRun s (start j) := RomRun.optWrite (a := s) (s := { s with ef := { s.ef with running := some j, tried := false } })
    ⟨fun _ _ => rfl, rfl⟩ _
  refine ite_of (fun _ => ⟨fun _ _ => rfl, rfl⟩) fun _ => ite_of (fun _ => starts _) fun _ => ite_of (fun _ => starts _) fun _ => ?_
  exact ite_of (fun _ => ⟨fun _ _ => rfl, rfl⟩) fun _ => ⟨fun _ _ => rfl, rfl⟩

/-! ## The restart -/

/-- The operation in progress, the update, and the requests that wait. -/
def State.inHand (s : State) : Option EfOp × Bool × Nat × Slot × Slot × List ObjReq × List TideWait :=
  (s.ef.op, s.ef.upd, s.ef.updNext, s.ef.slotA, s.ef.slotB, s.dict.queue, s.dict.waits)

/-- The state that a restart begins from: no operation in progress, none deferred, no update. -/
def State.withoutUpdate (s : State) : State := { s with ef := { s.ef with op := none, deferred := none, upd := false } }

theorem State.restartLighthouse_eq (s : State) :
    s.restartLighthouse = (((s.withoutUpdate.dropRequests).bootRom).wr EF_UPD_CTRL_BUSY 0).showEf := rfl

/-- What a restart discards, and what it leaves of the slots, of the update and of its status. -/
theorem State.restartLighthouse_spec (s : State) : let u := s.restartLighthouse
    u.inHand = (none, false, s.ef.updNext, s.ef.slotA, s.ef.slotB, [], []) ∧ u.dict.cache = [] ∧
      u.on EF_UPD_CTRL_BUSY = false ∧ u.rg EF_UPD_CTRL_STATUS = s.rg EF_UPD_CTRL_STATUS := by
  obtain ⟨⟨regs, rest⟩, cache⟩ := s.withoutUpdate.dropRequests_spec
  have rom := s.withoutUpdate.dropRequests.bootRom_run
  rw [State.restartLighthouse_eq]
  refine ⟨?_, ?_, ?_, ?_⟩
  · exact (congrArg State.inHand rom.rest).trans (congrArg State.inHand rest)
  · exact (congrArg (fun t => t.dict.cache) rom.rest).trans cache
  · refine beq_eq_false_iff_ne.2 fun one => ?_
    rw [State.rg_showEf (by decide), State.rg_wr_same] at one
    exact absurd one (by decide)
  · rw [State.rg_showEf (by decide), State.rg_wr_other _ (by decide), rom.field _ (by decide),
      regs _ (Fld.not_ofReply_of_lo (by decide))]
    rfl

end Sys2Proof.Machine
end

section
/-! CERTIFICATE. Reads of the embedded flash are corrected, retried, refused or cached (O49). -/

namespace Sys2Proof.Machine

variable {s : State}

/-! ## What reads leave alone -/

/-- Everything but what a read of the arrays may change: the buffers, the copies it finds bad. -/
def State.unread (s : State) : State :=
  { s with
    regs := [], ef := { s.ef with prefetch := [], branch := [], keys := [], keyCopies := (true, true) }
    dict := { s.dict with precs := [] } }

/-- Between `a` and `s` lines of the flash were read. -/
structure FlashRead (a s : State) : Prop where
  field : ∀ f : Fld, f.key ≠ EF_CORR.key → f.key ≠ EF_RETRY.key → s.rg f = a.rg f
  rest : s.unread = a.unread

namespace FlashRead

variable {a s t : State}

theorem refl (a : State) : FlashRead a a := ⟨fun _ _ _ => rfl, rfl⟩

theorem keep (h : FlashRead a s) (regs : t.regs = s.regs) (rest : t.unread = s.unread) : FlashRead a t :=
  ⟨fun f hc hr => (State.rg_congr regs f).trans (h.field f hc hr), rest.trans h.rest⟩

theorem corrected (h : FlashRead a s) : FlashRead a (s.bump EF_CORR) :=
  ⟨fun f hc hr => (s.rg_wr_other hc _).trans (h.field f hc hr), h.rest⟩

theorem retried (h : FlashRead a s) : FlashRead a (s.bump EF_RETRY) :=
  ⟨fun f hc hr => (s.rg_wr_other hr _).trans (h.field f hc hr), h.rest⟩

theorem efLine (h : FlashRead a s) (code : Bool) (l : EfLine) : FlashRead a (s.efLine code l).2 := by
  cases l with
  | clean => exact h
  | single => exact h.corrected
  | low => exact ite_of (P := fun x : Bool × State => FlashRead a x.2) (fun _ => h.retried) fun _ => h
  | high => exact ite_of (P := fun x : Bool × State => FlashRead a x.2) (fun _ => h.retried) fun _ => h
  | never => exact ite_of (P := fun x : State => FlashRead a x) (fun _ => h.retried) fun _ => h

theorem efRead (h : FlashRead a s) (r : EfRead) : FlashRead a (s.efRead r).2 := by
  unfold State.efRead
  split
  case h_1 l taken _ =>
    have line : FlashRead a (if s.fetchHits l.toNat then (true, s) else s.efLine true r.line).2 :=
      ite_of (P := fun x : Bool × State => FlashRead a x.2) (fun _ => h) fun _ => h.efLine ..
    exact ite_of (P := fun x : Bool × State => FlashRead a x.2) (fun _ => line.keep rfl rfl) fun _ => line
  case h_2 l _ =>
    refine ite_of (P := fun x : Bool × State => FlashRead a x.2) (fun _ => h) fun _ => ?_
    exact ite_of (P := FlashRead a) (fun _ => (h.efLine true r.line).keep rfl rfl) fun _ => h.efLine ..
  case h_3 index sub second _ =>
    exact ite_of (P := FlashRead a) (fun _ => h.efLine ..) fun _ => (h.efLine false r.line).keep rfl rfl
  case h_4 second _ =>
    exact ite_of (P := FlashRead a) (fun _ => h.efLine ..) fun _ => (h.efLine true r.line).keep rfl rfl
  case h_5 code _ => exact h.efLine ..

theorem efReads (h : FlashRead a s) (l : List EfRead) : FlashRead a (s.efReads l).2 := by
  induction l generalizing s with
  | nil => exact h
  | cons r l ih => exact ite_of (P := fun x : Bool × State => FlashRead a x.2) (fun _ => h.efRead r) fun _ => ih (h.efRead r)

end FlashRead

/-! ## The end of an operation on the code array -/

/-- No restart is deferred any more. -/
def State.undeferred (s : State) : State := { s with ef := { s.ef with deferred := none } }

/-- What follows reads `x`: the restart or reset that was deferred, or the restart that an access fault asks for. -/
def State.afterReads (x : Bool × State) (train : Nat) : State :=
  let d := match x.2.ef.deferred with
    | none => if x.1 then some 2 else none
    | some k => some k
  let s := x.2.undeferred
  match d with
  | some 1 => if s.mayReset then s.resetCompute 2 train else s
  | some 2 => s.restartLighthouse
  | some 3 => if s.mayReset then s.resetCompute 3 train else s
  | _ => s

/-- With nothing deferred only an access fault restarts the core. -/
theorem State.afterReads_free {x : Bool × State} (free : x.2.ef.deferred = none) (train : Nat) :
    State.afterReads x train = if x.1 then x.2.undeferred.restartLighthouse else x.2.undeferred := by
  obtain ⟨fault, t⟩ := x
  rw [State.afterReads, free]
  cases fault with
  | true => rfl
  | false => rfl

theorem State.efDone_code {op : EfOp} (control : s.pins.control) (busy : s.ef.op = some op)
    (free : (s.codeDone true).ef.deferred = none) (train : Nat) (reads : List EfRead) :
    let x := (s.codeDone true).efReads reads
    s.efDone true true train reads = if x.1 then x.2.undeferred.restartLighthouse else x.2.undeferred := by
  have still : ((s.codeDone true).efReads reads).2.ef.deferred = none :=
    (congrArg (fun t => t.ef.deferred) ((FlashRead.refl _).efReads reads).rest).trans free
  have goes : ¬ ((if true then s.ef.op.isNone else s.dict.commits.isEmpty && s.ef.deferred.isNone) ∨ ¬ s.pins.control) := by
    simp [busy, control]
  calc s.efDone true true train reads
    _ = State.afterReads ((s.codeDone true).efReads reads) train := if_neg goes
    _ = _ := State.afterReads_free still train

/-- A chunk that is programmed: its bytes are in the slot that is not in force, after those before it (R488). -/
def State.withChunk (s : State) (i : Nat) (b : List Byte) : State :=
  let x := s.ef.slot s.idleSlot
  { s with ef := { s.ef.setSlot s.idleSlot { x with factory := false, image := x.image.take (4096 * i) ++ b } with updNext := i + 1 } }

theorem State.codeDone_chunk {i : Nat} {b : List Byte} (op : s.ef.op = some (.chunk i b)) :
    s.codeDone true = (s.withChunk i b).updDone stOk := by
  rw [State.codeDone, op]
  rfl

/-- Everything but what the end of a chunk changes. -/
def State.unslotted (s : State) : State :=
  { s with regs := [], ef := { s.ef with slotA := {}, slotB := {}, updNext := 0, op := none } }

theorem State.unslotted_chunkDone (s : State) (i : Nat) (b : List Byte) (st : Nat) :
    ((s.withChunk i b).updDone st).unslotted = s.unslotted := by
  by_cases first : s.idleSlot = 0
  · simp only [State.withChunk, Eflash.setSlot, if_pos first]; rfl
  · simp only [State.withChunk, Eflash.setSlot, if_neg first]; rfl

/-- The registers that the end of a step of the update writes. -/
def stepFlds : List Fld := EF_UPD_CTRL_BUSY :: EF_UPD_CTRL_STATUS :: efFlds

theorem State.rg_updDone {f : Fld} (apart : ∀ g ∈ stepFlds, f.key ≠ g.key) (s : State) (st : Nat) : (s.updDone st).rg f = s.rg f := by
  obtain ⟨busy, status, flash⟩ : f.key ≠ EF_UPD_CTRL_BUSY.key ∧ f.key ≠ EF_UPD_CTRL_STATUS.key ∧ ∀ g ∈ efFlds, f.key ≠ g.key := by
    simpa only [stepFlds, List.forall_mem_cons] using apart
  exact (State.rg_showEf flash _).trans ((State.rg_wr_other _ status _).trans (State.rg_wr_other _ busy _))

/-! ## One read -/

theorem State.efReads_one (s : State) (r : EfRead) : s.efReads [r] = s.efRead r := by
  unfold State.efReads
  generalize s.efRead r = x
  obtain ⟨fault, u⟩ := x
  cases fault with
  | true => rfl
  | false => rfl

/-- A read that one shifted reference helps. -/
theorem State.efLine_shifted (s : State) (code : Bool) {l : EfLine} (shifted : l = .low ∨ l = .high) :
    let u := (s.efLine code l).2
    u.rg EF_CORR = s.rg EF_CORR ∧
      u.rg EF_RETRY = (s.rg EF_RETRY + b2n (s.on (if code then EF_CFG_RETRY_CODE else EF_CFG_RETRY_DATA))) % 2 ^ 64 := by
  have went : (s.efLine code l).2 = if s.on (if code then EF_CFG_RETRY_CODE else EF_CFG_RETRY_DATA) then s.bump EF_RETRY else s := by
    rcases shifted with rfl | rfl
    · exact apply_ite Prod.snd ..
    · exact apply_ite Prod.snd ..
  rw [went]
  cases retry : s.on (if code then EF_CFG_RETRY_CODE else EF_CFG_RETRY_DATA) with
  | true => exact ⟨s.rg_wr_other (by decide) _, s.rg_bump_same EF_RETRY 1⟩
  | false => exact ⟨rfl, (Nat.mod_eq_of_lt (s.rg_lt EF_RETRY)).symm⟩

/-- A line that no reference decodes is not delivered. -/
theorem State.efLine_never (s : State) (code : Bool) : (s.efLine code .never).1 = false ∧ FlashRead s (s.efLine code .never).2 ∧
    (s.efLine code .never).2.ef = s.ef :=
  ⟨rfl, (FlashRead.refl s).efLine .., ite_of (P := fun u : State => u.ef = s.ef) (fun _ => rfl) fun _ => rfl⟩

theorem State.recordBad_hit (s : State) {index sub : Nat} {r : PRec} (mem : r ∈ (s.recordBad index sub false).dict.precs)
    (obj : r.index = index) (own : r.sub = sub) : r.sec0 = 128 := by
  obtain ⟨x, -, rfl⟩ := List.mem_map.1 (List.mem_filter.1 mem).1
  by_cases hit : x.index = index ∧ x.sub = sub
  · rw [if_pos hit]; rfl
  · rw [if_neg hit] at obj own
    exact absurd ⟨obj, own⟩ hit

/-- The second copy of the key store is invalid; the keys stay while the first is not. -/
theorem State.keysBad_second {u : State} (flash : u.ef = s.ef) : (u.keysBad true).ef.keyCopies = (s.ef.keyCopies.1, false) ∧
    (u.keysBad true).ef.keys = if s.ef.keyCopies.1 then s.ef.keys else [] := by
  rw [← flash]
  refine ⟨rfl, ?_⟩
  change (if (u.ef.keyCopies.1 || false) = true then u.ef.keys else []) = _
  rw [Bool.or_false]

/-- A fetch that the array has to serve, of a line that no reference decodes, ends in an access fault. -/
theorem State.efRead_fetch_never {l : BitVec 18} (miss : s.fetchHits l.toNat = false) (taken : Bool) :
    (s.efRead ⟨.fetch l taken, .never⟩).1 = true := by
  simp only [State.efRead, miss]
  rfl

/-- A fetch whose line is delivered. -/
theorem State.efRead_fetch_clean (s : State) (l : BitVec 18) (taken : Bool) :
    s.efRead ⟨.fetch l taken, .clean⟩ = (false, s.lineExecuted l.toNat taken) := by
  unfold State.efRead
  dsimp only
  cases s.fetchHits l.toNat with
  | true => rfl
  | false => rfl

/-- The line that the prefetch buffer takes in is in it, and the buffer keeps no more than four. -/
theorem refilled {l : Nat} (p : List Nat) : l ∈ (p ++ [l]).drop (p.length - 3) ∧
    (p.length ≤ 4 → ((p ++ [l]).drop (p.length - 3)).length ≤ 4) := by
  constructor
  · rw [List.drop_append_of_le_length (by omega)]
    exact List.mem_append_right _ (List.mem_singleton_self l)
  · intro few
    simp only [List.length_drop, List.length_append, List.length_singleton]
    omega

/-- The buffer holds the line that it was to take in, in four places. -/
theorem State.efRead_refill_clean (buffers : s.on EF_CFG_PF_EN) (l : BitVec 18) : let x := s.efRead ⟨.refill l, .clean⟩
    x.1 = false ∧ l.toNat ∈ x.2.ef.prefetch ∧ (s.ef.prefetch.length ≤ 4 → x.2.ef.prefetch.length ≤ 4) := by
  have went : s.efRead ⟨.refill l, .clean⟩ = if ¬ s.on EF_CFG_PF_EN ∨ s.ef.prefetch.contains l.toNat then (false, s) else
      (false, { s with ef := { s.ef with prefetch := (s.ef.prefetch ++ [l.toNat]).drop (s.ef.prefetch.length - 3) } }) := rfl
  rw [went]
  by_cases held : s.ef.prefetch.contains l.toNat
  · rw [if_pos (.inr held)]
    exact ⟨rfl, List.contains_iff_mem.1 held, id⟩
  · rw [if_neg (by rintro (off | mem); exacts [off buffers, held mem])]
    exact ⟨rfl, refilled s.ef.prefetch⟩

/-- Settles O49: the operation in progress ends, and the read that waited for it does what R478 and R482 give its line. -/
theorem embeddedFlashReads : Obligations.EmbeddedFlashReads := by
  intro s i b train control free op ends
  obtain ⟨c, done⟩ : ∃ c, c = s.codeDone true := ⟨_, rfl⟩
  have chunk : c = (s.withChunk i b).updDone stOk := done.trans (State.codeDone_chunk op)
  have rest : c.unslotted = s.unslotted := chunk ▸ s.unslotted_chunkDone i b stOk
  have field {f : Fld} (apart : ∀ g ∈ stepFlds, f.key ≠ g.key) : c.rg f = s.rg f := chunk ▸ State.rg_updDone apart (s.withChunk i b) stOk
  have idle : c.ef.op = none := chunk ▸ rfl
  have ended (r : EfRead) : s.efDone true true train [r] =
      if (c.efRead r).1 then (c.efRead r).2.undeferred.restartLighthouse else (c.efRead r).2.undeferred := by
    have went := State.efDone_code control op (done ▸ (congrArg (fun t => t.ef.deferred) rest).trans free) train.val [r]
    rwa [← done, State.efReads_one] at went
  have stays {r : EfRead} (no : (c.efRead r).1 = false) {P : State → Prop} (h : P (c.efRead r).2.undeferred) : ends r P :=
    ⟨_, congrArg Host.Outcome.next ((ended r).trans (if_neg (by simp [no]))),
      (congrArg (fun t => t.ef.op) ((FlashRead.refl c).efRead r).rest).trans idle, h⟩
  have copy : c.ef.keyCopies = s.ef.keyCopies := congrArg (fun t => t.ef.keyCopies) rest
  have buffer : c.ef.prefetch = s.ef.prefetch := congrArg (fun t => t.ef.prefetch) rest
  have hits (l : Nat) : c.fetchHits l = s.fetchHits l := by
    rw [State.fetchHits, State.fetchHits, buffer, State.on_congr (field (f := EF_CFG_PF_EN) (by decide)),
      State.on_congr (field (f := EF_CFG_BC_EN) (by decide)), show c.ef.branch = s.ef.branch from congrArg (fun t => t.ef.branch) rest]
  refine ⟨fun code => stays rfl ?_, fun code l shifted => stays rfl ?_, fun index sub => stays rfl ?_, fun copies => stays rfl ?_,
    fun copies => stays rfl ?_, fun l taken miss => ?_, fun l cached => ?_, fun l buffered => ?_⟩
  · have first : c.rg EF_CORR = s.rg EF_CORR := field (by decide)
    exact ⟨first ▸ c.rg_bump_same EF_CORR 1, (c.rg_wr_other (by decide) _).trans (field (by decide))⟩
  · obtain ⟨corr, retry⟩ := c.efLine_shifted code shifted
    have cfg : c.on (if code then EF_CFG_RETRY_CODE else EF_CFG_RETRY_DATA) = s.on (if code then EF_CFG_RETRY_CODE else EF_CFG_RETRY_DATA) :=
      State.on_congr (field (by cases code <;> decide))
    rw [cfg, field (f := EF_RETRY) (by decide)] at retry
    exact ⟨corr.trans (field (by decide)), retry⟩
  · exact fun r mem => State.recordBad_hit _ mem
  · obtain ⟨gone, keys⟩ := State.keysBad_second (c.efLine_never true).2.2
    rw [copy, copies] at gone keys
    exact ⟨gone, keys⟩
  · obtain ⟨gone, keys⟩ := State.keysBad_second (c.efLine_never true).2.2
    rw [copy, copies] at gone keys
    exact ⟨gone, keys.trans (congrArg (fun t => t.ef.keys) rest)⟩
  · have restarts := (ended ⟨.fetch l taken, .never⟩).trans (if_pos (State.efRead_fetch_never ((hits _).trans miss) taken))
    obtain ⟨hand, -⟩ := (c.efRead ⟨.fetch l taken, .never⟩).2.undeferred.restartLighthouse_spec
    simp only [State.inHand, Prod.mk.injEq] at hand
    obtain ⟨op, upd, -, -, -, queue, -⟩ := hand
    exact ⟨_, congrArg Host.Outcome.next restarts, op, queue, upd⟩
  · have caches : c.on EF_CFG_BC_EN := (State.on_congr (field (by decide))).trans cached
    refine stays (congrArg Prod.fst (c.efRead_fetch_clean l true)) ?_
    rw [State.efRead_fetch_clean]
    refine ⟨?_, congrArg (fun t => t.dict.queue) rest, fun x mem => of_decide_eq_true (List.mem_filter.1 mem).2⟩
    exact congrArg List.head? (if_pos ⟨rfl, caches⟩)
  · obtain ⟨delivered, mem, few⟩ := c.efRead_refill_clean ((State.on_congr (field (by decide))).trans buffered) l
    exact stays delivered ⟨mem, buffer ▸ few⟩

end Sys2Proof.Machine
end

section
/-! CERTIFICATE. Image updates, confirmation, watchdog and recovery of the lighthouse core (O48). -/

namespace Sys2Proof.Machine

variable {s : State}

/-! ## Slots -/

theorem Eflash.slot_setSlot_same (e : Eflash) (k : Nat) (x : Slot) : (e.setSlot k x).slot k = x := by
  unfold Eflash.setSlot Eflash.slot
  split
  · rfl
  · rfl

theorem Eflash.slot_setSlot_other {j k : Nat} (apart : j = 0 ↔ k ≠ 0) (e : Eflash) (x : Slot) : (e.setSlot k x).slot j = e.slot j := by
  unfold Eflash.setSlot Eflash.slot
  by_cases first : k = 0
  · rw [if_pos first, if_neg (by omega), if_neg (by omega)]
  · rw [if_neg first, if_pos (by omega), if_pos (by omega)]

theorem Eflash.setSlot_opt (e : Eflash) (k : Nat) (x : Slot) : (e.setSlot k x).opt = e.opt := by
  unfold Eflash.setSlot
  split
  · rfl
  · rfl

/-- The slot in force is not the idle one. -/
theorem State.slot_not_idle (s : State) : s.ef.opt.slot = 0 ↔ s.idleSlot ≠ 0 := by
  unfold State.idleSlot
  omega

/-! ## Steps of the update -/

theorem State.updBusy_busy (s : State) (op : EfOp) : (s.updBusy op).on EF_UPD_CTRL_BUSY :=
  beq_iff_eq.2 ((State.rg_showEf (by decide) _).trans (State.rg_wr_same ..))

theorem State.updDone_spec (s : State) {st : Nat} (byte : st < 256) :
    (s.updDone st).on EF_UPD_CTRL_BUSY = false ∧ (s.updDone st).rg EF_UPD_CTRL_STATUS = st := by
  refine ⟨beq_eq_false_iff_ne.2 fun one => ?_, ?_⟩
  · have zero : (s.updDone st).rg EF_UPD_CTRL_BUSY = 0 := (State.rg_showEf (by decide) _).trans
      ((State.rg_wr_other (f := EF_UPD_CTRL_STATUS) _ (by decide) _).trans (State.rg_wr_same ..))
    exact absurd (zero.symm.trans one) (by decide)
  · exact (State.rg_showEf (by decide) _).trans ((State.rg_wr_same ..).trans (Nat.mod_eq_of_lt byte))

/-- The idle slot is erased, and an update begins in it. -/
def State.updBegun (s : State) : State := { s with ef := { s.ef.setSlot s.idleSlot {} with upd := true, updNext := 0 } }

theorem State.updStart_begins (runs : s.ef.running.isSome) (idle : s.ef.op = none) (none' : s.ef.upd = false)
    (some' : 0 < s.rg EF_UPD_LEN) (fits : s.rg EF_UPD_LEN ≤ 496 * 4096) :
    s.updStart = s.updBegun.updBusy (.erase (slotSector s.idleSlot)) := by
  refine (if_neg ?_).trans (if_neg ?_)
  · simp [idle, Option.isSome_iff_ne_none.1 runs]
  · simp only [none', Bool.false_eq_true, false_or]
    omega

theorem State.updChunk_begins {i : Nat} (runs : s.ef.running.isSome) (idle : s.ef.op = none) (open' : s.ef.upd = true)
    (next : i = s.ef.updNext) (inside : 4096 * i < s.rg EF_UPD_LEN) : s.updChunk i = s.updBusy (.chunk i (s.ef.stage.bytes 0 4096)) := by
  refine (if_neg ?_).trans (if_neg ?_)
  · simp [idle, Option.isSome_iff_ne_none.1 runs]
  · simp only [open', next, not_true_eq_false, ne_eq, false_or]
    omega

theorem State.updCommit_begins (runs : s.ef.running.isSome) (idle : s.ef.op = none) (passes : s.slotStatus s.idleSlot = stOk) :
    s.updCommit = s.updBusy (.record { s.ef.opt with slot := s.idleSlot, state := 1 }) := by
  refine (if_neg ?_).trans (if_neg (not_not_intro passes))
  simp [idle, Option.isSome_iff_ne_none.1 runs]

/-- No update is in progress. -/
def State.updEnded (s : State) : State := { s with ef := { s.ef with upd := false } }

theorem State.updAbort_ends (runs : s.ef.running.isSome) (idle : s.ef.op = none) : s.updAbort = s.updEnded.updDone stOk := by
  refine (if_neg (by simp [Option.isSome_iff_ne_none.1 runs])).trans (if_neg ?_)
  simp [idle]

/-- The end of the record that a commit programs: it is in force. -/
theorem State.codeDone_record {r : OptRec} (op : s.ef.op = some (.record r)) :
    s.codeDone true = (({ s with ef := { s.ef with upd := false, tried := false } } : State).optWrite r).updDone stOk := by
  rw [State.codeDone, op]
  rfl

/-! ## Recovery (R489) -/

theorem State.recoveryBlock_taken {b : List Byte} (control : s.pins.control) (off : s.ef.running = none) (size : b.length = 131)
    (place : leAt b 2 1 ≤ 31) (next : leAt b 0 2 = s.ef.recNext) (low : leAt b 0 2 ≤ 495) (room : s.ef.recBlocks.length < 31) :
    s.recoveryBlock b = { s with ef := { s.ef with
      recBlocks := (leAt b 2 1, b.drop 3) :: s.ef.recBlocks.filter fun x => x.1 != leAt b 2 1, recStatus := stOk } } := by
  refine (if_neg ?_).trans ((if_neg ?_).trans (if_pos ?_))
  · simp [control, off]
  · omega
  · exact Nat.succ_lt_succ ((List.length_filter_le ..).trans_lt room)

/-- What a step of the update shows once it has ended: the slots, the next chunk, its status. -/
def State.stepShown (s : State) : Option EfOp × Nat × Slot × Slot × Bool × Nat :=
  (s.ef.op, s.ef.updNext, s.ef.slotA, s.ef.slotB, s.on EF_UPD_CTRL_BUSY, s.rg EF_UPD_CTRL_STATUS)

/-- A step that has ended shows the same after the reads that waited for it, whether they restart the core or not. -/
theorem State.stepShown_afterReads {c : State} (ended : c.ef.op = none) (idle : c.on EF_UPD_CTRL_BUSY = false) (reads : List EfRead) :
    let x := c.efReads reads
    (if x.1 then x.2.undeferred.restartLighthouse else x.2.undeferred).stepShown = c.stepShown := by
  have read := (FlashRead.refl c).efReads reads
  generalize c.efReads reads = x at read ⊢
  obtain ⟨fault, t⟩ := x
  have shown : t.undeferred.stepShown = c.stepShown := by
    have flash : (t.ef.op, t.ef.updNext, t.ef.slotA, t.ef.slotB) = (c.ef.op, c.ef.updNext, c.ef.slotA, c.ef.slotB) :=
      congrArg (fun s => (s.ef.op, s.ef.updNext, s.ef.slotA, s.ef.slotB)) read.rest
    simp only [Prod.mk.injEq] at flash
    obtain ⟨op, next, first, second⟩ := flash
    simp only [State.stepShown, Prod.mk.injEq]
    exact ⟨op, next, first, second, State.on_congr (read.field _ (by decide) (by decide)), read.field _ (by decide) (by decide)⟩
  cases fault with
  | false => exact shown
  | true =>
    refine Eq.trans ?_ shown
    obtain ⟨hand, -, busy, status⟩ := t.undeferred.restartLighthouse_spec
    simp only [State.inHand, Prod.mk.injEq] at hand
    obtain ⟨op, -, next, first, second, -⟩ := hand
    simp only [State.stepShown, Prod.mk.injEq] at shown ⊢
    obtain ⟨op', -, -, -, busy', -⟩ := shown
    exact ⟨op.trans (op'.trans ended).symm, next, first, second, busy.trans (busy'.trans idle).symm, status⟩

/-- Settles O48: each step of the update, and each command of recovery, is the equation above for its case. -/
theorem lighthouseImages : Obligations.LighthouseImages := by
  refine ⟨fun s runs => ⟨fun idle ended len fits => ?_, fun i idle open' next inside => ?_, fun i b train reads op control free => ?_,
    fun idle passes => ?_, fun r train reads op control free clean => ?_, fun idle => ?_, fun free => ?_, fun busy => ?_⟩,
    fun s control => ⟨fun runs free => ?_, fun runs trial => ?_, fun off => ⟨fun b size place next low room => ?_, fun passes => ?_,
      fun fails => ?_, ?_⟩⟩⟩
  · refine ⟨_, congrArg Host.Outcome.next (State.updStart_begins runs idle ended len fits), rfl, rfl, rfl, s.updBegun.updBusy_busy _, ?_, ?_, ?_⟩
    · exact s.ef.setSlot_opt ..
    · exact s.ef.slot_setSlot_same ..
    · exact s.ef.slot_setSlot_other s.slot_not_idle _
  · have begins := State.updChunk_begins (s := s.wr EF_UPD_CTRL_CHUNK (EF_UPD_CTRL_CHUNK.take (s.rg EF_UPD_CTRL_CHUNK) i.toNat)) runs idle
      open' next ((s.rg_wr_other (f := EF_UPD_CTRL_CHUNK) (g := EF_UPD_LEN) (by decide) _).symm ▸ inside)
    exact ⟨_, congrArg Host.Outcome.next begins, rfl, State.updBusy_busy .., rfl⟩
  · have ends := State.efDone_code control op ((State.codeDone_chunk op).symm ▸
      (congrArg (fun t => t.ef.deferred) (s.unslotted_chunkDone i b stOk)).trans free) train.val reads
    rw [State.codeDone_chunk op] at ends
    obtain ⟨busy, status⟩ := (s.withChunk i b).updDone_spec (st := stOk) (by decide)
    have shown := State.stepShown_afterReads (c := (s.withChunk i b).updDone stOk) rfl busy reads
    dsimp only at ends shown
    rw [← ends] at shown
    simp only [State.stepShown, Prod.mk.injEq] at shown
    obtain ⟨op, next, first, second, idle, st⟩ := shown
    refine ⟨_, rfl, op, next, idle.trans busy, st.trans status, ?_⟩
    have slot : (s.efDone true true train.val reads).ef.slot s.idleSlot = (s.withChunk i b).ef.slot s.idleSlot := by
      unfold Eflash.slot
      rw [first, second]
      rfl
    exact congrArg Slot.image (slot.trans (s.ef.slot_setSlot_same ..))
  · exact ⟨_, congrArg Host.Outcome.next (State.updCommit_begins runs idle passes), State.updBusy_busy .., rfl, rfl⟩
  · have ends := State.efDone_code control op ((State.codeDone_record op).symm ▸ free) train.val reads
    rw [State.codeDone_record op] at ends
    obtain ⟨c, done⟩ : ∃ c, c = (({ s with ef := { s.ef with upd := false, tried := false } } : State).optWrite r).updDone stOk := ⟨_, rfl⟩
    rw [← done] at ends
    have read := (FlashRead.refl c).efReads reads
    have goes : s.efDone true true train.val reads = (c.efReads reads).2.undeferred :=
      ends.trans (if_neg (by simp [(State.efReads_delivered clean (Booted.refl c)).1]))
    refine ⟨_, congrArg Host.Outcome.next goes, ?_, ?_, ?_, ?_⟩
    · exact (congrArg (fun t => t.ef.opt) read.rest).trans (by rw [done])
    · exact (congrArg (fun t => t.ef.op) read.rest).trans (by rw [done])
    · exact (congrArg (fun t => t.ef.upd) read.rest).trans (by rw [done])
    · exact (read.field _ (by decide) (by decide)).trans (done ▸ (State.updDone_spec _ (by decide)).2)
  · obtain ⟨-, status⟩ := s.updEnded.updDone_spec (st := stOk) (by decide)
    exact ⟨_, congrArg Host.Outcome.next (State.updAbort_ends runs idle), rfl, rfl, rfl, rfl, status⟩
  · obtain ⟨hand, -⟩ := s.restartLighthouse_spec
    simp only [State.inHand, Prod.mk.injEq] at hand
    obtain ⟨op, upd, -, -, -, queue, -⟩ := hand
    have goes : (if s.ef.running.isSome then s.lighthouseAsked else s) = s.restartLighthouse :=
      (if_pos runs).trans (if_neg (by simp [free]))
    exact ⟨_, congrArg Host.Outcome.next goes, op, queue, upd⟩
  · have goes : (if s.ef.running.isSome then s.lighthouseAsked else s) =
        { s with ef := { s.ef with deferred := some (s.ef.deferred.getD 2) } } := (if_pos runs).trans (if_pos busy)
    exact ⟨_, congrArg Host.Outcome.next goes, rfl, rfl, rfl⟩
  · obtain ⟨hand, cache, -⟩ := s.restartLighthouse_spec
    simp only [State.inHand, Prod.mk.injEq] at hand
    obtain ⟨op, upd, -, -, -, queue, waits⟩ := hand
    have goes : (if s.pins.control ∧ s.ef.running.isSome then s.lighthouseAsked else s) = s.restartLighthouse :=
      (if_pos ⟨control, runs⟩).trans (if_neg (by simp [free]))
    exact ⟨_, congrArg Host.Outcome.next goes, queue, cache, waits, op, upd⟩
  · refine ⟨_, congrArg Host.Outcome.next (if_neg (by simp [control, runs, trial])), rfl, rfl, rfl, rfl⟩
  · exact ⟨_, congrArg Host.Outcome.next (State.recoveryBlock_taken control off size place next low room), rfl, rfl, rfl⟩
  · exact ⟨_, congrArg Host.Outcome.next ((if_neg (by simp [control, off])).trans (if_pos passes)), rfl, rfl, passes, off⟩
  · exact ⟨_, congrArg Host.Outcome.next ((if_neg (by simp [control, off])).trans (if_neg fails)), rfl, rfl⟩
  · exact ⟨_, congrArg Host.Outcome.next (if_neg (by simp [control, off])), rfl, rfl, rfl⟩

end Sys2Proof.Machine
end

section
/-! CERTIFICATE. Messages of every interface reach the queue or are answered (O44). -/

namespace Sys2Proof.Machine

variable {s s1 : State} {r : RxFrame}

/-! ## Frames -/

/-- The ring with the frames that wait. -/
def State.withRing (s : State) (x : Ring) : State := { s with ring := x }

/-- The frame taken, and the state that it leaves. -/
theorem State.takeFrame_spec {is : List Byte → Bool} (taken : s.takeFrame is = some (r, s1)) :
    is r.bytes = true ∧ ∃ x, s1 = s.withRing x := by
  obtain ⟨f, found, pair⟩ := Option.map_eq_some_iff.1 taken
  obtain ⟨rfl, rfl⟩ := Prod.mk.inj pair
  exact ⟨List.find?_some (p := fun r : RxFrame => is r.bytes) found, _, rfl⟩

theorem beNat_append_singleton (l : List Byte) (b : Byte) : beNat (l ++ [b]) = beNat l * 256 + b.toNat := by
  simp [beNat]

theorem beNat_eq (l : List Byte) : beNat l = leNat l.reverse := by
  induction l using List.reverseRecOn with
  | nil => rfl
  | append_singleton l b ih =>
    rw [beNat_append_singleton, ih, List.reverse_append, List.reverse_singleton, List.singleton_append, leNat]
    omega

theorem beNat_natBE (n v : Nat) : beNat (natBE n v) = v % 2 ^ (8 * n) := by
  rw [beNat_eq, natBE, List.reverse_reverse, leNat_natLE]

theorem length_natBE (n v : Nat) : (natBE n v).length = n := by
  rw [natBE, List.length_reverse, length_natLE]

/-- The addresses and the EtherType of a frame without tags. -/
theorem frame_fields {dst : List Byte} (full : dst.length = 6) (src typ : Nat) (rest : List Byte) :
    let f := dst ++ natBE 6 src ++ natBE 2 typ ++ rest
    fDst f = beNat dst ∧ fSrc f = src % 2 ^ 48 ∧ (typ < 65536 → typ ≠ 0x8100 → typ ≠ 0xF1C1 → fType f = typ) := by
  have source := length_natBE 6 src
  simp only [List.append_assoc]
  refine ⟨?_, ?_, fun low tag rtag => ?_⟩
  · rw [fDst, slice_zero_append full]
  · rw [fSrc, slice_append_skip full (by omega), slice_zero_append source, beNat_natBE]
  · have rest' : (dst ++ (natBE 6 src ++ (natBE 2 typ ++ rest))).drop 12 = natBE 2 typ ++ rest := by
      rw [← List.append_assoc]
      exact List.drop_left' (by rw [List.length_append, full, source])
    have typed : beNat (slice (natBE 2 typ ++ rest) 0 2) = typ := by
      rw [slice_zero_append (length_natBE ..), beNat_natBE]
      exact Nat.mod_eq_of_lt low
    simp only [fType, fBody, rest', typed, if_neg tag, if_neg rtag]

theorem execTopEthernetReceive_taken (taken : s.takeFrame (fun f => fType f == 0x88B5 && fDst f == s.mac) = some (r, s1)) :
    execTopEthernetReceive s = .next (s1.objReceive
      { iface := 0, requester := slice r.bytes 6 6, port := r.port, msg := unpad (fBody r.bytes).2.2 }) := by
  rw [execTopEthernetReceive, taken]

theorem execTopUdpReceive_taken {who m : List Byte} (taken : s.takeFrame (fun f => (s.udpOf f).isSome) = some (r, s1))
    (named : s1.udpOf r.bytes = some (who, m)) :
    execTopUdpReceive s = .next (s1.objReceive { iface := 1, requester := who, port := r.port, msg := m }) := by
  simp only [execTopUdpReceive, taken, named]

/-! ## The management port -/

/-- The message of a block write whose error check compares, for a core that serves the port. -/
theorem smbusBlockWrite_good (serves : s.serves 3) (m : List Byte) :
    execSmbusBlockWrite m true s = .next (s.objReceive { iface := 3, msg := m }) :=
  congrArg Host.Outcome.next ((if_neg (not_not_intro serves)).trans (if_neg (by decide)))

/-- ALERT_N follows what it is set to, and no register does. -/
theorem State.setAlert_spec (s : State) (on : Bool) : (s.setAlert on).pins.alert = on ∧ (s.setAlert on).regs = s.regs ∧
    (s.setAlert on).dict = s.dict ∧ (s.setAlert on).reply = s.reply :=
  ite_of (P := fun u : State => u.pins.alert = on ∧ u.regs = s.regs ∧ u.dict = s.dict ∧ u.reply = s.reply)
    (fun same => ⟨same, rfl, rfl, rfl⟩) fun _ => ⟨rfl, rfl, rfl, rfl⟩

/-! ## The statement -/

/-- An ARP request names the address of the module, and so has its sender before it. -/
theorem State.isArp_sender {f : List Byte} (arp : s.isArp f = true) : (slice (fBody f).2.2 8 6).length = 6 := by
  simp only [State.isArp, Bool.and_eq_true, bne_iff_ne, beq_iff_eq] at arp
  obtain ⟨⟨-, some'⟩, target⟩ := arp
  refine length_slice_inside (not_lt.1 fun short => some' ?_)
  rw [← target, slice, List.drop_eq_nil_of_le (by omega)]
  rfl

theorem State.putReply_management {q : ObjReq} (port : q.iface = 3) (m : List Byte) :
    (s.putReply q m).dict.queue = s.dict.queue ∧ (s.putReply q m).dict.smbReply = some m ∧ (s.putReply q m).pins.alert = true := by
  have went : s.putReply q m = ({ s with dict := { s.dict with smbReply := some m, alertReply := true } } : State).showAlert := by
    rw [State.putReply, if_neg (by omega), if_neg (by omega), if_neg (by omega)]
  obtain ⟨alert, -, dict, -⟩ := State.setAlert_spec { s with dict := { s.dict with smbReply := some m, alertReply := true } }
    (s.dict.alertEvent || true)
  exact ⟨(congrArg (fun u => u.dict.queue) went).trans (congrArg (fun d => d.queue) dict),
    (congrArg (fun u => u.dict.smbReply) went).trans (congrArg (fun d => d.smbReply) dict),
    (congrArg (fun u => u.pins.alert) went).trans (alert.trans (Bool.or_true _))⟩

/-- A request that repeats one answered is answered from the stored replies. -/
theorem State.objReceive_repeated {q : ObjReq} {c : Nat × CachedReply} (serves : s.serves q.iface) (ok : msgOk q.iface q.msg)
    (found : s.dict.cache.find? (fun c => c.1 == q.iface && c.2.requester == q.requester && c.2.seq == mSeq q.msg &&
      decide (s.uptime ≤ c.2.time + 1000000000)) = some c) : s.objReceive q = s.putReply q c.2.reply := by
  rw [State.objReceive, if_neg (not_not_intro serves), if_neg (not_not_intro ok), found]

/-- The answer to an ARP request (R441). -/
def State.arpReply (s : State) (f : List Byte) : List Byte :=
  let b := (fBody f).2.2
  slice b 8 6 ++ natBE 6 s.mac ++ natBE 2 0x0806 ++ natBE 8 0x0001080006040002 ++ natBE 6 s.mac ++ natBE 4 s.ipAddr ++ slice b 8 10

theorem execArpRequest_taken (taken : s.takeFrame s.isArp = some (r, s1)) (serves : s1.serves 1) :
    execArpRequest s = .next (s1.sendFrame r.port (padFrame (s1.arpReply r.bytes))) := by
  simp only [execArpRequest, taken, serves, not_true_eq_false, if_false]
  rfl

theorem State.arpReply_fields {f : List Byte} (full : (slice (fBody f).2.2 8 6).length = 6) (s : State) :
    let a := padFrame (s.arpReply f)
    fDst a = beNat (slice (fBody f).2.2 8 6) ∧ fSrc a = s.mac ∧ fType a = 0x0806 := by
  obtain ⟨dst, src, typ⟩ := frame_fields full s.mac 0x0806 (natBE 8 0x0001080006040002 ++ (natBE 6 s.mac ++ (natBE 4 s.ipAddr ++
    (slice (fBody f).2.2 8 10 ++ zeros (60 - (s.arpReply f).length)))))
  have same : padFrame (s.arpReply f) = slice (fBody f).2.2 8 6 ++ natBE 6 s.mac ++ natBE 2 0x0806 ++ (natBE 8 0x0001080006040002 ++
      (natBE 6 s.mac ++ (natBE 4 s.ipAddr ++ (slice (fBody f).2.2 8 10 ++ zeros (60 - (s.arpReply f).length))))) := by
    simp only [padFrame, State.arpReply, List.append_assoc]
  rw [same]
  exact ⟨dst, src.trans (Nat.mod_eq_of_lt (s.rg_lt RING_MAC)), typ (by decide) (by decide) (by decide)⟩

/-- Settles O44: each message is received as the equation above for its interface gives. -/
theorem messagesArrive : Obligations.MessagesArrive := by
  intro s
  refine ⟨fun r s1 m cache room low high => ⟨fun taken whole serves ok => ?_, fun who taken named serves ok => ?_, fun serves ok => ?_⟩,
    fun m serves => ?_, fun m c serves ok found => ?_, fun serves => ?_, fun alert control => ?_, fun r s1 taken serves link => ?_⟩
  · have received := execTopEthernetReceive_taken taken
    obtain ⟨-, x, rfl⟩ := State.takeFrame_spec taken
    rw [← whole, State.objReceive_queued (s := s.withRing x) (r := { iface := 0, requester := slice r.bytes 6 6, port := r.port, msg := m })
      serves ok cache room low high] at received
    exact ⟨_, received, rfl, rfl, rfl, rfl⟩
  · obtain ⟨-, x, rfl⟩ := State.takeFrame_spec taken
    have received := execTopUdpReceive_taken taken named
    rw [State.objReceive_queued (s := s.withRing x) (r := { iface := 1, requester := who, port := r.port, msg := m })
      serves ok cache room low high] at received
    exact ⟨_, received, rfl, rfl, rfl, rfl⟩
  · have received := smbusBlockWrite_good serves m
    rw [State.objReceive_queued (r := { iface := 3, msg := m }) serves ok cache room low high] at received
    exact ⟨_, received, rfl, rfl, rfl⟩
  · exact ⟨_, congrArg Host.Outcome.next ((if_neg (not_not_intro serves)).trans (if_pos (by decide))), rfl, rfl, rfl⟩
  · have received := smbusBlockWrite_good serves m
    rw [State.objReceive_repeated (q := { iface := 3, msg := m }) serves ok found] at received
    exact ⟨_, received, State.putReply_management rfl _⟩
  · have went : execSmbusBlockRead s = .next (({ s with
        dict := { s.dict with smbReply := none, alertReply := false }
        reply := .bytes (s.dict.smbReply.getD []) } : State).setAlert (s.dict.alertEvent || false)) :=
      congrArg Host.Outcome.next (if_neg (not_not_intro serves))
    obtain ⟨shown, regs, dict, reply⟩ := State.setAlert_spec { s with
        dict := { s.dict with smbReply := none, alertReply := false }
        reply := .bytes (s.dict.smbReply.getD []) } (s.dict.alertEvent || false)
    exact ⟨_, went, reply, congrArg Dict.smbReply dict, shown.trans (Bool.or_false _), regs⟩
  · have went : execSmbusAlertResponse s = .next (({ s with
        dict := { s.dict with alertEvent := false, alertReply := false }
        reply := .bytes [BitVec.ofNat 8 (2 * s.dict.smbAddr)] } : State).setAlert (false || false)) :=
      congrArg Host.Outcome.next (if_pos ⟨alert, control⟩)
    obtain ⟨shown, regs, -, reply⟩ := State.setAlert_spec { s with
        dict := { s.dict with alertEvent := false, alertReply := false }
        reply := .bytes [BitVec.ofNat 8 (2 * s.dict.smbAddr)] } (false || false)
    exact ⟨_, went, reply, shown, regs⟩
  · obtain ⟨arp, x, rfl⟩ := State.takeFrame_spec taken
    have answered := execArpRequest_taken taken serves
    rw [State.sendFrame, if_pos (show (s.withRing x).linkOn r.port from link)] at answered
    obtain ⟨dst, src, typ⟩ := State.arpReply_fields (State.isArp_sender arp) (s.withRing x)
    exact ⟨_, answered, rfl, _, rfl, dst, src, typ⟩

end Sys2Proof.Machine
end

section
/-! SUPPORT. What the notes of an error leave alone: the lifetime log and counters, the event ring, the persistent store, the
error FIFO of DRAM, the rows it finds bad and the pages that leave the pool with them (R329, R338, R339, R448, R515). -/

namespace Sys2Proof.Machine

variable {s : State}

/-! ## The part of a state that notes reach -/

/-- Everything but what the notes of an error change. -/
def State.unnoted (s : State) : State :=
  { s with
    regs := [], mem := [], ecc := [], out := [], freeCtr := 0, log := {}, life := {}
    pins := { s.pins with alert := false }, fw := { s.fw with eseq := 0, evLost := false, pba := 0 }
    fac := { s.fac with remapData := [] }
    dict := { s.dict with
      vals := [], precs := [], old := [], pseq := 0, budget := 0, wornLogged := false, lowPosted := false, alertEvent := false }
    ef := { s.ef with
      erases := [], spareData := 0, dataGone := false, dsec := [], dopen := (0, 1), prefetch := [], branch := [] }
    dram := { s.dram with elog := [], ce := [] }, pool := { s.pool with pages := [], retired := [] } }

/-- The registers that the log, the persistent store and the error FIFO write. -/
def recordFlds : List Fld :=
  [HRING_EV_LOST, HRING_EV_DB_TAIL, EF_ERASE, EF_RETIRED_DATA, EF_STATUS_DATA_SPARE, DRAM_ELOG_FILL, DRAM_ELOG_LOST] ++
    (List.range 8).map DRAM_ELOG_DATA

/-- The registers that accesses to DRAM and the pages they retire write. -/
def accessFlds : List Fld :=
  [DRAM_CORR, DRAM_UNC, DRAM_RD_BYTES, DRAM_WR_BYTES, TIER_RETIRE, TIER_POOL_DRAM, TIER_FREE, TIER_NFREE] ++
    (List.range 64).flatMap fun c => [TIER_CLIENT_DRAM c, TIER_CLIENT_NAND c, TIER_CLIENT_PINNED c, TIER_CLIENT_OLDEST c]

/-- The registers that the notes of an error write. -/
def noteKeys : List Nat := (recordFlds ++ accessFlds).map Fld.key

/-- From `a` to `s` the module has only noted errors. -/
structure Noted (a s : State) : Prop where
  field : ∀ f : Fld, f.key ∉ noteKeys → s.rg f = a.rg f
  rest : s.unnoted = a.unnoted

namespace Noted

variable {a s t : State}

theorem refl (a : State) : Noted a a := ⟨fun _ _ => rfl, rfl⟩

theorem trans {b : State} (h : Noted a b) (k : Noted b s) : Noted a s :=
  ⟨fun f hf => (k.field f hf).trans (h.field f hf), k.rest.trans h.rest⟩

theorem keep (h : Noted a s) (regs : t.regs = s.regs) (rest : t.unnoted = s.unnoted) : Noted a t :=
  ⟨fun f hf => (State.rg_congr regs f).trans (h.field f hf), rest.trans h.rest⟩

theorem wr (h : Noted a s) {f : Fld} (hf : f ∈ recordFlds ++ accessFlds) (v : Nat) : Noted a (s.wr f v) :=
  ⟨fun g hg => (s.rg_wr_other (g := g) (f := f) (fun same => hg (same ▸ List.mem_map_of_mem hf)) v).trans (h.field g hg), h.rest⟩

theorem record (h : Noted a s) {f : Fld} (hf : f ∈ recordFlds) (v : Nat) : Noted a (s.wr f v) := h.wr (List.mem_append_left _ hf) v

theorem access (h : Noted a s) {f : Fld} (hf : f ∈ accessFlds) (v : Nat) : Noted a (s.wr f v) := h.wr (List.mem_append_right _ hf) v

/-! ## The log and the event ring -/

theorem raise (h : Noted a s) (v : Nat) : Noted a (s.raise v) := by
  obtain ⟨p, o, went⟩ := s.raise_eq v
  rw [went]
  exact h.keep rfl rfl

theorem postEvent (h : Noted a s) (code src arg : Nat) (data : List Byte := []) (stamp : Option (List Byte) := none) :
    Noted a (s.postEvent code src arg data stamp) := by
  unfold State.postEvent
  extract_lets -merge +onlyGivenNames seq fw1 s1 lost tail e fw2 s2 s3
  have h2 : Noted a s2 := h.keep rfl rfl
  have h3 : Noted a s3 := record (s := s2.st _ _) (h2.keep rfl rfl) (f := HRING_EV_DB_TAIL) (by decide) _
  refine ite_of (fun _ => record (f := HRING_EV_LOST) ?_ (by decide) _) fun _ => ite_of (fun _ => h3.raise 0) fun _ => h3
  exact h.keep rfl rfl

theorem logEntry (h : Noted a s) (code src wher arg : Nat) (status : Nat := 0) : Noted a (s.logEntry code src wher arg status) := by
  unfold State.logEntry
  refine ite_of (fun _ => h.keep rfl rfl) fun _ => ite_of (fun _ => ?_) fun _ => h.keep rfl rfl
  refine ite_of (fun _ => postEvent ?_ _ _ _) fun _ => h.keep rfl rfl
  exact h.keep rfl rfl

theorem count (h : Noted a s) (i : Nat) (n : Nat := 1) : Noted a (s.count i n) := by
  unfold State.count
  refine ite_of (fun _ => postEvent (logEntry ?_ _ _ _ _) _ _ _) fun _ => h.keep rfl rfl
  exact h.keep rfl rfl

theorem logPut (h : Noted a s) (e : LogEnt) : Noted a (s.logPut e) := by
  have h : Noted a s.codeWritten := h.keep rfl rfl
  unfold State.logPut
  extract_lets s1
  split
  · refine ite_of (fun _ => h.keep rfl rfl) fun _ => ite_of (fun _ => h.keep rfl rfl) fun _ => ?_
    refine record ?_ (f := EF_ERASE) (by decide) _
    exact h.keep rfl rfl
  · exact h.keep rfl rfl

theorem writeCheckpoint (h : Noted a s) : Noted a s.writeCheckpoint := by
  unfold State.writeCheckpoint
  exact foldl_of (P := Noted a) (h.keep rfl rfl) fun _ e k => k.logPut e

theorem alertEvent (h : Noted a s) : Noted a s.alertEvent := ite_of (fun _ => h.keep rfl rfl) fun _ => h.keep rfl rfl

/-! ## The persistent store -/

theorem countErase (h : Noted a s) (key : Nat) : Noted a (s.countErase key) := by
  refine record ?_ (f := EF_ERASE) (by decide) _
  exact h.keep rfl rfl

theorem retireSector (h : Noted a s) (sector : Nat) : Noted a (s.retireSector false sector).2 := by
  unfold State.retireSector
  extract_lets s1
  have h1 : Noted a s1 := (h.logEntry _ _ _ _).record (f := EF_RETIRED_DATA) (by decide) _
  simp only [Bool.false_eq_true, if_false]
  refine ite_of (P := fun x : Bool × State => Noted a x.2) (fun _ => h1.keep rfl rfl) fun _ => record ?_ (f := EF_STATUS_DATA_SPARE) (by decide) _
  exact h1.keep rfl rfl

theorem eraseData (h : Noted a s) (i : Nat) : Noted a (s.eraseData i) :=
  ite_of (fun _ => (h.countErase _).retireSector _) fun _ => h.countErase _

theorem openSector (h : Noted a s) (second : Bool) (e : Nat) : Noted a (s.openSector second e) := by
  unfold State.openSector
  extract_lets ef s1
  have h1 : Noted a s1 := h.keep rfl rfl
  split
  · extract_lets n mv
    refine eraseData ?_ _
    exact h1.keep rfl rfl
  · exact h1

theorem placeRec (h : Noted a s) (second : Bool) (n : Nat) : Noted a (s.placeRec second n).2 := by
  unfold State.placeRec
  extract_lets cur s1 i
  have h1 : Noted a s1 := by
    refine ite_of (fun _ => h) fun _ => ?_
    split
    · exact h.openSector _ _
    · exact h
  exact h1.keep rfl rfl

theorem commitRec (h : Noted a s) (index sub : Nat) (v : List Byte) : Noted a (s.commitRec index sub v).2 := by
  unfold State.commitRec
  split
  · extract_lets s1
    have h1 : Noted a s1 := ite_of (fun _ => h) fun _ => h.logEntry _ _ _ _
    exact h1.keep rfl rfl
  · extract_lets left r x y s1 others dict s2 dict3 s3
    have hy : Noted a y.2 := (h.placeRec _ _).placeRec _ _
    clear_value y
    have h2 : Noted a s2 := hy.keep rfl rfl
    split
    · have h3 : Noted a s3 := h2.keep rfl rfl
      exact ((h3.postEvent _ _ _).logEntry _ _ _ _).alertEvent
    · exact h2

theorem persist (h : Noted a s) (index sub : Nat) (v : List Byte) : Noted a (s.persist index sub v) := by
  have h1 : Noted a (s.setVal index sub v) := h.keep rfl rfl
  exact ite_of (fun _ => h1) fun _ => h1.commitRec _ _ _

/-! ## The error FIFO -/

theorem showElog (h : Noted a s) : Noted a s.showElog := by
  unfold State.showElog
  extract_lets s1
  have h1 : Noted a s1 := h.record (f := DRAM_ELOG_FILL) (by decide) _
  split
  · exact h1
  · refine List.foldlRecOn _ _ h1 fun _ k w hw => k.record ?_ _
    exact List.mem_append_right _ (List.mem_map_of_mem hw)

theorem elogPush (h : Noted a s) (typ port : Nat) (d : DAddr) : Noted a (s.elogPush typ port d) := by
  unfold State.elogPush
  extract_lets f s1 r
  have h1 : Noted a s1 := by
    refine ite_of (P := fun x : Nat × State => Noted a x.2) (fun _ => ?_) fun _ => h
    exact h.keep rfl rfl
  refine showElog ?_
  exact h1.keep rfl rfl

theorem elogAt (h : Noted a s) (typ port : Nat) (d : DAddr) : Noted a (s.elogAt typ port d) := by
  unfold State.elogAt
  extract_lets same
  split
  · refine ite_of (fun _ => showElog ?_) fun _ => ite_of (fun _ => h.record (f := DRAM_ELOG_LOST) (by decide) _) fun _ => h.elogPush _ _ _
    exact h.keep rfl rfl
  · exact h.elogPush _ _ _

theorem pprRun (h : Noted a s) (bad : List Nat) : Noted a (s.pprRun bad) := by
  unfold State.pprRun
  extract_lets l r
  have h1 : Noted a r.2.2 := by
    refine foldl_of (P := fun x : List (List Byte) × List (Nat × Nat × Nat) × State => Noted a x.2.2) h fun x e k => ?_
    extract_lets d b
    refine ite_of (P := fun x : List (List Byte) × List (Nat × Nat × Nat) × State => Noted a x.2.2) (fun _ => k) fun _ => ?_
    exact ite_of (P := fun x : List (List Byte) × List (Nat × Nat × Nat) × State => Noted a x.2.2) (fun _ => k.elogAt ..) fun _ => k.elogAt ..
  exact ite_of (fun _ => h1) fun _ => h1.persist ..

/-! ## Pages that leave the pool -/

theorem bookClient (h : Noted a s) {c : Nat} (hc : c ∈ List.range 64) : Noted a (s.bookClient c) := by
  have mem {f : Fld} (hf : f ∈ [TIER_CLIENT_DRAM c, TIER_CLIENT_NAND c, TIER_CLIENT_PINNED c, TIER_CLIENT_OLDEST c]) : f ∈ accessFlds :=
    List.mem_append_right _ (List.mem_flatMap.2 ⟨c, hc, hf⟩)
  refine access (access (access (access h ?_ _) ?_ _) ?_ _) ?_ _
  · exact mem (.head _)
  · exact mem (.tail _ (.head _))
  · exact mem (.tail _ (.tail _ (.head _)))
  · exact mem (.tail _ (.tail _ (.tail _ (.head _))))

theorem books (h : Noted a s) : Noted a s.books := by
  have clients : Noted a ((List.range 64).foldl State.bookClient s) := List.foldlRecOn _ _ h fun _ k _ hc => k.bookClient hc
  exact (clients.access (f := TIER_FREE) (by decide) _).access (f := TIER_NFREE) (by decide) _

theorem retirePage (h : Noted a s) (pg : Nat) : Noted a (s.retirePage pg) := by
  refine ite_of (fun _ => h) fun _ => books (access (access ?_ (f := TIER_RETIRE) (by decide) _) (f := TIER_POOL_DRAM) (by decide) _)
  exact h.keep rfl rfl

theorem candidate (h : Noted a s) (d : DAddr) : Noted a (s.candidate d) :=
  ite_of (fun _ => h) fun _ => List.foldlRecOn _ _ (h.persist _ _ _) fun _ k pg _ => k.retirePage pg

theorem ceRow (h : Noted a s) (d : DAddr) : Noted a (s.ceRow d) := by
  unfold State.ceRow
  extract_lets n dram s1
  have h1 : Noted a s1 := h.keep rfl rfl
  exact ite_of (fun _ => h1.candidate d) fun _ => h1

/-! ## Accesses to DRAM -/

theorem unitError (h : Noted a s) (port tc tu : Nat) (u : Nat × Nat) : Noted a (s.unitError port tc tu u) := by
  refine ite_of (fun _ => (h.elogAt _ _ _).candidate _) fun _ => ceRow (elogAt (access ?_ (f := DRAM_CORR) (by decide) _) _ _ _) _
  exact h.keep rfl rfl

theorem dramRead (h : Noted a s) (port n k : Nat) : Noted a (s.dramRead port n k).2 := by
  unfold State.dramRead
  extract_lets l s1 bad s2 s3
  have h1 : Noted a s1 := List.foldlRecOn _ _ h fun _ k u _ => k.unitError _ _ _ u
  have h2 : Noted a s2 := h1.access (f := DRAM_RD_BYTES) (by decide) _
  exact ite_of (fun _ => (h2.access (f := DRAM_UNC) (by decide) _).count 14) fun _ => h2

theorem dramWrite (h : Noted a s) (port n : Nat) (b : List Byte) : Noted a (s.dramWrite port n b) := by
  unfold State.dramWrite
  extract_lets k o s1 whole s2
  have h1 : Noted a s1 := List.foldlRecOn _ _ h fun _ k u _ =>
    ite_of (fun _ => k) fun _ => ite_of (fun _ => k.elogAt _ _ _) fun _ => k.unitError _ _ _ u
  refine access (s := s2.st n b) ?_ (f := DRAM_WR_BYTES) (by decide) _
  exact h1.keep rfl rfl

end Noted

end Sys2Proof.Machine
end

section
/-! SUPPORT. The persistent store while an object's value takes effect, and when a commit ends (R431, R447, R448). -/

namespace Sys2Proof.Machine

variable {s : State}

/-! ## A value that takes effect -/

/-- The records, the commits that wait and the room of the persistent store. -/
def State.stored (s : State) : List PRec × List Commit × Nat × Bool :=
  (s.dict.precs, s.dict.commits, s.dict.budget, s.ef.dataGone)

/-- From `a` to `s` nothing has reached the persistent store. -/
def SameStore (a s : State) : Prop := s.stored = a.stored

namespace SameStore

variable {a s : State}

theorem refl (a : State) : SameStore a a := rfl

theorem takeFields (h : SameStore a s) (w : Nat) (l : List Fld) : SameStore a (s.takeFields w l) :=
  foldl_of (P := SameStore a) h fun _ _ k => k

theorem rederive (h : SameStore a s) : SameStore a s.rederive := by
  unfold State.rederive
  extract_lets c s1 s2 s3
  have h1 : SameStore a s1 := h
  clear_value s1
  have h2 : SameStore a s2 := foldl_of (P := SameStore a) h1 fun _ _ k => k
  exact h2

theorem ringForce (h : SameStore a s) (v : Nat) : SameStore a (s.ringForce v) :=
  ite_of (fun _ => ite_of (fun _ => h) fun _ => h) fun _ => ite_of (fun _ => h) fun _ => h

theorem vinWrite (h : SameStore a s) (p w : Nat) (l : List Fld) : SameStore a (s.vinWrite p w l) :=
  ite_of (fun _ => h.takeFields w l) fun _ => h

theorem vinPortWrite (h : SameStore a s) (p : Nat) (size : Bool) (w : Nat) : SameStore a (s.vinPortWrite p size w) := by
  unfold State.vinPortWrite
  extract_lets was t
  have ht : SameStore a t := ite_of (fun _ => h.vinWrite ..) fun _ => h.vinWrite ..
  exact ite_of (fun _ => ht) fun _ => ht

theorem ack (h : SameStore a s) (f : Fld) (b : Bool) : SameStore a (if b then s.wr f 0 else s) := ite_of (fun _ => h) fun _ => h

theorem vinMux (h : SameStore a s) (w : Nat) : SameStore a (s.vinMux w) :=
  ite_of (fun _ => h.ack ..) fun _ => (h.ack ..).takeFields ..

theorem audClkWrite (h : SameStore a s) (w : Nat) : SameStore a (s.audClkWrite w) :=
  ite_of (fun _ => h.ack ..) fun _ => (h.ack ..).takeFields ..

/-- The value of an object that is not the tide's own does not reach the store as it takes effect. -/
theorem applyObj (h : SameStore a s) {i : Nat} (other : ¬ (0x4000 ≤ i ∧ i ≤ 0x4004)) (v : List Byte) : SameStore a (s.applyObj i v) := by
  refine ite_of (fun _ => h) fun _ => ite_of (fun tide => absurd tide other) fun _ => ite_of (fun _ => h.takeFields ..) fun _ =>
    ite_of (fun _ => h.ringForce _) fun _ => ite_of (fun _ => h) fun _ => ite_of (fun _ => h.vinPortWrite ..) fun _ =>
    ite_of (fun _ => h.vinPortWrite ..) fun _ => ite_of (fun _ => h.takeFields ..) fun _ => ite_of (fun _ => h.vinMux _) fun _ =>
    ite_of (fun _ => h.audClkWrite _) fun _ => ite_of (fun _ => h.takeFields ..) fun _ => ite_of (fun _ => h.takeFields ..) fun _ => ?_
  split
  · next f _ => exact rederive (s := s.wr f _) h
  · exact h

theorem objEffect (h : SameStore a s) {i : Nat} (other : ¬ (0x4000 ≤ i ∧ i ≤ 0x4004)) (v : List Byte) : SameStore a (s.objEffect i v) :=
  ite_of (fun _ => h.applyObj other v) fun _ => ite_of (fun _ => h) fun _ => ite_of (fun _ => h) fun _ => ite_of (fun _ => h) fun _ =>
    ite_of (fun _ => h) fun _ => ite_of (fun _ => h) fun _ => ite_of (fun _ => h) fun _ =>
    ite_of (fun _ => h.applyObj other v) fun _ => h

end SameStore

/-! ## A commit -/

/-- A commit that the store has room for: its record is there, and the units it cost are gone (R448). -/
theorem State.commitRec_done (room : s.dict.budget ≠ 0) (usable : s.ef.dataGone = false) (index sub : Nat) (v : List Byte) :
    let r := s.commitRec index sub v
    r.1 = true ∧ r.2.dict.budget = s.dict.budget - commitUnits v.length ∧
      ∃ x ∈ r.2.dict.precs, x.index = index ∧ x.sub = sub ∧ x.value = v := by
  unfold State.commitRec
  rw [if_neg (by simp [room, usable])]
  extract_lets left r x y s1 others dict s2 dict3 s3
  have kept : s2.dict.budget = left ∧ ∃ x ∈ s2.dict.precs, x.index = index ∧ x.sub = sub ∧ x.value = v :=
    ⟨rfl, { r with sec0 := x.1, sec1 := y.1 }, List.mem_append_right _ (.head _), rfl, rfl, rfl⟩
  refine ite_of (P := fun z : Bool × State => z.1 = true ∧ z.2.dict.budget = left ∧
    ∃ x ∈ z.2.dict.precs, x.index = index ∧ x.sub = sub ∧ x.value = v) (fun _ => ⟨rfl, ?_⟩) fun _ => ⟨rfl, kept⟩
  have logged : ((s3.postEvent 0x0040 5 left).logEntry 0x000F 5 0xFFFF 0).dict = s3.dict :=
    (((Logged.refl s3).postEvent ..).logEntry ..).dict
  have alerted (u : State) : u.alertEvent.dict.budget = u.dict.budget ∧ u.alertEvent.dict.precs = u.dict.precs :=
    ite_of (P := fun w : State => w.dict.budget = u.dict.budget ∧ w.dict.precs = u.dict.precs) (fun _ => ⟨rfl, rfl⟩) fun _ => ⟨rfl, rfl⟩
  obtain ⟨budget, precs⟩ := alerted ((s3.postEvent 0x0040 5 left).logEntry 0x000F 5 0xFFFF 0)
  rw [budget, precs, logged]
  exact kept

end Sys2Proof.Machine
end

section
/-! CERTIFICATE. READ, NEXT, WRITE and the commit (O45). -/

namespace Sys2Proof.Machine

variable {s s1 : State} {q : ObjReq} {o : Obj}

/-! ## READ and NEXT (R437, R438) -/

/-- The reads that wait to be continued. -/
def State.withReads (s : State) (l : List SegRead) : State := { s with dict := { s.dict with reads := l } }

/-- A READ from the start of a value. -/
theorem State.objReadReq_value (named : s.obj? (mIndex q.msg) = some o) (value : mSub q.msg = 0) (reads : o.acc ≠ 2)
    (start : mOffset q.msg = 0) : ∃ l, s.objReadReq q = (s.withReads l).answerData q (s.objRead o).length
      (slice (s.objRead o) 0 (min (mLen q.msg) (lenLimit q.iface))) := by
  have first : ¬ (mSub q.msg ≠ 0 ∧ mSub q.msg ≠ 0xFF) := fun h => h.1 value
  have second : ¬ (mSub q.msg = 0 ∧ o.acc = 2) := fun h => reads h.2
  have third : ¬ mSub q.msg = 0xFF := by omega
  simp only [State.objReadReq, named, if_neg first, if_neg second, if_neg third, State.readValue, start]
  exact ⟨_, rfl⟩

theorem State.objReadReq_unknown (unknown : s.obj? (mIndex q.msg) = none) :
    s.objReadReq q = s.answerObj q (s.noObject (mIndex q.msg)) 0 := by
  rw [State.objReadReq, unknown]

/-- The reply that gives data. -/
theorem State.answerData_replied (s : State) (header : 40 ≤ q.msg.length) (total : Nat) (data : List Byte) :
    (s.answerData q total data).replied q stOk 0 total data := s.sendReply_replied s header stOk 0 total data

theorem Answered.answerData (s : State) (q : ObjReq) (total : Nat) (data : List Byte) : Answered s (s.answerData q total data) :=
  (Answered.refl s).sendReply q _

/-- Object 0x1022 is the key list. -/
theorem State.objRead_keyList (named : s.obj? 0x1022 = some o) : s.objRead o = s.keyList := by
  have same : s.obj? 0x1022 = some (objRaw 0x1022 0x0E 0 585) := rfl
  obtain rfl : objRaw 0x1022 0x0E 0 585 = o := Option.some.inj (same.symm.trans named)
  rfl

/-! ## WRITE (R431, R437) -/

/-- The segments that wait are none of this object's. -/
theorem State.dropSegs_nil (none' : s.dict.segs = []) (f : SegWrite → Bool) :
    ({ s with dict := { s.dict with segs := s.dict.segs.filter f } } : State) = s := by
  have same : s.dict.segs.filter f = s.dict.segs := by rw [none']; rfl
  rw [same]

/-- A WRITE of a whole value that its object takes. -/
theorem State.objWriteReq_whole (named : s.obj? (mIndex q.msg) = some o) (free : s.writeBar q o = none) (start : mOffset q.msg = 0)
    (whole : mTotal q.msg = (mData q.msg).length) (none' : s.dict.segs = []) (train : Nat) :
    s.objWriteReq q train = s.writeValue q o (mData q.msg) none train := by
  have nothing (f : SegWrite → Bool) : s.dict.segs.find? f = none := by rw [none']; rfl
  simp only [State.objWriteReq, named, free, nothing, Option.any_none, Bool.false_eq_true, if_false, if_pos start, if_pos whole,
    State.dropSegs_nil none']

/-- The value of a plain object. -/
theorem State.writeValue_plain {v : List Byte} (ok : o.valueOk v) (free : s.valueBar o.index v = none)
    (param : ¬ (0x6000 ≤ o.index ∧ o.index < 0x8000)) (tide : ¬ (0x4000 ≤ o.index ∧ o.index ≤ 0x4004)) (cmd : o.acc ≠ 2)
    (rollback : o.index ≠ 0x1008) (train : Nat) : s.writeValue q o v none train =
      let t := (s.objEffect o.index v).setVal o.index 0 v
      if o.acc = 3 then t.commitObj q o.index 0 v none else t.answerObj q stOk 0 := by
  have legal : ¬ (¬ o.valueOk v ∨ (none : Option Nat).isSome ∧ ¬ bit o.flags 0) := by simp [ok]
  rw [State.writeValue, if_neg legal, free]
  exact (if_neg param).trans ((if_neg tide).trans (if_neg (by rintro (c | r); exacts [cmd c, rollback r])))

theorem State.objVal_setVal (s : State) (i : Nat) (v d : List Byte) : (s.setVal i 0 v).objVal i 0 d = v :=
  KMap.get_insert_same ..

/-- A value that is not the committed one waits for its commit. -/
theorem State.commitObj_waits {v : List Byte} {i : Nat} (new : s.committed i none ≠ some v) (room : s.dict.budget ≠ 0)
    (usable : s.ef.dataGone = false) : ∃ c, c.index = i ∧ c.value = v ∧ c.req = q ∧ s.commitObj q i 0 v none =
      ({ s with dict := { s.dict with commits := s.dict.commits ++ [c] } } : State).showEf := by
  refine ⟨{ index := i, value := v, req := q, reply := s.replyMsg q.msg stOk 0 (mTotal q.msg) [], par := none }, rfl, rfl, rfl, ?_⟩
  exact (if_neg fun h => new h.1).trans (if_neg (by simp [room, usable]))

/-! ## The end of a commit (R448) -/

/-- The commits that wait. -/
def State.withCommits (s : State) (l : List Commit) : State := { s with dict := { s.dict with commits := l } }

/-- The value of a stream parameter that a commit has recorded. -/
def State.keepParam (s : State) (c : Commit) (ok : Bool) : State :=
  match c.par with
  | some k => if ok then
      { s with dict := { s.dict with pparams :=
        (s.dict.pparams.filter fun x => !(x.1 == k.1 && x.2.1 == k.2.1 && x.2.2.1 == k.2.2)) ++ [(k.1, k.2.1, k.2.2, c.value)] } }
    else s
  | none => s

theorem SameStore.keepParam (s : State) (c : Commit) (ok : Bool) : SameStore s (s.keepParam c ok) := by
  unfold State.keepParam
  split
  · exact ite_of (P := SameStore s) (fun _ => .refl s) fun _ => .refl s
  · exact .refl s

theorem State.commitDone_eq {c : Commit} {l : List Commit} (waits : s.dict.commits = c :: l) :
    s.commitDone =
      let r := (s.withCommits l).commitRec c.index c.sub c.value
      ((r.2.keepParam c r.1).sendReply c.req (if r.1 then c.reply else patch c.reply 7 (natLE 1 stNotPersisted))).showEf := by
  rw [State.commitDone, waits]
  rfl

/-- The oldest commit ends: its record is written, and its reply leaves. -/
theorem State.commitDone_spec {c : Commit} {l : List Commit} (waits : s.dict.commits = c :: l) (room : s.dict.budget ≠ 0)
    (usable : s.ef.dataGone = false) : let u := s.commitDone
    u.dict.commits = l ∧ u.dict.budget = s.dict.budget - commitUnits c.value.length ∧
      (∃ r ∈ u.dict.precs, r.index = c.index ∧ r.sub = c.sub ∧ r.value = c.value) ∧
      (u.dict.cache.head?.map fun x => (x.1, x.2.reply)) = some (c.req.iface, c.reply) := by
  obtain ⟨done, budget, written⟩ := State.commitRec_done (s := s.withCommits l) room usable c.index c.sub c.value
  have noted := (Noted.refl (s.withCommits l)).commitRec c.index c.sub c.value
  have commits : ((s.withCommits l).commitRec c.index c.sub c.value).2.dict.commits = l := congrArg (fun t => t.dict.commits) noted.rest
  rw [State.commitDone_eq waits]
  dsimp only
  rw [if_pos done]
  generalize (s.withCommits l).commitRec c.index c.sub c.value = r at budget written commits ⊢
  have same := SameStore.keepParam r.2 c r.1
  generalize r.2.keepParam c r.1 = t at same ⊢
  simp only [SameStore, State.stored, Prod.mk.injEq] at same
  obtain ⟨precs, commits', budget', -⟩ := same
  have sent := (Answered.refl t).sendReply c.req c.reply
  refine ⟨sent.commits.trans (commits'.trans commits), sent.budget.trans (budget'.trans budget), ?_, ?_⟩
  · rw [show (t.sendReply c.req c.reply).showEf.dict.precs = r.2.dict.precs from sent.precs.trans precs]
    exact written
  · exact congrArg (Option.map fun x : Nat × CachedReply => (x.1, x.2.reply)) (t.sendReply_head c.req c.reply)

/-! ## Requests at the front -/

theorem execRead_front (front : s.front 1 = some (q, s1)) : execRead s = .next (s1.objReadReq q) := by rw [execRead, front]

theorem execKeyList_front (front : s.front 1 = some (q, s1)) (list : mIndex q.msg = 0x1022) :
    execKeyList s = .next (s1.objReadReq q) := by
  simp only [execKeyList, front, if_pos list]

theorem execNext_front (front : s.front 5 = some (q, s1)) : execNext s = .next (s1.objNext q) := by rw [execNext, front]

theorem execWrite_front (front : s.front 2 = some (q, s1)) (train : Fin 25) :
    execWrite train s = .next (s1.objWriteReq q train.val) := by rw [execWrite, front]

theorem execSegmentTimeout_oldest {x : SegWrite} {l : List SegWrite} (waits : s.dict.segs = x :: l) :
    execSegmentTimeout s = .next (({ s with dict := { s.dict with
      segs := l, stats := s.dict.stats.modify 3 fun n => (n + 1) % 2 ^ 32 } } : State).logEntry 0x0016 5 x.index
        (x.sub + 256 * x.iface) stTimeout) := by
  rw [execSegmentTimeout, waits]

/-- Settles O45: a request at the front is answered as the equation above for its kind, and a commit ends as R448 gives. -/
theorem objectsAreReadAndWritten : Obligations.ObjectsAreReadAndWritten := by
  refine ⟨fun s s1 q header => ⟨fun front value => ⟨fun o named reads start => ?_, fun unknown => ?_, fun o named reads list start => ?_⟩,
    fun l front all => ?_⟩, ?_⟩
  · obtain ⟨kept, read⟩ := State.objReadReq_value named value reads start
    have went := execRead_front front
    rw [read] at went
    obtain ⟨op, l, rfl⟩ := State.front_spec front
    exact ⟨_, went, State.answerData_replied _ header .., (Answered.answerData ..).queue, (Answered.answerData ..).mem⟩
  · have went := execRead_front front
    rw [State.objReadReq_unknown unknown] at went
    obtain ⟨op, l, rfl⟩ := State.front_spec front
    refine ⟨_, went, ?_, ((Answered.refl _).answerObj ..).mem⟩
    simpa [op] using State.answerObj_replied (s.withQueue l) header ((s.withQueue l).noObject (mIndex q.msg)) 0
  · obtain ⟨kept, read⟩ := State.objReadReq_value (list ▸ named) value reads start
    have went := execKeyList_front front list
    rw [read, State.objRead_keyList named] at went
    obtain ⟨op, l, rfl⟩ := State.front_spec front
    exact ⟨_, went, State.answerData_replied _ header .., (Answered.answerData ..).ef⟩
  · have went := execNext_front front
    rw [State.objNext, ← all] at went
    obtain ⟨op, l', rfl⟩ := State.front_spec front
    exact ⟨_, went, State.answerData_replied _ header .., (Answered.answerData ..).mem⟩
  · intro s s1 q o v i
    refine ⟨fun header front named free start whole none' own ok legal param tide rollback train => ?_,
      fun c l waits control runs room usable => ?_, fun x l waits => ?_⟩
    · have went := execWrite_front front train
      obtain ⟨op, l, rfl⟩ := State.front_spec front
      rw [State.objWriteReq_whole (s := s.withQueue l) named free start whole none'] at went
      rw [← own] at legal param tide rollback ⊢
      refine ⟨fun plain => ?_, fun persists new room usable => ?_⟩
      · rw [State.writeValue_plain ok legal param tide (by omega) rollback] at went
        dsimp only at went
        rw [if_neg (by omega)] at went
        refine ⟨_, went, ?_, ?_⟩
        · rw [State.objVal, ((Answered.refl _).answerObj q stOk 0).vals]
          exact State.objVal_setVal ..
        · simpa [op, whole] using State.answerObj_replied (((s.withQueue l).objEffect o.index v).setVal o.index 0 v) header stOk 0
      · rw [State.writeValue_plain ok legal param tide (by omega) rollback] at went
        dsimp only at went
        rw [if_pos persists] at went
        have same := (SameStore.refl (s.withQueue l)).objEffect tide v
        generalize (s.withQueue l).objEffect o.index v = t at went same
        simp only [SameStore, State.stored, Prod.mk.injEq] at same
        obtain ⟨precs, commits, budget, gone⟩ := same
        have fresh : (t.setVal o.index 0 v).committed o.index none ≠ some v := by
          rwa [State.committed, show (t.setVal o.index 0 v).dict.precs = s.dict.precs from precs]
        obtain ⟨c, index, value, req, waits⟩ := State.commitObj_waits (q := q) fresh (budget.symm ▸ room) (gone.trans usable)
        rw [waits] at went
        exact ⟨_, went, State.objVal_setVal .., c, congrArg (· ++ [c]) commits, index, value, req⟩
    · exact ⟨_, congrArg Host.Outcome.next (if_pos ⟨control, runs⟩), State.commitDone_spec waits room usable⟩
    · have logged := (Logged.refl ({ s with dict := { s.dict with
        segs := l, stats := s.dict.stats.modify 3 fun n => (n + 1) % 2 ^ 32 } } : State)).logEntry 0x0016 5 x.index
          (x.sub + 256 * x.iface) stTimeout
      exact ⟨_, execSegmentTimeout_oldest waits, congrArg (fun d => d.segs) logged.dict, congrArg (fun d => d.vals) logged.dict,
        congrArg (fun d => d.queue) logged.dict⟩

end Sys2Proof.Machine
end

section
/-! CERTIFICATE. Protection level, rollback counter and keys change through their objects (O47). -/

namespace Sys2Proof.Machine

variable {s s1 : State} {q : ObjReq} {o : Obj}

/-! ## What the level and the keys are read from -/

/-- The keys, the level of the option record and the fuse of level 2. -/
def State.secured (s : State) : List KeyEnt × Nat × Bool := (s.ef.keys, s.ef.opt.level, s.fac.level2)

/-- From `a` to `s` neither a key nor the level has changed. -/
structure SameGuard (a s : State) : Prop where
  same : s.secured = a.secured

namespace SameGuard

variable {a s t : State}

theorem refl (a : State) : SameGuard a a := ⟨rfl⟩

theorem keep (h : SameGuard a s) (same : t.secured = s.secured) : SameGuard a t := ⟨same.trans h.same⟩

theorem noted (h : SameGuard a s) (k : Noted s t) : SameGuard a t := h.keep (show t.unnoted.secured = s.unnoted.secured from congrArg _ k.rest)

theorem logEntry (h : SameGuard a s) (code src wher arg : Nat) (status : Nat := 0) : SameGuard a (s.logEntry code src wher arg status) :=
  h.noted ((Noted.refl s).logEntry code src wher arg status)

theorem writeCheckpoint (h : SameGuard a s) : SameGuard a s.writeCheckpoint := h.noted (Noted.refl s).writeCheckpoint

theorem answered (h : SameGuard a s) (k : Answered s t) : SameGuard a t := h.keep (show t.unanswered.secured = s.unanswered.secured from congrArg _ k.rest)

theorem wr (h : SameGuard a s) (f : Fld) (v : Nat) : SameGuard a (s.wr f v) := h.keep rfl

theorem wrs (h : SameGuard a s) (l : List (Fld × Nat)) : SameGuard a (s.wrs l) := foldl_of (P := SameGuard a) h fun _ _ k => k.wr ..

theorem showEf (h : SameGuard a s) : SameGuard a s.showEf := h.wrs _

theorem rederive (h : SameGuard a s) : SameGuard a s.rederive := by
  unfold State.rederive
  extract_lets c s1 s2 s3
  have h1 : SameGuard a s1 := (h.wr ..).wr ..
  have h2 : SameGuard a s2 := foldl_of (P := SameGuard a) h1 fun _ _ k => (k.wr ..).wr ..
  exact ((h2.wr ..).wr ..).wr ..

theorem toBypass (h : SameGuard a s) (cause : Nat) : SameGuard a (s.toBypass cause) :=
  ite_of (fun _ => h) fun _ => (h.wrs _).keep rfl

theorem keepParam (h : SameGuard a s) (c : Commit) (ok : Bool) : SameGuard a (s.keepParam c ok) := by
  unfold State.keepParam
  split
  · exact ite_of (fun _ => h.keep rfl) fun _ => h
  · exact h

theorem commitDone (h : SameGuard a s) : SameGuard a s.commitDone := by
  cases waits : s.dict.commits with
  | nil => rw [State.commitDone, waits]; exact h
  | cons c l =>
    rw [State.commitDone_eq waits]
    have taken : SameGuard a (s.withCommits l) := h.keep rfl
    have recorded := taken.noted ((Noted.refl _).commitRec c.index c.sub c.value)
    exact ((recorded.keepParam c _).answered ((Answered.refl _).sendReply ..)).showEf

theorem startCompute (h : SameGuard a s) (fast : Bool) (train : Nat) (bad : List Nat) : SameGuard a (s.startCompute fast train bad) := by
  unfold State.startCompute
  extract_lets pins s1 fast s2 s3 s4 s5 dram s6
  have h1 : SameGuard a s1 := h.keep rfl
  have h3 : SameGuard a s3 := (h1.wrs _).rederive.showEf
  have h4 : SameGuard a s4 := (h3.wrs _).noted ((Noted.refl _).elogAt ..)
  have h5 : SameGuard a s5 := ite_of (fun _ => h3.noted ((Noted.refl _).pprRun bad)) fun _ => h3
  have h6 : SameGuard a s6 := h5.keep rfl
  exact ite_of (fun _ => ((h4.logEntry ..).wrs _).noted (Noted.refl _).alertEvent) fun _ => h6.wrs _

end SameGuard

/-! ## Protection (R492) -/

/-- A request that raises the level. -/
theorem State.protCheck_raises {w : Nat} (ok : s.protCheck w = (stOk, false)) : w / 65536 = 0 ∧ s.level < w % 256 ∧ w % 256 ≤ 2 := by
  unfold State.protCheck at ok
  dsimp only at ok
  split at ok
  · exact absurd ok (by decide)
  · next formed =>
    split at ok
    · next raises => exact ⟨raises.1, raises.2, by omega⟩
    · refine absurd ok (ite_of (P := (· ≠ (stOk, false))) (fun _ => ?_) fun _ => by decide)
      exact ite_of (P := (· ≠ (stOk, false))) (fun _ => by decide) fun _ => by decide

/-- A request that lowers it. -/
theorem State.protCheck_lowers {w : Nat} (ok : s.protCheck w = (stOk, true)) : w / 65536 ≠ 0 ∧ s.level ≠ 2 := by
  unfold State.protCheck at ok
  dsimp only at ok
  split at ok
  · exact absurd ok (by decide)
  · split at ok
    · exact absurd ok (by decide)
    · split at ok
      · next lowers =>
        split at ok
        · exact absurd ok (by decide)
        · next unfused => exact ⟨by omega, unfused⟩
      · exact absurd ok (by decide)

theorem State.level2_of_level (h : s.level ≠ 2) : s.fac.level2 = false :=
  Bool.eq_false_iff.2 fun fused => h (if_pos fused)

theorem State.secured_eq {k : List KeyEnt} {n : Nat} {b : Bool} (h : s.secured = (k, n, b)) :
    s.ef.keys = k ∧ s.fac.level2 = b ∧ s.level = if b then 2 else n := by
  simp only [State.secured, Prod.mk.injEq] at h
  obtain ⟨keys, level, fused⟩ := h
  exact ⟨keys, fused, by rw [State.level, fused, level]⟩

/-- The fuse of level 2 blown when that is the level asked for. -/
def State.fusedAt (s : State) (n : Nat) : State := if n = 2 then { s with fac := { s.fac with level2 := true } } else s

theorem State.fusedAt_secured (s : State) (n : Nat) :
    (s.fusedAt n).secured = (s.ef.keys, s.ef.opt.level, if n = 2 then true else s.fac.level2) := by
  unfold State.fusedAt
  split
  · rfl
  · rfl

theorem State.protRaise_eq (s : State) (n : Nat) : s.protRaise n =
    (((s.optWrite { s.ef.opt with level := n }).fusedAt n).showEf.logEntry 0x0011 5 0xFFFF (s.level + 256 * n)).writeCheckpoint := rfl

/-- A level raised. -/
theorem State.protRaise_spec {n : Nat} (low : s.level < n) (high : n ≤ 2) : let u := s.protRaise n
    u.level = n ∧ (n = 2 → u.fac.level2 = true) ∧ u.ef.keys = s.ef.keys := by
  have raised : ((s.optWrite { s.ef.opt with level := n }).fusedAt n).secured = (s.ef.keys, n, if n = 2 then true else s.fac.level2) :=
    State.fusedAt_secured _ n
  rw [State.protRaise_eq]
  generalize (s.optWrite { s.ef.opt with level := n }).fusedAt n = t at raised
  have logged := ((SameGuard.refl t).showEf.logEntry 0x0011 5 0xFFFF (s.level + 256 * n)).writeCheckpoint
  obtain ⟨keys, fused, level⟩ := State.secured_eq (logged.same.trans raised)
  refine ⟨?_, fun two => fused.trans (if_pos two), keys⟩
  rw [level]
  by_cases two : n = 2
  · rw [if_pos two, two]; rfl
  · rw [if_neg two, State.level2_of_level (s := s) (by omega)]; rfl

/-! ## A level lowered -/

theorem State.eraseProtected_secured (s : State) : s.eraseProtected.secured = ([], s.ef.opt.level, s.fac.level2) :=
  foldl_of (P := fun u : State => u.secured = ([], s.ef.opt.level, s.fac.level2)) rfl fun _ _ h => h

/-- The compute die loses its state as a lowering begins. -/
def State.lowerBegins (s : State) : State :=
  if s.pins.compute then (((s.toBypass 4).count 3).logEntry 0x0009 5 0xFFFF 3).computeLost 0 else s

theorem SameGuard.lowerBegins {a : State} (h : SameGuard a s) : SameGuard a s.lowerBegins :=
  ite_of (fun _ => (((h.toBypass 4).noted ((Noted.refl _).count 3)).logEntry ..).keep rfl) fun _ => h

/-- What follows the erasing: the record, the log and its checkpoint. -/
def State.lowerEnds (s : State) (old : Nat) : State :=
  ((s.optWrite { s.ef.opt with level := 0 }).showEf.logEntry 0x0011 5 0xFFFF old).writeCheckpoint

theorem State.lowerEnds_secured {b : Bool} {n : Nat} (h : s.secured = ([], n, b)) (old : Nat) : (s.lowerEnds old).secured = ([], 0, b) := by
  obtain ⟨keys, fused, -⟩ := State.secured_eq h
  have lowered : (s.optWrite { s.ef.opt with level := 0 }).secured = ([], 0, b) := congrArg₂ (fun k b => (k, 0, b)) keys fused
  unfold State.lowerEnds
  generalize s.optWrite { s.ef.opt with level := 0 } = t at lowered
  exact ((SameGuard.refl t).showEf.logEntry 0x0011 5 0xFFFF old).writeCheckpoint.same.trans lowered

theorem State.protLower_eq (s : State) (train : Nat) : s.protLower train =
    let t := s.logEntry 0x0011 5 0xFFFF (s.level + 65536)
    let u := t.lowerBegins.eraseProtected.lowerEnds s.level
    if t.pins.compute then u.startCompute true train [] else u := rfl

/-- The level is lowered and every key erased (R492). -/
theorem State.protLower_spec (off : s.fac.level2 = false) (train : Nat) : (s.protLower train).secured = ([], 0, false) := by
  rw [State.protLower_eq]
  have begun := ((SameGuard.refl s).logEntry 0x0011 5 0xFFFF (s.level + 65536)).lowerBegins
  dsimp only
  generalize s.logEntry 0x0011 5 0xFFFF (s.level + 65536) = t at begun ⊢
  have erased := t.lowerBegins.eraseProtected_secured
  rw [show t.lowerBegins.fac.level2 = false from (congrArg (fun x => x.2.2) begun.same).trans off] at erased
  have ended := State.lowerEnds_secured erased s.level
  generalize t.lowerBegins.eraseProtected.lowerEnds s.level = u at ended ⊢
  split
  · exact ((SameGuard.refl u).startCompute true train []).same.trans ended
  · exact ended

/-! ## The key store (R493) -/

/-- One sector of the key store erased: whether no erase has worn it out for good. -/
def State.keySector (a : Bool × State) (n : Nat) : Bool × State :=
  let s := a.2.countErase n
  if s.ef.erases.get n 0 < 100000 then (a.1, s)
  else
    let r := s.retireSector true n
    (a.1 && r.1, r.2)

/-- The four sectors of the key store erased. -/
def State.keySectors (s : State) : Bool × State := [2, 3, 4, 5].foldl State.keySector (true, s.codeWritten)

theorem State.keyStoreWrite_eq (s : State) (keys : List KeyEnt) : s.keyStoreWrite keys =
    if s.keySectors.1 then (true, { s.keySectors.2 with ef := { s.keySectors.2.ef with keys := keys, keyCopies := (true, true) } })
    else s.keySectors := by
  unfold State.keyStoreWrite State.keySectors State.keySector
  rfl

/-- A sector with an erase left is erased and counted, and so are only its own. -/
theorem State.keySector_sound {a : Bool × State} {n : Nat} (sound : a.2.ef.erases.get n 0 + 1 < 100000) :
    (State.keySector a n).1 = a.1 ∧ ∀ m, m ≠ n → (State.keySector a n).2.ef.erases.get m 0 = a.2.ef.erases.get m 0 := by
  have counted : (a.2.countErase n).ef.erases.get n 0 = a.2.ef.erases.get n 0 + 1 := KMap.get_set_same a.2.ef.erases n (a.2.ef.erases.get n 0 + 1) 0
  have goes : State.keySector a n = (a.1, a.2.countErase n) := if_pos (counted ▸ sound)
  rw [goes]
  exact ⟨rfl, fun m apart => KMap.get_set_other a.2.ef.erases apart (a.2.ef.erases.get n 0 + 1) 0 0⟩

/-- With an erase left in each of its sectors the key store is written, in both its copies. -/
theorem State.keyStoreWrite_done (sound : ∀ m ∈ [2, 3, 4, 5], s.ef.erases.get m 0 + 1 < 100000) (keys : List KeyEnt) :
    let r := s.keyStoreWrite keys
    r.1 = true ∧ r.2.ef.keys = keys ∧ r.2.ef.keyCopies = (true, true) := by
  have all (l : List Nat) (nodup : l.Nodup) (a : Bool × State) (left : ∀ m ∈ l, a.2.ef.erases.get m 0 + 1 < 100000) :
      (l.foldl State.keySector a).1 = a.1 := by
    induction l generalizing a with
    | nil => rfl
    | cons n l ih =>
      obtain ⟨fresh, nodup⟩ := List.nodup_cons.1 nodup
      obtain ⟨ok, others⟩ := State.keySector_sound (left n (.head _))
      refine (ih nodup _ fun m mem => ?_).trans ok
      rw [others m fun same => fresh (same ▸ mem)]
      exact left m (.tail _ mem)
  have kept : s.keySectors.1 = true := all [2, 3, 4, 5] (by decide) (true, s.codeWritten) sound
  rw [State.keyStoreWrite_eq, if_pos kept]
  exact ⟨rfl, rfl, rfl⟩

/-- A sector of the code array that is retired takes no key with it. -/
theorem State.retireSector_keys (s : State) (n : Nat) : (s.retireSector true n).2.ef.keys = s.ef.keys := by
  unfold State.retireSector
  extract_lets s1
  have logged : s1.ef.keys = s.ef.keys := congrArg (fun x => x.1) ((SameGuard.refl s).logEntry 0x0008 5 0xFFFF (n * 65536 + 256 * b2n (!true))).same
  rw [if_pos rfl]
  exact ite_of (P := fun x : Bool × State => x.2.ef.keys = s.ef.keys) (fun _ => logged) fun _ => logged

theorem State.keySector_keys (a : Bool × State) (n : Nat) : (State.keySector a n).2.ef.keys = a.2.ef.keys :=
  ite_of (P := fun x : Bool × State => x.2.ef.keys = a.2.ef.keys) (fun _ => rfl) fun _ => (a.2.countErase n).retireSector_keys n

/-- A write of the key store that is refused leaves its keys. -/
theorem State.keyStoreWrite_worn {keys : List KeyEnt} (worn : (s.keyStoreWrite keys).1 = false) :
    (s.keyStoreWrite keys).2.ef.keys = s.ef.keys := by
  rw [State.keyStoreWrite_eq] at worn ⊢
  split at worn
  · exact absurd (show true = false from worn) (by decide)
  · next refused =>
    have all (l : List Nat) (a : Bool × State) : (l.foldl State.keySector a).2.ef.keys = a.2.ef.keys :=
      foldl_of (P := fun x : Bool × State => x.2.ef.keys = a.2.ef.keys) rfl fun x n h => (State.keySector_keys x n).trans h
    rw [if_neg refused]
    unfold State.keySectors
    exact all [2, 3, 4, 5] (true, s.codeWritten)

/-! ## The objects that command -/

/-- The objects below 0x2000 take every value of their type. -/
theorem State.valueBar_low {i : Nat} (low : i < 0x2000) (v : List Byte) : s.valueBar i v = none := by
  unfold State.valueBar
  have here (n : Nat) (h : 0x2000 ≤ n) : i ≠ n := by omega
  simp only [here 0x2200 (by decide), here 0x2104 (by decide), here 0x4100 (by decide), here 0x4101 (by decide),
    here 0x900C (by decide), here 0x9100 (by decide), if_false, show ¬ (0x9000 ≤ i ∧ i < 0x9008) by omega,
    show ¬ (0x9101 ≤ i ∧ i < 0x9109) by omega, show ¬ (0x9109 ≤ i ∧ i < 0x9111) by omega]

/-- A value that commands. -/
theorem State.writeValue_command {v : List Byte} (ok : o.valueOk v) (low : o.index < 0x2000) (cmd : o.acc = 2 ∨ o.index = 0x1008)
    (train : Nat) : s.writeValue q o v none train = s.cmdObj q o.index v train := by
  have legal : ¬ (¬ o.valueOk v ∨ (none : Option Nat).isSome ∧ ¬ bit o.flags 0) := by simp [ok]
  rw [State.writeValue, if_neg legal, State.valueBar_low low]
  exact (if_neg (by omega)).trans ((if_neg (by omega)).trans (if_pos cmd))

theorem State.frontWrite_front {i : Nat} {f : ObjReq → Bool} (front : s.front 2 = some (q, s1)) (named : mIndex q.msg = i) (is : f q)
    (train : Nat) : s.frontWrite i f train = s1.objWriteReq q train := by
  simp only [State.frontWrite, front, if_pos (And.intro named is)]

/-- The commits that wait, all done. -/
def State.commitsDone (s : State) : State := (List.range s.dict.commits.length).foldl (fun (s : State) _ => s.commitDone) s

theorem SameGuard.commitsDone {a : State} (h : SameGuard a s) : SameGuard a s.commitsDone :=
  foldl_of (P := SameGuard a) h fun _ _ k => k.commitDone

theorem State.cmdObj_raise {v : List Byte} (ok : s.protCheck (leNat v) = (stOk, false)) (train : Nat) :
    s.cmdObj q 0x1006 v train = (s.protRaise (leNat v % 256)).answerObj q stOk 0 := by
  simp only [State.cmdObj, ok]
  rfl

theorem State.cmdObj_lower {v : List Byte} (ok : s.protCheck (leNat v) = (stOk, true)) (train : Nat) :
    s.cmdObj q 0x1006 v train = (s.commitsDone.answerObj q stOk 0).protLower train := by
  simp only [State.cmdObj, ok]
  rfl

theorem State.cmdObj_rollback {v : List Byte} (ok : s.rollbackOk (leNat v / 65536)) (train : Nat) :
    s.cmdObj q 0x1008 v train = ({ s with fac := { s.fac with rollCd := leNat v / 65536 } } : State).answerObj q stOk 0 :=
  if_pos ok

theorem State.cmdObj_import {v : List Byte} {k : KeyEnt} (ok : s.keyOf v = .ok k) (train : Nat) :
    s.cmdObj q 0x1020 v train =
      let r := s.keyStoreWrite (s.ef.keys ++ [k])
      r.2.answerObj q (if r.1 then stOk else stStoreWorn) 0 := by
  have went : s.cmdObj q 0x1020 v train = match s.keyOf v with
      | .error e => s.answerObj q e 0
      | .ok k =>
        let r := s.keyStoreWrite (s.ef.keys ++ [k])
        r.2.answerObj q (if r.1 then stOk else stStoreWorn) 0 := rfl
  rw [went, ok]

theorem State.cmdObj_delete {v : List Byte} (ok : s.keyDeleteOk (leNat v)) (train : Nat) :
    s.cmdObj q 0x1021 v train =
      let r := s.keyStoreWrite (s.ef.keys.filter fun e => e.id != leNat v)
      r.2.answerObj q (if r.1 then stOk else stStoreWorn) 0 := if_pos ok

/-- Settles O47: each object's write is the equation above for its case, on the keys and the level (R487, R492 to R494). -/
theorem protectionAndKeys : Obligations.ProtectionAndKeys := by
  intro s s1 q o v n i sound header front named own free start whole none' ok
  have total : (if mOp q.msg = 2 ∨ mOp q.msg = 3 then mTotal q.msg else 0) = v.length := by
    rw [if_pos (.inl (State.front_spec front).1), whole]
  have written (train : Nat) : s1.objWriteReq q train = s1.writeValue q o v none train := by
    obtain ⟨-, l, rfl⟩ := State.front_spec front
    exact State.objWriteReq_whole named free start whole none' train
  have command {j : Nat} (is : i = j) (low : j < 0x2000) (cmd : o.acc = 2 ∨ j = 0x1008) {f : ObjReq → Bool} (at' : f q) (train : Nat) :
      s.frontWrite j f train = s1.cmdObj q j v train := by
    have same : o.index = j := own.trans is
    rw [State.frontWrite_front front is at', written, State.writeValue_command ok (same ▸ low) (same ▸ cmd), same]
  have replies (u : State) (status : Nat) : (u.answerObj q status 0).replied q status 0 v.length [] :=
    total ▸ u.answerObj_replied header status 0
  obtain ⟨-, l, popped⟩ := State.front_spec front
  refine ⟨fun is cmd check => ?_, fun is cmd check train => ?_, fun is may => ?_, fun k is cmd key sound => ?_, fun k is cmd key worn => ?_,
    fun is cmd may sound => ?_⟩
  · obtain ⟨key, low, high⟩ := State.protCheck_raises check
    have went := command is (by decide) (.inl cmd)
      (f := fun q => decide (leNat (mData q.msg) / 65536 = 0)) (decide_eq_true key) 24
    rw [State.cmdObj_raise check] at went
    obtain ⟨level, fused, keys⟩ := State.protRaise_spec low high
    have answered := (Answered.refl (s1.protRaise (n % 256))).answerObj q stOk 0
    refine ⟨_, congrArg Host.Outcome.next went, ?_, fun two => ?_, ?_, replies _ _⟩
    · rw [State.level, answered.fac, answered.ef]
      exact level
    · rw [answered.fac]
      exact fused two
    · rw [answered.ef, keys, popped]
      rfl
  · obtain ⟨key, unfused⟩ := State.protCheck_lowers check
    have went := command is (by decide) (.inl cmd)
      (f := fun q => decide (leNat (mData q.msg) / 65536 ≠ 0)) (decide_eq_true key) train.val
    rw [State.cmdObj_lower check] at went
    have same := (SameGuard.refl s1).commitsDone.answered ((Answered.refl _).answerObj q stOk 0)
    have off := (congrArg (fun x => x.2.2) same.same).trans (State.level2_of_level unfused)
    obtain ⟨keys, fused, level⟩ := State.secured_eq (State.protLower_spec off train.val)
    exact ⟨_, congrArg Host.Outcome.next went, level, keys, fused⟩
  · have went := command is (by decide) (.inr rfl) (f := fun _ => true) rfl 24
    rw [State.cmdObj_rollback may] at went
    have answered := (Answered.refl ({ s1 with fac := { s1.fac with rollCd := n / 65536 } } : State)).answerObj q stOk 0
    exact ⟨_, congrArg Host.Outcome.next went, congrArg (fun f => f.rollCd) answered.fac, answered.ef.trans (popped ▸ rfl), replies _ _⟩
  · have went := command is (by decide) (.inl cmd) (f := fun _ => true) rfl 24
    rw [State.cmdObj_import key] at went
    obtain ⟨ok, keys, copies⟩ := State.keyStoreWrite_done (s := s1) (popped ▸ sound) (s1.ef.keys ++ [k])
    dsimp only at went
    rw [if_pos ok] at went
    have answered := (Answered.refl (s1.keyStoreWrite (s1.ef.keys ++ [k])).2).answerObj q stOk 0
    refine ⟨_, congrArg Host.Outcome.next went, ?_, ?_, replies _ _⟩
    · rw [answered.ef, keys, popped]; rfl
    · rw [answered.ef, copies]
  · have went := command is (by decide) (.inl cmd) (f := fun _ => true) rfl 24
    rw [State.cmdObj_import key] at went
    dsimp only at went
    rw [if_neg (by simp [worn])] at went
    have answered := (Answered.refl (s1.keyStoreWrite (s1.ef.keys ++ [k])).2).answerObj q stStoreWorn 0
    refine ⟨_, congrArg Host.Outcome.next went, ?_, replies _ _⟩
    rw [answered.ef, State.keyStoreWrite_worn worn, popped]
    rfl
  · have went := command is (by decide) (.inl cmd) (f := fun _ => true) rfl 24
    rw [State.cmdObj_delete may] at went
    obtain ⟨ok, keys, copies⟩ := State.keyStoreWrite_done (s := s1) (popped ▸ sound) (s1.ef.keys.filter fun e => e.id != n)
    dsimp only at went
    rw [if_pos ok] at went
    have answered := (Answered.refl (s1.keyStoreWrite (s1.ef.keys.filter fun e => e.id != n)).2).answerObj q stOk 0
    refine ⟨_, congrArg Host.Outcome.next went, ?_, ?_, replies _ _⟩
    · rw [answered.ef, keys, popped]; rfl
    · rw [answered.ef, copies]

end Sys2Proof.Machine
end

section
/-! CERTIFICATE. A scrub is not without effect on memory (O25).

A scrub that finds an uncorrectable unit records it in the error FIFO, and its row becomes a repair candidate, so that object
0x2300 is committed (R329, R338). A commit that brings the budget of the persistent store below its mark posts event 0x0040
(R448), and the event lands in the event ring, which lies in board DRAM (R467). -/

namespace Sys2Proof.Machine

variable {s : State}

/-! ## A record of the error FIFO -/

/-- The registers that show the error FIFO. -/
def fifoKeys : List Nat := (DRAM_ELOG_FILL :: (List.range 8).map DRAM_ELOG_DATA).map Fld.key

/-- Everything but the error FIFO. -/
def State.withoutFifo (s : State) : State := { s with regs := [], dram := {}, freeCtr := 0 }

theorem State.showElog_frame (s : State) : (∀ f : Fld, f.key ∉ fifoKeys → s.showElog.rg f = s.rg f) ∧
    s.showElog.withoutFifo = s.withoutFifo := by
  unfold State.showElog
  extract_lets t
  have first : (∀ f : Fld, f.key ∉ fifoKeys → t.rg f = s.rg f) ∧ t.withoutFifo = s.withoutFifo :=
    ⟨fun f apart => s.rg_wr_other (g := f) (f := DRAM_ELOG_FILL) (fun same => apart (same ▸ .head _)) _, rfl⟩
  split
  · exact first
  · refine List.foldlRecOn (motive := fun u : State => (∀ f : Fld, f.key ∉ fifoKeys → u.rg f = s.rg f) ∧ u.withoutFifo = s.withoutFifo)
      _ _ first fun u ⟨field, rest⟩ w hw => ⟨fun f apart => ?_, rest⟩
    refine (u.rg_wr_other (g := f) (f := DRAM_ELOG_DATA w) (fun same => apart (same ▸ ?_)) _).trans (field f apart)
    exact List.mem_map_of_mem (List.mem_cons_of_mem _ (List.mem_map_of_mem hw))

theorem State.elogPush_frame (s : State) (typ port : Nat) (d : DAddr) :
    (∀ f : Fld, f.key ∉ fifoKeys → (s.elogPush typ port d).rg f = s.rg f) ∧ (s.elogPush typ port d).withoutFifo = s.withoutFifo := by
  unfold State.elogPush
  extract_lets f t r dram
  have ht : t.regs = s.regs ∧ t.withoutFifo = s.withoutFifo :=
    ite_of (P := fun x : Nat × State => x.2.regs = s.regs ∧ x.2.withoutFifo = s.withoutFifo) (fun _ => ⟨rfl, rfl⟩) fun _ => ⟨rfl, rfl⟩
  clear_value t
  obtain ⟨field, rest⟩ := State.showElog_frame { t with dram := { t.dram with elog := t.dram.elog ++ [r] } }
  exact ⟨fun f apart => (field f apart).trans (State.rg_congr ht.1 f), rest.trans ht.2⟩

/-! ## A commit that posts an event -/

/-- A record placed in a sector of the data array. -/
def Eflash.place (e : Eflash) (i n : Nat) : Eflash := { e with dsec := e.dsec.set i (e.dsec.get i 0 + n) 0 }

/-- The state with another flash. -/
def State.withFlash (s : State) (e : Eflash) : State := { s with ef := e }

/-- A record that fits the open sector of a copy is placed there. -/
theorem State.placeRec_fits {second : Bool} {n i : Nat} (opened : i = if second then s.ef.dopen.2 else s.ef.dopen.1)
    (fits : s.ef.dsec.get i 0 + n ≤ 4096) : s.placeRec second n = (i, s.withFlash (s.ef.place i n)) := by
  subst opened
  unfold State.placeRec
  dsimp only
  rw [if_pos fits]
  rfl

/-- A commit that both open sectors have room for, and that leaves the budget below its mark, posts event 0x0040. -/
theorem State.commitRec_posts {index sub : Nat} {v : List Byte} (room : s.dict.budget ≠ 0) (usable : s.ef.dataGone = false)
    (apart : s.ef.dopen.2 ≠ s.ef.dopen.1) (first : s.ef.dsec.get s.ef.dopen.1 0 + (16 + ceilDiv v.length 16 * 16) ≤ 4096)
    (second : s.ef.dsec.get s.ef.dopen.2 0 + (16 + ceilDiv v.length 16 * 16) ≤ 4096)
    (low : s.dict.budget - commitUnits v.length < 20000) (unposted : s.dict.lowPosted = false) :
    ∃ u : State, u.regs = s.regs ∧ u.mem = s.mem ∧ u.fw = s.fw ∧ u.log = s.log ∧ (s.commitRec index sub v).2 =
      ((u.postEvent 0x0040 5 (s.dict.budget - commitUnits v.length)).logEntry 0x000F 5 0xFFFF 0).alertEvent := by
  obtain ⟨n, size⟩ : ∃ n, n = 16 + ceilDiv v.length 16 * 16 := ⟨_, rfl⟩
  rw [← size] at first second
  have one := State.placeRec_fits (s := s) (second := false) (i := s.ef.dopen.1) rfl first
  have two := State.placeRec_fits (s := s.withFlash (s.ef.place s.ef.dopen.1 n)) (second := true) (i := s.ef.dopen.2) rfl
    ((congrArg (· + n) (KMap.get_set_other s.ef.dsec apart (s.ef.dsec.get s.ef.dopen.1 0 + n) 0 0)).trans_le second)
  unfold State.commitRec
  rw [if_neg (by simp [room, usable])]
  simp only [recBytes, ← size, one, two]
  rw [if_pos ⟨low, Bool.eq_false_iff.1 unposted⟩]
  refine ⟨_, ?_, ?_, ?_, ?_, rfl⟩
  · rfl
  · rfl
  · rfl
  · rfl

/-- The event stands in the ring. -/
theorem State.postEvent_mem (opened : s.on HRING_EV_CTRL_EN) (free : s.evFull = false) (code src arg : Nat) :
    ∃ e, e.take 1 = [BitVec.ofNat 8 code] ∧
      (s.postEvent code src arg).mem = s.mem.store (s.rg HRING_EV_BASE_ADDR + 64 * s.rg HRING_EV_DB_TAIL) e ∧
      (s.postEvent code src arg).log = s.log := by
  unfold State.postEvent
  extract_lets -merge +onlyGivenNames seq fw1 s1 lost tail e fw2 s2 s3
  refine ⟨e, rfl, ?_⟩
  rw [if_neg (by simp [opened, free])]
  refine ite_of (P := fun u : State => u.mem = s.mem.store (s.rg HRING_EV_BASE_ADDR + 64 * tail) e ∧ u.log = s.log) (fun _ => ?_)
    fun _ => ⟨rfl, rfl⟩
  obtain ⟨p, o, raised⟩ := s3.raise_eq 0
  rw [raised]
  exact ⟨rfl, rfl⟩

/-- A log entry that the buffer takes leaves memory as it is. -/
theorem State.logEntry_mem (empty : s.log.buf = []) (code src wher arg : Nat) : (s.logEntry code src wher arg).mem = s.mem := by
  have went : s.logEntry code src wher arg = _ := (if_neg (by simp [empty])).trans (if_neg (by simp [empty]))
  rw [went]

theorem State.retirePage_mem (s : State) (pg : Nat) : (s.retirePage pg).mem = s.mem :=
  ite_of (P := fun u : State => u.mem = s.mem) (fun _ => rfl) fun _ => State.proj_books (g := State.mem) (fun _ _ _ => rfl) _

/-! ## A repair candidate of a worn store -/

/-- The persistent store has one unit of its budget left and room in its sectors, its mark is not posted, the log buffer is
empty, and the event ring is open with a free place. -/
structure NearlyWorn (s : State) : Prop where
  budget : s.dict.budget = 1
  none : s.dict.precs = []
  listed : s.objVal 0x2300 0 [] = []
  unposted : s.dict.lowPosted = false
  usable : s.ef.dataGone = false
  apart : s.ef.dopen.2 ≠ s.ef.dopen.1
  sectors : s.ef.dsec = []
  buffered : s.log.buf = []
  opened : s.on HRING_EV_CTRL_EN
  free : s.evFull = false

namespace NearlyWorn

variable {t : State}

/-- The error FIFO changed. -/
theorem fifo (h : NearlyWorn s) (field : ∀ f : Fld, f.key ∉ fifoKeys → t.rg f = s.rg f) (rest : t.withoutFifo = s.withoutFifo) :
    NearlyWorn t := by
  have dict : t.dict = s.dict := congrArg (fun x => x.dict) rest
  have ef : t.ef = s.ef := congrArg (fun x => x.ef) rest
  have log : t.log = s.log := congrArg (fun x => x.log) rest
  have full : t.evFull = s.evFull := by
    unfold State.evFull
    rw [field HRING_EV_CTRL_SIZE (by decide), field HRING_EV_DB_TAIL (by decide), field HRING_EV_DB_HEAD (by decide)]
  exact ⟨dict ▸ h.budget, dict ▸ h.none, (congrArg (fun x : Dict => x.vals.get (objKey 0x2300 0) []) dict).trans h.listed,
    dict ▸ h.unposted, ef ▸ h.usable, ef ▸ h.apart, ef ▸ h.sectors, log ▸ h.buffered,
    (State.on_congr (field HRING_EV_CTRL_EN (by decide))).trans h.opened, full.trans h.free⟩

/-- A commit of eight bytes writes event 0x0040 into the ring. -/
theorem persist_mem (h : NearlyWorn s) {v : List Byte} (len : v.length = 8) : ∃ e, e.take 1 = [0x40#8] ∧
    (s.persist 0x2300 0 v).mem = s.mem.store (s.rg HRING_EV_BASE_ADDR + 64 * s.rg HRING_EV_DB_TAIL) e := by
  unfold State.persist
  extract_lets t
  have budget : t.dict.budget = 1 := h.budget
  have sectors (i : Nat) : t.ef.dsec.get i 0 = 0 := by rw [show t.ef.dsec = [] from h.sectors]; rfl
  rw [if_neg (by rw [show t.dict.precs = [] from h.none]; exact Bool.false_ne_true)]
  obtain ⟨u, regs, mem, -, log, posted⟩ := State.commitRec_posts (s := t) (index := 0x2300) (sub := 0) (v := v)
    (by rw [budget]; decide) h.usable h.apart (by rw [sectors, len]; decide) (by rw [sectors, len]; decide)
    (by rw [budget]; omega) h.unposted
  have rg (f : Fld) : u.rg f = s.rg f := State.rg_congr regs f
  have full : u.evFull = s.evFull := by
    unfold State.evFull
    rw [rg, rg, rg]
  obtain ⟨e, head, stored, kept⟩ := u.postEvent_mem ((State.on_congr (rg _)).trans h.opened) (full.trans h.free) 0x0040 5
    (t.dict.budget - commitUnits v.length)
  refine ⟨e, head, ?_⟩
  rw [posted, show ∀ w : State, w.alertEvent.mem = w.mem from fun w => ite_of (P := fun x : State => x.mem = w.mem) (fun _ => rfl) fun _ => rfl,
    State.logEntry_mem (by rw [kept, log]; exact h.buffered), stored, mem, rg, rg]
  rfl

/-- A row that becomes a candidate writes event 0x0040 into the ring. -/
theorem candidate_mem (h : NearlyWorn s) (d : DAddr) : ∃ e, e.take 1 = [0x40#8] ∧
    (s.candidate d).mem = s.mem.store (s.rg HRING_EV_BASE_ADDR + 64 * s.rg HRING_EV_DB_TAIL) e := by
  unfold State.candidate
  extract_lets l e t
  have empty : l = [] := h.listed
  rw [if_neg (by rw [empty]; simp [chunks])]
  obtain ⟨e', head, stored⟩ := h.persist_mem (v := l ++ e) (by rw [empty]; rfl)
  refine ⟨e', head, Eq.trans ?_ stored⟩
  exact List.foldlRecOn (motive := fun u : State => u.mem = t.mem) _ _ rfl fun u hu pg _ => (u.retirePage_mem pg).trans hu

/-- The same after a new record of the error FIFO. -/
theorem logged_mem (h : NearlyWorn s) (typ port : Nat) (d : DAddr) : ∃ e, e.take 1 = [0x40#8] ∧
    ((s.elogPush typ port d).candidate d).mem = s.mem.store (s.rg HRING_EV_BASE_ADDR + 64 * s.rg HRING_EV_DB_TAIL) e := by
  obtain ⟨field, rest⟩ := s.elogPush_frame typ port d
  generalize s.elogPush typ port d = t at field rest ⊢
  have mem : t.mem = s.mem := congrArg (fun x => x.mem) rest
  obtain ⟨e, head, stored⟩ := (h.fifo field rest).candidate_mem d
  refine ⟨e, head, stored.trans ?_⟩
  rw [field HRING_EV_BASE_ADDR (by decide), field HRING_EV_DB_TAIL (by decide), mem]

end NearlyWorn

/-! ## The scrub -/

/-- The state with an uncorrectable double word at key `k`. -/
def State.broken (s : State) (k : Nat) : State := { s with ecc := s.ecc.set k 2 0 }

/-- A scrub of a good unit that finds it uncorrectable records it and makes its row a candidate. -/
theorem State.dramScrub_broken {a o : Nat} (unit : o = (a - dramBase) / 64 * 64) (inside : s.inDram a 1) (prot : s.protectedAt o)
    (good : s.ecc.get ((dramBase + o) / 8) 0 = 0) (none : s.dram.elog = []) {t : State} (broke : t = s.broken ((dramBase + o) / 8))
    (marks : t.unitMarks o 1 = [(o, 2)]) :
    s.dramScrub a 2 = (t.elogPush 0x06 0xFF (t.dAddr o)).candidate (t.dAddr o) := by
  unfold State.dramScrub
  rw [← unit]
  extract_lets _ k u
  have same : u = t := by
    rw [broke]
    show { s with ecc := s.ecc.set k (max 2 (s.ecc.get k 0)) 0 } = _
    rw [show s.ecc.get k 0 = 0 from good]
    rfl
  rw [if_neg (not_or.2 ⟨not_not_intro inside, not_not_intro prot⟩), same, marks]
  show t.unitError 0xFF 0x05 0x06 (o, 2) = _
  unfold State.unitError
  dsimp only
  rw [if_pos rfl, State.elogAt, show t.dram.elog = [] by rw [broke]; exact none]
  rfl

/-! ## The state -/

/-- The first unit of board DRAM is protected and good, the event ring is open, and the persistent store has one unit of its
budget left. -/
def scrubbedSt : State :=
  { State.reset.wrs [(DRAM_PROT_BASE_EN 0, 1), (DRAM_PROT_SIZE_UNITS 0, 1), (HRING_EV_CTRL_EN, 1),
      (HRING_EV_BASE_ADDR, eventRingAddr)] with dict := { budget := 1 } }

/-- The same, its first unit uncorrectable. -/
def brokenUnitSt : State := scrubbedSt.broken ((dramBase + 0) / 8)

theorem scrubbedSt_mayScrub : scrubbedSt.inDram dramBase 1 = true ∧ scrubbedSt.protectedAt 0 = true ∧
    scrubbedSt.unitMarks 0 1 = [] ∧ scrubbedSt.dram.elog = [] := by decide +kernel

theorem scrubbedSt_good : scrubbedSt.ecc.get ((dramBase + 0) / 8) 0 = 0 := by decide +kernel

theorem brokenUnitSt_marks : brokenUnitSt.unitMarks 0 1 = [(0, 2)] := by decide +kernel

theorem brokenUnitSt_worn : NearlyWorn brokenUnitSt where
  budget := rfl
  none := rfl
  listed := rfl
  unposted := rfl
  usable := by decide +kernel
  apart := by decide +kernel
  sectors := by decide +kernel
  buffered := by decide +kernel
  opened := by decide +kernel
  free := by decide +kernel

theorem brokenUnitSt_ring : brokenUnitSt.rg HRING_EV_BASE_ADDR + 64 * brokenUnitSt.rg HRING_EV_DB_TAIL = eventRingAddr ∧
    brokenUnitSt.mem = [] ∧ scrubbedSt.mem = [] := by decide +kernel

/-- The scrub writes the event into memory. -/
theorem scrubbedSt_scrub_mem : ∃ e, e.take 1 = [0x40#8] ∧
    (scrubbedSt.dramScrub dramBase 2).mem = KMap.store [] eventRingAddr e := by
  obtain ⟨inside, prot, -, none⟩ := scrubbedSt_mayScrub
  obtain ⟨ring, empty, -⟩ := brokenUnitSt_ring
  obtain ⟨e, head, stored⟩ := brokenUnitSt_worn.logged_mem 0x06 0xFF (brokenUnitSt.dAddr 0)
  rw [ring, empty] at stored
  have scrub := State.dramScrub_broken (o := 0) (by decide) inside prot scrubbedSt_good none rfl brokenUnitSt_marks
  exact ⟨e, head, (congrArg State.mem scrub).trans stored⟩

/-- Refutes O25: a scrub that finds an uncorrectable unit makes its row a repair candidate, whose commit posts event 0x0040
into the event ring, so that memory is not left as it was. -/
theorem not_dramUpkeep : ¬ Obligations.DramUpkeep := by
  intro h
  obtain ⟨scrub, -⟩ := h scrubbedSt
  obtain ⟨inside, prot, good, none⟩ := scrubbedSt_mayScrub
  obtain ⟨t, scrubbed, -, same, -⟩ := scrub 0x1000000000 inside prot good none
  obtain ⟨e, head, stored⟩ := scrubbedSt_scrub_mem
  have there : scrubbedSt.dramScrub dramBase 2 = t := Host.Outcome.next.inj scrubbed
  obtain ⟨-, -, empty⟩ := brokenUnitSt_ring
  rw [there, same, empty] at stored
  cases e with
  | nil => cases head
  | cons b l =>
    have at0 := congrArg (fun m : KMap Byte => m.get eventRingAddr 0#8) stored
    rw [show b = 0x40#8 from List.head_eq_of_cons_eq head] at at0
    have zero : KMap.get [] eventRingAddr 0#8 = 0x40#8 := at0.trans (KMap.get_store_inside (0x40#8 :: l) [] eventRingAddr 0 (Nat.succ_pos _))
    exact absurd zero (by decide)

end Sys2Proof.Machine
end

section
/-! CERTIFICATE. DRAM requests, protected regions and the error FIFO (O24, R23, R328, R329, R333, R339). -/

namespace Sys2Proof.Machine

variable {s : State}

/-! ## Requests -/

/-- An address error is counted and leaves memory (R23). -/
theorem State.addrError_spec (s : State) : s.addrError.rg INT_ADDR_ERR = (s.rg INT_ADDR_ERR + 1) % 2 ^ 64 ∧ s.addrError.mem = s.mem :=
  ⟨(State.rg_flag (g := INT_ADDR_ERR) (by decide) (s.bump INT_ADDR_ERR) INT_EVENT_EN_ACCESS 11).trans (s.rg_bump_same INT_ADDR_ERR 1),
    (AddrErred.refl s).addrError.mem⟩

/-- A request that opens no row does not wait for one. -/
theorem State.rowWaits_closed (s : State) (port : Nat) (rt : Bool) : s.rowWaits port rt false = false := rfl

/-- A request of a low class that would open a row waits while a port is in panic (R333). -/
theorem State.rowWaits_panic {port : Nat} {rt : Bool} (low : lowClass port rt) (panic : s.anyPanic) : s.rowWaits port rt true := by
  simp [State.rowWaits, low, panic]

/-- A request that the starvation guard did not grant, that opens no row and meets no link error, finds the state as it is. -/
theorem State.granted (s : State) (port a : Nat) (rt : Bool) :
    State.linkError (if false = true then State.activate (s.starveGrant port rt false) port rt a else s.starveGrant port rt false)
      port a 0 = s := rfl

/-- A read inside mapped memory whose units bear no mark (R329). -/
theorem State.dramReadReq_inside {port a n : Nat} {rt : Bool} (en : s.on DRAM_CTRL_EN) (inside : s.inDram a n)
    (clean : s.unitMarks (a - dramBase) n = []) :
    s.dramReadReq port a n rt false false 0 = { s.bump DRAM_RD_BYTES n with reply := .bytes (s.ld a n) } := by
  unfold State.dramReadReq
  rw [if_neg (by simp [en, State.rowWaits_closed]), if_neg (not_not_intro inside)]
  extract_lets u v w r x
  have read : r = ((s.ld a n, false), s.bump DRAM_RD_BYTES n) := State.dramRead_unmarked clean port
  rw [if_neg (fun h => absurd h.1 (by decide : (0 : Nat) ≠ 3)), show x = s.bump DRAM_RD_BYTES n from congrArg Prod.snd read, read]
  rfl

/-- A write over units that bear no mark. -/
theorem State.dramWrite_unmarked {a : Nat} {b : List Byte} (clean : s.unitMarks (a - dramBase) b.length = []) (port : Nat) :
    (s.dramWrite port a b).mem = (s.st a b).mem ∧
      (s.dramWrite port a b).rg DRAM_WR_BYTES = (s.rg DRAM_WR_BYTES + b.length) % 2 ^ 64 := by
  unfold State.dramWrite
  dsimp only
  rw [clean]
  exact ⟨rfl, State.rg_bump_same _ DRAM_WR_BYTES b.length⟩

/-- A write inside mapped memory. -/
theorem State.dramWriteReq_inside {port a : Nat} {b : List Byte} {rt : Bool} (en : s.on DRAM_CTRL_EN) (inside : s.inDram a b.length) :
    s.dramWriteReq port a b rt false false 0 = s.dramWrite port a b := by
  unfold State.dramWriteReq
  rw [if_neg (by simp [en, State.rowWaits_closed]), if_neg (not_not_intro inside)]
  exact if_neg (fun h => absurd h.1 (by decide))

/-- A read outside mapped memory answers zeros (R23). -/
theorem State.dramReadReq_outside {port a n : Nat} {rt : Bool} (en : s.on DRAM_CTRL_EN) (outside : ¬ s.inDram a n) :
    s.dramReadReq port a n rt false false 0 = { s.addrError with reply := .bytes (zeros n) } := by
  unfold State.dramReadReq
  rw [if_neg (by simp [en, State.rowWaits_closed]), if_pos outside]

theorem State.dramWriteReq_outside {port a : Nat} {b : List Byte} {rt : Bool} (en : s.on DRAM_CTRL_EN)
    (outside : ¬ s.inDram a b.length) : s.dramWriteReq port a b rt false false 0 = s.addrError := by
  unfold State.dramWriteReq
  rw [if_neg (by simp [en, State.rowWaits_closed]), if_pos outside]

/-- A request that waits changes nothing. -/
theorem State.dramReadReq_waits {port a n link : Nat} {rt opens starved : Bool} (waits : s.rowWaits port rt opens) :
    s.dramReadReq port a n rt opens starved link = s := if_pos (.inr waits)

theorem State.dramWriteReq_waits {port a link : Nat} {b : List Byte} {rt opens starved : Bool} (waits : s.rowWaits port rt opens) :
    s.dramWriteReq port a b rt opens starved link = s := if_pos (.inr waits)

/-! ## Protected regions -/

/-- A legal BASE word is in force (R328). -/
theorem State.protWrite_base {i w : Nat} (idle : ¬ s.on TIER_CTRL_EN)
    (ok : (s.wrs [(DRAM_PROT_BASE_EN i, bits w 31 1), (DRAM_PROT_BASE_UNIT i, w)]).protOk) :
    s.protWrite i false w = s.wrs [(DRAM_PROT_BASE_EN i, bits w 31 1), (DRAM_PROT_BASE_UNIT i, w)] :=
  if_neg (not_or.2 ⟨idle, not_not_intro ok⟩)

/-- One that is refused sets ERR alone. -/
theorem State.protWrite_refused {i w : Nat} (bad : s.on TIER_CTRL_EN ∨
      ¬ (s.wrs [(DRAM_PROT_BASE_EN i, bits w 31 1), (DRAM_PROT_BASE_UNIT i, w)]).protOk) :
    s.protWrite i false w = s.wr DRAM_CTRL_ERR 1 := if_pos bad

/-! ## The error FIFO -/

/-- The fill level is shown. -/
theorem State.showElog_fill (s : State) : s.showElog.rg DRAM_ELOG_FILL = s.dram.elog.length % 2 ^ 6 := by
  have first : (s.wr DRAM_ELOG_FILL s.dram.elog.length).rg DRAM_ELOG_FILL = s.dram.elog.length % 2 ^ 6 := s.rg_wr_same DRAM_ELOG_FILL _
  unfold State.showElog
  extract_lets t
  split
  · exact first
  · refine List.foldlRecOn (motive := fun u : State => u.rg DRAM_ELOG_FILL = s.dram.elog.length % 2 ^ 6) _ _ first fun u hu w hw => ?_
    have below : w < 8 := List.mem_range.1 hw
    exact (u.rg_wr_other (g := DRAM_ELOG_FILL) (f := DRAM_ELOG_DATA w)
      ((by decide : ∀ w < 8, DRAM_ELOG_FILL.key ≠ (DRAM_ELOG_DATA w).key) w below) _).trans hu

theorem State.showElog_dram (s : State) : s.showElog.dram = s.dram := by
  unfold State.showElog
  extract_lets t
  split
  · rfl
  · exact List.foldlRecOn (motive := fun u : State => u.dram = s.dram) _ _ rfl fun u hu w _ => hu

/-- A log entry that finds the buffer empty is the one in it. -/
theorem State.logEntry_first (empty : s.log.buf = []) (code src wher arg : Nat) :
    (s.logEntry code src wher arg).mem = s.mem ∧
      (s.logEntry code src wher arg).log.buf.map (fun e => (e.code, e.src, e.wher)) = [(code, src, wher)] := by
  have went : s.logEntry code src wher arg = _ := (if_neg (by simp [empty])).trans (if_neg (by simp [empty]))
  rw [went, empty]
  exact ⟨rfl, rfl⟩

/-- The oldest record goes to the log (R339). -/
theorem State.elogPop_spec {r : ElogRec} {l : List ElogRec} (first : s.dram.elog = r :: l) (empty : s.log.buf = []) :
    s.elogPop.dram.elog = l ∧ s.elogPop.rg DRAM_ELOG_FILL = l.length % 2 ^ 6 ∧ s.elogPop.mem = s.mem ∧
      s.elogPop.log.buf.map (fun e => (e.code, e.src, e.wher)) = [(0x0006, 2, r.ch * 256 + r.rb)] := by
  obtain ⟨mem, logged⟩ := State.logEntry_first empty 0x0006 2 (r.ch * 256 + r.rb) (r.typ * 2 ^ 24 + r.row % 65536)
  unfold State.elogPop
  rw [first]
  dsimp only
  generalize s.logEntry 0x0006 2 (r.ch * 256 + r.rb) (r.typ * 2 ^ 24 + r.row % 65536) = t at mem logged ⊢
  have elog : ({ t with dram := { t.dram with elog := l } } : State).dram.elog = l := rfl
  have mem' : ({ t with dram := { t.dram with elog := l } } : State).mem = s.mem := mem
  have log' : ({ t with dram := { t.dram with elog := l } } : State).log = t.log := rfl
  generalize ({ t with dram := { t.dram with elog := l } } : State) = u at elog mem' log' ⊢
  obtain ⟨-, rest⟩ := u.showElog_frame
  refine ⟨(congrArg (fun x => x.elog) u.showElog_dram).trans elog, u.showElog_fill.trans (by rw [elog]),
    (congrArg (fun x => x.mem) rest :).trans mem', ?_⟩
  rw [show u.showElog.log = u.log from congrArg (fun x => x.log) rest, log', logged]

/-- Settles O24: per request inside or outside mapped memory, per write of a region's word, and the oldest error record. -/
theorem dramRequests : Obligations.DramRequests := by
  refine ⟨fun s port a rt en => ⟨fun n inside clean => ?_, fun b inside clean => ?_, fun n outside => ?_, fun b outside => ?_,
    fun low panic n b starved link => ?_⟩, fun s => ⟨fun i w => ?_, fun r l first empty => ?_⟩⟩
  · refine ⟨_, congrArg Host.Outcome.next (State.dramReadReq_inside en inside clean), rfl, rfl, ?_, ?_⟩
    · exact s.rg_bump_same DRAM_RD_BYTES n.toNat
    · exact State.onlyRegs_wr (s.onlyRegs_refl _) (List.mem_singleton.2 rfl) _
  · obtain ⟨mem, bytes⟩ := State.dramWrite_unmarked clean port.val
    refine ⟨_, congrArg Host.Outcome.next (State.dramWriteReq_inside en inside), ?_, bytes, fun k out => ?_⟩
    · exact (congrArg (fun m => KMap.bytes m a.toNat b.length) mem).trans (s.ld_st a.toNat b)
    · rw [mem]
      exact s.st_outside a.toNat b k out
  · obtain ⟨count, mem⟩ := s.addrError_spec
    exact ⟨_, congrArg Host.Outcome.next (State.dramReadReq_outside en outside), rfl, count, mem⟩
  · exact ⟨_, congrArg Host.Outcome.next (State.dramWriteReq_outside en outside), s.addrError_spec⟩
  · have waits := State.rowWaits_panic low panic
    exact ⟨congrArg Host.Outcome.next (State.dramReadReq_waits waits), congrArg Host.Outcome.next (State.dramWriteReq_waits waits)⟩
  · intro s'
    refine ⟨fun idle ok => ⟨s', congrArg Host.Outcome.next (State.protWrite_base idle ok), ?_, ?_, ?_⟩,
      fun bad => ⟨_, congrArg Host.Outcome.next (State.protWrite_refused bad), ?_, ?_⟩⟩
    · exact (State.rg_wrs_of_mem (by exact (by decide : [31, 0].Nodup)) (.head _) s).trans (Nat.mod_eq_of_lt (Nat.mod_lt _ (by decide)))
    · exact State.rg_wrs_of_mem (by exact (by decide : [31, 0].Nodup)) (.tail _ (.head _)) s
    · exact s.onlyRegs_wrs [(DRAM_PROT_BASE_EN i.val, bits w.toNat 31 1), (DRAM_PROT_BASE_UNIT i.val, w.toNat)]
    · exact s.on_wr_one (f := DRAM_CTRL_ERR) rfl
    · exact State.onlyRegs_wr (s.onlyRegs_refl _) (List.mem_singleton.2 rfl) _
  · exact ⟨_, rfl, State.elogPop_spec first empty⟩

end Sys2Proof.Machine
end

section
/-! CERTIFICATE. Writes of a vision port, of the multiplexer and of the audio clock (O35, R367, R386, R391). -/

namespace Sys2Proof.Machine

variable {s : State}

/-! ## Several fields of one word -/

/-- Fields in different places of one word each take their own bits. -/
theorem State.rg_takeFields_of_mem {l : List Fld} (apart : (l.map Fld.key).Nodup) {f : Fld} (h : f ∈ l) (s : State) (w : Nat) :
    (s.takeFields w l).rg f = f.take (s.rg f) (w / 2 ^ f.lo % 2 ^ f.w) % 2 ^ f.w := by
  induction l generalizing s with
  | nil => exact absurd h List.not_mem_nil
  | cons g l ih =>
    obtain ⟨fresh, apart⟩ := List.nodup_cons.1 apart
    rcases List.mem_cons.1 h with rfl | inside
    · refine (State.rg_takeFields_other (fun g' hg same => fresh (same ▸ List.mem_map_of_mem hg)) _ w).trans (s.rg_wr_same f _)
    · refine (ih apart inside (s.wr g _)).trans ?_
      rw [s.rg_wr_other (fun same => fresh (same ▸ List.mem_map_of_mem inside))]

theorem State.onlyRegs_takeFields (s : State) (w : Nat) (l : List Fld) : s.onlyRegs (s.takeFields w l) (l.map Fld.key) :=
  List.foldlRecOn (motive := fun u : State => s.onlyRegs u (l.map Fld.key)) _ _ (s.onlyRegs_refl _)
    fun _ h _ hf => State.onlyRegs_wr h (List.mem_map_of_mem hf) _

/-- A field that any value is legal for takes the bits at its place. -/
theorem Fld.take_any {f : Fld} (any : f.legal = .any) (old v : Nat) : f.take old v % 2 ^ f.w = v % 2 ^ f.w := by
  unfold Fld.take
  rw [any]
  exact (congrArg (· % 2 ^ f.w) (if_pos rfl)).trans (Nat.mod_mod _ _)

/-- Such a field of a word written reads the bits of the word. -/
theorem State.rg_takeFields_any {l : List Fld} (apart : (l.map Fld.key).Nodup) {f : Fld} (h : f ∈ l) (any : f.legal = .any)
    (s : State) (w : Nat) : (s.takeFields w l).rg f = bits w f.lo f.w := by
  rw [State.rg_takeFields_of_mem apart h, Fld.take_any any, Nat.mod_mod]
  rfl

/-! ## Vision ports -/

/-- The fields of a configuration write of a vision port. -/
def vinFields (p : Nat) (size : Bool) : List Fld :=
  if size then [VIN_PORT_SIZE_HEIGHT p, VIN_PORT_SIZE_WIDTH p] else vinCtrlFields p

theorem State.vinPortWrite_eq (s : State) (p : Nat) (size : Bool) (w : Nat) : s.vinPortWrite p size w =
    if ¬ s.on (VIN_PORT_CTRL_EN p) ∧ (s.vinWrite p w (vinFields p size)).on (VIN_PORT_CTRL_EN p)
    then (s.vinWrite p w (vinFields p size)).onCtx p fun c => { c with next := 0 } else s.vinWrite p w (vinFields p size) := by
  cases size <;> rfl

/-- A legal write of a port is in force; a port that it enables starts at frame 0. -/
theorem State.vinPortWrite_legal {p w : Nat} {size : Bool} (legal : (s.takeFields w (vinFields p size)).vinLegal p) :
    (s.vinPortWrite p size w).regs = (s.takeFields w (vinFields p size)).regs ∧ (s.vinPortWrite p size w).mem = s.mem ∧
      (¬ s.on (VIN_PORT_CTRL_EN p) → (s.vinPortWrite p size w).on (VIN_PORT_CTRL_EN p) → ((s.vinPortWrite p size w).vctx p).next = 0) := by
  obtain ⟨-, mem, -⟩ := s.onlyRegs_takeFields w (vinFields p size)
  rw [State.vinPortWrite_eq, show s.vinWrite p w (vinFields p size) = s.takeFields w (vinFields p size) from if_pos legal]
  generalize s.takeFields w (vinFields p size) = t at legal mem ⊢
  by_cases starts : ¬ s.on (VIN_PORT_CTRL_EN p) ∧ t.on (VIN_PORT_CTRL_EN p)
  · rw [if_pos starts]
    exact ⟨rfl, mem, fun _ _ => congrArg VCtx.next (KMap.get_set_same ..)⟩
  · rw [if_neg starts]
    exact ⟨rfl, mem, fun was now => absurd ⟨was, now⟩ starts⟩

/-- An illegal one is discarded with ERR. -/
theorem State.vinPortWrite_illegal {p w : Nat} {size : Bool} (illegal : ¬ (s.takeFields w (vinFields p size)).vinLegal p) :
    s.vinPortWrite p size w = s.wr (VIN_PORT_STATUS_ERR p) 1 := by
  rw [State.vinPortWrite_eq, show s.vinWrite p w (vinFields p size) = s.wr (VIN_PORT_STATUS_ERR p) 1 from if_neg illegal]
  have apart : (VIN_PORT_CTRL_EN p).key ≠ (VIN_PORT_STATUS_ERR p).key := by
    simp only [VIN_PORT_CTRL_EN, VIN_PORT_STATUS_ERR, Fld.key]
    omega
  exact if_neg fun ⟨was, now⟩ => was ((State.on_congr (s.rg_wr_other apart 1)).symm.trans now)

/-! ## The multiplexer -/

/-- The pixel rates of the enabled ports together. -/
def State.muxSum (s : State) : Nat :=
  ((List.range 4).filter fun p => s.on (VIN_PORT_CTRL_EN p)).foldl (fun a p => a + s.rg (VIN_PORT_RATE_MPIX p)) 0

/-- A write of the multiplexer that does not clear ERR and does not ask for the unit. -/
theorem State.vinMux_eq {w : Nat} (keep : bit w 30 = false) (plain : bit w 29 = false) : s.vinMux w =
    if bit w 31 ∧ decide (190 < s.muxSum) then s.wr VIN_MUX_ERR 1 else s.takeFields w [VIN_MUX_EN, VIN_MUX_UNIT, VIN_MUX_STRIPE] := by
  unfold State.vinMux
  rw [keep, plain]
  rfl

/-! ## The audio clock -/

theorem State.audClkWrite_eq {w : Nat} (keep : bit w 15 = false) (idle : ¬ s.on AUD_CLK_EN) :
    s.audClkWrite w = if s.audLegal w then s.takeFields w audClkFields else s.wr AUD_CLK_ERR 1 := by
  have bad : s.audClkBad w = !s.audLegal w := if_neg idle
  unfold State.audClkWrite
  rw [keep]
  show (if s.audClkBad w then s.wr AUD_CLK_ERR 1 else s.takeFields w audClkFields) = _
  rw [bad]
  cases s.audLegal w <;> rfl

/-- A legal number of slots is taken. -/
theorem State.takeFields_slots {w : Nat} (legal : s.audLegal w) : (s.takeFields w audClkFields).rg AUD_CLK_SLOTS = bits w 16 3 := by
  simp only [State.audLegal, Bool.and_eq_true, decide_eq_true_eq] at legal
  obtain ⟨⟨⟨slots, -⟩, -⟩, -⟩ := legal
  have low : bits w 16 3 % 2 ^ 3 = bits w 16 3 := Nat.mod_mod ..
  rw [State.rg_takeFields_of_mem (by decide) (by decide)]
  show AUD_CLK_SLOTS.take _ (bits w 16 3) % 2 ^ 3 = _
  have ok : (Legal.range 1 5).ok (bits w 16 3) = true := by simpa [Legal.ok] using slots
  have taken (old : Nat) : AUD_CLK_SLOTS.take old (bits w 16 3) = bits w 16 3 % 2 ^ 3 :=
    if_pos ((congrArg (Legal.range 1 5).ok low).trans ok)
  rw [taken, low, low]

/-- Settles O35: of each word a legal write and one that is discarded. -/
theorem portSettings : Obligations.PortSettings := by
  intro s w
  refine ⟨fun p size s' hs' => ?_, fun sum hsum keep plain => ?_, fun keep idle => ?_⟩
  · have same : s' = s.takeFields w.toNat (vinFields p.val size) := by rw [hs']; cases size <;> rfl
    subst same
    refine ⟨fun legal => ⟨_, rfl, State.vinPortWrite_legal legal⟩,
      fun illegal => ⟨_, congrArg Host.Outcome.next (State.vinPortWrite_illegal illegal), s.on_wr_one rfl, ?_⟩⟩
    exact State.onlyRegs_wr (s.onlyRegs_refl _) (List.mem_singleton.2 rfl) 1
  · have mux := State.vinMux_eq (s := s) keep plain
    rw [show s.muxSum = sum from hsum.symm] at mux
    refine ⟨fun fits => ⟨_, congrArg Host.Outcome.next (mux.trans (if_neg ?_)), ?_, ?_, ?_⟩,
      fun en above => ⟨_, congrArg Host.Outcome.next (mux.trans (if_pos ⟨en, decide_eq_true above⟩)), s.on_wr_one rfl, ?_⟩⟩
    · simp only [decide_eq_true_eq, not_and]
      intro en
      rcases fits with off | low
      · exact absurd en (by rw [off]; decide)
      · omega
    · exact State.rg_takeFields_any (by decide) (.head _) rfl s w.toNat
    · rw [State.on, State.rg_takeFields_any (by decide) (.tail _ (.head _)) rfl s w.toNat]
      exact plain
    · exact s.onlyRegs_takeFields w.toNat [VIN_MUX_EN, VIN_MUX_UNIT, VIN_MUX_STRIPE]
    · exact State.onlyRegs_wr (s.onlyRegs_refl _) (List.mem_singleton.2 rfl) 1
  · have clk := State.audClkWrite_eq keep idle
    refine ⟨fun legal => ⟨_, congrArg Host.Outcome.next (clk.trans (if_pos legal)), ?_, ?_, ?_, ?_, s.onlyRegs_takeFields ..⟩,
      fun illegal => ⟨_, congrArg Host.Outcome.next (clk.trans (if_neg illegal)), s.on_wr_one rfl, ?_⟩⟩
    · exact State.rg_takeFields_any (by decide) (by decide) rfl s w.toNat
    · exact State.takeFields_slots legal
    · exact State.rg_takeFields_any (by decide) (by decide) rfl s w.toNat
    · exact State.rg_takeFields_any (by decide) (by decide) rfl s w.toNat
    · exact State.onlyRegs_wr (s.onlyRegs_refl _) (List.mem_singleton.2 rfl) 1

end Sys2Proof.Machine
end

section
/-! CERTIFICATE. The causeway, the links, frames received and the member table (O38, R404 to R408, R412, R425, R426). -/

namespace Sys2Proof.Machine

variable {s : State}

/-! ## The causeway -/

/-- Whether the relays leave bypass. -/
theorem State.leaveBypass_leaves (h : s.mayLeave) : s.leaveBypass = (s.wr RING_CAUSEWAY_BYPASS 0).emit (.relay false) := if_pos h

theorem State.leaveBypass_stays (h : ¬ s.mayLeave) : s.leaveBypass = s := if_neg h

theorem State.onlyRegs_leaveBypass {a s : State} {l : List Nat} (h : a.onlyRegs s l) (mem : RING_CAUSEWAY_BYPASS.key ∈ l) :
    a.onlyRegs s.leaveBypass l :=
  ite_of (P := fun u => a.onlyRegs u l) (fun _ => State.onlyRegs_wr h mem 0) fun _ => h

theorem State.rg_leaveBypass_other {f : Fld} (apart : f.key ≠ RING_CAUSEWAY_BYPASS.key) (s : State) : s.leaveBypass.rg f = s.rg f :=
  ite_of (P := fun u : State => u.rg f = s.rg f) (fun _ => s.rg_wr_other apart 0) fun _ => rfl

/-- The fields that a cause of R425 writes. -/
def bypassWrites (cause : Nat) : List (Fld × Nat) :=
  [(RING_CAUSEWAY_BYPASS, 1), (RING_CAUSEWAY_CAUSE, cause), (RING_STATUS_LINK_A, 0), (RING_STATUS_LINK_B, 0),
    (RING_STATUS_SPD_A, 0), (RING_STATUS_SPD_B, 0), (RING_STATUS_CAP, 0), (RING_STATUS_CLOSED, 0)]

/-- A joined module goes to bypass; one in bypass stays as it is. -/
theorem State.toBypass_joined (joined : ¬ s.on RING_CAUSEWAY_BYPASS) (cause : Nat) :
    s.toBypass cause = (s.wrs (bypassWrites cause)).emit (.relay true) := if_neg joined

theorem State.toBypass_bypassed (bypassed : s.on RING_CAUSEWAY_BYPASS) (cause : Nat) : s.toBypass cause = s := if_pos bypassed

/-- A field that a cause of R425 writes. -/
theorem State.rg_bypassWrites {cause v : Nat} {f : Fld} (h : (f, v) ∈ bypassWrites cause) (s : State) :
    (s.wrs (bypassWrites cause)).rg f = v % 2 ^ f.w :=
  State.rg_wrs_of_apart (l := bypassWrites cause) (by exact (by decide : ((bypassWrites 0).map fun q => q.1.key).Nodup)) h s

/-- The watchdog's cause (R425). -/
theorem State.watchdog_spec (s : State) : (s.toBypass 8).on RING_CAUSEWAY_BYPASS ∧ (s.toBypass 8).ring = s.ring ∧
    (s.toBypass 8).mem = s.mem ∧
    (¬ s.on RING_CAUSEWAY_BYPASS → (s.toBypass 8).rg RING_CAUSEWAY_CAUSE = 8 ∧ (s.toBypass 8).on RING_STATUS_LINK_A = false ∧
      (s.toBypass 8).on RING_STATUS_LINK_B = false) ∧
    (s.on RING_CAUSEWAY_BYPASS → (s.toBypass 8).regs = s.regs) := by
  by_cases bypassed : s.on RING_CAUSEWAY_BYPASS
  · rw [State.toBypass_bypassed bypassed]
    exact ⟨bypassed, rfl, rfl, fun joined => absurd bypassed joined, fun _ => rfl⟩
  · have written {f : Fld} {v : Nat} (h : (f, v) ∈ bypassWrites 8) : (s.toBypass 8).rg f = v % 2 ^ f.w :=
      (congrArg (State.rg · f) (State.toBypass_joined bypassed 8)).trans (State.rg_bypassWrites h s)
    have isOn {f : Fld} {v : Nat} (h : (f, v) ∈ bypassWrites 8) : (s.toBypass 8).on f = (v % 2 ^ f.w == 1) :=
      congrArg (· == 1) (written h)
    refine ⟨isOn (f := RING_CAUSEWAY_BYPASS) (v := 1) (by decide), ?_, ?_, fun _ => ⟨written (f := RING_CAUSEWAY_CAUSE) (v := 8) (by decide),
      isOn (f := RING_STATUS_LINK_A) (v := 0) (by decide), isOn (f := RING_STATUS_LINK_B) (v := 0) (by decide)⟩,
      fun now => absurd now bypassed⟩
    · rw [State.toBypass_joined bypassed]
      exact s.wrs_ring (bypassWrites 8)
    · rw [State.toBypass_joined bypassed]
      exact s.wrs_mem (bypassWrites 8)

/-! ## Links -/

/-- The fields of a link in `RING.STATUS`, and its capacity, each in its own place. -/
theorem link_apart : ∀ p < 2, (linkFld p).key ≠ (spdFld p).key ∧ (linkFld p).key ≠ RING_STATUS_CAP.key ∧
    (spdFld p).key ≠ RING_STATUS_CAP.key ∧ (linkFld p).key ≠ RING_STATUS_CLOSED.key ∧ (spdFld p).key ≠ RING_STATUS_CLOSED.key ∧
    (linkFld p).w = 1 ∧ (spdFld p).w = 2 := by decide

/-- A link and its speed set, and the capacity that follows. -/
theorem State.setLink_spec {p : Nat} (port : p < 2) (s : State) (up spd cap : Nat) :
    ((s.wrs [(linkFld p, up), (spdFld p, spd)]).wr RING_STATUS_CAP cap).rg (linkFld p) = up % 2 ∧
      ((s.wrs [(linkFld p, up), (spdFld p, spd)]).wr RING_STATUS_CAP cap).rg (spdFld p) = spd % 4 ∧
      s.onlyRegs ((s.wrs [(linkFld p, up), (spdFld p, spd)]).wr RING_STATUS_CAP cap)
        [(linkFld p).key, (spdFld p).key, RING_STATUS_CAP.key] := by
  obtain ⟨apart, linkCap, spdCap, -, -, linkW, spdW⟩ := link_apart p port
  have link : (s.wrs [(linkFld p, up), (spdFld p, spd)]).rg (linkFld p) = up % 2 ^ (linkFld p).w :=
    s.rg_wrs_head up _ (by simpa using apart)
  have speed : (s.wrs [(linkFld p, up), (spdFld p, spd)]).rg (spdFld p) = spd % 2 ^ (spdFld p).w := State.rg_wr_same ..
  rw [linkW] at link
  rw [spdW] at speed
  refine ⟨(State.rg_wr_other _ linkCap cap).trans link, (State.rg_wr_other _ spdCap cap).trans speed, ?_⟩
  have two : s.onlyRegs (s.wrs [(linkFld p, up), (spdFld p, spd)]) [(linkFld p).key, (spdFld p).key, RING_STATUS_CAP.key] :=
    State.onlyRegs_wr (State.onlyRegs_wr (s.onlyRegs_refl _) (.head _) up) (.tail _ (.head _)) spd
  exact State.onlyRegs_wr two (.tail _ (.tail _ (.head _))) cap

/-- Posting an event advances its number (R467). -/
theorem State.postEvent_eseq (s : State) (code src arg : Nat) (data : List Byte) (stamp : Option (List Byte)) :
    (s.postEvent code src arg data stamp).fw.eseq = (s.fw.eseq + 1) % 2 ^ 32 := by
  unfold State.postEvent
  extract_lets seq _ lost _ tail e s2 s3
  refine ite_of (P := fun u : State => u.fw.eseq = (s.fw.eseq + 1) % 2 ^ 32) (fun _ => rfl) fun _ =>
    ite_of (P := fun u : State => u.fw.eseq = (s.fw.eseq + 1) % 2 ^ 32) (fun _ => ?_) fun _ => rfl
  obtain ⟨p, o, raised⟩ := s3.raise_eq 0
  rw [raised]
  rfl

/-- A field of the ring block is none of the event ring's. -/
theorem State.rg_postEvent_link {p : Nat} (port : p < 2) (s : State) (code src arg : Nat) (data : List Byte) :
    (s.postEvent code src arg data).rg (spdFld p) = s.rg (spdFld p) :=
  ((Logged.refl s).postEvent code src arg data).field _ ((by decide : ∀ p < 2, (spdFld p).key ∉ logKeys) p port)

/-! ## Frames -/

/-- A good frame for the module alone is counted and handed to it (R404, R407). -/
theorem State.ringFrame_delivered {p : Nat} {f : List Byte} (up : s.linkOn p) (short : f.length ≤ 2044) (mine : fDst f = s.mac)
    (other : fSrc f ≠ s.mac) (plain : isTile 4 f = false) (noPtp : fType f ≠ 0x88F7) (apart : RING_MAC.key ≠ (RING_PORT_RX p).key) :
    s.ringFrame p f true = (s.bump (RING_PORT_RX p)).deliver p f := by
  have mac : (s.bump (RING_PORT_RX p)).mac = s.mac := s.rg_wr_other apart _
  unfold State.ringFrame
  rw [if_neg (not_not_intro up)]
  dsimp only
  rw [if_neg (by omega)]
  generalize s.bump (RING_PORT_RX p) = t at mac ⊢
  rw [if_pos rfl, plain, beq_eq_false_iff_ne.2 (mac ▸ other), if_neg (by simp), if_neg noPtp, mine, mac]
  simp

/-- A frame too long is only counted, as damaged (R404). -/
theorem State.ringFrame_long {p : Nat} {f : List Byte} (up : s.linkOn p) (long : 2044 < f.length) (fcs : Bool) :
    s.ringFrame p f fcs = (s.bump (RING_PORT_RX p)).bump (RING_PORT_FCS p) := by
  unfold State.ringFrame
  rw [if_neg (not_not_intro up)]
  exact if_pos long

/-! ## Members -/

/-- MEMBERS and DUPIDX follow the table; windows may close. No more. -/
theorem State.members_frame (s : State) : s.members.ring = s.ring ∧ s.members.mem = s.mem := by
  unfold State.members
  extract_lets m t
  refine List.foldlRecOn (motive := fun u : State => u.ring = s.ring ∧ u.mem = s.mem) _ _ ⟨rfl, rfl⟩ fun u hu w _ => ?_
  exact ite_of (P := fun v : State => v.ring = s.ring ∧ v.mem = s.mem) (fun _ => hu) fun _ => hu

/-- The module's own beacon closes the ring (R408). -/
theorem State.beacon_own {r : RxFrame} (good : tileCrcOk r.bytes) (mine : fSrc r.bytes = s.mac) :
    s.beacon r = ({ s with ring := { s.ring with ownSeen := true } } : State).wr RING_STATUS_CLOSED 1 := by
  unfold State.beacon
  dsimp only
  rw [if_neg (not_not_intro good), if_pos mine]

/-- A member's entry after its beacon. -/
theorem Claim.hear_spec (c : Claim) (p : Nat) (h : List Byte) : (c.hear p h).idx = c.idx ∧ (c.hear p h).mac = c.mac ∧
    (c.hear p h).age = 0 ∧ ((if p = 0 then (c.hear p h).a else (c.hear p h).b) = some (hHops h, 0) ∨ 1 < p) := by
  refine ⟨rfl, rfl, rfl, ?_⟩
  rcases p with _ | _ | p
  · exact .inl rfl
  · exact .inl rfl
  · exact .inr (by omega)

/-- The state with another member table. -/
def State.withClaims (s : State) (l : List Claim) : State := { s with ring := { s.ring with claims := l } }

theorem State.withClaims_members (s : State) (l : List Claim) :
    (s.withClaims l).members.mem = s.mem ∧ (s.withClaims l).members.ring.claims = l := by
  obtain ⟨ring, mem⟩ := State.members_frame (s.withClaims l)
  exact ⟨mem, congrArg (fun x => x.claims) ring⟩

theorem execMemberExpiry_eq (i : Fin 16) : execMemberExpiry i s =
    .next (s.withClaims (s.ring.claims.filter fun c => c.idx != i.val || decide (c.age < 3))).members := by
  unfold execMemberExpiry
  rfl

/-- Whether an entry is of the member that sent a beacon. -/
def Claim.sent (c : Claim) (r : RxFrame) : Bool := c.idx == hSrc (tHead r.bytes) && c.mac == fSrc r.bytes

/-- The table with an entry for the member that sent a beacon. -/
def State.enrolled (s : State) (r : RxFrame) : List Claim :=
  if s.ring.claims.any fun c => c.sent r then s.ring.claims
  else s.ring.claims ++ [{ idx := hSrc (tHead r.bytes), mac := fSrc r.bytes }]

theorem State.beacon_other {r : RxFrame} (good : tileCrcOk r.bytes) (other : fSrc r.bytes ≠ s.mac)
    (index : hSrc (tHead r.bytes) ≤ 15) : s.beacon r =
    (s.withClaims ((s.enrolled r).map fun c => if c.sent r then c.hear r.port (tHead r.bytes) else c)).members := by
  unfold State.beacon
  dsimp only
  rw [if_neg (not_not_intro good), if_neg other, if_neg (by omega)]
  rfl

/-- The member has an entry. -/
theorem State.enrolled_mem (s : State) (r : RxFrame) : ∃ c ∈ s.enrolled r, c.sent r := by
  unfold State.enrolled
  split
  case isTrue known => exact List.any_eq_true.1 known
  case isFalse => exact ⟨_, List.mem_append_right _ (.head _), by simp [Claim.sent]⟩

/-- Another member's beacon enters the table (R408). -/
theorem State.beacon_member {r : RxFrame} (good : tileCrcOk r.bytes) (other : fSrc r.bytes ≠ s.mac) (index : hSrc (tHead r.bytes) ≤ 15) :
    (s.beacon r).mem = s.mem ∧ ∃ c ∈ (s.beacon r).ring.claims, c.idx = hSrc (tHead r.bytes) ∧ c.mac = fSrc r.bytes ∧ c.age = 0 ∧
      ((if r.port = 0 then c.a else c.b) = some (hHops (tHead r.bytes), 0) ∨ 1 < r.port) := by
  rw [State.beacon_other good other index]
  obtain ⟨c, listed, known⟩ := s.enrolled_mem r
  generalize s.enrolled r = l at listed ⊢
  obtain ⟨ring, mem⟩ := State.members_frame (s.withClaims (l.map fun c => if c.sent r then c.hear r.port (tHead r.bytes) else c))
  refine ⟨mem, ?_⟩
  rw [ring]
  obtain ⟨idx, mac, age, seen⟩ := c.hear_spec r.port (tHead r.bytes)
  obtain ⟨hidx, hmac⟩ : c.idx = hSrc (tHead r.bytes) ∧ c.mac = fSrc r.bytes := by simpa [Claim.sent] using known
  exact ⟨c.hear r.port (tHead r.bytes), List.mem_map.2 ⟨c, listed, if_pos known⟩, idx.trans hidx, mac.trans hmac, age, seen⟩

/-- A delivered beacon is taken from the queue of frames and handled. -/
theorem execBeaconReceive_taken {r : RxFrame} {t : State} (taken : s.takeFrame (isTile 4) = some (r, t)) :
    execBeaconReceive s = .next (t.beacon r) := by rw [execBeaconReceive, taken]

/-- Settles O38: per command of the causeway, of a link, of a frame received and of the member table. -/
theorem causewayAndRing : Obligations.CausewayAndRing := by
  refine ⟨fun s => ⟨fun leaves => ?_, fun stays => ?_, fun standby control => ?_, ?_⟩,
    fun s p => ⟨fun fast en joined rate => ?_, ?_, fun up rate => ?_, fun only => ?_⟩,
    fun s p f => ⟨fun up short mine other plain noPtp => ?_, fun up long fcs => ?_, fun r s1 taken good mine => ?_,
      fun r s1 taken good other index => ?_, fun i => ?_⟩⟩
  · refine ⟨_, congrArg Host.Outcome.next (State.leaveBypass_leaves leaves), ?_, ?_⟩
    · exact congrArg (· == 1) (s.rg_wr_same RING_CAUSEWAY_BYPASS 0)
    · exact State.onlyRegs_wr (s.onlyRegs_refl _) (List.mem_singleton.2 rfl) 0
  · exact congrArg Host.Outcome.next (State.leaveBypass_stays stays)
  · refine ⟨_, congrArg Host.Outcome.next (if_pos ⟨standby, control⟩), ?_, ?_⟩
    · exact (State.on_congr (State.rg_leaveBypass_other (f := RING_CAUSEWAY_CAP_OK) (by decide) _)).trans
        (s.on_wr_one (f := RING_CAUSEWAY_CAP_OK) rfl)
    · exact State.onlyRegs_leaveBypass (State.onlyRegs_wr (s.onlyRegs_refl _) (.head _) 1) (.tail _ (.head _))
  · obtain ⟨bypass, ring, mem, joined, bypassed⟩ := State.watchdog_spec { s with ring := { s.ring with watchdog := true } }
    exact ⟨_, rfl, bypass, congrArg (fun x => x.watchdog) ring, mem, joined, bypassed⟩
  · obtain ⟨link, speed, only⟩ := State.setLink_spec p.isLt s 1 (if fast ∧ s.rg RING_CTRL_RATE ≠ 2 then 2 else 1)
      (s.wrs [(linkFld p.val, 1), (spdFld p.val, if fast ∧ s.rg RING_CTRL_RATE ≠ 2 then 2 else 1)]).capNow
    refine ⟨_, congrArg Host.Outcome.next (if_neg ?_), beq_iff_eq.2 link, speed.trans (Nat.mod_eq_of_lt (by split <;> decide)), only⟩
    rintro (off | bypass | ⟨one, slow⟩)
    · exact off en
    · exact joined bypass
    · exact slow (rate one)
  · obtain ⟨link, speed, only⟩ := State.setLink_spec p.isLt s 0 0 (s.wrs [(linkFld p.val, 0), (spdFld p.val, 0)]).capNow
    obtain ⟨-, -, -, linkClosed, speedClosed, -, -⟩ := link_apart p.val p.isLt
    refine ⟨_, rfl, ?_, (State.rg_wr_other _ speedClosed 0).trans speed, ?_, ?_⟩
    · exact congrArg (· == 1) ((State.rg_wr_other _ linkClosed 0).trans link)
    · exact congrArg (· == 1) (State.rg_wr_same _ RING_STATUS_CLOSED 0)
    · refine State.onlyRegs_wr ?_ (.tail _ (.tail _ (.tail _ (.head _)))) 0
      exact ⟨fun f hf => only.1 f fun mem => hf (List.mem_append_left [RING_STATUS_CLOSED.key] mem), only.2⟩
  · have went : ¬ (¬ s.on (linkFld p.val) ∨ s.rg RING_CTRL_RATE = 1) := not_or.2 ⟨not_not_intro up, rate⟩
    obtain ⟨-, -, speedCap, -, -, -, speedW⟩ := link_apart p.val p.isLt
    refine ⟨_, congrArg Host.Outcome.next (if_neg went), ?_, State.postEvent_eseq ..⟩
    rw [State.rg_postEvent_link p.isLt, State.rg_wr_other _ speedCap, State.rg_wr_same, speedW]
    rfl
  · exact congrArg Host.Outcome.next (if_pos (.inr only))
  · have apart := (by decide : ∀ p < 2, RING_MAC.key ≠ (RING_PORT_RX p).key) p.val p.isLt
    refine ⟨_, congrArg Host.Outcome.next (State.ringFrame_delivered up short mine other plain noPtp apart), ?_, ?_, rfl, ?_⟩
    · have time := (by decide : ∀ p < 2, TIME_NOW.key ≠ (RING_PORT_RX p).key) p.val p.isLt
      exact congrArg (fun n => s.ring.inbox ++ [⟨p.val, n, f⟩]) (s.rg_wr_other time _)
    · exact s.rg_bump_same (RING_PORT_RX p.val) 1
    · exact State.onlyRegs_wr (s.onlyRegs_refl _) (List.mem_singleton.2 rfl) _
  · have apart := (by decide : ∀ p < 2, (RING_PORT_FCS p).key ≠ (RING_PORT_RX p).key) p.val p.isLt
    refine ⟨_, congrArg Host.Outcome.next (State.ringFrame_long up long fcs), rfl, rfl, ?_, ?_⟩
    · rw [State.rg_bump_same, State.bump, s.rg_wr_other apart]
      rfl
    · exact State.onlyRegs_wr (State.onlyRegs_wr (s.onlyRegs_refl _) (.head _) _) (.tail _ (.head _)) _
  · obtain ⟨-, x, rfl⟩ := State.takeFrame_spec taken
    have went := (execBeaconReceive_taken taken).trans (congrArg Host.Outcome.next (State.beacon_own (s := s.withRing x) good mine))
    refine ⟨_, went, State.on_wr_one _ rfl, rfl, ?_⟩
    exact State.onlyRegs_wr (s.onlyRegs_refl _) (List.mem_singleton.2 rfl) 1
  · obtain ⟨-, x, rfl⟩ := State.takeFrame_spec taken
    exact ⟨_, execBeaconReceive_taken taken, State.beacon_member (s := s.withRing x) good other index⟩
  · exact ⟨_, execMemberExpiry_eq i, State.withClaims_members s _⟩

end Sys2Proof.Machine
end

section
/-! CERTIFICATE. Fault records, repair rows, the log and the lifetime counters (O40, R501 to R518). -/

namespace Sys2Proof.Machine

variable {s : State}

/-! ## Samples -/

/-- What a histogram sample notes. -/
theorem Noted.sample {a s : State} (h : Noted a s) (k b : Nat) : Noted a (s.sample k b) := by
  unfold State.sample
  extract_lets r t
  have added : Noted a t := h.keep rfl rfl
  exact ite_of (P := Noted a) (fun _ => (added.logEntry ..).postEvent ..) fun _ => added

/-! ## The fault queue stays as it is -/

/-- From `a` to `s` the fault queue, its shown fill, the station records and the repair rows are as they were. -/
structure SameFaults (a s : State) : Prop where
  integ : s.integ = a.integ
  fill : s.rg INT_FQ_STAT_FILL = a.rg INT_FQ_STAT_FILL

namespace SameFaults

variable {a s t : State}

theorem refl (a : State) : SameFaults a a := ⟨rfl, rfl⟩

theorem keep (h : SameFaults a s) (regs : t.regs = s.regs) (integ : t.integ = s.integ) : SameFaults a t :=
  ⟨integ.trans h.integ, (State.rg_congr regs _).trans h.fill⟩

theorem noted (h : SameFaults a s) (k : Noted s t) : SameFaults a t :=
  ⟨(congrArg (fun x : State => x.integ) k.rest :).trans h.integ, (k.field INT_FQ_STAT_FILL (by decide)).trans h.fill⟩

/-- A write of a field of another word. -/
theorem wr (h : SameFaults a s) {f : Fld} (apart : f.lo < 32 ∧ INT_FQ_STAT_FILL.off < f.off) (v : Nat) : SameFaults a (s.wr f v) :=
  ⟨h.integ, (s.rg_wr_other (Fld.key_ne_of_off (by decide) apart.1 apart.2.ne) v).trans h.fill⟩

theorem wrs (h : SameFaults a s) {l : List (Fld × Nat)} (apart : ∀ q ∈ l, q.1.lo < 32 ∧ INT_FQ_STAT_FILL.off < q.1.off) :
    SameFaults a (s.wrs l) :=
  List.foldlRecOn (motive := SameFaults a) _ _ h fun _ k q hq => k.wr (apart q hq) q.2

theorem rederive (h : SameFaults a s) : SameFaults a s.rederive := by
  refine ⟨Eq.trans ?_ h.integ, (s.rederive_frame.1 INT_FQ_STAT_FILL (by decide)).trans h.fill⟩
  unfold State.rederive
  extract_lets c s1 s2 s3
  exact (foldl_of (P := fun u : State => u.integ = s.integ) rfl fun _ _ k => k : s2.integ = s.integ)

theorem recordStations (h : SameFaults a s) : SameFaults a s.recordStations := h.noted ((Noted.refl s).persist ..)

theorem fence (h : SameFaults a s) (t p : Nat) : SameFaults a (s.fence t p) := by
  unfold State.fence
  refine ite_of (P := SameFaults a) (fun _ => h) fun _ => ?_
  have fenced : SameFaults a (s.wr (INT_STN_FENCED t) (s.rg (INT_STN_FENCED t) + 2 ^ p)) :=
    h.wr ⟨Nat.zero_lt_succ _, by show 0xd00008 < 0xd00100 + 0x4 * t; omega⟩ _
  have logged := fenced.noted ((((Noted.refl _).postEvent 0x0060 0 (t + 256 * p)).logEntry 0x0003 0 (stnWhere t p) (b2n (p == 16))).count 0xB)
  exact logged.rederive.recordStations

theorem takeReq (h : SameFaults a s) (t p : Nat) : SameFaults a (s.takeReq t p) :=
  ite_of (P := SameFaults a) (fun _ => h.wr ⟨(by decide : 29 < 32), by
    show 0xd00008 < 0x1000000 + t * 0x200000 + 0x180000 + 0x40; omega⟩ 1) fun _ => h.keep rfl rfl

theorem retire (h : SameFaults a s) (t p : Nat) : SameFaults a (s.retire t p) :=
  ite_of (P := SameFaults a) (fun _ => h) fun _ => ite_of (P := SameFaults a) (fun _ => h.fence t p) fun _ => h.takeReq t p

theorem arrayRepair (h : SameFaults a s) (t p w : Nat) : SameFaults a (s.arrayRepair t p w) := by
  have above : INT_FQ_STAT_FILL.off < stnBase t p + 0x808 := by
    show 0xd00008 < 0x1000000 + t * 0x200000 + p * 0x10000 + 0x808
    omega
  unfold State.arrayRepair
  extract_lets u co ro cf rf co' ro' ok
  have hu : SameFaults a u := ite_of (P := SameFaults a) (fun _ => h.wr (f := ARRAY_REPAIR_ERR t p) ⟨(by decide : 30 < 32), above⟩ 0) fun _ => h
  refine ite_of (P := SameFaults a) (fun _ => hu.wr (f := ARRAY_REPAIR_ERR t p) ⟨(by decide : 30 < 32), above⟩ 1)
    fun _ => hu.wrs ?_
  simp only [List.forall_mem_cons, List.not_mem_nil, false_implies, implies_true, and_true]
  exact ⟨⟨(by decide : 31 < 32), above⟩, ⟨(by decide : 8 < 32), above⟩, ⟨(by decide : 0 < 32), above⟩⟩

theorem recordRepair (h : SameFaults a s) (t p row col : Nat) : SameFaults a (s.recordRepair t p row col) :=
  h.noted ((Noted.refl s).persist 0x2500 0 _)

theorem postEvent (h : SameFaults a s) (code src arg : Nat) (data : List Byte) : SameFaults a (s.postEvent code src arg data) :=
  h.noted ((Noted.refl s).postEvent code src arg data)

theorem repairArray (h : SameFaults a s) (t p row col : Nat) : SameFaults a (s.repairArray t p row col) := by
  unfold State.repairArray
  extract_lets u v
  have recorded : SameFaults a u := h.recordRepair t p row col
  have logged : SameFaults a v := recorded.noted (((Noted.refl u).logEntry 0x0004 0 (stnWhere t p) (row + 256 * col)).count 0xC)
  exact ite_of (P := SameFaults a) (fun _ => logged.postEvent ..) fun _ => (logged.arrayRepair t p _).postEvent ..

end SameFaults

/-! ## A fault record leaves the queue -/

/-- A station's record changed. -/
def State.withRec (s : State) (t p : Nat) (w : StnRec) : State :=
  { s with integ := { s.integ with recs := s.integ.recs.set (17 * t + p) w {} } }

theorem State.stnRec_withRec {u : State} {t p : Nat} {w : StnRec} (h : SameFaults (s.withRec t p w) u) : u.stnRec t p = w := by
  rw [State.stnRec, h.integ]
  exact KMap.get_set_same _ (17 * t + p) w {}

/-- The tides of a record with a tide entered. -/
def StnRec.entered (v : StnRec) (n : Nat) : List Nat :=
  if v.tides.contains n then v.tides else (n :: v.tides).filter fun k => decide (n < k + 1000)

theorem StnRec.mem_entered (v : StnRec) (n : Nat) : n ∈ v.entered n := by
  unfold StnRec.entered
  split
  case isTrue known => exact List.contains_iff_mem.1 known
  case isFalse => simp

/-- A counting fault enters its station's record (R501); what it decides leaves the record and the queue. -/
theorem State.countFault_entered (s : State) (r : FaultRec) :
    ∃ w : StnRec, r.tide ∈ w.tides ∧ SameFaults (s.withRec r.terr r.pos w) (s.countFault r) := by
  unfold State.countFault
  extract_lets v located loc tides mate w _ u s1
  refine ⟨w, v.mem_entered r.tide, ?_⟩
  have entered : SameFaults (s.withRec r.terr r.pos w) u := .refl _
  have decided : SameFaults (s.withRec r.terr r.pos w) s1 := by
    show SameFaults _ (match mate.bind fun l => s.repairDecision r.terr r.pos l loc with
      | some q => u.repairArray r.terr r.pos q.1 q.2
      | none => u)
    split
    · exact entered.repairArray ..
    · exact entered
  exact ite_of (P := SameFaults _) (fun _ => decided) fun _ =>
    ite_of (P := SameFaults _) (fun _ => decided.keep rfl rfl) fun _ => decided.retire ..

/-- The queue without its oldest record. -/
def State.withFq (s : State) (l : List FaultRec) : State :=
  ({ s with integ := { s.integ with fq := l } } : State).wr INT_FQ_STAT_FILL l.length

/-- A fault record logged and counted. -/
def State.loggedFault (s : State) (r : FaultRec) : State :=
  let t := (s.logEntry 0x0001 0xFE (stnWhere r.terr r.pos)
    (r.loc % 2 ^ 24 + 2 ^ 30 * b2n (bit r.flags 2) + 2 ^ 31 * b2n (bit r.flags 0)) r.code).count (if bit r.flags 2 then 5 else 6)
  if bit r.flags 0 then
    (t.count 7).sample 2 (min 15 (if t.rg TIDE_TMIN_T_MIN = 0 then 0 else 16 * r.cycle / t.rg TIDE_TMIN_T_MIN))
  else t

theorem State.loggedFault_noted (s : State) (r : FaultRec) : Noted s (s.loggedFault r) := by
  unfold State.loggedFault
  extract_lets t
  have counted : Noted s t := by
    have logged := (Noted.refl s).logEntry 0x0001 0xFE (stnWhere r.terr r.pos)
      (r.loc % 2 ^ 24 + 2 ^ 30 * b2n (bit r.flags 2) + 2 ^ 31 * b2n (bit r.flags 0)) r.code
    exact logged.count (if bit r.flags 2 = true then 5 else 6)
  exact ite_of (P := Noted s) (fun _ => (counted.count 7).sample 2 _) fun _ => counted

theorem State.fqPop_eq {r : FaultRec} {l : List FaultRec} (first : s.integ.fq = r :: l) : s.fqPop =
    if bit r.flags 2 then (((s.withFq l).loggedFault r).sample 3 r.terr).countFault r else (s.withFq l).loggedFault r := by
  unfold State.fqPop
  rw [first]
  unfold State.loggedFault State.withFq
  dsimp only

/-- The oldest record leaves the queue (R517). -/
theorem State.fqPop_spec {r : FaultRec} {l : List FaultRec} (first : s.integ.fq = r :: l) :
    s.fqPop.integ.fq = l ∧ s.fqPop.rg INT_FQ_STAT_FILL = l.length % 2 ^ 7 ∧
      (bit r.flags 2 = false → s.fqPop.integ.recs = s.integ.recs) ∧
      (bit r.flags 2 = true → r.tide ∈ (s.fqPop.stnRec r.terr r.pos).tides) := by
  have logged : SameFaults (s.withFq l) ((s.withFq l).loggedFault r) := (SameFaults.refl _).noted (State.loggedFault_noted _ r)
  have fill : (s.withFq l).rg INT_FQ_STAT_FILL = l.length % 2 ^ 7 := State.rg_wr_same ..
  rw [State.fqPop_eq first]
  cases counting : bit r.flags 2 with
  | false =>
    refine ⟨congrArg (fun x => x.fq) logged.integ, logged.fill.trans fill, fun _ => congrArg (fun x => x.recs) logged.integ, ?_⟩
    exact fun bad => absurd bad (by decide)
  | true =>
    have sampled : SameFaults (s.withFq l) (((s.withFq l).loggedFault r).sample 3 r.terr) := logged.noted ((Noted.refl _).sample ..)
    generalize ((s.withFq l).loggedFault r).sample 3 r.terr = u at sampled ⊢
    obtain ⟨w, tide, kept⟩ := u.countFault_entered r
    refine ⟨?_, kept.fill.trans (sampled.fill.trans fill), fun bad => absurd bad (by decide), fun _ => ?_⟩
    · exact (congrArg (fun x => x.fq) kept.integ).trans (congrArg (fun x => x.fq) sampled.integ)
    · exact (State.stnRec_withRec kept).symm ▸ tide

/-! ## Repair rows -/

/-- The fields of `INT.SREP` that a write sets. -/
def srepWrites (w : Nat) : List (Fld × Nat) :=
  [(INT_SREP_TERR, bits w 25 4), (INT_SREP_POS, bits w 20 5), (INT_SREP_MEM, bits w 18 2), (INT_SREP_BANK, bits w 14 4),
    (INT_SREP_INDEX, bits w 6 8), (INT_SREP_SPARE, bits w 4 2)]

theorem srepWrites_keys (w : Nat) : (srepWrites w).map (fun q => q.1.key) =
    [INT_SREP_TERR, INT_SREP_POS, INT_SREP_MEM, INT_SREP_BANK, INT_SREP_INDEX, INT_SREP_SPARE].map Fld.key := rfl

theorem State.rg_srepWrites_other {f : Fld} (apart : f.lo % 32 ∉ [25, 20, 18, 14, 6, 4]) (s : State) (w : Nat) :
    (s.wrs (srepWrites w)).rg f = s.rg f := by
  refine s.rg_wrs_other _ fun q hq => Fld.key_ne_of_lo fun same => apart ?_
  have : q.1.lo % 32 ∈ (srepWrites w).map fun q => q.1.lo % 32 := List.mem_map_of_mem hq
  rw [same]
  exact this

/-- What refuses a mapping is not in the fields of `INT.SREP`. -/
theorem State.srepBad_srepWrites (s : State) (w t p m bank index spare : Nat) :
    (s.wrs (srepWrites w)).srepBad t p m bank index spare = s.srepBad t p m bank index spare := by
  have assigned (p : Nat) : (s.wrs (srepWrites w)).assigned t p = s.assigned t p :=
    State.on_congr (State.rg_srepWrites_other (f := MAP_ASSIGNED t p) (by exact (by decide : 31 ∉ [25, 20, 18, 14, 6, 4])) s w)
  have valid (f : Nat) : (s.wrs (srepWrites w)).on (ATT_FRAME_VALID t f) = s.on (ATT_FRAME_VALID t f) :=
    State.on_congr (State.rg_srepWrites_other (f := ATT_FRAME_VALID t f) (by exact (by decide : 31 ∉ [25, 20, 18, 14, 6, 4])) s w)
  unfold State.srepBad
  simp only [assigned, valid, s.wrs_integ (srepWrites w)]

theorem State.mapRow_regs (s : State) (t p m bank index spare : Nat) : (s.mapRow t p m bank index spare).regs = s.regs := by
  unfold State.mapRow
  exact (State.putRow_regs ..).trans rfl

/-- A row mapped and recorded (R507). -/
def State.mapped1 (s : State) (t p m bank index spare : Nat) : State :=
  let pw := if m = 3 then 17 else p
  let u := (s.mapRow t p m bank index spare).persist 0x2501 0
    (s.objVal 0x2501 0 [] ++ srepEntry t (if m = 3 then 0 else p) m bank index spare)
  ((u.logEntry 0x0005 0 (stnWhere t pw) (index + 2 ^ 20 * spare + 2 ^ 24 * bank + 2 ^ 28 * m)).count 0xD).postEvent 0x0063 0
    (t + 256 * pw) [1#8, 1#8]

theorem State.mapped1_noted (s : State) (t p m bank index spare : Nat) :
    Noted (s.mapRow t p m bank index spare) (s.mapped1 t p m bank index spare) := by
  unfold State.mapped1
  extract_lets pw u
  have recorded : Noted (s.mapRow t p m bank index spare) u := (Noted.refl _).persist 0x2501 0 _
  exact ((recorded.logEntry 0x0005 0 _ _).count 0xD).postEvent 0x0063 0 _ _

/-- A mapping that is asked for: refused with ERR, for a terrace store with its place in the list of rows without a spare
(R508), or made. -/
def State.srepGo (s : State) (t p m bank index spare : Nat) : State :=
  if s.srepBad t p m bank index spare then
    let e := s.wr INT_SREP_ERR 1
    if m = 3 ∧ t < 12 ∧ ((List.range 4).all fun i => e.integ.srep.any fun x => x.1 == (t, 17, 3, bank, i)) then
      let e : State := { e with integ := { e.integ with noSpare := e.integ.noSpare ++ [(t, index * 16 + bank)] } }
      (e.logEntry 0x0005 0 (stnWhere t 17) (index + 2 ^ 20 * 15 + 2 ^ 24 * bank + 2 ^ 28 * 3)).persist 0x2501 0
        (s.objVal 0x2501 0 [] ++ srepEntry t 0 3 bank index 15)
    else e
  else s.mapped1 t p m bank index spare

/-- A write of `INT.SREP` that does not clear ERR. -/
theorem State.srepWrite_eq {w : Nat} (keep : bit w 29 = false) : s.srepWrite w = if ¬ bit w 31 then s.wrs (srepWrites w)
    else (s.wrs (srepWrites w)).srepGo (bits w 25 4) (bits w 20 5) (bits w 18 2) (bits w 14 4) (bits w 6 8) (bits w 4 2) := by
  unfold State.srepWrite State.srepGo State.mapped1 srepWrites
  rw [keep]
  rfl

theorem State.srepGo_good {t p m bank index spare : Nat} (good : s.srepBad t p m bank index spare = false) :
    s.srepGo t p m bank index spare = s.mapped1 t p m bank index spare := if_neg (by rw [good]; decide)

theorem State.srepGo_bad {t p m bank index spare : Nat} (bad : s.srepBad t p m bank index spare = true) (own : m ≠ 3) :
    s.srepGo t p m bank index spare = s.wr INT_SREP_ERR 1 := (if_pos bad).trans (if_neg fun h => own h.1)

/-! ## Samples -/

theorem State.postEvent_life (s : State) (code src arg : Nat) (data : List Byte := []) (stamp : Option (List Byte) := none) :
    (s.postEvent code src arg data stamp).life = s.life := by
  unfold State.postEvent
  extract_lets seq _ lost _ tail e s2 s3
  refine ite_of (P := fun u : State => u.life = s.life) (fun _ => rfl) fun _ =>
    ite_of (P := fun u : State => u.life = s.life) (fun _ => ?_) fun _ => rfl
  obtain ⟨p, o, raised⟩ := s3.raise_eq 0
  rw [raised]
  rfl

/-- A log entry counts at most itself, in no histogram. -/
theorem State.logEntry_bins (s : State) (code src wher arg : Nat) (status : Nat := 0) :
    (s.logEntry code src wher arg status).life.bins = s.life.bins := by
  have added : (s.life.add 20 20 1 false).1.bins = s.life.bins := by
    unfold Life.add
    exact ite_of (P := fun r : Life × Bool => r.1.bins = s.life.bins) (fun _ => rfl) fun _ => rfl
  unfold State.logEntry
  extract_lets same r t
  refine ite_of (P := fun u : State => u.life.bins = s.life.bins) (fun _ => rfl) fun _ =>
    ite_of (P := fun u : State => u.life.bins = s.life.bins) (fun _ => ?_) fun _ => rfl
  refine ite_of (P := fun u : State => u.life.bins = s.life.bins) (fun _ => ?_) fun _ => added
  exact (congrArg Life.bins (State.postEvent_life ..)).trans added

/-- A sample raises its bin, which saturates, and no other (R514). -/
theorem State.sample_bins (s : State) (h b : Nat) :
    (s.sample h b).life.bins = s.life.bins.set (16 * h + b) (min (s.life.bins.get (16 * h + b) 0 + 1) 0xFFFFFFFF) 0 := by
  have added : (s.life.add (21 + h) (histBase h + b) 1 true).1.bins =
      s.life.bins.set (16 * h + b) (min (s.life.bins.get (16 * h + b) 0 + 1) 0xFFFFFFFF) 0 := by
    unfold Life.add
    exact ite_of (P := fun r : Life × Bool => r.1.bins = _) (fun _ => rfl) fun _ => rfl
  unfold State.sample
  refine ite_of (P := fun u : State => u.life.bins = _) (fun _ => ?_) fun _ => added
  exact (congrArg Life.bins (State.postEvent_life ..)).trans ((State.logEntry_bins ..).trans added)

/-! ## The log -/

/-- An entry put into the array is in it, and no number, buffer or counter changes. -/
theorem State.logPut_spec (s : State) (e : LogEnt) : e ∈ (s.logPut e).log.sectors.flatten ∧
    (s.logPut e).log.nextSeq = s.log.nextSeq ∧ (s.logPut e).log.buf = s.log.buf ∧ (s.logPut e).life = s.life := by
  unfold State.logPut
  extract_lets t
  split
  · refine ite_of (P := fun u : State => e ∈ u.log.sectors.flatten ∧ u.log.nextSeq = s.log.nextSeq ∧ u.log.buf = s.log.buf ∧
      u.life = s.life) (fun _ => ⟨by simp, rfl, rfl, rfl⟩) fun _ => ite_of (P := fun u : State => e ∈ u.log.sectors.flatten ∧
      u.log.nextSeq = s.log.nextSeq ∧ u.log.buf = s.log.buf ∧ u.life = s.life) (fun _ => ⟨by simp, rfl, rfl, rfl⟩)
      fun _ => ⟨by simp [State.bump], rfl, rfl, rfl⟩
  · exact ⟨by simp, rfl, rfl, rfl⟩

/-- Several entries put into the array. -/
theorem State.foldl_logPut (l : List LogEnt) (s : State) : (l.foldl State.logPut s).log.nextSeq = s.log.nextSeq ∧
    (l.foldl State.logPut s).log.buf = s.log.buf ∧ (l.foldl State.logPut s).life = s.life := by
  induction l generalizing s with
  | nil => exact ⟨rfl, rfl, rfl⟩
  | cons e l ih =>
    obtain ⟨-, seq, buf, life⟩ := s.logPut_spec e
    obtain ⟨seqs, bufs, lives⟩ := ih (s.logPut e)
    exact ⟨seqs.trans seq, bufs.trans buf, lives.trans life⟩

/-- The last part of a checkpoint. -/
theorem State.checkpoint_last (s : State) (n : Nat) : ∃ l e, s.checkpoint n = l ++ [e] ∧ e.code = 0x0015 ∧ e.seq = n + 82 := by
  unfold State.checkpoint
  extract_lets v all
  rw [List.range_succ, List.map_append]
  exact ⟨_, _, rfl, rfl, rfl⟩

/-- The state with the numbers of a checkpoint taken. -/
def State.numbered (s : State) : State := { s with log := { s.log with nextSeq := s.log.nextSeq + 83 } }

theorem State.writeCheckpoint_eq (s : State) : s.writeCheckpoint = (s.checkpoint s.log.nextSeq).foldl State.logPut s.numbered := by
  unfold State.writeCheckpoint
  rfl

/-- A checkpoint of 83 numbers (R513). -/
theorem State.writeCheckpoint_spec (s : State) : s.writeCheckpoint.log.nextSeq = s.log.nextSeq + 83 ∧
    s.writeCheckpoint.life = s.life ∧ s.writeCheckpoint.log.buf = s.log.buf ∧
    ∃ e ∈ s.writeCheckpoint.log.sectors.flatten, e.code = 0x0015 ∧ e.seq = s.log.nextSeq + 82 := by
  obtain ⟨l, e, parts, code, seq⟩ := s.checkpoint_last s.log.nextSeq
  rw [State.writeCheckpoint_eq, parts, List.foldl_append, List.foldl_cons, List.foldl_nil]
  obtain ⟨num, buf, life⟩ := State.foldl_logPut l s.numbered
  obtain ⟨put, num', buf', life'⟩ := (l.foldl State.logPut s.numbered).logPut_spec e
  exact ⟨num'.trans num, life'.trans life, buf'.trans buf, e, put, code, seq⟩

theorem execLifetimeCheckpoint_plain (s : State) : execLifetimeCheckpoint false s = .next s.writeCheckpoint := by
  unfold execLifetimeCheckpoint
  rw [if_neg fun h => absurd h.1 (by decide)]

/-- The state with another log. -/
def State.withLog (s : State) (l : LogSt) : State := { s with log := l }

/-- One token more. -/
def State.earned (s : State) : State := s.withLog { s.log with tokens := min 256 (s.log.tokens + 1) }

/-- One token spent on the only entry that waits. -/
def State.spent (s : State) : State := s.withLog { s.log with buf := [], tokens := s.log.tokens - 1 }

theorem State.logToken_eq (control : s.pins.control) : s.logToken = s.earned.drainLog (256 + 1) := if_neg (not_not_intro control)

/-- With no entry waiting nothing is written (R515). -/
theorem State.drainLog_empty (empty : s.log.buf = []) (f : Nat) : s.drainLog f = s := by
  cases f with
  | zero => rfl
  | succ f => rw [State.drainLog, empty]

/-- The one entry that waits is written (R515). -/
theorem State.drainLog_one {e : LogEnt} (one : s.log.buf = [e]) (tokens : s.log.tokens ≠ 0)
    (far : ((s.log.sectors.getLast?.getD []).length == 45) = false) (put : (s.spent.logPut e).log.dropped = 0) (f : Nat) :
    s.drainLog (f + 1) = (s.spent.logPut e).drainLog f := by
  rw [State.drainLog, one]
  dsimp only
  rw [if_neg tokens, far, Bool.and_false, Bool.false_and]
  exact congrArg (State.drainLog · f) (if_pos put)

/-- An entry that the last sector has room for is put there. -/
theorem State.logPut_room {e : LogEnt} {l : List LogEnt} {rest : List (List LogEnt)} (sectors : s.log.sectors = rest ++ [l])
    (room : l.length < 128) : (s.logPut e).log = { s.log with sectors := rest ++ [l ++ [e]] } := by
  unfold State.logPut
  extract_lets t
  have last : t.log.sectors.getLast? = some l := by
    rw [show t.log.sectors = rest ++ [l] from sectors, List.getLast?_concat]
  rw [last]
  dsimp only
  rw [if_pos room, show t.log.sectors = rest ++ [l] from sectors, List.dropLast_concat]
  rfl

/-- With no entry waiting a token is kept (R515). -/
theorem State.logToken_empty (control : s.pins.control) (empty : s.log.buf = []) : s.logToken = s.earned :=
  (State.logToken_eq control).trans (State.drainLog_empty (s := s.earned) empty _)

/-- With one entry waiting a token lets it into the last sector that has room (R515). -/
theorem State.logToken_one {e : LogEnt} {l : List LogEnt} {rest : List (List LogEnt)} (control : s.pins.control)
    (one : s.log.buf = [e]) (kept : s.log.dropped = 0) (sectors : s.log.sectors = rest ++ [l]) (room : l.length < 128)
    (far : l.length ≠ 45) : s.logToken.log.buf = [] ∧ s.logToken.log.tokens = min 256 (s.log.tokens + 1) - 1 ∧
      s.logToken.log.sectors = rest ++ [l ++ [e]] := by
  have notFull : ((s.earned.log.sectors.getLast?.getD []).length == 45) = false := by
    show ((s.log.sectors.getLast?.getD []).length == 45) = false
    rw [sectors, List.getLast?_concat]
    exact beq_eq_false_iff_ne.2 far
  have put := State.logPut_room (s := s.earned.spent) (e := e) sectors room
  have tokens : s.earned.log.tokens ≠ 0 := by
    show min 256 (s.log.tokens + 1) ≠ 0
    omega
  rw [State.logToken_eq control, State.drainLog_one (s := s.earned) one tokens notFull (by rw [put]; exact kept),
    State.drainLog_empty (by rw [put]; rfl), put]
  exact ⟨rfl, rfl, rfl⟩

/-! ## The samples taken -/

theorem execHistogramSample_junction (s : State) : execHistogramSample false s = .next (s.sample 0 (junctionBin (s.rg PWR_TEMP_TJ))) := rfl

theorem execHistogramSample_margin (s : State) : execHistogramSample true s =
    .next (s.sample 1 (if s.rg TIDE_BUDGET_B = 0 then 15 else min 15 (16 * s.maxEnd / s.rg TIDE_BUDGET_B))) := rfl

/-- Settles O40: the fault queue and the repair rows, then the log and the counters. -/
theorem faultsRepairsAndLog : Obligations.FaultsRepairsAndLog := by
  refine ⟨fun s => ⟨fun r l first => ⟨_, rfl, State.fqPop_spec first⟩, fun w => ?_⟩,
    fun s => ⟨fun control empty => ?_, fun e l rest control one kept sectors room far => ?_, ?_, ?_, fun b hb => ?_⟩⟩
  · intro t p m bank index spare keep
    refine ⟨fun noGo => ?_, fun go good => ?_, fun go bad own => ?_⟩
    · have apart : ((srepWrites w.toNat).map fun q => q.1.key).Nodup := by
        rw [srepWrites_keys]
        decide
      have shown {f : Fld} {v : Nat} (h : (f, v) ∈ srepWrites w.toNat) : (s.wrs (srepWrites w.toNat)).rg f = v % 2 ^ f.w :=
        State.rg_wrs_of_apart apart h s
      refine ⟨_, congrArg Host.Outcome.next ((State.srepWrite_eq keep).trans (if_pos (by rw [noGo]; decide))), s.wrs_integ _, s.wrs_mem _,
        ?_, ?_⟩
      · exact (shown (f := INT_SREP_INDEX) (v := index) (by simp [srepWrites, index])).trans (Nat.mod_mod ..)
      · exact (shown (f := INT_SREP_BANK) (v := bank) (by simp [srepWrites, bank])).trans (Nat.mod_mod ..)
    · have wrote := ((State.srepWrite_eq keep).trans (if_neg (not_not_intro go))).trans
        (State.srepGo_good ((s.srepBad_srepWrites ..).trans good))
      have noted := State.mapped1_noted (s.wrs (srepWrites w.toNat)) t p m bank index spare
      refine ⟨_, congrArg Host.Outcome.next wrote, ?_, ?_⟩
      · exact congrArg (fun x : State => x.integ.srep) noted.rest
      · have same := State.rg_srepWrites_other (f := INT_SREP_ERR) (by decide) s w.toNat
        have row := State.rg_congr (State.mapRow_regs (s.wrs (srepWrites w.toNat)) t p m bank index spare) INT_SREP_ERR
        exact State.on_congr ((noted.field INT_SREP_ERR (by decide)).trans (row.trans same))
    · have wrote := ((State.srepWrite_eq keep).trans (if_neg (not_not_intro go))).trans
        (State.srepGo_bad ((s.srepBad_srepWrites ..).trans bad) own)
      exact ⟨_, congrArg Host.Outcome.next wrote, State.on_wr_one _ rfl, s.wrs_integ _, s.wrs_mem _⟩
  · exact ⟨_, congrArg Host.Outcome.next (State.logToken_empty control empty), rfl, rfl, rfl⟩
  · exact ⟨_, rfl, State.logToken_one control one kept sectors room far⟩
  · exact ⟨_, execLifetimeCheckpoint_plain s, s.writeCheckpoint_spec⟩
  · refine ⟨_, execHistogramSample_junction s, fun b hb => ?_⟩
    have bins := s.sample_bins 0 (junctionBin (s.rg PWR_TEMP_TJ))
    rw [Nat.mul_zero, Nat.zero_add] at bins
    rw [hb, bins]
    exact ⟨KMap.get_set_same .., fun k apart => KMap.get_set_other _ apart _ _ _⟩
  · refine ⟨_, execHistogramSample_margin s, ?_⟩
    have bins := s.sample_bins 1 (if s.rg TIDE_BUDGET_B = 0 then 15 else min 15 (16 * s.maxEnd / s.rg TIDE_BUDGET_B))
    rw [Nat.mul_one, ← hb] at bins
    exact (congrArg (fun m => KMap.get m b 0) bins).trans (KMap.get_set_same ..)

end Sys2Proof.Machine
end

section
/-! CERTIFICATE. Supplies, temperature thresholds and the test port (O53, R525 to R527, R541 to R543, R549). -/

namespace Sys2Proof.Machine

variable {s : State}

/-! ## The compute die is lost -/

/-- A cause of R425 changes registers and pulses alone. -/
theorem State.toBypass_eq (s : State) (cause : Nat) : ∃ r o, s.toBypass cause = { s with regs := r, out := o } := by
  unfold State.toBypass
  split
  · exact ⟨s.regs, s.out, rfl⟩
  · exact ⟨_, _, rfl⟩

theorem State.segKept_none (s : State) (a : Nat) : s.segKept 0 a = false := by
  simp [State.segKept, bit]

/-- With no segment kept, all of memory is lost. -/
theorem State.computeLost_mem (s : State) : (s.computeLost 0).mem = [] :=
  List.filter_eq_nil_iff.2 fun e _ => by simp [State.segKept_none]

/-- What a compute die switched off leaves. -/
theorem State.computeOff_spec (s : State) (seg : Nat) : (s.computeOff seg).pins.compute = false ∧
    (s.computeOff seg).pins.control = s.pins.control ∧ (s.computeOff seg).pins.v12 = s.pins.v12 ∧ (s.computeOff seg).loader.sets = [] ∧
    (s.computeOff seg).mem = s.mem.filter (fun e => s.segKept seg e.1) ∧
    ∀ f : Fld, (s.computeOff seg).rg f = if keptCompute f.key then s.rg f else f.rst % 2 ^ f.w :=
  ⟨rfl, rfl, rfl, rfl, rfl, s.rg_computeLost seg⟩

/-- The relays are in bypass after a cause of R425 and the loss of the compute die. -/
theorem State.bypassed_computeOff (h : s.rg RING_CAUSEWAY_BYPASS = 1) (seg : Nat) : (s.computeOff seg).rg RING_CAUSEWAY_BYPASS = 1 := by
  obtain ⟨-, -, -, -, -, field⟩ := s.computeOff_spec seg
  rw [field, if_pos (by decide), h]

/-! ## Supplies -/

/-- The 12 V input is gone. -/
def State.withV12 (s : State) (on : Bool) : State := { s with pins := { s.pins with v12 := on } }

theorem State.vinLoss_eq (v12 : s.pins.v12) (on : s.pins.compute) :
    s.vinLoss = (((s.withV12 false).toBypass 1).computeOff 0).wr PWR_STATUS_STATE 0 :=
  (if_neg (not_not_intro v12)).trans (if_pos on)

/-- VIN12_LOSS (R541). -/
theorem State.vinLoss_spec (v12 : s.pins.v12) (on : s.pins.compute) : ¬ s.vinLoss.pins.v12 ∧ ¬ s.vinLoss.pins.compute ∧
    s.vinLoss.on RING_CAUSEWAY_BYPASS ∧ s.vinLoss.rg PWR_STATUS_STATE = 0 ∧ s.vinLoss.pins.control = s.pins.control ∧
    s.vinLoss.loader.sets = [] ∧ s.vinLoss.mem = [] := by
  rw [State.vinLoss_eq v12 on]
  obtain ⟨bypass, -⟩ := (s.withV12 false).toBypass_bypasses 1
  obtain ⟨r, o, same⟩ := (s.withV12 false).toBypass_eq 1
  have off := State.bypassed_computeOff bypass 0
  have state := ((((s.withV12 false).toBypass 1)).computeOff 0).rg_wr_same PWR_STATUS_STATE 0
  have relay := (State.rg_wr_other (((s.withV12 false).toBypass 1).computeOff 0) (f := PWR_STATUS_STATE) (g := RING_CAUSEWAY_BYPASS)
    (by decide) 0).trans off
  rw [same] at state relay ⊢
  exact ⟨Bool.false_ne_true, Bool.false_ne_true, beq_iff_eq.2 relay, state, rfl, rfl, State.computeLost_mem _⟩

/-- VIN12_RETURN with every channel trained (R541). -/
theorem State.vinReturn_spec (off : ¬ s.pins.v12) (control : s.pins.control) (image : s.ef.running.isSome) (dark : ¬ s.pins.compute)
    (idle : s.rg PWR_STATUS_STATE = 0) (bad : List Nat) : (s.vinReturn 24 bad).pins.v12 ∧ (s.vinReturn 24 bad).pins.compute ∧
      (s.vinReturn 24 bad).rg GC_STATUS_PHASE = 1 := by
  have booted := Booted.startCompute (s := s.withV12 true) (Booted.refl _) true 24 bad
  have ready := ((s.withV12 true).startCompute_ready true bad).1
  have went : s.vinReturn 24 bad = if !s.dram.fresh then ((s.withV12 true).startCompute true 24 bad).logEntry 0x0009 5 0xFFFF 6
      else (s.withV12 true).startCompute true 24 bad := by
    have some : ¬ s.ef.running.isNone := by simpa [Option.isSome_iff_ne_none] using image
    unfold State.vinReturn
    rw [if_neg off]
    exact if_neg (not_or.2 ⟨not_not_intro control, not_or.2 ⟨some, not_or.2 ⟨dark, not_not_intro idle⟩⟩⟩)
  rw [went]
  generalize (s.withV12 true).startCompute true 24 bad = t at booted ready
  have logged := (Logged.refl t).logEntry 0x0009 5 0xFFFF 6
  refine ite_of (P := fun u : State => u.pins.v12 ∧ u.pins.compute ∧ u.rg GC_STATUS_PHASE = 1) (fun _ => ?_)
    fun _ => ⟨booted.v12, booted.compute, ready⟩
  rw [logged.pins]
  exact ⟨booted.v12, booted.compute, (logged.field _ (by decide)).trans ready⟩

/-- STANDBY_LOSS (R542). -/
theorem State.standbyLoss_spec (sb : s.pins.sb) : ¬ s.standbyLoss.pins.sb ∧ ¬ s.standbyLoss.pins.control ∧
    ¬ s.standbyLoss.pins.compute ∧ s.standbyLoss.loader.sets = [] ∧ s.standbyLoss.dict.precs = s.dict.precs ∧ s.standbyLoss.mem = [] := by
  have flushed : (s.toBypass 3).flushLog.dict = s.dict :=
    ((Logged.refl _).flushLog).dict.trans (congrArg (·.2.1) (s.toBypass_bypasses 3).2)
  unfold State.standbyLoss
  rw [if_neg (not_not_intro sb)]
  dsimp only
  generalize (s.toBypass 3).flushLog = t at flushed ⊢
  have alert : (t.setAlert false).dict = t.dict := ite_of (P := fun u : State => u.dict = t.dict) (fun _ => rfl) fun _ => rfl
  generalize t.setAlert false = u at alert ⊢
  refine ⟨Bool.false_ne_true, Bool.false_ne_true, Bool.false_ne_true, rfl, ?_, State.computeLost_mem u⟩
  exact congrArg (fun x => x.precs) (alert.trans flushed)

/-! ## Temperature -/

/-- The fields of `PWR.TEMP`. -/
def tempFlds : List Fld := [PWR_TEMP_TJ, PWR_TEMP_HOT, PWR_TEMP_THERM]

/-- From `a` to `s` the temperature shown and the compute die are as they were. -/
structure Sampled (a s : State) : Prop where
  field : ∀ f ∈ tempFlds, s.rg f = a.rg f
  compute : s.pins.compute = a.pins.compute

namespace Sampled

variable {a s t : State}

theorem refl (a : State) : Sampled a a := ⟨fun _ _ => rfl, rfl⟩

theorem logged (h : Sampled a s) (k : Logged s t) : Sampled a t :=
  ⟨fun f hf => (k.field f ((by decide : ∀ f ∈ tempFlds, f.key ∉ logKeys) f hf)).trans (h.field f hf),
    (congrArg (fun x : Pins => x.compute) k.pins).trans h.compute⟩

theorem wr (h : Sampled a s) {g : Fld} (apart : ∀ f ∈ tempFlds, f.key ≠ g.key) (v : Nat) : Sampled a (s.wr g v) :=
  ⟨fun f hf => (s.rg_wr_other (apart f hf) v).trans (h.field f hf), h.compute⟩

theorem flag (h : Sampled a s) {ev en : Fld} (apart : ∀ f ∈ tempFlds, f.key ≠ ev.key) (v : Nat) : Sampled a (s.flag ev en v) :=
  ite_of (P := Sampled a) (fun _ => (h.wr apart 1).logged ((Logged.refl _).raise v)) fun _ => h.wr apart 1

theorem rederive (h : Sampled a s) : Sampled a s.rederive := by
  refine ⟨fun f hf => (s.rederive_frame.1 f ((by decide : ∀ f ∈ tempFlds, ∀ g ∈ rederivedFlds, f.key ≠ g.key) f hf)).trans (h.field f hf),
    Eq.trans ?_ h.compute⟩
  unfold State.rederive
  extract_lets c s1 s2 s3
  exact (foldl_of (P := fun u : State => u.pins = s.pins) rfl fun _ _ k => k : s2.pins = s.pins) ▸ rfl

end Sampled

/-- HOT shows what it was set to, and the sample is as it was. -/
theorem State.setHot_spec (s : State) (on : Bool) : (s.setHot on).on PWR_TEMP_HOT = on ∧
    (s.setHot on).rg PWR_TEMP_TJ = s.rg PWR_TEMP_TJ ∧ (s.setHot on).pins.compute = s.pins.compute := by
  by_cases same : s.on PWR_TEMP_HOT = on
  · rw [State.setHot, if_pos same]
    exact ⟨same, rfl, rfl⟩
  · have set : Sampled (s.wr PWR_TEMP_HOT (b2n on)) (s.setHot on) := by
      unfold State.setHot
      rw [if_neg same]
      extract_lets t u
      have ht : Sampled (s.wr PWR_TEMP_HOT (b2n on)) t := (Sampled.refl _).flag (ev := PWR_EVENT_HOT) (by decide) 12
      have hu : Sampled (s.wr PWR_TEMP_HOT (b2n on)) u :=
        ite_of (P := Sampled _) (fun _ => (ht.wr (g := GH_CTRL_HOT) (by decide) _).rederive) fun _ => ht
      exact hu.logged (((Logged.refl u).postEvent ..).logEntry ..)
    refine ⟨?_, (set.field PWR_TEMP_TJ (by decide)).trans (s.rg_wr_other (by decide) _), set.compute⟩
    exact (State.on_congr (set.field PWR_TEMP_HOT (by decide))).trans (s.on_wr_b2n (f := PWR_TEMP_HOT) rfl on)

/-- THERM shows what it was set to. -/
theorem State.setTherm_spec (s : State) (on : Bool) : (s.setTherm on).on PWR_TEMP_THERM = on ∧
    (s.setTherm on).on PWR_TEMP_HOT = s.on PWR_TEMP_HOT ∧ (s.setTherm on).rg PWR_TEMP_TJ = s.rg PWR_TEMP_TJ ∧
    (s.setTherm on).pins.compute = s.pins.compute := by
  by_cases same : s.on PWR_TEMP_THERM = on
  · rw [State.setTherm, if_pos same]
    exact ⟨same, rfl, rfl, rfl⟩
  · have set : Sampled (s.wr PWR_TEMP_THERM (b2n on)) (s.setTherm on) := by
      unfold State.setTherm
      rw [if_neg same]
      have driven : Sampled (s.wr PWR_TEMP_THERM (b2n on))
        (({ s with pins := { s.pins with therm := on } } : State).wr PWR_TEMP_THERM (b2n on)) := ⟨fun _ _ => rfl, rfl⟩
      exact driven.flag (ev := PWR_EVENT_THERM) (by decide) 12
    refine ⟨?_, ?_, (set.field PWR_TEMP_TJ (by decide)).trans (s.rg_wr_other (by decide) _), set.compute⟩
    · exact (State.on_congr (set.field PWR_TEMP_THERM (by decide))).trans (s.on_wr_b2n (f := PWR_TEMP_THERM) rfl on)
    · exact State.on_congr ((set.field PWR_TEMP_HOT (by decide)).trans (s.rg_wr_other (by decide) _))

/-- What the shutdown writes after the compute die is off. -/
def thermalWrites : List (Fld × Nat) := [(DRAM_RETAIN_SEG, 0), (PWR_STATUS_STATE, 4), (PWR_STATUS_CAUSE, 4)]

/-- The state with the thermal shutdown in force. -/
def State.withThermal (s : State) : State := { s with pins := { s.pins with thermal := 1 } }

theorem State.thermalOff_eq (s : State) : s.thermalOff = (((((s.toBypass 6).count 18).logEntry 0x0010 5 0xFFFF 2).computeOff 0).wrs
    thermalWrites).writeCheckpoint.withThermal := by
  unfold State.thermalOff State.withThermal thermalWrites
  dsimp only

/-- The shutdown at 115 C (R527). -/
theorem State.thermalOff_spec (s : State) : ¬ s.thermalOff.pins.compute ∧ s.thermalOff.pins.thermal = 1 ∧
    s.thermalOff.rg PWR_STATUS_STATE = 4 ∧ s.thermalOff.rg PWR_STATUS_CAUSE = 4 ∧ s.thermalOff.on RING_CAUSEWAY_BYPASS := by
  obtain ⟨bypass, -⟩ := s.toBypass_bypasses 6
  have logged := ((Logged.refl (s.toBypass 6)).count 18).logEntry 0x0010 5 0xFFFF 2
  have relay := (logged.field RING_CAUSEWAY_BYPASS (by decide)).trans bypass
  rw [State.thermalOff_eq]
  generalize ((s.toBypass 6).count 18).logEntry 0x0010 5 0xFFFF 2 = t at relay ⊢
  have off := State.bypassed_computeOff relay 0
  have dark : (t.computeOff 0).pins.compute = false := rfl
  generalize t.computeOff 0 = u at off dark ⊢
  have written {f : Fld} {v : Nat} (h : (f, v) ∈ thermalWrites) : (u.wrs thermalWrites).rg f = v % 2 ^ f.w :=
    State.rg_wrs_of_apart (by decide) h u
  have state := written (f := PWR_STATUS_STATE) (v := 4) (by decide)
  have cause := written (f := PWR_STATUS_CAUSE) (v := 4) (by decide)
  have kept := (u.rg_wrs_other (g := RING_CAUSEWAY_BYPASS) thermalWrites (by decide)).trans off
  have dark' : (u.wrs thermalWrites).pins.compute = false := dark
  generalize u.wrs thermalWrites = v at state cause kept dark' ⊢
  have noted := (Logged.refl v).writeCheckpoint
  generalize v.writeCheckpoint = w at noted
  refine ⟨?_, rfl, (noted.field _ (by decide)).trans state, (noted.field _ (by decide)).trans cause, ?_⟩
  · show ¬ w.pins.compute
    rw [noted.pins, dark']
    exact Bool.false_ne_true
  · exact beq_iff_eq.2 ((noted.field _ (by decide)).trans kept)

theorem toBits_toInt (tj : BitVec 16) : toBits 16 tj.toInt = tj.toNat := by
  have low := tj.isLt
  rw [toBits, BitVec.toInt_eq_toNat_bmod, Int.bmod_def]
  split <;> omega

/-! ## The test port -/

/-- The instruction that the test port takes: BYPASS where it is not permitted (R549). -/
def State.tapTaken (s : State) (i : Nat) : Nat :=
  if (i = 3 ∧ s.rg GC_STATUS_PHASE ≠ 0 ∧ s.rg GC_STATUS_PHASE ≠ 4) ∨ (4 ≤ i ∧ s.level ≠ 0) then 0 else i

theorem State.tapTaken_plain {i : Nat} (low : i < 3) : s.tapTaken i = i := if_neg (by omega)

/-- EXTEST in RESET and in FAILED alone (R549). -/
theorem State.tapTaken_extest (s : State) : s.tapTaken 3 = if s.rg GC_STATUS_PHASE = 0 ∨ s.rg GC_STATUS_PHASE = 4 then 3 else 0 := by
  unfold State.tapTaken
  split_ifs <;> omega

/-- Debug access at protection level 0 alone (R491). -/
theorem State.tapTaken_debug (s : State) : s.tapTaken 4 = if s.level = 0 then 4 else 0 := by
  unfold State.tapTaken
  split_ifs <;> omega

/-- A test port instruction that does not give the identification code. -/
theorem State.jtag_quiet (sb : s.pins.sb) (control : s.pins.control) {i : Nat} (quiet : s.tapTaken i ≠ 1) :
    s.jtag i = { s with pins := { s.pins with tap := s.tapTaken i } } :=
  (if_neg (not_or.2 ⟨not_not_intro sb, not_not_intro control⟩)).trans (if_neg quiet)

theorem State.jtag_idcode (sb : s.pins.sb) (control : s.pins.control) :
    s.jtag 1 = ({ s with pins := { s.pins with tap := 1 } } : State).emit (.tdo idcode) :=
  (if_neg (not_or.2 ⟨not_not_intro sb, not_not_intro control⟩)).trans (if_pos rfl)

/-! ## The sample -/

/-- The state with the sample shown. -/
def State.shownTj (s : State) (tj : Int) : State := s.wr PWR_TEMP_TJ (toBits 16 tj)

/-- HOT after a sample. -/
def State.hotted (s : State) (tj : Int) : State :=
  if 1680 ≤ tj then s.setHot true else if tj < 1600 then s.setHot false else s

/-- THERM after a sample. -/
def State.thermed (s : State) (tj : Int) : State :=
  if 1760 ≤ tj then s.setTherm true else if tj < 1600 ∧ s.pins.thermal = 0 then s.setTherm false else s

/-- A thermal shutdown that may end. -/
def State.cooled (s : State) (tj : Int) : State :=
  if s.pins.thermal = 1 ∧ tj < 1520 then { s with pins := { s.pins with thermal := 2 } } else s

theorem State.temperature_eq (control : s.pins.control) (tj : Int) : s.temperature tj =
    let t := (((s.shownTj tj).hotted tj).thermed tj).cooled tj
    if 1840 ≤ tj ∧ t.pins.compute then t.thermalOff else t := if_neg (not_not_intro control)

theorem State.cooled_spec (s : State) (tj : Int) : (s.cooled tj).regs = s.regs ∧ (s.cooled tj).pins.compute = s.pins.compute :=
  ite_of (P := fun u : State => u.regs = s.regs ∧ u.pins.compute = s.pins.compute) (fun _ => ⟨rfl, rfl⟩) fun _ => ⟨rfl, rfl⟩

theorem State.hotted_spec (s : State) (tj : Int) : (s.hotted tj).rg PWR_TEMP_TJ = s.rg PWR_TEMP_TJ ∧
    (s.hotted tj).pins.compute = s.pins.compute ∧ (1680 ≤ tj → (s.hotted tj).on PWR_TEMP_HOT) ∧
    (tj < 1600 → (s.hotted tj).on PWR_TEMP_HOT = false) ∧
    (1600 ≤ tj → tj < 1680 → (s.hotted tj).on PWR_TEMP_HOT = s.on PWR_TEMP_HOT) := by
  unfold State.hotted
  split
  case isTrue hot =>
    obtain ⟨set, tjs, compute⟩ := s.setHot_spec true
    exact ⟨tjs, compute, fun _ => set, fun cold => by omega, fun _ _ => by omega⟩
  case isFalse notHot =>
    split
    case isTrue cold =>
      obtain ⟨cleared, tjs, compute⟩ := s.setHot_spec false
      exact ⟨tjs, compute, fun hot => absurd hot notHot, fun _ => cleared, fun _ _ => by omega⟩
    case isFalse warm => exact ⟨rfl, rfl, fun hot => absurd hot notHot, fun cold => absurd cold warm, fun _ _ => rfl⟩

theorem State.thermed_spec (s : State) (tj : Int) : (s.thermed tj).rg PWR_TEMP_TJ = s.rg PWR_TEMP_TJ ∧
    (s.thermed tj).pins.compute = s.pins.compute ∧ (s.thermed tj).on PWR_TEMP_HOT = s.on PWR_TEMP_HOT ∧
    (1760 ≤ tj → (s.thermed tj).on PWR_TEMP_THERM) := by
  unfold State.thermed
  split
  case isTrue high =>
    obtain ⟨set, hot, tjs, compute⟩ := s.setTherm_spec true
    exact ⟨tjs, compute, hot, fun _ => set⟩
  case isFalse low =>
    refine ite_of (P := fun u : State => u.rg PWR_TEMP_TJ = s.rg PWR_TEMP_TJ ∧ u.pins.compute = s.pins.compute ∧
      u.on PWR_TEMP_HOT = s.on PWR_TEMP_HOT ∧ (1760 ≤ tj → u.on PWR_TEMP_THERM)) (fun _ => ?_)
      fun _ => ⟨rfl, rfl, rfl, fun high => absurd high low⟩
    obtain ⟨-, hot, tjs, compute⟩ := s.setTherm_spec false
    exact ⟨tjs, compute, hot, fun high => absurd high low⟩

/-- What a sample shows before the shutdown (R525, R526). -/
theorem State.sample_spec (s : State) (tj : BitVec 16) : let u := (((s.shownTj tj.toInt).hotted tj.toInt).thermed tj.toInt).cooled tj.toInt
    u.rg PWR_TEMP_TJ = tj.toNat ∧ u.pins.compute = s.pins.compute ∧ (1680 ≤ tj.toInt → u.on PWR_TEMP_HOT) ∧
      (tj.toInt < 1600 → u.on PWR_TEMP_HOT = false) ∧
      (1600 ≤ tj.toInt → tj.toInt < 1680 → u.on PWR_TEMP_HOT = s.on PWR_TEMP_HOT) ∧ (1760 ≤ tj.toInt → u.on PWR_TEMP_THERM) := by
  intro u
  have shown : (s.shownTj tj.toInt).rg PWR_TEMP_TJ = tj.toNat := by
    rw [State.shownTj, State.rg_wr_same, toBits_toInt]
    exact Nat.mod_eq_of_lt tj.isLt
  have kept : (s.shownTj tj.toInt).on PWR_TEMP_HOT = s.on PWR_TEMP_HOT := State.on_congr (s.rg_wr_other (by decide) _)
  obtain ⟨tj1, compute1, hot, cold, warm⟩ := (s.shownTj tj.toInt).hotted_spec tj.toInt
  obtain ⟨tj2, compute2, hot2, therm⟩ := ((s.shownTj tj.toInt).hotted tj.toInt).thermed_spec tj.toInt
  obtain ⟨regs, compute3⟩ := (((s.shownTj tj.toInt).hotted tj.toInt).thermed tj.toInt).cooled_spec tj.toInt
  have same (f : Fld) : u.on f = (((s.shownTj tj.toInt).hotted tj.toInt).thermed tj.toInt).on f := State.on_congr (State.rg_congr regs f)
  refine ⟨(State.rg_congr regs _).trans (tj2.trans (tj1.trans shown)), compute3.trans (compute2.trans compute1), ?_, ?_, ?_, ?_⟩
  · exact fun h => (same _).trans (hot2.trans (hot h))
  · exact fun h => (same _).trans (hot2.trans (cold h))
  · exact fun h k => (same _).trans (hot2.trans ((warm h k).trans kept))
  · exact fun h => (same _).trans (therm h)

/-- Settles O53: the supplies, then the sample and the test port. -/
theorem suppliesTemperatureTestPort : Obligations.SuppliesTemperatureTestPort := by
  refine fun s => ⟨fun v12 on => ⟨_, rfl, State.vinLoss_spec v12 on⟩, fun off control image dark idle bad =>
    ⟨_, rfl, State.vinReturn_spec off control image dark idle bad⟩, fun sb => ⟨_, rfl, State.standbyLoss_spec sb⟩,
    fun control tj => ⟨fun low => ?_, fun high on => ?_⟩, fun sb control => ⟨?_, fun i hi => ?_, ?_, ?_⟩⟩
  · have went := (State.temperature_eq control tj.toInt).trans (if_neg fun h => by omega)
    exact ⟨_, congrArg Host.Outcome.next went, s.sample_spec tj⟩
  · have compute := (s.sample_spec tj).2.1.trans on
    have went := (State.temperature_eq control tj.toInt).trans (if_pos ⟨high, compute⟩)
    exact ⟨_, congrArg Host.Outcome.next went, State.thermalOff_spec _⟩
  · exact ⟨_, congrArg Host.Outcome.next (State.jtag_idcode sb control), rfl, rfl, rfl⟩
  · have low : i.val < 3 := (by decide : ∀ i ∈ [(0 : Fin 5), 2], i.val < 3) i hi
    have quiet : i.val ≠ 1 := (by decide : ∀ i ∈ [(0 : Fin 5), 2], i.val ≠ 1) i hi
    have taken := State.tapTaken_plain (s := s) low
    exact ⟨_, congrArg Host.Outcome.next (State.jtag_quiet sb control (by rw [taken]; exact quiet)), taken, rfl⟩
  · have taken := s.tapTaken_extest
    have quiet : s.tapTaken 3 ≠ 1 := by rw [taken]; split <;> decide
    exact ⟨_, congrArg Host.Outcome.next (State.jtag_quiet sb control quiet), rfl, taken⟩
  · have taken := s.tapTaken_debug
    have quiet : s.tapTaken 4 ≠ 1 := by rw [taken]; split <;> decide
    exact ⟨_, congrArg Host.Outcome.next (State.jtag_quiet sb control quiet), rfl, taken⟩

end Sys2Proof.Machine
end

section
/-! CERTIFICATE. The power ladder and its wakes (O52, R519 to R524, R527). -/

namespace Sys2Proof.Machine

variable {s : State}

/-! ## A write of `PWR.CTRL` -/

/-- The word of a request for power state `tgt`. -/
def ctrlWord (tgt w : Nat) : Nat := 2 ^ 31 + tgt * 2 ^ 27 + w % 2 ^ 27 + bits w 30 1 * 2 ^ 30

theorem ctrlWord_fields {tgt : Nat} (low : tgt ≤ 5) (w : Nat) : bit (ctrlWord tgt w) 31 = true ∧ bits (ctrlWord tgt w) 27 3 = tgt ∧
    bits (ctrlWord tgt w) 16 8 = bits w 16 8 := by
  unfold ctrlWord bits bit
  norm_num
  omega

/-- The fields that a write of `PWR.CTRL` sets. -/
def ctrlFlds : List Fld := [PWR_CTRL_TARGET, PWR_CTRL_RETAIN, PWR_CTRL_OP_NEXT]

/-- The state with the fields of `PWR.CTRL` taken. -/
def State.asked (s : State) (w : Nat) : State := (if bit w 30 then s.wr PWR_CTRL_ERR 0 else s).takeFields w ctrlFlds

/-- The fields of `PWR.CTRL` that a request reaches. -/
def askedFlds : List Fld := [PWR_CTRL_ERR, PWR_CTRL_TARGET, PWR_CTRL_RETAIN, PWR_CTRL_OP_NEXT]

/-- From `a` to `s` the fields of `PWR.CTRL` alone have changed. -/
structure Asked (a s : State) : Prop where
  field : ∀ f : Fld, f.key ∉ askedFlds.map Fld.key → s.rg f = a.rg f
  rest : ∃ r, s = { a with regs := r }

namespace Asked

variable {a s : State}

theorem refl (a : State) : Asked a a := ⟨fun _ _ => rfl, a.regs, rfl⟩

theorem wr (h : Asked a s) {f : Fld} (hf : f ∈ askedFlds) (v : Nat) : Asked a (s.wr f v) := by
  obtain ⟨field, r, rfl⟩ := h
  exact ⟨fun g hg => (State.rg_wr_other (f := f) (g := g) _ (fun same => hg (same ▸ List.mem_map_of_mem hf)) v).trans (field g hg), _, rfl⟩

theorem asked (a : State) (w : Nat) : Asked a (a.asked w) := by
  refine List.foldlRecOn (motive := Asked a) _ _ ?_ fun s h f hf => h.wr (.tail _ hf) _
  exact ite_of (P := Asked a) (fun _ => (Asked.refl a).wr (.head _) 0) fun _ => .refl a

/-- What forbids an entry is not in `PWR.CTRL`. -/
theorem busyP1 (h : Asked a s) : s.busyP1 = a.busyP1 := by
  obtain ⟨field, r, rfl⟩ := h
  have run := State.on_congr (field TIDE_CTRL_RUN (by decide))
  unfold State.busyP1
  rw [run]
  rfl

theorem busyP3 (h : Asked a s) : s.busyP3 = a.busyP3 := by
  obtain ⟨field, r, rfl⟩ := h
  have busy := State.on_congr (field PWR_STATUS_BUSY (by decide))
  unfold State.busyP3
  rw [busy]

theorem state (h : Asked a s) : s.rg PWR_STATUS_STATE = a.rg PWR_STATUS_STATE := h.field _ (by decide)

end Asked

/-- The state and the segments asked for. -/
theorem State.asked_fields {tgt : Nat} (low : tgt ≤ 5) (s : State) (w : Nat) :
    (s.asked (ctrlWord tgt w)).rg PWR_CTRL_TARGET = tgt ∧ (s.asked (ctrlWord tgt w)).rg PWR_CTRL_RETAIN = bits w 16 8 := by
  obtain ⟨-, target, retain⟩ := ctrlWord_fields low w
  have apart : (ctrlFlds.map Fld.key).Nodup := by decide
  constructor
  · refine (State.rg_takeFields_of_mem apart (by decide) _ _).trans ?_
    show PWR_CTRL_TARGET.take _ (bits (ctrlWord tgt w) 27 3) % 2 ^ 3 = tgt
    rw [target]
    have narrow : tgt % 2 ^ 3 = tgt := Nat.mod_eq_of_lt (by omega)
    have ok : (Legal.range 0 5).ok (tgt % 2 ^ 3) = true := by
      rw [narrow]
      simp [Legal.ok, low]
    have taken (old : Nat) : PWR_CTRL_TARGET.take old tgt = tgt % 2 ^ 3 := if_pos ok
    rw [taken, narrow, narrow]
  · exact (State.rg_takeFields_any apart (by decide) rfl _ _).trans retain

/-- A request for a power state while the compute die is up. -/
theorem State.powerCmd_eq {tgt : Nat} (low : tgt ≤ 5) (on : s.pins.compute) (w train : Nat) :
    s.powerCmd tgt false w train = ((s.asked (ctrlWord tgt w)).powerRequest tgt 0 24).2 := by
  obtain ⟨go, -, -⟩ := ctrlWord_fields low w
  obtain ⟨target, -⟩ := State.asked_fields low s w
  have taken : s.powerCmd tgt false w train = s.pwrCtrl (ctrlWord tgt w) := (if_neg Bool.false_ne_true).trans (if_pos on)
  have ran : s.pwrCtrl (ctrlWord tgt w) =
      ((s.asked (ctrlWord tgt w)).powerRequest ((s.asked (ctrlWord tgt w)).rg PWR_CTRL_TARGET) 0 24).2 := if_pos go
  rw [taken, ran, target]

/-! ## Requests -/

/-- A request that something forbids is refused (R521). -/
theorem State.powerRequest_busy {tgt : Nat} (deeper : s.rg PWR_STATUS_STATE < tgt) (shallow : s.rg PWR_STATUS_STATE < 3)
    (busy : s.busyP1) (gate train : Nat) : (s.powerRequest tgt gate train).2 = s.wr PWR_CTRL_ERR 1 := by
  unfold State.powerRequest
  dsimp only
  rw [if_neg (by omega), if_neg (by omega), if_neg (by omega), if_pos ⟨shallow, .inl busy⟩]

/-- P1 and P2 show, and no more. -/
theorem State.powerRequest_light {tgt : Nat} (deeper : s.rg PWR_STATUS_STATE < tgt) (light : tgt ≤ 2) (idle : s.busyP1 = false)
    (gate train : Nat) : (s.powerRequest tgt gate train).2 = s.wr PWR_STATUS_STATE tgt := by
  unfold State.powerRequest
  dsimp only
  rw [if_neg (by omega), if_neg (by omega), if_neg (by omega), if_neg (by simp [idle]; omega), if_pos light]

/-- Deeper states are entered (R520). -/
theorem State.powerRequest_deep {tgt : Nat} (shallow : s.rg PWR_STATUS_STATE < 3) (deep : 3 ≤ tgt) (idle : s.busyP1 = false)
    (quiet : s.busyP3 = false) (gate train : Nat) : (s.powerRequest tgt gate train).2 = s.enterDeep tgt := by
  unfold State.powerRequest
  dsimp only
  rw [if_neg (by omega), if_neg (by omega), if_neg (by omega), if_neg (by simp [idle, quiet]), if_neg (by omega)]

/-! ## Entry of P3, P4 and P5 -/

/-- The compute die switched off on an entry, the relays in bypass. -/
def State.switchedOff (s : State) (seg cause : Nat) : State := ((s.wr DRAM_RETAIN_SEG seg).toBypass cause).computeOff seg

theorem State.switchedOff_spec (s : State) (seg cause : Nat) : (s.switchedOff seg cause).pins.compute = false ∧
    (s.switchedOff seg cause).pins.control = s.pins.control ∧ (s.switchedOff seg cause).rg RING_CAUSEWAY_BYPASS = 1 ∧
    (s.switchedOff seg cause).rg DRAM_RETAIN_SEG = seg % 2 ^ 8 ∧ (s.switchedOff seg cause).dict.precs = s.dict.precs ∧
    (s.switchedOff seg cause).mem = s.mem.filter (fun e => s.segKept seg e.1) := by
  obtain ⟨bypass, -⟩ := (s.wr DRAM_RETAIN_SEG seg).toBypass_bypasses cause
  have segs : ((s.wr DRAM_RETAIN_SEG seg).toBypass cause).rg DRAM_RETAIN_SEG = seg % 2 ^ 8 := by
    refine ite_of (P := fun u : State => u.rg DRAM_RETAIN_SEG = seg % 2 ^ 8) (fun _ => s.rg_wr_same ..) fun _ => ?_
    exact (State.rg_wrs_other (s.wr DRAM_RETAIN_SEG seg) (g := DRAM_RETAIN_SEG) (bypassWrites cause)
      (by simp only [bypassWrites, List.forall_mem_cons]; decide)).trans (s.rg_wr_same ..)
  obtain ⟨r, o, same⟩ := (s.wr DRAM_RETAIN_SEG seg).toBypass_eq cause
  unfold State.switchedOff
  rw [same] at bypass segs ⊢
  refine ⟨rfl, rfl, State.bypassed_computeOff bypass seg, ?_, rfl, rfl⟩
  obtain ⟨-, -, -, -, -, field⟩ := State.computeOff_spec { s.wr DRAM_RETAIN_SEG seg with regs := r, out := o } seg
  rw [field, if_pos (by decide), segs]

/-- No memory is written by a checkpoint. -/
theorem State.writeCheckpoint_mem (s : State) : s.writeCheckpoint.mem = s.mem := by
  have put (u : State) (e : LogEnt) : (u.logPut e).mem = u.mem := by
    unfold State.logPut
    extract_lets t
    split
    · exact ite_of (P := fun v : State => v.mem = u.mem) (fun _ => rfl) fun _ =>
        ite_of (P := fun v : State => v.mem = u.mem) (fun _ => rfl) fun _ => rfl
    · rfl
  rw [State.writeCheckpoint_eq]
  exact foldl_of (P := fun u : State => u.mem = s.mem) rfl fun u e h => (put u e).trans h

/-- The control die off, after its losses. -/
def State.controlOff (s : State) : State :=
  let u := (s.setAlert false).controlLost
  { u with pins := { u.pins with control := false, therm := false, thermal := 0 } }

/-- The control die switched off. -/
def State.bothOff (s : State) : State :=
  s.controlOff.wrs [(RING_CAUSEWAY_BYPASS, 1), (RING_CAUSEWAY_CAUSE, s.rg RING_CAUSEWAY_CAUSE), (PWR_STATUS_STATE, 5)]

/-- The compute die off on the way to state `tgt`, with a checkpoint before the deepest. -/
def State.darkened (s : State) (tgt : Nat) : State :=
  let u := s.switchedOff (if tgt = 3 then s.rg PWR_CTRL_RETAIN else 0) (if tgt = 3 then 8 else 5)
  if tgt = 3 then u else u.writeCheckpoint

theorem State.enterDeep_eq (shallow : s.rg PWR_STATUS_STATE < 3) (tgt : Nat) :
    s.enterDeep tgt = if tgt ≤ 4 then (s.darkened tgt).wr PWR_STATUS_STATE tgt else (s.darkened tgt).bothOff := by
  unfold State.enterDeep State.darkened State.switchedOff State.bothOff State.controlOff
  rw [decide_eq_true shallow]
  simp only [if_true]

theorem State.darkened_three (s : State) : s.darkened 3 = s.switchedOff (s.rg PWR_CTRL_RETAIN) 8 := rfl

theorem State.darkened_other {tgt : Nat} (other : tgt ≠ 3) : s.darkened tgt = (s.switchedOff 0 5).writeCheckpoint := by
  unfold State.darkened
  simp only [if_neg other]

/-- What an entry of P3 or deeper leaves before the state shows. -/
theorem State.darkened_spec (s : State) (tgt : Nat) : (s.darkened tgt).pins.compute = false ∧
    (s.darkened tgt).pins.control = s.pins.control ∧ (s.darkened tgt).rg RING_CAUSEWAY_BYPASS = 1 ∧
    (s.darkened tgt).dict.precs = s.dict.precs ∧
    (tgt = 3 → (s.darkened tgt).rg DRAM_RETAIN_SEG = s.rg PWR_CTRL_RETAIN % 2 ^ 8 ∧
      (s.darkened tgt).mem = s.mem.filter fun e => s.segKept (s.rg PWR_CTRL_RETAIN) e.1) ∧
    (tgt ≠ 3 → (s.darkened tgt).mem = []) := by
  rcases eq_or_ne tgt 3 with rfl | three
  · rw [State.darkened_three]
    obtain ⟨compute, control, bypass, segs, precs, mem⟩ := s.switchedOff_spec (s.rg PWR_CTRL_RETAIN) 8
    exact ⟨compute, control, bypass, precs, fun _ => ⟨segs, mem⟩, fun other => absurd rfl other⟩
  · rw [State.darkened_other three]
    obtain ⟨compute, control, bypass, -, precs, mem⟩ := s.switchedOff_spec 0 5
    have logged := (Logged.refl (s.switchedOff 0 5)).writeCheckpoint
    have kept := State.writeCheckpoint_mem (s.switchedOff 0 5)
    generalize s.switchedOff 0 5 = t at compute control bypass precs mem logged kept
    refine ⟨?_, ?_, (logged.field _ (by decide)).trans bypass, ?_, fun same => absurd same three, fun _ => ?_⟩
    · rw [logged.pins, compute]
    · rw [logged.pins, control]
    · rw [logged.dict, precs]
    · rw [kept, mem]
      exact List.filter_eq_nil_iff.2 fun e _ => by simp [State.segKept_none]

/-- What the control die switched off leaves. -/
theorem State.bothOff_spec (s : State) : s.bothOff.pins.compute = s.pins.compute ∧ s.bothOff.pins.control = false ∧
    s.bothOff.rg RING_CAUSEWAY_BYPASS = 1 ∧ s.bothOff.rg PWR_STATUS_STATE = 5 ∧ s.bothOff.mem = [] ∧
    s.bothOff.dict.precs = s.dict.precs := by
  have alert : (s.setAlert false).dict = s.dict ∧ (s.setAlert false).pins.compute = s.pins.compute :=
    ite_of (P := fun u : State => u.dict = s.dict ∧ u.pins.compute = s.pins.compute) (fun _ => ⟨rfl, rfl⟩) fun _ => ⟨rfl, rfl⟩
  unfold State.bothOff
  have off : s.controlOff.pins.compute = s.pins.compute ∧ s.controlOff.pins.control = false ∧ s.controlOff.mem = [] ∧
      s.controlOff.dict.precs = s.dict.precs :=
    ⟨alert.2, rfl, State.computeLost_mem (s.setAlert false), congrArg (fun x => x.precs) alert.1⟩
  generalize s.rg RING_CAUSEWAY_CAUSE = cause
  generalize s.controlOff = v at off ⊢
  have relay := v.rg_wrs_head (f := RING_CAUSEWAY_BYPASS) 1 [(RING_CAUSEWAY_CAUSE, cause), (PWR_STATUS_STATE, 5)] (by simp; decide)
  have state : (v.wrs [(RING_CAUSEWAY_BYPASS, 1), (RING_CAUSEWAY_CAUSE, cause), (PWR_STATUS_STATE, 5)]).rg PWR_STATUS_STATE = 5 :=
    State.rg_wr_same _ PWR_STATUS_STATE 5
  obtain ⟨compute, control, mem, precs⟩ := off
  exact ⟨compute, control, relay, state, mem, precs⟩

/-! ## Wakes -/

/-- An event flag shows, and the pins, memory and the loader stay. -/
theorem State.flag_spec (s : State) {ev : Fld} (one : ev.w = 1) (en : Fld) (v : Nat) : (s.flag ev en v).on ev ∧
    (s.flag ev en v).pins = s.pins ∧ (s.flag ev en v).mem = s.mem ∧ (s.flag ev en v).loader = s.loader := by
  have shown := s.on_wr_one one
  refine ite_of (P := fun u : State => u.on ev ∧ u.pins = s.pins ∧ u.mem = s.mem ∧ u.loader = s.loader) (fun _ => ?_)
    fun _ => ⟨shown, rfl, rfl, rfl⟩
  have raised := State.rg_raise (s.wr ev 1) v ev
  obtain ⟨p, o, same⟩ := (s.wr ev 1).raise_eq v
  refine ⟨(State.on_congr raised).trans shown, ?_⟩
  rw [same]
  exact ⟨rfl, rfl, rfl⟩

theorem State.awake_spec (s : State) (cause : Nat) : (s.awake cause).rg PWR_STATUS_STATE = 0 ∧
    (s.awake cause).rg PWR_STATUS_CAUSE = cause % 2 ^ 3 ∧ (s.awake cause).on PWR_EVENT_WAKE ∧ (s.awake cause).pins = s.pins ∧
    (s.awake cause).mem = s.mem ∧ (s.awake cause).loader = s.loader ∧ (s.awake cause).rg GC_STATUS_PHASE = s.rg GC_STATUS_PHASE := by
  have flagged {f : Fld} (apart : f.key ≠ PWR_EVENT_WAKE.key) :
      (s.awake cause).rg f = (s.wrs [(PWR_STATUS_STATE, 0), (PWR_STATUS_CAUSE, cause)]).rg f := State.rg_flag apart ..
  have state := s.rg_wrs_head (f := PWR_STATUS_STATE) 0 [(PWR_STATUS_CAUSE, cause)] (by simp; decide)
  have shown : (s.wrs [(PWR_STATUS_STATE, 0), (PWR_STATUS_CAUSE, cause)]).rg PWR_STATUS_CAUSE = cause % 2 ^ 3 := State.rg_wr_same ..
  have phase := s.rg_wrs_other (g := GC_STATUS_PHASE) [(PWR_STATUS_STATE, 0), (PWR_STATUS_CAUSE, cause)] (by simp; decide)
  obtain ⟨event, rest⟩ := State.flag_spec (s.wrs [(PWR_STATUS_STATE, 0), (PWR_STATUS_CAUSE, cause)]) (ev := PWR_EVENT_WAKE) rfl
    PWR_EVENT_EN_WAKE 12
  obtain ⟨pins, mem, loader⟩ := rest
  exact ⟨(flagged (by decide)).trans state, (flagged (by decide)).trans shown, event, pins, mem, loader,
    (flagged (by decide)).trans phase⟩

/-- A wake that is not ignored completes in P0; from P3 with 12 V the compute die has started (R523, R524). -/
theorem State.wake_awakes (asleep : s.rg PWR_STATUS_STATE ≠ 0) (cool : s.pins.thermal ≠ 1) (cause train : Nat) (bad : List Nat) :
    ∃ t : State, s.wake cause train bad = t.awake cause ∧ (s.rg PWR_STATUS_STATE < 3 → t = s) ∧
      (s.rg PWR_STATUS_STATE = 3 → s.pins.v12 → t.pins.compute ∧ (train = 24 → t.rg GC_STATUS_PHASE = 1)) := by
  unfold State.wake
  extract_lets st u
  rw [if_neg (not_or.2 ⟨asleep, cool⟩)]
  by_cases light : st ≤ 2
  · rw [if_pos light]
    exact ⟨s, rfl, fun _ => rfl, fun three => by omega⟩
  · rw [if_neg light]
    by_cases five : st = 5
    · rw [if_pos five]
      exact ⟨_, rfl, fun _ => by omega, fun three => by omega⟩
    · rw [if_neg five]
      refine ⟨_, rfl, fun _ => by omega, fun _ v12 => ?_⟩
      have noted : Logged s u := ite_of (P := Logged s) (fun _ => ((Logged.refl s).count 3).logEntry ..) fun _ => .refl s
      have power : u.pins.v12 := noted.pins ▸ v12
      rw [if_pos power]
      have booted := Booted.startCompute (s := u) (Booted.refl _) true train []
      refine ⟨booted.compute, fun trained => ?_⟩
      rw [trained]
      exact (u.startCompute_ready true []).1

/-! ## The commands -/

/-- A request for P1 or P2 that nothing forbids (R521). -/
theorem State.powerCmd_light {tgt : Nat} (light : tgt ≤ 2) (on : s.pins.compute) (deeper : s.rg PWR_STATUS_STATE < tgt)
    (idle : s.busyP1 = false) (w train : Nat) : (s.powerCmd tgt false w train).rg PWR_STATUS_STATE = tgt ∧
      (s.powerCmd tgt false w train).mem = s.mem ∧ (s.powerCmd tgt false w train).stns = s.stns ∧
      (s.powerCmd tgt false w train).loader = s.loader ∧ (s.powerCmd tgt false w train).pins = s.pins := by
  have asked := Asked.asked s (ctrlWord tgt w)
  rw [State.powerCmd_eq (by omega) on,
    State.powerRequest_light (asked.state.symm ▸ deeper) light (asked.busyP1.trans idle)]
  have state := (s.asked (ctrlWord tgt w)).rg_wr_same PWR_STATUS_STATE tgt
  obtain ⟨r, same⟩ := asked.rest
  refine ⟨state.trans (Nat.mod_eq_of_lt (Nat.lt_of_le_of_lt light (by decide))), ?_⟩
  rw [same]
  exact ⟨rfl, rfl, rfl, rfl⟩

/-- The state a request leaves is as before but for `PWR.CTRL`. -/
theorem Asked.same {a s : State} (h : Asked a s) : s.pins = a.pins ∧ s.mem = a.mem ∧ s.stns = a.stns ∧ s.loader = a.loader ∧
    s.dict = a.dict ∧ s.fac = a.fac := by
  obtain ⟨-, r, rfl⟩ := h
  exact ⟨rfl, rfl, rfl, rfl, rfl, rfl⟩

/-- A request for P3 or P4 that nothing forbids (R520, R521). -/
theorem State.powerCmd_deep {tgt : Nat} (deep : 3 ≤ tgt) (low : tgt ≤ 4) (on : s.pins.compute) (shallow : s.rg PWR_STATUS_STATE < 3)
    (idle : s.busyP1 = false) (quiet : s.busyP3 = false) (w train : Nat) :
    (s.powerCmd tgt false w train).rg PWR_STATUS_STATE = tgt ∧ (s.powerCmd tgt false w train).pins.compute = false ∧
      (s.powerCmd tgt false w train).pins.control = s.pins.control ∧ (s.powerCmd tgt false w train).rg RING_CAUSEWAY_BYPASS = 1 ∧
      (tgt = 3 → (s.powerCmd tgt false w train).rg DRAM_RETAIN_SEG = bits w 16 8 ∧
        (s.powerCmd tgt false w train).mem = s.mem.filter fun e => s.segKept (bits w 16 8) e.1) ∧
      (tgt ≠ 3 → (s.powerCmd tgt false w train).mem = []) := by
  have asked := Asked.asked s (ctrlWord tgt w)
  obtain ⟨-, retain⟩ := State.asked_fields (tgt := tgt) (by omega) s w
  have there : (s.asked (ctrlWord tgt w)).rg PWR_STATUS_STATE < 3 := asked.state.symm ▸ shallow
  rw [State.powerCmd_eq (by omega) on, State.powerRequest_deep there deep (asked.busyP1.trans idle) (asked.busyP3.trans quiet),
    State.enterDeep_eq there, if_pos low]
  obtain ⟨pins, mem, -, -, -, fac⟩ := asked.same
  obtain ⟨compute, control, bypass, -, three, other⟩ := (s.asked (ctrlWord tgt w)).darkened_spec tgt
  rw [retain, mem] at three
  rw [pins] at control
  generalize (s.asked (ctrlWord tgt w)).darkened tgt = u at compute control bypass three other
  have state : (u.wr PWR_STATUS_STATE tgt).rg PWR_STATUS_STATE = tgt :=
    (u.rg_wr_same PWR_STATUS_STATE tgt).trans (Nat.mod_eq_of_lt (Nat.lt_of_le_of_lt low (by decide)))
  have kept {f : Fld} (apart : f.key ≠ PWR_STATUS_STATE.key) : (u.wr PWR_STATUS_STATE tgt).rg f = u.rg f := u.rg_wr_other apart tgt
  refine ⟨state, compute, control, (kept (by decide)).trans bypass, fun same => ?_, other⟩
  obtain ⟨segs, bytes⟩ := three same
  refine ⟨(kept (by decide)).trans (segs.trans (Nat.mod_mod ..)), bytes.trans ?_⟩
  have segment (a : Nat) : (s.asked (ctrlWord tgt w)).segKept (bits w 16 8) a = s.segKept (bits w 16 8) a := by
    unfold State.segKept State.dramSize
    rw [fac]
  simp only [segment]

/-- A request for P5 that nothing forbids (R520, R521). -/
theorem State.powerCmd_five (on : s.pins.compute) (shallow : s.rg PWR_STATUS_STATE < 3) (idle : s.busyP1 = false)
    (quiet : s.busyP3 = false) (w train : Nat) : (s.powerCmd 5 false w train).rg PWR_STATUS_STATE = 5 ∧
      (s.powerCmd 5 false w train).pins.compute = false ∧ (s.powerCmd 5 false w train).pins.control = false ∧
      (s.powerCmd 5 false w train).rg RING_CAUSEWAY_BYPASS = 1 ∧ (s.powerCmd 5 false w train).mem = [] ∧
      (s.powerCmd 5 false w train).dict.precs = s.dict.precs := by
  have asked := Asked.asked s (ctrlWord 5 w)
  have there : (s.asked (ctrlWord 5 w)).rg PWR_STATUS_STATE < 3 := asked.state.symm ▸ shallow
  rw [State.powerCmd_eq (by decide) on,
    State.powerRequest_deep there (by decide) (asked.busyP1.trans idle) (asked.busyP3.trans quiet), State.enterDeep_eq there,
    if_neg (by decide)]
  obtain ⟨-, -, -, -, dict, -⟩ := asked.same
  obtain ⟨dark, -, -, kept, -, -⟩ := (s.asked (ctrlWord 5 w)).darkened_spec 5
  obtain ⟨compute, control, bypass, state, mem, precs⟩ := ((s.asked (ctrlWord 5 w)).darkened 5).bothOff_spec
  exact ⟨state, compute.trans dark, control, bypass, mem, precs.trans (kept.trans (congrArg (fun x => x.precs) dict))⟩

/-- A request that tides or transfers forbid (R521). -/
theorem State.powerCmd_busy {tgt : Nat} (low : tgt ≤ 5) (on : s.pins.compute) (shallow : s.rg PWR_STATUS_STATE < 3)
    (deeper : s.rg PWR_STATUS_STATE < tgt) (busy : s.busyP1) (w train : Nat) :
    (s.powerCmd tgt false w train).rg PWR_STATUS_STATE = s.rg PWR_STATUS_STATE ∧ (s.powerCmd tgt false w train).on PWR_CTRL_ERR ∧
      (s.powerCmd tgt false w train).pins = s.pins ∧ (s.powerCmd tgt false w train).mem = s.mem ∧
      (s.powerCmd tgt false w train).stns = s.stns := by
  have asked := Asked.asked s (ctrlWord tgt w)
  rw [State.powerCmd_eq low on, State.powerRequest_busy (asked.state.symm ▸ deeper) (asked.state.symm ▸ shallow)
    (asked.busyP1.trans busy)]
  have state := ((s.asked (ctrlWord tgt w)).rg_wr_other (f := PWR_CTRL_ERR) (g := PWR_STATUS_STATE) (by decide) 1).trans asked.state
  have err := (s.asked (ctrlWord tgt w)).on_wr_one (f := PWR_CTRL_ERR) rfl
  refine ⟨state, err, ?_⟩
  obtain ⟨r, same⟩ := asked.rest
  rw [same]
  exact ⟨rfl, rfl, rfl⟩

/-- A write of `PWR.CTRL` for P0 (R523). -/
theorem State.powerCmd_wake (on : s.pins.compute) (w train : Nat) : ∃ t, Asked s t ∧ s.powerCmd 0 false w train =
    if bit (s.rg PWR_WAKE_EN) 0 then t.wake 2 24 [] else t := by
  have asked := Asked.asked s (ctrlWord 0 w)
  refine ⟨s.asked (ctrlWord 0 w), asked, ?_⟩
  rw [State.powerCmd_eq (by decide) on, ← asked.field PWR_WAKE_EN (by decide)]
  rfl

/-- Settles O52: each entry and its refusal, then the wakes. -/
theorem powerLadder : Obligations.PowerLadder := by
  refine ⟨fun s w seg on shallow hseg => ⟨fun idle p0 => ⟨_, rfl, State.powerCmd_light (by decide) on (by omega) idle w.toNat 24⟩,
    fun idle lighter => ⟨_, rfl, State.powerCmd_light (by decide) on lighter idle w.toNat 24⟩,
    fun idle quiet => ⟨?_, ?_, ?_⟩, fun busy => ⟨fun p0 => ?_, fun c hc => ?_⟩⟩,
    fun s asleep => ⟨fun sb mrst => ⟨fun cool train bad => ?_, fun hot train bad => ?_⟩, fun on cool shallow w train => ⟨fun en => ?_, fun dis => ?_⟩⟩⟩
  · obtain ⟨state, compute, control, bypass, three, -⟩ :=
      State.powerCmd_deep (tgt := 3) (by decide) (by decide) on shallow idle quiet w.toNat 24
    obtain ⟨segs, mem⟩ := three rfl
    refine ⟨_, rfl, state, by rw [compute]; exact Bool.false_ne_true, control, beq_iff_eq.2 bypass, segs.trans hseg.symm, fun a => ?_⟩
    rw [mem, ← hseg]
    exact KMap.get_filter s.mem (fun k => s.segKept seg k) a 0#8
  · obtain ⟨state, compute, control, bypass, -, other⟩ :=
      State.powerCmd_deep (tgt := 4) (by decide) (by decide) on shallow idle quiet w.toNat 24
    exact ⟨_, rfl, state, by rw [compute]; exact Bool.false_ne_true, control, beq_iff_eq.2 bypass, other (by decide)⟩
  · obtain ⟨state, compute, control, bypass, mem, precs⟩ := State.powerCmd_five on shallow idle quiet w.toNat 24
    exact ⟨_, rfl, state, by rw [compute]; exact Bool.false_ne_true, by rw [control]; exact Bool.false_ne_true, beq_iff_eq.2 bypass,
      mem, precs⟩
  · obtain ⟨state, err, -, mem, -⟩ := State.powerCmd_busy (tgt := 1) (by decide) on shallow (by omega) busy w.toNat 24
    exact ⟨_, rfl, state.trans p0, err, mem⟩
  · have refused {tgt : Nat} (deep : 3 ≤ tgt) (low : tgt ≤ 5) := State.powerCmd_busy low on shallow (by omega) busy w.toNat 24
    simp only [List.mem_cons, List.not_mem_nil, or_false] at hc
    rcases hc with rfl | rfl | rfl
    · exact ⟨_, rfl, refused (tgt := 3) (by decide) (by decide)⟩
    · exact ⟨_, rfl, refused (tgt := 4) (by decide) (by decide)⟩
    · exact ⟨_, rfl, refused (tgt := 5) (by decide) (by decide)⟩
  · obtain ⟨t, woke, -, started⟩ := State.wake_awakes asleep cool 1 train.val bad
    obtain ⟨state, cause, event, pins, -, -, phase⟩ := t.awake_spec 1
    have went : execWakeNFall train bad s = .next (t.awake 1) :=
      congrArg Host.Outcome.next ((if_pos ⟨sb, by rw [mrst]; exact Bool.false_ne_true⟩).trans woke)
    refine ⟨_, went, state, cause, event, fun three v12 => ?_⟩
    obtain ⟨compute, ready⟩ := started three v12
    exact ⟨by rw [pins]; exact compute, fun trained => phase.trans (ready trained)⟩
  · refine congrArg Host.Outcome.next ((if_pos ⟨sb, by rw [mrst]; exact Bool.false_ne_true⟩).trans (if_pos (.inr hot)))
  · obtain ⟨t, asked, went⟩ := State.powerCmd_wake on w.toNat train.val
    rw [if_pos en] at went
    obtain ⟨pins, mem, -, loader, -, -⟩ := asked.same
    obtain ⟨u, woke, light, -⟩ := State.wake_awakes (s := t) (asked.state.symm ▸ asleep) (pins.symm ▸ cool) 2 24 []
    obtain rfl := light (asked.state.symm ▸ shallow)
    obtain ⟨state, cause, event, -, mem', loader', -⟩ := u.awake_spec 2
    exact ⟨_, congrArg Host.Outcome.next (went.trans woke), state, cause, event, mem'.trans mem, loader'.trans loader⟩
  · obtain ⟨t, asked, went⟩ := State.powerCmd_wake on w.toNat train.val
    rw [if_neg (by rw [dis]; exact Bool.false_ne_true)] at went
    obtain ⟨-, -, -, loader, -, -⟩ := asked.same
    exact ⟨_, congrArg Host.Outcome.next went, asked.state, loader⟩

end Sys2Proof.Machine
end

section
/-! CERTIFICATE. Audio samples, the loss and return of their clock, AES67 packets (O37, R392 to R400, R423, R424). -/

namespace Sys2Proof.Machine

variable {s : State}

/-! ## Bytes inside a string stored -/

theorem KMap.bytes_add (m : KMap Byte) (a n k : Nat) : m.bytes a (n + k) = m.bytes a n ++ m.bytes (a + n) k := by
  induction n generalizing a with
  | zero => rw [Nat.zero_add]; rfl
  | succ n ih => rw [Nat.succ_add, KMap.bytes, KMap.bytes, ih, List.cons_append, Nat.add_assoc a 1 n, Nat.add_comm 1 n]

/-- A part of a string stored reads back. -/
theorem KMap.bytes_store_part (m : KMap Byte) (a : Nat) (x y z : List Byte) :
    (m.store a (x ++ y ++ z)).bytes (a + x.length) y.length = y := by
  have whole := KMap.bytes_store (x ++ y ++ z) m a
  rw [List.length_append, List.length_append, Nat.add_assoc, KMap.bytes_add, KMap.bytes_add, List.append_assoc] at whole
  have cut := (List.append_inj whole (by rw [length_bytes])).2
  rw [List.append_assoc]
  exact (List.append_inj cut (by rw [length_bytes])).1

/-- A number patched into a row of 512 bytes reads back. -/
theorem State.ldN_patch {u : State} {a o v : Nat} {l : List Byte} (full : l.length = 512) (inside : o + 4 ≤ 512) (low : v < 2 ^ 32)
    (row : u.mem = (s.st a (fitTo 512 (patch l o (natLE 4 v)))).mem) : u.ldN (a + o) 4 = v := by
  have cut : (l.take o).length = o := by rw [List.length_take]; omega
  have len : (patch l o (natLE 4 v)).length = 512 := by
    rw [patch, List.length_append, List.length_append, cut, length_natLE, List.length_drop]
    omega
  have read := KMap.bytes_store_part s.mem a (l.take o) (natLE 4 v) (l.drop (o + (natLE 4 v).length))
  rw [fitTo_of_length len] at row
  rw [cut, length_natLE] at read
  rw [State.ldN, State.ld, row]
  refine (congrArg leNat read).trans ((leNat_natLE 4 v).trans (Nat.mod_eq_of_lt low))

/-- A word cut to its length is no larger. -/
theorem topBits_le (wl w : Nat) : topBits wl w ≤ w := Nat.div_mul_le_self ..

/-! ## Samples -/

/-- From `a` to `s` rows of stations have been written, no more. -/
def RowsWritten (a s : State) : Prop := ∃ m e, s = { a with mem := m, ecc := e }

theorem RowsWritten.writeRow {a s : State} (h : RowsWritten a s) (t p m row : Nat) (b : List Byte) :
    RowsWritten a (s.writeRow t p m row b) := by
  obtain ⟨mem, ecc, rfl⟩ := h
  exact ite_of (P := RowsWritten a) (fun _ => ⟨_, _, rfl⟩) fun _ => ⟨_, _, rfl⟩

/-- A sample stored writes rows alone (R394). -/
theorem State.audStore_rows (s : State) (p slot f w : Nat) : RowsWritten s (s.audStore p slot f w) := by
  have start : RowsWritten s s := ⟨s.mem, s.ecc, rfl⟩
  refine ite_of (P := RowsWritten s) (fun _ => start) fun _ => ?_
  refine List.foldlRecOn (motive := RowsWritten s) _ _ start fun u h b _ => ?_
  exact ite_of (P := RowsWritten s) (fun _ => h.writeRow ..) fun _ => h

/-- The place of a sample lies in its row (R394). -/
theorem AudBind.placeOf_inside (b : AudBind) (f c : Nat) : (b.placeOf f c).2 + 4 ≤ 512 := by
  show 4 * (32 * (c % 4) + f % 32) + 4 ≤ 512
  omega

/-- A sample that one binding carries stands in its row (R393, R394). -/
theorem State.audStore_one {p slot f w : Nat} {b : AudBind} (binds : (s.audIn p).binds = [b]) (en : b.en = true)
    (above : b.ch0 ≤ slot) (below : slot < b.ch0 + b.nch) (inside : f < s.aud.n) (phase : s.rg (TAKE_STATUS_PHASE b.t) ≠ 2)
    (low : w < 2 ^ 32) : let q := b.placeOf f (slot - b.ch0)
    let k := s.heldNext (b.slot + 2 * (q.1 / 8))
    (s.audStore p slot f w).ldN (rowAddr b.t b.p (s.rg (SLOT_CFG_MEM b.t b.p k)) (s.rg (SLOT_CFG_BASE b.t b.p k) + q.1 % 8) + q.2) 4
      = w := by
  intro q k
  have stored : s.audStore p slot f w = s.slotRow b.t b.p k (q.1 % 8)
      (patch (s.ld (rowAddr b.t b.p (s.rg (SLOT_CFG_MEM b.t b.p k)) (s.rg (SLOT_CFG_BASE b.t b.p k) + q.1 % 8)) 512) q.2
        (natLE 4 w)) := by
    unfold State.audStore
    rw [if_neg (by omega), binds]
    exact if_pos ⟨en, above, below⟩
  rw [stored, State.slotRow, State.writeRow_single phase]
  exact State.ldN_patch (s := s) (length_bytes ..) (b.placeOf_inside ..) low rfl

/-- The edge of a frame, which port 0 counts with its last slot (R392). -/
def State.audEdge (s : State) (p : Nat) (last : Prop) [Decidable last] (nxt : Bool) : State :=
  if last ∧ p = 0 then
    { s with aud := { s.aud with afs := s.aud.afs + b2n (!nxt), nafs := s.aud.nafs + b2n nxt } }
  else s

/-- The frame counted with its last slot. -/
def State.audFramed (s : State) (p : Nat) (last : Prop) [Decidable last] (nxt : Bool) : State :=
  if last then (s.audEdge p last nxt).bump (AUD_IN_FRAMES p) else s.audEdge p last nxt

/-- What the count of a frame leaves. -/
structure Framed (p : Nat) (s u : State) : Prop where
  field : ∀ f : Fld, f.key ≠ (AUD_IN_FRAMES p).key → u.rg f = s.rg f
  mem : u.mem = s.mem
  ins : u.aud.ins = s.aud.ins
  n : u.aud.n = s.aud.n

theorem State.audEdge_frame (s : State) (p : Nat) (last : Prop) [Decidable last] (nxt : Bool) :
    ∃ a, s.audEdge p last nxt = { s with aud := a } ∧ a.ins = s.aud.ins ∧ a.n = s.aud.n :=
  ite_of (P := fun t : State => ∃ a, t = { s with aud := a } ∧ a.ins = s.aud.ins ∧ a.n = s.aud.n) (fun _ => ⟨_, rfl, rfl, rfl⟩)
    fun _ => ⟨s.aud, rfl, rfl, rfl⟩

theorem State.audFramed_spec (s : State) (p : Nat) (last : Prop) [Decidable last] (nxt : Bool) :
    Framed p s (s.audFramed p last nxt) ∧
      (last → (s.audFramed p last nxt).rg (AUD_IN_FRAMES p) = (s.rg (AUD_IN_FRAMES p) + 1) % 2 ^ 64) := by
  obtain ⟨a, edge, ins, n⟩ := s.audEdge_frame p last nxt
  unfold State.audFramed
  rw [edge]
  by_cases ends : last
  · rw [if_pos ends]
    exact ⟨⟨fun f apart => State.rg_wr_other _ apart _, rfl, ins, n⟩, fun _ => State.rg_bump_same _ (AUD_IN_FRAMES p) 1⟩
  · rw [if_neg ends]
    exact ⟨⟨fun f _ => rfl, rfl, ins, n⟩, fun bad => absurd bad ends⟩

/-- An input's state after a sample of the next tide. -/
def AudIn.early (i : AudIn) (slot v n : Nat) (st : List Byte) : AudIn :=
  { i with carry := i.carry ++ [(slot, i.ncnt, v)], nstamp := i.nstamp.orElse fun _ => some st, ncnt := i.ncnt + n }

/-- An input's state after a sample of the current tide. -/
def AudIn.timely (i : AudIn) (n : Nat) (st : List Byte) : AudIn :=
  { i with stamp := i.stamp.orElse fun _ => some st, cnt := i.cnt + n }

theorem State.audIn_congr {s t : State} (same : t.aud.ins = s.aud.ins) (p : Nat) : t.audIn p = s.audIn p := by
  rw [State.audIn, same, State.audIn]

theorem State.audIn_onIn (s : State) (p : Nat) (f : AudIn → AudIn) : (s.onIn p f).audIn p = f (s.audIn p) := KMap.get_set_same ..

/-- A sample taken, once the edge of its frame is counted. -/
def State.audTake (s : State) (p slot w : Nat) (nxt : Bool) (last : Prop) [Decidable last] : State :=
  if ¬ (s.audIn p).on then s
  else
    let u := if last then s.bump (AUD_IN_FRAMES p) else s
    if nxt then u.onIn p fun i => i.early slot (topBits (s.audIn p).wl w) (if last then 1 else 0) s.stamp.bytes
    else (u.audStore p slot (s.audIn p).cnt (topBits (s.audIn p).wl w)).onIn p fun i => i.timely (if last then 1 else 0) s.stamp.bytes

/-- A sample that an enabled input takes (R392). -/
theorem State.audSample_eq {p slot w : Nat} {nxt : Bool} (on : s.aud.on) (clocked : s.aud.n ≠ 0) (live : ¬ s.on AUD_CLK_LOST)
    (inside : slot < 2 ^ s.rg AUD_CLK_SLOTS) (taking : (s.audIn p).on) :
    s.audSample p slot w nxt = if nxt
      then (s.audFramed p (slot + 1 = 2 ^ s.rg AUD_CLK_SLOTS) nxt).onIn p fun i =>
        i.early slot (topBits (s.audIn p).wl w) (if slot + 1 = 2 ^ s.rg AUD_CLK_SLOTS then 1 else 0) s.stamp.bytes
      else ((s.audFramed p (slot + 1 = 2 ^ s.rg AUD_CLK_SLOTS) nxt).audStore p slot (s.audIn p).cnt (topBits (s.audIn p).wl w)).onIn p
        fun i => i.timely (if slot + 1 = 2 ^ s.rg AUD_CLK_SLOTS then 1 else 0) s.stamp.bytes := by
  have closed : ¬ (¬ s.aud.on = true ∨ s.aud.n = 0 ∨ s.on AUD_CLK_LOST = true ∨ 2 ^ s.rg AUD_CLK_SLOTS ≤ slot) := by
    simp only [not_or, not_not, not_le]
    exact ⟨on, clocked, live, inside⟩
  obtain ⟨a, edge, ins, n⟩ := s.audEdge_frame p (slot + 1 = 2 ^ s.rg AUD_CLK_SLOTS) nxt
  have input : (s.audEdge p (slot + 1 = 2 ^ s.rg AUD_CLK_SLOTS) nxt).audIn p = s.audIn p :=
    State.audIn_congr (congrArg (fun t : State => t.aud.ins) edge |>.trans ins) p
  have stamp : (s.audEdge p (slot + 1 = 2 ^ s.rg AUD_CLK_SLOTS) nxt).stamp = s.stamp := by rw [edge]; rfl
  have went : s.audSample p slot w nxt = (s.audEdge p (slot + 1 = 2 ^ s.rg AUD_CLK_SLOTS) nxt).audTake p slot w nxt
      (slot + 1 = 2 ^ s.rg AUD_CLK_SLOTS) := if_neg closed
  rw [went, State.audTake, input, stamp, if_neg (not_not_intro taking)]
  rfl

/-- A sample of the next tide waits for it (R392). -/
theorem State.audSample_next {p slot w : Nat} (on : s.aud.on) (clocked : s.aud.n ≠ 0) (live : ¬ s.on AUD_CLK_LOST)
    (inside : slot < 2 ^ s.rg AUD_CLK_SLOTS) (taking : (s.audIn p).on) : (s.audSample p slot w true).mem = s.mem ∧
      (s.audSample p slot w true).audIn p = (s.audIn p).early slot (topBits (s.audIn p).wl w)
        (if slot + 1 = 2 ^ s.rg AUD_CLK_SLOTS then 1 else 0) s.stamp.bytes := by
  obtain ⟨framed, -⟩ := s.audFramed_spec p (slot + 1 = 2 ^ s.rg AUD_CLK_SLOTS) true
  rw [State.audSample_eq on clocked live inside taking, if_pos rfl, State.audIn_onIn, State.audIn_congr framed.ins]
  exact ⟨framed.mem, rfl⟩

/-- A sample of the current tide is counted and stored (R393). -/
theorem State.audSample_now {p slot w : Nat} (on : s.aud.on) (clocked : s.aud.n ≠ 0) (live : ¬ s.on AUD_CLK_LOST)
    (inside : slot < 2 ^ s.rg AUD_CLK_SLOTS) (taking : (s.audIn p).on) : ∃ u, Framed p s u ∧
      (slot + 1 = 2 ^ s.rg AUD_CLK_SLOTS → u.rg (AUD_IN_FRAMES p) = (s.rg (AUD_IN_FRAMES p) + 1) % 2 ^ 64) ∧
      (s.audSample p slot w false).mem = (u.audStore p slot (s.audIn p).cnt (topBits (s.audIn p).wl w)).mem ∧
      (s.audSample p slot w false).regs = u.regs ∧
      (s.audSample p slot w false).audIn p = (s.audIn p).timely (if slot + 1 = 2 ^ s.rg AUD_CLK_SLOTS then 1 else 0) s.stamp.bytes := by
  obtain ⟨framed, frames⟩ := s.audFramed_spec p (slot + 1 = 2 ^ s.rg AUD_CLK_SLOTS) false
  rw [State.audSample_eq on clocked live inside taking, if_neg Bool.false_ne_true, State.audIn_onIn]
  generalize s.audFramed p (slot + 1 = 2 ^ s.rg AUD_CLK_SLOTS) false = u at framed frames
  refine ⟨u, framed, frames, rfl, ?_⟩
  obtain ⟨m, e, stored⟩ := u.audStore_rows p slot (s.audIn p).cnt (topBits (s.audIn p).wl w)
  rw [stored]
  exact ⟨rfl, congrArg (fun i => AudIn.timely i _ _) (State.audIn_congr framed.ins p)⟩

/-- A sample of the current tide that one binding carries stands in its row (R393, R394). -/
theorem State.audSample_stored {p slot w : Nat} {b : AudBind} (port : p < 8) (on : s.aud.on) (clocked : s.aud.n ≠ 0)
    (live : ¬ s.on AUD_CLK_LOST) (inside : slot < 2 ^ s.rg AUD_CLK_SLOTS) (taking : (s.audIn p).on)
    (binds : (s.audIn p).binds = [b]) (en : b.en = true) (above : b.ch0 ≤ slot) (below : slot < b.ch0 + b.nch)
    (count : (s.audIn p).cnt < s.aud.n) (phase : s.rg (TAKE_STATUS_PHASE b.t) ≠ 2) (word : w < 2 ^ 32) :
    let q := b.placeOf (s.audIn p).cnt (slot - b.ch0)
    let k := s.heldNext (b.slot + 2 * (q.1 / 8))
    (s.audSample p slot w false).ldN (rowAddr b.t b.p (s.rg (SLOT_CFG_MEM b.t b.p k)) (s.rg (SLOT_CFG_BASE b.t b.p k) + q.1 % 8) + q.2) 4
      = topBits (s.audIn p).wl w := by
  intro q k
  obtain ⟨u, framed, -, mem, -, -⟩ := State.audSample_now (w := w) on clocked live inside taking
  have input := State.audIn_congr framed.ins p
  have tide : u.rg TIDE_NUM = s.rg TIDE_NUM := by
    refine framed.field _ (Fld.key_ne_of_off (by decide) (by exact (by decide : 0 < 32)) ?_)
    show 0x100020 ≠ 0xa00118 + 0x40 * p
    omega
  have config {f : Fld} (low : f.lo < 32) (far : 0x1000000 ≤ f.off) : u.rg f = s.rg f := by
    refine framed.field _ (Fld.key_ne_of_off low (by exact (by decide : 0 < 32)) ?_)
    show f.off ≠ 0xa00118 + 0x40 * p
    omega
  have next (j : Nat) : u.heldNext j = s.heldNext j := by rw [State.heldNext, tide, State.heldNext]
  have mems (j : Nat) : u.rg (SLOT_CFG_MEM b.t b.p j) = s.rg (SLOT_CFG_MEM b.t b.p j) := by
    refine config (by exact (by decide : 29 < 32)) ?_
    show 0x1000000 ≤ 0x1000000 + b.t * 0x200000 + b.p * 0x10000 + 0xc00 + 0x8 * j
    omega
  have bases (j : Nat) : u.rg (SLOT_CFG_BASE b.t b.p j) = s.rg (SLOT_CFG_BASE b.t b.p j) := by
    refine config (by exact (by decide : 0 < 32)) ?_
    show 0x1000000 ≤ 0x1000000 + b.t * 0x200000 + b.p * 0x10000 + 0xc00 + 0x8 * j
    omega
  have phases : u.rg (TAKE_STATUS_PHASE b.t) = s.rg (TAKE_STATUS_PHASE b.t) := by
    refine config (by exact (by decide : 30 < 32)) ?_
    show 0x1000000 ≤ 0x1000000 + b.t * 0x200000 + 0x180000 + 0x44
    omega
  have stored := State.audStore_one (s := u) (p := p) (f := (s.audIn p).cnt) (w := topBits (s.audIn p).wl w) (by rw [input]; exact binds)
    en above below (by rw [framed.n]; exact count) (by rw [phases]; exact phase) (Nat.lt_of_le_of_lt (topBits_le ..) word)
  dsimp only at stored
  rw [next, mems, bases] at stored
  exact (State.ldN_congr mem ..).trans stored

/-! ## The clock -/

/-- An enabled input that has lost its clock. -/
def AudIn.losing (i : AudIn) : AudIn := if i.on then { i with lost := true } else i

/-- Each of the inputs in `l` has lost its clock; nothing but inputs changes. -/
theorem State.foldl_losing (l : List Nat) (s : State) : let u := l.foldl (fun s p => s.onIn p AudIn.losing) s
    u.regs = s.regs ∧ u.aud.wait = s.aud.wait ∧
      ∀ k, (s.audIn k).on → (u.audIn k).on ∧ (k ∈ l ∨ (s.audIn k).lost = true → (u.audIn k).lost = true) := by
  induction l generalizing s with
  | nil => exact ⟨rfl, rfl, fun k on => ⟨on, fun h => h.resolve_left List.not_mem_nil⟩⟩
  | cons p l ih =>
    obtain ⟨regs, wait, each⟩ := ih (s.onIn p AudIn.losing)
    refine ⟨regs, wait, fun k on => ?_⟩
    by_cases same : k = p
    · subst same
      have lost : (s.onIn k AudIn.losing).audIn k = { s.audIn k with lost := true } := (s.audIn_onIn k _).trans (if_pos on)
      obtain ⟨on', gone⟩ := each k (by rw [lost]; exact on)
      exact ⟨on', fun _ => gone (.inr (by rw [lost]))⟩
    · have other : (s.onIn p AudIn.losing).audIn k = s.audIn k := KMap.get_set_other _ same _ _ _
      obtain ⟨on', gone⟩ := each k (by rw [other]; exact on)
      refine ⟨on', fun h => gone (h.imp (fun mem => ?_) fun lost => by rw [other]; exact lost)⟩
      exact (List.mem_cons.1 mem).resolve_left same

/-- The audio block waits for its clock. -/
def State.awaiting (s : State) : State := { s with aud := { s.aud with wait := true } }

/-- The carrier's clock is lost (R400). -/
theorem State.audLost_spec (carried : ¬ s.on AUD_CLK_DRIVE) (on : s.aud.on) (live : ¬ s.on AUD_CLK_LOST) :
    s.audLost.on AUD_CLK_LOST ∧ s.audLost.aud.wait = true ∧ ∀ k < 8, (s.audIn k).on → (s.audLost.audIn k).lost = true := by
  have went : s.audLost = (List.range 8).foldl (fun s p => s.onIn p AudIn.losing) ((s.wr AUD_CLK_LOST 1).postEvent 0x0031 4 1).awaiting :=
    if_neg (not_or.2 ⟨carried, not_or.2 ⟨not_not_intro on, live⟩⟩)
  have noted := (Noted.refl (s.wr AUD_CLK_LOST 1)).postEvent 0x0031 4 1
  rw [went]
  generalize (s.wr AUD_CLK_LOST 1).postEvent 0x0031 4 1 = t at noted
  have aud : t.aud = s.aud := (congrArg (fun x : State => x.aud) noted.rest :)
  have lost : t.on AUD_CLK_LOST := (State.on_congr (noted.field AUD_CLK_LOST (by decide))).trans (s.on_wr_one rfl)
  obtain ⟨regs, wait, each⟩ := State.foldl_losing (List.range 8) t.awaiting
  refine ⟨(State.on_congr (State.rg_congr regs _)).trans lost, wait, fun k low taking => ?_⟩
  have input : t.awaiting.audIn k = s.audIn k := State.audIn_congr (congrArg (fun x : Aud => x.ins) aud :) k
  exact (each k (by rw [input]; exact taking)).2 (.inl (List.mem_range.2 low))

/-- The carrier's clock returns (R400). -/
theorem execAudClockReturn_lost (lost : s.on AUD_CLK_LOST) :
    execAudClockReturn s = .next ((s.wr AUD_CLK_LOST 0).postEvent 0x0031 4 0) := congrArg Host.Outcome.next (if_pos lost)

/-! ## AES67 packets -/

/-- The state with another queue of delivered frames. -/
def State.withInbox (s : State) (l : List RxFrame) : State := { s with ring := { s.ring with inbox := l } }

/-- A frame taken leaves the queue alone changed. -/
theorem State.takeFrame_inbox {is : List Byte → Bool} {f : RxFrame} {t : State} (taken : s.takeFrame is = some (f, t)) :
    ∃ l, t = s.withInbox l := by
  obtain ⟨g, -, pair⟩ := Option.map_eq_some_iff.1 taken
  obtain ⟨-, rfl⟩ := Prod.mk.inj pair
  exact ⟨_, rfl⟩

/-- What a packet does to the stream that it may name. -/
def State.aesOffer (r : Rtp) (f : RxFrame) (s : State) (i : Nat) : State :=
  if rtpMatch (s.aesDesc i) r then s.aesPacket i r f.port f.time else s

theorem execAes67PacketReceive_taken {f : RxFrame} {t : State} {r : Rtp} (taken : s.takeFrame s.isAes = some (f, t))
    (named : rtpOf f.bytes = some r) : execAes67PacketReceive s = .next ((List.range 32).foldl (State.aesOffer r f) t) := by
  rw [execAes67PacketReceive, taken]
  dsimp only
  rw [named]
  rfl

/-- A packet leaves the descriptors. -/
theorem State.aesPacket_descs (s : State) (i : Nat) (r : Rtp) (port time : Nat) :
    (s.aesPacket i r port time).ring.descs = s.ring.descs := by
  unfold State.aesPacket
  exact ite_of (P := fun u : State => u.ring.descs = s.ring.descs) (fun _ => rfl) fun _ =>
    ite_of (P := fun u : State => u.ring.descs = s.ring.descs) (fun _ => rfl) fun _ => rfl

/-- A stream that the packet does not name takes nothing of it. -/
theorem State.foldl_aesOffer_none {r : Rtp} {f : RxFrame} {l : List Nat} (none : ∀ j ∈ l, rtpMatch (s.aesDesc j) r = false) :
    l.foldl (State.aesOffer r f) s = s := by
  induction l with
  | nil => rfl
  | cons j l ih =>
    have passed : s.aesOffer r f j = s := if_neg (by rw [none j (.head _)]; exact Bool.false_ne_true)
    rw [List.foldl_cons, passed]
    exact ih fun k hk => none k (.tail _ hk)

/-- Of the streams offered a packet only the one it names takes it. -/
theorem State.foldl_aesOffer_one {r : Rtp} {f : RxFrame} {i : Nat} (below : i < 32)
    (names : ∀ j < 32, rtpMatch (s.aesDesc j) r = true ↔ j = i) :
    (List.range 32).foldl (State.aesOffer r f) s = s.aesPacket i r f.port f.time := by
  obtain ⟨l, l', split⟩ := List.append_of_mem (List.mem_range.2 below)
  have once : (l ++ i :: l').Nodup := split ▸ List.nodup_range
  obtain ⟨-, later, apart⟩ := List.nodup_append.1 once
  have within {j : Nat} (h : j ∈ l ++ i :: l') : j < 32 := List.mem_range.1 (split ▸ h)
  have unnamed {j : Nat} (low : j < 32) (other : j ≠ i) : rtpMatch (s.aesDesc j) r = false :=
    Bool.eq_false_iff.2 fun h => other ((names j low).1 h)
  have desc (j : Nat) : (s.aesPacket i r f.port f.time).aesDesc j = s.aesDesc j := by
    rw [State.aesDesc, State.aesPacket_descs, State.aesDesc]
  have taken : s.aesOffer r f i = s.aesPacket i r f.port f.time := if_pos ((names i below).2 rfl)
  rw [split, List.foldl_append, List.foldl_cons,
    State.foldl_aesOffer_none fun j hj => unnamed (within (List.mem_append_left _ hj)) (apart j hj i (.head _)), taken]
  refine State.foldl_aesOffer_none fun j hj => ?_
  rw [desc]
  exact unnamed (within (List.mem_append_right _ (.tail _ hj))) fun same => (List.nodup_cons.1 later).1 (same ▸ hj)

/-- A packet whose R-TAG was taken before is counted, no more (R421). -/
theorem State.aesPacket_dup {i q port time : Nat} {r : Rtp} (tag : r.tag = some q) (known : q ∈ (s.aesSt i).hist) :
    s.aesPacket i r port time = s.bump (RING_PORT_DUP port) := by
  unfold State.aesPacket
  rw [tag]
  exact if_pos (List.contains_iff_mem.2 known)

/-- A packet of a new R-TAG: its samples wait, and its R-TAG is remembered (R421, R424). -/
theorem State.aesPacket_new {i q port time : Nat} {r : Rtp} (tag : r.tag = some q) (fresh : q ∉ (s.aesSt i).hist)
    (clocked : s.aud.n ≠ 0) (carries : aNch (s.aesDesc i) ≠ 0) : ∃ w st, s.aesPacket i r port time =
      s.onAes i fun x => { x with wait := w, hist := (q :: x.hist).take 64, stamp := st } := by
  unfold State.aesPacket
  rw [tag]
  exact ⟨_, _, (if_neg fun known => fresh (List.contains_iff_mem.1 known)).trans (if_neg (not_or.2 ⟨clocked, carries⟩))⟩

theorem State.aesSt_onAes (s : State) (i : Nat) (f : AesSt → AesSt) : (s.onAes i f).aesSt i = f (s.aesSt i) := KMap.get_set_same ..

/-- A sent stream after a packet of `pt` samples with sequence number `q`. -/
def AesSt.sent (x : AesSt) (pt q : Nat) : AesSt := { x with out := x.out.drop pt, seq := some ((q + 1) % 65536) }

/-- A sent stream with a full packet waiting sends it on the second port (R424). -/
theorem State.aesSend_sends {i q : Nat} (en : aEn (s.aesDesc i)) (packet : 0 < aPt (s.aesDesc i))
    (full : aPt (s.aesDesc i) ≤ (s.aesSt i).out.length) (seq : (s.aesSt i).seq = some q) (single : aRepl (s.aesDesc i) = false)
    (up : s.linkOn 1) : ∃ o, s.aesSend i = ((s.onAes i fun x => x.sent (aPt (s.aesDesc i)) q).bump (RING_PORT_TX 1)).emit o := by
  have linked : s.on (linkFld 1) := (Bool.and_eq_true_iff.1 up).2
  unfold State.aesSend
  extract_lets d x pt _ taken _ _ t
  have first : taken = (q, s) := by
    show (match x.seq with | some q => (q, s) | none => _) = _
    rw [show x.seq = some q from seq]
  have sent : t = s.onAes i fun x => x.sent pt q := by
    show taken.2.onAes i _ = _
    rw [first]
    rfl
  have live : t.linkOn 1 := by rw [sent]; exact up
  have second : t.on (linkFld 1) := by rw [sent]; exact linked
  cases waiting : x.out with
  | nil =>
    have some : 0 < x.out.length := Nat.lt_of_lt_of_le packet full
    rw [waiting] at some
    exact absurd some (by decide)
  | cons f rest =>
    dsimp only
    have ready : ¬ (¬ aEn d = true ∨ pt = 0 ∨ (f :: rest).length < pt) := by
      rw [← waiting]
      exact not_or.2 ⟨not_not_intro en, not_or.2 ⟨packet.ne', full.not_gt⟩⟩
    rw [if_neg ready, show aRepl d = false from single, if_neg Bool.false_ne_true, second, if_pos rfl, if_pos live, sent]
    exact ⟨_, rfl⟩

/-- Settles O37: the inputs and their clock, then the packets. -/
theorem audioFrames : Obligations.AudioFrames := by
  refine ⟨fun s p slot w => ?_, fun s => ⟨fun f t r i q taken named below tag names clocked carries => ?_,
    fun i q d hd en packet full seq single up => ?_⟩⟩
  · intro i last
    refine ⟨fun on clocked live inside taking => ⟨?_, ?_, fun b binds en above under count phase => ?_⟩, fun carried on live => ?_,
      fun own => congrArg Host.Outcome.next (if_pos (.inl own)), fun lost => ?_⟩
    · obtain ⟨mem, input⟩ := State.audSample_next (w := w.toNat) on clocked live inside taking
      refine ⟨_, rfl, mem, ?_⟩
      rw [input]
      exact ⟨rfl, rfl, rfl⟩
    · obtain ⟨u, -, frames, -, regs, input⟩ := State.audSample_now (w := w.toNat) on clocked live inside taking
      refine ⟨_, rfl, ?_⟩
      dsimp only
      rw [input]
      refine ⟨rfl, rfl, fun none => ?_, fun ends => (State.rg_congr regs _).trans (frames ends)⟩
      exact congrArg (fun x : Option (List Byte) => x.orElse fun _ => some s.stamp.bytes) none
    · exact ⟨_, rfl, State.audSample_stored p.isLt on clocked live inside taking binds en above under count phase w.isLt⟩
    · exact ⟨_, rfl, State.audLost_spec carried on live⟩
    · have cleared : (s.wr AUD_CLK_LOST 0).on AUD_CLK_LOST = false := congrArg (· == 1) (s.rg_wr_same AUD_CLK_LOST 0)
      have kept := ((Noted.refl (s.wr AUD_CLK_LOST 0)).postEvent 0x0031 4 0).field AUD_CLK_LOST (by decide)
      exact ⟨_, execAudClockReturn_lost lost, (State.on_congr kept).trans cleared⟩
  · have went := execAes67PacketReceive_taken taken named
    obtain ⟨l, rfl⟩ := State.takeFrame_inbox taken
    rw [State.foldl_aesOffer_one (s := s.withInbox l) below names] at went
    by_cases known : q ∈ (s.aesSt i).hist
    · rw [State.aesPacket_dup (s := s.withInbox l) tag known] at went
      refine ⟨_, went, rfl, rfl, fun _ => ⟨rfl, ?_, s.rg_bump_same (RING_PORT_DUP f.port) 1⟩, fun fresh => absurd known fresh⟩
      exact State.onlyRegs_wr (s.onlyRegs_refl _) (List.mem_singleton.2 rfl) _
    · obtain ⟨wait, stamp, new⟩ := State.aesPacket_new (s := s.withInbox l) (port := f.port) (time := f.time) tag known clocked carries
      rw [new] at went
      refine ⟨_, went, rfl, rfl, fun old => absurd old known, fun _ => ⟨rfl, ?_⟩⟩
      exact congrArg (fun x : AesSt => x.hist) (State.aesSt_onAes ..)
  · subst hd
    obtain ⟨o, went⟩ := State.aesSend_sends en packet full seq single up
    refine ⟨_, congrArg Host.Outcome.next went, ?_, ?_, State.rg_bump_same s (RING_PORT_TX 1) 1, ?_⟩
    · exact congrArg (fun x : AesSt => x.out) (s.aesSt_onAes (32 + i.val) fun x => x.sent (aPt (s.aesDesc (32 + i.val))) q)
    · exact congrArg (fun x : AesSt => x.seq) (s.aesSt_onAes (32 + i.val) fun x => x.sent (aPt (s.aesDesc (32 + i.val))) q)
    · exact State.onlyRegs_wr (s.onlyRegs_refl _) (List.mem_singleton.2 rfl) _

end Sys2Proof.Machine
end

section
/-! CERTIFICATE. The windows of the ring: tile frames received, grants and closings, frames sent (O39, R414 to R420). -/

namespace Sys2Proof.Machine

variable {s s1 : State} {r : RxFrame} {w i : Nat}

/-! ## The state of a window -/

theorem State.winSt_onWin (s : State) (w : Nat) (f : WinSt → WinSt) : (s.onWin w f).winSt w = f (s.winSt w) :=
  KMap.get_set_same s.ring.wins w (f (s.winSt w)) {}

theorem State.onWin_mem (s : State) (w : Nat) (f : WinSt → WinSt) : (s.onWin w f).mem = s.mem := rfl

/-- A frame sent leaves memory and the ring's own state (R409). -/
theorem State.sendFrame_spec (s : State) (p : Nat) (f : List Byte) :
    (s.sendFrame p f).mem = s.mem ∧ (s.sendFrame p f).ring = s.ring ∧
      ∀ g : Fld, g.key ≠ (RING_PORT_TX p).key → (s.sendFrame p f).rg g = s.rg g :=
  ite_of (P := fun u : State => u.mem = s.mem ∧ u.ring = s.ring ∧ ∀ g : Fld, g.key ≠ (RING_PORT_TX p).key → u.rg g = s.rg g)
    (fun _ => ⟨rfl, rfl, fun _ apart => s.rg_wr_other apart _⟩) fun _ => ⟨rfl, rfl, fun _ _ => rfl⟩

/-- A frame sent over a link that is up is counted (R409). -/
theorem State.sendFrame_tx {p : Nat} (link : s.linkOn p) (f : List Byte) :
    (s.sendFrame p f).rg (RING_PORT_TX p) = (s.rg (RING_PORT_TX p) + 1) % 2 ^ 64 := by
  rw [State.sendFrame, if_pos link]
  exact s.rg_bump_same _ 1

/-- The module's place for the staleness of a window is none of the counters of frames sent. -/
theorem stale_key_ne_tx (w p : Nat) : (WIN_STALE w).key ≠ (RING_PORT_TX p).key :=
  Fld.key_ne_of_off (by exact (by decide : (0 : Nat) < 32)) (by exact (by decide : (0 : Nat) < 32))
    (show 0xb00410 + 0x20 * w ≠ 0xb00108 + 0x80 * p by omega)

/-! ## Tile frames received -/

/-- The sequence number of a tile frame (R409). -/
def RxFrame.seq (r : RxFrame) : Nat := ((fBody r.bytes).1).getD 0

/-- A tile frame is for an open receive side of its generation, for the next tide, in time and undamaged (R419). -/
structure TileDue (s : State) (r : RxFrame) : Prop where
  known : hWin (tHead r.bytes) < 64
  enabled : s.on (WIN_CTRL_EN (hWin (tHead r.bytes)))
  receives : ¬ s.on (WIN_CTRL_DIR (hWin (tHead r.bytes)))
  isOpen : s.on (WIN_CTRL_OPEN (hWin (tHead r.bytes)))
  gen : hGen (tHead r.bytes) = s.rg (WIN_GEN_GEN (hWin (tHead r.bytes)))
  tide : hTide (tHead r.bytes) = s.rg TIDE_NUM + 1
  inTime : ¬ s.boundaryTime < (r.time : Int) + 1000
  sound : tileCrcOk r.bytes

/-- What an accepted frame leaves in its window's state (R419). -/
def WinSt.accept (seq : Nat) (st : List Byte) (x : WinSt) : WinSt :=
  { x with acc := x.acc ++ [seq], stamp := x.stamp.orElse fun _ => some st }

theorem State.tileRx_due (due : TileDue s r) (ok : State → State) : s.tileRx r ok =
    if (s.winSt (hWin (tHead r.bytes))).acc.contains r.seq then s.bump (RING_PORT_DUP r.port)
    else (ok s).onWin (hWin (tHead r.bytes)) (WinSt.accept r.seq s.stamp.bytes) := by
  obtain ⟨known, enabled, receives, isOpen, gen, tide, inTime, sound⟩ := due
  have belongs : ¬ (64 ≤ hWin (tHead r.bytes) ∨ ¬ s.on (WIN_CTRL_EN (hWin (tHead r.bytes))) ∨
      s.on (WIN_CTRL_DIR (hWin (tHead r.bytes))) ∨ ¬ s.on (WIN_CTRL_OPEN (hWin (tHead r.bytes))) ∨
      hGen (tHead r.bytes) ≠ s.rg (WIN_GEN_GEN (hWin (tHead r.bytes)))) := by
    rintro (h | h | h | h | h)
    exacts [absurd known (by omega), h enabled, receives h, h isOpen, h gen]
  rw [State.tileRx, if_neg belongs, if_neg (not_or.2 ⟨not_not_intro tide, inTime⟩), if_neg (not_not_intro sound)]
  rfl

theorem State.tileRx_new (due : TileDue s r) (new : r.seq ∉ (s.winSt (hWin (tHead r.bytes))).acc) (ok : State → State) :
    s.tileRx r ok = (ok s).onWin (hWin (tHead r.bytes)) (WinSt.accept r.seq s.stamp.bytes) := by
  rw [State.tileRx_due due, if_neg (mt List.contains_iff_mem.1 new)]

theorem State.tileRx_repeated (due : TileDue s r) (old : r.seq ∈ (s.winSt (hWin (tHead r.bytes))).acc) (ok : State → State) :
    s.tileRx r ok = s.bump (RING_PORT_DUP r.port) := by
  rw [State.tileRx_due due, if_pos (List.contains_iff_mem.2 old)]

/-- A frame for a window that is not open is stale (R419, R420). -/
theorem State.tileRx_closed (closed : ¬ s.on (WIN_CTRL_OPEN (hWin (tHead r.bytes)))) (ok : State → State) :
    s.tileRx r ok = s.staleFrame r := by
  rw [State.tileRx, if_pos (.inr (.inr (.inr (.inl closed))))]

theorem State.staleFrame_spec (known : hWin (tHead r.bytes) < 64) :
    (s.staleFrame r).rg (WIN_STALE (hWin (tHead r.bytes))) = (s.rg (WIN_STALE (hWin (tHead r.bytes))) + 1) % 2 ^ 64 ∧
      (s.staleFrame r).mem = s.mem := by
  have counted := s.rg_bump_same (WIN_STALE (hWin (tHead r.bytes))) 1
  rw [State.staleFrame, if_neg (by omega)]
  refine ite_of (P := fun u : State => u.rg (WIN_STALE (hWin (tHead r.bytes))) =
    (s.rg (WIN_STALE (hWin (tHead r.bytes))) + 1) % 2 ^ 64 ∧ u.mem = s.mem) (fun _ => ⟨counted, rfl⟩) fun _ => ?_
  obtain ⟨mem, -, other⟩ := State.sendFrame_spec _ r.port _
  exact ⟨(other _ (stale_key_ne_tx _ _)).trans counted, mem⟩

/-! ## Rows of a window in the terrace store -/

/-- From `s` to `u` memory and its marks have changed, no more. -/
def MemOnly (s u : State) : Prop := ∃ m e, u = { s with mem := m, ecc := e }

/-- The first of the two rows of frame `f` in a window of the terrace store (R414). -/
def State.winRowAddr (s : State) (w f : Nat) : Nat :=
  tsAddr (s.rg (WIN_LOC_TERR w)) (s.rg (WIN_TROW w) + (s.rg TIDE_NUM + 1) % 2 * (2 * s.rg (WIN_CTRL_NFR w)) + 2 * f)

theorem State.winRow_store (target : s.on (WIN_CTRL_TGT w)) (row : Nat) (b : List Byte) : s.winRow w row b = s.putRow
    (tsAddr (s.rg (WIN_LOC_TERR w)) (s.rg (WIN_TROW w) + (s.rg TIDE_NUM + 1) % 2 * (2 * s.rg (WIN_CTRL_NFR w)) + row)) b := by
  rw [State.winRow, if_pos target]

/-- The state with the two rows of a frame written, marks cleared (R414). -/
def State.withRows (s : State) (a : Nat) (x y : List Byte) : State := (s.putRow a x).putRow (a + 512) y

theorem State.winRow_pair (target : s.on (WIN_CTRL_TGT w)) (f : Nat) (x y : List Byte) :
    (s.winRow w (2 * f) x).winRow w (2 * f + 1) y = s.withRows (s.winRowAddr w f) x y := by
  have next : tsAddr (s.rg (WIN_LOC_TERR w)) (s.rg (WIN_TROW w) + (s.rg TIDE_NUM + 1) % 2 * (2 * s.rg (WIN_CTRL_NFR w)) +
      (2 * f + 1)) = s.winRowAddr w f + 512 := by
    rw [State.winRowAddr, tsAddr, tsAddr]
    omega
  rw [State.winRow_store target, State.winRow_store (s := s.putRow _ x) target, State.withRows, ← next]
  rfl

theorem State.ld_withRows_first (s : State) (a : Nat) (x y : List Byte) : (s.withRows a x y).ld a 512 = fitTo 512 x := by
  have first := (s.ld_st a (fitTo 512 x))
  rw [length_fitTo] at first
  refine (KMap.bytes_congr fun k _ high => ?_).trans first
  exact KMap.get_store_outside (fitTo 512 y) (s.st a (fitTo 512 x)).mem (a + 512) k (.inl high)

theorem State.ld_withRows_second (s : State) (a : Nat) (x y : List Byte) :
    (s.withRows a x y).ld (a + 512) 512 = fitTo 512 y := by
  have second := (s.putRow a x).ld_st (a + 512) (fitTo 512 y)
  rw [length_fitTo] at second
  exact second

theorem State.withRows_outside (s : State) {a k : Nat} (x y : List Byte) (out : k < a ∨ a + 1024 ≤ k) :
    (s.withRows a x y).mem.get k 0#8 = s.mem.get k 0#8 :=
  (KMap.get_store_outside (fitTo 512 y) (s.st a (fitTo 512 x)).mem (a + 512) k (by rw [length_fitTo]; omega)).trans
    (KMap.get_store_outside (fitTo 512 x) s.mem a k (by rw [length_fitTo]; omega))

theorem State.rowsWritten {u : State} {a : Nat} {x y : List Byte} (mem : u.mem = (s.withRows a x y).mem) :
    u.ld a 512 = fitTo 512 x ∧ u.ld (a + 512) 512 = fitTo 512 y ∧
      ∀ k, k < a ∨ a + 1024 ≤ k → u.mem.get k 0#8 = s.mem.get k 0#8 := by
  rw [State.ld, State.ld, mem]
  exact ⟨s.ld_withRows_first a x y, s.ld_withRows_second a x y, fun k out => s.withRows_outside x y out⟩

/-- The data of a frame goes into the rows of its window (R414, R419). -/
def State.tileRows (s : State) (r : RxFrame) : State :=
  if s.rg (WIN_CTRL_NFR (hWin (tHead r.bytes))) ≤ hFidx (tHead r.bytes) then s
  else (s.winRow (hWin (tHead r.bytes)) (2 * hFidx (tHead r.bytes)) (slice (tRest r.bytes) 0 512)).winRow (hWin (tHead r.bytes))
    (2 * hFidx (tHead r.bytes) + 1) (slice (tRest r.bytes) 512 512)

theorem MemOnly.trans {a b c : State} (h : MemOnly a b) (k : MemOnly b c) : MemOnly a c := by
  obtain ⟨m, e, rfl⟩ := h
  obtain ⟨m', e', rfl⟩ := k
  exact ⟨m', e', rfl⟩

theorem State.putRow_memOnly (s : State) (a : Nat) (b : List Byte) : MemOnly s (s.putRow a b) := ⟨_, _, rfl⟩

theorem State.slotRow_memOnly (s : State) (t p k row : Nat) (b : List Byte) : MemOnly s (s.slotRow t p k row b) :=
  ite_of (P := MemOnly s) (fun _ => ⟨_, _, rfl⟩) fun _ => ⟨_, _, rfl⟩

theorem State.winRow_memOnly (s : State) (w row : Nat) (b : List Byte) : MemOnly s (s.winRow w row b) :=
  ite_of (P := MemOnly s) (fun _ => s.putRow_memOnly ..) fun _ => s.slotRow_memOnly ..

theorem State.tileRows_memOnly (s : State) (r : RxFrame) : MemOnly s (s.tileRows r) :=
  ite_of (P := MemOnly s) (fun _ => ⟨_, _, rfl⟩) fun _ => (s.winRow_memOnly ..).trans (State.winRow_memOnly ..)

theorem State.tileRows_regs (s : State) (r : RxFrame) : (s.tileRows r).regs = s.regs := by
  obtain ⟨m, e, same⟩ := s.tileRows_memOnly r
  rw [same]

theorem State.tileRows_winSt (s : State) (r : RxFrame) (w : Nat) : (s.tileRows r).winSt w = s.winSt w := by
  obtain ⟨m, e, same⟩ := s.tileRows_memOnly r
  rw [same]
  rfl

theorem State.tileRows_store (target : s.on (WIN_CTRL_TGT (hWin (tHead r.bytes))))
    (inside : hFidx (tHead r.bytes) < s.rg (WIN_CTRL_NFR (hWin (tHead r.bytes)))) :
    s.tileRows r = s.withRows (s.winRowAddr (hWin (tHead r.bytes)) (hFidx (tHead r.bytes))) (slice (tRest r.bytes) 0 512)
      (slice (tRest r.bytes) 512 512) := by
  rw [State.tileRows, if_neg (by omega), State.winRow_pair target]

theorem execTileDataReceive_taken (taken : s.takeFrame (isTile 0) = some (r, s1)) :
    execTileDataReceive s = .next (s1.tileRx r fun u => u.tileRows r) := by
  rw [execTileDataReceive, taken]
  rfl

theorem execTileVoidReceive_taken (taken : s.takeFrame (isTile 1) = some (r, s1)) : execTileVoidReceive s =
    .next (s1.tileRx r fun u => u.onWin (hWin (tHead r.bytes)) fun x => { x with gotVoid := true }) := by
  rw [execTileVoidReceive, taken]
  rfl

/-! ## Frames of the peer for a send side -/

/-- The state of a send side under a GRANT (R416). -/
def WinSt.granted (r : RxFrame) (x : WinSt) : WinSt :=
  { x with tgt := hTide (tHead r.bytes), credits := hFidx (tHead r.bytes), mac := fSrc r.bytes, stopped := false, noGrant := 0
           posted := false }

/-- The state of a send side that a CLOSED stops (R420). -/
def WinSt.halt (x : WinSt) : WinSt := { x with stopped := true, credits := 0 }

/-- A send side takes the generation of a GRANT (R415, R416). -/
def State.takeGen (s : State) (i g : Nat) : State :=
  if s.rg (WIN_GEN_GEN i) = g then s else s.wrs [(WIN_GEN_LAST i, s.rg (WIN_GEN_GEN i)), (WIN_GEN_GEN i, g)]

theorem State.takeGen_gen (s : State) (i g : Nat) : (s.takeGen i g).rg (WIN_GEN_GEN i) = g % 2 ^ 16 := by
  unfold State.takeGen
  refine ite_of (P := fun u : State => u.rg (WIN_GEN_GEN i) = g % 2 ^ 16) (fun same => ?_) fun _ => ?_
  · rw [← same]
    exact (Nat.mod_eq_of_lt (s.rg_lt _)).symm
  · exact State.rg_wrs_of_mem (f := WIN_GEN_GEN i) (v := g) (by exact (by decide : [16, 0].Nodup)) (by simp) s

theorem State.takeGen_onlyRegs (s : State) (i g : Nat) :
    s.onlyRegs (s.takeGen i g) [(WIN_GEN_LAST i).key, (WIN_GEN_GEN i).key, (WIN_CTRL_OPEN i).key] := by
  unfold State.takeGen
  refine ite_of (P := fun u : State => s.onlyRegs u [(WIN_GEN_LAST i).key, (WIN_GEN_GEN i).key, (WIN_CTRL_OPEN i).key])
    (fun _ => s.onlyRegs_refl _) fun _ => ?_
  exact State.onlyRegs_wr (State.onlyRegs_wr (s.onlyRegs_refl _) (by simp) _) (by simp) _

theorem State.takeGen_winSt (s : State) (i g : Nat) : (s.takeGen i g).winSt i = s.winSt i :=
  ite_of (P := fun u : State => u.winSt i = s.winSt i) (fun _ => rfl) fun _ => rfl

theorem execGrantReceive_one (taken : s.takeFrame (isTile 2) = some (r, s1)) (sound : tileCrcOk r.bytes)
    (peer : s1.dup (hSrc (tHead r.bytes)) = false) (own : s1.dup (s1.rg RING_INDEX_INDEX) = false)
    (one : s1.sendersOf (hWin (tHead r.bytes)) (hSrc (tHead r.bytes)) = [i]) : execGrantReceive s =
    .next (((s1.takeGen i (hGen (tHead r.bytes))).wr (WIN_CTRL_OPEN i) 1).onWin i (WinSt.granted r)) := by
  rw [execGrantReceive, taken]
  show (.next (s1.grant r) : Res) = _
  rw [State.grant, if_neg (not_not_intro sound), if_neg (by rw [peer, own]; decide), one]
  rfl

theorem execClosedReceive_one (taken : s.takeFrame (isTile 3) = some (r, s1)) (sound : tileCrcOk r.bytes)
    (one : s1.sendersOf (hWin (tHead r.bytes)) (hSrc (tHead r.bytes)) = [i]) : execClosedReceive s =
    .next (if hGen (tHead r.bytes) ≠ s1.rg (WIN_GEN_GEN i) then s1.bump (WIN_STALE i)
      else ((s1.wrs [(WIN_CTRL_CLOSED i, 1), (WIN_CTRL_OPEN i, 0)]).onWin i WinSt.halt).winClosedEvent i 0) := by
  rw [execClosedReceive, taken]
  show (.next (s1.closedFrame r) : Res) = _
  rw [State.closedFrame, if_neg (not_not_intro sound), one]
  rfl

theorem State.sendersOf_lt {w src : Nat} (member : i ∈ s.sendersOf w src) : i < 64 :=
  List.mem_range.1 (List.mem_filter.1 (List.mem_filter.1 member).1).1

theorem winOpen_notNoted : ∀ i < 64, (WIN_CTRL_OPEN i).key ∉ noteKeys := by decide +kernel

theorem winClosed_notNoted : ∀ i < 64, (WIN_CTRL_CLOSED i).key ∉ noteKeys := by decide +kernel

/-- The event of a send side that closes leaves the ring (R420, R467). -/
theorem State.winClosedEvent_noted (s : State) (i why : Nat) : Noted s (s.winClosedEvent i why) := by
  unfold State.winClosedEvent
  exact (Noted.refl s).postEvent 0x0020 3 i (natLE 2 why ++ natLE 2 (s.rg (WIN_GEN_GEN i))) none

theorem Noted.ring {a u : State} (h : Noted a u) : u.ring = a.ring := (congrArg (fun x : State => x.ring) h.rest :)

theorem State.winClosedEvent_winSt (s : State) (i why w : Nat) : (s.winClosedEvent i why).winSt w = s.winSt w := by
  rw [State.winSt, (s.winClosedEvent_noted i why).ring, State.winSt]

/-- A closing of the generation in force stops the send side (R420). -/
theorem State.winClosed_spec (s : State) (below : i < 64) {u : State}
    (went : u = ((s.wrs [(WIN_CTRL_CLOSED i, 1), (WIN_CTRL_OPEN i, 0)]).onWin i WinSt.halt).winClosedEvent i 0) :
    u.on (WIN_CTRL_CLOSED i) ∧ u.on (WIN_CTRL_OPEN i) = false ∧ (u.winSt i).stopped = true ∧ (u.winSt i).credits = 0 := by
  have noted := State.winClosedEvent_noted ((s.wrs [(WIN_CTRL_CLOSED i, 1), (WIN_CTRL_OPEN i, 0)]).onWin i WinSt.halt) i 0
  have apart : ([(WIN_CTRL_CLOSED i, 1), (WIN_CTRL_OPEN i, 0)].map fun q : Fld × Nat => q.1.lo % 32).Nodup :=
    (by decide : [25, 26].Nodup)
  have window := State.winClosedEvent_winSt ((s.wrs [(WIN_CTRL_CLOSED i, 1), (WIN_CTRL_OPEN i, 0)]).onWin i WinSt.halt) i 0 i
  rw [State.winSt_onWin, ← went] at window
  rw [← went] at noted
  have closed := (noted.field _ (winClosed_notNoted i below)).trans
    (State.rg_wrs_of_mem (f := WIN_CTRL_CLOSED i) (v := 1) apart (by simp) s)
  have shut := (noted.field _ (winOpen_notNoted i below)).trans
    (State.rg_wrs_of_mem (f := WIN_CTRL_OPEN i) (v := 0) apart (by simp) s)
  refine ⟨?_, ?_, by rw [window]; rfl, by rw [window]; rfl⟩
  · rw [State.on, closed]
    rfl
  · rw [State.on, shut]
    rfl

/-- A send side without a GRANT for three tides (R420). -/
def WinSt.lapse (x : WinSt) : WinSt := { x with posted := true }

theorem execGrantTimeout_due {w : Fin 64} (enabled : s.on (WIN_CTRL_EN w.val)) (sends : s.on (WIN_CTRL_DIR w.val))
    (lapsed : 3 ≤ (s.winSt w.val).noGrant) (first : (s.winSt w.val).posted = false) : execGrantTimeout w s =
    .next (((s.wr (WIN_CTRL_OPEN w.val) 0).onWin w.val WinSt.lapse).winClosedEvent w.val 1) := by
  rw [execGrantTimeout, if_pos ⟨enabled, sends, lapsed, by rw [first]; decide⟩]
  rfl

/-! ## Frames of a send side -/

/-- A read that answers a value and leaves the state reads every row so. -/
theorem State.readRows_pure {f : State → Nat → Option (List Byte) × State} {g : Nat → List Byte}
    (reads : ∀ k, f s k = (some (g k), s)) (n : Nat) : s.readRows f n = (some ((List.range n).map g), s) := by
  rw [State.readRows]
  induction n with
  | zero => rfl
  | succ n ih =>
    rw [List.range_succ, List.foldl_append, ih, List.map_append, List.foldl_cons, List.foldl_nil, reads]
    rfl

/-- A row without error marks is read as it is (R121). -/
theorem State.readTs_clean (clean : s.ecc = []) (t row : Nat) : s.readTs t row = (some (s.ld (tsAddr t row) 512), s) := by
  rw [State.readTs, State.marks_clean clean, State.eccTs, List.foldl_nil, State.writeBack_clean clean]
  rfl

/-- The rows of a send side in the terrace store are there (R414). -/
theorem State.winData_store (clean : s.ecc = []) (target : s.on (WIN_CTRL_TGT w)) : ∃ rows, s.winData w = (some rows, s) := by
  rw [State.winData, if_pos target]
  exact ⟨_, State.readRows_pure (fun k => State.readTs_clean clean _ _) _⟩

/-- A tile frame of a send side, out of its port and, with REPL, out of the other (R416, R421). -/
def State.sendTile (s : State) (w port mac : Nat) (head : Nat → Nat → Nat → List Byte) (typ fidx : Nat) (b : List Byte) : State :=
  let s := s.sendFrame port (s.tileFrame mac (head typ 0 fidx) (some b))
  if s.on (WIN_CTRL_REPL w) then
    s.sendFrame (otherPort port) (s.tileFrame mac (head typ (b2n (!s.on RING_CTRL_MODE)) fidx) (some b))
  else s

/-- The header of a tile frame of send side `w` in a state (R413). -/
def State.tileHead (s : State) (w tgt nfr typ flags fidx : Nat) : List Byte :=
  tileHeader typ flags (s.rg (WIN_LOC_PWIN w)) (s.rg (WIN_GEN_GEN w)) tgt fidx nfr (s.rg RING_INDEX_INDEX) 0

/-- The credits of a send side are used up (R416). -/
def WinSt.spent (x : WinSt) : WinSt := { x with credits := 0 }

/-- What a send side has to send goes out: its frames of data, or one void frame (R417, R418). -/
def State.sendTiles (s : State) (w port nfr : Nat) (x : WinSt) (data : Option (List (List Byte))) : State :=
  match data with
  | none => s.sendTile w port x.mac (s.tileHead w x.tgt nfr) 1 0 (zeros 1024)
  | some rows => (List.range (min nfr x.credits)).foldl (fun u i => u.sendTile w port x.mac (s.tileHead w x.tgt nfr) 0 i
      (fitTo 512 (rows.getD (2 * i) []) ++ fitTo 512 (rows.getD (2 * i + 1) []))) s

theorem State.windowSend_due (enabled : s.on (WIN_CTRL_EN w)) (sends : s.on (WIN_CTRL_DIR w)) (isOpen : s.on (WIN_CTRL_OPEN w))
    (runs : (s.winSt w).stopped = false) (tide : (s.winSt w).tgt = s.rg TIDE_NUM + 1) (credits : (s.winSt w).credits ≠ 0)
    {rows : List (List Byte)} (data : s.winData w = (some rows, s)) : s.windowSend w =
    (s.onWin w WinSt.spent).sendTiles w (s.winPort w) (s.rg (WIN_CTRL_NFR w)) (s.winSt w)
      (if (s.winSt w).voided ∨ (s.unfit (s.winPort w)).contains w then none else some rows) := by
  have due : ¬ (¬ s.on (WIN_CTRL_EN w) ∨ ¬ s.on (WIN_CTRL_DIR w) ∨ ¬ s.on (WIN_CTRL_OPEN w) ∨ (s.winSt w).stopped ∨
      (s.winSt w).tgt ≠ s.rg TIDE_NUM + 1 ∨ (s.winSt w).credits = 0) := by
    rintro (h | h | h | h | h | h)
    exacts [h enabled, h sends, h isOpen, absurd h (by rw [runs]; decide), h tide, credits h]
  rw [State.windowSend, if_neg due, data]
  rfl

/-- `n` frames of send side `w` have gone out of port `p` (R409, R416). -/
structure TilesSent (s : State) (w p n : Nat) (u : State) : Prop where
  mem : u.mem = s.mem
  ring : u.ring = s.ring
  link : u.linkOn p
  single : ¬ u.on (WIN_CTRL_REPL w)
  tx : u.rg (RING_PORT_TX p) = (s.rg (RING_PORT_TX p) + n) % 2 ^ 64

theorem TilesSent.none (link : s.linkOn p) (single : ¬ s.on (WIN_CTRL_REPL w)) : TilesSent s w p 0 s :=
  ⟨rfl, rfl, link, single, (Nat.mod_eq_of_lt (s.rg_lt (RING_PORT_TX p))).symm⟩

/-- The bit that shows a link is none of the counters of frames sent. -/
theorem link_key_ne_tx (q p : Nat) : (linkFld q).key ≠ (RING_PORT_TX p).key :=
  ite_of (P := fun f : Fld => f.key ≠ (RING_PORT_TX p).key) (fun _ => Fld.key_ne_of_lo (by exact (by decide : 31 ≠ 0)))
    fun _ => Fld.key_ne_of_lo (by exact (by decide : 30 ≠ 0))

theorem TilesSent.sendTile {p n : Nat} {u : State} (h : TilesSent s w p n u) (mac : Nat) (head : Nat → Nat → Nat → List Byte)
    (typ fidx : Nat) (b : List Byte) : TilesSent s w p (n + 1) (u.sendTile w p mac head typ fidx b) := by
  obtain ⟨mem, ring, link, single, tx⟩ := h
  obtain ⟨mem', ring', other⟩ := u.sendFrame_spec p (u.tileFrame mac (head typ 0 fidx) (some b))
  have counted := State.sendFrame_tx link (u.tileFrame mac (head typ 0 fidx) (some b))
  have single' := (State.on_congr (other (WIN_CTRL_REPL w) (Fld.key_ne_of_lo (by exact (by decide : 29 ≠ 0))))).symm ▸ single
  rw [State.sendTile, if_neg single']
  refine ⟨mem'.trans mem, ring'.trans ring, ?_, single', ?_⟩
  · rw [State.linkOn, State.on_congr (other _ (Fld.key_ne_of_lo (by exact (by decide : 31 ≠ 0)))),
      State.on_congr (other _ (link_key_ne_tx _ _))]
    exact link
  · rw [counted, tx]
    omega

theorem TilesSent.run {p : Nat} (link : s.linkOn p) (single : ¬ s.on (WIN_CTRL_REPL w)) (mac : Nat)
    (head : Nat → Nat → Nat → List Byte) (typ : Nat) (b : Nat → List Byte) (n : Nat) :
    TilesSent s w p n ((List.range n).foldl (fun u i => u.sendTile w p mac head typ i (b i)) s) := by
  induction n with
  | zero => exact .none link single
  | succ n ih =>
    rw [List.range_succ, List.foldl_append]
    exact ih.sendTile ..

/-- How many frames leave: one for each row pair that has a credit, or a single void frame (R417, R418). -/
theorem State.sendTiles_sent {p : Nat} (link : s.linkOn p) (single : ¬ s.on (WIN_CTRL_REPL w)) (nfr : Nat) (x : WinSt)
    (data : Option (List (List Byte))) :
    TilesSent s w p (if data.isSome then min nfr x.credits else 1) (s.sendTiles w p nfr x data) := by
  cases data with
  | none => exact (TilesSent.none link single).sendTile ..
  | some rows => exact .run link single x.mac _ 0 _ _

/-- Settles O39: each frame taken from the inbox goes through the checks of R419 or R416 once, and every frame of a send side
leaves through one counted sending. -/
theorem windows : Obligations.Windows := by
  unfold Obligations.Windows
  refine ⟨fun s s1 r => ⟨?_, ?_, ?_, ?_⟩, fun s s1 r i => ⟨fun sound one => ⟨?_, ?_, ?_⟩, ?_, ?_⟩⟩
  · rintro taken ⟨known, enabled, receives, isOpen, gen, tide, inTime, sound⟩ new
    obtain ⟨l, rfl⟩ := State.takeFrame_inbox taken
    have due : TileDue (s.withInbox l) r := ⟨known, enabled, receives, isOpen, gen, tide, inTime, sound⟩
    have went := execTileDataReceive_taken taken
    rw [State.tileRx_new due new] at went
    refine ⟨_, went, ?_, State.tileRows_regs _ r, ?_⟩
    · rw [State.winSt_onWin, State.tileRows_winSt]
      rfl
    · intro target inside a place
      have first : (s.withInbox l).winRowAddr (hWin (tHead r.bytes)) (hFidx (tHead r.bytes)) = a := place.symm
      have stored := State.tileRows_store (s := s.withInbox l) target inside
      rw [first] at stored
      exact State.rowsWritten (s := s.withInbox l) ((State.onWin_mem ..).trans (congrArg State.mem stored))
  · rintro taken ⟨known, enabled, receives, isOpen, gen, tide, inTime, sound⟩ old
    obtain ⟨l, rfl⟩ := State.takeFrame_inbox taken
    have due : TileDue (s.withInbox l) r := ⟨known, enabled, receives, isOpen, gen, tide, inTime, sound⟩
    have went := execTileDataReceive_taken taken
    rw [State.tileRx_repeated due old] at went
    exact ⟨_, went, rfl, (s.withInbox l).rg_bump_same _ 1⟩
  · rintro taken ⟨known, enabled, receives, isOpen, gen, tide, inTime, sound⟩ new
    obtain ⟨l, rfl⟩ := State.takeFrame_inbox taken
    have due : TileDue (s.withInbox l) r := ⟨known, enabled, receives, isOpen, gen, tide, inTime, sound⟩
    have went := execTileVoidReceive_taken taken
    rw [State.tileRx_new due new] at went
    refine ⟨_, went, ?_, ?_, rfl, rfl⟩
    all_goals
      rw [State.winSt_onWin, State.winSt_onWin]
      rfl
  · intro taken known closed
    obtain ⟨l, rfl⟩ := State.takeFrame_inbox taken
    have went := execTileDataReceive_taken taken
    rw [State.tileRx_closed (s := s.withInbox l) closed] at went
    exact ⟨_, went, State.staleFrame_spec (s := s.withInbox l) known⟩
  · intro taken peer own
    obtain ⟨l, rfl⟩ := State.takeFrame_inbox taken
    refine ⟨_, execGrantReceive_one taken sound peer own one, ?_⟩
    have gen := (s.withInbox l).takeGen_gen i (hGen (tHead r.bytes))
    have only := (s.withInbox l).takeGen_onlyRegs i (hGen (tHead r.bytes))
    generalize (s.withInbox l).takeGen i (hGen (tHead r.bytes)) = u at gen only ⊢
    have window := (u.wr (WIN_CTRL_OPEN i) 1).winSt_onWin i (WinSt.granted r)
    have opened := State.onlyRegs_wr only (f := WIN_CTRL_OPEN i) (by simp) 1
    refine ⟨u.on_wr_one (f := WIN_CTRL_OPEN i) rfl, ?_, by rw [window]; rfl, by rw [window]; rfl, by rw [window]; rfl, opened.2.1, opened⟩
    exact (u.rg_wr_other (f := WIN_CTRL_OPEN i) (g := WIN_GEN_GEN i) (Fld.key_ne_of_lo (by exact (by decide : 0 ≠ 26))) 1).trans gen
  · intro taken gen
    obtain ⟨l, rfl⟩ := State.takeFrame_inbox taken
    have went := execClosedReceive_one taken sound one
    rw [if_neg (not_not_intro (show _ = (s.withInbox l).rg _ from gen))] at went
    have below : i < 64 := State.sendersOf_lt (s := s) (one ▸ List.mem_singleton_self i)
    exact ⟨_, went, (s.withInbox l).winClosed_spec below rfl⟩
  · intro taken gen
    obtain ⟨l, rfl⟩ := State.takeFrame_inbox taken
    have went := execClosedReceive_one taken sound one
    rw [if_pos (show _ ≠ (s.withInbox l).rg _ from gen)] at went
    exact ⟨_, went, (s.withInbox l).rg_bump_same _ 1, State.onlyRegs_wr (s.onlyRegs_refl _) (by simp) _⟩
  · intro w enabled sends lapsed first
    refine ⟨_, execGrantTimeout_due enabled sends lapsed first, ?_, ?_, State.postEvent_eseq ..⟩
    · rw [State.on, (State.winClosedEvent_noted _ w.val 1).field _ (winOpen_notNoted w.val w.isLt)]
      exact s.on_wr_b2n (f := WIN_CTRL_OPEN w.val) rfl false
    · rw [State.winClosedEvent_winSt, State.winSt_onWin]
      rfl
  · intro w x port enabled sends tide credits link isOpen clean target single _ runs
    obtain ⟨rows, data⟩ := State.winData_store clean target
    refine ⟨_, congrArg (fun u : State => (.next u : Res)) (State.windowSend_due enabled sends isOpen runs tide credits data), ?_⟩
    have sent := State.sendTiles_sent (s := s.onWin w.val WinSt.spent) (p := s.winPort w.val) link single (s.rg (WIN_CTRL_NFR w.val))
      (s.winSt w.val) (if (s.winSt w.val).voided ∨ (s.unfit (s.winPort w.val)).contains w.val then none else some rows)
    refine ⟨?_, sent.mem, fun live fits => ?_, fun void => ?_⟩
    · rw [State.winSt, sent.ring]
      exact congrArg WinSt.credits (s.winSt_onWin w.val WinSt.spent)
    · refine sent.tx.trans ?_
      rw [if_neg (show ¬ ((s.winSt w.val).voided ∨ (s.unfit (s.winPort w.val)).contains w.val) by rw [live, fits]; decide)]
      rfl
    · refine sent.tx.trans ?_
      rw [if_pos (show ((s.winSt w.val).voided ∨ (s.unfit (s.winPort w.val)).contains w.val) from .inl void)]
      rfl

end Sys2Proof.Machine
end

section
/-! CERTIFICATE. The expander of a station (O28, R288 to R293). -/

namespace Sys2Proof.Machine

variable {s : State} {st : StId} {c : Fin 2} {m : Model} {l : Layer} {t p ch : Nat}

/-! ## Channels -/

/-- The channel `ch` of a station. -/
abbrev State.chan (s : State) (t p ch : Nat) : ExpChan := (s.stn t p).chans.getD ch {}

/-- A channel that is active is one of the station's (R288). -/
theorem State.chan_inside (active : (s.chan t p ch).active) : ch < (s.stn t p).chans.length := by
  by_contra out
  rw [State.chan, List.getD_eq_default _ _ (by omega)] at active
  exact absurd active (by decide)

/-- A change of a channel of the station is read back. -/
theorem State.chan_onChan (inside : ch < (s.stn t p).chans.length) (f : ExpChan → ExpChan) :
    (s.onStn t p fun v => v.onChan ch f).chan t p ch = f (s.chan t p ch) := by
  rw [State.chan, State.stn_onStn, Stn.onChan, List.getD_eq_getElem?_getD, List.getElem?_set_self inside]
  rfl

/-- The entry into panic counts and marks the channel, no more (R333). -/
structure Panicked (s : State) (t p ch : Nat) (u : State) : Prop where
  mem : u.mem = s.mem
  field : ∀ f : Fld, f.key ≠ DRAM_PANIC_CNT.key → u.rg f = s.rg f
  chans : (u.stn t p).chans.length = (s.stn t p).chans.length

theorem State.expPanic_spec (s : State) (t p ch buffered : Nat) : Panicked s t p ch (s.expPanic t p ch buffered) := by
  have mark (u : State) (f : ExpChan → ExpChan) (h : Panicked s t p ch u) : Panicked s t p ch (u.onStn t p fun v => v.onChan ch f) :=
    ⟨h.mem, h.field, by rw [State.stn_onStn, Stn.onChan, List.length_set, h.chans]⟩
  refine mark _ _ (ite_of (P := Panicked s t p ch) (fun _ => ?_) fun _ => ⟨rfl, fun _ _ => rfl, rfl⟩)
  exact ⟨rfl, fun f apart => s.rg_wr_other apart _, rfl⟩

/-! ## What the expander does in its ring -/

/-- A channel that may expand: enabled, not resident, with regions left of a layer, in a slice that runs (R288). -/
structure ChanDue (s : State) (t p ch : Nat) (m : Model) (l : Layer) : Prop where
  enabled : s.on (EXP_CTRL_EN t p ch)
  streams : ¬ s.on (EXP_CTRL_RESIDENT t p ch)
  active : (s.chan t p ch).active
  left : 0 < (s.chan t p ch).left
  runs : s.rg (SEQ_STATE_STATE t p) = 2
  layer : s.chanLayer (s.chan t p ch) = some (m, l)

/-- The descriptor of a channel's ring (R287). -/
abbrev State.chanDesc (s : State) (t p ch : Nat) : List Nat := s.desc t p (s.rg (EXP_CTRL_DESC t p ch))

theorem ChanDue.mayExpand (due : ChanDue s t p ch m l) : ¬ (¬ s.on (EXP_CTRL_EN t p ch) ∨ s.on (EXP_CTRL_RESIDENT t p ch) ∨
    ¬ (s.chan t p ch).active ∨ (s.chan t p ch).left = 0 ∨ s.rg (SEQ_STATE_STATE t p) = 5 ∨ s.rg (SEQ_STATE_STATE t p) = 6 ∨
    s.rg (SEQ_STATE_STATE t p) = 7 ∨ s.rg (SEQ_STATE_STATE t p) ≤ 1) := by
  obtain ⟨enabled, streams, active, left, runs, -⟩ := due
  rintro (h | h | h | h | h | h | h | h)
  exacts [h enabled, streams h, h active, absurd left (by omega), absurd runs (by omega), absurd runs (by omega),
    absurd runs (by omega), absurd runs (by omega)]

theorem State.expand_waits (due : ChanDue s t p ch m l) (cyc : Nat) (bad1 bad2 : Bool) :
    s.expand t p ch cyc 0 bad1 bad2 = (s.expPanic t p ch 0).bump (EXP_WAIT t p) := by
  rw [State.expand, if_neg due.mayExpand, due.layer]
  rfl

/-- The ring of a channel is full: the channel waits on the first full slot (R125, R290). -/
theorem State.expand_full (due : ChanDue s t p ch m l) {n : Nat} (ahead : n ≠ 0) (sound : (s.chan t p ch).cbBad = false)
    (clean : l.poisoned = false) {q : Nat × Nat × Nat}
    (full : (s.expPanic t p ch n).expFull t p (s.chanDesc t p ch) l (s.chan t p ch).place = some q) (cyc : Nat) (bad1 bad2 : Bool) :
    s.expand t p ch cyc n bad1 bad2 =
      ((s.expPanic t p ch n).stallSlot q.1 q.2.1 q.2.2 true).chanWaits t p ch (some q.2.2) := by
  have good : ¬ ((s.chan t p ch).cbBad = true ∨ l.poisoned = true) := by
    rw [sound, clean]
    decide
  rw [State.expand, if_neg due.mayExpand, due.layer]
  dsimp only
  rw [if_neg ahead, if_neg good, full]

/-- The regions `g` of a range in the ring, accepted and counted; the channel is past them (R290, R293). -/
def State.filled (s : State) (t p ch : Nat) (m : Model) (l : Layer) (d : List Nat) (place x : Nat) (g : List Region) : State :=
  ((((s.expWrite t p d l place g).acceptSlots m l x l.sg).bump (EXP_SLOTS t p) l.sg).onStn t p fun v => v.onChan ch fun k =>
    { k with left := k.left - l.sg, place := k.place + 1 }).wr (EXP_POS_REGION t p ch) (x + l.sg)

theorem State.expand_fills (due : ChanDue s t p ch m l) {n : Nat} (ahead : n ≠ 0) (sound : (s.chan t p ch).cbBad = false)
    (clean : l.poisoned = false) {s1 s2 : State} {g : List Region} {x need : Nat}
    (range : x = (s.chan t p ch).first + ((s.chan t p ch).nreg - (s.chan t p ch).left))
    (rows : need = (l.tideScales (s.chan t p ch).first ((s.chan t p ch).nreg - (s.chan t p ch).left + l.sg)).2)
    (room : (s.expPanic t p ch n).expFull t p (s.chanDesc t p ch) l (s.chan t p ch).place = none)
    (scales : ((s.expPanic t p ch n).chanWaits t p ch none).expScales t p ch m l (s.chanDesc t p ch) need (need + 1) =
      (some true, s1)) {bad1 bad2 : Bool} (regions : s1.expRange t m l (s.chan t p ch).codebook bad1 bad2 x l.sg = ((g, none), s2))
    (cyc : Nat) :
    s.expand t p ch cyc n bad1 bad2 = s2.filled t p ch m l (s.chanDesc t p ch) (s.chan t p ch).place x g := by
  subst range rows
  have good : ¬ ((s.chan t p ch).cbBad = true ∨ l.poisoned = true) := by
    rw [sound, clean]
    decide
  rw [State.expand, if_neg due.mayExpand, due.layer]
  dsimp only
  rw [if_neg ahead, if_neg good, room]
  dsimp only
  rw [scales]
  dsimp only
  rw [regions]
  rfl

/-! ## What the writing of a ring leaves -/

theorem State.setPresent_counter (s : State) (t p k : Nat) {f : Fld} (low : f.lo = 0) : (s.setPresent t p k).rg f = s.rg f := by
  have high : ∀ q ∈ [(SLOT_STAT_PRESENT t p k, 1), (SLOT_STAT_RELEASED t p k, 0), (SLOT_STAT_RWAIT t p k, 0)], q.1.lo % 32 ≠ 0 := by
    simp [SLOT_STAT_PRESENT, SLOT_STAT_RELEASED, SLOT_STAT_RWAIT]
  refine s.rg_wrs_other (g := f) _ fun q member => Fld.key_ne_of_lo ?_
  rw [low]
  exact (high q member).symm

/-- Regions written into a ring leave every counter: the rows are no registers, and a presence bit is none (R290). -/
theorem State.expWrite_counter (s : State) (t p : Nat) (d : List Nat) (l : Layer) (place : Nat) (g : List Region) {f : Fld}
    (low : f.lo = 0) : (s.expWrite t p d l place g).rg f = s.rg f := by
  refine foldl_of (P := fun u : State => u.rg f = s.rg f) (foldl_of (P := fun u : State => u.rg f = s.rg f) rfl fun u i kept => ?_)
    fun u i kept => ?_
  · dsimp only
    split
    · exact kept
    · split
      · exact kept
      · exact ite_of (P := fun u : State => u.rg f = s.rg f) (fun _ => kept) fun _ => kept
  · dsimp only
    split
    · split
      · exact (State.setPresent_counter _ _ _ _ low).trans kept
      · exact kept
    · exact kept

theorem State.acceptSlots_spec (s : State) (m : Model) (l : Layer) (x n : Nat) :
    (s.acceptSlots m l x n).regs = s.regs ∧ (s.acceptSlots m l x n).mem = s.mem :=
  ite_of (P := fun u : State => u.regs = s.regs ∧ u.mem = s.mem) (fun _ => ⟨rfl, rfl⟩) fun _ => ⟨rfl, rfl⟩

theorem State.filled_spec (s : State) (t p ch : Nat) (m : Model) (l : Layer) (d : List Nat) (place x : Nat)
    (g : List Region) : (s.filled t p ch m l d place x g).rg (EXP_POS_REGION t p ch) = (x + l.sg) % 2 ^ 32 ∧
      (s.filled t p ch m l d place x g).rg (EXP_SLOTS t p) = (s.rg (EXP_SLOTS t p) + l.sg) % 2 ^ 64 ∧
      (s.filled t p ch m l d place x g).mem = (s.expWrite t p d l place g).mem := by
  obtain ⟨regs, mem⟩ := (s.expWrite t p d l place g).acceptSlots_spec m l x l.sg
  have before : ((s.expWrite t p d l place g).acceptSlots m l x l.sg).rg (EXP_SLOTS t p) = s.rg (EXP_SLOTS t p) :=
    (State.rg_congr regs _).trans (s.expWrite_counter t p d l place g rfl)
  have counted := ((s.expWrite t p d l place g).acceptSlots m l x l.sg).rg_bump_same (EXP_SLOTS t p) l.sg
  rw [before] at counted
  have apart : (EXP_SLOTS t p).key ≠ (EXP_POS_REGION t p ch).key :=
    Fld.key_ne_of_off (by exact (by decide : (0 : Nat) < 32)) (by exact (by decide : (0 : Nat) < 32))
      (show stnBase t p + 0x1118 ≠ stnBase t p + 0x1104 + 0x8 * ch by omega)
  exact ⟨State.rg_wr_same _ (EXP_POS_REGION t p ch) _, (State.rg_wr_other _ apart _).trans counted, mem⟩

/-! ## Waiting -/

/-- A station's registers lie apart from the counter of panics. -/
theorem stn_key_ne_panic {f : Fld} {o : Nat} (place : f.off = stnBase t p + o) (low : f.lo < 32) : f.key ≠ DRAM_PANIC_CNT.key :=
  Fld.key_ne_of_off low (by exact (by decide : (0 : Nat) < 32)) (by
    rw [place, stnBase]
    show 0x1000000 + t * 0x200000 + p * 0x10000 + o ≠ 0x7000a0
    omega)

/-- The place of a channel is none of the counters of stalled slots. -/
theorem pos_key_ne_stall (t p ch u v : Nat) : (EXP_POS_REGION t p ch).key ≠ (SLOT_STALL u v).key :=
  Fld.key_ne_of_off (by exact (by decide : (0 : Nat) < 32)) (by exact (by decide : (0 : Nat) < 32)) (by
    show stnBase t p + 0x1104 + 0x8 * ch ≠ stnBase u v + 0xa40
    rw [stnBase, stnBase]
    omega)

/-- A write that stalls on a full slot shows at the slot; the places of channels stay (R125). -/
theorem State.stallSlot_spec (s : State) (t p ch u v k : Nat) :
    (s.stallSlot u v k true).on (SLOT_STAT_WWAIT u v k) ∧
      (s.stallSlot u v k true).rg (EXP_POS_REGION t p ch) = s.rg (EXP_POS_REGION t p ch) := by
  constructor
  · refine (congrArg (· == 1) (State.rg_wr_other _ (f := SLOT_STALL u v) (g := SLOT_STAT_WWAIT u v k) ?_ _)).trans
      (s.on_wr_one (f := SLOT_STAT_WWAIT u v k) rfl)
    exact Fld.key_ne_of_lo (by exact (by decide : 27 ≠ 0))
  · refine (State.rg_wr_other (f := SLOT_STALL u v) (g := EXP_POS_REGION t p ch) _ (pos_key_ne_stall t p ch u v) _).trans
      (s.rg_wr_other (f := SLOT_STAT_WWAIT u v k) (g := EXP_POS_REGION t p ch) ?_ 1)
    exact Fld.key_ne_of_lo (by exact (by decide : 0 ≠ 27))

/-- Settles O28: a channel that may expand waits for a stored slot, waits on the first full slot of its ring, or moves past
the range that it has put there. -/
theorem expanderFillsTheRing : Obligations.ExpanderFillsTheRing := by
  unfold Obligations.ExpanderFillsTheRing
  intro s st c cyc m l t p k enabled streams active left runs layer
  have due : ChanDue s t p c.val m l := ⟨enabled, streams, active, left, runs, layer⟩
  have answer {n : Fin 5} {b1 b2 : Bool} {u : State} (went : s.expand t p c.val cyc.toNat n.val b1 b2 = u) :
      execExpanderSlot st c cyc n b1 b2 s = .next u := by
    rw [← went, execExpanderSlot]
  have waitApart : (EXP_POS_REGION t p c.val).key ≠ (EXP_WAIT t p).key :=
    Fld.key_ne_of_off (by exact (by decide : (0 : Nat) < 32)) (by exact (by decide : (0 : Nat) < 32)) (by
      show stnBase t p + 0x1104 + 0x8 * c.val ≠ stnBase t p + 0x1120
      omega)
  have posApart : (EXP_POS_REGION t p c.val).key ≠ DRAM_PANIC_CNT.key :=
    stn_key_ne_panic (o := 0x1104 + 0x8 * c.val) (Nat.add_assoc ..) (by exact (by decide : (0 : Nat) < 32))
  refine ⟨fun b1 b2 => ?_, ?_,
    fun n b1 b2 q ahead sound clean full => ?_⟩
  · obtain ⟨mem, field, -⟩ := s.expPanic_spec t p c.val 0
    refine ⟨_, answer (State.expand_waits due cyc.toNat b1 b2), ?_, mem, ?_⟩
    · have before := field (EXP_WAIT t p) (stn_key_ne_panic (o := 0x1120) rfl (by exact (by decide : (0 : Nat) < 32)))
      rw [State.rg_bump_same, before]
      rfl
    · exact (State.rg_wr_other _ (f := EXP_WAIT t p) waitApart _).trans (field _ posApart)
  · intro n g s1 s2 ahead sound clean s0 d x need room scales regions
    exact ⟨_, answer (State.expand_fills due ahead sound clean rfl rfl room scales regions cyc.toNat),
      s2.filled_spec t p c.val m l d k.place x g⟩
  · obtain ⟨mem, field, chans⟩ := s.expPanic_spec t p c.val n.val
    refine ⟨_, answer (State.expand_full due ahead sound clean full cyc.toNat b1 b2), ?_⟩
    have inside := State.chan_inside due.active
    obtain ⟨stalls, stays⟩ := (s.expPanic t p c.val n.val).stallSlot_spec t p c.val q.1 q.2.1 q.2.2
    refine ⟨stalls, ?_, mem, stays.trans (field _ posApart)⟩
    exact congrArg ExpChan.full (State.chan_onChan (s := (s.expPanic t p c.val n.val).stallSlot q.1 q.2.1 q.2.2 true)
      (by rw [← chans] at inside; exact inside) fun x => { x with full := some q.2.2 })

end Sys2Proof.Machine
end

section
/-! CERTIFICATE. Pages of the pool: their ages, their eviction, their homes in tier 2 and their return (O27, R311 to R322). -/

namespace Sys2Proof.Machine

variable {s s1 : State} {p : PageRec} {pg k : Nat}

/-! ## Page records -/

/-- Of a page changed, every record is as the change made it. -/
theorem State.onPage_made {P : PageRec → Prop} {f : PageRec → PageRec} (made : ∀ x, P (f x)) (s : State) (p : PageRec) :
    ∀ y ∈ (s.onPage p f).pool.pages, y.same p → P y := by
  intro y member same
  obtain ⟨x, -, rfl⟩ := List.mem_map.1 member
  by_cases hit : x.same p
  · rw [if_pos hit]
    exact made x
  · rw [if_neg hit] at same
    exact absurd same hit

/-- What every record of a page meets stays when a change keeps it, and keeps which page a record is of. -/
theorem State.onPage_keeps {P : PageRec → Prop} {f : PageRec → PageRec} (before : ∀ x ∈ s.pool.pages, x.same p → P x)
    (stays : ∀ x, (f x).same p = x.same p) (keeps : ∀ x, P x → P (f x)) (q : PageRec) :
    ∀ y ∈ (s.onPage q f).pool.pages, y.same p → P y := by
  intro y member same
  obtain ⟨x, old, rfl⟩ := List.mem_map.1 member
  by_cases hit : x.same q
  · rw [if_pos hit] at same ⊢
    rw [stays] at same
    exact keeps x (before x old same)
  · rw [if_neg hit] at same ⊢
    exact before x old same

theorem State.books_mem (s : State) : s.books.mem = s.mem := State.proj_books (g := State.mem) (fun _ _ _ => rfl) s

/-- The books write the free counts and the counts of the clients, no counter of the tier core beside them (R309). -/
theorem State.rg_books_counter {f : Fld} (low : f.lo < 32) (below : f.off < 0x600100) (free : f.off ≠ 0x600014)
    (nfree : f.off ≠ 0x60001c) (s : State) : s.books.rg f = s.rg f := by
  have apart {g : Fld} (lowG : g.lo = 0) (off : f.off ≠ g.off) : f.key ≠ g.key := Fld.key_ne_of_off low (by omega) off
  refine (State.rg_wrs_other _ _ ?_).trans (foldl_of (P := fun u : State => u.rg f = s.rg f) rfl
    fun u c same => (State.rg_wrs_other _ _ ?_).trans same)
  · simp [apart (g := TIER_FREE) rfl free, apart (g := TIER_NFREE) rfl nfree]
  · have client (o : Nat) : f.off ≠ 0x600100 + o + 0x20 * c := by omega
    simp [apart (g := TIER_CLIENT_DRAM c) rfl (client 0xc), apart (g := TIER_CLIENT_NAND c) rfl (client 0x10),
      apart (g := TIER_CLIENT_PINNED c) rfl (client 0x14), apart (g := TIER_CLIENT_OLDEST c) rfl (client 0x1c)]

/-! ## Eviction -/

/-- What `evictPage` does to a counter other than its own. -/
theorem State.evictPage_counter {f : Fld} (low : f.lo < 32) (below : f.off < 0x600100) (free : f.off ≠ 0x600014)
    (nfree : f.off ≠ 0x60001c) (other : f.key ≠ TIER_EVICT.key) (s : State) (p : PageRec) : (s.evictPage p).rg f = s.rg f :=
  (State.rg_books_counter low below free nfree _).trans (State.rg_wr_other _ (f := TIER_EVICT) other _)

theorem State.evictPage_pool (s : State) (p : PageRec) : (s.evictPage p).pool = (s.onPage p fun x => { x with t1 := none }).pool :=
  State.books_pool _

theorem State.evictPage_spec (s : State) (p : PageRec) : (∀ x ∈ (s.evictPage p).pool.pages, x.same p → x.t1 = none) ∧
    (s.evictPage p).rg TIER_EVICT = (s.rg TIER_EVICT + 1) % 2 ^ 64 ∧ (s.evictPage p).mem = s.mem := by
  refine ⟨?_, ?_, State.books_mem _⟩
  · rw [State.evictPage_pool]
    exact s.onPage_made (P := fun x => x.t1 = none) (fun _ => rfl) p
  · exact (State.rg_books_counter (by decide) (by decide) (by decide) (by decide) _).trans (State.rg_bump_same _ TIER_EVICT 1)

/-- The state with the eviction under way or not (R312). -/
def State.withEvicting (s : State) (go : Bool) : State := { s with pool := { s.pool with evicting := go } }

theorem execEviction_candidate (enabled : s.on TIER_CTRL_EN) (low : s.rg TIER_FREE * 64 < s.rg TIER_POOL_DRAM)
    (first : s.candidatePage (fun _ => true) = some p) : execEviction s = .next (if p.t2.isSome then
      (s.withEvicting true).evictPage p else (s.withEvicting true).onPage p fun x => { x with wb := true }) := by
  have go : (s.on TIER_CTRL_EN && (decide (s.rg TIER_FREE * 64 < s.rg TIER_POOL_DRAM) || (s.pool.evicting &&
      decide (s.rg TIER_FREE * 32 < s.rg TIER_POOL_DRAM)))) = true := by simp [enabled, low]
  have candidate : (s.withEvicting true).candidatePage (fun _ => true) = some p := first
  rw [execEviction, State.eviction]
  dsimp only
  rw [go, if_neg (by decide)]
  rw [State.withEvicting] at candidate
  rw [candidate]
  rfl

theorem execEviction_off (off : ¬ s.on TIER_CTRL_EN) : execEviction s = .next (s.withEvicting false) := by
  have go : (s.on TIER_CTRL_EN && (decide (s.rg TIER_FREE * 64 < s.rg TIER_POOL_DRAM) || (s.pool.evicting &&
      decide (s.rg TIER_FREE * 32 < s.rg TIER_POOL_DRAM)))) = false := by simp [off]
  rw [execEviction, State.eviction]
  dsimp only
  rw [go, if_pos (by decide)]
  rfl

/-! ## The age clock -/

/-- A page by a tick of the age clock (R311). -/
def State.aged (s : State) (x : PageRec) : PageRec :=
  if x.t1.isNone || s.pinned x then x else if x.acc then { x with age := 0, acc := false } else { x with age := min 255 (x.age + 1) }

/-- Which pages are pinned does not hang on the age clock (R310). -/
theorem State.pinned_clock (s : State) (v : Nat) (x : PageRec) : (s.wr TIER_AGE_CLOCK v).pinned x = s.pinned x := by
  have kind : (s.wr TIER_AGE_CLOCK v).rg (TIER_CLIENT_CTRL_KIND x.client) = s.rg (TIER_CLIENT_CTRL_KIND x.client) :=
    s.rg_wr_other (f := TIER_AGE_CLOCK) (Fld.key_ne_of_lo (by exact (by decide : 28 ≠ 24))) v
  have nand : (s.wr TIER_AGE_CLOCK v).rg NAND_STATUS_STATE = s.rg NAND_STATUS_STATE :=
    s.rg_wr_other (f := TIER_AGE_CLOCK) (by decide) v
  rw [State.pinned, kind, nand]
  rfl

/-- The pool after a tick of the age clock. -/
def State.agedPool (s : State) : State :=
  { s with pool := { s.pool with pages := s.pool.pages.map s.aged, ageTides := s.pool.ageTides - s.rg TIER_AGE_AGE_TIDES } }

theorem execAgeTick_due (due : s.rg TIER_AGE_AGE_TIDES ≤ s.pool.ageTides) :
    execAgeTick s = .next (s.agedPool.bump TIER_AGE_CLOCK).books := by
  have tides : (s.bump TIER_AGE_CLOCK).rg TIER_AGE_AGE_TIDES = s.rg TIER_AGE_AGE_TIDES :=
    s.rg_wr_other (f := TIER_AGE_CLOCK) (by decide) _
  have ages : (fun x : PageRec => if x.t1.isNone || (s.bump TIER_AGE_CLOCK).pinned x then x
      else if x.acc then { x with age := 0, acc := false } else { x with age := min 255 (x.age + 1) }) = s.aged := by
    funext x
    rw [State.bump, State.pinned_clock]
    rfl
  rw [execAgeTick, State.ageTick, if_neg (by omega)]
  dsimp only
  rw [ages]
  show (.next (State.books { (s.bump TIER_AGE_CLOCK).onPages s.aged with pool := { ((s.bump TIER_AGE_CLOCK).onPages s.aged).pool with
    ageTides := s.pool.ageTides - (s.bump TIER_AGE_CLOCK).rg TIER_AGE_AGE_TIDES } }) : Res) = _
  rw [tides]
  rfl

theorem State.agedPool_spec (s : State) : (s.agedPool.bump TIER_AGE_CLOCK).books.rg TIER_AGE_CLOCK = (s.rg TIER_AGE_CLOCK + 1) % 2 ^ 8 ∧
    (s.agedPool.bump TIER_AGE_CLOCK).books.mem = s.mem ∧ (s.agedPool.bump TIER_AGE_CLOCK).books.pool = s.agedPool.pool :=
  ⟨(State.rg_books_of_lo (f := TIER_AGE_CLOCK) (by decide) _).trans (State.rg_bump_same _ TIER_AGE_CLOCK 1), State.books_mem _,
    State.books_pool _⟩

/-! ## Homes in tier 2 -/

/-- From `s` to `u` the flash has changed, no more. -/
def NandOnly (s u : State) : Prop := ∃ n, u = { s with nand := n }

theorem NandOnly.refl (s : State) : NandOnly s s := ⟨s.nand, rfl⟩

theorem NandOnly.onNand {a u : State} (h : NandOnly a u) (f : NandSt → NandSt) : NandOnly a (u.onNand f) := by
  obtain ⟨n, rfl⟩ := h
  exact ⟨_, rfl⟩

theorem NandOnly.closeRow {a u : State} (h : NandOnly a u) (stripe sb page : Nat) (dies : List Nat) :
    NandOnly a (u.closeRow stripe sb page dies) := by
  unfold State.closeRow
  exact h.onNand _

theorem State.openRow_nandOnly (s : State) (stripe : Nat) (most : Bool) : NandOnly s (s.openRow stripe most).2 := by
  unfold State.openRow
  split
  · exact .refl s
  · split
    · exact .refl s
    · next sb _ => exact (NandOnly.refl s).onNand fun n => { n with
        written := sb :: n.written, opened := n.opened.set stripe (some (sb, 0, [])) none }

/-- A page put into a stripe changes the flash alone (R307, R340). -/
theorem State.putInto_nandOnly (s : State) (stripe : Nat) (most : Bool) (b : List Byte) : NandOnly s (s.putInto stripe most b).2 := by
  have opened := s.openRow_nandOnly stripe most
  unfold State.putInto
  split
  next u none =>
    rw [none] at opened
    exact opened
  next sb page dies u found =>
    rw [found] at opened
    replace opened : NandOnly s u := opened
    split
    · exact opened
    · exact ite_of (P := NandOnly s) (fun _ => (opened.onNand _).closeRow ..) fun _ => opened.onNand _

theorem State.nandPut_nandOnly (s : State) (b : List Byte) : NandOnly s (s.nandPut b).2 := by
  unfold State.nandPut
  extract_lets used i
  have first := s.putInto_nandOnly i false b
  split
  next page u put => exact put ▸ first
  next u put =>
    rw [put] at first
    refine ite_of (P := fun r : Option Nat × State => NandOnly s r.2) (fun _ => ?_) fun _ => first
    obtain ⟨n, rfl⟩ := first
    obtain ⟨n', same⟩ := State.putInto_nandOnly { s with nand := n } (1 - i) false b
    exact ⟨n', same⟩

/-- A page record with its home in tier 2 (R307, R313). -/
def PageRec.home (k crc : Nat) (x : PageRec) : PageRec :=
  { x with t2 := some k, wb := false, crc := if x.layer = 0xFFF then crc else x.crc }

/-- A page has its home: every record of it, the count and memory (R313, R314). -/
structure Homed (s : State) (p : PageRec) (k : Nat) (u : State) : Prop where
  pages : ∀ x ∈ u.pool.pages, x.same p → x.t2 = some k ∧ x.wb = false
  count : u.rg TIER_WRITEBACK = (s.rg TIER_WRITEBACK + 1) % 2 ^ 64
  mem : u.mem = s.mem

theorem State.writeHome_homed (held : p.t1 = some pg) (put : s.nandPut (s.ld (pg * 65536) 65536) = (some k, s1)) :
    s1.regs = s.regs ∧ Homed s p k (s.writeHome p) := by
  obtain ⟨n, same⟩ := put ▸ s.nandPut_nandOnly (s.ld (pg * 65536) 65536)
  have went : s.writeHome p = (s1.onPage p (PageRec.home k (crc32c (s.ld (pg * 65536) 65536)))).bump TIER_WRITEBACK := by
    rw [State.writeHome, held]
    dsimp only
    rw [put]
    rfl
  subst same
  rw [went]
  exact ⟨rfl, State.onPage_made (P := fun x => x.t2 = some k ∧ x.wb = false) (fun _ => ⟨rfl, rfl⟩) _ p, s.rg_bump_same TIER_WRITEBACK 1, rfl⟩

theorem Homed.books {u : State} (h : Homed s p k u) : Homed s p k u.books := by
  obtain ⟨pages, count, mem⟩ := h
  refine ⟨?_, (State.rg_books_counter (by decide) (by decide) (by decide) (by decide) u).trans count, u.books_mem.trans mem⟩
  rw [u.books_pool]
  exact pages

/-- A page that leaves tier 1 keeps its home. -/
theorem Homed.evictPage {u : State} (h : Homed s p k u) (q : PageRec) : Homed s p k (u.evictPage q) := by
  obtain ⟨pages, count, mem⟩ := h
  refine ⟨?_, (State.evictPage_counter (by decide) (by decide) (by decide) (by decide) (by decide) u q).trans count,
    (u.evictPage_spec q).2.2.trans mem⟩
  rw [State.evictPage_pool]
  exact State.onPage_keeps (f := fun x => { x with t1 := none }) pages (fun _ => rfl) (fun _ at_home => at_home) q

theorem State.writebackDone_homed (held : p.t1 = some pg) (first : s.pool.pages.find? (fun x => x.wb) = some p)
    (writes : ¬ s.nandReadOnly) (put : s.nandPut (s.ld (pg * 65536) 65536) = (some k, s1)) :
    s1.regs = s.regs ∧ Homed s p k s.writebackDone := by
  obtain ⟨regs, home⟩ := State.writeHome_homed held put
  refine ⟨regs, ?_⟩
  rw [State.writebackDone, first]
  dsimp only
  rw [if_neg writes]
  generalize s.writeHome p = u at home ⊢
  cases found : u.pool.pages.find? fun q => q.same p with
  | none => exact home
  | some x =>
    have placed := (home.pages x (List.mem_of_find?_eq_some found) (List.find?_some (p := fun q : PageRec => q.same p) found)).1
    dsimp only
    rw [if_neg (by rw [placed]; exact Bool.false_ne_true)]
    exact ite_of (P := Homed s p k) (fun _ => home.books) fun _ => home.evictPage x

theorem State.homeCopy_homed (held : p.t1 = some pg)
    (first : s.pool.pages.find? (fun x => x.layer != 0xFFF && x.t1.isSome && x.t2.isNone && !x.wb) = some p)
    (writes : ¬ s.nandReadOnly) (enabled : s.on TIER_CTRL_EN) (put : s.nandPut (s.ld (pg * 65536) 65536) = (some k, s1)) :
    s1.regs = s.regs ∧ Homed s p k s.homeCopy := by
  obtain ⟨regs, home⟩ := State.writeHome_homed held put
  refine ⟨regs, ?_⟩
  rw [State.homeCopy, if_neg (not_or.2 ⟨writes, not_not_intro enabled⟩), first]
  exact home.books

/-! ## The return from tier 2 -/

theorem length_nandPage (s : State) (k : Nat) : (s.nandPage k).length = 65536 := length_fitTo ..

/-- What a unit of the module writes into DRAM reads back (R329). -/
theorem State.ld_dramWrite (s : State) (port a : Nat) (b : List Byte) : (s.dramWrite port a b).ld a b.length = b := by
  unfold State.dramWrite
  exact State.ld_st _ a b

/-- A home copy read as it is stored leaves no note (R322). -/
theorem State.readEvent_plain (s : State) (p : PageRec) : s.readEvent 0 p = s := rfl

/-- The state with the promotion queue `rest`, shown (R316). -/
def State.withPromotions (s : State) (rest : List (Nat × Nat × Nat × Nat)) : State :=
  ({ s with pool := { s.pool with queue := rest } } : State).wr TIER_QUEUE_PAGES rest.length

/-- A page record after its promotion (R316). -/
def PageRec.promoted (x : PageRec) : PageRec := { x with prom := false, age := 0, t2 := if x.layer = 0xFFF then none else x.t2 }

theorem State.promotionArrive_good {q : Nat × Nat × Nat × Nat} {rest : List (Nat × Nat × Nat × Nat)}
    (queue : s.pool.queue = q :: rest) (found : s.page? q.1 q.2.1 q.2.2.1 q.2.2.2 = some p) (held : p.t1 = some pg)
    (home : p.t2 = some k) (sound : crc32c (s.nandPage k) = p.crc) : s.promotionArrive 0 =
      (((((s.withPromotions rest).dramWrite 26 (pg * 65536) (s.nandPage k)).onPage p PageRec.promoted).bump
        TIER_PROMOTE).readySets).books := by
  have page : (s.withPromotions rest).page? q.1 q.2.1 q.2.2.1 q.2.2.2 = some p := found
  have good : ¬ crc32c ((s.withPromotions rest).nandPage k) ≠ p.crc := not_not_intro sound
  rw [State.promotionArrive, queue]
  dsimp only
  rw [← State.withPromotions, page]
  dsimp only
  rw [home, held]
  dsimp only
  rw [State.readEvent_plain, if_neg (by simp), if_neg good]
  rfl

theorem State.promotionArrive_spec {rest : List (Nat × Nat × Nat × Nat)} {u : State}
    (went : u = (((((s.withPromotions rest).dramWrite 26 (pg * 65536) (s.nandPage k)).onPage p PageRec.promoted).bump
      TIER_PROMOTE).readySets).books) :
    u.ld (pg * 65536) 65536 = s.nandPage k ∧ (∀ x ∈ u.pool.pages, x.same p → x.prom = false ∧ x.age = 0) ∧
      u.pool.queue = rest ∧ u.rg TIER_QUEUE_PAGES = rest.length % 2 ^ 28 ∧
      u.rg TIER_PROMOTE = (s.rg TIER_PROMOTE + 1) % 2 ^ 64 := by
  have noted := (Noted.refl (s.withPromotions rest)).dramWrite 26 (pg * 65536) (s.nandPage k)
  have stored := (s.withPromotions rest).ld_dramWrite 26 (pg * 65536) (s.nandPage k)
  rw [length_nandPage] at stored
  generalize (s.withPromotions rest).dramWrite 26 (pg * 65536) (s.nandPage k) = w at noted stored went
  have regs {f : Fld} (low : f.lo < 32) (below : f.off < 0x600100) (free : f.off ≠ 0x600014) (nfree : f.off ≠ 0x60001c) :
      u.rg f = ((w.onPage p PageRec.promoted).bump TIER_PROMOTE).rg f := by
    rw [went]
    exact State.rg_books_counter low below free nfree _
  have pool : u.pool = (w.onPage p PageRec.promoted).pool := by
    rw [went]
    exact State.books_pool _
  have mem : u.mem = w.mem := by
    rw [went]
    exact State.books_mem _
  refine ⟨?_, ?_, ?_, ?_, ?_⟩
  · rw [State.ld, mem]
    exact stored
  · rw [pool]
    exact w.onPage_made (P := fun x => x.prom = false ∧ x.age = 0) (fun _ => ⟨rfl, rfl⟩) p
  · rw [pool]
    exact (congrArg (fun x : State => x.pool.queue) noted.rest :)
  · rw [regs (by decide) (by decide) (by decide) (by decide)]
    refine (State.rg_wr_other _ (f := TIER_PROMOTE) (g := TIER_QUEUE_PAGES) (by decide) _).trans ?_
    exact (noted.field TIER_QUEUE_PAGES (by decide)).trans (State.rg_wr_same _ TIER_QUEUE_PAGES _)
  · have before : w.rg TIER_PROMOTE = s.rg TIER_PROMOTE :=
      (noted.field TIER_PROMOTE (by decide)).trans (State.rg_wr_other _ (f := TIER_QUEUE_PAGES) (by decide) _)
    rw [regs (by decide) (by decide) (by decide) (by decide), State.rg_bump_same]
    show (w.rg TIER_PROMOTE + 1) % 2 ^ 64 = _
    rw [before]

/-! ## Repair -/

theorem State.postEvent_pool (s : State) (code src arg : Nat) (data : List Byte := []) (stamp : Option (List Byte) := none) :
    (s.postEvent code src arg data stamp).pool = s.pool := by
  unfold State.postEvent
  extract_lets seq _ lost _ tail e s2 s3
  refine ite_of (P := fun u : State => u.pool = s.pool) (fun _ => rfl) fun _ =>
    ite_of (P := fun u : State => u.pool = s.pool) (fun _ => ?_) fun _ => rfl
  obtain ⟨p, o, raised⟩ := s3.raise_eq 0
  rw [raised]
  rfl

theorem State.logEntry_pool (s : State) (code src wher arg : Nat) (status : Nat := 0) :
    (s.logEntry code src wher arg status).pool = s.pool := by
  unfold State.logEntry
  refine ite_of (P := fun u : State => u.pool = s.pool) (fun _ => rfl) fun _ =>
    ite_of (P := fun u : State => u.pool = s.pool) (fun _ => ?_) fun _ => rfl
  exact ite_of (P := fun u : State => u.pool = s.pool) (fun _ => State.postEvent_pool ..) fun _ => rfl

theorem State.count_pool (s : State) (i n : Nat) : (s.count i n).pool = s.pool := by
  unfold State.count
  exact ite_of (P := fun u : State => u.pool = s.pool) (fun _ => (State.postEvent_pool ..).trans (State.logEntry_pool ..)) fun _ => rfl

theorem State.pageRepair_good (first : s.pool.pages.find? (fun x => x.bad && x.badNext != some false) = some p)
    (held : p.t1 = some pg) (home : p.t2 = some k) (sound : crc32c (s.nandPage k) = p.crc) : s.pageRepair 0 true =
      ((((s.dramWrite 26 (pg * 65536) (s.nandPage k)).onPage p fun x => { x with badNext := some false }).bump
        TIER_REBUILD).count 15).logEntry 0x000D 2 0xFFFF (p.layer % 4096) stOk := by
  simp [State.pageRepair, first, home, held, sound, State.readEvent_plain]

/-- A page rebuilt and counted (R322). -/
theorem State.pageRepair_spec {w u : State} (noted : Noted s w) {code arg : Nat}
    (went : u = (((w.onPage p fun x => { x with badNext := some false }).bump TIER_REBUILD).count 15).logEntry code 2 0xFFFF arg stOk) :
    (∀ x ∈ u.pool.pages, x.same p → x.badNext = some false) ∧ u.rg TIER_REBUILD = (s.rg TIER_REBUILD + 1) % 2 ^ 64 := by
  have after := ((Noted.refl ((w.onPage p fun x => { x with badNext := some false }).bump TIER_REBUILD)).count 15).logEntry
    code 2 0xFFFF arg stOk
  have pool := (State.logEntry_pool (((w.onPage p fun x => { x with badNext := some false }).bump TIER_REBUILD).count 15)
    code 2 0xFFFF arg stOk).trans (State.count_pool _ 15 1)
  rw [← went] at after pool
  constructor
  · rw [pool]
    exact w.onPage_made (P := fun x => x.badNext = some false) (fun _ => rfl) p
  · rw [after.field TIER_REBUILD (by decide), State.rg_bump_same]
    show (w.rg TIER_REBUILD + 1) % 2 ^ 64 = _
    rw [noted.field TIER_REBUILD (by decide)]

/-- Settles O27: pages age by the clock, a candidate leaves tier 1 or is marked for its write-back, a page written is at its new
home, and one that returns or is rebuilt is written whole into its tier 1 page. -/
theorem pagesMoveBetweenTiers : Obligations.PagesMoveBetweenTiers := by
  unfold Obligations.PagesMoveBetweenTiers
  refine ⟨fun s => ⟨fun due => ?_, fun early => ?_, fun p enabled low first => ⟨fun copied => ?_, fun single => ?_⟩, fun off => ?_⟩,
    fun s p pg k held => ⟨fun s1 first writes put => ?_, fun s1 first writes enabled put => ?_,
      fun q rest queue found home sound => ?_, fun first home sound => ?_⟩⟩
  · obtain ⟨clock, mem, pool⟩ := s.agedPool_spec
    exact ⟨_, execAgeTick_due due, clock, mem, congrArg (·.ageTides) pool, congrArg (·.pages) pool⟩
  · exact congrArg (fun u : State => (.next u : Res)) (if_pos early)
  · have went := execEviction_candidate enabled low first
    rw [if_pos copied] at went
    exact ⟨_, went, (s.withEvicting true).evictPage_spec p⟩
  · have went := execEviction_candidate enabled low first
    rw [if_neg (by rw [single]; decide)] at went
    exact ⟨_, went, (s.withEvicting true).onPage_made (P := fun x => x.wb = true) (fun _ => rfl) p, rfl, rfl⟩
  · exact ⟨_, execEviction_off off, rfl, rfl⟩
  · obtain ⟨regs, pages, count, mem⟩ := State.writebackDone_homed held first writes put
    exact ⟨_, rfl, regs, pages, count, mem⟩
  · obtain ⟨regs, pages, count, mem⟩ := State.homeCopy_homed held first writes enabled put
    exact ⟨_, rfl, regs, pages, count, mem⟩
  · exact ⟨_, congrArg (fun u : State => (.next u : Res)) (State.promotionArrive_good queue found held home sound),
      State.promotionArrive_spec rfl⟩
  · exact ⟨_, congrArg (fun u : State => (.next u : Res)) (State.pageRepair_good first held home sound),
      State.pageRepair_spec ((Noted.refl s).dramWrite 26 (pg * 65536) (s.nandPage k)) rfl⟩

end Sys2Proof.Machine
end

section
/-! SUPPORT. DMA channels: the ring's places, the end of a descriptor and its stop (R355, R358 to R363). -/

namespace Sys2Proof.Machine

variable {s u v : State} {c : Nat}

theorem State.dmaCh_onDma (s : State) (c : Nat) (f : DmaCh → DmaCh) : (s.onDma c f).dmaCh c = f (s.dmaCh c) :=
  KMap.get_set_same s.dma.chs c (f (s.dmaCh c)) {}

/-- A flag raised writes its bit; beside the registers only interrupts change. -/
theorem State.flag_eq (s : State) (ev en : Fld) (n : Nat) :
    ∃ p o, s.flag ev en n = { s.wr ev 1 with fw := { s.fw with pba := p }, out := o } := by
  refine ite_of (P := fun u : State => ∃ p o, u = { s.wr ev 1 with fw := { s.fw with pba := p }, out := o })
    (fun _ => (s.wr ev 1).raise_eq n) fun _ => ⟨s.fw.pba, s.out, rfl⟩

theorem State.flag_dma (s : State) (ev en : Fld) (n : Nat) : (s.flag ev en n).dma = s.dma := by
  obtain ⟨p, o, same⟩ := s.flag_eq ev en n
  rw [same]
  rfl

theorem State.flag_hostMem (s : State) (ev en : Fld) (n : Nat) : (s.flag ev en n).hostMem = s.hostMem := by
  obtain ⟨p, o, same⟩ := s.flag_eq ev en n
  rw [same]
  rfl

theorem State.flag_mem (s : State) (ev en : Fld) (n : Nat) : (s.flag ev en n).mem = s.mem := by
  obtain ⟨p, o, same⟩ := s.flag_eq ev en n
  rw [same]
  rfl

/-! ## Places of a ring (R355) -/

theorem State.dmaProd_posts {v n held : Nat} (size : n = 2 ^ s.rg (DMA_RING_SIZE c))
    (inUse : held = (s.rg (DMA_PROD_INDEX c) + n - s.rg (DMA_CONS_INDEX c) % n) % n) :
    s.dmaProd c v = if n ≤ (v + n - s.rg (DMA_PROD_INDEX c) % n) % n + held then s.wr (DMA_STAT_ERR_RING c) 1
      else s.wr (DMA_PROD_INDEX c) (v % n) := by
  subst size inUse
  have places : 0 < 2 ^ s.rg (DMA_RING_SIZE c) := Nat.two_pow_pos _
  have below := Nat.mod_lt (s.rg (DMA_PROD_INDEX c) + 2 ^ s.rg (DMA_RING_SIZE c) - s.rg (DMA_CONS_INDEX c) % 2 ^ s.rg (DMA_RING_SIZE c))
    places
  rw [State.dmaProd]
  exact if_congr (by omega) rfl rfl

/-! ## The end of a descriptor (R358, R359) -/

/-- The status is written back into the descriptor. -/
def State.statusBack (s : State) (c status : Nat) : State :=
  let a := s.rg (DMA_BASE_ADDR c) + 64 * s.rg (DMA_CONS_INDEX c)
  if s.inDram a 64 then s.dramWrite 24 (a + 44) (natLE 1 status ++ zeros 3 ++ s.stamp.bytes) else s

/-- CONS past the descriptor, the channel idle, the end counted. -/
def State.dmaClosed (s : State) (c : Nat) : State :=
  (((s.wr (DMA_CONS_INDEX c) ((s.rg (DMA_CONS_INDEX c) + 1) % 2 ^ s.rg (DMA_RING_SIZE c))).onDma c fun _ => {}).wr
    (DMA_STAT_BUSY c) 0).bump (DMA_DONE c)

/-- The flag of the terrace that a descriptor `d` sets, at once or at the boundary of its tide. -/
def State.dmaSignal (s : State) (d : List Byte) : State :=
  if dRt d then { s with dma := { s.dma with flags := s.dma.flags ++ [(s.rg TIDE_NUM + 1, leAt d 38 1, leAt d 39 1)] } }
  else s.setTflag (leAt d 38 1) (leAt d 39 1)

/-- The error of a descriptor `d`: its code, unless one is shown, and the halt that the descriptor asks for. -/
def State.dmaFailed (s : State) (c : Nat) (d : List Byte) (status : Nat) : State :=
  let s := if s.on (DMA_STAT_ERR c) then s else s.wr (DMA_STAT_CODE c) status
  let s := s.flag (DMA_STAT_ERR c) (DMA_IEN_ERR c) (16 + c)
  if dCtrl d 7 then s.wrs [(DMA_RING_EN c, 0), (DMA_RING_HALTED c, 1)] else s

/-- A closed descriptor `d` that asks for a flag sets it when it ended with OK. -/
def State.dmaSignalled (s : State) (d : List Byte) (status : Nat) : State :=
  if ¬ (status = stOk ∧ dCtrl d 3) then s else s.dmaSignal d

theorem State.dmaEnd_eq (s : State) (c status : Nat) : s.dmaEnd c status =
    let u := ((s.statusBack c status).dmaClosed c).dmaSignalled (s.dmaCh c).desc status
    if status = stOk then (if dCtrl (s.dmaCh c).desc 1 then u.flag (DMA_STAT_FULL c) (DMA_IEN_FULL c) (16 + c) else u)
    else u.dmaFailed c (s.dmaCh c).desc status := rfl

theorem State.dmaEnd_failed (s : State) (c : Nat) {status : Nat} (bad : status ≠ stOk) : s.dmaEnd c status =
    ((s.statusBack c status).dmaClosed c).dmaFailed c (s.dmaCh c).desc status := by
  rw [State.dmaEnd_eq, State.dmaSignalled, if_pos fun h => bad h.1]
  exact if_neg bad

/-- What the close of a descriptor shows and keeps. -/
structure DmaClosed (c : Nat) (s u : State) : Prop where
  ch : u.dmaCh c = {}
  busy : u.on (DMA_STAT_BUSY c) = false
  cons : u.rg (DMA_CONS_INDEX c) = (s.rg (DMA_CONS_INDEX c) + 1) % 2 ^ s.rg (DMA_RING_SIZE c) % 2 ^ 12
  done : u.rg (DMA_DONE c) = (s.rg (DMA_DONE c) + 1) % 2 ^ 64
  field : ∀ f : Fld, f.key ≠ (DMA_CONS_INDEX c).key → f.key ≠ (DMA_STAT_BUSY c).key → f.key ≠ (DMA_DONE c).key → u.rg f = s.rg f
  mem : u.mem = s.mem
  hostMem : u.hostMem = s.hostMem

theorem State.dmaClosed_spec (s : State) (c : Nat) : DmaClosed c s (s.dmaClosed c) := by
  have consBusy : (DMA_CONS_INDEX c).key ≠ (DMA_STAT_BUSY c).key := Fld.key_ne_of_lo (by exact (by decide : 0 ≠ 27))
  have consDone : (DMA_CONS_INDEX c).key ≠ (DMA_DONE c).key := by
    simp only [ne_eq, Fld.key, DMA_CONS_INDEX, DMA_DONE]
    omega
  have doneBusy : (DMA_DONE c).key ≠ (DMA_STAT_BUSY c).key := Fld.key_ne_of_lo (by exact (by decide : 0 ≠ 27))
  have idle := State.dmaCh_onDma (s.wr (DMA_CONS_INDEX c) ((s.rg (DMA_CONS_INDEX c) + 1) % 2 ^ s.rg (DMA_RING_SIZE c))) c fun _ => {}
  refine ⟨idle, ?_, ?_, ?_, fun f cons busy done => ?_, rfl, rfl⟩
  · refine (State.on_congr (State.rg_wr_other _ (f := DMA_DONE c) doneBusy.symm _)).trans ?_
    exact State.on_wr_b2n _ (f := DMA_STAT_BUSY c) rfl false
  · refine (State.rg_wr_other _ (f := DMA_DONE c) consDone _).trans ((State.rg_wr_other _ (f := DMA_STAT_BUSY c) consBusy _).trans ?_)
    exact s.rg_wr_same (DMA_CONS_INDEX c) _
  · refine (State.rg_bump_same _ (DMA_DONE c) 1).trans ?_
    have before := (State.rg_wr_other ((s.wr (DMA_CONS_INDEX c) ((s.rg (DMA_CONS_INDEX c) + 1) % 2 ^ s.rg (DMA_RING_SIZE c))).onDma c
      fun _ => {}) (f := DMA_STAT_BUSY c) (g := DMA_DONE c) doneBusy 0).trans
      (s.rg_wr_other (f := DMA_CONS_INDEX c) (g := DMA_DONE c) consDone.symm _)
    rw [before]
    rfl
  · exact (State.rg_wr_other _ done _).trans ((State.rg_wr_other _ busy _).trans (s.rg_wr_other cons _))

/-- The fields of a channel are none of those that notes of errors write. -/
def dmaFlds (c : Nat) : List Fld :=
  [DMA_BASE_ADDR c, DMA_RING_EN c, DMA_RING_HALTED c, DMA_RING_SIZE c, DMA_PROD_INDEX c, DMA_CONS_INDEX c, DMA_STAT_HALF c,
    DMA_STAT_FULL c, DMA_STAT_ERR c, DMA_STAT_BUSY c, DMA_STAT_CODE c, DMA_BYTES c, DMA_DONE c]

theorem dmaFlds_notNoted : ∀ c < 16, ∀ f ∈ dmaFlds c, f.key ∉ noteKeys := by decide +kernel

/-- A status written back leaves the channel's fields, the channels and host memory. -/
theorem State.statusBack_noted (s : State) (c status : Nat) : Noted s (s.statusBack c status) :=
  ite_of (P := Noted s) (fun _ => (Noted.refl s).dramWrite ..) fun _ => .refl s

theorem Noted.dma (h : Noted s u) : u.dma = s.dma := (congrArg (fun x : State => x.dma) h.rest :)

theorem Noted.hostMem (h : Noted s u) : u.hostMem = s.hostMem := (congrArg (fun x : State => x.hostMem) h.rest :)

/-! ## A descriptor that fails or is stopped (R359, R360, R362, R363) -/

/-- A channel shows a descriptor stopped: idle, CONS past it, the error with its first code, no byte more counted or written to
the host. -/
structure DmaStopped (c code : Nat) (s u : State) : Prop where
  ch : u.dmaCh c = {}
  busy : u.on (DMA_STAT_BUSY c) = false
  err : u.on (DMA_STAT_ERR c)
  first : ¬ s.on (DMA_STAT_ERR c) → u.rg (DMA_STAT_CODE c) = code
  later : s.on (DMA_STAT_ERR c) → u.rg (DMA_STAT_CODE c) = s.rg (DMA_STAT_CODE c)
  cons : u.rg (DMA_CONS_INDEX c) = (s.rg (DMA_CONS_INDEX c) + 1) % 2 ^ s.rg (DMA_RING_SIZE c) % 2 ^ 12
  bytes : u.rg (DMA_BYTES c) = s.rg (DMA_BYTES c)
  hostMem : u.hostMem = s.hostMem

/-- Writes of the ring's own bits leave a stopped descriptor as it is shown. -/
theorem DmaStopped.ringBits {code : Nat} (h : DmaStopped c code s u) (dma : v.dma = u.dma) (hostMem : v.hostMem = u.hostMem)
    (field : ∀ f : Fld, f.lo % 32 ≠ 31 → f.lo % 32 ≠ 30 → v.rg f = u.rg f) : DmaStopped c code s v := by
  have busy := field (DMA_STAT_BUSY c) (by exact (by decide : 27 ≠ 31)) (by exact (by decide : 27 ≠ 30))
  have err := field (DMA_STAT_ERR c) (by exact (by decide : 29 ≠ 31)) (by exact (by decide : 29 ≠ 30))
  have code := field (DMA_STAT_CODE c) (by exact (by decide : 0 ≠ 31)) (by exact (by decide : 0 ≠ 30))
  have cons := field (DMA_CONS_INDEX c) (by exact (by decide : 0 ≠ 31)) (by exact (by decide : 0 ≠ 30))
  have bytes := field (DMA_BYTES c) (by exact (by decide : 0 ≠ 31)) (by exact (by decide : 0 ≠ 30))
  have ch : v.dmaCh c = u.dmaCh c := by rw [State.dmaCh, dma, State.dmaCh]
  exact ⟨ch.trans h.ch, (State.on_congr busy).trans h.busy, (State.on_congr err).trans h.err, fun none => code.trans (h.first none),
    fun shown => code.trans (h.later shown), cons.trans h.cons, bytes.trans h.bytes, hostMem.trans h.hostMem⟩

/-- The code of an error is kept while one is shown. -/
theorem State.dmaCode_spec (s : State) (c : Nat) {status : Nat} (code : status < 256) {u : State}
    (went : u = if s.on (DMA_STAT_ERR c) then s else s.wr (DMA_STAT_CODE c) status) :
    (¬ s.on (DMA_STAT_ERR c) → u.rg (DMA_STAT_CODE c) = status) ∧
      (s.on (DMA_STAT_ERR c) → u.rg (DMA_STAT_CODE c) = s.rg (DMA_STAT_CODE c)) ∧
      (∀ f : Fld, f.key ≠ (DMA_STAT_CODE c).key → u.rg f = s.rg f) ∧ u.dma = s.dma ∧ u.hostMem = s.hostMem := by
  subst went
  by_cases shown : s.on (DMA_STAT_ERR c)
  · rw [if_pos shown]
    exact ⟨fun none => absurd shown none, fun _ => rfl, fun _ _ => rfl, rfl, rfl⟩
  · rw [if_neg shown]
    exact ⟨fun _ => (s.rg_wr_same (DMA_STAT_CODE c) _).trans (Nat.mod_eq_of_lt code), fun h => absurd h shown,
      fun f apart => s.rg_wr_other apart _, rfl, rfl⟩

theorem State.dmaError_spec (h : DmaClosed c s v) {status : Nat} (code : status < 256) : DmaStopped c status s
    ((if v.on (DMA_STAT_ERR c) then v else v.wr (DMA_STAT_CODE c) status).flag (DMA_STAT_ERR c) (DMA_IEN_ERR c) (16 + c)) := by
  obtain ⟨ch, busy, cons, -, field, -, hostMem⟩ := h
  have errKept : v.on (DMA_STAT_ERR c) = s.on (DMA_STAT_ERR c) := State.on_congr (field _ (Fld.key_ne_of_lo (by exact (by decide : 29 ≠ 0)))
    (Fld.key_ne_of_lo (by exact (by decide : 29 ≠ 27))) (Fld.key_ne_of_lo (by exact (by decide : 29 ≠ 0))))
  have codeKept : v.rg (DMA_STAT_CODE c) = s.rg (DMA_STAT_CODE c) := by
    apply field <;> simp only [ne_eq, Fld.key, DMA_STAT_CODE, DMA_CONS_INDEX, DMA_STAT_BUSY, DMA_DONE] <;> omega
  have bytesKept : v.rg (DMA_BYTES c) = s.rg (DMA_BYTES c) := by
    apply field <;> simp only [ne_eq, Fld.key, DMA_BYTES, DMA_CONS_INDEX, DMA_STAT_BUSY, DMA_DONE] <;> omega
  obtain ⟨first, later, other, dma, host⟩ := v.dmaCode_spec c code rfl
  generalize (if v.on (DMA_STAT_ERR c) then v else v.wr (DMA_STAT_CODE c) status) = w at first later other dma host ⊢
  have flagged {f : Fld} (apart : f.key ≠ (DMA_STAT_ERR c).key) :
      (w.flag (DMA_STAT_ERR c) (DMA_IEN_ERR c) (16 + c)).rg f = w.rg f := State.rg_flag apart ..
  have codeFlagged := flagged (f := DMA_STAT_CODE c) (Fld.key_ne_of_lo (by exact (by decide : 0 ≠ 29)))
  rw [errKept] at first later
  refine ⟨?_, ?_, (w.flag_spec (ev := DMA_STAT_ERR c) rfl ..).1, fun none => codeFlagged.trans (first none),
    fun shown => codeFlagged.trans ((later shown).trans codeKept), ?_, ?_, (State.flag_hostMem ..).trans (host.trans hostMem)⟩
  · rw [State.dmaCh, State.flag_dma, dma]
    exact ch
  · exact (State.on_congr ((flagged (Fld.key_ne_of_lo (by exact (by decide : 27 ≠ 29)))).trans
      (other _ (Fld.key_ne_of_lo (by exact (by decide : 27 ≠ 0)))))).trans busy
  · refine (flagged (Fld.key_ne_of_lo (by exact (by decide : 0 ≠ 29)))).trans ((other _ ?_).trans cons)
    simp only [ne_eq, Fld.key, DMA_CONS_INDEX, DMA_STAT_CODE]
    omega
  · refine (flagged (Fld.key_ne_of_lo (by exact (by decide : 0 ≠ 29)))).trans ((other _ ?_).trans bytesKept)
    simp only [ne_eq, Fld.key, DMA_BYTES, DMA_STAT_CODE]
    omega

theorem State.dmaFailed_spec (h : DmaClosed c s v) (d : List Byte) {status : Nat} (code : status < 256) :
    DmaStopped c status s (v.dmaFailed c d status) ∧ (dCtrl d 7 = true → (v.dmaFailed c d status).on (DMA_RING_HALTED c)) := by
  have shown := State.dmaError_spec h code
  rw [State.dmaFailed]
  generalize (if v.on (DMA_STAT_ERR c) then v else v.wr (DMA_STAT_CODE c) status).flag (DMA_STAT_ERR c) (DMA_IEN_ERR c) (16 + c) = w
    at shown ⊢
  by_cases halts : dCtrl d 7 = true
  · rw [if_pos halts]
    refine ⟨shown.ringBits rfl rfl fun f en halted => ?_, fun _ => State.on_wr_one _ (f := DMA_RING_HALTED c) rfl⟩
    exact (State.rg_wr_other _ (f := DMA_RING_HALTED c) (Fld.key_ne_of_lo halted) 1).trans
      (w.rg_wr_other (f := DMA_RING_EN c) (Fld.key_ne_of_lo en) 0)
  · rw [if_neg halts]
    exact ⟨shown, fun h => absurd h halts⟩

/-- What leaves a channel's fields before a stop leaves what the channel shows of it. -/
theorem DmaStopped.of_kept {code : Nat} (kept : ∀ f ∈ dmaFlds c, u.rg f = s.rg f) (host : u.hostMem = s.hostMem)
    (h : DmaStopped c code u v) : DmaStopped c code s v := by
  have err : u.on (DMA_STAT_ERR c) = s.on (DMA_STAT_ERR c) := State.on_congr (kept _ (by simp [dmaFlds]))
  obtain ⟨ch, busy, shown, first, later, cons, bytes, hostMem⟩ := h
  rw [err] at first later
  rw [kept (DMA_STAT_CODE c) (by simp [dmaFlds])] at later
  rw [kept (DMA_CONS_INDEX c) (by simp [dmaFlds]), kept (DMA_RING_SIZE c) (by simp [dmaFlds])] at cons
  exact ⟨ch, busy, shown, first, later, cons, bytes.trans (kept _ (by simp [dmaFlds])), hostMem.trans host⟩

theorem State.dmaEnd_failed_spec (below : c < 16) {status : Nat} (bad : status ≠ stOk) (code : status < 256) (s : State) :
    DmaStopped c status s (s.dmaEnd c status) ∧ (dCtrl (s.dmaCh c).desc 7 = true → (s.dmaEnd c status).on (DMA_RING_HALTED c)) := by
  rw [State.dmaEnd_failed s c bad]
  have ⟨stopped, halted⟩ := State.dmaFailed_spec ((s.statusBack c status).dmaClosed_spec c) (s.dmaCh c).desc code
  have noted := s.statusBack_noted c status
  exact ⟨stopped.of_kept (fun f hf => noted.field f (dmaFlds_notNoted c below f hf)) noted.hostMem, halted⟩

/-! ## Stops -/

/-- A stream that has reached its target moves no more (R352). -/
theorem State.dmaMove_reached {target : Nat} (reached : min target (s.dmaCh c).total ≤ (s.dmaCh c).done) (f : Nat) :
    s.dmaMove c target (f + 1) = (none, s) := by
  rw [State.dmaMove]
  dsimp only
  refine if_pos ?_
  split
  · left
    omega
  · right
    omega

/-- A descriptor is stopped before the bytes that it has written (R360, R362, R363). -/
theorem State.dmaStop_eq {upto status : Nat} (active : (s.dmaCh c).active = true) (written : upto ≤ (s.dmaCh c).done)
    (bad : status ≠ stOk) : s.dmaStop c upto status = s.dmaEnd c status := by
  rw [State.dmaStop, if_neg (not_not_intro active)]
  by_cases running : (s.dmaCh c).running = true
  · rw [if_neg (not_not_intro running), DmaCh.pieces, State.dmaMove_reached (by omega)]
    dsimp only
    rw [if_neg bad]
  · exact if_pos running

/-- The panic of a channel is counted and marked, no more (R333). -/
theorem State.dmaPanic_spec (s : State) (c cyc : Nat) : (∃ b, (s.dmaPanic c cyc).dmaCh c = { s.dmaCh c with panic := b }) ∧
    (∀ f : Fld, f.key ≠ DRAM_PANIC_CNT.key → (s.dmaPanic c cyc).rg f = s.rg f) ∧ (s.dmaPanic c cyc).hostMem = s.hostMem := by
  refine ite_of (P := fun u : State => (∃ b, u.dmaCh c = { s.dmaCh c with panic := b }) ∧
    (∀ f : Fld, f.key ≠ DRAM_PANIC_CNT.key → u.rg f = s.rg f) ∧ u.hostMem = s.hostMem) (fun _ => ?_) fun _ => ?_
  · exact ⟨⟨true, State.dmaCh_onDma ..⟩, fun f apart => s.rg_wr_other apart _, rfl⟩
  · exact ⟨⟨_, rfl⟩, fun _ _ => rfl, rfl⟩

/-- A channel that is not bound to a tide has no panic (R333). -/
theorem State.dmaPanic_free (free : dRt (s.dmaCh c).desc = false) (cyc : Nat) : s.dmaPanic c cyc = s :=
  if_neg (by rw [free]; simp)

theorem dmaFlds_notPanic : ∀ c < 16, ∀ f ∈ dmaFlds c, f.key ≠ DRAM_PANIC_CNT.key := by decide +kernel

/-- The panic of a channel leaves what it shows of a descriptor. -/
theorem DmaStopped.of_panic {code cyc : Nat} (below : c < 16) (h : DmaStopped c code (s.dmaPanic c cyc) v) :
    DmaStopped c code s v := by
  obtain ⟨-, field, host⟩ := s.dmaPanic_spec c cyc
  exact h.of_kept (fun f hf => field f (dmaFlds_notPanic c below f hf)) host

end Sys2Proof.Machine
end

section
/-! CERTIFICATE. DMA descriptors are posted, run and stopped (O34, R351 to R363). -/

namespace Sys2Proof.Machine

variable {s u v : State} {c : Nat} {b l : List Byte} {sa da n want : Nat}

/-! ## What the movement of a stream leaves -/

/-- The protected regions are those of their own registers (R327). -/
theorem State.protRegions_congr (kept : ∀ f : Fld, f.lo < 32 → 0x700010 ≤ f.off → f.off < 0x700050 → u.rg f = s.rg f) :
    u.protRegions = s.protRegions := by
  refine List.filterMap_congr fun i hi => ?_
  have inside := List.mem_range.1 hi
  have on : u.on (DRAM_PROT_BASE_EN i) = s.on (DRAM_PROT_BASE_EN i) := State.on_congr (kept _ (by exact (by decide : 31 < 32))
    (show 0x700010 ≤ 0x700010 + 0x8 * i by omega) (show 0x700010 + 0x8 * i < 0x700050 by omega))
  rw [on, kept (DRAM_PROT_BASE_UNIT i) (by exact (by decide : 0 < 32)) (show 0x700010 ≤ 0x700010 + 0x8 * i by omega)
    (show 0x700010 + 0x8 * i < 0x700050 by omega), kept (DRAM_PROT_SIZE_UNITS i) (by exact (by decide : 0 < 32))
    (show 0x700010 ≤ 0x700014 + 0x8 * i by omega) (show 0x700014 + 0x8 * i < 0x700050 by omega)]

/-- The fields that a channel writes as it moves its stream or takes a descriptor. -/
def moveFlds (c : Nat) : List Fld := [DMA_BYTES c, DMA_STAT_HALF c, DMA_STAT_BUSY c, DRAM_RD_BYTES, DRAM_WR_BYTES]

/-- From `s` to `u` a channel has moved bytes: beside the fields above, the memory and the channel, nothing that mapping, error
marks or fields read has changed. -/
structure Moving (c : Nat) (s u : State) : Prop where
  field : ∀ f : Fld, f.key ∉ (moveFlds c).map Fld.key → u.rg f = s.rg f
  ecc : u.ecc = s.ecc
  fac : u.fac = s.fac

namespace Moving

theorem refl (s : State) : Moving c s s := ⟨fun _ _ => rfl, rfl, rfl⟩

theorem keep (h : Moving c s u) (regs : v.regs = u.regs) (ecc : v.ecc = u.ecc) (fac : v.fac = u.fac) : Moving c s v :=
  ⟨fun f hf => (State.rg_congr regs f).trans (h.field f hf), ecc.trans h.ecc, fac.trans h.fac⟩

theorem wr (h : Moving c s u) {f : Fld} (hf : f ∈ moveFlds c) (x : Nat) : Moving c s (u.wr f x) :=
  ⟨fun g hg => (u.rg_wr_other (g := g) (f := f) (fun same => hg (same ▸ List.mem_map_of_mem hf)) x).trans (h.field g hg), h.ecc, h.fac⟩

theorem flag (h : Moving c s u) {f : Fld} (hf : f ∈ moveFlds c) (en : Fld) (x : Nat) : Moving c s (u.flag f en x) := by
  obtain ⟨p, o, same⟩ := u.flag_eq f en x
  rw [same]
  exact (h.wr hf 1).keep rfl rfl rfl

/-- The protected regions are none of these fields: what is mapped stays (R23, R327). -/
theorem inDram (h : Moving c s u) (below : c < 16) (x k : Nat) : u.inDram x k = s.inDram x k := by
  have kept (f : Fld) (low : f.lo < 32) (first : 0x700010 ≤ f.off) (last : f.off < 0x700050) : u.rg f = s.rg f := by
    refine h.field f ?_
    simp only [moveFlds, List.map_cons, List.map_nil, List.mem_cons, List.not_mem_nil, or_false, not_or, Fld.key, DMA_BYTES,
      DMA_STAT_HALF, DMA_STAT_BUSY, DRAM_RD_BYTES, DRAM_WR_BYTES]
    omega
  rw [State.inDram, State.dramTop, State.dramSize, h.fac, State.protRegions_congr kept, State.inDram, State.dramTop, State.dramSize]

end Moving

/-! ## Accesses without error marks -/

theorem State.unitMarks_clean (clean : s.ecc = []) (x k : Nat) : s.unitMarks x k = [] := by
  rw [State.unitMarks, clean]
  rfl

theorem State.dramWrite_clean (clean : s.ecc = []) (port x : Nat) (l : List Byte) :
    s.dramWrite port x l = (s.st x l).bump DRAM_WR_BYTES l.length := by
  have kept (f : Nat × Nat → Bool) : s.ecc.filter f = s.ecc := by
    rw [clean]
    rfl
  rw [State.dramWrite]
  simp only [State.unitMarks_clean clean, List.foldl_nil, kept]

/-! ## A descriptor of one line -/

/-- A descriptor that copies one line of `n` bytes inside DRAM from `sa` to `da` (R351). -/
structure OneLine (b : List Byte) (sa da n : Nat) : Prop where
  src : dSaddr b = sa
  dst : dDaddr b = da
  srcLow : sa < 2 ^ 48
  dstLow : da < 2 ^ 48
  sline : dSline b = n
  slines : dSlines b = 1
  dline : dDline b = n
  some : 0 < n
  fits : n ≤ 4096
  srcDram : dramBase ≤ sa
  dstDram : dramBase ≤ da
  free : dRt b = false
  plain : dGather b = false

/-- A channel that runs descriptor `b`. -/
def streamCh (b : List Byte) (done : Nat) (half : Bool) (hold : List Byte) : DmaCh :=
  { active := true, running := true, desc := b, done := done, half := half, hold := hold }

theorem bit_beyond {x i : Nat} (low : x < 2 ^ i) : bit x i = false := by
  rw [bit, Nat.div_eq_of_lt low]
  rfl

namespace OneLine

theorem total (h : OneLine b sa da n) (done : Nat) (half : Bool) (hold : List Byte) : (streamCh b done half hold).total = n := by
  have lines : (streamCh b done half hold).total = dSline b * (if dGather b then 0 else dSlines b) := rfl
  rw [lines, h.plain, h.sline, h.slines]
  exact Nat.mul_one n

theorem internal (h : OneLine b sa da n) : bit (dSaddr b) 63 = false ∧ bit (dDaddr b) 63 = false := by
  rw [h.src, h.dst]
  exact ⟨bit_beyond (Nat.lt_of_lt_of_le h.srcLow (by decide)), bit_beyond (Nat.lt_of_lt_of_le h.dstLow (by decide))⟩

theorem srcLine (h : OneLine b sa da n) (done : Nat) (half : Bool) (hold : List Byte) :
    (streamCh b done half hold).srcLine 0 = (sa : Int) := by
  have line : (streamCh b done half hold).srcLine 0 = ((dSaddr b % 2 ^ 63 : Nat) : Int) +
    (((if dGather b then 0 else 0) : Nat) : Int) * dSstride b := by
    rw [DmaCh.srcLine]
    show _ + (((if dGather b then _ else 0) : Nat) : Int) * dSstride b = _
    rw [h.plain]
    rfl
  rw [line, h.src, Nat.mod_eq_of_lt (Nat.lt_of_lt_of_le h.srcLow (by decide)), h.plain]
  simp

theorem dstLine (h : OneLine b sa da n) (done : Nat) (half : Bool) (hold : List Byte) :
    (streamCh b done half hold).dstLine 0 = (da : Int) := by
  rw [DmaCh.dstLine]
  show ((dDaddr b % 2 ^ 63 : Nat) : Int) + (((if dGather b then _ else 0) : Nat) : Int) * dDstride b = _
  rw [h.dst, Nat.mod_eq_of_lt (Nat.lt_of_lt_of_le h.dstLow (by decide)), h.plain]
  simp

end OneLine

/-- A line that lies in mapped DRAM passes the checks (R133, R362). -/
theorem State.lineBad_inside {x : Nat} (inside : u.inDram x n) (low : dramBase ≤ x) (write : Bool) (stride : Int) :
    u.lineBad write false (x : Int) n stride = none := by
  have ok : u.lineCheck write (x : Int) n stride = .ok := by
    rw [State.lineCheck, if_neg (by omega)]
    dsimp only
    rw [Int.toNat_natCast, if_pos low, if_pos inside]
  rw [State.lineBad, ok]
  rfl

/-- A line in DRAM is not made of rows (R24, R361). -/
theorem byRows_dram {x : Nat} (low : dramBase ≤ x) : byRows false (x : Int) = false := by
  simp only [byRows, Bool.not_false, Bool.true_and, decide_eq_false_iff_not]
  omega

/-- What a read puts into the holding register. -/
def DmaCh.took (l : List Byte) (ch : DmaCh) : DmaCh := { ch with hold := ch.hold ++ l }

/-- What a write takes out of it. -/
def DmaCh.wrote (k : Nat) (ch : DmaCh) : DmaCh := { ch with done := ch.done + k, hold := ch.hold.drop k }

theorem State.dmaFill_line (line : OneLine b sa da n) (ch : u.dmaCh c = streamCh b 0 false []) (clean : u.ecc = [])
    (mapped : u.inDram sa n) (some : 0 < want) (part : want ≤ n) : u.dmaFill c want =
    (none, ((u.touch sa want).bump DRAM_RD_BYTES want).onDma c (DmaCh.took (u.ld sa want))) := by
  have first : (streamCh b 0 false []).done + (streamCh b 0 false []).hold.length = 0 := rfl
  have piece : min (n - 0) (min want (max 1 ((streamCh b 0 false []).ahead - (streamCh b 0 false []).hold.length))) = want := by
    have room : (streamCh b 0 false []).ahead - (streamCh b 0 false []).hold.length = 4096 := rfl
    have fits := line.fits
    rw [room]
    omega
  have desc : (streamCh b 0 false []).desc = b := rfl
  have read : (u.touch sa want).dramRead 24 sa want = ((u.ld sa want, false), (u.touch sa want).bump DRAM_RD_BYTES want) :=
    State.dramRead_unmarked (State.unitMarks_clean (s := u.touch sa want) clean ..) 24
  rw [State.dmaFill, ch]
  dsimp only
  rw [first, desc, line.sline, Nat.zero_mod, Nat.zero_div, if_pos rfl, line.internal.1, line.srcLine,
    State.lineBad_inside mapped line.srcDram]
  dsimp only
  rw [byRows_dram line.srcDram, if_neg (by decide), piece, State.dmaRead, Int.toNat_natCast, Nat.add_zero,
    if_neg (by decide), if_pos line.srcDram]
  dsimp only
  rw [read]
  rfl

theorem State.dmaEmpty_line (line : OneLine b sa da n) (ch : u.dmaCh c = streamCh b 0 false l) (clean : u.ecc = [])
    (mapped : u.inDram da n) (len : l.length = want) : u.dmaEmpty c want =
    (none, (((((u.touch da want).st da l).bump DRAM_WR_BYTES want).bump (DMA_BYTES c) want).onDma c (DmaCh.wrote want)).dmaHalf c) := by
  have desc : (streamCh b 0 false l).desc = b := rfl
  have done : (streamCh b 0 false l).done = 0 := rfl
  have held : (streamCh b 0 false l).hold.take want = l := List.take_of_length_le (Nat.le_of_eq len)
  have lineLen : dmaDl b = n := by rw [dmaDl, line.plain, line.dline]; rfl
  have stored : (u.touch da want).dramWrite 24 da l = ((u.touch da want).st da l).bump DRAM_WR_BYTES want := by
    rw [State.dramWrite_clean (s := u.touch da want) clean, len]
  rw [State.dmaEmpty, ch, desc, done, lineLen, Nat.zero_mod, Nat.zero_div, if_pos rfl, line.internal.2, line.dstLine,
    State.lineBad_inside mapped line.dstDram, held]
  dsimp only
  rw [State.dmaWrite, Int.toNat_natCast, Nat.add_zero, if_neg (by decide), if_pos line.dstDram, len, stored]
  rfl

/-- The half of a stream shows once it has been written (R359). -/
structure LineMoved (c : Nat) (b : List Byte) (da want : Nat) (l : List Byte) (s : State) (half : Bool) (u : State) : Prop where
  moving : Moving c s u
  ch : u.dmaCh c = streamCh b want half []
  shown : half = true → u.on (DMA_STAT_HALF c)
  mem : u.mem = (s.st da l).mem
  bytes : u.rg (DMA_BYTES c) = (s.rg (DMA_BYTES c) + want) % 2 ^ 64

/-- The half is flagged once, when it is asked for and reached. -/
theorem LineMoved.dmaHalf {half : Bool} (h : LineMoved c b da want l s half u) : ∃ half', LineMoved c b da want l s half' (u.dmaHalf c) ∧
    (dCtrl b 0 = true → ceilDiv (streamCh b want half []).total 2 ≤ want → half' = true) := by
  obtain ⟨moving, ch, shown, mem, bytes⟩ := h
  by_cases waits : (u.dmaCh c).half = true ∨ ¬ dCtrl (u.dmaCh c).desc 0 = true ∨ (u.dmaCh c).done < ceilDiv (u.dmaCh c).total 2
  · rw [State.dmaHalf, if_pos waits]
    refine ⟨half, ⟨moving, ch, shown, mem, bytes⟩, fun asked reached => ?_⟩
    rw [ch] at waits
    rcases waits with old | none | early
    · exact old
    · exact absurd asked none
    · exact absurd reached (Nat.not_le.2 early)
  · rw [State.dmaHalf, if_neg waits]
    have marked := u.dmaCh_onDma c fun ch => { ch with half := true }
    have quiet : Moving c s (u.onDma c fun ch => { ch with half := true }) := moving.keep rfl rfl rfl
    refine ⟨true, ⟨quiet.flag (by simp [moveFlds]) _ _, ?_, fun _ => (State.flag_spec _ (ev := DMA_STAT_HALF c) rfl ..).1,
      (State.flag_mem ..).trans mem, ?_⟩, fun _ _ => rfl⟩
    · rw [State.dmaCh, State.flag_dma]
      refine marked.trans ?_
      rw [ch]
      rfl
    · exact (State.rg_flag (g := DMA_BYTES c) (Fld.key_ne_of_lo (by exact (by decide : 0 ≠ 31))) ..).trans bytes

/-- The state in which one piece of a line has been read and written. -/
def State.pieceMoved (u : State) (c sa da want : Nat) : State :=
  (((((((u.touch sa want).bump DRAM_RD_BYTES want).onDma c (DmaCh.took (u.ld sa want))).touch da want).st da (u.ld sa want)).bump
    DRAM_WR_BYTES want).bump (DMA_BYTES c) want).onDma c (DmaCh.wrote want)

theorem State.pieceMoved_spec (ch : s.dmaCh c = streamCh b 0 false []) (sa da want : Nat) :
    LineMoved c b da want (s.ld sa want) s false (s.pieceMoved c sa da want) := by
  have written := State.dmaCh_onDma (((((((s.touch sa want).bump DRAM_RD_BYTES want).onDma c (DmaCh.took (s.ld sa want))).touch da want).st
    da (s.ld sa want)).bump DRAM_WR_BYTES want).bump (DMA_BYTES c) want) c (DmaCh.wrote want)
  have read := State.dmaCh_onDma ((s.touch sa want).bump DRAM_RD_BYTES want) c (DmaCh.took (s.ld sa want))
  have len : (s.ld sa want).length = want := length_bytes ..
  have moved : Moving c s (s.pieceMoved c sa da want) := by
    have start : Moving c s (s.touch sa want) := (Moving.refl s).keep rfl rfl rfl
    have taken := start.wr (f := DRAM_RD_BYTES) (by simp [moveFlds]) ((s.touch sa want).rg DRAM_RD_BYTES + want)
    have stored : Moving c s ((((((s.touch sa want).bump DRAM_RD_BYTES want).onDma c (DmaCh.took (s.ld sa want))).touch da want).st
      da (s.ld sa want))) := taken.keep rfl rfl rfl
    exact ((stored.wr (f := DRAM_WR_BYTES) (by simp [moveFlds]) _).wr (f := DMA_BYTES c) (by simp [moveFlds]) _).keep rfl rfl rfl
  refine ⟨moved, ?_, fun h => absurd h Bool.false_ne_true, rfl, ?_⟩
  · refine written.trans ?_
    have held : DmaCh.wrote want (DmaCh.took (s.ld sa want) (s.dmaCh c)) = streamCh b want false [] := by
      rw [ch]
      have none : (s.ld sa want).drop want = [] := List.drop_of_length_le (Nat.le_of_eq len)
      simp [DmaCh.wrote, DmaCh.took, streamCh, none]
    exact (congrArg (DmaCh.wrote want) read).trans held
  · have apart : (DMA_BYTES c).key ≠ DRAM_RD_BYTES.key ∧ (DMA_BYTES c).key ≠ DRAM_WR_BYTES.key := by
      simp only [ne_eq, Fld.key, DMA_BYTES, DRAM_RD_BYTES, DRAM_WR_BYTES]
      omega
    refine (State.rg_bump_same _ (DMA_BYTES c) want).trans ?_
    have before : ((((((s.touch sa want).bump DRAM_RD_BYTES want).onDma c (DmaCh.took (s.ld sa want))).touch da want).st
        da (s.ld sa want)).bump DRAM_WR_BYTES want).rg (DMA_BYTES c) = s.rg (DMA_BYTES c) :=
      (State.rg_wr_other _ (f := DRAM_WR_BYTES) apart.2 _).trans (State.rg_wr_other (s.touch sa want) (f := DRAM_RD_BYTES) apart.1 _)
    exact congrArg (fun x => (x + want) % 2 ^ 64) before

/-! ## The movement of one line -/

/-- One step of the movement of a line in DRAM: a read while nothing is held, then a write of what is held (R352, R353). -/
theorem State.dmaMove_piece (line : OneLine b sa da n) (ch : s.dmaCh c = streamCh b 0 false l) (some : 0 < want) (part : want ≤ n)
    (f : Nat) : s.dmaMove c want (f + 1) =
    match (if min want l.length = 0 ∨ l.length < min want l.length then s.dmaFill c (want - l.length)
      else s.dmaEmpty c (min want l.length)) with
    | (.some e, s) => (.some e, s.onDma c fun ch => { ch with hold := [] })
    | (none, s) => s.dmaMove c want f := by
  have desc : (streamCh b 0 false l).desc = b := rfl
  have done : (streamCh b 0 false l).done = 0 := rfl
  have held : (streamCh b 0 false l).hold = l := rfl
  have target : min want (streamCh b 0 false l).total = want := by
    rw [line.total]
    omega
  have lineLen : dmaDl b = n := by rw [dmaDl, line.plain, line.dline]; rfl
  have piece : min (n - 0) (want - 0) = want := by omega
  rw [State.dmaMove, ch]
  dsimp only
  rewrite [target, desc, done, held, lineLen, Nat.zero_mod, Nat.zero_div, line.internal.2, line.dstLine, byRows_dram line.dstDram,
    if_neg Bool.false_ne_true, piece, if_neg (by omega), if_neg Bool.false_ne_true, Nat.sub_zero]
  rfl

theorem State.dmaMove_line (line : OneLine b sa da n) (ch : s.dmaCh c = streamCh b 0 false []) (clean : s.ecc = [])
    (below : c < 16) (source : s.inDram sa n) (dest : s.inDram da n) (some : 0 < want) (part : want ≤ n) (f : Nat) :
    s.dmaMove c want (f + 3) = (none, (s.pieceMoved c sa da want).dmaHalf c) := by
  have len : (s.ld sa want).length = want := length_bytes ..
  have read := State.dmaCh_onDma ((s.touch sa want).bump DRAM_RD_BYTES want) c (DmaCh.took (s.ld sa want))
  have held : (((s.touch sa want).bump DRAM_RD_BYTES want).onDma c (DmaCh.took (s.ld sa want))).dmaCh c =
      streamCh b 0 false (s.ld sa want) := read.trans (congrArg (DmaCh.took (s.ld sa want)) ch)
  have stays : Moving c s (((s.touch sa want).bump DRAM_RD_BYTES want).onDma c (DmaCh.took (s.ld sa want))) := by
    have start : Moving c s (s.touch sa want) := (Moving.refl s).keep rfl rfl rfl
    exact (start.wr (f := DRAM_RD_BYTES) (by simp [moveFlds]) ((s.touch sa want).rg DRAM_RD_BYTES + want)).keep rfl rfl rfl
  obtain ⟨half, moved, -⟩ := (State.pieceMoved_spec ch sa da want).dmaHalf
  have empty := State.dmaEmpty_line line held (stays.ecc.trans clean) ((stays.inDram below da n).trans dest) len
  rw [State.dmaMove_piece line ch some part, if_pos (.inl (Nat.min_zero want)), List.length_nil, Nat.sub_zero,
    State.dmaFill_line line ch clean source some part]
  dsimp only
  rw [State.dmaMove_piece line held some part, len, Nat.min_self, if_neg (by omega), empty]
  refine State.dmaMove_reached ?_ f
  show min want ((s.pieceMoved c sa da want).dmaHalf c |>.dmaCh c).total ≤ (((s.pieceMoved c sa da want).dmaHalf c).dmaCh c).done
  rw [moved.ch]
  exact Nat.min_le_left ..

/-! ## The start of a descriptor (R356, R357) -/

/-- The channel takes descriptor `b`. -/
def State.dmaTaken (s : State) (c : Nat) (b : List Byte) : State :=
  ((s.wr (DMA_STAT_BUSY c) 1).bump DRAM_RD_BYTES 64).onDma c fun ch => { ch with active := true, desc := b }

theorem State.dmaTaken_moving (s : State) (c : Nat) (b : List Byte) : Moving c s (s.dmaTaken c b) :=
  (((Moving.refl s).wr (f := DMA_STAT_BUSY c) (by simp [moveFlds]) 1).wr (f := DRAM_RD_BYTES) (by simp [moveFlds]) _).keep rfl rfl rfl

theorem State.dmaTaken_ch (idle : s.dmaCh c = {}) (b : List Byte) : (s.dmaTaken c b).dmaCh c = { active := true, desc := b } :=
  (State.dmaCh_onDma ..).trans (congrArg (fun ch : DmaCh => { ch with active := true, desc := b }) idle)

theorem State.dmaStart_takes {a : Nat} (idle : s.dmaCh c = {}) (enabled : s.on (DMA_RING_EN c))
    (work : s.rg (DMA_PROD_INDEX c) ≠ s.rg (DMA_CONS_INDEX c)) (below : c < 16) (clean : s.ecc = [])
    (place : a = s.rg (DMA_BASE_ADDR c) + 64 * s.rg (DMA_CONS_INDEX c)) (inside : s.inDram a 64) (read : s.ld a 64 = b)
    (formed : dmaFieldsOk b) (free : dRt b = false) (cyc : Nat) : s.dmaStart c cyc = (s.dmaTaken c b).dmaBegin c := by
  subst place
  have busy : Moving c s (s.wr (DMA_STAT_BUSY c) 1) := (Moving.refl s).wr (by simp [moveFlds]) 1
  have mapped := (busy.inDram below (s.rg (DMA_BASE_ADDR c) + 64 * s.rg (DMA_CONS_INDEX c)) 64).trans inside
  have bytes := State.dramRead_unmarked (State.unitMarks_clean (s := s.wr (DMA_STAT_BUSY c) 1) clean
    (s.rg (DMA_BASE_ADDR c) + 64 * s.rg (DMA_CONS_INDEX c) - dramBase) 64) 24
  have found : (s.wr (DMA_STAT_BUSY c) 1).ld (s.rg (DMA_BASE_ADDR c) + 64 * s.rg (DMA_CONS_INDEX c)) 64 = b := read
  rw [found] at bytes
  have taken : ((s.wr (DMA_STAT_BUSY c) 1).bump DRAM_RD_BYTES 64).onDma c (fun ch => { ch with active := true, desc := b }) =
      s.dmaTaken c b := rfl
  have calm : dRt ((s.dmaTaken c b).dmaCh c).desc = false := by
    rw [State.dmaTaken_ch idle]
    exact free
  rw [State.dmaStart, idle, if_neg Bool.false_ne_true, if_neg (not_or.2 ⟨not_not_intro enabled, work⟩)]
  dsimp only
  rw [if_neg (not_not_intro mapped), bytes]
  dsimp only
  rw [taken, if_neg Bool.false_ne_true, if_neg (not_not_intro formed), State.dmaPanic_free calm]

/-- The descriptor of a channel runs: how far reads lead the writes is free where they may overlap (R353). -/
def State.dmaRun (s : State) (c : Nat) : State :=
  let s := s.onDma c fun ch => { ch with running := true, list := [] }
  if (s.dmaCh c).overlaps then
    let f := s.free
    f.2.onDma c fun ch => { ch with ahead := 1 + f.1 % 4096 }
  else s

/-- A descriptor that waits for no tide and lists no lines runs unless it waits for its flag (R356). -/
theorem State.dmaBegin_plain {ch : DmaCh} (taken : s.dmaCh c = ch) (free : dRt ch.desc = false) (plain : dGather ch.desc = false) :
    s.dmaBegin c = if dCtrl ch.desc 4 ∧ ¬ bit (s.rg (TFLAG_STATE_FLAGS (leAt ch.desc 40 1))) (leAt ch.desc 41 1) then s
      else s.dmaRun c := by
  rw [State.dmaBegin, taken]
  dsimp only
  rw [free, plain, if_neg (fun h => Bool.false_ne_true h.1), if_neg (fun h => Bool.false_ne_true h.1)]
  rfl

theorem State.dmaRun_spec {ch : DmaCh} (taken : s.dmaCh c = ch) : (s.dmaRun c).regs = s.regs ∧ (s.dmaRun c).mem = s.mem ∧
    ∃ ahead, (s.dmaRun c).dmaCh c = { ch with running := true, list := [], ahead := ahead } := by
  have run := (s.dmaCh_onDma c fun ch => { ch with running := true, list := [] }).trans
    (congrArg (fun ch : DmaCh => { ch with running := true, list := [] }) taken)
  refine ite_of (P := fun u : State => u.regs = s.regs ∧ u.mem = s.mem ∧
    ∃ ahead, u.dmaCh c = { ch with running := true, list := [], ahead := ahead }) (fun _ => ⟨rfl, rfl, ?_⟩) fun _ => ⟨rfl, rfl, _, run⟩
  generalize (s.onDma c fun ch => { ch with running := true, list := [] }) = u at run ⊢
  exact ⟨1 + u.free.1 % 4096, (u.free.2.dmaCh_onDma c fun ch => { ch with ahead := 1 + u.free.1 % 4096 }).trans
    (congrArg (fun x : DmaCh => { x with ahead := 1 + u.free.1 % 4096 }) run)⟩

/-- A terrace's flags are none of the fields that the taking of a descriptor writes. -/
theorem tflag_notMoved (c t : Nat) : (TFLAG_STATE_FLAGS t).key ∉ (moveFlds c).map Fld.key := by
  simp only [moveFlds, List.map_cons, List.map_nil, List.mem_cons, List.not_mem_nil, or_false, not_or, Fld.key, DMA_BYTES,
    DMA_STAT_HALF, DMA_STAT_BUSY, DRAM_RD_BYTES, DRAM_WR_BYTES, TFLAG_STATE_FLAGS, terBase]
  omega

/-- The busy bit of a channel whose descriptor has been taken. -/
theorem State.dmaTaken_busy (s : State) (c : Nat) (b : List Byte) : (s.dmaTaken c b).on (DMA_STAT_BUSY c) :=
  (State.on_congr (State.rg_wr_other (s.wr (DMA_STAT_BUSY c) 1) (f := DRAM_RD_BYTES) (g := DMA_STAT_BUSY c)
    (Fld.key_ne_of_lo (by exact (by decide : 27 ≠ 0))) _)).trans (s.on_wr_one (f := DMA_STAT_BUSY c) rfl)

/-- Where the start of a descriptor leaves its channel (R356, R357). -/
theorem State.dmaStart_spec (idle : s.dmaCh c = {}) (free : dRt b = false) (plain : dGather b = false) {u : State}
    (went : u = (s.dmaTaken c b).dmaBegin c) : u.on (DMA_STAT_BUSY c) ∧ u.mem = s.mem ∧ (u.dmaCh c).active = true ∧
      (u.dmaCh c).desc = b ∧ (u.dmaCh c).done = 0 ∧ ((u.dmaCh c).running = true ↔
        dCtrl b 4 = false ∨ bit (s.rg (TFLAG_STATE_FLAGS (leAt b 40 1))) (leAt b 41 1) = true) := by
  have flags := (s.dmaTaken_moving c b).field _ (tflag_notMoved c (leAt b 40 1))
  have busy := s.dmaTaken_busy c b
  have mem : (s.dmaTaken c b).mem = s.mem := rfl
  rw [State.dmaBegin_plain (State.dmaTaken_ch idle b) free plain, flags] at went
  have ch := State.dmaTaken_ch idle b
  generalize s.dmaTaken c b = v at went busy mem ch
  by_cases waits : dCtrl b 4 = true ∧ ¬ bit (s.rg (TFLAG_STATE_FLAGS (leAt b 40 1))) (leAt b 41 1) = true
  · rw [if_pos waits] at went
    subst went
    rw [ch]
    refine ⟨busy, mem, rfl, rfl, rfl, fun run => absurd run Bool.false_ne_true, fun ready => ?_⟩
    rcases ready with unflagged | set
    · exact absurd waits.1 (by rw [unflagged]; exact Bool.false_ne_true)
    · exact absurd set waits.2
  · rw [if_neg waits] at went
    obtain ⟨regs, same, ahead, run⟩ := State.dmaRun_spec ch
    rw [went, run]
    refine ⟨(State.on_congr (State.rg_congr regs _)).trans busy, same.trans mem, rfl, rfl, rfl, fun _ => ?_, fun _ => rfl⟩
    by_cases flagged : dCtrl b 4 = true
    · exact .inr (by_contra fun unset => waits ⟨flagged, unset⟩)
    · exact .inl (Bool.not_eq_true _ ▸ flagged)

/-! ## The end of a descriptor (R358, R359) -/

/-- A flag that a descriptor sets is none of the module's registers below the terraces. -/
theorem State.dmaSignalled_spec (v : State) (d : List Byte) (status : Nat) : (v.dmaSignalled d status).dma.chs = v.dma.chs ∧
    (v.dmaSignalled d status).mem = v.mem ∧
    ∀ f : Fld, f.lo < 32 → f.off < 0x1000000 → (v.dmaSignalled d status).rg f = v.rg f := by
  refine ite_of (P := fun u : State => u.dma.chs = v.dma.chs ∧ u.mem = v.mem ∧ ∀ f : Fld, f.lo < 32 → f.off < 0x1000000 → u.rg f = v.rg f)
    (fun _ => ⟨rfl, rfl, fun _ _ _ => rfl⟩) fun _ => ?_
  refine ite_of (P := fun u : State => u.dma.chs = v.dma.chs ∧ u.mem = v.mem ∧ ∀ f : Fld, f.lo < 32 → f.off < 0x1000000 → u.rg f = v.rg f)
    (fun _ => ⟨rfl, rfl, fun _ _ _ => rfl⟩) fun _ => ?_
  refine ite_of (P := fun u : State => u.dma.chs = v.dma.chs ∧ u.mem = v.mem ∧ ∀ f : Fld, f.lo < 32 → f.off < 0x1000000 → u.rg f = v.rg f)
    (fun _ => ⟨rfl, rfl, fun _ _ _ => rfl⟩) fun _ => ⟨rfl, rfl, fun f low below => ?_⟩
  refine State.rg_wr_other _ (f := TFLAG_STATE_FLAGS _) (Fld.key_ne_of_off low (by exact (by decide : 0 < 32)) ?_) _
  show f.off ≠ 0x1000000 + leAt d 38 1 * 0x200000 + 0x180000 + 0x100
  omega

/-- What a channel shows of a descriptor that ended with OK. -/
structure DmaDone (c : Nat) (s u : State) : Prop where
  ch : u.dmaCh c = {}
  busy : u.on (DMA_STAT_BUSY c) = false
  cons : u.rg (DMA_CONS_INDEX c) = (s.rg (DMA_CONS_INDEX c) + 1) % 2 ^ s.rg (DMA_RING_SIZE c) % 2 ^ 12
  bytes : u.rg (DMA_BYTES c) = s.rg (DMA_BYTES c)
  done : u.rg (DMA_DONE c) = (s.rg (DMA_DONE c) + 1) % 2 ^ 64

/-- The flag of a descriptor's end and its interrupt leave what the channel shows. -/
theorem DmaClosed.signalled (h : DmaClosed c s v) (below : c < 16) (d : List Byte) (status : Nat) :
    DmaDone c s (v.dmaSignalled d status) ∧ (v.dmaSignalled d status).mem = s.mem := by
  obtain ⟨chs, mem, field⟩ := v.dmaSignalled_spec d status
  have bytes : v.rg (DMA_BYTES c) = s.rg (DMA_BYTES c) := by
    apply h.field <;> simp only [ne_eq, Fld.key, DMA_BYTES, DMA_CONS_INDEX, DMA_STAT_BUSY, DMA_DONE] <;> omega
  have ch : (v.dmaSignalled d status).dmaCh c = v.dmaCh c := by rw [State.dmaCh, chs, State.dmaCh]
  have place (o : Nat) (small : o < 0x100) : 0x500100 + o + 0x40 * c < 0x1000000 := by omega
  refine ⟨⟨ch.trans h.ch, ?_, ?_, ?_, ?_⟩, mem.trans h.mem⟩
  · exact (State.on_congr (field (DMA_STAT_BUSY c) (by exact (by decide : 27 < 32)) (place 0x14 (by decide)))).trans h.busy
  · exact (field (DMA_CONS_INDEX c) (by exact (by decide : 0 < 32)) (place 0x10 (by decide))).trans h.cons
  · exact (field (DMA_BYTES c) (by exact (by decide : 0 < 32)) (place 0x20 (by decide))).trans bytes
  · exact (field (DMA_DONE c) (by exact (by decide : 0 < 32)) (place 0x28 (by decide))).trans h.done

theorem DmaDone.flag (h : DmaDone c s u) (en : Fld) (x : Nat) : DmaDone c s (u.flag (DMA_STAT_FULL c) en x) := by
  have kept {f : Fld} (other : f.lo % 32 ≠ 30) : (u.flag (DMA_STAT_FULL c) en x).rg f = u.rg f :=
    State.rg_flag (Fld.key_ne_of_lo other) ..
  have ch : (u.flag (DMA_STAT_FULL c) en x).dmaCh c = u.dmaCh c := by rw [State.dmaCh, State.flag_dma, State.dmaCh]
  exact ⟨ch.trans h.ch, (State.on_congr (kept (by exact (by decide : 27 ≠ 30)))).trans h.busy,
    (kept (f := DMA_CONS_INDEX c) (by exact (by decide : 0 ≠ 30))).trans h.cons,
    (kept (f := DMA_BYTES c) (by exact (by decide : 0 ≠ 30))).trans h.bytes,
    (kept (f := DMA_DONE c) (by exact (by decide : 0 ≠ 30))).trans h.done⟩

theorem State.dmaEnd_ok_spec (s : State) (below : c < 16) :
    DmaDone c s (s.dmaEnd c stOk) ∧ (s.dmaEnd c stOk).mem = (s.statusBack c stOk).mem := by
  have noted := s.statusBack_noted c stOk
  have kept {f : Fld} (hf : f ∈ dmaFlds c) : (s.statusBack c stOk).rg f = s.rg f := noted.field f (dmaFlds_notNoted c below f hf)
  obtain ⟨shown, mem⟩ := ((s.statusBack c stOk).dmaClosed_spec c).signalled below (s.dmaCh c).desc stOk
  have here (u : State) (h : DmaDone c (s.statusBack c stOk) u) : DmaDone c s u := by
    obtain ⟨ch, busy, cons, bytes, done⟩ := h
    rw [kept (f := DMA_CONS_INDEX c) (by simp [dmaFlds]), kept (f := DMA_RING_SIZE c) (by simp [dmaFlds])] at cons
    rw [kept (f := DMA_BYTES c) (by simp [dmaFlds])] at bytes
    rw [kept (f := DMA_DONE c) (by simp [dmaFlds])] at done
    exact ⟨ch, busy, cons, bytes, done⟩
  rw [State.dmaEnd_eq]
  dsimp only
  rw [if_pos rfl]
  exact ite_of (P := fun u : State => DmaDone c s u ∧ u.mem = (s.statusBack c stOk).mem)
    (fun _ => ⟨here _ (shown.flag ..), (State.flag_mem ..).trans mem⟩) fun _ => ⟨here _ shown, mem⟩

/-- The status that a descriptor's end writes back, in a ring without error marks (R358). -/
theorem State.statusBack_mem {a : Nat} (clean : s.ecc = []) (place : a = s.rg (DMA_BASE_ADDR c) + 64 * s.rg (DMA_CONS_INDEX c))
    (inside : s.inDram a 64) (status : Nat) : ∃ l : List Byte, l.length = 19 ∧
      (s.statusBack c status).mem = s.mem.store (a + 44) (natLE 1 status ++ l) := by
  subst place
  refine ⟨zeros 3 ++ s.stamp.bytes, ?_, ?_⟩
  · simp [zeros, Stamp.bytes, length_natLE]
  · rw [State.statusBack, if_pos inside, State.dramWrite_clean clean, List.append_assoc]
    rfl

/-! ## Halves and ends of one line -/

theorem dmaFlds_notMoved : ∀ c < 16, ∀ f ∈ [DMA_BASE_ADDR c, DMA_CONS_INDEX c, DMA_RING_SIZE c, DMA_DONE c],
    f.key ∉ (moveFlds c).map Fld.key := by decide +kernel

theorem ceilDiv_half (some : 0 < n) : 0 < ceilDiv n 2 ∧ ceilDiv n 2 ≤ n := by
  rw [ceilDiv, if_neg (by decide)]
  omega

/-- A descriptor of one line that runs in a channel, with source and destination mapped. -/
structure LineRuns (s : State) (c : Nat) (b : List Byte) (sa da n : Nat) : Prop where
  line : OneLine b sa da n
  ch : s.dmaCh c = streamCh b 0 false []
  clean : s.ecc = []
  below : c < 16
  source : s.inDram sa n
  dest : s.inDram da n

namespace LineRuns

theorem calm (h : LineRuns s c b sa da n) (cyc : Nat) : s.dmaPanic c cyc = s :=
  State.dmaPanic_free (by rw [h.ch]; exact h.line.free) cyc

theorem moves (h : LineRuns s c b sa da n) (some : 0 < want) (part : want ≤ n) :
    s.dmaMove c want (s.dmaCh c).pieces = (none, (s.pieceMoved c sa da want).dmaHalf c) := by
  have fuel : (s.dmaCh c).pieces = 2 * n - 1 + 3 := by
    have more := h.line.some
    rw [h.ch, DmaCh.pieces, h.line.total]
    omega
  rw [fuel]
  exact State.dmaMove_line h.line h.ch h.clean h.below h.source h.dest some part _

theorem dmaToHalf (h : LineRuns s c b sa da n) (cyc : Nat) : ∃ half, LineMoved c b da (ceilDiv n 2) (s.ld sa (ceilDiv n 2)) s half
    (s.dmaToHalf c cyc) ∧ (dCtrl b 0 = true → half = true) := by
  obtain ⟨some, part⟩ := ceilDiv_half h.line.some
  have desc : (streamCh b 0 false []).desc = b := rfl
  have target : (s.dmaCh c).halfAt = ceilDiv n 2 := by
    rw [h.ch, DmaCh.halfAt, h.line.total, desc, h.line.internal.2, h.line.dstLine, byRows_dram h.line.dstDram]
    rfl
  have runs : (s.dmaCh c).active = true ∧ (s.dmaCh c).running = true := by
    rw [h.ch]
    exact ⟨rfl, rfl⟩
  have went : s.dmaToHalf c cyc = (s.pieceMoved c sa da (ceilDiv n 2)).dmaHalf c := by
    rw [State.dmaToHalf, h.calm, if_neg (not_not_intro runs), target, h.moves some part]
  rw [went]
  obtain ⟨half, moved, reached⟩ := (State.pieceMoved_spec h.ch sa da (ceilDiv n 2)).dmaHalf
  exact ⟨half, moved, fun asked => reached asked (by rw [h.line.total])⟩

theorem dmaFinish (h : LineRuns s c b sa da n) (cyc upto : Nat) : ∃ half e, LineMoved c b da n (s.ld sa n) s half e ∧
    s.dmaFinish c cyc 0 upto = e.dmaEnd c stOk := by
  obtain ⟨half, moved, -⟩ := (State.pieceMoved_spec h.ch sa da n).dmaHalf
  obtain ⟨half', moved', -⟩ := moved.dmaHalf
  have total : (s.dmaCh c).total = n := by rw [h.ch, h.line.total]
  have runs : (s.dmaCh c).active = true ∧ (s.dmaCh c).running = true := by
    rw [h.ch]
    exact ⟨rfl, rfl⟩
  have went := h.moves h.line.some (Nat.le_refl n)
  refine ⟨half', _, moved', ?_⟩
  rw [State.dmaFinish, h.calm, if_neg (not_not_intro runs), if_pos (.inl rfl), total, State.dmaStop, if_neg (not_not_intro runs.1),
    if_neg (not_not_intro runs.2), went]
  dsimp only
  rw [if_pos rfl]

end LineRuns

/-- A piece of a line in memory: the bytes read, where they were to go, and nothing else. -/
theorem LineMoved.stored {half : Bool} (h : LineMoved c b da want (s.ld sa want) s half u) :
    u.ld da want = s.ld sa want ∧ ∀ k, k < da ∨ da + want ≤ k → u.mem.get k 0#8 = s.mem.get k 0#8 := by
  have len : (s.ld sa want).length = want := length_bytes ..
  have whole := s.ld_st da (s.ld sa want)
  rw [len] at whole
  refine ⟨?_, fun k out => ?_⟩
  · rw [State.ld, h.mem]
    exact whole
  · rw [h.mem]
    exact s.st_outside da (s.ld sa want) k (by rw [len]; exact out)

/-- The end of a line: its bytes, the status in the ring, and nothing else in memory (R358). -/
theorem LineMoved.ended {half : Bool} {a : Nat} (h : LineMoved c b da n (s.ld sa n) s half u) (below : c < 16) (clean : s.ecc = [])
    (place : a = s.rg (DMA_BASE_ADDR c) + 64 * s.rg (DMA_CONS_INDEX c)) (inside : s.inDram a 64)
    (apart : a + 64 ≤ da ∨ da + n ≤ a) {v : State} (mem : v.mem = (u.statusBack c stOk).mem) :
    v.ld da n = s.ld sa n ∧ v.ldN (a + 44) 1 = stOk ∧
      ∀ k, (k < da ∨ da + n ≤ k) → (k < a ∨ a + 64 ≤ k) → v.mem.get k 0#8 = s.mem.get k 0#8 := by
  have kept {f : Fld} (hf : f ∈ [DMA_BASE_ADDR c, DMA_CONS_INDEX c, DMA_RING_SIZE c, DMA_DONE c]) : u.rg f = s.rg f :=
    h.moving.field f (dmaFlds_notMoved c below f hf)
  have place' : a = u.rg (DMA_BASE_ADDR c) + 64 * u.rg (DMA_CONS_INDEX c) := by
    rw [kept (by simp), kept (by simp)]
    exact place
  obtain ⟨l, len, back⟩ := State.statusBack_mem (h.moving.ecc.trans clean) place' ((h.moving.inDram below a 64).trans inside) stOk
  have long : (natLE 1 stOk ++ l).length = 20 := by rw [List.length_append, length_natLE, len]
  rw [back] at mem
  have outside (k : Nat) (out : k < a + 44 ∨ a + 64 ≤ k) : v.mem.get k 0#8 = u.mem.get k 0#8 := by
    rw [mem]
    exact KMap.get_store_outside (natLE 1 stOk ++ l) u.mem (a + 44) k (by omega)
  obtain ⟨whole, other⟩ := h.stored
  refine ⟨?_, ?_, fun k dest ring => (outside k (by omega)).trans (other k dest)⟩
  · exact (KMap.bytes_congr fun k low high => outside k (by omega)).trans whole
  · have status := KMap.bytes_store_part u.mem (a + 44) [] (natLE 1 stOk) l
    rw [State.ldN, State.ld, mem]
    refine (congrArg leNat status).trans ?_
    rw [leNat_natLE]
    rfl

/-! ## The obligation -/

/-- Settles O34: a PROD write by the ring's places; a descriptor by its taking and the two steps, read and write, of its one
line; a stop by the one way in which a descriptor ends with an error. -/
theorem dmaDescriptors : Obligations.DmaDescriptors := by
  unfold Obligations.DmaDescriptors
  refine ⟨fun s c v => ⟨fun fits => ?_, fun full => ?_⟩, fun s c cyc b => ?_, fun s c upto => ?_⟩
  · have went := State.dmaProd_posts (s := s) (c := c.val) (v := v.toNat) rfl rfl
    rw [if_neg (Nat.not_le.2 fits)] at went
    refine ⟨_, congrArg (fun u : State => (.next u : Res)) went, ?_, State.onlyRegs_wr (s.onlyRegs_refl _) (by simp) _⟩
    have low : v.toNat % 2 ^ s.rg (DMA_RING_SIZE c.val) < 2 ^ 12 := Nat.lt_of_le_of_lt (Nat.mod_le ..) v.isLt
    exact (s.rg_wr_same (DMA_PROD_INDEX c.val) _).trans (Nat.mod_eq_of_lt low)
  · have went := State.dmaProd_posts (s := s) (c := c.val) (v := v.toNat) rfl rfl
    rw [if_pos full] at went
    exact ⟨_, congrArg (fun u : State => (.next u : Res)) went, s.on_wr_one (f := DMA_STAT_ERR_RING c.val) rfl,
      State.onlyRegs_wr (s.onlyRegs_refl _) (by simp) _⟩
  · intro a clean free plain
    refine ⟨?_, ?_⟩
    · intro idle enabled work inside read formed
      exact ⟨_, rfl, State.dmaStart_spec idle free plain
        (State.dmaStart_takes idle enabled work c.isLt clean rfl inside read formed free cyc.toNat)⟩
    · intro sa da n runs src dst srcLow dstLow sline slines dline dlines some fits srcDram dstDram source dest
      have line : OneLine b sa da n := ⟨src, dst, srcLow, dstLow, sline, slines, dline, some, fits, srcDram, dstDram, free, plain⟩
      have lineRuns : LineRuns s c.val b sa da n := ⟨line, runs, clean, c.isLt, source, dest⟩
      refine ⟨?_, fun inside apart upto => ?_⟩
      · obtain ⟨half, moved, asked⟩ := lineRuns.dmaToHalf cyc.toNat
        obtain ⟨stored, other⟩ := moved.stored
        refine ⟨_, rfl, by rw [moved.ch]; rfl, stored, fun wanted => moved.shown (asked wanted), ?_, other⟩
        exact moved.moving.field _ (dmaFlds_notMoved c.val c.isLt _ (by simp))
      · obtain ⟨half, e, moved, went⟩ := lineRuns.dmaFinish cyc.toNat upto.toNat
        have kept {f : Fld} (hf : f ∈ [DMA_BASE_ADDR c.val, DMA_CONS_INDEX c.val, DMA_RING_SIZE c.val, DMA_DONE c.val]) :
            e.rg f = s.rg f := moved.moving.field f (dmaFlds_notMoved c.val c.isLt f hf)
        obtain ⟨⟨idle, busy, cons, bytes, done⟩, mem⟩ := e.dmaEnd_ok_spec c.isLt
        obtain ⟨stored, status, other⟩ := moved.ended c.isLt clean rfl inside apart mem
        rw [kept (f := DMA_CONS_INDEX c.val) (by simp), kept (f := DMA_RING_SIZE c.val) (by simp)] at cons
        rw [kept (f := DMA_DONE c.val) (by simp)] at done
        exact ⟨_, congrArg (fun u : State => (.next u : Res)) went, idle, stored, status, busy, cons, bytes.trans moved.bytes, done, other⟩
  · intro ch ended active written
    refine ⟨fun rt tide => ?_, fun running host => ?_, ?_⟩
    · obtain ⟨⟨panic, marked⟩, -, -⟩ := s.dmaPanic_spec c.val (s.rg TIDE_TMIN_T_MIN - 512)
      have stop := State.dmaStop_eq (s := s.dmaPanic c.val (s.rg TIDE_TMIN_T_MIN - 512)) (c := c.val) (upto := upto.toNat)
        (status := stTimeout) (by rw [marked]; exact active) (by rw [marked]; exact written) (by decide)
      obtain ⟨stopped, halted⟩ := State.dmaEnd_failed_spec c.isLt (status := stTimeout) (by decide) (by decide)
        (s.dmaPanic c.val (s.rg TIDE_TMIN_T_MIN - 512))
      rw [marked] at halted
      obtain ⟨idle, busy, err, first, later, cons, bytes, hostMem⟩ := stopped.of_panic c.isLt
      refine ⟨_, (if_pos ⟨active, rt, tide⟩).trans (congrArg (fun u : State => (.next u : Res)) stop), idle, busy, err, first, later, cons,
        bytes, halted, hostMem⟩
    · obtain ⟨⟨idle, busy, err, first, later, cons, bytes, hostMem⟩, halted⟩ := State.dmaEnd_failed_spec c.isLt (status := stTimeout)
        (by decide) (by decide) s
      exact ⟨_, (if_pos ⟨active, running, host⟩).trans (congrArg (fun u : State => (.next u : Res))
        (State.dmaStop_eq active written (by decide))), idle, busy, err, first, later, cons, bytes, halted, hostMem⟩
    · obtain ⟨stopped, halted⟩ := State.dmaEnd_failed_spec c.isLt (status := stCancelled) (by decide) (by decide) s
      have stop := State.dmaStop_eq (s := s) (c := c.val) (upto := upto.toNat) (status := stCancelled) active written (by decide)
      obtain ⟨idle, busy, err, first, later, cons, bytes, hostMem⟩ := stopped.ringBits (v := (s.dmaEnd c.val stCancelled).wr
        (DMA_RING_EN c.val) 0) rfl rfl fun f en _ => State.rg_wr_other _ (f := DMA_RING_EN c.val) (Fld.key_ne_of_lo en) 0
      refine ⟨_, congrArg (fun u : State => (.next (u.wr (DMA_RING_EN c.val) 0) : Res)) stop, ⟨idle, busy, err, first, later, cons, bytes,
        fun asks => ?_, hostMem⟩, State.on_wr_b2n _ (f := DMA_RING_EN c.val) rfl false⟩
      exact (State.on_congr (State.rg_wr_other _ (f := DMA_RING_EN c.val) (Fld.key_ne_of_lo (by exact (by decide : 30 ≠ 31))) 0)).trans
        (halted asks)

end Sys2Proof.Machine
end

section
/-! CERTIFICATE. LOAD stores a package that passes every check (O29, R281 to R286, R294, R297, R464). -/

namespace Sys2Proof.Machine

variable {s s1 u : State} {q : Nat} {e : List Byte} {p : Pkg} {k : KeyEnt} {l : List Built} {need : Nat}

/-! ## The package read -/

/-- From `s` to `u` an entry has been taken and its package read: address errors and the bytes of packages counted, no more. -/
structure LoadRead (s u : State) : Prop where
  field : ∀ f : Fld, f.key ∉ addrErrKeys → f.key ≠ WL_BYTES.key → u.rg f = s.rg f
  queues : u.fw.queues = s.fw.queues
  rest : u.unerred = s.unerred

namespace LoadRead

theorem of_taken (taken : s.takeOp 1 = some (q, e, s1)) (paddr n : Nat) : LoadRead s ((s1.spaceErr paddr n).bump WL_BYTES n) := by
  obtain ⟨field, queues, rest⟩ := (AddrErred.takeOp taken).spaceErr paddr n
  exact ⟨fun f err bytes => (State.rg_wr_other _ (f := WL_BYTES) bytes _).trans (field f err), queues, rest⟩

section
variable (h : LoadRead s u)
include h

theorem pool : u.pool = s.pool := (congrArg State.pool h.rest :)

theorem loader : u.loader = s.loader := (congrArg State.loader h.rest :)

theorem mem : u.mem = s.mem := (congrArg State.mem h.rest :)

theorem ef : u.ef = s.ef := (congrArg State.ef h.rest :)

theorem fac : u.fac = s.fac := (congrArg State.fac h.rest :)

/-- A field that begins at another bit than those written reads as before. -/
theorem rg_of_lo {f : Fld} (hf : f.lo % 32 ≠ 0 ∧ f.lo % 32 ≠ 3) : u.rg f = s.rg f :=
  h.field f (by simpa [addrErrKeys] using ⟨Fld.key_ne_of_lo hf.1, Fld.key_ne_of_lo hf.2⟩) (Fld.key_ne_of_lo (g := WL_BYTES) hf.1)

/-- A field of another word than those written reads as before. -/
theorem rg_of_off {f : Fld} (low : f.lo < 32) (off : f.off ≠ 0xd00040 ∧ f.off ≠ 0xd00000 ∧ f.off ≠ 0x400010) : u.rg f = s.rg f :=
  h.field f (notMem_addrErrKeys low off.1 off.2.1) (Fld.key_ne_of_off low (by decide) off.2.2)

theorem feature (i : Nat) : u.feature i = s.feature i := by
  rw [State.feature, h.rg_of_off (by decide) (by decide), State.feature]

theorem key? (id : Nat) : u.key? id = s.key? id := by
  rw [State.key?, State.level, h.ef, h.fac, State.key?, State.level]

theorem oldPages (p : Pkg) : u.oldPages p = s.oldPages p := by
  rw [State.oldPages, h.pool, State.oldPages]

theorem protFree : u.protFree = s.protFree := by
  have regions : u.protRegions = s.protRegions := State.protRegions_congr fun f low first last => h.rg_of_off low (by omega)
  simp only [State.protFree, State.dramTop, State.dramSize, State.protectedAt, State.pageFree, regions, h.pool, h.fac]

theorem ceilOk (clients : List Nat) : u.ceilOk clients = s.ceilOk clients := by
  have ceil (c : Nat) : u.rg (TIER_CLIENT_CEIL c) = s.rg (TIER_CLIENT_CEIL c) := by
    refine h.rg_of_off (by exact (by decide : 0 < 32)) ?_
    show 0x600108 + 0x20 * c ≠ 0xd00040 ∧ 0x600108 + 0x20 * c ≠ 0xd00000 ∧ 0x600108 + 0x20 * c ≠ 0x400010
    omega
  simp only [State.ceilOk, State.held, ceil, h.pool]
  rfl

theorem freeClient : u.freeClient = s.freeClient := by
  have enabled (c : Nat) : u.on (TIER_CLIENT_CTRL_EN c) = s.on (TIER_CLIENT_CTRL_EN c) :=
    State.on_congr (h.rg_of_lo (by exact (by decide : 31 ≠ 0 ∧ 31 ≠ 3)))
  simp only [State.freeClient, enabled]

theorem valid (i : Nat) : u.on (WL_ADP_VALID i) = s.on (WL_ADP_VALID i) :=
  State.on_congr (h.rg_of_lo (by exact (by decide : 31 ≠ 0 ∧ 31 ≠ 3)))

theorem replaceBad (p : Pkg) : u.replaceBad p = s.replaceBad p := by
  have current (i : Nat) : u.on (WL_ADP_CURRENT i) = s.on (WL_ADP_CURRENT i) :=
    State.on_congr (h.rg_of_lo (by exact (by decide : 30 ≠ 0 ∧ 30 ≠ 3)))
  have aid (i : Nat) : u.rg (WL_ADP_AID i) = s.rg (WL_ADP_AID i) := h.rg_of_lo (by exact (by decide : 20 ≠ 0 ∧ 20 ≠ 3))
  have aver (i : Nat) : u.rg (WL_ADP_AVER i) = s.rg (WL_ADP_AVER i) := h.rg_of_lo (by exact (by decide : 14 ≠ 0 ∧ 14 ≠ 3))
  simp only [State.replaceBad, h.valid, current, aid, aver, h.pool]

theorem bindBad (p : Pkg) (inplace : Bool) : u.bindBad p inplace = s.bindBad p inplace := by
  simp only [State.bindBad, h.pool, h.loader]

theorem stamp : u.stamp = s.stamp :=
  State.stamp_of_flds fun f hf => h.field f ((by decide : ∀ f ∈ stampFlds, f.key ∉ addrErrKeys) f hf)
    ((by decide : ∀ f ∈ stampFlds, f.key ≠ WL_BYTES.key) f hf)

end
end LoadRead

/-! ## The checks passed -/

/-- Whether a model of a package's name is stored, no adapter (R294). -/
def State.modelStored (s : State) (p : Pkg) : Bool := s.pool.models.any fun m => m.modelId == p.modelId && m.adp.isNone

/-- Whether a LOAD replaces in place (R294). -/
def inplaceOf (e : List Byte) : Bool := bit (leAt e 1 1) 0

/-- A LOAD entry whose package passes every check, with room for `need` pages (R281, R286, R294, R297, R299). -/
structure LoadPasses (s : State) (e : List Byte) (p : Pkg) (k : KeyEnt) (l : List Built) (need : Nat) : Prop where
  flags : leAt e 1 1 < 2
  reserved : allZero (slice e 2 6)
  tail : allZero (slice e 32 32)
  early : p.early (leAt e 24 8) = none
  feature : p.adapter → s.feature 2
  key : s.key? p.keyid = some k
  built : p.buildAll k.key = .ok l
  pages : need = if inplaceOf e then p.need.1 + p.need.2 - s.oldPages p else p.need.1 + p.need.2
  room : need ≤ s.rg TIER_FREE
  prot : ¬ inplaceOf e → p.need.1 ≤ s.protFree
  adpCeil : p.adapter → s.ceilOk (List.replicate need 2)
  modelCeil : ¬ p.adapter → ∀ m ∈ s.pool.models, m.modelId = p.modelId → m.adp = none → s.ceilOk (List.replicate need m.client)
  entry : p.adapter → ∃ i < 64, ¬ s.on (WL_ADP_VALID i)
  client : ¬ p.adapter → ¬ s.modelStored p → s.freeClient.isSome
  replace : s.replaceBad p = false
  bind : s.bindBad p (inplaceOf e) = false

theorem LoadPasses.read (h : LoadPasses s e p k l need) (read : LoadRead s u) : LoadPasses u e p k l need := by
  obtain ⟨flags, reserved, tail, early, feature, key, built, pages, room, prot, adpCeil, modelCeil, entry, client, replace, bind⟩ := h
  have stored : u.modelStored p = s.modelStored p := by rw [State.modelStored, read.pool, State.modelStored]
  refine ⟨flags, reserved, tail, early, ?_, ?_, built, ?_, ?_, ?_, ?_, ?_, ?_, ?_, ?_, ?_⟩
  · rwa [read.feature]
  · rwa [read.key?]
  · rwa [read.oldPages]
  · rwa [read.rg_of_off (by decide) (by decide)]
  · rwa [read.protFree]
  · rwa [read.ceilOk]
  · rw [read.pool]
    simpa only [read.ceilOk] using modelCeil
  · simpa only [read.valid] using entry
  · rwa [stored, read.freeClient]
  · rwa [read.replaceBad]
  · rwa [read.bindBad]

/-- With room enough nothing is evicted (R312). -/
theorem State.makeRoom_enough {n h : Nat} (room : n ≤ s.rg TIER_FREE) (prot : h ≤ s.protFree) (f : Nat) : s.makeRoom n h f = some s := by
  cases f with
  | zero => exact if_pos ⟨room, prot⟩
  | succ f => exact if_pos ⟨room, prot⟩

/-- The place of a package's client among those that the limits concern: the adapters' own, or that of the model stored. -/
def State.loadClient (s : State) (p : Pkg) : Option Nat :=
  if p.adapter then some 2 else (s.pool.models.find? fun m => m.modelId == p.modelId && m.adp.isNone).map fun m => m.client

theorem LoadPasses.admitted (h : LoadPasses s e p k l need) :
    ¬ ((if p.adapter then (List.range 64).all fun i => s.on (WL_ADP_VALID i) else !s.modelStored p && s.freeClient.isNone) = true ∨
      (s.loadClient p).any (fun c => !s.ceilOk (List.replicate need c)) = true) := by
  rintro (noEntry | full)
  · by_cases adapter : p.adapter = true
    · obtain ⟨i, below, free⟩ := h.entry adapter
      rw [if_pos adapter, List.all_eq_true] at noEntry
      exact free (noEntry i (List.mem_range.2 below))
    · rw [if_neg adapter, Bool.and_eq_true, Bool.not_eq_true', Option.isNone_iff_eq_none] at noEntry
      have some := h.client adapter (by rw [noEntry.1]; exact Bool.false_ne_true)
      rw [noEntry.2] at some
      exact absurd some (by decide)
  · cases client : s.loadClient p with
    | none =>
      rw [client] at full
      exact absurd full Bool.false_ne_true
    | some c =>
      have fits : s.ceilOk (List.replicate need c) = true := by
        by_cases adapter : p.adapter = true
        · rw [State.loadClient, if_pos adapter, Option.some.injEq] at client
          exact client ▸ h.adpCeil adapter
        · rw [State.loadClient, if_neg adapter, Option.map_eq_some_iff] at client
          obtain ⟨m, found, rfl⟩ := client
          have named := List.find?_some found
          rw [Bool.and_eq_true, beq_iff_eq, Option.isNone_iff_eq_none] at named
          exact h.modelCeil adapter m (List.mem_of_find?_eq_some found) named.1 named.2
      rw [client, Option.any_some, fits] at full
      exact absurd full (by decide)

/-- The state after the reading of a package (R281). -/
def State.packageRead (s : State) (e : List Byte) : State := (s.spaceErr (leAt e 8 8) (leAt e 24 8)).bump WL_BYTES (leAt e 24 8)

/-- A LOAD that waits for its barrier joins those that wait (R294). -/
def State.addInplace (s : State) (i : InPlace) : State :=
  ({ s with loader := { s.loader with inplace := s.loader.inplace ++ [i] } } : State).wlShow

theorem State.load_passes (taken : s.takeOp 1 = some (q, e, s1)) (package : p = Pkg.of (s1.ldSpace (leAt e 8 8) (leAt e 24 8)))
    (h : LoadPasses (s1.packageRead e) e p k l need) : s.load =
    if inplaceOf e ∧ (s1.packageRead e).modelStored p ∧ ¬ p.adapter then
      ((s1.packageRead e).useKey p.keyid).addInplace
        { q := q, tag := leAt e 16 8, pkg := p.b, modelId := p.modelId, layers := p.recs.map LRec.layer }
    else ((s1.packageRead e).useKey p.keyid).commitLoad q (leAt e 16 8) p l := by
  obtain ⟨flags, reserved, tail, early, feature, key, built, pages, room, prot, adpCeil, modelCeil, entry, client, replace, bind⟩ := h
  have formed : ¬ (2 ≤ leAt e 1 1 ∨ ¬ allZero (slice e 2 6) ∨ ¬ allZero (slice e 32 32)) := by
    rintro (h | h | h)
    exacts [Nat.not_le.2 flags h, h reserved, h tail]
  have agreed : ¬ (p.adapter ∧ ¬ (s1.packageRead e).feature 2) := fun h => h.2 (feature h.1)
  have admitted := (LoadPasses.mk flags reserved tail early feature key built pages room prot adpCeil modelCeil entry client replace bind).admitted
  have enough := State.makeRoom_enough (s := s1.packageRead e) (n := need) (h := if inplaceOf e then 0 else p.need.1) room
    (by split; exacts [Nat.zero_le _, prot ‹_›]) (s1.packageRead e).pool.pages.length
  have read : (s1.spaceErr (leAt e 8 8) (leAt e 24 8)).bump WL_BYTES (leAt e 24 8) = s1.packageRead e := rfl
  rw [State.load, taken]
  dsimp only
  rw [if_neg formed, ← package, read, early]
  dsimp only
  rw [if_neg agreed, key]
  dsimp only
  rw [inplaceOf] at pages enough bind
  rw [← pages, enough]
  dsimp only
  rw [State.loadClient, State.modelStored] at admitted
  rw [if_neg admitted, replace, if_neg Bool.false_ne_true, bind, if_neg Bool.false_ne_true, built]
  rfl

/-! ## Pages put into the pool -/

/-- The registers that the storing of pages writes beside those that notes of errors write. -/
def shelfKeys : List Nat := [WL_SLOTS.key, TIER_QUEUE_PAGES.key]

/-- From `a` to `s` pages have been dropped and stored: the loader, the queues of completions and the models stand. -/
structure Shelved (a s : State) : Prop where
  field : ∀ f : Fld, f.key ∉ noteKeys → f.key ∉ shelfKeys → s.rg f = a.rg f
  loader : s.loader = a.loader
  queues : s.fw.queues = a.fw.queues
  models : s.pool.models = a.pool.models

namespace Shelved

variable {a : State}

theorem refl (a : State) : Shelved a a := ⟨fun _ _ _ => rfl, rfl, rfl, rfl⟩

theorem keep (h : Shelved a s) (regs : u.regs = s.regs) (loader : u.loader = s.loader) (fw : u.fw = s.fw)
    (models : u.pool.models = s.pool.models) : Shelved a u :=
  ⟨fun f note shelf => (State.rg_congr regs f).trans (h.field f note shelf), loader.trans h.loader,
    (congrArg Fw.queues fw).trans h.queues, models.trans h.models⟩

theorem noted (h : Shelved a s) (n : Noted s u) : Shelved a u :=
  ⟨fun f note shelf => (n.field f note).trans (h.field f note shelf), (congrArg (fun x : State => x.loader) n.rest :).trans h.loader,
    (congrArg (fun x : State => x.fw.queues) n.rest :).trans h.queues,
    (congrArg (fun x : State => x.pool.models) n.rest :).trans h.models⟩

theorem wr (h : Shelved a s) {f : Fld} (hf : f.key ∈ shelfKeys) (v : Nat) : Shelved a (s.wr f v) :=
  ⟨fun g note shelf => (s.rg_wr_other (g := g) (f := f) (fun same => shelf (same ▸ hf)) v).trans (h.field g note shelf), h.loader,
    h.queues, h.models⟩

theorem dropPages (h : Shelved a s) (f : PageRec → Bool) : Shelved a (s.dropPages f) := by
  unfold State.dropPages
  dsimp only
  refine noted (wr (f := TIER_QUEUE_PAGES) ?_ (by decide) _) (Noted.refl _).books
  exact h.keep rfl rfl rfl rfl

/-- Pages stored for a client: free pages written through the DRAM, one after the other (R282, R286). -/
theorem storePages (h : Shelved a s) (client key ver : Nat) (prot : Bool) (idx n : Nat) (b : List Byte) :
    Shelved a (s.storePages client key ver prot idx n b) := by
  unfold State.storePages
  refine foldl_of (P := fun r : Bool × State => Shelved a r.2) h fun r i kept => ?_
  refine ite_of (P := fun r : Bool × State => Shelved a r.2) (fun _ => ?_) fun _ => kept
  have page : Shelved a (r.2.freePage prot).2 := kept.keep rfl rfl rfl rfl
  split
  next x none =>
    rw [none] at page
    exact page
  next pg x found =>
    rw [found] at page
    exact (page.noted ((Noted.refl x).dramWrite 26 (pg * 65536) _)).keep rfl rfl rfl rfl

end Shelved

/-- Every layer of `done` is a layer of the model, in the version of the package. -/
def Model.holds (m : Model) (p : Pkg) (done : List Built) : Prop := ∀ x ∈ done, ∃ y ∈ m.layers, y.layer = x.rcd.layer ∧ y.ver = p.tver

/-- A layer joins a model in place of the one of its version (R282, R323). -/
def Model.withLayer (p : Pkg) (x : Built) (m : Model) : Model :=
  { m with layers := (m.layers.filter fun l => !(l.layer == x.rcd.layer && l.ver == p.tver)) ++ [x.layer p] }

theorem Model.holds.withLayer {m : Model} {done : List Built} (h : m.holds p done) (x : Built) :
    (m.withLayer p x).holds p (done ++ [x]) := by
  have new : x.layer p ∈ (m.withLayer p x).layers := List.mem_append_right _ (List.mem_singleton_self _)
  intro z hz
  rcases List.mem_append.1 hz with old | last
  · obtain ⟨y, member, number, version⟩ := h z old
    by_cases same : z.rcd.layer = x.rcd.layer
    · exact ⟨x.layer p, new, same.symm, rfl⟩
    · refine ⟨y, List.mem_append_left _ (List.mem_filter.2 ⟨member, ?_⟩), number, version⟩
      simp [number, same]
  · rw [List.mem_singleton.1 last]
    exact ⟨x.layer p, new, rfl, rfl⟩

/-- The layers `done` of a package have been stored for model `m` since `a`. -/
structure Storing (p : Pkg) (m : Model) (done : List Built) (a s : State) : Prop where
  field : ∀ f : Fld, f.key ∉ noteKeys → f.key ∉ shelfKeys → s.rg f = a.rg f
  loader : s.loader = a.loader
  queues : s.fw.queues = a.fw.queues
  model : ∃ x ∈ s.pool.models, x.handle = m.handle ∧ x.modelId = m.modelId ∧ x.adp = m.adp ∧ x.holds p done

theorem Storing.storeLayer {m : Model} {done : List Built} {a : State} (h : Storing p m done a s) (x : Built) :
    Storing p m (done ++ [x]) a (s.storeLayer m p x) := by
  unfold State.storeLayer
  extract_lets key s2 s3 s4
  have shelved : Shelved s s4 := (((Shelved.refl s).dropPages _).storePages ..).storePages ..
  obtain ⟨field, loader, queues, y, member, handle, modelId, adp, holds⟩ := h
  refine ⟨fun f note shelf => ?_, shelved.loader.trans loader, shelved.queues.trans queues, y.withLayer p x, ?_, handle, modelId, adp,
    holds.withLayer x⟩
  · refine (State.rg_wr_other _ (f := WL_SLOTS) (fun same => shelf ?_) _).trans ((shelved.field f note shelf).trans (field f note shelf))
    rw [same]
    exact List.mem_cons_self
  · exact List.mem_map.2 ⟨y, shelved.models ▸ member, if_pos handle⟩

theorem Storing.all {m : Model} {a : State} (l : List Built) : ∀ {done : List Built} {s : State}, Storing p m done a s →
    Storing p m (done ++ l) a (l.foldl (fun s x => s.storeLayer m p x) s) := by
  induction l with
  | nil =>
    intro done s h
    rw [List.append_nil]
    exact h
  | cons x l ih =>
    intro done s h
    have rest := ih (h.storeLayer x)
    rw [List.append_assoc] at rest
    exact rest

/-! ## The model that a package goes to -/

/-- The model record of a package: stored, of its name, an adapter or none, with the loader, completions and stamps as before. -/
structure ModelChosen (s : State) (p : Pkg) (m : Model) (u : State) : Prop where
  member : m ∈ u.pool.models
  modelId : m.modelId = p.modelId
  adapter : m.adp.isSome = p.adapter
  entry : ∀ i, m.adp = some i → i < 64
  loader : u.loader = s.loader
  queues : u.fw.queues = s.fw.queues
  stamp : u.stamp = s.stamp

/-- A new model record for a package. -/
def State.freshModel (s : State) (p : Pkg) (client : Nat) (adp : Option Nat) : Model :=
  { handle := s.pool.nextHandle, client := client, modelId := p.modelId, keyid := p.keyid, name := p.name, adp := adp }

/-- The state with a new model record. -/
def State.addModel (s : State) (m : Model) : State :=
  { s with pool := { s.pool with models := s.pool.models ++ [m], nextHandle := s.pool.nextHandle + 1 } }

theorem State.modelFor_eq (s : State) (p : Pkg) : s.modelFor p =
    if p.adapter then ((List.range 64).find? fun e => !s.on (WL_ADP_VALID e)).map fun e =>
      (s.freshModel p 2 (some e), s.addModel (s.freshModel p 2 (some e)))
    else match s.pool.models.find? fun m => m.modelId == p.modelId && m.adp.isNone with
      | some m => some (m, s)
      | none => s.freeClient.map fun c => (s.freshModel p c none, (s.addModel (s.freshModel p c none)).register c 3) := by
  unfold State.modelFor
  dsimp only
  refine if_congr Iff.rfl ?_ ?_
  · cases (List.range 64).find? fun e => !s.on (WL_ADP_VALID e) <;> rfl
  · cases s.pool.models.find? fun m => m.modelId == p.modelId && m.adp.isNone with
    | some m => rfl
    | none => cases s.freeClient <;> rfl

theorem State.modelFor_some (entry : p.adapter → ∃ i < 64, ¬ s.on (WL_ADP_VALID i))
    (client : ¬ p.adapter → ¬ s.modelStored p → s.freeClient.isSome) :
    ∃ m u, s.modelFor p = some (m, u) ∧ ModelChosen s p m u := by
  rw [State.modelFor_eq]
  by_cases adapter : p.adapter = true
  · rw [if_pos adapter]
    cases found : (List.range 64).find? fun e => !s.on (WL_ADP_VALID e) with
    | none =>
      obtain ⟨i, below, free⟩ := entry adapter
      exact absurd (List.find?_eq_none.1 found i (List.mem_range.2 below)) (by simp [free])
    | some i =>
      refine ⟨_, _, rfl, List.mem_append_right _ (List.mem_singleton_self _), rfl, adapter.symm, fun j same => ?_, rfl, rfl, rfl⟩
      rw [← Option.some.inj same]
      exact List.mem_range.1 (List.mem_of_find?_eq_some found)
  · rw [if_neg adapter]
    have plain : p.adapter = false := Bool.not_eq_true _ ▸ adapter
    cases found : s.pool.models.find? fun m => m.modelId == p.modelId && m.adp.isNone with
    | some m =>
      have named := List.find?_some found
      rw [Bool.and_eq_true, beq_iff_eq, Option.isNone_iff_eq_none] at named
      refine ⟨m, s, rfl, List.mem_of_find?_eq_some found, named.1, ?_, fun i same => ?_, rfl, rfl, rfl⟩
      · rw [named.2, plain]
        rfl
      · rw [named.2] at same
        exact absurd same (by simp)
    | none =>
      have absent : ¬ s.modelStored p = true := fun stored => by
        obtain ⟨m, member, named⟩ := List.any_eq_true.1 stored
        exact List.find?_eq_none.1 found m member named
      obtain ⟨c, free⟩ := Option.isSome_iff_exists.1 (client adapter absent)
      rw [free]
      have pool : ((s.addModel (s.freshModel p c none)).register c 3).pool = (s.addModel (s.freshModel p c none)).pool := State.wrs_pool _ _
      have fw : ((s.addModel (s.freshModel p c none)).register c 3).fw = s.fw := State.wrs_fw (s.addModel (s.freshModel p c none)) _
      have stamp := (s.addModel (s.freshModel p c none)).register_stamp (State.freeClient_lt free) 3
      refine ⟨_, _, rfl, ?_, rfl, plain.symm, fun i same => absurd same (by simp [State.freshModel]),
        State.wrs_loader (s.addModel (s.freshModel p c none)) _, congrArg Fw.queues fw, stamp⟩
      rw [pool]
      exact List.mem_append_right _ (List.mem_singleton_self _)

/-! ## The end of a LOAD -/

/-- What a step at the end of a LOAD keeps. -/
structure LoadKept (s u : State) : Prop where
  models : u.pool.models = s.pool.models
  queues : u.fw.queues = s.fw.queues
  inplace : u.loader.inplace = s.loader.inplace
  stamp : u.stamp = s.stamp

theorem LoadKept.trans {a : State} (h : LoadKept a s) (k : LoadKept s u) : LoadKept a u :=
  ⟨k.models.trans h.models, k.queues.trans h.queues, k.inplace.trans h.inplace, k.stamp.trans h.stamp⟩

theorem LoadKept.wrs (s : State) (l : List (Fld × Nat)) (apart : ∀ f ∈ stampFlds, ∀ q ∈ l, f.key ≠ q.1.key) : LoadKept s (s.wrs l) :=
  ⟨congrArg Pool.models (s.wrs_pool l), congrArg Fw.queues (s.wrs_fw l), congrArg Loader.inplace (s.wrs_loader l),
    State.stamp_of_flds fun f hf => s.rg_wrs_other l (apart f hf)⟩

theorem stampFlds_ne_adapter : ∀ f ∈ stampFlds, ∀ i < 64, f.key ≠ (WL_ADP_VALID i).key ∧ f.key ≠ (WL_ADP_CURRENT i).key ∧
    f.key ≠ (WL_ADP_AID i).key ∧ f.key ≠ (WL_ADP_AVER i).key ∧ f.key ≠ (WL_ADP_REFS i).key := by decide

/-- The other versions of an adapter are no longer current (R300). -/
def State.retireVersions (s : State) (p : Pkg) : State :=
  (List.range 64).foldl (fun s i => if s.rg (WL_ADP_AID i) = p.aid ∧ s.on (WL_ADP_VALID i) then s.wr (WL_ADP_CURRENT i) 0 else s) s

theorem State.retireVersions_kept (s : State) (p : Pkg) : LoadKept s (s.retireVersions p) := by
  have start : LoadKept s s := ⟨rfl, rfl, rfl, rfl⟩
  refine List.foldlRecOn (motive := LoadKept s) _ _ start fun u kept i hi => ?_
  refine ite_of (P := LoadKept s) (fun _ => kept.trans (LoadKept.wrs u [(WL_ADP_CURRENT i, 0)] fun f hf q member => ?_)) fun _ => kept
  rw [List.mem_singleton.1 member]
  exact (stampFlds_ne_adapter f hf i (List.mem_range.1 hi)).2.1

/-- An adapter version that becomes current: valid, current, and nothing beside the adapters' registers and their record. -/
theorem State.commitAdapter_spec (s : State) (p : Pkg) {i : Nat} (below : i < 64) : LoadKept s (s.commitAdapter p i) ∧
    (s.commitAdapter p i).on (WL_ADP_VALID i) ∧ (s.commitAdapter p i).on (WL_ADP_CURRENT i) := by
  have retired := s.retireVersions_kept p
  unfold State.commitAdapter
  rw [← State.retireVersions]
  dsimp only
  generalize s.retireVersions p = t at retired
  have seen : LoadKept t { t with loader := { t.loader with adpSeen := (p.aid, p.aver) :: t.loader.adpSeen } } := ⟨rfl, rfl, rfl, rfl⟩
  generalize ({ t with loader := { t.loader with adpSeen := (p.aid, p.aver) :: t.loader.adpSeen } } : State) = u at seen
  have apart : ([(WL_ADP_VALID i, 1), (WL_ADP_CURRENT i, 1), (WL_ADP_AID i, p.aid), (WL_ADP_AVER i, p.aver),
      (WL_ADP_REFS i, 0)].map fun q : Fld × Nat => q.1.lo % 32).Nodup := (by decide : [31, 30, 20, 14, 0].Nodup)
  refine ⟨(retired.trans seen).trans (LoadKept.wrs u _ fun f hf q member => ?_), ?_, ?_⟩
  · obtain ⟨valid, current, aid, aver, refs⟩ := stampFlds_ne_adapter f hf i below
    simp only [List.mem_cons, List.not_mem_nil, or_false] at member
    rcases member with rfl | rfl | rfl | rfl | rfl
    exacts [valid, current, aid, aver, refs]
  · rw [State.on, State.rg_wrs_of_mem (f := WL_ADP_VALID i) (v := 1) apart (by simp) u]
    rfl
  · rw [State.on, State.rg_wrs_of_mem (f := WL_ADP_CURRENT i) (v := 1) apart (by simp) u]
    rfl

/-- The status of the loader: busy while a LOAD waits for its barrier (R303). -/
theorem State.wlShow_spec (s : State) : LoadKept s s.wlShow ∧ s.wlShow.rg WL_STATUS_BUSY = b2n !s.loader.inplace.isEmpty ∧
    ∀ f : Fld, f.lo < 32 → f.off ≠ 0x400000 → s.wlShow.rg f = s.rg f := by
  have show' (busy phase layer : Nat) (one : busy < 2) {u : State}
      (went : u = s.wrs [(WL_STATUS_BUSY, busy), (WL_STATUS_PHASE, phase), (WL_STATUS_LAYER, layer)]) :
      LoadKept s u ∧ u.rg WL_STATUS_BUSY = busy ∧ ∀ f : Fld, f.lo < 32 → f.off ≠ 0x400000 → u.rg f = s.rg f := by
    subst went
    refine ⟨LoadKept.wrs s _ ?_, ?_, fun f low off => s.rg_wrs_other _ ?_⟩
    · simp only [List.forall_mem_cons]
      decide
    · exact (State.rg_wrs_of_mem (f := WL_STATUS_BUSY) (v := busy) (by exact (by decide : [31, 28, 0].Nodup)) (by simp) s).trans
        (Nat.mod_eq_of_lt one)
    · simp only [List.forall_mem_cons]
      exact ⟨Fld.key_ne_of_off low (by decide) off, Fld.key_ne_of_off low (by decide) off, Fld.key_ne_of_off low (by decide) off,
        by simp⟩
  unfold State.wlShow
  split
  next none =>
    rw [none]
    exact show' 0 0 0 (by decide) rfl
  next i rest some =>
    rw [some]
    exact show' 1 5 _ (by decide) rfl

theorem stampFlds_notNoted : ∀ f ∈ stampFlds, f.key ∉ noteKeys := by decide +kernel

theorem LoadKept.books (s : State) : LoadKept s s.books :=
  ⟨congrArg Pool.models s.books_pool, congrArg Fw.queues s.books_fw, congrArg Loader.inplace s.books_loader,
    State.stamp_of_flds fun f hf => (Noted.refl s).books.field f (stampFlds_notNoted f hf)⟩

/-- What the end of a LOAD shows: the status of the loader, and of the registers of a version what the version's commit left. -/
theorem State.loadEnd_spec (s : State) (q : Nat) (e : List Byte) {u : State} (went : u = s.wlShow.books.complete q e) :
    u.pool.models = s.pool.models ∧ u.rg WL_STATUS_BUSY = b2n !s.loader.inplace.isEmpty ∧
      ∀ i < 64, u.on (WL_ADP_VALID i) = s.on (WL_ADP_VALID i) ∧ u.on (WL_ADP_CURRENT i) = s.on (WL_ADP_CURRENT i) := by
  subst went
  obtain ⟨kept, busy, field⟩ := s.wlShow_spec
  have shown {f : Fld} (mid : f.lo % 32 ≠ 16) (high : f.lo % 32 ≠ 0) : (s.wlShow.books.complete q e).rg f = s.wlShow.rg f :=
    (State.rg_complete mid _ e).trans (State.rg_books_of_lo high _)
  refine ⟨?_, (shown (by decide) (by decide)).trans busy, fun i _ => ⟨State.on_congr ?_, State.on_congr ?_⟩⟩
  · rw [State.complete_pool, State.books_pool]
    exact kept.models
  · exact (shown (f := WL_ADP_VALID i) (by exact (by decide : 31 ≠ 16)) (by exact (by decide : 31 ≠ 0))).trans
      (field (WL_ADP_VALID i) (by exact (by decide : 31 < 32)) (show 0x400100 + 0x4 * i ≠ 0x400000 by omega))
  · exact (shown (f := WL_ADP_CURRENT i) (by exact (by decide : 30 ≠ 16)) (by exact (by decide : 30 ≠ 0))).trans
      (field (WL_ADP_CURRENT i) (by exact (by decide : 30 < 32)) (show 0x400100 + 0x4 * i ≠ 0x400000 by omega))

/-- A version that a model is, committed; another model needs no commit. -/
def State.commitModel (s : State) (p : Pkg) (m : Model) : State :=
  match m.adp with
  | some i => s.commitAdapter p i
  | none => s

theorem State.commitModel_spec (s : State) (p : Pkg) {m : Model} (entry : ∀ i, m.adp = some i → i < 64) :
    LoadKept s (s.commitModel p m) ∧
      ∀ i, m.adp = some i → (s.commitModel p m).on (WL_ADP_VALID i) ∧ (s.commitModel p m).on (WL_ADP_CURRENT i) := by
  unfold State.commitModel
  cases adapter : m.adp with
  | none => exact ⟨⟨rfl, rfl, rfl, rfl⟩, fun i same => absurd same (by simp)⟩
  | some i =>
    obtain ⟨kept, flags⟩ := s.commitAdapter_spec p (entry i adapter)
    refine ⟨kept, fun j same => ?_⟩
    rw [← Option.some.inj same]
    exact flags

theorem State.commitLoad_chosen {m : Model} {t : State} (chosen : s.modelFor p = some (m, t)) (q tag : Nat) (l : List Built) :
    s.commitLoad q tag p l =
      let u := ((l.foldl (fun s x => s.storeLayer m p x) t).commitModel p m).wlShow.books
      u.complete q (u.cmdCompletion 1 stOk m.handle l.length tag 0xFFFF) := by
  rw [State.commitLoad, chosen]
  rfl

/-- The package in the pool: its model, its layers and, for an adapter, its version; the entry completed (R282, R300, R464). -/
structure LoadDone (s : State) (p : Pkg) (l : List Built) (q tag : Nat) (u : State) : Prop where
  model : ∃ m ∈ u.pool.models, m.modelId = p.modelId ∧ m.adp.isSome = p.adapter ∧
    (∀ a, m.adp = some a → u.on (WL_ADP_VALID a) ∧ u.on (WL_ADP_CURRENT a)) ∧ m.holds p l ∧
    u.rg WL_STATUS_BUSY = b2n !s.loader.inplace.isEmpty ∧ s.completed u q (s.cmdCompletion 1 stOk m.handle l.length tag 0xFFFF)

theorem stampFlds_notShelf : ∀ f ∈ stampFlds, f.key ∉ shelfKeys := by decide

theorem State.commitLoad_done (entry : p.adapter → ∃ i < 64, ¬ s.on (WL_ADP_VALID i))
    (client : ¬ p.adapter → ¬ s.modelStored p → s.freeClient.isSome) (q tag : Nat) (l : List Built) :
    LoadDone s p l q tag (s.commitLoad q tag p l) := by
  obtain ⟨m, t, chosen, member, modelId, adapter, bound, loader, queues, stamp⟩ := State.modelFor_some entry client
  have start : Storing p m [] t t := ⟨fun _ _ _ => rfl, rfl, rfl, m, member, rfl, rfl, rfl, fun x hx => absurd hx List.not_mem_nil⟩
  obtain ⟨field, loader', queues', x, inside, handle, sameId, adp, holds⟩ := start.all l
  have stamp' := State.stamp_of_flds fun f hf => field f (stampFlds_notNoted f hf) (stampFlds_notShelf f hf)
  have went := State.commitLoad_chosen chosen q tag l
  generalize l.foldl (fun s x => s.storeLayer m p x) t = v at loader' queues' stamp' inside went
  obtain ⟨kept, flags⟩ := v.commitModel_spec p bound
  generalize v.commitModel p m = w at kept flags went
  obtain ⟨models, busy, entries⟩ := w.loadEnd_spec q _ went
  have closed := (w.wlShow_spec.1).trans (.books w.wlShow)
  refine ⟨x, ?_, sameId.trans modelId, ?_, fun a same => ?_, holds, ?_, ?_⟩
  · rw [models, kept.models]
    exact inside
  · rw [adp, adapter]
  · rw [adp] at same
    obtain ⟨valid, current⟩ := entries a (bound a same)
    rw [valid, current]
    exact flags a same
  · rw [busy, kept.inplace, loader', loader]
  · rw [went, handle]
    exact State.completed_complete (closed.queues.trans (kept.queues.trans (queues'.trans queues)))
      (closed.stamp.trans (kept.stamp.trans (stamp'.trans stamp))) ..

/-- The state with other keys in the embedded flash's controller. -/
def State.withKeys (s : State) (ef : Eflash) : State := { s with ef := ef }

/-- A key loaded into the engines changes those alone. -/
theorem State.useKey_eq (s : State) (id : Nat) : ∃ ef, s.useKey id = s.withKeys ef := by
  unfold State.useKey
  split
  · exact ite_of (P := fun u : State => ∃ ef, u = s.withKeys ef) (fun _ => ⟨s.ef, rfl⟩) fun _ => ⟨_, rfl⟩
  · exact ⟨s.ef, rfl⟩

/-- A completion since the package was read is one since before. -/
theorem LoadRead.completed (h : LoadRead s u) {ef : Eflash} {v : State} {op status handle value tag layer : Nat}
    (done : (u.withKeys ef).completed v q ((u.withKeys ef).cmdCompletion op status handle value tag layer)) :
    s.completed v q (s.cmdCompletion op status handle value tag layer) := by
  have queues : (u.withKeys ef).fw.queues = s.fw.queues := h.queues
  have stamp : (u.withKeys ef).stamp = s.stamp := (State.stamp_congr rfl).trans h.stamp
  rw [State.completed, queues, State.cmdCompletion, stamp] at done
  exact done

/-- A LOAD that waits shows in the loader's status and its list, nowhere else (R294, R303). -/
theorem State.addInplace_spec (s : State) (i : InPlace) : (s.addInplace i).on WL_STATUS_BUSY ∧ (s.addInplace i).pool = s.pool ∧
    (s.addInplace i).fw = s.fw ∧ (s.addInplace i).mem = s.mem ∧ (s.addInplace i).loader.inplace = s.loader.inplace ++ [i] := by
  have shown (u : State) : ∃ regs, u.wlShow = { u with regs := regs } := by
    unfold State.wlShow
    split
    · exact ⟨_, rfl⟩
    · exact ⟨_, rfl⟩
  obtain ⟨-, busy, -⟩ := State.wlShow_spec { s with loader := { s.loader with inplace := s.loader.inplace ++ [i] } }
  obtain ⟨regs, same⟩ := shown { s with loader := { s.loader with inplace := s.loader.inplace ++ [i] } }
  refine ⟨?_, ?_⟩
  · rw [State.on, State.addInplace, busy]
    simp [b2n]
  · rw [State.addInplace, same]
    exact ⟨rfl, rfl, rfl, rfl⟩

/-- Settles O29: a package that passes the checks goes to its model layer by layer, or waits for its barrier. -/
theorem packagesAreLoaded : Obligations.PackagesAreLoaded := by
  unfold Obligations.PackagesAreLoaded
  intro s s1 q e p k l tag plen inplace stored need taken flags reserved tail package early feature key built room prot adpCeil
    modelCeil entry client replace bind _
  have passes : LoadPasses s e p k l need :=
    ⟨flags, reserved, tail, early, feature, key, built, rfl, room, prot, adpCeil, modelCeil, entry, client, replace, bind⟩
  have read : LoadRead s (s1.packageRead e) := .of_taken taken ..
  have here : p = Pkg.of (s1.ldSpace (leAt e 8 8) (leAt e 24 8)) := by
    rw [(AddrErred.takeOp taken).ldSpace]
    exact package
  have after := passes.read read
  have went := State.load_passes taken here after
  have same : (s1.packageRead e).modelStored p = stored := by
    rw [State.modelStored, read.pool]
  obtain ⟨ef, keyed⟩ := (s1.packageRead e).useKey_eq p.keyid
  rw [same, keyed] at went
  constructor
  · intro commits
    rw [if_neg (show ¬ (inplaceOf e = true ∧ stored = true ∧ ¬ p.adapter = true) from commits)] at went
    obtain ⟨m, member, modelId, adapter, current, holds, busy, completed⟩ :=
      (State.commitLoad_done (s := (s1.packageRead e).withKeys ef) after.entry after.client q tag l).model
    rw [← went] at member current busy completed
    exact ⟨_, rfl, m, member, modelId, adapter, current, holds, busy.trans (congrArg (fun x : Loader => b2n !x.inplace.isEmpty) read.loader),
      read.completed completed⟩
  · intro waits
    rw [if_pos (show inplaceOf e = true ∧ stored = true ∧ ¬ p.adapter = true from waits)] at went
    obtain ⟨busy, pool, fw, mem, inplaces⟩ := State.addInplace_spec ((s1.packageRead e).withKeys ef)
      { q := q, tag := tag, pkg := p.b, modelId := p.modelId, layers := p.recs.map LRec.layer }
    rw [← went] at busy pool fw mem inplaces
    refine ⟨_, rfl, busy, pool.trans read.pool, (congrArg Fw.queues fw).trans read.queues, mem.trans read.mem, _,
      inplaces.trans (congrArg (fun x : Loader => x.inplace ++ _) read.loader), rfl, rfl, rfl, rfl⟩

end Sys2Proof.Machine
end
